-- ==== Sys2Proof/Word.lean ====
section
/-! DEFINITION. The word types of the SVZ-K4-1536 and their plainest arithmetic (00 R2, R5; 03 R33). -/

namespace Sys2Proof

/-- A 64-bit scalar register (R16). -/
abbrev Word := BitVec 64

/-- One byte of a memory. -/
abbrev Byte := BitVec 8

/-- A 512-byte vector register, counted as one little-endian value (R23). -/
abbrev VReg := BitVec 4096

/-- A 1,024-bit mask register (R16). -/
abbrev MaskReg := BitVec 1024

/-- A condition as the integer 1 or 0. -/
def Word.ofBool (c : Bool) : Word := if c then 1#64 else 0#64

/-- `sext(x, n)` of an exact value whose low `n` bits are kept (R5). -/
def sextNat (x n : Nat) : Int :=
  let v := x % 2 ^ n
  if 2 * v < 2 ^ n then (v : Int) else (v : Int) - 2 ^ n

/-- `sat(x, lo, hi)` (R5). -/
def satInt (x lo hi : Int) : Int := if x < lo then lo else if hi < x then hi else x

/-- The field `x[lo + n - 1 : lo]` of a number (R2). -/
def fieldOf (x lo n : Nat) : Nat := x / 2 ^ lo % 2 ^ n

end Sys2Proof
end

