-- ==== Sys2Proof/Syntax.lean ====
section
/-! DEFINITION. The instructions and events of spec/opcode_table.json, one constructor for each row. -/

namespace Sys2Proof

/-- A 6-bit scalar operand name (R18), one constructor for each kind of name. -/
inductive Name where
  /-- s0 to s31 -/
  | s (n : Fin 32)
  /-- m0 to m15 -/
  | m (n : Fin 16)
  /-- d1 to d8, as n + 1 -/
  | d (n : Fin 8)
  | z
  | h
  | wt
  | self
  | job
  | clk
  | msg
  /-- name 63 -/
  | rsvd
  deriving DecidableEq, Repr, Inhabited

/-- The issue gap G in clk and the switch marker S of a 32-bit instruction (R56). -/
structure Mark where
  g : Fin 4
  s : Bool
  deriving DecidableEq, Repr, Inhabited

/-- The access size SZ of format M (R62). -/
inductive Size where
  | b
  | h
  | w
  | d
  deriving DecidableEq, Repr, Inhabited

/-- The element type T of format V (R63, R112). -/
inductive VT where
  | i8
  | i16
  | i32
  | i4
  | f32
  | bf16
  | f16
  | nf8
  deriving DecidableEq, Repr, Inhabited

/-- The kind of a fence (R65). -/
inductive FenceKind where
  | acquire
  | release
  | full
  deriving DecidableEq, Repr, Inhabited

/-- The scopes of the memory model, smallest first (R65, R246). -/
inductive Scope where
  | task
  | core
  | tile
  | die
  | device
  | system
  deriving DecidableEq, Repr, Inhabited

/-- What a fabric packet carries (R321): far sends and operations and their answers, returned weight, refusals (`tag`: for want of
the job's tag), digests, and the acknowledgement of a link's flits with the credits it returns. -/
inductive FabBody where
  | send (hdr : BitVec 64) (args : List (BitVec 64)) (srcV out : Nat)
  | near (f : Nat) (block : List (BitVec 64)) (p hops tile req v : Nat)
  | copyRead (va n tile req v : Nat)
  | copyWrite (va : Nat) (data : List (BitVec 8)) (tile req v : Nat)
  | result (req code flags : Nat) (words : List (BitVec 64))
  | data (req va : Nat) (bytes : List (BitVec 8))
  | credit (out units : Nat)
  | retrySend (out hint : Nat) (tag : Bool)
  | retryReq (req hint p hops : Nat) (tag : Bool)
  | failed (isSend : Bool) (item sub arg : Nat)
  | nak (isSend isPod : Bool) (item tile weight cls dest : Nat)
  | digest (gen entry chunk : Nat) (bytes : List (BitVec 8))
  | linkAck (flits : Nat) (credits : List Nat)
  deriving DecidableEq, Repr, Inhabited

/-- A fabric packet (R321). -/
structure FabPkt where
  dst : Nat
  src : Nat
  hop : Nat
  cls : Nat
  ord : Bool
  jtag : Nat
  body : FabBody
  deriving DecidableEq, Repr, Inhabited

/-- Where an uncorrectable soft error strikes (R265, R266, R331). A context is named by ten times its core and its number, `name`
is the code of an s- or m-register or 48 and a history place, a vector error the byte 512 n + b of vn, and a mailbox slot its place
among those that hold a message. -/
inductive SoftError where
  | localByte (job vcore addr : Nat)
  | scratchByte (job vtile addr : Nat)
  | codeByte (job vtile addr : Nat)
  | scalarName (ctx name : Nat)
  | maskReg (ctx n : Nat)
  | vectorReg (ctx n : Nat)
  | routine (job tile cls : Nat)
  | mailboxHeader (core slot : Nat)
  | mailboxArgs (core slot : Nat)
  | stationTlb (station n : Nat)
  | dieTlb (die n : Nat)
  | packetHeader (pkt : Nat) (jobReadable : Bool)
  | packetArgs (pkt : Nat)
  | ringHeader (job n : Nat)
  | ringArgs (job n : Nat)
  deriving DecidableEq, Repr, Inhabited

/-- How the storage commands of a step of a checkpoint ended: whether the Flush did well, and the numbers of the slots whose Write
failed (R304, R365). -/
structure FlushEnd where
  ok : Bool
  bad : List Nat
  deriving DecidableEq, Repr, Inhabited

/-- The rows of the opcode table: the instructions of a task (a 32-bit form carries its `Mark` last, a compact form
its S bit), and the events of units outside a task or of the outside world, with the operands that say where the
event happens or what the outside world supplies. -/
inductive Instr where
  /-- ALU_ADD (R89). Writes a + b, wrapping, to D. -/
  | aluAdd (d a b : Name) (m : Mark)
  /-- ALU_SUB (R89). Writes a − b, wrapping, to D. -/
  | aluSub (d a b : Name) (m : Mark)
  /-- ALU_AND (R89). Writes a & b to D. -/
  | aluAnd (d a b : Name) (m : Mark)
  /-- ALU_OR (R89). Writes a | b to D. -/
  | aluOr (d a b : Name) (m : Mark)
  /-- ALU_XOR (R89). Writes a ^ b to D. -/
  | aluXor (d a b : Name) (m : Mark)
  /-- ALU_ANDN (R89). Writes a & ~b to D. -/
  | aluAndn (d a b : Name) (m : Mark)
  /-- ALU_SHL (R89). Writes a shifted left by b[5:0] to D. -/
  | aluShl (d a b : Name) (m : Mark)
  /-- ALU_SHR (R89). Writes a shifted right logically by b[5:0] to D. -/
  | aluShr (d a b : Name) (m : Mark)
  /-- ALU_SRA (R89). Writes a shifted right arithmetically by b[5:0] to D. -/
  | aluSra (d a b : Name) (m : Mark)
  /-- ALU_ROT (R89). Writes a rotated right by b[5:0] to D. -/
  | aluRot (d a b : Name) (m : Mark)
  /-- ALU_MIN (R89). Writes the signed minimum of a and b to D. -/
  | aluMin (d a b : Name) (m : Mark)
  /-- ALU_MAX (R89). Writes the signed maximum of a and b to D. -/
  | aluMax (d a b : Name) (m : Mark)
  /-- ALU_MINU (R89). Writes the unsigned minimum of a and b to D. -/
  | aluMinu (d a b : Name) (m : Mark)
  /-- ALU_MAXU (R89). Writes the unsigned maximum of a and b to D. -/
  | aluMaxu (d a b : Name) (m : Mark)
  /-- ALU_SLT (R89). Writes 1 if a < b signed, else 0. -/
  | aluSlt (d a b : Name) (m : Mark)
  /-- ALU_SLTU (R89). Writes 1 if a < b unsigned, else 0. -/
  | aluSltu (d a b : Name) (m : Mark)
  /-- ALU2_SEQ (R89). Writes 1 if a = b, else 0. -/
  | alu2Seq (d a b : Name) (m : Mark)
  /-- ALU2_SNE (R89). Writes 1 if a ≠ b, else 0. -/
  | alu2Sne (d a b : Name) (m : Mark)
  /-- ALU2_CLZ (R89). Writes the count of leading zero bits of a. -/
  | alu2Clz (d a : Name) (m : Mark)
  /-- ALU2_CTZ (R89). Writes the count of trailing zero bits of a. -/
  | alu2Ctz (d a : Name) (m : Mark)
  /-- ALU2_POPC (R89). Writes the number of one bits of a. -/
  | alu2Popc (d a : Name) (m : Mark)
  /-- ALU2_SEXT_B (R89). Writes a sign-extended from 8 bits. -/
  | alu2SextB (d a : Name) (m : Mark)
  /-- ALU2_SEXT_H (R89). Writes a sign-extended from 16 bits. -/
  | alu2SextH (d a : Name) (m : Mark)
  /-- ALU2_SEXT_W (R89). Writes a sign-extended from 32 bits. -/
  | alu2SextW (d a : Name) (m : Mark)
  /-- ALU2_ZEXT_B (R89). Writes a zero-extended from 8 bits. -/
  | alu2ZextB (d a : Name) (m : Mark)
  /-- ALU2_ZEXT_H (R89). Writes a zero-extended from 16 bits. -/
  | alu2ZextH (d a : Name) (m : Mark)
  /-- ALU2_ZEXT_W (R89). Writes a zero-extended from 32 bits. -/
  | alu2ZextW (d a : Name) (m : Mark)
  /-- ALU2_MUL (R89). Writes the low 64 bits of a × b, latency 3. -/
  | alu2Mul (d a b : Name) (m : Mark)
  /-- ALU2_MULH (R89). Writes the high 64 bits of the signed product. -/
  | alu2Mulh (d a b : Name) (m : Mark)
  /-- ALU2_MULHU (R89). Writes the high 64 bits of the unsigned product. -/
  | alu2Mulhu (d a b : Name) (m : Mark)
  /-- ALU2_DIV (R90). Starts an outstanding signed division whose quotient goes to D. -/
  | alu2Div (d a b : Name) (m : Mark)
  /-- ALU2_DIVU (R90). Starts an outstanding unsigned division whose quotient goes to D. -/
  | alu2Divu (d a b : Name) (m : Mark)
  /-- ALU3_REM (R90). Starts an outstanding signed division whose remainder goes to D. -/
  | alu3Rem (d a b : Name) (m : Mark)
  /-- ALU3_REMU (R90). Starts an outstanding unsigned division whose remainder goes to D. -/
  | alu3Remu (d a b : Name) (m : Mark)
  /-- ALU3_SEL (R89). Writes a if rd(D) ≠ 0, else b. -/
  | alu3Sel (d a b : Name) (m : Mark)
  /-- ALU3_BEXT (R91). Extracts a bit field of a, placed and sized by b. -/
  | alu3Bext (d a b : Name) (m : Mark)
  /-- ALU3_BINS (R91). Inserts a field of a into rd(D), placed and sized by b. -/
  | alu3Bins (d a b : Name) (m : Mark)
  /-- ALU3_ADDSAT (R89). Writes the saturating signed sum, setting OV when it clamps. -/
  | alu3Addsat (d a b : Name) (m : Mark)
  /-- ALU3_SUBSAT (R89). Writes the saturating signed difference, setting OV when it clamps. -/
  | alu3Subsat (d a b : Name) (m : Mark)
  /-- ALU3_ABSDIFF (R89). Writes |a − b| as an unsigned value. -/
  | alu3Absdiff (d a b : Name) (m : Mark)
  /-- ADDI (R92). Writes a + imm. -/
  | addi (d a : Name) (i : BitVec 10) (m : Mark)
  /-- ANDI (R92). Writes a & imm. -/
  | andi (d a : Name) (i : BitVec 10) (m : Mark)
  /-- ORI (R92). Writes a | imm. -/
  | ori (d a : Name) (i : BitVec 10) (m : Mark)
  /-- XORI (R92). Writes a ^ imm. -/
  | xori (d a : Name) (i : BitVec 10) (m : Mark)
  /-- SHI_SHL (R93). Shifts a left by an immediate amount. -/
  | shiShl (d a : Name) (n : BitVec 6) (m : Mark)
  /-- SHI_SHR (R93). Shifts a right logically by an immediate amount. -/
  | shiShr (d a : Name) (n : BitVec 6) (m : Mark)
  /-- SHI_SRA (R93). Shifts a right arithmetically by an immediate amount. -/
  | shiSra (d a : Name) (n : BitVec 6) (m : Mark)
  /-- SHI_ROT (R93). Rotates a right by an immediate amount. -/
  | shiRot (d a : Name) (n : BitVec 6) (m : Mark)
  /-- SLTI (R92). Writes 1 if a < imm signed, else 0. -/
  | slti (d a : Name) (i : BitVec 10) (m : Mark)
  /-- MOVI (R94). Writes the sign-extended immediate to D. -/
  | movi (d : Name) (i : BitVec 16) (m : Mark)
  /-- SLTIU (R92). Writes 1 if a < imm unsigned, else 0. -/
  | sltiu (d a : Name) (i : BitVec 10) (m : Mark)
  /-- BEQ (R99). Branches when a = b. -/
  | beq (a b : Name) (o : BitVec 10) (m : Mark)
  /-- BNE (R99). Branches when a ≠ b. -/
  | bne (a b : Name) (o : BitVec 10) (m : Mark)
  /-- BLT (R99). Branches when a < b signed. -/
  | blt (a b : Name) (o : BitVec 10) (m : Mark)
  /-- BGE (R99). Branches when a ≥ b signed. -/
  | bge (a b : Name) (o : BitVec 10) (m : Mark)
  /-- BLTU (R99). Branches when a < b unsigned. -/
  | bltu (a b : Name) (o : BitVec 10) (m : Mark)
  /-- BGEU (R99). Branches when a ≥ b unsigned. -/
  | bgeu (a b : Name) (o : BitVec 10) (m : Mark)
  /-- JMP (R100). Jumps to a PC-relative target. -/
  | jmp (o : BitVec 22) (m : Mark)
  /-- CALL (R100). Jumps to a PC-relative target and writes the return address to s31. -/
  | call (o : BitVec 22) (m : Mark)
  /-- CTL_JR (R102). Jumps to the address held in A, checking ALIGN and then range. -/
  | ctlJr (a : Name) (m : Mark)
  /-- CTL_RET (R102). Jumps to the address held in s31. -/
  | ctlRet (m : Mark)
  /-- CTL_END (R31). Acts as an S marker, then ends the task once nothing is outstanding. -/
  | ctlEnd (m : Mark)
  /-- CTL_NOP (R102). Does nothing. -/
  | ctlNop (m : Mark)
  /-- CTL_TRAP (R102). Faults SWTRAP, carrying rd(A) as the argument. -/
  | ctlTrap (a : Name) (m : Mark)
  /-- LOOP (R103). Pushes a hardware loop entry, or skips the body when the count is 0. -/
  | loop (a : Name) (i : BitVec 10) (m : Mark)
  /-- LDL (R106). Loads from local memory, with optional sign extension and acquire. -/
  | ldl (d a : Name) (o : BitVec 6) (z : Size) (x q : Bool) (m : Mark)
  /-- STL (R106). Stores to local memory, with optional release. -/
  | stl (d a : Name) (o : BitVec 6) (z : Size) (q : Bool) (m : Mark)
  /-- LDT (R108). Issues an outstanding scalar load from scratchpad or the trigger-counter window. -/
  | ldt (d a : Name) (o : BitVec 6) (z : Size) (x q : Bool) (m : Mark)
  /-- STT (R108). Posts a scalar store to scratchpad, or an add to a trigger counter. -/
  | stt (d a : Name) (o : BitVec 6) (z : Size) (q : Bool) (m : Mark)
  /-- FP_FADD (R95). Writes the FP32 sum. -/
  | fpFadd (d a b : Name) (m : Mark)
  /-- FP_FSUB (R95). Writes the FP32 difference. -/
  | fpFsub (d a b : Name) (m : Mark)
  /-- FP_FMUL (R95). Writes the FP32 product. -/
  | fpFmul (d a b : Name) (m : Mark)
  /-- FP_FMIN (R95). Writes the FP32 minimum under R37. -/
  | fpFmin (d a b : Name) (m : Mark)
  /-- FP_FMAX (R95). Writes the FP32 maximum under R37. -/
  | fpFmax (d a b : Name) (m : Mark)
  /-- FP_FABS (R95). Clears the sign of fa. -/
  | fpFabs (d a : Name) (m : Mark)
  /-- FP_FNEG (R95). Inverts the sign of fa. -/
  | fpFneg (d a : Name) (m : Mark)
  /-- FP_FEQ (R95). Writes 1 if fa = fb. -/
  | fpFeq (d a b : Name) (m : Mark)
  /-- FP_FLT (R95). Writes 1 if fa < fb. -/
  | fpFlt (d a b : Name) (m : Mark)
  /-- FP_FLE (R95). Writes 1 if fa ≤ fb. -/
  | fpFle (d a b : Name) (m : Mark)
  /-- FP_FCVT_I2F (R95). Converts a signed integer to FP32. -/
  | fpFcvtI2f (d a : Name) (m : Mark)
  /-- FP_FCVT_U2F (R95). Converts an unsigned integer to FP32. -/
  | fpFcvtU2f (d a : Name) (m : Mark)
  /-- FP_FCVT_F2I (R96). Converts FP32 to a saturated signed 64-bit integer. -/
  | fpFcvtF2i (d a : Name) (m : Mark)
  /-- FP_FCVT_F2U (R96). Converts FP32 to a saturated unsigned 64-bit integer. -/
  | fpFcvtF2u (d a : Name) (m : Mark)
  /-- FP_FSQRT (R95). Writes the FP32 square root. -/
  | fpFsqrt (d a : Name) (m : Mark)
  /-- FP_FCLASS (R97). Writes a one-hot class mask of fa. -/
  | fpFclass (d a : Name) (m : Mark)
  /-- FFMA (R98). Writes fa × fb + rd(D) with one rounding. -/
  | ffma (d a b : Name) (m : Mark)
  /-- VADD (R121). Queues element-wise addition on the vector unit. -/
  | vadd (d a b : Fin 32) (t : VT) (k : Fin 4) (m : Mark)
  /-- VSUB (R121). Queues element-wise subtraction. -/
  | vsub (d a b : Fin 32) (t : VT) (k : Fin 4) (m : Mark)
  /-- VMUL (R121). Queues element-wise multiplication. -/
  | vmul (d a b : Fin 32) (t : VT) (k : Fin 4) (m : Mark)
  /-- VFMA (R121). Queues element-wise fused multiply-add into vd. -/
  | vfma (d a b : Fin 32) (t : VT) (k : Fin 4) (m : Mark)
  /-- VMIN (R121). Queues element-wise minimum. -/
  | vmin (d a b : Fin 32) (t : VT) (k : Fin 4) (m : Mark)
  /-- VMAX (R121). Queues element-wise maximum. -/
  | vmax (d a b : Fin 32) (t : VT) (k : Fin 4) (m : Mark)
  /-- VABS (R121). Queues element-wise absolute value. -/
  | vabs (d a : Fin 32) (t : VT) (k : Fin 4) (m : Mark)
  /-- VNEG (R121). Queues element-wise negation. -/
  | vneg (d a : Fin 32) (t : VT) (k : Fin 4) (m : Mark)
  /-- VAND (R122). Queues element-wise bitwise and. -/
  | vand (d a b : Fin 32) (t : VT) (k : Fin 4) (m : Mark)
  /-- VOR (R122). Queues element-wise bitwise or. -/
  | vor (d a b : Fin 32) (t : VT) (k : Fin 4) (m : Mark)
  /-- VXOR (R122). Queues element-wise bitwise xor. -/
  | vxor (d a b : Fin 32) (t : VT) (k : Fin 4) (m : Mark)
  /-- VANDN (R122). Queues element-wise a & ~b. -/
  | vandn (d a b : Fin 32) (t : VT) (k : Fin 4) (m : Mark)
  /-- VSHL (R122). Queues element-wise left shift. -/
  | vshl (d a b : Fin 32) (t : VT) (k : Fin 4) (m : Mark)
  /-- VSHR (R122). Queues element-wise logical right shift. -/
  | vshr (d a b : Fin 32) (t : VT) (k : Fin 4) (m : Mark)
  /-- VSRA (R122). Queues element-wise arithmetic right shift. -/
  | vsra (d a b : Fin 32) (t : VT) (k : Fin 4) (m : Mark)
  /-- VROT (R122). Queues element-wise right rotation. -/
  | vrot (d a b : Fin 32) (t : VT) (k : Fin 4) (m : Mark)
  /-- VCEQ (R123). Queues an equality compare into a mask. -/
  | vceq (d : Fin 8) (a b : Fin 32) (t : VT) (k : Fin 4) (m : Mark)
  /-- VCLT (R123). Queues a less-than compare into a mask. -/
  | vclt (d : Fin 8) (a b : Fin 32) (t : VT) (k : Fin 4) (m : Mark)
  /-- VCLE (R123). Queues a less-or-equal compare into a mask. -/
  | vcle (d : Fin 8) (a b : Fin 32) (t : VT) (k : Fin 4) (m : Mark)
  /-- VCNE (R123). Queues a not-equal compare into a mask. -/
  | vcne (d : Fin 8) (a b : Fin 32) (t : VT) (k : Fin 4) (m : Mark)
  /-- VSEL (R124). Queues a mask-driven select of va or vb into every element. -/
  | vsel (d a b : Fin 32) (t : VT) (k : Fin 4) (m : Mark)
  /-- VMOV (R124). Queues a copy of the active elements of va. -/
  | vmov (d a : Fin 32) (t : VT) (k : Fin 4) (m : Mark)
  /-- VBCAST (R124). Queues a broadcast of an s-register into the active elements. -/
  | vbcast (d a : Fin 32) (t : VT) (k : Fin 4) (m : Mark)
  /-- VZERO (R124). Queues the zeroing of the active elements. -/
  | vzero (d : Fin 32) (t : VT) (k : Fin 4) (m : Mark)
  /-- VCVT_SAME (R125). Queues a same-width type conversion. -/
  | vcvtSame (d a : Fin 32) (t u : VT) (k : Fin 4) (m : Mark)
  /-- VCVT_WIDEN2 (R125). Queues a conversion that widens into a register pair. -/
  | vcvtWiden2 (d a : Fin 32) (t u : VT) (k : Fin 4) (m : Mark)
  /-- VCVT_WIDEN4 (R125). Queues a conversion that widens into a register quad. -/
  | vcvtWiden4 (d a : Fin 32) (t u : VT) (k : Fin 4) (m : Mark)
  /-- VCVT_NARROW (R125). Queues a conversion that narrows a pair or quad into one register. -/
  | vcvtNarrow (d a : Fin 32) (t u : VT) (k : Fin 4) (m : Mark)
  /-- VREDSUM (R126). Queues a tree sum of the active elements into an s-register. -/
  | vredsum (d a : Fin 32) (t : VT) (k : Fin 4) (m : Mark)
  /-- VREDMAX (R126). Queues a maximum reduction into an s-register. -/
  | vredmax (d a : Fin 32) (t : VT) (k : Fin 4) (m : Mark)
  /-- VREDMIN (R126). Queues a minimum reduction into an s-register. -/
  | vredmin (d a : Fin 32) (t : VT) (k : Fin 4) (m : Mark)
  /-- VDOT (R126). Queues a dot product into an s-register. -/
  | vdot (d a b : Fin 32) (t : VT) (k : Fin 4) (m : Mark)
  /-- VPERM (R127). Queues a permute of va indexed by vb. -/
  | vperm (d a b : Fin 32) (t : VT) (k : Fin 4) (m : Mark)
  /-- VSLIDE (R127). Queues a slide of va by a signed scalar amount. -/
  | vslide (d a b : Fin 32) (t : VT) (k : Fin 4) (m : Mark)
  /-- VEXT (R127). Queues the extraction of one element into an s-register. -/
  | vext (d a b : Fin 32) (t : VT) (m : Mark)
  /-- VINS (R127). Queues the insertion of a scalar into one element. -/
  | vins (d a b : Fin 32) (t : VT) (m : Mark)
  /-- VLD_T (R130). Queues a converting vector load from scratchpad. -/
  | vldT (d a : Fin 32) (t : VT) (k : Fin 4) (m : Mark)
  /-- VLD_L (R129). Queues a raw 512-byte vector load from local memory. -/
  | vldL (d a : Fin 32) (t : VT) (k : Fin 4) (m : Mark)
  /-- VLDX_T (R131). Queues a gather from scratchpad. -/
  | vldxT (d a b : Fin 32) (t : VT) (k : Fin 4) (m : Mark)
  /-- VST_T (R130). Queues an encoding vector store to scratchpad. -/
  | vstT (d a : Fin 32) (t : VT) (k : Fin 4) (m : Mark)
  /-- VST_L (R129). Queues a raw vector store to local memory. -/
  | vstL (d a : Fin 32) (t : VT) (k : Fin 4) (m : Mark)
  /-- VSTX_T (R131). Queues a scatter to scratchpad. -/
  | vstxT (d a b : Fin 32) (t : VT) (k : Fin 4) (m : Mark)
  /-- VRCP (R133). Queues an SFU reciprocal request. -/
  | vrcp (d a : Fin 32) (t : VT) (k : Fin 4) (m : Mark)
  /-- VRSQ (R133). Queues an SFU reciprocal square root request. -/
  | vrsq (d a : Fin 32) (t : VT) (k : Fin 4) (m : Mark)
  /-- VEXP2 (R133). Queues an SFU 2^x request. -/
  | vexp2 (d a : Fin 32) (t : VT) (k : Fin 4) (m : Mark)
  /-- VLOG2 (R133). Queues an SFU log2 request. -/
  | vlog2 (d a : Fin 32) (t : VT) (k : Fin 4) (m : Mark)
  /-- VSIN (R133). Queues an SFU sine request. -/
  | vsin (d a : Fin 32) (t : VT) (k : Fin 4) (m : Mark)
  /-- VCOS (R133). Queues an SFU cosine request. -/
  | vcos (d a : Fin 32) (t : VT) (k : Fin 4) (m : Mark)
  /-- VTANH (R133). Queues an SFU tanh request. -/
  | vtanh (d a : Fin 32) (t : VT) (k : Fin 4) (m : Mark)
  /-- VSIGM (R133). Queues an SFU sigmoid request. -/
  | vsigm (d a : Fin 32) (t : VT) (k : Fin 4) (m : Mark)
  /-- VRCPR (R135). Queues a Newton refinement of a reciprocal. -/
  | vrcpr (d a b : Fin 32) (k : Fin 4) (m : Mark)
  /-- VRSQR (R135). Queues a Newton refinement of a reciprocal square root. -/
  | vrsqr (d a b : Fin 32) (k : Fin 4) (m : Mark)
  /-- VRND (R135). Queues a rounding to integral values in FFLAGS.RM. -/
  | vrnd (d a : Fin 32) (t : VT) (k : Fin 4) (m : Mark)
  /-- VFLOOR (R135). Queues a rounding to integral values toward −∞. -/
  | vfloor (d a : Fin 32) (t : VT) (k : Fin 4) (m : Mark)
  /-- VTPACK (R137). Queues the packing of trits five to a byte. -/
  | vtpack (d a : Fin 32) (m : Mark)
  /-- VTUNP (R137). Queues the unpacking of ternary bytes to INT8 trits. -/
  | vtunp (d a : Fin 32) (m : Mark)
  /-- VTQNT (R137). Queues the quantisation of FP32 elements to trits against θ. -/
  | vtqnt (d a b : Fin 32) (k : Fin 4) (m : Mark)
  /-- VTCHK (R137). Queues a mask of the illegal ternary bytes. -/
  | vtchk (d : Fin 8) (a : Fin 32) (m : Mark)
  /-- KAND (R136). Writes the and of two masks. -/
  | kand (d a b : Fin 8) (m : Mark)
  /-- KOR (R136). Writes the or of two masks. -/
  | kor (d a b : Fin 8) (m : Mark)
  /-- KXOR (R136). Writes the xor of two masks. -/
  | kxor (d a b : Fin 8) (m : Mark)
  /-- KNOT (R136). Writes the inverse of a mask. -/
  | knot (d a : Fin 8) (m : Mark)
  /-- KPOP (R136). Writes the number of set bits of a mask. -/
  | kpop (d : Fin 32) (a : Fin 8) (m : Mark)
  /-- KFIRST (R136). Writes the index of the lowest set bit of a mask. -/
  | kfirst (d : Fin 32) (a : Fin 8) (m : Mark)
  /-- KSET (R136). Sets mask bits lo to hi − 1 and clears the rest. -/
  | kset (d : Fin 8) (a b : Fin 32) (m : Mark)
  /-- KMV (R136). Copies a mask. -/
  | kmv (d a : Fin 8) (m : Mark)
  /-- VADDSAT (R121). Queues element-wise saturating integer addition. -/
  | vaddsat (d a b : Fin 32) (t : VT) (k : Fin 4) (m : Mark)
  /-- VSUBSAT (R121). Queues element-wise saturating integer subtraction. -/
  | vsubsat (d a b : Fin 32) (t : VT) (k : Fin 4) (m : Mark)
  /-- VMULH (R121). Queues element-wise signed multiply high. -/
  | vmulh (d a b : Fin 32) (t : VT) (k : Fin 4) (m : Mark)
  /-- VABSDIFF (R121). Queues element-wise absolute difference. -/
  | vabsdiff (d a b : Fin 32) (t : VT) (k : Fin 4) (m : Mark)
  /-- XCHG (R214). Queues an all-to-all row exchange at the tile's exchange unit, or reports no room. -/
  | xchg (d a b : Name) (m : Mark)
  /-- SEND (R184). Sends a task message carrying the weight named in B. -/
  | send (a b : Name) (o : Bool) (m : Mark)
  /-- SEND_HALF (R184). Sends a task message carrying half the held weight. -/
  | sendHalf (a : Name) (o : Bool) (m : Mark)
  /-- SEND_DRAW (R184). Sends a message by way of the home, which attaches weight drawn from its reserve. -/
  | sendDraw (a b : Name) (o : Bool) (m : Mark)
  /-- SEND_ROP (R184). Sends a remote-operation message. -/
  | sendRop (a b : Name) (o : Bool) (m : Mark)
  /-- WGT_WGET (R271). Writes the held weight to D. -/
  | wgtWget (d : Name) (m : Mark)
  /-- WGT_WTOTAL (R271). Writes W of this device to D. -/
  | wgtWtotal (d : Name) (m : Mark)
  /-- WGT_WRET (R272). Returns weight to the home as a pod. -/
  | wgtWret (a : Name) (m : Mark)
  /-- WGT_QARM (R273). Sends an arm of the quiescence trap to the home under the hold. -/
  | wgtQarm (a b : Name) (m : Mark)
  /-- WGT_QDISARM (R273). Sends a disarm of the quiescence trap to the home under the hold. -/
  | wgtQdisarm (m : Mark)
  /-- WGT_WCENSUS (R274). Sends a privileged census request to the home. -/
  | wgtWcensus (a b : Name) (m : Mark)
  /-- WGT_WLOSS (R274). Sends a request that reads the home's loss counters. -/
  | wgtWloss (a b : Name) (m : Mark)
  /-- GRD (R187). Issues a block read of global memory into local memory or scratchpad. -/
  | grd (a b : Name) (q l : Bool) (m : Mark)
  /-- GWR (R187). Issues a block write to global memory from local memory or scratchpad. -/
  | gwr (a b : Name) (q l : Bool) (m : Mark)
  /-- GST (R189). Posts a scalar store to global memory under the hold. -/
  | gst (d a : Name) (o : BitVec 6) (z : Size) (q : Bool) (m : Mark)
  /-- NEAR_ATOM_ADD (R191). Issues an atomic add at the slice engine. -/
  | nearAtomAdd (a b : Name) (m : Mark)
  /-- NEAR_ATOM_MAX (R191). Issues an atomic maximum at the slice engine. -/
  | nearAtomMax (a b : Name) (m : Mark)
  /-- NEAR_ATOM_CAS (R191). Issues an atomic compare-and-swap at the slice engine. -/
  | nearAtomCas (a b : Name) (m : Mark)
  /-- NEAR_CAS4 (R191). Issues a four-word compare-and-swap at the slice engine. -/
  | nearCas4 (a b : Name) (m : Mark)
  /-- NEAR_ENQ (R192). Issues a list enqueue at the slice engine. -/
  | nearEnq (a b : Name) (m : Mark)
  /-- NEAR_CHASE (R193). Issues a pointer chase at the slice engine. -/
  | nearChase (a b : Name) (m : Mark)
  /-- NEAR_RED_ADD_F32 (R194). Issues an FP32 element-wise add at the slice engine. -/
  | nearRedAddF32 (a b : Name) (m : Mark)
  /-- NEAR_RED_MAX_F32 (R194). Issues an FP32 element-wise maximum at the slice engine. -/
  | nearRedMaxF32 (a b : Name) (m : Mark)
  /-- NEAR_RED_ADD_I32 (R194). Issues an INT32 element-wise add at the slice engine. -/
  | nearRedAddI32 (a b : Name) (m : Mark)
  /-- NEAR_XSWAP (R191). Issues an atomic exchange at the slice engine. -/
  | nearXswap (a b : Name) (m : Mark)
  /-- CPY (R196). Puts a linear copy command into the copy FIFO and writes its identifier. -/
  | cpy (d a b : Name) (m : Mark)
  /-- CPY_WALK (R196). Puts a strided walk copy command into the copy FIFO and writes its identifier. -/
  | cpyWalk (d a b : Name) (m : Mark)
  /-- CQRY (R202). Writes the state word of a transfer. -/
  | cqry (d a : Name) (m : Mark)
  /-- CPY_CANCEL (R202). Writes the transfer's state and cancels it. -/
  | cpyCancel (d a : Name) (m : Mark)
  /-- TMM (R209). Appends an array job to the tile's array queue, or writes 0 when the queue is full. -/
  | tmm (d a b : Name) (m : Mark)
  /-- TSTAT (R212). Writes the array status word of a job. -/
  | tstat (d a : Name) (m : Mark)
  /-- TABORT (R212). Writes a job's status word, then aborts the job. -/
  | tabort (d a : Name) (m : Mark)
  /-- TRG_POST (R219). Posts an operation on a trigger counter and writes its handle. -/
  | trgPost (d a b : Name) (m : Mark)
  /-- TRG_ADD (R218). Adds to a local or remote trigger counter. -/
  | trgAdd (a b : Name) (m : Mark)
  /-- TRG_READ (R218). Writes a counter's value to D. -/
  | trgRead (d a : Name) (m : Mark)
  /-- TRG_CANCEL (R222). Cancels a posted entry at the trigger unit and reports whether it did. -/
  | trgCancel (d a : Name) (m : Mark)
  /-- TRG_ALLOC (R217). Allocates the lowest free counter to the job. -/
  | trgAlloc (d : Name) (m : Mark)
  /-- TRG_FREE (R217). Frees a counter and removes its posted entries. -/
  | trgFree (a : Name) (m : Mark)
  /-- NRED (R225). Contributes a local vector to a router reduction round. -/
  | nred (a b : Name) (m : Mark)
  /-- NRDEF (R223). Requests the definition of a router reduction tree. -/
  | nrdef (a b : Name) (m : Mark)
  /-- NRFREE (R224). Requests the removal of a reduction definition. -/
  | nrfree (a b : Name) (m : Mark)
  /-- FNEW (R229). Requests a new future entry. -/
  | fnew (a b : Name) (m : Mark)
  /-- FSET (R229). Requests that a future be set. -/
  | fset (a b : Name) (m : Mark)
  /-- FWAIT (R229). Requests a completion when a future is set. -/
  | fwait (a b : Name) (m : Mark)
  /-- FFREE (R229). Requests that a future be freed. -/
  | ffree (a b : Name) (m : Mark)
  /-- FPEEK (R229). Requests a future's state and value. -/
  | fpeek (a b : Name) (m : Mark)
  /-- FENCE (R250). Orders the BEFORE paths against the AFTER paths at a scope as an acquire, release or full fence. -/
  | fence (k : FenceKind) (c : Scope) (a b : BitVec 7) (m : Mark)
  /-- LAUNCH (R286). Requests that the launch unit launch a child record. -/
  | launch (a b : Name) (m : Mark)
  /-- SYS_MFS (R351). Reads a system register selected by rd(A). -/
  | sysMfs (d a : Name) (m : Mark)
  /-- SYS_MTS (R351). Writes a system register selected by rd(A). -/
  | sysMts (a b : Name) (m : Mark)
  /-- SYS_CTXSAVE (R352). Marks a job context to be saved at its next quiescence. -/
  | sysCtxsave (a b : Name) (m : Mark)
  /-- SYS_CTXLOAD (R352). Requests the restore of a saved context. -/
  | sysCtxload (a b : Name) (m : Mark)
  /-- SYS_HALT (R353). Stops the device until reset and reports a code to the host. -/
  | sysHalt (a : Name) (m : Mark)
  /-- SYS_SYSNOTE (R354). Writes an entry into the device trace buffer. -/
  | sysSysnote (a b : Name) (m : Mark)
  /-- SPREF (R205). Hints storage service or retention for a global range. -/
  | spref (a b : Name) (m : Mark)
  /-- LIMM (R69). Prefix that extends the immediate of the instruction after it and issues with it. -/
  | limm (p : BitVec 22)
  /-- COMPACT_MOV (R68). 16-bit form of alu.add X, Y′, z. -/
  | compactMov (x : Fin 32) (y : BitVec 4) (s : Bool)
  /-- COMPACT_ADD (R68). 16-bit form of alu.add X, X, Y′. -/
  | compactAdd (x : Fin 32) (y : BitVec 4) (s : Bool)
  /-- COMPACT_SUB (R68). 16-bit form of alu.sub X, X, Y′. -/
  | compactSub (x : Fin 32) (y : BitVec 4) (s : Bool)
  /-- COMPACT_ADDI (R68). 16-bit form of addi with a 4-bit signed immediate. -/
  | compactAddi (x : Fin 32) (y : BitVec 4) (s : Bool)
  /-- COMPACT_AND (R68). 16-bit form of alu.and X, X, Y′. -/
  | compactAnd (x : Fin 32) (y : BitVec 4) (s : Bool)
  /-- COMPACT_SHL (R68). 16-bit form of shi.shl with a 4-bit amount. -/
  | compactShl (x : Fin 32) (y : BitVec 4) (s : Bool)
  /-- COMPACT_SHR (R68). 16-bit form of shi.shr with a 4-bit amount. -/
  | compactShr (x : Fin 32) (y : BitVec 4) (s : Bool)
  /-- COMPACT_LDL_D (R111). 16-bit doubleword local load at offset 0 or 8. -/
  | compactLdlD (x : Fin 32) (y : BitVec 4) (s : Bool)
  /-- COMPACT_STL_D (R111). 16-bit doubleword local store at offset 0 or 8. -/
  | compactStlD (x : Fin 32) (y : BitVec 4) (s : Bool)
  /-- COMPACT_BEQZ (R111). 16-bit branch taken when X is zero. -/
  | compactBeqz (x : Fin 32) (y : BitVec 4) (s : Bool)
  /-- COMPACT_BNEZ (R111). 16-bit branch taken when X is nonzero. -/
  | compactBnez (x : Fin 32) (y : BitVec 4) (s : Bool)
  /-- COMPACT_END (R68). 16-bit form of ctl.end. -/
  | compactEnd (s : Bool)
  /-- COMPACT_NOP (R68). 16-bit form of ctl.nop. -/
  | compactNop (s : Bool)
  /-- COMPACT_SEND_HALF (R68). 16-bit form of send.half with its block at sX. -/
  | compactSendHalf (x : Fin 32) (s : Bool)
  /-- COMPACT_RET (R68). 16-bit form of ctl.ret. -/
  | compactRet (s : Bool)
  /-- COMPACT_CMOV (R68). 16-bit form of alu3.sel X, X, Y′. -/
  | compactCmov (x : Fin 32) (y : BitVec 4) (s : Bool)
  /-- TASK_START (R144). A core starts a task in hc0–hc7 from a waiting message once a context, vector registers and a slot-table grant are available. -/
  | taskStart (tile core : Nat)
  /-- REMOTE_OP_START (R146). A remote-op message starts in hc8 once the previous remote op has ended and its job is granted. -/
  | remoteOpStart (tile core : Nat)
  /-- DRAIN_TASK_START (R173). A drained array row is handed to hc9 and starts a drain task once hc9 and its registers are free. -/
  | drainTaskStart (tile : Nat)
  /-- TASK_END (R31). A task that has reached ctl.end ends, returns its weight and frees its context once its last outstanding operation has written its result. -/
  | taskEnd (ctx : Nat)
  /-- VECTOR_OP_START (R116). The vector arbiter binds the head of a core's queue to a free lane group, and start-time checks are made. -/
  | vectorOpStart (tile : Nat)
  /-- VECTOR_OP_COMPLETE (R116). A vector operation writes its result and flags, and a context parked on it may become eligible. -/
  | vectorOpComplete (op : Nat)
  /-- SFU_SERVICE_START (R118). The SFU begins serving the request at the head of the tile's SFU queue. -/
  | sfuServiceStart (tile : Nat)
  /-- SFU_RESULT (R118). An SFU request's result becomes readable 12 clk after its service ends, or is discarded for a dead task. -/
  | sfuResult (op : Nat)
  /-- LDT_RESULT (R108). An outstanding scratchpad load is granted by its bank and writes its destination. -/
  | ldtResult (op : Nat)
  /-- DIVIDE_RESULT (R90). An outstanding integer division writes its quotient or remainder and its flags. -/
  | divideResult (op : Nat)
  /-- TILE_STORE_LAND (R108). A posted stt is granted by its bank and lands, or adds to a trigger counter. -/
  | tileStoreLand (store : Nat)
  /-- BUDGET_EXPIRY (R153). A task's watchdog passes its routine's budget, and the task faults BUDGET. -/
  | budgetExpiry (ctx : Nat)
  /-- UNIT_RETRY_REINJECT (R347). After a discard ends, the unit's root messages are reinjected as draws. -/
  | unitRetryReinject (job level unit : Nat)
  /-- MESSAGE_ARRIVAL (R142). A target NI accepts a message into a mailbox slot or refuses it. -/
  | messageArrival (pkt : Nat)
  /-- MESSAGE_REFUSAL (R149). A refusal reaches the sending NI, which keeps the message for a resend. -/
  | messageRefusal (pkt : Nat)
  /-- MESSAGE_RESEND (R149). A refused message is resent 16 clk after its refusal. -/
  | messageResend (out : Nat)
  /-- SEND_ACCEPT_REPORT (R185). A report that a message was accepted or spilled reaches the sending NI, which releases the next ordered message. -/
  | sendAcceptReport (pkt : Nat)
  /-- SPILL_REINJECT_OFFER (R151). The home context unit offers the oldest overflow-ring record to its target. -/
  | spillReinjectOffer (job : Nat)
  /-- HOLD_ACK (R177). An acknowledgement of a gst, draw, arm or disarm reaches the NI, and a hold that empties sends its unit home. -/
  | holdAck (pkt : Nat)
  /-- ACCESS_ACK (R248). An access is acknowledged, its release counts drop, and held releases or fenced accesses may proceed. -/
  | accessAck (acc : Nat)
  /-- ROUTER_SWITCH (R232). A router switches a packet's flits toward the next node of its route. -/
  | routerSwitch (pkt : Nat)
  /-- ROUTER_GATE (R243). A router idle for 1,024 clk is gated. -/
  | routerGate (p y : Nat)
  /-- ROUTER_WAKE (R244). A gated router receives a wake or a flit and begins to wake. -/
  | routerWake (p y : Nat)
  /-- ROUTER_READY (R243). A waking router becomes ready 16 clk after its wake. -/
  | routerReady (p y : Nat)
  /-- CHAIN_CHUNK (R241). A chain node receives a chunk, writes it to its tile and reserves the next node. -/
  | chainChunk (node : Nat)
  /-- CHAIN_GRANT (R241). A node grants a free chain buffer to its predecessor, which forwards its chunk. -/
  | chainGrant (node : Nat)
  /-- POD_ARRIVAL (R260). Pods reach the home and are added to HOMEW and the loss counters before the draw and quiescence tests. -/
  | podArrival (pkt : Nat)
  /-- DRAW_ARRIVAL (R263). A draw reaches the home and is queued and acknowledged, or is refused when the queue is full. -/
  | drawArrival (pkt : Nat)
  /-- DRAW_RESEND (R263). A refused draw is resent 64 clk later. -/
  | drawResend (out : Nat)
  /-- ARM_ARRIVAL (R273). The home applies an arm of the quiescence trap and acknowledges it. -/
  | armArrival (pkt : Nat)
  /-- DISARM_ARRIVAL (R273). The home applies a disarm and acknowledges it. -/
  | disarmArrival (pkt : Nat)
  /-- FAR_SEND_ARRIVAL (R264). A far send reaches the destination home and is appended as a draw. -/
  | farSendArrival (pkt : Nat)
  /-- CENSUS_START (R267). The home accepts a census, sets CENSUS and stops starts, firings and draws of the job. -/
  | censusStart (pkt : Nat)
  /-- CENSUS_MARKER_SEND (R267). A node whose counts of the job have settled sends its census marker home. -/
  | censusMarkerSend (job node : Nat)
  /-- CENSUS_MARKER_ARRIVAL (R267). The home receives a marker and, once it holds all of them, sums, settles the difference and resumes. -/
  | censusMarkerArrival (pkt : Nat)
  /-- WLOSS_SERVE (R274). The home answers a wloss request with its loss counters. -/
  | wlossServe (pkt : Nat)
  /-- HOME_COPY_BROADCAST (R351). Every 1,024 clk the home sends copies of QCLASS and HOMEW to its tiles. -/
  | homeCopyBroadcast (job : Nat)
  /-- STATION_TRANSLATE (R297). The entry station translates a request through its TLBs and sends it on to the serving slice. -/
  | stationTranslate (pkt : Nat)
  /-- PAGE_WALK (R296). A page walker completes a walk and checks each entry. -/
  | pageWalk (walk : Nat)
  /-- PARKED_REQUEST_RESEND (R300). A request refused by a full parking table is resent 64 clk later. -/
  | parkedRequestResend (pkt : Nat)
  /-- GLOBAL_PIECE_PERFORM (R187). The serving slice performs a read, write or store piece and replies to the NI. -/
  | globalPiecePerform (pkt : Nat)
  /-- PIECE_LANDING (R187). Read data or an acknowledgement reaches the NI, and the request completes after its last piece. -/
  | pieceLanding (pkt : Nat)
  /-- NEAR_OP_EXECUTE (R191). A slice engine accepts and performs a near-memory operation, or answers RETRY. -/
  | nearOpExecute (pkt hint : Nat)
  /-- CHASE_FORWARD_ARRIVAL (R326). A chase forward reaches the engine of its next node, which accepts or answers RETRY to the issuer. -/
  | chaseForwardArrival (pkt hint : Nat)
  /-- FAR_RETRY_RESEND (R326). The issuing NI resends a far request 16 × 2^HINT clk after a RETRY. -/
  | farRetryResend (req : Nat)
  /-- STORAGE_SERVICE_START (R302). An SQE takes a service record and a frame, or starts an eviction. -/
  | storageServiceStart (port : Nat)
  /-- WRITEBACK_COMPLETE (R303). A victim's NVMe write-back completes and its locator is written back into the PTE. -/
  | writebackComplete (move : Nat) (ok : Bool)
  /-- FILL_COMPLETE (R302). The NVMe read of a fill completes, the PTE is made present and the parked requests are released. -/
  | fillComplete (port pte : Nat) (ok : Bool)
  /-- NVME_TIMEOUT (R304). An NVMe command not completed within 4 s counts as failed. -/
  | nvmeTimeout (port pte : Nat)
  /-- FRAME_WAIT_RETRY (R302). A fill waiting for a frame tries again on a pool change or after 2^20 clk. -/
  | frameWaitRetry (port pte : Nat)
  /-- MIGRATION_REVIEW (R306). Every 2^20 clk a die reviews its access counts and starts page migrations. -/
  | migrationReview (die region : Nat)
  /-- MIGRATION_COMPLETE (R306). A migration copy ends, the PTE gets its new frame, and the old frame is freed. -/
  | migrationComplete (move : Nat)
  /-- COPY_OFFER (R197). The NI offers the oldest copy command to its BTE, which accepts and checks it or refuses it. -/
  | copyOffer (tile core : Nat)
  /-- COPY_PIECE (R198). A BTE moves one piece or walk element of an accepted transfer. -/
  | copyPiece (bte req : Nat)
  /-- ARRAY_JOB_START (R209). A job at the head of the array queue starts on the idle array and is checked. -/
  | arrayJobStart (tile : Nat)
  /-- ARRAY_STEP (R169). The array runs one skipped, zero or full step of a job. -/
  | arrayStep (tile : Nat)
  /-- ARRAY_ROW_DRAIN (R172). A row leaves the accumulators, is scaled and is encoded into C or handed to a drain task. -/
  | arrayRowDrain (tile : Nat)
  /-- ARRAY_JOB_COMPLETE (R210). A job completes at cycles and sends its completion. -/
  | arrayJobComplete (tile : Nat)
  /-- ARRAY_STOP_FINISH (R256). A stopped or aborted job finishes 12 clk after its last standing row and raises its cause. -/
  | arrayStopFinish (tile : Nat)
  /-- XCHG_ACTIVATE (R214). An exchange becomes active, checks its operands and sends ARRIVEs. -/
  | xchgActivate (tile : Nat)
  /-- ARRIVE_RECEIVE (R214). An exchange unit receives an ARRIVE and sends its row or holds the ARRIVE. -/
  | arriveReceive (pkt : Nat)
  /-- ARRIVE_RESEND (R214). A refused ARRIVE is resent 64 clk later. -/
  | arriveResend (pkt : Nat)
  /-- XCHG_ROW_RECEIVE (R215). A row reaches its destination exchange unit, is written and is acknowledged. -/
  | xchgRowReceive (pkt : Nat)
  /-- XCHG_ROW_ACK (R215). A row's acknowledgement arrives, and the exchange completes once all its rows are done. -/
  | xchgRowAck (pkt : Nat)
  /-- XCHG_TIMEOUT (R215). An exchange exceeds TIMEOUT and raises XTIMEOUT. -/
  | xchgTimeout (tile : Nat)
  /-- TRIGGER_ARRIVAL (R220). Counter changes, posts and cancels that reach a trigger unit are applied in arrival order. -/
  | triggerArrival (tile pkt : Nat)
  /-- TRIGGER_FIRE (R220). A trigger unit fires its oldest posted entry whose counter has reached its threshold. -/
  | triggerFire (tile : Nat)
  /-- NRDEF_PROGRAM (R224). The routers on a tree are programmed with a definition, and the nrdef completes. -/
  | nrdefProgram (pkt : Nat)
  /-- NRFREE_REMOVE (R224). After any open round ends, a definition is removed and the nrfree completes. -/
  | nrfreeRemove (pkt : Nat)
  /-- CONTRIBUTION_ARRIVAL (R225). A contribution reaches its router and joins a round, waits for the next round, or is discarded. -/
  | contributionArrival (pkt : Nat)
  /-- ROUTER_COMBINE (R226). A router that holds all its inputs, or has been closed, folds them and forwards one partial. -/
  | routerCombine (p y job nid : Nat)
  /-- ROUND_START_NOTICE (R227). The first notice or input of a round reaches the root and starts its timer. -/
  | roundStartNotice (pkt : Nat)
  /-- ROUND_TIMEOUT (R227). At RTIME the root sends a close down the tree. -/
  | roundTimeout (job nid : Nat)
  /-- CLOSE_ARRIVAL (R227). A router receives a close and passes it to its children that have not yet delivered. -/
  | closeArrival (pkt : Nat)
  /-- ROUND_COMPLETE (R227). The root adds its own contribution, writes DEST and sends the round's completion. -/
  | roundComplete (job nid : Nat)
  /-- FUTURE_REQUEST_SERVE (R229). A context unit serves one future request for an entry. -/
  | futureRequestServe (pkt : Nat)
  /-- FWAIT_RESEND (R229). An fwait refused for want of waiter records is resent 64 clk later. -/
  | fwaitResend (req : Nat)
  /-- LAUNCH_REQUEST_ARRIVAL (R287). A launch request reaches the device-side queue and is appended or refused. -/
  | launchRequestArrival (pkt : Nat)
  /-- LAUNCH_RESEND (R287). A refused launch request is resent 64 clk later. -/
  | launchResend (req : Nat)
  /-- LAUNCH_RECORD_TAKE (R282). The launch unit takes a record from a queue, checks it and begins waiting on its futures. -/
  | launchRecordTake
  /-- LAUNCH_CREATE (R282). Once its futures, a JOBID and placement are available, the context is created and its tiles are loaded. -/
  | launchCreate (source : Nat)
  /-- ROOT_INJECT (R282). After every chain has been reported, CODE 2 is set and the root messages are injected. -/
  | rootInject
  /-- CONTEXT_RESTORE (R360). A saved context is checked, placed, reloaded and has its home restored, and the restore completes. -/
  | contextRestore (req : Nat)
  /-- SAVED_FAR_SEND_SPILL (R359). A far send for a saved context is written to its spill ring, or answered RETRY when the ring is full. -/
  | savedFarSendSpill (pkt : Nat)
  /-- CHECKPOINT_DIGEST_ARRIVAL (R363). A writer receives a replica's chunk digest and marks DIVERGE if it differs. -/
  | checkpointDigestArrival (jtag gen entry chunk : Nat) (digest : List (BitVec 8))
  /-- CHECKPOINT_FLUSH_DONE (R365). A flush completes, and the sequencer writes the commit blocks or sets CKFUT. -/
  | checkpointFlushDone (e : FlushEnd)
  /-- CHECKPOINT_PEERLOST (R365). A digest not received within 1 s gives PEERLOST. -/
  | checkpointPeerlost (slot : Nat)
  /-- FABRIC_PACKET_ARRIVAL (R322). A fabric packet reaches a device and is delivered, forwarded, answered RETRY or discarded with a NAK. -/
  | fabricPacketArrival (port : Nat) (pkt : FabPkt)
  /-- FABRIC_NAK_ARRIVAL (R328). A NAK reaches the source NI, which returns the weight LOST and raises a fatal error. -/
  | fabricNakArrival (port : Nat) (pkt : FabPkt)
  /-- FLIT_CRC_REPLAY (R319). A flit that fails its CRC is sent again from the replay buffer. -/
  | flitCrcReplay (port : Nat)
  /-- PORT_DOWN (R367). A port unacknowledged for 2^20 clk is declared down, and its held packets are NAKed. -/
  | portDown (port : Nat)
  /-- JOB_TAG_TIMEOUT (R325). A packet refused for lack of a tag for 2^24 clk is ended as LOST with a fatal error. -/
  | jobTagTimeout (out : Nat)
  /-- POWER_GRANT (R291). Every 6,400 clk a die's power arbiter grants each tile a duty. -/
  | powerGrant (die : Nat) (duties : List Nat)
  /-- THERMAL_CAP (R377). A die at 100 °C has every duty capped at 8. -/
  | thermalCap (die : Nat)
  /-- THERMAL_HALT (R377). A die at 110 °C stops the device as sys.halt does. -/
  | thermalHalt (die : Nat)
  /-- DEVICE_RESET (R376). Reset runs the secure boot checks and restarts every core at clk 0. `answers` says which of the drives attached at the SSD ports answer their bring-up after it. -/
  | deviceReset (answers : List Bool)
  /-- LINK_TRAINING (R368). The PCI Express link trains, and its width and speed are reported. -/
  | linkTraining (width speed : Nat)
  /-- HWQ_DOORBELL (R276). A write to a queue's TAIL tells the launch unit of new record pointers. Virtual function `fn` writes, or the physical one for 64. -/
  | hwqDoorbell (fn q tail : Nat)
  /-- TLB_INVALIDATE (R298). A write of VA starts the dropping of matching TLB entries on every die. -/
  | tlbInvalidate (va : BitVec 64)
  /-- POOL_TAIL_WRITE (R301). A write of a pool's TAIL adds frames, and waiting fills retry. -/
  | poolTailWrite (pool tail : Nat)
  /-- JOB_TAG_WRITE (R325). Host software writes a job's fabric tag and its validity. -/
  | jobTagWrite (job : Nat) (value : BitVec 64)
  /-- ROUTE_ENTRY_WRITE (R320). A route entry is written atomically, or ignored and logged when invalid. -/
  | routeEntryWrite (d : Nat) (value : BitVec 64)
  /-- JOBCTL_RESUME (R344). Writing RESUME clears PARKED unless the ring page is still missing. -/
  | jobctlResume (job : Nat)
  /-- JOBCTL_ABORT (R344). Writing ABORT kills the job. -/
  | jobctlAbort (job : Nat)
  /-- HOST_FUTURE_NEW (R372). OP new makes a launch-unit future on die 0. -/
  | hostFutureNew
  /-- HOST_FUTURE_SET (R372). OP set sets a launch-unit future. -/
  | hostFutureSet
  /-- HOST_FUTURE_FREE (R372). OP free frees a launch-unit future. -/
  | hostFutureFree
  /-- HOST_FUTURE_PEEK (R372). OP peek reads a launch-unit future's state and value. -/
  | hostFuturePeek
  /-- HOST_WINDOW_READ (R371). A BAR2 read reaches HBM through WINBASE on the HOST path. -/
  | hostWindowRead (off n : Nat)
  /-- HOST_WINDOW_WRITE (R371). A BAR2 write reaches HBM through WINBASE on the HOST path. -/
  | hostWindowWrite (off : Nat) (data : List (BitVec 8))
  /-- GETKEY (R374). The Melbex controller returns its P-521 public key. -/
  | getkey
  /-- ATTEST (R375). The Melbex controller returns a signed attestation report over a nonce, the one that BUF holds. -/
  | attest (nonce : List (BitVec 8))
  /-- FWLOAD (R374). The Melbex controller checks a signed firmware image for the next reset, at the address and of the length that BUF holds. -/
  | fwload (addr n : Nat)
  /-- SETBUDGET (R374). The Melbex controller sets the module power budget for the next grant period, to the watts that BUF holds. -/
  | setbudget (watts : Nat)
  /-- REGISTER_WRITE (R370). A host write to a BAR register that has no behaviour of its own stores the value. Virtual function `fn` writes, or the physical one for 64; `off` is an offset in BAR0, or 2⁴⁰ and an offset in BAR4. -/
  | registerWrite (fn off : Nat) (value : BitVec 64)
  /-- NOT_AN_INSTRUCTION (R73). A context reaches a parcel pattern that is no instruction, or fetches at or above 0x2_0000 or CSIZE, and faults ILLOP. -/
  | notAnInstruction
  /-- PORT_UP (R320). A fabric port finishes training and its PORTUP bit becomes 1, so packets may again take it as a usable candidate. -/
  | portUp (port : Nat)
  /-- UNCORRECTABLE_SOFT_ERROR (R331). An uncorrectable soft error strikes local memory, scratchpad, code store, registers, a routine-table entry, a mailbox slot, a TLB entry or a packet header or its argument words. -/
  | uncorrectableSoftError (e : SoftError)
  deriving DecidableEq, Repr, Inhabited

end Sys2Proof
end

