-- ==== Sys2Proof/WellFormed.lean ====
section
/-! DEFINITION. Which terms of Instr are instructions of the part: the checks of R58, R62, R65, R73 and the type codes
each vector function accepts (R121 to R137). -/

namespace Sys2Proof

/-- Why a term is no instruction (each an ILLOP of R73), or an event outside the part's counts. -/
inductive BadForm where
  /-- a T code, or a pair of codes, that the function does not accept (R63, R125) -/
  | typeCode
  /-- X = 1 with SZ = 3 on a load (R62) -/
  | extendBit
  /-- the body length of `loop` is not 1 to 511 (R58) -/
  | loopLength
  /-- no path before or no path after a fence (R65) -/
  | fencePaths
  deriving DecidableEq, Repr, Inhabited

/-- The integer types (R112). -/
def VT.isInt : VT → Bool
  | .i8 | .i16 | .i32 | .i4 => true
  | .f32 | .bf16 | .f16 | .nf8 => false

/-- The types of the SFU and of `vrnd` and `vfloor` (R133, R135). -/
def VT.isFloat : VT → Bool
  | .f32 | .bf16 | .f16 => true
  | .i8 | .i16 | .i32 | .i4 | .nf8 => false

/-- The types `vdot` accepts (R126). -/
def VT.dotType : VT → Bool
  | .i32 => false
  | .i8 | .i16 | .i4 | .f32 | .bf16 | .f16 | .nf8 => true

/-- The types `vldx.t` and `vstx.t` accept (R128). -/
def VT.indexedType : VT → Bool
  | .i16 | .i32 | .f32 | .bf16 | .f16 => true
  | .i8 | .i4 | .nf8 => false

/-- The pairs `vcvt.same` accepts (R125). -/
def cvtSame (t u : VT) : Bool :=
  (t, u) ∈ [(VT.i32, VT.f32), (.f32, .i32), (.i16, .bf16), (.bf16, .i16), (.i16, .f16), (.f16, .i16),
    (.bf16, .f16), (.f16, .bf16), (.i8, .nf8), (.nf8, .i8)]

/-- The pairs `vcvt.widen2` accepts (R125). -/
def cvtWiden2 (t u : VT) : Bool :=
  (t, u) ∈ [(VT.i4, VT.i8), (.i8, .i16), (.i8, .bf16), (.i8, .f16), (.i16, .i32), (.i16, .f32), (.bf16, .i32),
    (.bf16, .f32), (.f16, .i32), (.f16, .f32), (.nf8, .bf16), (.nf8, .f16)]

/-- The pairs `vcvt.widen4` accepts (R125). -/
def cvtWiden4 (t u : VT) : Bool :=
  (t, u) ∈ [(VT.i4, VT.i16), (.i8, .i32), (.i8, .f32), (.nf8, .f32)]

/-- The pairs `vcvt.narrow` accepts: the reverse of every widening pair (R125). -/
def cvtNarrow (t u : VT) : Bool := cvtWiden2 u t || cvtWiden4 u t

/-- A check that gives its reason. -/
def BadForm.unless (ok : Bool) (why : BadForm) : Option BadForm := if ok then none else some why

/-- The first reason why a term is no instruction. -/
def Instr.bad : Instr → Option BadForm
  | .aluAdd _ _ _ _ => none
  | .aluSub _ _ _ _ => none
  | .aluAnd _ _ _ _ => none
  | .aluOr _ _ _ _ => none
  | .aluXor _ _ _ _ => none
  | .aluAndn _ _ _ _ => none
  | .aluShl _ _ _ _ => none
  | .aluShr _ _ _ _ => none
  | .aluSra _ _ _ _ => none
  | .aluRot _ _ _ _ => none
  | .aluMin _ _ _ _ => none
  | .aluMax _ _ _ _ => none
  | .aluMinu _ _ _ _ => none
  | .aluMaxu _ _ _ _ => none
  | .aluSlt _ _ _ _ => none
  | .aluSltu _ _ _ _ => none
  | .alu2Seq _ _ _ _ => none
  | .alu2Sne _ _ _ _ => none
  | .alu2Clz _ _ _ => none
  | .alu2Ctz _ _ _ => none
  | .alu2Popc _ _ _ => none
  | .alu2SextB _ _ _ => none
  | .alu2SextH _ _ _ => none
  | .alu2SextW _ _ _ => none
  | .alu2ZextB _ _ _ => none
  | .alu2ZextH _ _ _ => none
  | .alu2ZextW _ _ _ => none
  | .alu2Mul _ _ _ _ => none
  | .alu2Mulh _ _ _ _ => none
  | .alu2Mulhu _ _ _ _ => none
  | .alu2Div _ _ _ _ => none
  | .alu2Divu _ _ _ _ => none
  | .alu3Rem _ _ _ _ => none
  | .alu3Remu _ _ _ _ => none
  | .alu3Sel _ _ _ _ => none
  | .alu3Bext _ _ _ _ => none
  | .alu3Bins _ _ _ _ => none
  | .alu3Addsat _ _ _ _ => none
  | .alu3Subsat _ _ _ _ => none
  | .alu3Absdiff _ _ _ _ => none
  | .addi _ _ _ _ => none
  | .andi _ _ _ _ => none
  | .ori _ _ _ _ => none
  | .xori _ _ _ _ => none
  | .shiShl _ _ _ _ => none
  | .shiShr _ _ _ _ => none
  | .shiSra _ _ _ _ => none
  | .shiRot _ _ _ _ => none
  | .slti _ _ _ _ => none
  | .movi _ _ _ => none
  | .sltiu _ _ _ _ => none
  | .beq _ _ _ _ => none
  | .bne _ _ _ _ => none
  | .blt _ _ _ _ => none
  | .bge _ _ _ _ => none
  | .bltu _ _ _ _ => none
  | .bgeu _ _ _ _ => none
  | .jmp _ _ => none
  | .call _ _ => none
  | .ctlJr _ _ => none
  | .ctlRet _ => none
  | .ctlEnd _ => none
  | .ctlNop _ => none
  | .ctlTrap _ _ => none
  | .loop _ i _ => BadForm.unless (decide (1 ≤ i.toNat ∧ i.toNat ≤ 511)) .loopLength
  | .ldl _ _ _ z x _ _ => BadForm.unless (!(x && z == .d)) .extendBit
  | .stl _ _ _ _ _ _ => none
  | .ldt _ _ _ z x _ _ => BadForm.unless (!(x && z == .d)) .extendBit
  | .stt _ _ _ _ _ _ => none
  | .fpFadd _ _ _ _ => none
  | .fpFsub _ _ _ _ => none
  | .fpFmul _ _ _ _ => none
  | .fpFmin _ _ _ _ => none
  | .fpFmax _ _ _ _ => none
  | .fpFabs _ _ _ => none
  | .fpFneg _ _ _ => none
  | .fpFeq _ _ _ _ => none
  | .fpFlt _ _ _ _ => none
  | .fpFle _ _ _ _ => none
  | .fpFcvtI2f _ _ _ => none
  | .fpFcvtU2f _ _ _ => none
  | .fpFcvtF2i _ _ _ => none
  | .fpFcvtF2u _ _ _ => none
  | .fpFsqrt _ _ _ => none
  | .fpFclass _ _ _ => none
  | .ffma _ _ _ _ => none
  | .vadd _ _ _ _ _ _ => none
  | .vsub _ _ _ _ _ _ => none
  | .vmul _ _ _ _ _ _ => none
  | .vfma _ _ _ _ _ _ => none
  | .vmin _ _ _ _ _ _ => none
  | .vmax _ _ _ _ _ _ => none
  | .vabs _ _ _ _ _ => none
  | .vneg _ _ _ _ _ => none
  | .vand _ _ _ _ _ _ => none
  | .vor _ _ _ _ _ _ => none
  | .vxor _ _ _ _ _ _ => none
  | .vandn _ _ _ _ _ _ => none
  | .vshl _ _ _ t _ _ => BadForm.unless t.isInt .typeCode
  | .vshr _ _ _ t _ _ => BadForm.unless t.isInt .typeCode
  | .vsra _ _ _ t _ _ => BadForm.unless t.isInt .typeCode
  | .vrot _ _ _ t _ _ => BadForm.unless t.isInt .typeCode
  | .vceq _ _ _ _ _ _ => none
  | .vclt _ _ _ _ _ _ => none
  | .vcle _ _ _ _ _ _ => none
  | .vcne _ _ _ _ _ _ => none
  | .vsel _ _ _ _ _ _ => none
  | .vmov _ _ _ _ _ => none
  | .vbcast _ _ _ _ _ => none
  | .vzero _ _ _ _ => none
  | .vcvtSame _ _ t u _ _ => BadForm.unless (cvtSame t u) .typeCode
  | .vcvtWiden2 _ _ t u _ _ => BadForm.unless (cvtWiden2 t u) .typeCode
  | .vcvtWiden4 _ _ t u _ _ => BadForm.unless (cvtWiden4 t u) .typeCode
  | .vcvtNarrow _ _ t u _ _ => BadForm.unless (cvtNarrow t u) .typeCode
  | .vredsum _ _ _ _ _ => none
  | .vredmax _ _ _ _ _ => none
  | .vredmin _ _ _ _ _ => none
  | .vdot _ _ _ t _ _ => BadForm.unless t.dotType .typeCode
  | .vperm _ _ _ _ _ _ => none
  | .vslide _ _ _ _ _ _ => none
  | .vext _ _ _ _ _ => none
  | .vins _ _ _ _ _ => none
  | .vldT _ _ _ _ _ => none
  | .vldL _ _ _ _ _ => none
  | .vldxT _ _ _ t _ _ => BadForm.unless t.indexedType .typeCode
  | .vstT _ _ _ _ _ => none
  | .vstL _ _ _ _ _ => none
  | .vstxT _ _ _ t _ _ => BadForm.unless t.indexedType .typeCode
  | .vrcp _ _ t _ _ => BadForm.unless t.isFloat .typeCode
  | .vrsq _ _ t _ _ => BadForm.unless t.isFloat .typeCode
  | .vexp2 _ _ t _ _ => BadForm.unless t.isFloat .typeCode
  | .vlog2 _ _ t _ _ => BadForm.unless t.isFloat .typeCode
  | .vsin _ _ t _ _ => BadForm.unless t.isFloat .typeCode
  | .vcos _ _ t _ _ => BadForm.unless t.isFloat .typeCode
  | .vtanh _ _ t _ _ => BadForm.unless t.isFloat .typeCode
  | .vsigm _ _ t _ _ => BadForm.unless t.isFloat .typeCode
  | .vrcpr _ _ _ _ _ => none
  | .vrsqr _ _ _ _ _ => none
  | .vrnd _ _ t _ _ => BadForm.unless t.isFloat .typeCode
  | .vfloor _ _ t _ _ => BadForm.unless t.isFloat .typeCode
  | .vtpack _ _ _ => none
  | .vtunp _ _ _ => none
  | .vtqnt _ _ _ _ _ => none
  | .vtchk _ _ _ => none
  | .kand _ _ _ _ => none
  | .kor _ _ _ _ => none
  | .kxor _ _ _ _ => none
  | .knot _ _ _ => none
  | .kpop _ _ _ => none
  | .kfirst _ _ _ => none
  | .kset _ _ _ _ => none
  | .kmv _ _ _ => none
  | .vaddsat _ _ _ t _ _ => BadForm.unless t.isInt .typeCode
  | .vsubsat _ _ _ t _ _ => BadForm.unless t.isInt .typeCode
  | .vmulh _ _ _ t _ _ => BadForm.unless t.isInt .typeCode
  | .vabsdiff _ _ _ t _ _ => BadForm.unless t.isInt .typeCode
  | .xchg _ _ _ _ => none
  | .send _ _ _ _ => none
  | .sendHalf _ _ _ => none
  | .sendDraw _ _ _ _ => none
  | .sendRop _ _ _ _ => none
  | .wgtWget _ _ => none
  | .wgtWtotal _ _ => none
  | .wgtWret _ _ => none
  | .wgtQarm _ _ _ => none
  | .wgtQdisarm _ => none
  | .wgtWcensus _ _ _ => none
  | .wgtWloss _ _ _ => none
  | .grd _ _ _ _ _ => none
  | .gwr _ _ _ _ _ => none
  | .gst _ _ _ _ _ _ => none
  | .nearAtomAdd _ _ _ => none
  | .nearAtomMax _ _ _ => none
  | .nearAtomCas _ _ _ => none
  | .nearCas4 _ _ _ => none
  | .nearEnq _ _ _ => none
  | .nearChase _ _ _ => none
  | .nearRedAddF32 _ _ _ => none
  | .nearRedMaxF32 _ _ _ => none
  | .nearRedAddI32 _ _ _ => none
  | .nearXswap _ _ _ => none
  | .cpy _ _ _ _ => none
  | .cpyWalk _ _ _ _ => none
  | .cqry _ _ _ => none
  | .cpyCancel _ _ _ => none
  | .tmm _ _ _ _ => none
  | .tstat _ _ _ => none
  | .tabort _ _ _ => none
  | .trgPost _ _ _ _ => none
  | .trgAdd _ _ _ => none
  | .trgRead _ _ _ => none
  | .trgCancel _ _ _ => none
  | .trgAlloc _ _ => none
  | .trgFree _ _ => none
  | .nred _ _ _ => none
  | .nrdef _ _ _ => none
  | .nrfree _ _ _ => none
  | .fnew _ _ _ => none
  | .fset _ _ _ => none
  | .fwait _ _ _ => none
  | .ffree _ _ _ => none
  | .fpeek _ _ _ => none
  | .fence _ _ a b _ => BadForm.unless (a != 0 && b != 0) .fencePaths
  | .launch _ _ _ => none
  | .sysMfs _ _ _ => none
  | .sysMts _ _ _ => none
  | .sysCtxsave _ _ _ => none
  | .sysCtxload _ _ _ => none
  | .sysHalt _ _ => none
  | .sysSysnote _ _ _ => none
  | .spref _ _ _ => none
  | .limm _ => none
  | .compactMov _ _ _ => none
  | .compactAdd _ _ _ => none
  | .compactSub _ _ _ => none
  | .compactAddi _ _ _ => none
  | .compactAnd _ _ _ => none
  | .compactShl _ _ _ => none
  | .compactShr _ _ _ => none
  | .compactLdlD _ _ _ => none
  | .compactStlD _ _ _ => none
  | .compactBeqz _ _ _ => none
  | .compactBnez _ _ _ => none
  | .compactEnd _ => none
  | .compactNop _ => none
  | .compactSendHalf _ _ => none
  | .compactRet _ => none
  | .compactCmov _ _ _ => none
  | .taskStart _ _ => none
  | .remoteOpStart _ _ => none
  | .drainTaskStart _ => none
  | .taskEnd _ => none
  | .vectorOpStart _ => none
  | .vectorOpComplete _ => none
  | .sfuServiceStart _ => none
  | .sfuResult _ => none
  | .ldtResult _ => none
  | .divideResult _ => none
  | .tileStoreLand _ => none
  | .budgetExpiry _ => none
  | .unitRetryReinject _ _ _ => none
  | .messageArrival _ => none
  | .messageRefusal _ => none
  | .messageResend _ => none
  | .sendAcceptReport _ => none
  | .spillReinjectOffer _ => none
  | .holdAck _ => none
  | .accessAck _ => none
  | .routerSwitch _ => none
  | .routerGate _ _ => none
  | .routerWake _ _ => none
  | .routerReady _ _ => none
  | .chainChunk _ => none
  | .chainGrant _ => none
  | .podArrival _ => none
  | .drawArrival _ => none
  | .drawResend _ => none
  | .armArrival _ => none
  | .disarmArrival _ => none
  | .farSendArrival _ => none
  | .censusStart _ => none
  | .censusMarkerSend _ _ => none
  | .censusMarkerArrival _ => none
  | .wlossServe _ => none
  | .homeCopyBroadcast _ => none
  | .stationTranslate _ => none
  | .pageWalk _ => none
  | .parkedRequestResend _ => none
  | .globalPiecePerform _ => none
  | .pieceLanding _ => none
  | .nearOpExecute _ _ => none
  | .chaseForwardArrival _ _ => none
  | .farRetryResend _ => none
  | .storageServiceStart _ => none
  | .writebackComplete _ _ => none
  | .fillComplete _ _ _ => none
  | .nvmeTimeout _ _ => none
  | .frameWaitRetry _ _ => none
  | .migrationReview _ _ => none
  | .migrationComplete _ => none
  | .copyOffer _ _ => none
  | .copyPiece _ _ => none
  | .arrayJobStart _ => none
  | .arrayStep _ => none
  | .arrayRowDrain _ => none
  | .arrayJobComplete _ => none
  | .arrayStopFinish _ => none
  | .xchgActivate _ => none
  | .arriveReceive _ => none
  | .arriveResend _ => none
  | .xchgRowReceive _ => none
  | .xchgRowAck _ => none
  | .xchgTimeout _ => none
  | .triggerArrival _ _ => none
  | .triggerFire _ => none
  | .nrdefProgram _ => none
  | .nrfreeRemove _ => none
  | .contributionArrival _ => none
  | .routerCombine _ _ _ _ => none
  | .roundStartNotice _ => none
  | .roundTimeout _ _ => none
  | .closeArrival _ => none
  | .roundComplete _ _ => none
  | .futureRequestServe _ => none
  | .fwaitResend _ => none
  | .launchRequestArrival _ => none
  | .launchResend _ => none
  | .launchRecordTake => none
  | .launchCreate _ => none
  | .rootInject => none
  | .contextRestore _ => none
  | .savedFarSendSpill _ => none
  | .checkpointDigestArrival _ _ _ _ _ => none
  | .checkpointFlushDone _ => none
  | .checkpointPeerlost _ => none
  | .fabricPacketArrival _ _ => none
  | .fabricNakArrival _ _ => none
  | .flitCrcReplay _ => none
  | .portDown _ => none
  | .jobTagTimeout _ => none
  | .powerGrant _ _ => none
  | .thermalCap _ => none
  | .thermalHalt _ => none
  | .deviceReset _ => none
  | .linkTraining _ _ => none
  | .hwqDoorbell _ _ _ => none
  | .tlbInvalidate _ => none
  | .poolTailWrite _ _ => none
  | .jobTagWrite _ _ => none
  | .routeEntryWrite _ _ => none
  | .jobctlResume _ => none
  | .jobctlAbort _ => none
  | .hostFutureNew => none
  | .hostFutureSet => none
  | .hostFutureFree => none
  | .hostFuturePeek => none
  | .hostWindowRead _ _ => none
  | .hostWindowWrite _ _ => none
  | .getkey => none
  | .attest _ => none
  | .fwload _ _ => none
  | .setbudget _ => none
  | .registerWrite _ _ _ => none
  | .notAnInstruction => none
  | .portUp _ => none
  | .uncorrectableSoftError _ => none

/-- A well-formed instruction or event. -/
abbrev WellFormed (i : Instr) : Prop := i.bad = none

end Sys2Proof
end

