-- ==== Sys2Proof/Decode.lean ====
section
/-! DEFINITION. The decoder of the code store's bytes (R54 to R73), total and rejecting by name, and the encoder written
from the same tables. -/

namespace Sys2Proof

/-- Why bytes are no instruction. Each is an ILLOP of R73. -/
inductive DecodeError where
  /-- the parcels the instruction needs are not there (R54) -/
  | truncated
  /-- MAJ 0x3D or 0x3E (R72) -/
  | reservedMajor
  /-- a reserved F value (R72) -/
  | reservedFunction
  /-- a nonzero field, or part of one, that the form does not use (R66) -/
  | unusedField
  /-- a reserved value of KIND or SCOPE (R65) -/
  | reservedFence
  /-- a prefix with S or G set (R69) -/
  | prefixMark
  /-- CO 0 or 17 to 31 (R68) -/
  | reservedCompact
  /-- the form is refused by `Instr.bad` -/
  | badForm (why : BadForm)
  deriving DecidableEq, Repr, Inhabited

/-! ## Fields -/

/-- The operand name of a 6-bit field (R18). -/
def Name.ofCode (n : Nat) : Name :=
  if n < 32 then .s (Fin.ofNat 32 n)
  else if n < 48 then .m (Fin.ofNat 16 (n - 32))
  else if n < 56 then .d (Fin.ofNat 8 (n - 48))
  else if n = 56 then .z
  else if n = 57 then .h
  else if n = 58 then .wt
  else if n = 59 then .self
  else if n = 60 then .job
  else if n = 61 then .clk
  else if n = 62 then .msg
  else .rsvd

/-- The 6-bit field of an operand name (R18). -/
def Name.code : Name → Nat
  | .s n => n.val
  | .m n => 32 + n.val
  | .d n => 48 + n.val
  | .z => 56
  | .h => 57
  | .wt => 58
  | .self => 59
  | .job => 60
  | .clk => 61
  | .msg => 62
  | .rsvd => 63

/-- The element type of a 3-bit type code (R63). -/
def VT.ofCode : Nat → VT
  | 0 => .i8
  | 1 => .i16
  | 2 => .i32
  | 3 => .i4
  | 4 => .f32
  | 5 => .bf16
  | 6 => .f16
  | _ => .nf8

/-- The 3-bit type code (R63). -/
def VT.code : VT → Nat
  | .i8 => 0
  | .i16 => 1
  | .i32 => 2
  | .i4 => 3
  | .f32 => 4
  | .bf16 => 5
  | .f16 => 6
  | .nf8 => 7

/-- The access size of SZ (R62). -/
def Size.ofCode : Nat → Size
  | 0 => .b
  | 1 => .h
  | 2 => .w
  | _ => .d

/-- The field SZ (R62). -/
def Size.code : Size → Nat
  | .b => 0
  | .h => 1
  | .w => 2
  | .d => 3

/-- The fence kind of KIND, where it is one (R65). -/
def FenceKind.ofCode? : Nat → Option FenceKind
  | 0 => some .acquire
  | 1 => some .release
  | 2 => some .full
  | _ => none

/-- The field KIND (R65). -/
def FenceKind.code : FenceKind → Nat
  | .acquire => 0
  | .release => 1
  | .full => 2

/-- The scope of SCOPE, where it is one (R65). -/
def Scope.ofCode? : Nat → Option Scope
  | 0 => some .task
  | 1 => some .core
  | 2 => some .tile
  | 3 => some .die
  | 4 => some .device
  | 5 => some .system
  | _ => none

/-- The field SCOPE (R65). -/
def Scope.code : Scope → Nat
  | .task => 0
  | .core => 1
  | .tile => 2
  | .die => 3
  | .device => 4
  | .system => 5

/-- The mark of the bits [3:1] (R56). -/
def Mark.ofCode (n : Nat) : Mark := ⟨Fin.ofNat 4 (n / 2), n % 2 = 1⟩

/-- The bits [3:1] of a mark (R56). -/
def Mark.code (m : Mark) : Nat := 2 * m.g.val + m.s.toNat

/-- A one-bit field. -/
def bitOf (n : Nat) : Bool := n % 2 = 1

/-- A decoded form, once the fields it does not use are seen to be 0 (R66). -/
def unusedZero (fs : List Nat) (i : Instr) : Except DecodeError Instr :=
  if fs.all (· = 0) then .ok i else .error .unusedField

/-! ## The 32-bit formats

The decoder of a format takes its fields above MAJ; the word of a format is put together from the same fields. -/

/-- Major 0x00, format A or E (R57, R64, R72). -/
def decodeAlu (f b a d : Nat) (m : Mark) : Except DecodeError Instr :=
  match f with
  | 0 => .ok (.aluAdd (.ofCode d) (.ofCode a) (.ofCode b) m)
  | 1 => .ok (.aluSub (.ofCode d) (.ofCode a) (.ofCode b) m)
  | 2 => .ok (.aluAnd (.ofCode d) (.ofCode a) (.ofCode b) m)
  | 3 => .ok (.aluOr (.ofCode d) (.ofCode a) (.ofCode b) m)
  | 4 => .ok (.aluXor (.ofCode d) (.ofCode a) (.ofCode b) m)
  | 5 => .ok (.aluAndn (.ofCode d) (.ofCode a) (.ofCode b) m)
  | 6 => .ok (.aluShl (.ofCode d) (.ofCode a) (.ofCode b) m)
  | 7 => .ok (.aluShr (.ofCode d) (.ofCode a) (.ofCode b) m)
  | 8 => .ok (.aluSra (.ofCode d) (.ofCode a) (.ofCode b) m)
  | 9 => .ok (.aluRot (.ofCode d) (.ofCode a) (.ofCode b) m)
  | 10 => .ok (.aluMin (.ofCode d) (.ofCode a) (.ofCode b) m)
  | 11 => .ok (.aluMax (.ofCode d) (.ofCode a) (.ofCode b) m)
  | 12 => .ok (.aluMinu (.ofCode d) (.ofCode a) (.ofCode b) m)
  | 13 => .ok (.aluMaxu (.ofCode d) (.ofCode a) (.ofCode b) m)
  | 14 => .ok (.aluSlt (.ofCode d) (.ofCode a) (.ofCode b) m)
  | 15 => .ok (.aluSltu (.ofCode d) (.ofCode a) (.ofCode b) m)
  | _ => .error .reservedFunction

/-- Major 0x01, format A or E (R57, R64, R72). -/
def decodeAlu2 (f b a d : Nat) (m : Mark) : Except DecodeError Instr :=
  match f with
  | 0 => .ok (.alu2Seq (.ofCode d) (.ofCode a) (.ofCode b) m)
  | 1 => .ok (.alu2Sne (.ofCode d) (.ofCode a) (.ofCode b) m)
  | 2 => unusedZero [b] (.alu2Clz (.ofCode d) (.ofCode a) m)
  | 3 => unusedZero [b] (.alu2Ctz (.ofCode d) (.ofCode a) m)
  | 4 => unusedZero [b] (.alu2Popc (.ofCode d) (.ofCode a) m)
  | 5 => unusedZero [b] (.alu2SextB (.ofCode d) (.ofCode a) m)
  | 6 => unusedZero [b] (.alu2SextH (.ofCode d) (.ofCode a) m)
  | 7 => unusedZero [b] (.alu2SextW (.ofCode d) (.ofCode a) m)
  | 8 => unusedZero [b] (.alu2ZextB (.ofCode d) (.ofCode a) m)
  | 9 => unusedZero [b] (.alu2ZextH (.ofCode d) (.ofCode a) m)
  | 10 => unusedZero [b] (.alu2ZextW (.ofCode d) (.ofCode a) m)
  | 11 => .ok (.alu2Mul (.ofCode d) (.ofCode a) (.ofCode b) m)
  | 12 => .ok (.alu2Mulh (.ofCode d) (.ofCode a) (.ofCode b) m)
  | 13 => .ok (.alu2Mulhu (.ofCode d) (.ofCode a) (.ofCode b) m)
  | 14 => .ok (.alu2Div (.ofCode d) (.ofCode a) (.ofCode b) m)
  | 15 => .ok (.alu2Divu (.ofCode d) (.ofCode a) (.ofCode b) m)
  | _ => .error .reservedFunction

/-- Major 0x02, format A or E (R57, R64, R72). -/
def decodeAlu3 (f b a d : Nat) (m : Mark) : Except DecodeError Instr :=
  match f with
  | 0 => .ok (.alu3Rem (.ofCode d) (.ofCode a) (.ofCode b) m)
  | 1 => .ok (.alu3Remu (.ofCode d) (.ofCode a) (.ofCode b) m)
  | 2 => .ok (.alu3Sel (.ofCode d) (.ofCode a) (.ofCode b) m)
  | 3 => .ok (.alu3Bext (.ofCode d) (.ofCode a) (.ofCode b) m)
  | 4 => .ok (.alu3Bins (.ofCode d) (.ofCode a) (.ofCode b) m)
  | 5 => .ok (.alu3Addsat (.ofCode d) (.ofCode a) (.ofCode b) m)
  | 6 => .ok (.alu3Subsat (.ofCode d) (.ofCode a) (.ofCode b) m)
  | 7 => .ok (.alu3Absdiff (.ofCode d) (.ofCode a) (.ofCode b) m)
  | _ => .error .reservedFunction

/-- Major 0x07, `shi`: IMM10 read as fields (R58). -/
def decodeShi (i a d : Nat) (m : Mark) : Except DecodeError Instr :=
  if i / 256 = 0 then
    match i / 64 with
    | 0 => .ok (.shiShl (.ofCode d) (.ofCode a) (BitVec.ofNat 6 i) m)
    | 1 => .ok (.shiShr (.ofCode d) (.ofCode a) (BitVec.ofNat 6 i) m)
    | 2 => .ok (.shiSra (.ofCode d) (.ofCode a) (BitVec.ofNat 6 i) m)
    | _ => .ok (.shiRot (.ofCode d) (.ofCode a) (BitVec.ofNat 6 i) m)
  else .error .unusedField

/-- Major 0x13, format A or E (R57, R64, R72). -/
def decodeCtl (f b a d : Nat) (m : Mark) : Except DecodeError Instr :=
  match f with
  | 0 => unusedZero [d, b] (.ctlJr (.ofCode a) m)
  | 1 => unusedZero [d, a, b] (.ctlRet m)
  | 2 => unusedZero [d, a, b] (.ctlEnd m)
  | 3 => unusedZero [d, a, b] (.ctlNop m)
  | 4 => unusedZero [d, b] (.ctlTrap (.ofCode a) m)
  | _ => .error .reservedFunction

/-- Major 0x19, format A or E (R57, R64, R72). -/
def decodeFp (f b a d : Nat) (m : Mark) : Except DecodeError Instr :=
  match f with
  | 0 => .ok (.fpFadd (.ofCode d) (.ofCode a) (.ofCode b) m)
  | 1 => .ok (.fpFsub (.ofCode d) (.ofCode a) (.ofCode b) m)
  | 2 => .ok (.fpFmul (.ofCode d) (.ofCode a) (.ofCode b) m)
  | 3 => .ok (.fpFmin (.ofCode d) (.ofCode a) (.ofCode b) m)
  | 4 => .ok (.fpFmax (.ofCode d) (.ofCode a) (.ofCode b) m)
  | 5 => unusedZero [b] (.fpFabs (.ofCode d) (.ofCode a) m)
  | 6 => unusedZero [b] (.fpFneg (.ofCode d) (.ofCode a) m)
  | 7 => .ok (.fpFeq (.ofCode d) (.ofCode a) (.ofCode b) m)
  | 8 => .ok (.fpFlt (.ofCode d) (.ofCode a) (.ofCode b) m)
  | 9 => .ok (.fpFle (.ofCode d) (.ofCode a) (.ofCode b) m)
  | 10 => unusedZero [b] (.fpFcvtI2f (.ofCode d) (.ofCode a) m)
  | 11 => unusedZero [b] (.fpFcvtU2f (.ofCode d) (.ofCode a) m)
  | 12 => unusedZero [b] (.fpFcvtF2i (.ofCode d) (.ofCode a) m)
  | 13 => unusedZero [b] (.fpFcvtF2u (.ofCode d) (.ofCode a) m)
  | 14 => unusedZero [b] (.fpFsqrt (.ofCode d) (.ofCode a) m)
  | 15 => unusedZero [b] (.fpFclass (.ofCode d) (.ofCode a) m)
  | _ => .error .reservedFunction

/-- Major 0x1A, format A or E (R57, R64, R72). -/
def decodeFfma (f b a d : Nat) (m : Mark) : Except DecodeError Instr :=
  match f with
  | 0 => .ok (.ffma (.ofCode d) (.ofCode a) (.ofCode b) m)
  | _ => .error .reservedFunction

/-- Major 0x1B, format V (R63, R72). -/
def decodeVarith (f k t b a d : Nat) (m : Mark) : Except DecodeError Instr :=
  match f with
  | 0 => .ok (.vadd (Fin.ofNat 32 d) (Fin.ofNat 32 a) (Fin.ofNat 32 b) (.ofCode t) (Fin.ofNat 4 k) m)
  | 1 => .ok (.vsub (Fin.ofNat 32 d) (Fin.ofNat 32 a) (Fin.ofNat 32 b) (.ofCode t) (Fin.ofNat 4 k) m)
  | 2 => .ok (.vmul (Fin.ofNat 32 d) (Fin.ofNat 32 a) (Fin.ofNat 32 b) (.ofCode t) (Fin.ofNat 4 k) m)
  | _ => .ok (.vfma (Fin.ofNat 32 d) (Fin.ofNat 32 a) (Fin.ofNat 32 b) (.ofCode t) (Fin.ofNat 4 k) m)

/-- Major 0x1C, format V (R63, R72). -/
def decodeVarith2 (f k t b a d : Nat) (m : Mark) : Except DecodeError Instr :=
  match f with
  | 0 => .ok (.vmin (Fin.ofNat 32 d) (Fin.ofNat 32 a) (Fin.ofNat 32 b) (.ofCode t) (Fin.ofNat 4 k) m)
  | 1 => .ok (.vmax (Fin.ofNat 32 d) (Fin.ofNat 32 a) (Fin.ofNat 32 b) (.ofCode t) (Fin.ofNat 4 k) m)
  | 2 => unusedZero [b] (.vabs (Fin.ofNat 32 d) (Fin.ofNat 32 a) (.ofCode t) (Fin.ofNat 4 k) m)
  | _ => unusedZero [b] (.vneg (Fin.ofNat 32 d) (Fin.ofNat 32 a) (.ofCode t) (Fin.ofNat 4 k) m)

/-- Major 0x1D, format V (R63, R72). -/
def decodeVlogic (f k t b a d : Nat) (m : Mark) : Except DecodeError Instr :=
  match f with
  | 0 => .ok (.vand (Fin.ofNat 32 d) (Fin.ofNat 32 a) (Fin.ofNat 32 b) (.ofCode t) (Fin.ofNat 4 k) m)
  | 1 => .ok (.vor (Fin.ofNat 32 d) (Fin.ofNat 32 a) (Fin.ofNat 32 b) (.ofCode t) (Fin.ofNat 4 k) m)
  | 2 => .ok (.vxor (Fin.ofNat 32 d) (Fin.ofNat 32 a) (Fin.ofNat 32 b) (.ofCode t) (Fin.ofNat 4 k) m)
  | _ => .ok (.vandn (Fin.ofNat 32 d) (Fin.ofNat 32 a) (Fin.ofNat 32 b) (.ofCode t) (Fin.ofNat 4 k) m)

/-- Major 0x1E, format V (R63, R72). -/
def decodeVshift (f k t b a d : Nat) (m : Mark) : Except DecodeError Instr :=
  match f with
  | 0 => .ok (.vshl (Fin.ofNat 32 d) (Fin.ofNat 32 a) (Fin.ofNat 32 b) (.ofCode t) (Fin.ofNat 4 k) m)
  | 1 => .ok (.vshr (Fin.ofNat 32 d) (Fin.ofNat 32 a) (Fin.ofNat 32 b) (.ofCode t) (Fin.ofNat 4 k) m)
  | 2 => .ok (.vsra (Fin.ofNat 32 d) (Fin.ofNat 32 a) (Fin.ofNat 32 b) (.ofCode t) (Fin.ofNat 4 k) m)
  | _ => .ok (.vrot (Fin.ofNat 32 d) (Fin.ofNat 32 a) (Fin.ofNat 32 b) (.ofCode t) (Fin.ofNat 4 k) m)

/-- Major 0x1F, format V (R63, R72). -/
def decodeVcmp (f k t b a d : Nat) (m : Mark) : Except DecodeError Instr :=
  match f with
  | 0 => unusedZero [d / 8] (.vceq (Fin.ofNat 8 d) (Fin.ofNat 32 a) (Fin.ofNat 32 b) (.ofCode t) (Fin.ofNat 4 k) m)
  | 1 => unusedZero [d / 8] (.vclt (Fin.ofNat 8 d) (Fin.ofNat 32 a) (Fin.ofNat 32 b) (.ofCode t) (Fin.ofNat 4 k) m)
  | 2 => unusedZero [d / 8] (.vcle (Fin.ofNat 8 d) (Fin.ofNat 32 a) (Fin.ofNat 32 b) (.ofCode t) (Fin.ofNat 4 k) m)
  | _ => unusedZero [d / 8] (.vcne (Fin.ofNat 8 d) (Fin.ofNat 32 a) (Fin.ofNat 32 b) (.ofCode t) (Fin.ofNat 4 k) m)

/-- Major 0x20, format V (R63, R72). -/
def decodeVmove (f k t b a d : Nat) (m : Mark) : Except DecodeError Instr :=
  match f with
  | 0 => .ok (.vsel (Fin.ofNat 32 d) (Fin.ofNat 32 a) (Fin.ofNat 32 b) (.ofCode t) (Fin.ofNat 4 k) m)
  | 1 => unusedZero [b] (.vmov (Fin.ofNat 32 d) (Fin.ofNat 32 a) (.ofCode t) (Fin.ofNat 4 k) m)
  | 2 => unusedZero [b] (.vbcast (Fin.ofNat 32 d) (Fin.ofNat 32 a) (.ofCode t) (Fin.ofNat 4 k) m)
  | _ => unusedZero [a, b] (.vzero (Fin.ofNat 32 d) (.ofCode t) (Fin.ofNat 4 k) m)

/-- Major 0x21, format V (R63, R72). -/
def decodeVcvt (f k t b a d : Nat) (m : Mark) : Except DecodeError Instr :=
  match f with
  | 0 => unusedZero [b / 8] (.vcvtSame (Fin.ofNat 32 d) (Fin.ofNat 32 a) (.ofCode t) (.ofCode (b % 8)) (Fin.ofNat 4 k) m)
  | 1 => unusedZero [b / 8] (.vcvtWiden2 (Fin.ofNat 32 d) (Fin.ofNat 32 a) (.ofCode t) (.ofCode (b % 8)) (Fin.ofNat 4 k) m)
  | 2 => unusedZero [b / 8] (.vcvtWiden4 (Fin.ofNat 32 d) (Fin.ofNat 32 a) (.ofCode t) (.ofCode (b % 8)) (Fin.ofNat 4 k) m)
  | _ => unusedZero [b / 8] (.vcvtNarrow (Fin.ofNat 32 d) (Fin.ofNat 32 a) (.ofCode t) (.ofCode (b % 8)) (Fin.ofNat 4 k) m)

/-- Major 0x22, format V (R63, R72). -/
def decodeVred (f k t b a d : Nat) (m : Mark) : Except DecodeError Instr :=
  match f with
  | 0 => unusedZero [b] (.vredsum (Fin.ofNat 32 d) (Fin.ofNat 32 a) (.ofCode t) (Fin.ofNat 4 k) m)
  | 1 => unusedZero [b] (.vredmax (Fin.ofNat 32 d) (Fin.ofNat 32 a) (.ofCode t) (Fin.ofNat 4 k) m)
  | 2 => unusedZero [b] (.vredmin (Fin.ofNat 32 d) (Fin.ofNat 32 a) (.ofCode t) (Fin.ofNat 4 k) m)
  | _ => .ok (.vdot (Fin.ofNat 32 d) (Fin.ofNat 32 a) (Fin.ofNat 32 b) (.ofCode t) (Fin.ofNat 4 k) m)

/-- Major 0x23, format V (R63, R72). -/
def decodeVperm (f k t b a d : Nat) (m : Mark) : Except DecodeError Instr :=
  match f with
  | 0 => .ok (.vperm (Fin.ofNat 32 d) (Fin.ofNat 32 a) (Fin.ofNat 32 b) (.ofCode t) (Fin.ofNat 4 k) m)
  | 1 => .ok (.vslide (Fin.ofNat 32 d) (Fin.ofNat 32 a) (Fin.ofNat 32 b) (.ofCode t) (Fin.ofNat 4 k) m)
  | 2 => unusedZero [k] (.vext (Fin.ofNat 32 d) (Fin.ofNat 32 a) (Fin.ofNat 32 b) (.ofCode t) m)
  | _ => unusedZero [k] (.vins (Fin.ofNat 32 d) (Fin.ofNat 32 a) (Fin.ofNat 32 b) (.ofCode t) m)

/-- Major 0x24, format V (R63, R72). -/
def decodeVld (f k t b a d : Nat) (m : Mark) : Except DecodeError Instr :=
  match f with
  | 0 => unusedZero [b] (.vldT (Fin.ofNat 32 d) (Fin.ofNat 32 a) (.ofCode t) (Fin.ofNat 4 k) m)
  | 1 => unusedZero [b] (.vldL (Fin.ofNat 32 d) (Fin.ofNat 32 a) (.ofCode t) (Fin.ofNat 4 k) m)
  | 2 => .ok (.vldxT (Fin.ofNat 32 d) (Fin.ofNat 32 a) (Fin.ofNat 32 b) (.ofCode t) (Fin.ofNat 4 k) m)
  | _ => .error .reservedFunction

/-- Major 0x25, format V (R63, R72). -/
def decodeVst (f k t b a d : Nat) (m : Mark) : Except DecodeError Instr :=
  match f with
  | 0 => unusedZero [b] (.vstT (Fin.ofNat 32 d) (Fin.ofNat 32 a) (.ofCode t) (Fin.ofNat 4 k) m)
  | 1 => unusedZero [b] (.vstL (Fin.ofNat 32 d) (Fin.ofNat 32 a) (.ofCode t) (Fin.ofNat 4 k) m)
  | 2 => .ok (.vstxT (Fin.ofNat 32 d) (Fin.ofNat 32 a) (Fin.ofNat 32 b) (.ofCode t) (Fin.ofNat 4 k) m)
  | _ => .error .reservedFunction

/-- Major 0x26, format V (R63, R72). -/
def decodeVsfa (f k t b a d : Nat) (m : Mark) : Except DecodeError Instr :=
  match f with
  | 0 => unusedZero [b] (.vrcp (Fin.ofNat 32 d) (Fin.ofNat 32 a) (.ofCode t) (Fin.ofNat 4 k) m)
  | 1 => unusedZero [b] (.vrsq (Fin.ofNat 32 d) (Fin.ofNat 32 a) (.ofCode t) (Fin.ofNat 4 k) m)
  | 2 => unusedZero [b] (.vexp2 (Fin.ofNat 32 d) (Fin.ofNat 32 a) (.ofCode t) (Fin.ofNat 4 k) m)
  | _ => unusedZero [b] (.vlog2 (Fin.ofNat 32 d) (Fin.ofNat 32 a) (.ofCode t) (Fin.ofNat 4 k) m)

/-- Major 0x27, format V (R63, R72). -/
def decodeVsfb (f k t b a d : Nat) (m : Mark) : Except DecodeError Instr :=
  match f with
  | 0 => unusedZero [b] (.vsin (Fin.ofNat 32 d) (Fin.ofNat 32 a) (.ofCode t) (Fin.ofNat 4 k) m)
  | 1 => unusedZero [b] (.vcos (Fin.ofNat 32 d) (Fin.ofNat 32 a) (.ofCode t) (Fin.ofNat 4 k) m)
  | 2 => unusedZero [b] (.vtanh (Fin.ofNat 32 d) (Fin.ofNat 32 a) (.ofCode t) (Fin.ofNat 4 k) m)
  | _ => unusedZero [b] (.vsigm (Fin.ofNat 32 d) (Fin.ofNat 32 a) (.ofCode t) (Fin.ofNat 4 k) m)

/-- Major 0x28, format V (R63, R72). -/
def decodeVrefine (f k t b a d : Nat) (m : Mark) : Except DecodeError Instr :=
  match f with
  | 0 => if t = 4 then .ok (.vrcpr (Fin.ofNat 32 d) (Fin.ofNat 32 a) (Fin.ofNat 32 b) (Fin.ofNat 4 k) m) else .error (.badForm .typeCode)
  | 1 => if t = 4 then .ok (.vrsqr (Fin.ofNat 32 d) (Fin.ofNat 32 a) (Fin.ofNat 32 b) (Fin.ofNat 4 k) m) else .error (.badForm .typeCode)
  | 2 => unusedZero [b] (.vrnd (Fin.ofNat 32 d) (Fin.ofNat 32 a) (.ofCode t) (Fin.ofNat 4 k) m)
  | _ => unusedZero [b] (.vfloor (Fin.ofNat 32 d) (Fin.ofNat 32 a) (.ofCode t) (Fin.ofNat 4 k) m)

/-- Major 0x29, format V (R63, R72). -/
def decodeVtern (f k t b a d : Nat) (m : Mark) : Except DecodeError Instr :=
  match f with
  | 0 => unusedZero [b, k, t] (.vtpack (Fin.ofNat 32 d) (Fin.ofNat 32 a) m)
  | 1 => unusedZero [b, k, t] (.vtunp (Fin.ofNat 32 d) (Fin.ofNat 32 a) m)
  | 2 => if t = 4 then .ok (.vtqnt (Fin.ofNat 32 d) (Fin.ofNat 32 a) (Fin.ofNat 32 b) (Fin.ofNat 4 k) m) else .error (.badForm .typeCode)
  | _ => unusedZero [d / 8, b, k, t] (.vtchk (Fin.ofNat 8 d) (Fin.ofNat 32 a) m)

/-- Major 0x2A, format V (R63, R72). -/
def decodeKlogic (f k t b a d : Nat) (m : Mark) : Except DecodeError Instr :=
  match f with
  | 0 => unusedZero [d / 8, a / 8, b / 8, k, t] (.kand (Fin.ofNat 8 d) (Fin.ofNat 8 a) (Fin.ofNat 8 b) m)
  | 1 => unusedZero [d / 8, a / 8, b / 8, k, t] (.kor (Fin.ofNat 8 d) (Fin.ofNat 8 a) (Fin.ofNat 8 b) m)
  | 2 => unusedZero [d / 8, a / 8, b / 8, k, t] (.kxor (Fin.ofNat 8 d) (Fin.ofNat 8 a) (Fin.ofNat 8 b) m)
  | _ => unusedZero [d / 8, a / 8, b, k, t] (.knot (Fin.ofNat 8 d) (Fin.ofNat 8 a) m)

/-- Major 0x2B, format V (R63, R72). -/
def decodeKmisc (f k t b a d : Nat) (m : Mark) : Except DecodeError Instr :=
  match f with
  | 0 => unusedZero [a / 8, b, k, t] (.kpop (Fin.ofNat 32 d) (Fin.ofNat 8 a) m)
  | 1 => unusedZero [a / 8, b, k, t] (.kfirst (Fin.ofNat 32 d) (Fin.ofNat 8 a) m)
  | 2 => unusedZero [d / 8, k, t] (.kset (Fin.ofNat 8 d) (Fin.ofNat 32 a) (Fin.ofNat 32 b) m)
  | _ => unusedZero [d / 8, a / 8, b, k, t] (.kmv (Fin.ofNat 8 d) (Fin.ofNat 8 a) m)

/-- Major 0x2C, format V (R63, R72). -/
def decodeVint (f k t b a d : Nat) (m : Mark) : Except DecodeError Instr :=
  match f with
  | 0 => .ok (.vaddsat (Fin.ofNat 32 d) (Fin.ofNat 32 a) (Fin.ofNat 32 b) (.ofCode t) (Fin.ofNat 4 k) m)
  | 1 => .ok (.vsubsat (Fin.ofNat 32 d) (Fin.ofNat 32 a) (Fin.ofNat 32 b) (.ofCode t) (Fin.ofNat 4 k) m)
  | 2 => .ok (.vmulh (Fin.ofNat 32 d) (Fin.ofNat 32 a) (Fin.ofNat 32 b) (.ofCode t) (Fin.ofNat 4 k) m)
  | _ => .ok (.vabsdiff (Fin.ofNat 32 d) (Fin.ofNat 32 a) (Fin.ofNat 32 b) (.ofCode t) (Fin.ofNat 4 k) m)

/-- Major 0x2D, format A or E (R57, R64, R72). -/
def decodeXchg (f b a d : Nat) (m : Mark) : Except DecodeError Instr :=
  match f with
  | 0 => .ok (.xchg (.ofCode d) (.ofCode a) (.ofCode b) m)
  | _ => .error .reservedFunction

/-- Major 0x2E, format A or E (R57, R64, R72). -/
def decodeSend (f b a d : Nat) (m : Mark) : Except DecodeError Instr :=
  match f % 8 with
  | 0 => unusedZero [d] (.send (.ofCode a) (.ofCode b) (bitOf (f / 8)) m)
  | 1 => unusedZero [d, b] (.sendHalf (.ofCode a) (bitOf (f / 8)) m)
  | 2 => unusedZero [d] (.sendDraw (.ofCode a) (.ofCode b) (bitOf (f / 8)) m)
  | 3 => unusedZero [d] (.sendRop (.ofCode a) (.ofCode b) (bitOf (f / 8)) m)
  | _ => .error .reservedFunction

/-- Major 0x2F, format A or E (R57, R64, R72). -/
def decodeWgt (f b a d : Nat) (m : Mark) : Except DecodeError Instr :=
  match f with
  | 0 => unusedZero [a, b] (.wgtWget (.ofCode d) m)
  | 1 => unusedZero [a, b] (.wgtWtotal (.ofCode d) m)
  | 2 => unusedZero [d, b] (.wgtWret (.ofCode a) m)
  | 3 => unusedZero [d] (.wgtQarm (.ofCode a) (.ofCode b) m)
  | 4 => unusedZero [d, a, b] (.wgtQdisarm m)
  | 5 => unusedZero [d] (.wgtWcensus (.ofCode a) (.ofCode b) m)
  | 6 => unusedZero [d] (.wgtWloss (.ofCode a) (.ofCode b) m)
  | _ => .error .reservedFunction

/-- Major 0x30, format A or E (R57, R64, R72). -/
def decodeGrd (f b a d : Nat) (m : Mark) : Except DecodeError Instr :=
  if f / 4 = 0 then unusedZero [d] (.grd (.ofCode a) (.ofCode b) (bitOf (f / 2)) (bitOf f) m)
  else .error .reservedFunction

/-- Major 0x31, format A or E (R57, R64, R72). -/
def decodeGwr (f b a d : Nat) (m : Mark) : Except DecodeError Instr :=
  if f / 4 = 0 then unusedZero [d] (.gwr (.ofCode a) (.ofCode b) (bitOf (f / 2)) (bitOf f) m)
  else .error .reservedFunction

/-- Major 0x33, format A or E (R57, R64, R72). -/
def decodeNear (f b a d : Nat) (m : Mark) : Except DecodeError Instr :=
  match f with
  | 0 => unusedZero [d] (.nearAtomAdd (.ofCode a) (.ofCode b) m)
  | 1 => unusedZero [d] (.nearAtomMax (.ofCode a) (.ofCode b) m)
  | 2 => unusedZero [d] (.nearAtomCas (.ofCode a) (.ofCode b) m)
  | 3 => unusedZero [d] (.nearCas4 (.ofCode a) (.ofCode b) m)
  | 4 => unusedZero [d] (.nearEnq (.ofCode a) (.ofCode b) m)
  | 5 => unusedZero [d] (.nearChase (.ofCode a) (.ofCode b) m)
  | 6 => unusedZero [d] (.nearRedAddF32 (.ofCode a) (.ofCode b) m)
  | 7 => unusedZero [d] (.nearRedMaxF32 (.ofCode a) (.ofCode b) m)
  | 8 => unusedZero [d] (.nearRedAddI32 (.ofCode a) (.ofCode b) m)
  | 9 => unusedZero [d] (.nearXswap (.ofCode a) (.ofCode b) m)
  | _ => .error .reservedFunction

/-- Major 0x34, format A or E (R57, R64, R72). -/
def decodeCpy (f b a d : Nat) (m : Mark) : Except DecodeError Instr :=
  match f with
  | 0 => .ok (.cpy (.ofCode d) (.ofCode a) (.ofCode b) m)
  | 1 => .ok (.cpyWalk (.ofCode d) (.ofCode a) (.ofCode b) m)
  | 2 => unusedZero [b] (.cqry (.ofCode d) (.ofCode a) m)
  | 3 => unusedZero [b] (.cpyCancel (.ofCode d) (.ofCode a) m)
  | _ => .error .reservedFunction

/-- Major 0x35, format A or E (R57, R64, R72). -/
def decodeTmm (f b a d : Nat) (m : Mark) : Except DecodeError Instr :=
  match f with
  | 0 => .ok (.tmm (.ofCode d) (.ofCode a) (.ofCode b) m)
  | 1 => unusedZero [b] (.tstat (.ofCode d) (.ofCode a) m)
  | 2 => unusedZero [b] (.tabort (.ofCode d) (.ofCode a) m)
  | _ => .error .reservedFunction

/-- Major 0x36, format A or E (R57, R64, R72). -/
def decodeTrg (f b a d : Nat) (m : Mark) : Except DecodeError Instr :=
  match f with
  | 0 => .ok (.trgPost (.ofCode d) (.ofCode a) (.ofCode b) m)
  | 1 => unusedZero [d] (.trgAdd (.ofCode a) (.ofCode b) m)
  | 2 => unusedZero [b] (.trgRead (.ofCode d) (.ofCode a) m)
  | 3 => unusedZero [b] (.trgCancel (.ofCode d) (.ofCode a) m)
  | 4 => unusedZero [a, b] (.trgAlloc (.ofCode d) m)
  | 5 => unusedZero [d, b] (.trgFree (.ofCode a) m)
  | _ => .error .reservedFunction

/-- Major 0x37, format A or E (R57, R64, R72). -/
def decodeNred (f b a d : Nat) (m : Mark) : Except DecodeError Instr :=
  match f with
  | 0 => unusedZero [d] (.nred (.ofCode a) (.ofCode b) m)
  | 1 => unusedZero [d] (.nrdef (.ofCode a) (.ofCode b) m)
  | 2 => unusedZero [d] (.nrfree (.ofCode a) (.ofCode b) m)
  | _ => .error .reservedFunction

/-- Major 0x38, format A or E (R57, R64, R72). -/
def decodeFut (f b a d : Nat) (m : Mark) : Except DecodeError Instr :=
  match f with
  | 0 => unusedZero [d] (.fnew (.ofCode a) (.ofCode b) m)
  | 1 => unusedZero [d] (.fset (.ofCode a) (.ofCode b) m)
  | 2 => unusedZero [d] (.fwait (.ofCode a) (.ofCode b) m)
  | 3 => unusedZero [d] (.ffree (.ofCode a) (.ofCode b) m)
  | 4 => unusedZero [d] (.fpeek (.ofCode a) (.ofCode b) m)
  | _ => .error .reservedFunction

/-- Major 0x39, format FENCE (R65). -/
def decodeFence (x k c a b : Nat) (m : Mark) : Except DecodeError Instr :=
  match FenceKind.ofCode? k, Scope.ofCode? c with
  | some k, some c => unusedZero [x] (.fence k c (BitVec.ofNat 7 a) (BitVec.ofNat 7 b) m)
  | _, _ => .error .reservedFence

/-- Major 0x3A, format A or E (R57, R64, R72). -/
def decodeLaunch (f b a d : Nat) (m : Mark) : Except DecodeError Instr :=
  match f with
  | 0 => unusedZero [d] (.launch (.ofCode a) (.ofCode b) m)
  | _ => .error .reservedFunction

/-- Major 0x3B, format A or E (R57, R64, R72). -/
def decodeSys (f b a d : Nat) (m : Mark) : Except DecodeError Instr :=
  match f with
  | 0 => unusedZero [b] (.sysMfs (.ofCode d) (.ofCode a) m)
  | 1 => unusedZero [d] (.sysMts (.ofCode a) (.ofCode b) m)
  | 2 => unusedZero [d] (.sysCtxsave (.ofCode a) (.ofCode b) m)
  | 3 => unusedZero [d] (.sysCtxload (.ofCode a) (.ofCode b) m)
  | 4 => unusedZero [d, b] (.sysHalt (.ofCode a) m)
  | 5 => unusedZero [d] (.sysSysnote (.ofCode a) (.ofCode b) m)
  | _ => .error .reservedFunction

/-- Major 0x3C, format A or E (R57, R64, R72). -/
def decodeSpref (f b a d : Nat) (m : Mark) : Except DecodeError Instr :=
  match f with
  | 0 => unusedZero [d] (.spref (.ofCode a) (.ofCode b) m)
  | _ => .error .reservedFunction

/-- The majors of R72: what a 32-bit word with L = 1 decodes to. -/
def decodeMajor (w : Nat) : Except DecodeError Instr :=
  let m := Mark.ofCode (fieldOf w 1 3)
  match fieldOf w 4 6 with
  | 0 => decodeAlu (fieldOf w 28 4) (fieldOf w 22 6) (fieldOf w 16 6) (fieldOf w 10 6) m
  | 1 => decodeAlu2 (fieldOf w 28 4) (fieldOf w 22 6) (fieldOf w 16 6) (fieldOf w 10 6) m
  | 2 => decodeAlu3 (fieldOf w 28 4) (fieldOf w 22 6) (fieldOf w 16 6) (fieldOf w 10 6) m
  | 3 => .ok (.addi (.ofCode (fieldOf w 10 6)) (.ofCode (fieldOf w 16 6)) (BitVec.ofNat 10 (fieldOf w 22 10)) m)
  | 4 => .ok (.andi (.ofCode (fieldOf w 10 6)) (.ofCode (fieldOf w 16 6)) (BitVec.ofNat 10 (fieldOf w 22 10)) m)
  | 5 => .ok (.ori (.ofCode (fieldOf w 10 6)) (.ofCode (fieldOf w 16 6)) (BitVec.ofNat 10 (fieldOf w 22 10)) m)
  | 6 => .ok (.xori (.ofCode (fieldOf w 10 6)) (.ofCode (fieldOf w 16 6)) (BitVec.ofNat 10 (fieldOf w 22 10)) m)
  | 7 => decodeShi (fieldOf w 22 10) (fieldOf w 16 6) (fieldOf w 10 6) m
  | 8 => .ok (.slti (.ofCode (fieldOf w 10 6)) (.ofCode (fieldOf w 16 6)) (BitVec.ofNat 10 (fieldOf w 22 10)) m)
  | 9 => .ok (.movi (.ofCode (fieldOf w 10 6)) (BitVec.ofNat 16 (fieldOf w 16 16)) m)
  | 10 => .ok (.sltiu (.ofCode (fieldOf w 10 6)) (.ofCode (fieldOf w 16 6)) (BitVec.ofNat 10 (fieldOf w 22 10)) m)
  | 11 => .ok (.beq (.ofCode (fieldOf w 10 6)) (.ofCode (fieldOf w 16 6)) (BitVec.ofNat 10 (fieldOf w 22 10)) m)
  | 12 => .ok (.bne (.ofCode (fieldOf w 10 6)) (.ofCode (fieldOf w 16 6)) (BitVec.ofNat 10 (fieldOf w 22 10)) m)
  | 13 => .ok (.blt (.ofCode (fieldOf w 10 6)) (.ofCode (fieldOf w 16 6)) (BitVec.ofNat 10 (fieldOf w 22 10)) m)
  | 14 => .ok (.bge (.ofCode (fieldOf w 10 6)) (.ofCode (fieldOf w 16 6)) (BitVec.ofNat 10 (fieldOf w 22 10)) m)
  | 15 => .ok (.bltu (.ofCode (fieldOf w 10 6)) (.ofCode (fieldOf w 16 6)) (BitVec.ofNat 10 (fieldOf w 22 10)) m)
  | 16 => .ok (.bgeu (.ofCode (fieldOf w 10 6)) (.ofCode (fieldOf w 16 6)) (BitVec.ofNat 10 (fieldOf w 22 10)) m)
  | 17 => .ok (.jmp (BitVec.ofNat 22 (fieldOf w 10 22)) m)
  | 18 => .ok (.call (BitVec.ofNat 22 (fieldOf w 10 22)) m)
  | 19 => decodeCtl (fieldOf w 28 4) (fieldOf w 22 6) (fieldOf w 16 6) (fieldOf w 10 6) m
  | 20 => unusedZero [fieldOf w 10 6] (.loop (.ofCode (fieldOf w 16 6)) (BitVec.ofNat 10 (fieldOf w 22 10)) m)
  | 21 => .ok (.ldl (.ofCode (fieldOf w 10 6)) (.ofCode (fieldOf w 16 6)) (BitVec.ofNat 6 (fieldOf w 26 6)) (.ofCode (fieldOf w 22 2)) (bitOf (fieldOf w 24 1)) (bitOf (fieldOf w 25 1)) m)
  | 22 => unusedZero [fieldOf w 24 1] (.stl (.ofCode (fieldOf w 10 6)) (.ofCode (fieldOf w 16 6)) (BitVec.ofNat 6 (fieldOf w 26 6)) (.ofCode (fieldOf w 22 2)) (bitOf (fieldOf w 25 1)) m)
  | 23 => .ok (.ldt (.ofCode (fieldOf w 10 6)) (.ofCode (fieldOf w 16 6)) (BitVec.ofNat 6 (fieldOf w 26 6)) (.ofCode (fieldOf w 22 2)) (bitOf (fieldOf w 24 1)) (bitOf (fieldOf w 25 1)) m)
  | 24 => unusedZero [fieldOf w 24 1] (.stt (.ofCode (fieldOf w 10 6)) (.ofCode (fieldOf w 16 6)) (BitVec.ofNat 6 (fieldOf w 26 6)) (.ofCode (fieldOf w 22 2)) (bitOf (fieldOf w 25 1)) m)
  | 25 => decodeFp (fieldOf w 28 4) (fieldOf w 22 6) (fieldOf w 16 6) (fieldOf w 10 6) m
  | 26 => decodeFfma (fieldOf w 28 4) (fieldOf w 22 6) (fieldOf w 16 6) (fieldOf w 10 6) m
  | 27 => decodeVarith (fieldOf w 30 2) (fieldOf w 28 2) (fieldOf w 25 3) (fieldOf w 20 5) (fieldOf w 15 5) (fieldOf w 10 5) m
  | 28 => decodeVarith2 (fieldOf w 30 2) (fieldOf w 28 2) (fieldOf w 25 3) (fieldOf w 20 5) (fieldOf w 15 5) (fieldOf w 10 5) m
  | 29 => decodeVlogic (fieldOf w 30 2) (fieldOf w 28 2) (fieldOf w 25 3) (fieldOf w 20 5) (fieldOf w 15 5) (fieldOf w 10 5) m
  | 30 => decodeVshift (fieldOf w 30 2) (fieldOf w 28 2) (fieldOf w 25 3) (fieldOf w 20 5) (fieldOf w 15 5) (fieldOf w 10 5) m
  | 31 => decodeVcmp (fieldOf w 30 2) (fieldOf w 28 2) (fieldOf w 25 3) (fieldOf w 20 5) (fieldOf w 15 5) (fieldOf w 10 5) m
  | 32 => decodeVmove (fieldOf w 30 2) (fieldOf w 28 2) (fieldOf w 25 3) (fieldOf w 20 5) (fieldOf w 15 5) (fieldOf w 10 5) m
  | 33 => decodeVcvt (fieldOf w 30 2) (fieldOf w 28 2) (fieldOf w 25 3) (fieldOf w 20 5) (fieldOf w 15 5) (fieldOf w 10 5) m
  | 34 => decodeVred (fieldOf w 30 2) (fieldOf w 28 2) (fieldOf w 25 3) (fieldOf w 20 5) (fieldOf w 15 5) (fieldOf w 10 5) m
  | 35 => decodeVperm (fieldOf w 30 2) (fieldOf w 28 2) (fieldOf w 25 3) (fieldOf w 20 5) (fieldOf w 15 5) (fieldOf w 10 5) m
  | 36 => decodeVld (fieldOf w 30 2) (fieldOf w 28 2) (fieldOf w 25 3) (fieldOf w 20 5) (fieldOf w 15 5) (fieldOf w 10 5) m
  | 37 => decodeVst (fieldOf w 30 2) (fieldOf w 28 2) (fieldOf w 25 3) (fieldOf w 20 5) (fieldOf w 15 5) (fieldOf w 10 5) m
  | 38 => decodeVsfa (fieldOf w 30 2) (fieldOf w 28 2) (fieldOf w 25 3) (fieldOf w 20 5) (fieldOf w 15 5) (fieldOf w 10 5) m
  | 39 => decodeVsfb (fieldOf w 30 2) (fieldOf w 28 2) (fieldOf w 25 3) (fieldOf w 20 5) (fieldOf w 15 5) (fieldOf w 10 5) m
  | 40 => decodeVrefine (fieldOf w 30 2) (fieldOf w 28 2) (fieldOf w 25 3) (fieldOf w 20 5) (fieldOf w 15 5) (fieldOf w 10 5) m
  | 41 => decodeVtern (fieldOf w 30 2) (fieldOf w 28 2) (fieldOf w 25 3) (fieldOf w 20 5) (fieldOf w 15 5) (fieldOf w 10 5) m
  | 42 => decodeKlogic (fieldOf w 30 2) (fieldOf w 28 2) (fieldOf w 25 3) (fieldOf w 20 5) (fieldOf w 15 5) (fieldOf w 10 5) m
  | 43 => decodeKmisc (fieldOf w 30 2) (fieldOf w 28 2) (fieldOf w 25 3) (fieldOf w 20 5) (fieldOf w 15 5) (fieldOf w 10 5) m
  | 44 => decodeVint (fieldOf w 30 2) (fieldOf w 28 2) (fieldOf w 25 3) (fieldOf w 20 5) (fieldOf w 15 5) (fieldOf w 10 5) m
  | 45 => decodeXchg (fieldOf w 28 4) (fieldOf w 22 6) (fieldOf w 16 6) (fieldOf w 10 6) m
  | 46 => decodeSend (fieldOf w 28 4) (fieldOf w 22 6) (fieldOf w 16 6) (fieldOf w 10 6) m
  | 47 => decodeWgt (fieldOf w 28 4) (fieldOf w 22 6) (fieldOf w 16 6) (fieldOf w 10 6) m
  | 48 => decodeGrd (fieldOf w 28 4) (fieldOf w 22 6) (fieldOf w 16 6) (fieldOf w 10 6) m
  | 49 => decodeGwr (fieldOf w 28 4) (fieldOf w 22 6) (fieldOf w 16 6) (fieldOf w 10 6) m
  | 50 => unusedZero [fieldOf w 24 1] (.gst (.ofCode (fieldOf w 10 6)) (.ofCode (fieldOf w 16 6)) (BitVec.ofNat 6 (fieldOf w 26 6)) (.ofCode (fieldOf w 22 2)) (bitOf (fieldOf w 25 1)) m)
  | 51 => decodeNear (fieldOf w 28 4) (fieldOf w 22 6) (fieldOf w 16 6) (fieldOf w 10 6) m
  | 52 => decodeCpy (fieldOf w 28 4) (fieldOf w 22 6) (fieldOf w 16 6) (fieldOf w 10 6) m
  | 53 => decodeTmm (fieldOf w 28 4) (fieldOf w 22 6) (fieldOf w 16 6) (fieldOf w 10 6) m
  | 54 => decodeTrg (fieldOf w 28 4) (fieldOf w 22 6) (fieldOf w 16 6) (fieldOf w 10 6) m
  | 55 => decodeNred (fieldOf w 28 4) (fieldOf w 22 6) (fieldOf w 16 6) (fieldOf w 10 6) m
  | 56 => decodeFut (fieldOf w 28 4) (fieldOf w 22 6) (fieldOf w 16 6) (fieldOf w 10 6) m
  | 57 => decodeFence (fieldOf w 29 3) (fieldOf w 27 2) (fieldOf w 24 3) (fieldOf w 17 7) (fieldOf w 10 7) m
  | 58 => decodeLaunch (fieldOf w 28 4) (fieldOf w 22 6) (fieldOf w 16 6) (fieldOf w 10 6) m
  | 59 => decodeSys (fieldOf w 28 4) (fieldOf w 22 6) (fieldOf w 16 6) (fieldOf w 10 6) m
  | 60 => decodeSpref (fieldOf w 28 4) (fieldOf w 22 6) (fieldOf w 16 6) (fieldOf w 10 6) m
  | 63 => if fieldOf w 1 3 = 0 then .ok (.limm (BitVec.ofNat 22 (fieldOf w 10 22))) else .error .prefixMark
  | _ => .error .reservedMajor

/-- The operand name of Y in a compact register form (R67). -/
def compactY (y : BitVec 4) : Name :=
  if y.toNat < 8 then .s (Fin.ofNat 32 y.toNat) else .d (Fin.ofNat 8 (y.toNat - 8))

/-- The compact op of a 16-bit parcel with L = 0 (R67, R68). -/
def decodeCompact (w : Nat) : Except DecodeError Instr :=
  let s := bitOf (fieldOf w 1 1)
  let x := fieldOf w 7 5
  let y := fieldOf w 12 4
  match fieldOf w 2 5 with
  | 1 => .ok (.compactMov (Fin.ofNat 32 x) (BitVec.ofNat 4 y) s)
  | 2 => .ok (.compactAdd (Fin.ofNat 32 x) (BitVec.ofNat 4 y) s)
  | 3 => .ok (.compactSub (Fin.ofNat 32 x) (BitVec.ofNat 4 y) s)
  | 4 => .ok (.compactAddi (Fin.ofNat 32 x) (BitVec.ofNat 4 y) s)
  | 5 => .ok (.compactAnd (Fin.ofNat 32 x) (BitVec.ofNat 4 y) s)
  | 6 => .ok (.compactShl (Fin.ofNat 32 x) (BitVec.ofNat 4 y) s)
  | 7 => .ok (.compactShr (Fin.ofNat 32 x) (BitVec.ofNat 4 y) s)
  | 8 => .ok (.compactLdlD (Fin.ofNat 32 x) (BitVec.ofNat 4 y) s)
  | 9 => .ok (.compactStlD (Fin.ofNat 32 x) (BitVec.ofNat 4 y) s)
  | 10 => .ok (.compactBeqz (Fin.ofNat 32 x) (BitVec.ofNat 4 y) s)
  | 11 => .ok (.compactBnez (Fin.ofNat 32 x) (BitVec.ofNat 4 y) s)
  | 12 => unusedZero [x, y] (.compactEnd s)
  | 13 => unusedZero [x, y] (.compactNop s)
  | 14 => unusedZero [y] (.compactSendHalf (Fin.ofNat 32 x) s)
  | 15 => unusedZero [x, y] (.compactRet s)
  | 16 => .ok (.compactCmov (Fin.ofNat 32 x) (BitVec.ofNat 4 y) s)
  | _ => .error .reservedCompact

/-- A form that is read is an instruction only where `Instr.bad` finds nothing. -/
def checked : Except DecodeError Instr → Except DecodeError Instr
  | .ok i =>
    match i.bad with
    | none => .ok i
    | some why => .error (.badForm why)
  | .error e => .error e

/-- A 32-bit word (R56). -/
def decode32 (w : Nat) : Except DecodeError Instr := checked (decodeMajor w)

/-- A 16-bit parcel (R67). -/
def decode16 (w : Nat) : Except DecodeError Instr := checked (decodeCompact w)

/-- A parcel of two bytes in their little-endian order (R54). -/
def parcelOf (lo hi : Byte) : Nat := lo.toNat + 256 * hi.toNat

/-- The instruction at the head of a sequence of bytes and its length in bytes (R54, R55). -/
def decode : List Byte → Except DecodeError (Instr × Nat)
  | lo :: hi :: rest =>
    let p := parcelOf lo hi
    if p % 2 = 0 then (decode16 p).map (·, 2)
    else
      match rest with
      | lo' :: hi' :: _ => (decode32 (p + 65536 * parcelOf lo' hi')).map (·, 4)
      | _ => .error .truncated
  | _ => .error .truncated

/-- The first `n` bytes of a number, the lowest first (R2). -/
def bytesOfNat (w : Nat) : Nat → List Byte
  | 0 => []
  | n + 1 => BitVec.ofNat 8 w :: bytesOfNat (w / 256) n

/-- The instruction whose bits are `w`, numbered as spec/opcode_table.json numbers them. -/
def decodeTableWord (nbits w : Nat) : Option Instr :=
  match decode (bytesOfNat (w % 2 ^ nbits) 4) with
  | .ok (i, _) => some i
  | .error _ => none

/-! ## The encoder -/

/-- A word of format A or E (R57). -/
def wordA (maj f b a d : Nat) (m : Mark) : Nat :=
  1 + 2 * m.code + 16 * maj + 1024 * d + 65536 * a + 4194304 * b + 268435456 * f

/-- A word of format I; format B has the same fields in other roles (R58, R60). -/
def wordI (maj i a d : Nat) (m : Mark) : Nat :=
  1 + 2 * m.code + 16 * maj + 1024 * d + 65536 * a + 4194304 * i

/-- A word of format W (R59). -/
def wordW (maj i d : Nat) (m : Mark) : Nat := 1 + 2 * m.code + 16 * maj + 1024 * d + 65536 * i

/-- A word of format J; the prefix has the same fields (R61, R69). -/
def wordJ (maj o : Nat) (m : Mark) : Nat := 1 + 2 * m.code + 16 * maj + 1024 * o

/-- A word of format M (R62). -/
def wordM (maj o q x z a d : Nat) (m : Mark) : Nat :=
  1 + 2 * m.code + 16 * maj + 1024 * d + 65536 * a + 4194304 * z + 16777216 * x + 33554432 * q + 67108864 * o

/-- A word of format V (R63). -/
def wordV (maj f k t b a d : Nat) (m : Mark) : Nat :=
  1 + 2 * m.code + 16 * maj + 1024 * d + 32768 * a + 1048576 * b + 33554432 * t + 268435456 * k + 1073741824 * f

/-- A word of format FENCE (R65). -/
def wordFence (k c a b : Nat) (m : Mark) : Nat :=
  1 + 2 * m.code + 16 * 57 + 1024 * b + 131072 * a + 16777216 * c + 134217728 * k

/-- A compact parcel (R67). -/
def wordCompact (co x y : Nat) (s : Bool) : Nat := 2 * s.toNat + 4 * co + 128 * x + 4096 * y

/-- The bits of an instruction: of one parcel for a compact form, of two for a 32-bit form, none for an event. -/
def Instr.word : Instr → Option Nat
  | .aluAdd d a b m => some (wordA 0 0 b.code a.code d.code m)
  | .aluSub d a b m => some (wordA 0 1 b.code a.code d.code m)
  | .aluAnd d a b m => some (wordA 0 2 b.code a.code d.code m)
  | .aluOr d a b m => some (wordA 0 3 b.code a.code d.code m)
  | .aluXor d a b m => some (wordA 0 4 b.code a.code d.code m)
  | .aluAndn d a b m => some (wordA 0 5 b.code a.code d.code m)
  | .aluShl d a b m => some (wordA 0 6 b.code a.code d.code m)
  | .aluShr d a b m => some (wordA 0 7 b.code a.code d.code m)
  | .aluSra d a b m => some (wordA 0 8 b.code a.code d.code m)
  | .aluRot d a b m => some (wordA 0 9 b.code a.code d.code m)
  | .aluMin d a b m => some (wordA 0 10 b.code a.code d.code m)
  | .aluMax d a b m => some (wordA 0 11 b.code a.code d.code m)
  | .aluMinu d a b m => some (wordA 0 12 b.code a.code d.code m)
  | .aluMaxu d a b m => some (wordA 0 13 b.code a.code d.code m)
  | .aluSlt d a b m => some (wordA 0 14 b.code a.code d.code m)
  | .aluSltu d a b m => some (wordA 0 15 b.code a.code d.code m)
  | .alu2Seq d a b m => some (wordA 1 0 b.code a.code d.code m)
  | .alu2Sne d a b m => some (wordA 1 1 b.code a.code d.code m)
  | .alu2Clz d a m => some (wordA 1 2 0 a.code d.code m)
  | .alu2Ctz d a m => some (wordA 1 3 0 a.code d.code m)
  | .alu2Popc d a m => some (wordA 1 4 0 a.code d.code m)
  | .alu2SextB d a m => some (wordA 1 5 0 a.code d.code m)
  | .alu2SextH d a m => some (wordA 1 6 0 a.code d.code m)
  | .alu2SextW d a m => some (wordA 1 7 0 a.code d.code m)
  | .alu2ZextB d a m => some (wordA 1 8 0 a.code d.code m)
  | .alu2ZextH d a m => some (wordA 1 9 0 a.code d.code m)
  | .alu2ZextW d a m => some (wordA 1 10 0 a.code d.code m)
  | .alu2Mul d a b m => some (wordA 1 11 b.code a.code d.code m)
  | .alu2Mulh d a b m => some (wordA 1 12 b.code a.code d.code m)
  | .alu2Mulhu d a b m => some (wordA 1 13 b.code a.code d.code m)
  | .alu2Div d a b m => some (wordA 1 14 b.code a.code d.code m)
  | .alu2Divu d a b m => some (wordA 1 15 b.code a.code d.code m)
  | .alu3Rem d a b m => some (wordA 2 0 b.code a.code d.code m)
  | .alu3Remu d a b m => some (wordA 2 1 b.code a.code d.code m)
  | .alu3Sel d a b m => some (wordA 2 2 b.code a.code d.code m)
  | .alu3Bext d a b m => some (wordA 2 3 b.code a.code d.code m)
  | .alu3Bins d a b m => some (wordA 2 4 b.code a.code d.code m)
  | .alu3Addsat d a b m => some (wordA 2 5 b.code a.code d.code m)
  | .alu3Subsat d a b m => some (wordA 2 6 b.code a.code d.code m)
  | .alu3Absdiff d a b m => some (wordA 2 7 b.code a.code d.code m)
  | .addi d a i m => some (wordI 3 i.toNat a.code d.code m)
  | .andi d a i m => some (wordI 4 i.toNat a.code d.code m)
  | .ori d a i m => some (wordI 5 i.toNat a.code d.code m)
  | .xori d a i m => some (wordI 6 i.toNat a.code d.code m)
  | .shiShl d a n m => some (wordI 7 (n.toNat + 64 * 0) a.code d.code m)
  | .shiShr d a n m => some (wordI 7 (n.toNat + 64 * 1) a.code d.code m)
  | .shiSra d a n m => some (wordI 7 (n.toNat + 64 * 2) a.code d.code m)
  | .shiRot d a n m => some (wordI 7 (n.toNat + 64 * 3) a.code d.code m)
  | .slti d a i m => some (wordI 8 i.toNat a.code d.code m)
  | .movi d i m => some (wordW 9 i.toNat d.code m)
  | .sltiu d a i m => some (wordI 10 i.toNat a.code d.code m)
  | .beq a b o m => some (wordI 11 o.toNat b.code a.code m)
  | .bne a b o m => some (wordI 12 o.toNat b.code a.code m)
  | .blt a b o m => some (wordI 13 o.toNat b.code a.code m)
  | .bge a b o m => some (wordI 14 o.toNat b.code a.code m)
  | .bltu a b o m => some (wordI 15 o.toNat b.code a.code m)
  | .bgeu a b o m => some (wordI 16 o.toNat b.code a.code m)
  | .jmp o m => some (wordJ 17 o.toNat m)
  | .call o m => some (wordJ 18 o.toNat m)
  | .ctlJr a m => some (wordA 19 0 0 a.code 0 m)
  | .ctlRet m => some (wordA 19 1 0 0 0 m)
  | .ctlEnd m => some (wordA 19 2 0 0 0 m)
  | .ctlNop m => some (wordA 19 3 0 0 0 m)
  | .ctlTrap a m => some (wordA 19 4 0 a.code 0 m)
  | .loop a i m => some (wordI 20 i.toNat a.code 0 m)
  | .ldl d a o z x q m => some (wordM 21 o.toNat q.toNat x.toNat z.code a.code d.code m)
  | .stl d a o z q m => some (wordM 22 o.toNat q.toNat 0 z.code a.code d.code m)
  | .ldt d a o z x q m => some (wordM 23 o.toNat q.toNat x.toNat z.code a.code d.code m)
  | .stt d a o z q m => some (wordM 24 o.toNat q.toNat 0 z.code a.code d.code m)
  | .fpFadd d a b m => some (wordA 25 0 b.code a.code d.code m)
  | .fpFsub d a b m => some (wordA 25 1 b.code a.code d.code m)
  | .fpFmul d a b m => some (wordA 25 2 b.code a.code d.code m)
  | .fpFmin d a b m => some (wordA 25 3 b.code a.code d.code m)
  | .fpFmax d a b m => some (wordA 25 4 b.code a.code d.code m)
  | .fpFabs d a m => some (wordA 25 5 0 a.code d.code m)
  | .fpFneg d a m => some (wordA 25 6 0 a.code d.code m)
  | .fpFeq d a b m => some (wordA 25 7 b.code a.code d.code m)
  | .fpFlt d a b m => some (wordA 25 8 b.code a.code d.code m)
  | .fpFle d a b m => some (wordA 25 9 b.code a.code d.code m)
  | .fpFcvtI2f d a m => some (wordA 25 10 0 a.code d.code m)
  | .fpFcvtU2f d a m => some (wordA 25 11 0 a.code d.code m)
  | .fpFcvtF2i d a m => some (wordA 25 12 0 a.code d.code m)
  | .fpFcvtF2u d a m => some (wordA 25 13 0 a.code d.code m)
  | .fpFsqrt d a m => some (wordA 25 14 0 a.code d.code m)
  | .fpFclass d a m => some (wordA 25 15 0 a.code d.code m)
  | .ffma d a b m => some (wordA 26 0 b.code a.code d.code m)
  | .vadd d a b t k m => some (wordV 27 0 k.val t.code b.val a.val d.val m)
  | .vsub d a b t k m => some (wordV 27 1 k.val t.code b.val a.val d.val m)
  | .vmul d a b t k m => some (wordV 27 2 k.val t.code b.val a.val d.val m)
  | .vfma d a b t k m => some (wordV 27 3 k.val t.code b.val a.val d.val m)
  | .vmin d a b t k m => some (wordV 28 0 k.val t.code b.val a.val d.val m)
  | .vmax d a b t k m => some (wordV 28 1 k.val t.code b.val a.val d.val m)
  | .vabs d a t k m => some (wordV 28 2 k.val t.code 0 a.val d.val m)
  | .vneg d a t k m => some (wordV 28 3 k.val t.code 0 a.val d.val m)
  | .vand d a b t k m => some (wordV 29 0 k.val t.code b.val a.val d.val m)
  | .vor d a b t k m => some (wordV 29 1 k.val t.code b.val a.val d.val m)
  | .vxor d a b t k m => some (wordV 29 2 k.val t.code b.val a.val d.val m)
  | .vandn d a b t k m => some (wordV 29 3 k.val t.code b.val a.val d.val m)
  | .vshl d a b t k m => some (wordV 30 0 k.val t.code b.val a.val d.val m)
  | .vshr d a b t k m => some (wordV 30 1 k.val t.code b.val a.val d.val m)
  | .vsra d a b t k m => some (wordV 30 2 k.val t.code b.val a.val d.val m)
  | .vrot d a b t k m => some (wordV 30 3 k.val t.code b.val a.val d.val m)
  | .vceq d a b t k m => some (wordV 31 0 k.val t.code b.val a.val d.val m)
  | .vclt d a b t k m => some (wordV 31 1 k.val t.code b.val a.val d.val m)
  | .vcle d a b t k m => some (wordV 31 2 k.val t.code b.val a.val d.val m)
  | .vcne d a b t k m => some (wordV 31 3 k.val t.code b.val a.val d.val m)
  | .vsel d a b t k m => some (wordV 32 0 k.val t.code b.val a.val d.val m)
  | .vmov d a t k m => some (wordV 32 1 k.val t.code 0 a.val d.val m)
  | .vbcast d a t k m => some (wordV 32 2 k.val t.code 0 a.val d.val m)
  | .vzero d t k m => some (wordV 32 3 k.val t.code 0 0 d.val m)
  | .vcvtSame d a t u k m => some (wordV 33 0 k.val t.code u.code a.val d.val m)
  | .vcvtWiden2 d a t u k m => some (wordV 33 1 k.val t.code u.code a.val d.val m)
  | .vcvtWiden4 d a t u k m => some (wordV 33 2 k.val t.code u.code a.val d.val m)
  | .vcvtNarrow d a t u k m => some (wordV 33 3 k.val t.code u.code a.val d.val m)
  | .vredsum d a t k m => some (wordV 34 0 k.val t.code 0 a.val d.val m)
  | .vredmax d a t k m => some (wordV 34 1 k.val t.code 0 a.val d.val m)
  | .vredmin d a t k m => some (wordV 34 2 k.val t.code 0 a.val d.val m)
  | .vdot d a b t k m => some (wordV 34 3 k.val t.code b.val a.val d.val m)
  | .vperm d a b t k m => some (wordV 35 0 k.val t.code b.val a.val d.val m)
  | .vslide d a b t k m => some (wordV 35 1 k.val t.code b.val a.val d.val m)
  | .vext d a b t m => some (wordV 35 2 0 t.code b.val a.val d.val m)
  | .vins d a b t m => some (wordV 35 3 0 t.code b.val a.val d.val m)
  | .vldT d a t k m => some (wordV 36 0 k.val t.code 0 a.val d.val m)
  | .vldL d a t k m => some (wordV 36 1 k.val t.code 0 a.val d.val m)
  | .vldxT d a b t k m => some (wordV 36 2 k.val t.code b.val a.val d.val m)
  | .vstT d a t k m => some (wordV 37 0 k.val t.code 0 a.val d.val m)
  | .vstL d a t k m => some (wordV 37 1 k.val t.code 0 a.val d.val m)
  | .vstxT d a b t k m => some (wordV 37 2 k.val t.code b.val a.val d.val m)
  | .vrcp d a t k m => some (wordV 38 0 k.val t.code 0 a.val d.val m)
  | .vrsq d a t k m => some (wordV 38 1 k.val t.code 0 a.val d.val m)
  | .vexp2 d a t k m => some (wordV 38 2 k.val t.code 0 a.val d.val m)
  | .vlog2 d a t k m => some (wordV 38 3 k.val t.code 0 a.val d.val m)
  | .vsin d a t k m => some (wordV 39 0 k.val t.code 0 a.val d.val m)
  | .vcos d a t k m => some (wordV 39 1 k.val t.code 0 a.val d.val m)
  | .vtanh d a t k m => some (wordV 39 2 k.val t.code 0 a.val d.val m)
  | .vsigm d a t k m => some (wordV 39 3 k.val t.code 0 a.val d.val m)
  | .vrcpr d a b k m => some (wordV 40 0 k.val 4 b.val a.val d.val m)
  | .vrsqr d a b k m => some (wordV 40 1 k.val 4 b.val a.val d.val m)
  | .vrnd d a t k m => some (wordV 40 2 k.val t.code 0 a.val d.val m)
  | .vfloor d a t k m => some (wordV 40 3 k.val t.code 0 a.val d.val m)
  | .vtpack d a m => some (wordV 41 0 0 0 0 a.val d.val m)
  | .vtunp d a m => some (wordV 41 1 0 0 0 a.val d.val m)
  | .vtqnt d a b k m => some (wordV 41 2 k.val 4 b.val a.val d.val m)
  | .vtchk d a m => some (wordV 41 3 0 0 0 a.val d.val m)
  | .kand d a b m => some (wordV 42 0 0 0 b.val a.val d.val m)
  | .kor d a b m => some (wordV 42 1 0 0 b.val a.val d.val m)
  | .kxor d a b m => some (wordV 42 2 0 0 b.val a.val d.val m)
  | .knot d a m => some (wordV 42 3 0 0 0 a.val d.val m)
  | .kpop d a m => some (wordV 43 0 0 0 0 a.val d.val m)
  | .kfirst d a m => some (wordV 43 1 0 0 0 a.val d.val m)
  | .kset d a b m => some (wordV 43 2 0 0 b.val a.val d.val m)
  | .kmv d a m => some (wordV 43 3 0 0 0 a.val d.val m)
  | .vaddsat d a b t k m => some (wordV 44 0 k.val t.code b.val a.val d.val m)
  | .vsubsat d a b t k m => some (wordV 44 1 k.val t.code b.val a.val d.val m)
  | .vmulh d a b t k m => some (wordV 44 2 k.val t.code b.val a.val d.val m)
  | .vabsdiff d a b t k m => some (wordV 44 3 k.val t.code b.val a.val d.val m)
  | .xchg d a b m => some (wordA 45 0 b.code a.code d.code m)
  | .send a b o m => some (wordA 46 (0 + 8 * o.toNat) b.code a.code 0 m)
  | .sendHalf a o m => some (wordA 46 (1 + 8 * o.toNat) 0 a.code 0 m)
  | .sendDraw a b o m => some (wordA 46 (2 + 8 * o.toNat) b.code a.code 0 m)
  | .sendRop a b o m => some (wordA 46 (3 + 8 * o.toNat) b.code a.code 0 m)
  | .wgtWget d m => some (wordA 47 0 0 0 d.code m)
  | .wgtWtotal d m => some (wordA 47 1 0 0 d.code m)
  | .wgtWret a m => some (wordA 47 2 0 a.code 0 m)
  | .wgtQarm a b m => some (wordA 47 3 b.code a.code 0 m)
  | .wgtQdisarm m => some (wordA 47 4 0 0 0 m)
  | .wgtWcensus a b m => some (wordA 47 5 b.code a.code 0 m)
  | .wgtWloss a b m => some (wordA 47 6 b.code a.code 0 m)
  | .grd a b q l m => some (wordA 48 (l.toNat + 2 * q.toNat) b.code a.code 0 m)
  | .gwr a b q l m => some (wordA 49 (l.toNat + 2 * q.toNat) b.code a.code 0 m)
  | .gst d a o z q m => some (wordM 50 o.toNat q.toNat 0 z.code a.code d.code m)
  | .nearAtomAdd a b m => some (wordA 51 0 b.code a.code 0 m)
  | .nearAtomMax a b m => some (wordA 51 1 b.code a.code 0 m)
  | .nearAtomCas a b m => some (wordA 51 2 b.code a.code 0 m)
  | .nearCas4 a b m => some (wordA 51 3 b.code a.code 0 m)
  | .nearEnq a b m => some (wordA 51 4 b.code a.code 0 m)
  | .nearChase a b m => some (wordA 51 5 b.code a.code 0 m)
  | .nearRedAddF32 a b m => some (wordA 51 6 b.code a.code 0 m)
  | .nearRedMaxF32 a b m => some (wordA 51 7 b.code a.code 0 m)
  | .nearRedAddI32 a b m => some (wordA 51 8 b.code a.code 0 m)
  | .nearXswap a b m => some (wordA 51 9 b.code a.code 0 m)
  | .cpy d a b m => some (wordA 52 0 b.code a.code d.code m)
  | .cpyWalk d a b m => some (wordA 52 1 b.code a.code d.code m)
  | .cqry d a m => some (wordA 52 2 0 a.code d.code m)
  | .cpyCancel d a m => some (wordA 52 3 0 a.code d.code m)
  | .tmm d a b m => some (wordA 53 0 b.code a.code d.code m)
  | .tstat d a m => some (wordA 53 1 0 a.code d.code m)
  | .tabort d a m => some (wordA 53 2 0 a.code d.code m)
  | .trgPost d a b m => some (wordA 54 0 b.code a.code d.code m)
  | .trgAdd a b m => some (wordA 54 1 b.code a.code 0 m)
  | .trgRead d a m => some (wordA 54 2 0 a.code d.code m)
  | .trgCancel d a m => some (wordA 54 3 0 a.code d.code m)
  | .trgAlloc d m => some (wordA 54 4 0 0 d.code m)
  | .trgFree a m => some (wordA 54 5 0 a.code 0 m)
  | .nred a b m => some (wordA 55 0 b.code a.code 0 m)
  | .nrdef a b m => some (wordA 55 1 b.code a.code 0 m)
  | .nrfree a b m => some (wordA 55 2 b.code a.code 0 m)
  | .fnew a b m => some (wordA 56 0 b.code a.code 0 m)
  | .fset a b m => some (wordA 56 1 b.code a.code 0 m)
  | .fwait a b m => some (wordA 56 2 b.code a.code 0 m)
  | .ffree a b m => some (wordA 56 3 b.code a.code 0 m)
  | .fpeek a b m => some (wordA 56 4 b.code a.code 0 m)
  | .fence k c a b m => some (wordFence k.code c.code a.toNat b.toNat m)
  | .launch a b m => some (wordA 58 0 b.code a.code 0 m)
  | .sysMfs d a m => some (wordA 59 0 0 a.code d.code m)
  | .sysMts a b m => some (wordA 59 1 b.code a.code 0 m)
  | .sysCtxsave a b m => some (wordA 59 2 b.code a.code 0 m)
  | .sysCtxload a b m => some (wordA 59 3 b.code a.code 0 m)
  | .sysHalt a m => some (wordA 59 4 0 a.code 0 m)
  | .sysSysnote a b m => some (wordA 59 5 b.code a.code 0 m)
  | .spref a b m => some (wordA 60 0 b.code a.code 0 m)
  | .limm p => some (wordJ 63 p.toNat ⟨0, false⟩)
  | .compactMov x y s => some (wordCompact 1 x.val y.toNat s)
  | .compactAdd x y s => some (wordCompact 2 x.val y.toNat s)
  | .compactSub x y s => some (wordCompact 3 x.val y.toNat s)
  | .compactAddi x y s => some (wordCompact 4 x.val y.toNat s)
  | .compactAnd x y s => some (wordCompact 5 x.val y.toNat s)
  | .compactShl x y s => some (wordCompact 6 x.val y.toNat s)
  | .compactShr x y s => some (wordCompact 7 x.val y.toNat s)
  | .compactLdlD x y s => some (wordCompact 8 x.val y.toNat s)
  | .compactStlD x y s => some (wordCompact 9 x.val y.toNat s)
  | .compactBeqz x y s => some (wordCompact 10 x.val y.toNat s)
  | .compactBnez x y s => some (wordCompact 11 x.val y.toNat s)
  | .compactEnd s => some (wordCompact 12 0 0 s)
  | .compactNop s => some (wordCompact 13 0 0 s)
  | .compactSendHalf x s => some (wordCompact 14 x.val 0 s)
  | .compactRet s => some (wordCompact 15 0 0 s)
  | .compactCmov x y s => some (wordCompact 16 x.val y.toNat s)
  | .taskStart _ _ => none
  | .remoteOpStart _ _ => none
  | .drainTaskStart _ => none
  | .taskEnd _ => none
  | .vectorOpStart _ => none
  | .vectorOpComplete _ => none
  | .sfuServiceStart _ => none
  | .sfuResult _ => none
  | .ldtResult _ => none
  | .divideResult _ => none
  | .tileStoreLand _ => none
  | .budgetExpiry _ => none
  | .unitRetryReinject _ _ _ => none
  | .messageArrival _ => none
  | .messageRefusal _ => none
  | .messageResend _ => none
  | .sendAcceptReport _ => none
  | .spillReinjectOffer _ => none
  | .holdAck _ => none
  | .accessAck _ => none
  | .routerSwitch _ => none
  | .routerGate _ _ => none
  | .routerWake _ _ => none
  | .routerReady _ _ => none
  | .chainChunk _ => none
  | .chainGrant _ => none
  | .podArrival _ => none
  | .drawArrival _ => none
  | .drawResend _ => none
  | .armArrival _ => none
  | .disarmArrival _ => none
  | .farSendArrival _ => none
  | .censusStart _ => none
  | .censusMarkerSend _ _ => none
  | .censusMarkerArrival _ => none
  | .wlossServe _ => none
  | .homeCopyBroadcast _ => none
  | .stationTranslate _ => none
  | .pageWalk _ => none
  | .parkedRequestResend _ => none
  | .globalPiecePerform _ => none
  | .pieceLanding _ => none
  | .nearOpExecute _ _ => none
  | .chaseForwardArrival _ _ => none
  | .farRetryResend _ => none
  | .storageServiceStart _ => none
  | .writebackComplete _ _ => none
  | .fillComplete _ _ _ => none
  | .nvmeTimeout _ _ => none
  | .frameWaitRetry _ _ => none
  | .migrationReview _ _ => none
  | .migrationComplete _ => none
  | .copyOffer _ _ => none
  | .copyPiece _ _ => none
  | .arrayJobStart _ => none
  | .arrayStep _ => none
  | .arrayRowDrain _ => none
  | .arrayJobComplete _ => none
  | .arrayStopFinish _ => none
  | .xchgActivate _ => none
  | .arriveReceive _ => none
  | .arriveResend _ => none
  | .xchgRowReceive _ => none
  | .xchgRowAck _ => none
  | .xchgTimeout _ => none
  | .triggerArrival _ _ => none
  | .triggerFire _ => none
  | .nrdefProgram _ => none
  | .nrfreeRemove _ => none
  | .contributionArrival _ => none
  | .routerCombine _ _ _ _ => none
  | .roundStartNotice _ => none
  | .roundTimeout _ _ => none
  | .closeArrival _ => none
  | .roundComplete _ _ => none
  | .futureRequestServe _ => none
  | .fwaitResend _ => none
  | .launchRequestArrival _ => none
  | .launchResend _ => none
  | .launchRecordTake => none
  | .launchCreate _ => none
  | .rootInject => none
  | .contextRestore _ => none
  | .savedFarSendSpill _ => none
  | .checkpointDigestArrival _ _ _ _ _ => none
  | .checkpointFlushDone _ => none
  | .checkpointPeerlost _ => none
  | .fabricPacketArrival _ _ => none
  | .fabricNakArrival _ _ => none
  | .flitCrcReplay _ => none
  | .portDown _ => none
  | .jobTagTimeout _ => none
  | .powerGrant _ _ => none
  | .thermalCap _ => none
  | .thermalHalt _ => none
  | .deviceReset _ => none
  | .linkTraining _ _ => none
  | .hwqDoorbell _ _ _ => none
  | .tlbInvalidate _ => none
  | .poolTailWrite _ _ => none
  | .jobTagWrite _ _ => none
  | .routeEntryWrite _ _ => none
  | .jobctlResume _ => none
  | .jobctlAbort _ => none
  | .hostFutureNew => none
  | .hostFutureSet => none
  | .hostFutureFree => none
  | .hostFuturePeek => none
  | .hostWindowRead _ _ => none
  | .hostWindowWrite _ _ => none
  | .getkey => none
  | .attest _ => none
  | .fwload _ _ => none
  | .setbudget _ => none
  | .registerWrite _ _ _ => none
  | .notAnInstruction => none
  | .portUp _ => none
  | .uncorrectableSoftError _ => none

/-- The length in bytes of the instruction of a word: bit 0 tells it (R55). -/
def wordLen (w : Nat) : Nat := if w % 2 = 0 then 2 else 4

/-- The bytes of an instruction as the code store holds them; an event has none. -/
def encode (i : Instr) : List Byte :=
  match i.word with
  | some w => bytesOfNat w (wordLen w)
  | none => []

end Sys2Proof
end

