-- ==== Sys2Proof/Config.lean ====
section
/-! DEFINITION. What one part fixes, and the values the spec leaves open. A constant without a body is a free value:
no proof can see which value it is. -/

namespace Sys2Proof

/-- One turn of the machine (log 1): a core takes its clk, one event of a unit or of the outside world, or a clk
passes. -/
inductive Turn where
  | core (tile core : Nat)
  | event (i : Instr)
  | tick
  deriving DecidableEq, Repr, Inhabited

namespace Config

/-- The turn taken when none is settled, at the count of such turns (log 1). -/
opaque nextTurn : Nat → Turn

/-- The choice among the values a rule allows (R6), at the count of choices and the place of the choice (log 3). -/
opaque pick : Nat → Nat → Nat

/-- How far the cycle counter a core reads runs ahead: two cores differ by at most 4 (R19), by core. -/
opaque clkSkew : Nat → Fin 5

/-- The disabled column of each die, 0 to 16 (R10, R230), by die. -/
opaque disabledColumn : Nat → Fin 17

/-- How many entries the device trace buffer holds: the spec names no size (R354, log 16). -/
opaque traceSize : Nat

/-- The 133 bytes of the P-521 public key of the identity key, derived from fuses (R374, R375, log 17). -/
opaque identityKey : Nat → Byte

/-- The signature r and s over the bytes of a report, 132 bytes, by the count of reports signed before (R375, log 17). -/
opaque signature : List Byte → Nat → Nat → Byte

/-- The 64-byte chain measurement of the boot and the firmware images, by the firmware image loaded (R375, log 17). -/
opaque bootMeasurement : List Byte → Nat → Byte

/-- Whether a firmware image bears a good signature of Ngavis' key (R374, R376, log 17). -/
opaque imageSigned : List Byte → Bool

end Config

end Sys2Proof
end

