-- ==== Sys2Proof/Machine/State.lean ====
section
/-! DEFINITION. The state of the machine as plain data, the reasons a step can stop, and the state after reset. -/

namespace Sys2Proof.Machine

/-- A finite map as a list of keys and values, its keys rising (Machine/Maps.lean keeps the order). -/
abbrev Map (α : Type) := List (Nat × α)

/-- Bytes by address: addresses strictly rise, and no entry is 0, which is what an unlisted address reads as. -/
abbrev Memory := List Host.Cell

/-! ## Numbered kinds of things -/

/-- The trap causes of R330, in their order. -/
inductive Cause where
  | illop
  | illopnd
  | priv
  | valloc
  | laddr
  | taddr
  | align
  | bankfmt
  | illtrit
  | weight
  | budget
  | swtrap
  | trigfull
  | arraycfg
  | xtimeout
  | futstale
  | nredcfg
  | eccloc
  | ovfring
  | fatal
  deriving DecidableEq, Repr, Inhabited

/-- A raised trap: its cause, ORIGIN (R332), SUB and ARG (R333). -/
structure Trap where
  cause : Cause
  origin : Nat
  sub : Nat
  arg : Word
  deriving DecidableEq, Repr, Inhabited

/-- The access paths of R245, in the order of their bits. -/
inductive Path where
  | core
  | copy
  | array
  | near
  | net
  | stor
  | host
  deriving DecidableEq, Repr, Inhabited

/-- The byte memories: local memory of a virtual core, scratchpad and code store of a virtual tile, HBM by physical
address, host memory by host-link address. -/
inductive Space where
  | loc
  | scratch
  | code
  | hbm
  | host
  deriving DecidableEq, Repr, Inhabited

/-! ## Ordering and visibility (chapter 14) -/

/-- The writes that happen before a point, each with the mask of the paths on which it binds reads (R253). The number of a fence or
of an acquire load stands for the writes it comes to order. -/
abbrev Know := List (Nat × Nat)

/-- A fence in force for the later accesses of a task (R250): its core, its paths and scope, the accesses its release side waits for,
the acquire loads not yet performed when it issued, what is known of the writes it orders, and whether it orders the task's local CORE
accesses too, as an acquire or full fence does. -/
structure RelFence where
  id : Nat
  core : Nat
  before : Nat
  after : Nat
  scope : Scope
  waits : List Nat
  acqs : List Nat
  know : Know
  near : Bool
  deriving DecidableEq, Repr, Inhabited

/-- A release: its scope, the core it is taken around (R246), the writes it orders before itself, and the accesses of its
task that were still to be performed when it issued. -/
structure Rel where
  scope : Scope
  core : Nat
  know : Know
  accs : List Nat
  deriving DecidableEq, Repr, Inhabited

/-- One byte written: what it replaced, on which path, by which task (0 for a unit outside any task), and what a
release carries with it. `at_` is 0, or the first clk in which a scalar load is bound to see a byte of a vector store to local memory
(R107). -/
structure WRec where
  id : Nat
  space : Space
  addr : Nat
  old : Byte
  path : Path
  task : Nat
  acc : Nat
  rel : Option Rel
  at_ : Nat
  deriving DecidableEq, Repr, Inhabited

/-- An access not yet acknowledged (R248): the smallest scope whose count it joins, its path, the locations that later
accesses of its task on its path must not overtake it at (R247), and whether it has been performed. -/
structure Acc where
  id : Nat
  task : Nat
  scope : Scope
  path : Path
  localVec : Bool
  ranges : List (Space × Nat × Nat)
  performed : Bool
  deriving DecidableEq, Repr, Inhabited

/-! ## A hardware context (chapters 2, 4, 6) -/

/-- Where a result goes. An s-register or h result also takes a history entry. A vector result names the element
width and the elements it writes. -/
inductive Target where
  | s (n : Fin 32) (slot : Fin 8)
  | h (slot : Fin 8)
  | k (n : Fin 8)
  | v (n : Fin 32) (w : Nat) (act : Nat)
  deriving DecidableEq, Repr, Inhabited

/-- A result that is computed and not yet readable (R27): readable from clk `due`; `op` is 0 for a fixed-latency
producer. `raced` and `racedH` say that an outstanding operation has written the same register or the same history entry while
it was pending (R28). -/
structure Pending where
  due : Nat
  target : Target
  value : Nat
  op : Nat
  raced : Bool
  racedH : Bool
  deriving DecidableEq, Repr, Inhabited

/-- An entry of the loop stack (R103). -/
structure Loop where
  start : Nat
  stop : Nat
  count : Nat
  deriving DecidableEq, Repr, Inhabited

/-- The state of one hardware context while a task runs in it (R16). `ecc` are its places with an uncorrectable soft error (R331):
the codes of s- and m-registers, 48 + p for history place p, 64 + n for mask kn, 128 + 512 n + b for byte b of vn. -/
structure Ctx where
  task : Nat
  job : Nat
  vcore : Nat
  cls : Nat
  s : Vector Word 32
  m : Vector Word 16
  hist : Vector Word 8
  hptr : Fin 8
  k : Vector MaskReg 8
  v : List VReg
  wt : Nat
  msg : Word
  fflags : Word
  vfmt : Word
  pc : Nat
  loops : List Loop
  limm : List Nat
  limmPc : Nat
  ready : Nat
  parked : Bool
  ending : Bool
  dying : Bool
  pend : List Pending
  outs : List Nat
  startFault : Option (Nat × (Nat × Nat) × Trap)
  segPc : Nat
  segOff : Nat
  watchdog : Nat
  budget : Nat
  replayable : Bool
  precise : Bool
  replays : Nat
  ovrMask : Nat
  ovrIdx : Nat
  privileged : Bool
  relFences : List RelFence
  acqLoads : List Nat
  know : Know
  startKnow : Know
  ecc : List Nat
  deriving DecidableEq, Repr

/-- What outlives the task on its core: the hold of R177 and R261. -/
structure TaskRec where
  job : Nat
  core : Nat
  vcore : Nat
  holds : Nat
  heldUnit : Bool
  deriving DecidableEq, Repr, Inhabited

/-! ## Operations in flight on a tile -/

/-- What an outstanding operation does (R29). The instruction itself names the vector and SFU functions. -/
inductive OpKind where
  | vector (i : Instr)
  | sfu (i : Instr)
  | ldt (addr : Nat) (size : Nat) (signed : Bool) (acq : Bool)
  | divide (value : Word) (flags : Nat)
  deriving DecidableEq, Repr, Inhabited

/-- An outstanding operation: its context, what was read at issue, where its results go, and its progress. `keeps` are the bits of
its places that another write pending with it has written, by the number of the place (R28). From its start it keeps the bank formats
it sampled (R159) and the number of the first write made after it; `fixed` says that a later operation has read its result early, so
that what it loads is settled (R27, R132). `lane` is its lane group, `reqs` the banks its chunks still ask for, one after another (none
for a chunk that reaches no bank, 32 for one of local memory), and `nextAt` the clk from which the first of them stands at its bank (R116, R156). -/
structure Op where
  id : Nat
  ctx : Nat
  task : Nat
  kind : OpKind
  issued : Nat
  mask : MaskReg
  a : Word
  b : Word
  vfmt : Word
  rm : Nat
  srcs : List Nat
  snap : List (Nat × VReg)
  tgts : List Target
  started : Bool
  start : Nat
  due : Nat
  flags : Nat
  keeps : List (Nat × Nat)
  fmts : List Word
  since : Nat
  fixed : Bool
  lane : Nat
  reqs : List (Option Nat)
  nextAt : Nat
  waits : List Nat
  acc : Nat
  seg : Nat × Nat
  know : Know
  fences : List RelFence
  deriving DecidableEq, Repr

/-- A posted scratchpad store, or a window store that adds to a trigger counter (R108, R109). -/
structure TileStore where
  id : Nat
  core : Nat
  task : Nat
  job : Nat
  vtile : Nat
  addr : Nat
  data : List Byte
  issued : Nat
  rel : Option Rel
  waits : List Nat
  acc : Nat
  deriving DecidableEq, Repr, Inhabited

/-! ## Messages and what is in flight (chapters 8, 11, 13) -/

/-- A message: its header word, its argument words, and what the delivery record keeps (R138, R142, R150). -/
structure Msg where
  job : Nat
  hdr : Word
  args : List Word
  sender : Nat
  srcV : Nat
  srcDev : Nat
  ord : Bool
  replays : Nat
  acq : Option Rel
  ecc : Nat
  deriving DecidableEq, Repr, Inhabited

/-- Where a unit stands: an NI, an edge slice (of a die), a context unit, a row's west or east I/O node. -/
inductive Endpoint where
  | ni (tile : Nat)
  | slice (die n : Nat)
  | unit (die : Nat)
  | west (row : Nat)
  | east (row : Nat)
  deriving DecidableEq, Repr, Inhabited

/-- How far a message that its sender still answers for has come (R149, R185, R263): on its way or waiting to leave, refused
and waiting to be sent again, or taken in, its weight gone with it. -/
inductive OutState where
  | flying
  | refused
  | accepted
  deriving DecidableEq, Repr, Inhabited

/-- A message its sender keeps, with its weight, until it is accepted or spilled. `far` is the device of a far send;
`draw` the units of a `send.draw`; `order` names the task whose sends keep order with it (0 for none); `origin` is the
`send.draw` or far send whose outcome this forward decides; `last` the virtual core last chosen for it; `done` what a DONE rise of
its posted operation orders. -/
structure OutMsg where
  id : Nat
  msg : Msg
  src : Endpoint
  core : Nat
  state : OutState
  tries : Nat
  due : Nat
  draw : Nat
  far : Option Nat
  waits : List Nat
  order : Nat
  origin : Nat
  acc : Nat
  first : Nat
  post : Nat
  last : Nat
  done : Know
  deriving DecidableEq, Repr, Inhabited

/-- A completion word and its TAG (R178). -/
structure Cmsg where
  word : Word
  tag : Word
  deriving DecidableEq, Repr, Inhabited

/-- What a request does. -/
inductive ReqKind where
  | grd (g a n : Nat) (tile : Bool) (acq : Bool)
  | gwr (g a n : Nat) (tile : Bool)
  | near (f : Nat) (block : List Word)
  | copy (walk : Bool) (block : List Word) (chan seq : Nat)
  | future (f : Nat) (block : List Word)
  | nrdef (block : List Word)
  | nrfree (block : List Word)
  | launch (addr : Nat)
  | ctxsave (job area : Nat)
  | ctxload (area : Nat)
  | census
  | wloss
  | add
  deriving DecidableEq, Repr, Inhabited

/-- A request in flight (R175 to R182): its weight `v` is held here until its completion is sent. `left` is the number
of pieces not yet finished; `code` and `failAt` the failure of the lowest address; `post` is 0 or the trigger entry's
raise. -/
structure Req where
  id : Nat
  kind : ReqKind
  job : Nat
  task : Nat
  core : Nat
  vcore : Nat
  v : Nat
  cm : Cmsg
  know : Know
  waits : List Nat
  acc : Nat
  left : Nat
  count : Nat
  code : Nat
  failAt : Nat
  flags : Nat
  tries : Nat
  due : Nat
  first : Nat
  rel : Option Rel
  post : Nat
  deriving DecidableEq, Repr, Inhabited

/-- What an access that travels to memory is: a piece read or written, a `gst`, a near-memory operation, or a piece of a copy read or
written in its core's local memory or its tile's scratchpad; `keep` says that the written bytes end with half a byte, the other half
of which stays. -/
inductive AccKind where
  | read
  | write
  | store
  | near (f : Nat) (block : List Word)
  | tileRead (tile : Bool)
  | tileWrite (tile keep : Bool)
  deriving DecidableEq, Repr, Inhabited

/-- One access that travels to memory. `core` is the issuing core; `pa` its physical address, 2⁵² until it is translated;
`st` the station that translates it, `node` 0 or 1 + the slice whose forward credit it holds, `dev` the issuing device of a
far one, whose request has the number `req` there, and `home` the unit that issued it here, an NI or a BTE. -/
structure Access where
  req : Nat
  job : Nat
  task : Nat
  core : Nat
  kind : AccKind
  va : Nat
  pa : Nat
  len : Nat
  data : List Byte
  landing : Nat
  st : Nat
  node : Nat
  hops : Nat
  status : Nat
  flags : Nat
  rel : Option Rel
  know : Know
  acc : Nat
  dev : Option Nat
  home : Endpoint
  deriving DecidableEq, Repr, Inhabited

/-- What a reduction packet or an open round carries (R225 to R227). -/
structure Partial where
  elems : List Word
  count : Nat
  weight : Nat
  flags : Nat
  know : Know
  deriving DecidableEq, Repr, Inhabited

/-- The content of a packet on the mesh. `fab` is a packet on its way to a fabric port, `fabIn` one that came in by a port; those of a
chain name the place k of a node in it. -/
inductive Body where
  | message (out : Nat)
  | accepted (out : Nat) (vcore : Nat)
  | refused (out : Nat)
  | pod (job weight : Nat) (lost killed : Bool)
  | farSend (m : Msg) (dev out v : Nat)
  | marker (job node : Nat)
  | drawRefused (out : Nat)
  | drawReport (out : Nat)
  | holdAck (task : Nat) (acc : Nat)
  | arm (job task vcore cls : Nat)
  | disarm (job task : Nat)
  | access (a : Access)
  | performed (a : Access)
  | turnedAway (a : Access) (hint : Nat)
  | parkRefused (a : Access)
  | request (req : Nat)
  | requestRefused (req : Nat)
  | trgAdd (job vtile ctr amount task : Nat) (rel : Option Rel) (acc req : Nat)
  | addDone (req : Nat)
  | arrive (job gtag p l src dst : Nat)
  | arriveRefused (job gtag p l src dst : Nat)
  | row (job gtag src dst : Nat) (data : List Byte) (rel : Option Rel)
  | rowAck (job gtag src dst : Nat)
  | contribution (job nid core : Nat) (p : Partial) (acc post : Nat)
  | part (job nid input : Nat) (p : Partial)
  | notice (job nid round : Nat)
  | close (job nid round : Nat)
  | fab (port : Nat) (f : FabPkt)
  | fabIn (f : FabPkt)
  | copyOffer (req : Nat)
  | copyRefused (req : Nat)
  | chainReserve (job k : Nat)
  | chainGrant (job k : Nat)
  | chainChunk (job k : Nat)
  | chainReport (job : Nat)
  deriving DecidableEq, Repr, Inhabited

/-- The traffic classes of R234. -/
inductive Class where
  | request
  | reply
  | weight
  | reduction
  | trigger
  | management
  deriving DecidableEq, Repr, Inhabited

/-- Where a packet is: still in its source, in the router of a physical column and row, or at its destination. -/
inductive Pos where
  | source
  | router (p y : Nat)
  | dest
  deriving DecidableEq, Repr, Inhabited

/-- A packet. `queue` is the core + 1 whose NI request queue entry it keeps, or 0; `waits` are the accesses that must
be acknowledged before it leaves; `hdrEcc` marks a header with an uncorrectable error. -/
structure Packet where
  id : Nat
  cls : Class
  src : Endpoint
  dst : Endpoint
  pos : Pos
  ready : Nat
  flits : Nat
  queue : Nat
  waits : List Nat
  job : Nat
  hdrEcc : Nat
  body : Body
  deriving DecidableEq, Repr, Inhabited

/-! ## A core -/

/-- A mailbox slot (R142). -/
structure Slot where
  msg : Msg
  ready : Nat
  order : Nat
  vcore : Nat
  deriving DecidableEq, Repr, Inhabited

/-- A job resident on a core (R284, R288, R289). -/
structure Resident where
  idx : Nat
  job : Nat
  deriving DecidableEq, Repr, Inhabited

/-- A copy command waiting in the core's FIFO (R196): how often it was refused, from when it may be offered again, the BTE chosen for it
with the status of a first byte that could not be translated, and whether an offer of it is under way. -/
structure CopyCmd where
  req : Nat
  refusals : Nat
  due : Nat
  bte : Option (Nat × Nat)
  offered : Bool
  deriving DecidableEq, Repr, Inhabited

/-- The state of a core beside its contexts. `leaving` are the entries of its NI request queue whose packets are on their way out, each
with the clk in which it frees (R182). -/
structure Core where
  mailbox : List Slot
  residents : List Resident
  slottab : List Nat
  anyLast : Nat
  startLast : Nat
  hcLast : Nat
  reserve : Option Nat
  vqueue : List Nat
  fifo : List CopyCmd
  leaving : List (Nat × Nat)
  lastClk : Option Nat
  startClk : Option Nat
  deriving DecidableEq, Repr, Inhabited

/-- What `cqry` and CPYDONE read of one channel of a job on a core (R196, R202, R203). -/
structure Chan where
  next : Nat
  done : Nat
  ahead : List Nat
  states : List (Nat × Nat × Nat × Nat)
  deriving DecidableEq, Repr, Inhabited

/-- What `tstat` reads of a job on a core (R209, R211). -/
structure ArrSeq where
  next : Nat
  words : List (Nat × Word)
  deriving DecidableEq, Repr, Inhabited

/-! ## A tile -/

/-- A trigger counter (R216), and the release that wrote its value (R249). -/
structure Counter where
  owner : Option Nat
  value : Nat
  rel : Option Rel
  deriving DecidableEq, Repr, Inhabited

/-- A posted operation (R219). -/
structure Posted where
  entry : Nat
  job : Nat
  core : Nat
  vcore : Nat
  task : Nat
  ctr : Nat
  thresh : Nat
  op : Nat
  fn : Nat
  dctr : Nat
  doneRaise : Bool
  ord : Bool
  v : Nat
  block : List Word
  order : Nat
  know : Know
  fences : List RelFence
  at_ : Nat
  deriving DecidableEq, Repr, Inhabited

/-- A cancel on its way to the trigger unit: the context and task that issued it, the handle, and where the
answer goes (R222). -/
structure Cancel where
  ctx : Nat
  task : Nat
  handle : Nat
  target : Option Target
  deriving DecidableEq, Repr, Inhabited

/-- A change or a cancel that reaches the trigger unit and is not yet applied (R220): from clk `at_` on, once the accesses it
waits for are acknowledged; as a release it brings what it orders. -/
structure Rise where
  job : Nat
  ctr : Nat
  amount : Nat
  know : Know
  at_ : Nat
  acc : Nat
  cancel : Option Cancel
  waits : List Nat
  rel : Option Rel
  deriving DecidableEq, Repr, Inhabited

/-- An array job (R208). -/
structure ArrayJob where
  seq : Nat
  job : Nat
  core : Nat
  vcore : Nat
  task : Nat
  v : Nat
  block : List Word
  cm : Cmsg
  entered : Nat
  waits : List Nat
  know : Know
  acc : Nat
  rel : Option Rel
  post : Nat
  deriving DecidableEq, Repr, Inhabited

/-- A block of accumulators: its rows by column, how far it has been accumulated and drained (R168, R172). -/
structure ArrayBlock where
  j : Nat
  b : Nat
  acc : List (List Int)
  complete : Bool
  drained : Nat
  deriving DecidableEq, Repr, Inhabited

/-- The job the array runs: the bank formats sampled at its start, the next step, the blocks standing in the two
accumulator banks, and the clk counts of R170. `lines` are the banks of the lines that the step at hand still reads, from clk `lineFrom`
on; `out` the lines of a row that are still to be written (R156); `eccAt` the address of a byte with an uncorrectable error that stopped
it. -/
structure ArrayRun where
  job : ArrayJob
  fmtA : Word
  fmtC : Word
  start : Nat
  j : Nat
  b : Nat
  i : Nat
  stepEnd : Nat
  blocks : List ArrayBlock
  handed : Nat
  lastRow : Nat
  stopped : Nat
  stopWord : Word
  abortAt : Nat
  lines : List Nat
  lineFrom : Nat
  out : List (Nat × List Byte)
  eccAt : Nat
  deriving DecidableEq, Repr, Inhabited

/-- A row handed to hc9 and waiting for it (R173). -/
structure DrainRow where
  core : Nat
  job : Nat
  cls : Nat
  m : Nat
  col : Nat
  elems : List Nat
  flags : Nat
  know : Know
  deriving DecidableEq, Repr, Inhabited

/-- An exchange, waiting or active (R213 to R215). -/
structure Exchange where
  job : Nat
  core : Nat
  vcore : Nat
  vtile : Nat
  task : Nat
  v : Nat
  block : List Word
  cm : Cmsg
  start : Nat
  arrived : List Nat
  sent : List Nat
  rowsIn : List Nat
  acked : List Nat
  know : Know
  acc : Nat
  waits : List Nat
  rel : Option Rel
  deriving DecidableEq, Repr, Inhabited

/-- The state of a tile beside its cores and memories. `bankClk` is for each bank the last clk that its grants so far take. -/
structure Tile where
  bankPtr : List Nat
  bankClk : List (Option Nat)
  vshare : List Nat
  deficit : List Nat
  arbLast : Nat
  lanes : List Nat
  sfu : List Nat
  sfuEnd : Nat
  counters : Vector Counter 64
  posted : List Posted
  gens : List Nat
  rises : List Rise
  fired : Option Nat
  arrayQ : List ArrayJob
  arrayRun : Option ArrayRun
  arrayFree : Nat
  drains : List DrainRow
  xqueue : List Exchange
  xactive : Option Exchange
  arrives : List (Nat × Nat × Nat × Nat × Nat)
  chainBufs : Nat
  duty : Nat
  badRoutines : List (Nat × Nat)
  deriving DecidableEq, Repr

/-! ## Routers -/

/-- A reduction definition at a router (R224 to R227). Its inputs are numbered in the order of R226: local cores 0 to 7, then 8
west, 9 east, 10 south and 11 north. `expects` are those of its tree, `inputs` those present in the round `round`, `waiting` those
of later rounds in their order of arrival, and `late` the local cores that a closed round went without. -/
structure RDef where
  job : Nat
  nid : Nat
  block : List Word
  expects : List Nat
  inputs : List (Nat × Partial)
  waiting : List (Nat × Partial)
  closing : Bool
  round : Nat
  late : List Nat
  deriving DecidableEq, Repr, Inhabited

/-- A router's power state and the definitions it holds (R238, R243). -/
structure Router where
  gated : Bool
  wake : Option Nat
  idle : Nat
  defs : List RDef
  deriving DecidableEq, Repr, Inhabited

/-- A reduction definition as its root's NI holds it (R223, R227): the end of the open round's timer and whether its close has
gone out, the root core's own contributions and the tree's results in their order, the rounds done, the later ones that have
reached it with the ends of their timers, how many rounds closed without the root's own, and the requests that wait to free the definition. -/
structure NDef where
  nid : Nat
  block : List Word
  timer : Option Nat
  closing : Bool
  own : List Partial
  tree : List Partial
  round : Nat
  noticed : List (Nat × Nat)
  late : Nat
  freeing : List Nat
  deriving DecidableEq, Repr, Inhabited

/-! ## A job context (chapters 17, 18, 23, 24) -/

/-- A census in progress (R267): its request, the nodes that have sent their markers, how many markers have come home, and
the pods held back at their nodes. -/
structure Census where
  req : Nat
  sent : List Endpoint
  got : Nat
  heldPods : List (Nat × Bool × Bool)
  deriving DecidableEq, Repr, Inhabited

/-- An entry of the pending-draw queue (R263): the message to forward, its units, the order it keeps, the message of its
sender (0 for the home's own), and for a far send its device, its number there and the units to return (R264). -/
structure Draw where
  msg : Msg
  units : Nat
  order : Nat
  out : Nat
  credit : Option (Nat × Nat × Nat)
  deriving DecidableEq, Repr, Inhabited

/-- The phases of a context. -/
inductive Phase where
  | loading
  | running
  | saving
  | saved
  deriving DecidableEq, Repr, Inhabited

/-- A job context. `words` are its launch record's 40 words; `source` the host queue, or 1,024 for the device-side queue,
with the parent's request in `parent`. `ring` holds the records of its overflow ring, each with the number under which its sender had it;
`homeAt` is the last clk in which its home served and tested (R260). -/
structure Job where
  words : List Word
  addr : Nat
  source : Nat
  parent : Nat
  privileged : Bool
  phase : Phase
  vtiles : Nat
  place : List Nat
  csize : Nat
  rtab : List (Word × Word)
  acts : List Word
  ovr : List Word
  pqBase : Nat
  pqN : Nat
  pqCount : Nat
  die : Nat
  homew : Nat
  wtotal : Nat
  armed : Bool
  loss : Bool
  uncertain : Bool
  census : Option Census
  drawq : List Draw
  ownDraws : List Draw
  qvcore : Nat
  qclass : Nat
  lostw : Nat
  killw : Nat
  woff : Nat
  ring : List (Nat × Msg)
  ringTail : Nat
  ringNotice : Bool
  ringOffer : Option Nat
  jtag : Nat
  tvalid : Bool
  parked : Bool
  discarding : List (Nat × Nat)
  retries : List (Nat × Nat × Nat)
  retryDue : List (Nat × Nat)
  saveReq : Option (Nat × Nat)
  spillBase : Nat
  spill : List Draw
  roots : List Msg
  killed : Bool
  copyNow : Nat × Nat
  copyOld : Nat × Nat
  copyClk : Nat
  ndefs : List NDef
  actOld : List (Nat × Word × Nat)
  homeAt : Option Nat
  deriving DecidableEq, Repr

/-- What the device keeps of a saved context (R356, R359): the physical address of its area, the context as it stood, its spill
ring in the memory of the job that saved it, how many records have been written there, and those not yet read. -/
structure Saved where
  area : Nat
  pt : Nat
  job : Job
  ring : Nat
  ringN : Nat
  written : Nat
  spill : List Draw
  deriving DecidableEq, Repr

/-! ## Futures, translation, storage -/

/-- A future-table entry (R228), with the release that set it (R251). Owner 1,024 is the launch unit. -/
structure Future where
  owner : Option Nat
  set : Bool
  value : Word
  gen : Nat
  waiters : List Nat
  rel : Option Rel
  deriving DecidableEq, Repr, Inhabited

/-- A TLB entry: job, virtual page base, log2 of the page size, the PTE and its physical address. A `dying` one is being dropped by
an invalidation: an access may still use it (R298). -/
structure TlbEntry where
  job : Nat
  va : Nat
  bits : Nat
  pte : Nat
  pteAddr : Nat
  dying : Bool
  deriving DecidableEq, Repr, Inhabited

/-- The record of one page in a die's parking table, with the requests parked on it in their order (R300). -/
structure Parking where
  pteAddr : Nat
  parked : List Access
  deriving DecidableEq, Repr, Inhabited

/-- A service record of an SQE, keyed by its PTE's address (R300, R302): the locator served, log2 of the page size, the frame it
has taken and since when its NVMe command runs, since when it waits for a frame, and whether an eviction serves it. -/
structure Service where
  pteAddr : Nat
  locator : Nat
  bits : Nat
  frame : Option Nat
  started : Nat
  waiting : Option Nat
  evicting : Bool
  deriving DecidableEq, Repr, Inhabited

/-- A page on a pool's clock list (R302, R303): its PTE address, frame and locator. -/
structure ClockPage where
  pteAddr : Nat
  frame : Nat
  locator : Nat
  held : Bool
  deriving DecidableEq, Repr, Inhabited

/-- An eviction or a migration in progress (R303, R306), named by the address of the page's PTE: the PTE as hardware wrote it
with BUSY set, the new frame of a migration, and the port and PTE of the fill that an eviction serves. -/
structure Move where
  pool : Nat
  page : ClockPage
  pte : Nat
  dest : Option Nat
  fill : Nat × Nat
  started : Nat
  bits : Nat
  deriving DecidableEq, Repr, Inhabited

/-- A frame pool (R301). -/
structure Pool where
  pbase : Word
  log2n : Nat
  en : Bool
  tail : Nat
  head : Nat
  spare : List Nat
  clock : List ClockPage
  deriving DecidableEq, Repr, Inhabited

/-- A transfer a BTE has accepted (R197 to R200): the source bytes or walk elements it is past, the bank descriptors of its two sides,
whether it has been cancelled or has a piece under way, and how it ends where its issuing device's far request ended. -/
structure Transfer where
  req : Nat
  moved : Nat
  dsrc : Nat
  ddst : Nat
  cancelled : Bool
  waiting : Bool
  failed : Nat × Nat
  deriving DecidableEq, Repr, Inhabited

/-! ## Launch unit, host, platform -/

/-- A host work queue (R276), and the host's writes before its last doorbell (R252). -/
structure Queue where
  qbase : Word
  log2n : Nat
  prio : Nat
  en : Bool
  tail : Nat
  head : Nat
  know : Know
  deriving DecidableEq, Repr, Inhabited

/-- A record the launch unit holds: read from queue `source` (1,024 is the device-side queue), waiting, or loading into the context
`job`; or a saved context that is being restored (`source` 1,025, its area's address and the words of its header). `know` are the writes
that happen before its root tasks (R252); `deps` the futures it still waits on, and `fresh` says that it has not had to wait yet (R277,
R282). -/
structure Launching where
  source : Nat
  addr : Nat
  parent : Nat
  privileged : Bool
  words : List Word
  know : Know
  job : Nat
  deps : List Word
  fresh : Bool
  deriving DecidableEq, Repr, Inhabited

/-- A chunk of a chain: for the code store, the scratchpad, or the local memory of one core or of every core of a tile (R241). -/
structure ChainChunk where
  space : Space
  core : Option Nat
  addr : Nat
  data : List Byte
  deriving DecidableEq, Repr, Inhabited

/-- A chain being forwarded (R241): its nodes, how many chunks there are, and for each node how many it has written and
granted a buffer for. -/
structure Chain where
  job : Nat
  nodes : List Nat
  written : List Nat
  granted : List Nat
  chunks : List ChainChunk
  deriving DecidableEq, Repr, Inhabited

/-- The host's future registers (R372). -/
structure HostFut where
  op : Nat
  handle : Word
  value : Word
  done : Bool
  set : Bool
  stale : Bool
  full : Bool
  wasset : Bool
  deriving DecidableEq, Repr, Inhabited

/-- The Melbex controller (R374 to R376): its mailbox, the firmware image in use and the one accepted for the next reset, the
launches since reset, and how many reports it has signed. -/
structure Melbex where
  cmd : Nat
  busy : Bool
  err : Nat
  len : Nat
  buf : List Byte
  image : List Byte
  next : List Byte
  launches : List (Nat × List Byte)
  report : Nat
  deriving DecidableEq, Repr, Inhabited

/-- A replica's digest of a chunk that has come before this device's own checkpoint of that job and generation awaits it
(R363). -/
structure PeerDigest where
  jtag : Nat
  gen : Nat
  entry : Nat
  chunk : Nat
  bytes : List Byte
  deriving DecidableEq, Repr, Inhabited

/-- The checkpoint sequencer's work on one completed launch (R361 to R365): the job's tag and RANK, the map, its header and entries, the
digests it awaits and by when, its own digests by slot, and how far it has come: 0 the slots being read, written and flushed, 1 flushed, 2
the commit blocks being flushed. `since` is the number of the first write made after the launch's completion, `started` the clk in which
the commands of its phase were issued. -/
structure Ckpt where
  jtag : Nat
  rank : Nat
  entries : List (List Word)
  since : Nat
  started : Nat
  pt : Nat
  map : Nat
  hdr : List Word
  nslot : Nat
  phase : Nat
  result : Word
  awaiting : List (Nat × Nat)
  digests : List (Nat × (Nat × Nat) × List Byte)
  deriving DecidableEq, Repr

/-- A packet waiting to leave a fabric port (R322 to R324), or with no port for a way out; `came` is the port by which it came in and
the place of its class and channel there, whose buffer it still holds (R323). -/
structure FabOut where
  pkt : FabPkt
  port : Option Nat
  came : Option (Nat × Nat)
  deriving DecidableEq, Repr, Inhabited

/-- One fabric port: flits in its replay buffer not yet acknowledged, and since when (R319, R367), its credits by class and channel
(R323), and what this device has told its neighbour: how many flits it has acknowledged, and how many credits it has given back by class
and channel. -/
structure Port where
  up : Bool
  replay : List FabPkt
  since : Nat
  credits : List Nat
  acked : Nat
  returned : List Nat
  deriving DecidableEq, Repr, Inhabited

/-- What the device logs to the host. -/
inductive LogEntry where
  | fatal (sub job : Nat) (arg : Word)
  | ovfring (job : Nat) (page : Word)
  | census (w s : Nat)
  | poolFrame (frame : Nat)
  | poolDry (pool : Nat)
  | windowNoMap (addr : Nat)
  | badRoute (d : Nat)
  | discarded (pkt : FabPkt)
  | staleDone (handle : Word)
  | badHostOp (op : Nat)
  | portDown (p : Nat)
  | ssdPort (port : Nat)
  | halted (code : Nat)
  | link (width speed : Nat)
  deriving DecidableEq, Repr, Inhabited

/-- An entry of the device trace buffer (R354). -/
structure Note where
  a : Word
  b : Word
  job : Nat
  self : Nat
  pc : Nat
  clk : Nat
  deriving DecidableEq, Repr, Inhabited

/-- The SSD ports and the NVMe namespaces behind them (R304, R305, R378): which ports are enabled and which have failed their bring-up;
and, outside the device but read and written by it, which drives answer a bring-up, how many 4 KiB blocks namespace ns behind port p has
(by 16 p + ns; 0 for one without such blocks), and their contents. -/
structure Nvme where
  enabled : List Bool
  failed : List Bool
  answers : List Bool
  sizes : Map Nat
  data : Memory
  deriving DecidableEq, Repr, Inhabited

/-- The whole machine. `parties` tells of every task that has started on which core and for which job, as the scopes of what it has
written go on to ask (R246); `fences` are those issued so far and `gains` what each acquire load has gained, by its number (R250,
R251). -/
structure State where
  clk : Nat
  cur : Nat
  free : Nat
  serial : Nat
  turns : List Turn
  turnNo : Nat
  limmOpen : Option Nat
  ctxs : Map Ctx
  tasks : Map TaskRec
  parties : Map (Nat × Nat)
  cores : Map Core
  chans : Map Chan
  arrSeqs : Map ArrSeq
  tiles : Map Tile
  ops : List Op
  stores : List TileStore
  accs : List Acc
  outs : List OutMsg
  reqs : List Req
  packets : List Packet
  routers : Map Router
  jobs : Map Job
  bankfmt : Map (List Word)
  saved : List Saved
  futures : Map Future
  localMem : Memory
  scratch : Memory
  codeMem : Memory
  hbm : Memory
  hostMem : Memory
  writes : List WRec
  fences : List RelFence
  gains : Map Know
  eccLocal : List Nat
  eccScratch : List Nat
  eccCode : List Nat
  stationTlb : Map (List TlbEntry)
  dieTlb : Map (List TlbEntry)
  walks : List (Nat × Access)
  services : Map (List Parking)
  moves : List Move
  counts : Map Nat
  pools : Map Pool
  fwdCredits : Map Nat
  btes : Map (List Transfer)
  sqes : Map (List Service)
  nvme : Nvme
  queues : Map Queue
  deviceQ : List Launching
  waiting : List Launching
  loading : Option Launching
  restores : List Nat
  rrQueue : List Nat
  chains : List Chain
  digests : Map (List Byte)
  tlbJob : Nat
  tlbAll : Bool
  tlbVa : Nat
  tlbBusy : Bool
  devid : Nat
  ports : List Port
  routes : Map Word
  fabOut : List FabOut
  fabWait : List FabPkt
  jobTags : Map Nat
  privvf : Word
  hostFut : HostFut
  hostKnow : Know
  winbase : Word
  winbaseOld : Word
  winRead : List Byte
  msix : List Nat
  melbex : Melbex
  trace : List Note
  log : List LogEntry
  budget : Nat
  dutyCap : List Nat
  halted : Option Nat
  inReset : Bool
  link : Nat × Nat
  ckpt : List Ckpt
  peerDigests : List PeerDigest
  deriving DecidableEq, Repr

/-! ## Stops -/

/-- Why a step can stop the machine with a fault. The spec lets no event stop the model: a trap is a next state, and so
is a halt. -/
inductive Fault where
  /-- raised by nothing: no step of this part ends in a fault; safe -/
  | none_
  deriving DecidableEq, Repr

/-- Why a step is refused. -/
inductive Refusal where
  /-- an arm of `exec` that has no meaning yet raises it, with its row's mnemonic; safe -/
  | notModelled (mnemonic : String)
  deriving DecidableEq, Repr

/-! ## Reset -/

/-- A context that runs no task; its fields are never read by a task, which R17 sets anew. -/
def Ctx.idle : Ctx where
  task := 0
  job := 0
  vcore := 0
  cls := 0
  s := .replicate 32 0
  m := .replicate 16 0
  hist := .replicate 8 0
  hptr := 0
  k := .replicate 8 0
  v := []
  wt := 0
  msg := 0
  fflags := 0
  vfmt := 0
  pc := 0
  loops := []
  limm := []
  limmPc := 0
  ready := 0
  parked := false
  ending := false
  dying := false
  pend := []
  outs := []
  startFault := none
  segPc := 0
  segOff := 0
  watchdog := 0
  budget := 0
  replayable := false
  precise := false
  replays := 0
  ovrMask := 0
  ovrIdx := 0
  privileged := false
  relFences := []
  acqLoads := []
  know := []
  startKnow := []
  ecc := []

/-- A core after reset: SLOTTAB entries 8 (R288), nothing resident; the round-robin places are 0 (log 12). -/
def Core.fresh : Core where
  mailbox := []
  residents := []
  slottab := List.replicate 32 8
  anyLast := 0
  startLast := 0
  hcLast := 0
  reserve := none
  vqueue := []
  fifo := []
  leaving := []
  lastClk := none
  startClk := none

/-- A tile after reset: VSHARE 1 each (R290), bank pointers at the scalar port of core 0 (R156), duty 8 (R291). -/
def Tile.fresh : Tile where
  bankPtr := List.replicate 16 0
  bankClk := List.replicate 16 none
  vshare := List.replicate 8 1
  deficit := List.replicate 8 0
  arbLast := 0
  lanes := [0, 0, 0, 0]
  sfu := []
  sfuEnd := 0
  counters := .replicate 64 ⟨none, 0, none⟩
  posted := []
  gens := List.replicate 256 0
  rises := []
  fired := none
  arrayQ := []
  arrayRun := none
  arrayFree := 0
  drains := []
  xqueue := []
  xactive := none
  arrives := []
  chainBufs := 0
  duty := 8
  badRoutines := []

/-- A router after reset: awake, with no definition. -/
def Router.fresh : Router where
  gated := false
  wake := none
  idle := 0
  defs := []

/-- The namespaces 1 to 15 behind the ports, each of 2³⁶ blocks: what is attached lies outside the device (log 54). -/
def namespaces : Map Nat := (List.range 8).flatMap (fun p => (List.range 15).map (fun n => (16 * p + n + 1, 2 ^ 36)))

/-- The machine right after reset (R19, R276, R288, R290, R291, R298, R301, R320, R325, R344, R349, R371, R372, R377);
the places the spec gives no value are those of the assumption log. -/
def State.reset : State where
  clk := 0
  cur := 0
  free := 0
  serial := 1
  turns := []
  turnNo := 0
  limmOpen := none
  ctxs := []
  tasks := []
  parties := []
  cores := []
  chans := []
  arrSeqs := []
  tiles := []
  ops := []
  stores := []
  accs := []
  outs := []
  reqs := []
  packets := []
  routers := []
  jobs := []
  bankfmt := []
  saved := []
  futures := []
  localMem := []
  scratch := []
  codeMem := []
  hbm := []
  hostMem := []
  writes := []
  fences := []
  gains := []
  eccLocal := []
  eccScratch := []
  eccCode := []
  stationTlb := []
  dieTlb := []
  walks := []
  services := []
  moves := []
  counts := []
  pools := []
  fwdCredits := []
  btes := []
  sqes := []
  nvme := ⟨List.replicate 8 false, List.replicate 8 false, List.replicate 8 true, namespaces, []⟩
  queues := []
  deviceQ := []
  waiting := []
  loading := none
  restores := []
  rrQueue := [0, 0, 0, 0]
  chains := []
  digests := []
  tlbJob := 0
  tlbAll := false
  tlbVa := 0
  tlbBusy := false
  devid := 0
  ports := List.replicate 32 ⟨false, [], 0, [], 0, []⟩
  routes := []
  fabOut := []
  fabWait := []
  jobTags := []
  privvf := 1
  hostFut := ⟨0, 0, 0, true, false, false, false, false⟩
  hostKnow := []
  winbase := 0
  winbaseOld := 0
  winRead := []
  msix := []
  melbex := ⟨0, false, 0, 0, [], [], [], [], 0⟩
  trace := []
  log := []
  budget := 2600
  dutyCap := List.replicate 8 16
  halted := none
  inReset := false
  link := (16, 128)
  ckpt := []
  peerDigests := []

end Sys2Proof.Machine
end

