-- ==== Sys2Proof/Machine/Maps.lean ====
section
/-! DEFINITION. Reading and writing finite maps and memories, and little-endian values (R2). -/

namespace Sys2Proof.Machine

/-- The value at a key. -/
def Map.get? {α : Type} : Map α → Nat → Option α
  | [], _ => none
  | (k, v) :: t, x => if k = x then some v else Map.get? t x

/-- The value at a key, or a given one where none is listed. -/
def Map.getD {α : Type} (m : Map α) (x : Nat) (d : α) : α := (m.get? x).getD d

/-- Writes the value at a key, keeping the keys rising. -/
def Map.set {α : Type} : Map α → Nat → α → Map α
  | [], x, a => [(x, a)]
  | (k, v) :: t, x, a =>
    if k = x then (x, a) :: t else if x < k then (x, a) :: (k, v) :: t else (k, v) :: Map.set t x a

/-- Removes a key. -/
def Map.del {α : Type} (m : Map α) (x : Nat) : Map α := m.filter (fun e => e.1 != x)

/-! ## Memories -/

/-- The byte at an address; an unlisted address reads 0 (R154, R155; log 14). -/
def Memory.get : Memory → Nat → Byte
  | [], _ => 0
  | (k, v) :: t, a => if k = a then v else Memory.get t a

/-- Writes one byte in the canonical form: writing 0 removes the entry. -/
def Memory.set : Memory → Nat → Byte → Memory
  | [], a, b => if b = 0 then [] else [(a, b)]
  | (k, v) :: t, a, b =>
    if k = a then (if b = 0 then t else (a, b) :: t)
    else if a < k then (if b = 0 then (k, v) :: t else (a, b) :: (k, v) :: t)
    else (k, v) :: Memory.set t a b

/-- Every address of a memory lies above a bound, rises, and no entry is 0. -/
def Memory.wfFrom : Nat → Memory → Bool
  | _, [] => true
  | n, (k, v) :: t => decide (n ≤ k) && v != 0 && Memory.wfFrom (k + 1) t

/-- The canonical form. -/
def Memory.wf (m : Memory) : Bool := Memory.wfFrom 0 m

/-- Reads consecutive bytes. -/
def Memory.read (m : Memory) (a : Nat) : Nat → List Byte
  | 0 => []
  | n + 1 => m.get a :: m.read (a + 1) n

/-- Writes consecutive bytes. -/
def Memory.write (m : Memory) (a : Nat) : List Byte → Memory
  | [] => m
  | b :: t => (m.set a b).write (a + 1) t

/-- Sets a range of addresses to 0. -/
def Memory.clear (m : Memory) (lo n : Nat) : Memory := m.filter (fun e => decide (e.1 < lo ∨ lo + n ≤ e.1))

/-- The number whose little-endian bytes these are. -/
def leNat : List Byte → Nat
  | [] => 0
  | b :: t => b.toNat + 256 * leNat t

/-- The little-endian 64-bit word of a byte list. -/
def leWord (bs : List Byte) : Word := BitVec.ofNat 64 (leNat bs)

/-- Eight bytes of a word. -/
def wordBytes (w : Word) : List Byte := bytesOfNat w.toNat 8

/-- Cuts a byte list into words of eight bytes. -/
def leWords : List Byte → Nat → List Word
  | _, 0 => []
  | bs, n + 1 => leWord (bs.take 8) :: leWords (bs.drop 8) n

/-! ## Lists -/

/-- Replaces every element a test holds of. -/
def replaceIf {α : Type} (p : α → Bool) (f : α → α) (l : List α) : List α := l.map (fun x => if p x then f x else x)

/-- The sum of a list of numbers. -/
def sumBy {α : Type} (f : α → Nat) (l : List α) : Nat := (l.map f).sum

end Sys2Proof.Machine
end

