-- ==== Sys2Proof/Machine/Visibility.lean ====
section
/-! DEFINITION. Memory accesses under chapter 14: the order of the writes of a location, the writes that bind a read, the
set a read returns one value of, and the accesses that wait for their acknowledgement. -/

namespace Sys2Proof.Machine

/-! ## Places -/

/-- The flat address of a local byte of a virtual core of a job (R106, R154). -/
def locAddr (job vcore a : Nat) : Nat := (job * 16384 + vcore) * 65536 + a

/-- The flat address of a scratchpad byte of a virtual tile of a job (R155). -/
def scratchAddr (job vtile a : Nat) : Nat := (job * 2048 + vtile) * 1048576 + a

/-- The flat address of a code-store byte of a job on a virtual tile (R54, R316). -/
def codeAddr (job vtile a : Nat) : Nat := (job * 2048 + vtile) * 131072 + a

/-- The bit of a path (R65, R245). -/
def Path.bit : Path → Nat
  | .core => 0
  | .copy => 1
  | .array => 2
  | .near => 3
  | .net => 4
  | .stor => 5
  | .host => 6

/-- The contents of a memory. -/
def State.mem (s : State) : Space → Memory
  | .loc => s.localMem
  | .scratch => s.scratch
  | .code => s.codeMem
  | .hbm => s.hbm
  | .host => s.hostMem

/-- Replaces the contents of a memory. -/
def State.putMem (s : State) (sp : Space) (m : Memory) : State :=
  match sp with
  | .loc => { s with localMem := m }
  | .scratch => { s with scratch := m }
  | .code => { s with codeMem := m }
  | .hbm => { s with hbm := m }
  | .host => { s with hostMem := m }

/-! ## Choices -/

/-- One of the values a rule allows (R6), the first being the newest; no choice is made where there is one value. -/
def choose {α : Type} (s : State) (place : Nat) (x : α) : List α → α
  | [] => x
  | l => ((x :: l).getD (Config.pick s.free place % (l.length + 1)) x)

/-! ## Writes -/

/-- The records of a write of consecutive bytes, the newest first. -/
def recordsOf (s : State) (sp : Space) (path : Path) (task acc : Nat) (rel : Option Rel) (a : Nat) :
    List Byte → List WRec
  | [] => []
  | _ :: t => ⟨s.serial, sp, a, (s.mem sp).get a, path, task, acc, rel, 0⟩ :: recordsOf s sp path task acc rel (a + 1) t

/-- The bytes of a local memory or a scratchpad with an uncorrectable error that a write of a range replaces. -/
def State.clean (s : State) (sp : Space) (a n : Nat) : State :=
  let keep (l : List Nat) : List Nat := l.filter (fun x => decide (x < a ∨ a + n ≤ x))
  match sp with
  | .loc => { s with eccLocal := keep s.eccLocal }
  | .scratch => { s with eccScratch := keep s.eccScratch }
  | _ => s

/-- Writes bytes: they become the latest in the order of their locations (R247). -/
def State.writeBytes (s : State) (sp : Space) (a : Nat) (bs : List Byte) (path : Path) (task acc : Nat)
    (rel : Option Rel) : State :=
  { ((s.putMem sp ((s.mem sp).write a bs)).clean sp a bs.length) with
    writes := recordsOf s sp path task acc rel a bs ++ s.writes
    serial := s.serial + 1 }

/-- Marks the writes of a number with the clk from which they bind (R107). -/
def State.stamp (s : State) (id at_ : Nat) : State :=
  { s with writes := replaceIf (fun w => w.id == id) (fun w => { w with at_ := at_ }) s.writes }

/-- Takes a write of one byte out of the order of its location: what follows it there then follows what it replaced. -/
def State.unwrite (s : State) (w : WRec) : State :=
  let newer := (s.writes.takeWhile (fun x => x != w)).filter (fun x => x.space == w.space && x.addr == w.addr)
  let s1 := { s with writes := s.writes.filter (fun x => x != w) }
  match newer.getLast? with
  | some n => { s1 with writes := replaceIf (fun x => x == n) (fun x => { x with old := w.old }) s1.writes }
  | none => s1.putMem w.space ((s1.mem w.space).set w.addr w.old)

/-- Takes the writes of an access that are not yet made in a clk out of the order of their locations. -/
def State.unwriteFrom (s : State) (acc now : Nat) : State :=
  (s.writes.filter (fun w => w.acc == acc && decide (w.at_ = 0 ∨ now < w.at_))).foldl (fun st w => st.unwrite w) s

/-- Writes bytes as the initial contents of their locations: launch loads and restores, which happen before every task
of the job (R154, R155, R252). -/
def State.loadBytes (s : State) (sp : Space) (a : Nat) (bs : List Byte) : State :=
  { (s.putMem sp ((s.mem sp).write a bs)) with
    writes := s.writes.filter (fun w => !(w.space == sp && decide (a ≤ w.addr ∧ w.addr < a + bs.length))) }

/-- Sets a range to its initial zero (R154, R155). -/
def State.clearRange (s : State) (sp : Space) (a n : Nat) : State :=
  { (s.putMem sp ((s.mem sp).clear a n)) with
    writes := s.writes.filter (fun w => !(w.space == sp && decide (a ≤ w.addr ∧ w.addr < a + n))) }

/-! ## Reads -/

/-- Who reads: on which path, for which task, with which writes known to happen before, in which clk, and the number from which on
writes do not bind it (R132). -/
structure Reader where
  path : Path
  task : Nat
  know : Know
  clk : Nat
  since : Nat
  deriving DecidableEq, Repr, Inhabited

/-- The accesses not yet performed whole: what they have written so far binds no read (R107, R132). -/
def State.unperformed (s : State) : List Nat := (s.accs.filter (fun a => !a.performed)).map (·.id)

/-- A write binds a read (R253): a CORE write of a core's local memory read by that core, from the clk on in which a vector store lets it
(R107, R132); the reader's own write on the path (R247), a chunk of its own vector store once it is written (R132); or a write known to
happen before and to bind on the path. -/
def WRec.binds (w : WRec) (undone : List Nat) (r : Reader) : Bool :=
  let before := decide (w.id < r.since)
  let written := w.at_ != 0 && decide (w.at_ ≤ r.clk)
  let own := w.path == r.path && w.task == r.task && w.task != 0
  (w.space == .loc && w.path == .core && r.path == .core && (written || (w.at_ == 0 && before)))
    || (own && written)
    || (before && !(w.acc != 0 && undone.contains w.acc)
      && (own || r.know.any (fun e => e.1 == w.id && e.2.testBit r.path.bit)))

/-- The writes of one byte that no later binding write of it follows, the newest first. -/
def unboundAt (s : State) (r : Reader) (sp : Space) (a : Nat) : List WRec :=
  (s.writes.filter (fun w => w.space == sp && w.addr == a)).takeWhile (fun w => !w.binds s.unperformed r)

/-- The writes of a range that a read may not see, the newest first. -/
def unboundWrites (s : State) (r : Reader) (sp : Space) (a n : Nat) : List WRec :=
  match s.writes.filter (fun w => w.space == sp && decide (a ≤ w.addr ∧ w.addr < a + n)) with
  | [] => []
  | ws => ws.filter (fun w => (unboundAt s r sp w.addr).contains w)

/-- The memory with given writes taken back, the newest first. -/
def undo (m : Memory) : List WRec → Memory
  | [] => m
  | w :: t => undo (m.set w.addr w.old) t

/-- The writes a read does not see, chosen from the newest to the oldest: bytes of one write are seen together, and a
write is hidden only where every newer write of its bytes is. `shown` are the bytes of a write already seen. -/
def hidden (s : State) (place : Nat) (ws : List WRec) : List Nat → List Nat → List Nat
  | _, [] => []
  | shown, id :: t =>
    let at_ := (ws.filter (fun w => w.id == id)).map (·.addr)
    if at_.any shown.contains ∨ Config.pick s.free (place * 4096 + t.length) % 2 = 0 then hidden s place ws (shown ++ at_) t
    else id :: hidden s place ws shown t

/-- The records of the writes a read does not see. -/
def chosenCut (s : State) (place : Nat) (ws : List WRec) : List WRec :=
  match ws with
  | [] => []
  | _ =>
    let ids := hidden s place ws [] ((ws.map (·.id)).dedup)
    ws.filter (fun w => ids.contains w.id)

/-- The bytes a read returns (R253), single-copy atomic. -/
def State.readBytes (s : State) (r : Reader) (sp : Space) (a n place : Nat) : List Byte :=
  match unboundWrites s r sp a n with
  | [] => (s.mem sp).read a n
  | ws => (undo (s.mem sp) (chosenCut s place ws)).read a n

/-- What the release whose value an acquire load returns carries (R251): its scope and the writes it orders. -/
def State.releaseRead (s : State) (r : Reader) (sp : Space) (a n place : Nat) : Option Rel :=
  let all := s.writes.filter (fun w => w.space == sp && decide (a ≤ w.addr ∧ w.addr < a + n))
  let hidden := chosenCut s place (unboundWrites s r sp a n)
  match all.filter (fun w => !hidden.contains w) with
  | [] => none
  | w :: _ => w.rel

/-- The releases whose values a read of a range returns, byte by byte (R251). -/
def State.releasesRead (s : State) (r : Reader) (sp : Space) (a n place : Nat) : List Rel :=
  let hidden := chosenCut s place (unboundWrites s r sp a n)
  let seen := s.writes.filter (fun w => w.space == sp && decide (a ≤ w.addr ∧ w.addr < a + n) && !hidden.contains w)
  (seen.filter (fun w => seen.find? (fun x => x.addr == w.addr) == some w)).filterMap (·.rel)

/-! ## Scopes and what a release carries -/

/-- A scope taken around one core holds another core (R246). -/
def coversCore (sc : Scope) (a b : Nat) : Bool :=
  match sc with
  | .task => false
  | .core => a == b
  | .tile => a / 8 == b / 8
  | .die => a / 8 % 128 / 16 == b / 8 % 128 / 16
  | .device => true
  | .system => true

/-- Adds what is known of writes to what is known already. -/
def Know.merge (a b : Know) : Know :=
  b.foldl (fun k e => if k.any (fun x => x.1 == e.1) then k.map (fun x => if x.1 == e.1 then (x.1, x.2 ||| e.2) else x)
    else k ++ [e]) a

/-- The scope of a scope number (R178); 6 and 7 never reach here. -/
def scopeOf (n : Nat) : Scope := (Scope.ofCode? n).getD .system

/-- The core that holds a location, or the first core of the tile or die that does; none where it lies beyond any one die. -/
def State.coreOfLoc (s : State) (sp : Space) (a : Nat) : Option Nat :=
  let placed (job vcore : Nat) : Option Nat := (s.jobs.get? job).map (fun j => 8 * j.place.getD (vcore / 8) 0 + vcore % 8)
  match sp with
  | .loc => placed (a / 65536 / 16384) (a / 65536 % 16384)
  | .scratch => placed (a / 1048576 / 2048) (a / 1048576 % 2048 * 8)
  | .code => placed (a / 131072 / 2048) (a / 131072 % 2048 * 8)
  | .hbm | .host => none

/-- The die of a core. -/
def dieOf (core : Nat) : Nat := core / 8 % 128 / 16

/-- The smallest scope around a core that holds a location (R246): global memory is held at die scope where the die's slices serve it
(R293), and what no longer stands on a core at device scope. -/
def locationScope (s : State) (core : Nat) (sp : Space) (a : Nat) : Scope :=
  match sp with
  | .hbm => if a / 2 ^ 38 = dieOf core then .die else .device
  | .host => .system
  | sp => match s.coreOfLoc sp a with
    | some h => if sp = .loc ∧ h = core then .core else if h / 8 = core / 8 then .tile else if dieOf h = dieOf core then .die else .device
    | none => .device

/-- A scope taken around a core holds a location. -/
def coversLoc (s : State) (sc : Scope) (core : Nat) (sp : Space) (a : Nat) : Bool :=
  decide ((locationScope s core sp a).code ≤ sc.code)

/-- The party that made a write lies within a scope around a core (R246); one that is no task lies within device scope. -/
def writerWithin (s : State) (sc : Scope) (core : Nat) (w : WRec) : Bool :=
  match s.parties.get? w.task with
  | some p => coversCore sc core p.1
  | none => decide (Scope.device.code ≤ sc.code)

/-- A fence of a core at a scope orders a write of one of its BEFORE paths: the scope holds who made it and its location (R250,
R253). -/
def fenceTakes (s : State) (core before : Nat) (sc : Scope) (w : WRec) : Bool :=
  before.testBit w.path.bit && coversLoc s sc core w.space w.addr && writerWithin s sc core w

/-- The writes a fence orders: those known at its issue, those of the accesses it waited for, and those that the acquire loads before it
have gained (R250, R253). -/
def fenceOrders (s : State) (f : RelFence) : List Nat :=
  let late := f.acqs.flatMap (fun a => (s.gains.getD a []).map (·.1))
  f.know.map (·.1) ++ ((s.writes.filter (fun w => (w.acc != 0 && f.waits.contains w.acc && f.before.testBit w.path.bit)
    || (late.contains w.id && fenceTakes s f.core f.before f.scope w))).map (·.id)).dedup

/-- The writes a number of what is known comes to stand for: those a fence orders, or those an acquire load has gained. -/
def promised (s : State) (e : Nat × Nat) : Know :=
  match s.fences.find? (fun f => f.id == e.1), s.gains.get? e.1 with
  | some f, _ => (fenceOrders s f).map (fun w => (w, e.2))
  | none, some k => k.map (fun w => (w.1, w.2 ||| e.2))
  | none, none => []

/-- What is known, the writes that fences and acquire loads stand for included. -/
def State.resolve (s : State) (k : Know) : Know :=
  if s.fences.isEmpty && s.gains.isEmpty then k else k ++ k.flatMap (promised s)

/-- Who reads in this clk. -/
def readerOf (s : State) (path : Path) (task : Nat) (know : Know) : Reader := ⟨path, task, s.resolve know, s.clk, s.serial⟩

/-- The fences an access of a path passes. -/
def passing (fences : List RelFence) (path : Path) : List RelFence := fences.filter (fun f => f.after.testBit path.bit)

/-- What is known before an access of a path that leaves the core: what its task knows, and what its fences order (R250, R253). -/
def knowOn (know : Know) (fences : List RelFence) (path : Path) : Know :=
  know ++ (passing fences path).map (fun f => (f.id, f.after))

/-- What is known before a CORE access of the task to its local memory: its acquire and full fences order it, its release fences do
not (R250, R251). -/
def knowNear (know : Know) (fences : List RelFence) : Know := knowOn know (fences.filter (·.near)) .core

/-- A task's own writes that a scope covers, each binding on its own path (R251). -/
def ownWrites (s : State) (task core : Nat) (sc : Scope) : Know :=
  ((s.writes.filter (fun w => w.task == task && task != 0 && coversLoc s sc core w.space w.addr)).map
    (fun w => (w.id, 2 ^ w.path.bit))).dedup

/-- The release a task makes at a scope with an access of a path (R251): the task's own writes that the scope covers, those it knows,
and those its fences order for the path; `accs` are the accesses it waits for. -/
def releaseOf (s : State) (task core : Nat) (know : Know) (fences : List RelFence) (path : Path) (sc : Scope)
    (accs : List Nat) : Rel :=
  ⟨sc, core, ownWrites s task core sc ++ knowOn know fences path, accs⟩

/-- The writes a release orders, those of the accesses it waited for included. -/
def Rel.knows (s : State) (r : Rel) : Know :=
  s.resolve r.know ++ ((s.writes.filter (fun w => w.acc != 0 && r.accs.contains w.acc)).map
    (fun w => (w.id, 2 ^ w.path.bit))).dedup

/-- A release with all it orders gathered, once it has been performed. -/
def Rel.gather (s : State) (r : Rel) : Rel := { r with know := r.knows s, accs := [] }

/-- What an acquire at scope `sc` on a core gains from the release whose value it reads (R251): both scopes hold both parties and the
location of the release; `covers` tells whether a scope around a core holds that location. -/
def gainedWhere (s : State) (covers : Scope → Nat → Bool) (sc : Scope) (core : Nat) : Option Rel → Know
  | none => []
  | some r => if coversCore r.scope r.core core && coversCore sc r.core core && covers r.scope r.core && covers sc core then r.knows s else []

/-- What an acquire load gains from a release in memory (R251). -/
def gained (s : State) (sc : Scope) (core : Nat) (sp : Space) (a : Nat) (r : Option Rel) : Know :=
  gainedWhere s (fun x c => coversLoc s x c sp a) sc core r

/-- What an acquire gains from a release of a trigger counter of a tile (R246, R251). -/
def gainedCounter (s : State) (sc : Scope) (core tile : Nat) (r : Option Rel) : Know :=
  gainedWhere s (fun x c => coversCore x (8 * tile) c && x.code ≥ Scope.tile.code) sc core r

/-- What an acquire gains from a release of an entry of a die's future table (R246, R251). -/
def gainedFuture (s : State) (sc : Scope) (core die : Nat) (r : Option Rel) : Know :=
  gainedWhere s (fun x c => decide (Scope.device.code ≤ x.code) || (x == .die && dieOf c == die)) sc core r

/-- The knowledge an engine edge carries on every path (R252). -/
def Know.allPaths (k : Know) : Know := k.map (fun e => (e.1, 127))

/-- The writes made from a number on, binding on every path (R252). -/
def State.madeSince (s : State) (serial : Nat) : Know := ((s.writes.filter (fun w => decide (serial ≤ w.id))).map (fun w => (w.id, 127))).dedup

/-- A write is one of a job's: of its tasks and requests, or into its memories (R252). -/
def ofJob (s : State) (job : Nat) (w : WRec) : Bool :=
  match s.parties.get? w.task with
  | some p => p.2 == job
  | none => match w.space with
    | .loc => w.addr / 65536 / 16384 == job
    | .scratch => w.addr / 1048576 / 2048 == job
    | _ => false

/-- Every write of a job so far, binding on every path (R252: the quiescence trap, a launch's release). -/
def State.jobKnown (s : State) (job : Nat) : Know := ((s.writes.filter (ofJob s job)).map (fun w => (w.id, 127))).dedup

/-! ## Accesses and their acknowledgement (R248) -/

/-- The limit of a count (R248). -/
def countLimit : Nat := 4095

/-- A task's count at a scope: its accesses not yet acknowledged whose smallest scope lies at or below it. -/
def State.count (s : State) (task : Nat) (sc : Scope) : Nat :=
  (s.accs.filter (fun a => a.task == task && decide (a.scope.code ≤ sc.code))).length

/-- No further access of a task may join at a scope (R248). -/
def State.countFull (s : State) (task : Nat) (sc : Scope) : Bool :=
  [Scope.tile, .die, .device, .system].any
    (fun t => decide (sc.code ≤ t.code) && decide (countLimit ≤ s.count task t))

/-- A new access at given locations; its number is the serial. -/
def State.newAccAt (s : State) (task : Nat) (sc : Scope) (path : Path) (ranges : List (Space × Nat × Nat)) : State :=
  { s with accs := s.accs ++ [(⟨s.serial, task, sc, path, false, ranges, false⟩ : Acc)], serial := s.serial + 1 }

/-- A new access; its number is the serial. -/
def State.newAcc (s : State) (task : Nat) (sc : Scope) (path : Path) (localVec : Bool) : State :=
  { s with accs := s.accs ++ [(⟨s.serial, task, sc, path, localVec, [], false⟩ : Acc)], serial := s.serial + 1 }

/-- Two sets of locations meet. -/
def rangesMeet (a b : List (Space × Nat × Nat)) : Bool :=
  a.any (fun x => b.any (fun y => x.1 == y.1 && decide (x.2.1 < y.2.2 ∧ y.2.1 < x.2.2)))

/-- The accesses of a task on a path that a later one at given locations stays behind (R247). -/
def State.overlapping (s : State) (task : Nat) (path : Path) (ranges : List (Space × Nat × Nat)) : List Nat :=
  (s.accs.filter (fun a => a.task == task && a.path == path && !a.performed && rangesMeet a.ranges ranges)).map (·.id)

/-- Marks an access performed; ACCESS_ACK then acknowledges it. -/
def State.performAcc (s : State) (id : Nat) : State :=
  { s with accs := replaceIf (fun a => a.id == id) (fun a => { a with performed := true }) s.accs }

/-- The accesses of a task that a release at a scope waits for (R248): at core scope the outstanding vector accesses to
local memory, which every wider release waits for too. -/
def State.releaseWaits (s : State) (task : Nat) (sc : Scope) : List Nat :=
  (s.accs.filter (fun a => a.task == task && sc != .task
    && (a.localVec || decide (a.scope.code ≤ sc.code)))).map (·.id)

/-- Some of the accesses named is not yet acknowledged. -/
def State.anyWaiting (s : State) (ids : List Nat) : Bool := s.accs.any (fun a => ids.contains a.id)

end Sys2Proof.Machine
end

