-- ==== Sys2Proof/Machine/Net.lean ====
section
/-! DEFINITION. What units put into the mesh: packets, pods and messages; the places of the nodes (R9, R10, R230), the
message header (R138) and the job context's derived numbers (R278, R279). -/

namespace Sys2Proof.Machine

/-! ## Places -/

/-- A tile's number is x + 128 y for its coordinates (x, y) (R9). -/
def tileX (tile : Nat) : Nat := tile % 128

/-- The row of a tile. -/
def tileY (tile : Nat) : Nat := tile / 128

/-- The die of a tile (R9). -/
def tileDie (tile : Nat) : Nat := tileX tile / 16

/-- The physical column of a tile column x: the x-th enabled one from the west (R230). -/
def physCol (x : Nat) : Nat :=
  let d := x / 16
  let i := x % 16
  17 * d + (if i < (Config.disabledColumn d).val then i else i + 1)

/-- The column slice of a tile (R230): its die and the slice's number on that die. -/
def columnSlice (tile : Nat) : Nat × Nat :=
  let i := physCol (tileX tile) % 17
  let n := if i = 16 then 15 else i
  (tileDie tile, if tileY tile < 8 then n else 16 + n)

/-- Where an endpoint joins the mesh (R233): physical column and row. -/
def Endpoint.attach : Endpoint → Nat × Nat
  | .ni t => (physCol (tileX t), tileY t)
  | .slice d n => if n < 16 then (17 * d + n, 0) else (17 * d + (n - 16), 15)
  | .unit d => (17 * d + 8, 0)
  | .west row => (0, row)
  | .east row => (135, row)

/-- The row of an endpoint, by which a packet to an I/O die leaves (R233). -/
def Endpoint.row (e : Endpoint) : Nat := e.attach.2

/-- The core of a context's key. -/
def coreOf (ctx : Nat) : Nat := ctx / 10

/-- The tile of a core's number. -/
def tileOf (core : Nat) : Nat := core / 8

/-! ## Counters of the model -/

/-- Advances the counter that names things. -/
def State.bump (s : State) : State := { s with serial := s.serial + 1 }

/-! ## The message header (R138) -/

/-- VCORE -/
def hdrVcore (h : Word) : Nat := fieldOf h.toNat 0 14
/-- MODE -/
def hdrMode (h : Word) : Nat := fieldOf h.toNat 14 2
/-- CLASS -/
def hdrClass (h : Word) : Nat := fieldOf h.toNat 16 8
/-- PRIO -/
def hdrPrio (h : Word) : Nat := fieldOf h.toNat 24 2
/-- LEN -/
def hdrLen (h : Word) : Nat := fieldOf h.toNat 26 4
/-- KIND -/
def hdrKind (h : Word) : Nat := fieldOf h.toNat 30 2
/-- WEIGHT -/
def hdrWeight (h : Word) : Nat := fieldOf h.toNat 32 32

/-- A header from its fields (R138). -/
def mkHdr (vcore mode cls prio len kind weight : Nat) : Word :=
  BitVec.ofNat 64 (vcore % 16384 + 16384 * (mode % 4) + 65536 * (cls % 256) + 16777216 * (prio % 4)
    + 67108864 * (len % 16) + 1073741824 * (kind % 4) + 4294967296 * (weight % 4294967296))

/-- The header with another VCORE (R143). -/
def hdrSetVcore (h : Word) (v : Nat) : Word := BitVec.ofNat 64 (h.toNat / 16384 * 16384 + v % 16384)

/-- The header with another WEIGHT. -/
def hdrSetWeight (h : Word) (w : Nat) : Word := BitVec.ofNat 64 (h.toNat % 4294967296 + 4294967296 * (w % 4294967296))

/-! ## Job contexts -/

/-- Word n of the launch record (R278). -/
def Job.word (j : Job) (n : Nat) : Nat := (j.words.getD n 0).toNat

/-- W of the context on this device (R257). -/
def Job.w (j : Job) : Nat := 2 ^ j.wtotal

/-- QUOTA (R278). -/
def Job.quota (j : Job) : Nat := let q := fieldOf (j.word 0) 40 8; if q = 0 then 232 else q

/-- LSIZE (R278). -/
def Job.lsize (j : Job) : Nat := let q := fieldOf (j.word 0) 48 5; if q = 0 then 16 else q

/-- TBANKS (R278). -/
def Job.tbanks (j : Job) : Nat := let q := fieldOf (j.word 0) 53 5; if q = 0 then 16 else q

/-- SHARE (R278). -/
def Job.share (j : Job) : Nat := let q := fieldOf (j.word 0) 58 6; if q = 0 then 32 else q

/-- PTROOT (R278). -/
def Job.ptroot (j : Job) : Nat := j.word 1

/-- RANK (R278). -/
def Job.rank (j : Job) : Nat := fieldOf (j.word 10) 16 12

/-- Bytes of local memory a core gives the job (R284). -/
def Job.localLimit (j : Job) : Nat := 4096 * j.lsize

/-- Bytes of scratchpad a tile gives the job (R284). -/
def Job.tileLimit (j : Job) : Nat := 65536 * j.tbanks

/-- A valid routine-table entry of a class (R140). -/
def Job.routine? (j : Job) (cls : Nat) : Option (Word × Word) :=
  match j.rtab[cls]? with
  | some e => if e.1.toNat.testBit 63 then some e else none
  | none => none

/-- CODE of an entry. -/
def rtCode (e : Word × Word) : Nat := fieldOf e.1.toNat 0 17
/-- VREGS of an entry. -/
def rtVregs (e : Word × Word) : Nat := fieldOf e.1.toNat 17 6
/-- REPLAY of an entry. -/
def rtReplay (e : Word × Word) : Bool := e.1.toNat.testBit 23
/-- PRECISE of an entry. -/
def rtPrecise (e : Word × Word) : Bool := e.1.toNat.testBit 24
/-- BUDGET of an entry. -/
def rtBudget (e : Word × Word) : Nat := fieldOf e.1.toNat 32 24
/-- OVRMASK of an entry. -/
def rtOvrMask (e : Word × Word) : Nat := fieldOf e.2.toNat 0 32
/-- OVRIDX of an entry. -/
def rtOvrIdx (e : Word × Word) : Nat := fieldOf e.2.toNat 32 16

/-- A virtual core of the job (R138). -/
def Job.hasVcore (j : Job) (v : Nat) : Bool := decide (v < 8 * j.vtiles)

/-- The physical tile of a virtual tile. -/
def Job.tile (j : Job) (vt : Nat) : Nat := j.place.getD vt 0

/-- The physical core of a virtual core. -/
def Job.core (j : Job) (v : Nat) : Nat := 8 * j.tile (v / 8) + v % 8

/-- The job context of a number. -/
def State.job? (s : State) (j : Nat) : Option Job := s.jobs.get? j

/-- The number that stands for a saved context in place of a JOBID: 2²⁰ and its tag. -/
def savedJob (jtag : Nat) : Nat := 2 ^ 20 + jtag

/-- The saved context that holds a tag (R356, R359). -/
def State.savedTag (s : State) (jtag : Nat) : Option Saved := s.saved.find? (fun x => x.job.tvalid && x.job.jtag == jtag)

/-- The context through whose page tables an access goes: a saved one too (R356). -/
def State.context? (s : State) (n : Nat) : Option Job :=
  if n < 2 ^ 20 then s.job? n else (s.savedTag (n - 2 ^ 20)).map (fun x => x.job)

/-- Replaces a job context. -/
def State.setJob (s : State) (n : Nat) (j : Job) : State := { s with jobs := s.jobs.set n j }

/-- Changes a job context where it exists. -/
def State.updJob (s : State) (n : Nat) (f : Job → Job) : State :=
  match s.job? n with
  | some j => s.setJob n (f j)
  | none => s

/-- The home of a job: the context unit of its die (R14, R233). -/
def State.home (s : State) (job : Nat) : Endpoint :=
  match s.job? job with
  | some j => .unit j.die
  | none => .unit 0

/-- The core of a number. -/
def State.core (s : State) (c : Nat) : Core := s.cores.getD c Core.fresh

/-- Changes a core. -/
def State.updCore (s : State) (c : Nat) (f : Core → Core) : State := { s with cores := s.cores.set c (f (s.core c)) }

/-- The tile of a number. -/
def State.tile (s : State) (t : Nat) : Tile := s.tiles.getD t Tile.fresh

/-- Changes a tile. -/
def State.updTile (s : State) (t : Nat) (f : Tile → Tile) : State := { s with tiles := s.tiles.set t (f (s.tile t)) }

/-! ## Packets -/

/-- The flits of a message packet (R231). -/
def msgFlits (len : Nat) : Nat := (16 + 8 * len + 31) / 32

/-- Puts a packet into its source's injection queue; its number is the serial, and a later one once it is injected, so that numbers
in the mesh rise in the order of injection. -/
def State.post (s : State) (cls : Class) (src dst : Endpoint) (job flits queue : Nat) (waits : List Nat) (b : Body) :
    State :=
  { s with
    packets := s.packets ++ [(⟨s.serial, cls, src, dst, .source, s.clk, flits, queue, waits, job, 0, b⟩ : Packet)]
    serial := s.serial + 1 }

/-- The packet of a number. -/
def State.packet? (s : State) (id : Nat) : Option Packet := s.packets.find? (fun p => p.id == id)

/-- Changes a packet. -/
def State.updPacket (s : State) (id : Nat) (f : Packet → Packet) : State :=
  { s with packets := replaceIf (fun p => p.id == id) f s.packets }

/-- Takes a packet out of the mesh. -/
def State.dropPacket (s : State) (id : Nat) : State := { s with packets := s.packets.filter (fun p => p.id != id) }

/-- The request of a number. -/
def State.req? (s : State) (id : Nat) : Option Req := s.reqs.find? (fun r => r.id == id)

/-- A packet that its destination has taken in and keeps: a refusal that counts its delay (R381), a request in the input queue of an engine
(R326), or a `wloss` that waits for the end of a census (R274). -/
def State.kept (s : State) (p : Packet) : Bool :=
  p.pos == .dest && decide (p.ready ≤ s.clk) && (match p.body with
    | .parkRefused _ => true
    | .access a => a.pa != 2 ^ 52 && (a.dev.isSome || (match a.kind with
      | .near _ _ => true
      | _ => false))
    | .arriveRefused _ _ _ _ _ _ => true
    | .turnedAway _ _ => true
    | .request id => match s.req? id with
      | some r => r.kind == .wloss
      | none => false
    | _ => false)

/-- A packet that has reached its destination and that no earlier packet of its class, source and destination precedes
(R236). -/
def State.arrived? (s : State) (id : Nat) : Option Packet :=
  match s.packet? id with
  | some p =>
    if p.pos == .dest && decide (p.ready ≤ s.clk)
        && !(s.packets.any (fun q => decide (q.id < p.id) && q.cls == p.cls && q.src == p.src && q.dst == p.dst
          && q.pos != .source && !s.kept q))
    then some p else none
  | none => none

/-- The entry of an NI request queue that a packet keeps: the pieces of one request keep one entry (R182). -/
def niEntry (p : Packet) : Nat :=
  match p.body with
  | .access a => if a.req = 0 then p.id else a.req
  | _ => p.id

/-- The entries taken in a core's NI request queue: those of packets still in their source, and those whose flits are on their way out
(R182). -/
def State.niEntries (s : State) (core : Nat) : List Nat :=
  ((s.packets.filter (fun p => p.queue == core + 1 && p.pos == .source)).map niEntry
    ++ ((s.core core).leaving.filter (fun e => decide (s.clk < e.2))).map (·.1)).dedup

/-- A core's NI request queue of 16 is full (R182). -/
def State.niFull (s : State) (core : Nat) : Bool := decide (16 ≤ (s.niEntries core).length)

/-- The entry of a packet that enters the mesh now frees in the clk after its last flit has left (R182). -/
def State.leaveQueue (s : State) (p : Packet) : State :=
  if p.queue = 0 then s
  else s.updCore (p.queue - 1) (fun c => { c with
    leaving := c.leaving.filter (fun e => decide (s.clk < e.2)) ++ [(niEntry p, s.clk + p.flits)] })

/-! ## Pods (R239, R262) -/

/-- Sends a pod home. A node that has sent its census marker keeps the pod until the census ends (R267). -/
def State.pod (s : State) (src : Endpoint) (job weight : Nat) (lost killed : Bool) : State :=
  if weight = 0 then s
  else
    match s.job? job with
    | some j =>
      match j.census with
      | some c =>
        if c.sent.contains src then
          s.setJob job { j with census := some { c with heldPods := c.heldPods ++ [(weight, lost, killed)] } }
        else s.post .weight src (.unit j.die) job 1 0 [] (.pod job weight lost killed)
      | none => s.post .weight src (.unit j.die) job 1 0 [] (.pod job weight lost killed)
    | none => s

/-! ## Messages -/

/-- The tile a message is sent toward: that of VCORE (R143); mode 2 is placed by `nearTile`. -/
def msgTile (j : Job) (m : Msg) : Nat := j.tile (hdrVcore m.hdr / 8)

/-- Puts a message on its way from a unit that keeps it until it is accepted or spilled (R149). `dst` is the tile
chosen for this attempt, `queue` the core + 1 whose NI request queue holds it. -/
def State.sendOut (s : State) (o : OutMsg) (dst : Endpoint) : State :=
  let id := s.serial
  let cls := if hdrKind o.msg.hdr = 3 then Class.management else .request
  let s1 := { s with
    outs := s.outs ++ [({ o with id := id, last := hdrVcore o.msg.hdr } : OutMsg)]
    serial := id + 1 }
  s1.post cls o.src dst o.msg.job (msgFlits (hdrLen o.msg.hdr)) o.core o.waits (.message id)

/-- A message of a unit, with nothing to wait for and no order to keep. -/
def State.sendMsg (s : State) (m : Msg) (src dst : Endpoint) (post : Nat) : State :=
  s.sendOut ⟨0, m, src, 0, .flying, 0, 0, 0, none, [], 0, 0, 0, 0, post, 0, []⟩ dst

/-- The message of a number that its sender still keeps. -/
def State.out? (s : State) (id : Nat) : Option OutMsg := s.outs.find? (fun o => o.id == id)

/-- Changes a message its sender keeps. -/
def State.updOut (s : State) (id : Nat) (f : OutMsg → OutMsg) : State :=
  { s with outs := replaceIf (fun o => o.id == id) f s.outs }

/-- Forgets a message that has settled. -/
def State.dropOut (s : State) (id : Nat) : State := { s with outs := s.outs.filter (fun o => o.id != id) }

/-- Changes a request. -/
def State.updReq (s : State) (id : Nat) (f : Req → Req) : State :=
  { s with reqs := replaceIf (fun r => r.id == id) f s.reqs }

/-- Forgets a request that has completed. -/
def State.dropReq (s : State) (id : Nat) : State := { s with reqs := s.reqs.filter (fun r => r.id != id) }

/-! ## What the home sends and draws (R263) -/

/-- The pending-draw queue holds 256 entries (R263). -/
def drawLimit : Nat := 256

/-- Appends a draw of the home's own behind those waiting; where the queue is full the home holds it (R263). -/
def State.ownDraw (s : State) (job : Nat) (m : Msg) (units : Nat) : State :=
  s.updJob job (fun j =>
    let d : Draw := ⟨m, units, 0, 0, none⟩
    if j.drawq.length < drawLimit && j.ownDraws.isEmpty then { j with drawq := j.drawq ++ [d] }
    else { j with ownDraws := j.ownDraws ++ [d] })

/-- A message of hardware that carries `u` units; with none, one unit is drawn from HOMEW (R340, R341). -/
def State.sendOrDraw (s : State) (job : Nat) (m : Msg) (u : Nat) : State :=
  match s.job? job with
  | none => s
  | some j =>
    if u = 0 then s.ownDraw job m 1
    else s.sendMsg { m with hdr := hdrSetWeight m.hdr u } (.unit j.die) (.ni (msgTile j m)) 0

/-! ## Completion (R178, R180) -/

/-- VCORE, MODE, CLASS and PRIO of a completion word are its low 26 bits (R178). -/
def cmNoMsg (c : Cmsg) : Bool := c.word.toNat.testBit 26
/-- ACQ -/
def cmAcq (c : Cmsg) : Bool := c.word.toNat.testBit 27
/-- REL -/
def cmRel (c : Cmsg) : Bool := c.word.toNat.testBit 28
/-- SCOPE -/
def cmScope (c : Cmsg) : Scope := scopeOf (fieldOf c.word.toNat 29 3)

/-- A status word (R181). -/
def statusWord (code flags count : Nat) : Word :=
  BitVec.ofNat 64 (code % 256 + 256 * (flags % 8) + 65536 * (count % 4294967296))

/-- A rise of a DONE counter once a posted operation has completed (R220): `post` is 1 + tile * 64 + counter,
0 for an operation of a task, and more than 2¹⁷ for a posted one that raises none. -/
def State.doneRise (s : State) (post job : Nat) (know : Know) : State :=
  if post = 0 ∨ 2 ^ 17 < post then s
  else
    let t := (post - 1) / 64
    s.updTile t (fun x => { x with rises := x.rises ++ [(⟨job, (post - 1) % 64, 1, know, s.clk, 0, none, [], none⟩ : Rise)] })

/-- Completes: a completion message with the status word, TAG and the results, or its weight home as a pod (R178,
R180). `acq` says that the start of its task is an acquire, with `know` then bound on every path (R252). -/
def State.complete (s : State) (src : Endpoint) (job vcore v : Nat) (cm : Cmsg) (status : Word) (results : List Word)
    (acq : Bool) (know : Know) (post : Nat) : State :=
  if cmNoMsg cm then (s.pod src job v false false).doneRise post job know.allPaths
  else
    match s.job? job with
    | none => s
    | some j =>
      let len := 2 + results.length
      let hdr := BitVec.ofNat 64 (fieldOf cm.word.toNat 0 26 + 67108864 * len + 4294967296 * v)
      let m : Msg := ⟨job, hdr, status :: cm.tag :: results, 0, vcore, s.devid, false, 0,
        (if acq then some ⟨.system, 0, know.allPaths, []⟩ else none), 0⟩
      s.sendOut ⟨0, m, src, 0, .flying, 0, 0, 0, none, [], 0, 0, 0, 0, post, 0, know.allPaths⟩ (.ni (msgTile j m))

end Sys2Proof.Machine
end

