-- ==== Sys2Proof/Machine/Pages.lean ====
section
/-! DEFINITION. The page tables (R294 to R296), the units that serve a physical address (R293), and accesses of a job's pinned
areas by hardware. -/

namespace Sys2Proof.Machine

/-- Which memory a physical address selects (R293): HBM within a stack's 96 GiB, or host memory. -/
def physSpace (pa : Nat) : Option (Space × Nat) :=
  if pa.testBit 51 then some (.host, pa % 2 ^ 51)
  else if pa < 2 ^ 41 ∧ pa % 2 ^ 37 < 96 * 2 ^ 30 then some (.hbm, pa)
  else none

/-- The slice that serves a byte of HBM stack `stack` whose address bits [11:8] are `granule` (R293). -/
def stackSlice (stack granule : Nat) : Endpoint :=
  .slice (stack / 2) (granule + if stack % 2 = 0 then 0 else 16)

/-- The unit that serves a physical address: a slice, or for host memory the endpoint of the west I/O die reached by a
row (R233, R293). -/
def servingUnit (pa row : Nat) : Endpoint :=
  if pa.testBit 51 then .west row else stackSlice (fieldOf pa 37 4) (fieldOf pa 8 4)

/-! ## Entries (R295) -/

/-- P -/
def pteP (e : Nat) : Bool := e.testBit 0
/-- W -/
def pteW (e : Nat) : Bool := e.testBit 1
/-- PIN -/
def ptePin (e : Nat) : Bool := e.testBit 2
/-- SB -/
def pteSb (e : Nat) : Bool := e.testBit 3
/-- LEAF -/
def pteLeaf (e : Nat) : Bool := e.testBit 4
/-- D -/
def pteD (e : Nat) : Bool := e.testBit 5
/-- BUSY -/
def pteBusy (e : Nat) : Bool := e.testBit 7
/-- HSTK -/
def pteHstk (e : Nat) : Nat := fieldOf e 8 4
/-- ACNT -/
def pteAcnt (e : Nat) : Nat := fieldOf e 12 4
/-- FRAME as an address -/
def pteFrame (e : Nat) : Nat := fieldOf e 16 36 * 65536
/-- PORT of a locator -/
def locPort (e : Nat) : Nat := fieldOf e 5 3
/-- NS of a locator -/
def locNs (e : Nat) : Nat := fieldOf e 12 4
/-- LBA of a locator -/
def locLba (e : Nat) : Nat := fieldOf e 16 36
/-- NBLK of a locator -/
def locNblk (e : Nat) : Nat := fieldOf e 52 12

/-- An entry with a field of n bits at `lo` replaced. -/
def putField (e lo n v : Nat) : Nat := e / 2 ^ (lo + n) * 2 ^ (lo + n) + v % 2 ^ n * 2 ^ lo + e % 2 ^ lo

/-- What a walk ends on. -/
inductive Walked where
  /-- a present leaf: the physical address, the entry, the entry's address and log2 of the page size -/
  | page (pa e addr bits : Nat)
  /-- a locator: the entry, its address and log2 of the page size -/
  | locator (e addr bits : Nat)
  | nomap
  | badcmd
  deriving DecidableEq, Repr, Inhabited

/-- The levels of R294: the lowest index bit, the number of index bits, and log2 of the alignment of the next table. -/
def pageLevels : List (Nat × Nat × Nat) := [(40, 12, 14), (29, 11, 11), (21, 8, 8), (16, 5, 0)]

/-- A page entry that breaks R295 or R296. -/
def badLeaf (e lo : Nat) : Bool :=
  lo == 40 || e.testBit 6 || decide (2 ^ 52 ≤ e) || pteFrame e % 2 ^ lo != 0 || (pteSb e && (pteFrame e).testBit 51)

/-- A table entry that breaks R294 to R296. -/
def badTable (e align : Nat) : Bool :=
  e &&& 0xEE != 0 || decide (2 ^ 52 ≤ e) || (fieldOf e 8 44 * 256) % 2 ^ align != 0
    || !(match physSpace (fieldOf e 8 44 * 256) with | some (.hbm, _) => true | _ => false)

/-- A locator that breaks R295 or R296. -/
def badLocator (e lo : Nat) : Bool := lo == 40 || !pteLeaf e || locNs e == 0 || decide (2 ^ (lo - 12) < locNblk e)

/-- Walks from a table down the levels that are left. -/
def walkFrom (mem : Memory) (va : Nat) : List (Nat × Nat × Nat) → Nat → Walked
  | [], _ => .badcmd
  | (lo, n, align) :: rest, table =>
    let addr := table + 8 * fieldOf va lo n
    let e := leNat (mem.read addr 8)
    if !pteP e then
      if !pteSb e then .nomap else if badLocator e lo then .badcmd else .locator e addr lo
    else if pteLeaf e then
      if badLeaf e lo then .badcmd
      else
        let pa := pteFrame e + va % 2 ^ lo
        match physSpace pa with
        | some _ => .page pa e addr lo
        | none => .nomap
    else if rest.isEmpty || badTable e align then .badcmd
    else walkFrom mem va rest (fieldOf e 8 44 * 256)

/-- The walk of a global address from a job's PTROOT (R292, R294). -/
def State.walk (s : State) (root va : Nat) : Walked :=
  if 2 ^ 52 ≤ va then .nomap else walkFrom s.hbm va pageLevels root

/-- A present page's physical address, its entry, the entry's address and log2 of its size. -/
def State.lookup (s : State) (root va : Nat) : Option (Nat × Nat × Nat × Nat) :=
  match s.walk root va with
  | .page pa e addr bits => some (pa, e, addr, bits)
  | _ => none

/-- A range of bytes of a job lies on present pages whose entries pass a test; `n` counts 64 KiB steps still to look at. -/
def State.pagesOk (s : State) (ok : Nat → Bool) (root va len : Nat) : Nat → Bool
  | 0 => true
  | n + 1 =>
    if len = 0 then true
    else
      match s.lookup root va with
      | some (_, e, _, _) =>
        let step := 65536 - va % 65536
        ok e && s.pagesOk ok root (va + step) (len - step) n
      | none => false

/-- A range of bytes of a job lies on present and pinned pages; `n` counts 64 KiB steps. -/
def State.pinned (s : State) (root va len n : Nat) : Bool := s.pagesOk ptePin root va len n

/-- Sets D of an entry before a write through it (R297). -/
def State.markDirty (s : State) (addr e : Nat) : State :=
  if pteD e then s else s.writeBytes .hbm addr (bytesOfNat (putField e 5 1 1) 8) .stor 0 0 none

/-- A unit of the device writes bytes of one page at a virtual address of a job, where the page is present; one that is not writable
stays as it is (R296; log 56: DESIGN CHOICE, as such a write has no status). -/
def State.ownWrite (s : State) (pt va : Nat) (path : Path) (rel : Option Rel) (bs : List Byte) : State :=
  match s.lookup pt va with
  | some (pa, e, addr, _) => match physSpace pa with
    | some (sp, a) => if pteW e then (s.markDirty addr e).writeBytes sp a bs path 0 0 rel else s
    | none => s
  | none => s

/-- A unit of the device writes words at a virtual address of a job, one after another. -/
def State.writeVirt (s : State) (pt va : Nat) (path : Path) : List Word → State
  | [] => s
  | w :: t => (s.ownWrite pt va path none (wordBytes w)).writeVirt pt (va + 8) path t

/-- Reads bytes at a virtual address of a job; none where a page is missing. `n` counts the bytes. -/
def State.readVirt (s : State) (pt va : Nat) : Nat → Option (List Byte)
  | 0 => some []
  | n + 1 =>
    match s.lookup pt va, s.readVirt pt (va + 1) n with
    | some (pa, _), some l => match physSpace pa with
      | some (sp, a) => some ((s.mem sp).get a :: l)
      | none => none
    | _, _ => none

/-! ## Routes and times (R231, R232) -/

/-- A link or span between two physical columns crosses a die-to-die bridge. -/
def bridged (p q : Nat) : Bool := p / 17 != q / 17

/-- A class may use runner lanes (R234). -/
def runs (c : Class) : Bool := c != .reduction

/-- The next router of a route, and the clk of the link or span to it. -/
def nextHop (c : Class) (at_ dst : Nat × Nat) : (Nat × Nat) × Nat :=
  let along (q : Nat) (span : Bool) : (Nat × Nat) × Nat :=
    ((q, at_.2), (if span then 2 else 1) + if bridged at_.1 q then 2 else 0)
  if at_.1 + 4 ≤ dst.1 ∧ runs c then along (at_.1 + 4) true
  else if at_.1 < dst.1 then along (at_.1 + 1) false
  else if dst.1 + 4 ≤ at_.1 ∧ runs c then along (at_.1 - 4) true
  else if dst.1 < at_.1 then along (at_.1 - 1) false
  else if at_.2 < dst.2 then ((at_.1, at_.2 + 1), 1)
  else if dst.2 < at_.2 then ((at_.1, at_.2 - 1), 1)
  else (at_, 0)

/-- The link between an endpoint and the router it is attached to. -/
def edgeLink : Endpoint → Nat
  | .west _ => 3
  | .east _ => 3
  | .ni _ => 1
  | .slice _ _ => 1
  | .unit _ => 1

/-- Switching takes each router 2 clk. -/
def switchTime : Nat := 2

/-! ## Distances (R232) -/

/-- The router moves of a route between two attachment points: spans of four columns, then links. -/
def meshHops (a b : Nat × Nat) : Nat :=
  let dx := (a.1 - b.1) + (b.1 - a.1)
  let dy := (a.2 - b.2) + (b.2 - a.2)
  dx / 4 + dx % 4 + dy

end Sys2Proof.Machine
end

