-- ==== Sys2Proof/Machine/Ops.lean ====
section
/-! DEFINITION. The shared operations of an issuing context: its registers, its result history, how an instruction
retires, and taking a trap (chapters 2, 6 and 23). -/

namespace Sys2Proof.Machine

/-! ## The issuing context -/

/-- The context that issues; one that runs no task reads as idle. -/
def State.me (s : State) : Ctx := s.ctxs.getD s.cur Ctx.idle

/-- Replaces the issuing context. -/
def State.setMe (s : State) (c : Ctx) : State := { s with ctxs := s.ctxs.set s.cur c }

/-- Changes a context that runs a task. -/
def State.updCtx (s : State) (key : Nat) (f : Ctx → Ctx) : State :=
  match s.ctxs.get? key with
  | some c => { s with ctxs := s.ctxs.set key (f c) }
  | none => s

/-- The core that issues. -/
def State.myCore (s : State) : Nat := coreOf s.cur

/-- The tile that issues. -/
def State.myTile (s : State) : Nat := tileOf s.myCore

/-- The job context of the issuing task, where it stands on the device. -/
def State.myJob (s : State) : Option Job := s.job? s.me.job

/-- The reader the issuing task is on a path (R253). -/
def State.reader (s : State) (p : Path) : Reader := readerOf s p s.me.task s.me.know

/-! ## How an instruction goes on -/

/-- Where control goes when an instruction has had its effect (R99 to R105). -/
inductive Flow where
  /-- to the fall-through address, with the loop check of R104 -/
  | next
  /-- a taken transfer, which pops the loop entries it leaves (R105) -/
  | jump (t : Nat)
  /-- a `call`, which leaves the loop stack alone (R105) -/
  | callTo (t : Nat)
  /-- into the body of a loop that has just been pushed (R103) -/
  | enter (t : Nat)
  /-- past a loop whose count is 0, at the cost of a taken transfer (R103) -/
  | skip (t : Nat)
  deriving DecidableEq, Repr

/-- Why an instruction has no effect of its own now: it traps, or it is not eligible to issue in this clk (R30). -/
inductive Stop where
  | trap (t : Trap)
  | wait
  deriving DecidableEq, Repr

/-- What an instruction's own effect comes to. -/
abbrev Res := Except Stop (State × Flow)

/-- Raises a cause at issue (R332, ORIGIN 0). -/
def raise {α : Type} (c : Cause) (arg : Word) : Except Stop α := .error (.trap ⟨c, 0, 0, arg⟩)

/-- Goes on where a condition holds, else raises a cause with ARG 0. -/
def need (ok : Bool) (c : Cause) : Except Stop Unit := if ok then .ok () else raise c 0

/-- Goes on where a unit has room; else the context is not eligible (R30). -/
def ready (ok : Bool) : Except Stop Unit := if ok then .ok () else .error .wait

/-- Falls through with a new state. -/
def fall (s : State) : Res := .ok (s, .next)

/-! ## Reading names (R18) -/

/-- The values an early read of s-register n may return: those of the results still pending for it (R27). -/
def pendingS (c : Ctx) (n : Nat) : List Word :=
  c.pend.filterMap (fun p => match p.target with
    | .s m _ => if m.val = n then some (BitVec.ofNat 64 p.value) else none
    | _ => none)

/-- The values pending for history entry n (R24). -/
def pendingH (c : Ctx) (n : Nat) : List Word :=
  c.pend.filterMap (fun p => match p.target with
    | .s _ m => if m.val = n then some (BitVec.ofNat 64 p.value) else none
    | .h m => if m.val = n then some (BitVec.ofNat 64 p.value) else none
    | _ => none)

/-- The values pending for mask n. -/
def pendingK (c : Ctx) (n : Nat) : List MaskReg :=
  c.pend.filterMap (fun p => match p.target with
    | .k m => if m.val = n then some (BitVec.ofNat 1024 p.value) else none
    | _ => none)

/-- The ring place of the N-th most recent producer's entry, N from 1 (R24): `hptr` names the next one to be taken. -/
def histPlace (c : Ctx) (n : Nat) : Nat := (c.hptr.val + 8 - n) % 8

/-- An s-register as it is read at a place of an instruction (R27). -/
def readS (s : State) (place n : Nat) : Word :=
  let c := s.me
  choose s place (c.s.toList.getD n 0) (pendingS c n)

/-- A history entry d(n) as it is read (R24, R27). -/
def readH (s : State) (place n : Nat) : Word :=
  let c := s.me
  let p := histPlace c n
  choose s place (c.hist.toList.getD p 0) (pendingH c p)

/-- A mask as it is read: k0 reads all ones (R20). -/
def readK (s : State) (place n : Nat) : MaskReg :=
  if n = 0 then BitVec.allOnes 1024
  else
    let c := s.me
    choose s place (c.k.toList.getD n 0) (pendingK c n)

/-- A name that may stand as a source (R18). -/
def readable : Name → Bool
  | .h | .rsvd => false
  | .s _ | .m _ | .d _ | .z | .wt | .self | .job | .clk | .msg => true

/-- A name that may stand as a destination (R18). -/
def writable : Name → Bool
  | .s _ | .z | .h => true
  | .m _ | .d _ | .wt | .self | .job | .clk | .msg | .rsvd => false

/-- A name that may stand as a destination that is also read (R88). -/
def updatable : Name → Bool
  | .s _ | .z => true
  | .m _ | .d _ | .h | .wt | .self | .job | .clk | .msg | .rsvd => false

/-- The value of a name (R18, R88); a name that is no source reads 0, its check having raised ILLOPND. -/
def value (s : State) (place : Nat) (n : Name) : Word :=
  let c := s.me
  match n with
  | .s r => readS s place r.val
  | .m r => c.m.toList.getD r.val 0
  | .d r => readH s place (r.val + 1)
  | .z => 0
  | .h => 0
  | .wt => BitVec.ofNat 64 c.wt
  | .self => BitVec.ofNat 64 c.vcore
  | .job => BitVec.ofNat 64 c.job
  | .clk => BitVec.ofNat 64 (s.clk + (Config.clkSkew s.myCore).val)
  | .msg => c.msg
  | .rsvd => 0

/-- The number by which the soft errors of what a name reads are kept: 48 and the ring place of a history entry, else the name's
code. -/
def eccOfName (c : Ctx) : Name → Nat
  | .d n => 48 + histPlace c (n.val + 1)
  | n => n.code

/-- Reads a name; a value with an uncorrectable error faults ECCLOC with ARG the name and bit 61 (R331). -/
def rd (s : State) (place : Nat) (n : Name) : Except Stop Word :=
  if s.me.ecc.contains (eccOfName s.me n) then raise .eccloc (BitVec.ofNat 64 (2 ^ 61 + n.code))
  else .ok (value s place n)

/-- Reads a mask (R20); one with an uncorrectable error faults ECCLOC (R331). -/
def rdK (s : State) (place n : Nat) : Except Stop MaskReg :=
  if s.me.ecc.contains (64 + n) then raise .eccloc (BitVec.ofNat 64 (2 ^ 61 + 64 + n))
  else .ok (readK s place n)

/-- Every source named may stand as one (R18). -/
def srcs (l : List Name) : Except Stop Unit := need (l.all readable) .illopnd

/-- The destination named may stand as one (R18). -/
def dst (d : Name) : Except Stop Unit := need (writable d) .illopnd

/-! ## Writing results (R24 to R28, R88) -/

/-- Two results go to the same register. -/
def regClash (a b : Target) : Bool :=
  match a, b with
  | .s m _, .s n _ => m == n
  | .k m, .k n => m == n
  | .v m _ _, .v n _ _ => m == n
  | _, _ => false

/-- The history entry a result takes. -/
def entryOf : Target → Option (Fin 8)
  | .s _ e => some e
  | .h e => some e
  | _ => none

/-- The bits of a vector register that its elements of width `w` named by `m` cover. -/
def elemBits (w m : Nat) : Nat :=
  (List.range (4096 / w)).foldl (fun acc i => if m.testBit i then acc ||| (2 ^ w - 1) <<< (w * i) else acc) 0

/-- The places a result writes, each with the bits of it: s-register n has the number n, history entry p 48 + p, mask n 64 + n and
vector register n 128 + n. -/
def placesOf : Target → List (Nat × Nat)
  | .s n e => [(n.val, 1), (48 + e.val, 1)]
  | .h e => [(48 + e.val, 1)]
  | .k n => [(64 + n.val, 1)]
  | .v n w act => [(128 + n.val, elemBits w act)]

/-- The bits of a place among those named. -/
def bitsAt (l : List (Nat × Nat)) (k : Nat) : Nat := l.foldl (fun b e => if e.1 = k then b ||| e.2 else b) 0

/-- A fixed-latency result still pending where an outstanding operation writes its places: either value may stand (R28). -/
def Pending.against (p : Pending) (ps : List (Nat × Nat)) : Pending :=
  let hit (k : Nat) : Bool := ps.any (fun e => e.1 == k)
  match p.target with
  | .s n e => { p with raced := p.raced || hit n.val, racedH := p.racedH || hit (48 + e.val) }
  | .h e => { p with racedH := p.racedH || hit (48 + e.val) }
  | .k n => { p with raced := p.raced || hit (64 + n.val) }
  | .v n _ _ => { p with raced := p.raced || hit (128 + n.val) }

/-- Places of a context have been written by an outstanding operation, or with `op` 0 by a fixed-latency producer: what is still pending
for them with it may leave them as they are (R28). Two fixed-latency results land in their own order. -/
def State.landed (s : State) (key op : Nat) (ps : List (Nat × Nat)) : State :=
  let others (o : Op) : Bool := o.ctx == key && o.id != op && o.tgts.any (fun t => (placesOf t).any (fun e => ps.any (fun x => x.1 == e.1)))
  let s1 := if s.ops.any others then { s with ops := replaceIf others (fun o => { o with keeps := o.keeps ++ ps }) s.ops } else s
  if op = 0 then s1
  else
    match s1.ctxs.get? key with
    | some c => if c.pend.any (fun p => p.op == 0) then
        { s1 with ctxs := s1.ctxs.set key { c with pend := replaceIf (fun p => p.op == 0) (fun p => p.against ps) c.pend } } else s1
    | none => s1

/-- A pending fixed-latency result that lands no later than a write of the same register at clk `due` issued after it
leaves its register to that write and keeps its history entry (R28). -/
def Pending.overtaken (p : Pending) (t : Target) (due : Nat) : Pending :=
  if p.op = 0 ∧ p.due ≤ due then
    match p.target, t with
    | .s m e, .s n _ => if m = n then { p with target := .h e } else p
    | _, _ => p
  else p

/-- The elements of width `w` that the mask names are those of the new value, the others those of the old. -/
def mergeElems (w m : Nat) (old new : VReg) : VReg :=
  let bits := elemBits w m
  (new &&& BitVec.ofNat 4096 bits) ||| (old &&& ~~~ BitVec.ofNat 4096 bits)

/-- The bytes of a vector register whose errors a write of whole elements clears (R331). -/
def clearsByte (n w act code : Nat) : Bool :=
  if code < 128 + 512 * n ∨ 128 + 512 * n + 512 ≤ code then false
  else
    let b := code - 128 - 512 * n
    if w = 4 then act.testBit (2 * b) && act.testBit (2 * b + 1) else act.testBit (b / (w / 8))

/-- Writes a value to its place at once. -/
def Ctx.put (c : Ctx) (t : Target) (v : Nat) : Ctx :=
  match t with
  | .s n slot => { c with s := c.s.set n (BitVec.ofNat 64 v), hist := c.hist.set slot (BitVec.ofNat 64 v)
                          ecc := c.ecc.filter (fun e => e != n.val && e != 48 + slot.val) }
  | .h slot => { c with hist := c.hist.set slot (BitVec.ofNat 64 v), ecc := c.ecc.filter (· != 48 + slot.val) }
  | .k n => { c with k := c.k.set n (BitVec.ofNat 1024 v), ecc := c.ecc.filter (· != 64 + n.val) }
  | .v n w act =>
    let old := c.v.getD n.val 0
    { c with v := c.v.set n.val (mergeElems w act old (BitVec.ofNat 4096 v))
             ecc := c.ecc.filter (fun e => !clearsByte n.val w act e) }

/-- Takes the next history entry for a producer (R24). -/
def Ctx.takeEntry (c : Ctx) : Ctx := { c with hptr := c.hptr + 1 }

/-- The place a destination name writes, with the history entry the producer takes; none for z (R18). -/
def targetOf (c : Ctx) : Name → Option Target
  | .s n => some (.s n c.hptr)
  | .h => some (.h c.hptr)
  | _ => none

/-- Writes a result of fixed latency L through a destination name: it is readable from issue + L (R27). A result of
latency 1 is written at once, since no instruction of the context issues before it is readable. -/
def wr (s : State) (d : Name) (v : Word) (latency : Nat) : State :=
  let c := s.me
  match targetOf c d with
  | none => s
  | some t =>
    if latency ≤ 1 then
      (s.setMe ({ c with pend := c.pend.map (fun (p : Pending) => p.overtaken t (s.clk + latency)) }.takeEntry.put t v.toNat)).landed
        s.cur 0 (placesOf t)
    else s.setMe { c with pend := c.pend ++ [⟨s.clk + latency, t, v.toNat, 0, false, false⟩], hptr := c.hptr + 1 }

/-- Writes a mask with fixed latency 2 (R116, R136). -/
def wrK (s : State) (n : Fin 8) (v : MaskReg) : State :=
  let c := s.me
  s.setMe { c with pend := c.pend ++ [⟨s.clk + 2, .k n, v.toNat, 0, false, false⟩] }

/-- The places of a fixed-latency result that may stay as they are. -/
def Pending.keeps (p : Pending) : List (Nat × Nat) :=
  match p.target with
  | .s n e => (if p.raced then [(n.val, 1)] else []) ++ (if p.racedH then [(48 + e.val, 1)] else [])
  | .h e => if p.racedH then [(48 + e.val, 1)] else []
  | .k n => if p.raced then [(64 + n.val, 1)] else []
  | .v n w act => if p.raced then [(128 + n.val, elemBits w act)] else []

/-- A result lands: of what another write pending with it has written since (`keeps`), each element, register and history entry is one
of the two, chosen by itself (R28). -/
def landValue (s : State) (c : Ctx) (keeps : List (Nat × Nat)) (t : Target) (v place : Nat) : Ctx :=
  let stays (i : Nat) : Bool := Config.pick s.free (place * 1024 + i) % 2 == 0
  match t with
  | .v n w act =>
    let kept := bitsAt keeps (128 + n.val)
    if kept = 0 then c.put t v
    else
      let m := BitVec.ofNat 4096 (kept &&& elemBits w (act &&& (List.range (4096 / w)).foldl (fun acc i => if stays i then acc ||| 2 ^ i else acc) 0))
      c.put t ((BitVec.ofNat 4096 v &&& ~~~ m) ||| (c.v.getD n.val 0 &&& m)).toNat
  | .s n e =>
    let c1 := if bitsAt keeps (48 + e.val) ≠ 0 ∧ stays 0 then c else c.put (.h e) v
    if bitsAt keeps n.val ≠ 0 ∧ stays 1 then c1 else { c1 with s := c1.s.set n (BitVec.ofNat 64 v), ecc := c1.ecc.filter (· != n.val) }
  | .h e => if bitsAt keeps (48 + e.val) ≠ 0 ∧ stays 0 then c else c.put t v
  | .k n => if bitsAt keeps (64 + n.val) ≠ 0 ∧ stays 1 then c else c.put t v

/-- Results land one after another, in the order of the list (R28). -/
def settleList (s : State) : Nat → Ctx → List Pending → Ctx
  | _, c, [] => c
  | place, c, p :: t => settleList s (place + 1) (landValue s c p.keeps p.target p.value (1000 + place)) t

/-- Insertion into a list of pending results by the clk they land in. -/
def insertByDue (p : Pending) : List Pending → List Pending
  | [] => [p]
  | q :: t => if p.due < q.due then p :: q :: t else q :: insertByDue p t

/-- The results of fixed latency that have become readable are written (R27); those of outstanding operations are written
when the operation completes. -/
def Ctx.settle (s : State) (c : Ctx) : Ctx :=
  let due := c.pend.filter (fun p => p.op == 0 && decide (p.due ≤ s.clk))
  match due with
  | [] => c
  | _ =>
    let c' := settleList s 0 c (due.foldl (fun l p => insertByDue p l) [])
    { c' with pend := c.pend.filter (fun p => !(p.op == 0 && decide (p.due ≤ s.clk))) }

/-- What has become readable in a context is written; what an outstanding operation still writes to the same places races with it
(R27, R28). -/
def State.settleAt (s : State) (key : Nat) : State :=
  match s.ctxs.get? key with
  | some c =>
    let due := c.pend.filter (fun p => p.op == 0 && decide (p.due ≤ s.clk))
    match due with
    | [] => s
    | _ => ({ s with ctxs := s.ctxs.set key (c.settle s) }).landed key 0 (due.flatMap (fun (p : Pending) => placesOf p.target))
  | none => s

/-! ## Flags (R26) -/

/-- Sets bits of FFLAGS; flags are sticky. Those of a fixed-latency operation are set at its issue: R26 says only of an outstanding
operation when its flags are set (log 46: DESIGN CHOICE). -/
def setFlags (s : State) (bits : Nat) : State :=
  if bits = 0 then s else let c := s.me; s.setMe { c with fflags := c.fflags ||| BitVec.ofNat 64 bits }

/-- IV, DZ, OF, UF, NX, OV as bits of FFLAGS (R26). -/
def flagIV : Nat := 4
def flagDZ : Nat := 8
def flagOF : Nat := 16
def flagUF : Nat := 32
def flagNX : Nat := 64
def flagOV : Nat := 128

/-! ## Retiring -/

/-- The loop check of R104 at the fall-through address: the new stack and PC. -/
def loopCheck (f : Nat) : List Loop → List Loop × Nat
  | [] => ([], f)
  | t :: rest =>
    if f = t.stop then
      if 1 < t.count then ({ t with count := t.count - 1 } :: rest, t.start) else loopCheck f rest
    else (t :: rest, f)

/-- The entries a taken transfer leaves are popped (R105). -/
def loopPop (t : Nat) : List Loop → List Loop
  | [] => []
  | e :: rest => if e.start ≤ t ∧ t < e.stop then e :: rest else loopPop t rest

/-- A context that parks at an S marker is held until its outstanding operations have written (R30). The jump of a `loop` whose count is
0 is no instruction of R101 or R105 and no fall-through of R104: no check, step or pop is made at it (log 46: DESIGN CHOICE). -/
def Ctx.advance (c : Ctx) (clk len gap : Nat) (mark : Bool) (fl : Flow) : Ctx :=
  let fallPc := c.pc + len
  let base : Ctx := { c with
    limm := []
    segPc := if c.segOff = 0 then (if c.limm.isEmpty then c.pc else c.limmPc) else c.segPc
    segOff := if mark then 0 else c.segOff + 1
    parked := mark }
  match fl with
  | .next => let r := loopCheck fallPc c.loops
             { base with pc := r.2, loops := r.1, ready := clk + 1 + gap }
  | .jump t => { base with pc := t, loops := loopPop t c.loops, ready := clk + 2 + gap }
  | .callTo t => { base with pc := t, ready := clk + 2 + gap }
  | .enter t => { base with pc := t, ready := clk + 1 + gap }
  | .skip t => { base with pc := t, ready := clk + 2 + gap }

/-- The state after an instruction of a length, gap and marker has had its effect; one that has ended its own task has no context to
advance. The choices of the next instruction are new ones. -/
def State.retire (s : State) (len gap : Nat) (mark : Bool) (fl : Flow) : State :=
  { s with
    ctxs := match s.ctxs.get? s.cur with
      | some c => s.ctxs.set s.cur (c.advance s.clk len gap mark fl)
      | none => s.ctxs
    free := s.free + 1
    limmOpen := none }

/-! ## Ending a task (R31, R337) -/

/-- Whether operations of a context are still in flight. -/
def Ctx.busy (c : Ctx) : Bool := !c.outs.isEmpty

/-- The records of the tasks without that of a task whose hold is closed (R177). -/
def State.dropTask (s : State) (task : Nat) : Map TaskRec :=
  match s.tasks.get? task with
  | some r => if r.holds = 0 then s.tasks.del task else s.tasks
  | none => s.tasks

/-- The context of a task whose trap or unit ends it (R337): it issues nothing more, and is freed when its outstanding
operations have written; their results are discarded. -/
def State.endTask (s : State) (key : Nat) : State :=
  match s.ctxs.get? key with
  | none => s
  | some c =>
    let s := { s with
      limmOpen := if s.limmOpen = some key then none else s.limmOpen
      tasks := s.dropTask c.task }
    if c.busy then { s with ctxs := s.ctxs.set key { c with dying := true, wt := 0, limm := [] } }
    else { s with ctxs := s.ctxs.del key }

/-! ## Units of the hierarchy (R279, R345) -/

/-- COUNT, DOMAIN, POLICY and RESTART of the levels of a job (R279). -/
structure Level where
  count : Nat
  domain : Nat
  policy : Nat
  restart : Bool
  deriving DecidableEq, Repr, Inhabited

/-- The levels a record uses, top first. -/
def levelsOf (words : List Word) : List Level :=
  let n := fieldOf (words.getD 0 0).toNat 29 3 + 1
  ((words.drop 32).take n).map (fun w => ⟨fieldOf w.toNat 0 16, fieldOf w.toNat 16 3, fieldOf w.toNat 22 2, w.toNat.testBit 24⟩)

/-- The product of the counts of levels. -/
def countProduct (ls : List Level) : Nat := (ls.map (·.count)).foldl (· * ·) 1

/-- The unit of a level that holds a virtual core, numbered over the whole job; none for a core outside every unit of a
core-domain level (R279). -/
def unitOf (ls : List Level) (rank vtiles l vcore : Nat) : Option Nat :=
  let tiles := ls.filter (fun x => decide (x.domain ≤ 3))
  let cores := ls.filter (fun x => decide (4 ≤ x.domain))
  let t := rank * vtiles + vcore / 8
  let c := vcore % 8
  if l < tiles.length then some (t / countProduct (tiles.drop (l + 1)))
  else
    let p := countProduct cores
    if c < p then
      let below := countProduct (cores.drop (l - tiles.length + 1))
      some ((t * p + c) / below)
    else none

/-- Whether a virtual core lies in a unit of a level. -/
def inUnit (j : Job) (l u vcore : Nat) : Bool := unitOf (levelsOf j.words) j.rank j.vtiles l vcore == some u

/-- Whether a virtual core lies in a unit that is being discarded (R346). -/
def Job.discards (j : Job) (vcore : Nat) : Bool := j.discarding.any (fun d => inUnit j d.1 d.2 vcore)

/-- Level 8 stands for the whole job: killing it discards every unit (R348). -/
def inDiscard (j : Job) (d : Nat × Nat) (vcore : Nat) : Bool := d.1 == 8 || inUnit j d.1 d.2 vcore

/-! ## Containment (R345 to R348) -/

/-- Ends the tasks of a job in a unit, their weight returning KILLED (R346). -/
def killTasks (job : Nat) (j : Job) (d : Nat × Nat) : State → List (Nat × Ctx) → State
  | s, [] => s
  | s, (key, c) :: t =>
    if c.job = job && !c.dying && inDiscard j d c.vcore then
      killTasks job j d ((s.endTask key).pod (.ni (tileOf (coreOf key))) job c.wt false true) t
    else killTasks job j d s t

/-- Drops the messages of a job waiting in the mailboxes of a unit, their weight returning KILLED (R346). -/
def dropWaiting (job : Nat) (j : Job) (d : Nat × Nat) : State → List (Nat × Core) → State
  | s, [] => s
  | s, (key, c) :: t =>
    let gone := c.mailbox.filter (fun m => m.msg.job == job && inDiscard j d m.vcore)
    let s' := if gone.isEmpty then s
      else (s.updCore key (fun x => { x with mailbox := x.mailbox.filter (fun m => !(m.msg.job == job && inDiscard j d m.vcore)) })).pod
        (.ni (tileOf key)) job (sumBy (fun m => hdrWeight m.msg.hdr) gone) false true
    dropWaiting job j d s' t

/-- A unit whose discard has ended: no task of the job runs in it and no message of the job waits in its mailboxes
(R346). -/
def discardEnded (s : State) (job : Nat) (j : Job) (d : Nat × Nat) : Bool :=
  !(s.ctxs.any (fun e => e.2.job == job && !e.2.dying && inDiscard j d e.2.vcore))
    && !(s.cores.any (fun e => e.2.mailbox.any (fun m => m.msg.job == job && inDiscard j d m.vcore)))

/-- Ends the discards that have nothing left to drop. -/
def State.sweepDiscards (s : State) (job : Nat) : State :=
  match s.job? job with
  | none => s
  | some j =>
    if j.discarding.isEmpty then s
    else s.setJob job { j with discarding := j.discarding.filter (fun d => !discardEnded s job j d) }

/-- Discards a unit (R346). -/
def State.discardUnit (s : State) (job : Nat) (d : Nat × Nat) : State :=
  match s.job? job with
  | none => s
  | some j =>
    let s1 := s.setJob job { j with discarding := if j.discarding.contains d then j.discarding else j.discarding ++ [d] }
    let s2 := killTasks job j d s1 s1.ctxs
    (dropWaiting job j d s2 s2.cores).sweepDiscards job

/-- Frees the trigger entries and the counters of a job on one tile, the weight of the entries returning KILLED
(R348). -/
def freeEntries (job : Nat) (s : State) (t : Nat) : State :=
  let x := s.tile t
  let gone := x.posted.filter (fun p => p.job == job)
  if gone.isEmpty then s
  else (s.updTile t (fun x => { x with posted := x.posted.filter (fun p => p.job != job) })).pod (.ni t) job
    (sumBy (·.v) gone) false true

/-- The units of a job's queued future waiters return KILLED, each with FUTSTALE (R348). -/
def staleWaiters (job : Nat) : State → List (Nat × Future) → State
  | s, [] => s
  | s, (key, f) :: t =>
    let mine := f.waiters.filter (fun r => match s.req? r with | some q => q.job == job | none => false)
    let s1 := if mine.isEmpty then s
      else { s with futures := s.futures.set key { f with waiters := f.waiters.filter (fun r => !mine.contains r) } }
    let s2 := mine.foldl (fun s r => match s.req? r with
      | some q => (s.pod (.unit (key / 16384)) job q.v false true).dropReq r
      | none => s) s1
    staleWaiters job s2 t

/-- Kills a job on this device (R348). -/
def State.killJob (s : State) (job : Nat) : State :=
  match s.job? job with
  | none => s
  | some j =>
    let s1 := s.discardUnit job (8, 0)
    let s2 := j.place.foldl (freeEntries job) s1
    let s3 := staleWaiters job s2 s2.futures
    s3.updJob job (fun j => { j with armed := false, killed := true })

/-- The times a unit has been retried. -/
def Job.retriesOf (j : Job) (l u : Nat) : Nat :=
  match j.retries.find? (fun r => r.1 == l && r.2.1 == u) with
  | some r => r.2.2
  | none => 0

/-- Containment of a trap at a virtual core, from a level upward (R345): the levels above `l` are still to be asked. -/
def State.contain (s : State) (job vcore : Nat) : Nat → State
  | 0 => s.killJob job
  | l + 1 =>
    match s.job? job with
    | none => s
    | some j =>
      match (levelsOf j.words)[l]?, unitOf (levelsOf j.words) j.rank j.vtiles l vcore with
      | some lv, some u =>
        if lv.policy = 0 then s
        else if lv.policy = 1 then
          if j.retriesOf l u < 7 then
            let s1 := s.setJob job { j with
              retries := (l, u, j.retriesOf l u + 1) :: j.retries.filter (fun r => !(r.1 == l && r.2.1 == u))
              retryDue := j.retryDue ++ [(l, u)] }
            s1.discardUnit job (l, u)
          else s.contain job vcore l
        else if lv.policy = 2 then s.discardUnit job (l, u)
        else s.contain job vcore l
      | _, _ => s.contain job vcore l

/-- The trap goes to containment, from the deepest level (R345); one that concerns a unit being discarded goes no
further (R346). -/
def State.containment (s : State) (job vcore : Nat) : State :=
  match s.job? job with
  | none => s
  | some j =>
    if j.discarding.any (fun d => inDiscard j d vcore) then s
    else s.contain job vcore (levelsOf j.words).length

/-! ## Fatal context errors (R343) -/

/-- Raises FATAL: it is logged with its ARG, the failing address or 0, the weight of what it ends returns KILLED, and containment
follows at the virtual core it names. -/
def State.fatal (s : State) (job vcore sub weight : Nat) (arg : Word) (src : Endpoint) : State :=
  let s1 := { s with log := s.log ++ [LogEntry.fatal sub job arg] }
  (s1.pod src job weight false true).containment job vcore

/-! ## The fault record and the action table (R333 to R341) -/

/-- The number of a cause (R330). -/
def Cause.code : Cause → Nat
  | .illop => 0
  | .illopnd => 1
  | .priv => 2
  | .valloc => 3
  | .laddr => 4
  | .taddr => 5
  | .align => 6
  | .bankfmt => 7
  | .illtrit => 8
  | .weight => 9
  | .budget => 10
  | .swtrap => 11
  | .trigfull => 12
  | .arraycfg => 13
  | .xtimeout => 14
  | .futstale => 15
  | .nredcfg => 16
  | .eccloc => 17
  | .ovfring => 18
  | .fatal => 19

/-- Word 0 of a fault record (R333). -/
def faultWord0 (t : Trap) (vcore narg : Nat) (trunc prec : Bool) : Word :=
  BitVec.ofNat 64 (t.cause.code + 32 * t.origin + 256 * t.sub + 65536 * vcore + 1073741824 * trunc.toNat
    + 2147483648 * prec.toNat + 4294967296 * narg)

/-- Word 1 of a fault record (R333): OFFSET saturates. -/
def faultWord1 (spc offset : Nat) : Word := BitVec.ofNat 64 (spc + 4294967296 * min offset 65535)

/-- ACT of an action entry (R335). -/
def actAct (e : Word) : Nat := fieldOf e.toNat 0 2
/-- CLASS of an action entry. -/
def actClass (e : Word) : Nat := fieldOf e.toNat 2 8
/-- PRIO of an action entry. -/
def actPrio (e : Word) : Nat := fieldOf e.toNat 10 2
/-- The target of an action entry: VCORE when FIXED, else the core the trap concerns. -/
def actTarget (e : Word) (vcore : Nat) : Nat := if e.toNat.testBit 12 then fieldOf e.toNat 13 14 else vcore

/-- The number of one bits below bit c. -/
def onesBelow (m c : Nat) : Nat := ((List.range c).filter (fun i => m.testBit i)).length

/-- The job's entry for a cause; within 64 clk of a write of ACTTAB the old one may be used (R336). -/
def Job.actEntry (j : Job) (s : State) (c : Nat) : Word :=
  let now := j.acts.getD c 0
  choose s 900 now ((j.actOld.filter (fun e => e.1 == c && decide (s.clk ≤ e.2.2 + 64))).map (·.2.1))

/-- The action entry of a task's trap (R336, ORIGIN 0 or 1). -/
def taskEntry (s : State) (j : Job) (c : Ctx) (t : Trap) : Word :=
  let n := t.cause.code
  if c.ovrMask.testBit n then j.ovr.getD (c.ovrIdx + onesBelow c.ovrMask n) 0 else j.actEntry s n

/-- A message of hardware to a virtual core of a job. -/
def hwMsg (job : Nat) (hdr : Word) (args : List Word) (know : Know) : Msg :=
  ⟨job, hdr, args, 0, hdrVcore hdr, 0, false, 0, (if know.isEmpty then none else some ⟨.system, 0, know, []⟩), 0⟩

/-- The fault record's words, the original header and argument words, of which the trap makes its messages. -/
structure Report where
  w0 : Word
  w1 : Word
  w2 : Word
  hdr : Word
  args : List Word
  deriving DecidableEq, Repr, Inhabited

/-- Fifteen argument words, those not there being 0. -/
def padWords (l : List Word) (n : Nat) : List Word := l.take n ++ List.replicate (n - l.length) 0

/-- Parks (R340): the home writes the record, then sends the notice, whose task starts after that write on every path (R252), and after
`know` (R380). -/
def State.parkRecord (s : State) (job : Nat) (j : Job) (e : Word) (vcore u : Nat) (r : Report) (know : Know) : State :=
  let q := j.pqCount
  let addr := j.pqBase + 160 * (q % j.pqN)
  let s1 := if j.pqN = 0 then s
    else s.writeVirt j.ptroot addr .near ([r.w0, r.w1, r.w2, r.hdr] ++ padWords r.args 15 ++ [BitVec.ofNat 64 q])
  let s2 := s1.updJob job (fun j => { j with pqCount := q + 1 })
  let m := hwMsg job (mkHdr (actTarget e vcore) 0 (actClass e) 3 4 3 u)
    [r.w0, r.w1, r.w2, if j.pqN = 0 then 0 else BitVec.ofNat 64 addr] (s2.madeSince s.serial ++ know)
  s2.sendOrDraw job m u

/-- Forwards (R341); the task of the forward starts after `know` (R380). -/
def State.forwardTrap (s : State) (job : Nat) (e : Word) (vcore u : Nat) (r : Report) (know : Know) : State :=
  let m := hwMsg job (mkHdr (actTarget e vcore) 0 (actClass e) (actPrio e) 15 0 u)
    ([r.w0, r.w1, r.w2, r.hdr] ++ padWords r.args 11) know
  s.sendOrDraw job m u

/-- Kills (R338): the weight returns KILLED and containment follows. -/
def State.killTrap (s : State) (job vcore u : Nat) (src : Endpoint) : State :=
  (s.pod src job u false true).containment job vcore

/-- The home draws one unit from HOMEW for a raise of its own and returns it KILLED at once where the raise only kills (R332; log 53:
DESIGN CHOICE, as R263 queues the draws of the messages the home sends). -/
def State.killOwn (s : State) (job : Nat) (j : Job) (src : Endpoint) : State :=
  if j.homew = 0 then s else (s.setJob job { j with homew := j.homew - 1 }).killTrap job 0 1 src

/-- A raise that concerns no task (R332, ORIGIN 2 or 3): the job's own entry decides; a replay acts as kill (R336). One that concerns a
unit being discarded only returns its weight KILLED (R338, R346). `know` is what happens before the task that the trap starts
(R380). -/
def State.raiseJob (s : State) (job vcore u : Nat) (t : Trap) (know : Know) (src : Endpoint) : State :=
  match s.job? job with
  | none => s
  | some j =>
    if j.discarding.any (fun d => inDiscard j d vcore) then s.pod src job u false true
    else
    let e := j.actEntry s t.cause.code
    let r : Report := ⟨faultWord0 t vcore 0 false false, 0, t.arg, 0, []⟩
    match actAct e with
    | 2 => s.parkRecord job j e vcore u r know
    | 3 => s.forwardTrap job e vcore u r know
    | _ => if t.origin = 3 then s.killOwn job j src else s.killTrap job vcore u src

/-- Rebuilds a task's message for its replay (R339). Its task starts at its routine's code address, as R17 says of every task: what R71
says of a prefixed instruction, that a replay restarts at its first prefix, is read of the record's SPC only (log 46: DEDUCED). -/
def replayMsg (c : Ctx) : Msg :=
  ⟨c.job, hdrSetVcore c.msg c.vcore, c.m.toList.take (hdrLen c.msg), 0, c.vcore, 0, false, c.replays + 1, (if c.startKnow.isEmpty then none else some ⟨.system, 0, c.startKnow, []⟩), 0⟩

/-- The segment start and the offset of the instruction at hand (R334). -/
def segNow (c : Ctx) : Nat × Nat :=
  (if c.segOff = 0 then (if c.limm.isEmpty then c.pc else c.limmPc) else c.segPc, c.segOff)

/-- The segment start and the offset in the report of a start-time fault: in a routine marked precise its own instruction with
OFFSET 0 (R334). -/
def segOfStart (c : Ctx) : Nat × Nat :=
  if c.precise then (if c.limm.isEmpty then c.pc else c.limmPc, 0) else segNow c

/-- TAKES A TRAP of the task in a context (R336 to R341): the task ends (R337), and the action entry decides what its
message, its weight and its unit become. `seg` is the segment of the record (R334). -/
def State.takeTrap (s : State) (key : Nat) (t : Trap) (seg : Nat × Nat) : State :=
  match s.ctxs.get? key with
  | none => s
  | some c =>
    let narg := hdrLen c.msg
    let src := Endpoint.ni (tileOf (coreOf key))
    let s1 := (s.endTask key)
    match s1.job? c.job with
    | none => s1
    | some j =>
      if j.discarding.any (fun d => inDiscard j d c.vcore) then (s1.pod src c.job c.wt false true).sweepDiscards c.job
      else
        let e := taskEntry s j c t
        let fwd := actAct e == 3
        let r : Report := ⟨faultWord0 t c.vcore narg (fwd && decide (11 < narg)) c.precise,
          faultWord1 seg.1 seg.2, t.arg, c.msg, c.m.toList.take narg⟩
        match actAct e with
        | 1 =>
          if c.replayable && decide (c.replays < 15) then
            let m := replayMsg c
            if c.wt = 0 then s1.ownDraw c.job m 1
            else s1.sendMsg { m with hdr := hdrSetWeight m.hdr c.wt } src src 0
          else s1.killTrap c.job c.vcore c.wt src
        | 2 => s1.parkRecord c.job j e c.vcore c.wt r []
        | 3 => s1.forwardTrap c.job e c.vcore c.wt r []
        | _ => s1.killTrap c.job c.vcore c.wt src

/-- A trap of the task in a context, detected now: a start-time fault noted before it, of an operation of the same segment, is the
earlier in issue order and is taken in its place (R119, R355). An operation of the segment that has not started yet has no fault to
report (log 46: DESIGN CHOICE). -/
def State.trapNow (s : State) (key : Nat) (t : Trap) (seg : Nat × Nat) : State :=
  match (s.ctxs.get? key).bind (·.startFault) with
  | some (_, sg, x) => s.takeTrap key x sg
  | none => s.takeTrap key t seg

/-! ## Markers, outstanding operations and the end of a task (R30, R31, R119) -/

/-- Ends a task normally: its weight goes home, its context and its vector registers are free (R31, R262). The record of
an open hold outlives it (R177). -/
def State.finishTask (s : State) (key : Nat) : State :=
  match s.ctxs.get? key with
  | none => s
  | some c =>
    let s1 := { s with
      ctxs := s.ctxs.del key
      tasks := s.dropTask c.task
      limmOpen := if s.limmOpen = some key then none else s.limmOpen }
    (s1.pod (.ni (tileOf (coreOf key))) c.job c.wt false false).sweepDiscards c.job

/-- What a context comes to once nothing of it is outstanding: a dead task's context is freed; a start-time fault is
reported at the marker (R119); `ctl.end` ends the task (R31). -/
def State.release (s : State) (key : Nat) : State :=
  match s.ctxs.get? key with
  | none => s
  | some c =>
    if c.busy then s
    else if c.dying then
      ({ s with ctxs := s.ctxs.del key }).sweepDiscards c.job
    else if c.parked || c.ending then
      match c.startFault with
      | some (_, seg, t) => s.takeTrap key t seg
      | none => if c.ending then s.finishTask key else s
    else s

/-- Records a start-time fault of an operation; the report names the earliest in issue order (R119). -/
def Ctx.noteFault (c : Ctx) (op : Nat) (seg : Nat × Nat) (t : Trap) : Ctx :=
  match c.startFault with
  | some (id, _, _) => if op < id then { c with startFault := some (op, seg, t) } else c
  | none => { c with startFault := some (op, seg, t) }

/-- An operation is no longer outstanding (R29). -/
def State.settleOp (s : State) (o : Op) : State :=
  (({ s with ops := s.ops.filter (fun x => x.id != o.id) }).updCtx o.ctx
    (fun c => if c.task = o.task then { c with outs := c.outs.filter (· != o.id) } else c)).release o.ctx

/-- The operation of a number. -/
def State.op? (s : State) (id : Nat) : Option Op := s.ops.find? (fun o => o.id == id)

/-- Writes results of an outstanding operation to their places now, with its flags, unless its task is dead (R28,
R120, R337). -/
def State.writeResults (s : State) (o : Op) (rs : List (Target × Nat)) (flags : Nat) : State :=
  let s0 := s.settleAt o.ctx
  match s0.ctxs.get? o.ctx with
  | none => s0
  | some c =>
    let c1 := { c with pend := c.pend.filter (fun p => p.op != o.id) }
    if c.task ≠ o.task ∨ c.dying then { s0 with ctxs := s0.ctxs.set o.ctx c1 }
    else
      let place (c : Ctx) (e : (Target × Nat) × Nat) : Ctx := landValue s c o.keeps e.1.1 e.1.2 (1000 + e.2)
      let c2 := rs.zipIdx.foldl place c1
      ({ s0 with ctxs := s0.ctxs.set o.ctx { c2 with fflags := c2.fflags ||| BitVec.ofNat 64 flags } }).landed o.ctx o.id
        (rs.flatMap (fun (r : Target × Nat) => placesOf r.1))

/-! ## Issuing an instruction -/

/-- The outcome of an instruction of the issuing context: its effect and the advance, or its trap, or nothing where it
is not eligible. -/
def issue (len gap : Nat) (mark : Bool) (s : State) (r : Res) : Host.Outcome State Fault Refusal :=
  match r with
  | .ok (s', fl) => .next (if mark then (s'.retire len gap mark fl).release s.cur else s'.retire len gap mark fl)
  | .error (.trap t) => .next { (s.trapNow s.cur t (segNow s.me)) with free := s.free + 1 }
  | .error .wait => .next s

/-- What every instruction must meet before its own checks: no prefix stands before a form that accepts none (R71), and
a 32-bit instruction does not straddle the end of the innermost loop (R104). -/
def begin_ (s : State) (len : Nat) (accepts : Bool) : Except Stop Unit := do
  let c := s.me
  need (accepts || c.limm.isEmpty) .illop
  match c.loops with
  | [] => .ok ()
  | t :: _ => need (!(len == 4 && c.pc + 2 == t.stop)) .illop

/-- A 32-bit instruction with its mark. -/
def issue32 (m : Mark) (s : State) (body : Res) : Host.Outcome State Fault Refusal :=
  issue 4 m.g.val m.s s (begin_ s 4 false >>= fun _ => body)

/-- A compact instruction with its S bit: its gap is 0 (R67). -/
def issue16 (mark : Bool) (s : State) (body : Res) : Host.Outcome State Fault Refusal :=
  issue 2 0 mark s (begin_ s 2 false >>= fun _ => body)

/-- A 32-bit instruction that may park its context after issue in a routine marked PRECISE (R334). -/
def issueStart (m : Mark) (s : State) (body : Res) : Host.Outcome State Fault Refusal :=
  issue 4 m.g.val (m.s || s.me.precise) s (begin_ s 4 false >>= fun _ => body)

end Sys2Proof.Machine
end

