-- ==== Sys2Proof/Machine/Num.lean ====
section
/-! DEFINITION. Numbers to the bit: exact values, the IEEE and narrow formats, rounding and its flags, the format
descriptors and the ternary byte (chapter 3). -/

namespace Sys2Proof.Machine

/-! ## Exact values -/

/-- A decoded value: a NaN, signalling or quiet; an infinity; or the exact number ±m × 2^e, a zero keeping its sign. -/
inductive Val where
  | nan (signalling : Bool)
  | inf (neg : Bool)
  | fin (neg : Bool) (m : Nat) (e : Int)
  deriving DecidableEq, Repr, Inhabited

/-- A floating-point format (R35, R41): exponent and mantissa bits, bias, special values and width. -/
structure Fmt where
  e : Nat
  m : Nat
  bias : Int
  spec : Nat
  w : Nat
  deriving DecidableEq, Repr, Inhabited

/-- FP32 (R35) -/
def fp32 : Fmt := ⟨8, 23, 127, 0, 32⟩
/-- FP16 (R35) -/
def fp16 : Fmt := ⟨5, 10, 15, 0, 16⟩
/-- BF16 (R35) -/
def bf16 : Fmt := ⟨8, 7, 127, 0, 16⟩

/-- The value of a float-kind element (R43). -/
def Fmt.decode (f : Fmt) (bits : Nat) : Val :=
  let s := bits.testBit (f.w - 1)
  let e := fieldOf bits f.m f.e
  let m := fieldOf bits 0 f.m
  let emax := 2 ^ f.e - 1
  if f.spec = 0 ∧ e = emax then (if m = 0 then .inf s else .nan (!m.testBit (f.m - 1)))
  else if f.spec = 1 ∧ e = emax ∧ m = 2 ^ f.m - 1 then .nan false
  else if e = 0 then .fin s m (1 - f.bias - f.m)
  else .fin s (2 ^ f.m + m) (e - f.bias - f.m)

/-- The canonical quiet NaN, or a narrow format's NaN code (R35, R44); none where the format has none. -/
def Fmt.nanCode (f : Fmt) : Option Nat :=
  let emax := 2 ^ f.e - 1
  if f.spec = 0 then some (emax * 2 ^ f.m + 2 ^ (f.m - 1))
  else if f.spec = 1 then some (emax * 2 ^ f.m + 2 ^ f.m - 1)
  else none

/-- The code of the largest finite magnitude (R44). -/
def Fmt.maxCode (f : Fmt) : Nat :=
  let emax := 2 ^ f.e - 1
  if f.spec = 0 then emax * 2 ^ f.m - 1
  else if f.spec = 1 then emax * 2 ^ f.m + 2 ^ f.m - 2
  else emax * 2 ^ f.m + 2 ^ f.m - 1

/-! ## Rounding (R39) -/

/-- Whether a magnitude k with remainder r of a step 2^d rounds away from zero, by direction RNE, RTZ, RUP, RDN.
In a format with M = 0 both neighbours of a tie between two powers of two have an empty mantissa field: the parity of the
significand with its leading 1 is taken, which gives the larger magnitude (log 55: DESIGN CHOICE). -/
def roundsUp (rm : Nat) (neg : Bool) (k r d : Nat) : Bool :=
  if r = 0 then false
  else match rm with
    | 0 => decide (2 ^ d < 2 * r) || (decide (2 * r = 2 ^ d) && k % 2 == 1)
    | 1 => false
    | 2 => !neg
    | _ => neg

/-- Rounds m × 2^e to a multiple of 2^q: the multiple, and whether it differs. -/
def roundGrid (rm : Nat) (neg : Bool) (m : Nat) (e q : Int) : Nat × Bool :=
  if q ≤ e then (m * 2 ^ (e - q).toNat, false)
  else
    let d := (q - e).toNat
    let k := m / 2 ^ d
    let r := m % 2 ^ d
    (if roundsUp rm neg k r d then k + 1 else k, decide (r ≠ 0))

/-- ⌊log₂⌋ of a nonzero magnitude m × 2^e. -/
def expOf (m : Nat) (e : Int) : Int := e + m.log2

/-- How an overflow is delivered: as IEEE 754 prescribes, or the largest finite magnitude (R36, R44). -/
inductive Overflow where
  | ieee
  | saturate
  deriving DecidableEq, Repr

/-- Whether an IEEE overflow in a direction gives an infinity. -/
def toInf (rm : Nat) (neg : Bool) : Bool :=
  match rm with
  | 0 => true
  | 1 => false
  | 2 => !neg
  | _ => neg

/-- The sign bit of a code. -/
def Fmt.signed (f : Fmt) (neg : Bool) (code : Nat) : Nat := if neg then code + 2 ^ (f.w - 1) else code

/-- Encodes a value into a float format (R36, R44): the code and its flags. `infStays` says that an infinity stays one. -/
def Fmt.encode (f : Fmt) (rm : Nat) (ov : Overflow) (infStays : Bool) : Val → Nat × Nat
  | .nan _ =>
    match f.nanCode with
    | some c => (c, 0)
    | none => (0, flagIV)
  | .inf neg =>
    if infStays && f.spec == 0 then (f.signed neg ((2 ^ f.e - 1) * 2 ^ f.m), 0)
    else (f.signed neg f.maxCode, flagOF ||| flagNX)
  | .fin neg m e =>
    if m = 0 then (f.signed neg 0, 0)
    else
      let emin := 1 - f.bias
      let q := max (expOf m e - f.m) (emin - f.m)
      let r := roundGrid rm neg m e q
      let code := ((q + f.m + f.bias) * 2 ^ f.m + r.1 - 2 ^ f.m).toNat
      let tiny := decide (expOf m e < emin)
      if f.maxCode < code then
        if ov = .ieee then
          (f.signed neg (if toInf rm neg then (2 ^ f.e - 1) * 2 ^ f.m else f.maxCode), flagOF ||| flagNX)
        else (f.signed neg f.maxCode, flagOF ||| flagNX)
      else (f.signed neg code, if r.2 then (if tiny then flagUF ||| flagNX else flagNX) else 0)

/-- Encodes an arithmetic result or a conversion into FP32, FP16 or BF16 (R36). -/
def Fmt.result (f : Fmt) (rm : Nat) (v : Val) : Nat × Nat := f.encode rm .ieee true v

/-! ## Exact arithmetic -/

/-- A signalling NaN. -/
def Val.isSig : Val → Bool
  | .nan s => s
  | _ => false

/-- A NaN. -/
def Val.isNan : Val → Bool
  | .nan _ => true
  | _ => false

/-- A zero. -/
def Val.isZero : Val → Bool
  | .fin _ m _ => m == 0
  | _ => false

/-- The flag of signalling inputs (R36, R40). -/
def sigFlag (l : List Val) : Nat := if l.any Val.isSig then flagIV else 0

/-- A signed magnitude as an integer multiple of 2^q, q at most e. -/
def scaled (neg : Bool) (m : Nat) (e q : Int) : Int :=
  let k : Int := (m * 2 ^ (e - q).toNat : Nat)
  if neg then -k else k

/-- An integer multiple of 2^q as a value; `zneg` is the sign of a zero. -/
def ofScaled (i : Int) (q : Int) (zneg : Bool) : Val := .fin (if i = 0 then zneg else decide (i < 0)) i.natAbs q

/-- An integer as a value. -/
def Val.ofInt (i : Int) : Val := ofScaled i 0 false

/-- The sum, exact; a zero from opposite signs is +0, or −0 when rounding down (IEEE 754). The flag is IV. -/
def Val.add (rm : Nat) (a b : Val) : Val × Nat :=
  match a, b with
  | .nan _, _ => (.nan false, sigFlag [a, b])
  | _, .nan _ => (.nan false, sigFlag [a, b])
  | .inf x, .inf y => if x = y then (.inf x, 0) else (.nan false, flagIV)
  | .inf x, _ => (.inf x, 0)
  | _, .inf y => (.inf y, 0)
  | .fin s m e, .fin t n f =>
    let q := min e f
    let zneg := if m = 0 ∧ n = 0 ∧ s = t then s else rm == 3
    (ofScaled (scaled s m e q + scaled t n f q) q zneg, 0)

/-- The value with its sign inverted. -/
def Val.neg : Val → Val
  | .nan s => .nan s
  | .inf s => .inf !s
  | .fin s m e => .fin (!s) m e

/-- The magnitude. -/
def Val.abs : Val → Val
  | .nan s => .nan s
  | .inf _ => .inf false
  | .fin _ m e => .fin false m e

/-- The product, exact. The flag is IV. -/
def Val.mul (a b : Val) : Val × Nat :=
  match a, b with
  | .nan _, _ => (.nan false, sigFlag [a, b])
  | _, .nan _ => (.nan false, sigFlag [a, b])
  | .inf s, .inf t => (.inf (s != t), 0)
  | .inf s, .fin t n _ => if n = 0 then (.nan false, flagIV) else (.inf (s != t), 0)
  | .fin s m _, .inf t => if m = 0 then (.nan false, flagIV) else (.inf (s != t), 0)
  | .fin s m e, .fin t n f => (.fin (s != t) (m * n) (e + f), 0)

/-- a × b + c, the product exact; 0 × ∞ + c is invalid even when c is a NaN (R98, R121). -/
def Val.fma (rm : Nat) (a b c : Val) : Val × Nat :=
  let p := a.mul b
  let r := p.1.add rm c
  (r.1, p.2 ||| r.2 ||| sigFlag [a, b, c])

/-- Comparison of values that are no NaN, the zeros equal: negative, zero or positive as a is below, at or above b. -/
def Val.cmp (a b : Val) : Int :=
  match a, b with
  | .inf s, .inf t => if s = t then 0 else if s then -1 else 1
  | .inf s, _ => if s then -1 else 1
  | _, .inf t => if t then 1 else -1
  | .fin s m e, .fin t n f =>
    let q := min e f
    scaled s m e q - scaled t n f q
  | _, _ => 0

/-- a = b; false where unordered (R37). -/
def Val.eq (a b : Val) : Bool := !a.isNan && !b.isNan && decide (a.cmp b = 0)
/-- a < b; false where unordered. -/
def Val.lt (a b : Val) : Bool := !a.isNan && !b.isNan && decide (a.cmp b < 0)
/-- a ≤ b; false where unordered. -/
def Val.le (a b : Val) : Bool := !a.isNan && !b.isNan && decide (a.cmp b ≤ 0)

/-- The sign bit of a value. -/
def Val.isNeg : Val → Bool
  | .nan _ => false
  | .inf s => s
  | .fin s _ _ => s

/-- a is the lesser for min and max: −0 counts as less than +0 (R37). -/
def Val.below (a b : Val) : Bool := decide (a.cmp b < 0) || (decide (a.cmp b = 0) && a.isNeg && !b.isNeg)

/-- The minimum or maximum (R37): a NaN operand is ignored, two give a quiet NaN. -/
def Val.minmax (isMax : Bool) (a b : Val) : Val × Nat :=
  let f := sigFlag [a, b]
  match a, b with
  | .nan _, .nan _ => (.nan false, f)
  | .nan _, y => (y, f)
  | x, .nan _ => (x, f)
  | x, y => (if x.below y != isMax then x else y, f)

/-! ## Roots -/

/-- ⌊√n⌋ below 2^k, one bit at a time. -/
def isqrt (n : Nat) : Nat → Nat → Nat
  | 0, r => r
  | k + 1, r => isqrt n k (if (r + 2 ^ k) * (r + 2 ^ k) ≤ n then r + 2 ^ k else r)

/-- √(m × 2^e) for m > 0 as a value that rounds as the exact one does to any grid of at most 40 bits: 64 bits of the root
and a sticky bit below them. -/
def rootVal (m : Nat) (e : Int) : Val :=
  let k := (130 - min 128 m.log2) / 2 * 2 + (if e % 2 = 0 then 0 else 1)
  let n := m * 2 ^ k
  let r := isqrt n (n.log2 / 2 + 1) 0
  .fin false (2 * r + (if r * r = n then 0 else 1)) ((e - k) / 2 - 1)

/-- The square root (R95): √(−0) = −0, a negative nonzero operand is invalid. -/
def Val.sqrt : Val → Val × Nat
  | .nan s => (.nan false, if s then flagIV else 0)
  | .inf s => if s then (.nan false, flagIV) else (.inf false, 0)
  | .fin s m e => if m = 0 then (.fin s 0 e, 0) else if s then (.nan false, flagIV) else (rootVal m e, 0)

/-! ## Integers -/

/-- Rounds a value to an integer in a direction: the integer and whether it differs (R39). -/
def roundInt (rm : Nat) (neg : Bool) (m : Nat) (e : Int) : Int × Bool :=
  let r := roundGrid rm neg m e 0
  (if neg then -(r.1 : Int) else r.1, r.2)

/-- Encodes into the integers lo to hi (R44, R46, R96): NaN gives 0 with IV; a value out of range saturates with IV, or OV
when its source is an integer; NX marks an inexact one in range. -/
def toInteger (rm : Nat) (lo hi : Int) (fromInt : Bool) : Val → Int × Nat
  | .nan _ => (0, flagIV)
  | .inf neg => (if neg then lo else hi, flagIV)
  | .fin neg m e =>
    let r := roundInt rm neg m e
    if r.1 < lo then (lo, if fromInt then flagOV else flagIV)
    else if hi < r.1 then (hi, if fromInt then flagOV else flagIV)
    else (r.1, if r.2 then flagNX else 0)

/-- The low w bits of an integer. -/
def lowBits (w : Nat) (i : Int) : Nat := (i % (2 ^ w : Int)).toNat

/-! ## Descriptors (R41, R42) -/

/-- KIND -/
def descKind (d : Nat) : Nat := fieldOf d 0 3
/-- W4 -/
def descW4 (d : Nat) : Bool := d.testBit 3
/-- The float format of a kind-0 descriptor (R41). -/
def descFmt (d : Nat) : Fmt :=
  ⟨fieldOf d 4 3, fieldOf d 7 3, sextNat (fieldOf d 16 8) 8, fieldOf d 24 2, if descW4 d then 4 else 8⟩

/-- The reserved bits of a descriptor are 0 (R42). -/
def descReserved (d : Nat) : Bool := fieldOf d 10 6 == 0 && fieldOf d 26 38 == 0

/-- E, M, BIAS and SPEC are 0. -/
def descBare (d : Nat) : Bool := fieldOf d 4 6 == 0 && fieldOf d 16 10 == 0

/-- A valid descriptor of a bank format register (R42). -/
def descValid (d : Nat) : Bool :=
  descReserved d && (match descKind d with
    | 0 => let e := fieldOf d 4 3; let m := fieldOf d 7 3; let sp := fieldOf d 24 2
           decide (1 ≤ e ∧ e ≤ 6 ∧ 1 + e + m ≤ (if descW4 d then 4 else 8) ∧ sp ≤ 2 ∧ (sp = 0 → 1 ≤ m))
    | 1 => descBare d
    | 2 => descBare d
    | _ => descBare d && !descW4 d)

/-- A valid descriptor of VFMT: kinds 0, 1 and 2 only (R42). -/
def vfmtValid (d : Nat) : Bool := descValid d && decide (descKind d ≤ 2)

/-- Bits of a bank element (R130): kinds 3 and 7 move bytes. -/
def descBits (d : Nat) : Nat :=
  match descKind d with
  | 4 => 32
  | 5 => 16
  | 6 => 16
  | 3 => 8
  | 7 => 8
  | _ => if descW4 d then 4 else 8

/-- A raw side: unformatted, of kind 3 or of kind 7 (R158). -/
def descRaw (d : Nat) : Bool := d == 0 || descKind d == 3 || descKind d == 7

/-- Element bytes for alignment: 1 for 4-bit elements, kinds 3 and 7, and a descriptor that is 0 or invalid (R130,
R161). -/
def descBytes (d : Nat) : Nat := if d == 0 || !descValid d then 1 else max 1 (descBits d / 8)

/-- Decodes an element of a numeric kind (R43). -/
def descDecode (d bits : Nat) : Val :=
  let w := descBits d
  match descKind d with
  | 0 => (descFmt d).decode (bits % 2 ^ w)
  | 1 => .ofInt (sextNat bits w)
  | 2 => .ofInt (bits % 2 ^ w : Nat)
  | 4 => fp32.decode bits
  | 5 => bf16.decode bits
  | _ => fp16.decode bits

/-- An int or uint kind (R33). -/
def descIsInt (d : Nat) : Bool := descKind d == 1 || descKind d == 2

/-- Encodes into a descriptor's format (R44). `store` says that the path is a store-encoding one: RNE, and saturation with
infinities included. -/
def descEncode (d rm : Nat) (store fromInt : Bool) (v : Val) : Nat × Nat :=
  let rm := if store then 0 else rm
  let w := descBits d
  match descKind d with
  | 0 => (descFmt d).encode rm .saturate (!store) v
  | 1 => let r := toInteger rm (-(2 ^ (w - 1) : Nat)) ((2 ^ (w - 1) : Nat) - 1) fromInt v
         (lowBits w r.1, r.2)
  | 2 => let r := toInteger rm 0 ((2 ^ w : Nat) - 1) fromInt v
         (lowBits w r.1, r.2)
  | 4 => fp32.encode rm (if store then .saturate else .ieee) (!store) v
  | 5 => bf16.encode rm (if store then .saturate else .ieee) (!store) v
  | _ => fp16.encode rm (if store then .saturate else .ieee) (!store) v

/-! ## Element types of vectors (R112) -/

/-- Bits of an element. -/
def vtBits : VT → Nat
  | .i8 => 8
  | .i16 => 16
  | .i32 => 32
  | .i4 => 4
  | .f32 => 32
  | .bf16 => 16
  | .f16 => 16
  | .nf8 => 8

/-- Elements of one register. -/
def vtCount (t : VT) : Nat := 4096 / vtBits t

/-- The value of an element (R112, R113). -/
def vtDecode (t : VT) (vfmt bits : Nat) : Val :=
  match t with
  | .f32 => fp32.decode bits
  | .bf16 => bf16.decode bits
  | .f16 => fp16.decode bits
  | .nf8 => descDecode vfmt bits
  | t => .ofInt (sextNat bits (vtBits t))

/-- The element's type holds integers. -/
def vtIntLike (t : VT) (vfmt : Nat) : Bool :=
  match t with
  | .nf8 => descIsInt vfmt
  | t => t.isInt

/-- Encodes a result into an element type on an arithmetic or conversion path, integers saturating (R44, R46, R113). -/
def vtEncode (t : VT) (vfmt rm : Nat) (fromInt : Bool) (v : Val) : Nat × Nat :=
  match t with
  | .f32 => fp32.result rm v
  | .bf16 => bf16.result rm v
  | .f16 => fp16.result rm v
  | .nf8 => descEncode vfmt rm false fromInt v
  | t => let w := vtBits t
         let r := toInteger rm (-(2 ^ (w - 1) : Nat)) ((2 ^ (w - 1) : Nat) - 1) fromInt v
         (lowBits w r.1, r.2)

/-! ## The ternary byte (R47, R49) -/

/-- Trit i of a byte code: −1, 0 or +1. -/
def trit (b i : Nat) : Int := ((b / 3 ^ i % 3 : Nat) : Int) - 1

/-- The byte of five trits. -/
def packTrits (t : List Int) : Nat :=
  (t.zipIdx.map (fun p => (p.1 + 1).toNat * 3 ^ p.2)).sum

/-! ## Scalar FP32 (R38, R95 to R98) -/

/-- The FP32 source of a register: bits [31:0]. -/
def fpSrc (w : Word) : Val := fp32.decode (w.toNat % 2 ^ 32)

/-- An FP32 result, bits [63:32] being 0 (R38). -/
def fpRes (rm : Nat) (v : Val × Nat) : Word × Nat :=
  let r := fp32.result rm v.1
  (BitVec.ofNat 64 r.1, r.2 ||| v.2)

/-- The class mask of a value (R97). -/
def fclass (bits : Nat) : Nat :=
  match fp32.decode bits with
  | .nan true => 256
  | .nan false => 512
  | .inf true => 1
  | .inf false => 128
  | .fin s m _ =>
    if m = 0 then (if s then 8 else 16)
    else if fieldOf bits 23 8 = 0 then (if s then 4 else 32)
    else (if s then 2 else 64)

end Sys2Proof.Machine
end

