-- ==== Sys2Proof/Machine/Operands.lean ====
section
/-! DEFINITION. Operand forms: immediates with their LIMM prefixes (R69, R70), the effective addresses of format M (R106),
command blocks (R18, R179), completion words (R178), the weight an instruction takes (R176, R177), operand descriptor
pairs (R160 to R162), and the vector registers an instruction names (R22, R23). -/

namespace Sys2Proof.Machine

/-! ## Immediates (R69, R70) -/

/-- The immediate of a field of w bits behind the prefixes that precede it: the field's bits below, the first prefix in
address order highest, sign-extended. -/
def extendImm (limm : List Nat) (f w : Nat) : Int :=
  sextNat (limm.foldl (fun acc p => acc * 2 ^ 22 + p) 0 * 2 ^ w + f) (22 * limm.length + w)

/-- The immediate of the issuing instruction. -/
def immediate (s : State) {w : Nat} (f : BitVec w) : Int := extendImm s.me.limm f.toNat w

/-- The immediate as a 64-bit value (R92, R94). -/
def immWord (s : State) {w : Nat} (f : BitVec w) : Word := BitVec.ofInt 64 (immediate s f)

/-! ## Format M (R62, R106) -/

/-- The size of an access in bytes. -/
def sizeOf_ (z : Size) : Nat := 2 ^ z.code

/-- The exact effective address: unsigned base plus the offset scaled by the size. -/
def effective (s : State) (base : Word) (o : BitVec 6) (z : Size) : Int :=
  (base.toNat : Int) + immediate s o * sizeOf_ z

/-- An exact address as an argument of a trap record. -/
def argOf (ea : Int) : Word := BitVec.ofInt 64 ea

/-- A loaded value extended by X (R106). -/
def extend (signed : Bool) (size v : Nat) : Word :=
  if signed then BitVec.ofInt 64 (sextNat v (8 * size)) else BitVec.ofNat 64 v

/-- The end of the local memory a core gives the issuing job (R106, R284). -/
def localEnd (s : State) : Nat :=
  match s.myJob with
  | some j => min 0x10000 j.localLimit
  | none => 0x10000

/-- The end of the scratchpad a tile gives the issuing job (R155, R284). -/
def tileEnd (s : State) : Nat :=
  match s.myJob with
  | some j => min 0x100000 j.tileLimit
  | none => 0x100000

/-- A local range that leaves the local memory ending at `top` faults LADDR, then one misaligned faults ALIGN (R106). -/
def checkLocal (top : Nat) (ea : Int) (size : Nat) : Except Stop Nat := do
  if ea < 0 ∨ top < ea + size then raise .laddr (argOf ea)
  if ea % size ≠ 0 then raise .align (argOf ea)
  .ok ea.toNat

/-- What a tile address of a scalar access reaches: a scratchpad address, or a counter of the trigger window (R108,
R109). -/
inductive TileRef where
  | scratch (a : Nat)
  | counter (c : Nat)
  deriving DecidableEq, Repr

/-- Checks a tile address of a scalar access, the scratchpad ending at `top` (R108, R109, R284). -/
def checkTile (top : Nat) (ea : Int) (z : Size) : Except Stop TileRef := do
  let size := sizeOf_ z
  if 0 ≤ ea ∧ ea + size ≤ top then
    if ea % size ≠ 0 then raise .align (argOf ea) else .ok (.scratch ea.toNat)
  else if 0x100000 ≤ ea ∧ ea ≤ 0x1000FF then
    if z = .w ∧ ea % 4 = 0 then .ok (.counter ((ea.toNat - 0x100000) / 4)) else raise .taddr (argOf ea)
  else raise .taddr (argOf ea)

/-! ## Command blocks (R18, R179) -/

/-- The first register of a block of n words, which lies inside s0 to s31. -/
def blockAt (a : Name) (n : Nat) : Except Stop Nat :=
  match a with
  | .s r => if r.val + n ≤ 32 then .ok r.val else raise .illopnd 0
  | .m _ | .d _ | .z | .h | .wt | .self | .job | .clk | .msg | .rsvd => raise .illopnd 0

/-- Words n of a block from register r on, each read as R27 gives; the places of their choices start at `place`. -/
def blockWords (s : State) (place r : Nat) : Nat → List Word
  | 0 => []
  | n + 1 => readS s place r :: blockWords s (place + 1) (r + 1) n

/-- A block with an uncorrectable error in one of its registers faults ECCLOC, naming the first (R331). -/
def blockSound (s : State) (r n : Nat) : Except Stop Unit :=
  match (List.range n).find? (fun i => s.me.ecc.contains (r + i)) with
  | some i => raise .eccloc (BitVec.ofNat 64 (2 ^ 61 + r + i))
  | none => .ok ()

/-- The words of a block of n registers named by its first. -/
def block (s : State) (a : Name) (n : Nat) : Except Stop (List Word) := do
  let r ← blockAt a n
  .ok (blockWords s 40 r n)

/-- The registers of a block are sound; checked after what is ILLOPND (R74). -/
def blockOk (s : State) (a : Name) (n : Nat) : Except Stop Unit := do
  let r ← blockAt a n
  blockSound s r n

/-- Word i of a block as a number. -/
def wordAt (b : List Word) (i : Nat) : Nat := (b.getD i 0).toNat

/-- Bits of a block word that must be 0: all but those of a mask. -/
def onlyBits (w mask : Nat) : Except Stop Unit := need (w &&& (2 ^ 64 - 1 - mask) == 0) .illopnd

/-- A field of a block is within its limits (R179). -/
def limits (ok : Bool) : Except Stop Unit := need ok .illopnd

/-! ## Headers and completion words (R139, R178) -/

/-- The checks of a message header's target on this device (R139): a virtual core and a valid class of the job. -/
def targetOk (j : Job) (vcore cls : Nat) : Bool := j.hasVcore vcore && (j.routine? cls).isSome

/-- The checks of a completion word at issue (R178): the class must exist unless NOMSG; `plain` says that ACQ and REL
must be 0, as in `grd` and `gwr`. -/
def cmsgOk (j : Job) (c : Word) (plain : Bool) : Bool :=
  let w := c.toNat
  fieldOf w 32 32 == 0 && decide (fieldOf w 29 3 ≤ 5)
    && (if w.testBit 26 then !w.testBit 27
        else decide (fieldOf w 14 2 ≤ 1) && targetOk j (fieldOf w 0 14) (fieldOf w 16 8))
    && (!plain || (!w.testBit 27 && !w.testBit 28))

/-- The job of the issuing task; a task's job stands on its device. -/
def theJob (s : State) : Except Stop Job :=
  match s.myJob with
  | some j => .ok j
  | none => .error .wait

/-! ## Weight (R176, R177) -/

/-- The issuing task gives v units away (R176). -/
def takeWeight (s : State) (v : Nat) : Except Stop State :=
  let c := s.me
  if v = 0 ∨ c.wt < v then raise .weight (BitVec.ofNat 64 v)
  else .ok (s.setMe { c with wt := c.wt - v })

/-- The record of the issuing task that outlives it. -/
def State.taskRec (s : State) (task : Nat) : Option TaskRec := s.tasks.get? task

/-- A `gst`, a `send.draw`, an arm or a disarm joins the hold of its task: the first moves one unit into it, and with no
weight faults WEIGHT, whose argument is the 1 unit asked for (R177, R261). -/
def joinHold (s : State) : Except Stop State :=
  let c := s.me
  let r := (s.taskRec c.task).getD ⟨c.job, s.myCore, c.vcore, 0, false⟩
  if r.holds = 0 then
    if c.wt = 0 then raise .weight 1
    else .ok { (s.setMe { c with wt := c.wt - 1 }) with tasks := s.tasks.set c.task { r with holds := 1, heldUnit := true } }
  else .ok { s with tasks := s.tasks.set c.task { r with holds := r.holds + 1 } }

/-! ## Descriptor pairs (R160 to R162) -/

/-- An operand of scratchpad. -/
structure Operand where
  base : Nat
  rpitch : Nat
  tpitch : Nat
  rot : Nat
  rows : Nat
  rbytes : Nat
  valid : Bool
  deriving DecidableEq, Repr, Inhabited

/-- The operand of a pair of registers (R160). -/
def operandOf (a b : Word) : Operand :=
  let x := a.toNat
  let y := b.toNat
  ⟨fieldOf x 0 20, fieldOf x 20 16, fieldOf x 36 16, fieldOf x 52 4, fieldOf y 0 16, fieldOf y 16 16,
    fieldOf x 56 8 == 0 && decide (fieldOf x 52 4 ≤ 4) && fieldOf y 32 32 == 0⟩

/-- The bank of row r. -/
def Operand.bank (o : Operand) (r : Nat) : Nat := (o.base / 65536 + r % 2 ^ o.rot) % 16

/-- The offset of byte j of row r of tile t in its bank (R161). -/
def Operand.off (o : Operand) (t r j : Nat) : Nat := o.base % 65536 + t * o.tpitch + r / 2 ^ o.rot * o.rpitch + j

/-- The tile address of byte j of row r of tile t (R161). -/
def Operand.addr (o : Operand) (t r j : Nat) : Nat := o.bank r * 65536 + o.off t r j

/-- No rows or no bytes. -/
def Operand.empty (o : Operand) : Bool := o.rows == 0 || o.rbytes == 0

/-- The banks an operand of `rows` rows touches. -/
def Operand.banks (o : Operand) (rows : Nat) : List Nat := ((List.range (min rows (2 ^ o.rot))).map o.bank).dedup

/-- The checks of R161 and R162 in their order, over `tiles` tiles of `rows` rows of `bytes` bytes, against the format
registers and the banks the job has (R284): the cause, or none. -/
def Operand.check (o : Operand) (fmts : List Word) (tbanks tiles rows bytes : Nat) : Option Cause :=
  if !o.valid then some .taddr
  else if o.rows == 0 || rows == 0 || bytes == 0 || tiles == 0 then none
  else
    let far := (List.range (min rows (2 ^ o.rot))).all (fun k =>
      let r := k + (rows - 1 - k) / 2 ^ o.rot * 2 ^ o.rot
      decide (o.off (tiles - 1) r (bytes - 1) ≤ 0xFFFF))
    let d := fmts.getD (o.base / 65536) 0
    let es := descBytes d.toNat
    if !far || (o.banks rows).any (fun b => decide (tbanks ≤ b)) then some .taddr
    else if o.base % 65536 % es ≠ 0 ∨ o.rpitch % es ≠ 0 ∨ o.tpitch % es ≠ 0 ∨ o.rbytes % es ≠ 0 then some .align
    else if (o.banks rows).any (fun b => fmts.getD b 0 != d) then some .bankfmt
    else none

/-- The bank format registers of a job on a virtual tile (R157). -/
def State.formats (s : State) (job vtile : Nat) : List Word := s.bankfmt.getD (job * 2048 + vtile) (List.replicate 16 0)

/-! ## Vector registers (R22, R23) -/

/-- A vector register is within the task's allocation (R22). -/
def vreg (s : State) (n : Nat) : Except Stop Unit := need (decide (n < s.me.v.length)) .valloc

/-- A group of w destination registers is aligned, then allocated (R23). -/
def vgroup (s : State) (n w : Nat) : Except Stop Unit := do
  need (n % w == 0) .illopnd
  need (decide (n + w ≤ s.me.v.length)) .valloc

/-- The bits of element i of width w. -/
def elemGet (v : VReg) (w i : Nat) : Nat := v.toNat / 2 ^ (w * i) % 2 ^ w

/-- The register that holds the elements of a list, the first lowest. -/
def packElems (w : Nat) (l : List Nat) : Nat := l.foldr (fun e acc => e % 2 ^ w + 2 ^ w * acc) 0

/-- The first n elements of width w of a register. -/
def elemsOf (v : VReg) (w : Nat) : Nat → List Nat
  | n => (List.range n).map (elemGet v w)

end Sys2Proof.Machine
end

