-- ==== Sys2Proof/Machine/Flags.lean ====
section
/-! DEFINITION. Every flag computation of the scalar instructions: the rounding direction, the integer results that set
DZ or OV (R34, R89, R90), and FP results with their flags (R36, R40, R95 to R98). -/

namespace Sys2Proof.Machine

/-- The rounding direction of FFLAGS (R26, R39). -/
def rmOf (s : State) : Nat := s.me.fflags.toNat % 4

/-- A value and the flags it sets. -/
abbrev Flagged := Word × Nat

/-- Signed division: the quotient and its flags (R90). -/
def divSigned (a b : Word) : Flagged :=
  if b = 0 then (BitVec.allOnes 64, flagDZ)
  else if a = 0x8000000000000000#64 ∧ b = BitVec.allOnes 64 then (a, flagOV)
  else (BitVec.ofInt 64 (a.toInt.tdiv b.toInt), 0)

/-- Signed remainder (R90). -/
def remSigned (a b : Word) : Flagged :=
  if b = 0 then (a, flagDZ)
  else if a = 0x8000000000000000#64 ∧ b = BitVec.allOnes 64 then (0, flagOV)
  else (BitVec.ofInt 64 (a.toInt.tmod b.toInt), 0)

/-- Unsigned division (R90). -/
def divUnsigned (a b : Word) : Flagged :=
  if b = 0 then (BitVec.allOnes 64, flagDZ) else (BitVec.ofNat 64 (a.toNat / b.toNat), 0)

/-- Unsigned remainder (R90). -/
def remUnsigned (a b : Word) : Flagged :=
  if b = 0 then (a, flagDZ) else (BitVec.ofNat 64 (a.toNat % b.toNat), 0)

/-- The bounds of a signed 64-bit value. -/
def minInt64 : Int := -9223372036854775808
def maxInt64 : Int := 9223372036854775807

/-- Saturates a sum or difference; OV when clamped (R89). -/
def saturated (x : Int) : Flagged :=
  (BitVec.ofInt 64 (satInt x minInt64 maxInt64), if x < minInt64 ∨ maxInt64 < x then flagOV else 0)

/-- An FP comparison's integer result; IV on a signalling NaN (R95). -/
def compared (x y : Val) (c : Bool) : Flagged := (Word.ofBool c, sigFlag [x, y])

/-- An FP value converted to an integer range (R96). -/
def toIntFlagged (rm : Nat) (lo hi : Int) (v : Val) : Flagged :=
  let r := toInteger rm lo hi false v
  (BitVec.ofInt 64 r.1, r.2)

/-- A NaN input of `fabs` or `fneg` gives the canonical NaN, IV when signalling (R95). -/
def signOp (x : Val) (y : Val) : Flagged := fpRes 0 (y, sigFlag [x])

end Sys2Proof.Machine
end

