-- ==== Sys2Proof/Machine/Scalar.lean ====
section
/-! DEFINITION. The scalar instructions: `alu`, `alu2`, `alu3`, the immediate forms, `fp` and `ffma` (R88 to R98), and the
end of a division (R90). -/

namespace Sys2Proof.Machine

/-! ## Shapes -/

/-- A producer of two sources and fixed latency. -/
def two (d a b : Name) (m : Mark) (latency : Nat) (f : Word → Word → Word) (s : State) :
    Host.Outcome State Fault Refusal :=
  issue32 m s (do
    srcs [a, b]
    dst d
    let x ← rd s 0 a
    let y ← rd s 1 b
    fall (wr s d (f x y) latency))

/-- A producer of one source and latency 1. -/
def one (d a : Name) (m : Mark) (f : Word → Word) (s : State) : Host.Outcome State Fault Refusal :=
  issue32 m s (do
    srcs [a]
    dst d
    let x ← rd s 0 a
    fall (wr s d (f x) 1))

/-- A producer of two sources that sets flags. -/
def twoFlagged (d a b : Name) (m : Mark) (latency : Nat) (f : Word → Word → Flagged) (s : State) :
    Host.Outcome State Fault Refusal :=
  issue32 m s (do
    srcs [a, b]
    dst d
    let x ← rd s 0 a
    let y ← rd s 1 b
    let r := f x y
    fall (setFlags (wr s d r.1 latency) r.2))

/-- A producer of one source that sets flags. -/
def oneFlagged (d a : Name) (m : Mark) (latency : Nat) (f : Word → Flagged) (s : State) :
    Host.Outcome State Fault Refusal :=
  issue32 m s (do
    srcs [a]
    dst d
    let x ← rd s 0 a
    let r := f x
    fall (setFlags (wr s d r.1 latency) r.2))

/-- An instruction that also reads its destination, which may be s0 to s31 or z (R88). -/
def three (d a b : Name) (m : Mark) (latency : Nat) (f : Word → Word → Word → Flagged) (s : State) :
    Host.Outcome State Fault Refusal :=
  issue32 m s (do
    srcs [a, b]
    need (updatable d) .illopnd
    let x ← rd s 0 a
    let y ← rd s 1 b
    let z ← rd s 2 d
    let r := f z x y
    fall (setFlags (wr s d r.1 latency) r.2))

/-- The targets of a scalar result through a destination name: none for z. -/
def scalarTargets (s : State) (d : Name) : List Target := (targetOf s.me d).toList

/-- Adds an outstanding operation of the issuing context (R29), what it read at issue being given. A scalar result takes
its history entry now (R24). -/
def startVec (s : State) (kind : OpKind) (mask : MaskReg) (a b : Word) (srcs : List Nat) (tgts : List Target)
    (waits : List Nat) (acc : Nat) : State :=
  let c := s.me
  let o : Op := ⟨s.serial, s.cur, c.task, kind, s.clk, mask, a, b, c.vfmt, rmOf s, srcs, [], tgts, false, 0, 0, 0,
    [], [], 0, false, 0, [], 0, waits, acc, segOfStart c, c.know, c.relFences⟩
  let c1 := { c with
    outs := c.outs ++ [s.serial]
    hptr := if tgts.any (fun t => (entryOf t).isSome) then c.hptr + 1 else c.hptr }
  { (s.setMe c1) with ops := s.ops ++ [o], serial := s.serial + 1 }

/-- Adds an outstanding operation without vector operands. -/
def startOp (s : State) (kind : OpKind) (a b : Word) (tgts : List Target) (waits : List Nat) (acc : Nat) : State :=
  startVec s kind 0 a b [] tgts waits acc

/-- A division: outstanding, its flags set when the result is written (R89, R90). -/
def division (d a b : Name) (m : Mark) (f : Word → Word → Flagged) (s : State) : Host.Outcome State Fault Refusal :=
  issue32 m s (do
    srcs [a, b]
    dst d
    let x ← rd s 0 a
    let y ← rd s 1 b
    let r := f x y
    fall (startOp s (.divide r.1 r.2) 0 0 (scalarTargets s d) [] 0))

/-! ## alu (R89) -/

/-- `alu.add` -/
def execAluAdd (d a b : Name) (m : Mark) (s : State) := two d a b m 1 (fun x y => x + y) s
/-- `alu.sub` -/
def execAluSub (d a b : Name) (m : Mark) (s : State) := two d a b m 1 (fun x y => x - y) s
/-- `alu.and` -/
def execAluAnd (d a b : Name) (m : Mark) (s : State) := two d a b m 1 (fun x y => x &&& y) s
/-- `alu.or` -/
def execAluOr (d a b : Name) (m : Mark) (s : State) := two d a b m 1 (fun x y => x ||| y) s
/-- `alu.xor` -/
def execAluXor (d a b : Name) (m : Mark) (s : State) := two d a b m 1 (fun x y => x ^^^ y) s
/-- `alu.andn` -/
def execAluAndn (d a b : Name) (m : Mark) (s : State) := two d a b m 1 (fun x y => x &&& ~~~y) s

/-- b[5:0], the amount of a shift. -/
def amount (b : Word) : Nat := b.toNat % 64

/-- Rotation to the right. -/
def rotRight (x : Word) (n : Nat) : Word := x.rotateRight n

/-- `alu.shl` -/
def execAluShl (d a b : Name) (m : Mark) (s : State) := two d a b m 1 (fun x y => x <<< amount y) s
/-- `alu.shr` -/
def execAluShr (d a b : Name) (m : Mark) (s : State) := two d a b m 1 (fun x y => x >>> amount y) s
/-- `alu.sra` -/
def execAluSra (d a b : Name) (m : Mark) (s : State) := two d a b m 1 (fun x y => x.sshiftRight (amount y)) s
/-- `alu.rot` -/
def execAluRot (d a b : Name) (m : Mark) (s : State) := two d a b m 1 (fun x y => rotRight x (amount y)) s
/-- `alu.min` -/
def execAluMin (d a b : Name) (m : Mark) (s : State) := two d a b m 1 (fun x y => if x.toInt ≤ y.toInt then x else y) s
/-- `alu.max` -/
def execAluMax (d a b : Name) (m : Mark) (s : State) := two d a b m 1 (fun x y => if x.toInt ≤ y.toInt then y else x) s
/-- `alu.minu` -/
def execAluMinu (d a b : Name) (m : Mark) (s : State) := two d a b m 1 (fun x y => if x.toNat ≤ y.toNat then x else y) s
/-- `alu.maxu` -/
def execAluMaxu (d a b : Name) (m : Mark) (s : State) := two d a b m 1 (fun x y => if x.toNat ≤ y.toNat then y else x) s
/-- `alu.slt` -/
def execAluSlt (d a b : Name) (m : Mark) (s : State) := two d a b m 1 (fun x y => Word.ofBool (decide (x.toInt < y.toInt))) s
/-- `alu.sltu` -/
def execAluSltu (d a b : Name) (m : Mark) (s : State) := two d a b m 1 (fun x y => Word.ofBool (decide (x.toNat < y.toNat))) s

/-! ## alu2 (R89, R90) -/

/-- Number of one bits among the low n. -/
def popCount (x : Nat) : Nat → Nat
  | 0 => 0
  | n + 1 => (x.testBit n).toNat + popCount x n

/-- Trailing zero bits of a nonzero number below 2^n. -/
def trailing (x : Nat) : Nat → Nat
  | 0 => 0
  | n + 1 => if x % 2 = 1 then 0 else 1 + trailing (x / 2) n

/-- `alu2.seq` -/
def execAlu2Seq (d a b : Name) (m : Mark) (s : State) := two d a b m 1 (fun x y => Word.ofBool (x == y)) s
/-- `alu2.sne` -/
def execAlu2Sne (d a b : Name) (m : Mark) (s : State) := two d a b m 1 (fun x y => Word.ofBool (x != y)) s
/-- `alu2.clz` -/
def execAlu2Clz (d a : Name) (m : Mark) (s : State) :=
  one d a m (fun x => BitVec.ofNat 64 (if x = 0 then 64 else 63 - x.toNat.log2)) s
/-- `alu2.ctz` -/
def execAlu2Ctz (d a : Name) (m : Mark) (s : State) := one d a m (fun x => BitVec.ofNat 64 (trailing x.toNat 64)) s
/-- `alu2.popc` -/
def execAlu2Popc (d a : Name) (m : Mark) (s : State) := one d a m (fun x => BitVec.ofNat 64 (popCount x.toNat 64)) s
/-- `alu2.sext.b` -/
def execAlu2SextB (d a : Name) (m : Mark) (s : State) := one d a m (fun x => (x.setWidth 8).signExtend 64) s
/-- `alu2.sext.h` -/
def execAlu2SextH (d a : Name) (m : Mark) (s : State) := one d a m (fun x => (x.setWidth 16).signExtend 64) s
/-- `alu2.sext.w` -/
def execAlu2SextW (d a : Name) (m : Mark) (s : State) := one d a m (fun x => (x.setWidth 32).signExtend 64) s
/-- `alu2.zext.b` -/
def execAlu2ZextB (d a : Name) (m : Mark) (s : State) := one d a m (fun x => (x.setWidth 8).setWidth 64) s
/-- `alu2.zext.h` -/
def execAlu2ZextH (d a : Name) (m : Mark) (s : State) := one d a m (fun x => (x.setWidth 16).setWidth 64) s
/-- `alu2.zext.w` -/
def execAlu2ZextW (d a : Name) (m : Mark) (s : State) := one d a m (fun x => (x.setWidth 32).setWidth 64) s
/-- `alu2.mul` -/
def execAlu2Mul (d a b : Name) (m : Mark) (s : State) := two d a b m 3 (fun x y => x * y) s
/-- `alu2.mulh` -/
def execAlu2Mulh (d a b : Name) (m : Mark) (s : State) :=
  two d a b m 3 (fun x y => BitVec.ofInt 64 ((x.toInt * y.toInt) / 2 ^ 64)) s
/-- `alu2.mulhu` -/
def execAlu2Mulhu (d a b : Name) (m : Mark) (s : State) :=
  two d a b m 3 (fun x y => BitVec.ofNat 64 (x.toNat * y.toNat / 2 ^ 64)) s
/-- `alu2.div` -/
def execAlu2Div (d a b : Name) (m : Mark) (s : State) := division d a b m divSigned s
/-- `alu2.divu` -/
def execAlu2Divu (d a b : Name) (m : Mark) (s : State) := division d a b m divUnsigned s

/-! ## alu3 (R89 to R91) -/

/-- The position of the field of `bext` and `bins` (R91). -/
def fieldPos (b : Word) : Nat := b.toNat % 64
/-- The width of the field of `bext` and `bins` (R91). -/
def fieldWidth (b : Word) : Nat := fieldOf b.toNat 6 6 + 1

/-- The mask of a field, cut at bit 63 (R91). -/
def fieldMask (b : Word) : Word := BitVec.ofNat 64 ((2 ^ fieldWidth b - 1) * 2 ^ fieldPos b)

/-- `alu3.rem` -/
def execAlu3Rem (d a b : Name) (m : Mark) (s : State) := division d a b m remSigned s
/-- `alu3.remu` -/
def execAlu3Remu (d a b : Name) (m : Mark) (s : State) := division d a b m remUnsigned s
/-- `alu3.sel` -/
def execAlu3Sel (d a b : Name) (m : Mark) (s : State) := three d a b m 1 (fun z x y => (if z ≠ 0 then x else y, 0)) s
/-- `alu3.bext` -/
def execAlu3Bext (d a b : Name) (m : Mark) (s : State) :=
  two d a b m 1 (fun x y => (x >>> fieldPos y) &&& BitVec.ofNat 64 (2 ^ fieldWidth y - 1)) s
/-- `alu3.bins` -/
def execAlu3Bins (d a b : Name) (m : Mark) (s : State) :=
  three d a b m 1 (fun z x y => ((z &&& ~~~fieldMask y) ||| ((x <<< fieldPos y) &&& fieldMask y), 0)) s
/-- `alu3.addsat` -/
def execAlu3Addsat (d a b : Name) (m : Mark) (s : State) := twoFlagged d a b m 1 (fun x y => saturated (x.toInt + y.toInt)) s
/-- `alu3.subsat` -/
def execAlu3Subsat (d a b : Name) (m : Mark) (s : State) := twoFlagged d a b m 1 (fun x y => saturated (x.toInt - y.toInt)) s
/-- `alu3.absdiff` -/
def execAlu3Absdiff (d a b : Name) (m : Mark) (s : State) :=
  two d a b m 1 (fun x y => BitVec.ofNat 64 (x.toInt - y.toInt).natAbs) s

/-! ## Immediate forms (R92 to R94) -/

/-- A format-I instruction, which accepts prefixes. -/
def immForm (d a : Name) (i : BitVec 10) (m : Mark) (f : Word → Word → Word) (s : State) :
    Host.Outcome State Fault Refusal :=
  issue 4 m.g.val m.s s (do
    begin_ s 4 true
    srcs [a]
    dst d
    let x ← rd s 0 a
    fall (wr s d (f x (immWord s i)) 1))

/-- `addi` -/
def execAddi (d a : Name) (i : BitVec 10) (m : Mark) (s : State) := immForm d a i m (fun x y => x + y) s
/-- `andi` -/
def execAndi (d a : Name) (i : BitVec 10) (m : Mark) (s : State) := immForm d a i m (fun x y => x &&& y) s
/-- `ori` -/
def execOri (d a : Name) (i : BitVec 10) (m : Mark) (s : State) := immForm d a i m (fun x y => x ||| y) s
/-- `xori` -/
def execXori (d a : Name) (i : BitVec 10) (m : Mark) (s : State) := immForm d a i m (fun x y => x ^^^ y) s
/-- `slti` -/
def execSlti (d a : Name) (i : BitVec 10) (m : Mark) (s : State) :=
  immForm d a i m (fun x y => Word.ofBool (decide (x.toInt < y.toInt))) s
/-- `sltiu` -/
def execSltiu (d a : Name) (i : BitVec 10) (m : Mark) (s : State) :=
  immForm d a i m (fun x y => Word.ofBool (decide (x.toNat < y.toNat))) s
/-- `shi.shl` -/
def execShiShl (d a : Name) (n : BitVec 6) (m : Mark) (s : State) := one d a m (fun x => x <<< n.toNat) s
/-- `shi.shr` -/
def execShiShr (d a : Name) (n : BitVec 6) (m : Mark) (s : State) := one d a m (fun x => x >>> n.toNat) s
/-- `shi.sra` -/
def execShiSra (d a : Name) (n : BitVec 6) (m : Mark) (s : State) := one d a m (fun x => x.sshiftRight n.toNat) s
/-- `shi.rot` -/
def execShiRot (d a : Name) (n : BitVec 6) (m : Mark) (s : State) := one d a m (fun x => rotRight x n.toNat) s

/-- `movi` (R94) -/
def execMovi (d : Name) (i : BitVec 16) (m : Mark) (s : State) : Host.Outcome State Fault Refusal :=
  issue 4 m.g.val m.s s (do
    begin_ s 4 true
    dst d
    fall (wr s d (immWord s i) 1))

/-! ## Scalar FP32 (R95 to R98) -/

/-- An FP operation of two FP32 sources, latency 4. -/
def fpTwo (d a b : Name) (m : Mark) (f : Nat → Val → Val → Flagged) (s : State) : Host.Outcome State Fault Refusal :=
  twoFlagged d a b m 4 (fun x y => f (rmOf s) (fpSrc x) (fpSrc y)) s

/-- An FP operation of one FP32 source, latency 4. -/
def fpOne (d a : Name) (m : Mark) (f : Nat → Val → Flagged) (s : State) : Host.Outcome State Fault Refusal :=
  oneFlagged d a m 4 (fun x => f (rmOf s) (fpSrc x)) s

/-- `fp.fadd` -/
def execFpFadd (d a b : Name) (m : Mark) (s : State) := fpTwo d a b m (fun rm x y => fpRes rm (x.add rm y)) s
/-- `fp.fsub` -/
def execFpFsub (d a b : Name) (m : Mark) (s : State) := fpTwo d a b m (fun rm x y => fpRes rm (x.add rm y.neg)) s
/-- `fp.fmul` -/
def execFpFmul (d a b : Name) (m : Mark) (s : State) := fpTwo d a b m (fun rm x y => fpRes rm (x.mul y)) s
/-- `fp.fmin` -/
def execFpFmin (d a b : Name) (m : Mark) (s : State) := fpTwo d a b m (fun rm x y => fpRes rm (Val.minmax false x y)) s
/-- `fp.fmax` -/
def execFpFmax (d a b : Name) (m : Mark) (s : State) := fpTwo d a b m (fun rm x y => fpRes rm (Val.minmax true x y)) s
/-- `fp.fabs` -/
def execFpFabs (d a : Name) (m : Mark) (s : State) := fpOne d a m (fun _ x => signOp x x.abs) s
/-- `fp.fneg` -/
def execFpFneg (d a : Name) (m : Mark) (s : State) := fpOne d a m (fun _ x => signOp x x.neg) s
/-- `fp.feq` -/
def execFpFeq (d a b : Name) (m : Mark) (s : State) := fpTwo d a b m (fun _ x y => compared x y (x.eq y)) s
/-- `fp.flt` -/
def execFpFlt (d a b : Name) (m : Mark) (s : State) := fpTwo d a b m (fun _ x y => compared x y (x.lt y)) s
/-- `fp.fle` -/
def execFpFle (d a b : Name) (m : Mark) (s : State) := fpTwo d a b m (fun _ x y => compared x y (x.le y)) s
/-- `fp.fcvt.i2f` -/
def execFpFcvtI2f (d a : Name) (m : Mark) (s : State) :=
  oneFlagged d a m 4 (fun x => fpRes (rmOf s) (.ofInt x.toInt, 0)) s
/-- `fp.fcvt.u2f` -/
def execFpFcvtU2f (d a : Name) (m : Mark) (s : State) :=
  oneFlagged d a m 4 (fun x => fpRes (rmOf s) (.ofInt x.toNat, 0)) s
/-- `fp.fcvt.f2i` -/
def execFpFcvtF2i (d a : Name) (m : Mark) (s : State) := fpOne d a m (fun rm x => toIntFlagged rm minInt64 maxInt64 x) s
/-- `fp.fcvt.f2u` -/
def execFpFcvtF2u (d a : Name) (m : Mark) (s : State) := fpOne d a m (fun rm x => toIntFlagged rm 0 18446744073709551615 x) s
/-- `fp.fsqrt` -/
def execFpFsqrt (d a : Name) (m : Mark) (s : State) := fpOne d a m (fun rm x => fpRes rm x.sqrt) s
/-- `fp.fclass` -/
def execFpFclass (d a : Name) (m : Mark) (s : State) :=
  oneFlagged d a m 4 (fun x => (BitVec.ofNat 64 (fclass (x.toNat % 2 ^ 32)), 0)) s

/-- `ffma` (R98) -/
def execFfma (d a b : Name) (m : Mark) (s : State) :=
  three d a b m 4 (fun z x y => fpRes (rmOf s) (Val.fma (rmOf s) (fpSrc x) (fpSrc y) (fpSrc z))) s

end Sys2Proof.Machine
end

