-- ==== Sys2Proof/Machine/Control.lean ====
section
/-! DEFINITION. Branches, jumps and calls, the `ctl` major, loops, the LIMM prefix, and the end of a task (R69 to R71, R99 to
R105, R31). -/

namespace Sys2Proof.Machine

/-- A taken transfer to a target: below 0 or at or above 0x2_0000 it faults ILLOP (R101). -/
def transfer (t : Int) : Except Stop Nat :=
  if t < 0 ∨ 0x20000 ≤ t then raise .illop 0 else .ok t.toNat

/-- The target of an offset of parcels from the instruction's first parcel (R60, R61). -/
def target (s : State) (off : Int) : Int := (s.me.pc : Int) + 2 * off

/-- A branch (R99). -/
def branchIf (c : Bool) (s : State) (off : Int) : Res :=
  if c then do
    let t ← transfer (target s off)
    .ok (s, .jump t)
  else fall s

/-- A branch of format B. -/
def branch (a b : Name) (o : BitVec 10) (m : Mark) (f : Word → Word → Bool) (s : State) :
    Host.Outcome State Fault Refusal :=
  issue32 m s (do
    srcs [a, b]
    let x ← rd s 0 a
    let y ← rd s 1 b
    branchIf (f x y) s o.toInt)

/-- `beq` -/
def execBeq (a b : Name) (o : BitVec 10) (m : Mark) (s : State) := branch a b o m (fun x y => x == y) s
/-- `bne` -/
def execBne (a b : Name) (o : BitVec 10) (m : Mark) (s : State) := branch a b o m (fun x y => x != y) s
/-- `blt` -/
def execBlt (a b : Name) (o : BitVec 10) (m : Mark) (s : State) := branch a b o m (fun x y => decide (x.toInt < y.toInt)) s
/-- `bge` -/
def execBge (a b : Name) (o : BitVec 10) (m : Mark) (s : State) := branch a b o m (fun x y => decide (y.toInt ≤ x.toInt)) s
/-- `bltu` -/
def execBltu (a b : Name) (o : BitVec 10) (m : Mark) (s : State) := branch a b o m (fun x y => decide (x.toNat < y.toNat)) s
/-- `bgeu` -/
def execBgeu (a b : Name) (o : BitVec 10) (m : Mark) (s : State) := branch a b o m (fun x y => decide (y.toNat ≤ x.toNat)) s

/-- `jmp` (R100) -/
def execJmp (o : BitVec 22) (m : Mark) (s : State) : Host.Outcome State Fault Refusal :=
  issue32 m s (do
    let t ← transfer (target s o.toInt)
    .ok (s, .jump t))

/-- The link of a `call`: s31, with no history entry (R25, R100). A write of s31 still pending and landing no later is overtaken; one of
an outstanding operation races (R28). -/
def writeLink (s : State) (v : Word) : State :=
  let c := s.me
  let c1 := { c with pend := c.pend.map (fun (p : Pending) => p.overtaken (.s 31 0) (s.clk + 1)) }
  (s.setMe { c1 with s := c1.s.set 31 v, ecc := c1.ecc.filter (· != 31) }).landed s.cur 0 [(31, 1)]

/-- `call` (R100) -/
def execCall (o : BitVec 22) (m : Mark) (s : State) : Host.Outcome State Fault Refusal :=
  issue32 m s (do
    let t ← transfer (target s o.toInt)
    .ok (writeLink s (BitVec.ofNat 64 (s.me.pc + 4)), .callTo t))

/-- A transfer to an address in a register: ALIGN before ILLOP (R102). -/
def jumpTo (s : State) (t : Word) : Res :=
  if t.toNat % 2 = 1 then raise .align t
  else do
    let p ← transfer t.toNat
    .ok (s, .jump p)

/-- `ctl.jr` (R102) -/
def execCtlJr (a : Name) (m : Mark) (s : State) : Host.Outcome State Fault Refusal :=
  issue32 m s (do
    srcs [a]
    let t ← rd s 0 a
    jumpTo s t)

/-- The effect of `ctl.ret`: a transfer to s31 (R102). -/
def returnTo (s : State) : Res := do
  let t ← rd s 0 (.s 31)
  jumpTo s t

/-- `ctl.ret` (R102) -/
def execCtlRet (m : Mark) (s : State) : Host.Outcome State Fault Refusal := issue32 m s (returnTo s)

/-- The effect of `ctl.end`: the task is ending (R31). -/
def ending (s : State) : State := let c := s.me; s.setMe { c with ending := true }

/-- The outcome of `ctl.end`: with nothing outstanding the task ends at once (R31). -/
def releaseNext (s : State) (o : Host.Outcome State Fault Refusal) : Host.Outcome State Fault Refusal :=
  match o with
  | .next t => .next (t.release s.cur)
  | .fault f => .fault f
  | .refused r => .refused r

/-- `ctl.end` (R102, R31) -/
def execCtlEnd (m : Mark) (s : State) : Host.Outcome State Fault Refusal := releaseNext s (issue32 m s (fall (ending s)))

/-- `ctl.nop` (R102) -/
def execCtlNop (m : Mark) (s : State) : Host.Outcome State Fault Refusal := issue32 m s (fall s)

/-- `ctl.trap` (R102) -/
def execCtlTrap (a : Name) (m : Mark) (s : State) : Host.Outcome State Fault Refusal :=
  issue32 m s (do
    srcs [a]
    let x ← rd s 0 a
    raise .swtrap x)

/-- `loop` (R103) -/
def execLoop (a : Name) (i : BitVec 10) (m : Mark) (s : State) : Host.Outcome State Fault Refusal :=
  issue32 m s (do
    srcs [a]
    let n ← rd s 0 a
    let start := s.me.pc + 4
    let stop := start + 2 * i.toNat
    if n = 0 then .ok (s, .skip stop)
    else
      need (decide (s.me.loops.length < 2)) .illop
      let c := s.me
      .ok (s.setMe { c with loops := ⟨start, stop, n.toNat⟩ :: c.loops }, .enter start))

/-- A LIMM prefix (R69, R71): its payload waits for the instruction it extends, which issues in the same clk. It faults
ILLOP where a third prefix would stand, where the body of the innermost loop ends at or within it, or where its next
parcel lies at or above 0x2_0000. -/
def execLimm (p : BitVec 22) (s : State) : Host.Outcome State Fault Refusal :=
  let c := s.me
  let atEnd : Bool := match c.loops with
    | [] => false
    | t :: _ => t.stop == c.pc + 4 || t.stop == c.pc + 2
  if c.limm.length < 2 ∧ !atEnd ∧ c.pc + 4 < 0x20000 then
    .next { (s.setMe { c with
      pc := c.pc + 4
      limm := c.limm ++ [p.toNat]
      limmPc := if c.limm.isEmpty then c.pc else c.limmPc }) with limmOpen := some s.cur, free := s.free + 1 }
  else .next { (s.trapNow s.cur ⟨.illop, 0, 0, 0⟩ (segNow c)) with free := s.free + 1 }

/-- A parcel pattern that is no instruction, or a fetch outside the code, faults ILLOP (R73). -/
def execNotAnInstruction (s : State) : Host.Outcome State Fault Refusal :=
  .next { (s.trapNow s.cur ⟨.illop, 0, 0, 0⟩ (segNow s.me)) with free := s.free + 1 }

/-- The task of a context that has reached `ctl.end` ends once nothing of it is outstanding (R31); where a start-time
fault waits, it is reported instead (R119). -/
def execTaskEnd (ctx : Nat) (s : State) : Host.Outcome State Fault Refusal :=
  match s.ctxs.get? ctx with
  | some c => if c.ending then .next (s.release ctx) else .next s
  | none => .next s

/-- The watchdog of a task passes its routine's budget: BUDGET with the budget as its argument (R153, R332). -/
def execBudgetExpiry (ctx : Nat) (s : State) : Host.Outcome State Fault Refusal :=
  match s.ctxs.get? ctx with
  | some c =>
    if c.budget ≠ 0 ∧ c.budget < c.watchdog ∧ !c.dying then
      .next { (s.trapNow ctx ⟨.budget, 0, 0, BitVec.ofNat 64 c.budget⟩ (segNow c)) with free := s.free + 1 }
    else .next s
  | none => .next s

/-- A division writes its result and flags; it is readable at most 36 clk after issue (R32, R89, R90). -/
def execDivideResult (op : Nat) (s : State) : Host.Outcome State Fault Refusal :=
  match s.op? op with
  | some o =>
    match o.kind with
    | .divide v f =>
      if o.issued < s.clk then
        let s1 := s.writeResults o (o.tgts.map (fun t => (t, v.toNat))) f
        .next { (s1.settleOp o) with free := s.free + 1 }
      else .next s
    | _ => .next s
  | none => .next s

end Sys2Proof.Machine
end

