-- ==== Sys2Proof/Machine/LocalMem.lean ====
section
/-! DEFINITION. Scalar accesses of local memory and of the tile scratchpad (R106 to R110), and the order in which a bank
serves the scalar ports (R156). -/

namespace Sys2Proof.Machine

/-! ## Who makes an access that leaves the core, and what it waits for (R248 to R250) -/

/-- The party that makes a request or a send: the issuing task, or a trigger unit in the name of the posting task (R220). -/
structure Issuer where
  job : Nat
  task : Nat
  core : Nat
  vcore : Nat
  know : Know
  fences : List RelFence
  held : List Nat
  queue : Nat
  post : Nat
  deriving DecidableEq, Repr

/-- The issuing task. -/
def State.issuer (s : State) : Issuer :=
  let c := s.me
  ⟨c.job, c.task, s.myCore, c.vcore, c.know, c.relFences, c.acqLoads, s.myCore + 1, 0⟩

/-- The NI of an issuer's tile. -/
def Issuer.ni (w : Issuer) : Endpoint := .ni (tileOf w.core)

/-- The accesses that an access of a path, leaving the core, waits for: those of the release fences that hold it, the
acquire loads not yet performed, and for a release those its scope covers. -/
def Issuer.waits (w : Issuer) (s : State) (path : Path) (rel : Option Scope) : List Nat :=
  (passing w.fences path).flatMap (·.waits) ++ w.held
    ++ (match rel with
        | some sc => s.releaseWaits w.task sc
        | none => [])

/-- The release an access of an issuer is, at a scope. -/
def Issuer.release (w : Issuer) (s : State) (path : Path) (sc : Scope) : Rel :=
  releaseOf s w.task w.core w.know w.fences path sc (s.releaseWaits w.task sc)

/-- What the issuing task's access of a path waits for. -/
def heldBy (s : State) (path : Path) (rel : Option Scope) : List Nat := s.issuer.waits s path rel

/-- The release an access of the issuing task is, at a scope. -/
def myRelease (s : State) (path : Path) (sc : Scope) : Rel := s.issuer.release s path sc

/-! ## Local memory (R106, R107) -/

/-- The first byte of a range with an uncorrectable error. -/
def firstBad (l : List Nat) (a n : Nat) : Option Nat := (List.range n).find? (fun i => l.contains (a + i))

/-- What a scalar load of the issuing task reads local memory as: its acquire and full fences order it (R250). -/
def localReader (s : State) : Reader := readerOf s .core s.me.task (knowNear s.me.know s.me.relFences)

/-- A local load: latency 3, an acquire at core scope with Q (R106, R249). A byte with an uncorrectable error is reported
like a start-time fault: no register is written, and the producer's history entry stays as it was (R24, R331). A load that issues after
an acquire load of scratchpad whose read is still to come is performed at its issue all the same: the core does not stop issue (R249; log
47: DESIGN CHOICE). -/
def loadLocal (d : Name) (ea : Int) (size : Nat) (x q : Bool) (s : State) : Res := do
  let addr ← checkLocal (localEnd s) ea size
  let c := s.me
  let flat := locAddr c.job c.vcore addr
  match firstBad s.eccLocal flat size with
  | some i =>
    let t : Trap := ⟨.eccloc, 1, 0, BitVec.ofNat 64 (addr + i)⟩
    let c1 := c.noteFault s.serial (segOfStart c) t
    fall ({ s with serial := s.serial + 1 }.setMe (if (targetOf c d).isSome then c1.takeEntry else c1))
  | none =>
    let r := localReader s
    let v := leNat (s.readBytes r .loc flat size 10)
    let s1 := wr s d (extend x size v) 3
    let c1 := s1.me
    fall (if q then s1.setMe { c1 with know := c1.know.merge (gained s .core s.myCore .loc flat (s.releaseRead r .loc flat size 10)) }
      else s1)

/-- A local store: performed at issue; a release at core scope with Q, which waits for the outstanding vector accesses to
local memory (R106, R248). -/
def storeLocal (d : Name) (ea : Int) (size : Nat) (q : Bool) (s : State) : Res := do
  let addr ← checkLocal (localEnd s) ea size
  let v ← rd s 1 d
  let c := s.me
  ready (!q || !s.anyWaiting (s.releaseWaits c.task .core))
  let rel := if q then some (myRelease s .core .core) else none
  fall (s.writeBytes .loc (locAddr c.job c.vcore addr) (bytesOfNat v.toNat size) .core c.task 0 rel)

/-- `ldl` (R106); in a routine marked PRECISE it parks its context (R334). -/
def execLdl (d a : Name) (o : BitVec 6) (z : Size) (x q : Bool) (m : Mark) (s : State) :
    Host.Outcome State Fault Refusal :=
  issue 4 m.g.val (m.s || s.me.precise) s (do
    begin_ s 4 true
    srcs [a]
    dst d
    let base ← rd s 0 a
    loadLocal d (effective s base o z) (sizeOf_ z) x q s)

/-- `stl` (R106) -/
def execStl (d a : Name) (o : BitVec 6) (z : Size) (q : Bool) (m : Mark) (s : State) : Host.Outcome State Fault Refusal :=
  issue 4 m.g.val m.s s (do
    begin_ s 4 true
    srcs [a]
    need (updatable d) .illopnd
    let base ← rd s 0 a
    storeLocal d (effective s base o z) (sizeOf_ z) q s)

/-! ## Scratchpad scalars (R108, R109) -/

/-- The locations of n bytes at a tile address of the issuing task's virtual tile, the trigger window included. -/
def tileLocs (s : State) (a n : Nat) : List (Space × Nat × Nat) :=
  let flat := scratchAddr s.me.job (s.me.vcore / 8) a
  [(.scratch, flat, flat + n)]

/-- `ldt` (R108): outstanding; an acquire at tile scope with Q. It stays behind the earlier accesses of its task to the same bytes
(R247), and in a routine marked PRECISE it parks its context (R334). -/
def execLdt (d a : Name) (o : BitVec 6) (z : Size) (x q : Bool) (m : Mark) (s : State) :
    Host.Outcome State Fault Refusal :=
  issue 4 m.g.val (m.s || s.me.precise) s (do
    begin_ s 4 true
    srcs [a]
    dst d
    let base ← rd s 0 a
    let ea := effective s base o z
    let _ ← checkTile (tileEnd s) ea z
    ready (!s.countFull s.me.task .tile)
    let locs := tileLocs s ea.toNat (sizeOf_ z)
    let waits := heldBy s .core none ++ s.overlapping s.me.task .core locs
    let acc := s.serial
    let s1 := s.newAccAt s.me.task .tile .core locs
    let s2 := startOp s1 (.ldt ea.toNat (sizeOf_ z) x q) 0 0 (scalarTargets s1 d) waits acc
    let c := s2.me
    fall (if q then s2.setMe { c with acqLoads := c.acqLoads ++ [acc], know := c.know ++ [(acc, 0)] } else s2))

/-- `stt` (R108, R109): posted, neither outstanding nor a producer; a release at tile scope with Q. -/
def execStt (d a : Name) (o : BitVec 6) (z : Size) (q : Bool) (m : Mark) (s : State) : Host.Outcome State Fault Refusal :=
  issue 4 m.g.val m.s s (do
    begin_ s 4 true
    srcs [a]
    need (updatable d) .illopnd
    let base ← rd s 0 a
    let ea := effective s base o z
    let _ ← checkTile (tileEnd s) ea z
    let v ← rd s 1 d
    let c := s.me
    ready (!s.countFull c.task .tile)
    let locs := tileLocs s ea.toNat (sizeOf_ z)
    let rel := if q then some (myRelease s .core .tile) else none
    let waits := heldBy s .core (if q then some .tile else none) ++ s.overlapping c.task .core locs
    let s1 := s.newAccAt c.task .tile .core locs
    let st : TileStore := ⟨s.serial, s.myCore, c.task, c.job, c.vcore / 8, ea.toNat, bytesOfNat v.toNat (sizeOf_ z),
      s.clk, rel, waits, s.serial⟩
    fall { s1 with stores := s1.stores ++ [st] })

/-! ## The banks (R110, R156) -/

/-- A request at a bank: its place in the order of R156, its bank (16 stands for the trigger window, which is none), the clk from
which it stands there at the latest, its number, and the accesses it waits for. -/
structure BankReq where
  port : Nat
  bank : Nat
  at_ : Nat
  id : Nat
  waits : List Nat
  deriving DecidableEq, Repr

/-- The places of R156 beside the scalar ports of cores 0 to 7 and lane groups 8 to 11. -/
def portArrayRead : Nat := 12
def portArrayDrain : Nat := 13
def portLanding : Nat := 14
def portSource : Nat := 15
def portExchange : Nat := 16

/-- The request of an `ldt`. -/
def loadReq (o : Op) (a : Nat) : BankReq := ⟨coreOf o.ctx % 8, a / 65536, o.issued + 8, o.id, o.waits⟩

/-- The request of an `stt`. -/
def storeReq (t : TileStore) : BankReq := ⟨t.core % 8, t.addr / 65536, t.issued + 8, t.id, t.waits⟩

/-- The request an operation of a tile has at a bank: that of an `ldt` until it is granted, and that of the next chunk of a vector
operation. -/
def opReq (tile : Nat) (o : Op) : Option BankReq :=
  if tileOf (coreOf o.ctx) ≠ tile then none
  else match o.kind, o.started, o.reqs with
    | .ldt a _ _ _, false, _ => some (loadReq o a)
    | .vector _, true, some b :: _ => some ⟨8 + o.lane, b, o.nextAt, o.id, []⟩
    | _, _, _ => none

/-- The requests of a tile's array: a line of its step in each bank, and the next line of the row it writes. -/
def arrayReqs (t : Tile) : List BankReq :=
  match t.arrayRun with
  | some r => r.lines.dedup.map (fun b => (⟨portArrayRead, b, r.lineFrom, 0, []⟩ : BankReq))
      ++ (r.out.take 1).map (fun e => (⟨portArrayDrain, e.1 / 65536, r.lastRow, 0, []⟩ : BankReq))
  | none => []

/-- The requests of a tile not yet granted. -/
def bankReqs (s : State) (tile : Nat) : List BankReq :=
  s.ops.filterMap (opReq tile) ++ (s.stores.filter (fun t => tileOf t.core == tile)).map storeReq ++ arrayReqs (s.tile tile)

/-- A request has reached its bank, or may have: it is not held, and none of its requester's earlier ones to that bank that is not held
stands before it (R110, R156). -/
def reaches (s : State) (all : List BankReq) (r : BankReq) : Bool :=
  !s.anyWaiting r.waits
    && !(all.any (fun q => decide (q.id < r.id) && q.port == r.port && q.bank == r.bank && !s.anyWaiting q.waits))

/-- A request that stands at its bank in this clk. -/
def standing (s : State) (all : List BankReq) (r : BankReq) : Bool := decide (r.at_ ≤ s.clk) && reaches s all r

/-- How far a requester stands behind a bank's pointer. -/
def Tile.behind (t : Tile) (bank port : Nat) : Nat := (port + 17 - t.bankPtr.getD bank 0) % 17

/-- A bank serves an access in this clk. -/
def Tile.bankTaken (t : Tile) (bank clk : Nat) : Bool :=
  match t.bankClk.getD bank none with
  | some c => decide (clk ≤ c)
  | none => false

/-- A bank may grant a requester in this clk: it has granted none, and no other requester that stands there comes before it from the
pointer on (R156). -/
def bankOpen (s : State) (tile bank port : Nat) : Bool :=
  let t := s.tile tile
  let all := bankReqs s tile
  decide (16 ≤ bank) || (!t.bankTaken bank s.clk
    && !(all.any (fun q => q.bank == bank && q.port != port && decide (t.behind bank q.port < t.behind bank port) && standing s all q)))

/-- A request may be granted. -/
def grantable (s : State) (tile : Nat) (r : BankReq) : Bool :=
  reaches s (bankReqs s tile) r && bankOpen s tile r.bank r.port

/-- A bank grants a requester n accesses, one in a clk from this one on, and moves its pointer to the one after it (R156). -/
def State.grantedFor (s : State) (tile bank port n : Nat) : State :=
  if 16 ≤ bank then s
  else s.updTile tile (fun t => { t with
    bankPtr := t.bankPtr.set bank ((port + 1) % 17)
    bankClk := t.bankClk.set bank (some (s.clk + n - 1)) })

/-- A bank grants a requester in this clk (R156). -/
def State.granted (s : State) (tile bank port : Nat) : State := s.grantedFor tile bank port 1

/-- The banks that a run of bytes of a scratchpad touches. -/
def banksOf (a n : Nat) : List Nat := if n = 0 then [] else (List.range ((a + n - 1) / 65536 - a / 65536 + 1)).map (fun k => a / 65536 + k)

/-- The banks of the 128-byte lines that runs of n bytes occupy, one for each line. -/
def lineBanks (starts : List Nat) (n : Nat) : List Nat :=
  if n = 0 then []
  else ((starts.flatMap (fun a => (List.range ((a + n - 1) / 128 - a / 128 + 1)).map (fun k => a / 128 + k))).dedup).map (· / 512)

/-- A unit's requester is granted its lines in every bank they lie in, which serves them one in a clk, or waits (R156; log 58: DESIGN
CHOICE). -/
def State.takeBanks (s : State) (tile port : Nat) (lines : List Nat) : Option State :=
  let banks := lines.dedup
  if banks.all (fun b => bankOpen s tile b port) then some (banks.foldl (fun st b => st.grantedFor tile b port (lines.count b)) s) else none

/-- Every request that stands at a bank of a tile has had the bank's grant of this clk go to it or to another (R156). -/
def banksDone (s : State) (tile : Nat) : Bool :=
  let all := bankReqs s tile
  all.all (fun r => !standing s all r || (decide (r.bank < 16) && (s.tile tile).bankTaken r.bank s.clk))

/-! ## Landing -/

/-- The value of a counter as the job reads it; one the job does not own reads 0 (R109, R218). -/
def counterValue (s : State) (tile job c : Nat) : Nat :=
  match (s.tile tile).counters[c]? with
  | some x => if x.owner = some job then x.value else 0
  | none => 0

/-- The release that wrote the value a job reads of a counter. -/
def counterRel (s : State) (tile job c : Nat) : Option Rel :=
  match (s.tile tile).counters[c]? with
  | some x => if x.owner = some job then x.rel else none
  | none => none

/-- The results of an operation that has started become pending in its context. -/
def Ctx.pendResults (c : Ctx) (o : Op) (due : Nat) (outs : List (Target × Nat)) : Ctx :=
  { c with pend := c.pend.filter (fun p => p.op != o.id) ++ outs.map (fun r => ⟨due, r.1, r.2, o.id, false, false⟩) }

/-- Changes an operation in flight. -/
def State.updOp (s : State) (id : Nat) (f : Op → Op) : State := { s with ops := replaceIf (fun o => o.id == id) f s.ops }

/-- An outstanding operation has to have written by now: a division 36 clk after its issue (R32), an `ldt` whose read is done 12 clk
after its issue (R108), a vector or SFU operation when its result is due (R116, R118). -/
def Op.overdue (o : Op) (clk : Nat) : Bool :=
  match o.kind with
  | .divide _ _ => decide (o.issued + 36 ≤ clk)
  | .ldt _ _ _ _ => o.started && decide (max (o.issued + 12) o.due ≤ clk)
  | .vector _ => o.started && o.reqs.isEmpty && decide (o.due ≤ clk)
  | .sfu _ => o.started && decide (o.due ≤ clk)

/-- The value an `ldt` has read is written (R108). -/
def State.finishLoad (s : State) (o : Op) : State :=
  let c := s.ctxs.getD o.ctx Ctx.idle
  let mine := c.pend.filter (fun p => p.op == o.id)
  (s.writeResults o (mine.map (fun p => (p.target, p.value))) 0).settleOp o

/-- An `ldt` has read its value v: from then on an early read may return it, and it is readable from issue + 8 (R27, R108). What its
acquire gains is known to all that follows it in its task (R249, R251). -/
def State.loaded (s : State) (o : Op) (v : Word) (gain : Option Know) : State :=
  let due := max (o.issued + 8) s.clk
  let s1 := (s.performAcc o.acc).updCtx o.ctx (fun c => c.pendResults o due (o.tgts.map (fun t => (t, v.toNat))))
  let s2 := match gain with
    | some k => { s1 with gains := s1.gains.set o.acc k }
    | none => s1
  let s3 := s2.updOp o.id (fun x => { x with started := true, start := s.clk, due := due })
  if due ≤ s.clk then s3.finishLoad o else s3

/-- A scratchpad load is granted by its bank and reads, then writes its destination: readable from issue + 8 (R108, R109). Its read of
the trigger window is that of `trg.read` (R218). -/
def execLdtResult (op : Nat) (s : State) : Host.Outcome State Fault Refusal :=
  match s.op? op with
  | none => .next s
  | some o =>
    match o.kind with
    | .ldt a n x q =>
      let core := coreOf o.ctx
      let tile := tileOf core
      let c := s.ctxs.getD o.ctx Ctx.idle
      if o.started then (if o.due ≤ s.clk then .next { (s.finishLoad o) with free := s.free + 1 } else .next s)
      else if s.clk ≤ o.issued ∨ !grantable s tile (loadReq o a) then .next s
      else
        let s0 := { (s.granted tile (a / 65536) (core % 8)) with free := s.free + 1 }
        if 0x100000 ≤ a then
          let k := (a - 0x100000) / 4
          .next (s0.loaded o (extend x n (counterValue s tile c.job k))
            (if q then some (gainedCounter s .tile core tile (counterRel s tile c.job k)) else none))
        else
          let flat := scratchAddr c.job (c.vcore / 8) a
          match firstBad s.eccScratch flat n with
          | some i =>
            let t : Trap := ⟨.eccloc, 1, 0, BitVec.ofNat 64 (a + i)⟩
            .next (((s0.performAcc o.acc).updCtx o.ctx (fun c => c.noteFault o.id o.seg t)).settleOp o)
          | none =>
            let rdr := readerOf s .core o.task (knowOn o.know o.fences .core)
            .next (s0.loaded o (extend x n (leNat (s.readBytes rdr .scratch flat n 10)))
              (if q then some (gained s .tile core .scratch flat (s.releaseRead rdr .scratch flat n 10)) else none))
    | _ => .next s

/-- A change that reaches the trigger unit of a tile (R220). -/
def addRise (s : State) (tile : Nat) (r : Rise) : State := s.updTile tile (fun t => { t with rises := t.rises ++ [r] })

/-- A posted scratchpad store is granted by its bank and lands, or adds to a trigger counter (R108, R109). -/
def execTileStoreLand (store : Nat) (s : State) : Host.Outcome State Fault Refusal :=
  match s.stores.find? (fun t => t.id == store) with
  | none => .next s
  | some t =>
    let tile := tileOf t.core
    if s.clk ≤ t.issued ∨ !grantable s tile (storeReq t) then .next s
    else
      let s1 := { (s.granted tile (t.addr / 65536) (t.core % 8)) with
        stores := s.stores.filter (fun x => x.id != store), free := s.free + 1 }
      if 0x100000 ≤ t.addr then
        .next (addRise s1 tile ⟨t.job, (t.addr - 0x100000) / 4, leNat t.data, [], s.clk, t.acc, none, [], t.rel⟩)
      else
        .next ((s1.writeBytes .scratch (scratchAddr t.job t.vtile t.addr) t.data .core t.task t.acc t.rel).performAcc t.acc)

end Sys2Proof.Machine
end

