-- ==== Sys2Proof/Machine/Requests.lean ====
section
/-! DEFINITION. Requests in flight (R175 to R182): how one is made, how it completes (R180), and how it fails on its job
(R207). -/

namespace Sys2Proof.Machine

/-- The core's NI takes one more send or request of the issuing task, and no count of R248 is full. -/
def niRoom (s : State) (sc : Scope) : Bool := !s.niFull s.myCore && !s.countFull s.me.task sc

/-- The number the next request gets. -/
def nextReq (s : State) : Nat := s.serial + 1

/-- The next request: it holds v (R176, R177), and is a release at a scope or none. -/
def State.newReq (s : State) (w : Issuer) (kind : ReqKind) (v : Nat) (cm : Cmsg) (path : Path) (rel : Option Scope) (left : Nat)
    (ranges : List (Space × Nat × Nat)) : Req :=
  ⟨nextReq s, kind, w.job, w.task, w.core, w.vcore, v, cm, knowOn w.know w.fences path,
    w.waits s path rel ++ s.overlapping w.task path ranges, s.serial, left, 0, 0, 0, 0, 0, 0, 0, rel.map (w.release s path), w.post⟩

/-- Adds the next request, and the access it is at given locations (R247, R248). -/
def State.addReq (s : State) (w : Issuer) (path : Path) (sc : Scope) (ranges : List (Space × Nat × Nat)) (r : Req) : State :=
  { (s.newAccAt w.task sc path ranges) with reqs := s.reqs ++ [r], serial := s.serial + 2 }

/-- Makes a request. -/
def State.request (s : State) (w : Issuer) (kind : ReqKind) (v : Nat) (cm : Cmsg) (path : Path) (sc : Scope)
    (rel : Option Scope) (left : Nat) (ranges : List (Space × Nat × Nat)) : State :=
  s.addReq w path sc ranges (s.newReq w kind v cm path rel left ranges)

/-- Sends a request's packet to a unit. -/
def State.postReq (s : State) (w : Issuer) (id : Nat) (dst : Endpoint) : State :=
  match s.req? id with
  | some r => s.post .request w.ni dst w.job 1 w.queue r.waits (.request id)
  | none => s

/-- A reply to a node. -/
def State.reply (s : State) (src dst : Endpoint) (job : Nat) (b : Body) : State := s.post .reply src dst job 1 0 [] b

/-- REL of a completion word. -/
def relOf (cm : Cmsg) : Option Scope := if cmRel cm then some (cmScope cm) else none

/-- What the start of a task acquires from a request's completion (R252): its effects, and what happened before it. -/
def Req.effects (s : State) (r : Req) : Know :=
  r.know ++ ((s.writes.filter (fun w => w.acc == r.acc && r.acc != 0)).map (fun w => (w.id, 127))).dedup
    ++ (match r.rel with
        | some x => x.knows s
        | none => [])

/-- A request whose completion starts an acquire gains what the releases order whose values it reads (R249, R251). -/
def State.acquireAt (s : State) (req : Nat) (sc : Scope) (core : Nat) (sp : Space) (at_ : Nat) (rels : List Rel) : State :=
  match rels with
  | [] => s
  | _ => s.updReq req (fun r => { r with know := rels.foldl (fun k x => k.merge (gained s sc core sp at_ (some x))) r.know })

/-- A request completes at a unit: its status word, TAG and results, or its weight home (R180). -/
def State.finishReq (s : State) (src : Endpoint) (r : Req) (acq : Bool) (results : List Word) : State :=
  let s1 := (s.performAcc r.acc).dropReq r.id
  s1.complete src r.job r.vcore r.v r.cm (statusWord r.code r.flags r.count) results acq (r.effects s) r.post

/-- A request that fails on its job raises a cause with its weight (R207), after its effects and what happened before it (R380). -/
def State.raiseReq (s : State) (src : Endpoint) (r : Req) (c : Cause) (arg : Word) : State :=
  ((s.performAcc r.acc).dropReq r.id).raiseJob r.job r.vcore r.v ⟨c, 2, 0, arg⟩ (r.effects s).allPaths src

/-- The checks of a completion word in a block (R178, R179). -/
def cmsgLimits (j : Job) (c : Word) (plain : Bool) : Except Stop Unit := limits (cmsgOk j c plain)

end Sys2Proof.Machine
end

