-- ==== Sys2Proof/Machine/FabNet.lean ====
section
/-! DEFINITION. How a packet leaves the device by a fabric port (R319 to R324), and what a NAK undoes (R328). -/

namespace Sys2Proof.Machine

/-! ## Route entries (R320) -/

/-- Candidate i of a route entry. -/
def routeCand (e : Word) (i : Nat) : Nat := fieldOf e.toNat (5 * i) 5
/-- The candidates a route entry uses, NC + 1 of them. -/
def routeCands (e : Word) : List Nat := (List.range (fieldOf e.toNat 20 2 + 1)).map (routeCand e)
/-- VALID of a route entry. -/
def routeValid (e : Word) : Bool := e.toNat.testBit 25

/-- A port of a number. -/
def State.port (s : State) (p : Nat) : Port := s.ports.getD p ⟨false, [], 0, [], 0, []⟩
/-- Changes a port. -/
def State.updPort (s : State) (p : Nat) (f : Port → Port) : State := { s with ports := s.ports.set p (f (s.port p)) }

/-! ## Packets (R321) -/

/-- Bytes of the on-chip packet a fabric packet carries (R231, R321). -/
def fabBytes : FabBody → Nat
  | .send _ args _ _ => 16 + 8 * args.length
  | .near _ block _ _ _ _ _ => 8 + 8 * block.length
  | .copyRead _ _ _ _ _ => 24
  | .copyWrite _ data _ _ _ => 16 + data.length
  | .result _ _ _ words => 16 + 8 * words.length
  | .data _ _ bytes => 16 + bytes.length
  | .digest _ _ _ bytes => 24 + bytes.length
  | .credit _ _ => 16
  | .retrySend _ _ _ => 16
  | .retryReq _ _ _ _ _ => 16
  | .failed _ _ _ _ => 16
  | .nak _ _ _ _ _ _ _ => 16
  | .linkAck _ _ => 0

/-- Flits of the on-chip packet that a fabric packet carries (R231). -/
def meshFlits (b : FabBody) : Nat := (8 + fabBytes b + 31) / 32

/-- Flits of a fabric packet (R321). -/
def fabFlits (p : FabPkt) : Nat := (16 + fabBytes p.body + 63) / 64

/-- The place of a class and virtual channel in a port's credits (R323). -/
def lane (p : FabPkt) : Nat := 5 * p.cls + p.hop

/-- A port may send a packet now: it has the credits, and no earlier packet of its queue waits (R324). -/
def State.portFree (s : State) (n : Nat) (p : FabPkt) (waiting : List FabOut) : Bool :=
  (s.port n).up && decide (fabFlits p ≤ (s.port n).credits.getD (lane p) 0)
    && !(waiting.any (fun w => w.port == some n && lane w.pkt == lane p))

/-- A packet crosses to a port's replay buffer, spending its credits (R319, R323). -/
def State.emit (s : State) (n : Nat) (p : FabPkt) : State :=
  s.updPort n (fun x => { x with
    replay := x.replay ++ [p]
    since := if x.replay.isEmpty then s.clk else x.since
    credits := x.credits.set (lane p) (x.credits.getD (lane p) 0 - fabFlits p) })

/-- The port a packet takes (R322): with ORD the first candidate, up or not; else the usable candidate with the most credits
for its class and channel. None where no entry is valid or no candidate usable. -/
def State.choosePort (s : State) (p : FabPkt) : Option Nat :=
  let e := s.routes.getD p.dst 0
  if !routeValid e then none
  else if p.ord then some (routeCand e 0)
  else
    match (routeCands e).filter (fun n => (s.port n).up) with
    | [] => none
    | n :: t => some (t.foldl (fun best m =>
        if (s.port best).credits.getD (lane p) 0 < (s.port m).credits.getD (lane p) 0 then m else best) n)

/-- A packet that came in by a port has left its receive buffer: the device gives its credits back there (R323). -/
def State.giveBack (s : State) (p : FabPkt) : Option (Nat × Nat) → State
  | none => s
  | some (n, l) => s.updPort n (fun x => { x with returned := (List.range 20).map (fun i =>
      x.returned.getD i 0 + if i = l then fabFlits p else 0) })

/-- A packet leaves by a port, or waits there for the port's credits; `came` is its receive buffer. -/
def State.fabVia (s : State) (n : Nat) (p : FabPkt) (came : Option (Nat × Nat)) : State :=
  if s.portFree n p s.fabOut then (s.emit n p).giveBack p came
  else { s with fabOut := s.fabOut ++ [(⟨p, some n, came⟩ : FabOut)] }

/-- A packet leaves, or waits for its port's credits; none where it cannot be routed. -/
def State.fabTry (s : State) (p : FabPkt) (came : Option (Nat × Nat)) : Option State := (s.choosePort p).map (fun n => s.fabVia n p came)

/-- A unit of the device sends a packet over the fabric: it goes through the mesh to the I/O node of the unit's own row on the die of
its port (R233, R319). -/
def State.fabSend (s : State) (src : Endpoint) (job : Nat) (p : FabPkt) : State :=
  s.post (if p.cls = 0 then .request else if p.cls = 1 then .reply else if p.cls = 2 then .weight else .management) src (.west src.row) job
    (meshFlits p.body) 0 [] (.fab 0 p)

/-- A reply-class answer of a unit of this device to the device of a packet. -/
def State.fabAnswer (s : State) (src : Endpoint) (job dev jtag : Nat) (b : FabBody) : State :=
  s.fabSend src job ⟨dev, s.devid, 0, 1, false, jtag, b⟩

/-! ## NAKs (R328) -/

/-- The NAK of a discarded packet: its class, its source NI and its weight field (R328). One of the reply class concerns no weight. -/
def nakOf (dev : Nat) (p : FabPkt) : FabPkt :=
  let mk (isSend isPod : Bool) (item tile weight : Nat) : FabPkt :=
    ⟨p.src, dev, 0, 1, false, p.jtag, .nak isSend isPod item tile weight p.cls p.dst⟩
  match p.body with
  | .send h _ _ out => mk true false out 0 (hdrWeight h)
  | .near _ _ _ _ tile req v => mk false false req tile v
  | .copyRead _ _ tile req v => mk false false req tile v
  | .copyWrite _ _ tile req v => mk false false req tile v
  | .credit out units => mk true true out 0 units
  | .result _ _ _ _ => mk false false 0 0 0
  | .data _ _ _ => mk false false 0 0 0
  | .digest _ _ _ _ => mk false false 0 0 0
  | .retrySend _ _ _ => mk false false 0 0 0
  | .retryReq _ _ _ _ _ => mk false false 0 0 0
  | .failed _ _ _ _ => mk false false 0 0 0
  | .nak _ _ _ _ _ _ _ => mk false false 0 0 0
  | .linkAck _ _ => mk false false 0 0 0

/-- A far send ends at its NI: its weight goes home with a mark, and it is settled. -/
def State.endOut (s : State) (o : OutMsg) (lost killed : Bool) : State :=
  ((s.performAcc o.acc).dropOut o.id).pod o.src o.msg.job (hdrWeight o.msg.hdr) lost killed

/-- A request ends without a completion: its weight goes home with a mark. -/
def State.endReqNow (s : State) (r : Req) (lost killed : Bool) : State :=
  ((s.performAcc r.acc).dropReq r.id).pod (.ni (tileOf r.core)) r.job r.v lost killed

/-- A far request ends without a completion. A copy ends at its BTE: 256 stands there for its KILLED weight, 257 for LOST. -/
def State.endReq (s : State) (r : Req) (lost killed : Bool) : State :=
  match r.kind with
  | .copy _ _ _ _ =>
    let stop (t : Transfer) : Transfer := { t with waiting := false, failed := (256 + lost.toNat, 0) }
    { s with btes := s.btes.map (fun e => (e.1, replaceIf (fun t => t.req == r.id) stop e.2)) }
  | _ => s.endReqNow r lost killed

/-- A NAK reaches the source of what was discarded (R328): a far send or request ends there with its weight LOST, and its job takes a
fatal error; the weight of a return goes on to the home of the destination the NAK names, where it counts as LOST. -/
def State.nakHere (s : State) (isSend isPod : Bool) (item tile weight cls dest : Nat) : State :=
  if isPod then
    if dest = s.devid then
      match s.out? item with
      | some o => s.endOut o true false
      | none => s
    else
      let p : FabPkt := ⟨dest, s.devid, 0, 1, false, 0, .nak isSend isPod item tile weight cls dest⟩
      (s.fabTry p none).getD { s with fabOut := s.fabOut ++ [(⟨p, none, none⟩ : FabOut)] }
  else if isSend then
    match s.out? item with
    | some o => (s.endOut o true false).fatal o.msg.job 0 6 0 0 o.src
    | none => s
  else
    match s.req? item with
    | some r => (s.endReq r true false).fatal r.job r.vcore 6 0 0 (.ni (tileOf r.core))
    | none => s

/-- Discards a packet (R323): logged, and answered by a NAK. What this device sent itself is settled here; a NAK of its own making that
finds no way is only logged. -/
def State.discardPkt (s : State) (p : FabPkt) : State :=
  let s1 := { s with log := s.log ++ [LogEntry.discarded p] }
  let n := nakOf s.devid p
  if p.src = s.devid then
    match n.body with
    | .nak a b c d e f g => s1.nakHere a b c d e f g
    | _ => s1
  else (s1.fabTry n none).getD { s1 with log := s1.log ++ [LogEntry.discarded n] }

/-- A packet goes out by the fabric from an I/O die. -/
def State.fabPut (s : State) (p : FabPkt) (came : Option (Nat × Nat)) : State :=
  (s.fabTry p came).getD ((s.discardPkt p).giveBack p came)

/-- A packet of the device has reached the I/O die of the port chosen for it: it leaves there while that port still serves, else by the
route as it now stands (R320, R322). -/
def State.fabLeave (s : State) (n : Nat) (p : FabPkt) : State :=
  let e := s.routes.getD p.dst 0
  if routeValid e && !p.ord && (routeCands e).contains n && (s.port n).up then s.fabVia n p none else s.fabPut p none

/-- Tries the packets that wait, in their order: those that may leave do. -/
def drainWaiting : State → List FabOut → List FabOut → State
  | s, kept, [] => { s with fabOut := kept }
  | s, kept, w :: t =>
    match (match w.port with
      | some n => some n
      | none => s.choosePort w.pkt) with
    | some n =>
      if s.portFree n w.pkt kept then drainWaiting ((s.emit n w.pkt).giveBack w.pkt w.came) kept t
      else drainWaiting s (kept ++ [{ w with port := some n }]) t
    | none => drainWaiting s (kept ++ [w]) t

/-- Packets that wait for a port leave once it has room (R324). -/
def State.fabDrain (s : State) : State := drainWaiting s [] s.fabOut

end Sys2Proof.Machine
end

