-- ==== Sys2Proof/Machine/Future.lean ====
section
/-! DEFINITION. Futures (R228, R229): the requests, the context unit that serves them, and the resend of a refused wait. -/

namespace Sys2Proof.Machine

/-! ## Handles (R228) -/

/-- INDEX of a handle. -/
def handleIndex (h : Nat) : Nat := fieldOf h 0 14
/-- DIE of a handle. -/
def handleDie (h : Nat) : Nat := fieldOf h 14 3
/-- GEN of a handle. -/
def handleGen (h : Nat) : Nat := fieldOf h 32 16
/-- The key of an entry in the tables of all dies. -/
def futureKey (die index : Nat) : Nat := die * 16384 + index

/-- A handle from its parts. -/
def mkHandle (die index gen : Nat) : Word := BitVec.ofNat 64 (index + 16384 * die + 2 ^ 32 * gen + 2 ^ 63)

/-- A handle whose reserved bits are 0 and whose VALID is 1. -/
def handleForm (h : Nat) : Bool := fieldOf h 17 15 == 0 && fieldOf h 48 15 == 0 && h.testBit 63

/-- The entry a handle names; one never used is free, with GEN 0. -/
def State.future (s : State) (h : Nat) : Future :=
  s.futures.getD (futureKey (handleDie h) (handleIndex h)) ⟨none, false, 0, 0, [], none⟩

/-- Writes an entry. -/
def State.setFuture (s : State) (h : Nat) (f : Future) : State :=
  { s with futures := s.futures.set (futureKey (handleDie h) (handleIndex h)) f }

/-- A handle is stale for an owner (R229): its entry is free, of another use, or another's. -/
def staleFor (s : State) (h owner : Nat) : Bool :=
  let f := s.future h
  f.owner != some owner || f.gen != handleGen h

/-- The lowest free entry of a die's table. -/
def freeFuture (s : State) (die : Nat) : Option Nat :=
  (List.range 16384).find? (fun i => (s.futures.getD (futureKey die i) ⟨none, false, 0, 0, [], none⟩).owner.isNone)

/-! ## The requests -/

/-- Words of the block and places of CMSG in it, by function (R206, R228). -/
def futureWords (f : Nat) : Nat := if f = 0 then 2 else if f = 1 then 4 else 3
/-- The place of CMSG in the block. -/
def futureCm (f : Nat) : Nat := if f = 0 then 0 else if f = 1 then 2 else 1

/-- The checks of a future request's block at issue (R228). -/
def futureCheck (j : Job) (f : Nat) (b : List Word) : Except Stop Unit := do
  if f ≠ 0 then limits (handleForm (wordAt b 0))
  let c := b.getD (futureCm f) 0
  cmsgLimits j c false
  limits (!(f == 0 && c.toNat.testBit 26))

/-- The die whose context unit serves the request. -/
def futureDie (tile f : Nat) (b : List Word) : Nat := if f = 0 then tileDie tile else handleDie (wordAt b 0)

/-- A future request leaves for its context unit: a NEAR-path access of the entry (R245). -/
def queueFuture (w : Issuer) (f : Nat) (b : List Word) (v : Nat) (s : State) : State :=
  let cm : Cmsg := ⟨b.getD (futureCm f) 0, b.getD (futureCm f + 1) 0⟩
  let die := futureDie (tileOf w.core) f b
  let sc := if die = tileDie (tileOf w.core) then Scope.die else .device
  let e := 2 ^ 62 + futureKey die (handleIndex (wordAt b 0))
  (s.request w (.future f b) v cm .near sc (relOf cm) 0 (if f = 0 then [] else [(Space.hbm, e, e + 1)])).postReq w
    (nextReq s) (.unit die)

/-- The shape of the future instructions: a block, and the weight in B. -/
def futureWith (f : Nat) (a b : Name) (s : State) : Res := do
  srcs [b]
  let j ← theJob s
  let n := futureWords f
  let words ← block s a n
  futureCheck j f words
  ready (niRoom s (if futureDie s.myTile f words = tileDie s.myTile then .die else .device))
  blockOk s a n
  let v ← rd s 60 b
  let s1 ← takeWeight s v.toNat
  fall (queueFuture s1.issuer f words v.toNat s1)

/-- `fnew` (R229) -/
def execFnew (a b : Name) (m : Mark) (s : State) : Host.Outcome State Fault Refusal := issue32 m s (futureWith 0 a b s)
/-- `fset` (R229) -/
def execFset (a b : Name) (m : Mark) (s : State) : Host.Outcome State Fault Refusal := issue32 m s (futureWith 1 a b s)
/-- `fwait` (R229) -/
def execFwait (a b : Name) (m : Mark) (s : State) : Host.Outcome State Fault Refusal := issue32 m s (futureWith 2 a b s)
/-- `ffree` (R229) -/
def execFfree (a b : Name) (m : Mark) (s : State) : Host.Outcome State Fault Refusal := issue32 m s (futureWith 3 a b s)
/-- `fpeek` (R229) -/
def execFpeek (a b : Name) (m : Mark) (s : State) : Host.Outcome State Fault Refusal := issue32 m s (futureWith 4 a b s)

/-! ## Serving -/

/-- What the reader of a future's value acquires from its setting, at the scope of its completion word (R246, R251). -/
def State.reading (s : State) (die : Nat) (f : Future) (r : Req) : Req :=
  { r with know := r.know ++ gainedFuture s (cmScope r.cm) r.core die f.rel }

/-- Releases the waiters of an entry in queue order, each with the value (R229). -/
def releaseWaiters (die : Nat) (src : Endpoint) (f : Future) : State → List Nat → State
  | s, [] => s
  | s, r :: t =>
    match s.req? r with
    | some q => releaseWaiters die src f (s.finishReq src (s.reading die f q) (cmAcq q.cm) [f.value]) t
    | none => releaseWaiters die src f s t

/-- The records at the launch unit wait no more on a future that is SET (R282). -/
def State.depSet (s : State) (h : Nat) : State :=
  { s with waiting := s.waiting.map (fun l => { l with deps := l.deps.filter (fun w => w.toNat != h) }) }

/-- Sets an entry that is EMPTY, as the release `rel` or none, and releases its waiters. -/
def State.fulfil (s : State) (h : Nat) (value : Word) (rel : Option Rel) : State :=
  let f : Future := { s.future h with set := true, value := value, rel := rel.map (Rel.gather s) }
  releaseWaiters (handleDie h) (.unit (handleDie h)) f ((s.depSet h).setFuture h { f with waiters := [] }) f.waiters

/-- Every queued waiter raises FUTSTALE with its own weight (R229). -/
def staleAll (src : Endpoint) (h : Word) : State → List Nat → State
  | s, [] => s
  | s, r :: t =>
    match s.req? r with
    | some q => staleAll src h (s.raiseReq src q .futstale h) t
    | none => staleAll src h s t

/-- Frees an entry: its waiters raise FUTSTALE and its GEN rises (R229). -/
def State.freeFutureEntry (s : State) (h : Nat) : State :=
  let f := s.future h
  staleAll (.unit (handleDie h)) (BitVec.ofNat 64 h)
    (s.setFuture h ⟨none, false, 0, (f.gen + 1) % 65536, [], none⟩) f.waiters

/-- Waiter records of a die in use (R229). -/
def waiterCount (s : State) (die : Nat) : Nat :=
  sumBy (fun e => if e.1 / 16384 = die then e.2.waiters.length else 0) s.futures

/-- The context unit of a die serves a request for an entry. -/
def serveFuture (s : State) (die f : Nat) (b : List Word) (r : Req) : State :=
  let src := Endpoint.unit die
  let h := wordAt b 0
  if f = 0 then
    match freeFuture s die with
    | some i =>
      let e := s.futures.getD (futureKey die i) ⟨none, false, 0, 0, [], none⟩
      ({ s with futures := s.futures.set (futureKey die i) ⟨some r.job, false, 0, e.gen, [], none⟩ }).finishReq src r
        (cmAcq r.cm) [mkHandle die i e.gen]
    | none => s.finishReq src r (cmAcq r.cm) [0]
  else if staleFor s h r.job then s.raiseReq src r .futstale (b.getD 0 0)
  else
    let e := s.future h
    match f with
    | 1 =>
      if e.set then s.finishReq src r (cmAcq r.cm) [1]
      else
        (s.fulfil h (b.getD 1 0) r.rel).finishReq src r (cmAcq r.cm) [0]
    | 2 =>
      if e.set then s.finishReq src (s.reading die e r) (cmAcq r.cm) [e.value]
      else if 32768 ≤ waiterCount s die then
        s.post .reply src (.ni (tileOf r.core)) r.job 1 0 [] (.requestRefused r.id)
      else (s.performAcc r.acc).setFuture h { e with waiters := e.waiters ++ [r.id] }
    | 3 => (s.freeFutureEntry h).finishReq src r (cmAcq r.cm) []
    | _ => s.finishReq src (s.reading die e r) (cmAcq r.cm) [if e.set then 1 else 0, if e.set then e.value else 0]

/-- A context unit serves one future request (R229). -/
def execFutureRequestServe (pkt : Nat) (s : State) : Host.Outcome State Fault Refusal :=
  match s.arrived? pkt with
  | some p =>
    match p.dst, p.body with
    | .unit die, .request id =>
      match s.req? id with
      | some r =>
        match r.kind with
        | .future f b => .next { (serveFuture (s.dropPacket pkt) die f b r) with free := s.free + 1 }
        | _ => .next s
      | none => .next s
    | _, _ => .next s
  | none => .next s

/-- An `fwait` refused for want of waiter records is sent again 64 clk after its refusal reached the NI (R229, R381). -/
def execFwaitResend (req : Nat) (s : State) : Host.Outcome State Fault Refusal :=
  match s.req? req with
  | some r =>
    match r.kind with
    | .future f b =>
      if r.due ≠ 0 ∧ r.due ≤ s.clk then
        .next ((s.updReq req (fun r => { r with due := 0 })).post .request (.ni (tileOf r.core))
          (.unit (futureDie (tileOf r.core) f b)) r.job 1 0 [] (.request req))
      else .next s
    | _ => .next s
  | none => .next s

end Sys2Proof.Machine
end

