-- ==== Sys2Proof/Machine/Sha.lean ====
section
/-! DEFINITION. SHA-512 (R317, R363, R375), which the spec names and does not lay out: FIPS 180-4 (log 19). -/

namespace Sys2Proof.Machine

/-- The largest n with n³ ≤ x, found bit by bit. -/
def cubeRoot (x : Nat) : Nat → Nat → Nat
  | 0, r => r
  | b + 1, r => let t := r + 2 ^ b; cubeRoot x b (if t * t * t ≤ x then t else r)

/-- The largest n with n² ≤ x, found bit by bit. -/
def squareRoot (x : Nat) : Nat → Nat → Nat
  | 0, r => r
  | b + 1, r => let t := r + 2 ^ b; squareRoot x b (if t * t ≤ x then t else r)

/-- A prime, by trial division. -/
def isPrime (n : Nat) : Bool := decide (2 ≤ n) && (List.range n).all (fun d => decide (d < 2) || n % d != 0)

/-- The first 80 primes, which end at 409. -/
def shaPrimes : List Nat := (List.range 410).filter isPrime

/-- The round constants: the first 64 fraction bits of the cube roots of the primes. -/
def shaK : List Word := shaPrimes.map (fun p => BitVec.ofNat 64 (cubeRoot (p * 2 ^ 192) 68 0))

/-- The first hash value: the first 64 fraction bits of the square roots of the first eight primes. -/
def shaStart : List Word := (shaPrimes.take 8).map (fun p => BitVec.ofNat 64 (squareRoot (p * 2 ^ 128) 68 0))

/-- A big-endian word. -/
def beWord (bs : List Byte) : Word := leWord bs.reverse

/-- Cuts a byte list into big-endian words. -/
def beWords : List Byte → Nat → List Word
  | _, 0 => []
  | bs, n + 1 => beWord (bs.take 8) :: beWords (bs.drop 8) n

/-- The padding of a message of n bytes. -/
def shaPad (n : Nat) : List Byte :=
  [0x80#8] ++ List.replicate ((239 - n % 128) % 128) 0 ++ (bytesOfNat (8 * n) 16).reverse

/-- The message schedule after the first sixteen words, newest first. -/
def shaSchedule : Nat → List Word → List Word
  | 0, w => w
  | n + 1, w =>
    let at_ (i : Nat) : Word := w.getD i 0
    let a := at_ 14
    let b := at_ 1
    let s0 := a.rotateRight 1 ^^^ a.rotateRight 8 ^^^ a >>> 7
    let s1 := b.rotateRight 19 ^^^ b.rotateRight 61 ^^^ b >>> 6
    shaSchedule n ((s1 + at_ 6 + s0 + at_ 15) :: w)

/-- One round. -/
def shaRound (h : List Word) (kw : Word × Word) : List Word :=
  match h with
  | [a, b, c, d, e, f, g, x] =>
    let t1 := x + (e.rotateRight 14 ^^^ e.rotateRight 18 ^^^ e.rotateRight 41) + ((e &&& f) ^^^ (~~~e &&& g)) + kw.1 + kw.2
    let t2 := (a.rotateRight 28 ^^^ a.rotateRight 34 ^^^ a.rotateRight 39) + ((a &&& b) ^^^ (a &&& c) ^^^ (b &&& c))
    [t1 + t2, a, b, c, d + t1, e, f, g]
  | _ => h

/-- One block of 128 bytes. -/
def shaBlock (h : List Word) (block : List Byte) : List Word :=
  let w := (shaSchedule 64 (beWords block 16).reverse).reverse
  List.zipWith (· + ·) h ((shaK.zip w).foldl shaRound h)

/-- The blocks of a padded message. -/
def shaBlocks (h : List Word) (bs : List Byte) : Nat → List Word
  | 0 => h
  | n + 1 => shaBlocks (shaBlock h (bs.take 128)) (bs.drop 128) n

/-- SHA-512 of a message: 64 bytes, big-endian words. -/
def sha512 (bs : List Byte) : List Byte :=
  let m := bs ++ shaPad bs.length
  (shaBlocks shaStart m (m.length / 128)).flatMap (fun w => (wordBytes w).reverse)

end Sys2Proof.Machine
end

