-- ==== Sys2Proof/Machine/Ckpt.lean ====
section
/-! DEFINITION. Checkpoints (R361 to R365). -/

namespace Sys2Proof.Machine

/-! ## NVMe blocks (R305) -/

/-- The place of a 4 KiB block of a namespace behind a port. -/
def nvmeAddr (port ns lba : Nat) : Nat := ((port * 16 + ns) * 2 ^ 36 + lba) * 4096

/-- Writes bytes from the start of a block. -/
def State.nvmeWrite (s : State) (port ns lba : Nat) (bs : List Byte) : State :=
  { s with nvme := { s.nvme with data := s.nvme.data.write (nvmeAddr port ns lba) bs } }

/-- A port is enabled. -/
def State.nvmeOn (s : State) (port : Nat) : Bool := s.nvme.enabled.getD port false

/-- The bring-up of a port, before its first use: Identify, Set Features and the creation of its queues; a port that fails is disabled
and reported (R305, R378; log 54: no register that enables a port is given). -/
def State.bringUp (s : State) (port : Nat) : State :=
  if s.nvmeOn port || s.nvme.failed.getD port false then s
  else if s.nvme.answers.getD port false then { s with nvme := { s.nvme with enabled := s.nvme.enabled.set port true } }
  else { s with nvme := { s.nvme with failed := s.nvme.failed.set port true }, log := s.log ++ [LogEntry.ssdPort port] }

/-- Blocks that a command may name: a port enabled, a namespace with 4 KiB blocks, and a range within it (R304). -/
def State.blocksOk (s : State) (port ns lba n : Nat) : Bool :=
  s.nvmeOn port && decide (0 < s.nvme.sizes.getD (16 * port + ns) 0 ∧ lba + n ≤ s.nvme.sizes.getD (16 * port + ns) 0)

/-- 4 s in clk at 1.6 GHz (R3, R304). -/
def nvmeLimit : Nat := 6400000000

/-! ## Launch-unit futures (R285) -/

/-- The owner number of the launch unit. -/
def launchUnit : Nat := 1024

/-- Sets a future of one of the owners given to a value, as an `fset` would that is the release given; a stale handle is logged (R285). -/
def State.setFor (s : State) (owners : List Nat) (h value : Word) (rel : Rel) : State :=
  if h = 0 then s
  else if owners.all (fun o => staleFor s h.toNat o) then { s with log := s.log ++ [LogEntry.staleDone h] }
  else if (s.future h.toNat).set then s
  else s.fulfil h.toNat value (some rel)

/-! ## Layout (R362 to R364) -/

/-- One chunk of a checkpoint: its entry, its number in the entry, where it lies, its length, R and the number of copies. -/
structure Chunk where
  entry : Nat
  number : Nat
  va : Nat
  len : Nat
  group : Nat
  copies : Nat
  deriving DecidableEq, Repr

/-- Bytes of a chunk. -/
def chunkSize : Nat := 64 * 2 ^ 20

/-- The chunks of an entry (R363). -/
def chunksOf (e : Nat) (w : List Word) : List Chunk :=
  let va := wordAt w 0
  let len := wordAt w 1
  (List.range ((len + chunkSize - 1) / chunkSize)).map (fun c =>
    ⟨e, c, va + c * chunkSize, min chunkSize (len - c * chunkSize), fieldOf (wordAt w 2) 0 12 + 1, fieldOf (wordAt w 2) 12 2 + 1⟩)

/-- The ports of PORTMASK. -/
def portsOf (hdr : List Word) : List Nat := (List.range 8).filter (fun p => (wordAt hdr 0).testBit p)
/-- NS of the header. -/
def ckNs (hdr : List Word) : Nat := fieldOf (wordAt hdr 0) 8 4

/-- The first block of the area of this generation on every port (R364). -/
def areaStart (hdr : List Word) (nslot : Nat) : Nat :=
  let n := (portsOf hdr).length
  wordAt hdr 1 + wordAt hdr 2 % 2 * (1 + 16385 * ((nslot + n - 1) / n))

/-- The port of slot i and the block of its header (R364). -/
def slotPlace (hdr : List Word) (nslot i : Nat) : Nat × Nat :=
  let n := (portsOf hdr).length
  ((portsOf hdr).getD (i % n) 0, areaStart hdr nslot + 1 + 16385 * (i / n))

/-- This replica writes a chunk (R363). -/
def writes_ (rank : Nat) (c : Chunk) : Bool :=
  (List.range c.copies).any (fun j => (c.number + j) % c.group == rank % c.group)

/-- RESULT (R365). -/
def ckResult (code entry chunk : Nat) : Word := BitVec.ofNat 64 (code + 65536 * entry + 2 ^ 32 * chunk)

/-- Notes a failure; the first failing chunk stands. -/
def Ckpt.note (k : Ckpt) (code entry chunk : Nat) : Ckpt :=
  if k.result.toNat % 256 = 0 then { k with result := ckResult code entry chunk }
  else
    let r := k.result.toNat
    if entry < fieldOf r 16 16 ∨ (entry = fieldOf r 16 16 ∧ chunk < fieldOf r 32 32) then { k with result := ckResult code entry chunk }
    else k

/-! ## The work -/

/-- The device of a rank, from DEVTAB. -/
def devOfRank (s : State) (k : Ckpt) (rank : Nat) : Option Nat := (s.readVirt k.pt (wordAt k.hdr 4 + 8 * rank) 8).map leNat

/-- The bytes of a virtual range as the sequencer reads them on the STOR path (R361): all that was written before the launch completed
binds them, what has been written since is old or new. None where a page is missing; `n` counts the 64 KiB steps. -/
def readStored (s : State) (k : Ckpt) (know : Know) (va len : Nat) : Nat → Option (List Byte)
  | 0 => some []
  | n + 1 =>
    if len = 0 then some []
    else
      let step := min len (65536 - va % 65536)
      match s.lookup k.pt va, readStored s k know (va + step) (len - step) n with
      | some (pa, _), some l => match physSpace pa with
        | some (sp, a) => some (s.readBytes ⟨.stor, 0, know, s.clk, k.since⟩ sp a step (5000 + n) ++ l)
        | none => none
      | _, _ => none

/-- The bytes of a chunk. -/
def chunkBytes (s : State) (k : Ckpt) (c : Chunk) : Option (List Byte) :=
  readStored s k ((s.writes.filter (fun w => decide (w.id < k.since))).map (fun w => (w.id, 127))) c.va c.len (c.len / 65536 + 2)

/-- The sequencer's work on slot i: its digest, its slot on the port if this device writes it, and the digests sent and
awaited. `bad` are the slots whose NVMe Writes failed (R304, R365). -/
def doChunk (bad : List Nat) (st : State × Ckpt) (ic : Nat × Chunk) : State × Ckpt :=
  let s := st.1
  let k := st.2
  let i := ic.1
  let c := ic.2
  match chunkBytes s k c with
  | none => (s, k.note 2 c.entry c.number)
  | some bs =>
    let dg := sha512 bs
    let base := k.rank / c.group * c.group
    let k1 := { k with digests := k.digests ++ [(i, (c.entry, c.number), dg)] }
    if writes_ k.rank c then
      let pl := slotPlace k.hdr k.nslot i
      let others := c.group - min c.group c.copies
      let k2 := { k1 with awaiting := k1.awaiting ++ List.replicate others (i, s.clk + 1600000000) }
      let s1 := s.bringUp pl.1
      if s1.blocksOk pl.1 (ckNs k.hdr) pl.2 (1 + c.len / 4096) && !bad.contains i then
        let hdr := dg ++ wordBytes (BitVec.ofNat 64 (wordAt k.hdr 2)) ++ wordBytes (BitVec.ofNat 64 c.entry)
          ++ wordBytes (BitVec.ofNat 64 c.number) ++ wordBytes (BitVec.ofNat 64 c.len)
        ((s1.nvmeWrite pl.1 (ckNs k.hdr) pl.2 hdr).nvmeWrite pl.1 (ckNs k.hdr) (pl.2 + 1) bs, k2)
      else (s1, k2.note 1 c.entry c.number)
    else
      let send (s : State) (j : Nat) : State :=
        match devOfRank s k (base + (c.number + j) % c.group) with
        | some d => s.fabPut ⟨d, s.devid, 0, 3, false, k.jtag, .digest (wordAt k.hdr 2) c.entry c.number dg⟩ none
        | none => s
      ((List.range c.copies).foldl send s, k1)

/-- The commit blocks of every port of PORTMASK (R365). -/
def commitBlocks (k : Ckpt) (s : State) : State :=
  (portsOf k.hdr).foldl (fun s p => s.nvmeWrite p (ckNs k.hdr) (areaStart k.hdr k.nslot)
    (wordBytes (BitVec.ofNat 64 (wordAt k.hdr 2)) ++ wordBytes (BitVec.ofNat 64 k.nslot) ++ wordBytes k.result)) s

/-- A flushed checkpoint that awaits no more digests writes its commit blocks (R365). -/
def commitReady (s : State) (k : Ckpt) : State × Ckpt :=
  if k.phase = 1 ∧ k.awaiting.isEmpty then (commitBlocks k s, { k with phase := 2, started := s.clk }) else (s, k)

/-- Replaces the checkpoint at the head of the sequencer. -/
def State.setCkpt (s : State) (k : Ckpt) : State := { s with ckpt := k :: s.ckpt.drop 1 }

/-- What a checkpoint awaits of a digest: its slot, by when, and this device's own digest of the chunk. -/
def Ckpt.awaits (k : Ckpt) (d : PeerDigest) : Option ((Nat × Nat) × List Byte) :=
  if k.jtag = d.jtag ∧ wordAt k.hdr 2 = d.gen then
    match k.digests.find? (fun x => x.2.1 == (d.entry, d.chunk)) with
    | some x => (k.awaiting.find? (fun a => a.1 == x.1)).map (fun a => (a, x.2.2))
    | none => none
  else none

/-- A digest that differs sets DIVERGE; one the same is no longer awaited (R363). -/
def Ckpt.take (k : Ckpt) (d : PeerDigest) : Ckpt :=
  match k.awaits d with
  | some (a, own) =>
    let k1 := { k with awaiting := k.awaiting.erase a }
    if own = d.bytes then k1 else k1.note 3 d.entry d.chunk
  | none => k

/-- The first checkpoint of a list that awaits a digest takes it; none where no one does. -/
def takeDigest (d : PeerDigest) : List Ckpt → Option (List Ckpt)
  | [] => none
  | k :: t => if (k.awaits d).isSome then some (k.take d :: t) else (takeDigest d t).map (fun l => k :: l)

/-- A replica's digest of a chunk reaches its writer; one that differs sets DIVERGE (R363). One that comes before this device's
own checkpoint awaits it is kept. -/
def State.digestHere (s : State) (d : PeerDigest) : State :=
  match takeDigest d s.ckpt with
  | some l =>
    let s1 := { s with ckpt := l }
    match l with
    | k :: _ =>
      let r := commitReady s1 k
      r.1.setCkpt r.2
    | [] => s1
  | none => { s with peerDigests := s.peerDigests ++ [d] }

/-- The checkpoint of a completed launch begins: the sequencer takes the map (R361, R363). -/
def State.startCkpt (s : State) (words : List Word) (rank jtag : Nat) : State :=
  let pt := wordAt words 1
  let map := wordAt words 9
  let n := fieldOf (wordAt words 10) 0 16
  if n = 0 then s
  else
    match s.readVirt pt map (64 + 32 * n) with
    | none => s
    | some bs =>
      let entries := (List.range n).map (fun e => leWords (bs.drop (64 + 32 * e)) 4)
      let nslot := sumBy (fun e => (chunksOf 0 e).length) entries
      { s with ckpt := s.ckpt ++ [(⟨jtag, rank, entries, s.serial, s.clk, pt, map, leWords bs 8, nslot, 0, 0, [], []⟩ : Ckpt)] }

/-- The chunks of a checkpoint in map order, each with its slot. -/
def Ckpt.chunks (k : Ckpt) : List (Nat × Chunk) :=
  let l := k.entries.zipIdx.flatMap (fun e => chunksOf e.2 e.1)
  (List.range l.length).zip l

/-- The slots of a checkpoint have been read, written and flushed; the digests that came before it take their part (R363). -/
def Ckpt.slotsDone (k : Ckpt) (s : State) (bad : List Nat) : State × Ckpt :=
  let r := k.chunks.foldl (doChunk bad) (s, k)
  let k1 := (s.peerDigests.foldl (fun (k : Ckpt) d => k.take d) r.2)
  commitReady { r.1 with peerDigests := s.peerDigests.filter (fun d => (r.2.awaits d).isNone) } { k1 with phase := 1 }

/-- The Flush on every port of PORTMASK ends: after the slots the commit blocks follow, after them RESULT and CKFUT (R365).
A Flush that fails or takes 4 s is a failure of the storage, and so is a Write of a slot that fails (R304). -/
def execCheckpointFlushDone (e : FlushEnd) (s : State) : Host.Outcome State Fault Refusal :=
  match s.ckpt with
  | [] => .next s
  | k :: rest =>
    let k1 := if e.ok && decide (s.clk < k.started + nvmeLimit) then k else k.note 1 0 0
    if k.phase = 0 then
      let r := k1.slotsDone s e.bad
      .next { (r.1.setCkpt r.2) with free := s.free + 1 }
    else if k.phase = 2 then
      let s1 := ({ s with ckpt := rest }).writeVirt k.pt (k.map + 40) .stor [k1.result]
      .next (s1.setFor [launchUnit] (k.hdr.getD 3 0) k1.result ⟨.system, 0, s1.madeSince s.serial, []⟩)
    else .next s

/-- A digest arrives (R363). -/
def execCheckpointDigestArrival (jtag gen entry chunk : Nat) (digest : List (BitVec 8)) (s : State) :
    Host.Outcome State Fault Refusal :=
  .next (s.digestHere ⟨jtag, gen, entry, chunk, digest⟩)

/-- A digest not received within 1 s gives PEERLOST (R365). -/
def execCheckpointPeerlost (slot : Nat) (s : State) : Host.Outcome State Fault Refusal :=
  match s.ckpt with
  | [] => .next s
  | k :: _ =>
    match k.awaiting.find? (fun a => a.1 == slot && decide (a.2 ≤ s.clk)), k.digests.find? (fun d => d.1 == slot) with
    | some a, some d =>
      let r := commitReady s (({ k with awaiting := k.awaiting.erase a }).note 4 d.2.1.1 d.2.1.2)
      .next (r.1.setCkpt r.2)
    | _, _ => .next s

end Sys2Proof.Machine
end

