-- ==== Sys2Proof/Machine/Complete.lean ====
section
/-! DEFINITION. The end of a job context on the device: its slot tables (R288), the completion of its launch (R285), its leaving,
and its saving (R356 to R358). -/

namespace Sys2Proof.Machine

/-! ## Keys of the tables -/

/-- The place of a job's channel on a core (R203). -/
def chanKey (core job ch : Nat) : Nat := (core * 1024 + job) * 4 + ch
/-- The place of a job's array sequence on a core (R209, R211). -/
def arrKey (core job : Nat) : Nat := core * 1024 + job
/-- The channel of a job on a core. -/
def State.chan (s : State) (core job ch : Nat) : Chan := s.chans.getD (chanKey core job ch) ⟨1, 0, [], []⟩
/-- The array sequence of a job on a core. -/
def State.arrSeq (s : State) (core job : Nat) : ArrSeq := s.arrSeqs.getD (arrKey core job) ⟨1, []⟩

/-! ## Slot tables (R288) -/

/-- The entries for the residents and their shares: passes in rising residence index, each job with fewer entries than its
share taking the next in each pass; those left over hold 8. -/
def slotEntries (shares : List (Nat × Nat)) : List Nat :=
  let l := ((List.range 32).flatMap (fun r => shares.filterMap (fun e => if r < e.2 then some e.1 else none))).take 32
  l ++ List.replicate (32 - l.length) 8

/-- The launch unit rewrites a core's table when its residents change. -/
def State.rewriteSlots (s : State) (core : Nat) : State :=
  s.updCore core (fun c => { c with slottab := slotEntries (c.residents.map (fun r => (r.idx, match s.job? r.job with
    | some j => j.share
    | none => 0))) })

/-- Residents in rising residence index. -/
def insertResident (r : Resident) : List Resident → List Resident
  | [] => [r]
  | q :: t => if r.idx < q.idx then r :: q :: t else q :: insertResident r t

/-- A job becomes resident on a core with the lowest free residence index. -/
def State.addResident (s : State) (core job : Nat) : State :=
  match (List.range 4).find? (fun i => !((s.core core).residents.any (fun r => r.idx == i))) with
  | some i => (s.updCore core (fun c => { c with residents := insertResident ⟨i, job⟩ c.residents })).rewriteSlots core
  | none => s

/-- A job leaves a core. -/
def State.dropResident (s : State) (core job : Nat) : State :=
  (s.updCore core (fun c => { c with residents := c.residents.filter (fun r => r.job != job) })).rewriteSlots core

/-- The cores of a list of tiles. -/
def coresOf (tiles : List Nat) : List Nat := tiles.flatMap (fun t => (List.range 8).map (fun c => 8 * t + c))

/-! ## Leaving -/

/-- Clears the memories of a job (R154, R155). -/
def State.clearJobMem (s : State) (job : Nat) : State :=
  let out (l : List Nat) (unit : Nat) : List Nat := l.filter (fun a => a / unit != job)
  { (((s.clearRange .loc (locAddr job 0 0) (16384 * 65536)).clearRange .scratch (scratchAddr job 0 0) (2048 * 1048576)).clearRange
      .code (codeAddr job 0 0) (2048 * 131072)) with
    eccLocal := out s.eccLocal (16384 * 65536)
    eccScratch := out s.eccScratch (2048 * 1048576)
    eccCode := out s.eccCode (2048 * 131072) }

/-- Frees what a job holds on one tile: its counters, entries and marked routines (R216, R217). -/
def clearTile (job : Nat) (s : State) (t : Nat) : State :=
  s.updTile t (fun x => { x with
    counters := x.counters.map (fun c => if c.owner = some job then ⟨none, 0, none⟩ else c)
    posted := x.posted.filter (fun p => p.job != job)
    badRoutines := x.badRoutines.filter (fun b => b.1 != job) })

/-- Drops every TLB entry tagged with a JOBID, on every die (R298). -/
def State.dropTlb (s : State) (job : Nat) : State :=
  let out (m : Map (List TlbEntry)) : Map (List TlbEntry) := m.map (fun e => (e.1, e.2.filter (fun x => x.job != job)))
  { s with stationTlb := out s.stationTlb, dieTlb := out s.dieTlb }

/-- The entries of the future tables a job owns become free, their handles stale. -/
def freeOwned (job : Nat) (m : Map Future) : Map Future :=
  m.map (fun e => if e.2.owner = some job then (e.1, ⟨none, false, 0, (e.2.gen + 1) % 65536, [], none⟩) else e)

/-- A far access in the name of a job that leaves goes on under the job's tag (R325, R359). -/
def Access.adopt (job tag : Nat) (a : Access) : Access := if a.job = job ∧ a.dev.isSome then { a with job := savedJob tag } else a

/-- A far send or a far access on its way to a job that leaves goes on under the job's tag: no context that comes to hold its JOBID takes it
(R325, R359). -/
def Packet.adopt (job tag : Nat) (p : Packet) : Packet :=
  match p.body with
  | .farSend _ _ _ _ => if p.job = job then { p with job := savedJob tag } else p
  | .access a => let b := a.adopt job tag; { p with job := if a.dev.isSome then b.job else p.job, body := .access b }
  | _ => p

/-- A job context leaves the device: its tiles, cores, counters, definitions, futures and JOBID are free (R257, R356). -/
def State.leave (s : State) (job : Nat) : State :=
  match s.job? job with
  | none => s
  | some j =>
    let s1 := j.place.foldl (clearTile job) (s.clearJobMem job)
    let s2 := { s1.dropTlb job with
      jobs := s.jobs.del job
      chans := s1.chans.filter (fun e => e.1 / 4 % 1024 != job)
      arrSeqs := s1.arrSeqs.filter (fun e => e.1 % 1024 != job)
      bankfmt := s1.bankfmt.filter (fun e => e.1 / 2048 != job)
      digests := s1.digests.del job
      jobTags := if j.jtag = 0 then s1.jobTags else s1.jobTags.set job (j.jtag % 65536)
      futures := freeOwned job s1.futures
      packets := s1.packets.map (Packet.adopt job j.jtag)
      walks := s1.walks.map (fun w => (w.1, w.2.adopt job j.jtag))
      routers := s1.routers.map (fun e => (e.1, { e.2 with defs := e.2.defs.filter (fun d => d.job != job) })) }
    (coresOf j.place).foldl (fun s c => s.dropResident c job) s2

/-! ## The completion of a launch (R281, R285) -/

/-- A STATUS word (R281). -/
def statusOf (code : Nat) (loss killed : Bool) (job : Nat) : Word :=
  BitVec.ofNat 64 (code + 256 * loss.toNat + 512 * killed.toNat + 65536 * job)

/-- The release that the launch unit performs on the completion of a job: every access of its tasks and requests, at system scope
(R252). -/
def State.launchRelease (s : State) (job : Nat) : Rel := ⟨.system, 0, s.jobKnown job, []⟩

/-- Writes STATUS into a record (R278), as a release: at a host-link address, or through the translation of the task that launched
it. -/
def State.writeStatus (s : State) (source addr parent : Nat) (w : Word) (rel : Rel) : State :=
  if source < launchUnit then s.writeBytes .host (addr + 16) (wordBytes w) .host 0 0 (some rel)
  else
    match (s.req? parent).bind (fun r => s.job? r.job) with
    | some j => s.ownWrite j.ptroot (addr + 16) .host (some rel) (wordBytes w)
    | none => s

/-- The release of a record that ends without a job of its own: nothing is ordered before it. -/
def plainRelease : Rel := ⟨.system, 0, [], []⟩

/-- The owners of the futures a record may name (R285). -/
def ownersOf (s : State) (source parent : Nat) : List Nat :=
  if source < launchUnit then [launchUnit]
  else match s.req? parent with
    | some r => [launchUnit, r.job]
    | none => [launchUnit]

/-- The launch unit's place in the mesh as seen from a virtual core (R233). -/
def State.launchEnd (s : State) (job vcore : Nat) : Endpoint :=
  match s.job? job with
  | some j => .west (tileY (j.tile (vcore / 8)))
  | none => .west 0

/-- A request served by the launch unit completes. -/
def State.finishAt (s : State) (r : Req) (results : List Word) : State :=
  s.finishReq (s.launchEnd r.job r.vcore) r (cmAcq r.cm) results

/-- A record ends: STATUS, DONEFUT, the interrupt of its queue or the completion of its `launch` (R285, R286, R373); `rel` is the release
of its completion (R252). -/
def State.endRecord (s : State) (source addr parent : Nat) (done status : Word) (rel : Rel) : State :=
  let s1 := (s.writeStatus source addr parent status rel).setFor (ownersOf s source parent) done status rel
  if source < launchUnit then { s1 with msix := s1.msix ++ [source] }
  else match s1.req? parent with
    | some r => s1.finishAt { r with know := r.know ++ rel.know } [status]
    | none => s1

/-- The launch of a job completes on this device, its context leaves, and its checkpoint begins (R285, R361). -/
def State.completeLaunch (s : State) (job : Nat) (j : Job) : State :=
  let status := statusOf 3 j.loss j.killed job
  ((s.endRecord j.source j.addr j.parent (j.words.getD 15 0) status (s.launchRelease job)).leave job).startCkpt j.words j.rank j.jtag

/-! ## Saving (R356 to R358) -/

/-- A word of a number. -/
def w64 (n : Nat) : List Byte := bytesOfNat n 8

/-- Zeros to the next multiple of 64. -/
def pad64 (l : List Byte) : List Byte := l ++ List.replicate ((64 - l.length % 64) % 64) 0

/-- Words 0 to 3 of the home record (R259). -/
def homeWords (j : Job) : List Nat :=
  [j.homew + 2 ^ 32 * j.wtotal + 2 ^ 37 * j.armed.toNat + 2 ^ 38 * j.loss.toNat + 2 ^ 39 * j.uncertain.toNat
     + 2 ^ 40 * j.census.isSome.toNat + 2 ^ 41 * j.drawq.length,
   j.qvcore + 2 ^ 14 * j.qclass, j.lostw + 2 ^ 32 * j.killw, j.woff]

/-- RTAB (R358). -/
def rtabBytes (j : Job) : List Byte := j.rtab.flatMap (fun e => wordBytes e.1 ++ wordBytes e.2)
/-- ACT (R335, R358). -/
def actBytes (j : Job) : List Byte :=
  j.acts.flatMap wordBytes ++ w64 j.ovr.length ++ w64 j.pqBase ++ w64 j.pqN ++ j.ovr.flatMap wordBytes
/-- The futures of a job, each with its key. -/
def ownedFutures (s : State) (job : Nat) : List (Nat × Future) := s.futures.filter (fun e => e.2.owner == some job)
/-- FUT (R358). -/
def futBytes (s : State) (job : Nat) : List Byte :=
  (ownedFutures s job).flatMap (fun e => wordBytes (mkHandle (e.1 / 16384) (e.1 % 16384) e.2.gen) ++ wordBytes e.2.value
    ++ w64 e.2.set.toNat)
/-- Insertion of a definition into a list by its ID. -/
def insertDef (d : NDef) : List NDef → List NDef
  | [] => [d]
  | q :: t => if d.nid < q.nid then d :: q :: t else q :: insertDef d t

/-- NRD: the definitions in ascending order of ID (R358). -/
def nrdBytes (j : Job) : List Byte := (j.ndefs.foldl (fun l d => insertDef d l) []).flatMap (fun d => (d.block.take 5).flatMap wordBytes ++ w64 0 ++ w64 0)

/-- A core of CORE (R358). -/
def coreBytes (s : State) (job : Nat) (j : Job) (v : Nat) : List Byte :=
  ((List.range 4).flatMap (fun ch => w64 (s.chan (j.core v) job ch).done)) ++ w64 (s.arrSeq (j.core v) job).next
    ++ w64 0 ++ w64 0 ++ w64 0 ++ s.localMem.read (locAddr job v 0) j.localLimit

/-- A tile of TILE (R358). -/
def tileBytes (s : State) (job : Nat) (j : Job) (vt : Nat) : List Byte :=
  let cs := (s.tile (j.tile vt)).counters.toList
  let mask := sumBy (fun i => match cs[i]? with
    | some c => if c.owner = some job then 2 ^ i else 0
    | none => 0) (List.range 64)
  let head := (s.formats job vt).flatMap wordBytes ++ w64 mask
    ++ cs.flatMap (fun c => bytesOfNat (if c.owner = some job then c.value else 0) 4)
  head ++ List.replicate (512 - head.length) 0 ++ s.scratch.read (scratchAddr job vt 0) j.tileLimit

/-- The sections of an area in their order, and the offset of each (R357). -/
def saveSections (s : State) (job : Nat) (j : Job) : List (List Byte) :=
  [pad64 (rtabBytes j), pad64 (actBytes j), pad64 (futBytes s job), pad64 (nrdBytes j),
   pad64 ((List.range (8 * j.vtiles)).flatMap (coreBytes s job j)), pad64 ((List.range j.vtiles).flatMap (tileBytes s job j))]

/-- The offsets of the sections and of what follows them, from a start. -/
def offsetsFrom : Nat → List (List Byte) → List Nat
  | a, [] => [a]
  | a, x :: t => a :: offsetsFrom (a + x.length) t

/-- OVFN of a launch record. -/
def Job.ovfn (j : Job) : Nat := fieldOf (j.word 7) 0 32

/-- The save area but for its spill ring, and the offset of that ring (R357). -/
def saveArea (s : State) (job : Nat) (j : Job) : List Byte × Nat :=
  let secs := saveSections s job j
  let offs := offsetsFrom 512 secs
  let spill := offs.getD 6 0
  let head := w64 (0x5A4E + 65536 * 1 + 2 ^ 24 * 1 + 2 ^ 32 * 0x00041536) ++ w64 (spill + 144 * j.ovfn)
    ++ w64 (j.vtiles + 2 ^ 12 * (ownedFutures s job).length + 2 ^ 28 * j.ndefs.length)
    ++ w64 (j.jtag + 65536 * j.tvalid.toNat) ++ (homeWords j).flatMap w64 ++ (offs.take 6).flatMap w64 ++ w64 spill
    ++ w64 j.ovfn ++ j.words.flatMap wordBytes
  (head ++ List.replicate (512 - head.length) 0 ++ secs.flatten, spill)

/-- Writes bytes at a virtual address of a job, page by page; `n` counts the 64 KiB steps. -/
def State.writeVirtBytes (s : State) (pt va : Nat) (path : Path) (bs : List Byte) : Nat → State
  | 0 => s
  | n + 1 =>
    match bs with
    | [] => s
    | bs =>
      let step := 65536 - va % 65536
      (s.ownWrite pt va path none (bs.take step)).writeVirtBytes pt (va + step) path (bs.drop step) n

/-- Why an area cannot be written: a page that is not present or not pinned gives NOMAP, one that is not writable PERM (R296, R357; log
20). -/
def areaRefusal (s : State) (pt area size : Nat) : Nat :=
  let n := size / 65536 + 2
  if !s.pinned pt area size n then 5 else if !s.pagesOk pteW pt area size n then 6 else 0

/-- The page tables of a job's context. -/
def State.rootOf (s : State) (job : Nat) : Nat :=
  match s.job? job with
  | some p => p.ptroot
  | none => 0

/-- Saves a context in place of its quiescence action (R356); an area that cannot be written gives its status, and the context goes on
(log 20). -/
def State.saveContext (s : State) (job : Nat) (j : Job) (r : Req) (area : Nat) : Except Nat State :=
  let pt := s.rootOf r.job
  let a := saveArea s job j
  let size := a.2 + 144 * j.ovfn
  let code := areaRefusal s pt area size
  if code ≠ 0 then .error code
  else
    match s.lookup pt area with
    | none => .error 5
    | some (pa, _) =>
      let s1 := s.writeVirtBytes pt area .copy a.1 (a.1.length / 65536 + 2)
      let s2 := (s1.leave job)
      let s3 := { s2 with saved := s2.saved ++ [(⟨pa, pt, { j with spillBase := area + a.2 }, area + a.2, j.ovfn, 0, []⟩ : Saved)] }
      .ok (s3.finishAt r [BitVec.ofNat 64 size])

end Sys2Proof.Machine
end

