-- ==== Sys2Proof/Machine/Translate.lean ====
section
/-! DEFINITION. Translation of requests at their entry stations: the TLBs, the walkers and the parking tables (R292 to R300), and
what an access whose translation fails comes to (R188, R189, R193, R327). -/

namespace Sys2Proof.Machine

/-! ## Accesses -/

/-- The physical address of an access not yet translated. -/
def noPa : Nat := 2 ^ 52

/-- An access that writes. -/
def accWrites : AccKind → Bool
  | .read => false
  | .write => true
  | .store => true
  | .near f _ => f != 5
  | .tileRead _ => false
  | .tileWrite _ _ => true

/-- The station of a tile's column slice (R230, R297). -/
def entryStation (tile : Nat) : Endpoint := let c := columnSlice tile; .slice c.1 c.2

/-- The slice of a station's number. -/
def stationEnd (st : Nat) : Endpoint := .slice (st / 32) (st % 32)

/-- The number of a slice. -/
def stationNo : Endpoint → Option Nat
  | .slice d n => some (32 * d + n)
  | _ => none

/-- The virtual core of a job that a core is. -/
def vcoreAt (j : Job) (core : Nat) : Nat := 8 * j.place.idxOf (tileOf core) + core % 8

/-- The virtual core that issued an access. -/
def issuerOf (s : State) (a : Access) : Nat :=
  match s.job? a.job with
  | some j => vcoreAt j a.core
  | none => 0

/-- Puts a packet at a unit that needs no way through the mesh to it. -/
def State.postAt (s : State) (at_ : Endpoint) (job : Nat) (b : Body) : State :=
  { s with
    packets := s.packets ++ [(⟨s.serial, .request, at_, at_, .dest, s.clk, 1, 0, [], job, 0, b⟩ : Packet)]
    serial := s.serial + 1 }

/-- The flits of an access's packet (R231). -/
def accessFlits (a : Access) : Nat :=
  match a.kind with
  | .write => (32 + a.len + 31) / 32
  | .store => (32 + a.len + 31) / 32
  | .tileWrite _ _ => (16 + a.len + 31) / 32
  | .near _ b => (16 + 8 * b.length + 31) / 32
  | _ => 1

/-- An access leaves the unit that issues it for the station of its tile's column slice (R187, R297). -/
def State.toStation (s : State) (a : Access) (queue : Nat) (waits : List Nat) : State :=
  s.post .request a.home (entryStation (tileOf a.core)) a.job (accessFlits a) queue waits (.access a)

/-- An answer's packet: read data takes its flits (R231). -/
def State.answer (s : State) (src : Endpoint) (a : Access) (b : Body) : State :=
  s.post .reply src a.home a.job ((16 + a.data.length + 31) / 32) 0 [] b

/-! ## Results and failures -/

/-- The failure of the lowest address decides the status (R188). -/
def Req.noteFail (r : Req) (code va : Nat) : Req :=
  if r.code = 0 ∨ va < r.failAt then { r with code := code, failAt := va } else r

/-- A transfer goes on with its piece. -/
def State.wakeTransfer (s : State) (req : Nat) : State :=
  { s with btes := s.btes.map (fun e => (e.1, replaceIf (fun t => t.req == req) (fun t => { t with waiting := false }) e.2)) }

/-- The tag of a job, for a fabric packet. -/
def State.jtag (s : State) (job : Nat) : Nat :=
  match s.context? job with
  | some j => j.jtag
  | none => 0

/-- A failing access of a far request concerns the issuing job: nothing is changed, and the error is logged on both devices with the
failing address (R327, R343). -/
def State.farFailed (s : State) (src : Endpoint) (a : Access) (dev sub : Nat) : State :=
  ({ s with log := s.log ++ [LogEntry.fatal sub a.job (BitVec.ofNat 64 a.va)] }).fabAnswer src a.job dev (s.jtag a.job)
    (.failed false a.req sub a.va)

/-- The answer of an access goes to its issuer: to its NI or BTE, or over the fabric. -/
def State.toIssuer (s : State) (src : Endpoint) (a : Access) : State :=
  match a.dev with
  | none => s.answer src a (.performed a)
  | some d => s.fabAnswer src a.job d (s.jtag a.job) (match a.kind with
      | .near _ _ => .result a.req a.status a.flags (leWords a.data (a.data.length / 8))
      | _ => .data a.req a.va a.data)

/-- The result words of an operation that failed: a `chase` gives its node, 0 and its hops (R193); the others none. -/
def failWords (a : Access) : List Word :=
  match a.kind with
  | .near 5 _ => [BitVec.ofNat 64 a.va, 0, BitVec.ofNat 64 a.hops]
  | _ => []

/-- A chase gives its forward credit back where it leaves the engine that holds it (R326). -/
def State.freeCredit (s : State) (a : Access) : State :=
  if a.node = 0 then s else { s with fwdCredits := s.fwdCredits.set (a.node - 1) (s.fwdCredits.getD (a.node - 1) 0 - 1) }

/-- An access fails with a status (R188, R193); a failing `gst` is acknowledged and is a fatal context error (R189, R343). -/
def State.failAccess (s0 : State) (src : Endpoint) (a : Access) (code : Nat) : State :=
  let s := s0.freeCredit a
  match a.dev with
  | some d => s.farFailed src a d 2
  | none =>
    match a.kind with
    | .store => (s.reply src (.ni (tileOf a.core)) a.job (.holdAck a.task a.acc)).fatal a.job (issuerOf s a) 1 0 (BitVec.ofNat 64 a.va) src
    | _ => s.toIssuer src { a with status := code, data := (failWords a).flatMap wordBytes, node := 0 }

/-! ## Entries and TLBs (R297) -/

/-- Writes a PTE with an 8-byte single-copy atomic operation. -/
def State.writePte (s : State) (addr e : Nat) : State := s.writeBytes .hbm addr (bytesOfNat e 8) .stor 0 0 none

/-- A PTE as it stands. -/
def State.pteAt (s : State) (addr : Nat) : Nat := leNat (s.hbm.read addr 8)

/-- Changes the bits of a PTE that the entry station keeps, where it still maps the frame that was loaded (R297, R298). -/
def State.updPte (s : State) (addr pte : Nat) (f : Nat → Nat) : State :=
  let e := s.pteAt addr
  if pteP e && pteLeaf e && pteFrame e == pteFrame pte then s.writePte addr (f e) else s

/-- The entry of a TLB that covers an address; one that is being dropped may be used or not (R298). -/
def tlbHit (s : State) (l : List TlbEntry) (job va : Nat) : Option TlbEntry :=
  let covers (e : TlbEntry) : Bool := e.job == job && e.va / 2 ^ e.bits == va / 2 ^ e.bits
  match l.find? (fun e => covers e && !e.dying) with
  | some e => some e
  | none => if Config.pick s.free 72 % 2 = 0 then l.find? covers else none

/-- Takes an entry into a TLB of a size; a full one gives up any of its entries. -/
def tlbInsert (s : State) (size : Nat) (l : List TlbEntry) (e : TlbEntry) : List TlbEntry :=
  let l1 := l.filter (fun x => !(x.job == e.job && x.pteAddr == e.pteAddr))
  if l1.length < size then l1 ++ [e] else l1.eraseIdx (Config.pick s.free (700 + size) % l1.length) ++ [e]

/-- The entry station loads a PTE into its TLB: ACNT rises, to 15 at most (R297). -/
def State.loadStation (s : State) (st : Nat) (e : TlbEntry) : State :=
  let s1 := { s with stationTlb := s.stationTlb.set st (tlbInsert s 128 (s.stationTlb.getD st []) e) }
  s1.updPte e.pteAddr e.pte (fun p => putField p 12 4 (min (pteAcnt p + 1) 15))

/-- The die's last-level TLB takes an entry. -/
def State.loadDie (s : State) (die : Nat) (e : TlbEntry) : State :=
  { s with dieTlb := s.dieTlb.set die (tlbInsert s 4096 (s.dieTlb.getD die []) e) }

/-- Marks an entry dirty in a TLB. -/
def dirtyIn (e : TlbEntry) (l : List TlbEntry) : List TlbEntry :=
  replaceIf (fun x => x == e) (fun x => { x with pte := putField x.pte 5 1 1 }) l

/-- The first write through an entry sets D before it is passed on (R297). -/
def State.setDirty (s : State) (st : Nat) (e : TlbEntry) : State :=
  if pteD e.pte then s
  else
    { (s.updPte e.pteAddr e.pte (fun p => putField p 5 1 1)) with
      stationTlb := s.stationTlb.set st (dirtyIn e (s.stationTlb.getD st [])) }

/-! ## Access counts (R306) -/

/-- The period of the review. -/
def reviewPeriod : Nat := 2 ^ 20

/-- The count of a die's accesses to a 2 MiB region of a job in a period. -/
def countKey (period die job va : Nat) : Nat := ((period * 8 + die) * 1024 + job) * 2 ^ 31 + va / 2 ^ 21

/-- Counts an access at a station; counts older than the last period are forgotten. -/
def State.countAccess (s : State) (die job va : Nat) : State :=
  let now := s.clk / reviewPeriod
  let k := countKey now die job va
  let m := s.counts.filter (fun e => decide (now ≤ e.1 / 2 ^ 44 + 1))
  { s with counts := Map.set m k (Map.getD m k 0 + 1) }

/-! ## On to the serving unit -/

/-- A translated access goes to the unit that serves its frame; an operation on the slice of the station itself is there
at once. -/
def State.passOn (s : State) (st : Nat) (a : Access) : State :=
  let here := stationEnd st
  let unit := servingUnit a.pa here.row
  if unit = here then s.postAt here a.job (.access a)
  else (s.freeCredit a).post .request here unit a.job (accessFlits a) 0 [] (.access { a with node := 0 })

/-- A use of an entry by an access of a job at a station: PERM on a page that is not writable for a write, or not pinned where it must be
(R188, R296, R299); else the physical address, with D set for a write and the access counted (R297, R306). -/
def State.useEntry (s : State) (st : Nat) (e : TlbEntry) (va : Nat) (write pin : Bool) : Except Nat (State × Nat) :=
  if (pin && !ptePin e.pte) || (write && !pteW e.pte) then .error 6
  else
    let pa := pteFrame e.pte + va % 2 ^ e.bits
    match physSpace pa with
    | none => .error 5
    | some _ => .ok ((if write then s.setDirty st e else s).countAccess (st / 32) e.job va, pa)

/-- An access goes through an entry: it fails, or goes on with its physical address. -/
def State.throughEntry (s : State) (st : Nat) (e : TlbEntry) (a : Access) : State :=
  match s.useEntry st e a.va (accWrites a.kind) a.dev.isSome with
  | .error code => s.failAccess (stationEnd st) a code
  | .ok (s1, pa) => s1.passOn st { a with pa := pa, st := st }

/-! ## Parking (R300) -/

/-- Requests a die has parked. -/
def parkedCount (s : State) (die : Nat) : Nat := sumBy (fun r => r.parked.length) (s.services.getD die [])

/-- Adds a request to the record of its page. -/
def joinRecord (pteAddr : Nat) (a : Access) : List Parking → List Parking
  | [] => [⟨pteAddr, [a]⟩]
  | r :: t => if r.pteAddr = pteAddr then { r with parked := r.parked ++ [a] } :: t else r :: joinRecord pteAddr a t

/-- Hands a page's record to the SQE of its port, which merges the records of several dies (R300). -/
def State.handOver (s : State) (pteAddr locator bits : Nat) : State :=
  let port := locPort locator
  let l := s.sqes.getD port []
  if l.any (fun r => r.pteAddr == pteAddr) then s
  else { s with sqes := s.sqes.set port (l ++ [(⟨pteAddr, locator, bits, none, 0, none, false⟩ : Service)]) }

/-- Parks a request on a page at a station's die; a full table refuses it (R300), one of another device with RETRY, since its NI has no
other resend (log 52: DESIGN CHOICE). -/
def State.park (s : State) (a : Access) (pteAddr : Nat) : State :=
  let die := a.st / 32
  if 4096 ≤ parkedCount s die then
    match a.dev with
    | none => s.reply (stationEnd a.st) a.home a.job (.parkRefused { a with node := 0 })
    | some d => s.fabAnswer (stationEnd a.st) a.job d (s.jtag a.job) (.retryReq a.req (Config.pick s.free 61 % 7) a.va a.hops false)
  else { s with services := s.services.set die (joinRecord pteAddr { a with node := 0 } (s.services.getD die [])) }

/-- Parks a request on a page in storage and hands its record to the SQE, or has it refused. -/
def State.parkStored (s : State) (a : Access) (pteAddr locator bits : Nat) : State :=
  if 4096 ≤ parkedCount s (a.st / 32) then (s.freeCredit a).park a pteAddr
  else ((s.freeCredit a).park a pteAddr).handOver pteAddr locator bits

/-- The requests parked on a page over all dies, in the order they parked there, leave the tables. -/
def parkedOn (s : State) (pteAddr : Nat) : List Access :=
  s.services.flatMap (fun e => (e.2.filter (fun r => r.pteAddr == pteAddr)).flatMap (fun r => r.parked))

/-- Takes a page's records out of the tables. -/
def State.clearParked (s : State) (pteAddr : Nat) : State :=
  { s with services := s.services.map (fun e => (e.1, e.2.filter (fun r => r.pteAddr != pteAddr))) }

/-- One parked request is translated again at its station (R302 step 5). -/
def State.translateAgain (s : State) (a : Access) : State := s.postAt (stationEnd a.st) a.job (.access { a with pa := noPa })

/-- Releases the requests parked on a page. -/
def State.releaseParked (s : State) (pteAddr : Nat) : State :=
  (parkedOn s pteAddr).foldl State.translateAgain (s.clearParked pteAddr)

/-- The requests parked on a page end with a status. -/
def State.failParked (s : State) (pteAddr code : Nat) : State :=
  (parkedOn s pteAddr).foldl (fun s a => s.failAccess (stationEnd a.st) a code) (s.clearParked pteAddr)

/-! ## Walks (R296) -/

/-- What the look-up of an address of a job at a station ends on: an entry in its TLB, a page that hardware is moving, a page in storage,
or a status. -/
inductive Looked where
  | entry (s : State) (e : TlbEntry)
  | busy (addr : Nat)
  | stored (e addr bits : Nat)
  | fails (code : Nat)
  deriving Repr

/-- A walk of an address for a station: a present page's entry is loaded into the die's TLB and its own (R296, R297). -/
def State.walkFor (s : State) (st job root va : Nat) : Looked :=
  match s.walk root va with
  | .page _ e addr bits =>
    if pteBusy e then .busy addr
    else
      let t : TlbEntry := ⟨job, va / 2 ^ bits * 2 ^ bits, bits, e, addr, false⟩
      .entry ((s.loadDie (st / 32) t).loadStation st t) t
  | .locator e addr bits => .stored e addr bits
  | .nomap => .fails 5
  | .badcmd => .fails 12

/-- A look-up at a station: its TLB, the die's, then a walk (R297). -/
def State.look (s : State) (st job root va : Nat) : Looked :=
  match tlbHit s (s.stationTlb.getD st []) job va, tlbHit s (s.dieTlb.getD (st / 32) []) job va with
  | some e, _ => .entry s e
  | none, some e => .entry (s.loadStation st e) e
  | none, none => s.walkFor st job root va

/-- What an access does on the end of its look-up: it goes through the entry; a page in storage, or one that hardware is moving, parks
it; else it fails. A far request goes only to a page that is present and pinned (R327). -/
def State.looked (s : State) (a : Access) : Looked → State
  | .entry s1 e => s1.throughEntry a.st e a
  | .busy addr => (s.freeCredit a).park a addr
  | .stored e addr bits => if a.dev.isSome then s.failAccess (stationEnd a.st) a 5 else s.parkStored a addr e bits
  | .fails code => s.failAccess (stationEnd a.st) a code

/-- The end of a walk for an access. -/
def State.walked (s : State) (a : Access) : State :=
  match s.context? a.job with
  | none => s
  | some j => s.looked a (s.walkFor a.st a.job j.ptroot a.va)

/-- What ends a near-memory operation before its address is translated (R190, R193, R194): a status, with a chase's null pointer
and hop limit among them. -/
def nearBefore (a : Access) : Option Nat :=
  match a.kind with
  | .near f b =>
    let w := if (wordAt b 0).testBit 13 then 8 else 4
    if f = 5 then
      if a.va = 0 then some 10
      else if a.va % 8 ≠ 0 then some 3
      else if a.hops = fieldOf (wordAt b 5) 48 11 then some 11
      else none
    else if f = 4 then
      if wordAt b 4 = 0 then some 12 else if wordAt b 4 % 8 ≠ 0 ∨ a.va % 16 ≠ 0 then some 3 else none
    else if f = 3 then (if a.va % 32 ≠ 0 then some 3 else none)
    else if 6 ≤ f ∧ f ≤ 8 then
      (if a.va % 4 ≠ 0 ∨ 128 < a.va % 128 + 8 * fieldOf (wordAt b 0) 15 4 then some 3 else none)
    else if a.va % w ≠ 0 then some 3
    else none
  | _ => none

/-- An operation on this device that ends before its translation, with its status; on its issuer's device alone can one end so
without a fatal error. -/
def State.endNear (s : State) (src : Endpoint) (a : Access) (code : Nat) : State :=
  (s.freeCredit a).toIssuer src { a with status := code, data := (failWords a).flatMap wordBytes, node := 0 }

/-- An access whose job has left the device is dropped; one of another device gets RETRY for want of its tag (R325). -/
def State.noContext (s : State) (src : Endpoint) (a : Access) : State :=
  match a.dev with
  | some d => s.fabAnswer src a.job d (a.job - 2 ^ 20) (.retryReq a.req (Config.pick s.free 61 % 7) a.va a.hops true)
  | none => s

/-- The entry station looks an access up in its TLB, then in the die's, then has it walked by one of the die's 16 walkers
(R297). -/
def execStationTranslate (pkt : Nat) (s : State) : Host.Outcome State Fault Refusal :=
  match s.arrived? pkt with
  | some p =>
    match stationNo p.dst, p.body with
    | some st, .access a0 =>
      if a0.pa ≠ noPa then .next s
      else
        let a := { a0 with st := st }
        let s1 := { (s.dropPacket pkt) with free := s.free + 1 }
        match nearBefore a, s.context? a.job with
        | some code, _ => .next (s1.endNear p.dst a code)
        | none, none => .next (s1.noContext p.dst a)
        | none, some _ =>
          if 2 ^ 52 ≤ a.va then .next (s1.failAccess p.dst a 5)
          else
            match tlbHit s (s.stationTlb.getD st []) a.job a.va, tlbHit s (s.dieTlb.getD (st / 32) []) a.job a.va with
            | some e, _ => .next (s1.throughEntry st e a)
            | none, some e => .next ((s1.loadStation st e).throughEntry st e a)
            | none, none =>
              if (s.walks.filter (fun w => w.2.st / 32 == st / 32)).length < 16 then
                .next { s1 with walks := s1.walks ++ [(s1.serial, a)], serial := s1.serial + 1 }
              else .next s
    | _, _ => .next s
  | none => .next s

/-- A walker completes a walk (R296). -/
def execPageWalk (walk : Nat) (s : State) : Host.Outcome State Fault Refusal :=
  match s.walks.find? (fun w => w.1 == walk) with
  | some w => .next { (({ s with walks := s.walks.filter (fun x => x.1 != walk) }).walked w.2) with free := s.free + 1 }
  | none => .next s

/-- A request that a full parking table refused is sent again 64 clk after its refusal reached the NI or the BTE that issued it (R300,
R381). -/
def execParkedRequestResend (pkt : Nat) (s : State) : Host.Outcome State Fault Refusal :=
  match s.arrived? pkt with
  | some p =>
    match p.body with
    | .parkRefused a =>
      if p.ready + 64 ≤ s.clk then .next ((s.dropPacket pkt).toStation { a with pa := noPa } 0 []) else .next s
    | _ => .next s
  | none => .next s

end Sys2Proof.Machine
end

