-- ==== Sys2Proof/Machine/Global.lean ====
section
/-! DEFINITION. Block reads and writes of global memory and the posted scalar store (R187 to R189). -/

namespace Sys2Proof.Machine

/-! ## Pieces -/

/-- Cuts n bytes from g on into pieces that end at 128-byte lines: the offset and length of each. -/
def cutLines (g off n : Nat) : Nat → List (Nat × Nat)
  | 0 => []
  | fuel + 1 =>
    if n = 0 then []
    else
      let k := min n (128 - (g + off) % 128)
      (off, k) :: cutLines g (off + k) (n - k) fuel

/-- The pieces of a range. -/
def pieces (g n : Nat) : List (Nat × Nat) := cutLines g 0 n (n / 128 + 2)

/-- The side of a block transfer in its tile: the space and the flat address of a byte of it. -/
def sideOf (job vcore a : Nat) (tile : Bool) : Space × Nat :=
  if tile then (.scratch, scratchAddr job (vcore / 8) a) else (.loc, locAddr job vcore a)

/-- A global location of a job, for the order of R247. -/
def globalRange (job va n : Nat) : Space × Nat × Nat := (.hbm, job * 2 ^ 52 + va, job * 2 ^ 52 + va + n)

/-! ## grd and gwr (R187) -/

/-- The checks of the block at issue. -/
def gxCheck (j : Job) (b : List Word) (tile : Bool) : Except Stop Unit := do
  limits (decide (wordAt b 0 < 2 ^ 52))
  limits (decide (wordAt b 1 < if tile then 2 ^ 20 else 2 ^ 16))
  limits (decide (1 ≤ wordAt b 2 ∧ wordAt b 2 ≤ if tile then 0x100000 else 0x10000))
  cmsgLimits j (b.getD 3 0) true

/-- The status of a range that leaves the local memory or the scratchpad of the job (R187, R284). -/
def gxStatus (j : Job) (a n : Nat) (tile : Bool) : Nat :=
  if tile then (if min 0x100000 j.tileLimit < a + n then 2 else 0) else if min 0x10000 j.localLimit < a + n then 1 else 0

/-- Sends the pieces of a request, which together keep its place in the NI's request queue until the last of them has left (R182). -/
def sendPieces (w : Issuer) (r : Req) (kind : AccKind) (g a : Nat) : State → List (Nat × Nat) → State
  | s, [] => s
  | s, (off, n) :: t =>
    let x : Access := ⟨r.id, r.job, r.task, r.core, kind, g + off, noPa, n, [], a + off, 0, 0, 0, 0, 0, r.rel, r.know, r.acc, none,
      .ni (tileOf r.core)⟩
    sendPieces w r kind g a (s.toStation x w.queue r.waits) t

/-- A block transfer leaves for global memory, or ends at once with the status of its range. -/
def queueBlock (w : Issuer) (wr_ tile q : Bool) (b : List Word) (v : Nat) (s : State) : State :=
  match s.job? w.job with
  | none => s
  | some j =>
    let g := wordAt b 0
    let a := wordAt b 1
    let n := wordAt b 2
    let cm : Cmsg := ⟨b.getD 3 0, b.getD 4 0⟩
    let ps := pieces g n
    let side := sideOf w.job w.vcore a tile
    let kind := if wr_ then ReqKind.gwr g a n tile else .grd g a n tile q
    let ranges := [globalRange w.job g n, (side.1, side.2, side.2 + n)]
    let r := s.newReq w kind v cm .copy (if wr_ && q then some (cmScope cm) else none) ps.length ranges
    let s1 := s.addReq w .copy .die ranges r
    let code := gxStatus j a n tile
    if code ≠ 0 then s1.finishReq w.ni { r with code := code } (!wr_ && q) []
    else sendPieces w r (if wr_ then .write else .read) g side.2 s1 ps

/-- The shape of `grd` and `gwr`. -/
def blockTransfer (wr_ : Bool) (a b : Name) (q l : Bool) (s : State) : Res := do
  srcs [b]
  let j ← theJob s
  let words ← block s a 5
  gxCheck j words l
  ready (niRoom s .die)
  blockOk s a 5
  let v ← rd s 60 b
  let s1 ← takeWeight s v.toNat
  fall (queueBlock s1.issuer wr_ l q words v.toNat s1)

/-- `grd` (R187): `l` says that the tile is the local side, `q` that the completion is an acquire. -/
def execGrd (a b : Name) (q l : Bool) (m : Mark) (s : State) : Host.Outcome State Fault Refusal :=
  issue32 m s (blockTransfer false a b q l s)

/-- `gwr` (R187): `q` makes it a release. -/
def execGwr (a b : Name) (q l : Bool) (m : Mark) (s : State) : Host.Outcome State Fault Refusal :=
  issue32 m s (blockTransfer true a b q l s)

/-- The side of a block transfer in its tile, from its request. -/
def reqSide (r : Req) : Space :=
  match r.kind with
  | .grd _ _ _ true _ => .scratch
  | .gwr _ _ _ true => .scratch
  | _ => .loc

/-- The banks of the lines that the bytes of a side occupy: none in local memory. -/
def sideBanks (sp : Space) (flat n : Nat) : List Nat := if sp = .scratch then lineBanks [flat % 2 ^ 20] n else []

/-- The NI's landing or source port is granted the banks of a range of its tile, or waits (R156). -/
def State.niPort (s : State) (tile port : Nat) (sp : Space) (flat n : Nat) : Option State := s.takeBanks tile port (sideBanks sp flat n)

/-- The first byte of a side's range with an uncorrectable error. -/
def badByte (s : State) (sp : Space) (flat n : Nat) : Option Nat := firstBad (if sp = .loc then s.eccLocal else s.eccScratch) flat n

/-- The address in its core or tile of a byte of a side. -/
def sideAddr (sp : Space) (flat : Nat) : Nat := flat % 2 ^ (if sp = .loc then 16 else 20)

/-- A piece of a `gwr` is read as it leaves the NI (R187): a byte with an uncorrectable error raises ECCLOC on the job instead
(R330). -/
def State.fillPiece (s : State) (r : Req) (a : Access) : Except State Access :=
  let sp := reqSide r
  match badByte s sp a.landing a.len with
  | some i => .error (s.raiseReq (.ni (tileOf r.core)) r .eccloc (BitVec.ofNat 64 (sideAddr sp (a.landing + i))))
  | none => .ok { a with data := s.readBytes (readerOf s .copy r.task r.know) sp a.landing a.len 20 }

/-! ## gst (R189) -/

/-- `gst` (R189): it joins the hold of its task; with Q it is a release at device scope. Its D names any source of R18. -/
def execGst (d a : Name) (o : BitVec 6) (z : Size) (q : Bool) (m : Mark) (s : State) : Host.Outcome State Fault Refusal :=
  issue 4 m.g.val m.s s (do
    begin_ s 4 true
    srcs [a]
    srcs [d]
    let base ← rd s 0 a
    let ea := effective s base o z
    let size := sizeOf_ z
    if ea % size ≠ 0 then raise .align (argOf ea)
    let v ← rd s 1 d
    ready (niRoom s .die)
    let s1 ← joinHold s
    let w := s1.issuer
    let va := if ea < 0 then 2 ^ 52 else ea.toNat
    let rel := if q then some Scope.device else none
    let waits := w.waits s1 .core rel ++ s1.overlapping w.task .core [globalRange w.job va size]
    let x : Access := ⟨0, w.job, w.task, w.core, .store, va, noPa, size, bytesOfNat v.toNat size, 0, 0, 0, 0, 0, 0,
      rel.map (w.release s1 .core), knowOn w.know w.fences .core, s1.serial, none, w.ni⟩
    fall ((s1.newAccAt w.task .die .core [globalRange w.job va size]).toStation x w.queue waits))

/-! ## At the serving unit -/

/-- The path of an access to global memory (R245). -/
def accPath : AccKind → Path
  | .store => .core
  | .near _ _ => .near
  | _ => .copy

/-- A request whose completion starts an acquire, of the access of this device that reads for it. -/
def State.acquiring (s : State) (a : Access) : Option Req :=
  match a.dev, s.req? a.req with
  | none, some r => (match r.kind with
    | .grd _ _ _ _ true => some r
    | .copy _ _ _ _ => if cmAcq r.cm then some r else none
    | _ => none)
  | _, _ => none

/-- Bytes are read on the COPY path for an access, which gains what the releases order whose values it reads (R251). -/
def State.copyRead (s : State) (a : Access) (sp : Space) (at_ : Nat) : State × List Byte :=
  let rdr := readerOf s .copy a.task a.know
  let s1 := match s.acquiring a with
    | some r => s.acquireAt r.id (cmScope r.cm) r.core sp at_ (s.releasesRead rdr sp at_ a.len 21)
    | none => s
  (s1, s.readBytes rdr sp at_ a.len 21)

/-- A piece or a store is performed at the unit that serves it, single-copy atomic (R187, R189). -/
def performPiece (s : State) (src : Endpoint) (a : Access) : State :=
  match physSpace a.pa with
  | none => s.failAccess src a 5
  | some (sp, pa) =>
    match a.kind with
    | .read => let r := s.copyRead a sp pa; r.1.toIssuer src { a with data := r.2 }
    | .write => (s.writeBytes sp pa a.data .copy a.task a.acc a.rel).toIssuer src { a with data := [] }
    | .store => ((s.writeBytes sp pa a.data .core a.task a.acc a.rel).performAcc a.acc).reply src (.ni (tileOf a.core)) a.job
        (.holdAck a.task a.acc)
    | _ => s

/-- A run of bytes to write whose last byte keeps its upper half. -/
def keepHalf (s : State) (sp : Space) (flat : Nat) (bs : List Byte) : List Byte :=
  match bs.reverse with
  | b :: t => (BitVec.ofNat 8 (b.toNat % 16 + ((s.mem sp).get (flat + t.length)).toNat / 16 * 16) :: t).reverse
  | [] => []

/-- A piece of a copy is read or written in a tile by its NI, through the port of the bank (R156, R198): a byte with an uncorrectable
error answers with the status 256 and its address (R330). None while a bank is taken. -/
def performTile (s : State) (tile : Nat) (a : Access) : Option State :=
  match a.kind with
  | .tileRead t =>
    let sp := if t then Space.scratch else .loc
    (s.niPort tile portSource sp a.landing a.len).map (fun s1 => match badByte s sp a.landing a.len with
      | some i => s1.toIssuer (.ni tile) { a with status := 256, va := sideAddr sp (a.landing + i) }
      | none => let r := s1.copyRead a sp a.landing; r.1.toIssuer (.ni tile) { a with data := r.2 })
  | .tileWrite t keep =>
    let sp := if t then Space.scratch else .loc
    let bs := if keep then keepHalf s sp a.landing a.data else a.data
    (s.niPort tile portLanding sp a.landing bs.length).map (fun s1 =>
      (s1.writeBytes sp a.landing bs .copy a.task a.acc a.rel).toIssuer (.ni tile) { a with data := [] })
  | _ => some s

/-- A piece of a request or a store. -/
def isPiece : AccKind → Bool
  | .read => true
  | .write => true
  | .store => true
  | _ => false

/-- A piece of a copy for the NI of a tile. -/
def isTilePiece : AccKind → Bool
  | .tileRead _ => true
  | .tileWrite _ _ => true
  | _ => false

/-- A request that stands in the input queue of a slice engine, translated: a near-memory operation, or a piece of a copy of another
device (R326). -/
def engineWaits (s : State) (at_ : Endpoint) (p : Packet) : Bool :=
  p.pos == .dest && p.dst == at_ && decide (p.ready ≤ s.clk) && (match p.body with
    | .access a => a.pa != noPa && a.node == 0 && (a.dev.isSome || (match a.kind with
        | .near _ _ => true
        | _ => false))
    | _ => false)

/-- How many requests an engine's input queue holds before this one. -/
def queuedBefore (s : State) (p : Packet) : Nat :=
  (s.packets.filter (fun q => engineWaits s p.dst q
    && (decide (q.ready < p.ready) || (q.ready == p.ready && decide (q.id < p.id))))).length

/-- Requests that the input queue of an engine holds. -/
def engineQueue : Nat := 32

/-- RETRY, with a HINT of 0 to 6 (R326). -/
def State.turnAway (s : State) (src : Endpoint) (a : Access) (hint : Nat) : State :=
  match a.dev with
  | none => s.reply src a.home a.job (.turnedAway a (min hint 6))
  | some d => s.fabAnswer src a.job d (s.jtag a.job) (.retryReq a.req (min hint 6) a.va a.hops false)

/-- The serving unit performs a read, a write or a store and answers (R187), and turns a piece of another device away where its input
queue is full (R326); a piece of a copy waits at its NI for the banks. -/
def execGlobalPiecePerform (pkt : Nat) (s : State) : Host.Outcome State Fault Refusal :=
  match s.arrived? pkt with
  | some p =>
    match p.body, p.dst with
    | .access a, .ni tile =>
      if isTilePiece a.kind then
        match performTile (s.dropPacket pkt) tile a with
        | some t => .next { t with free := s.free + 1 }
        | none => .next s
      else .next s
    | .access a, d =>
      if a.pa = noPa ∨ !isPiece a.kind then .next s
      else if a.dev.isSome && decide (engineQueue ≤ queuedBefore s p) then
        .next { ((s.dropPacket pkt).turnAway d a (Config.pick s.free 61 % 7)) with free := s.free + 1 }
      else if a.dev.isSome && decide (0 < queuedBefore s p) then .next s
      else .next { (performPiece (s.dropPacket pkt) d a) with free := s.free + 1 }
    | _, _ => .next s
  | none => .next s

/-- A piece has been written or has failed: the last one completes the request (R187, R188). -/
def State.pieceDone (s : State) (r : Req) (acq : Bool) : State :=
  if r.left ≤ 1 then s.finishReq (.ni (tileOf r.core)) { r with left := 0 } acq []
  else s.updReq r.id (fun _ => { r with left := r.left - 1 })

/-- The completion of a request starts an acquire by its kind (R187). -/
def acquires (r : Req) : Bool :=
  match r.kind with
  | .grd _ _ _ _ q => q
  | _ => false

/-- What a `grd` or a `gwr` comes to when a piece of it is back at the NI; none while the bank it lands in is taken. -/
def landPiece (s : State) (r : Req) (a : Access) : Option State :=
  if a.status ≠ 0 then some (s.pieceDone (r.noteFail a.status a.va) (acquires r))
  else
    match r.kind with
    | .grd _ _ _ _ q => (s.niPort (tileOf r.core) portLanding (reqSide r) a.landing a.len).map (fun s1 =>
        (s1.writeBytes (reqSide r) a.landing a.data .copy r.task r.acc none).pieceDone { r with count := r.count + a.len } q)
    | _ => some (s.pieceDone { r with count := r.count + a.len } false)

/-- The answer of a near-memory operation completes its request at the NI, with its results (R180, R191). -/
def landNear (s : State) (r : Req) (status flags : Nat) (words : List Word) : State :=
  s.finishReq (.ni (tileOf r.core)) { r with code := status, flags := flags, count := 0 } (cmAcq r.cm) words

end Sys2Proof.Machine
end

