-- ==== Sys2Proof/Machine/Message.lean ====
section
/-! DEFINITION. Placement of messages (R143), their order at the sender (R185), and the send instructions (R183 to R186). -/

namespace Sys2Proof.Machine

/-! ## Placement (R143) -/

/-- The element of a list with the least measure, the earliest of equals. -/
def leastBy {α : Type} (f : α → Nat) : α → List α → α
  | x, [] => x
  | x, y :: t => if f y < f x then leastBy f y t else leastBy f x t

/-- Slots of a core's mailbox that a job's quota holds taken (R142). -/
def slotsUsed (s : State) (core job : Nat) : Nat :=
  ((s.core core).mailbox.filter (fun m => m.msg.job == job && hdrKind m.msg.hdr != 3)).length

/-- A free slot for a message of the job: control messages share 8 slots (R142). -/
def slotFree (s : State) (job : Nat) (j : Job) (core : Nat) (control : Bool) : Bool :=
  if control then decide (((s.core core).mailbox.filter (fun m => hdrKind m.msg.hdr == 3)).length < 8)
  else decide (slotsUsed s core job < j.quota)

/-- The load of a core for a job: the job's waiting messages in its mailbox and the core's busy task contexts, whichever job they run
for (R143). -/
def loadOf (s : State) (job core : Nat) : Nat :=
  ((s.core core).mailbox.filter (fun m => m.msg.job == job)).length
    + ((List.range 8).filter (fun hc => (s.ctxs.get? (10 * core + hc)).isSome)).length

/-- The virtual core of a virtual tile that mode 1 chooses (R143). -/
def leastLoaded (s : State) (job : Nat) (j : Job) (vt : Nat) (control : Bool) : Nat :=
  let all := (List.range 8).map (fun c => 8 * vt + c)
  let free := all.filter (fun v => slotFree s job j (j.core v) control)
  match (if free.isEmpty then all else free) with
  | [] => 8 * vt
  | x :: t => leastBy (fun v => loadOf s job (j.core v)) x t

/-- The virtual core that takes a message at the tile it has reached; a replay keeps its core (R143, R339). -/
def chooseCore (s : State) (job : Nat) (j : Job) (m : Msg) (tile : Nat) : Nat :=
  if hdrMode m.hdr = 0 ∨ 0 < m.replays then hdrVcore m.hdr
  else leastLoaded s job j (j.place.idxOf tile) (hdrKind m.hdr == 3)

/-- The unit a mode-2 message is placed near, by its first argument word: the slice that serves the page, or for a page in
storage the slice of its home stack nearest the sender; none where no entry stands (R143). Of slices equally near the lowest is taken,
and the sender of a message that the home forwards or reinjects is the home's context unit (log 51: DESIGN CHOICE). -/
def nearUnit (s : State) (j : Job) (m : Msg) (src : Endpoint) : Option Endpoint :=
  let va := (m.args.getD 0 0).toNat
  match s.walk j.ptroot va with
  | .page pa _ _ _ => some (servingUnit pa src.row)
  | .locator e _ _ =>
    some (leastBy (fun u => meshHops u.attach src.attach) (stackSlice (pteHstk e) 0)
      ((List.range 16).map (stackSlice (pteHstk e))))
  | .nomap => none
  | .badcmd => none

/-- The tile a message is sent toward (R143): the nearest tile to the unit of mode 2, ties going to the lower virtual
tile. -/
def messageTile (s : State) (j : Job) (m : Msg) (src : Endpoint) : Nat :=
  if hdrMode m.hdr = 2 ∧ m.replays = 0 then
    match nearUnit s j m src, j.place with
    | some u, t :: rest => leastBy (fun t => meshHops (Endpoint.ni t).attach u.attach) t rest
    | _, _ => msgTile j m
  else msgTile j m

/-! ## Order at the sender (R185) -/

/-- Two messages whose acceptance keeps the order they were sent in: one task, one target core, one PRIO and KIND. -/
def sameLane (a b : OutMsg) : Bool :=
  a.order != 0 && a.order == b.order && hdrMode a.msg.hdr == 0 && hdrMode b.msg.hdr == 0
    && hdrVcore a.msg.hdr == hdrVcore b.msg.hdr && a.far == b.far
    && hdrPrio a.msg.hdr == hdrPrio b.msg.hdr && hdrKind a.msg.hdr == hdrKind b.msg.hdr

/-- A message that an earlier unsettled one of its lane holds back. -/
def laneHeld (s : State) (o : OutMsg) : Bool := s.outs.any (fun x => decide (x.id < o.id) && sameLane x o)

/-! ## The sends -/

/-- What a send comes from: its job, header, arguments, the device of a far target, its release, and the ordered flag. -/
structure Send where
  j : Job
  hdr : Word
  args : List Word
  far : Option Nat
  rel : Option Scope
  ord : Bool

/-- What the words of a block say of a send (R183). -/
def formSend (s : State) (j : Job) (words : List Word) (o rop : Bool) : Send :=
  let ctl := wordAt words 1
  let hdr := BitVec.ofNat 64 (wordAt words 0 % 2 ^ 30 + if rop then 2 ^ 30 else 0)
  ⟨j, hdr, (words.drop 2).take (hdrLen hdr),
    if ctl.testBit 12 && fieldOf ctl 0 12 != s.devid then some (fieldOf ctl 0 12) else none,
    if ctl.testBit 13 then some (scopeOf (fieldOf ctl 14 3)) else none, o⟩

/-- The checks of a send's block (R139, R143, R183, R184): the control word, and on this device the target. -/
def sendCheck (s : State) (j : Job) (words : List Word) (o rop draw : Bool) : Except Stop Send := do
  let h := wordAt words 0 % 2 ^ 30
  let ctl := wordAt words 1
  onlyBits ctl 0x1FFFF
  limits (decide (fieldOf ctl 14 3 ≤ 5))
  let dev := fieldOf ctl 0 12
  let far := ctl.testBit 12 && dev != s.devid
  limits (!(draw && far))
  let hdr := BitVec.ofNat 64 (h + if rop then 2 ^ 30 else 0)
  if !far then
    limits (decide (hdrMode hdr ≠ 3) && j.hasVcore (hdrVcore hdr)
      && (match j.routine? (hdrClass hdr) with
          | some e => !rop || rtVregs e == 0
          | none => false)
      && (hdrMode hdr == 0 || hdrLen hdr != 0))
  .ok (formSend s j words o rop)

/-- A send's block in registers, of 2 + LEN words (R183), and its checks. -/
def sendBlock (s : State) (a : Name) (o rop draw : Bool) : Except Stop Send := do
  let j ← theJob s
  let r ← blockAt a 2
  let len := hdrLen (readS s 40 r)
  let words ← block s a (2 + len)
  let x ← sendCheck s j words o rop draw
  blockOk s a (2 + len)
  .ok x

/-- The smallest scope that covers the mailbox a send goes to, as far as it is known at issue (R248). -/
def Send.scope (x : Send) (tile : Nat) : Scope :=
  if x.far.isSome then .system
  else if hdrMode x.hdr = 2 then .device
  else
    let t := x.j.tile (hdrVcore x.hdr / 8)
    if t = tile then .tile else if tileDie t = tileDie tile then .die else .device

/-- The NI forms a send's message and queues it (R184): toward the home for a draw, toward an I/O die for a far target. -/
def queueSend (w : Issuer) (x : Send) (weight draw : Nat) (s : State) : State :=
  let acq := x.rel.map (w.release s .core)
  let m : Msg := ⟨w.job, hdrSetWeight x.hdr weight, x.args, w.task, w.vcore, s.devid, x.ord, 0, acq, 0⟩
  let acc := s.serial
  let s1 := s.newAcc w.task (x.scope (tileOf w.core)) .core false
  let out : OutMsg := ⟨0, m, w.ni, w.queue, .flying, 0, 0, draw, x.far, w.waits s .core x.rel, w.task, 0, acc, 0, w.post, 0, []⟩
  let dst := if draw ≠ 0 then Endpoint.unit x.j.die
    else if x.far.isSome then .west w.ni.row
    else .ni (messageTile s x.j m w.ni)
  s1.sendOut out dst

/-- `send` and `send.rop` (R184) -/
def sendWith (a b : Name) (o rop : Bool) (s : State) : Res := do
  srcs [b]
  let x ← sendBlock s a o rop false
  ready (niRoom s (x.scope s.myTile))
  let v ← rd s 60 b
  let s1 ← takeWeight s v.toNat
  fall (queueSend s1.issuer x v.toNat 0 s1)

/-- `send` (R184) -/
def execSend (a b : Name) (o : Bool) (m : Mark) (s : State) : Host.Outcome State Fault Refusal :=
  issue32 m s (sendWith a b o false s)

/-- `send.rop` (R184) -/
def execSendRop (a b : Name) (o : Bool) (m : Mark) (s : State) : Host.Outcome State Fault Refusal :=
  issue32 m s (sendWith a b o true s)

/-- The effect of `send.half` (R176, R184): half the held weight, which faults WEIGHT at 1. -/
def sendHalf (a : Name) (o : Bool) (s : State) : Res := do
  let x ← sendBlock s a o false false
  ready (niRoom s (x.scope s.myTile))
  let v := s.me.wt / 2
  let s1 ← takeWeight s v
  fall (queueSend s1.issuer x v 0 s1)

/-- `send.half` (R184) -/
def execSendHalf (a : Name) (o : Bool) (m : Mark) (s : State) : Host.Outcome State Fault Refusal :=
  issue32 m s (sendHalf a o s)

/-- The compact `send.half` (R68): its block starts at sX. -/
def execCompactSendHalf (x : Fin 32) (mark : Bool) (s : State) : Host.Outcome State Fault Refusal :=
  issue16 mark s (sendHalf (.s x) false s)

/-- `send.draw` (R177, R184): the message goes by way of the home, which attaches w units. -/
def execSendDraw (a b : Name) (o : Bool) (m : Mark) (s : State) : Host.Outcome State Fault Refusal :=
  issue32 m s (do
    srcs [b]
    let x ← sendBlock s a o false true
    ready (niRoom s (x.scope s.myTile))
    let w ← rd s 60 b
    if w.toNat = 0 ∨ x.j.w < w.toNat then raise .weight w
    let s1 ← joinHold s
    fall (queueSend s1.issuer x 0 w.toNat s1))

end Sys2Proof.Machine
end

