-- ==== Sys2Proof/Machine/Tasks.lean ====
section
/-! DEFINITION. The start of tasks and of remote operations (R17, R144 to R146). -/

namespace Sys2Proof.Machine

/-- Vector registers of a core's pool that no context holds (R21). -/
def freeVregs (s : State) (core : Nat) : Nat :=
  32 - sumBy (fun e => if e.1 / 10 = core then e.2.v.length else 0) s.ctxs

/-- The slot table grants a job's starts: it holds an entry of the job or an "any" entry (R144). -/
def grantsJob (c : Core) (job : Nat) : Bool :=
  match c.residents.find? (fun r => r.job == job) with
  | some r => c.slottab.any (fun e => e == r.idx || e == 8)
  | none => false

/-- The tasks of a job may start: the job runs, is not parked and no census of it runs (R267, R344). -/
def mayStart (s : State) (job : Nat) : Bool :=
  match s.job? job with
  | some j => j.phase == .running && !j.parked && j.census.isNone
  | none => false

/-- VFMT of the launch record (R17, R278). -/
def Job.vfmt (j : Job) : Word := j.words.getD 8 0

/-- The sixteen argument words a task starts with (R17). -/
def argWords (args : List Word) : Vector Word 16 := Vector.ofFn (fun i => args.getD i.val 0)

/-- The context of a new task at its start (R17, R140, R145): nothing of an earlier task is left in it. -/
def newCtx (s : State) (job : Nat) (j : Job) (e : Word × Word) (m : Msg) (vcore core task : Nat) : Ctx :=
  let know : Know := match m.acq with
    | some r => if coversCore r.scope r.core core then r.knows s else []
    | none => []
  { Ctx.idle with
    task := task
    job := job
    vcore := vcore
    cls := hdrClass m.hdr
    m := argWords m.args
    v := List.replicate (rtVregs e) 0
    wt := hdrWeight m.hdr
    msg := m.hdr
    vfmt := j.vfmt
    pc := rtCode e
    ready := s.clk + 2
    budget := rtBudget e
    replayable := rtReplay e
    precise := rtPrecise e
    replays := m.replays
    ovrMask := rtOvrMask e
    ovrIdx := rtOvrIdx e
    privileged := j.privileged
    know := know
    startKnow := know }

/-- Starts a task from a message of a core's mailbox in a context (R142, R144). -/
def State.startTask (s : State) (key : Nat) (job : Nat) (j : Job) (e : Word × Word) (x : Slot) : State :=
  let core := coreOf key
  let task := s.serial
  let c := newCtx s job j e x.msg x.vcore core task
  ({ s with
    ctxs := s.ctxs.set key c
    parties := s.parties.set task (core, job)
    serial := s.serial + 1
    free := s.free + 1 }).updCore core (fun k => { k with mailbox := k.mailbox.filter (fun q => q.order != x.order) })

/-- A message whose start reads a routine-table entry with an uncorrectable error does not start (R331, R343). -/
def State.badStart (s : State) (core job : Nat) (x : Slot) : State :=
  (s.updCore core (fun k => { k with mailbox := k.mailbox.filter (fun q => q.order != x.order) })).fatal
    job x.vcore 7 (hdrWeight x.msg.hdr) 0 (.ni (tileOf core))

/-- The start priority of a message: 4 for control (R145). -/
def startPrio (m : Msg) : Nat := if hdrKind m.hdr = 3 then 4 else hdrPrio m.hdr

/-- The messages of a job that are candidates at a priority: the oldest ready one, or for control each (R145). -/
def candidatesOf (s : State) (c : Core) (job prio : Nat) : List Slot :=
  let l := c.mailbox.filter (fun x => x.msg.job == job && hdrKind x.msg.hdr != 1 && startPrio x.msg == prio)
  let l := if prio = 4 then l else l.take 1
  l.filter (fun x => decide (x.ready ≤ s.clk))

/-- The resident jobs of a core in residence order from the one after an index, wrapping. -/
def residentsAfter (rs : List Resident) (idx : Nat) : List Resident :=
  (rs.filter (fun r => decide (idx < r.idx))) ++ rs.filter (fun r => decide (r.idx ≤ idx))

/-- The candidates of a core in the order of their choice: by priority, among jobs round-robin (R145). -/
def candidates (s : State) (c : Core) : List Slot :=
  [4, 3, 2, 1, 0].flatMap (fun p => (residentsAfter c.residents c.startLast).flatMap (fun r => candidatesOf s c r.job p))

/-- The oldest row of a core that waits for hc9, with its job and routine (R147, R173). -/
def waitingRow (s : State) (core : Nat) : Option (DrainRow × Job × (Word × Word)) :=
  match (s.tile (tileOf core)).drains.find? (fun d => d.core == core) with
  | some d => match s.job? d.job with
    | some j => (j.routine? d.cls).map (fun e => (d, j, e))
    | none => none
  | none => none

/-- The registers that a drain task may take in this clk, before any task of hc0 to hc7 (R145). -/
def drainWants (s : State) (core : Nat) (c : Core) : Nat :=
  match waitingRow s core with
  | some (_, _, e) =>
    if (s.ctxs.get? (10 * core + 9)).isNone && (c.reserve.isNone || c.reserve == some 0) && decide (rtVregs e ≤ freeVregs s core)
    then rtVregs e else 0
  | none => 0

/-- What a candidate's start needs beside a free context: its routine, its job's leave and grant, and its registers, none
of which are kept for another (R144, R145). -/
inductive StartCheck where
  | ready (e : Word × Word)
  | registers
  | no
  deriving DecidableEq, Repr

/-- The check of one candidate. Registers that a drain task takes in this clk are not there for it (R145). -/
def startCheck (s : State) (core : Nat) (c : Core) (x : Slot) : StartCheck :=
  match s.job? x.msg.job with
  | none => .no
  | some j =>
    match j.routine? (hdrClass x.msg.hdr) with
    | none => .no
    | some e =>
      if !mayStart s x.msg.job || !grantsJob c x.msg.job then .no
      else if rtVregs e = 0 then .ready e
      else match c.reserve with
        | some o => if o ≠ x.order then .no else if rtVregs e ≤ freeVregs s core then .ready e else .registers
        | none =>
          if freeVregs s core < rtVregs e then .registers
          else if freeVregs s core < rtVregs e + drainWants s core c then .no
          else .ready e

/-- The lowest free context of hc0 to hc7 (R144). -/
def freeContext (s : State) (core : Nat) : Option Nat :=
  (List.range 8).find? (fun hc => (s.ctxs.get? (10 * core + hc)).isNone)

/-- The start decision of a core in a clk (R144, R145): the first candidate whose conditions hold starts; the first one
held back by vector registers alone keeps those that are free. -/
def startDecision (s : State) (core hc : Nat) (c : Core) : List Slot → State
  | [] => s
  | x :: t =>
    match startCheck s core c x, s.job? x.msg.job with
    | .ready e, some j =>
      if (s.tile (tileOf core)).badRoutines.contains (x.msg.job, hdrClass x.msg.hdr) then s.badStart core x.msg.job x
      else
        let idx := match c.residents.find? (fun r => r.job == x.msg.job) with
          | some r => r.idx
          | none => c.startLast
        (s.startTask (10 * core + hc) x.msg.job j e x).updCore core (fun k => { k with
          startLast := idx, reserve := if c.reserve = some x.order then none else k.reserve })
    | .registers, _ =>
      let c' := { c with reserve := some x.order }
      startDecision (s.updCore core (fun k => { k with reserve := some x.order })) core hc c' t
    | _, _ => startDecision s core hc c t

/-- A reservation ends with the message that made it, or with the drain row, whose reservation is 0. -/
def sweepReserve (s : State) (core : Nat) (c : Core) : Core :=
  match c.reserve with
  | some o =>
    if (if o = 0 then (waitingRow s core).isSome else c.mailbox.any (fun x => x.order == o)) then c else { c with reserve := none }
  | none => c

/-- A device that is halted or in reset starts nothing. -/
def State.live (s : State) : Bool := s.halted.isNone && !s.inReset

/-- A core's start decision in a clk (R144, R145). -/
def execTaskStart (tile core : Nat) (s : State) : Host.Outcome State Fault Refusal :=
  let n := 8 * tile + core
  let c := sweepReserve s n (s.core n)
  if 8 ≤ core ∨ !s.live ∨ c.startClk = some s.clk then .next s
  else
    match freeContext s n with
    | none => .next s
    | some hc =>
      let s1 := s.updCore n (fun _ => { c with startClk := some s.clk })
      .next (startDecision s1 n hc c (candidates s c))

/-- A core starts its oldest remote operation in hc8 once the one before has ended, whatever its job and priority, when the
slot table grants its job (R146). -/
def execRemoteOpStart (tile core : Nat) (s : State) : Host.Outcome State Fault Refusal :=
  let n := 8 * tile + core
  let c := s.core n
  if 8 ≤ core ∨ !s.live then .next s
  else
    match s.ctxs.get? (10 * n + 8), c.mailbox.find? (fun x => hdrKind x.msg.hdr == 1) with
    | none, some x =>
      if decide (x.ready ≤ s.clk) && mayStart s x.msg.job && grantsJob c x.msg.job then
        match s.job? x.msg.job with
        | none => .next s
        | some j =>
          match j.routine? (hdrClass x.msg.hdr) with
          | none => .next s
          | some e =>
            if (s.tile tile).badRoutines.contains (x.msg.job, hdrClass x.msg.hdr) then .next (s.badStart n x.msg.job x)
            else .next (s.startTask (10 * n + 8) x.msg.job j e x)
      else .next s
    | _, _ => .next s

end Sys2Proof.Machine
end

