-- ==== Sys2Proof/Machine/Array.lean ====
section
/-! DEFINITION. The ternary array (R165 to R174, R208 to R212, R256): the queue, the checks at start, the steps, the drain, drain
tasks, and how a job ends. -/

namespace Sys2Proof.Machine

/-! ## The command block (R208) -/

/-- M -/
def tmM (b : List Word) : Nat := fieldOf (wordAt b 5) 0 16
/-- K -/
def tmK (b : List Word) : Nat := fieldOf (wordAt b 5) 16 16
/-- N -/
def tmN (b : List Word) : Nat := fieldOf (wordAt b 5) 32 17
/-- DRAIN -/
def tmDrain (b : List Word) : Bool := (wordAt b 5).testBit 49
/-- TRI -/
def tmTri (b : List Word) : Bool := (wordAt b 5).testBit 50
/-- DCLASS -/
def tmClass (b : List Word) : Nat := fieldOf (wordAt b 5) 56 8
/-- KT -/
def tmKt (b : List Word) : Nat := tmK b / 80
/-- NT -/
def tmNt (b : List Word) : Nat := tmN b / 64
/-- DW -/
def tmDw (b : List Word) : Int := sextNat (fieldOf (wordAt b 7) 0 16) 16
/-- DC -/
def tmDc (b : List Word) : Int := sextNat (fieldOf (wordAt b 7) 16 16) 16
/-- The operand A. -/
def tmA (b : List Word) : Operand := operandOf (b.getD 0 0) (b.getD 1 0)
/-- The operand W. -/
def tmW (b : List Word) : Operand := operandOf (b.getD 2 0) (b.getD 3 0)
/-- Bits of an element of C's bank. -/
def tmBits (fmts : List Word) (b : List Word) : Nat :=
  let d := (fmts.getD (fieldOf (wordAt b 4) 0 20 / 65536) 0).toNat
  if d = 0 ∨ !descValid d then 8 else descBits d
/-- The operand C, whose second register the array forms (R208). -/
def tmC (fmts : List Word) (b : List Word) : Operand :=
  { operandOf (b.getD 4 0) 0 with rows := tmM b, rbytes := tmN b * tmBits fmts b / 8 }
/-- Bytes of the activation scales. -/
def tmSaLen (b : List Word) : Nat := if (wordAt b 5).testBit 52 then 0 else 4 * tmM b
/-- Bytes of the weight scales. -/
def tmSwLen (b : List Word) : Nat :=
  if (wordAt b 5).testBit 53 then 0 else 4 * (if (wordAt b 5).testBit 51 then tmNt b else tmN b)
/-- SA -/
def tmSa (b : List Word) : Nat := fieldOf (wordAt b 6) 0 20
/-- SW -/
def tmSw (b : List Word) : Nat := fieldOf (wordAt b 6) 20 20
/-- The number of blocks of 32 rows. -/
def tmBlocks (b : List Word) : Nat := (tmM b + 31) / 32
/-- The rows of block k. -/
def tmRows (b : List Word) (k : Nat) : Nat := min 32 (tmM b - 32 * k)

/-- The checks of the block at issue (R179, R208). -/
def tmCheck (j : Job) (b : List Word) : Except Stop Unit := do
  limits (!tmDrain b || wordAt b 4 == 0)
  limits (fieldOf (wordAt b 5) 54 2 == 0 && (tmDrain b || tmClass b == 0))
  onlyBits (wordAt b 6) (2 ^ 40 - 1)
  limits (tmTri b || wordAt b 7 == 0)
  cmsgLimits j (b.getD 8 0) false

/-! ## Status words (R211) -/

/-- A job identifier. -/
def tmId (seq : Nat) : Word := BitVec.ofNat 64 (2 ^ 63 + seq)

/-- The status word of a finished job. -/
def tmStatus (cause off j b i : Nat) : Word := BitVec.ofNat 64 (3 + 4 * cause + 64 * off + 2 ^ 16 * j + 2 ^ 27 * b + 2 ^ 38 * i)

/-- Writes the words of a core's jobs. -/
def State.setArrWords (s : State) (core job : Nat) (l : List (Nat × Word)) : State :=
  { s with arrSeqs := s.arrSeqs.set (arrKey core job) { s.arrSeq core job with words := l } }

/-- A new job is queued: the words of the last 16 of each core and job are kept (R211). -/
def State.newArrWord (s : State) (core job seq : Nat) : State :=
  let l := (s.arrSeq core job).words ++ [(seq, 1)]
  s.setArrWords core job (l.drop (l.length - 16))

/-- Writes the status word of a job, where the tile still keeps it. -/
def State.setArrWord (s : State) (core job seq : Nat) (w : Word) : State :=
  s.setArrWords core job (replaceIf (fun e => e.1 == seq) (fun (e : Nat × Word) => (e.1, w)) (s.arrSeq core job).words)

/-- The status word an identifier names. -/
def State.arrWord (s : State) (core job : Nat) (id : Word) : Word :=
  if !id.toNat.testBit 63 || fieldOf id.toNat 32 31 != 0 then 0
  else Map.getD (s.arrSeq core job).words (id.toNat % 2 ^ 32) 0

/-! ## The instructions -/

/-- The place of a job in the queue: in issue order, and in one clk by core number (R209). -/
def insertJob (a : ArrayJob) : List ArrayJob → List ArrayJob
  | [] => [a]
  | x :: t => if a.entered < x.entered ∨ (a.entered = x.entered ∧ a.core < x.core) then a :: x :: t else x :: insertJob a t

/-- Appends a job of the issuing task to its tile's array queue, with v units taken (R209): the state and the number given. -/
def State.queueJob (s : State) (w : Issuer) (b : List Word) (v : Nat) : State × Nat :=
  let cm : Cmsg := ⟨b.getD 8 0, b.getD 9 0⟩
  let rel := relOf cm
  let q := s.arrSeq w.core w.job
  let seq := q.next
  let a : ArrayJob := ⟨seq, w.job, w.core, w.vcore, w.task, v, b, cm, s.clk, w.waits s .array rel,
    knowOn w.know w.fences .array, s.serial, rel.map (w.release s .array), w.post⟩
  let s1 := (s.newAcc w.task .tile .array false).updTile (tileOf w.core) (fun t => { t with arrayQ := insertJob a t.arrayQ })
  let s2 := { s1 with arrSeqs := s1.arrSeqs.set (arrKey w.core w.job) { q with next := if seq = 2 ^ 32 - 1 then 1 else seq + 1 } }
  (s2.newArrWord w.core w.job seq, seq)

/-- `tmm` (R209) -/
def execTmm (d a b : Name) (m : Mark) (s : State) : Host.Outcome State Fault Refusal :=
  issue32 m s (do
    srcs [b]
    dst d
    let j ← theJob s
    let words ← block s a 10
    tmCheck j words
    ready (!s.countFull s.me.task .tile)
    blockOk s a 10
    let v ← rd s 60 b
    let s1 ← takeWeight s v.toNat
    if 16 ≤ (s.tile s.myTile).arrayQ.length then fall (wr s d 0 2)
    else
      let r := s1.queueJob s1.issuer words v.toNat
      fall (wr r.1 d (tmId r.2) 2))

/-- `tstat` (R212) -/
def execTstat (d a : Name) (m : Mark) (s : State) : Host.Outcome State Fault Refusal :=
  issue32 m s (do
    srcs [a]
    dst d
    let id ← rd s 0 a
    fall (wr s d (s.arrWord s.myCore s.me.job id) 2))

/-! ## How a job ends (R210, R256) -/

/-- The effects of a job's run, for a start that acquires. -/
def ArrayJob.effects (s : State) (a : ArrayJob) : Know :=
  a.know ++ ((s.writes.filter (fun w => w.acc == a.acc && a.acc != 0)).map (fun w => (w.id, 127))).dedup
    ++ (match a.rel with
        | some x => x.knows s
        | none => [])

/-- A job is no longer the array's: its access is performed and its status word written. -/
def State.closeJob (s : State) (a : ArrayJob) (w : Word) : State :=
  (s.performAcc a.acc).setArrWord a.core a.job a.seq w

/-- A completion of a job with its status word and its time (R210). -/
def State.completeJob (s : State) (a : ArrayJob) (code : Nat) (w : Word) (time : Nat) : State :=
  (s.closeJob a w).complete (.ni (tileOf a.core)) a.job a.vcore a.v a.cm (statusWord code 0 0) [w, BitVec.ofNat 64 time] (cmAcq a.cm)
    (a.effects s) a.post

/-- The array is free from the next clk (R256). -/
def State.freeArray (s : State) (tile : Nat) : State :=
  s.updTile tile (fun t => { t with arrayRun := none, arrayFree := s.clk + 1 })

/-- The numbers of R211 of the causes a job can end with. -/
def arrCause : Cause → Nat
  | .arraycfg => 1
  | .taddr => 2
  | .align => 3
  | .bankfmt => 4
  | .illtrit => 5
  | _ => 0

/-- A job raises a cause with the weight it still holds (R207), after its effects and what happened before it (R380). -/
def State.raiseArrJob (s : State) (a : ArrayJob) (c : Cause) (arg : Word) : State :=
  s.raiseJob a.job a.vcore a.v ⟨c, 2, 0, arg⟩ (a.effects s).allPaths (.ni (tileOf a.core))

/-! ## Start (R166, R209) -/

/-- A scale array that leaves the scratchpad or is not aligned. -/
def scaleCheck (limit base len : Nat) : Option Cause :=
  if len = 0 then none else if min 0x100000 limit < base + len then some .taddr else if base % 4 ≠ 0 then some .align else none

/-- The bank descriptor an operand lies in. -/
def Operand.desc (o : Operand) (fmts : List Word) : Nat := (fmts.getD (o.base / 65536) 0).toNat

/-- The checks of a job at its start, in the order of R166. -/
def startChecks (j : Job) (fmts : List Word) (v : Nat) (b : List Word) : Option Cause :=
  let m := tmM b
  let a := tmA b
  let w := tmW b
  let c := tmC fmts b
  let classOk := match j.routine? (tmClass b) with
    | some e => decide (1 ≤ rtVregs e ∧ rtVregs e ≤ 32)
    | none => false
  if tmK b % 80 ≠ 0 ∨ tmKt b = 0 ∨ tmN b % 64 ≠ 0 ∨ tmNt b = 0 ∨ m = 0 then some .arraycfg
  else if a.rows ≠ m ∨ a.rbytes ≠ tmK b ∨ w.rows ≠ 64 ∨ w.rbytes ≠ 16 then some .arraycfg
  else if tmDrain b ∧ (!classOk ∨ v < m * tmNt b + 1) then some .arraycfg
  else
    let kinds (d : Nat) (l : List Nat) : Bool := d != 0 && descValid d && l.contains (descKind d)
    let bad : Option Cause :=
      if !(kinds (a.desc fmts) [1, 7]) || descW4 (a.desc fmts) || !(kinds (w.desc fmts) [3, 7]) then some .bankfmt
      else if !tmDrain b && !(kinds (c.desc fmts) [0, 1, 2, 4, 5, 6]) then some .bankfmt
      else none
    (a.check fmts j.tbanks 1 m (tmK b)).or ((w.check fmts j.tbanks (tmKt b * tmNt b) 64 16).or
      ((if tmDrain b then none else c.check fmts j.tbanks 1 m c.rbytes).or
        ((scaleCheck j.tileLimit (tmSa b) (tmSaLen b)).or ((scaleCheck j.tileLimit (tmSw b) (tmSwLen b)).or bad))))

/-- The job at the head of the queue may start now (R209); the array of a device that is halted starts none (R353). -/
def arrayMayStart (s : State) (t : Tile) (a : ArrayJob) : Bool :=
  s.live && decide (a.entered < s.clk ∧ t.arrayFree ≤ s.clk) && !s.anyWaiting a.waits

/-- The job at the head of the queue starts on the idle array and is checked (R166, R209). -/
def execArrayJobStart (tile : Nat) (s : State) : Host.Outcome State Fault Refusal :=
  let t := s.tile tile
  match t.arrayRun, t.arrayQ with
  | none, a :: rest =>
    match s.job? a.job with
    | none => .next s
    | some j =>
      if !arrayMayStart s t a then .next s
      else
        let fmts := s.formats a.job (a.vcore / 8)
        let s1 := { (s.updTile tile (fun t => { t with arrayQ := rest })) with free := s.free + 1 }
        match startChecks j fmts a.v a.block with
        | some c =>
          .next (((s1.closeJob a (tmStatus (arrCause c) 0 0 0 0)).freeArray tile).raiseArrJob a c (tmId a.seq))
        | none =>
          let x := s.clk + 24
          let r : ArrayRun := ⟨a, BitVec.ofNat 64 ((tmA a.block).desc fmts), BitVec.ofNat 64 ((tmC fmts a.block).desc fmts), s.clk, 0, 0, 0, x, [], 0, x,
            0, 0, 0, [], 0, [], 0⟩
          .next ((s1.setArrWord a.core a.job a.seq 2).updTile tile (fun t => { t with arrayRun := some r }))
  | _, _ => .next s

/-! ## Steps (R165 to R169) -/

/-- How the array reads the scratchpad. -/
def ArrayJob.reader (s : State) (a : ArrayJob) : Reader := readerOf s .array a.task a.know

/-- Reads a tile range of a job line by line, each read choosing for itself (R171). -/
def readLines (s : State) (a : ArrayJob) (addr n place : Nat) : List Byte :=
  let flat := scratchAddr a.job (a.vcore / 8) 0
  ((cutLines addr 0 n (n / 128 + 2)).zip (List.range (n / 128 + 2))).flatMap (fun e =>
    s.readBytes (a.reader s) .scratch (flat + addr + e.1.1) e.1.2 (place + e.2))

/-- The first byte of a tile range of a job with an uncorrectable error. -/
def badLine (s : State) (a : ArrayJob) (addr n : Nat) : Option Nat :=
  (firstBad s.eccScratch (scratchAddr a.job (a.vcore / 8) addr) n).map (fun i => addr + i)

/-- The largest number of lines in one bank (R169). -/
def mostLines (l : List Nat) : Nat := ((List.range 16).map (fun b => l.count b)).foldl max 0

/-- The lines that a step waits for in each bank: the larger of what the weight tile and the slices occupy there (R169). -/
def stepLines (w a : List Nat) : List Nat := (List.range 16).flatMap (fun b => List.replicate (max (w.count b) (a.count b)) b)

/-- The first of some ranges' bytes with an uncorrectable error. -/
def firstBadOf (s : State) (a : ArrayJob) (starts : List Nat) (n : Nat) : Option Nat := starts.findSome? (fun x => badLine s a x n)

/-- Sixty-four sums: those of a row's bytes steered by the trits of a tile's columns, entries above the diagonal counting 0
(R165, R167). -/
def rowSums (b : List Word) (cols : List (List Byte)) (row : List Byte) (j i : Nat) : List Int :=
  ((List.range 64).zip cols).map (fun (c : Nat × List Byte) =>
    ((List.range 80).zip row).foldl (fun (acc : Int) (e : Nat × Byte) =>
      if tmTri b ∧ tmDw b < ((64 * j + c.1 : Nat) : Int) - ((80 * i + e.1 : Nat) : Int) then acc
      else acc + trit ((c.2.getD (e.1 / 5) 0).toNat) (e.1 % 5) * sextNat e.2.toNat 8) 0)

/-- Adds the sums of a step to a block's accumulators. -/
def addRows (a b : List (List Int)) : List (List Int) := List.zipWith (fun x y => List.zipWith (· + ·) x y) a b

/-- The step after one (R168). -/
def ArrayRun.nextStep (r : ArrayRun) : Nat × Nat × Nat :=
  let b := r.job.block
  if r.i + 1 < tmKt b then (r.j, r.b, r.i + 1)
  else if r.b + 1 < tmBlocks b then (r.j, r.b + 1, 0)
  else (r.j + 1, 0, 0)

/-- The step before the next one; none where no step has run. -/
def ArrayRun.lastStep (r : ArrayRun) : Option (Nat × Nat × Nat) :=
  let b := r.job.block
  if 0 < r.i then some (r.j, r.b, r.i - 1)
  else if 0 < r.b then some (r.j, r.b - 1, tmKt b - 1)
  else if 0 < r.j then some (r.j - 1, tmBlocks b - 1, tmKt b - 1)
  else none

/-- Every step of the job has been taken. -/
def ArrayRun.allSteps (r : ArrayRun) : Bool := decide (tmNt r.job.block ≤ r.j)

/-- The accumulators of a step's block: new ones at its first step (R168). -/
def ArrayRun.withBlock (r : ArrayRun) (sums : List (List Int)) : List ArrayBlock :=
  let last := decide (r.i + 1 = tmKt r.job.block)
  if r.i = 0 then r.blocks ++ [⟨r.j, r.b, sums, last, 0⟩]
  else replaceIf (fun x => !x.complete) (fun x => { x with acc := addRows x.acc sums, complete := last }) r.blocks

/-- A step ends t clk later, and one clk more for each in which a line of it is held back (R169). -/
def ArrayRun.took (r : ArrayRun) (clk t : Nat) (lines : List Nat) (sums : List (List Int)) : ArrayRun :=
  let n := r.nextStep
  { r with blocks := r.withBlock sums, j := n.1, b := n.2.1, i := n.2.2, stepEnd := clk + t, lines := lines, lineFrom := clk }

/-- The blocks that stand when a job stops: those whose last step has ended. -/
def ArrayRun.standing (r : ArrayRun) (clk : Nat) : List ArrayBlock :=
  if clk < r.stepEnd then (r.blocks.dropLast).filter (fun x => x.complete) else r.blocks.filter (fun x => x.complete)

/-- A job stops at an illegal byte (R174). -/
def ArrayRun.illegal (r : ArrayRun) (clk off : Nat) : ArrayRun :=
  { r with stopped := 1, abortAt := clk, blocks := r.standing clk, stopWord := tmStatus 5 off r.j r.b r.i }

/-- Replaces what the array runs. -/
def State.setRun (s : State) (tile : Nat) (r : ArrayRun) : State := s.updTile tile (fun t => { t with arrayRun := some r })

/-- A job that reads a byte with an uncorrectable error stops as at an illegal byte, and raises ECCLOC with the weight it still holds as
it finishes (R256, R330); the spec names no CAUSE for it. -/
def State.eccArray (s : State) (tile : Nat) (r : ArrayRun) (addr : Nat) : State :=
  s.setRun tile { r with
    stopped := 3
    abortAt := s.clk
    blocks := r.standing s.clk
    stopWord := tmStatus (Config.pick s.free 78 % 7) 0 0 0 0
    eccAt := addr }

/-- The next step may begin: the one before has ended, and at a block's first step an accumulator bank is free (R170). -/
def ArrayRun.mayStep (r : ArrayRun) (clk : Nat) : Bool :=
  decide (r.stopped = 0) && !r.allSteps && decide (r.stepEnd ≤ clk) && r.lines.isEmpty
    && (r.i != 0 || decide (r.blocks.length < 2)
        && (match r.blocks.head? with
            | some x => decide (0 < x.drained ∨ r.lastRow ≤ clk)
            | none => true))

/-- One step of a job (R168, R169). -/
def arrayStep (s : State) (tile : Nat) (r : ArrayRun) : State :=
  let b := r.job.block
  let rows := tmRows b r.b
  let zeros : List (List Int) := List.replicate rows (List.replicate 64 0)
  if tmTri b ∧ tmDw b < ((64 * r.j : Nat) : Int) - ((80 * r.i + 79 : Nat) : Int) then s.setRun tile (r.took s.clk 1 [] zeros)
  else
    let w := tmW b
    let starts := (List.range 64).map (fun n => w.addr (r.j * tmKt b + r.i) n 0)
    match firstBadOf s r.job starts 16 with
    | some x => s.eccArray tile r x
    | none =>
      let cols := starts.zip (List.range 64) |>.map (fun e => readLines s r.job e.1 16 (100 + 2 * e.2))
      let flat := cols.flatten
      let lw := lineBanks starts 16
      match flat.findIdx? (fun x => decide (243 ≤ x.toNat)) with
      | some off => s.setRun tile (r.illegal s.clk off)
      | none =>
        if flat.all (· == 0x79) then s.setRun tile (r.took s.clk (max 1 (mostLines lw)) lw zeros)
        else
          let slices := (List.range rows).map (fun k => (tmA b).addr 0 (32 * r.b + k) (80 * r.i))
          match firstBadOf s r.job slices 80 with
          | some x => s.eccArray tile r x
          | none =>
            let sums := slices.zip (List.range rows) |>.map (fun e =>
              rowSums b cols (readLines s r.job e.1 80 (300 + 2 * e.2)) r.j r.i)
            let la := lineBanks slices 80
            s.setRun tile (r.took s.clk (max (max rows 8) (max (mostLines lw) (mostLines la))) (stepLines lw la) sums)

/-- The lines of the step at hand in one clk: each bank grants one to the array's read port or is another's in this clk, and a line that
is held back adds a clk to the step (R156, R169). -/
def arrayLines (s : State) (tile : Nat) (r : ArrayRun) : State :=
  let banks := r.lines.dedup
  let mine := banks.filter (fun b => bankOpen s tile b portArrayRead)
  if banks.all (fun b => mine.contains b || (s.tile tile).bankTaken b s.clk) then
    (mine.foldl (fun st b => st.granted tile b portArrayRead) s).setRun tile { r with
      lines := mine.foldl (fun l b => l.erase b) r.lines
      lineFrom := s.clk + 1
      stepEnd := r.stepEnd + (if mine.length < banks.length then 1 else 0) }
  else s

/-- The array runs one skipped, zero or full step of a job, and reads its lines through the banks (R169). That of a device that is
halted begins no further step (R353). -/
def execArrayStep (tile : Nat) (s : State) : Host.Outcome State Fault Refusal :=
  match (s.tile tile).arrayRun with
  | some r =>
    if !r.lines.isEmpty then (if r.lineFrom ≤ s.clk then .next (arrayLines s tile r) else .next s)
    else if s.live && r.mayStep s.clk then .next { (arrayStep s tile r) with free := s.free + 1 } else .next s
  | none => .next s

/-! ## Drain (R172, R173) -/

/-- The block that drains next: the first, once its last step has ended. -/
def ArrayRun.draining (r : ArrayRun) (clk : Nat) : Option ArrayBlock :=
  match r.blocks with
  | [x] => if x.complete ∧ (r.stepEnd ≤ clk ∨ r.stopped ≠ 0) then some x else none
  | x :: _ => if x.complete then some x else none
  | [] => none

/-- A scale as it is read, or 1.0. -/
def scaleAt (s : State) (a : ArrayJob) (len base k place : Nat) : Val :=
  if len = 0 then .fin false 1 0 else fp32.decode (leNat (readLines s a (base + 4 * k) 4 place))

/-- Which weight scale a column has. -/
def swIndex (b : List Word) (n : Nat) : Nat := if (wordAt b 5).testBit 51 then n / 64 else n

/-- The elements of a row as they drain: the masked ones are none (R172). -/
def rowVals (s : State) (a : ArrayJob) (x : ArrayBlock) (m : Nat) : List (Option Val) :=
  let b := a.block
  let sa := scaleAt s a (tmSaLen b) (tmSa b) m 500
  ((List.range 64).zip (x.acc.getD x.drained [])).map (fun (e : Nat × Int) =>
    let n := 64 * x.j + e.1
    if tmTri b ∧ tmDc b < (n : Int) - (m : Int) then none
    else some (((sa.mul (scaleAt s a (tmSwLen b) (tmSw b) (swIndex b n) (502 + 2 * e.1))).1.mul (Val.ofInt e.2)).1))

/-- The first scale byte of a row with an uncorrectable error. -/
def badScale (s : State) (a : ArrayJob) (x : ArrayBlock) (m : Nat) : Option Nat :=
  let b := a.block
  let sw := if tmSwLen b = 0 then []
    else (List.range 64).map (fun e => tmSw b + 4 * swIndex b (64 * x.j + e))
  let sa := if tmSaLen b = 0 then [] else [tmSa b + 4 * m]
  firstBadOf s a (sa ++ sw) 4

/-- KCONST -/
def tmKconst (b : List Word) : Nat := fieldOf (wordAt b 7) 32 32

/-- The lines of a run of bytes of the scratchpad. -/
def linesOf (addr : Nat) (bs : List Byte) : List (Nat × List Byte) :=
  (cutLines addr 0 bs.length (bs.length / 128 + 2)).map (fun e => (addr + e.1, (bs.drop e.1).take e.2))

/-- A row in the format of C's bank (R172). -/
def rowBytes (d : Nat) (b : List Word) (vals : List (Option Val)) : List Byte :=
  let enc (v : Val) : Nat := (descEncode d 0 true false v).1
  let k := enc (fp32.decode (tmKconst b))
  bytesOfNat (packElems (descBits d) (vals.map (fun v => match v with | some x => enc x | none => k))) (8 * descBits d)

/-- The elements of v0 and the bits of m2 of a drain task (R173). -/
def drainVals (b : List Word) (vals : List (Option Val)) : List Nat × Nat :=
  let l : List (Nat × Nat) := vals.map (fun v => match v with
    | some x =>
      let r := fp32.result 0 x
      (r.1, (if r.2 &&& flagNX = 0 then 0 else 1) ||| (if r.2 &&& flagOF = 0 then 0 else 2) ||| (if x.isNan then 4 else 0))
    | none => (tmKconst b, 8))
  (l.map (·.1), l.foldl (fun acc e => acc ||| e.2) 0)

/-- Drops the block whose last row has left. -/
def ArrayRun.rowGone (r : ArrayRun) (lastRow : Nat) : ArrayRun :=
  match r.blocks with
  | [] => r
  | x :: t =>
    let x1 := { x with drained := x.drained + 1 }
    { r with blocks := if x1.drained = tmRows r.job.block x.b then t else x1 :: t, handed := r.handed + 1, lastRow := lastRow }

/-- A row of the array leaves its accumulators: into C, or toward a drain task (R172, R173). -/
def drainRow (s : State) (tile : Nat) (r : ArrayRun) (x : ArrayBlock) : State :=
  let a := r.job
  let b := a.block
  let m := 32 * x.b + x.drained
  match badScale s a x m with
  | some p => s.eccArray tile { r with blocks := [] } p
  | none =>
    let vals := rowVals s a x m
    if tmDrain b then
      let e := drainVals b vals
      let row : DrainRow := ⟨a.core, a.job, tmClass b, m, 64 * x.j, e.1, e.2, []⟩
      (s.setRun tile { r with job := { a with v := a.v - 1 } }).updTile tile (fun t => { t with drains := t.drains ++ [row] })
    else
      let f := r.fmtC.toNat
      let bs := rowBytes f b vals
      s.setRun tile { r with out := linesOf ((operandOf (b.getD 4 0) 0).addr 0 m (64 * x.j * descBits f / 8)) bs }

/-- The next line of a row is written once its bank grants the array's drain port (R156); with the last one the row has left. -/
def drainLine (s : State) (tile : Nat) (r : ArrayRun) (addr : Nat) (bs : List Byte) (rest : List (Nat × List Byte)) : State :=
  match s.takeBanks tile portArrayDrain [addr / 65536] with
  | none => s
  | some s1 =>
    let a := r.job
    let r1 : ArrayRun := { r with out := rest, lastRow := s.clk + 1 }
    (s1.setRun tile (if rest.isEmpty then r1.rowGone (s.clk + 1) else r1)).writeBytes .scratch
      (scratchAddr a.job (a.vcore / 8) addr) bs .array a.task a.acc none

/-- A row may begin to leave its accumulators (R170, R172). -/
def mayDrain (s : State) (t : Tile) (r : ArrayRun) : Bool :=
  s.live && r.out.isEmpty && (r.draining s.clk).isSome && decide (r.lastRow ≤ s.clk) && t.drains.isEmpty

/-- A row of a block drains, in row order, one line in a clk (R170, R172); that of a device that is halted begins no further row
(R353). -/
def execArrayRowDrain (tile : Nat) (s : State) : Host.Outcome State Fault Refusal :=
  let t := s.tile tile
  match t.arrayRun with
  | some r =>
    match r.out, r.draining s.clk with
    | e :: rest, _ => if r.lastRow ≤ s.clk then .next (drainLine s tile r e.1 e.2 rest) else .next s
    | [], some x => if mayDrain s t r then .next { (drainRow s tile r x) with free := s.free + 1 } else .next s
    | [], none => .next s
  | none => .next s

/-- The message of a drain task (R173). -/
def drainMsg (j : Job) (d : DrainRow) : Msg :=
  let v := vcoreAt j d.core
  ⟨d.job, mkHdr v 0 d.cls 0 3 0 1, [BitVec.ofNat 64 d.m, BitVec.ofNat 64 d.col, BitVec.ofNat 64 d.flags], 0, v, 0, false, 0, none, 0⟩

/-- The row at the head of the drain has been handed over: its accumulators are free a clk later. -/
def State.rowHanded (s : State) (tile : Nat) (rest : List DrainRow) : State :=
  s.updTile tile (fun t => { t with drains := rest, arrayRun := t.arrayRun.map (fun r => r.rowGone (s.clk + 1)) })

/-- A drained row is handed to hc9 and starts a drain task there once hc9 is free and its registers can be taken (R145, R173). -/
def execDrainTaskStart (tile : Nat) (s : State) : Host.Outcome State Fault Refusal :=
  match (s.tile tile).drains with
  | [] => .next s
  | d :: rest =>
    match s.job? d.job with
    | none => .next s
    | some j =>
      let key := 10 * d.core + 9
      let m := drainMsg j d
      let v := hdrVcore m.hdr
      let c := sweepReserve s d.core (s.core d.core)
      let src := Endpoint.ni tile
      if !s.live then .next s
      else
        match j.routine? d.cls with
        | none => .next s
        | some e =>
          if (s.ctxs.get? key).isSome then .next s
          else if j.discarding.any (fun x => inDiscard j x v) then
            .next (((s.rowHanded tile rest).pod src d.job 1 false true).sweepDiscards d.job)
          else if (s.tile tile).badRoutines.contains (d.job, d.cls) then .next ((s.rowHanded tile rest).fatal d.job v 7 1 0 src)
          else if c.reserve.isSome ∧ c.reserve ≠ some 0 ∨ freeVregs s d.core < rtVregs e then
            .next (s.updCore d.core (fun _ => if c.reserve.isNone then { c with reserve := some 0 } else c))
          else
            let x := newCtx s d.job j e m v d.core s.serial
            let row : VReg := BitVec.ofNat 4096 (packElems 32 d.elems)
            .next (({ (s.rowHanded tile rest) with
              ctxs := s.ctxs.set key { x with v := x.v.set 0 row }
              parties := s.parties.set s.serial (d.core, d.job)
              serial := s.serial + 1
              free := s.free + 1 }).updCore d.core (fun _ => { c with reserve := if c.reserve = some 0 then none else c.reserve }))

/-! ## Completion, stop and abort -/

/-- A job that was not stopped may complete: its rows are all drained (R170). -/
def mayComplete (s : State) (t : Tile) (r : ArrayRun) : Bool :=
  decide (r.stopped = 0) && r.allSteps && r.blocks.isEmpty && t.drains.isEmpty && decide (r.lastRow + 12 ≤ s.clk)

/-- A job whose rows are all drained completes (R170, R210). -/
def execArrayJobComplete (tile : Nat) (s : State) : Host.Outcome State Fault Refusal :=
  let t := s.tile tile
  match t.arrayRun with
  | some r =>
    if mayComplete s t r then
      .next { ((s.freeArray tile).completeJob r.job 0 (tmStatus 0 0 0 0 0) (s.clk - r.start)) with free := s.free + 1 }
    else .next s
  | none => .next s

/-- A stopped or aborted job may finish: its last standing row is in its bank (R212, R256). -/
def mayFinish (s : State) (t : Tile) (r : ArrayRun) : Bool :=
  decide (r.stopped ≠ 0) && r.blocks.isEmpty && t.drains.isEmpty
    && decide ((if r.handed = 0 then r.abortAt + 12 else r.lastRow + 12) ≤ s.clk)

/-- A stopped or aborted job finishes once its last standing row is in its bank (R212, R256). -/
def execArrayStopFinish (tile : Nat) (s : State) : Host.Outcome State Fault Refusal :=
  let t := s.tile tile
  match t.arrayRun with
  | some r =>
    if mayFinish s t r then
      let s1 := { (s.freeArray tile) with free := s.free + 1 }
      match r.stopped with
      | 1 => .next ((s1.closeJob r.job r.stopWord).raiseArrJob r.job .illtrit (tmId r.job.seq))
      | 2 => .next (s1.completeJob r.job 9 r.stopWord (s.clk - r.start))
      | _ => .next ((s1.closeJob r.job r.stopWord).raiseArrJob r.job .eccloc (BitVec.ofNat 64 r.eccAt))
    else .next s
  | none => .next s

/-- The array of a tile has work to do in this clk: it keeps the times of R169, R170 and R256. -/
def arrayDue (s : State) (t : Tile) : Bool :=
  match t.arrayRun, t.arrayQ with
  | none, a :: _ => arrayMayStart s t a && (s.job? a.job).isSome
  | none, [] => false
  | some r, _ => (!r.lines.isEmpty && decide (r.lineFrom ≤ s.clk)) || (s.live && r.mayStep s.clk) || mayDrain s t r || mayComplete s t r
      || mayFinish s t r
      || (t.drains.any (fun d => decide (0 < drainWants s d.core (sweepReserve s d.core (s.core d.core)))) && s.live)

/-- Where a running job stands at an abort (R212): the step running, else the first one not started, else none. -/
def ArrayRun.abortStep (r : ArrayRun) (clk : Nat) (tie : Bool) : Nat × Nat × Nat :=
  match r.lastStep with
  | some x => if clk < r.stepEnd ∨ tie then x else (r.j, r.b, r.i)
  | none => (r.j, r.b, r.i)

/-- The abort of the running job; one that arrives in the clk the last step ends may find no step to stop. -/
def State.abortRun (s : State) (tile : Nat) (r : ArrayRun) : State :=
  let untouched := match r.blocks.getLast? with
    | some x => x.drained == 0 && ((s.tile tile).drains.isEmpty || decide (1 < r.blocks.length))
    | none => false
  let tie := r.allSteps && r.stepEnd == s.clk && untouched
  if tie && Config.pick s.free 79 % 2 == 0 then s
  else
    let x := r.abortStep s.clk tie
    s.setRun tile { r with
      stopped := 2
      abortAt := s.clk
      lines := []
      blocks := if tie then r.standing (s.clk - 1) else r.standing s.clk
      stopWord := tmStatus 6 0 x.1 x.2.1 x.2.2 }

/-- Aborts the job an identifier names (R212). -/
def State.abortJob (s : State) (core job : Nat) (id : Word) : State :=
  let seq := id.toNat % 2 ^ 32
  let tile := tileOf core
  let mine (a : ArrayJob) : Bool := a.core == core && a.job == job && a.seq == seq
  let t := s.tile tile
  match t.arrayQ.find? mine with
  | some a =>
    (s.updTile tile (fun t => { t with arrayQ := t.arrayQ.filter (fun x => !mine x) })).completeJob a 9 (tmStatus 6 0 0 0 0)
      (Config.pick s.free 77)
  | none =>
    match t.arrayRun with
    | some r => if mine r.job ∧ r.stopped = 0 then s.abortRun tile r else s
    | none => s

/-- `tabort` (R212) -/
def execTabort (d a : Name) (m : Mark) (s : State) : Host.Outcome State Fault Refusal :=
  issue32 m s (do
    srcs [a]
    dst d
    let id ← rd s 0 a
    let w := s.arrWord s.myCore s.me.job id
    fall (wr (if w = 0 then s else s.abortJob s.myCore s.me.job id) d w 2))

end Sys2Proof.Machine
end

