-- ==== Sys2Proof/Machine/Compact.lean ====
section
/-! DEFINITION. The compact forms (R67, R68, R111): each the effect of its 32-bit equivalent, two bytes long and with gap
0. -/

namespace Sys2Proof.Machine

/-- The name of Y's register form (R68). -/
def compactName (y : BitVec 4) : Name := compactY y

/-- A producer X := f(X, Y′) of latency 1. -/
def compactTwo (x : Fin 32) (y : BitVec 4) (mark : Bool) (f : Word → Word → Word) (s : State) :
    Host.Outcome State Fault Refusal :=
  issue16 mark s (do
    let a ← rd s 0 (.s x)
    let b ← rd s 1 (compactName y)
    fall (wr s (.s x) (f a b) 1))

/-- `mov`: `alu.add X, Y′, z` -/
def execCompactMov (x : Fin 32) (y : BitVec 4) (mark : Bool) (s : State) : Host.Outcome State Fault Refusal :=
  issue16 mark s (do
    let b ← rd s 1 (compactName y)
    fall (wr s (.s x) b 1))
/-- `add` -/
def execCompactAdd (x : Fin 32) (y : BitVec 4) (mark : Bool) (s : State) := compactTwo x y mark (fun a b => a + b) s
/-- `sub` -/
def execCompactSub (x : Fin 32) (y : BitVec 4) (mark : Bool) (s : State) := compactTwo x y mark (fun a b => a - b) s
/-- `and` -/
def execCompactAnd (x : Fin 32) (y : BitVec 4) (mark : Bool) (s : State) := compactTwo x y mark (fun a b => a &&& b) s

/-- X := f(X) with an immediate. -/
def compactOne (x : Fin 32) (mark : Bool) (f : Word → Word) (s : State) : Host.Outcome State Fault Refusal :=
  issue16 mark s (do
    let a ← rd s 0 (.s x)
    fall (wr s (.s x) (f a) 1))
/-- `addi` -/
def execCompactAddi (x : Fin 32) (y : BitVec 4) (mark : Bool) (s : State) :=
  compactOne x mark (fun a => a + y.signExtend 64) s
/-- `shl` -/
def execCompactShl (x : Fin 32) (y : BitVec 4) (mark : Bool) (s : State) := compactOne x mark (fun a => a <<< y.toNat) s
/-- `shr` -/
def execCompactShr (x : Fin 32) (y : BitVec 4) (mark : Bool) (s : State) := compactOne x mark (fun a => a >>> y.toNat) s

/-- The base register of the compact loads and stores. -/
def compactBase (y : BitVec 4) : Name := .s (Fin.ofNat 32 (y.toNat % 8))
/-- Their effective address: offset 0 or 8 (R111). -/
def compactEa (base : Word) (y : BitVec 4) : Int := (base.toNat : Int) + (if y.toNat < 8 then 0 else 8)

/-- `ldl.d` -/
def execCompactLdlD (x : Fin 32) (y : BitVec 4) (mark : Bool) (s : State) : Host.Outcome State Fault Refusal :=
  issue16 (mark || s.me.precise) s (do
    let base ← rd s 0 (compactBase y)
    loadLocal (.s x) (compactEa base y) 8 false false s)
/-- `stl.d` -/
def execCompactStlD (x : Fin 32) (y : BitVec 4) (mark : Bool) (s : State) : Host.Outcome State Fault Refusal :=
  issue16 mark s (do
    let base ← rd s 0 (compactBase y)
    storeLocal (.s x) (compactEa base y) 8 false s)
/-- `beqz` -/
def execCompactBeqz (x : Fin 32) (y : BitVec 4) (mark : Bool) (s : State) : Host.Outcome State Fault Refusal :=
  issue16 mark s (do
    let a ← rd s 0 (.s x)
    branchIf (a == 0) s y.toInt)
/-- `bnez` -/
def execCompactBnez (x : Fin 32) (y : BitVec 4) (mark : Bool) (s : State) : Host.Outcome State Fault Refusal :=
  issue16 mark s (do
    let a ← rd s 0 (.s x)
    branchIf (a != 0) s y.toInt)
/-- `end` -/
def execCompactEnd (mark : Bool) (s : State) : Host.Outcome State Fault Refusal :=
  releaseNext s (issue16 mark s (fall (ending s)))
/-- `nop` -/
def execCompactNop (mark : Bool) (s : State) : Host.Outcome State Fault Refusal := issue16 mark s (fall s)
/-- `ret` -/
def execCompactRet (mark : Bool) (s : State) : Host.Outcome State Fault Refusal := issue16 mark s (returnTo s)
/-- `cmov`: X := (X ≠ 0) ? X : Y′ -/
def execCompactCmov (x : Fin 32) (y : BitVec 4) (mark : Bool) (s : State) := compactTwo x y mark (fun a b => if a ≠ 0 then a else b) s

end Sys2Proof.Machine
end

