-- ==== Sys2Proof/Machine/Near.lean ====
section
/-! DEFINITION. Near-memory operations (R190 to R195): the requests, and the slice engines that perform them (R326). -/

namespace Sys2Proof.Machine

/-! ## The instructions -/

/-- Words of the block of a function (R191); those of the reductions follow from N. -/
def nearWords (f n : Nat) : Nat :=
  match f with
  | 2 => 6
  | 3 => 12
  | 5 => 6
  | 6 => 4 + n
  | 7 => 4 + n
  | 8 => 4 + n
  | _ => 5

/-- N of NCTL. -/
def nearN (b : List Word) : Nat := fieldOf (wordAt b 0) 15 4

/-- Bytes of the operand (R190). -/
def nearLen (f : Nat) (b : List Word) : Nat :=
  match f with
  | 3 => 32
  | 4 => 16
  | 5 => 8
  | 6 => 8 * nearN b
  | 7 => 8 * nearN b
  | 8 => 8 * nearN b
  | _ => if (wordAt b 0).testBit 13 then 8 else 4

/-- The limits of NCTL (R190). -/
def nearCtlOk (f c : Nat) : Bool :=
  let n := fieldOf c 15 4
  decide (c < 2 ^ 19) && (!c.testBit 13 || f == 0 || f == 1 || f == 2 || f == 9) && (!c.testBit 14 || f == 1)
    && (if 6 ≤ f ∧ f ≤ 8 then decide (1 ≤ n ∧ n ≤ 8) else n == 0)

/-- The limits of the offsets and hops of a chase (R193). -/
def chaseOk (c5 : Nat) : Bool :=
  fieldOf c5 59 5 == 0 && fieldOf c5 0 16 % 8 == 0 && fieldOf c5 16 16 % 8 == 0 && fieldOf c5 32 16 % 8 == 0
    && decide (1 ≤ fieldOf c5 48 11 ∧ fieldOf c5 48 11 ≤ 1024)

/-- The device a block names, if it is another one (R190). -/
def nearFar (s : State) (b : List Word) : Option Nat :=
  let c := wordAt b 0
  if c.testBit 12 && fieldOf c 0 12 != s.devid then some (fieldOf c 0 12) else none

/-- The access of a request, at the node and hop it stands at. -/
def nearAccess (r : Req) (f : Nat) (b : List Word) (p hops : Nat) : Access :=
  ⟨r.id, r.job, r.task, r.core, .near f b, p, noPa, nearLen f b, [], 0, 0, 0, hops, 0, 0, r.rel, r.know, r.acc, none, .ni (tileOf r.core)⟩

/-- The location a request names, for the order of R247: of this device or of another. -/
def nearRange (s : State) (job f : Nat) (b : List Word) : Space × Nat × Nat :=
  let g := globalRange job (wordAt b 1) (nearLen f b)
  match nearFar s b with
  | some d => (.hbm, 2 ^ 70 * (d + 1) + g.2.1, 2 ^ 70 * (d + 1) + g.2.2)
  | none => g

/-- A near-memory request leaves: for the station, or for an I/O node when it is far. Its node and hops stand in `failAt` and
`left`. -/
def queueNear (w : Issuer) (f : Nat) (b : List Word) (v : Nat) (s : State) : State :=
  let cm : Cmsg := ⟨b.getD 2 0, b.getD 3 0⟩
  let sc := if (nearFar s b).isSome then Scope.system else .die
  let ranges := [nearRange s w.job f b]
  let r := { s.newReq w (.near f b) v cm .near (relOf cm) 0 ranges with failAt := wordAt b 1 }
  let s1 := s.addReq w .near sc ranges r
  match nearFar s b with
  | some _ => s1.postReq w r.id (.west w.ni.row)
  | none => s1.toStation (nearAccess r f b (wordAt b 1) 0) w.queue r.waits

/-- The checks of a block at issue. -/
def nearCheck (j : Job) (f : Nat) (b : List Word) : Except Stop Unit := do
  limits (nearCtlOk f (wordAt b 0))
  limits (f != 5 || chaseOk (wordAt b 5))
  cmsgLimits j (b.getD 2 0) false

/-- The shape of the near-memory instructions: a block, and the weight in B. -/
def nearWith (f : Nat) (a b : Name) (s : State) : Res := do
  srcs [b]
  let j ← theJob s
  let r ← blockAt a 4
  let c := (readS s 40 r).toNat
  limits (nearCtlOk f c)
  let n := nearWords f (fieldOf c 15 4)
  let words ← block s a n
  nearCheck j f words
  ready (niRoom s (if (nearFar s words).isSome then .system else .die))
  blockOk s a n
  let v ← rd s 60 b
  let s1 ← takeWeight s v.toNat
  fall (queueNear s1.issuer f words v.toNat s1)

/-- `near.atom.add` (R191) -/
def execNearAtomAdd (a b : Name) (m : Mark) (s : State) : Host.Outcome State Fault Refusal := issue32 m s (nearWith 0 a b s)
/-- `near.atom.max` (R191) -/
def execNearAtomMax (a b : Name) (m : Mark) (s : State) : Host.Outcome State Fault Refusal := issue32 m s (nearWith 1 a b s)
/-- `near.atom.cas` (R191) -/
def execNearAtomCas (a b : Name) (m : Mark) (s : State) : Host.Outcome State Fault Refusal := issue32 m s (nearWith 2 a b s)
/-- `near.cas4` (R191) -/
def execNearCas4 (a b : Name) (m : Mark) (s : State) : Host.Outcome State Fault Refusal := issue32 m s (nearWith 3 a b s)
/-- `near.enq` (R192) -/
def execNearEnq (a b : Name) (m : Mark) (s : State) : Host.Outcome State Fault Refusal := issue32 m s (nearWith 4 a b s)
/-- `near.chase` (R193) -/
def execNearChase (a b : Name) (m : Mark) (s : State) : Host.Outcome State Fault Refusal := issue32 m s (nearWith 5 a b s)
/-- `near.red.add.f32` (R194) -/
def execNearRedAddF32 (a b : Name) (m : Mark) (s : State) : Host.Outcome State Fault Refusal := issue32 m s (nearWith 6 a b s)
/-- `near.red.max.f32` (R194) -/
def execNearRedMaxF32 (a b : Name) (m : Mark) (s : State) : Host.Outcome State Fault Refusal := issue32 m s (nearWith 7 a b s)
/-- `near.red.add.i32` (R194) -/
def execNearRedAddI32 (a b : Name) (m : Mark) (s : State) : Host.Outcome State Fault Refusal := issue32 m s (nearWith 8 a b s)
/-- `near.xswap` (R191) -/
def execNearXswap (a b : Name) (m : Mark) (s : State) : Host.Outcome State Fault Refusal := issue32 m s (nearWith 9 a b s)

/-! ## What an engine does to its operand (R191, R194) -/

/-- What an operation on one location gives: the new bytes, none where it leaves them, its results and the flags NX, OF and IV of
its status. -/
structure NearOut where
  new : Option (List Byte)
  results : List Word
  flags : Nat
  deriving DecidableEq, Repr

/-- NX, OF and IV of a status from the flags of an FP operation (R181, R194). -/
def statusFlags (f : Nat) : Nat := f / 64 % 2 + f / 16 % 2 * 2 + f / 4 % 2 * 4

/-- One element of a reduction (R194): RNE. -/
def redElem (f old x : Nat) : Nat × Nat :=
  if f = 8 then ((old + x) % 2 ^ 32, 0)
  else
    let a := fp32.decode old
    let b := fp32.decode x
    let r := if f = 6 then a.add 0 b else a.minmax true b
    let e := fp32.result 0 r.1
    (e.1, e.2 ||| r.2)

/-- The 2N elements of a reduction, from an element on. -/
def redElems (f : Nat) (b : List Word) : Nat → List Nat → List (Nat × Nat)
  | _, [] => []
  | e, old :: t => redElem f old (fieldOf (wordAt b (4 + e / 2)) (32 * (e % 2)) 32) :: redElems f b (e + 1) t

/-- The 32-bit elements of bytes. -/
def elems32 (bs : List Byte) : List Nat := (List.range (bs.length / 4)).map (fun i => leNat ((bs.drop (4 * i)).take 4))

/-- The larger of two values of w bits, signed or not (R191). -/
def atomMax (uns : Bool) (bits old x : Nat) : Nat :=
  if uns then max old x else if sextNat old bits < sextNat x bits then x else old

/-- What a function other than `enq` and `chase` does to the bytes of its operand. -/
def nearOp (f : Nat) (b : List Word) (old : List Byte) : NearOut :=
  let c := wordAt b 0
  let w := if c.testBit 13 then 8 else 4
  let o := leNat old
  let x := wordAt b 4 % 2 ^ (8 * w)
  let put (n : Nat) : Option (List Byte) := some (bytesOfNat n w)
  match f with
  | 0 => ⟨put ((o + x) % 2 ^ (8 * w)), [BitVec.ofNat 64 o], 0⟩
  | 1 => ⟨put (atomMax (c.testBit 14) (8 * w) o x), [BitVec.ofNat 64 o], 0⟩
  | 2 => ⟨if o = x then put (wordAt b 5 % 2 ^ (8 * w)) else none, [BitVec.ofNat 64 o], 0⟩
  | 3 =>
    let ws := leWords old 4
    ⟨if ws = (b.drop 4).take 4 then some (((b.drop 8).take 4).flatMap wordBytes) else none, ws, 0⟩
  | 9 => ⟨put x, [BitVec.ofNat 64 o], 0⟩
  | _ =>
    let r := redElems f b 0 (elems32 old)
    ⟨some (r.flatMap (fun e => bytesOfNat e.1 4)), [], statusFlags (r.foldl (fun a e => a ||| e.2) 0)⟩

/-! ## Engines -/

/-- A request with ACQ gains what the releases order whose values its operation reads. -/
def State.nearAcquires (s : State) (a : Access) (sp : Space) (pa n : Nat) : State :=
  match a.dev, s.req? a.req with
  | none, some r =>
    if cmAcq r.cm then
      let seen := s.writes.filter (fun w => w.space == sp && decide (pa ≤ w.addr ∧ w.addr < pa + n))
      s.acquireAt r.id (cmScope r.cm) r.core sp pa ((seen.filter (fun w => seen.find? (fun x => x.addr == w.addr) == some w)).filterMap (·.rel))
    else s
  | _, _ => s

/-- An operation has been performed at its engine: the answer goes to the issuer (R191, R248). -/
def State.nearDone (s : State) (src : Endpoint) (a : Access) (status flags : Nat) (results : List Word) : State :=
  let s1 := if a.dev.isNone then s.performAcc a.acc else s
  (s1.freeCredit a).toIssuer src { a with status := status, flags := flags, data := results.flatMap wordBytes, node := 0 }

/-- Writes bytes on the NEAR path as part of an access. -/
def State.nearWrite (s : State) (a : Access) (sp : Space) (pa : Nat) (bs : List Byte) : State :=
  s.writeBytes sp pa bs .near a.task a.acc a.rel

/-- An engine performs an operation on one location, single-copy atomic: it reads the latest value. -/
def performOp (s : State) (src : Endpoint) (a : Access) (f : Nat) (b : List Word) : State :=
  match physSpace a.pa with
  | none => s.failAccess src a 5
  | some (sp, pa) =>
    let r := nearOp f b ((s.mem sp).read pa a.len)
    let s1 := s.nearAcquires a sp pa a.len
    let s2 := match r.new with
      | some bs => s1.nearWrite a sp pa bs
      | none => s1
    s2.nearDone src a 0 r.flags r.results

/-- Where a second address that an operation reaches stands: its memory and address there, or what becomes of the access. -/
inductive Reached where
  | there (s : State) (sp : Space) (a : Nat)
  | stop (s : State)
  deriving Repr

/-- Translates a further address of an access at the station of its engine's slice: one in storage parks the access, another failure ends
it (R188, R193, R297). -/
def reachAt (s : State) (src : Endpoint) (j : Job) (a : Access) (va : Nat) (write : Bool) : Reached :=
  let st := (stationNo src).getD a.st
  if 2 ^ 52 ≤ va then .stop (s.failAccess src a 5)
  else
    match s.look st a.job j.ptroot va with
    | .entry s1 e =>
      (match s1.useEntry st e va write a.dev.isSome with
      | .error code => .stop (s1.failAccess src a code)
      | .ok (s2, pa) => match physSpace pa with
        | some (sp, p) => .there s2 sp p
        | none => .stop (s2.failAccess src a 5))
    | .busy addr => .stop ((s.freeCredit a).park a addr)
    | .stored e addr bits => if a.dev.isSome then .stop (s.failAccess src a 5) else .stop (s.parkStored a addr e bits)
    | .fails code => .stop (s.failAccess src a code)

/-- `near.enq` (R192): the node's link is cleared, the tail exchanged with the node, and the node linked behind the old tail or
at the head. -/
def performEnq (s : State) (src : Endpoint) (j : Job) (a : Access) (b : List Word) : State :=
  let n := wordAt b 4
  match physSpace a.pa with
  | none => s.failAccess src a 5
  | some (sp, pa) =>
    match reachAt s src j a n true with
    | .stop t => t
    | .there s1 nsp np =>
      let old := leNat ((s1.mem sp).read (pa + 8) 8)
      let finish (s : State) (lsp : Space) (lp : Nat) : State :=
        ((((s.nearAcquires a sp (pa + 8) 8).nearWrite a nsp np (bytesOfNat 0 8)).nearWrite a sp (pa + 8) (bytesOfNat n 8)).nearWrite a lsp
          lp (bytesOfNat n 8)).nearDone src a 0 0 [BitVec.ofNat 64 old]
      if old = 0 then finish s1 sp pa
      else
        match reachAt s1 src j a old true with
        | .stop t => t
        | .there s2 osp op => finish s2 osp op

/-- One node of a chase (R193): its key, then its value or the next node, at which the station of this slice looks next. -/
def performHop (s : State) (src : Endpoint) (j : Job) (a : Access) (b : List Word) : State :=
  let c5 := wordAt b 5
  let read (s : State) (sp : Space) (p place : Nat) : Nat := leNat (s.readBytes (readerOf s .near a.task a.know) sp p 8 place)
  match reachAt s src j a (a.va + fieldOf c5 16 16) false with
  | .stop t => t
  | .there s1 ksp kp =>
    if read s1 ksp kp 22 = wordAt b 4 then
      match reachAt s1 src j a (a.va + fieldOf c5 32 16) false with
      | .stop t => t
      | .there s2 vsp vp => s2.nearDone src a 0 0 [BitVec.ofNat 64 a.va, BitVec.ofNat 64 (read s2 vsp vp 23), BitVec.ofNat 64 a.hops]
    else
      match reachAt s1 src j a (a.va + fieldOf c5 0 16) false with
      | .stop t => t
      | .there s2 nsp np =>
        s2.postAt (stationEnd ((stationNo src).getD a.st)) a.job (.access { a with va := read s2 nsp np 24, hops := a.hops + 1, pa := noPa })

/-- What an engine does with an operation it has accepted. -/
def engineDo (s : State) (src : Endpoint) (j : Job) (a : Access) : State :=
  match a.kind with
  | .near 4 b => performEnq s src j a b
  | .near 5 b => performHop s src j a b
  | .near f b => performOp s src a f b
  | _ => s

/-- Forward credits of a slice in use (R326). -/
def creditsUsed (s : State) (at_ : Endpoint) : Nat :=
  match stationNo at_ with
  | some st => s.fwdCredits.getD st 0
  | none => 0

/-- An engine accepts an operation and performs it, or answers RETRY: its input queue holds 32, and a chase needs one of 16 forward
credits (R326). Operations are performed in the order they reach the slice (R194). -/
def acceptNear (s : State) (p : Packet) (a : Access) (hint : Nat) : State :=
  match s.context? a.job with
  | none => s.dropPacket p.id
  | some j =>
    let s1 := { (s.dropPacket p.id) with free := s.free + 1 }
    if a.node ≠ 0 then engineDo s1 p.dst j a
    else if engineQueue ≤ queuedBefore s p then s1.turnAway p.dst a hint
    else if 0 < queuedBefore s p then s
    else
      match a.kind, stationNo p.dst with
      | .near 5 _, some st =>
        if 16 ≤ creditsUsed s p.dst then s1.turnAway p.dst a hint
        else engineDo { s1 with fwdCredits := s1.fwdCredits.set st (creditsUsed s p.dst + 1) } p.dst j { a with node := st + 1 }
      | _, _ => engineDo s1 p.dst j a

/-- A forward of a chase from another engine. -/
def isForward (p : Packet) (a : Access) : Bool :=
  p.src != p.dst && decide (0 < a.hops) && (match a.kind with
    | .near 5 _ => true
    | _ => false)

/-- A near-memory operation at a slice engine (R191, R326). -/
def execNearOpExecute (pkt hint : Nat) (s : State) : Host.Outcome State Fault Refusal :=
  match s.arrived? pkt with
  | some p =>
    match p.body with
    | .access a =>
      if a.pa = noPa ∨ isPiece a.kind ∨ isForward p a then .next s else .next (acceptNear s p a hint)
    | _ => .next s
  | none => .next s

/-- A forward of a chase reaches the engine of its next node, which accepts it or answers RETRY to the issuer (R326). -/
def execChaseForwardArrival (pkt hint : Nat) (s : State) : Host.Outcome State Fault Refusal :=
  match s.arrived? pkt with
  | some p =>
    match p.body with
    | .access a => if a.pa ≠ noPa ∧ isForward p a then .next (acceptNear s p a hint) else .next s
    | _ => .next s
  | none => .next s

/-! ## Resends (R326, R381) -/

/-- A RETRY that has waited its time at the NI. -/
def retryDue? (s : State) (req : Nat) : Option (Packet × Access) :=
  s.packets.findSome? (fun p => match p.body with
    | .turnedAway a hint =>
      if p.pos == .dest && a.req == req && decide (p.ready + 16 * 2 ^ hint ≤ s.clk) then some (p, a) else none
    | _ => none)

/-- The issuing unit sends a request, a piece of a copy or a far send again 16 × 2^HINT clk after its RETRY, with the node and hops of a
chase (R326). -/
def execFarRetryResend (req : Nat) (s : State) : Host.Outcome State Fault Refusal :=
  match retryDue? s req with
  | some (p, a) => .next ((s.dropPacket p.id).toStation { a with pa := noPa, node := 0 } 0 [])
  | none =>
    match s.req? req, s.out? req with
    | some r, _ =>
      match r.kind with
      | .near _ _ =>
        if r.due ≠ 0 ∧ r.due ≤ s.clk then
          .next ((s.updReq req (fun r => { r with due := 0 })).post .request (.ni (tileOf r.core)) (.west (tileY (tileOf r.core)))
            r.job 1 0 [] (.request req))
        else .next s
      | .copy _ _ _ _ =>
        if r.due ≠ 0 ∧ r.due ≤ s.clk then .next ((s.updReq req (fun r => { r with due := 0 })).wakeTransfer req) else .next s
      | _ => .next s
    | none, some o =>
      if o.far.isSome && o.state == .refused && decide (o.due ≤ s.clk) then
        .next ((s.updOut req (fun o => { o with state := .flying })).post .request o.src (.west o.src.row) o.msg.job
          (msgFlits (hdrLen o.msg.hdr)) 0 [] (.message req))
      else .next s
    | none, none => .next s

end Sys2Proof.Machine
end

