-- ==== Sys2Proof/Machine/Copy.lean ====
section
/-! DEFINITION. Copies (R196 to R204): the copy FIFO, the choice of a BTE, the checks at acceptance, and the moving of pieces and
walk elements. -/

namespace Sys2Proof.Machine

/-! ## Commands (R196) -/

/-- A side of a copy: local memory, scratchpad, global memory, or global memory of another device. -/
inductive Side where
  | loc
  | tile
  | glob
  | far (dev : Nat)
  deriving DecidableEq, Repr

/-- The side of a space number, far where its flag names another device. -/
def sideNo (s : State) (c n farBit : Nat) : Side :=
  if n = 0 then .loc else if n = 1 then .tile
  else if c.testBit farBit && fieldOf c 6 12 != s.devid then .far (fieldOf c 6 12) else .glob

/-- The source side of CCTL. -/
def srcSide (s : State) (c : Nat) : Side := sideNo s c (fieldOf c 0 2) 18
/-- The destination side of CCTL. -/
def dstSide (s : State) (c : Nat) : Side := sideNo s c (fieldOf c 2 2) 19
/-- CHAN of CCTL. -/
def copyChan (c : Nat) : Nat := fieldOf c 4 2

/-- The limits of CCTL (R196). -/
def copyCtlOk (c : Nat) : Bool :=
  decide (c < 2 ^ 20) && fieldOf c 0 2 != 3 && fieldOf c 2 2 != 3 && (!c.testBit 18 || fieldOf c 0 2 == 2)
    && (!c.testBit 19 || fieldOf c 2 2 == 2)

/-- The checks of a block at issue: a linear length of 32 bits, or a walk record inside the local memory (R196). -/
def copyCheck (j : Job) (walk : Bool) (b : List Word) : Except Stop Unit := do
  limits (copyCtlOk (wordAt b 0))
  if walk then limits (wordAt b 1 % 8 == 0 && decide (wordAt b 1 + 128 ≤ min 0x10000 j.localLimit))
  else limits (decide (wordAt b 3 < 2 ^ 32))
  cmsgLimits j (b.getD (if walk then 2 else 4) 0) false

/-- A transfer identifier (R196). -/
def transferId (chan seq : Nat) : Word := BitVec.ofNat 64 (2 ^ 63 + 2 ^ 32 * chan + seq)

/-- The sequence number after another: from 2³² − 1 on to 1. -/
def seqNext (n : Nat) : Nat := if n + 1 < 2 ^ 32 then n + 1 else 1

/-- Writes a channel of a job on a core. -/
def State.setChan (s : State) (core job ch : Nat) (c : Chan) : State := { s with chans := s.chans.set (chanKey core job ch) c }

/-- A new transfer in the FIFO: its core keeps the state of the last 32 of a channel (R202). -/
def chanNew (l : List (Nat × Nat × Nat × Nat)) (seq : Nat) : List (Nat × Nat × Nat × Nat) :=
  (l ++ [(seq, 1, 0, 0)]).drop (l.length + 1 - 32)

/-- The state of a transfer changes, where its core still keeps it (R202). -/
def chanNote (l : List (Nat × Nat × Nat × Nat)) (seq st code count : Nat) : List (Nat × Nat × Nat × Nat) :=
  replaceIf (fun e => e.1 == seq) (fun _ => (seq, st, code, count)) l

/-- The scope of the access a copy is (R248). -/
def copyScope (s : State) (c : Nat) : Scope :=
  match srcSide s c, dstSide s c with
  | .far _, _ => .system
  | _, .far _ => .system
  | _, _ => .die

/-- The locations of a side of a copy for the order of R247: its bytes, or for a walk the whole space that it may reach. -/
def copyRange (w : Issuer) (side : Side) (walk : Bool) (a n : Nat) : Space × Nat × Nat :=
  let r : Space × Nat × Nat := match side with
    | .loc => (.loc, locAddr w.job w.vcore 0, 0x10000)
    | .tile => (.scratch, scratchAddr w.job (w.vcore / 8) 0, 0x100000)
    | .glob => (.hbm, (globalRange w.job 0 0).2.1, 2 ^ 52)
    | .far d => (.hbm, 2 ^ 70 * (d + 1) + (globalRange w.job 0 0).2.1, 2 ^ 52)
  if walk then (r.1, r.2.1, r.2.1 + r.2.2) else (r.1, r.2.1 + a, r.2.1 + a + n)

/-- The locations of a copy; a conversion widens elements eightfold at most. -/
def copyRanges (s : State) (w : Issuer) (walk : Bool) (b : List Word) : List (Space × Nat × Nat) :=
  let c := wordAt b 0
  let n := wordAt b 3
  [copyRange w (srcSide s c) walk (wordAt b 1) n,
    copyRange w (dstSide s c) walk (wordAt b 2) (if srcSide s c = .tile ∧ dstSide s c = .tile then 8 * n else n)]

/-- The accesses of a task's copies: no order holds between two of them (R204). -/
def copyAccs (s : State) (task : Nat) : List Nat :=
  (s.reqs.filter (fun r => r.task == task && (match r.kind with
    | .copy _ _ _ _ => true
    | _ => false))).map (·.acc)

/-- A copy command enters the FIFO with its sequence number (R196); it is no packet yet. Its task's earlier block transfers to the
same bytes come before it (R247), its earlier copies need not (R204). A posted one takes no place and no number in the FIFO (R220): it
stands beside it, with the number 0. -/
def queueCopy (w : Issuer) (walk : Bool) (b : List Word) (v : Nat) (s : State) : State :=
  let c := wordAt b 0
  let ch := copyChan c
  let k := s.chan w.core w.job ch
  let cm : Cmsg := ⟨b.getD (if walk then 2 else 4) 0, b.getD (if walk then 3 else 5) 0⟩
  let id := nextReq s
  let seq := if w.post = 0 then k.next else 0
  let ranges := copyRanges s w walk b
  let r := s.newReq w (.copy walk b ch seq) v cm .copy (relOf cm) 0 []
  let mine := copyAccs s w.task
  let r1 := { r with waits := r.waits ++ (s.overlapping w.task .copy ranges).filter (fun a => !mine.contains a) }
  let s0 := s.addReq w .copy (copyScope s c) ranges r1
  let s1 := if w.post ≠ 0 then s0
    else s0.setChan w.core w.job ch { k with next := seqNext k.next, states := chanNew k.states k.next }
  s1.updCore w.core (fun x => { x with fifo := x.fifo ++ [(⟨id, 0, 0, none, false⟩ : CopyCmd)] })

/-- A posted copy (R220). -/
def isPosted (s : State) (cmd : CopyCmd) : Bool :=
  match s.req? cmd.req with
  | some r => r.post != 0
  | none => false

/-- The places taken in a core's copy FIFO. -/
def fifoLen (s : State) (core : Nat) : Nat := ((s.core core).fifo.filter (fun c => !isPosted s c)).length

/-- The shape of `cpy` and `cpy.walk`: the weight is checked first; a full FIFO writes 0 and takes none (R196). -/
def copyWith (walk : Bool) (d a b : Name) (s : State) : Res := do
  srcs [b]
  dst d
  let j ← theJob s
  let n := if walk then 4 else 6
  let words ← block s a n
  copyCheck j walk words
  ready (!s.countFull s.me.task (copyScope s (wordAt words 0)))
  blockOk s a n
  let v ← rd s 60 b
  let s1 ← takeWeight s v.toNat
  if 8 ≤ fifoLen s s.myCore then fall (wr s d 0 1)
  else
    let ch := copyChan (wordAt words 0)
    let id := transferId ch (s.chan s.myCore s.me.job ch).next
    fall (wr (queueCopy s1.issuer walk words v.toNat s1) d id 1)

/-- `cpy` (R196) -/
def execCpy (d a b : Name) (m : Mark) (s : State) : Host.Outcome State Fault Refusal := issue32 m s (copyWith false d a b s)
/-- `cpy.walk` (R196) -/
def execCpyWalk (d a b : Name) (m : Mark) (s : State) : Host.Outcome State Fault Refusal := issue32 m s (copyWith true d a b s)

/-! ## The end of a transfer -/

/-- Counts a finished transfer in CPYDONE (R203). -/
def Chan.finish (k : Chan) (seq : Nat) : Chan :=
  let rec go (fuel done : Nat) (ahead : List Nat) : Nat × List Nat :=
    match fuel with
    | 0 => (done, ahead)
    | n + 1 => if ahead.contains (seqNext done) then go n (seqNext done) (ahead.erase (seqNext done)) else (done, ahead)
  let r := go (k.ahead.length + 1) k.done (k.ahead ++ [seq])
  { k with done := r.1, ahead := r.2 }

/-- The channel of a copy request. -/
def copyPlace (r : Req) : Nat × Nat :=
  match r.kind with
  | .copy _ _ ch seq => (ch, seq)
  | _ => (0, 0)

/-- Forgets a transfer at its BTE and its FIFO, and notes it finished. -/
def State.retireCopy (s : State) (r : Req) (code : Nat) : State :=
  let p := copyPlace r
  let k := s.chan r.core r.job p.1
  let out (e : Nat × List Transfer) : Nat × List Transfer := (e.1, e.2.filter (fun t => t.req != r.id))
  let s1 := { s with btes := s.btes.map out }
  let s2 := if r.post ≠ 0 then s1
    else s1.setChan r.core r.job p.1 { (k.finish p.2) with states := chanNote k.states p.2 3 code r.count }
  s2.updCore r.core (fun x => { x with fifo := x.fifo.filter (fun c => c.req != r.id) })

/-- A transfer completes with a code (R180, R204). -/
def State.finishCopy (s : State) (src : Endpoint) (r : Req) (code : Nat) : State :=
  (s.retireCopy r code).finishReq src { r with code := code, failAt := 0 } (cmAcq r.cm) []

/-- A transfer that reads a byte with an uncorrectable error raises ECCLOC on its job (R330); the code its channel keeps is open. -/
def State.eccCopy (s : State) (src : Endpoint) (r : Req) (arg : Nat) : State :=
  (s.retireCopy r (Config.pick s.free 71 % 256)).raiseReq src r .eccloc (BitVec.ofNat 64 arg)

/-! ## Walk records (R199) -/

/-- A dimension of a walk. -/
structure WalkDim where
  count : Nat
  start : Int
  sstr : Int
  dstr : Int
  lo : Int
  hi : Int
  deriving DecidableEq, Repr

/-- A walk record. -/
structure Walk where
  sbase : Int
  dbase : Int
  es : Nat
  bside : Bool
  pad : Nat
  dims : List WalkDim
  deriving DecidableEq, Repr

/-- Dimension d of a record. -/
def walkDim (w : List Word) (d : Nat) : WalkDim :=
  let x := wordAt w (4 + 3 * d)
  let y := wordAt w (5 + 3 * d)
  let z := wordAt w (6 + 3 * d)
  ⟨fieldOf x 0 32, sextNat (x / 2 ^ 32) 32, sextNat y 32, sextNat (y / 2 ^ 32) 32, sextNat z 32, sextNat (z / 2 ^ 32) 32⟩

/-- A walk from its record of 16 words. -/
def walkOf (w : List Word) : Walk :=
  let c := wordAt w 2
  ⟨(w.getD 0 0).toInt, (w.getD 1 0).toInt, fieldOf c 0 2, c.testBit 4, wordAt w 3, (List.range (fieldOf c 2 2 + 1)).map (walkDim w)⟩

/-- The elements of a walk. -/
def Walk.total (w : Walk) : Nat := (w.dims.map (·.count)).foldl (· * ·) 1

/-- A record that breaks its layout (R199). -/
def walkBad (w : List Word) : Bool :=
  let c := wordAt w 2
  let n := fieldOf c 2 2 + 1
  decide (32 ≤ c) || (w.drop (4 + 3 * n)).any (· != 0) || decide (2 ^ 32 < (walkOf w).total)

/-- A value that a signed 64-bit register holds. -/
def fits64 (i : Int) : Bool := decide (-(2 ^ 63 : Int) ≤ i ∧ i < 2 ^ 63)

/-- The range of coordinates a dimension is clipped to, its end excluded (R201). -/
def WalkDim.clip (d : WalkDim) : Int × Int := (max d.start d.lo, min (d.start + d.count) d.hi)

/-- The ranges of the values that multiply the strides of a side, by dimension: coordinates on the coordinate side, indices on the
other; none where the side is not reached. -/
def Walk.ranges (w : Walk) (src : Bool) : Option (List (Int × Int × Int)) :=
  let coord := src != w.bside
  let one (d : WalkDim) : Int × Int × Int :=
    let c := d.clip
    let r : Int × Int := if coord then c else if w.bside then (c.1 - d.start, c.2 - d.start) else (0, d.count)
    (if src then d.sstr else d.dstr, r.1, r.2 - 1)
  let l := w.dims.map one
  if l.any (fun e => decide (e.2.2 < e.2.1)) || (w.bside && w.dims.any (fun d => decide (d.clip.2 ≤ d.clip.1))) then none else some l

/-- The corners of a side from a base on, with whether every product and sum fits. -/
def cornersFrom : Int → Bool → List (Int × Int × Int) → List (Int × Bool)
  | a, ok, [] => [(a, ok)]
  | a, ok, (str, lo, hi) :: t =>
    [lo, hi].flatMap (fun i => cornersFrom (a + str * i) (ok && fits64 (str * i) && fits64 (a + str * i)) t)

/-- The corners of a side that is reached. -/
def Walk.corners (w : Walk) (src : Bool) : List (Int × Bool) :=
  match w.ranges src with
  | some l => cornersFrom (if src then w.sbase else w.dbase) true l
  | none => []

/-- The end of a side's space. -/
def sideEnd : Side → Nat
  | .loc => 0x10000
  | .tile => 0x100000
  | .glob => 2 ^ 52
  | .far _ => 2 ^ 52

/-- A side's corners leave its space, or overflow (R201). -/
def Walk.outside (w : Walk) (src : Bool) (side : Side) : Bool :=
  (w.corners src).any (fun c => !c.2 || !fits64 (c.1 + 2 ^ w.es) || decide (c.1 < 0 ∨ (sideEnd side : Int) < c.1 + 2 ^ w.es))

/-- The index vector of a number, dimension 0 fastest. -/
def indexOf (n : Nat) : List WalkDim → List Nat
  | [] => []
  | d :: t => n % d.count :: indexOf (n / d.count) t

/-- The sum of strides times values. -/
def strideSum : List Int → List Int → Int
  | x :: xs, y :: ys => x * y + strideSum xs ys
  | _, _ => 0

/-- Element n of a walk (R200): its source, none for a pad, and its destination; none where nothing is read or written. -/
def Walk.element (w : Walk) (n : Nat) : Option (Option Nat × Nat) :=
  let i : List Int := (indexOf n w.dims).map (fun (x : Nat) => (x : Int))
  let c := (w.dims.zip i).map (fun e => e.1.start + e.2)
  let inside := (w.dims.zip c).all (fun e => decide (e.1.lo ≤ e.2 ∧ e.2 < e.1.hi))
  let s := w.sbase + strideSum (w.dims.map (·.sstr)) (if w.bside then i else c)
  let t := w.dbase + strideSum (w.dims.map (·.dstr)) (if w.bside then c else i)
  if w.bside then (if inside then some (some s.toNat, t.toNat) else none)
  else some (if inside then some s.toNat else none, t.toNat)

/-! ## Checks at acceptance (R197, R198, R201) -/

/-- A range within what the job has of a side: its status (R198, R284). -/
def rangeStatus (j : Job) (side : Side) (a n : Nat) : Nat :=
  match side with
  | .loc => if min 0x10000 j.localLimit < a + n then 1 else 0
  | .tile => if min 0x100000 j.tileLimit < a + n then 2 else 0
  | _ => 0

/-- A copy between two tile ranges that converts: both sides numeric, with different descriptors (R164). -/
def converts (d e : Nat) : Bool := d != e && !descRaw d && !descRaw e

/-- Bytes of the destination of a copy of n source bytes. -/
def destLen (conv : Bool) (d e n : Nat) : Nat :=
  if conv then (n * 8 / descBits d * descBits e + 7) / 8 else n

/-- The descriptors of the first banks of the two sides; 0 for a side that is not scratchpad. -/
def firstDescs (fmts : List Word) (ss ds : Side) (a b : Nat) : Nat × Nat :=
  let d (x : Side) (a : Nat) : Nat := if x = .tile then (fmts.getD (a / 65536) 0).toNat else 0
  (d ss a, d ds b)

/-- Banks that do not all hold one descriptor. -/
def mixed (fmts : List Word) (banks : List Nat) (d : Nat) : Bool := banks.any (fun b => (fmts.getD b 0).toNat != d)

/-- One unformatted side and one numeric side (R164). -/
def badPair (d e : Nat) : Bool := (d == 0) != (e == 0) && (!descRaw d || !descRaw e)

/-- The status of a linear copy at acceptance, and the descriptors of its sides. -/
def linearCheck (s : State) (j : Job) (r : Req) (b : List Word) (ss ds : Side) : Nat × Nat × Nat :=
  let a := wordAt b 1
  let t := wordAt b 2
  let n := wordAt b 3
  let fmts := s.formats r.job (r.vcore / 8)
  let both := ss == .tile && ds == .tile
  let ad := firstDescs fmts ss ds a t
  let conv := both && converts ad.1 ad.2
  let m := destLen conv ad.1 ad.2 n
  let c1 := rangeStatus j ss a n
  let c2 := rangeStatus j ds t m
  let code :=
    if n = 0 then 0
    else if c1 ≠ 0 then c1
    else if c2 ≠ 0 then c2
    else if conv && (n % descBytes ad.1 != 0 || a % descBytes ad.1 != 0 || t % descBytes ad.2 != 0) then 3
    else if both && (mixed fmts (banksOf a n) ad.1 || mixed fmts (banksOf t m) ad.2 || badPair ad.1 ad.2) then 4
    else 0
  (code, if conv then ad.1 else 0, if conv then ad.2 else 0)

/-- The banks that a side of a walk between tile ranges touches. -/
def walkBanks (w : Walk) (src : Bool) : List Nat :=
  ((List.range w.total).flatMap (fun n => match w.element n with
    | some (x, t) => match (if src then x else some t) with
      | some a => banksOf a (2 ^ w.es)
      | none => []
    | none => [])).dedup

/-- The status of a walk at acceptance (R199 to R201). -/
def walkCheck (s : State) (j : Job) (r : Req) (rec_ : List Word) (ss ds : Side) : Nat :=
  let w := walkOf rec_
  let fmts := s.formats r.job (r.vcore / 8)
  let far (src : Bool) (side : Side) : Nat :=
    ((w.corners src).map (fun c => rangeStatus j side c.1.toNat (2 ^ w.es))).foldl max 0
  if walkBad rec_ then 12
  else if w.outside true ss || w.outside false ds then 8
  else if w.sbase % 2 ^ w.es ≠ 0 ∨ w.dbase % 2 ^ w.es ≠ 0 ∨ w.dims.any (fun d => d.sstr % 2 ^ w.es != 0 || d.dstr % 2 ^ w.es != 0) then 3
  else if far true ss ≠ 0 then far true ss
  else if far false ds ≠ 0 then far false ds
  else if ss = .tile ∧ ds = .tile then
    let sb := walkBanks w true
    let db := walkBanks w false
    let d (l : List Nat) : Nat := match l with
      | x :: _ => (fmts.getD x 0).toNat
      | [] => 0
    let raw (x : Nat) : Bool := descKind x == 3 || descKind x == 7
    if mixed fmts sb (d sb) || mixed fmts db (d db) then 4
    else if !sb.isEmpty && !db.isEmpty && d sb != d db && !raw (d sb) && !raw (d db) then 4
    else 0
  else 0

/-! ## The offer (R197) -/

/-- The words that say what a copy moves: the block, or CCTL and the walk record once it has been read. -/
def copyWords (r : Req) : Bool × List Word :=
  match r.kind with
  | .copy walk b _ _ => (walk, b)
  | _ => (false, [])

/-- The first byte of a side that a copy reaches: of a walk, the lowest place in every dimension of its reach (R201; log 57: DEDUCED);
none where the side is not reached or its reach is none of a global space. -/
def firstByte (walk : Bool) (b : List Word) (src : Bool) : Option Nat :=
  if !walk then some (wordAt b (if src then 1 else 2))
  else
    let w := walkOf (b.drop 1)
    if walkBad (b.drop 1) then none
    else match w.ranges src with
      | none => none
      | some l =>
        let a := (if src then w.sbase else w.dbase) + strideSum (l.map (·.1)) (l.map (·.2.1))
        if 0 ≤ a ∧ a < 2 ^ 52 then some a.toNat else none

/-- The slice that serves a global byte of this device, found by the look-up of a station, with the status of a translation that failed
(R197). -/
def servingSlice (s : State) (st job : Nat) (j : Job) (va : Nat) : State × Except Nat (Option Endpoint) :=
  let at_ (pa : Nat) : Option Endpoint := if pa.testBit 51 then none else some (servingUnit pa 0)
  if 2 ^ 52 ≤ va then (s, .error 5)
  else
    match s.look st job j.ptroot va with
    | .entry s1 e => (s1, .ok (at_ (pteFrame e.pte + va % 2 ^ e.bits)))
    | .busy _ => (s, .ok (match s.walk j.ptroot va with
        | .page pa _ _ _ => at_ pa
        | _ => none))
    | .stored e _ _ => (s, .ok (some (stackSlice (pteHstk e) (fieldOf va 8 4))))
    | .fails code => (s, .error code)

/-- The BTE of a command, and a status that ends it there (R197). -/
def chooseBte (s : State) (j : Job) (r : Req) (walk : Bool) (b : List Word) : State × Nat × Nat :=
  let c := wordAt b 0
  let own := (stationNo (entryStation (tileOf r.core))).getD 0
  let pick (a : Option Nat) : State × Nat × Nat :=
    match a with
    | none => (s, own, 0)
    | some va =>
      match servingSlice s own r.job j va with
      | (s1, .ok (some e)) => (s1, (stationNo e).getD own, 0)
      | (s1, .ok none) => (s1, own, 0)
      | (s1, .error code) => (s1, own, code)
  if dstSide s c = .glob then pick (firstByte walk b false)
  else if srcSide s c = .glob then pick (firstByte walk b true)
  else (s, own, 0)

/-- The NI reads a walk record from local memory when it first offers the command (R197): the command then holds CCTL and the 16
words; a byte with an uncorrectable error raises ECCLOC. -/
def readRecord (s : State) (r : Req) : Except State (State × Req) :=
  match r.kind with
  | .copy true b ch seq =>
    if b.length = 17 then .ok (s, r)
    else
      let flat := locAddr r.job r.vcore (wordAt b 1)
      match firstBad s.eccLocal flat 128 with
      | some i => .error (s.eccCopy (.ni (tileOf r.core)) r (wordAt b 1 + i))
      | none =>
        let ws := leWords (s.readBytes (readerOf s .copy r.task r.know) .loc flat 128 25) 16
        let r1 := { r with kind := .copy true (b.getD 0 0 :: ws) ch seq }
        .ok (s.updReq r.id (fun _ => r1), r1)
  | _ => .ok (s, r)

/-- Accepts a command at a BTE: the checks, then the transfer (R197). A length of 0 completes at once with OK (R198). -/
def acceptCopy (s : State) (j : Job) (r : Req) (bte code : Nat) : State :=
  let b := copyWords r
  let c := wordAt b.2 0
  let src := stationEnd bte
  let n := if b.1 then (walkOf (b.2.drop 1)).total else wordAt b.2 3
  if !b.1 && n == 0 then s.finishCopy src r 0
  else if code ≠ 0 then s.finishCopy src r code
  else
    let ss := srcSide s c
    let ds := dstSide s c
    let chk := if b.1 then (walkCheck s j r (b.2.drop 1) ss ds, 0, 0) else linearCheck s j r b.2 ss ds
    if chk.1 ≠ 0 ∨ n = 0 then s.finishCopy src r chk.1
    else
      let p := copyPlace r
      let k := s.chan r.core r.job p.1
      let s0 := if r.post ≠ 0 then s else s.setChan r.core r.job p.1 { k with states := chanNote k.states p.2 2 0 0 }
      let s1 := s0.updCore r.core (fun x => { x with fifo := x.fifo.filter (fun q => q.req != r.id) })
      { s1 with btes := s1.btes.set bte (s1.btes.getD bte [] ++ [(⟨r.id, 0, chk.2.1, chk.2.2, false, false, (0, 0)⟩ : Transfer)]) }

/-- Changes a command that waits in a core's FIFO. -/
def State.updCmd (s : State) (core req : Nat) (f : CopyCmd → CopyCmd) : State :=
  s.updCore core (fun x => { x with fifo := replaceIf (fun c => c.req == req) f x.fifo })

/-- One offer of a command leaves the NI for the BTE that is chosen for it once (R197). -/
def offerCopy (s : State) (j : Job) (r : Req) (cmd : CopyCmd) : State :=
  match readRecord s r with
  | .error t => t
  | .ok (s1, r1) =>
    let b := copyWords r1
    let place := match cmd.bte with
      | some p => (s1, p)
      | none => chooseBte s1 j r1 b.1 b.2
    (place.1.updCmd r.core cmd.req (fun c => { c with bte := some place.2, offered := true })).post .request (.ni (tileOf r.core))
      (stationEnd place.2.1) r.job ((16 + 8 * b.2.length + 31) / 32) 0 [] (.copyOffer r.id)

/-- The command of a request in its core's FIFO. -/
def cmdOf (s : State) (r : Req) : Option CopyCmd := (s.core r.core).fifo.find? (fun c => c.req == r.id)

/-- An offer reaches its BTE, which takes the command, or refuses it where it holds 32 (R197). -/
def takeOffer (s : State) (bte : Nat) (j : Job) (r : Req) (cmd : CopyCmd) : State :=
  if (s.btes.getD bte []).length < 32 then acceptCopy s j r bte ((cmd.bte.map (·.2)).getD 0)
  else s.reply (stationEnd bte) (.ni (tileOf r.core)) r.job (.copyRefused r.id)

/-- A refusal reaches the NI: the k-th lets the command be offered again 16 × 2^min(k − 1, 6) clk later (R197, R381). -/
def offerRefused (s : State) (r : Req) : State :=
  s.updCmd r.core r.id (fun c => { c with refusals := c.refusals + 1, due := s.clk + 16 * 2 ^ min c.refusals 6, offered := false })

/-- The commands a core's NI may offer now: the oldest of the FIFO and the posted ones, once what a fence or a release makes them
wait for is done (R197, R220, R250). -/
def offerable (s : State) (core : Nat) : List CopyCmd :=
  let l := (s.core core).fifo
  let may (c : CopyCmd) : Bool := !c.offered && decide (c.due ≤ s.clk) && (match s.req? c.req with
    | some r => !s.anyWaiting r.waits
    | none => false)
  ((l.filter (fun c => !isPosted s c)).take 1 ++ l.filter (isPosted s)).filter may

/-- A core's NI offers a copy command to its BTE (R197); a device that is halted or in reset starts no further one (R353). -/
def execCopyOffer (tile core : Nat) (s : State) : Host.Outcome State Fault Refusal :=
  let l := offerable s (8 * tile + core)
  match l[Config.pick s.free 73 % l.length]? with
  | none => .next s
  | some cmd =>
    match s.req? cmd.req with
    | none => .next s
    | some r =>
      match s.job? r.job with
      | none => .next s
      | some j =>
        if 8 ≤ core ∨ !s.live then .next s
        else .next { (offerCopy s j r cmd) with free := s.free + 1 }

/-! ## Moving (R198, R200) -/

/-- Changes a transfer. -/
def State.updTransfer (s : State) (req : Nat) (f : Transfer → Transfer) : State :=
  { s with btes := s.btes.map (fun e => (e.1, replaceIf (fun t => t.req == req) f e.2)) }

/-- A transfer waits for its piece to come back. -/
def State.holdTransfer (s : State) (req : Nat) : State := s.updTransfer req (fun t => { t with waiting := true })

/-- A BTE reads n bytes of a side, or writes bytes there, of which the last may keep its upper half: at the NI of the issuing tile, at the
station of its column slice, or on another device (R197, R198). -/
def State.sendPiece (s : State) (j : Job) (r : Req) (bte : Nat) (side : Side) (a n : Nat) (data : Option (List Byte)) (keep : Bool) :
    State :=
  let src := stationEnd bte
  let tile := tileOf r.core
  let x (kind : AccKind) (landing : Nat) : Access :=
    ⟨r.id, r.job, r.task, r.core, kind, a, noPa, n, data.getD [], landing, 0, 0, 0, 0, 0, r.rel, r.know, r.acc, none, src⟩
  let atTile (t : Bool) (landing : Nat) : State :=
    let y := x (if data.isSome then .tileWrite t keep else .tileRead t) landing
    s.post .request src (.ni tile) r.job (accessFlits y) 0 [] (.access y)
  let s1 := match side with
    | .loc => atTile false (locAddr r.job r.vcore a)
    | .tile => atTile true (scratchAddr r.job (r.vcore / 8) a)
    | .glob => s.toStation (x (if data.isSome then .write else .read) 0) 0 []
    | .far d => s.fabSend src r.job ⟨d, s.devid, 0, 0, false, j.jtag, match data with
        | some bs => .copyWrite a bs tile r.id r.v
        | none => .copyRead a n tile r.id r.v⟩
  s1.holdTransfer r.id

/-- Encodes a value into a bank as a converting copy does (R164), with the flags of the status (R181): OF for a saturation, into an integer
bank too, IV for a NaN that is replaced, NX. -/
def copyEncode (d e bits : Nat) : Nat × Nat :=
  let y := descDecode d (bits % 2 ^ descBits d)
  let r := descEncode e 0 true (descIsInt d) y
  if y.isNan then (r.1, 4)
  else if descIsInt e then (r.1, if r.2 &&& (flagIV ||| flagOV) = 0 then statusFlags r.2 else 2)
  else (r.1, statusFlags r.2)

/-- Converts a piece from one bank format to another (R164): the bytes, whether the last one holds a single nibble, and the flags of the
status. -/
def convertPiece (d e : Nat) (bs : List Byte) : List Byte × Bool × Nat :=
  let w := descBits d
  let v := leNat bs
  let rs := (List.range (bs.length * 8 / w)).map (fun i => copyEncode d e (v / 2 ^ (w * i)))
  let bits := rs.length * descBits e
  (bytesOfNat (packElems (descBits e) (rs.map (·.1))) ((bits + 7) / 8), bits % 8 != 0, rs.foldl (fun a f => a ||| f.2) 0)

/-- The step a transfer takes next: its source, none for a pad, its destination and length in source bytes, how far it takes the
transfer, and for a walk element outside its bounds neither. -/
structure Step where
  src : Option Nat
  dst : Option Nat
  len : Nat
  take_ : Nat
  deriving DecidableEq, Repr

/-- Bytes to the next 64 KiB boundary of a global side; a piece is cut there, since a page may fail by itself (R188). -/
def toPage (side : Side) (a : Nat) : Nat :=
  match side with
  | .glob => 65536 - a % 65536
  | .far _ => 65536 - a % 65536
  | _ => 128

/-- The next step of a transfer. -/
def nextStep (s : State) (r : Req) (t : Transfer) : Step :=
  let b := copyWords r
  let c := wordAt b.2 0
  if b.1 then
    let w := walkOf (b.2.drop 1)
    match w.element t.moved with
    | some (x, y) => ⟨x, some y, 2 ^ w.es, 1⟩
    | none => ⟨none, none, 2 ^ w.es, 1⟩
  else
    let a := wordAt b.2 1 + t.moved
    let out := if t.dsrc = 0 then t.moved else t.moved * descBits t.ddst / descBits t.dsrc
    let y := wordAt b.2 2 + out
    let n := min (min (128 - t.moved % 128) (wordAt b.2 3 - t.moved)) (min (toPage (srcSide s c) a) (toPage (dstSide s c) y))
    ⟨some a, some y, n, n⟩

/-- How much a transfer moves in all: source bytes, or elements. -/
def copyTotal (r : Req) : Nat :=
  let b := copyWords r
  if b.1 then (walkOf (b.2.drop 1)).total else wordAt b.2 3

/-- A step is over, with what it counts: the last one completes the transfer. -/
def stepOver (s : State) (bte : Nat) (r : Req) (t : Transfer) (x : Step) (count flags : Nat) : State :=
  let r1 := { r with count := r.count + count, flags := r.flags ||| flags }
  let moved := t.moved + x.take_
  if copyTotal r ≤ moved then s.finishCopy (stationEnd bte) r1 r1.code
  else (s.updReq r.id (fun q => { q with count := r1.count, flags := r1.flags, code := r1.code, failAt := r1.failAt })).updTransfer
    r.id (fun t => { t with moved := moved, waiting := false, failed := (0, 0) })

/-- A failing page: the step moves nothing; a walk stops there, a linear copy goes on (R188, R200). -/
def stepFails (s : State) (bte : Nat) (r : Req) (t : Transfer) (x : Step) (code va : Nat) : State :=
  if (copyWords r).1 then s.finishCopy (stationEnd bte) r code
  else stepOver s bte (r.noteFail code va) t x 0 0

/-- The bytes of a step go to its destination. -/
def putStep (s : State) (j : Job) (bte : Nat) (r : Req) (t : Transfer) (y : Nat) (bs : List Byte) : State :=
  let side := dstSide s (wordAt (copyWords r).2 0)
  if t.dsrc = 0 then s.sendPiece j r bte side y bs.length (some bs) false
  else
    let c := convertPiece t.dsrc t.ddst bs
    let r1 := { r with flags := r.flags ||| c.2.2 }
    (s.updReq r.id (fun _ => r1)).sendPiece j r1 bte side y c.1.length (some c.1) c.2.1

/-- The next step of a transfer begins: one piece, or one walk element. -/
def copyStep (s : State) (j : Job) (bte : Nat) (r : Req) (t : Transfer) : State :=
  let b := copyWords r
  let x := nextStep s r t
  if 256 ≤ t.failed.1 then
    (s.retireCopy r (Config.pick s.free 71 % 256)).endReqNow r (t.failed.1 == 257) (t.failed.1 == 256)
  else match x.src, x.dst with
  | _, none => stepOver s bte r t x 0 0
  | none, some y => putStep s j bte r t y (bytesOfNat (walkOf (b.2.drop 1)).pad x.len)
  | some a, some _ => s.sendPiece j r bte (srcSide s (wordAt b.2 0)) a x.len none false

/-- A BTE's offer at its door: the first that has come for a request. -/
def offerFor (s : State) (bte req : Nat) : Option Packet :=
  (s.packets.find? (fun p => p.dst == stationEnd bte && p.body == .copyOffer req)).bind (fun p => s.arrived? p.id)

/-- A BTE takes or refuses the command of an offer that has come, or begins the next piece or element of a transfer (R197, R198, R200).
A cancelled transfer stops after the piece being moved; how soon the cancel reaches the BTE is open (R202). A device that is halted begins
no further piece (R353). -/
def execCopyPiece (bte req : Nat) (s : State) : Host.Outcome State Fault Refusal :=
  match offerFor s bte req with
  | some p =>
    let s1 := s.dropPacket p.id
    (match s.req? req with
    | some r => (match cmdOf s r, s.job? r.job with
      | some cmd, some j => .next { (takeOffer s1 bte j r cmd) with free := s.free + 1 }
      | _, _ => .next s1)
    | none => .next s1)
  | none =>
    match (s.btes.getD bte []).find? (fun t => t.req == req), s.req? req with
    | some t, some r =>
      (match s.job? r.job with
      | some j =>
        if t.waiting ∨ !s.live then .next s
        else if t.cancelled ∧ Config.pick s.free 72 % 2 = 0 then .next { (s.finishCopy (stationEnd bte) r 9) with free := s.free + 1 }
        else .next { (copyStep s j bte r t) with free := s.free + 1 }
      | none => .next s)
    | _, _ => .next s

/-- The BTE that holds a transfer. -/
def bteOf (s : State) (req : Nat) : Option (Nat × Transfer) :=
  s.btes.findSome? (fun e => (e.2.find? (fun t => t.req == req)).map (fun t => (e.1, t)))

/-- Bytes read come back to the BTE of a transfer, and go to its destination. -/
def copyData (s : State) (r : Req) (bs : List Byte) : State :=
  match bteOf s r.id, s.job? r.job with
  | some (bte, t), some j =>
    (match (nextStep s r t).dst with
    | some y => if 256 ≤ t.failed.1 then s else putStep s j bte r t y bs
    | none => s)
  | _, _ => s

/-- A write of a transfer has been performed: its step is over, with the bytes it wrote. -/
def copyWritten (s : State) (r : Req) (n : Nat) : State :=
  match bteOf s r.id with
  | some (bte, t) => if 256 ≤ t.failed.1 then s else stepOver s bte r t (nextStep s r t) (if (copyWords r).1 then 1 else n) 0
  | none => s

/-- A piece of a transfer is back at its BTE (R187, R198): read, written, failed, or read with an uncorrectable error (R330). -/
def landCopy (s : State) (r : Req) (a : Access) : State :=
  match bteOf s r.id with
  | none => s
  | some (bte, t) =>
    if 256 ≤ t.failed.1 then s
    else if a.status = 256 then s.eccCopy (stationEnd bte) r a.va
    else if a.status ≠ 0 then stepFails s bte r t (nextStep s r t) a.status a.va
    else if accWrites a.kind then copyWritten s r a.len
    else copyData s r a.data

/-- What another device answers a piece of a transfer (R197): the bytes read there, or none once its write is done. -/
def copyReturns (s : State) (r : Req) (bs : List Byte) : State :=
  match bteOf s r.id with
  | none => s
  | some (_, t) => if bs.isEmpty then copyWritten s r (nextStep s r t).len else copyData s r bs

/-! ## cqry and cpy.cancel (R202) -/

/-- A state word. -/
def stateWord (st code count : Nat) : Word := BitVec.ofNat 64 (st + 256 * code + 65536 * (count % 2 ^ 32))

/-- The request of an unfinished transfer. -/
def transferReq (s : State) (core job ch seq : Nat) : Option Req :=
  s.reqs.find? (fun r => r.core == core && r.job == job && (match r.kind with
    | .copy _ _ c q => c == ch && q == seq
    | _ => false))

/-- The state word of a transfer identifier as its core keeps it. -/
def queryWord (s : State) (core job id : Nat) : Word :=
  if !id.testBit 63 || fieldOf id 34 29 != 0 then 0
  else
    let ch := fieldOf id 32 2
    let seq := fieldOf id 0 32
    let k := s.chan core job ch
    match k.states.find? (fun e => e.1 == seq) with
    | some (_, st, code, count) =>
      if st = 3 then stateWord 3 code count
      else stateWord st 0 (match transferReq s core job ch seq with
        | some r => r.count
        | none => 0)
    | none => if 1 ≤ seq ∧ seq ≤ k.done then stateWord 3 0 0 else 0

/-- Cancels a transfer that its core knows as unfinished: one in the FIFO is removed and completes; an accepted one is told to stop
(R202). -/
def cancelCopy (s : State) (core job id : Nat) : State :=
  if !id.testBit 63 || fieldOf id 34 29 != 0 then s
  else
    let ch := fieldOf id 32 2
    let seq := fieldOf id 0 32
    match (s.chan core job ch).states.find? (fun e => e.1 == seq && decide (e.2.1 < 3)), transferReq s core job ch seq with
    | some _, some r =>
      if (cmdOf s r).isSome then s.finishCopy (.ni (tileOf core)) { r with count := 0 } 9
      else s.updTransfer r.id (fun t => { t with cancelled := true })
    | _, _ => s

/-- `cqry` (R202) -/
def execCqry (d a : Name) (m : Mark) (s : State) : Host.Outcome State Fault Refusal :=
  issue32 m s (do
    srcs [a]
    dst d
    let id ← rd s 0 a
    fall (wr s d (queryWord s s.myCore s.me.job id.toNat) 1))

/-- `cpy.cancel` (R202): the state before the cancel is written. -/
def execCpyCancel (d a : Name) (m : Mark) (s : State) : Host.Outcome State Fault Refusal :=
  issue32 m s (do
    srcs [a]
    dst d
    let id ← rd s 0 a
    fall (cancelCopy (wr s d (queryWord s s.myCore s.me.job id.toNat) 1) s.myCore s.me.job id.toNat))

end Sys2Proof.Machine
end

