-- ==== Sys2Proof/Machine/Exchange.lean ====
section
/-! DEFINITION. Exchanges of rows between tiles (R213 to R215). -/

namespace Sys2Proof.Machine

/-! ## The block (R213) -/

/-- T0 -/
def xcT0 (b : List Word) : Nat := fieldOf (wordAt b 0) 0 11
/-- P -/
def xcP (b : List Word) : Nat := fieldOf (wordAt b 0) 11 9
/-- GTAG -/
def xcTag (b : List Word) : Nat := fieldOf (wordAt b 0) 20 8
/-- TIMEOUT -/
def xcTimeout (b : List Word) : Nat := fieldOf (wordAt b 0) 28 24
/-- The source operand. -/
def xcSrc (b : List Word) : Operand := operandOf (b.getD 1 0) (b.getD 2 0)
/-- The destination operand. -/
def xcDst (b : List Word) : Operand := operandOf (b.getD 3 0) (b.getD 4 0)
/-- L -/
def xcL (b : List Word) : Nat := (xcSrc b).rbytes

/-- The checks at issue. -/
def xcCheck (j : Job) (vtile : Nat) (b : List Word) : Except Stop Unit := do
  limits (decide (1 ≤ xcP b ∧ xcP b ≤ 256) && decide (1 ≤ xcTimeout b) && fieldOf (wordAt b 0) 52 12 == 0)
  limits (decide (xcT0 b ≤ vtile ∧ vtile < xcT0 b + xcP b) && decide (xcT0 b + xcP b ≤ j.vtiles))
  let x := xcSrc b
  let y := xcDst b
  limits (x.rows == xcP b && decide (1 ≤ x.rbytes) && y.rows == x.rows && y.rbytes == x.rbytes)
  cmsgLimits j (b.getD 5 0) false

/-- The smallest scope that covers the tiles of an exchange (R246). -/
def xcScope (j : Job) (b : List Word) : Scope :=
  let tiles := (List.range (xcP b)).map (fun k => j.tile (xcT0 b + k))
  match tiles with
  | [] => .tile
  | t :: rest => if rest.isEmpty then .tile else if rest.all (fun u => tileDie u == tileDie t) then .die else .device

/-- `xchg` (R214) -/
def execXchg (d a b : Name) (m : Mark) (s : State) : Host.Outcome State Fault Refusal :=
  issue32 m s (do
    srcs [b]
    dst d
    let j ← theJob s
    let words ← block s a 7
    xcCheck j (s.me.vcore / 8) words
    ready (!s.countFull s.me.task (xcScope j words))
    blockOk s a 7
    let v ← rd s 60 b
    let s1 ← takeWeight s v.toNat
    if 4 ≤ (s.tile s.myTile).xqueue.length then fall (wr s d 0 2)
    else
      let w := s1.issuer
      let cm : Cmsg := ⟨words.getD 5 0, words.getD 6 0⟩
      let rel := relOf cm
      let x : Exchange := ⟨w.job, w.core, w.vcore, w.vcore / 8, w.task, v.toNat, words, cm, 0, [], [], [], [],
        knowOn w.know w.fences .net, s1.serial, w.waits s1 .net rel, rel.map (w.release s1 .net)⟩
      let s2 := (s1.newAcc w.task (xcScope j words) .net false).updTile s1.myTile (fun t => { t with xqueue := t.xqueue ++ [x] })
      fall (wr s2 d 1 2))

/-! ## The unit -/

/-- The packets' values of an exchange that an ARRIVE names (R214). -/
def Exchange.names (x : Exchange) (job gtag p l : Nat) : Bool :=
  x.job == job && xcTag x.block == gtag && xcP x.block == p && xcL x.block == l

/-- The rank of a virtual tile in an exchange. -/
def Exchange.rank (x : Exchange) (vt : Nat) : Option Nat :=
  if xcT0 x.block ≤ vt ∧ vt < xcT0 x.block + xcP x.block then some (vt - xcT0 x.block) else none

/-- Replaces the active exchange of a tile. -/
def State.setXchg (s : State) (tile : Nat) (x : Option Exchange) : State := s.updTile tile (fun t => { t with xactive := x })

/-- The effects of an exchange, for a start that acquires. -/
def Exchange.effects (s : State) (x : Exchange) : Know :=
  x.know ++ ((s.writes.filter (fun w => w.acc == x.acc && x.acc != 0)).map (fun w => (w.id, 127))).dedup
    ++ (match x.rel with
        | some r => r.knows s
        | none => [])

/-- An exchange completes with a code (R214, R215). -/
def State.finishXchg (s : State) (tile : Nat) (x : Exchange) (code : Nat) : State :=
  ((s.performAcc x.acc).setXchg tile none).complete (.ni tile) x.job x.vcore x.v x.cm (statusWord code 0 0) [] (cmAcq x.cm)
    (x.effects s) 0

/-- An exchange ends by raising a cause with all of its weight (R207), after its effects and what happened before it (R380). -/
def State.raiseXchg (s : State) (tile : Nat) (x : Exchange) (c : Cause) (arg : Word) : State :=
  ((s.performAcc x.acc).setXchg tile none).raiseJob x.job x.vcore x.v ⟨c, 2, 0, arg⟩ (x.effects s).allPaths (.ni tile)

/-- A row of an operand in the scratchpad, cut into lines: address and length of each. -/
def rowLines (o : Operand) (r n : Nat) : List (Nat × Nat) :=
  let a := o.addr 0 r 0
  (cutLines a 0 n (n / 128 + 2)).map (fun e => (a + e.1, e.2))

/-- Reads a row on the NET path. -/
def readRow (s : State) (x : Exchange) (p : Nat) : List Byte :=
  let l := rowLines (xcSrc x.block) p (xcL x.block)
  (l.zip (List.range l.length)).flatMap (fun e =>
    s.readBytes (readerOf s .net x.task x.know) .scratch (scratchAddr x.job x.vtile e.1.1) e.1.2 (100 + e.2))

/-- The first byte of a row with an uncorrectable error. -/
def badRow (s : State) (x : Exchange) (p : Nat) : Option Nat :=
  let a := (xcSrc x.block).addr 0 p 0
  (firstBad s.eccScratch (scratchAddr x.job x.vtile a) (xcL x.block)).map (fun i => a + i)

/-- Writes the row of rank q on the NET path. -/
def writeRow (s : State) (x : Exchange) (q : Nat) (bs : List Byte) (rel : Option Rel) : State :=
  let a := (xcDst x.block).addr 0 q 0
  (rowLines (xcDst x.block) q bs.length).foldl (fun s e =>
    s.writeBytes .scratch (scratchAddr x.job x.vtile e.1) ((bs.drop (e.1 - a)).take e.2) .net x.task x.acc rel) s

/-- The flits of a packet with n bytes of content (R231). -/
def dataFlits (n : Nat) : Nat := (8 + n + 31) / 32

/-- Row p leaves for rank p, or is written by its own unit (R214): a byte with an uncorrectable error ends the exchange (R330). -/
def sendRow (s : State) (j : Job) (tile : Nat) (x : Exchange) (p : Nat) : State :=
  match badRow s x p with
  | some a => s.raiseXchg tile x .eccloc (BitVec.ofNat 64 a)
  | none =>
    let bs := readRow s x p
    let vt := xcT0 x.block + p
    if vt = x.vtile then
      (writeRow s x p bs x.rel).setXchg tile (some { x with sent := x.sent ++ [p], rowsIn := x.rowsIn ++ [p], acked := x.acked ++ [p] })
    else
      (s.setXchg tile (some { x with sent := x.sent ++ [p] })).post .trigger (.ni tile) (.ni (j.tile vt)) x.job (dataFlits bs.length) 0 []
        (.row x.job (xcTag x.block) x.vtile vt bs x.rel)

/-- The banks of the lines of a row of an operand. -/
def rowBanks (o : Operand) (r n : Nat) : List Nat := lineBanks [o.addr 0 r 0] n

/-- The next row that the unit may send: it holds its rank's ARRIVE, or it is its own. -/
def Exchange.nextRow (x : Exchange) : Option Nat := x.arrived.find? (fun p => !x.sent.contains p)

/-- The banks that sending a row takes: its own row is written too. -/
def Exchange.sendBanks (x : Exchange) (p : Nat) : List Nat :=
  rowBanks (xcSrc x.block) p (xcL x.block)
    ++ (if xcT0 x.block + p = x.vtile then rowBanks (xcDst x.block) p (xcL x.block) else [])

/-- An exchange whose rows are all in and all acknowledged completes (R215). -/
def State.testXchg (s : State) (tile : Nat) : State :=
  match (s.tile tile).xactive with
  | some x =>
    let p := xcP x.block
    if x.rowsIn.length = p ∧ x.acked.length = p then s.finishXchg tile x 0 else s
  | none => s

/-- The ranks whose ARRIVEs for an exchange wait at its unit. -/
def Exchange.waiting (x : Exchange) (l : List (Nat × Nat × Nat × Nat × Nat)) : List Nat :=
  (l.filterMap (fun e => if x.names e.1 e.2.1 e.2.2.1 e.2.2.2.1 then x.rank e.2.2.2.2 else none)).dedup

/-- An ARRIVE that the exchange has taken; a second one of the rank waits on for a later exchange. -/
def takeArrives (x : Exchange) (l : List (Nat × Nat × Nat × Nat × Nat)) : List (Nat × Nat × Nat × Nat × Nat) :=
  (x.waiting l).foldl (fun m r => match m.find? (fun e => x.names e.1 e.2.1 e.2.2.1 e.2.2.2.1 && x.rank e.2.2.2.2 == some r) with
    | some e => m.erase e
    | none => m) l

/-- The status of an operand that fails its checks (R161, R162, R181). -/
def operandStatus : Cause → Nat
  | .taddr => 2
  | .align => 3
  | _ => 4

/-- The checks of both operands. -/
def xcOperands (s : State) (j : Job) (x : Exchange) : Option Cause :=
  let fmts := s.formats x.job x.vtile
  let one (o : Operand) : Option Cause := o.check fmts j.tbanks 1 o.rows o.rbytes
  (one (xcSrc x.block)).or (one (xcDst x.block))

/-- Sends an ARRIVE to every other rank (R214). -/
def sendArrives (j : Job) (tile : Nat) (x : Exchange) (s : State) : State :=
  (List.range (xcP x.block)).foldl (fun s k =>
    let vt := xcT0 x.block + k
    if vt = x.vtile then s
    else s.post .trigger (.ni tile) (.ni (j.tile vt)) x.job 1 0 []
      (.arrive x.job (xcTag x.block) (xcP x.block) (xcL x.block) x.vtile vt)) s

/-- The unit is free: the next exchange becomes active, its operands are checked and ARRIVEs go out. -/
def activate (s : State) (tile : Nat) (x0 : Exchange) (rest : List Exchange) (j : Job) : State :=
  let x1 := { x0 with start := s.clk }
  let t := s.tile tile
  let x := { x1 with arrived := (x1.vtile - xcT0 x1.block) :: x1.waiting t.arrives }
  let s1 := { (s.updTile tile (fun t => { t with xqueue := rest })) with free := s.free + 1 }
  match xcOperands s j x with
  | some c => s1.finishXchg tile x (operandStatus c)
  | none => ((sendArrives j tile x s1).updTile tile (fun t => { t with arrives := takeArrives x1 t.arrives })).setXchg tile (some x)

/-- The next exchange becomes active: its operands are checked and ARRIVEs go out (R214); or the active one sends its next row, its own
first, once the banks grant the unit its lines (R156). That of a device that is halted begins neither (R353). -/
def execXchgActivate (tile : Nat) (s : State) : Host.Outcome State Fault Refusal :=
  let t := s.tile tile
  if !s.live then .next s
  else match t.xactive, t.xqueue with
  | none, x :: rest =>
    match s.job? x.job with
    | none => .next s
    | some j => if s.anyWaiting x.waits then .next s else .next (activate s tile x rest j)
  | some x, _ =>
    (match x.nextRow, s.job? x.job with
    | some p, some j =>
      match s.takeBanks tile portExchange (x.sendBanks p) with
      | some s1 => .next ((sendRow { s1 with free := s.free + 1 } j tile x p).testXchg tile)
      | none => .next s
    | _, _ => .next s)
  | none, [] => .next s

/-- The unit receives an ARRIVE: the active exchange may send its row; else it waits there, up to 256 of them, or is refused
(R214). -/
def execArriveReceive (pkt : Nat) (s : State) : Host.Outcome State Fault Refusal :=
  match s.arrived? pkt with
  | some p =>
    match p.dst, p.body with
    | .ni tile, .arrive job gtag n l src dst =>
      let s1 := { (s.dropPacket pkt) with free := s.free + 1 }
      let held : State :=
        if (s.tile tile).arrives.length < 256 then
          s1.updTile tile (fun t => { t with arrives := t.arrives ++ [(job, gtag, n, l, src)] })
        else s1.reply p.dst p.src job (.arriveRefused job gtag n l src dst)
      match (s.tile tile).xactive with
      | some x =>
        match (if x.names job gtag n l then x.rank src else none) with
        | some r => if x.arrived.contains r then .next held else .next (s1.setXchg tile (some { x with arrived := x.arrived ++ [r] }))
        | none => .next held
      | none => .next held
    | _, _ => .next s
  | none => .next s

/-- A refused ARRIVE is sent again 64 clk after its refusal reached the unit (R214, R381). -/
def execArriveResend (pkt : Nat) (s : State) : Host.Outcome State Fault Refusal :=
  match s.arrived? pkt with
  | some p =>
    match p.body with
    | .arriveRefused job gtag n l src dst =>
      if s.clk < p.ready + 64 then .next s
      else .next ((s.dropPacket pkt).post .trigger p.dst p.src job 1 0 [] (.arrive job gtag n l src dst))
    | _ => .next s
  | none => .next s

/-- A row reaches its exchange, is written once the banks grant the unit its lines (R156), and acknowledged; one for an exchange that has timed out is acknowledged and
discarded (R215). -/
def execXchgRowReceive (pkt : Nat) (s : State) : Host.Outcome State Fault Refusal :=
  match s.arrived? pkt with
  | some p =>
    match p.dst, p.body with
    | .ni tile, .row job gtag src dst bs rel =>
      let s1 := (s.dropPacket pkt).post .trigger p.dst p.src job 1 0 [] (.rowAck job gtag src dst)
      match (s.tile tile).xactive with
      | some x =>
        match (if x.job = job ∧ xcTag x.block = gtag ∧ xcL x.block = bs.length then x.rank src else none) with
        | some q =>
          if x.rowsIn.contains q then .next s1
          else
            match s1.takeBanks tile portExchange (rowBanks (xcDst x.block) q bs.length) with
            | some s2 => .next (((writeRow s2 x q bs rel).setXchg tile (some { x with rowsIn := x.rowsIn ++ [q] })).testXchg tile)
            | none => .next s
        | none => .next s1
      | none => .next s1
    | _, _ => .next s
  | none => .next s

/-- The acknowledgement of a row arrives (R215). -/
def execXchgRowAck (pkt : Nat) (s : State) : Host.Outcome State Fault Refusal :=
  match s.arrived? pkt with
  | some p =>
    match p.dst, p.body with
    | .ni tile, .rowAck job gtag _ dst =>
      let s1 := s.dropPacket pkt
      match (s.tile tile).xactive with
      | some x =>
        match (if x.job = job ∧ xcTag x.block = gtag then x.rank dst else none) with
        | some r =>
          if x.acked.contains r ∨ !x.sent.contains r then .next s1
          else .next ((s1.setXchg tile (some { x with acked := x.acked ++ [r] })).testXchg tile)
        | none => .next s1
      | none => .next s1
    | _, _ => .next s
  | none => .next s

/-- The active exchange of a tile has had its TIMEOUT. -/
def xchgDue (s : State) (t : Tile) : Bool :=
  match t.xactive with
  | some x => decide (x.start + xcTimeout x.block ≤ s.clk)
  | none => false

/-- TIMEOUT clk have passed since the activation: XTIMEOUT with all of v (R215). -/
def execXchgTimeout (tile : Nat) (s : State) : Host.Outcome State Fault Refusal :=
  match (s.tile tile).xactive with
  | some x =>
    if x.start + xcTimeout x.block ≤ s.clk then .next (s.raiseXchg tile x .xtimeout (x.block.getD 0 0)) else .next s
  | none => .next s

end Sys2Proof.Machine
end

