-- ==== Sys2Proof/Machine/Home.lean ====
section
/-! DEFINITION. The home of a job: its clk (R260), the pending-draw queue (R263), quiescence (R268, R269), arms and disarms (R273),
the census (R267), and the other requests it serves. -/

namespace Sys2Proof.Machine

/-- A message its sender kept is settled (R185): its access is performed, a DONE counter rises, and the sender of a draw
hears of the outcome of its forward (R263). -/
def State.settleOut (s : State) (o : OutMsg) : State :=
  let s1 := ((s.performAcc o.acc).dropOut o.id).doneRise o.post o.msg.job o.done
  if o.origin = 0 then s1
  else
    match s.out? o.origin with
    | some q => s1.reply o.src q.src o.msg.job (.drawReport o.origin)
    | none => s1

/-! ## Lost headers (R266) -/

/-- Sets UNCERTAIN at a home, which then sends WEIGHT with the subcause UNCERTAIN (R266, R332). -/
def State.uncertainAt (s : State) (job : Nat) : State :=
  match s.job? job with
  | some j =>
    if j.uncertain then s
    else (s.setJob job { j with uncertain := true }).raiseJob job 0 0 ⟨.weight, 3, 1, 0⟩ [] (.unit j.die)
  | none => s

/-- The jobs resident at a node: on its tile, or anywhere for a node that is no tile. -/
def jobsAt (s : State) (e : Endpoint) : List Nat :=
  match e with
  | .ni t => (s.jobs.filter (fun x => x.2.place.contains t)).map (·.1)
  | _ => s.jobs.map (·.1)

/-- The record that the home offers from a job's overflow ring is lost on its way: it leaves the ring (R151, R266). -/
def State.recordLost (s : State) (job out : Nat) : State :=
  s.updJob job (fun j => if j.ringOffer = some out then { j with ring := j.ring.drop 1, ringOffer := none } else j)

/-- A packet with an uncorrectable header is discarded where it is found (R266): 1 says that its job is readable from the
route word. A message that its sender keeps is settled there, its weight lost. -/
def State.headerLost (s : State) (p : Packet) (at_ : Endpoint) : State :=
  let s1 := s.dropPacket p.id
  let s2 := match p.body with
    | .message out => match s1.out? out with
      | some o => (s1.settleOut o).recordLost o.msg.job out
      | none => s1
    | _ => s1
  if p.hdrEcc = 1 then s2.uncertainAt p.job else (jobsAt s2 at_).foldl State.uncertainAt s2

/-! ## The pending-draw queue (R263) -/

/-- Moves held draws into free places of the queue: the restored spill records first, then the home's own (R263, R360). -/
def Job.refill (j : Job) : Job :=
  let n := drawLimit - j.drawq.length
  let a := j.spill.take n
  let b := j.ownDraws.take (n - a.length)
  { j with drawq := j.drawq ++ a ++ b, spill := j.spill.drop a.length, ownDraws := j.ownDraws.drop b.length }

/-- Serves the head of the queue: its units leave HOMEW with the message, and a far sender's weight returns over the fabric
(R263, R264). -/
def State.serveHead (s : State) (job : Nat) (j : Job) (d : Draw) (rest : List Draw) : State :=
  let m := { d.msg with hdr := hdrSetWeight d.msg.hdr d.units }
  let src := Endpoint.unit j.die
  let s1 := s.setJob job (Job.refill { j with homew := j.homew - d.units, drawq := rest })
  let s2 := s1.sendOut ⟨0, m, src, 0, .flying, 0, 0, 0, none, [], d.order, d.out, 0, 0, 0, 0, []⟩ (.ni (messageTile s j m src))
  match d.credit with
  | some (dev, out, v) => s2.fabSend src job ⟨dev, s.devid, 0, 2, false, j.jtag, .credit out v⟩
  | none => s2

/-- Serves the head of the queue once, where HOMEW is at least its units and no census runs (R260 step 4). -/
def State.serveDraw (s : State) (job : Nat) : State :=
  match s.job? job with
  | some j =>
    match j.drawq with
    | d :: rest => if j.census.isNone && j.phase != .loading && decide (d.units ≤ j.homew) then s.serveHead job j d rest else s
    | [] => s
  | none => s

/-! ## Quiescence (R268, R269) -/

/-- A home is quiescent: all of W is home, nothing waits in its queues, and nothing is uncertain. -/
def Job.quiescent (j : Job) : Bool :=
  j.phase == .running && j.homew == j.w && j.drawq.isEmpty && j.ownDraws.isEmpty && j.spill.isEmpty && !j.uncertain
    && j.census.isNone && j.retryDue.isEmpty

/-- The quiescence trap (R269). -/
def Job.trapMsg (j : Job) (job : Nat) (know : Know) : Msg :=
  hwMsg job (mkHdr j.qvcore 0 j.qclass 3 4 3 j.w)
    [BitVec.ofNat 64 (j.loss.toNat + 2 * (decide (0 < j.killw)).toNat), BitVec.ofNat 64 j.lostw, BitVec.ofNat 64 j.killw,
     BitVec.ofNat 64 j.woff] know

/-- The home's test: a marked context is saved, an armed trap fires, else the launch completes (R268, R356). -/
def State.testQuiescence (s : State) (job : Nat) : State :=
  match s.job? job with
  | none => s
  | some j =>
    if !j.quiescent then s
    else
      let rest (s : State) (j : Job) : State :=
        if j.armed then
          let m := j.trapMsg job (s.jobKnown job)
          (s.setJob job { j with homew := 0, armed := false }).sendMsg m (.unit j.die) (.ni (msgTile j m)) 0
        else s.completeLaunch job j
      match j.saveReq with
      | none => rest s j
      | some (req, area) =>
        let unmarked := { j with saveReq := none }
        match s.req? req with
        | none => rest (s.setJob job unmarked) unmarked
        | some r =>
          match s.saveContext job j r area with
          | .ok t => t
          | .error code => rest ((s.setJob job unmarked).finishAt { r with code := code } [0]) unmarked

/-- Steps 4 and 5 of the home's clk, once in it (R260). -/
def State.homeTest (s : State) (job : Nat) : State :=
  ((s.updJob job (fun j => { j with homeAt := some s.clk })).serveDraw job).testQuiescence job

/-! ## Arrivals (R260) -/

/-- What has arrived at the home of a job: packets in order, none of which an earlier one of its lane still precedes. -/
def homeArrivals (s : State) (job : Nat) (j : Job) : List Packet :=
  let here (p : Packet) : Bool := p.pos == .dest && decide (p.ready ≤ s.clk)
  s.packets.filter (fun p => p.dst == .unit j.die && p.job == job && here p
    && !(s.packets.any (fun q => decide (q.id < p.id) && q.cls == p.cls && q.src == p.src && q.dst == p.dst && q.pos != .source && !here q)))

/-- A sum that saturates at 2³² − 1 (R259). -/
def sat32 (a b : Nat) : Nat := min (a + b) (2 ^ 32 - 1)

/-- Adds the weight of a pod to the home (R260 step 1). -/
def State.takePod (s : State) (p : Packet) : State :=
  match p.body with
  | .pod job weight lost killed =>
    if p.hdrEcc ≠ 0 then s.headerLost p p.dst
    else (s.dropPacket p.id).updJob job (fun j => { j with
      homew := j.homew + weight
      lostw := if lost then sat32 j.lostw weight else j.lostw
      loss := j.loss || lost
      killw := if killed then sat32 j.killw weight else j.killw })
  | _ => s

/-- Applies an arm or a disarm and acknowledges it (R260 step 2, R273). -/
def State.takeArm (s : State) (p : Packet) : State :=
  match p.body with
  | .arm job task vcore cls =>
    ((s.dropPacket p.id).updJob job (fun j => { j with armed := true, qvcore := vcore, qclass := cls })).reply p.dst p.src job
      (.holdAck task 0)
  | .disarm job task => ((s.dropPacket p.id).updJob job (fun j => { j with armed := false })).reply p.dst p.src job (.holdAck task 0)
  | _ => s

/-- The home takes a draw into its queue and acknowledges it, or refuses it (R260 step 3, R263, R265). While restored spill
records wait, every arriving draw is refused (R360). -/
def State.takeDraw (s : State) (p : Packet) : State :=
  match p.body with
  | .message out =>
    match s.out? out, s.job? p.job with
    | some o, some j =>
      if o.draw = 0 then s
      else if p.hdrEcc ≠ 0 then (s.headerLost p p.dst).reply p.dst p.src p.job (.holdAck o.order o.acc)
      else if o.msg.ecc ≠ 0 then
        ((s.dropPacket p.id).reply p.dst p.src p.job (.holdAck o.order o.acc)).reply p.dst p.src p.job (.drawReport out)
      else if drawLimit ≤ j.drawq.length ∨ !j.spill.isEmpty then (s.dropPacket p.id).reply p.dst p.src p.job (.drawRefused out)
      else
        ((s.dropPacket p.id).setJob p.job { j with drawq := j.drawq ++ [(⟨o.msg, o.draw, 0, out, none⟩ : Draw)] }).reply p.dst
          p.src p.job (.holdAck o.order o.acc)
    | _, _ => s
  | .farSend m dev out v =>
    match s.job? p.job with
    | some j =>
      if p.hdrEcc ≠ 0 then s.headerLost p p.dst
      else if m.ecc ≠ 0 then (s.dropPacket p.id).fabAnswer p.dst p.job dev j.jtag (.nak true true out 0 v 0 dev)
      else if drawLimit ≤ j.drawq.length ∨ !j.spill.isEmpty then
        (s.dropPacket p.id).fabAnswer p.dst p.job dev j.jtag (.retrySend out (Config.pick s.free 61 % 7) false)
      else
        let order := if m.ord then 2 ^ 40 + dev * 2 ^ 14 + m.srcV else 0
        (s.dropPacket p.id).setJob p.job { j with drawq := j.drawq ++ [(⟨m, min v j.w, order, 0, some (dev, out, v)⟩ : Draw)] }
    | none => s
  | _ => s

/-- One clk of the home: pods, then arms and disarms, then draws, then the service of the queue and the test, once in the clk (R260). -/
def State.homeClk (s : State) (job : Nat) : State :=
  match s.job? job with
  | none => s
  | some j =>
    if j.homeAt = some s.clk then s
    else
      let l := homeArrivals s job j
      let s1 := l.foldl State.takePod s
      let s2 := l.foldl State.takeArm s1
      let s3 := l.foldl State.takeDraw s2
      { (s3.homeTest job) with free := s.free + 1 }

/-- A packet of a kind that has arrived at the home of its job. -/
def atHome (s : State) (pkt : Nat) (kind : Body → Bool) : Option Nat :=
  match s.arrived? pkt with
  | some p => match p.dst with
    | .unit _ => if kind p.body then some p.job else none
    | _ => none
  | none => none

/-- The home's clk, where a packet of a kind has arrived. -/
def homeEvent (pkt : Nat) (kind : Body → Bool) (s : State) : Host.Outcome State Fault Refusal :=
  match atHome s pkt kind with
  | some job => .next (s.homeClk job)
  | none => .next s

/-- Pods reach the home (R260). -/
def execPodArrival (pkt : Nat) (s : State) : Host.Outcome State Fault Refusal :=
  homeEvent pkt (fun b => match b with | .pod _ _ _ _ => true | _ => false) s
/-- An arm reaches the home (R273). -/
def execArmArrival (pkt : Nat) (s : State) : Host.Outcome State Fault Refusal :=
  homeEvent pkt (fun b => match b with | .arm _ _ _ _ => true | _ => false) s
/-- A disarm reaches the home (R273). -/
def execDisarmArrival (pkt : Nat) (s : State) : Host.Outcome State Fault Refusal :=
  homeEvent pkt (fun b => match b with | .disarm _ _ => true | _ => false) s
/-- A draw reaches the home (R263). -/
def execDrawArrival (pkt : Nat) (s : State) : Host.Outcome State Fault Refusal :=
  homeEvent pkt (fun b => match b with | .message _ => true | _ => false) s
/-- A far send whose context has left before it came goes where its tag now stands: to the launch unit for a saved context, to the home of
another that holds it, or back to its sender (R325, R359). -/
def State.redirect (s : State) (p : Packet) (tag dev out : Nat) : State :=
  let s1 := s.dropPacket p.id
  let go (dst : Endpoint) (job : Nat) (b : Body) : State := s1.post .request p.dst dst job p.flits 0 [] b
  match p.body, s.savedTag tag, s.jobs.find? (fun e => e.2.tvalid && e.2.jtag == tag) with
  | b, some _, _ => go (.west 0) p.job b
  | .farSend m d o v, none, some e => go (.unit e.2.die) e.1 (.farSend { m with job := e.1 } d o v)
  | _, none, _ => s1.fabAnswer p.dst p.job dev tag (.retrySend out (Config.pick s.free 61 % 7) true)

/-- A far send reaches the destination home (R264). -/
def execFarSendArrival (pkt : Nat) (s : State) : Host.Outcome State Fault Refusal :=
  match s.arrived? pkt with
  | some p =>
    match p.dst, p.body with
    | .unit _, .farSend _ dev out _ =>
      if p.job < 2 ^ 20 then .next (s.homeClk p.job) else .next { (s.redirect p (p.job - 2 ^ 20) dev out) with free := s.free + 1 }
    | _, _ => .next s
  | none => .next s

/-- A refused draw is sent again 64 clk after its refusal reached the NI (R263, R381). -/
def execDrawResend (out : Nat) (s : State) : Host.Outcome State Fault Refusal :=
  match s.out? out with
  | some o =>
    if o.draw ≠ 0 && o.state == .refused && decide (o.due ≤ s.clk) then
      .next ((s.updOut out (fun o => { o with state := .flying })).post .request o.src (s.home o.msg.job) o.msg.job
        (msgFlits (hdrLen o.msg.hdr)) 0 [] (.message out))
    else .next s
  | none => .next s

/-! ## The census (R267) -/

/-- The nodes that send a census marker, but for the home's context unit: NIs, edge slices, context units, I/O nodes. -/
def nodeOf (n : Nat) : Option Endpoint :=
  if n < 2048 then some (.ni n)
  else if n < 2304 then some (.slice ((n - 2048) / 32) ((n - 2048) % 32))
  else if n < 2312 then some (.unit (n - 2304))
  else if n < 2328 then some (.west (n - 2312))
  else if n < 2344 then some (.east (n - 2328))
  else none

/-- The markers a census waits for. -/
def markerCount : Nat := 2343

/-- A request that rests in a static holder: a queued future waiter, the census itself, or a request that waits at the
home. -/
def restsReq (s : State) (r : Req) : Bool :=
  s.futures.any (fun e => e.2.waiters.contains r.id)
    || (match r.kind with
        | .census => true
        | .wloss => true
        | _ => false)

/-- A reduction of the job is under way somewhere. -/
def roundsOpen (s : State) (job : Nat) : Bool :=
  s.routers.any (fun e => e.2.defs.any (fun d => d.job == job && (!d.inputs.isEmpty || !d.waiting.isEmpty)))
    || s.packets.any (fun p => p.job == job && (match p.body with
        | .contribution _ _ _ _ _ _ => true
        | .part _ _ _ _ => true
        | _ => false))
    || (match s.job? job with
        | some j => j.ndefs.any (fun d => !d.own.isEmpty || !d.tree.isEmpty)
        | none => false)

/-- A message that the home offers from the job's overflow ring: its record stays in the ring until it is accepted (R151). -/
def offered (s : State) (job out : Nat) : Bool :=
  match s.job? job with
  | some j => j.ringOffer == some out
  | none => false

/-- A packet that carries a request or an access of a job which its destination, or the unit it returns to, still has to serve. -/
def carriesWork (s : State) (b : Body) : Bool :=
  match b with
  | .request id => match s.req? id with
    | some r => !restsReq s r
    | none => false
  | .access _ => true
  | .performed _ => true
  | .turnedAway _ _ => true
  | .parkRefused _ => true
  | .trgAdd _ _ _ _ _ _ _ _ => true
  | .fab _ f => f.cls == 0
  | .fabIn _ => true
  | .copyOffer _ => true
  | .copyRefused _ => true
  | _ => false

/-- What a slice carries of a job beside packets: walks and parked requests of its station, and transfers of its BTE. -/
def sliceBusy (s : State) (job st : Nat) : Bool :=
  s.walks.any (fun w => w.2.job == job && w.2.st == st)
    || (s.services.getD (st / 32) []).any (fun r => r.parked.any (fun a => a.job == job && a.st == st))
    || (s.btes.getD st []).any (fun t => match s.req? t.req with
        | some r => r.job == job
        | none => false)

/-- A message of a job that its sender still answers for belongs to a node's count: its own, or the completion of a request that it
issued. -/
def outOf (s : State) (j : Job) (e : Endpoint) (o : OutMsg) : Bool :=
  o.src == e || (o.msg.sender == 0 && o.msg.srcDev == s.devid && j.hasVcore o.msg.srcV && e == .ni (j.tile (o.msg.srcV / 8)))

/-- The counts of a job at a node have not yet settled (R267 steps 2 and 3). -/
def nodeBusy (s : State) (job : Nat) (e : Endpoint) : Bool :=
  (match s.job? job with
    | some j => s.outs.any (fun o => o.msg.job == job && outOf s j e o && o.far.isNone && o.draw == 0 && o.state != .accepted
        && !offered s job o.id)
    | none => false)
    || s.packets.any (fun p => p.job == job && (p.dst == e || p.src == e && p.pos == .source) && carriesWork s p.body)
    || (match e with
        | .ni t =>
          let x := s.tile t
          s.ctxs.any (fun c => c.2.job == job && tileOf (coreOf c.1) == t)
            || s.tasks.any (fun r => r.2.job == job && tileOf r.2.core == t && decide (0 < r.2.holds))
            || s.reqs.any (fun r => r.job == job && tileOf r.core == t && !restsReq s r)
            || x.arrayQ.any (fun a => a.job == job) || (match x.arrayRun with | some r => r.job.job == job | none => false)
            || x.drains.any (fun d => d.job == job) || x.xqueue.any (fun q => q.job == job)
            || (match x.xactive with | some q => q.job == job | none => false)
            || roundsOpen s job
        | .slice d n => sliceBusy s job (32 * d + n)
        | _ => false)

/-- The units of a job that its holders hold (R258), the home's included. -/
def State.unitsOf (s : State) (job : Nat) (j : Job) : Nat :=
  j.homew
    + sumBy (fun e => if e.2.job = job then e.2.wt else 0) s.ctxs
    + sumBy (fun e => if e.2.job = job ∧ e.2.heldUnit then 1 else 0) s.tasks
    + sumBy (fun o => if o.msg.job = job ∧ o.state ≠ .accepted ∧ j.ringOffer ≠ some o.id then hdrWeight o.msg.hdr else 0) s.outs
    + sumBy (fun e => sumBy (fun m => if m.msg.job = job then hdrWeight m.msg.hdr else 0) e.2.mailbox) s.cores
    + sumBy (fun m => hdrWeight m.2.hdr) j.ring
    + sumBy (fun r => if r.job = job then r.v else 0) s.reqs
    + sumBy (fun p => match p.body with
        | .pod q w _ _ => if q = job then w else 0
        | .contribution q _ _ x _ _ => if q = job then x.weight else 0
        | .part q _ _ x => if q = job then x.weight else 0
        | _ => 0) s.packets
    + sumBy (fun t => sumBy (fun p => if p.job = job then p.v else 0) t.2.posted
        + sumBy (fun a => if a.job = job then a.v else 0) t.2.arrayQ
        + (match t.2.arrayRun with | some r => if r.job.job = job then r.job.v else 0 | none => 0)
        + sumBy (fun d => if d.job = job then 1 else 0) t.2.drains
        + sumBy (fun x => if x.job = job then x.v else 0) t.2.xqueue
        + (match t.2.xactive with | some x => if x.job = job then x.v else 0 | none => 0)) s.tiles
    + sumBy (fun e => sumBy (fun d => if d.job = job then sumBy (fun i => i.2.weight) d.inputs + sumBy (fun i => i.2.weight) d.waiting
        else 0) e.2.defs) s.routers
    + sumBy (fun d => sumBy (fun p => p.weight) d.own + sumBy (fun p => p.weight) d.tree) j.ndefs
    + (match j.census with | some c => sumBy (fun p => p.1) c.heldPods | none => 0)

/-- The home accepts a census (R267 step 1); while one runs, another gets BADCMD at once (R274). -/
def execCensusStart (pkt : Nat) (s : State) : Host.Outcome State Fault Refusal :=
  match s.arrived? pkt with
  | some p =>
    match p.body with
    | .request id =>
      match s.req? id, s.job? p.job with
      | some r, some j =>
        if r.kind != .census then .next s
        else
          let s1 := s.dropPacket pkt
          if j.census.isSome then .next (s1.finishReq p.dst { r with code := 12 } false [0, 0])
          else .next (s1.setJob p.job { j with census := some ⟨id, [], 0, []⟩ })
      | _, _ => .next s
    | _ => .next s
  | none => .next s

/-- A node whose counts of the job have settled sends its marker home (R267 step 3). -/
def execCensusMarkerSend (job node : Nat) (s : State) : Host.Outcome State Fault Refusal :=
  match s.job? job, nodeOf node with
  | some j, some e =>
    match j.census with
    | some c =>
      if e = .unit j.die ∨ c.sent.contains e ∨ nodeBusy s job e then .next s
      else .next ((s.setJob job { j with census := some { c with sent := c.sent ++ [e] } }).post .weight e (.unit j.die) job 1 0 []
        (.marker job node))
    | none => .next s
  | _, _ => .next s

/-- A far sender's weight comes back as a pod at its home, and its send is settled (R264). -/
def State.creditHere (s : State) (out : Nat) : State :=
  match s.out? out with
  | some o => s.endOut o false false
  | none => s

/-- Far credits that waited at the port for the end of a census are taken in (R267). -/
def State.releaseCredits (s : State) (job : Nat) : State :=
  let mine (p : FabPkt) : Bool := match p.body with
    | .credit out _ => match s.out? out with
      | some o => o.msg.job == job
      | none => false
    | _ => false
  let l := s.fabWait.filter mine
  l.foldl (fun s p => match p.body with
    | .credit out _ => s.creditHere out
    | _ => s) { s with fabWait := s.fabWait.filter (fun p => !mine p) }

/-- The last steps of a census: the sum, the difference settled, and delivery resumed (R267 steps 4 to 6, R275); the home serves and tests again in its next clk. -/
def State.endCensus (s : State) (job : Nat) (j : Job) (c : Census) : State :=
  let sum := s.unitsOf job j
  let src := Endpoint.unit j.die
  let s1 :=
    if sum ≤ j.w then
      let d := j.w - sum
      s.setJob job { j with homew := j.homew + d, woff := sat32 j.woff d, loss := j.loss || decide (0 < d), uncertain := false
                            census := none }
    else
      { (s.setJob job { j with census := none }) with log := s.log ++ [LogEntry.census j.w sum] }
  let s2 := c.heldPods.foldl (fun s p => s.pod src job p.1 p.2.1 p.2.2) s1
  let s3 := match s2.req? c.req with
    | some r => s2.finishReq src r false [BitVec.ofNat 64 (j.w - sum), BitVec.ofNat 64 sum]
    | none => s2
  let s4 := if sum ≤ j.w then s3 else s3.fatal job 0 4 0 0 src
  s4.releaseCredits job

/-- A census ends once all the markers are home and the home's own context unit has settled. -/
def State.censusTry (s : State) (job : Nat) : State :=
  match s.job? job with
  | some j =>
    match j.census with
    | some c => if c.got < markerCount ∨ nodeBusy s job (.unit j.die) then s else s.endCensus job j c
    | none => s
  | none => s

/-- A pod of a job. -/
def isPodOf (job : Nat) : Body → Bool
  | .pod j _ _ _ => j == job
  | _ => false

/-- A marker stands behind a pod of its job, which may hold weight that joined it from the marker's own node (R240, R267). -/
def behindPod (s : State) (p : Packet) : Bool :=
  s.packets.any (fun q => isPodOf p.job q.body && q.pos == p.pos && q.dst == p.dst && decide (q.ready ≤ p.ready))

/-- The home receives a marker; with all of them, and its own context unit settled, it ends the census (R267). -/
def execCensusMarkerArrival (pkt : Nat) (s : State) : Host.Outcome State Fault Refusal :=
  match s.arrived? pkt with
  | some p =>
    match p.body, s.job? p.job with
    | .marker _ _, some j =>
      match j.census with
      | some c =>
        if behindPod s p then .next s else
        let s1 := (s.dropPacket pkt).setJob p.job { j with census := some { c with got := c.got + 1 } }
        .next { (s1.censusTry p.job) with free := s.free + 1 }
      | none => .next (s.dropPacket pkt)
    | _, _ => .next s
  | none => .next s

/-- The home answers a `wloss` once no census runs: LOSS, UNCERTAIN and CENSUS lie in bits [18:16] of m0 (R274). -/
def execWlossServe (pkt : Nat) (s : State) : Host.Outcome State Fault Refusal :=
  match s.arrived? pkt with
  | some p =>
    match p.body with
    | .request id =>
      match s.req? id, s.job? p.job with
      | some r, some j =>
        if r.kind != .wloss || j.census.isSome then .next s
        else
          .next ((s.dropPacket pkt).finishReq p.dst { r with count := j.loss.toNat + 2 * j.uncertain.toNat } false
            [BitVec.ofNat 64 j.lostw, BitVec.ofNat 64 j.killw, BitVec.ofNat 64 j.woff])
      | _, _ => .next s
    | _ => .next s
  | none => .next s

/-- A clk of a home, whether or not anything arrives in it: its steps (R260), and the end of a census that nothing holds back any more
(R267). -/
def State.homeTurn (s : State) (job : Nat) : State := (s.homeClk job).censusTry job

/-- The homes of the device have their clk. -/
def State.homesTurn (s : State) : State := (s.jobs.map (·.1)).foldl State.homeTurn s

/-- What the home's copies of QCLASS and HOMEW hold (R351). -/
def Job.copies (j : Job) : Nat × Nat := (j.qvcore + 2 ^ 14 * j.qclass + 2 ^ 22 * j.armed.toNat, j.homew)

/-- In every clk whose number is a multiple of 1,024 the home sends copies of QCLASS and HOMEW to its tiles (R351). -/
def execHomeCopyBroadcast (job : Nat) (s : State) : Host.Outcome State Fault Refusal :=
  match s.job? job with
  | some j =>
    if s.clk % 1024 = 0 ∧ j.copyClk ≠ s.clk then
      .next (s.setJob job { j with
        copyOld := j.copyNow
        copyNow := j.copies
        copyClk := s.clk })
    else .next s
  | none => .next s

/-- After the discard of a unit has ended, its root messages are reinjected, each as a draw of its own weight (R347). -/
def execUnitRetryReinject (job level unit : Nat) (s : State) : Host.Outcome State Fault Refusal :=
  match s.job? job with
  | some j =>
    if j.retryDue.contains (level, unit) && !j.discarding.contains (level, unit) then
      let roots := j.roots.filter (fun m => inUnit j level unit (hdrVcore m.hdr))
      let s1 := s.setJob job { j with retryDue := j.retryDue.erase (level, unit) }
      let s2 := roots.foldl (fun s m => s.ownDraw job m (hdrWeight m.hdr)) s1
      .next { s2 with free := s.free + 1 }
    else .next s
  | none => .next s

end Sys2Proof.Machine
end

