-- ==== Sys2Proof/Machine/Mailbox.lean ====
section
/-! DEFINITION. Delivery of messages (R142, R143), refusal, retry and spill (R149 to R151, R307), and the acknowledgements that
reach an NI (R177, R185, R248). -/

namespace Sys2Proof.Machine

/-! ## Delivery -/

/-- The accepted message is its target's: its sender keeps it only until it hears of it, and a record offered from the ring
leaves the ring (R151). -/
def State.takenIn (s : State) (o : OutMsg) : State :=
  (s.updOut o.id (fun o => { o with state := .accepted })).updJob o.msg.job (fun j =>
    if j.ringOffer = some o.id then
      let ring := j.ring.drop 1
      { j with ring := ring, ringNotice := j.ringNotice && decide (j.ovfn ≤ 2 * ring.length) }
    else j)

/-- Writes a message into a slot of a core: VCORE names the core, and it is ready from the next clk (R142, R143). -/
def State.deposit (s : State) (core v : Nat) (m : Msg) : State :=
  ({ s with serial := s.serial + 1 }).updCore core (fun c => { c with
    mailbox := c.mailbox ++ [(⟨{ m with hdr := hdrSetVcore m.hdr v }, s.clk + 1, s.serial, v⟩ : Slot)] })

/-- The NI of a tile takes a message in or refuses it (R143, R149). Arguments with an uncorrectable error discard it, its weight
LOST (R265); a unit that is being discarded drops it, its weight KILLED (R342, R346). -/
def deliver (s : State) (p : Packet) (o : OutMsg) (j : Job) (tile : Nat) : State :=
  let m := o.msg
  let src := Endpoint.ni tile
  let v := chooseCore s m.job j m tile
  let s1 := s.dropPacket p.id
  let answer (s : State) : State := s.reply src o.src m.job (.accepted o.id v)
  if m.ecc ≠ 0 then answer ((s1.takenIn o).pod src m.job (hdrWeight m.hdr) true false)
  else if j.discarding.any (fun d => inDiscard j d v) then answer ((s1.takenIn o).pod src m.job (hdrWeight m.hdr) false true)
  else if slotFree s m.job j (j.core v) (hdrKind m.hdr == 3) then answer ((s1.takenIn o).deposit (j.core v) v m)
  else (s1.updOut o.id (fun o => { o with last := v })).reply src o.src m.job (.refused o.id)

/-- A target NI accepts a message into a slot or refuses it (R142, R149). -/
def execMessageArrival (pkt : Nat) (s : State) : Host.Outcome State Fault Refusal :=
  match s.arrived? pkt with
  | some p =>
    match p.dst, p.body with
    | .ni tile, .message out =>
      match s.out? out, s.job? p.job with
      | some o, some j =>
        if p.hdrEcc ≠ 0 then .next { (s.headerLost p p.dst) with free := s.free + 1 }
        else .next { (deliver s p o j tile) with free := s.free + 1 }
      | _, _ => .next (s.dropPacket pkt)
    | _, _ => .next s
  | none => .next s

/-! ## The overflow ring (R150, R307) -/

/-- OVFBASE (R278). -/
def Job.ovfbase (j : Job) : Nat := j.word 6

/-- Word 16 of a record (R150). -/
def spillWord (m : Msg) : Word := BitVec.ofNat 64 (m.srcV + 2 ^ 14 * m.srcDev + 2 ^ 26 * m.ord.toNat)

/-- The 18 words of a record (R150). -/
def recordWords (m : Msg) : List Word := m.hdr :: (padWords m.args 15 ++ [spillWord m, 0])

/-- The page of a record's place that is missing or not pinned. -/
def missingPage (s : State) (j : Job) (a : Nat) : Nat := (if s.pinned j.ptroot a 1 1 then a + 143 else a) / 65536 * 65536

/-- The ring's page of the next record is missing or not pinned: OVFRING with the address of the page is logged, and the job is parked
(R307, R330, R344). -/
def State.parkJob (s : State) (job : Nat) (j : Job) : State :=
  if j.parked then s
  else { (s.setJob job { j with parked := true }) with
    log := s.log ++ [LogEntry.ovfring job (BitVec.ofNat 64 (missingPage s j (j.ovfbase + 144 * (j.ringTail % j.ovfn))))] }

/-- The high-water notice of a full ring, where the job forwards OVFRING (R307): one until the ring has fallen below half
full. -/
def State.noticeRing (s : State) (job : Nat) (j : Job) : State :=
  let e := j.actEntry s Cause.ovfring.code
  if actAct e = 3 ∧ !j.ringNotice then
    (s.setJob job { j with ringNotice := true }).ownDraw job
      (hwMsg job (mkHdr (actTarget e 0) 0 (actClass e) (actPrio e) 2 3 0) [1, BitVec.ofNat 64 j.ovfn] []) 1
  else s

/-- Writes a record at the tail of the ring, its weight and all (R150); `num` is the number its sender had it under. -/
def State.ringWrite (s : State) (job : Nat) (j : Job) (num : Nat) (m : Msg) : State :=
  (s.writeVirt j.ptroot (j.ovfbase + 144 * (j.ringTail % j.ovfn)) .near (recordWords m)).updJob job (fun j => { j with
    ring := j.ring ++ [(num, m)], ringTail := j.ringTail + 1 })

/-- Spills a message where the ring has room: it is then settled at its sender (R150, R185). A full ring holds it (R307). -/
def State.spill (s : State) (o : OutMsg) : State :=
  match s.job? o.msg.job with
  | none => s
  | some j =>
    if j.ovfn ≤ j.ring.length then s.noticeRing o.msg.job j
    else if !s.pinned j.ptroot (j.ovfbase + 144 * (j.ringTail % j.ovfn)) 144 3 then s.parkJob o.msg.job j
    else ((s.ringWrite o.msg.job j o.id { o.msg with hdr := hdrSetVcore o.msg.hdr o.last }).settleOut o).censusTry o.msg.job

/-- A task has an earlier message in its job's ring, so that its later ones follow it there (R151). -/
def behindRing (s : State) (o : OutMsg) : Bool :=
  match s.job? o.msg.job with
  | some j => o.msg.sender != 0 && o.draw == 0 && o.far.isNone && hdrKind o.msg.hdr != 3 && !offered s o.msg.job o.id
      && j.ring.any (fun e => e.2.sender == o.msg.sender && decide (e.1 < o.id))
  | none => false

/-! ## Refusals and resends (R149, R381) -/

/-- A refusal of a message reaches its sender: it is sent again 16 clk later; the 64th spills it, unless it is a control
message or comes from the ring. -/
def State.refusedHere (s : State) (o : OutMsg) : State :=
  let o1 := { o with state := OutState.refused, tries := o.tries + 1, due := s.clk + 16 }
  let s1 := s.updOut o.id (fun _ => o1)
  if hdrKind o.msg.hdr ≠ 3 ∧ !offered s o.msg.job o.id ∧ 64 ≤ o1.tries then s1.spill o1 else s1

/-- A refusal reaches the unit that sends again (R149, R229, R263, R287). -/
def execMessageRefusal (pkt : Nat) (s : State) : Host.Outcome State Fault Refusal :=
  match s.arrived? pkt with
  | some p =>
    let s1 := s.dropPacket pkt
    match p.body with
    | .refused out => match s.out? out with
      | some o => .next { (s1.refusedHere o) with free := s.free + 1 }
      | none => .next s1
    | .drawRefused out => .next (s1.updOut out (fun o => { o with state := .refused, due := s.clk + 64 }))
    | .requestRefused req => .next (s1.updReq req (fun r => { r with due := s.clk + 64 }))
    | _ => .next s
  | none => .next s

/-- The class a message travels in (R234). -/
def msgClass (m : Msg) : Class := if hdrKind m.hdr = 3 then .management else .request

/-- Sends a kept message again, toward a tile chosen anew (R143). -/
def State.resend (s : State) (o : OutMsg) (j : Job) : State :=
  (s.updOut o.id (fun o => { o with state := .flying })).post (msgClass o.msg) o.src (.ni (messageTile s j o.msg o.src)) o.msg.job
    (msgFlits (hdrLen o.msg.hdr)) 0 [] (.message o.id)

/-- A refused message is sent again 16 clk after its refusal, or spilled once it has been refused 64 times (R149, R150). -/
def execMessageResend (out : Nat) (s : State) : Host.Outcome State Fault Refusal :=
  match s.out? out with
  | some o =>
    match s.job? o.msg.job with
    | some j =>
      if o.state == .refused && o.draw == 0 && o.far.isNone && decide (o.due ≤ s.clk) && !offered s o.msg.job out then
        if hdrKind o.msg.hdr ≠ 3 ∧ 64 ≤ o.tries then .next { (s.spill o) with free := s.free + 1 }
        else .next { (s.resend o j) with free := s.free + 1 }
      else .next s
    | none => .next s
  | none => .next s

/-- The oldest record of a ring, read back with an uncorrectable error, leaves it: an error in the header makes the home uncertain, one in
the argument words returns its weight as LOST (R265, R266). -/
def State.badRing (s : State) (job : Nat) (j : Job) (m : Msg) : State :=
  let s1 := s.setJob job { j with ring := j.ring.drop 1 }
  if m.ecc = 2 then s1.uncertainAt job else s1.pod (.unit j.die) job (hdrWeight m.hdr) true false

/-- The home offers the oldest record of the ring to its target, again 16 clk after each refusal (R151). -/
def execSpillReinjectOffer (job : Nat) (s : State) : Host.Outcome State Fault Refusal :=
  match s.job? job with
  | some j =>
    match j.ringOffer, j.ring with
    | none, (_, m) :: _ =>
      if m.ecc ≠ 0 then .next { (s.badRing job j m) with free := s.free + 1 }
      else
        let src := Endpoint.unit j.die
        .next { ((s.setJob job { j with ringOffer := some s.serial }).sendMsg m src (.ni (messageTile s j m src)) 0) with
          free := s.free + 1 }
    | some out, _ =>
      match s.out? out with
      | some o => if o.state = .refused ∧ o.due ≤ s.clk then .next { (s.resend o j) with free := s.free + 1 } else .next s
      | none => .next s
    | none, [] => .next s
  | none => .next s

/-- The outcome of a message reaches its sender: the next one of its lane may leave (R185, R263). -/
def execSendAcceptReport (pkt : Nat) (s : State) : Host.Outcome State Fault Refusal :=
  match s.arrived? pkt with
  | some p =>
    let s1 := s.dropPacket pkt
    match p.body with
    | .accepted out _ => match s.out? out with
      | some o =>
        let s2 := s1.settleOut o
        let s3 := if offered s o.msg.job out then s2.updJob o.msg.job (fun j => { j with ringOffer := none }) else s2
        .next { (s3.censusTry o.msg.job) with free := s.free + 1 }
      | none => .next s1
    | .drawReport out => match s.out? out with
      | some o => .next (s1.settleOut o)
      | none => .next s1
    | _ => .next s
  | none => .next s

/-! ## Acknowledgements -/

/-- One member of a hold is acknowledged; the hold that empties sends its unit home, whether or not its task still runs
(R177, R261). -/
def State.closeHold (s : State) (task : Nat) : State :=
  match s.tasks.get? task with
  | none => s
  | some r =>
    if 1 < r.holds then { s with tasks := s.tasks.set task { r with holds := r.holds - 1 } }
    else
      let s1 := if s.ctxs.any (fun e => e.2.task == task && !e.2.dying) then
          { s with tasks := s.tasks.set task { r with holds := 0, heldUnit := false } }
        else { s with tasks := s.tasks.del task }
      if r.heldUnit then s1.pod (.ni (tileOf r.core)) r.job 1 false false else s1

/-- An acknowledgement of a `gst`, a draw, an arm or a disarm reaches the NI (R177, R261). -/
def execHoldAck (pkt : Nat) (s : State) : Host.Outcome State Fault Refusal :=
  match s.arrived? pkt with
  | some p =>
    match p.body with
    | .holdAck task acc => .next (((s.dropPacket pkt).performAcc acc).closeHold task)
    | .addDone id => match s.req? id with
      | some r => .next ((s.dropPacket pkt).finishReq p.dst r false [])
      | none => .next (s.dropPacket pkt)
    | _ => .next s
  | none => .next s

/-- A performed access is acknowledged: it leaves the counts, and what waited for it may go on (R248). -/
def execAccessAck (acc : Nat) (s : State) : Host.Outcome State Fault Refusal :=
  if s.accs.any (fun a => a.id == acc && a.performed) then .next { s with accs := s.accs.filter (fun a => a.id != acc) }
  else .next s

end Sys2Proof.Machine
end

