-- ==== Sys2Proof/Machine/Reduction.lean ====
section
/-! DEFINITION. Reductions in the routers (R223 to R227, R238, R255). -/

namespace Sys2Proof.Machine

/-! ## A definition's block (R223) -/

/-- ID -/
def ndId (b : List Word) : Nat := fieldOf (wordAt b 0) 0 6
/-- OP -/
def ndOp (b : List Word) : Nat := fieldOf (wordAt b 0) 6 2
/-- NELEM -/
def ndElems (b : List Word) : Nat := fieldOf (wordAt b 0) 8 6
/-- T0 -/
def ndT0 (b : List Word) : Nat := fieldOf (wordAt b 0) 14 11
/-- NT -/
def ndNt (b : List Word) : Nat := fieldOf (wordAt b 0) 25 9
/-- CMASK -/
def ndMask (b : List Word) : Nat := fieldOf (wordAt b 0) 34 8
/-- ROOT -/
def ndRoot (b : List Word) : Nat := fieldOf (wordAt b 0) 42 14
/-- RTIME -/
def ndTime (b : List Word) : Nat := fieldOf (wordAt b 1) 0 32
/-- DEST -/
def ndDest (b : List Word) : Nat := fieldOf (wordAt b 2) 0 16

/-- The participating cores of a tile. -/
def ndCores (b : List Word) : List Nat := (List.range 8).filter (fun c => (ndMask b).testBit c)

/-- PC -/
def ndCount (b : List Word) : Nat := ndNt b * (ndCores b).length

/-- A virtual core is a participant. -/
def takesPart (b : List Word) (vcore : Nat) : Bool :=
  decide (ndT0 b ≤ vcore / 8 ∧ vcore / 8 < ndT0 b + ndNt b) && (ndMask b).testBit (vcore % 8)

/-- The checks of `nrdef` at issue: what is ILLOPND, then what is NREDCFG (R74, R223). -/
def nrdefCheck (j : Job) (b : List Word) : Except Stop Unit := do
  let n := ndElems b
  limits (fieldOf (wordAt b 0) 56 8 == 0 && decide (ndNt b ≤ 256))
  limits (decide (1 ≤ wordAt b 1 ∧ wordAt b 1 < 2 ^ 32) && decide (wordAt b 2 < 2 ^ 16) && ndDest b % 4 == 0)
  limits (n == 0 || decide (32 < n) || decide (ndDest b + 4 * n ≤ 0x10000))
  cmsgLimits j (b.getD 3 0) false
  cmsgLimits j (b.getD 5 0) false
  need (ndNt b != 0 && ndMask b != 0 && ndOp b != 3 && decide (1 ≤ n ∧ n ≤ 32) && decide (ndT0 b + ndNt b ≤ j.vtiles)
    && j.hasVcore (ndRoot b)) .nredcfg

/-- A definition of a job. -/
def Job.ndef (j : Job) (nid : Nat) : Option NDef := j.ndefs.find? (fun d => d.nid == nid)

/-- Changes a definition of a job. -/
def State.updNdef (s : State) (job nid : Nat) (f : NDef → NDef) : State :=
  s.updJob job (fun j => { j with ndefs := replaceIf (fun d => d.nid == nid) f j.ndefs })

/-! ## The tree (R224, R238) -/

/-- A router's key. -/
def routerKey (p y : Nat) : Nat := p * 16 + y

/-- A router. -/
def State.router (s : State) (p y : Nat) : Router := s.routers.getD (routerKey p y) Router.fresh

/-- Changes a router. -/
def State.updRouter (s : State) (p y : Nat) (f : Router → Router) : State :=
  { s with routers := s.routers.set (routerKey p y) (f (s.router p y)) }

/-- Where the routers of the participating tiles are. -/
def ndLeaves (j : Job) (b : List Word) : List (Nat × Nat) :=
  (List.range (ndNt b)).map (fun k => (Endpoint.ni (j.tile (ndT0 b + k))).attach)

/-- Where the root's router is. -/
def ndRootAt (j : Job) (b : List Word) : Nat × Nat := (Endpoint.ni (j.tile (ndRoot b / 8))).attach

/-- x lies between a and b. -/
def liesBetween (a x b : Nat) : Bool := decide (a ≤ x ∧ x ≤ b) || decide (b ≤ x ∧ x ≤ a)

/-- A router lies on the route from a leaf to the root: along the leaf's row, then along the root's column. -/
def onRoute (root leaf r : Nat × Nat) : Bool :=
  (r.2 == leaf.2 && liesBetween leaf.1 r.1 root.1) || (r.1 == root.1 && liesBetween leaf.2 r.2 root.2)

/-- A router lies on a tree. -/
def onTree (root : Nat × Nat) (leaves : List (Nat × Nat)) (r : Nat × Nat) : Bool := r == root || leaves.any (fun l => onRoute root l r)

/-- The next router toward the root. -/
def parentOf (root r : Nat × Nat) : Nat × Nat :=
  if r.1 < root.1 then (r.1 + 1, r.2)
  else if root.1 < r.1 then (r.1 - 1, r.2)
  else if r.2 < root.2 then (r.1, r.2 + 1)
  else (r.1, r.2 - 1)

/-- The neighbour an input comes from: 8 west, 9 east, 10 south, 11 north. -/
def neighbour (r : Nat × Nat) (i : Nat) : Option (Nat × Nat) :=
  match i with
  | 8 => if r.1 = 0 then none else some (r.1 - 1, r.2)
  | 9 => if 135 ≤ r.1 then none else some (r.1 + 1, r.2)
  | 10 => if 15 ≤ r.2 then none else some (r.1, r.2 + 1)
  | 11 => if r.2 = 0 then none else some (r.1, r.2 - 1)
  | _ => none

/-- The input of a parent at which a child stands. -/
def inputOf (parent child : Nat × Nat) : Nat :=
  if child.1 < parent.1 then 8 else if parent.1 < child.1 then 9 else if parent.2 < child.2 then 10 else 11

/-- The inputs a router of a tree expects (R226): its participating cores but the root, then its children. -/
def expects (j : Job) (b : List Word) (r : Nat × Nat) : List Nat :=
  let root := ndRootAt j b
  let leaves := ndLeaves j b
  let local_ := ((List.range (ndNt b)).filter (fun k => (Endpoint.ni (j.tile (ndT0 b + k))).attach == r)).flatMap (fun k =>
    (ndCores b).filter (fun c => 8 * (ndT0 b + k) + c != ndRoot b))
  let kids := [8, 9, 10, 11].filter (fun i => match neighbour r i with
    | some c => c != root && onTree root leaves c && parentOf root c == r
    | none => false)
  local_ ++ kids

/-- The routers of a tree. -/
def treeRouters (j : Job) (b : List Word) : List (Nat × Nat) :=
  let root := ndRootAt j b
  let leaves := ndLeaves j b
  ((List.range 136).flatMap (fun p => (List.range 16).map (fun y => (p, y)))).filter (onTree root leaves)

/-! ## nrdef and nrfree (R223, R224) -/

/-- Where a request about a definition goes: the root's NI, or for one that is not defined the issuer's own. -/
def ndHome (j : Job) (w : Issuer) (root : Option Nat) : Endpoint :=
  match root with
  | some v => .ni (j.tile (v / 8))
  | none => w.ni

/-- The shape of `nrdef` and `nrfree`. -/
def defineWith (n cmAt : Nat) (kind : List Word → ReqKind) (check : Job → List Word → Except Stop Unit)
    (root : Job → List Word → Option Nat) (a b : Name) (s : State) : Res := do
  srcs [b]
  let j ← theJob s
  let words ← block s a n
  check j words
  ready (niRoom s .device)
  blockOk s a n
  let v ← rd s 60 b
  let s1 ← takeWeight s v.toNat
  let w := s1.issuer
  let cm : Cmsg := ⟨words.getD cmAt 0, words.getD (cmAt + 1) 0⟩
  fall ((s1.request w (kind words) v.toNat cm .net .device (relOf cm) 0 []).postReq w (nextReq s1) (ndHome j w (root j words)))

/-- `nrdef` (R223) -/
def execNrdef (a b : Name) (m : Mark) (s : State) : Host.Outcome State Fault Refusal :=
  issue32 m s (defineWith 7 5 .nrdef nrdefCheck (fun _ w => some (ndRoot w)) a b s)

/-- The checks of `nrfree` at issue. -/
def nrfreeCheck (j : Job) (b : List Word) : Except Stop Unit := do
  limits (decide (wordAt b 0 < 64))
  cmsgLimits j (b.getD 1 0) false

/-- `nrfree` (R224) -/
def execNrfree (a b : Name) (m : Mark) (s : State) : Host.Outcome State Fault Refusal :=
  issue32 m s (defineWith 3 1 .nrfree nrfreeCheck (fun j w => (j.ndef (wordAt w 0)).map (fun d => ndRoot d.block)) a b s)

/-- A packet whose request is of a kind, at an NI. -/
def requestAt (s : State) (pkt : Nat) : Option (Packet × Req) :=
  match s.arrived? pkt with
  | some p => match p.dst, p.body with
    | .ni _, .request id => (s.req? id).map (fun r => (p, r))
    | _, _ => none
  | none => none

/-- The routers of the tree and the root's NI are programmed, or nothing is where the ID is in use or a router is full (R224). -/
def execNrdefProgram (pkt : Nat) (s : State) : Host.Outcome State Fault Refusal :=
  match requestAt s pkt with
  | some (p, r) =>
    match r.kind, s.job? r.job with
    | .nrdef b, some j =>
      let s1 := s.dropPacket pkt
      let tree := treeRouters j b
      if (j.ndef (ndId b)).isSome ∨ tree.any (fun q => decide (16 ≤ (s.router q.1 q.2).defs.length)) then
        .next (s1.finishReq p.dst { r with code := 12 } (cmAcq r.cm) [])
      else
        let put (s : State) (q : Nat × Nat) : State :=
          let d : RDef := ⟨r.job, ndId b, b, expects j b q, [], [], false, 0, []⟩
          s.updRouter q.1 q.2 (fun x => { x with defs := x.defs ++ [d] })
        let s2 := tree.foldl put s1
        .next ((s2.setJob r.job { j with ndefs := j.ndefs ++ [⟨ndId b, b, none, false, [], [], 0, [], 0, []⟩] }).finishReq p.dst r
          (cmAcq r.cm) [])
    | _, _ => .next s
  | none => .next s

/-- A definition's round is open somewhere (R224). -/
def roundOpen (s : State) (job : Nat) (d : NDef) : Bool :=
  d.timer.isSome || !d.own.isEmpty || !d.tree.isEmpty
    || s.routers.any (fun e => e.2.defs.any (fun x => x.job == job && x.nid == d.nid && (!x.inputs.isEmpty || !x.waiting.isEmpty)))
    || s.packets.any (fun p => p.job == job && (match p.body with
        | .part _ nid _ _ => nid == d.nid
        | _ => false))

/-- Removes a definition from the routers and the job. -/
def State.undefine (s : State) (job nid : Nat) : State :=
  { (s.updJob job (fun j => { j with ndefs := j.ndefs.filter (fun d => d.nid != nid) })) with
    routers := s.routers.map (fun e => (e.1, { e.2 with defs := e.2.defs.filter (fun d => !(d.job == job && d.nid == nid)) })) }

/-- The first `nrfree` that waited removes the definition; a second one finds it undefined (R224). -/
def State.freeNdef (s : State) (src : Endpoint) (job nid : Nat) : List Nat → Bool → State
  | [], _ => s
  | id :: t, done =>
    match s.req? id with
    | some r => ((if done then s else s.undefine job nid).finishReq src { r with code := if done then 12 else 0 } (cmAcq r.cm) []).freeNdef
        src job nid t true
    | none => s.freeNdef src job nid t done

/-- After any open round has ended, the definition is removed and the `nrfree` completes (R224). -/
def execNrfreeRemove (pkt : Nat) (s : State) : Host.Outcome State Fault Refusal :=
  match requestAt s pkt with
  | some (p, r) =>
    match r.kind, s.job? r.job with
    | .nrfree b, some j =>
      let s1 := s.dropPacket pkt
      match j.ndef (wordAt b 0) with
      | none => .next (s1.finishReq p.dst { r with code := 12 } (cmAcq r.cm) [])
      | some d =>
        if roundOpen s r.job d then .next (s1.updNdef r.job d.nid (fun d => { d with freeing := d.freeing ++ [r.id] }))
        else .next (s1.freeNdef p.dst r.job d.nid [r.id] false)
    | _, _ => .next s
  | none => .next s

/-! ## nred (R225) -/

/-- The checks of `nred` at issue: the definition its ID names. -/
def nredCheck (j : Job) (vcore : Nat) (b : List Word) : Except Stop NDef := do
  limits (decide (wordAt b 0 < 64) && decide (wordAt b 1 < 2 ^ 16))
  match j.ndef (wordAt b 0) with
  | none => raise .nredcfg 0
  | some d =>
    need (takesPart d.block vcore) .nredcfg
    if min 0x10000 j.localLimit < wordAt b 1 + 4 * ndElems d.block then raise .laddr (b.getD 1 0)
    if wordAt b 1 % 4 ≠ 0 then raise .align (b.getD 1 0)
    .ok d

/-- What binds the NI's read of a contribution: what its task knows, and every store of its core issued before (R107, R225). -/
def nredKnow (s : State) (w : Issuer) (flat n : Nat) : Know :=
  knowOn w.know w.fences .net
    ++ (s.writes.filter (fun x => x.space == .loc && x.path == .core && decide (flat ≤ x.addr ∧ x.addr < flat + n)
      && !(x.acc != 0 && s.unperformed.contains x.acc))).map (fun x => (x.id, 2 ^ Path.net.bit))

/-- The elements of four bytes each. -/
def wordElems (bs : List Byte) (n : Nat) : List Word := (List.range n).map (fun i => BitVec.ofNat 64 (leNat ((bs.drop (4 * i)).take 4)))

/-- A contribution is discarded: its weight goes home (R225, R227). -/
def State.dropPart (s : State) (src : Endpoint) (job : Nat) (p : Partial) : State := s.pod src job p.weight false false

/-- A contribution is taken: its access is performed (R248), and a posted operation is complete (R220). -/
def State.tookPart (s : State) (job acc post : Nat) (p : Partial) : State := (s.performAcc acc).doneRise post job p.know.allPaths

/-- The first notice or input of a round reaches the root, and starts the round's timer: of the round at hand, or of a later one (R227). -/
def NDef.start (d : NDef) (clk round : Nat) : NDef :=
  let stop := clk + ndTime d.block
  if round = d.round then { d with timer := some (d.timer.getD stop) }
  else if d.round < round && !d.noticed.any (fun e => e.1 == round) then { d with noticed := d.noticed ++ [(round, stop)] }
  else d

/-- The root's NI takes its own core's contribution (R226); one that a closed round went without belongs to no round (R255). -/
def State.ownPart (s : State) (src : Endpoint) (job nid : Nat) (p : Partial) : State :=
  match s.job? job with
  | none => s
  | some j =>
    match j.ndef nid with
    | none => s.dropPart src job p
    | some d =>
      if 0 < d.late then (s.updNdef job nid (fun d => { d with late := d.late - 1 })).dropPart src job p
      else s.updNdef job nid (fun d => { (d.start s.clk (d.round + d.own.length)) with own := d.own ++ [p] })

/-- The NI reads a contribution and sends it to its router, or holds it at the root (R225, R226). -/
def queueNred (w : Issuer) (j : Job) (b : List Word) (v : Nat) (s : State) : State :=
  let nid := wordAt b 0
  match j.ndef nid with
  | none => (s.pod w.ni w.job v false false).doneRise w.post w.job []
  | some d =>
    let n := ndElems d.block
    let flat := locAddr w.job w.vcore (wordAt b 1)
    match firstBad s.eccLocal flat (4 * n) with
    | some i => s.raiseJob w.job w.vcore v ⟨.eccloc, 2, 0, BitVec.ofNat 64 (wordAt b 1 + i)⟩
        (knowOn w.know w.fences .net).allPaths w.ni
    | none =>
      let bs := s.readBytes (readerOf s .net w.task (nredKnow s w flat (4 * n))) .loc flat (4 * n) 30
      let p : Partial := ⟨wordElems bs n, 1, v, 0, knowOn w.know w.fences .net⟩
      if ndRoot d.block = w.vcore then (s.ownPart w.ni w.job nid p).doneRise w.post w.job p.know.allPaths
      else
        let acc := s.serial
        (s.newAcc w.task .tile .net false).post .reduction w.ni w.ni w.job ((8 + 4 * n + 31) / 32) w.queue (w.waits s .net none)
          (.contribution w.job nid (w.core % 8) p acc w.post)

/-- `nred` (R225) -/
def execNred (a b : Name) (m : Mark) (s : State) : Host.Outcome State Fault Refusal :=
  issue32 m s (do
    srcs [b]
    let j ← theJob s
    let words ← block s a 2
    let _ ← nredCheck j s.me.vcore words
    ready (niRoom s .tile)
    blockOk s a 2
    let v ← rd s 60 b
    let s1 ← takeWeight s v.toNat
    fall (queueNred s1.issuer j words v.toNat s1))

/-! ## Routers (R226, R227) -/

/-- A definition at a router. -/
def Router.def? (r : Router) (job nid : Nat) : Option RDef := r.defs.find? (fun d => d.job == job && d.nid == nid)

/-- Changes a definition at a router. -/
def State.updRdef (s : State) (q : Nat × Nat) (job nid : Nat) (f : RDef → RDef) : State :=
  s.updRouter q.1 q.2 (fun r => { r with defs := replaceIf (fun d => d.job == job && d.nid == nid) f r.defs })

/-- The root's NI of a definition. -/
def rootNi (j : Job) (b : List Word) : Endpoint := .ni (j.tile (ndRoot b / 8))

/-- A router has been passed by a packet of n flits, the last of them n − 1 clk from now (R243). -/
def State.passedBy (s : State) (q : Nat × Nat) (n : Nat) : State := s.updRouter q.1 q.2 (fun r => { r with idle := s.clk + (n - 1) })

/-- A router has been passed by a flit (R243). -/
def State.passed (s : State) (q : Nat × Nat) : State := s.passedBy q 1

/-- A gated router gets a wake in a clk; the first one counts (R244). -/
def State.wakeAt (s : State) (q : Nat × Nat) (t : Nat) : State :=
  s.updRouter q.1 q.2 (fun r => if r.gated then { r with wake := some (match r.wake with
    | some w => min w t
    | none => t) } else r)

/-- A reduction packet between routers, or from the root's router to its NI: the clk of its link, of the switching and of its later
flits (R231). Its head wakes the router it comes to, if that is gated, and those given, the second ahead on its way (R244). -/
def State.reducePkt (s : State) (job : Nat) (dst : Endpoint) (pos : Pos) (link flits : Nat) (b : Body) (ahead : List (Nat × Nat)) : State :=
  let sw := if pos = .dest then 0 else switchTime
  let s1 := { s with
    packets := s.packets ++ [(⟨s.serial, .reduction, dst, dst, pos, s.clk + link + sw + (flits - 1), flits, 0, [], job, 0, b⟩ : Packet)]
    serial := s.serial + 1 }
  let here : List (Nat × Nat) := match pos with
    | .router p y => [(p, y)]
    | _ => []
  (here ++ ahead).foldl (fun st r => st.wakeAt r (s.clk + link)) s1

/-- The clk of an ordinary link between two routers (R231). -/
def linkTime (a b : Nat × Nat) : Nat := 1 + if bridged a.1 b.1 then 2 else 0

/-- The NI of a participating tile at a router. -/
def ndTileAt (j : Job) (b : List Word) (q : Nat × Nat) : Endpoint :=
  match (List.range (ndNt b)).find? (fun k => (Endpoint.ni (j.tile (ndT0 b + k))).attach == q) with
  | some k => .ni (j.tile (ndT0 b + k))
  | none => rootNi j b

/-- The start notice of a round leaves its router for the root, which the routers on its way switch (R227). -/
def State.sendNotice (s : State) (j : Job) (job : Nat) (q : Nat × Nat) (d : RDef) : State :=
  { s with
    packets := s.packets ++ [(⟨s.serial, .reduction, ndTileAt j d.block q, rootNi j d.block, .router q.1 q.2, s.clk, 1, 0, [], job, 0,
      .notice job d.nid d.round⟩ : Packet)]
    serial := s.serial + 1 }

/-- An input joins a router's round, or waits for a later one; the first one of a round sends the start notice (R225, R227). -/
def State.joinRound (s : State) (j : Job) (job : Nat) (q : Nat × Nat) (d : RDef) (i : Nat) (p : Partial) : State :=
  if d.inputs.any (fun e => e.1 == i) then s.updRdef q job d.nid (fun d => { d with waiting := d.waiting ++ [(i, p)] })
  else
    let s1 := s.updRdef q job d.nid (fun d => { d with inputs := d.inputs ++ [(i, p)] })
    if d.inputs.isEmpty ∧ i < 8 then s1.sendNotice j job q d else s1

/-- A packet that has reached a router, or its own NI's router. -/
def atRouter (p : Packet) : Option (Nat × Nat) :=
  match p.pos with
  | .router a b => some (a, b)
  | .dest => match p.dst with
    | .ni t => some (Endpoint.ni t).attach
    | _ => none
  | .source => none

/-- The router that a packet stands in, or is on its link to: a contribution counts there too (R243). -/
def inRouter (p : Packet) : Option (Nat × Nat) :=
  match p.pos, p.body with
  | .router a b, _ => some (a, b)
  | .dest, .contribution _ _ _ _ _ _ => atRouter p
  | _, _ => none

/-- Two packets of one way in the reduction class (R236). -/
def sameWay (a b : Packet) : Bool :=
  a.src == b.src && a.dst == b.dst && a.pos == b.pos && (match a.body, b.body with
    | .contribution _ _ _ _ _ _, .contribution _ _ _ _ _ _ => true
    | .part _ _ i _, .part _ _ k _ => i == k
    | .close _ _ _, .close _ _ _ => true
    | .notice _ _ _, .notice _ _ _ => true
    | _, _ => false)

/-- A reduction packet of a number that has come to its end, behind no earlier one of its way (R236). -/
def State.reduceAt (s : State) (pkt : Nat) : Option (Packet × (Nat × Nat)) :=
  match s.packet? pkt with
  | some p => if p.pos != .source && decide (p.ready ≤ s.clk) && p.cls == .reduction
        && !s.packets.any (fun o => decide (o.id < p.id) && sameWay o p) then
      (match atRouter p with
        | some q => if (inRouter p).isSome && (s.router q.1 q.2).gated then none else some (p, q)
        | none => none)
    else none
  | none => none

/-- A contribution or a child's partial reaches its router and joins a round, waits for a later one, or is discarded (R225,
R227). -/
def execContributionArrival (pkt : Nat) (s : State) : Host.Outcome State Fault Refusal :=
  match s.reduceAt pkt with
  | some (p, q) =>
    let s1 := (s.dropPacket pkt).passed q
    match p.body, s.job? p.job with
    | .contribution job nid core x acc post, some j =>
      let s2 := s1.tookPart job acc post x
      match (s.router q.1 q.2).def? job nid with
      | none => .next (s2.dropPart p.dst job x)
      | some d =>
        if d.late.contains core then
          .next ((s2.updRdef q job nid (fun d => { d with late := d.late.erase core })).dropPart p.dst job x)
        else if d.inputs.any (fun e => e.1 == core) then .next ((s1.doneRise post job x.know.allPaths).joinRound j job q d core
          x |>.performAcc acc)
        else .next (s2.joinRound j job q d core x)
    | .part job nid i x, some j =>
      match p.pos with
      | .router _ _ =>
        match (s.router q.1 q.2).def? job nid with
        | none => .next (s1.dropPart p.dst job x)
        | some d => .next (s1.joinRound j job q d i x)
      | _ => .next s
    | _, _ => .next s
  | none => .next s

/-- One element of a fold (R226). -/
def foldElem (op : Nat) (a b : Word) : Word × Nat :=
  let r := redElem (match op with | 0 => 6 | 1 => 8 | _ => 7) a.toNat b.toNat
  (BitVec.ofNat 64 r.1, r.2)

/-- Folds a later input into the sum so far; one with count 0 brings no elements. -/
def foldPart (op : Nat) (a b : Partial) : Partial :=
  let know := a.know ++ b.know
  if b.count = 0 then { a with weight := a.weight + b.weight, flags := a.flags ||| b.flags, know := know }
  else if a.count = 0 then { b with weight := a.weight + b.weight, flags := a.flags ||| b.flags, know := know }
  else
    let es := List.zipWith (foldElem op) a.elems b.elems
    ⟨es.map (·.1), a.count + b.count, a.weight + b.weight, es.foldl (fun f e => f ||| e.2) (a.flags ||| b.flags), know⟩

/-- The fold of inputs in the order of R226. -/
def foldParts (op : Nat) : List Partial → Partial
  | [] => ⟨[], 0, 0, 0, []⟩
  | p :: t => t.foldl (foldPart op) p

/-- A router forwards: all inputs are there, or it is closed and every child has delivered (R226, R227). -/
def RDef.forwards (d : RDef) : Bool :=
  let has (i : Nat) : Bool := d.inputs.any (fun e => e.1 == i)
  !d.expects.isEmpty && d.expects.all (fun i => has i || (d.closing && decide (i < 8)))

/-- The inputs of the next round among those that waited: the first of each. -/
def takeNext : List (Nat × Partial) → List (Nat × Partial) → List (Nat × Partial) → List (Nat × Partial) × List (Nat × Partial)
  | ins, rest, [] => (ins, rest)
  | ins, rest, e :: t => if ins.any (fun x => x.1 == e.1) then takeNext ins (rest ++ [e]) t else takeNext (ins ++ [e]) rest t

/-- The router's round ends: the next one begins with what waits. -/
def RDef.nextRound (d : RDef) : RDef :=
  let n := takeNext [] [] d.waiting
  let missing := (d.expects.filter (fun i => decide (i < 8))).filter (fun i => !(d.inputs.any (fun e => e.1 == i)))
  { d with inputs := n.1, waiting := n.2, closing := false, round := d.round + 1, late := d.late ++ missing }

/-- The folded partial of a router leaves for its parent or for the root's NI. -/
def State.forwardPart (s : State) (job : Nat) (j : Job) (d : RDef) (q : Nat × Nat) (x : Partial) : State :=
  let root := ndRootAt j d.block
  let flits := (8 + 4 * ndElems d.block + 31) / 32
  if q = root then s.reducePkt job (rootNi j d.block) .dest 1 flits (.part job d.nid 12 x) []
  else
    let up := parentOf root q
    let ahead := if up = root then [] else
      let u := parentOf root up
      if u = root then [u] else [u, parentOf root u]
    s.reducePkt job (rootNi j d.block) (.router up.1 up.2) (linkTime q up) flits (.part job d.nid (inputOf up q) x) (ahead.drop 1)

/-- A router that holds all its inputs, or has been closed, folds them and forwards one partial to its parent or to the root's
NI (R226, R227). -/
def execRouterCombine (p y job nid : Nat) (s : State) : Host.Outcome State Fault Refusal :=
  match (s.router p y).def? job nid, s.job? job with
  | some d, some j =>
    if !d.forwards ∨ (s.router p y).gated then .next s
    else
      let q := (p, y)
      let x := foldParts (ndOp d.block) (d.expects.filterMap (fun i => (d.inputs.find? (fun e => e.1 == i)).map (·.2)))
      let d1 := d.nextRound
      let s2 := ((s.updRdef q job nid (fun _ => d1)).passed q).forwardPart job j d q x
      if d1.inputs.any (fun e => decide (e.1 < 8)) then .next (s2.sendNotice j job q d1) else .next s2
  | _, _ => .next s

/-! ## The root (R227, R255) -/

/-- A notice or the tree's result of a round reaches the root (R227). -/
def execRoundStartNotice (pkt : Nat) (s : State) : Host.Outcome State Fault Refusal :=
  match s.reduceAt pkt with
  | some (p, _) =>
    let s1 := s.dropPacket pkt
    match p.pos, p.body with
    | .dest, .notice job nid round => .next (s1.updNdef job nid (fun d => d.start s.clk round))
    | .dest, .part job nid 12 x =>
      match (s.job? job).bind (fun j => j.ndef nid) with
      | none => .next (s1.dropPart p.dst job x)
      | some _ => .next (s1.updNdef job nid (fun d => { (d.start s.clk (d.round + d.tree.length)) with tree := d.tree ++ [x] }))
    | _, _ => .next s
  | none => .next s

/-- At RTIME the root sends a close down the tree (R227). -/
def execRoundTimeout (job nid : Nat) (s : State) : Host.Outcome State Fault Refusal :=
  match s.job? job with
  | some j =>
    match j.ndef nid with
    | some d =>
      match d.timer with
      | some t =>
        if d.closing ∨ s.clk < t then .next s
        else
          let root := ndRootAt j d.block
          .next ((s.updNdef job nid (fun d => { d with closing := true })).reducePkt job (rootNi j d.block)
            (.router root.1 root.2) 1 1 (.close job nid d.round) [])
      | none => .next s
    | none => .next s
  | none => .next s

/-- A contribution or a partial of a definition stands at a router in this clk: it is folded before a close is (R255). -/
def inputAt (s : State) (q : Nat × Nat) (job nid : Nat) : Bool :=
  s.packets.any (fun p => decide (p.ready ≤ s.clk) && p.pos != .source && atRouter p == some q && (match p.body with
    | .contribution j n _ _ _ _ => j == job && n == nid
    | .part j n i _ => j == job && n == nid && decide (i < 12)
    | _ => false))

/-- A router receives a close and passes it to each child that has not yet delivered (R227, R255). A close of a round that the
router has left behind is of no effect. -/
def execCloseArrival (pkt : Nat) (s : State) : Host.Outcome State Fault Refusal :=
  match s.reduceAt pkt with
  | some (p, q) =>
    match p.body with
    | .close job nid round =>
      if inputAt s q job nid then .next s
      else
        let s1 := (s.dropPacket pkt).passed q
        match (s.router q.1 q.2).def? job nid with
        | none => .next s1
        | some d =>
          if d.round ≠ round then .next s1
          else
            let kids (r : Nat × Nat) (d : RDef) : List (Nat × Nat) :=
              (d.expects.filter (fun i => decide (8 ≤ i) && !(d.inputs.any (fun e => e.1 == i)))).filterMap (neighbour r)
            let beyond (c : Nat × Nat) : List (Nat × Nat) := match (s.router c.1 c.2).def? job nid with
              | some e => (kids c e).flatMap (fun k => match (s.router k.1 k.2).def? job nid with
                  | some g => kids k g
                  | none => [])
              | none => []
            let pass (s : State) (c : Nat × Nat) : State :=
              s.reducePkt job p.dst (.router c.1 c.2) (linkTime q c) 1 (.close job nid round) (beyond c)
            .next ((kids q d).foldl pass (s1.updRdef q job nid (fun d => { d with closing := true })))
    | _ => .next s
  | none => .next s

/-- The result of the tree for the root's round: where the root is the only participant the tree has none to bring. -/
def treeResult (j : Job) (d : NDef) : Option (Partial × List Partial) :=
  if (expects j d.block (ndRootAt j d.block)).isEmpty then some (⟨[], 0, 0, 0, []⟩, d.tree)
  else match d.tree with
    | x :: t => some (x, t)
    | [] => none

/-- The root's round ends; the next one's timer runs where anything of it has reached the root. -/
def NDef.nextRound (d : NDef) (tree own : List Partial) (missed : Bool) : NDef :=
  { d with
    timer := (d.noticed.find? (fun e => e.1 == d.round + 1)).map (·.2)
    closing := false
    own := own
    tree := tree
    round := d.round + 1
    noticed := d.noticed.filter (fun e => decide (d.round + 1 < e.1))
    late := d.late + missed.toNat }

/-- Writes the elements of a result at DEST (R227), or nothing where DEST leaves what the job has of ROOT's local memory: the status is
then LADDR (R284). -/
def writeResult (s : State) (j : Job) (job : Nat) (b : List Word) (x : Partial) : State × Nat :=
  if x.count = 0 then (s, 0)
  else if min 0x10000 j.localLimit < ndDest b + 4 * ndElems b then (s, 1)
  else (s.writeBytes .loc (locAddr job (ndRoot b) (ndDest b)) (x.elems.flatMap (fun e => bytesOfNat e.toNat 4)) .net 0 0 none, 0)

/-- The root adds its own contribution last, writes DEST and sends the round's completion (R226, R227, R255). -/
def execRoundComplete (job nid : Nat) (s : State) : Host.Outcome State Fault Refusal :=
  match s.job? job with
  | none => .next s
  | some j =>
    match j.ndef nid with
    | none => .next s
    | some d =>
      let b := d.block
      let takes := takesPart b (ndRoot b)
      match treeResult j d with
      | none => .next s
      | some (x, tree) =>
        if d.timer.isNone ∨ (takes ∧ d.own.isEmpty ∧ !d.closing) then .next s
        else
          let y := match d.own with
            | o :: _ => foldPart (ndOp b) x o
            | [] => x
          let src := rootNi j b
          let cm : Cmsg := ⟨b.getD 3 0, b.getD 4 0⟩
          let m2 := BitVec.ofNat 64 (y.count + 65536 * (decide (y.count < ndCount b)).toNat)
          let w := writeResult s j job b y
          let s1 := w.1.updNdef job nid (fun d => d.nextRound tree (d.own.drop 1) (takes && d.own.isEmpty))
          let s2 := s1.complete src job (ndRoot b) y.weight cm (statusWord w.2 (statusFlags y.flags) 0) [m2] (cmAcq cm) y.know 0
          match (s2.job? job).bind (fun j => j.ndef nid) with
          | some d2 => .next (if roundOpen s2 job d2 then s2 else s2.freeNdef src job nid d2.freeing false)
          | none => .next s2

end Sys2Proof.Machine
end

