-- ==== Sys2Proof/Machine/Routers.lean ====
section
/-! DEFINITION. The routers of the mesh: injection, switching and delivery (R230 to R240), gating and wakes (R243, R244), and the
leaving of far packets by an I/O node (R319, R325). -/

namespace Sys2Proof.Machine

/-! ## Far packets (R319, R321, R325) -/

/-- The fabric packet of a far send, of a far near-memory operation, or of a piece or an answer that a unit of this device sends; a request
carries its job's tag as it stands (R325). -/
def farPacket (s : State) (job : Nat) (b : Body) : Option FabPkt :=
  match b with
  | .message out =>
    match s.out? out with
    | some o => o.far.map (fun d => ⟨d, s.devid, 0, 0, o.msg.ord, s.jtag job, .send o.msg.hdr o.msg.args o.msg.srcV out⟩)
    | none => none
  | .request id =>
    match s.req? id with
    | some r =>
      match r.kind with
      | .near f block =>
        (nearFar s block).map (fun d => ⟨d, s.devid, 0, 0, false, s.jtag job, .near f block r.failAt r.left (tileOf r.core) id r.v⟩)
      | _ => none
    | none => none
  | .fab _ f => some (if f.cls = 0 then { f with jtag := s.jtag job } else f)
  | _ => none

/-- The job's tag is in force. -/
def tagged (s : State) (job : Nat) : Bool := match s.context? job with
  | some j => j.tvalid
  | none => false

/-- The I/O node of a row on the die of a port (R319). -/
def portNode (port row : Nat) : Endpoint := if port < 16 then .west row else .east row

/-! ## Injection -/

/-- An arm or a disarm of a task. -/
def armsFor (task : Nat) : Body → Bool
  | .arm _ t _ _ => t == task
  | .disarm _ t => t == task
  | _ => false

/-- An earlier packet of a test waits in the same source. -/
def behindSource (s : State) (p : Packet) (test : Body → Bool) : Bool :=
  s.packets.any (fun q => decide (q.id < p.id) && q.src == p.src && q.pos == .source && test q.body)

/-- What must hold before a packet leaves its sender: what it waits for is acknowledged, no earlier message of its lane is unsettled
(R185), no earlier arm or disarm of its task (R273) and no pod before a marker (R267) is still there, and the tag of a far request is in
force (R325). -/
def mayInject (s : State) (p : Packet) : Bool :=
  decide (p.ready ≤ s.clk) && !s.anyWaiting p.waits
    && (match p.body with
        | .message out => match s.out? out with
          | some o => !laneHeld s o
          | none => true
        | .arm _ task _ _ => !behindSource s p (armsFor task)
        | .disarm _ task => !behindSource s p (armsFor task)
        | .marker job _ => !behindSource s p (isPodOf job)
        | _ => true)
    && (match farPacket s p.job p.body with
        | some f => f.cls != 0 || tagged s p.job
        | none => true)

/-- A packet takes a new number as it enters the mesh: the order of injection (R236). -/
def State.renumber (s : State) (p moved : Packet) : State :=
  { (s.leaveQueue p) with
    packets := s.packets.filter (fun x => x.id != p.id) ++ [{ moved with id := s.serial, queue := 0 }]
    serial := s.serial + 1 }

/-- An NI that injects a packet wakes its own router and the next one on the packet's way (R244). -/
def State.injectWakes (s : State) (src : Endpoint) (here next : Nat × Nat) : State :=
  match src with
  | .ni _ => (s.wakeAt here s.clk).wakeAt next s.clk
  | _ => s

/-- A packet enters the router it is attached to. -/
def State.inject (s : State) (p : Packet) (dst : Endpoint) (b : Body) : State :=
  let q := p.src.attach
  (s.renumber p { p with dst := dst, body := b, pos := .router q.1 q.2, ready := s.clk + edgeLink p.src + switchTime }).injectWakes p.src q
    (nextHop p.cls q dst.attach).1

/-- A contribution goes to its router over the link alone; what combines there goes on toward the root (R225, R238). -/
def State.injectPart (s : State) (p : Packet) (job nid : Nat) : State :=
  let q := p.src.attach
  let next := match (s.job? job).bind (fun j => (j.ndef nid).map (fun d => ndRootAt j d.block)) with
    | some root => if q = root then q else parentOf root q
    | none => q
  (s.renumber p { p with pos := .dest, ready := s.clk + edgeLink p.src + switchTime + (p.flits - 1) }).injectWakes p.src q next

/-- A far packet leaves its source for the I/O node of its row on the die of the port it takes (R233, R319); one with no way out of the
device is discarded (R320, R323). -/
def State.injectFar (s : State) (p : Packet) (f : FabPkt) : State :=
  match s.choosePort f with
  | some n => s.inject p (portNode n p.src.row) (.fab n f)
  | none => ((s.leaveQueue p).dropPacket p.id).discardPkt f

/-- A packet leaves its source. A message whose task has records in the overflow ring follows them there (R151); the piece of a
`gwr` takes its bytes as it leaves, through its bank's port (R156, R187). None while a bank is taken. -/
def State.leaveSource (s : State) (p : Packet) : Option State :=
  let out_ : State := match farPacket s p.job p.body with
    | some f => s.injectFar p f
    | none => s.inject p p.dst p.body
  match p.body with
  | .message out =>
    match s.out? out with
    | none => some (s.dropPacket p.id)
    | some o =>
      if behindRing s o then
        let s1 := s.spill o
        some (if (s1.out? out).isNone then s1.dropPacket p.id else s1)
      else some out_
  | .access a =>
    match s.req? a.req with
    | some r =>
      match r.kind, a.kind, p.src with
      | .gwr _ _ _ _, .write, .ni t =>
        (s.niPort t portSource (reqSide r) a.landing a.len).map (fun s1 => match s1.fillPiece r a with
        | .ok a1 => s1.inject p p.dst (.access a1)
        | .error t => { t with packets := t.packets.filter (fun q => match q.body, q.pos with
            | .access x, .source => x.req != a.req
            | _, _ => true) })
      | _, _, _ => some out_
    | none => some out_
  | .contribution job nid _ _ _ _ => some (s.injectPart p job nid)
  | _ => some out_

/-! ## Switching -/

/-- Two pods that a router may combine (R240). -/
def sameMarks (a b : Body) : Bool :=
  match a, b with
  | .pod j _ l k, .pod j' _ l' k' => j == j' && l == l' && k == k'
  | _, _ => false

/-- The weight of a pod. -/
def podWeight : Body → Nat
  | .pod _ w _ _ => w
  | _ => 0

/-- The pod that takes up another's weight. -/
def withWeight (w : Nat) : Body → Body
  | .pod j x l k => .pod j (x + w) l k
  | b => b

/-- A pod that waits in the same output queue of a router and may combine with this one. -/
def waitingPod (s : State) (p : Packet) : Option Packet :=
  s.packets.find? (fun q => q.id != p.id && q.pos == p.pos && q.dst == p.dst && decide (q.ready ≤ s.clk) && q.hdrEcc == 0 && p.hdrEcc == 0
    && sameMarks q.body p.body)

/-- No packet of the same class, source and destination injected before it stands at its router or behind (R236). -/
def firstOfLane (s : State) (p : Packet) : Bool :=
  !(s.packets.any (fun q => decide (q.id < p.id) && q.cls == p.cls && q.src == p.src && q.dst == p.dst && q.pos == p.pos))

/-- The routers that a packet's head wakes as it reaches the input of a router: that one, and the second one ahead (R244). -/
def headWakes (p : Packet) (q : Nat × Nat) : List (Nat × Nat) :=
  let d := p.dst.attach
  let n := (nextHop p.cls q d).1
  if q = d || n = d then [q] else [q, (nextHop p.cls n d).1]

/-- A router switches a packet: toward the next router of its route, or over the link to its destination, which it has reached with its
last flit (R231). -/
def State.switch (s : State) (p : Packet) (at_ : Nat × Nat) : State :=
  let s1 := s.passedBy at_ p.flits
  match (if Config.pick s.free 60 % 2 = 0 then waitingPod s p else none) with
  | some q => (s1.dropPacket p.id).updPacket q.id (fun q => { q with body := withWeight (podWeight p.body) q.body })
  | none =>
    if at_ = p.dst.attach then s1.updPacket p.id (fun p => { p with pos := .dest, ready := s.clk + edgeLink p.dst + (p.flits - 1) })
    else
      let h := nextHop p.cls at_ p.dst.attach
      (headWakes p h.1).foldl (fun st r => st.wakeAt r (s.clk + h.2))
        (s1.updPacket p.id (fun p => { p with pos := .router h.1.1 h.1.2, ready := s.clk + h.2 + switchTime }))

/-- Routers switch a packet of any class by its route, but for what they combine and close themselves (R238). -/
def routed (p : Packet) : Bool :=
  p.cls != .reduction || (match p.body with
    | .notice _ _ _ => true
    | _ => false)

/-- A packet may be switched by the router it stands in: a marker behind no pod of its job (R236, R240, R244). -/
def maySwitch (s : State) (p : Packet) (a b : Nat) : Bool :=
  routed p && decide (p.ready ≤ s.clk) && !(s.router a b).gated && firstOfLane s p && (match p.body with
    | .marker _ _ => !behindPod s p
    | _ => true)

/-- A far packet at its I/O node leaves by its port. One with an uncorrectable header is discarded there (R266); a far send whose argument
words have an uncorrectable error is too, its weight LOST (R265). -/
def State.leaveDevice (s : State) (p : Packet) (n : Nat) (f : FabPkt) : State :=
  match f.body with
  | .send _ _ _ out =>
    if p.hdrEcc ≠ 0 then s.headerLost { p with body := .message out } p.dst
    else match s.out? out with
      | some o => if o.msg.ecc ≠ 0 then (s.dropPacket p.id).endOut o true false else (s.dropPacket p.id).fabLeave n f
      | none => s.dropPacket p.id
  | _ => if p.hdrEcc ≠ 0 then s.headerLost p p.dst else (s.dropPacket p.id).fabLeave n f

/-- A packet leaves its source, is switched by the router it stands in (R231, R232, R236), or leaves the device at its I/O node
(R319). -/
def execRouterSwitch (pkt : Nat) (s : State) : Host.Outcome State Fault Refusal :=
  match s.packet? pkt with
  | none => .next s
  | some p =>
    match p.pos with
    | .source =>
      if mayInject s p then
        match s.leaveSource p with
        | some t => .next { t with free := s.free + 1 }
        | none => .next s
      else .next s
    | .router a b => if maySwitch s p a b then .next { (s.switch p (a, b)) with free := s.free + 1 } else .next s
    | .dest =>
      match s.arrived? pkt, p.body with
      | some _, .fab n f => .next { (s.leaveDevice p n f) with free := s.free + 1 }
      | _, _ => .next s

/-! ## Power (R243, R244) -/

/-- A router on the mesh. -/
def onMesh (p y : Nat) : Bool := decide (p < 136 ∧ y < 16)

/-- The clk in which a packet's head reaches the input of the router it is in. -/
def headAt (p : Packet) : Nat := p.ready - switchTime - (if routed p then 0 else p.flits - 1)

/-- A router that has been idle for 1,024 clk, with no flit and no open round, is gated. -/
def execRouterGate (p y : Nat) (s : State) : Host.Outcome State Fault Refusal :=
  let r := s.router p y
  let flits := s.packets.any (fun q => inRouter q == some (p, y) && decide (headAt q ≤ s.clk))
  let rounds := r.defs.any (fun d => !d.inputs.isEmpty || !d.waiting.isEmpty || d.closing)
  if onMesh p y ∧ !r.gated ∧ !flits ∧ !rounds ∧ r.idle + 1024 ≤ s.clk then
    .next (s.updRouter p y (fun r => { r with gated := true, wake := none }))
  else .next s

/-- A flit that reaches a gated router which has had no wake wakes it on arrival. -/
def execRouterWake (p y : Nat) (s : State) : Host.Outcome State Fault Refusal :=
  let r := s.router p y
  match (s.packets.filter (fun q => inRouter q == some (p, y) && decide (headAt q ≤ s.clk))).map headAt with
  | [] => .next s
  | t :: l => if r.gated ∧ r.wake.isNone then .next (s.updRouter p y (fun r => { r with wake := some (l.foldl min t) })) else .next s

/-- A waking router becomes ready 16 clk after its wake, and its idle count restarts. -/
def execRouterReady (p y : Nat) (s : State) : Host.Outcome State Fault Refusal :=
  match (s.router p y).wake with
  | some w => if w + 16 ≤ s.clk then .next (s.updRouter p y (fun r => { r with gated := false, wake := none, idle := s.clk })) else .next s
  | none => .next s

end Sys2Proof.Machine
end

