-- ==== Sys2Proof/Machine/Trigger.lean ====
section
/-! DEFINITION. Trigger counters and posted operations (R216 to R222). -/

namespace Sys2Proof.Machine

/-! ## Counters (R216 to R218) -/

/-- A counter of a tile. -/
def State.counter (s : State) (tile c : Nat) : Counter := (s.tile tile).counters.getD c ⟨none, 0, none⟩

/-- Writes a counter of a tile. -/
def State.setCounter (s : State) (tile c : Nat) (x : Counter) : State :=
  s.updTile tile (fun t => { t with counters := t.counters.setIfInBounds c x })

/-- `trg.alloc` (R217) -/
def execTrgAlloc (d : Name) (m : Mark) (s : State) : Host.Outcome State Fault Refusal :=
  issue32 m s (do
    dst d
    match (List.range 64).find? (fun c => (s.counter s.myTile c).owner.isNone) with
    | some c => fall (wr (s.setCounter s.myTile c ⟨some s.me.job, 0, none⟩) d (BitVec.ofNat 64 c) 2)
    | none => fall (wr s d (BitVec.allOnes 64) 2))

/-- Removes the entries posted on a counter, their weight going home (R217). -/
def State.dropEntries (s : State) (tile job c : Nat) : State :=
  let gone := (s.tile tile).posted.filter (fun p => p.job == job && p.ctr == c)
  gone.foldl (fun s p => s.pod (.ni tile) job p.v false false)
    (s.updTile tile (fun t => { t with posted := t.posted.filter (fun p => !(p.job == job && p.ctr == c)) }))

/-- The number of a counter named by a whole word (R216). -/
def counterWord (w : Word) : Except Stop Nat := do
  limits (decide (w.toNat < 64))
  .ok w.toNat

/-- `trg.free` (R217) -/
def execTrgFree (a : Name) (m : Mark) (s : State) : Host.Outcome State Fault Refusal :=
  issue32 m s (do
    srcs [a]
    let w ← rd s 0 a
    let c ← counterWord w
    if (s.counter s.myTile c).owner = some s.me.job then
      fall ((s.dropEntries s.myTile s.me.job c).setCounter s.myTile c ⟨none, 0, none⟩)
    else fall s)

/-- The location of a counter of a virtual core's tile, for the order of R247: that of its word in the trigger window (R109). -/
def counterLoc (job vcore c : Nat) : Space × Nat × Nat :=
  let a := scratchAddr job (vcore / 8) (0x100000 + 4 * c)
  (.scratch, a, a + 4)

/-- `trg.read` (R218): it stays behind its task's own earlier changes of the counter (R247). -/
def execTrgRead (d a : Name) (m : Mark) (s : State) : Host.Outcome State Fault Refusal :=
  issue32 m s (do
    srcs [a]
    dst d
    let w ← rd s 0 a
    let c ← counterWord w
    ready (s.overlapping s.me.task .core [counterLoc s.me.job s.me.vcore c]).isEmpty
    fall (wr s d (BitVec.ofNat 64 (counterValue s s.myTile s.me.job c)) 2))

/-! ## trg.add (R218) -/

/-- REMOTE -/
def addRemote (c : Nat) : Bool := c.testBit 17
/-- VTILE -/
def addTile (c : Nat) : Nat := fieldOf c 6 11
/-- The scope of an add that is a release. -/
def addRel (c : Nat) : Option Scope := if c.testBit 18 then some (scopeOf (fieldOf c 19 3)) else none

/-- The checks of a counter word and an amount. -/
def addCheck (j : Job) (c v : Word) : Except Stop Unit := do
  limits (decide (c.toNat < 2 ^ 22) && decide (fieldOf c.toNat 19 3 ≤ 5))
  limits (!addRemote c.toNat || decide (addTile c.toNat < j.vtiles))
  limits (decide (v.toNat < 2 ^ 32))

/-- The smallest scope that covers a counter of a virtual tile, from a tile (R246). -/
def addScope (j : Job) (tile vt : Nat) : Scope :=
  let t := j.tile vt
  if t = tile then .tile else if tileDie t = tileDie tile then .die else .device

/-- A local add reaches its trigger unit in the next clk, or once its release lets it (R218); behind it stays what its task does to the
counter later (R247). -/
def localAdd (w : Issuer) (c v : Nat) (s : State) : State :=
  let rel := addRel c
  let loc := counterLoc w.job w.vcore (fieldOf c 0 6)
  let r : Rise := ⟨w.job, fieldOf c 0 6, v, [], s.clk + 1, s.serial, none, w.waits s .core rel ++ s.overlapping w.task .core [loc],
    rel.map (w.release s .core)⟩
  (s.newAccAt w.task .tile .core [loc]).updTile (tileOf w.core) (fun t => { t with rises := t.rises ++ [r] })

/-- A remote add leaves in the trigger class (R218); `req` is the request of a posted one. -/
def remoteAdd (w : Issuer) (j : Job) (c v req : Nat) (s : State) : State :=
  let rel := addRel c
  let acc := s.serial
  (s.newAcc w.task (addScope j (tileOf w.core) (addTile c)) .net false).post .trigger w.ni (.ni (j.tile (addTile c))) w.job 1 w.queue
    (w.waits s .net rel) (.trgAdd w.job (addTile c) (fieldOf c 0 6) v w.task (rel.map (w.release s .net)) acc req)

/-- `trg.add` (R218) -/
def execTrgAdd (a b : Name) (m : Mark) (s : State) : Host.Outcome State Fault Refusal :=
  issue32 m s (do
    srcs [a, b]
    let j ← theJob s
    let c ← rd s 0 a
    let v ← rd s 1 b
    addCheck j c v
    if addRemote c.toNat then
      ready (niRoom s (addScope j s.myTile (addTile c.toNat)))
      let s1 ← joinHold s
      fall (remoteAdd s1.issuer j c.toNat v.toNat 0 s1)
    else
      ready (!s.countFull s.me.task .tile)
      fall (localAdd s.issuer c.toNat v.toNat s))

/-! ## trg.post (R219) -/

/-- The fields of TCTL: CTR, THRESH, OP, FN, DCTR, DONE and ORD. -/
structure Tctl where
  ctr : Nat
  thresh : Nat
  op : Nat
  fn : Nat
  dctr : Nat
  done : Bool
  ord : Bool
  deriving DecidableEq, Repr

/-- The fields of a word. -/
def tctlOf (w : Nat) : Tctl :=
  ⟨fieldOf w 0 6, fieldOf w 6 32, fieldOf w 38 4, fieldOf w 42 4, fieldOf w 46 6, w.testBit 52, w.testBit 53⟩

/-- The limits of TCTL. -/
def tctlOk (w : Nat) : Bool :=
  let t := tctlOf w
  fieldOf w 54 10 == 0 && decide (t.op ≤ 9)
    && (if t.op = 0 then t.fn == 0 || t.fn == 3 else if t.op = 5 then decide (t.fn ≤ 9) else t.fn == 0)
    && (!t.ord || t.op == 0)

/-- Words of the operation's block; `first` is its first word. -/
def postedWords (t : Tctl) (first : Word) : Nat :=
  match t.op with
  | 0 => 2 + hdrLen first
  | 5 => nearWords t.fn (fieldOf first.toNat 15 4)
  | 6 => 6
  | 7 => 2
  | 8 => 2
  | 9 => 4
  | _ => 5

/-- The checks that the operation's own instruction makes at issue (R219). -/
def postedCheck (s : State) (j : Job) (t : Tctl) (b : List Word) : Except Stop Unit := do
  match t.op with
  | 0 =>
    limits (decide (hdrLen (b.getD 0 0) ≤ 10))
    let _ ← sendCheck s j b t.ord (t.fn == 3) false
    .ok ()
  | 5 => nearCheck j t.fn b
  | 6 => copyCheck j false b
  | 7 => addCheck j (b.getD 0 0) (b.getD 1 0)
  | 8 =>
    let _ ← nredCheck j s.me.vcore b
    .ok ()
  | 9 => futureCheck j 1 b
  | n => gxCheck j b (n == 2 || n == 4)

/-- The first word of a posted block, where the limits of TCTL let one be read. -/
def postedBlock (s : State) (a : Name) : Except Stop (Tctl × List Word) := do
  let r ← blockAt a 2
  let w := (readS s 40 r).toNat
  limits (tctlOk w)
  let t := tctlOf w
  let n := postedWords t (readS s 41 (r + 1))
  limits (decide (n ≤ 12))
  let words ← block s a (1 + n)
  .ok (t, words.drop 1)

/-- An entry handle. -/
def entryHandle (gen e : Nat) : Word := BitVec.ofNat 64 (2 ^ 63 + 256 * gen + e)

/-- `trg.post` (R219) -/
def execTrgPost (d a b : Name) (m : Mark) (s : State) : Host.Outcome State Fault Refusal :=
  issue32 m s (do
    srcs [b]
    dst d
    let j ← theJob s
    let x ← postedBlock s a
    let t := x.1
    limits ((s.counter s.myTile t.ctr).owner == some s.me.job)
    postedCheck s j t x.2
    blockOk s a (1 + x.2.length)
    let v ← rd s 60 b
    let s1 ← takeWeight s v.toNat
    let used := (s.tile s.myTile).posted.map (·.entry)
    match (List.range 256).find? (fun e => !used.contains e) with
    | none => raise .trigfull 0
    | some e =>
      let c := s.me
      let gen := (s.tile s.myTile).gens.getD e 0
      let p : Posted := ⟨e, c.job, s.myCore, c.vcore, c.task, t.ctr, t.thresh, t.op, t.fn, t.dctr, t.done, t.ord, v.toNat, x.2,
        s1.serial, c.know, c.relFences, s.clk + 1⟩
      let s2 := { (s1.updTile s.myTile (fun y => { y with posted := y.posted ++ [p], gens := y.gens.set e ((gen + 1) % 65536) })) with
        serial := s1.serial + 1 }
      fall (wr s2 d (entryHandle gen e) 2))

/-- The entry of a handle that is still posted with its GEN. -/
def postedOf (t : Tile) (job handle : Nat) : Option Posted :=
  if handle.testBit 63 ∧ fieldOf handle 24 39 = 0 then
    t.posted.find? (fun p => p.job == job && p.entry == handle % 256 && (t.gens.getD p.entry 0 + 65535) % 65536 == fieldOf handle 8 16)
  else none

/-- `trg.cancel` (R222): it reaches the trigger unit in the next clk, and D follows from what it finds there. -/
def execTrgCancel (d a : Name) (m : Mark) (s : State) : Host.Outcome State Fault Refusal :=
  issue32 m s (do
    srcs [a]
    dst d
    let h ← rd s 0 a
    let c := s.me
    let r : Rise := ⟨c.job, 0, 0, [], s.clk + 1, 0, some ⟨s.cur, c.task, h.toNat, targetOf c d⟩, [], none⟩
    fall ((wr s d 0 2).updTile s.myTile (fun t => { t with rises := t.rises ++ [r] })))

/-! ## The unit (R220, R221) -/

/-- What a change of a counter orders before the operations that wait on it: what it knows, and what its release orders (R221). -/
def changeKnow (s : State) (know : Know) : Option Rel → Know
  | some x => know ++ x.knows s
  | none => know

/-- Adds to a counter that the job holds; it saturates (R218). What a rise orders binds the operations that wait on it (R221), and who
acquires the value it leaves acquires from its release (R249). -/
def State.raiseCounter (s : State) (tile job c amount : Nat) (know : Know) (rel : Option Rel) : State :=
  let x := s.counter tile c
  if x.owner ≠ some job then s
  else
    (s.setCounter tile c { x with value := min (x.value + amount) (2 ^ 32 - 1), rel := rel.map (Rel.gather s) }).updTile tile (fun t => { t with
      posted := replaceIf (fun p => p.job == job && p.ctr == c) (fun p => { p with know := p.know.merge (changeKnow s know rel) }) t.posted })

/-- The pending result of a cancel gets its value. -/
def Ctx.answer (c : Ctx) (task due : Nat) (t : Target) (v : Nat) : Ctx :=
  if c.task ≠ task then c
  else { c with pend := replaceIf (fun p => p.op == 0 && p.due == due && p.target == t) (fun p => { p with value := v }) c.pend }

/-- A cancel is applied (R222). -/
def State.applyCancel (s : State) (tile : Nat) (r : Rise) (k : Cancel) : State :=
  let found := postedOf (s.tile tile) r.job k.handle
  let s1 := match found with
    | some p => (s.updTile tile (fun t => { t with posted := t.posted.filter (fun q => q.entry != p.entry) })).pod (.ni tile) r.job p.v
        false false
    | none => s
  match k.target with
  | some t => s1.updCtx k.ctx (fun c => c.answer k.task (r.at_ + 1) t found.isSome.toNat)
  | none => s1

/-- A posted add without a message is performed: its weight goes home (R220). -/
def State.endAdd (s : State) (src : Endpoint) (acc : Nat) : State :=
  match s.reqs.find? (fun r => r.kind == .add && r.acc == acc && acc != 0) with
  | some r => s.finishReq src r false []
  | none => s.performAcc acc

/-- One change or cancel is applied. -/
def State.applyRise (s : State) (tile : Nat) (r : Rise) : State :=
  match r.cancel with
  | some k => s.applyCancel tile r k
  | none => (s.raiseCounter tile r.job r.ctr r.amount r.know r.rel).endAdd (.ni tile) r.acc

/-- A change or a cancel that has reached its unit. -/
def riseDue (s : State) (r : Rise) : Bool := decide (r.at_ ≤ s.clk) && !s.anyWaiting r.waits

/-- Applies what has reached a tile's trigger unit, in arrival order. -/
def State.applyRises (s : State) (tile : Nat) : State :=
  let l := (s.tile tile).rises
  let due := l.filter (riseDue s)
  due.foldl (fun s r => s.applyRise tile r) (s.updTile tile (fun t => { t with rises := l.filter (fun r => !riseDue s r) }))

/-- Counter changes, posts and cancels that have reached a trigger unit are applied in arrival order: those of the tile itself
where `pkt` is 0, or a remote add (R218, R220). -/
def execTriggerArrival (tile pkt : Nat) (s : State) : Host.Outcome State Fault Refusal :=
  if pkt = 0 then (if (s.tile tile).rises.any (riseDue s) then .next (s.applyRises tile) else .next s)
  else
    match s.arrived? pkt with
    | some p =>
      match p.body with
      | .trgAdd job vtile ctr amount task rel acc req =>
        if p.dst ≠ .ni tile then .next s
        else
          let owned := match s.job? job with
            | some j => j.tile vtile == tile
            | none => false
          let s1 := s.dropPacket pkt
          let s2 := if owned then s1.raiseCounter tile job ctr amount [] rel else s1
          .next (s2.reply p.dst p.src job (if req = 0 then .holdAck task acc else .addDone req))
      | _ => .next s
    | none => .next s

/-- An entry may fire: its post has reached the unit, its counter has reached THRESH, and its job's entries fire (R220, R267,
R344). -/
def mayFire (s : State) (tile : Nat) (p : Posted) : Bool :=
  decide (p.at_ ≤ s.clk) && (s.counter tile p.ctr).owner == some p.job && decide (p.thresh ≤ (s.counter tile p.ctr).value)
    && mayStart s p.job

/-- Of the entries that may fire, the one posted first. -/
def firstPosted : List Posted → Option Posted
  | [] => none
  | p :: t => some (leastBy (fun q => q.order) p t)

/-- The operation of an entry goes through the request queue of its core's NI, as its instruction does (R182, R220): all but a copy and
a local add. -/
def usesNi (p : Posted) : Bool := p.op != 6 && (p.op != 7 || addRemote (wordAt p.block 0))

/-- An entry's operation would have to wait as its instruction would: for the request queue of its core's NI (R182), or for a count of
its task (R248; log 26: DEDUCED). -/
def fireBlocked (s : State) (p : Posted) : Bool := (usesNi p && s.niFull p.core) || s.countFull p.task .tile

/-- The party a fired operation is performed for: the posting task, with the fences in force for it, through the NI of its core (R182,
R220). -/
def postedIssuer (s : State) (tile : Nat) (p : Posted) : Issuer :=
  let post := if p.doneRaise then 1 + tile * 64 + p.dctr else 2 ^ 18
  let queue := if usesNi p then p.core + 1 else 0
  match s.ctxs.find? (fun e => e.2.task == p.task && !e.2.dying) with
  | some e => ⟨p.job, p.task, p.core, p.vcore, p.know.merge e.2.know, e.2.relFences, e.2.acqLoads, queue, post⟩
  | none => ⟨p.job, p.task, p.core, p.vcore, p.know, p.fences, [], queue, post⟩

/-- A fired `trg.add`, whose weight goes home once it is performed (R220). -/
def fireAdd (w : Issuer) (j : Job) (b : List Word) (v : Nat) (s : State) : State :=
  let c := wordAt b 0
  let s1 := if addRemote c then s else localAdd w c (wordAt b 1) s
  let acc := if addRemote c then s1.serial + 1 else s.serial
  let r : Req := ⟨s1.serial, .add, w.job, w.task, w.core, w.vcore, v, ⟨BitVec.ofNat 64 (2 ^ 26), 0⟩, [], [], acc, 0, 0, 0, 0, 0, 0, 0,
    0, none, w.post⟩
  let s2 := { s1 with reqs := s1.reqs ++ [r], serial := s1.serial + 1 }
  if addRemote c then remoteAdd w j c (wordAt b 1) r.id s2 else s2

/-- Performs a fired entry's operation as if its instruction had been issued now (R220). -/
def fire (s : State) (tile : Nat) (j : Job) (p : Posted) : State :=
  let w := postedIssuer s tile p
  let b := p.block
  match p.op with
  | 0 => queueSend w (formSend s j b p.ord (p.fn == 3)) p.v 0 s
  | 5 => queueNear w p.fn b p.v s
  | 6 => queueCopy w false b p.v s
  | 7 => fireAdd w j b p.v s
  | 8 => queueNred w j b p.v s
  | 9 => queueFuture w 1 b p.v s
  | n => queueBlock w (n == 3 || n == 4) (n == 2 || n == 4) false b p.v s

/-- The entry a trigger unit fires in this clk, if any: of those that may fire the one posted first, unless its operation has to wait
(R220). -/
def nextFire (s : State) (tile : Nat) : Option Posted :=
  match firstPosted ((s.tile tile).posted.filter (mayFire s tile)) with
  | some p => if fireBlocked s p then none else some p
  | none => none

/-- A trigger unit fires at most one entry in a clk, after it has applied what reached it (R220). -/
def execTriggerFire (tile : Nat) (s : State) : Host.Outcome State Fault Refusal :=
  let t := s.tile tile
  if t.fired = some s.clk ∨ t.rises.any (riseDue s) then .next s
  else
    match nextFire s tile with
    | none => .next s
    | some p =>
      match s.job? p.job with
      | none => .next s
      | some j =>
        let s1 := s.updTile tile (fun t => { t with posted := t.posted.filter (fun q => q.entry != p.entry), fired := some s.clk })
        .next { (fire s1 tile j p) with free := s.free + 1 }

end Sys2Proof.Machine
end

