-- ==== Sys2Proof/Machine/Sys.lean ====
section
/-! DEFINITION. The system instructions (R350 to R354). -/

namespace Sys2Proof.Machine

/-! ## System registers (R351) -/

/-- How many values of IDX a register has; none for a number that names no register. -/
def sysCount (j : Job) (reg : Nat) : Option Nat :=
  match reg with
  | 4 => some 4
  | 5 => some j.tbanks
  | 6 => some 64
  | 8 => some 4
  | 10 => some 32
  | _ => if reg < 15 then some 1 else none

/-- Registers that only a privileged task reads. -/
def sysReadPriv (reg : Nat) : Bool := reg == 11 || reg == 12 || reg == 14

/-- Registers that only a privileged task writes. -/
def sysWritePriv (reg : Nat) : Bool := decide (6 ≤ reg) && decide (reg ≤ 10)

/-- Registers that may be written. -/
def sysWritable (reg : Nat) : Bool := reg == 0 || reg == 1 || reg == 5 || sysWritePriv reg

/-- REG of a selector. -/
def selReg (w : Word) : Nat := fieldOf w.toNat 0 8
/-- IDX of a selector. -/
def selIdx (w : Word) : Nat := fieldOf w.toNat 8 8

/-- The checks of a selector. -/
def selCheck (j : Job) (w : Word) : Except Stop Unit :=
  limits (decide (w.toNat < 65536) && (match sysCount j (selReg w) with
    | some n => decide (selIdx w < n)
    | none => false))

/-- Four-bit fields packed into one number, the first lowest. -/
def packNibbles (l : List Nat) : Nat := l.foldr (fun x acc => x % 16 + 16 * acc) 0

/-- Eight four-bit fields of a number. -/
def nibbles (w : Nat) : List Nat := (List.range 8).map (fun i => fieldOf w (4 * i) 4)

/-- The value of a system register (R351). QCLASS and HOMEW are read from the copies the home has sent, of which one sent in the
last 1,024 clk may not yet have arrived. -/
def sysRead (s : State) (j : Job) (reg idx : Nat) : Word :=
  let c := s.me
  match reg with
  | 0 => c.fflags
  | 1 => c.vfmt
  | 2 => BitVec.ofNat 64 c.job
  | 3 => BitVec.ofNat 64 j.wtotal
  | 4 => BitVec.ofNat 64 (s.chan s.myCore c.job idx).done
  | 5 => (s.formats c.job (c.vcore / 8)).getD idx 0
  | 6 => BitVec.ofNat 64 (counterValue s s.myTile c.job idx)
  | 7 => BitVec.ofNat 64 (packNibbles (s.tile s.myTile).vshare)
  | 8 => BitVec.ofNat 64 (packNibbles (((s.core s.myCore).slottab.drop (8 * idx)).take 8))
  | 9 => BitVec.ofNat 64 (c.watchdog % 2 ^ 24 + 2 ^ 24 * (c.budget % 2 ^ 24))
  | 10 => j.acts.getD idx 0
  | 11 => BitVec.ofNat 64 (choose s 20 j.copyNow (if s.clk < j.copyClk + 1024 then [j.copyOld] else [])).1
  | 12 => BitVec.ofNat 64 (choose s 20 j.copyNow (if s.clk < j.copyClk + 1024 then [j.copyOld] else [])).2
  | 13 => BitVec.ofNat 64 (j.word 6)
  | _ => BitVec.ofNat 64 j.spillBase

/-- A valid action entry of a job (R335, R351). -/
def actionOk (j : Job) (e : Word) : Bool :=
  decide (e.toNat < 2 ^ 27)
    && (decide (actAct e < 2) || (j.routine? (actClass e)).isSome)
    && (!e.toNat.testBit 12 || j.hasVcore (fieldOf e.toNat 13 14))

/-- A value may be written to a register (R351). -/
def sysValueOk (j : Job) (reg : Nat) (v : Word) : Bool :=
  let n := v.toNat
  match reg with
  | 0 => decide (n < 256)
  | 1 => vfmtValid n
  | 5 => n == 0 || descValid n
  | 6 => decide (n < 2 ^ 32)
  | 7 => decide (n < 2 ^ 32) && (nibbles n).all (fun x => x != 0)
  | 8 => decide (n < 2 ^ 32) && (nibbles n).all (fun x => decide (x < 4) || x == 8)
  | 9 => decide (n < 2 ^ 48)
  | 10 => actionOk j v
  | _ => false

/-- Writes a system register (R351). A write of ACTTAB leaves the old entry in use for up to 64 clk (R336). -/
def sysWrite (s : State) (j : Job) (reg idx : Nat) (v : Word) : State :=
  let c := s.me
  match reg with
  | 0 => s.setMe { c with fflags := v }
  | 1 => s.setMe { c with vfmt := v }
  | 5 =>
    let key := c.job * 2048 + c.vcore / 8
    { s with bankfmt := s.bankfmt.set key ((s.formats c.job (c.vcore / 8)).set idx v) }
  | 6 =>
    if (s.counter s.myTile idx).owner = some c.job then s.setCounter s.myTile idx ⟨some c.job, v.toNat, none⟩ else s
  | 7 => s.updTile s.myTile (fun t => { t with vshare := nibbles v.toNat })
  | 8 => s.updCore s.myCore (fun x => { x with slottab := x.slottab.take (8 * idx) ++ nibbles v.toNat ++ x.slottab.drop (8 * idx + 8) })
  | 9 => s.setMe { c with watchdog := v.toNat % 2 ^ 24 }
  | 10 => s.setJob c.job { j with
      acts := j.acts.set idx v
      actOld := (j.actOld.filter (fun e => decide (s.clk ≤ e.2.2 + 64))) ++ [(idx, j.acts.getD idx 0, s.clk)] }
  | _ => s

/-- A privilege that a selector asks for is there. The selector of a name with an uncorrectable error is not known: such a name faults
when it is read (R74, R331). -/
def selPriv (s : State) (a : Name) (needs : Nat → Bool) : Except Stop Unit :=
  need (s.me.ecc.contains (eccOfName s.me a) || s.me.privileged || !needs (selReg (value s 0 a))) .priv

/-- `sys.mfs` (R351) -/
def execSysMfs (d a : Name) (m : Mark) (s : State) : Host.Outcome State Fault Refusal :=
  issue32 m s (do
    srcs [a]
    selPriv s a sysReadPriv
    dst d
    let j ← theJob s
    let w ← rd s 0 a
    selCheck j w
    fall (wr s d (sysRead s j (selReg w) (selIdx w)) 1))

/-- `sys.mts` (R351) -/
def execSysMts (a b : Name) (m : Mark) (s : State) : Host.Outcome State Fault Refusal :=
  issue32 m s (do
    srcs [a]
    selPriv s a sysWritePriv
    srcs [b]
    let j ← theJob s
    let w ← rd s 0 a
    selCheck j w
    limits (sysWritable (selReg w))
    let v ← rd s 1 b
    limits (sysValueOk j (selReg w) v)
    fall (sysWrite s j (selReg w) (selIdx w) v))

/-! ## Saving and restoring a context (R352) -/

/-- The endpoint of the launch unit that a request of a tile leaves for (R233). -/
def launchFrom (tile : Nat) : Endpoint := .west (tileY tile)

/-- A request of the issuing task to the launch unit, in the management class (R234), which is no access of memory; it is a release with
CMSG.REL. -/
def unitRequest (kind : ReqKind) (v : Nat) (cm : Cmsg) (s : State) : State :=
  let w := s.issuer
  let s1 := { (s.request w kind v cm .host .system (relOf cm) 0 []) with accs := s.accs }
  match s1.req? (nextReq s) with
  | some r => s1.post .management w.ni (launchFrom s.myTile) w.job 1 w.queue r.waits (.request r.id)
  | none => s1

/-- The shape of `sys.ctxsave` and `sys.ctxload`: a privileged request of n words with CMSG at a place. -/
def contextRequest (n cmAt : Nat) (ok : List Word → Bool) (kind : List Word → ReqKind) (a b : Name) (s : State) : Res := do
  need s.me.privileged .priv
  srcs [b]
  let j ← theJob s
  let words ← block s a n
  limits (ok words)
  cmsgLimits j (words.getD cmAt 0) false
  ready (!s.niFull s.myCore)
  blockOk s a n
  let v ← rd s 60 b
  let s1 ← takeWeight s v.toNat
  fall (unitRequest (kind words) v.toNat ⟨words.getD cmAt 0, words.getD (cmAt + 1) 0⟩ s1)

/-- `sys.ctxsave` (R352) -/
def execSysCtxsave (a b : Name) (m : Mark) (s : State) : Host.Outcome State Fault Refusal :=
  issue32 m s (contextRequest 4 2 (fun b => decide (wordAt b 0 < 1024)) (fun b => .ctxsave (wordAt b 0) (wordAt b 1)) a b s)

/-- `sys.ctxload` (R352) -/
def execSysCtxload (a b : Name) (m : Mark) (s : State) : Host.Outcome State Fault Refusal :=
  issue32 m s (contextRequest 3 1 (fun _ => true) (fun b => .ctxload (wordAt b 0)) a b s)

/-! ## Halt and notes -/

/-- The device stops: no core issues and no launch starts until a reset, and the host is told a code (R353, R377). -/
def State.haltWith (s : State) (code : Nat) : State := { s with halted := some code, log := s.log ++ [LogEntry.halted code] }

/-- `sys.halt` (R353) -/
def execSysHalt (a : Name) (m : Mark) (s : State) : Host.Outcome State Fault Refusal :=
  issue32 m s (do
    need s.me.privileged .priv
    srcs [a]
    let x ← rd s 0 a
    fall (s.haltWith (x.toNat % 2 ^ 32)))

/-- `sys.sysnote` (R354): the oldest entry of a full buffer is dropped. -/
def execSysSysnote (a b : Name) (m : Mark) (s : State) : Host.Outcome State Fault Refusal :=
  issue32 m s (do
    srcs [a, b]
    let x ← rd s 0 a
    let y ← rd s 1 b
    let c := s.me
    let t := s.trace ++ [(⟨x, y, c.job, c.vcore, c.pc, (value s 2 .clk).toNat⟩ : Note)]
    fall { s with trace := t.drop (t.length - Config.traceSize) })

end Sys2Proof.Machine
end

