-- ==== Sys2Proof/Machine/Launch.lean ====
section
/-! DEFINITION. The launch unit: its queues (R276, R277, R287), the checks of a record (R278 to R281, R316, R335), placement (R283,
R284), the creation and loading of a context (R282, R241, R316, R317), and its restoring (R359, R360). -/

namespace Sys2Proof.Machine

/-! ## Reading records and tables -/

/-- Why the launch unit cannot go on with a record: it is refused, under one of some codes, or a page it reads has first to be
brought in from storage. -/
inductive Held where
  | refuse (codes : List Nat)
  | serve (s : State)
  deriving DecidableEq, Repr

/-- Reads bytes on the HOST path at a virtual address, each old or new by itself (R318); none where a page is missing. `n` counts the
bytes. -/
def State.readHost (s : State) (know : Know) (pt va : Nat) : Nat → Option (List Byte)
  | 0 => some []
  | n + 1 =>
    match s.lookup pt va, s.readHost know pt (va + 1) n with
    | some (pa, _), some l => match physSpace pa with
      | some (sp, a) => some (s.readBytes (readerOf s .host 0 know) sp a 1 (2 ^ 20 + va) ++ l)
      | none => none
    | _, _ => none

/-- The first page of a range that is not present, where it is a page in storage: its entry's address, the locator and log2 of its
size. `n` counts 64 KiB steps. -/
def State.storedIn (s : State) (pt va len : Nat) : Nat → Option (Nat × Nat × Nat)
  | 0 => none
  | n + 1 =>
    if len = 0 then none
    else
      match s.walk pt va with
      | .page _ _ _ _ => let step := 65536 - va % 65536; s.storedIn pt (va + step) (len - step) n
      | .locator e addr bits => some (addr, e, bits)
      | .nomap => none
      | .badcmd => none

/-- Reads bytes for the launch unit: a page in storage is brought in first; one that is neither present nor in storage gives NOMAP. -/
def State.readTable (s : State) (know : Know) (pt va n : Nat) : Except Held (List Byte) :=
  match s.readHost know pt va n with
  | some l => .ok l
  | none => match s.storedIn pt va n (n / 65536 + 2) with
    | some (addr, e, bits) => .error (.serve (s.handOver addr e bits))
    | none => .error (.refuse [24])

/-! ## The record (R278, R279) -/

/-- The number of virtual tiles on each device: T / D is the product of the counts below the system levels, and 0 for a record whose LEVEL0
COUNT is 0. -/
def vtilesOf (ls : List Level) : Nat :=
  match ls with
  | [] => 0
  | l :: _ => if l.count = 0 then 0 else countProduct (ls.filter (fun l => l.domain != 0 && decide (l.domain ≤ 3)))

/-- D: the number of devices. -/
def devicesOf (ls : List Level) : Nat := countProduct (ls.filter (fun l => l.domain == 0))

/-- A record whose LEVEL0 COUNT is 0 (R285). -/
def zeroCount (words : List Word) : Bool := match levelsOf words with
  | l :: _ => l.count == 0
  | [] => true

/-- DOMAIN never decreases. -/
def domainsRise : List Level → Bool
  | a :: b :: t => decide (a.domain ≤ b.domain) && domainsRise (b :: t)
  | _ => true

/-- The hierarchy breaks R279. -/
def badLevels (ls : List Level) : Bool :=
  !domainsRise ls || ls.any (fun l => decide (4 < l.domain)) || !(ls.any (fun l => l.domain == 3))
    || decide (8 < countProduct (ls.filter (fun l => l.domain == 4)))
    || (ls.drop 1).any (fun l => l.count == 0) || ls.any (fun l => l.policy == 1 && !l.restart)

/-- The virtual tiles of a unit of the deepest die-domain level; none where there is no such level (R283). -/
def dieGroup (ls : List Level) : Option Nat :=
  if ls.any (fun l => l.domain == 2) then some (countProduct (ls.filter (fun l => l.domain == 3))) else none

/-- A power of two between two others. -/
def powerIn (n lo hi : Nat) : Bool := (List.range (hi + 1)).any (fun k => decide (lo ≤ k) && n == 2 ^ k)

/-- A field of a record is out of its range, or a reserved bit is set (R278). -/
def badRecord (w : List Word) : Bool :=
  let w0 := wordAt w 0
  let nlev := fieldOf w0 29 3
  fieldOf w0 0 16 != 0xC4A7 || fieldOf w0 16 8 != 1 || decide (fieldOf w0 24 5 < 6) || decide (232 < fieldOf w0 40 8)
    || decide (16 < fieldOf w0 48 5) || decide (16 < fieldOf w0 53 5) || decide (32 < fieldOf w0 58 6)
    || wordAt w 1 % 32768 != 0 || (match physSpace (wordAt w 1) with | some (.hbm, _) => false | _ => true)
    || wordAt w 5 % 128 != 0 || wordAt w 6 % 65536 != 0 || fieldOf (wordAt w 7) 32 32 != 0
    || !powerIn (wordAt w 7) 6 24 || fieldOf (wordAt w 10) 28 36 != 0
    || [11, 12, 13, 14, 15].any (fun i => wordAt w i != 0 && !handleForm (wordAt w i))
    || (List.range 8).any (fun i => if i ≤ nlev then decide (2 ^ 25 ≤ wordAt w (32 + i)) else wordAt w (32 + i) != 0)
    || (!zeroCount w && decide (devicesOf (levelsOf w) ≤ fieldOf (wordAt w 10) 16 12))

/-- A share of a core or a tile that none of them could give even when empty (R281). -/
def overShare (w : List Word) : Bool :=
  let w0 := wordAt w 0
  decide (232 < fieldOf w0 40 8) || decide (16 < fieldOf w0 48 5) || decide (16 < fieldOf w0 53 5) || decide (32 < fieldOf w0 58 6)

/-- TBANKS of a record. -/
def recBanks (w : List Word) : Nat := let q := fieldOf (wordAt w 0) 53 5; if q = 0 then 16 else q

/-- LSIZE of a record. -/
def sizeOfLocal (w : List Word) : Nat := let q := fieldOf (wordAt w 0) 48 5; if q = 0 then 16 else q

/-- The refusals a record meets by itself (R281); where the spec gives a field no code of its own, each that fits. -/
def recordFaults (w : List Word) : List Nat :=
  let ls := levelsOf w
  let vfmtBad := !vfmtValid (wordAt w 8)
  let scopeBad := (List.range (fieldOf (wordAt w 0) 29 3 + 1)).any (fun i => decide (5 < fieldOf (wordAt w (32 + i)) 19 3))
  let banks := (List.range 16).any (fun b => wordAt w (16 + b) != 0 && (decide (recBanks w ≤ b) || !descValid (wordAt w (16 + b))))
  (if badRecord w || vfmtBad || scopeBad then [16] else [])
    ++ (if badLevels ls || scopeBad then [17] else [])
    ++ (if banks || vfmtBad then [20] else [])
    ++ (if decide (2048 < vtilesOf ls) || (match dieGroup ls with | some g => decide (256 < g) | none => false) || overShare w then [21] else [])

/-! ## The image table (R316, R317) -/

/-- What an image table gives: the code, the routine table's bytes, the data records and the digest expected of them. -/
structure Image where
  code : List Byte
  rtab : List Byte
  recs : List (Word × List Byte)
  digest : List Byte
  deriving DecidableEq, Repr

/-- ADDR, TILE and LEN of a data record. -/
def dataAddr (w : Word) : Nat := fieldOf w.toNat 0 21
/-- TILE -/
def dataTile (w : Word) : Bool := w.toNat.testBit 21
/-- LEN -/
def dataLen (w : Word) : Nat := fieldOf w.toNat 22 21

/-- A data record breaks R316, in a job of a record. -/
def badData (words : List Word) (w : Word) : Bool :=
  let stop := dataAddr w + dataLen w
  decide (2 ^ 43 ≤ w.toNat) || dataLen w == 0 || decide (0x100000 < dataLen w)
    || (if dataTile w then decide (65536 * recBanks words < stop) else decide (4096 * sizeOfLocal words < stop))

/-- Reads the data of the records of an image table. -/
def readRecs (s : State) (know : Know) (pt : Nat) : List (Word × Word) → Except Held (List (Word × List Byte))
  | [] => .ok []
  | r :: t => do
    let bs ← s.readTable know pt r.2.toNat (dataLen r.1)
    let l ← readRecs s know pt t
    .ok ((r.1, bs) :: l)

/-- Words in pairs. -/
def pairsOf : List Word → List (Word × Word)
  | a :: b :: t => (a, b) :: pairsOf t
  | _ => []

/-- Reads the image a record names. -/
def readImage (s : State) (know : Know) (words : List Word) : Except Held Image := do
  let pt := wordAt words 1
  let at_ := wordAt words 3
  let head ← s.readTable know pt at_ 88
  let h := leWords head 11
  let csize := fieldOf (wordAt h 0) 0 18
  let n := fieldOf (wordAt h 0) 18 16
  if 2 ^ 34 ≤ wordAt h 0 ∨ csize % 2 = 1 ∨ csize < 2 then .error (.refuse [16])
  else if 0x20000 < csize then .error (.refuse [16, 21])
  else
    let tail ← s.readTable know pt (at_ + 88) (16 * n)
    let recs := pairsOf (leWords tail (2 * n))
    if recs.any (fun r => badData words r.1) then .error (.refuse [16])
    else
      let code ← s.readTable know pt (wordAt h 1) csize
      let rtab ← s.readTable know pt (wordAt h 2) 4096
      let data ← readRecs s know pt recs
      .ok ⟨code, rtab, data, head.drop 24⟩

/-- The digest of an image (R317). -/
def Image.measure (x : Image) : List Byte :=
  sha512 (x.code ++ x.rtab ++ x.recs.flatMap (fun r => wordBytes r.1 ++ List.replicate 8 0 ++ r.2))

/-- The entries of a routine table. -/
def routinesOf (bs : List Byte) : List (Word × Word) := pairsOf (leWords bs 512)

/-- A valid entry breaks R140 (R141). -/
def badRoutine (e : Word × Word) : Bool :=
  let a := e.1.toNat
  a.testBit 63 && (a % 2 == 1 || decide (32 < fieldOf a 17 6) || fieldOf a 25 7 != 0 || fieldOf a 56 7 != 0
    || decide (fieldOf a 32 24 < 64) || fieldOf e.2.toNat 48 16 != 0)

/-- A valid entry of a class in a table. -/
def hasRoutine (rt : List (Word × Word)) (cls : Nat) : Bool := match rt[cls]? with
  | some e => e.1.toNat.testBit 63
  | none => false

/-! ## The action area (R335) -/

/-- An action area. -/
structure Actions where
  acts : List Word
  ovr : List Word
  pqBase : Nat
  pqN : Nat
  deriving DecidableEq, Repr

/-- The action area in its bytes. -/
def actionsOf (bs : List Byte) : Actions :=
  let h := leWords bs 35
  ⟨h.take 32, leWords (bs.drop 280) (fieldOf (wordAt h 32) 0 16), wordAt h 33, fieldOf (wordAt h 34) 0 32⟩

/-- Reads an action area at an address. -/
def readActions (s : State) (know : Know) (pt va : Nat) : Except Held (List Byte) := do
  let h ← s.readTable know pt va 280
  let l ← s.readTable know pt (va + 280) (8 * fieldOf (wordAt (leWords h 35) 32) 0 16)
  .ok (h ++ l)

/-- The refusals an action area meets, with the job's routines and its virtual tiles. -/
def actionFaults (bs : List Byte) (rt : List (Word × Word)) (v : Nat) : List Nat :=
  let h := leWords bs 35
  let x := actionsOf bs
  let l := x.acts ++ x.ovr
  (if fieldOf (wordAt h 32) 16 48 != 0 || fieldOf (wordAt h 34) 32 32 != 0 || x.pqBase % 64 != 0
      || (x.pqN != 0 && !powerIn x.pqN 4 16) || l.any (fun e => decide (2 ^ 27 ≤ e.toNat))
      || l.any (fun e => e.toNat.testBit 12 && decide (8 * v ≤ fieldOf e.toNat 13 14)) then [16] else [])
    ++ (if l.any (fun e => decide (2 ≤ actAct e) && !hasRoutine rt (actClass e))
      || rt.any (fun e => e.1.toNat.testBit 63 && decide (x.ovr.length < rtOvrIdx e + onesBelow (rtOvrMask e) 32)) then [19] else [])

/-! ## Root messages (R280) -/

/-- The root messages in their bytes, as messages of a job. -/
def rootsOf (job : Nat) (acq : Option Rel) (bs : List Byte) (n : Nat) : List Msg :=
  (List.range n).map (fun i =>
    let w := leWords (bs.drop (128 * i)) 16
    let h := w.getD 0 0
    ⟨job, h, (w.drop 1).take (hdrLen h), 0, hdrVcore h, 0, false, 0, acq, 0⟩)

/-- The refusals the root messages meet. -/
def rootFaults (bs : List Byte) (n v k : Nat) (rt : List (Word × Word)) : List Nat :=
  let l := (List.range n).map (fun i => leWords (bs.drop (128 * i)) 16)
  let form (w : List Word) : Bool :=
    let h := w.getD 0 0
    hdrKind h != 0 || hdrMode h == 3 || (hdrMode h == 2 && hdrLen h == 0) || (w.drop (1 + hdrLen h)).any (fun x => x != 0)
  let bad (w : List Word) : Bool :=
    let h := w.getD 0 0
    hdrWeight h == 0 || decide (8 * v ≤ hdrVcore h) || !hasRoutine rt (hdrClass h)
  (if l.any form then [16, 18] else [])
    ++ (if l.any bad || decide (2 ^ k < sumBy (fun w => hdrWeight (w.getD 0 0)) l) then [18] else [])

/-! ## The checks of step 1 (R282) -/

/-- The tables a record names. -/
structure Tables where
  image : Image
  rtab : List (Word × Word)
  actions : Actions
  msgs : List Byte
  deriving DecidableEq, Repr

/-- K of a record. -/
def kOf (w : List Word) : Nat := fieldOf (wordAt w 0) 24 5
/-- NMSG of a record. -/
def nmsgOf (w : List Word) : Nat := fieldOf (wordAt w 0) 32 8

/-- The checks that need no futures and no tiles, and the tables they read. -/
def launchCheck (s : State) (know : Know) (w : List Word) : Except Held Tables :=
  match recordFaults w with
  | c :: t => .error (.refuse (c :: t))
  | [] => do
    let pt := wordAt w 1
    let v := vtilesOf (levelsOf w)
    let img ← readImage s know w
    let rt := routinesOf img.rtab
    let ab ← readActions s know pt (wordAt w 4)
    let x := actionsOf ab
    let mb ← s.readTable know pt (wordAt w 5) (128 * nmsgOf w)
    let ring := 144 * fieldOf (wordAt w 7) 0 32
    let faults := (if rt.any badRoutine then [19] else []) ++ actionFaults ab rt v ++ rootFaults mb (nmsgOf w) v (kOf w) rt
      ++ (if !s.pinned pt (wordAt w 6) ring (ring / 65536 + 2)
          || (x.pqN != 0 && !s.pinned pt x.pqBase (160 * x.pqN) (160 * x.pqN / 65536 + 2)) then [22] else [])
    match faults with
    | [] => .ok ⟨img, rt, x, mb⟩
    | c :: t => .error (.refuse (c :: t))

/-! ## Placement (R283, R284) -/

/-- The tiles of a die in its order: 4 × 4 blocks from the north-west, row-major, and tiles within a block row-major. -/
def dieOrder (d : Nat) : List Nat :=
  (List.range 4).flatMap (fun bY => (List.range 4).flatMap (fun bX => (List.range 4).flatMap (fun y => (List.range 4).map (fun x =>
    16 * d + 4 * bX + x + 128 * (4 * bY + y)))))

/-- SHARE, QUOTA, LSIZE, TBANKS and CSIZE of a job. -/
def Job.needs (j : Job) : List Nat := [1, j.quota, j.lsize, j.share, j.tbanks, j.csize]

/-- A tile is free for a job with given needs (R284). -/
def tileFree (s : State) (need : List Nat) (t : Nat) : Bool :=
  let here := (s.jobs.filter (fun e => e.2.place.contains t)).map (fun e => e.2.needs)
  let sums := here.foldl (fun (a b : List Nat) => List.zipWith (· + ·) a b) need
  (List.zip sums [4, 232, 16, 32, 16, 131072]).all (fun x => decide (x.1 ≤ x.2))

/-- Inserts a die by its free tiles, most first. -/
def insertDie (d : Nat × List Nat) : List (Nat × List Nat) → List (Nat × List Nat)
  | [] => [d]
  | e :: t => if e.2.length < d.2.length then d :: e :: t else e :: insertDie d t

/-- The dies with their free tiles, ranked. -/
def rankedDies (s : State) (need : List Nat) : List (Nat × List Nat) :=
  ((List.range 8).map (fun d => (d, (dieOrder d).filter (tileFree s need)))).foldl (fun l d => insertDie d l) []

/-- Takes n tiles of the first ranked die that has room for them. -/
def takeGroup (n : Nat) : List (Nat × List Nat) → Option (List Nat × List (Nat × List Nat))
  | [] => none
  | e :: t =>
    if n ≤ e.2.length then some (e.2.take n, (e.1, e.2.drop n) :: t)
    else match takeGroup n t with
      | some (l, r) => some (l, e :: r)
      | none => none

/-- Places groups of n tiles one after another. -/
def placeGroups (n : Nat) : Nat → List (Nat × List Nat) → Option (List Nat)
  | 0, _ => some []
  | k + 1, dies =>
    match takeGroup n dies with
    | some (l, rest) => (placeGroups n k rest).map (fun t => l ++ t)
    | none => none

/-- The tiles of a job's virtual tiles in their order; none where they do not all find room (R283). -/
def State.placement (s : State) (ls : List Level) (need : List Nat) : Option (List Nat) :=
  let v := vtilesOf ls
  let dies := rankedDies s need
  match dieGroup ls with
  | some g => placeGroups g (v / g) dies
  | none =>
    let l := (dies.flatMap (fun e => e.2)).take v
    if l.length = v then some l else none

/-- The lowest free JOBID (log 15). -/
def State.freeJob (s : State) : Option Nat := (List.range 1024).find? (fun n => (s.jobs.get? n).isNone)

/-! ## Creation (R282 step 4) -/

/-- The context of a record on this device as it begins. -/
def newJob (words : List Word) (source addr parent : Nat) (privileged : Bool) (place : List Nat) (csize : Nat)
    (rtab : List (Word × Word)) (x : Actions) (roots : List Msg) : Job where
  words := words
  addr := addr
  source := source
  parent := parent
  privileged := privileged
  phase := .loading
  vtiles := vtilesOf (levelsOf words)
  place := place
  csize := csize
  rtab := rtab
  acts := x.acts
  ovr := x.ovr
  pqBase := x.pqBase
  pqN := x.pqN
  pqCount := 0
  die := tileDie (place.getD 0 0)
  homew := 2 ^ kOf words - sumBy (fun m => hdrWeight m.hdr) roots
  wtotal := kOf words
  armed := false
  loss := false
  uncertain := false
  census := none
  drawq := []
  ownDraws := []
  qvcore := 0
  qclass := 0
  lostw := 0
  killw := 0
  woff := 0
  ring := []
  ringTail := 0
  ringNotice := false
  ringOffer := none
  jtag := 0
  tvalid := false
  parked := false
  discarding := []
  retries := []
  retryDue := []
  saveReq := none
  spillBase := 0
  spill := []
  roots := roots
  killed := false
  copyNow := (0, 2 ^ kOf words - sumBy (fun m => hdrWeight m.hdr) roots)
  copyOld := (0, 2 ^ kOf words - sumBy (fun m => hdrWeight m.hdr) roots)
  copyClk := 0
  ndefs := []
  actOld := []
  homeAt := none

/-- Puts a context on the device: its memories hold zero, its TLB entries are dropped (R298), its tiles hold its formats, its cores
gain a resident, and its routines are measured. -/
def State.enter (s : State) (job : Nat) (j : Job) (formats : List (List Word)) (digest : List Byte) : State :=
  let s1 := ((s.clearJobMem job).dropTlb job).setJob job j
  let s2 := { s1 with
    bankfmt := ((List.range j.vtiles).zip formats).foldl (fun (m : Map (List Word)) (e : Nat × List Word) => m.set (job * 2048 + e.1) e.2) s1.bankfmt
    digests := s1.digests.set job digest }
  (coresOf j.place).foldl (fun s c => s.addResident c job) s2

/-! ## Queues (R276, R277) -/

/-- A queue of a number. -/
def State.queue (s : State) (q : Nat) : Queue := s.queues.getD q ⟨0, 0, 0, false, 0, 0, []⟩

/-- A queue's place in its ring. -/
def Queue.slot (q : Queue) (n : Nat) : Nat := n % 2 ^ q.log2n

/-- An enabled queue with a record. -/
def Queue.offers (q : Queue) : Bool := q.en && decide (4 ≤ q.log2n ∧ q.log2n ≤ 16) && q.slot q.head != q.slot q.tail

/-- The queues that offer a record, with their priorities, in queue order: the device-side queue counts as one of priority 3. -/
def offering (s : State) : List (Nat × Nat) :=
  let host := (s.queues.filter (fun (e : Nat × Queue) => e.2.offers)).map (fun (e : Nat × Queue) => (e.1, e.2.prio))
  host ++ (if s.deviceQ.isEmpty then [] else [(launchUnit, 3)])

/-- The head of a queue moves on: its record runs or has been refused. -/
def State.advanceQueue (s : State) (source : Nat) : State :=
  let s1 := { s with waiting := s.waiting.filter (fun l => l.source != source) }
  if source = launchUnit then { s1 with deviceQ := s1.deviceQ.drop 1 }
  else
    let q := s.queue source
    { s1 with queues := s1.queues.set source { q with head := q.slot (q.head + 1) } }

/-- A record is refused: no context is made, STATUS and DONEFUT say why (R281, R285). -/
def State.refuseRecord (s : State) (l : Launching) (codes : List Nat) : State :=
  let code := match codes with
    | [] => 16
    | c :: t => choose s 80 c t
  (s.endRecord l.source l.addr l.parent (l.words.getD 15 0) (statusOf code false false 0) plainRelease).advanceQueue l.source

/-- The futures a record waits on. -/
def depsOf (w : List Word) : List Nat := ([11, 12, 13, 14].map (wordAt w)).filter (fun h => h != 0)

/-- One of some futures is stale for the submitter of a record (R281, R285). -/
def anyStale (s : State) (l : Launching) (hs : List Nat) : Bool :=
  hs.any (fun h => (ownersOf s l.source l.parent).all (fun o => staleFor s h o))

/-- A future that a record still waits on has been freed (R282). -/
def depStale (s : State) (l : Launching) : Bool := anyStale s l (l.deps.map (·.toNat))

/-- Needs of a record (R284). -/
def needsOf (w : List Word) (csize : Nat) : List Nat :=
  let or_ (v d : Nat) : Nat := if v = 0 then d else v
  [1, or_ (fieldOf (wordAt w 0) 40 8) 232, sizeOfLocal w, or_ (fieldOf (wordAt w 0) 58 6) 32, recBanks w, csize]

/-- The tables of a record and the context and tiles it can have now; none while it waits for them (R282 step 3). -/
def launchPlace (s : State) (l : Launching) : Except Held (Option (Tables × Nat × List Nat)) := do
  let t ← launchCheck s l.know l.words
  match s.freeJob, s.placement (levelsOf l.words) (needsOf l.words t.image.code.length) with
  | some job, some place => .ok (some (t, job, place))
  | _, _ => .ok none

/-- A record that waits has no more to wait for: it is refused, completes at once or becomes a context (R282). -/
def mayGo (s : State) (l : Launching) : Bool :=
  depStale s l || (l.deps.isEmpty && (zeroCount l.words || (match launchPlace s l with
    | .ok none => false
    | _ => true)))

/-- The record of a source that waits at the head of its queue. -/
def waitingOf (s : State) (source : Nat) : Option Launching := s.waiting.find? (fun l => l.source == source)

/-- The queue whose record the launch unit turns to, with its priority (R277): it goes on with a record that has not had to wait; else the
highest priority is served, round-robin within it, a queue whose record waits being held back. -/
def nextQueue (s : State) : Option (Nat × Nat) :=
  match s.waiting.find? (·.fresh) with
  | some l => some (l.source, if l.source = launchUnit then 3 else (s.queue l.source).prio)
  | none =>
    let l := (offering s).filter (fun e => match waitingOf s e.1 with
      | some w => mayGo s w
      | none => true)
    match [3, 2, 1, 0].find? (fun p => l.any (fun e => e.2 == p)) with
    | none => none
    | some p =>
      let l := l.filter (fun e => e.2 == p)
      match l.find? (fun e => decide (s.rrQueue.getD p 0 ≤ e.1)) with
      | some e => some e
      | none => l[0]?

/-- The queue after one in the round-robin of a priority is next. -/
def State.servedQueue (s : State) (source prio : Nat) : State := { s with rrQueue := s.rrQueue.set prio (source + 1), free := s.free + 1 }

/-- The record at the head of a queue. -/
def State.recordOf (s : State) (source : Nat) : Option Launching :=
  if source = launchUnit then s.deviceQ[0]?
  else
    let q := s.queue source
    let rdr := readerOf s .host 0 q.know
    let addr := leNat (s.readBytes rdr .host (q.qbase.toNat + 8 * q.slot q.head) 8 81)
    some ⟨source, addr, 0, s.privvf.toNat.testBit (source / 16), leWords (s.readBytes rdr .host addr 320 82) 40, q.know, 0, [], true⟩

/-- The launch unit takes a record, checks it (R282 step 1) and begins waiting (step 2); it takes none while another goes on (R277). -/
def execLaunchRecordTake (s : State) : Host.Outcome State Fault Refusal :=
  match nextQueue s with
  | none => .next s
  | some (source, prio) =>
    if !s.live ∨ s.loading.isSome ∨ (waitingOf s source).isSome then .next s
    else
      let s1 := s.servedQueue source prio
      match s.recordOf source with
      | none => .next s
      | some l =>
        match launchCheck s l.know l.words with
        | .error (.serve t) => .next t
        | .error (.refuse codes) => .next (s1.refuseRecord l codes)
        | .ok _ =>
          let done := wordAt l.words 15
          if anyStale s l (depsOf l.words ++ (if done = 0 then [] else [done])) then .next (s1.refuseRecord l [23])
          else
            let deps := ((depsOf l.words).filter (fun h => !(s.future h).set)).map (BitVec.ofNat 64)
            .next { (s1.writeStatus l.source l.addr l.parent (statusOf 1 false false 0) plainRelease) with
              waiting := s1.waiting ++ [{ l with deps := deps, fresh := true }] }

/-! ## Waiting and creation (R282 steps 2 to 5) -/

/-- Cuts bytes for one place of a tile into chunks of 4 KiB. `n` counts the chunks. -/
def cutChunks (sp : Space) (core : Option Nat) (a : Nat) (bs : List Byte) : Nat → List ChainChunk
  | 0 => []
  | n + 1 => if bs.isEmpty then [] else ⟨sp, core, a, bs.take 4096⟩ :: cutChunks sp core (a + 4096) (bs.drop 4096) n

/-- The chunks of bytes for one place of a tile. -/
def chunked (sp : Space) (core : Option Nat) (a : Nat) (bs : List Byte) : List ChainChunk := cutChunks sp core a bs (bs.length / 4096 + 1)

/-- What a launch loads into every tile, in order: the code, then the data records (R316). -/
def Image.chunks (x : Image) : List ChainChunk :=
  chunked .code none 0 x.code ++ x.recs.flatMap (fun r => chunked (if dataTile r.1 then .scratch else .loc) none (dataAddr r.1) r.2)

/-- The controller keeps the last 256 launches since reset for its reports (R375). -/
def Melbex.noteLaunch (m : Melbex) (job : Nat) (digest : List Byte) : Melbex :=
  let l := m.launches ++ [(job, digest)]
  { m with launches := l.drop (l.length - 256) }

/-- The launch unit, as a tile's packets reach it (R233). -/
def launchAt (tile : Nat) : Endpoint := .west (tileY tile)

/-- The launch unit reserves a buffer of the first node of its chain for the next chunk. -/
def State.reserveFirst (s : State) (c : Chain) : State :=
  match c.nodes with
  | t :: _ => s.post .management (launchAt t) (.ni t) c.job 1 0 [] (.chainReserve c.job 0)
  | [] => s

/-- The launch unit begins a chain, and keeps those that follow it. -/
def State.runChains (s : State) : List Chain → State
  | [] => { s with chains := [] }
  | c :: t => ({ s with chains := c :: t }).reserveFirst c

/-- A chain through tiles, as it begins. -/
def newChain (job : Nat) (nodes : List Nat) (chunks : List ChainChunk) : Chain :=
  ⟨job, nodes, List.replicate nodes.length 0, List.replicate nodes.length 0, chunks⟩

/-- Creates the context of a record and starts the chain that loads it. -/
def State.create (s : State) (l : Launching) (t : Tables) (job : Nat) (place : List Nat) : State :=
  let acq : Option Rel := if l.source < launchUnit then some ⟨.system, 0, l.know.allPaths, []⟩ else none
  let tag := s.jobTags.getD job 0
  let j := { newJob l.words l.source l.addr l.parent l.privileged place t.image.code.length t.rtab t.actions
    (rootsOf job acq t.msgs (nmsgOf l.words)) with jtag := tag % 65536, tvalid := tag.testBit 16, copyClk := s.clk }
  let fmts := List.replicate j.vtiles ((List.range 16).map (fun b => l.words.getD (16 + b) 0))
  let s1 := s.enter job j fmts t.image.measure
  { s1 with
    waiting := s1.waiting.filter (fun x => x.source != l.source)
    jobTags := s1.jobTags.del job
    melbex := s1.melbex.noteLaunch job t.image.measure
    loading := some { l with job := job } }.runChains [newChain job place t.image.chunks]

/-- A record of no tiles completes at once, and its checkpoint begins (R285, R361). -/
def State.zeroLaunch (s : State) (l : Launching) : State :=
  ((s.endRecord l.source l.addr l.parent (l.words.getD 15 0) (statusOf 3 false false 0) plainRelease).advanceQueue l.source).startCkpt
    l.words (fieldOf (wordAt l.words 10) 16 12) 0

/-- Once its futures are SET, and a JOBID and a place are free, the record the launch unit turns to becomes a context (R277, R282), unless
the bytes read differ from its digest (R317); one of no tiles completes at once (R285). -/
def execLaunchCreate (source : Nat) (s : State) : Host.Outcome State Fault Refusal :=
  match nextQueue s, waitingOf s source with
  | some (q, prio), some l =>
    if q ≠ source ∨ !s.live ∨ s.loading.isSome then .next s
    else
      let s1 := s.servedQueue source prio
      let stays : State := { s with
        waiting := replaceIf (fun x => x.source == source) (fun x => { x with fresh := false }) s.waiting, free := s.free + 1 }
      if depStale s l then .next (s1.refuseRecord l [23])
      else if !l.deps.isEmpty then .next stays
      else if zeroCount l.words then .next (s1.zeroLaunch l)
      else
        match launchPlace s l with
        | .error (.serve t) => .next t
        | .error (.refuse codes) => .next (s1.refuseRecord l codes)
        | .ok none => .next stays
        | .ok (some (t, job, place)) =>
          if t.image.measure ≠ t.image.digest then .next (s1.refuseRecord l [16]) else .next (s1.create l t job place)
  | _, _ => .next s

/-! ## Chains (R241, R242) -/

/-- Writes a chunk into the virtual tile of a job. -/
def State.loadChunk (s : State) (job vt : Nat) (c : ChainChunk) : State :=
  match c.space with
  | .loc =>
    (match c.core with
    | some k => [k]
    | none => List.range 8).foldl (fun s k => s.loadBytes .loc (locAddr job (8 * vt + k) c.addr) c.data) s
  | .scratch => s.loadBytes .scratch (scratchAddr job vt c.addr) c.data
  | _ => s.loadBytes .code (codeAddr job vt c.addr) c.data

/-- The number of chain buffers of a tile in use. -/
def State.addBufs (s : State) (tile : Nat) (f : Nat → Nat) : State := s.updTile tile (fun t => { t with chainBufs := f t.chainBufs })

/-- A packet of the chain that has reached its destination. -/
def chainPacket (s : State) (dst : Endpoint) (b : Body) : Option Packet :=
  (s.packets.find? (fun p => p.dst == dst && p.body == b)).bind (fun p => s.arrived? p.id)

/-- Where the node before place i of a chain stands: a tile, or the launch unit. -/
def Chain.before (c : Chain) (i : Nat) : Endpoint :=
  if i = 0 then launchAt (c.nodes.getD 0 0) else .ni (c.nodes.getD (i - 1) 0)

/-- The chunks of a chain that its place i has been sent. -/
def chunksSent (s : State) (c : Chain) (i : Nat) : Nat :=
  c.written.getD i 0 + (s.packets.filter (fun p => p.body == .chainChunk c.job i)).length

/-- The flits of a chunk. -/
def chunkFlits (c : ChainChunk) : Nat := (16 + c.data.length + 31) / 32

/-- A node grants a free chain buffer for a reserve that has come, or its grant has come back to the node before it, which forwards its
chunk; the launch unit then reserves for the next one. -/
def execChainGrant (node : Nat) (s : State) : Host.Outcome State Fault Refusal :=
  match s.chains with
  | [] => .next s
  | c :: rest =>
    let i := c.nodes.idxOf node
    let send (s : State) (src dst : Endpoint) (flits : Nat) (b : Body) : State := s.post .management src dst c.job flits 0 [] b
    if c.nodes.length ≤ i then .next s
    else
      match chainPacket s (.ni node) (.chainReserve c.job i), chainPacket s (c.before i) (.chainGrant c.job i) with
      | _, some p =>
        let k := chunksSent s c i
        (match c.chunks[k]? with
        | some x =>
          let s1 := send (s.dropPacket p.id) (c.before i) (.ni node) (chunkFlits x) (.chainChunk c.job i)
          .next (if i = 0 ∧ k + 1 < c.chunks.length then s1.reserveFirst c else s1)
        | none => .next s)
      | some p, none =>
        if (s.tile node).chainBufs < 2 then
          .next (send { ((s.dropPacket p.id).addBufs node (fun n => n + 1)) with
            chains := { c with granted := c.granted.set i (c.granted.getD i 0 + 1) } :: rest } (.ni node) (c.before i) 1 (.chainGrant c.job i))
        else .next s
      | none, none => .next s

/-- A node receives a chunk into a buffer it has granted and writes it to its tile; the buffer it came from is free, since it has left. It
then reserves the next node; the last node frees its own buffer, and reports the last chunk to the launch unit. -/
def execChainChunk (node : Nat) (s : State) : Host.Outcome State Fault Refusal :=
  match s.chains with
  | [] => .next s
  | c :: rest =>
    let i := c.nodes.idxOf node
    let n := c.written.getD i 0
    match c.chunks[n]?, chainPacket s (.ni node) (.chainChunk c.job i), s.job? c.job with
    | some x, some p, some j =>
      let s1 := (s.dropPacket p.id).loadChunk c.job (j.place.idxOf node) x
      let s2 := if i = 0 then s1 else s1.addBufs (c.nodes.getD (i - 1) 0) (fun n => n - 1)
      let s3 := { s2 with chains := { c with written := c.written.set i (n + 1) } :: rest }
      let send (s : State) (dst : Endpoint) (b : Body) : State := s.post .management (.ni node) dst c.job 1 0 [] b
      if i + 1 < c.nodes.length then .next (send s3 (.ni (c.nodes.getD (i + 1) 0)) (.chainReserve c.job (i + 1)))
      else
        let s4 := s3.addBufs node (fun n => n - 1)
        .next (if n + 1 = c.chunks.length then send s4 (launchAt node) (.chainReport c.job) else s4)
    | _, _, _ => .next s

/-- The report of the chain at hand that has come to the launch unit. -/
def chainReport (s : State) : Option Packet :=
  match s.chains with
  | c :: _ => chainPacket s (launchAt (c.nodes.getLastD 0)) (.chainReport c.job)
  | [] => none

/-- The root messages leave the home (R280); those of a job killed before it ran return their weight KILLED. -/
def State.injectRoots (s : State) (job : Nat) (j : Job) : State :=
  let src := Endpoint.unit j.die
  j.roots.foldl (fun s m => if j.killed then s.pod src job (hdrWeight m.hdr) false true else s.sendMsg m src (.ni (messageTile s j m src)) 0) s

/-- Once its chain has been reported, the launch runs: CODE 2, and its root messages are injected (R282 steps 5 and 6, R277). -/
def execRootInject (s : State) : Host.Outcome State Fault Refusal :=
  match s.loading, chainReport s with
  | some l, some p =>
    match s.job? l.job with
    | none => .next s
    | some j =>
      if launchUnit < l.source ∨ !s.live then .next s
      else
        let j1 := { j with phase := Phase.running }
        let s1 := ((s.dropPacket p.id).setJob l.job j1).writeStatus l.source l.addr l.parent (statusOf 2 false false l.job) plainRelease
        let s2 := ({ s1 with loading := none, chains := [] }).advanceQueue l.source
        .next { (s2.injectRoots l.job j1) with free := s.free + 1 }
  | _, _ => .next s

/-! ## Requests to the launch unit (R286, R287, R352) -/

/-- `launch` (R286) -/
def execLaunch (a b : Name) (m : Mark) (s : State) : Host.Outcome State Fault Refusal :=
  issue32 m s (do
    srcs [b]
    let j ← theJob s
    let words ← block s a 3
    limits (wordAt words 0 % 64 == 0 && decide (wordAt words 0 < 2 ^ 52))
    cmsgLimits j (words.getD 1 0) false
    ready (niRoom s .die)
    blockOk s a 3
    let v ← rd s 60 b
    let s1 ← takeWeight s v.toNat
    let w := s1.issuer
    let cm : Cmsg := ⟨words.getD 1 0, words.getD 2 0⟩
    let s2 := s1.request w (.launch (wordAt words 0)) v.toNat cm .host .die (relOf cm) 0 [globalRange w.job (wordAt words 0) 320]
    fall (s2.postReq w (nextReq s1) (launchFrom s.myTile)))

/-- A `launch` reaches the launch unit: its record is read through its issuer's translation and joins the device-side queue, or the
full queue refuses it (R286, R287). -/
def State.takeLaunch (s : State) (p : Packet) (r : Req) (j : Job) (addr : Nat) : State :=
  if 256 ≤ s.deviceQ.length then (s.dropPacket p.id).reply p.dst p.src r.job (.requestRefused r.id)
  else
    let know := r.know ++ (match r.rel with
      | some x => x.knows s
      | none => [])
    match s.readTable know j.ptroot addr 320 with
    | .ok bs =>
      { ((s.dropPacket p.id).performAcc r.acc) with
        deviceQ := s.deviceQ ++ [(⟨launchUnit, addr, r.id, j.privileged, leWords bs 40, know, 0, [], true⟩ : Launching)] }
    | .error (.serve t) => t
    | .error (.refuse _) => (s.dropPacket p.id).finishAt { r with code := 5 } [statusOf 24 false false 0]

/-- A `sys.ctxsave` marks a context (R352): one that is not the issuer's own, stands on the device and has no mark yet. -/
def State.markSave (s : State) (r : Req) (job area : Nat) : State :=
  match s.job? job with
  | some j =>
    if job = r.job ∨ j.saveReq.isSome then s.finishAt { r with code := 12 } [0]
    else s.setJob job { j with saveReq := some (r.id, area) }
  | none => s.finishAt { r with code := 12 } [0]

/-- A request reaches the launch unit. -/
def execLaunchRequestArrival (pkt : Nat) (s : State) : Host.Outcome State Fault Refusal :=
  match s.arrived? pkt with
  | some p =>
    match p.dst, p.body with
    | .west _, .request id =>
      match s.req? id with
      | some r =>
        match r.kind, s.job? r.job with
        | .launch addr, some j => .next { (s.takeLaunch p r j addr) with free := s.free + 1 }
        | .ctxsave job area, some _ => .next { ((s.dropPacket pkt).markSave r job area) with free := s.free + 1 }
        | .ctxload _, some _ => .next { (s.dropPacket pkt) with restores := s.restores ++ [id] }
        | _, _ => .next s
      | none => .next s
    | _, _ => .next s
  | none => .next s

/-- A `launch` that the full queue refused is sent again 64 clk after its refusal reached the NI (R287, R381). -/
def execLaunchResend (req : Nat) (s : State) : Host.Outcome State Fault Refusal :=
  match s.req? req with
  | some r =>
    match r.kind with
    | .launch _ =>
      if r.due ≠ 0 ∧ r.due ≤ s.clk then
        .next ((s.updReq req (fun r => { r with due := 0 })).post .request (.ni (tileOf r.core)) (launchFrom (tileOf r.core)) r.job 1 0 []
          (.request req))
      else .next s
    | _ => .next s
  | none => .next s

/-! ## The spill ring of a saved context (R359) -/

/-- Changes a saved context. -/
def State.updSaved (s : State) (jtag : Nat) (f : Saved → Saved) : State :=
  { s with saved := replaceIf (fun x => x.job.tvalid && x.job.jtag == jtag) f s.saved }

/-- A far send for a saved context is written to its spill ring, or answered RETRY where the ring holds as many unread records as it
can (R359). Once the context is restored, it goes to its home. -/
def execSavedFarSendSpill (pkt : Nat) (s : State) : Host.Outcome State Fault Refusal :=
  match s.arrived? pkt with
  | some p =>
    match p.body with
    | .farSend m dev out v =>
      if p.job < 2 ^ 20 then .next s
      else
        let tag := p.job - 2 ^ 20
        let s1 := s.dropPacket pkt
        match s.savedTag tag with
        | some x =>
          if x.ringN ≤ x.spill.length then .next (s1.fabPut ⟨dev, s.devid, 0, 1, false, tag, .retrySend out 6 false⟩ none)
          else
            let order := if m.ord then 2 ^ 40 + dev * 2 ^ 14 + m.srcV else 0
            let d : Draw := ⟨m, min v x.job.w, order, 0, some (dev, out, v)⟩
            let rec_ := recordWords { m with hdr := hdrSetWeight m.hdr v }
            .next ((s1.writeVirt x.pt (x.ring + 144 * (x.written % x.ringN)) .host rec_).updSaved tag
              (fun x => { x with written := x.written + 1, spill := x.spill ++ [d] }))
        | none =>
          match s.jobs.find? (fun e => e.2.tvalid && e.2.jtag == tag) with
          | some e => .next (s1.post .request p.dst (.unit e.2.die) e.1 p.flits 0 [] (.farSend { m with job := e.1 } dev out v))
          | none => .next (s1.fabPut ⟨dev, s.devid, 0, 1, false, tag, .retrySend out 6 true⟩ none)
    | _ => .next s
  | none => .next s

/-! ## Restore (R357, R358, R360) -/

/-- A save area's header and sections. -/
structure Area where
  head : List Word
  words : List Word
  rtab : List Byte
  act : List Byte
  fut : List Word
  nrd : List Word
  core : List Byte
  tile : List Byte
  deriving DecidableEq, Repr

/-- Reads bytes of a save area; NOMAP where a page is missing. -/
def State.readArea (s : State) (pt va n : Nat) : Except Held (List Byte) :=
  match s.readVirt pt va n with
  | some l => .ok l
  | none => .error (.refuse [5])

/-- The checks of a header, of its reserved words and of the reserved bits of its HOME words (R4, R259, R357, R360). -/
def badHeader (h w : List Word) : Bool :=
  wordAt h 0 != 0x5A4E + 65536 * 1 + 2 ^ 24 * 1 + 2 ^ 32 * 0x00041536 || decide (2 ^ 35 ≤ wordAt h 2) || decide (2 ^ 17 ≤ wordAt h 3)
    || fieldOf (wordAt h 2) 0 12 != vtilesOf (levelsOf w) || wordAt h 15 != fieldOf (wordAt w 7) 0 32
    || [8, 9, 10, 11, 12, 13, 14].any (fun i => wordAt h i % 64 != 0) || (List.range 8).any (fun i => wordAt h (56 + i) != 0)
    || decide (2 ^ 50 ≤ wordAt h 4) || decide (2 ^ 22 ≤ wordAt h 5) || decide (2 ^ 32 ≤ wordAt h 7) || !(recordFaults w).isEmpty || zeroCount w

/-- NFUT and NNRD. -/
def nfut (h : List Word) : Nat := fieldOf (wordAt h 2) 12 16
/-- NNRD -/
def nnrd (h : List Word) : Nat := fieldOf (wordAt h 2) 28 7

/-- Reads and checks a save area. -/
def readSaved (s : State) (pt area : Nat) : Except Held Area := do
  let hb ← s.readArea pt area 512
  let h := leWords hb 64
  let w := (h.drop 16).take 40
  if badHeader h w then .error (.refuse [12])
  else
    let sec (i n : Nat) : Except Held (List Byte) := s.readArea pt (area + wordAt h (8 + i)) n
    let v := vtilesOf (levelsOf w)
    let rtab ← sec 0 4096
    let ah ← sec 1 280
    let act ← sec 1 (280 + 8 * fieldOf (wordAt (leWords ah 35) 32) 0 16)
    let fut ← sec 2 (24 * nfut h)
    let nrd ← sec 3 (56 * nnrd h)
    let core ← sec 4 (8 * v * (64 + 4096 * sizeOfLocal w))
    let tile ← sec 5 (v * (512 + 65536 * recBanks w))
    .ok ⟨h, w, rtab, act, leWords fut (3 * nfut h), leWords nrd (7 * nnrd h), core, tile⟩

/-- Word i of record n of a section of words. -/
def recWord (l : List Word) (size n i : Nat) : Word := l.getD (size * n + i) 0

/-- The bytes of one virtual tile of TILE. -/
def Area.tileBytes (x : Area) (vt : Nat) : List Byte :=
  let n := 512 + 65536 * recBanks x.words
  (x.tile.drop (n * vt)).take n
/-- The counters a virtual tile held: number and value. -/
def Area.counters (x : Area) (vt : Nat) : List (Nat × Nat) :=
  let b := x.tileBytes vt
  let mask := leNat ((b.drop 128).take 8)
  (List.range 64).filterMap (fun c => if mask.testBit c then some (c, leNat ((b.drop (136 + 4 * c)).take 4)) else none)

/-- What the units of a restored context must find free: its counters' numbers on its new tiles and its futures' entries (R360 step 2). -/
def restoreFree (s : State) (x : Area) (place : List Nat) : Bool :=
  ((List.range place.length).zip place).all (fun e => (x.counters e.1).all (fun c => (s.counter e.2 c.1).owner.isNone))
    && (List.range (nfut x.head)).all (fun i => (s.future (recWord x.fut 3 i 0).toNat).owner.isNone)

/-- The home record of a restored context (R259). -/
def Job.withHome (j : Job) (h : List Word) : Job :=
  let a := wordAt h 4
  let b := wordAt h 5
  { j with
    homew := fieldOf a 0 32, wtotal := fieldOf a 32 5, armed := a.testBit 37, loss := a.testBit 38, uncertain := a.testBit 39
    qvcore := fieldOf b 0 14, qclass := fieldOf b 14 8, lostw := fieldOf (wordAt h 6) 0 32, killw := fieldOf (wordAt h 6) 32 32
    woff := fieldOf (wordAt h 7) 0 32, jtag := fieldOf (wordAt h 3) 0 16, tvalid := (wordAt h 3).testBit 16 }

/-- What the device kept of a context beside its area: where its launch came from, what befell it, and its spill records. -/
def Job.withKept (j : Job) : Option Saved → Job
  | none => j
  | some x => { j with
      addr := x.job.addr, source := x.job.source, parent := x.job.parent, privileged := x.job.privileged, pqCount := x.job.pqCount
      retries := x.job.retries, roots := x.job.roots, killed := x.job.killed, ringTail := x.job.ringTail, spill := x.spill }

/-- The bytes of one virtual core of CORE. -/
def Area.coreBytes (x : Area) (v : Nat) : List Byte :=
  let n := 64 + 4096 * sizeOfLocal x.words
  (x.core.drop (n * v)).take n

/-- Writes back the channels and the sequence of one core of CORE. -/
def restoreCore (x : Area) (job : Nat) (j : Job) (s : State) (v : Nat) : State :=
  let w := leWords (x.coreBytes v) 8
  let core := j.core v
  { s with
    chans := (List.range 4).foldl (fun (m : Map Chan) (ch : Nat) =>
      m.set (chanKey core job ch) ⟨seqNext (wordAt w ch), wordAt w ch, [], []⟩) s.chans
    arrSeqs := s.arrSeqs.set (arrKey core job) ⟨wordAt w 4, []⟩ }

/-- Writes back the counters of one tile of TILE. -/
def restoreTile (x : Area) (job : Nat) (j : Job) (s : State) (vt : Nat) : State :=
  (x.counters vt).foldl (fun s c => s.setCounter (j.tile vt) c.1 ⟨some job, c.2, none⟩) s

/-- What a restore loads: the code into every tile by one chain, then the memories of each tile by a chain of its own (R241, R360). -/
def Area.chains (x : Area) (job : Nat) (j : Job) (code : List Byte) : List Chain :=
  newChain job j.place (chunked .code none 0 code)
    :: (List.range j.vtiles).map (fun vt => newChain job [j.tile vt]
        (((List.range 8).flatMap (fun c => chunked .loc (some c) 0 ((x.coreBytes (8 * vt + c)).drop 64)))
          ++ chunked .scratch none 0 ((x.tileBytes vt).drop 512)))

/-- Retakes a saved future with its GEN. -/
def restoreFuture (x : Area) (job : Nat) (s : State) (i : Nat) : State :=
  let h := (recWord x.fut 3 i 0).toNat
  s.setFuture h ⟨some job, (recWord x.fut 3 i 2).toNat.testBit 0, recWord x.fut 3 i 1, handleGen h, [], none⟩

/-- Programs a saved definition on the tree of the new placement (R53, R360): R360 does not wait for a router to have room for it (log 59:
DESIGN CHOICE, a router then holds more than the 16 of R224). -/
def restoreDef (x : Area) (job : Nat) (j : Job) (s : State) (i : Nat) : State :=
  let b := (x.nrd.drop (7 * i)).take 7
  let put (s : State) (q : Nat × Nat) : State :=
    let d : RDef := ⟨job, ndId b, b, expects j b q, [], [], false, 0, []⟩
    s.updRouter q.1 q.2 (fun r => { r with defs := r.defs ++ [d] })
  ((treeRouters j b).foldl put s).updJob job (fun j => { j with
    ndefs := j.ndefs ++ [(⟨ndId b, b, none, false, [], [], 0, [], 0, []⟩ : NDef)] })

/-- The context a save area restores, before its home is. -/
def restoredJob (x : Area) (place : List Nat) (csize : Nat) (area : Nat) : Job :=
  let j := newJob x.words launchUnit 0 0 false place csize (routinesOf x.rtab) (actionsOf x.act) []
  { j with spillBase := area + wordAt x.head 14 }

/-- Puts a restored context back on the device and begins the chains that load it (R360 step 3). -/
def State.restore (s : State) (x : Area) (img : Image) (job : Nat) (j : Job) : State :=
  let fmts := (List.range j.vtiles).map (fun vt => leWords (x.tileBytes vt) 16)
  let s1 := s.enter job j fmts img.measure
  let s2 := (List.range (8 * j.vtiles)).foldl (restoreCore x job j) s1
  let s3 := (List.range j.vtiles).foldl (restoreTile x job j) s2
  let s4 := (List.range (nfut x.head)).foldl (restoreFuture x job) s3
  let s5 := (List.range (nnrd x.head)).foldl (restoreDef x job j) s4
  s5.runChains (x.chains job j img.code)

/-- The source of a load that is a restore. -/
def restoring : Nat := launchUnit + 1

/-- The home of a loaded context is restored and its spill records begin to move in the same clk, before its first test; the restore then
completes (R360 steps 4 and 5). -/
def State.endRestore (s : State) (l : Launching) (r : Req) : State :=
  match s.job? l.job with
  | none => s
  | some j =>
    let kept := s.saved.find? (fun y => y.area == l.addr)
    let j1 := Job.refill { ((j.withHome l.words).withKept kept) with phase := .running }
    let j2 := { j1 with copyNow := j1.copies, copyOld := j1.copies, copyClk := s.clk }
    let s1 := ({ s with saved := s.saved.filter (fun y => y.area != l.addr), loading := none, chains := [] }).setJob l.job j2
    (s1.dropTlb (savedJob j2.jtag)).finishAt r [BitVec.ofNat 64 l.job]

/-- The code a restore ends with where it cannot be made: BADCMD, or NOMAP for what cannot be read. -/
def restoreCode : List Nat → Nat
  | [5] => 5
  | [24] => 5
  | _ => 12

/-- A save area is checked and placed, and its context is put back (R360 steps 1 to 3). -/
def State.startRestore (s : State) (p : Job) (req : Nat) (r : Req) (area : Nat) : State :=
  let s1 := { s with restores := s.restores.filter (fun q => q != req), free := s.free + 1 }
  let fail (codes : List Nat) : State := s1.finishAt { r with code := restoreCode codes } [0]
  match readSaved s p.ptroot area with
  | .error (.serve t) => t
  | .error (.refuse codes) => fail codes
  | .ok x =>
    match readImage s r.know x.words with
    | .error (.serve t) => t
    | .error (.refuse codes) => fail codes
    | .ok img =>
      if img.measure ≠ img.digest then fail [12]
      else
        match s.freeJob, s.placement (levelsOf x.words) (needsOf x.words img.code.length), s.lookup p.ptroot area with
        | some job, some place, some (pa, _) =>
          let j := restoredJob x place img.code.length area
          if !restoreFree s x place then s
          else ({ s1 with loading := some ⟨restoring, pa, req, false, x.head, [], job, [], false⟩ }).restore x img job j
        | _, _, _ => s

/-- A saved context is checked, placed and reloaded, one chain after another; then its home is restored and the restore completes (R241,
R360). -/
def execContextRestore (req : Nat) (s : State) : Host.Outcome State Fault Refusal :=
  match s.req? req with
  | none => .next s
  | some r =>
    match r.kind, s.job? r.job, s.loading with
    | .ctxload area, some p, none => if !s.restores.contains req ∨ !s.live then .next s else .next (s.startRestore p req r area)
    | .ctxload _, some _, some l =>
      if l.source ≠ restoring ∨ l.parent ≠ req ∨ !s.live then .next s
      else
        match chainReport s, s.chains with
        | some p, _ :: c :: t => .next ((s.dropPacket p.id).runChains (c :: t))
        | some p, _ => .next { ((s.dropPacket p.id).endRestore l r) with free := s.free + 1 }
        | none, _ => .next s
    | _, _, _ => .next s

end Sys2Proof.Machine
end

