-- ==== Sys2Proof/Machine/Fabric.lean ====
section
/-! DEFINITION. The fabric at this device: what comes in by its ports (R321 to R327), NAKs (R328), and its ports going up and down
(R319, R320, R367). -/

namespace Sys2Proof.Machine

/-! ## Job tags (R325) -/

/-- The number of the context that holds a tag here: that of a saved context, which has taken its tag with it (R359), or a JOBID. -/
def holderOf (s : State) (jtag : Nat) : Option Nat :=
  match s.savedTag jtag with
  | some _ => some (savedJob jtag)
  | none => (s.jobs.find? (fun e => e.2.tvalid && e.2.jtag == jtag)).map (·.1)

/-- A HINT that the target chooses from its load (R326). -/
def anyHint (s : State) : Nat := Config.pick s.free 61 % 7

/-- A packet that came in by a port goes through the mesh from the I/O node of its destination's row on the die of that port (R233, R319). -/
def State.fabEnter (s : State) (port : Nat) (cls : Class) (dst : Endpoint) (job flits : Nat) (b : Body) : State :=
  s.post cls (portNode port dst.row) dst job flits 0 [] b

/-! ## Far sends at their destination (R264, R326, R327) -/

/-- The checks of R139 at the destination. -/
def farSendOk (j : Job) (h : Word) : Bool :=
  decide (hdrMode h ≠ 3) && j.hasVcore (hdrVcore h) && (hdrMode h == 0 || hdrLen h != 0)
    && (match j.routine? (hdrClass h) with
        | some e => hdrKind h != 1 || rtVregs e == 0
        | none => false)

/-- Far sends that stand in the input queue of an I/O node. -/
def farQueued (s : State) (at_ : Endpoint) : Nat :=
  (s.packets.filter (fun p => p.src == at_ && p.pos == .source && (match p.body with
    | .farSend _ _ _ _ => true
    | _ => false))).length

/-- A far send arrives: it goes on to the home of its job, or to the launch unit for a saved context; a full input queue turns it
away. -/
def State.farSendHere (s : State) (port : Nat) (p : FabPkt) (h : Word) (args : List Word) (srcV out : Nat) : State :=
  match holderOf s p.jtag with
  | none => s.fabAnswer (portNode port 0) (savedJob p.jtag) p.src p.jtag (.retrySend out (anyHint s) true)
  | some n =>
    match s.context? n with
    | none => s
    | some j =>
      let live := decide (n < 2 ^ 20)
      let dst := if live then Endpoint.unit j.die else .west 0
      let src := portNode port dst.row
      let answer (s : State) (b : FabBody) : State := s.fabAnswer src n p.src p.jtag b
      if 32 ≤ farQueued s src then answer s (.retrySend out (anyHint s) false)
      else if !farSendOk j h then answer { s with log := s.log ++ [LogEntry.fatal 3 n 0] } (.failed true out 3 0)
      else
        let m : Msg := ⟨if live then n else 0, h, args, if p.ord then 2 ^ 40 + p.src * 2 ^ 14 + srcV else 0, srcV, p.src, p.ord, 0, none, 0⟩
        s.fabEnter port .request dst n (msgFlits (hdrLen h)) (.farSend m p.src out (hdrWeight h))

/-! ## Far accesses at their target (R327) -/

/-- An access in the name of a task of another device, whose NI stands on a tile there. -/
def farAccessOf (p : FabPkt) (home : Endpoint) (kind : AccKind) (va len : Nat) (data : List Byte) (hops tile req : Nat) : Access :=
  ⟨req, 0, 0, 8 * tile, kind, va, noPa, len, data, 0, 0, 0, hops, 0, 0, none, [], 0, some p.src, home⟩

/-- The station at which a far request of a context is translated: that of the slice which serves its address, or any where nothing is
present there. -/
def farStation (s : State) (j : Job) (va : Nat) : Endpoint :=
  match s.walk j.ptroot va with
  | .page pa _ _ _ => (match servingUnit pa 0 with
    | .slice d n => .slice d n
    | _ => .slice j.die (Config.pick s.free 62 % 32))
  | _ => .slice j.die (Config.pick s.free 62 % 32)

/-- A far access goes to a station of its serving slice, in the context that holds its tag; where none does, its issuer sends it again
(R325, R327). -/
def State.farAccess (s : State) (port : Nat) (p : FabPkt) (a : Access) : State :=
  match holderOf s p.jtag with
  | none => s.fabAnswer (portNode port 0) (savedJob p.jtag) p.src p.jtag (.retryReq a.req (anyHint s) a.va a.hops true)
  | some n =>
    match s.context? n with
    | none => s
    | some j => s.fabEnter port .request (farStation s j a.va) n (accessFlits a) (.access { a with job := n })

/-! ## Answers at their issuer -/

/-- Since when a request or a send is refused for want of its tag, counted from 1: another refusal leaves it (R325). -/
def sinceTag (s : State) (first : Nat) (tag : Bool) : Nat := if tag && first == 0 then s.clk + 1 else first

/-- RETRY for a request: its NI, or its BTE, sends it again later, with the node and hops of a chase (R326). -/
def State.retryReqHere (s : State) (req hint p hops : Nat) (tag : Bool) : State :=
  s.updReq req (fun r => { r with
    due := s.clk + 16 * 2 ^ hint
    failAt := match r.kind with | .near _ _ => p | _ => r.failAt
    left := match r.kind with | .near _ _ => hops | _ => r.left
    first := sinceTag s r.first tag })

/-- RETRY for a far send. -/
def State.retrySendHere (s : State) (out hint : Nat) (tag : Bool) : State :=
  s.updOut out (fun o => { o with state := .refused, due := s.clk + 16 * 2 ^ hint, first := sinceTag s o.first tag })

/-- A fatal error at the target reaches the issuer: the weight goes home KILLED and containment follows (R327, R343). -/
def State.failedHere (s : State) (isSend : Bool) (item sub : Nat) (arg : Word) : State :=
  if isSend then
    match s.out? item with
    | some o => (s.endOut o false true).fatal o.msg.job 0 sub 0 arg o.src
    | none => s
  else
    match s.req? item with
    | some r => (s.endReq r false true).fatal r.job r.vcore sub 0 arg (.ni (tileOf r.core))
    | none => s

/-- The unit that issued a request: its NI, or the BTE of a copy that has been accepted. -/
def issuingUnit (s : State) (r : Req) : Endpoint :=
  match r.kind, bteOf s r.id with
  | .copy _ _ _ _, some (bte, _) => stationEnd bte
  | _, _ => .ni (tileOf r.core)

/-- The unit of this device that an answer or a NAK is for, with its job. -/
def answerUnit (s : State) (b : FabBody) : Option (Endpoint × Nat) :=
  let ofReq (req : Nat) : Option (Endpoint × Nat) := (s.req? req).map (fun r => (issuingUnit s r, r.job))
  let ofOut (out : Nat) : Option (Endpoint × Nat) := (s.out? out).map (fun o => (o.src, o.msg.job))
  match b with
  | .result req _ _ _ => ofReq req
  | .data req _ _ => ofReq req
  | .retryReq req _ _ _ _ => ofReq req
  | .credit out _ => ofOut out
  | .retrySend out _ _ => ofOut out
  | .failed isSend item _ _ => if isSend then ofOut item else ofReq item
  | .nak isSend _ item _ _ _ _ => if isSend then ofOut item else ofReq item
  | _ => none

/-- An answer of another device has reached the unit that issued what it answers. -/
def State.answered (s : State) (b : FabBody) : State :=
  match b with
  | .result req code flags words => match s.req? req with
    | some r => landNear s r code flags words
    | none => s
  | .data req _ bytes => match s.req? req with
    | some r => copyReturns (s.updReq req (fun r => { r with first := 0 })) { r with first := 0 } bytes
    | none => s
  | .credit out _ => s.creditHere out
  | .retrySend out hint tag => s.retrySendHere out (min hint 6) tag
  | .retryReq req hint q hops tag => s.retryReqHere req (min hint 6) q hops tag
  | .failed isSend item sub arg => s.failedHere isSend item sub (BitVec.ofNat 64 arg)
  | .nak isSend isPod item tile weight cls dest => s.nakHere isSend isPod item tile weight cls dest
  | _ => s

/-- An answer comes in by a port, for the unit it is for; one whose request has ended is dropped. -/
def State.answerHere (s : State) (port : Nat) (cls : Class) (p : FabPkt) : State :=
  match answerUnit s p.body with
  | some (e, job) => s.fabEnter port cls e job (meshFlits p.body) (.fabIn p)
  | none => s

/-- The weight of a far send comes back; while a census of its job runs it waits at the port (R264, R267). -/
def State.creditArrives (s : State) (port : Nat) (p : FabPkt) (out : Nat) : State :=
  match s.out? out with
  | none => s
  | some o =>
    match s.job? o.msg.job with
    | some j => if j.census.isSome then { s with fabWait := s.fabWait ++ [p] } else s.answerHere port .weight p
    | none => s

/-- A piece of a request is back at the unit that issued it; none while the bank it lands in is taken (R187). -/
def pieceBack (s : State) (r : Req) (a : Access) : Option State :=
  match r.kind with
  | .near _ _ => some (landNear s r a.status a.flags (leWords a.data (a.data.length / 8)))
  | .grd _ _ _ _ _ => landPiece s r a
  | .gwr _ _ _ _ => landPiece s r a
  | .copy _ _ _ _ => some (landCopy s r a)
  | _ => some s

/-- What the unit that issued a request does with an answer that has come back to it: none for another packet, or while a bank is taken. -/
def landed (s : State) (b : Body) : Option State :=
  match b with
  | .performed a => match s.req? a.req with
    | some r => pieceBack s r a
    | none => some s
  | .copyRefused req => match s.req? req with
    | some r => some (offerRefused s r)
    | none => some s
  | .fabIn f => some (s.answered f.body)
  | _ => none

/-- Read data, a result, an acknowledgement or a refusal reaches the unit that issued a request, which completes after its last piece
(R180, R187, R198). -/
def execPieceLanding (pkt : Nat) (s : State) : Host.Outcome State Fault Refusal :=
  match s.arrived? pkt with
  | some p =>
    match landed (s.dropPacket pkt) p.body with
    | some t => .next { t with free := s.free + 1 }
    | none => .next s
  | none => .next s

/-! ## Packets at a port (R321 to R323) -/

/-- The acknowledgement of whole packets of a port's replay buffer. -/
def ackFlits (n : Nat) : List FabPkt → List FabPkt
  | [] => []
  | p :: t => if fabFlits p ≤ n then ackFlits (n - fabFlits p) t else p :: t

/-- A port's flits are acknowledged and its credits returned (R319, R323); what waited for them leaves (R324). -/
def State.linkAcked (s : State) (port flits : Nat) (credits : List Nat) : State :=
  (s.updPort port (fun x => { x with
    replay := ackFlits flits x.replay
    since := s.clk
    credits := (List.range 20).map (fun i => x.credits.getD i 0 + credits.getD i 0) })).fabDrain

/-- A packet for this device is delivered. A notice that a job's tag was refused too long is logged (R325, R343). -/
def State.fabHere (s : State) (port : Nat) (p : FabPkt) : State :=
  let home := portNode port 0
  match p.body with
  | .send h args srcV out => s.farSendHere port p h args srcV out
  | .near f block va hops tile req _ => s.farAccess port p (farAccessOf p home (.near f block) va (nearLen f block) [] hops tile req)
  | .copyRead va n tile req _ => s.farAccess port p (farAccessOf p home .read va n [] 0 tile req)
  | .copyWrite va data tile req _ => s.farAccess port p (farAccessOf p home .write va data.length data 0 tile req)
  | .credit out _ => s.creditArrives port p out
  | .failed _ _ 5 _ => { s with log := s.log ++ [LogEntry.fatal 5 (savedJob p.jtag) 0] }
  | .nak true true item _ weight cls dest => if dest = s.devid then s.answerHere port .reply p else
      s.nakHere true true item 0 weight cls dest
  | .digest gen entry chunk bytes => s.digestHere ⟨p.jtag, gen, entry, chunk, bytes⟩
  | .linkAck _ _ => s
  | _ => s.answerHere port .reply p

/-- A packet that has crossed a link goes on: it leaves by this device's entry for its destination, or is discarded (R322, R323). -/
def State.fabOnward (s : State) (p : FabPkt) (came : Option (Nat × Nat)) : State :=
  if 5 ≤ p.hop then (s.discardPkt p).giveBack p came else s.fabPut p came

/-- A NAK for this device. -/
def nakFor (dev : Nat) (p : FabPkt) : Bool :=
  match p.body with
  | .nak _ _ _ _ _ _ _ => p.dst == dev
  | _ => false

/-- A packet has come in by a port: its flits are acknowledged, and HOP rises by 1 (R319, R323). One for this device gives its buffer back
as it enters the mesh; another goes on. -/
def State.fabArrive (s : State) (port : Nat) (pkt : FabPkt) : State :=
  let s1 := s.updPort port (fun x => { x with acked := x.acked + fabFlits pkt })
  let p := { pkt with hop := pkt.hop + 1 }
  let came := some (port, lane pkt)
  if p.dst = s.devid then { ((s1.fabHere port p).giveBack p came) with free := s.free + 1 } else s1.fabOnward p came

/-- A packet can reach a port. -/
def mayArrive (s : State) (port : Nat) (pkt : FabPkt) : Bool := (s.port port).up && decide (port < 32 ∧ pkt.hop < 5 ∧ pkt.cls < 4)

/-- A fabric packet reaches a port that is up (R322, R323). A NAK for this device is the matter of the event of its own. -/
def execFabricPacketArrival (port : Nat) (pkt : FabPkt) (s : State) : Host.Outcome State Fault Refusal :=
  if !mayArrive s port pkt || nakFor s.devid pkt then .next s
  else
    match pkt.body with
    | .linkAck flits credits => .next (s.linkAcked port flits credits)
    | _ => .next (s.fabArrive port pkt)

/-- A NAK reaches the device of the discarded packet's source (R328). -/
def execFabricNakArrival (port : Nat) (pkt : FabPkt) (s : State) : Host.Outcome State Fault Refusal :=
  if mayArrive s port pkt && nakFor s.devid pkt then .next (s.fabArrive port pkt) else .next s

/-! ## Ports (R319, R320, R328, R367) -/

/-- A flit that fails its CRC is sent again from the replay buffer: the packet is neither lost nor changed (R319). -/
def execFlitCrcReplay (_port : Nat) (s : State) : Host.Outcome State Fault Refusal := .next s

/-- The packets that wait are sent by their routes as they now stand, where a test holds of them. -/
def State.reroute (s : State) (f : FabOut → Bool) : State :=
  let l := s.fabOut.filter f
  l.foldl (fun s w => s.fabPut w.pkt w.came) { s with fabOut := s.fabOut.filter (fun w => !f w) }

/-- A port unacknowledged for 2²⁰ clk is down: what stands in its replay buffer is discarded and NAKed, and waiting packets without
ORD take another way (R328, R367). -/
def execPortDown (port : Nat) (s : State) : Host.Outcome State Fault Refusal :=
  let x := s.port port
  if x.up ∧ port < 32 ∧ !x.replay.isEmpty ∧ x.since + 2 ^ 20 ≤ s.clk then
    let s1 := { (s.updPort port (fun x => { x with up := false, replay := [], credits := [] })) with
      log := s.log ++ [LogEntry.portDown port], free := s.free + 1 }
    let s2 := x.replay.foldl State.discardPkt s1
    .next (s2.reroute (fun w => w.port == some port && !w.pkt.ord))
  else .next s

/-- A port has finished training (R320): the packets that wait for it leave as the link returns credits. -/
def execPortUp (port : Nat) (s : State) : Host.Outcome State Fault Refusal :=
  if port < 32 ∧ !(s.port port).up ∧ !s.inReset then .next ((s.updPort port (fun _ => ⟨true, [], s.clk, [], 0, []⟩)).fabDrain) else .next s

/-- The device of a far request. -/
def reqFar (s : State) (r : Req) : Option Nat :=
  match r.kind with
  | .near _ block => nearFar s block
  | .copy _ _ _ _ =>
    let c := wordAt (copyWords r).2 0
    (match srcSide s c, dstSide s c with
    | .far d, _ => some d
    | _, .far d => some d
    | _, _ => none)
  | _ => none

/-- The device that refused a job's tag too long hears of it, for its log (R325, R343). -/
def State.tagNotice (s : State) (src : Endpoint) (job : Nat) (dev : Option Nat) (isSend : Bool) (item : Nat) : State :=
  match dev with
  | some d => s.fabAnswer src job d (s.jtag job) (.failed isSend item 5 0)
  | none => s

/-- A far send or request refused for want of its tag for 2²⁴ clk in all ends: its weight goes home LOST, and its job takes a fatal error,
logged at both ends (R325, R343). -/
def execJobTagTimeout (out : Nat) (s : State) : Host.Outcome State Fault Refusal :=
  let past (first : Nat) : Bool := first != 0 && decide (first + 2 ^ 24 ≤ s.clk + 1)
  match s.out? out, s.req? out with
  | some o, _ =>
    if o.far.isSome && o.state == .refused && past o.first then
      .next { (((s.tagNotice o.src o.msg.job o.far true out).endOut o true false).fatal o.msg.job 0 5 0 0 o.src) with free := s.free + 1 }
    else .next s
  | none, some r =>
    if r.due ≠ 0 ∧ past r.first then
      .next { (((s.tagNotice (issuingUnit s r) r.job (reqFar s r) false out).endReq r true false).fatal r.job r.vcore 5 0 0
        (.ni (tileOf r.core))) with free := s.free + 1 }
    else .next s
  | none, none => .next s

end Sys2Proof.Machine
end

