-- ==== Sys2Proof/Machine/Fence.lean ====
section
/-! DEFINITION. Fences (R250). -/

namespace Sys2Proof.Machine

/-- The performed writes of the BEFORE paths that a fence of the issuing task at a scope orders and that happen before it, each
binding from then on on the AFTER paths (R250, R253). `own` counts the task's own. -/
def fenceEdge (s : State) (own : Bool) (before after : Nat) (sc : Scope) : Know :=
  let c := s.me
  let known := (s.resolve c.know).map (·.1)
  let mine (w : WRec) : Bool := known.contains w.id || (own && w.task == c.task && c.task != 0)
  ((s.writes.filter (fun w => mine w && fenceTakes s s.myCore before sc w && !(w.acc != 0 && s.unperformed.contains w.acc))).map
    (fun w => (w.id, after))).dedup

/-- A fence of the issuing task from here on (R250): a release fence holds the accesses of its AFTER paths that leave the core until those
its scope counts are acknowledged, an acquire fence shows them what is known, a full fence does both. -/
def addFence (k : FenceKind) (before after : Nat) (sc : Scope) (s : State) : State :=
  let c := s.me
  let rel := k != .acquire
  let f : RelFence := ⟨s.serial, s.myCore, before, after, sc, if rel then s.releaseWaits c.task sc else [], c.acqLoads,
    fenceEdge s rel before after sc, k != .release⟩
  { (s.setMe { c with relFences := c.relFences ++ [f] }) with fences := s.fences ++ [f], serial := s.serial + 1 }

/-- An acquire or full fence parks its context as at an S marker (R30, R250). -/
def parkAfter (m : Mark) (s : State) : Host.Outcome State Fault Refusal → Host.Outcome State Fault Refusal
  | .next t => .next (if m.s then t else (t.updCtx s.cur (fun c => { c with parked := true })).release s.cur)
  | .fault f => .fault f
  | .refused r => .refused r

/-- `fence`: AFTER in `a`, BEFORE in `b` (R65, R250). -/
def execFence (k : FenceKind) (c : Scope) (a b : BitVec 7) (m : Mark) (s : State) : Host.Outcome State Fault Refusal :=
  let body := issue32 m s (fall (addFence k b.toNat a.toNat c s))
  match begin_ s 4 false, k with
  | .error e, _ => issue32 m s (.error e)
  | .ok _, .release => body
  | .ok _, .acquire => parkAfter m s body
  | .ok _, .full => parkAfter m s body

end Sys2Proof.Machine
end

