-- ==== Sys2Proof/Machine/VectorEval.lean ====
section
/-! DEFINITION. What the functions of the vector unit compute from the registers they read (R112 to R115, R121 to R127, R135,
R137, R50, R51): pure functions of element bits. -/

namespace Sys2Proof.Machine

/-- An element's bytes as a vector operation stores them: with which of its chunks, and where (R132). -/
structure VWrite where
  chunk : Nat
  space : Space
  addr : Nat
  bytes : List Byte
  deriving DecidableEq, Repr, Inhabited

/-- What a vector operation comes to: results by target, the flags of its active elements, the bytes it stores, each
element by itself, and the cause it faults with at its start. -/
structure VOut where
  outs : List (Target × Nat)
  flags : Nat
  writes : List VWrite
  fault : Option (Cause × Word)
  deriving DecidableEq, Repr, Inhabited

/-- Results without stores or fault. -/
def VOut.ofResults (outs : List (Target × Nat)) (flags : Nat) : VOut := ⟨outs, flags, [], none⟩

/-- A fault at start. -/
def VOut.ofFault (c : Cause) (arg : Word) : VOut := ⟨[], 0, [], some (c, arg)⟩

/-- Element results of the active elements of n, with their flags; the others are 0. -/
def active (n : Nat) (mask : Nat) (f : Nat → Nat × Nat) : List (Nat × Nat) :=
  (List.range n).map (fun i => if mask.testBit i then f i else (0, 0))

/-- The flags of a list of element results. -/
def orFlags (l : List (Nat × Nat)) : Nat := l.foldl (fun a e => a ||| e.2) 0

/-- An element-wise function into one register of width w: masked-off elements keep their content (R114). -/
def elemwise (d : Fin 32) (w n mask : Nat) (f : Nat → Nat × Nat) : VOut :=
  let rs := active n mask f
  .ofResults [(.v d w (mask % 2 ^ n), packElems w (rs.map (·.1)))] (orFlags rs)

/-! ## Arithmetic (R113, R121) -/

/-- Encodes an exact result into an element type, joining its flags to those of the operation. -/
def encodeElem (t : VT) (vfmt rm : Nat) (r : Val × Nat) : Nat × Nat :=
  let e := vtEncode t vfmt rm (vtIntLike t vfmt) r.1
  (e.1, e.2 ||| r.2)

/-- A function of two elements: integers wrap, other types round once. -/
def arith2 (t : VT) (vfmt rm : Nat) (fi : Int → Int → Int) (fv : Val → Val → Val × Nat) (a b : Nat) : Nat × Nat :=
  let w := vtBits t
  if t.isInt then (lowBits w (fi (sextNat a w) (sextNat b w)), 0)
  else encodeElem t vfmt rm (fv (vtDecode t vfmt a) (vtDecode t vfmt b))

/-- A function of one element. -/
def arith1 (t : VT) (vfmt rm : Nat) (fi : Int → Int) (fv : Val → Val × Nat) (a : Nat) : Nat × Nat :=
  let w := vtBits t
  if t.isInt then (lowBits w (fi (sextNat a w)), 0) else encodeElem t vfmt rm (fv (vtDecode t vfmt a))

/-- a × b + d. -/
def arithFma (t : VT) (vfmt rm : Nat) (a b d : Nat) : Nat × Nat :=
  let w := vtBits t
  if t.isInt then (lowBits w (sextNat a w * sextNat b w + sextNat d w), 0)
  else encodeElem t vfmt rm (Val.fma rm (vtDecode t vfmt a) (vtDecode t vfmt b) (vtDecode t vfmt d))

/-- A saturating integer result; OV when clamped (R121). -/
def satElem (w : Nat) (x : Int) : Nat × Nat :=
  let lo : Int := -(2 ^ (w - 1) : Nat)
  let hi : Int := (2 ^ (w - 1) : Nat) - 1
  (lowBits w (satInt x lo hi), if x < lo ∨ hi < x then flagOV else 0)

/-! ## Compares (R123) -/

/-- The four comparisons. -/
inductive Cmp where
  | eq
  | lt
  | le
  | ne
  deriving DecidableEq, Repr

/-- One comparison of elements and its flag: unordered gives 0, under `ne` 1. -/
def compareElem (c : Cmp) (t : VT) (vfmt a b : Nat) : Bool × Nat :=
  let x := vtDecode t vfmt a
  let y := vtDecode t vfmt b
  (match c with
   | .eq => x.eq y
   | .lt => x.lt y
   | .le => x.le y
   | .ne => !x.eq y, sigFlag [x, y])

/-- The number whose bits are a list of conditions, the first lowest. -/
def packBits (l : List Bool) : Nat := l.foldr (fun b acc => b.toNat + 2 * acc) 0

/-- A compare writes its whole mask. -/
def compareAll (c : Cmp) (d : Fin 8) (t : VT) (vfmt mask : Nat) (a b : VReg) : VOut :=
  let w := vtBits t
  let rs := (List.range (vtCount t)).map (fun i =>
    if mask.testBit i then compareElem c t vfmt (elemGet a w i) (elemGet b w i) else (false, 0))
  .ofResults [(.k d, packBits (rs.map (·.1)))] (rs.foldl (fun f e => f ||| e.2) 0)

/-! ## Moves (R124, R127) -/

/-- The raw bits a scalar gives an element: for a 4-bit VFMT the upper half is 0 (R45, R124). -/
def scalarElem (t : VT) (vfmt : Nat) (x : Word) : Nat :=
  match t with
  | .nf8 => if descW4 vfmt then x.toNat % 16 else x.toNat % 256
  | t => x.toNat % 2 ^ vtBits t

/-! ## Conversions (R46, R125) -/

/-- Converts one element. -/
def convertElem (t u : VT) (vfmt rm bits : Nat) : Nat × Nat :=
  let x := vtDecode t vfmt bits
  let r := vtEncode u vfmt rm (vtIntLike t vfmt) x
  (r.1, r.2 ||| sigFlag [x])

/-- A conversion into a group of g registers (R50): logical element i goes to register i mod g, position i div g. -/
def widenAll (d : Fin 32) (g : Nat) (t u : VT) (vfmt rm mask : Nat) (a : VReg) : VOut :=
  let w := vtBits u
  let n := vtCount t
  let rs := active n mask (fun i => convertElem t u vfmt rm (elemGet a (vtBits t) i))
  .ofResults ((List.range g).map (fun j =>
      (.v (Fin.ofNat 32 (d.val + j)) w (packBits ((List.range (n / g)).map (fun p => mask.testBit (p * g + j)))),
        packElems w ((List.range (n / g)).map (fun p => (rs.getD (p * g + j) (0, 0)).1)))))
    (orFlags rs)

/-- A conversion from a group of g registers into one. -/
def narrowAll (d : Fin 32) (g : Nat) (t u : VT) (vfmt rm mask : Nat) (src : List VReg) : VOut :=
  elemwise d (vtBits u) (vtCount u) mask (fun i =>
    convertElem t u vfmt rm (elemGet (src.getD (i % g) 0) (vtBits t) (i / g)))

/-! ## Reductions (R51, R126) -/

/-- One level of the tree. -/
def treeLevel {α : Type} (f : α → α → α) : List α → List α
  | a :: b :: t => f a b :: treeLevel f t
  | l => l

/-- The fixed binary tree over 2^k values. -/
def tree {α : Type} (f : α → α → α) : Nat → List α → List α
  | 0, l => l
  | k + 1, l => tree f k (treeLevel f l)

/-- A tree addition, rounded to FP32, with the flags so far. -/
def addRounded (rm : Nat) (x y : Val × Nat) : Val × Nat :=
  let a := x.1.add rm y.1
  let r := fp32.result rm a.1
  (fp32.decode r.1, x.2 ||| y.2 ||| a.2 ||| r.2)

/-- The sum or the extreme of a pair, with the flags so far. -/
def extremeOf (isMax : Bool) (x y : Val × Nat) : Val × Nat :=
  let a := Val.minmax isMax x.1 y.1
  (a.1, x.2 ||| y.2 ||| a.2)

/-- An element converted to FP32 (R46, R51). One of a nf8 format that lies outside FP32's range or off its grid, as an extreme BIAS can
make it, is rounded to FP32 first, with the flags of that rounding: the spec does not say what a tree or `vext` makes of it (log 48:
DESIGN CHOICE). -/
def toFp32 (t : VT) (vfmt rm bits : Nat) : Val × Nat :=
  let x := vtDecode t vfmt bits
  let r := fp32.result rm x
  (fp32.decode r.1, r.2 ||| sigFlag [x])

/-- The FP32 value of a tree's last element, as a scalar result. -/
def fpScalar (l : List (Val × Nat)) : Nat × Nat :=
  match l with
  | [] => (0, 0)
  | r :: _ => ((fp32.result 0 r.1).1, r.2)

/-- Negative zero, the identity of a floating-point sum. -/
def negZero : Val := .fin true 0 0

/-- A signed exact result as a 64-bit value. -/
def intScalar (i : Int) : Nat := lowBits 64 i

/-- The least and the greatest integer of a type (R33, R126). -/
def typeRange (t : VT) (vfmt : Nat) : Int × Int :=
  let w := match t with
    | .nf8 => if descW4 vfmt then 4 else 8
    | t => vtBits t
  if t = .nf8 ∧ descKind vfmt = 2 then (0, (2 ^ w : Nat) - 1) else (-(2 ^ (w - 1) : Nat), (2 ^ (w - 1) : Nat) - 1)

/-- The integer of an element of an integer type. -/
def elemInt (t : VT) (vfmt bits : Nat) : Int :=
  match vtDecode t vfmt bits with
  | .fin neg m _ => if neg then -(m : Int) else m
  | _ => 0

/-- `vredsum` -/
def redSum (t : VT) (vfmt rm mask : Nat) (a : VReg) : Nat × Nat :=
  let w := vtBits t
  let n := vtCount t
  if vtIntLike t vfmt then
    (intScalar ((List.range n).foldl (fun acc i => if mask.testBit i then acc + elemInt t vfmt (elemGet a w i) else acc) 0), 0)
  else
    fpScalar (tree (addRounded rm) n.log2
      ((List.range n).map (fun i => if mask.testBit i then toFp32 t vfmt rm (elemGet a w i) else (negZero, 0))))

/-- `vredmax` and `vredmin` -/
def redExtreme (isMax : Bool) (t : VT) (vfmt rm mask : Nat) (a : VReg) : Nat × Nat :=
  let w := vtBits t
  let n := vtCount t
  if vtIntLike t vfmt then
    let r := typeRange t vfmt
    (intScalar ((List.range n).foldl (fun acc i =>
      if mask.testBit i then (let x := elemInt t vfmt (elemGet a w i); if isMax then max acc x else min acc x) else acc)
      (if isMax then r.1 else r.2)), 0)
  else
    fpScalar (tree (extremeOf isMax) n.log2
      ((List.range n).map (fun i => if mask.testBit i then toFp32 t vfmt rm (elemGet a w i) else (.inf isMax, 0))))

/-- `vdot` -/
def dotAll (t : VT) (vfmt rm mask : Nat) (a b : VReg) : Nat × Nat :=
  let w := vtBits t
  let n := vtCount t
  if vtIntLike t vfmt then
    (intScalar ((List.range n).foldl (fun acc i =>
      if mask.testBit i then acc + elemInt t vfmt (elemGet a w i) * elemInt t vfmt (elemGet b w i) else acc) 0), 0)
  else
    fpScalar (tree (addRounded rm) n.log2
      ((List.range n).map (fun i =>
        if mask.testBit i then (vtDecode t vfmt (elemGet a w i)).mul (vtDecode t vfmt (elemGet b w i)) else (negZero, 0))))

/-- `vext`: one element as a scalar (R127). -/
def extractElem (t : VT) (vfmt rm : Nat) (a : VReg) (j : Nat) : Nat × Nat :=
  let bits := elemGet a (vtBits t) (j % vtCount t)
  if vtIntLike t vfmt then (intScalar (elemInt t vfmt bits), 0)
  else
    let r := toFp32 t vfmt rm bits
    fpScalar [r]

/-! ## Refinement and rounding (R135) -/

/-- A refinement step: y as it is, the canonical NaN, or one rounding of an exact value. -/
def refine (rm : Nat) (inner : Val → Val → Val × Nat) (xb yb : Nat) : Nat × Nat :=
  let x := fp32.decode xb
  let y := fp32.decode yb
  let f := sigFlag [x, y]
  match y with
  | .nan _ => ((fp32.result rm (.nan false)).1, f)
  | .inf _ => (yb, f)
  | .fin _ m _ =>
    if m = 0 then (yb, f)
    else match x with
      | .nan _ => ((fp32.result rm (.nan false)).1, f)
      | _ => let r := fp32.result rm (inner x y).1
             (r.1, r.2 ||| f)

/-- y·(2 − x·y), exact. -/
def rcpStep (rm : Nat) (x y : Val) : Val × Nat := y.mul ((Val.fin false 2 0).add rm (x.mul y).1.neg).1

/-- y·(1.5 − 0.5·x·y·y), exact. -/
def rsqStep (rm : Nat) (x y : Val) : Val × Nat :=
  y.mul ((Val.fin false 3 (-1)).add rm (((Val.fin false 1 (-1)).mul x).1.mul y |>.1.mul y).1.neg).1

/-- Rounds to an integral value of the same type; NX is never set (R135). -/
def roundIntegral (t : VT) (vfmt rm bits : Nat) : Nat × Nat :=
  match vtDecode t vfmt bits with
  | .nan s => ((vtEncode t vfmt 0 false (.nan false)).1, if s then flagIV else 0)
  | .inf s => ((vtEncode t vfmt 0 false (.inf s)).1, 0)
  | .fin neg m e => ((vtEncode t vfmt 0 false (.fin neg (roundGrid rm neg m e 0).1 0)).1, 0)

/-! ## Ternary packing (R137) -/

/-- The sign of an integer. -/
def signOf (x : Int) : Int := if 0 < x then 1 else if x < 0 then -1 else 0

/-- `vtpack` -/
def ternPack (a : VReg) : Nat :=
  packElems 8 ((List.range 96).map (fun j =>
    packTrits ((List.range 5).map (fun i => signOf (sextNat (elemGet a 8 (5 * j + i)) 8)))))

/-- The lowest of the first 96 bytes that is no ternary code (R48). -/
def badTern (a : VReg) : Option Nat := (List.range 96).find? (fun j => decide (243 ≤ elemGet a 8 j))

/-- `vtunp` of legal codes -/
def ternUnpack (a : VReg) : Nat :=
  packElems 8 ((List.range 480).map (fun i => lowBits 8 (trit (elemGet a 8 (i / 5)) (i % 5))))

/-- One element of `vtqnt` and its flag. -/
def quantElem (x θ : Val) : Nat × Nat :=
  (if x.isNan || θ.isNan then 0 else if θ.lt x then 1 else if x.lt θ.neg then lowBits 32 (-1) else 0,
    if x.isNan || θ.isNan then flagIV else 0)

/-- `vtchk` -/
def ternCheck (a : VReg) : Nat := packBits ((List.range 96).map (fun j => decide (243 ≤ elemGet a 8 j)))

end Sys2Proof.Machine
end

