-- ==== Sys2Proof/Machine/VectorMem.lean ====
section
/-! DEFINITION. Vector loads and stores of local memory and of the scratchpad, with the conversions of formatted banks (R128 to
R132, R164). -/

namespace Sys2Proof.Machine

/-- What a vector access reads memory as: its task's CORE accesses, with what is known in local memory and, past the task's
fences, in the scratchpad (R250); the job and the virtual core; its number, before which all that was written at its issue lies, the
clk of its start and the number of the first write made after it (R132). -/
structure VAccess where
  task : Nat
  know : Know
  wide : Know
  job : Nat
  vcore : Nat
  id : Nat
  start : Nat
  since : Nat
  deriving DecidableEq, Repr

/-- The access an operation makes. -/
def accessOf (s : State) (o : Op) : VAccess :=
  let c := s.ctxs.getD o.ctx Ctx.idle
  ⟨o.task, s.resolve (knowNear o.know o.fences), s.resolve (knowOn o.know o.fences .core), c.job, c.vcore, o.id, o.start, o.since⟩

/-- Who reads a chunk of it. -/
def VAccess.reader (v : VAccess) (sp : Space) (chunk : Nat) : Reader :=
  ⟨.core, v.task, if sp = .loc then v.know else v.wide, v.start + chunk, if sp = .loc then v.id else v.since⟩

/-- The job a vector access belongs to reaches this far in a space (R284). -/
def spaceEnd (s : State) (v : VAccess) (sp : Space) : Nat :=
  match s.job? v.job, sp with
  | some j, .loc => min 0x10000 j.localLimit
  | some j, _ => min 0x100000 j.tileLimit
  | none, .loc => 0x10000
  | none, _ => 0x100000

/-- The flat address of a byte of the access's space. -/
def flatOf (v : VAccess) (sp : Space) (a : Nat) : Nat :=
  match sp with
  | .loc => locAddr v.job v.vcore a
  | _ => scratchAddr v.job (v.vcore / 8) a

/-- The bad bytes of a space. -/
def badOf (s : State) (sp : Space) : List Nat :=
  match sp with
  | .loc => s.eccLocal
  | _ => s.eccScratch

/-- The bits of an element of `eb` bits that begins at a byte address, `hi` telling the upper nibble of a 4-bit one. -/
def readElem (s : State) (v : VAccess) (sp : Space) (a eb : Nat) (hi : Bool) (place chunk : Nat) : Nat :=
  let n := leNat (s.readBytes (v.reader sp chunk) sp (flatOf v sp a) (max 1 (eb / 8)) place)
  if eb = 4 then (if hi then n / 16 else n % 16) else n

/-- The bytes that write an element: a nibble leaves the other nibble of its byte as it is. -/
def elemBytes (s : State) (v : VAccess) (sp : Space) (a eb : Nat) (hi : Bool) (bits : Nat) : List Byte :=
  if eb = 4 then
    let old := ((s.mem sp).get (flatOf v sp a)).toNat
    [BitVec.ofNat 8 (if hi then old % 16 + 16 * (bits % 16) else old / 16 * 16 + bits % 16)]
  else bytesOfNat bits (eb / 8)

/-- Where element i of a run of elements of `eb` bits lies: its byte address and whether it is an upper nibble. -/
def slotOf (ea eb i : Nat) : Nat × Bool := (ea + i * eb / 8, eb == 4 && i % 2 == 1)

/-- The first active byte with an uncorrectable error that an access reads. -/
def badActive (s : State) (v : VAccess) (sp : Space) (slots : List (Nat × Nat × Bool)) (bytes : Nat) : Option Nat :=
  let bad := badOf s sp
  if bad.isEmpty then none
  else (slots.find? (fun e => (List.range bytes).any (fun k => bad.contains (flatOf v sp (e.2.1 + k))))).map (·.2.1)

/-- An element to be stored: its chunk, its byte address, whether it is an upper nibble, and its bits. -/
abbrev VElem := Nat × Nat × Bool × Nat

/-- Two 4-bit elements of one byte are stored by one write. -/
def mergeNibbles (s : State) (v : VAccess) (sp : Space) (l : List VElem) : List VWrite :=
  match l with
  | (k, a, false, x) :: (k', b, true, y) :: t =>
    if a = b then ⟨k, sp, flatOf v sp a, [BitVec.ofNat 8 (x % 16 + 16 * (y % 16))]⟩ :: mergeNibbles s v sp t
    else ⟨k, sp, flatOf v sp a, elemBytes s v sp a 4 false x⟩ :: mergeNibbles s v sp ((k', b, true, y) :: t)
  | (k, a, hi, x) :: t => ⟨k, sp, flatOf v sp a, elemBytes s v sp a 4 hi x⟩ :: mergeNibbles s v sp t
  | [] => []

/-- The stores of elements, each written by itself (R132). -/
def storeElems (s : State) (v : VAccess) (sp : Space) (eb : Nat) (l : List VElem) : List VWrite :=
  if eb = 4 then mergeNibbles s v sp l
  else l.map (fun e => ⟨e.1, sp, flatOf v sp e.2.1, bytesOfNat e.2.2.2 (eb / 8)⟩)

/-- The chunk of 32 register bytes that holds element i of a type (R116). -/
def chunkOf (t : VT) (i : Nat) : Nat := i * vtBits t / 256

/-- The active elements of a type. -/
def activeIdx (t : VT) (mask : Nat) : List Nat := (List.range (vtCount t)).filter (fun i => mask.testBit i)

/-- A raw load of 512 bytes by elements of T. -/
def loadRaw (s : State) (v : VAccess) (sp : Space) (d : Fin 32) (t : VT) (mask ea : Nat) : VOut :=
  let w := vtBits t
  let slots := (activeIdx t mask).map (fun i => (i, slotOf ea w i))
  match badActive s v sp slots (max 1 (w / 8)) with
  | some a => .ofFault .eccloc (BitVec.ofNat 64 a)
  | none => elemwise d w (vtCount t) mask (fun i =>
      let p := slotOf ea w i
      (readElem s v sp p.1 w p.2 (100 + i) (chunkOf t i), 0))

/-- A raw store of 512 bytes by elements of T. -/
def storeRaw (s : State) (v : VAccess) (sp : Space) (t : VT) (mask ea : Nat) (x : VReg) : VOut :=
  let w := vtBits t
  ⟨[], 0, storeElems s v sp w ((activeIdx t mask).map (fun i =>
    let p := slotOf ea w i
    (chunkOf t i, p.1, p.2, elemGet x w i))), none⟩

/-- `vld.l` and `vst.l`: the checks of R129 and R284. -/
def localRange (s : State) (v : VAccess) (t : VT) (ea : Nat) : Option (Cause × Word) :=
  if spaceEnd s v .loc < ea + 512 then some (.laddr, BitVec.ofNat 64 ea)
  else if ea % max (vtBits t / 8) 1 ≠ 0 then some (.align, BitVec.ofNat 64 ea)
  else none

/-- `vld.l` (R129) -/
def vectorLoadLocal (s : State) (v : VAccess) (d : Fin 32) (t : VT) (mask ea : Nat) : VOut :=
  match localRange s v t ea with
  | some f => .ofFault f.1 f.2
  | none => loadRaw s v .loc d t mask ea

/-- `vst.l` (R129) -/
def vectorStoreLocal (s : State) (v : VAccess) (t : VT) (mask ea : Nat) (x : VReg) : VOut :=
  match localRange s v t ea with
  | some f => .ofFault f.1 f.2
  | none => storeRaw s v .loc t mask ea x

/-! ## Formatted banks (R130, R131) -/

/-- The descriptor that converts, of the bank of an address; 0 outside the scratchpad. -/
def bankDesc (fmts : List Word) (ea : Nat) : Nat := if ea < 0x100000 then (fmts.getD (ea / 65536) 0).toNat else 0

/-- A descriptor under which bytes move unchanged for the sizes of R130: kinds 3 and 7, and 0 or invalid ones, which fault
afterwards. -/
def movesRaw (d : Nat) : Bool := !descValid d || descKind d == 3 || descKind d == 7

/-- The checks of R130 on a footprint. -/
def tileRange (s : State) (v : VAccess) (fmts : List Word) (ea bytes : Nat) : Option (Cause × Word) :=
  let d := bankDesc fmts ea
  if spaceEnd s v .scratch < ea + bytes then some (.taddr, BitVec.ofNat 64 ea)
  else if ea % descBytes d ≠ 0 then some (.align, BitVec.ofNat 64 ea)
  else if !descValid d || (List.range ((ea + bytes - 1) / 65536 - ea / 65536 + 1)).any (fun k =>
      (fmts.getD (ea / 65536 + k) 0).toNat != d) then some (.bankfmt, BitVec.ofNat 64 ea)
  else none

/-- A value of a bank as an element of T (R130): a nf8 element whose VFMT is the bank's own moves unchanged. -/
def fromBank (t : VT) (vfmt rm d bits : Nat) : Nat × Nat :=
  if t = .nf8 ∧ d = vfmt then (bits, 0)
  else
    let x := descDecode d bits
    let r := vtEncode t vfmt rm (descIsInt d) x
    (r.1, r.2 ||| sigFlag [x])

/-- An element of T as a value of a bank, on the store-encoding path (R130). -/
def toBank (t : VT) (vfmt d bits : Nat) : Nat × Nat :=
  let x := vtDecode t vfmt bits
  let r := descEncode d 0 true (vtIntLike t vfmt) x
  (r.1, r.2 ||| sigFlag [x])

/-- `vld.t` (R130) -/
def vectorLoadTile (s : State) (v : VAccess) (fmts : List Word) (d : Fin 32) (t : VT) (vfmt rm mask ea : Nat) : VOut :=
  let b := bankDesc fmts ea
  let raw := movesRaw b
  let eb := descBits b
  match tileRange s v fmts ea (if raw then 512 else vtCount t * eb / 8) with
  | some f => .ofFault f.1 f.2
  | none =>
    if raw then loadRaw s v .scratch d t mask ea
    else
      let slots := (activeIdx t mask).map (fun i => (i, slotOf ea eb i))
      match badActive s v .scratch slots (max 1 (eb / 8)) with
      | some a => .ofFault .eccloc (BitVec.ofNat 64 a)
      | none => elemwise d (vtBits t) (vtCount t) mask (fun i =>
          let p := slotOf ea eb i
          fromBank t vfmt rm b (readElem s v .scratch p.1 eb p.2 (100 + i) (chunkOf t i)))

/-- `vst.t` (R130) -/
def vectorStoreTile (s : State) (v : VAccess) (fmts : List Word) (t : VT) (vfmt mask ea : Nat) (x : VReg) : VOut :=
  let b := bankDesc fmts ea
  let raw := movesRaw b
  let eb := descBits b
  match tileRange s v fmts ea (if raw then 512 else vtCount t * eb / 8) with
  | some f => .ofFault f.1 f.2
  | none =>
    if raw then storeRaw s v .scratch t mask ea x
    else
      let rs := (activeIdx t mask).map (fun i => ((chunkOf t i, slotOf ea eb i), toBank t vfmt b (elemGet x (vtBits t) i)))
      ⟨[], orFlags (rs.map (·.2)), storeElems s v .scratch eb (rs.map (fun e => (e.1.1, e.1.2.1, e.1.2.2, e.2.1))), none⟩

/-- The address of element i of a gather or scatter (R131). -/
def gatherAddr (base es : Nat) (idx : VReg) (i : Nat) : Nat := base + elemGet idx 16 i * es

/-- The checks of R131 on the bytes the active elements reach. With no active element and a base outside the scratchpad no bank holds
the base: its descriptor is then taken as 0, and the operation faults BANKFMT (log 49: DESIGN CHOICE). -/
def gatherRange (s : State) (v : VAccess) (fmts : List Word) (base es : Nat) (addrs : List Nat) : Option (Cause × Word) :=
  let d := bankDesc fmts base
  if addrs.any (fun a => decide (spaceEnd s v .scratch < a + es)) then some (.taddr, BitVec.ofNat 64 base)
  else if base % es ≠ 0 then some (.align, BitVec.ofNat 64 base)
  else if !descValid d || descBits d == 4 || addrs.any (fun a => (fmts.getD (a / 65536) 0).toNat != d) then
    some (.bankfmt, BitVec.ofNat 64 base)
  else none

/-- `vldx.t` (R131) -/
def vectorGather (s : State) (v : VAccess) (fmts : List Word) (d : Fin 32) (t : VT) (vfmt rm mask base : Nat)
    (idx : VReg) : VOut :=
  let b := bankDesc fmts base
  let es := descBytes b
  let idxs := activeIdx t mask
  match gatherRange s v fmts base es (idxs.map (gatherAddr base es idx)) with
  | some f => .ofFault f.1 f.2
  | none =>
    match badActive s v .scratch (idxs.map (fun i => (i, gatherAddr base es idx i, false))) es with
    | some a => .ofFault .eccloc (BitVec.ofNat 64 a)
    | none => elemwise d (vtBits t) (vtCount t) mask (fun i =>
        let x := readElem s v .scratch (gatherAddr base es idx i) (8 * es) false (100 + i) i
        if movesRaw b then (x, 0) else fromBank t vfmt rm b x)

/-- `vstx.t` (R131): the active elements in increasing order. -/
def vectorScatter (s : State) (v : VAccess) (fmts : List Word) (t : VT) (vfmt mask base : Nat) (idx x : VReg) : VOut :=
  let b := bankDesc fmts base
  let es := descBytes b
  let idxs := activeIdx t mask
  match gatherRange s v fmts base es (idxs.map (gatherAddr base es idx)) with
  | some f => .ofFault f.1 f.2
  | none =>
    let rs := idxs.map (fun i =>
      ((i, gatherAddr base es idx i),
        if movesRaw b then (elemGet x (vtBits t) i % 256, 0) else toBank t vfmt b (elemGet x (vtBits t) i)))
    ⟨[], orFlags (rs.map (·.2)), storeElems s v .scratch (8 * es) (rs.map (fun e => (e.1.1, e.1.2, false, e.2.1))), none⟩

/-! ## What an access asks of the banks, and which bytes it reaches (R116, R156, R247) -/

/-- The byte address of each active element of a tile access and how many bytes it takes there. -/
def tileSlots (fmts : List Word) (t : VT) (mask ea : Nat) : List (Nat × Nat) :=
  let b := bankDesc fmts ea
  let eb := if movesRaw b then vtBits t else descBits b
  (activeIdx t mask).map (fun i => ((slotOf ea eb i).1, max 1 (eb / 8)))

/-- The same of a gather or scatter. -/
def gatherSlots (fmts : List Word) (t : VT) (mask base : Nat) (idx : VReg) : List (Nat × Nat) :=
  let es := descBytes (bankDesc fmts base)
  (activeIdx t mask).map (fun i => (gatherAddr base es idx i, es))

/-- Runs of bytes, those that follow one another joined. -/
def joinRuns : List (Nat × Nat) → List (Nat × Nat)
  | [] => []
  | (a, n) :: t =>
    match joinRuns t with
    | (b, m) :: rest => if a ≤ b ∧ b ≤ a + n then (a, max n (b + m - a)) :: rest else (a, n) :: (b, m) :: rest
    | [] => [(a, n)]

/-- The bank each chunk of a vector operation asks for; none for a chunk without an active element. -/
def chunkBanks (fmts : List Word) (t : VT) (mask ea : Nat) : List (Option Nat) :=
  let slots := tileSlots fmts t mask ea
  (List.range 16).map (fun k => (((activeIdx t mask).zip slots).find? (fun e => chunkOf t e.1 == k)).map (fun e => e.2.1 / 65536))

/-- The bank each element of a gather or scatter asks for. -/
def elementBanks (fmts : List Word) (t : VT) (mask base : Nat) (idx : VReg) : List (Option Nat) :=
  let es := descBytes (bankDesc fmts base)
  (List.range (vtCount t)).map (fun i => if mask.testBit i then some (gatherAddr base es idx i / 65536) else none)

end Sys2Proof.Machine
end

