-- ==== Sys2Proof/Machine/Vector.lean ====
section
/-! DEFINITION. The vector unit: the meaning of each function, what it takes at issue, its start when the arbiter binds it to a
lane group, and its completion (R112 to R132, R135, R137, R290). -/

namespace Sys2Proof.Machine

/-! ## Evaluation -/

/-- What an operation of the vector unit comes to, from the registers it reads (`reg`) and the bank formats it sampled at its start. -/
def vectorEffect (s : State) (o : Op) (i : Instr) (reg : Fin 32 → VReg) : VOut :=
  let mask := o.mask.toNat
  let vf := o.vfmt.toNat
  let rm := o.rm
  let v := accessOf s o
  let fmts := o.fmts
  /- element results of two, three and one source registers -/
  let e2 (d a b : Fin 32) (t : VT) (f : Nat → Nat → Nat × Nat) : VOut :=
    elemwise d (vtBits t) (vtCount t) mask (fun n => f (elemGet (reg a) (vtBits t) n) (elemGet (reg b) (vtBits t) n))
  let e1 (d a : Fin 32) (t : VT) (f : Nat → Nat × Nat) : VOut :=
    elemwise d (vtBits t) (vtCount t) mask (fun n => f (elemGet (reg a) (vtBits t) n))
  let raw (f : Nat → Nat → Nat) (x y : Nat) : Nat × Nat := (f x y, 0)
  let shift (t : VT) (f : Nat → Nat → Nat) (x y : Nat) : Nat × Nat := (f x (y % vtBits t) % 2 ^ vtBits t, 0)
  let signed (t : VT) (x : Nat) : Int := sextNat x (vtBits t)
  let scalar (r : Nat × Nat) : VOut := .ofResults (o.tgts.map (fun g => (g, r.1))) r.2
  match i with
  | .vadd d a b t _ _ => e2 d a b t (arith2 t vf rm (· + ·) (fun x y => x.add rm y))
  | .vsub d a b t _ _ => e2 d a b t (arith2 t vf rm (· - ·) (fun x y => x.add rm y.neg))
  | .vmul d a b t _ _ => e2 d a b t (arith2 t vf rm (· * ·) (fun x y => x.mul y))
  | .vfma d a b t _ _ =>
    elemwise d (vtBits t) (vtCount t) mask (fun n =>
      arithFma t vf rm (elemGet (reg a) (vtBits t) n) (elemGet (reg b) (vtBits t) n) (elemGet (reg d) (vtBits t) n))
  | .vmin d a b t _ _ => e2 d a b t (arith2 t vf rm min (Val.minmax false))
  | .vmax d a b t _ _ => e2 d a b t (arith2 t vf rm max (Val.minmax true))
  | .vabs d a t _ _ => e1 d a t (arith1 t vf rm (fun x => x.natAbs) (fun x => (x.abs, sigFlag [x])))
  | .vneg d a t _ _ => e1 d a t (arith1 t vf rm (fun x => -x) (fun x => (x.neg, sigFlag [x])))
  | .vaddsat d a b t _ _ => e2 d a b t (fun x y => satElem (vtBits t) (signed t x + signed t y))
  | .vsubsat d a b t _ _ => e2 d a b t (fun x y => satElem (vtBits t) (signed t x - signed t y))
  | .vmulh d a b t _ _ => e2 d a b t (fun x y => (lowBits (vtBits t) (signed t x * signed t y / (2 ^ vtBits t : Nat)), 0))
  | .vabsdiff d a b t _ _ => e2 d a b t (fun x y => ((signed t x - signed t y).natAbs, 0))
  | .vand d a b t _ _ => e2 d a b t (raw (· &&& ·))
  | .vor d a b t _ _ => e2 d a b t (raw (· ||| ·))
  | .vxor d a b t _ _ => e2 d a b t (raw (· ^^^ ·))
  | .vandn d a b t _ _ => e2 d a b t (raw (fun x y => x &&& (2 ^ vtBits t - 1 - y)))
  | .vshl d a b t _ _ => e2 d a b t (shift t (fun x n => x * 2 ^ n))
  | .vshr d a b t _ _ => e2 d a b t (shift t (fun x n => x / 2 ^ n))
  | .vsra d a b t _ _ => e2 d a b t (fun x y => (lowBits (vtBits t) (signed t x / (2 ^ (y % vtBits t) : Nat)), 0))
  | .vrot d a b t _ _ => e2 d a b t (shift t (fun x n => x / 2 ^ n + x * 2 ^ (vtBits t - n)))
  | .vceq d a b t _ _ => compareAll .eq d t vf mask (reg a) (reg b)
  | .vclt d a b t _ _ => compareAll .lt d t vf mask (reg a) (reg b)
  | .vcle d a b t _ _ => compareAll .le d t vf mask (reg a) (reg b)
  | .vcne d a b t _ _ => compareAll .ne d t vf mask (reg a) (reg b)
  | .vsel d a b t _ _ =>
    elemwise d (vtBits t) (vtCount t) (2 ^ vtCount t - 1) (fun n =>
      (elemGet (if mask.testBit n then reg a else reg b) (vtBits t) n, 0))
  | .vmov d a t _ _ => e1 d a t (fun x => (x, 0))
  | .vbcast d _ t _ _ => elemwise d (vtBits t) (vtCount t) mask (fun _ => (scalarElem t vf o.a, 0))
  | .vzero d t _ _ => elemwise d (vtBits t) (vtCount t) mask (fun _ => (0, 0))
  | .vcvtSame d a t u _ _ => elemwise d (vtBits u) (vtCount u) mask (fun n => convertElem t u vf rm (elemGet (reg a) (vtBits t) n))
  | .vcvtWiden2 d a t u _ _ => widenAll d 2 t u vf rm mask (reg a)
  | .vcvtWiden4 d a t u _ _ => widenAll d 4 t u vf rm mask (reg a)
  | .vcvtNarrow d a t u _ _ =>
    let g := vtBits t / vtBits u
    narrowAll d g t u vf rm mask ((List.range g).map (fun j => reg (Fin.ofNat 32 (a.val + j))))
  | .vredsum _ a t _ _ => scalar (redSum t vf rm mask (reg a))
  | .vredmax _ a t _ _ => scalar (redExtreme true t vf rm mask (reg a))
  | .vredmin _ a t _ _ => scalar (redExtreme false t vf rm mask (reg a))
  | .vdot _ a b t _ _ => scalar (dotAll t vf rm mask (reg a) (reg b))
  | .vperm d a b t _ _ =>
    elemwise d (vtBits t) (vtCount t) mask (fun n =>
      (elemGet (reg a) (vtBits t) (elemGet (reg b) (vtBits t) n % vtCount t), 0))
  | .vslide d a _ t _ _ =>
    elemwise d (vtBits t) (vtCount t) mask (fun n =>
      let p : Int := (n : Int) + o.a.toInt
      (if 0 ≤ p ∧ p < vtCount t then elemGet (reg a) (vtBits t) p.toNat else 0, 0))
  | .vext _ a _ t _ => scalar (extractElem t vf rm (reg a) (o.a.toNat % vtCount t))
  | .vins d _ _ t _ =>
    let j := o.b.toNat % vtCount t
    elemwise d (vtBits t) (vtCount t) (2 ^ j) (fun _ => (scalarElem t vf o.a, 0))
  | .vldT d _ t _ _ => vectorLoadTile s v fmts d t vf rm mask o.a.toNat
  | .vldL d _ t _ _ => vectorLoadLocal s v d t mask o.a.toNat
  | .vldxT d _ b t _ _ => vectorGather s v fmts d t vf rm mask o.a.toNat (reg b)
  | .vstT d _ t _ _ => vectorStoreTile s v fmts t vf mask o.a.toNat (reg d)
  | .vstL d _ t _ _ => vectorStoreLocal s v t mask o.a.toNat (reg d)
  | .vstxT d _ b t _ _ => vectorScatter s v fmts t vf mask o.a.toNat (reg b) (reg d)
  | .vrcpr d a b _ _ => e2 d a b .f32 (refine rm (rcpStep rm))
  | .vrsqr d a b _ _ => e2 d a b .f32 (refine rm (rsqStep rm))
  | .vrnd d a t _ _ => e1 d a t (roundIntegral t vf rm)
  | .vfloor d a t _ _ => e1 d a t (roundIntegral t vf 3)
  | .vtpack d a _ => .ofResults [(.v d 8 (2 ^ 512 - 1), ternPack (reg a))] 0
  | .vtunp d a _ =>
    match badTern (reg a) with
    | some j => .ofFault .illtrit (BitVec.ofNat 64 j)
    | none => .ofResults [(.v d 8 (2 ^ 512 - 1), ternUnpack (reg a))] 0
  | .vtqnt d a _ _ _ => e1 d a .f32 (fun x => quantElem (fp32.decode x) (fpSrc o.a))
  | .vtchk d a _ => .ofResults [(.k d, ternCheck (reg a))] 0
  | _ => .ofResults [] 0

/-- The occupancy of an operation in clk (R116). -/
def occupancy : Instr → Nat
  | .vcvtWiden2 .. => 32
  | .vcvtWiden4 .. => 64
  | .vcvtNarrow _ _ t u _ _ => 16 * (vtBits t / vtBits u)
  | .vldxT _ _ _ t _ _ => vtCount t
  | .vstxT _ _ _ t _ _ => vtCount t
  | _ => 16

/-! ## Issue (R112 to R116, R119) -/

/-- The memory a vector operation accesses. -/
inductive VSpace where
  | none_
  | local_
  | tile
  deriving DecidableEq, Repr

/-- The target of a vector register at issue: which elements are written is not known yet. -/
def vTarget (d : Fin 32) : Target := .v d 8 0

/-- A scalar-result operation names an s-register and takes the next history entry. -/
def sTarget (s : State) (d : Fin 32) : Target := .s d s.me.hptr

/-- The operations of a core that wait for the arbiter: 16 places (R116). -/
def vectorRoom (s : State) : Bool := decide ((s.core s.myCore).vqueue.length < 16)

/-- The bytes of the scratchpad that a vector access of the issuing task reaches, as its base address, the bank formats and its index
register stand at issue. -/
def reachedBytes (s : State) (i : Instr) (mask ea : Nat) : List (Space × Nat × Nat) :=
  let c := s.me
  let fmts := s.formats c.job (c.vcore / 8)
  let slots := match i with
    | .vldT _ _ t _ _ | .vstT _ _ t _ _ => tileSlots fmts t mask ea
    | .vldxT _ _ b t _ _ | .vstxT _ _ b t _ _ => gatherSlots fmts t mask ea (c.v.getD b.val 0)
    | _ => []
  (joinRuns slots).map (fun e =>
    let flat := scratchAddr c.job (c.vcore / 8) e.1
    (.scratch, flat, flat + e.2))

/-- An operation of the vector unit issues: `ok` are its operand conditions, `regs` the registers it names, `srcs` those it
reads, `sr` the s-registers it reads now, `tgts` where its results go. A tile access stays behind the scalar accesses of its task to the
same bytes that are still to be performed (R132, R247, R248). -/
def vectorIssue (i : Instr) (k : Fin 4) (ok : Bool) (regs srcs : List Nat) (sr : List (Fin 32)) (tgts : List Target)
    (sp : VSpace) (s : State) : Res := do
  need ok .illopnd
  need (regs.all (fun r => decide (r < s.me.v.length))) .valloc
  let mask ← rdK s 60 k.val
  let a ← (match sr with
    | x :: _ => rd s 61 (.s x)
    | [] => .ok 0)
  let b ← (match sr with
    | _ :: y :: _ => rd s 62 (.s y)
    | _ => .ok 0)
  ready (vectorRoom s)
  let c := s.me
  let queue (s : State) (id : Nat) : State := s.updCore s.myCore (fun x => { x with vqueue := x.vqueue ++ [id] })
  match sp with
  | .none_ => fall (queue (startVec s (.vector i) mask a b srcs tgts [] 0) s.serial)
  | .local_ =>
    ready (!s.countFull c.task .tile)
    let s0 := s.newAcc c.task .core .core true
    fall (queue (startVec s0 (.vector i) mask a b srcs tgts [] s.serial) s0.serial)
  | .tile =>
    ready (!s.countFull c.task .tile)
    let waits := heldBy s .core none ++ s.overlapping c.task .core (reachedBytes s i mask.toNat a.toNat)
    let s0 := s.newAcc c.task .tile .core false
    fall (queue (startVec s0 (.vector i) mask a b srcs tgts waits s.serial) s0.serial)

/-- A function of two vector registers into a third. -/
def vecTwo (i : Instr) (d a b : Fin 32) (k : Fin 4) (m : Mark) (s : State) : Host.Outcome State Fault Refusal :=
  issueStart m s (vectorIssue i k true [d.val, a.val, b.val] [a.val, b.val] [] [vTarget d] .none_ s)

/-- A function of one vector register into another. -/
def vecOne (i : Instr) (d a : Fin 32) (k : Fin 4) (m : Mark) (s : State) : Host.Outcome State Fault Refusal :=
  issueStart m s (vectorIssue i k true [d.val, a.val] [a.val] [] [vTarget d] .none_ s)

/-- A compare: k0 is no destination (R20). -/
def vecCompare (i : Instr) (d : Fin 8) (a b : Fin 32) (k : Fin 4) (m : Mark) (s : State) :
    Host.Outcome State Fault Refusal :=
  issueStart m s (vectorIssue i k (d != 0) [a.val, b.val] [a.val, b.val] [] [.k d] .none_ s)

/-- A reduction of one register into an s-register. -/
def vecReduce (i : Instr) (d a : Fin 32) (k : Fin 4) (m : Mark) (s : State) : Host.Outcome State Fault Refusal :=
  issueStart m s (vectorIssue i k true [a.val] [a.val] [] [sTarget s d] .none_ s)

/-- `vadd` -/
def execVadd (d a b : Fin 32) (t : VT) (k : Fin 4) (m : Mark) (s : State) := vecTwo (.vadd d a b t k m) d a b k m s
/-- `vsub` -/
def execVsub (d a b : Fin 32) (t : VT) (k : Fin 4) (m : Mark) (s : State) := vecTwo (.vsub d a b t k m) d a b k m s
/-- `vmul` -/
def execVmul (d a b : Fin 32) (t : VT) (k : Fin 4) (m : Mark) (s : State) := vecTwo (.vmul d a b t k m) d a b k m s
/-- `vfma` also reads its destination. -/
def execVfma (d a b : Fin 32) (t : VT) (k : Fin 4) (m : Mark) (s : State) : Host.Outcome State Fault Refusal :=
  issueStart m s (vectorIssue (.vfma d a b t k m) k true [d.val, a.val, b.val] [a.val, b.val, d.val] [] [vTarget d] .none_ s)
/-- `vmin` -/
def execVmin (d a b : Fin 32) (t : VT) (k : Fin 4) (m : Mark) (s : State) := vecTwo (.vmin d a b t k m) d a b k m s
/-- `vmax` -/
def execVmax (d a b : Fin 32) (t : VT) (k : Fin 4) (m : Mark) (s : State) := vecTwo (.vmax d a b t k m) d a b k m s
/-- `vabs` -/
def execVabs (d a : Fin 32) (t : VT) (k : Fin 4) (m : Mark) (s : State) := vecOne (.vabs d a t k m) d a k m s
/-- `vneg` -/
def execVneg (d a : Fin 32) (t : VT) (k : Fin 4) (m : Mark) (s : State) := vecOne (.vneg d a t k m) d a k m s
/-- `vaddsat` -/
def execVaddsat (d a b : Fin 32) (t : VT) (k : Fin 4) (m : Mark) (s : State) := vecTwo (.vaddsat d a b t k m) d a b k m s
/-- `vsubsat` -/
def execVsubsat (d a b : Fin 32) (t : VT) (k : Fin 4) (m : Mark) (s : State) := vecTwo (.vsubsat d a b t k m) d a b k m s
/-- `vmulh` -/
def execVmulh (d a b : Fin 32) (t : VT) (k : Fin 4) (m : Mark) (s : State) := vecTwo (.vmulh d a b t k m) d a b k m s
/-- `vabsdiff` -/
def execVabsdiff (d a b : Fin 32) (t : VT) (k : Fin 4) (m : Mark) (s : State) := vecTwo (.vabsdiff d a b t k m) d a b k m s
/-- `vand` -/
def execVand (d a b : Fin 32) (t : VT) (k : Fin 4) (m : Mark) (s : State) := vecTwo (.vand d a b t k m) d a b k m s
/-- `vor` -/
def execVor (d a b : Fin 32) (t : VT) (k : Fin 4) (m : Mark) (s : State) := vecTwo (.vor d a b t k m) d a b k m s
/-- `vxor` -/
def execVxor (d a b : Fin 32) (t : VT) (k : Fin 4) (m : Mark) (s : State) := vecTwo (.vxor d a b t k m) d a b k m s
/-- `vandn` -/
def execVandn (d a b : Fin 32) (t : VT) (k : Fin 4) (m : Mark) (s : State) := vecTwo (.vandn d a b t k m) d a b k m s
/-- `vshl` -/
def execVshl (d a b : Fin 32) (t : VT) (k : Fin 4) (m : Mark) (s : State) := vecTwo (.vshl d a b t k m) d a b k m s
/-- `vshr` -/
def execVshr (d a b : Fin 32) (t : VT) (k : Fin 4) (m : Mark) (s : State) := vecTwo (.vshr d a b t k m) d a b k m s
/-- `vsra` -/
def execVsra (d a b : Fin 32) (t : VT) (k : Fin 4) (m : Mark) (s : State) := vecTwo (.vsra d a b t k m) d a b k m s
/-- `vrot` -/
def execVrot (d a b : Fin 32) (t : VT) (k : Fin 4) (m : Mark) (s : State) := vecTwo (.vrot d a b t k m) d a b k m s
/-- `vceq` -/
def execVceq (d : Fin 8) (a b : Fin 32) (t : VT) (k : Fin 4) (m : Mark) (s : State) := vecCompare (.vceq d a b t k m) d a b k m s
/-- `vclt` -/
def execVclt (d : Fin 8) (a b : Fin 32) (t : VT) (k : Fin 4) (m : Mark) (s : State) := vecCompare (.vclt d a b t k m) d a b k m s
/-- `vcle` -/
def execVcle (d : Fin 8) (a b : Fin 32) (t : VT) (k : Fin 4) (m : Mark) (s : State) := vecCompare (.vcle d a b t k m) d a b k m s
/-- `vcne` -/
def execVcne (d : Fin 8) (a b : Fin 32) (t : VT) (k : Fin 4) (m : Mark) (s : State) := vecCompare (.vcne d a b t k m) d a b k m s
/-- `vsel` -/
def execVsel (d a b : Fin 32) (t : VT) (k : Fin 4) (m : Mark) (s : State) := vecTwo (.vsel d a b t k m) d a b k m s
/-- `vmov` -/
def execVmov (d a : Fin 32) (t : VT) (k : Fin 4) (m : Mark) (s : State) := vecOne (.vmov d a t k m) d a k m s
/-- `vbcast` reads an s-register at issue; it cannot fault at start. -/
def execVbcast (d a : Fin 32) (t : VT) (k : Fin 4) (m : Mark) (s : State) : Host.Outcome State Fault Refusal :=
  issue32 m s (vectorIssue (.vbcast d a t k m) k true [d.val] [] [a] [vTarget d] .none_ s)
/-- `vzero` -/
def execVzero (d : Fin 32) (t : VT) (k : Fin 4) (m : Mark) (s : State) : Host.Outcome State Fault Refusal :=
  issue32 m s (vectorIssue (.vzero d t k m) k true [d.val] [] [] [vTarget d] .none_ s)
/-- `vcvt.same` -/
def execVcvtSame (d a : Fin 32) (t u : VT) (k : Fin 4) (m : Mark) (s : State) := vecOne (.vcvtSame d a t u k m) d a k m s

/-- The registers of a group of g. -/
def groupRegs (d : Fin 32) (g : Nat) : List Nat := (List.range g).map (fun j => d.val + j)

/-- A conversion into a group, whose first register is aligned (R23). -/
def vecWiden (i : Instr) (g : Nat) (d a : Fin 32) (k : Fin 4) (m : Mark) (s : State) : Host.Outcome State Fault Refusal :=
  issueStart m s (vectorIssue i k (d.val % g == 0) (a.val :: groupRegs d g) [a.val] []
    ((List.range g).map (fun j => vTarget (Fin.ofNat 32 (d.val + j)))) .none_ s)

/-- `vcvt.widen2` -/
def execVcvtWiden2 (d a : Fin 32) (t u : VT) (k : Fin 4) (m : Mark) (s : State) := vecWiden (.vcvtWiden2 d a t u k m) 2 d a k m s
/-- `vcvt.widen4` -/
def execVcvtWiden4 (d a : Fin 32) (t u : VT) (k : Fin 4) (m : Mark) (s : State) := vecWiden (.vcvtWiden4 d a t u k m) 4 d a k m s
/-- `vcvt.narrow` from a pair or a quad, by the width ratio (R125). -/
def execVcvtNarrow (d a : Fin 32) (t u : VT) (k : Fin 4) (m : Mark) (s : State) : Host.Outcome State Fault Refusal :=
  let g := vtBits t / vtBits u
  issueStart m s (vectorIssue (.vcvtNarrow d a t u k m) k (a.val % g == 0) (d.val :: groupRegs a g) (groupRegs a g) []
    [vTarget d] .none_ s)
/-- `vredsum` -/
def execVredsum (d a : Fin 32) (t : VT) (k : Fin 4) (m : Mark) (s : State) := vecReduce (.vredsum d a t k m) d a k m s
/-- `vredmax` -/
def execVredmax (d a : Fin 32) (t : VT) (k : Fin 4) (m : Mark) (s : State) := vecReduce (.vredmax d a t k m) d a k m s
/-- `vredmin` -/
def execVredmin (d a : Fin 32) (t : VT) (k : Fin 4) (m : Mark) (s : State) := vecReduce (.vredmin d a t k m) d a k m s
/-- `vdot` -/
def execVdot (d a b : Fin 32) (t : VT) (k : Fin 4) (m : Mark) (s : State) : Host.Outcome State Fault Refusal :=
  issueStart m s (vectorIssue (.vdot d a b t k m) k true [a.val, b.val] [a.val, b.val] [] [sTarget s d] .none_ s)
/-- `vperm` -/
def execVperm (d a b : Fin 32) (t : VT) (k : Fin 4) (m : Mark) (s : State) := vecTwo (.vperm d a b t k m) d a b k m s
/-- `vslide`: VB names an s-register. -/
def execVslide (d a b : Fin 32) (t : VT) (k : Fin 4) (m : Mark) (s : State) : Host.Outcome State Fault Refusal :=
  issueStart m s (vectorIssue (.vslide d a b t k m) k true [d.val, a.val] [a.val] [b] [vTarget d] .none_ s)
/-- `vext`: VD and VB name s-registers. -/
def execVext (d a b : Fin 32) (t : VT) (m : Mark) (s : State) : Host.Outcome State Fault Refusal :=
  issueStart m s (vectorIssue (.vext d a b t m) 0 true [a.val] [a.val] [b] [sTarget s d] .none_ s)
/-- `vins`: VA and VB name s-registers. -/
def execVins (d a b : Fin 32) (t : VT) (m : Mark) (s : State) : Host.Outcome State Fault Refusal :=
  issue32 m s (vectorIssue (.vins d a b t m) 0 true [d.val] [] [a, b] [vTarget d] .none_ s)
/-- `vld.t` -/
def execVldT (d a : Fin 32) (t : VT) (k : Fin 4) (m : Mark) (s : State) : Host.Outcome State Fault Refusal :=
  issueStart m s (vectorIssue (.vldT d a t k m) k true [d.val] [] [a] [vTarget d] .tile s)
/-- `vld.l` -/
def execVldL (d a : Fin 32) (t : VT) (k : Fin 4) (m : Mark) (s : State) : Host.Outcome State Fault Refusal :=
  issueStart m s (vectorIssue (.vldL d a t k m) k true [d.val] [] [a] [vTarget d] .local_ s)
/-- `vldx.t`: VB is the index register. -/
def execVldxT (d a b : Fin 32) (t : VT) (k : Fin 4) (m : Mark) (s : State) : Host.Outcome State Fault Refusal :=
  issueStart m s (vectorIssue (.vldxT d a b t k m) k true [d.val, b.val] [b.val] [a] [vTarget d] .tile s)
/-- `vst.t`: VD is the data. -/
def execVstT (d a : Fin 32) (t : VT) (k : Fin 4) (m : Mark) (s : State) : Host.Outcome State Fault Refusal :=
  issueStart m s (vectorIssue (.vstT d a t k m) k true [d.val] [d.val] [a] [] .tile s)
/-- `vst.l` -/
def execVstL (d a : Fin 32) (t : VT) (k : Fin 4) (m : Mark) (s : State) : Host.Outcome State Fault Refusal :=
  issueStart m s (vectorIssue (.vstL d a t k m) k true [d.val] [d.val] [a] [] .local_ s)
/-- `vstx.t` -/
def execVstxT (d a b : Fin 32) (t : VT) (k : Fin 4) (m : Mark) (s : State) : Host.Outcome State Fault Refusal :=
  issueStart m s (vectorIssue (.vstxT d a b t k m) k true [d.val, b.val] [d.val, b.val] [a] [] .tile s)
/-- `vrcpr` -/
def execVrcpr (d a b : Fin 32) (k : Fin 4) (m : Mark) (s : State) := vecTwo (.vrcpr d a b k m) d a b k m s
/-- `vrsqr` -/
def execVrsqr (d a b : Fin 32) (k : Fin 4) (m : Mark) (s : State) := vecTwo (.vrsqr d a b k m) d a b k m s
/-- `vrnd` -/
def execVrnd (d a : Fin 32) (t : VT) (k : Fin 4) (m : Mark) (s : State) := vecOne (.vrnd d a t k m) d a k m s
/-- `vfloor` -/
def execVfloor (d a : Fin 32) (t : VT) (k : Fin 4) (m : Mark) (s : State) := vecOne (.vfloor d a t k m) d a k m s
/-- `vtpack` -/
def execVtpack (d a : Fin 32) (m : Mark) (s : State) := vecOne (.vtpack d a m) d a 0 m s
/-- `vtunp` -/
def execVtunp (d a : Fin 32) (m : Mark) (s : State) := vecOne (.vtunp d a m) d a 0 m s
/-- `vtqnt`: VB names the s-register that holds θ. -/
def execVtqnt (d a b : Fin 32) (k : Fin 4) (m : Mark) (s : State) : Host.Outcome State Fault Refusal :=
  issueStart m s (vectorIssue (.vtqnt d a b k m) k true [d.val, a.val] [a.val] [b] [vTarget d] .none_ s)
/-- `vtchk`: k0 is no destination. -/
def execVtchk (d : Fin 8) (a : Fin 32) (m : Mark) (s : State) : Host.Outcome State Fault Refusal :=
  issueStart m s (vectorIssue (.vtchk d a m) 0 (d != 0) [a.val] [a.val] [] [.k d] .none_ s)

/-! ## Reading source registers (R27, R115, R331) -/

/-- A vector register as an operation reads it: each element of a result still pending for it is old or new (R27). -/
def overlay (s : State) (place : Nat) (r : Nat) : Nat → VReg → List Pending → VReg
  | _, x, [] => x
  | n, x, p :: t =>
    match p.target with
    | .v m w act =>
      if m.val = r then
        let take := (List.range (4096 / w)).foldl
          (fun acc i => if Config.pick s.free (place * 65536 + n * 1024 + i) % 2 = 0 then acc else acc ||| 2 ^ i) 0
        overlay s place r (n + 1) (mergeElems w (act &&& take) x (BitVec.ofNat 4096 p.value)) t
      else overlay s place r n x t
    | _ => overlay s place r n x t

/-- Source register r of an operation of a context. -/
def readV (s : State) (c : Ctx) (place r : Nat) : VReg := overlay s place r 0 (c.v.getD r 0) c.pend

/-- The number by which the soft error of a byte of a vector register is kept. -/
def eccOfByte (r byte : Nat) : Nat := 128 + 512 * r + byte

/-- The elements of width `w` that share a byte. -/
def elemsAt (w byte : Nat) : List Nat := if w = 4 then [2 * byte, 2 * byte + 1] else [byte / (w / 8)]

/-- An operation reads an element that lies in a byte of source register `r` (R114, R331): of a function that works element by element
the active ones, of the others those they name. -/
def readsByte (o : Op) (i : Instr) (reg : Fin 32 → VReg) (r byte : Nat) : Bool :=
  let on (n : Nat) : Bool := o.mask.toNat.testBit n
  let at_ (t : VT) : Bool := (elemsAt (vtBits t) byte).any (fun e => decide (e < vtCount t) && on e)
  let index (t : VT) : Bool := decide (byte / 2 < vtCount t) && on (byte / 2)
  match i with
  | .vadd _ _ _ t _ _ | .vsub _ _ _ t _ _ | .vmul _ _ _ t _ _ | .vfma _ _ _ t _ _ | .vmin _ _ _ t _ _
  | .vmax _ _ _ t _ _ | .vaddsat _ _ _ t _ _ | .vsubsat _ _ _ t _ _ | .vmulh _ _ _ t _ _ | .vabsdiff _ _ _ t _ _
  | .vand _ _ _ t _ _ | .vor _ _ _ t _ _ | .vxor _ _ _ t _ _ | .vandn _ _ _ t _ _ | .vshl _ _ _ t _ _
  | .vshr _ _ _ t _ _ | .vsra _ _ _ t _ _ | .vrot _ _ _ t _ _ | .vceq _ _ _ t _ _ | .vclt _ _ _ t _ _
  | .vcle _ _ _ t _ _ | .vcne _ _ _ t _ _ | .vdot _ _ _ t _ _ => at_ t
  | .vabs _ _ t _ _ | .vneg _ _ t _ _ | .vmov _ _ t _ _ | .vrnd _ _ t _ _ | .vfloor _ _ t _ _ | .vredsum _ _ t _ _
  | .vredmax _ _ t _ _ | .vredmin _ _ t _ _ | .vstT _ _ t _ _ | .vstL _ _ t _ _ => at_ t
  | .vcvtSame _ _ t _ _ _ | .vcvtWiden2 _ _ t _ _ _ | .vcvtWiden4 _ _ t _ _ _ => at_ t
  | .vcvtNarrow _ a t u _ _ =>
    let g := vtBits t / vtBits u
    (elemsAt (vtBits t) byte).any (fun e => on (e * g + (r - a.val)))
  | .vsel _ a b t _ _ => (elemsAt (vtBits t) byte).any (fun e => decide (e < vtCount t) && ((r == a.val && on e) || (r == b.val && !on e)))
  | .vperm _ a b t _ _ =>
    (r == b.val && at_ t) || (r == a.val && (List.range (vtCount t)).any (fun n =>
      on n && (elemsAt (vtBits t) byte).contains (elemGet (reg b) (vtBits t) n % vtCount t)))
  | .vslide _ _ _ t _ _ =>
    (List.range (vtCount t)).any (fun n => on n && (elemsAt (vtBits t) byte).any (fun e => (e : Int) == (n : Int) + o.a.toInt))
  | .vext _ _ _ t _ => (elemsAt (vtBits t) byte).contains (o.a.toNat % vtCount t)
  | .vldxT _ _ _ t _ _ => index t
  | .vstxT d _ b t _ _ => (r == d.val && at_ t) || (r == b.val && index t)
  | .vrcp _ _ t _ _ | .vrsq _ _ t _ _ | .vexp2 _ _ t _ _ | .vlog2 _ _ t _ _ | .vsin _ _ t _ _ | .vcos _ _ t _ _
  | .vtanh _ _ t _ _ | .vsigm _ _ t _ _ => at_ t
  | .vrcpr .. | .vrsqr .. | .vtqnt .. => at_ .f32
  | .vtpack .. => decide (byte < 480)
  | .vtunp .. | .vtchk .. => decide (byte < 96)
  | _ => false

/-- The lowest source register with an uncorrectable error in an element the operation reads. -/
def badSource (c : Ctx) (o : Op) (i : Instr) (reg : Fin 32 → VReg) : Option Nat :=
  if c.ecc.isEmpty then none
  else o.srcs.find? (fun r => (List.range 512).any (fun b => c.ecc.contains (eccOfByte r b) && readsByte o i reg r b))

/-! ## The arbiter (R116, R290) -/

/-- A register as it was read at an operation's start. -/
def regFrom (snap : List (Nat × VReg)) (n : Fin 32) : VReg := Map.getD snap n.val 0

/-- The operation runs on the vector unit. -/
def OpKind.isVector : OpKind → Bool
  | .vector _ => true
  | _ => false

/-- The head of a core's vector queue, where it may be bound now: offered from the clk after its issue, not held, and no
other operation of the core bound in this clk (R116, R250, R290). -/
def headOp (s : State) (core : Nat) : Option (Op × Instr) :=
  match (s.core core).vqueue with
  | [] => none
  | id :: _ =>
    match s.op? id with
    | some o =>
      match o.kind with
      | .vector i =>
        if o.issued < s.clk ∧ !s.anyWaiting o.waits
            ∧ !(s.ops.any (fun x => coreOf x.ctx == core && x.kind.isVector && x.started && x.start == s.clk)) then some (o, i) else none
      | _ => none
    | none => none

/-- The core the arbiter binds, scanning from the one after the last bound, and the deficits after it (R290). -/
def arbitrate (tile : Nat) (heads : List (Nat × Nat)) (vshare : List Nat) (last : Nat) : Nat → List Nat →
    Option (Nat × List Nat)
  | 0, _ => none
  | fuel + 1, deficit =>
    let order := (List.range 8).map (fun i => (last + 1 + i) % 8)
    match order.find? (fun c => heads.any (fun h => h.1 == c && decide (h.2 ≤ deficit.getD c 0))) with
    | some c =>
      let occ := (heads.find? (fun h => h.1 == c)).map (·.2) |>.getD 0
      some (c, deficit.set c (deficit.getD c 0 - occ))
    | none =>
      arbitrate tile heads vshare last fuel
        ((List.range 8).map (fun c => if heads.any (fun h => h.1 == c) then deficit.getD c 0 + 16 * max 1 (vshare.getD c 1)
          else deficit.getD c 0))

end Sys2Proof.Machine
end

