-- ==== Sys2Proof/Machine/Mask.lean ====
section
/-! DEFINITION. The mask instructions, which execute in the core with latency 2 (R116, R136). -/

namespace Sys2Proof.Machine

/-- A mask from two masks; k0 is no destination (R20). -/
def maskTwo (d a b : Fin 8) (m : Mark) (f : MaskReg → MaskReg → MaskReg) (s : State) : Host.Outcome State Fault Refusal :=
  issue32 m s (do
    need (d != 0) .illopnd
    let x ← rdK s 0 a.val
    let y ← rdK s 1 b.val
    fall (wrK s d (f x y)))

/-- A mask from one mask. -/
def maskOne (d a : Fin 8) (m : Mark) (f : MaskReg → MaskReg) (s : State) : Host.Outcome State Fault Refusal :=
  issue32 m s (do
    need (d != 0) .illopnd
    let x ← rdK s 0 a.val
    fall (wrK s d (f x)))

/-- A scalar from a mask: a producer. -/
def maskScalar (d : Fin 32) (a : Fin 8) (m : Mark) (f : MaskReg → Nat) (s : State) : Host.Outcome State Fault Refusal :=
  issue32 m s (do
    let x ← rdK s 0 a.val
    fall (wr s (.s d) (BitVec.ofNat 64 (f x)) 2))

/-- `kand` -/
def execKand (d a b : Fin 8) (m : Mark) (s : State) := maskTwo d a b m (fun x y => x &&& y) s
/-- `kor` -/
def execKor (d a b : Fin 8) (m : Mark) (s : State) := maskTwo d a b m (fun x y => x ||| y) s
/-- `kxor` -/
def execKxor (d a b : Fin 8) (m : Mark) (s : State) := maskTwo d a b m (fun x y => x ^^^ y) s
/-- `knot` -/
def execKnot (d a : Fin 8) (m : Mark) (s : State) := maskOne d a m (fun x => ~~~x) s
/-- `kmv` -/
def execKmv (d a : Fin 8) (m : Mark) (s : State) := maskOne d a m (fun x => x) s
/-- `kpop` -/
def execKpop (d : Fin 32) (a : Fin 8) (m : Mark) (s : State) := maskScalar d a m (fun x => popCount x.toNat 1024) s
/-- `kfirst` -/
def execKfirst (d : Fin 32) (a : Fin 8) (m : Mark) (s : State) :=
  maskScalar d a m (fun x => if x = 0 then 1024 else trailing x.toNat 1024) s

/-- The mask of the indices from lo up to below hi. -/
def rangeMask (lo hi : Nat) : MaskReg :=
  let h := min hi 1024
  if lo < h then BitVec.ofNat 1024 (2 ^ h - 2 ^ lo) else 0

/-- `kset` -/
def execKset (d : Fin 8) (a b : Fin 32) (m : Mark) (s : State) : Host.Outcome State Fault Refusal :=
  issue32 m s (do
    need (d != 0) .illopnd
    let lo ← rd s 0 (.s a)
    let hi ← rd s 1 (.s b)
    fall (wrK s d (rangeMask lo.toNat hi.toNat)))

end Sys2Proof.Machine
end

