-- ==== Sys2Proof/Machine/Storage.lean ====
section
/-! DEFINITION. Storage-backed pages (R301 to R304), migration (R306) and the storage hint (R205). -/

namespace Sys2Proof.Machine

/-! ## Frame pools (R301) -/

/-- log2 of the page size of a pool's z. -/
def sizeIndex (bits : Nat) : Nat := if bits = 16 then 0 else if bits = 21 then 1 else 2

/-- The pool of a stack and a page size. -/
def poolNo (stack bits : Nat) : Nat := 3 * stack + sizeIndex bits

/-- The pool of a number. -/
def State.pool (s : State) (p : Nat) : Pool := s.pools.getD p ⟨0, 0, false, 0, 0, [], []⟩
/-- Changes a pool. -/
def State.updPool (s : State) (p : Nat) (f : Pool → Pool) : State := { s with pools := s.pools.set p (f (s.pool p)) }

/-- A pool's ring is in use. -/
def Pool.inUse (p : Pool) : Bool := p.en && decide (4 ≤ p.log2n ∧ p.log2n ≤ 20)

/-- Frames in a pool's ring. -/
def Pool.inRing (p : Pool) : Nat := if p.inUse then (p.tail + 2 ^ 21 - p.head) % 2 ^ 21 else 0

/-- Frames of a spare list. -/
def spareLimit : Nat := 16

/-- A frame that hardware frees goes to the spare list of 16; one that finds it full is lost to the device, and logged (log 28: DESIGN
CHOICE). -/
def State.freeFrame (s : State) (pool frame : Nat) : State :=
  if (s.pool pool).spare.length < spareLimit then s.updPool pool (fun p => { p with spare := p.spare ++ [frame] })
  else { s with log := s.log ++ [LogEntry.poolFrame frame] }

/-- Takes a frame from the ring: one not aligned to its page is logged and skipped. -/
def takeRing (s : State) (no bits : Nat) : Nat → State × Option Nat
  | 0 => (s, none)
  | n + 1 =>
    let p := s.pool no
    if p.inRing = 0 then (s, none)
    else
      let f := leNat (s.hbm.read (p.pbase.toNat + 8 * (p.head % 2 ^ p.log2n)) 8)
      let s1 := s.updPool no (fun p => { p with head := (p.head + 1) % 2 ^ 21 })
      if f % 2 ^ bits = 0 then (s1, some f) else takeRing { s1 with log := s1.log ++ [LogEntry.poolFrame f] } no bits n

/-- Takes a frame from the spare list, else from the ring. -/
def State.takeFrame (s : State) (no bits : Nat) : State × Option Nat :=
  match (s.pool no).spare with
  | f :: t => (s.updPool no (fun p => { p with spare := t }), some f)
  | [] => takeRing s no bits (s.pool no).inRing

/-! ## Entries that hardware moves -/

/-- Drops the entries of one PTE from every TLB (R298). -/
def State.dropEntry (s : State) (pteAddr : Nat) : State :=
  let out (m : Map (List TlbEntry)) : Map (List TlbEntry) := m.map (fun e => (e.1, e.2.filter (fun x => x.pteAddr != pteAddr)))
  { s with stationTlb := out s.stationTlb, dieTlb := out s.dieTlb }

/-- No access translated to a frame is still under way (R298, R303). -/
def State.drained (s : State) (frame bits : Nat) : Bool :=
  !(s.packets.any (fun p => match p.body with
    | .access a => decide (frame ≤ a.pa ∧ a.pa < frame + 2 ^ bits)
    | _ => false))

/-- An entry present with a frame. -/
def pteNames (e frame : Nat) : Bool := pteP e && pteLeaf e && pteFrame e == frame

/-- The sweep of the clock over a pool's list (R303): the victim and its entry, none where every page is passed over. -/
def sweep (s : State) (no : Nat) : Nat → State × Option (ClockPage × Nat)
  | 0 => (s, none)
  | n + 1 =>
    match (s.pool no).clock with
    | [] => (s, none)
    | c :: t =>
      let e := s.pteAt c.pteAddr
      let pass (s : State) (c : ClockPage) : State := s.updPool no (fun p => { p with clock := t ++ [c] })
      if !pteNames e c.frame then sweep (s.updPool no (fun p => { p with clock := t })) no n
      else if ptePin e then sweep (pass s { c with held := false }) no n
      else if pteBusy e || c.held then sweep (pass s c) no n
      else if 0 < pteAcnt e then sweep (pass (s.writePte c.pteAddr (putField e 12 4 (pteAcnt e - 1))) c) no n
      else (s.updPool no (fun p => { p with clock := t }), some (c, e))

/-- Rounds a sweep may take: every page of the list is passed over at most 16 times. -/
def sweepRounds (p : Pool) : Nat := 17 * (p.clock.length + 1)

/-- Sets BUSY on a page and drops its entries everywhere. -/
def State.setBusy (s : State) (pteAddr e : Nat) : State := (s.writePte pteAddr (putField e 7 1 1)).dropEntry pteAddr

/-! ## The service of a record (R302) -/

/-- Changes a record of an SQE. -/
def State.updRecord (s : State) (port pte : Nat) (f : Service → Service) : State :=
  { s with sqes := s.sqes.set port (replaceIf (fun r => r.pteAddr == pte) f (s.sqes.getD port [])) }

/-- Forgets a record of an SQE. -/
def State.dropRecord (s : State) (port pte : Nat) : State :=
  { s with sqes := s.sqes.set port ((s.sqes.getD port []).filter (fun r => r.pteAddr != pte)) }

/-- The record of a PTE at an SQE. -/
def State.record? (s : State) (port pte : Nat) : Option Service := (s.sqes.getD port []).find? (fun r => r.pteAddr == pte)

/-- Gives a frame to a record: its NVMe Reads are issued. -/
def State.giveFrame (s : State) (port pte frame : Nat) : State :=
  s.updRecord port pte (fun r => { r with frame := some frame, started := s.clk, waiting := none, evicting := false })

/-- The pool that serves a record. -/
def Service.pool (r : Service) : Nat := poolNo (pteHstk r.locator) r.bits

/-- Blocks a locator stores. -/
def blocksOf (locator bits : Nat) : Nat := if locNblk locator = 0 then 2 ^ (bits - 12) else locNblk locator

/-- A locator that can be served: its port is enabled, its namespace has 4 KiB blocks and holds its range (R304). -/
def State.locatorOk (s : State) (e bits : Nat) : Bool := s.blocksOk (locPort e) (locNs e) (locLba e) (blocksOf e bits)

/-- NVMe commands of a range of blocks, each of at most 2 MiB (R302). -/
def commandsOf (blocks : Nat) : Nat := (blocks + 511) / 512

/-- Commands that an SQE may have in flight: 64 queue pairs of 256 entries (R305). -/
def queueLimit : Nat := 64 * 256

/-- The commands that an SQE has in flight. -/
def State.inFlight (s : State) (port : Nat) : Nat :=
  sumBy (fun r => if r.frame.isSome then commandsOf (blocksOf r.locator r.bits) else 0) (s.sqes.getD port [])
    + sumBy (fun m => if m.dest.isNone && pteD m.pte && locPort m.page.locator == port then commandsOf (blocksOf m.page.locator m.bits)
        else 0) s.moves

/-- A record without a frame takes one, or starts an eviction, or waits (R302 step 1). A locator that cannot be served fails as a
read does (R304). -/
def State.serve (s0 : State) (port : Nat) (r : Service) : State :=
  let s := s0.bringUp port
  if !s.locatorOk r.locator r.bits then (s.dropRecord port r.pteAddr).failParked r.pteAddr 7
  else
    match s.takeFrame r.pool r.bits with
    | (s1, some f) => s1.giveFrame port r.pteAddr f
    | (s1, none) =>
      match sweep s1 r.pool (sweepRounds (s1.pool r.pool)) with
      | (s2, some (c, e)) =>
        let m : Move := ⟨r.pool, c, putField e 7 1 1, none, (port, r.pteAddr), s.clk, r.bits⟩
        let s3 := s2.setBusy c.pteAddr e
        { s3 with moves := s3.moves ++ [m] }.updRecord port r.pteAddr (fun r => { r with evicting := true, waiting := none })
      | (s2, none) =>
        { s2 with log := s2.log ++ [LogEntry.poolDry r.pool] }.updRecord port r.pteAddr (fun r => { r with waiting := some s.clk })

/-- An SQE takes its oldest record that nothing has been done for, as its queues have room (R302, R305). -/
def execStorageServiceStart (port : Nat) (s : State) : Host.Outcome State Fault Refusal :=
  match (s.sqes.getD port []).find? (fun r => r.frame.isNone && r.waiting.isNone && !r.evicting) with
  | some r =>
    if s.inFlight port + commandsOf (blocksOf r.locator r.bits) ≤ queueLimit then .next { (s.serve port r) with free := s.free + 1 }
    else .next s
  | none => .next s

/-- A fill that waits for a frame tries again: with success at any time, else after 2²⁰ clk (R302). -/
def execFrameWaitRetry (port pte : Nat) (s : State) : Host.Outcome State Fault Refusal :=
  match s.record? port pte with
  | some r =>
    match r.waiting with
    | some t =>
      let p := s.pool r.pool
      if !p.spare.isEmpty || decide (0 < p.inRing) || (sweep s r.pool (sweepRounds p)).2.isSome || decide (t + 2 ^ 20 ≤ s.clk) then
        .next { (s.serve port { r with waiting := none }) with free := s.free + 1 }
      else .next s
    | none => .next s
  | none => .next s

/-- The entry of a page that has been filled (R302 step 4). -/
def filledPte (locator frame : Nat) : Nat :=
  1 + locator % 8 / 2 * 2 + 8 + 16 + 256 * pteHstk locator + 4096 + frame

/-- The contents of a page in storage: its blocks, then zeros. -/
def storedPage (s : State) (locator bits : Nat) : List Byte :=
  let n := 4096 * blocksOf locator bits
  s.nvme.data.read (nvmeAddr (locPort locator) (locNs locator) (locLba locator)) n ++ List.replicate (2 ^ bits - n) 0

/-- The read of a fill fails: the parked requests end with STORERR, and the frame is spare (R304). -/
def State.fillFailed (s : State) (port : Nat) (r : Service) (frame : Nat) : State :=
  (((s.dropRecord port r.pteAddr).freeFrame r.pool frame)).failParked r.pteAddr 7

/-- The reads of a fill have completed (R302 steps 2 to 6). -/
def State.fillDone (s : State) (port : Nat) (r : Service) (frame : Nat) : State :=
  let s1 := (s.dropRecord port r.pteAddr).loadBytes .hbm frame (storedPage s r.locator r.bits)
  if s.pteAt r.pteAddr = r.locator then
    ((s1.updPool r.pool (fun p => { p with clock := p.clock ++ [(⟨r.pteAddr, frame, r.locator, false⟩ : ClockPage)] })).writePte
      r.pteAddr (filledPte r.locator frame)).releaseParked r.pteAddr
  else (s1.freeFrame r.pool frame).releaseParked r.pteAddr

/-- The NVMe Reads of a fill end; those that took 4 s have failed (R302, R304). -/
def execFillComplete (port pte : Nat) (ok : Bool) (s : State) : Host.Outcome State Fault Refusal :=
  match s.record? port pte with
  | some r =>
    match r.frame with
    | some f => .next { (if ok && decide (s.clk < r.started + nvmeLimit) then s.fillDone port r f else s.fillFailed port r f) with
        free := s.free + 1 }
    | none => .next s
  | none => .next s

/-! ## Eviction (R303) -/

/-- The fill an eviction served looks for a frame again. -/
def State.serveAgain (s : State) (m : Move) : State :=
  match s.record? m.fill.1 m.fill.2 with
  | some r => s.serve m.fill.1 { r with evicting := false }
  | none => s

/-- Forgets a move. -/
def State.dropMove (s : State) (m : Move) : State := { s with moves := s.moves.filter (fun x => x != m) }

/-- The write-back failed: the page is present again, unchanged, and off the clock until software pins or unmaps it; the sweep
goes on (R304). Where software has changed the entry meanwhile its entry stands: it keeps the frame it still names, and the page leaves
the clock list; else the frame serves the fill (R298, R303). -/
def State.writebackFailed (s : State) (m : Move) : State :=
  let a := m.page.pteAddr
  let s0 := s.dropMove m
  if s.pteAt a = m.pte then
    (((s0.updPool m.pool (fun p => { p with clock := p.clock ++ [{ m.page with held := true }] })).writePte a (putField m.pte 7 1 0)).releaseParked
      a).serveAgain m
  else if pteNames (s.pteAt a) m.page.frame then (s0.releaseParked a).serveAgain m
  else (s0.giveFrame m.fill.1 m.fill.2 m.page.frame).releaseParked a

/-- The victim's contents are in storage, or were clean: its locator stands in its PTE, and its frame serves the fill that needed
it. An entry that software has changed stands (R303). -/
def State.evicted (s : State) (m : Move) : State :=
  let a := m.page.pteAddr
  let e := s.pteAt a
  let l := m.page.locator
  let s0 := s.dropMove m
  let s1 := if pteD m.pte then
      s0.nvmeWrite (locPort l) (locNs l) (locLba l) (s.hbm.read m.page.frame (min (2 ^ m.bits) (4096 * blocksOf l m.bits)))
    else s0
  if e = m.pte then ((s1.writePte a l).giveFrame m.fill.1 m.fill.2 m.page.frame).releaseParked a
  else if pteNames e m.page.frame then (s1.releaseParked a).serveAgain m
  else (s1.giveFrame m.fill.1 m.fill.2 m.page.frame).releaseParked a

/-- The eviction of a PTE's page. -/
def State.eviction? (s : State) (pte : Nat) : Option Move := s.moves.find? (fun m => m.page.pteAddr == pte && m.dest.isNone)

/-- An eviction ends once every access translated to its frame has been performed: with the completion of its NVMe Writes where
the page was dirty (R303), which have failed where they took 4 s (R304). -/
def execWritebackComplete (move : Nat) (ok : Bool) (s : State) : Host.Outcome State Fault Refusal :=
  match s.eviction? move with
  | some m =>
    if !s.drained m.page.frame m.bits then .next s
    else if pteD m.pte && !(ok && s.locatorOk m.page.locator m.bits && decide (s.clk < m.started + nvmeLimit)) then .next { (s.writebackFailed m) with free := s.free + 1 }
    else .next { (s.evicted m) with free := s.free + 1 }
  | none => .next s

/-- An NVMe command that has not completed within 4 s has failed (R304). -/
def execNvmeTimeout (port pte : Nat) (s : State) : Host.Outcome State Fault Refusal :=
  match s.record? port pte, s.eviction? pte with
  | some r, _ =>
    match r.frame with
    | some f => if r.started + nvmeLimit ≤ s.clk then .next { (s.fillFailed port r f) with free := s.free + 1 } else .next s
    | none => .next s
  | none, some m =>
    if pteD m.pte ∧ locPort m.page.locator = port ∧ m.started + nvmeLimit ≤ s.clk then
      .next { (s.writebackFailed m) with free := s.free + 1 }
    else .next s
  | none, none => .next s

/-! ## Migration (R306) -/

/-- The die that made at least three quarters of a region's accesses in a period of at least 4,096, if it is another one. -/
def busiestDie (s : State) (die job va period : Nat) : Option Nat :=
  let c (d : Nat) : Nat := s.counts.getD (countKey period d job va) 0
  let total := sumBy c (List.range 8)
  if total < 4096 then none else (List.range 8).find? (fun d => d != die && decide (3 * total ≤ 4 * c d))

/-- The stack of a die with more free frames of a size. -/
def roomierStack (s : State) (die bits : Nat) : Nat :=
  let n (st : Nat) : Nat := let p := s.pool (poolNo st bits); p.spare.length + p.inRing
  if n (2 * die) < n (2 * die + 1) then 2 * die + 1 else 2 * die

/-- Starts the migration of one page to a die, if a frame is to be had. -/
def startMigration (s : State) (d pteAddr e bits : Nat) : State :=
  let no := poolNo (roomierStack s d bits) bits
  match s.takeFrame no bits with
  | (s1, some f) =>
    let old := poolNo (fieldOf (pteFrame e) 37 4) bits
    let c : ClockPage := ((s.pool old).clock.find? (fun c => c.pteAddr == pteAddr)).getD ⟨pteAddr, pteFrame e, 0, false⟩
    let s2 := s1.setBusy pteAddr e
    { s2 with moves := s2.moves ++ [(⟨old, c, putField e 7 1 1, some f, (0, 0), s.clk, bits⟩ : Move)] }
  | (s1, none) => s1

/-- Reviews the pages of a region that a die holds; `n` counts the 64 KiB steps. -/
def reviewPages (s : State) (die d root va : Nat) : Nat → State
  | 0 => s
  | n + 1 =>
    let s1 := match s.lookup root va with
      | some (pa, e, addr, bits) =>
        if bits ≤ 21 && va % 2 ^ bits == 0 && !ptePin e && !pteBusy e && !pa.testBit 51 && fieldOf pa 37 4 / 2 == die then
          startMigration s d addr e bits
        else s
      | none => s
    reviewPages s1 die d root (va + 65536) n

/-- Every 2²⁰ clk a die reviews the counts of a region, numbered job × 2³¹ + VA / 2²¹. -/
def execMigrationReview (die region : Nat) (s : State) : Host.Outcome State Fault Refusal :=
  if s.clk % reviewPeriod ≠ 0 ∨ s.clk = 0 ∨ 8 ≤ die then .next s
  else
    let job := region / 2 ^ 31
    let va := region % 2 ^ 31 * 2 ^ 21
    match s.job? job, busiestDie s die job va (s.clk / reviewPeriod - 1) with
    | some j, some d => .next { (reviewPages s die d j.ptroot va 32) with free := s.free + 1 }
    | _, _ => .next s

/-- The page's bytes, and the order of the writes of each, go to the new frame: no value a program can read changes. -/
def State.relocate (s : State) (src dst bits : Nat) : State :=
  let inOld (a : Nat) : Bool := decide (src ≤ a ∧ a < src + 2 ^ bits)
  { s with
    hbm := (s.hbm.clear dst (2 ^ bits)).write dst (s.hbm.read src (2 ^ bits))
    writes := (s.writes.filter (fun w => !(w.space == .hbm && decide (dst ≤ w.addr ∧ w.addr < dst + 2 ^ bits)))).map
      (fun w => if w.space == .hbm && inOld w.addr then { w with addr := w.addr - src + dst } else w) }

/-- The page of a migration has its new frame: FRAME and HSTK change and BUSY clears, and the old frame is spare. -/
def State.migrated (s : State) (m : Move) (f : Nat) : State :=
  let a := m.page.pteAddr
  let s0 := s.dropMove m
  let stack := fieldOf f 37 4
  if s.pteAt a = m.pte then
    let e := putField (putField (m.pte % 2 ^ 16 + f) 8 4 stack) 7 1 0
    let onClock := (s.pool m.pool).clock.any (fun c => c.pteAddr == a)
    let s1 := (s0.relocate m.page.frame f m.bits).writePte a e
    let s2 := s1.updPool m.pool (fun p => { p with clock := p.clock.filter (fun c => c.pteAddr != a) })
    let s3 := if onClock then s2.updPool (poolNo stack m.bits) (fun p => { p with clock := p.clock ++ [{ m.page with frame := f }] })
      else s2
    (s3.freeFrame m.pool m.page.frame).releaseParked a
  else (s0.freeFrame (poolNo stack m.bits) f).releaseParked a

/-- A migration's copy ends, once every access translated to the old frame has been performed. -/
def execMigrationComplete (move : Nat) (s : State) : Host.Outcome State Fault Refusal :=
  match s.moves.find? (fun m => m.page.pteAddr == move && m.dest.isSome) with
  | some m =>
    match m.dest with
    | some f => if s.drained m.page.frame m.bits then .next { (s.migrated m f) with free := s.free + 1 } else .next s
    | none => .next s
  | none => .next s

/-! ## The storage hint (R205) -/

/-- One page of a hinted range: a page in storage has its service started; with KEEP a present one has its access counter
set. -/
def hintPage (s : State) (root va : Nat) (keep : Bool) : State :=
  match s.walk root va with
  | .locator e addr bits => s.handOver addr e bits
  | .page _ e addr _ => if keep && !pteBusy e && pteAcnt e == 0 then s.writePte addr (putField e 12 4 1) else s
  | .nomap => s
  | .badcmd => s

/-- The pages of a range of bytes; `n` counts the 64 KiB steps still to look at. -/
def hintRange (s : State) (root va len : Nat) (keep : Bool) : Nat → State
  | 0 => s
  | n + 1 =>
    if len = 0 then s
    else
      let step := 65536 - va % 65536
      hintRange (hintPage s root va keep) root (va + step) (len - step) keep n

/-- `spref` (R205); it may be dropped. -/
def execSpref (a b : Name) (m : Mark) (s : State) : Host.Outcome State Fault Refusal :=
  issue32 m s (do
    srcs [a, b]
    let j ← theJob s
    let va ← rd s 0 a
    let w ← rd s 1 b
    limits (fieldOf w.toNat 32 31 == 0)
    if Config.pick s.free 70 % 2 = 1 then fall s
    else
      let len := w.toNat % 2 ^ 32
      fall (hintRange s j.ptroot va.toNat len (w.toNat.testBit 63) (len / 65536 + 2)))

end Sys2Proof.Machine
end

