-- ==== Sys2Proof/Machine/Platform.lean ====
section
/-! DEFINITION. The platform: power and clocks (R291, R377), reset (R376), the host link and its registers (R276, R298, R301, R320, R325,
R344, R368 to R372), and the Melbex controller (R374, R375). -/

namespace Sys2Proof.Machine

/-! ## Power (R291, R377) -/

/-- The tiles of a die, row by row. -/
def dieTiles (die : Nat) : List Nat := (List.range 256).map (fun i => 16 * die + i % 16 + 128 * (i / 16))

/-- A die's arbiter grants its tiles their duties; a cap of its duties ends with the next grant (R291). -/
def State.grant (s : State) (die : Nat) (duties : List Nat) : State :=
  { ((dieTiles die).zip duties).foldl (fun (s : State) (e : Nat × Nat) => s.updTile e.1 (fun t => { t with duty := e.2 })) s with
    dutyCap := s.dutyCap.set die 16 }

/-- In a clk whose number is a multiple of 6,400 a die's arbiter grants each tile a duty from 1 to 16 (R291). -/
def execPowerGrant (die : Nat) (duties : List Nat) (s : State) : Host.Outcome State Fault Refusal :=
  if s.clk % 6400 = 0 ∧ s.clk ≠ 0 ∧ die < 8 ∧ duties.length = 256 ∧ duties.all (fun n => decide (1 ≤ n ∧ n ≤ 16)) then
    .next (s.grant die duties)
  else .next s

/-- At 100 °C a die's arbiter caps every duty at 8 (R377). -/
def execThermalCap (die : Nat) (s : State) : Host.Outcome State Fault Refusal := .next { s with dutyCap := s.dutyCap.set die 8 }

/-- At 110 °C the controller stops the device and reports 0x0000_0110 (R377). -/
def execThermalHalt (die : Nat) (s : State) : Host.Outcome State Fault Refusal :=
  if die < 8 then .next (s.haltWith 0x110) else .next s

/-! ## Reset (R376) -/

/-- The controller after a reset: the image accepted for it is in use, its measurements begin anew. -/
def Melbex.restarted (m : Melbex) : Melbex :=
  ⟨0, false, 0, 0, [], if m.next.isEmpty then m.image else m.next, [], [], m.report⟩

/-- The checks of an image at reset pass; that of the image with which the device first came out of reset, here empty, has (R376). -/
def imagePasses (image : List Byte) : Bool := image.isEmpty || Config.imageSigned image

/-- A reset: the device is as after reset; what lies outside it stays, as does what the host has been told. A failed check of the
image leaves it in reset (R376). -/
def State.restart (s : State) : State :=
  let m := s.melbex.restarted
  { State.reset with
    free := s.free
    serial := s.serial
    turns := s.turns
    turnNo := s.turnNo
    hbm := s.hbm
    hostMem := s.hostMem
    nvme := { State.reset.nvme with answers := s.nvme.answers, sizes := s.nvme.sizes, data := s.nvme.data }
    melbex := m
    log := s.log
    inReset := !imagePasses m.image }

/-- A device reset (R376). Which drives answer the bring-up that follows it lies outside the device (R378). -/
def execDeviceReset (answers : List Bool) (s : State) : Host.Outcome State Fault Refusal :=
  let t := s.restart
  .next { t with nvme := { t.nvme with answers := answers } }

/-- The link trains; the controller reports the trained width and speed (R368). -/
def execLinkTraining (width speed : Nat) (s : State) : Host.Outcome State Fault Refusal :=
  if 0 < width ∧ width ≤ 16 ∧ 0 < speed ∧ speed ≤ 128 then
    .next { s with link := (width, speed), log := s.log ++ [LogEntry.link width speed] }
  else .next s

/-! ## Registers whose writes act -/

/-- The physical function's number. -/
def physFn : Nat := 64

/-- A function reaches a queue (R276, R369). -/
def ownsQueue (fn q : Nat) : Bool := decide (q < 1024) && (fn == physFn || q / 16 == fn)

/-- A host access of the device's registers or memory, which a device that stays in reset does not answer (R376). -/
def State.whenUp (s : State) (t : Host.Outcome State Fault Refusal) : Host.Outcome State Fault Refusal := if s.inReset then .next s else t

/-- A doorbell: TAIL, with all that the host did before it (R252, R276). -/
def execHwqDoorbell (fn q tail : Nat) (s : State) : Host.Outcome State Fault Refusal :=
  s.whenUp (if ownsQueue fn q then
    .next { s with queues := s.queues.set q { s.queue q with tail := tail % 2 ^ 17, know := s.hostKnow.allPaths } }
  else .next s)

/-- An invalidation names an entry (R298). -/
def invalidates (job : Nat) (all : Bool) (va : Nat) (e : TlbEntry) : Bool :=
  e.job == job && (all || e.va / 2 ^ e.bits == va / 2 ^ e.bits)

/-- A write of VA: the entries it names on every die are being dropped, and BUSY is 1 (R298). -/
def execTlbInvalidate (va : BitVec 64) (s : State) : Host.Outcome State Fault Refusal :=
  s.whenUp (let page := fieldOf va.toNat 16 36 * 65536
  let mark (m : Map (List TlbEntry)) : Map (List TlbEntry) :=
    m.map (fun e => (e.1, replaceIf (invalidates s.tlbJob s.tlbAll page) (fun x => { x with dying := true }) e.2))
  .next { s with stationTlb := mark s.stationTlb, dieTlb := mark s.dieTlb, tlbVa := page, tlbBusy := true })

/-- A write of a pool's TAIL: the fills that wait for its frames try again (R301, R302). -/
def execPoolTailWrite (pool tail : Nat) (s : State) : Host.Outcome State Fault Refusal :=
  s.whenUp (if pool < 48 then
    let wake (l : List Service) : List Service := replaceIf (fun r => r.pool == pool) (fun r => { r with waiting := none }) l
    .next { (s.updPool pool (fun p => { p with tail := tail % 2 ^ 21 })) with sqes := s.sqes.map (fun e => (e.1, wake e.2)) }
  else .next s)

/-- JTAG and TVALID of a JOBID (R325); those of a number that no context has are kept for its next one. -/
def execJobTagWrite (job : Nat) (value : BitVec 64) (s : State) : Host.Outcome State Fault Refusal :=
  s.whenUp (if job < 1024 then
    match s.job? job with
    | some j => .next (s.setJob job { j with jtag := fieldOf value.toNat 0 16, tvalid := value.toNat.testBit 16 })
    | none => .next { s with jobTags := s.jobTags.set job (fieldOf value.toNat 0 17) }
  else .next s)

/-- A route entry the device does not take: VALID with HOPS 0, 6 or 7, or one naming this device (R320). -/
def badRouteWrite (s : State) (d : Nat) (value : BitVec 64) : Bool :=
  let hops := fieldOf value.toNat 22 3
  d == s.devid || (routeValid value && (hops == 0 || decide (5 < hops)))

/-- A write of a route entry, atomic: packets that wait for its device leave by it (R320). -/
def execRouteEntryWrite (d : Nat) (value : BitVec 64) (s : State) : Host.Outcome State Fault Refusal :=
  s.whenUp (if 4096 ≤ d then .next s
  else if badRouteWrite s d value then .next { s with log := s.log ++ [LogEntry.badRoute d] }
  else
    .next (({ s with routes := s.routes.set d (BitVec.ofNat 64 (fieldOf value.toNat 0 26)), free := s.free + 1 }).reroute
      (fun w => w.pkt.dst == d)))

/-- The page of the next record of a job's ring is there, pinned (R307). -/
def ringReady (s : State) (j : Job) : Bool := s.pinned j.ptroot (j.ovfbase + 144 * (j.ringTail % j.ovfn)) 144 3

/-- RESUME clears PARKED, unless the ring's page is still missing (R344). -/
def execJobctlResume (job : Nat) (s : State) : Host.Outcome State Fault Refusal :=
  s.whenUp (match s.job? job with
  | some j => if ringReady s j then .next (s.setJob job { j with parked := false }) else .next s
  | none => .next s)

/-- ABORT kills the job (R344, R348). -/
def execJobctlAbort (job : Nat) (s : State) : Host.Outcome State Fault Refusal :=
  s.whenUp (match s.job? job with
  | some _ => .next { (s.killJob job) with free := s.free + 1 }
  | none => .next s)

/-! ## Host futures (R372) -/

/-- The entry that HANDLE names is not one of the launch unit's. -/
def hostStale (s : State) : Bool := !handleForm s.hostFut.handle.toNat || staleFor s s.hostFut.handle.toNat launchUnit

/-- The registers after a command, served: the flags given, the others 0. -/
def HostFut.served (x : HostFut) (op : Nat) (handle value : Word) (set stale full wasset : Bool) : HostFut :=
  { x with op := op, handle := handle, value := value, done := true, set := set, stale := stale, full := full, wasset := wasset }

/-- What the host knows once it has seen a future SET: what its setting released. -/
def State.hostLearns (s : State) (f : Future) : Know :=
  match f.rel with
  | some r => s.hostKnow ++ r.knows s
  | none => s.hostKnow

/-- OP new makes an entry on die 0 (R372). -/
def execHostFutureNew (s : State) : Host.Outcome State Fault Refusal :=
  let x := s.hostFut
  if !x.done ∨ s.inReset then .next s
  else
    match freeFuture s 0 with
    | some i =>
      let e := s.future (mkHandle 0 i 0).toNat
      .next { s with
        futures := s.futures.set (futureKey 0 i) ⟨some launchUnit, false, 0, e.gen, [], none⟩
        hostFut := x.served 0 (mkHandle 0 i e.gen) x.value false false false false }
    | none => .next { s with hostFut := x.served 0 0 x.value false false true false }

/-- OP set sets an EMPTY entry; one already SET keeps its value (R372). -/
def execHostFutureSet (s : State) : Host.Outcome State Fault Refusal :=
  let x := s.hostFut
  let h := x.handle.toNat
  if !x.done ∨ s.inReset then .next s
  else if hostStale s then .next { s with hostFut := x.served 1 x.handle x.value false true false false }
  else if (s.future h).set then
    .next { s with hostFut := x.served 1 x.handle x.value true false false true, hostKnow := s.hostLearns (s.future h) }
  else .next { (s.fulfil h x.value none) with hostFut := x.served 1 x.handle x.value true false false false, free := s.free + 1 }

/-- OP free frees an entry (R372). -/
def execHostFutureFree (s : State) : Host.Outcome State Fault Refusal :=
  let x := s.hostFut
  if !x.done ∨ s.inReset then .next s
  else if hostStale s then .next { s with hostFut := x.served 2 x.handle x.value false true false false }
  else
    .next { (s.freeFutureEntry x.handle.toNat) with hostFut := x.served 2 x.handle x.value false false false false, free := s.free + 1 }

/-- OP peek reads an entry's state and value (R372); the host then knows what its setting released. -/
def execHostFuturePeek (s : State) : Host.Outcome State Fault Refusal :=
  let x := s.hostFut
  if !x.done ∨ s.inReset then .next s
  else if hostStale s then .next { s with hostFut := x.served 3 x.handle x.value false true false false }
  else
    let f := s.future x.handle.toNat
    .next { s with
      hostFut := x.served 3 x.handle (if f.set then f.value else 0) f.set false false false
      hostKnow := s.hostLearns f }

/-! ## The device-memory window (R371) -/

/-- The size of BAR2 (R369). -/
def windowSize : Nat := 64 * 2 ^ 30

/-- The physical address of an offset of the window: the base, or in the clk in which WINBASE is rewritten the one before it, for an access
that was accepted already (R371; log 60: DESIGN CHOICE). -/
def windowAddr (s : State) (off : Nat) : Nat :=
  let old := if s.winbaseOld = s.winbase then [] else [s.winbaseOld]
  fieldOf (choose s 62 s.winbase old).toNat 36 15 * 2 ^ 36 + off

/-- An access of the window that is single-copy atomic (R371). -/
def windowAtomic (off n : Nat) : Bool := (n == 1 || n == 2 || n == 4 || n == 8) && off % n == 0

/-- The HBM bytes of an access of the window; none for an address that is none (R293, R371). -/
def windowPlace (s : State) (off n : Nat) : Option Nat :=
  let pa := windowAddr s off
  match physSpace pa, physSpace (pa + n - 1) with
  | some (.hbm, a), some (.hbm, _) => some a
  | _, _ => none

/-- The host as a reader. -/
def State.hostReader (s : State) : Reader := readerOf s .host 0 s.hostKnow

/-- A read through the window: all ones where it gives NOMAP (R371). -/
def execHostWindowRead (off n : Nat) (s : State) : Host.Outcome State Fault Refusal :=
  if n = 0 ∨ windowSize < off + n ∨ s.inReset then .next s
  else
    match windowPlace s off n with
    | none => .next { s with winRead := List.replicate n 0xFF#8, log := s.log ++ [LogEntry.windowNoMap off], free := s.free + 1 }
    | some a =>
      let bs := if windowAtomic off n then s.readBytes s.hostReader .hbm a n 63
        else (List.range n).flatMap (fun i => s.readBytes s.hostReader .hbm (a + i) 1 (6000 + i))
      .next { s with winRead := bs, free := s.free + 1 }

/-- A write of the host, which it knows of afterwards: its later accesses of the bytes come after it. -/
def State.hostWrite (s : State) (a : Nat) (bs : List Byte) : State :=
  { (s.writeBytes .hbm a bs .host 0 0 none) with hostKnow := s.hostKnow ++ [(s.serial, 2 ^ Path.host.bit)] }

/-- A write through the window: dropped where it gives NOMAP (R371). -/
def execHostWindowWrite (off : Nat) (data : List (BitVec 8)) (s : State) : Host.Outcome State Fault Refusal :=
  let n := data.length
  if n = 0 ∨ windowSize < off + n ∨ s.inReset then .next s
  else
    match windowPlace s off n with
    | none => .next { s with log := s.log ++ [LogEntry.windowNoMap off], free := s.free + 1 }
    | some a =>
      let s1 := if windowAtomic off n then s.hostWrite a data
        else ((List.range n).zip data).foldl (fun (s : State) (e : Nat × Byte) => s.hostWrite (a + e.1) [e.2]) s
      .next { s1 with free := s.free + 1 }

/-! ## The Melbex controller (R374, R375) -/

/-- The bytes of BUF. -/
def bufSize : Nat := 32512

/-- A command of the mailbox runs: the controller serves it with what stands in BUF (R374). -/
def Melbex.runs (m : Melbex) (cmd : Nat) : Bool := m.busy && m.cmd == cmd

/-- n bytes of the input, from a place on; BUF reads as 0 where nothing has been written. -/
def Melbex.input (m : Melbex) (from_ n : Nat) : List Byte := (List.range n).map (fun i => m.buf.getD (from_ + i) 0)

/-- A command ends: its result, its output, and the interrupt of vector 1024 (R373, R374). -/
def State.melbexEnd (s : State) (cmd err : Nat) (out : List Byte) : State :=
  { s with
    melbex := { s.melbex with cmd := cmd, busy := false, err := err, len := out.length, buf := out ++ s.melbex.buf.drop out.length }
    msix := s.msix ++ [1024] }

/-- GETKEY: the public key of the identity key (R374). -/
def execGetkey (s : State) : Host.Outcome State Fault Refusal :=
  if s.melbex.runs 1 then .next (s.melbexEnd 1 0 ((List.range 133).map Config.identityKey)) else .next s

/-- The signed bytes of a report (R375). -/
def reportBody (s : State) (nonce : List Byte) : List Byte :=
  [1#8] ++ bytesOfNat s.devid 2 ++ [1#8] ++ bytesOfNat 0x00041536 4
    ++ (nonce ++ List.replicate (64 - nonce.length) 0#8).take 64
    ++ (List.range 64).map (Config.bootMeasurement s.melbex.image)
    ++ bytesOfNat s.melbex.launches.length 2
    ++ s.melbex.launches.flatMap (fun l => bytesOfNat l.1 2 ++ List.replicate 6 0#8 ++ l.2)

/-- ATTEST: a report over the nonce, the first 64 bytes of BUF (R375). The command over another nonce is not under way. -/
def execAttest (nonce : List (BitVec 8)) (s : State) : Host.Outcome State Fault Refusal :=
  if s.melbex.runs 2 ∧ nonce = s.melbex.input 0 64 then
    let b := reportBody s nonce
    let s1 := s.melbexEnd 2 0 (b ++ (List.range 132).map (Config.signature b s.melbex.report))
    .next { s1 with melbex := { s1.melbex with report := s.melbex.report + 1 } }
  else .next s

/-- FWLOAD: a signed image in host memory is accepted for the next reset, or the old one is kept (R374). Its address is the first eight
bytes of BUF, its length the next eight (log 17: DESIGN CHOICE). -/
def execFwload (addr n : Nat) (s : State) : Host.Outcome State Fault Refusal :=
  if s.melbex.runs 3 ∧ addr = leNat (s.melbex.input 0 8) ∧ n = leNat (s.melbex.input 8 8) then
    let image := s.readBytes s.hostReader .host addr n 64
    let ok := Config.imageSigned image
    let s1 := s.melbexEnd 3 (if ok then 0 else 2) []
    .next { s1 with melbex := { s1.melbex with next := if ok then image else s.melbex.next }, free := s.free + 1 }
  else .next s

/-- SETBUDGET: 1,200 to 2,600 W, in the first eight bytes of BUF (R374; log 17: DESIGN CHOICE). -/
def execSetbudget (watts : Nat) (s : State) : Host.Outcome State Fault Refusal :=
  if s.melbex.runs 4 ∧ watts = leNat (s.melbex.input 0 8) then
    if 1200 ≤ watts ∧ watts ≤ 2600 then .next { (s.melbexEnd 4 0 []) with budget := watts } else .next (s.melbexEnd 4 3 [])
  else .next s

/-! ## Registers that store what is written (R370, R374) -/

/-- A queue register of a function's queue (R276): QBASE, or LOG2N, PRIO and EN. -/
def State.writeQueue (s : State) (q reg v : Nat) : State :=
  let x := s.queue q
  match reg with
  | 0 => { s with queues := s.queues.set q { x with qbase := BitVec.ofNat 64 v } }
  | 8 => { s with queues := s.queues.set q { x with log2n := fieldOf v 0 5, prio := fieldOf v 5 2, en := v.testBit 7 } }
  | _ => s

/-- A frame pool's register (R301): PBASE, or LOG2N and EN. -/
def State.writePoolReg (s : State) (p reg v : Nat) : State :=
  match reg with
  | 0 => s.updPool p (fun x => { x with pbase := BitVec.ofNat 64 v })
  | 8 => s.updPool p (fun x => { x with log2n := fieldOf v 0 5, en := v.testBit 7 })
  | _ => s

/-- A register of the physical function's BAR0 (R370); another offset is ignored. -/
def State.writeBar0 (s : State) (off v : Nat) : State :=
  if off = 0x4000 then { s with tlbJob := fieldOf v 0 10, tlbAll := v.testBit 10 }
  else if 0x5000 ≤ off ∧ off < 0x5000 + 32 * 48 then s.writePoolReg ((off - 0x5000) / 32) ((off - 0x5000) % 32) v
  else if off = 0x8000 then { s with devid := fieldOf v 0 12 }
  else if 0x10000 ≤ off ∧ off < 0x10000 + 32 * 1024 then s.writeQueue ((off - 0x10000) / 32) ((off - 0x10000) % 32) v
  else if off = 0x92000 then { s with privvf := BitVec.ofNat 64 v }
  else if off = 0x93000 then
    if s.hostFut.done ∧ 4 ≤ v % 8 then { s with log := s.log ++ [LogEntry.badHostOp (v % 8)] } else s
  else if off = 0x93008 then { s with hostFut := { s.hostFut with handle := BitVec.ofNat 64 v } }
  else if off = 0x93010 then { s with hostFut := { s.hostFut with value := BitVec.ofNat 64 v } }
  else if off = 0x94000 then { s with winbase := BitVec.ofNat 64 (fieldOf v 36 15 * 2 ^ 36), winbaseOld := s.winbase }
  else s

/-- A command of the mailbox that a device which stays in reset does not answer (R376). -/
def mutedInReset (cmd : Nat) : Bool := cmd != 1 && cmd != 3

/-- A register of the Melbex mailbox (R374): a write of CMD starts the command, and one that is no command ends with ERR 1; LEN and BUF
store. -/
def State.writeBar4 (s : State) (off v : Nat) : State :=
  if off = 0 then
    let c := v % 256
    if s.melbex.busy || (s.inReset && mutedInReset c) then s
    else if 1 ≤ c ∧ c ≤ 4 then { s with melbex := { s.melbex with cmd := c, busy := true } }
    else s.melbexEnd c 1 []
  else if off = 0x10 then { s with melbex := { s.melbex with len := v % 2 ^ 32 } }
  else if 0x100 ≤ off ∧ off + 8 ≤ 0x100 + bufSize then
    let i := off - 0x100
    let b := s.melbex.buf ++ List.replicate (i + 8 - s.melbex.buf.length) 0#8
    { s with melbex := { s.melbex with buf := b.take i ++ bytesOfNat v 8 ++ b.drop (i + 8) } }
  else s

/-- A host write of 8 bytes to a register that has no behaviour of its own (R369, R370, R374). A virtual function reaches its 16
queues only. -/
def execRegisterWrite (fn off : Nat) (value : BitVec 64) (s : State) : Host.Outcome State Fault Refusal :=
  if fn < 64 then
    s.whenUp (if off < 512 then .next (s.writeQueue (16 * fn + off / 32) (off % 32) value.toNat) else .next s)
  else if fn = physFn then
    if off < 2 ^ 40 then s.whenUp (.next (s.writeBar0 off value.toNat)) else .next (s.writeBar4 (off - 2 ^ 40) value.toNat)
  else .next s

/-! ## What a host read of a register gives (R276, R298, R301, R320, R325, R344, R349, R370 to R372, R374) -/

/-- A bit at a place. -/
def bitAt (b : Bool) (n : Nat) : Nat := b.toNat * 2 ^ n

/-- A register of a queue; VF is its number over 16 (R276). -/
def State.readQueue (s : State) (q reg : Nat) : Nat :=
  let x := s.queue q
  match reg with
  | 0 => x.qbase.toNat
  | 8 => x.log2n + x.prio * 32 + bitAt x.en 7 + q / 16 * 256
  | 16 => x.tail
  | 24 => x.head
  | _ => 0

/-- A register of a frame pool (R301). -/
def State.readPoolReg (s : State) (p reg : Nat) : Nat :=
  let x := s.pool p
  match reg with
  | 0 => x.pbase.toNat
  | 8 => x.log2n + bitAt x.en 7
  | 16 => x.tail
  | 24 => x.head
  | _ => 0

/-- The job tag register of a JOBID (R325). -/
def State.readTag (s : State) (job : Nat) : Nat :=
  match s.job? job with
  | some j => j.jtag + bitAt j.tvalid 16
  | none => s.jobTags.getD job 0

/-- PORTUP (R320). -/
def State.portUp (s : State) : Nat := sumBy (fun p => bitAt (s.port p).up p) (List.range 32)

/-- JOBCTL of a JOBID: PARKED (R344). -/
def State.readJobctl (s : State) (job : Nat) : Nat :=
  match s.job? job with
  | some j => j.parked.toNat
  | none => 0

/-- The flags of the last command on a host future (R372). -/
def HostFut.flags (x : HostFut) : Nat := bitAt x.done 0 + bitAt x.set 1 + bitAt x.stale 2 + bitAt x.full 3 + bitAt x.wasset 4

/-- What an 8-byte read of the physical function's BAR0 gives; an offset that is none reads as zero (R370). -/
def State.readBar0 (s : State) (off : Nat) : Nat :=
  if off % 8 ≠ 0 then 0
  else if off = 0x4000 then s.tlbJob + bitAt s.tlbAll 10
  else if off = 0x4008 then s.tlbVa
  else if off = 0x4010 then s.tlbBusy.toNat
  else if 0x5000 ≤ off ∧ off < 0x5000 + 32 * 48 then s.readPoolReg ((off - 0x5000) / 32) ((off - 0x5000) % 32)
  else if 0x6000 ≤ off ∧ off < 0x8000 then s.readTag ((off - 0x6000) / 8)
  else if off = 0x8000 then s.devid
  else if off = 0x8008 then s.portUp
  else if 0x10000 ≤ off ∧ off < 0x10000 + 32 * 1024 then s.readQueue ((off - 0x10000) / 32) ((off - 0x10000) % 32)
  else if 0x80000 ≤ off ∧ off < 0x80000 + 8 * 4096 then (s.routes.getD ((off - 0x80000) / 8) 0).toNat
  else if 0x90000 ≤ off ∧ off < 0x90000 + 8 * 1024 then s.readJobctl ((off - 0x90000) / 8)
  else if off = 0x92000 then s.privvf.toNat
  else if off = 0x93000 then s.hostFut.op
  else if off = 0x93008 then s.hostFut.handle.toNat
  else if off = 0x93010 then s.hostFut.value.toNat
  else if off = 0x93018 then s.hostFut.flags
  else if off = 0x94000 then s.winbase.toNat
  else 0

/-- What an 8-byte read of the Melbex mailbox gives (R374). -/
def State.readBar4 (s : State) (off : Nat) : Nat :=
  let m := s.melbex
  if off = 0 then m.cmd
  else if off = 8 then m.busy.toNat + m.err * 256
  else if off = 0x10 then m.len
  else if off % 8 = 0 ∧ 0x100 ≤ off ∧ off + 8 ≤ 0x100 + bufSize then leNat (m.input (off - 0x100) 8)
  else 0

/-- What an 8-byte host read of a function's register gives; BAR4 of the physical function stands from 2⁴⁰ on (R369). -/
def State.readRegister (s : State) (fn off : Nat) : Word :=
  BitVec.ofNat 64 (if fn < 64 then (if off < 512 then s.readQueue (16 * fn + off / 32) (off % 32) else 0)
    else if fn = physFn then (if off < 2 ^ 40 then s.readBar0 off else s.readBar4 (off - 2 ^ 40))
    else 0)

end Sys2Proof.Machine
end

