-- ==== Sys2Proof/Machine/Sfu.lean ====
section
/-! DEFINITION. The special-function unit: its functions to the bit (R133, R134), its queue and its results (R118).

A function of an exact operand is evaluated in binary fixed point with `fracBits` fraction bits, within some hundreds of
steps of that grid; a value that is not exact is taken as lying off every step, which decides its one rounding (log 18). -/

namespace Sys2Proof.Machine

/-! ## Fixed point -/

/-- Fraction bits of the evaluation. -/
def fracBits : Nat := 720

/-- One. -/
def fxOne : Nat := 2 ^ fracBits

/-- The product of two fixed-point numbers. -/
def fxMul (a b : Nat) : Nat := a * b / fxOne

/-- Σ x^k/k! from a term on: `n` counts the terms left. -/
def expSeries (x : Nat) : Nat → Nat → Nat → Nat
  | 0, _, _ => 0
  | n + 1, k, term => term + expSeries x n (k + 1) (fxMul term x / (k + 1))

/-- e^x for 0 ≤ x < 1. -/
def fxExp (x : Nat) : Nat := expSeries x 160 0 fxOne

/-- Σ (−1)^k terms of sine or cosine: each next term is −term·x²/((j+1)(j+2)). -/
def alternating (x2 : Nat) : Nat → Nat → Int → Int
  | 0, _, _ => 0
  | n + 1, j, term => term + alternating x2 n (j + 2) (-(term * x2 / fxOne) / ((j + 1) * (j + 2)))

/-- Sine of 0 ≤ x < 2. -/
def fxSin (x : Nat) : Int := alternating (fxMul x x) 90 1 x
/-- Cosine of 0 ≤ x < 2. -/
def fxCos (x : Nat) : Int := alternating (fxMul x x) 90 0 fxOne

/-- arctan(1/q) by its series, on a grid of `one`. -/
def atanInv (q : Nat) : Nat → Nat → Int → Int
  | 0, _, _ => 0
  | n + 1, j, p => p / (j : Int) - atanInv q n (j + 2) (p / (q * q : Nat))

/-- π on a grid of 2^bits, by Machin's formula. -/
def piFixed (bits : Nat) : Nat :=
  let one : Int := (2 ^ (bits + 16) : Nat)
  ((16 * atanInv 5 (bits / 4 + 20) 1 (one / 5) - 4 * atanInv 239 (bits / 8 + 20) 1 (one / 239)) / 65536).toNat

/-- ln 2 on the grid: Σ 1/(k·2^k). -/
def ln2Series : Nat → Nat → Nat
  | 0, _ => 0
  | n + 1, k => 2 ^ (fracBits + 32) / (k * 2 ^ k) + ln2Series n (k + 1)

/-- ln 2. -/
def ln2Fixed : Nat := ln2Series 760 1 / 2 ^ 32

/-- 2·artanh(z) = ln((1+z)/(1−z)) by its series. -/
def artanhSeries (z2 : Nat) : Nat → Nat → Nat → Nat
  | 0, _, _ => 0
  | n + 1, j, p => p / j + artanhSeries z2 n (j + 2) (fxMul p z2)

/-- ln of a number 1 ≤ y < 2 in fixed point. -/
def fxLn (y : Nat) : Nat :=
  let z := (y - fxOne) * fxOne / (y + fxOne)
  2 * artanhSeries (fxMul z z) 260 1 z

/-! ## Values between grid points -/

/-- A value strictly between n and n + 1 on a grid of 2^e. -/
def between (neg : Bool) (n : Nat) (e : Int) : Val := .fin neg (2 * n + 1) (e - 1)

/-- A positive value too small to be told from 0. -/
def tinyVal (neg : Bool) : Val := .fin neg 1 (-1000)

/-- The quotient 2^k/m as a value: exact, or between two neighbours. -/
def recipVal (neg : Bool) (m : Nat) (e : Int) : Val :=
  let k := 200 + m.log2
  let q := 2 ^ k / m
  if q * m = 2 ^ k then .fin neg q (-(k : Int) - e) else between neg q (-(k : Int) - e)

/-- 1/√(m × 2^e). -/
def recipRoot (m : Nat) (e : Int) : Val :=
  let m := if e % 2 = 0 then m else 2 * m
  let e := if e % 2 = 0 then e else e - 1
  let k := 2 * (200 + m.log2)
  let n := 2 ^ k / m
  let r := isqrt n (n.log2 / 2 + 1) 0
  if r * r * m = 2 ^ k then .fin false r (-(k / 2 : Nat) - e / 2) else between false r (-(k / 2 : Nat) - e / 2)

/-- The magnitude m × 2^e on the grid of 2^−fracBits, rounded down. -/
def toFixed (m : Nat) (e : Int) : Nat :=
  if 0 ≤ e + fracBits then m * 2 ^ (e + fracBits).toNat else m / 2 ^ (-(e + fracBits)).toNat

/-- 2^(±x) for x > 0, not an integer: the fraction's power scaled by the integer part. -/
def exp2Val (neg : Bool) (m : Nat) (e : Int) : Val :=
  if 12 ≤ expOf m e then (if neg then tinyVal false else .fin false 1 4096)
  else
    let x := toFixed m e
    let i := x / fxOne
    let f := x % fxOne
    if f = 0 ∧ (e ≥ 0 ∨ m % 2 ^ (-e).toNat = 0) then .fin false 1 (if neg then -(i : Int) else i)
    else if neg then between false (fxExp (fxMul (fxOne - f) ln2Fixed)) (-(fracBits : Int) - i - 1)
    else between false (fxExp (fxMul f ln2Fixed)) (-(fracBits : Int) + i)

/-- log₂ of m × 2^e for m > 0. -/
def log2Val (m : Nat) (e : Int) : Val :=
  let l := m.log2
  let i : Int := e + l
  if m = 2 ^ l then .ofInt i
  else
    let y := m * 2 ^ fracBits / 2 ^ l
    let f := fxLn y * fxOne / ln2Fixed
    let t : Int := i * fxOne + f
    if 0 ≤ t then between false t.toNat (-(fracBits : Int)) else between true (-t - 1).toNat (-(fracBits : Int))

/-- A signed fixed-point value between neighbours. -/
def signedVal (neg : Bool) (t : Int) : Val :=
  let flip := decide (t < 0)
  between (neg != flip) (if flip then (-t - 1).toNat else t.toNat) (-(fracBits : Int))

/-- The quadrant of x > 0 and what is left of it, 0 ≤ r < π/2, by a π of as many bits as x needs. -/
def quadrant (m : Nat) (e : Int) : Nat × Nat :=
  let bits := fracBits + (max 0 (expOf m e + 1)).toNat + 16
  let x := if 0 ≤ e + bits then m * 2 ^ (e + bits).toNat else m / 2 ^ (-(e + bits)).toNat
  let h := piFixed bits / 2
  (x / h % 4, x % h / 2 ^ (bits - fracBits))

/-- sin or cos of ±x for x > 0. -/
def trigVal (isCos neg : Bool) (m : Nat) (e : Int) : Val :=
  let qr := quadrant m e
  let q := (qr.1 + if isCos then 1 else 0) % 4
  let t : Int := if q % 2 = 0 then fxSin qr.2 else fxCos qr.2
  signedVal (if isCos then false else neg) (if 2 ≤ q then -t else t)

/-- e^i on the grid, for an integer i. -/
def expPow : Nat → Nat
  | 0 => fxOne
  | n + 1 => fxMul (expPow n) (fxExp fxOne)

/-- e^(−x) for x > 0 on the grid, 0 where it is below it. -/
def expNeg (m : Nat) (e : Int) : Nat :=
  if 9 ≤ expOf m e then 0
  else
    let x := toFixed m e
    fxOne * fxOne / fxExp (x % fxOne) * fxOne / expPow (x / fxOne)

/-- tanh of ±x for x > 0: (1 − d)/(1 + d) with d = e^(−2x). -/
def tanhVal (neg : Bool) (m : Nat) (e : Int) : Val :=
  let d := expNeg m (e + 1)
  if d = 0 then between neg (fxOne - 1) (-(fracBits : Int))
  else between neg ((fxOne - d) * fxOne / (fxOne + d)) (-(fracBits : Int))

/-- 1/(1 + e^(∓x)) for x > 0. -/
def sigmVal (neg : Bool) (m : Nat) (e : Int) : Val :=
  let d := expNeg m e
  if neg then (if d = 0 then tinyVal false else between false (d * fxOne / (fxOne + d)) (-(fracBits : Int)))
  else if d = 0 then between false (fxOne - 1) (-(fracBits : Int))
  else between false (fxOne * fxOne / (fxOne + d)) (-(fracBits : Int))

/-! ## Rounding to p bits (R133) -/

/-- The significant bits an SFU result keeps: 15, 8 or 11. -/
def sfuBits : VT → Nat
  | .bf16 => 8
  | .f16 => 11
  | _ => 15

/-- The format of a type of the SFU. -/
def sfuFmt : VT → Fmt
  | .bf16 => bf16
  | .f16 => fp16
  | _ => fp32

/-- Rounds a value to nearest even on the grid of R133: bits and flags; vrcp flushes a tiny result to 0 (R134). -/
def sfuRound (t : VT) (flush : Bool) (v : Val) : Nat × Nat :=
  let f := sfuFmt t
  match v with
  | .fin neg m e =>
    if m = 0 then f.encode 0 .ieee true v
    else
      let emin := 1 - f.bias
      if flush && decide (expOf m e < emin) then ((f.encode 0 .ieee true (.fin neg 0 0)).1, flagUF ||| flagNX)
      else
        let q := max (expOf m e - sfuBits t + 1) (emin - f.m)
        let r := roundGrid 0 neg m e q
        let c := f.encode 0 .ieee true (.fin neg r.1 q)
        (c.1, c.2 ||| (if r.2 then (if expOf m e < emin then flagUF ||| flagNX else flagNX) else 0))
  | v => f.encode 0 .ieee true v

/-- The functions of the SFU. -/
inductive SfuFn where
  | rcp
  | rsq
  | exp2
  | log2
  | sin
  | cos
  | tanh
  | sigm
  deriving DecidableEq, Repr

/-- The exact value of a function at a special or finite operand, with the flags of the table of R134. -/
def sfuValue (fn : SfuFn) (x : Val) : Val × Nat :=
  match x with
  | .nan s => (.nan false, if s then flagIV else 0)
  | .inf neg =>
    match fn with
    | .rcp => (.fin neg 0 0, 0)
    | .rsq => if neg then (.nan false, flagIV) else (.fin false 0 0, 0)
    | .exp2 => if neg then (.fin false 0 0, 0) else (.inf false, 0)
    | .log2 => if neg then (.nan false, flagIV) else (.inf false, 0)
    | .sin => (.nan false, flagIV)
    | .cos => (.nan false, flagIV)
    | .tanh => (.fin neg 1 0, 0)
    | .sigm => if neg then (.fin false 0 0, 0) else (.fin false 1 0, 0)
  | .fin neg m e =>
    if m = 0 then
      match fn with
      | .rcp => (.inf neg, flagDZ)
      | .rsq => (.inf neg, flagDZ)
      | .exp2 => (.fin false 1 0, 0)
      | .log2 => (.inf true, flagDZ)
      | .sin => (.fin neg 0 0, 0)
      | .cos => (.fin false 1 0, 0)
      | .tanh => (.fin neg 0 0, 0)
      | .sigm => (.fin false 1 (-1), 0)
    else
      match fn with
      | .rcp => (recipVal neg m e, 0)
      | .rsq => if neg then (.nan false, flagIV) else (recipRoot m e, 0)
      | .exp2 => (exp2Val neg m e, 0)
      | .log2 => if neg then (.nan false, flagIV) else (log2Val m e, 0)
      | .sin => (trigVal false neg m e, 0)
      | .cos => (trigVal true neg m e, 0)
      | .tanh => (tanhVal neg m e, 0)
      | .sigm => (sigmVal neg m e, 0)

/-- One element of an SFU function. -/
def sfuElem (fn : SfuFn) (t : VT) (bits : Nat) : Nat × Nat :=
  let v := sfuValue fn ((sfuFmt t).decode bits)
  let r := sfuRound t (fn == .rcp) v.1
  (r.1, r.2 ||| v.2)

/-! ## Issue, service and result (R116, R118) -/

/-- The SFU function of an instruction with its type, source and destination. -/
def sfuOf : Instr → Option (SfuFn × VT × Fin 32 × Fin 32)
  | .vrcp d a t _ _ => some (.rcp, t, d, a)
  | .vrsq d a t _ _ => some (.rsq, t, d, a)
  | .vexp2 d a t _ _ => some (.exp2, t, d, a)
  | .vlog2 d a t _ _ => some (.log2, t, d, a)
  | .vsin d a t _ _ => some (.sin, t, d, a)
  | .vcos d a t _ _ => some (.cos, t, d, a)
  | .vtanh d a t _ _ => some (.tanh, t, d, a)
  | .vsigm d a t _ _ => some (.sigm, t, d, a)
  | _ => none

/-- The tile's SFU queue has room: 32 requests (R118). -/
def sfuRoom (s : State) : Bool := decide ((s.tile s.myTile).sfu.length < 32)

/-- Puts a request into the queue: those issued in one clk stand in increasing core number (R118). -/
def enterSfu (s : State) (id core : Nat) : List Nat → List Nat
  | [] => [id]
  | x :: t =>
    match s.op? x with
    | some o => if o.issued = s.clk ∧ core < coreOf o.ctx then id :: x :: t else x :: enterSfu s id core t
    | none => x :: enterSfu s id core t

/-- An SFU request issues. -/
def sfuIssue (i : Instr) (d a : Fin 32) (k : Fin 4) (m : Mark) (s : State) : Host.Outcome State Fault Refusal :=
  issueStart m s (do
    need (decide (d.val < s.me.v.length) && decide (a.val < s.me.v.length)) .valloc
    let mask ← rdK s 60 k.val
    ready (sfuRoom s)
    let s1 := startVec s (.sfu i) mask 0 0 [a.val] [vTarget d] [] 0
    fall (s1.updTile s.myTile (fun x => { x with sfu := enterSfu s s.serial s.myCore x.sfu })))

/-- `vrcp` -/
def execVrcp (d a : Fin 32) (t : VT) (k : Fin 4) (m : Mark) (s : State) := sfuIssue (.vrcp d a t k m) d a k m s
/-- `vrsq` -/
def execVrsq (d a : Fin 32) (t : VT) (k : Fin 4) (m : Mark) (s : State) := sfuIssue (.vrsq d a t k m) d a k m s
/-- `vexp2` -/
def execVexp2 (d a : Fin 32) (t : VT) (k : Fin 4) (m : Mark) (s : State) := sfuIssue (.vexp2 d a t k m) d a k m s
/-- `vlog2` -/
def execVlog2 (d a : Fin 32) (t : VT) (k : Fin 4) (m : Mark) (s : State) := sfuIssue (.vlog2 d a t k m) d a k m s
/-- `vsin` -/
def execVsin (d a : Fin 32) (t : VT) (k : Fin 4) (m : Mark) (s : State) := sfuIssue (.vsin d a t k m) d a k m s
/-- `vcos` -/
def execVcos (d a : Fin 32) (t : VT) (k : Fin 4) (m : Mark) (s : State) := sfuIssue (.vcos d a t k m) d a k m s
/-- `vtanh` -/
def execVtanh (d a : Fin 32) (t : VT) (k : Fin 4) (m : Mark) (s : State) := sfuIssue (.vtanh d a t k m) d a k m s
/-- `vsigm` -/
def execVsigm (d a : Fin 32) (t : VT) (k : Fin 4) (m : Mark) (s : State) := sfuIssue (.vsigm d a t k m) d a k m s

end Sys2Proof.Machine
end

