-- ==== Sys2Proof/Machine/SoftError.lean ====
section
/-! DEFINITION. Uncorrectable soft errors (R265, R266, R330, R331). -/

namespace Sys2Proof.Machine

/-- A place with an error joins a list of them. -/
def addBad (l : List Nat) (a : Nat) : List Nat := if l.contains a then l else l ++ [a]

/-- An error in a register of a context that runs a task. -/
def State.badRegister (s : State) (ctx code : Nat) : State := s.updCtx ctx (fun c => { c with ecc := addBad c.ecc code })

/-- The message in a place of a mailbox leaves it. -/
def State.takeSlot (s : State) (core slot : Nat) : State :=
  s.updCore core (fun k => { k with mailbox := k.mailbox.eraseIdx slot })

/-- An error in the header of a mailbox slot: its weight is lost, and the home of its job, or of every job of the tile where the
job is unreadable, is uncertain (R266). -/
def State.slotHeader (s : State) (core slot : Nat) : State :=
  match (s.core core).mailbox[slot]? with
  | none => s
  | some x =>
    let s1 := (s.takeSlot core slot).sweepDiscards x.msg.job
    if Config.pick s.free 74 % 2 = 0 then s1.uncertainAt x.msg.job else (jobsAt s1 (.ni (tileOf core))).foldl State.uncertainAt s1

/-- An error in the argument words or the delivery record of a slot: the message is discarded, its weight LOST (R265). -/
def State.slotArgs (s : State) (core slot : Nat) : State :=
  match (s.core core).mailbox[slot]? with
  | none => s
  | some x =>
    ((s.takeSlot core slot).pod (.ni (tileOf core)) x.msg.job (hdrWeight x.msg.hdr) true false).sweepDiscards x.msg.job

/-- A packet whose header carries weight (R266): a message or a pod. -/
def carriesWeight : Body → Bool
  | .message _ => true
  | .farSend _ _ _ _ => true
  | .pod _ _ _ _ => true
  | .fab _ f => (match f.body with
    | .send _ _ _ _ => true
    | _ => false)
  | _ => false

/-- An error in the argument words of a message in flight. -/
def State.outArgsBad (s : State) (out : Nat) : State :=
  s.updOut out (fun o => { o with msg := { o.msg with ecc := if o.msg.args.isEmpty then 0 else 1 } })

/-- An error in a record of a job's overflow ring, found where the home's context unit reads it back (R150, R265, R266): 1 in its argument
words, 2 in its header. -/
def State.ringBad (s : State) (job n ecc : Nat) : State :=
  s.updJob job (fun j => match j.ring[n]? with
    | some r => { j with ring := j.ring.set n (r.1, { r.2 with ecc := if ecc = 1 && r.2.args.isEmpty then r.2.ecc else ecc }) }
    | none => j)

/-- An error in the argument words of the message a packet carries (R265). -/
def State.packetArgsBad (s : State) (pkt : Nat) : State :=
  match s.packet? pkt with
  | none => s
  | some p =>
    match p.body with
    | .message out => s.outArgsBad out
    | .fab _ f => (match f.body with
      | .send _ _ _ out => s.outArgsBad out
      | _ => s)
    | .farSend m d o v => s.updPacket pkt (fun p => { p with body := .farSend { m with ecc := if m.args.isEmpty then 0 else 1 } d o v })
    | _ => s

/-- What an uncorrectable soft error leaves at the place it strikes (R265, R266, R331). -/
def State.strike (s : State) (e : SoftError) : State :=
  match e with
  | .localByte job vcore addr =>
    match s.job? job with
    | some j => if j.hasVcore vcore ∧ addr < j.localLimit then { s with eccLocal := addBad s.eccLocal (locAddr job vcore addr) } else s
    | none => s
  | .scratchByte job vtile addr =>
    match s.job? job with
    | some j => if vtile < j.vtiles ∧ addr < j.tileLimit then { s with eccScratch := addBad s.eccScratch (scratchAddr job vtile addr) } else s
    | none => s
  | .codeByte job vtile addr =>
    match s.job? job with
    | some j => if vtile < j.vtiles ∧ addr < j.csize then { s with eccCode := addBad s.eccCode (codeAddr job vtile addr) } else s
    | none => s
  | .scalarName ctx name => if name < 56 then s.badRegister ctx name else s
  | .maskReg ctx n => if 1 ≤ n ∧ n < 8 then s.badRegister ctx (64 + n) else s
  | .vectorReg ctx n =>
    match s.ctxs.get? ctx with
    | some c => if n < 512 * c.v.length then s.badRegister ctx (128 + n) else s
    | none => s
  | .routine job tile cls =>
    match s.job? job with
    | some j =>
      if j.place.contains tile ∧ !(s.tile tile).badRoutines.contains (job, cls) then
        s.updTile tile (fun t => { t with badRoutines := t.badRoutines ++ [(job, cls)] })
      else s
    | none => s
  | .mailboxHeader core slot => s.slotHeader core slot
  | .mailboxArgs core slot => s.slotArgs core slot
  | .stationTlb station n => { s with stationTlb := s.stationTlb.map (fun x => if x.1 = station then (x.1, x.2.eraseIdx n) else x) }
  | .dieTlb die n => { s with dieTlb := s.dieTlb.map (fun x => if x.1 = die then (x.1, x.2.eraseIdx n) else x) }
  | .packetHeader pkt jobReadable =>
    s.updPacket pkt (fun p => if carriesWeight p.body then { p with hdrEcc := if jobReadable then 1 else 2 } else p)
  | .packetArgs pkt => s.packetArgsBad pkt
  | .ringHeader job n => s.ringBad job n 2
  | .ringArgs job n => s.ringBad job n 1

/-- An uncorrectable soft error strikes (R331). -/
def execUncorrectableSoftError (e : SoftError) (s : State) : Host.Outcome State Fault Refusal :=
  .next { (s.strike e) with free := s.free + 1 }

end Sys2Proof.Machine
end

