-- ==== Sys2Proof/Machine/VectorRun.lean ====
section
/-! DEFINITION. The vector unit and the SFU at work: the start of an operation, its chunks at the banks, the registers it reads while
others write them, and its completion (R115 to R119, R132, R156). -/

namespace Sys2Proof.Machine

/-! ## What an operation comes to, and what it still reads -/

/-- What an operation of either unit comes to from the registers it reads. -/
def opEffect (s : State) (o : Op) (reg : Fin 32 → VReg) : VOut :=
  match o.kind with
  | .vector i => vectorEffect s o i reg
  | .sfu i =>
    match sfuOf i with
    | some (fn, t, d, a) =>
      elemwise d (vtBits t) (vtCount t) o.mask.toNat (fun n => sfuElem fn t (elemGet (reg a) (vtBits t) n))
    | none => .ofResults [] 0
  | .ldt _ _ _ _ => .ofResults [] 0
  | .divide _ _ => .ofResults [] 0

/-- The clk in which the service of an SFU operation ends: n(T)/8 clk (R118). -/
def sfuClks (i : Instr) : Nat :=
  match sfuOf i with
  | some (_, t, _, _) => vtCount t / 8
  | none => 0

/-- A vector load of either memory. -/
def isLoad : Instr → Bool
  | .vldT .. | .vldL .. | .vldxT .. => true
  | _ => false

/-- A vector store of either memory. -/
def isStore : Instr → Bool
  | .vstT .. | .vstL .. | .vstxT .. => true
  | _ => false

/-- How many chunks an operation moves: of 32 register bytes, or of one element (R116). -/
def chunkCount : Instr → Nat
  | .vldxT _ _ _ t _ _ | .vstxT _ _ _ t _ _ => vtCount t
  | _ => 16

/-- What the chunks of an operation ask for: their banks, or for a store to local memory the memory itself. -/
def chunkAsks (o : Op) (i : Instr) (reg : Fin 32 → VReg) : List (Option Nat) :=
  let mask := o.mask.toNat
  match i with
  | .vldT _ _ t _ _ | .vstT _ _ t _ _ => chunkBanks o.fmts t mask o.a.toNat
  | .vldxT _ _ b t _ _ | .vstxT _ _ b t _ _ => elementBanks o.fmts t mask o.a.toNat (reg b)
  | .vstL _ _ _ _ _ => List.replicate 16 (some 32)
  | _ => []

/-- The chunks that ask for nothing pass, a clk each; how many, and what is left. -/
def skipChunks : List (Option Nat) → Nat × List (Option Nat)
  | none :: t => ((skipChunks t).1 + 1, (skipChunks t).2)
  | l => (0, l)

/-- The result of an operation is readable 4 clk after its last chunk; a store is done with it (R29, R116). -/
def resultLag (i : Instr) : Nat := if isStore i then 0 else 4

/-- A started operation still reads its source registers. -/
def stillReads (s : State) (o : Op) : Bool :=
  o.started && (!o.reqs.isEmpty || (match o.kind with
    | .vector i => decide (s.clk < o.start + occupancy i)
    | .sfu i => decide (s.clk < o.start + sfuClks i)
    | .ldt _ _ _ _ => false
    | .divide _ _ => false))

/-- How many bytes of a source register a store has already read, chunk by chunk (R132); of the other functions the spec does not say
which element is read when. -/
def alreadyRead (o : Op) (r : Nat) : Nat :=
  match o.kind with
  | .vector (.vstL ..) | .vector (.vstT ..) => 32 * (16 - o.reqs.length)
  | .vector (.vstxT d _ b t _ _) =>
    let n := vtCount t - o.reqs.length
    let data := n * vtBits t / 8
    if d.val = b.val then min data (2 * n) else if r = b.val then 2 * n else data
  | _ => 0

/-! ## Writing while others read (R27, R117) -/

/-- A vector store's element reaches its memory: a byte of local memory binds the core's loads from the next clk on (R107). -/
def putWrites (o : Op) (at_ : Nat → Nat) : State → List VWrite → State
  | s, [] => s
  | s, w :: t => putWrites o at_ ((s.writeBytes w.space w.addr w.bytes .core o.task o.acc none).stamp s.serial (at_ w.chunk)) t

/-- The chunks of a store to local memory that are not yet written, as the core's loads may see them already (R107). -/
def putLocal (s : State) (o : Op) (ws : List VWrite) : State :=
  putWrites o (fun k => o.start + k + 1) s (ws.filter (fun w => w.space == .loc && decide (s.clk ≤ o.start + w.chunk)))

/-- A register with its first bytes as they were. -/
def keepLow (n : Nat) (old new : VReg) : VReg :=
  let m : VReg := BitVec.ofNat 4096 (2 ^ (8 * n) - 1)
  (old &&& m) ||| (new &&& ~~~m)

/-- An operation that still reads is computed anew from other registers. -/
def State.recompute (s : State) (a : Op) (snap : List (Nat × VReg)) : State :=
  let a1 := { a with snap := snap }
  let r := opEffect s a1 (regFrom snap)
  match r.fault with
  | some _ => s
  | none =>
    let s1 := s.updOp a.id (fun x => { x with snap := snap, flags := r.flags })
    let s2 := s1.updCtx a.ctx (fun c => if c.task = a.task ∧ !c.dying then c.pendResults a a.due r.outs else c)
    if r.writes.any (fun w => w.space == .loc) then putLocal (s2.unwriteFrom a.acc s.clk) a1 r.writes else s2

/-- An operation of a context that still reads a register which another one now comes to write: each element not read yet is old or new
(R117). One whose result an early read has taken stands as it was read (R27). -/
def rereadOp (s : State) (outs : List (Target × Nat)) (a : Op) : State :=
  let ps : List Pending := outs.map (fun r => ⟨0, r.1, r.2, 1, false, false⟩)
  let snap := a.snap.map (fun e => (e.1, keepLow (alreadyRead a e.1) e.2 (overlay s (3000 + e.1) e.1 0 e.2 ps)))
  if a.fixed ∨ snap = a.snap then s else s.recompute a snap

/-- The operations of a context that still read what results write. -/
def rereadAll (s : State) (o : Op) (outs : List (Target × Nat)) : State :=
  (s.ops.filter (fun a => a.ctx == o.ctx && a.id != o.id && stillReads s a
    && a.srcs.any (fun n => outs.any (fun t => regClash t.1 (vTarget (Fin.ofNat 32 n)))))).foldl (fun st a => rereadOp st outs a) s

/-- The started operations whose results an operation reads early stand as it reads them (R27). -/
def fixRead (s : State) (o : Op) : State :=
  let read (a : Op) : Bool := a.ctx == o.ctx && a.id != o.id && a.started
    && o.srcs.any (fun n => a.tgts.any (fun t => regClash t (vTarget (Fin.ofNat 32 n))))
  if s.ops.any read then { s with ops := replaceIf read (fun a => { a with fixed := true }) s.ops } else s

/-! ## Start (R115, R116, R118, R119) -/

/-- What an operation is once it has started, what it reads and the bank formats it samples being settled (R115, R159). -/
def begun (s : State) (o : Op) (lane : Nat) : Op :=
  let c := s.ctxs.getD o.ctx Ctx.idle
  { o with started := true, start := s.clk, lane := lane, snap := o.srcs.map (fun r => (r, readV s c r r))
           fmts := s.formats c.job (c.vcore / 8), since := s.serial }

/-- What it comes to at its start: its effect, or the fault of a source register with an uncorrectable error (R331). -/
def startEffect (s : State) (o : Op) (i : Instr) : VOut :=
  match badSource (s.ctxs.getD o.ctx Ctx.idle) o i (regFrom o.snap) with
  | some n => VOut.ofFault .eccloc (BitVec.ofNat 64 (2 ^ 62 + n))
  | none => opEffect s o (regFrom o.snap)

/-- A start-time fault: it is noted for its marker, nothing is written, and the operation is outstanding for one clk more (R119). -/
def State.startFails (s : State) (o : Op) (cause : Cause) (arg : Word) : State :=
  (s.updOp o.id (fun _ => { o with due := s.clk + 1, tgts := [], flags := 0 })).updCtx o.ctx
    (fun c => if c.task = o.task ∧ !c.dying then c.noteFault o.id o.seg ⟨cause, 1, 0, arg⟩ else c)

/-- An operation has started: what it will write is pending in its context, and what others read of it is old or new. -/
def State.runs (s : State) (o : Op) (r : VOut) : State :=
  let s1 := fixRead (rereadAll (s.updOp o.id (fun _ => o)) o r.outs) o
  s1.updCtx o.ctx (fun c => if c.task = o.task ∧ !c.dying then c.pendResults o o.due r.outs else c)

/-- Starts an operation of the vector unit on a lane group. -/
def startVector (s : State) (tile lane : Nat) (o : Op) (i : Instr) : State :=
  let o1 := begun s o lane
  let r := startEffect s o1 i
  let setLane (until_ : Nat) (x : Tile) : Tile := { x with lanes := x.lanes.set lane until_ }
  match r.fault with
  | some (cause, arg) => (s.updTile tile (setLane (s.clk + 1))).startFails o1 cause arg
  | none =>
    let asks := skipChunks (chunkAsks o1 i (regFrom o1.snap))
    let o2 := { o1 with due := s.clk + occupancy i + resultLag i, flags := r.flags, reqs := asks.2, nextAt := s.clk + asks.1 }
    putLocal ((s.updTile tile (setLane (s.clk + occupancy i))).runs o2 r) o2 r.writes

/-- A lane group is free in this clk. -/
def laneFree (s : State) (tile lane : Nat) : Bool :=
  decide ((s.tile tile).lanes.getD lane 0 ≤ s.clk)
    && !(s.ops.any (fun o => o.started && o.kind.isVector && o.lane == lane && tileOf (coreOf o.ctx) == tile && !o.reqs.isEmpty))

/-- The vector arbiter binds one queue head to the lowest free lane group (R116, R290). -/
def execVectorOpStart (tile : Nat) (s : State) : Host.Outcome State Fault Refusal :=
  let x := s.tile tile
  match (List.range 4).find? (fun l => laneFree s tile l) with
  | none => .next s
  | some lane =>
    let heads := (List.range 8).filterMap (fun c => (headOp s (8 * tile + c)).map (fun h => (c, occupancy h.2)))
    if heads.isEmpty then .next s
    else
      match arbitrate tile heads x.vshare x.arbLast 32 x.deficit with
      | none => .next s
      | some (c, deficit) =>
        match headOp s (8 * tile + c) with
        | none => .next s
        | some (o, i) =>
          let core := 8 * tile + c
          let q := (s.core core).vqueue.drop 1
          let s1 := s.updCore core (fun y => { y with vqueue := q })
          let s2 := s1.updTile tile (fun y => { y with arbLast := c, deficit := if q.isEmpty then deficit.set c 0 else deficit })
          .next { (startVector s2 tile lane o i) with free := s.free + 1 }

/-- The SFU begins to serve the head of the tile's queue, from the clk after its issue: n(T)/8 clk, the result 12 clk after
them; a start-time fault holds the head for one clk (R118, R119). The request in service has left the queue: it takes none of its 32
places any more (log 50: DESIGN CHOICE). -/
def execSfuServiceStart (tile : Nat) (s : State) : Host.Outcome State Fault Refusal :=
  let x := s.tile tile
  match x.sfu with
  | [] => .next s
  | id :: rest =>
    match s.op? id with
    | none => .next (s.updTile tile (fun y => { y with sfu := rest }))
    | some o =>
      if s.clk < x.sfuEnd ∨ s.clk ≤ o.issued then .next s
      else
        match o.kind with
        | .sfu i =>
          let o1 := begun s o 0
          let r := startEffect s o1 i
          let serve (end_ : Nat) : State := { (s.updTile tile (fun y => { y with sfu := rest, sfuEnd := end_ })) with free := s.free + 1 }
          let end_ := s.clk + sfuClks i
          match r.fault with
          | some (cause, arg) => .next ((serve (s.clk + 1)).startFails o1 cause arg)
          | none => .next ((serve end_).runs { o1 with due := end_ + 12, flags := r.flags } r)
        | _ => .next s

/-! ## Chunks and completion (R29, R116, R120, R132) -/

/-- A started operation has nothing left to ask for, and its result is due. -/
def completes (s : State) (o : Op) : Bool := o.started && o.reqs.isEmpty && decide (o.due ≤ s.clk)

/-- What is pending in its context of an operation. -/
def pendingOf (s : State) (o : Op) : List (Target × Nat) :=
  ((s.ctxs.getD o.ctx Ctx.idle).pend.filter (fun p => p.op == o.id)).map (fun p => (p.target, p.value))

/-- What an operation writes at its end, with its flags: a load that no early read has settled may also have read what was stored while
it ran (R132). -/
def finalResults (s : State) (o : Op) : List (Target × Nat) × Nat :=
  let reload := !o.fixed && (match o.kind with
    | .vector i => isLoad i && !o.tgts.isEmpty
    | _ => false)
  let r := opEffect s o (regFrom o.snap)
  if reload && r.fault.isNone then (r.outs, r.flags) else (pendingOf s o, o.flags)

/-- An operation writes its results and its flags, and is outstanding no more (R116, R120). -/
def completeOp (s : State) (o : Op) : State :=
  let r := finalResults s o
  let s1 := s.writeResults o r.1 r.2
  { ((if o.acc = 0 then s1 else s1.performAcc o.acc).settleOp o) with free := s.free + 1 }

/-- The next chunk of an operation has been served: what a store puts there is written in this clk (R132), and each clk the chunk has
waited makes the operation longer (R116). -/
def serveChunk (s : State) (tile : Nat) (o : Op) (i : Instr) (bank : Nat) (rest : List (Option Nat)) : State :=
  let s1 := s.granted tile bank (8 + o.lane)
  let k := chunkCount i - o.reqs.length
  let asks := skipChunks rest
  let left := s.clk + 1 + rest.length
  let s2 := (s1.updTile tile (fun x => { x with lanes := x.lanes.set o.lane (max (x.lanes.getD o.lane 0) left) })).updOp o.id (fun x =>
    { x with reqs := asks.2, nextAt := s.clk + 1 + asks.1, due := max o.due (left + resultLag i) })
  let s3 := { s2 with free := s.free + 1 }
  if isStore i then
    let mine (w : WRec) : Bool := w.acc == o.acc && o.acc != 0 && w.space == .loc && w.at_ == o.start + k + 1
    putWrites o (fun _ => s.clk + 1) ((s3.writes.filter mine).foldl (fun st w => st.unwrite w) s3)
      ((opEffect s o (regFrom o.snap)).writes.filter (fun w => w.chunk == k))
  else s3

/-- An operation of the vector unit goes on: the next of its chunks is granted its bank, or with none left it writes its result and its
flags (R116, R120, R132). -/
def execVectorOpComplete (op : Nat) (s : State) : Host.Outcome State Fault Refusal :=
  match s.op? op with
  | some o =>
    match o.kind with
    | .vector i =>
      let tile := tileOf (coreOf o.ctx)
      match o.reqs with
      | some b :: rest =>
        if o.nextAt ≤ s.clk && bankOpen s tile b (8 + o.lane) then .next (serveChunk s tile o i b rest) else .next s
      | _ => if completes s o then .next (completeOp s o) else .next s
    | _ => .next s
  | none => .next s

/-- An SFU result becomes readable, or is discarded for a dead task (R118). -/
def execSfuResult (op : Nat) (s : State) : Host.Outcome State Fault Refusal :=
  match s.op? op with
  | some o =>
    match o.kind with
    | .sfu _ => if completes s o then .next (completeOp s o) else .next s
    | _ => .next s
  | none => .next s

end Sys2Proof.Machine
end

