-- ==== Sys2Proof/Machine/Weight.lean ====
section
/-! DEFINITION. The weight instructions (R270 to R274). -/

namespace Sys2Proof.Machine

/-- `wgt.wget` (R271) -/
def execWgtWget (d : Name) (m : Mark) (s : State) : Host.Outcome State Fault Refusal :=
  issue32 m s (do
    dst d
    fall (wr s d (BitVec.ofNat 64 s.me.wt) 1))

/-- `wgt.wtotal` (R271) -/
def execWgtWtotal (d : Name) (m : Mark) (s : State) : Host.Outcome State Fault Refusal :=
  issue32 m s (do
    dst d
    let j ← theJob s
    fall (wr s d (BitVec.ofNat 64 j.w) 1))

/-- `wgt.wret` (R272) -/
def execWgtWret (a : Name) (m : Mark) (s : State) : Host.Outcome State Fault Refusal :=
  issue32 m s (do
    srcs [a]
    let v ← rd s 0 a
    let s1 ← takeWeight s v.toNat
    fall (s1.pod (.ni s.myTile) s.me.job v.toNat false false))

/-- What the issuing task sends to its home under its hold (R261, R273). -/
def toHome (s : State) (j : Job) (b : Body) : State :=
  s.post .request (.ni s.myTile) (.unit j.die) s.me.job 1 (s.myCore + 1) [] b

/-- `wgt.qarm` (R273) -/
def execWgtQarm (a b : Name) (m : Mark) (s : State) : Host.Outcome State Fault Refusal :=
  issue32 m s (do
    srcs [a, b]
    let j ← theJob s
    let t ← rd s 0 a
    let c ← rd s 1 b
    limits (decide (c.toNat ≤ 255) && targetOk j t.toNat c.toNat)
    ready (!s.niFull s.myCore)
    let s1 ← joinHold s
    fall (toHome s1 j (.arm s.me.job s.me.task t.toNat c.toNat)))

/-- `wgt.qdisarm` (R273) -/
def execWgtQdisarm (m : Mark) (s : State) : Host.Outcome State Fault Refusal :=
  issue32 m s (do
    let j ← theJob s
    ready (!s.niFull s.myCore)
    let s1 ← joinHold s
    fall (toHome s1 j (.disarm s.me.job s.me.task)))

/-- A request of the issuing task to its home, which is no access of memory (R274): its completion word stands in A, with ACQ,
REL and SCOPE 0, and its TAG is 0. -/
def homeRequest (kind : ReqKind) (noMsg : Bool) (a b : Name) (s : State) : Res := do
  srcs [a, b]
  let j ← theJob s
  let c ← rd s 0 a
  limits (cmsgOk j c false && fieldOf c.toNat 27 5 == 0 && (noMsg || !c.toNat.testBit 26))
  ready (!s.niFull s.myCore)
  let v ← rd s 1 b
  let s1 ← takeWeight s v.toNat
  let w := s1.issuer
  let s2 := { (s1.request w kind v.toNat ⟨c, 0⟩ .core .task none 0 []) with accs := s1.accs }
  fall (s2.postReq w (nextReq s1) (.unit j.die))

/-- `wgt.wcensus` (R274, R349) -/
def execWgtWcensus (a b : Name) (m : Mark) (s : State) : Host.Outcome State Fault Refusal :=
  issue32 m s (do
    need s.me.privileged .priv
    homeRequest .census true a b s)

/-- `wgt.wloss` (R274) -/
def execWgtWloss (a b : Name) (m : Mark) (s : State) : Host.Outcome State Fault Refusal :=
  issue32 m s (homeRequest .wloss false a b s)

end Sys2Proof.Machine
end

