-- ==== Sys2Proof/Machine/Dispatch.lean ====
section
/-! DEFINITION. One arm for each constructor of Instr: the call of its meaning. -/

namespace Sys2Proof.Machine

def exec (i : Instr) (s : State) : Host.Outcome State Fault Refusal :=
  match i with
  | .aluAdd d a b m => Sys2Proof.Machine.execAluAdd d a b m s
  | .aluSub d a b m => Sys2Proof.Machine.execAluSub d a b m s
  | .aluAnd d a b m => Sys2Proof.Machine.execAluAnd d a b m s
  | .aluOr d a b m => Sys2Proof.Machine.execAluOr d a b m s
  | .aluXor d a b m => Sys2Proof.Machine.execAluXor d a b m s
  | .aluAndn d a b m => Sys2Proof.Machine.execAluAndn d a b m s
  | .aluShl d a b m => Sys2Proof.Machine.execAluShl d a b m s
  | .aluShr d a b m => Sys2Proof.Machine.execAluShr d a b m s
  | .aluSra d a b m => Sys2Proof.Machine.execAluSra d a b m s
  | .aluRot d a b m => Sys2Proof.Machine.execAluRot d a b m s
  | .aluMin d a b m => Sys2Proof.Machine.execAluMin d a b m s
  | .aluMax d a b m => Sys2Proof.Machine.execAluMax d a b m s
  | .aluMinu d a b m => Sys2Proof.Machine.execAluMinu d a b m s
  | .aluMaxu d a b m => Sys2Proof.Machine.execAluMaxu d a b m s
  | .aluSlt d a b m => Sys2Proof.Machine.execAluSlt d a b m s
  | .aluSltu d a b m => Sys2Proof.Machine.execAluSltu d a b m s
  | .alu2Seq d a b m => Sys2Proof.Machine.execAlu2Seq d a b m s
  | .alu2Sne d a b m => Sys2Proof.Machine.execAlu2Sne d a b m s
  | .alu2Clz d a m => Sys2Proof.Machine.execAlu2Clz d a m s
  | .alu2Ctz d a m => Sys2Proof.Machine.execAlu2Ctz d a m s
  | .alu2Popc d a m => Sys2Proof.Machine.execAlu2Popc d a m s
  | .alu2SextB d a m => Sys2Proof.Machine.execAlu2SextB d a m s
  | .alu2SextH d a m => Sys2Proof.Machine.execAlu2SextH d a m s
  | .alu2SextW d a m => Sys2Proof.Machine.execAlu2SextW d a m s
  | .alu2ZextB d a m => Sys2Proof.Machine.execAlu2ZextB d a m s
  | .alu2ZextH d a m => Sys2Proof.Machine.execAlu2ZextH d a m s
  | .alu2ZextW d a m => Sys2Proof.Machine.execAlu2ZextW d a m s
  | .alu2Mul d a b m => Sys2Proof.Machine.execAlu2Mul d a b m s
  | .alu2Mulh d a b m => Sys2Proof.Machine.execAlu2Mulh d a b m s
  | .alu2Mulhu d a b m => Sys2Proof.Machine.execAlu2Mulhu d a b m s
  | .alu2Div d a b m => Sys2Proof.Machine.execAlu2Div d a b m s
  | .alu2Divu d a b m => Sys2Proof.Machine.execAlu2Divu d a b m s
  | .alu3Rem d a b m => Sys2Proof.Machine.execAlu3Rem d a b m s
  | .alu3Remu d a b m => Sys2Proof.Machine.execAlu3Remu d a b m s
  | .alu3Sel d a b m => Sys2Proof.Machine.execAlu3Sel d a b m s
  | .alu3Bext d a b m => Sys2Proof.Machine.execAlu3Bext d a b m s
  | .alu3Bins d a b m => Sys2Proof.Machine.execAlu3Bins d a b m s
  | .alu3Addsat d a b m => Sys2Proof.Machine.execAlu3Addsat d a b m s
  | .alu3Subsat d a b m => Sys2Proof.Machine.execAlu3Subsat d a b m s
  | .alu3Absdiff d a b m => Sys2Proof.Machine.execAlu3Absdiff d a b m s
  | .addi d a imm m => Sys2Proof.Machine.execAddi d a imm m s
  | .andi d a imm m => Sys2Proof.Machine.execAndi d a imm m s
  | .ori d a imm m => Sys2Proof.Machine.execOri d a imm m s
  | .xori d a imm m => Sys2Proof.Machine.execXori d a imm m s
  | .shiShl d a n m => Sys2Proof.Machine.execShiShl d a n m s
  | .shiShr d a n m => Sys2Proof.Machine.execShiShr d a n m s
  | .shiSra d a n m => Sys2Proof.Machine.execShiSra d a n m s
  | .shiRot d a n m => Sys2Proof.Machine.execShiRot d a n m s
  | .slti d a imm m => Sys2Proof.Machine.execSlti d a imm m s
  | .movi d imm m => Sys2Proof.Machine.execMovi d imm m s
  | .sltiu d a imm m => Sys2Proof.Machine.execSltiu d a imm m s
  | .beq a b o m => Sys2Proof.Machine.execBeq a b o m s
  | .bne a b o m => Sys2Proof.Machine.execBne a b o m s
  | .blt a b o m => Sys2Proof.Machine.execBlt a b o m s
  | .bge a b o m => Sys2Proof.Machine.execBge a b o m s
  | .bltu a b o m => Sys2Proof.Machine.execBltu a b o m s
  | .bgeu a b o m => Sys2Proof.Machine.execBgeu a b o m s
  | .jmp o m => Sys2Proof.Machine.execJmp o m s
  | .call o m => Sys2Proof.Machine.execCall o m s
  | .ctlJr a m => Sys2Proof.Machine.execCtlJr a m s
  | .ctlRet m => Sys2Proof.Machine.execCtlRet m s
  | .ctlEnd m => Sys2Proof.Machine.execCtlEnd m s
  | .ctlNop m => Sys2Proof.Machine.execCtlNop m s
  | .ctlTrap a m => Sys2Proof.Machine.execCtlTrap a m s
  | .loop a imm m => Sys2Proof.Machine.execLoop a imm m s
  | .ldl d a o z x q m => Sys2Proof.Machine.execLdl d a o z x q m s
  | .stl d a o z q m => Sys2Proof.Machine.execStl d a o z q m s
  | .ldt d a o z x q m => Sys2Proof.Machine.execLdt d a o z x q m s
  | .stt d a o z q m => Sys2Proof.Machine.execStt d a o z q m s
  | .fpFadd d a b m => Sys2Proof.Machine.execFpFadd d a b m s
  | .fpFsub d a b m => Sys2Proof.Machine.execFpFsub d a b m s
  | .fpFmul d a b m => Sys2Proof.Machine.execFpFmul d a b m s
  | .fpFmin d a b m => Sys2Proof.Machine.execFpFmin d a b m s
  | .fpFmax d a b m => Sys2Proof.Machine.execFpFmax d a b m s
  | .fpFabs d a m => Sys2Proof.Machine.execFpFabs d a m s
  | .fpFneg d a m => Sys2Proof.Machine.execFpFneg d a m s
  | .fpFeq d a b m => Sys2Proof.Machine.execFpFeq d a b m s
  | .fpFlt d a b m => Sys2Proof.Machine.execFpFlt d a b m s
  | .fpFle d a b m => Sys2Proof.Machine.execFpFle d a b m s
  | .fpFcvtI2f d a m => Sys2Proof.Machine.execFpFcvtI2f d a m s
  | .fpFcvtU2f d a m => Sys2Proof.Machine.execFpFcvtU2f d a m s
  | .fpFcvtF2i d a m => Sys2Proof.Machine.execFpFcvtF2i d a m s
  | .fpFcvtF2u d a m => Sys2Proof.Machine.execFpFcvtF2u d a m s
  | .fpFsqrt d a m => Sys2Proof.Machine.execFpFsqrt d a m s
  | .fpFclass d a m => Sys2Proof.Machine.execFpFclass d a m s
  | .ffma d a b m => Sys2Proof.Machine.execFfma d a b m s
  | .vadd d a b t k m => Sys2Proof.Machine.execVadd d a b t k m s
  | .vsub d a b t k m => Sys2Proof.Machine.execVsub d a b t k m s
  | .vmul d a b t k m => Sys2Proof.Machine.execVmul d a b t k m s
  | .vfma d a b t k m => Sys2Proof.Machine.execVfma d a b t k m s
  | .vmin d a b t k m => Sys2Proof.Machine.execVmin d a b t k m s
  | .vmax d a b t k m => Sys2Proof.Machine.execVmax d a b t k m s
  | .vabs d a t k m => Sys2Proof.Machine.execVabs d a t k m s
  | .vneg d a t k m => Sys2Proof.Machine.execVneg d a t k m s
  | .vand d a b t k m => Sys2Proof.Machine.execVand d a b t k m s
  | .vor d a b t k m => Sys2Proof.Machine.execVor d a b t k m s
  | .vxor d a b t k m => Sys2Proof.Machine.execVxor d a b t k m s
  | .vandn d a b t k m => Sys2Proof.Machine.execVandn d a b t k m s
  | .vshl d a b t k m => Sys2Proof.Machine.execVshl d a b t k m s
  | .vshr d a b t k m => Sys2Proof.Machine.execVshr d a b t k m s
  | .vsra d a b t k m => Sys2Proof.Machine.execVsra d a b t k m s
  | .vrot d a b t k m => Sys2Proof.Machine.execVrot d a b t k m s
  | .vceq d a b t k m => Sys2Proof.Machine.execVceq d a b t k m s
  | .vclt d a b t k m => Sys2Proof.Machine.execVclt d a b t k m s
  | .vcle d a b t k m => Sys2Proof.Machine.execVcle d a b t k m s
  | .vcne d a b t k m => Sys2Proof.Machine.execVcne d a b t k m s
  | .vsel d a b t k m => Sys2Proof.Machine.execVsel d a b t k m s
  | .vmov d a t k m => Sys2Proof.Machine.execVmov d a t k m s
  | .vbcast d a t k m => Sys2Proof.Machine.execVbcast d a t k m s
  | .vzero d t k m => Sys2Proof.Machine.execVzero d t k m s
  | .vcvtSame d a t u k m => Sys2Proof.Machine.execVcvtSame d a t u k m s
  | .vcvtWiden2 d a t u k m => Sys2Proof.Machine.execVcvtWiden2 d a t u k m s
  | .vcvtWiden4 d a t u k m => Sys2Proof.Machine.execVcvtWiden4 d a t u k m s
  | .vcvtNarrow d a t u k m => Sys2Proof.Machine.execVcvtNarrow d a t u k m s
  | .vredsum d a t k m => Sys2Proof.Machine.execVredsum d a t k m s
  | .vredmax d a t k m => Sys2Proof.Machine.execVredmax d a t k m s
  | .vredmin d a t k m => Sys2Proof.Machine.execVredmin d a t k m s
  | .vdot d a b t k m => Sys2Proof.Machine.execVdot d a b t k m s
  | .vperm d a b t k m => Sys2Proof.Machine.execVperm d a b t k m s
  | .vslide d a b t k m => Sys2Proof.Machine.execVslide d a b t k m s
  | .vext d a b t m => Sys2Proof.Machine.execVext d a b t m s
  | .vins d a b t m => Sys2Proof.Machine.execVins d a b t m s
  | .vldT d a t k m => Sys2Proof.Machine.execVldT d a t k m s
  | .vldL d a t k m => Sys2Proof.Machine.execVldL d a t k m s
  | .vldxT d a b t k m => Sys2Proof.Machine.execVldxT d a b t k m s
  | .vstT d a t k m => Sys2Proof.Machine.execVstT d a t k m s
  | .vstL d a t k m => Sys2Proof.Machine.execVstL d a t k m s
  | .vstxT d a b t k m => Sys2Proof.Machine.execVstxT d a b t k m s
  | .vrcp d a t k m => Sys2Proof.Machine.execVrcp d a t k m s
  | .vrsq d a t k m => Sys2Proof.Machine.execVrsq d a t k m s
  | .vexp2 d a t k m => Sys2Proof.Machine.execVexp2 d a t k m s
  | .vlog2 d a t k m => Sys2Proof.Machine.execVlog2 d a t k m s
  | .vsin d a t k m => Sys2Proof.Machine.execVsin d a t k m s
  | .vcos d a t k m => Sys2Proof.Machine.execVcos d a t k m s
  | .vtanh d a t k m => Sys2Proof.Machine.execVtanh d a t k m s
  | .vsigm d a t k m => Sys2Proof.Machine.execVsigm d a t k m s
  | .vrcpr d a b k m => Sys2Proof.Machine.execVrcpr d a b k m s
  | .vrsqr d a b k m => Sys2Proof.Machine.execVrsqr d a b k m s
  | .vrnd d a t k m => Sys2Proof.Machine.execVrnd d a t k m s
  | .vfloor d a t k m => Sys2Proof.Machine.execVfloor d a t k m s
  | .vtpack d a m => Sys2Proof.Machine.execVtpack d a m s
  | .vtunp d a m => Sys2Proof.Machine.execVtunp d a m s
  | .vtqnt d a b k m => Sys2Proof.Machine.execVtqnt d a b k m s
  | .vtchk d a m => Sys2Proof.Machine.execVtchk d a m s
  | .kand d a b m => Sys2Proof.Machine.execKand d a b m s
  | .kor d a b m => Sys2Proof.Machine.execKor d a b m s
  | .kxor d a b m => Sys2Proof.Machine.execKxor d a b m s
  | .knot d a m => Sys2Proof.Machine.execKnot d a m s
  | .kpop d a m => Sys2Proof.Machine.execKpop d a m s
  | .kfirst d a m => Sys2Proof.Machine.execKfirst d a m s
  | .kset d a b m => Sys2Proof.Machine.execKset d a b m s
  | .kmv d a m => Sys2Proof.Machine.execKmv d a m s
  | .vaddsat d a b t k m => Sys2Proof.Machine.execVaddsat d a b t k m s
  | .vsubsat d a b t k m => Sys2Proof.Machine.execVsubsat d a b t k m s
  | .vmulh d a b t k m => Sys2Proof.Machine.execVmulh d a b t k m s
  | .vabsdiff d a b t k m => Sys2Proof.Machine.execVabsdiff d a b t k m s
  | .xchg d a b m => Sys2Proof.Machine.execXchg d a b m s
  | .send a b o m => Sys2Proof.Machine.execSend a b o m s
  | .sendHalf a o m => Sys2Proof.Machine.execSendHalf a o m s
  | .sendDraw a b o m => Sys2Proof.Machine.execSendDraw a b o m s
  | .sendRop a b o m => Sys2Proof.Machine.execSendRop a b o m s
  | .wgtWget d m => Sys2Proof.Machine.execWgtWget d m s
  | .wgtWtotal d m => Sys2Proof.Machine.execWgtWtotal d m s
  | .wgtWret a m => Sys2Proof.Machine.execWgtWret a m s
  | .wgtQarm a b m => Sys2Proof.Machine.execWgtQarm a b m s
  | .wgtQdisarm m => Sys2Proof.Machine.execWgtQdisarm m s
  | .wgtWcensus a b m => Sys2Proof.Machine.execWgtWcensus a b m s
  | .wgtWloss a b m => Sys2Proof.Machine.execWgtWloss a b m s
  | .grd a b q l m => Sys2Proof.Machine.execGrd a b q l m s
  | .gwr a b q l m => Sys2Proof.Machine.execGwr a b q l m s
  | .gst d a o z q m => Sys2Proof.Machine.execGst d a o z q m s
  | .nearAtomAdd a b m => Sys2Proof.Machine.execNearAtomAdd a b m s
  | .nearAtomMax a b m => Sys2Proof.Machine.execNearAtomMax a b m s
  | .nearAtomCas a b m => Sys2Proof.Machine.execNearAtomCas a b m s
  | .nearCas4 a b m => Sys2Proof.Machine.execNearCas4 a b m s
  | .nearEnq a b m => Sys2Proof.Machine.execNearEnq a b m s
  | .nearChase a b m => Sys2Proof.Machine.execNearChase a b m s
  | .nearRedAddF32 a b m => Sys2Proof.Machine.execNearRedAddF32 a b m s
  | .nearRedMaxF32 a b m => Sys2Proof.Machine.execNearRedMaxF32 a b m s
  | .nearRedAddI32 a b m => Sys2Proof.Machine.execNearRedAddI32 a b m s
  | .nearXswap a b m => Sys2Proof.Machine.execNearXswap a b m s
  | .cpy d a b m => Sys2Proof.Machine.execCpy d a b m s
  | .cpyWalk d a b m => Sys2Proof.Machine.execCpyWalk d a b m s
  | .cqry d a m => Sys2Proof.Machine.execCqry d a m s
  | .cpyCancel d a m => Sys2Proof.Machine.execCpyCancel d a m s
  | .tmm d a b m => Sys2Proof.Machine.execTmm d a b m s
  | .tstat d a m => Sys2Proof.Machine.execTstat d a m s
  | .tabort d a m => Sys2Proof.Machine.execTabort d a m s
  | .trgPost d a b m => Sys2Proof.Machine.execTrgPost d a b m s
  | .trgAdd a b m => Sys2Proof.Machine.execTrgAdd a b m s
  | .trgRead d a m => Sys2Proof.Machine.execTrgRead d a m s
  | .trgCancel d a m => Sys2Proof.Machine.execTrgCancel d a m s
  | .trgAlloc d m => Sys2Proof.Machine.execTrgAlloc d m s
  | .trgFree a m => Sys2Proof.Machine.execTrgFree a m s
  | .nred a b m => Sys2Proof.Machine.execNred a b m s
  | .nrdef a b m => Sys2Proof.Machine.execNrdef a b m s
  | .nrfree a b m => Sys2Proof.Machine.execNrfree a b m s
  | .fnew a b m => Sys2Proof.Machine.execFnew a b m s
  | .fset a b m => Sys2Proof.Machine.execFset a b m s
  | .fwait a b m => Sys2Proof.Machine.execFwait a b m s
  | .ffree a b m => Sys2Proof.Machine.execFfree a b m s
  | .fpeek a b m => Sys2Proof.Machine.execFpeek a b m s
  | .fence k c a b m => Sys2Proof.Machine.execFence k c a b m s
  | .launch a b m => Sys2Proof.Machine.execLaunch a b m s
  | .sysMfs d a m => Sys2Proof.Machine.execSysMfs d a m s
  | .sysMts a b m => Sys2Proof.Machine.execSysMts a b m s
  | .sysCtxsave a b m => Sys2Proof.Machine.execSysCtxsave a b m s
  | .sysCtxload a b m => Sys2Proof.Machine.execSysCtxload a b m s
  | .sysHalt a m => Sys2Proof.Machine.execSysHalt a m s
  | .sysSysnote a b m => Sys2Proof.Machine.execSysSysnote a b m s
  | .spref a b m => Sys2Proof.Machine.execSpref a b m s
  | .limm p => Sys2Proof.Machine.execLimm p s
  | .compactMov x y mk => Sys2Proof.Machine.execCompactMov x y mk s
  | .compactAdd x y mk => Sys2Proof.Machine.execCompactAdd x y mk s
  | .compactSub x y mk => Sys2Proof.Machine.execCompactSub x y mk s
  | .compactAddi x y mk => Sys2Proof.Machine.execCompactAddi x y mk s
  | .compactAnd x y mk => Sys2Proof.Machine.execCompactAnd x y mk s
  | .compactShl x y mk => Sys2Proof.Machine.execCompactShl x y mk s
  | .compactShr x y mk => Sys2Proof.Machine.execCompactShr x y mk s
  | .compactLdlD x y mk => Sys2Proof.Machine.execCompactLdlD x y mk s
  | .compactStlD x y mk => Sys2Proof.Machine.execCompactStlD x y mk s
  | .compactBeqz x y mk => Sys2Proof.Machine.execCompactBeqz x y mk s
  | .compactBnez x y mk => Sys2Proof.Machine.execCompactBnez x y mk s
  | .compactEnd mk => Sys2Proof.Machine.execCompactEnd mk s
  | .compactNop mk => Sys2Proof.Machine.execCompactNop mk s
  | .compactSendHalf x mk => Sys2Proof.Machine.execCompactSendHalf x mk s
  | .compactRet mk => Sys2Proof.Machine.execCompactRet mk s
  | .compactCmov x y mk => Sys2Proof.Machine.execCompactCmov x y mk s
  | .taskStart tile core => Sys2Proof.Machine.execTaskStart tile core s
  | .remoteOpStart tile core => Sys2Proof.Machine.execRemoteOpStart tile core s
  | .drainTaskStart tile => Sys2Proof.Machine.execDrainTaskStart tile s
  | .taskEnd ctx => Sys2Proof.Machine.execTaskEnd ctx s
  | .vectorOpStart tile => Sys2Proof.Machine.execVectorOpStart tile s
  | .vectorOpComplete op => Sys2Proof.Machine.execVectorOpComplete op s
  | .sfuServiceStart tile => Sys2Proof.Machine.execSfuServiceStart tile s
  | .sfuResult op => Sys2Proof.Machine.execSfuResult op s
  | .ldtResult op => Sys2Proof.Machine.execLdtResult op s
  | .divideResult op => Sys2Proof.Machine.execDivideResult op s
  | .tileStoreLand store => Sys2Proof.Machine.execTileStoreLand store s
  | .budgetExpiry ctx => Sys2Proof.Machine.execBudgetExpiry ctx s
  | .unitRetryReinject job level unit => Sys2Proof.Machine.execUnitRetryReinject job level unit s
  | .messageArrival pkt => Sys2Proof.Machine.execMessageArrival pkt s
  | .messageRefusal pkt => Sys2Proof.Machine.execMessageRefusal pkt s
  | .messageResend out => Sys2Proof.Machine.execMessageResend out s
  | .sendAcceptReport pkt => Sys2Proof.Machine.execSendAcceptReport pkt s
  | .spillReinjectOffer job => Sys2Proof.Machine.execSpillReinjectOffer job s
  | .holdAck pkt => Sys2Proof.Machine.execHoldAck pkt s
  | .accessAck acc => Sys2Proof.Machine.execAccessAck acc s
  | .routerSwitch pkt => Sys2Proof.Machine.execRouterSwitch pkt s
  | .routerGate p y => Sys2Proof.Machine.execRouterGate p y s
  | .routerWake p y => Sys2Proof.Machine.execRouterWake p y s
  | .routerReady p y => Sys2Proof.Machine.execRouterReady p y s
  | .chainChunk node => Sys2Proof.Machine.execChainChunk node s
  | .chainGrant node => Sys2Proof.Machine.execChainGrant node s
  | .podArrival pkt => Sys2Proof.Machine.execPodArrival pkt s
  | .drawArrival pkt => Sys2Proof.Machine.execDrawArrival pkt s
  | .drawResend out => Sys2Proof.Machine.execDrawResend out s
  | .armArrival pkt => Sys2Proof.Machine.execArmArrival pkt s
  | .disarmArrival pkt => Sys2Proof.Machine.execDisarmArrival pkt s
  | .farSendArrival pkt => Sys2Proof.Machine.execFarSendArrival pkt s
  | .censusStart pkt => Sys2Proof.Machine.execCensusStart pkt s
  | .censusMarkerSend job node => Sys2Proof.Machine.execCensusMarkerSend job node s
  | .censusMarkerArrival pkt => Sys2Proof.Machine.execCensusMarkerArrival pkt s
  | .wlossServe pkt => Sys2Proof.Machine.execWlossServe pkt s
  | .homeCopyBroadcast job => Sys2Proof.Machine.execHomeCopyBroadcast job s
  | .stationTranslate pkt => Sys2Proof.Machine.execStationTranslate pkt s
  | .pageWalk walk => Sys2Proof.Machine.execPageWalk walk s
  | .parkedRequestResend pkt => Sys2Proof.Machine.execParkedRequestResend pkt s
  | .globalPiecePerform pkt => Sys2Proof.Machine.execGlobalPiecePerform pkt s
  | .pieceLanding pkt => Sys2Proof.Machine.execPieceLanding pkt s
  | .nearOpExecute pkt hint => Sys2Proof.Machine.execNearOpExecute pkt hint s
  | .chaseForwardArrival pkt hint => Sys2Proof.Machine.execChaseForwardArrival pkt hint s
  | .farRetryResend req => Sys2Proof.Machine.execFarRetryResend req s
  | .storageServiceStart port => Sys2Proof.Machine.execStorageServiceStart port s
  | .writebackComplete move ok => Sys2Proof.Machine.execWritebackComplete move ok s
  | .fillComplete port pte ok => Sys2Proof.Machine.execFillComplete port pte ok s
  | .nvmeTimeout port pte => Sys2Proof.Machine.execNvmeTimeout port pte s
  | .frameWaitRetry port pte => Sys2Proof.Machine.execFrameWaitRetry port pte s
  | .migrationReview die region => Sys2Proof.Machine.execMigrationReview die region s
  | .migrationComplete move => Sys2Proof.Machine.execMigrationComplete move s
  | .copyOffer tile core => Sys2Proof.Machine.execCopyOffer tile core s
  | .copyPiece bte req => Sys2Proof.Machine.execCopyPiece bte req s
  | .arrayJobStart tile => Sys2Proof.Machine.execArrayJobStart tile s
  | .arrayStep tile => Sys2Proof.Machine.execArrayStep tile s
  | .arrayRowDrain tile => Sys2Proof.Machine.execArrayRowDrain tile s
  | .arrayJobComplete tile => Sys2Proof.Machine.execArrayJobComplete tile s
  | .arrayStopFinish tile => Sys2Proof.Machine.execArrayStopFinish tile s
  | .xchgActivate tile => Sys2Proof.Machine.execXchgActivate tile s
  | .arriveReceive pkt => Sys2Proof.Machine.execArriveReceive pkt s
  | .arriveResend pkt => Sys2Proof.Machine.execArriveResend pkt s
  | .xchgRowReceive pkt => Sys2Proof.Machine.execXchgRowReceive pkt s
  | .xchgRowAck pkt => Sys2Proof.Machine.execXchgRowAck pkt s
  | .xchgTimeout tile => Sys2Proof.Machine.execXchgTimeout tile s
  | .triggerArrival tile pkt => Sys2Proof.Machine.execTriggerArrival tile pkt s
  | .triggerFire tile => Sys2Proof.Machine.execTriggerFire tile s
  | .nrdefProgram pkt => Sys2Proof.Machine.execNrdefProgram pkt s
  | .nrfreeRemove pkt => Sys2Proof.Machine.execNrfreeRemove pkt s
  | .contributionArrival pkt => Sys2Proof.Machine.execContributionArrival pkt s
  | .routerCombine p y job nid => Sys2Proof.Machine.execRouterCombine p y job nid s
  | .roundStartNotice pkt => Sys2Proof.Machine.execRoundStartNotice pkt s
  | .roundTimeout job nid => Sys2Proof.Machine.execRoundTimeout job nid s
  | .closeArrival pkt => Sys2Proof.Machine.execCloseArrival pkt s
  | .roundComplete job nid => Sys2Proof.Machine.execRoundComplete job nid s
  | .futureRequestServe pkt => Sys2Proof.Machine.execFutureRequestServe pkt s
  | .fwaitResend req => Sys2Proof.Machine.execFwaitResend req s
  | .launchRequestArrival pkt => Sys2Proof.Machine.execLaunchRequestArrival pkt s
  | .launchResend req => Sys2Proof.Machine.execLaunchResend req s
  | .launchRecordTake => Sys2Proof.Machine.execLaunchRecordTake s
  | .launchCreate source => Sys2Proof.Machine.execLaunchCreate source s
  | .rootInject => Sys2Proof.Machine.execRootInject s
  | .contextRestore req => Sys2Proof.Machine.execContextRestore req s
  | .savedFarSendSpill pkt => Sys2Proof.Machine.execSavedFarSendSpill pkt s
  | .checkpointDigestArrival jtag gen entry chunk digest => Sys2Proof.Machine.execCheckpointDigestArrival jtag gen entry chunk digest s
  | .checkpointFlushDone e => Sys2Proof.Machine.execCheckpointFlushDone e s
  | .checkpointPeerlost slot => Sys2Proof.Machine.execCheckpointPeerlost slot s
  | .fabricPacketArrival port pkt => Sys2Proof.Machine.execFabricPacketArrival port pkt s
  | .fabricNakArrival port pkt => Sys2Proof.Machine.execFabricNakArrival port pkt s
  | .flitCrcReplay port => Sys2Proof.Machine.execFlitCrcReplay port s
  | .portDown port => Sys2Proof.Machine.execPortDown port s
  | .jobTagTimeout out => Sys2Proof.Machine.execJobTagTimeout out s
  | .powerGrant die duties => Sys2Proof.Machine.execPowerGrant die duties s
  | .thermalCap die => Sys2Proof.Machine.execThermalCap die s
  | .thermalHalt die => Sys2Proof.Machine.execThermalHalt die s
  | .deviceReset answers => Sys2Proof.Machine.execDeviceReset answers s
  | .linkTraining width speed => Sys2Proof.Machine.execLinkTraining width speed s
  | .hwqDoorbell fn q tail => Sys2Proof.Machine.execHwqDoorbell fn q tail s
  | .tlbInvalidate va => Sys2Proof.Machine.execTlbInvalidate va s
  | .poolTailWrite pool tail => Sys2Proof.Machine.execPoolTailWrite pool tail s
  | .jobTagWrite job value => Sys2Proof.Machine.execJobTagWrite job value s
  | .routeEntryWrite d value => Sys2Proof.Machine.execRouteEntryWrite d value s
  | .jobctlResume job => Sys2Proof.Machine.execJobctlResume job s
  | .jobctlAbort job => Sys2Proof.Machine.execJobctlAbort job s
  | .hostFutureNew => Sys2Proof.Machine.execHostFutureNew s
  | .hostFutureSet => Sys2Proof.Machine.execHostFutureSet s
  | .hostFutureFree => Sys2Proof.Machine.execHostFutureFree s
  | .hostFuturePeek => Sys2Proof.Machine.execHostFuturePeek s
  | .hostWindowRead off n => Sys2Proof.Machine.execHostWindowRead off n s
  | .hostWindowWrite off data => Sys2Proof.Machine.execHostWindowWrite off data s
  | .getkey => Sys2Proof.Machine.execGetkey s
  | .attest nonce => Sys2Proof.Machine.execAttest nonce s
  | .fwload addr n => Sys2Proof.Machine.execFwload addr n s
  | .setbudget watts => Sys2Proof.Machine.execSetbudget watts s
  | .registerWrite fn off value => Sys2Proof.Machine.execRegisterWrite fn off value s
  | .notAnInstruction => Sys2Proof.Machine.execNotAnInstruction s
  | .portUp port => Sys2Proof.Machine.execPortUp port s
  | .uncorrectableSoftError e => Sys2Proof.Machine.execUncorrectableSoftError e s

end Sys2Proof.Machine
end

