-- ==== Sys2Proof/Machine/Issue.lean ====
section
/-! DEFINITION. One clk of one core: the slot table's grant (R288, R289), the duty window (R291), the watchdogs (R153), which
contexts are eligible (R27, R29, R30), and the fetch and decoding of the next instruction (R54, R55, R71). Then the end of a clk: what
every unit has to have done in it. -/

namespace Sys2Proof.Machine

/-! ## Fetch -/

/-- Where the code of a context ends: CSIZE of its job, and never above 0x2_0000 (R54, R316). -/
def codeEnd (s : State) (c : Ctx) : Nat :=
  match s.job? c.job with
  | some j => min j.csize 0x20000
  | none => 0x20000

/-- The bytes a fetch at an address may take: one or two parcels that lie in the code. -/
def fetchBytes (s : State) (c : Ctx) (pc : Nat) : List Byte :=
  let n := min 4 (codeEnd s c - pc)
  s.codeMem.read (codeAddr c.job (c.vcore / 8) pc) n

/-- The instruction at an address and its length. -/
def fetch (s : State) (c : Ctx) (pc : Nat) : Option (Instr × Nat) :=
  match decode (fetchBytes s c pc) with
  | .ok r => some r
  | .error _ => none

/-- The address of the parcel with an uncorrectable error that a fetch would read (R331): the second parcel is read only
by a 32-bit instruction, and none where the code ends (R54, R316). -/
def badParcel (s : State) (c : Ctx) (pc : Nat) : Option Nat :=
  let base := codeAddr c.job (c.vcore / 8) 0
  let bad (p : Nat) : Bool := decide (p < codeEnd s c) && (s.eccCode.contains (base + p) || s.eccCode.contains (base + p + 1))
  if bad pc then some pc
  else if (s.codeMem.get (base + pc)).toNat % 2 = 1 ∧ bad (pc + 2) then some (pc + 2) else none

/-! ## Eligibility -/

/-- Makes a context the one at hand: its results that have become readable are written, and it is parked no more. -/
def present (s : State) (key : Nat) : State := (({ s with cur := key }).settleAt key).updCtx key (fun c => { c with parked := false })

/-- The context at hand issues what stands at its PC. -/
def issueNext (s : State) : Host.Outcome State Fault Refusal :=
  let c := s.me
  match badParcel s c c.pc with
  | some p => .next { (s.trapNow s.cur ⟨.eccloc, 0, 0, BitVec.ofNat 64 (2 ^ 63 + p)⟩ (segNow c)) with free := s.free + 1 }
  | none =>
    match fetch s c c.pc with
    | some (i, _) => exec i s
    | none => exec .notAnInstruction s

/-- A state after an instruction that had to wait for its unit (R116, R118, R182, R248): it makes no choice. -/
def waited (s t : State) : Bool := t.free == s.free

/-- What stands at the PC of the context at hand, with at most `n` instructions and prefixes, does not have to wait: it issues, or faults. A
prefix issues with its instruction or not at all (R27, R71). -/
def chainIssues : Nat → State → Bool
  | 0, _ => true
  | n + 1, s =>
    match issueNext s with
    | .next t => !waited s t && (t.limmOpen.isNone || chainIssues n t)
    | _ => true

/-- What stands at a context's PC does not have to wait. -/
def wouldIssue (s : State) (key : Nat) : Bool := chainIssues 3 (present s key)

/-- A context is eligible to issue (R27, R29, R30); one whose watchdog has passed its budget issues nothing more
(R153). -/
def eligible (s : State) (key : Nat) (c : Ctx) : Bool :=
  decide (c.ready ≤ s.clk) && !c.dying && !c.ending && !(c.parked && c.busy) && decide (c.outs.length < 16)
    && !(c.budget != 0 && decide (c.budget < c.watchdog)) && wouldIssue s key

/-- The eligible contexts of a job on a core. -/
def eligibleOf (s : State) (core job : Nat) : List Nat :=
  (List.range 10).filterMap (fun hc =>
    let key := core * 10 + hc
    match s.ctxs.get? key with
    | some c => if c.job = job ∧ eligible s key c then some hc else none
    | none => none)

/-- The context that issues among those eligible: hc9 first, then hc8, then hc0 to hc7 round-robin from the last one
issued (R289). -/
def pickContext (last : Nat) (l : List Nat) : Option Nat :=
  if l.contains 9 then some 9
  else if l.contains 8 then some 8
  else ((List.range 8).map (fun i => (last + 1 + i) % 8)).find? l.contains

/-- What the slot table gives in a clk: the job granted, the job that issues, and the new place of the entries of 8
(R289). -/
def grantOf (s : State) (core : Nat) (c : Core) : Option Nat × Option Nat × Nat :=
  let has (job : Nat) : Bool := !(eligibleOf s core job).isEmpty
  let entry := c.slottab.getD (s.clk % 32) 8
  if entry < 4 then
    match c.residents.find? (fun r => r.idx == entry) with
    | some r =>
      if has r.job then (some r.job, some r.job, c.anyLast)
      else (some r.job, ((residentsAfter c.residents entry).find? (fun q => has q.job)).map (·.job), c.anyLast)
    | none => (none, ((residentsAfter c.residents entry).find? (fun q => has q.job)).map (·.job), c.anyLast)
  else
    match (residentsAfter c.residents c.anyLast).find? (fun q => has q.job) with
    | some r => (some r.job, some r.job, r.idx)
    | none => (none, none, c.anyLast)

/-- The watchdogs of the granted job's contexts on a core advance (R153). -/
def bumpWatchdogs (core : Nat) (job : Option Nat) (m : Map Ctx) : Map Ctx :=
  match job with
  | none => m
  | some j => m.map (fun e =>
      if e.1 / 10 = core ∧ e.2.job = j ∧ !e.2.dying then (e.1, { e.2 with watchdog := e.2.watchdog + 1 }) else e)

/-! ## The turn -/

/-- A core may issue in this clk of its duty window (R291); a halted device and one in reset issue nothing (R353). -/
def mayIssue (s : State) (tile : Nat) : Bool :=
  s.halted.isNone && !s.inReset && decide (s.clk % 16 < min (s.tile tile).duty (s.dutyCap.getD (tileDie tile) 16))

/-- The prefixes of a context are fetched again, with the instruction they extend. -/
def State.unprefix (s : State) (key : Nat) : State :=
  { (s.updCtx key (fun c => { c with pc := c.limmPc, limm := [] })) with limmOpen := none }

/-- The instruction that an issued prefix extends issues in the same clk (R71). Where what happened since then makes it wait, the prefix
waits with it. -/
def issuePrefixed (s : State) (key : Nat) : Host.Outcome State Fault Refusal :=
  match issueNext { s with cur := key } with
  | .next t => .next (if waited s t then s.unprefix key else t)
  | o => o

/-- The tile's array queue may be too full for a job of every core, and a lower core that runs tasks has not had its turn in this clk: its
jobs enter first (R209). -/
def queueTurns (s : State) (tile core : Nat) : Bool :=
  decide (8 < (s.tile tile).arrayQ.length)
    && s.ctxs.any (fun e => decide (8 * tile ≤ coreOf e.1 ∧ coreOf e.1 < 8 * tile + core) && (s.core (coreOf e.1)).lastClk != some s.clk)

/-- A core's turn waits for what comes before it in the clk: what has reached its tile's trigger unit (R220), the results that are due of
its own operations (R32, R108, R116, R118), and the jobs of lower cores (R209). -/
def turnWaits (s : State) (tile core : Nat) : Bool :=
  (s.tile tile).rises.any (riseDue s) || s.ops.any (fun o => coreOf o.ctx == 8 * tile + core && o.overdue s.clk) || queueTurns s tile core

/-- One clk of a core: a prefix and its instruction issue in the same clk (R71); else the slot table grants, the watchdogs
advance, and one eligible context issues. -/
def coreTurn (tile core : Nat) (s : State) : Host.Outcome State Fault Refusal :=
  let n := 8 * tile + core
  match s.limmOpen with
  | some key => if coreOf key = n then issuePrefixed s key else .next s
  | none =>
    let c := s.core n
    if c.lastClk = some s.clk ∨ 8 ≤ core ∨ turnWaits s tile core then .next s
    else if !mayIssue s tile then .next (s.updCore n (fun x => { x with lastClk := some s.clk }))
    else
      let g := grantOf s n c
      let s1 := { (s.updCore n (fun x => { x with lastClk := some s.clk, anyLast := g.2.2 })) with
        ctxs := bumpWatchdogs n g.1 s.ctxs }
      match g.2.1 with
      | none => .next s1
      | some job =>
        match pickContext c.hcLast (eligibleOf s1 n job) with
        | none => .next s1
        | some hc => issueNext (present (s1.updCore n (fun x => { x with hcLast := if hc < 8 then hc else x.hcLast })) (10 * n + hc))

/-! ## The other turns -/

/-- An event is a row of the table that has no encoding; a parcel pattern that is no instruction is reached by a fetch
only. -/
def isEvent (i : Instr) : Bool := i.word.isNone && i != .notAnInstruction

/-- A trigger unit has done its work of a clk: it has applied what has reached it, and fired where an entry may (R220). -/
def triggersDone (s : State) (tile : Nat) (t : Tile) : Bool :=
  !t.rises.any (riseDue s) && (t.fired == some s.clk || (nextFire s tile).isNone)

/-- A core's part of a clk is done: it has had its turn, and no task of it is past its budget (R12, R153). -/
def coresDone (s : State) : Bool :=
  s.ctxs.all (fun e => (s.core (e.1 / 10)).lastClk == some s.clk
    && !(e.2.budget != 0 && decide (e.2.budget < e.2.watchdog) && !e.2.dying))

/-- The tiles some of whose banks may have a request. -/
def bankTiles (s : State) : List Nat :=
  (s.tiles.map (·.1) ++ s.ops.map (fun o => tileOf (coreOf o.ctx)) ++ s.stores.map (fun t => tileOf t.core)).dedup

/-- The units of a tile have done their work of a clk: its trigger unit, its array (R169, R170) and its exchange unit (R215). -/
def tileDone (s : State) (tile : Nat) (t : Tile) : Bool := triggersDone s tile t && !arrayDue s t && !xchgDue s t

/-- The homes have sent the copies that are due in a clk (R351). -/
def copiesDone (s : State) : Bool := s.clk % 1024 != 0 || s.jobs.all (fun e => e.2.copyClk == s.clk)

/-- A clk may end once every core that runs tasks has had its turn in it, no prefix waits for its instruction, every result that is due has
been written, every bank has granted what stands at it (R156), and the units that keep time have done their work (R12, R71). -/
def clkDone (s : State) : Bool :=
  s.limmOpen.isNone && coresDone s && s.ops.all (fun o => !o.overdue s.clk) && (bankTiles s).all (banksDone s)
    && s.tiles.all (fun e => tileDone s e.1 e.2) && copiesDone s

/-- An access that has been translated, of a job some of whose entries are being dropped, is still to be performed (R298). -/
def oldTranslations (s : State) : Bool :=
  let jobs := s.tlbJob :: (s.stationTlb ++ s.dieTlb).flatMap (fun e => (e.2.filter (fun x => x.dying)).map (·.job))
  s.packets.any (fun p => match p.body with
    | .access a => a.pa != noPa && jobs.contains a.job
    | _ => false)

/-- The end of an invalidation, some time after the last access translated through the entries it drops (R298). -/
def State.endInvalidation (s : State) : State :=
  if !s.tlbBusy then s
  else if oldTranslations s ∨ Config.pick s.free 73 % 2 = 1 then { s with free := s.free + 1 }
  else
    let out (m : Map (List TlbEntry)) : Map (List TlbEntry) := m.map (fun e => (e.1, e.2.filter (fun x => !x.dying)))
    { s with stationTlb := out s.stationTlb, dieTlb := out s.dieTlb, tlbBusy := false, free := s.free + 1 }

/-- A clk passes: the homes have their turn in it (R260), and WINBASE is the window's base from the next one on (R371). -/
def tick (s : State) : State :=
  if clkDone s then
    let t := s.endInvalidation.homesTurn
    { t with clk := t.clk + 1, winbaseOld := t.winbase }
  else s

/-- A turn. -/
def takeTurn (t : Turn) (s : State) : Host.Outcome State Fault Refusal :=
  match t with
  | .core tile core => coreTurn tile core s
  | .event i => if isEvent i then exec i s else .next s
  | .tick => .next (tick s)

/-- The turn that comes next, and the state once it is taken from the turns that are settled (log 1). -/
def nextTurn (s : State) : Turn × State :=
  match s.turns with
  | t :: rest => (t, { s with turns := rest })
  | [] => (Config.nextTurn s.turnNo, { s with turnNo := s.turnNo + 1 })

/-! ## A state in which a given instruction is the next -/

/-- A job with code and one virtual tile on tile 0, for `withFetchWord`. -/
def sampleJob : Job where
  words := List.replicate 40 0
  addr := 0
  source := 0
  parent := 0
  privileged := true
  phase := .running
  vtiles := 1
  place := [0]
  csize := 64
  rtab := List.replicate 256 (0, 0)
  acts := List.replicate 32 0
  ovr := []
  pqBase := 0
  pqN := 0
  pqCount := 0
  die := 0
  homew := 0
  wtotal := 6
  armed := false
  loss := false
  uncertain := false
  census := none
  drawq := []
  ownDraws := []
  qvcore := 0
  qclass := 0
  lostw := 0
  killw := 0
  woff := 0
  ring := []
  ringTail := 0
  ringNotice := false
  ringOffer := none
  jtag := 0
  tvalid := false
  parked := false
  discarding := []
  retries := []
  retryDue := []
  saveReq := none
  spillBase := 0
  spill := []
  roots := []
  killed := false
  copyNow := (0, 0)
  copyOld := (0, 0)
  copyClk := 0
  ndefs := []
  actOld := []
  homeAt := none

/-- A task of it in hc0 of core 0 of tile 0, at code address 0. -/
def sampleCtx (n : Nat) : Ctx :=
  { Ctx.idle with task := n, wt := 64, v := List.replicate 32 0, privileged := true }

/-- The bytes of a word of the table as the code store holds them (parcels little-endian, the first at the lowest address), and core
0 of tile 0 ready to issue for the one task that stands there. -/
def placeWord (s : State) (nbits w : Nat) : State :=
  { s with
    turns := [.core 0 0]
    limmOpen := none
    ops := s.ops.filter (fun o => coreOf o.ctx != 0)
    halted := none
    inReset := false
    serial := s.serial + 1
    codeMem := s.codeMem.write 0 (bytesOfNat w (nbits / 8) ++ List.replicate (4 - nbits / 8) 0)
    eccCode := s.eccCode.filter (fun a => decide (4 ≤ a))
    ctxs := Map.set (s.ctxs.filter (fun e => decide (10 ≤ e.1))) 0 (sampleCtx s.serial)
    jobs := s.jobs.set 0 sampleJob
    cores := s.cores.set 0 { Core.fresh with residents := [⟨0, 0⟩] }
    tiles := s.tiles.set 0 { s.tile 0 with duty := 16, rises := [] }
    dutyCap := List.replicate 8 16 }

end Sys2Proof.Machine
end

