-- ==== Sys2Proof/Machine/Step.lean ====
section
/-! DEFINITION. The step of the machine, and the placing of an instruction where the step fetches its next. -/

namespace Sys2Proof.Machine

/-- One step: the turn that comes next is taken (log 1). -/
def step (s : State) : Host.Outcome State Fault Refusal :=
  let t := nextTurn s
  takeTurn t.1 t.2

/-- The state with an instruction stored where the next step fetches one, its bits numbered as the opcode table numbers
them: a task of job 0 stands at code address 0 in hc0 of core 0 of tile 0, and the next turn is that core's. -/
def State.withFetchWord (s : State) (nbits w : Nat) : State := placeWord s nbits w

end Sys2Proof.Machine
end

