-- ==== Sys2Proof/Safety.lean ====
section
/-! DEFINITION. What counts as a sound state and a safe step, in the terms the statements use. -/

namespace Sys2Proof.Safety

open Sys2Proof.Machine

/-- Every memory is in its canonical form: addresses rise, and no listed byte is what an unlisted one reads as. -/
def MemoryOk (s : State) : Prop :=
  s.localMem.wf = true ∧ s.scratch.wf = true ∧ s.codeMem.wf = true ∧ s.hbm.wf = true ∧ s.hostMem.wf = true
    ∧ s.nvme.data.wf = true

/-- A step that answers a next state. -/
def Runs (o : Host.Outcome State Fault Refusal) : Prop := ∃ t, o = .next t

/-! ## What an instruction of the issuing context meets before its own checks -/

/-- The innermost loop does not end inside an instruction of `len` bytes (R104). -/
def Fits (s : State) (len : Nat) : Prop := ∀ t, s.me.loops.head? = some t → ¬(len = 4 ∧ s.me.pc + 2 = t.stop)

/-- No prefix stands before the instruction (R71), and it fits (R104). -/
def Plain (s : State) (len : Nat) : Prop := s.me.limm = [] ∧ Fits s len

/-- What a name reads has no uncorrectable error (R331). -/
def Clean (s : State) (n : Name) : Prop := s.me.ecc.contains (eccOfName s.me n) = false

/-- A name that may stand as a source (R18), whose value is sound (R331). -/
def Sound (s : State) (n : Name) : Prop := readable n = true ∧ Clean s n

/-- A mask of the issuing context is sound (R331). -/
def CleanMask (s : State) (n : Nat) : Prop := s.me.ecc.contains (64 + n) = false

/-- The state once an instruction with the effect `t` has retired (R27, R30, R104, R105); with a marker its context is released where
nothing of it is outstanding. -/
def after (s t : State) (len gap : Nat) (mark : Bool) (fl : Flow) : State :=
  if mark then (t.retire len gap mark fl).release s.cur else t.retire len gap mark fl

/-- The instruction completes: its own effect is `t`, and control goes on by `fl`. -/
def Completes (i : Instr) (m : Mark) (s t : State) (fl : Flow) : Prop := exec i s = .next (after s t 4 m.g.val m.s fl)

/-- The instruction traps at issue with a cause and its argument (R332, R333, R334); its context takes no other effect (R74, R88). A start-time
fault of the segment that was noted before it is reported in its place (R119, R355). -/
def Traps (i : Instr) (s : State) (c : Cause) (arg : Word) : Prop :=
  exec i s = .next { (s.trapNow s.cur ⟨c, 0, 0, arg⟩ (segNow s.me)) with free := s.free + 1 }

/-- A command block of n words in s-registers from r on, read at issue, all of them sound (R18, R179, R331). -/
def BlockIs (s : State) (a : Name) (n : Nat) (words : List Word) : Prop :=
  ∃ r : Fin 32, a = .s r ∧ r.val + n ≤ 32 ∧ words = blockWords s 40 r.val n
    ∧ ∀ i, i < n → s.me.ecc.contains (r.val + i) = false

/-- The weight operand gives v units, which the issuing task holds (R176). -/
def Gives (s : State) (b : Name) (v : Nat) : Prop :=
  Sound s b ∧ (value s 60 b).toNat = v ∧ 1 ≤ v ∧ v ≤ s.me.wt

/-- The core's NI has a free place and the task's counts have room at a scope (R182, R248). -/
def Room (s : State) (sc : Scope) : Prop := s.niFull s.myCore = false ∧ s.countFull s.me.task sc = false

/-- A new request stands last among the requests of t, of a kind, with v units, in the name of the issuing task of s, completing by
`cm`; every other request stands as it did (R175 to R178). -/
def NewRequest (s t : State) (kind : ReqKind) (v : Nat) (cm : Cmsg) : Prop :=
  ∃ r : Req, t.reqs.getLast? = some r ∧ t.reqs.length = s.reqs.length + 1 ∧ (∀ q ∈ s.reqs, q.id ≠ r.id → q ∈ t.reqs)
    ∧ r.kind = kind ∧ r.v = v ∧ r.cm = cm ∧ r.job = s.me.job ∧ r.task = s.me.task ∧ r.core = s.myCore ∧ r.vcore = s.me.vcore ∧ r.code = 0

/-- A packet of the issuing task to a unit waits last in its NI, where it takes a place of its core (R182). -/
def Leaves (s t : State) (cls : Machine.Class) (dst : Endpoint) (body : Body → Prop) : Prop :=
  ∃ p : Packet, t.packets.getLast? = some p ∧ p.cls = cls ∧ p.pos = .source ∧ p.src = .ni s.myTile ∧ p.dst = dst ∧ p.queue = s.myCore + 1
    ∧ p.job = s.me.job ∧ body p.body

/-- From s to t the issuing task has given v units to a new request, which leaves for a unit in a class; its registers stand as they
did. -/
def Requested (s t : State) (kind : ReqKind) (v : Nat) (cm : Cmsg) (cls : Machine.Class) (dst : Endpoint) : Prop :=
  t.me = { s.me with wt := s.me.wt - v } ∧ NewRequest s t kind v cm ∧ Leaves s t cls dst (fun _ => True)

/-- The hold of the issuing task (R177, R261); one never opened counts nothing. -/
def holdOf (s : State) : TaskRec := (s.taskRec s.me.task).getD ⟨s.me.job, s.myCore, s.me.vcore, 0, false⟩

/-- The task can join its hold: it stands open, or a unit can open it (R177). -/
def Holds (s : State) : Prop := (holdOf s).holds ≠ 0 ∨ 1 ≤ s.me.wt

/-- From s to t the issuing task has joined its hold once more; the first to join moves one unit into it (R177, R261). -/
def HoldJoined (s t : State) : Prop :=
  t.me = { s.me with wt := if (holdOf s).holds = 0 then s.me.wt - 1 else s.me.wt }
    ∧ t.tasks.get? s.me.task = some { holdOf s with
        holds := (holdOf s).holds + 1, heldUnit := (holdOf s).heldUnit || decide ((holdOf s).holds = 0) }

end Sys2Proof.Safety
end

