-- ==== Sys2Proof/Certificates/Slice0/Obligations.lean ====
section
/-! DEFINITION. The statements for the provers. -/

open Sys2Proof Sys2Proof.Machine Sys2Proof.Safety

/-! ## Tables of the scalar instructions, written from the tables of the spec -/

namespace Sys2Proof.Stated

/-- A condition as 1 or 0. -/
def bit (p : Prop) [Decidable p] : Word := if p then 1 else 0

/-- The amount b[5:0] of a shift (R89). -/
def by6 (y : Word) : Nat := y.toNat % 64

/-- A number as 64 bits, rotated right. -/
def rotated (x : Word) (n : Nat) : Word := BitVec.ofNat 64 (x.toNat / 2 ^ n + x.toNat * 2 ^ (64 - n))

/-- Instructions of two sources that write one result and set no flag: the instruction, its latency, its result (R89, R91). -/
def twoSource : List ((Name → Name → Name → Mark → Instr) × Nat × (Word → Word → Word)) :=
  [(.aluAdd, 1, fun a b => BitVec.ofInt 64 (a.toInt + b.toInt)),
   (.aluSub, 1, fun a b => BitVec.ofInt 64 (a.toInt - b.toInt)),
   (.aluAnd, 1, fun a b => a &&& b),
   (.aluOr, 1, fun a b => a ||| b),
   (.aluXor, 1, fun a b => a ^^^ b),
   (.aluAndn, 1, fun a b => a &&& ~~~b),
   (.aluShl, 1, fun a b => BitVec.ofNat 64 (a.toNat * 2 ^ by6 b)),
   (.aluShr, 1, fun a b => BitVec.ofNat 64 (a.toNat / 2 ^ by6 b)),
   (.aluSra, 1, fun a b => BitVec.ofInt 64 (a.toInt / 2 ^ by6 b)),
   (.aluRot, 1, fun a b => rotated a (by6 b)),
   (.aluMin, 1, fun a b => BitVec.ofInt 64 (min a.toInt b.toInt)),
   (.aluMax, 1, fun a b => BitVec.ofInt 64 (max a.toInt b.toInt)),
   (.aluMinu, 1, fun a b => BitVec.ofNat 64 (min a.toNat b.toNat)),
   (.aluMaxu, 1, fun a b => BitVec.ofNat 64 (max a.toNat b.toNat)),
   (.aluSlt, 1, fun a b => bit (a.toInt < b.toInt)),
   (.aluSltu, 1, fun a b => bit (a.toNat < b.toNat)),
   (.alu2Seq, 1, fun a b => bit (a = b)),
   (.alu2Sne, 1, fun a b => bit (a ≠ b)),
   (.alu2Mul, 3, fun a b => BitVec.ofInt 64 (a.toInt * b.toInt)),
   (.alu2Mulh, 3, fun a b => BitVec.ofInt 64 (a.toInt * b.toInt / 2 ^ 64)),
   (.alu2Mulhu, 3, fun a b => BitVec.ofNat 64 (a.toNat * b.toNat / 2 ^ 64)),
   (.alu3Bext, 1, fun a b => BitVec.ofNat 64 (a.toNat / 2 ^ by6 b % 2 ^ (b.toNat / 64 % 64 + 1))),
   (.alu3Absdiff, 1, fun a b => BitVec.ofNat 64 (a.toInt - b.toInt).natAbs)]

/-- Instructions of one source: the instruction and its result (R89). -/
def oneSource : List ((Name → Name → Mark → Instr) × (Word → Word)) :=
  [(.alu2SextB, fun a => BitVec.ofInt 64 (sextNat a.toNat 8)),
   (.alu2SextH, fun a => BitVec.ofInt 64 (sextNat a.toNat 16)),
   (.alu2SextW, fun a => BitVec.ofInt 64 (sextNat a.toNat 32)),
   (.alu2ZextB, fun a => BitVec.ofNat 64 (a.toNat % 2 ^ 8)),
   (.alu2ZextH, fun a => BitVec.ofNat 64 (a.toNat % 2 ^ 16)),
   (.alu2ZextW, fun a => BitVec.ofNat 64 (a.toNat % 2 ^ 32))]

/-- A number of bits counted by its own definition: what a count of bits must be (R89). -/
def IsCount (a : Word) (lead trail ones : Nat) : Prop :=
  (lead ≤ 64 ∧ (∀ i, i < lead → a.toNat.testBit (63 - i) = false) ∧ (lead < 64 → a.toNat.testBit (63 - lead) = true))
    ∧ (trail ≤ 64 ∧ (∀ i, i < trail → a.toNat.testBit i = false) ∧ (trail < 64 → a.toNat.testBit trail = true))
    ∧ ones = ((List.range 64).filter a.toNat.testBit).length

/-- The shifts by an immediate: the instruction and its result (R93). -/
def shiftImm : List ((Name → Name → BitVec 6 → Mark → Instr) × (Word → Nat → Word)) :=
  [(.shiShl, fun a n => BitVec.ofNat 64 (a.toNat * 2 ^ n)),
   (.shiShr, fun a n => BitVec.ofNat 64 (a.toNat / 2 ^ n)),
   (.shiSra, fun a n => BitVec.ofInt 64 (a.toInt / 2 ^ n)),
   (.shiRot, rotated)]

/-- The instructions of format I: the instruction and its result (R92). -/
def immediateForms : List ((Name → Name → BitVec 10 → Mark → Instr) × (Word → Int → Word)) :=
  [(.addi, fun a i => BitVec.ofInt 64 (a.toInt + i)),
   (.andi, fun a i => a &&& BitVec.ofInt 64 i),
   (.ori, fun a i => a ||| BitVec.ofInt 64 i),
   (.xori, fun a i => a ^^^ BitVec.ofInt 64 i),
   (.slti, fun a i => bit (a.toInt < i)),
   (.sltiu, fun a i => bit (a.toNat < (BitVec.ofInt 64 i).toNat))]

/-- The immediate behind the prefixes of the issuing instruction: their payloads above the field's bits, the first one highest, sign
extended (R69, R70). -/
def immediateOf (s : State) (f w : Nat) : Int :=
  match s.me.limm with
  | [] => sextNat f w
  | [p] => sextNat (p * 2 ^ w + f) (22 + w)
  | p :: q :: _ => sextNat ((p * 2 ^ 22 + q) * 2 ^ w + f) (44 + w)

/-- The instructions that also read their destination (R89, R91): the result and the flags, from D, A and B. -/
def threeSource : List ((Name → Name → Name → Mark → Instr) × (Word → Word → Word → Word)) :=
  [(.alu3Sel, fun d a b => if d = 0 then b else a),
   (.alu3Bins, fun d a b =>
      let mask : Word := BitVec.ofNat 64 ((2 ^ (b.toNat / 64 % 64 + 1) - 1) * 2 ^ by6 b)
      (d &&& ~~~mask) ||| (BitVec.ofNat 64 (a.toNat * 2 ^ by6 b) &&& mask))]

/-- A sum or difference cut to 64 signed bits, with OV when clamped (R89). -/
def clamped (x : Int) : Word × Nat :=
  if x < -(2 ^ 63) then (BitVec.ofInt 64 (-(2 ^ 63)), 128)
  else if 2 ^ 63 - 1 < x then (BitVec.ofInt 64 (2 ^ 63 - 1), 128)
  else (BitVec.ofInt 64 x, 0)

/-- The saturating instructions (R89). -/
def saturating : List ((Name → Name → Name → Mark → Instr) × (Word → Word → Word × Nat)) :=
  [(.alu3Addsat, fun a b => clamped (a.toInt + b.toInt)),
   (.alu3Subsat, fun a b => clamped (a.toInt - b.toInt))]

/-- The quotient, the remainder and the flag of a division of exact integers (R90): DZ is bit 3 and OV bit 7 of FFLAGS (R26). -/
def divided (signed : Bool) (a b : Word) : Word × Word × Nat :=
  let x : Int := if signed then a.toInt else a.toNat
  let y : Int := if signed then b.toInt else b.toNat
  if b = 0 then (BitVec.ofNat 64 (2 ^ 64 - 1), a, 8)
  else if signed = true ∧ x = -(2 ^ 63) ∧ y = -1 then (BitVec.ofInt 64 (-(2 ^ 63)), 0, 128)
  else (BitVec.ofInt 64 (x.tdiv y), BitVec.ofInt 64 (x - x.tdiv y * y), 0)

/-- The divisions: the instruction, and its result and flags (R90). -/
def divisions : List ((Name → Name → Name → Mark → Instr) × (Word → Word → Word × Nat)) :=
  [(.alu2Div, fun a b => ((divided true a b).1, (divided true a b).2.2)),
   (.alu2Divu, fun a b => ((divided false a b).1, (divided false a b).2.2)),
   (.alu3Rem, fun a b => ((divided true a b).2.1, (divided true a b).2.2)),
   (.alu3Remu, fun a b => ((divided false a b).2.1, (divided false a b).2.2))]

/-- The operations on two FP32 values: the result and flags in a rounding direction (R37, R38, R95). -/
def fpTwoSource : List ((Name → Name → Name → Mark → Instr) × (Nat → Val → Val → Word × Nat)) :=
  [(.fpFadd, fun rm a b => fpRes rm (a.add rm b)),
   (.fpFsub, fun rm a b => fpRes rm (a.add rm b.neg)),
   (.fpFmul, fun rm a b => fpRes rm (a.mul b)),
   (.fpFmin, fun rm a b => fpRes rm (Val.minmax false a b)),
   (.fpFmax, fun rm a b => fpRes rm (Val.minmax true a b)),
   (.fpFeq, fun _ a b => (bit (a.eq b = true), sigFlag [a, b])),
   (.fpFlt, fun _ a b => (bit (a.lt b = true), sigFlag [a, b])),
   (.fpFle, fun _ a b => (bit (a.le b = true), sigFlag [a, b]))]

/-- The operations on one FP32 value, with the register's own word (R38, R95 to R97). -/
def fpOneSource : List ((Name → Name → Mark → Instr) × (Nat → Word → Val → Word × Nat)) :=
  [(.fpFabs, fun _ _ a => fpRes 0 (a.abs, sigFlag [a])),
   (.fpFneg, fun _ _ a => fpRes 0 (a.neg, sigFlag [a])),
   (.fpFcvtI2f, fun rm w _ => fpRes rm (.ofInt w.toInt, 0)),
   (.fpFcvtU2f, fun rm w _ => fpRes rm (.ofInt w.toNat, 0)),
   (.fpFcvtF2i, fun rm _ a => toIntFlagged rm (-(2 ^ 63)) (2 ^ 63 - 1) a),
   (.fpFcvtF2u, fun rm _ a => toIntFlagged rm 0 (2 ^ 64 - 1) a),
   (.fpFsqrt, fun rm _ a => fpRes rm a.sqrt),
   (.fpFclass, fun _ w _ => (BitVec.ofNat 64 (fclass (w.toNat % 2 ^ 32)), 0))]

/-- The branches and their conditions (R99). -/
def branches : List ((Name → Name → BitVec 10 → Mark → Instr) × (Word → Word → Bool)) :=
  [(.beq, fun a b => decide (a = b)),
   (.bne, fun a b => decide (a ≠ b)),
   (.blt, fun a b => decide (a.toInt < b.toInt)),
   (.bge, fun a b => decide (a.toInt ≥ b.toInt)),
   (.bltu, fun a b => decide (a.toNat < b.toNat)),
   (.bgeu, fun a b => decide (a.toNat ≥ b.toNat))]

/-- The last packet of t leaves its source with a content. -/
def Posts (t : State) (src dst : Endpoint) (b : Body) : Prop :=
  ∃ p : Packet, t.packets.getLast? = some p ∧ p.pos = .source ∧ p.src = src ∧ p.dst = dst ∧ p.body = b

/-- The issuing task has ended with nothing outstanding (R31): its context is free, and its weight goes home as a pod, where its job's home
takes no census. -/
def Ended (s t : State) : Prop :=
  t.ctxs.get? s.cur = none
    ∧ ∀ j : Job, s.myJob = some j → j.census = none → s.me.wt ≠ 0 →
      Posts t (.ni s.myTile) (.unit j.die) (.pod s.me.job s.me.wt false false)

end Sys2Proof.Stated

/-! ## Scalar instructions (chapter 6) -/

/-- R89, R91: an instruction of two sources writes its result through D with its latency, whatever the names; D may be z or h. -/
def Obligations.TwoSourceResults : Prop :=
  ∀ e ∈ Stated.twoSource, ∀ (s : State) (m : Mark) (d a b : Name), Plain s 4 → Sound s a → Sound s b → writable d = true →
    Completes (e.1 d a b m) m s (wr s d (e.2.2 (value s 0 a) (value s 1 b)) e.2.1) .next

/-- R89, R93: an instruction of one source, a count of bits and a shift by an immediate write their result with latency 1. -/
def Obligations.OneSourceResults : Prop :=
  ∀ (s : State) (m : Mark) (d a : Name), Plain s 4 → Sound s a → writable d = true →
    (∀ e ∈ Stated.oneSource, Completes (e.1 d a m) m s (wr s d (e.2 (value s 0 a)) 1) .next)
    ∧ (∃ lead trail ones, Stated.IsCount (value s 0 a) lead trail ones
        ∧ Completes (.alu2Clz d a m) m s (wr s d (BitVec.ofNat 64 lead) 1) .next
        ∧ Completes (.alu2Ctz d a m) m s (wr s d (BitVec.ofNat 64 trail) 1) .next
        ∧ Completes (.alu2Popc d a m) m s (wr s d (BitVec.ofNat 64 ones) 1) .next)
    ∧ (∀ e ∈ Stated.shiftImm, ∀ n : BitVec 6, Completes (e.1 d a n m) m s (wr s d (e.2 (value s 0 a) n.toNat) 1) .next)

/-- R89, R91, R98: an instruction that also reads D, and the saturating ones with their flag OV. -/
def Obligations.DestinationReadResults : Prop :=
  ∀ (s : State) (m : Mark) (d a b : Name), Plain s 4 → Sound s a → Sound s b →
    (updatable d = true → Clean s d →
      (∀ e ∈ Stated.threeSource, Completes (e.1 d a b m) m s (wr s d (e.2 (value s 2 d) (value s 0 a) (value s 1 b)) 1) .next)
      ∧ (let r := fpRes (s.me.fflags.toNat % 4) (Val.fma (s.me.fflags.toNat % 4) (fpSrc (value s 0 a)) (fpSrc (value s 1 b))
            (fpSrc (value s 2 d)))
         Completes (.ffma d a b m) m s (setFlags (wr s d r.1 4) r.2) .next))
    ∧ (writable d = true → ∀ e ∈ Stated.saturating,
        let r := e.2 (value s 0 a) (value s 1 b)
        Completes (e.1 d a b m) m s (setFlags (wr s d r.1 1) r.2) .next)

/-- R24, R26, R29, R89, R90: a division issues as an outstanding operation that holds its result and its flags, and its end, in a later
clk, writes them both: the result into its s-register and history entry, the flags, sticky, into FFLAGS; it is outstanding no more.
That its end may come in any clk after its issue is the model's choice (log 5). -/
def Obligations.DivisionResults : Prop :=
  (∀ e ∈ Stated.divisions, ∀ (s : State) (m : Mark) (d a b : Name), Plain s 4 → Sound s a → Sound s b → writable d = true →
    let r := e.2 (value s 0 a) (value s 1 b)
    Completes (e.1 d a b m) m s (startOp s (.divide r.1 r.2) 0 0 (targetOf s.me d).toList [] 0) .next)
  ∧ (∀ (s : State) (o : Op) (v : Word) (f : Nat) (c : Ctx) (r : Fin 32) (h : Fin 8), s.op? o.id = some o → o.kind = .divide v f →
    o.issued < s.clk → o.keeps = [] → s.ctxs.get? o.ctx = some c → (∀ p ∈ c.pend, p.op ≠ 0) → c.task = o.task →
    c.dying = false → c.parked = false → c.ending = false →
    ∃ t c', exec (.divideResult o.id) s = .next t ∧ t.op? o.id = none ∧ t.ctxs.get? o.ctx = some c'
      ∧ (o.tgts = [.s r h] → c'.s = c.s.set r v ∧ c'.hist = c.hist.set h v)
      ∧ (o.tgts = [.h h] → c'.s = c.s ∧ c'.hist = c.hist.set h v)
      ∧ (o.tgts = [] → c'.s = c.s ∧ c'.hist = c.hist) ∧ c'.fflags = c.fflags ||| BitVec.ofNat 64 f ∧ c'.outs = c.outs.filter (fun i => i != o.id)
      ∧ c'.m = c.m ∧ c'.v = c.v ∧ c'.k = c.k ∧ c'.pc = c.pc)

/-- R38, R95 to R97: a scalar FP operation writes its result with latency 4 and sets its flags. -/
def Obligations.ScalarFpResults : Prop :=
  ∀ (s : State) (m : Mark) (d a b : Name), Plain s 4 → Sound s a → writable d = true →
    (Sound s b → ∀ e ∈ Stated.fpTwoSource,
      let r := e.2 (s.me.fflags.toNat % 4) (fpSrc (value s 0 a)) (fpSrc (value s 1 b))
      Completes (e.1 d a b m) m s (setFlags (wr s d r.1 4) r.2) .next)
    ∧ (∀ e ∈ Stated.fpOneSource,
      let r := e.2 (s.me.fflags.toNat % 4) (value s 0 a) (fpSrc (value s 0 a))
      Completes (e.1 d a m) m s (setFlags (wr s d r.1 4) r.2) .next)

/-- R69, R70, R92, R94: the immediate forms take their prefixes; a prefix itself waits, in the same clk, for what it extends. -/
def Obligations.ImmediateForms : Prop :=
  ∀ (s : State) (m : Mark) (d a : Name) (i : BitVec 10) (j : BitVec 16) (p : BitVec 22), s.me.limm.length ≤ 2 → Fits s 4 →
    (writable d = true →
      (Sound s a → ∀ e ∈ Stated.immediateForms,
        Completes (e.1 d a i m) m s (wr s d (e.2 (value s 0 a) (Stated.immediateOf s i.toNat 10)) 1) .next)
      ∧ Completes (.movi d j m) m s (wr s d (BitVec.ofInt 64 (Stated.immediateOf s j.toNat 16)) 1) .next)
    ∧ (s.me.limm.length < 2 → (∀ t, s.me.loops.head? = some t → t.stop ≠ s.me.pc + 2 ∧ t.stop ≠ s.me.pc + 4) → s.me.pc + 4 < 2 ^ 17 →
        ∃ t : State, exec (.limm p) s = .next t ∧ t.me.limm = s.me.limm ++ [p.toNat] ∧ t.me.pc = s.me.pc + 4 ∧ t.clk = s.clk
          ∧ t.limmOpen = some s.cur ∧ t.me.ready = s.me.ready ∧ t.me.s = s.me.s)

/-- R99, R60: a branch is taken to 2 × OFF10 from its own address where its condition holds and the target lies in the code space, and
falls through else.
R101, R102: a taken transfer whose target lies below 0 or at or above 0x2_0000 faults ILLOP; `call` then writes no s31. A jump to an odd
address in a register, that of `ctl.ret` included, faults ALIGN with it. -/
def Obligations.BranchesAndTransferTraps : Prop :=
  (∀ e ∈ Stated.branches, ∀ (s : State) (m : Mark) (a b : Name) (o : BitVec 10), Plain s 4 → Sound s a → Sound s b →
     let target : Int := s.me.pc + 2 * o.toInt
     (e.2 (value s 0 a) (value s 1 b) = false → Completes (e.1 a b o m) m s s .next)
     ∧ (e.2 (value s 0 a) (value s 1 b) = true → 0 ≤ target → target < 0x20000 → Completes (e.1 a b o m) m s s (.jump target.toNat)))
  ∧ (∀ (s : State) (m : Mark), Plain s 4 →
     (∀ (o : BitVec 22), (let t : Int := s.me.pc + 2 * o.toInt; t < 0 ∨ 0x20000 ≤ t) →
       Traps (.jmp o m) s .illop 0 ∧ Traps (.call o m) s .illop 0)
     ∧ (∀ e ∈ Stated.branches, ∀ (a b : Name) (o : BitVec 10), Sound s a → Sound s b → e.2 (value s 0 a) (value s 1 b) = true →
       (let t : Int := s.me.pc + 2 * o.toInt; t < 0 ∨ 0x20000 ≤ t) → Traps (e.1 a b o m) s .illop 0)
     ∧ (∀ a, Sound s a → (value s 0 a).toNat % 2 = 0 → 0x20000 ≤ (value s 0 a).toNat → Traps (.ctlJr a m) s .illop 0)
     ∧ (∀ a, Sound s a → (value s 0 a).toNat % 2 = 1 → Traps (.ctlJr a m) s .align (value s 0 a))
     ∧ (Clean s (.s 31) →
       ((value s 0 (.s 31)).toNat % 2 = 0 → 0x20000 ≤ (value s 0 (.s 31)).toNat → Traps (.ctlRet m) s .illop 0)
       ∧ ((value s 0 (.s 31)).toNat % 2 = 1 → Traps (.ctlRet m) s .align (value s 0 (.s 31)))))

/-- R100, R102: jumps, calls and returns; `call` leaves the address after it in s31 and takes no history entry. -/
def Obligations.JumpsAndCalls : Prop :=
  ∀ (s : State) (m : Mark), Plain s 4 →
    (∀ o : BitVec 22, let t : Int := s.me.pc + 2 * o.toInt
      0 ≤ t → t < 0x20000 →
        Completes (.jmp o m) m s s (.jump t.toNat)
        ∧ ∃ u, Completes (.call o m) m s u (.callTo t.toNat) ∧ u.me.s = s.me.s.set 31 (BitVec.ofNat 64 (s.me.pc + 4))
            ∧ u.me.hptr = s.me.hptr ∧ u.me.hist = s.me.hist ∧ u.me.loops = s.me.loops)
    ∧ (∀ a, Sound s a → (value s 0 a).toNat % 2 = 0 → (value s 0 a).toNat < 0x20000 →
        Completes (.ctlJr a m) m s s (.jump (value s 0 a).toNat))
    ∧ (Sound s (.s 31) → (value s 0 (.s 31)).toNat % 2 = 0 → (value s 0 (.s 31)).toNat < 0x20000 →
        Completes (.ctlRet m) m s s (.jump (value s 0 (.s 31)).toNat))

/-- R31, R73, R102, R103: `ctl.nop`, `ctl.trap`, `ctl.end` and `loop`; what is no instruction faults ILLOP. With nothing outstanding
`ctl.end` ends the task at once, and its weight goes home; else the context is ending, and its end is a later event. -/
def Obligations.ControlFunctions : Prop :=
  ∀ (s : State) (m : Mark), Plain s 4 →
    Completes (.ctlNop m) m s s .next
    ∧ (∀ a, Sound s a → Traps (.ctlTrap a m) s .swtrap (value s 0 a))
    ∧ (s.me.startFault = none → s.me.dying = false →
        (s.me.outs = [] → ∃ t : State, exec (.ctlEnd m) s = .next t ∧ Stated.Ended s t)
        ∧ (s.me.outs ≠ [] → ∃ t : State, exec (.ctlEnd m) s = .next t ∧ t.me.ending = true ∧ t.me.task = s.me.task ∧ t.me.wt = s.me.wt))
    ∧ (∀ (a : Name) (i : BitVec 10), Sound s a →
        let n := (value s 0 a).toNat
        let start := s.me.pc + 4
        let stop := start + 2 * i.toNat
        (n = 0 → Completes (.loop a i m) m s s (.skip stop))
        ∧ (n ≠ 0 → s.me.loops.length < 2 →
            Completes (.loop a i m) m s (s.setMe { s.me with loops := ⟨start, stop, n⟩ :: s.me.loops }) (.enter start))
        ∧ (n ≠ 0 → 2 ≤ s.me.loops.length → Traps (.loop a i m) s .illop 0))
    ∧ Traps .notAnInstruction s .illop 0

namespace Sys2Proof.Stated

/-- The operand name of Y's register form (R67): s(Y) below 8, else d(Y − 7). -/
def yName (y : BitVec 4) : Name := if y.toNat < 8 then .s (Fin.ofNat 32 y.toNat) else .d (Fin.ofNat 8 (y.toNat - 8))

/-- The compact producers of X and Y′ (R68): the op and its result. -/
def compactRegs : List ((Fin 32 → BitVec 4 → Bool → Instr) × (Word → Word → Word)) :=
  [(.compactAdd, fun x y => BitVec.ofInt 64 (x.toInt + y.toInt)),
   (.compactSub, fun x y => BitVec.ofInt 64 (x.toInt - y.toInt)),
   (.compactAnd, fun x y => x &&& y),
   (.compactCmov, fun x y => if x = 0 then y else x)]

/-- The compact producers of X and imm4 (R68): signed for `addi`, an unsigned amount for the shifts. -/
def compactImms : List ((Fin 32 → BitVec 4 → Bool → Instr) × (Word → BitVec 4 → Word)) :=
  [(.compactAddi, fun x y => BitVec.ofInt 64 (x.toInt + y.toInt)),
   (.compactShl, fun x y => BitVec.ofNat 64 (x.toNat * 2 ^ y.toNat)),
   (.compactShr, fun x y => BitVec.ofNat 64 (x.toNat / 2 ^ y.toNat))]

/-- A loaded value of `size` bytes extended by X (R106). -/
def loaded (x : Bool) (size v : Nat) : Word := if x then BitVec.ofInt 64 (sextNat v (8 * size)) else BitVec.ofNat 64 v

/-- The effective address of format M (R106): the base, unsigned, and the offset times the size, exact. -/
def address (s : State) (base : Word) (o : BitVec 6) (z : Size) : Int := base.toNat + immediateOf s o.toNat 6 * 2 ^ z.code

/-- The masks of two masks, and of one (R136): the instruction and bit i of its result. -/
def maskOps : List ((Fin 8 → Fin 8 → Fin 8 → Mark → Instr) × (Bool → Bool → Bool)) :=
  [(.kand, fun a b => a && b), (.kor, fun a b => a || b), (.kxor, fun a b => a != b)]

/-- The shape in which a vector instruction issues (R112 to R116, R119): its instruction, the registers it names, those it reads, the
s-registers it reads, its targets, the memory it accesses, its mask, and whether it may fault at its start. -/
structure VShape where
  i : Instr
  m : Mark
  regs : List Nat
  srcs : List Nat
  sregs : List (Fin 32)
  tgts : List Target
  k : Fin 4
  starts : Bool

/-- A vector register as a target. -/
def vreg (d : Fin 32) : Target := .v d 8 0

/-- Two vector registers into a third, by VA and VB; the list holds every such function. -/
def vTwo : List (Fin 32 → Fin 32 → Fin 32 → VT → Fin 4 → Mark → Instr) :=
  [.vadd, .vsub, .vmul, .vmin, .vmax, .vaddsat, .vsubsat, .vmulh, .vabsdiff, .vand, .vor, .vxor, .vandn, .vshl, .vshr, .vsra, .vrot,
   .vsel, .vperm]

/-- One vector register into another. -/
def vOne : List (Fin 32 → Fin 32 → VT → Fin 4 → Mark → Instr) := [.vabs, .vneg, .vmov, .vrnd, .vfloor]

/-- The compares. -/
def vCompare : List (Fin 8 → Fin 32 → Fin 32 → VT → Fin 4 → Mark → Instr) := [.vceq, .vclt, .vcle, .vcne]

/-- The reductions into an s-register. -/
def vReduce : List (Fin 32 → Fin 32 → VT → Fin 4 → Mark → Instr) := [.vredsum, .vredmax, .vredmin]

/-- The functions of the SFU. -/
def sfuOps : List (Fin 32 → Fin 32 → VT → Fin 4 → Mark → Instr) :=
  [.vrcp, .vrsq, .vexp2, .vlog2, .vsin, .vcos, .vtanh, .vsigm]

/-- The registers of a group of g from d on (R23). -/
def group (d : Fin 32) (g : Nat) : List Nat := (List.range g).map (fun j => d.val + j)

/-- The targets of a group. -/
def groupTargets (d : Fin 32) (g : Nat) : List Target := (List.range g).map (fun j => vreg (Fin.ofNat 32 (d.val + j)))

/-- Every instruction of the vector unit that accesses no memory, with its shape, for given operands. -/
def vectorShapes (s : State) (d a b : Fin 32) (kd : Fin 8) (t u : VT) (k : Fin 4) (m : Mark) : List VShape :=
  vTwo.map (fun c => ⟨c d a b t k m, m, [d, a, b], [a, b], [], [vreg d], k, true⟩)
    ++ [⟨.vfma d a b t k m, m, [d, a, b], [a, b, d], [], [vreg d], k, true⟩,
        ⟨.vrcpr d a b k m, m, [d, a, b], [a, b], [], [vreg d], k, true⟩,
        ⟨.vrsqr d a b k m, m, [d, a, b], [a, b], [], [vreg d], k, true⟩]
    ++ vOne.map (fun c => ⟨c d a t k m, m, [d, a], [a], [], [vreg d], k, true⟩)
    ++ [⟨.vcvtSame d a t u k m, m, [d, a], [a], [], [vreg d], k, true⟩,
        ⟨.vtpack d a m, m, [d, a], [a], [], [vreg d], 0, true⟩,
        ⟨.vtunp d a m, m, [d, a], [a], [], [vreg d], 0, true⟩,
        ⟨.vtqnt d a b k m, m, [d, a], [a], [b], [vreg d], k, true⟩,
        ⟨.vslide d a b t k m, m, [d, a], [a], [b], [vreg d], k, true⟩,
        ⟨.vbcast d a t k m, m, [d], [], [a], [vreg d], k, false⟩,
        ⟨.vzero d t k m, m, [d], [], [], [vreg d], k, false⟩,
        ⟨.vins d a b t m, m, [d], [], [a, b], [vreg d], 0, false⟩,
        ⟨.vext d a b t m, m, [a], [a], [b], [.s d s.me.hptr], 0, true⟩,
        ⟨.vdot d a b t k m, m, [a, b], [a, b], [], [.s d s.me.hptr], k, true⟩]
    ++ vReduce.map (fun c => ⟨c d a t k m, m, [a], [a], [], [.s d s.me.hptr], k, true⟩)
    ++ (if kd = 0 then [] else vCompare.map (fun c => ⟨c kd a b t k m, m, [a, b], [a, b], [], [.k kd], k, true⟩)
          ++ [⟨.vtchk kd a m, m, [a], [a], [], [.k kd], 0, true⟩])
    ++ (if d.val % 2 = 0 then [⟨.vcvtWiden2 d a t u k m, m, a.val :: group d 2, [a], [], groupTargets d 2, k, true⟩] else [])
    ++ (if d.val % 4 = 0 then [⟨.vcvtWiden4 d a t u k m, m, a.val :: group d 4, [a], [], groupTargets d 4, k, true⟩] else [])
    ++ (if a.val % (vtBits t / vtBits u) = 0 then
          [⟨.vcvtNarrow d a t u k m, m, d.val :: group a (vtBits t / vtBits u), group a (vtBits t / vtBits u), [], [vreg d], k, true⟩]
        else [])

/-- The loads and stores of the vector unit with their shape: the address in sA; the flag says the scratchpad. -/
def memoryShapes (d a b : Fin 32) (t : VT) (k : Fin 4) (m : Mark) : List (VShape × Bool) :=
  [(⟨.vldT d a t k m, m, [d], [], [a], [vreg d], k, true⟩, true),
   (⟨.vldL d a t k m, m, [d], [], [a], [vreg d], k, true⟩, false),
   (⟨.vldxT d a b t k m, m, [d, b], [b], [a], [vreg d], k, true⟩, true),
   (⟨.vstT d a t k m, m, [d], [d], [a], [], k, true⟩, true),
   (⟨.vstL d a t k m, m, [d], [d], [a], [], k, true⟩, false),
   (⟨.vstxT d a b t k m, m, [d, b], [d, b], [a], [], k, true⟩, true)]

/-- What a shape asks at issue: no prefix, its registers allocated, its mask and its s-registers sound, a place in the core's vector
queue. -/
def VShape.Ready (x : VShape) (s : State) : Prop :=
  Plain s 4 ∧ (∀ r ∈ x.regs, r < s.me.v.length) ∧ CleanMask s x.k.val ∧ (∀ r ∈ x.sregs, Clean s (.s r))
    ∧ (s.core s.myCore).vqueue.length < 16

/-- It has issued: one outstanding operation with what was read at issue stands at the end of its core's vector queue, and no register
of the context but the history pointer has changed. -/
def VShape.Issued (x : VShape) (s t : State) : Prop :=
  (∃ o : Op, t.ops.getLast? = some o ∧ t.ops.length = s.ops.length + 1
      ∧ o.ctx = s.cur ∧ o.task = s.me.task ∧ o.kind = .vector x.i ∧ o.issued = s.clk ∧ o.mask = readK s 60 x.k.val ∧ o.srcs = x.srcs
      ∧ o.tgts = x.tgts ∧ o.started = false ∧ o.vfmt = s.me.vfmt ∧ o.rm = s.me.fflags.toNat % 4
      ∧ (∀ r, x.sregs.head? = some r → o.a = value s 61 (.s r)) ∧ (∀ r, x.sregs[1]? = some r → o.b = value s 62 (.s r))
      ∧ (t.core s.myCore).vqueue = (s.core s.myCore).vqueue ++ [o.id] ∧ t.me.outs = s.me.outs ++ [o.id])
    ∧ t.me.s = s.me.s ∧ t.me.v = s.me.v ∧ t.me.k = s.me.k ∧ t.me.hist = s.me.hist ∧ t.me.fflags = s.me.fflags

/-- It has issued to the SFU (R118): one outstanding operation with the mask read at issue stands in its tile's queue. -/
def SfuIssued (i : Instr) (d a : Fin 32) (k : Fin 4) (s t : State) : Prop :=
  ∃ o : Op, t.ops.getLast? = some o ∧ t.ops.length = s.ops.length + 1 ∧ o.ctx = s.cur ∧ o.task = s.me.task ∧ o.kind = .sfu i
    ∧ o.issued = s.clk ∧ o.mask = readK s 60 k.val ∧ o.srcs = [a.val] ∧ o.tgts = [vreg d] ∧ o.started = false
    ∧ o.id ∈ (t.tile s.myTile).sfu ∧ (t.tile s.myTile).sfu.length = (s.tile s.myTile).sfu.length + 1 ∧ t.me.outs = s.me.outs ++ [o.id]
    ∧ t.me.s = s.me.s ∧ t.me.v = s.me.v ∧ t.me.k = s.me.k ∧ t.me.hist = s.me.hist ∧ t.me.hptr = s.me.hptr
    ∧ t.me.fflags = s.me.fflags

end Sys2Proof.Stated

/-! ## Local memory and scratchpad (chapters 6 and 9) -/

/-- R106: a local load of bytes inside the core's local memory and aligned is a producer of latency 3 and leaves memory as it is: what it
reads is memory itself where no write is still unseen; with Q only what its task knows changes beside.
Where it rests on log 6 it states the model's choice. -/
def Obligations.LocalLoads : Prop :=
  ∀ (s : State) (m : Mark) (d a : Name) (o : BitVec 6) (z : Size) (x q : Bool), s.me.limm.length ≤ 2 → Fits s 4 → Sound s a →
    writable d = true →
    let size : Nat := 2 ^ z.code
    let ea := Stated.address s (value s 0 a) o z
    let flat := locAddr s.me.job s.me.vcore ea.toNat
    0 ≤ ea → ea + size ≤ localEnd s → ea % size = 0 → firstBad s.eccLocal flat size = none →
      ∃ t : State, exec (.ldl d a o z x q m) s = .next (after s t 4 m.g.val (m.s || s.me.precise) .next)
        ∧ (let r := wr s d (Stated.loaded x size (leNat (s.readBytes (localReader s) .loc flat size 10))) 3
           if q then ∃ k, t = r.setMe { r.me with know := k } else t = r)
        ∧ (s.writes = [] → s.readBytes (localReader s) .loc flat size 10 = s.localMem.read flat size)

/-- R106: a local store writes its bytes at issue, the low bytes of D at the lowest addresses; every other byte of every memory and
every register stay. A release waits while vector accesses to local memory are outstanding. -/
def Obligations.LocalStores : Prop :=
  ∀ (s : State) (m : Mark) (d a : Name) (o : BitVec 6) (z : Size) (q : Bool), s.me.limm.length ≤ 2 → Fits s 4 → Sound s a →
    updatable d = true → Clean s d →
    let size : Nat := 2 ^ z.code
    let ea := Stated.address s (value s 0 a) o z
    let flat := locAddr s.me.job s.me.vcore ea.toNat
    0 ≤ ea → ea + size ≤ localEnd s → ea % size = 0 → (q = true → s.anyWaiting (s.releaseWaits s.me.task .core) = false) →
      ∃ t : State, Completes (.stl d a o z q m) m s t .next ∧ t.me = s.me
        ∧ (s.localMem.wf = true → ∀ i, i < size → t.localMem.get (flat + i) = BitVec.ofNat 8 ((value s 1 d).toNat / 256 ^ i))
        ∧ (∀ c, c < flat ∨ flat + size ≤ c → t.localMem.get c = s.localMem.get c)
        ∧ t.scratch = s.scratch ∧ t.codeMem = s.codeMem ∧ t.hbm = s.hbm ∧ t.hostMem = s.hostMem ∧ t.nvme = s.nvme

/-- R106: an address outside the local memory faults LADDR, one inside and misaligned ALIGN, the address being the argument. -/
def Obligations.LocalAccessTraps : Prop :=
  ∀ (s : State) (m : Mark) (d a : Name) (o : BitVec 6) (z : Size) (x q : Bool), s.me.limm.length ≤ 2 → Fits s 4 → Sound s a →
    let size : Nat := 2 ^ z.code
    let ea := Stated.address s (value s 0 a) o z
    ((ea < 0 ∨ (localEnd s : Int) < ea + size) →
      (writable d = true → Traps (.ldl d a o z x q m) s .laddr (BitVec.ofInt 64 ea))
      ∧ (updatable d = true → Traps (.stl d a o z q m) s .laddr (BitVec.ofInt 64 ea)))
    ∧ (0 ≤ ea → ea + size ≤ localEnd s → ea % size ≠ 0 →
      (writable d = true → Traps (.ldl d a o z x q m) s .align (BitVec.ofInt 64 ea))
      ∧ (updatable d = true → Traps (.stl d a o z q m) s .align (BitVec.ofInt 64 ea)))

/-- R108, R109: a scratchpad load issues as an outstanding operation, and a store is posted: its bytes stand ready to land, and no
memory and no register has changed. Both count as accesses at tile scope.
Where it rests on log 5 it states the model's choice. -/
def Obligations.ScratchpadAccesses : Prop :=
  ∀ (s : State) (m : Mark) (d a : Name) (o : BitVec 6) (z : Size) (x q : Bool), s.me.limm.length ≤ 2 → Fits s 4 → Sound s a →
    let size : Nat := 2 ^ z.code
    let ea := Stated.address s (value s 0 a) o z
    s.countFull s.me.task .tile = false →
    ((0 ≤ ea ∧ ea + size ≤ tileEnd s ∧ ea % size = 0) ∨ (z = .w ∧ 0x100000 ≤ ea ∧ ea ≤ 0x1000FF ∧ ea % 4 = 0)) →
      (writable d = true → ∃ t : State, exec (.ldt d a o z x q m) s = .next (after s t 4 m.g.val (m.s || s.me.precise) .next)
        ∧ (∃ p : Op, t.ops.getLast? = some p ∧ t.ops.length = s.ops.length + 1 ∧ p.ctx = s.cur ∧ p.task = s.me.task
          ∧ p.kind = .ldt ea.toNat size x q ∧ p.issued = s.clk ∧ p.tgts = (targetOf s.me d).toList ∧ t.me.outs = s.me.outs ++ [p.id])
        ∧ t.me.s = s.me.s ∧ t.me.hist = s.me.hist ∧ t.scratch = s.scratch ∧ t.localMem = s.localMem
        ∧ t.count s.me.task .tile = s.count s.me.task .tile + 1)
      ∧ (updatable d = true → Clean s d → ∃ t : State, Completes (.stt d a o z q m) m s t .next
        ∧ (∃ p : TileStore, t.stores = s.stores ++ [p] ∧ p.core = s.myCore ∧ p.task = s.me.task ∧ p.job = s.me.job
          ∧ p.vtile = s.me.vcore / 8 ∧ p.addr = ea.toNat ∧ p.data.length = size ∧ p.issued = s.clk
          ∧ ∀ i, i < size → p.data[i]? = some (BitVec.ofNat 8 ((value s 1 d).toNat / 256 ^ i)))
        ∧ t.me = s.me ∧ t.scratch = s.scratch ∧ t.localMem = s.localMem
        ∧ t.count s.me.task .tile = s.count s.me.task .tile + 1)

/-- R27, R108, R109, R156: a posted store that its bank may grant lands: its bytes are in the scratchpad, every other byte of it stays, and
it is posted no more; in the trigger window it is a rise of its counter instead. A load that its bank may grant reads: before issue + 8 its
value is pending for its destination and its registers still hold the old one, from then on it stands in them and the load is outstanding
no more. A load whose read is done ends in the same way once issue + 8 has come.
Where it rests on log 5 and log 6 it states the model's choice. -/
def Obligations.BankGrants : Prop :=
  ∀ (s : State),
    (∀ p : TileStore, s.stores.find? (fun t => t.id == p.id) = some p → p.issued < s.clk →
      grantable s (tileOf p.core) (storeReq p) = true →
      ∃ t : State, exec (.tileStoreLand p.id) s = .next t ∧ t.stores = s.stores.filter (fun x => x.id != p.id)
        ∧ (p.addr < 0x100000 →
          let flat := scratchAddr p.job p.vtile p.addr
          (s.scratch.wf = true → ∀ i, i < p.data.length → some (t.scratch.get (flat + i)) = p.data[i]?)
          ∧ (∀ c, c < flat ∨ flat + p.data.length ≤ c → t.scratch.get c = s.scratch.get c))
        ∧ (0x100000 ≤ p.addr → t.scratch = s.scratch
          ∧ ∃ r : Rise, (t.tile (tileOf p.core)).rises = (s.tile (tileOf p.core)).rises ++ [r] ∧ r.job = p.job
            ∧ r.ctr = (p.addr - 0x100000) / 4 ∧ r.amount = leNat p.data))
    ∧ (∀ (p : Op) (c : Ctx) (addr n : Nat) (x q : Bool), p.id ≠ 0 → s.op? p.id = some p → p.kind = .ldt addr n x q → p.keeps = [] →
      s.ctxs.get? p.ctx = some c → c.task = p.task → c.parked = false → c.ending = false → c.dying = false → (∀ e ∈ c.pend, e.op ≠ 0) →
      (p.started = false → p.issued < s.clk → grantable s (tileOf (coreOf p.ctx)) (loadReq p addr) = true →
        (addr < 0x100000 → firstBad s.eccScratch (scratchAddr c.job (c.vcore / 8) addr) n = none) →
        (∀ g ∈ p.tgts, ∃ e, (∃ r, g = .s r e) ∨ g = .h e) →
        let flat := scratchAddr c.job (c.vcore / 8) addr
        let v : Word := Stated.loaded x n (if 0x100000 ≤ addr then counterValue s (tileOf (coreOf p.ctx)) c.job ((addr - 0x100000) / 4)
          else leNat (s.readBytes (readerOf s .core p.task (knowOn p.know p.fences .core)) .scratch flat n 10))
        ∃ (t : State) (c' : Ctx), exec (.ldtResult p.id) s = .next t ∧ t.scratch = s.scratch ∧ t.ctxs.get? p.ctx = some c' ∧ c'.m = c.m
          ∧ c'.v = c.v ∧ c'.k = c.k
          ∧ (s.clk < p.issued + 8 → c'.s = c.s ∧ c'.hist = c.hist ∧ c'.outs = c.outs
            ∧ c'.pend = c.pend.filter (fun e => e.op != p.id) ++ p.tgts.map (fun g => ⟨p.issued + 8, g, v.toNat, p.id, false, false⟩)
            ∧ ∃ p' : Op, t.op? p.id = some p' ∧ p'.started = true ∧ p'.due = p.issued + 8)
          ∧ (p.issued + 8 ≤ s.clk → t.op? p.id = none ∧ c'.outs = c.outs.filter (fun i => i != p.id)
            ∧ ∀ (r : Fin 32) (e : Fin 8), p.tgts = [.s r e] → c'.s = c.s.set r v ∧ c'.hist = c.hist.set e v))
      ∧ (p.started = true → p.due ≤ s.clk → (∀ g ∈ c.pend, g.op = p.id → ∃ e, (∃ r, g.target = .s r e) ∨ g.target = .h e) →
        ∃ (t : State) (c' : Ctx), exec (.ldtResult p.id) s = .next t ∧ t.scratch = s.scratch ∧ t.op? p.id = none ∧ t.ctxs.get? p.ctx = some c'
          ∧ c'.outs = c.outs.filter (fun i => i != p.id) ∧ c'.m = c.m ∧ c'.v = c.v ∧ c'.k = c.k
          ∧ ∀ (r : Fin 32) (e : Fin 8) (v due : Nat), c.pend.filter (fun e => e.op == p.id) = [⟨due, .s r e, v, p.id, false, false⟩] →
            c'.s = c.s.set r (BitVec.ofNat 64 v) ∧ c'.hist = c.hist.set e (BitVec.ofNat 64 v)))

/-! ## Compact and mask instructions -/

/-- R67, R68, R111: each compact op has the effect of the 32-bit form beside it; it is two bytes long and has no gap.
R111: the compact load and store take the offset Y[3] × 8 from s(Y[2:0]), and move eight bytes under the checks of R106.
Where it rests on log 6 it states the model's choice. -/
def Obligations.CompactForms : Prop :=
  (∀ (s : State) (x : Fin 32) (y : BitVec 4) (mk : Bool), Plain s 2 →
     let X := value s 0 (.s x)
     (Clean s (Stated.yName y) → exec (.compactMov x y mk) s = .next (after s (wr s (.s x) (value s 1 (Stated.yName y)) 1) 2 0 mk .next))
     ∧ (Clean s (.s x) → Clean s (Stated.yName y) → ∀ e ∈ Stated.compactRegs,
       exec (e.1 x y mk) s = .next (after s (wr s (.s x) (e.2 X (value s 1 (Stated.yName y))) 1) 2 0 mk .next))
     ∧ (Clean s (.s x) → ∀ e ∈ Stated.compactImms,
       exec (e.1 x y mk) s = .next (after s (wr s (.s x) (e.2 X y) 1) 2 0 mk .next))
     ∧ (Clean s (.s x) →
       let t : Int := s.me.pc + 2 * y.toInt
       (X ≠ 0 → exec (.compactBeqz x y mk) s = .next (after s s 2 0 mk .next))
       ∧ (X = 0 → exec (.compactBnez x y mk) s = .next (after s s 2 0 mk .next))
       ∧ (0 ≤ t → t < 0x20000 →
         (X = 0 → exec (.compactBeqz x y mk) s = .next (after s s 2 0 mk (.jump t.toNat)))
         ∧ (X ≠ 0 → exec (.compactBnez x y mk) s = .next (after s s 2 0 mk (.jump t.toNat)))))
     ∧ exec (.compactNop mk) s = .next (after s s 2 0 mk .next)
     ∧ (Clean s (.s 31) → (value s 0 (.s 31)).toNat % 2 = 0 → (value s 0 (.s 31)).toNat < 0x20000 →
       exec (.compactRet mk) s = .next (after s s 2 0 mk (.jump (value s 0 (.s 31)).toNat)))
     ∧ (s.me.startFault = none → s.me.dying = false →
         (s.me.outs = [] → ∃ t : State, exec (.compactEnd mk) s = .next t ∧ Stated.Ended s t)
         ∧ (s.me.outs ≠ [] → ∃ t : State, exec (.compactEnd mk) s = .next t ∧ t.me.ending = true ∧ t.me.task = s.me.task)))
  ∧ (∀ (s : State) (x : Fin 32) (y : BitVec 4) (mk : Bool), Plain s 2 → Clean s (.s (Fin.ofNat 32 (y.toNat % 8))) → Clean s (.s x) →
     let ea : Nat := (value s 0 (.s (Fin.ofNat 32 (y.toNat % 8)))).toNat + 8 * (y.toNat / 8)
     let flat := locAddr s.me.job s.me.vcore ea
     ea + 8 ≤ localEnd s → ea % 8 = 0 →
       (firstBad s.eccLocal flat 8 = none → exec (.compactLdlD x y mk) s
         = .next (after s (wr s (.s x) (BitVec.ofNat 64 (leNat (s.readBytes (localReader s) .loc flat 8 10))) 3) 2 0 (mk || s.me.precise)
             .next))
       ∧ ∃ t : State, exec (.compactStlD x y mk) s = .next (after s t 2 0 mk .next) ∧ t.me = s.me
           ∧ (s.localMem.wf = true → ∀ i, i < 8 → t.localMem.get (flat + i) = BitVec.ofNat 8 ((value s 1 (.s x)).toNat / 256 ^ i))
           ∧ (∀ c, c < flat ∨ flat + 8 ≤ c → t.localMem.get c = s.localMem.get c) ∧ t.scratch = s.scratch ∧ t.hbm = s.hbm)

/-- R20, R136: the mask instructions, bit by bit, with latency 2; k0 reads all ones, and as a destination it faults ILLOPND. -/
def Obligations.MaskInstructions : Prop :=
  ∀ (s : State) (m : Mark) (d a b : Fin 8) (r p q : Fin 32), Plain s 4 → CleanMask s a.val → CleanMask s b.val →
    let A := readK s 0 a.val
    let B := readK s 1 b.val
    (d ≠ 0 →
      (∀ e ∈ Stated.maskOps, ∃ v : MaskReg, Completes (e.1 d a b m) m s (wrK s d v) .next
        ∧ ∀ i, i < 1024 → v.toNat.testBit i = e.2 (A.toNat.testBit i) (B.toNat.testBit i))
      ∧ (∃ v : MaskReg, Completes (.knot d a m) m s (wrK s d v) .next ∧ ∀ i, i < 1024 → v.toNat.testBit i = !A.toNat.testBit i)
      ∧ Completes (.kmv d a m) m s (wrK s d A) .next
      ∧ (Clean s (.s p) → Clean s (.s q) → ∃ v : MaskReg, Completes (.kset d p q m) m s (wrK s d v) .next
          ∧ ∀ i, i < 1024 → v.toNat.testBit i = decide ((value s 0 (.s p)).toNat ≤ i ∧ i < (value s 1 (.s q)).toNat)))
    ∧ (d = 0 → (∀ e ∈ Stated.maskOps, Traps (e.1 d a b m) s .illopnd 0) ∧ Traps (.knot d a m) s .illopnd 0
        ∧ Traps (.kmv d a m) s .illopnd 0 ∧ Traps (.kset d p q m) s .illopnd 0)
    ∧ Completes (.kpop r a m) m s (wr s (.s r) (BitVec.ofNat 64 ((List.range 1024).filter A.toNat.testBit).length) 2) .next
    ∧ (∃ n, Completes (.kfirst r a m) m s (wr s (.s r) (BitVec.ofNat 64 n) 2) .next ∧ n ≤ 1024
        ∧ (∀ i, i < n → A.toNat.testBit i = false) ∧ (n < 1024 → A.toNat.testBit n = true))
    ∧ readK s 0 0 = BitVec.allOnes 1024

/-! ## Vector unit and SFU (chapter 7) -/

/-- R22, R112 to R116: every instruction of the vector unit that accesses no memory issues with the shape it has, once its registers
are allocated and its core's queue has a place.
R128 to R131, R248: the vector loads and stores issue in the same way, as an access of the CORE path at core scope to local memory
and at tile scope to the scratchpad; memory has not changed yet.
R22: a vector instruction that names a register its task does not hold faults VALLOC. -/
def Obligations.VectorIssue : Prop :=
  (∀ (s : State) (d a b : Fin 32) (kd : Fin 8) (t u : VT) (k : Fin 4) (m : Mark), ∀ x ∈ Stated.vectorShapes s d a b kd t u k m, x.Ready s →
     ∃ w, exec x.i s = .next (after s w 4 m.g.val (m.s || (x.starts && s.me.precise)) .next) ∧ x.Issued s w
       ∧ w.localMem = s.localMem ∧ w.scratch = s.scratch ∧ w.accs = s.accs)
  ∧ (∀ (s : State) (d a b : Fin 32) (t : VT) (k : Fin 4) (m : Mark), ∀ p ∈ Stated.memoryShapes d a b t k m, p.1.Ready s →
     s.countFull s.me.task .tile = false →
     ∃ w, exec p.1.i s = .next (after s w 4 m.g.val (m.s || s.me.precise) .next) ∧ p.1.Issued s w
       ∧ w.localMem = s.localMem ∧ w.scratch = s.scratch
       ∧ ∃ c : Acc, w.accs = s.accs ++ [c] ∧ c.task = s.me.task ∧ c.path = .core ∧ c.performed = false
           ∧ c.scope = (if p.2 then .tile else .core) ∧ c.localVec = !p.2)
  ∧ (∀ (s : State) (d a b : Fin 32) (kd : Fin 8) (t u : VT) (k : Fin 4) (m : Mark), Plain s 4 →
     (∀ x ∈ Stated.vectorShapes s d a b kd t u k m, (∃ r ∈ x.regs, s.me.v.length ≤ r) → Traps x.i s .valloc 0)
     ∧ (∀ p ∈ Stated.memoryShapes d a b t k m, (∃ r ∈ p.1.regs, s.me.v.length ≤ r) → Traps p.1.i s .valloc 0)
     ∧ (∀ c ∈ Stated.sfuOps, s.me.v.length ≤ d.val ∨ s.me.v.length ≤ a.val → Traps (c d a t k m) s .valloc 0))

/-- R118: an SFU request issues into its tile's queue, where it has a place. -/
def Obligations.SfuIssue : Prop :=
  ∀ (s : State) (d a : Fin 32) (t : VT) (k : Fin 4) (m : Mark), Plain s 4 → d.val < s.me.v.length → a.val < s.me.v.length →
    CleanMask s k.val → (s.tile s.myTile).sfu.length < 32 → ∀ c ∈ Stated.sfuOps,
      ∃ w, exec (c d a t k m) s = .next (after s w 4 m.g.val (m.s || s.me.precise) .next) ∧ Stated.SfuIssued (c d a t k m) d a k s w

namespace Sys2Proof.Stated

/-! ## What vector operations come to (chapter 7) -/

/-- Element n of a register among those of a type (R20). -/
def el (reg : Fin 32 → VReg) (r : Fin 32) (t : VT) (n : Nat) : Nat := elemGet (reg r) (vtBits t) n

/-- The value of an element (R112, R113). -/
def valueOf (t : VT) (vf bits : Nat) : Val :=
  match t with
  | .f32 => fp32.decode bits
  | .bf16 => bf16.decode bits
  | .f16 => fp16.decode bits
  | .nf8 => descDecode vf bits
  | t => .ofInt (sextNat bits (vtBits t))

/-- A type whose elements are integers: the integer types, and nf8 under an int or uint VFMT (R126). -/
def integral (t : VT) (vf : Nat) : Bool := t.isInt || (t == .nf8 && (descKind vf == 1 || descKind vf == 2))

/-- The width of an element's number: that of its type, for nf8 that of VFMT. -/
def width (t : VT) (vf : Nat) : Nat := if t = .nf8 then (if vf.testBit 3 then 4 else 8) else vtBits t

/-- The integer of such an element. -/
def intOf (t : VT) (vf bits : Nat) : Int :=
  if t = .nf8 ∧ descKind vf = 2 then (bits % 2 ^ width t vf : Nat) else sextNat bits (width t vf)

/-- A value encoded into a type on an arithmetic or conversion path, with its flags: integers saturate, floats round once, nf8 by VFMT
(R36, R44, R46). -/
def encodedAs (u : VT) (vf rm : Nat) (fromInt : Bool) (x : Val) : Nat × Nat :=
  match u with
  | .f32 => fp32.result rm x
  | .bf16 => bf16.result rm x
  | .f16 => fp16.result rm x
  | .nf8 => descEncode vf rm false fromInt x
  | u =>
    let r := toInteger rm (-(2 ^ (vtBits u - 1))) (2 ^ (vtBits u - 1) - 1) fromInt x
    ((r.1 % 2 ^ vtBits u).toNat, r.2)

/-- The flags are those of the active elements among the first n, together (R114, R120). -/
def FlagsOf (flags n mask : Nat) (f : Nat → Nat × Nat) : Prop :=
  ∀ b, flags.testBit b = true ↔ ∃ i, i < n ∧ mask.testBit i = true ∧ (f i).2.testBit b = true

/-- An operation faults at its start and comes to nothing (R119). -/
def FaultsWith (e : VOut) (c : Cause) (arg : Nat) : Prop := e.fault = some (c, BitVec.ofNat 64 arg) ∧ e.outs = [] ∧ e.writes = []

/-- An operation writes, of one vector register, the active elements and no other, each with its bits and flags, and no memory (R113, R114). -/
def Elements (e : VOut) (d : Fin 32) (w mask : Nat) (f : Nat → Nat × Nat) : Prop :=
  e.fault = none ∧ e.writes = [] ∧ FlagsOf e.flags (4096 / w) mask f
    ∧ ∃ v, e.outs = [(.v d w (mask % 2 ^ (4096 / w)), v)]
      ∧ ∀ n, n < 4096 / w → mask.testBit n = true → elemGet (BitVec.ofNat 4096 v) w n = (f n).1 % 2 ^ w

/-- An operation writes one scalar through its s-register (R126). -/
def Scalar (e : VOut) (o : Op) (v flags : Nat) : Prop :=
  e.fault = none ∧ e.writes = [] ∧ e.outs = o.tgts.map (fun g => (g, v)) ∧ e.flags = flags

/-- An operation writes a whole mask (R123, R137). -/
def MaskOf (e : VOut) (d : Fin 8) (f : Nat → Bool) : Prop :=
  e.fault = none ∧ e.writes = [] ∧ ∃ v, e.outs = [(.k d, v)] ∧ ∀ i, v.testBit i = f i

/-- Three registers by VD, VA and VB, and two. -/
abbrev Three := Fin 32 → Fin 32 → Fin 32 → VT → Fin 4 → Mark → Instr
abbrev Two := Fin 32 → Fin 32 → VT → Fin 4 → Mark → Instr

/-- The signed range of w bits: a sum cut to it, and OV where it was (R121). -/
def cut (w : Nat) (x : Int) : Int × Nat :=
  if x < -(2 ^ (w - 1)) then (-(2 ^ (w - 1)), 128) else if 2 ^ (w - 1) - 1 < x then (2 ^ (w - 1) - 1, 128) else (x, 0)

/-- Element results of two integer elements of w bits, as their low bits, and flags (R34, R121, R122): the instruction and the exact value. -/
def vInteger : List (Three × (Nat → Int → Int → Int × Nat)) :=
  [(.vadd, fun _ x y => (x + y, 0)), (.vsub, fun _ x y => (x - y, 0)), (.vmul, fun _ x y => (x * y, 0)), (.vmin, fun _ x y => (min x y, 0)),
   (.vmax, fun _ x y => (max x y, 0)), (.vmulh, fun w x y => (x * y / 2 ^ w, 0)), (.vabsdiff, fun _ x y => ((x - y).natAbs, 0)),
   (.vshl, fun w x y => (x * 2 ^ (y % 2 ^ w % w).toNat, 0)), (.vsra, fun w x y => (x / 2 ^ (y % 2 ^ w % w).toNat, 0)),
   (.vaddsat, fun w x y => cut w (x + y)), (.vsubsat, fun w x y => cut w (x - y))]

/-- Element results of two float or nf8 elements before their rounding (R37, R113, R121). -/
def vFloat : List (Three × (Nat → Val → Val → Val × Nat)) :=
  [(.vadd, fun rm x y => x.add rm y), (.vsub, fun rm x y => x.add rm y.neg), (.vmul, fun _ x y => x.mul y),
   (.vmin, fun _ x y => Val.minmax false x y), (.vmax, fun _ x y => Val.minmax true x y)]

/-- Element results of the bitwise functions, and of the shifts the table above lacks (R122). -/
def vBits : List (Three × ((w : Nat) → BitVec w → BitVec w → BitVec w)) :=
  [(.vand, fun _ x y => x &&& y), (.vor, fun _ x y => x ||| y), (.vxor, fun _ x y => x ^^^ y), (.vandn, fun _ x y => x &&& ~~~y)]
def vShifts : List (Three × ((w : Nat) → BitVec w → Nat → BitVec w)) :=
  [(.vshr, fun _ x n => x >>> n), (.vrot, fun _ x n => x.rotateRight n)]

/-- R34, R113, R114, R121, R122: the element-wise integer functions give the low bits of the exact value, the bitwise ones work on raw
elements, in the active elements alone. -/
def IntegerElements : Prop :=
  ∀ (s : State) (o : Op) (reg : Fin 32 → VReg) (d a b : Fin 32) (t : VT) (k : Fin 4) (m : Mark),
    let w := vtBits t
    let x (n : Nat) : Int := sextNat (el reg a t n) w
    let y (n : Nat) : Int := sextNat (el reg b t n) w
    let low (r : Int × Nat) : Nat × Nat := ((r.1 % 2 ^ w).toNat, r.2)
    let gives (i : Instr) (f : Nat → Nat × Nat) : Prop := Elements (vectorEffect s o i reg) d w o.mask.toNat f
    (t.isInt = true →
      (∀ e ∈ vInteger, gives (e.1 d a b t k m) (fun n => low (e.2 w (x n) (y n))))
      ∧ gives (.vfma d a b t k m) (fun n => low (x n * y n + sextNat (el reg d t n) w, 0))
      ∧ gives (.vabs d a t k m) (fun n => low ((x n).natAbs, 0)) ∧ gives (.vneg d a t k m) (fun n => low (-(x n), 0))
      ∧ (∀ e ∈ vShifts, gives (e.1 d a b t k m) (fun n => ((e.2 w (BitVec.ofNat w (el reg a t n)) (el reg b t n % w)).toNat, 0))))
    ∧ (∀ e ∈ vBits, gives (e.1 d a b t k m) (fun n => ((e.2 w (BitVec.ofNat w (el reg a t n)) (BitVec.ofNat w (el reg b t n))).toNat, 0)))

/-- x rounded to an integral value of its type; a NaN and an infinity stay (R135). -/
def toIntegral (rm : Nat) : Val → Val
  | .fin neg m e => .fin neg (roundGrid rm neg m e 0).1 0
  | .inf s => .inf s
  | .nan _ => .nan false

/-- One refinement step of y by x (R135): y ±0 or ±∞ stays, a NaN gives the canonical one, else one rounding of the exact value. -/
def refined (rm : Nat) (inner : Val → Val → Val) (xb yb : Nat) : Nat × Nat :=
  let x := fp32.decode xb
  let y := fp32.decode yb
  let f := sigFlag [x, y]
  if y.isNan then (0x7FC00000, f)
  else if y = .inf true ∨ y = .inf false ∨ y.isZero = true then (yb, f)
  else if x.isNan then (0x7FC00000, f)
  else let r := fp32.result rm (inner x y); (r.1, r.2 ||| f)

/-- y·(2 − x·y) and y·(1.5 − 0.5·x·y·y), exact (R135). -/
def newton (rm : Nat) (x y : Val) : Val := (y.mul ((Val.ofInt 2).add rm (x.mul y).1.neg).1).1
def newtonRoot (rm : Nat) (x y : Val) : Val :=
  (y.mul ((Val.fin false 3 (-1)).add rm ((((Val.fin false 1 (-1)).mul x).1.mul y).1.mul y).1.neg).1).1

/-- R36, R37, R40, R113, R121, R135: the element-wise float functions decode the active elements, compute exactly and round once in FFLAGS.RM as
sampled, nf8 elements by VFMT. -/
def FloatElements : Prop :=
  ∀ (s : State) (o : Op) (reg : Fin 32 → VReg) (d a b : Fin 32) (t : VT) (k : Fin 4) (m : Mark), t.isInt = false →
    let vf := o.vfmt.toNat
    let x (n : Nat) : Val := valueOf t vf (el reg a t n)
    let y (n : Nat) : Val := valueOf t vf (el reg b t n)
    let out (r : Val × Nat) : Nat × Nat := let c := encodedAs t vf o.rm (integral t vf) r.1; (c.1, c.2 ||| r.2)
    let gives (i : Instr) (f : Nat → Nat × Nat) : Prop := Elements (vectorEffect s o i reg) d (vtBits t) o.mask.toNat f
    (∀ e ∈ vFloat, gives (e.1 d a b t k m) (fun n => out (e.2 o.rm (x n) (y n))))
    ∧ gives (.vfma d a b t k m) (fun n => out (Val.fma o.rm (x n) (y n) (valueOf t vf (el reg d t n))))
    ∧ gives (.vabs d a t k m) (fun n => out ((x n).abs, sigFlag [x n]))
    ∧ gives (.vneg d a t k m) (fun n => out ((x n).neg, sigFlag [x n]))
    ∧ (t ≠ .nf8 → gives (.vrnd d a t k m) (fun n => ((encodedAs t vf 0 false (toIntegral o.rm (x n))).1, sigFlag [x n]))
        ∧ gives (.vfloor d a t k m) (fun n => ((encodedAs t vf 0 false (toIntegral 3 (x n))).1, sigFlag [x n])))
    ∧ (t = .f32 → gives (.vrcpr d a b k m) (fun n => refined o.rm (newton o.rm) (el reg a t n) (el reg b t n))
        ∧ gives (.vrsqr d a b k m) (fun n => refined o.rm (newtonRoot o.rm) (el reg a t n) (el reg b t n)))

/-- The raw element a scalar gives: its low bits, for nf8 as wide as VFMT has them (R45, R124). -/
def rawOf (t : VT) (vf : Nat) (x : Word) : Nat := x.toNat % 2 ^ width t vf

/-- R45, R124, R127: the moves and permutes, on raw elements. -/
def MovedElements : Prop :=
  ∀ (s : State) (o : Op) (reg : Fin 32 → VReg) (d a b : Fin 32) (t : VT) (k : Fin 4) (m : Mark),
    let n := vtCount t
    let vf := o.vfmt.toNat
    let mask := o.mask.toNat
    let gives (i : Instr) (on : Nat) (f : Nat → Nat) : Prop := Elements (vectorEffect s o i reg) d (vtBits t) on (fun i => (f i, 0))
    gives (.vmov d a t k m) mask (el reg a t) ∧ gives (.vzero d t k m) mask (fun _ => 0)
    ∧ gives (.vbcast d a t k m) mask (fun _ => rawOf t vf o.a)
    ∧ gives (.vsel d a b t k m) (2 ^ n - 1) (fun i => if mask.testBit i then el reg a t i else el reg b t i)
    ∧ gives (.vins d a b t m) (2 ^ (o.b.toNat % n)) (fun _ => rawOf t vf o.a)
    ∧ gives (.vperm d a b t k m) mask (fun i => el reg a t (el reg b t i % n))
    ∧ gives (.vslide d a b t k m) mask (fun i =>
        let p : Int := i + o.a.toInt
        if 0 ≤ p ∧ p < n then el reg a t p.toNat else 0)

/-- The compares of R123: of values, unordered false but under `vcne`, and of integers. -/
def compares : List ((Fin 8 → Fin 32 → Fin 32 → VT → Fin 4 → Mark → Instr) × (Val → Val → Bool) × (Int → Int → Bool)) :=
  [(.vceq, fun x y => x.eq y, fun x y => decide (x = y)), (.vclt, fun x y => x.lt y, fun x y => decide (x < y)),
   (.vcle, fun x y => x.le y, fun x y => decide (x ≤ y)), (.vcne, fun x y => !x.eq y, fun x y => decide (x ≠ y))]

/-- R37, R123: a compare writes the whole mask, 0 for what is masked off and past the last element, and sets IV for a signalling NaN alone. -/
def ComparedElements : Prop :=
  ∀ (s : State) (o : Op) (reg : Fin 32 → VReg) (d : Fin 8) (a b : Fin 32) (t : VT) (k : Fin 4) (m : Mark), ∀ c ∈ compares,
    let vf := o.vfmt.toNat
    let x (n : Nat) : Val := valueOf t vf (el reg a t n)
    let y (n : Nat) : Val := valueOf t vf (el reg b t n)
    let e := vectorEffect s o (c.1 d a b t k m) reg
    MaskOf e d (fun i => decide (i < vtCount t) && o.mask.toNat.testBit i
        && if t.isInt then c.2.2 (sextNat (el reg a t i) (vtBits t)) (sextNat (el reg b t i) (vtBits t)) else c.2.1 (x i) (y i))
      ∧ FlagsOf e.flags (vtCount t) o.mask.toNat (fun i => (0, sigFlag [x i, y i]))

/-- One element converted from a type to another (R46, R125). -/
def converted (t u : VT) (vf rm bits : Nat) : Nat × Nat :=
  let x := valueOf t vf bits
  let r := encodedAs u vf rm (integral t vf) x
  (r.1, r.2 ||| sigFlag [x])

/-- R23, R46, R50, R125: a conversion gives each active element converted, in its place of the group: element i of a group of g stands in its
register i mod g at position i div g. -/
def ConvertedElements : Prop :=
  ∀ (s : State) (o : Op) (reg : Fin 32 → VReg) (d a : Fin 32) (t u : VT) (k : Fin 4) (m : Mark),
    let f (bits : Nat) : Nat × Nat := converted t u o.vfmt.toNat o.rm bits
    (vtBits u = vtBits t → Elements (vectorEffect s o (.vcvtSame d a t u k m) reg) d (vtBits u) o.mask.toNat (fun i => f (el reg a t i)))
    ∧ (∀ c ∈ [(2, vectorEffect s o (.vcvtWiden2 d a t u k m) reg), (4, vectorEffect s o (.vcvtWiden4 d a t u k m) reg)],
      vtBits u = c.1 * vtBits t → c.2.fault = none ∧ c.2.writes = [] ∧ c.2.outs.length = c.1
        ∧ FlagsOf c.2.flags (vtCount t) o.mask.toNat (fun i => f (el reg a t i))
        ∧ ∀ i, i < vtCount t → ∃ act v, c.2.outs[i % c.1]? = some (.v (Fin.ofNat 32 (d.val + i % c.1)) (vtBits u) act, v)
          ∧ act.testBit (i / c.1) = o.mask.toNat.testBit i
          ∧ (o.mask.toNat.testBit i = true → elemGet (BitVec.ofNat 4096 v) (vtBits u) (i / c.1) = (f (el reg a t i)).1 % 2 ^ vtBits u))
    ∧ (∀ g, (g = 2 ∨ g = 4) → vtBits t = g * vtBits u →
      Elements (vectorEffect s o (.vcvtNarrow d a t u k m) reg) d (vtBits u) o.mask.toNat
        (fun i => f (el reg (Fin.ofNat 32 (a.val + i % g)) t (i / g))))

/-- The fixed binary tree of R51 over 2^k values: each level joins values 2i and 2i + 1. -/
def joined {α : Type} (f : α → α → α) : Nat → (Nat → α) → α
  | 0, g => g 0
  | k + 1, g => joined f k (fun i => f (g (2 * i)) (g (2 * i + 1)))

/-- One addition of the tree, rounded to FP32, with the flags raised so far (R51). -/
def treeAdd (rm : Nat) (x y : Val × Nat) : Val × Nat :=
  let a := x.1.add rm y.1
  let r := fp32.result rm a.1
  (fp32.decode r.1, x.2 ||| y.2 ||| a.2 ||| r.2)

/-- One maximum or minimum of the tree. -/
def treeExtreme (isMax : Bool) (x y : Val × Nat) : Val × Nat :=
  let a := Val.minmax isMax x.1 y.1
  (a.1, x.2 ||| y.2 ||| a.2)

/-- A float element as the tree takes it: converted to FP32 (R46, R51). -/
def leaf (t : VT) (vf rm bits : Nat) : Val × Nat :=
  let x := valueOf t vf bits
  let r := fp32.result rm x
  (fp32.decode r.1, r.2 ||| sigFlag [x])

/-- R51, R126, R127: reductions, the dot product and `vext`: integers exact as 64 bits, floats through the tree in FP32, what is masked off entering
as the identity.
Where a nf8 element is none of FP32's values it states the model's choice (log 48). -/
def ReducedElements : Prop :=
  ∀ (s : State) (o : Op) (reg : Fin 32 → VReg) (d a b : Fin 32) (t : VT) (k : Fin 4) (m : Mark),
    let vf := o.vfmt.toNat
    let mask := o.mask.toNat
    let n := vtCount t
    let w := width t vf
    let ints : List (Int × Int) := ((List.range n).filter mask.testBit).map (fun i => (intOf t vf (el reg a t i), intOf t vf (el reg b t i)))
    let lo : Int := if t = .nf8 ∧ descKind vf = 2 then 0 else -(2 ^ (w - 1))
    let hi : Int := if t = .nf8 ∧ descKind vf = 2 then 2 ^ w - 1 else 2 ^ (w - 1) - 1
    let at_ (none_ : Val) (i : Nat) : Val × Nat := if mask.testBit i then leaf t vf o.rm (el reg a t i) else (none_, 0)
    let int (i : Instr) (x : Int) : Prop := Scalar (vectorEffect s o i reg) o (x % 2 ^ 64).toNat 0
    let float (i : Instr) (x : Val × Nat) : Prop := Scalar (vectorEffect s o i reg) o (fp32.result 0 x.1).1 x.2
    (integral t vf = true →
      int (.vredsum d a t k m) (ints.map (·.1)).sum ∧ int (.vdot d a b t k m) (ints.map (fun p => p.1 * p.2)).sum
      ∧ int (.vredmax d a t k m) ((ints.map (·.1)).foldl max lo) ∧ int (.vredmin d a t k m) ((ints.map (·.1)).foldl min hi)
      ∧ int (.vext d a b t m) (intOf t vf (el reg a t (o.a.toNat % n))))
    ∧ (integral t vf = false →
      float (.vredsum d a t k m) (joined (treeAdd o.rm) n.log2 (at_ (.fin true 0 0)))
      ∧ float (.vredmax d a t k m) (joined (treeExtreme true) n.log2 (at_ (.inf true)))
      ∧ float (.vredmin d a t k m) (joined (treeExtreme false) n.log2 (at_ (.inf false)))
      ∧ float (.vdot d a b t k m) (joined (treeAdd o.rm) n.log2 (fun i =>
          if mask.testBit i then (valueOf t vf (el reg a t i)).mul (valueOf t vf (el reg b t i)) else (.fin true 0 0, 0)))
      ∧ float (.vext d a b t m) (leaf t vf o.rm (el reg a t (o.a.toNat % n))))

/-- R47, R48, R137: packing, unpacking, quantising and checking of ternary codes. -/
def TernaryElements : Prop :=
  ∀ (s : State) (o : Op) (reg : Fin 32 → VReg) (d a b : Fin 32) (kd : Fin 8) (k : Fin 4) (m : Mark),
    let byte (j : Nat) : Nat := elemGet (reg a) 8 j
    let θ := fp32.decode (o.a.toNat % 2 ^ 32)
    let x (n : Nat) : Val := fp32.decode (el reg a .f32 n)
    Elements (vectorEffect s o (.vtpack d a m) reg) d 8 (2 ^ 512 - 1) (fun j =>
      (if j < 96 then ((List.range 5).map (fun i => ((sextNat (byte (5 * j + i)) 8).sign + 1).toNat * 3 ^ i)).sum else 0, 0))
    ∧ ((∀ j, j < 96 → byte j < 243) →
        Elements (vectorEffect s o (.vtunp d a m) reg) d 8 (2 ^ 512 - 1) (fun i =>
          (if i < 480 then ((((byte (i / 5) / 3 ^ (i % 5) % 3 : Nat) : Int) - 1) % 256).toNat else 0, 0)))
    ∧ (∀ j, j < 96 → 243 ≤ byte j → (∀ i, i < j → byte i < 243) → FaultsWith (vectorEffect s o (.vtunp d a m) reg) .illtrit j)
    ∧ Elements (vectorEffect s o (.vtqnt d a b k m) reg) d 32 o.mask.toNat (fun n =>
        if (x n).isNan || θ.isNan then (0, 4) else if θ.lt (x n) then (1, 0) else if (x n).lt θ.neg then (2 ^ 32 - 1, 0) else (0, 0))
    ∧ MaskOf (vectorEffect s o (.vtchk kd a m) reg) kd (fun j => decide (j < 96) && decide (243 ≤ byte j))

/-- The float format of a type of the SFU, and the bits of a result's significand (R133). -/
def sfuFormat : VT → Fmt
  | .bf16 => bf16
  | .f16 => fp16
  | _ => fp32
def sfuDigits : VT → Nat
  | .bf16 => 8
  | .f16 => 11
  | _ => 15

/-- The table of R134: what a function gives at ±0 and at ±∞ by its sign, each with its flags (IV 4, DZ 8), and whether a negative number is
invalid. -/
def sfuSpecial : List (Two × (Bool → Val × Nat) × (Bool → Val × Nat) × Bool) :=
  let one : Val := .fin false 1 0
  let bad : Val × Nat := (.nan false, 4)
  [(.vrcp, fun neg => (.inf neg, 8), fun neg => (.fin neg 0 0, 0), false),
   (.vrsq, fun neg => (.inf neg, 8), fun neg => if neg then bad else (.fin false 0 0, 0), true),
   (.vexp2, fun _ => (one, 0), fun neg => if neg then (.fin false 0 0, 0) else (.inf false, 0), false),
   (.vlog2, fun _ => (.inf true, 8), fun neg => if neg then bad else (.inf false, 0), true),
   (.vsin, fun neg => (.fin neg 0 0, 0), fun _ => bad, false),
   (.vcos, fun _ => (one, 0), fun _ => bad, false),
   (.vtanh, fun neg => (.fin neg 0 0, 0), fun neg => (.fin neg 1 0, 0), false),
   (.vsigm, fun _ => (.fin false 1 (-1), 0), fun neg => if neg then (.fin false 0 0, 0) else (one, 0), false)]

/-- 1/(m·2^e) rounded to nearest even at p bits (R133): its magnitude as a multiple k of 2^q, and whether it is exact. -/
def IsReciprocal (p m : Nat) (e : Int) (k : Nat) (q : Int) : Prop :=
  let up : Int := if m = 2 ^ m.log2 then m.log2 else m.log2 + 1
  let two : Nat := 2 ^ (-e - q).toNat
  q = -(e + up) - p + 1 ∧ 2 * (k * m) ≤ 2 * two + m ∧ 2 * two ≤ 2 * (k * m) + m
    ∧ ((2 * (k * m) = 2 * two + m ∨ 2 * two = 2 * (k * m) + m) → k % 2 = 0)

/-- R118, R133, R134: an SFU operation gives each active element by itself: the special values of the table, the reciprocal of every finite
number and the reciprocal root of every positive one to the nearest of p bits, and the exact powers of two and logarithms. -/
def SpecialFunctionElements : Prop :=
  ∀ (s : State) (o : Op) (reg : Fin 32 → VReg) (d a : Fin 32) (t : VT) (k : Fin 4) (m : Mark), t.isFloat = true → ∀ c ∈ sfuSpecial,
    o.kind = .sfu (c.1 d a t k m) → ∃ g : Nat → Nat × Nat, Elements (opEffect s o reg) d (vtBits t) o.mask.toNat g
      ∧ ∀ n, n < vtCount t →
        let f := sfuFormat t
        let code (v : Val) : Nat := (f.result 0 v).1
        let x := f.decode (el reg a t n)
        (∀ sig, x = .nan sig → g n = (code (.nan false), if sig then 4 else 0))
        ∧ (∀ neg e, x = .fin neg 0 e → g n = (code (c.2.1 neg).1, (c.2.1 neg).2))
        ∧ (∀ neg, x = .inf neg → g n = (code (c.2.2.1 neg).1, (c.2.2.1 neg).2))
        ∧ (∀ y e, x = .fin true y e → y ≠ 0 → c.2.2.2 = true → g n = (code (.nan false), 4))
        ∧ (∀ neg y e, o.kind = .sfu (.vrcp d a t k m) → x = .fin neg y e → y ≠ 0 →
            let e1 : Int := -(e + if y = 2 ^ y.log2 then y.log2 else y.log2 + 1)
            (e1 < 1 - f.bias → g n = (code (.fin neg 0 0), 96))
            ∧ (1 - f.bias ≤ e1 → ∃ j q, IsReciprocal (sfuDigits t) y e j q
                ∧ g n = (code (.fin neg j q), (f.result 0 (.fin neg j q)).2 ||| if j * y = 2 ^ (-e - q).toNat then 0 else 64)))
        ∧ (∀ y e, o.kind = .sfu (.vrsq d a t k m) → x = .fin false y e → y ≠ 0 →
            ∃ (j : Nat) (q : Int), 2 ^ (sfuDigits t - 1) ≤ j ∧ j ≤ 2 ^ sfuDigits t
              ∧ (let z : ℚ := (y : ℚ) * (2 : ℚ) ^ (e + 2 * q)
                (2 * (j : ℚ) - 1) ^ 2 * z ≤ 4 ∧ 4 ≤ (2 * (j : ℚ) + 1) ^ 2 * z ∧ (g n).1 = code (.fin false j q)
                  ∧ (g n).2 = if (j : ℚ) ^ 2 * z = 1 then 0 else 64))
        ∧ (∀ neg y e (i : Int), o.kind = .sfu (.vexp2 d a t k m) → x = .fin neg y e → y ≠ 0 →
            (if neg then -(y : ℚ) else y) * (2 : ℚ) ^ e = i → g n = f.result 0 (.fin false 1 i))
        ∧ (∀ (l : Nat) (e : Int), o.kind = .sfu (.vlog2 d a t k m) → x = .fin false (2 ^ l) e → g n = (code (.ofInt (e + l)), 0))

/-! ## Vector memory (R128 to R131) -/

/-- The bits of an element of a memory: of a 4-bit one, the nibble at its byte. -/
def memElem (mem : Memory) (a eb : Nat) (hi : Bool) : Nat :=
  if eb = 4 then (mem.get a).toNat / (if hi then 16 else 1) % 16 else leNat (mem.read a (eb / 8))

/-- Element i of a run of elements of eb bits that begins at an address. -/
def runElem (mem : Memory) (base eb i : Nat) : Nat := memElem mem (base + i * eb / 8) eb (i % 2 == 1)

/-- The memory once all the element stores of an operation are made (R132). -/
def stored (e : VOut) (mem : Memory) : Memory := e.writes.foldl (fun m w => m.write w.addr w.bytes) mem

/-- An operation stores the active ones of n elements of eb bits from a base on, each with its bits and flags, and leaves every other element
and byte as it is. -/
def Stores (e : VOut) (sp : Space) (mem : Memory) (base eb n mask : Nat) (f : Nat → Nat × Nat) : Prop :=
  e.fault = none ∧ e.outs = [] ∧ FlagsOf e.flags n mask f ∧ (∀ w ∈ e.writes, w.space = sp)
    ∧ (mem.wf = true → (∀ i, i < n → runElem (stored e mem) base eb i = if mask.testBit i then (f i).1 % 2 ^ eb else runElem mem base eb i)
      ∧ ∀ c, c < base ∨ base + n * eb / 8 ≤ c → (stored e mem).get c = mem.get c)

/-- The bank whose descriptor converts, of an address (R130). -/
def bankOf (o : Op) (ea : Nat) : Nat := if ea < 0x100000 then (o.fmts.getD (ea / 65536) 0).toNat else 0

/-- Its bytes move unchanged: kinds 3 and 7, and for their size a descriptor that is 0 or invalid (R130). -/
def plainBank (b : Nat) : Bool := !descValid b || descKind b == 3 || descKind b == 7

/-- The bits of a bank's element (R130). -/
def bankBits (b : Nat) : Nat :=
  if plainBank b then 8 else if descKind b ≤ 2 then (if b.testBit 3 then 4 else 8) else if descKind b = 4 then 32 else 16

/-- A bank's element as one of T (R130). -/
def loadedAs (t : VT) (vf rm b bits : Nat) : Nat × Nat :=
  if t = .nf8 ∧ b = vf then (bits, 0)
  else
    let x := descDecode b bits
    let r := encodedAs t vf rm (descIsInt b) x
    (r.1, r.2 ||| sigFlag [x])

/-- An element of T as a bank's, on the store-encoding path (R44, R130). -/
def storedAs (t : VT) (vf b bits : Nat) : Nat × Nat :=
  let x := valueOf t vf bits
  let r := descEncode b 0 true (integral t vf) x
  (r.1, r.2 ||| sigFlag [x])

/-- R129, R132, R284: `vld.l` and `vst.l` check the 512 bytes and move the active elements of them unchanged. -/
def LocalVectorAccesses : Prop :=
  ∀ (s : State) (o : Op) (reg : Fin 32 → VReg) (d a : Fin 32) (t : VT) (k : Fin 4) (m : Mark) (c : Ctx) (j : Job),
    s.ctxs.get? o.ctx = some c → s.job? c.job = some j →
    let ea := o.a.toNat
    let top := min 0x10000 (4096 * j.lsize)
    let base := locAddr c.job c.vcore ea
    let ld := vectorEffect s o (.vldL d a t k m) reg
    let st := vectorEffect s o (.vstL d a t k m) reg
    (top < ea + 512 → FaultsWith ld .laddr ea ∧ FaultsWith st .laddr ea)
    ∧ (ea + 512 ≤ top → ea % max (vtBits t / 8) 1 ≠ 0 → FaultsWith ld .align ea ∧ FaultsWith st .align ea)
    ∧ (ea + 512 ≤ top → ea % max (vtBits t / 8) 1 = 0 →
      (s.writes = [] → s.eccLocal = [] → Elements ld d (vtBits t) o.mask.toNat (fun i => (runElem s.localMem base (vtBits t) i, 0)))
      ∧ Stores st .loc s.localMem base (vtBits t) (vtCount t) o.mask.toNat (fun i => (el reg d t i, 0)))

/-- R41, R130, R132, R159, R284: `vld.t` and `vst.t` check their footprint and convert the active elements through the bank's descriptor as the
operation sampled it; banks of kinds 3 and 7 move 512 bytes unchanged. -/
def TileVectorAccesses : Prop :=
  ∀ (s : State) (o : Op) (reg : Fin 32 → VReg) (d a : Fin 32) (t : VT) (k : Fin 4) (m : Mark) (c : Ctx) (j : Job),
    s.ctxs.get? o.ctx = some c → s.job? c.job = some j →
    let ea := o.a.toNat
    let vf := o.vfmt.toNat
    let top := min 0x100000 (65536 * j.tbanks)
    let base := scratchAddr c.job (c.vcore / 8) ea
    let b := bankOf o ea
    let eb := bankBits b
    let foot := if plainBank b then 512 else vtCount t * eb / 8
    let ld := vectorEffect s o (.vldT d a t k m) reg
    let st := vectorEffect s o (.vstT d a t k m) reg
    let oneFormat : Prop := descValid b = true ∧ ∀ p, ea / 65536 ≤ p → p ≤ (ea + foot - 1) / 65536 → (o.fmts.getD p 0).toNat = b
    (top < ea + foot → FaultsWith ld .taddr ea ∧ FaultsWith st .taddr ea)
    ∧ (ea + foot ≤ top → ea % max 1 (eb / 8) ≠ 0 → FaultsWith ld .align ea ∧ FaultsWith st .align ea)
    ∧ (ea + foot ≤ top → ea % max 1 (eb / 8) = 0 → ¬oneFormat → FaultsWith ld .bankfmt ea ∧ FaultsWith st .bankfmt ea)
    ∧ (ea + foot ≤ top → ea % max 1 (eb / 8) = 0 → oneFormat →
      (s.writes = [] → s.eccScratch = [] → Elements ld d (vtBits t) o.mask.toNat (fun i =>
        if plainBank b then (runElem s.scratch base (vtBits t) i, 0) else loadedAs t vf o.rm b (runElem s.scratch base eb i)))
      ∧ (plainBank b = true → Stores st .scratch s.scratch base (vtBits t) (vtCount t) o.mask.toNat (fun i => (el reg d t i, 0)))
      ∧ (plainBank b = false → Stores st .scratch s.scratch base eb (vtCount t) o.mask.toNat (fun i => storedAs t vf b (el reg d t i))))

/-- R131, R132: `vldx.t` and `vstx.t` reach one element for each active index, at the base and the index times the bank's element size, after the
checks of R130; the later of two stores to one place stands.
With no active element and a base outside the scratchpad the fault is the model's choice (log 49). -/
def IndexedVectorAccesses : Prop :=
  ∀ (s : State) (o : Op) (reg : Fin 32 → VReg) (d a x : Fin 32) (t : VT) (k : Fin 4) (m : Mark) (c : Ctx) (j : Job),
    s.ctxs.get? o.ctx = some c → s.job? c.job = some j → t ∈ [VT.i16, .i32, .f32, .bf16, .f16] →
    let ea := o.a.toNat
    let vf := o.vfmt.toNat
    let mask := o.mask.toNat
    let b := bankOf o ea
    let es := max 1 (bankBits b / 8)
    let at_ (i : Nat) : Nat := ea + elemGet (reg x) 16 i * es
    let on (i : Nat) : Prop := i < vtCount t ∧ mask.testBit i = true
    let flat (i : Nat) : Nat := scratchAddr c.job (c.vcore / 8) (at_ i)
    let ld := vectorEffect s o (.vldxT d a x t k m) reg
    let st := vectorEffect s o (.vstxT d a x t k m) reg
    let fits : Prop := ∀ i, on i → at_ i + es ≤ min 0x100000 (65536 * j.tbanks)
    let oneFormat : Prop := descValid b = true ∧ bankBits b ≠ 4 ∧ ∀ i, on i → (o.fmts.getD (at_ i / 65536) 0).toNat = b
    (¬fits → FaultsWith ld .taddr ea ∧ FaultsWith st .taddr ea)
    ∧ (fits → ea % es ≠ 0 → FaultsWith ld .align ea ∧ FaultsWith st .align ea)
    ∧ (fits → ea % es = 0 → ¬oneFormat → FaultsWith ld .bankfmt ea ∧ FaultsWith st .bankfmt ea)
    ∧ (fits → ea % es = 0 → oneFormat →
      (s.writes = [] → s.eccScratch = [] → Elements ld d (vtBits t) mask (fun i =>
        let bits := leNat (s.scratch.read (flat i) es)
        if plainBank b then (bits, 0) else loadedAs t vf o.rm b bits))
      ∧ (let f (i : Nat) : Nat × Nat := if plainBank b then (el reg d t i % 256, 0) else storedAs t vf b (el reg d t i)
        st.fault = none ∧ st.outs = [] ∧ FlagsOf st.flags (vtCount t) mask f ∧ (∀ w ∈ st.writes, w.space = .scratch)
        ∧ (s.scratch.wf = true →
          (∀ i, on i → (∀ i', on i' → i < i' → at_ i' ≠ at_ i) → leNat ((stored st s.scratch).read (flat i) es) = (f i).1 % 2 ^ (8 * es))
          ∧ ∀ p, (∀ i, on i → p < flat i ∨ flat i + es ≤ p) → (stored st s.scratch).get p = s.scratch.get p)))

end Sys2Proof.Stated

/-- What the vector unit and the SFU compute from the registers an operation reads, and what its loads and stores move (R34, R36, R37, R46, R51,
R113, R114, R121 to R137).
R114: a written vector register holds the new value in the elements its mask names and its old content in the others.
Where it rests on log 48 and log 49 it states the model's choice. -/
def Obligations.VectorElementResults : Prop :=
  Stated.IntegerElements ∧ Stated.FloatElements ∧ Stated.MovedElements ∧ Stated.ComparedElements ∧ Stated.ConvertedElements
  ∧ Stated.ReducedElements ∧ Stated.TernaryElements ∧ Stated.SpecialFunctionElements
  ∧ Stated.LocalVectorAccesses ∧ Stated.TileVectorAccesses ∧ Stated.IndexedVectorAccesses
  ∧ (∀ (w act : Nat) (old new : VReg) (i : Nat), w ∈ [4, 8, 16, 32] → i < 4096 / w →
     elemGet (mergeElems w act old new) w i = if act.testBit i then elemGet new w i else elemGet old w i)

/-- R27, R116, R119, R290: where a lane group is free and a core's queue head may start, the arbiter binds one head: it has started in this
clk, it is in no queue any more, and what it comes to is pending in its context, or with a start-time fault that is noted and nothing is.
Where it rests on log 12 it states the model's choice. -/
def Obligations.VectorStart : Prop :=
  ∀ (s : State) (tile lane : Nat), lane < 4 → laneFree s tile lane = true →
    (∃ c o i, c < 8 ∧ headOp s (8 * tile + c) = some (o, i)) →
    (∀ c o i, c < 8 → headOp s (8 * tile + c) = some (o, i) → occupancy i ≤ 256) →
    ∃ t : State, ∃ c, ∃ o, ∃ i, exec (.vectorOpStart tile) s = .next t ∧ c < 8 ∧ headOp s (8 * tile + c) = some (o, i)
      ∧ (t.core (8 * tile + c)).vqueue = (s.core (8 * tile + c)).vqueue.drop 1 ∧ (t.tile tile).arbLast = c
      ∧ ∃ (p : Op) (l : Nat), t.op? o.id = some p ∧ l < 4 ∧ p.started = true ∧ p.start = s.clk ∧ p.kind = .vector i
          ∧ (let r := startEffect s (begun s o l) i
            (r.fault ≠ none → p.due = s.clk + 1 ∧ p.tgts = [] ∧ p.flags = 0)
            ∧ (r.fault = none → p.due = s.clk + occupancy i + resultLag i ∧ p.flags = r.flags)
            ∧ ∀ c : Ctx, s.ctxs.get? o.ctx = some c → c.task = o.task → c.dying = false → ∃ c' : Ctx, t.ctxs.get? o.ctx = some c'
              ∧ (r.fault = none → c'.pend.filter (fun e => e.op == o.id) = r.outs.map (fun x => ⟨p.due, x.1, x.2, o.id, false, false⟩))
              ∧ (∀ f, r.fault = some f → c.startFault = none → c'.startFault = some (o.id, o.seg, ⟨f.1, 1, 0, f.2⟩)))

namespace Sys2Proof.Stated

/-- The register a result goes to. -/
def vreg? : Target → Option (Fin 32)
  | .v n _ _ => some n
  | _ => none
def sreg? : Target → Option (Fin 32)
  | .s n _ => some n
  | _ => none
def kreg? : Target → Option (Fin 8)
  | .k n => some n
  | _ => none

/-- The results of an operation stand in their registers, each vector register merged by element, and no other register has changed (R28,
R114, R116). -/
def Landed (c c' : Ctx) (rs : List (Target × Nat)) : Prop :=
  (∀ (n : Fin 32) (w act v : Nat), rs.filter (fun e => vreg? e.1 == some n) = [(.v n w act, v)] → n.val < c.v.length →
      c'.v.getD n.val 0 = mergeElems w act (c.v.getD n.val 0) (BitVec.ofNat 4096 v))
    ∧ (∀ n : Fin 32, (∀ e ∈ rs, vreg? e.1 ≠ some n) → c'.v.getD n.val 0 = c.v.getD n.val 0)
    ∧ (∀ (n : Fin 32) (h : Fin 8) (v : Nat), rs.filter (fun e => (sreg? e.1).isSome) = [(.s n h, v)] →
      c'.s = c.s.set n (BitVec.ofNat 64 v) ∧ ((∀ e ∈ rs, entryOf e.1 = some h → e.1 = .s n h) → c'.hist[h] = BitVec.ofNat 64 v))
    ∧ ((∀ e ∈ rs, sreg? e.1 = none) → c'.s = c.s)
    ∧ (∀ (n : Fin 8) (v : Nat), rs.filter (fun e => (kreg? e.1).isSome) = [(.k n, v)] → c'.k = c.k.set n (BitVec.ofNat 1024 v))
    ∧ ((∀ e ∈ rs, kreg? e.1 = none) → c'.k = c.k)

end Sys2Proof.Stated

/-- R26, R28, R29, R114, R116, R118, R120: a started operation of the vector unit or of the SFU with nothing left to ask its banks for completes
once its result is due: its results stand in their registers, be they an s-register with its history entry, a mask, a vector register
or a group of them, its flags are set, and it is outstanding no more.
R116, R132: a chunk that its bank may grant is served: a store's bytes of that chunk are in memory, a load has written none.
Where it rests on log 5 it states the model's choice. -/
def Obligations.VectorCompletion : Prop :=
  (∀ (s : State) (o : Op) (c : Ctx), s.op? o.id = some o → o.id ≠ 0 → o.started = true → o.reqs = [] → o.due ≤ s.clk → o.keeps = [] →
    s.ctxs.get? o.ctx = some c → c.task = o.task → c.dying = false → c.parked = false → c.ending = false → (∀ e ∈ c.pend, e.op ≠ 0) →
    ∀ ev : Instr, ((∃ i, o.kind = .vector i) ∧ ev = .vectorOpComplete o.id) ∨ ((∃ i, o.kind = .sfu i) ∧ ev = .sfuResult o.id) →
    let r := finalResults s o
    (∃ t : State, ∃ c' : Ctx, exec ev s = .next t
      ∧ t.op? o.id = none ∧ t.ctxs.get? o.ctx = some c' ∧ c'.outs = c.outs.filter (fun i => i != o.id)
      ∧ c'.pend = c.pend.filter (fun p => p.op != o.id) ∧ c'.fflags = c.fflags ||| BitVec.ofNat 64 r.2 ∧ c'.m = c.m
      ∧ Stated.Landed c c' r.1)
    ∧ ((∀ i, o.kind = .vector i → isLoad i = false ∨ o.fixed = true) →
        r = ((c.pend.filter (fun p => p.op == o.id)).map (fun p => (p.target, p.value)), o.flags))
    ∧ (∀ i, o.kind = .vector i → isLoad i = true → o.fixed = false → o.tgts ≠ [] →
        let e := vectorEffect s o i (regFrom o.snap)
        e.fault = none → r = (e.outs, e.flags)))
  ∧ (∀ (s : State) (o : Op) (i : Instr) (b : Nat) (rest : List (Option Nat)), s.op? o.id = some o → o.kind = .vector i →
    o.reqs = some b :: rest → o.nextAt ≤ s.clk → bankOpen s (tileOf (coreOf o.ctx)) b (8 + o.lane) = true →
    ∃ t : State, ∃ p : Op, exec (.vectorOpComplete o.id) s = .next t ∧ t.op? o.id = some p ∧ p.reqs = (skipChunks rest).2
      ∧ p.nextAt = s.clk + 1 + (skipChunks rest).1 ∧ s.clk + 1 + rest.length + resultLag i ≤ p.due ∧ t.ctxs = s.ctxs
      ∧ (isStore i = false → t.localMem = s.localMem ∧ t.scratch = s.scratch)
      ∧ (isStore i = true →
        let ws := (vectorEffect s o i (regFrom o.snap)).writes.filter (fun w => w.chunk == chunkCount i - o.reqs.length)
        ((∀ w ∈ ws, w.space = .scratch) → (∀ w ∈ s.writes, w.acc = o.acc → w.space ≠ .loc) →
          t.scratch = ws.foldl (fun m w => m.write w.addr w.bytes) s.scratch ∧ t.localMem = s.localMem)
        ∧ ((∀ w ∈ ws, w.space = .loc) → s.writes = [] →
          t.localMem = ws.foldl (fun m w => m.write w.addr w.bytes) s.localMem ∧ t.scratch = s.scratch)))

/-- R118: the SFU serves the head of its tile's queue once it is free and the head has stood for a clk: the head has left the queue and
started, and the SFU is taken for n(T)/8 clk, its result being due 12 clk after them; a source register with an uncorrectable error
takes it for one clk instead.
Where it rests on log 5 it states the model's choice. -/
def Obligations.SfuService : Prop :=
  ∀ (s : State) (tile : Nat) (o : Op) (rest : List Nat) (i : Instr) (fn : SfuFn) (t : VT) (d a : Fin 32),
    (s.tile tile).sfu = o.id :: rest → s.op? o.id = some o → o.kind = .sfu i → sfuOf i = some (fn, t, d, a) →
    (s.tile tile).sfuEnd ≤ s.clk → o.issued < s.clk →
    ∃ w p, exec (.sfuServiceStart tile) s = .next w ∧ (w.tile tile).sfu = rest ∧ w.op? o.id = some p ∧ p.started = true ∧ p.start = s.clk
      ∧ ((s.ctxs.getD o.ctx Ctx.idle).ecc = [] →
          (w.tile tile).sfuEnd = s.clk + 4096 / vtBits t / 8 ∧ p.due = s.clk + 4096 / vtBits t / 8 + 12)

namespace Sys2Proof.Stated

/-! ## Command blocks -/

/-- An instruction that takes a command block and weight and makes one request (R175, R179): its block's length, the place of its
completion word, what it asks for, the checks of its fields beside that word, whether ACQ and REL must be 0, the smallest scope its
access joins (none where it is no access), where it leaves for, whether it is privileged, and the class in which it leaves (R234). -/
structure Command where
  i : Name → Name → Mark → Instr
  n : List Word → Nat
  cm : Nat
  kind : List Word → ReqKind
  ok : Job → List Word → Prop
  plain : Bool
  scope : State → List Word → Option Scope
  dst : State → Job → List Word → Endpoint
  privileged : Bool
  cls : Machine.Class := .request

/-- `grd` and `gwr` (R187): `l` names the scratchpad side. -/
def blockCommand (wr_ q l : Bool) : Command where
  i := if wr_ then fun a b => .gwr a b q l else fun a b => .grd a b q l
  n := fun _ => 5
  cm := 3
  kind := fun w => if wr_ then .gwr (wordAt w 0) (wordAt w 1) (wordAt w 2) l else .grd (wordAt w 0) (wordAt w 1) (wordAt w 2) l q
  ok := fun j w => wordAt w 0 < 2 ^ 52 ∧ 1 ≤ wordAt w 2 ∧ wordAt w 1 < (if l then 2 ^ 20 else 2 ^ 16)
    ∧ wordAt w 1 + wordAt w 2 ≤ (if l then min 0x100000 (65536 * j.tbanks) else min 0x10000 (4096 * j.lsize))
  plain := true
  scope := fun _ _ => some .die
  dst := fun s _ _ => entryStation s.myTile
  privileged := false

/-- A near-memory operation (R190 to R195). -/
def nearCommand (i : Name → Name → Mark → Instr) (f : Nat) : Command where
  i := i
  n := fun w => nearWords f (fieldOf (wordAt w 0) 15 4)
  cm := 2
  kind := fun w => .near f w
  ok := fun _ w => nearCtlOk f (wordAt w 0) = true ∧ (f = 5 → chaseOk (wordAt w 5) = true)
  plain := false
  scope := fun s w => some (if (nearFar s w).isSome then .system else .die)
  dst := fun s _ w => if (nearFar s w).isSome then .west (s.myTile / 128) else entryStation s.myTile
  privileged := false

/-- The context unit that serves a future request: that of the issuer's die for `fnew`, else of the handle's (R228, R229). -/
def futureUnit (s : State) (f : Nat) (w : List Word) : Nat := if f = 0 then s.myTile % 128 / 16 else fieldOf (wordAt w 0) 14 3

/-- A future instruction (R228). -/
def futureCommand (i : Name → Name → Mark → Instr) (f n cm : Nat) : Command where
  i := i
  n := fun _ => n
  cm := cm
  kind := fun w => .future f w
  ok := fun _ w => if f = 0 then (w.getD 0 0).toNat.testBit 26 = false
    else fieldOf (wordAt w 0) 17 15 = 0 ∧ fieldOf (wordAt w 0) 48 15 = 0 ∧ (wordAt w 0).testBit 63 = true
  plain := false
  scope := fun s w => some (if futureUnit s f w = s.myTile % 128 / 16 then .die else .device)
  dst := fun s _ w => .unit (futureUnit s f w)
  privileged := false

/-- What `nrdef` asks of its block (R223). -/
def DefinitionOk (j : Job) (w : List Word) : Prop :=
  fieldOf (wordAt w 0) 56 8 = 0 ∧ 1 ≤ ndNt w ∧ ndNt w ≤ 256 ∧ ndMask w ≠ 0 ∧ ndOp w ≠ 3 ∧ 1 ≤ ndElems w ∧ ndElems w ≤ 32
    ∧ ndT0 w + ndNt w ≤ j.vtiles ∧ ndRoot w < 8 * j.vtiles ∧ 1 ≤ wordAt w 1 ∧ wordAt w 1 < 2 ^ 32 ∧ wordAt w 2 < 2 ^ 16
    ∧ ndDest w % 4 = 0 ∧ ndDest w + 4 * ndElems w ≤ 0x10000 ∧ cmsgOk j (w.getD 3 0) false = true

/-- A request to the launch unit (R286, R352). -/
def unitCommand (i : Name → Name → Mark → Instr) (n cm : Nat) (kind : List Word → ReqKind) (ok : List Word → Prop) (scope : Option Scope)
    (privileged : Bool) (cls : Machine.Class) : Command :=
  ⟨i, fun _ => n, cm, kind, fun _ => ok, false, fun _ _ => scope, fun s _ _ => .west (s.myTile / 128), privileged, cls⟩

/-- Every instruction of this shape. -/
def commands : List Command :=
  [false, true].flatMap (fun wr_ => [false, true].flatMap (fun q => [false, true].map (fun l => blockCommand wr_ q l)))
    ++ [nearCommand .nearAtomAdd 0, nearCommand .nearAtomMax 1, nearCommand .nearAtomCas 2, nearCommand .nearCas4 3, nearCommand .nearEnq 4,
        nearCommand .nearChase 5, nearCommand .nearRedAddF32 6, nearCommand .nearRedMaxF32 7, nearCommand .nearRedAddI32 8,
        nearCommand .nearXswap 9,
        futureCommand .fnew 0 2 0, futureCommand .fset 1 4 2, futureCommand .fwait 2 3 1, futureCommand .ffree 3 3 1,
        futureCommand .fpeek 4 3 1,
        ⟨.nrdef, fun _ => 7, 5, .nrdef, DefinitionOk, false, fun _ _ => some .device, fun _ j w => .ni (j.tile (ndRoot w / 8)), false, .request⟩,
        ⟨.nrfree, fun _ => 3, 1, .nrfree, fun _ w => wordAt w 0 < 64, false, fun _ _ => some .device, fun s j w =>
          match j.ndef (wordAt w 0) with
          | some d => .ni (j.tile (ndRoot d.block / 8))
          | none => .ni s.myTile, false, .request⟩,
        unitCommand .launch 3 1 (fun w => .launch (wordAt w 0)) (fun w => wordAt w 0 % 64 = 0 ∧ wordAt w 0 < 2 ^ 52) (some .die) false .request,
        unitCommand .sysCtxsave 4 2 (fun w => .ctxsave (wordAt w 0) (wordAt w 1)) (fun w => wordAt w 0 < 1024) none true .management,
        unitCommand .sysCtxload 3 1 (fun w => .ctxload (wordAt w 0)) (fun _ => True) none true .management]

/-- The NI has room for a command, and the counts for its access (R182, R248). -/
def HasRoom (s : State) : Option Scope → Prop
  | some sc => Room s sc
  | none => s.niFull s.myCore = false

/-- Everything a command asks before its weight: its mode, its block and the block's fields, and room. -/
def Command.Ready (c : Command) (s : State) (j : Job) (a : Name) (w : List Word) : Prop :=
  Plain s 4 ∧ s.myJob = some j ∧ (c.privileged = true → s.me.privileged = true) ∧ BlockIs s a (c.n w) w ∧ c.ok j w
    ∧ cmsgOk j (w.getD c.cm 0) c.plain = true ∧ HasRoom s (c.scope s w)

/-! ## Sends -/

/-- The device a send's block names, where it is another one (R183). -/
def farOf (s : State) (w : List Word) : Option Nat :=
  if (wordAt w 1).testBit 12 ∧ fieldOf (wordAt w 1) 0 12 ≠ s.devid then some (fieldOf (wordAt w 1) 0 12) else none

/-- What a send asks of its block (R139, R140, R143, R183): for a target on this device a virtual core and a valid class of the job,
whose routine holds no vector registers for `send.rop`; `send.draw` takes no other device. -/
def SendOk (s : State) (j : Job) (w : List Word) (rop draw : Bool) : Prop :=
  wordAt w 1 < 2 ^ 17 ∧ fieldOf (wordAt w 1) 14 3 ≤ 5 ∧ (draw = true → farOf s w = none)
    ∧ (farOf s w = none → fieldOf (wordAt w 0) 14 2 ≠ 3 ∧ fieldOf (wordAt w 0) 0 14 < 8 * j.vtiles
        ∧ (fieldOf (wordAt w 0) 14 2 = 0 ∨ fieldOf (wordAt w 0) 26 4 ≠ 0)
        ∧ ∃ e, j.routine? (fieldOf (wordAt w 0) 16 8) = some e ∧ (rop = true → fieldOf e.1.toNat 17 6 = 0))

/-- What a send asks beside its weight. -/
def SendReady (s : State) (len : Nat) (j : Job) (a : Name) (w : List Word) (o rop draw : Bool) : Prop :=
  Plain s len ∧ s.myJob = some j ∧ BlockIs s a (2 + fieldOf (wordAt w 0) 26 4) w ∧ SendOk s j w rop draw
    ∧ Room s ((formSend s j w o rop).scope s.myTile)

/-- From s to t the NI has formed a message of the issuing task (R138, R184): the low 30 bits of the block's header, KIND, and the
weight it carries; and keeps it, waiting to leave. -/
def Sent (s t : State) (w : List Word) (o rop : Bool) (weight draw : Nat) : Prop :=
  ∃ x : OutMsg, t.outs = s.outs ++ [x] ∧ x.msg.hdr = BitVec.ofNat 64 (wordAt w 0 % 2 ^ 30 + (if rop then 2 ^ 30 else 0) + 2 ^ 32 * weight)
    ∧ x.msg.args = w.drop 2 ∧ x.msg.job = s.me.job ∧ x.msg.srcV = s.me.vcore ∧ x.msg.ord = o ∧ x.src = .ni s.myTile ∧ x.draw = draw
    ∧ x.far = farOf s w ∧ x.state = .flying
    ∧ ∃ p : Packet, t.packets.getLast? = some p ∧ p.body = .message x.id ∧ p.src = .ni s.myTile ∧ p.queue = s.myCore + 1 ∧ p.pos = .source

end Sys2Proof.Stated

/-! ## Weight, messages and requests (chapters 8 to 12, 17) -/

/-- R271: `wgt.wget` and `wgt.wtotal` write the task's weight and the device's W of the job, and change no weight. -/
def Obligations.WeightReads : Prop :=
  ∀ (s : State) (m : Mark) (d : Name) (j : Job), Plain s 4 → writable d = true → s.myJob = some j →
    Completes (.wgtWget d m) m s (wr s d (BitVec.ofNat 64 s.me.wt) 1) .next
    ∧ Completes (.wgtWtotal d m) m s (wr s d (BitVec.ofNat 64 (1 <<< j.wtotal)) 1) .next
    ∧ ∀ v, (wr s d v 1).me.wt = s.me.wt ∧ (wr s d v 1).jobs = s.jobs ∧ (wr s d v 1).tasks = s.tasks

/-- R176, R177, R261, R262, R272 to R274: `wgt.wret` sends a pod, `wgt.qarm` and `wgt.qdisarm` join the task's hold and go to the
home, and `wgt.wcensus` and `wgt.wloss` are requests to it; `wgt.wcensus` is privileged.
Where it rests on log 30 it states the model's choice. -/
def Obligations.WeightInstructions : Prop :=
  ∀ (s : State) (m : Mark) (a b : Name) (j : Job), Plain s 4 → s.myJob = some j →
    (Sound s a → let v := (value s 0 a).toNat
      (v = 0 ∨ s.me.wt < v → Traps (.wgtWret a m) s .weight (BitVec.ofNat 64 v))
      ∧ (1 ≤ v → v ≤ s.me.wt → j.census = none → ∃ t : State, Completes (.wgtWret a m) m s t .next ∧ t.me = { s.me with wt := s.me.wt - v }
          ∧ ∃ p : Packet, t.packets = s.packets ++ [p] ∧ p.cls = .weight ∧ p.src = .ni s.myTile ∧ p.dst = .unit j.die
            ∧ p.body = .pod s.me.job v false false))
    ∧ (Sound s a → Sound s b →
      let x := (value s 0 a).toNat
      let c := (value s 1 b).toNat
      let ok : Prop := c ≤ 255 ∧ x < 8 * j.vtiles ∧ (j.routine? c).isSome = true
      (¬ok → Traps (.wgtQarm a b m) s .illopnd 0)
      ∧ (ok → s.niFull s.myCore = false → Holds s → ∃ t : State, Completes (.wgtQarm a b m) m s t .next ∧ HoldJoined s t
          ∧ Leaves s t .request (.unit j.die) (· = .arm s.me.job s.me.task x c))
      ∧ (ok → s.niFull s.myCore = false → ¬Holds s → Traps (.wgtQarm a b m) s .weight 1))
    ∧ (s.niFull s.myCore = false → (Holds s → ∃ t : State, Completes (.wgtQdisarm m) m s t .next ∧ HoldJoined s t
          ∧ Leaves s t .request (.unit j.die) (· = .disarm s.me.job s.me.task))
        ∧ (¬Holds s → Traps (.wgtQdisarm m) s .weight 1))
    ∧ (s.me.privileged = false → Traps (.wgtWcensus a b m) s .priv 0)
    ∧ (Sound s a → Sound s b →
      let c := value s 0 a
      let v := (value s 1 b).toNat
      cmsgOk j c false = true → fieldOf c.toNat 27 5 = 0 → s.niFull s.myCore = false → 1 ≤ v → v ≤ s.me.wt →
        (s.me.privileged = true → ∃ t : State, Completes (.wgtWcensus a b m) m s t .next ∧ Requested s t .census v ⟨c, 0⟩ .request (.unit j.die))
        ∧ (c.toNat.testBit 26 = false → ∃ t : State, Completes (.wgtWloss a b m) m s t .next ∧ Requested s t .wloss v ⟨c, 0⟩ .request (.unit j.die)))

/-- R176, R177, R183, R184: the sends form a message that carries the weight the task gives: rd(B), half of what it holds, or none for
`send.draw`, whose units the home attaches and which joins the hold. A weight the task cannot give faults WEIGHT. -/
def Obligations.Sends : Prop :=
  ∀ (s : State) (m : Mark) (a b : Name) (o : Bool) (j : Job) (w : List Word) (v : Nat),
    (∀ rop, Stated.SendReady s 4 j a w o rop false → Sound s b → (value s 60 b).toNat = v →
      let i : Instr := if rop then .sendRop a b o m else .send a b o m
      (1 ≤ v → v ≤ s.me.wt → v < 2 ^ 32 → ∃ t : State, Completes i m s t .next ∧ t.me = { s.me with wt := s.me.wt - v }
        ∧ Stated.Sent s t w o rop v 0)
      ∧ (v = 0 ∨ s.me.wt < v → Traps i s .weight (BitVec.ofNat 64 v)))
    ∧ (Stated.SendReady s 4 j a w o false false →
      (2 ≤ s.me.wt → s.me.wt < 2 ^ 32 → ∃ t : State, Completes (.sendHalf a o m) m s t .next
        ∧ t.me = { s.me with wt := s.me.wt - s.me.wt / 2 } ∧ Stated.Sent s t w o false (s.me.wt / 2) 0)
      ∧ (s.me.wt < 2 → Traps (.sendHalf a o m) s .weight 0))
    ∧ (∀ (x : Fin 32) (mk : Bool), Stated.SendReady s 2 j (.s x) w false false false → 2 ≤ s.me.wt → s.me.wt < 2 ^ 32 →
      ∃ t : State, exec (.compactSendHalf x mk) s = .next (after s t 2 0 mk .next) ∧ t.me = { s.me with wt := s.me.wt - s.me.wt / 2 }
        ∧ Stated.Sent s t w false false (s.me.wt / 2) 0)
    ∧ (Stated.SendReady s 4 j a w o false true → Sound s b → (value s 60 b).toNat = v →
      (1 ≤ v → v ≤ 2 ^ j.wtotal → Holds s → ∃ t : State, Completes (.sendDraw a b o m) m s t .next ∧ HoldJoined s t ∧ Stated.Sent s t w o false 0 v)
      ∧ (v = 0 ∨ 2 ^ j.wtotal < v → Traps (.sendDraw a b o m) s .weight (BitVec.ofNat 64 v)))

/-- R175 to R179, R187, R190, R223, R224, R228, R286, R352: an instruction that takes a command block makes one request with the weight
in B, which its task gives away. A weight it cannot give faults WEIGHT, a block that leaves the registers ILLOPND, and a privileged one
in an unprivileged task PRIV.
R187, R188: a `grd` or `gwr` whose range leaves what the tile gives the job completes at once, its status LADDR or TADDR and COUNT 0,
and its weight goes on with that completion. -/
def Obligations.BlockCommands : Prop :=
  (∀ c ∈ Stated.commands, ∀ (s : State) (m : Mark) (a b : Name) (j : Job) (w : List Word) (v : Nat),
     (c.Ready s j a w → Gives s b v →
       ∃ t : State, Completes (c.i a b m) m s t .next ∧ Requested s t (c.kind w) v ⟨w.getD c.cm 0, w.getD (c.cm + 1) 0⟩ c.cls (c.dst s j w))
     ∧ (c.Ready s j a w → Sound s b → (value s 60 b).toNat = v → (v = 0 ∨ s.me.wt < v) →
       Traps (c.i a b m) s .weight (BitVec.ofNat 64 v))
     ∧ (Plain s 4 → s.myJob = some j → (c.privileged = true → s.me.privileged = true) → (∀ r, a ≠ .s r) →
       Traps (c.i a b m) s .illopnd 0)
     ∧ (Plain s 4 → c.privileged = true → s.me.privileged = false → Traps (c.i a b m) s .priv 0))
  ∧ (∀ (s : State) (m : Mark) (a b : Name) (q l wr_ : Bool) (j : Job) (w : List Word) (v : Nat), Plain s 4 → s.myJob = some j →
     BlockIs s a 5 w → Gives s b v → Room s .die → cmsgOk j (w.getD 3 0) true = true → (wordAt w 3).testBit 26 = false →
     wordAt w 0 < 2 ^ 52 → wordAt w 1 < (if l then 2 ^ 20 else 2 ^ 16) → 1 ≤ wordAt w 2 →
     wordAt w 2 ≤ (if l then 2 ^ 20 else 2 ^ 16) →
     (if l then min 0x100000 (65536 * j.tbanks) else min 0x10000 (4096 * j.lsize)) < wordAt w 1 + wordAt w 2 →
     ∃ t : State, Completes (if wr_ then .gwr a b q l m else .grd a b q l m) m s t .next ∧ t.me = { s.me with wt := s.me.wt - v }
       ∧ t.reqs = s.reqs.filter (fun q => q.id != s.serial + 1) ∧ ∃ x : OutMsg, t.outs = s.outs ++ [x] ∧ x.msg.args = [BitVec.ofNat 64 (if l then 2 else 1), w.getD 4 0]
         ∧ hdrWeight x.msg.hdr = v % 2 ^ 32)

/-- R177, R189: `gst` joins the hold of its task and leaves for global memory with the low bytes of D, which names any source; no memory
has changed yet. -/
def Obligations.PostedGlobalStore : Prop :=
  ∀ (s : State) (m : Mark) (d a : Name) (o : BitVec 6) (z : Size) (q : Bool), s.me.limm.length ≤ 2 → Fits s 4 → Sound s a →
    readable d = true →
    let size : Nat := 2 ^ z.code
    let ea := Stated.address s (value s 0 a) o z
    (ea % size ≠ 0 → Traps (.gst d a o z q m) s .align (BitVec.ofInt 64 ea))
    ∧ (ea % size = 0 → Clean s d → Room s .die →
      (Holds s → ∃ t : State, Completes (.gst d a o z q m) m s t .next ∧ HoldJoined s t
        ∧ Leaves s t .request (entryStation s.myTile) (fun x => ∃ y : Access, x = .access y ∧ y.kind = .store ∧ y.job = s.me.job
            ∧ y.task = s.me.task ∧ y.va = (if ea < 0 then 2 ^ 52 else ea.toNat) ∧ y.len = size ∧ y.rel.isSome = q
            ∧ y.data = (List.range size).map (fun i => BitVec.ofNat 8 ((value s 1 d).toNat / 256 ^ i)))
        ∧ t.count s.me.task .die = s.count s.me.task .die + 1 ∧ t.hbm = s.hbm)
      ∧ (¬Holds s → Traps (.gst d a o z q m) s .weight 1))

/-- R196, R202: a copy command enters its core's FIFO of eight and writes its transfer identifier, or writes 0 where the FIFO is full;
`cqry` and `cpy.cancel` write the state word the core keeps of a transfer.
Where it rests on log 29 it states the model's choice. -/
def Obligations.CopyCommands : Prop :=
  ∀ (s : State) (m : Mark) (d a b : Name) (j : Job) (w : List Word) (v : Nat) (walk : Bool), Plain s 4 → s.myJob = some j →
    writable d = true →
    (let n := if walk then 4 else 6
     let i : Instr := if walk then .cpyWalk d a b m else .cpy d a b m
     let chan := fieldOf (wordAt w 0) 4 2
     let seq := (s.chan s.myCore s.me.job chan).next
     BlockIs s a n w → copyCtlOk (wordAt w 0) = true →
     (if walk then wordAt w 1 % 8 = 0 ∧ wordAt w 1 + 128 ≤ min 0x10000 (4096 * j.lsize) else wordAt w 3 < 2 ^ 32) →
     cmsgOk j (w.getD (n - 2) 0) false = true → s.countFull s.me.task (copyScope s (wordAt w 0)) = false → Gives s b v →
     (fifoLen s s.myCore < 8 → ∃ t : State, Completes i m s (wr t d (BitVec.ofNat 64 (2 ^ 63 + 2 ^ 32 * chan + seq)) 1) .next
        ∧ t.me = { s.me with wt := s.me.wt - v } ∧ NewRequest s t (.copy walk w chan seq) v ⟨w.getD (n - 2) 0, w.getD (n - 1) 0⟩
        ∧ (t.core s.myCore).fifo.length = (s.core s.myCore).fifo.length + 1
        ∧ (t.chan s.myCore s.me.job chan).next = (if seq + 1 < 2 ^ 32 then seq + 1 else 1))
     ∧ (8 ≤ fifoLen s s.myCore → Completes i m s (wr s d 0 1) .next))
    ∧ (Sound s a →
       let id := (value s 0 a).toNat
       let k := s.chan s.myCore s.me.job (fieldOf id 32 2)
       (id.testBit 63 = false ∨ fieldOf id 34 29 ≠ 0 → Completes (.cqry d a m) m s (wr s d 0 1) .next
          ∧ Completes (.cpyCancel d a m) m s (wr s d 0 1) .next)
       ∧ (id.testBit 63 = true → fieldOf id 34 29 = 0 → k.states.find? (fun e => e.1 == id % 2 ^ 32) = none →
          let done := 1 ≤ id % 2 ^ 32 ∧ id % 2 ^ 32 ≤ k.done
          Completes (.cqry d a m) m s (wr s d (if done then 3 else 0) 1) .next)
       ∧ (∀ code count, id.testBit 63 = true → fieldOf id 34 29 = 0 →
          k.states.find? (fun e => e.1 == id % 2 ^ 32) = some (id % 2 ^ 32, 3, code, count) →
          Completes (.cqry d a m) m s (wr s d (BitVec.ofNat 64 (3 + 256 * code + 65536 * (count % 2 ^ 32))) 1) .next)
       ∧ (∃ x, ∃ t : State, Completes (.cqry d a m) m s (wr s d x 1) .next ∧ Completes (.cpyCancel d a m) m s t .next
          ∧ t.me = (wr s d x 1).me
          ∧ ((∀ r ∈ s.reqs, r.core = s.myCore → r.job = s.me.job → ∀ k b c q, r.kind ≠ .copy k b c q) → t = wr s d x 1)))

/-- R208 to R214: `tmm` and `xchg` enter their tile's queue with the weight in B, or write 0 where it is full and take none; `tstat`
writes the status word the core keeps of a job, and `tabort` the one it keeps before the abort.
Where it rests on log 23 it states the model's choice. -/
def Obligations.ArrayAndExchangeCommands : Prop :=
  ∀ (s : State) (m : Mark) (d a b : Name) (j : Job) (w : List Word) (v : Nat), Plain s 4 → s.myJob = some j → writable d = true →
    (BlockIs s a 10 w → tmCheck j w = .ok () → s.countFull s.me.task .tile = false → Gives s b v →
      let seq := (s.arrSeq s.myCore s.me.job).next
      (16 ≤ (s.tile s.myTile).arrayQ.length → Completes (.tmm d a b m) m s (wr s d 0 2) .next)
      ∧ ((s.tile s.myTile).arrayQ.length < 16 → ∃ t : State, Completes (.tmm d a b m) m s (wr t d (BitVec.ofNat 64 (2 ^ 63 + seq)) 2) .next
          ∧ t.me = { s.me with wt := s.me.wt - v } ∧ (t.tile s.myTile).arrayQ.length = (s.tile s.myTile).arrayQ.length + 1
          ∧ (∃ x ∈ (t.tile s.myTile).arrayQ, x.seq = seq ∧ x.job = s.me.job ∧ x.core = s.myCore ∧ x.task = s.me.task ∧ x.v = v ∧ x.block = w)
          ∧ (t.arrSeq s.myCore s.me.job).next = (if seq = 2 ^ 32 - 1 then 1 else seq + 1)
          ∧ t.count s.me.task .tile = s.count s.me.task .tile + 1))
    ∧ (BlockIs s a 7 w → xcCheck j (s.me.vcore / 8) w = .ok () → s.countFull s.me.task (xcScope j w) = false → Gives s b v →
      (4 ≤ (s.tile s.myTile).xqueue.length → Completes (.xchg d a b m) m s (wr s d 0 2) .next)
      ∧ ((s.tile s.myTile).xqueue.length < 4 → ∃ t : State, ∃ x : Exchange, Completes (.xchg d a b m) m s (wr t d 1 2) .next
          ∧ t.me = { s.me with wt := s.me.wt - v } ∧ (t.tile s.myTile).xqueue = (s.tile s.myTile).xqueue ++ [x] ∧ x.job = s.me.job
          ∧ x.core = s.myCore ∧ x.task = s.me.task ∧ x.v = v ∧ x.block = w ∧ x.cm = ⟨w.getD 5 0, w.getD 6 0⟩))
    ∧ (Sound s a →
      let id := (value s 0 a).toNat
      let seq := id % 2 ^ 32
      let word : Word := if id.testBit 63 = true ∧ fieldOf id 32 31 = 0 then Map.getD (s.arrSeq s.myCore s.me.job).words seq 0 else 0
      let mine (x : ArrayJob) : Prop := x.core = s.myCore ∧ x.job = s.me.job ∧ x.seq = seq
      Completes (.tstat d a m) m s (wr s d word 2) .next
      ∧ (word = 0 → Completes (.tabort d a m) m s (wr s d 0 2) .next)
      ∧ (word ≠ 0 → (∀ x ∈ (s.tile s.myTile).arrayQ, ¬mine x) → (∀ r, (s.tile s.myTile).arrayRun = some r → ¬mine r.job) →
          Completes (.tabort d a m) m s (wr s d word 2) .next)
      ∧ (word ≠ 0 → ∀ x, (s.tile s.myTile).arrayQ = [x] → mine x → x.post = 0 →
          ∃ t : State, Completes (.tabort d a m) m s (wr t d word 2) .next ∧ (t.tile s.myTile).arrayQ = [] ∧ t.me = s.me))

/-- R217: `trg.alloc` gives the job the lowest counter that no job holds, at 0, and writes its number, or all ones where none is free;
`trg.free` frees a counter of the job, the entries posted on it are removed, and the weight of each goes home as a pod, which a node that
has sent its marker to a census keeps until that ends (R267); a counter the job does not hold is left as it is. -/
def Obligations.TriggerAllocation : Prop :=
  ∀ (s : State) (m : Mark) (d a : Name), Plain s 4 →
    (writable d = true →
      (∀ c : Fin 64, (s.counter s.myTile c.val).owner = none → (∀ e, e < c.val → (s.counter s.myTile e).owner ≠ none) →
        ∃ t : State, Completes (.trgAlloc d m) m s (wr t d (BitVec.ofNat 64 c.val) 2) .next ∧ t.me = s.me
          ∧ t.counter s.myTile c.val = ⟨some s.me.job, 0, none⟩ ∧ ∀ e, e ≠ c.val → t.counter s.myTile e = s.counter s.myTile e)
      ∧ ((∀ e, e < 64 → (s.counter s.myTile e).owner ≠ none) → Completes (.trgAlloc d m) m s (wr s d 0xFFFFFFFFFFFFFFFF 2) .next))
    ∧ (Sound s a →
      let c := (value s 0 a).toNat
      (64 ≤ c → Traps (.trgFree a m) s .illopnd 0)
      ∧ (c < 64 → (s.counter s.myTile c).owner ≠ some s.me.job → Completes (.trgFree a m) m s s .next)
      ∧ (c < 64 → (s.counter s.myTile c).owner = some s.me.job → ∀ j, s.myJob = some j →
        let gone := (s.tile s.myTile).posted.filter (fun p => p.job == s.me.job && p.ctr == c && p.v != 0)
        let kept : Prop := ∃ x, j.census = some x ∧ x.sent.contains (.ni s.myTile) = true
        ∃ t : State, Completes (.trgFree a m) m s t .next ∧ t.me = s.me ∧ (t.counter s.myTile c).owner = none
          ∧ (∀ e, e ≠ c → t.counter s.myTile e = s.counter s.myTile e)
          ∧ (t.tile s.myTile).posted = (s.tile s.myTile).posted.filter (fun p => !(p.job == s.me.job && p.ctr == c))
          ∧ (¬kept → (t.packets.drop s.packets.length).map (·.body) = gone.map (fun p => .pod s.me.job p.v false false))
          ∧ (∀ x, j.census = some x → kept → t.packets = s.packets ∧ ∃ j' : Job, ∃ x', t.job? s.me.job = some j' ∧ j'.census = some x'
              ∧ x'.heldPods = x.heldPods ++ gone.map (fun p => (p.v, false, false)))))

/-- R218 to R222: `trg.read` writes the value of a counter the job holds, and 0 for another; a local `trg.add` and a `trg.cancel` reach
the trigger unit in the next clk; a remote `trg.add` joins the hold and leaves in the trigger class; `trg.post` takes the lowest free
entry and writes its handle, or faults TRIGFULL where none is free.
Where it rests on log 26 it states the model's choice. -/
def Obligations.TriggerCommands : Prop :=
  ∀ (s : State) (m : Mark) (d a b : Name) (j : Job), Plain s 4 → s.myJob = some j →
    (writable d = true → Sound s a → (value s 0 a).toNat < 64 →
      s.overlapping s.me.task .core [counterLoc s.me.job s.me.vcore (value s 0 a).toNat] = [] →
      let c := s.counter s.myTile (value s 0 a).toNat
      Completes (.trgRead d a m) m s (wr s d (if c.owner = some s.me.job then BitVec.ofNat 64 c.value else 0) 2) .next)
    ∧ (writable d = true → Sound s a → ∃ t : State, ∃ r : Rise, Completes (.trgCancel d a m) m s t .next ∧ t.me = (wr s d 0 2).me
        ∧ (t.tile s.myTile).rises = (s.tile s.myTile).rises ++ [r] ∧ r.at_ = s.clk + 1 ∧ r.job = s.me.job
        ∧ r.cancel = some ⟨s.cur, s.me.task, (value s 0 a).toNat, targetOf s.me d⟩)
    ∧ (Sound s a → Sound s b →
      let c := (value s 0 a).toNat
      let v := (value s 1 b).toNat
      let vt := fieldOf c 6 11
      (2 ^ 22 ≤ c ∨ 5 < fieldOf c 19 3 ∨ 2 ^ 32 ≤ v ∨ (c.testBit 17 = true ∧ j.vtiles ≤ vt) → Traps (.trgAdd a b m) s .illopnd 0)
      ∧ (c < 2 ^ 22 → fieldOf c 19 3 ≤ 5 → v < 2 ^ 32 →
        (c.testBit 17 = false → s.countFull s.me.task .tile = false → ∃ t : State, ∃ r : Rise, Completes (.trgAdd a b m) m s t .next ∧ t.me = s.me
          ∧ (t.tile s.myTile).rises = (s.tile s.myTile).rises ++ [r] ∧ r.at_ = s.clk + 1 ∧ r.job = s.me.job ∧ r.ctr = fieldOf c 0 6
          ∧ r.amount = v ∧ r.cancel = none ∧ r.rel.isSome = c.testBit 18)
        ∧ (c.testBit 17 = true → vt < j.vtiles → Room s (addScope j s.myTile vt) → Holds s → ∃ t : State, Completes (.trgAdd a b m) m s t .next
          ∧ HoldJoined s t ∧ Leaves s t .trigger (.ni (j.tile vt)) (fun x => ∃ (rel : Option Rel) (acc : Nat),
              x = .trgAdd s.me.job vt (fieldOf c 0 6) v s.me.task rel acc 0 ∧ rel.isSome = c.testBit 18))))
    ∧ (∀ (t : Tctl) (w : List Word) (v : Nat), writable d = true → postedBlock s a = .ok (t, w) →
      (s.counter s.myTile t.ctr).owner = some s.me.job → postedCheck s j t w = .ok () → blockOk s a (1 + w.length) = .ok () → Gives s b v →
      (∀ e : Fin 256, (∀ p ∈ (s.tile s.myTile).posted, p.entry ≠ e.val) →
        (∀ f, f < e.val → ∃ p ∈ (s.tile s.myTile).posted, p.entry = f) →
        let gen := (s.tile s.myTile).gens.getD e.val 0
        ∃ u : State, ∃ p : Posted, Completes (.trgPost d a b m) m s (wr u d (BitVec.ofNat 64 (2 ^ 63 + 256 * gen + e.val)) 2) .next
          ∧ u.me = { s.me with wt := s.me.wt - v } ∧ (u.tile s.myTile).posted = (s.tile s.myTile).posted ++ [p] ∧ p.entry = e.val ∧ p.v = v
          ∧ p.job = s.me.job ∧ p.ctr = t.ctr ∧ p.thresh = t.thresh ∧ p.op = t.op ∧ p.block = w)
      ∧ ((∀ f, f < 256 → ∃ p ∈ (s.tile s.myTile).posted, p.entry = f) → Traps (.trgPost d a b m) s .trigfull 0))

/-- R225: `nred` sends its core's contribution, the NELEM words at the local address with the weight in B, to the router of its tile,
or at the root keeps it there; an ID with no definition that includes the core faults NREDCFG.
Where it rests on log 25 it states the model's choice. -/
def Obligations.ReductionContribution : Prop :=
  ∀ (s : State) (m : Mark) (a b : Name) (j : Job) (w : List Word) (v : Nat), Plain s 4 → s.myJob = some j → BlockIs s a 2 w →
    readable b = true → wordAt w 0 < 64 → wordAt w 1 < 2 ^ 16 →
    (j.ndef (wordAt w 0) = none → Traps (.nred a b m) s .nredcfg 0)
    ∧ (∀ d, j.ndef (wordAt w 0) = some d →
      let n := ndElems d.block
      let flat := locAddr s.me.job s.me.vcore (wordAt w 1)
      (takesPart d.block s.me.vcore = false → Traps (.nred a b m) s .nredcfg 0)
      ∧ (takesPart d.block s.me.vcore = true → wordAt w 1 + 4 * n ≤ min 0x10000 (4096 * j.lsize) → wordAt w 1 % 4 = 0 → Room s .tile →
          Gives s b v → ndRoot d.block ≠ s.me.vcore → firstBad s.eccLocal flat (4 * n) = none →
          ∃ t : State, Completes (.nred a b m) m s t .next ∧ t.me = { s.me with wt := s.me.wt - v }
            ∧ Leaves s t .reduction (.ni s.myTile) (fun x => ∃ p acc,
                x = .contribution s.me.job (wordAt w 0) (s.myCore % 8) p acc 0 ∧ p.count = 1 ∧ p.weight = v ∧ p.elems.length = n
                ∧ (s.writes = [] → ∀ i, i < n → p.elems[i]? = some (BitVec.ofNat 64 (leNat (s.localMem.read (flat + 4 * i) 4))))))
      ∧ (takesPart d.block s.me.vcore = true → wordAt w 1 + 4 * n ≤ min 0x10000 (4096 * j.lsize) → wordAt w 1 % 4 = 0 → Room s .tile →
          Gives s b v → ndRoot d.block = s.me.vcore → firstBad s.eccLocal flat (4 * n) = none → d.late = 0 →
          ∃ t : State, ∃ j' : Job, ∃ d', ∃ p, Completes (.nred a b m) m s t .next ∧ t.me = { s.me with wt := s.me.wt - v } ∧ t.job? s.me.job = some j'
            ∧ j'.ndef (wordAt w 0) = some d' ∧ d'.own = d.own ++ [p] ∧ p.count = 1 ∧ p.weight = v ∧ p.elems.length = n))

/-- R250: a fence retires and stands before the later accesses of its AFTER paths; a release or full one waits for the earlier ones of
its scope, and an acquire or full one parks its context as an S marker does.
Where it rests on log 8 it states the model's choice. -/
def Obligations.Fences : Prop :=
  ∀ (s : State) (m : Mark) (c : Scope) (x y : BitVec 7), Plain s 4 →
    (∃ t : State, ∃ f, Completes (.fence .release c x y m) m s t .next ∧ t.me = { s.me with relFences := s.me.relFences ++ [f] }
      ∧ f.before = y.toNat ∧ f.after = x.toNat ∧ f.scope = c ∧ f.waits = s.releaseWaits s.me.task c)
    ∧ (s.me.startFault = none → s.me.dying = false → s.me.ending = false → ∀ k : FenceKind, k ≠ .release → s.ctxs.get? s.cur = some s.me →
      ∃ t : State, exec (.fence k c x y m) s = .next t ∧ t.me.parked = true ∧ t.me.task = s.me.task ∧ t.me.s = s.me.s
        ∧ t.localMem = s.localMem ∧ t.scratch = s.scratch ∧ t.hbm = s.hbm
        ∧ t.me.know = s.me.know ∧ ∃ f, t.me.relFences = s.me.relFences ++ [f] ∧ f.before = y.toNat ∧ f.after = x.toNat ∧ f.scope = c
          ∧ f.waits = (if k = .full then s.releaseWaits s.me.task c else []))

/-! ## System instructions (chapter 23) -/

/-- R351: `sys.mfs` writes a system register's value to D with latency 1, and `sys.mts` writes rd(B) to a register that may be written
and nothing else; a selector or a value that a register does not have is ILLOPND, and what only a privileged task may read or write
faults PRIV in another.
Where it rests on log 9 it states the model's choice. -/
def Obligations.SystemRegisters : Prop :=
  ∀ (s : State) (m : Mark) (d a b : Name) (j : Job) (reg idx : Nat), Plain s 4 → s.myJob = some j → Sound s a → writable d = true →
    (value s 0 a).toNat = reg + 256 * idx → reg < 256 →
    (reg ∈ [11, 12, 14] → s.me.privileged = false → Traps (.sysMfs d a m) s .priv 0)
    ∧ (reg ∈ [6, 7, 8, 9, 10] → s.me.privileged = false → Traps (.sysMts a b m) s .priv 0)
    ∧ (15 ≤ reg → Traps (.sysMfs d a m) s .illopnd 0)
    ∧ (∀ v : Word, (reg ∈ [11, 12, 14] → s.me.privileged = true) →
      ((idx = 0 ∧ ((reg = 0 ∧ v = s.me.fflags) ∨ (reg = 1 ∧ v = s.me.vfmt) ∨ (reg = 2 ∧ v = BitVec.ofNat 64 s.me.job)
          ∨ (reg = 3 ∧ v = BitVec.ofNat 64 j.wtotal) ∨ (reg = 13 ∧ v = BitVec.ofNat 64 (j.word 6))
          ∨ (reg = 9 ∧ v = BitVec.ofNat 64 (s.me.watchdog % 2 ^ 24 + 2 ^ 24 * (s.me.budget % 2 ^ 24)))
          ∨ (reg = 11 ∧ j.copyClk + 1024 ≤ s.clk ∧ v = BitVec.ofNat 64 j.copyNow.1)
          ∨ (reg = 12 ∧ j.copyClk + 1024 ≤ s.clk ∧ v = BitVec.ofNat 64 j.copyNow.2)
          ∨ (reg = 14 ∧ v = BitVec.ofNat 64 j.spillBase)
          ∨ (reg = 7 ∧ v = BitVec.ofNat 64 (packNibbles (s.tile s.myTile).vshare))))
        ∨ (reg = 8 ∧ idx < 4 ∧ v = BitVec.ofNat 64 (packNibbles (((s.core s.myCore).slottab.drop (8 * idx)).take 8)))
        ∨ (reg = 4 ∧ idx < 4 ∧ v = BitVec.ofNat 64 (s.chan s.myCore s.me.job idx).done)
        ∨ (reg = 5 ∧ idx < j.tbanks ∧ v = (s.formats s.me.job (s.me.vcore / 8)).getD idx 0)
        ∨ (reg = 6 ∧ idx < 64 ∧ (s.counter s.myTile idx).owner = some s.me.job ∧ v = BitVec.ofNat 64 (s.counter s.myTile idx).value)
        ∨ (reg = 10 ∧ idx < 32 ∧ v = j.acts.getD idx 0)) →
      Completes (.sysMfs d a m) m s (wr s d v 1) .next)
    ∧ (Sound s b → let v := value s 1 b
      (reg ∈ [2, 3, 4, 11, 12, 13, 14] → Traps (.sysMts a b m) s .illopnd 0)
      ∧ (reg = 0 → idx = 0 → v.toNat < 256 → Completes (.sysMts a b m) m s (s.setMe { s.me with fflags := v }) .next)
      ∧ (reg = 0 → idx = 0 → 256 ≤ v.toNat → Traps (.sysMts a b m) s .illopnd 0)
      ∧ (reg = 1 → idx = 0 → vfmtValid v.toNat = true → Completes (.sysMts a b m) m s (s.setMe { s.me with vfmt := v }) .next)
      ∧ (reg = 5 → idx < j.tbanks → v = 0 ∨ descValid v.toNat = true →
          ∃ t : State, Completes (.sysMts a b m) m s t .next ∧ t.me = s.me
            ∧ t.formats s.me.job (s.me.vcore / 8) = (s.formats s.me.job (s.me.vcore / 8)).set idx v)
      ∧ (s.me.privileged = true →
        (reg = 9 → idx = 0 → v.toNat < 2 ^ 48 →
          Completes (.sysMts a b m) m s (s.setMe { s.me with watchdog := v.toNat % 2 ^ 24 }) .next)
        ∧ (reg = 10 → idx < 32 → actionOk j v = true → ∃ t : State, ∃ j' : Job, Completes (.sysMts a b m) m s t .next ∧ t.me = s.me
            ∧ t.job? s.me.job = some j' ∧ j'.acts = j.acts.set idx v)
        ∧ (reg = 7 → idx = 0 → v.toNat < 2 ^ 32 → (∀ i, i < 8 → fieldOf v.toNat (4 * i) 4 ≠ 0) →
          ∃ t : State, Completes (.sysMts a b m) m s t .next ∧ t.me = s.me
            ∧ (t.tile s.myTile).vshare = (List.range 8).map (fun i => fieldOf v.toNat (4 * i) 4))
        ∧ (reg = 6 → idx < 64 → v.toNat < 2 ^ 32 → (s.counter s.myTile idx).owner = some s.me.job →
          ∃ t : State, Completes (.sysMts a b m) m s t .next ∧ t.me = s.me ∧ t.counter s.myTile idx = ⟨some s.me.job, v.toNat, none⟩)
        ∧ (reg = 8 → idx < 4 → v.toNat < 2 ^ 32 → (∀ i, i < 8 → fieldOf v.toNat (4 * i) 4 < 4 ∨ fieldOf v.toNat (4 * i) 4 = 8) →
          ∃ t : State, Completes (.sysMts a b m) m s t .next ∧ t.me = s.me ∧ (t.core s.myCore).slottab = (s.core s.myCore).slottab.take (8 * idx)
            ++ (List.range 8).map (fun i => fieldOf v.toNat (4 * i) 4) ++ (s.core s.myCore).slottab.drop (8 * idx + 8))))

/-- R205, R353, R354: `sys.halt` stops the device with a code and is privileged, `sys.sysnote` adds an entry to the trace buffer, and
`spref` changes no register and no memory but page-table entries.
Where it rests on log 16 and log 42 it states the model's choice. -/
def Obligations.SystemControl : Prop :=
  ∀ (s : State) (m : Mark) (a b : Name) (j : Job), Plain s 4 → s.myJob = some j →
    (s.me.privileged = false → Traps (.sysHalt a m) s .priv 0)
    ∧ (s.me.privileged = true → Sound s a → ∃ t : State, Completes (.sysHalt a m) m s t .next ∧ t.me = s.me
        ∧ t.halted = some ((value s 0 a).toNat % 2 ^ 32) ∧ t.log = s.log ++ [.halted ((value s 0 a).toNat % 2 ^ 32)])
    ∧ (Sound s a → Sound s b → ∃ t : State, Completes (.sysSysnote a b m) m s t .next ∧ t.me = s.me ∧ t.trace.length ≤ Config.traceSize
        ∧ (Config.traceSize = 0 ∨ ∃ e : Note, t.trace.getLast? = some e ∧ e.a = value s 0 a ∧ e.b = value s 1 b ∧ e.job = s.me.job
          ∧ e.self = s.me.vcore ∧ e.pc = s.me.pc))
    ∧ (Sound s a → Sound s b → fieldOf (value s 1 b).toNat 32 31 = 0 → ∃ t : State, Completes (.spref a b m) m s t .next ∧ t.me = s.me
        ∧ t.localMem = s.localMem ∧ t.scratch = s.scratch ∧ t.codeMem = s.codeMem ∧ t.hostMem = s.hostMem
        ∧ ((value s 1 b).toNat % 2 ^ 32 = 0 → t = s))

/-! ## The machine as a whole -/

namespace Sys2Proof.Stated

/-- The s-register an instruction may write when it issues, as a name; `call` writes s31 (R61), and where there is none it is z. -/
def destination : Instr → Name
  | .aluAdd d _ _ _ | .aluSub d _ _ _ | .aluAnd d _ _ _ | .aluOr d _ _ _ | .aluXor d _ _ _ | .aluAndn d _ _ _ | .aluShl d _ _ _
  | .aluShr d _ _ _ | .aluSra d _ _ _ | .aluRot d _ _ _ | .aluMin d _ _ _ | .aluMax d _ _ _ | .aluMinu d _ _ _
  | .aluMaxu d _ _ _ | .aluSlt d _ _ _ | .aluSltu d _ _ _ | .alu2Seq d _ _ _ | .alu2Sne d _ _ _ | .alu2Clz d _ _
  | .alu2Ctz d _ _ | .alu2Popc d _ _ | .alu2SextB d _ _ | .alu2SextH d _ _ | .alu2SextW d _ _ | .alu2ZextB d _ _
  | .alu2ZextH d _ _ | .alu2ZextW d _ _ | .alu2Mul d _ _ _ | .alu2Mulh d _ _ _ | .alu2Mulhu d _ _ _ | .alu2Div d _ _ _
  | .alu2Divu d _ _ _ | .alu3Rem d _ _ _ | .alu3Remu d _ _ _ | .alu3Sel d _ _ _ | .alu3Bext d _ _ _ | .alu3Bins d _ _ _
  | .alu3Addsat d _ _ _ | .alu3Subsat d _ _ _ | .alu3Absdiff d _ _ _ | .addi d _ _ _ | .andi d _ _ _ | .ori d _ _ _
  | .xori d _ _ _ | .shiShl d _ _ _ | .shiShr d _ _ _ | .shiSra d _ _ _ | .shiRot d _ _ _ | .slti d _ _ _ | .movi d _ _
  | .sltiu d _ _ _ | .ldl d _ _ _ _ _ _ | .ldt d _ _ _ _ _ _ | .fpFadd d _ _ _ | .fpFsub d _ _ _ | .fpFmul d _ _ _
  | .fpFmin d _ _ _ | .fpFmax d _ _ _ | .fpFabs d _ _ | .fpFneg d _ _ | .fpFeq d _ _ _ | .fpFlt d _ _ _ | .fpFle d _ _ _
  | .fpFcvtI2f d _ _ | .fpFcvtU2f d _ _ | .fpFcvtF2i d _ _ | .fpFcvtF2u d _ _ | .fpFsqrt d _ _ | .fpFclass d _ _ | .ffma d _ _ _
  | .xchg d _ _ _ | .wgtWget d _ | .wgtWtotal d _ | .cpy d _ _ _ | .cpyWalk d _ _ _ | .cqry d _ _ | .cpyCancel d _ _
  | .tmm d _ _ _ | .tstat d _ _ | .tabort d _ _ | .trgPost d _ _ _ | .trgRead d _ _ | .trgCancel d _ _ | .trgAlloc d _
  | .sysMfs d _ _ => d
  | .compactMov x _ _ | .compactAdd x _ _ | .compactSub x _ _ | .compactAddi x _ _ | .compactAnd x _ _ | .compactShl x _ _
  | .compactShr x _ _ | .compactLdlD x _ _ | .compactCmov x _ _ => .s x
  | .call _ _ => .s 31
  | _ => .z

/-- From s to t a unit has sent v units in a completion message with these argument words, or, with NOMSG, home (R178, R180, R262). -/
def Reports (s t : State) (src : Endpoint) (job v : Nat) (cm : Cmsg) (words : List Word) : Prop :=
  (cmNoMsg cm = true → v ≠ 0 → ∀ j, s.job? job = some j → j.census = none →
      ∃ p ∈ t.packets, p.src = src ∧ p.dst = .unit j.die ∧ p.body = .pod job v false false)
    ∧ (cmNoMsg cm = false → words.length < 16 → (s.job? job).isSome = true → ∃ x, t.outs = s.outs ++ [x] ∧ x.src = src ∧ x.msg.job = job
        ∧ x.msg.args = words ∧ fieldOf x.msg.hdr.toNat 0 26 = fieldOf cm.word.toNat 0 26 ∧ hdrLen x.msg.hdr = words.length
        ∧ hdrWeight x.msg.hdr = v % 2 ^ 32)

/-- From s to t a request has completed at a unit, which forgets it (R180). -/
def Completed (s t : State) (src : Endpoint) (r : Req) (words : List Word) : Prop :=
  t.req? r.id = none ∧ Reports s t src r.job r.v r.cm words

/-- The instructions that may set flags when they issue (R26). -/
def setsFlags : Instr → Bool
  | .alu3Addsat _ _ _ _ | .alu3Subsat _ _ _ _ | .fpFadd _ _ _ _ | .fpFsub _ _ _ _ | .fpFmul _ _ _ _ | .fpFmin _ _ _ _
  | .fpFmax _ _ _ _ | .fpFabs _ _ _ | .fpFneg _ _ _ | .fpFeq _ _ _ _ | .fpFlt _ _ _ _ | .fpFle _ _ _ _ | .fpFcvtI2f _ _ _
  | .fpFcvtU2f _ _ _ | .fpFcvtF2i _ _ _ | .fpFcvtF2u _ _ _ | .fpFsqrt _ _ _ | .fpFclass _ _ _ | .ffma _ _ _ _ => true
  | _ => false

/-- An instruction that issues has to wait (R30, R71). -/
def waits (i : Instr) (u : State) : Bool :=
  match exec i u with
  | .next t => waited u t
  | _ => false

/-- A header with given fields (R138); MODE is 0. -/
def HasHeader (h : Word) (vcore cls prio len kind weight : Nat) : Prop :=
  fieldOf h.toNat 0 14 = vcore % 2 ^ 14 ∧ fieldOf h.toNat 14 2 = 0 ∧ fieldOf h.toNat 16 8 = cls ∧ fieldOf h.toNat 24 2 = prio
    ∧ fieldOf h.toNat 26 4 = len ∧ fieldOf h.toNat 30 2 = kind ∧ fieldOf h.toNat 32 32 = weight % 2 ^ 32

/-- The fault record of a trap of a task whose message had narg words (R333). -/
def IsRecord (w0 w1 w2 : Word) (x : Trap) (c : Ctx) (seg : Nat × Nat) (narg : Nat) (trunc : Bool) : Prop :=
  fieldOf w0.toNat 0 5 = x.cause.code ∧ fieldOf w0.toNat 5 3 = x.origin ∧ fieldOf w0.toNat 8 8 = x.sub ∧ fieldOf w0.toNat 16 14 = c.vcore
    ∧ w0.toNat.testBit 30 = trunc ∧ w0.toNat.testBit 31 = c.precise ∧ fieldOf w0.toNat 32 4 = narg ∧ w0.toNat < 2 ^ 36
    ∧ fieldOf w1.toNat 0 32 = seg.1 ∧ fieldOf w1.toNat 32 16 = min seg.2 65535 ∧ w1.toNat < 2 ^ 48 ∧ w2 = x.arg

end Sys2Proof.Stated

/-- R55 to R70, R73: words written out from the encodings decode to what they stand for, and reserved patterns to nothing. -/
def Obligations.DecodedWordsMatchSpec : Prop :=
    -- F B A D MAJ G S L: alu.sub s1, m2, d3 with G = 2 and S = 1
    decodeTableWord 32 0b00011100101000100000010000001011 = some (.aluSub (.s 1) (.m 2) (.d 2) ⟨2, true⟩)
    -- IMM10 A D MAJ G S L: addi s5, wt, -1
    ∧ decodeTableWord 32 0b11111111111110100001010000110001 = some (.addi (.s 5) .wt 1023 ⟨0, false⟩)
    -- IMM16 D MAJ G S L: movi h, 0x8001
    ∧ decodeTableWord 32 0b10000000000000011110010010010001 = some (.movi .h 0x8001 ⟨0, false⟩)
    -- OFF10 B A MAJ G S L: bltu s3, z by -2 parcels
    ∧ decodeTableWord 32 0b11111111101110000000110011110001 = some (.bltu (.s 3) .z 1022 ⟨0, false⟩)
    -- OFF22 MAJ G S L: call by 1 parcel
    ∧ decodeTableWord 32 0b00000000000000000000010100100001 = some (.call 1 ⟨0, false⟩)
    -- OFF6 Q X SZ A D MAJ G S L: ldl.h.acq s1, s2, 3, sign extended
    ∧ decodeTableWord 32 0b00001111010000100000010101010001 = some (.ldl (.s 1) (.s 2) 3 .h true true ⟨0, false⟩)
    -- F B A D MAJ G S L: fp.fmul s1, s2, s3
    ∧ decodeTableWord 32 0b00100000110000100000010110010001 = some (.fpFmul (.s 1) (.s 2) (.s 3) ⟨0, false⟩)
    -- F K T VB VA VD MAJ G S L: vfma.bf16 v1, v2, v3 under k1
    ∧ decodeTableWord 32 0b11011010001100010000010110110001 = some (.vfma 1 2 3 .bf16 1 ⟨0, false⟩)
    -- vcvt.widen2 from i8 to bf16, v2 from v1
    ∧ decodeTableWord 32 0b01000000010100001000101000010001 = some (.vcvtWiden2 2 1 .i8 .bf16 0 ⟨0, false⟩)
    -- F B A D MAJ G S L: grd.t.acq with its block at s4 and its weight in s2
    ∧ decodeTableWord 32 0b00110000100001000000001100000001 = some (.grd (.s 4) (.s 2) true true ⟨0, false⟩)
    -- 0 KIND SCOPE AFTER BEFORE MAJ G S L: a release at device scope, CORE and COPY before, NET after
    ∧ decodeTableWord 32 0b00001100001000000000111110010001 = some (.fence .release .device 16 3 ⟨0, false⟩)
    -- P MAJ G S L: a prefix of payload 5
    ∧ decodeTableWord 32 0b00000000000000000001011111110001 = some (.limm 5)
    -- Y X CO S L: the compact forms `add s2, d1` and `beqz s1` by -1 parcel
    ∧ decodeTableWord 16 0b1000000100001010 = some (.compactAdd 2 8 true)
    ∧ decodeTableWord 16 0b1111000010101000 = some (.compactBeqz 1 15 false)
    -- refused: a parcel of zeros, CO 17, MAJ 0x3D, alu3 with F = 8, a field ctl.nop does not use, a prefix with S = 1, SCOPE 6, no path
    -- before a fence, SZ = 3 with X = 1, a loop body of no parcel
    ∧ decodeTableWord 16 0b0000000000000000 = none
    ∧ decodeTableWord 16 0b0000000001000100 = none
    ∧ decodeTableWord 32 0b00000000000000000000001111010001 = none
    ∧ decodeTableWord 32 0b10000000000000000000000000100001 = none
    ∧ decodeTableWord 32 0b00110000000000000000010100110001 = none
    ∧ decodeTableWord 32 0b00000000000000000001011111110011 = none
    ∧ decodeTableWord 32 0b00001110001000000000111110010001 = none
    ∧ decodeTableWord 32 0b00001100001000000000001110010001 = none
    ∧ decodeTableWord 32 0b00001101110000100000010101010001 = none
    ∧ decodeTableWord 32 0b00000000000000010000000101000001 = none

/-- R54 to R73: decoding what the encoder writes of a well-formed instruction, whatever follows it, gives that instruction back, with
every operand at every value its field admits, and its length. -/
def Obligations.EncodeDecodeRoundTrip : Prop :=
  ∀ (i : Instr) (rest : List Byte), WellFormed i → i.word ≠ none → decode (encode i ++ rest) = .ok (i, (encode i).length)

/-- R54, R55, R71, R73, R260, R289, R291: a step runs the instruction whose bytes stand at the PC of the context that issues: the one with
a prefix waiting in this clk, else one the slot table grants; what is no instruction, and a fetch past the code, faults ILLOP. A prefix
whose instruction has to wait waits with it. An event of the turns runs by itself, and a tick passes the clk once it is done, after the
turn the homes have in it.
Where it rests on log 1, log 2 and log 46 it states the model's choice. -/
def Obligations.StepRunsDecodedInstruction : Prop :=
  ∀ (s : State) (rest : List Turn),
    (∀ tile core key, s.turns = .core tile core :: rest → s.limmOpen = some key → coreOf key = 8 * tile + core →
      let u := { s with turns := rest, cur := key }
      badParcel u u.me u.me.pc = none →
        (∀ i n, decode (fetchBytes u u.me u.me.pc) = .ok (i, n) →
          (Stated.waits i u = false → step s = exec i u) ∧ (Stated.waits i u = true → step s = .next ({ s with turns := rest }.unprefix key)))
        ∧ (∀ e, decode (fetchBytes u u.me u.me.pc) = .error e →
            step s = .next { (u.trapNow key ⟨.illop, 0, 0, 0⟩ (segNow u.me)) with free := u.free + 1 }))
    ∧ (∀ tile core job hc, s.turns = .core tile core :: rest → s.limmOpen = none → core < 8 →
      let n := 8 * tile + core
      let r := { s with turns := rest }
      (s.core n).lastClk ≠ some s.clk → turnWaits r tile core = false → mayIssue r tile = true →
      let g := grantOf r n (s.core n)
      let w := { (r.updCore n (fun x => { x with lastClk := some s.clk, anyLast := g.2.2 })) with ctxs := bumpWatchdogs n g.1 s.ctxs }
      g.2.1 = some job → pickContext (s.core n).hcLast (eligibleOf w n job) = some hc →
      let u := present (w.updCore n (fun x => { x with hcLast := if hc < 8 then hc else x.hcLast })) (10 * n + hc)
      badParcel u u.me u.me.pc = none →
        (∀ i k, decode (fetchBytes u u.me u.me.pc) = .ok (i, k) → step s = exec i u)
        ∧ (∀ e, decode (fetchBytes u u.me u.me.pc) = .error e →
            step s = .next { (u.trapNow u.cur ⟨.illop, 0, 0, 0⟩ (segNow u.me)) with free := u.free + 1 }))
    ∧ (∀ i : Instr, s.turns = .event i :: rest → i ≠ .notAnInstruction →
        (i.word = none → step s = exec i { s with turns := rest }) ∧ (i.word ≠ none → step s = .next { s with turns := rest }))
    ∧ (s.turns = .tick :: rest →
        (s.tlbBusy = false → clkDone { s with turns := rest } = true →
          let t := { s with turns := rest }.homesTurn
          step s = .next { t with clk := t.clk + 1, winbaseOld := t.winbase })
        ∧ (clkDone { s with turns := rest } = false → step s = .next { s with turns := rest }))
    ∧ (s.turns = [] → step s = step { s with turns := [Config.nextTurn s.turnNo], turnNo := s.turnNo + 1 })

/-- What reset leaves (R10, R19, R276, R288 to R291, R325, R344, R349, R355 and others): the values the spec states; the places it states no
value for are the model's choice (log 13, log 14). -/
def Obligations.ResetState : Prop :=
  let s := State.reset
  s.clk = 0 ∧ s.ctxs = [] ∧ s.jobs = [] ∧ s.packets = [] ∧ s.futures = [] ∧ s.queues = [] ∧ s.devid = 0 ∧ s.halted = none ∧ s.inReset = false
    ∧ s.budget = 2600 ∧ s.tlbBusy = false
    ∧ (∀ n, (s.core n).slottab = List.replicate 32 8 ∧ (s.core n).mailbox = [])
    ∧ (∀ t, (s.tile t).vshare = List.replicate 8 1 ∧ (s.tile t).duty = 8 ∧ (s.tile t).posted = [])
    ∧ (∀ sp a, (s.mem sp).get a = 0)

/-- The memories stand in their canonical form at reset. -/
def Obligations.ResetMemoryOk : Prop := MemoryOk State.reset

/-- Every step keeps every memory in its canonical form. -/
def Obligations.StepKeepsMemoryOk : Prop := ∀ s t : State, MemoryOk s → step s = .next t → MemoryOk t

/-- A read after a write gives what was written there and leaves the other bytes, wider writes do the same byte by byte, and two memories
in canonical form that read alike are the same. -/
def Obligations.MemoriesAreCanonical : Prop :=
  ∀ m : Memory, m.wf = true →
    (∀ a b c, (m.set a b).wf = true ∧ (m.set a b).get c = if c = a then b else m.get c)
    ∧ (∀ a bs c, (m.write a bs).wf = true ∧ (m.write a bs).get c = if a ≤ c ∧ c < a + bs.length then bs.getD (c - a) 0 else m.get c)
    ∧ (∀ a n c, (m.clear a n).wf = true ∧ (m.clear a n).get c = if a ≤ c ∧ c < a + n then 0 else m.get c)
    ∧ (∀ a n, m.read a n = (List.range n).map (fun i => m.get (a + i)))
    ∧ (∀ m' : Memory, m'.wf = true → (∀ a, m.get a = m'.get a) → m = m')

/-- R332 to R341, R346: a raise acts by the job's entry, and one that concerns a unit being discarded returns its weight KILLED; a trap ends its task, whose context is free once nothing of it is outstanding, and its action entry decides: kill returns
its weight KILLED, replay sends its message again to the same virtual core, park writes a record and sends a notice, forward sends a
task message.
Where it rests on log 7 it states the model's choice. -/
def Obligations.TakingATrap : Prop :=
  (∀ (s : State) (job vcore u : Nat) (x : Trap) (know : Know) (src : Endpoint) (j : Job), s.job? job = some j → j.census = none → u ≠ 0 →
    let t := s.raiseJob job vcore u x know src
    let e := j.actEntry s x.cause.code
    let killed : Prop := ∃ p ∈ t.packets, p.id = s.serial ∧ p.src = src ∧ p.dst = .unit j.die ∧ p.body = .pod job u false true
    ((∃ d ∈ j.discarding, inDiscard j d vcore = true) → killed)
    ∧ (j.discarding = [] → actAct e < 2 → x.origin ≠ 3 → killed)
    ∧ (j.discarding = [] → actAct e = 3 → ∃ (o : OutMsg) (w0 : Word), t.outs = s.outs ++ [o]
        ∧ Stated.HasHeader o.msg.hdr (actTarget e vcore) (actClass e) (actPrio e) 15 0 u
        ∧ o.msg.args = [w0, 0, x.arg] ++ List.replicate 12 0 ∧ fieldOf w0.toNat 0 5 = x.cause.code
        ∧ (know ≠ [] → ∃ r : Rel, o.msg.acq = some r ∧ r.know = know)))
  ∧ ∀ (s : State) (key : Nat) (x : Trap) (seg : Nat × Nat) (c : Ctx) (j : Job), s.ctxs.get? key = some c → s.job? c.job = some j →
    c.outs = [] → j.discarding = [] → j.census = none → c.vcore < 2 ^ 14 → x.origin < 8 → x.sub < 256 → seg.1 < 2 ^ 32 →
    let t := s.takeTrap key x seg
    let e := taskEntry s j c x
    let narg := hdrLen c.msg
    let args := c.m.toList.take narg
    let home := Endpoint.unit j.die
    let killed := c.wt ≠ 0 → ∃ p ∈ t.packets, p.id = s.serial ∧ p.src = .ni (key / 80) ∧ p.dst = home ∧ p.body = .pod c.job c.wt false true
    t.ctxs.get? key = none
    ∧ (actAct e = 0 → killed)
    ∧ (actAct e = 1 → c.replayable = false ∨ 15 ≤ c.replays → killed)
    ∧ (actAct e = 1 → c.replayable = true → c.replays < 15 →
        (c.wt ≠ 0 → ∃ o : OutMsg, t.outs = s.outs ++ [o] ∧ o.msg.job = c.job ∧ o.msg.args = args ∧ o.msg.replays = c.replays + 1
            ∧ fieldOf o.msg.hdr.toNat 0 14 = c.vcore ∧ fieldOf o.msg.hdr.toNat 14 18 = fieldOf c.msg.toNat 14 18
            ∧ hdrWeight o.msg.hdr = c.wt % 2 ^ 32 ∧ Stated.Posts t (.ni (key / 80)) (.ni (key / 80)) (.message o.id))
        ∧ (c.wt = 0 → j.drawq = [] → j.ownDraws = [] → ∃ j' : Job, ∃ d : Draw, t.job? c.job = some j' ∧ j'.drawq = [d] ∧ d.units = 1 ∧ d.msg.args = args
            ∧ fieldOf d.msg.hdr.toNat 0 14 = c.vcore ∧ d.msg.replays = c.replays + 1))
    ∧ (actAct e = 2 → c.wt ≠ 0 → ∃ (w0 w1 w2 : Word) (o : OutMsg), ∃ j' : Job, Stated.IsRecord w0 w1 w2 x c seg narg false
        ∧ (let q := j.pqCount
           let addr := j.pqBase + 160 * (q % j.pqN)
           let record := [w0, w1, w2, c.msg] ++ padWords args 15 ++ [BitVec.ofNat 64 q]
           t.hbm = (if j.pqN = 0 then s else s.writeVirt j.ptroot addr .near record).hbm
           ∧ t.hostMem = (if j.pqN = 0 then s else s.writeVirt j.ptroot addr .near record).hostMem
           ∧ t.job? c.job = some j' ∧ j'.pqCount = q + 1 ∧ t.outs = s.outs ++ [o]
           ∧ Stated.HasHeader o.msg.hdr (actTarget e c.vcore) (actClass e) 3 4 3 c.wt
           ∧ o.msg.args = [w0, w1, w2, if j.pqN = 0 then 0 else BitVec.ofNat 64 addr] ∧ o.src = home))
    ∧ (actAct e = 3 → c.wt ≠ 0 → ∃ (w0 w1 w2 : Word) (o : OutMsg), Stated.IsRecord w0 w1 w2 x c seg narg (decide (11 < narg))
        ∧ t.outs = s.outs ++ [o] ∧ Stated.HasHeader o.msg.hdr (actTarget e c.vcore) (actClass e) (actPrio e) 15 0 c.wt
        ∧ o.msg.args = [w0, w1, w2, c.msg] ++ padWords args 11 ∧ o.src = home)

/-- R18, R24, R27: a result of latency 1 is read by the next instruction, under its register's name and as d1, and the results before it
move up one place; one of a longer latency is read at its clk at the latest, and a read before that obtains the old value or the new
one. A destination z discards its result and takes no history entry. -/
def Obligations.FixedLatencyResults : Prop :=
  ∀ (s : State) (c : Ctx) (v : Word) (n : Fin 32), s.ctxs.get? s.cur = some c → c.pend = [] → s.ops = [] →
    (let t := wr s (.s n) v 1;
      (∀ p, value t p (.s n) = v ∧ value t p (.d 0) = v) ∧ (∀ p (k : Fin 32), k ≠ n → value t p (.s k) = value s p (.s k))
        ∧ (∀ p (i : Fin 8), i.val < 7 → value t p (.d (i + 1)) = value s p (.d i)))
    ∧ (let t := wr s .h v 1
      t.me.s = c.s ∧ (∀ p, value t p (.d 0) = v) ∧ (∀ p (i : Fin 8), i.val < 7 → value t p (.d (i + 1)) = value s p (.d i)))
    ∧ (∀ L, wr s .z v L = s)
    ∧ (∀ L k, 2 ≤ L →
      let t := wr s (.s n) v L
      let u := present { t with clk := k } s.cur
      (∀ p, (value t p (.s n) = value s p (.s n) ∨ value t p (.s n) = v) ∧ ∀ m : Fin 32, m ≠ n → value t p (.s m) = value s p (.s m))
        ∧ (s.clk + L ≤ k → ∀ p, value u p (.s n) = v ∧ value u p (.d 0) = v ∧ (∀ m : Fin 32, m ≠ n → value u p (.s m) = value s p (.s m))
            ∧ ∀ i : Fin 8, i.val < 7 → value u p (.d (i + 1)) = value s p (.d i))
        ∧ (k < s.clk + L → u.me.s = c.s ∧ u.me.hist = c.hist))

/-- R26, R27, R30, R61, R99 to R105: what an instruction that completes leaves: its gap before the next one and one clk more after a taken
transfer, the marker, the PC, and the loop stack; flags are sticky. -/
def Obligations.RetiringAndFlags : Prop :=
  ∀ (t : State) (len gap : Nat) (mark : Bool), t.ctxs.get? t.cur ≠ none →
    let c := t.me
    let f := c.pc + len
    (∀ fl, let u := t.retire len gap mark fl
      u.me.limm = [] ∧ u.me.parked = mark ∧ u.limmOpen = none ∧ u.clk = t.clk ∧ u.me.s = c.s ∧ u.me.fflags = c.fflags ∧ u.me.wt = c.wt
        ∧ u.me.segOff = (if mark then 0 else c.segOff + 1) ∧ ∀ k, k ≠ t.cur → u.ctxs.get? k = t.ctxs.get? k)
    ∧ (let u := t.retire len gap mark .next
      u.me.ready = t.clk + 1 + gap
        ∧ (c.loops = [] → u.me.pc = f ∧ u.me.loops = [])
        ∧ (∀ l rest, c.loops = l :: rest → l.stop ≠ f → u.me.pc = f ∧ u.me.loops = c.loops)
        ∧ (∀ l rest, c.loops = l :: rest → l.stop = f → 1 < l.count → u.me.pc = l.start ∧ u.me.loops = { l with count := l.count - 1 } :: rest)
        ∧ (∀ l, c.loops = [l] → l.stop = f → l.count ≤ 1 → u.me.pc = f ∧ u.me.loops = [])
        ∧ (∀ l r, c.loops = [l, r] → l.stop = f → l.count ≤ 1 → r.stop = f → 1 < r.count →
            u.me.pc = r.start ∧ u.me.loops = [{ r with count := r.count - 1 }]))
    ∧ (∀ a, let u := t.retire len gap mark (.jump a)
      u.me.pc = a ∧ u.me.ready = t.clk + 2 + gap ∧ u.me.loops = c.loops.dropWhile (fun l => !(decide (l.start ≤ a) && decide (a < l.stop))))
    ∧ (∀ a, (t.retire len gap mark (.callTo a)).me.pc = a ∧ (t.retire len gap mark (.callTo a)).me.ready = t.clk + 2 + gap
        ∧ (t.retire len gap mark (.callTo a)).me.loops = c.loops)
    ∧ (∀ a, (t.retire len gap mark (.enter a)).me.pc = a ∧ (t.retire len gap mark (.enter a)).me.ready = t.clk + 1 + gap
        ∧ (t.retire len gap mark (.enter a)).me.loops = c.loops)
    ∧ (∀ a, (t.retire len gap mark (.skip a)).me.pc = a ∧ (t.retire len gap mark (.skip a)).me.ready = t.clk + 2 + gap
        ∧ (t.retire len gap mark (.skip a)).me.loops = c.loops)
    ∧ (∀ bits, (setFlags t bits).me.fflags = c.fflags ||| BitVec.ofNat 64 bits)

/-- The frame of memory: an instruction that completes changes no byte of any memory when it issues, but a store to local memory
(`LocalStores` says which), a page hint and a reduction's contribution; those two leave the local memories, the scratchpads and the code. -/
def Obligations.MemoryFrame : Prop :=
  ∀ (i : Instr) (s t : State) (c : Ctx), i.word ≠ none → exec i s = .next t → t.ctxs.get? s.cur = some c → c.task = s.me.task → c.dying = false →
    (∀ d a o z q m, i ≠ .stl d a o z q m) → (∀ x y m, i ≠ .compactStlD x y m) →
    t.localMem = s.localMem ∧ t.scratch = s.scratch ∧ t.codeMem = s.codeMem ∧ t.nvme = s.nvme
      ∧ ((∀ a b m, i ≠ .spref a b m) → (∀ a b m, i ≠ .nred a b m) → t.hbm = s.hbm ∧ t.hostMem = s.hostMem)

/-- The frame of the registers: an instruction that completes leaves, when it issues, every context but its own, and of its own the
arguments, the header, the masks, the vector registers, every s-register but its destination (s31 for `call`), the flags but where it
sets them, and VFMT but where `sys.mts` writes it. -/
def Obligations.RegisterFrame : Prop :=
  ∀ (i : Instr) (s t : State) (c : Ctx), i.word ≠ none → exec i s = .next t → s.ctxs.get? s.cur ≠ none → t.ctxs.get? s.cur = some c →
    c.task = s.me.task → c.dying = false →
    (∀ k, k ≠ s.cur → t.ctxs.get? k = s.ctxs.get? k)
      ∧ c.job = s.me.job ∧ c.vcore = s.me.vcore ∧ c.m = s.me.m ∧ c.msg = s.me.msg ∧ c.k = s.me.k ∧ c.v = s.me.v
      ∧ (∀ n : Fin 32, Stated.destination i ≠ .s n → c.s[n] = s.me.s[n])
      ∧ ((∀ a b m, i ≠ .sysMts a b m) → c.vfmt = s.me.vfmt ∧ (Stated.setsFlags i = false → c.fflags = s.me.fflags))

namespace Sys2Proof.Stated

/-- From s to t a task has started in a context from a message of its core's mailbox, its registers as R17 sets them. -/
def Started (s t : State) (key : Nat) (j : Job) (e : Word × Word) (x : Slot) : Prop :=
  (∃ c : Ctx, t.ctxs.get? key = some c ∧ c.job = x.msg.job ∧ c.vcore = x.vcore ∧ c.pc = fieldOf e.1.toNat 0 17 ∧ c.wt = fieldOf x.msg.hdr.toNat 32 32
      ∧ c.msg = x.msg.hdr ∧ (∀ i : Fin 16, c.m[i] = x.msg.args.getD i.val 0) ∧ c.s = .replicate 32 0 ∧ c.hist = .replicate 8 0
      ∧ c.k = .replicate 8 0 ∧ c.v = List.replicate (fieldOf e.1.toNat 17 6) 0 ∧ c.fflags = 0 ∧ c.vfmt = j.words.getD 8 0 ∧ c.loops = []
      ∧ c.budget = fieldOf e.1.toNat 32 24 ∧ c.privileged = j.privileged ∧ c.outs = [] ∧ c.pend = [] ∧ c.watchdog = 0)
    ∧ (∀ k, k ≠ key → t.ctxs.get? k = s.ctxs.get? k)
    ∧ (t.core (coreOf key)).mailbox = (s.core (coreOf key)).mailbox.filter (fun q => q.order != x.order)

/-- A message may start a task on a core (R140, R144, R267, R344): its job runs, its class has a routine, and the slot table grants it. -/
def MayStart (s : State) (core : Nat) (x : Slot) (j : Job) (e : Word × Word) : Prop :=
  s.halted = none ∧ s.inReset = false ∧ s.job? x.msg.job = some j ∧ j.phase = .running ∧ j.parked = false ∧ j.census = none
    ∧ j.routine? (hdrClass x.msg.hdr) = some e ∧ grantsJob (s.core core) x.msg.job = true
    ∧ (s.tile (core / 8)).badRoutines.contains (x.msg.job, hdrClass x.msg.hdr) = false

/-- A packet of a job stands alone before its home, which has not had its clk, has no draws and no census, and will not be quiescent with
h units. -/
def AloneAtHome (s : State) (p : Packet) (j : Job) (h : Nat) : Prop :=
  s.arrived? p.id = some p ∧ p.dst = .unit j.die ∧ p.hdrEcc = 0 ∧ s.job? p.job = some j ∧ homeArrivals s p.job j = [p] ∧ j.homeAt ≠ some s.clk
    ∧ j.drawq = [] ∧ j.ownDraws = [] ∧ j.spill = [] ∧ j.census = none ∧ h ≠ 2 ^ j.wtotal

end Sys2Proof.Stated

/-! ## Events of a tile and of the messages (chapters 2, 8, 13, 17) -/

/-- R17, R144 to R146, R173: tasks, remote operations and drain tasks start, a drain task taking its registers before a task of the same clk; R31: a task that has reached its end, with nothing
outstanding, ends and its weight goes home; R153: a task past its budget traps.
Where it rests on log 5 it states the model's choice. -/
def Obligations.TaskEvents : Prop :=
  (∀ (s : State) (tile core hc : Nat) (x : Slot) (j : Job) (e : Word × Word), core < 8 → hc < 8 →
    let n := 8 * tile + core
    (s.core n).startClk ≠ some s.clk → (s.core n).reserve = none → s.ctxs.get? (10 * n + hc) = none →
    (∀ h, h < hc → s.ctxs.get? (10 * n + h) ≠ none) → (candidates s (s.core n)).head? = some x → Stated.MayStart s n x j e →
    rtVregs e = 0 ∨ rtVregs e + drainWants s n (s.core n) ≤ freeVregs s n →
    ∃ t : State, exec (.taskStart tile core) s = .next t ∧ Stated.Started s t (10 * n + hc) j e x)
  ∧ (∀ (s : State) (tile core : Nat) (x : Slot) (j : Job) (e : Word × Word), core < 8 →
    let n := 8 * tile + core
    s.ctxs.get? (10 * n + 8) = none → (s.core n).mailbox.find? (fun y => hdrKind y.msg.hdr == 1) = some x → x.ready ≤ s.clk →
    Stated.MayStart s n x j e →
    ∃ t : State, exec (.remoteOpStart tile core) s = .next t ∧ Stated.Started s t (10 * n + 8) j e x)
  ∧ (∀ (s : State) (tile : Nat) (d : DrainRow) (rest : List DrainRow) (j : Job) (e : Word × Word), (s.tile tile).drains = d :: rest →
    s.halted = none → s.inReset = false → s.job? d.job = some j → j.routine? d.cls = some e → 1 ≤ rtVregs e →
    s.ctxs.get? (10 * d.core + 9) = none → j.discarding = [] → (s.tile tile).badRoutines.contains (d.job, d.cls) = false →
    (s.core d.core).reserve = none → rtVregs e ≤ freeVregs s d.core →
    ∃ t : State, ∃ c : Ctx, exec (.drainTaskStart tile) s = .next t ∧ (t.tile tile).drains = rest ∧ t.ctxs.get? (10 * d.core + 9) = some c
      ∧ c.job = d.job ∧ c.wt = 1 ∧ c.pc = fieldOf e.1.toNat 0 17 ∧ c.m[0] = BitVec.ofNat 64 d.m ∧ c.m[1] = BitVec.ofNat 64 d.col
      ∧ c.m[2] = BitVec.ofNat 64 d.flags ∧ c.v.length = rtVregs e ∧ c.v.getD 0 0 = BitVec.ofNat 4096 (packElems 32 d.elems)
      ∧ ∀ k, k ≠ 10 * d.core + 9 → t.ctxs.get? k = s.ctxs.get? k)
  ∧ (∀ (s : State) (key : Nat) (c : Ctx) (j : Job), s.ctxs.get? key = some c → c.ending = true → c.dying = false → c.outs = [] →
    c.startFault = none → s.job? c.job = some j → j.census = none →
    ∃ t : State, exec (.taskEnd key) s = .next t ∧ t.ctxs.get? key = none ∧ (∀ k, k ≠ key → t.ctxs.get? k = s.ctxs.get? k)
      ∧ (c.wt ≠ 0 → Stated.Posts t (.ni (key / 80)) (.unit j.die) (.pod c.job c.wt false false)))
  ∧ (∀ (s : State) (key : Nat) (c : Ctx), s.ctxs.get? key = some c → c.budget ≠ 0 → c.budget < c.watchdog → c.dying = false →
    exec (.budgetExpiry key) s
      = .next { (s.trapNow key ⟨.budget, 0, 0, BitVec.ofNat 64 c.budget⟩ (segNow c)) with free := s.free + 1 })

/-- R142, R143, R149 to R151, R185: a message is taken in or refused by the tile it reaches, a refused one waits 16 clk and is sent again,
the oldest record of the ring is offered, and its sender forgets a message once it hears of its outcome; R177, R248: members of a hold
and accesses are acknowledged.
Where it rests on log 5 and log 22 it states the model's choice. -/
def Obligations.MessageEvents : Prop :=
  (∀ (s : State) (p : Packet) (o : OutMsg) (j : Job) (tile : Nat), s.arrived? p.id = some p → p.dst = .ni tile → p.body = .message o.id →
    s.out? o.id = some o → s.job? p.job = some j → p.hdrEcc = 0 → o.msg.ecc = 0 → j.discarding = [] →
    let v := chooseCore s o.msg.job j o.msg tile
    (slotFree s o.msg.job j (j.core v) (hdrKind o.msg.hdr == 3) = true →
      ∃ t : State, ∃ x : Slot, exec (.messageArrival p.id) s = .next t ∧ (t.core (j.core v)).mailbox = (s.core (j.core v)).mailbox ++ [x] ∧ x.vcore = v
        ∧ x.ready = s.clk + 1 ∧ x.msg.args = o.msg.args ∧ fieldOf x.msg.hdr.toNat 0 14 = v % 2 ^ 14
        ∧ fieldOf x.msg.hdr.toNat 14 50 = fieldOf o.msg.hdr.toNat 14 50 ∧ Stated.Posts t (.ni tile) o.src (.accepted o.id v))
    ∧ (slotFree s o.msg.job j (j.core v) (hdrKind o.msg.hdr == 3) = false →
      ∃ t : State, exec (.messageArrival p.id) s = .next t ∧ t.cores = s.cores ∧ Stated.Posts t (.ni tile) o.src (.refused o.id)))
  ∧ (∀ (s : State) (p : Packet) (o : OutMsg), s.arrived? p.id = some p → p.body = .refused o.id → s.out? o.id = some o →
    hdrKind o.msg.hdr = 3 ∨ o.tries + 1 < 64 →
    ∃ t : State, exec (.messageRefusal p.id) s = .next t
      ∧ t.out? o.id = some { o with state := .refused, tries := o.tries + 1, due := s.clk + 16 } ∧ t.packets = s.packets.filter (fun q => q.id != p.id))
  ∧ (∀ (s : State) (o : OutMsg) (j : Job), s.out? o.id = some o → s.job? o.msg.job = some j → o.state = .refused → o.draw = 0 →
    o.far = none → o.due ≤ s.clk → j.ringOffer ≠ some o.id → hdrKind o.msg.hdr = 3 ∨ o.tries < 64 →
    ∃ t : State, exec (.messageResend o.id) s = .next t ∧ t.out? o.id = some { o with state := .flying }
      ∧ Stated.Posts t o.src (.ni (messageTile s j o.msg o.src)) (.message o.id))
  ∧ (∀ (s : State) (job k : Nat) (j : Job) (m : Msg) (rest : List (Nat × Msg)), s.job? job = some j → j.ringOffer = none →
    j.ring = (k, m) :: rest → m.ecc = 0 →
    ∃ t : State, ∃ x : OutMsg, ∃ j' : Job, exec (.spillReinjectOffer job) s = .next t ∧ t.outs = s.outs ++ [x] ∧ x.msg = m ∧ x.src = .unit j.die ∧ x.state = .flying
      ∧ t.job? job = some j' ∧ j'.ringOffer = some x.id ∧ j'.ring = j.ring ∧ Stated.Posts t (.unit j.die)
        (.ni (messageTile s j m (.unit j.die))) (.message x.id))
  ∧ (∀ (s : State) (p : Packet) (o : OutMsg) (j : Job) (v : Nat), s.arrived? p.id = some p → p.body = .accepted o.id v →
    s.out? o.id = some o → o.origin = 0 → s.job? o.msg.job = some j → j.census = none →
    ∃ t : State, exec (.sendAcceptReport p.id) s = .next t ∧ t.out? o.id = none ∧ (∀ q ∈ s.outs, q.id ≠ o.id → q ∈ t.outs)
      ∧ (∀ j', t.job? o.msg.job = some j' → j'.ringOffer ≠ some o.id))
  ∧ (∀ (s : State) (p : Packet) (task acc : Nat) (r : TaskRec), s.arrived? p.id = some p → p.body = .holdAck task acc →
    s.tasks.get? task = some r →
    (1 < r.holds → ∃ t : State, exec (.holdAck p.id) s = .next t ∧ t.tasks.get? task = some { r with holds := r.holds - 1 })
    ∧ (r.holds = 1 → r.heldUnit = true → (∀ e ∈ s.ctxs, e.2.task ≠ task) → ∀ j, s.job? r.job = some j → j.census = none →
      ∃ t : State, exec (.holdAck p.id) s = .next t ∧ t.tasks.get? task = none
        ∧ Stated.Posts t (.ni (r.core / 8)) (.unit j.die) (.pod r.job 1 false false)))
  ∧ (∀ (s : State) (a : Acc), a ∈ s.accs → a.performed = true →
    ∃ t : State, exec (.accessAck a.id) s = .next t ∧ t.accs = s.accs.filter (fun x => x.id != a.id))

/-- R260 to R269, R273, R274: the home takes in a pod, an arm, a disarm and a draw in its clk, which it has once in a clk, serves draws it has the units for, fires an
armed trap when all of W is home, counts a census and answers `wloss`; R347, R351: it reinjects a retried unit's roots and sends copies of
QCLASS and HOMEW.
Where it rests on log 30 it states the model's choice. -/
def Obligations.HomeEvents : Prop :=
  (∀ (s : State) (p : Packet) (j : Job) (w : Nat) (lost killed : Bool), p.body = .pod p.job w lost killed →
    (s.arrived? p.id = some p → p.dst = .unit j.die → s.job? p.job = some j → j.homeAt = some s.clk → exec (.podArrival p.id) s = .next s)
    ∧ (Stated.AloneAtHome s p j (j.homew + w) →
      ∃ t : State, ∃ j' : Job, exec (.podArrival p.id) s = .next t ∧ t.job? p.job = some j' ∧ j'.homew = j.homew + w
        ∧ j'.lostw = (if lost then min (j.lostw + w) (2 ^ 32 - 1) else j.lostw) ∧ j'.loss = (j.loss || lost)
        ∧ j'.killw = (if killed then min (j.killw + w) (2 ^ 32 - 1) else j.killw) ∧ t.outs = s.outs)
    ∧ (Stated.AloneAtHome s p j (2 ^ j.wtotal + 1) → j.homew + w = 2 ^ j.wtotal → j.armed = true → j.phase = .running → j.uncertain = false →
        j.retryDue = [] → j.saveReq = none → lost = false → killed = false →
      ∃ t : State, ∃ x : OutMsg, ∃ j' : Job, exec (.podArrival p.id) s = .next t ∧ t.job? p.job = some j' ∧ j'.homew = 0 ∧ j'.armed = false ∧ t.outs = s.outs ++ [x]
        ∧ hdrVcore x.msg.hdr = j.qvcore % 2 ^ 14 ∧ hdrClass x.msg.hdr = j.qclass % 2 ^ 8 ∧ hdrKind x.msg.hdr = 3
        ∧ hdrWeight x.msg.hdr = 2 ^ j.wtotal % 2 ^ 32
        ∧ x.msg.args = [BitVec.ofNat 64 (j.loss.toNat + 2 * (decide (0 < j.killw)).toNat), BitVec.ofNat 64 j.lostw, BitVec.ofNat 64 j.killw,
            BitVec.ofNat 64 j.woff]))
  ∧ (∀ (s : State) (p : Packet) (j : Job) (task v c : Nat), Stated.AloneAtHome s p j j.homew →
    (p.body = .arm p.job task v c → ∃ t : State, ∃ j' : Job, exec (.armArrival p.id) s = .next t ∧ t.job? p.job = some j' ∧ j'.armed = true ∧ j'.qvcore = v
        ∧ j'.qclass = c ∧ j'.homew = j.homew ∧ Stated.Posts t (.unit j.die) p.src (.holdAck task 0))
    ∧ (p.body = .disarm p.job task → ∃ t : State, ∃ j' : Job, exec (.disarmArrival p.id) s = .next t ∧ t.job? p.job = some j' ∧ j'.armed = false
        ∧ j'.qvcore = j.qvcore ∧ j'.qclass = j.qclass ∧ j'.homew = j.homew ∧ Stated.Posts t (.unit j.die) p.src (.holdAck task 0)))
  ∧ (∀ (s : State) (p : Packet) (j : Job) (o : OutMsg), Stated.AloneAtHome s p j j.homew → p.body = .message o.id → s.out? o.id = some o →
    o.draw ≠ 0 → o.msg.ecc = 0 →
    (j.homew < o.draw → ∃ t : State, ∃ j' : Job, exec (.drawArrival p.id) s = .next t ∧ t.job? p.job = some j' ∧ j'.drawq = [⟨o.msg, o.draw, 0, o.id, none⟩]
      ∧ j'.homew = j.homew ∧ Stated.Posts t (.unit j.die) p.src (.holdAck o.order o.acc))
    ∧ (o.draw ≤ j.homew → j.homew < 2 ^ j.wtotal → j.phase ≠ .loading → ∃ t : State, ∃ j' : Job, ∃ x : OutMsg, exec (.drawArrival p.id) s = .next t ∧ t.job? p.job = some j' ∧ j'.drawq = []
      ∧ j'.homew = j.homew - o.draw ∧ t.outs = s.outs ++ [x] ∧ x.msg.args = o.msg.args ∧ x.origin = o.id ∧ x.src = .unit j.die
      ∧ hdrWeight x.msg.hdr = o.draw % 2 ^ 32))
  ∧ (∀ (s : State) (o : OutMsg), s.out? o.id = some o → o.draw ≠ 0 → o.state = .refused → o.due ≤ s.clk →
    ∃ t : State, exec (.drawResend o.id) s = .next t ∧ t.out? o.id = some { o with state := .flying }
      ∧ Stated.Posts t o.src (s.home o.msg.job) (.message o.id))
  ∧ (∀ (s : State) (p : Packet) (j : Job) (m : Msg) (dev out v : Nat), Stated.AloneAtHome s p j j.homew → p.body = .farSend m dev out v →
    p.job < 2 ^ 20 → m.ecc = 0 → j.homew < min v (2 ^ j.wtotal) →
    ∃ t : State, ∃ j' : Job, ∃ d : Draw, exec (.farSendArrival p.id) s = .next t ∧ t.job? p.job = some j' ∧ j'.drawq = [d] ∧ d.msg = m ∧ d.units = min v (2 ^ j.wtotal)
      ∧ d.credit = some (dev, out, v))
  ∧ (∀ (s : State) (p : Packet) (j : Job) (r : Req), s.arrived? p.id = some p → p.body = .request r.id → s.req? r.id = some r →
    s.job? p.job = some j → j.census = none →
    (r.kind = .census → ∃ t : State, ∃ j' : Job, exec (.censusStart p.id) s = .next t ∧ t.job? p.job = some j' ∧ j'.census = some ⟨r.id, [], 0, []⟩)
    ∧ (r.kind = .wloss → r.job = p.job → cmNoMsg r.cm = false →
        ∃ t : State, ∃ x : OutMsg, exec (.wlossServe p.id) s = .next t ∧ t.outs = s.outs ++ [x] ∧ hdrWeight x.msg.hdr = r.v % 2 ^ 32
          ∧ x.msg.args = [statusWord r.code r.flags (j.loss.toNat + 2 * j.uncertain.toNat), r.cm.tag, BitVec.ofNat 64 j.lostw,
              BitVec.ofNat 64 j.killw, BitVec.ofNat 64 j.woff]))
  ∧ (∀ (s : State) (job node : Nat) (j : Job) (e : Endpoint) (c : Census), s.job? job = some j → j.census = some c → nodeOf node = some e →
    e ≠ .unit j.die → c.sent.contains e = false → nodeBusy s job e = false →
    ∃ t : State, ∃ j' : Job, exec (.censusMarkerSend job node) s = .next t ∧ t.job? job = some j' ∧ j'.census = some { c with sent := c.sent ++ [e] }
      ∧ Stated.Posts t e (.unit j.die) (.marker job node))
  ∧ (∀ (s : State) (p : Packet) (j : Job) (c : Census) (node : Nat), s.arrived? p.id = some p → p.body = .marker p.job node →
    s.job? p.job = some j → j.census = some c → c.got + 1 < markerCount → behindPod s p = false →
    ∃ t : State, ∃ j' : Job, exec (.censusMarkerArrival p.id) s = .next t ∧ t.job? p.job = some j' ∧ j'.census = some { c with got := c.got + 1 })
  ∧ (∀ (s : State) (job : Nat) (j : Job), s.job? job = some j → s.clk % 1024 = 0 → j.copyClk ≠ s.clk →
    ∃ t : State, ∃ j' : Job, exec (.homeCopyBroadcast job) s = .next t ∧ t.job? job = some j' ∧ j'.copyOld = j.copyNow ∧ j'.copyClk = s.clk
      ∧ j'.copyNow = (j.qvcore + 2 ^ 14 * j.qclass + 2 ^ 22 * j.armed.toNat, j.homew))
  ∧ (∀ (s : State) (job level unit : Nat) (j : Job) (m : Msg), s.job? job = some j → j.retryDue = [(level, unit)] →
    j.discarding.contains (level, unit) = false → j.drawq = [] → j.ownDraws = [] →
    j.roots.filter (fun m => inUnit j level unit (hdrVcore m.hdr)) = [m] →
    ∃ t : State, ∃ j' : Job, exec (.unitRetryReinject job level unit) s = .next t ∧ t.job? job = some j' ∧ j'.retryDue = []
      ∧ j'.drawq = [⟨m, hdrWeight m.hdr, 0, 0, none⟩] ∧ j'.homew = j.homew)

namespace Sys2Proof.Stated

/-- Where a router sends a packet on its way, and the clk of that link or span (R231, R232): along its row first, by spans of four
columns where four remain and its class may use runner lanes, then along its column; a die-to-die bridge costs 2 clk more. -/
def IsHop (c : Machine.Class) (from_ to_ q : Nat × Nat) (time : Nat) : Prop :=
  let bridge := if from_.1 / 17 = q.1 / 17 then 0 else 2
  let span := decide (c ≠ .reduction)
  (from_.1 < to_.1 → (if span && decide (from_.1 + 4 ≤ to_.1) then q.1 = from_.1 + 4 ∧ time = 2 + bridge else q.1 = from_.1 + 1 ∧ time = 1 + bridge)
      ∧ q.2 = from_.2)
    ∧ (to_.1 < from_.1 → (if span && decide (to_.1 + 4 ≤ from_.1) then q.1 + 4 = from_.1 ∧ time = 2 + bridge
        else q.1 + 1 = from_.1 ∧ time = 1 + bridge) ∧ q.2 = from_.2)
    ∧ (from_.1 = to_.1 → q.1 = from_.1 ∧ time = 1 ∧ (from_.2 < to_.2 → q.2 = from_.2 + 1) ∧ (to_.2 < from_.2 → q.2 + 1 = from_.2))

/-- The new bytes and the old value as a near-memory atomic of a width leaves them: `atom.add`, `atom.max`, `atom.cas` and `xswap`
(R191, R192): the function, and the new value of old, c4 and c5. -/
def atomics : List (Nat × (Bool → Nat → Nat → Nat → Nat → Nat)) :=
  [(0, fun _ bits old x _ => (old + x) % 2 ^ bits),
   (1, fun uns bits old x _ => if uns then max old x else if sextNat old bits < sextNat x bits then x else old),
   (2, fun _ _ old x y => if old = x then y else old),
   (9, fun _ _ _ x _ => x)]

/-- A virtual address of a job stands, by an entry in the TLB of a station, at an address of a memory that may be read and, where `w`,
written, D being set already (R297). -/
def Reaches (s : State) (st job va : Nat) (w : Bool) (sp : Space) (p : Nat) : Prop :=
  ∃ e, (s.stationTlb.getD st []).find? (fun e => e.job == job && e.va / 2 ^ e.bits == va / 2 ^ e.bits && !e.dying) = some e ∧ va < 2 ^ 52
    ∧ (w = true → pteW e.pte = true ∧ pteD e.pte = true) ∧ physSpace (pteFrame e.pte + va % 2 ^ e.bits) = some (sp, p)

/-- An access at its engine or serving unit: translated, not far, on its own device. -/
def AtUnit (s : State) (p : Packet) (a : Access) (sp : Space) (pa : Nat) : Prop :=
  s.arrived? p.id = some p ∧ p.body = .access a ∧ (∀ tile, p.dst ≠ .ni tile) ∧ a.pa ≠ noPa ∧ physSpace a.pa = some (sp, pa) ∧ a.dev = none

end Sys2Proof.Stated

/-! ## Events of the mesh (chapter 13) -/

/-- R230 to R232, R236, R240, R243, R244: packets enter the mesh, hop, combine and leave it, and routers are gated and woken, the one a
packet's head comes to as it arrives there; R241, R242: the nodes of a chain grant their buffers and pass its chunks on, each written to
its tile, and the last one reports.
Where it rests on log 5 and log 37 it states the model's choice. -/
def Obligations.RouterEvents : Prop :=
  (∀ (s : State) (p : Packet), s.packet? p.id = some p → p.pos = .source → mayInject s p = true →
    ((∃ j w l k, p.body = .pod j w l k) ∨ (∃ o : OutMsg, p.body = .message o.id ∧ s.out? o.id = some o ∧ behindRing s o = false
      ∧ farPacket s p.job p.body = none)) →
    ∃ t : State, ∃ q, exec (.routerSwitch p.id) s = .next t ∧ t.packets = s.packets.filter (fun x => x.id != p.id) ++ [q]
      ∧ q = { p with id := s.serial, pos := .router p.src.attach.1 p.src.attach.2, ready := s.clk + edgeLink p.src + 2, queue := 0 })
  ∧ (∀ (s : State) (p : Packet) (a b : Nat), s.packet? p.id = some p → p.pos = .router a b → p.cls ≠ .reduction → p.ready ≤ s.clk →
    (s.router a b).gated = false → firstOfLane s p = true → ((∃ j n, p.body = .marker j n) → behindPod s p = false) →
    (waitingPod s p = none → (a, b) ≠ p.dst.attach →
      ∃ t : State, ∃ q, ∃ x, ∃ y, ∃ time, exec (.routerSwitch p.id) s = .next t ∧ q ∈ t.packets ∧ Stated.IsHop p.cls (a, b) p.dst.attach (x, y) time
        ∧ q = { p with pos := .router x y, ready := s.clk + time + 2 }
        ∧ ((s.router x y).gated = true → (s.router x y).wake = none → (t.router x y).wake = some (s.clk + time)))
    ∧ (waitingPod s p = none → (a, b) = p.dst.attach →
      ∃ t : State, ∃ q, exec (.routerSwitch p.id) s = .next t ∧ q ∈ t.packets
        ∧ q = { p with pos := .dest, ready := s.clk + edgeLink p.dst + (p.flits - 1) })
    ∧ (∀ q j w w' l k, waitingPod s p = some q → p.body = .pod j w l k → q.body = .pod j w' l k →
      ∃ t : State, exec (.routerSwitch p.id) s = .next t
        ∧ (({ q with body := .pod j (w' + w) l k } ∈ t.packets ∧ ∀ x ∈ t.packets, x.id ≠ p.id)
          ∨ (q ∈ t.packets ∧ ∃ x ∈ t.packets, x.id = p.id ∧ x.body = p.body))))
  ∧ (∀ (s : State) (x y : Nat), x < 136 → y < 16 → (s.router x y).gated = false → (s.router x y).idle + 1024 ≤ s.clk →
    (∀ q ∈ s.packets, inRouter q ≠ some (x, y)) → (∀ d ∈ (s.router x y).defs, d.inputs = [] ∧ d.waiting = [] ∧ d.closing = false) →
    ∃ t : State, exec (.routerGate x y) s = .next t ∧ (t.router x y).gated = true ∧ (t.router x y).defs = (s.router x y).defs ∧ t.packets = s.packets)
  ∧ (∀ (s : State) (x y : Nat) (q : Packet), (s.router x y).gated = true → (s.router x y).wake = none → q ∈ s.packets →
    inRouter q = some (x, y) → headAt q ≤ s.clk →
    ∃ t : State, ∃ w, exec (.routerWake x y) s = .next t ∧ (t.router x y).wake = some w ∧ w ≤ headAt q ∧ (t.router x y).gated = true
      ∧ ∃ p ∈ s.packets, inRouter p = some (x, y) ∧ headAt p = w)
  ∧ (∀ (s : State) (x y w : Nat), (s.router x y).wake = some w → w + 16 ≤ s.clk →
    ∃ t : State, exec (.routerReady x y) s = .next t ∧ (t.router x y).gated = false ∧ (t.router x y).wake = none ∧ (t.router x y).idle = s.clk)
  ∧ (∀ (s : State) (c : Chain) (rest : List Chain) (node i : Nat) (p : Packet), s.chains = c :: rest → c.nodes.idxOf node = i →
    i < c.nodes.length →
    (chainPacket s (c.before i) (.chainGrant c.job i) = none → chainPacket s (.ni node) (.chainReserve c.job i) = some p →
      (2 ≤ (s.tile node).chainBufs → exec (.chainGrant node) s = .next s)
      ∧ ((s.tile node).chainBufs < 2 → ∃ t : State, exec (.chainGrant node) s = .next t
        ∧ t.chains = { c with granted := c.granted.set i (c.granted.getD i 0 + 1) } :: rest
        ∧ (t.tile node).chainBufs = (s.tile node).chainBufs + 1 ∧ Stated.Posts t (.ni node) (c.before i) (.chainGrant c.job i)))
    ∧ (∀ x, chainPacket s (c.before i) (.chainGrant c.job i) = some p → c.chunks[chunksSent s c i]? = some x →
      ∃ t : State, ∃ q ∈ t.packets, exec (.chainGrant node) s = .next t ∧ q.cls = .management ∧ q.src = c.before i ∧ q.dst = .ni node
        ∧ q.body = .chainChunk c.job i ∧ q.pos = .source ∧ t.chains = s.chains))
  ∧ (∀ (s : State) (c : Chain) (rest : List Chain) (node i n : Nat) (p : Packet) (x : ChainChunk) (j : Job), s.chains = c :: rest →
    c.nodes.idxOf node = i → c.written.getD i 0 = n → c.chunks[n]? = some x →
    chainPacket s (.ni node) (.chainChunk c.job i) = some p → s.job? c.job = some j →
    let vt := j.place.idxOf node
    ∃ t : State, exec (.chainChunk node) s = .next t
      ∧ (x.space = .code → t.codeMem = s.codeMem.write (codeAddr c.job vt x.addr) x.data ∧ t.scratch = s.scratch ∧ t.localMem = s.localMem)
      ∧ (x.space = .scratch → t.scratch = s.scratch.write (scratchAddr c.job vt x.addr) x.data ∧ t.codeMem = s.codeMem ∧ t.localMem = s.localMem)
      ∧ (x.space = .loc → t.codeMem = s.codeMem ∧ t.scratch = s.scratch ∧ t.localMem
          = (match x.core with
            | some k => s.localMem.write (locAddr c.job (8 * vt + k) x.addr) x.data
            | none => (List.range 8).foldl (fun m k => m.write (locAddr c.job (8 * vt + k) x.addr) x.data) s.localMem))
      ∧ t.chains = { c with written := c.written.set i (n + 1) } :: rest
      ∧ (i + 1 < c.nodes.length → Stated.Posts t (.ni node) (.ni (c.nodes.getD (i + 1) 0)) (.chainReserve c.job (i + 1)))
      ∧ (c.nodes.length ≤ i + 1 → n + 1 = c.chunks.length → Stated.Posts t (.ni node) (launchAt node) (.chainReport c.job)))

/-! ## Events of the global memory (chapters 11, 14, 19) -/

/-- R187 to R194, R296, R297, R300, R326: an access is translated at its entry station, walked where no entry covers it, fails, is parked,
or goes to the unit that serves it; the unit performs it and answers, and its request completes at the NI.
Where it rests on log 27 and log 38 it states the model's choice. -/
def Obligations.TranslationEvents : Prop :=
  (∀ (s : State) (p : Packet) (a0 : Access) (d n : Nat), s.arrived? p.id = some p → p.dst = .slice d n → p.body = .access a0 → a0.pa = noPa →
    a0.va < 2 ^ 52 → a0.dev = none → nearBefore { a0 with st := 32 * d + n } = none → (s.context? a0.job).isSome = true →
    let st := 32 * d + n
    let look := (tlbHit s (s.stationTlb.getD st []) a0.job a0.va).orElse (fun _ => tlbHit s (s.dieTlb.getD (st / 32) []) a0.job a0.va)
    (∀ e sp q, look = some e → (accWrites a0.kind = true → pteW e.pte = true) → physSpace (pteFrame e.pte + a0.va % 2 ^ e.bits) = some (sp, q) →
      ∃ t : State, ∃ x, ∃ y, exec (.stationTranslate p.id) s = .next t ∧ t.packets.getLast? = some x ∧ x.body = .access y
        ∧ y.pa = pteFrame e.pte + a0.va % 2 ^ e.bits ∧ y.va = a0.va ∧ y.kind = a0.kind ∧ y.data = a0.data ∧ y.req = a0.req
        ∧ x.dst = servingUnit y.pa (stationEnd st).row ∧ ∀ q ∈ t.packets, q.id ≠ p.id ∨ q = x)
    ∧ (∀ e, look = some e → a0.kind = .write → pteW e.pte = false →
      ∃ t : State, ∃ x, exec (.stationTranslate p.id) s = .next t ∧ Stated.Posts t (stationEnd st) a0.home (.performed x) ∧ x.status = 6
        ∧ x.req = a0.req)
    ∧ (look = none → (s.walks.filter (fun w => w.2.st / 32 == st / 32)).length < 16 →
      ∃ t : State, ∃ w, exec (.stationTranslate p.id) s = .next t ∧ t.walks = s.walks ++ [w] ∧ w.2 = { a0 with st := st }
        ∧ t.packets = s.packets.filter (fun q => q.id != p.id)))
  ∧ (∀ (s : State) (w : Nat × Access) (j : Job), s.walks.find? (fun x => x.1 == w.1) = some w → s.context? w.2.job = some j → w.2.dev = none →
    w.2.node = 0 →
    let a := w.2
    (∀ v e addr bits sp q, s.walk j.ptroot a.va = .page v e addr bits → pteBusy e = false → (accWrites a.kind = true → pteW e = true) →
      physSpace (pteFrame e + a.va % 2 ^ bits) = some (sp, q) →
      ∃ t : State, ∃ x, ∃ y, exec (.pageWalk w.1) s = .next t ∧ t.packets.getLast? = some x ∧ x.body = .access y ∧ y.pa = pteFrame e + a.va % 2 ^ bits
        ∧ y.kind = a.kind ∧ y.req = a.req ∧ x.dst = servingUnit y.pa (stationEnd a.st).row ∧ t.walks = s.walks.filter (fun x => x.1 != w.1))
    ∧ (s.walk j.ptroot a.va = .nomap → (a.kind = .read ∨ a.kind = .write) →
      ∃ t : State, ∃ x, exec (.pageWalk w.1) s = .next t ∧ Stated.Posts t (stationEnd a.st) a.home (.performed x) ∧ x.status = 5
        ∧ x.req = a.req)
    ∧ (∀ e addr bits, s.walk j.ptroot a.va = .locator e addr bits → parkedCount s (a.st / 32) < 4096 →
      ∃ t : State, exec (.pageWalk w.1) s = .next t ∧ a ∈ parkedOn t addr ∧ ∃ r ∈ t.sqes.getD (locPort e) [], r.pteAddr = addr))
  ∧ (∀ (s : State) (p : Packet) (a : Access), s.arrived? p.id = some p → p.body = .parkRefused a → p.ready + 64 ≤ s.clk →
    ∃ t : State, exec (.parkedRequestResend p.id) s = .next t
      ∧ Stated.Posts t a.home (entryStation (tileOf a.core)) (.access { a with pa := noPa }))
  ∧ (∀ (s : State) (p : Packet) (a : Access) (sp : Space) (pa : Nat), Stated.AtUnit s p a sp pa →
    (a.kind = .read → s.writes = [] →
      ∃ t : State, ∃ x, exec (.globalPiecePerform p.id) s = .next t ∧ Stated.Posts t p.dst a.home (.performed x)
        ∧ x = { a with data := (s.mem sp).read pa a.len } ∧ t.mem sp = s.mem sp)
    ∧ (a.kind = .write →
      ∃ t : State, exec (.globalPiecePerform p.id) s = .next t ∧ t.mem sp = (s.mem sp).write pa a.data
        ∧ Stated.Posts t p.dst a.home (.performed { a with data := [] }))
    ∧ (a.kind = .store →
      ∃ t : State, exec (.globalPiecePerform p.id) s = .next t ∧ t.mem sp = (s.mem sp).write pa a.data
        ∧ Stated.Posts t p.dst (.ni (tileOf a.core)) (.holdAck a.task a.acc)))
  ∧ (∀ (s : State) (p : Packet) (a : Access) (r : Req), s.arrived? p.id = some p → p.body = .performed a → s.req? a.req = some r → a.status = 0 →
    (∀ g l n tile, r.kind = .gwr g l n tile →
      (1 < r.left → ∃ t : State, exec (.pieceLanding p.id) s = .next t ∧ t.req? r.id = some { r with left := r.left - 1, count := r.count + a.len })
      ∧ (r.left = 1 → ∃ t : State, exec (.pieceLanding p.id) s = .next t
          ∧ Stated.Completed s t (.ni (tileOf r.core)) r [statusWord r.code r.flags (r.count + a.len), r.cm.tag]))
    ∧ (∀ g l n tile q, r.kind = .grd g l n tile q → 1 < r.left →
      ((s.dropPacket p.id).niPort (tileOf r.core) portLanding (reqSide r) a.landing a.len).isSome = true →
      ∃ t : State, exec (.pieceLanding p.id) s = .next t ∧ t.req? r.id = some { r with left := r.left - 1, count := r.count + a.len }
        ∧ (if tile then t.scratch = s.scratch.write a.landing a.data else t.localMem = s.localMem.write a.landing a.data))
    ∧ (∀ f b, r.kind = .near f b → a.data.length ≤ 32 → ∃ t : State, exec (.pieceLanding p.id) s = .next t
        ∧ Stated.Completed s t (.ni (tileOf r.core)) r ([statusWord 0 a.flags 0, r.cm.tag] ++ leWords a.data (a.data.length / 8))))
  ∧ (∀ (s : State) (p : Packet) (a : Access) (sp : Space) (pa f hint : Nat) (b : List Word), Stated.AtUnit s p a sp pa → a.kind = .near f b →
    a.node = 0 → (s.context? a.job).isSome = true → isForward p a = false →
    (32 ≤ queuedBefore s p → ∃ t : State, exec (.nearOpExecute p.id hint) s = .next t
        ∧ Stated.Posts t p.dst a.home (.turnedAway a (min hint 6)) ∧ t.mem sp = s.mem sp)
    ∧ (queuedBefore s p = 0 → ∀ e ∈ Stated.atomics, e.1 = f →
      let n := if (wordAt b 0).testBit 13 then 8 else 4
      a.len = n → (s.mem sp).wf = true →
        let old := leNat ((s.mem sp).read pa n)
        let new := e.2 ((wordAt b 0).testBit 14) (8 * n) old (wordAt b 4 % 2 ^ (8 * n)) (wordAt b 5 % 2 ^ (8 * n))
        ∃ t : State, ∃ x, exec (.nearOpExecute p.id hint) s = .next t ∧ leNat ((t.mem sp).read pa n) = new
          ∧ (∀ c, c < pa ∨ pa + n ≤ c → (t.mem sp).get c = (s.mem sp).get c)
          ∧ Stated.Posts t p.dst a.home (.performed x) ∧ x.req = a.req ∧ x.status = 0
          ∧ x.data = wordBytes (BitVec.ofNat 64 old))
    ∧ (∀ np, queuedBefore s p = 0 → f = 4 → sp = .hbm → Stated.Reaches s ((stationNo p.dst).getD a.st) a.job (wordAt b 4) true .hbm np →
        leNat (s.hbm.read (pa + 8) 8) = 0 →
        ∃ t : State, ∃ x, exec (.nearOpExecute p.id hint) s = .next t
          ∧ t.hbm = ((s.hbm.write np (bytesOfNat 0 8)).write (pa + 8) (bytesOfNat (wordAt b 4) 8)).write pa (bytesOfNat (wordAt b 4) 8)
          ∧ Stated.Posts t p.dst a.home (.performed x) ∧ x.status = 0 ∧ x.data = wordBytes 0))
  ∧ (∀ (s : State) (p : Packet) (a : Access) (sp : Space) (pa hint : Nat) (b : List Word) (d n kp vp : Nat) (ksp vsp : Space),
    Stated.AtUnit s p a sp pa → a.kind = .near 5 b → a.node = 0 → (s.context? a.job).isSome = true → isForward p a = true → p.dst = .slice d n →
    s.fwdCredits.getD (32 * d + n) 0 < 16 → queuedBefore s p = 0 → s.writes = [] →
    Stated.Reaches s (32 * d + n) a.job (a.va + fieldOf (wordAt b 5) 16 16) false ksp kp →
    Stated.Reaches s (32 * d + n) a.job (a.va + fieldOf (wordAt b 5) 32 16) false vsp vp →
    leNat ((s.mem ksp).read kp 8) = wordAt b 4 →
    ∃ t : State, ∃ x, exec (.chaseForwardArrival p.id hint) s = .next t ∧ Stated.Posts t p.dst a.home (.performed x)
      ∧ x.data = [BitVec.ofNat 64 a.va, BitVec.ofNat 64 (leNat ((s.mem vsp).read vp 8)), BitVec.ofNat 64 a.hops].flatMap wordBytes)
  ∧ (∀ (s : State) (req : Nat) (p : Packet) (a : Access), retryDue? s req = some (p, a) →
    ∃ t : State, exec (.farRetryResend req) s = .next t
      ∧ Stated.Posts t a.home (entryStation (tileOf a.core)) (.access { a with pa := noPa, node := 0 }))

/-- R301 to R306: an SQE serves its oldest record with a frame; the end of a fill puts the page's bytes and its entry in place or fails
the accesses; an eviction that ends leaves the page's locator; a region used by another die moves there with its bytes.
Where it rests on log 28 it states the model's choice. -/
def Obligations.StorageEvents : Prop :=
  (∀ (s : State) (port f : Nat) (r : Service) (rest : List Nat),
    (s.sqes.getD port []).find? (fun r => r.frame.isNone && r.waiting.isNone && !r.evicting) = some r → s.record? port r.pteAddr = some r →
    s.nvmeOn port = true → s.locatorOk r.locator r.bits = true → s.inFlight port + commandsOf (blocksOf r.locator r.bits) ≤ 64 * 256 →
    (s.pool r.pool).spare = f :: rest →
    ∃ t : State, exec (.storageServiceStart port) s = .next t ∧ (t.pool r.pool).spare = rest
      ∧ t.record? port r.pteAddr = some { r with frame := some f, started := s.clk, waiting := none, evicting := false })
  ∧ (∀ (s : State) (port pte f t0 : Nat) (r : Service) (rest : List Nat), s.record? port pte = some r → r.waiting = some t0 →
    s.nvmeOn port = true → s.locatorOk r.locator r.bits = true → (s.pool r.pool).spare = f :: rest →
    ∃ t : State, exec (.frameWaitRetry port pte) s = .next t ∧ (t.pool r.pool).spare = rest
      ∧ t.record? port pte = some { r with frame := some f, started := s.clk, waiting := none, evicting := false })
  ∧ (∀ (s : State) (port pte f : Nat) (r : Service), s.record? port pte = some r → r.frame = some f →
    (s.clk < r.started + 6400000000 → s.pteAt pte = r.locator → s.hbm.wf = true → (pte + 8 ≤ f ∨ f + 2 ^ r.bits ≤ pte) → 4096 * blocksOf r.locator r.bits ≤ 2 ^ r.bits →
      ∃ t : State, exec (.fillComplete port pte true) s = .next t ∧ t.record? port pte = none
        ∧ t.pteAt pte = filledPte r.locator f % 2 ^ 64
        ∧ ∀ i, i < 2 ^ r.bits → t.hbm.get (f + i) = if i < 4096 * blocksOf r.locator r.bits then
            s.nvme.data.get (nvmeAddr (locPort r.locator) (locNs r.locator) (locLba r.locator) + i) else 0)
    ∧ (parkedOn s pte = [] → (s.pool r.pool).spare.length < 16 →
      (∀ ok, ok = false ∨ r.started + 6400000000 ≤ s.clk → ∃ t : State, exec (.fillComplete port pte ok) s = .next t ∧ t.record? port pte = none ∧ (t.pool r.pool).spare = (s.pool r.pool).spare ++ [f]
          ∧ t.hbm = s.hbm)
      ∧ (r.started + 6400000000 ≤ s.clk → ∃ t : State, exec (.nvmeTimeout port pte) s = .next t ∧ t.record? port pte = none
        ∧ (t.pool r.pool).spare = (s.pool r.pool).spare ++ [f])))
  ∧ (∀ (s : State) (m : Move) (r : Service), s.eviction? m.page.pteAddr = some m → s.drained m.page.frame m.bits = true → pteD m.pte = false →
    s.pteAt m.page.pteAddr = m.pte → s.hbm.wf = true → s.record? m.fill.1 m.fill.2 = some r → parkedOn s m.page.pteAddr = [] →
    ∃ t : State, exec (.writebackComplete m.page.pteAddr true) s = .next t ∧ t.pteAt m.page.pteAddr = m.page.locator % 2 ^ 64
      ∧ (∀ x ∈ t.moves, x ≠ m)
      ∧ t.record? m.fill.1 m.fill.2 = some { r with frame := some m.page.frame, started := s.clk, waiting := none, evicting := false })
  ∧ (∀ (s : State) (die job va d pa e addr bits f : Nat) (j : Job) (rest : List Nat), s.clk % 2 ^ 20 = 0 → s.clk ≠ 0 → die < 8 → va < 2 ^ 52 →
    va % 2 ^ 21 = 0 → s.job? job = some j → busiestDie s die job va (s.clk / 2 ^ 20 - 1) = some d → s.lookup j.ptroot va = some (pa, e, addr, bits) →
    bits ≤ 21 → ptePin e = false → pteBusy e = false → pa.testBit 51 = false → fieldOf pa 37 4 / 2 = die →
    (s.pool (poolNo (roomierStack s d bits) bits)).spare = f :: rest →
    ∃ t : State, ∃ m, exec (.migrationReview die (job * 2 ^ 31 + va / 2 ^ 21)) s = .next t ∧ m ∈ t.moves ∧ m.page.pteAddr = addr ∧ m.dest = some f
      ∧ pteBusy m.pte = true)
  ∧ (∀ (s : State) (m : Move) (f : Nat), s.moves.find? (fun x => x.page.pteAddr == m.page.pteAddr && x.dest.isSome) = some m → m.dest = some f →
    s.drained m.page.frame m.bits = true → s.pteAt m.page.pteAddr = m.pte → s.hbm.wf = true → f % 65536 = 0 → f < 2 ^ 52 →
    (m.page.pteAddr + 8 ≤ f ∨ f + 2 ^ m.bits ≤ m.page.pteAddr) →
    ∃ t : State, exec (.migrationComplete m.page.pteAddr) s = .next t
      ∧ (let e := t.pteAt m.page.pteAddr
        pteFrame e = f ∧ pteHstk e = fieldOf f 37 4 ∧ pteBusy e = false ∧ e % 128 = m.pte % 128)
      ∧ (∀ i, i < 2 ^ m.bits → t.hbm.get (f + i) = s.hbm.get (m.page.frame + i)) ∧ ∀ x ∈ t.moves, x ≠ m)

namespace Sys2Proof.Stated

/-- A BTE asks for n bytes of a side of its copy, or sends bytes there: at the NI of the issuing tile, at the station of its column slice,
or over the fabric (R197, R198, R233). -/
def PieceSent (t : State) (bte : Nat) (r : Req) (side : Side) (a n : Nat) (data : Option (List Byte)) : Prop :=
  let src := stationEnd bte
  let tile := r.core / 8
  (∃ x : Access, x.req = r.id ∧ x.len = n ∧ x.data = data.getD [] ∧ x.status = 0
    ∧ ((side = .loc ∧ Posts t src (.ni tile) (.access x) ∧ x.landing = locAddr r.job r.vcore a
        ∧ x.kind = if data.isSome then .tileWrite false false else .tileRead false)
      ∨ (side = .tile ∧ Posts t src (.ni tile) (.access x) ∧ x.landing = scratchAddr r.job (r.vcore / 8) a
        ∧ x.kind = if data.isSome then .tileWrite true false else .tileRead true)
      ∨ (side = .glob ∧ Posts t src (entryStation tile) (.access x) ∧ x.va = a ∧ x.pa = noPa
        ∧ x.kind = if data.isSome then .write else .read)))
  ∨ ∃ d, ∃ p : FabPkt, side = .far d ∧ Posts t src (.west src.row) (.fab 0 p) ∧ p.dst = d
      ∧ p.body = match data with
        | some bs => .copyWrite a bs tile r.id r.v
        | none => .copyRead a n tile r.id r.v

/-- Row m, column n of what a step of the array adds: the sum over the step's 80 bytes of the row's activation times the trit of the
column's byte, entries above the diagonal counting 0 (R47, R165, R167). -/
def stepSum (s : State) (r : ArrayRun) (m n : Nat) : Int :=
  let b := r.job.block
  let byte (addr : Nat) : Nat := (s.scratch.get (scratchAddr r.job.job (r.job.vcore / 8) addr)).toNat
  ((List.range 80).map (fun e =>
    if tmTri b ∧ tmDw b < ((64 * r.j + n : Nat) : Int) - ((80 * r.i + e : Nat) : Int) then 0
    else (((byte ((tmW b).addr (r.j * tmKt b + r.i) n 0 + e / 5) / 3 ^ (e % 5) % 3 : Nat) : Int) - 1)
      * sextNat (byte ((tmA b).addr 0 (32 * r.b + m) (80 * r.i) + e)) 8)).sum

/-- The state of a step's place after it: the next K tile, else the next block, else the next column tile (R168). -/
def placeAfter (r : ArrayRun) : Nat × Nat × Nat :=
  if r.i + 1 < tmKt r.job.block then (r.j, r.b, r.i + 1) else if r.b + 1 < tmBlocks r.job.block then (r.j, r.b + 1, 0) else (r.j + 1, 0, 0)

end Sys2Proof.Stated

/-! ## Events of the engines (chapters 9, 11, 12, 13) -/

/-- R197, R198, R202, R330, R353: an NI offers a command to its BTE, which takes it, ends it with a status or refuses it, and a refused one
waits; a BTE reads and writes a linear transfer a piece at a time, at the tile's NI, in global memory or on another device, and the last
piece, or a cancel, completes it; the NI reads and writes the bytes of its tile.
Where it rests on log 29 it states the model's choice. -/
def Obligations.CopyEvents : Prop :=
  (∀ (s : State) (tile core ch seq : Nat) (cmd : CopyCmd) (r : Req) (j : Job) (b : List Word), core < 8 → offerable s (8 * tile + core) = [cmd] →
    s.req? cmd.req = some r → s.job? r.job = some j → r.kind = .copy false b ch seq → r.core = 8 * tile + core →
    let place := cmd.bte.getD (chooseBte s j r false b).2
    (s.live = true → ∃ t : State, exec (.copyOffer tile core) s = .next t ∧ Stated.Posts t (.ni tile) (stationEnd place.1) (.copyOffer r.id)
      ∧ t.btes = s.btes ∧ ∀ q ∈ (t.core r.core).fifo, q.req = r.id → q.bte = some place ∧ q.offered = true)
    ∧ (s.live = false → exec (.copyOffer tile core) s = .next s))
  ∧ (∀ (s : State) (bte ch seq : Nat) (p : Packet) (cmd : CopyCmd) (r : Req) (j : Job) (b : List Word), offerFor s bte r.id = some p →
    s.req? r.id = some r → cmdOf s r = some cmd → s.job? r.job = some j → r.kind = .copy false b ch seq →
    let held := s.btes.getD bte []
    let code := (cmd.bte.map (·.2)).getD 0
    let c := wordAt b 0
    (32 ≤ held.length → ∃ t : State, exec (.copyPiece bte r.id) s = .next t ∧ t.btes = s.btes ∧ t.cores = s.cores
      ∧ Stated.Posts t (stationEnd bte) (.ni (r.core / 8)) (.copyRefused r.id))
    ∧ (held.length < 32 → wordAt b 3 = 0 → ∃ t : State, exec (.copyPiece bte r.id) s = .next t
      ∧ Stated.Completed s t (stationEnd bte) r [statusWord 0 r.flags r.count, r.cm.tag])
    ∧ (held.length < 32 → wordAt b 3 ≠ 0 → code ≠ 0 → ∃ t : State, exec (.copyPiece bte r.id) s = .next t
      ∧ Stated.Completed s t (stationEnd bte) r [statusWord code r.flags r.count, r.cm.tag])
    ∧ (∀ x y, held.length < 32 → wordAt b 3 ≠ 0 → code = 0 → linearCheck s j r b (srcSide s c) (dstSide s c) = (0, x, y) →
      ∃ t : State, exec (.copyPiece bte r.id) s = .next t ∧ t.btes.getD bte [] = held ++ [⟨r.id, 0, x, y, false, false, (0, 0)⟩]
        ∧ ∀ q ∈ (t.core r.core).fifo, q.req ≠ r.id))
  ∧ (∀ (s : State) (p : Packet) (r : Req) (cmd : CopyCmd), s.arrived? p.id = some p → p.body = .copyRefused r.id → s.req? r.id = some r →
    cmdOf s r = some cmd →
    ∃ t : State, exec (.pieceLanding p.id) s = .next t ∧ cmdOf t r = some { cmd with
      refusals := cmd.refusals + 1, due := s.clk + 16 * 2 ^ min cmd.refusals 6, offered := false })
  ∧ (∀ (s : State) (bte ch seq : Nat) (x : Transfer) (r : Req) (j : Job) (b : List Word), offerFor s bte r.id = none →
    (s.btes.getD bte []).find? (fun q => q.req == r.id) = some x → s.req? r.id = some r → s.job? r.job = some j → r.kind = .copy false b ch seq →
    x.failed = (0, 0) → x.moved < wordAt b 3 →
    let a := wordAt b 1 + x.moved
    let d := wordAt b 2 + if x.dsrc = 0 then x.moved else x.moved * descBits x.ddst / descBits x.dsrc
    let page := fun (side : Side) (y : Nat) => if side = .loc ∨ side = .tile then 128 else 65536 - y % 65536
    let n := min (min (128 - x.moved % 128) (wordAt b 3 - x.moved)) (min (page (srcSide s (wordAt b 0)) a) (page (dstSide s (wordAt b 0)) d))
    let asks := fun (t : State) => Stated.PieceSent t bte r (srcSide s (wordAt b 0)) a n none
      ∧ ∀ y ∈ t.btes.getD bte [], y.req = r.id → y.waiting = true
    (x.waiting = true ∨ s.live = false → exec (.copyPiece bte r.id) s = .next s)
    ∧ (x.waiting = false → s.live = true → x.cancelled = false → ∃ t : State, exec (.copyPiece bte r.id) s = .next t ∧ asks t)
    ∧ (x.waiting = false → s.live = true → x.cancelled = true → ∃ t : State, exec (.copyPiece bte r.id) s = .next t
        ∧ (asks t ∨ Stated.Completed s t (stationEnd bte) r [statusWord 9 r.flags r.count, r.cm.tag])))
  ∧ (∀ (s : State) (p : Packet) (a : Access) (bte ch seq : Nat) (x : Transfer) (r : Req) (j : Job) (b : List Word), s.arrived? p.id = some p →
    p.body = .performed a → s.req? a.req = some r → bteOf s r.id = some (bte, x) → s.job? r.job = some j → r.kind = .copy false b ch seq →
    x.failed = (0, 0) → x.dsrc = 0 →
    let n := (nextStep s r x).take_
    (a.status = 0 → accWrites a.kind = false → ∃ t : State, exec (.pieceLanding p.id) s = .next t
      ∧ Stated.PieceSent t bte r (dstSide s (wordAt b 0)) (wordAt b 2 + x.moved) a.data.length (some a.data))
    ∧ (a.status = 0 → accWrites a.kind = true → x.moved + n < wordAt b 3 → ∃ t : State, ∃ r' : Req, exec (.pieceLanding p.id) s = .next t
      ∧ bteOf t r.id = some (bte, { x with moved := x.moved + n, waiting := false }) ∧ t.req? r.id = some r' ∧ r'.count = r.count + a.len)
    ∧ (a.status = 0 → accWrites a.kind = true → wordAt b 3 ≤ x.moved + n → ∃ t : State, exec (.pieceLanding p.id) s = .next t
      ∧ Stated.Completed s t (stationEnd bte) r [statusWord r.code r.flags (r.count + a.len), r.cm.tag])
    ∧ (a.status = 256 → ∃ code, exec (.pieceLanding p.id) s = .next { (((s.dropPacket p.id).retireCopy r code).raiseReq (stationEnd bte) r
        .eccloc (BitVec.ofNat 64 a.va)) with free := s.free + 1 }))
  ∧ (∀ (s : State) (p : Packet) (a : Access) (tile : Nat) (scratch : Bool), s.arrived? p.id = some p → p.body = .access a → p.dst = .ni tile →
    a.dev = none →
    let sp := if scratch then Space.scratch else .loc
    let port := if a.kind = .tileRead scratch then portSource else portLanding
    ((s.dropPacket p.id).niPort tile port sp a.landing (if a.kind = .tileRead scratch then a.len else a.data.length)).isSome = true →
    (a.kind = .tileRead scratch → badByte s sp a.landing a.len = none → s.writes = [] →
      ∃ t : State, ∃ x, exec (.globalPiecePerform p.id) s = .next t ∧ Stated.Posts t (.ni tile) a.home (.performed x)
        ∧ x = { a with data := (s.mem sp).read a.landing a.len } ∧ t.mem sp = s.mem sp)
    ∧ (∀ i, a.kind = .tileRead scratch → badByte s sp a.landing a.len = some i →
      ∃ t : State, exec (.globalPiecePerform p.id) s = .next t
        ∧ Stated.Posts t (.ni tile) a.home (.performed { a with status := 256, va := sideAddr sp (a.landing + i) }))
    ∧ (a.kind = .tileWrite scratch false → ∃ t : State, exec (.globalPiecePerform p.id) s = .next t
        ∧ t.mem sp = (s.mem sp).write a.landing a.data ∧ Stated.Posts t (.ni tile) a.home (.performed { a with data := [] })))

/-- R156, R165 to R174, R209 to R212, R256, R330: the head of the queue starts, or raises the cause its checks find; a step adds its sums to
its block and reads its lines through the banks; a finished row goes to C, line by line, or to a drain task; the job completes, or its
abort or its stop does.
Where it rests on log 5 and log 23 it states the model's choice. -/
def Obligations.ArrayEvents : Prop :=
  (∀ (s : State) (tile : Nat) (a : ArrayJob) (rest : List ArrayJob) (j : Job), (s.tile tile).arrayRun = none → (s.tile tile).arrayQ = a :: rest →
    s.job? a.job = some j → s.live = true → a.entered < s.clk → (s.tile tile).arrayFree ≤ s.clk → s.anyWaiting a.waits = false →
    let checks := startChecks j (s.formats a.job (a.vcore / 8)) a.v a.block
    (checks = none → ∃ t : State, ∃ r, exec (.arrayJobStart tile) s = .next t ∧ (t.tile tile).arrayQ = rest ∧ (t.tile tile).arrayRun = some r ∧ r.job = a
      ∧ r.start = s.clk ∧ r.stepEnd = s.clk + 24 ∧ (r.j, r.b, r.i) = (0, 0, 0) ∧ r.blocks = [] ∧ r.stopped = 0)
    ∧ (∀ c, checks = some c → ∃ u : State, exec (.arrayJobStart tile) s
        = .next (u.raiseJob a.job a.vcore a.v ⟨c, 2, 0, tmId a.seq⟩ (a.effects u).allPaths (.ni (tileOf a.core)))
      ∧ (u.tile tile).arrayQ = rest ∧ (u.tile tile).arrayRun = none ∧ (u.tile tile).arrayFree = s.clk + 1))
  ∧ (∀ (s : State) (tile : Nat) (r : ArrayRun), (s.tile tile).arrayRun = some r → s.live = true → r.mayStep s.clk = true → r.i = 0 →
    s.writes = [] → s.eccScratch = [] →
    let b := r.job.block
    (∀ n e, n < 64 → e < 16 →
      (s.scratch.get (scratchAddr r.job.job (r.job.vcore / 8) ((tmW b).addr (r.j * tmKt b + r.i) n 0 + e))).toNat < 243) →
      ∃ t : State, ∃ r', ∃ x, exec (.arrayStep tile) s = .next t ∧ (t.tile tile).arrayRun = some r' ∧ (r'.j, r'.b, r'.i) = Stated.placeAfter r
        ∧ r'.blocks = r.blocks ++ [x] ∧ (x.j, x.b, x.drained) = (r.j, r.b, 0) ∧ x.complete = decide (r.i + 1 = tmKt b) ∧ s.clk < r'.stepEnd
        ∧ (∀ m n, m < tmRows b r.b → n < 64 → (x.acc.getD m []).getD n 0 = Stated.stepSum s r m n) ∧ t.scratch = s.scratch)
  ∧ (∀ (s : State) (tile : Nat) (r : ArrayRun), (s.tile tile).arrayRun = some r → r.lines ≠ [] →
    (s.clk < r.lineFrom → exec (.arrayStep tile) s = .next s)
    ∧ (r.lineFrom ≤ s.clk → (∀ b ∈ r.lines, bankOpen s tile b portArrayRead = true) → ∃ t : State, ∃ r', exec (.arrayStep tile) s = .next t
      ∧ (t.tile tile).arrayRun = some r' ∧ (∀ b, r'.lines.count b = r.lines.count b - 1) ∧ r'.stepEnd = r.stepEnd ∧ r'.lineFrom = s.clk + 1)
    ∧ (r.lineFrom ≤ s.clk → (∀ b ∈ r.lines, b < 16 ∧ (s.tile tile).bankTaken b s.clk = true) → ∃ t : State, exec (.arrayStep tile) s = .next t
      ∧ (t.tile tile).arrayRun = some { r with stepEnd := r.stepEnd + 1, lineFrom := s.clk + 1 }))
  ∧ (∀ (s : State) (tile : Nat) (r : ArrayRun) (x : ArrayBlock), (s.tile tile).arrayRun = some r → r.blocks = [x] → x.complete = true →
    r.stepEnd ≤ s.clk → r.lastRow ≤ s.clk → (s.tile tile).drains = [] → s.eccScratch = [] → s.live = true → r.out = [] →
    let a := r.job
    let m := 32 * x.b + x.drained
    (tmDrain a.block = false → ∃ t : State, exec (.arrayRowDrain tile) s = .next t ∧ t.scratch = s.scratch
      ∧ (let out := linesOf ((operandOf (a.block.getD 4 0) 0).addr 0 m (64 * x.j * descBits r.fmtC.toNat / 8))
          (rowBytes r.fmtC.toNat a.block (rowVals s a x m))
        (t.tile tile).arrayRun = some { r with out := out }))
    ∧ (tmDrain a.block = true → ∃ t : State, ∃ r', ∃ d, exec (.arrayRowDrain tile) s = .next t ∧ (t.tile tile).arrayRun = some r' ∧ r'.job = { a with v := a.v - 1 }
      ∧ (t.tile tile).drains = [d] ∧ d.core = a.core ∧ d.cls = tmClass a.block ∧ d.m = m ∧ d.col = 64 * x.j
      ∧ (d.elems, d.flags) = drainVals a.block (rowVals s a x m) ∧ t.scratch = s.scratch))
  ∧ (∀ (s : State) (tile addr : Nat) (r : ArrayRun) (bs : List Byte) (rest : List (Nat × List Byte)), (s.tile tile).arrayRun = some r →
    r.out = (addr, bs) :: rest → r.lastRow ≤ s.clk → (s.takeBanks tile portArrayDrain [addr / 65536]).isSome = true →
    ∃ t : State, ∃ r', exec (.arrayRowDrain tile) s = .next t ∧ (t.tile tile).arrayRun = some r' ∧ r'.out = rest ∧ r'.lastRow = s.clk + 1
      ∧ t.scratch = s.scratch.write (scratchAddr r.job.job (r.job.vcore / 8) addr) bs
      ∧ (rest ≠ [] → r'.blocks = r.blocks)
      ∧ (∀ x l, rest = [] → r.blocks = x :: l →
        r'.blocks = if x.drained + 1 = tmRows r.job.block x.b then l else { x with drained := x.drained + 1 } :: l))
  ∧ (∀ (s : State) (tile : Nat) (r : ArrayRun), (s.tile tile).arrayRun = some r → r.blocks = [] → (s.tile tile).drains = [] →
    (r.stopped = 0 → r.allSteps = true → r.lastRow + 12 ≤ s.clk → ∃ t : State, exec (.arrayJobComplete tile) s = .next t ∧ (t.tile tile).arrayRun = none
      ∧ (t.tile tile).arrayFree = s.clk + 1
      ∧ Stated.Reports s t (.ni (tileOf r.job.core)) r.job.job r.job.v r.job.cm [statusWord 0 0 0, r.job.cm.tag, 3, BitVec.ofNat 64 (s.clk - r.start)])
    ∧ ((if r.handed = 0 then r.abortAt else r.lastRow) + 12 ≤ s.clk →
      (r.stopped = 2 → ∃ t : State, exec (.arrayStopFinish tile) s = .next t ∧ (t.tile tile).arrayRun = none
        ∧ Stated.Reports s t (.ni (tileOf r.job.core)) r.job.job r.job.v r.job.cm
            [statusWord 9 0 0, r.job.cm.tag, r.stopWord, BitVec.ofNat 64 (s.clk - r.start)])
      ∧ (r.stopped = 1 → ∃ u : State, exec (.arrayStopFinish tile) s
          = .next (u.raiseJob r.job.job r.job.vcore r.job.v ⟨.illtrit, 2, 0, tmId r.job.seq⟩ (r.job.effects u).allPaths (.ni (tileOf r.job.core)))
        ∧ (u.tile tile).arrayRun = none)
      ∧ (r.stopped = 3 → ∃ u : State, exec (.arrayStopFinish tile) s
          = .next (u.raiseJob r.job.job r.job.vcore r.job.v ⟨.eccloc, 2, 0, BitVec.ofNat 64 r.eccAt⟩ (r.job.effects u).allPaths
            (.ni (tileOf r.job.core)))
        ∧ (u.tile tile).arrayRun = none)))

/-- R156, R213 to R215: the next exchange of a tile becomes active and sends its ARRIVEs; an ARRIVE waits, is refused or is taken; the
exchange sends its rows, moving its own, once the banks grant it their lines; rows are written and acknowledged; the last
acknowledgement completes the exchange, and its timeout raises XTIMEOUT.
R217 to R222: rises, remote adds and cancels reach a trigger unit, which fires the entry posted first.
Where it rests on log 24 and log 26 it states the model's choice. -/
def Obligations.ExchangeAndTriggerEvents : Prop :=
  (∀ (s : State) (tile : Nat) (x : Exchange) (rest : List Exchange) (j : Job), (s.tile tile).xactive = none → (s.tile tile).xqueue = x :: rest →
    s.live = true → s.job? x.job = some j → s.anyWaiting x.waits = false →
    (∀ c, xcOperands s j x = some c → ∃ t : State, exec (.xchgActivate tile) s = .next t ∧ (t.tile tile).xactive = none ∧ (t.tile tile).xqueue = rest
      ∧ Stated.Reports s t (.ni tile) x.job x.v x.cm
          [statusWord (match c with | .taddr => 2 | .align => 3 | _ => 4) 0 0, x.cm.tag])
    ∧ (xcOperands s j x = none → (s.tile tile).arrives = [] → xcT0 x.block ≤ x.vtile → x.vtile < xcT0 x.block + xcP x.block →
      let q := x.vtile - xcT0 x.block
      ∃ t : State, exec (.xchgActivate tile) s = .next t ∧ (t.tile tile).xqueue = rest
        ∧ (t.tile tile).xactive = some { x with start := s.clk, arrived := [q] }
        ∧ ∀ k, k < xcP x.block → k ≠ q → ∃ p ∈ t.packets, p.src = .ni tile ∧ p.dst = .ni (j.tile (xcT0 x.block + k))
          ∧ p.body = .arrive x.job (xcTag x.block) (xcP x.block) (xcL x.block) x.vtile (xcT0 x.block + k)))
  ∧ (∀ (s : State) (tile q : Nat) (x : Exchange) (j : Job), (s.tile tile).xactive = some x → s.live = true → x.nextRow = some q →
    s.job? x.job = some j → (s.takeBanks tile portExchange (x.sendBanks q)).isSome = true → s.writes = [] →
    let vt := xcT0 x.block + q
    (∀ at_, badRow s x q = some at_ → ∃ u : State, exec (.xchgActivate tile) s = .next (u.raiseJob x.job x.vcore x.v
        ⟨.eccloc, 2, 0, BitVec.ofNat 64 at_⟩ (x.effects s).allPaths (.ni tile)) ∧ (u.tile tile).xactive = none)
    ∧ (badRow s x q = none → vt ≠ x.vtile → x.acked.length < xcP x.block → ∃ t : State, exec (.xchgActivate tile) s = .next t
      ∧ (t.tile tile).xactive = some { x with sent := x.sent ++ [q] }
      ∧ Stated.Posts t (.ni tile) (.ni (j.tile vt)) (.row x.job (xcTag x.block) x.vtile vt (readRow s x q) x.rel))
    ∧ (badRow s x q = none → vt = x.vtile → x.rowsIn.length + 1 < xcP x.block → ∃ t : State, exec (.xchgActivate tile) s = .next t
      ∧ (t.tile tile).xactive = some { x with sent := x.sent ++ [q], rowsIn := x.rowsIn ++ [q], acked := x.acked ++ [q] }
      ∧ t.scratch = (writeRow s x q (readRow s x q) x.rel).scratch))
  ∧ (∀ (s : State) (p : Packet) (tile job gtag n l src dst : Nat), s.arrived? p.id = some p → p.dst = .ni tile → p.body = .arrive job gtag n l src dst →
    ((s.tile tile).xactive = none → (s.tile tile).arrives.length < 256 → ∃ t : State, exec (.arriveReceive p.id) s = .next t
      ∧ (t.tile tile).arrives = (s.tile tile).arrives ++ [(job, gtag, n, l, src)])
    ∧ ((s.tile tile).xactive = none → 256 ≤ (s.tile tile).arrives.length → ∃ t : State, exec (.arriveReceive p.id) s = .next t
      ∧ (t.tile tile).arrives = (s.tile tile).arrives ∧ Stated.Posts t (.ni tile) p.src (.arriveRefused job gtag n l src dst))
    ∧ (∀ x q, (s.tile tile).xactive = some x → x.job = job → xcTag x.block = gtag → xcP x.block = n → xcL x.block = l →
      xcT0 x.block + q = src → q < n → q ∉ x.arrived →
      ∃ t : State, exec (.arriveReceive p.id) s = .next t ∧ (t.tile tile).xactive = some { x with arrived := x.arrived ++ [q] }
        ∧ (t.tile tile).arrives = (s.tile tile).arrives ∧ t.packets = s.packets.filter (fun y => y.id != p.id)))
  ∧ (∀ (s : State) (p : Packet) (job gtag n l src dst : Nat), s.arrived? p.id = some p → p.body = .arriveRefused job gtag n l src dst →
    p.ready + 64 ≤ s.clk → ∃ t : State, exec (.arriveResend p.id) s = .next t ∧ Stated.Posts t p.dst p.src (.arrive job gtag n l src dst))
  ∧ (∀ (s : State) (p : Packet) (tile job gtag src dst : Nat) (bs : List Byte) (rel : Option Rel), s.arrived? p.id = some p → p.dst = .ni tile →
    p.body = .row job gtag src dst bs rel →
    ((s.tile tile).xactive = none → ∃ t : State, exec (.xchgRowReceive p.id) s = .next t ∧ Stated.Posts t (.ni tile) p.src (.rowAck job gtag src dst)
      ∧ t.scratch = s.scratch)
    ∧ (∀ x q, (s.tile tile).xactive = some x → x.job = job → xcTag x.block = gtag → xcL x.block = bs.length → xcT0 x.block + q = src →
      q < xcP x.block → q ∉ x.rowsIn → x.rowsIn.length + 1 < xcP x.block →
      (s.takeBanks tile portExchange (rowBanks (xcDst x.block) q bs.length)).isSome = true →
      ∃ t : State, exec (.xchgRowReceive p.id) s = .next t ∧ (t.tile tile).xactive = some { x with rowsIn := x.rowsIn ++ [q] }
        ∧ Stated.Posts t (.ni tile) p.src (.rowAck job gtag src dst) ∧ t.scratch = (writeRow s x q bs rel).scratch))
  ∧ (∀ (s : State) (p : Packet) (tile job gtag src dst q : Nat) (x : Exchange), s.arrived? p.id = some p → p.dst = .ni tile →
    p.body = .rowAck job gtag src dst → (s.tile tile).xactive = some x → x.job = job → xcTag x.block = gtag → xcT0 x.block + q = dst →
    q < xcP x.block → q ∉ x.acked → q ∈ x.sent →
    (x.acked.length + 1 < xcP x.block → ∃ t : State, exec (.xchgRowAck p.id) s = .next t
      ∧ (t.tile tile).xactive = some { x with acked := x.acked ++ [q] })
    ∧ (x.acked.length + 1 = xcP x.block → x.rowsIn.length = xcP x.block → ∃ t : State, exec (.xchgRowAck p.id) s = .next t ∧ (t.tile tile).xactive = none
      ∧ Stated.Reports s t (.ni tile) x.job x.v x.cm [statusWord 0 0 0, x.cm.tag]))
  ∧ (∀ (s : State) (tile : Nat) (x : Exchange), (s.tile tile).xactive = some x → x.start + xcTimeout x.block ≤ s.clk →
    ∃ u : State, exec (.xchgTimeout tile) s = .next (u.raiseJob x.job x.vcore x.v ⟨.xtimeout, 2, 0, x.block.getD 0 0⟩ (x.effects s).allPaths (.ni tile))
      ∧ (u.tile tile).xactive = none)
  ∧ (∀ (s : State) (tile : Nat) (r : Rise), (s.tile tile).rises = [r] → r.at_ ≤ s.clk → s.anyWaiting r.waits = false →
    (r.cancel = none → r.acc = 0 → r.ctr < 64 → (s.counter tile r.ctr).owner = some r.job → ∃ t : State, exec (.triggerArrival tile 0) s = .next t
      ∧ (t.tile tile).rises = [] ∧ (t.counter tile r.ctr).value = min ((s.counter tile r.ctr).value + r.amount) (2 ^ 32 - 1)
      ∧ (t.counter tile r.ctr).owner = some r.job)
    ∧ (∀ k q j, r.cancel = some k → postedOf (s.tile tile) r.job k.handle = some q → q.v ≠ 0 → s.job? r.job = some j → j.census = none →
      ∃ t : State, exec (.triggerArrival tile 0) s = .next t ∧ (t.tile tile).posted = (s.tile tile).posted.filter (fun y => y.entry != q.entry)
        ∧ Stated.Posts t (.ni tile) (.unit j.die) (.pod r.job q.v false false)))
  ∧ (∀ (s : State) (tile : Nat) (p : Packet) (job vt c n task acc : Nat) (rel : Option Rel) (j : Job), p.id ≠ 0 → s.arrived? p.id = some p →
    p.body = .trgAdd job vt c n task rel acc 0 → p.dst = .ni tile → s.job? job = some j → j.tile vt = tile → c < 64 →
    (s.counter tile c).owner = some job → ∃ t : State, exec (.triggerArrival tile p.id) s = .next t
      ∧ (t.counter tile c).value = min ((s.counter tile c).value + n) (2 ^ 32 - 1) ∧ Stated.Posts t (.ni tile) p.src (.holdAck task acc))
  ∧ (∀ (s : State) (tile : Nat) (p : Posted) (j : Job), (s.tile tile).fired ≠ some s.clk → (s.tile tile).rises.any (riseDue s) = false →
    firstPosted ((s.tile tile).posted.filter (mayFire s tile)) = some p → s.job? p.job = some j → p.op = 6 →
    s.countFull p.task .tile = false →
    ∃ t : State, ∃ r : Req, exec (.triggerFire tile) s = .next t ∧ (t.tile tile).posted = (s.tile tile).posted.filter (fun y => y.entry != p.entry)
      ∧ (t.tile tile).fired = some s.clk ∧ t.reqs = s.reqs ++ [r] ∧ r.kind = .copy false p.block (copyChan (wordAt p.block 0)) 0 ∧ r.v = p.v
      ∧ r.job = p.job ∧ r.task = p.task ∧ r.core = p.core
      ∧ r.post = (if p.doneRaise then 1 + tile * 64 + p.dctr else 2 ^ 18) ∧ (t.core p.core).fifo.getLast? = some ⟨r.id, 0, 0, none, false⟩)

/-- R223 to R227, R255, R284: definitions are programmed and freed; contributions join their router's round, a router that holds all of its
inputs forwards one partial, the root starts its timer, closes a late round and completes it with the folded elements.
Where it rests on log 25 it states the model's choice. -/
def Obligations.ReductionEvents : Prop :=
  (∀ (s : State) (p : Packet) (r : Req) (j : Job) (b : List Word), requestAt s p.id = some (p, r) → s.job? r.job = some j →
    (r.kind = .nrdef b → (j.ndef (ndId b)).isSome = true → ∃ t : State, exec (.nrdefProgram p.id) s = .next t ∧ t.routers = s.routers
      ∧ Stated.Completed s t p.dst r [statusWord 12 r.flags r.count, r.cm.tag])
    ∧ (r.kind = .nrdef b → j.ndef (ndId b) = none → (∀ q ∈ treeRouters j b, (s.router q.1 q.2).defs.length < 16) →
      ∃ t : State, ∃ j' : Job, exec (.nrdefProgram p.id) s = .next t ∧ t.job? r.job = some j'
        ∧ j'.ndefs = j.ndefs ++ [⟨ndId b, b, none, false, [], [], 0, [], 0, []⟩]
        ∧ Stated.Completed s t p.dst r [statusWord r.code r.flags r.count, r.cm.tag])
    ∧ (r.kind = .nrfree b → j.ndef (wordAt b 0) = none → ∃ t : State, exec (.nrfreeRemove p.id) s = .next t
      ∧ Stated.Completed s t p.dst r [statusWord 12 r.flags r.count, r.cm.tag])
    ∧ (∀ d, r.kind = .nrfree b → j.ndef (wordAt b 0) = some d → roundOpen s r.job d = false → s.req? r.id = some r →
      ∃ t : State, ∃ j' : Job, exec (.nrfreeRemove p.id) s = .next t ∧ t.job? r.job = some j' ∧ j'.ndef d.nid = none
        ∧ (∀ x y, (t.router x y).def? r.job d.nid = none) ∧ Stated.Completed s t p.dst r [statusWord 0 r.flags r.count, r.cm.tag])
    ∧ (∀ d, r.kind = .nrfree b → j.ndef (wordAt b 0) = some d → roundOpen s r.job d = true →
      ∃ t : State, ∃ j' : Job, ∃ d', exec (.nrfreeRemove p.id) s = .next t ∧ t.job? r.job = some j' ∧ j'.ndef d.nid = some d' ∧ d'.freeing = d.freeing ++ [r.id]))
  ∧ (∀ (s : State) (p : Packet) (q : Nat × Nat) (nid core acc : Nat) (x : Partial) (j : Job) (d : RDef), s.reduceAt p.id = some (p, q) →
    p.body = .contribution p.job nid core x acc 0 → s.job? p.job = some j → (s.router q.1 q.2).def? p.job nid = some d →
    (core ∉ d.late → (∀ e ∈ d.inputs, e.1 ≠ core) → ∃ t : State, ∃ d', exec (.contributionArrival p.id) s = .next t
      ∧ (t.router q.1 q.2).def? p.job nid = some d' ∧ d'.inputs = d.inputs ++ [(core, x)] ∧ d'.waiting = d.waiting)
    ∧ (core ∈ d.late → x.weight ≠ 0 → j.census = none → ∃ t : State, ∃ d', exec (.contributionArrival p.id) s = .next t
      ∧ (t.router q.1 q.2).def? p.job nid = some d' ∧ d'.inputs = d.inputs ∧ d'.late = d.late.erase core
      ∧ Stated.Posts t p.dst (.unit j.die) (.pod p.job x.weight false false)))
  ∧ (∀ (s : State) (px y job nid : Nat) (j : Job) (d : RDef), (s.router px y).def? job nid = some d → s.job? job = some j → d.forwards = true →
    (s.router px y).gated = false →
    let x := foldParts (ndOp d.block) (d.expects.filterMap (fun i => (d.inputs.find? (fun e => e.1 == i)).map (·.2)))
    ∃ t : State, ∃ p, exec (.routerCombine px y job nid) s = .next t ∧ p ∈ t.packets ∧ p.id = s.serial ∧ (t.router px y).def? job nid = some d.nextRound
      ∧ (if (px, y) = ndRootAt j d.block then p.dst = rootNi j d.block ∧ p.pos = .dest ∧ p.body = .part job nid 12 x
        else let up := parentOf (ndRootAt j d.block) (px, y)
          p.pos = .router up.1 up.2 ∧ p.body = .part job nid (inputOf up (px, y)) x))
  ∧ (∀ (s : State) (p : Packet) (q : Nat × Nat) (job nid round : Nat) (j : Job) (d : NDef), s.reduceAt p.id = some (p, q) → s.job? job = some j →
    j.ndef nid = some d →
    (p.pos = .dest → p.body = .notice job nid round → round = d.round → d.timer = none → ∃ t : State, ∃ j' : Job, ∃ d', exec (.roundStartNotice p.id) s = .next t
      ∧ t.job? job = some j' ∧ j'.ndef nid = some d' ∧ d' = { d with timer := some (s.clk + ndTime d.block) })
    ∧ (p.pos = .dest → p.body = .notice job nid round → d.round < round → (∀ e ∈ d.noticed, e.1 ≠ round) →
      ∃ t : State, ∃ j' : Job, exec (.roundStartNotice p.id) s = .next t ∧ t.job? job = some j'
        ∧ j'.ndef nid = some { d with noticed := d.noticed ++ [(round, s.clk + ndTime d.block)] })
    ∧ (∀ e, p.body = .close job nid round → inputAt s q job nid = false → (s.router q.1 q.2).def? job nid = some e → e.round = round →
      ∃ t : State, ∃ e', exec (.closeArrival p.id) s = .next t ∧ (t.router q.1 q.2).def? job nid = some e' ∧ e' = { e with closing := true }
        ∧ ∀ i c, i ∈ e.expects → 8 ≤ i → (∀ y ∈ e.inputs, y.1 ≠ i) → neighbour q i = some c →
          ∃ m ∈ t.packets, m.pos = .router c.1 c.2 ∧ m.body = .close job nid round))
  ∧ (∀ (s : State) (job nid : Nat) (j : Job) (d : NDef), s.job? job = some j → j.ndef nid = some d →
    (∀ u, d.timer = some u → u ≤ s.clk → d.closing = false → ∃ t : State, ∃ j' : Job, ∃ d', exec (.roundTimeout job nid) s = .next t ∧ t.job? job = some j'
      ∧ j'.ndef nid = some d' ∧ d' = { d with closing := true }
      ∧ ∃ m, t.packets = s.packets ++ [m] ∧ m.pos = .router (ndRootAt j d.block).1 (ndRootAt j d.block).2 ∧ m.body = .close job nid d.round)
    ∧ (∀ x tree o own, d.timer.isSome = true → d.freeing = [] → treeResult j d = some (x, tree) → d.own = o :: own →
      let y := foldPart (ndOp d.block) x o
      let cm : Cmsg := ⟨d.block.getD 3 0, d.block.getD 4 0⟩
      let leaves := decide (y.count ≠ 0 ∧ min 0x10000 (4096 * j.lsize) < ndDest d.block + 4 * ndElems d.block)
      ∃ t : State, ∃ j' : Job, ∃ d', exec (.roundComplete job nid) s = .next t ∧ t.job? job = some j' ∧ j'.ndef nid = some d' ∧ d'.round = d.round + 1 ∧ d'.own = own
        ∧ d'.tree = tree ∧ d'.closing = false
        ∧ t.localMem = (if y.count = 0 ∨ leaves then s.localMem else s.localMem.write (locAddr job (ndRoot d.block) (ndDest d.block))
            (y.elems.flatMap (fun e => bytesOfNat e.toNat 4)))
        ∧ Stated.Reports s t (rootNi j d.block) job y.weight cm [statusWord leaves.toNat (statusFlags y.flags) 0, cm.tag,
            BitVec.ofNat 64 (y.count + if y.count < ndCount d.block then 65536 else 0)]))

namespace Sys2Proof.Stated

/-- Entry i of the future table of a die (R228); one never used is free, with GEN 0. -/
def entry (s : State) (die i : Nat) : Future := s.futures.getD (16384 * die + i) ⟨none, false, 0, 0, [], none⟩

/-- A future request stands at the context unit of a die, and its issuer's NI keeps it. -/
def FutureAt (s : State) (p : Packet) (r : Req) (die f : Nat) (b : List Word) : Prop :=
  s.arrived? p.id = some p ∧ p.dst = .unit die ∧ p.body = .request r.id ∧ s.req? r.id = some r ∧ r.kind = .future f b

/-- The device launches and nothing holds it: it is not halted or in reset, and no chain loads. -/
def Launches (s : State) : Prop := s.halted = none ∧ s.inReset = false ∧ s.loading = none

/-- From s to t a STATUS word has been written into a record in host memory (R278, R281). -/
def Status (s t : State) (addr n : Nat) : Prop := t.mem .host = (s.mem .host).write (addr + 16) (wordBytes (BitVec.ofNat 64 n))

end Sys2Proof.Stated

/-! ## Events of the context units and the launch unit (chapters 12, 18, 24) -/

/-- R228, R229: a context unit makes, sets, waits on, frees and peeks futures, a handle that names no entry of its job raises FUTSTALE,
and a refused wait is sent again; R276 to R287: a `launch` joins the device's queue, the head of a queue is checked, waits and becomes a
context of loading, and its root messages are sent once its chain is reported; R352, R356 to R360: contexts are marked, restored and loaded by chains, and
gather far sends while saved.
Where it rests on log 10, log 11, log 15 and log 21 it states the model's choice. -/
def Obligations.FutureAndLaunchEvents : Prop :=
  (∀ (s : State) (p : Packet) (r : Req) (die f : Nat) (b : List Word), Stated.FutureAt s p r die f b →
    let go (t : State) (words : List Word) : Prop := exec (.futureRequestServe p.id) s = .next t
      ∧ Stated.Completed s t (.unit die) r ([statusWord r.code r.flags r.count, r.cm.tag] ++ words)
    let h := wordAt b 0
    let e := Stated.entry s (fieldOf h 14 3) (fieldOf h 0 14)
    let after (t : State) : Future := Stated.entry t (fieldOf h 14 3) (fieldOf h 0 14)
    (f = 0 → ∀ i, i < 16384 → (Stated.entry s die i).owner = none → (∀ k, k < i → (Stated.entry s die k).owner ≠ none) →
      ∃ t : State, go t [mkHandle die i (Stated.entry s die i).gen]
        ∧ Stated.entry t die i = ⟨some r.job, false, 0, (Stated.entry s die i).gen, [], none⟩)
    ∧ (f = 0 → (∀ k, k < 16384 → (Stated.entry s die k).owner ≠ none) → ∃ t : State, go t [0] ∧ t.futures = s.futures)
    ∧ (f ≠ 0 → (e.owner ≠ some r.job ∨ e.gen ≠ fieldOf h 32 16) →
      ∃ u : State, u.jobs = s.jobs ∧ u.req? r.id = none ∧ exec (.futureRequestServe p.id) s
        = .next { (u.raiseJob r.job r.vcore r.v ⟨.futstale, 2, 0, b.getD 0 0⟩ (r.effects s).allPaths (.unit die)) with free := s.free + 1 })
    ∧ (f ≠ 0 → e.owner = some r.job → e.gen = fieldOf h 32 16 →
      (f = 1 → e.set = true → ∃ t : State, go t [1] ∧ t.futures = s.futures)
      ∧ (f = 1 → e.set = false → e.waiters = [] → ∃ t : State, go t [0] ∧ (after t).set = true ∧ (after t).value = b.getD 1 0)
      ∧ (f = 1 → e.set = false → ∀ w, w.id ∈ e.waiters → s.req? w.id = some w → cmNoMsg w.cm = false → (s.job? w.job).isSome = true →
        ∃ t : State, exec (.futureRequestServe p.id) s = .next t ∧ (after t).set = true ∧ (after t).waiters = []
          ∧ ∃ x ∈ t.outs, x.msg.args = [statusWord w.code w.flags w.count, w.cm.tag, b.getD 1 0])
      ∧ (f = 2 → e.set = true → ∃ t : State, go t [e.value])
      ∧ (f = 2 → e.set = false → waiterCount s die < 32768 →
        ∃ t : State, exec (.futureRequestServe p.id) s = .next t ∧ after t = { e with waiters := e.waiters ++ [r.id] })
      ∧ (f = 2 → e.set = false → 32768 ≤ waiterCount s die →
        ∃ t : State, exec (.futureRequestServe p.id) s = .next t ∧ t.futures = s.futures
          ∧ Stated.Posts t (.unit die) (.ni (tileOf r.core)) (.requestRefused r.id))
      ∧ (f = 3 → e.waiters = [] → ∃ t : State, go t [] ∧ after t = ⟨none, false, 0, (e.gen + 1) % 65536, [], none⟩)
      ∧ (f = 4 → ∃ t : State, go t (if e.set then [1, e.value] else [0, 0]) ∧ t.futures = s.futures)))
  ∧ (∀ (s : State) (r : Req) (f : Nat) (b : List Word), s.req? r.id = some r → r.kind = .future f b → r.due ≠ 0 → r.due ≤ s.clk →
    ∃ t : State, exec (.fwaitResend r.id) s = .next t ∧ t.req? r.id = some { r with due := 0 }
      ∧ Stated.Posts t (.ni (tileOf r.core)) (.unit (if f = 0 then tileDie (tileOf r.core) else fieldOf (wordAt b 0) 14 3)) (.request r.id))
  ∧ (∀ (s : State) (r : Req) (addr : Nat), s.req? r.id = some r → r.kind = .launch addr → r.due ≠ 0 → r.due ≤ s.clk →
    ∃ t : State, exec (.launchResend r.id) s = .next t ∧ t.req? r.id = some { r with due := 0 }
      ∧ Stated.Posts t (.ni (tileOf r.core)) (launchFrom (tileOf r.core)) (.request r.id))
  ∧ (∀ (s : State) (p : Packet) (row : Nat) (r : Req) (j : Job), s.arrived? p.id = some p → p.dst = .west row → p.body = .request r.id →
    s.req? r.id = some r → s.job? r.job = some j →
    (∀ addr, r.kind = .launch addr → 256 ≤ s.deviceQ.length → ∃ t : State, exec (.launchRequestArrival p.id) s = .next t
        ∧ Stated.Posts t p.dst p.src (.requestRefused r.id) ∧ t.deviceQ = s.deviceQ)
    ∧ (∀ addr bs, r.kind = .launch addr → s.deviceQ.length < 256 → (∀ k, s.readTable k j.ptroot addr 320 = .ok bs) →
      ∃ t : State, ∃ l, exec (.launchRequestArrival p.id) s = .next t ∧ t.deviceQ = s.deviceQ ++ [l] ∧ l.addr = addr ∧ l.parent = r.id
        ∧ l.words = leWords bs 40 ∧ l.privileged = j.privileged)
    ∧ (∀ n area, r.kind = .ctxsave n area → n = r.job ∨ s.job? n = none ∨ (∃ k, s.job? n = some k ∧ k.saveReq ≠ none) →
      ∃ t : State, exec (.launchRequestArrival p.id) s = .next t ∧ Stated.Completed s t (s.launchEnd r.job r.vcore) r
        [statusWord 12 r.flags r.count, r.cm.tag, 0])
    ∧ (∀ n area k, r.kind = .ctxsave n area → n ≠ r.job → s.job? n = some k → k.saveReq = none →
      ∃ t : State, exec (.launchRequestArrival p.id) s = .next t ∧ t.job? n = some { k with saveReq := some (r.id, area) })
    ∧ (∀ area, r.kind = .ctxload area → ∃ t : State, exec (.launchRequestArrival p.id) s = .next t ∧ t.restores = s.restores ++ [r.id]))
  ∧ (∀ (s : State) (source prio : Nat) (l : Launching), Stated.Launches s → nextQueue s = some (source, prio) → waitingOf s source = none →
    s.recordOf source = some l →
    (∀ x, launchCheck s l.know l.words = .ok x → anyStale s l (depsOf l.words ++ (if wordAt l.words 15 = 0 then [] else [wordAt l.words 15])) = false →
      ∃ t : State, exec .launchRecordTake s = .next t ∧ t.waiting = s.waiting ++ [{ l with
          deps := ((depsOf l.words).filter (fun h => !(s.future h).set)).map (BitVec.ofNat 64), fresh := true }] ∧ t.jobs = s.jobs
        ∧ (l.source < 1024 → Stated.Status s t l.addr 1))
    ∧ (∀ codes, codes ≠ [] → launchCheck s l.know l.words = .error (.refuse codes) → l.source < 1024 → l.words.getD 15 0 = 0 →
      ∃ t : State, ∃ c ∈ codes, exec .launchRecordTake s = .next t ∧ Stated.Status s t l.addr c ∧ t.jobs = s.jobs ∧ t.msix = s.msix ++ [l.source]
        ∧ (t.queue l.source).head = ((s.queue l.source).head + 1) % 2 ^ (s.queue l.source).log2n))
  ∧ (∀ (s : State) (prio : Nat) (l : Launching), Stated.Launches s → nextQueue s = some (l.source, prio) → waitingOf s l.source = some l →
    (depStale s l = true → l.source < 1024 → l.words.getD 15 0 = 0 →
      ∃ t : State, exec (.launchCreate l.source) s = .next t ∧ Stated.Status s t l.addr 23 ∧ t.jobs = s.jobs ∧ t.msix = s.msix ++ [l.source])
    ∧ (depStale s l = false → l.deps ≠ [] → ∃ t : State, exec (.launchCreate l.source) s = .next t ∧ t.jobs = s.jobs ∧ t.msix = s.msix
      ∧ waitingOf t l.source = some { l with fresh := false })
    ∧ (depStale s l = false → l.deps = [] → zeroCount l.words = true → l.source < 1024 → l.words.getD 15 0 = 0 →
      fieldOf (wordAt l.words 10) 0 16 = 0 →
      ∃ t : State, exec (.launchCreate l.source) s = .next t ∧ Stated.Status s t l.addr 3 ∧ t.jobs = s.jobs ∧ t.msix = s.msix ++ [l.source])
    ∧ (∀ x job node rest, depStale s l = false → l.deps = [] → zeroCount l.words = false → launchPlace s l = .ok (some (x, job, node :: rest)) →
      x.image.measure = x.image.digest →
      let place := node :: rest
      ∃ t : State, ∃ k, exec (.launchCreate l.source) s = .next t ∧ s.job? job = none ∧ t.job? job = some k ∧ k.phase = .loading ∧ k.words = l.words
        ∧ k.place = place ∧ k.rtab = x.rtab ∧ k.privileged = l.privileged ∧ t.loading = some { l with job := job }
        ∧ t.chains = [⟨job, place, List.replicate place.length 0, List.replicate place.length 0, x.image.chunks⟩]
        ∧ Stated.Posts t (launchAt node) (.ni node) (.chainReserve job 0)))
  ∧ (∀ (s : State) (l : Launching) (p : Packet) (j : Job), s.live = true → s.loading = some l → l.source ≤ 1024 → chainReport s = some p →
    s.job? l.job = some j → j.killed = false →
    ∃ t : State, exec .rootInject s = .next t ∧ t.loading = none ∧ t.chains = [] ∧ t.job? l.job = some { j with phase := .running }
      ∧ t.outs.map (fun o => o.msg) = s.outs.map (fun o => o.msg) ++ j.roots
      ∧ (l.source < 1024 → Stated.Status s t l.addr (2 + 65536 * l.job)))
  ∧ (∀ (s : State) (r : Req) (area : Nat) (p : Job), Stated.Launches s → s.req? r.id = some r → r.kind = .ctxload area → s.job? r.job = some p →
    s.restores.contains r.id = true →
    (∀ codes, readSaved s p.ptroot area = .error (.refuse codes) →
      ∃ t : State, exec (.contextRestore r.id) s = .next t ∧ Stated.Completed s t (s.launchEnd r.job r.vcore) r
        [statusWord (restoreCode codes) r.flags r.count, r.cm.tag, 0] ∧ ∀ n, s.job? n = none → t.job? n = none)
    ∧ (∀ x img job node rest pa y, readSaved s p.ptroot area = .ok x → readImage s r.know x.words = .ok img → img.measure = img.digest →
      s.freeJob = some job → s.placement (levelsOf x.words) (needsOf x.words img.code.length) = some (node :: rest) →
      s.lookup p.ptroot area = some (pa, y) → restoreFree s x (node :: rest) = true →
      ∃ t : State, ∃ k, exec (.contextRestore r.id) s = .next t ∧ t.job? job = some k ∧ k.phase = .loading ∧ k.words = x.words
        ∧ k.place = node :: rest ∧ t.loading = some ⟨1025, pa, r.id, false, x.head, [], job, [], false⟩
        ∧ t.chains = x.chains job (restoredJob x (node :: rest) img.code.length area) img.code
        ∧ Stated.Posts t (launchAt node) (.ni node) (.chainReserve job 0)))
  ∧ (∀ (s : State) (r : Req) (area : Nat) (p : Job) (l : Launching) (q : Packet) (c : Chain) (rest : List Chain), s.live = true →
    s.req? r.id = some r → r.kind = .ctxload area → s.job? r.job = some p → s.loading = some l → l.source = 1025 → l.parent = r.id →
    chainReport s = some q → s.chains = c :: rest →
    (rest ≠ [] → ∃ t : State, exec (.contextRestore r.id) s = .next t ∧ t.chains = rest ∧ t.loading = some l)
    ∧ (∀ j, rest = [] → s.job? l.job = some j →
      ∃ t : State, ∃ k, exec (.contextRestore r.id) s = .next t ∧ t.loading = none ∧ t.job? l.job = some k ∧ k.phase = .running ∧ k.place = j.place
        ∧ k.homew = fieldOf (wordAt l.words 4) 0 32 ∧ k.wtotal = fieldOf (wordAt l.words 4) 32 5 ∧ (∀ y ∈ t.saved, y.area ≠ l.addr)
        ∧ Stated.Completed s t (s.launchEnd r.job r.vcore) r [statusWord r.code r.flags r.count, r.cm.tag, BitVec.ofNat 64 l.job]))
  ∧ (∀ (s : State) (p : Packet) (m : Msg) (dev out v tag : Nat) (x : Saved), s.arrived? p.id = some p → p.body = .farSend m dev out v →
    p.job = 2 ^ 20 + tag → s.savedTag tag = some x →
    (x.spill.length < x.ringN → ∃ t : State, ∃ d, exec (.savedFarSendSpill p.id) s = .next t ∧ d.msg = m ∧ d.units = min v x.job.w
        ∧ d.credit = some (dev, out, v) ∧ t.savedTag tag = some { x with written := x.written + 1, spill := x.spill ++ [d] })
    ∧ (x.ringN ≤ x.spill.length → exec (.savedFarSendSpill p.id) s
        = .next ((s.dropPacket p.id).fabPut ⟨dev, s.devid, 0, 1, false, tag, .retrySend out 6 false⟩ none)))

namespace Sys2Proof.Stated

/-- From s to u something has ended at a unit with v units, which are on their way home LOST or KILLED (R262, R264, R328). -/
def EndsAt (s u : State) (src : Endpoint) (job v : Nat) (killed : Bool) : Prop :=
  v ≠ 0 → ∀ j, s.job? job = some j → j.census = none →
    ∃ p ∈ u.packets, p.src = src ∧ p.dst = .unit j.die ∧ p.body = .pod job v (!killed) killed

/-- The result of a checkpoint once a first failure of a code at a chunk has been noted (R365). -/
def failedAt (code entry chunk : Nat) : Word := BitVec.ofNat 64 (code + 2 ^ 16 * entry + 2 ^ 32 * chunk)

/-- A packet reaches a port that is up, with hops left, for this device (R322, R323). -/
def FabricAt (s : State) (port : Nat) (p : FabPkt) : Prop :=
  (s.port port).up = true ∧ port < 32 ∧ p.hop < 5 ∧ p.cls < 4 ∧ p.dst = s.devid

/-- A packet has crossed one more link (R323). -/
def crossed (p : FabPkt) : FabPkt := { p with hop := p.hop + 1 }

/-- What came in by a port has entered the mesh at the I/O node of its destination's row on the die of that port (R233, R319). -/
def Entered (t : State) (port : Nat) (dst : Endpoint) (b : Body) : Prop := Posts t (portNode port dst.row) dst b

/-- A unit of this device has answered a packet of another one over the fabric: the answer is on its way to the I/O node of the unit's row
(R233, R326). -/
def Answers (s t : State) (src : Endpoint) (p : FabPkt) (b : FabBody) : Prop :=
  Posts t src (.west src.row) (.fab 0 ⟨p.src, s.devid, 0, 1, false, p.jtag, b⟩)

end Sys2Proof.Stated

/-! ## Events of the fabric and of checkpoints (chapters 21, 24) -/

/-- R233, R319 to R328, R343, R359, R367: packets cross, enter the mesh, are answered, discarded and NAKed, what comes back ends or holds
back what it answers, ports go up and down, and tags time out; R361 to R365: the slots, the digests, the Flush and the commit of a
checkpoint.
Where it rests on log 4, log 31 and log 32 it states the model's choice. -/
def Obligations.FabricEvents : Prop :=
  (∀ (s : State) (port : Nat) (p : FabPkt), (s.port port).up = true → port < 32 → p.hop < 5 → p.cls < 4 → (∀ n c, p.body ≠ .linkAck n c) →
    p.dst ≠ s.devid →
    let q := Stated.crossed p
    let n := fieldOf (s.routes.getD p.dst 0).toNat 0 5
    (p.hop < 4 → (s.routes.getD p.dst 0).toNat.testBit 25 = true → p.ord = true → (s.port n).up = true →
      fabFlits q ≤ (s.port n).credits.getD (5 * q.cls + q.hop) 0 → s.fabOut = [] →
      ∃ t : State, exec (.fabricPacketArrival port p) s = .next t ∧ (t.port n).replay = (s.port n).replay ++ [q] ∧ t.fabOut = []
        ∧ (t.port n).credits = (s.port n).credits.set (5 * q.cls + q.hop) ((s.port n).credits.getD (5 * q.cls + q.hop) 0 - fabFlits q)
        ∧ (t.port port).acked = (s.port port).acked + fabFlits q
        ∧ (t.port port).returned.getD (5 * p.cls + p.hop) 0 = (s.port port).returned.getD (5 * p.cls + p.hop) 0 + fabFlits q)
    ∧ (p.hop < 4 → (s.routes.getD p.dst 0).toNat.testBit 25 = true → p.ord = true →
      (s.port n).credits.getD (5 * q.cls + q.hop) 0 < fabFlits q →
      ∃ t : State, exec (.fabricPacketArrival port p) s = .next t ∧ t.fabOut = s.fabOut ++ [⟨q, some n, some (port, 5 * p.cls + p.hop)⟩]
        ∧ (t.port port).returned = (s.port port).returned)
    ∧ (p.hop = 4 → p.src ≠ s.devid → ∃ t : State, ∃ l, exec (.fabricPacketArrival port p) s = .next t ∧ t.log = s.log ++ .discarded q :: l))
  ∧ (∀ (s : State) (port : Nat) (p : FabPkt) (flits : Nat) (credits : List Nat), (s.port port).up = true → port < 32 → p.hop < 5 → p.cls < 4 →
    p.body = .linkAck flits credits → s.fabOut = [] →
    ∃ t : State, exec (.fabricPacketArrival port p) s = .next t ∧ (t.port port).since = s.clk ∧ (t.port port).replay = ackFlits flits (s.port port).replay
      ∧ ∀ i, i < 20 → (t.port port).credits.getD i 0 = (s.port port).credits.getD i 0 + credits.getD i 0)
  ∧ (∀ (s : State) (port : Nat) (p : FabPkt), Stated.FabricAt s port p →
    (∀ h args srcV out, p.body = .send h args srcV out → holderOf s p.jtag = none →
      ∃ t : State, ∃ hint, hint < 7 ∧ exec (.fabricPacketArrival port p) s = .next t
        ∧ Stated.Answers s t (portNode port 0) p (.retrySend out hint true))
    ∧ (∀ h args srcV out n j, p.body = .send h args srcV out → holderOf s p.jtag = some n → s.context? n = some j →
      let dst := if n < 2 ^ 20 then Endpoint.unit j.die else .west 0
      let src := portNode port dst.row
      (farQueued s src < 32 → farSendOk j h = true → ∃ t : State, ∃ m, exec (.fabricPacketArrival port p) s = .next t ∧ m.hdr = h
        ∧ m.args = args ∧ m.job = (if n < 2 ^ 20 then n else 0) ∧ Stated.Entered t port dst (.farSend m p.src out (hdrWeight h)))
      ∧ (32 ≤ farQueued s src → ∃ t : State, ∃ hint, hint < 7 ∧ exec (.fabricPacketArrival port p) s = .next t
        ∧ Stated.Answers s t src p (.retrySend out hint false))
      ∧ (farQueued s src < 32 → farSendOk j h = false → ∃ t : State, exec (.fabricPacketArrival port p) s = .next t
        ∧ Stated.Answers s t src p (.failed true out 3 0) ∧ t.log = s.log ++ [.fatal 3 n 0]))
    ∧ (∀ va len tile req v, p.body = .copyRead va len tile req v → holderOf s p.jtag = none →
      ∃ t : State, ∃ hint, hint < 7 ∧ exec (.fabricPacketArrival port p) s = .next t
        ∧ Stated.Answers s t (portNode port 0) p (.retryReq req hint va 0 true))
    ∧ (∀ va len tile req v n j pa e addr bits, p.body = .copyRead va len tile req v → holderOf s p.jtag = some n → s.context? n = some j →
      s.walk j.ptroot va = .page pa e addr bits → pa.testBit 51 = false →
      ∃ t : State, ∃ a, exec (.fabricPacketArrival port p) s = .next t ∧ Stated.Entered t port (servingUnit pa 0) (.access a)
        ∧ a.pa = noPa ∧ a.va = va ∧ a.len = len ∧ a.kind = .read ∧ a.req = req ∧ a.job = n ∧ a.dev = some p.src)
    ∧ (∀ o hint tag sub arg, s.out? o.id = some o → p.body = .retrySend o.id hint tag ∨ p.body = .failed true o.id sub arg ∧ sub ≠ 5 →
      ∃ t : State, exec (.fabricPacketArrival port p) s = .next t ∧ Stated.Entered t port o.src (.fabIn (Stated.crossed p)))
    ∧ (∀ r f b hint node hops tag code flags words, s.req? r.id = some r → r.kind = .near f b →
      p.body = .retryReq r.id hint node hops tag ∨ p.body = .result r.id code flags words →
      ∃ t : State, exec (.fabricPacketArrival port p) s = .next t ∧ Stated.Entered t port (.ni (r.core / 8)) (.fabIn (Stated.crossed p)))
    ∧ (∀ o units j, p.body = .credit o.id units → s.out? o.id = some o → s.job? o.msg.job = some j →
      (j.census = none → ∃ t : State, exec (.fabricPacketArrival port p) s = .next t ∧ Stated.Entered t port o.src (.fabIn (Stated.crossed p)))
      ∧ (j.census ≠ none → ∃ t : State, exec (.fabricPacketArrival port p) s = .next t ∧ t.fabWait = s.fabWait ++ [Stated.crossed p]
        ∧ t.packets = s.packets))
    ∧ (∀ isSend item arg, p.body = .failed isSend item 5 arg → ∃ t : State, exec (.fabricPacketArrival port p) s = .next t
      ∧ t.log = s.log ++ [.fatal 5 (2 ^ 20 + p.jtag) 0] ∧ t.packets = s.packets)
    ∧ (∀ o w tile cls, s.out? o.id = some o →
        p.body = .nak true false o.id tile w cls p.dst ∨ p.body = .nak true true o.id tile w cls s.devid →
      ∃ t : State, exec (.fabricNakArrival port p) s = .next t ∧ Stated.Entered t port o.src (.fabIn (Stated.crossed p)))
    ∧ (∀ r f b w tile cls dest, s.req? r.id = some r → r.kind = .near f b → p.body = .nak false false r.id tile w cls dest →
      ∃ t : State, exec (.fabricNakArrival port p) s = .next t ∧ Stated.Entered t port (.ni (r.core / 8)) (.fabIn (Stated.crossed p))))
  ∧ (∀ (s : State) (p : Packet) (f : FabPkt), s.arrived? p.id = some p → p.body = .fabIn f →
    (∀ out hint tag o, f.body = .retrySend out hint tag → s.out? out = some o → hint < 7 →
      ∃ t : State, ∃ x, exec (.pieceLanding p.id) s = .next t ∧ t.out? out = some x ∧ x.state = .refused ∧ x.due = s.clk + 16 * 2 ^ hint
        ∧ x.first = (if tag = true ∧ o.first = 0 then s.clk + 1 else o.first) ∧ x.msg = o.msg)
    ∧ (∀ req hint node hops tag r g b, f.body = .retryReq req hint node hops tag → s.req? req = some r → r.kind = .near g b → hint < 7 →
      ∃ t : State, ∃ x, exec (.pieceLanding p.id) s = .next t ∧ t.req? req = some x ∧ x.due = s.clk + 16 * 2 ^ hint ∧ x.kind = r.kind ∧ x.v = r.v
        ∧ x.failAt = node ∧ x.left = hops ∧ x.first = if tag = true ∧ r.first = 0 then s.clk + 1 else r.first)
    ∧ (∀ code flags words r, f.body = .result r.id code flags words → s.req? r.id = some r → words.length ≤ 13 →
      ∃ t : State, exec (.pieceLanding p.id) s = .next t
        ∧ Stated.Completed s t (.ni (r.core / 8)) r ([statusWord code flags 0, r.cm.tag] ++ words))
    ∧ (∀ bytes bte ch seq r x j b, f.body = .data r.id x.moved bytes → s.req? r.id = some r → bteOf s r.id = some (bte, x) →
      s.job? r.job = some j → r.kind = .copy false b ch seq → x.failed = (0, 0) → x.dsrc = 0 → bytes ≠ [] →
      ∃ t : State, exec (.pieceLanding p.id) s = .next t
        ∧ Stated.PieceSent t bte r (dstSide s (wordAt b 0)) (wordAt b 2 + x.moved) bytes.length (some bytes))
    ∧ (∀ o units j, f.body = .credit o.id units → s.out? o.id = some o → s.job? o.msg.job = some j → j.census = none →
      ∃ t : State, exec (.pieceLanding p.id) s = .next t ∧ t.out? o.id = none
        ∧ (hdrWeight o.msg.hdr ≠ 0 → ∃ x ∈ t.packets, x.src = o.src ∧ x.dst = .unit j.die
          ∧ x.body = .pod o.msg.job (hdrWeight o.msg.hdr) false false))
    ∧ (∀ o sub arg, f.body = .failed true o.id sub arg → s.out? o.id = some o →
      ∃ u : State, u.out? o.id = none ∧ Stated.EndsAt s u o.src o.msg.job (hdrWeight o.msg.hdr) true
        ∧ exec (.pieceLanding p.id) s = .next { (u.fatal o.msg.job 0 sub 0 (BitVec.ofNat 64 arg) o.src) with free := s.free + 1 })
    ∧ (∀ o w tile cls dest, f.body = .nak true false o.id tile w cls dest → s.out? o.id = some o →
      ∃ u : State, u.out? o.id = none ∧ Stated.EndsAt s u o.src o.msg.job (hdrWeight o.msg.hdr) false
        ∧ exec (.pieceLanding p.id) s = .next { (u.fatal o.msg.job 0 6 0 0 o.src) with free := s.free + 1 })
    ∧ (∀ o w tile cls, f.body = .nak true true o.id tile w cls s.devid → s.out? o.id = some o →
      ∃ t : State, exec (.pieceLanding p.id) s = .next t ∧ t.out? o.id = none
        ∧ Stated.EndsAt s t o.src o.msg.job (hdrWeight o.msg.hdr) false)
    ∧ (∀ r g b w tile cls dest, f.body = .nak false false r.id tile w cls dest → s.req? r.id = some r → r.kind = .near g b →
      ∃ u : State, u.req? r.id = none ∧ Stated.EndsAt s u (.ni (r.core / 8)) r.job r.v false
        ∧ exec (.pieceLanding p.id) s = .next { (u.fatal r.job r.vcore 6 0 0 (.ni (r.core / 8))) with free := s.free + 1 }))
  ∧ (∀ (s : State) (w : Nat × Access) (j : Job) (d e addr bits : Nat), s.walks.find? (fun x => x.1 == w.1) = some w →
    s.context? w.2.job = some j → w.2.dev = some d → w.2.node = 0 → s.walk j.ptroot w.2.va = .locator e addr bits →
    ∃ t : State, exec (.pageWalk w.1) s = .next t ∧ t.log = s.log ++ [.fatal 2 w.2.job (BitVec.ofNat 64 w.2.va)]
      ∧ Stated.Posts t (stationEnd w.2.st) (.west (stationEnd w.2.st).row)
          (.fab 0 ⟨d, s.devid, 0, 1, false, s.jtag w.2.job, .failed false w.2.req 2 w.2.va⟩))
  ∧ (∀ (s : State) (port : Nat), exec (.flitCrcReplay port) s = .next s)
  ∧ (∀ (s : State) (port : Nat), port < 32 → (s.port port).up = true → (s.port port).replay ≠ [] → (s.port port).since + 2 ^ 20 ≤ s.clk →
    ∃ t : State, exec (.portDown port) s = .next t ∧ (t.port port).up = false ∧ (t.port port).replay = [] ∧ LogEntry.portDown port ∈ t.log
      ∧ ∀ q ∈ (s.port port).replay, LogEntry.discarded q ∈ t.log)
  ∧ (∀ (s : State) (port : Nat), port < 32 → (s.port port).up = false →
    (s.inReset = false → ∃ t : State, exec (.portUp port) s = .next t ∧ (t.port port).up = true ∧ (t.port port).replay = []
      ∧ (t.port port).since = s.clk)
    ∧ (s.inReset = true → exec (.portUp port) s = .next s))
  ∧ (∀ (s : State) (o : OutMsg) (d : Nat), s.out? o.id = some o → o.far = some d → o.state = .refused → o.first ≠ 0 → o.first + 2 ^ 24 ≤ s.clk + 1 →
    ∃ u : State, u.out? o.id = none ∧ Stated.EndsAt s u o.src o.msg.job (hdrWeight o.msg.hdr) false
      ∧ (∃ q ∈ u.packets, q.src = o.src ∧ q.body = .fab 0 ⟨d, s.devid, 0, 1, false, s.jtag o.msg.job, .failed true o.id 5 0⟩)
      ∧ exec (.jobTagTimeout o.id) s = .next { (u.fatal o.msg.job 0 5 0 0 o.src) with free := s.free + 1 })
  ∧ (∀ (s : State) (r : Req) (f d : Nat) (b : List Word), s.out? r.id = none → s.req? r.id = some r → r.kind = .near f b → nearFar s b = some d →
    r.due ≠ 0 → r.first ≠ 0 → r.first + 2 ^ 24 ≤ s.clk + 1 →
    ∃ u : State, u.req? r.id = none ∧ Stated.EndsAt s u (.ni (r.core / 8)) r.job r.v false
      ∧ (∃ q ∈ u.packets, q.src = .ni (r.core / 8) ∧ q.body = .fab 0 ⟨d, s.devid, 0, 1, false, s.jtag r.job, .failed false r.id 5 0⟩)
      ∧ exec (.jobTagTimeout r.id) s = .next { (u.fatal r.job r.vcore 5 0 0 (.ni (r.core / 8))) with free := s.free + 1 })
  ∧ (∀ (s : State) (jtag gen entry chunk : Nat) (bytes : List Byte),
    (s.ckpt = [] → ∃ t : State, exec (.checkpointDigestArrival jtag gen entry chunk bytes) s = .next t
        ∧ t.peerDigests = s.peerDigests ++ [⟨jtag, gen, entry, chunk, bytes⟩] ∧ t.ckpt = [])
    ∧ (∀ k rest slot own a, s.ckpt = k :: rest → k.jtag = jtag → wordAt k.hdr 2 = gen → k.phase = 0 →
      k.digests.find? (fun x => x.2.1 == (entry, chunk)) = some (slot, (entry, chunk), own) → k.awaiting.find? (fun x => x.1 == slot) = some a →
      k.result.toNat % 256 = 0 →
      ∃ t : State, exec (.checkpointDigestArrival jtag gen entry chunk bytes) s = .next t ∧ t.ckpt = { k with
        awaiting := k.awaiting.erase a, result := if own = bytes then k.result else Stated.failedAt 3 entry chunk } :: rest))
  ∧ (∀ (s : State) (k : Ckpt) (rest : List Ckpt) (ok : Bool) (bad : List Nat), s.ckpt = k :: rest → k.result.toNat % 256 = 0 → s.nvme.data.wf = true →
    let result := if ok = true ∧ s.clk < k.started + 6400000000 then k.result else Stated.failedAt 1 0 0
    (k.phase = 0 → k.entries = [] → s.peerDigests = [] → k.awaiting ≠ [] → ∃ t : State, exec (.checkpointFlushDone ⟨ok, bad⟩) s = .next t
        ∧ t.ckpt = { k with phase := 1, result := result } :: rest ∧ t.nvme = s.nvme)
    ∧ (k.phase = 0 → k.entries = [] → s.peerDigests = [] → k.awaiting = [] → ∃ t : State, exec (.checkpointFlushDone ⟨ok, bad⟩) s = .next t
        ∧ t.ckpt = { k with phase := 2, started := s.clk, result := result } :: rest
        ∧ ∀ port, port < 8 → (wordAt k.hdr 0).testBit port = true →
          t.nvme.data.read (nvmeAddr port (fieldOf (wordAt k.hdr 0) 8 4) (areaStart k.hdr k.nslot)) 24
            = wordBytes (BitVec.ofNat 64 (wordAt k.hdr 2)) ++ wordBytes (BitVec.ofNat 64 k.nslot) ++ wordBytes result)
    ∧ (∀ c bs, k.phase = 0 → ok = true → s.clk < k.started + 6400000000 → k.chunks = [(0, c)] → k.awaiting = [] → s.peerDigests = [] →
        chunkBytes s k c = some bs → writes_ k.rank c = true → c.copies < c.group →
        let port := (slotPlace k.hdr k.nslot 0).1
        let block := (slotPlace k.hdr k.nslot 0).2
        let ns := fieldOf (wordAt k.hdr 0) 8 4
        let dg := sha512 bs
        s.nvmeOn port = true →
        (s.blocksOk port ns block (1 + c.len / 4096) = true → 0 ∉ bad → ∃ t : State, exec (.checkpointFlushDone ⟨ok, bad⟩) s = .next t
          ∧ t.nvme.data = (s.nvme.data.write (nvmeAddr port ns block) (dg ++ wordBytes (BitVec.ofNat 64 (wordAt k.hdr 2))
            ++ wordBytes (BitVec.ofNat 64 c.entry) ++ wordBytes (BitVec.ofNat 64 c.number) ++ wordBytes (BitVec.ofNat 64 c.len))).write
              (nvmeAddr port ns (block + 1)) bs
          ∧ ∃ k' r, t.ckpt = k' :: r ∧ k'.phase = 1 ∧ k'.result = k.result
            ∧ k'.awaiting = List.replicate (c.group - c.copies) (0, s.clk + 1600000000))
        ∧ (0 ∈ bad → ∃ t : State, exec (.checkpointFlushDone ⟨ok, bad⟩) s = .next t ∧ t.nvme = s.nvme
          ∧ ∃ k' r, t.ckpt = k' :: r ∧ k'.result = Stated.failedAt 1 c.entry c.number))
    ∧ (k.phase = 2 → ∀ pa e addr bits sp q, s.lookup k.pt (k.map + 40) = some (pa, e, addr, bits) → physSpace pa = some (sp, q) →
      pteW e = true → pteD e = true →
      ∃ t : State, exec (.checkpointFlushDone ⟨ok, bad⟩) s = .next t ∧ t.ckpt = rest ∧ t.mem sp = (s.mem sp).write q (wordBytes result)
        ∧ (∀ f : Future, k.hdr.getD 3 0 ≠ 0 → s.future (k.hdr.getD 3 0).toNat = f → f.owner = some 1024 → f.set = false →
          f.gen = fieldOf (k.hdr.getD 3 0).toNat 32 16 →
          (t.future (k.hdr.getD 3 0).toNat).set = true ∧ (t.future (k.hdr.getD 3 0).toNat).value = result)))
  ∧ (∀ (s : State) (k : Ckpt) (rest : List Ckpt) (slot entry chunk : Nat) (own : List Byte) (a : Nat × Nat), s.ckpt = k :: rest → k.phase = 0 →
    k.result.toNat % 256 = 0 → k.awaiting.find? (fun x => x.1 == slot && decide (x.2 ≤ s.clk)) = some a →
    k.digests.find? (fun d => d.1 == slot) = some (slot, (entry, chunk), own) →
    ∃ t : State, exec (.checkpointPeerlost slot) s = .next t
      ∧ t.ckpt = { k with awaiting := k.awaiting.erase a, result := Stated.failedAt 4 entry chunk } :: rest)

namespace Sys2Proof.Stated

/-- A host future command names an EMPTY or SET entry of the launch unit's (R372). -/
def HostEntry (s : State) (f : Future) : Prop :=
  s.inReset = false ∧ s.hostFut.done = true ∧ handleForm s.hostFut.handle.toNat = true ∧ s.future s.hostFut.handle.toNat = f ∧ f.owner = some 1024
    ∧ f.gen = fieldOf s.hostFut.handle.toNat 32 16

/-- An access of the window at an offset goes to HBM bytes from an address on (R371). -/
def WindowAt (s : State) (off n a : Nat) : Prop :=
  s.inReset = false ∧ s.winbaseOld = s.winbase ∧ 0 < n ∧ off + n ≤ 64 * 2 ^ 30 ∧ a = fieldOf s.winbase.toNat 36 15 * 2 ^ 36 + off

/-- The host's reads and writes of the window, its commands on futures, and its register writes that act (R276, R298, R301, R320, R325, R344,
R371, R372). -/
def hostCommand : Instr → Bool
  | .hwqDoorbell _ _ _ | .tlbInvalidate _ | .poolTailWrite _ _ | .jobTagWrite _ _ | .routeEntryWrite _ _ | .jobctlResume _ | .jobctlAbort _
  | .hostFutureNew | .hostFutureSet | .hostFutureFree | .hostFuturePeek | .hostWindowRead _ _ | .hostWindowWrite _ _ => true
  | _ => false

/-- A command of the Melbex controller has ended with an error code and n bytes of output, and its interrupt is sent (R373, R374). -/
def MelbexEnds (s t : State) (cmd err n : Nat) : Prop :=
  t.melbex.cmd = cmd ∧ t.melbex.err = err ∧ t.melbex.busy = false ∧ t.melbex.len = n ∧ t.msix = s.msix ++ [1024]

/-- The controller runs a command (R374). -/
def MelbexRuns (s : State) (cmd : Nat) : Prop := s.melbex.busy = true ∧ s.melbex.cmd = cmd

/-- n bytes of BUF from a place on (R374). -/
def bufBytes (s : State) (i n : Nat) : List (BitVec 8) := (List.range n).map (fun k => s.melbex.buf.getD (i + k) 0)

end Sys2Proof.Stated

/-! ## Events of the platform and of the host (chapters 18, 19, 21, 23, 25) -/

/-- R265, R266, R331: what an uncorrectable soft error marks or discards; R276, R298, R301, R320, R325, R344: what host writes do; R291,
R376, R377: power, heat and reset; R368 to R375: the link, the window, host futures, registers and the Melbex controller.
Where it rests on log 17 (the layout of BUF), log 31, log 33, log 34, log 35, log 36 and log 60 it states the model's choice. -/
def Obligations.PlatformEvents : Prop :=
  (∀ (s : State) (die : Nat) (duties : List Nat), s.clk % 6400 = 0 → s.clk ≠ 0 → die < 8 → duties.length = 256 → (∀ n ∈ duties, 1 ≤ n ∧ n ≤ 16) →
    ∃ t : State, exec (.powerGrant die duties) s = .next t ∧ ∀ x y, x < 16 → y < 16 →
      (t.tile (128 * y + 16 * die + x)).duty = duties.getD (16 * y + x) 0)
  ∧ (∀ (s : State) (die : Nat) (duties : List Nat), ¬(s.clk % 6400 = 0 ∧ s.clk ≠ 0 ∧ die < 8 ∧ duties.length = 256 ∧ ∀ n ∈ duties, 1 ≤ n ∧ n ≤ 16) →
    exec (.powerGrant die duties) s = .next s)
  ∧ (∀ (s : State) (die : Nat), die < s.dutyCap.length →
    ∃ t : State, exec (.thermalCap die) s = .next t ∧ t.dutyCap.getD die 0 = 8 ∧ ∀ d, d ≠ die → t.dutyCap.getD d 0 = s.dutyCap.getD d 0)
  ∧ (∀ (s : State) (die : Nat), die < 8 →
    ∃ t : State, exec (.thermalHalt die) s = .next t ∧ t.halted = some 0x110 ∧ t.log = s.log ++ [.halted 0x110])
  ∧ (∀ (s : State) (answers : List Bool), ∃ t : State, exec (.deviceReset answers) s = .next t ∧ t.jobs = [] ∧ t.ctxs = [] ∧ t.packets = [] ∧ t.halted = none
    ∧ (let image := if s.melbex.next = [] then s.melbex.image else s.melbex.next
      t.melbex.image = image ∧ t.melbex.next = [] ∧ t.inReset = !(decide (image = []) || Config.imageSigned image))
    ∧ t.clk = 0 ∧ t.queues = State.reset.queues ∧ t.futures = [] ∧ t.hostMem = s.hostMem ∧ t.hbm = s.hbm ∧ t.nvme.data = s.nvme.data
    ∧ t.nvme.enabled = State.reset.nvme.enabled ∧ t.nvme.failed = State.reset.nvme.failed ∧ t.nvme.answers = answers)
  ∧ (∀ (s : State) (width speed : Nat), 0 < width → width ≤ 16 → 0 < speed → speed ≤ 128 →
    ∃ t : State, exec (.linkTraining width speed) s = .next t ∧ t.link = (width, speed) ∧ t.log = s.log ++ [.link width speed])
  ∧ (∀ (s : State) (i : Instr), s.inReset = true → Stated.hostCommand i = true → exec i s = .next s)
  ∧ (∀ (s : State) (fn q tail : Nat), s.inReset = false → q < 1024 →
    (fn = 64 ∨ q / 16 = fn → ∃ t : State, exec (.hwqDoorbell fn q tail) s = .next t ∧ (t.queue q).tail = tail % 2 ^ 17
      ∧ (t.queue q).head = (s.queue q).head ∧ (t.queue q).qbase = (s.queue q).qbase ∧ ∀ r, r ≠ q → t.queue r = s.queue r)
    ∧ (fn ≠ 64 → q / 16 ≠ fn → exec (.hwqDoorbell fn q tail) s = .next s))
  ∧ (∀ (s : State) (va : BitVec 64), s.inReset = false → ∃ t : State, exec (.tlbInvalidate va) s = .next t ∧ t.tlbBusy = true
    ∧ ∀ (n : Nat) (e : TlbEntry), (e ∈ t.stationTlb.getD n [] ∨ e ∈ t.dieTlb.getD n []) → e.job = s.tlbJob →
      (s.tlbAll = true ∨ e.va / 2 ^ e.bits = fieldOf va.toNat 16 36 * 2 ^ 16 / 2 ^ e.bits) → e.dying = true)
  ∧ (∀ (s : State) (pool tail : Nat), s.inReset = false → pool < 48 → ∃ t : State, exec (.poolTailWrite pool tail) s = .next t ∧ (t.pool pool).tail = tail % 2 ^ 21
    ∧ ∀ port, ∀ r ∈ t.sqes.getD port [], r.pool = pool → r.waiting = none)
  ∧ (∀ (s : State) (job : Nat) (value : BitVec 64), s.inReset = false → job < 1024 →
    (∀ j : Job, s.job? job = some j → ∃ t : State, exec (.jobTagWrite job value) s = .next t
      ∧ t.job? job = some { j with jtag := fieldOf value.toNat 0 16, tvalid := value.toNat.testBit 16 })
    ∧ (s.job? job = none → ∃ t : State, exec (.jobTagWrite job value) s = .next t ∧ t.jobs = s.jobs ∧ t.jobTags.getD job 0 = fieldOf value.toNat 0 17))
  ∧ (∀ (s : State) (d : Nat) (value : BitVec 64), s.inReset = false → d < 4096 →
    let hops := fieldOf value.toNat 22 3
    (d = s.devid ∨ (value.toNat.testBit 25 = true ∧ (hops = 0 ∨ 6 ≤ hops)) →
      ∃ t : State, exec (.routeEntryWrite d value) s = .next t ∧ t.routes = s.routes ∧ t.log = s.log ++ [.badRoute d])
    ∧ (d ≠ s.devid → (value.toNat.testBit 25 = false ∨ (1 ≤ hops ∧ hops ≤ 5)) →
      ∃ t : State, exec (.routeEntryWrite d value) s = .next t ∧ (t.routes.getD d 0).toNat = fieldOf value.toNat 0 26
        ∧ ∀ e, e ≠ d → t.routes.getD e 0 = s.routes.getD e 0))
  ∧ (∀ (s : State) (job : Nat) (j : Job), s.inReset = false → s.job? job = some j →
    (s.pinned j.ptroot (j.ovfbase + 144 * (j.ringTail % j.ovfn)) 144 3 = true →
      ∃ t : State, exec (.jobctlResume job) s = .next t ∧ t.job? job = some { j with parked := false })
    ∧ (s.pinned j.ptroot (j.ovfbase + 144 * (j.ringTail % j.ovfn)) 144 3 = false → exec (.jobctlResume job) s = .next s)
    ∧ (j.homew ≠ 2 ^ j.wtotal → j.drawq = [] → ∃ t : State, ∃ k, exec (.jobctlAbort job) s = .next t ∧ t.job? job = some k ∧ k.killed = true ∧ k.armed = false
      ∧ ∀ tile ∈ j.place, ∀ q ∈ (t.tile tile).posted, q.job ≠ job))
  ∧ (∀ (s : State), s.inReset = false → s.hostFut.done = true →
    (∀ i, i < 16384 → (Stated.entry s 0 i).owner = none → (∀ k, k < i → (Stated.entry s 0 k).owner ≠ none) →
      ∃ t : State, exec .hostFutureNew s = .next t ∧ t.hostFut.handle = mkHandle 0 i (Stated.entry s 0 i).gen ∧ t.hostFut.full = false
        ∧ Stated.entry t 0 i = ⟨some 1024, false, 0, (Stated.entry s 0 i).gen, [], none⟩)
    ∧ ((∀ k, k < 16384 → (Stated.entry s 0 k).owner ≠ none) →
      ∃ t : State, exec .hostFutureNew s = .next t ∧ t.hostFut.handle = 0 ∧ t.hostFut.full = true ∧ t.futures = s.futures)
    ∧ (handleForm s.hostFut.handle.toNat = false ∨ (s.future s.hostFut.handle.toNat).owner ≠ some 1024
        ∨ (s.future s.hostFut.handle.toNat).gen ≠ fieldOf s.hostFut.handle.toNat 32 16 →
      ∀ i ∈ [Instr.hostFutureSet, Instr.hostFutureFree, Instr.hostFuturePeek],
        ∃ t : State, exec i s = .next t ∧ t.hostFut.stale = true ∧ t.hostFut.set = false ∧ t.futures = s.futures))
  ∧ (∀ (s : State) (f : Future), Stated.HostEntry s f →
    let h := s.hostFut.handle.toNat
    (f.set = false → ∃ t : State, exec .hostFutureSet s = .next t ∧ (t.future h).set = true ∧ (t.future h).value = s.hostFut.value
      ∧ t.hostFut.set = true ∧ t.hostFut.wasset = false ∧ t.hostFut.stale = false)
    ∧ (f.set = true → ∃ t : State, exec .hostFutureSet s = .next t ∧ t.future h = f ∧ t.hostFut.wasset = true ∧ t.hostFut.stale = false)
    ∧ (∃ t : State, exec .hostFutureFree s = .next t ∧ t.future h = ⟨none, false, 0, (f.gen + 1) % 65536, [], none⟩ ∧ t.hostFut.stale = false)
    ∧ (∃ t : State, exec .hostFuturePeek s = .next t ∧ t.futures = s.futures ∧ t.hostFut.set = f.set
      ∧ t.hostFut.value = (if f.set then f.value else 0) ∧ t.hostFut.stale = false))
  ∧ (∀ (s : State) (off n a : Nat), Stated.WindowAt s off n a →
    (physSpace a = some (.hbm, a) → physSpace (a + n - 1) = some (.hbm, a + n - 1) →
      (s.writes = [] → ∃ t : State, exec (.hostWindowRead off n) s = .next t ∧ t.winRead = s.hbm.read a n ∧ t.hbm = s.hbm)
      ∧ (∀ data : List (BitVec 8), data.length = n → ∃ t : State, exec (.hostWindowWrite off data) s = .next t ∧ t.hbm = s.hbm.write a data))
    ∧ (physSpace a = none →
      (∃ t : State, exec (.hostWindowRead off n) s = .next t ∧ t.winRead = List.replicate n 0xFF#8 ∧ t.log = s.log ++ [.windowNoMap off])
      ∧ (∀ data : List (BitVec 8), data.length = n →
        ∃ t : State, exec (.hostWindowWrite off data) s = .next t ∧ t.hbm = s.hbm ∧ t.log = s.log ++ [.windowNoMap off])))
  ∧ (∀ (s : State), Stated.MelbexRuns s 1 → ∃ t : State, exec .getkey s = .next t ∧ Stated.MelbexEnds s t 1 0 133
    ∧ t.melbex.buf.take 133 = (List.range 133).map Config.identityKey)
  ∧ (∀ (s : State), Stated.MelbexRuns s 2 → s.devid < 2 ^ 12 → ∃ t : State, ∃ n, exec (.attest (Stated.bufBytes s 0 64)) s = .next t ∧ Stated.MelbexEnds s t 2 0 n ∧ 270 ≤ n
    ∧ t.melbex.buf.take 72 = [1#8, BitVec.ofNat 8 s.devid, BitVec.ofNat 8 (s.devid / 256), 1#8, 0x36#8, 0x15#8, 0x04#8, 0x00#8]
      ++ Stated.bufBytes s 0 64)
  ∧ (∀ (s : State), Stated.MelbexRuns s 3 → s.writes = [] →
    let addr := leNat (Stated.bufBytes s 0 8)
    let n := leNat (Stated.bufBytes s 8 8)
    let image := s.hostMem.read addr n
    ∃ t : State, exec (.fwload addr n) s = .next t ∧ Stated.MelbexEnds s t 3 (if Config.imageSigned image then 0 else 2) 0
      ∧ t.melbex.next = if Config.imageSigned image then image else s.melbex.next)
  ∧ (∀ (s : State), Stated.MelbexRuns s 4 →
    let watts := leNat (Stated.bufBytes s 0 8)
    (1200 ≤ watts → watts ≤ 2600 → ∃ t : State, exec (.setbudget watts) s = .next t ∧ Stated.MelbexEnds s t 4 0 0 ∧ t.budget = watts)
    ∧ (watts < 1200 ∨ 2600 < watts → ∃ t : State, exec (.setbudget watts) s = .next t ∧ Stated.MelbexEnds s t 4 3 0 ∧ t.budget = s.budget))
  ∧ (∀ (s : State) (nonce : List (BitVec 8)) (addr n watts : Nat) (i : Instr) (cmd : Nat),
    (i, cmd) ∈ [(Instr.getkey, 1), (.attest nonce, 2), (.fwload addr n, 3), (.setbudget watts, 4)] →
    s.melbex.busy = false ∨ s.melbex.cmd ≠ cmd → exec i s = .next s)
  ∧ (∀ (s : State) (nonce : List (BitVec 8)) (addr n watts : Nat),
    (nonce ≠ Stated.bufBytes s 0 64 → exec (.attest nonce) s = .next s)
    ∧ (addr ≠ leNat (Stated.bufBytes s 0 8) ∨ n ≠ leNat (Stated.bufBytes s 8 8) → exec (.fwload addr n) s = .next s)
    ∧ (watts ≠ leNat (Stated.bufBytes s 0 8) → exec (.setbudget watts) s = .next s))
  ∧ (∀ (s : State) (value : BitVec 64),
    let c := value.toNat % 256
    (s.melbex.busy = true ∨ s.inReset = true ∧ c ≠ 1 ∧ c ≠ 3 → exec (.registerWrite 64 (2 ^ 40) value) s = .next s)
    ∧ (s.melbex.busy = false → s.inReset = false ∨ c = 1 ∨ c = 3 → 1 ≤ c → c ≤ 4 → ∃ t : State,
        exec (.registerWrite 64 (2 ^ 40) value) s = .next t ∧ Stated.MelbexRuns t c ∧ t.msix = s.msix)
    ∧ (s.melbex.busy = false → s.inReset = false → c = 0 ∨ 4 < c → ∃ t : State,
        exec (.registerWrite 64 (2 ^ 40) value) s = .next t ∧ Stated.MelbexEnds s t c 1 0)
    ∧ (∀ i k : Nat, i < 4064 → ∃ t : State, exec (.registerWrite 64 (2 ^ 40 + 0x100 + 8 * i) value) s = .next t
      ∧ leNat (Stated.bufBytes t (8 * i) 8) = value.toNat ∧ t.readRegister 64 (2 ^ 40 + 0x100 + 8 * i) = value
      ∧ (k < 8 * i ∨ 8 * i + 8 ≤ k → t.melbex.buf.getD k 0 = s.melbex.buf.getD k 0)))
  ∧ (∀ (s : State) (fn off : Nat), (fn < 64 ∧ 512 ≤ off) ∨ 64 < fn ∨ (fn = 64 ∧ 0x94008 ≤ off ∧ off < 2 ^ 40) → s.readRegister fn off = 0)
  ∧ (∀ (s : State) (value : BitVec 64), s.inReset = false →
    (∀ fn q : Nat, fn < 64 → q < 16 →
      (∃ t : State, exec (.registerWrite fn (32 * q) value) s = .next t ∧ (t.queue (16 * fn + q)).qbase = value
        ∧ t.readRegister fn (32 * q) = value ∧ t.readRegister 64 (0x10000 + 32 * (16 * fn + q)) = value)
      ∧ (∃ t : State, exec (.registerWrite fn (32 * q + 8) value) s = .next t ∧ (t.queue (16 * fn + q)).log2n = fieldOf value.toNat 0 5
        ∧ (t.queue (16 * fn + q)).prio = fieldOf value.toNat 5 2 ∧ (t.queue (16 * fn + q)).en = value.toNat.testBit 7
        ∧ t.readRegister fn (32 * q + 8) = BitVec.ofNat 64 (value.toNat % 256 + 256 * fn))
      ∧ (∀ off : Nat, 512 ≤ off → exec (.registerWrite fn off value) s = .next s))
    ∧ (∃ t : State, exec (.registerWrite 64 0x4000 value) s = .next t ∧ t.tlbJob = fieldOf value.toNat 0 10 ∧ t.tlbAll = value.toNat.testBit 10)
    ∧ (∀ p : Nat, p < 48 → ∃ t : State, exec (.registerWrite 64 (0x5000 + 32 * p) value) s = .next t ∧ (t.pool p).pbase = value
      ∧ t.readRegister 64 (0x5000 + 32 * p) = value)
    ∧ (∃ t : State, exec (.registerWrite 64 0x8000 value) s = .next t ∧ t.devid = fieldOf value.toNat 0 12
      ∧ t.readRegister 64 0x8000 = BitVec.ofNat 64 t.devid)
    ∧ (∃ t : State, exec (.registerWrite 64 0x92000 value) s = .next t ∧ t.privvf = value ∧ t.readRegister 64 0x92000 = value)
    ∧ (∃ t : State, exec (.registerWrite 64 0x93008 value) s = .next t ∧ t.hostFut.handle = value)
    ∧ (∃ t : State, exec (.registerWrite 64 0x93010 value) s = .next t ∧ t.hostFut.value = value)
    ∧ (∃ t : State, exec (.registerWrite 64 0x94000 value) s = .next t ∧ fieldOf t.winbase.toNat 36 15 = fieldOf value.toNat 36 15
      ∧ fieldOf t.winbase.toNat 0 36 = 0 ∧ fieldOf t.winbase.toNat 51 13 = 0 ∧ t.winbaseOld = s.winbase)
    ∧ ∀ off : Nat, off ∈ [0x8008, 0x94008, 0x3FF8, 0x4008, 0x4010] → exec (.registerWrite 64 off value) s = .next s)
  ∧ (∀ (s : State),
    (∀ (job vcore addr : Nat) (j : Job), s.job? job = some j → j.hasVcore vcore = true → addr < j.localLimit →
      ∃ t : State, exec (.uncorrectableSoftError (.localByte job vcore addr)) s = .next t ∧ locAddr job vcore addr ∈ t.eccLocal)
    ∧ (∀ (job vtile addr : Nat) (j : Job), s.job? job = some j → vtile < j.vtiles → addr < j.tileLimit →
      ∃ t : State, exec (.uncorrectableSoftError (.scratchByte job vtile addr)) s = .next t ∧ scratchAddr job vtile addr ∈ t.eccScratch)
    ∧ (∀ (ctx name : Nat) (c : Ctx), name < 56 → s.ctxs.get? ctx = some c →
      ∃ t : State, exec (.uncorrectableSoftError (.scalarName ctx name)) s = .next t
        ∧ t.ctxs.get? ctx = some { c with ecc := if c.ecc.contains name then c.ecc else c.ecc ++ [name] })
    ∧ (∀ (core slot : Nat) (x : Slot) (j : Job), (s.core core).mailbox[slot]? = some x → s.job? x.msg.job = some j → j.census = none → hdrWeight x.msg.hdr ≠ 0 →
      ∃ t : State, exec (.uncorrectableSoftError (.mailboxArgs core slot)) s = .next t ∧ (t.core core).mailbox = (s.core core).mailbox.eraseIdx slot
        ∧ ∃ p : Packet, p ∈ t.packets ∧ p.dst = .unit j.die ∧ p.body = .pod x.msg.job (hdrWeight x.msg.hdr) true false)
    ∧ (∀ (p : Packet) (readable : Bool) (m : Nat), s.packet? p.id = some p → p.body = .message m →
      ∃ t : State, exec (.uncorrectableSoftError (.packetHeader p.id readable)) s = .next t
        ∧ t.packet? p.id = some { p with hdrEcc := if readable then 1 else 2 }))
end

