-- ==== Sys2Proof/Laws/Dispatch.lean ====
section
/-! SUPPORT. The meaning `exec` gives each instruction, one lemma per constructor, so that no proof unfolds the dispatch. -/

namespace Sys2Proof.Laws

open Sys2Proof.Machine

theorem exec_aluAdd (d a b : Name) (m : Mark) (t : State) : exec (.aluAdd d a b m) t = execAluAdd d a b m t := rfl
theorem exec_aluSub (d a b : Name) (m : Mark) (t : State) : exec (.aluSub d a b m) t = execAluSub d a b m t := rfl
theorem exec_aluAnd (d a b : Name) (m : Mark) (t : State) : exec (.aluAnd d a b m) t = execAluAnd d a b m t := rfl
theorem exec_aluOr (d a b : Name) (m : Mark) (t : State) : exec (.aluOr d a b m) t = execAluOr d a b m t := rfl
theorem exec_aluXor (d a b : Name) (m : Mark) (t : State) : exec (.aluXor d a b m) t = execAluXor d a b m t := rfl
theorem exec_aluAndn (d a b : Name) (m : Mark) (t : State) : exec (.aluAndn d a b m) t = execAluAndn d a b m t := rfl
theorem exec_aluShl (d a b : Name) (m : Mark) (t : State) : exec (.aluShl d a b m) t = execAluShl d a b m t := rfl
theorem exec_aluShr (d a b : Name) (m : Mark) (t : State) : exec (.aluShr d a b m) t = execAluShr d a b m t := rfl
theorem exec_aluSra (d a b : Name) (m : Mark) (t : State) : exec (.aluSra d a b m) t = execAluSra d a b m t := rfl
theorem exec_aluRot (d a b : Name) (m : Mark) (t : State) : exec (.aluRot d a b m) t = execAluRot d a b m t := rfl
theorem exec_aluMin (d a b : Name) (m : Mark) (t : State) : exec (.aluMin d a b m) t = execAluMin d a b m t := rfl
theorem exec_aluMax (d a b : Name) (m : Mark) (t : State) : exec (.aluMax d a b m) t = execAluMax d a b m t := rfl
theorem exec_aluMinu (d a b : Name) (m : Mark) (t : State) : exec (.aluMinu d a b m) t = execAluMinu d a b m t := rfl
theorem exec_aluMaxu (d a b : Name) (m : Mark) (t : State) : exec (.aluMaxu d a b m) t = execAluMaxu d a b m t := rfl
theorem exec_aluSlt (d a b : Name) (m : Mark) (t : State) : exec (.aluSlt d a b m) t = execAluSlt d a b m t := rfl
theorem exec_aluSltu (d a b : Name) (m : Mark) (t : State) : exec (.aluSltu d a b m) t = execAluSltu d a b m t := rfl
theorem exec_alu2Seq (d a b : Name) (m : Mark) (t : State) : exec (.alu2Seq d a b m) t = execAlu2Seq d a b m t := rfl
theorem exec_alu2Sne (d a b : Name) (m : Mark) (t : State) : exec (.alu2Sne d a b m) t = execAlu2Sne d a b m t := rfl
theorem exec_alu2Clz (d a : Name) (m : Mark) (t : State) : exec (.alu2Clz d a m) t = execAlu2Clz d a m t := rfl
theorem exec_alu2Ctz (d a : Name) (m : Mark) (t : State) : exec (.alu2Ctz d a m) t = execAlu2Ctz d a m t := rfl
theorem exec_alu2Popc (d a : Name) (m : Mark) (t : State) : exec (.alu2Popc d a m) t = execAlu2Popc d a m t := rfl
theorem exec_alu2SextB (d a : Name) (m : Mark) (t : State) : exec (.alu2SextB d a m) t = execAlu2SextB d a m t := rfl
theorem exec_alu2SextH (d a : Name) (m : Mark) (t : State) : exec (.alu2SextH d a m) t = execAlu2SextH d a m t := rfl
theorem exec_alu2SextW (d a : Name) (m : Mark) (t : State) : exec (.alu2SextW d a m) t = execAlu2SextW d a m t := rfl
theorem exec_alu2ZextB (d a : Name) (m : Mark) (t : State) : exec (.alu2ZextB d a m) t = execAlu2ZextB d a m t := rfl
theorem exec_alu2ZextH (d a : Name) (m : Mark) (t : State) : exec (.alu2ZextH d a m) t = execAlu2ZextH d a m t := rfl
theorem exec_alu2ZextW (d a : Name) (m : Mark) (t : State) : exec (.alu2ZextW d a m) t = execAlu2ZextW d a m t := rfl
theorem exec_alu2Mul (d a b : Name) (m : Mark) (t : State) : exec (.alu2Mul d a b m) t = execAlu2Mul d a b m t := rfl
theorem exec_alu2Mulh (d a b : Name) (m : Mark) (t : State) : exec (.alu2Mulh d a b m) t = execAlu2Mulh d a b m t := rfl
theorem exec_alu2Mulhu (d a b : Name) (m : Mark) (t : State) : exec (.alu2Mulhu d a b m) t = execAlu2Mulhu d a b m t := rfl
theorem exec_alu2Div (d a b : Name) (m : Mark) (t : State) : exec (.alu2Div d a b m) t = execAlu2Div d a b m t := rfl
theorem exec_alu2Divu (d a b : Name) (m : Mark) (t : State) : exec (.alu2Divu d a b m) t = execAlu2Divu d a b m t := rfl
theorem exec_alu3Rem (d a b : Name) (m : Mark) (t : State) : exec (.alu3Rem d a b m) t = execAlu3Rem d a b m t := rfl
theorem exec_alu3Remu (d a b : Name) (m : Mark) (t : State) : exec (.alu3Remu d a b m) t = execAlu3Remu d a b m t := rfl
theorem exec_alu3Sel (d a b : Name) (m : Mark) (t : State) : exec (.alu3Sel d a b m) t = execAlu3Sel d a b m t := rfl
theorem exec_alu3Bext (d a b : Name) (m : Mark) (t : State) : exec (.alu3Bext d a b m) t = execAlu3Bext d a b m t := rfl
theorem exec_alu3Bins (d a b : Name) (m : Mark) (t : State) : exec (.alu3Bins d a b m) t = execAlu3Bins d a b m t := rfl
theorem exec_alu3Addsat (d a b : Name) (m : Mark) (t : State) : exec (.alu3Addsat d a b m) t = execAlu3Addsat d a b m t := rfl
theorem exec_alu3Subsat (d a b : Name) (m : Mark) (t : State) : exec (.alu3Subsat d a b m) t = execAlu3Subsat d a b m t := rfl
theorem exec_alu3Absdiff (d a b : Name) (m : Mark) (t : State) : exec (.alu3Absdiff d a b m) t = execAlu3Absdiff d a b m t := rfl
theorem exec_addi (d a : Name) (i : BitVec 10) (m : Mark) (t : State) : exec (.addi d a i m) t = execAddi d a i m t := rfl
theorem exec_andi (d a : Name) (i : BitVec 10) (m : Mark) (t : State) : exec (.andi d a i m) t = execAndi d a i m t := rfl
theorem exec_ori (d a : Name) (i : BitVec 10) (m : Mark) (t : State) : exec (.ori d a i m) t = execOri d a i m t := rfl
theorem exec_xori (d a : Name) (i : BitVec 10) (m : Mark) (t : State) : exec (.xori d a i m) t = execXori d a i m t := rfl
theorem exec_shiShl (d a : Name) (n : BitVec 6) (m : Mark) (t : State) : exec (.shiShl d a n m) t = execShiShl d a n m t := rfl
theorem exec_shiShr (d a : Name) (n : BitVec 6) (m : Mark) (t : State) : exec (.shiShr d a n m) t = execShiShr d a n m t := rfl
theorem exec_shiSra (d a : Name) (n : BitVec 6) (m : Mark) (t : State) : exec (.shiSra d a n m) t = execShiSra d a n m t := rfl
theorem exec_shiRot (d a : Name) (n : BitVec 6) (m : Mark) (t : State) : exec (.shiRot d a n m) t = execShiRot d a n m t := rfl
theorem exec_slti (d a : Name) (i : BitVec 10) (m : Mark) (t : State) : exec (.slti d a i m) t = execSlti d a i m t := rfl
theorem exec_movi (d : Name) (i : BitVec 16) (m : Mark) (t : State) : exec (.movi d i m) t = execMovi d i m t := rfl
theorem exec_sltiu (d a : Name) (i : BitVec 10) (m : Mark) (t : State) : exec (.sltiu d a i m) t = execSltiu d a i m t := rfl
theorem exec_beq (a b : Name) (o : BitVec 10) (m : Mark) (t : State) : exec (.beq a b o m) t = execBeq a b o m t := rfl
theorem exec_bne (a b : Name) (o : BitVec 10) (m : Mark) (t : State) : exec (.bne a b o m) t = execBne a b o m t := rfl
theorem exec_blt (a b : Name) (o : BitVec 10) (m : Mark) (t : State) : exec (.blt a b o m) t = execBlt a b o m t := rfl
theorem exec_bge (a b : Name) (o : BitVec 10) (m : Mark) (t : State) : exec (.bge a b o m) t = execBge a b o m t := rfl
theorem exec_bltu (a b : Name) (o : BitVec 10) (m : Mark) (t : State) : exec (.bltu a b o m) t = execBltu a b o m t := rfl
theorem exec_bgeu (a b : Name) (o : BitVec 10) (m : Mark) (t : State) : exec (.bgeu a b o m) t = execBgeu a b o m t := rfl
theorem exec_jmp (o : BitVec 22) (m : Mark) (t : State) : exec (.jmp o m) t = execJmp o m t := rfl
theorem exec_call (o : BitVec 22) (m : Mark) (t : State) : exec (.call o m) t = execCall o m t := rfl
theorem exec_ctlJr (a : Name) (m : Mark) (t : State) : exec (.ctlJr a m) t = execCtlJr a m t := rfl
theorem exec_ctlRet (m : Mark) (t : State) : exec (.ctlRet m) t = execCtlRet m t := rfl
theorem exec_ctlEnd (m : Mark) (t : State) : exec (.ctlEnd m) t = execCtlEnd m t := rfl
theorem exec_ctlNop (m : Mark) (t : State) : exec (.ctlNop m) t = execCtlNop m t := rfl
theorem exec_ctlTrap (a : Name) (m : Mark) (t : State) : exec (.ctlTrap a m) t = execCtlTrap a m t := rfl
theorem exec_loop (a : Name) (i : BitVec 10) (m : Mark) (t : State) : exec (.loop a i m) t = execLoop a i m t := rfl
theorem exec_ldl (d a : Name) (o : BitVec 6) (z : Size) (x q : Bool) (m : Mark) (t : State) : exec (.ldl d a o z x q m) t = execLdl d a o z x q m t := rfl
theorem exec_stl (d a : Name) (o : BitVec 6) (z : Size) (q : Bool) (m : Mark) (t : State) : exec (.stl d a o z q m) t = execStl d a o z q m t := rfl
theorem exec_ldt (d a : Name) (o : BitVec 6) (z : Size) (x q : Bool) (m : Mark) (t : State) : exec (.ldt d a o z x q m) t = execLdt d a o z x q m t := rfl
theorem exec_stt (d a : Name) (o : BitVec 6) (z : Size) (q : Bool) (m : Mark) (t : State) : exec (.stt d a o z q m) t = execStt d a o z q m t := rfl
theorem exec_fpFadd (d a b : Name) (m : Mark) (t : State) : exec (.fpFadd d a b m) t = execFpFadd d a b m t := rfl
theorem exec_fpFsub (d a b : Name) (m : Mark) (t : State) : exec (.fpFsub d a b m) t = execFpFsub d a b m t := rfl
theorem exec_fpFmul (d a b : Name) (m : Mark) (t : State) : exec (.fpFmul d a b m) t = execFpFmul d a b m t := rfl
theorem exec_fpFmin (d a b : Name) (m : Mark) (t : State) : exec (.fpFmin d a b m) t = execFpFmin d a b m t := rfl
theorem exec_fpFmax (d a b : Name) (m : Mark) (t : State) : exec (.fpFmax d a b m) t = execFpFmax d a b m t := rfl
theorem exec_fpFabs (d a : Name) (m : Mark) (t : State) : exec (.fpFabs d a m) t = execFpFabs d a m t := rfl
theorem exec_fpFneg (d a : Name) (m : Mark) (t : State) : exec (.fpFneg d a m) t = execFpFneg d a m t := rfl
theorem exec_fpFeq (d a b : Name) (m : Mark) (t : State) : exec (.fpFeq d a b m) t = execFpFeq d a b m t := rfl
theorem exec_fpFlt (d a b : Name) (m : Mark) (t : State) : exec (.fpFlt d a b m) t = execFpFlt d a b m t := rfl
theorem exec_fpFle (d a b : Name) (m : Mark) (t : State) : exec (.fpFle d a b m) t = execFpFle d a b m t := rfl
theorem exec_fpFcvtI2f (d a : Name) (m : Mark) (t : State) : exec (.fpFcvtI2f d a m) t = execFpFcvtI2f d a m t := rfl
theorem exec_fpFcvtU2f (d a : Name) (m : Mark) (t : State) : exec (.fpFcvtU2f d a m) t = execFpFcvtU2f d a m t := rfl
theorem exec_fpFcvtF2i (d a : Name) (m : Mark) (t : State) : exec (.fpFcvtF2i d a m) t = execFpFcvtF2i d a m t := rfl
theorem exec_fpFcvtF2u (d a : Name) (m : Mark) (t : State) : exec (.fpFcvtF2u d a m) t = execFpFcvtF2u d a m t := rfl
theorem exec_fpFsqrt (d a : Name) (m : Mark) (t : State) : exec (.fpFsqrt d a m) t = execFpFsqrt d a m t := rfl
theorem exec_fpFclass (d a : Name) (m : Mark) (t : State) : exec (.fpFclass d a m) t = execFpFclass d a m t := rfl
theorem exec_ffma (d a b : Name) (m : Mark) (t : State) : exec (.ffma d a b m) t = execFfma d a b m t := rfl
theorem exec_vadd (d a b : Fin 32) (t : VT) (k : Fin 4) (m : Mark) (st : State) : exec (.vadd d a b t k m) st = execVadd d a b t k m st := rfl
theorem exec_vsub (d a b : Fin 32) (t : VT) (k : Fin 4) (m : Mark) (st : State) : exec (.vsub d a b t k m) st = execVsub d a b t k m st := rfl
theorem exec_vmul (d a b : Fin 32) (t : VT) (k : Fin 4) (m : Mark) (st : State) : exec (.vmul d a b t k m) st = execVmul d a b t k m st := rfl
theorem exec_vfma (d a b : Fin 32) (t : VT) (k : Fin 4) (m : Mark) (st : State) : exec (.vfma d a b t k m) st = execVfma d a b t k m st := rfl
theorem exec_vmin (d a b : Fin 32) (t : VT) (k : Fin 4) (m : Mark) (st : State) : exec (.vmin d a b t k m) st = execVmin d a b t k m st := rfl
theorem exec_vmax (d a b : Fin 32) (t : VT) (k : Fin 4) (m : Mark) (st : State) : exec (.vmax d a b t k m) st = execVmax d a b t k m st := rfl
theorem exec_vabs (d a : Fin 32) (t : VT) (k : Fin 4) (m : Mark) (st : State) : exec (.vabs d a t k m) st = execVabs d a t k m st := rfl
theorem exec_vneg (d a : Fin 32) (t : VT) (k : Fin 4) (m : Mark) (st : State) : exec (.vneg d a t k m) st = execVneg d a t k m st := rfl
theorem exec_vand (d a b : Fin 32) (t : VT) (k : Fin 4) (m : Mark) (st : State) : exec (.vand d a b t k m) st = execVand d a b t k m st := rfl
theorem exec_vor (d a b : Fin 32) (t : VT) (k : Fin 4) (m : Mark) (st : State) : exec (.vor d a b t k m) st = execVor d a b t k m st := rfl
theorem exec_vxor (d a b : Fin 32) (t : VT) (k : Fin 4) (m : Mark) (st : State) : exec (.vxor d a b t k m) st = execVxor d a b t k m st := rfl
theorem exec_vandn (d a b : Fin 32) (t : VT) (k : Fin 4) (m : Mark) (st : State) : exec (.vandn d a b t k m) st = execVandn d a b t k m st := rfl
theorem exec_vshl (d a b : Fin 32) (t : VT) (k : Fin 4) (m : Mark) (st : State) : exec (.vshl d a b t k m) st = execVshl d a b t k m st := rfl
theorem exec_vshr (d a b : Fin 32) (t : VT) (k : Fin 4) (m : Mark) (st : State) : exec (.vshr d a b t k m) st = execVshr d a b t k m st := rfl
theorem exec_vsra (d a b : Fin 32) (t : VT) (k : Fin 4) (m : Mark) (st : State) : exec (.vsra d a b t k m) st = execVsra d a b t k m st := rfl
theorem exec_vrot (d a b : Fin 32) (t : VT) (k : Fin 4) (m : Mark) (st : State) : exec (.vrot d a b t k m) st = execVrot d a b t k m st := rfl
theorem exec_vceq (d : Fin 8) (a b : Fin 32) (t : VT) (k : Fin 4) (m : Mark) (st : State) : exec (.vceq d a b t k m) st = execVceq d a b t k m st := rfl
theorem exec_vclt (d : Fin 8) (a b : Fin 32) (t : VT) (k : Fin 4) (m : Mark) (st : State) : exec (.vclt d a b t k m) st = execVclt d a b t k m st := rfl
theorem exec_vcle (d : Fin 8) (a b : Fin 32) (t : VT) (k : Fin 4) (m : Mark) (st : State) : exec (.vcle d a b t k m) st = execVcle d a b t k m st := rfl
theorem exec_vcne (d : Fin 8) (a b : Fin 32) (t : VT) (k : Fin 4) (m : Mark) (st : State) : exec (.vcne d a b t k m) st = execVcne d a b t k m st := rfl
theorem exec_vsel (d a b : Fin 32) (t : VT) (k : Fin 4) (m : Mark) (st : State) : exec (.vsel d a b t k m) st = execVsel d a b t k m st := rfl
theorem exec_vmov (d a : Fin 32) (t : VT) (k : Fin 4) (m : Mark) (st : State) : exec (.vmov d a t k m) st = execVmov d a t k m st := rfl
theorem exec_vbcast (d a : Fin 32) (t : VT) (k : Fin 4) (m : Mark) (st : State) : exec (.vbcast d a t k m) st = execVbcast d a t k m st := rfl
theorem exec_vzero (d : Fin 32) (t : VT) (k : Fin 4) (m : Mark) (st : State) : exec (.vzero d t k m) st = execVzero d t k m st := rfl
theorem exec_vcvtSame (d a : Fin 32) (t u : VT) (k : Fin 4) (m : Mark) (st : State) : exec (.vcvtSame d a t u k m) st = execVcvtSame d a t u k m st := rfl
theorem exec_vcvtWiden2 (d a : Fin 32) (t u : VT) (k : Fin 4) (m : Mark) (st : State) : exec (.vcvtWiden2 d a t u k m) st = execVcvtWiden2 d a t u k m st := rfl
theorem exec_vcvtWiden4 (d a : Fin 32) (t u : VT) (k : Fin 4) (m : Mark) (st : State) : exec (.vcvtWiden4 d a t u k m) st = execVcvtWiden4 d a t u k m st := rfl
theorem exec_vcvtNarrow (d a : Fin 32) (t u : VT) (k : Fin 4) (m : Mark) (st : State) : exec (.vcvtNarrow d a t u k m) st = execVcvtNarrow d a t u k m st := rfl
theorem exec_vredsum (d a : Fin 32) (t : VT) (k : Fin 4) (m : Mark) (st : State) : exec (.vredsum d a t k m) st = execVredsum d a t k m st := rfl
theorem exec_vredmax (d a : Fin 32) (t : VT) (k : Fin 4) (m : Mark) (st : State) : exec (.vredmax d a t k m) st = execVredmax d a t k m st := rfl
theorem exec_vredmin (d a : Fin 32) (t : VT) (k : Fin 4) (m : Mark) (st : State) : exec (.vredmin d a t k m) st = execVredmin d a t k m st := rfl
theorem exec_vdot (d a b : Fin 32) (t : VT) (k : Fin 4) (m : Mark) (st : State) : exec (.vdot d a b t k m) st = execVdot d a b t k m st := rfl
theorem exec_vperm (d a b : Fin 32) (t : VT) (k : Fin 4) (m : Mark) (st : State) : exec (.vperm d a b t k m) st = execVperm d a b t k m st := rfl
theorem exec_vslide (d a b : Fin 32) (t : VT) (k : Fin 4) (m : Mark) (st : State) : exec (.vslide d a b t k m) st = execVslide d a b t k m st := rfl
theorem exec_vext (d a b : Fin 32) (t : VT) (m : Mark) (st : State) : exec (.vext d a b t m) st = execVext d a b t m st := rfl
theorem exec_vins (d a b : Fin 32) (t : VT) (m : Mark) (st : State) : exec (.vins d a b t m) st = execVins d a b t m st := rfl
theorem exec_vldT (d a : Fin 32) (t : VT) (k : Fin 4) (m : Mark) (st : State) : exec (.vldT d a t k m) st = execVldT d a t k m st := rfl
theorem exec_vldL (d a : Fin 32) (t : VT) (k : Fin 4) (m : Mark) (st : State) : exec (.vldL d a t k m) st = execVldL d a t k m st := rfl
theorem exec_vldxT (d a b : Fin 32) (t : VT) (k : Fin 4) (m : Mark) (st : State) : exec (.vldxT d a b t k m) st = execVldxT d a b t k m st := rfl
theorem exec_vstT (d a : Fin 32) (t : VT) (k : Fin 4) (m : Mark) (st : State) : exec (.vstT d a t k m) st = execVstT d a t k m st := rfl
theorem exec_vstL (d a : Fin 32) (t : VT) (k : Fin 4) (m : Mark) (st : State) : exec (.vstL d a t k m) st = execVstL d a t k m st := rfl
theorem exec_vstxT (d a b : Fin 32) (t : VT) (k : Fin 4) (m : Mark) (st : State) : exec (.vstxT d a b t k m) st = execVstxT d a b t k m st := rfl
theorem exec_vrcp (d a : Fin 32) (t : VT) (k : Fin 4) (m : Mark) (st : State) : exec (.vrcp d a t k m) st = execVrcp d a t k m st := rfl
theorem exec_vrsq (d a : Fin 32) (t : VT) (k : Fin 4) (m : Mark) (st : State) : exec (.vrsq d a t k m) st = execVrsq d a t k m st := rfl
theorem exec_vexp2 (d a : Fin 32) (t : VT) (k : Fin 4) (m : Mark) (st : State) : exec (.vexp2 d a t k m) st = execVexp2 d a t k m st := rfl
theorem exec_vlog2 (d a : Fin 32) (t : VT) (k : Fin 4) (m : Mark) (st : State) : exec (.vlog2 d a t k m) st = execVlog2 d a t k m st := rfl
theorem exec_vsin (d a : Fin 32) (t : VT) (k : Fin 4) (m : Mark) (st : State) : exec (.vsin d a t k m) st = execVsin d a t k m st := rfl
theorem exec_vcos (d a : Fin 32) (t : VT) (k : Fin 4) (m : Mark) (st : State) : exec (.vcos d a t k m) st = execVcos d a t k m st := rfl
theorem exec_vtanh (d a : Fin 32) (t : VT) (k : Fin 4) (m : Mark) (st : State) : exec (.vtanh d a t k m) st = execVtanh d a t k m st := rfl
theorem exec_vsigm (d a : Fin 32) (t : VT) (k : Fin 4) (m : Mark) (st : State) : exec (.vsigm d a t k m) st = execVsigm d a t k m st := rfl
theorem exec_vrcpr (d a b : Fin 32) (k : Fin 4) (m : Mark) (t : State) : exec (.vrcpr d a b k m) t = execVrcpr d a b k m t := rfl
theorem exec_vrsqr (d a b : Fin 32) (k : Fin 4) (m : Mark) (t : State) : exec (.vrsqr d a b k m) t = execVrsqr d a b k m t := rfl
theorem exec_vrnd (d a : Fin 32) (t : VT) (k : Fin 4) (m : Mark) (st : State) : exec (.vrnd d a t k m) st = execVrnd d a t k m st := rfl
theorem exec_vfloor (d a : Fin 32) (t : VT) (k : Fin 4) (m : Mark) (st : State) : exec (.vfloor d a t k m) st = execVfloor d a t k m st := rfl
theorem exec_vtpack (d a : Fin 32) (m : Mark) (t : State) : exec (.vtpack d a m) t = execVtpack d a m t := rfl
theorem exec_vtunp (d a : Fin 32) (m : Mark) (t : State) : exec (.vtunp d a m) t = execVtunp d a m t := rfl
theorem exec_vtqnt (d a b : Fin 32) (k : Fin 4) (m : Mark) (t : State) : exec (.vtqnt d a b k m) t = execVtqnt d a b k m t := rfl
theorem exec_vtchk (d : Fin 8) (a : Fin 32) (m : Mark) (t : State) : exec (.vtchk d a m) t = execVtchk d a m t := rfl
theorem exec_kand (d a b : Fin 8) (m : Mark) (t : State) : exec (.kand d a b m) t = execKand d a b m t := rfl
theorem exec_kor (d a b : Fin 8) (m : Mark) (t : State) : exec (.kor d a b m) t = execKor d a b m t := rfl
theorem exec_kxor (d a b : Fin 8) (m : Mark) (t : State) : exec (.kxor d a b m) t = execKxor d a b m t := rfl
theorem exec_knot (d a : Fin 8) (m : Mark) (t : State) : exec (.knot d a m) t = execKnot d a m t := rfl
theorem exec_kpop (d : Fin 32) (a : Fin 8) (m : Mark) (t : State) : exec (.kpop d a m) t = execKpop d a m t := rfl
theorem exec_kfirst (d : Fin 32) (a : Fin 8) (m : Mark) (t : State) : exec (.kfirst d a m) t = execKfirst d a m t := rfl
theorem exec_kset (d : Fin 8) (a b : Fin 32) (m : Mark) (t : State) : exec (.kset d a b m) t = execKset d a b m t := rfl
theorem exec_kmv (d a : Fin 8) (m : Mark) (t : State) : exec (.kmv d a m) t = execKmv d a m t := rfl
theorem exec_vaddsat (d a b : Fin 32) (t : VT) (k : Fin 4) (m : Mark) (st : State) : exec (.vaddsat d a b t k m) st = execVaddsat d a b t k m st := rfl
theorem exec_vsubsat (d a b : Fin 32) (t : VT) (k : Fin 4) (m : Mark) (st : State) : exec (.vsubsat d a b t k m) st = execVsubsat d a b t k m st := rfl
theorem exec_vmulh (d a b : Fin 32) (t : VT) (k : Fin 4) (m : Mark) (st : State) : exec (.vmulh d a b t k m) st = execVmulh d a b t k m st := rfl
theorem exec_vabsdiff (d a b : Fin 32) (t : VT) (k : Fin 4) (m : Mark) (st : State) : exec (.vabsdiff d a b t k m) st = execVabsdiff d a b t k m st := rfl
theorem exec_xchg (d a b : Name) (m : Mark) (t : State) : exec (.xchg d a b m) t = execXchg d a b m t := rfl
theorem exec_send (a b : Name) (o : Bool) (m : Mark) (t : State) : exec (.send a b o m) t = execSend a b o m t := rfl
theorem exec_sendHalf (a : Name) (o : Bool) (m : Mark) (t : State) : exec (.sendHalf a o m) t = execSendHalf a o m t := rfl
theorem exec_sendDraw (a b : Name) (o : Bool) (m : Mark) (t : State) : exec (.sendDraw a b o m) t = execSendDraw a b o m t := rfl
theorem exec_sendRop (a b : Name) (o : Bool) (m : Mark) (t : State) : exec (.sendRop a b o m) t = execSendRop a b o m t := rfl
theorem exec_wgtWget (d : Name) (m : Mark) (t : State) : exec (.wgtWget d m) t = execWgtWget d m t := rfl
theorem exec_wgtWtotal (d : Name) (m : Mark) (t : State) : exec (.wgtWtotal d m) t = execWgtWtotal d m t := rfl
theorem exec_wgtWret (a : Name) (m : Mark) (t : State) : exec (.wgtWret a m) t = execWgtWret a m t := rfl
theorem exec_wgtQarm (a b : Name) (m : Mark) (t : State) : exec (.wgtQarm a b m) t = execWgtQarm a b m t := rfl
theorem exec_wgtQdisarm (m : Mark) (t : State) : exec (.wgtQdisarm m) t = execWgtQdisarm m t := rfl
theorem exec_wgtWcensus (a b : Name) (m : Mark) (t : State) : exec (.wgtWcensus a b m) t = execWgtWcensus a b m t := rfl
theorem exec_wgtWloss (a b : Name) (m : Mark) (t : State) : exec (.wgtWloss a b m) t = execWgtWloss a b m t := rfl
theorem exec_grd (a b : Name) (q l : Bool) (m : Mark) (t : State) : exec (.grd a b q l m) t = execGrd a b q l m t := rfl
theorem exec_gwr (a b : Name) (q l : Bool) (m : Mark) (t : State) : exec (.gwr a b q l m) t = execGwr a b q l m t := rfl
theorem exec_gst (d a : Name) (o : BitVec 6) (z : Size) (q : Bool) (m : Mark) (t : State) : exec (.gst d a o z q m) t = execGst d a o z q m t := rfl
theorem exec_nearAtomAdd (a b : Name) (m : Mark) (t : State) : exec (.nearAtomAdd a b m) t = execNearAtomAdd a b m t := rfl
theorem exec_nearAtomMax (a b : Name) (m : Mark) (t : State) : exec (.nearAtomMax a b m) t = execNearAtomMax a b m t := rfl
theorem exec_nearAtomCas (a b : Name) (m : Mark) (t : State) : exec (.nearAtomCas a b m) t = execNearAtomCas a b m t := rfl
theorem exec_nearCas4 (a b : Name) (m : Mark) (t : State) : exec (.nearCas4 a b m) t = execNearCas4 a b m t := rfl
theorem exec_nearEnq (a b : Name) (m : Mark) (t : State) : exec (.nearEnq a b m) t = execNearEnq a b m t := rfl
theorem exec_nearChase (a b : Name) (m : Mark) (t : State) : exec (.nearChase a b m) t = execNearChase a b m t := rfl
theorem exec_nearRedAddF32 (a b : Name) (m : Mark) (t : State) : exec (.nearRedAddF32 a b m) t = execNearRedAddF32 a b m t := rfl
theorem exec_nearRedMaxF32 (a b : Name) (m : Mark) (t : State) : exec (.nearRedMaxF32 a b m) t = execNearRedMaxF32 a b m t := rfl
theorem exec_nearRedAddI32 (a b : Name) (m : Mark) (t : State) : exec (.nearRedAddI32 a b m) t = execNearRedAddI32 a b m t := rfl
theorem exec_nearXswap (a b : Name) (m : Mark) (t : State) : exec (.nearXswap a b m) t = execNearXswap a b m t := rfl
theorem exec_cpy (d a b : Name) (m : Mark) (t : State) : exec (.cpy d a b m) t = execCpy d a b m t := rfl
theorem exec_cpyWalk (d a b : Name) (m : Mark) (t : State) : exec (.cpyWalk d a b m) t = execCpyWalk d a b m t := rfl
theorem exec_cqry (d a : Name) (m : Mark) (t : State) : exec (.cqry d a m) t = execCqry d a m t := rfl
theorem exec_cpyCancel (d a : Name) (m : Mark) (t : State) : exec (.cpyCancel d a m) t = execCpyCancel d a m t := rfl
theorem exec_tmm (d a b : Name) (m : Mark) (t : State) : exec (.tmm d a b m) t = execTmm d a b m t := rfl
theorem exec_tstat (d a : Name) (m : Mark) (t : State) : exec (.tstat d a m) t = execTstat d a m t := rfl
theorem exec_tabort (d a : Name) (m : Mark) (t : State) : exec (.tabort d a m) t = execTabort d a m t := rfl
theorem exec_trgPost (d a b : Name) (m : Mark) (t : State) : exec (.trgPost d a b m) t = execTrgPost d a b m t := rfl
theorem exec_trgAdd (a b : Name) (m : Mark) (t : State) : exec (.trgAdd a b m) t = execTrgAdd a b m t := rfl
theorem exec_trgRead (d a : Name) (m : Mark) (t : State) : exec (.trgRead d a m) t = execTrgRead d a m t := rfl
theorem exec_trgCancel (d a : Name) (m : Mark) (t : State) : exec (.trgCancel d a m) t = execTrgCancel d a m t := rfl
theorem exec_trgAlloc (d : Name) (m : Mark) (t : State) : exec (.trgAlloc d m) t = execTrgAlloc d m t := rfl
theorem exec_trgFree (a : Name) (m : Mark) (t : State) : exec (.trgFree a m) t = execTrgFree a m t := rfl
theorem exec_nred (a b : Name) (m : Mark) (t : State) : exec (.nred a b m) t = execNred a b m t := rfl
theorem exec_nrdef (a b : Name) (m : Mark) (t : State) : exec (.nrdef a b m) t = execNrdef a b m t := rfl
theorem exec_nrfree (a b : Name) (m : Mark) (t : State) : exec (.nrfree a b m) t = execNrfree a b m t := rfl
theorem exec_fnew (a b : Name) (m : Mark) (t : State) : exec (.fnew a b m) t = execFnew a b m t := rfl
theorem exec_fset (a b : Name) (m : Mark) (t : State) : exec (.fset a b m) t = execFset a b m t := rfl
theorem exec_fwait (a b : Name) (m : Mark) (t : State) : exec (.fwait a b m) t = execFwait a b m t := rfl
theorem exec_ffree (a b : Name) (m : Mark) (t : State) : exec (.ffree a b m) t = execFfree a b m t := rfl
theorem exec_fpeek (a b : Name) (m : Mark) (t : State) : exec (.fpeek a b m) t = execFpeek a b m t := rfl
theorem exec_fence (k : FenceKind) (c : Scope) (a b : BitVec 7) (m : Mark) (t : State) : exec (.fence k c a b m) t = execFence k c a b m t := rfl
theorem exec_launch (a b : Name) (m : Mark) (t : State) : exec (.launch a b m) t = execLaunch a b m t := rfl
theorem exec_sysMfs (d a : Name) (m : Mark) (t : State) : exec (.sysMfs d a m) t = execSysMfs d a m t := rfl
theorem exec_sysMts (a b : Name) (m : Mark) (t : State) : exec (.sysMts a b m) t = execSysMts a b m t := rfl
theorem exec_sysCtxsave (a b : Name) (m : Mark) (t : State) : exec (.sysCtxsave a b m) t = execSysCtxsave a b m t := rfl
theorem exec_sysCtxload (a b : Name) (m : Mark) (t : State) : exec (.sysCtxload a b m) t = execSysCtxload a b m t := rfl
theorem exec_sysHalt (a : Name) (m : Mark) (t : State) : exec (.sysHalt a m) t = execSysHalt a m t := rfl
theorem exec_sysSysnote (a b : Name) (m : Mark) (t : State) : exec (.sysSysnote a b m) t = execSysSysnote a b m t := rfl
theorem exec_spref (a b : Name) (m : Mark) (t : State) : exec (.spref a b m) t = execSpref a b m t := rfl
theorem exec_limm (p : BitVec 22) (t : State) : exec (.limm p) t = execLimm p t := rfl
theorem exec_compactMov (x : Fin 32) (y : BitVec 4) (s : Bool) (t : State) : exec (.compactMov x y s) t = execCompactMov x y s t := rfl
theorem exec_compactAdd (x : Fin 32) (y : BitVec 4) (s : Bool) (t : State) : exec (.compactAdd x y s) t = execCompactAdd x y s t := rfl
theorem exec_compactSub (x : Fin 32) (y : BitVec 4) (s : Bool) (t : State) : exec (.compactSub x y s) t = execCompactSub x y s t := rfl
theorem exec_compactAddi (x : Fin 32) (y : BitVec 4) (s : Bool) (t : State) : exec (.compactAddi x y s) t = execCompactAddi x y s t := rfl
theorem exec_compactAnd (x : Fin 32) (y : BitVec 4) (s : Bool) (t : State) : exec (.compactAnd x y s) t = execCompactAnd x y s t := rfl
theorem exec_compactShl (x : Fin 32) (y : BitVec 4) (s : Bool) (t : State) : exec (.compactShl x y s) t = execCompactShl x y s t := rfl
theorem exec_compactShr (x : Fin 32) (y : BitVec 4) (s : Bool) (t : State) : exec (.compactShr x y s) t = execCompactShr x y s t := rfl
theorem exec_compactLdlD (x : Fin 32) (y : BitVec 4) (s : Bool) (t : State) : exec (.compactLdlD x y s) t = execCompactLdlD x y s t := rfl
theorem exec_compactStlD (x : Fin 32) (y : BitVec 4) (s : Bool) (t : State) : exec (.compactStlD x y s) t = execCompactStlD x y s t := rfl
theorem exec_compactBeqz (x : Fin 32) (y : BitVec 4) (s : Bool) (t : State) : exec (.compactBeqz x y s) t = execCompactBeqz x y s t := rfl
theorem exec_compactBnez (x : Fin 32) (y : BitVec 4) (s : Bool) (t : State) : exec (.compactBnez x y s) t = execCompactBnez x y s t := rfl
theorem exec_compactEnd (s : Bool) (t : State) : exec (.compactEnd s) t = execCompactEnd s t := rfl
theorem exec_compactNop (s : Bool) (t : State) : exec (.compactNop s) t = execCompactNop s t := rfl
theorem exec_compactSendHalf (x : Fin 32) (s : Bool) (t : State) : exec (.compactSendHalf x s) t = execCompactSendHalf x s t := rfl
theorem exec_compactRet (s : Bool) (t : State) : exec (.compactRet s) t = execCompactRet s t := rfl
theorem exec_compactCmov (x : Fin 32) (y : BitVec 4) (s : Bool) (t : State) : exec (.compactCmov x y s) t = execCompactCmov x y s t := rfl
theorem exec_taskStart (tile core : Nat) (t : State) : exec (.taskStart tile core) t = execTaskStart tile core t := rfl
theorem exec_remoteOpStart (tile core : Nat) (t : State) : exec (.remoteOpStart tile core) t = execRemoteOpStart tile core t := rfl
theorem exec_drainTaskStart (tile : Nat) (t : State) : exec (.drainTaskStart tile) t = execDrainTaskStart tile t := rfl
theorem exec_taskEnd (ctx : Nat) (t : State) : exec (.taskEnd ctx) t = execTaskEnd ctx t := rfl
theorem exec_vectorOpStart (tile : Nat) (t : State) : exec (.vectorOpStart tile) t = execVectorOpStart tile t := rfl
theorem exec_vectorOpComplete (op : Nat) (t : State) : exec (.vectorOpComplete op) t = execVectorOpComplete op t := rfl
theorem exec_sfuServiceStart (tile : Nat) (t : State) : exec (.sfuServiceStart tile) t = execSfuServiceStart tile t := rfl
theorem exec_sfuResult (op : Nat) (t : State) : exec (.sfuResult op) t = execSfuResult op t := rfl
theorem exec_ldtResult (op : Nat) (t : State) : exec (.ldtResult op) t = execLdtResult op t := rfl
theorem exec_divideResult (op : Nat) (t : State) : exec (.divideResult op) t = execDivideResult op t := rfl
theorem exec_tileStoreLand (store : Nat) (t : State) : exec (.tileStoreLand store) t = execTileStoreLand store t := rfl
theorem exec_budgetExpiry (ctx : Nat) (t : State) : exec (.budgetExpiry ctx) t = execBudgetExpiry ctx t := rfl
theorem exec_unitRetryReinject (job level unit : Nat) (t : State) : exec (.unitRetryReinject job level unit) t = execUnitRetryReinject job level unit t := rfl
theorem exec_messageArrival (pkt : Nat) (t : State) : exec (.messageArrival pkt) t = execMessageArrival pkt t := rfl
theorem exec_messageRefusal (pkt : Nat) (t : State) : exec (.messageRefusal pkt) t = execMessageRefusal pkt t := rfl
theorem exec_messageResend (out : Nat) (t : State) : exec (.messageResend out) t = execMessageResend out t := rfl
theorem exec_sendAcceptReport (pkt : Nat) (t : State) : exec (.sendAcceptReport pkt) t = execSendAcceptReport pkt t := rfl
theorem exec_spillReinjectOffer (job : Nat) (t : State) : exec (.spillReinjectOffer job) t = execSpillReinjectOffer job t := rfl
theorem exec_holdAck (pkt : Nat) (t : State) : exec (.holdAck pkt) t = execHoldAck pkt t := rfl
theorem exec_accessAck (acc : Nat) (t : State) : exec (.accessAck acc) t = execAccessAck acc t := rfl
theorem exec_routerSwitch (pkt : Nat) (t : State) : exec (.routerSwitch pkt) t = execRouterSwitch pkt t := rfl
theorem exec_routerGate (p y : Nat) (t : State) : exec (.routerGate p y) t = execRouterGate p y t := rfl
theorem exec_routerWake (p y : Nat) (t : State) : exec (.routerWake p y) t = execRouterWake p y t := rfl
theorem exec_routerReady (p y : Nat) (t : State) : exec (.routerReady p y) t = execRouterReady p y t := rfl
theorem exec_chainChunk (node : Nat) (t : State) : exec (.chainChunk node) t = execChainChunk node t := rfl
theorem exec_chainGrant (node : Nat) (t : State) : exec (.chainGrant node) t = execChainGrant node t := rfl
theorem exec_podArrival (pkt : Nat) (t : State) : exec (.podArrival pkt) t = execPodArrival pkt t := rfl
theorem exec_drawArrival (pkt : Nat) (t : State) : exec (.drawArrival pkt) t = execDrawArrival pkt t := rfl
theorem exec_drawResend (out : Nat) (t : State) : exec (.drawResend out) t = execDrawResend out t := rfl
theorem exec_armArrival (pkt : Nat) (t : State) : exec (.armArrival pkt) t = execArmArrival pkt t := rfl
theorem exec_disarmArrival (pkt : Nat) (t : State) : exec (.disarmArrival pkt) t = execDisarmArrival pkt t := rfl
theorem exec_farSendArrival (pkt : Nat) (t : State) : exec (.farSendArrival pkt) t = execFarSendArrival pkt t := rfl
theorem exec_censusStart (pkt : Nat) (t : State) : exec (.censusStart pkt) t = execCensusStart pkt t := rfl
theorem exec_censusMarkerSend (job node : Nat) (t : State) : exec (.censusMarkerSend job node) t = execCensusMarkerSend job node t := rfl
theorem exec_censusMarkerArrival (pkt : Nat) (t : State) : exec (.censusMarkerArrival pkt) t = execCensusMarkerArrival pkt t := rfl
theorem exec_wlossServe (pkt : Nat) (t : State) : exec (.wlossServe pkt) t = execWlossServe pkt t := rfl
theorem exec_homeCopyBroadcast (job : Nat) (t : State) : exec (.homeCopyBroadcast job) t = execHomeCopyBroadcast job t := rfl
theorem exec_stationTranslate (pkt : Nat) (t : State) : exec (.stationTranslate pkt) t = execStationTranslate pkt t := rfl
theorem exec_pageWalk (walk : Nat) (t : State) : exec (.pageWalk walk) t = execPageWalk walk t := rfl
theorem exec_parkedRequestResend (pkt : Nat) (t : State) : exec (.parkedRequestResend pkt) t = execParkedRequestResend pkt t := rfl
theorem exec_globalPiecePerform (pkt : Nat) (t : State) : exec (.globalPiecePerform pkt) t = execGlobalPiecePerform pkt t := rfl
theorem exec_pieceLanding (pkt : Nat) (t : State) : exec (.pieceLanding pkt) t = execPieceLanding pkt t := rfl
theorem exec_nearOpExecute (pkt hint : Nat) (t : State) : exec (.nearOpExecute pkt hint) t = execNearOpExecute pkt hint t := rfl
theorem exec_chaseForwardArrival (pkt hint : Nat) (t : State) : exec (.chaseForwardArrival pkt hint) t = execChaseForwardArrival pkt hint t := rfl
theorem exec_farRetryResend (req : Nat) (t : State) : exec (.farRetryResend req) t = execFarRetryResend req t := rfl
theorem exec_storageServiceStart (port : Nat) (t : State) : exec (.storageServiceStart port) t = execStorageServiceStart port t := rfl
theorem exec_writebackComplete (move : Nat) (ok : Bool) (t : State) : exec (.writebackComplete move ok) t = execWritebackComplete move ok t := rfl
theorem exec_fillComplete (port pte : Nat) (ok : Bool) (t : State) : exec (.fillComplete port pte ok) t = execFillComplete port pte ok t := rfl
theorem exec_nvmeTimeout (port pte : Nat) (t : State) : exec (.nvmeTimeout port pte) t = execNvmeTimeout port pte t := rfl
theorem exec_frameWaitRetry (port pte : Nat) (t : State) : exec (.frameWaitRetry port pte) t = execFrameWaitRetry port pte t := rfl
theorem exec_migrationReview (die region : Nat) (t : State) : exec (.migrationReview die region) t = execMigrationReview die region t := rfl
theorem exec_migrationComplete (move : Nat) (t : State) : exec (.migrationComplete move) t = execMigrationComplete move t := rfl
theorem exec_copyOffer (tile core : Nat) (t : State) : exec (.copyOffer tile core) t = execCopyOffer tile core t := rfl
theorem exec_copyPiece (bte req : Nat) (t : State) : exec (.copyPiece bte req) t = execCopyPiece bte req t := rfl
theorem exec_arrayJobStart (tile : Nat) (t : State) : exec (.arrayJobStart tile) t = execArrayJobStart tile t := rfl
theorem exec_arrayStep (tile : Nat) (t : State) : exec (.arrayStep tile) t = execArrayStep tile t := rfl
theorem exec_arrayRowDrain (tile : Nat) (t : State) : exec (.arrayRowDrain tile) t = execArrayRowDrain tile t := rfl
theorem exec_arrayJobComplete (tile : Nat) (t : State) : exec (.arrayJobComplete tile) t = execArrayJobComplete tile t := rfl
theorem exec_arrayStopFinish (tile : Nat) (t : State) : exec (.arrayStopFinish tile) t = execArrayStopFinish tile t := rfl
theorem exec_xchgActivate (tile : Nat) (t : State) : exec (.xchgActivate tile) t = execXchgActivate tile t := rfl
theorem exec_arriveReceive (pkt : Nat) (t : State) : exec (.arriveReceive pkt) t = execArriveReceive pkt t := rfl
theorem exec_arriveResend (pkt : Nat) (t : State) : exec (.arriveResend pkt) t = execArriveResend pkt t := rfl
theorem exec_xchgRowReceive (pkt : Nat) (t : State) : exec (.xchgRowReceive pkt) t = execXchgRowReceive pkt t := rfl
theorem exec_xchgRowAck (pkt : Nat) (t : State) : exec (.xchgRowAck pkt) t = execXchgRowAck pkt t := rfl
theorem exec_xchgTimeout (tile : Nat) (t : State) : exec (.xchgTimeout tile) t = execXchgTimeout tile t := rfl
theorem exec_triggerArrival (tile pkt : Nat) (t : State) : exec (.triggerArrival tile pkt) t = execTriggerArrival tile pkt t := rfl
theorem exec_triggerFire (tile : Nat) (t : State) : exec (.triggerFire tile) t = execTriggerFire tile t := rfl
theorem exec_nrdefProgram (pkt : Nat) (t : State) : exec (.nrdefProgram pkt) t = execNrdefProgram pkt t := rfl
theorem exec_nrfreeRemove (pkt : Nat) (t : State) : exec (.nrfreeRemove pkt) t = execNrfreeRemove pkt t := rfl
theorem exec_contributionArrival (pkt : Nat) (t : State) : exec (.contributionArrival pkt) t = execContributionArrival pkt t := rfl
theorem exec_routerCombine (p y job nid : Nat) (t : State) : exec (.routerCombine p y job nid) t = execRouterCombine p y job nid t := rfl
theorem exec_roundStartNotice (pkt : Nat) (t : State) : exec (.roundStartNotice pkt) t = execRoundStartNotice pkt t := rfl
theorem exec_roundTimeout (job nid : Nat) (t : State) : exec (.roundTimeout job nid) t = execRoundTimeout job nid t := rfl
theorem exec_closeArrival (pkt : Nat) (t : State) : exec (.closeArrival pkt) t = execCloseArrival pkt t := rfl
theorem exec_roundComplete (job nid : Nat) (t : State) : exec (.roundComplete job nid) t = execRoundComplete job nid t := rfl
theorem exec_futureRequestServe (pkt : Nat) (t : State) : exec (.futureRequestServe pkt) t = execFutureRequestServe pkt t := rfl
theorem exec_fwaitResend (req : Nat) (t : State) : exec (.fwaitResend req) t = execFwaitResend req t := rfl
theorem exec_launchRequestArrival (pkt : Nat) (t : State) : exec (.launchRequestArrival pkt) t = execLaunchRequestArrival pkt t := rfl
theorem exec_launchResend (req : Nat) (t : State) : exec (.launchResend req) t = execLaunchResend req t := rfl
theorem exec_launchRecordTake (t : State) : exec .launchRecordTake t = execLaunchRecordTake t := rfl
theorem exec_launchCreate (source : Nat) (t : State) : exec (.launchCreate source) t = execLaunchCreate source t := rfl
theorem exec_rootInject (t : State) : exec .rootInject t = execRootInject t := rfl
theorem exec_contextRestore (req : Nat) (t : State) : exec (.contextRestore req) t = execContextRestore req t := rfl
theorem exec_savedFarSendSpill (pkt : Nat) (t : State) : exec (.savedFarSendSpill pkt) t = execSavedFarSendSpill pkt t := rfl
theorem exec_checkpointDigestArrival (jtag gen entry chunk : Nat) (digest : List (BitVec 8)) (t : State) : exec (.checkpointDigestArrival jtag gen entry chunk digest) t = execCheckpointDigestArrival jtag gen entry chunk digest t := rfl
theorem exec_checkpointFlushDone (e : FlushEnd) (t : State) : exec (.checkpointFlushDone e) t = execCheckpointFlushDone e t := rfl
theorem exec_checkpointPeerlost (slot : Nat) (t : State) : exec (.checkpointPeerlost slot) t = execCheckpointPeerlost slot t := rfl
theorem exec_fabricPacketArrival (port : Nat) (pkt : FabPkt) (t : State) : exec (.fabricPacketArrival port pkt) t = execFabricPacketArrival port pkt t := rfl
theorem exec_fabricNakArrival (port : Nat) (pkt : FabPkt) (t : State) : exec (.fabricNakArrival port pkt) t = execFabricNakArrival port pkt t := rfl
theorem exec_flitCrcReplay (port : Nat) (t : State) : exec (.flitCrcReplay port) t = execFlitCrcReplay port t := rfl
theorem exec_portDown (port : Nat) (t : State) : exec (.portDown port) t = execPortDown port t := rfl
theorem exec_jobTagTimeout (out : Nat) (t : State) : exec (.jobTagTimeout out) t = execJobTagTimeout out t := rfl
theorem exec_powerGrant (die : Nat) (duties : List Nat) (t : State) : exec (.powerGrant die duties) t = execPowerGrant die duties t := rfl
theorem exec_thermalCap (die : Nat) (t : State) : exec (.thermalCap die) t = execThermalCap die t := rfl
theorem exec_thermalHalt (die : Nat) (t : State) : exec (.thermalHalt die) t = execThermalHalt die t := rfl
theorem exec_deviceReset (answers : List Bool) (t : State) : exec (.deviceReset answers) t = execDeviceReset answers t := rfl
theorem exec_linkTraining (width speed : Nat) (t : State) : exec (.linkTraining width speed) t = execLinkTraining width speed t := rfl
theorem exec_hwqDoorbell (fn q tail : Nat) (t : State) : exec (.hwqDoorbell fn q tail) t = execHwqDoorbell fn q tail t := rfl
theorem exec_tlbInvalidate (va : BitVec 64) (t : State) : exec (.tlbInvalidate va) t = execTlbInvalidate va t := rfl
theorem exec_poolTailWrite (pool tail : Nat) (t : State) : exec (.poolTailWrite pool tail) t = execPoolTailWrite pool tail t := rfl
theorem exec_jobTagWrite (job : Nat) (value : BitVec 64) (t : State) : exec (.jobTagWrite job value) t = execJobTagWrite job value t := rfl
theorem exec_routeEntryWrite (d : Nat) (value : BitVec 64) (t : State) : exec (.routeEntryWrite d value) t = execRouteEntryWrite d value t := rfl
theorem exec_jobctlResume (job : Nat) (t : State) : exec (.jobctlResume job) t = execJobctlResume job t := rfl
theorem exec_jobctlAbort (job : Nat) (t : State) : exec (.jobctlAbort job) t = execJobctlAbort job t := rfl
theorem exec_hostFutureNew (t : State) : exec .hostFutureNew t = execHostFutureNew t := rfl
theorem exec_hostFutureSet (t : State) : exec .hostFutureSet t = execHostFutureSet t := rfl
theorem exec_hostFutureFree (t : State) : exec .hostFutureFree t = execHostFutureFree t := rfl
theorem exec_hostFuturePeek (t : State) : exec .hostFuturePeek t = execHostFuturePeek t := rfl
theorem exec_hostWindowRead (off n : Nat) (t : State) : exec (.hostWindowRead off n) t = execHostWindowRead off n t := rfl
theorem exec_hostWindowWrite (off : Nat) (data : List (BitVec 8)) (t : State) : exec (.hostWindowWrite off data) t = execHostWindowWrite off data t := rfl
theorem exec_getkey (t : State) : exec .getkey t = execGetkey t := rfl
theorem exec_attest (nonce : List (BitVec 8)) (t : State) : exec (.attest nonce) t = execAttest nonce t := rfl
theorem exec_fwload (addr n : Nat) (t : State) : exec (.fwload addr n) t = execFwload addr n t := rfl
theorem exec_setbudget (watts : Nat) (t : State) : exec (.setbudget watts) t = execSetbudget watts t := rfl
theorem exec_registerWrite (fn off : Nat) (value : BitVec 64) (t : State) : exec (.registerWrite fn off value) t = execRegisterWrite fn off value t := rfl
theorem exec_notAnInstruction (t : State) : exec .notAnInstruction t = execNotAnInstruction t := rfl
theorem exec_portUp (port : Nat) (t : State) : exec (.portUp port) t = execPortUp port t := rfl
theorem exec_uncorrectableSoftError (e : SoftError) (t : State) : exec (.uncorrectableSoftError e) t = execUncorrectableSoftError e t := rfl

end Sys2Proof.Laws
end

