-- ==== Sys2Proof/Laws/Memory.lean ====
section
/-! SUPPORT. The laws of finite maps and of the memories: what a read gives after a write, and that every memory operation keeps
the canonical form. -/

namespace Sys2Proof.Machine

/-! ## Maps -/

@[simp] theorem Map.get?_set_self {α : Type} (m : Map α) (x : Nat) (a : α) : (m.set x a).get? x = some a := by
  induction m with
  | nil => simp [Map.set, Map.get?]
  | cons e t ih =>
    obtain ⟨k, v⟩ := e
    simp only [Map.set]
    split
    · simp [Map.get?]
    · split
      · simp [Map.get?]
      · rename_i h _
        simp [Map.get?, h, ih]

theorem Map.get?_set_of_ne {α : Type} (m : Map α) (x y : Nat) (a : α) (h : y ≠ x) : (m.set x a).get? y = m.get? y := by
  induction m with
  | nil => simp [Map.set, Map.get?, Ne.symm h]
  | cons e t ih =>
    obtain ⟨k, v⟩ := e
    simp only [Map.set]
    split
    · rename_i hk
      have : k ≠ y := fun e => h (by omega)
      simp [Map.get?, Ne.symm h, this]
    · split
      · simp [Map.get?, Ne.symm h]
      · simp only [Map.get?]
        split
        · rfl
        · exact ih

@[simp] theorem Map.getD_set_self {α : Type} (m : Map α) (x : Nat) (a d : α) : (m.set x a).getD x d = a := by
  simp [Map.getD]

theorem Map.getD_set_of_ne {α : Type} (m : Map α) (x y : Nat) (a d : α) (h : y ≠ x) : (m.set x a).getD y d = m.getD y d := by
  simp [Map.getD, Map.get?_set_of_ne m x y a h]

/-! ## Reads after writes of a memory -/

theorem Memory.wfFrom_cons (n k : Nat) (v : Byte) (t : Memory) :
    Memory.wfFrom n ((k, v) :: t) = true ↔ n ≤ k ∧ v ≠ 0 ∧ Memory.wfFrom (k + 1) t = true := by
  simp [Memory.wfFrom, and_assoc]

/-- No address below the bound of a memory in canonical form is listed. -/
theorem Memory.get_of_wfFrom (m : Memory) (n a : Nat) (h : Memory.wfFrom n m = true) (ha : a < n) : m.get a = 0 := by
  induction m generalizing n with
  | nil => rfl
  | cons e t ih =>
    obtain ⟨k, v⟩ := e
    rw [Memory.wfFrom_cons] at h
    have hk : k ≠ a := by omega
    simp only [Memory.get, hk, if_false]
    exact ih (k + 1) h.2.2 (by omega)

theorem Memory.get_set_from (m : Memory) (n a : Nat) (b : Byte) (h : Memory.wfFrom n m = true) : (m.set a b).get a = b := by
  induction m generalizing n with
  | nil =>
    simp only [Memory.set]
    split
    · rename_i hb; simp [Memory.get, hb]
    · simp [Memory.get]
  | cons e t ih =>
    obtain ⟨k, v⟩ := e
    rw [Memory.wfFrom_cons] at h
    simp only [Memory.set]
    split
    · rename_i hk
      split
      · rename_i hb; rw [Memory.get_of_wfFrom t (k + 1) a h.2.2 (by omega), hb]
      · simp [Memory.get]
    · rename_i hk
      split
      · rename_i hlt
        split
        · rename_i hb
          have : Memory.get t a = 0 := Memory.get_of_wfFrom t (k + 1) a h.2.2 (by omega)
          simp [Memory.get, hk, this, hb]
        · simp [Memory.get]
      · simp only [Memory.get, hk, if_false]
        exact ih (k + 1) h.2.2

/-- A byte reads as what was written there last. -/
theorem Memory.get_set_self (m : Memory) (a : Nat) (b : Byte) (h : m.wf = true) : (m.set a b).get a = b :=
  Memory.get_set_from m 0 a b h

/-- A write of a byte leaves every other byte as it was. -/
theorem Memory.get_set_of_ne (m : Memory) (a c : Nat) (b : Byte) (h : c ≠ a) : (m.set a b).get c = m.get c := by
  induction m with
  | nil =>
    simp only [Memory.set]
    split
    · rfl
    · simp [Memory.get, Ne.symm h]
  | cons e t ih =>
    obtain ⟨k, v⟩ := e
    simp only [Memory.set]
    split
    · rename_i hk
      have hk' : k ≠ c := by omega
      split
      · simp [Memory.get, hk']
      · simp [Memory.get, hk', Ne.symm h]
    · split
      · split
        · rfl
        · simp [Memory.get, Ne.symm h]
      · simp only [Memory.get]
        split
        · rfl
        · exact ih

/-! ## The canonical form -/

theorem Memory.wfFrom_mono (m : Memory) (n k : Nat) (h : Memory.wfFrom n m = true) (hk : k ≤ n) : Memory.wfFrom k m = true := by
  cases m with
  | nil => rfl
  | cons e t =>
    obtain ⟨a, v⟩ := e
    rw [Memory.wfFrom_cons] at h ⊢
    exact ⟨by omega, h.2⟩

theorem Memory.wfFrom_set (m : Memory) (n a : Nat) (b : Byte) (h : Memory.wfFrom n m = true) (ha : n ≤ a) :
    Memory.wfFrom n (m.set a b) = true := by
  induction m generalizing n with
  | nil =>
    simp only [Memory.set]
    split
    · rfl
    · rename_i hb; exact (Memory.wfFrom_cons n a b []).2 ⟨ha, hb, rfl⟩
  | cons e t ih =>
    obtain ⟨k, v⟩ := e
    have h0 := h
    rw [Memory.wfFrom_cons] at h
    simp only [Memory.set]
    split
    · rename_i hk
      split
      · exact Memory.wfFrom_mono t (k + 1) n h.2.2 (by omega)
      · rename_i hb
        subst hk
        exact (Memory.wfFrom_cons n k b t).2 ⟨ha, hb, h.2.2⟩
    · rename_i hk
      split
      · rename_i hlt
        split
        · exact h0
        · rename_i hb
          exact (Memory.wfFrom_cons n a b _).2 ⟨ha, hb, (Memory.wfFrom_cons (a + 1) k v t).2 ⟨by omega, h.2⟩⟩
      · rename_i hlt
        rw [Memory.wfFrom_cons]
        exact ⟨h.1, h.2.1, ih (k + 1) h.2.2 (by omega)⟩

@[simp] theorem Memory.wf_nil : Memory.wf [] = true := rfl

/-- A write of a byte keeps the canonical form. -/
@[simp] theorem Memory.wf_set (m : Memory) (a : Nat) (b : Byte) (h : m.wf = true) : (m.set a b).wf = true :=
  Memory.wfFrom_set m 0 a b h (Nat.zero_le a)

/-- A write of bytes keeps the canonical form. -/
@[simp] theorem Memory.wf_write (m : Memory) (a : Nat) (bs : List Byte) (h : m.wf = true) : (m.write a bs).wf = true := by
  induction bs generalizing m a with
  | nil => exact h
  | cons b t ih => exact ih (m.set a b) (a + 1) (Memory.wf_set m a b h)

theorem Memory.wfFrom_filter (p : Nat × Byte → Bool) (m : Memory) (n : Nat) (h : Memory.wfFrom n m = true) :
    Memory.wfFrom n (List.filter p m) = true := by
  induction m generalizing n with
  | nil => rfl
  | cons e t ih =>
    obtain ⟨k, v⟩ := e
    rw [Memory.wfFrom_cons] at h
    simp only [List.filter]
    split
    · rw [Memory.wfFrom_cons]
      exact ⟨h.1, h.2.1, ih (k + 1) h.2.2⟩
    · exact Memory.wfFrom_mono _ (k + 1) n (ih (k + 1) h.2.2) (by omega)

/-- Clearing a range keeps the canonical form. -/
@[simp] theorem Memory.wf_clear (m : Memory) (lo n : Nat) (h : m.wf = true) : (m.clear lo n).wf = true :=
  Memory.wfFrom_filter _ m 0 h

/-- A byte outside the range written reads as before. -/
theorem Memory.get_write_outside (m : Memory) (a c : Nat) (bs : List Byte) (h : c < a ∨ a + bs.length ≤ c) :
    (m.write a bs).get c = m.get c := by
  induction bs generalizing m a with
  | nil => rfl
  | cons b t ih =>
    simp only [List.length_cons] at h
    rw [Memory.write, ih (m.set a b) (a + 1) (by omega), Memory.get_set_of_ne m a c b (by omega)]

/-- A byte of the range written reads as what was written there. -/
theorem Memory.get_write_inside (m : Memory) (a i : Nat) (bs : List Byte) (hm : m.wf = true) (h : i < bs.length) :
    (m.write a bs).get (a + i) = bs.getD i 0 := by
  induction bs generalizing m a i with
  | nil => simp at h
  | cons b t ih =>
    cases i with
    | zero =>
      rw [Memory.write, Memory.get_write_outside (m.set a b) (a + 1) (a + 0) t (by omega)]
      exact Memory.get_set_self m a b hm
    | succ j =>
      simp only [List.length_cons] at h
      have := ih (m.set a b) (a + 1) j (Memory.wf_set m a b hm) (by omega)
      rw [Memory.write, show a + (j + 1) = a + 1 + j by omega, this]
      rfl

end Sys2Proof.Machine
end

