-- ==== Sys2Proof/Laws/MemoryOk.lean ====
section
/-! SUPPORT. The canonical form of every memory, kept: the writes of bytes, and updates of the other fields. -/

namespace Sys2Proof.Machine

open Sys2Proof.Safety

/-- The canonical form is a matter of the memories alone. -/
@[simp] theorem memoryOk_mk (s : State) (clk : Nat) (cur : Nat) (free : Nat) (serial : Nat) (turns : List Turn) (turnNo :
    Nat) (limmOpen : Option Nat) (ctxs : Map Ctx) (tasks : Map TaskRec) (parties : Map (Nat × Nat)) (cores : Map Core)
    (chans : Map Chan) (arrSeqs : Map ArrSeq) (tiles : Map Tile) (ops : List Op) (stores : List TileStore) (accs : List
    Acc) (outs : List OutMsg) (reqs : List Req) (packets : List Packet) (routers : Map Router) (jobs : Map Job) (bankfmt :
    Map (List Word)) (saved : List Saved) (futures : Map Future) (writes : List WRec) (fences : List RelFence) (gains :
    Map Know) (eccLocal : List Nat) (eccScratch : List Nat) (eccCode : List Nat) (stationTlb : Map (List TlbEntry))
    (dieTlb : Map (List TlbEntry)) (walks : List (Nat × Access)) (services : Map (List Parking)) (moves : List Move)
    (counts : Map Nat) (pools : Map Pool) (fwdCredits : Map Nat) (btes : Map (List Transfer)) (sqes : Map (List Service))
    (queues : Map Queue) (deviceQ : List Launching) (waiting : List Launching) (loading : Option Launching) (restores :
    List Nat) (rrQueue : List Nat) (chains : List Chain) (digests : Map (List Byte)) (tlbJob : Nat) (tlbAll : Bool) (tlbVa
    : Nat) (tlbBusy : Bool) (devid : Nat) (ports : List Port) (routes : Map Word) (fabOut : List FabOut) (fabWait : List
    FabPkt) (jobTags : Map Nat) (privvf : Word) (hostFut : HostFut) (hostKnow : Know) (winbase : Word) (winbaseOld : Word)
    (winRead : List Byte) (msix : List Nat) (melbex : Melbex) (trace : List Note) (log : List LogEntry) (budget : Nat)
    (dutyCap : List Nat) (halted : Option Nat) (inReset : Bool) (link : Nat × Nat) (ckpt : List Ckpt) (peerDigests : List
    PeerDigest) : MemoryOk (State.mk clk cur free serial turns turnNo limmOpen ctxs tasks parties cores chans arrSeqs
    tiles ops stores accs outs reqs packets routers jobs bankfmt saved futures s.localMem s.scratch s.codeMem s.hbm
    s.hostMem writes fences gains eccLocal eccScratch eccCode stationTlb dieTlb walks services moves counts pools
    fwdCredits btes sqes s.nvme queues deviceQ waiting loading restores rrQueue chains digests tlbJob tlbAll tlbVa tlbBusy
    devid ports routes fabOut fabWait jobTags privvf hostFut hostKnow winbase winbaseOld winRead msix melbex trace log
    budget dutyCap halted inReset link ckpt peerDigests) ↔ MemoryOk s := Iff.rfl

/-- The same where a port of an SSD has been brought up. -/
@[simp] theorem memoryOk_mkNvme (s : State) (nvEnabled nvFailed nvAnswers : List Bool) (nvSizes : Map Nat) (clk : Nat)
    (cur : Nat) (free : Nat) (serial : Nat) (turns : List Turn) (turnNo : Nat) (limmOpen : Option Nat) (ctxs : Map Ctx)
    (tasks : Map TaskRec) (parties : Map (Nat × Nat)) (cores : Map Core) (chans : Map Chan) (arrSeqs : Map ArrSeq) (tiles
    : Map Tile) (ops : List Op) (stores : List TileStore) (accs : List Acc) (outs : List OutMsg) (reqs : List Req)
    (packets : List Packet) (routers : Map Router) (jobs : Map Job) (bankfmt : Map (List Word)) (saved : List Saved)
    (futures : Map Future) (writes : List WRec) (fences : List RelFence) (gains : Map Know) (eccLocal : List Nat)
    (eccScratch : List Nat) (eccCode : List Nat) (stationTlb : Map (List TlbEntry)) (dieTlb : Map (List TlbEntry)) (walks
    : List (Nat × Access)) (services : Map (List Parking)) (moves : List Move) (counts : Map Nat) (pools : Map Pool)
    (fwdCredits : Map Nat) (btes : Map (List Transfer)) (sqes : Map (List Service)) (queues : Map Queue) (deviceQ : List
    Launching) (waiting : List Launching) (loading : Option Launching) (restores : List Nat) (rrQueue : List Nat) (chains
    : List Chain) (digests : Map (List Byte)) (tlbJob : Nat) (tlbAll : Bool) (tlbVa : Nat) (tlbBusy : Bool) (devid : Nat)
    (ports : List Port) (routes : Map Word) (fabOut : List FabOut) (fabWait : List FabPkt) (jobTags : Map Nat) (privvf :
    Word) (hostFut : HostFut) (hostKnow : Know) (winbase : Word) (winbaseOld : Word) (winRead : List Byte) (msix : List
    Nat) (melbex : Melbex) (trace : List Note) (log : List LogEntry) (budget : Nat) (dutyCap : List Nat) (halted : Option
    Nat) (inReset : Bool) (link : Nat × Nat) (ckpt : List Ckpt) (peerDigests : List PeerDigest) : MemoryOk (State.mk clk
    cur free serial turns turnNo limmOpen ctxs tasks parties cores chans arrSeqs tiles ops stores accs outs reqs packets
    routers jobs bankfmt saved futures s.localMem s.scratch s.codeMem s.hbm s.hostMem writes fences gains eccLocal
    eccScratch eccCode stationTlb dieTlb walks services moves counts pools fwdCredits btes sqes ⟨nvEnabled, nvFailed,
    nvAnswers, nvSizes, s.nvme.data⟩ queues deviceQ waiting loading restores rrQueue chains digests tlbJob tlbAll tlbVa
    tlbBusy devid ports routes fabOut fabWait jobTags privvf hostFut hostKnow winbase winbaseOld winRead msix melbex trace
    log budget dutyCap halted inReset link ckpt peerDigests) ↔ MemoryOk s := Iff.rfl

@[simp] theorem mem_wf (s : State) (sp : Space) (h : MemoryOk s) : (s.mem sp).wf = true := by
  obtain ⟨h1, h2, h3, h4, h5, _⟩ := h
  cases sp <;> assumption

@[simp] theorem putMem_memoryOk (s : State) (sp : Space) (m : Memory) (h : MemoryOk s) (hm : m.wf = true) :
    MemoryOk (s.putMem sp m) := by
  obtain ⟨h1, h2, h3, h4, h5, h6⟩ := h
  cases sp <;> exact ⟨by assumption, by assumption, by assumption, by assumption, by assumption, by assumption⟩

/-- A fold keeps the canonical form where each of its steps does. -/
@[simp] theorem foldl_memoryOk {α : Type} (f : State → α → State) (l : List α) (s : State) (h : MemoryOk s)
    (hf : ∀ s x, MemoryOk s → MemoryOk (f s x)) : MemoryOk (l.foldl f s) := by
  induction l generalizing s with
  | nil => exact h
  | cons x t ih => exact ih (f s x) (hf s x h)

end Sys2Proof.Machine
end

