-- ==== Sys2Proof/Laws/MemoryOk1.lean ====
section
/-! SUPPORT. Every operation on the state keeps the canonical form of the memories (1). -/

namespace Sys2Proof.Machine

open Sys2Proof.Safety

@[simp] theorem State.clean_memoryOk (s : State) (sp : Space) (a : Nat) (n : Nat) (ok : MemoryOk s) : MemoryOk
    (State.clean s sp a n) := by
  unfold State.clean
  (repeat' split) <;> simp_all

@[simp] theorem State.writeBytes_memoryOk (s : State) (sp : Space) (a : Nat) (bs : List Byte) (path : Path) (task : Nat)
    (acc : Nat) (rel : Option Rel) (ok : MemoryOk s) : MemoryOk (State.writeBytes s sp a bs path task acc rel) := by
  simp (maxDischargeDepth := 20) [State.writeBytes, *]

@[simp] theorem State.stamp_memoryOk (s : State) (id : Nat) (at_ : Nat) (ok : MemoryOk s) : MemoryOk (State.stamp s id
    at_) := by
  simp [State.stamp, *]

@[simp] theorem State.unwrite_memoryOk (s : State) (w : WRec) (ok : MemoryOk s) : MemoryOk (State.unwrite s w) := by
  unfold State.unwrite
  dsimp only
  (repeat' split) <;> simp_all (maxDischargeDepth := 20)

@[simp] theorem State.unwriteFrom_memoryOk (s : State) (acc : Nat) (now : Nat) (ok : MemoryOk s) : MemoryOk
    (State.unwriteFrom s acc now) := by
  unfold State.unwriteFrom
  simp_all

@[simp] theorem State.loadBytes_memoryOk (s : State) (sp : Space) (a : Nat) (bs : List Byte) (ok : MemoryOk s) :
    MemoryOk (State.loadBytes s sp a bs) := by
  simp (maxDischargeDepth := 20) [State.loadBytes, *]

@[simp] theorem State.clearRange_memoryOk (s : State) (sp : Space) (a : Nat) (n : Nat) (ok : MemoryOk s) : MemoryOk
    (State.clearRange s sp a n) := by
  simp (maxDischargeDepth := 20) [State.clearRange, *]

@[simp] theorem State.newAccAt_memoryOk (s : State) (task : Nat) (sc : Scope) (path : Path) (ranges : List (Space × Nat
    × Nat)) (ok : MemoryOk s) : MemoryOk (State.newAccAt s task sc path ranges) := by
  simp [State.newAccAt, *]

@[simp] theorem State.newAcc_memoryOk (s : State) (task : Nat) (sc : Scope) (path : Path) (localVec : Bool) (ok :
    MemoryOk s) : MemoryOk (State.newAcc s task sc path localVec) := by
  simp [State.newAcc, *]

@[simp] theorem State.performAcc_memoryOk (s : State) (id : Nat) (ok : MemoryOk s) : MemoryOk (State.performAcc s id) := by
  simp [State.performAcc, *]

@[simp] theorem State.bump_memoryOk (s : State) (ok : MemoryOk s) : MemoryOk (State.bump s) := by
  simp [State.bump, *]

@[simp] theorem State.setJob_memoryOk (s : State) (n : Nat) (j : Job) (ok : MemoryOk s) : MemoryOk (State.setJob s n j) := by
  simp [State.setJob, *]

@[simp] theorem State.updJob_memoryOk (s : State) (n : Nat) (f : Job → Job) (ok : MemoryOk s) : MemoryOk (State.updJob s
    n f) := by
  unfold State.updJob
  (repeat' split) <;> simp_all

@[simp] theorem State.updCore_memoryOk (s : State) (c : Nat) (f : Core → Core) (ok : MemoryOk s) : MemoryOk
    (State.updCore s c f) := by
  simp [State.updCore, *]

@[simp] theorem State.updTile_memoryOk (s : State) (t : Nat) (f : Tile → Tile) (ok : MemoryOk s) : MemoryOk
    (State.updTile s t f) := by
  simp [State.updTile, *]

@[simp] theorem State.post_memoryOk (s : State) (cls : Class) (src : Endpoint) (dst : Endpoint) (job : Nat) (flits :
    Nat) (queue : Nat) (waits : List Nat) (b : Body) (ok : MemoryOk s) : MemoryOk (State.post s cls src dst job flits
    queue waits b) := by
  simp [State.post, *]

@[simp] theorem State.updPacket_memoryOk (s : State) (id : Nat) (f : Packet → Packet) (ok : MemoryOk s) : MemoryOk
    (State.updPacket s id f) := by
  simp [State.updPacket, *]

@[simp] theorem State.dropPacket_memoryOk (s : State) (id : Nat) (ok : MemoryOk s) : MemoryOk (State.dropPacket s id) := by
  simp [State.dropPacket, *]

@[simp] theorem State.leaveQueue_memoryOk (s : State) (p : Packet) (ok : MemoryOk s) : MemoryOk (State.leaveQueue s p) := by
  unfold State.leaveQueue
  (repeat' split) <;> simp_all

@[simp] theorem State.pod_memoryOk (s : State) (src : Endpoint) (job : Nat) (weight : Nat) (lost : Bool) (killed : Bool)
    (ok : MemoryOk s) : MemoryOk (State.pod s src job weight lost killed) := by
  unfold State.pod
  (repeat' split) <;> simp_all

@[simp] theorem State.sendOut_memoryOk (s : State) (o : OutMsg) (dst : Endpoint) (ok : MemoryOk s) : MemoryOk
    (State.sendOut s o dst) := by
  simp [State.sendOut, *]

@[simp] theorem State.sendMsg_memoryOk (s : State) (m : Msg) (src : Endpoint) (dst : Endpoint) (post : Nat) (ok :
    MemoryOk s) : MemoryOk (State.sendMsg s m src dst post) := by
  simp [State.sendMsg, *]

@[simp] theorem State.updOut_memoryOk (s : State) (id : Nat) (f : OutMsg → OutMsg) (ok : MemoryOk s) : MemoryOk
    (State.updOut s id f) := by
  simp [State.updOut, *]

@[simp] theorem State.dropOut_memoryOk (s : State) (id : Nat) (ok : MemoryOk s) : MemoryOk (State.dropOut s id) := by
  simp [State.dropOut, *]

@[simp] theorem State.updReq_memoryOk (s : State) (id : Nat) (f : Req → Req) (ok : MemoryOk s) : MemoryOk (State.updReq
    s id f) := by
  simp [State.updReq, *]

@[simp] theorem State.dropReq_memoryOk (s : State) (id : Nat) (ok : MemoryOk s) : MemoryOk (State.dropReq s id) := by
  simp [State.dropReq, *]

@[simp] theorem State.ownDraw_memoryOk (s : State) (job : Nat) (m : Msg) (units : Nat) (ok : MemoryOk s) : MemoryOk
    (State.ownDraw s job m units) := by
  simp [State.ownDraw, *]

@[simp] theorem State.sendOrDraw_memoryOk (s : State) (job : Nat) (m : Msg) (u : Nat) (ok : MemoryOk s) : MemoryOk
    (State.sendOrDraw s job m u) := by
  unfold State.sendOrDraw
  (repeat' split) <;> simp_all

@[simp] theorem State.doneRise_memoryOk (s : State) (post : Nat) (job : Nat) (know : Know) (ok : MemoryOk s) : MemoryOk
    (State.doneRise s post job know) := by
  unfold State.doneRise
  (repeat' split) <;> simp_all

@[simp] theorem State.complete_memoryOk (s : State) (src : Endpoint) (job : Nat) (vcore : Nat) (v : Nat) (cm : Cmsg)
    (status : Word) (results : List Word) (acq : Bool) (know : Know) (post : Nat) (ok : MemoryOk s) : MemoryOk
    (State.complete s src job vcore v cm status results acq know post) := by
  unfold State.complete
  (repeat' split) <;> simp_all

@[simp] theorem State.markDirty_memoryOk (s : State) (addr : Nat) (e : Nat) (ok : MemoryOk s) : MemoryOk
    (State.markDirty s addr e) := by
  unfold State.markDirty
  (repeat' split) <;> simp_all

@[simp] theorem State.ownWrite_memoryOk (s : State) (pt : Nat) (va : Nat) (path : Path) (rel : Option Rel) (bs : List
    Byte) (ok : MemoryOk s) : MemoryOk (State.ownWrite s pt va path rel bs) := by
  unfold State.ownWrite
  (repeat' split) <;> simp_all

@[simp] theorem State.writeVirt_memoryOk (s : State) (pt va : Nat) (path : Path) (l : List Word) (h : MemoryOk s) :
    MemoryOk (s.writeVirt pt va path l) := by
  induction l generalizing s va with
  | nil => exact h
  | cons w t ih =>
    refine ih _ _ ?_
    simp_all (maxDischargeDepth := 20)

@[simp] theorem State.setMe_memoryOk (s : State) (c : Ctx) (ok : MemoryOk s) : MemoryOk (State.setMe s c) := by
  simp [State.setMe, *]

@[simp] theorem State.updCtx_memoryOk (s : State) (key : Nat) (f : Ctx → Ctx) (ok : MemoryOk s) : MemoryOk (State.updCtx
    s key f) := by
  unfold State.updCtx
  (repeat' split) <;> simp_all

@[simp] theorem State.landed_memoryOk (s : State) (key : Nat) (op : Nat) (ps : List (Nat × Nat)) (ok : MemoryOk s) :
    MemoryOk (State.landed s key op ps) := by
  unfold State.landed
  dsimp only
  (repeat' split) <;> simp_all (maxDischargeDepth := 20)

@[simp] theorem wr_memoryOk (s : State) (d : Name) (v : Word) (latency : Nat) (ok : MemoryOk s) : MemoryOk (wr s d v
    latency) := by
  unfold wr
  dsimp only
  (repeat' split) <;> simp_all (maxDischargeDepth := 20)

@[simp] theorem wrK_memoryOk (s : State) (n : Fin 8) (v : MaskReg) (ok : MemoryOk s) : MemoryOk (wrK s n v) := by
  simp [wrK, *]

@[simp] theorem State.settleAt_memoryOk (s : State) (key : Nat) (ok : MemoryOk s) : MemoryOk (State.settleAt s key) := by
  unfold State.settleAt
  dsimp only
  (repeat' split) <;> simp_all (maxDischargeDepth := 20)

@[simp] theorem setFlags_memoryOk (s : State) (bits : Nat) (ok : MemoryOk s) : MemoryOk (setFlags s bits) := by
  unfold setFlags
  (repeat' split) <;> simp_all

@[simp] theorem State.retire_memoryOk (s : State) (len : Nat) (gap : Nat) (mark : Bool) (fl : Flow) (ok : MemoryOk s) :
    MemoryOk (State.retire s len gap mark fl) := by
  simp [State.retire, *]

@[simp] theorem State.endTask_memoryOk (s : State) (key : Nat) (ok : MemoryOk s) : MemoryOk (State.endTask s key) := by
  unfold State.endTask
  (repeat' split) <;> simp_all

@[simp] theorem killTasks_memoryOk (job : Nat) (j : Job) (d : Nat × Nat) (s : State) (l : List (Nat × Ctx)) (h : MemoryOk s) :
    MemoryOk (killTasks job j d s l) := by
  induction l generalizing s with
  | nil => exact h
  | cons e t ih =>
    obtain ⟨key, c⟩ := e
    simp only [killTasks]
    split <;> exact ih _ (by simp (maxDischargeDepth := 20) [h])

@[simp] theorem dropWaiting_memoryOk (job : Nat) (j : Job) (d : Nat × Nat) (s : State) (l : List (Nat × Core)) (h : MemoryOk s) :
    MemoryOk (dropWaiting job j d s l) := by
  induction l generalizing s with
  | nil => exact h
  | cons e t ih =>
    obtain ⟨key, c⟩ := e
    simp only [dropWaiting]
    refine ih _ ?_
    split <;> simp (maxDischargeDepth := 20) [h]

@[simp] theorem State.sweepDiscards_memoryOk (s : State) (job : Nat) (ok : MemoryOk s) : MemoryOk (State.sweepDiscards s
    job) := by
  unfold State.sweepDiscards
  (repeat' split) <;> simp_all

@[simp] theorem State.discardUnit_memoryOk (s : State) (job : Nat) (d : Nat × Nat) (ok : MemoryOk s) : MemoryOk
    (State.discardUnit s job d) := by
  unfold State.discardUnit
  (repeat' split) <;> simp_all (maxDischargeDepth := 20)

@[simp] theorem freeEntries_memoryOk (job : Nat) (s : State) (t : Nat) (ok : MemoryOk s) : MemoryOk (freeEntries job s
    t) := by
  unfold freeEntries
  dsimp only
  (repeat' split) <;> simp_all (maxDischargeDepth := 20)

@[simp] theorem staleWaiters_memoryOk (job : Nat) (s : State) (l : List (Nat × Future)) (h : MemoryOk s) :
    MemoryOk (staleWaiters job s l) := by
  induction l generalizing s with
  | nil => exact h
  | cons e t ih =>
    obtain ⟨key, f⟩ := e
    simp only [staleWaiters]
    refine ih _ (foldl_memoryOk _ _ _ ?_ ?_)
    · split <;> simp (maxDischargeDepth := 20) [h]
    · intro s r hs; split <;> simp [hs]

@[simp] theorem State.killJob_memoryOk (s : State) (job : Nat) (ok : MemoryOk s) : MemoryOk (State.killJob s job) := by
  unfold State.killJob
  (repeat' split) <;> simp_all (maxDischargeDepth := 20)

@[simp] theorem State.contain_memoryOk (s : State) (job vcore l : Nat) (h : MemoryOk s) : MemoryOk (s.contain job vcore l) := by
  induction l generalizing s with
  | zero => simp [State.contain, h]
  | succ n ih =>
    simp only [State.contain]
    (repeat' split) <;> simp_all (maxDischargeDepth := 20)

@[simp] theorem State.containment_memoryOk (s : State) (job : Nat) (vcore : Nat) (ok : MemoryOk s) : MemoryOk
    (State.containment s job vcore) := by
  unfold State.containment
  (repeat' split) <;> simp_all

@[simp] theorem State.fatal_memoryOk (s : State) (job : Nat) (vcore : Nat) (sub : Nat) (weight : Nat) (arg : Word) (src
    : Endpoint) (ok : MemoryOk s) : MemoryOk (State.fatal s job vcore sub weight arg src) := by
  simp [State.fatal, *]

@[simp] theorem State.parkRecord_memoryOk (s : State) (job : Nat) (j : Job) (e : Word) (vcore : Nat) (u : Nat) (r :
    Report) (know : Know) (ok : MemoryOk s) : MemoryOk (State.parkRecord s job j e vcore u r know) := by
  unfold State.parkRecord
  (repeat' split) <;> simp_all (maxDischargeDepth := 20)

@[simp] theorem State.forwardTrap_memoryOk (s : State) (job : Nat) (e : Word) (vcore : Nat) (u : Nat) (r : Report) (know
    : Know) (ok : MemoryOk s) : MemoryOk (State.forwardTrap s job e vcore u r know) := by
  simp [State.forwardTrap, *]

@[simp] theorem State.killTrap_memoryOk (s : State) (job : Nat) (vcore : Nat) (u : Nat) (src : Endpoint) (ok : MemoryOk
    s) : MemoryOk (State.killTrap s job vcore u src) := by
  simp [State.killTrap, *]

@[simp] theorem State.killOwn_memoryOk (s : State) (job : Nat) (j : Job) (src : Endpoint) (ok : MemoryOk s) : MemoryOk
    (State.killOwn s job j src) := by
  unfold State.killOwn
  (repeat' split) <;> simp_all

@[simp] theorem State.raiseJob_memoryOk (s : State) (job : Nat) (vcore : Nat) (u : Nat) (t : Trap) (know : Know) (src :
    Endpoint) (ok : MemoryOk s) : MemoryOk (State.raiseJob s job vcore u t know src) := by
  unfold State.raiseJob
  dsimp only
  (repeat' split) <;> simp_all (maxDischargeDepth := 20)

@[simp] theorem State.takeTrap_memoryOk (s : State) (key : Nat) (t : Trap) (seg : Nat × Nat) (ok : MemoryOk s) :
    MemoryOk (s.takeTrap key t seg) := by
  unfold State.takeTrap
  split
  · exact ok
  · dsimp only
    split
    · simp [ok]
    · split
      · simp (maxDischargeDepth := 20) [ok]
      · split
        · split
          · split <;> simp (maxDischargeDepth := 20) [ok]
          · simp [ok]
        · simp [ok]
        · simp [ok]
        · simp [ok]

@[simp] theorem State.trapNow_memoryOk (s : State) (key : Nat) (t : Trap) (seg : Nat × Nat) (ok : MemoryOk s) : MemoryOk
    (State.trapNow s key t seg) := by
  unfold State.trapNow
  (repeat' split) <;> simp_all

@[simp] theorem State.finishTask_memoryOk (s : State) (key : Nat) (ok : MemoryOk s) : MemoryOk (State.finishTask s key) := by
  unfold State.finishTask
  (repeat' split) <;> simp_all

@[simp] theorem State.release_memoryOk (s : State) (key : Nat) (ok : MemoryOk s) : MemoryOk (State.release s key) := by
  unfold State.release
  (repeat' split) <;> simp_all

@[simp] theorem State.settleOp_memoryOk (s : State) (o : Op) (ok : MemoryOk s) : MemoryOk (State.settleOp s o) := by
  simp [State.settleOp, *]

@[simp] theorem State.writeResults_memoryOk (s : State) (o : Op) (rs : List (Target × Nat)) (flags : Nat) (ok : MemoryOk
    s) : MemoryOk (State.writeResults s o rs flags) := by
  unfold State.writeResults
  dsimp only
  (repeat' split) <;> simp_all (maxDischargeDepth := 20)

@[simp] theorem startVec_memoryOk (s : State) (kind : OpKind) (mask : MaskReg) (a : Word) (b : Word) (srcs : List Nat)
    (tgts : List Target) (waits : List Nat) (acc : Nat) (ok : MemoryOk s) : MemoryOk (startVec s kind mask a b srcs tgts
    waits acc) := by
  simp [startVec, *]

@[simp] theorem startOp_memoryOk (s : State) (kind : OpKind) (a : Word) (b : Word) (tgts : List Target) (waits : List
    Nat) (acc : Nat) (ok : MemoryOk s) : MemoryOk (startOp s kind a b tgts waits acc) := by
  simp [startOp, *]

@[simp] theorem writeLink_memoryOk (s : State) (v : Word) (ok : MemoryOk s) : MemoryOk (writeLink s v) := by
  simp [writeLink, *]

@[simp] theorem ending_memoryOk (s : State) (ok : MemoryOk s) : MemoryOk (ending s) := by
  simp [ending, *]

@[simp] theorem State.grantedFor_memoryOk (s : State) (tile : Nat) (bank : Nat) (port : Nat) (n : Nat) (ok : MemoryOk s)
    : MemoryOk (State.grantedFor s tile bank port n) := by
  unfold State.grantedFor
  (repeat' split) <;> simp_all

@[simp] theorem State.granted_memoryOk (s : State) (tile : Nat) (bank : Nat) (port : Nat) (ok : MemoryOk s) : MemoryOk
    (State.granted s tile bank port) := by
  simp [State.granted, *]

theorem State.takeBanks_memoryOk (s t : State) (tile port : Nat) (l : List Nat) (ok : MemoryOk s) (e : s.takeBanks tile port l = some t) :
    MemoryOk t := by
  unfold State.takeBanks at e
  dsimp only at e
  split at e
  · cases e
    exact foldl_memoryOk _ _ _ ok (fun s b h => by simp [h])
  · cases e

@[simp] theorem State.updOp_memoryOk (s : State) (id : Nat) (f : Op → Op) (ok : MemoryOk s) : MemoryOk (State.updOp s id
    f) := by
  simp [State.updOp, *]

@[simp] theorem State.finishLoad_memoryOk (s : State) (o : Op) (ok : MemoryOk s) : MemoryOk (State.finishLoad s o) := by
  simp [State.finishLoad, *]

@[simp] theorem State.loaded_memoryOk (s : State) (o : Op) (v : Word) (gain : Option Know) (ok : MemoryOk s) : MemoryOk
    (State.loaded s o v gain) := by
  unfold State.loaded
  dsimp only
  (repeat' split) <;> simp_all (maxDischargeDepth := 20)

@[simp] theorem addRise_memoryOk (s : State) (tile : Nat) (r : Rise) (ok : MemoryOk s) : MemoryOk (addRise s tile r) := by
  simp [addRise, *]

@[simp] theorem State.addReq_memoryOk (s : State) (w : Issuer) (path : Path) (sc : Scope) (ranges : List (Space × Nat ×
    Nat)) (r : Req) (ok : MemoryOk s) : MemoryOk (State.addReq s w path sc ranges r) := by
  simp [State.addReq, *]

@[simp] theorem State.request_memoryOk (s : State) (w : Issuer) (kind : ReqKind) (v : Nat) (cm : Cmsg) (path : Path) (sc
    : Scope) (rel : Option Scope) (left : Nat) (ranges : List (Space × Nat × Nat)) (ok : MemoryOk s) : MemoryOk
    (State.request s w kind v cm path sc rel left ranges) := by
  simp [State.request, *]

@[simp] theorem State.postReq_memoryOk (s : State) (w : Issuer) (id : Nat) (dst : Endpoint) (ok : MemoryOk s) : MemoryOk
    (State.postReq s w id dst) := by
  unfold State.postReq
  (repeat' split) <;> simp_all

@[simp] theorem State.reply_memoryOk (s : State) (src : Endpoint) (dst : Endpoint) (job : Nat) (b : Body) (ok : MemoryOk
    s) : MemoryOk (State.reply s src dst job b) := by
  simp [State.reply, *]

@[simp] theorem State.acquireAt_memoryOk (s : State) (req : Nat) (sc : Scope) (core : Nat) (sp : Space) (at_ : Nat)
    (rels : List Rel) (ok : MemoryOk s) : MemoryOk (State.acquireAt s req sc core sp at_ rels) := by
  unfold State.acquireAt
  (repeat' split) <;> simp_all

@[simp] theorem State.finishReq_memoryOk (s : State) (src : Endpoint) (r : Req) (acq : Bool) (results : List Word) (ok :
    MemoryOk s) : MemoryOk (State.finishReq s src r acq results) := by
  simp (maxDischargeDepth := 20) [State.finishReq, *]

@[simp] theorem State.raiseReq_memoryOk (s : State) (src : Endpoint) (r : Req) (c : Cause) (arg : Word) (ok : MemoryOk
    s) : MemoryOk (State.raiseReq s src r c arg) := by
  simp (maxDischargeDepth := 20) [State.raiseReq, *]

end Sys2Proof.Machine
end

