-- ==== Sys2Proof/Laws/MemoryOk2.lean ====
section
/-! SUPPORT. Every operation on the state keeps the canonical form of the memories (2). -/

namespace Sys2Proof.Machine

open Sys2Proof.Safety

@[simp] theorem State.updPort_memoryOk (s : State) (p : Nat) (f : Port → Port) (ok : MemoryOk s) : MemoryOk
    (State.updPort s p f) := by
  simp [State.updPort, *]

@[simp] theorem State.emit_memoryOk (s : State) (n : Nat) (p : FabPkt) (ok : MemoryOk s) : MemoryOk (State.emit s n p) := by
  simp [State.emit, *]

@[simp] theorem State.giveBack_memoryOk (s : State) (p : FabPkt) (c : Option (Nat × Nat)) (ok : MemoryOk s) : MemoryOk (s.giveBack p c) := by
  cases c with
  | none => exact ok
  | some x => obtain ⟨n, l⟩ := x; simp [State.giveBack, ok]

@[simp] theorem State.fabVia_memoryOk (s : State) (n : Nat) (p : FabPkt) (came : Option (Nat × Nat)) (ok : MemoryOk s) :
    MemoryOk (State.fabVia s n p came) := by
  unfold State.fabVia
  (repeat' split) <;> simp_all

theorem State.fabTry_memoryOk (s t : State) (p : FabPkt) (c : Option (Nat × Nat)) (h : MemoryOk s) (e : s.fabTry p c = some t) :
    MemoryOk t := by
  unfold State.fabTry at e
  cases hc : s.choosePort p with
  | none => rw [hc] at e; cases e
  | some n => rw [hc] at e; cases e; simp [h]

@[simp] theorem State.fabSend_memoryOk (s : State) (src : Endpoint) (job : Nat) (p : FabPkt) (ok : MemoryOk s) :
    MemoryOk (State.fabSend s src job p) := by
  simp [State.fabSend, *]

@[simp] theorem State.fabAnswer_memoryOk (s : State) (src : Endpoint) (job : Nat) (dev : Nat) (jtag : Nat) (b : FabBody)
    (ok : MemoryOk s) : MemoryOk (State.fabAnswer s src job dev jtag b) := by
  simp [State.fabAnswer, *]

@[simp] theorem State.endOut_memoryOk (s : State) (o : OutMsg) (lost : Bool) (killed : Bool) (ok : MemoryOk s) :
    MemoryOk (State.endOut s o lost killed) := by
  simp (maxDischargeDepth := 20) [State.endOut, *]

@[simp] theorem State.endReqNow_memoryOk (s : State) (r : Req) (lost : Bool) (killed : Bool) (ok : MemoryOk s) :
    MemoryOk (State.endReqNow s r lost killed) := by
  simp (maxDischargeDepth := 20) [State.endReqNow, *]

@[simp] theorem State.endReq_memoryOk (s : State) (r : Req) (lost : Bool) (killed : Bool) (ok : MemoryOk s) : MemoryOk
    (State.endReq s r lost killed) := by
  unfold State.endReq
  (repeat' split) <;> simp_all

@[simp] theorem State.nakHere_memoryOk (s : State) (isSend isPod : Bool) (item tile weight cls dest : Nat) (ok : MemoryOk s) :
    MemoryOk (s.nakHere isSend isPod item tile weight cls dest) := by
  unfold State.nakHere
  split
  · split
    · split <;> simp [ok]
    · dsimp only
      cases e : s.fabTry _ none with
      | none => simp [ok]
      | some t => exact State.fabTry_memoryOk s t _ _ ok e
  · (repeat' split) <;> simp [ok]

@[simp] theorem State.discardPkt_memoryOk (s : State) (p : FabPkt) (ok : MemoryOk s) : MemoryOk (s.discardPkt p) := by
  unfold State.discardPkt
  have ok1 : MemoryOk { s with log := s.log ++ [LogEntry.discarded p] } := ok
  generalize ({ s with log := s.log ++ [LogEntry.discarded p] } : State) = s1 at ok1
  dsimp only
  split
  · split <;> simp [ok1]
  · cases e : s1.fabTry _ none with
    | none => simp [ok1]
    | some t => exact State.fabTry_memoryOk s1 t _ _ ok1 e

@[simp] theorem State.fabPut_memoryOk (s : State) (p : FabPkt) (c : Option (Nat × Nat)) (ok : MemoryOk s) : MemoryOk (s.fabPut p c) := by
  unfold State.fabPut
  cases e : s.fabTry p c with
  | none => simp [ok]
  | some t => exact State.fabTry_memoryOk s t p c ok e

@[simp] theorem State.fabLeave_memoryOk (s : State) (n : Nat) (p : FabPkt) (ok : MemoryOk s) : MemoryOk (State.fabLeave
    s n p) := by
  unfold State.fabLeave
  dsimp only
  (repeat' split) <;> simp_all (maxDischargeDepth := 20)

@[simp] theorem drainWaiting_memoryOk (s : State) (kept l : List FabOut) (h : MemoryOk s) : MemoryOk (drainWaiting s kept l) := by
  induction l generalizing s kept with
  | nil => simp [drainWaiting, h]
  | cons w t ih =>
    simp only [drainWaiting]
    (repeat' split) <;> exact ih _ _ (by simp (maxDischargeDepth := 20) [h])

@[simp] theorem State.fabDrain_memoryOk (s : State) (ok : MemoryOk s) : MemoryOk (State.fabDrain s) := by
  simp [State.fabDrain, *]

@[simp] theorem State.setFuture_memoryOk (s : State) (h : Nat) (f : Future) (ok : MemoryOk s) : MemoryOk
    (State.setFuture s h f) := by
  simp [State.setFuture, *]

@[simp] theorem queueFuture_memoryOk (w : Issuer) (f : Nat) (b : List Word) (v : Nat) (s : State) (ok : MemoryOk s) :
    MemoryOk (queueFuture w f b v s) := by
  simp [queueFuture, *]

@[simp] theorem releaseWaiters_memoryOk (die : Nat) (src : Endpoint) (f : Future) (s : State) (l : List Nat) (h : MemoryOk s) :
    MemoryOk (releaseWaiters die src f s l) := by
  induction l generalizing s with
  | nil => exact h
  | cons r t ih =>
    simp only [releaseWaiters]
    split <;> exact ih _ (by simp (maxDischargeDepth := 20) [h])

@[simp] theorem State.depSet_memoryOk (s : State) (h : Nat) (ok : MemoryOk s) : MemoryOk (State.depSet s h) := by
  simp [State.depSet, *]

@[simp] theorem State.fulfil_memoryOk (s : State) (h : Nat) (value : Word) (rel : Option Rel) (ok : MemoryOk s) :
    MemoryOk (State.fulfil s h value rel) := by
  simp (maxDischargeDepth := 20) [State.fulfil, *]

@[simp] theorem staleAll_memoryOk (src : Endpoint) (w : Word) (s : State) (l : List Nat) (h : MemoryOk s) :
    MemoryOk (staleAll src w s l) := by
  induction l generalizing s with
  | nil => exact h
  | cons r t ih =>
    simp only [staleAll]
    split <;> exact ih _ (by simp (maxDischargeDepth := 20) [h])

@[simp] theorem State.freeFutureEntry_memoryOk (s : State) (h : Nat) (ok : MemoryOk s) : MemoryOk (State.freeFutureEntry
    s h) := by
  simp [State.freeFutureEntry, *]

@[simp] theorem serveFuture_memoryOk (s : State) (die f : Nat) (b : List Word) (r : Req) (ok : MemoryOk s) :
    MemoryOk (serveFuture s die f b r) := by
  unfold serveFuture
  dsimp only
  repeat' split
  all_goals simp (maxDischargeDepth := 20) [ok]

@[simp] theorem State.nvmeWrite_memoryOk (s : State) (port ns lba : Nat) (bs : List Byte) (ok : MemoryOk s) :
    MemoryOk (s.nvmeWrite port ns lba bs) := by
  obtain ⟨h1, h2, h3, h4, h5, h6⟩ := ok
  exact ⟨h1, h2, h3, h4, h5, Memory.wf_write _ _ _ h6⟩

@[simp] theorem State.bringUp_memoryOk (s : State) (port : Nat) (ok : MemoryOk s) : MemoryOk (State.bringUp s port) := by
  unfold State.bringUp
  (repeat' split) <;> simp_all

@[simp] theorem State.setFor_memoryOk (s : State) (owners : List Nat) (h : Word) (value : Word) (rel : Rel) (ok :
    MemoryOk s) : MemoryOk (State.setFor s owners h value rel) := by
  unfold State.setFor
  (repeat' split) <;> simp_all

@[simp] theorem doChunk_memoryOk (bad : List Nat) (st : State × Ckpt) (ic : Nat × Chunk) (ok : MemoryOk st.1) :
    MemoryOk (doChunk bad st ic).1 := by
  unfold doChunk
  dsimp only
  split
  · exact ok
  · split
    · have ok1 (p : Nat) : MemoryOk (st.1.bringUp p) := by simp [ok]
      split
      · exact State.nvmeWrite_memoryOk _ _ _ _ _ (State.nvmeWrite_memoryOk _ _ _ _ _ (ok1 _))
      · exact ok1 _
    · refine foldl_memoryOk _ _ _ ok ?_
      intro s j ok2
      split <;> simp [ok2]

@[simp] theorem commitBlocks_memoryOk (k : Ckpt) (s : State) (ok : MemoryOk s) : MemoryOk (commitBlocks k s) := by
  unfold commitBlocks
  simp_all

@[simp] theorem commitReady_memoryOk (s : State) (k : Ckpt) (h : MemoryOk s) : MemoryOk (commitReady s k).1 := by
  unfold commitReady
  split <;> simp (maxDischargeDepth := 20) [h]

@[simp] theorem State.setCkpt_memoryOk (s : State) (k : Ckpt) (ok : MemoryOk s) : MemoryOk (State.setCkpt s k) := by
  simp [State.setCkpt, *]

@[simp] theorem State.digestHere_memoryOk (s : State) (d : PeerDigest) (ok : MemoryOk s) : MemoryOk (State.digestHere s
    d) := by
  unfold State.digestHere
  (repeat' split) <;> simp_all

@[simp] theorem State.startCkpt_memoryOk (s : State) (words : List Word) (rank : Nat) (jtag : Nat) (ok : MemoryOk s) :
    MemoryOk (State.startCkpt s words rank jtag) := by
  unfold State.startCkpt
  dsimp only
  (repeat' split) <;> simp_all (maxDischargeDepth := 20)

theorem Ckpt.slotsDone_memoryOk (k : Ckpt) (s : State) (bad : List Nat) (ok : MemoryOk s) : MemoryOk (k.slotsDone s bad).1 := by
  have fold : ∀ (l : List (Nat × Chunk)) (st : State × Ckpt), MemoryOk st.1 → MemoryOk (l.foldl (doChunk bad) st).1 := by
    intro l
    induction l with
    | nil => intro st h; exact h
    | cons x t ih => intro st h; exact ih _ (doChunk_memoryOk bad st x h)
  have h := fold k.chunks (s, k) ok
  exact commitReady_memoryOk _ _ (by simp [h])

@[simp] theorem State.rewriteSlots_memoryOk (s : State) (core : Nat) (ok : MemoryOk s) : MemoryOk (State.rewriteSlots s
    core) := by
  simp [State.rewriteSlots, *]

@[simp] theorem State.addResident_memoryOk (s : State) (core : Nat) (job : Nat) (ok : MemoryOk s) : MemoryOk
    (State.addResident s core job) := by
  unfold State.addResident
  (repeat' split) <;> simp_all

@[simp] theorem State.dropResident_memoryOk (s : State) (core : Nat) (job : Nat) (ok : MemoryOk s) : MemoryOk
    (State.dropResident s core job) := by
  simp [State.dropResident, *]

@[simp] theorem State.clearJobMem_memoryOk (s : State) (job : Nat) (ok : MemoryOk s) : MemoryOk (State.clearJobMem s
    job) := by
  simp (maxDischargeDepth := 20) [State.clearJobMem, *]

@[simp] theorem clearTile_memoryOk (job : Nat) (s : State) (t : Nat) (ok : MemoryOk s) : MemoryOk (clearTile job s t) := by
  simp [clearTile, *]

@[simp] theorem State.dropTlb_memoryOk (s : State) (job : Nat) (ok : MemoryOk s) : MemoryOk (State.dropTlb s job) := by
  simp [State.dropTlb, *]

@[simp] theorem State.leave_memoryOk (s : State) (job : Nat) (ok : MemoryOk s) : MemoryOk (State.leave s job) := by
  unfold State.leave
  (repeat' split) <;> simp_all (maxDischargeDepth := 20)

@[simp] theorem State.writeStatus_memoryOk (s : State) (source : Nat) (addr : Nat) (parent : Nat) (w : Word) (rel : Rel)
    (ok : MemoryOk s) : MemoryOk (State.writeStatus s source addr parent w rel) := by
  unfold State.writeStatus
  (repeat' split) <;> simp_all

@[simp] theorem State.finishAt_memoryOk (s : State) (r : Req) (results : List Word) (ok : MemoryOk s) : MemoryOk
    (State.finishAt s r results) := by
  simp [State.finishAt, *]

@[simp] theorem State.endRecord_memoryOk (s : State) (source : Nat) (addr : Nat) (parent : Nat) (done : Word) (status :
    Word) (rel : Rel) (ok : MemoryOk s) : MemoryOk (State.endRecord s source addr parent done status rel) := by
  unfold State.endRecord
  dsimp only
  (repeat' split) <;> simp_all (maxDischargeDepth := 20)

@[simp] theorem State.completeLaunch_memoryOk (s : State) (job : Nat) (j : Job) (ok : MemoryOk s) : MemoryOk
    (State.completeLaunch s job j) := by
  simp (maxDischargeDepth := 20) [State.completeLaunch, *]

@[simp] theorem State.writeVirtBytes_memoryOk (s : State) (pt va : Nat) (path : Path) (bs : List Byte) (n : Nat) (h : MemoryOk s) :
    MemoryOk (s.writeVirtBytes pt va path bs n) := by
  induction n generalizing s va bs with
  | zero => exact h
  | succ n ih =>
    cases bs with
    | nil => exact h
    | cons b l => exact ih _ _ _ (by simp (maxDischargeDepth := 20) [h])

theorem State.saveContext_memoryOk (s t : State) (job : Nat) (j : Job) (r : Req) (area : Nat) (ok : MemoryOk s)
    (e : s.saveContext job j r area = .ok t) : MemoryOk t := by
  unfold State.saveContext at e
  dsimp only at e
  split at e
  · cases e
  · split at e
    · cases e
    · cases e
      simp (maxDischargeDepth := 20) [ok]

@[simp] theorem State.postAt_memoryOk (s : State) (at_ : Endpoint) (job : Nat) (b : Body) (ok : MemoryOk s) : MemoryOk
    (State.postAt s at_ job b) := by
  simp [State.postAt, *]

@[simp] theorem State.toStation_memoryOk (s : State) (a : Access) (queue : Nat) (waits : List Nat) (ok : MemoryOk s) :
    MemoryOk (State.toStation s a queue waits) := by
  simp [State.toStation, *]

@[simp] theorem State.answer_memoryOk (s : State) (src : Endpoint) (a : Access) (b : Body) (ok : MemoryOk s) : MemoryOk
    (State.answer s src a b) := by
  simp [State.answer, *]

@[simp] theorem State.wakeTransfer_memoryOk (s : State) (req : Nat) (ok : MemoryOk s) : MemoryOk (State.wakeTransfer s
    req) := by
  simp [State.wakeTransfer, *]

@[simp] theorem State.farFailed_memoryOk (s : State) (src : Endpoint) (a : Access) (dev : Nat) (sub : Nat) (ok :
    MemoryOk s) : MemoryOk (State.farFailed s src a dev sub) := by
  simp [State.farFailed, *]

@[simp] theorem State.toIssuer_memoryOk (s : State) (src : Endpoint) (a : Access) (ok : MemoryOk s) : MemoryOk
    (State.toIssuer s src a) := by
  unfold State.toIssuer
  (repeat' split) <;> simp_all

@[simp] theorem State.freeCredit_memoryOk (s : State) (a : Access) (ok : MemoryOk s) : MemoryOk (State.freeCredit s a) := by
  unfold State.freeCredit
  (repeat' split) <;> simp_all

@[simp] theorem State.failAccess_memoryOk (s0 : State) (src : Endpoint) (a : Access) (code : Nat) (ok : MemoryOk s0) :
    MemoryOk (State.failAccess s0 src a code) := by
  unfold State.failAccess
  (repeat' split) <;> simp_all (maxDischargeDepth := 20)

@[simp] theorem State.writePte_memoryOk (s : State) (addr : Nat) (e : Nat) (ok : MemoryOk s) : MemoryOk (State.writePte
    s addr e) := by
  simp [State.writePte, *]

@[simp] theorem State.updPte_memoryOk (s : State) (addr : Nat) (pte : Nat) (f : Nat → Nat) (ok : MemoryOk s) : MemoryOk
    (State.updPte s addr pte f) := by
  unfold State.updPte
  dsimp only
  (repeat' split) <;> simp_all (maxDischargeDepth := 20)

@[simp] theorem State.loadStation_memoryOk (s : State) (st : Nat) (e : TlbEntry) (ok : MemoryOk s) : MemoryOk
    (State.loadStation s st e) := by
  simp [State.loadStation, *]

@[simp] theorem State.loadDie_memoryOk (s : State) (die : Nat) (e : TlbEntry) (ok : MemoryOk s) : MemoryOk
    (State.loadDie s die e) := by
  simp [State.loadDie, *]

@[simp] theorem State.setDirty_memoryOk (s : State) (st : Nat) (e : TlbEntry) (ok : MemoryOk s) : MemoryOk
    (State.setDirty s st e) := by
  unfold State.setDirty
  (repeat' split) <;> simp_all

@[simp] theorem State.countAccess_memoryOk (s : State) (die : Nat) (job : Nat) (va : Nat) (ok : MemoryOk s) : MemoryOk
    (State.countAccess s die job va) := by
  simp [State.countAccess, *]

@[simp] theorem State.passOn_memoryOk (s : State) (st : Nat) (a : Access) (ok : MemoryOk s) : MemoryOk (State.passOn s
    st a) := by
  unfold State.passOn
  dsimp only
  (repeat' split) <;> simp_all (maxDischargeDepth := 20)

theorem State.useEntry_memoryOk (s t : State) (st : Nat) (e : TlbEntry) (va pa : Nat) (write pin : Bool) (ok : MemoryOk s)
    (h : s.useEntry st e va write pin = .ok (t, pa)) : MemoryOk t := by
  unfold State.useEntry at h
  split at h
  · cases h
  · dsimp only at h
    split at h
    · cases h
    · cases h
      split <;> simp [ok]

@[simp] theorem State.throughEntry_memoryOk (s : State) (st : Nat) (e : TlbEntry) (a : Access) (ok : MemoryOk s) :
    MemoryOk (s.throughEntry st e a) := by
  unfold State.throughEntry
  split
  · simp [ok]
  · rename_i h
    simp [State.useEntry_memoryOk _ _ _ _ _ _ _ _ ok h]

@[simp] theorem State.handOver_memoryOk (s : State) (pteAddr : Nat) (locator : Nat) (bits : Nat) (ok : MemoryOk s) :
    MemoryOk (State.handOver s pteAddr locator bits) := by
  unfold State.handOver
  dsimp only
  (repeat' split) <;> simp_all (maxDischargeDepth := 20)

@[simp] theorem State.park_memoryOk (s : State) (a : Access) (pteAddr : Nat) (ok : MemoryOk s) : MemoryOk (State.park s
    a pteAddr) := by
  unfold State.park
  dsimp only
  (repeat' split) <;> simp_all (maxDischargeDepth := 20)

@[simp] theorem State.parkStored_memoryOk (s : State) (a : Access) (pteAddr : Nat) (locator : Nat) (bits : Nat) (ok :
    MemoryOk s) : MemoryOk (State.parkStored s a pteAddr locator bits) := by
  unfold State.parkStored
  (repeat' split) <;> simp_all (maxDischargeDepth := 20)

@[simp] theorem State.clearParked_memoryOk (s : State) (pteAddr : Nat) (ok : MemoryOk s) : MemoryOk (State.clearParked s
    pteAddr) := by
  simp [State.clearParked, *]

@[simp] theorem State.translateAgain_memoryOk (s : State) (a : Access) (ok : MemoryOk s) : MemoryOk
    (State.translateAgain s a) := by
  simp [State.translateAgain, *]

@[simp] theorem State.releaseParked_memoryOk (s : State) (pteAddr : Nat) (ok : MemoryOk s) : MemoryOk
    (State.releaseParked s pteAddr) := by
  unfold State.releaseParked
  simp_all

@[simp] theorem State.failParked_memoryOk (s : State) (pteAddr : Nat) (code : Nat) (ok : MemoryOk s) : MemoryOk
    (State.failParked s pteAddr code) := by
  unfold State.failParked
  simp_all

/-- A look-up that ends on an entry leaves the memories in canonical form. -/
theorem State.walkFor_memoryOk (s t : State) (st job root va : Nat) (e : TlbEntry) (ok : MemoryOk s)
    (h : s.walkFor st job root va = .entry t e) : MemoryOk t := by
  unfold State.walkFor at h
  split at h
  · split at h
    · cases h
    · cases h; simp [ok]
  · cases h
  · cases h
  · cases h

theorem State.look_memoryOk (s t : State) (st job root va : Nat) (e : TlbEntry) (ok : MemoryOk s)
    (h : s.look st job root va = .entry t e) : MemoryOk t := by
  unfold State.look at h
  split at h
  · cases h; exact ok
  · cases h; simp [ok]
  · exact State.walkFor_memoryOk _ _ _ _ _ _ _ ok h

@[simp] theorem State.walked_memoryOk (s : State) (a : Access) (ok : MemoryOk s) : MemoryOk (s.walked a) := by
  unfold State.walked
  split
  · exact ok
  · rename_i j _
    cases h : s.walkFor a.st a.job j.ptroot a.va with
    | entry t e => simp [State.looked, State.walkFor_memoryOk _ _ _ _ _ _ _ ok h]
    | busy addr => simp [State.looked, ok]
    | stored e addr bits => simp only [State.looked]; split <;> simp [ok]
    | fails code => simp [State.looked, ok]

@[simp] theorem State.endNear_memoryOk (s : State) (src : Endpoint) (a : Access) (code : Nat) (ok : MemoryOk s) :
    MemoryOk (State.endNear s src a code) := by
  simp [State.endNear, *]

@[simp] theorem State.noContext_memoryOk (s : State) (src : Endpoint) (a : Access) (ok : MemoryOk s) : MemoryOk
    (State.noContext s src a) := by
  unfold State.noContext
  (repeat' split) <;> simp_all

@[simp] theorem sendPieces_memoryOk (w : Issuer) (r : Req) (kind : AccKind) (g a : Nat) (s : State) (l : List (Nat × Nat))
    (h : MemoryOk s) : MemoryOk (sendPieces w r kind g a s l) := by
  induction l generalizing s with
  | nil => exact h
  | cons e t ih =>
    obtain ⟨off, n⟩ := e
    simp only [sendPieces]
    exact ih _ (by simp (maxDischargeDepth := 20) [h])

@[simp] theorem queueBlock_memoryOk (w : Issuer) (wr_ : Bool) (tile : Bool) (q : Bool) (b : List Word) (v : Nat) (s :
    State) (ok : MemoryOk s) : MemoryOk (queueBlock w wr_ tile q b v s) := by
  unfold queueBlock
  dsimp only
  (repeat' split) <;> simp_all (maxDischargeDepth := 20)

theorem State.niPort_memoryOk (s t : State) (tile port : Nat) (sp : Space) (flat n : Nat) (ok : MemoryOk s)
    (e : s.niPort tile port sp flat n = some t) : MemoryOk t := State.takeBanks_memoryOk _ _ _ _ _ ok e

theorem State.fillPiece_memoryOk (s t : State) (r : Req) (a : Access) (ok : MemoryOk s) (e : s.fillPiece r a = .error t) :
    MemoryOk t := by
  unfold State.fillPiece at e
  dsimp only at e
  split at e
  · simp only [Except.error.injEq] at e
    subst e
    simp [ok]
  · cases e

@[simp] theorem State.copyRead_memoryOk (s : State) (a : Access) (sp : Space) (p : Nat) (ok : MemoryOk s) :
    MemoryOk (s.copyRead a sp p).1 := by
  unfold State.copyRead
  dsimp only
  split <;> simp [ok]

end Sys2Proof.Machine
end

