-- ==== Sys2Proof/Laws/MemoryOk3.lean ====
section
/-! SUPPORT. Every operation on the state keeps the canonical form of the memories (3). -/

namespace Sys2Proof.Machine

open Sys2Proof.Safety

@[simp] theorem performPiece_memoryOk (s : State) (src : Endpoint) (a : Access) (ok : MemoryOk s) : MemoryOk (performPiece s src a) := by
  unfold performPiece
  split
  · exact State.failAccess_memoryOk _ _ _ _ ok
  · split
    · exact State.toIssuer_memoryOk _ _ _ (State.copyRead_memoryOk _ _ _ _ ok)
    · exact State.toIssuer_memoryOk _ _ _ (State.writeBytes_memoryOk _ _ _ _ _ _ _ _ ok)
    · exact State.reply_memoryOk _ _ _ _ _ (State.performAcc_memoryOk _ _ (State.writeBytes_memoryOk _ _ _ _ _ _ _ _ ok))
    · exact ok

theorem performTile_memoryOk (s t : State) (tile : Nat) (a : Access) (ok : MemoryOk s) (e : performTile s tile a = some t) :
    MemoryOk t := by
  unfold performTile at e
  split at e
  · simp only [Option.map_eq_some_iff] at e
    obtain ⟨s1, h1, rfl⟩ := e
    have ok1 := State.niPort_memoryOk _ _ _ _ _ _ _ ok h1
    split <;> simp [ok1]
  · simp only [Option.map_eq_some_iff] at e
    obtain ⟨s1, h1, rfl⟩ := e
    simp [State.niPort_memoryOk _ _ _ _ _ _ _ ok h1]
  · cases e; exact ok

@[simp] theorem State.turnAway_memoryOk (s : State) (src : Endpoint) (a : Access) (hint : Nat) (ok : MemoryOk s) :
    MemoryOk (State.turnAway s src a hint) := by
  unfold State.turnAway
  (repeat' split) <;> simp_all

@[simp] theorem State.pieceDone_memoryOk (s : State) (r : Req) (acq : Bool) (ok : MemoryOk s) : MemoryOk
    (State.pieceDone s r acq) := by
  unfold State.pieceDone
  (repeat' split) <;> simp_all

theorem landPiece_memoryOk (s t : State) (r : Req) (a : Access) (ok : MemoryOk s) (e : landPiece s r a = some t) : MemoryOk t := by
  unfold landPiece at e
  split at e
  · cases e; simp [ok]
  · split at e
    · simp only [Option.map_eq_some_iff] at e
      obtain ⟨s1, h1, rfl⟩ := e
      simp [State.niPort_memoryOk _ _ _ _ _ _ _ ok h1]
    · cases e; simp [ok]

@[simp] theorem landNear_memoryOk (s : State) (r : Req) (status : Nat) (flags : Nat) (words : List Word) (ok : MemoryOk
    s) : MemoryOk (landNear s r status flags words) := by
  simp [landNear, *]

@[simp] theorem queueSend_memoryOk (w : Issuer) (x : Send) (weight : Nat) (draw : Nat) (s : State) (ok : MemoryOk s) :
    MemoryOk (queueSend w x weight draw s) := by
  simp [queueSend, *]

@[simp] theorem State.startTask_memoryOk (s : State) (key : Nat) (job : Nat) (j : Job) (e : Word × Word) (x : Slot) (ok
    : MemoryOk s) : MemoryOk (State.startTask s key job j e x) := by
  simp [State.startTask, *]

@[simp] theorem State.badStart_memoryOk (s : State) (core : Nat) (job : Nat) (x : Slot) (ok : MemoryOk s) : MemoryOk
    (State.badStart s core job x) := by
  simp [State.badStart, *]

@[simp] theorem startDecision_memoryOk (s : State) (core hc : Nat) (c : Core) (l : List Slot) (h : MemoryOk s) :
    MemoryOk (startDecision s core hc c l) := by
  induction l generalizing s c with
  | nil => exact h
  | cons x t ih =>
    simp only [startDecision]
    (repeat' split) <;> simp_all (maxDischargeDepth := 20)

@[simp] theorem State.setArrWords_memoryOk (s : State) (core : Nat) (job : Nat) (l : List (Nat × Word)) (ok : MemoryOk
    s) : MemoryOk (State.setArrWords s core job l) := by
  simp [State.setArrWords, *]

@[simp] theorem State.newArrWord_memoryOk (s : State) (core : Nat) (job : Nat) (seq : Nat) (ok : MemoryOk s) : MemoryOk
    (State.newArrWord s core job seq) := by
  simp [State.newArrWord, *]

@[simp] theorem State.setArrWord_memoryOk (s : State) (core : Nat) (job : Nat) (seq : Nat) (w : Word) (ok : MemoryOk s)
    : MemoryOk (State.setArrWord s core job seq w) := by
  simp [State.setArrWord, *]

@[simp] theorem State.queueJob_memoryOk (s : State) (w : Issuer) (b : List Word) (v : Nat) (h : MemoryOk s) :
    MemoryOk (s.queueJob w b v).1 := by
  unfold State.queueJob
  simp_all (maxDischargeDepth := 20)

@[simp] theorem State.closeJob_memoryOk (s : State) (a : ArrayJob) (w : Word) (ok : MemoryOk s) : MemoryOk
    (State.closeJob s a w) := by
  simp [State.closeJob, *]

@[simp] theorem State.completeJob_memoryOk (s : State) (a : ArrayJob) (code : Nat) (w : Word) (time : Nat) (ok :
    MemoryOk s) : MemoryOk (State.completeJob s a code w time) := by
  simp [State.completeJob, *]

@[simp] theorem State.freeArray_memoryOk (s : State) (tile : Nat) (ok : MemoryOk s) : MemoryOk (State.freeArray s tile) := by
  simp [State.freeArray, *]

@[simp] theorem State.raiseArrJob_memoryOk (s : State) (a : ArrayJob) (c : Cause) (arg : Word) (ok : MemoryOk s) :
    MemoryOk (State.raiseArrJob s a c arg) := by
  simp [State.raiseArrJob, *]

@[simp] theorem State.setRun_memoryOk (s : State) (tile : Nat) (r : ArrayRun) (ok : MemoryOk s) : MemoryOk (State.setRun
    s tile r) := by
  simp [State.setRun, *]

@[simp] theorem State.eccArray_memoryOk (s : State) (tile : Nat) (r : ArrayRun) (addr : Nat) (ok : MemoryOk s) :
    MemoryOk (State.eccArray s tile r addr) := by
  simp [State.eccArray, *]

@[simp] theorem arrayStep_memoryOk (s : State) (tile : Nat) (r : ArrayRun) (ok : MemoryOk s) : MemoryOk (arrayStep s
    tile r) := by
  unfold arrayStep
  dsimp only
  (repeat' split) <;> simp_all (maxDischargeDepth := 20)

@[simp] theorem arrayLines_memoryOk (s : State) (tile : Nat) (r : ArrayRun) (ok : MemoryOk s) : MemoryOk (arrayLines s
    tile r) := by
  unfold arrayLines
  dsimp only
  (repeat' split) <;> simp_all (maxDischargeDepth := 20)

@[simp] theorem drainRow_memoryOk (s : State) (tile : Nat) (r : ArrayRun) (x : ArrayBlock) (ok : MemoryOk s) : MemoryOk
    (drainRow s tile r x) := by
  unfold drainRow
  dsimp only
  (repeat' split) <;> simp_all (maxDischargeDepth := 20)

@[simp] theorem drainLine_memoryOk (s : State) (tile : Nat) (r : ArrayRun) (addr : Nat) (bs : List Byte) (rest : List (Nat × List Byte))
    (ok : MemoryOk s) : MemoryOk (drainLine s tile r addr bs rest) := by
  unfold drainLine
  split
  · exact ok
  · rename_i e
    simp [State.takeBanks_memoryOk _ _ _ _ _ ok e]

@[simp] theorem State.rowHanded_memoryOk (s : State) (tile : Nat) (rest : List DrainRow) (ok : MemoryOk s) : MemoryOk
    (State.rowHanded s tile rest) := by
  simp [State.rowHanded, *]

@[simp] theorem State.abortRun_memoryOk (s : State) (tile : Nat) (r : ArrayRun) (ok : MemoryOk s) : MemoryOk
    (State.abortRun s tile r) := by
  unfold State.abortRun
  dsimp only
  (repeat' split) <;> simp_all (maxDischargeDepth := 20)

@[simp] theorem State.abortJob_memoryOk (s : State) (core : Nat) (job : Nat) (id : Word) (ok : MemoryOk s) : MemoryOk
    (State.abortJob s core job id) := by
  unfold State.abortJob
  dsimp only
  (repeat' split) <;> simp_all (maxDischargeDepth := 20)

@[simp] theorem queueNear_memoryOk (w : Issuer) (f : Nat) (b : List Word) (v : Nat) (s : State) (ok : MemoryOk s) :
    MemoryOk (queueNear w f b v s) := by
  unfold queueNear
  (repeat' split) <;> simp_all

@[simp] theorem State.nearAcquires_memoryOk (s : State) (a : Access) (sp : Space) (pa : Nat) (n : Nat) (ok : MemoryOk s)
    : MemoryOk (State.nearAcquires s a sp pa n) := by
  unfold State.nearAcquires
  (repeat' split) <;> simp_all

@[simp] theorem State.nearDone_memoryOk (s : State) (src : Endpoint) (a : Access) (status : Nat) (flags : Nat) (results
    : List Word) (ok : MemoryOk s) : MemoryOk (State.nearDone s src a status flags results) := by
  unfold State.nearDone
  (repeat' split) <;> simp_all (maxDischargeDepth := 20)

@[simp] theorem State.nearWrite_memoryOk (s : State) (a : Access) (sp : Space) (pa : Nat) (bs : List Byte) (ok :
    MemoryOk s) : MemoryOk (State.nearWrite s a sp pa bs) := by
  simp [State.nearWrite, *]

@[simp] theorem performOp_memoryOk (s : State) (src : Endpoint) (a : Access) (f : Nat) (b : List Word) (ok : MemoryOk s)
    : MemoryOk (performOp s src a f b) := by
  unfold performOp
  dsimp only
  (repeat' split) <;> simp_all (maxDischargeDepth := 20)

/-- What reaching a second address comes to has its memories in canonical form. -/
def Reached.MemoryOk : Reached → Prop
  | .there s _ _ => Safety.MemoryOk s
  | .stop s => Safety.MemoryOk s

theorem reachAt_memoryOk (s : State) (src : Endpoint) (j : Job) (a : Access) (va : Nat) (write : Bool) (ok : Safety.MemoryOk s) :
    (reachAt s src j a va write).MemoryOk := by
  unfold reachAt
  dsimp only
  split
  · simp [Reached.MemoryOk, ok]
  · cases h : s.look ((stationNo src).getD a.st) a.job j.ptroot va with
    | entry s1 e =>
      have ok1 := State.look_memoryOk _ _ _ _ _ _ _ ok h
      dsimp only
      split
      · simp [Reached.MemoryOk, ok1]
      · rename_i h2
        have ok2 := State.useEntry_memoryOk _ _ _ _ _ _ _ _ ok1 h2
        split <;> simp [Reached.MemoryOk, ok2]
    | busy addr => simp [Reached.MemoryOk, ok]
    | stored e addr bits => dsimp only; split <;> simp [Reached.MemoryOk, ok]
    | fails code => simp [Reached.MemoryOk, ok]

@[simp] theorem performEnq_memoryOk (s : State) (src : Endpoint) (j : Job) (a : Access) (b : List Word) (ok : Safety.MemoryOk s) :
    Safety.MemoryOk (performEnq s src j a b) := by
  have h (s t : State) (va : Nat) (ok : Safety.MemoryOk s) (e : reachAt s src j a va true = .stop t) : Safety.MemoryOk t := by
    have := reachAt_memoryOk s src j a va true ok; rw [e] at this; exact this
  have g (s t : State) (va : Nat) (sp : Space) (p : Nat) (ok : Safety.MemoryOk s) (e : reachAt s src j a va true = .there t sp p) :
      Safety.MemoryOk t := by
    have := reachAt_memoryOk s src j a va true ok; rw [e] at this; exact this
  unfold performEnq
  dsimp only
  split
  · simp [ok]
  · split
    · rename_i e; exact h _ _ _ ok e
    · rename_i e
      have ok1 := g _ _ _ _ _ ok e
      split
      · simp (maxDischargeDepth := 20) [ok1]
      · split
        · rename_i e2; exact h _ _ _ ok1 e2
        · rename_i e2
          have ok2 := g _ _ _ _ _ ok1 e2
          simp (maxDischargeDepth := 20) [ok2]

@[simp] theorem performHop_memoryOk (s : State) (src : Endpoint) (j : Job) (a : Access) (b : List Word) (ok : Safety.MemoryOk s) :
    Safety.MemoryOk (performHop s src j a b) := by
  have h (s : State) (va : Nat) (ok : Safety.MemoryOk s) := reachAt_memoryOk s src j a va false ok
  unfold performHop
  dsimp only
  split
  · rename_i e; have h1 := h s (a.va + fieldOf (wordAt b 5) 16 16) ok; rw [e] at h1; exact h1
  · rename_i s1 _ _ e
    have h1 := h s (a.va + fieldOf (wordAt b 5) 16 16) ok
    rw [e] at h1
    have ok1 : Safety.MemoryOk s1 := h1
    split
    · split
      · rename_i e2; have h2 := h s1 (a.va + fieldOf (wordAt b 5) 32 16) ok1; rw [e2] at h2; exact h2
      · rename_i s2 _ _ e2
        have h2 := h s1 (a.va + fieldOf (wordAt b 5) 32 16) ok1
        rw [e2] at h2
        have ok2 : Safety.MemoryOk s2 := h2
        simp [ok2]
    · split
      · rename_i e2; have h2 := h s1 (a.va + fieldOf (wordAt b 5) 0 16) ok1; rw [e2] at h2; exact h2
      · rename_i s2 _ _ e2
        have h2 := h s1 (a.va + fieldOf (wordAt b 5) 0 16) ok1
        rw [e2] at h2
        have ok2 : Safety.MemoryOk s2 := h2
        simp [ok2]

@[simp] theorem engineDo_memoryOk (s : State) (src : Endpoint) (j : Job) (a : Access) (ok : MemoryOk s) : MemoryOk
    (engineDo s src j a) := by
  unfold engineDo
  (repeat' split) <;> simp_all

@[simp] theorem acceptNear_memoryOk (s : State) (p : Packet) (a : Access) (hint : Nat) (ok : MemoryOk s) : MemoryOk
    (acceptNear s p a hint) := by
  unfold acceptNear
  (repeat' split) <;> simp_all

@[simp] theorem State.setChan_memoryOk (s : State) (core : Nat) (job : Nat) (ch : Nat) (c : Chan) (ok : MemoryOk s) :
    MemoryOk (State.setChan s core job ch c) := by
  simp [State.setChan, *]

@[simp] theorem queueCopy_memoryOk (w : Issuer) (walk : Bool) (b : List Word) (v : Nat) (s : State) (ok : MemoryOk s) :
    MemoryOk (queueCopy w walk b v s) := by
  unfold queueCopy
  (repeat' split) <;> simp_all (maxDischargeDepth := 20)

@[simp] theorem State.retireCopy_memoryOk (s : State) (r : Req) (code : Nat) (ok : MemoryOk s) : MemoryOk
    (State.retireCopy s r code) := by
  unfold State.retireCopy
  (repeat' split) <;> simp_all

@[simp] theorem State.finishCopy_memoryOk (s : State) (src : Endpoint) (r : Req) (code : Nat) (ok : MemoryOk s) :
    MemoryOk (State.finishCopy s src r code) := by
  simp [State.finishCopy, *]

@[simp] theorem State.eccCopy_memoryOk (s : State) (src : Endpoint) (r : Req) (arg : Nat) (ok : MemoryOk s) : MemoryOk
    (State.eccCopy s src r arg) := by
  simp [State.eccCopy, *]

@[simp] theorem servingSlice_memoryOk (s : State) (st job : Nat) (j : Job) (va : Nat) (ok : MemoryOk s) :
    MemoryOk (servingSlice s st job j va).1 := by
  unfold servingSlice
  dsimp only
  split
  · exact ok
  · cases h : s.look st job j.ptroot va with
    | entry t e => exact State.look_memoryOk _ _ _ _ _ _ _ ok h
    | busy addr => exact ok
    | stored e addr bits => exact ok
    | fails code => exact ok

@[simp] theorem chooseBte_memoryOk (s : State) (j : Job) (r : Req) (walk : Bool) (b : List Word) (ok : MemoryOk s) :
    MemoryOk (chooseBte s j r walk b).1 := by
  have pick (a : Option Nat) (own : Nat) : MemoryOk (match a with
      | none => ((s, own, 0) : State × Nat × Nat)
      | some va =>
        match servingSlice s own r.job j va with
        | (s1, .ok (some e)) => (s1, (stationNo e).getD own, 0)
        | (s1, .ok none) => (s1, own, 0)
        | (s1, .error code) => (s1, own, code)).1 := by
    cases a with
    | none => exact ok
    | some va =>
      have h := servingSlice_memoryOk s own r.job j va ok
      dsimp only
      split <;> (rename_i e; rw [e] at h; exact h)
  unfold chooseBte
  dsimp only
  split
  · exact pick _ _
  · split
    · exact pick _ _
    · exact ok

theorem readRecord_memoryOk (s : State) (r : Req) (ok : Safety.MemoryOk s) :
    match readRecord s r with
    | .ok (t, _) => Safety.MemoryOk t
    | .error t => Safety.MemoryOk t := by
  cases hk : r.kind with
  | copy walk b ch seq =>
    cases walk with
    | false => simp [readRecord, hk, ok]
    | true =>
      by_cases hb : b.length = 17
      · simp [readRecord, hk, hb, ok]
      · simp only [readRecord, hk, hb, if_false]
        cases firstBad s.eccLocal (locAddr r.job r.vcore (wordAt b 1)) 128 with
        | some i => simp [ok]
        | none => simp [ok]
  | _ => simp [readRecord, hk, ok]

@[simp] theorem acceptCopy_memoryOk (s : State) (j : Job) (r : Req) (bte : Nat) (code : Nat) (ok : MemoryOk s) :
    MemoryOk (acceptCopy s j r bte code) := by
  unfold acceptCopy
  dsimp only
  (repeat' split) <;> simp_all (maxDischargeDepth := 20)

@[simp] theorem State.updCmd_memoryOk (s : State) (core : Nat) (req : Nat) (f : CopyCmd → CopyCmd) (ok : MemoryOk s) :
    MemoryOk (State.updCmd s core req f) := by
  simp [State.updCmd, *]

@[simp] theorem offerCopy_memoryOk (s : State) (j : Job) (r : Req) (cmd : CopyCmd) (ok : Safety.MemoryOk s) :
    Safety.MemoryOk (offerCopy s j r cmd) := by
  unfold offerCopy
  have h := readRecord_memoryOk s r ok
  split
  · rename_i e; rw [e] at h; exact h
  · rename_i s1 r1 e
    rw [e] at h
    have ok1 : Safety.MemoryOk s1 := h
    have ok2 := chooseBte_memoryOk s1 j r1 (copyWords r1).1 (copyWords r1).2 ok1
    dsimp only
    split
    · simp [ok1]
    · simp [ok2]

@[simp] theorem takeOffer_memoryOk (s : State) (bte : Nat) (j : Job) (r : Req) (cmd : CopyCmd) (ok : MemoryOk s) :
    MemoryOk (takeOffer s bte j r cmd) := by
  unfold takeOffer
  (repeat' split) <;> simp_all

@[simp] theorem offerRefused_memoryOk (s : State) (r : Req) (ok : MemoryOk s) : MemoryOk (offerRefused s r) := by
  simp [offerRefused, *]

@[simp] theorem State.updTransfer_memoryOk (s : State) (req : Nat) (f : Transfer → Transfer) (ok : MemoryOk s) :
    MemoryOk (State.updTransfer s req f) := by
  simp [State.updTransfer, *]

@[simp] theorem State.holdTransfer_memoryOk (s : State) (req : Nat) (ok : MemoryOk s) : MemoryOk (State.holdTransfer s
    req) := by
  simp [State.holdTransfer, *]

@[simp] theorem State.sendPiece_memoryOk (s : State) (j : Job) (r : Req) (bte : Nat) (side : Side) (a : Nat) (n : Nat)
    (data : Option (List Byte)) (keep : Bool) (ok : MemoryOk s) : MemoryOk (State.sendPiece s j r bte side a n data
    keep) := by
  unfold State.sendPiece
  (repeat' split) <;> simp_all

@[simp] theorem stepOver_memoryOk (s : State) (bte : Nat) (r : Req) (t : Transfer) (x : Step) (count : Nat) (flags :
    Nat) (ok : MemoryOk s) : MemoryOk (stepOver s bte r t x count flags) := by
  unfold stepOver
  dsimp only
  (repeat' split) <;> simp_all (maxDischargeDepth := 20)

@[simp] theorem stepFails_memoryOk (s : State) (bte : Nat) (r : Req) (t : Transfer) (x : Step) (code : Nat) (va : Nat)
    (ok : MemoryOk s) : MemoryOk (stepFails s bte r t x code va) := by
  unfold stepFails
  (repeat' split) <;> simp_all

@[simp] theorem putStep_memoryOk (s : State) (j : Job) (bte : Nat) (r : Req) (t : Transfer) (y : Nat) (bs : List Byte)
    (ok : MemoryOk s) : MemoryOk (putStep s j bte r t y bs) := by
  unfold putStep
  dsimp only
  split <;> simp [ok]

@[simp] theorem copyStep_memoryOk (s : State) (j : Job) (bte : Nat) (r : Req) (t : Transfer) (ok : MemoryOk s) :
    MemoryOk (copyStep s j bte r t) := by
  unfold copyStep
  dsimp only
  (repeat' split) <;> simp_all (maxDischargeDepth := 20)

@[simp] theorem copyData_memoryOk (s : State) (r : Req) (bs : List Byte) (ok : MemoryOk s) : MemoryOk (copyData s r bs) := by
  unfold copyData
  (repeat' split) <;> simp_all

@[simp] theorem copyWritten_memoryOk (s : State) (r : Req) (n : Nat) (ok : MemoryOk s) : MemoryOk (copyWritten s r n) := by
  unfold copyWritten
  (repeat' split) <;> simp_all

@[simp] theorem landCopy_memoryOk (s : State) (r : Req) (a : Access) (ok : MemoryOk s) : MemoryOk (landCopy s r a) := by
  unfold landCopy
  (repeat' split) <;> simp_all

@[simp] theorem copyReturns_memoryOk (s : State) (r : Req) (bs : List Byte) (ok : MemoryOk s) : MemoryOk (copyReturns s
    r bs) := by
  unfold copyReturns
  (repeat' split) <;> simp_all

@[simp] theorem cancelCopy_memoryOk (s : State) (core : Nat) (job : Nat) (id : Nat) (ok : MemoryOk s) : MemoryOk
    (cancelCopy s core job id) := by
  unfold cancelCopy
  dsimp only
  (repeat' split) <;> simp_all (maxDischargeDepth := 20)

@[simp] theorem State.setXchg_memoryOk (s : State) (tile : Nat) (x : Option Exchange) (ok : MemoryOk s) : MemoryOk
    (State.setXchg s tile x) := by
  simp [State.setXchg, *]

@[simp] theorem State.finishXchg_memoryOk (s : State) (tile : Nat) (x : Exchange) (code : Nat) (ok : MemoryOk s) :
    MemoryOk (State.finishXchg s tile x code) := by
  simp (maxDischargeDepth := 20) [State.finishXchg, *]

@[simp] theorem State.raiseXchg_memoryOk (s : State) (tile : Nat) (x : Exchange) (c : Cause) (arg : Word) (ok : MemoryOk
    s) : MemoryOk (State.raiseXchg s tile x c arg) := by
  simp (maxDischargeDepth := 20) [State.raiseXchg, *]

@[simp] theorem writeRow_memoryOk (s : State) (x : Exchange) (q : Nat) (bs : List Byte) (rel : Option Rel) (ok :
    MemoryOk s) : MemoryOk (writeRow s x q bs rel) := by
  unfold writeRow
  simp_all

@[simp] theorem sendRow_memoryOk (s : State) (j : Job) (tile : Nat) (x : Exchange) (p : Nat) (ok : MemoryOk s) :
    MemoryOk (sendRow s j tile x p) := by
  unfold sendRow
  dsimp only
  (repeat' split) <;> simp_all (maxDischargeDepth := 20)

@[simp] theorem State.testXchg_memoryOk (s : State) (tile : Nat) (ok : MemoryOk s) : MemoryOk (State.testXchg s tile) := by
  unfold State.testXchg
  dsimp only
  (repeat' split) <;> simp_all (maxDischargeDepth := 20)

@[simp] theorem sendArrives_memoryOk (j : Job) (tile : Nat) (x : Exchange) (s : State) (ok : MemoryOk s) :
    MemoryOk (sendArrives j tile x s) := by
  unfold sendArrives
  refine foldl_memoryOk _ _ _ ok ?_
  intro s k h
  dsimp only
  split <;> simp [h]

@[simp] theorem activate_memoryOk (s : State) (tile : Nat) (x0 : Exchange) (rest : List Exchange) (j : Job) (ok :
    MemoryOk s) : MemoryOk (activate s tile x0 rest j) := by
  unfold activate
  dsimp only
  (repeat' split) <;> simp_all (maxDischargeDepth := 20)

@[simp] theorem State.settleOut_memoryOk (s : State) (o : OutMsg) (ok : MemoryOk s) : MemoryOk (State.settleOut s o) := by
  unfold State.settleOut
  (repeat' split) <;> simp_all (maxDischargeDepth := 20)

@[simp] theorem State.uncertainAt_memoryOk (s : State) (job : Nat) (ok : MemoryOk s) : MemoryOk (State.uncertainAt s
    job) := by
  unfold State.uncertainAt
  (repeat' split) <;> simp_all

@[simp] theorem State.recordLost_memoryOk (s : State) (job : Nat) (out : Nat) (ok : MemoryOk s) : MemoryOk
    (State.recordLost s job out) := by
  simp [State.recordLost, *]

@[simp] theorem State.headerLost_memoryOk (s : State) (p : Packet) (at_ : Endpoint) (ok : MemoryOk s) : MemoryOk
    (State.headerLost s p at_) := by
  unfold State.headerLost
  dsimp only
  (repeat' split) <;> simp_all (maxDischargeDepth := 20)

@[simp] theorem State.serveHead_memoryOk (s : State) (job : Nat) (j : Job) (d : Draw) (rest : List Draw) (ok : MemoryOk
    s) : MemoryOk (State.serveHead s job j d rest) := by
  unfold State.serveHead
  (repeat' split) <;> simp_all (maxDischargeDepth := 20)

@[simp] theorem State.serveDraw_memoryOk (s : State) (job : Nat) (ok : MemoryOk s) : MemoryOk (State.serveDraw s job) := by
  unfold State.serveDraw
  (repeat' split) <;> simp_all

@[simp] theorem State.testQuiescence_memoryOk (s : State) (job : Nat) (ok : MemoryOk s) : MemoryOk (s.testQuiescence job) := by
  unfold State.testQuiescence
  have rest : ∀ (s : State) (j : Job), MemoryOk s → MemoryOk (if j.armed then
          (s.setJob job { j with homew := 0, armed := false }).sendMsg (j.trapMsg job (s.jobKnown job)) (.unit j.die)
            (.ni (msgTile j (j.trapMsg job (s.jobKnown job)))) 0
        else s.completeLaunch job j) := by
    intro s j ok
    split <;> simp (maxDischargeDepth := 20) [ok]
  split
  · exact ok
  · split
    · exact ok
    · dsimp only
      split
      · exact rest _ _ ok
      · split
        · exact rest _ { (_ : Job) with saveReq := none } (State.setJob_memoryOk _ _ _ ok)
        · split
          · rename_i e
            exact State.saveContext_memoryOk _ _ _ _ _ _ ok e
          · exact rest _ { (_ : Job) with saveReq := none } (State.finishAt_memoryOk _ _ _ (State.setJob_memoryOk _ _ _ ok))

@[simp] theorem State.homeTest_memoryOk (s : State) (job : Nat) (ok : MemoryOk s) : MemoryOk (State.homeTest s job) := by
  simp (maxDischargeDepth := 20) [State.homeTest, *]

@[simp] theorem State.takePod_memoryOk (s : State) (p : Packet) (ok : MemoryOk s) : MemoryOk (State.takePod s p) := by
  unfold State.takePod
  (repeat' split) <;> simp_all

@[simp] theorem State.takeArm_memoryOk (s : State) (p : Packet) (ok : MemoryOk s) : MemoryOk (State.takeArm s p) := by
  unfold State.takeArm
  (repeat' split) <;> simp_all (maxDischargeDepth := 20)

@[simp] theorem State.takeDraw_memoryOk (s : State) (p : Packet) (ok : MemoryOk s) : MemoryOk (State.takeDraw s p) := by
  unfold State.takeDraw
  (repeat' split) <;> simp_all (maxDischargeDepth := 20)

end Sys2Proof.Machine
end

