-- ==== Sys2Proof/Laws/MemoryOk4.lean ====
section
/-! SUPPORT. Every operation on the state keeps the canonical form of the memories (4). -/

namespace Sys2Proof.Machine

open Sys2Proof.Safety

@[simp] theorem State.homeClk_memoryOk (s : State) (job : Nat) (ok : MemoryOk s) : MemoryOk (State.homeClk s job) := by
  unfold State.homeClk
  (repeat' split) <;> simp_all (maxDischargeDepth := 20)

@[simp] theorem State.redirect_memoryOk (s : State) (p : Packet) (tag : Nat) (dev : Nat) (out : Nat) (ok : MemoryOk s) :
    MemoryOk (State.redirect s p tag dev out) := by
  unfold State.redirect
  (repeat' split) <;> simp_all

@[simp] theorem State.creditHere_memoryOk (s : State) (out : Nat) (ok : MemoryOk s) : MemoryOk (State.creditHere s out) := by
  unfold State.creditHere
  (repeat' split) <;> simp_all

@[simp] theorem State.releaseCredits_memoryOk (s : State) (job : Nat) (ok : MemoryOk s) : MemoryOk (s.releaseCredits job) := by
  unfold State.releaseCredits
  dsimp only
  refine foldl_memoryOk _ _ _ ok ?_
  intro s p h
  split <;> simp [h]

@[simp] theorem State.endCensus_memoryOk (s : State) (job : Nat) (j : Job) (c : Census) (ok : MemoryOk s) : MemoryOk
    (State.endCensus s job j c) := by
  unfold State.endCensus
  dsimp only
  (repeat' split) <;> simp_all (maxDischargeDepth := 20)

@[simp] theorem State.censusTry_memoryOk (s : State) (job : Nat) (ok : MemoryOk s) : MemoryOk (State.censusTry s job) := by
  unfold State.censusTry
  (repeat' split) <;> simp_all

@[simp] theorem State.homeTurn_memoryOk (s : State) (job : Nat) (ok : MemoryOk s) : MemoryOk (State.homeTurn s job) := by
  simp [State.homeTurn, *]

@[simp] theorem State.homesTurn_memoryOk (s : State) (ok : MemoryOk s) : MemoryOk (State.homesTurn s) := by
  unfold State.homesTurn
  simp_all

@[simp] theorem State.takenIn_memoryOk (s : State) (o : OutMsg) (ok : MemoryOk s) : MemoryOk (State.takenIn s o) := by
  simp [State.takenIn, *]

@[simp] theorem State.deposit_memoryOk (s : State) (core : Nat) (v : Nat) (m : Msg) (ok : MemoryOk s) : MemoryOk
    (State.deposit s core v m) := by
  simp [State.deposit, *]

@[simp] theorem deliver_memoryOk (s : State) (p : Packet) (o : OutMsg) (j : Job) (tile : Nat) (ok : MemoryOk s) :
    MemoryOk (deliver s p o j tile) := by
  unfold deliver
  dsimp only
  (repeat' split) <;> simp_all (maxDischargeDepth := 20)

@[simp] theorem State.parkJob_memoryOk (s : State) (job : Nat) (j : Job) (ok : MemoryOk s) : MemoryOk (State.parkJob s
    job j) := by
  unfold State.parkJob
  (repeat' split) <;> simp_all

@[simp] theorem State.noticeRing_memoryOk (s : State) (job : Nat) (j : Job) (ok : MemoryOk s) : MemoryOk
    (State.noticeRing s job j) := by
  unfold State.noticeRing
  dsimp only
  (repeat' split) <;> simp_all (maxDischargeDepth := 20)

@[simp] theorem State.ringWrite_memoryOk (s : State) (job : Nat) (j : Job) (num : Nat) (m : Msg) (ok : MemoryOk s) :
    MemoryOk (State.ringWrite s job j num m) := by
  simp [State.ringWrite, *]

@[simp] theorem State.spill_memoryOk (s : State) (o : OutMsg) (ok : MemoryOk s) : MemoryOk (State.spill s o) := by
  unfold State.spill
  (repeat' split) <;> simp_all (maxDischargeDepth := 20)

@[simp] theorem State.refusedHere_memoryOk (s : State) (o : OutMsg) (ok : MemoryOk s) : MemoryOk (State.refusedHere s o) := by
  unfold State.refusedHere
  dsimp only
  (repeat' split) <;> simp_all (maxDischargeDepth := 20)

@[simp] theorem State.resend_memoryOk (s : State) (o : OutMsg) (j : Job) (ok : MemoryOk s) : MemoryOk (State.resend s o
    j) := by
  simp [State.resend, *]

@[simp] theorem State.badRing_memoryOk (s : State) (job : Nat) (j : Job) (m : Msg) (ok : MemoryOk s) : MemoryOk
    (State.badRing s job j m) := by
  unfold State.badRing
  (repeat' split) <;> simp_all

@[simp] theorem State.closeHold_memoryOk (s : State) (task : Nat) (ok : MemoryOk s) : MemoryOk (State.closeHold s task) := by
  unfold State.closeHold
  (repeat' split) <;> simp_all

@[simp] theorem State.updNdef_memoryOk (s : State) (job : Nat) (nid : Nat) (f : NDef → NDef) (ok : MemoryOk s) :
    MemoryOk (State.updNdef s job nid f) := by
  simp [State.updNdef, *]

@[simp] theorem State.updRouter_memoryOk (s : State) (p : Nat) (y : Nat) (f : Router → Router) (ok : MemoryOk s) :
    MemoryOk (State.updRouter s p y f) := by
  simp [State.updRouter, *]

@[simp] theorem State.undefine_memoryOk (s : State) (job : Nat) (nid : Nat) (ok : MemoryOk s) : MemoryOk (State.undefine
    s job nid) := by
  simp [State.undefine, *]

@[simp] theorem State.freeNdef_memoryOk (s : State) (src : Endpoint) (job nid : Nat) (l : List Nat) (done : Bool) (h : MemoryOk s) :
    MemoryOk (s.freeNdef src job nid l done) := by
  induction l generalizing s done with
  | nil => exact h
  | cons r t ih =>
    simp only [State.freeNdef]
    (repeat' split) <;> exact ih _ _ (by simp (maxDischargeDepth := 20) [h])

@[simp] theorem State.dropPart_memoryOk (s : State) (src : Endpoint) (job : Nat) (p : Partial) (ok : MemoryOk s) :
    MemoryOk (State.dropPart s src job p) := by
  simp [State.dropPart, *]

@[simp] theorem State.tookPart_memoryOk (s : State) (job : Nat) (acc : Nat) (post : Nat) (p : Partial) (ok : MemoryOk s)
    : MemoryOk (State.tookPart s job acc post p) := by
  simp [State.tookPart, *]

@[simp] theorem State.ownPart_memoryOk (s : State) (src : Endpoint) (job : Nat) (nid : Nat) (p : Partial) (ok : MemoryOk
    s) : MemoryOk (State.ownPart s src job nid p) := by
  unfold State.ownPart
  (repeat' split) <;> simp_all

@[simp] theorem queueNred_memoryOk (w : Issuer) (j : Job) (b : List Word) (v : Nat) (s : State) (ok : MemoryOk s) :
    MemoryOk (queueNred w j b v s) := by
  unfold queueNred
  dsimp only
  (repeat' split) <;> simp_all (maxDischargeDepth := 20)

@[simp] theorem State.updRdef_memoryOk (s : State) (q : Nat × Nat) (job : Nat) (nid : Nat) (f : RDef → RDef) (ok :
    MemoryOk s) : MemoryOk (State.updRdef s q job nid f) := by
  simp [State.updRdef, *]

@[simp] theorem State.passedBy_memoryOk (s : State) (q : Nat × Nat) (n : Nat) (ok : MemoryOk s) : MemoryOk
    (State.passedBy s q n) := by
  simp [State.passedBy, *]

@[simp] theorem State.passed_memoryOk (s : State) (q : Nat × Nat) (ok : MemoryOk s) : MemoryOk (State.passed s q) := by
  simp [State.passed, *]

@[simp] theorem State.wakeAt_memoryOk (s : State) (q : Nat × Nat) (t : Nat) (ok : MemoryOk s) : MemoryOk (State.wakeAt s
    q t) := by
  simp [State.wakeAt, *]

@[simp] theorem State.reducePkt_memoryOk (s : State) (job : Nat) (dst : Endpoint) (pos : Pos) (link : Nat) (flits : Nat)
    (b : Body) (ahead : List (Nat × Nat)) (ok : MemoryOk s) : MemoryOk (State.reducePkt s job dst pos link flits b
    ahead) := by
  unfold State.reducePkt
  (repeat' split) <;> simp_all

@[simp] theorem State.sendNotice_memoryOk (s : State) (j : Job) (job : Nat) (q : Nat × Nat) (d : RDef) (ok : MemoryOk s)
    : MemoryOk (State.sendNotice s j job q d) := by
  simp [State.sendNotice, *]

@[simp] theorem State.joinRound_memoryOk (s : State) (j : Job) (job : Nat) (q : Nat × Nat) (d : RDef) (i : Nat) (p :
    Partial) (ok : MemoryOk s) : MemoryOk (State.joinRound s j job q d i p) := by
  unfold State.joinRound
  (repeat' split) <;> simp_all

@[simp] theorem State.forwardPart_memoryOk (s : State) (job : Nat) (j : Job) (d : RDef) (q : Nat × Nat) (x : Partial)
    (ok : MemoryOk s) : MemoryOk (State.forwardPart s job j d q x) := by
  unfold State.forwardPart
  dsimp only
  (repeat' split) <;> simp_all (maxDischargeDepth := 20)

@[simp] theorem writeResult_memoryOk (s : State) (j : Job) (job : Nat) (b : List Word) (x : Partial) (ok : MemoryOk s) :
    MemoryOk (writeResult s j job b x).1 := by
  unfold writeResult
  split
  · exact ok
  · split <;> simp [ok]

@[simp] theorem State.renumber_memoryOk (s : State) (p : Packet) (moved : Packet) (ok : MemoryOk s) : MemoryOk
    (State.renumber s p moved) := by
  simp [State.renumber, *]

@[simp] theorem State.injectWakes_memoryOk (s : State) (src : Endpoint) (here : Nat × Nat) (next : Nat × Nat) (ok :
    MemoryOk s) : MemoryOk (State.injectWakes s src here next) := by
  unfold State.injectWakes
  (repeat' split) <;> simp_all

@[simp] theorem State.inject_memoryOk (s : State) (p : Packet) (dst : Endpoint) (b : Body) (ok : MemoryOk s) : MemoryOk
    (State.inject s p dst b) := by
  simp [State.inject, *]

@[simp] theorem State.injectPart_memoryOk (s : State) (p : Packet) (job : Nat) (nid : Nat) (ok : MemoryOk s) : MemoryOk
    (State.injectPart s p job nid) := by
  simp [State.injectPart, *]

@[simp] theorem State.injectFar_memoryOk (s : State) (p : Packet) (f : FabPkt) (ok : MemoryOk s) : MemoryOk
    (State.injectFar s p f) := by
  unfold State.injectFar
  (repeat' split) <;> simp_all (maxDischargeDepth := 20)

theorem State.leaveSource_memoryOk (s t : State) (p : Packet) (ok : MemoryOk s) (e : s.leaveSource p = some t) : MemoryOk t := by
  unfold State.leaveSource at e
  dsimp only at e
  have out : MemoryOk (match farPacket s p.job p.body with
    | some f => s.injectFar p f
    | none => s.inject p p.dst p.body) := by split <;> simp [ok]
  split at e
  · split at e
    · cases e; simp [ok]
    · split at e
      · cases e; split <;> simp (maxDischargeDepth := 20) [ok]
      · cases e; exact out
  · split at e
    · split at e
      · simp only [Option.map_eq_some_iff] at e
        obtain ⟨s1, h1, rfl⟩ := e
        have ok1 := State.niPort_memoryOk _ _ _ _ _ _ _ ok h1
        split
        · simp [ok1]
        · rename_i e2
          simp [State.fillPiece_memoryOk _ _ _ _ ok1 e2]
      · cases e; exact out
    · cases e; exact out
  · cases e; simp [ok]
  · cases e; exact out

@[simp] theorem State.switch_memoryOk (s : State) (p : Packet) (at_ : Nat × Nat) (ok : MemoryOk s) : MemoryOk
    (State.switch s p at_) := by
  unfold State.switch
  (repeat' split) <;> simp_all (maxDischargeDepth := 20)

@[simp] theorem State.leaveDevice_memoryOk (s : State) (p : Packet) (n : Nat) (f : FabPkt) (ok : MemoryOk s) : MemoryOk
    (State.leaveDevice s p n f) := by
  unfold State.leaveDevice
  (repeat' split) <;> simp_all

@[simp] theorem State.setCounter_memoryOk (s : State) (tile : Nat) (c : Nat) (x : Counter) (ok : MemoryOk s) : MemoryOk
    (State.setCounter s tile c x) := by
  simp [State.setCounter, *]

@[simp] theorem State.dropEntries_memoryOk (s : State) (tile : Nat) (job : Nat) (c : Nat) (ok : MemoryOk s) : MemoryOk
    (State.dropEntries s tile job c) := by
  unfold State.dropEntries
  simp_all

@[simp] theorem localAdd_memoryOk (w : Issuer) (c : Nat) (v : Nat) (s : State) (ok : MemoryOk s) : MemoryOk (localAdd w
    c v s) := by
  simp [localAdd, *]

@[simp] theorem remoteAdd_memoryOk (w : Issuer) (j : Job) (c : Nat) (v : Nat) (req : Nat) (s : State) (ok : MemoryOk s)
    : MemoryOk (remoteAdd w j c v req s) := by
  simp [remoteAdd, *]

@[simp] theorem State.raiseCounter_memoryOk (s : State) (tile : Nat) (job : Nat) (c : Nat) (amount : Nat) (know : Know)
    (rel : Option Rel) (ok : MemoryOk s) : MemoryOk (State.raiseCounter s tile job c amount know rel) := by
  unfold State.raiseCounter
  dsimp only
  (repeat' split) <;> simp_all (maxDischargeDepth := 20)

@[simp] theorem State.applyCancel_memoryOk (s : State) (tile : Nat) (r : Rise) (k : Cancel) (ok : MemoryOk s) : MemoryOk
    (State.applyCancel s tile r k) := by
  unfold State.applyCancel
  dsimp only
  (repeat' split) <;> simp_all (maxDischargeDepth := 20)

@[simp] theorem State.endAdd_memoryOk (s : State) (src : Endpoint) (acc : Nat) (ok : MemoryOk s) : MemoryOk
    (State.endAdd s src acc) := by
  unfold State.endAdd
  (repeat' split) <;> simp_all

@[simp] theorem State.applyRise_memoryOk (s : State) (tile : Nat) (r : Rise) (ok : MemoryOk s) : MemoryOk
    (State.applyRise s tile r) := by
  unfold State.applyRise
  (repeat' split) <;> simp_all

@[simp] theorem State.applyRises_memoryOk (s : State) (tile : Nat) (ok : MemoryOk s) : MemoryOk (State.applyRises s
    tile) := by
  unfold State.applyRises
  simp_all

@[simp] theorem fireAdd_memoryOk (w : Issuer) (j : Job) (b : List Word) (v : Nat) (s : State) (ok : MemoryOk s) :
    MemoryOk (fireAdd w j b v s) := by
  unfold fireAdd
  dsimp only
  (repeat' split) <;> simp_all (maxDischargeDepth := 20)

@[simp] theorem fire_memoryOk (s : State) (tile : Nat) (j : Job) (p : Posted) (ok : MemoryOk s) : MemoryOk (fire s tile
    j p) := by
  unfold fire
  (repeat' split) <;> simp_all

@[simp] theorem sysWrite_memoryOk (s : State) (j : Job) (reg idx : Nat) (v : Word) (ok : MemoryOk s) :
    MemoryOk (sysWrite s j reg idx v) := by
  unfold sysWrite
  dsimp only
  repeat' split
  all_goals exact ok

@[simp] theorem unitRequest_memoryOk (kind : ReqKind) (v : Nat) (cm : Cmsg) (s : State) (ok : MemoryOk s) : MemoryOk
    (unitRequest kind v cm s) := by
  unfold unitRequest
  dsimp only
  (repeat' split) <;> simp_all (maxDischargeDepth := 20)

@[simp] theorem State.haltWith_memoryOk (s : State) (code : Nat) (ok : MemoryOk s) : MemoryOk (State.haltWith s code) := by
  simp [State.haltWith, *]

/-- A reading that the SQE has to serve first leaves the memories in canonical form. -/
def HeldOk {α : Type} (e : Except Held α) : Prop := ∀ t, e = .error (.serve t) → MemoryOk t

theorem heldOk_ok {α : Type} (a : α) : HeldOk (.ok a : Except Held α) := fun _ e => by cases e

theorem heldOk_refuse {α : Type} (l : List Nat) : HeldOk (.error (.refuse l) : Except Held α) := fun _ e => by cases e

theorem heldOk_bind {α β : Type} (x : Except Held α) (f : α → Except Held β) (hx : HeldOk x) (hf : ∀ a, HeldOk (f a)) :
    HeldOk (x >>= f) := by
  cases x with
  | error h => intro t e; cases e; exact hx t rfl
  | ok a => exact hf a

theorem readTable_heldOk (s : State) (know : Know) (pt va n : Nat) (ok : MemoryOk s) : HeldOk (s.readTable know pt va n) := by
  intro t e
  unfold State.readTable at e
  split at e
  · cases e
  · split at e
    · simp only [Except.error.injEq, Held.serve.injEq] at e
      subst e
      simp [ok]
    · cases e

theorem readRecs_heldOk (s : State) (know : Know) (pt : Nat) (l : List (Word × Word)) (ok : MemoryOk s) :
    HeldOk (readRecs s know pt l) := by
  induction l with
  | nil => exact heldOk_ok _
  | cons e t ih =>
    obtain ⟨a, b⟩ := e
    exact heldOk_bind _ _ (readTable_heldOk _ _ _ _ _ ok) (fun _ => heldOk_bind _ _ ih (fun _ => heldOk_ok _))

theorem readImage_heldOk (s : State) (know : Know) (words : List Word) (ok : MemoryOk s) : HeldOk (readImage s know words) := by
  have h := fun a n => readTable_heldOk s know (wordAt words 1) a n ok
  unfold readImage
  refine heldOk_bind _ _ (h _ _) (fun _ => ?_)
  dsimp only
  split
  · exact heldOk_refuse _
  · split
    · exact heldOk_refuse _
    · refine heldOk_bind _ _ (h _ _) (fun _ => ?_)
      split
      · exact heldOk_refuse _
      · exact heldOk_bind _ _ (h _ _) (fun _ => heldOk_bind _ _ (h _ _) (fun _ => heldOk_bind _ _ (readRecs_heldOk _ _ _ _ ok)
          (fun _ => heldOk_ok _)))

@[simp] theorem State.enter_memoryOk (s : State) (job : Nat) (j : Job) (formats : List (List Word)) (digest : List Byte)
    (ok : MemoryOk s) : MemoryOk (State.enter s job j formats digest) := by
  unfold State.enter
  simp_all (maxDischargeDepth := 20)

@[simp] theorem State.advanceQueue_memoryOk (s : State) (source : Nat) (ok : MemoryOk s) : MemoryOk (State.advanceQueue
    s source) := by
  unfold State.advanceQueue
  (repeat' split) <;> simp_all

@[simp] theorem State.refuseRecord_memoryOk (s : State) (l : Launching) (codes : List Nat) (ok : MemoryOk s) : MemoryOk
    (State.refuseRecord s l codes) := by
  simp [State.refuseRecord, *]

@[simp] theorem State.servedQueue_memoryOk (s : State) (source : Nat) (prio : Nat) (ok : MemoryOk s) : MemoryOk
    (State.servedQueue s source prio) := by
  simp [State.servedQueue, *]

@[simp] theorem State.reserveFirst_memoryOk (s : State) (c : Chain) (ok : MemoryOk s) : MemoryOk (State.reserveFirst s
    c) := by
  unfold State.reserveFirst
  (repeat' split) <;> simp_all

@[simp] theorem State.runChains_memoryOk (s : State) (l : List Chain) (ok : MemoryOk s) : MemoryOk (s.runChains l) := by
  cases l with
  | nil => simp [State.runChains, ok]
  | cons c t => simp [State.runChains, ok]

@[simp] theorem State.create_memoryOk (s : State) (l : Launching) (t : Tables) (job : Nat) (place : List Nat) (ok :
    MemoryOk s) : MemoryOk (State.create s l t job place) := by
  simp [State.create, *]

@[simp] theorem State.zeroLaunch_memoryOk (s : State) (l : Launching) (ok : MemoryOk s) : MemoryOk (State.zeroLaunch s
    l) := by
  simp (maxDischargeDepth := 20) [State.zeroLaunch, *]

@[simp] theorem State.loadChunk_memoryOk (s : State) (job : Nat) (vt : Nat) (c : ChainChunk) (ok : MemoryOk s) :
    MemoryOk (State.loadChunk s job vt c) := by
  unfold State.loadChunk
  (repeat' split) <;> simp_all

@[simp] theorem State.addBufs_memoryOk (s : State) (tile : Nat) (f : Nat → Nat) (ok : MemoryOk s) : MemoryOk
    (State.addBufs s tile f) := by
  simp [State.addBufs, *]

@[simp] theorem State.injectRoots_memoryOk (s : State) (job : Nat) (j : Job) (ok : MemoryOk s) : MemoryOk
    (State.injectRoots s job j) := by
  unfold State.injectRoots
  (repeat' split) <;> simp_all

@[simp] theorem State.takeLaunch_memoryOk (s : State) (p : Packet) (r : Req) (j : Job) (addr : Nat) (ok : MemoryOk s) :
    MemoryOk (s.takeLaunch p r j addr) := by
  unfold State.takeLaunch
  dsimp only
  split
  · simp [ok]
  · split
    · simp [ok]
    · rename_i t e
      exact readTable_heldOk _ _ _ _ _ ok t e
    · simp [ok]

@[simp] theorem State.markSave_memoryOk (s : State) (r : Req) (job : Nat) (area : Nat) (ok : MemoryOk s) : MemoryOk
    (State.markSave s r job area) := by
  unfold State.markSave
  (repeat' split) <;> simp_all

@[simp] theorem State.updSaved_memoryOk (s : State) (jtag : Nat) (f : Saved → Saved) (ok : MemoryOk s) : MemoryOk
    (State.updSaved s jtag f) := by
  simp [State.updSaved, *]

theorem readArea_heldOk (s : State) (pt va n : Nat) : HeldOk (s.readArea pt va n) := by
  unfold State.readArea
  split
  · exact heldOk_ok _
  · exact heldOk_refuse _

theorem readSaved_heldOk (s : State) (pt area : Nat) : HeldOk (readSaved s pt area) := by
  have h := fun a n => readArea_heldOk s pt a n
  unfold readSaved
  refine heldOk_bind _ _ (h _ _) (fun _ => ?_)
  dsimp only
  split
  · exact heldOk_refuse _
  · exact heldOk_bind _ _ (h _ _) (fun _ => heldOk_bind _ _ (h _ _) (fun _ => heldOk_bind _ _ (h _ _) (fun _ => heldOk_bind _ _ (h _ _)
      (fun _ => heldOk_bind _ _ (h _ _) (fun _ => heldOk_bind _ _ (h _ _) (fun _ => heldOk_bind _ _ (h _ _) (fun _ => heldOk_ok _)))))))

@[simp] theorem restoreCore_memoryOk (x : Area) (job : Nat) (j : Job) (s : State) (v : Nat) (ok : MemoryOk s) : MemoryOk
    (restoreCore x job j s v) := by
  simp [restoreCore, *]

@[simp] theorem restoreTile_memoryOk (x : Area) (job : Nat) (j : Job) (s : State) (vt : Nat) (ok : MemoryOk s) :
    MemoryOk (restoreTile x job j s vt) := by
  unfold restoreTile
  simp_all

@[simp] theorem restoreFuture_memoryOk (x : Area) (job : Nat) (s : State) (i : Nat) (ok : MemoryOk s) : MemoryOk
    (restoreFuture x job s i) := by
  simp [restoreFuture, *]

@[simp] theorem restoreDef_memoryOk (x : Area) (job : Nat) (j : Job) (s : State) (i : Nat) (ok : MemoryOk s) : MemoryOk
    (restoreDef x job j s i) := by
  unfold restoreDef
  simp_all (maxDischargeDepth := 20)

end Sys2Proof.Machine
end

