-- ==== Sys2Proof/Laws/MemoryOk5.lean ====
section
/-! SUPPORT. Every operation on the state keeps the canonical form of the memories (5). -/

namespace Sys2Proof.Machine

open Sys2Proof.Safety

@[simp] theorem State.restore_memoryOk (s : State) (x : Area) (img : Image) (job : Nat) (j : Job) (ok : MemoryOk s) :
    MemoryOk (State.restore s x img job j) := by
  unfold State.restore
  simp_all (maxDischargeDepth := 20)

@[simp] theorem State.endRestore_memoryOk (s : State) (l : Launching) (r : Req) (ok : MemoryOk s) : MemoryOk
    (State.endRestore s l r) := by
  unfold State.endRestore
  (repeat' split) <;> simp_all (maxDischargeDepth := 20)

@[simp] theorem State.startRestore_memoryOk (s : State) (p : Job) (req : Nat) (r : Req) (area : Nat) (ok : MemoryOk s) :
    MemoryOk (s.startRestore p req r area) := by
  unfold State.startRestore
  dsimp only
  split
  · rename_i e; exact readSaved_heldOk _ _ _ _ e
  · simp [ok]
  · split
    · rename_i e; exact readImage_heldOk _ _ _ ok _ e
    · simp [ok]
    · split
      · simp [ok]
      · split
        · split
          · exact ok
          · simp [ok]
        · exact ok

@[simp] theorem State.fabEnter_memoryOk (s : State) (port : Nat) (cls : Class) (dst : Endpoint) (job : Nat) (flits :
    Nat) (b : Body) (ok : MemoryOk s) : MemoryOk (State.fabEnter s port cls dst job flits b) := by
  simp [State.fabEnter, *]

@[simp] theorem State.farSendHere_memoryOk (s : State) (port : Nat) (p : FabPkt) (h : Word) (args : List Word) (srcV :
    Nat) (out : Nat) (ok : MemoryOk s) : MemoryOk (State.farSendHere s port p h args srcV out) := by
  unfold State.farSendHere
  dsimp only
  (repeat' split) <;> simp_all (maxDischargeDepth := 20)

@[simp] theorem State.farAccess_memoryOk (s : State) (port : Nat) (p : FabPkt) (a : Access) (ok : MemoryOk s) : MemoryOk
    (State.farAccess s port p a) := by
  unfold State.farAccess
  (repeat' split) <;> simp_all

@[simp] theorem State.retryReqHere_memoryOk (s : State) (req : Nat) (hint : Nat) (p : Nat) (hops : Nat) (tag : Bool) (ok
    : MemoryOk s) : MemoryOk (State.retryReqHere s req hint p hops tag) := by
  simp [State.retryReqHere, *]

@[simp] theorem State.retrySendHere_memoryOk (s : State) (out : Nat) (hint : Nat) (tag : Bool) (ok : MemoryOk s) :
    MemoryOk (State.retrySendHere s out hint tag) := by
  simp [State.retrySendHere, *]

@[simp] theorem State.failedHere_memoryOk (s : State) (isSend : Bool) (item : Nat) (sub : Nat) (arg : Word) (ok :
    MemoryOk s) : MemoryOk (State.failedHere s isSend item sub arg) := by
  unfold State.failedHere
  (repeat' split) <;> simp_all

@[simp] theorem State.answered_memoryOk (s : State) (b : FabBody) (ok : MemoryOk s) : MemoryOk (State.answered s b) := by
  unfold State.answered
  (repeat' split) <;> simp_all

@[simp] theorem State.answerHere_memoryOk (s : State) (port : Nat) (cls : Class) (p : FabPkt) (ok : MemoryOk s) :
    MemoryOk (State.answerHere s port cls p) := by
  unfold State.answerHere
  (repeat' split) <;> simp_all

@[simp] theorem State.creditArrives_memoryOk (s : State) (port : Nat) (p : FabPkt) (out : Nat) (ok : MemoryOk s) :
    MemoryOk (State.creditArrives s port p out) := by
  unfold State.creditArrives
  (repeat' split) <;> simp_all

theorem pieceBack_memoryOk (s t : State) (r : Req) (a : Access) (ok : MemoryOk s) (e : pieceBack s r a = some t) : MemoryOk t := by
  unfold pieceBack at e
  split at e
  · cases e; simp [ok]
  · exact landPiece_memoryOk _ _ _ _ ok e
  · exact landPiece_memoryOk _ _ _ _ ok e
  · cases e; simp [ok]
  · cases e; exact ok

theorem landed_memoryOk (s t : State) (b : Body) (ok : MemoryOk s) (e : landed s b = some t) : MemoryOk t := by
  unfold landed at e
  split at e
  · split at e
    · exact pieceBack_memoryOk _ _ _ _ ok e
    · cases e; exact ok
  · split at e <;> cases e <;> simp [ok]
  · cases e; simp [ok]
  · cases e

@[simp] theorem State.linkAcked_memoryOk (s : State) (port : Nat) (flits : Nat) (credits : List Nat) (ok : MemoryOk s) :
    MemoryOk (State.linkAcked s port flits credits) := by
  simp [State.linkAcked, *]

@[simp] theorem State.fabHere_memoryOk (s : State) (port : Nat) (p : FabPkt) (ok : MemoryOk s) : MemoryOk (State.fabHere
    s port p) := by
  unfold State.fabHere
  (repeat' split) <;> simp_all

@[simp] theorem State.fabOnward_memoryOk (s : State) (p : FabPkt) (came : Option (Nat × Nat)) (ok : MemoryOk s) :
    MemoryOk (State.fabOnward s p came) := by
  unfold State.fabOnward
  (repeat' split) <;> simp_all

@[simp] theorem State.fabArrive_memoryOk (s : State) (port : Nat) (pkt : FabPkt) (ok : MemoryOk s) : MemoryOk
    (State.fabArrive s port pkt) := by
  unfold State.fabArrive
  dsimp only
  (repeat' split) <;> simp_all (maxDischargeDepth := 20)

@[simp] theorem State.reroute_memoryOk (s : State) (f : FabOut → Bool) (ok : MemoryOk s) : MemoryOk (State.reroute s f) := by
  unfold State.reroute
  simp_all

@[simp] theorem State.tagNotice_memoryOk (s : State) (src : Endpoint) (job : Nat) (dev : Option Nat) (isSend : Bool)
    (item : Nat) (ok : MemoryOk s) : MemoryOk (State.tagNotice s src job dev isSend item) := by
  unfold State.tagNotice
  (repeat' split) <;> simp_all

@[simp] theorem addFence_memoryOk (k : FenceKind) (before : Nat) (after : Nat) (sc : Scope) (s : State) (ok : MemoryOk
    s) : MemoryOk (addFence k before after sc s) := by
  simp [addFence, *]

@[simp] theorem State.updPool_memoryOk (s : State) (p : Nat) (f : Pool → Pool) (ok : MemoryOk s) : MemoryOk
    (State.updPool s p f) := by
  simp [State.updPool, *]

@[simp] theorem State.freeFrame_memoryOk (s : State) (pool : Nat) (frame : Nat) (ok : MemoryOk s) : MemoryOk
    (State.freeFrame s pool frame) := by
  unfold State.freeFrame
  (repeat' split) <;> simp_all

@[simp] theorem takeRing_memoryOk (s : State) (no bits n : Nat) (h : MemoryOk s) : MemoryOk (takeRing s no bits n).1 := by
  induction n generalizing s with
  | zero => exact h
  | succ n ih =>
    simp only [takeRing]
    (repeat' split) <;> simp_all (maxDischargeDepth := 20)

@[simp] theorem State.takeFrame_memoryOk (s : State) (no bits : Nat) (h : MemoryOk s) : MemoryOk (s.takeFrame no bits).1 := by
  unfold State.takeFrame
  split <;> simp (maxDischargeDepth := 20) [h]

@[simp] theorem State.dropEntry_memoryOk (s : State) (pteAddr : Nat) (ok : MemoryOk s) : MemoryOk (State.dropEntry s
    pteAddr) := by
  simp [State.dropEntry, *]

@[simp] theorem sweep_memoryOk (s : State) (no n : Nat) (h : MemoryOk s) : MemoryOk (sweep s no n).1 := by
  induction n generalizing s with
  | zero => exact h
  | succ n ih =>
    simp only [sweep]
    (repeat' split) <;> simp_all (maxDischargeDepth := 20)

@[simp] theorem State.setBusy_memoryOk (s : State) (pteAddr : Nat) (e : Nat) (ok : MemoryOk s) : MemoryOk (State.setBusy
    s pteAddr e) := by
  simp [State.setBusy, *]

@[simp] theorem State.updRecord_memoryOk (s : State) (port : Nat) (pte : Nat) (f : Service → Service) (ok : MemoryOk s)
    : MemoryOk (State.updRecord s port pte f) := by
  simp [State.updRecord, *]

@[simp] theorem State.dropRecord_memoryOk (s : State) (port : Nat) (pte : Nat) (ok : MemoryOk s) : MemoryOk
    (State.dropRecord s port pte) := by
  simp [State.dropRecord, *]

@[simp] theorem State.giveFrame_memoryOk (s : State) (port : Nat) (pte : Nat) (frame : Nat) (ok : MemoryOk s) : MemoryOk
    (State.giveFrame s port pte frame) := by
  simp [State.giveFrame, *]

@[simp] theorem State.serve_memoryOk (s0 : State) (port : Nat) (r : Service) (ok0 : MemoryOk s0) : MemoryOk (s0.serve port r) := by
  unfold State.serve
  have ok : MemoryOk (s0.bringUp port) := by simp [ok0]
  generalize s0.bringUp port = s at ok
  dsimp only
  split
  · simp [ok]
  · split
    · rename_i s1 f e
      have : MemoryOk s1 := by have := State.takeFrame_memoryOk s r.pool r.bits ok; rw [e] at this; exact this
      simp [this]
    · rename_i s1 e
      have ok1 : MemoryOk s1 := by have := State.takeFrame_memoryOk s r.pool r.bits ok; rw [e] at this; exact this
      split
      · rename_i s2 c f e2
        have : MemoryOk s2 := by have := sweep_memoryOk s1 r.pool (sweepRounds (s1.pool r.pool)) ok1; rw [e2] at this; exact this
        simp (maxDischargeDepth := 20) [this]
      · rename_i s2 e2
        have : MemoryOk s2 := by have := sweep_memoryOk s1 r.pool (sweepRounds (s1.pool r.pool)) ok1; rw [e2] at this; exact this
        simp [this]

@[simp] theorem State.fillFailed_memoryOk (s : State) (port : Nat) (r : Service) (frame : Nat) (ok : MemoryOk s) :
    MemoryOk (State.fillFailed s port r frame) := by
  simp (maxDischargeDepth := 20) [State.fillFailed, *]

@[simp] theorem State.fillDone_memoryOk (s : State) (port : Nat) (r : Service) (frame : Nat) (ok : MemoryOk s) :
    MemoryOk (State.fillDone s port r frame) := by
  unfold State.fillDone
  (repeat' split) <;> simp_all (maxDischargeDepth := 20)

@[simp] theorem State.serveAgain_memoryOk (s : State) (m : Move) (ok : MemoryOk s) : MemoryOk (State.serveAgain s m) := by
  unfold State.serveAgain
  (repeat' split) <;> simp_all

@[simp] theorem State.dropMove_memoryOk (s : State) (m : Move) (ok : MemoryOk s) : MemoryOk (State.dropMove s m) := by
  simp [State.dropMove, *]

@[simp] theorem State.writebackFailed_memoryOk (s : State) (m : Move) (ok : MemoryOk s) : MemoryOk
    (State.writebackFailed s m) := by
  unfold State.writebackFailed
  dsimp only
  (repeat' split) <;> simp_all (maxDischargeDepth := 20)

@[simp] theorem State.evicted_memoryOk (s : State) (m : Move) (ok : MemoryOk s) : MemoryOk (State.evicted s m) := by
  unfold State.evicted
  dsimp only
  (repeat' split) <;> simp_all (maxDischargeDepth := 20)

@[simp] theorem startMigration_memoryOk (s : State) (d pteAddr e bits : Nat) (ok : MemoryOk s) :
    MemoryOk (startMigration s d pteAddr e bits) := by
  unfold startMigration
  dsimp only
  split
  · rename_i s1 f h
    have : MemoryOk s1 := by
      have := State.takeFrame_memoryOk s (poolNo (roomierStack s d bits) bits) bits ok; rw [h] at this; exact this
    simp [this]
  · rename_i s1 h
    have := State.takeFrame_memoryOk s (poolNo (roomierStack s d bits) bits) bits ok
    rw [h] at this; exact this

@[simp] theorem reviewPages_memoryOk (s : State) (die d root va n : Nat) (h : MemoryOk s) :
    MemoryOk (reviewPages s die d root va n) := by
  induction n generalizing s va with
  | zero => exact h
  | succ n ih =>
    simp only [reviewPages]
    refine ih _ _ ?_
    (repeat' split) <;> simp_all (maxDischargeDepth := 20)

@[simp] theorem State.relocate_memoryOk (s : State) (src dst bits : Nat) (ok : MemoryOk s) : MemoryOk (s.relocate src dst bits) := by
  obtain ⟨h1, h2, h3, h4, h5, h6⟩ := ok
  exact ⟨h1, h2, h3, Memory.wf_write _ _ _ (Memory.wf_clear _ _ _ h4), h5, h6⟩

@[simp] theorem State.migrated_memoryOk (s : State) (m : Move) (f : Nat) (ok : MemoryOk s) : MemoryOk (State.migrated s
    m f) := by
  unfold State.migrated
  dsimp only
  (repeat' split) <;> simp_all (maxDischargeDepth := 20)

@[simp] theorem hintPage_memoryOk (s : State) (root : Nat) (va : Nat) (keep : Bool) (ok : MemoryOk s) : MemoryOk
    (hintPage s root va keep) := by
  unfold hintPage
  (repeat' split) <;> simp_all

@[simp] theorem hintRange_memoryOk (s : State) (root va len : Nat) (keep : Bool) (n : Nat) (h : MemoryOk s) :
    MemoryOk (hintRange s root va len keep n) := by
  induction n generalizing s va len with
  | zero => exact h
  | succ n ih =>
    simp only [hintRange]
    split
    · exact h
    · exact ih _ _ _ (by simp (maxDischargeDepth := 20) [h])

@[simp] theorem State.grant_memoryOk (s : State) (die : Nat) (duties : List Nat) (ok : MemoryOk s) : MemoryOk
    (State.grant s die duties) := by
  unfold State.grant
  simp_all

@[simp] theorem State.restart_memoryOk (s : State) (ok : MemoryOk s) : MemoryOk s.restart :=
  ⟨rfl, rfl, rfl, ok.2.2.2.1, ok.2.2.2.2.1, ok.2.2.2.2.2⟩

@[simp] theorem State.hostWrite_memoryOk (s : State) (a : Nat) (bs : List Byte) (ok : MemoryOk s) : MemoryOk
    (State.hostWrite s a bs) := by
  simp [State.hostWrite, *]

@[simp] theorem State.melbexEnd_memoryOk (s : State) (cmd : Nat) (err : Nat) (out : List Byte) (ok : MemoryOk s) :
    MemoryOk (State.melbexEnd s cmd err out) := by
  simp [State.melbexEnd, *]

@[simp] theorem State.writeQueue_memoryOk (s : State) (q : Nat) (reg : Nat) (v : Nat) (ok : MemoryOk s) : MemoryOk
    (State.writeQueue s q reg v) := by
  unfold State.writeQueue
  (repeat' split) <;> simp_all

@[simp] theorem State.writePoolReg_memoryOk (s : State) (p : Nat) (reg : Nat) (v : Nat) (ok : MemoryOk s) : MemoryOk
    (State.writePoolReg s p reg v) := by
  unfold State.writePoolReg
  (repeat' split) <;> simp_all

@[simp] theorem State.writeBar0_memoryOk (s : State) (off v : Nat) (ok : MemoryOk s) : MemoryOk (s.writeBar0 off v) := by
  have ite (c : Prop) [Decidable c] (a b : State) (ha : MemoryOk a) (hb : MemoryOk b) : MemoryOk (if c then a else b) := by
    split <;> assumption
  have h1 := fun p r => State.writePoolReg_memoryOk s p r v ok
  have h2 := fun q r => State.writeQueue_memoryOk s q r v ok
  unfold State.writeBar0
  apply ite
  · simp [ok]
  · apply ite
    · exact h1 _ _
    · apply ite
      · simp [ok]
      · apply ite
        · exact h2 _ _
        · apply ite
          · simp [ok]
          · apply ite
            · apply ite <;> simp [ok]
            · apply ite
              · simp [ok]
              · apply ite
                · simp [ok]
                · apply ite <;> simp [ok]

@[simp] theorem State.writeBar4_memoryOk (s : State) (off : Nat) (v : Nat) (ok : MemoryOk s) : MemoryOk (State.writeBar4
    s off v) := by
  unfold State.writeBar4
  dsimp only
  (repeat' split) <;> simp_all (maxDischargeDepth := 20)

@[simp] theorem State.badRegister_memoryOk (s : State) (ctx : Nat) (code : Nat) (ok : MemoryOk s) : MemoryOk
    (State.badRegister s ctx code) := by
  simp [State.badRegister, *]

@[simp] theorem State.takeSlot_memoryOk (s : State) (core : Nat) (slot : Nat) (ok : MemoryOk s) : MemoryOk
    (State.takeSlot s core slot) := by
  simp [State.takeSlot, *]

@[simp] theorem State.slotHeader_memoryOk (s : State) (core : Nat) (slot : Nat) (ok : MemoryOk s) : MemoryOk
    (State.slotHeader s core slot) := by
  unfold State.slotHeader
  (repeat' split) <;> simp_all (maxDischargeDepth := 20)

@[simp] theorem State.slotArgs_memoryOk (s : State) (core : Nat) (slot : Nat) (ok : MemoryOk s) : MemoryOk
    (State.slotArgs s core slot) := by
  unfold State.slotArgs
  (repeat' split) <;> simp_all (maxDischargeDepth := 20)

@[simp] theorem State.outArgsBad_memoryOk (s : State) (out : Nat) (ok : MemoryOk s) : MemoryOk (State.outArgsBad s out) := by
  simp [State.outArgsBad, *]

@[simp] theorem State.ringBad_memoryOk (s : State) (job : Nat) (n : Nat) (ecc : Nat) (ok : MemoryOk s) : MemoryOk
    (State.ringBad s job n ecc) := by
  simp [State.ringBad, *]

@[simp] theorem State.packetArgsBad_memoryOk (s : State) (pkt : Nat) (ok : MemoryOk s) : MemoryOk (State.packetArgsBad s
    pkt) := by
  unfold State.packetArgsBad
  (repeat' split) <;> simp_all

@[simp] theorem State.strike_memoryOk (s : State) (e : SoftError) (ok : MemoryOk s) : MemoryOk (State.strike s e) := by
  unfold State.strike
  (repeat' split) <;> simp_all

@[simp] theorem putWrites_memoryOk (o : Op) (f : Nat → Nat) (s : State) (l : List VWrite) (h : MemoryOk s) :
    MemoryOk (putWrites o f s l) := by
  induction l generalizing s with
  | nil => exact h
  | cons w t ih =>
    simp only [putWrites]
    exact ih _ (by simp (maxDischargeDepth := 20) [h])

@[simp] theorem putLocal_memoryOk (s : State) (o : Op) (ws : List VWrite) (ok : MemoryOk s) : MemoryOk (putLocal s o ws) := by
  simp [putLocal, *]

@[simp] theorem State.recompute_memoryOk (s : State) (a : Op) (snap : List (Nat × VReg)) (ok : MemoryOk s) : MemoryOk
    (State.recompute s a snap) := by
  unfold State.recompute
  dsimp only
  (repeat' split) <;> simp_all (maxDischargeDepth := 20)

@[simp] theorem rereadOp_memoryOk (s : State) (outs : List (Target × Nat)) (a : Op) (ok : MemoryOk s) : MemoryOk
    (rereadOp s outs a) := by
  unfold rereadOp
  dsimp only
  (repeat' split) <;> simp_all (maxDischargeDepth := 20)

@[simp] theorem rereadAll_memoryOk (s : State) (o : Op) (outs : List (Target × Nat)) (ok : MemoryOk s) : MemoryOk
    (rereadAll s o outs) := by
  unfold rereadAll
  simp_all

@[simp] theorem fixRead_memoryOk (s : State) (o : Op) (ok : MemoryOk s) : MemoryOk (fixRead s o) := by
  unfold fixRead
  dsimp only
  (repeat' split) <;> simp_all (maxDischargeDepth := 20)

@[simp] theorem State.startFails_memoryOk (s : State) (o : Op) (cause : Cause) (arg : Word) (ok : MemoryOk s) : MemoryOk
    (State.startFails s o cause arg) := by
  simp [State.startFails, *]

@[simp] theorem State.runs_memoryOk (s : State) (o : Op) (r : VOut) (ok : MemoryOk s) : MemoryOk (State.runs s o r) := by
  simp (maxDischargeDepth := 20) [State.runs, *]

@[simp] theorem startVector_memoryOk (s : State) (tile : Nat) (lane : Nat) (o : Op) (i : Instr) (ok : MemoryOk s) :
    MemoryOk (startVector s tile lane o i) := by
  unfold startVector
  dsimp only
  (repeat' split) <;> simp_all (maxDischargeDepth := 20)

@[simp] theorem completeOp_memoryOk (s : State) (o : Op) (ok : MemoryOk s) : MemoryOk (completeOp s o) := by
  unfold completeOp
  (repeat' split) <;> simp_all (maxDischargeDepth := 20)

@[simp] theorem serveChunk_memoryOk (s : State) (tile : Nat) (o : Op) (i : Instr) (bank : Nat) (rest : List (Option
    Nat)) (ok : MemoryOk s) : MemoryOk (serveChunk s tile o i bank rest) := by
  unfold serveChunk
  (repeat' split) <;> simp_all (maxDischargeDepth := 20)

@[simp] theorem toHome_memoryOk (s : State) (j : Job) (b : Body) (ok : MemoryOk s) : MemoryOk (toHome s j b) := by
  simp [toHome, *]

@[simp] theorem present_memoryOk (s : State) (key : Nat) (ok : MemoryOk s) : MemoryOk (present s key) := by
  simp [present, *]

@[simp] theorem State.unprefix_memoryOk (s : State) (key : Nat) (ok : MemoryOk s) : MemoryOk (State.unprefix s key) := by
  simp [State.unprefix, *]

@[simp] theorem State.endInvalidation_memoryOk (s : State) (ok : MemoryOk s) : MemoryOk (State.endInvalidation s) := by
  unfold State.endInvalidation
  (repeat' split) <;> simp_all

@[simp] theorem tick_memoryOk (s : State) (ok : MemoryOk s) : MemoryOk (tick s) := by
  unfold tick
  (repeat' split) <;> simp_all

@[simp] theorem placeWord_memoryOk (s : State) (nbits w : Nat) (ok : MemoryOk s) : MemoryOk (placeWord s nbits w) :=
  ⟨ok.1, ok.2.1, Memory.wf_write _ _ _ ok.2.2.1, ok.2.2.2.1, ok.2.2.2.2.1, ok.2.2.2.2.2⟩

@[simp] theorem State.withFetchWord_memoryOk (s : State) (nbits : Nat) (w : Nat) (ok : MemoryOk s) : MemoryOk
    (State.withFetchWord s nbits w) := by
  simp [State.withFetchWord, *]

end Sys2Proof.Machine
end

