-- ==== Sys2Proof/Laws/Ops.lean ====
section
/-! SUPPORT. What the shared operations of an issuing context come to: its registers, the checks before an effect, and the outcome of
an instruction. -/

namespace Sys2Proof.Machine

open Sys2Proof.Safety

/-! ## The issuing context -/

/-- The issuing context after it is replaced. -/
@[simp] theorem me_setMe (s : State) (c : Ctx) : (s.setMe c).me = c := by
  simp [State.me, State.setMe, Map.getD]

/-- Replacing it twice keeps the last. -/
theorem setMe_other (s : State) (c : Ctx) (k : Nat) (h : k ≠ s.cur) : (s.setMe c).ctxs.get? k = s.ctxs.get? k := by
  simp [State.setMe, Map.get?_set_of_ne _ _ _ _ h]

/-- A context that runs a task is the one at its key. -/
theorem me_of_get? {s : State} {c : Ctx} (h : s.ctxs.get? s.cur = some c) : s.me = c := by
  simp [State.me, Map.getD, h]

/-- A removed key reads none. -/
theorem get?_del {α : Type} (m : Map α) (k : Nat) : (m.del k).get? k = none := by
  induction m with
  | nil => rfl
  | cons e t ih =>
    obtain ⟨a, v⟩ := e
    unfold Map.del at *
    by_cases h : a = k
    · simp [h] at *; exact ih
    · simp [h, Map.get?] at *; exact ih

/-! ## The checks before an effect -/

/-- Nothing stops a plain instruction before its own checks. -/
theorem begin_plain {s : State} {len : Nat} (h : Plain s len) (acc : Bool) : begin_ s len acc = .ok () := by
  obtain ⟨h1, h2⟩ := h
  unfold begin_
  simp only [need, h1]
  cases hl : s.me.loops with
  | nil => simp [bind, Except.bind]
  | cons t l =>
    have := h2 t (by simp [hl])
    by_cases hlen : len = 4
    · subst hlen
      simp at this
      simp [bind, Except.bind, this]
    · simp [bind, Except.bind, hlen]

/-- A form that accepts prefixes meets only the end of a loop. -/
theorem begin_fits {s : State} {len : Nat} (h : Fits s len) : begin_ s len true = .ok () := by
  unfold begin_
  simp only [need]
  cases hl : s.me.loops with
  | nil => simp [bind, Except.bind]
  | cons t l =>
    have := h t (by simp [hl])
    by_cases hlen : len = 4
    · subst hlen
      simp at this
      simp [bind, Except.bind, this]
    · simp [bind, Except.bind, hlen]

/-- A prefix before a form that accepts none is ILLOP. -/
theorem begin_prefixed {s : State} {len : Nat} (h : s.me.limm ≠ []) : begin_ s len false = raise .illop 0 := by
  have : s.me.limm.isEmpty = false := by simpa using h
  simp [begin_, need, this, bind, Except.bind, raise]

/-- A sound name reads its value. -/
theorem rd_clean {s : State} {n : Name} (h : Clean s n) (p : Nat) : rd s p n = .ok (value s p n) := by
  unfold Clean at h
  simp only [rd, h, Bool.false_eq_true, if_false]

/-- A sound mask reads its value. -/
theorem rdK_clean {s : State} {n : Nat} (h : CleanMask s n) (p : Nat) : rdK s p n = .ok (readK s p n) := by
  unfold CleanMask at h
  simp only [rdK, h, Bool.false_eq_true, if_false]

/-- A name with an uncorrectable error stops its instruction. -/
theorem rd_bad {s : State} {n : Name} (h : ¬ Clean s n) (p : Nat) :
    rd s p n = raise .eccloc (BitVec.ofNat 64 (2 ^ 61 + n.code)) := by
  unfold Clean at h
  have : s.me.ecc.contains (eccOfName s.me n) = true := by simpa using h
  simp only [rd, this, if_true]

/-- Sound sources pass their check. -/
theorem srcs_sound {s : State} {l : List Name} (h : ∀ n ∈ l, Sound s n) : srcs l = .ok () := by
  have : l.all readable = true := by simpa using fun n hn => (h n hn).1
  simp [srcs, need, this]

/-- A writable destination passes its check. -/
theorem dst_ok {d : Name} (h : writable d = true) : dst d = .ok () := by simp [dst, need, h]

/-- A block of registers gives its words. -/
theorem block_is {s : State} {a : Name} {n : Nat} {words : List Word} (h : BlockIs s a n words) :
    block s a n = .ok words ∧ blockOk s a n = .ok () := by
  obtain ⟨r, rfl, hr, rfl, he⟩ := h
  constructor
  · simp [block, blockAt, hr, bind, Except.bind]
  · have : (List.range n).find? (fun i => s.me.ecc.contains (r.val + i)) = none := by
      simp only [List.find?_eq_none, List.mem_range]
      intro i hi
      simp only [he i hi, Bool.false_eq_true, not_false_eq_true]
    unfold blockOk
    simp only [blockAt, hr, if_true, blockSound, bind, Except.bind, this]

/-- The weight given is taken from the task. -/
theorem takeWeight_gives {s : State} {v : Nat} (h1 : 1 ≤ v) (h2 : v ≤ s.me.wt) :
    takeWeight s v = .ok (s.setMe { s.me with wt := s.me.wt - v }) := by
  have : ¬(v = 0 ∨ s.me.wt < v) := by omega
  simp [takeWeight, this]

/-! ## The outcome of an instruction -/

/-- An effect is followed by the advance. -/
theorem issue_ok (len gap : Nat) (mark : Bool) (s t : State) (fl : Flow) :
    issue len gap mark s (.ok (t, fl)) = .next (after s t len gap mark fl) := rfl

/-- A raised cause is a trap. -/
theorem issue_trap (len gap : Nat) (mark : Bool) (s : State) (c : Cause) (arg : Word) :
    issue len gap mark s (raise c arg) = .next { (s.trapNow s.cur ⟨c, 0, 0, arg⟩ (segNow s.me)) with free := s.free + 1 } := rfl

/-- With no start-time fault noted in its context, a trap that is detected is the one taken. -/
theorem trapNow_of_none {s : State} {key : Nat} {c : Ctx} (t : Trap) (seg : Nat × Nat) (h : s.ctxs.get? key = some c)
    (hf : c.startFault = none) : s.trapNow key t seg = s.takeTrap key t seg := by
  simp [State.trapNow, h, hf]

/-- A start-time fault noted before is taken in place of a trap that is detected (R119, R355). -/
theorem trapNow_of_noted {s : State} {key id : Nat} {c : Ctx} {sg : Nat × Nat} {x : Trap} (t : Trap) (seg : Nat × Nat)
    (h : s.ctxs.get? key = some c) (hf : c.startFault = some (id, sg, x)) : s.trapNow key t seg = s.takeTrap key x sg := by
  simp [State.trapNow, h, hf]

/-- An instruction that waits changes nothing. -/
theorem issue_wait (len gap : Nat) (mark : Bool) (s : State) : issue len gap mark s (.error .wait) = .next s := rfl

/-- A plain 32-bit instruction has its effect. -/
theorem issue32_plain {s : State} (m : Mark) (r : Res) (h : Plain s 4) : issue32 m s r = issue 4 m.g.val m.s s r := by
  simp [issue32, begin_plain h, bind, Except.bind]

/-- A plain instruction that may fault at its start. -/
theorem issueStart_plain {s : State} (m : Mark) (r : Res) (h : Plain s 4) :
    issueStart m s r = issue 4 m.g.val (m.s || s.me.precise) s r := by
  simp [issueStart, begin_plain h, bind, Except.bind]

/-- A plain 16-bit instruction has its effect. -/
theorem issue16_plain {s : State} (mark : Bool) (r : Res) (h : Plain s 2) : issue16 mark s r = issue 2 0 mark s r := by
  simp [issue16, begin_plain h, bind, Except.bind]

/-! ## The shapes of the scalar instructions -/

/-- Two sources, one result. -/
theorem two_ok {s : State} {d a b : Name} {m : Mark} {l : Nat} {f : Word → Word → Word} (h : Plain s 4) (ha : Sound s a)
    (hb : Sound s b) (hd : writable d = true) :
    two d a b m l f s = .next (after s (wr s d (f (value s 0 a) (value s 1 b)) l) 4 m.g.val m.s .next) := by
  simp [two, srcs, need, ha.1, hb.1, dst_ok hd, rd_clean ha.2, rd_clean hb.2, fall, bind, Except.bind, issue32_plain m _ h, issue_ok]

/-- One source, one result. -/
theorem one_ok {s : State} {d a : Name} {m : Mark} {f : Word → Word} (h : Plain s 4) (ha : Sound s a) (hd : writable d = true) :
    one d a m f s = .next (after s (wr s d (f (value s 0 a)) 1) 4 m.g.val m.s .next) := by
  simp [one, srcs, need, ha.1, dst_ok hd, rd_clean ha.2, fall, bind, Except.bind, issue32_plain m _ h, issue_ok]

/-- Two sources, a result with flags. -/
theorem twoFlagged_ok {s : State} {d a b : Name} {m : Mark} {l : Nat} {f : Word → Word → Flagged} (h : Plain s 4) (ha : Sound s a)
    (hb : Sound s b) (hd : writable d = true) :
    twoFlagged d a b m l f s = .next (after s (setFlags (wr s d (f (value s 0 a) (value s 1 b)).1 l) (f (value s 0 a) (value s 1 b)).2)
      4 m.g.val m.s .next) := by
  simp [twoFlagged, srcs, need, ha.1, hb.1, dst_ok hd, rd_clean ha.2, rd_clean hb.2, fall, bind, Except.bind, issue32_plain m _ h,
    issue_ok]

/-- One source, a result with flags. -/
theorem oneFlagged_ok {s : State} {d a : Name} {m : Mark} {l : Nat} {f : Word → Flagged} (h : Plain s 4) (ha : Sound s a)
    (hd : writable d = true) :
    oneFlagged d a m l f s = .next (after s (setFlags (wr s d (f (value s 0 a)).1 l) (f (value s 0 a)).2) 4 m.g.val m.s .next) := by
  simp [oneFlagged, srcs, need, ha.1, dst_ok hd, rd_clean ha.2, fall, bind, Except.bind, issue32_plain m _ h, issue_ok]

/-- Two sources and the destination read. -/
theorem three_ok {s : State} {d a b : Name} {m : Mark} {l : Nat} {f : Word → Word → Word → Flagged} (h : Plain s 4) (ha : Sound s a)
    (hb : Sound s b) (hd : updatable d = true) (hc : Clean s d) :
    three d a b m l f s = .next (after s (setFlags (wr s d (f (value s 2 d) (value s 0 a) (value s 1 b)).1 l)
      (f (value s 2 d) (value s 0 a) (value s 1 b)).2) 4 m.g.val m.s .next) := by
  simp [three, srcs, need, ha.1, hb.1, hd, rd_clean ha.2, rd_clean hb.2, rd_clean hc, fall, bind, Except.bind, issue32_plain m _ h,
    issue_ok]

/-- A division issues as an outstanding operation. -/
theorem division_ok {s : State} {d a b : Name} {m : Mark} {f : Word → Word → Flagged} (h : Plain s 4) (ha : Sound s a)
    (hb : Sound s b) (hd : writable d = true) :
    division d a b m f s = .next (after s (startOp s (.divide (f (value s 0 a) (value s 1 b)).1 (f (value s 0 a) (value s 1 b)).2) 0 0
      (scalarTargets s d) [] 0) 4 m.g.val m.s .next) := by
  simp [division, srcs, need, ha.1, hb.1, dst_ok hd, rd_clean ha.2, rd_clean hb.2, fall, bind, Except.bind, issue32_plain m _ h,
    issue_ok]

/-- A format-I instruction with its prefixes. -/
theorem immForm_ok {s : State} {d a : Name} {i : BitVec 10} {m : Mark} {f : Word → Word → Word} (h : Fits s 4) (ha : Sound s a)
    (hd : writable d = true) :
    immForm d a i m f s = .next (after s (wr s d (f (value s 0 a) (immWord s i)) 1) 4 m.g.val m.s .next) := by
  simp [immForm, begin_fits h, srcs, need, ha.1, dst_ok hd, rd_clean ha.2, fall, bind, Except.bind, issue_ok]

/-- A branch comes to its condition. -/
theorem branch_ok {s : State} {a b : Name} {o : BitVec 10} {m : Mark} {f : Word → Word → Bool} (h : Plain s 4) (ha : Sound s a)
    (hb : Sound s b) :
    branch a b o m f s = issue 4 m.g.val m.s s (branchIf (f (value s 0 a) (value s 1 b)) s o.toInt) := by
  simp [branch, srcs, need, ha.1, hb.1, rd_clean ha.2, rd_clean hb.2, bind, Except.bind, issue32_plain m _ h]

end Sys2Proof.Machine
end

