-- ==== Sys2Proof/Laws/Outcome.lean ====
section
/-! SUPPORT. The canonical form of the memories through the outcome of an instruction and of a step: what an effect must show. -/

namespace Sys2Proof.Machine

open Sys2Proof.Safety

/-- Every next state an outcome answers has its memories in canonical form. -/
def NextOk (o : Host.Outcome State Fault Refusal) : Prop := ∀ t, o = .next t → MemoryOk t

/-- Every state an instruction's own effect comes to has its memories in canonical form. -/
def ResOk (r : Res) : Prop := ∀ t fl, r = .ok (t, fl) → MemoryOk t

@[simp] theorem nextOk_next (t : State) : NextOk (.next t) ↔ MemoryOk t := by
  refine ⟨fun h => h t rfl, fun h u e => ?_⟩
  cases e
  exact h

@[simp] theorem resOk_ok (t : State) (fl : Flow) : ResOk (.ok (t, fl)) ↔ MemoryOk t := by
  refine ⟨fun h => h t fl rfl, fun h u f e => ?_⟩
  cases e
  exact h

@[simp] theorem resOk_error (x : Stop) : ResOk (.error x) := by
  intro t fl e
  cases e

@[simp] theorem resOk_raise (c : Cause) (w : Word) : ResOk (raise c w) := resOk_error _

@[simp] theorem resOk_fall (t : State) : ResOk (fall t) ↔ MemoryOk t := resOk_ok t .next

@[simp] theorem resOk_bind {α : Type} (x : Except Stop α) (f : α → Res) (h : ∀ a, ResOk (f a)) : ResOk (x >>= f) := by
  cases x with
  | error e => exact resOk_error e
  | ok a => exact h a

theorem takeWeight_memoryOk (s t : State) (v : Nat) (ok : MemoryOk s) (e : takeWeight s v = .ok t) : MemoryOk t := by
  unfold takeWeight at e
  dsimp only at e
  split at e
  · cases e
  · cases e; simp [ok]

theorem joinHold_memoryOk (s t : State) (ok : MemoryOk s) (e : joinHold s = .ok t) : MemoryOk t := by
  unfold joinHold at e
  dsimp only at e
  split at e
  · split at e
    · cases e
    · cases e; simp [ok]
  · cases e; simp [ok]

@[simp high] theorem resOk_takeWeight (s : State) (v : Nat) (f : State → Res) (ok : MemoryOk s)
    (h : ∀ t, MemoryOk t → ResOk (f t)) : ResOk (takeWeight s v >>= f) := by
  cases e : takeWeight s v with
  | error x => exact resOk_error x
  | ok t => exact h t (takeWeight_memoryOk s t v ok e)

@[simp high] theorem resOk_joinHold (s : State) (f : State → Res) (ok : MemoryOk s)
    (h : ∀ t, MemoryOk t → ResOk (f t)) : ResOk (joinHold s >>= f) := by
  cases e : joinHold s with
  | error x => exact resOk_error x
  | ok t => exact h t (joinHold_memoryOk s t ok e)

@[simp] theorem issue_nextOk (len gap : Nat) (mark : Bool) (s : State) (r : Res) (ok : MemoryOk s) (h : ResOk r) :
    NextOk (issue len gap mark s r) := by
  unfold issue
  split
  · rename_i t fl
    have := (resOk_ok t fl).1 h
    split <;> simp [this]
  · simp [ok]
  · simp [ok]

@[simp] theorem issue32_nextOk (m : Mark) (s : State) (r : Res) (ok : MemoryOk s) (h : ResOk r) : NextOk (issue32 m s r) :=
  issue_nextOk _ _ _ _ _ ok (resOk_bind _ _ (fun _ => h))

@[simp] theorem issue16_nextOk (mark : Bool) (s : State) (r : Res) (ok : MemoryOk s) (h : ResOk r) : NextOk (issue16 mark s r) :=
  issue_nextOk _ _ _ _ _ ok (resOk_bind _ _ (fun _ => h))

@[simp] theorem issueStart_nextOk (m : Mark) (s : State) (r : Res) (ok : MemoryOk s) (h : ResOk r) : NextOk (issueStart m s r) :=
  issue_nextOk _ _ _ _ _ ok (resOk_bind _ _ (fun _ => h))

end Sys2Proof.Machine
end

