-- ==== Sys2Proof/Laws/PerInstr.lean ====
section
/-! SUPPORT. Laws of the encoding per instruction: the bits of an instruction fit into the parcels it has (R54, R55). -/

namespace Sys2Proof.Laws

theorem Mark.code_lt (m : Mark) : m.code < 8 := by
  have h := m.g.isLt
  cases hs : m.s <;> simp only [Mark.code, hs, Bool.toNat_true, Bool.toNat_false] <;> omega

theorem Name.code_lt (n : Name) : n.code < 64 := by
  cases n <;> simp only [Name.code] <;> omega

theorem VT.code_lt (t : VT) : t.code < 8 := by cases t <;> decide
theorem Size.code_lt (z : Size) : z.code < 4 := by cases z <;> decide
theorem FenceKind.code_lt (k : FenceKind) : k.code < 8 := by cases k <;> decide
theorem Scope.code_lt (c : Scope) : c.code < 8 := by cases c <;> decide

/-- The length of a word whose bit 0 is 1. -/
theorem fits_odd {w : Nat} (h : w % 2 = 1) (hw : w < 4294967296) : w < 2 ^ (8 * wordLen w) := by
  simp only [wordLen, h]; exact hw

theorem wordA_fits {maj f b a d : Nat} (m : Mark) (hm : maj < 64) (hf : f < 16) (hb : b < 64) (ha : a < 64) (hd : d < 64) :
    wordA maj f b a d m < 2 ^ (8 * wordLen (wordA maj f b a d m)) := by
  have := Mark.code_lt m
  apply fits_odd <;> simp only [wordA] <;> omega

theorem wordI_fits {maj i a d : Nat} (m : Mark) (hm : maj < 64) (hi : i < 1024) (ha : a < 64) (hd : d < 64) :
    wordI maj i a d m < 2 ^ (8 * wordLen (wordI maj i a d m)) := by
  have := Mark.code_lt m
  apply fits_odd <;> simp only [wordI] <;> omega

theorem wordW_fits {maj i d : Nat} (m : Mark) (hm : maj < 64) (hi : i < 65536) (hd : d < 64) :
    wordW maj i d m < 2 ^ (8 * wordLen (wordW maj i d m)) := by
  have := Mark.code_lt m
  apply fits_odd <;> simp only [wordW] <;> omega

theorem wordJ_fits {maj o : Nat} (m : Mark) (hm : maj < 64) (ho : o < 4194304) :
    wordJ maj o m < 2 ^ (8 * wordLen (wordJ maj o m)) := by
  have := Mark.code_lt m
  apply fits_odd <;> simp only [wordJ] <;> omega

theorem wordM_fits {maj o q x z a d : Nat} (m : Mark) (hm : maj < 64) (ho : o < 64) (hq : q < 2) (hx : x < 2) (hz : z < 4)
    (ha : a < 64) (hd : d < 64) : wordM maj o q x z a d m < 2 ^ (8 * wordLen (wordM maj o q x z a d m)) := by
  have := Mark.code_lt m
  apply fits_odd <;> simp only [wordM] <;> omega

theorem wordV_fits {maj f k t b a d : Nat} (m : Mark) (hm : maj < 64) (hf : f < 4) (hk : k < 4) (ht : t < 8) (hb : b < 32)
    (ha : a < 32) (hd : d < 32) : wordV maj f k t b a d m < 2 ^ (8 * wordLen (wordV maj f k t b a d m)) := by
  have := Mark.code_lt m
  apply fits_odd <;> simp only [wordV] <;> omega

theorem wordFence_fits {k c a b : Nat} (m : Mark) (hk : k < 8) (hc : c < 8) (ha : a < 128) (hb : b < 128) :
    wordFence k c a b m < 2 ^ (8 * wordLen (wordFence k c a b m)) := by
  have := Mark.code_lt m
  apply fits_odd <;> simp only [wordFence] <;> omega

theorem wordCompact_fits {co x y : Nat} (s : Bool) (hc : co < 32) (hx : x < 32) (hy : y < 16) :
    wordCompact co x y s < 2 ^ (8 * wordLen (wordCompact co x y s)) := by
  have h : wordCompact co x y s % 2 = 0 := by simp only [wordCompact]; omega
  have hs : s.toNat < 2 := by cases s <;> decide
  simp only [wordLen, h, if_true]
  simp only [wordCompact]
  omega

theorem boolNat_lt (b : Bool) : b.toNat < 2 := by cases b <;> decide

namespace WordFits

/-- The bits of an instruction fit into the one or two parcels its bit 0 tells of. -/
def Statement (i : Instr) : Prop := ∀ w, i.word = some w → w < 2 ^ (8 * wordLen w)

theorem aluAdd (d a b : Name) (m : Mark) : Statement (.aluAdd d a b m) := by
  intro w h; cases h
  exact wordA_fits m (by decide) (by decide) (Name.code_lt b) (Name.code_lt a) (Name.code_lt d)
theorem aluSub (d a b : Name) (m : Mark) : Statement (.aluSub d a b m) := by
  intro w h; cases h
  exact wordA_fits m (by decide) (by decide) (Name.code_lt b) (Name.code_lt a) (Name.code_lt d)
theorem aluAnd (d a b : Name) (m : Mark) : Statement (.aluAnd d a b m) := by
  intro w h; cases h
  exact wordA_fits m (by decide) (by decide) (Name.code_lt b) (Name.code_lt a) (Name.code_lt d)
theorem aluOr (d a b : Name) (m : Mark) : Statement (.aluOr d a b m) := by
  intro w h; cases h
  exact wordA_fits m (by decide) (by decide) (Name.code_lt b) (Name.code_lt a) (Name.code_lt d)
theorem aluXor (d a b : Name) (m : Mark) : Statement (.aluXor d a b m) := by
  intro w h; cases h
  exact wordA_fits m (by decide) (by decide) (Name.code_lt b) (Name.code_lt a) (Name.code_lt d)
theorem aluAndn (d a b : Name) (m : Mark) : Statement (.aluAndn d a b m) := by
  intro w h; cases h
  exact wordA_fits m (by decide) (by decide) (Name.code_lt b) (Name.code_lt a) (Name.code_lt d)
theorem aluShl (d a b : Name) (m : Mark) : Statement (.aluShl d a b m) := by
  intro w h; cases h
  exact wordA_fits m (by decide) (by decide) (Name.code_lt b) (Name.code_lt a) (Name.code_lt d)
theorem aluShr (d a b : Name) (m : Mark) : Statement (.aluShr d a b m) := by
  intro w h; cases h
  exact wordA_fits m (by decide) (by decide) (Name.code_lt b) (Name.code_lt a) (Name.code_lt d)
theorem aluSra (d a b : Name) (m : Mark) : Statement (.aluSra d a b m) := by
  intro w h; cases h
  exact wordA_fits m (by decide) (by decide) (Name.code_lt b) (Name.code_lt a) (Name.code_lt d)
theorem aluRot (d a b : Name) (m : Mark) : Statement (.aluRot d a b m) := by
  intro w h; cases h
  exact wordA_fits m (by decide) (by decide) (Name.code_lt b) (Name.code_lt a) (Name.code_lt d)
theorem aluMin (d a b : Name) (m : Mark) : Statement (.aluMin d a b m) := by
  intro w h; cases h
  exact wordA_fits m (by decide) (by decide) (Name.code_lt b) (Name.code_lt a) (Name.code_lt d)
theorem aluMax (d a b : Name) (m : Mark) : Statement (.aluMax d a b m) := by
  intro w h; cases h
  exact wordA_fits m (by decide) (by decide) (Name.code_lt b) (Name.code_lt a) (Name.code_lt d)
theorem aluMinu (d a b : Name) (m : Mark) : Statement (.aluMinu d a b m) := by
  intro w h; cases h
  exact wordA_fits m (by decide) (by decide) (Name.code_lt b) (Name.code_lt a) (Name.code_lt d)
theorem aluMaxu (d a b : Name) (m : Mark) : Statement (.aluMaxu d a b m) := by
  intro w h; cases h
  exact wordA_fits m (by decide) (by decide) (Name.code_lt b) (Name.code_lt a) (Name.code_lt d)
theorem aluSlt (d a b : Name) (m : Mark) : Statement (.aluSlt d a b m) := by
  intro w h; cases h
  exact wordA_fits m (by decide) (by decide) (Name.code_lt b) (Name.code_lt a) (Name.code_lt d)
theorem aluSltu (d a b : Name) (m : Mark) : Statement (.aluSltu d a b m) := by
  intro w h; cases h
  exact wordA_fits m (by decide) (by decide) (Name.code_lt b) (Name.code_lt a) (Name.code_lt d)
theorem alu2Seq (d a b : Name) (m : Mark) : Statement (.alu2Seq d a b m) := by
  intro w h; cases h
  exact wordA_fits m (by decide) (by decide) (Name.code_lt b) (Name.code_lt a) (Name.code_lt d)
theorem alu2Sne (d a b : Name) (m : Mark) : Statement (.alu2Sne d a b m) := by
  intro w h; cases h
  exact wordA_fits m (by decide) (by decide) (Name.code_lt b) (Name.code_lt a) (Name.code_lt d)
theorem alu2Clz (d a : Name) (m : Mark) : Statement (.alu2Clz d a m) := by
  intro w h; cases h
  exact wordA_fits m (by decide) (by decide) (by decide) (Name.code_lt a) (Name.code_lt d)
theorem alu2Ctz (d a : Name) (m : Mark) : Statement (.alu2Ctz d a m) := by
  intro w h; cases h
  exact wordA_fits m (by decide) (by decide) (by decide) (Name.code_lt a) (Name.code_lt d)
theorem alu2Popc (d a : Name) (m : Mark) : Statement (.alu2Popc d a m) := by
  intro w h; cases h
  exact wordA_fits m (by decide) (by decide) (by decide) (Name.code_lt a) (Name.code_lt d)
theorem alu2SextB (d a : Name) (m : Mark) : Statement (.alu2SextB d a m) := by
  intro w h; cases h
  exact wordA_fits m (by decide) (by decide) (by decide) (Name.code_lt a) (Name.code_lt d)
theorem alu2SextH (d a : Name) (m : Mark) : Statement (.alu2SextH d a m) := by
  intro w h; cases h
  exact wordA_fits m (by decide) (by decide) (by decide) (Name.code_lt a) (Name.code_lt d)
theorem alu2SextW (d a : Name) (m : Mark) : Statement (.alu2SextW d a m) := by
  intro w h; cases h
  exact wordA_fits m (by decide) (by decide) (by decide) (Name.code_lt a) (Name.code_lt d)
theorem alu2ZextB (d a : Name) (m : Mark) : Statement (.alu2ZextB d a m) := by
  intro w h; cases h
  exact wordA_fits m (by decide) (by decide) (by decide) (Name.code_lt a) (Name.code_lt d)
theorem alu2ZextH (d a : Name) (m : Mark) : Statement (.alu2ZextH d a m) := by
  intro w h; cases h
  exact wordA_fits m (by decide) (by decide) (by decide) (Name.code_lt a) (Name.code_lt d)
theorem alu2ZextW (d a : Name) (m : Mark) : Statement (.alu2ZextW d a m) := by
  intro w h; cases h
  exact wordA_fits m (by decide) (by decide) (by decide) (Name.code_lt a) (Name.code_lt d)
theorem alu2Mul (d a b : Name) (m : Mark) : Statement (.alu2Mul d a b m) := by
  intro w h; cases h
  exact wordA_fits m (by decide) (by decide) (Name.code_lt b) (Name.code_lt a) (Name.code_lt d)
theorem alu2Mulh (d a b : Name) (m : Mark) : Statement (.alu2Mulh d a b m) := by
  intro w h; cases h
  exact wordA_fits m (by decide) (by decide) (Name.code_lt b) (Name.code_lt a) (Name.code_lt d)
theorem alu2Mulhu (d a b : Name) (m : Mark) : Statement (.alu2Mulhu d a b m) := by
  intro w h; cases h
  exact wordA_fits m (by decide) (by decide) (Name.code_lt b) (Name.code_lt a) (Name.code_lt d)
theorem alu2Div (d a b : Name) (m : Mark) : Statement (.alu2Div d a b m) := by
  intro w h; cases h
  exact wordA_fits m (by decide) (by decide) (Name.code_lt b) (Name.code_lt a) (Name.code_lt d)
theorem alu2Divu (d a b : Name) (m : Mark) : Statement (.alu2Divu d a b m) := by
  intro w h; cases h
  exact wordA_fits m (by decide) (by decide) (Name.code_lt b) (Name.code_lt a) (Name.code_lt d)
theorem alu3Rem (d a b : Name) (m : Mark) : Statement (.alu3Rem d a b m) := by
  intro w h; cases h
  exact wordA_fits m (by decide) (by decide) (Name.code_lt b) (Name.code_lt a) (Name.code_lt d)
theorem alu3Remu (d a b : Name) (m : Mark) : Statement (.alu3Remu d a b m) := by
  intro w h; cases h
  exact wordA_fits m (by decide) (by decide) (Name.code_lt b) (Name.code_lt a) (Name.code_lt d)
theorem alu3Sel (d a b : Name) (m : Mark) : Statement (.alu3Sel d a b m) := by
  intro w h; cases h
  exact wordA_fits m (by decide) (by decide) (Name.code_lt b) (Name.code_lt a) (Name.code_lt d)
theorem alu3Bext (d a b : Name) (m : Mark) : Statement (.alu3Bext d a b m) := by
  intro w h; cases h
  exact wordA_fits m (by decide) (by decide) (Name.code_lt b) (Name.code_lt a) (Name.code_lt d)
theorem alu3Bins (d a b : Name) (m : Mark) : Statement (.alu3Bins d a b m) := by
  intro w h; cases h
  exact wordA_fits m (by decide) (by decide) (Name.code_lt b) (Name.code_lt a) (Name.code_lt d)
theorem alu3Addsat (d a b : Name) (m : Mark) : Statement (.alu3Addsat d a b m) := by
  intro w h; cases h
  exact wordA_fits m (by decide) (by decide) (Name.code_lt b) (Name.code_lt a) (Name.code_lt d)
theorem alu3Subsat (d a b : Name) (m : Mark) : Statement (.alu3Subsat d a b m) := by
  intro w h; cases h
  exact wordA_fits m (by decide) (by decide) (Name.code_lt b) (Name.code_lt a) (Name.code_lt d)
theorem alu3Absdiff (d a b : Name) (m : Mark) : Statement (.alu3Absdiff d a b m) := by
  intro w h; cases h
  exact wordA_fits m (by decide) (by decide) (Name.code_lt b) (Name.code_lt a) (Name.code_lt d)
theorem addi (d a : Name) (i : BitVec 10) (m : Mark) : Statement (.addi d a i m) := by
  intro w h; cases h
  exact wordI_fits m (by decide) i.isLt (Name.code_lt a) (Name.code_lt d)
theorem andi (d a : Name) (i : BitVec 10) (m : Mark) : Statement (.andi d a i m) := by
  intro w h; cases h
  exact wordI_fits m (by decide) i.isLt (Name.code_lt a) (Name.code_lt d)
theorem ori (d a : Name) (i : BitVec 10) (m : Mark) : Statement (.ori d a i m) := by
  intro w h; cases h
  exact wordI_fits m (by decide) i.isLt (Name.code_lt a) (Name.code_lt d)
theorem xori (d a : Name) (i : BitVec 10) (m : Mark) : Statement (.xori d a i m) := by
  intro w h; cases h
  exact wordI_fits m (by decide) i.isLt (Name.code_lt a) (Name.code_lt d)
theorem shiShl (d a : Name) (n : BitVec 6) (m : Mark) : Statement (.shiShl d a n m) := by
  intro w h; cases h
  exact wordI_fits m (by decide) (by have := n.isLt; omega) (Name.code_lt a) (Name.code_lt d)
theorem shiShr (d a : Name) (n : BitVec 6) (m : Mark) : Statement (.shiShr d a n m) := by
  intro w h; cases h
  exact wordI_fits m (by decide) (by have := n.isLt; omega) (Name.code_lt a) (Name.code_lt d)
theorem shiSra (d a : Name) (n : BitVec 6) (m : Mark) : Statement (.shiSra d a n m) := by
  intro w h; cases h
  exact wordI_fits m (by decide) (by have := n.isLt; omega) (Name.code_lt a) (Name.code_lt d)
theorem shiRot (d a : Name) (n : BitVec 6) (m : Mark) : Statement (.shiRot d a n m) := by
  intro w h; cases h
  exact wordI_fits m (by decide) (by have := n.isLt; omega) (Name.code_lt a) (Name.code_lt d)
theorem slti (d a : Name) (i : BitVec 10) (m : Mark) : Statement (.slti d a i m) := by
  intro w h; cases h
  exact wordI_fits m (by decide) i.isLt (Name.code_lt a) (Name.code_lt d)
theorem movi (d : Name) (i : BitVec 16) (m : Mark) : Statement (.movi d i m) := by
  intro w h; cases h
  exact wordW_fits m (by decide) i.isLt (Name.code_lt d)
theorem sltiu (d a : Name) (i : BitVec 10) (m : Mark) : Statement (.sltiu d a i m) := by
  intro w h; cases h
  exact wordI_fits m (by decide) i.isLt (Name.code_lt a) (Name.code_lt d)
theorem beq (a b : Name) (o : BitVec 10) (m : Mark) : Statement (.beq a b o m) := by
  intro w h; cases h
  exact wordI_fits m (by decide) o.isLt (Name.code_lt b) (Name.code_lt a)
theorem bne (a b : Name) (o : BitVec 10) (m : Mark) : Statement (.bne a b o m) := by
  intro w h; cases h
  exact wordI_fits m (by decide) o.isLt (Name.code_lt b) (Name.code_lt a)
theorem blt (a b : Name) (o : BitVec 10) (m : Mark) : Statement (.blt a b o m) := by
  intro w h; cases h
  exact wordI_fits m (by decide) o.isLt (Name.code_lt b) (Name.code_lt a)
theorem bge (a b : Name) (o : BitVec 10) (m : Mark) : Statement (.bge a b o m) := by
  intro w h; cases h
  exact wordI_fits m (by decide) o.isLt (Name.code_lt b) (Name.code_lt a)
theorem bltu (a b : Name) (o : BitVec 10) (m : Mark) : Statement (.bltu a b o m) := by
  intro w h; cases h
  exact wordI_fits m (by decide) o.isLt (Name.code_lt b) (Name.code_lt a)
theorem bgeu (a b : Name) (o : BitVec 10) (m : Mark) : Statement (.bgeu a b o m) := by
  intro w h; cases h
  exact wordI_fits m (by decide) o.isLt (Name.code_lt b) (Name.code_lt a)
theorem jmp (o : BitVec 22) (m : Mark) : Statement (.jmp o m) := by
  intro w h; cases h
  exact wordJ_fits m (by decide) o.isLt
theorem call (o : BitVec 22) (m : Mark) : Statement (.call o m) := by
  intro w h; cases h
  exact wordJ_fits m (by decide) o.isLt
theorem ctlJr (a : Name) (m : Mark) : Statement (.ctlJr a m) := by
  intro w h; cases h
  exact wordA_fits m (by decide) (by decide) (by decide) (Name.code_lt a) (by decide)
theorem ctlRet (m : Mark) : Statement (.ctlRet m) := by
  intro w h; cases h
  exact wordA_fits m (by decide) (by decide) (by decide) (by decide) (by decide)
theorem ctlEnd (m : Mark) : Statement (.ctlEnd m) := by
  intro w h; cases h
  exact wordA_fits m (by decide) (by decide) (by decide) (by decide) (by decide)
theorem ctlNop (m : Mark) : Statement (.ctlNop m) := by
  intro w h; cases h
  exact wordA_fits m (by decide) (by decide) (by decide) (by decide) (by decide)
theorem ctlTrap (a : Name) (m : Mark) : Statement (.ctlTrap a m) := by
  intro w h; cases h
  exact wordA_fits m (by decide) (by decide) (by decide) (Name.code_lt a) (by decide)
theorem loop (a : Name) (i : BitVec 10) (m : Mark) : Statement (.loop a i m) := by
  intro w h; cases h
  exact wordI_fits m (by decide) i.isLt (Name.code_lt a) (by decide)
theorem ldl (d a : Name) (o : BitVec 6) (z : Size) (x q : Bool) (m : Mark) : Statement (.ldl d a o z x q m) := by
  intro w h; cases h
  exact wordM_fits m (by decide) o.isLt (boolNat_lt q) (boolNat_lt x) (Size.code_lt z) (Name.code_lt a) (Name.code_lt d)
theorem stl (d a : Name) (o : BitVec 6) (z : Size) (q : Bool) (m : Mark) : Statement (.stl d a o z q m) := by
  intro w h; cases h
  exact wordM_fits m (by decide) o.isLt (boolNat_lt q) (by decide) (Size.code_lt z) (Name.code_lt a) (Name.code_lt d)
theorem ldt (d a : Name) (o : BitVec 6) (z : Size) (x q : Bool) (m : Mark) : Statement (.ldt d a o z x q m) := by
  intro w h; cases h
  exact wordM_fits m (by decide) o.isLt (boolNat_lt q) (boolNat_lt x) (Size.code_lt z) (Name.code_lt a) (Name.code_lt d)
theorem stt (d a : Name) (o : BitVec 6) (z : Size) (q : Bool) (m : Mark) : Statement (.stt d a o z q m) := by
  intro w h; cases h
  exact wordM_fits m (by decide) o.isLt (boolNat_lt q) (by decide) (Size.code_lt z) (Name.code_lt a) (Name.code_lt d)
theorem fpFadd (d a b : Name) (m : Mark) : Statement (.fpFadd d a b m) := by
  intro w h; cases h
  exact wordA_fits m (by decide) (by decide) (Name.code_lt b) (Name.code_lt a) (Name.code_lt d)
theorem fpFsub (d a b : Name) (m : Mark) : Statement (.fpFsub d a b m) := by
  intro w h; cases h
  exact wordA_fits m (by decide) (by decide) (Name.code_lt b) (Name.code_lt a) (Name.code_lt d)
theorem fpFmul (d a b : Name) (m : Mark) : Statement (.fpFmul d a b m) := by
  intro w h; cases h
  exact wordA_fits m (by decide) (by decide) (Name.code_lt b) (Name.code_lt a) (Name.code_lt d)
theorem fpFmin (d a b : Name) (m : Mark) : Statement (.fpFmin d a b m) := by
  intro w h; cases h
  exact wordA_fits m (by decide) (by decide) (Name.code_lt b) (Name.code_lt a) (Name.code_lt d)
theorem fpFmax (d a b : Name) (m : Mark) : Statement (.fpFmax d a b m) := by
  intro w h; cases h
  exact wordA_fits m (by decide) (by decide) (Name.code_lt b) (Name.code_lt a) (Name.code_lt d)
theorem fpFabs (d a : Name) (m : Mark) : Statement (.fpFabs d a m) := by
  intro w h; cases h
  exact wordA_fits m (by decide) (by decide) (by decide) (Name.code_lt a) (Name.code_lt d)
theorem fpFneg (d a : Name) (m : Mark) : Statement (.fpFneg d a m) := by
  intro w h; cases h
  exact wordA_fits m (by decide) (by decide) (by decide) (Name.code_lt a) (Name.code_lt d)
theorem fpFeq (d a b : Name) (m : Mark) : Statement (.fpFeq d a b m) := by
  intro w h; cases h
  exact wordA_fits m (by decide) (by decide) (Name.code_lt b) (Name.code_lt a) (Name.code_lt d)
theorem fpFlt (d a b : Name) (m : Mark) : Statement (.fpFlt d a b m) := by
  intro w h; cases h
  exact wordA_fits m (by decide) (by decide) (Name.code_lt b) (Name.code_lt a) (Name.code_lt d)
theorem fpFle (d a b : Name) (m : Mark) : Statement (.fpFle d a b m) := by
  intro w h; cases h
  exact wordA_fits m (by decide) (by decide) (Name.code_lt b) (Name.code_lt a) (Name.code_lt d)
theorem fpFcvtI2f (d a : Name) (m : Mark) : Statement (.fpFcvtI2f d a m) := by
  intro w h; cases h
  exact wordA_fits m (by decide) (by decide) (by decide) (Name.code_lt a) (Name.code_lt d)
theorem fpFcvtU2f (d a : Name) (m : Mark) : Statement (.fpFcvtU2f d a m) := by
  intro w h; cases h
  exact wordA_fits m (by decide) (by decide) (by decide) (Name.code_lt a) (Name.code_lt d)
theorem fpFcvtF2i (d a : Name) (m : Mark) : Statement (.fpFcvtF2i d a m) := by
  intro w h; cases h
  exact wordA_fits m (by decide) (by decide) (by decide) (Name.code_lt a) (Name.code_lt d)
theorem fpFcvtF2u (d a : Name) (m : Mark) : Statement (.fpFcvtF2u d a m) := by
  intro w h; cases h
  exact wordA_fits m (by decide) (by decide) (by decide) (Name.code_lt a) (Name.code_lt d)
theorem fpFsqrt (d a : Name) (m : Mark) : Statement (.fpFsqrt d a m) := by
  intro w h; cases h
  exact wordA_fits m (by decide) (by decide) (by decide) (Name.code_lt a) (Name.code_lt d)
theorem fpFclass (d a : Name) (m : Mark) : Statement (.fpFclass d a m) := by
  intro w h; cases h
  exact wordA_fits m (by decide) (by decide) (by decide) (Name.code_lt a) (Name.code_lt d)
theorem ffma (d a b : Name) (m : Mark) : Statement (.ffma d a b m) := by
  intro w h; cases h
  exact wordA_fits m (by decide) (by decide) (Name.code_lt b) (Name.code_lt a) (Name.code_lt d)
theorem vadd (d a b : Fin 32) (t : VT) (k : Fin 4) (m : Mark) : Statement (.vadd d a b t k m) := by
  intro w h; cases h
  exact wordV_fits m (by decide) (by decide) k.isLt (VT.code_lt t) b.isLt a.isLt d.isLt
theorem vsub (d a b : Fin 32) (t : VT) (k : Fin 4) (m : Mark) : Statement (.vsub d a b t k m) := by
  intro w h; cases h
  exact wordV_fits m (by decide) (by decide) k.isLt (VT.code_lt t) b.isLt a.isLt d.isLt
theorem vmul (d a b : Fin 32) (t : VT) (k : Fin 4) (m : Mark) : Statement (.vmul d a b t k m) := by
  intro w h; cases h
  exact wordV_fits m (by decide) (by decide) k.isLt (VT.code_lt t) b.isLt a.isLt d.isLt
theorem vfma (d a b : Fin 32) (t : VT) (k : Fin 4) (m : Mark) : Statement (.vfma d a b t k m) := by
  intro w h; cases h
  exact wordV_fits m (by decide) (by decide) k.isLt (VT.code_lt t) b.isLt a.isLt d.isLt
theorem vmin (d a b : Fin 32) (t : VT) (k : Fin 4) (m : Mark) : Statement (.vmin d a b t k m) := by
  intro w h; cases h
  exact wordV_fits m (by decide) (by decide) k.isLt (VT.code_lt t) b.isLt a.isLt d.isLt
theorem vmax (d a b : Fin 32) (t : VT) (k : Fin 4) (m : Mark) : Statement (.vmax d a b t k m) := by
  intro w h; cases h
  exact wordV_fits m (by decide) (by decide) k.isLt (VT.code_lt t) b.isLt a.isLt d.isLt
theorem vabs (d a : Fin 32) (t : VT) (k : Fin 4) (m : Mark) : Statement (.vabs d a t k m) := by
  intro w h; cases h
  exact wordV_fits m (by decide) (by decide) k.isLt (VT.code_lt t) (by decide) a.isLt d.isLt
theorem vneg (d a : Fin 32) (t : VT) (k : Fin 4) (m : Mark) : Statement (.vneg d a t k m) := by
  intro w h; cases h
  exact wordV_fits m (by decide) (by decide) k.isLt (VT.code_lt t) (by decide) a.isLt d.isLt
theorem vand (d a b : Fin 32) (t : VT) (k : Fin 4) (m : Mark) : Statement (.vand d a b t k m) := by
  intro w h; cases h
  exact wordV_fits m (by decide) (by decide) k.isLt (VT.code_lt t) b.isLt a.isLt d.isLt
theorem vor (d a b : Fin 32) (t : VT) (k : Fin 4) (m : Mark) : Statement (.vor d a b t k m) := by
  intro w h; cases h
  exact wordV_fits m (by decide) (by decide) k.isLt (VT.code_lt t) b.isLt a.isLt d.isLt
theorem vxor (d a b : Fin 32) (t : VT) (k : Fin 4) (m : Mark) : Statement (.vxor d a b t k m) := by
  intro w h; cases h
  exact wordV_fits m (by decide) (by decide) k.isLt (VT.code_lt t) b.isLt a.isLt d.isLt
theorem vandn (d a b : Fin 32) (t : VT) (k : Fin 4) (m : Mark) : Statement (.vandn d a b t k m) := by
  intro w h; cases h
  exact wordV_fits m (by decide) (by decide) k.isLt (VT.code_lt t) b.isLt a.isLt d.isLt
theorem vshl (d a b : Fin 32) (t : VT) (k : Fin 4) (m : Mark) : Statement (.vshl d a b t k m) := by
  intro w h; cases h
  exact wordV_fits m (by decide) (by decide) k.isLt (VT.code_lt t) b.isLt a.isLt d.isLt
theorem vshr (d a b : Fin 32) (t : VT) (k : Fin 4) (m : Mark) : Statement (.vshr d a b t k m) := by
  intro w h; cases h
  exact wordV_fits m (by decide) (by decide) k.isLt (VT.code_lt t) b.isLt a.isLt d.isLt
theorem vsra (d a b : Fin 32) (t : VT) (k : Fin 4) (m : Mark) : Statement (.vsra d a b t k m) := by
  intro w h; cases h
  exact wordV_fits m (by decide) (by decide) k.isLt (VT.code_lt t) b.isLt a.isLt d.isLt
theorem vrot (d a b : Fin 32) (t : VT) (k : Fin 4) (m : Mark) : Statement (.vrot d a b t k m) := by
  intro w h; cases h
  exact wordV_fits m (by decide) (by decide) k.isLt (VT.code_lt t) b.isLt a.isLt d.isLt
theorem vceq (d : Fin 8) (a b : Fin 32) (t : VT) (k : Fin 4) (m : Mark) : Statement (.vceq d a b t k m) := by
  intro w h; cases h
  exact wordV_fits m (by decide) (by decide) k.isLt (VT.code_lt t) b.isLt a.isLt (by omega)
theorem vclt (d : Fin 8) (a b : Fin 32) (t : VT) (k : Fin 4) (m : Mark) : Statement (.vclt d a b t k m) := by
  intro w h; cases h
  exact wordV_fits m (by decide) (by decide) k.isLt (VT.code_lt t) b.isLt a.isLt (by omega)
theorem vcle (d : Fin 8) (a b : Fin 32) (t : VT) (k : Fin 4) (m : Mark) : Statement (.vcle d a b t k m) := by
  intro w h; cases h
  exact wordV_fits m (by decide) (by decide) k.isLt (VT.code_lt t) b.isLt a.isLt (by omega)
theorem vcne (d : Fin 8) (a b : Fin 32) (t : VT) (k : Fin 4) (m : Mark) : Statement (.vcne d a b t k m) := by
  intro w h; cases h
  exact wordV_fits m (by decide) (by decide) k.isLt (VT.code_lt t) b.isLt a.isLt (by omega)
theorem vsel (d a b : Fin 32) (t : VT) (k : Fin 4) (m : Mark) : Statement (.vsel d a b t k m) := by
  intro w h; cases h
  exact wordV_fits m (by decide) (by decide) k.isLt (VT.code_lt t) b.isLt a.isLt d.isLt
theorem vmov (d a : Fin 32) (t : VT) (k : Fin 4) (m : Mark) : Statement (.vmov d a t k m) := by
  intro w h; cases h
  exact wordV_fits m (by decide) (by decide) k.isLt (VT.code_lt t) (by decide) a.isLt d.isLt
theorem vbcast (d a : Fin 32) (t : VT) (k : Fin 4) (m : Mark) : Statement (.vbcast d a t k m) := by
  intro w h; cases h
  exact wordV_fits m (by decide) (by decide) k.isLt (VT.code_lt t) (by decide) a.isLt d.isLt
theorem vzero (d : Fin 32) (t : VT) (k : Fin 4) (m : Mark) : Statement (.vzero d t k m) := by
  intro w h; cases h
  exact wordV_fits m (by decide) (by decide) k.isLt (VT.code_lt t) (by decide) (by decide) d.isLt
theorem vcvtSame (d a : Fin 32) (t u : VT) (k : Fin 4) (m : Mark) : Statement (.vcvtSame d a t u k m) := by
  intro w h; cases h
  exact wordV_fits m (by decide) (by decide) k.isLt (VT.code_lt t) (Nat.lt_trans (VT.code_lt u) (by decide)) a.isLt d.isLt
theorem vcvtWiden2 (d a : Fin 32) (t u : VT) (k : Fin 4) (m : Mark) : Statement (.vcvtWiden2 d a t u k m) := by
  intro w h; cases h
  exact wordV_fits m (by decide) (by decide) k.isLt (VT.code_lt t) (Nat.lt_trans (VT.code_lt u) (by decide)) a.isLt d.isLt
theorem vcvtWiden4 (d a : Fin 32) (t u : VT) (k : Fin 4) (m : Mark) : Statement (.vcvtWiden4 d a t u k m) := by
  intro w h; cases h
  exact wordV_fits m (by decide) (by decide) k.isLt (VT.code_lt t) (Nat.lt_trans (VT.code_lt u) (by decide)) a.isLt d.isLt
theorem vcvtNarrow (d a : Fin 32) (t u : VT) (k : Fin 4) (m : Mark) : Statement (.vcvtNarrow d a t u k m) := by
  intro w h; cases h
  exact wordV_fits m (by decide) (by decide) k.isLt (VT.code_lt t) (Nat.lt_trans (VT.code_lt u) (by decide)) a.isLt d.isLt
theorem vredsum (d a : Fin 32) (t : VT) (k : Fin 4) (m : Mark) : Statement (.vredsum d a t k m) := by
  intro w h; cases h
  exact wordV_fits m (by decide) (by decide) k.isLt (VT.code_lt t) (by decide) a.isLt d.isLt
theorem vredmax (d a : Fin 32) (t : VT) (k : Fin 4) (m : Mark) : Statement (.vredmax d a t k m) := by
  intro w h; cases h
  exact wordV_fits m (by decide) (by decide) k.isLt (VT.code_lt t) (by decide) a.isLt d.isLt
theorem vredmin (d a : Fin 32) (t : VT) (k : Fin 4) (m : Mark) : Statement (.vredmin d a t k m) := by
  intro w h; cases h
  exact wordV_fits m (by decide) (by decide) k.isLt (VT.code_lt t) (by decide) a.isLt d.isLt
theorem vdot (d a b : Fin 32) (t : VT) (k : Fin 4) (m : Mark) : Statement (.vdot d a b t k m) := by
  intro w h; cases h
  exact wordV_fits m (by decide) (by decide) k.isLt (VT.code_lt t) b.isLt a.isLt d.isLt
theorem vperm (d a b : Fin 32) (t : VT) (k : Fin 4) (m : Mark) : Statement (.vperm d a b t k m) := by
  intro w h; cases h
  exact wordV_fits m (by decide) (by decide) k.isLt (VT.code_lt t) b.isLt a.isLt d.isLt
theorem vslide (d a b : Fin 32) (t : VT) (k : Fin 4) (m : Mark) : Statement (.vslide d a b t k m) := by
  intro w h; cases h
  exact wordV_fits m (by decide) (by decide) k.isLt (VT.code_lt t) b.isLt a.isLt d.isLt
theorem vext (d a b : Fin 32) (t : VT) (m : Mark) : Statement (.vext d a b t m) := by
  intro w h; cases h
  exact wordV_fits m (by decide) (by decide) (by decide) (VT.code_lt t) b.isLt a.isLt d.isLt
theorem vins (d a b : Fin 32) (t : VT) (m : Mark) : Statement (.vins d a b t m) := by
  intro w h; cases h
  exact wordV_fits m (by decide) (by decide) (by decide) (VT.code_lt t) b.isLt a.isLt d.isLt
theorem vldT (d a : Fin 32) (t : VT) (k : Fin 4) (m : Mark) : Statement (.vldT d a t k m) := by
  intro w h; cases h
  exact wordV_fits m (by decide) (by decide) k.isLt (VT.code_lt t) (by decide) a.isLt d.isLt
theorem vldL (d a : Fin 32) (t : VT) (k : Fin 4) (m : Mark) : Statement (.vldL d a t k m) := by
  intro w h; cases h
  exact wordV_fits m (by decide) (by decide) k.isLt (VT.code_lt t) (by decide) a.isLt d.isLt
theorem vldxT (d a b : Fin 32) (t : VT) (k : Fin 4) (m : Mark) : Statement (.vldxT d a b t k m) := by
  intro w h; cases h
  exact wordV_fits m (by decide) (by decide) k.isLt (VT.code_lt t) b.isLt a.isLt d.isLt
theorem vstT (d a : Fin 32) (t : VT) (k : Fin 4) (m : Mark) : Statement (.vstT d a t k m) := by
  intro w h; cases h
  exact wordV_fits m (by decide) (by decide) k.isLt (VT.code_lt t) (by decide) a.isLt d.isLt
theorem vstL (d a : Fin 32) (t : VT) (k : Fin 4) (m : Mark) : Statement (.vstL d a t k m) := by
  intro w h; cases h
  exact wordV_fits m (by decide) (by decide) k.isLt (VT.code_lt t) (by decide) a.isLt d.isLt
theorem vstxT (d a b : Fin 32) (t : VT) (k : Fin 4) (m : Mark) : Statement (.vstxT d a b t k m) := by
  intro w h; cases h
  exact wordV_fits m (by decide) (by decide) k.isLt (VT.code_lt t) b.isLt a.isLt d.isLt
theorem vrcp (d a : Fin 32) (t : VT) (k : Fin 4) (m : Mark) : Statement (.vrcp d a t k m) := by
  intro w h; cases h
  exact wordV_fits m (by decide) (by decide) k.isLt (VT.code_lt t) (by decide) a.isLt d.isLt
theorem vrsq (d a : Fin 32) (t : VT) (k : Fin 4) (m : Mark) : Statement (.vrsq d a t k m) := by
  intro w h; cases h
  exact wordV_fits m (by decide) (by decide) k.isLt (VT.code_lt t) (by decide) a.isLt d.isLt
theorem vexp2 (d a : Fin 32) (t : VT) (k : Fin 4) (m : Mark) : Statement (.vexp2 d a t k m) := by
  intro w h; cases h
  exact wordV_fits m (by decide) (by decide) k.isLt (VT.code_lt t) (by decide) a.isLt d.isLt
theorem vlog2 (d a : Fin 32) (t : VT) (k : Fin 4) (m : Mark) : Statement (.vlog2 d a t k m) := by
  intro w h; cases h
  exact wordV_fits m (by decide) (by decide) k.isLt (VT.code_lt t) (by decide) a.isLt d.isLt
theorem vsin (d a : Fin 32) (t : VT) (k : Fin 4) (m : Mark) : Statement (.vsin d a t k m) := by
  intro w h; cases h
  exact wordV_fits m (by decide) (by decide) k.isLt (VT.code_lt t) (by decide) a.isLt d.isLt
theorem vcos (d a : Fin 32) (t : VT) (k : Fin 4) (m : Mark) : Statement (.vcos d a t k m) := by
  intro w h; cases h
  exact wordV_fits m (by decide) (by decide) k.isLt (VT.code_lt t) (by decide) a.isLt d.isLt
theorem vtanh (d a : Fin 32) (t : VT) (k : Fin 4) (m : Mark) : Statement (.vtanh d a t k m) := by
  intro w h; cases h
  exact wordV_fits m (by decide) (by decide) k.isLt (VT.code_lt t) (by decide) a.isLt d.isLt
theorem vsigm (d a : Fin 32) (t : VT) (k : Fin 4) (m : Mark) : Statement (.vsigm d a t k m) := by
  intro w h; cases h
  exact wordV_fits m (by decide) (by decide) k.isLt (VT.code_lt t) (by decide) a.isLt d.isLt
theorem vrcpr (d a b : Fin 32) (k : Fin 4) (m : Mark) : Statement (.vrcpr d a b k m) := by
  intro w h; cases h
  exact wordV_fits m (by decide) (by decide) k.isLt (by decide) b.isLt a.isLt d.isLt
theorem vrsqr (d a b : Fin 32) (k : Fin 4) (m : Mark) : Statement (.vrsqr d a b k m) := by
  intro w h; cases h
  exact wordV_fits m (by decide) (by decide) k.isLt (by decide) b.isLt a.isLt d.isLt
theorem vrnd (d a : Fin 32) (t : VT) (k : Fin 4) (m : Mark) : Statement (.vrnd d a t k m) := by
  intro w h; cases h
  exact wordV_fits m (by decide) (by decide) k.isLt (VT.code_lt t) (by decide) a.isLt d.isLt
theorem vfloor (d a : Fin 32) (t : VT) (k : Fin 4) (m : Mark) : Statement (.vfloor d a t k m) := by
  intro w h; cases h
  exact wordV_fits m (by decide) (by decide) k.isLt (VT.code_lt t) (by decide) a.isLt d.isLt
theorem vtpack (d a : Fin 32) (m : Mark) : Statement (.vtpack d a m) := by
  intro w h; cases h
  exact wordV_fits m (by decide) (by decide) (by decide) (by decide) (by decide) a.isLt d.isLt
theorem vtunp (d a : Fin 32) (m : Mark) : Statement (.vtunp d a m) := by
  intro w h; cases h
  exact wordV_fits m (by decide) (by decide) (by decide) (by decide) (by decide) a.isLt d.isLt
theorem vtqnt (d a b : Fin 32) (k : Fin 4) (m : Mark) : Statement (.vtqnt d a b k m) := by
  intro w h; cases h
  exact wordV_fits m (by decide) (by decide) k.isLt (by decide) b.isLt a.isLt d.isLt
theorem vtchk (d : Fin 8) (a : Fin 32) (m : Mark) : Statement (.vtchk d a m) := by
  intro w h; cases h
  exact wordV_fits m (by decide) (by decide) (by decide) (by decide) (by decide) a.isLt (by omega)
theorem kand (d a b : Fin 8) (m : Mark) : Statement (.kand d a b m) := by
  intro w h; cases h
  exact wordV_fits m (by decide) (by decide) (by decide) (by decide) (by omega) (by omega) (by omega)
theorem kor (d a b : Fin 8) (m : Mark) : Statement (.kor d a b m) := by
  intro w h; cases h
  exact wordV_fits m (by decide) (by decide) (by decide) (by decide) (by omega) (by omega) (by omega)
theorem kxor (d a b : Fin 8) (m : Mark) : Statement (.kxor d a b m) := by
  intro w h; cases h
  exact wordV_fits m (by decide) (by decide) (by decide) (by decide) (by omega) (by omega) (by omega)
theorem knot (d a : Fin 8) (m : Mark) : Statement (.knot d a m) := by
  intro w h; cases h
  exact wordV_fits m (by decide) (by decide) (by decide) (by decide) (by decide) (by omega) (by omega)
theorem kpop (d : Fin 32) (a : Fin 8) (m : Mark) : Statement (.kpop d a m) := by
  intro w h; cases h
  exact wordV_fits m (by decide) (by decide) (by decide) (by decide) (by decide) (by omega) d.isLt
theorem kfirst (d : Fin 32) (a : Fin 8) (m : Mark) : Statement (.kfirst d a m) := by
  intro w h; cases h
  exact wordV_fits m (by decide) (by decide) (by decide) (by decide) (by decide) (by omega) d.isLt
theorem kset (d : Fin 8) (a b : Fin 32) (m : Mark) : Statement (.kset d a b m) := by
  intro w h; cases h
  exact wordV_fits m (by decide) (by decide) (by decide) (by decide) b.isLt a.isLt (by omega)
theorem kmv (d a : Fin 8) (m : Mark) : Statement (.kmv d a m) := by
  intro w h; cases h
  exact wordV_fits m (by decide) (by decide) (by decide) (by decide) (by decide) (by omega) (by omega)
theorem vaddsat (d a b : Fin 32) (t : VT) (k : Fin 4) (m : Mark) : Statement (.vaddsat d a b t k m) := by
  intro w h; cases h
  exact wordV_fits m (by decide) (by decide) k.isLt (VT.code_lt t) b.isLt a.isLt d.isLt
theorem vsubsat (d a b : Fin 32) (t : VT) (k : Fin 4) (m : Mark) : Statement (.vsubsat d a b t k m) := by
  intro w h; cases h
  exact wordV_fits m (by decide) (by decide) k.isLt (VT.code_lt t) b.isLt a.isLt d.isLt
theorem vmulh (d a b : Fin 32) (t : VT) (k : Fin 4) (m : Mark) : Statement (.vmulh d a b t k m) := by
  intro w h; cases h
  exact wordV_fits m (by decide) (by decide) k.isLt (VT.code_lt t) b.isLt a.isLt d.isLt
theorem vabsdiff (d a b : Fin 32) (t : VT) (k : Fin 4) (m : Mark) : Statement (.vabsdiff d a b t k m) := by
  intro w h; cases h
  exact wordV_fits m (by decide) (by decide) k.isLt (VT.code_lt t) b.isLt a.isLt d.isLt
theorem xchg (d a b : Name) (m : Mark) : Statement (.xchg d a b m) := by
  intro w h; cases h
  exact wordA_fits m (by decide) (by decide) (Name.code_lt b) (Name.code_lt a) (Name.code_lt d)
theorem send (a b : Name) (o : Bool) (m : Mark) : Statement (.send a b o m) := by
  intro w h; cases h
  exact wordA_fits m (by decide) (by have := boolNat_lt o; omega) (Name.code_lt b) (Name.code_lt a) (by decide)
theorem sendHalf (a : Name) (o : Bool) (m : Mark) : Statement (.sendHalf a o m) := by
  intro w h; cases h
  exact wordA_fits m (by decide) (by have := boolNat_lt o; omega) (by decide) (Name.code_lt a) (by decide)
theorem sendDraw (a b : Name) (o : Bool) (m : Mark) : Statement (.sendDraw a b o m) := by
  intro w h; cases h
  exact wordA_fits m (by decide) (by have := boolNat_lt o; omega) (Name.code_lt b) (Name.code_lt a) (by decide)
theorem sendRop (a b : Name) (o : Bool) (m : Mark) : Statement (.sendRop a b o m) := by
  intro w h; cases h
  exact wordA_fits m (by decide) (by have := boolNat_lt o; omega) (Name.code_lt b) (Name.code_lt a) (by decide)
theorem wgtWget (d : Name) (m : Mark) : Statement (.wgtWget d m) := by
  intro w h; cases h
  exact wordA_fits m (by decide) (by decide) (by decide) (by decide) (Name.code_lt d)
theorem wgtWtotal (d : Name) (m : Mark) : Statement (.wgtWtotal d m) := by
  intro w h; cases h
  exact wordA_fits m (by decide) (by decide) (by decide) (by decide) (Name.code_lt d)
theorem wgtWret (a : Name) (m : Mark) : Statement (.wgtWret a m) := by
  intro w h; cases h
  exact wordA_fits m (by decide) (by decide) (by decide) (Name.code_lt a) (by decide)
theorem wgtQarm (a b : Name) (m : Mark) : Statement (.wgtQarm a b m) := by
  intro w h; cases h
  exact wordA_fits m (by decide) (by decide) (Name.code_lt b) (Name.code_lt a) (by decide)
theorem wgtQdisarm (m : Mark) : Statement (.wgtQdisarm m) := by
  intro w h; cases h
  exact wordA_fits m (by decide) (by decide) (by decide) (by decide) (by decide)
theorem wgtWcensus (a b : Name) (m : Mark) : Statement (.wgtWcensus a b m) := by
  intro w h; cases h
  exact wordA_fits m (by decide) (by decide) (Name.code_lt b) (Name.code_lt a) (by decide)
theorem wgtWloss (a b : Name) (m : Mark) : Statement (.wgtWloss a b m) := by
  intro w h; cases h
  exact wordA_fits m (by decide) (by decide) (Name.code_lt b) (Name.code_lt a) (by decide)
theorem grd (a b : Name) (q l : Bool) (m : Mark) : Statement (.grd a b q l m) := by
  intro w h; cases h
  exact wordA_fits m (by decide) (by have := boolNat_lt l; have := boolNat_lt q; omega) (Name.code_lt b) (Name.code_lt a) (by decide)
theorem gwr (a b : Name) (q l : Bool) (m : Mark) : Statement (.gwr a b q l m) := by
  intro w h; cases h
  exact wordA_fits m (by decide) (by have := boolNat_lt l; have := boolNat_lt q; omega) (Name.code_lt b) (Name.code_lt a) (by decide)
theorem gst (d a : Name) (o : BitVec 6) (z : Size) (q : Bool) (m : Mark) : Statement (.gst d a o z q m) := by
  intro w h; cases h
  exact wordM_fits m (by decide) o.isLt (boolNat_lt q) (by decide) (Size.code_lt z) (Name.code_lt a) (Name.code_lt d)
theorem nearAtomAdd (a b : Name) (m : Mark) : Statement (.nearAtomAdd a b m) := by
  intro w h; cases h
  exact wordA_fits m (by decide) (by decide) (Name.code_lt b) (Name.code_lt a) (by decide)
theorem nearAtomMax (a b : Name) (m : Mark) : Statement (.nearAtomMax a b m) := by
  intro w h; cases h
  exact wordA_fits m (by decide) (by decide) (Name.code_lt b) (Name.code_lt a) (by decide)
theorem nearAtomCas (a b : Name) (m : Mark) : Statement (.nearAtomCas a b m) := by
  intro w h; cases h
  exact wordA_fits m (by decide) (by decide) (Name.code_lt b) (Name.code_lt a) (by decide)
theorem nearCas4 (a b : Name) (m : Mark) : Statement (.nearCas4 a b m) := by
  intro w h; cases h
  exact wordA_fits m (by decide) (by decide) (Name.code_lt b) (Name.code_lt a) (by decide)
theorem nearEnq (a b : Name) (m : Mark) : Statement (.nearEnq a b m) := by
  intro w h; cases h
  exact wordA_fits m (by decide) (by decide) (Name.code_lt b) (Name.code_lt a) (by decide)
theorem nearChase (a b : Name) (m : Mark) : Statement (.nearChase a b m) := by
  intro w h; cases h
  exact wordA_fits m (by decide) (by decide) (Name.code_lt b) (Name.code_lt a) (by decide)
theorem nearRedAddF32 (a b : Name) (m : Mark) : Statement (.nearRedAddF32 a b m) := by
  intro w h; cases h
  exact wordA_fits m (by decide) (by decide) (Name.code_lt b) (Name.code_lt a) (by decide)
theorem nearRedMaxF32 (a b : Name) (m : Mark) : Statement (.nearRedMaxF32 a b m) := by
  intro w h; cases h
  exact wordA_fits m (by decide) (by decide) (Name.code_lt b) (Name.code_lt a) (by decide)
theorem nearRedAddI32 (a b : Name) (m : Mark) : Statement (.nearRedAddI32 a b m) := by
  intro w h; cases h
  exact wordA_fits m (by decide) (by decide) (Name.code_lt b) (Name.code_lt a) (by decide)
theorem nearXswap (a b : Name) (m : Mark) : Statement (.nearXswap a b m) := by
  intro w h; cases h
  exact wordA_fits m (by decide) (by decide) (Name.code_lt b) (Name.code_lt a) (by decide)
theorem cpy (d a b : Name) (m : Mark) : Statement (.cpy d a b m) := by
  intro w h; cases h
  exact wordA_fits m (by decide) (by decide) (Name.code_lt b) (Name.code_lt a) (Name.code_lt d)
theorem cpyWalk (d a b : Name) (m : Mark) : Statement (.cpyWalk d a b m) := by
  intro w h; cases h
  exact wordA_fits m (by decide) (by decide) (Name.code_lt b) (Name.code_lt a) (Name.code_lt d)
theorem cqry (d a : Name) (m : Mark) : Statement (.cqry d a m) := by
  intro w h; cases h
  exact wordA_fits m (by decide) (by decide) (by decide) (Name.code_lt a) (Name.code_lt d)
theorem cpyCancel (d a : Name) (m : Mark) : Statement (.cpyCancel d a m) := by
  intro w h; cases h
  exact wordA_fits m (by decide) (by decide) (by decide) (Name.code_lt a) (Name.code_lt d)
theorem tmm (d a b : Name) (m : Mark) : Statement (.tmm d a b m) := by
  intro w h; cases h
  exact wordA_fits m (by decide) (by decide) (Name.code_lt b) (Name.code_lt a) (Name.code_lt d)
theorem tstat (d a : Name) (m : Mark) : Statement (.tstat d a m) := by
  intro w h; cases h
  exact wordA_fits m (by decide) (by decide) (by decide) (Name.code_lt a) (Name.code_lt d)
theorem tabort (d a : Name) (m : Mark) : Statement (.tabort d a m) := by
  intro w h; cases h
  exact wordA_fits m (by decide) (by decide) (by decide) (Name.code_lt a) (Name.code_lt d)
theorem trgPost (d a b : Name) (m : Mark) : Statement (.trgPost d a b m) := by
  intro w h; cases h
  exact wordA_fits m (by decide) (by decide) (Name.code_lt b) (Name.code_lt a) (Name.code_lt d)
theorem trgAdd (a b : Name) (m : Mark) : Statement (.trgAdd a b m) := by
  intro w h; cases h
  exact wordA_fits m (by decide) (by decide) (Name.code_lt b) (Name.code_lt a) (by decide)
theorem trgRead (d a : Name) (m : Mark) : Statement (.trgRead d a m) := by
  intro w h; cases h
  exact wordA_fits m (by decide) (by decide) (by decide) (Name.code_lt a) (Name.code_lt d)
theorem trgCancel (d a : Name) (m : Mark) : Statement (.trgCancel d a m) := by
  intro w h; cases h
  exact wordA_fits m (by decide) (by decide) (by decide) (Name.code_lt a) (Name.code_lt d)
theorem trgAlloc (d : Name) (m : Mark) : Statement (.trgAlloc d m) := by
  intro w h; cases h
  exact wordA_fits m (by decide) (by decide) (by decide) (by decide) (Name.code_lt d)
theorem trgFree (a : Name) (m : Mark) : Statement (.trgFree a m) := by
  intro w h; cases h
  exact wordA_fits m (by decide) (by decide) (by decide) (Name.code_lt a) (by decide)
theorem nred (a b : Name) (m : Mark) : Statement (.nred a b m) := by
  intro w h; cases h
  exact wordA_fits m (by decide) (by decide) (Name.code_lt b) (Name.code_lt a) (by decide)
theorem nrdef (a b : Name) (m : Mark) : Statement (.nrdef a b m) := by
  intro w h; cases h
  exact wordA_fits m (by decide) (by decide) (Name.code_lt b) (Name.code_lt a) (by decide)
theorem nrfree (a b : Name) (m : Mark) : Statement (.nrfree a b m) := by
  intro w h; cases h
  exact wordA_fits m (by decide) (by decide) (Name.code_lt b) (Name.code_lt a) (by decide)
theorem fnew (a b : Name) (m : Mark) : Statement (.fnew a b m) := by
  intro w h; cases h
  exact wordA_fits m (by decide) (by decide) (Name.code_lt b) (Name.code_lt a) (by decide)
theorem fset (a b : Name) (m : Mark) : Statement (.fset a b m) := by
  intro w h; cases h
  exact wordA_fits m (by decide) (by decide) (Name.code_lt b) (Name.code_lt a) (by decide)
theorem fwait (a b : Name) (m : Mark) : Statement (.fwait a b m) := by
  intro w h; cases h
  exact wordA_fits m (by decide) (by decide) (Name.code_lt b) (Name.code_lt a) (by decide)
theorem ffree (a b : Name) (m : Mark) : Statement (.ffree a b m) := by
  intro w h; cases h
  exact wordA_fits m (by decide) (by decide) (Name.code_lt b) (Name.code_lt a) (by decide)
theorem fpeek (a b : Name) (m : Mark) : Statement (.fpeek a b m) := by
  intro w h; cases h
  exact wordA_fits m (by decide) (by decide) (Name.code_lt b) (Name.code_lt a) (by decide)
theorem fence (k : FenceKind) (c : Scope) (a b : BitVec 7) (m : Mark) : Statement (.fence k c a b m) := by
  intro w h; cases h
  exact wordFence_fits m (FenceKind.code_lt k) (Scope.code_lt c) a.isLt b.isLt
theorem launch (a b : Name) (m : Mark) : Statement (.launch a b m) := by
  intro w h; cases h
  exact wordA_fits m (by decide) (by decide) (Name.code_lt b) (Name.code_lt a) (by decide)
theorem sysMfs (d a : Name) (m : Mark) : Statement (.sysMfs d a m) := by
  intro w h; cases h
  exact wordA_fits m (by decide) (by decide) (by decide) (Name.code_lt a) (Name.code_lt d)
theorem sysMts (a b : Name) (m : Mark) : Statement (.sysMts a b m) := by
  intro w h; cases h
  exact wordA_fits m (by decide) (by decide) (Name.code_lt b) (Name.code_lt a) (by decide)
theorem sysCtxsave (a b : Name) (m : Mark) : Statement (.sysCtxsave a b m) := by
  intro w h; cases h
  exact wordA_fits m (by decide) (by decide) (Name.code_lt b) (Name.code_lt a) (by decide)
theorem sysCtxload (a b : Name) (m : Mark) : Statement (.sysCtxload a b m) := by
  intro w h; cases h
  exact wordA_fits m (by decide) (by decide) (Name.code_lt b) (Name.code_lt a) (by decide)
theorem sysHalt (a : Name) (m : Mark) : Statement (.sysHalt a m) := by
  intro w h; cases h
  exact wordA_fits m (by decide) (by decide) (by decide) (Name.code_lt a) (by decide)
theorem sysSysnote (a b : Name) (m : Mark) : Statement (.sysSysnote a b m) := by
  intro w h; cases h
  exact wordA_fits m (by decide) (by decide) (Name.code_lt b) (Name.code_lt a) (by decide)
theorem spref (a b : Name) (m : Mark) : Statement (.spref a b m) := by
  intro w h; cases h
  exact wordA_fits m (by decide) (by decide) (Name.code_lt b) (Name.code_lt a) (by decide)
theorem limm (p : BitVec 22) : Statement (.limm p) := by
  intro w h; cases h
  exact wordJ_fits ⟨0, false⟩ (by decide) p.isLt
theorem compactMov (x : Fin 32) (y : BitVec 4) (s : Bool) : Statement (.compactMov x y s) := by
  intro w h; cases h
  exact wordCompact_fits s (by decide) x.isLt y.isLt
theorem compactAdd (x : Fin 32) (y : BitVec 4) (s : Bool) : Statement (.compactAdd x y s) := by
  intro w h; cases h
  exact wordCompact_fits s (by decide) x.isLt y.isLt
theorem compactSub (x : Fin 32) (y : BitVec 4) (s : Bool) : Statement (.compactSub x y s) := by
  intro w h; cases h
  exact wordCompact_fits s (by decide) x.isLt y.isLt
theorem compactAddi (x : Fin 32) (y : BitVec 4) (s : Bool) : Statement (.compactAddi x y s) := by
  intro w h; cases h
  exact wordCompact_fits s (by decide) x.isLt y.isLt
theorem compactAnd (x : Fin 32) (y : BitVec 4) (s : Bool) : Statement (.compactAnd x y s) := by
  intro w h; cases h
  exact wordCompact_fits s (by decide) x.isLt y.isLt
theorem compactShl (x : Fin 32) (y : BitVec 4) (s : Bool) : Statement (.compactShl x y s) := by
  intro w h; cases h
  exact wordCompact_fits s (by decide) x.isLt y.isLt
theorem compactShr (x : Fin 32) (y : BitVec 4) (s : Bool) : Statement (.compactShr x y s) := by
  intro w h; cases h
  exact wordCompact_fits s (by decide) x.isLt y.isLt
theorem compactLdlD (x : Fin 32) (y : BitVec 4) (s : Bool) : Statement (.compactLdlD x y s) := by
  intro w h; cases h
  exact wordCompact_fits s (by decide) x.isLt y.isLt
theorem compactStlD (x : Fin 32) (y : BitVec 4) (s : Bool) : Statement (.compactStlD x y s) := by
  intro w h; cases h
  exact wordCompact_fits s (by decide) x.isLt y.isLt
theorem compactBeqz (x : Fin 32) (y : BitVec 4) (s : Bool) : Statement (.compactBeqz x y s) := by
  intro w h; cases h
  exact wordCompact_fits s (by decide) x.isLt y.isLt
theorem compactBnez (x : Fin 32) (y : BitVec 4) (s : Bool) : Statement (.compactBnez x y s) := by
  intro w h; cases h
  exact wordCompact_fits s (by decide) x.isLt y.isLt
theorem compactEnd (s : Bool) : Statement (.compactEnd s) := by
  intro w h; cases h
  exact wordCompact_fits s (by decide) (by decide) (by decide)
theorem compactNop (s : Bool) : Statement (.compactNop s) := by
  intro w h; cases h
  exact wordCompact_fits s (by decide) (by decide) (by decide)
theorem compactSendHalf (x : Fin 32) (s : Bool) : Statement (.compactSendHalf x s) := by
  intro w h; cases h
  exact wordCompact_fits s (by decide) x.isLt (by decide)
theorem compactRet (s : Bool) : Statement (.compactRet s) := by
  intro w h; cases h
  exact wordCompact_fits s (by decide) (by decide) (by decide)
theorem compactCmov (x : Fin 32) (y : BitVec 4) (s : Bool) : Statement (.compactCmov x y s) := by
  intro w h; cases h
  exact wordCompact_fits s (by decide) x.isLt y.isLt
theorem taskStart (tile core : Nat) : Statement (.taskStart tile core) := by intro w h; cases h
theorem remoteOpStart (tile core : Nat) : Statement (.remoteOpStart tile core) := by intro w h; cases h
theorem drainTaskStart (tile : Nat) : Statement (.drainTaskStart tile) := by intro w h; cases h
theorem taskEnd (ctx : Nat) : Statement (.taskEnd ctx) := by intro w h; cases h
theorem vectorOpStart (tile : Nat) : Statement (.vectorOpStart tile) := by intro w h; cases h
theorem vectorOpComplete (op : Nat) : Statement (.vectorOpComplete op) := by intro w h; cases h
theorem sfuServiceStart (tile : Nat) : Statement (.sfuServiceStart tile) := by intro w h; cases h
theorem sfuResult (op : Nat) : Statement (.sfuResult op) := by intro w h; cases h
theorem ldtResult (op : Nat) : Statement (.ldtResult op) := by intro w h; cases h
theorem divideResult (op : Nat) : Statement (.divideResult op) := by intro w h; cases h
theorem tileStoreLand (store : Nat) : Statement (.tileStoreLand store) := by intro w h; cases h
theorem budgetExpiry (ctx : Nat) : Statement (.budgetExpiry ctx) := by intro w h; cases h
theorem unitRetryReinject (job level unit : Nat) : Statement (.unitRetryReinject job level unit) := by intro w h; cases h
theorem messageArrival (pkt : Nat) : Statement (.messageArrival pkt) := by intro w h; cases h
theorem messageRefusal (pkt : Nat) : Statement (.messageRefusal pkt) := by intro w h; cases h
theorem messageResend (out : Nat) : Statement (.messageResend out) := by intro w h; cases h
theorem sendAcceptReport (pkt : Nat) : Statement (.sendAcceptReport pkt) := by intro w h; cases h
theorem spillReinjectOffer (job : Nat) : Statement (.spillReinjectOffer job) := by intro w h; cases h
theorem holdAck (pkt : Nat) : Statement (.holdAck pkt) := by intro w h; cases h
theorem accessAck (acc : Nat) : Statement (.accessAck acc) := by intro w h; cases h
theorem routerSwitch (pkt : Nat) : Statement (.routerSwitch pkt) := by intro w h; cases h
theorem routerGate (p y : Nat) : Statement (.routerGate p y) := by intro w h; cases h
theorem routerWake (p y : Nat) : Statement (.routerWake p y) := by intro w h; cases h
theorem routerReady (p y : Nat) : Statement (.routerReady p y) := by intro w h; cases h
theorem chainChunk (node : Nat) : Statement (.chainChunk node) := by intro w h; cases h
theorem chainGrant (node : Nat) : Statement (.chainGrant node) := by intro w h; cases h
theorem podArrival (pkt : Nat) : Statement (.podArrival pkt) := by intro w h; cases h
theorem drawArrival (pkt : Nat) : Statement (.drawArrival pkt) := by intro w h; cases h
theorem drawResend (out : Nat) : Statement (.drawResend out) := by intro w h; cases h
theorem armArrival (pkt : Nat) : Statement (.armArrival pkt) := by intro w h; cases h
theorem disarmArrival (pkt : Nat) : Statement (.disarmArrival pkt) := by intro w h; cases h
theorem farSendArrival (pkt : Nat) : Statement (.farSendArrival pkt) := by intro w h; cases h
theorem censusStart (pkt : Nat) : Statement (.censusStart pkt) := by intro w h; cases h
theorem censusMarkerSend (job node : Nat) : Statement (.censusMarkerSend job node) := by intro w h; cases h
theorem censusMarkerArrival (pkt : Nat) : Statement (.censusMarkerArrival pkt) := by intro w h; cases h
theorem wlossServe (pkt : Nat) : Statement (.wlossServe pkt) := by intro w h; cases h
theorem homeCopyBroadcast (job : Nat) : Statement (.homeCopyBroadcast job) := by intro w h; cases h
theorem stationTranslate (pkt : Nat) : Statement (.stationTranslate pkt) := by intro w h; cases h
theorem pageWalk (walk : Nat) : Statement (.pageWalk walk) := by intro w h; cases h
theorem parkedRequestResend (pkt : Nat) : Statement (.parkedRequestResend pkt) := by intro w h; cases h
theorem globalPiecePerform (pkt : Nat) : Statement (.globalPiecePerform pkt) := by intro w h; cases h
theorem pieceLanding (pkt : Nat) : Statement (.pieceLanding pkt) := by intro w h; cases h
theorem nearOpExecute (pkt hint : Nat) : Statement (.nearOpExecute pkt hint) := by intro w h; cases h
theorem chaseForwardArrival (pkt hint : Nat) : Statement (.chaseForwardArrival pkt hint) := by intro w h; cases h
theorem farRetryResend (req : Nat) : Statement (.farRetryResend req) := by intro w h; cases h
theorem storageServiceStart (port : Nat) : Statement (.storageServiceStart port) := by intro w h; cases h
theorem writebackComplete (move : Nat) (ok : Bool) : Statement (.writebackComplete move ok) := by intro w h; cases h
theorem fillComplete (port pte : Nat) (ok : Bool) : Statement (.fillComplete port pte ok) := by intro w h; cases h
theorem nvmeTimeout (port pte : Nat) : Statement (.nvmeTimeout port pte) := by intro w h; cases h
theorem frameWaitRetry (port pte : Nat) : Statement (.frameWaitRetry port pte) := by intro w h; cases h
theorem migrationReview (die region : Nat) : Statement (.migrationReview die region) := by intro w h; cases h
theorem migrationComplete (move : Nat) : Statement (.migrationComplete move) := by intro w h; cases h
theorem copyOffer (tile core : Nat) : Statement (.copyOffer tile core) := by intro w h; cases h
theorem copyPiece (bte req : Nat) : Statement (.copyPiece bte req) := by intro w h; cases h
theorem arrayJobStart (tile : Nat) : Statement (.arrayJobStart tile) := by intro w h; cases h
theorem arrayStep (tile : Nat) : Statement (.arrayStep tile) := by intro w h; cases h
theorem arrayRowDrain (tile : Nat) : Statement (.arrayRowDrain tile) := by intro w h; cases h
theorem arrayJobComplete (tile : Nat) : Statement (.arrayJobComplete tile) := by intro w h; cases h
theorem arrayStopFinish (tile : Nat) : Statement (.arrayStopFinish tile) := by intro w h; cases h
theorem xchgActivate (tile : Nat) : Statement (.xchgActivate tile) := by intro w h; cases h
theorem arriveReceive (pkt : Nat) : Statement (.arriveReceive pkt) := by intro w h; cases h
theorem arriveResend (pkt : Nat) : Statement (.arriveResend pkt) := by intro w h; cases h
theorem xchgRowReceive (pkt : Nat) : Statement (.xchgRowReceive pkt) := by intro w h; cases h
theorem xchgRowAck (pkt : Nat) : Statement (.xchgRowAck pkt) := by intro w h; cases h
theorem xchgTimeout (tile : Nat) : Statement (.xchgTimeout tile) := by intro w h; cases h
theorem triggerArrival (tile pkt : Nat) : Statement (.triggerArrival tile pkt) := by intro w h; cases h
theorem triggerFire (tile : Nat) : Statement (.triggerFire tile) := by intro w h; cases h
theorem nrdefProgram (pkt : Nat) : Statement (.nrdefProgram pkt) := by intro w h; cases h
theorem nrfreeRemove (pkt : Nat) : Statement (.nrfreeRemove pkt) := by intro w h; cases h
theorem contributionArrival (pkt : Nat) : Statement (.contributionArrival pkt) := by intro w h; cases h
theorem routerCombine (p y job nid : Nat) : Statement (.routerCombine p y job nid) := by intro w h; cases h
theorem roundStartNotice (pkt : Nat) : Statement (.roundStartNotice pkt) := by intro w h; cases h
theorem roundTimeout (job nid : Nat) : Statement (.roundTimeout job nid) := by intro w h; cases h
theorem closeArrival (pkt : Nat) : Statement (.closeArrival pkt) := by intro w h; cases h
theorem roundComplete (job nid : Nat) : Statement (.roundComplete job nid) := by intro w h; cases h
theorem futureRequestServe (pkt : Nat) : Statement (.futureRequestServe pkt) := by intro w h; cases h
theorem fwaitResend (req : Nat) : Statement (.fwaitResend req) := by intro w h; cases h
theorem launchRequestArrival (pkt : Nat) : Statement (.launchRequestArrival pkt) := by intro w h; cases h
theorem launchResend (req : Nat) : Statement (.launchResend req) := by intro w h; cases h
theorem launchRecordTake : Statement .launchRecordTake := by intro w h; cases h
theorem launchCreate (source : Nat) : Statement (.launchCreate source) := by intro w h; cases h
theorem rootInject : Statement .rootInject := by intro w h; cases h
theorem contextRestore (req : Nat) : Statement (.contextRestore req) := by intro w h; cases h
theorem savedFarSendSpill (pkt : Nat) : Statement (.savedFarSendSpill pkt) := by intro w h; cases h
theorem checkpointDigestArrival (jtag gen entry chunk : Nat) (digest : List (BitVec 8)) : Statement (.checkpointDigestArrival jtag gen entry chunk digest) := by intro w h; cases h
theorem checkpointFlushDone (e : FlushEnd) : Statement (.checkpointFlushDone e) := by intro w h; cases h
theorem checkpointPeerlost (slot : Nat) : Statement (.checkpointPeerlost slot) := by intro w h; cases h
theorem fabricPacketArrival (port : Nat) (pkt : FabPkt) : Statement (.fabricPacketArrival port pkt) := by intro w h; cases h
theorem fabricNakArrival (port : Nat) (pkt : FabPkt) : Statement (.fabricNakArrival port pkt) := by intro w h; cases h
theorem flitCrcReplay (port : Nat) : Statement (.flitCrcReplay port) := by intro w h; cases h
theorem portDown (port : Nat) : Statement (.portDown port) := by intro w h; cases h
theorem jobTagTimeout (out : Nat) : Statement (.jobTagTimeout out) := by intro w h; cases h
theorem powerGrant (die : Nat) (duties : List Nat) : Statement (.powerGrant die duties) := by intro w h; cases h
theorem thermalCap (die : Nat) : Statement (.thermalCap die) := by intro w h; cases h
theorem thermalHalt (die : Nat) : Statement (.thermalHalt die) := by intro w h; cases h
theorem deviceReset (answers : List Bool) : Statement (.deviceReset answers) := by intro w h; cases h
theorem linkTraining (width speed : Nat) : Statement (.linkTraining width speed) := by intro w h; cases h
theorem hwqDoorbell (fn q tail : Nat) : Statement (.hwqDoorbell fn q tail) := by intro w h; cases h
theorem tlbInvalidate (va : BitVec 64) : Statement (.tlbInvalidate va) := by intro w h; cases h
theorem poolTailWrite (pool tail : Nat) : Statement (.poolTailWrite pool tail) := by intro w h; cases h
theorem jobTagWrite (job : Nat) (value : BitVec 64) : Statement (.jobTagWrite job value) := by intro w h; cases h
theorem routeEntryWrite (d : Nat) (value : BitVec 64) : Statement (.routeEntryWrite d value) := by intro w h; cases h
theorem jobctlResume (job : Nat) : Statement (.jobctlResume job) := by intro w h; cases h
theorem jobctlAbort (job : Nat) : Statement (.jobctlAbort job) := by intro w h; cases h
theorem hostFutureNew : Statement .hostFutureNew := by intro w h; cases h
theorem hostFutureSet : Statement .hostFutureSet := by intro w h; cases h
theorem hostFutureFree : Statement .hostFutureFree := by intro w h; cases h
theorem hostFuturePeek : Statement .hostFuturePeek := by intro w h; cases h
theorem hostWindowRead (off n : Nat) : Statement (.hostWindowRead off n) := by intro w h; cases h
theorem hostWindowWrite (off : Nat) (data : List (BitVec 8)) : Statement (.hostWindowWrite off data) := by intro w h; cases h
theorem getkey : Statement .getkey := by intro w h; cases h
theorem attest (nonce : List (BitVec 8)) : Statement (.attest nonce) := by intro w h; cases h
theorem fwload (addr n : Nat) : Statement (.fwload addr n) := by intro w h; cases h
theorem setbudget (watts : Nat) : Statement (.setbudget watts) := by intro w h; cases h
theorem registerWrite (fn off : Nat) (value : BitVec 64) : Statement (.registerWrite fn off value) := by intro w h; cases h
theorem notAnInstruction : Statement .notAnInstruction := by intro w h; cases h
theorem portUp (port : Nat) : Statement (.portUp port) := by intro w h; cases h
theorem uncorrectableSoftError (e : SoftError) : Statement (.uncorrectableSoftError e) := by intro w h; cases h

end WordFits

end Sys2Proof.Laws
end

