-- ==== Sys2Proof/Laws/State.lean ====
section
/-! SUPPORT. What each update of the state leaves, one lemma per field per update. -/

namespace Sys2Proof.Machine

@[simp] theorem State.setMe_clk (s : State) (c : Ctx) : (s.setMe c).clk = s.clk := rfl
@[simp] theorem State.setMe_cur (s : State) (c : Ctx) : (s.setMe c).cur = s.cur := rfl
@[simp] theorem State.setMe_free (s : State) (c : Ctx) : (s.setMe c).free = s.free := rfl
@[simp] theorem State.setMe_serial (s : State) (c : Ctx) : (s.setMe c).serial = s.serial := rfl
@[simp] theorem State.setMe_turns (s : State) (c : Ctx) : (s.setMe c).turns = s.turns := rfl
@[simp] theorem State.setMe_turnNo (s : State) (c : Ctx) : (s.setMe c).turnNo = s.turnNo := rfl
@[simp] theorem State.setMe_limmOpen (s : State) (c : Ctx) : (s.setMe c).limmOpen = s.limmOpen := rfl
@[simp] theorem State.setMe_tasks (s : State) (c : Ctx) : (s.setMe c).tasks = s.tasks := rfl
@[simp] theorem State.setMe_parties (s : State) (c : Ctx) : (s.setMe c).parties = s.parties := rfl
@[simp] theorem State.setMe_cores (s : State) (c : Ctx) : (s.setMe c).cores = s.cores := rfl
@[simp] theorem State.setMe_chans (s : State) (c : Ctx) : (s.setMe c).chans = s.chans := rfl
@[simp] theorem State.setMe_arrSeqs (s : State) (c : Ctx) : (s.setMe c).arrSeqs = s.arrSeqs := rfl
@[simp] theorem State.setMe_tiles (s : State) (c : Ctx) : (s.setMe c).tiles = s.tiles := rfl
@[simp] theorem State.setMe_ops (s : State) (c : Ctx) : (s.setMe c).ops = s.ops := rfl
@[simp] theorem State.setMe_stores (s : State) (c : Ctx) : (s.setMe c).stores = s.stores := rfl
@[simp] theorem State.setMe_accs (s : State) (c : Ctx) : (s.setMe c).accs = s.accs := rfl
@[simp] theorem State.setMe_outs (s : State) (c : Ctx) : (s.setMe c).outs = s.outs := rfl
@[simp] theorem State.setMe_reqs (s : State) (c : Ctx) : (s.setMe c).reqs = s.reqs := rfl
@[simp] theorem State.setMe_packets (s : State) (c : Ctx) : (s.setMe c).packets = s.packets := rfl
@[simp] theorem State.setMe_routers (s : State) (c : Ctx) : (s.setMe c).routers = s.routers := rfl
@[simp] theorem State.setMe_jobs (s : State) (c : Ctx) : (s.setMe c).jobs = s.jobs := rfl
@[simp] theorem State.setMe_bankfmt (s : State) (c : Ctx) : (s.setMe c).bankfmt = s.bankfmt := rfl
@[simp] theorem State.setMe_saved (s : State) (c : Ctx) : (s.setMe c).saved = s.saved := rfl
@[simp] theorem State.setMe_futures (s : State) (c : Ctx) : (s.setMe c).futures = s.futures := rfl
@[simp] theorem State.setMe_localMem (s : State) (c : Ctx) : (s.setMe c).localMem = s.localMem := rfl
@[simp] theorem State.setMe_scratch (s : State) (c : Ctx) : (s.setMe c).scratch = s.scratch := rfl
@[simp] theorem State.setMe_codeMem (s : State) (c : Ctx) : (s.setMe c).codeMem = s.codeMem := rfl
@[simp] theorem State.setMe_hbm (s : State) (c : Ctx) : (s.setMe c).hbm = s.hbm := rfl
@[simp] theorem State.setMe_hostMem (s : State) (c : Ctx) : (s.setMe c).hostMem = s.hostMem := rfl
@[simp] theorem State.setMe_writes (s : State) (c : Ctx) : (s.setMe c).writes = s.writes := rfl
@[simp] theorem State.setMe_fences (s : State) (c : Ctx) : (s.setMe c).fences = s.fences := rfl
@[simp] theorem State.setMe_gains (s : State) (c : Ctx) : (s.setMe c).gains = s.gains := rfl
@[simp] theorem State.setMe_eccLocal (s : State) (c : Ctx) : (s.setMe c).eccLocal = s.eccLocal := rfl
@[simp] theorem State.setMe_eccScratch (s : State) (c : Ctx) : (s.setMe c).eccScratch = s.eccScratch := rfl
@[simp] theorem State.setMe_eccCode (s : State) (c : Ctx) : (s.setMe c).eccCode = s.eccCode := rfl
@[simp] theorem State.setMe_stationTlb (s : State) (c : Ctx) : (s.setMe c).stationTlb = s.stationTlb := rfl
@[simp] theorem State.setMe_dieTlb (s : State) (c : Ctx) : (s.setMe c).dieTlb = s.dieTlb := rfl
@[simp] theorem State.setMe_walks (s : State) (c : Ctx) : (s.setMe c).walks = s.walks := rfl
@[simp] theorem State.setMe_services (s : State) (c : Ctx) : (s.setMe c).services = s.services := rfl
@[simp] theorem State.setMe_moves (s : State) (c : Ctx) : (s.setMe c).moves = s.moves := rfl
@[simp] theorem State.setMe_counts (s : State) (c : Ctx) : (s.setMe c).counts = s.counts := rfl
@[simp] theorem State.setMe_pools (s : State) (c : Ctx) : (s.setMe c).pools = s.pools := rfl
@[simp] theorem State.setMe_fwdCredits (s : State) (c : Ctx) : (s.setMe c).fwdCredits = s.fwdCredits := rfl
@[simp] theorem State.setMe_btes (s : State) (c : Ctx) : (s.setMe c).btes = s.btes := rfl
@[simp] theorem State.setMe_sqes (s : State) (c : Ctx) : (s.setMe c).sqes = s.sqes := rfl
@[simp] theorem State.setMe_nvme (s : State) (c : Ctx) : (s.setMe c).nvme = s.nvme := rfl
@[simp] theorem State.setMe_queues (s : State) (c : Ctx) : (s.setMe c).queues = s.queues := rfl
@[simp] theorem State.setMe_deviceQ (s : State) (c : Ctx) : (s.setMe c).deviceQ = s.deviceQ := rfl
@[simp] theorem State.setMe_waiting (s : State) (c : Ctx) : (s.setMe c).waiting = s.waiting := rfl
@[simp] theorem State.setMe_loading (s : State) (c : Ctx) : (s.setMe c).loading = s.loading := rfl
@[simp] theorem State.setMe_restores (s : State) (c : Ctx) : (s.setMe c).restores = s.restores := rfl
@[simp] theorem State.setMe_rrQueue (s : State) (c : Ctx) : (s.setMe c).rrQueue = s.rrQueue := rfl
@[simp] theorem State.setMe_chains (s : State) (c : Ctx) : (s.setMe c).chains = s.chains := rfl
@[simp] theorem State.setMe_digests (s : State) (c : Ctx) : (s.setMe c).digests = s.digests := rfl
@[simp] theorem State.setMe_tlbJob (s : State) (c : Ctx) : (s.setMe c).tlbJob = s.tlbJob := rfl
@[simp] theorem State.setMe_tlbAll (s : State) (c : Ctx) : (s.setMe c).tlbAll = s.tlbAll := rfl
@[simp] theorem State.setMe_tlbVa (s : State) (c : Ctx) : (s.setMe c).tlbVa = s.tlbVa := rfl
@[simp] theorem State.setMe_tlbBusy (s : State) (c : Ctx) : (s.setMe c).tlbBusy = s.tlbBusy := rfl
@[simp] theorem State.setMe_devid (s : State) (c : Ctx) : (s.setMe c).devid = s.devid := rfl
@[simp] theorem State.setMe_ports (s : State) (c : Ctx) : (s.setMe c).ports = s.ports := rfl
@[simp] theorem State.setMe_routes (s : State) (c : Ctx) : (s.setMe c).routes = s.routes := rfl
@[simp] theorem State.setMe_fabOut (s : State) (c : Ctx) : (s.setMe c).fabOut = s.fabOut := rfl
@[simp] theorem State.setMe_fabWait (s : State) (c : Ctx) : (s.setMe c).fabWait = s.fabWait := rfl
@[simp] theorem State.setMe_jobTags (s : State) (c : Ctx) : (s.setMe c).jobTags = s.jobTags := rfl
@[simp] theorem State.setMe_privvf (s : State) (c : Ctx) : (s.setMe c).privvf = s.privvf := rfl
@[simp] theorem State.setMe_hostFut (s : State) (c : Ctx) : (s.setMe c).hostFut = s.hostFut := rfl
@[simp] theorem State.setMe_hostKnow (s : State) (c : Ctx) : (s.setMe c).hostKnow = s.hostKnow := rfl
@[simp] theorem State.setMe_winbase (s : State) (c : Ctx) : (s.setMe c).winbase = s.winbase := rfl
@[simp] theorem State.setMe_winbaseOld (s : State) (c : Ctx) : (s.setMe c).winbaseOld = s.winbaseOld := rfl
@[simp] theorem State.setMe_winRead (s : State) (c : Ctx) : (s.setMe c).winRead = s.winRead := rfl
@[simp] theorem State.setMe_msix (s : State) (c : Ctx) : (s.setMe c).msix = s.msix := rfl
@[simp] theorem State.setMe_melbex (s : State) (c : Ctx) : (s.setMe c).melbex = s.melbex := rfl
@[simp] theorem State.setMe_trace (s : State) (c : Ctx) : (s.setMe c).trace = s.trace := rfl
@[simp] theorem State.setMe_log (s : State) (c : Ctx) : (s.setMe c).log = s.log := rfl
@[simp] theorem State.setMe_budget (s : State) (c : Ctx) : (s.setMe c).budget = s.budget := rfl
@[simp] theorem State.setMe_dutyCap (s : State) (c : Ctx) : (s.setMe c).dutyCap = s.dutyCap := rfl
@[simp] theorem State.setMe_halted (s : State) (c : Ctx) : (s.setMe c).halted = s.halted := rfl
@[simp] theorem State.setMe_inReset (s : State) (c : Ctx) : (s.setMe c).inReset = s.inReset := rfl
@[simp] theorem State.setMe_link (s : State) (c : Ctx) : (s.setMe c).link = s.link := rfl
@[simp] theorem State.setMe_ckpt (s : State) (c : Ctx) : (s.setMe c).ckpt = s.ckpt := rfl
@[simp] theorem State.setMe_peerDigests (s : State) (c : Ctx) : (s.setMe c).peerDigests = s.peerDigests := rfl

@[simp] theorem State.setJob_clk (s : State) (n : Nat) (j : Job) : (s.setJob n j).clk = s.clk := rfl
@[simp] theorem State.setJob_cur (s : State) (n : Nat) (j : Job) : (s.setJob n j).cur = s.cur := rfl
@[simp] theorem State.setJob_free (s : State) (n : Nat) (j : Job) : (s.setJob n j).free = s.free := rfl
@[simp] theorem State.setJob_serial (s : State) (n : Nat) (j : Job) : (s.setJob n j).serial = s.serial := rfl
@[simp] theorem State.setJob_turns (s : State) (n : Nat) (j : Job) : (s.setJob n j).turns = s.turns := rfl
@[simp] theorem State.setJob_turnNo (s : State) (n : Nat) (j : Job) : (s.setJob n j).turnNo = s.turnNo := rfl
@[simp] theorem State.setJob_limmOpen (s : State) (n : Nat) (j : Job) : (s.setJob n j).limmOpen = s.limmOpen := rfl
@[simp] theorem State.setJob_ctxs (s : State) (n : Nat) (j : Job) : (s.setJob n j).ctxs = s.ctxs := rfl
@[simp] theorem State.setJob_tasks (s : State) (n : Nat) (j : Job) : (s.setJob n j).tasks = s.tasks := rfl
@[simp] theorem State.setJob_parties (s : State) (n : Nat) (j : Job) : (s.setJob n j).parties = s.parties := rfl
@[simp] theorem State.setJob_cores (s : State) (n : Nat) (j : Job) : (s.setJob n j).cores = s.cores := rfl
@[simp] theorem State.setJob_chans (s : State) (n : Nat) (j : Job) : (s.setJob n j).chans = s.chans := rfl
@[simp] theorem State.setJob_arrSeqs (s : State) (n : Nat) (j : Job) : (s.setJob n j).arrSeqs = s.arrSeqs := rfl
@[simp] theorem State.setJob_tiles (s : State) (n : Nat) (j : Job) : (s.setJob n j).tiles = s.tiles := rfl
@[simp] theorem State.setJob_ops (s : State) (n : Nat) (j : Job) : (s.setJob n j).ops = s.ops := rfl
@[simp] theorem State.setJob_stores (s : State) (n : Nat) (j : Job) : (s.setJob n j).stores = s.stores := rfl
@[simp] theorem State.setJob_accs (s : State) (n : Nat) (j : Job) : (s.setJob n j).accs = s.accs := rfl
@[simp] theorem State.setJob_outs (s : State) (n : Nat) (j : Job) : (s.setJob n j).outs = s.outs := rfl
@[simp] theorem State.setJob_reqs (s : State) (n : Nat) (j : Job) : (s.setJob n j).reqs = s.reqs := rfl
@[simp] theorem State.setJob_packets (s : State) (n : Nat) (j : Job) : (s.setJob n j).packets = s.packets := rfl
@[simp] theorem State.setJob_routers (s : State) (n : Nat) (j : Job) : (s.setJob n j).routers = s.routers := rfl
@[simp] theorem State.setJob_bankfmt (s : State) (n : Nat) (j : Job) : (s.setJob n j).bankfmt = s.bankfmt := rfl
@[simp] theorem State.setJob_saved (s : State) (n : Nat) (j : Job) : (s.setJob n j).saved = s.saved := rfl
@[simp] theorem State.setJob_futures (s : State) (n : Nat) (j : Job) : (s.setJob n j).futures = s.futures := rfl
@[simp] theorem State.setJob_localMem (s : State) (n : Nat) (j : Job) : (s.setJob n j).localMem = s.localMem := rfl
@[simp] theorem State.setJob_scratch (s : State) (n : Nat) (j : Job) : (s.setJob n j).scratch = s.scratch := rfl
@[simp] theorem State.setJob_codeMem (s : State) (n : Nat) (j : Job) : (s.setJob n j).codeMem = s.codeMem := rfl
@[simp] theorem State.setJob_hbm (s : State) (n : Nat) (j : Job) : (s.setJob n j).hbm = s.hbm := rfl
@[simp] theorem State.setJob_hostMem (s : State) (n : Nat) (j : Job) : (s.setJob n j).hostMem = s.hostMem := rfl
@[simp] theorem State.setJob_writes (s : State) (n : Nat) (j : Job) : (s.setJob n j).writes = s.writes := rfl
@[simp] theorem State.setJob_fences (s : State) (n : Nat) (j : Job) : (s.setJob n j).fences = s.fences := rfl
@[simp] theorem State.setJob_gains (s : State) (n : Nat) (j : Job) : (s.setJob n j).gains = s.gains := rfl
@[simp] theorem State.setJob_eccLocal (s : State) (n : Nat) (j : Job) : (s.setJob n j).eccLocal = s.eccLocal := rfl
@[simp] theorem State.setJob_eccScratch (s : State) (n : Nat) (j : Job) : (s.setJob n j).eccScratch = s.eccScratch := rfl
@[simp] theorem State.setJob_eccCode (s : State) (n : Nat) (j : Job) : (s.setJob n j).eccCode = s.eccCode := rfl
@[simp] theorem State.setJob_stationTlb (s : State) (n : Nat) (j : Job) : (s.setJob n j).stationTlb = s.stationTlb := rfl
@[simp] theorem State.setJob_dieTlb (s : State) (n : Nat) (j : Job) : (s.setJob n j).dieTlb = s.dieTlb := rfl
@[simp] theorem State.setJob_walks (s : State) (n : Nat) (j : Job) : (s.setJob n j).walks = s.walks := rfl
@[simp] theorem State.setJob_services (s : State) (n : Nat) (j : Job) : (s.setJob n j).services = s.services := rfl
@[simp] theorem State.setJob_moves (s : State) (n : Nat) (j : Job) : (s.setJob n j).moves = s.moves := rfl
@[simp] theorem State.setJob_counts (s : State) (n : Nat) (j : Job) : (s.setJob n j).counts = s.counts := rfl
@[simp] theorem State.setJob_pools (s : State) (n : Nat) (j : Job) : (s.setJob n j).pools = s.pools := rfl
@[simp] theorem State.setJob_fwdCredits (s : State) (n : Nat) (j : Job) : (s.setJob n j).fwdCredits = s.fwdCredits := rfl
@[simp] theorem State.setJob_btes (s : State) (n : Nat) (j : Job) : (s.setJob n j).btes = s.btes := rfl
@[simp] theorem State.setJob_sqes (s : State) (n : Nat) (j : Job) : (s.setJob n j).sqes = s.sqes := rfl
@[simp] theorem State.setJob_nvme (s : State) (n : Nat) (j : Job) : (s.setJob n j).nvme = s.nvme := rfl
@[simp] theorem State.setJob_queues (s : State) (n : Nat) (j : Job) : (s.setJob n j).queues = s.queues := rfl
@[simp] theorem State.setJob_deviceQ (s : State) (n : Nat) (j : Job) : (s.setJob n j).deviceQ = s.deviceQ := rfl
@[simp] theorem State.setJob_waiting (s : State) (n : Nat) (j : Job) : (s.setJob n j).waiting = s.waiting := rfl
@[simp] theorem State.setJob_loading (s : State) (n : Nat) (j : Job) : (s.setJob n j).loading = s.loading := rfl
@[simp] theorem State.setJob_restores (s : State) (n : Nat) (j : Job) : (s.setJob n j).restores = s.restores := rfl
@[simp] theorem State.setJob_rrQueue (s : State) (n : Nat) (j : Job) : (s.setJob n j).rrQueue = s.rrQueue := rfl
@[simp] theorem State.setJob_chains (s : State) (n : Nat) (j : Job) : (s.setJob n j).chains = s.chains := rfl
@[simp] theorem State.setJob_digests (s : State) (n : Nat) (j : Job) : (s.setJob n j).digests = s.digests := rfl
@[simp] theorem State.setJob_tlbJob (s : State) (n : Nat) (j : Job) : (s.setJob n j).tlbJob = s.tlbJob := rfl
@[simp] theorem State.setJob_tlbAll (s : State) (n : Nat) (j : Job) : (s.setJob n j).tlbAll = s.tlbAll := rfl
@[simp] theorem State.setJob_tlbVa (s : State) (n : Nat) (j : Job) : (s.setJob n j).tlbVa = s.tlbVa := rfl
@[simp] theorem State.setJob_tlbBusy (s : State) (n : Nat) (j : Job) : (s.setJob n j).tlbBusy = s.tlbBusy := rfl
@[simp] theorem State.setJob_devid (s : State) (n : Nat) (j : Job) : (s.setJob n j).devid = s.devid := rfl
@[simp] theorem State.setJob_ports (s : State) (n : Nat) (j : Job) : (s.setJob n j).ports = s.ports := rfl
@[simp] theorem State.setJob_routes (s : State) (n : Nat) (j : Job) : (s.setJob n j).routes = s.routes := rfl
@[simp] theorem State.setJob_fabOut (s : State) (n : Nat) (j : Job) : (s.setJob n j).fabOut = s.fabOut := rfl
@[simp] theorem State.setJob_fabWait (s : State) (n : Nat) (j : Job) : (s.setJob n j).fabWait = s.fabWait := rfl
@[simp] theorem State.setJob_jobTags (s : State) (n : Nat) (j : Job) : (s.setJob n j).jobTags = s.jobTags := rfl
@[simp] theorem State.setJob_privvf (s : State) (n : Nat) (j : Job) : (s.setJob n j).privvf = s.privvf := rfl
@[simp] theorem State.setJob_hostFut (s : State) (n : Nat) (j : Job) : (s.setJob n j).hostFut = s.hostFut := rfl
@[simp] theorem State.setJob_hostKnow (s : State) (n : Nat) (j : Job) : (s.setJob n j).hostKnow = s.hostKnow := rfl
@[simp] theorem State.setJob_winbase (s : State) (n : Nat) (j : Job) : (s.setJob n j).winbase = s.winbase := rfl
@[simp] theorem State.setJob_winbaseOld (s : State) (n : Nat) (j : Job) : (s.setJob n j).winbaseOld = s.winbaseOld := rfl
@[simp] theorem State.setJob_winRead (s : State) (n : Nat) (j : Job) : (s.setJob n j).winRead = s.winRead := rfl
@[simp] theorem State.setJob_msix (s : State) (n : Nat) (j : Job) : (s.setJob n j).msix = s.msix := rfl
@[simp] theorem State.setJob_melbex (s : State) (n : Nat) (j : Job) : (s.setJob n j).melbex = s.melbex := rfl
@[simp] theorem State.setJob_trace (s : State) (n : Nat) (j : Job) : (s.setJob n j).trace = s.trace := rfl
@[simp] theorem State.setJob_log (s : State) (n : Nat) (j : Job) : (s.setJob n j).log = s.log := rfl
@[simp] theorem State.setJob_budget (s : State) (n : Nat) (j : Job) : (s.setJob n j).budget = s.budget := rfl
@[simp] theorem State.setJob_dutyCap (s : State) (n : Nat) (j : Job) : (s.setJob n j).dutyCap = s.dutyCap := rfl
@[simp] theorem State.setJob_halted (s : State) (n : Nat) (j : Job) : (s.setJob n j).halted = s.halted := rfl
@[simp] theorem State.setJob_inReset (s : State) (n : Nat) (j : Job) : (s.setJob n j).inReset = s.inReset := rfl
@[simp] theorem State.setJob_link (s : State) (n : Nat) (j : Job) : (s.setJob n j).link = s.link := rfl
@[simp] theorem State.setJob_ckpt (s : State) (n : Nat) (j : Job) : (s.setJob n j).ckpt = s.ckpt := rfl
@[simp] theorem State.setJob_peerDigests (s : State) (n : Nat) (j : Job) : (s.setJob n j).peerDigests = s.peerDigests := rfl

@[simp] theorem State.updCore_clk (s : State) (n : Nat) (f : Core → Core) : (s.updCore n f).clk = s.clk := rfl
@[simp] theorem State.updCore_cur (s : State) (n : Nat) (f : Core → Core) : (s.updCore n f).cur = s.cur := rfl
@[simp] theorem State.updCore_free (s : State) (n : Nat) (f : Core → Core) : (s.updCore n f).free = s.free := rfl
@[simp] theorem State.updCore_serial (s : State) (n : Nat) (f : Core → Core) : (s.updCore n f).serial = s.serial := rfl
@[simp] theorem State.updCore_turns (s : State) (n : Nat) (f : Core → Core) : (s.updCore n f).turns = s.turns := rfl
@[simp] theorem State.updCore_turnNo (s : State) (n : Nat) (f : Core → Core) : (s.updCore n f).turnNo = s.turnNo := rfl
@[simp] theorem State.updCore_limmOpen (s : State) (n : Nat) (f : Core → Core) : (s.updCore n f).limmOpen = s.limmOpen := rfl
@[simp] theorem State.updCore_ctxs (s : State) (n : Nat) (f : Core → Core) : (s.updCore n f).ctxs = s.ctxs := rfl
@[simp] theorem State.updCore_tasks (s : State) (n : Nat) (f : Core → Core) : (s.updCore n f).tasks = s.tasks := rfl
@[simp] theorem State.updCore_parties (s : State) (n : Nat) (f : Core → Core) : (s.updCore n f).parties = s.parties := rfl
@[simp] theorem State.updCore_chans (s : State) (n : Nat) (f : Core → Core) : (s.updCore n f).chans = s.chans := rfl
@[simp] theorem State.updCore_arrSeqs (s : State) (n : Nat) (f : Core → Core) : (s.updCore n f).arrSeqs = s.arrSeqs := rfl
@[simp] theorem State.updCore_tiles (s : State) (n : Nat) (f : Core → Core) : (s.updCore n f).tiles = s.tiles := rfl
@[simp] theorem State.updCore_ops (s : State) (n : Nat) (f : Core → Core) : (s.updCore n f).ops = s.ops := rfl
@[simp] theorem State.updCore_stores (s : State) (n : Nat) (f : Core → Core) : (s.updCore n f).stores = s.stores := rfl
@[simp] theorem State.updCore_accs (s : State) (n : Nat) (f : Core → Core) : (s.updCore n f).accs = s.accs := rfl
@[simp] theorem State.updCore_outs (s : State) (n : Nat) (f : Core → Core) : (s.updCore n f).outs = s.outs := rfl
@[simp] theorem State.updCore_reqs (s : State) (n : Nat) (f : Core → Core) : (s.updCore n f).reqs = s.reqs := rfl
@[simp] theorem State.updCore_packets (s : State) (n : Nat) (f : Core → Core) : (s.updCore n f).packets = s.packets := rfl
@[simp] theorem State.updCore_routers (s : State) (n : Nat) (f : Core → Core) : (s.updCore n f).routers = s.routers := rfl
@[simp] theorem State.updCore_jobs (s : State) (n : Nat) (f : Core → Core) : (s.updCore n f).jobs = s.jobs := rfl
@[simp] theorem State.updCore_bankfmt (s : State) (n : Nat) (f : Core → Core) : (s.updCore n f).bankfmt = s.bankfmt := rfl
@[simp] theorem State.updCore_saved (s : State) (n : Nat) (f : Core → Core) : (s.updCore n f).saved = s.saved := rfl
@[simp] theorem State.updCore_futures (s : State) (n : Nat) (f : Core → Core) : (s.updCore n f).futures = s.futures := rfl
@[simp] theorem State.updCore_localMem (s : State) (n : Nat) (f : Core → Core) : (s.updCore n f).localMem = s.localMem := rfl
@[simp] theorem State.updCore_scratch (s : State) (n : Nat) (f : Core → Core) : (s.updCore n f).scratch = s.scratch := rfl
@[simp] theorem State.updCore_codeMem (s : State) (n : Nat) (f : Core → Core) : (s.updCore n f).codeMem = s.codeMem := rfl
@[simp] theorem State.updCore_hbm (s : State) (n : Nat) (f : Core → Core) : (s.updCore n f).hbm = s.hbm := rfl
@[simp] theorem State.updCore_hostMem (s : State) (n : Nat) (f : Core → Core) : (s.updCore n f).hostMem = s.hostMem := rfl
@[simp] theorem State.updCore_writes (s : State) (n : Nat) (f : Core → Core) : (s.updCore n f).writes = s.writes := rfl
@[simp] theorem State.updCore_fences (s : State) (n : Nat) (f : Core → Core) : (s.updCore n f).fences = s.fences := rfl
@[simp] theorem State.updCore_gains (s : State) (n : Nat) (f : Core → Core) : (s.updCore n f).gains = s.gains := rfl
@[simp] theorem State.updCore_eccLocal (s : State) (n : Nat) (f : Core → Core) : (s.updCore n f).eccLocal = s.eccLocal := rfl
@[simp] theorem State.updCore_eccScratch (s : State) (n : Nat) (f : Core → Core) : (s.updCore n f).eccScratch = s.eccScratch := rfl
@[simp] theorem State.updCore_eccCode (s : State) (n : Nat) (f : Core → Core) : (s.updCore n f).eccCode = s.eccCode := rfl
@[simp] theorem State.updCore_stationTlb (s : State) (n : Nat) (f : Core → Core) : (s.updCore n f).stationTlb = s.stationTlb := rfl
@[simp] theorem State.updCore_dieTlb (s : State) (n : Nat) (f : Core → Core) : (s.updCore n f).dieTlb = s.dieTlb := rfl
@[simp] theorem State.updCore_walks (s : State) (n : Nat) (f : Core → Core) : (s.updCore n f).walks = s.walks := rfl
@[simp] theorem State.updCore_services (s : State) (n : Nat) (f : Core → Core) : (s.updCore n f).services = s.services := rfl
@[simp] theorem State.updCore_moves (s : State) (n : Nat) (f : Core → Core) : (s.updCore n f).moves = s.moves := rfl
@[simp] theorem State.updCore_counts (s : State) (n : Nat) (f : Core → Core) : (s.updCore n f).counts = s.counts := rfl
@[simp] theorem State.updCore_pools (s : State) (n : Nat) (f : Core → Core) : (s.updCore n f).pools = s.pools := rfl
@[simp] theorem State.updCore_fwdCredits (s : State) (n : Nat) (f : Core → Core) : (s.updCore n f).fwdCredits = s.fwdCredits := rfl
@[simp] theorem State.updCore_btes (s : State) (n : Nat) (f : Core → Core) : (s.updCore n f).btes = s.btes := rfl
@[simp] theorem State.updCore_sqes (s : State) (n : Nat) (f : Core → Core) : (s.updCore n f).sqes = s.sqes := rfl
@[simp] theorem State.updCore_nvme (s : State) (n : Nat) (f : Core → Core) : (s.updCore n f).nvme = s.nvme := rfl
@[simp] theorem State.updCore_queues (s : State) (n : Nat) (f : Core → Core) : (s.updCore n f).queues = s.queues := rfl
@[simp] theorem State.updCore_deviceQ (s : State) (n : Nat) (f : Core → Core) : (s.updCore n f).deviceQ = s.deviceQ := rfl
@[simp] theorem State.updCore_waiting (s : State) (n : Nat) (f : Core → Core) : (s.updCore n f).waiting = s.waiting := rfl
@[simp] theorem State.updCore_loading (s : State) (n : Nat) (f : Core → Core) : (s.updCore n f).loading = s.loading := rfl
@[simp] theorem State.updCore_restores (s : State) (n : Nat) (f : Core → Core) : (s.updCore n f).restores = s.restores := rfl
@[simp] theorem State.updCore_rrQueue (s : State) (n : Nat) (f : Core → Core) : (s.updCore n f).rrQueue = s.rrQueue := rfl
@[simp] theorem State.updCore_chains (s : State) (n : Nat) (f : Core → Core) : (s.updCore n f).chains = s.chains := rfl
@[simp] theorem State.updCore_digests (s : State) (n : Nat) (f : Core → Core) : (s.updCore n f).digests = s.digests := rfl
@[simp] theorem State.updCore_tlbJob (s : State) (n : Nat) (f : Core → Core) : (s.updCore n f).tlbJob = s.tlbJob := rfl
@[simp] theorem State.updCore_tlbAll (s : State) (n : Nat) (f : Core → Core) : (s.updCore n f).tlbAll = s.tlbAll := rfl
@[simp] theorem State.updCore_tlbVa (s : State) (n : Nat) (f : Core → Core) : (s.updCore n f).tlbVa = s.tlbVa := rfl
@[simp] theorem State.updCore_tlbBusy (s : State) (n : Nat) (f : Core → Core) : (s.updCore n f).tlbBusy = s.tlbBusy := rfl
@[simp] theorem State.updCore_devid (s : State) (n : Nat) (f : Core → Core) : (s.updCore n f).devid = s.devid := rfl
@[simp] theorem State.updCore_ports (s : State) (n : Nat) (f : Core → Core) : (s.updCore n f).ports = s.ports := rfl
@[simp] theorem State.updCore_routes (s : State) (n : Nat) (f : Core → Core) : (s.updCore n f).routes = s.routes := rfl
@[simp] theorem State.updCore_fabOut (s : State) (n : Nat) (f : Core → Core) : (s.updCore n f).fabOut = s.fabOut := rfl
@[simp] theorem State.updCore_fabWait (s : State) (n : Nat) (f : Core → Core) : (s.updCore n f).fabWait = s.fabWait := rfl
@[simp] theorem State.updCore_jobTags (s : State) (n : Nat) (f : Core → Core) : (s.updCore n f).jobTags = s.jobTags := rfl
@[simp] theorem State.updCore_privvf (s : State) (n : Nat) (f : Core → Core) : (s.updCore n f).privvf = s.privvf := rfl
@[simp] theorem State.updCore_hostFut (s : State) (n : Nat) (f : Core → Core) : (s.updCore n f).hostFut = s.hostFut := rfl
@[simp] theorem State.updCore_hostKnow (s : State) (n : Nat) (f : Core → Core) : (s.updCore n f).hostKnow = s.hostKnow := rfl
@[simp] theorem State.updCore_winbase (s : State) (n : Nat) (f : Core → Core) : (s.updCore n f).winbase = s.winbase := rfl
@[simp] theorem State.updCore_winbaseOld (s : State) (n : Nat) (f : Core → Core) : (s.updCore n f).winbaseOld = s.winbaseOld := rfl
@[simp] theorem State.updCore_winRead (s : State) (n : Nat) (f : Core → Core) : (s.updCore n f).winRead = s.winRead := rfl
@[simp] theorem State.updCore_msix (s : State) (n : Nat) (f : Core → Core) : (s.updCore n f).msix = s.msix := rfl
@[simp] theorem State.updCore_melbex (s : State) (n : Nat) (f : Core → Core) : (s.updCore n f).melbex = s.melbex := rfl
@[simp] theorem State.updCore_trace (s : State) (n : Nat) (f : Core → Core) : (s.updCore n f).trace = s.trace := rfl
@[simp] theorem State.updCore_log (s : State) (n : Nat) (f : Core → Core) : (s.updCore n f).log = s.log := rfl
@[simp] theorem State.updCore_budget (s : State) (n : Nat) (f : Core → Core) : (s.updCore n f).budget = s.budget := rfl
@[simp] theorem State.updCore_dutyCap (s : State) (n : Nat) (f : Core → Core) : (s.updCore n f).dutyCap = s.dutyCap := rfl
@[simp] theorem State.updCore_halted (s : State) (n : Nat) (f : Core → Core) : (s.updCore n f).halted = s.halted := rfl
@[simp] theorem State.updCore_inReset (s : State) (n : Nat) (f : Core → Core) : (s.updCore n f).inReset = s.inReset := rfl
@[simp] theorem State.updCore_link (s : State) (n : Nat) (f : Core → Core) : (s.updCore n f).link = s.link := rfl
@[simp] theorem State.updCore_ckpt (s : State) (n : Nat) (f : Core → Core) : (s.updCore n f).ckpt = s.ckpt := rfl
@[simp] theorem State.updCore_peerDigests (s : State) (n : Nat) (f : Core → Core) : (s.updCore n f).peerDigests = s.peerDigests := rfl

@[simp] theorem State.updTile_clk (s : State) (n : Nat) (f : Tile → Tile) : (s.updTile n f).clk = s.clk := rfl
@[simp] theorem State.updTile_cur (s : State) (n : Nat) (f : Tile → Tile) : (s.updTile n f).cur = s.cur := rfl
@[simp] theorem State.updTile_free (s : State) (n : Nat) (f : Tile → Tile) : (s.updTile n f).free = s.free := rfl
@[simp] theorem State.updTile_serial (s : State) (n : Nat) (f : Tile → Tile) : (s.updTile n f).serial = s.serial := rfl
@[simp] theorem State.updTile_turns (s : State) (n : Nat) (f : Tile → Tile) : (s.updTile n f).turns = s.turns := rfl
@[simp] theorem State.updTile_turnNo (s : State) (n : Nat) (f : Tile → Tile) : (s.updTile n f).turnNo = s.turnNo := rfl
@[simp] theorem State.updTile_limmOpen (s : State) (n : Nat) (f : Tile → Tile) : (s.updTile n f).limmOpen = s.limmOpen := rfl
@[simp] theorem State.updTile_ctxs (s : State) (n : Nat) (f : Tile → Tile) : (s.updTile n f).ctxs = s.ctxs := rfl
@[simp] theorem State.updTile_tasks (s : State) (n : Nat) (f : Tile → Tile) : (s.updTile n f).tasks = s.tasks := rfl
@[simp] theorem State.updTile_parties (s : State) (n : Nat) (f : Tile → Tile) : (s.updTile n f).parties = s.parties := rfl
@[simp] theorem State.updTile_cores (s : State) (n : Nat) (f : Tile → Tile) : (s.updTile n f).cores = s.cores := rfl
@[simp] theorem State.updTile_chans (s : State) (n : Nat) (f : Tile → Tile) : (s.updTile n f).chans = s.chans := rfl
@[simp] theorem State.updTile_arrSeqs (s : State) (n : Nat) (f : Tile → Tile) : (s.updTile n f).arrSeqs = s.arrSeqs := rfl
@[simp] theorem State.updTile_ops (s : State) (n : Nat) (f : Tile → Tile) : (s.updTile n f).ops = s.ops := rfl
@[simp] theorem State.updTile_stores (s : State) (n : Nat) (f : Tile → Tile) : (s.updTile n f).stores = s.stores := rfl
@[simp] theorem State.updTile_accs (s : State) (n : Nat) (f : Tile → Tile) : (s.updTile n f).accs = s.accs := rfl
@[simp] theorem State.updTile_outs (s : State) (n : Nat) (f : Tile → Tile) : (s.updTile n f).outs = s.outs := rfl
@[simp] theorem State.updTile_reqs (s : State) (n : Nat) (f : Tile → Tile) : (s.updTile n f).reqs = s.reqs := rfl
@[simp] theorem State.updTile_packets (s : State) (n : Nat) (f : Tile → Tile) : (s.updTile n f).packets = s.packets := rfl
@[simp] theorem State.updTile_routers (s : State) (n : Nat) (f : Tile → Tile) : (s.updTile n f).routers = s.routers := rfl
@[simp] theorem State.updTile_jobs (s : State) (n : Nat) (f : Tile → Tile) : (s.updTile n f).jobs = s.jobs := rfl
@[simp] theorem State.updTile_bankfmt (s : State) (n : Nat) (f : Tile → Tile) : (s.updTile n f).bankfmt = s.bankfmt := rfl
@[simp] theorem State.updTile_saved (s : State) (n : Nat) (f : Tile → Tile) : (s.updTile n f).saved = s.saved := rfl
@[simp] theorem State.updTile_futures (s : State) (n : Nat) (f : Tile → Tile) : (s.updTile n f).futures = s.futures := rfl
@[simp] theorem State.updTile_localMem (s : State) (n : Nat) (f : Tile → Tile) : (s.updTile n f).localMem = s.localMem := rfl
@[simp] theorem State.updTile_scratch (s : State) (n : Nat) (f : Tile → Tile) : (s.updTile n f).scratch = s.scratch := rfl
@[simp] theorem State.updTile_codeMem (s : State) (n : Nat) (f : Tile → Tile) : (s.updTile n f).codeMem = s.codeMem := rfl
@[simp] theorem State.updTile_hbm (s : State) (n : Nat) (f : Tile → Tile) : (s.updTile n f).hbm = s.hbm := rfl
@[simp] theorem State.updTile_hostMem (s : State) (n : Nat) (f : Tile → Tile) : (s.updTile n f).hostMem = s.hostMem := rfl
@[simp] theorem State.updTile_writes (s : State) (n : Nat) (f : Tile → Tile) : (s.updTile n f).writes = s.writes := rfl
@[simp] theorem State.updTile_fences (s : State) (n : Nat) (f : Tile → Tile) : (s.updTile n f).fences = s.fences := rfl
@[simp] theorem State.updTile_gains (s : State) (n : Nat) (f : Tile → Tile) : (s.updTile n f).gains = s.gains := rfl
@[simp] theorem State.updTile_eccLocal (s : State) (n : Nat) (f : Tile → Tile) : (s.updTile n f).eccLocal = s.eccLocal := rfl
@[simp] theorem State.updTile_eccScratch (s : State) (n : Nat) (f : Tile → Tile) : (s.updTile n f).eccScratch = s.eccScratch := rfl
@[simp] theorem State.updTile_eccCode (s : State) (n : Nat) (f : Tile → Tile) : (s.updTile n f).eccCode = s.eccCode := rfl
@[simp] theorem State.updTile_stationTlb (s : State) (n : Nat) (f : Tile → Tile) : (s.updTile n f).stationTlb = s.stationTlb := rfl
@[simp] theorem State.updTile_dieTlb (s : State) (n : Nat) (f : Tile → Tile) : (s.updTile n f).dieTlb = s.dieTlb := rfl
@[simp] theorem State.updTile_walks (s : State) (n : Nat) (f : Tile → Tile) : (s.updTile n f).walks = s.walks := rfl
@[simp] theorem State.updTile_services (s : State) (n : Nat) (f : Tile → Tile) : (s.updTile n f).services = s.services := rfl
@[simp] theorem State.updTile_moves (s : State) (n : Nat) (f : Tile → Tile) : (s.updTile n f).moves = s.moves := rfl
@[simp] theorem State.updTile_counts (s : State) (n : Nat) (f : Tile → Tile) : (s.updTile n f).counts = s.counts := rfl
@[simp] theorem State.updTile_pools (s : State) (n : Nat) (f : Tile → Tile) : (s.updTile n f).pools = s.pools := rfl
@[simp] theorem State.updTile_fwdCredits (s : State) (n : Nat) (f : Tile → Tile) : (s.updTile n f).fwdCredits = s.fwdCredits := rfl
@[simp] theorem State.updTile_btes (s : State) (n : Nat) (f : Tile → Tile) : (s.updTile n f).btes = s.btes := rfl
@[simp] theorem State.updTile_sqes (s : State) (n : Nat) (f : Tile → Tile) : (s.updTile n f).sqes = s.sqes := rfl
@[simp] theorem State.updTile_nvme (s : State) (n : Nat) (f : Tile → Tile) : (s.updTile n f).nvme = s.nvme := rfl
@[simp] theorem State.updTile_queues (s : State) (n : Nat) (f : Tile → Tile) : (s.updTile n f).queues = s.queues := rfl
@[simp] theorem State.updTile_deviceQ (s : State) (n : Nat) (f : Tile → Tile) : (s.updTile n f).deviceQ = s.deviceQ := rfl
@[simp] theorem State.updTile_waiting (s : State) (n : Nat) (f : Tile → Tile) : (s.updTile n f).waiting = s.waiting := rfl
@[simp] theorem State.updTile_loading (s : State) (n : Nat) (f : Tile → Tile) : (s.updTile n f).loading = s.loading := rfl
@[simp] theorem State.updTile_restores (s : State) (n : Nat) (f : Tile → Tile) : (s.updTile n f).restores = s.restores := rfl
@[simp] theorem State.updTile_rrQueue (s : State) (n : Nat) (f : Tile → Tile) : (s.updTile n f).rrQueue = s.rrQueue := rfl
@[simp] theorem State.updTile_chains (s : State) (n : Nat) (f : Tile → Tile) : (s.updTile n f).chains = s.chains := rfl
@[simp] theorem State.updTile_digests (s : State) (n : Nat) (f : Tile → Tile) : (s.updTile n f).digests = s.digests := rfl
@[simp] theorem State.updTile_tlbJob (s : State) (n : Nat) (f : Tile → Tile) : (s.updTile n f).tlbJob = s.tlbJob := rfl
@[simp] theorem State.updTile_tlbAll (s : State) (n : Nat) (f : Tile → Tile) : (s.updTile n f).tlbAll = s.tlbAll := rfl
@[simp] theorem State.updTile_tlbVa (s : State) (n : Nat) (f : Tile → Tile) : (s.updTile n f).tlbVa = s.tlbVa := rfl
@[simp] theorem State.updTile_tlbBusy (s : State) (n : Nat) (f : Tile → Tile) : (s.updTile n f).tlbBusy = s.tlbBusy := rfl
@[simp] theorem State.updTile_devid (s : State) (n : Nat) (f : Tile → Tile) : (s.updTile n f).devid = s.devid := rfl
@[simp] theorem State.updTile_ports (s : State) (n : Nat) (f : Tile → Tile) : (s.updTile n f).ports = s.ports := rfl
@[simp] theorem State.updTile_routes (s : State) (n : Nat) (f : Tile → Tile) : (s.updTile n f).routes = s.routes := rfl
@[simp] theorem State.updTile_fabOut (s : State) (n : Nat) (f : Tile → Tile) : (s.updTile n f).fabOut = s.fabOut := rfl
@[simp] theorem State.updTile_fabWait (s : State) (n : Nat) (f : Tile → Tile) : (s.updTile n f).fabWait = s.fabWait := rfl
@[simp] theorem State.updTile_jobTags (s : State) (n : Nat) (f : Tile → Tile) : (s.updTile n f).jobTags = s.jobTags := rfl
@[simp] theorem State.updTile_privvf (s : State) (n : Nat) (f : Tile → Tile) : (s.updTile n f).privvf = s.privvf := rfl
@[simp] theorem State.updTile_hostFut (s : State) (n : Nat) (f : Tile → Tile) : (s.updTile n f).hostFut = s.hostFut := rfl
@[simp] theorem State.updTile_hostKnow (s : State) (n : Nat) (f : Tile → Tile) : (s.updTile n f).hostKnow = s.hostKnow := rfl
@[simp] theorem State.updTile_winbase (s : State) (n : Nat) (f : Tile → Tile) : (s.updTile n f).winbase = s.winbase := rfl
@[simp] theorem State.updTile_winbaseOld (s : State) (n : Nat) (f : Tile → Tile) : (s.updTile n f).winbaseOld = s.winbaseOld := rfl
@[simp] theorem State.updTile_winRead (s : State) (n : Nat) (f : Tile → Tile) : (s.updTile n f).winRead = s.winRead := rfl
@[simp] theorem State.updTile_msix (s : State) (n : Nat) (f : Tile → Tile) : (s.updTile n f).msix = s.msix := rfl
@[simp] theorem State.updTile_melbex (s : State) (n : Nat) (f : Tile → Tile) : (s.updTile n f).melbex = s.melbex := rfl
@[simp] theorem State.updTile_trace (s : State) (n : Nat) (f : Tile → Tile) : (s.updTile n f).trace = s.trace := rfl
@[simp] theorem State.updTile_log (s : State) (n : Nat) (f : Tile → Tile) : (s.updTile n f).log = s.log := rfl
@[simp] theorem State.updTile_budget (s : State) (n : Nat) (f : Tile → Tile) : (s.updTile n f).budget = s.budget := rfl
@[simp] theorem State.updTile_dutyCap (s : State) (n : Nat) (f : Tile → Tile) : (s.updTile n f).dutyCap = s.dutyCap := rfl
@[simp] theorem State.updTile_halted (s : State) (n : Nat) (f : Tile → Tile) : (s.updTile n f).halted = s.halted := rfl
@[simp] theorem State.updTile_inReset (s : State) (n : Nat) (f : Tile → Tile) : (s.updTile n f).inReset = s.inReset := rfl
@[simp] theorem State.updTile_link (s : State) (n : Nat) (f : Tile → Tile) : (s.updTile n f).link = s.link := rfl
@[simp] theorem State.updTile_ckpt (s : State) (n : Nat) (f : Tile → Tile) : (s.updTile n f).ckpt = s.ckpt := rfl
@[simp] theorem State.updTile_peerDigests (s : State) (n : Nat) (f : Tile → Tile) : (s.updTile n f).peerDigests = s.peerDigests := rfl

@[simp] theorem State.updRouter_clk (s : State) (p y : Nat) (f : Router → Router) : (s.updRouter p y f).clk = s.clk := rfl
@[simp] theorem State.updRouter_cur (s : State) (p y : Nat) (f : Router → Router) : (s.updRouter p y f).cur = s.cur := rfl
@[simp] theorem State.updRouter_free (s : State) (p y : Nat) (f : Router → Router) : (s.updRouter p y f).free = s.free := rfl
@[simp] theorem State.updRouter_serial (s : State) (p y : Nat) (f : Router → Router) : (s.updRouter p y f).serial = s.serial := rfl
@[simp] theorem State.updRouter_turns (s : State) (p y : Nat) (f : Router → Router) : (s.updRouter p y f).turns = s.turns := rfl
@[simp] theorem State.updRouter_turnNo (s : State) (p y : Nat) (f : Router → Router) : (s.updRouter p y f).turnNo = s.turnNo := rfl
@[simp] theorem State.updRouter_limmOpen (s : State) (p y : Nat) (f : Router → Router) : (s.updRouter p y f).limmOpen = s.limmOpen := rfl
@[simp] theorem State.updRouter_ctxs (s : State) (p y : Nat) (f : Router → Router) : (s.updRouter p y f).ctxs = s.ctxs := rfl
@[simp] theorem State.updRouter_tasks (s : State) (p y : Nat) (f : Router → Router) : (s.updRouter p y f).tasks = s.tasks := rfl
@[simp] theorem State.updRouter_parties (s : State) (p y : Nat) (f : Router → Router) : (s.updRouter p y f).parties = s.parties := rfl
@[simp] theorem State.updRouter_cores (s : State) (p y : Nat) (f : Router → Router) : (s.updRouter p y f).cores = s.cores := rfl
@[simp] theorem State.updRouter_chans (s : State) (p y : Nat) (f : Router → Router) : (s.updRouter p y f).chans = s.chans := rfl
@[simp] theorem State.updRouter_arrSeqs (s : State) (p y : Nat) (f : Router → Router) : (s.updRouter p y f).arrSeqs = s.arrSeqs := rfl
@[simp] theorem State.updRouter_tiles (s : State) (p y : Nat) (f : Router → Router) : (s.updRouter p y f).tiles = s.tiles := rfl
@[simp] theorem State.updRouter_ops (s : State) (p y : Nat) (f : Router → Router) : (s.updRouter p y f).ops = s.ops := rfl
@[simp] theorem State.updRouter_stores (s : State) (p y : Nat) (f : Router → Router) : (s.updRouter p y f).stores = s.stores := rfl
@[simp] theorem State.updRouter_accs (s : State) (p y : Nat) (f : Router → Router) : (s.updRouter p y f).accs = s.accs := rfl
@[simp] theorem State.updRouter_outs (s : State) (p y : Nat) (f : Router → Router) : (s.updRouter p y f).outs = s.outs := rfl
@[simp] theorem State.updRouter_reqs (s : State) (p y : Nat) (f : Router → Router) : (s.updRouter p y f).reqs = s.reqs := rfl
@[simp] theorem State.updRouter_packets (s : State) (p y : Nat) (f : Router → Router) : (s.updRouter p y f).packets = s.packets := rfl
@[simp] theorem State.updRouter_jobs (s : State) (p y : Nat) (f : Router → Router) : (s.updRouter p y f).jobs = s.jobs := rfl
@[simp] theorem State.updRouter_bankfmt (s : State) (p y : Nat) (f : Router → Router) : (s.updRouter p y f).bankfmt = s.bankfmt := rfl
@[simp] theorem State.updRouter_saved (s : State) (p y : Nat) (f : Router → Router) : (s.updRouter p y f).saved = s.saved := rfl
@[simp] theorem State.updRouter_futures (s : State) (p y : Nat) (f : Router → Router) : (s.updRouter p y f).futures = s.futures := rfl
@[simp] theorem State.updRouter_localMem (s : State) (p y : Nat) (f : Router → Router) : (s.updRouter p y f).localMem = s.localMem := rfl
@[simp] theorem State.updRouter_scratch (s : State) (p y : Nat) (f : Router → Router) : (s.updRouter p y f).scratch = s.scratch := rfl
@[simp] theorem State.updRouter_codeMem (s : State) (p y : Nat) (f : Router → Router) : (s.updRouter p y f).codeMem = s.codeMem := rfl
@[simp] theorem State.updRouter_hbm (s : State) (p y : Nat) (f : Router → Router) : (s.updRouter p y f).hbm = s.hbm := rfl
@[simp] theorem State.updRouter_hostMem (s : State) (p y : Nat) (f : Router → Router) : (s.updRouter p y f).hostMem = s.hostMem := rfl
@[simp] theorem State.updRouter_writes (s : State) (p y : Nat) (f : Router → Router) : (s.updRouter p y f).writes = s.writes := rfl
@[simp] theorem State.updRouter_fences (s : State) (p y : Nat) (f : Router → Router) : (s.updRouter p y f).fences = s.fences := rfl
@[simp] theorem State.updRouter_gains (s : State) (p y : Nat) (f : Router → Router) : (s.updRouter p y f).gains = s.gains := rfl
@[simp] theorem State.updRouter_eccLocal (s : State) (p y : Nat) (f : Router → Router) : (s.updRouter p y f).eccLocal = s.eccLocal := rfl
@[simp] theorem State.updRouter_eccScratch (s : State) (p y : Nat) (f : Router → Router) : (s.updRouter p y f).eccScratch = s.eccScratch := rfl
@[simp] theorem State.updRouter_eccCode (s : State) (p y : Nat) (f : Router → Router) : (s.updRouter p y f).eccCode = s.eccCode := rfl
@[simp] theorem State.updRouter_stationTlb (s : State) (p y : Nat) (f : Router → Router) : (s.updRouter p y f).stationTlb = s.stationTlb := rfl
@[simp] theorem State.updRouter_dieTlb (s : State) (p y : Nat) (f : Router → Router) : (s.updRouter p y f).dieTlb = s.dieTlb := rfl
@[simp] theorem State.updRouter_walks (s : State) (p y : Nat) (f : Router → Router) : (s.updRouter p y f).walks = s.walks := rfl
@[simp] theorem State.updRouter_services (s : State) (p y : Nat) (f : Router → Router) : (s.updRouter p y f).services = s.services := rfl
@[simp] theorem State.updRouter_moves (s : State) (p y : Nat) (f : Router → Router) : (s.updRouter p y f).moves = s.moves := rfl
@[simp] theorem State.updRouter_counts (s : State) (p y : Nat) (f : Router → Router) : (s.updRouter p y f).counts = s.counts := rfl
@[simp] theorem State.updRouter_pools (s : State) (p y : Nat) (f : Router → Router) : (s.updRouter p y f).pools = s.pools := rfl
@[simp] theorem State.updRouter_fwdCredits (s : State) (p y : Nat) (f : Router → Router) : (s.updRouter p y f).fwdCredits = s.fwdCredits := rfl
@[simp] theorem State.updRouter_btes (s : State) (p y : Nat) (f : Router → Router) : (s.updRouter p y f).btes = s.btes := rfl
@[simp] theorem State.updRouter_sqes (s : State) (p y : Nat) (f : Router → Router) : (s.updRouter p y f).sqes = s.sqes := rfl
@[simp] theorem State.updRouter_nvme (s : State) (p y : Nat) (f : Router → Router) : (s.updRouter p y f).nvme = s.nvme := rfl
@[simp] theorem State.updRouter_queues (s : State) (p y : Nat) (f : Router → Router) : (s.updRouter p y f).queues = s.queues := rfl
@[simp] theorem State.updRouter_deviceQ (s : State) (p y : Nat) (f : Router → Router) : (s.updRouter p y f).deviceQ = s.deviceQ := rfl
@[simp] theorem State.updRouter_waiting (s : State) (p y : Nat) (f : Router → Router) : (s.updRouter p y f).waiting = s.waiting := rfl
@[simp] theorem State.updRouter_loading (s : State) (p y : Nat) (f : Router → Router) : (s.updRouter p y f).loading = s.loading := rfl
@[simp] theorem State.updRouter_restores (s : State) (p y : Nat) (f : Router → Router) : (s.updRouter p y f).restores = s.restores := rfl
@[simp] theorem State.updRouter_rrQueue (s : State) (p y : Nat) (f : Router → Router) : (s.updRouter p y f).rrQueue = s.rrQueue := rfl
@[simp] theorem State.updRouter_chains (s : State) (p y : Nat) (f : Router → Router) : (s.updRouter p y f).chains = s.chains := rfl
@[simp] theorem State.updRouter_digests (s : State) (p y : Nat) (f : Router → Router) : (s.updRouter p y f).digests = s.digests := rfl
@[simp] theorem State.updRouter_tlbJob (s : State) (p y : Nat) (f : Router → Router) : (s.updRouter p y f).tlbJob = s.tlbJob := rfl
@[simp] theorem State.updRouter_tlbAll (s : State) (p y : Nat) (f : Router → Router) : (s.updRouter p y f).tlbAll = s.tlbAll := rfl
@[simp] theorem State.updRouter_tlbVa (s : State) (p y : Nat) (f : Router → Router) : (s.updRouter p y f).tlbVa = s.tlbVa := rfl
@[simp] theorem State.updRouter_tlbBusy (s : State) (p y : Nat) (f : Router → Router) : (s.updRouter p y f).tlbBusy = s.tlbBusy := rfl
@[simp] theorem State.updRouter_devid (s : State) (p y : Nat) (f : Router → Router) : (s.updRouter p y f).devid = s.devid := rfl
@[simp] theorem State.updRouter_ports (s : State) (p y : Nat) (f : Router → Router) : (s.updRouter p y f).ports = s.ports := rfl
@[simp] theorem State.updRouter_routes (s : State) (p y : Nat) (f : Router → Router) : (s.updRouter p y f).routes = s.routes := rfl
@[simp] theorem State.updRouter_fabOut (s : State) (p y : Nat) (f : Router → Router) : (s.updRouter p y f).fabOut = s.fabOut := rfl
@[simp] theorem State.updRouter_fabWait (s : State) (p y : Nat) (f : Router → Router) : (s.updRouter p y f).fabWait = s.fabWait := rfl
@[simp] theorem State.updRouter_jobTags (s : State) (p y : Nat) (f : Router → Router) : (s.updRouter p y f).jobTags = s.jobTags := rfl
@[simp] theorem State.updRouter_privvf (s : State) (p y : Nat) (f : Router → Router) : (s.updRouter p y f).privvf = s.privvf := rfl
@[simp] theorem State.updRouter_hostFut (s : State) (p y : Nat) (f : Router → Router) : (s.updRouter p y f).hostFut = s.hostFut := rfl
@[simp] theorem State.updRouter_hostKnow (s : State) (p y : Nat) (f : Router → Router) : (s.updRouter p y f).hostKnow = s.hostKnow := rfl
@[simp] theorem State.updRouter_winbase (s : State) (p y : Nat) (f : Router → Router) : (s.updRouter p y f).winbase = s.winbase := rfl
@[simp] theorem State.updRouter_winbaseOld (s : State) (p y : Nat) (f : Router → Router) : (s.updRouter p y f).winbaseOld = s.winbaseOld := rfl
@[simp] theorem State.updRouter_winRead (s : State) (p y : Nat) (f : Router → Router) : (s.updRouter p y f).winRead = s.winRead := rfl
@[simp] theorem State.updRouter_msix (s : State) (p y : Nat) (f : Router → Router) : (s.updRouter p y f).msix = s.msix := rfl
@[simp] theorem State.updRouter_melbex (s : State) (p y : Nat) (f : Router → Router) : (s.updRouter p y f).melbex = s.melbex := rfl
@[simp] theorem State.updRouter_trace (s : State) (p y : Nat) (f : Router → Router) : (s.updRouter p y f).trace = s.trace := rfl
@[simp] theorem State.updRouter_log (s : State) (p y : Nat) (f : Router → Router) : (s.updRouter p y f).log = s.log := rfl
@[simp] theorem State.updRouter_budget (s : State) (p y : Nat) (f : Router → Router) : (s.updRouter p y f).budget = s.budget := rfl
@[simp] theorem State.updRouter_dutyCap (s : State) (p y : Nat) (f : Router → Router) : (s.updRouter p y f).dutyCap = s.dutyCap := rfl
@[simp] theorem State.updRouter_halted (s : State) (p y : Nat) (f : Router → Router) : (s.updRouter p y f).halted = s.halted := rfl
@[simp] theorem State.updRouter_inReset (s : State) (p y : Nat) (f : Router → Router) : (s.updRouter p y f).inReset = s.inReset := rfl
@[simp] theorem State.updRouter_link (s : State) (p y : Nat) (f : Router → Router) : (s.updRouter p y f).link = s.link := rfl
@[simp] theorem State.updRouter_ckpt (s : State) (p y : Nat) (f : Router → Router) : (s.updRouter p y f).ckpt = s.ckpt := rfl
@[simp] theorem State.updRouter_peerDigests (s : State) (p y : Nat) (f : Router → Router) : (s.updRouter p y f).peerDigests = s.peerDigests := rfl

@[simp] theorem State.updReq_clk (s : State) (n : Nat) (f : Req → Req) : (s.updReq n f).clk = s.clk := rfl
@[simp] theorem State.updReq_cur (s : State) (n : Nat) (f : Req → Req) : (s.updReq n f).cur = s.cur := rfl
@[simp] theorem State.updReq_free (s : State) (n : Nat) (f : Req → Req) : (s.updReq n f).free = s.free := rfl
@[simp] theorem State.updReq_serial (s : State) (n : Nat) (f : Req → Req) : (s.updReq n f).serial = s.serial := rfl
@[simp] theorem State.updReq_turns (s : State) (n : Nat) (f : Req → Req) : (s.updReq n f).turns = s.turns := rfl
@[simp] theorem State.updReq_turnNo (s : State) (n : Nat) (f : Req → Req) : (s.updReq n f).turnNo = s.turnNo := rfl
@[simp] theorem State.updReq_limmOpen (s : State) (n : Nat) (f : Req → Req) : (s.updReq n f).limmOpen = s.limmOpen := rfl
@[simp] theorem State.updReq_ctxs (s : State) (n : Nat) (f : Req → Req) : (s.updReq n f).ctxs = s.ctxs := rfl
@[simp] theorem State.updReq_tasks (s : State) (n : Nat) (f : Req → Req) : (s.updReq n f).tasks = s.tasks := rfl
@[simp] theorem State.updReq_parties (s : State) (n : Nat) (f : Req → Req) : (s.updReq n f).parties = s.parties := rfl
@[simp] theorem State.updReq_cores (s : State) (n : Nat) (f : Req → Req) : (s.updReq n f).cores = s.cores := rfl
@[simp] theorem State.updReq_chans (s : State) (n : Nat) (f : Req → Req) : (s.updReq n f).chans = s.chans := rfl
@[simp] theorem State.updReq_arrSeqs (s : State) (n : Nat) (f : Req → Req) : (s.updReq n f).arrSeqs = s.arrSeqs := rfl
@[simp] theorem State.updReq_tiles (s : State) (n : Nat) (f : Req → Req) : (s.updReq n f).tiles = s.tiles := rfl
@[simp] theorem State.updReq_ops (s : State) (n : Nat) (f : Req → Req) : (s.updReq n f).ops = s.ops := rfl
@[simp] theorem State.updReq_stores (s : State) (n : Nat) (f : Req → Req) : (s.updReq n f).stores = s.stores := rfl
@[simp] theorem State.updReq_accs (s : State) (n : Nat) (f : Req → Req) : (s.updReq n f).accs = s.accs := rfl
@[simp] theorem State.updReq_outs (s : State) (n : Nat) (f : Req → Req) : (s.updReq n f).outs = s.outs := rfl
@[simp] theorem State.updReq_packets (s : State) (n : Nat) (f : Req → Req) : (s.updReq n f).packets = s.packets := rfl
@[simp] theorem State.updReq_routers (s : State) (n : Nat) (f : Req → Req) : (s.updReq n f).routers = s.routers := rfl
@[simp] theorem State.updReq_jobs (s : State) (n : Nat) (f : Req → Req) : (s.updReq n f).jobs = s.jobs := rfl
@[simp] theorem State.updReq_bankfmt (s : State) (n : Nat) (f : Req → Req) : (s.updReq n f).bankfmt = s.bankfmt := rfl
@[simp] theorem State.updReq_saved (s : State) (n : Nat) (f : Req → Req) : (s.updReq n f).saved = s.saved := rfl
@[simp] theorem State.updReq_futures (s : State) (n : Nat) (f : Req → Req) : (s.updReq n f).futures = s.futures := rfl
@[simp] theorem State.updReq_localMem (s : State) (n : Nat) (f : Req → Req) : (s.updReq n f).localMem = s.localMem := rfl
@[simp] theorem State.updReq_scratch (s : State) (n : Nat) (f : Req → Req) : (s.updReq n f).scratch = s.scratch := rfl
@[simp] theorem State.updReq_codeMem (s : State) (n : Nat) (f : Req → Req) : (s.updReq n f).codeMem = s.codeMem := rfl
@[simp] theorem State.updReq_hbm (s : State) (n : Nat) (f : Req → Req) : (s.updReq n f).hbm = s.hbm := rfl
@[simp] theorem State.updReq_hostMem (s : State) (n : Nat) (f : Req → Req) : (s.updReq n f).hostMem = s.hostMem := rfl
@[simp] theorem State.updReq_writes (s : State) (n : Nat) (f : Req → Req) : (s.updReq n f).writes = s.writes := rfl
@[simp] theorem State.updReq_fences (s : State) (n : Nat) (f : Req → Req) : (s.updReq n f).fences = s.fences := rfl
@[simp] theorem State.updReq_gains (s : State) (n : Nat) (f : Req → Req) : (s.updReq n f).gains = s.gains := rfl
@[simp] theorem State.updReq_eccLocal (s : State) (n : Nat) (f : Req → Req) : (s.updReq n f).eccLocal = s.eccLocal := rfl
@[simp] theorem State.updReq_eccScratch (s : State) (n : Nat) (f : Req → Req) : (s.updReq n f).eccScratch = s.eccScratch := rfl
@[simp] theorem State.updReq_eccCode (s : State) (n : Nat) (f : Req → Req) : (s.updReq n f).eccCode = s.eccCode := rfl
@[simp] theorem State.updReq_stationTlb (s : State) (n : Nat) (f : Req → Req) : (s.updReq n f).stationTlb = s.stationTlb := rfl
@[simp] theorem State.updReq_dieTlb (s : State) (n : Nat) (f : Req → Req) : (s.updReq n f).dieTlb = s.dieTlb := rfl
@[simp] theorem State.updReq_walks (s : State) (n : Nat) (f : Req → Req) : (s.updReq n f).walks = s.walks := rfl
@[simp] theorem State.updReq_services (s : State) (n : Nat) (f : Req → Req) : (s.updReq n f).services = s.services := rfl
@[simp] theorem State.updReq_moves (s : State) (n : Nat) (f : Req → Req) : (s.updReq n f).moves = s.moves := rfl
@[simp] theorem State.updReq_counts (s : State) (n : Nat) (f : Req → Req) : (s.updReq n f).counts = s.counts := rfl
@[simp] theorem State.updReq_pools (s : State) (n : Nat) (f : Req → Req) : (s.updReq n f).pools = s.pools := rfl
@[simp] theorem State.updReq_fwdCredits (s : State) (n : Nat) (f : Req → Req) : (s.updReq n f).fwdCredits = s.fwdCredits := rfl
@[simp] theorem State.updReq_btes (s : State) (n : Nat) (f : Req → Req) : (s.updReq n f).btes = s.btes := rfl
@[simp] theorem State.updReq_sqes (s : State) (n : Nat) (f : Req → Req) : (s.updReq n f).sqes = s.sqes := rfl
@[simp] theorem State.updReq_nvme (s : State) (n : Nat) (f : Req → Req) : (s.updReq n f).nvme = s.nvme := rfl
@[simp] theorem State.updReq_queues (s : State) (n : Nat) (f : Req → Req) : (s.updReq n f).queues = s.queues := rfl
@[simp] theorem State.updReq_deviceQ (s : State) (n : Nat) (f : Req → Req) : (s.updReq n f).deviceQ = s.deviceQ := rfl
@[simp] theorem State.updReq_waiting (s : State) (n : Nat) (f : Req → Req) : (s.updReq n f).waiting = s.waiting := rfl
@[simp] theorem State.updReq_loading (s : State) (n : Nat) (f : Req → Req) : (s.updReq n f).loading = s.loading := rfl
@[simp] theorem State.updReq_restores (s : State) (n : Nat) (f : Req → Req) : (s.updReq n f).restores = s.restores := rfl
@[simp] theorem State.updReq_rrQueue (s : State) (n : Nat) (f : Req → Req) : (s.updReq n f).rrQueue = s.rrQueue := rfl
@[simp] theorem State.updReq_chains (s : State) (n : Nat) (f : Req → Req) : (s.updReq n f).chains = s.chains := rfl
@[simp] theorem State.updReq_digests (s : State) (n : Nat) (f : Req → Req) : (s.updReq n f).digests = s.digests := rfl
@[simp] theorem State.updReq_tlbJob (s : State) (n : Nat) (f : Req → Req) : (s.updReq n f).tlbJob = s.tlbJob := rfl
@[simp] theorem State.updReq_tlbAll (s : State) (n : Nat) (f : Req → Req) : (s.updReq n f).tlbAll = s.tlbAll := rfl
@[simp] theorem State.updReq_tlbVa (s : State) (n : Nat) (f : Req → Req) : (s.updReq n f).tlbVa = s.tlbVa := rfl
@[simp] theorem State.updReq_tlbBusy (s : State) (n : Nat) (f : Req → Req) : (s.updReq n f).tlbBusy = s.tlbBusy := rfl
@[simp] theorem State.updReq_devid (s : State) (n : Nat) (f : Req → Req) : (s.updReq n f).devid = s.devid := rfl
@[simp] theorem State.updReq_ports (s : State) (n : Nat) (f : Req → Req) : (s.updReq n f).ports = s.ports := rfl
@[simp] theorem State.updReq_routes (s : State) (n : Nat) (f : Req → Req) : (s.updReq n f).routes = s.routes := rfl
@[simp] theorem State.updReq_fabOut (s : State) (n : Nat) (f : Req → Req) : (s.updReq n f).fabOut = s.fabOut := rfl
@[simp] theorem State.updReq_fabWait (s : State) (n : Nat) (f : Req → Req) : (s.updReq n f).fabWait = s.fabWait := rfl
@[simp] theorem State.updReq_jobTags (s : State) (n : Nat) (f : Req → Req) : (s.updReq n f).jobTags = s.jobTags := rfl
@[simp] theorem State.updReq_privvf (s : State) (n : Nat) (f : Req → Req) : (s.updReq n f).privvf = s.privvf := rfl
@[simp] theorem State.updReq_hostFut (s : State) (n : Nat) (f : Req → Req) : (s.updReq n f).hostFut = s.hostFut := rfl
@[simp] theorem State.updReq_hostKnow (s : State) (n : Nat) (f : Req → Req) : (s.updReq n f).hostKnow = s.hostKnow := rfl
@[simp] theorem State.updReq_winbase (s : State) (n : Nat) (f : Req → Req) : (s.updReq n f).winbase = s.winbase := rfl
@[simp] theorem State.updReq_winbaseOld (s : State) (n : Nat) (f : Req → Req) : (s.updReq n f).winbaseOld = s.winbaseOld := rfl
@[simp] theorem State.updReq_winRead (s : State) (n : Nat) (f : Req → Req) : (s.updReq n f).winRead = s.winRead := rfl
@[simp] theorem State.updReq_msix (s : State) (n : Nat) (f : Req → Req) : (s.updReq n f).msix = s.msix := rfl
@[simp] theorem State.updReq_melbex (s : State) (n : Nat) (f : Req → Req) : (s.updReq n f).melbex = s.melbex := rfl
@[simp] theorem State.updReq_trace (s : State) (n : Nat) (f : Req → Req) : (s.updReq n f).trace = s.trace := rfl
@[simp] theorem State.updReq_log (s : State) (n : Nat) (f : Req → Req) : (s.updReq n f).log = s.log := rfl
@[simp] theorem State.updReq_budget (s : State) (n : Nat) (f : Req → Req) : (s.updReq n f).budget = s.budget := rfl
@[simp] theorem State.updReq_dutyCap (s : State) (n : Nat) (f : Req → Req) : (s.updReq n f).dutyCap = s.dutyCap := rfl
@[simp] theorem State.updReq_halted (s : State) (n : Nat) (f : Req → Req) : (s.updReq n f).halted = s.halted := rfl
@[simp] theorem State.updReq_inReset (s : State) (n : Nat) (f : Req → Req) : (s.updReq n f).inReset = s.inReset := rfl
@[simp] theorem State.updReq_link (s : State) (n : Nat) (f : Req → Req) : (s.updReq n f).link = s.link := rfl
@[simp] theorem State.updReq_ckpt (s : State) (n : Nat) (f : Req → Req) : (s.updReq n f).ckpt = s.ckpt := rfl
@[simp] theorem State.updReq_peerDigests (s : State) (n : Nat) (f : Req → Req) : (s.updReq n f).peerDigests = s.peerDigests := rfl

@[simp] theorem State.dropReq_clk (s : State) (n : Nat) : (s.dropReq n).clk = s.clk := rfl
@[simp] theorem State.dropReq_cur (s : State) (n : Nat) : (s.dropReq n).cur = s.cur := rfl
@[simp] theorem State.dropReq_free (s : State) (n : Nat) : (s.dropReq n).free = s.free := rfl
@[simp] theorem State.dropReq_serial (s : State) (n : Nat) : (s.dropReq n).serial = s.serial := rfl
@[simp] theorem State.dropReq_turns (s : State) (n : Nat) : (s.dropReq n).turns = s.turns := rfl
@[simp] theorem State.dropReq_turnNo (s : State) (n : Nat) : (s.dropReq n).turnNo = s.turnNo := rfl
@[simp] theorem State.dropReq_limmOpen (s : State) (n : Nat) : (s.dropReq n).limmOpen = s.limmOpen := rfl
@[simp] theorem State.dropReq_ctxs (s : State) (n : Nat) : (s.dropReq n).ctxs = s.ctxs := rfl
@[simp] theorem State.dropReq_tasks (s : State) (n : Nat) : (s.dropReq n).tasks = s.tasks := rfl
@[simp] theorem State.dropReq_parties (s : State) (n : Nat) : (s.dropReq n).parties = s.parties := rfl
@[simp] theorem State.dropReq_cores (s : State) (n : Nat) : (s.dropReq n).cores = s.cores := rfl
@[simp] theorem State.dropReq_chans (s : State) (n : Nat) : (s.dropReq n).chans = s.chans := rfl
@[simp] theorem State.dropReq_arrSeqs (s : State) (n : Nat) : (s.dropReq n).arrSeqs = s.arrSeqs := rfl
@[simp] theorem State.dropReq_tiles (s : State) (n : Nat) : (s.dropReq n).tiles = s.tiles := rfl
@[simp] theorem State.dropReq_ops (s : State) (n : Nat) : (s.dropReq n).ops = s.ops := rfl
@[simp] theorem State.dropReq_stores (s : State) (n : Nat) : (s.dropReq n).stores = s.stores := rfl
@[simp] theorem State.dropReq_accs (s : State) (n : Nat) : (s.dropReq n).accs = s.accs := rfl
@[simp] theorem State.dropReq_outs (s : State) (n : Nat) : (s.dropReq n).outs = s.outs := rfl
@[simp] theorem State.dropReq_packets (s : State) (n : Nat) : (s.dropReq n).packets = s.packets := rfl
@[simp] theorem State.dropReq_routers (s : State) (n : Nat) : (s.dropReq n).routers = s.routers := rfl
@[simp] theorem State.dropReq_jobs (s : State) (n : Nat) : (s.dropReq n).jobs = s.jobs := rfl
@[simp] theorem State.dropReq_bankfmt (s : State) (n : Nat) : (s.dropReq n).bankfmt = s.bankfmt := rfl
@[simp] theorem State.dropReq_saved (s : State) (n : Nat) : (s.dropReq n).saved = s.saved := rfl
@[simp] theorem State.dropReq_futures (s : State) (n : Nat) : (s.dropReq n).futures = s.futures := rfl
@[simp] theorem State.dropReq_localMem (s : State) (n : Nat) : (s.dropReq n).localMem = s.localMem := rfl
@[simp] theorem State.dropReq_scratch (s : State) (n : Nat) : (s.dropReq n).scratch = s.scratch := rfl
@[simp] theorem State.dropReq_codeMem (s : State) (n : Nat) : (s.dropReq n).codeMem = s.codeMem := rfl
@[simp] theorem State.dropReq_hbm (s : State) (n : Nat) : (s.dropReq n).hbm = s.hbm := rfl
@[simp] theorem State.dropReq_hostMem (s : State) (n : Nat) : (s.dropReq n).hostMem = s.hostMem := rfl
@[simp] theorem State.dropReq_writes (s : State) (n : Nat) : (s.dropReq n).writes = s.writes := rfl
@[simp] theorem State.dropReq_fences (s : State) (n : Nat) : (s.dropReq n).fences = s.fences := rfl
@[simp] theorem State.dropReq_gains (s : State) (n : Nat) : (s.dropReq n).gains = s.gains := rfl
@[simp] theorem State.dropReq_eccLocal (s : State) (n : Nat) : (s.dropReq n).eccLocal = s.eccLocal := rfl
@[simp] theorem State.dropReq_eccScratch (s : State) (n : Nat) : (s.dropReq n).eccScratch = s.eccScratch := rfl
@[simp] theorem State.dropReq_eccCode (s : State) (n : Nat) : (s.dropReq n).eccCode = s.eccCode := rfl
@[simp] theorem State.dropReq_stationTlb (s : State) (n : Nat) : (s.dropReq n).stationTlb = s.stationTlb := rfl
@[simp] theorem State.dropReq_dieTlb (s : State) (n : Nat) : (s.dropReq n).dieTlb = s.dieTlb := rfl
@[simp] theorem State.dropReq_walks (s : State) (n : Nat) : (s.dropReq n).walks = s.walks := rfl
@[simp] theorem State.dropReq_services (s : State) (n : Nat) : (s.dropReq n).services = s.services := rfl
@[simp] theorem State.dropReq_moves (s : State) (n : Nat) : (s.dropReq n).moves = s.moves := rfl
@[simp] theorem State.dropReq_counts (s : State) (n : Nat) : (s.dropReq n).counts = s.counts := rfl
@[simp] theorem State.dropReq_pools (s : State) (n : Nat) : (s.dropReq n).pools = s.pools := rfl
@[simp] theorem State.dropReq_fwdCredits (s : State) (n : Nat) : (s.dropReq n).fwdCredits = s.fwdCredits := rfl
@[simp] theorem State.dropReq_btes (s : State) (n : Nat) : (s.dropReq n).btes = s.btes := rfl
@[simp] theorem State.dropReq_sqes (s : State) (n : Nat) : (s.dropReq n).sqes = s.sqes := rfl
@[simp] theorem State.dropReq_nvme (s : State) (n : Nat) : (s.dropReq n).nvme = s.nvme := rfl
@[simp] theorem State.dropReq_queues (s : State) (n : Nat) : (s.dropReq n).queues = s.queues := rfl
@[simp] theorem State.dropReq_deviceQ (s : State) (n : Nat) : (s.dropReq n).deviceQ = s.deviceQ := rfl
@[simp] theorem State.dropReq_waiting (s : State) (n : Nat) : (s.dropReq n).waiting = s.waiting := rfl
@[simp] theorem State.dropReq_loading (s : State) (n : Nat) : (s.dropReq n).loading = s.loading := rfl
@[simp] theorem State.dropReq_restores (s : State) (n : Nat) : (s.dropReq n).restores = s.restores := rfl
@[simp] theorem State.dropReq_rrQueue (s : State) (n : Nat) : (s.dropReq n).rrQueue = s.rrQueue := rfl
@[simp] theorem State.dropReq_chains (s : State) (n : Nat) : (s.dropReq n).chains = s.chains := rfl
@[simp] theorem State.dropReq_digests (s : State) (n : Nat) : (s.dropReq n).digests = s.digests := rfl
@[simp] theorem State.dropReq_tlbJob (s : State) (n : Nat) : (s.dropReq n).tlbJob = s.tlbJob := rfl
@[simp] theorem State.dropReq_tlbAll (s : State) (n : Nat) : (s.dropReq n).tlbAll = s.tlbAll := rfl
@[simp] theorem State.dropReq_tlbVa (s : State) (n : Nat) : (s.dropReq n).tlbVa = s.tlbVa := rfl
@[simp] theorem State.dropReq_tlbBusy (s : State) (n : Nat) : (s.dropReq n).tlbBusy = s.tlbBusy := rfl
@[simp] theorem State.dropReq_devid (s : State) (n : Nat) : (s.dropReq n).devid = s.devid := rfl
@[simp] theorem State.dropReq_ports (s : State) (n : Nat) : (s.dropReq n).ports = s.ports := rfl
@[simp] theorem State.dropReq_routes (s : State) (n : Nat) : (s.dropReq n).routes = s.routes := rfl
@[simp] theorem State.dropReq_fabOut (s : State) (n : Nat) : (s.dropReq n).fabOut = s.fabOut := rfl
@[simp] theorem State.dropReq_fabWait (s : State) (n : Nat) : (s.dropReq n).fabWait = s.fabWait := rfl
@[simp] theorem State.dropReq_jobTags (s : State) (n : Nat) : (s.dropReq n).jobTags = s.jobTags := rfl
@[simp] theorem State.dropReq_privvf (s : State) (n : Nat) : (s.dropReq n).privvf = s.privvf := rfl
@[simp] theorem State.dropReq_hostFut (s : State) (n : Nat) : (s.dropReq n).hostFut = s.hostFut := rfl
@[simp] theorem State.dropReq_hostKnow (s : State) (n : Nat) : (s.dropReq n).hostKnow = s.hostKnow := rfl
@[simp] theorem State.dropReq_winbase (s : State) (n : Nat) : (s.dropReq n).winbase = s.winbase := rfl
@[simp] theorem State.dropReq_winbaseOld (s : State) (n : Nat) : (s.dropReq n).winbaseOld = s.winbaseOld := rfl
@[simp] theorem State.dropReq_winRead (s : State) (n : Nat) : (s.dropReq n).winRead = s.winRead := rfl
@[simp] theorem State.dropReq_msix (s : State) (n : Nat) : (s.dropReq n).msix = s.msix := rfl
@[simp] theorem State.dropReq_melbex (s : State) (n : Nat) : (s.dropReq n).melbex = s.melbex := rfl
@[simp] theorem State.dropReq_trace (s : State) (n : Nat) : (s.dropReq n).trace = s.trace := rfl
@[simp] theorem State.dropReq_log (s : State) (n : Nat) : (s.dropReq n).log = s.log := rfl
@[simp] theorem State.dropReq_budget (s : State) (n : Nat) : (s.dropReq n).budget = s.budget := rfl
@[simp] theorem State.dropReq_dutyCap (s : State) (n : Nat) : (s.dropReq n).dutyCap = s.dutyCap := rfl
@[simp] theorem State.dropReq_halted (s : State) (n : Nat) : (s.dropReq n).halted = s.halted := rfl
@[simp] theorem State.dropReq_inReset (s : State) (n : Nat) : (s.dropReq n).inReset = s.inReset := rfl
@[simp] theorem State.dropReq_link (s : State) (n : Nat) : (s.dropReq n).link = s.link := rfl
@[simp] theorem State.dropReq_ckpt (s : State) (n : Nat) : (s.dropReq n).ckpt = s.ckpt := rfl
@[simp] theorem State.dropReq_peerDigests (s : State) (n : Nat) : (s.dropReq n).peerDigests = s.peerDigests := rfl

@[simp] theorem State.updOut_clk (s : State) (n : Nat) (f : OutMsg → OutMsg) : (s.updOut n f).clk = s.clk := rfl
@[simp] theorem State.updOut_cur (s : State) (n : Nat) (f : OutMsg → OutMsg) : (s.updOut n f).cur = s.cur := rfl
@[simp] theorem State.updOut_free (s : State) (n : Nat) (f : OutMsg → OutMsg) : (s.updOut n f).free = s.free := rfl
@[simp] theorem State.updOut_serial (s : State) (n : Nat) (f : OutMsg → OutMsg) : (s.updOut n f).serial = s.serial := rfl
@[simp] theorem State.updOut_turns (s : State) (n : Nat) (f : OutMsg → OutMsg) : (s.updOut n f).turns = s.turns := rfl
@[simp] theorem State.updOut_turnNo (s : State) (n : Nat) (f : OutMsg → OutMsg) : (s.updOut n f).turnNo = s.turnNo := rfl
@[simp] theorem State.updOut_limmOpen (s : State) (n : Nat) (f : OutMsg → OutMsg) : (s.updOut n f).limmOpen = s.limmOpen := rfl
@[simp] theorem State.updOut_ctxs (s : State) (n : Nat) (f : OutMsg → OutMsg) : (s.updOut n f).ctxs = s.ctxs := rfl
@[simp] theorem State.updOut_tasks (s : State) (n : Nat) (f : OutMsg → OutMsg) : (s.updOut n f).tasks = s.tasks := rfl
@[simp] theorem State.updOut_parties (s : State) (n : Nat) (f : OutMsg → OutMsg) : (s.updOut n f).parties = s.parties := rfl
@[simp] theorem State.updOut_cores (s : State) (n : Nat) (f : OutMsg → OutMsg) : (s.updOut n f).cores = s.cores := rfl
@[simp] theorem State.updOut_chans (s : State) (n : Nat) (f : OutMsg → OutMsg) : (s.updOut n f).chans = s.chans := rfl
@[simp] theorem State.updOut_arrSeqs (s : State) (n : Nat) (f : OutMsg → OutMsg) : (s.updOut n f).arrSeqs = s.arrSeqs := rfl
@[simp] theorem State.updOut_tiles (s : State) (n : Nat) (f : OutMsg → OutMsg) : (s.updOut n f).tiles = s.tiles := rfl
@[simp] theorem State.updOut_ops (s : State) (n : Nat) (f : OutMsg → OutMsg) : (s.updOut n f).ops = s.ops := rfl
@[simp] theorem State.updOut_stores (s : State) (n : Nat) (f : OutMsg → OutMsg) : (s.updOut n f).stores = s.stores := rfl
@[simp] theorem State.updOut_accs (s : State) (n : Nat) (f : OutMsg → OutMsg) : (s.updOut n f).accs = s.accs := rfl
@[simp] theorem State.updOut_reqs (s : State) (n : Nat) (f : OutMsg → OutMsg) : (s.updOut n f).reqs = s.reqs := rfl
@[simp] theorem State.updOut_packets (s : State) (n : Nat) (f : OutMsg → OutMsg) : (s.updOut n f).packets = s.packets := rfl
@[simp] theorem State.updOut_routers (s : State) (n : Nat) (f : OutMsg → OutMsg) : (s.updOut n f).routers = s.routers := rfl
@[simp] theorem State.updOut_jobs (s : State) (n : Nat) (f : OutMsg → OutMsg) : (s.updOut n f).jobs = s.jobs := rfl
@[simp] theorem State.updOut_bankfmt (s : State) (n : Nat) (f : OutMsg → OutMsg) : (s.updOut n f).bankfmt = s.bankfmt := rfl
@[simp] theorem State.updOut_saved (s : State) (n : Nat) (f : OutMsg → OutMsg) : (s.updOut n f).saved = s.saved := rfl
@[simp] theorem State.updOut_futures (s : State) (n : Nat) (f : OutMsg → OutMsg) : (s.updOut n f).futures = s.futures := rfl
@[simp] theorem State.updOut_localMem (s : State) (n : Nat) (f : OutMsg → OutMsg) : (s.updOut n f).localMem = s.localMem := rfl
@[simp] theorem State.updOut_scratch (s : State) (n : Nat) (f : OutMsg → OutMsg) : (s.updOut n f).scratch = s.scratch := rfl
@[simp] theorem State.updOut_codeMem (s : State) (n : Nat) (f : OutMsg → OutMsg) : (s.updOut n f).codeMem = s.codeMem := rfl
@[simp] theorem State.updOut_hbm (s : State) (n : Nat) (f : OutMsg → OutMsg) : (s.updOut n f).hbm = s.hbm := rfl
@[simp] theorem State.updOut_hostMem (s : State) (n : Nat) (f : OutMsg → OutMsg) : (s.updOut n f).hostMem = s.hostMem := rfl
@[simp] theorem State.updOut_writes (s : State) (n : Nat) (f : OutMsg → OutMsg) : (s.updOut n f).writes = s.writes := rfl
@[simp] theorem State.updOut_fences (s : State) (n : Nat) (f : OutMsg → OutMsg) : (s.updOut n f).fences = s.fences := rfl
@[simp] theorem State.updOut_gains (s : State) (n : Nat) (f : OutMsg → OutMsg) : (s.updOut n f).gains = s.gains := rfl
@[simp] theorem State.updOut_eccLocal (s : State) (n : Nat) (f : OutMsg → OutMsg) : (s.updOut n f).eccLocal = s.eccLocal := rfl
@[simp] theorem State.updOut_eccScratch (s : State) (n : Nat) (f : OutMsg → OutMsg) : (s.updOut n f).eccScratch = s.eccScratch := rfl
@[simp] theorem State.updOut_eccCode (s : State) (n : Nat) (f : OutMsg → OutMsg) : (s.updOut n f).eccCode = s.eccCode := rfl
@[simp] theorem State.updOut_stationTlb (s : State) (n : Nat) (f : OutMsg → OutMsg) : (s.updOut n f).stationTlb = s.stationTlb := rfl
@[simp] theorem State.updOut_dieTlb (s : State) (n : Nat) (f : OutMsg → OutMsg) : (s.updOut n f).dieTlb = s.dieTlb := rfl
@[simp] theorem State.updOut_walks (s : State) (n : Nat) (f : OutMsg → OutMsg) : (s.updOut n f).walks = s.walks := rfl
@[simp] theorem State.updOut_services (s : State) (n : Nat) (f : OutMsg → OutMsg) : (s.updOut n f).services = s.services := rfl
@[simp] theorem State.updOut_moves (s : State) (n : Nat) (f : OutMsg → OutMsg) : (s.updOut n f).moves = s.moves := rfl
@[simp] theorem State.updOut_counts (s : State) (n : Nat) (f : OutMsg → OutMsg) : (s.updOut n f).counts = s.counts := rfl
@[simp] theorem State.updOut_pools (s : State) (n : Nat) (f : OutMsg → OutMsg) : (s.updOut n f).pools = s.pools := rfl
@[simp] theorem State.updOut_fwdCredits (s : State) (n : Nat) (f : OutMsg → OutMsg) : (s.updOut n f).fwdCredits = s.fwdCredits := rfl
@[simp] theorem State.updOut_btes (s : State) (n : Nat) (f : OutMsg → OutMsg) : (s.updOut n f).btes = s.btes := rfl
@[simp] theorem State.updOut_sqes (s : State) (n : Nat) (f : OutMsg → OutMsg) : (s.updOut n f).sqes = s.sqes := rfl
@[simp] theorem State.updOut_nvme (s : State) (n : Nat) (f : OutMsg → OutMsg) : (s.updOut n f).nvme = s.nvme := rfl
@[simp] theorem State.updOut_queues (s : State) (n : Nat) (f : OutMsg → OutMsg) : (s.updOut n f).queues = s.queues := rfl
@[simp] theorem State.updOut_deviceQ (s : State) (n : Nat) (f : OutMsg → OutMsg) : (s.updOut n f).deviceQ = s.deviceQ := rfl
@[simp] theorem State.updOut_waiting (s : State) (n : Nat) (f : OutMsg → OutMsg) : (s.updOut n f).waiting = s.waiting := rfl
@[simp] theorem State.updOut_loading (s : State) (n : Nat) (f : OutMsg → OutMsg) : (s.updOut n f).loading = s.loading := rfl
@[simp] theorem State.updOut_restores (s : State) (n : Nat) (f : OutMsg → OutMsg) : (s.updOut n f).restores = s.restores := rfl
@[simp] theorem State.updOut_rrQueue (s : State) (n : Nat) (f : OutMsg → OutMsg) : (s.updOut n f).rrQueue = s.rrQueue := rfl
@[simp] theorem State.updOut_chains (s : State) (n : Nat) (f : OutMsg → OutMsg) : (s.updOut n f).chains = s.chains := rfl
@[simp] theorem State.updOut_digests (s : State) (n : Nat) (f : OutMsg → OutMsg) : (s.updOut n f).digests = s.digests := rfl
@[simp] theorem State.updOut_tlbJob (s : State) (n : Nat) (f : OutMsg → OutMsg) : (s.updOut n f).tlbJob = s.tlbJob := rfl
@[simp] theorem State.updOut_tlbAll (s : State) (n : Nat) (f : OutMsg → OutMsg) : (s.updOut n f).tlbAll = s.tlbAll := rfl
@[simp] theorem State.updOut_tlbVa (s : State) (n : Nat) (f : OutMsg → OutMsg) : (s.updOut n f).tlbVa = s.tlbVa := rfl
@[simp] theorem State.updOut_tlbBusy (s : State) (n : Nat) (f : OutMsg → OutMsg) : (s.updOut n f).tlbBusy = s.tlbBusy := rfl
@[simp] theorem State.updOut_devid (s : State) (n : Nat) (f : OutMsg → OutMsg) : (s.updOut n f).devid = s.devid := rfl
@[simp] theorem State.updOut_ports (s : State) (n : Nat) (f : OutMsg → OutMsg) : (s.updOut n f).ports = s.ports := rfl
@[simp] theorem State.updOut_routes (s : State) (n : Nat) (f : OutMsg → OutMsg) : (s.updOut n f).routes = s.routes := rfl
@[simp] theorem State.updOut_fabOut (s : State) (n : Nat) (f : OutMsg → OutMsg) : (s.updOut n f).fabOut = s.fabOut := rfl
@[simp] theorem State.updOut_fabWait (s : State) (n : Nat) (f : OutMsg → OutMsg) : (s.updOut n f).fabWait = s.fabWait := rfl
@[simp] theorem State.updOut_jobTags (s : State) (n : Nat) (f : OutMsg → OutMsg) : (s.updOut n f).jobTags = s.jobTags := rfl
@[simp] theorem State.updOut_privvf (s : State) (n : Nat) (f : OutMsg → OutMsg) : (s.updOut n f).privvf = s.privvf := rfl
@[simp] theorem State.updOut_hostFut (s : State) (n : Nat) (f : OutMsg → OutMsg) : (s.updOut n f).hostFut = s.hostFut := rfl
@[simp] theorem State.updOut_hostKnow (s : State) (n : Nat) (f : OutMsg → OutMsg) : (s.updOut n f).hostKnow = s.hostKnow := rfl
@[simp] theorem State.updOut_winbase (s : State) (n : Nat) (f : OutMsg → OutMsg) : (s.updOut n f).winbase = s.winbase := rfl
@[simp] theorem State.updOut_winbaseOld (s : State) (n : Nat) (f : OutMsg → OutMsg) : (s.updOut n f).winbaseOld = s.winbaseOld := rfl
@[simp] theorem State.updOut_winRead (s : State) (n : Nat) (f : OutMsg → OutMsg) : (s.updOut n f).winRead = s.winRead := rfl
@[simp] theorem State.updOut_msix (s : State) (n : Nat) (f : OutMsg → OutMsg) : (s.updOut n f).msix = s.msix := rfl
@[simp] theorem State.updOut_melbex (s : State) (n : Nat) (f : OutMsg → OutMsg) : (s.updOut n f).melbex = s.melbex := rfl
@[simp] theorem State.updOut_trace (s : State) (n : Nat) (f : OutMsg → OutMsg) : (s.updOut n f).trace = s.trace := rfl
@[simp] theorem State.updOut_log (s : State) (n : Nat) (f : OutMsg → OutMsg) : (s.updOut n f).log = s.log := rfl
@[simp] theorem State.updOut_budget (s : State) (n : Nat) (f : OutMsg → OutMsg) : (s.updOut n f).budget = s.budget := rfl
@[simp] theorem State.updOut_dutyCap (s : State) (n : Nat) (f : OutMsg → OutMsg) : (s.updOut n f).dutyCap = s.dutyCap := rfl
@[simp] theorem State.updOut_halted (s : State) (n : Nat) (f : OutMsg → OutMsg) : (s.updOut n f).halted = s.halted := rfl
@[simp] theorem State.updOut_inReset (s : State) (n : Nat) (f : OutMsg → OutMsg) : (s.updOut n f).inReset = s.inReset := rfl
@[simp] theorem State.updOut_link (s : State) (n : Nat) (f : OutMsg → OutMsg) : (s.updOut n f).link = s.link := rfl
@[simp] theorem State.updOut_ckpt (s : State) (n : Nat) (f : OutMsg → OutMsg) : (s.updOut n f).ckpt = s.ckpt := rfl
@[simp] theorem State.updOut_peerDigests (s : State) (n : Nat) (f : OutMsg → OutMsg) : (s.updOut n f).peerDigests = s.peerDigests := rfl

@[simp] theorem State.dropOut_clk (s : State) (n : Nat) : (s.dropOut n).clk = s.clk := rfl
@[simp] theorem State.dropOut_cur (s : State) (n : Nat) : (s.dropOut n).cur = s.cur := rfl
@[simp] theorem State.dropOut_free (s : State) (n : Nat) : (s.dropOut n).free = s.free := rfl
@[simp] theorem State.dropOut_serial (s : State) (n : Nat) : (s.dropOut n).serial = s.serial := rfl
@[simp] theorem State.dropOut_turns (s : State) (n : Nat) : (s.dropOut n).turns = s.turns := rfl
@[simp] theorem State.dropOut_turnNo (s : State) (n : Nat) : (s.dropOut n).turnNo = s.turnNo := rfl
@[simp] theorem State.dropOut_limmOpen (s : State) (n : Nat) : (s.dropOut n).limmOpen = s.limmOpen := rfl
@[simp] theorem State.dropOut_ctxs (s : State) (n : Nat) : (s.dropOut n).ctxs = s.ctxs := rfl
@[simp] theorem State.dropOut_tasks (s : State) (n : Nat) : (s.dropOut n).tasks = s.tasks := rfl
@[simp] theorem State.dropOut_parties (s : State) (n : Nat) : (s.dropOut n).parties = s.parties := rfl
@[simp] theorem State.dropOut_cores (s : State) (n : Nat) : (s.dropOut n).cores = s.cores := rfl
@[simp] theorem State.dropOut_chans (s : State) (n : Nat) : (s.dropOut n).chans = s.chans := rfl
@[simp] theorem State.dropOut_arrSeqs (s : State) (n : Nat) : (s.dropOut n).arrSeqs = s.arrSeqs := rfl
@[simp] theorem State.dropOut_tiles (s : State) (n : Nat) : (s.dropOut n).tiles = s.tiles := rfl
@[simp] theorem State.dropOut_ops (s : State) (n : Nat) : (s.dropOut n).ops = s.ops := rfl
@[simp] theorem State.dropOut_stores (s : State) (n : Nat) : (s.dropOut n).stores = s.stores := rfl
@[simp] theorem State.dropOut_accs (s : State) (n : Nat) : (s.dropOut n).accs = s.accs := rfl
@[simp] theorem State.dropOut_reqs (s : State) (n : Nat) : (s.dropOut n).reqs = s.reqs := rfl
@[simp] theorem State.dropOut_packets (s : State) (n : Nat) : (s.dropOut n).packets = s.packets := rfl
@[simp] theorem State.dropOut_routers (s : State) (n : Nat) : (s.dropOut n).routers = s.routers := rfl
@[simp] theorem State.dropOut_jobs (s : State) (n : Nat) : (s.dropOut n).jobs = s.jobs := rfl
@[simp] theorem State.dropOut_bankfmt (s : State) (n : Nat) : (s.dropOut n).bankfmt = s.bankfmt := rfl
@[simp] theorem State.dropOut_saved (s : State) (n : Nat) : (s.dropOut n).saved = s.saved := rfl
@[simp] theorem State.dropOut_futures (s : State) (n : Nat) : (s.dropOut n).futures = s.futures := rfl
@[simp] theorem State.dropOut_localMem (s : State) (n : Nat) : (s.dropOut n).localMem = s.localMem := rfl
@[simp] theorem State.dropOut_scratch (s : State) (n : Nat) : (s.dropOut n).scratch = s.scratch := rfl
@[simp] theorem State.dropOut_codeMem (s : State) (n : Nat) : (s.dropOut n).codeMem = s.codeMem := rfl
@[simp] theorem State.dropOut_hbm (s : State) (n : Nat) : (s.dropOut n).hbm = s.hbm := rfl
@[simp] theorem State.dropOut_hostMem (s : State) (n : Nat) : (s.dropOut n).hostMem = s.hostMem := rfl
@[simp] theorem State.dropOut_writes (s : State) (n : Nat) : (s.dropOut n).writes = s.writes := rfl
@[simp] theorem State.dropOut_fences (s : State) (n : Nat) : (s.dropOut n).fences = s.fences := rfl
@[simp] theorem State.dropOut_gains (s : State) (n : Nat) : (s.dropOut n).gains = s.gains := rfl
@[simp] theorem State.dropOut_eccLocal (s : State) (n : Nat) : (s.dropOut n).eccLocal = s.eccLocal := rfl
@[simp] theorem State.dropOut_eccScratch (s : State) (n : Nat) : (s.dropOut n).eccScratch = s.eccScratch := rfl
@[simp] theorem State.dropOut_eccCode (s : State) (n : Nat) : (s.dropOut n).eccCode = s.eccCode := rfl
@[simp] theorem State.dropOut_stationTlb (s : State) (n : Nat) : (s.dropOut n).stationTlb = s.stationTlb := rfl
@[simp] theorem State.dropOut_dieTlb (s : State) (n : Nat) : (s.dropOut n).dieTlb = s.dieTlb := rfl
@[simp] theorem State.dropOut_walks (s : State) (n : Nat) : (s.dropOut n).walks = s.walks := rfl
@[simp] theorem State.dropOut_services (s : State) (n : Nat) : (s.dropOut n).services = s.services := rfl
@[simp] theorem State.dropOut_moves (s : State) (n : Nat) : (s.dropOut n).moves = s.moves := rfl
@[simp] theorem State.dropOut_counts (s : State) (n : Nat) : (s.dropOut n).counts = s.counts := rfl
@[simp] theorem State.dropOut_pools (s : State) (n : Nat) : (s.dropOut n).pools = s.pools := rfl
@[simp] theorem State.dropOut_fwdCredits (s : State) (n : Nat) : (s.dropOut n).fwdCredits = s.fwdCredits := rfl
@[simp] theorem State.dropOut_btes (s : State) (n : Nat) : (s.dropOut n).btes = s.btes := rfl
@[simp] theorem State.dropOut_sqes (s : State) (n : Nat) : (s.dropOut n).sqes = s.sqes := rfl
@[simp] theorem State.dropOut_nvme (s : State) (n : Nat) : (s.dropOut n).nvme = s.nvme := rfl
@[simp] theorem State.dropOut_queues (s : State) (n : Nat) : (s.dropOut n).queues = s.queues := rfl
@[simp] theorem State.dropOut_deviceQ (s : State) (n : Nat) : (s.dropOut n).deviceQ = s.deviceQ := rfl
@[simp] theorem State.dropOut_waiting (s : State) (n : Nat) : (s.dropOut n).waiting = s.waiting := rfl
@[simp] theorem State.dropOut_loading (s : State) (n : Nat) : (s.dropOut n).loading = s.loading := rfl
@[simp] theorem State.dropOut_restores (s : State) (n : Nat) : (s.dropOut n).restores = s.restores := rfl
@[simp] theorem State.dropOut_rrQueue (s : State) (n : Nat) : (s.dropOut n).rrQueue = s.rrQueue := rfl
@[simp] theorem State.dropOut_chains (s : State) (n : Nat) : (s.dropOut n).chains = s.chains := rfl
@[simp] theorem State.dropOut_digests (s : State) (n : Nat) : (s.dropOut n).digests = s.digests := rfl
@[simp] theorem State.dropOut_tlbJob (s : State) (n : Nat) : (s.dropOut n).tlbJob = s.tlbJob := rfl
@[simp] theorem State.dropOut_tlbAll (s : State) (n : Nat) : (s.dropOut n).tlbAll = s.tlbAll := rfl
@[simp] theorem State.dropOut_tlbVa (s : State) (n : Nat) : (s.dropOut n).tlbVa = s.tlbVa := rfl
@[simp] theorem State.dropOut_tlbBusy (s : State) (n : Nat) : (s.dropOut n).tlbBusy = s.tlbBusy := rfl
@[simp] theorem State.dropOut_devid (s : State) (n : Nat) : (s.dropOut n).devid = s.devid := rfl
@[simp] theorem State.dropOut_ports (s : State) (n : Nat) : (s.dropOut n).ports = s.ports := rfl
@[simp] theorem State.dropOut_routes (s : State) (n : Nat) : (s.dropOut n).routes = s.routes := rfl
@[simp] theorem State.dropOut_fabOut (s : State) (n : Nat) : (s.dropOut n).fabOut = s.fabOut := rfl
@[simp] theorem State.dropOut_fabWait (s : State) (n : Nat) : (s.dropOut n).fabWait = s.fabWait := rfl
@[simp] theorem State.dropOut_jobTags (s : State) (n : Nat) : (s.dropOut n).jobTags = s.jobTags := rfl
@[simp] theorem State.dropOut_privvf (s : State) (n : Nat) : (s.dropOut n).privvf = s.privvf := rfl
@[simp] theorem State.dropOut_hostFut (s : State) (n : Nat) : (s.dropOut n).hostFut = s.hostFut := rfl
@[simp] theorem State.dropOut_hostKnow (s : State) (n : Nat) : (s.dropOut n).hostKnow = s.hostKnow := rfl
@[simp] theorem State.dropOut_winbase (s : State) (n : Nat) : (s.dropOut n).winbase = s.winbase := rfl
@[simp] theorem State.dropOut_winbaseOld (s : State) (n : Nat) : (s.dropOut n).winbaseOld = s.winbaseOld := rfl
@[simp] theorem State.dropOut_winRead (s : State) (n : Nat) : (s.dropOut n).winRead = s.winRead := rfl
@[simp] theorem State.dropOut_msix (s : State) (n : Nat) : (s.dropOut n).msix = s.msix := rfl
@[simp] theorem State.dropOut_melbex (s : State) (n : Nat) : (s.dropOut n).melbex = s.melbex := rfl
@[simp] theorem State.dropOut_trace (s : State) (n : Nat) : (s.dropOut n).trace = s.trace := rfl
@[simp] theorem State.dropOut_log (s : State) (n : Nat) : (s.dropOut n).log = s.log := rfl
@[simp] theorem State.dropOut_budget (s : State) (n : Nat) : (s.dropOut n).budget = s.budget := rfl
@[simp] theorem State.dropOut_dutyCap (s : State) (n : Nat) : (s.dropOut n).dutyCap = s.dutyCap := rfl
@[simp] theorem State.dropOut_halted (s : State) (n : Nat) : (s.dropOut n).halted = s.halted := rfl
@[simp] theorem State.dropOut_inReset (s : State) (n : Nat) : (s.dropOut n).inReset = s.inReset := rfl
@[simp] theorem State.dropOut_link (s : State) (n : Nat) : (s.dropOut n).link = s.link := rfl
@[simp] theorem State.dropOut_ckpt (s : State) (n : Nat) : (s.dropOut n).ckpt = s.ckpt := rfl
@[simp] theorem State.dropOut_peerDigests (s : State) (n : Nat) : (s.dropOut n).peerDigests = s.peerDigests := rfl

@[simp] theorem State.performAcc_clk (s : State) (n : Nat) : (s.performAcc n).clk = s.clk := rfl
@[simp] theorem State.performAcc_cur (s : State) (n : Nat) : (s.performAcc n).cur = s.cur := rfl
@[simp] theorem State.performAcc_free (s : State) (n : Nat) : (s.performAcc n).free = s.free := rfl
@[simp] theorem State.performAcc_serial (s : State) (n : Nat) : (s.performAcc n).serial = s.serial := rfl
@[simp] theorem State.performAcc_turns (s : State) (n : Nat) : (s.performAcc n).turns = s.turns := rfl
@[simp] theorem State.performAcc_turnNo (s : State) (n : Nat) : (s.performAcc n).turnNo = s.turnNo := rfl
@[simp] theorem State.performAcc_limmOpen (s : State) (n : Nat) : (s.performAcc n).limmOpen = s.limmOpen := rfl
@[simp] theorem State.performAcc_ctxs (s : State) (n : Nat) : (s.performAcc n).ctxs = s.ctxs := rfl
@[simp] theorem State.performAcc_tasks (s : State) (n : Nat) : (s.performAcc n).tasks = s.tasks := rfl
@[simp] theorem State.performAcc_parties (s : State) (n : Nat) : (s.performAcc n).parties = s.parties := rfl
@[simp] theorem State.performAcc_cores (s : State) (n : Nat) : (s.performAcc n).cores = s.cores := rfl
@[simp] theorem State.performAcc_chans (s : State) (n : Nat) : (s.performAcc n).chans = s.chans := rfl
@[simp] theorem State.performAcc_arrSeqs (s : State) (n : Nat) : (s.performAcc n).arrSeqs = s.arrSeqs := rfl
@[simp] theorem State.performAcc_tiles (s : State) (n : Nat) : (s.performAcc n).tiles = s.tiles := rfl
@[simp] theorem State.performAcc_ops (s : State) (n : Nat) : (s.performAcc n).ops = s.ops := rfl
@[simp] theorem State.performAcc_stores (s : State) (n : Nat) : (s.performAcc n).stores = s.stores := rfl
@[simp] theorem State.performAcc_outs (s : State) (n : Nat) : (s.performAcc n).outs = s.outs := rfl
@[simp] theorem State.performAcc_reqs (s : State) (n : Nat) : (s.performAcc n).reqs = s.reqs := rfl
@[simp] theorem State.performAcc_packets (s : State) (n : Nat) : (s.performAcc n).packets = s.packets := rfl
@[simp] theorem State.performAcc_routers (s : State) (n : Nat) : (s.performAcc n).routers = s.routers := rfl
@[simp] theorem State.performAcc_jobs (s : State) (n : Nat) : (s.performAcc n).jobs = s.jobs := rfl
@[simp] theorem State.performAcc_bankfmt (s : State) (n : Nat) : (s.performAcc n).bankfmt = s.bankfmt := rfl
@[simp] theorem State.performAcc_saved (s : State) (n : Nat) : (s.performAcc n).saved = s.saved := rfl
@[simp] theorem State.performAcc_futures (s : State) (n : Nat) : (s.performAcc n).futures = s.futures := rfl
@[simp] theorem State.performAcc_localMem (s : State) (n : Nat) : (s.performAcc n).localMem = s.localMem := rfl
@[simp] theorem State.performAcc_scratch (s : State) (n : Nat) : (s.performAcc n).scratch = s.scratch := rfl
@[simp] theorem State.performAcc_codeMem (s : State) (n : Nat) : (s.performAcc n).codeMem = s.codeMem := rfl
@[simp] theorem State.performAcc_hbm (s : State) (n : Nat) : (s.performAcc n).hbm = s.hbm := rfl
@[simp] theorem State.performAcc_hostMem (s : State) (n : Nat) : (s.performAcc n).hostMem = s.hostMem := rfl
@[simp] theorem State.performAcc_writes (s : State) (n : Nat) : (s.performAcc n).writes = s.writes := rfl
@[simp] theorem State.performAcc_fences (s : State) (n : Nat) : (s.performAcc n).fences = s.fences := rfl
@[simp] theorem State.performAcc_gains (s : State) (n : Nat) : (s.performAcc n).gains = s.gains := rfl
@[simp] theorem State.performAcc_eccLocal (s : State) (n : Nat) : (s.performAcc n).eccLocal = s.eccLocal := rfl
@[simp] theorem State.performAcc_eccScratch (s : State) (n : Nat) : (s.performAcc n).eccScratch = s.eccScratch := rfl
@[simp] theorem State.performAcc_eccCode (s : State) (n : Nat) : (s.performAcc n).eccCode = s.eccCode := rfl
@[simp] theorem State.performAcc_stationTlb (s : State) (n : Nat) : (s.performAcc n).stationTlb = s.stationTlb := rfl
@[simp] theorem State.performAcc_dieTlb (s : State) (n : Nat) : (s.performAcc n).dieTlb = s.dieTlb := rfl
@[simp] theorem State.performAcc_walks (s : State) (n : Nat) : (s.performAcc n).walks = s.walks := rfl
@[simp] theorem State.performAcc_services (s : State) (n : Nat) : (s.performAcc n).services = s.services := rfl
@[simp] theorem State.performAcc_moves (s : State) (n : Nat) : (s.performAcc n).moves = s.moves := rfl
@[simp] theorem State.performAcc_counts (s : State) (n : Nat) : (s.performAcc n).counts = s.counts := rfl
@[simp] theorem State.performAcc_pools (s : State) (n : Nat) : (s.performAcc n).pools = s.pools := rfl
@[simp] theorem State.performAcc_fwdCredits (s : State) (n : Nat) : (s.performAcc n).fwdCredits = s.fwdCredits := rfl
@[simp] theorem State.performAcc_btes (s : State) (n : Nat) : (s.performAcc n).btes = s.btes := rfl
@[simp] theorem State.performAcc_sqes (s : State) (n : Nat) : (s.performAcc n).sqes = s.sqes := rfl
@[simp] theorem State.performAcc_nvme (s : State) (n : Nat) : (s.performAcc n).nvme = s.nvme := rfl
@[simp] theorem State.performAcc_queues (s : State) (n : Nat) : (s.performAcc n).queues = s.queues := rfl
@[simp] theorem State.performAcc_deviceQ (s : State) (n : Nat) : (s.performAcc n).deviceQ = s.deviceQ := rfl
@[simp] theorem State.performAcc_waiting (s : State) (n : Nat) : (s.performAcc n).waiting = s.waiting := rfl
@[simp] theorem State.performAcc_loading (s : State) (n : Nat) : (s.performAcc n).loading = s.loading := rfl
@[simp] theorem State.performAcc_restores (s : State) (n : Nat) : (s.performAcc n).restores = s.restores := rfl
@[simp] theorem State.performAcc_rrQueue (s : State) (n : Nat) : (s.performAcc n).rrQueue = s.rrQueue := rfl
@[simp] theorem State.performAcc_chains (s : State) (n : Nat) : (s.performAcc n).chains = s.chains := rfl
@[simp] theorem State.performAcc_digests (s : State) (n : Nat) : (s.performAcc n).digests = s.digests := rfl
@[simp] theorem State.performAcc_tlbJob (s : State) (n : Nat) : (s.performAcc n).tlbJob = s.tlbJob := rfl
@[simp] theorem State.performAcc_tlbAll (s : State) (n : Nat) : (s.performAcc n).tlbAll = s.tlbAll := rfl
@[simp] theorem State.performAcc_tlbVa (s : State) (n : Nat) : (s.performAcc n).tlbVa = s.tlbVa := rfl
@[simp] theorem State.performAcc_tlbBusy (s : State) (n : Nat) : (s.performAcc n).tlbBusy = s.tlbBusy := rfl
@[simp] theorem State.performAcc_devid (s : State) (n : Nat) : (s.performAcc n).devid = s.devid := rfl
@[simp] theorem State.performAcc_ports (s : State) (n : Nat) : (s.performAcc n).ports = s.ports := rfl
@[simp] theorem State.performAcc_routes (s : State) (n : Nat) : (s.performAcc n).routes = s.routes := rfl
@[simp] theorem State.performAcc_fabOut (s : State) (n : Nat) : (s.performAcc n).fabOut = s.fabOut := rfl
@[simp] theorem State.performAcc_fabWait (s : State) (n : Nat) : (s.performAcc n).fabWait = s.fabWait := rfl
@[simp] theorem State.performAcc_jobTags (s : State) (n : Nat) : (s.performAcc n).jobTags = s.jobTags := rfl
@[simp] theorem State.performAcc_privvf (s : State) (n : Nat) : (s.performAcc n).privvf = s.privvf := rfl
@[simp] theorem State.performAcc_hostFut (s : State) (n : Nat) : (s.performAcc n).hostFut = s.hostFut := rfl
@[simp] theorem State.performAcc_hostKnow (s : State) (n : Nat) : (s.performAcc n).hostKnow = s.hostKnow := rfl
@[simp] theorem State.performAcc_winbase (s : State) (n : Nat) : (s.performAcc n).winbase = s.winbase := rfl
@[simp] theorem State.performAcc_winbaseOld (s : State) (n : Nat) : (s.performAcc n).winbaseOld = s.winbaseOld := rfl
@[simp] theorem State.performAcc_winRead (s : State) (n : Nat) : (s.performAcc n).winRead = s.winRead := rfl
@[simp] theorem State.performAcc_msix (s : State) (n : Nat) : (s.performAcc n).msix = s.msix := rfl
@[simp] theorem State.performAcc_melbex (s : State) (n : Nat) : (s.performAcc n).melbex = s.melbex := rfl
@[simp] theorem State.performAcc_trace (s : State) (n : Nat) : (s.performAcc n).trace = s.trace := rfl
@[simp] theorem State.performAcc_log (s : State) (n : Nat) : (s.performAcc n).log = s.log := rfl
@[simp] theorem State.performAcc_budget (s : State) (n : Nat) : (s.performAcc n).budget = s.budget := rfl
@[simp] theorem State.performAcc_dutyCap (s : State) (n : Nat) : (s.performAcc n).dutyCap = s.dutyCap := rfl
@[simp] theorem State.performAcc_halted (s : State) (n : Nat) : (s.performAcc n).halted = s.halted := rfl
@[simp] theorem State.performAcc_inReset (s : State) (n : Nat) : (s.performAcc n).inReset = s.inReset := rfl
@[simp] theorem State.performAcc_link (s : State) (n : Nat) : (s.performAcc n).link = s.link := rfl
@[simp] theorem State.performAcc_ckpt (s : State) (n : Nat) : (s.performAcc n).ckpt = s.ckpt := rfl
@[simp] theorem State.performAcc_peerDigests (s : State) (n : Nat) : (s.performAcc n).peerDigests = s.peerDigests := rfl

@[simp] theorem State.setFuture_clk (s : State) (h : Nat) (f : Future) : (s.setFuture h f).clk = s.clk := rfl
@[simp] theorem State.setFuture_cur (s : State) (h : Nat) (f : Future) : (s.setFuture h f).cur = s.cur := rfl
@[simp] theorem State.setFuture_free (s : State) (h : Nat) (f : Future) : (s.setFuture h f).free = s.free := rfl
@[simp] theorem State.setFuture_serial (s : State) (h : Nat) (f : Future) : (s.setFuture h f).serial = s.serial := rfl
@[simp] theorem State.setFuture_turns (s : State) (h : Nat) (f : Future) : (s.setFuture h f).turns = s.turns := rfl
@[simp] theorem State.setFuture_turnNo (s : State) (h : Nat) (f : Future) : (s.setFuture h f).turnNo = s.turnNo := rfl
@[simp] theorem State.setFuture_limmOpen (s : State) (h : Nat) (f : Future) : (s.setFuture h f).limmOpen = s.limmOpen := rfl
@[simp] theorem State.setFuture_ctxs (s : State) (h : Nat) (f : Future) : (s.setFuture h f).ctxs = s.ctxs := rfl
@[simp] theorem State.setFuture_tasks (s : State) (h : Nat) (f : Future) : (s.setFuture h f).tasks = s.tasks := rfl
@[simp] theorem State.setFuture_parties (s : State) (h : Nat) (f : Future) : (s.setFuture h f).parties = s.parties := rfl
@[simp] theorem State.setFuture_cores (s : State) (h : Nat) (f : Future) : (s.setFuture h f).cores = s.cores := rfl
@[simp] theorem State.setFuture_chans (s : State) (h : Nat) (f : Future) : (s.setFuture h f).chans = s.chans := rfl
@[simp] theorem State.setFuture_arrSeqs (s : State) (h : Nat) (f : Future) : (s.setFuture h f).arrSeqs = s.arrSeqs := rfl
@[simp] theorem State.setFuture_tiles (s : State) (h : Nat) (f : Future) : (s.setFuture h f).tiles = s.tiles := rfl
@[simp] theorem State.setFuture_ops (s : State) (h : Nat) (f : Future) : (s.setFuture h f).ops = s.ops := rfl
@[simp] theorem State.setFuture_stores (s : State) (h : Nat) (f : Future) : (s.setFuture h f).stores = s.stores := rfl
@[simp] theorem State.setFuture_accs (s : State) (h : Nat) (f : Future) : (s.setFuture h f).accs = s.accs := rfl
@[simp] theorem State.setFuture_outs (s : State) (h : Nat) (f : Future) : (s.setFuture h f).outs = s.outs := rfl
@[simp] theorem State.setFuture_reqs (s : State) (h : Nat) (f : Future) : (s.setFuture h f).reqs = s.reqs := rfl
@[simp] theorem State.setFuture_packets (s : State) (h : Nat) (f : Future) : (s.setFuture h f).packets = s.packets := rfl
@[simp] theorem State.setFuture_routers (s : State) (h : Nat) (f : Future) : (s.setFuture h f).routers = s.routers := rfl
@[simp] theorem State.setFuture_jobs (s : State) (h : Nat) (f : Future) : (s.setFuture h f).jobs = s.jobs := rfl
@[simp] theorem State.setFuture_bankfmt (s : State) (h : Nat) (f : Future) : (s.setFuture h f).bankfmt = s.bankfmt := rfl
@[simp] theorem State.setFuture_saved (s : State) (h : Nat) (f : Future) : (s.setFuture h f).saved = s.saved := rfl
@[simp] theorem State.setFuture_localMem (s : State) (h : Nat) (f : Future) : (s.setFuture h f).localMem = s.localMem := rfl
@[simp] theorem State.setFuture_scratch (s : State) (h : Nat) (f : Future) : (s.setFuture h f).scratch = s.scratch := rfl
@[simp] theorem State.setFuture_codeMem (s : State) (h : Nat) (f : Future) : (s.setFuture h f).codeMem = s.codeMem := rfl
@[simp] theorem State.setFuture_hbm (s : State) (h : Nat) (f : Future) : (s.setFuture h f).hbm = s.hbm := rfl
@[simp] theorem State.setFuture_hostMem (s : State) (h : Nat) (f : Future) : (s.setFuture h f).hostMem = s.hostMem := rfl
@[simp] theorem State.setFuture_writes (s : State) (h : Nat) (f : Future) : (s.setFuture h f).writes = s.writes := rfl
@[simp] theorem State.setFuture_fences (s : State) (h : Nat) (f : Future) : (s.setFuture h f).fences = s.fences := rfl
@[simp] theorem State.setFuture_gains (s : State) (h : Nat) (f : Future) : (s.setFuture h f).gains = s.gains := rfl
@[simp] theorem State.setFuture_eccLocal (s : State) (h : Nat) (f : Future) : (s.setFuture h f).eccLocal = s.eccLocal := rfl
@[simp] theorem State.setFuture_eccScratch (s : State) (h : Nat) (f : Future) : (s.setFuture h f).eccScratch = s.eccScratch := rfl
@[simp] theorem State.setFuture_eccCode (s : State) (h : Nat) (f : Future) : (s.setFuture h f).eccCode = s.eccCode := rfl
@[simp] theorem State.setFuture_stationTlb (s : State) (h : Nat) (f : Future) : (s.setFuture h f).stationTlb = s.stationTlb := rfl
@[simp] theorem State.setFuture_dieTlb (s : State) (h : Nat) (f : Future) : (s.setFuture h f).dieTlb = s.dieTlb := rfl
@[simp] theorem State.setFuture_walks (s : State) (h : Nat) (f : Future) : (s.setFuture h f).walks = s.walks := rfl
@[simp] theorem State.setFuture_services (s : State) (h : Nat) (f : Future) : (s.setFuture h f).services = s.services := rfl
@[simp] theorem State.setFuture_moves (s : State) (h : Nat) (f : Future) : (s.setFuture h f).moves = s.moves := rfl
@[simp] theorem State.setFuture_counts (s : State) (h : Nat) (f : Future) : (s.setFuture h f).counts = s.counts := rfl
@[simp] theorem State.setFuture_pools (s : State) (h : Nat) (f : Future) : (s.setFuture h f).pools = s.pools := rfl
@[simp] theorem State.setFuture_fwdCredits (s : State) (h : Nat) (f : Future) : (s.setFuture h f).fwdCredits = s.fwdCredits := rfl
@[simp] theorem State.setFuture_btes (s : State) (h : Nat) (f : Future) : (s.setFuture h f).btes = s.btes := rfl
@[simp] theorem State.setFuture_sqes (s : State) (h : Nat) (f : Future) : (s.setFuture h f).sqes = s.sqes := rfl
@[simp] theorem State.setFuture_nvme (s : State) (h : Nat) (f : Future) : (s.setFuture h f).nvme = s.nvme := rfl
@[simp] theorem State.setFuture_queues (s : State) (h : Nat) (f : Future) : (s.setFuture h f).queues = s.queues := rfl
@[simp] theorem State.setFuture_deviceQ (s : State) (h : Nat) (f : Future) : (s.setFuture h f).deviceQ = s.deviceQ := rfl
@[simp] theorem State.setFuture_waiting (s : State) (h : Nat) (f : Future) : (s.setFuture h f).waiting = s.waiting := rfl
@[simp] theorem State.setFuture_loading (s : State) (h : Nat) (f : Future) : (s.setFuture h f).loading = s.loading := rfl
@[simp] theorem State.setFuture_restores (s : State) (h : Nat) (f : Future) : (s.setFuture h f).restores = s.restores := rfl
@[simp] theorem State.setFuture_rrQueue (s : State) (h : Nat) (f : Future) : (s.setFuture h f).rrQueue = s.rrQueue := rfl
@[simp] theorem State.setFuture_chains (s : State) (h : Nat) (f : Future) : (s.setFuture h f).chains = s.chains := rfl
@[simp] theorem State.setFuture_digests (s : State) (h : Nat) (f : Future) : (s.setFuture h f).digests = s.digests := rfl
@[simp] theorem State.setFuture_tlbJob (s : State) (h : Nat) (f : Future) : (s.setFuture h f).tlbJob = s.tlbJob := rfl
@[simp] theorem State.setFuture_tlbAll (s : State) (h : Nat) (f : Future) : (s.setFuture h f).tlbAll = s.tlbAll := rfl
@[simp] theorem State.setFuture_tlbVa (s : State) (h : Nat) (f : Future) : (s.setFuture h f).tlbVa = s.tlbVa := rfl
@[simp] theorem State.setFuture_tlbBusy (s : State) (h : Nat) (f : Future) : (s.setFuture h f).tlbBusy = s.tlbBusy := rfl
@[simp] theorem State.setFuture_devid (s : State) (h : Nat) (f : Future) : (s.setFuture h f).devid = s.devid := rfl
@[simp] theorem State.setFuture_ports (s : State) (h : Nat) (f : Future) : (s.setFuture h f).ports = s.ports := rfl
@[simp] theorem State.setFuture_routes (s : State) (h : Nat) (f : Future) : (s.setFuture h f).routes = s.routes := rfl
@[simp] theorem State.setFuture_fabOut (s : State) (h : Nat) (f : Future) : (s.setFuture h f).fabOut = s.fabOut := rfl
@[simp] theorem State.setFuture_fabWait (s : State) (h : Nat) (f : Future) : (s.setFuture h f).fabWait = s.fabWait := rfl
@[simp] theorem State.setFuture_jobTags (s : State) (h : Nat) (f : Future) : (s.setFuture h f).jobTags = s.jobTags := rfl
@[simp] theorem State.setFuture_privvf (s : State) (h : Nat) (f : Future) : (s.setFuture h f).privvf = s.privvf := rfl
@[simp] theorem State.setFuture_hostFut (s : State) (h : Nat) (f : Future) : (s.setFuture h f).hostFut = s.hostFut := rfl
@[simp] theorem State.setFuture_hostKnow (s : State) (h : Nat) (f : Future) : (s.setFuture h f).hostKnow = s.hostKnow := rfl
@[simp] theorem State.setFuture_winbase (s : State) (h : Nat) (f : Future) : (s.setFuture h f).winbase = s.winbase := rfl
@[simp] theorem State.setFuture_winbaseOld (s : State) (h : Nat) (f : Future) : (s.setFuture h f).winbaseOld = s.winbaseOld := rfl
@[simp] theorem State.setFuture_winRead (s : State) (h : Nat) (f : Future) : (s.setFuture h f).winRead = s.winRead := rfl
@[simp] theorem State.setFuture_msix (s : State) (h : Nat) (f : Future) : (s.setFuture h f).msix = s.msix := rfl
@[simp] theorem State.setFuture_melbex (s : State) (h : Nat) (f : Future) : (s.setFuture h f).melbex = s.melbex := rfl
@[simp] theorem State.setFuture_trace (s : State) (h : Nat) (f : Future) : (s.setFuture h f).trace = s.trace := rfl
@[simp] theorem State.setFuture_log (s : State) (h : Nat) (f : Future) : (s.setFuture h f).log = s.log := rfl
@[simp] theorem State.setFuture_budget (s : State) (h : Nat) (f : Future) : (s.setFuture h f).budget = s.budget := rfl
@[simp] theorem State.setFuture_dutyCap (s : State) (h : Nat) (f : Future) : (s.setFuture h f).dutyCap = s.dutyCap := rfl
@[simp] theorem State.setFuture_halted (s : State) (h : Nat) (f : Future) : (s.setFuture h f).halted = s.halted := rfl
@[simp] theorem State.setFuture_inReset (s : State) (h : Nat) (f : Future) : (s.setFuture h f).inReset = s.inReset := rfl
@[simp] theorem State.setFuture_link (s : State) (h : Nat) (f : Future) : (s.setFuture h f).link = s.link := rfl
@[simp] theorem State.setFuture_ckpt (s : State) (h : Nat) (f : Future) : (s.setFuture h f).ckpt = s.ckpt := rfl
@[simp] theorem State.setFuture_peerDigests (s : State) (h : Nat) (f : Future) : (s.setFuture h f).peerDigests = s.peerDigests := rfl

@[simp] theorem State.post_clk (s : State) (cls : Machine.Class) (src dst : Endpoint) (job flits queue : Nat) (waits : List Nat) (b : Body) : (s.post cls src dst job flits queue waits b).clk = s.clk := rfl
@[simp] theorem State.post_cur (s : State) (cls : Machine.Class) (src dst : Endpoint) (job flits queue : Nat) (waits : List Nat) (b : Body) : (s.post cls src dst job flits queue waits b).cur = s.cur := rfl
@[simp] theorem State.post_free (s : State) (cls : Machine.Class) (src dst : Endpoint) (job flits queue : Nat) (waits : List Nat) (b : Body) : (s.post cls src dst job flits queue waits b).free = s.free := rfl
@[simp] theorem State.post_turns (s : State) (cls : Machine.Class) (src dst : Endpoint) (job flits queue : Nat) (waits : List Nat) (b : Body) : (s.post cls src dst job flits queue waits b).turns = s.turns := rfl
@[simp] theorem State.post_turnNo (s : State) (cls : Machine.Class) (src dst : Endpoint) (job flits queue : Nat) (waits : List Nat) (b : Body) : (s.post cls src dst job flits queue waits b).turnNo = s.turnNo := rfl
@[simp] theorem State.post_limmOpen (s : State) (cls : Machine.Class) (src dst : Endpoint) (job flits queue : Nat) (waits : List Nat) (b : Body) : (s.post cls src dst job flits queue waits b).limmOpen = s.limmOpen := rfl
@[simp] theorem State.post_ctxs (s : State) (cls : Machine.Class) (src dst : Endpoint) (job flits queue : Nat) (waits : List Nat) (b : Body) : (s.post cls src dst job flits queue waits b).ctxs = s.ctxs := rfl
@[simp] theorem State.post_tasks (s : State) (cls : Machine.Class) (src dst : Endpoint) (job flits queue : Nat) (waits : List Nat) (b : Body) : (s.post cls src dst job flits queue waits b).tasks = s.tasks := rfl
@[simp] theorem State.post_parties (s : State) (cls : Machine.Class) (src dst : Endpoint) (job flits queue : Nat) (waits : List Nat) (b : Body) : (s.post cls src dst job flits queue waits b).parties = s.parties := rfl
@[simp] theorem State.post_cores (s : State) (cls : Machine.Class) (src dst : Endpoint) (job flits queue : Nat) (waits : List Nat) (b : Body) : (s.post cls src dst job flits queue waits b).cores = s.cores := rfl
@[simp] theorem State.post_chans (s : State) (cls : Machine.Class) (src dst : Endpoint) (job flits queue : Nat) (waits : List Nat) (b : Body) : (s.post cls src dst job flits queue waits b).chans = s.chans := rfl
@[simp] theorem State.post_arrSeqs (s : State) (cls : Machine.Class) (src dst : Endpoint) (job flits queue : Nat) (waits : List Nat) (b : Body) : (s.post cls src dst job flits queue waits b).arrSeqs = s.arrSeqs := rfl
@[simp] theorem State.post_tiles (s : State) (cls : Machine.Class) (src dst : Endpoint) (job flits queue : Nat) (waits : List Nat) (b : Body) : (s.post cls src dst job flits queue waits b).tiles = s.tiles := rfl
@[simp] theorem State.post_ops (s : State) (cls : Machine.Class) (src dst : Endpoint) (job flits queue : Nat) (waits : List Nat) (b : Body) : (s.post cls src dst job flits queue waits b).ops = s.ops := rfl
@[simp] theorem State.post_stores (s : State) (cls : Machine.Class) (src dst : Endpoint) (job flits queue : Nat) (waits : List Nat) (b : Body) : (s.post cls src dst job flits queue waits b).stores = s.stores := rfl
@[simp] theorem State.post_accs (s : State) (cls : Machine.Class) (src dst : Endpoint) (job flits queue : Nat) (waits : List Nat) (b : Body) : (s.post cls src dst job flits queue waits b).accs = s.accs := rfl
@[simp] theorem State.post_outs (s : State) (cls : Machine.Class) (src dst : Endpoint) (job flits queue : Nat) (waits : List Nat) (b : Body) : (s.post cls src dst job flits queue waits b).outs = s.outs := rfl
@[simp] theorem State.post_reqs (s : State) (cls : Machine.Class) (src dst : Endpoint) (job flits queue : Nat) (waits : List Nat) (b : Body) : (s.post cls src dst job flits queue waits b).reqs = s.reqs := rfl
@[simp] theorem State.post_routers (s : State) (cls : Machine.Class) (src dst : Endpoint) (job flits queue : Nat) (waits : List Nat) (b : Body) : (s.post cls src dst job flits queue waits b).routers = s.routers := rfl
@[simp] theorem State.post_jobs (s : State) (cls : Machine.Class) (src dst : Endpoint) (job flits queue : Nat) (waits : List Nat) (b : Body) : (s.post cls src dst job flits queue waits b).jobs = s.jobs := rfl
@[simp] theorem State.post_bankfmt (s : State) (cls : Machine.Class) (src dst : Endpoint) (job flits queue : Nat) (waits : List Nat) (b : Body) : (s.post cls src dst job flits queue waits b).bankfmt = s.bankfmt := rfl
@[simp] theorem State.post_saved (s : State) (cls : Machine.Class) (src dst : Endpoint) (job flits queue : Nat) (waits : List Nat) (b : Body) : (s.post cls src dst job flits queue waits b).saved = s.saved := rfl
@[simp] theorem State.post_futures (s : State) (cls : Machine.Class) (src dst : Endpoint) (job flits queue : Nat) (waits : List Nat) (b : Body) : (s.post cls src dst job flits queue waits b).futures = s.futures := rfl
@[simp] theorem State.post_localMem (s : State) (cls : Machine.Class) (src dst : Endpoint) (job flits queue : Nat) (waits : List Nat) (b : Body) : (s.post cls src dst job flits queue waits b).localMem = s.localMem := rfl
@[simp] theorem State.post_scratch (s : State) (cls : Machine.Class) (src dst : Endpoint) (job flits queue : Nat) (waits : List Nat) (b : Body) : (s.post cls src dst job flits queue waits b).scratch = s.scratch := rfl
@[simp] theorem State.post_codeMem (s : State) (cls : Machine.Class) (src dst : Endpoint) (job flits queue : Nat) (waits : List Nat) (b : Body) : (s.post cls src dst job flits queue waits b).codeMem = s.codeMem := rfl
@[simp] theorem State.post_hbm (s : State) (cls : Machine.Class) (src dst : Endpoint) (job flits queue : Nat) (waits : List Nat) (b : Body) : (s.post cls src dst job flits queue waits b).hbm = s.hbm := rfl
@[simp] theorem State.post_hostMem (s : State) (cls : Machine.Class) (src dst : Endpoint) (job flits queue : Nat) (waits : List Nat) (b : Body) : (s.post cls src dst job flits queue waits b).hostMem = s.hostMem := rfl
@[simp] theorem State.post_writes (s : State) (cls : Machine.Class) (src dst : Endpoint) (job flits queue : Nat) (waits : List Nat) (b : Body) : (s.post cls src dst job flits queue waits b).writes = s.writes := rfl
@[simp] theorem State.post_fences (s : State) (cls : Machine.Class) (src dst : Endpoint) (job flits queue : Nat) (waits : List Nat) (b : Body) : (s.post cls src dst job flits queue waits b).fences = s.fences := rfl
@[simp] theorem State.post_gains (s : State) (cls : Machine.Class) (src dst : Endpoint) (job flits queue : Nat) (waits : List Nat) (b : Body) : (s.post cls src dst job flits queue waits b).gains = s.gains := rfl
@[simp] theorem State.post_eccLocal (s : State) (cls : Machine.Class) (src dst : Endpoint) (job flits queue : Nat) (waits : List Nat) (b : Body) : (s.post cls src dst job flits queue waits b).eccLocal = s.eccLocal := rfl
@[simp] theorem State.post_eccScratch (s : State) (cls : Machine.Class) (src dst : Endpoint) (job flits queue : Nat) (waits : List Nat) (b : Body) : (s.post cls src dst job flits queue waits b).eccScratch = s.eccScratch := rfl
@[simp] theorem State.post_eccCode (s : State) (cls : Machine.Class) (src dst : Endpoint) (job flits queue : Nat) (waits : List Nat) (b : Body) : (s.post cls src dst job flits queue waits b).eccCode = s.eccCode := rfl
@[simp] theorem State.post_stationTlb (s : State) (cls : Machine.Class) (src dst : Endpoint) (job flits queue : Nat) (waits : List Nat) (b : Body) : (s.post cls src dst job flits queue waits b).stationTlb = s.stationTlb := rfl
@[simp] theorem State.post_dieTlb (s : State) (cls : Machine.Class) (src dst : Endpoint) (job flits queue : Nat) (waits : List Nat) (b : Body) : (s.post cls src dst job flits queue waits b).dieTlb = s.dieTlb := rfl
@[simp] theorem State.post_walks (s : State) (cls : Machine.Class) (src dst : Endpoint) (job flits queue : Nat) (waits : List Nat) (b : Body) : (s.post cls src dst job flits queue waits b).walks = s.walks := rfl
@[simp] theorem State.post_services (s : State) (cls : Machine.Class) (src dst : Endpoint) (job flits queue : Nat) (waits : List Nat) (b : Body) : (s.post cls src dst job flits queue waits b).services = s.services := rfl
@[simp] theorem State.post_moves (s : State) (cls : Machine.Class) (src dst : Endpoint) (job flits queue : Nat) (waits : List Nat) (b : Body) : (s.post cls src dst job flits queue waits b).moves = s.moves := rfl
@[simp] theorem State.post_counts (s : State) (cls : Machine.Class) (src dst : Endpoint) (job flits queue : Nat) (waits : List Nat) (b : Body) : (s.post cls src dst job flits queue waits b).counts = s.counts := rfl
@[simp] theorem State.post_pools (s : State) (cls : Machine.Class) (src dst : Endpoint) (job flits queue : Nat) (waits : List Nat) (b : Body) : (s.post cls src dst job flits queue waits b).pools = s.pools := rfl
@[simp] theorem State.post_fwdCredits (s : State) (cls : Machine.Class) (src dst : Endpoint) (job flits queue : Nat) (waits : List Nat) (b : Body) : (s.post cls src dst job flits queue waits b).fwdCredits = s.fwdCredits := rfl
@[simp] theorem State.post_btes (s : State) (cls : Machine.Class) (src dst : Endpoint) (job flits queue : Nat) (waits : List Nat) (b : Body) : (s.post cls src dst job flits queue waits b).btes = s.btes := rfl
@[simp] theorem State.post_sqes (s : State) (cls : Machine.Class) (src dst : Endpoint) (job flits queue : Nat) (waits : List Nat) (b : Body) : (s.post cls src dst job flits queue waits b).sqes = s.sqes := rfl
@[simp] theorem State.post_nvme (s : State) (cls : Machine.Class) (src dst : Endpoint) (job flits queue : Nat) (waits : List Nat) (b : Body) : (s.post cls src dst job flits queue waits b).nvme = s.nvme := rfl
@[simp] theorem State.post_queues (s : State) (cls : Machine.Class) (src dst : Endpoint) (job flits queue : Nat) (waits : List Nat) (b : Body) : (s.post cls src dst job flits queue waits b).queues = s.queues := rfl
@[simp] theorem State.post_deviceQ (s : State) (cls : Machine.Class) (src dst : Endpoint) (job flits queue : Nat) (waits : List Nat) (b : Body) : (s.post cls src dst job flits queue waits b).deviceQ = s.deviceQ := rfl
@[simp] theorem State.post_waiting (s : State) (cls : Machine.Class) (src dst : Endpoint) (job flits queue : Nat) (waits : List Nat) (b : Body) : (s.post cls src dst job flits queue waits b).waiting = s.waiting := rfl
@[simp] theorem State.post_loading (s : State) (cls : Machine.Class) (src dst : Endpoint) (job flits queue : Nat) (waits : List Nat) (b : Body) : (s.post cls src dst job flits queue waits b).loading = s.loading := rfl
@[simp] theorem State.post_restores (s : State) (cls : Machine.Class) (src dst : Endpoint) (job flits queue : Nat) (waits : List Nat) (b : Body) : (s.post cls src dst job flits queue waits b).restores = s.restores := rfl
@[simp] theorem State.post_rrQueue (s : State) (cls : Machine.Class) (src dst : Endpoint) (job flits queue : Nat) (waits : List Nat) (b : Body) : (s.post cls src dst job flits queue waits b).rrQueue = s.rrQueue := rfl
@[simp] theorem State.post_chains (s : State) (cls : Machine.Class) (src dst : Endpoint) (job flits queue : Nat) (waits : List Nat) (b : Body) : (s.post cls src dst job flits queue waits b).chains = s.chains := rfl
@[simp] theorem State.post_digests (s : State) (cls : Machine.Class) (src dst : Endpoint) (job flits queue : Nat) (waits : List Nat) (b : Body) : (s.post cls src dst job flits queue waits b).digests = s.digests := rfl
@[simp] theorem State.post_tlbJob (s : State) (cls : Machine.Class) (src dst : Endpoint) (job flits queue : Nat) (waits : List Nat) (b : Body) : (s.post cls src dst job flits queue waits b).tlbJob = s.tlbJob := rfl
@[simp] theorem State.post_tlbAll (s : State) (cls : Machine.Class) (src dst : Endpoint) (job flits queue : Nat) (waits : List Nat) (b : Body) : (s.post cls src dst job flits queue waits b).tlbAll = s.tlbAll := rfl
@[simp] theorem State.post_tlbVa (s : State) (cls : Machine.Class) (src dst : Endpoint) (job flits queue : Nat) (waits : List Nat) (b : Body) : (s.post cls src dst job flits queue waits b).tlbVa = s.tlbVa := rfl
@[simp] theorem State.post_tlbBusy (s : State) (cls : Machine.Class) (src dst : Endpoint) (job flits queue : Nat) (waits : List Nat) (b : Body) : (s.post cls src dst job flits queue waits b).tlbBusy = s.tlbBusy := rfl
@[simp] theorem State.post_devid (s : State) (cls : Machine.Class) (src dst : Endpoint) (job flits queue : Nat) (waits : List Nat) (b : Body) : (s.post cls src dst job flits queue waits b).devid = s.devid := rfl
@[simp] theorem State.post_ports (s : State) (cls : Machine.Class) (src dst : Endpoint) (job flits queue : Nat) (waits : List Nat) (b : Body) : (s.post cls src dst job flits queue waits b).ports = s.ports := rfl
@[simp] theorem State.post_routes (s : State) (cls : Machine.Class) (src dst : Endpoint) (job flits queue : Nat) (waits : List Nat) (b : Body) : (s.post cls src dst job flits queue waits b).routes = s.routes := rfl
@[simp] theorem State.post_fabOut (s : State) (cls : Machine.Class) (src dst : Endpoint) (job flits queue : Nat) (waits : List Nat) (b : Body) : (s.post cls src dst job flits queue waits b).fabOut = s.fabOut := rfl
@[simp] theorem State.post_fabWait (s : State) (cls : Machine.Class) (src dst : Endpoint) (job flits queue : Nat) (waits : List Nat) (b : Body) : (s.post cls src dst job flits queue waits b).fabWait = s.fabWait := rfl
@[simp] theorem State.post_jobTags (s : State) (cls : Machine.Class) (src dst : Endpoint) (job flits queue : Nat) (waits : List Nat) (b : Body) : (s.post cls src dst job flits queue waits b).jobTags = s.jobTags := rfl
@[simp] theorem State.post_privvf (s : State) (cls : Machine.Class) (src dst : Endpoint) (job flits queue : Nat) (waits : List Nat) (b : Body) : (s.post cls src dst job flits queue waits b).privvf = s.privvf := rfl
@[simp] theorem State.post_hostFut (s : State) (cls : Machine.Class) (src dst : Endpoint) (job flits queue : Nat) (waits : List Nat) (b : Body) : (s.post cls src dst job flits queue waits b).hostFut = s.hostFut := rfl
@[simp] theorem State.post_hostKnow (s : State) (cls : Machine.Class) (src dst : Endpoint) (job flits queue : Nat) (waits : List Nat) (b : Body) : (s.post cls src dst job flits queue waits b).hostKnow = s.hostKnow := rfl
@[simp] theorem State.post_winbase (s : State) (cls : Machine.Class) (src dst : Endpoint) (job flits queue : Nat) (waits : List Nat) (b : Body) : (s.post cls src dst job flits queue waits b).winbase = s.winbase := rfl
@[simp] theorem State.post_winbaseOld (s : State) (cls : Machine.Class) (src dst : Endpoint) (job flits queue : Nat) (waits : List Nat) (b : Body) : (s.post cls src dst job flits queue waits b).winbaseOld = s.winbaseOld := rfl
@[simp] theorem State.post_winRead (s : State) (cls : Machine.Class) (src dst : Endpoint) (job flits queue : Nat) (waits : List Nat) (b : Body) : (s.post cls src dst job flits queue waits b).winRead = s.winRead := rfl
@[simp] theorem State.post_msix (s : State) (cls : Machine.Class) (src dst : Endpoint) (job flits queue : Nat) (waits : List Nat) (b : Body) : (s.post cls src dst job flits queue waits b).msix = s.msix := rfl
@[simp] theorem State.post_melbex (s : State) (cls : Machine.Class) (src dst : Endpoint) (job flits queue : Nat) (waits : List Nat) (b : Body) : (s.post cls src dst job flits queue waits b).melbex = s.melbex := rfl
@[simp] theorem State.post_trace (s : State) (cls : Machine.Class) (src dst : Endpoint) (job flits queue : Nat) (waits : List Nat) (b : Body) : (s.post cls src dst job flits queue waits b).trace = s.trace := rfl
@[simp] theorem State.post_log (s : State) (cls : Machine.Class) (src dst : Endpoint) (job flits queue : Nat) (waits : List Nat) (b : Body) : (s.post cls src dst job flits queue waits b).log = s.log := rfl
@[simp] theorem State.post_budget (s : State) (cls : Machine.Class) (src dst : Endpoint) (job flits queue : Nat) (waits : List Nat) (b : Body) : (s.post cls src dst job flits queue waits b).budget = s.budget := rfl
@[simp] theorem State.post_dutyCap (s : State) (cls : Machine.Class) (src dst : Endpoint) (job flits queue : Nat) (waits : List Nat) (b : Body) : (s.post cls src dst job flits queue waits b).dutyCap = s.dutyCap := rfl
@[simp] theorem State.post_halted (s : State) (cls : Machine.Class) (src dst : Endpoint) (job flits queue : Nat) (waits : List Nat) (b : Body) : (s.post cls src dst job flits queue waits b).halted = s.halted := rfl
@[simp] theorem State.post_inReset (s : State) (cls : Machine.Class) (src dst : Endpoint) (job flits queue : Nat) (waits : List Nat) (b : Body) : (s.post cls src dst job flits queue waits b).inReset = s.inReset := rfl
@[simp] theorem State.post_link (s : State) (cls : Machine.Class) (src dst : Endpoint) (job flits queue : Nat) (waits : List Nat) (b : Body) : (s.post cls src dst job flits queue waits b).link = s.link := rfl
@[simp] theorem State.post_ckpt (s : State) (cls : Machine.Class) (src dst : Endpoint) (job flits queue : Nat) (waits : List Nat) (b : Body) : (s.post cls src dst job flits queue waits b).ckpt = s.ckpt := rfl
@[simp] theorem State.post_peerDigests (s : State) (cls : Machine.Class) (src dst : Endpoint) (job flits queue : Nat) (waits : List Nat) (b : Body) : (s.post cls src dst job flits queue waits b).peerDigests = s.peerDigests := rfl

@[simp] theorem State.updPacket_clk (s : State) (n : Nat) (f : Packet → Packet) : (s.updPacket n f).clk = s.clk := rfl
@[simp] theorem State.updPacket_cur (s : State) (n : Nat) (f : Packet → Packet) : (s.updPacket n f).cur = s.cur := rfl
@[simp] theorem State.updPacket_free (s : State) (n : Nat) (f : Packet → Packet) : (s.updPacket n f).free = s.free := rfl
@[simp] theorem State.updPacket_serial (s : State) (n : Nat) (f : Packet → Packet) : (s.updPacket n f).serial = s.serial := rfl
@[simp] theorem State.updPacket_turns (s : State) (n : Nat) (f : Packet → Packet) : (s.updPacket n f).turns = s.turns := rfl
@[simp] theorem State.updPacket_turnNo (s : State) (n : Nat) (f : Packet → Packet) : (s.updPacket n f).turnNo = s.turnNo := rfl
@[simp] theorem State.updPacket_limmOpen (s : State) (n : Nat) (f : Packet → Packet) : (s.updPacket n f).limmOpen = s.limmOpen := rfl
@[simp] theorem State.updPacket_ctxs (s : State) (n : Nat) (f : Packet → Packet) : (s.updPacket n f).ctxs = s.ctxs := rfl
@[simp] theorem State.updPacket_tasks (s : State) (n : Nat) (f : Packet → Packet) : (s.updPacket n f).tasks = s.tasks := rfl
@[simp] theorem State.updPacket_parties (s : State) (n : Nat) (f : Packet → Packet) : (s.updPacket n f).parties = s.parties := rfl
@[simp] theorem State.updPacket_cores (s : State) (n : Nat) (f : Packet → Packet) : (s.updPacket n f).cores = s.cores := rfl
@[simp] theorem State.updPacket_chans (s : State) (n : Nat) (f : Packet → Packet) : (s.updPacket n f).chans = s.chans := rfl
@[simp] theorem State.updPacket_arrSeqs (s : State) (n : Nat) (f : Packet → Packet) : (s.updPacket n f).arrSeqs = s.arrSeqs := rfl
@[simp] theorem State.updPacket_tiles (s : State) (n : Nat) (f : Packet → Packet) : (s.updPacket n f).tiles = s.tiles := rfl
@[simp] theorem State.updPacket_ops (s : State) (n : Nat) (f : Packet → Packet) : (s.updPacket n f).ops = s.ops := rfl
@[simp] theorem State.updPacket_stores (s : State) (n : Nat) (f : Packet → Packet) : (s.updPacket n f).stores = s.stores := rfl
@[simp] theorem State.updPacket_accs (s : State) (n : Nat) (f : Packet → Packet) : (s.updPacket n f).accs = s.accs := rfl
@[simp] theorem State.updPacket_outs (s : State) (n : Nat) (f : Packet → Packet) : (s.updPacket n f).outs = s.outs := rfl
@[simp] theorem State.updPacket_reqs (s : State) (n : Nat) (f : Packet → Packet) : (s.updPacket n f).reqs = s.reqs := rfl
@[simp] theorem State.updPacket_routers (s : State) (n : Nat) (f : Packet → Packet) : (s.updPacket n f).routers = s.routers := rfl
@[simp] theorem State.updPacket_jobs (s : State) (n : Nat) (f : Packet → Packet) : (s.updPacket n f).jobs = s.jobs := rfl
@[simp] theorem State.updPacket_bankfmt (s : State) (n : Nat) (f : Packet → Packet) : (s.updPacket n f).bankfmt = s.bankfmt := rfl
@[simp] theorem State.updPacket_saved (s : State) (n : Nat) (f : Packet → Packet) : (s.updPacket n f).saved = s.saved := rfl
@[simp] theorem State.updPacket_futures (s : State) (n : Nat) (f : Packet → Packet) : (s.updPacket n f).futures = s.futures := rfl
@[simp] theorem State.updPacket_localMem (s : State) (n : Nat) (f : Packet → Packet) : (s.updPacket n f).localMem = s.localMem := rfl
@[simp] theorem State.updPacket_scratch (s : State) (n : Nat) (f : Packet → Packet) : (s.updPacket n f).scratch = s.scratch := rfl
@[simp] theorem State.updPacket_codeMem (s : State) (n : Nat) (f : Packet → Packet) : (s.updPacket n f).codeMem = s.codeMem := rfl
@[simp] theorem State.updPacket_hbm (s : State) (n : Nat) (f : Packet → Packet) : (s.updPacket n f).hbm = s.hbm := rfl
@[simp] theorem State.updPacket_hostMem (s : State) (n : Nat) (f : Packet → Packet) : (s.updPacket n f).hostMem = s.hostMem := rfl
@[simp] theorem State.updPacket_writes (s : State) (n : Nat) (f : Packet → Packet) : (s.updPacket n f).writes = s.writes := rfl
@[simp] theorem State.updPacket_fences (s : State) (n : Nat) (f : Packet → Packet) : (s.updPacket n f).fences = s.fences := rfl
@[simp] theorem State.updPacket_gains (s : State) (n : Nat) (f : Packet → Packet) : (s.updPacket n f).gains = s.gains := rfl
@[simp] theorem State.updPacket_eccLocal (s : State) (n : Nat) (f : Packet → Packet) : (s.updPacket n f).eccLocal = s.eccLocal := rfl
@[simp] theorem State.updPacket_eccScratch (s : State) (n : Nat) (f : Packet → Packet) : (s.updPacket n f).eccScratch = s.eccScratch := rfl
@[simp] theorem State.updPacket_eccCode (s : State) (n : Nat) (f : Packet → Packet) : (s.updPacket n f).eccCode = s.eccCode := rfl
@[simp] theorem State.updPacket_stationTlb (s : State) (n : Nat) (f : Packet → Packet) : (s.updPacket n f).stationTlb = s.stationTlb := rfl
@[simp] theorem State.updPacket_dieTlb (s : State) (n : Nat) (f : Packet → Packet) : (s.updPacket n f).dieTlb = s.dieTlb := rfl
@[simp] theorem State.updPacket_walks (s : State) (n : Nat) (f : Packet → Packet) : (s.updPacket n f).walks = s.walks := rfl
@[simp] theorem State.updPacket_services (s : State) (n : Nat) (f : Packet → Packet) : (s.updPacket n f).services = s.services := rfl
@[simp] theorem State.updPacket_moves (s : State) (n : Nat) (f : Packet → Packet) : (s.updPacket n f).moves = s.moves := rfl
@[simp] theorem State.updPacket_counts (s : State) (n : Nat) (f : Packet → Packet) : (s.updPacket n f).counts = s.counts := rfl
@[simp] theorem State.updPacket_pools (s : State) (n : Nat) (f : Packet → Packet) : (s.updPacket n f).pools = s.pools := rfl
@[simp] theorem State.updPacket_fwdCredits (s : State) (n : Nat) (f : Packet → Packet) : (s.updPacket n f).fwdCredits = s.fwdCredits := rfl
@[simp] theorem State.updPacket_btes (s : State) (n : Nat) (f : Packet → Packet) : (s.updPacket n f).btes = s.btes := rfl
@[simp] theorem State.updPacket_sqes (s : State) (n : Nat) (f : Packet → Packet) : (s.updPacket n f).sqes = s.sqes := rfl
@[simp] theorem State.updPacket_nvme (s : State) (n : Nat) (f : Packet → Packet) : (s.updPacket n f).nvme = s.nvme := rfl
@[simp] theorem State.updPacket_queues (s : State) (n : Nat) (f : Packet → Packet) : (s.updPacket n f).queues = s.queues := rfl
@[simp] theorem State.updPacket_deviceQ (s : State) (n : Nat) (f : Packet → Packet) : (s.updPacket n f).deviceQ = s.deviceQ := rfl
@[simp] theorem State.updPacket_waiting (s : State) (n : Nat) (f : Packet → Packet) : (s.updPacket n f).waiting = s.waiting := rfl
@[simp] theorem State.updPacket_loading (s : State) (n : Nat) (f : Packet → Packet) : (s.updPacket n f).loading = s.loading := rfl
@[simp] theorem State.updPacket_restores (s : State) (n : Nat) (f : Packet → Packet) : (s.updPacket n f).restores = s.restores := rfl
@[simp] theorem State.updPacket_rrQueue (s : State) (n : Nat) (f : Packet → Packet) : (s.updPacket n f).rrQueue = s.rrQueue := rfl
@[simp] theorem State.updPacket_chains (s : State) (n : Nat) (f : Packet → Packet) : (s.updPacket n f).chains = s.chains := rfl
@[simp] theorem State.updPacket_digests (s : State) (n : Nat) (f : Packet → Packet) : (s.updPacket n f).digests = s.digests := rfl
@[simp] theorem State.updPacket_tlbJob (s : State) (n : Nat) (f : Packet → Packet) : (s.updPacket n f).tlbJob = s.tlbJob := rfl
@[simp] theorem State.updPacket_tlbAll (s : State) (n : Nat) (f : Packet → Packet) : (s.updPacket n f).tlbAll = s.tlbAll := rfl
@[simp] theorem State.updPacket_tlbVa (s : State) (n : Nat) (f : Packet → Packet) : (s.updPacket n f).tlbVa = s.tlbVa := rfl
@[simp] theorem State.updPacket_tlbBusy (s : State) (n : Nat) (f : Packet → Packet) : (s.updPacket n f).tlbBusy = s.tlbBusy := rfl
@[simp] theorem State.updPacket_devid (s : State) (n : Nat) (f : Packet → Packet) : (s.updPacket n f).devid = s.devid := rfl
@[simp] theorem State.updPacket_ports (s : State) (n : Nat) (f : Packet → Packet) : (s.updPacket n f).ports = s.ports := rfl
@[simp] theorem State.updPacket_routes (s : State) (n : Nat) (f : Packet → Packet) : (s.updPacket n f).routes = s.routes := rfl
@[simp] theorem State.updPacket_fabOut (s : State) (n : Nat) (f : Packet → Packet) : (s.updPacket n f).fabOut = s.fabOut := rfl
@[simp] theorem State.updPacket_fabWait (s : State) (n : Nat) (f : Packet → Packet) : (s.updPacket n f).fabWait = s.fabWait := rfl
@[simp] theorem State.updPacket_jobTags (s : State) (n : Nat) (f : Packet → Packet) : (s.updPacket n f).jobTags = s.jobTags := rfl
@[simp] theorem State.updPacket_privvf (s : State) (n : Nat) (f : Packet → Packet) : (s.updPacket n f).privvf = s.privvf := rfl
@[simp] theorem State.updPacket_hostFut (s : State) (n : Nat) (f : Packet → Packet) : (s.updPacket n f).hostFut = s.hostFut := rfl
@[simp] theorem State.updPacket_hostKnow (s : State) (n : Nat) (f : Packet → Packet) : (s.updPacket n f).hostKnow = s.hostKnow := rfl
@[simp] theorem State.updPacket_winbase (s : State) (n : Nat) (f : Packet → Packet) : (s.updPacket n f).winbase = s.winbase := rfl
@[simp] theorem State.updPacket_winbaseOld (s : State) (n : Nat) (f : Packet → Packet) : (s.updPacket n f).winbaseOld = s.winbaseOld := rfl
@[simp] theorem State.updPacket_winRead (s : State) (n : Nat) (f : Packet → Packet) : (s.updPacket n f).winRead = s.winRead := rfl
@[simp] theorem State.updPacket_msix (s : State) (n : Nat) (f : Packet → Packet) : (s.updPacket n f).msix = s.msix := rfl
@[simp] theorem State.updPacket_melbex (s : State) (n : Nat) (f : Packet → Packet) : (s.updPacket n f).melbex = s.melbex := rfl
@[simp] theorem State.updPacket_trace (s : State) (n : Nat) (f : Packet → Packet) : (s.updPacket n f).trace = s.trace := rfl
@[simp] theorem State.updPacket_log (s : State) (n : Nat) (f : Packet → Packet) : (s.updPacket n f).log = s.log := rfl
@[simp] theorem State.updPacket_budget (s : State) (n : Nat) (f : Packet → Packet) : (s.updPacket n f).budget = s.budget := rfl
@[simp] theorem State.updPacket_dutyCap (s : State) (n : Nat) (f : Packet → Packet) : (s.updPacket n f).dutyCap = s.dutyCap := rfl
@[simp] theorem State.updPacket_halted (s : State) (n : Nat) (f : Packet → Packet) : (s.updPacket n f).halted = s.halted := rfl
@[simp] theorem State.updPacket_inReset (s : State) (n : Nat) (f : Packet → Packet) : (s.updPacket n f).inReset = s.inReset := rfl
@[simp] theorem State.updPacket_link (s : State) (n : Nat) (f : Packet → Packet) : (s.updPacket n f).link = s.link := rfl
@[simp] theorem State.updPacket_ckpt (s : State) (n : Nat) (f : Packet → Packet) : (s.updPacket n f).ckpt = s.ckpt := rfl
@[simp] theorem State.updPacket_peerDigests (s : State) (n : Nat) (f : Packet → Packet) : (s.updPacket n f).peerDigests = s.peerDigests := rfl

@[simp] theorem State.dropPacket_clk (s : State) (n : Nat) : (s.dropPacket n).clk = s.clk := rfl
@[simp] theorem State.dropPacket_cur (s : State) (n : Nat) : (s.dropPacket n).cur = s.cur := rfl
@[simp] theorem State.dropPacket_free (s : State) (n : Nat) : (s.dropPacket n).free = s.free := rfl
@[simp] theorem State.dropPacket_serial (s : State) (n : Nat) : (s.dropPacket n).serial = s.serial := rfl
@[simp] theorem State.dropPacket_turns (s : State) (n : Nat) : (s.dropPacket n).turns = s.turns := rfl
@[simp] theorem State.dropPacket_turnNo (s : State) (n : Nat) : (s.dropPacket n).turnNo = s.turnNo := rfl
@[simp] theorem State.dropPacket_limmOpen (s : State) (n : Nat) : (s.dropPacket n).limmOpen = s.limmOpen := rfl
@[simp] theorem State.dropPacket_ctxs (s : State) (n : Nat) : (s.dropPacket n).ctxs = s.ctxs := rfl
@[simp] theorem State.dropPacket_tasks (s : State) (n : Nat) : (s.dropPacket n).tasks = s.tasks := rfl
@[simp] theorem State.dropPacket_parties (s : State) (n : Nat) : (s.dropPacket n).parties = s.parties := rfl
@[simp] theorem State.dropPacket_cores (s : State) (n : Nat) : (s.dropPacket n).cores = s.cores := rfl
@[simp] theorem State.dropPacket_chans (s : State) (n : Nat) : (s.dropPacket n).chans = s.chans := rfl
@[simp] theorem State.dropPacket_arrSeqs (s : State) (n : Nat) : (s.dropPacket n).arrSeqs = s.arrSeqs := rfl
@[simp] theorem State.dropPacket_tiles (s : State) (n : Nat) : (s.dropPacket n).tiles = s.tiles := rfl
@[simp] theorem State.dropPacket_ops (s : State) (n : Nat) : (s.dropPacket n).ops = s.ops := rfl
@[simp] theorem State.dropPacket_stores (s : State) (n : Nat) : (s.dropPacket n).stores = s.stores := rfl
@[simp] theorem State.dropPacket_accs (s : State) (n : Nat) : (s.dropPacket n).accs = s.accs := rfl
@[simp] theorem State.dropPacket_outs (s : State) (n : Nat) : (s.dropPacket n).outs = s.outs := rfl
@[simp] theorem State.dropPacket_reqs (s : State) (n : Nat) : (s.dropPacket n).reqs = s.reqs := rfl
@[simp] theorem State.dropPacket_routers (s : State) (n : Nat) : (s.dropPacket n).routers = s.routers := rfl
@[simp] theorem State.dropPacket_jobs (s : State) (n : Nat) : (s.dropPacket n).jobs = s.jobs := rfl
@[simp] theorem State.dropPacket_bankfmt (s : State) (n : Nat) : (s.dropPacket n).bankfmt = s.bankfmt := rfl
@[simp] theorem State.dropPacket_saved (s : State) (n : Nat) : (s.dropPacket n).saved = s.saved := rfl
@[simp] theorem State.dropPacket_futures (s : State) (n : Nat) : (s.dropPacket n).futures = s.futures := rfl
@[simp] theorem State.dropPacket_localMem (s : State) (n : Nat) : (s.dropPacket n).localMem = s.localMem := rfl
@[simp] theorem State.dropPacket_scratch (s : State) (n : Nat) : (s.dropPacket n).scratch = s.scratch := rfl
@[simp] theorem State.dropPacket_codeMem (s : State) (n : Nat) : (s.dropPacket n).codeMem = s.codeMem := rfl
@[simp] theorem State.dropPacket_hbm (s : State) (n : Nat) : (s.dropPacket n).hbm = s.hbm := rfl
@[simp] theorem State.dropPacket_hostMem (s : State) (n : Nat) : (s.dropPacket n).hostMem = s.hostMem := rfl
@[simp] theorem State.dropPacket_writes (s : State) (n : Nat) : (s.dropPacket n).writes = s.writes := rfl
@[simp] theorem State.dropPacket_fences (s : State) (n : Nat) : (s.dropPacket n).fences = s.fences := rfl
@[simp] theorem State.dropPacket_gains (s : State) (n : Nat) : (s.dropPacket n).gains = s.gains := rfl
@[simp] theorem State.dropPacket_eccLocal (s : State) (n : Nat) : (s.dropPacket n).eccLocal = s.eccLocal := rfl
@[simp] theorem State.dropPacket_eccScratch (s : State) (n : Nat) : (s.dropPacket n).eccScratch = s.eccScratch := rfl
@[simp] theorem State.dropPacket_eccCode (s : State) (n : Nat) : (s.dropPacket n).eccCode = s.eccCode := rfl
@[simp] theorem State.dropPacket_stationTlb (s : State) (n : Nat) : (s.dropPacket n).stationTlb = s.stationTlb := rfl
@[simp] theorem State.dropPacket_dieTlb (s : State) (n : Nat) : (s.dropPacket n).dieTlb = s.dieTlb := rfl
@[simp] theorem State.dropPacket_walks (s : State) (n : Nat) : (s.dropPacket n).walks = s.walks := rfl
@[simp] theorem State.dropPacket_services (s : State) (n : Nat) : (s.dropPacket n).services = s.services := rfl
@[simp] theorem State.dropPacket_moves (s : State) (n : Nat) : (s.dropPacket n).moves = s.moves := rfl
@[simp] theorem State.dropPacket_counts (s : State) (n : Nat) : (s.dropPacket n).counts = s.counts := rfl
@[simp] theorem State.dropPacket_pools (s : State) (n : Nat) : (s.dropPacket n).pools = s.pools := rfl
@[simp] theorem State.dropPacket_fwdCredits (s : State) (n : Nat) : (s.dropPacket n).fwdCredits = s.fwdCredits := rfl
@[simp] theorem State.dropPacket_btes (s : State) (n : Nat) : (s.dropPacket n).btes = s.btes := rfl
@[simp] theorem State.dropPacket_sqes (s : State) (n : Nat) : (s.dropPacket n).sqes = s.sqes := rfl
@[simp] theorem State.dropPacket_nvme (s : State) (n : Nat) : (s.dropPacket n).nvme = s.nvme := rfl
@[simp] theorem State.dropPacket_queues (s : State) (n : Nat) : (s.dropPacket n).queues = s.queues := rfl
@[simp] theorem State.dropPacket_deviceQ (s : State) (n : Nat) : (s.dropPacket n).deviceQ = s.deviceQ := rfl
@[simp] theorem State.dropPacket_waiting (s : State) (n : Nat) : (s.dropPacket n).waiting = s.waiting := rfl
@[simp] theorem State.dropPacket_loading (s : State) (n : Nat) : (s.dropPacket n).loading = s.loading := rfl
@[simp] theorem State.dropPacket_restores (s : State) (n : Nat) : (s.dropPacket n).restores = s.restores := rfl
@[simp] theorem State.dropPacket_rrQueue (s : State) (n : Nat) : (s.dropPacket n).rrQueue = s.rrQueue := rfl
@[simp] theorem State.dropPacket_chains (s : State) (n : Nat) : (s.dropPacket n).chains = s.chains := rfl
@[simp] theorem State.dropPacket_digests (s : State) (n : Nat) : (s.dropPacket n).digests = s.digests := rfl
@[simp] theorem State.dropPacket_tlbJob (s : State) (n : Nat) : (s.dropPacket n).tlbJob = s.tlbJob := rfl
@[simp] theorem State.dropPacket_tlbAll (s : State) (n : Nat) : (s.dropPacket n).tlbAll = s.tlbAll := rfl
@[simp] theorem State.dropPacket_tlbVa (s : State) (n : Nat) : (s.dropPacket n).tlbVa = s.tlbVa := rfl
@[simp] theorem State.dropPacket_tlbBusy (s : State) (n : Nat) : (s.dropPacket n).tlbBusy = s.tlbBusy := rfl
@[simp] theorem State.dropPacket_devid (s : State) (n : Nat) : (s.dropPacket n).devid = s.devid := rfl
@[simp] theorem State.dropPacket_ports (s : State) (n : Nat) : (s.dropPacket n).ports = s.ports := rfl
@[simp] theorem State.dropPacket_routes (s : State) (n : Nat) : (s.dropPacket n).routes = s.routes := rfl
@[simp] theorem State.dropPacket_fabOut (s : State) (n : Nat) : (s.dropPacket n).fabOut = s.fabOut := rfl
@[simp] theorem State.dropPacket_fabWait (s : State) (n : Nat) : (s.dropPacket n).fabWait = s.fabWait := rfl
@[simp] theorem State.dropPacket_jobTags (s : State) (n : Nat) : (s.dropPacket n).jobTags = s.jobTags := rfl
@[simp] theorem State.dropPacket_privvf (s : State) (n : Nat) : (s.dropPacket n).privvf = s.privvf := rfl
@[simp] theorem State.dropPacket_hostFut (s : State) (n : Nat) : (s.dropPacket n).hostFut = s.hostFut := rfl
@[simp] theorem State.dropPacket_hostKnow (s : State) (n : Nat) : (s.dropPacket n).hostKnow = s.hostKnow := rfl
@[simp] theorem State.dropPacket_winbase (s : State) (n : Nat) : (s.dropPacket n).winbase = s.winbase := rfl
@[simp] theorem State.dropPacket_winbaseOld (s : State) (n : Nat) : (s.dropPacket n).winbaseOld = s.winbaseOld := rfl
@[simp] theorem State.dropPacket_winRead (s : State) (n : Nat) : (s.dropPacket n).winRead = s.winRead := rfl
@[simp] theorem State.dropPacket_msix (s : State) (n : Nat) : (s.dropPacket n).msix = s.msix := rfl
@[simp] theorem State.dropPacket_melbex (s : State) (n : Nat) : (s.dropPacket n).melbex = s.melbex := rfl
@[simp] theorem State.dropPacket_trace (s : State) (n : Nat) : (s.dropPacket n).trace = s.trace := rfl
@[simp] theorem State.dropPacket_log (s : State) (n : Nat) : (s.dropPacket n).log = s.log := rfl
@[simp] theorem State.dropPacket_budget (s : State) (n : Nat) : (s.dropPacket n).budget = s.budget := rfl
@[simp] theorem State.dropPacket_dutyCap (s : State) (n : Nat) : (s.dropPacket n).dutyCap = s.dutyCap := rfl
@[simp] theorem State.dropPacket_halted (s : State) (n : Nat) : (s.dropPacket n).halted = s.halted := rfl
@[simp] theorem State.dropPacket_inReset (s : State) (n : Nat) : (s.dropPacket n).inReset = s.inReset := rfl
@[simp] theorem State.dropPacket_link (s : State) (n : Nat) : (s.dropPacket n).link = s.link := rfl
@[simp] theorem State.dropPacket_ckpt (s : State) (n : Nat) : (s.dropPacket n).ckpt = s.ckpt := rfl
@[simp] theorem State.dropPacket_peerDigests (s : State) (n : Nat) : (s.dropPacket n).peerDigests = s.peerDigests := rfl

@[simp] theorem State.retire_clk (s : State) (len gap : Nat) (mark : Bool) (fl : Flow) : (s.retire len gap mark fl).clk = s.clk := rfl
@[simp] theorem State.retire_cur (s : State) (len gap : Nat) (mark : Bool) (fl : Flow) : (s.retire len gap mark fl).cur = s.cur := rfl
@[simp] theorem State.retire_serial (s : State) (len gap : Nat) (mark : Bool) (fl : Flow) : (s.retire len gap mark fl).serial = s.serial := rfl
@[simp] theorem State.retire_turns (s : State) (len gap : Nat) (mark : Bool) (fl : Flow) : (s.retire len gap mark fl).turns = s.turns := rfl
@[simp] theorem State.retire_turnNo (s : State) (len gap : Nat) (mark : Bool) (fl : Flow) : (s.retire len gap mark fl).turnNo = s.turnNo := rfl
@[simp] theorem State.retire_tasks (s : State) (len gap : Nat) (mark : Bool) (fl : Flow) : (s.retire len gap mark fl).tasks = s.tasks := rfl
@[simp] theorem State.retire_parties (s : State) (len gap : Nat) (mark : Bool) (fl : Flow) : (s.retire len gap mark fl).parties = s.parties := rfl
@[simp] theorem State.retire_cores (s : State) (len gap : Nat) (mark : Bool) (fl : Flow) : (s.retire len gap mark fl).cores = s.cores := rfl
@[simp] theorem State.retire_chans (s : State) (len gap : Nat) (mark : Bool) (fl : Flow) : (s.retire len gap mark fl).chans = s.chans := rfl
@[simp] theorem State.retire_arrSeqs (s : State) (len gap : Nat) (mark : Bool) (fl : Flow) : (s.retire len gap mark fl).arrSeqs = s.arrSeqs := rfl
@[simp] theorem State.retire_tiles (s : State) (len gap : Nat) (mark : Bool) (fl : Flow) : (s.retire len gap mark fl).tiles = s.tiles := rfl
@[simp] theorem State.retire_ops (s : State) (len gap : Nat) (mark : Bool) (fl : Flow) : (s.retire len gap mark fl).ops = s.ops := rfl
@[simp] theorem State.retire_stores (s : State) (len gap : Nat) (mark : Bool) (fl : Flow) : (s.retire len gap mark fl).stores = s.stores := rfl
@[simp] theorem State.retire_accs (s : State) (len gap : Nat) (mark : Bool) (fl : Flow) : (s.retire len gap mark fl).accs = s.accs := rfl
@[simp] theorem State.retire_outs (s : State) (len gap : Nat) (mark : Bool) (fl : Flow) : (s.retire len gap mark fl).outs = s.outs := rfl
@[simp] theorem State.retire_reqs (s : State) (len gap : Nat) (mark : Bool) (fl : Flow) : (s.retire len gap mark fl).reqs = s.reqs := rfl
@[simp] theorem State.retire_packets (s : State) (len gap : Nat) (mark : Bool) (fl : Flow) : (s.retire len gap mark fl).packets = s.packets := rfl
@[simp] theorem State.retire_routers (s : State) (len gap : Nat) (mark : Bool) (fl : Flow) : (s.retire len gap mark fl).routers = s.routers := rfl
@[simp] theorem State.retire_jobs (s : State) (len gap : Nat) (mark : Bool) (fl : Flow) : (s.retire len gap mark fl).jobs = s.jobs := rfl
@[simp] theorem State.retire_bankfmt (s : State) (len gap : Nat) (mark : Bool) (fl : Flow) : (s.retire len gap mark fl).bankfmt = s.bankfmt := rfl
@[simp] theorem State.retire_saved (s : State) (len gap : Nat) (mark : Bool) (fl : Flow) : (s.retire len gap mark fl).saved = s.saved := rfl
@[simp] theorem State.retire_futures (s : State) (len gap : Nat) (mark : Bool) (fl : Flow) : (s.retire len gap mark fl).futures = s.futures := rfl
@[simp] theorem State.retire_localMem (s : State) (len gap : Nat) (mark : Bool) (fl : Flow) : (s.retire len gap mark fl).localMem = s.localMem := rfl
@[simp] theorem State.retire_scratch (s : State) (len gap : Nat) (mark : Bool) (fl : Flow) : (s.retire len gap mark fl).scratch = s.scratch := rfl
@[simp] theorem State.retire_codeMem (s : State) (len gap : Nat) (mark : Bool) (fl : Flow) : (s.retire len gap mark fl).codeMem = s.codeMem := rfl
@[simp] theorem State.retire_hbm (s : State) (len gap : Nat) (mark : Bool) (fl : Flow) : (s.retire len gap mark fl).hbm = s.hbm := rfl
@[simp] theorem State.retire_hostMem (s : State) (len gap : Nat) (mark : Bool) (fl : Flow) : (s.retire len gap mark fl).hostMem = s.hostMem := rfl
@[simp] theorem State.retire_writes (s : State) (len gap : Nat) (mark : Bool) (fl : Flow) : (s.retire len gap mark fl).writes = s.writes := rfl
@[simp] theorem State.retire_fences (s : State) (len gap : Nat) (mark : Bool) (fl : Flow) : (s.retire len gap mark fl).fences = s.fences := rfl
@[simp] theorem State.retire_gains (s : State) (len gap : Nat) (mark : Bool) (fl : Flow) : (s.retire len gap mark fl).gains = s.gains := rfl
@[simp] theorem State.retire_eccLocal (s : State) (len gap : Nat) (mark : Bool) (fl : Flow) : (s.retire len gap mark fl).eccLocal = s.eccLocal := rfl
@[simp] theorem State.retire_eccScratch (s : State) (len gap : Nat) (mark : Bool) (fl : Flow) : (s.retire len gap mark fl).eccScratch = s.eccScratch := rfl
@[simp] theorem State.retire_eccCode (s : State) (len gap : Nat) (mark : Bool) (fl : Flow) : (s.retire len gap mark fl).eccCode = s.eccCode := rfl
@[simp] theorem State.retire_stationTlb (s : State) (len gap : Nat) (mark : Bool) (fl : Flow) : (s.retire len gap mark fl).stationTlb = s.stationTlb := rfl
@[simp] theorem State.retire_dieTlb (s : State) (len gap : Nat) (mark : Bool) (fl : Flow) : (s.retire len gap mark fl).dieTlb = s.dieTlb := rfl
@[simp] theorem State.retire_walks (s : State) (len gap : Nat) (mark : Bool) (fl : Flow) : (s.retire len gap mark fl).walks = s.walks := rfl
@[simp] theorem State.retire_services (s : State) (len gap : Nat) (mark : Bool) (fl : Flow) : (s.retire len gap mark fl).services = s.services := rfl
@[simp] theorem State.retire_moves (s : State) (len gap : Nat) (mark : Bool) (fl : Flow) : (s.retire len gap mark fl).moves = s.moves := rfl
@[simp] theorem State.retire_counts (s : State) (len gap : Nat) (mark : Bool) (fl : Flow) : (s.retire len gap mark fl).counts = s.counts := rfl
@[simp] theorem State.retire_pools (s : State) (len gap : Nat) (mark : Bool) (fl : Flow) : (s.retire len gap mark fl).pools = s.pools := rfl
@[simp] theorem State.retire_fwdCredits (s : State) (len gap : Nat) (mark : Bool) (fl : Flow) : (s.retire len gap mark fl).fwdCredits = s.fwdCredits := rfl
@[simp] theorem State.retire_btes (s : State) (len gap : Nat) (mark : Bool) (fl : Flow) : (s.retire len gap mark fl).btes = s.btes := rfl
@[simp] theorem State.retire_sqes (s : State) (len gap : Nat) (mark : Bool) (fl : Flow) : (s.retire len gap mark fl).sqes = s.sqes := rfl
@[simp] theorem State.retire_nvme (s : State) (len gap : Nat) (mark : Bool) (fl : Flow) : (s.retire len gap mark fl).nvme = s.nvme := rfl
@[simp] theorem State.retire_queues (s : State) (len gap : Nat) (mark : Bool) (fl : Flow) : (s.retire len gap mark fl).queues = s.queues := rfl
@[simp] theorem State.retire_deviceQ (s : State) (len gap : Nat) (mark : Bool) (fl : Flow) : (s.retire len gap mark fl).deviceQ = s.deviceQ := rfl
@[simp] theorem State.retire_waiting (s : State) (len gap : Nat) (mark : Bool) (fl : Flow) : (s.retire len gap mark fl).waiting = s.waiting := rfl
@[simp] theorem State.retire_loading (s : State) (len gap : Nat) (mark : Bool) (fl : Flow) : (s.retire len gap mark fl).loading = s.loading := rfl
@[simp] theorem State.retire_restores (s : State) (len gap : Nat) (mark : Bool) (fl : Flow) : (s.retire len gap mark fl).restores = s.restores := rfl
@[simp] theorem State.retire_rrQueue (s : State) (len gap : Nat) (mark : Bool) (fl : Flow) : (s.retire len gap mark fl).rrQueue = s.rrQueue := rfl
@[simp] theorem State.retire_chains (s : State) (len gap : Nat) (mark : Bool) (fl : Flow) : (s.retire len gap mark fl).chains = s.chains := rfl
@[simp] theorem State.retire_digests (s : State) (len gap : Nat) (mark : Bool) (fl : Flow) : (s.retire len gap mark fl).digests = s.digests := rfl
@[simp] theorem State.retire_tlbJob (s : State) (len gap : Nat) (mark : Bool) (fl : Flow) : (s.retire len gap mark fl).tlbJob = s.tlbJob := rfl
@[simp] theorem State.retire_tlbAll (s : State) (len gap : Nat) (mark : Bool) (fl : Flow) : (s.retire len gap mark fl).tlbAll = s.tlbAll := rfl
@[simp] theorem State.retire_tlbVa (s : State) (len gap : Nat) (mark : Bool) (fl : Flow) : (s.retire len gap mark fl).tlbVa = s.tlbVa := rfl
@[simp] theorem State.retire_tlbBusy (s : State) (len gap : Nat) (mark : Bool) (fl : Flow) : (s.retire len gap mark fl).tlbBusy = s.tlbBusy := rfl
@[simp] theorem State.retire_devid (s : State) (len gap : Nat) (mark : Bool) (fl : Flow) : (s.retire len gap mark fl).devid = s.devid := rfl
@[simp] theorem State.retire_ports (s : State) (len gap : Nat) (mark : Bool) (fl : Flow) : (s.retire len gap mark fl).ports = s.ports := rfl
@[simp] theorem State.retire_routes (s : State) (len gap : Nat) (mark : Bool) (fl : Flow) : (s.retire len gap mark fl).routes = s.routes := rfl
@[simp] theorem State.retire_fabOut (s : State) (len gap : Nat) (mark : Bool) (fl : Flow) : (s.retire len gap mark fl).fabOut = s.fabOut := rfl
@[simp] theorem State.retire_fabWait (s : State) (len gap : Nat) (mark : Bool) (fl : Flow) : (s.retire len gap mark fl).fabWait = s.fabWait := rfl
@[simp] theorem State.retire_jobTags (s : State) (len gap : Nat) (mark : Bool) (fl : Flow) : (s.retire len gap mark fl).jobTags = s.jobTags := rfl
@[simp] theorem State.retire_privvf (s : State) (len gap : Nat) (mark : Bool) (fl : Flow) : (s.retire len gap mark fl).privvf = s.privvf := rfl
@[simp] theorem State.retire_hostFut (s : State) (len gap : Nat) (mark : Bool) (fl : Flow) : (s.retire len gap mark fl).hostFut = s.hostFut := rfl
@[simp] theorem State.retire_hostKnow (s : State) (len gap : Nat) (mark : Bool) (fl : Flow) : (s.retire len gap mark fl).hostKnow = s.hostKnow := rfl
@[simp] theorem State.retire_winbase (s : State) (len gap : Nat) (mark : Bool) (fl : Flow) : (s.retire len gap mark fl).winbase = s.winbase := rfl
@[simp] theorem State.retire_winbaseOld (s : State) (len gap : Nat) (mark : Bool) (fl : Flow) : (s.retire len gap mark fl).winbaseOld = s.winbaseOld := rfl
@[simp] theorem State.retire_winRead (s : State) (len gap : Nat) (mark : Bool) (fl : Flow) : (s.retire len gap mark fl).winRead = s.winRead := rfl
@[simp] theorem State.retire_msix (s : State) (len gap : Nat) (mark : Bool) (fl : Flow) : (s.retire len gap mark fl).msix = s.msix := rfl
@[simp] theorem State.retire_melbex (s : State) (len gap : Nat) (mark : Bool) (fl : Flow) : (s.retire len gap mark fl).melbex = s.melbex := rfl
@[simp] theorem State.retire_trace (s : State) (len gap : Nat) (mark : Bool) (fl : Flow) : (s.retire len gap mark fl).trace = s.trace := rfl
@[simp] theorem State.retire_log (s : State) (len gap : Nat) (mark : Bool) (fl : Flow) : (s.retire len gap mark fl).log = s.log := rfl
@[simp] theorem State.retire_budget (s : State) (len gap : Nat) (mark : Bool) (fl : Flow) : (s.retire len gap mark fl).budget = s.budget := rfl
@[simp] theorem State.retire_dutyCap (s : State) (len gap : Nat) (mark : Bool) (fl : Flow) : (s.retire len gap mark fl).dutyCap = s.dutyCap := rfl
@[simp] theorem State.retire_halted (s : State) (len gap : Nat) (mark : Bool) (fl : Flow) : (s.retire len gap mark fl).halted = s.halted := rfl
@[simp] theorem State.retire_inReset (s : State) (len gap : Nat) (mark : Bool) (fl : Flow) : (s.retire len gap mark fl).inReset = s.inReset := rfl
@[simp] theorem State.retire_link (s : State) (len gap : Nat) (mark : Bool) (fl : Flow) : (s.retire len gap mark fl).link = s.link := rfl
@[simp] theorem State.retire_ckpt (s : State) (len gap : Nat) (mark : Bool) (fl : Flow) : (s.retire len gap mark fl).ckpt = s.ckpt := rfl
@[simp] theorem State.retire_peerDigests (s : State) (len gap : Nat) (mark : Bool) (fl : Flow) : (s.retire len gap mark fl).peerDigests = s.peerDigests := rfl

@[simp] theorem State.sendOut_clk (s : State) (o : OutMsg) (dst : Endpoint) : (s.sendOut o dst).clk = s.clk := rfl
@[simp] theorem State.sendOut_cur (s : State) (o : OutMsg) (dst : Endpoint) : (s.sendOut o dst).cur = s.cur := rfl
@[simp] theorem State.sendOut_free (s : State) (o : OutMsg) (dst : Endpoint) : (s.sendOut o dst).free = s.free := rfl
@[simp] theorem State.sendOut_turns (s : State) (o : OutMsg) (dst : Endpoint) : (s.sendOut o dst).turns = s.turns := rfl
@[simp] theorem State.sendOut_turnNo (s : State) (o : OutMsg) (dst : Endpoint) : (s.sendOut o dst).turnNo = s.turnNo := rfl
@[simp] theorem State.sendOut_limmOpen (s : State) (o : OutMsg) (dst : Endpoint) : (s.sendOut o dst).limmOpen = s.limmOpen := rfl
@[simp] theorem State.sendOut_ctxs (s : State) (o : OutMsg) (dst : Endpoint) : (s.sendOut o dst).ctxs = s.ctxs := rfl
@[simp] theorem State.sendOut_tasks (s : State) (o : OutMsg) (dst : Endpoint) : (s.sendOut o dst).tasks = s.tasks := rfl
@[simp] theorem State.sendOut_parties (s : State) (o : OutMsg) (dst : Endpoint) : (s.sendOut o dst).parties = s.parties := rfl
@[simp] theorem State.sendOut_cores (s : State) (o : OutMsg) (dst : Endpoint) : (s.sendOut o dst).cores = s.cores := rfl
@[simp] theorem State.sendOut_chans (s : State) (o : OutMsg) (dst : Endpoint) : (s.sendOut o dst).chans = s.chans := rfl
@[simp] theorem State.sendOut_arrSeqs (s : State) (o : OutMsg) (dst : Endpoint) : (s.sendOut o dst).arrSeqs = s.arrSeqs := rfl
@[simp] theorem State.sendOut_tiles (s : State) (o : OutMsg) (dst : Endpoint) : (s.sendOut o dst).tiles = s.tiles := rfl
@[simp] theorem State.sendOut_ops (s : State) (o : OutMsg) (dst : Endpoint) : (s.sendOut o dst).ops = s.ops := rfl
@[simp] theorem State.sendOut_stores (s : State) (o : OutMsg) (dst : Endpoint) : (s.sendOut o dst).stores = s.stores := rfl
@[simp] theorem State.sendOut_accs (s : State) (o : OutMsg) (dst : Endpoint) : (s.sendOut o dst).accs = s.accs := rfl
@[simp] theorem State.sendOut_reqs (s : State) (o : OutMsg) (dst : Endpoint) : (s.sendOut o dst).reqs = s.reqs := rfl
@[simp] theorem State.sendOut_routers (s : State) (o : OutMsg) (dst : Endpoint) : (s.sendOut o dst).routers = s.routers := rfl
@[simp] theorem State.sendOut_jobs (s : State) (o : OutMsg) (dst : Endpoint) : (s.sendOut o dst).jobs = s.jobs := rfl
@[simp] theorem State.sendOut_bankfmt (s : State) (o : OutMsg) (dst : Endpoint) : (s.sendOut o dst).bankfmt = s.bankfmt := rfl
@[simp] theorem State.sendOut_saved (s : State) (o : OutMsg) (dst : Endpoint) : (s.sendOut o dst).saved = s.saved := rfl
@[simp] theorem State.sendOut_futures (s : State) (o : OutMsg) (dst : Endpoint) : (s.sendOut o dst).futures = s.futures := rfl
@[simp] theorem State.sendOut_localMem (s : State) (o : OutMsg) (dst : Endpoint) : (s.sendOut o dst).localMem = s.localMem := rfl
@[simp] theorem State.sendOut_scratch (s : State) (o : OutMsg) (dst : Endpoint) : (s.sendOut o dst).scratch = s.scratch := rfl
@[simp] theorem State.sendOut_codeMem (s : State) (o : OutMsg) (dst : Endpoint) : (s.sendOut o dst).codeMem = s.codeMem := rfl
@[simp] theorem State.sendOut_hbm (s : State) (o : OutMsg) (dst : Endpoint) : (s.sendOut o dst).hbm = s.hbm := rfl
@[simp] theorem State.sendOut_hostMem (s : State) (o : OutMsg) (dst : Endpoint) : (s.sendOut o dst).hostMem = s.hostMem := rfl
@[simp] theorem State.sendOut_writes (s : State) (o : OutMsg) (dst : Endpoint) : (s.sendOut o dst).writes = s.writes := rfl
@[simp] theorem State.sendOut_fences (s : State) (o : OutMsg) (dst : Endpoint) : (s.sendOut o dst).fences = s.fences := rfl
@[simp] theorem State.sendOut_gains (s : State) (o : OutMsg) (dst : Endpoint) : (s.sendOut o dst).gains = s.gains := rfl
@[simp] theorem State.sendOut_eccLocal (s : State) (o : OutMsg) (dst : Endpoint) : (s.sendOut o dst).eccLocal = s.eccLocal := rfl
@[simp] theorem State.sendOut_eccScratch (s : State) (o : OutMsg) (dst : Endpoint) : (s.sendOut o dst).eccScratch = s.eccScratch := rfl
@[simp] theorem State.sendOut_eccCode (s : State) (o : OutMsg) (dst : Endpoint) : (s.sendOut o dst).eccCode = s.eccCode := rfl
@[simp] theorem State.sendOut_stationTlb (s : State) (o : OutMsg) (dst : Endpoint) : (s.sendOut o dst).stationTlb = s.stationTlb := rfl
@[simp] theorem State.sendOut_dieTlb (s : State) (o : OutMsg) (dst : Endpoint) : (s.sendOut o dst).dieTlb = s.dieTlb := rfl
@[simp] theorem State.sendOut_walks (s : State) (o : OutMsg) (dst : Endpoint) : (s.sendOut o dst).walks = s.walks := rfl
@[simp] theorem State.sendOut_services (s : State) (o : OutMsg) (dst : Endpoint) : (s.sendOut o dst).services = s.services := rfl
@[simp] theorem State.sendOut_moves (s : State) (o : OutMsg) (dst : Endpoint) : (s.sendOut o dst).moves = s.moves := rfl
@[simp] theorem State.sendOut_counts (s : State) (o : OutMsg) (dst : Endpoint) : (s.sendOut o dst).counts = s.counts := rfl
@[simp] theorem State.sendOut_pools (s : State) (o : OutMsg) (dst : Endpoint) : (s.sendOut o dst).pools = s.pools := rfl
@[simp] theorem State.sendOut_fwdCredits (s : State) (o : OutMsg) (dst : Endpoint) : (s.sendOut o dst).fwdCredits = s.fwdCredits := rfl
@[simp] theorem State.sendOut_btes (s : State) (o : OutMsg) (dst : Endpoint) : (s.sendOut o dst).btes = s.btes := rfl
@[simp] theorem State.sendOut_sqes (s : State) (o : OutMsg) (dst : Endpoint) : (s.sendOut o dst).sqes = s.sqes := rfl
@[simp] theorem State.sendOut_nvme (s : State) (o : OutMsg) (dst : Endpoint) : (s.sendOut o dst).nvme = s.nvme := rfl
@[simp] theorem State.sendOut_queues (s : State) (o : OutMsg) (dst : Endpoint) : (s.sendOut o dst).queues = s.queues := rfl
@[simp] theorem State.sendOut_deviceQ (s : State) (o : OutMsg) (dst : Endpoint) : (s.sendOut o dst).deviceQ = s.deviceQ := rfl
@[simp] theorem State.sendOut_waiting (s : State) (o : OutMsg) (dst : Endpoint) : (s.sendOut o dst).waiting = s.waiting := rfl
@[simp] theorem State.sendOut_loading (s : State) (o : OutMsg) (dst : Endpoint) : (s.sendOut o dst).loading = s.loading := rfl
@[simp] theorem State.sendOut_restores (s : State) (o : OutMsg) (dst : Endpoint) : (s.sendOut o dst).restores = s.restores := rfl
@[simp] theorem State.sendOut_rrQueue (s : State) (o : OutMsg) (dst : Endpoint) : (s.sendOut o dst).rrQueue = s.rrQueue := rfl
@[simp] theorem State.sendOut_chains (s : State) (o : OutMsg) (dst : Endpoint) : (s.sendOut o dst).chains = s.chains := rfl
@[simp] theorem State.sendOut_digests (s : State) (o : OutMsg) (dst : Endpoint) : (s.sendOut o dst).digests = s.digests := rfl
@[simp] theorem State.sendOut_tlbJob (s : State) (o : OutMsg) (dst : Endpoint) : (s.sendOut o dst).tlbJob = s.tlbJob := rfl
@[simp] theorem State.sendOut_tlbAll (s : State) (o : OutMsg) (dst : Endpoint) : (s.sendOut o dst).tlbAll = s.tlbAll := rfl
@[simp] theorem State.sendOut_tlbVa (s : State) (o : OutMsg) (dst : Endpoint) : (s.sendOut o dst).tlbVa = s.tlbVa := rfl
@[simp] theorem State.sendOut_tlbBusy (s : State) (o : OutMsg) (dst : Endpoint) : (s.sendOut o dst).tlbBusy = s.tlbBusy := rfl
@[simp] theorem State.sendOut_devid (s : State) (o : OutMsg) (dst : Endpoint) : (s.sendOut o dst).devid = s.devid := rfl
@[simp] theorem State.sendOut_ports (s : State) (o : OutMsg) (dst : Endpoint) : (s.sendOut o dst).ports = s.ports := rfl
@[simp] theorem State.sendOut_routes (s : State) (o : OutMsg) (dst : Endpoint) : (s.sendOut o dst).routes = s.routes := rfl
@[simp] theorem State.sendOut_fabOut (s : State) (o : OutMsg) (dst : Endpoint) : (s.sendOut o dst).fabOut = s.fabOut := rfl
@[simp] theorem State.sendOut_fabWait (s : State) (o : OutMsg) (dst : Endpoint) : (s.sendOut o dst).fabWait = s.fabWait := rfl
@[simp] theorem State.sendOut_jobTags (s : State) (o : OutMsg) (dst : Endpoint) : (s.sendOut o dst).jobTags = s.jobTags := rfl
@[simp] theorem State.sendOut_privvf (s : State) (o : OutMsg) (dst : Endpoint) : (s.sendOut o dst).privvf = s.privvf := rfl
@[simp] theorem State.sendOut_hostFut (s : State) (o : OutMsg) (dst : Endpoint) : (s.sendOut o dst).hostFut = s.hostFut := rfl
@[simp] theorem State.sendOut_hostKnow (s : State) (o : OutMsg) (dst : Endpoint) : (s.sendOut o dst).hostKnow = s.hostKnow := rfl
@[simp] theorem State.sendOut_winbase (s : State) (o : OutMsg) (dst : Endpoint) : (s.sendOut o dst).winbase = s.winbase := rfl
@[simp] theorem State.sendOut_winbaseOld (s : State) (o : OutMsg) (dst : Endpoint) : (s.sendOut o dst).winbaseOld = s.winbaseOld := rfl
@[simp] theorem State.sendOut_winRead (s : State) (o : OutMsg) (dst : Endpoint) : (s.sendOut o dst).winRead = s.winRead := rfl
@[simp] theorem State.sendOut_msix (s : State) (o : OutMsg) (dst : Endpoint) : (s.sendOut o dst).msix = s.msix := rfl
@[simp] theorem State.sendOut_melbex (s : State) (o : OutMsg) (dst : Endpoint) : (s.sendOut o dst).melbex = s.melbex := rfl
@[simp] theorem State.sendOut_trace (s : State) (o : OutMsg) (dst : Endpoint) : (s.sendOut o dst).trace = s.trace := rfl
@[simp] theorem State.sendOut_log (s : State) (o : OutMsg) (dst : Endpoint) : (s.sendOut o dst).log = s.log := rfl
@[simp] theorem State.sendOut_budget (s : State) (o : OutMsg) (dst : Endpoint) : (s.sendOut o dst).budget = s.budget := rfl
@[simp] theorem State.sendOut_dutyCap (s : State) (o : OutMsg) (dst : Endpoint) : (s.sendOut o dst).dutyCap = s.dutyCap := rfl
@[simp] theorem State.sendOut_halted (s : State) (o : OutMsg) (dst : Endpoint) : (s.sendOut o dst).halted = s.halted := rfl
@[simp] theorem State.sendOut_inReset (s : State) (o : OutMsg) (dst : Endpoint) : (s.sendOut o dst).inReset = s.inReset := rfl
@[simp] theorem State.sendOut_link (s : State) (o : OutMsg) (dst : Endpoint) : (s.sendOut o dst).link = s.link := rfl
@[simp] theorem State.sendOut_ckpt (s : State) (o : OutMsg) (dst : Endpoint) : (s.sendOut o dst).ckpt = s.ckpt := rfl
@[simp] theorem State.sendOut_peerDigests (s : State) (o : OutMsg) (dst : Endpoint) : (s.sendOut o dst).peerDigests = s.peerDigests := rfl

@[simp] theorem State.updCtx_clk (s : State) (k : Nat) (f : Ctx → Ctx) : (s.updCtx k f).clk = s.clk := by unfold State.updCtx; split <;> rfl
@[simp] theorem State.updCtx_cur (s : State) (k : Nat) (f : Ctx → Ctx) : (s.updCtx k f).cur = s.cur := by unfold State.updCtx; split <;> rfl
@[simp] theorem State.updCtx_free (s : State) (k : Nat) (f : Ctx → Ctx) : (s.updCtx k f).free = s.free := by unfold State.updCtx; split <;> rfl
@[simp] theorem State.updCtx_serial (s : State) (k : Nat) (f : Ctx → Ctx) : (s.updCtx k f).serial = s.serial := by unfold State.updCtx; split <;> rfl
@[simp] theorem State.updCtx_turns (s : State) (k : Nat) (f : Ctx → Ctx) : (s.updCtx k f).turns = s.turns := by unfold State.updCtx; split <;> rfl
@[simp] theorem State.updCtx_turnNo (s : State) (k : Nat) (f : Ctx → Ctx) : (s.updCtx k f).turnNo = s.turnNo := by unfold State.updCtx; split <;> rfl
@[simp] theorem State.updCtx_limmOpen (s : State) (k : Nat) (f : Ctx → Ctx) : (s.updCtx k f).limmOpen = s.limmOpen := by unfold State.updCtx; split <;> rfl
@[simp] theorem State.updCtx_tasks (s : State) (k : Nat) (f : Ctx → Ctx) : (s.updCtx k f).tasks = s.tasks := by unfold State.updCtx; split <;> rfl
@[simp] theorem State.updCtx_parties (s : State) (k : Nat) (f : Ctx → Ctx) : (s.updCtx k f).parties = s.parties := by unfold State.updCtx; split <;> rfl
@[simp] theorem State.updCtx_cores (s : State) (k : Nat) (f : Ctx → Ctx) : (s.updCtx k f).cores = s.cores := by unfold State.updCtx; split <;> rfl
@[simp] theorem State.updCtx_chans (s : State) (k : Nat) (f : Ctx → Ctx) : (s.updCtx k f).chans = s.chans := by unfold State.updCtx; split <;> rfl
@[simp] theorem State.updCtx_arrSeqs (s : State) (k : Nat) (f : Ctx → Ctx) : (s.updCtx k f).arrSeqs = s.arrSeqs := by unfold State.updCtx; split <;> rfl
@[simp] theorem State.updCtx_tiles (s : State) (k : Nat) (f : Ctx → Ctx) : (s.updCtx k f).tiles = s.tiles := by unfold State.updCtx; split <;> rfl
@[simp] theorem State.updCtx_ops (s : State) (k : Nat) (f : Ctx → Ctx) : (s.updCtx k f).ops = s.ops := by unfold State.updCtx; split <;> rfl
@[simp] theorem State.updCtx_stores (s : State) (k : Nat) (f : Ctx → Ctx) : (s.updCtx k f).stores = s.stores := by unfold State.updCtx; split <;> rfl
@[simp] theorem State.updCtx_accs (s : State) (k : Nat) (f : Ctx → Ctx) : (s.updCtx k f).accs = s.accs := by unfold State.updCtx; split <;> rfl
@[simp] theorem State.updCtx_outs (s : State) (k : Nat) (f : Ctx → Ctx) : (s.updCtx k f).outs = s.outs := by unfold State.updCtx; split <;> rfl
@[simp] theorem State.updCtx_reqs (s : State) (k : Nat) (f : Ctx → Ctx) : (s.updCtx k f).reqs = s.reqs := by unfold State.updCtx; split <;> rfl
@[simp] theorem State.updCtx_packets (s : State) (k : Nat) (f : Ctx → Ctx) : (s.updCtx k f).packets = s.packets := by unfold State.updCtx; split <;> rfl
@[simp] theorem State.updCtx_routers (s : State) (k : Nat) (f : Ctx → Ctx) : (s.updCtx k f).routers = s.routers := by unfold State.updCtx; split <;> rfl
@[simp] theorem State.updCtx_jobs (s : State) (k : Nat) (f : Ctx → Ctx) : (s.updCtx k f).jobs = s.jobs := by unfold State.updCtx; split <;> rfl
@[simp] theorem State.updCtx_bankfmt (s : State) (k : Nat) (f : Ctx → Ctx) : (s.updCtx k f).bankfmt = s.bankfmt := by unfold State.updCtx; split <;> rfl
@[simp] theorem State.updCtx_saved (s : State) (k : Nat) (f : Ctx → Ctx) : (s.updCtx k f).saved = s.saved := by unfold State.updCtx; split <;> rfl
@[simp] theorem State.updCtx_futures (s : State) (k : Nat) (f : Ctx → Ctx) : (s.updCtx k f).futures = s.futures := by unfold State.updCtx; split <;> rfl
@[simp] theorem State.updCtx_localMem (s : State) (k : Nat) (f : Ctx → Ctx) : (s.updCtx k f).localMem = s.localMem := by unfold State.updCtx; split <;> rfl
@[simp] theorem State.updCtx_scratch (s : State) (k : Nat) (f : Ctx → Ctx) : (s.updCtx k f).scratch = s.scratch := by unfold State.updCtx; split <;> rfl
@[simp] theorem State.updCtx_codeMem (s : State) (k : Nat) (f : Ctx → Ctx) : (s.updCtx k f).codeMem = s.codeMem := by unfold State.updCtx; split <;> rfl
@[simp] theorem State.updCtx_hbm (s : State) (k : Nat) (f : Ctx → Ctx) : (s.updCtx k f).hbm = s.hbm := by unfold State.updCtx; split <;> rfl
@[simp] theorem State.updCtx_hostMem (s : State) (k : Nat) (f : Ctx → Ctx) : (s.updCtx k f).hostMem = s.hostMem := by unfold State.updCtx; split <;> rfl
@[simp] theorem State.updCtx_writes (s : State) (k : Nat) (f : Ctx → Ctx) : (s.updCtx k f).writes = s.writes := by unfold State.updCtx; split <;> rfl
@[simp] theorem State.updCtx_fences (s : State) (k : Nat) (f : Ctx → Ctx) : (s.updCtx k f).fences = s.fences := by unfold State.updCtx; split <;> rfl
@[simp] theorem State.updCtx_gains (s : State) (k : Nat) (f : Ctx → Ctx) : (s.updCtx k f).gains = s.gains := by unfold State.updCtx; split <;> rfl
@[simp] theorem State.updCtx_eccLocal (s : State) (k : Nat) (f : Ctx → Ctx) : (s.updCtx k f).eccLocal = s.eccLocal := by unfold State.updCtx; split <;> rfl
@[simp] theorem State.updCtx_eccScratch (s : State) (k : Nat) (f : Ctx → Ctx) : (s.updCtx k f).eccScratch = s.eccScratch := by unfold State.updCtx; split <;> rfl
@[simp] theorem State.updCtx_eccCode (s : State) (k : Nat) (f : Ctx → Ctx) : (s.updCtx k f).eccCode = s.eccCode := by unfold State.updCtx; split <;> rfl
@[simp] theorem State.updCtx_stationTlb (s : State) (k : Nat) (f : Ctx → Ctx) : (s.updCtx k f).stationTlb = s.stationTlb := by unfold State.updCtx; split <;> rfl
@[simp] theorem State.updCtx_dieTlb (s : State) (k : Nat) (f : Ctx → Ctx) : (s.updCtx k f).dieTlb = s.dieTlb := by unfold State.updCtx; split <;> rfl
@[simp] theorem State.updCtx_walks (s : State) (k : Nat) (f : Ctx → Ctx) : (s.updCtx k f).walks = s.walks := by unfold State.updCtx; split <;> rfl
@[simp] theorem State.updCtx_services (s : State) (k : Nat) (f : Ctx → Ctx) : (s.updCtx k f).services = s.services := by unfold State.updCtx; split <;> rfl
@[simp] theorem State.updCtx_moves (s : State) (k : Nat) (f : Ctx → Ctx) : (s.updCtx k f).moves = s.moves := by unfold State.updCtx; split <;> rfl
@[simp] theorem State.updCtx_counts (s : State) (k : Nat) (f : Ctx → Ctx) : (s.updCtx k f).counts = s.counts := by unfold State.updCtx; split <;> rfl
@[simp] theorem State.updCtx_pools (s : State) (k : Nat) (f : Ctx → Ctx) : (s.updCtx k f).pools = s.pools := by unfold State.updCtx; split <;> rfl
@[simp] theorem State.updCtx_fwdCredits (s : State) (k : Nat) (f : Ctx → Ctx) : (s.updCtx k f).fwdCredits = s.fwdCredits := by unfold State.updCtx; split <;> rfl
@[simp] theorem State.updCtx_btes (s : State) (k : Nat) (f : Ctx → Ctx) : (s.updCtx k f).btes = s.btes := by unfold State.updCtx; split <;> rfl
@[simp] theorem State.updCtx_sqes (s : State) (k : Nat) (f : Ctx → Ctx) : (s.updCtx k f).sqes = s.sqes := by unfold State.updCtx; split <;> rfl
@[simp] theorem State.updCtx_nvme (s : State) (k : Nat) (f : Ctx → Ctx) : (s.updCtx k f).nvme = s.nvme := by unfold State.updCtx; split <;> rfl
@[simp] theorem State.updCtx_queues (s : State) (k : Nat) (f : Ctx → Ctx) : (s.updCtx k f).queues = s.queues := by unfold State.updCtx; split <;> rfl
@[simp] theorem State.updCtx_deviceQ (s : State) (k : Nat) (f : Ctx → Ctx) : (s.updCtx k f).deviceQ = s.deviceQ := by unfold State.updCtx; split <;> rfl
@[simp] theorem State.updCtx_waiting (s : State) (k : Nat) (f : Ctx → Ctx) : (s.updCtx k f).waiting = s.waiting := by unfold State.updCtx; split <;> rfl
@[simp] theorem State.updCtx_loading (s : State) (k : Nat) (f : Ctx → Ctx) : (s.updCtx k f).loading = s.loading := by unfold State.updCtx; split <;> rfl
@[simp] theorem State.updCtx_restores (s : State) (k : Nat) (f : Ctx → Ctx) : (s.updCtx k f).restores = s.restores := by unfold State.updCtx; split <;> rfl
@[simp] theorem State.updCtx_rrQueue (s : State) (k : Nat) (f : Ctx → Ctx) : (s.updCtx k f).rrQueue = s.rrQueue := by unfold State.updCtx; split <;> rfl
@[simp] theorem State.updCtx_chains (s : State) (k : Nat) (f : Ctx → Ctx) : (s.updCtx k f).chains = s.chains := by unfold State.updCtx; split <;> rfl
@[simp] theorem State.updCtx_digests (s : State) (k : Nat) (f : Ctx → Ctx) : (s.updCtx k f).digests = s.digests := by unfold State.updCtx; split <;> rfl
@[simp] theorem State.updCtx_tlbJob (s : State) (k : Nat) (f : Ctx → Ctx) : (s.updCtx k f).tlbJob = s.tlbJob := by unfold State.updCtx; split <;> rfl
@[simp] theorem State.updCtx_tlbAll (s : State) (k : Nat) (f : Ctx → Ctx) : (s.updCtx k f).tlbAll = s.tlbAll := by unfold State.updCtx; split <;> rfl
@[simp] theorem State.updCtx_tlbVa (s : State) (k : Nat) (f : Ctx → Ctx) : (s.updCtx k f).tlbVa = s.tlbVa := by unfold State.updCtx; split <;> rfl
@[simp] theorem State.updCtx_tlbBusy (s : State) (k : Nat) (f : Ctx → Ctx) : (s.updCtx k f).tlbBusy = s.tlbBusy := by unfold State.updCtx; split <;> rfl
@[simp] theorem State.updCtx_devid (s : State) (k : Nat) (f : Ctx → Ctx) : (s.updCtx k f).devid = s.devid := by unfold State.updCtx; split <;> rfl
@[simp] theorem State.updCtx_ports (s : State) (k : Nat) (f : Ctx → Ctx) : (s.updCtx k f).ports = s.ports := by unfold State.updCtx; split <;> rfl
@[simp] theorem State.updCtx_routes (s : State) (k : Nat) (f : Ctx → Ctx) : (s.updCtx k f).routes = s.routes := by unfold State.updCtx; split <;> rfl
@[simp] theorem State.updCtx_fabOut (s : State) (k : Nat) (f : Ctx → Ctx) : (s.updCtx k f).fabOut = s.fabOut := by unfold State.updCtx; split <;> rfl
@[simp] theorem State.updCtx_fabWait (s : State) (k : Nat) (f : Ctx → Ctx) : (s.updCtx k f).fabWait = s.fabWait := by unfold State.updCtx; split <;> rfl
@[simp] theorem State.updCtx_jobTags (s : State) (k : Nat) (f : Ctx → Ctx) : (s.updCtx k f).jobTags = s.jobTags := by unfold State.updCtx; split <;> rfl
@[simp] theorem State.updCtx_privvf (s : State) (k : Nat) (f : Ctx → Ctx) : (s.updCtx k f).privvf = s.privvf := by unfold State.updCtx; split <;> rfl
@[simp] theorem State.updCtx_hostFut (s : State) (k : Nat) (f : Ctx → Ctx) : (s.updCtx k f).hostFut = s.hostFut := by unfold State.updCtx; split <;> rfl
@[simp] theorem State.updCtx_hostKnow (s : State) (k : Nat) (f : Ctx → Ctx) : (s.updCtx k f).hostKnow = s.hostKnow := by unfold State.updCtx; split <;> rfl
@[simp] theorem State.updCtx_winbase (s : State) (k : Nat) (f : Ctx → Ctx) : (s.updCtx k f).winbase = s.winbase := by unfold State.updCtx; split <;> rfl
@[simp] theorem State.updCtx_winbaseOld (s : State) (k : Nat) (f : Ctx → Ctx) : (s.updCtx k f).winbaseOld = s.winbaseOld := by unfold State.updCtx; split <;> rfl
@[simp] theorem State.updCtx_winRead (s : State) (k : Nat) (f : Ctx → Ctx) : (s.updCtx k f).winRead = s.winRead := by unfold State.updCtx; split <;> rfl
@[simp] theorem State.updCtx_msix (s : State) (k : Nat) (f : Ctx → Ctx) : (s.updCtx k f).msix = s.msix := by unfold State.updCtx; split <;> rfl
@[simp] theorem State.updCtx_melbex (s : State) (k : Nat) (f : Ctx → Ctx) : (s.updCtx k f).melbex = s.melbex := by unfold State.updCtx; split <;> rfl
@[simp] theorem State.updCtx_trace (s : State) (k : Nat) (f : Ctx → Ctx) : (s.updCtx k f).trace = s.trace := by unfold State.updCtx; split <;> rfl
@[simp] theorem State.updCtx_log (s : State) (k : Nat) (f : Ctx → Ctx) : (s.updCtx k f).log = s.log := by unfold State.updCtx; split <;> rfl
@[simp] theorem State.updCtx_budget (s : State) (k : Nat) (f : Ctx → Ctx) : (s.updCtx k f).budget = s.budget := by unfold State.updCtx; split <;> rfl
@[simp] theorem State.updCtx_dutyCap (s : State) (k : Nat) (f : Ctx → Ctx) : (s.updCtx k f).dutyCap = s.dutyCap := by unfold State.updCtx; split <;> rfl
@[simp] theorem State.updCtx_halted (s : State) (k : Nat) (f : Ctx → Ctx) : (s.updCtx k f).halted = s.halted := by unfold State.updCtx; split <;> rfl
@[simp] theorem State.updCtx_inReset (s : State) (k : Nat) (f : Ctx → Ctx) : (s.updCtx k f).inReset = s.inReset := by unfold State.updCtx; split <;> rfl
@[simp] theorem State.updCtx_link (s : State) (k : Nat) (f : Ctx → Ctx) : (s.updCtx k f).link = s.link := by unfold State.updCtx; split <;> rfl
@[simp] theorem State.updCtx_ckpt (s : State) (k : Nat) (f : Ctx → Ctx) : (s.updCtx k f).ckpt = s.ckpt := by unfold State.updCtx; split <;> rfl
@[simp] theorem State.updCtx_peerDigests (s : State) (k : Nat) (f : Ctx → Ctx) : (s.updCtx k f).peerDigests = s.peerDigests := by unfold State.updCtx; split <;> rfl

@[simp] theorem State.updJob_clk (s : State) (n : Nat) (f : Job → Job) : (s.updJob n f).clk = s.clk := by unfold State.updJob; split <;> rfl
@[simp] theorem State.updJob_cur (s : State) (n : Nat) (f : Job → Job) : (s.updJob n f).cur = s.cur := by unfold State.updJob; split <;> rfl
@[simp] theorem State.updJob_free (s : State) (n : Nat) (f : Job → Job) : (s.updJob n f).free = s.free := by unfold State.updJob; split <;> rfl
@[simp] theorem State.updJob_serial (s : State) (n : Nat) (f : Job → Job) : (s.updJob n f).serial = s.serial := by unfold State.updJob; split <;> rfl
@[simp] theorem State.updJob_turns (s : State) (n : Nat) (f : Job → Job) : (s.updJob n f).turns = s.turns := by unfold State.updJob; split <;> rfl
@[simp] theorem State.updJob_turnNo (s : State) (n : Nat) (f : Job → Job) : (s.updJob n f).turnNo = s.turnNo := by unfold State.updJob; split <;> rfl
@[simp] theorem State.updJob_limmOpen (s : State) (n : Nat) (f : Job → Job) : (s.updJob n f).limmOpen = s.limmOpen := by unfold State.updJob; split <;> rfl
@[simp] theorem State.updJob_ctxs (s : State) (n : Nat) (f : Job → Job) : (s.updJob n f).ctxs = s.ctxs := by unfold State.updJob; split <;> rfl
@[simp] theorem State.updJob_tasks (s : State) (n : Nat) (f : Job → Job) : (s.updJob n f).tasks = s.tasks := by unfold State.updJob; split <;> rfl
@[simp] theorem State.updJob_parties (s : State) (n : Nat) (f : Job → Job) : (s.updJob n f).parties = s.parties := by unfold State.updJob; split <;> rfl
@[simp] theorem State.updJob_cores (s : State) (n : Nat) (f : Job → Job) : (s.updJob n f).cores = s.cores := by unfold State.updJob; split <;> rfl
@[simp] theorem State.updJob_chans (s : State) (n : Nat) (f : Job → Job) : (s.updJob n f).chans = s.chans := by unfold State.updJob; split <;> rfl
@[simp] theorem State.updJob_arrSeqs (s : State) (n : Nat) (f : Job → Job) : (s.updJob n f).arrSeqs = s.arrSeqs := by unfold State.updJob; split <;> rfl
@[simp] theorem State.updJob_tiles (s : State) (n : Nat) (f : Job → Job) : (s.updJob n f).tiles = s.tiles := by unfold State.updJob; split <;> rfl
@[simp] theorem State.updJob_ops (s : State) (n : Nat) (f : Job → Job) : (s.updJob n f).ops = s.ops := by unfold State.updJob; split <;> rfl
@[simp] theorem State.updJob_stores (s : State) (n : Nat) (f : Job → Job) : (s.updJob n f).stores = s.stores := by unfold State.updJob; split <;> rfl
@[simp] theorem State.updJob_accs (s : State) (n : Nat) (f : Job → Job) : (s.updJob n f).accs = s.accs := by unfold State.updJob; split <;> rfl
@[simp] theorem State.updJob_outs (s : State) (n : Nat) (f : Job → Job) : (s.updJob n f).outs = s.outs := by unfold State.updJob; split <;> rfl
@[simp] theorem State.updJob_reqs (s : State) (n : Nat) (f : Job → Job) : (s.updJob n f).reqs = s.reqs := by unfold State.updJob; split <;> rfl
@[simp] theorem State.updJob_packets (s : State) (n : Nat) (f : Job → Job) : (s.updJob n f).packets = s.packets := by unfold State.updJob; split <;> rfl
@[simp] theorem State.updJob_routers (s : State) (n : Nat) (f : Job → Job) : (s.updJob n f).routers = s.routers := by unfold State.updJob; split <;> rfl
@[simp] theorem State.updJob_bankfmt (s : State) (n : Nat) (f : Job → Job) : (s.updJob n f).bankfmt = s.bankfmt := by unfold State.updJob; split <;> rfl
@[simp] theorem State.updJob_saved (s : State) (n : Nat) (f : Job → Job) : (s.updJob n f).saved = s.saved := by unfold State.updJob; split <;> rfl
@[simp] theorem State.updJob_futures (s : State) (n : Nat) (f : Job → Job) : (s.updJob n f).futures = s.futures := by unfold State.updJob; split <;> rfl
@[simp] theorem State.updJob_localMem (s : State) (n : Nat) (f : Job → Job) : (s.updJob n f).localMem = s.localMem := by unfold State.updJob; split <;> rfl
@[simp] theorem State.updJob_scratch (s : State) (n : Nat) (f : Job → Job) : (s.updJob n f).scratch = s.scratch := by unfold State.updJob; split <;> rfl
@[simp] theorem State.updJob_codeMem (s : State) (n : Nat) (f : Job → Job) : (s.updJob n f).codeMem = s.codeMem := by unfold State.updJob; split <;> rfl
@[simp] theorem State.updJob_hbm (s : State) (n : Nat) (f : Job → Job) : (s.updJob n f).hbm = s.hbm := by unfold State.updJob; split <;> rfl
@[simp] theorem State.updJob_hostMem (s : State) (n : Nat) (f : Job → Job) : (s.updJob n f).hostMem = s.hostMem := by unfold State.updJob; split <;> rfl
@[simp] theorem State.updJob_writes (s : State) (n : Nat) (f : Job → Job) : (s.updJob n f).writes = s.writes := by unfold State.updJob; split <;> rfl
@[simp] theorem State.updJob_fences (s : State) (n : Nat) (f : Job → Job) : (s.updJob n f).fences = s.fences := by unfold State.updJob; split <;> rfl
@[simp] theorem State.updJob_gains (s : State) (n : Nat) (f : Job → Job) : (s.updJob n f).gains = s.gains := by unfold State.updJob; split <;> rfl
@[simp] theorem State.updJob_eccLocal (s : State) (n : Nat) (f : Job → Job) : (s.updJob n f).eccLocal = s.eccLocal := by unfold State.updJob; split <;> rfl
@[simp] theorem State.updJob_eccScratch (s : State) (n : Nat) (f : Job → Job) : (s.updJob n f).eccScratch = s.eccScratch := by unfold State.updJob; split <;> rfl
@[simp] theorem State.updJob_eccCode (s : State) (n : Nat) (f : Job → Job) : (s.updJob n f).eccCode = s.eccCode := by unfold State.updJob; split <;> rfl
@[simp] theorem State.updJob_stationTlb (s : State) (n : Nat) (f : Job → Job) : (s.updJob n f).stationTlb = s.stationTlb := by unfold State.updJob; split <;> rfl
@[simp] theorem State.updJob_dieTlb (s : State) (n : Nat) (f : Job → Job) : (s.updJob n f).dieTlb = s.dieTlb := by unfold State.updJob; split <;> rfl
@[simp] theorem State.updJob_walks (s : State) (n : Nat) (f : Job → Job) : (s.updJob n f).walks = s.walks := by unfold State.updJob; split <;> rfl
@[simp] theorem State.updJob_services (s : State) (n : Nat) (f : Job → Job) : (s.updJob n f).services = s.services := by unfold State.updJob; split <;> rfl
@[simp] theorem State.updJob_moves (s : State) (n : Nat) (f : Job → Job) : (s.updJob n f).moves = s.moves := by unfold State.updJob; split <;> rfl
@[simp] theorem State.updJob_counts (s : State) (n : Nat) (f : Job → Job) : (s.updJob n f).counts = s.counts := by unfold State.updJob; split <;> rfl
@[simp] theorem State.updJob_pools (s : State) (n : Nat) (f : Job → Job) : (s.updJob n f).pools = s.pools := by unfold State.updJob; split <;> rfl
@[simp] theorem State.updJob_fwdCredits (s : State) (n : Nat) (f : Job → Job) : (s.updJob n f).fwdCredits = s.fwdCredits := by unfold State.updJob; split <;> rfl
@[simp] theorem State.updJob_btes (s : State) (n : Nat) (f : Job → Job) : (s.updJob n f).btes = s.btes := by unfold State.updJob; split <;> rfl
@[simp] theorem State.updJob_sqes (s : State) (n : Nat) (f : Job → Job) : (s.updJob n f).sqes = s.sqes := by unfold State.updJob; split <;> rfl
@[simp] theorem State.updJob_nvme (s : State) (n : Nat) (f : Job → Job) : (s.updJob n f).nvme = s.nvme := by unfold State.updJob; split <;> rfl
@[simp] theorem State.updJob_queues (s : State) (n : Nat) (f : Job → Job) : (s.updJob n f).queues = s.queues := by unfold State.updJob; split <;> rfl
@[simp] theorem State.updJob_deviceQ (s : State) (n : Nat) (f : Job → Job) : (s.updJob n f).deviceQ = s.deviceQ := by unfold State.updJob; split <;> rfl
@[simp] theorem State.updJob_waiting (s : State) (n : Nat) (f : Job → Job) : (s.updJob n f).waiting = s.waiting := by unfold State.updJob; split <;> rfl
@[simp] theorem State.updJob_loading (s : State) (n : Nat) (f : Job → Job) : (s.updJob n f).loading = s.loading := by unfold State.updJob; split <;> rfl
@[simp] theorem State.updJob_restores (s : State) (n : Nat) (f : Job → Job) : (s.updJob n f).restores = s.restores := by unfold State.updJob; split <;> rfl
@[simp] theorem State.updJob_rrQueue (s : State) (n : Nat) (f : Job → Job) : (s.updJob n f).rrQueue = s.rrQueue := by unfold State.updJob; split <;> rfl
@[simp] theorem State.updJob_chains (s : State) (n : Nat) (f : Job → Job) : (s.updJob n f).chains = s.chains := by unfold State.updJob; split <;> rfl
@[simp] theorem State.updJob_digests (s : State) (n : Nat) (f : Job → Job) : (s.updJob n f).digests = s.digests := by unfold State.updJob; split <;> rfl
@[simp] theorem State.updJob_tlbJob (s : State) (n : Nat) (f : Job → Job) : (s.updJob n f).tlbJob = s.tlbJob := by unfold State.updJob; split <;> rfl
@[simp] theorem State.updJob_tlbAll (s : State) (n : Nat) (f : Job → Job) : (s.updJob n f).tlbAll = s.tlbAll := by unfold State.updJob; split <;> rfl
@[simp] theorem State.updJob_tlbVa (s : State) (n : Nat) (f : Job → Job) : (s.updJob n f).tlbVa = s.tlbVa := by unfold State.updJob; split <;> rfl
@[simp] theorem State.updJob_tlbBusy (s : State) (n : Nat) (f : Job → Job) : (s.updJob n f).tlbBusy = s.tlbBusy := by unfold State.updJob; split <;> rfl
@[simp] theorem State.updJob_devid (s : State) (n : Nat) (f : Job → Job) : (s.updJob n f).devid = s.devid := by unfold State.updJob; split <;> rfl
@[simp] theorem State.updJob_ports (s : State) (n : Nat) (f : Job → Job) : (s.updJob n f).ports = s.ports := by unfold State.updJob; split <;> rfl
@[simp] theorem State.updJob_routes (s : State) (n : Nat) (f : Job → Job) : (s.updJob n f).routes = s.routes := by unfold State.updJob; split <;> rfl
@[simp] theorem State.updJob_fabOut (s : State) (n : Nat) (f : Job → Job) : (s.updJob n f).fabOut = s.fabOut := by unfold State.updJob; split <;> rfl
@[simp] theorem State.updJob_fabWait (s : State) (n : Nat) (f : Job → Job) : (s.updJob n f).fabWait = s.fabWait := by unfold State.updJob; split <;> rfl
@[simp] theorem State.updJob_jobTags (s : State) (n : Nat) (f : Job → Job) : (s.updJob n f).jobTags = s.jobTags := by unfold State.updJob; split <;> rfl
@[simp] theorem State.updJob_privvf (s : State) (n : Nat) (f : Job → Job) : (s.updJob n f).privvf = s.privvf := by unfold State.updJob; split <;> rfl
@[simp] theorem State.updJob_hostFut (s : State) (n : Nat) (f : Job → Job) : (s.updJob n f).hostFut = s.hostFut := by unfold State.updJob; split <;> rfl
@[simp] theorem State.updJob_hostKnow (s : State) (n : Nat) (f : Job → Job) : (s.updJob n f).hostKnow = s.hostKnow := by unfold State.updJob; split <;> rfl
@[simp] theorem State.updJob_winbase (s : State) (n : Nat) (f : Job → Job) : (s.updJob n f).winbase = s.winbase := by unfold State.updJob; split <;> rfl
@[simp] theorem State.updJob_winbaseOld (s : State) (n : Nat) (f : Job → Job) : (s.updJob n f).winbaseOld = s.winbaseOld := by unfold State.updJob; split <;> rfl
@[simp] theorem State.updJob_winRead (s : State) (n : Nat) (f : Job → Job) : (s.updJob n f).winRead = s.winRead := by unfold State.updJob; split <;> rfl
@[simp] theorem State.updJob_msix (s : State) (n : Nat) (f : Job → Job) : (s.updJob n f).msix = s.msix := by unfold State.updJob; split <;> rfl
@[simp] theorem State.updJob_melbex (s : State) (n : Nat) (f : Job → Job) : (s.updJob n f).melbex = s.melbex := by unfold State.updJob; split <;> rfl
@[simp] theorem State.updJob_trace (s : State) (n : Nat) (f : Job → Job) : (s.updJob n f).trace = s.trace := by unfold State.updJob; split <;> rfl
@[simp] theorem State.updJob_log (s : State) (n : Nat) (f : Job → Job) : (s.updJob n f).log = s.log := by unfold State.updJob; split <;> rfl
@[simp] theorem State.updJob_budget (s : State) (n : Nat) (f : Job → Job) : (s.updJob n f).budget = s.budget := by unfold State.updJob; split <;> rfl
@[simp] theorem State.updJob_dutyCap (s : State) (n : Nat) (f : Job → Job) : (s.updJob n f).dutyCap = s.dutyCap := by unfold State.updJob; split <;> rfl
@[simp] theorem State.updJob_halted (s : State) (n : Nat) (f : Job → Job) : (s.updJob n f).halted = s.halted := by unfold State.updJob; split <;> rfl
@[simp] theorem State.updJob_inReset (s : State) (n : Nat) (f : Job → Job) : (s.updJob n f).inReset = s.inReset := by unfold State.updJob; split <;> rfl
@[simp] theorem State.updJob_link (s : State) (n : Nat) (f : Job → Job) : (s.updJob n f).link = s.link := by unfold State.updJob; split <;> rfl
@[simp] theorem State.updJob_ckpt (s : State) (n : Nat) (f : Job → Job) : (s.updJob n f).ckpt = s.ckpt := by unfold State.updJob; split <;> rfl
@[simp] theorem State.updJob_peerDigests (s : State) (n : Nat) (f : Job → Job) : (s.updJob n f).peerDigests = s.peerDigests := by unfold State.updJob; split <;> rfl

@[simp] theorem State.putMem_clk (s : State) (sp : Space) (m : Memory) : (s.putMem sp m).clk = s.clk := by cases sp <;> rfl
@[simp] theorem State.putMem_cur (s : State) (sp : Space) (m : Memory) : (s.putMem sp m).cur = s.cur := by cases sp <;> rfl
@[simp] theorem State.putMem_free (s : State) (sp : Space) (m : Memory) : (s.putMem sp m).free = s.free := by cases sp <;> rfl
@[simp] theorem State.putMem_serial (s : State) (sp : Space) (m : Memory) : (s.putMem sp m).serial = s.serial := by cases sp <;> rfl
@[simp] theorem State.putMem_turns (s : State) (sp : Space) (m : Memory) : (s.putMem sp m).turns = s.turns := by cases sp <;> rfl
@[simp] theorem State.putMem_turnNo (s : State) (sp : Space) (m : Memory) : (s.putMem sp m).turnNo = s.turnNo := by cases sp <;> rfl
@[simp] theorem State.putMem_limmOpen (s : State) (sp : Space) (m : Memory) : (s.putMem sp m).limmOpen = s.limmOpen := by cases sp <;> rfl
@[simp] theorem State.putMem_ctxs (s : State) (sp : Space) (m : Memory) : (s.putMem sp m).ctxs = s.ctxs := by cases sp <;> rfl
@[simp] theorem State.putMem_tasks (s : State) (sp : Space) (m : Memory) : (s.putMem sp m).tasks = s.tasks := by cases sp <;> rfl
@[simp] theorem State.putMem_parties (s : State) (sp : Space) (m : Memory) : (s.putMem sp m).parties = s.parties := by cases sp <;> rfl
@[simp] theorem State.putMem_cores (s : State) (sp : Space) (m : Memory) : (s.putMem sp m).cores = s.cores := by cases sp <;> rfl
@[simp] theorem State.putMem_chans (s : State) (sp : Space) (m : Memory) : (s.putMem sp m).chans = s.chans := by cases sp <;> rfl
@[simp] theorem State.putMem_arrSeqs (s : State) (sp : Space) (m : Memory) : (s.putMem sp m).arrSeqs = s.arrSeqs := by cases sp <;> rfl
@[simp] theorem State.putMem_tiles (s : State) (sp : Space) (m : Memory) : (s.putMem sp m).tiles = s.tiles := by cases sp <;> rfl
@[simp] theorem State.putMem_ops (s : State) (sp : Space) (m : Memory) : (s.putMem sp m).ops = s.ops := by cases sp <;> rfl
@[simp] theorem State.putMem_stores (s : State) (sp : Space) (m : Memory) : (s.putMem sp m).stores = s.stores := by cases sp <;> rfl
@[simp] theorem State.putMem_accs (s : State) (sp : Space) (m : Memory) : (s.putMem sp m).accs = s.accs := by cases sp <;> rfl
@[simp] theorem State.putMem_outs (s : State) (sp : Space) (m : Memory) : (s.putMem sp m).outs = s.outs := by cases sp <;> rfl
@[simp] theorem State.putMem_reqs (s : State) (sp : Space) (m : Memory) : (s.putMem sp m).reqs = s.reqs := by cases sp <;> rfl
@[simp] theorem State.putMem_packets (s : State) (sp : Space) (m : Memory) : (s.putMem sp m).packets = s.packets := by cases sp <;> rfl
@[simp] theorem State.putMem_routers (s : State) (sp : Space) (m : Memory) : (s.putMem sp m).routers = s.routers := by cases sp <;> rfl
@[simp] theorem State.putMem_jobs (s : State) (sp : Space) (m : Memory) : (s.putMem sp m).jobs = s.jobs := by cases sp <;> rfl
@[simp] theorem State.putMem_bankfmt (s : State) (sp : Space) (m : Memory) : (s.putMem sp m).bankfmt = s.bankfmt := by cases sp <;> rfl
@[simp] theorem State.putMem_saved (s : State) (sp : Space) (m : Memory) : (s.putMem sp m).saved = s.saved := by cases sp <;> rfl
@[simp] theorem State.putMem_futures (s : State) (sp : Space) (m : Memory) : (s.putMem sp m).futures = s.futures := by cases sp <;> rfl
@[simp] theorem State.putMem_writes (s : State) (sp : Space) (m : Memory) : (s.putMem sp m).writes = s.writes := by cases sp <;> rfl
@[simp] theorem State.putMem_fences (s : State) (sp : Space) (m : Memory) : (s.putMem sp m).fences = s.fences := by cases sp <;> rfl
@[simp] theorem State.putMem_gains (s : State) (sp : Space) (m : Memory) : (s.putMem sp m).gains = s.gains := by cases sp <;> rfl
@[simp] theorem State.putMem_eccLocal (s : State) (sp : Space) (m : Memory) : (s.putMem sp m).eccLocal = s.eccLocal := by cases sp <;> rfl
@[simp] theorem State.putMem_eccScratch (s : State) (sp : Space) (m : Memory) : (s.putMem sp m).eccScratch = s.eccScratch := by cases sp <;> rfl
@[simp] theorem State.putMem_eccCode (s : State) (sp : Space) (m : Memory) : (s.putMem sp m).eccCode = s.eccCode := by cases sp <;> rfl
@[simp] theorem State.putMem_stationTlb (s : State) (sp : Space) (m : Memory) : (s.putMem sp m).stationTlb = s.stationTlb := by cases sp <;> rfl
@[simp] theorem State.putMem_dieTlb (s : State) (sp : Space) (m : Memory) : (s.putMem sp m).dieTlb = s.dieTlb := by cases sp <;> rfl
@[simp] theorem State.putMem_walks (s : State) (sp : Space) (m : Memory) : (s.putMem sp m).walks = s.walks := by cases sp <;> rfl
@[simp] theorem State.putMem_services (s : State) (sp : Space) (m : Memory) : (s.putMem sp m).services = s.services := by cases sp <;> rfl
@[simp] theorem State.putMem_moves (s : State) (sp : Space) (m : Memory) : (s.putMem sp m).moves = s.moves := by cases sp <;> rfl
@[simp] theorem State.putMem_counts (s : State) (sp : Space) (m : Memory) : (s.putMem sp m).counts = s.counts := by cases sp <;> rfl
@[simp] theorem State.putMem_pools (s : State) (sp : Space) (m : Memory) : (s.putMem sp m).pools = s.pools := by cases sp <;> rfl
@[simp] theorem State.putMem_fwdCredits (s : State) (sp : Space) (m : Memory) : (s.putMem sp m).fwdCredits = s.fwdCredits := by cases sp <;> rfl
@[simp] theorem State.putMem_btes (s : State) (sp : Space) (m : Memory) : (s.putMem sp m).btes = s.btes := by cases sp <;> rfl
@[simp] theorem State.putMem_sqes (s : State) (sp : Space) (m : Memory) : (s.putMem sp m).sqes = s.sqes := by cases sp <;> rfl
@[simp] theorem State.putMem_nvme (s : State) (sp : Space) (m : Memory) : (s.putMem sp m).nvme = s.nvme := by cases sp <;> rfl
@[simp] theorem State.putMem_queues (s : State) (sp : Space) (m : Memory) : (s.putMem sp m).queues = s.queues := by cases sp <;> rfl
@[simp] theorem State.putMem_deviceQ (s : State) (sp : Space) (m : Memory) : (s.putMem sp m).deviceQ = s.deviceQ := by cases sp <;> rfl
@[simp] theorem State.putMem_waiting (s : State) (sp : Space) (m : Memory) : (s.putMem sp m).waiting = s.waiting := by cases sp <;> rfl
@[simp] theorem State.putMem_loading (s : State) (sp : Space) (m : Memory) : (s.putMem sp m).loading = s.loading := by cases sp <;> rfl
@[simp] theorem State.putMem_restores (s : State) (sp : Space) (m : Memory) : (s.putMem sp m).restores = s.restores := by cases sp <;> rfl
@[simp] theorem State.putMem_rrQueue (s : State) (sp : Space) (m : Memory) : (s.putMem sp m).rrQueue = s.rrQueue := by cases sp <;> rfl
@[simp] theorem State.putMem_chains (s : State) (sp : Space) (m : Memory) : (s.putMem sp m).chains = s.chains := by cases sp <;> rfl
@[simp] theorem State.putMem_digests (s : State) (sp : Space) (m : Memory) : (s.putMem sp m).digests = s.digests := by cases sp <;> rfl
@[simp] theorem State.putMem_tlbJob (s : State) (sp : Space) (m : Memory) : (s.putMem sp m).tlbJob = s.tlbJob := by cases sp <;> rfl
@[simp] theorem State.putMem_tlbAll (s : State) (sp : Space) (m : Memory) : (s.putMem sp m).tlbAll = s.tlbAll := by cases sp <;> rfl
@[simp] theorem State.putMem_tlbVa (s : State) (sp : Space) (m : Memory) : (s.putMem sp m).tlbVa = s.tlbVa := by cases sp <;> rfl
@[simp] theorem State.putMem_tlbBusy (s : State) (sp : Space) (m : Memory) : (s.putMem sp m).tlbBusy = s.tlbBusy := by cases sp <;> rfl
@[simp] theorem State.putMem_devid (s : State) (sp : Space) (m : Memory) : (s.putMem sp m).devid = s.devid := by cases sp <;> rfl
@[simp] theorem State.putMem_ports (s : State) (sp : Space) (m : Memory) : (s.putMem sp m).ports = s.ports := by cases sp <;> rfl
@[simp] theorem State.putMem_routes (s : State) (sp : Space) (m : Memory) : (s.putMem sp m).routes = s.routes := by cases sp <;> rfl
@[simp] theorem State.putMem_fabOut (s : State) (sp : Space) (m : Memory) : (s.putMem sp m).fabOut = s.fabOut := by cases sp <;> rfl
@[simp] theorem State.putMem_fabWait (s : State) (sp : Space) (m : Memory) : (s.putMem sp m).fabWait = s.fabWait := by cases sp <;> rfl
@[simp] theorem State.putMem_jobTags (s : State) (sp : Space) (m : Memory) : (s.putMem sp m).jobTags = s.jobTags := by cases sp <;> rfl
@[simp] theorem State.putMem_privvf (s : State) (sp : Space) (m : Memory) : (s.putMem sp m).privvf = s.privvf := by cases sp <;> rfl
@[simp] theorem State.putMem_hostFut (s : State) (sp : Space) (m : Memory) : (s.putMem sp m).hostFut = s.hostFut := by cases sp <;> rfl
@[simp] theorem State.putMem_hostKnow (s : State) (sp : Space) (m : Memory) : (s.putMem sp m).hostKnow = s.hostKnow := by cases sp <;> rfl
@[simp] theorem State.putMem_winbase (s : State) (sp : Space) (m : Memory) : (s.putMem sp m).winbase = s.winbase := by cases sp <;> rfl
@[simp] theorem State.putMem_winbaseOld (s : State) (sp : Space) (m : Memory) : (s.putMem sp m).winbaseOld = s.winbaseOld := by cases sp <;> rfl
@[simp] theorem State.putMem_winRead (s : State) (sp : Space) (m : Memory) : (s.putMem sp m).winRead = s.winRead := by cases sp <;> rfl
@[simp] theorem State.putMem_msix (s : State) (sp : Space) (m : Memory) : (s.putMem sp m).msix = s.msix := by cases sp <;> rfl
@[simp] theorem State.putMem_melbex (s : State) (sp : Space) (m : Memory) : (s.putMem sp m).melbex = s.melbex := by cases sp <;> rfl
@[simp] theorem State.putMem_trace (s : State) (sp : Space) (m : Memory) : (s.putMem sp m).trace = s.trace := by cases sp <;> rfl
@[simp] theorem State.putMem_log (s : State) (sp : Space) (m : Memory) : (s.putMem sp m).log = s.log := by cases sp <;> rfl
@[simp] theorem State.putMem_budget (s : State) (sp : Space) (m : Memory) : (s.putMem sp m).budget = s.budget := by cases sp <;> rfl
@[simp] theorem State.putMem_dutyCap (s : State) (sp : Space) (m : Memory) : (s.putMem sp m).dutyCap = s.dutyCap := by cases sp <;> rfl
@[simp] theorem State.putMem_halted (s : State) (sp : Space) (m : Memory) : (s.putMem sp m).halted = s.halted := by cases sp <;> rfl
@[simp] theorem State.putMem_inReset (s : State) (sp : Space) (m : Memory) : (s.putMem sp m).inReset = s.inReset := by cases sp <;> rfl
@[simp] theorem State.putMem_link (s : State) (sp : Space) (m : Memory) : (s.putMem sp m).link = s.link := by cases sp <;> rfl
@[simp] theorem State.putMem_ckpt (s : State) (sp : Space) (m : Memory) : (s.putMem sp m).ckpt = s.ckpt := by cases sp <;> rfl
@[simp] theorem State.putMem_peerDigests (s : State) (sp : Space) (m : Memory) : (s.putMem sp m).peerDigests = s.peerDigests := by cases sp <;> rfl

@[simp] theorem State.pod_clk (s : State) (src : Endpoint) (job v : Nat) (lost killed : Bool) : (s.pod src job v lost killed).clk = s.clk := by unfold State.pod; repeat (first | rfl | split)
@[simp] theorem State.pod_cur (s : State) (src : Endpoint) (job v : Nat) (lost killed : Bool) : (s.pod src job v lost killed).cur = s.cur := by unfold State.pod; repeat (first | rfl | split)
@[simp] theorem State.pod_free (s : State) (src : Endpoint) (job v : Nat) (lost killed : Bool) : (s.pod src job v lost killed).free = s.free := by unfold State.pod; repeat (first | rfl | split)
@[simp] theorem State.pod_turns (s : State) (src : Endpoint) (job v : Nat) (lost killed : Bool) : (s.pod src job v lost killed).turns = s.turns := by unfold State.pod; repeat (first | rfl | split)
@[simp] theorem State.pod_turnNo (s : State) (src : Endpoint) (job v : Nat) (lost killed : Bool) : (s.pod src job v lost killed).turnNo = s.turnNo := by unfold State.pod; repeat (first | rfl | split)
@[simp] theorem State.pod_limmOpen (s : State) (src : Endpoint) (job v : Nat) (lost killed : Bool) : (s.pod src job v lost killed).limmOpen = s.limmOpen := by unfold State.pod; repeat (first | rfl | split)
@[simp] theorem State.pod_ctxs (s : State) (src : Endpoint) (job v : Nat) (lost killed : Bool) : (s.pod src job v lost killed).ctxs = s.ctxs := by unfold State.pod; repeat (first | rfl | split)
@[simp] theorem State.pod_tasks (s : State) (src : Endpoint) (job v : Nat) (lost killed : Bool) : (s.pod src job v lost killed).tasks = s.tasks := by unfold State.pod; repeat (first | rfl | split)
@[simp] theorem State.pod_parties (s : State) (src : Endpoint) (job v : Nat) (lost killed : Bool) : (s.pod src job v lost killed).parties = s.parties := by unfold State.pod; repeat (first | rfl | split)
@[simp] theorem State.pod_cores (s : State) (src : Endpoint) (job v : Nat) (lost killed : Bool) : (s.pod src job v lost killed).cores = s.cores := by unfold State.pod; repeat (first | rfl | split)
@[simp] theorem State.pod_chans (s : State) (src : Endpoint) (job v : Nat) (lost killed : Bool) : (s.pod src job v lost killed).chans = s.chans := by unfold State.pod; repeat (first | rfl | split)
@[simp] theorem State.pod_arrSeqs (s : State) (src : Endpoint) (job v : Nat) (lost killed : Bool) : (s.pod src job v lost killed).arrSeqs = s.arrSeqs := by unfold State.pod; repeat (first | rfl | split)
@[simp] theorem State.pod_tiles (s : State) (src : Endpoint) (job v : Nat) (lost killed : Bool) : (s.pod src job v lost killed).tiles = s.tiles := by unfold State.pod; repeat (first | rfl | split)
@[simp] theorem State.pod_ops (s : State) (src : Endpoint) (job v : Nat) (lost killed : Bool) : (s.pod src job v lost killed).ops = s.ops := by unfold State.pod; repeat (first | rfl | split)
@[simp] theorem State.pod_stores (s : State) (src : Endpoint) (job v : Nat) (lost killed : Bool) : (s.pod src job v lost killed).stores = s.stores := by unfold State.pod; repeat (first | rfl | split)
@[simp] theorem State.pod_accs (s : State) (src : Endpoint) (job v : Nat) (lost killed : Bool) : (s.pod src job v lost killed).accs = s.accs := by unfold State.pod; repeat (first | rfl | split)
@[simp] theorem State.pod_outs (s : State) (src : Endpoint) (job v : Nat) (lost killed : Bool) : (s.pod src job v lost killed).outs = s.outs := by unfold State.pod; repeat (first | rfl | split)
@[simp] theorem State.pod_reqs (s : State) (src : Endpoint) (job v : Nat) (lost killed : Bool) : (s.pod src job v lost killed).reqs = s.reqs := by unfold State.pod; repeat (first | rfl | split)
@[simp] theorem State.pod_routers (s : State) (src : Endpoint) (job v : Nat) (lost killed : Bool) : (s.pod src job v lost killed).routers = s.routers := by unfold State.pod; repeat (first | rfl | split)
@[simp] theorem State.pod_bankfmt (s : State) (src : Endpoint) (job v : Nat) (lost killed : Bool) : (s.pod src job v lost killed).bankfmt = s.bankfmt := by unfold State.pod; repeat (first | rfl | split)
@[simp] theorem State.pod_saved (s : State) (src : Endpoint) (job v : Nat) (lost killed : Bool) : (s.pod src job v lost killed).saved = s.saved := by unfold State.pod; repeat (first | rfl | split)
@[simp] theorem State.pod_futures (s : State) (src : Endpoint) (job v : Nat) (lost killed : Bool) : (s.pod src job v lost killed).futures = s.futures := by unfold State.pod; repeat (first | rfl | split)
@[simp] theorem State.pod_localMem (s : State) (src : Endpoint) (job v : Nat) (lost killed : Bool) : (s.pod src job v lost killed).localMem = s.localMem := by unfold State.pod; repeat (first | rfl | split)
@[simp] theorem State.pod_scratch (s : State) (src : Endpoint) (job v : Nat) (lost killed : Bool) : (s.pod src job v lost killed).scratch = s.scratch := by unfold State.pod; repeat (first | rfl | split)
@[simp] theorem State.pod_codeMem (s : State) (src : Endpoint) (job v : Nat) (lost killed : Bool) : (s.pod src job v lost killed).codeMem = s.codeMem := by unfold State.pod; repeat (first | rfl | split)
@[simp] theorem State.pod_hbm (s : State) (src : Endpoint) (job v : Nat) (lost killed : Bool) : (s.pod src job v lost killed).hbm = s.hbm := by unfold State.pod; repeat (first | rfl | split)
@[simp] theorem State.pod_hostMem (s : State) (src : Endpoint) (job v : Nat) (lost killed : Bool) : (s.pod src job v lost killed).hostMem = s.hostMem := by unfold State.pod; repeat (first | rfl | split)
@[simp] theorem State.pod_writes (s : State) (src : Endpoint) (job v : Nat) (lost killed : Bool) : (s.pod src job v lost killed).writes = s.writes := by unfold State.pod; repeat (first | rfl | split)
@[simp] theorem State.pod_fences (s : State) (src : Endpoint) (job v : Nat) (lost killed : Bool) : (s.pod src job v lost killed).fences = s.fences := by unfold State.pod; repeat (first | rfl | split)
@[simp] theorem State.pod_gains (s : State) (src : Endpoint) (job v : Nat) (lost killed : Bool) : (s.pod src job v lost killed).gains = s.gains := by unfold State.pod; repeat (first | rfl | split)
@[simp] theorem State.pod_eccLocal (s : State) (src : Endpoint) (job v : Nat) (lost killed : Bool) : (s.pod src job v lost killed).eccLocal = s.eccLocal := by unfold State.pod; repeat (first | rfl | split)
@[simp] theorem State.pod_eccScratch (s : State) (src : Endpoint) (job v : Nat) (lost killed : Bool) : (s.pod src job v lost killed).eccScratch = s.eccScratch := by unfold State.pod; repeat (first | rfl | split)
@[simp] theorem State.pod_eccCode (s : State) (src : Endpoint) (job v : Nat) (lost killed : Bool) : (s.pod src job v lost killed).eccCode = s.eccCode := by unfold State.pod; repeat (first | rfl | split)
@[simp] theorem State.pod_stationTlb (s : State) (src : Endpoint) (job v : Nat) (lost killed : Bool) : (s.pod src job v lost killed).stationTlb = s.stationTlb := by unfold State.pod; repeat (first | rfl | split)
@[simp] theorem State.pod_dieTlb (s : State) (src : Endpoint) (job v : Nat) (lost killed : Bool) : (s.pod src job v lost killed).dieTlb = s.dieTlb := by unfold State.pod; repeat (first | rfl | split)
@[simp] theorem State.pod_walks (s : State) (src : Endpoint) (job v : Nat) (lost killed : Bool) : (s.pod src job v lost killed).walks = s.walks := by unfold State.pod; repeat (first | rfl | split)
@[simp] theorem State.pod_services (s : State) (src : Endpoint) (job v : Nat) (lost killed : Bool) : (s.pod src job v lost killed).services = s.services := by unfold State.pod; repeat (first | rfl | split)
@[simp] theorem State.pod_moves (s : State) (src : Endpoint) (job v : Nat) (lost killed : Bool) : (s.pod src job v lost killed).moves = s.moves := by unfold State.pod; repeat (first | rfl | split)
@[simp] theorem State.pod_counts (s : State) (src : Endpoint) (job v : Nat) (lost killed : Bool) : (s.pod src job v lost killed).counts = s.counts := by unfold State.pod; repeat (first | rfl | split)
@[simp] theorem State.pod_pools (s : State) (src : Endpoint) (job v : Nat) (lost killed : Bool) : (s.pod src job v lost killed).pools = s.pools := by unfold State.pod; repeat (first | rfl | split)
@[simp] theorem State.pod_fwdCredits (s : State) (src : Endpoint) (job v : Nat) (lost killed : Bool) : (s.pod src job v lost killed).fwdCredits = s.fwdCredits := by unfold State.pod; repeat (first | rfl | split)
@[simp] theorem State.pod_btes (s : State) (src : Endpoint) (job v : Nat) (lost killed : Bool) : (s.pod src job v lost killed).btes = s.btes := by unfold State.pod; repeat (first | rfl | split)
@[simp] theorem State.pod_sqes (s : State) (src : Endpoint) (job v : Nat) (lost killed : Bool) : (s.pod src job v lost killed).sqes = s.sqes := by unfold State.pod; repeat (first | rfl | split)
@[simp] theorem State.pod_nvme (s : State) (src : Endpoint) (job v : Nat) (lost killed : Bool) : (s.pod src job v lost killed).nvme = s.nvme := by unfold State.pod; repeat (first | rfl | split)
@[simp] theorem State.pod_queues (s : State) (src : Endpoint) (job v : Nat) (lost killed : Bool) : (s.pod src job v lost killed).queues = s.queues := by unfold State.pod; repeat (first | rfl | split)
@[simp] theorem State.pod_deviceQ (s : State) (src : Endpoint) (job v : Nat) (lost killed : Bool) : (s.pod src job v lost killed).deviceQ = s.deviceQ := by unfold State.pod; repeat (first | rfl | split)
@[simp] theorem State.pod_waiting (s : State) (src : Endpoint) (job v : Nat) (lost killed : Bool) : (s.pod src job v lost killed).waiting = s.waiting := by unfold State.pod; repeat (first | rfl | split)
@[simp] theorem State.pod_loading (s : State) (src : Endpoint) (job v : Nat) (lost killed : Bool) : (s.pod src job v lost killed).loading = s.loading := by unfold State.pod; repeat (first | rfl | split)
@[simp] theorem State.pod_restores (s : State) (src : Endpoint) (job v : Nat) (lost killed : Bool) : (s.pod src job v lost killed).restores = s.restores := by unfold State.pod; repeat (first | rfl | split)
@[simp] theorem State.pod_rrQueue (s : State) (src : Endpoint) (job v : Nat) (lost killed : Bool) : (s.pod src job v lost killed).rrQueue = s.rrQueue := by unfold State.pod; repeat (first | rfl | split)
@[simp] theorem State.pod_chains (s : State) (src : Endpoint) (job v : Nat) (lost killed : Bool) : (s.pod src job v lost killed).chains = s.chains := by unfold State.pod; repeat (first | rfl | split)
@[simp] theorem State.pod_digests (s : State) (src : Endpoint) (job v : Nat) (lost killed : Bool) : (s.pod src job v lost killed).digests = s.digests := by unfold State.pod; repeat (first | rfl | split)
@[simp] theorem State.pod_tlbJob (s : State) (src : Endpoint) (job v : Nat) (lost killed : Bool) : (s.pod src job v lost killed).tlbJob = s.tlbJob := by unfold State.pod; repeat (first | rfl | split)
@[simp] theorem State.pod_tlbAll (s : State) (src : Endpoint) (job v : Nat) (lost killed : Bool) : (s.pod src job v lost killed).tlbAll = s.tlbAll := by unfold State.pod; repeat (first | rfl | split)
@[simp] theorem State.pod_tlbVa (s : State) (src : Endpoint) (job v : Nat) (lost killed : Bool) : (s.pod src job v lost killed).tlbVa = s.tlbVa := by unfold State.pod; repeat (first | rfl | split)
@[simp] theorem State.pod_tlbBusy (s : State) (src : Endpoint) (job v : Nat) (lost killed : Bool) : (s.pod src job v lost killed).tlbBusy = s.tlbBusy := by unfold State.pod; repeat (first | rfl | split)
@[simp] theorem State.pod_devid (s : State) (src : Endpoint) (job v : Nat) (lost killed : Bool) : (s.pod src job v lost killed).devid = s.devid := by unfold State.pod; repeat (first | rfl | split)
@[simp] theorem State.pod_ports (s : State) (src : Endpoint) (job v : Nat) (lost killed : Bool) : (s.pod src job v lost killed).ports = s.ports := by unfold State.pod; repeat (first | rfl | split)
@[simp] theorem State.pod_routes (s : State) (src : Endpoint) (job v : Nat) (lost killed : Bool) : (s.pod src job v lost killed).routes = s.routes := by unfold State.pod; repeat (first | rfl | split)
@[simp] theorem State.pod_fabOut (s : State) (src : Endpoint) (job v : Nat) (lost killed : Bool) : (s.pod src job v lost killed).fabOut = s.fabOut := by unfold State.pod; repeat (first | rfl | split)
@[simp] theorem State.pod_fabWait (s : State) (src : Endpoint) (job v : Nat) (lost killed : Bool) : (s.pod src job v lost killed).fabWait = s.fabWait := by unfold State.pod; repeat (first | rfl | split)
@[simp] theorem State.pod_jobTags (s : State) (src : Endpoint) (job v : Nat) (lost killed : Bool) : (s.pod src job v lost killed).jobTags = s.jobTags := by unfold State.pod; repeat (first | rfl | split)
@[simp] theorem State.pod_privvf (s : State) (src : Endpoint) (job v : Nat) (lost killed : Bool) : (s.pod src job v lost killed).privvf = s.privvf := by unfold State.pod; repeat (first | rfl | split)
@[simp] theorem State.pod_hostFut (s : State) (src : Endpoint) (job v : Nat) (lost killed : Bool) : (s.pod src job v lost killed).hostFut = s.hostFut := by unfold State.pod; repeat (first | rfl | split)
@[simp] theorem State.pod_hostKnow (s : State) (src : Endpoint) (job v : Nat) (lost killed : Bool) : (s.pod src job v lost killed).hostKnow = s.hostKnow := by unfold State.pod; repeat (first | rfl | split)
@[simp] theorem State.pod_winbase (s : State) (src : Endpoint) (job v : Nat) (lost killed : Bool) : (s.pod src job v lost killed).winbase = s.winbase := by unfold State.pod; repeat (first | rfl | split)
@[simp] theorem State.pod_winbaseOld (s : State) (src : Endpoint) (job v : Nat) (lost killed : Bool) : (s.pod src job v lost killed).winbaseOld = s.winbaseOld := by unfold State.pod; repeat (first | rfl | split)
@[simp] theorem State.pod_winRead (s : State) (src : Endpoint) (job v : Nat) (lost killed : Bool) : (s.pod src job v lost killed).winRead = s.winRead := by unfold State.pod; repeat (first | rfl | split)
@[simp] theorem State.pod_msix (s : State) (src : Endpoint) (job v : Nat) (lost killed : Bool) : (s.pod src job v lost killed).msix = s.msix := by unfold State.pod; repeat (first | rfl | split)
@[simp] theorem State.pod_melbex (s : State) (src : Endpoint) (job v : Nat) (lost killed : Bool) : (s.pod src job v lost killed).melbex = s.melbex := by unfold State.pod; repeat (first | rfl | split)
@[simp] theorem State.pod_trace (s : State) (src : Endpoint) (job v : Nat) (lost killed : Bool) : (s.pod src job v lost killed).trace = s.trace := by unfold State.pod; repeat (first | rfl | split)
@[simp] theorem State.pod_log (s : State) (src : Endpoint) (job v : Nat) (lost killed : Bool) : (s.pod src job v lost killed).log = s.log := by unfold State.pod; repeat (first | rfl | split)
@[simp] theorem State.pod_budget (s : State) (src : Endpoint) (job v : Nat) (lost killed : Bool) : (s.pod src job v lost killed).budget = s.budget := by unfold State.pod; repeat (first | rfl | split)
@[simp] theorem State.pod_dutyCap (s : State) (src : Endpoint) (job v : Nat) (lost killed : Bool) : (s.pod src job v lost killed).dutyCap = s.dutyCap := by unfold State.pod; repeat (first | rfl | split)
@[simp] theorem State.pod_halted (s : State) (src : Endpoint) (job v : Nat) (lost killed : Bool) : (s.pod src job v lost killed).halted = s.halted := by unfold State.pod; repeat (first | rfl | split)
@[simp] theorem State.pod_inReset (s : State) (src : Endpoint) (job v : Nat) (lost killed : Bool) : (s.pod src job v lost killed).inReset = s.inReset := by unfold State.pod; repeat (first | rfl | split)
@[simp] theorem State.pod_link (s : State) (src : Endpoint) (job v : Nat) (lost killed : Bool) : (s.pod src job v lost killed).link = s.link := by unfold State.pod; repeat (first | rfl | split)
@[simp] theorem State.pod_ckpt (s : State) (src : Endpoint) (job v : Nat) (lost killed : Bool) : (s.pod src job v lost killed).ckpt = s.ckpt := by unfold State.pod; repeat (first | rfl | split)
@[simp] theorem State.pod_peerDigests (s : State) (src : Endpoint) (job v : Nat) (lost killed : Bool) : (s.pod src job v lost killed).peerDigests = s.peerDigests := by unfold State.pod; repeat (first | rfl | split)

@[simp] theorem State.setMe_ctxs (s : State) (c : Ctx) : (s.setMe c).ctxs = s.ctxs.set s.cur c := rfl
@[simp] theorem State.setJob_jobs (s : State) (n : Nat) (j : Job) : (s.setJob n j).jobs = s.jobs.set n j := rfl
@[simp] theorem State.updCore_cores (s : State) (n : Nat) (f : Core → Core) : (s.updCore n f).cores = s.cores.set n (f (s.core n)) := rfl
@[simp] theorem State.updTile_tiles (s : State) (n : Nat) (f : Tile → Tile) : (s.updTile n f).tiles = s.tiles.set n (f (s.tile n)) := rfl
@[simp] theorem State.dropReq_reqs (s : State) (n : Nat) : (s.dropReq n).reqs = s.reqs.filter (fun r => r.id != n) := rfl
@[simp] theorem State.dropOut_outs (s : State) (n : Nat) : (s.dropOut n).outs = s.outs.filter (fun o => o.id != n) := rfl
@[simp] theorem State.dropPacket_packets (s : State) (n : Nat) : (s.dropPacket n).packets = s.packets.filter (fun p => p.id != n) := rfl

end Sys2Proof.Machine
end

