-- ==== Sys2Proof/Tests/Slice0.lean ====
section
/-! SUPPORT. Tests of the model: ill-formed terms, words written out from the encodings of the spec, single steps with results worked
out by hand from the spec, and for every statement a state and operands that meet its hypotheses. -/

namespace Sys2Proof.Tests

open Sys2Proof.Machine Sys2Proof.Safety

set_option Elab.async false

/-! ## A small state: the task of job 0 in hc0 of core 0 of tile 0, at code address 0 -/

/-- A mark with no gap and no switch. -/
def mk : Mark := ⟨0, false⟩

/-- Its job, with a routine at address 0 for every class. -/
def job0 : Job := { sampleJob with rtab := List.replicate 256 (0x8000000000000000, 0) }

/-- One task with 64 units is about to issue. -/
def base : State := { placeWord State.reset 32 1 with turns := [], cur := 0, jobs := Map.set [] 0 job0 }

/-- It, with a change to its context. -/
def base.on (f : Ctx → Ctx) : State := base.setMe (f base.me)

/-- It, with a change to its job. -/
def base.job (f : Job → Job) : State := { base with jobs := base.jobs.set 0 (f job0) }

/-- It, with values in s-registers. -/
def base.regs (l : List (Fin 32 × Word)) : State := base.on (fun c => { c with s := l.foldl (fun v e => v.set e.1 e.2) c.s })

/-- What an s-register holds long after an instruction. -/
def result (i : Instr) (s : State) (n : Fin 32) : Option Word :=
  match exec i s with
  | .next t => some (present { t with clk := t.clk + 64 } 0).me.s[n]
  | _ => none

/-- Something about the next state of an instruction. -/
def next {α : Type} (i : Instr) (s : State) (f : State → α) : Option α :=
  match exec i s with
  | .next t => some (f t)
  | _ => none

/-- An instruction with no prefix and no loop about it (R71, R104). -/
theorem plain_of (s : State) (len : Nat) (h : s.me.limm = [] ∧ s.me.loops = []) : Plain s len :=
  ⟨h.1, fun t ht => by simp [h.2] at ht⟩

/-- No loop ends inside it (R104). -/
theorem fits_of (s : State) (len : Nat) (h : s.me.loops = []) : Fits s len := fun t ht => by simp [h] at ht

/-! ## Terms that are no instruction -/

theorem test_bad_load_sign : ¬WellFormed (.ldl (.s 1) (.s 2) 0 .d true false mk) := by decide
theorem test_bad_tile_load_sign : ¬WellFormed (.ldt (.s 1) (.s 2) 0 .d true false mk) := by decide
theorem test_bad_loop_empty : ¬WellFormed (.loop (.s 1) 0 mk) := by decide
theorem test_bad_loop_long : ¬WellFormed (.loop (.s 1) 512 mk) := by decide
theorem test_good_loop : WellFormed (.loop (.s 1) 511 mk) := by decide
theorem test_bad_fence_before : ¬WellFormed (.fence .full .core 1 0 mk) := by decide
theorem test_bad_fence_after : ¬WellFormed (.fence .full .core 0 1 mk) := by decide
theorem test_bad_shift_type : ¬WellFormed (.vshl 0 1 2 .f32 0 mk) := by decide
theorem test_bad_dot_type : ¬WellFormed (.vdot 0 1 2 .i32 0 mk) := by decide
theorem test_bad_gather_type : ¬WellFormed (.vldxT 0 1 2 .i8 0 mk) := by decide
theorem test_bad_sfu_type : ¬WellFormed (.vrcp 0 1 .nf8 0 mk) := by decide
theorem test_bad_cvt_same : ¬WellFormed (.vcvtSame 0 1 .i8 .i8 0 mk) := by decide
theorem test_bad_cvt_widen2 : ¬WellFormed (.vcvtWiden2 0 1 .i4 .bf16 0 mk) := by decide
theorem test_bad_cvt_widen4 : ¬WellFormed (.vcvtWiden4 0 1 .i16 .i32 0 mk) := by decide
theorem test_bad_cvt_narrow : ¬WellFormed (.vcvtNarrow 0 1 .i8 .i16 0 mk) := by decide
theorem test_bad_saturating_type : ¬WellFormed (.vaddsat 0 1 2 .bf16 0 mk) := by decide

/-! ## Words of the spec's worked programs, and words written out from the encodings (chapter 4) -/

/-- A word and what it stands for. -/
def reads (n w : Nat) (i : Instr) : Bool := decide (decodeTableWord n w = some i)

-- chapter 4, Reading a stream of parcels
theorem test_words_chapter_4 :
    reads 32 0x000123F1 (.limm 0x48) ∧ reads 32 0xD1441031 (.addi (.s 4) (.s 4) 0x345 mk)
    ∧ reads 16 0x9288 (.compactAdd 5 9 false) ∧ reads 32 0x00811401 (.aluAdd (.s 5) (.s 1) (.s 2) mk)
    ∧ reads 32 0xB1030819 (.alu2Mul (.s 2) (.s 3) (.s 4) ⟨2, false⟩) ∧ reads 32 0x00871973 (.ldt (.s 6) (.s 7) 0 .w false false ⟨0, true⟩)
    ∧ decodeTableWord 16 0xD144 = none := by decide +kernel
-- chapters 5 and 6, the two listings
theorem test_words_chapters_5_6 :
    reads 32 0x08600401 (.aluAdd (.s 1) (.m 0) (.m 1) mk) ∧ reads 32 0x00400891 (.movi (.s 2) 0x40 mk) ∧ reads 16 0x20A4 (.compactStlD 1 2 false)
    ∧ reads 16 0x0030 (.compactEnd false) ∧ reads 32 0x01010141 (.loop (.s 1) 4 mk) ∧ reads 16 0x01A0 (.compactLdlD 3 0 false)
    ∧ reads 32 0x02000035 (.addi (.s 0) (.s 0) 8 ⟨1, false⟩) ∧ reads 16 0x3108 (.compactAdd 2 3 false) := by decide +kernel
-- chapters 7, 12 and 16; the vtpack word stands here as R63 and R72 give it (log 44)
theorem test_words_vector :
    reads 32 0x40000A91 (.vtunp 2 0 mk) ∧ reads 32 0x40109A13 (.vcvtWiden2 6 1 .i8 .i16 0 ⟨0, true⟩) ∧ reads 32 0x803006B1 (.kset 1 0 3 mk)
    ∧ reads 32 0x12021223 (.vredsum 4 4 .i16 1 ⟨0, true⟩) ∧ reads 32 0x481001C3 (.vmax 0 0 1 .f32 0 ⟨0, true⟩)
    ∧ reads 32 0x18010251 (.vstT 0 2 .f32 1 mk) ∧ reads 32 0x88600693 (.vtqnt 1 0 6 0 ⟨0, true⟩) ∧ reads 32 0x04038653 (.vstT 1 7 .i32 0 ⟨0, true⟩)
    ∧ reads 32 0x00010E91 (.vtpack 3 2 mk) ∧ reads 32 0x52018251 (.vstL 0 3 .i16 1 mk) := by decide +kernel
-- chapters 11, 12 and 14 to 16
theorem test_words_blocks_and_fences :
    reads 16 0x0438 (.compactSendHalf 8 false) ∧ reads 32 0x218C0301 (.grd (.s 12) (.s 6) true false mk)
    ∧ reads 32 0x02C40F21 (.gst (.s 3) (.s 4) 0 .d true mk) ∧ reads 32 0x21D002E1 (.sendDraw (.s 16) (.s 7) false mk)
    ∧ reads 32 0x01881751 (.tmm (.s 5) (.s 8) (.s 6) mk) ∧ reads 32 0x10020F55 (.tstat (.s 3) (.s 2) ⟨1, false⟩)
    ∧ reads 32 0x0C200F91 (.fence .release .device 16 3 mk) ∧ reads 32 0x04040791 (.fence .acquire .device 2 1 mk)
    ∧ reads 32 0x1E880371 (.nrdef (.s 8) .wt mk) ∧ reads 32 0x0E800371 (.nred (.s 0) .wt mk) ∧ reads 32 0x1E880311 (.gwr (.s 8) .wt false true mk) := by
  decide +kernel
-- chapters 15, 22, 26 and 27
theorem test_words_control_and_weight :
    reads 32 0x047880C1 (.bne (.m 0) .z 17 mk) ∧ reads 32 0x02A0ECB1 (.beq .self (.m 0) 10 mk) ∧ reads 32 0x2E020421 (.alu3Sel (.s 1) (.s 2) .z mk)
    ∧ reads 16 0x1410 (.compactAddi 8 1 false) ∧ reads 32 0x200602F1 (.wgtWret (.s 6) mk) ∧ reads 32 0x307B02F1 (.wgtQarm .self (.s 1) mk)
    ∧ reads 32 0x3E8802E1 (.sendRop (.s 8) .wt false mk) ∧ reads 32 0x00A00871 (.shiShl (.s 2) (.m 0) 2 mk)
    ∧ reads 32 0x0D821159 (.ldl (.s 4) (.s 2) 3 .w true false ⟨2, false⟩) ∧ reads 32 0x08C10D61 (.stl (.s 3) (.s 1) 2 .d false mk)
    ∧ reads 32 0x033808D1 (.blt (.s 2) .z 12 mk) ∧ reads 32 0x00001111 (.jmp 4 mk) ∧ reads 32 0x0E060011 (.alu2Seq (.s 0) (.s 6) .z mk)
    ∧ reads 32 0x00030981 (.stt (.s 2) (.s 3) 0 .b false mk) := by decide +kernel
-- F B A D MAJ G S L
theorem test_words_written_out :
    -- near.chase s4, wt
    reads 32 0b01011110100001000000001100110001 (.nearChase (.s 4) .wt mk)
    -- cpy.walk s3, s8, s6
    ∧ reads 32 0b00010001100010000000111101000001 (.cpyWalk (.s 3) (.s 8) (.s 6) mk)
    -- trg.alloc s7
    ∧ reads 32 0b01000000000000000001111101100001 (.trgAlloc (.s 7) mk)
    -- fut.fpeek s8, wt
    ∧ reads 32 0b01001110100010000000001110000001 (.fpeek (.s 8) .wt mk)
    -- launch s8, s5
    ∧ reads 32 0b00000001010010000000001110100001 (.launch (.s 8) (.s 5) mk)
    -- sys.mts s1, s2
    ∧ reads 32 0b00010000100000010000001110110001 (.sysMts (.s 1) (.s 2) mk)
    -- spref s1, s2
    ∧ reads 32 0b00000000100000010000001111000001 (.spref (.s 1) (.s 2) mk)
    -- xchg s5, s8, s6
    ∧ reads 32 0b00000001100010000001011011010001 (.xchg (.s 5) (.s 8) (.s 6) mk)
    -- ffma s1, s2, s3
    ∧ reads 32 0b00000000110000100000010110100001 (.ffma (.s 1) (.s 2) (.s 3) mk)
    -- ctl.trap clk
    ∧ reads 32 0b01000000001111010000000100110001 (.ctlTrap .clk mk)
    -- fp.fclass h, d1
    ∧ reads 32 0b11110000001100001110010110010001 (.fpFclass .h (.d 0) mk) := by decide +kernel
-- F K T VB VA VD MAJ G S L
theorem test_vector_words_written_out :
    -- vtanh.f16 v1, v2 under k3
    reads 32 0b10111100000000010000011001110001 (.vtanh 1 2 .f16 3 mk)
    -- vld.l v5 at s6
    ∧ reads 32 0b01000000000000110001011001000001 (.vldL 5 6 .i8 0 mk)
    -- vclt.nf8 k2, v3, v4
    ∧ reads 32 0b01001110010000011000100111110001 (.vclt 2 3 4 .nf8 0 mk)
    -- vrot.i4 v1, v2, v3
    ∧ reads 32 0b11000110001100010000010111100001 (.vrot 1 2 3 .i4 0 mk)
    -- vandn v31, v30, v29
    ∧ reads 32 0b11000001110111110111110111010001 (.vandn 31 30 29 .i8 0 mk)
    -- vbcast.bf16 v1, s2
    ∧ reads 32 0b10001010000000010000011000000001 (.vbcast 1 2 .bf16 0 mk)
    -- vslide.i16 v1, v2 by s3
    ∧ reads 32 0b01000010001100010000011000110001 (.vslide 1 2 3 .i16 0 mk)
    -- vrcpr v1, v2, v3
    ∧ reads 32 0b00001000001100010000011010000001 (.vrcpr 1 2 3 0 mk)
    -- knot k1, k2
    ∧ reads 32 0b11000000000000010000011010100001 (.knot 1 2 mk)
    -- vabsdiff.i32 v1, v2, v3
    ∧ reads 32 0b11000100001100010000011011000001 (.vabsdiff 1 2 3 .i32 0 mk)
    -- vrsq.f32 v4, v5
    ∧ reads 32 0b01001000000000101001001001100001 (.vrsq 4 5 .f32 0 mk) := by decide +kernel

/-! ## Results of the spec's tables and of hand calculation (chapter 6) -/

theorem test_div_by_zero : next (.alu2Div (.s 3) (.s 1) (.s 2) mk) (base.regs [(1, 7), (2, 0)]) (fun t => t.ops.map (·.kind))
    = some [.divide 0xFFFFFFFFFFFFFFFF 8] := by decide +kernel
theorem test_rem_negative : next (.alu3Rem (.s 3) (.s 1) (.s 2) mk) (base.regs [(1, -7), (2, 2)]) (fun t => t.ops.map (·.kind))
    = some [.divide (-1) 0] := by decide +kernel
theorem test_div_overflow : next (.alu2Div (.s 3) (.s 1) (.s 2) mk) (base.regs [(1, 0x8000000000000000), (2, -1)])
    (fun t => t.ops.map (·.kind)) = some [.divide 0x8000000000000000 128] := by decide +kernel
theorem test_divu : next (.alu2Divu (.s 3) (.s 1) (.s 2) mk) (base.regs [(1, 0xFFFFFFFFFFFFFFF9), (2, 2)]) (fun t => t.ops.map (·.kind))
    = some [.divide 0x7FFFFFFFFFFFFFFC 0] := by decide +kernel
theorem test_shl : result (.aluShl (.s 3) (.s 1) (.s 2) mk) (base.regs [(1, 1), (2, 65)]) 3 = some 2 := by decide +kernel
theorem test_clz : result (.alu2Clz (.s 3) (.s 1) mk) base 3 = some 64 := by decide +kernel
theorem test_mulh : result (.alu2Mulh (.s 3) (.s 1) (.s 2) mk) (base.regs [(1, -1), (2, 1)]) 3 = some 0xFFFFFFFFFFFFFFFF := by
  decide +kernel
theorem test_mulhu : result (.alu2Mulhu (.s 3) (.s 1) (.s 2) mk) (base.regs [(1, 0xFFFFFFFFFFFFFFFF), (2, 2)]) 3 = some 1 := by
  decide +kernel
theorem test_addsat : (let s := base.regs [(1, 0x7FFFFFFFFFFFFFFF), (2, 1)]; let i := Instr.alu3Addsat (.s 3) (.s 1) (.s 2) mk
    (result i s 3, next i s (fun t => t.me.fflags))) = (some 0x7FFFFFFFFFFFFFFF, some 128) := by decide +kernel
theorem test_absdiff : result (.alu3Absdiff (.s 3) (.s 1) (.s 2) mk) (base.regs [(1, 0x8000000000000000), (2, 0x7FFFFFFFFFFFFFFF)]) 3
    = some 0xFFFFFFFFFFFFFFFF := by decide +kernel
theorem test_bext : result (.alu3Bext (.s 3) (.s 1) (.s 2) mk) (base.regs [(1, 0xABCD), (2, 0x1C4)]) 3 = some 0xBC := by decide +kernel
theorem test_bins : result (.alu3Bins (.s 3) (.s 1) (.s 2) mk) (base.regs [(3, 0xFFFF), (1, 0), (2, 0x1C4)]) 3 = some 0xF00F := by
  decide +kernel
theorem test_add_wraps : result (.aluAdd (.s 1) (.s 1) (.s 2) mk) (base.regs [(1, -1), (2, 1)]) 1 = some 0 := by decide +kernel
theorem test_sra : result (.aluSra (.s 3) (.s 1) (.s 2) mk) (base.regs [(1, 0x8000000000000000), (2, 63)]) 3 = some (-1) := by
  decide +kernel
theorem test_slt_signs : result (.aluSlt (.s 3) (.s 1) (.s 2) mk) (base.regs [(1, -1), (2, 0)]) 3 = some 1 := by decide +kernel
theorem test_sltu_signs : result (.aluSltu (.s 3) (.s 1) (.s 2) mk) (base.regs [(1, -1), (2, 0)]) 3 = some 0 := by decide +kernel
-- R69: 0x48 above 0x345 is 0x1_2345
theorem test_addi_extended : result (.addi (.s 4) (.s 4) 0x345 mk) ((base.regs [(4, 1)]).setMe
    { (base.regs [(4, 1)]).me with limm := [0x48] }) 4 = some 0x12346 := by decide +kernel
-- 1.0 + 1.0 and 3.0 × −0.5 as FP32
theorem test_fadd : result (.fpFadd (.s 3) (.s 1) (.s 1) mk) (base.regs [(1, 0x3F800000)]) 3 = some 0x40000000 := by decide +kernel
theorem test_fmul : result (.fpFmul (.s 3) (.s 1) (.s 2) mk) (base.regs [(1, 0x40400000), (2, 0xBF000000)]) 3 = some 0xBFC00000 := by
  decide +kernel
-- the branch goes to its own address less four bytes
theorem test_beq_taken : next (.beq .z .z 1022 mk) (base.on (fun c => { c with pc := 8 })) (fun t => t.me.pc) = some 4 := by decide +kernel
theorem test_call_link : result (.call 8 mk) (base.on (fun c => { c with pc := 8 })) 31 = some 12 := by decide +kernel
-- a store and a load of the low byte, signed
theorem test_store_then_load : (match exec (.stl (.s 1) .z 0 .h false mk) (base.regs [(1, 0x1F280)]) with
    | .next t => result (.ldl (.s 2) .z 0 .b true false mk) t 2
    | _ => none) = some 0xFFFFFFFFFFFFFF80 := by decide +kernel
theorem test_wget : result (.wgtWget (.s 1) mk) base 1 = some 64 := by decide +kernel

/-! ## Steps and traps -/

theorem test_step_runs_word : (match step (State.reset.withFetchWord 32 0x0040_0891) with
    | .next t => some (t.me.s[2], t.me.pc)
    | _ => none) = some (0x40, 4) := by decide +kernel
theorem test_step_runs_compact : (match step (State.reset.withFetchWord 16 0x9410) with
    | .next t => some (t.me.s[8], t.me.pc)
    | _ => none) = some (-7, 2) := by decide +kernel
theorem test_step_traps : (match step (State.reset.withFetchWord 16 0) with
    | .next t => some (t.ctxs.get? 0 == none, t.packets.map (·.body))
    | _ => none) = some (true, [.pod 0 64 false true]) := by decide +kernel

/-! ## States that meet the hypotheses of the statements -/

/-- The issuing context has no prefix, no loop and no soft error. -/
def Calm (s : State) : Prop := s.me.limm = [] ∧ s.me.loops = [] ∧ s.me.ecc = []

theorem Calm.plain {s : State} (h : Calm s) (len : Nat) : Plain s len := plain_of s len ⟨h.1, h.2.1⟩
theorem Calm.fits {s : State} (h : Calm s) (len : Nat) : Fits s len := fits_of s len h.2.1
theorem Calm.clean {s : State} (h : Calm s) (n : Name) : Clean s n := by simp [Clean, h.2.2]
theorem Calm.sound {s : State} (h : Calm s) (n : Name) (r : readable n = true) : Sound s n := ⟨r, h.clean n⟩
theorem Calm.mask {s : State} (h : Calm s) (n : Nat) : CleanMask s n := by simp [CleanMask, h.2.2]
theorem Calm.block {s : State} (h : Calm s) (r : Fin 32) (n : Nat) (le : r.val + n ≤ 32) :
    BlockIs s (.s r) n (blockWords s 40 r.val n) := ⟨r, rfl, le, rfl, fun i _ => by simp [h.2.2]⟩
theorem Calm.of {s : State} (h : Calm s) (t : State) (c : t.ctxs = s.ctxs) (k : t.cur = s.cur) : Calm t := by
  simpa [Calm, State.me, c, k] using h
theorem calm_base : Calm base := by unfold Calm; decide +kernel

/-- A message, a kept message, a request, an operation, an access and a packet with nothing special about them. -/
def msg0 : Msg := { (default : Msg) with hdr := 0x0000000500010000 }
def out0 : OutMsg := { (default : OutMsg) with id := 7, msg := msg0, src := .ni 0 }
def req0 : Req := { (default : Req) with id := 9, kind := .wloss, v := 5, left := 1 }
def op0 : Op := ⟨11, 0, 1, .divide 5 8, 0, 0, 0, 0, 0, 0, [], [], [.s 3 0], false, 0, 0, 0, [], [], 0, false, 0, [], 0, [], 0, (0, 0), [], []⟩
def access0 : Access := { (default : Access) with req := 9, task := 1, pa := noPa }
def pkt0 : Packet := { (default : Packet) with id := 21, pos := .dest, ready := 0, hdrEcc := 0, body := .message 7 }

/-- The small state with an operation of its task outstanding, in clk 20. -/
def base.op (o : Op) : State := { base.on (fun c => { c with outs := [o.id] }) with ops := [o], clk := 20 }

theorem wit_TwoSourceResults : ∃ (s : State) (a b d : Name), Plain s 4 ∧ Sound s a ∧ Sound s b ∧ writable d = true :=
  ⟨base, .wt, .d 7, .h, calm_base.plain 4, calm_base.sound _ rfl, calm_base.sound _ rfl, rfl⟩

theorem wit_OneSourceResults : ∃ (s : State) (a d : Name), Plain s 4 ∧ Sound s a ∧ writable d = true :=
  ⟨base, .m 15, .z, calm_base.plain 4, calm_base.sound _ rfl, rfl⟩

theorem wit_DestinationReadResults : ∃ (s : State) (a b d : Name), Plain s 4 ∧ Sound s a ∧ Sound s b ∧ updatable d = true ∧ Clean s d
    ∧ writable d = true :=
  ⟨base, .s 31, .d 0, .s 31, calm_base.plain 4, calm_base.sound _ rfl, calm_base.sound _ rfl, rfl, calm_base.clean _, rfl⟩

theorem wit_DivisionResults :
    (∃ (s : State) (a b d : Name), Plain s 4 ∧ Sound s a ∧ Sound s b ∧ writable d = true)
    ∧ (∃ (s : State) (o : Op) (v : Word) (f : Nat) (c : Ctx) (r : Fin 32) (h : Fin 8), s.op? o.id = some o ∧ o.kind = .divide v f
      ∧ o.issued < s.clk ∧ o.keeps = [] ∧ o.tgts = [.s r h] ∧ s.ctxs.get? o.ctx = some c ∧ (∀ p ∈ c.pend, p.op ≠ 0) ∧ c.task = o.task
      ∧ c.dying = false ∧ c.parked = false ∧ c.ending = false)
    ∧ (∀ g ∈ [[Target.h 0], []], ∃ (s : State) (o : Op) (c : Ctx), s.op? o.id = some o ∧ o.kind = .divide 5 8 ∧ o.issued < s.clk
      ∧ o.keeps = [] ∧ o.tgts = g ∧ s.ctxs.get? o.ctx = some c ∧ (∀ p ∈ c.pend, p.op ≠ 0) ∧ c.task = o.task ∧ c.dying = false
      ∧ c.parked = false ∧ c.ending = false) :=
  ⟨⟨base, .self, .clk, .s 0, calm_base.plain 4, calm_base.sound _ rfl, calm_base.sound _ rfl, rfl⟩,
    ⟨base.op op0, op0, 5, 8, (base.op op0).me, 3, 0, by decide +kernel⟩,
    fun g h => ⟨base.op { op0 with tgts := g }, { op0 with tgts := g }, (base.op op0).me, by
      simp only [List.mem_cons, List.not_mem_nil, or_false] at h
      rcases h with rfl | rfl <;> decide +kernel⟩⟩

theorem wit_ScalarFpResults : ∃ (s : State) (a b d : Name), Plain s 4 ∧ Sound s a ∧ writable d = true ∧ Sound s b :=
  ⟨base, .msg, .job, .s 31, calm_base.plain 4, calm_base.sound _ rfl, rfl, calm_base.sound _ rfl⟩

/-- Two prefixes wait. -/
def base.prefixed : State := base.on (fun c => { c with limm := [1, 2] })

theorem wit_ImmediateForms :
    (∃ (s : State) (a d : Name), s.me.limm.length ≤ 2 ∧ s.me.limm ≠ [] ∧ Fits s 4 ∧ writable d = true ∧ Sound s a)
    ∧ (∃ s : State, s.me.limm.length ≤ 2 ∧ Fits s 4 ∧ s.me.limm.length < 2
      ∧ (∀ t, s.me.loops.head? = some t → t.stop ≠ s.me.pc + 2 ∧ t.stop ≠ s.me.pc + 4) ∧ s.me.pc + 4 < 2 ^ 17) := by
  refine ⟨⟨base.prefixed, .s 1, .s 2, by decide +kernel, by decide +kernel, fits_of _ _ (by decide +kernel), rfl, ?_⟩,
    base, by decide +kernel, calm_base.fits 4, by decide +kernel, fun t h => ?_, by decide +kernel⟩
  · unfold Sound Clean; decide +kernel
  · cases (show (none : Option Loop) = some t from h)

/-- The task stands at the last parcel pair of the code space. -/
def base.late : State := base.on (fun c => { c with pc := 0x1FFFC })

theorem wit_BranchesAndTransferTraps :
    (∃ (s : State) (a b : Name) (o : BitVec 10), Plain s 4 ∧ Sound s a ∧ Sound s b ∧ decide (value s 0 a = value s 1 b) = true
      ∧ 0 ≤ (s.me.pc + 2 * o.toInt : Int) ∧ (s.me.pc + 2 * o.toInt : Int) < 0x20000)
    ∧ (∃ (s : State) (a b : Name), Plain s 4 ∧ Sound s a ∧ Sound s b ∧ decide (value s 0 a = value s 1 b) = false)
    ∧ (∃ (s : State) (o : BitVec 22), Plain s 4 ∧ (s.me.pc + 2 * o.toInt : Int) < 0)
    ∧ (∃ (s : State) (a b : Name) (o : BitVec 10), Plain s 4 ∧ Sound s a ∧ Sound s b ∧ decide (value s 0 a = value s 1 b) = true
      ∧ (0x20000 : Int) ≤ s.me.pc + 2 * o.toInt)
    ∧ (∃ (s : State) (a : Name), Plain s 4 ∧ Sound s a ∧ (value s 0 a).toNat % 2 = 0 ∧ 0x20000 ≤ (value s 0 a).toNat)
    ∧ (∃ (s : State) (a : Name), Plain s 4 ∧ Sound s a ∧ (value s 0 a).toNat % 2 = 1)
    ∧ (∃ s : State, Plain s 4 ∧ Clean s (.s 31) ∧ (value s 0 (.s 31)).toNat % 2 = 0 ∧ 0x20000 ≤ (value s 0 (.s 31)).toNat)
    ∧ (∃ s : State, Plain s 4 ∧ Clean s (.s 31) ∧ (value s 0 (.s 31)).toNat % 2 = 1) := by
  have even : Calm (base.regs [(31, 0x20000)]) := by unfold Calm; decide +kernel
  have odd : Calm (base.regs [(31, 1)]) := by unfold Calm; decide +kernel
  have late : Calm base.late := by unfold Calm; decide +kernel
  have far : Calm (base.regs [(1, 0x20000), (2, 1)]) := by unfold Calm; decide +kernel
  exact ⟨⟨base.late, .z, .z, 1, late.plain 4, late.sound _ rfl, late.sound _ rfl, by decide +kernel⟩,
    ⟨base, .wt, .z, calm_base.plain 4, calm_base.sound _ rfl, calm_base.sound _ rfl, by decide +kernel⟩,
    ⟨base, -1, calm_base.plain 4, by decide +kernel⟩,
    ⟨base.late, .z, .z, 2, late.plain 4, late.sound _ rfl, late.sound _ rfl, by decide +kernel⟩,
    ⟨base.regs [(1, 0x20000), (2, 1)], .s 1, far.plain 4, far.sound _ rfl, by decide +kernel⟩,
    ⟨base.regs [(1, 0x20000), (2, 1)], .s 2, far.plain 4, far.sound _ rfl, by decide +kernel⟩,
    ⟨base.regs [(31, 0x20000)], even.plain 4, even.clean _, by decide +kernel⟩,
    ⟨base.regs [(31, 1)], odd.plain 4, odd.clean _, by decide +kernel⟩⟩

theorem wit_JumpsAndCalls :
    (∃ (s : State) (o : BitVec 22), Plain s 4 ∧ 0 ≤ (s.me.pc + 2 * o.toInt : Int) ∧ (s.me.pc + 2 * o.toInt : Int) < 0x20000)
    ∧ (∃ (s : State) (a : Name), Plain s 4 ∧ Sound s a ∧ (value s 0 a).toNat % 2 = 0 ∧ (value s 0 a).toNat < 0x20000)
    ∧ (∃ s : State, Plain s 4 ∧ Sound s (.s 31) ∧ (value s 0 (.s 31)).toNat % 2 = 0 ∧ (value s 0 (.s 31)).toNat < 0x20000) := by
  have far : Calm (base.regs [(31, 0x1FFFE)]) := by unfold Calm; decide +kernel
  exact ⟨⟨base, 0, calm_base.plain 4, by decide +kernel⟩, ⟨base, .wt, calm_base.plain 4, calm_base.sound _ rfl, by decide +kernel⟩,
    ⟨base.regs [(31, 0x1FFFE)], far.plain 4, far.sound _ rfl, by decide +kernel⟩⟩

theorem wit_ControlFunctions :
    (∃ s : State, Plain s 4 ∧ s.me.startFault = none ∧ s.me.dying = false ∧ s.me.outs = [])
    ∧ (∃ s : State, Plain s 4 ∧ s.me.startFault = none ∧ s.me.dying = false ∧ s.me.outs ≠ [])
    ∧ (∃ (s : State) (a : Name), Plain s 4 ∧ Sound s a ∧ (value s 0 a).toNat = 0)
    ∧ (∃ (s : State) (a : Name), Plain s 4 ∧ Sound s a ∧ (value s 0 a).toNat ≠ 0 ∧ s.me.loops.length < 2)
    ∧ (∃ (s : State) (a : Name), Plain s 4 ∧ Sound s a ∧ (value s 0 a).toNat ≠ 0 ∧ 2 ≤ s.me.loops.length) := by
  have busy : Calm (base.op op0) := by unfold Calm; decide +kernel
  refine ⟨⟨base, calm_base.plain 4, by decide +kernel⟩, ⟨base.op op0, busy.plain 4, by decide +kernel⟩,
    ⟨base, .z, calm_base.plain 4, calm_base.sound _ rfl, by decide +kernel⟩,
    ⟨base, .wt, calm_base.plain 4, calm_base.sound _ rfl, by decide +kernel⟩,
    base.on (fun c => { c with loops := [⟨0, 8, 1⟩, ⟨0, 8, 1⟩] }), .wt, ⟨by decide +kernel, fun t h => ?_⟩, ?_, by decide +kernel⟩
  · rw [← Option.some.inj (h : some (⟨0, 8, 1⟩ : Loop) = some t)]; decide +kernel
  · unfold Sound Clean; decide +kernel

/-- The address of the last doubleword of the local memory, and of the scratchpad, in s1 and s2; one past each in s3 and s4. -/
def base.ends : State := base.regs [(1, 0xFFF8), (2, 0xFFFF8), (3, 0x10000), (4, 0x100000), (5, 0x1000FC), (6, 1)]

theorem calm_ends : Calm base.ends := by unfold Calm; decide +kernel

theorem wit_LocalLoads : ∃ (s : State) (d a : Name) (o : BitVec 6) (z : Size), s.me.limm.length ≤ 2 ∧ Fits s 4 ∧ Sound s a
    ∧ writable d = true ∧ (let size : Nat := 2 ^ z.code
      let ea := Stated.address s (value s 0 a) o z
      0 ≤ ea ∧ ea + size ≤ localEnd s ∧ ea % size = 0 ∧ firstBad s.eccLocal (locAddr s.me.job s.me.vcore ea.toNat) size = none) :=
  ⟨base.ends, .s 9, .s 1, 0, .d, by decide +kernel, calm_ends.fits 4, calm_ends.sound _ rfl, rfl, by decide +kernel⟩

theorem wit_LocalStores : ∃ (s : State) (d a : Name) (o : BitVec 6) (z : Size) (q : Bool), s.me.limm.length ≤ 2 ∧ Fits s 4 ∧ Sound s a
    ∧ updatable d = true ∧ Clean s d ∧ (let size : Nat := 2 ^ z.code
      let ea := Stated.address s (value s 0 a) o z
      0 ≤ ea ∧ ea + size ≤ localEnd s ∧ ea % size = 0 ∧ (q = true → s.anyWaiting (s.releaseWaits s.me.task .core) = false)
        ∧ s.localMem.wf = true) :=
  ⟨base.ends, .s 9, .s 1, 1, .w, true, by decide +kernel, calm_ends.fits 4, calm_ends.sound _ rfl, rfl, calm_ends.clean _, by decide +kernel⟩

theorem wit_LocalAccessTraps :
    (∃ (s : State) (d a : Name) (o : BitVec 6) (z : Size), s.me.limm.length ≤ 2 ∧ Fits s 4 ∧ Sound s a ∧ writable d = true
      ∧ updatable d = true ∧ Stated.address s (value s 0 a) o z < 0)
    ∧ (∃ (s : State) (a : Name) (o : BitVec 6) (z : Size), s.me.limm.length ≤ 2 ∧ Fits s 4 ∧ Sound s a
      ∧ (localEnd s : Int) < Stated.address s (value s 0 a) o z + (2 ^ z.code : Nat))
    ∧ (∃ (s : State) (a : Name) (o : BitVec 6) (z : Size), s.me.limm.length ≤ 2 ∧ Fits s 4 ∧ Sound s a
      ∧ (let ea := Stated.address s (value s 0 a) o z
        0 ≤ ea ∧ ea + (2 ^ z.code : Nat) ≤ localEnd s ∧ ea % (2 ^ z.code : Nat) ≠ 0)) :=
  ⟨⟨base.ends, .s 9, .z, 63, .b, by decide +kernel, calm_ends.fits 4, calm_ends.sound _ rfl, rfl, rfl, by decide +kernel⟩,
    ⟨base.ends, .s 3, 0, .b, by decide +kernel, calm_ends.fits 4, calm_ends.sound _ rfl, by decide +kernel⟩,
    base.ends, .s 6, 0, .h, by decide +kernel, calm_ends.fits 4, calm_ends.sound _ rfl, by decide +kernel⟩

theorem wit_ScratchpadAccesses :
    (∃ (s : State) (d a : Name) (o : BitVec 6) (z : Size), s.me.limm.length ≤ 2 ∧ Fits s 4 ∧ Sound s a ∧ s.countFull s.me.task .tile = false
      ∧ (let size : Nat := 2 ^ z.code
        let ea := Stated.address s (value s 0 a) o z
        0 ≤ ea ∧ ea + size ≤ tileEnd s ∧ ea % size = 0) ∧ writable d = true ∧ updatable d = true ∧ Clean s d)
    ∧ (∃ (s : State) (a : Name) (o : BitVec 6), s.me.limm.length ≤ 2 ∧ Fits s 4 ∧ Sound s a ∧ s.countFull s.me.task .tile = false
      ∧ (let ea := Stated.address s (value s 0 a) o .w
        0x100000 ≤ ea ∧ ea ≤ 0x1000FF ∧ ea % 4 = 0)) :=
  ⟨⟨base.ends, .z, .s 2, 0, .d, by decide +kernel, calm_ends.fits 4, calm_ends.sound _ rfl, by decide +kernel, by decide +kernel, rfl, rfl,
      calm_ends.clean _⟩,
    base.ends, .s 5, 0, by decide +kernel, calm_ends.fits 4, calm_ends.sound _ rfl, by decide +kernel, by decide +kernel⟩

/-- A posted store of two bytes. -/
def store0 (addr : Nat) : TileStore := { (default : TileStore) with id := 5, task := 1, addr := addr, data := [1, 2] }

/-- It waits at its bank; and a load does. -/
def base.posted (addr : Nat) : State := { base with stores := [store0 addr], clk := 20 }
def load0 (addr issued : Nat) : Op := { op0 with kind := .ldt addr 4 true false, issued := issued }
def read0 : Op := { load0 0 0 with started := true, due := 20 }
def base.read : State := (base.op read0).setMe { (base.op read0).me with pend := [⟨20, .s 3 0, 5, 11, false, false⟩] }

theorem wit_BankGrants :
    (∀ addr ∈ [0xFFFFE, 0x100000], ∃ (s : State) (p : TileStore), p.addr = addr ∧ s.stores.find? (fun t => t.id == p.id) = some p
      ∧ p.issued < s.clk ∧ grantable s (tileOf p.core) (storeReq p) = true ∧ s.scratch.wf = true)
    ∧ (∀ addr ∈ [0xFFFFC, 0x100000], ∀ clk ∈ [12, 13], ∃ (s : State) (p : Op) (c : Ctx), p.id ≠ 0 ∧ s.op? p.id = some p
      ∧ p.kind = .ldt addr 4 true false ∧ p.keeps = [] ∧ s.ctxs.get? p.ctx = some c ∧ c.task = p.task ∧ c.parked = false ∧ c.ending = false
      ∧ c.dying = false ∧ (∀ e ∈ c.pend, e.op ≠ 0) ∧ p.started = false ∧ p.issued < s.clk
      ∧ grantable s (tileOf (coreOf p.ctx)) (loadReq p addr) = true
      ∧ firstBad s.eccScratch (scratchAddr c.job (c.vcore / 8) addr) 4 = none ∧ p.tgts = [.s 3 0] ∧ p.issued = clk ∧ s.clk = 20)
    ∧ (∃ (s : State) (p : Op) (c : Ctx), p.id ≠ 0 ∧ s.op? p.id = some p ∧ p.kind = .ldt 0 4 true false ∧ p.keeps = []
      ∧ s.ctxs.get? p.ctx = some c ∧ c.task = p.task ∧ c.parked = false ∧ c.ending = false ∧ c.dying = false ∧ (∀ e ∈ c.pend, e.op ≠ 0)
      ∧ p.started = true ∧ p.due ≤ s.clk ∧ (∀ g ∈ c.pend, g.target = .s 3 0)
      ∧ c.pend.filter (fun e => e.op == p.id) = [⟨20, .s 3 0, 5, p.id, false, false⟩]) := by
  refine ⟨fun addr h => ⟨base.posted addr, store0 addr, rfl, ?_⟩, fun addr h clk k =>
    ⟨base.op (load0 addr clk), load0 addr clk, (base.op (load0 addr clk)).me, ?_⟩, base.read, read0, base.read.me, by decide +kernel⟩
  all_goals simp only [List.mem_cons, List.not_mem_nil, or_false] at h
  · rcases h with rfl | rfl <;> decide +kernel
  · simp only [List.mem_cons, List.not_mem_nil, or_false] at k
    rcases h with rfl | rfl <;> rcases k with rfl | rfl <;> decide +kernel

theorem wit_CompactForms :
    (∃ (s : State) (x : Fin 32) (y : BitVec 4), Plain s 2 ∧ Clean s (.s x) ∧ Clean s (Stated.yName y) ∧ value s 0 (.s x) = 0
      ∧ 0 ≤ (s.me.pc + 2 * y.toInt : Int) ∧ (s.me.pc + 2 * y.toInt : Int) < 0x20000)
    ∧ (∃ (s : State) (x : Fin 32) (y : BitVec 4), Plain s 2 ∧ Clean s (.s x) ∧ value s 0 (.s x) ≠ 0
      ∧ 0 ≤ (s.me.pc + 2 * y.toInt : Int) ∧ (s.me.pc + 2 * y.toInt : Int) < 0x20000)
    ∧ (∃ s : State, Plain s 2 ∧ Clean s (.s 31) ∧ (value s 0 (.s 31)).toNat % 2 = 0 ∧ (value s 0 (.s 31)).toNat < 0x20000)
    ∧ (∃ s : State, Plain s 2 ∧ s.me.startFault = none ∧ s.me.dying = false ∧ s.me.outs = [])
    ∧ (∃ s : State, Plain s 2 ∧ s.me.startFault = none ∧ s.me.dying = false ∧ s.me.outs ≠ [])
    ∧ (∃ (s : State) (x : Fin 32) (y : BitVec 4), Plain s 2 ∧ Clean s (.s (Fin.ofNat 32 (y.toNat % 8))) ∧ Clean s (.s x)
      ∧ (let ea : Nat := (value s 0 (.s (Fin.ofNat 32 (y.toNat % 8)))).toNat + 8 * (y.toNat / 8)
        ea + 8 ≤ localEnd s ∧ ea % 8 = 0 ∧ firstBad s.eccLocal (locAddr s.me.job s.me.vcore ea) 8 = none ∧ s.localMem.wf = true)) := by
  have late : Calm base.late := by unfold Calm; decide +kernel
  have busy : Calm (base.op op0) := by unfold Calm; decide +kernel
  exact ⟨⟨base.late, 0, 1, late.plain 2, late.clean _, late.clean _, by decide +kernel⟩,
    ⟨base.ends, 1, 0, calm_ends.plain 2, calm_ends.clean _, by decide +kernel⟩,
    ⟨base, calm_base.plain 2, calm_base.clean _, by decide +kernel⟩,
    ⟨base, calm_base.plain 2, by decide +kernel⟩, ⟨base.op op0, busy.plain 2, by decide +kernel⟩,
    base.ends, 3, 1, calm_ends.plain 2, calm_ends.clean _, calm_ends.clean _, by decide +kernel⟩

theorem wit_MaskInstructions : ∃ (s : State) (a b : Fin 8) (p q : Fin 32), Plain s 4 ∧ CleanMask s a.val ∧ CleanMask s b.val
    ∧ Clean s (.s p) ∧ Clean s (.s q) :=
  ⟨base, 0, 7, 0, 31, calm_base.plain 4, calm_base.mask _, calm_base.mask _, calm_base.clean _, calm_base.clean _⟩

/-- The quad at the end of the vector registers, from the last one. -/
def quad : Stated.VShape := ⟨.vcvtWiden4 28 31 .i8 .i32 1 mk, mk, [31, 28, 29, 30, 31], [31], [],
  [.v 28 8 0, .v 29 8 0, .v 30 8 0, .v 31 8 0], 1, true⟩

theorem wit_VectorIssue :
    (∃ (s : State) (x : Stated.VShape), x ∈ Stated.vectorShapes s 28 31 0 1 .i8 .i32 1 mk ∧ x.i = quad.i ∧ x.Ready s)
    ∧ (∃ (s : State) (p : Stated.VShape × Bool), p ∈ Stated.memoryShapes 31 31 30 .f32 3 mk ∧ p.1.Ready s
      ∧ s.countFull s.me.task .tile = false)
    ∧ (∃ (s : State) (d a b : Fin 32), Plain s 4 ∧ s.me.v.length ≤ d.val ∧ d.val = s.me.v.length ∧ a.val < s.me.v.length
      ∧ (∃ x ∈ Stated.vectorShapes s d a b 1 .i8 .i16 0 mk, ∃ r ∈ x.regs, s.me.v.length ≤ r)
      ∧ (∃ x ∈ Stated.memoryShapes d a b .i8 0 mk, ∃ r ∈ x.1.regs, s.me.v.length ≤ r)) := by
  have few : Calm (base.on (fun c => { c with v := [0] })) := by unfold Calm; decide +kernel
  refine ⟨⟨base, quad, ?_, rfl, calm_base.plain 4, ?_, calm_base.mask _, fun r _ => calm_base.clean _, by decide +kernel⟩,
    ⟨base, (⟨.vldxT 31 31 30 .f32 3 mk, mk, [31, 30], [30], [31], [.v 31 8 0], 3, true⟩, true), ?_,
      ⟨calm_base.plain 4, ?_, calm_base.mask _, fun r _ => calm_base.clean _, by decide +kernel⟩, by decide +kernel⟩,
    base.on (fun c => { c with v := [0] }), 1, 0, 0, few.plain 4, by decide +kernel, by decide +kernel, by decide +kernel, ?_, ?_⟩
  · simp [Stated.vectorShapes, Stated.vTwo, Stated.vOne, Stated.vReduce, Stated.vCompare, Stated.group, Stated.groupTargets, Stated.vreg, quad]
    decide
  · decide +kernel
  · simp [Stated.memoryShapes, Stated.vreg]
  · decide +kernel
  · exact ⟨_, by simp [Stated.vectorShapes, Stated.vTwo]; exact .inl rfl, 1, by decide +kernel⟩
  · exact ⟨_, by simp [Stated.memoryShapes]; exact .inl rfl, 1, by decide +kernel⟩

theorem wit_SfuIssue : ∃ (s : State) (d a : Fin 32) (k : Fin 4), Plain s 4 ∧ d.val < s.me.v.length ∧ a.val < s.me.v.length ∧ CleanMask s k.val
    ∧ (s.tile s.myTile).sfu.length < 32 :=
  ⟨base, 31, 31, 3, calm_base.plain 4, by decide +kernel, by decide +kernel, calm_base.mask _, by decide +kernel⟩

/-- An addition waits at the head of the vector queue of core 7 of tile 0. -/
def sum0 : Op := { op0 with ctx := 70, kind := .vector (.vadd 1 2 3 .i8 0 mk), srcs := [2, 3], tgts := [.v 1 8 0] }
def base.queued : State := { base with
  ops := [sum0], clk := 20, cores := Map.set [] 7 { Core.fresh with vqueue := [11] }
  ctxs := Map.set [] 70 { sampleCtx 1 with outs := [11] } }

theorem wit_VectorStart : ∃ (s : State) (tile lane : Nat), lane < 4 ∧ laneFree s tile lane = true
    ∧ (∃ c o i, c < 8 ∧ headOp s (8 * tile + c) = some (o, i))
    ∧ (∀ c, c < 8 → (headOp s (8 * tile + c)).all (fun x => decide (occupancy x.2 ≤ 256)) = true)
    ∧ (startEffect s sum0 (.vadd 1 2 3 .i8 0 mk)).fault = none ∧ (startEffect s { sum0 with a := 0x10000, kind := .vector (.vldL 1 3 .i8 0 mk) } (.vldL 1 3 .i8 0 mk)).fault.isSome = true :=
  ⟨{ base.queued with ops := [{ sum0 with a := 0x10000 }] }, 0, 3, by decide, by decide +kernel,
    ⟨7, { sum0 with a := 0x10000 }, .vadd 1 2 3 .i8 0 mk, by decide +kernel⟩, by decide +kernel, by decide +kernel, by decide +kernel⟩

/-- A started operation whose result for the lowest byte of v31 is due, and its context. -/
def done0 (k : OpKind) : Op := { op0 with kind := k, started := true, due := 20, tgts := [.v 31 8 1] }
def doneCtx : Ctx := { base.me with outs := [11], pend := [⟨20, .v 31 8 1, 5, 11, false, false⟩] }
def base.done (k : OpKind) : State := (base.op (done0 k)).setMe doneCtx
/-- An access to memory with one chunk left, at bank 3 or at local memory. -/
def chunk0 (i : Instr) (b : Nat) : Op := { done0 (.vector i) with reqs := [some b], a := 0x30000, fmts := List.replicate 16 3, mask := 1 }

theorem wit_VectorCompletion :
    (∀ k ∈ [OpKind.vector (.vadd 1 2 3 .i8 0 mk), .vector (.vldL 31 3 .i8 0 mk), .sfu (.vrcp 1 2 .f32 0 mk)], ∃ (s : State) (o : Op) (c : Ctx),
      o.kind = k ∧ s.op? o.id = some o ∧ o.id ≠ 0 ∧ o.started = true ∧ o.reqs = [] ∧ o.due ≤ s.clk ∧ o.keeps = [] ∧ s.ctxs.get? o.ctx = some c
      ∧ c.task = o.task ∧ c.dying = false ∧ c.parked = false ∧ c.ending = false ∧ (∀ e ∈ c.pend, e.op ≠ 0)
      ∧ c.pend.filter (fun p => p.op == o.id) = [⟨20, .v 31 8 1, 5, o.id, false, false⟩] ∧ 31 < c.v.length)
    ∧ isLoad (.vadd 1 2 3 .i8 0 mk) = false ∧ isLoad (.vldL 31 3 .i8 0 mk) = true
    ∧ (vectorEffect (base.done (.vector (.vldL 31 3 .i8 0 mk))) (done0 (.vector (.vldL 31 3 .i8 0 mk))) (.vldL 31 3 .i8 0 mk) (regFrom [])).fault = none
    ∧ (∀ e ∈ [(Instr.vldT 31 3 .i8 0 mk, 3), (.vstT 31 3 .i8 0 mk, 3), (.vstL 31 3 .i8 0 mk, 16)], ∃ (s : State) (o : Op),
      s.op? o.id = some o ∧ o.kind = .vector e.1 ∧ o.reqs = [some e.2] ∧ o.nextAt ≤ s.clk
      ∧ bankOpen s (tileOf (coreOf o.ctx)) e.2 (8 + o.lane) = true ∧ s.writes = []) := by
  refine ⟨fun k h => ⟨base.done k, done0 k, doneCtx, rfl, ?_⟩, rfl, rfl, by decide +kernel, fun e h =>
    ⟨base.op (chunk0 e.1 e.2), chunk0 e.1 e.2, ?_⟩⟩
  all_goals
    simp only [List.mem_cons, List.not_mem_nil, or_false] at h
    rcases h with rfl | rfl | rfl <;> decide +kernel

theorem wit_SfuService : ∃ (s : State) (tile : Nat) (o : Op) (rest : List Nat) (i : Instr) (fn : SfuFn) (t : VT) (d a : Fin 32),
    (s.tile tile).sfu = o.id :: rest ∧ s.op? o.id = some o ∧ o.kind = .sfu i ∧ sfuOf i = some (fn, t, d, a) ∧ (s.tile tile).sfuEnd ≤ s.clk
      ∧ o.issued < s.clk ∧ (s.ctxs.getD o.ctx Ctx.idle).ecc = [] :=
  ⟨{ base.op { op0 with kind := .sfu (.vsigm 1 2 .f16 0 mk), tgts := [.v 1 8 0] } with
      tiles := Map.set [] 0 { Tile.fresh with sfu := [11], sfuEnd := 20 } }, 0,
    { op0 with kind := .sfu (.vsigm 1 2 .f16 0 mk), tgts := [.v 1 8 0] }, [], .vsigm 1 2 .f16 0 mk, .sigm, .f16, 1, 2, by decide +kernel⟩

/-- A number of the small state's registers: every register holds the same. -/
def every (v : Nat) : Fin 32 → VReg := fun _ => BitVec.ofNat 4096 v

/-- An operation of the small state's task at an address, with its mask and every bank's descriptor. -/
def at0 (a : Word) (mask : MaskReg) (b : Word) : Op := { op0 with a := a, mask := mask, fmts := List.replicate 16 b }

theorem wit_VectorElementResults_types :
    (∀ t ∈ [VT.i4, .i8, .i16, .i32], t.isInt = true) ∧ (∀ t ∈ [VT.nf8, .f32, .bf16, .f16], t.isInt = false)
    ∧ vtBits .bf16 = vtBits .i16 ∧ vtBits .f32 = 2 * vtBits .i16 ∧ vtBits .f32 = 4 * vtBits .nf8
    ∧ Stated.integral .i4 0 = true ∧ Stated.integral .nf8 2 = true ∧ Stated.integral .nf8 0x10001C0 = false ∧ Stated.integral .f16 0 = false
    ∧ (∀ w ∈ [4, 8, 16, 32], ∃ i, i < 4096 / w) := by
  refine ⟨by decide, by decide, rfl, rfl, rfl, rfl, by decide, by decide, rfl, fun w h => ⟨0, ?_⟩⟩
  revert w; decide +kernel

theorem wit_VectorElementResults_ternary :
    (∀ j, j < 96 → elemGet (every 0 1) 8 j < 243)
    ∧ (∀ k ∈ [0, 95], ∃ reg : Fin 32 → VReg, 243 ≤ elemGet (reg 1) 8 k ∧ ∀ i, i < k → elemGet (reg 1) 8 i < 243) :=
  ⟨by decide +kernel, fun k h => ⟨every (243 * 256 ^ k), by
    simp only [List.mem_cons, List.not_mem_nil, or_false] at h
    rcases h with rfl | rfl <;> decide +kernel⟩⟩

/-- The values of R134's rows as FP32 elements. -/
theorem wit_VectorElementResults_functions :
    ∀ c ∈ Stated.sfuSpecial, ∃ o : Op, o.kind = .sfu (c.1 1 2 .f32 0 mk)
      ∧ ∀ e ∈ [(0x7FA00000, Val.nan true), (0x80000000, .fin true 0 (-149)), (0xFF800000, .inf true), (0xBF800000, .fin true (2 ^ 23) (-23)),
          (0x7F7FFFFF, .fin false (2 ^ 24 - 1) 104), (1, .fin false 1 (-149)), (0x40400000, .fin false 12582912 (-22))],
        fp32.decode (Stated.el (every e.1) 2 .f32 0) = e.2 := by
  intro c _
  exact ⟨{ op0 with kind := .sfu (c.1 1 2 .f32 0 mk) }, rfl, by decide +kernel⟩

theorem wit_VectorElementResults_exact :
    (0x7F7FFFFF : Nat) < 2 ^ 32 ∧ (2 : ℚ) ^ (23 : Nat) * (2 : ℚ) ^ (-23 + 2 : Int) = (4 : Int) := by
  refine ⟨by decide, by norm_num⟩

/-- The job and context of every access below. -/
theorem at0_task (a : Word) (mask : MaskReg) (b : Word) : base.ctxs.get? (at0 a mask b).ctx = some base.me ∧ base.job? base.me.job = some job0
    ∧ base.writes = [] ∧ base.eccLocal = [] ∧ base.eccScratch = [] ∧ base.localMem.wf = true ∧ base.scratch.wf = true := by
  exact ⟨rfl, rfl, rfl, rfl, rfl, by decide +kernel, by decide +kernel⟩

theorem wit_VectorElementResults_local :
    let top := min 0x10000 (4096 * job0.lsize)
    (∃ a : Word, top < (at0 a 1 0).a.toNat + 512) ∧ (∃ a : Word, (at0 a 1 0).a.toNat + 512 ≤ top ∧ (at0 a 1 0).a.toNat % max (vtBits .i16 / 8) 1 ≠ 0)
    ∧ (∃ a : Word, (at0 a 1 0).a.toNat + 512 = top ∧ (at0 a 1 0).a.toNat % max (vtBits .f32 / 8) 1 = 0) :=
  ⟨⟨0xFE01, by decide +kernel⟩, ⟨1, by decide +kernel⟩, 0xFE00, by decide +kernel⟩

/-- One bank's descriptor for all of a footprint. -/
theorem wit_VectorElementResults_tile :
    let top := min 0x100000 (65536 * job0.tbanks)
    let foot (o : Op) : Nat := let b := Stated.bankOf o o.a.toNat; if Stated.plainBank b then 512 else vtCount .i16 * Stated.bankBits b / 8
    let whole (o : Op) : Prop := descValid (Stated.bankOf o o.a.toNat) = true ∧ ∀ p, o.a.toNat / 65536 ≤ p → p ≤ (o.a.toNat + foot o - 1) / 65536 →
      (o.fmts.getD p 0).toNat = Stated.bankOf o o.a.toNat
    let even (o : Op) : Prop := o.a.toNat + foot o ≤ top ∧ o.a.toNat % max 1 (Stated.bankBits (Stated.bankOf o o.a.toNat) / 8) = 0
    (∃ o : Op, top < o.a.toNat + foot o)
    ∧ (∃ o : Op, o.a.toNat + foot o ≤ top ∧ o.a.toNat % max 1 (Stated.bankBits (Stated.bankOf o o.a.toNat) / 8) ≠ 0)
    ∧ (∃ o : Op, even o ∧ ¬whole o)
    ∧ (∃ o : Op, even o ∧ whole o ∧ Stated.plainBank (Stated.bankOf o o.a.toNat) = true)
    ∧ (∃ o : Op, even o ∧ whole o ∧ Stated.plainBank (Stated.bankOf o o.a.toNat) = false) := by
  refine ⟨⟨at0 0xFFE01 1 3, by decide +kernel⟩, ⟨at0 1 1 4, by decide +kernel⟩, ⟨at0 0 1 0, by decide +kernel, fun h => ?_⟩,
    ⟨at0 0xFFE00 1 3, by decide +kernel, ⟨by decide +kernel, fun p h h' => ?_⟩, by decide +kernel⟩,
    at0 0xFFC00 1 4, by decide +kernel, ⟨by decide +kernel, fun p h h' => ?_⟩, by decide +kernel⟩
  · exact absurd h.1 (by decide +kernel)
  all_goals
    have e : p = 15 := by
      have h0 : 15 ≤ p := h
      have h1 : p ≤ 15 := h'
      omega
    subst e
    decide +kernel

theorem at0_one (a b : Word) (i : Nat) (h : (at0 a 1 b).mask.toNat.testBit i = true) : i = 0 := by
  have e : (at0 a 1 b).mask.toNat = 1 := by
    show (1 : MaskReg).toNat = 1
    decide +kernel
  rw [e] at h
  exact Nat.testBit_one_eq_true_iff_self_eq_zero.mp h

theorem at0_zero (a b : Word) : (at0 a 1 b).mask.toNat.testBit 0 = true := by
  have e : (at0 a 1 b).mask.toNat = 1 := by
    show (1 : MaskReg).toNat = 1
    decide +kernel
  rw [e]
  rfl

theorem wit_VectorElementResults_indexed :
    let reg := every 0
    let es (o : Op) : Nat := max 1 (Stated.bankBits (Stated.bankOf o o.a.toNat) / 8)
    let on (o : Op) (i : Nat) : Prop := i < vtCount .f32 ∧ o.mask.toNat.testBit i = true
    let fits (o : Op) : Prop := ∀ i, on o i → o.a.toNat + elemGet (reg 3) 16 i * es o + es o ≤ min 0x100000 (65536 * job0.tbanks)
    (∃ o : Op, ¬fits o) ∧ (∃ o : Op, fits o ∧ o.a.toNat % es o ≠ 0)
    ∧ (∃ o : Op, fits o ∧ o.a.toNat % es o = 0 ∧ descValid (Stated.bankOf o o.a.toNat) = false)
    ∧ (∀ b ∈ [(3 : Word), 4], ∃ o : Op, fits o ∧ o.a.toNat % es o = 0 ∧ descValid (Stated.bankOf o o.a.toNat) = true
      ∧ Stated.bankBits (Stated.bankOf o o.a.toNat) ≠ 4
      ∧ (∀ i, on o i → (o.fmts.getD ((o.a.toNat + elemGet (reg 3) 16 i * es o) / 65536) 0).toNat = Stated.bankOf o o.a.toNat)
      ∧ (on o 0 ∧ ∀ i', on o i' → 0 < i' → o.a.toNat + elemGet (reg 3) 16 i' * es o ≠ o.a.toNat + elemGet (reg 3) 16 0 * es o)) := by
  have one (a b : Word) (i : Nat) (h : (at0 a 1 b).mask.toNat.testBit i = true) : i = 0 := at0_one a b i h
  refine ⟨⟨at0 0x100000 1 3, fun h => absurd (h 0 ⟨by decide +kernel, at0_zero _ _⟩) (by decide +kernel)⟩,
    ⟨at0 1 1 4, fun i h => by rw [one _ _ i h.2]; decide +kernel, by decide +kernel⟩,
    ⟨at0 0 1 0, fun i h => by rw [one _ _ i h.2]; decide +kernel, by decide +kernel⟩, fun b h => ⟨at0 0xFFFFC 1 b, fun i k => ?_, ?_⟩⟩
  all_goals simp only [List.mem_cons, List.not_mem_nil, or_false] at h
  · rw [one _ _ i k.2]; rcases h with rfl | rfl <;> decide +kernel
  · refine ⟨?_, ?_, ?_, fun i k => ?_, ⟨by decide +kernel, at0_zero _ _⟩, fun i k l => ?_⟩
    · rcases h with rfl | rfl <;> decide +kernel
    · rcases h with rfl | rfl <;> decide +kernel
    · rcases h with rfl | rfl <;> decide +kernel
    · rw [one _ _ i k.2]; rcases h with rfl | rfl <;> decide +kernel
    · exact absurd (one _ _ i k.2) (Nat.pos_iff_ne_zero.mp l)

/-! ### Weight, messages and requests -/

theorem wit_WeightReads : ∃ (s : State) (d : Name) (j : Job), Plain s 4 ∧ writable d = true ∧ s.myJob = some j :=
  ⟨base, .h, job0, calm_base.plain 4, rfl, by decide +kernel⟩

/-- A weight of 65 and 7, and a completion word that asks for no message, in s1 to s3; no weight at all. -/
def base.weights : State := base.regs [(1, 65), (2, 7), (3, 0x04000000), (4, 8)]
def base.poor : State := base.on (fun c => { c with wt := 0, privileged := false })
theorem calm_weights : Calm base.weights := by unfold Calm; decide +kernel
theorem calm_poor : Calm base.poor := by unfold Calm; decide +kernel

theorem wit_WeightInstructions :
    (∃ (s : State) (a : Name) (j : Job), Plain s 4 ∧ s.myJob = some j ∧ Sound s a ∧ s.me.wt < (value s 0 a).toNat)
    ∧ (∃ (s : State) (a : Name) (j : Job), Plain s 4 ∧ s.myJob = some j ∧ Sound s a ∧ 1 ≤ (value s 0 a).toNat ∧ (value s 0 a).toNat ≤ s.me.wt
      ∧ j.census = none)
    ∧ (∃ (s : State) (a b : Name) (j : Job), Plain s 4 ∧ s.myJob = some j ∧ Sound s a ∧ Sound s b ∧ (value s 1 b).toNat ≤ 255
      ∧ (value s 0 a).toNat < 8 * j.vtiles ∧ (j.routine? (value s 1 b).toNat).isSome = true ∧ s.niFull s.myCore = false ∧ Holds s)
    ∧ (∃ (s : State) (a : Name) (j : Job), Plain s 4 ∧ s.myJob = some j ∧ Sound s a ∧ ¬(value s 0 a).toNat < 8 * j.vtiles)
    ∧ (∃ (s : State) (a b : Name) (j : Job), Plain s 4 ∧ s.myJob = some j ∧ Sound s a ∧ Sound s b ∧ (value s 1 b).toNat ≤ 255
      ∧ (value s 0 a).toNat < 8 * j.vtiles ∧ (j.routine? (value s 1 b).toNat).isSome = true ∧ s.niFull s.myCore = false ∧ ¬Holds s
      ∧ s.me.privileged = false)
    ∧ (∃ (s : State) (a b : Name) (j : Job), Plain s 4 ∧ s.myJob = some j ∧ Sound s a ∧ Sound s b ∧ cmsgOk j (value s 0 a) false = true
      ∧ fieldOf (value s 0 a).toNat 27 5 = 0 ∧ s.niFull s.myCore = false ∧ 1 ≤ (value s 1 b).toNat ∧ (value s 1 b).toNat ≤ s.me.wt
      ∧ s.me.privileged = true ∧ (value s 0 a).toNat.testBit 26 = false) := by
  refine ⟨⟨base.weights, .s 1, job0, calm_weights.plain 4, rfl, calm_weights.sound _ rfl, by decide +kernel⟩,
    ⟨base, .wt, job0, calm_base.plain 4, rfl, calm_base.sound _ rfl, by decide +kernel⟩,
    ⟨base.weights, .s 2, .z, job0, calm_weights.plain 4, rfl, calm_weights.sound _ rfl, calm_weights.sound _ rfl, by unfold Holds; decide +kernel⟩,
    ⟨base.weights, .s 4, job0, calm_weights.plain 4, rfl, calm_weights.sound _ rfl, by decide +kernel⟩,
    ⟨base.poor, .z, .z, job0, calm_poor.plain 4, rfl, calm_poor.sound _ rfl, calm_poor.sound _ rfl, by unfold Holds; decide +kernel⟩,
    base.weights, .z, .s 2, job0, calm_weights.plain 4, rfl, calm_weights.sound _ rfl, calm_weights.sound _ rfl, by decide +kernel⟩

/-- A send's block of 14 arguments that ends at s31; and the same behind a task of one unit. -/
def base.block14 : State := base.regs [(16, 0x38000000)]
def base.single : State := base.block14.setMe { base.block14.me with wt := 1 }
theorem calm_block14 : Calm base.block14 := by unfold Calm; decide +kernel
theorem calm_single : Calm base.single := by unfold Calm; decide +kernel

theorem sendReady_of (s : State) (len : Nat) (o rop draw : Bool) (h : Calm s) (hj : s.myJob = some job0)
    (hn : 2 + fieldOf (wordAt (blockWords s 40 16 16) 0) 26 4 = 16) (hok : Stated.SendOk s job0 (blockWords s 40 16 16) rop draw)
    (hr : Room s ((formSend s job0 (blockWords s 40 16 16) o rop).scope s.myTile)) :
    Stated.SendReady s len job0 (.s 16) (blockWords s 40 16 16) o rop draw :=
  ⟨h.plain len, hj, by rw [hn]; exact h.block 16 16 (by decide), hok, hr⟩

theorem sendOk_block14 (rop draw : Bool) : Stated.SendOk base.block14 job0 (blockWords base.block14 40 16 16) rop draw :=
  ⟨by decide +kernel, by decide +kernel, fun _ => by decide +kernel, fun _ => ⟨by decide +kernel, by decide +kernel, by decide +kernel,
    (0x8000000000000000, 0), by decide +kernel, fun _ => by decide +kernel⟩⟩

theorem sendOk_single : Stated.SendOk base.single job0 (blockWords base.single 40 16 16) false false :=
  ⟨by decide +kernel, by decide +kernel, fun _ => by decide +kernel, fun _ => ⟨by decide +kernel, by decide +kernel, by decide +kernel,
    (0x8000000000000000, 0), by decide +kernel, fun _ => by decide +kernel⟩⟩

theorem wit_Sends :
    (∃ (s : State) (a b : Name) (j : Job) (w : List Word), ∀ rop, Stated.SendReady s 4 j a w true rop false ∧ Sound s b
      ∧ (value s 60 b).toNat = 64 ∧ 64 ≤ s.me.wt)
    ∧ (∃ (s : State) (a b : Name) (j : Job) (w : List Word), Stated.SendReady s 4 j a w false true false ∧ Sound s b ∧ (value s 60 b).toNat = 0)
    ∧ (∃ (s : State) (a : Name) (j : Job) (w : List Word), Stated.SendReady s 4 j a w false false false ∧ 2 ≤ s.me.wt ∧ s.me.wt < 2 ^ 32)
    ∧ (∃ (s : State) (a : Name) (j : Job) (w : List Word), Stated.SendReady s 4 j a w false false false ∧ s.me.wt < 2)
    ∧ (∃ (s : State) (x : Fin 32) (j : Job) (w : List Word), Stated.SendReady s 2 j (.s x) w false false false ∧ 2 ≤ s.me.wt)
    ∧ (∃ (s : State) (a b : Name) (j : Job) (w : List Word), Stated.SendReady s 4 j a w true false true ∧ Sound s b
      ∧ (value s 60 b).toNat = 2 ^ j.wtotal ∧ Holds s) := by
  have r (len : Nat) (o rop draw : Bool) : Stated.SendReady base.block14 len job0 (.s 16) (blockWords base.block14 40 16 16) o rop draw :=
    sendReady_of _ _ o rop draw calm_block14 rfl (by decide +kernel) (sendOk_block14 rop draw)
      (by cases o <;> cases rop <;> unfold Room <;> decide +kernel)
  have q : Stated.SendReady base.single 4 job0 (.s 16) (blockWords base.single 40 16 16) false false false :=
    sendReady_of _ _ false false false calm_single rfl (by decide +kernel) sendOk_single
      (by unfold Room; decide +kernel)
  exact ⟨⟨_, _, .wt, _, _, fun rop => ⟨r 4 true rop false, calm_block14.sound _ rfl, by decide +kernel⟩⟩,
    ⟨_, _, .z, _, _, r 4 false true false, calm_block14.sound _ rfl, by decide +kernel⟩, ⟨_, _, _, _, r 4 false false false, by decide +kernel⟩,
    ⟨_, _, _, _, q, by decide +kernel⟩, ⟨_, _, _, _, r 2 false false false, by decide +kernel⟩,
    _, _, .wt, _, _, r 4 true false true, calm_block14.sound _ rfl, by decide +kernel, by unfold Holds; decide +kernel⟩

theorem ready_of (c : Stated.Command) (l : List (Fin 32 × Word)) (n : Nat) (hs : Calm (base.regs l)) (hw : (base.regs l).me.wt = 64)
    (hn : c.n (blockWords (base.regs l) 40 0 n) = n) (hle : n ≤ 32) (hp : (base.regs l).me.privileged = true)
    (hj : (base.regs l).myJob = some job0) (hok : c.ok job0 (blockWords (base.regs l) 40 0 n))
    (hc : cmsgOk job0 ((blockWords (base.regs l) 40 0 n).getD c.cm 0) c.plain = true)
    (hr : Stated.HasRoom (base.regs l) (c.scope (base.regs l) (blockWords (base.regs l) 40 0 n))) :
    ∃ (s : State) (a b : Name) (j : Job) (w : List Word) (v : Nat), c.Ready s j a w ∧ Gives s b v ∧ v = s.me.wt :=
  ⟨base.regs l, .s 0, .wt, job0, blockWords (base.regs l) 40 0 n, 64, ⟨hs.plain 4, hj, fun _ => hp,
      by rw [hn]; exact hs.block 0 n (by simpa using hle), hok, hc, hr⟩,
    ⟨hs.sound _ rfl, by simp [value, hw], by decide, by rw [hw]⟩, hw.symm⟩

/-- NOMSG as a completion word (R178). -/
def noMsg : Word := 0x04000000

theorem wit_BlockCommands :
    (∀ c ∈ [Stated.blockCommand false true true, Stated.blockCommand true false false, Stated.nearCommand .nearCas4 3,
        Stated.nearCommand .nearChase 5, Stated.nearCommand .nearRedAddI32 8, Stated.futureCommand .fset 1 4 2,
        Stated.unitCommand .launch 3 1 (fun w => .launch (wordAt w 0)) (fun w => wordAt w 0 % 64 = 0 ∧ wordAt w 0 < 2 ^ 52) (some .die) false .request,
        Stated.unitCommand .sysCtxload 3 1 (fun w => .ctxload (wordAt w 0)) (fun _ => True) none true .management],
      ∃ (s : State) (a b : Name) (j : Job) (w : List Word) (v : Nat), c.Ready s j a w ∧ Gives s b v ∧ v = s.me.wt)
    ∧ (∃ (s : State) (a : Name) (j : Job), Plain s 4 ∧ s.myJob = some j ∧ s.me.privileged = true ∧ ∀ r, a ≠ .s r)
    ∧ (∃ s : State, Plain s 4 ∧ s.me.privileged = false)
    ∧ (∀ l : Bool, ∃ (s : State) (a b : Name) (j : Job) (w : List Word) (v : Nat), Plain s 4 ∧ s.myJob = some j ∧ BlockIs s a 5 w ∧ Gives s b v
      ∧ Room s .die ∧ cmsgOk j (w.getD 3 0) true = true ∧ (wordAt w 3).testBit 26 = false ∧ wordAt w 0 < 2 ^ 52
      ∧ wordAt w 1 < (if l then 2 ^ 20 else 2 ^ 16) ∧ 1 ≤ wordAt w 2 ∧ wordAt w 2 ≤ (if l then 2 ^ 20 else 2 ^ 16)
      ∧ (if l then min 0x100000 (65536 * j.tbanks) else min 0x10000 (4096 * j.lsize)) < wordAt w 1 + wordAt w 2) := by
  refine ⟨?_, ⟨base, .m 0, job0, calm_base.plain 4, rfl, by decide +kernel, fun r => Name.noConfusion⟩, ⟨base.poor, calm_poor.plain 4, rfl⟩, ?_⟩
  · simp only [List.forall_mem_cons, List.not_mem_nil, false_implies, implies_true, and_true]
    refine ⟨ready_of _ [(1, 0xFFFFF), (2, 1), (3, noMsg)] 5 ?_ ?_ rfl (by decide) ?_ rfl ?_ ?_ ?_,
      ready_of _ [(1, 0), (2, 0x10000), (3, noMsg)] 5 ?_ ?_ rfl (by decide) ?_ rfl ?_ ?_ ?_,
      ready_of _ [(2, noMsg)] 12 ?_ ?_ rfl (by decide) ?_ rfl ?_ ?_ ?_,
      ready_of _ [(2, noMsg), (5, 0x400000000000000)] 6 ?_ ?_ rfl (by decide) ?_ rfl ?_ ?_ ?_,
      ready_of _ [(0, 0x40000), (2, noMsg)] 12 ?_ ?_ rfl (by decide) ?_ rfl ?_ ?_ ?_,
      ready_of _ [(0, 0x8000000000000000), (2, noMsg)] 4 ?_ ?_ rfl (by decide) ?_ rfl ?_ ?_ ?_,
      ready_of _ [(0, 0xFFFFFFFFFFFC0), (1, noMsg)] 3 ?_ ?_ rfl (by decide) ?_ rfl ?_ ?_ ?_,
      ready_of _ [(1, noMsg)] 3 ?_ ?_ rfl (by decide) ?_ rfl ?_ ?_ ?_⟩
    all_goals try simp only [Calm, Stated.blockCommand, Stated.nearCommand, Stated.futureCommand, Stated.unitCommand, Stated.HasRoom, Room]
    all_goals decide +kernel
  · intro l
    have h : Calm (base.regs [(1, if l then 0xFFFFF else 0xFFFF), (2, 2), (3, 0)]) := by cases l <;> unfold Calm <;> decide +kernel
    refine ⟨base.regs [(1, if l then 0xFFFFF else 0xFFFF), (2, 2), (3, 0)], .s 0, .wt, job0, _, 64, h.plain 4, rfl, h.block 0 5 (by decide),
      ⟨h.sound _ rfl, ?_, by decide, ?_⟩, ?_⟩
    all_goals (cases l <;> (try unfold Room) <;> decide +kernel)

theorem wit_PostedGlobalStore :
    (∃ (s : State) (d a : Name) (o : BitVec 6) (z : Size), s.me.limm.length ≤ 2 ∧ Fits s 4 ∧ Sound s a ∧ updatable d = true
      ∧ Stated.address s (value s 0 a) o z % (2 ^ z.code : Nat) ≠ 0)
    ∧ (∃ (s : State) (d a : Name) (o : BitVec 6) (z : Size), s.me.limm.length ≤ 2 ∧ Fits s 4 ∧ Sound s a ∧ updatable d = true ∧ Clean s d
      ∧ Stated.address s (value s 0 a) o z % (2 ^ z.code : Nat) = 0 ∧ Stated.address s (value s 0 a) o z < 0 ∧ Room s .die ∧ Holds s)
    ∧ (∃ (s : State) (d a : Name) (o : BitVec 6) (z : Size), s.me.limm.length ≤ 2 ∧ Fits s 4 ∧ Sound s a ∧ updatable d = true ∧ Clean s d
      ∧ Stated.address s (value s 0 a) o z % (2 ^ z.code : Nat) = 0 ∧ Room s .die ∧ ¬Holds s) :=
  ⟨⟨base.ends, .z, .s 6, 0, .h, by decide +kernel, calm_ends.fits 4, calm_ends.sound _ rfl, rfl, by decide +kernel⟩,
    ⟨base, .s 1, .z, 63, .d, by decide +kernel, calm_base.fits 4, calm_base.sound _ rfl, rfl, calm_base.clean _,
      by unfold Room Holds; decide +kernel⟩,
    base.poor, .s 1, .z, 0, .d, by decide +kernel, calm_poor.fits 4, calm_poor.sound _ rfl, rfl, calm_poor.clean _,
      by unfold Room Holds; decide +kernel⟩

/-- Blocks at s0 whose word 3 or word 5, 8 or 4 asks for no message; a job identifier in s20; the sequence numbers behind it. -/
def base.transfers : State := { base.regs [(4, noMsg), (5, noMsg), (8, noMsg), (20, 0x8000000000000005)] with
  chans := [(0, ⟨6, 5, [], [(5, 3, 1, 2)]⟩)], arrSeqs := [(0, ⟨6, [(5, 3)]⟩)] }
def base.fullFifo : State := { base.transfers with cores := Map.set [] 0 { Core.fresh with fifo := List.replicate 8 default } }
theorem calm_transfers : Calm base.transfers := by unfold Calm; decide +kernel
theorem calm_fullFifo : Calm base.fullFifo := by unfold Calm; decide +kernel

theorem wit_CopyCommands :
    (∃ (s : State) (d a b : Name) (j : Job) (w : List Word) (v : Nat), Plain s 4 ∧ s.myJob = some j ∧ writable d = true ∧ BlockIs s a 6 w
      ∧ copyCtlOk (wordAt w 0) = true ∧ wordAt w 3 < 2 ^ 32 ∧ cmsgOk j (w.getD 4 0) false = true
      ∧ s.countFull s.me.task (copyScope s (wordAt w 0)) = false ∧ Gives s b v ∧ fifoLen s s.myCore < 8)
    ∧ (∃ (s : State) (d a b : Name) (j : Job) (w : List Word) (v : Nat), Plain s 4 ∧ s.myJob = some j ∧ writable d = true ∧ BlockIs s a 4 w
      ∧ copyCtlOk (wordAt w 0) = true ∧ wordAt w 1 % 8 = 0 ∧ wordAt w 1 + 128 ≤ min 0x10000 (4096 * j.lsize)
      ∧ cmsgOk j (w.getD 2 0) false = true ∧ s.countFull s.me.task (copyScope s (wordAt w 0)) = false ∧ Gives s b v
      ∧ 8 ≤ fifoLen s s.myCore)
    ∧ (∃ (s : State) (a : Name), Plain s 4 ∧ Sound s a ∧ (value s 0 a).toNat.testBit 63 = false)
    ∧ (∃ (s : State) (a : Name), Plain s 4 ∧ Sound s a ∧ (value s 0 a).toNat.testBit 63 = true ∧ fieldOf (value s 0 a).toNat 34 29 = 0
      ∧ (s.chan s.myCore s.me.job (fieldOf (value s 0 a).toNat 32 2)).states.find? (fun e => e.1 == (value s 0 a).toNat % 2 ^ 32) = none)
    ∧ (∃ (s : State) (a : Name) (code count : Nat), Plain s 4 ∧ Sound s a ∧ (value s 0 a).toNat.testBit 63 = true
      ∧ fieldOf (value s 0 a).toNat 34 29 = 0
      ∧ (s.chan s.myCore s.me.job (fieldOf (value s 0 a).toNat 32 2)).states.find? (fun e => e.1 == (value s 0 a).toNat % 2 ^ 32)
        = some ((value s 0 a).toNat % 2 ^ 32, 3, code, count) ∧ ∀ r ∈ s.reqs, r.core ≠ s.myCore) := by
  have one : Calm (base.regs [(1, 0x8000000000000005)]) := by unfold Calm; decide +kernel
  exact ⟨⟨base.transfers, .h, .s 0, .wt, job0, _, 64, calm_transfers.plain 4, rfl, rfl, calm_transfers.block 0 6 (by decide), by decide +kernel,
      by decide +kernel, by decide +kernel, by decide +kernel, ⟨calm_transfers.sound _ rfl, by decide +kernel⟩, by decide +kernel⟩,
    ⟨base.fullFifo, .h, .s 2, .wt, job0, _, 64, calm_fullFifo.plain 4, rfl, rfl, calm_fullFifo.block 2 4 (by decide), by decide +kernel,
      by decide +kernel, by decide +kernel, by decide +kernel, by decide +kernel, ⟨calm_fullFifo.sound _ rfl, by decide +kernel⟩,
      by decide +kernel⟩,
    ⟨base, .z, calm_base.plain 4, calm_base.sound _ rfl, by decide +kernel⟩,
    ⟨base.regs [(1, 0x8000000000000005)], .s 1, one.plain 4, one.sound _ rfl, by decide +kernel⟩,
    base.transfers, .s 20, 1, 2, calm_transfers.plain 4, calm_transfers.sound _ rfl, by decide +kernel⟩

/-- An array job of the issuing core, and a full queue of them; a full exchange queue; an exchange of the one tile in s0 to s6. -/
def job5 : ArrayJob := { (default : ArrayJob) with seq := 5, task := 1 }
def base.array (q : List ArrayJob) (x : List Exchange) : State := { base.transfers with
  tiles := Map.set [] 0 { Tile.fresh with arrayQ := q, xqueue := x } }
def base.rowBlock : State := base.regs [(0, 0x10000800), (2, 0x10001), (4, 0x10001), (5, noMsg)]
def base.exchange (x : List Exchange) : State := { base.rowBlock with
  tiles := Map.set [] 0 { Tile.fresh with xqueue := x } }
theorem calm_array (q : List ArrayJob) (x : List Exchange) : Calm (base.array q x) := calm_transfers.of _ rfl rfl
theorem calm_exchange (x : List Exchange) : Calm (base.exchange x) :=
  Calm.of (s := base.rowBlock) (by unfold Calm; decide +kernel) _ rfl rfl

theorem wit_ArrayAndExchangeCommands :
    (∀ q ∈ [List.replicate 15 job5, List.replicate 16 job5], ∃ (s : State) (d a b : Name) (j : Job) (w : List Word) (v : Nat), Plain s 4
      ∧ s.myJob = some j ∧ writable d = true ∧ BlockIs s a 10 w ∧ tmCheck j w = .ok () ∧ s.countFull s.me.task .tile = false ∧ Gives s b v
      ∧ (s.tile s.myTile).arrayQ = q)
    ∧ (∀ q ∈ [List.replicate 3 (default : Exchange), List.replicate 4 default], ∃ (s : State) (d a b : Name) (j : Job) (w : List Word) (v : Nat),
      Plain s 4 ∧ s.myJob = some j ∧ writable d = true ∧ BlockIs s a 7 w ∧ xcCheck j (s.me.vcore / 8) w = .ok ()
      ∧ s.countFull s.me.task (xcScope j w) = false ∧ Gives s b v ∧ (s.tile s.myTile).xqueue = q)
    ∧ (∃ (s : State) (a : Name), Plain s 4 ∧ Sound s a ∧ Map.getD (s.arrSeq s.myCore s.me.job).words ((value s 0 a).toNat % 2 ^ 32) 0 = 0)
    ∧ (∀ q ∈ [[], [job5]], ∃ (s : State) (a : Name), Plain s 4 ∧ Sound s a ∧ (value s 0 a).toNat.testBit 63 = true
      ∧ fieldOf (value s 0 a).toNat 32 31 = 0 ∧ Map.getD (s.arrSeq s.myCore s.me.job).words ((value s 0 a).toNat % 2 ^ 32) 0 ≠ 0
      ∧ (s.tile s.myTile).arrayQ = q ∧ (s.tile s.myTile).arrayRun = none ∧ job5.core = s.myCore ∧ job5.job = s.me.job
      ∧ job5.seq = (value s 0 a).toNat % 2 ^ 32 ∧ job5.post = 0) := by
  refine ⟨fun q h => ⟨base.array q [], .s 3, .s 0, .wt, job0, _, 64, (calm_array q []).plain 4, rfl, rfl, (calm_array q []).block 0 10 (by decide),
      ?_, ?_, ⟨(calm_array q []).sound _ rfl, ?_⟩, ?_⟩,
    fun q h => ⟨base.exchange q, .s 3, .s 0, .wt, job0, _, 64, (calm_exchange q).plain 4, rfl, rfl, (calm_exchange q).block 0 7 (by decide),
      ?_, ?_, ⟨(calm_exchange q).sound _ rfl, ?_⟩, ?_⟩,
    ⟨base, .z, calm_base.plain 4, calm_base.sound _ rfl, by decide +kernel⟩,
    fun q h => ⟨base.array q [], .s 20, (calm_array q []).plain 4, (calm_array q []).sound _ rfl, ?_⟩⟩
  all_goals
    simp only [List.mem_cons, List.not_mem_nil, or_false] at h
    rcases h with rfl | rfl <;> decide +kernel

/-- A tile whose counters are held by the job, but for those from n on. -/
def base.counters (n : Nat) : State := { base with
  tiles := Map.set [] 0 { Tile.fresh with
    counters := Vector.ofFn (fun (i : Fin 64) => if i.val < n then ⟨some 0, 5, none⟩ else ⟨none, 0, none⟩)
    posted := [{ (default : Posted) with entry := 0, v := 3 }] } }
theorem calm_counters (n : Nat) : Calm (base.counters n) := calm_base.of _ rfl rfl

/-- A census in progress to which tile 0 has sent its marker. -/
def base.counted : State := { base.counters 64 with jobs := Map.set [] 0 { job0 with census := some ⟨9, [.ni 0], 0, []⟩ } }
theorem calm_counted : Calm base.counted := calm_base.of _ rfl rfl

theorem wit_TriggerAllocation :
    (∃ (s : State) (d : Name) (c : Fin 64), Plain s 4 ∧ writable d = true ∧ c = 63 ∧ (s.counter s.myTile c.val).owner = none
      ∧ ∀ e, e < c.val → (s.counter s.myTile e).owner ≠ none)
    ∧ (∃ (s : State) (d : Name), Plain s 4 ∧ writable d = true ∧ ∀ e, e < 64 → (s.counter s.myTile e).owner ≠ none)
    ∧ (∃ (s : State) (a : Name), Plain s 4 ∧ Sound s a ∧ (value s 0 a).toNat = 64)
    ∧ (∃ (s : State) (a : Name), Plain s 4 ∧ Sound s a ∧ (value s 0 a).toNat < 64 ∧ (s.counter s.myTile (value s 0 a).toNat).owner ≠ some s.me.job)
    ∧ (∃ (s : State) (a : Name) (j : Job), Plain s 4 ∧ Sound s a ∧ (value s 0 a).toNat < 64
      ∧ (s.counter s.myTile (value s 0 a).toNat).owner = some s.me.job ∧ s.myJob = some j ∧ j.census = none
      ∧ (s.tile s.myTile).posted.filter (fun p => p.job == s.me.job && p.ctr == (value s 0 a).toNat && p.v != 0) ≠ [])
    ∧ (∃ (s : State) (a : Name) (j : Job) (x : Census), Plain s 4 ∧ Sound s a ∧ (value s 0 a).toNat < 64
      ∧ (s.counter s.myTile (value s 0 a).toNat).owner = some s.me.job ∧ s.myJob = some j ∧ j.census = some x
      ∧ x.sent.contains (.ni s.myTile) = true) :=
  ⟨⟨base.counters 63, .h, 63, (calm_counters 63).plain 4, by decide +kernel⟩, ⟨base.counters 64, .z, (calm_counters 64).plain 4, by decide +kernel⟩,
    ⟨base, .wt, calm_base.plain 4, calm_base.sound _ rfl, by decide +kernel⟩, ⟨base, .z, calm_base.plain 4, calm_base.sound _ rfl, by decide +kernel⟩,
    ⟨base.counters 64, .z, job0, (calm_counters 64).plain 4, (calm_counters 64).sound _ rfl, by decide +kernel⟩,
    base.counted, .z, { job0 with census := some ⟨9, [.ni 0], 0, []⟩ }, ⟨9, [.ni 0], 0, []⟩, calm_counted.plain 4, calm_counted.sound _ rfl,
      by decide +kernel⟩

/-- The largest operands of a local and a remote add in s1 to s4, and what is past them; a posted copy in s8 to s14. -/
def base.adds : State := { base.regs [(1, 0x20003F), (2, 0xFFFFFFFF), (3, 0x20000), (4, 0x400000), (8, 0x18000000000), (13, noMsg)] with
  tiles := (base.counters 64).tiles }
/-- Every entry of the trigger unit is taken. -/
def base.fullTrigger : State := { base.adds with
  tiles := Map.set [] 0 { (base.counters 64).tile 0 with posted := (List.range 256).map (fun e => { (default : Posted) with entry := e }) } }
theorem calm_adds : Calm base.adds := by unfold Calm; decide +kernel
theorem calm_fullTrigger : Calm base.fullTrigger := calm_adds.of _ rfl rfl

theorem wit_TriggerCommands :
    (∃ (s : State) (d a : Name), Plain s 4 ∧ writable d = true ∧ Sound s a ∧ (value s 0 a).toNat < 64
      ∧ s.overlapping s.me.task .core [counterLoc s.me.job s.me.vcore (value s 0 a).toNat] = [])
    ∧ (∃ (s : State) (a b : Name), Plain s 4 ∧ Sound s a ∧ Sound s b ∧ 2 ^ 22 ≤ (value s 0 a).toNat)
    ∧ (∃ (s : State) (a b : Name) (j : Job), Plain s 4 ∧ s.myJob = some j ∧ Sound s a ∧ Sound s b ∧ (value s 0 a).toNat < 2 ^ 22
      ∧ fieldOf (value s 0 a).toNat 19 3 ≤ 5 ∧ (value s 1 b).toNat = 2 ^ 32 - 1 ∧ (value s 0 a).toNat.testBit 17 = false
      ∧ s.countFull s.me.task .tile = false)
    ∧ (∃ (s : State) (a b : Name) (j : Job), Plain s 4 ∧ s.myJob = some j ∧ Sound s a ∧ Sound s b ∧ (value s 0 a).toNat < 2 ^ 22
      ∧ fieldOf (value s 0 a).toNat 19 3 ≤ 5 ∧ (value s 1 b).toNat < 2 ^ 32 ∧ (value s 0 a).toNat.testBit 17 = true
      ∧ fieldOf (value s 0 a).toNat 6 11 < j.vtiles ∧ Room s (addScope j s.myTile (fieldOf (value s 0 a).toNat 6 11)) ∧ Holds s)
    ∧ (∃ (s : State) (d a b : Name) (j : Job) (t : Tctl) (w : List Word) (v : Nat) (e : Fin 256), Plain s 4 ∧ s.myJob = some j ∧ writable d = true
      ∧ postedBlock s a = .ok (t, w) ∧ (s.counter s.myTile t.ctr).owner = some s.me.job ∧ postedCheck s j t w = .ok ()
      ∧ blockOk s a (1 + w.length) = .ok () ∧ Gives s b v ∧ (∀ p ∈ (s.tile s.myTile).posted, p.entry ≠ e.val)
      ∧ ∀ f, f < e.val → ∃ p ∈ (s.tile s.myTile).posted, p.entry = f)
    ∧ (∃ (s : State) (d a b : Name) (j : Job) (t : Tctl) (w : List Word) (v : Nat), Plain s 4 ∧ s.myJob = some j ∧ writable d = true
      ∧ postedBlock s a = .ok (t, w) ∧ (s.counter s.myTile t.ctr).owner = some s.me.job ∧ postedCheck s j t w = .ok ()
      ∧ blockOk s a (1 + w.length) = .ok () ∧ Gives s b v ∧ ∀ f, f < 256 → ∃ p ∈ (s.tile s.myTile).posted, p.entry = f) := by
  refine ⟨⟨base.counters 64, .h, .z, (calm_counters 64).plain 4, rfl, (calm_counters 64).sound _ rfl, by decide +kernel⟩,
    ⟨base.adds, .s 4, .s 1, calm_adds.plain 4, calm_adds.sound _ rfl, calm_adds.sound _ rfl, by decide +kernel⟩,
    ⟨base.adds, .s 1, .s 2, job0, calm_adds.plain 4, rfl, calm_adds.sound _ rfl, calm_adds.sound _ rfl, by decide +kernel⟩,
    ⟨base.adds, .s 3, .s 2, job0, calm_adds.plain 4, rfl, calm_adds.sound _ rfl, calm_adds.sound _ rfl, by unfold Room Holds; decide +kernel⟩,
    ⟨base.adds, .h, .s 8, .wt, job0, ⟨0, 0, 6, 0, 0, false, false⟩, [0, 0, 0, 0, noMsg, 0], 64, 1, calm_adds.plain 4, rfl, rfl, ?_⟩,
    base.fullTrigger, .h, .s 8, .wt, job0, ⟨0, 0, 6, 0, 0, false, false⟩, [0, 0, 0, 0, noMsg, 0], 64, calm_fullTrigger.plain 4, rfl, rfl, ?_⟩
  · refine ⟨by decide +kernel, by decide +kernel, by decide +kernel, by decide +kernel, ⟨calm_adds.sound _ rfl, by decide +kernel⟩,
      by decide +kernel, by decide +kernel⟩
  · refine ⟨by decide +kernel, by decide +kernel, by decide +kernel, by decide +kernel, ⟨calm_fullTrigger.sound _ rfl, by decide +kernel⟩, ?_⟩
    decide +kernel

/-- A definition of one tile and all its cores with 32 elements, whose root is a given virtual core; the block of `nred` with a given
address at s0. -/
def tree0 (root : Nat) : NDef := { (default : NDef) with block := [BitVec.ofNat 64 (2 ^ 13 + 2 ^ 25 + 255 * 2 ^ 34 + root * 2 ^ 42), 1, 0] }
def base.reduction (l : List NDef) : State := { base.regs [(1, 0xFF80)] with jobs := Map.set [] 0 { job0 with ndefs := l } }
theorem calm_reduction (l : List NDef) : Calm (base.reduction l) :=
  Calm.of (s := base.regs [(1, 0xFF80)]) (by unfold Calm; decide +kernel) _ rfl rfl

theorem wit_ReductionContribution :
    (∀ l ∈ [[], [{ tree0 1 with block := [] }], [tree0 1], [tree0 0]], ∃ (s : State) (a b : Name) (j : Job) (w : List Word) (v : Nat), Plain s 4
      ∧ s.myJob = some j ∧ BlockIs s a 2 w ∧ readable b = true ∧ wordAt w 0 < 64 ∧ wordAt w 1 < 2 ^ 16 ∧ j.ndefs = l ∧ Room s .tile ∧ Gives s b v)
    ∧ takesPart [] 0 = false
    ∧ (∀ r ∈ [0, 1], let d := tree0 r; takesPart d.block 0 = true ∧ 0xFF80 + 4 * ndElems d.block ≤ min 0x10000 (4096 * job0.lsize)
      ∧ 0xFF80 % 4 = 0 ∧ ndRoot d.block = r ∧ firstBad base.eccLocal (locAddr 0 0 0xFF80) (4 * ndElems d.block) = none ∧ d.late = 0
      ∧ base.writes = []) := by
  refine ⟨fun l h => ⟨base.reduction l, .s 0, .wt, { job0 with ndefs := l }, _, 64, (calm_reduction l).plain 4, rfl,
    (calm_reduction l).block 0 2 (by decide), rfl, ?_, ?_, rfl, ?_, ⟨(calm_reduction l).sound _ rfl, ?_⟩⟩, by decide +kernel, by decide +kernel⟩
  all_goals
    simp only [List.mem_cons, List.not_mem_nil, or_false] at h
    rcases h with rfl | rfl | rfl | rfl <;> (try unfold Room) <;> decide +kernel

theorem wit_Fences : ∃ s : State, Plain s 4 ∧ s.me.startFault = none ∧ s.me.dying = false ∧ s.me.ending = false
    ∧ s.ctxs.get? s.cur = some s.me :=
  ⟨base, calm_base.plain 4, rfl, rfl, rfl, by decide +kernel⟩

/-- Selectors of the registers, each with its last index, by s-register; and values. -/
def base.selectors : State := { base.regs [(0, 0), (1, 1), (2, 2), (3, 3), (4, 0x304), (5, 0xF05), (6, 0x3F06), (7, 7), (8, 0x308), (9, 9), (10, 0x1F0A),
  (11, 11), (12, 12), (13, 13), (14, 14), (15, 15), (16, 0xFF), (17, 0x100), (18, 0x11111111), (19, 0x010701C0)] with tiles := (base.counters 64).tiles, clk := 1024 }
/-- The same in an unprivileged task. -/
def base.selectorsOf (p : Bool) : State := base.selectors.setMe { base.selectors.me with privileged := p }
theorem calm_selectorsOf (p : Bool) : Calm (base.selectorsOf p) := by cases p <;> (unfold Calm; decide +kernel)

theorem wit_SystemRegisters :
    (∀ e ∈ [(0, 0), (1, 0), (2, 0), (3, 0), (4, 3), (5, 15), (6, 63), (7, 0), (8, 3), (9, 0), (10, 31), (11, 0), (12, 0), (13, 0), (14, 0), (15, 0)],
      ∀ p : Bool, ∃ (s : State) (d a : Name) (j : Job), Plain s 4 ∧ s.myJob = some j ∧ Sound s a ∧ writable d = true
        ∧ (value s 0 a).toNat = e.1 + 256 * e.2 ∧ s.me.privileged = p ∧ j.copyClk + 1024 ≤ s.clk ∧ e.2 < 64
        ∧ (s.counter s.myTile e.2).owner = some s.me.job)
    ∧ (∃ (s : State) (b c d e : Name), Sound s b ∧ Sound s c ∧ Sound s d ∧ Sound s e ∧ (value s 1 b).toNat = 255 ∧ (value s 1 c).toNat = 256
      ∧ vfmtValid (value s 1 d).toNat = true ∧ ((value s 1 e).toNat < 2 ^ 32 ∧ ∀ i, i < 8 → fieldOf (value s 1 e).toNat (4 * i) 4 = 1)
      ∧ ∃ j, s.myJob = some j ∧ actionOk j (value s 1 b) = true) := by
  have look (e : Nat × Nat) (p : Bool) (n : Fin 32) (h : (value (base.selectorsOf p) 0 (.s n)).toNat = e.1 + 256 * e.2)
      (q : (base.selectorsOf p).me.privileged = p) (r : job0.copyClk + 1024 ≤ (base.selectorsOf p).clk ∧ e.2 < 64
        ∧ ((base.selectorsOf p).counter (base.selectorsOf p).myTile e.2).owner = some (base.selectorsOf p).me.job) :
      ∃ (s : State) (d a : Name) (j : Job), Plain s 4 ∧ s.myJob = some j ∧ Sound s a ∧ writable d = true
        ∧ (value s 0 a).toNat = e.1 + 256 * e.2 ∧ s.me.privileged = p ∧ j.copyClk + 1024 ≤ s.clk ∧ e.2 < 64
        ∧ (s.counter s.myTile e.2).owner = some s.me.job :=
    ⟨base.selectorsOf p, .h, .s n, job0, (calm_selectorsOf p).plain 4, rfl, (calm_selectorsOf p).sound _ rfl, rfl, h, q, r⟩
  constructor
  · intro e h p
    refine look e p (Fin.ofNat 32 e.1) ?_ ?_ ?_
    all_goals
      revert p e
      decide +kernel
  · have t := calm_selectorsOf true
    refine ⟨base.selectorsOf true, .s 16, .s 17, .s 19, .s 18, t.sound _ rfl, t.sound _ rfl, t.sound _ rfl, t.sound _ rfl, ?_⟩
    exact ⟨by decide +kernel, by decide +kernel, by decide +kernel, by decide +kernel, job0, rfl, by decide +kernel⟩

theorem wit_SystemControl :
    (∃ (s : State) (j : Job), Plain s 4 ∧ s.myJob = some j ∧ s.me.privileged = false)
    ∧ (∃ (s : State) (a b : Name) (j : Job), Plain s 4 ∧ s.myJob = some j ∧ s.me.privileged = true ∧ Sound s a ∧ Sound s b
      ∧ fieldOf (value s 1 b).toNat 32 31 = 0 ∧ (value s 1 b).toNat % 2 ^ 32 = 0)
    ∧ (∃ (s : State) (a b : Name) (j : Job), Plain s 4 ∧ s.myJob = some j ∧ Sound s a ∧ Sound s b
      ∧ fieldOf (value s 1 b).toNat 32 31 = 0 ∧ (value s 1 b).toNat % 2 ^ 32 ≠ 0) :=
  ⟨⟨base.poor, job0, calm_poor.plain 4, rfl, rfl⟩,
    ⟨base, .z, .z, job0, calm_base.plain 4, rfl, rfl, calm_base.sound _ rfl, calm_base.sound _ rfl, by decide +kernel⟩,
    base, .z, .wt, job0, calm_base.plain 4, rfl, calm_base.sound _ rfl, calm_base.sound _ rfl, by decide +kernel⟩

/-! ### The machine as a whole -/

/-- A core whose turn it is, with a given word at its one task's PC. -/
def base.turn (w : Nat) : State := { placeWord State.reset 32 w with jobs := Map.set [] 0 job0 }

theorem wit_StepRunsDecodedInstruction :
    (∃ (s : State) (key : Nat), s.turns = [.core 0 0] ∧ s.limmOpen = some key ∧ coreOf key = 8 * 0 + 0
      ∧ (let u := { s with turns := [], cur := key }
        badParcel u u.me u.me.pc = none ∧ decode (fetchBytes u u.me u.me.pc) = .ok (.movi (.s 2) 0x40 mk, 4)
          ∧ Stated.waits (.movi (.s 2) 0x40 mk) u = false))
    ∧ (∃ (s : State) (key : Nat), s.turns = [.core 0 0] ∧ s.limmOpen = some key ∧ coreOf key = 8 * 0 + 0
      ∧ (let u := { s with turns := [], cur := key }
        badParcel u u.me u.me.pc = none ∧ decode (fetchBytes u u.me u.me.pc) = .ok (.stl (.s 3) (.s 1) 2 .d true mk, 4)
          ∧ Stated.waits (.stl (.s 3) (.s 1) 2 .d true mk) u = true))
    ∧ (∃ (s : State) (key : Nat), s.turns = [.core 0 0] ∧ s.limmOpen = some key ∧ coreOf key = 8 * 0 + 0
      ∧ (let u := { s with turns := [], cur := key }
        badParcel u u.me u.me.pc = none ∧ (decode (fetchBytes u u.me u.me.pc)).isOk = false))
    ∧ (∀ w ∈ [0x00400891, 0], ∃ (s : State), s.turns = [.core 0 0] ∧ s.limmOpen = none ∧ (s.core 0).lastClk ≠ some s.clk
      ∧ turnWaits { s with turns := [] } 0 0 = false ∧ mayIssue { s with turns := [] } 0 = true
      ∧ (let r := { s with turns := [] }
        let g := grantOf r 0 (s.core 0)
        let x := { (r.updCore 0 (fun x => { x with lastClk := some s.clk, anyLast := g.2.2 })) with ctxs := bumpWatchdogs 0 g.1 s.ctxs }
        g.2.1 = some 0 ∧ pickContext (s.core 0).hcLast (eligibleOf x 0 0) = some 0
          ∧ (let u := present (x.updCore 0 (fun x => { x with hcLast := 0 })) 0
            badParcel u u.me u.me.pc = none
              ∧ (decode (fetchBytes u u.me u.me.pc)).isOk = decide (w ≠ 0))))
    ∧ (∃ (s : State) (i : Instr), s.turns = [.event i] ∧ i ≠ .notAnInstruction ∧ i.word = none)
    ∧ (∃ (s : State) (i : Instr), s.turns = [.event i] ∧ i ≠ .notAnInstruction ∧ i.word ≠ none)
    ∧ (∃ s : State, s.turns = [.tick] ∧ s.tlbBusy = false ∧ clkDone { s with turns := [] } = true)
    ∧ (∃ s : State, s.turns = [.tick] ∧ clkDone { s with turns := [] } = false)
    ∧ (∃ s : State, s.turns = []) :=
  ⟨⟨{ base.turn 0x00400891 with limmOpen := some 0 }, 0, by decide +kernel⟩,
    ⟨{ base.turn 0x0AC10D61 with limmOpen := some 0, accs := [⟨5, 1, .core, .core, false, [], true⟩] }, 0, by decide +kernel⟩,
    ⟨{ base.turn 0 with limmOpen := some 0 }, 0, by decide +kernel⟩,
    fun w h => by
      refine ⟨base.turn w, rfl, rfl, ?_⟩
      revert w
      decide +kernel,
    ⟨{ State.reset with turns := [.event (.taskStart 0 0)] }, .taskStart 0 0, by decide +kernel⟩,
    ⟨{ State.reset with turns := [.event (.ctlNop mk)] }, .ctlNop mk, by decide +kernel⟩,
    ⟨{ State.reset with turns := [.tick] }, by decide +kernel⟩, ⟨{ base with turns := [.tick] }, by decide +kernel⟩, State.reset, rfl⟩

theorem wit_StepKeepsMemoryOk : MemoryOk State.reset ∧ ∃ t, step (State.reset.withFetchWord 32 0x00400891) = .next t :=
  ⟨by unfold MemoryOk; decide +kernel, by
    have h : (match step (State.reset.withFetchWord 32 0x00400891) with | .next _ => true | _ => false) = true := by decide +kernel
    split at h
    · exact ⟨_, by assumption⟩
    · cases h⟩

theorem wit_MemoriesAreCanonical : ∃ m m' : Memory, m.wf = true ∧ m'.wf = true ∧ m ≠ [] ∧ ∀ a, m.get a = m'.get a :=
  ⟨[(5, 1)], [(5, 1)], rfl, rfl, by decide, fun _ => rfl⟩

/-- A job whose action entry for every cause is given, and a trap. -/
def jobActs (e : Word) : Job := { job0 with acts := List.replicate 32 e }
def trap0 : Trap := ⟨.swtrap, 0, 0, 5⟩

theorem wit_TakingATrap :
    (∀ e ∈ [0, 1, 3], ∃ (s : State) (j : Job), s.job? 0 = some j ∧ j.census = none ∧ actAct (j.actEntry s trap0.cause.code) = e)
    ∧ (∀ e ∈ [0, 1, 2, 3], ∀ r : Bool, ∃ (s : State) (c : Ctx) (j : Job), s.ctxs.get? 0 = some c ∧ s.job? c.job = some j ∧ c.outs = []
      ∧ j.discarding = [] ∧ j.census = none ∧ c.vcore < 2 ^ 14 ∧ trap0.origin < 8 ∧ trap0.sub < 256
      ∧ actAct (taskEntry s j c trap0) = e ∧ c.replayable = r ∧ c.replays = 14 ∧ c.wt ≠ 0 ∧ j.drawq = [] ∧ j.ownDraws = [])
    ∧ (∃ (s : State) (c : Ctx) (j : Job), s.ctxs.get? 0 = some c ∧ s.job? c.job = some j ∧ c.outs = [] ∧ j.discarding = [] ∧ j.census = none
      ∧ actAct (taskEntry s j c trap0) = 1 ∧ c.replayable = true ∧ c.replays < 15 ∧ c.wt = 0 ∧ j.drawq = [] ∧ j.ownDraws = [])
    ∧ (∃ (s : State) (c : Ctx) (j : Job), s.ctxs.get? 0 = some c ∧ s.job? c.job = some j ∧ actAct (taskEntry s j c trap0) = 1
      ∧ c.replayable = true ∧ 15 ≤ c.replays) := by
  refine ⟨fun e h => ⟨base.job (fun _ => jobActs (BitVec.ofNat 64 e)), jobActs (BitVec.ofNat 64 e), rfl, rfl, ?_⟩, fun e h r =>
    ⟨{ (base.on (fun c => { c with replayable := r, replays := 14 })) with jobs := Map.set [] 0 (jobActs (BitVec.ofNat 64 e)) },
      { base.me with replayable := r, replays := 14 }, jobActs (BitVec.ofNat 64 e), rfl, rfl, rfl, rfl, rfl, (by decide +kernel : base.me.vcore < 2 ^ 14), by decide,
      by decide, ?_, rfl, rfl, (by decide +kernel : base.me.wt ≠ 0), rfl, rfl⟩,
    ⟨{ (base.on (fun c => { c with replayable := true, wt := 0 })) with jobs := Map.set [] 0 (jobActs 1) },
      { base.me with replayable := true, wt := 0 }, jobActs 1, by decide +kernel⟩,
    { (base.on (fun c => { c with replayable := true, replays := 15 })) with jobs := Map.set [] 0 (jobActs 1) },
      { base.me with replayable := true, replays := 15 }, jobActs 1, by decide +kernel⟩
  · revert e; decide +kernel
  · revert r e; decide +kernel

theorem wit_FixedLatencyResults : ∃ (s : State) (c : Ctx), s.ctxs.get? s.cur = some c ∧ c.pend = [] ∧ s.ops = [] :=
  ⟨base, base.me, by decide +kernel⟩

theorem wit_RetiringAndFlags :
    (∃ t : State, t.me.loops = [⟨0, 4, 2⟩] ∧ t.me.pc + 4 = 4) ∧ (∃ t : State, t.me.loops = [⟨0, 4, 1⟩, ⟨0, 4, 2⟩] ∧ t.me.pc + 4 = 4) :=
  ⟨⟨base.on (fun c => { c with loops := [⟨0, 4, 2⟩] }), by decide +kernel⟩,
    base.on (fun c => { c with loops := [⟨0, 4, 1⟩, ⟨0, 4, 2⟩] }), by decide +kernel⟩

theorem wit_MemoryFrame_RegisterFrame : ∀ i ∈ [Instr.aluAdd (.s 1) .wt .wt mk, .stt (.s 1) .z 0 .d false mk, .gst (.s 1) .z 0 .d false mk], i.word ≠ none
    ∧ (next i base (fun t => (t.ctxs.get? base.cur).any (fun c => c.task == base.me.task && !c.dying))) = some true := by
  intro i h
  simp only [List.mem_cons, List.not_mem_nil, or_false] at h
  rcases h with rfl | rfl | rfl <;> decide +kernel

-- R334, the worked record
theorem test_fault_record : next (.ldl (.s 1) (.s 2) 0 .d false false mk)
    { (base.on (fun c => { c with vcore := 13, msg := 0x08000000, segPc := 0x40, segOff := 3, pc := 0x4C, s := c.s.set 2 0x10004 })) with
      jobs := Map.set [] 0 { jobActs 3 with vtiles := 2, place := [0, 1] } }
    (fun t => t.outs.map (fun o => o.msg.args.take 3)) = some [[0x00000002000D0004, 0x0000000300000040, 0x0000000000010004]] := by
  decide +kernel

/-! ### Events of a tile, of the messages and of the home -/

/-- The small state with one packet before its destination, a job and clk 64. -/
def ev (p : Packet) (j : Job) : State := { base with packets := [p], jobs := Map.set [] 0 j, clk := 64 }

/-- A packet that has come to a unit from another with a content. -/
def pkt (src dst : Endpoint) (b : Body) : Packet := { pkt0 with src := src, dst := dst, body := b }

/-- A message of KIND 1 or 0 in a mailbox slot, and core 7 of tile 0 with it, job 0 being resident. -/
def slotK (kind : Nat) : Slot := { (default : Slot) with msg := { msg0 with hdr := BitVec.ofNat 64 (5 * 2 ^ 32 + kind * 2 ^ 30) }, vcore := 7 }
def ev.core (x : Slot) : State := { base with clk := 64, cores := Map.set [] 7 { Core.fresh with mailbox := [x], residents := [⟨0, 0⟩] } }

theorem wit_TaskEvents :
    (∃ (s : State) (x : Slot) (j : Job) (e : Word × Word), (s.core 7).startClk ≠ some s.clk ∧ (s.core 7).reserve = none
      ∧ s.ctxs.get? 77 = none ∧ (∀ h, h < 7 → s.ctxs.get? (70 + h) ≠ none) ∧ (candidates s (s.core 7)).head? = some x
      ∧ Stated.MayStart s 7 x j e ∧ rtVregs e = 0 ∧ rtVregs e + drainWants s 7 (s.core 7) ≤ freeVregs s 7)
    ∧ (∃ (s : State) (x : Slot) (j : Job) (e : Word × Word), s.ctxs.get? 78 = none
      ∧ (s.core 7).mailbox.find? (fun y => hdrKind y.msg.hdr == 1) = some x ∧ x.ready ≤ s.clk ∧ Stated.MayStart s 7 x j e)
    ∧ (∃ (s : State) (d : DrainRow) (rest : List DrainRow) (j : Job) (e : Word × Word), (s.tile 0).drains = d :: rest ∧ s.halted = none
      ∧ s.inReset = false ∧ s.job? d.job = some j ∧ j.routine? d.cls = some e ∧ 1 ≤ rtVregs e ∧ s.ctxs.get? (10 * d.core + 9) = none
      ∧ j.discarding = [] ∧ (s.tile 0).badRoutines.contains (d.job, d.cls) = false ∧ (s.core d.core).reserve = none
      ∧ rtVregs e = 32 ∧ rtVregs e ≤ freeVregs s d.core)
    ∧ (∃ (s : State) (c : Ctx) (j : Job), s.ctxs.get? 0 = some c ∧ c.ending = true ∧ c.dying = false ∧ c.outs = [] ∧ c.startFault = none
      ∧ s.job? c.job = some j ∧ j.census = none ∧ c.wt ≠ 0)
    ∧ (∃ (s : State) (c : Ctx), s.ctxs.get? 0 = some c ∧ c.budget = 1 ∧ c.budget < c.watchdog ∧ c.dying = false) := by
  refine ⟨⟨{ ev.core (slotK 0) with ctxs := (List.range 7).map (fun h => (70 + h, { sampleCtx 1 with v := [] })) }, slotK 0, job0,
      (0x8000000000000000, 0), ?_⟩, ⟨ev.core (slotK 1), slotK 1, job0, (0x8000000000000000, 0), ?_⟩,
    ⟨{ base with
        ctxs := [], jobs := Map.set [] 0 { job0 with rtab := List.replicate 256 (BitVec.ofNat 64 (2 ^ 63 + 2 ^ 22), 0) }
        tiles := Map.set [] 0 { Tile.fresh with drains := [default] } },
      default, [], { job0 with rtab := List.replicate 256 (BitVec.ofNat 64 (2 ^ 63 + 2 ^ 22), 0) },
      (BitVec.ofNat 64 (2 ^ 63 + 2 ^ 22), 0), by decide +kernel⟩,
    ⟨base.on (fun c => { c with ending := true }), { base.me with ending := true }, job0, by decide +kernel⟩,
    base.on (fun c => { c with budget := 1, watchdog := 2 }), { base.me with budget := 1, watchdog := 2 }, by decide +kernel⟩
  all_goals unfold Stated.MayStart; decide +kernel

/-- A refusal, an acceptance, an acknowledgement before tile 0, and their message there. -/
def ev.out (b : Body) (o : OutMsg) : State := { ev (pkt (.ni 0) (.ni 0) b) job0 with outs := [o] }
/-- The same with core 0's mailbox holding n messages of the job. -/
def ev.full (n : Nat) : State := { ev.out (.message 7) out0 with
  cores := Map.set [] 0 { Core.fresh with mailbox := List.replicate n (slotK 0), residents := [⟨0, 0⟩] } }

theorem wit_MessageEvents :
    (∀ r : Bool, ∃ (s : State) (p : Packet) (o : OutMsg) (j : Job) (tile : Nat), s.arrived? p.id = some p ∧ p.dst = .ni tile
      ∧ p.body = .message o.id ∧ s.out? o.id = some o ∧ s.job? p.job = some j ∧ p.hdrEcc = 0 ∧ o.msg.ecc = 0 ∧ j.discarding = []
      ∧ slotFree s o.msg.job j (j.core (chooseCore s o.msg.job j o.msg tile)) (hdrKind o.msg.hdr == 3) = r)
    ∧ (∃ (s : State) (p : Packet) (o : OutMsg), s.arrived? p.id = some p ∧ p.body = .refused o.id ∧ s.out? o.id = some o ∧ o.tries + 1 = 63)
    ∧ (∃ (s : State) (o : OutMsg) (j : Job), s.out? o.id = some o ∧ s.job? o.msg.job = some j ∧ o.state = .refused ∧ o.draw = 0 ∧ o.far = none
      ∧ o.due ≤ s.clk ∧ j.ringOffer ≠ some o.id ∧ o.tries = 63)
    ∧ (∃ (s : State) (j : Job) (k : Nat) (m : Msg) (rest : List (Nat × Msg)), s.job? 0 = some j ∧ j.ringOffer = none ∧ j.ring = (k, m) :: rest
      ∧ m.ecc = 0)
    ∧ (∃ (s : State) (p : Packet) (o : OutMsg) (j : Job) (v : Nat), s.arrived? p.id = some p ∧ p.body = .accepted o.id v ∧ s.out? o.id = some o
      ∧ o.origin = 0 ∧ s.job? o.msg.job = some j ∧ j.census = none)
    ∧ (∃ (s : State) (p : Packet) (task acc : Nat) (r : TaskRec), s.arrived? p.id = some p ∧ p.body = .holdAck task acc
      ∧ s.tasks.get? task = some r ∧ r.holds = 2)
    ∧ (∃ (s : State) (p : Packet) (task acc : Nat) (r : TaskRec) (j : Job), s.arrived? p.id = some p ∧ p.body = .holdAck task acc
      ∧ s.tasks.get? task = some r ∧ r.holds = 1 ∧ r.heldUnit = true ∧ (∀ e ∈ s.ctxs, e.2.task ≠ task) ∧ s.job? r.job = some j ∧ j.census = none)
    ∧ (∃ (s : State) (a : Acc), a ∈ s.accs ∧ a.performed = true) :=
  ⟨fun r => ⟨ev.full (if r then 231 else 232), pkt (.ni 0) (.ni 0) (.message 7), out0, job0, 0, by cases r <;> decide +kernel⟩,
    ⟨ev.out (.refused 7) { out0 with tries := 62 }, pkt (.ni 0) (.ni 0) (.refused 7), { out0 with tries := 62 }, by decide +kernel⟩,
    ⟨ev.out (.refused 7) { out0 with tries := 63, state := .refused, due := 64, far := none },
      { out0 with tries := 63, state := .refused, due := 64, far := none }, job0, by decide +kernel⟩,
    ⟨base.job (fun j => { j with ring := [(3, msg0)] }), { job0 with ring := [(3, msg0)] }, 3, msg0, [], by decide +kernel⟩,
    ⟨ev.out (.accepted 7 7) out0, pkt (.ni 0) (.ni 0) (.accepted 7 7), out0, job0, 7, by decide +kernel⟩,
    ⟨{ ev.out (.holdAck 9 0) out0 with tasks := [(9, ⟨0, 0, 0, 2, true⟩)] }, pkt (.ni 0) (.ni 0) (.holdAck 9 0), 9, 0, ⟨0, 0, 0, 2, true⟩,
      by decide +kernel⟩,
    ⟨{ ev.out (.holdAck 9 0) out0 with tasks := [(9, ⟨0, 0, 0, 1, true⟩)] }, pkt (.ni 0) (.ni 0) (.holdAck 9 0), 9, 0, ⟨0, 0, 0, 1, true⟩, job0,
      by decide +kernel⟩,
    { base with accs := [⟨5, 1, .tile, .core, false, [], true⟩] }, ⟨5, 1, .tile, .core, false, [], true⟩, by decide +kernel⟩

/-- A packet before the home of job 0. -/
def toHome (b : Body) : Packet := pkt (.ni 5) (.unit 0) b
theorem alone_of (b : Body) (j : Job) (h : Nat) (c : j.die = 0 ∧ j.homeAt ≠ some 64 ∧ j.drawq = [] ∧ j.ownDraws = [] ∧ j.spill = [] ∧ j.census = none ∧ h ≠ 2 ^ j.wtotal) :
    Stated.AloneAtHome (ev (toHome b) j) (toHome b) j h := by
  refine ⟨by simp [ev, toHome, pkt, pkt0, State.arrived?, State.packet?], by rw [c.1]; rfl, rfl, rfl, ?_, c.2.1, c.2.2.1, c.2.2.2.1, c.2.2.2.2.1, c.2.2.2.2.2.1,
    c.2.2.2.2.2.2⟩
  simp [homeArrivals, ev, toHome, pkt, pkt0, c.1]

def held (n : Nat) : Job := { job0 with homew := n, armed := true, qvcore := 7, qclass := 255, copyClk := 1024 }
def draw0 (n : Nat) : OutMsg := { out0 with draw := n, order := 3, state := .refused, due := 64 }
def request0 (k : ReqKind) (b : Body) : State := { ev (toHome b) job0 with reqs := [{ req0 with kind := k }] }
def counting : Job := { job0 with census := some ⟨9, [.ni 5], 2341, []⟩ }
/-- A job whose unit 0 of level 0 is to be reinjected. -/
def retried : Job := { job0 with retryDue := [(0, 0)], roots := [msg0] }

theorem wit_HomeEvents :
    (∀ lost killed : Bool, ∃ (s : State) (p : Packet) (j : Job) (w : Nat), p.body = .pod p.job w lost killed ∧ Stated.AloneAtHome s p j (j.homew + w))
    ∧ (∃ (s : State) (p : Packet) (j : Job) (w : Nat), p.body = .pod p.job w false false ∧ s.arrived? p.id = some p ∧ p.dst = .unit j.die
      ∧ s.job? p.job = some j ∧ j.homeAt = some s.clk)
    ∧ (∃ (s : State) (p : Packet) (j : Job) (w : Nat), p.body = .pod p.job w false false ∧ Stated.AloneAtHome s p j (2 ^ j.wtotal + 1)
      ∧ j.homew + w = 2 ^ j.wtotal ∧ j.armed = true ∧ j.phase = .running ∧ j.uncertain = false ∧ j.retryDue = [] ∧ j.saveReq = none)
    ∧ (∃ (s : State) (p : Packet) (j : Job) (task v c : Nat), Stated.AloneAtHome s p j j.homew ∧ p.body = .arm p.job task v c)
    ∧ (∃ (s : State) (p : Packet) (j : Job) (task : Nat), Stated.AloneAtHome s p j j.homew ∧ p.body = .disarm p.job task)
    ∧ (∀ n ∈ [4, 5], ∃ (s : State) (p : Packet) (j : Job) (o : OutMsg), Stated.AloneAtHome s p j j.homew ∧ p.body = .message o.id
      ∧ s.out? o.id = some o ∧ o.draw = n ∧ o.msg.ecc = 0 ∧ j.homew = 4 ∧ j.homew < 2 ^ j.wtotal ∧ j.phase ≠ .loading)
    ∧ (∃ (s : State) (o : OutMsg), s.out? o.id = some o ∧ o.draw ≠ 0 ∧ o.state = .refused ∧ o.due ≤ s.clk)
    ∧ (∃ (s : State) (p : Packet) (j : Job) (m : Msg) (dev out v : Nat), Stated.AloneAtHome s p j j.homew ∧ p.body = .farSend m dev out v
      ∧ p.job < 2 ^ 20 ∧ m.ecc = 0 ∧ j.homew < min v (2 ^ j.wtotal))
    ∧ (∀ k ∈ [ReqKind.census, .wloss], ∃ (s : State) (p : Packet) (j : Job) (r : Req), s.arrived? p.id = some p ∧ p.body = .request r.id
      ∧ s.req? r.id = some r ∧ s.job? p.job = some j ∧ j.census = none ∧ r.kind = k ∧ r.job = p.job ∧ cmNoMsg r.cm = false)
    ∧ (∃ (s : State) (node : Nat) (j : Job) (e : Endpoint) (c : Census), s.job? 0 = some j ∧ j.census = some c ∧ nodeOf node = some e
      ∧ e ≠ .unit j.die ∧ c.sent.contains e = false ∧ nodeBusy s 0 e = false ∧ node = 2343)
    ∧ (∃ (s : State) (p : Packet) (j : Job) (c : Census) (node : Nat), s.arrived? p.id = some p ∧ p.body = .marker p.job node
      ∧ s.job? p.job = some j ∧ j.census = some c ∧ c.got + 1 < markerCount ∧ behindPod s p = false)
    ∧ (∃ (s : State) (j : Job), s.job? 0 = some j ∧ s.clk % 1024 = 0 ∧ j.copyClk ≠ s.clk)
    ∧ (∃ (s : State) (level unit : Nat) (j : Job) (m : Msg), s.job? 0 = some j ∧ j.retryDue = [(level, unit)]
      ∧ j.discarding.contains (level, unit) = false ∧ j.drawq = [] ∧ j.ownDraws = []
      ∧ j.roots.filter (fun m => inUnit j level unit (hdrVcore m.hdr)) = [m]) := by
  refine ⟨fun l k => ⟨ev (toHome (.pod 0 59 l k)) (held 4), toHome (.pod 0 59 l k), held 4, 59, rfl, alone_of _ _ _ (by decide +kernel)⟩,
    ⟨ev (toHome (.pod 0 5 false false)) { held 4 with homeAt := some 64 }, toHome (.pod 0 5 false false), { held 4 with homeAt := some 64 }, 5,
      by decide +kernel⟩,
    ⟨ev (toHome (.pod 0 60 false false)) (held 4), toHome (.pod 0 60 false false), held 4, 60, rfl, alone_of _ _ _ (by decide +kernel),
      by decide +kernel⟩,
    ⟨_, toHome (.arm 0 3 7 255), job0, 3, 7, 255, alone_of _ _ _ (by decide +kernel), rfl⟩,
    ⟨_, toHome (.disarm 0 3), job0, 3, alone_of _ _ _ (by decide +kernel), rfl⟩,
    fun n _ => ⟨{ ev (toHome (.message 7)) (held 4) with outs := [draw0 n] }, toHome (.message 7), held 4, draw0 n,
      alone_of (.message 7) (held 4) 4 (by decide +kernel), rfl, rfl, rfl, rfl, rfl, by decide +kernel⟩,
    ⟨ev.out (.holdAck 0 0) (draw0 5), draw0 5, by decide +kernel⟩,
    ⟨_, toHome (.farSend msg0 3 8 5), held 4, msg0, 3, 8, 5, alone_of _ _ _ (by decide +kernel), rfl, by decide +kernel⟩,
    fun k _ => ⟨request0 k (.request 9), toHome (.request 9), job0, { req0 with kind := k }, by
      refine ⟨?_, rfl, rfl, rfl, rfl, rfl, rfl, (by decide +kernel : cmNoMsg req0.cm = false)⟩
      show (ev (toHome (.request 9)) job0).arrived? 21 = some (toHome (.request 9))
      decide +kernel⟩,
    ⟨base.job (fun _ => counting), 2343, counting, .east 15, ⟨9, [.ni 5], 2341, []⟩, by decide +kernel⟩,
    ⟨ev (toHome (.marker 0 5)) counting, toHome (.marker 0 5), counting, ⟨9, [.ni 5], 2341, []⟩, 5, by decide +kernel⟩,
    ⟨{ base.job (fun _ => held 4) with clk := 2048 }, held 4, by decide +kernel⟩,
    base.job (fun _ => retried), 0, 0, retried, msg0, by decide +kernel⟩

/-! ### Events of the mesh, the global memory and the storage -/

/-- The small state with packets, a job and clk 2048. -/
def evs (l : List Packet) : State := { base with packets := l, clk := 2048, outs := [out0] }
/-- A pod of the job at a place, on its way from the far corner of the mesh. -/
def pod0 (id : Nat) (at_ : Pos) : Packet := { pkt (.ni 2047) (.unit 0) (.pod 0 5 false false) with id := id, pos := at_, cls := .weight }
/-- Two nodes of a chain that forwards one chunk; and its packets. -/
def chunk1 (sp : Space) (core : Option Nat) : ChainChunk := ⟨sp, core, 8, [1, 2]⟩
def chain0 (w g : List Nat) (x : ChainChunk) : Chain := ⟨0, [3, 4], w, g, [x]⟩
def chained (src dst : Endpoint) (b : Body) (c : Chain) (n : Nat) : State := { (ev (pkt src dst b) { job0 with place := [3, 4], vtiles := 2 }) with
  chains := [c], tiles := Map.set (Map.set [] 3 { Tile.fresh with chainBufs := n }) 4 { Tile.fresh with chainBufs := n } }

theorem wit_RouterEvents :
    (∀ b ∈ [Body.pod 0 5 false false, .message 7], ∃ (s : State) (p : Packet), s.packet? p.id = some p ∧ p.pos = .source ∧ mayInject s p = true
      ∧ p.body = b ∧ s.out? 7 = some out0 ∧ behindRing s out0 = false ∧ farPacket s p.job p.body = none)
    ∧ (∀ here ∈ [true, false], ∀ b ∈ [Body.pod 0 5 false false, .marker 0 3], ∃ (s : State) (p : Packet) (x y : Nat), s.packet? p.id = some p
      ∧ p.pos = .router x y ∧ p.cls ≠ .reduction ∧ p.ready ≤ s.clk ∧ (s.router x y).gated = false ∧ firstOfLane s p = true ∧ behindPod s p = (b == .pod 0 5 false false)
      ∧ waitingPod s p = none ∧ decide ((x, y) = p.dst.attach) = here ∧ p.body = b)
    ∧ (∃ (s : State) (p q : Packet) (a b : Nat), s.packet? p.id = some p ∧ p.pos = .router a b ∧ p.cls ≠ .reduction ∧ p.ready ≤ s.clk
      ∧ (s.router a b).gated = false ∧ firstOfLane s p = true ∧ waitingPod s p = some q ∧ p.body = .pod 0 5 false false
      ∧ q.body = .pod 0 5 false false)
    ∧ (∃ s : State, (s.router 135 15).gated = false ∧ (s.router 135 15).idle + 1024 ≤ s.clk ∧ (∀ q ∈ s.packets, inRouter q ≠ some (135, 15))
      ∧ (∀ d ∈ (s.router 135 15).defs, d.inputs = [] ∧ d.waiting = [] ∧ d.closing = false))
    ∧ (∃ (s : State) (x y : Nat) (q : Packet), (s.router x y).gated = true ∧ (s.router x y).wake = none ∧ q ∈ s.packets ∧ inRouter q = some (x, y)
      ∧ headAt q ≤ s.clk)
    ∧ (∃ (s : State) (x y w : Nat), (s.router x y).wake = some w ∧ w + 16 ≤ s.clk)
    ∧ (∀ n ∈ [1, 2], ∀ i ∈ [0, 1], ∃ (s : State) (c : Chain) (node : Nat) (p : Packet), s.chains = [c] ∧ c.nodes.idxOf node = i ∧ i < c.nodes.length
      ∧ chainPacket s (c.before i) (.chainGrant c.job i) = none ∧ chainPacket s (.ni node) (.chainReserve c.job i) = some p
      ∧ (s.tile node).chainBufs = n)
    ∧ (∀ i ∈ [0, 1], ∃ (s : State) (c : Chain) (node : Nat) (p : Packet) (x : ChainChunk), s.chains = [c] ∧ c.nodes.idxOf node = i
      ∧ i < c.nodes.length ∧ chainPacket s (c.before i) (.chainGrant c.job i) = some p ∧ c.chunks[chunksSent s c i]? = some x)
    ∧ (∀ x ∈ [chunk1 .code none, chunk1 .scratch none, chunk1 .loc none, chunk1 .loc (some 7)], ∀ i ∈ [0, 1], ∃ (s : State) (c : Chain)
      (node n : Nat) (p : Packet) (j : Job), s.chains = [c] ∧ c.nodes.idxOf node = i ∧ c.written.getD i 0 = n ∧ c.chunks[n]? = some x
      ∧ chainPacket s (.ni node) (.chainChunk c.job i) = some p ∧ s.job? c.job = some j ∧ n + 1 = c.chunks.length) := by
  refine ⟨fun b h => ⟨evs [{ pod0 21 .source with body := b }], { pod0 21 .source with body := b }, ?_⟩,
    fun here h b k => ⟨evs [{ pod0 21 (if here then .router 8 0 else .router 130 12) with body := b }],
      { pod0 21 (if here then .router 8 0 else .router 130 12) with body := b }, if here then 8 else 130, if here then 0 else 12, ?_⟩,
    ⟨evs [pod0 21 (.router 60 3), pod0 22 (.router 60 3)], pod0 21 (.router 60 3), pod0 22 (.router 60 3), 60, 3, by decide +kernel⟩,
    ⟨evs [], by decide +kernel⟩,
    ⟨(evs [pod0 21 (.router 56 3)]).updRouter 56 3 (fun r => { r with gated := true }), 56, 3, pod0 21 (.router 56 3), by decide +kernel⟩,
    ⟨(evs []).updRouter 56 3 (fun r => { r with gated := true, wake := some 2032 }), 56, 3, 2032, by decide +kernel⟩,
    fun n h i k => ⟨chained (if i = 0 then launchAt 3 else .ni 3) (.ni (3 + i)) (.chainReserve 0 i) (chain0 [1, 0] [1, 0] (chunk1 .code none)) n,
      chain0 [1, 0] [1, 0] (chunk1 .code none), 3 + i, pkt (if i = 0 then launchAt 3 else .ni 3) (.ni (3 + i)) (.chainReserve 0 i), ?_⟩,
    fun i k => ⟨chained (.ni (3 + i)) (if i = 0 then launchAt 3 else .ni 3) (.chainGrant 0 i) (chain0 [0, 0] [1, 1] (chunk1 .code none)) 1,
      chain0 [0, 0] [1, 1] (chunk1 .code none), 3 + i, pkt (.ni (3 + i)) (if i = 0 then launchAt 3 else .ni 3) (.chainGrant 0 i), chunk1 .code none, ?_⟩,
    fun x h i k => ⟨chained (if i = 0 then launchAt 3 else .ni 3) (.ni (3 + i)) (.chainChunk 0 i) (chain0 [0, 0] [1, 1] x) 1,
      chain0 [0, 0] [1, 1] x, 3 + i, 0, pkt (if i = 0 then launchAt 3 else .ni 3) (.ni (3 + i)) (.chainChunk 0 i), { job0 with place := [3, 4], vtiles := 2 }, ?_⟩⟩
  all_goals try simp only [List.mem_cons, List.not_mem_nil, or_false] at h
  all_goals try simp only [List.mem_cons, List.not_mem_nil, or_false] at k
  · rcases h with rfl | rfl <;> decide +kernel
  · rcases h with rfl | rfl <;> rcases k with rfl | rfl <;> decide +kernel
  · rcases h with rfl | rfl <;> rcases k with rfl | rfl <;> decide +kernel
  · rcases k with rfl | rfl <;> decide +kernel
  · rcases h with rfl | rfl | rfl | rfl <;> rcases k with rfl | rfl <;> decide +kernel

/-- Page tables at 0: a page of 512 MiB in stack 0 at virtual address 0, a locator of port 2 at 2^29, and no map above. -/
def paged (l : List Packet) : State := { evs l with
  hbm := (((evs l).hbm.write 0 (bytesOfNat 0x10001 8)).write 0x10000 (bytesOfNat 0x20000013 8)).write 0x10008 (bytesOfNat 0x1058 8)
  jobs := Map.set [] 0 { job0 with words := [] } }
def acc0 (k : AccKind) (va pa : Nat) : Access := { access0 with kind := k, va := va, pa := pa, len := 8, data := [1, 2, 3, 4, 5, 6, 7, 8] }
def at_ (a : Access) : Packet := { pkt (.ni 3) (.slice 1 0) (.access a) with ready := 1 }
def entry0 (w : Nat) : TlbEntry := ⟨0, 0, 29, 0x20000011 + w, 0x10000, false⟩
/-- An access of the job stands at station 32, as an engine or a serving unit. -/
theorem atUnit_of (s : State) (a : Access) (sp : Space) (pa : Nat) (h : s.arrived? (at_ a).id = some (at_ a) ∧ a.pa ≠ noPa
    ∧ physSpace a.pa = some (sp, pa) ∧ a.dev = none) : Stated.AtUnit s (at_ a) a sp pa :=
  ⟨h.1, rfl, fun _ e => Endpoint.noConfusion e, h.2.1, h.2.2.1, h.2.2.2⟩
/-- An access walks. -/
def walking (va : Nat) : State := { paged [] with walks := [(5, acc0 .read va noPa)] }
def unit0 (a : Access) : State := paged [at_ a]
def near0 (f : Nat) (b : List Word) : Access := acc0 (.near f b) 0x20000 0x20020000
def back (a : Access) : Packet := pkt (.slice 1 0) (.ni 0) (.performed a)
def backTo (r : Req) (a : Access) : State := { evs [back a] with reqs := [r] }

theorem wit_TranslationEvents :
    (∀ e : TlbEntry, e ∈ [entry0 2, entry0 0] → ∃ (s : State) (p : Packet) (a0 : Access), s.arrived? p.id = some p ∧ p.dst = .slice 1 0
      ∧ p.body = .access a0 ∧ a0.pa = noPa ∧ a0.va < 2 ^ 52 ∧ a0.dev = none ∧ nearBefore { a0 with st := 32 } = none ∧ a0.kind = .write
      ∧ (s.context? a0.job).isSome = true ∧ (tlbHit s (s.stationTlb.getD 32 []) a0.job a0.va).orElse (fun _ => tlbHit s (s.dieTlb.getD 1 []) a0.job a0.va) = some e
      ∧ physSpace (pteFrame e.pte + a0.va % 2 ^ e.bits) = some (.hbm, 0x20000008))
    ∧ (∃ (s : State) (p : Packet) (a0 : Access), s.arrived? p.id = some p ∧ p.dst = .slice 1 0 ∧ p.body = .access a0 ∧ a0.pa = noPa
      ∧ a0.va < 2 ^ 52 ∧ a0.dev = none ∧ nearBefore { a0 with st := 32 } = none ∧ (s.context? a0.job).isSome = true ∧ s.stationTlb.getD 32 [] = [] ∧ s.dieTlb.getD 1 [] = []
      ∧ (s.walks.filter (fun w => w.2.st / 32 == 1)).length < 16)
    ∧ (∀ va ∈ [8, 2 ^ 29, 2 ^ 30], ∃ (s : State) (w : Nat × Access) (j : Job), s.walks.find? (fun x => x.1 == w.1) = some w
      ∧ s.context? w.2.job = some j ∧ w.2.dev = none ∧ w.2.node = 0 ∧ w.2.kind = .read ∧ w.2.va = va
      ∧ s.walk j.ptroot 8 = .page 0x20000008 0x20000013 0x10000 29 ∧ s.walk j.ptroot (2 ^ 29) = .locator 0x1058 0x10008 29
      ∧ s.walk j.ptroot (2 ^ 30) = .nomap ∧ parkedCount s (w.2.st / 32) < 4096)
    ∧ (∃ (s : State) (p : Packet) (a : Access), s.arrived? p.id = some p ∧ p.body = .parkRefused a ∧ p.ready + 64 ≤ s.clk)
    ∧ (∀ k ∈ [AccKind.read, .write, .store], ∃ (s : State) (p : Packet) (a : Access) (sp : Space) (pa : Nat), Stated.AtUnit s p a sp pa ∧ a.kind = k
      ∧ s.writes = [])
    ∧ (∀ n ∈ [1, 2], ∃ (s : State) (p : Packet) (a : Access) (r : Req), s.arrived? p.id = some p ∧ p.body = .performed a ∧ s.req? a.req = some r
      ∧ a.status = 0 ∧ r.kind = .gwr 0 0 8 false ∧ r.left = n)
    ∧ (∃ (s : State) (p : Packet) (a : Access) (r : Req), s.arrived? p.id = some p ∧ p.body = .performed a ∧ s.req? a.req = some r
      ∧ a.status = 0 ∧ r.kind = .grd 0 0 8 true false ∧ 1 < r.left
      ∧ ((s.dropPacket p.id).niPort (tileOf r.core) portLanding (reqSide r) a.landing a.len).isSome = true)
    ∧ (∃ (s : State) (p : Packet) (a : Access) (r : Req), s.arrived? p.id = some p ∧ p.body = .performed a ∧ s.req? a.req = some r
      ∧ a.status = 0 ∧ r.kind = .near 0 [] ∧ a.data.length ≤ 32) := by
  refine ⟨fun e h => ⟨{ evs [at_ (acc0 .write 8 noPa)] with stationTlb := Map.set [] 32 [e] }, at_ (acc0 .write 8 noPa), acc0 .write 8 noPa, ?_⟩,
    ⟨evs [at_ (acc0 .read 8 noPa)], at_ (acc0 .read 8 noPa), acc0 .read 8 noPa, by decide +kernel⟩,
    fun va h => ⟨walking va, (5, acc0 .read va noPa), { job0 with words := [] }, ?_⟩,
    ⟨evs [pkt (.slice 1 0) (.ni 0) (.parkRefused access0)], pkt (.slice 1 0) (.ni 0) (.parkRefused access0), access0, by decide +kernel⟩,
    fun k h => ⟨unit0 (acc0 k 8 0x20000008), at_ (acc0 k 8 0x20000008), acc0 k 8 0x20000008, .hbm, 0x20000008, ?_⟩,
    fun n h => ⟨backTo { req0 with kind := .gwr 0 0 8 false, left := n } access0, back access0, access0,
      { req0 with kind := .gwr 0 0 8 false, left := n }, ?_⟩,
    ⟨backTo { req0 with kind := .grd 0 0 8 true false, left := 2 } access0, back access0, access0,
      { req0 with kind := .grd 0 0 8 true false, left := 2 }, by decide +kernel⟩,
    backTo { req0 with kind := .near 0 [] } access0, back access0, access0, { req0 with kind := .near 0 [] }, by decide +kernel⟩
  · simp only [List.mem_cons, List.not_mem_nil, or_false] at h; rcases h with rfl | rfl <;> decide +kernel
  · simp only [List.mem_cons, List.not_mem_nil, or_false] at h; rcases h with rfl | rfl | rfl <;> decide +kernel
  · simp only [List.mem_cons, List.not_mem_nil, or_false] at h
    rcases h with rfl | rfl | rfl <;> exact ⟨atUnit_of _ _ _ _ (by decide +kernel), rfl, rfl⟩
  · simp only [List.mem_cons, List.not_mem_nil, or_false] at h; rcases h with rfl | rfl <;> decide +kernel

/-- Packets of one near-memory operation each, at one engine, the first the last to have come. -/
def crowd (a : Access) (n : Nat) : State :=
  { paged (at_ a :: (List.range n).map (fun i => { at_ (near0 0 []) with id := 30 + i, ready := 0 })) with stationTlb := Map.set [] 32 [entry0 34] }

theorem wit_TranslationEvents_2 :
    (∀ n ∈ [0, 32], ∃ (s : State) (p : Packet) (a : Access) (b : List Word), Stated.AtUnit s p a .hbm 0x20020000 ∧ a.kind = .near 0 b ∧ a.node = 0
      ∧ (s.context? a.job).isSome = true ∧ isForward p a = false ∧ queuedBefore s p = n)
    ∧ (∀ e ∈ Stated.atomics, ∃ (s : State) (p : Packet) (a : Access) (b : List Word), Stated.AtUnit s p a .hbm 0x20020000 ∧ a.kind = .near e.1 b
      ∧ a.node = 0 ∧ (s.context? a.job).isSome = true ∧ isForward p a = false ∧ queuedBefore s p = 0
      ∧ a.len = (if (wordAt b 0).testBit 13 then 8 else 4) ∧ (s.mem .hbm).wf = true)
    ∧ (∃ (s : State) (p : Packet) (a : Access) (b : List Word), Stated.AtUnit s p a .hbm 0x20020000 ∧ a.kind = .near 4 b ∧ a.node = 0
      ∧ isForward p a = false ∧ queuedBefore s p = 0 ∧ (s.context? a.job).isSome = true
      ∧ Stated.Reaches s ((stationNo p.dst).getD a.st) a.job (wordAt b 4) true .hbm 0x20000010 ∧ leNat (s.hbm.read (0x20020000 + 8) 8) = 0)
    ∧ (∃ (s : State) (p : Packet) (a : Access) (b : List Word), Stated.AtUnit s p a .hbm 0x20020000 ∧ a.kind = .near 5 b ∧ a.node = 0
      ∧ (s.context? a.job).isSome = true ∧ isForward p a = true ∧ p.dst = .slice 1 0 ∧ s.fwdCredits.getD 32 0 < 16 ∧ queuedBefore s p = 0
      ∧ s.writes = [] ∧ Stated.Reaches s 32 a.job (a.va + fieldOf (wordAt b 5) 16 16) false .hbm 0x20020000
      ∧ Stated.Reaches s 32 a.job (a.va + fieldOf (wordAt b 5) 32 16) false .hbm 0x20020000 ∧ leNat ((s.mem .hbm).read 0x20020000 8) = wordAt b 4)
    ∧ (∃ (s : State) (req : Nat) (p : Packet) (a : Access), retryDue? s req = some (p, a)) := by
  refine ⟨fun n h => ⟨crowd (near0 0 []) n, at_ (near0 0 []), near0 0 [], [], ?_⟩,
    fun e h => ⟨crowd (near0 e.1 [0x2000]) 0, at_ (near0 e.1 [0x2000]), near0 e.1 [0x2000], [0x2000], ?_⟩,
    ⟨crowd (near0 4 [0, 0, 0, 0, 16]) 0, at_ (near0 4 [0, 0, 0, 0, 16]), near0 4 [0, 0, 0, 0, 16], [0, 0, 0, 0, 16], ?_⟩,
    ⟨crowd { near0 5 [] with hops := 1 } 0, at_ { near0 5 [] with hops := 1 }, { near0 5 [] with hops := 1 }, [], ?_⟩,
    evs [pkt (.slice 1 0) (.ni 0) (.turnedAway access0 6)], 9, pkt (.slice 1 0) (.ni 0) (.turnedAway access0 6), access0, by decide +kernel⟩
  · simp only [List.mem_cons, List.not_mem_nil, or_false] at h
    rcases h with rfl | rfl <;> exact ⟨atUnit_of _ _ _ _ (by decide +kernel), rfl, rfl, by decide +kernel⟩
  · simp only [Stated.atomics, List.mem_cons, List.not_mem_nil, or_false] at h
    rcases h with rfl | rfl | rfl | rfl <;> exact ⟨atUnit_of _ _ _ _ (by decide +kernel), rfl, rfl, by decide +kernel⟩
  · exact ⟨atUnit_of _ _ _ _ (by decide +kernel), rfl, rfl, rfl, by decide +kernel, by decide +kernel, ⟨entry0 34, by decide +kernel⟩,
      by decide +kernel⟩
  · exact ⟨atUnit_of _ _ _ _ (by decide +kernel), rfl, rfl, by decide +kernel, by decide +kernel, rfl, by decide +kernel, by decide +kernel, rfl,
      ⟨entry0 34, by decide +kernel⟩, ⟨entry0 34, by decide +kernel⟩, by decide +kernel⟩

/-- The page at 0x10008 is in storage; its record at port 2. -/
def rec0 (frame waiting : Option Nat) : Service := ⟨0x10008, 0x1058, 29, frame, 0, waiting, false⟩
def serving (r : Service) : State := { paged [] with
  sqes := Map.set [] 2 [r], nvme := ⟨[true, true, true], [], [], Map.set [] 33 (2 ^ 17), []⟩, pools := Map.set [] 2 ⟨0, 0, false, 0, 0, [0x40000000], []⟩, clk := 6399999999 }
/-- The page at 0x10000 is evicted for it, or moves. -/
def move0 (dest : Option Nat) : Move := ⟨2, ⟨0x10000, 0x20000000, 0x1058, false⟩, 0x20000013, dest, (2, 0x10008), 0, 29⟩
def moving (dest : Option Nat) : State := { serving (rec0 none none) with moves := [move0 dest] }
/-- A page of 2 MiB in stack 0, its counts of the last period, and a spare frame of that size in stack 2. -/
def counted0 : State := { paged [] with
  hbm := ((paged []).hbm.write 0x10000 (bytesOfNat 0x20001 8)).write 0x20000 (bytesOfNat 0x20000013 8), clk := 2 ^ 20
  counts := Map.set [] (countKey 0 1 0 0) 4096
  pools := Map.set [] (poolNo 2 21) ⟨0, 0, false, 0, 0, [0x4000000000], []⟩ }

theorem wit_StorageEvents :
    (∃ (s : State) (f : Nat) (r : Service), (s.sqes.getD 2 []).find? (fun r => r.frame.isNone && r.waiting.isNone && !r.evicting) = some r
      ∧ s.record? 2 r.pteAddr = some r ∧ s.nvmeOn 2 = true ∧ s.locatorOk r.locator r.bits = true
      ∧ s.inFlight 2 + commandsOf (blocksOf r.locator r.bits) ≤ 64 * 256 ∧ (s.pool r.pool).spare = [f])
    ∧ (∃ (s : State) (f t0 : Nat) (r : Service), s.record? 2 0x10008 = some r ∧ r.waiting = some t0 ∧ s.nvmeOn 2 = true ∧ s.locatorOk r.locator r.bits = true
      ∧ (s.pool r.pool).spare = [f])
    ∧ (∀ late : Bool, ∃ (s : State) (f : Nat) (r : Service), s.record? 2 0x10008 = some r ∧ r.frame = some f ∧ s.pteAt 0x10008 = r.locator ∧ s.hbm.wf = true
      ∧ 0x10008 + 8 ≤ f ∧ 4096 * blocksOf r.locator r.bits ≤ 2 ^ r.bits ∧ parkedOn s 0x10008 = []
      ∧ (s.pool r.pool).spare.length < 16 ∧ decide (r.started + 6400000000 ≤ s.clk) = late)
    ∧ (∃ (s : State) (m : Move) (r : Service), s.eviction? m.page.pteAddr = some m ∧ s.drained m.page.frame m.bits = true ∧ pteD m.pte = false
      ∧ s.pteAt m.page.pteAddr = m.pte ∧ s.hbm.wf = true ∧ s.record? m.fill.1 m.fill.2 = some r ∧ parkedOn s m.page.pteAddr = [])
    ∧ (∃ (s : State) (d pa e addr bits f : Nat) (j : Job), s.clk % 2 ^ 20 = 0 ∧ s.clk ≠ 0 ∧ s.job? 0 = some j
      ∧ busiestDie s 0 0 0 (s.clk / 2 ^ 20 - 1) = some d ∧ s.lookup j.ptroot 0 = some (pa, e, addr, bits) ∧ bits ≤ 21 ∧ ptePin e = false
      ∧ pteBusy e = false ∧ pa.testBit 51 = false ∧ fieldOf pa 37 4 / 2 = 0 ∧ (s.pool (poolNo (roomierStack s d bits) bits)).spare = [f])
    ∧ (∃ (s : State) (m : Move) (f : Nat), s.moves.find? (fun x => x.page.pteAddr == m.page.pteAddr && x.dest.isSome) = some m ∧ m.dest = some f
      ∧ s.drained m.page.frame m.bits = true ∧ s.pteAt m.page.pteAddr = m.pte ∧ s.hbm.wf = true ∧ f % 65536 = 0 ∧ f < 2 ^ 52
      ∧ m.page.pteAddr + 8 ≤ f) :=
  ⟨⟨serving (rec0 none none), 0x40000000, rec0 none none, by decide +kernel⟩,
    ⟨serving (rec0 none (some 9)), 0x40000000, 9, rec0 none (some 9), by decide +kernel⟩,
    fun l => ⟨{ serving (rec0 (some 0x40000000) none) with clk := if l then 6400000000 else 6399999999 }, 0x40000000, rec0 (some 0x40000000) none,
      by cases l <;> decide +kernel⟩,
    ⟨moving none, move0 none, rec0 none none, by decide +kernel⟩,
    ⟨counted0, 1, 0x20000000, 0x20000013, 0x20000, 21, 0x4000000000, { job0 with words := [] }, by decide +kernel⟩,
    moving (some 0x4000000000), move0 (some 0x4000000000), 0x4000000000, by decide +kernel⟩

/-! ### Events of the engines -/

/-- A linear copy of 300 bytes from local memory 1 on to scratchpad 2 on, and its command in core 3's FIFO. -/
def block0 : List Word := [4, 1, 2, 300, noMsg]
def copy0 : Req := { req0 with kind := .copy false block0 0 1, core := 3, vcore := 3 }
def cmd0 (code : Nat) : CopyCmd := ⟨9, 0, 0, some (5, code), false⟩
/-- Its NI may offer it, on a device that is halted or not. -/
def offering (halt : Bool) : State := { base with
  reqs := [copy0], cores := Map.set [] 3 { Core.fresh with fifo := [cmd0 0] }, halted := if halt then some 1 else none }
/-- An offer, or a refusal of it, has come; the BTE holds n others. -/
def offered (p : Packet) (r : Req) (code n : Nat) : State := { base with
  reqs := [r], packets := [p], clk := 64, cores := Map.set [] 3 { Core.fresh with fifo := [{ cmd0 code with offered := true }] }
  btes := Map.set [] 5 (List.replicate n ⟨1, 0, 0, 0, false, false, (0, 0)⟩) }
def offer0 : Packet := pkt (.ni 0) (stationEnd 5) (.copyOffer 9)
def refusal0 : Packet := pkt (stationEnd 5) (.ni 0) (.copyRefused 9)
def transfer0 (moved : Nat) (c w : Bool) : Transfer := ⟨9, moved, 0, 0, c, w, (0, 0)⟩
def transferring (x : Transfer) (halt : Bool) : State := { base with
  reqs := [copy0], btes := Map.set [] 5 [x], halted := if halt then some 1 else none, clk := 64 }
/-- A piece's answer at the BTE, and a piece at the NI of its tile. -/
def piece0 (k : AccKind) (st : Nat) : Access := { access0 with kind := k, status := st, len := 3, data := [1, 2, 3], landing := 2, home := stationEnd 5 }
def answered (k : AccKind) (st moved : Nat) : State := { transferring (transfer0 moved false true) false with
  packets := [pkt (.ni 0) (stationEnd 5) (.performed (piece0 k st))] }
def side0 (k : AccKind) (bad : Bool) : State := { base with
  packets := [pkt (stationEnd 5) (.ni 0) (.access (piece0 k 0))], clk := 64, eccLocal := if bad then [4] else [], eccScratch := if bad then [4] else [] }

theorem wit_CopyEvents_1 :
    (∀ halt : Bool, ∃ (s : State) (cmd : CopyCmd) (r : Req) (j : Job) (b : List Word), offerable s 3 = [cmd] ∧ s.req? cmd.req = some r
      ∧ s.job? r.job = some j ∧ r.kind = .copy false b 0 1 ∧ r.core = 3 ∧ s.live = !halt)
    ∧ (∀ n ∈ [31, 32], ∀ code ∈ [0, 6], ∀ len ∈ [0, 300], ∃ (s : State) (p : Packet) (cmd : CopyCmd) (r : Req) (j : Job) (b : List Word),
      offerFor s 5 r.id = some p ∧ s.req? r.id = some r ∧ cmdOf s r = some cmd ∧ s.job? r.job = some j ∧ r.kind = .copy false b 0 1
      ∧ (s.btes.getD 5 []).length = n ∧ (cmd.bte.map (·.2)).getD 0 = code ∧ wordAt b 3 = len
      ∧ linearCheck s j r b (srcSide s (wordAt b 0)) (dstSide s (wordAt b 0)) = (0, 0, 0))
    ∧ (∃ (s : State) (p : Packet) (r : Req) (cmd : CopyCmd), s.arrived? p.id = some p ∧ p.body = .copyRefused r.id ∧ s.req? r.id = some r
      ∧ cmdOf s r = some cmd)
    ∧ (∀ m ∈ [0, 290], ∀ c w h : Bool, ∃ (s : State) (x : Transfer) (r : Req) (j : Job) (b : List Word), offerFor s 5 r.id = none
      ∧ (s.btes.getD 5 []).find? (fun q => q.req == r.id) = some x ∧ s.req? r.id = some r ∧ s.job? r.job = some j ∧ r.kind = .copy false b 0 1
      ∧ x.failed = (0, 0) ∧ x.moved < wordAt b 3 ∧ x.waiting = w ∧ s.live = !h ∧ x.cancelled = c ∧ x.moved = m) := by
  refine ⟨fun h => ⟨offering h, cmd0 0, copy0, job0, block0, ?_⟩, fun n hn code hc len hl =>
    ⟨offered offer0 { copy0 with kind := .copy false [4, 1, 2, BitVec.ofNat 64 len, noMsg] 0 1 } code n, offer0, { cmd0 code with offered := true },
      { copy0 with kind := .copy false [4, 1, 2, BitVec.ofNat 64 len, noMsg] 0 1 }, job0, [4, 1, 2, BitVec.ofNat 64 len, noMsg], ?_⟩,
    ⟨offered refusal0 copy0 0 0, refusal0, copy0, { cmd0 0 with offered := true }, by decide +kernel⟩,
    fun m hm c w h => ⟨transferring (transfer0 m c w) h, transfer0 m c w, copy0, job0, block0, ?_⟩⟩
  · cases h <;> decide +kernel
  · simp only [List.mem_cons, List.not_mem_nil, or_false] at hn hc hl
    rcases hn with rfl | rfl <;> rcases hc with rfl | rfl <;> rcases hl with rfl | rfl <;> decide +kernel
  · simp only [List.mem_cons, List.not_mem_nil, or_false] at hm
    rcases hm with rfl | rfl <;> cases c <;> cases w <;> cases h <;> decide +kernel

theorem wit_CopyEvents_2 :
    (∀ e ∈ [(AccKind.tileRead false, 0, 0), (.tileWrite true false, 0, 0), (.tileWrite true false, 0, 290), (.tileRead false, 256, 0)],
      ∃ (s : State) (p : Packet) (a : Access) (x : Transfer) (r : Req) (j : Job) (b : List Word), s.arrived? p.id = some p ∧ p.body = .performed a
        ∧ s.req? a.req = some r ∧ bteOf s r.id = some (5, x) ∧ s.job? r.job = some j ∧ r.kind = .copy false b 0 1 ∧ x.failed = (0, 0) ∧ x.dsrc = 0
        ∧ a.kind = e.1 ∧ a.status = e.2.1 ∧ x.moved = e.2.2
        ∧ (nextStep s r x).take_ = (if e.2.2 = 0 then 128 else 10) ∧ wordAt b 3 = 300)
    ∧ (∀ sc bad : Bool, ∀ w : Bool, ∃ (s : State) (p : Packet) (a : Access), s.arrived? p.id = some p ∧ p.body = .access a ∧ p.dst = .ni 0
      ∧ a.dev = none ∧ a.kind = (if w then .tileWrite sc false else .tileRead sc) ∧ s.writes = []
      ∧ ((s.dropPacket p.id).niPort 0 (if w then portLanding else portSource) (if sc then .scratch else .loc) a.landing 3).isSome = true
      ∧ a.len = 3 ∧ a.data.length = 3
      ∧ badByte s (if sc then .scratch else .loc) a.landing a.len = if bad then some 2 else none) := by
  refine ⟨fun e h => ⟨answered e.1 e.2.1 e.2.2, pkt (.ni 0) (stationEnd 5) (.performed (piece0 e.1 e.2.1)), piece0 e.1 e.2.1,
      transfer0 e.2.2 false true, copy0, job0, block0, ?_⟩,
    fun sc bad w => ⟨side0 (if w then .tileWrite sc false else .tileRead sc) bad,
      pkt (stationEnd 5) (.ni 0) (.access (piece0 (if w then .tileWrite sc false else .tileRead sc) 0)),
      piece0 (if w then .tileWrite sc false else .tileRead sc) 0, ?_⟩⟩
  · simp only [List.mem_cons, List.not_mem_nil, or_false] at h
    rcases h with rfl | rfl | rfl | rfl <;> decide +kernel
  · cases sc <;> cases bad <;> cases w <;> decide +kernel

/-- A job of the array: M rows of K 80 bytes in bank 0, N 64 columns of trits in bank 1, C in bank 2, no scales, CMSG none. -/
def tmBlock (m : Nat) (drain : Bool) : List Word :=
  [BitVec.ofNat 64 (80 * 2 ^ 20), BitVec.ofNat 64 (m + 80 * 2 ^ 16), BitVec.ofNat 64 (0x10000 + 16 * 2 ^ 20), 0x100040, BitVec.ofNat 64 (if drain then 0 else 0x20000 + 256 * 2 ^ 20),
    BitVec.ofNat 64 (m + 80 * 2 ^ 16 + 64 * 2 ^ 32 + 3 * 2 ^ 52 + if drain then 2 ^ 49 else 0), 0, 0, noMsg, 0]
def array0 (m : Nat) (drain : Bool) : ArrayJob := { (default : ArrayJob) with seq := 5, task := 1, v := 9, block := tmBlock m drain, cm := ⟨noMsg, 0⟩ }
def run0 (m : Nat) (drain : Bool) (stopped : Nat) (l : List ArrayBlock) : ArrayRun :=
  { (default : ArrayRun) with job := array0 m drain, fmtC := 4, blocks := l, stopped := stopped }
def arrayed (q : List ArrayJob) (r : Option ArrayRun) : State := { base with
  clk := 64, bankfmt := Map.set [] 0 [1, 3, 4], tiles := Map.set [] 0 { Tile.fresh with arrayQ := q, arrayRun := r } }
def sums0 : ArrayBlock := ⟨0, 0, [], true, 0⟩
/-- A step's lines are still to be read. -/
def lines0 : ArrayRun := { run0 1 false 0 [] with lines := [0, 2, 2], lineFrom := 64 }

theorem wit_ArrayEvents :
    (∀ m ∈ [1, 0], ∃ (s : State) (a : ArrayJob) (rest : List ArrayJob) (j : Job), (s.tile 0).arrayRun = none ∧ (s.tile 0).arrayQ = a :: rest
      ∧ s.job? a.job = some j ∧ s.live = true ∧ a.entered < s.clk ∧ (s.tile 0).arrayFree ≤ s.clk ∧ s.anyWaiting a.waits = false
      ∧ startChecks j (s.formats a.job (a.vcore / 8)) a.v a.block = (if m = 1 then none else some .arraycfg))
    ∧ (∃ (s : State) (r : ArrayRun), (s.tile 0).arrayRun = some r ∧ s.live = true ∧ r.mayStep s.clk = true ∧ r.i = 0 ∧ s.writes = [] ∧ s.eccScratch = []
      ∧ (∀ n e, n < 64 → e < 16 →
        (s.scratch.get (scratchAddr r.job.job (r.job.vcore / 8) ((tmW r.job.block).addr (r.j * tmKt r.job.block + r.i) n 0 + e))).toNat < 243))
    ∧ (∀ drain : Bool, ∃ (s : State) (r : ArrayRun) (x : ArrayBlock), (s.tile 0).arrayRun = some r ∧ r.blocks = [x] ∧ x.complete = true
      ∧ r.stepEnd ≤ s.clk ∧ r.lastRow ≤ s.clk ∧ (s.tile 0).drains = [] ∧ s.eccScratch = [] ∧ s.live = true ∧ r.out = []
      ∧ tmDrain r.job.block = drain)
    ∧ (∀ n ∈ [0, 1, 2], ∃ (s : State) (r : ArrayRun), (s.tile 0).arrayRun = some r ∧ r.lines ≠ []
      ∧ (if n = 0 then s.clk < r.lineFrom else if n = 1 then r.lineFrom ≤ s.clk ∧ ∀ b ∈ r.lines, bankOpen s 0 b portArrayRead = true
        else r.lineFrom ≤ s.clk ∧ ∀ b ∈ r.lines, b < 16 ∧ (s.tile 0).bankTaken b s.clk = true))
    ∧ (∀ l ∈ [[], [(0, [3])]], ∃ (s : State) (r : ArrayRun) (addr : Nat) (bs : List Byte) (x : ArrayBlock), (s.tile 0).arrayRun = some r
      ∧ r.out = (addr, bs) :: l ∧ r.lastRow ≤ s.clk ∧ (s.takeBanks 0 portArrayDrain [addr / 65536]).isSome = true ∧ r.blocks = [x])
    ∧ (∀ stopped ∈ [0, 1, 2, 3], ∃ (s : State) (r : ArrayRun), (s.tile 0).arrayRun = some r ∧ r.blocks = [] ∧ (s.tile 0).drains = []
      ∧ r.stopped = stopped ∧ r.allSteps = true ∧ r.lastRow + 12 ≤ s.clk ∧ (if r.handed = 0 then r.abortAt else r.lastRow) + 12 ≤ s.clk) := by
  refine ⟨fun m h => ⟨arrayed [array0 m false] none, array0 m false, [], job0, ?_⟩,
    ⟨arrayed [] (some (run0 1 false 0 [])), run0 1 false 0 [], by decide +kernel, rfl, by decide +kernel, rfl, rfl, rfl, fun n e _ _ => ?_⟩,
    fun d => ⟨arrayed [] (some (run0 2 d 0 [sums0])), run0 2 d 0 [sums0], sums0, by cases d <;> decide +kernel⟩,
    fun n h => ⟨if n = 2 then (arrayed [] (some lines0)).updTile 0 (fun t => { t with bankClk := [some 64, none, some 64] })
        else arrayed [] (some { lines0 with lineFrom := if n = 0 then 65 else 64 }),
      { lines0 with lineFrom := if n = 0 then 65 else 64 }, ?_⟩,
    fun l h => ⟨arrayed [] (some { run0 2 false 0 [sums0] with out := (0x20000, [1, 2]) :: l }), { run0 2 false 0 [sums0] with out := (0x20000, [1, 2]) :: l },
      0x20000, [1, 2], sums0, ?_⟩,
    fun n h => ⟨arrayed [] (some { run0 1 false n [] with j := 1 }), { run0 1 false n [] with j := 1 }, ?_⟩⟩
  · simp only [List.mem_cons, List.not_mem_nil, or_false] at h; rcases h with rfl | rfl <;> decide +kernel
  · show (Memory.get [] _).toNat < 243
    simp [Memory.get]
  · simp only [List.mem_cons, List.not_mem_nil, or_false] at h; rcases h with rfl | rfl | rfl <;> decide +kernel
  · simp only [List.mem_cons, List.not_mem_nil, or_false] at h; rcases h with rfl | rfl <;> decide +kernel
  · simp only [List.mem_cons, List.not_mem_nil, or_false] at h; rcases h with rfl | rfl | rfl | rfl <;> decide +kernel

/-- An exchange of rows of 64 bytes between virtual tiles 0 and 1, tile 0's part, GTAG 5 and TIMEOUT 100; another base word for the source. -/
def rows0 (base : Nat) : List Word :=
  [BitVec.ofNat 64 (2 * 2 ^ 11 + 5 * 2 ^ 20 + 100 * 2 ^ 28), BitVec.ofNat 64 (base + 128 * 2 ^ 20), 0x400002, BitVec.ofNat 64 (0x10000 + 128 * 2 ^ 20), 0x400002, noMsg, 0]
def xchg0 (base : Nat) (l m : List Nat) : Exchange :=
  { (default : Exchange) with v := 5, block := rows0 base, cm := ⟨noMsg, 0⟩, arrived := l, sent := l, rowsIn := m, acked := m }
def tiled (t : Tile) (p : Packet) : State := { ev p { job0 with place := [0, 1] } with tiles := Map.set [] 0 t, clk := 1024 }
def active (x : Option Exchange) : Tile := { Tile.fresh with xactive := x }
def toTile (b : Body) : Packet := pkt (.ni 1) (.ni 0) b

theorem wit_ExchangeAndTriggerEvents_1 :
    (∀ base ∈ [0, 2 ^ 56], ∃ (s : State) (x : Exchange) (j : Job), (s.tile 0).xactive = none ∧ (s.tile 0).xqueue = [x] ∧ s.live = true ∧ s.job? x.job = some j
      ∧ s.anyWaiting x.waits = false ∧ xcOperands s j x = (if base = 0 then none else some .taddr) ∧ (s.tile 0).arrives = []
      ∧ xcT0 x.block ≤ x.vtile ∧ x.vtile < xcT0 x.block + xcP x.block
      ∧ 2 ≤ xcP x.block)
    ∧ (∀ q ∈ [0, 1], ∀ bad : Bool, ∃ (s : State) (x : Exchange) (j : Job), (s.tile 0).xactive = some x ∧ s.live = true ∧ x.nextRow = some q
      ∧ s.job? x.job = some j ∧ (s.takeBanks 0 portExchange (x.sendBanks q)).isSome = true ∧ s.writes = []
      ∧ badRow s x q = (if bad then some (128 * q) else none) ∧ (xcT0 x.block + q = x.vtile ↔ q = 0) ∧ x.acked.length < xcP x.block
      ∧ x.rowsIn.length + 1 < xcP x.block)
    ∧ (∀ n ∈ [255, 256], ∃ (s : State) (p : Packet), s.arrived? p.id = some p ∧ p.dst = .ni 0 ∧ p.body = .arrive 0 5 2 64 1 0
      ∧ (s.tile 0).xactive = none ∧ (s.tile 0).arrives.length = n)
    ∧ (∃ (s : State) (p : Packet) (x : Exchange) (j : Job), s.arrived? p.id = some p ∧ p.dst = .ni 0 ∧ p.body = .arrive 0 5 2 64 1 0
      ∧ (s.tile 0).xactive = some x ∧ s.job? 0 = some j ∧ x.job = 0 ∧ xcTag x.block = 5 ∧ xcP x.block = 2 ∧ xcL x.block = 64
      ∧ xcT0 x.block + 1 = 1 ∧ 1 ∉ x.arrived)
    ∧ (∃ (s : State) (p : Packet), s.arrived? p.id = some p ∧ p.body = .arriveRefused 0 5 2 64 1 0 ∧ p.ready + 64 ≤ s.clk)
    ∧ (∃ (s : State) (p : Packet), s.arrived? p.id = some p ∧ p.dst = .ni 0 ∧ p.body = .row 0 5 1 0 [] none ∧ (s.tile 0).xactive = none)
    ∧ (∃ (s : State) (p : Packet) (x : Exchange) (bs : List Byte), s.arrived? p.id = some p ∧ p.dst = .ni 0 ∧ p.body = .row 0 5 1 0 bs none
      ∧ (s.tile 0).xactive = some x ∧ x.job = 0 ∧ xcTag x.block = 5 ∧ xcL x.block = bs.length ∧ xcT0 x.block + 1 = 1 ∧ 1 < xcP x.block
      ∧ 1 ∉ x.rowsIn ∧ x.rowsIn.length + 1 < xcP x.block
      ∧ (s.takeBanks 0 portExchange (rowBanks (xcDst x.block) 1 bs.length)).isSome = true)
    ∧ (∀ m ∈ [[], [0]], ∃ (s : State) (p : Packet) (x : Exchange), s.arrived? p.id = some p ∧ p.dst = .ni 0 ∧ p.body = .rowAck 0 5 0 1
      ∧ (s.tile 0).xactive = some x ∧ x.job = 0 ∧ xcTag x.block = 5 ∧ xcT0 x.block + 1 = 1 ∧ 1 < xcP x.block ∧ x.acked = m ∧ 1 ∉ x.acked
      ∧ 1 ∈ x.sent ∧ x.rowsIn.length = xcP x.block)
    ∧ (∃ (s : State) (x : Exchange), (s.tile 0).xactive = some x ∧ x.start + xcTimeout x.block ≤ s.clk) := by
  refine ⟨fun b h => ⟨tiled { Tile.fresh with xqueue := [xchg0 b [] []] } pkt0, xchg0 b [] [], { job0 with place := [0, 1] }, ?_⟩,
    fun q h b => ⟨{ tiled (active (some { xchg0 0 (List.range q) [] with arrived := List.range (q + 1) })) pkt0 with
        eccScratch := if b then [128 * q] else [] }, { xchg0 0 (List.range q) [] with arrived := List.range (q + 1) }, { job0 with place := [0, 1] }, ?_⟩,
    fun n h => ⟨tiled { Tile.fresh with arrives := List.replicate n (0, 0, 0, 0, 0) } (toTile (.arrive 0 5 2 64 1 0)), toTile (.arrive 0 5 2 64 1 0), ?_⟩,
    ⟨tiled (active (some (xchg0 0 [0] [0]))) (toTile (.arrive 0 5 2 64 1 0)), toTile (.arrive 0 5 2 64 1 0), xchg0 0 [0] [0],
      { job0 with place := [0, 1] }, by decide +kernel⟩,
    ⟨tiled Tile.fresh (toTile (.arriveRefused 0 5 2 64 1 0)), toTile (.arriveRefused 0 5 2 64 1 0), by decide +kernel⟩,
    ⟨tiled Tile.fresh (toTile (.row 0 5 1 0 [] none)), toTile (.row 0 5 1 0 [] none), by decide +kernel⟩,
    ⟨tiled (active (some (xchg0 0 [0] []))) (toTile (.row 0 5 1 0 (List.replicate 64 7) none)), toTile (.row 0 5 1 0 (List.replicate 64 7) none),
      xchg0 0 [0] [], List.replicate 64 7, by decide +kernel⟩,
    fun m h => ⟨tiled (active (some { xchg0 0 [0, 1] [0, 1] with acked := m })) (toTile (.rowAck 0 5 0 1)), toTile (.rowAck 0 5 0 1),
      { xchg0 0 [0, 1] [0, 1] with acked := m }, ?_⟩,
    tiled (active (some (xchg0 0 [0] []))) pkt0, xchg0 0 [0] [], by decide +kernel⟩
  all_goals simp only [List.mem_cons, List.not_mem_nil, or_false] at h
  · rcases h with rfl | rfl <;> decide +kernel
  · rcases h with rfl | rfl <;> cases b <;> decide +kernel
  all_goals rcases h with rfl | rfl <;> decide +kernel

def rise0 (k : Option Cancel) : Rise := ⟨0, 63, 9, [], 20, 0, k, [], none⟩
def handle0 : Nat := 2 ^ 63 + 3
def posted0 : Posted := { (default : Posted) with entry := 3, op := 6, v := 5, ctr := 63, thresh := 4, block := block0 }
def triggers (r : List Rise) (l : List Posted) : Tile := { Tile.fresh with
  rises := r, posted := l, counters := .replicate 64 ⟨some 0, 4, none⟩, gens := List.replicate 256 1 }

theorem wit_ExchangeAndTriggerEvents_2 :
    (∃ (s : State) (r : Rise), (s.tile 0).rises = [r] ∧ r.at_ ≤ s.clk ∧ s.anyWaiting r.waits = false ∧ r.cancel = none ∧ r.acc = 0 ∧ r.ctr < 64
      ∧ (s.counter 0 r.ctr).owner = some r.job)
    ∧ (∃ (s : State) (r : Rise) (k : Cancel) (q : Posted) (j : Job), (s.tile 0).rises = [r] ∧ r.at_ ≤ s.clk ∧ s.anyWaiting r.waits = false
      ∧ r.cancel = some k ∧ postedOf (s.tile 0) r.job k.handle = some q ∧ q.v ≠ 0 ∧ s.job? r.job = some j ∧ j.census = none)
    ∧ (∃ (s : State) (p : Packet) (j : Job), p.id ≠ 0 ∧ s.arrived? p.id = some p ∧ p.body = .trgAdd 0 0 63 9 1 none 4 0 ∧ p.dst = .ni 0
      ∧ s.job? 0 = some j ∧ j.tile 0 = 0 ∧ (s.counter 0 63).owner = some 0)
    ∧ (∃ (s : State) (p : Posted) (j : Job), (s.tile 0).fired ≠ some s.clk ∧ (s.tile 0).rises.any (riseDue s) = false
      ∧ firstPosted ((s.tile 0).posted.filter (mayFire s 0)) = some p ∧ s.job? p.job = some j ∧ p.op = 6
      ∧ s.countFull p.task .tile = false) :=
  ⟨⟨tiled (triggers [rise0 none] []) pkt0, rise0 none, by decide +kernel⟩,
    ⟨tiled (triggers [rise0 (some ⟨0, 1, handle0, none⟩)] [posted0]) pkt0, rise0 (some ⟨0, 1, handle0, none⟩), ⟨0, 1, handle0, none⟩, posted0,
      { job0 with place := [0, 1] }, by decide +kernel⟩,
    ⟨tiled (triggers [] []) (toTile (.trgAdd 0 0 63 9 1 none 4 0)), toTile (.trgAdd 0 0 63 9 1 none 4 0), { job0 with place := [0, 1] },
      by decide +kernel⟩,
    tiled (triggers [] [posted0]) pkt0, posted0, { job0 with place := [0, 1] }, by decide +kernel⟩

/-! ### Events of the reductions -/

def asked (k : ReqKind) : Req := { req0 with kind := k }
/-- A request of a kind at the NI of tile 0, with definitions of the job. -/
def asking (k : ReqKind) (l : List NDef) : State := { ev (toTile (.request 9)) { job0 with ndefs := l } with reqs := [asked k] }
def part0 : Partial := ⟨[1], 1, 5, 0, []⟩
def rdef0 (ins : List (Nat × Partial)) (late : List Nat) : RDef := { (default : RDef) with block := (tree0 0).block, expects := [1, 2, 3], inputs := ins, late := late }
def folding (p : Packet) (r : RDef) (d : NDef) : State := (ev p { job0 with ndefs := [d] }).updRouter 0 0 (fun x => { x with defs := [r] })
def folded (at_ : Pos) (b : Body) : Packet := { toTile b with cls := .reduction, pos := at_ }

/-- A round that the root may complete, whichever router it is at. -/
def ended : NDef := { tree0 0 with timer := some 64, own := [part0], tree := [part0] }
theorem closable : ∃ (s : State) (j : Job) (d : NDef) (x o : Partial) (tree own : List Partial), s.job? 0 = some j ∧ j.ndef 0 = some d
    ∧ d.timer.isSome = true ∧ d.freeing = [] ∧ treeResult j d = some (x, tree) ∧ d.own = o :: own := by
  have h : ∃ x tree, treeResult { job0 with ndefs := [ended] } ended = some (x, tree) := by
    unfold treeResult; split <;> simp [ended]
  obtain ⟨x, tree, h⟩ := h
  exact ⟨ev pkt0 { job0 with ndefs := [ended] }, _, ended, x, part0, tree, [], rfl, rfl, rfl, rfl, h, rfl⟩

theorem wit_ReductionEvents :
    (∃ (s : State) (p : Packet) (r : Req) (j : Job) (b : List Word), requestAt s p.id = some (p, r) ∧ s.job? r.job = some j ∧ r.kind = .nrdef b
      ∧ (j.ndef (ndId b)).isSome = true)
    ∧ (∃ (s : State) (p : Packet) (r : Req) (j : Job) (b : List Word), requestAt s p.id = some (p, r) ∧ s.job? r.job = some j ∧ r.kind = .nrdef b
      ∧ j.ndef (ndId b) = none ∧ (∀ q ∈ treeRouters j b, (s.router q.1 q.2).defs.length < 16))
    ∧ (∃ (s : State) (p : Packet) (r : Req) (j : Job) (b : List Word), requestAt s p.id = some (p, r) ∧ s.job? r.job = some j ∧ r.kind = .nrfree b
      ∧ j.ndef (wordAt b 0) = none)
    ∧ (∀ d ∈ [tree0 0, { tree0 0 with timer := some 9 }], ∃ (s : State) (p : Packet) (r : Req) (j : Job) (b : List Word),
      requestAt s p.id = some (p, r) ∧ s.job? r.job = some j ∧ r.kind = .nrfree b ∧ j.ndef (wordAt b 0) = some d ∧ s.req? r.id = some r
      ∧ roundOpen s r.job d = d.timer.isSome)
    ∧ (∀ late ∈ [[], [1]], ∃ (s : State) (p : Packet) (q : Nat × Nat) (x : Partial) (j : Job) (d : RDef), s.reduceAt p.id = some (p, q)
      ∧ p.body = .contribution p.job 0 1 x 4 0 ∧ s.job? p.job = some j ∧ (s.router q.1 q.2).def? p.job 0 = some d ∧ d.late = late
      ∧ (∀ e ∈ d.inputs, e.1 ≠ 1) ∧ x.weight ≠ 0 ∧ j.census = none)
    ∧ (∃ (s : State) (x y : Nat) (j : Job) (d : RDef), (s.router x y).def? 0 0 = some d ∧ s.job? 0 = some j ∧ d.forwards = true
      ∧ (s.router x y).gated = false)
    ∧ (∃ (s : State) (p : Packet) (q : Nat × Nat) (j : Job) (d : NDef), s.reduceAt p.id = some (p, q) ∧ s.job? 0 = some j ∧ j.ndef 0 = some d
      ∧ p.pos = .dest ∧ p.body = .notice 0 0 d.round ∧ d.timer = none)
    ∧ (∃ (s : State) (p : Packet) (q : Nat × Nat) (j : Job) (d : NDef), s.reduceAt p.id = some (p, q) ∧ s.job? 0 = some j ∧ j.ndef 0 = some d
      ∧ p.pos = .dest ∧ p.body = .notice 0 0 1 ∧ d.round < 1 ∧ (∀ e ∈ d.noticed, e.1 ≠ 1))
    ∧ (∃ (s : State) (p : Packet) (q : Nat × Nat) (j : Job) (d : NDef) (e : RDef), s.reduceAt p.id = some (p, q) ∧ s.job? 0 = some j
      ∧ j.ndef 0 = some d ∧ p.body = .close 0 0 e.round ∧ inputAt s q 0 0 = false ∧ (s.router q.1 q.2).def? 0 0 = some e)
    ∧ (∃ (s : State) (j : Job) (d : NDef) (u : Nat), s.job? 0 = some j ∧ j.ndef 0 = some d ∧ d.timer = some u ∧ u ≤ s.clk ∧ d.closing = false)
    ∧ (∃ (s : State) (j : Job) (d : NDef) (x o : Partial) (tree own : List Partial), s.job? 0 = some j ∧ j.ndef 0 = some d ∧ d.timer.isSome = true
      ∧ d.freeing = [] ∧ treeResult j d = some (x, tree) ∧ d.own = o :: own) := by
  refine ⟨⟨asking (.nrdef (tree0 0).block) [tree0 0], toTile (.request 9), asked (.nrdef (tree0 0).block), { job0 with ndefs := [tree0 0] },
      (tree0 0).block, by decide +kernel⟩,
    ⟨asking (.nrdef (tree0 0).block) [], toTile (.request 9), asked (.nrdef (tree0 0).block), { job0 with ndefs := [] }, (tree0 0).block,
      by decide +kernel, rfl, rfl, rfl, fun q _ => Nat.zero_lt_succ _⟩,
    ⟨asking (.nrfree [0]) [], toTile (.request 9), asked (.nrfree [0]), { job0 with ndefs := [] }, [0], by decide +kernel⟩,
    fun d h => ⟨asking (.nrfree [0]) [d], toTile (.request 9), asked (.nrfree [0]), { job0 with ndefs := [d] }, [0], ?_⟩,
    fun l h => ⟨folding (folded (.router 0 0) (.contribution 0 0 1 part0 4 0)) (rdef0 [] l) (tree0 0), folded (.router 0 0) (.contribution 0 0 1 part0 4 0),
      (0, 0), part0, { job0 with ndefs := [tree0 0] }, rdef0 [] l, ?_⟩,
    ⟨folding pkt0 (rdef0 [(1, part0), (2, part0), (3, part0)] []) (tree0 0), 0, 0, { job0 with ndefs := [tree0 0] },
      rdef0 [(1, part0), (2, part0), (3, part0)] [], by decide +kernel⟩,
    ⟨ev (folded .dest (.notice 0 0 0)) { job0 with ndefs := [tree0 0] }, folded .dest (.notice 0 0 0), (Endpoint.ni 0).attach,
      { job0 with ndefs := [tree0 0] }, tree0 0, rfl, rfl, rfl, rfl, rfl, rfl⟩,
    ⟨ev (folded .dest (.notice 0 0 1)) { job0 with ndefs := [tree0 0] }, folded .dest (.notice 0 0 1), (Endpoint.ni 0).attach,
      { job0 with ndefs := [tree0 0] }, tree0 0, rfl, rfl, rfl, rfl, rfl, Nat.zero_lt_one, fun e h => nomatch h⟩,
    ⟨folding (folded (.router 0 0) (.close 0 0 0)) (rdef0 [] []) (tree0 0), folded (.router 0 0) (.close 0 0 0), (0, 0), { job0 with ndefs := [tree0 0] },
      tree0 0, rdef0 [] [], by decide +kernel⟩,
    ⟨folding pkt0 (rdef0 [] []) { tree0 0 with timer := some 64 }, { job0 with ndefs := [{ tree0 0 with timer := some 64 }] },
      { tree0 0 with timer := some 64 }, 64, by decide +kernel⟩,
    closable⟩
  · simp only [List.mem_cons, List.not_mem_nil, or_false] at h; rcases h with rfl | rfl <;> decide +kernel
  · simp only [List.mem_cons, List.not_mem_nil, or_false] at h; rcases h with rfl | rfl <;> decide +kernel

/-! ### Events of the context units and the launch unit -/

/-- A future request of a function at the context unit of die 0; an entry with waiters. -/
def toUnit : Packet := pkt (.ni 0) (.unit 0) (.request 9)
def futures (f : Nat) (l : Map Future) (more : List Req) : State := { ev toUnit job0 with reqs := asked (.future f [2 ^ 32]) :: more, futures := l }
def own0 (set : Bool) (w : List Nat) : Future := ⟨some 0, set, 7, 1, w, none⟩
theorem futureAt (f : Nat) (l : Map Future) (more : List Req) :
    Stated.FutureAt (futures f l more) toUnit (asked (.future f [2 ^ 32])) 0 f [2 ^ 32] :=
  ⟨by simp [futures, ev, toUnit, pkt, pkt0, State.arrived?, State.packet?], rfl, rfl, by simp [futures, asked, req0, State.req?], rfl⟩

/-- Every entry of the table taken. -/
def allTaken : Nat → Map Future
  | 0 => []
  | n + 1 => (n, own0 false []) :: allTaken n
theorem allTaken_get (k : Nat) : ∀ n, k < n → (allTaken n).get? k = some (own0 false [])
  | n + 1, h => by
    by_cases e : n = k
    · simp [allTaken, Map.get?, e]
    · simp only [allTaken, Map.get?, e, if_false]; exact allTaken_get k n (by omega)

theorem manyWaiters (n : Nat) : ∃ (s : State) (p : Packet) (r : Req) (b : List Word), Stated.FutureAt s p r 0 2 b
    ∧ (let e := Stated.entry s (fieldOf (wordAt b 0) 14 3) (fieldOf (wordAt b 0) 0 14)
      e.owner = some r.job ∧ e.gen = fieldOf (wordAt b 0) 32 16 ∧ e.set = false) ∧ n ≤ waiterCount s 0 :=
  ⟨_, _, _, _, futureAt 2 [(0, own0 false (List.replicate n 10))] [], ⟨rfl, rfl, rfl⟩, by simp [waiterCount, futures, sumBy, own0]⟩

theorem wit_FutureAndLaunchEvents_1 :
    (∃ (s : State) (p : Packet) (r : Req) (b : List Word), Stated.FutureAt s p r 0 0 b ∧ (Stated.entry s 0 0).owner = none)
    ∧ (∃ (s : State) (p : Packet) (r : Req) (b : List Word), Stated.FutureAt s p r 0 0 b ∧ ∀ k, k < 16384 → (Stated.entry s 0 k).owner ≠ none)
    ∧ (∃ (s : State) (p : Packet) (r : Req) (b : List Word), Stated.FutureAt s p r 0 4 b ∧ (Stated.entry s 0 0).owner ≠ some r.job)
    ∧ (∀ f set, f < 5 → ∃ (s : State) (p : Packet) (r : Req) (b : List Word), Stated.FutureAt s p r 0 f b
      ∧ (let e := Stated.entry s (fieldOf (wordAt b 0) 14 3) (fieldOf (wordAt b 0) 0 14)
        e.owner = some r.job ∧ e.gen = fieldOf (wordAt b 0) 32 16 ∧ e.set = set ∧ e.waiters = []) ∧ waiterCount s 0 < 32768)
    ∧ (∃ (s : State) (p : Packet) (r w : Req) (b : List Word), Stated.FutureAt s p r 0 1 b
      ∧ (let e := Stated.entry s (fieldOf (wordAt b 0) 14 3) (fieldOf (wordAt b 0) 0 14)
        e.owner = some r.job ∧ e.gen = fieldOf (wordAt b 0) 32 16 ∧ e.set = false ∧ w.id ∈ e.waiters) ∧ s.req? w.id = some w
      ∧ cmNoMsg w.cm = false ∧ (s.job? w.job).isSome = true)
    ∧ (∃ (s : State) (p : Packet) (r : Req) (b : List Word), Stated.FutureAt s p r 0 2 b
      ∧ (let e := Stated.entry s (fieldOf (wordAt b 0) 14 3) (fieldOf (wordAt b 0) 0 14)
        e.owner = some r.job ∧ e.gen = fieldOf (wordAt b 0) 32 16 ∧ e.set = false) ∧ 32768 ≤ waiterCount s 0)
    ∧ (∃ (s : State) (r : Req), s.req? r.id = some r ∧ r.kind = .future 2 [2 ^ 32] ∧ r.due ≠ 0 ∧ r.due ≤ s.clk)
    ∧ (∃ (s : State) (r : Req), s.req? r.id = some r ∧ r.kind = .launch 0 ∧ r.due ≠ 0 ∧ r.due ≤ s.clk) := by
  refine ⟨⟨_, _, _, _, futureAt 0 [] [], rfl⟩,
    ⟨_, _, _, _, futureAt 0 (allTaken 16384) [], fun k h => ?_⟩,
    ⟨_, _, _, _, futureAt 4 [] [], by decide +kernel⟩,
    fun f set h => ⟨_, _, _, _, futureAt f [(0, own0 set [])] [], by cases set <;> revert f <;> decide +kernel⟩,
    ⟨_, _, _, { req0 with id := 10, kind := .future 2 [2 ^ 32] }, _, futureAt 1 [(0, own0 false [10])] [{ req0 with id := 10, kind := .future 2 [2 ^ 32] }],
      by decide +kernel⟩,
    manyWaiters 32768,
    ⟨{ base with reqs := [{ asked (.future 2 [2 ^ 32]) with due := 64 }], clk := 64 }, { asked (.future 2 [2 ^ 32]) with due := 64 }, by decide +kernel⟩,
    { base with reqs := [{ asked (.launch 0) with due := 64 }], clk := 64 }, { asked (.launch 0) with due := 64 }, by decide +kernel⟩
  · have e : Stated.entry (futures 0 (allTaken 16384) []) 0 k = own0 false [] := by
      show Map.getD (allTaken 16384) (16384 * 0 + k) _ = _
      simp [Map.getD, allTaken_get k 16384 h]
    simp [e, own0]

/-! Host memory laid out for a launch and a restore: a pinned page of 512 MiB at virtual address 0; at 0x1000 an image table with two
bytes of code at 0x8000, a routine table at 0x10000 and a digest; an action area at 0x20000; at 0x50000 a save area, its sections at 0x60000.
All the rest is zero. -/

/-- A record of one tile: one level of one tile, K 6, its ring of 64 records at 0x40000, one local-memory unit and one bank. -/
def record0 : List Word := [BitVec.ofNat 64 (0xC4A7 + 2 ^ 16 + 6 * 2 ^ 24 + 2 ^ 48 + 2 ^ 53), 0, 0, 0x1000, 0x20000, 0, 0x40000, 64, 1] ++ List.replicate 23 0
  ++ [0x30001] ++ List.replicate 7 0
/-- The header of its save area: the version, one virtual tile, K 6 with nothing at home, the offsets of the sections and the ring size. -/
def header0 : List Word := [BitVec.ofNat 64 (0x5A4E + 65536 + 2 ^ 24 + 2 ^ 32 * 0x00041536), 0, 1, 0, BitVec.ofNat 64 (6 * 2 ^ 32), 0, 0, 0]
  ++ List.replicate 7 0x10000 ++ [64] ++ record0 ++ List.replicate 8 0

def laid0 : Memory := [
  (0x0, 0x1), (0x2, 0x1), (0x10000, 0x17), (0x10003, 0x20), (0x20001000, 0x2), (0x20001009, 0x80), (0x20001012, 0x1),
  (0x20050000, 0x4E), (0x20050001, 0x5A), (0x20050002, 0x1), (0x20050003, 0x1), (0x20050004, 0x36), (0x20050005, 0x15), (0x20050006, 0x4),
  (0x20050010, 0x1), (0x20050024, 0x6), (0x20050042, 0x1), (0x2005004A, 0x1), (0x20050052, 0x1), (0x2005005A, 0x1), (0x20050062, 0x1),
  (0x2005006A, 0x1), (0x20050072, 0x1), (0x20050078, 0x40), (0x20050080, 0xA7), (0x20050081, 0xC4), (0x20050082, 0x1), (0x20050083, 0x6),
  (0x20050086, 0x21), (0x20050099, 0x10), (0x200500A2, 0x2), (0x200500B2, 0x4), (0x200500B8, 0x40), (0x200500C0, 0x1), (0x20050180, 0x1),
  (0x20050182, 0x3)]
def zeros (n : Nat) : List Byte := List.replicate n 0
theorem zeros_append (a b : Nat) : zeros a ++ zeros b = zeros (a + b) := by simp [zeros]

/-- The digest of two bytes of code and 4,096 of routine table, all zero (R317). -/
def digest0 : List Byte := sha512 (zeros 4098)
def laid (d : List Byte) : Memory := laid0.write 0x20001018 d

theorem shaRound_length (h : List Word) (kw : Word × Word) : (shaRound h kw).length = h.length := by
  unfold shaRound; split <;> rfl
theorem shaRounds_length (l : List (Word × Word)) : ∀ h : List Word, (l.foldl shaRound h).length = h.length := by
  induction l with
  | nil => intro h; rfl
  | cons a t ih => intro h; simp [ih, shaRound_length]
theorem shaBlock_length (h : List Word) (b : List Byte) : (shaBlock h b).length = h.length := by
  simp [shaBlock, shaRounds_length]
theorem shaBlocks_length (n : Nat) : ∀ (h : List Word) (b : List Byte), (shaBlocks h b n).length = h.length := by
  induction n with
  | zero => intro h b; rfl
  | succ n ih => intro h b; simp [shaBlocks, ih, shaBlock_length]
theorem wordBytes_reverse_length (w : Word) : (wordBytes w).reverse.length = 8 := by simp [wordBytes, bytesOfNat]
theorem digest0_length : digest0.length = 64 := by
  have h : ∀ l : List Word, (l.flatMap (fun w => (wordBytes w).reverse)).length = 8 * l.length := by
    intro l
    induction l with
    | nil => rfl
    | cons a t ih => rw [List.flatMap_cons, List.length_append, ih, wordBytes_reverse_length]; simp; omega
  unfold digest0 sha512
  rw [h, shaBlocks_length, show shaStart.length = 8 by decide +kernel]

theorem read_length (m : Memory) (a n : Nat) : (m.read a n).length = n := by
  induction n generalizing a with
  | zero => rfl
  | succ n ih => simp [Memory.read, ih]
theorem read_getElem (m : Memory) (a n i : Nat) (h : i < (m.read a n).length) : (m.read a n)[i] = m.get (a + i) := by
  induction n generalizing a i with
  | zero => simp [Memory.read] at h
  | succ n ih =>
    cases i with
    | zero => simp [Memory.read]
    | succ i => simp only [Memory.read, List.getElem_cons_succ]; rw [ih]; congr 1; omega
theorem read_append (m : Memory) (a k n : Nat) : m.read a (k + n) = m.read a k ++ m.read (a + k) n := by
  induction k generalizing a with
  | zero => simp [Memory.read]
  | succ k ih => rw [show k + 1 + n = (k + n) + 1 by omega]; simp only [Memory.read, List.cons_append, ih, Nat.add_assoc, Nat.add_comm 1 k]
theorem read_write_self (m : Memory) (a : Nat) (bs : List Byte) (h : m.wf = true) : (m.write a bs).read a bs.length = bs := by
  refine List.ext_getElem (read_length _ _ _) fun i h1 h2 => ?_
  rw [read_getElem, Memory.get_write_inside m a i bs h h2, List.getD_eq_getElem _ _ h2]
theorem read_congr (m k : Memory) (a n : Nat) (h : ∀ i, i < n → m.get (a + i) = k.get (a + i)) : m.read a n = k.read a n := by
  refine List.ext_getElem (by simp [read_length]) fun i h1 h2 => ?_
  rw [read_getElem, read_getElem, h i (by simpa [read_length] using h1)]
theorem get_zero (m : Memory) (lo hi a : Nat) (h : m.all (fun e => decide (e.1 < lo ∨ hi ≤ e.1)) = true) (h1 : lo ≤ a) (h2 : a < hi) : m.get a = 0 := by
  induction m with
  | nil => rfl
  | cons e t ih =>
    simp only [List.all_cons, Bool.and_eq_true, decide_eq_true_eq] at h
    simp only [Memory.get]
    rw [if_neg (by omega), ih h.2]

theorem laid_read {d : List Byte} (hd : d.length = 64) (a n : Nat) (h : a + n ≤ 0x20001018 ∨ 0x20001058 ≤ a) : (laid d).read a n = laid0.read a n :=
  read_congr _ _ _ _ fun i hi => Memory.get_write_outside _ _ _ _ (by rw [hd]; omega)
theorem laid_zero {d : List Byte} (hd : d.length = 64) (a n : Nat) (h : a + n ≤ 0x20001018 ∨ 0x20001058 ≤ a) (z : laid0.all (fun e => decide (e.1 < a ∨ a + n ≤ e.1)) = true) :
    (laid d).read a n = zeros n := by
  rw [laid_read hd a n h, zeros]
  refine List.ext_getElem (by simp [read_length]) fun i h1 h2 => ?_
  rw [read_getElem, List.getElem_replicate, get_zero laid0 a (a + n) (a + i) z (by omega) (by have := h1; rw [read_length] at this; omega)]

/-- A machine with that memory, with nothing in flight. -/
structure Laid (d : List Byte) (s : State) : Prop where
  len : d.length = 64
  hbm : s.hbm = laid d
  writes : s.writes = []

theorem Laid.lookup {d : List Byte} {s : State} (h : Laid d s) (va : Nat) (lt : va < 2 ^ 29) : s.lookup 0 va = some (0x20000000 + va, 0x20000017, 0x10000, 29) := by
  have r1 : leNat ((laid d).read 0 8) = 0x10001 := by rw [laid_read h.len _ _ (by omega)]; decide +kernel
  have r2 : leNat ((laid d).read 0x10000 8) = 0x20000017 := by rw [laid_read h.len _ _ (by omega)]; decide +kernel
  have f1 : fieldOf va 40 12 = 0 := by simp only [fieldOf]; omega
  have f2 : fieldOf va 29 11 = 0 := by simp only [fieldOf]; omega
  have f3 : fieldOf 0x10001 8 44 * 256 = 0x10000 := by decide
  have f4 : va % 2 ^ 29 = va := Nat.mod_eq_of_lt lt
  have p : physSpace (0x20000000 + va) = some (.hbm, 0x20000000 + va) := by
    have : (0x20000000 + va).testBit 51 = false := Nat.testBit_lt_two_pow (by omega)
    simp only [physSpace, this]
    rw [if_neg (by simp), if_pos (by omega)]
  have w : s.walk 0 va = .page (0x20000000 + va) 0x20000017 0x10000 29 := by
    unfold State.walk
    rw [if_neg (by omega), h.hbm]
    simp only [pageLevels, walkFrom, f1, f2, r1, Nat.mul_zero, f3, Nat.add_zero, r2, f4]
    rw [show pteP 0x10001 = true by decide, show pteLeaf 0x10001 = false by decide, show badTable 0x10001 14 = false by decide,
      show pteP 0x20000017 = true by decide, show pteLeaf 0x20000017 = true by decide, show badLeaf 0x20000017 29 = false by decide,
      show pteFrame 0x20000017 = 0x20000000 by decide, p]
    simp
  simp [State.lookup, w]

theorem Laid.phys (va : Nat) (lt : va < 2 ^ 29) : physSpace (0x20000000 + va) = some (.hbm, 0x20000000 + va) := by
  have : (0x20000000 + va).testBit 51 = false := Nat.testBit_lt_two_pow (by omega)
  simp only [physSpace, this]
  rw [if_neg (by simp), if_pos (by omega)]

theorem Laid.readHost {d : List Byte} {s : State} (h : Laid d s) (know : Know) (n : Nat) : ∀ va, va + n ≤ 2 ^ 29 →
    s.readHost know 0 va n = some ((laid d).read (0x20000000 + va) n) := by
  induction n with
  | zero => intro va _; rfl
  | succ n ih =>
    intro va lt
    have one (sp : Space) (r : Reader) (a place : Nat) : s.readBytes r sp a 1 place = [(s.mem sp).get a] := by
      simp [State.readBytes, unboundWrites, h.writes, Memory.read]
    simp [State.readHost, h.lookup va (by omega), ih (va + 1) (by omega), Laid.phys va (by omega), one, State.mem, h.hbm, Memory.read, Nat.add_assoc]

theorem Laid.readTable {d : List Byte} {s : State} (h : Laid d s) (know : Know) (va n : Nat) (lt : va + n ≤ 2 ^ 29) :
    s.readTable know 0 va n = .ok ((laid d).read (0x20000000 + va) n) := by
  simp [State.readTable, h.readHost know n va lt]

theorem Laid.tableAt {d : List Byte} {s : State} (h : Laid d s) (know : Know) (va n pa : Nat) (e : pa = 0x20000000 + va) (lt : va + n ≤ 2 ^ 29) :
    s.readTable know 0 va n = .ok ((laid d).read pa n) := by rw [e]; exact h.readTable know va n lt

theorem Laid.readArea {d : List Byte} {s : State} (h : Laid d s) (n : Nat) : ∀ va, va + n ≤ 2 ^ 29 →
    s.readArea 0 va n = .ok ((laid d).read (0x20000000 + va) n) := by
  have key : ∀ va, va + n ≤ 2 ^ 29 → s.readVirt 0 va n = some ((laid d).read (0x20000000 + va) n) := by
    induction n with
    | zero => intro va _; rfl
    | succ n ih =>
      intro va lt
      simp [State.readVirt, h.lookup va (by omega), ih (va + 1) (by omega), Laid.phys va (by omega), State.mem, h.hbm, Memory.read, Nat.add_assoc]
  intro va lt
  simp [State.readArea, key va lt]

/-- The image table of `laid`. -/
def image0 (d : List Byte) : Image := ⟨zeros 2, zeros 4096, [], d⟩
theorem image0_measured : (image0 digest0).measure = (image0 digest0).digest := by
  simp only [Image.measure, image0, List.flatMap_nil, List.append_nil, zeros_append]
  rw [digest0]

theorem leWords_append (a b : List Byte) (n k : Nat) (h : a.length = 8 * n) : leWords (a ++ b) (n + k) = leWords a n ++ leWords b k := by
  induction n generalizing a with
  | zero => simp [List.length_eq_zero_iff.mp (by omega : a.length = 0), leWords]
  | succ n ih =>
    rw [show n + 1 + k = (n + k) + 1 by omega]
    simp only [leWords, List.cons_append]
    rw [List.take_append_of_le_length (by omega), List.drop_append_of_le_length (by omega), ih _ (by simp; omega)]

theorem laid_digest {d : List Byte} (hd : d.length = 64) : (laid d).read 0x20001018 64 = d := by
  have h := read_write_self laid0 0x20001018 d (by decide +kernel)
  rw [hd] at h
  exact h
theorem laid_head {d : List Byte} (hd : d.length = 64) : (laid d).read 0x20001000 88 = laid0.read 0x20001000 24 ++ d := by
  rw [show (88 : Nat) = 24 + 64 from rfl, read_append, laid_read hd _ _ (by omega), show 0x20001000 + 24 = 0x20001018 from rfl, laid_digest hd]

theorem laid_three : laid0.read 0x20001000 24 = [2, 0, 0, 0, 0, 0, 0, 0, 0, 0x80, 0, 0, 0, 0, 0, 0, 0, 0, 1, 0, 0, 0, 0, 0] := by decide +kernel
theorem laid_words (d : List Byte) : leWords ([2, 0, 0, 0, 0, 0, 0, 0, 0, 0x80, 0, 0, 0, 0, 0, 0, 0, 0, 1, 0, 0, 0, 0, 0] ++ d) 11
    = [2, 0x8000, 0x10000] ++ leWords d 8 := by
  rw [leWords_append _ d 3 8 rfl,
    show leWords [2, 0, 0, 0, 0, 0, 0, 0, 0, 0x80, 0, 0, 0, 0, 0, 0, 0, 0, 1, 0, 0, 0, 0, 0] 3 = [2, 0x8000, 0x10000] by decide +kernel]
theorem laid_code {d : List Byte} (hd : d.length = 64) : (laid d).read 0x20008000 2 = zeros 2 := laid_zero hd _ _ (by omega) (by decide +kernel)
theorem laid_rtab {d : List Byte} (hd : d.length = 64) : (laid d).read 0x20010000 4096 = zeros 4096 := laid_zero hd _ _ (by omega) (by decide +kernel)

theorem Laid.image {d : List Byte} {s : State} (h : Laid d s) (know : Know) : readImage s know record0 = .ok (image0 d) := by
  have w1 : wordAt record0 1 = 0 := rfl
  have w3 : wordAt record0 3 = 0x1000 := rfl
  simp only [readImage, w1, w3, h.tableAt know 0x1000 88 0x20001000 rfl (by omega), bind, Except.bind, laid_head h.len, laid_three, laid_words]
  simp only [wordAt, List.cons_append, List.getD_cons_zero, List.getD_cons_succ]
  rw [show (2 : Word).toNat = 2 from rfl, show (0x8000 : Word).toNat = 0x8000 from rfl, show (0x10000 : Word).toNat = 0x10000 from rfl]
  rw [if_neg (by decide), show fieldOf 2 0 18 = 2 by decide, show fieldOf 2 18 16 = 0 by decide, h.tableAt know 0x8000 2 0x20008000 rfl (by omega),
    h.tableAt know 0x10000 4096 0x20010000 rfl (by omega), laid_code h.len, laid_rtab h.len]
  simp only [State.readTable, State.readHost, leWords, pairsOf, readRecs, List.any_nil, Bool.false_eq_true, if_false, List.drop_succ_cons,
    List.drop_zero, List.nil_append, image0]
  rfl

/-- What its check finds. -/
def tables0 (d : List Byte) : Tables := ⟨image0 d, routinesOf (zeros 4096), actionsOf (zeros 280), []⟩
theorem Laid.check {d : List Byte} {s : State} (h : Laid d s) (know : Know) : launchCheck s know record0 = .ok (tables0 d) := by
  have acts : (laid d).read 0x20020000 280 = zeros 280 := laid_zero h.len _ _ (by omega) (by decide +kernel)
  have pin : s.pinned 0 0x40000 9216 2 = true := by
    simp [State.pinned, State.pagesOk, h.lookup 0x40000 (by omega), show ptePin 0x20000017 = true by decide]
  have w1 : wordAt record0 1 = 0 := rfl
  have w4 : wordAt record0 4 = 0x20000 := rfl
  have w6 : wordAt record0 6 = 0x40000 := rfl
  have a : readActions s know 0 0x20000 = .ok (zeros 280) := by
    simp only [readActions, h.tableAt know 0x20000 280 0x20020000 rfl (by omega), bind, Except.bind, acts]
    rw [show fieldOf (wordAt (leWords (zeros 280) 35) 32) 0 16 = 0 by decide +kernel]
    simp [State.readTable, State.readHost]
  unfold launchCheck
  rw [show recordFaults record0 = [] by decide +kernel]
  simp only [w1, w4, w6, h.image, a, bind, Except.bind]
  rw [show nmsgOf record0 = 0 by decide +kernel, show fieldOf (wordAt record0 7) 0 32 = 64 by decide +kernel]
  rw [show (actionsOf (zeros 280)).pqN = 0 by decide +kernel]
  simp only [State.readTable, State.readHost, Nat.mul_zero, pin]
  rw [show (image0 d).rtab = zeros 4096 from rfl, show (routinesOf (zeros 4096)).any badRoutine = false by decide +kernel,
    show actionFaults (zeros 280) (routinesOf (zeros 4096)) (vtilesOf (levelsOf record0)) = [] by decide +kernel]
  rfl

/-- The save area at 0x50000. -/
def area0 : Area := ⟨header0, record0, zeros 4096, zeros 280, [], [], zeros 33280, zeros 66048⟩

theorem Laid.areaAt {d : List Byte} {s : State} (h : Laid d s) (va n pa : Nat) (e : pa = 0x20000000 + va) (lt : va + n ≤ 2 ^ 29) :
    s.readArea 0 va n = .ok ((laid d).read pa n) := by rw [e]; exact h.readArea n va lt
theorem laid_section {d : List Byte} (hd : d.length = 64) (n : Nat) (_ : n ≤ 66048) : (laid d).read 0x20060000 n = zeros n :=
  laid_zero hd _ _ (by omega) (by
    have all : laid0.all (fun e => decide (e.1 < 0x20060000)) = true := by decide +kernel
    simp only [List.all_eq_true, decide_eq_true_eq] at all ⊢
    intro e m
    have := all e m
    omega)
theorem laid_header {d : List Byte} (hd : d.length = 64) : leWords ((laid d).read 0x20050000 512) 64 = header0 := by
  rw [laid_read hd _ _ (by omega)]; decide +kernel

theorem Laid.saved {d : List Byte} {s : State} (h : Laid d s) : readSaved s 0 0x50000 = .ok area0 := by
  have sec (n : Nat) (le : n ≤ 66048) : s.readArea 0 0x60000 n = .ok (zeros n) := by
    rw [h.areaAt 0x60000 n 0x20060000 rfl (by omega), laid_section h.len n le]
  have off (i : Nat) (lt : i < 6) : 0x50000 + wordAt header0 (8 + i) = 0x60000 := by
    revert i; decide +kernel
  unfold readSaved
  rw [h.areaAt 0x50000 512 0x20050000 rfl (by omega)]
  simp only [bind, Except.bind, laid_header h.len]
  rw [show (header0.drop 16).take 40 = record0 by decide +kernel, show badHeader header0 record0 = false by decide +kernel]
  rw [off 0 (by omega), off 1 (by omega), off 2 (by omega), off 3 (by omega), off 4 (by omega), off 5 (by omega), sec 4096 (by omega), sec 280 (by omega)]
  simp only [Bool.false_eq_true, if_false]
  rw [show fieldOf (wordAt (leWords (zeros 280) 35) 32) 0 16 = 0 by decide +kernel, show nfut header0 = 0 by decide +kernel,
    show nnrd header0 = 0 by decide +kernel, show vtilesOf (levelsOf record0) = 1 by decide +kernel,
    show sizeOfLocal record0 = 1 by decide +kernel, show recBanks record0 = 1 by decide +kernel]
  simp only [Nat.mul_zero, Nat.add_zero, Nat.mul_one, Nat.one_mul, sec 280 (by omega), sec 0 (by omega)]
  rw [show 8 * (64 + 4096) = 33280 from rfl, show 512 + 65536 = 66048 from rfl, sec 33280 (by omega), sec 66048 (by omega)]
  rfl

theorem leNat_zeros (n : Nat) : leNat (zeros n) = 0 := by
  induction n with
  | zero => rfl
  | succ n ih => show (0 : Byte).toNat + 256 * leNat (zeros n) = 0; rw [ih]; rfl
theorem zeros_take (k n : Nat) : (zeros n).take k = zeros (min k n) := by simp [zeros]
theorem zeros_drop (k n : Nat) : (zeros n).drop k = zeros (n - k) := by simp [zeros]
theorem area0_counters (vt : Nat) : area0.counters vt = [] := by
  have : ∀ vt, leNat (((area0.tileBytes vt).drop 128).take 8) = 0 := by
    intro vt
    simp only [Area.tileBytes, show area0.tile = zeros 66048 from rfl, zeros_take, zeros_drop, leNat_zeros]
  simp [Area.counters, this]
theorem area0_free (s : State) (place : List Nat) : restoreFree s area0 place = true := by
  have a : nfut area0.head = 0 := by decide +kernel
  simp [restoreFree, area0_counters, a]

/-- A machine that launches: job 0 with its page tables at 0, its request at the launch unit. -/
def west0 : Packet := pkt (.ni 0) (.west 3) (.request 9)
def launching (d : List Byte) (k : ReqKind) (q : List Launching) : State := { ev west0 { job0 with words := [] } with
  hbm := laid d, reqs := [asked k], deviceQ := q, restores := [9], jobs := [(0, { job0 with words := [] }), (3, job0)] }
def head0 (n : Nat) (words : List Word) : Launching := { (default : Launching) with source := n, words := words }
def quiet0 : Job := { job0 with phase := .loading, roots := [msg0] }
def ring0 (l : List Draw) : Saved := ⟨0, 0, { job0 with jtag := 5, tvalid := true }, 0, 1, 0, l⟩
def farRing (l : List Draw) : State := { ev { pkt (.west 3) (.west 3) (.farSend msg0 1 8 5) with job := 2 ^ 20 + 5 } job0 with saved := [ring0 l] }

theorem laid_launching {d : List Byte} (hd : d.length = 64) (k : ReqKind) (q : List Launching) : Laid d (launching d k q) := ⟨hd, rfl, rfl⟩
theorem some_digest : ∃ d : List Byte, d.length = 64 ∧ (image0 d).measure = (image0 d).digest := ⟨digest0, digest0_length, image0_measured⟩
theorem manyQueued (d : List Byte) (k : ReqKind) (n : Nat) : n ≤ (launching d k (List.replicate n default)).deviceQ.length := by simp [launching]

theorem wit_FutureAndLaunchEvents_2 :
    (∃ (s : State) (p : Packet) (r : Req) (j : Job), s.arrived? p.id = some p ∧ p.dst = .west 3 ∧ p.body = .request r.id ∧ s.req? r.id = some r
      ∧ s.job? r.job = some j ∧ r.kind = .launch 0x50000 ∧ 256 ≤ s.deviceQ.length)
    ∧ (∃ (s : State) (p : Packet) (r : Req) (j : Job) (bs : List Byte), s.arrived? p.id = some p ∧ p.dst = .west 3 ∧ p.body = .request r.id
      ∧ s.req? r.id = some r ∧ s.job? r.job = some j ∧ r.kind = .launch 0x50000 ∧ s.deviceQ.length < 256
      ∧ ∀ k, s.readTable k j.ptroot 0x50000 320 = .ok bs)
    ∧ (∀ n ∈ [0, 1, 4], ∃ (s : State) (p : Packet) (r : Req) (j : Job), s.arrived? p.id = some p ∧ p.dst = .west 3 ∧ p.body = .request r.id
      ∧ s.req? r.id = some r ∧ s.job? r.job = some j ∧ r.kind = .ctxsave n 0
      ∧ (n = r.job ∨ s.job? n = none ∨ (∃ k, s.job? n = some k ∧ k.saveReq ≠ none)))
    ∧ (∃ (s : State) (p : Packet) (r : Req) (j k : Job), s.arrived? p.id = some p ∧ p.dst = .west 3 ∧ p.body = .request r.id ∧ s.req? r.id = some r
      ∧ s.job? r.job = some j ∧ r.kind = .ctxsave 3 0 ∧ 3 ≠ r.job ∧ s.job? 3 = some k ∧ k.saveReq = none ∧ k.drawq = []
      ∧ k.homew ≠ 2 ^ k.wtotal)
    ∧ (∃ (s : State) (p : Packet) (r : Req) (j : Job), s.arrived? p.id = some p ∧ p.dst = .west 3 ∧ p.body = .request r.id ∧ s.req? r.id = some r
      ∧ s.job? r.job = some j ∧ r.kind = .ctxload 0x50000) := by
  obtain ⟨d, hd, -⟩ := some_digest
  refine ⟨⟨launching d (.launch 0x50000) (List.replicate 256 default), west0, asked (.launch 0x50000), { job0 with words := [] }, rfl, rfl, rfl, rfl, rfl,
      rfl, manyQueued _ _ 256⟩,
    ⟨launching d (.launch 0x50000) [], west0, asked (.launch 0x50000), { job0 with words := [] }, _, rfl, rfl, rfl, rfl, rfl, rfl, Nat.zero_lt_succ _,
      fun k => (laid_launching hd _ _).readTable k 0x50000 320 (by omega)⟩,
    fun n h => ⟨{ launching d (.ctxsave n 0) [] with jobs := [(0, { job0 with words := [] }), (4, { job0 with saveReq := some (8, 0) })] }, west0,
      asked (.ctxsave n 0), { job0 with words := [] }, rfl, rfl, rfl, rfl, rfl, rfl, ?_⟩,
    ⟨launching d (.ctxsave 3 0) [], west0, asked (.ctxsave 3 0), { job0 with words := [] }, job0, rfl, rfl, rfl, rfl, rfl, rfl, by decide, rfl, rfl, rfl,
      by decide +kernel⟩,
    launching d (.ctxload 0x50000) [], west0, asked (.ctxload 0x50000), { job0 with words := [] }, rfl, rfl, rfl, rfl, rfl, rfl⟩
  simp only [List.mem_cons, List.not_mem_nil, or_false] at h
  rcases h with rfl | rfl | rfl
  · exact Or.inl rfl
  · exact Or.inr (Or.inl rfl)
  · exact Or.inr (Or.inr ⟨_, rfl, by decide +kernel⟩)

/-- The launch unit going on with the first record of queue 5, or with one of the device's queue. -/
def going (d : List Byte) (l : Launching) : State := { launching d (.launch 0) [] with waiting := [{ l with fresh := true }], futures := [(0, ⟨some 1024, false, 0, 1, [], none⟩)] }
/-- A context of loading whose last chain has been reported, and others to load after it. -/
def reported (k : ReqKind) (l : Launching) (j : Job) (more : List Chain) : State := { base with
  loading := some l, chains := newChain 0 [5] [] :: more, jobs := [(0, j)], packets := [pkt (.ni 5) (.west 0) (.chainReport 0)], reqs := [asked k], clk := 64 }
/-- The restore of a context at 0x50000, and a record of queue 5. -/
def restore0 : Launching := ⟨1025, 0x50000, 9, false, [], [], 0, [], false⟩
def record5 : Launching := ⟨5, 0, 0, true, List.replicate 40 0, [], 0, [], true⟩

theorem wit_FutureAndLaunchEvents_3 :
    (∃ (s : State) (prio : Nat) (l : Launching) (x : Tables), Stated.Launches s ∧ nextQueue s = some (1024, prio) ∧ waitingOf s 1024 = none
      ∧ s.recordOf 1024 = some l ∧ launchCheck s l.know l.words = .ok x
      ∧ anyStale s l (depsOf l.words ++ (if wordAt l.words 15 = 0 then [] else [wordAt l.words 15])) = false)
    ∧ (∃ (s : State) (prio : Nat) (l : Launching) (codes : List Nat), Stated.Launches s ∧ nextQueue s = some (5, prio) ∧ waitingOf s 5 = none
      ∧ s.recordOf 5 = some l ∧ codes ≠ [] ∧ launchCheck s l.know l.words = .error (.refuse codes) ∧ l.source < 1024 ∧ l.words.getD 15 0 = 0)
    ∧ (∃ (s : State) (prio : Nat) (l : Launching), Stated.Launches s ∧ nextQueue s = some (l.source, prio) ∧ waitingOf s l.source = some l
      ∧ depStale s l = true ∧ l.source < 1024 ∧ l.words.getD 15 0 = 0)
    ∧ (∃ (s : State) (prio : Nat) (l : Launching), Stated.Launches s ∧ nextQueue s = some (l.source, prio) ∧ waitingOf s l.source = some l
      ∧ depStale s l = false ∧ l.deps ≠ [])
    ∧ (∃ (s : State) (prio : Nat) (l : Launching), Stated.Launches s ∧ nextQueue s = some (l.source, prio) ∧ waitingOf s l.source = some l
      ∧ depStale s l = false ∧ l.deps = [] ∧ zeroCount l.words = true ∧ l.source < 1024 ∧ l.words.getD 15 0 = 0 ∧ fieldOf (wordAt l.words 10) 0 16 = 0)
    ∧ (∃ (s : State) (prio : Nat) (l : Launching) (x : Tables) (job node : Nat) (rest : List Nat), Stated.Launches s
      ∧ nextQueue s = some (l.source, prio) ∧ waitingOf s l.source = some l ∧ depStale s l = false ∧ l.deps = [] ∧ zeroCount l.words = false
      ∧ launchPlace s l = .ok (some (x, job, node :: rest)) ∧ x.image.measure = x.image.digest)
    ∧ (∃ (s : State) (l : Launching) (p : Packet) (j : Job), s.live = true ∧ s.loading = some l ∧ l.source < 1024 ∧ chainReport s = some p
      ∧ s.job? l.job = some j ∧ j.killed = false ∧ j.roots ≠ [])
    ∧ (∃ (s : State) (r : Req) (p : Job) (codes : List Nat), Stated.Launches s ∧ s.req? r.id = some r ∧ r.kind = .ctxload 0x20000
      ∧ s.job? r.job = some p ∧ s.restores.contains r.id = true ∧ readSaved s p.ptroot 0x20000 = .error (.refuse codes))
    ∧ (∃ (s : State) (r : Req) (p : Job) (x : Area) (img : Image) (job node : Nat) (rest : List Nat) (pa : Nat) (y : Nat × Nat × Nat),
      Stated.Launches s ∧ s.req? r.id = some r ∧ r.kind = .ctxload 0x50000 ∧ s.job? r.job = some p ∧ s.restores.contains r.id = true
      ∧ readSaved s p.ptroot 0x50000 = .ok x ∧ readImage s r.know x.words = .ok img ∧ img.measure = img.digest ∧ s.freeJob = some job
      ∧ s.placement (levelsOf x.words) (needsOf x.words img.code.length) = some (node :: rest) ∧ s.lookup p.ptroot 0x50000 = some (pa, y)
      ∧ restoreFree s x (node :: rest) = true)
    ∧ (∀ rest ∈ [[], [newChain 0 [5] []]], ∃ (s : State) (r : Req) (p : Job) (l : Launching) (q : Packet) (c : Chain) (j : Job), s.live = true
      ∧ s.req? r.id = some r ∧ r.kind = .ctxload 0x50000 ∧ s.job? r.job = some p ∧ s.loading = some l ∧ l.source = 1025 ∧ l.parent = r.id
      ∧ chainReport s = some q ∧ s.chains = c :: rest ∧ s.job? l.job = some j)
    ∧ (∀ n ∈ [0, 1], ∃ (s : State) (p : Packet) (m : Msg) (x : Saved), s.arrived? p.id = some p ∧ p.body = .farSend m 1 8 5 ∧ p.job = 2 ^ 20 + 5
      ∧ s.savedTag 5 = some x ∧ x.spill.length = n ∧ x.ringN = 1) := by
  obtain ⟨d, hd, hm⟩ := some_digest
  have free (k : ReqKind) (q : List Launching) : (launching d k q).freeJob = some 1 := by
    show (List.range 1024).find? (fun n => (Map.get? [(0, { job0 with words := [] }), (3, job0)] n).isNone) = some 1
    decide +kernel
  have place (k : ReqKind) (q : List Launching) : (launching d k q).placement (levelsOf record0) (needsOf record0 2)
      = (launching [] (.launch 0) []).placement (levelsOf record0) (needsOf record0 2) := rfl
  have place0 : (launching [] (.launch 0) []).placement (levelsOf record0) (needsOf record0 2) = some [16] := by decide +kernel
  have deps : depsOf record0 = [] := by decide +kernel
  have laidGoing : Laid d (going d (head0 1024 record0)) := ⟨hd, rfl, rfl⟩
  refine ⟨⟨launching d (.launch 0) [head0 1024 record0], 3, head0 1024 record0, tables0 d, ⟨rfl, rfl, rfl⟩,
      (show nextQueue (launching [] (.launch 0) [head0 1024 record0]) = some (1024, 3) by decide +kernel), rfl, rfl,
      (laid_launching hd _ _).check _, by rw [show (head0 1024 record0).words = record0 from rfl, deps]; rfl⟩,
    ⟨{ base with queues := [(5, ⟨0, 4, 1, true, 1, 0, []⟩)] }, 1, record5, recordFaults (List.replicate 40 0),
      by unfold Stated.Launches; decide +kernel⟩,
    ⟨going [] { head0 5 [] with deps := [1] }, 0, { head0 5 [] with deps := [1], fresh := true }, by unfold Stated.Launches; decide +kernel⟩,
    ⟨going [] { head0 5 [] with deps := [BitVec.ofNat 64 (2 ^ 32)] }, 0, { head0 5 [] with deps := [BitVec.ofNat 64 (2 ^ 32)], fresh := true },
      by unfold Stated.Launches; decide +kernel⟩,
    ⟨going [] (head0 5 []), 0, { head0 5 [] with fresh := true }, by unfold Stated.Launches; decide +kernel⟩,
    ⟨going d (head0 1024 record0), 3, { head0 1024 record0 with fresh := true }, tables0 d, 1, 16, [], ⟨rfl, rfl, rfl⟩,
      rfl, rfl, rfl, rfl, by decide +kernel, ?_, hm⟩,
    ⟨reported (.launch 0) { head0 5 [] with job := 0 } quiet0 [], { head0 5 [] with job := 0 }, pkt (.ni 5) (.west 0) (.chainReport 0), quiet0,
      by decide +kernel⟩,
    ⟨launching d (.ctxload 0x20000) [], asked (.ctxload 0x20000), { job0 with words := [] }, [12], ⟨rfl, rfl, rfl⟩, rfl, rfl, rfl, rfl, ?_⟩,
    ⟨launching d (.ctxload 0x50000) [], asked (.ctxload 0x50000), { job0 with words := [] }, area0, image0 d, 1, 16, [], 0x20050000,
      (0x20000017, 0x10000, 29), ⟨rfl, rfl, rfl⟩, rfl, rfl, rfl, rfl, (laid_launching hd _ _).saved, (laid_launching hd _ _).image _, hm, free _ _,
      (place _ _).trans place0, (laid_launching hd _ _).lookup 0x50000 (by omega), area0_free _ _⟩,
    fun rest h => ⟨reported (.ctxload 0x50000) restore0 job0 rest, asked (.ctxload 0x50000), job0, restore0, pkt (.ni 5) (.west 0) (.chainReport 0),
      newChain 0 [5] [], job0, ?_⟩,
    fun n h => ⟨farRing (List.replicate n default), { pkt (.west 3) (.west 3) (.farSend msg0 1 8 5) with job := 2 ^ 20 + 5 }, msg0,
      ring0 (List.replicate n default), ?_⟩⟩
  · have c := laidGoing.check ({ head0 1024 record0 with fresh := true } : Launching).know
    have f : (going d (head0 1024 record0)).freeJob = some 1 := free (.launch 0) []
    have p : (going d (head0 1024 record0)).placement (levelsOf record0) (needsOf record0 (tables0 d).image.code.length) = some [16] :=
      (place (.launch 0) []).trans place0
    simp only [launchPlace, show (head0 1024 record0).words = record0 from rfl, c, f, p, bind, Except.bind]
  · have z : (laid d).read 0x20020000 512 = zeros 512 := laid_zero hd _ _ (by omega) (by decide +kernel)
    have e := (laid_launching hd (.ctxload 0x20000) []).areaAt 0x20000 512 0x20020000 rfl (by omega)
    show readSaved _ 0 0x20000 = _
    unfold readSaved
    rw [e, z]
    simp only [bind, Except.bind]
    rw [show badHeader (leWords (zeros 512) 64) ((List.drop 16 (leWords (zeros 512) 64)).take 40) = true by decide +kernel]
    rfl
  · simp only [List.mem_cons, List.not_mem_nil, or_false] at h; rcases h with rfl | rfl <;> decide +kernel
  · simp only [List.mem_cons, List.not_mem_nil, or_false] at h; rcases h with rfl | rfl <;> decide +kernel

/-! ### Events of the fabric, the platform and the host -/

/-- Ports 3 and 4 up with credits, a route to device 9 over port 4, and a job of tag 5 with a pinned page. -/
def tagged0 : Job := { job0 with words := [], jtag := 5, tvalid := true }
def linked : State := { base with
  clk := 2 ^ 25, jobs := [(0, tagged0)], hbm := laid [], outs := [out0], reqs := [asked (.near 0 [])], fabOut := [], ckpt := []
  ports := List.replicate 32 ⟨true, [], 0, List.replicate 20 8, 0, List.replicate 20 0⟩, routes := [(9, BitVec.ofNat 64 (4 + 2 ^ 22 + 2 ^ 25))] }
def fab0 (dst hop tag : Nat) (b : FabBody) : FabPkt := ⟨dst, 1, hop, 0, true, tag, b⟩
def retry0 : FabBody := .retrySend 7 6 true
/-- Whether a packet of a content for this device reaches port 3 of that machine. -/
theorem reaches (hop tag : Nat) (b : FabBody) (h : hop < 5) : Stated.FabricAt linked 3 (fab0 0 hop tag b) := ⟨rfl, by decide, h, Nat.zero_lt_succ 3, rfl⟩
/-- The same with another context, which is saved with tag 6, its home under a census, or with far sends queued at the I/O node of its
row. -/
def savedLinked : State := { linked with saved := [⟨0, 0, { tagged0 with jtag := 6 }, 0, 1, 0, []⟩] }
def counted : State := { linked with jobs := [(0, { tagged0 with census := some default })] }
def queued (n : Nat) : State := { linked with packets := List.replicate n { pkt (portNode 3 (Endpoint.unit 0).row) (.unit 0) (.farSend msg0 1 8 5) with pos := .source } }
/-- A packet of another device has crossed the mesh to the NI of tile 0. -/
def inside (b : FabBody) : Packet := pkt (.west 0) (.ni 0) (.fabIn (fab0 0 1 5 b))
def landing (b : FabBody) : State := { linked with packets := [inside b] }
def copied : State := { landing (.data 9 0 [1]) with reqs := [asked (.copy false [0, 0, 0, 8] 0 0)], btes := Map.set [] 5 [⟨9, 0, 0, 0, false, true, (0, 0)⟩] }
def farWalk : State := { walking (2 ^ 29) with walks := [(5, { acc0 .read (2 ^ 29) noPa with dev := some 1, node := 0 })] }

theorem wit_FabricEvents_1 :
    (∀ c ∈ [8, 0], ∃ (s : State) (p : FabPkt), (s.port 3).up = true ∧ p.hop < 4 ∧ p.cls < 4 ∧ (∀ n c, p.body ≠ .linkAck n c) ∧ p.dst ≠ s.devid
      ∧ (s.routes.getD p.dst 0).toNat.testBit 25 = true ∧ p.ord = true ∧ (s.port (fieldOf (s.routes.getD p.dst 0).toNat 0 5)).up = true
      ∧ (s.port (fieldOf (s.routes.getD p.dst 0).toNat 0 5)).credits.getD (5 * p.cls + (p.hop + 1)) 0 = c ∧ 0 < fabFlits { p with hop := p.hop + 1 }
      ∧ fabFlits { p with hop := p.hop + 1 } ≤ 8 ∧ s.fabOut = [])
    ∧ (∃ (s : State) (p : FabPkt), (s.port 3).up = true ∧ p.cls < 4 ∧ (∀ n c, p.body ≠ .linkAck n c) ∧ p.dst ≠ s.devid ∧ p.hop = 4 ∧ p.src ≠ s.devid)
    ∧ (∃ (s : State) (p : FabPkt), (s.port 3).up = true ∧ p.hop < 5 ∧ p.cls < 4 ∧ p.body = .linkAck 2 [1] ∧ s.fabOut = [])
    ∧ (∃ (s : State) (p : FabPkt), Stated.FabricAt s 3 p ∧ p.body = .send msg0.hdr [1] 0 7 ∧ holderOf s p.jtag = none)
    ∧ (∃ (s : State) (p : FabPkt) (n : Nat) (j : Job), Stated.FabricAt s 3 p ∧ p.body = .send msg0.hdr [1] 0 7
      ∧ holderOf s p.jtag = some n ∧ s.context? n = some j ∧ n < 2 ^ 20 ∧ farQueued s (portNode 3 (Endpoint.unit j.die).row) < 32
      ∧ farSendOk j msg0.hdr = true)
    ∧ (∃ (s : State) (p : FabPkt) (n : Nat) (j : Job), Stated.FabricAt s 3 p ∧ p.body = .send msg0.hdr [1] 0 7
      ∧ holderOf s p.jtag = some n ∧ s.context? n = some j ∧ 2 ^ 20 ≤ n ∧ farQueued s (portNode 3 (Endpoint.west 0).row) < 32
      ∧ farSendOk j msg0.hdr = true)
    ∧ (∃ (s : State) (p : FabPkt) (n : Nat) (j : Job), Stated.FabricAt s 3 p ∧ p.body = .send msg0.hdr [1] 0 7
      ∧ holderOf s p.jtag = some n ∧ s.context? n = some j ∧ n < 2 ^ 20 ∧ 32 ≤ farQueued s (portNode 3 (Endpoint.unit j.die).row))
    ∧ (∃ (s : State) (p : FabPkt) (n : Nat) (j : Job), Stated.FabricAt s 3 p ∧ p.body = .send (-1) [1] 0 7
      ∧ holderOf s p.jtag = some n ∧ s.context? n = some j ∧ n < 2 ^ 20 ∧ farQueued s (portNode 3 (Endpoint.unit j.die).row) < 32
      ∧ farSendOk j (-1) = false)
    ∧ (∃ (s : State) (p : FabPkt), Stated.FabricAt s 3 p ∧ p.body = .copyRead 0x1000 128 0 9 5 ∧ holderOf s p.jtag = none)
    ∧ (∃ (s : State) (p : FabPkt) (n : Nat) (j : Job) (pa e addr bits : Nat), Stated.FabricAt s 3 p ∧ p.body = .copyRead 0x1000 128 0 9 5
      ∧ holderOf s p.jtag = some n ∧ s.context? n = some j ∧ s.walk j.ptroot 0x1000 = .page pa e addr bits ∧ pa.testBit 51 = false)
    ∧ (∀ b ∈ [FabBody.retrySend 7 6 true, .failed true 7 3 0], ∃ (s : State) (p : FabPkt) (o : OutMsg), Stated.FabricAt s 3 p ∧ p.body = b
      ∧ o.id = 7 ∧ s.out? 7 = some o)
    ∧ (∀ b ∈ [FabBody.retryReq 9 6 0 0 true, .result 9 0 0 []], ∃ (s : State) (p : FabPkt) (r : Req), Stated.FabricAt s 3 p ∧ p.body = b
      ∧ r.id = 9 ∧ s.req? 9 = some r ∧ r.kind = .near 0 [])
    ∧ (∀ c : Bool, ∃ (s : State) (p : FabPkt) (o : OutMsg) (j : Job), Stated.FabricAt s 3 p ∧ p.body = .credit o.id 5 ∧ s.out? o.id = some o
      ∧ s.job? o.msg.job = some j ∧ j.census.isSome = c)
    ∧ (∃ (s : State) (p : FabPkt), Stated.FabricAt s 3 p ∧ p.body = .failed true 7 5 0)
    ∧ (∀ pod : Bool, ∃ (s : State) (p : FabPkt) (o : OutMsg), Stated.FabricAt s 3 p ∧ s.out? o.id = some o ∧ p.body = .nak true pod o.id 5 0 0 0
      ∧ p.dst = 0 ∧ s.devid = 0)
    ∧ (∃ (s : State) (p : FabPkt) (r : Req), Stated.FabricAt s 3 p ∧ p.body = .nak false false r.id 5 0 0 9 ∧ s.req? r.id = some r
      ∧ r.kind = .near 0 []) :=
  ⟨fun c h => ⟨{ linked with ports := List.replicate 32 ⟨true, [], 0, List.replicate 20 c, 0, List.replicate 20 0⟩ }, fab0 9 3 5 retry0, by
      simp only [List.mem_cons, List.not_mem_nil, or_false] at h
      rcases h with rfl | rfl <;> (refine ⟨rfl, by decide, by decide, fun n c h => ?_, ?_⟩; · cases h
                                   · decide +kernel)⟩,
    ⟨linked, fab0 9 4 5 retry0, rfl, by decide, (fun n c h => by cases h), by decide +kernel⟩,
    ⟨linked, fab0 0 4 5 (.linkAck 2 [1]), by decide +kernel⟩,
    ⟨linked, fab0 0 0 6 (.send msg0.hdr [1] 0 7), reaches _ _ _ (by decide), rfl, by decide +kernel⟩,
    ⟨linked, fab0 0 4 5 (.send msg0.hdr [1] 0 7), 0, tagged0, reaches _ _ _ (by decide), rfl, by decide +kernel⟩,
    ⟨savedLinked, fab0 0 4 6 (.send msg0.hdr [1] 0 7), 2 ^ 20 + 6, { tagged0 with jtag := 6 }, reaches _ _ _ (by decide), rfl, by decide +kernel⟩,
    ⟨queued 32, fab0 0 4 5 (.send msg0.hdr [1] 0 7), 0, tagged0, reaches _ _ _ (by decide), rfl, by decide +kernel⟩,
    ⟨linked, fab0 0 4 5 (.send (-1) [1] 0 7), 0, tagged0, reaches _ _ _ (by decide), rfl, by decide +kernel⟩,
    ⟨linked, fab0 0 0 6 (.copyRead 0x1000 128 0 9 5), reaches _ _ _ (by decide), rfl, by decide +kernel⟩,
    ⟨linked, fab0 0 0 5 (.copyRead 0x1000 128 0 9 5), 0, tagged0, 0x20001000, 0x20000017, 0x10000, 29, reaches _ _ _ (by decide), rfl, by decide +kernel⟩,
    fun b h => ⟨linked, fab0 0 0 5 b, out0, reaches _ _ _ (by decide), rfl, rfl, rfl⟩,
    fun b h => ⟨linked, fab0 0 0 5 b, asked (.near 0 []), reaches _ _ _ (by decide), rfl, rfl, rfl, rfl⟩,
    fun c => ⟨if c then counted else linked, fab0 0 0 5 (.credit 7 5), out0, if c then { tagged0 with census := some default } else tagged0,
      by cases c <;> exact reaches _ _ _ (by decide), rfl, by cases c <;> decide +kernel⟩,
    ⟨linked, fab0 0 0 5 (.failed true 7 5 0), reaches _ _ _ (by decide), rfl⟩,
    fun pod => ⟨linked, fab0 0 0 5 (.nak true pod 7 5 0 0 0), out0, reaches _ _ _ (by decide), rfl, rfl, rfl, rfl⟩,
    linked, fab0 0 0 5 (.nak false false 9 5 0 0 9), asked (.near 0 []), reaches _ _ _ (by decide), rfl, rfl, rfl⟩

theorem wit_FabricEvents_2 :
    (∃ (s : State) (p : Packet) (f : FabPkt) (o : OutMsg), s.arrived? p.id = some p ∧ p.body = .fabIn f ∧ f.body = .retrySend 7 6 true
      ∧ s.out? 7 = some o)
    ∧ (∃ (s : State) (p : Packet) (f : FabPkt) (r : Req), s.arrived? p.id = some p ∧ p.body = .fabIn f ∧ f.body = .retryReq 9 6 0 0 true
      ∧ s.req? 9 = some r ∧ r.kind = .near 0 [])
    ∧ (∃ (s : State) (p : Packet) (f : FabPkt) (r : Req) (words : List Word), s.arrived? p.id = some p ∧ p.body = .fabIn f
      ∧ f.body = .result r.id 0 0 words ∧ s.req? r.id = some r ∧ words.length = 13)
    ∧ (∃ (s : State) (p : Packet) (f : FabPkt) (bytes : List Byte) (bte ch seq : Nat) (r : Req) (x : Transfer) (j : Job) (b : List Word),
      s.arrived? p.id = some p ∧ p.body = .fabIn f ∧ f.body = .data r.id x.moved bytes ∧ s.req? r.id = some r ∧ bteOf s r.id = some (bte, x)
      ∧ s.job? r.job = some j ∧ r.kind = .copy false b ch seq ∧ x.failed = (0, 0) ∧ x.dsrc = 0 ∧ bytes ≠ [])
    ∧ (∃ (s : State) (p : Packet) (f : FabPkt) (o : OutMsg) (j : Job), s.arrived? p.id = some p ∧ p.body = .fabIn f ∧ f.body = .credit o.id 5
      ∧ s.out? o.id = some o ∧ s.job? o.msg.job = some j ∧ j.census = none ∧ hdrWeight o.msg.hdr ≠ 0)
    ∧ (∃ (s : State) (p : Packet) (f : FabPkt) (o : OutMsg), s.arrived? p.id = some p ∧ p.body = .fabIn f ∧ f.body = .failed true o.id 3 0
      ∧ s.out? o.id = some o)
    ∧ (∀ pod : Bool, ∃ (s : State) (p : Packet) (f : FabPkt) (o : OutMsg), s.arrived? p.id = some p ∧ p.body = .fabIn f
      ∧ f.body = .nak true pod o.id 5 0 0 s.devid ∧ s.out? o.id = some o)
    ∧ (∃ (s : State) (p : Packet) (f : FabPkt) (r : Req), s.arrived? p.id = some p ∧ p.body = .fabIn f ∧ f.body = .nak false false r.id 5 0 0 9
      ∧ s.req? r.id = some r ∧ r.kind = .near 0 []) := by
  refine ⟨⟨landing retry0, inside retry0, fab0 0 1 5 retry0, out0, rfl, rfl, rfl, rfl⟩,
    ⟨landing (.retryReq 9 6 0 0 true), inside (.retryReq 9 6 0 0 true), _, asked (.near 0 []), rfl, rfl, rfl, rfl, rfl⟩,
    ⟨landing (.result 9 0 0 (List.replicate 13 0)), inside (.result 9 0 0 (List.replicate 13 0)), _, asked (.near 0 []), List.replicate 13 0,
      rfl, rfl, rfl, rfl, rfl⟩,
    ⟨copied, inside (.data 9 0 [1]), _, [1], 5, 0, 0, asked (.copy false [0, 0, 0, 8] 0 0), ⟨9, 0, 0, 0, false, true, (0, 0)⟩, tagged0,
      [0, 0, 0, 8], rfl, rfl, rfl, rfl, rfl, rfl, rfl, rfl, rfl, by decide⟩,
    ⟨landing (.credit 7 5), inside (.credit 7 5), _, out0, tagged0, rfl, rfl, rfl, rfl, rfl, rfl, by decide +kernel⟩,
    ⟨landing (.failed true 7 3 0), inside (.failed true 7 3 0), _, out0, rfl, rfl, rfl, rfl⟩,
    fun pod => ⟨landing (.nak true pod 7 5 0 0 0), inside (.nak true pod 7 5 0 0 0), _, out0, rfl, rfl, rfl, rfl⟩,
    landing (.nak false false 9 5 0 0 9), inside (.nak false false 9 5 0 0 9), _, asked (.near 0 []), rfl, rfl, rfl, rfl, rfl⟩

/-- A checkpoint of a job of tag 5: its map at 0x1000 with a header of generation 7 for port 0, namespace 1, blocks from 8 on, and future
0 of the launch unit; in a phase, with what it awaits and what it has digested, or with one entry of a page of two replicas. -/
def ckpt0 (phase : Nat) (l : List (Nat × Nat)) : Ckpt :=
  ⟨5, 0, [], 0, 2 ^ 25, 0, 0x1000, [257, 8, 7, BitVec.ofNat 64 (2 ^ 32 + 2 ^ 63)], 4, phase, 0, l, [(2, (1, 3), [9])]⟩
def slot0 : Ckpt := { ckpt0 0 [] with entries := [[0x1000, 4096, 1, 0]], nslot := 1, digests := [] }
def checking (k : Ckpt) : State := { linked with
  ckpt := [k], futures := [(0, ⟨some 1024, false, 0, 1, [], none⟩)]
  nvme := { State.reset.nvme with enabled := [true], sizes := [(1, 2 ^ 20)] } }

def page0 : Chunk := ⟨0, 0, 0x1000, 4096, 2, 1⟩
theorem slot0_bytes : ∃ bs, chunkBytes (checking slot0) slot0 page0 = some bs := Option.isSome_iff_exists.mp (by decide +kernel)

theorem wit_FabricEvents_3 :
    (∃ (s : State) (w : Nat × Access) (j : Job) (d e addr bits : Nat), s.walks.find? (fun x => x.1 == w.1) = some w
      ∧ s.context? w.2.job = some j ∧ w.2.dev = some d ∧ w.2.node = 0 ∧ s.walk j.ptroot w.2.va = .locator e addr bits)
    ∧ (∃ s : State, (s.port 31).up = true ∧ (s.port 31).replay ≠ [] ∧ (s.port 31).since + 2 ^ 20 ≤ s.clk)
    ∧ (∀ r : Bool, ∃ s : State, (s.port 0).up = false ∧ s.inReset = r)
    ∧ (∃ (s : State) (o : OutMsg), s.out? o.id = some o ∧ o.far = some 9 ∧ o.state = .refused ∧ o.first ≠ 0 ∧ o.first + 2 ^ 24 = s.clk + 1)
    ∧ (∃ (s : State) (r : Req) (b : List Word), s.out? r.id = none ∧ s.req? r.id = some r ∧ r.kind = .near 0 b ∧ nearFar s b = some 9 ∧ r.due ≠ 0
      ∧ r.first ≠ 0 ∧ r.first + 2 ^ 24 = s.clk + 1)
    ∧ (∃ s : State, s.ckpt = [])
    ∧ (∃ (s : State) (k : Ckpt) (own : List Byte) (a : Nat × Nat), s.ckpt = [k] ∧ k.jtag = 5 ∧ wordAt k.hdr 2 = 7 ∧ k.phase = 0
      ∧ k.digests.find? (fun x => x.2.1 == (1, 3)) = some (2, (1, 3), own) ∧ k.awaiting.find? (fun x => x.1 == 2) = some a
      ∧ k.result.toNat % 256 = 0)
    ∧ (∀ l ∈ [[(2, 64)], []], ∃ (s : State) (k : Ckpt), s.ckpt = [k] ∧ k.result.toNat % 256 = 0 ∧ s.nvme.data.wf = true ∧ k.phase = 0
      ∧ k.entries = [] ∧ s.peerDigests = [] ∧ k.awaiting = l ∧ (wordAt k.hdr 0).testBit 0 = true ∧ s.clk < k.started + 6400000000)
    ∧ (∃ (s : State) (k : Ckpt) (c : Chunk) (bs : List Byte), s.ckpt = [k] ∧ k.result.toNat % 256 = 0 ∧ s.nvme.data.wf = true ∧ k.phase = 0
      ∧ s.clk < k.started + 6400000000 ∧ k.chunks = [(0, c)] ∧ k.awaiting = [] ∧ s.peerDigests = [] ∧ chunkBytes s k c = some bs
      ∧ writes_ k.rank c = true ∧ c.copies < c.group ∧ s.nvmeOn (slotPlace k.hdr k.nslot 0).1 = true
      ∧ s.blocksOk (slotPlace k.hdr k.nslot 0).1 (fieldOf (wordAt k.hdr 0) 8 4) (slotPlace k.hdr k.nslot 0).2 (1 + c.len / 4096) = true)
    ∧ (∃ (s : State) (k : Ckpt) (pa e addr bits q : Nat), s.ckpt = [k] ∧ k.result.toNat % 256 = 0 ∧ s.nvme.data.wf = true ∧ k.phase = 2
      ∧ s.lookup k.pt (k.map + 40) = some (pa, e, addr, bits) ∧ physSpace pa = some (.hbm, q) ∧ pteW e = true ∧ pteD e = true ∧ k.hdr.getD 3 0 ≠ 0
      ∧ (let f := s.future (k.hdr.getD 3 0).toNat
        f.owner = some 1024 ∧ f.set = false ∧ f.gen = fieldOf (k.hdr.getD 3 0).toNat 32 16))
    ∧ (∃ (s : State) (k : Ckpt) (own : List Byte) (a : Nat × Nat), s.ckpt = [k] ∧ k.phase = 0 ∧ k.result.toNat % 256 = 0
      ∧ k.awaiting.find? (fun x => x.1 == 2 && decide (x.2 ≤ s.clk)) = some a ∧ k.digests.find? (fun d => d.1 == 2) = some (2, (1, 3), own)) := by
  obtain ⟨bs, hbs⟩ := slot0_bytes
  refine ⟨⟨farWalk, (5, { acc0 .read (2 ^ 29) noPa with dev := some 1, node := 0 }), { job0 with words := [] }, 1, 0x1058, 0x10008, 29, by decide +kernel⟩,
    ⟨{ linked with ports := List.replicate 32 ⟨true, [fab0 9 0 5 retry0], 0, [], 0, []⟩ }, by decide +kernel⟩,
    fun r => ⟨{ State.reset with inReset := r }, rfl, rfl⟩,
    ⟨{ linked with outs := [{ out0 with far := some 9, state := .refused, first := 2 ^ 24 + 1 }] },
      { out0 with far := some 9, state := .refused, first := 2 ^ 24 + 1 }, by decide +kernel⟩,
    ⟨{ linked with reqs := [{ asked (.near 0 [0x1009]) with due := 5, first := 2 ^ 24 + 1 }] },
      { asked (.near 0 [0x1009]) with due := 5, first := 2 ^ 24 + 1 }, [0x1009], by decide +kernel⟩,
    ⟨linked, rfl⟩,
    ⟨checking (ckpt0 0 [(2, 64)]), ckpt0 0 [(2, 64)], [9], (2, 64), by decide +kernel⟩,
    fun l h => ⟨checking (ckpt0 0 l), ckpt0 0 l, rfl, rfl, rfl, rfl, rfl, rfl, rfl, ?_⟩,
    ⟨checking slot0, slot0, page0, bs, rfl, rfl, rfl, rfl, by decide +kernel, by decide +kernel, rfl, rfl, hbs, by decide +kernel⟩,
    ⟨{ checking (ckpt0 2 []) with hbm := (checking (ckpt0 2 [])).hbm.write 0x10000 (bytesOfNat 0x20000037 8) }, ckpt0 2 [], 0x20001028, 0x20000037,
      0x10000, 29, 0x20001028, by decide +kernel⟩,
    checking (ckpt0 0 [(2, 64)]), ckpt0 0 [(2, 64)], [9], (2, 64), by decide +kernel⟩
  · simp only [List.mem_cons, List.not_mem_nil, or_false] at h; rcases h with rfl | rfl <;> decide +kernel

/-- A handle of entry 3 of the launch unit's futures on die 0, and a host future command that names it. -/
def named (f : Option Future) : State := { base with
  hostFut := ⟨0, BitVec.ofNat 64 (2 ^ 63 + 2 ^ 32 + 3), 9, true, false, false, false, false⟩, futures := f.elim [] (fun f => [(3, f)]) }
def pinned0 (pin : Nat) : State := { base with
  jobs := [(0, { job0 with words := [] })], hbm := (Memory.write ([] : Memory) 0 (bytesOfNat 0x10001 8)).write 0x10000 (bytesOfNat (0x20000013 + pin) 8) }
def running (cmd : Nat) (buf : List Byte) : State := { base with melbex := { base.melbex with busy := true, cmd := cmd, buf := buf } }
def struck : State := { ev { pkt (.ni 1) (.ni 0) (.message 7) with pos := .source } job0 with
  cores := Map.set [] 2 { Core.fresh with mailbox := [slotK 0] } }

theorem wit_PlatformEvents :
    (∃ (s : State) (duties : List Nat), s.clk % 6400 = 0 ∧ s.clk ≠ 0 ∧ duties.length = 256 ∧ (∀ n ∈ duties, 1 ≤ n ∧ n ≤ 16))
    ∧ (∃ s : State, 7 < s.dutyCap.length)
    ∧ (∃ (s : State) (j : Job), s.job? 0 = some j) ∧ (∃ s : State, s.job? 1023 = none)
    ∧ (∀ d ∈ [0, 4095], ∀ v ∈ [0, 2 ^ 25, 2 ^ 25 + 2 ^ 22, 2 ^ 25 + 5 * 2 ^ 22, 2 ^ 25 + 6 * 2 ^ 22], ∃ (s : State) (value : BitVec 64),
      value.toNat = v ∧ (d = s.devid ∨ (value.toNat.testBit 25 = true ∧ (fieldOf value.toNat 22 3 = 0 ∨ 6 ≤ fieldOf value.toNat 22 3))
        ∨ (d ≠ s.devid ∧ (value.toNat.testBit 25 = false ∨ (1 ≤ fieldOf value.toNat 22 3 ∧ fieldOf value.toNat 22 3 ≤ 5)))))
    ∧ (∀ pin : Bool, ∃ (s : State) (j : Job), s.job? 0 = some j ∧ s.pinned j.ptroot (j.ovfbase + 144 * (j.ringTail % j.ovfn)) 144 3 = pin
      ∧ j.homew ≠ 2 ^ j.wtotal ∧ j.drawq = [])
    ∧ (∃ s : State, s.hostFut.done = true ∧ (Stated.entry s 0 0).owner = none)
    ∧ (∃ s : State, s.hostFut.done = true ∧ ∀ k, k < 16384 → (Stated.entry s 0 k).owner ≠ none)
    ∧ (∃ s : State, s.hostFut.done = true ∧ handleForm s.hostFut.handle.toNat = false)
    ∧ (∃ s : State, s.hostFut.done = true ∧ handleForm s.hostFut.handle.toNat = true ∧ (s.future s.hostFut.handle.toNat).owner ≠ some 1024)
    ∧ (∃ s : State, s.hostFut.done = true ∧ (s.future s.hostFut.handle.toNat).owner = some 1024
      ∧ (s.future s.hostFut.handle.toNat).gen ≠ fieldOf s.hostFut.handle.toNat 32 16)
    ∧ (∀ set : Bool, ∃ (s : State) (f : Future), Stated.HostEntry s f ∧ f.set = set)
    ∧ (∃ (s : State) (off n a : Nat), Stated.WindowAt s off n a ∧ physSpace a = some (.hbm, a) ∧ physSpace (a + n - 1) = some (.hbm, a + n - 1)
      ∧ s.writes = [] ∧ off + n = 64 * 2 ^ 30)
    ∧ (∃ (s : State) (off n a : Nat), Stated.WindowAt s off n a ∧ physSpace a = none)
    ∧ (∀ cmd ∈ [1, 2, 3], ∃ s : State, Stated.MelbexRuns s cmd ∧ s.devid < 2 ^ 12 ∧ s.writes = [])
    ∧ (∀ watts ∈ [1199, 1200, 2600, 2601], ∃ s : State, Stated.MelbexRuns s 4 ∧ leNat (Stated.bufBytes s 0 8) = watts)
    ∧ (∃ (s : State) (nonce : List (BitVec 8)) (addr n watts : Nat), nonce ≠ Stated.bufBytes s 0 64 ∧ addr ≠ leNat (Stated.bufBytes s 0 8)
      ∧ n ≠ leNat (Stated.bufBytes s 8 8) ∧ watts ≠ leNat (Stated.bufBytes s 0 8))
    ∧ (∀ b r : Bool, ∃ s : State, s.melbex.busy = b ∧ s.inReset = r)
    ∧ (∃ (s : State) (j : Job), s.job? 0 = some j ∧ j.hasVcore 7 = true ∧ j.localLimit ≠ 0 ∧ 0 < j.vtiles ∧ j.tileLimit ≠ 0)
    ∧ (∃ (s : State) (c : Ctx), s.ctxs.get? 0 = some c)
    ∧ (∃ (s : State) (x : Slot) (j : Job), (s.core 2).mailbox[0]? = some x ∧ s.job? x.msg.job = some j ∧ j.census = none
      ∧ hdrWeight x.msg.hdr ≠ 0)
    ∧ (∃ (s : State) (p : Packet), s.packet? p.id = some p ∧ p.body = .message 7) := by
  refine ⟨⟨{ base with clk := 6400 }, List.replicate 256 16, rfl, by decide, List.length_replicate, fun n h => ?_⟩, ⟨base, by decide +kernel⟩, ⟨base, job0, rfl⟩,
    ⟨base, rfl⟩, fun d _ v h => ⟨base, BitVec.ofNat 64 v, ?_⟩, fun pin => ⟨pinned0 (if pin then 4 else 0), { job0 with words := [] }, rfl, ?_⟩,
    ⟨base, rfl, rfl⟩, ⟨{ base with futures := allTaken 16384 }, rfl, fun k h => ?_⟩, ⟨base, rfl, by decide +kernel⟩,
    ⟨named none, by decide +kernel⟩, ⟨named (some ⟨some 1024, false, 0, 2, [], none⟩), by decide +kernel⟩,
    fun set => ⟨named (some ⟨some 1024, set, 0, 1, [], none⟩), ⟨some 1024, set, 0, 1, [], none⟩, by cases set <;> (unfold Stated.HostEntry; decide +kernel)⟩,
    ⟨base, 64 * 2 ^ 30 - 4096, 4096, 64 * 2 ^ 30 - 4096, by unfold Stated.WindowAt; decide +kernel⟩,
    ⟨{ base with winbase := BitVec.ofNat 64 (2 ^ 36), winbaseOld := BitVec.ofNat 64 (2 ^ 36) }, 2 ^ 35, 1, 2 ^ 36 + 2 ^ 35, by
      unfold Stated.WindowAt; decide +kernel⟩,
    fun cmd _ => ⟨running cmd [], ⟨rfl, rfl⟩, by show (0 : Nat) < 2 ^ 12; decide, rfl⟩, fun watts h => ⟨running 4 (bytesOfNat watts 8), ⟨rfl, rfl⟩, ?_⟩,
    ⟨base, [], 1, 1, 1, by decide +kernel⟩,
    fun b r => ⟨{ base with melbex := { base.melbex with busy := b }, inReset := r }, rfl, rfl⟩, ⟨base, job0, by decide +kernel⟩, ⟨base, base.me, rfl⟩, ⟨struck, slotK 0, job0, by decide +kernel⟩,
    struck, { pkt (.ni 1) (.ni 0) (.message 7) with pos := .source }, rfl, rfl⟩
  · rw [List.eq_of_mem_replicate h]; decide
  · revert d v; decide +kernel
  · cases pin <;> decide +kernel
  · have e : Stated.entry { base with futures := allTaken 16384 } 0 k = own0 false [] := by
      show Map.getD (allTaken 16384) (16384 * 0 + k) _ = _
      simp [Map.getD, allTaken_get k 16384 h]
    simp [e, own0]
  · simp only [List.mem_cons, List.not_mem_nil, or_false] at h; rcases h with rfl | rfl | rfl | rfl <;> decide +kernel

/-- An instruction of every family is well-formed and has a word. -/
theorem wit_EncodeDecodeRoundTrip : ∀ i ∈ [Instr.aluAdd (.s 1) (.s 2) (.s 3) mk, .limm 0x123, .compactAdd 5 9 false, .ldl (.s 1) (.s 2) 0 .d false false mk,
    .loop (.s 1) 511 mk, .vadd 1 2 3 .i8 0 mk, .fence .release .device 16 3 mk], WellFormed i ∧ i.word ≠ none := by decide

end Sys2Proof.Tests
end

section
/-! The divisions: the quotients and remainders of the model are those of R90, a division issues as an outstanding operation, and
what its end writes for any list of targets (R26, R28, R29). -/

namespace Sys2Proof.Laws

open Sys2Proof.Machine Sys2Proof.Safety

/-! ## Quotients and remainders (R90) -/

theorem eq_minInt_iff (a : Word) : a = 0x8000000000000000#64 ↔ a.toInt = -(2 ^ 63) :=
  (BitVec.toInt_inj (y := 0x8000000000000000#64)).symm

theorem eq_allOnes_iff (b : Word) : b = BitVec.allOnes 64 ↔ b.toInt = -1 :=
  (BitVec.toInt_inj (y := BitVec.allOnes 64)).symm

theorem divSigned_eq_divided (a b : Word) : divSigned a b = ((Stated.divided true a b).1, (Stated.divided true a b).2.2) := by
  simp only [divSigned, Stated.divided, eq_minInt_iff, eq_allOnes_iff, if_true, true_and]
  by_cases hb : b = 0
  · simp only [if_pos hb]; rfl
  · by_cases hov : a.toInt = -(2 ^ 63) ∧ b.toInt = -1
    · simp only [if_neg hb, if_pos hov]; rw [(eq_minInt_iff a).2 hov.1]; rfl
    · simp only [if_neg hb, if_neg hov]

theorem remSigned_eq_divided (a b : Word) : remSigned a b = ((Stated.divided true a b).2.1, (Stated.divided true a b).2.2) := by
  simp only [remSigned, Stated.divided, eq_minInt_iff, eq_allOnes_iff, if_true, true_and]
  by_cases hb : b = 0
  · simp only [if_pos hb]; rfl
  · by_cases hov : a.toInt = -(2 ^ 63) ∧ b.toInt = -1
    · simp only [if_neg hb, if_pos hov]; rfl
    · simp only [if_neg hb, if_neg hov, Int.tmod_def, Int.mul_comm]

theorem divUnsigned_eq_divided (a b : Word) : divUnsigned a b = ((Stated.divided false a b).1, (Stated.divided false a b).2.2) := by
  simp only [divUnsigned, Stated.divided, Bool.false_eq_true, false_and, if_false]
  by_cases hb : b = 0
  · simp only [if_pos hb]; rfl
  · have hq : (a.toNat : Int).tdiv b.toNat = ((a.toNat / b.toNat : Nat) : Int) := rfl
    simp only [if_neg hb, hq, BitVec.ofInt_natCast]

theorem remUnsigned_eq_divided (a b : Word) : remUnsigned a b = ((Stated.divided false a b).2.1, (Stated.divided false a b).2.2) := by
  simp only [remUnsigned, Stated.divided, Bool.false_eq_true, false_and, if_false]
  by_cases hb : b = 0
  · simp only [if_pos hb]; rfl
  · have hr : (a.toNat : Int) - (a.toNat : Int).tdiv b.toNat * b.toNat = ((a.toNat % b.toNat : Nat) : Int) := by
      rw [Int.mul_comm, ← Int.tmod_def]; rfl
    simp only [if_neg hb, hr, BitVec.ofInt_natCast]

/-- R29, R89, R90: every division issues as an outstanding operation that holds its result and its flags. -/
theorem divisions_issue {s : State} {m : Mark} {d a b : Name} (h : Plain s 4) (ha : Sound s a) (hb : Sound s b)
    (hd : writable d = true) : ∀ e ∈ Stated.divisions,
    let r := e.2 (value s 0 a) (value s 1 b)
    Completes (e.1 d a b m) m s (startOp s (.divide r.1 r.2) 0 0 (targetOf s.me d).toList [] 0) .next := by
  intro e he
  simp only [Stated.divisions, List.mem_cons, List.not_mem_nil, or_false] at he
  obtain rfl | rfl | rfl | rfl := he
  · rw [Completes, exec_alu2Div, execAlu2Div, division_ok h ha hb hd, divSigned_eq_divided]; rfl
  · rw [Completes, exec_alu2Divu, execAlu2Divu, division_ok h ha hb hd, divUnsigned_eq_divided]; rfl
  · rw [Completes, exec_alu3Rem, execAlu3Rem, division_ok h ha hb hd, remSigned_eq_divided]; rfl
  · rw [Completes, exec_alu3Remu, execAlu3Remu, division_ok h ha hb hd, remUnsigned_eq_divided]; rfl

/-! ## One value at several targets -/

/-- The context with one value written at each of several targets, one after another. -/
def putAll (c : Ctx) (ts : List Target) (v : Nat) : Ctx := ts.foldl (fun c t => c.put t v) c

/-- What none of the writes changes, all of them together leave as it is. -/
theorem putAll_keeps {α : Type} (proj : Ctx → α) {ts : List Target} {v : Nat} (h : ∀ t ∈ ts, ∀ c : Ctx, proj (c.put t v) = proj c)
    (c : Ctx) : proj (putAll c ts v) = proj c := by
  induction ts generalizing c with
  | nil => rfl
  | cons t ts ih => exact (ih (fun u hu => h u (List.mem_cons_of_mem t hu)) (c.put t v)).trans (h t List.mem_cons_self c)

/-- A context without its places of results: what a write of a result leaves alone. -/
def frameOf (c : Ctx) : Ctx :=
  { c with s := .replicate 32 0, hist := .replicate 8 0, k := .replicate 8 0, v := [], ecc := [] }

theorem frameOf_put (c : Ctx) (t : Target) (v : Nat) : frameOf (c.put t v) = frameOf c := by cases t <;> rfl

theorem frameOf_putAll (c : Ctx) (ts : List Target) (v : Nat) : frameOf (putAll c ts v) = frameOf c :=
  putAll_keeps frameOf (fun t _ c => frameOf_put c t v) c

/-- Scalar results leave masks and vector registers as they are. -/
theorem put_scalar {t : Target} (h : (entryOf t).isSome) (c : Ctx) (v : Nat) : (c.put t v).k = c.k ∧ (c.put t v).v = c.v := by
  cases t with
  | s n e => exact ⟨rfl, rfl⟩
  | h e => exact ⟨rfl, rfl⟩
  | k n => cases h
  | v n w act => cases h

/-- With no write pending beside it, a result lands whole (R28). -/
theorem landValue_of_no_keeps (s : State) (c : Ctx) (t : Target) (v place : Nat) : landValue s c [] t v place = c.put t v := by
  cases t with
  | s n e => simp [landValue, bitsAt, Ctx.put, List.filter_filter]
  | h e => simp [landValue, bitsAt]
  | k n => simp [landValue, bitsAt]
  | v n w act => simp [landValue, bitsAt]

/-- Results of one value, numbered from any place on, land as `putAll` says. -/
theorem foldl_landValue_eq_putAll (s : State) (c : Ctx) (ts : List Target) (v n : Nat) :
    ((ts.map (fun t => (t, v))).zipIdx n).foldl (fun c e => landValue s c [] e.1.1 e.1.2 (1000 + e.2)) c = putAll c ts v := by
  induction ts generalizing c n with
  | nil => rfl
  | cons t ts ih =>
    rw [List.map_cons, List.zipIdx_cons, List.foldl_cons, landValue_of_no_keeps, ih]
    rfl

/-! ## The shared operations at the end of an outstanding operation -/

/-- With no fixed-latency result pending in a context, nothing of it settles. -/
theorem settleAt_of_no_fixed {s : State} {key : Nat} {c : Ctx} (hc : s.ctxs.get? key = some c) (hp : ∀ p ∈ c.pend, p.op ≠ 0) :
    s.settleAt key = s := by
  have : c.pend.filter (fun p => p.op == 0 && decide (p.due ≤ s.clk)) = [] :=
    List.filter_eq_nil_iff.2 fun p hm => by simp [hp p hm]
  simp only [State.settleAt, hc, this]

/-- With no fixed-latency result pending in a context, a write at its places touches no context. -/
theorem landed_ctxs_of_no_fixed {s : State} {key : Nat} {c : Ctx} (op : Nat) (ps : List (Nat × Nat))
    (hc : s.ctxs.get? key = some c) (hp : ∀ p ∈ c.pend, p.op ≠ 0) : (s.landed key op ps).ctxs = s.ctxs := by
  have hany : c.pend.any (fun p => p.op == 0) = false := by simpa using hp
  by_cases hop : op = 0
  · simp [State.landed, hop, apply_ite State.ctxs]
  · simp [State.landed, hop, apply_ite State.ctxs, hc, hany]

/-- A context that neither dies nor parks nor ends stands as it did when it is asked whether to release it. -/
theorem release_of_running {s : State} {key : Nat} {c : Ctx} (hc : s.ctxs.get? key = some c) (hd : c.dying = false)
    (hp : c.parked = false) (he : c.ending = false) : s.release key = s := by
  simp [State.release, hc, hd, hp, he]

/-- An operation that settles in a running context is gone, and its number with it from the context's list (R29). -/
theorem settleOp_of_running {s : State} {o : Op} {c : Ctx} (hc : s.ctxs.get? o.ctx = some c) (ht : c.task = o.task)
    (hd : c.dying = false) (hp : c.parked = false) (he : c.ending = false) :
    (s.settleOp o).op? o.id = none ∧ (s.settleOp o).ctxs.get? o.ctx = some { c with outs := c.outs.filter (· != o.id) } := by
  simp only [State.settleOp, State.updCtx, hc, if_pos ht]
  rw [release_of_running (c := { c with outs := c.outs.filter (· != o.id) }) (Map.get?_set_self _ _ _) hd hp he]
  exact ⟨by simp [State.op?, List.find?_eq_none], Map.get?_set_self _ _ _⟩

/-- The context once an operation has written one value at all its targets, with its flags (R26). -/
def written (c : Ctx) (o : Op) (v f : Nat) : Ctx :=
  let c1 := putAll { c with pend := c.pend.filter (fun p => p.op != o.id) } o.tgts v
  { c1 with fflags := c1.fflags ||| BitVec.ofNat 64 f }

/-- Beside its results, its flags and what was pending of it, an operation leaves the context as it is. -/
theorem frameOf_written (c : Ctx) (o : Op) (v f : Nat) : frameOf (written c o v f) =
    frameOf { c with pend := c.pend.filter (fun p => p.op != o.id), fflags := c.fflags ||| BitVec.ofNat 64 f } :=
  congrArg (fun x : Ctx => { x with fflags := x.fflags ||| BitVec.ofNat 64 f }) (frameOf_putAll _ o.tgts v)

/-- The results of an operation are written whole, where no other write is pending in its context (R28). -/
theorem writeResults_of_no_fixed {s : State} {o : Op} {c : Ctx} (v f : Nat) (hk : o.keeps = []) (hc : s.ctxs.get? o.ctx = some c)
    (hp : ∀ p ∈ c.pend, p.op ≠ 0) (ht : c.task = o.task) (hd : c.dying = false) :
    (s.writeResults o (o.tgts.map (fun t => (t, v))) f).ctxs.get? o.ctx = some (written c o v f) := by
  have hframe := frameOf_written c o v f
  have hpend : ∀ p ∈ (written c o v f).pend, p.op ≠ 0 := by
    rw [show (written c o v f).pend = c.pend.filter (fun p => p.op != o.id) from congrArg Ctx.pend hframe]
    exact fun p hm => hp p (List.mem_of_mem_filter hm)
  have hlive : ¬(c.task ≠ o.task ∨ c.dying = true) := by simp [ht, hd]
  have hlands := foldl_landValue_eq_putAll s { c with pend := c.pend.filter (fun p => p.op != o.id) } o.tgts v 0
  have hw : s.writeResults o (o.tgts.map (fun t => (t, v))) f = ({ s with ctxs := s.ctxs.set o.ctx (written c o v f) }).landed o.ctx o.id
      ((o.tgts.map (fun t => (t, v))).flatMap (fun (r : Target × Nat) => placesOf r.1)) := by
    simp only [State.writeResults, settleAt_of_no_fixed hc hp, hc, if_neg hlive, hk, hlands, written]
  rw [hw, landed_ctxs_of_no_fixed _ _ (Map.get?_set_self _ _ _) hpend]
  exact Map.get?_set_self _ _ _

/-! ## The end of a division (R26, R28, R29) -/

/-- A division with the result `v` and the flags `f` can end: it has been issued in an earlier clk, and its context `c` runs its task
with no other write pending. -/
structure CanEnd (s : State) (o : Op) (v : Word) (f : Nat) (c : Ctx) : Prop where
  op : s.op? o.id = some o
  kind : o.kind = .divide v f
  issued : o.issued < s.clk
  keeps : o.keeps = []
  ctx : s.ctxs.get? o.ctx = some c
  pend : ∀ p ∈ c.pend, p.op ≠ 0
  task : c.task = o.task
  dying : c.dying = false
  parked : c.parked = false
  ending : c.ending = false

/-- The end of a division, whatever its targets: its result stands at each of them, its flags in FFLAGS, and it is outstanding no
more. -/
theorem divideResult_ends {s : State} {o : Op} {v : Word} {f : Nat} {c : Ctx} (h : CanEnd s o v f c) :
    ∃ t, exec (.divideResult o.id) s = .next t ∧ t.op? o.id = none
      ∧ t.ctxs.get? o.ctx = some { written c o v.toNat f with outs := c.outs.filter (· != o.id) } := by
  have hframe := frameOf_written c o v.toNat f
  have houts : (written c o v.toNat f).outs = c.outs := (congrArg Ctx.outs hframe :)
  obtain ⟨hgone, hctx⟩ := settleOp_of_running (writeResults_of_no_fixed v.toNat f h.keeps h.ctx h.pend h.task h.dying)
    ((congrArg Ctx.task hframe).trans h.task) ((congrArg Ctx.dying hframe).trans h.dying)
    ((congrArg Ctx.parked hframe).trans h.parked) ((congrArg Ctx.ending hframe).trans h.ending)
  rw [houts] at hctx
  exact ⟨{ (s.writeResults o (o.tgts.map (fun t => (t, v.toNat))) f).settleOp o with free := s.free + 1 },
    by simp only [exec_divideResult, execDivideResult, h.op, h.kind, if_pos h.issued], hgone, hctx⟩

/-- The targets a division has at its issue are scalar ones (R18). -/
theorem scalarTargets_scalar (s : State) (d : Name) : ∀ t ∈ scalarTargets s d, (entryOf t).isSome := by
  cases d <;> simp [scalarTargets, targetOf, entryOf]

/-- R26, R28, R29: a division with scalar targets ends with its result in its s-register and history entry and with its flags, and with
everything else of its context as it was. Every division issued has such targets (`scalarTargets_scalar`). -/
theorem divideResult_of_scalar_targets {s : State} {o : Op} {v : Word} {f : Nat} {c : Ctx} (h : CanEnd s o v f c)
    (hscalar : ∀ t ∈ o.tgts, (entryOf t).isSome) :
    ∃ t c', exec (.divideResult o.id) s = .next t ∧ t.op? o.id = none ∧ t.ctxs.get? o.ctx = some c'
      ∧ (∀ r e, o.tgts = [.s r e] → c'.s = c.s.set r v ∧ c'.hist = c.hist.set e v)
      ∧ (∀ e, o.tgts = [.h e] → c'.s = c.s ∧ c'.hist = c.hist.set e v)
      ∧ (o.tgts = [] → c'.s = c.s ∧ c'.hist = c.hist)
      ∧ c'.fflags = c.fflags ||| BitVec.ofNat 64 f ∧ c'.outs = c.outs.filter (fun i => i != o.id)
      ∧ c'.m = c.m ∧ c'.v = c.v ∧ c'.k = c.k ∧ c'.pc = c.pc := by
  obtain ⟨t, hexec, hgone, hctx⟩ := divideResult_ends h
  have hframe := frameOf_written c o v.toNat f
  have hvregs : (written c o v.toNat f).v = c.v := putAll_keeps Ctx.v (fun t ht c => (put_scalar (hscalar t ht) c _).2) _
  have hmasks : (written c o v.toNat f).k = c.k := putAll_keeps Ctx.k (fun t ht c => (put_scalar (hscalar t ht) c _).1) _
  refine ⟨t, _, hexec, hgone, hctx, fun r e htgts => ?_, fun e htgts => ?_, fun htgts => ?_, (congrArg Ctx.fflags hframe :), rfl,
    (congrArg Ctx.m hframe :), hvregs, hmasks, (congrArg Ctx.pc hframe :)⟩
  · simp [written, putAll, htgts, Ctx.put]
  · simp [written, putAll, htgts, Ctx.put]
  · simp [written, putAll, htgts]

/-! ## The statement -/

/-- A division with the result 5 whose target is mask k1, as no instruction issues one. -/
def maskDivision : Op :=
  ⟨11, 0, 0, .divide 5 0, 0, 0, 0, 0, 0, 0, [], [], [.k 1], false, 0, 0, 0, [], [], 0, false, 0, [], 0, [], 0, (0, 0), [], []⟩

/-- The context it runs in. -/
def maskDivisionCtx : Ctx := { Ctx.idle with outs := [11] }

/-- The clk after its issue. -/
def maskDivisionState : State := { State.reset with clk := 1, ops := [maskDivision], ctxs := [(0, maskDivisionCtx)] }

theorem maskDivision_canEnd : CanEnd maskDivisionState maskDivision 5 0 maskDivisionCtx :=
  ⟨rfl, rfl, Nat.zero_lt_one, rfl, rfl, fun _ hp => absurd hp List.not_mem_nil, rfl, rfl, rfl, rfl⟩

/-- At its end mask k1 holds its result. -/
theorem maskDivision_writes_mask : (written maskDivisionCtx maskDivision (5 : Word).toNat 0).k ≠ maskDivisionCtx.k := by
  decide +kernel

/-- Refutes O4: the second clause leaves the targets of the operation open and says all the same that masks and vector registers stay;
the end of `maskDivision` writes mask k1. The first clause holds (`divisions_issue`), and so does the second one for the scalar targets
that a division issues with (`divideResult_of_scalar_targets`). -/
theorem not_divisionResults : ¬ Obligations.DivisionResults := by
  unfold Obligations.DivisionResults
  rintro ⟨-, hend⟩
  have h := maskDivision_canEnd
  obtain ⟨t, c', hexec, -, hctx, -, -, -, -, -, -, -, hmasks, -⟩ := hend maskDivisionState maskDivision 5 0 maskDivisionCtx 0 0
    h.op h.kind h.issued h.keeps h.ctx h.pend h.task h.dying h.parked h.ending
  obtain ⟨t', hexec', -, hctx'⟩ := divideResult_ends h
  cases hexec.symm.trans hexec'
  cases hctx.symm.trans hctx'
  exact maskDivision_writes_mask hmasks

end Sys2Proof.Laws
end

section
/-! Trigger counters: which one an allocation takes, and where the weight of the entries posted on a freed one goes (R217, R267). -/

namespace Sys2Proof.Laws

open Sys2Proof.Machine Sys2Proof.Safety

/-! ## Counters -/

/-- A tile after it is changed. -/
theorem tile_updTile_self (s : State) (tile : Nat) (f : Tile → Tile) : (s.updTile tile f).tile tile = f (s.tile tile) := by
  simp [State.tile]

theorem counter_setCounter_self (s : State) (tile : Nat) {c : Nat} (x : Counter) (h : c < 64) :
    (s.setCounter tile c x).counter tile c = x := by
  simp [State.counter, State.setCounter, tile_updTile_self, Vector.getD, h]

theorem counter_setCounter_of_ne (s : State) (tile : Nat) {c e : Nat} (x : Counter) (h : e ≠ c) :
    (s.setCounter tile c x).counter tile e = s.counter tile e := by
  simp [State.counter, State.setCounter, tile_updTile_self, Vector.getD, Array.getElem?_setIfInBounds_ne h.symm]

/-- Writing a counter leaves the entries posted on its tile. -/
theorem posted_setCounter (s : State) (tile c : Nat) (x : Counter) :
    ((s.setCounter tile c x).tile tile).posted = (s.tile tile).posted := by
  simp [State.setCounter, tile_updTile_self]

/-- A state with the contexts of another and the same one issuing has the same issuing context. -/
theorem me_congr {s t : State} (hctxs : t.ctxs = s.ctxs) (hcur : t.cur = s.cur) : t.me = s.me := by
  rw [State.me, State.me, hctxs, hcur]

/-! ## The search for a free counter -/

/-- The lowest counter of the issuing tile that no job holds (R217). -/
def lowestFree (s : State) : Option Nat := (List.range 64).find? (fun c => (s.counter s.myTile c).owner.isNone)

theorem lowestFree_eq_some {s : State} {c : Nat} (hc : c < 64) (hfree : (s.counter s.myTile c).owner = none)
    (hlow : ∀ e, e < c → (s.counter s.myTile e).owner ≠ none) : lowestFree s = some c :=
  List.find?_range_eq_some.2 ⟨Option.isNone_iff_eq_none.2 hfree, List.mem_range.2 hc,
    fun e he => by simpa [Option.isSome_iff_ne_none] using hlow e he⟩

theorem lowestFree_eq_none {s : State} (h : ∀ e, e < 64 → (s.counter s.myTile e).owner ≠ none) : lowestFree s = none :=
  List.find?_range_eq_none.2 fun e he => by simpa [Option.isSome_iff_ne_none] using h e he

theorem trgAlloc_of_free {s : State} {d : Name} (m : Mark) {c : Nat} (h : Plain s 4) (hd : writable d = true)
    (hfind : lowestFree s = some c) :
    Completes (.trgAlloc d m) m s (wr (s.setCounter s.myTile c ⟨some s.me.job, 0, none⟩) d (BitVec.ofNat 64 c) 2) .next := by
  unfold lowestFree at hfind
  rw [Completes, exec_trgAlloc, execTrgAlloc, issue32_plain m _ h, dst_ok hd, hfind]
  rfl

theorem trgAlloc_of_none_free {s : State} {d : Name} (m : Mark) (h : Plain s 4) (hd : writable d = true)
    (hfind : lowestFree s = none) : Completes (.trgAlloc d m) m s (wr s d (BitVec.allOnes 64) 2) .next := by
  unfold lowestFree at hfind
  rw [Completes, exec_trgAlloc, execTrgAlloc, issue32_plain m _ h, dst_ok hd, hfind]
  rfl

/-! ## Pods of a node (R239, R267) -/

/-- A node has sent its marker to a census of a job (R267). -/
def Marked (j : Job) (src : Endpoint) : Prop := ∃ x, j.census = some x ∧ x.sent.contains src = true

/-- A node that has sent no marker sends its pod to the home of the job. -/
theorem pod_of_not_marked {s : State} {src : Endpoint} {job v : Nat} {j : Job} (hj : s.job? job = some j) (hv : v ≠ 0)
    (hm : ¬Marked j src) :
    s.pod src job v false false = s.post .weight src (.unit j.die) job 1 0 [] (.pod job v false false) := by
  cases hx : j.census with
  | none => simp only [State.pod, if_neg hv, hj, hx]
  | some x =>
    have hsent : ¬x.sent.contains src = true := fun h => hm ⟨x, hx, h⟩
    simp only [State.pod, if_neg hv, hj, hx, if_neg hsent]

/-- A job whose census `x` keeps one more pod (R267). -/
def keepPod (j : Job) (x : Census) (v : Nat) : Job := { j with census := some { x with heldPods := x.heldPods ++ [(v, false, false)] } }

/-- A node that has sent its marker keeps its pod. -/
theorem pod_of_marked {s : State} {src : Endpoint} {job v : Nat} {j : Job} {x : Census} (hj : s.job? job = some j) (hv : v ≠ 0)
    (hx : j.census = some x) (hsent : x.sent.contains src = true) :
    s.pod src job v false false = s.setJob job (keepPod j x v) := by
  simp only [keepPod, State.pod, if_neg hv, hj, hx, if_pos hsent]

/-- A node sends pods of several weights, one after another. -/
def pods (s : State) (src : Endpoint) (job : Nat) (ws : List Nat) : State :=
  ws.foldl (fun s v => s.pod src job v false false) s

theorem pods_cons (s : State) (src : Endpoint) (job v : Nat) (ws : List Nat) :
    pods s src job (v :: ws) = pods (s.pod src job v false false) src job ws := rfl

/-- The weights that make a pod: no pod carries weight 0. -/
def weights (ws : List Nat) : List Nat := ws.filter (· != 0)

/-- What no pod changes, several leave as it is. -/
theorem pods_keeps {α : Type} (proj : State → α) {src : Endpoint} {job : Nat}
    (h : ∀ (s : State) (v : Nat), proj (s.pod src job v false false) = proj s) (s : State) (ws : List Nat) :
    proj (pods s src job ws) = proj s := by
  induction ws generalizing s with
  | nil => rfl
  | cons v ws ih => exact (ih (s.pod src job v false false)).trans (h s v)

/-- The pods of a node that has sent no marker leave behind the packets already there, in order. -/
theorem pods_of_not_marked {s : State} {src : Endpoint} {job : Nat} {j : Job} (hj : s.job? job = some j) (hm : ¬Marked j src)
    (ws : List Nat) :
    ∃ ps : List Packet, (pods s src job ws).packets = s.packets ++ ps
      ∧ ps.map (·.body) = (weights ws).map (fun v => .pod job v false false) := by
  induction ws generalizing s with
  | nil => exact ⟨[], (List.append_nil _).symm, rfl⟩
  | cons v ws ih =>
    rw [pods_cons]
    by_cases hv : v = 0
    · subst hv
      exact ih hj
    · rw [pod_of_not_marked hj hv hm]
      obtain ⟨ps, hps, hbody⟩ := ih (s := s.post .weight src (.unit j.die) job 1 0 [] (.pod job v false false)) hj
      exact ⟨_, hps.trans (List.append_assoc _ _ _), by simp [weights, hv, hbody]⟩

/-- The pods of a node that has sent its marker stay in the census, in order, and no packet leaves. -/
theorem pods_of_marked {s : State} {src : Endpoint} {job : Nat} {j : Job} {x : Census} (hj : s.job? job = some j)
    (hx : j.census = some x) (hsent : x.sent.contains src = true) (ws : List Nat) :
    (pods s src job ws).packets = s.packets ∧ ∃ (j' : Job) (x' : Census), (pods s src job ws).job? job = some j' ∧ j'.census = some x'
      ∧ x'.heldPods = x.heldPods ++ (weights ws).map (fun v => (v, false, false)) := by
  induction ws generalizing s j x with
  | nil => exact ⟨rfl, j, x, hj, hx, (List.append_nil _).symm⟩
  | cons v ws ih =>
    rw [pods_cons]
    by_cases hv : v = 0
    · subst hv
      exact ih hj hx hsent
    · rw [pod_of_marked hj hv hx hsent]
      obtain ⟨hps, j', x', hj', hx', hheld⟩ := ih (s := s.setJob job (keepPod j x v)) (Map.get?_set_self _ _ _) rfl hsent
      exact ⟨hps, j', x', hj', hx', hheld.trans (by simp [weights, hv])⟩

/-! ## Entries removed with their counter -/

/-- The entries posted on a counter of a job. -/
def postedOn (job c : Nat) (p : Posted) : Bool := p.job == job && p.ctr == c

/-- A tile without the entries posted on a counter. -/
def withoutEntries (s : State) (tile job c : Nat) : State :=
  s.updTile tile (fun t => { t with posted := t.posted.filter (fun p => !postedOn job c p) })

/-- Removing entries is one change of the tile, then the pods of their weights. -/
theorem dropEntries_eq_pods (s : State) (tile job c : Nat) :
    s.dropEntries tile job c =
      pods (withoutEntries s tile job c) (.ni tile) job (((s.tile tile).posted.filter (postedOn job c)).map (·.v)) := by
  rw [pods, List.foldl_map]
  rfl

/-- The weights that go home are those of the entries that hold some. -/
theorem weights_postedOn (ps : List Posted) (job c : Nat) :
    weights ((ps.filter (postedOn job c)).map (·.v)) =
      (ps.filter (fun p => p.job == job && p.ctr == c && p.v != 0)).map (·.v) := by
  rw [weights, List.filter_map, List.filter_filter]
  congr 2
  funext p
  exact Bool.and_comm _ _

theorem tiles_dropEntries (s : State) (tile job c : Nat) :
    (s.dropEntries tile job c).tiles = (withoutEntries s tile job c).tiles := by
  rw [dropEntries_eq_pods]
  exact pods_keeps State.tiles (fun s v => State.pod_tiles s _ _ v _ _) _ _

theorem tile_dropEntries (s : State) (tile job c : Nat) :
    (s.dropEntries tile job c).tile tile =
      { s.tile tile with posted := (s.tile tile).posted.filter (fun p => !postedOn job c p) } := by
  rw [State.tile, tiles_dropEntries]
  exact tile_updTile_self s tile _

theorem counter_dropEntries (s : State) (tile job c e : Nat) : (s.dropEntries tile job c).counter tile e = s.counter tile e := by
  rw [State.counter, tile_dropEntries]
  rfl

theorem me_dropEntries (s : State) (tile job c : Nat) : (s.dropEntries tile job c).me = s.me := by
  rw [dropEntries_eq_pods]
  exact me_congr (pods_keeps State.ctxs (fun s v => State.pod_ctxs s _ _ v _ _) _ _)
    (pods_keeps State.cur (fun s v => State.pod_cur s _ _ v _ _) _ _)

/-- R217: the weight of each removed entry leaves the node as a pod where it has sent no marker. -/
theorem dropEntries_of_not_marked {s : State} {tile job : Nat} (c : Nat) {j : Job} (hj : s.job? job = some j)
    (hm : ¬Marked j (.ni tile)) :
    ((s.dropEntries tile job c).packets.drop s.packets.length).map (·.body) =
      ((s.tile tile).posted.filter (fun p => p.job == job && p.ctr == c && p.v != 0)).map (fun p => .pod job p.v false false) := by
  obtain ⟨ps, hps, hbody⟩ := pods_of_not_marked (s := withoutEntries s tile job c) hj hm
    (((s.tile tile).posted.filter (postedOn job c)).map (·.v))
  rw [dropEntries_eq_pods, hps, show (withoutEntries s tile job c).packets = s.packets from rfl, List.drop_left, hbody,
    weights_postedOn, List.map_map]
  rfl

/-- R267: a node that has sent its marker keeps these pods in the census. -/
theorem dropEntries_of_marked {s : State} {tile job : Nat} (c : Nat) {j : Job} {x : Census} (hj : s.job? job = some j)
    (hx : j.census = some x) (hsent : x.sent.contains (.ni tile) = true) :
    (s.dropEntries tile job c).packets = s.packets ∧ ∃ (j' : Job) (x' : Census), (s.dropEntries tile job c).job? job = some j'
      ∧ j'.census = some x' ∧ x'.heldPods = x.heldPods ++
        ((s.tile tile).posted.filter (fun p => p.job == job && p.ctr == c && p.v != 0)).map (fun p => (p.v, false, false)) := by
  obtain ⟨hps, j', x', hj', hx', hheld⟩ := pods_of_marked (s := withoutEntries s tile job c) hj hx hsent
    (((s.tile tile).posted.filter (postedOn job c)).map (·.v))
  rw [weights_postedOn, List.map_map] at hheld
  rw [dropEntries_eq_pods]
  exact ⟨hps, j', x', hj', hx', hheld⟩

/-! ## `trg.free` -/

/-- What `trg.free` comes to once its operand is read. -/
theorem execTrgFree_plain {s : State} {a : Name} (m : Mark) (h : Plain s 4) (ha : Sound s a) :
    execTrgFree a m s = issue 4 m.g.val m.s s (do
      let c ← counterWord (value s 0 a)
      if (s.counter s.myTile c).owner = some s.me.job then
        fall ((s.dropEntries s.myTile s.me.job c).setCounter s.myTile c ⟨none, 0, none⟩)
      else fall s) := by
  have hsrcs : srcs [a] = .ok () := srcs_sound (by simpa using ha)
  rw [execTrgFree, issue32_plain m _ h, hsrcs, rd_clean ha.2]
  rfl

theorem counterWord_of_lt {w : Word} (h : w.toNat < 64) : counterWord w = .ok w.toNat := by
  simp [counterWord, limits, need, h, bind, Except.bind]

theorem counterWord_of_le {w : Word} (h : 64 ≤ w.toNat) : counterWord w = raise .illopnd 0 := by
  simp [counterWord, limits, need, Nat.not_lt.2 h, bind, Except.bind, raise]

theorem trgFree_traps {s : State} {a : Name} (m : Mark) (h : Plain s 4) (ha : Sound s a) (hc : 64 ≤ (value s 0 a).toNat) :
    Traps (.trgFree a m) s .illopnd 0 := by
  rw [Traps, exec_trgFree, execTrgFree_plain m h ha, counterWord_of_le hc]
  rfl

theorem trgFree_of_not_owner {s : State} {a : Name} (m : Mark) (h : Plain s 4) (ha : Sound s a) (hc : (value s 0 a).toNat < 64)
    (ho : (s.counter s.myTile (value s 0 a).toNat).owner ≠ some s.me.job) : Completes (.trgFree a m) m s s .next := by
  rw [Completes, exec_trgFree, execTrgFree_plain m h ha, counterWord_of_lt hc]
  exact congrArg (issue 4 m.g.val m.s s) (if_neg ho)

theorem trgFree_of_owner {s : State} {a : Name} (m : Mark) (h : Plain s 4) (ha : Sound s a) (hc : (value s 0 a).toNat < 64)
    (ho : (s.counter s.myTile (value s 0 a).toNat).owner = some s.me.job) :
    Completes (.trgFree a m) m s ((s.dropEntries s.myTile s.me.job (value s 0 a).toNat).setCounter s.myTile (value s 0 a).toNat
      ⟨none, 0, none⟩) .next := by
  rw [Completes, exec_trgFree, execTrgFree_plain m h ha, counterWord_of_lt hc]
  exact congrArg (issue 4 m.g.val m.s s) (if_pos ho)

/-! ## The statement -/

/-- Settles O30: the search of `trg.alloc` finds the lowest free counter or none; `trg.free` removes the entries of its counter, whose
pods leave or stay by induction on their weights. -/
theorem triggerAllocation : Obligations.TriggerAllocation := by
  unfold Obligations.TriggerAllocation
  intro s m d a h
  refine ⟨fun hd => ⟨fun c hfree hlow => ?_, fun hnone => ?_⟩, fun ha => ⟨trgFree_traps m h ha, trgFree_of_not_owner m h ha, ?_⟩⟩
  · exact ⟨_, trgAlloc_of_free m h hd (lowestFree_eq_some c.isLt hfree hlow), me_congr rfl rfl,
      counter_setCounter_self s _ _ c.isLt, fun e he => counter_setCounter_of_ne s _ _ he⟩
  · exact trgAlloc_of_none_free m h hd (lowestFree_eq_none hnone)
  · intro hc ho j hj
    refine ⟨_, trgFree_of_owner m h ha hc ho, me_dropEntries s _ _ _, ?_, fun e he => ?_, ?_, fun hm => ?_, fun x hx hm => ?_⟩
    · rw [counter_setCounter_self _ _ _ hc]
    · rw [counter_setCounter_of_ne _ _ _ he, counter_dropEntries]
    · rw [posted_setCounter, tile_dropEntries]
      rfl
    · exact dropEntries_of_not_marked _ hj hm
    · obtain ⟨x', hx', hsent⟩ := hm
      cases hx.symm.trans hx'
      exact dropEntries_of_marked _ hj hx hsent

end Sys2Proof.Laws
end

section
/-! Weight reads: what the write of a scalar result leaves unchanged (R26 to R28), and `wgt.wget` and `wgt.wtotal`, which have no effect
but such a write (R271). -/

namespace Sys2Proof.Laws

open Sys2Proof.Machine Sys2Proof.Safety

/-! ## The frame of a scalar result -/

/-- A fixed-latency result that lands changes the state in what its outstanding operations keep, and nowhere else (R28). -/
theorem landed_zero_eq (s : State) (key : Nat) (ps : List (Nat × Nat)) :
    s.landed key 0 ps = { s with ops := (s.landed key 0 ps).ops } := by
  simp only [State.landed, if_true]
  split <;> rfl

/-- The issuing context once a result lands at a target at once (R24, R27). -/
def putNow (s : State) (t : Target) (v : Word) (latency : Nat) : Ctx :=
  ({ s.me with pend := s.me.pend.map (fun p => p.overtaken t (s.clk + latency)) } : Ctx).takeEntry.put t v.toNat

/-- The issuing context with a result pending for a target (R24, R27). -/
def putLater (s : State) (t : Target) (v : Word) (latency : Nat) : Ctx :=
  { s.me with pend := s.me.pend ++ [⟨s.clk + latency, t, v.toNat, 0, false, false⟩], hptr := s.me.hptr + 1 }

theorem wr_of_no_target {s : State} {d : Name} (h : targetOf s.me d = none) (v : Word) (latency : Nat) : wr s d v latency = s := by
  simp only [wr, h]

theorem wr_at_once {s : State} {d : Name} {t : Target} (h : targetOf s.me d = some t) (v : Word) {latency : Nat} (hl : latency ≤ 1) :
    wr s d v latency = (s.setMe (putNow s t v latency)).landed s.cur 0 (placesOf t) := by
  simp only [wr, h, if_pos hl, putNow]

theorem wr_pending {s : State} {d : Name} {t : Target} (h : targetOf s.me d = some t) (v : Word) {latency : Nat} (hl : ¬latency ≤ 1) :
    wr s d v latency = s.setMe (putLater s t v latency) := by
  simp only [wr, h, if_neg hl, putLater]

/-- Beside the issuing context and what outstanding operations keep, the write of a scalar result leaves the state as it is. -/
theorem wr_frame (s : State) (d : Name) (v : Word) (latency : Nat) :
    ∃ cs os, wr s d v latency = { s with ctxs := cs, ops := os } := by
  cases h : targetOf s.me d with
  | none => exact ⟨s.ctxs, s.ops, wr_of_no_target h v latency⟩
  | some t =>
    by_cases hl : latency ≤ 1
    · exact ⟨_, _, (wr_at_once h v hl).trans (landed_zero_eq _ _ _)⟩
    · exact ⟨_, _, wr_pending h v hl⟩

/-- Of the issuing context the write of a scalar result changes the places of results, what is pending and the history pointer. -/
theorem frameOf_me_wr (s : State) (d : Name) (v : Word) (latency : Nat) :
    ∃ pend hptr, frameOf (wr s d v latency).me = frameOf { s.me with pend := pend, hptr := hptr } := by
  cases h : targetOf s.me d with
  | none => exact ⟨_, _, by rw [wr_of_no_target h]⟩
  | some t =>
    by_cases hl : latency ≤ 1
    · have hme : (wr s d v latency).me = putNow s t v latency := by
        rw [wr_at_once h v hl, landed_zero_eq]
        exact me_setMe s _
      exact ⟨_, _, by rw [hme]; exact frameOf_put _ t _⟩
    · exact ⟨_, _, by rw [wr_pending h v hl, me_setMe]; rfl⟩

/-- The write of a scalar result gives its task no weight and takes none. -/
theorem wt_me_wr (s : State) (d : Name) (v : Word) (latency : Nat) : (wr s d v latency).me.wt = s.me.wt := by
  obtain ⟨_, _, h⟩ := frameOf_me_wr s d v latency
  exact (congrArg Ctx.wt h :)

theorem jobs_wr (s : State) (d : Name) (v : Word) (latency : Nat) : (wr s d v latency).jobs = s.jobs := by
  obtain ⟨_, _, h⟩ := wr_frame s d v latency
  exact (congrArg State.jobs h :)

theorem tasks_wr (s : State) (d : Name) (v : Word) (latency : Nat) : (wr s d v latency).tasks = s.tasks := by
  obtain ⟨_, _, h⟩ := wr_frame s d v latency
  exact (congrArg State.tasks h :)

/-! ## `wgt.wget` and `wgt.wtotal` -/

/-- A task whose job stands on its device finds it. -/
theorem theJob_of_myJob {s : State} {j : Job} (hj : s.myJob = some j) : theJob s = .ok j := by
  simp only [theJob, hj]

theorem wgtWget_completes {s : State} {d : Name} (m : Mark) (h : Plain s 4) (hd : writable d = true) :
    Completes (.wgtWget d m) m s (wr s d (BitVec.ofNat 64 s.me.wt) 1) .next := by
  rw [Completes, exec_wgtWget, execWgtWget, issue32_plain m _ h, dst_ok hd]
  rfl

theorem wgtWtotal_completes {s : State} {d : Name} {j : Job} (m : Mark) (h : Plain s 4) (hd : writable d = true)
    (hj : s.myJob = some j) : Completes (.wgtWtotal d m) m s (wr s d (BitVec.ofNat 64 (1 <<< j.wtotal)) 1) .next := by
  rw [Completes, exec_wgtWtotal, execWgtWtotal, issue32_plain m _ h, dst_ok hd, theJob_of_myJob hj, Nat.one_shiftLeft]
  rfl

/-! ## The statement -/

/-- Settles O23: both instructions only write a scalar result, whose frame holds the weight of the task, the jobs and the records of
the tasks. -/
theorem weightReads : Obligations.WeightReads := by
  unfold Obligations.WeightReads
  intro s m d j h hd hj
  exact ⟨wgtWget_completes m h hd, wgtWtotal_completes m h hd hj, fun v => ⟨wt_me_wr s d v 1, jobs_wr s d v 1, tasks_wr s d v 1⟩⟩

end Sys2Proof.Laws
end

section
/-! The memories stay canonical: what every instruction and event answers, through the lemmas of Laws/MemoryOk on the operations it is
made of, and from there every turn and every step. -/

namespace Sys2Proof.Laws

open Sys2Proof.Machine Sys2Proof.Safety

variable {s : State}

/-! ## Effects of the shared shapes -/

theorem vectorIssue_resOk (i : Instr) (k : Fin 4) (al : Bool) (regs srcs : List Nat) (sr : List (Fin 32)) (tgts : List Target)
    (sp : VSpace) (ok : MemoryOk s) : ResOk (vectorIssue i k al regs srcs sr tgts sp s) := by
  unfold vectorIssue
  refine resOk_bind _ _ fun _ => resOk_bind _ _ fun _ => resOk_bind _ _ fun _ => resOk_bind _ _ fun _ => resOk_bind _ _ fun _ =>
    resOk_bind _ _ fun _ => ?_
  cases sp with
  | none_ => simp [ok]
  | local_ => exact resOk_bind _ _ fun _ => by simp (maxDischargeDepth := 20) [ok]
  | tile => exact resOk_bind _ _ fun _ => by simp (maxDischargeDepth := 20) [ok]

theorem loadLocal_resOk (d : Name) (ea : Int) (size : Nat) (x q : Bool) (ok : MemoryOk s) : ResOk (loadLocal d ea size x q s) := by
  refine resOk_bind _ _ fun addr => ?_
  dsimp only
  split
  · simp [ok]
  · split <;> simp [ok]

theorem storeLocal_resOk (d : Name) (ea : Int) (size : Nat) (q : Bool) (ok : MemoryOk s) : ResOk (storeLocal d ea size q s) :=
  resOk_bind _ _ fun _ => resOk_bind _ _ fun _ => resOk_bind _ _ fun _ => by simp [ok]

theorem branchIf_resOk (c : Bool) (off : Int) (ok : MemoryOk s) : ResOk (branchIf c s off) := by
  unfold branchIf
  split
  · exact resOk_bind _ _ fun _ => by simpa using ok
  · simpa using ok

theorem jumpTo_resOk (t : Word) (ok : MemoryOk s) : ResOk (jumpTo s t) := by
  unfold jumpTo
  split
  · exact resOk_raise _ _
  · exact resOk_bind _ _ fun _ => by simpa using ok

theorem sendWith_resOk (a b : Name) (o rop : Bool) (ok : MemoryOk s) : ResOk (sendWith a b o rop s) :=
  resOk_bind _ _ fun _ => resOk_bind _ _ fun _ => resOk_bind _ _ fun _ => resOk_bind _ _ fun _ =>
    resOk_takeWeight _ _ _ ok fun _ h => by simp [h]

theorem sendHalf_resOk (a : Name) (o : Bool) (ok : MemoryOk s) : ResOk (sendHalf a o s) :=
  resOk_bind _ _ fun _ => resOk_bind _ _ fun _ => resOk_takeWeight _ _ _ ok fun _ h => by simp [h]

theorem homeRequest_resOk (kind : ReqKind) (noMsg : Bool) (a b : Name) (ok : MemoryOk s) : ResOk (homeRequest kind noMsg a b s) :=
  resOk_bind _ _ fun _ => resOk_bind _ _ fun _ => resOk_bind _ _ fun _ => resOk_bind _ _ fun _ => resOk_bind _ _ fun _ =>
    resOk_bind _ _ fun _ => resOk_takeWeight _ _ _ ok fun _ h => by simp [h]

theorem blockTransfer_resOk (w : Bool) (a b : Name) (q l : Bool) (ok : MemoryOk s) : ResOk (blockTransfer w a b q l s) :=
  resOk_bind _ _ fun _ => resOk_bind _ _ fun _ => resOk_bind _ _ fun _ => resOk_bind _ _ fun _ => resOk_bind _ _ fun _ =>
    resOk_bind _ _ fun _ => resOk_bind _ _ fun _ => resOk_takeWeight _ _ _ ok fun _ h => by simp [h]

theorem nearWith_resOk (f : Nat) (a b : Name) (ok : MemoryOk s) : ResOk (nearWith f a b s) :=
  resOk_bind _ _ fun _ => resOk_bind _ _ fun _ => resOk_bind _ _ fun _ => resOk_bind _ _ fun _ => resOk_bind _ _ fun _ =>
    resOk_bind _ _ fun _ => resOk_bind _ _ fun _ => resOk_bind _ _ fun _ => resOk_bind _ _ fun _ =>
    resOk_takeWeight _ _ _ ok fun _ h => by simp [h]

theorem futureWith_resOk (f : Nat) (a b : Name) (ok : MemoryOk s) : ResOk (futureWith f a b s) :=
  resOk_bind _ _ fun _ => resOk_bind _ _ fun _ => resOk_bind _ _ fun _ => resOk_bind _ _ fun _ => resOk_bind _ _ fun _ =>
    resOk_bind _ _ fun _ => resOk_bind _ _ fun _ => resOk_takeWeight _ _ _ ok fun _ h => by simp [h]

theorem defineWith_resOk (n cmAt : Nat) (kind : List Word → ReqKind) (check : Job → List Word → Except Stop Unit)
    (root : Job → List Word → Option Nat) (a b : Name) (ok : MemoryOk s) : ResOk (defineWith n cmAt kind check root a b s) :=
  resOk_bind _ _ fun _ => resOk_bind _ _ fun _ => resOk_bind _ _ fun _ => resOk_bind _ _ fun _ => resOk_bind _ _ fun _ =>
    resOk_bind _ _ fun _ => resOk_bind _ _ fun _ => resOk_takeWeight _ _ _ ok fun _ h => by simp [h]

theorem contextRequest_resOk (n cmAt : Nat) (p : List Word → Bool) (kind : List Word → ReqKind) (a b : Name) (ok : MemoryOk s) :
    ResOk (contextRequest n cmAt p kind a b s) :=
  resOk_bind _ _ fun _ => resOk_bind _ _ fun _ => resOk_bind _ _ fun _ => resOk_bind _ _ fun _ => resOk_bind _ _ fun _ =>
    resOk_bind _ _ fun _ => resOk_bind _ _ fun _ => resOk_bind _ _ fun _ => resOk_bind _ _ fun _ =>
    resOk_takeWeight _ _ _ ok fun _ h => by simp [h]

/-! ## Instructions of the issuing context with a shape of their own -/

theorem releaseNext_nextOk {o : Host.Outcome State Fault Refusal} (h : NextOk o) : NextOk (releaseNext s o) := by
  cases o with
  | next t => simpa [releaseNext] using (State.release_memoryOk t s.cur ((nextOk_next t).1 h))
  | fault f => intro t e; cases e
  | refused r => intro t e; cases e

theorem parkAfter_nextOk (m : Mark) {o : Host.Outcome State Fault Refusal} (h : NextOk o) : NextOk (parkAfter m s o) := by
  cases o with
  | next t =>
    have ht := (nextOk_next t).1 h
    simp only [parkAfter]
    split <;> simp [ht]
  | fault f => intro t e; cases e
  | refused r => intro t e; cases e

theorem execLoop_nextOk (a : Name) (i : BitVec 10) (m : Mark) (ok : MemoryOk s) : NextOk (execLoop a i m s) := by
  refine issue32_nextOk _ _ _ ok (resOk_bind _ _ fun _ => resOk_bind _ _ fun n => ?_)
  dsimp only
  split
  · simpa using ok
  · exact resOk_bind _ _ fun _ => by simp [ok]

theorem execFence_nextOk (k : FenceKind) (c : Scope) (a b : BitVec 7) (m : Mark) (ok : MemoryOk s) :
    NextOk (execFence k c a b m s) := by
  have body : NextOk (issue32 m s (fall (addFence k b.toNat a.toNat c s))) := issue32_nextOk _ _ _ ok (by simp [ok])
  unfold execFence
  dsimp only
  split
  · exact issue32_nextOk _ _ _ ok (resOk_error _)
  · exact body
  · exact parkAfter_nextOk m body
  · exact parkAfter_nextOk m body

theorem execSendDraw_nextOk (a b : Name) (o : Bool) (m : Mark) (ok : MemoryOk s) : NextOk (execSendDraw a b o m s) := by
  refine issue32_nextOk _ _ _ ok (resOk_bind _ _ fun _ => resOk_bind _ _ fun x => resOk_bind _ _ fun _ => resOk_bind _ _ fun w => ?_)
  dsimp only
  split
  · exact resOk_bind _ _ fun _ => resOk_joinHold _ _ ok fun t h => by simp [h]
  · exact resOk_joinHold _ _ ok fun t h => by simp [h]

theorem execGst_nextOk (d a : Name) (o : BitVec 6) (z : Size) (q : Bool) (m : Mark) (ok : MemoryOk s) :
    NextOk (execGst d a o z q m s) := by
  refine issue_nextOk _ _ _ _ _ ok (resOk_bind _ _ fun _ => resOk_bind _ _ fun _ => resOk_bind _ _ fun _ => resOk_bind _ _ fun base => ?_)
  dsimp only
  split
  · exact resOk_bind _ _ fun _ => resOk_bind _ _ fun _ => resOk_bind _ _ fun _ => resOk_joinHold _ _ ok fun t h => by
      simp (maxDischargeDepth := 20) [h]
  · exact resOk_bind _ _ fun _ => resOk_bind _ _ fun _ => resOk_joinHold _ _ ok fun t h => by simp (maxDischargeDepth := 20) [h]

theorem copyWith_resOk (walk : Bool) (d a b : Name) (ok : MemoryOk s) : ResOk (copyWith walk d a b s) := by
  refine resOk_bind _ _ fun _ => resOk_bind _ _ fun _ => resOk_bind _ _ fun _ => resOk_bind _ _ fun _ => resOk_bind _ _ fun _ =>
    resOk_bind _ _ fun _ => resOk_bind _ _ fun _ => resOk_bind _ _ fun _ => resOk_takeWeight _ _ _ ok fun t h => ?_
  dsimp only
  split <;> simp [ok, h]

theorem execTabort_nextOk (d a : Name) (m : Mark) (ok : MemoryOk s) : NextOk (execTabort d a m s) := by
  refine issue32_nextOk _ _ _ ok (resOk_bind _ _ fun _ => resOk_bind _ _ fun _ => resOk_bind _ _ fun _ => ?_)
  dsimp only
  split <;> simp [ok]

theorem execTrgAdd_nextOk (a b : Name) (m : Mark) (ok : MemoryOk s) : NextOk (execTrgAdd a b m s) := by
  refine issue32_nextOk _ _ _ ok (resOk_bind _ _ fun _ => resOk_bind _ _ fun _ => resOk_bind _ _ fun _ => resOk_bind _ _ fun _ =>
    resOk_bind _ _ fun _ => ?_)
  split
  · exact resOk_bind _ _ fun _ => resOk_joinHold _ _ ok fun t h => by simp [h]
  · exact resOk_bind _ _ fun _ => by simp [ok]

theorem execTrgFree_nextOk (a : Name) (m : Mark) (ok : MemoryOk s) : NextOk (execTrgFree a m s) := by
  refine issue32_nextOk _ _ _ ok (resOk_bind _ _ fun _ => resOk_bind _ _ fun _ => resOk_bind _ _ fun _ => ?_)
  split <;> simp [ok]

/-! ## Events that look at a packet, a record or a table first -/

theorem homeEvent_nextOk (pkt : Nat) (kind : Body → Bool) (ok : MemoryOk s) : NextOk (homeEvent pkt kind s) := by
  unfold homeEvent
  split <;> simp [ok]

theorem whenUp_nextOk {o : Host.Outcome State Fault Refusal} (ok : MemoryOk s) (h : NextOk o) : NextOk (s.whenUp o) := by
  unfold State.whenUp
  split
  · simpa using ok
  · exact h

theorem launchCheck_heldOk (know : Know) (w : List Word) (ok : MemoryOk s) : HeldOk (launchCheck s know w) := by
  unfold launchCheck
  split
  · exact heldOk_refuse _
  · refine heldOk_bind _ _ (readImage_heldOk s know w ok) fun img => heldOk_bind _ _ ?_ fun ab =>
      heldOk_bind _ _ (readTable_heldOk _ _ _ _ _ ok) fun mb => ?_
    · exact heldOk_bind _ _ (readTable_heldOk _ _ _ _ _ ok) fun _ => heldOk_bind _ _ (readTable_heldOk _ _ _ _ _ ok) fun _ => heldOk_ok _
    · dsimp only
      split
      · exact heldOk_ok _
      · exact heldOk_refuse _

theorem launchPlace_heldOk (l : Launching) (ok : MemoryOk s) : HeldOk (launchPlace s l) := by
  refine heldOk_bind _ _ (launchCheck_heldOk l.know l.words ok) fun t => ?_
  split
  · exact heldOk_ok _
  · exact heldOk_ok _

theorem execRouterSwitch_nextOk (pkt : Nat) (ok : MemoryOk s) : NextOk (execRouterSwitch pkt s) := by
  unfold execRouterSwitch
  split
  · simpa using ok
  · split
    · split
      · split
        · rename_i t e
          simpa using State.leaveSource_memoryOk _ _ _ ok e
        · simpa using ok
      · simpa using ok
    · split <;> simp [ok]
    · split <;> simp [ok]

theorem execGlobalPiecePerform_nextOk (pkt : Nat) (ok : MemoryOk s) : NextOk (execGlobalPiecePerform pkt s) := by
  unfold execGlobalPiecePerform
  split
  · split
    · split
      · split
        · rename_i t e
          simpa using performTile_memoryOk _ _ _ _ (State.dropPacket_memoryOk s pkt ok) e
        · simpa using ok
      · simpa using ok
    · (repeat' split) <;> simp [ok]
    · simpa using ok
  · simpa using ok

theorem execPieceLanding_nextOk (pkt : Nat) (ok : MemoryOk s) : NextOk (execPieceLanding pkt s) := by
  unfold execPieceLanding
  split
  · split
    · rename_i t e
      simpa using landed_memoryOk _ _ _ (State.dropPacket_memoryOk s pkt ok) e
    · simpa using ok
  · simpa using ok

theorem execXchgActivate_nextOk (tile : Nat) (ok : MemoryOk s) : NextOk (execXchgActivate tile s) := by
  unfold execXchgActivate
  dsimp only
  split
  · simpa using ok
  · split
    · split
      · simpa using ok
      · split <;> simp [ok]
    · split
      · split
        · rename_i t e
          have := State.takeBanks_memoryOk _ _ _ _ _ ok e
          simp (maxDischargeDepth := 20) [this]
        · simpa using ok
      · simpa using ok
    · simpa using ok

theorem execXchgRowReceive_nextOk (pkt : Nat) (ok : MemoryOk s) : NextOk (execXchgRowReceive pkt s) := by
  unfold execXchgRowReceive
  split
  · dsimp only
    split
    · split
      · split
        · split
          · simp [ok]
          · split
            · rename_i t e
              have := State.takeBanks_memoryOk _ _ _ _ _ (State.post_memoryOk _ _ _ _ _ _ _ _ _ (State.dropPacket_memoryOk s pkt ok)) e
              simp (maxDischargeDepth := 20) [this]
            · simpa using ok
        · simp [ok]
      · simp [ok]
    · simpa using ok
  · simpa using ok

theorem execLaunchRecordTake_nextOk (ok : MemoryOk s) : NextOk (execLaunchRecordTake s) := by
  unfold execLaunchRecordTake
  split
  · simpa using ok
  · split
    · simpa using ok
    · dsimp only
      split
      · simpa using ok
      · split
        · rename_i t e
          simpa using launchCheck_heldOk _ _ ok t e
        · simp [ok]
        · (repeat' split) <;> simp [ok]

theorem execLaunchCreate_nextOk (source : Nat) (ok : MemoryOk s) : NextOk (execLaunchCreate source s) := by
  unfold execLaunchCreate
  split
  · split
    · simpa using ok
    · dsimp only
      split
      · simp [ok]
      · split
        · simp [ok]
        · split
          · simp [ok]
          · split
            · rename_i t e
              simpa using launchPlace_heldOk _ ok t e
            · simp [ok]
            · simp [ok]
            · split <;> simp [ok]
  · simpa using ok

theorem execCheckpointFlushDone_nextOk (e : FlushEnd) (ok : MemoryOk s) : NextOk (execCheckpointFlushDone e s) := by
  unfold execCheckpointFlushDone
  split
  · simpa using ok
  · dsimp only
    split
    · simpa using State.setCkpt_memoryOk _ _ (Ckpt.slotsDone_memoryOk _ s _ ok)
    · split
      · simp (maxDischargeDepth := 20) [ok]
      · simpa using ok

theorem execWritebackComplete_nextOk (move : Nat) (b : Bool) (ok : MemoryOk s) : NextOk (execWritebackComplete move b s) := by
  unfold execWritebackComplete
  (repeat' split) <;> simp [ok]

theorem execFillComplete_nextOk (port pte : Nat) (b : Bool) (ok : MemoryOk s) : NextOk (execFillComplete port pte b s) := by
  unfold execFillComplete
  split
  · split
    · simp only [nextOk_next, memoryOk_mk]
      split <;> simp [ok]
    · simpa using ok
  · simpa using ok

/-! ## What the host writes -/

theorem execHwqDoorbell_nextOk (fn q tail : Nat) (ok : MemoryOk s) : NextOk (execHwqDoorbell fn q tail s) :=
  whenUp_nextOk ok (by split <;> simp [ok])

theorem execTlbInvalidate_nextOk (va : BitVec 64) (ok : MemoryOk s) : NextOk (execTlbInvalidate va s) :=
  whenUp_nextOk ok (by simp [ok])

theorem execPoolTailWrite_nextOk (pool tail : Nat) (ok : MemoryOk s) : NextOk (execPoolTailWrite pool tail s) :=
  whenUp_nextOk ok (by split <;> simp [ok])

theorem execJobTagWrite_nextOk (job : Nat) (value : BitVec 64) (ok : MemoryOk s) : NextOk (execJobTagWrite job value s) :=
  whenUp_nextOk ok (by (repeat' split) <;> simp [ok])

theorem execRouteEntryWrite_nextOk (d : Nat) (value : BitVec 64) (ok : MemoryOk s) : NextOk (execRouteEntryWrite d value s) :=
  whenUp_nextOk ok (by (repeat' split) <;> simp [ok])

theorem execJobctlResume_nextOk (job : Nat) (ok : MemoryOk s) : NextOk (execJobctlResume job s) :=
  whenUp_nextOk ok (by (repeat' split) <;> simp [ok])

theorem execJobctlAbort_nextOk (job : Nat) (ok : MemoryOk s) : NextOk (execJobctlAbort job s) :=
  whenUp_nextOk ok (by split <;> simp [ok])

theorem execHostWindowRead_nextOk (off n : Nat) (ok : MemoryOk s) : NextOk (execHostWindowRead off n s) := by
  unfold execHostWindowRead
  split
  · simpa using ok
  · split <;> simp [ok]

theorem hostWrites_memoryOk (a : Nat) (l : List (Nat × Byte)) (ok : MemoryOk s) :
    MemoryOk (l.foldl (fun (s : State) (e : Nat × Byte) => s.hostWrite (a + e.1) [e.2]) s) :=
  foldl_memoryOk _ _ _ ok fun s e h => by simp [h]

theorem nextOk_free {t : State} (k : Nat) (h : MemoryOk t) : NextOk (.next { t with free := k }) := (nextOk_next _).2 h

theorem execHostWindowWrite_nextOk (off : Nat) (data : List (BitVec 8)) (ok : MemoryOk s) : NextOk (execHostWindowWrite off data s) := by
  unfold execHostWindowWrite
  extract_lets n
  split
  · exact (nextOk_next s).2 ok
  · split
    · exact (nextOk_next _).2 ok
    · extract_lets s1
      have h1 : MemoryOk s1 := by
        unfold s1
        split
        · exact State.hostWrite_memoryOk _ _ _ ok
        · exact hostWrites_memoryOk _ _ ok
      exact (nextOk_next { s1 with free := s.free + 1 }).2 h1

theorem execRegisterWrite_nextOk (fn off : Nat) (value : BitVec 64) (ok : MemoryOk s) : NextOk (execRegisterWrite fn off value s) := by
  unfold execRegisterWrite
  split
  · exact whenUp_nextOk ok (by split <;> simp [ok])
  · split
    · split
      · exact whenUp_nextOk ok (by simp [ok])
      · simp [ok]
    · simpa using ok

/-! ## Each meaning that no shape covers -/

theorem execMovi_nextOk (d : Name) (i : BitVec 16) (m : Mark) (ok : MemoryOk s) : NextOk (execMovi d i m s) := by
  simp (maxDischargeDepth := 8) [execMovi, ok]

theorem execJmp_nextOk (o : BitVec 22) (m : Mark) (ok : MemoryOk s) : NextOk (execJmp o m s) := by
  simp [execJmp, ok]

theorem execCall_nextOk (o : BitVec 22) (m : Mark) (ok : MemoryOk s) : NextOk (execCall o m s) := by
  simp (maxDischargeDepth := 8) [execCall, ok]

theorem execCtlNop_nextOk (m : Mark) (ok : MemoryOk s) : NextOk (execCtlNop m s) := by
  simp [execCtlNop, ok]

theorem execCtlTrap_nextOk (a : Name) (m : Mark) (ok : MemoryOk s) : NextOk (execCtlTrap a m s) := by
  simp (maxDischargeDepth := 8) [execCtlTrap, ok]

theorem execLdt_nextOk (d a : Name) (o : BitVec 6) (z : Size) (x q : Bool) (m : Mark) (ok : MemoryOk s) : NextOk (execLdt d a o z x q m s) := by
  unfold execLdt
  (repeat' split) <;> simp_all (maxDischargeDepth := 20)

theorem execStt_nextOk (d a : Name) (o : BitVec 6) (z : Size) (q : Bool) (m : Mark) (ok : MemoryOk s) : NextOk (execStt d a o z q m s) := by
  unfold execStt
  (repeat' split) <;> simp_all (maxDischargeDepth := 20)

theorem execKset_nextOk (d : Fin 8) (a b : Fin 32) (m : Mark) (ok : MemoryOk s) : NextOk (execKset d a b m s) := by
  simp (maxDischargeDepth := 8) [execKset, ok]

theorem execXchg_nextOk (d a b : Name) (m : Mark) (ok : MemoryOk s) : NextOk (execXchg d a b m s) := by
  unfold execXchg
  (repeat' split) <;> simp_all (maxDischargeDepth := 20)

theorem execWgtWget_nextOk (d : Name) (m : Mark) (ok : MemoryOk s) : NextOk (execWgtWget d m s) := by
  simp (maxDischargeDepth := 8) [execWgtWget, ok]

theorem execWgtWtotal_nextOk (d : Name) (m : Mark) (ok : MemoryOk s) : NextOk (execWgtWtotal d m s) := by
  simp (maxDischargeDepth := 8) [execWgtWtotal, ok]

theorem execWgtWret_nextOk (a : Name) (m : Mark) (ok : MemoryOk s) : NextOk (execWgtWret a m s) := by
  unfold execWgtWret
  simp_all (maxDischargeDepth := 20)

theorem execWgtQarm_nextOk (a b : Name) (m : Mark) (ok : MemoryOk s) : NextOk (execWgtQarm a b m s) := by
  unfold execWgtQarm
  simp_all (maxDischargeDepth := 20)

theorem execWgtQdisarm_nextOk (m : Mark) (ok : MemoryOk s) : NextOk (execWgtQdisarm m s) := by
  unfold execWgtQdisarm
  simp_all (maxDischargeDepth := 20)

theorem execCqry_nextOk (d a : Name) (m : Mark) (ok : MemoryOk s) : NextOk (execCqry d a m s) := by
  simp (maxDischargeDepth := 8) [execCqry, ok]

theorem execCpyCancel_nextOk (d a : Name) (m : Mark) (ok : MemoryOk s) : NextOk (execCpyCancel d a m s) := by
  simp (maxDischargeDepth := 8) [execCpyCancel, ok]

theorem execTmm_nextOk (d a b : Name) (m : Mark) (ok : MemoryOk s) : NextOk (execTmm d a b m s) := by
  unfold execTmm
  (repeat' split) <;> simp_all (maxDischargeDepth := 20)

theorem execTstat_nextOk (d a : Name) (m : Mark) (ok : MemoryOk s) : NextOk (execTstat d a m s) := by
  simp (maxDischargeDepth := 8) [execTstat, ok]

theorem execTrgPost_nextOk (d a b : Name) (m : Mark) (ok : MemoryOk s) : NextOk (execTrgPost d a b m s) := by
  unfold execTrgPost
  dsimp only
  (repeat' split) <;> simp_all (maxDischargeDepth := 20)

theorem execTrgRead_nextOk (d a : Name) (m : Mark) (ok : MemoryOk s) : NextOk (execTrgRead d a m s) := by
  simp (maxDischargeDepth := 8) [execTrgRead, ok]

theorem execTrgCancel_nextOk (d a : Name) (m : Mark) (ok : MemoryOk s) : NextOk (execTrgCancel d a m s) := by
  simp (maxDischargeDepth := 8) [execTrgCancel, ok]

theorem execTrgAlloc_nextOk (d : Name) (m : Mark) (ok : MemoryOk s) : NextOk (execTrgAlloc d m s) := by
  unfold execTrgAlloc
  (repeat' split) <;> simp_all (maxDischargeDepth := 20)

theorem execNred_nextOk (a b : Name) (m : Mark) (ok : MemoryOk s) : NextOk (execNred a b m s) := by
  unfold execNred
  simp_all (maxDischargeDepth := 20)

theorem execLaunch_nextOk (a b : Name) (m : Mark) (ok : MemoryOk s) : NextOk (execLaunch a b m s) := by
  unfold execLaunch
  simp_all (maxDischargeDepth := 20)

theorem execSysMfs_nextOk (d a : Name) (m : Mark) (ok : MemoryOk s) : NextOk (execSysMfs d a m s) := by
  simp (maxDischargeDepth := 8) [execSysMfs, ok]

theorem execSysMts_nextOk (a b : Name) (m : Mark) (ok : MemoryOk s) : NextOk (execSysMts a b m s) := by
  unfold execSysMts
  simp_all (maxDischargeDepth := 20)

theorem execSysHalt_nextOk (a : Name) (m : Mark) (ok : MemoryOk s) : NextOk (execSysHalt a m s) := by
  simp (maxDischargeDepth := 8) [execSysHalt, ok]

theorem execSysSysnote_nextOk (a b : Name) (m : Mark) (ok : MemoryOk s) : NextOk (execSysSysnote a b m s) := by
  simp (maxDischargeDepth := 8) [execSysSysnote, ok]

theorem execSpref_nextOk (a b : Name) (m : Mark) (ok : MemoryOk s) : NextOk (execSpref a b m s) := by
  unfold execSpref
  (repeat' split) <;> simp_all (maxDischargeDepth := 20)

theorem execLimm_nextOk (p : BitVec 22) (ok : MemoryOk s) : NextOk (execLimm p s) := by
  unfold execLimm
  dsimp only
  (repeat' split) <;> simp [ok]

theorem execTaskStart_nextOk (tile core : Nat) (ok : MemoryOk s) : NextOk (execTaskStart tile core s) := by
  unfold execTaskStart
  dsimp only
  (repeat' split) <;> simp [ok]

theorem execRemoteOpStart_nextOk (tile core : Nat) (ok : MemoryOk s) : NextOk (execRemoteOpStart tile core s) := by
  unfold execRemoteOpStart
  dsimp only
  (repeat' split) <;> simp [ok]

theorem execDrainTaskStart_nextOk (tile : Nat) (ok : MemoryOk s) : NextOk (execDrainTaskStart tile s) := by
  unfold execDrainTaskStart
  dsimp only
  (repeat' split) <;> simp_all (maxDischargeDepth := 20)

theorem execTaskEnd_nextOk (ctx : Nat) (ok : MemoryOk s) : NextOk (execTaskEnd ctx s) := by
  unfold execTaskEnd
  (repeat' split) <;> simp [ok]

theorem execVectorOpStart_nextOk (tile : Nat) (ok : MemoryOk s) : NextOk (execVectorOpStart tile s) := by
  unfold execVectorOpStart
  dsimp only
  (repeat' split) <;> simp_all (maxDischargeDepth := 20)

theorem execVectorOpComplete_nextOk (op : Nat) (ok : MemoryOk s) : NextOk (execVectorOpComplete op s) := by
  unfold execVectorOpComplete
  dsimp only
  (repeat' split) <;> simp [ok]

theorem execSfuServiceStart_nextOk (tile : Nat) (ok : MemoryOk s) : NextOk (execSfuServiceStart tile s) := by
  unfold execSfuServiceStart
  dsimp only
  (repeat' split) <;> simp [ok]

theorem execSfuResult_nextOk (op : Nat) (ok : MemoryOk s) : NextOk (execSfuResult op s) := by
  unfold execSfuResult
  (repeat' split) <;> simp [ok]

theorem execLdtResult_nextOk (op : Nat) (ok : MemoryOk s) : NextOk (execLdtResult op s) := by
  unfold execLdtResult
  dsimp only
  (repeat' split) <;> simp_all (maxDischargeDepth := 20)

theorem execDivideResult_nextOk (op : Nat) (ok : MemoryOk s) : NextOk (execDivideResult op s) := by
  unfold execDivideResult
  (repeat' split) <;> simp [ok]

theorem execTileStoreLand_nextOk (store : Nat) (ok : MemoryOk s) : NextOk (execTileStoreLand store s) := by
  unfold execTileStoreLand
  dsimp only
  (repeat' split) <;> simp_all (maxDischargeDepth := 20)

theorem execBudgetExpiry_nextOk (ctx : Nat) (ok : MemoryOk s) : NextOk (execBudgetExpiry ctx s) := by
  unfold execBudgetExpiry
  (repeat' split) <;> simp [ok]

theorem execUnitRetryReinject_nextOk (job level unit : Nat) (ok : MemoryOk s) : NextOk (execUnitRetryReinject job level unit s) := by
  unfold execUnitRetryReinject
  (repeat' split) <;> simp_all

theorem execMessageArrival_nextOk (pkt : Nat) (ok : MemoryOk s) : NextOk (execMessageArrival pkt s) := by
  unfold execMessageArrival
  (repeat' split) <;> simp [ok]

theorem execMessageRefusal_nextOk (pkt : Nat) (ok : MemoryOk s) : NextOk (execMessageRefusal pkt s) := by
  unfold execMessageRefusal
  (repeat' split) <;> simp [ok]

theorem execMessageResend_nextOk (out : Nat) (ok : MemoryOk s) : NextOk (execMessageResend out s) := by
  unfold execMessageResend
  (repeat' split) <;> simp [ok]

theorem execSendAcceptReport_nextOk (pkt : Nat) (ok : MemoryOk s) : NextOk (execSendAcceptReport pkt s) := by
  unfold execSendAcceptReport
  (repeat' split) <;> simp_all (maxDischargeDepth := 20)

theorem execSpillReinjectOffer_nextOk (job : Nat) (ok : MemoryOk s) : NextOk (execSpillReinjectOffer job s) := by
  unfold execSpillReinjectOffer
  (repeat' split) <;> simp [ok]

theorem execHoldAck_nextOk (pkt : Nat) (ok : MemoryOk s) : NextOk (execHoldAck pkt s) := by
  unfold execHoldAck
  (repeat' split) <;> simp_all (maxDischargeDepth := 20)

theorem execAccessAck_nextOk (acc : Nat) (ok : MemoryOk s) : NextOk (execAccessAck acc s) := by
  unfold execAccessAck
  split <;> simp [ok]

theorem execRouterGate_nextOk (p y : Nat) (ok : MemoryOk s) : NextOk (execRouterGate p y s) := by
  unfold execRouterGate
  dsimp only
  (repeat' split) <;> simp [ok]

theorem execRouterWake_nextOk (p y : Nat) (ok : MemoryOk s) : NextOk (execRouterWake p y s) := by
  unfold execRouterWake
  dsimp only
  (repeat' split) <;> simp [ok]

theorem execRouterReady_nextOk (p y : Nat) (ok : MemoryOk s) : NextOk (execRouterReady p y s) := by
  unfold execRouterReady
  (repeat' split) <;> simp [ok]

theorem execChainChunk_nextOk (node : Nat) (ok : MemoryOk s) : NextOk (execChainChunk node s) := by
  unfold execChainChunk
  dsimp only
  (repeat' split) <;> simp_all (maxDischargeDepth := 20)

theorem execChainGrant_nextOk (node : Nat) (ok : MemoryOk s) : NextOk (execChainGrant node s) := by
  unfold execChainGrant
  dsimp only
  (repeat' split) <;> simp_all (maxDischargeDepth := 20)

theorem execDrawResend_nextOk (out : Nat) (ok : MemoryOk s) : NextOk (execDrawResend out s) := by
  unfold execDrawResend
  (repeat' split) <;> simp [ok]

theorem execFarSendArrival_nextOk (pkt : Nat) (ok : MemoryOk s) : NextOk (execFarSendArrival pkt s) := by
  unfold execFarSendArrival
  (repeat' split) <;> simp [ok]

theorem execCensusStart_nextOk (pkt : Nat) (ok : MemoryOk s) : NextOk (execCensusStart pkt s) := by
  unfold execCensusStart
  (repeat' split) <;> simp [ok]

theorem execCensusMarkerSend_nextOk (job node : Nat) (ok : MemoryOk s) : NextOk (execCensusMarkerSend job node s) := by
  unfold execCensusMarkerSend
  (repeat' split) <;> simp [ok]

theorem execCensusMarkerArrival_nextOk (pkt : Nat) (ok : MemoryOk s) : NextOk (execCensusMarkerArrival pkt s) := by
  unfold execCensusMarkerArrival
  (repeat' split) <;> simp_all (maxDischargeDepth := 20)

theorem execWlossServe_nextOk (pkt : Nat) (ok : MemoryOk s) : NextOk (execWlossServe pkt s) := by
  unfold execWlossServe
  (repeat' split) <;> simp [ok]

theorem execHomeCopyBroadcast_nextOk (job : Nat) (ok : MemoryOk s) : NextOk (execHomeCopyBroadcast job s) := by
  unfold execHomeCopyBroadcast
  (repeat' split) <;> simp [ok]

theorem execStationTranslate_nextOk (pkt : Nat) (ok : MemoryOk s) : NextOk (execStationTranslate pkt s) := by
  unfold execStationTranslate
  dsimp only
  (repeat' split) <;> simp [ok]

theorem execPageWalk_nextOk (walk : Nat) (ok : MemoryOk s) : NextOk (execPageWalk walk s) := by
  unfold execPageWalk
  split <;> simp [ok]

theorem execParkedRequestResend_nextOk (pkt : Nat) (ok : MemoryOk s) : NextOk (execParkedRequestResend pkt s) := by
  unfold execParkedRequestResend
  (repeat' split) <;> simp [ok]

theorem execNearOpExecute_nextOk (pkt hint : Nat) (ok : MemoryOk s) : NextOk (execNearOpExecute pkt hint s) := by
  unfold execNearOpExecute
  (repeat' split) <;> simp [ok]

theorem execChaseForwardArrival_nextOk (pkt hint : Nat) (ok : MemoryOk s) : NextOk (execChaseForwardArrival pkt hint s) := by
  unfold execChaseForwardArrival
  (repeat' split) <;> simp [ok]

theorem execFarRetryResend_nextOk (req : Nat) (ok : MemoryOk s) : NextOk (execFarRetryResend req s) := by
  unfold execFarRetryResend
  (repeat' split) <;> simp [ok]

theorem execStorageServiceStart_nextOk (port : Nat) (ok : MemoryOk s) : NextOk (execStorageServiceStart port s) := by
  unfold execStorageServiceStart
  (repeat' split) <;> simp [ok]

theorem execNvmeTimeout_nextOk (port pte : Nat) (ok : MemoryOk s) : NextOk (execNvmeTimeout port pte s) := by
  unfold execNvmeTimeout
  (repeat' split) <;> simp [ok]

theorem execFrameWaitRetry_nextOk (port pte : Nat) (ok : MemoryOk s) : NextOk (execFrameWaitRetry port pte s) := by
  unfold execFrameWaitRetry
  dsimp only
  (repeat' split) <;> simp [ok]

theorem execMigrationReview_nextOk (die region : Nat) (ok : MemoryOk s) : NextOk (execMigrationReview die region s) := by
  unfold execMigrationReview
  dsimp only
  (repeat' split) <;> simp [ok]

theorem execMigrationComplete_nextOk (move : Nat) (ok : MemoryOk s) : NextOk (execMigrationComplete move s) := by
  unfold execMigrationComplete
  (repeat' split) <;> simp [ok]

theorem execCopyOffer_nextOk (tile core : Nat) (ok : MemoryOk s) : NextOk (execCopyOffer tile core s) := by
  unfold execCopyOffer
  dsimp only
  (repeat' split) <;> simp [ok]

theorem execCopyPiece_nextOk (bte req : Nat) (ok : MemoryOk s) : NextOk (execCopyPiece bte req s) := by
  unfold execCopyPiece
  (repeat' split) <;> simp [ok]

theorem execArrayJobStart_nextOk (tile : Nat) (ok : MemoryOk s) : NextOk (execArrayJobStart tile s) := by
  unfold execArrayJobStart
  dsimp only
  (repeat' split) <;> simp_all (maxDischargeDepth := 20)

theorem execArrayStep_nextOk (tile : Nat) (ok : MemoryOk s) : NextOk (execArrayStep tile s) := by
  unfold execArrayStep
  (repeat' split) <;> simp [ok]

theorem execArrayRowDrain_nextOk (tile : Nat) (ok : MemoryOk s) : NextOk (execArrayRowDrain tile s) := by
  unfold execArrayRowDrain
  dsimp only
  (repeat' split) <;> simp [ok]

theorem execArrayJobComplete_nextOk (tile : Nat) (ok : MemoryOk s) : NextOk (execArrayJobComplete tile s) := by
  unfold execArrayJobComplete
  dsimp only
  (repeat' split) <;> simp [ok]

theorem execArrayStopFinish_nextOk (tile : Nat) (ok : MemoryOk s) : NextOk (execArrayStopFinish tile s) := by
  unfold execArrayStopFinish
  dsimp only
  (repeat' split) <;> simp_all (maxDischargeDepth := 20)

theorem execArriveReceive_nextOk (pkt : Nat) (ok : MemoryOk s) : NextOk (execArriveReceive pkt s) := by
  unfold execArriveReceive
  (repeat' split) <;> simp [ok]

theorem execArriveResend_nextOk (pkt : Nat) (ok : MemoryOk s) : NextOk (execArriveResend pkt s) := by
  unfold execArriveResend
  (repeat' split) <;> simp [ok]

theorem execXchgRowAck_nextOk (pkt : Nat) (ok : MemoryOk s) : NextOk (execXchgRowAck pkt s) := by
  unfold execXchgRowAck
  (repeat' split) <;> simp_all (maxDischargeDepth := 20)

theorem execXchgTimeout_nextOk (tile : Nat) (ok : MemoryOk s) : NextOk (execXchgTimeout tile s) := by
  unfold execXchgTimeout
  (repeat' split) <;> simp [ok]

theorem execTriggerArrival_nextOk (tile pkt : Nat) (ok : MemoryOk s) : NextOk (execTriggerArrival tile pkt s) := by
  unfold execTriggerArrival
  dsimp only
  (repeat' split) <;> simp_all (maxDischargeDepth := 20)

theorem execTriggerFire_nextOk (tile : Nat) (ok : MemoryOk s) : NextOk (execTriggerFire tile s) := by
  unfold execTriggerFire
  dsimp only
  (repeat' split) <;> simp [ok]

theorem execNrdefProgram_nextOk (pkt : Nat) (ok : MemoryOk s) : NextOk (execNrdefProgram pkt s) := by
  unfold execNrdefProgram
  dsimp only
  (repeat' split) <;> simp_all (maxDischargeDepth := 20)

theorem execNrfreeRemove_nextOk (pkt : Nat) (ok : MemoryOk s) : NextOk (execNrfreeRemove pkt s) := by
  unfold execNrfreeRemove
  (repeat' split) <;> simp [ok]

theorem execContributionArrival_nextOk (pkt : Nat) (ok : MemoryOk s) : NextOk (execContributionArrival pkt s) := by
  unfold execContributionArrival
  (repeat' split) <;> simp_all (maxDischargeDepth := 20)

theorem execRouterCombine_nextOk (p y job nid : Nat) (ok : MemoryOk s) : NextOk (execRouterCombine p y job nid s) := by
  unfold execRouterCombine
  dsimp only
  (repeat' split) <;> simp_all (maxDischargeDepth := 20)

theorem execRoundStartNotice_nextOk (pkt : Nat) (ok : MemoryOk s) : NextOk (execRoundStartNotice pkt s) := by
  unfold execRoundStartNotice
  (repeat' split) <;> simp [ok]

theorem execRoundTimeout_nextOk (job nid : Nat) (ok : MemoryOk s) : NextOk (execRoundTimeout job nid s) := by
  unfold execRoundTimeout
  (repeat' split) <;> simp [ok]

theorem execCloseArrival_nextOk (pkt : Nat) (ok : MemoryOk s) : NextOk (execCloseArrival pkt s) := by
  unfold execCloseArrival
  (repeat' split) <;> simp_all (maxDischargeDepth := 20)

theorem execRoundComplete_nextOk (job nid : Nat) (ok : MemoryOk s) : NextOk (execRoundComplete job nid s) := by
  unfold execRoundComplete
  dsimp only
  (repeat' split) <;> simp_all (maxDischargeDepth := 20)

theorem execFutureRequestServe_nextOk (pkt : Nat) (ok : MemoryOk s) : NextOk (execFutureRequestServe pkt s) := by
  unfold execFutureRequestServe
  (repeat' split) <;> simp [ok]

theorem execFwaitResend_nextOk (req : Nat) (ok : MemoryOk s) : NextOk (execFwaitResend req s) := by
  unfold execFwaitResend
  (repeat' split) <;> simp [ok]

theorem execLaunchRequestArrival_nextOk (pkt : Nat) (ok : MemoryOk s) : NextOk (execLaunchRequestArrival pkt s) := by
  unfold execLaunchRequestArrival
  (repeat' split) <;> simp [ok]

theorem execLaunchResend_nextOk (req : Nat) (ok : MemoryOk s) : NextOk (execLaunchResend req s) := by
  unfold execLaunchResend
  (repeat' split) <;> simp [ok]

theorem execRootInject_nextOk (ok : MemoryOk s) : NextOk (execRootInject s) := by
  unfold execRootInject
  (repeat' split) <;> simp_all (maxDischargeDepth := 20)

theorem execContextRestore_nextOk (req : Nat) (ok : MemoryOk s) : NextOk (execContextRestore req s) := by
  unfold execContextRestore
  (repeat' split) <;> simp [ok]

theorem execSavedFarSendSpill_nextOk (pkt : Nat) (ok : MemoryOk s) : NextOk (execSavedFarSendSpill pkt s) := by
  unfold execSavedFarSendSpill
  dsimp only
  (repeat' split) <;> simp_all (maxDischargeDepth := 20)

theorem execCheckpointDigestArrival_nextOk (jtag gen entry chunk : Nat) (digest : List (BitVec 8)) (ok : MemoryOk s) : NextOk (execCheckpointDigestArrival jtag gen entry chunk digest s) := by
  simp [execCheckpointDigestArrival, ok]

theorem execCheckpointPeerlost_nextOk (slot : Nat) (ok : MemoryOk s) : NextOk (execCheckpointPeerlost slot s) := by
  unfold execCheckpointPeerlost
  (repeat' split) <;> simp [ok]

theorem execFabricPacketArrival_nextOk (port : Nat) (pkt : FabPkt) (ok : MemoryOk s) : NextOk (execFabricPacketArrival port pkt s) := by
  unfold execFabricPacketArrival
  (repeat' split) <;> simp [ok]

theorem execFabricNakArrival_nextOk (port : Nat) (pkt : FabPkt) (ok : MemoryOk s) : NextOk (execFabricNakArrival port pkt s) := by
  unfold execFabricNakArrival
  split <;> simp [ok]

theorem execFlitCrcReplay_nextOk (port : Nat) (ok : MemoryOk s) : NextOk (execFlitCrcReplay port s) := by
  simp [execFlitCrcReplay, ok]

theorem execPortDown_nextOk (port : Nat) (ok : MemoryOk s) : NextOk (execPortDown port s) := by
  unfold execPortDown
  dsimp only
  (repeat' split) <;> simp_all (maxDischargeDepth := 20)

theorem execJobTagTimeout_nextOk (out : Nat) (ok : MemoryOk s) : NextOk (execJobTagTimeout out s) := by
  unfold execJobTagTimeout
  dsimp only
  (repeat' split) <;> simp_all (maxDischargeDepth := 20)

theorem execPowerGrant_nextOk (die : Nat) (duties : List Nat) (ok : MemoryOk s) : NextOk (execPowerGrant die duties s) := by
  unfold execPowerGrant
  split <;> simp [ok]

theorem execThermalCap_nextOk (die : Nat) (ok : MemoryOk s) : NextOk (execThermalCap die s) := by
  simp [execThermalCap, ok]

theorem execThermalHalt_nextOk (die : Nat) (ok : MemoryOk s) : NextOk (execThermalHalt die s) := by
  unfold execThermalHalt
  split <;> simp [ok]

theorem execDeviceReset_nextOk (answers : List Bool) (ok : MemoryOk s) : NextOk (execDeviceReset answers s) := by
  simp [execDeviceReset, ok]

theorem execLinkTraining_nextOk (width speed : Nat) (ok : MemoryOk s) : NextOk (execLinkTraining width speed s) := by
  unfold execLinkTraining
  split <;> simp [ok]

theorem execHostFutureNew_nextOk (ok : MemoryOk s) : NextOk (execHostFutureNew s) := by
  unfold execHostFutureNew
  dsimp only
  (repeat' split) <;> simp [ok]

theorem execHostFutureSet_nextOk (ok : MemoryOk s) : NextOk (execHostFutureSet s) := by
  unfold execHostFutureSet
  dsimp only
  (repeat' split) <;> simp [ok]

theorem execHostFutureFree_nextOk (ok : MemoryOk s) : NextOk (execHostFutureFree s) := by
  unfold execHostFutureFree
  dsimp only
  (repeat' split) <;> simp [ok]

theorem execHostFuturePeek_nextOk (ok : MemoryOk s) : NextOk (execHostFuturePeek s) := by
  unfold execHostFuturePeek
  dsimp only
  (repeat' split) <;> simp [ok]

theorem execGetkey_nextOk (ok : MemoryOk s) : NextOk (execGetkey s) := by
  unfold execGetkey
  split <;> simp [ok]

theorem execAttest_nextOk (nonce : List (BitVec 8)) (ok : MemoryOk s) : NextOk (execAttest nonce s) := by
  unfold execAttest
  split <;> simp [ok]

theorem execFwload_nextOk (addr n : Nat) (ok : MemoryOk s) : NextOk (execFwload addr n s) := by
  unfold execFwload
  split <;> simp [ok]

theorem execSetbudget_nextOk (watts : Nat) (ok : MemoryOk s) : NextOk (execSetbudget watts s) := by
  unfold execSetbudget
  (repeat' split) <;> simp [ok]

theorem execNotAnInstruction_nextOk (ok : MemoryOk s) : NextOk (execNotAnInstruction s) := by
  simp [execNotAnInstruction, ok]

theorem execPortUp_nextOk (port : Nat) (ok : MemoryOk s) : NextOk (execPortUp port s) := by
  unfold execPortUp
  split <;> simp [ok]

theorem execUncorrectableSoftError_nextOk (e : SoftError) (ok : MemoryOk s) : NextOk (execUncorrectableSoftError e s) := by
  simp [execUncorrectableSoftError, ok]

/-! ## The shapes of the instructions -/

theorem two_nextOk {d a b : Name} {m : Mark} {l : Nat} {f : Word → Word → Word} (ok : MemoryOk s) : NextOk (two d a b m l f s) :=
  issue32_nextOk _ _ _ ok (by simp (maxDischargeDepth := 8) [ok])

theorem one_nextOk {d a : Name} {m : Mark} {f : Word → Word} (ok : MemoryOk s) : NextOk (one d a m f s) :=
  issue32_nextOk _ _ _ ok (by simp (maxDischargeDepth := 8) [ok])

theorem twoFlagged_nextOk {d a b : Name} {m : Mark} {l : Nat} {f : Word → Word → Flagged} (ok : MemoryOk s) :
    NextOk (twoFlagged d a b m l f s) :=
  issue32_nextOk _ _ _ ok (by simp (maxDischargeDepth := 8) [ok])

theorem oneFlagged_nextOk {d a : Name} {m : Mark} {l : Nat} {f : Word → Flagged} (ok : MemoryOk s) : NextOk (oneFlagged d a m l f s) :=
  issue32_nextOk _ _ _ ok (by simp (maxDischargeDepth := 8) [ok])

theorem three_nextOk {d a b : Name} {m : Mark} {l : Nat} {f : Word → Word → Word → Flagged} (ok : MemoryOk s) :
    NextOk (three d a b m l f s) :=
  issue32_nextOk _ _ _ ok (by simp (maxDischargeDepth := 10) [ok])

theorem division_nextOk {d a b : Name} {m : Mark} {f : Word → Word → Flagged} (ok : MemoryOk s) : NextOk (division d a b m f s) :=
  issue32_nextOk _ _ _ ok (by simp (maxDischargeDepth := 8) [ok])

theorem immForm_nextOk {d a : Name} {i : BitVec 10} {m : Mark} {f : Word → Word → Word} (ok : MemoryOk s) :
    NextOk (immForm d a i m f s) :=
  issue_nextOk _ _ _ _ _ ok (by simp (maxDischargeDepth := 8) [ok])

theorem branch_nextOk {a b : Name} {o : BitVec 10} {m : Mark} {f : Word → Word → Bool} (ok : MemoryOk s) :
    NextOk (branch a b o m f s) :=
  issue32_nextOk _ _ _ ok (resOk_bind _ _ fun _ => resOk_bind _ _ fun _ => resOk_bind _ _ fun _ => branchIf_resOk _ _ ok)

theorem returnTo_resOk (ok : MemoryOk s) : ResOk (returnTo s) := resOk_bind _ _ fun t => jumpTo_resOk t ok

theorem vectorIssue_nextOk {i : Instr} {k : Fin 4} {al : Bool} {regs srcs : List Nat} {sr : List (Fin 32)} {tgts : List Target}
    {sp : VSpace} {m : Mark} (ok : MemoryOk s) : NextOk (issueStart m s (vectorIssue i k al regs srcs sr tgts sp s)) :=
  issueStart_nextOk _ _ _ ok (vectorIssue_resOk _ _ _ _ _ _ _ _ ok)

theorem vectorIssue32_nextOk {i : Instr} {k : Fin 4} {al : Bool} {regs srcs : List Nat} {sr : List (Fin 32)} {tgts : List Target}
    {sp : VSpace} {m : Mark} (ok : MemoryOk s) : NextOk (issue32 m s (vectorIssue i k al regs srcs sr tgts sp s)) :=
  issue32_nextOk _ _ _ ok (vectorIssue_resOk _ _ _ _ _ _ _ _ ok)

theorem sfuIssue_nextOk {i : Instr} {d a : Fin 32} {k : Fin 4} {m : Mark} (ok : MemoryOk s) : NextOk (sfuIssue i d a k m s) :=
  issueStart_nextOk _ _ _ ok (by simp (maxDischargeDepth := 8) [ok])

theorem maskTwo_nextOk {d a b : Fin 8} {m : Mark} {f : MaskReg → MaskReg → MaskReg} (ok : MemoryOk s) : NextOk (maskTwo d a b m f s) :=
  issue32_nextOk _ _ _ ok (by simp (maxDischargeDepth := 8) [ok])

theorem maskOne_nextOk {d a : Fin 8} {m : Mark} {f : MaskReg → MaskReg} (ok : MemoryOk s) : NextOk (maskOne d a m f s) :=
  issue32_nextOk _ _ _ ok (by simp (maxDischargeDepth := 8) [ok])

theorem maskScalar_nextOk {d : Fin 32} {a : Fin 8} {m : Mark} {f : MaskReg → Nat} (ok : MemoryOk s) : NextOk (maskScalar d a m f s) :=
  issue32_nextOk _ _ _ ok (by simp (maxDischargeDepth := 8) [ok])

theorem compactTwo_nextOk {x : Fin 32} {y : BitVec 4} {mark : Bool} {f : Word → Word → Word} (ok : MemoryOk s) :
    NextOk (compactTwo x y mark f s) :=
  issue16_nextOk _ _ _ ok (by simp (maxDischargeDepth := 8) [ok])

theorem compactOne_nextOk {x : Fin 32} {mark : Bool} {f : Word → Word} (ok : MemoryOk s) : NextOk (compactOne x mark f s) :=
  issue16_nextOk _ _ _ ok (by simp (maxDischargeDepth := 8) [ok])

theorem execCompactMov_nextOk {x : Fin 32} {y : BitVec 4} {mark : Bool} (ok : MemoryOk s) : NextOk (execCompactMov x y mark s) :=
  issue16_nextOk _ _ _ ok (by simp (maxDischargeDepth := 8) [ok])

/-! ## Every meaning, and every step -/

/-- Every next state an instruction or event answers has its memories in canonical form. -/
theorem exec_nextOk (i : Instr) (ok : MemoryOk s) : NextOk (exec i s) := by
  cases i with
  | aluAdd | aluSub | aluAnd | aluOr | aluXor | aluAndn | aluShl | aluShr | aluSra | aluRot | aluMin | aluMax | aluMinu
  | aluMaxu | aluSlt | aluSltu | alu2Seq | alu2Sne | alu2Mul | alu2Mulh | alu2Mulhu | alu3Bext | alu3Absdiff =>
    exact two_nextOk ok
  | alu2Clz | alu2Ctz | alu2Popc | alu2SextB | alu2SextH | alu2SextW | alu2ZextB | alu2ZextH | alu2ZextW | shiShl | shiShr
  | shiSra | shiRot =>
    exact one_nextOk ok
  | alu2Div | alu2Divu | alu3Rem | alu3Remu => exact division_nextOk ok
  | alu3Sel | alu3Bins | ffma => exact three_nextOk ok
  | alu3Addsat | alu3Subsat | fpFadd | fpFsub | fpFmul | fpFmin | fpFmax | fpFeq | fpFlt | fpFle => exact twoFlagged_nextOk ok
  | addi | andi | ori | xori => exact immForm_nextOk ok
  | beq | bne | blt | bge | bltu | bgeu => exact branch_nextOk ok
  | ctlJr => exact issue32_nextOk _ _ _ ok (resOk_bind _ _ fun _ => resOk_bind _ _ fun _ => jumpTo_resOk _ ok)
  | ctlRet => exact issue32_nextOk _ _ _ ok (returnTo_resOk ok)
  | ctlEnd => exact releaseNext_nextOk (issue32_nextOk _ _ _ ok (by simp [ok]))
  | compactEnd => exact releaseNext_nextOk (issue16_nextOk _ _ _ ok (by simp [ok]))
  | ldl =>
    exact issue_nextOk _ _ _ _ _ ok (resOk_bind _ _ fun _ => resOk_bind _ _ fun _ => resOk_bind _ _ fun _ => resOk_bind _ _ fun
      _ => loadLocal_resOk _ _ _ _ _ ok)
  | stl =>
    exact issue_nextOk _ _ _ _ _ ok (resOk_bind _ _ fun _ => resOk_bind _ _ fun _ => resOk_bind _ _ fun _ => resOk_bind _ _ fun
      _ => storeLocal_resOk _ _ _ _ ok)
  | fpFabs | fpFneg | fpFcvtF2i | fpFcvtF2u | fpFsqrt | fpFcvtI2f | fpFcvtU2f | fpFclass => exact oneFlagged_nextOk ok
  | vadd | vsub | vmul | vmin | vmax | vand | vor | vxor | vandn | vshl | vshr | vsra | vrot | vsel | vperm | vrcpr | vrsqr
  | vaddsat | vsubsat | vmulh | vabsdiff | vfma | vcvtNarrow | vdot | vslide | vext | vldT | vldL | vldxT | vstT | vstL
  | vstxT | vtqnt | vtchk | vabs | vneg | vmov | vcvtSame | vrnd | vfloor | vtpack | vtunp | vceq | vclt | vcle | vcne
  | vcvtWiden2 | vcvtWiden4 | vredsum | vredmax | vredmin =>
    exact vectorIssue_nextOk ok
  | vbcast | vzero | vins => exact vectorIssue32_nextOk ok
  | vrcp | vrsq | vexp2 | vlog2 | vsin | vcos | vtanh | vsigm => exact sfuIssue_nextOk ok
  | kand | kor | kxor => exact maskTwo_nextOk ok
  | knot | kmv => exact maskOne_nextOk ok
  | kpop | kfirst => exact maskScalar_nextOk ok
  | send | sendRop => exact issue32_nextOk _ _ _ ok (sendWith_resOk _ _ _ _ ok)
  | sendHalf => exact issue32_nextOk _ _ _ ok (sendHalf_resOk _ _ ok)
  | wgtWcensus => exact issue32_nextOk _ _ _ ok (resOk_bind _ _ fun _ => homeRequest_resOk _ _ _ _ ok)
  | wgtWloss => exact issue32_nextOk _ _ _ ok (homeRequest_resOk _ _ _ _ ok)
  | grd | gwr => exact issue32_nextOk _ _ _ ok (blockTransfer_resOk _ _ _ _ _ ok)
  | nearAtomAdd | nearAtomMax | nearAtomCas | nearCas4 | nearEnq | nearChase | nearRedAddF32 | nearRedMaxF32 | nearRedAddI32
  | nearXswap =>
    exact issue32_nextOk _ _ _ ok (nearWith_resOk _ _ _ ok)
  | cpy | cpyWalk => exact issue32_nextOk _ _ _ ok (copyWith_resOk _ _ _ _ ok)
  | nrdef | nrfree => exact issue32_nextOk _ _ _ ok (defineWith_resOk _ _ _ _ _ _ _ ok)
  | fnew | fset | fwait | ffree | fpeek => exact issue32_nextOk _ _ _ ok (futureWith_resOk _ _ _ ok)
  | sysCtxsave | sysCtxload => exact issue32_nextOk _ _ _ ok (contextRequest_resOk _ _ _ _ _ _ ok)
  | compactMov => exact execCompactMov_nextOk ok
  | compactNop => exact issue16_nextOk _ _ _ ok (by simp [ok])
  | compactAdd | compactSub | compactAnd | compactCmov => exact compactTwo_nextOk ok
  | compactAddi | compactShl | compactShr => exact compactOne_nextOk ok
  | compactLdlD => exact issue16_nextOk _ _ _ ok (resOk_bind _ _ fun _ => loadLocal_resOk _ _ _ _ _ ok)
  | compactStlD => exact issue16_nextOk _ _ _ ok (resOk_bind _ _ fun _ => storeLocal_resOk _ _ _ _ ok)
  | compactBeqz | compactBnez => exact issue16_nextOk _ _ _ ok (resOk_bind _ _ fun _ => branchIf_resOk _ _ ok)
  | compactSendHalf => exact issue16_nextOk _ _ _ ok (sendHalf_resOk _ _ ok)
  | compactRet => exact issue16_nextOk _ _ _ ok (returnTo_resOk ok)
  | podArrival | drawArrival | armArrival | disarmArrival => exact homeEvent_nextOk _ _ ok
  | movi => exact execMovi_nextOk _ _ _ ok
  | jmp => exact execJmp_nextOk _ _ ok
  | call => exact execCall_nextOk _ _ ok
  | ctlNop => exact execCtlNop_nextOk _ ok
  | ctlTrap => exact execCtlTrap_nextOk _ _ ok
  | loop => exact execLoop_nextOk _ _ _ ok
  | ldt => exact execLdt_nextOk _ _ _ _ _ _ _ ok
  | stt => exact execStt_nextOk _ _ _ _ _ _ ok
  | kset => exact execKset_nextOk _ _ _ _ ok
  | xchg => exact execXchg_nextOk _ _ _ _ ok
  | sendDraw => exact execSendDraw_nextOk _ _ _ _ ok
  | wgtWget => exact execWgtWget_nextOk _ _ ok
  | wgtWtotal => exact execWgtWtotal_nextOk _ _ ok
  | wgtWret => exact execWgtWret_nextOk _ _ ok
  | wgtQarm => exact execWgtQarm_nextOk _ _ _ ok
  | wgtQdisarm => exact execWgtQdisarm_nextOk _ ok
  | gst => exact execGst_nextOk _ _ _ _ _ _ ok
  | cqry => exact execCqry_nextOk _ _ _ ok
  | cpyCancel => exact execCpyCancel_nextOk _ _ _ ok
  | tmm => exact execTmm_nextOk _ _ _ _ ok
  | tstat => exact execTstat_nextOk _ _ _ ok
  | tabort => exact execTabort_nextOk _ _ _ ok
  | trgPost => exact execTrgPost_nextOk _ _ _ _ ok
  | trgAdd => exact execTrgAdd_nextOk _ _ _ ok
  | trgRead => exact execTrgRead_nextOk _ _ _ ok
  | trgCancel => exact execTrgCancel_nextOk _ _ _ ok
  | trgAlloc => exact execTrgAlloc_nextOk _ _ ok
  | trgFree => exact execTrgFree_nextOk _ _ ok
  | nred => exact execNred_nextOk _ _ _ ok
  | fence => exact execFence_nextOk _ _ _ _ _ ok
  | launch => exact execLaunch_nextOk _ _ _ ok
  | sysMfs => exact execSysMfs_nextOk _ _ _ ok
  | sysMts => exact execSysMts_nextOk _ _ _ ok
  | sysHalt => exact execSysHalt_nextOk _ _ ok
  | sysSysnote => exact execSysSysnote_nextOk _ _ _ ok
  | spref => exact execSpref_nextOk _ _ _ ok
  | limm => exact execLimm_nextOk _ ok
  | taskStart => exact execTaskStart_nextOk _ _ ok
  | remoteOpStart => exact execRemoteOpStart_nextOk _ _ ok
  | drainTaskStart => exact execDrainTaskStart_nextOk _ ok
  | taskEnd => exact execTaskEnd_nextOk _ ok
  | vectorOpStart => exact execVectorOpStart_nextOk _ ok
  | vectorOpComplete => exact execVectorOpComplete_nextOk _ ok
  | sfuServiceStart => exact execSfuServiceStart_nextOk _ ok
  | sfuResult => exact execSfuResult_nextOk _ ok
  | ldtResult => exact execLdtResult_nextOk _ ok
  | divideResult => exact execDivideResult_nextOk _ ok
  | tileStoreLand => exact execTileStoreLand_nextOk _ ok
  | budgetExpiry => exact execBudgetExpiry_nextOk _ ok
  | unitRetryReinject => exact execUnitRetryReinject_nextOk _ _ _ ok
  | messageArrival => exact execMessageArrival_nextOk _ ok
  | messageRefusal => exact execMessageRefusal_nextOk _ ok
  | messageResend => exact execMessageResend_nextOk _ ok
  | sendAcceptReport => exact execSendAcceptReport_nextOk _ ok
  | spillReinjectOffer => exact execSpillReinjectOffer_nextOk _ ok
  | holdAck => exact execHoldAck_nextOk _ ok
  | accessAck => exact execAccessAck_nextOk _ ok
  | routerSwitch => exact execRouterSwitch_nextOk _ ok
  | routerGate => exact execRouterGate_nextOk _ _ ok
  | routerWake => exact execRouterWake_nextOk _ _ ok
  | routerReady => exact execRouterReady_nextOk _ _ ok
  | chainChunk => exact execChainChunk_nextOk _ ok
  | chainGrant => exact execChainGrant_nextOk _ ok
  | drawResend => exact execDrawResend_nextOk _ ok
  | farSendArrival => exact execFarSendArrival_nextOk _ ok
  | censusStart => exact execCensusStart_nextOk _ ok
  | censusMarkerSend => exact execCensusMarkerSend_nextOk _ _ ok
  | censusMarkerArrival => exact execCensusMarkerArrival_nextOk _ ok
  | wlossServe => exact execWlossServe_nextOk _ ok
  | homeCopyBroadcast => exact execHomeCopyBroadcast_nextOk _ ok
  | stationTranslate => exact execStationTranslate_nextOk _ ok
  | pageWalk => exact execPageWalk_nextOk _ ok
  | parkedRequestResend => exact execParkedRequestResend_nextOk _ ok
  | globalPiecePerform => exact execGlobalPiecePerform_nextOk _ ok
  | pieceLanding => exact execPieceLanding_nextOk _ ok
  | nearOpExecute => exact execNearOpExecute_nextOk _ _ ok
  | chaseForwardArrival => exact execChaseForwardArrival_nextOk _ _ ok
  | farRetryResend => exact execFarRetryResend_nextOk _ ok
  | storageServiceStart => exact execStorageServiceStart_nextOk _ ok
  | writebackComplete => exact execWritebackComplete_nextOk _ _ ok
  | fillComplete => exact execFillComplete_nextOk _ _ _ ok
  | nvmeTimeout => exact execNvmeTimeout_nextOk _ _ ok
  | frameWaitRetry => exact execFrameWaitRetry_nextOk _ _ ok
  | migrationReview => exact execMigrationReview_nextOk _ _ ok
  | migrationComplete => exact execMigrationComplete_nextOk _ ok
  | copyOffer => exact execCopyOffer_nextOk _ _ ok
  | copyPiece => exact execCopyPiece_nextOk _ _ ok
  | arrayJobStart => exact execArrayJobStart_nextOk _ ok
  | arrayStep => exact execArrayStep_nextOk _ ok
  | arrayRowDrain => exact execArrayRowDrain_nextOk _ ok
  | arrayJobComplete => exact execArrayJobComplete_nextOk _ ok
  | arrayStopFinish => exact execArrayStopFinish_nextOk _ ok
  | xchgActivate => exact execXchgActivate_nextOk _ ok
  | arriveReceive => exact execArriveReceive_nextOk _ ok
  | arriveResend => exact execArriveResend_nextOk _ ok
  | xchgRowReceive => exact execXchgRowReceive_nextOk _ ok
  | xchgRowAck => exact execXchgRowAck_nextOk _ ok
  | xchgTimeout => exact execXchgTimeout_nextOk _ ok
  | triggerArrival => exact execTriggerArrival_nextOk _ _ ok
  | triggerFire => exact execTriggerFire_nextOk _ ok
  | nrdefProgram => exact execNrdefProgram_nextOk _ ok
  | nrfreeRemove => exact execNrfreeRemove_nextOk _ ok
  | contributionArrival => exact execContributionArrival_nextOk _ ok
  | routerCombine => exact execRouterCombine_nextOk _ _ _ _ ok
  | roundStartNotice => exact execRoundStartNotice_nextOk _ ok
  | roundTimeout => exact execRoundTimeout_nextOk _ _ ok
  | closeArrival => exact execCloseArrival_nextOk _ ok
  | roundComplete => exact execRoundComplete_nextOk _ _ ok
  | futureRequestServe => exact execFutureRequestServe_nextOk _ ok
  | fwaitResend => exact execFwaitResend_nextOk _ ok
  | launchRequestArrival => exact execLaunchRequestArrival_nextOk _ ok
  | launchResend => exact execLaunchResend_nextOk _ ok
  | launchRecordTake => exact execLaunchRecordTake_nextOk ok
  | launchCreate => exact execLaunchCreate_nextOk _ ok
  | rootInject => exact execRootInject_nextOk ok
  | contextRestore => exact execContextRestore_nextOk _ ok
  | savedFarSendSpill => exact execSavedFarSendSpill_nextOk _ ok
  | checkpointDigestArrival => exact execCheckpointDigestArrival_nextOk _ _ _ _ _ ok
  | checkpointFlushDone => exact execCheckpointFlushDone_nextOk _ ok
  | checkpointPeerlost => exact execCheckpointPeerlost_nextOk _ ok
  | fabricPacketArrival => exact execFabricPacketArrival_nextOk _ _ ok
  | fabricNakArrival => exact execFabricNakArrival_nextOk _ _ ok
  | portDown => exact execPortDown_nextOk _ ok
  | jobTagTimeout => exact execJobTagTimeout_nextOk _ ok
  | powerGrant => exact execPowerGrant_nextOk _ _ ok
  | thermalCap => exact execThermalCap_nextOk _ ok
  | thermalHalt => exact execThermalHalt_nextOk _ ok
  | deviceReset => exact execDeviceReset_nextOk _ ok
  | linkTraining => exact execLinkTraining_nextOk _ _ ok
  | hwqDoorbell => exact execHwqDoorbell_nextOk _ _ _ ok
  | tlbInvalidate => exact execTlbInvalidate_nextOk _ ok
  | poolTailWrite => exact execPoolTailWrite_nextOk _ _ ok
  | jobTagWrite => exact execJobTagWrite_nextOk _ _ ok
  | routeEntryWrite => exact execRouteEntryWrite_nextOk _ _ ok
  | jobctlResume => exact execJobctlResume_nextOk _ ok
  | jobctlAbort => exact execJobctlAbort_nextOk _ ok
  | hostFutureSet => exact execHostFutureSet_nextOk ok
  | hostFutureFree => exact execHostFutureFree_nextOk ok
  | hostFuturePeek => exact execHostFuturePeek_nextOk ok
  | hostWindowRead => exact execHostWindowRead_nextOk _ _ ok
  | hostWindowWrite => exact execHostWindowWrite_nextOk _ _ ok
  | getkey => exact execGetkey_nextOk ok
  | attest => exact execAttest_nextOk _ ok
  | fwload => exact execFwload_nextOk _ _ ok
  | setbudget => exact execSetbudget_nextOk _ ok
  | registerWrite => exact execRegisterWrite_nextOk _ _ _ ok
  | notAnInstruction => exact execNotAnInstruction_nextOk ok
  | portUp => exact execPortUp_nextOk _ ok
  | uncorrectableSoftError => exact execUncorrectableSoftError_nextOk _ ok
  | slti => rw [exec_slti, execSlti]; exact immForm_nextOk ok
  | sltiu => rw [exec_sltiu, execSltiu]; exact immForm_nextOk ok
  | hostFutureNew => rw [exec_hostFutureNew]; exact execHostFutureNew_nextOk ok
  | flitCrcReplay port => exact execFlitCrcReplay_nextOk port ok


theorem issueNext_nextOk (ok : MemoryOk s) : NextOk (issueNext s) := by
  unfold issueNext
  extract_lets c
  split
  · simp [ok]
  · split
    · exact exec_nextOk _ ok
    · exact exec_nextOk _ ok

theorem issuePrefixed_nextOk (key : Nat) (ok : MemoryOk s) : NextOk (issuePrefixed s key) := by
  have h : NextOk (issueNext { s with cur := key }) := issueNext_nextOk ok
  unfold issuePrefixed
  split
  · rename_i t e
    have ht : MemoryOk t := h t e
    refine (nextOk_next _).2 ?_
    split
    · exact State.unprefix_memoryOk s key ok
    · exact ht
  · exact h

theorem coreTurn_nextOk (tile core : Nat) (ok : MemoryOk s) : NextOk (coreTurn tile core s) := by
  unfold coreTurn
  dsimp only
  split
  · split
    · exact issuePrefixed_nextOk _ ok
    · simpa using ok
  · split
    · simpa using ok
    · split
      · simp [ok]
      · split
        · simp [ok]
        · split
          · simp [ok]
          · exact issueNext_nextOk (by simp [ok])

theorem takeTurn_nextOk (t : Turn) (ok : MemoryOk s) : NextOk (takeTurn t s) := by
  cases t with
  | core tile core => exact coreTurn_nextOk tile core ok
  | event i =>
    simp only [takeTurn]
    split
    · exact exec_nextOk i ok
    · simpa using ok
  | tick => simp [takeTurn, ok]

theorem nextTurn_memoryOk (ok : MemoryOk s) : MemoryOk (nextTurn s).2 := by
  unfold nextTurn
  split <;> exact ok

/-- Settles O41: a turn either leaves the memories, or writes them through the operations whose laws keep the canonical form. -/
theorem stepKeepsMemoryOk : Obligations.StepKeepsMemoryOk := by
  unfold Obligations.StepKeepsMemoryOk
  intro s t ok hstep
  exact takeTurn_nextOk (nextTurn s).1 (nextTurn_memoryOk ok) t hstep

end Sys2Proof.Laws
end

section
/-! Encoding and decoding: the fields of each format's word, what each major makes of them, and the round trip (R54 to R73). -/

namespace Sys2Proof.Laws

/-! ## Codes and their meanings -/

@[simp] theorem Name.ofCode_code (n : Name) : Name.ofCode n.code = n := by
  cases n with
  | s r => have := r.isLt; simp [Name.code, Name.ofCode, this]
  | m r =>
    have h : 32 + r.val < 48 := by omega
    simp [Name.code, Name.ofCode, h]
  | d r =>
    have h : ¬48 + r.val < 48 ∧ 48 + r.val < 56 ∧ ¬48 + r.val < 32 := by omega
    simp [Name.code, Name.ofCode, h]
  | z | h | wt | self | job | clk | msg | rsvd => rfl

@[simp] theorem VT.ofCode_code (t : VT) : VT.ofCode t.code = t := by cases t <;> rfl

@[simp] theorem Size.ofCode_code (z : Size) : Size.ofCode z.code = z := by cases z <;> rfl

@[simp] theorem FenceKind.ofCode_code (k : FenceKind) : FenceKind.ofCode? k.code = some k := by cases k <;> rfl

@[simp] theorem Scope.ofCode_code (c : Scope) : Scope.ofCode? c.code = some c := by cases c <;> rfl

@[simp] theorem Mark.ofCode_code (m : Mark) : Mark.ofCode m.code = m := by
  obtain ⟨g, s⟩ := m
  have := g.isLt
  cases s with
  | false => simp [Mark.ofCode, Mark.code]
  | true =>
    have h : (2 * g.val + 1) / 2 = g.val := by omega
    simp [Mark.ofCode, Mark.code, h]

@[simp] theorem bitOf_toNat (b : Bool) : bitOf b.toNat = b := by cases b <;> rfl

/-! ## The words and their fields -/

/-- The fields of a word of format A (R57). -/
theorem fields_wordA {maj f b a d : Nat} (m : Mark) (hm : maj < 64) (hf : f < 16) (hb : b < 64) (ha : a < 64) (hd : d < 64) :
    wordA maj f b a d m % 2 = 1
      ∧ fieldOf (wordA maj f b a d m) 1 3 = m.code ∧ fieldOf (wordA maj f b a d m) 4 6 = maj
      ∧ fieldOf (wordA maj f b a d m) 28 4 = f ∧ fieldOf (wordA maj f b a d m) 22 6 = b
      ∧ fieldOf (wordA maj f b a d m) 16 6 = a ∧ fieldOf (wordA maj f b a d m) 10 6 = d := by
  have := Mark.code_lt m
  simp only [wordA, fieldOf]
  omega

/-- The fields of a word of format I or B (R58, R60). -/
theorem fields_wordI {maj i a d : Nat} (m : Mark) (hm : maj < 64) (hi : i < 1024) (ha : a < 64) (hd : d < 64) :
    wordI maj i a d m % 2 = 1
      ∧ fieldOf (wordI maj i a d m) 1 3 = m.code ∧ fieldOf (wordI maj i a d m) 4 6 = maj
      ∧ fieldOf (wordI maj i a d m) 22 10 = i ∧ fieldOf (wordI maj i a d m) 16 6 = a ∧ fieldOf (wordI maj i a d m) 10 6 = d := by
  have := Mark.code_lt m
  simp only [wordI, fieldOf]
  omega

/-- The fields of a word of format W (R59). -/
theorem fields_wordW {maj i d : Nat} (m : Mark) (hm : maj < 64) (hi : i < 65536) (hd : d < 64) :
    wordW maj i d m % 2 = 1
      ∧ fieldOf (wordW maj i d m) 1 3 = m.code ∧ fieldOf (wordW maj i d m) 4 6 = maj
      ∧ fieldOf (wordW maj i d m) 16 16 = i ∧ fieldOf (wordW maj i d m) 10 6 = d := by
  have := Mark.code_lt m
  simp only [wordW, fieldOf]
  omega

/-- The fields of a word of format J and of a prefix (R61, R69). -/
theorem fields_wordJ {maj o : Nat} (m : Mark) (hm : maj < 64) (ho : o < 4194304) :
    wordJ maj o m % 2 = 1
      ∧ fieldOf (wordJ maj o m) 1 3 = m.code ∧ fieldOf (wordJ maj o m) 4 6 = maj ∧ fieldOf (wordJ maj o m) 10 22 = o := by
  have := Mark.code_lt m
  simp only [wordJ, fieldOf]
  omega

/-- The fields of a word of format M (R62). -/
theorem fields_wordM {maj o q x z a d : Nat} (m : Mark) (hm : maj < 64) (ho : o < 64) (hq : q < 2) (hx : x < 2) (hz : z < 4)
    (ha : a < 64) (hd : d < 64) :
    wordM maj o q x z a d m % 2 = 1
      ∧ fieldOf (wordM maj o q x z a d m) 1 3 = m.code ∧ fieldOf (wordM maj o q x z a d m) 4 6 = maj
      ∧ fieldOf (wordM maj o q x z a d m) 26 6 = o ∧ fieldOf (wordM maj o q x z a d m) 25 1 = q
      ∧ fieldOf (wordM maj o q x z a d m) 24 1 = x ∧ fieldOf (wordM maj o q x z a d m) 22 2 = z
      ∧ fieldOf (wordM maj o q x z a d m) 16 6 = a ∧ fieldOf (wordM maj o q x z a d m) 10 6 = d := by
  have := Mark.code_lt m
  simp only [wordM, fieldOf]
  omega

/-- The fields of a word of format V (R63). -/
theorem fields_wordV {maj f k t b a d : Nat} (m : Mark) (hm : maj < 64) (hf : f < 4) (hk : k < 4) (ht : t < 8) (hb : b < 32)
    (ha : a < 32) (hd : d < 32) :
    wordV maj f k t b a d m % 2 = 1
      ∧ fieldOf (wordV maj f k t b a d m) 1 3 = m.code ∧ fieldOf (wordV maj f k t b a d m) 4 6 = maj
      ∧ fieldOf (wordV maj f k t b a d m) 30 2 = f ∧ fieldOf (wordV maj f k t b a d m) 28 2 = k
      ∧ fieldOf (wordV maj f k t b a d m) 25 3 = t ∧ fieldOf (wordV maj f k t b a d m) 20 5 = b
      ∧ fieldOf (wordV maj f k t b a d m) 15 5 = a ∧ fieldOf (wordV maj f k t b a d m) 10 5 = d := by
  have := Mark.code_lt m
  simp only [wordV, fieldOf]
  omega

/-- The fields of a fence (R65). -/
theorem fields_wordFence {k c a b : Nat} (m : Mark) (hk : k < 4) (hc : c < 8) (ha : a < 128) (hb : b < 128) :
    wordFence k c a b m % 2 = 1
      ∧ fieldOf (wordFence k c a b m) 1 3 = m.code ∧ fieldOf (wordFence k c a b m) 4 6 = 57
      ∧ fieldOf (wordFence k c a b m) 29 3 = 0 ∧ fieldOf (wordFence k c a b m) 27 2 = k ∧ fieldOf (wordFence k c a b m) 24 3 = c
      ∧ fieldOf (wordFence k c a b m) 17 7 = a ∧ fieldOf (wordFence k c a b m) 10 7 = b := by
  have := Mark.code_lt m
  simp only [wordFence, fieldOf]
  omega

/-- The fields of a compact parcel (R67). -/
theorem fields_wordCompact {co x y : Nat} (s : Bool) (hc : co < 32) (hx : x < 32) (hy : y < 16) :
    wordCompact co x y s % 2 = 0
      ∧ fieldOf (wordCompact co x y s) 1 1 = s.toNat ∧ fieldOf (wordCompact co x y s) 2 5 = co
      ∧ fieldOf (wordCompact co x y s) 7 5 = x ∧ fieldOf (wordCompact co x y s) 12 4 = y := by
  have := boolNat_lt s
  simp only [wordCompact, fieldOf]
  omega

/-! ## What the majors make of a word (R72) -/

/-- The majors of format A. -/
theorem decodeMajor_wordA {f b a d : Nat} (m : Mark) (hf : f < 16) (hb : b < 64) (ha : a < 64) (hd : d < 64) :
    decodeMajor (wordA 0 f b a d m) = decodeAlu f b a d m
      ∧ decodeMajor (wordA 1 f b a d m) = decodeAlu2 f b a d m
      ∧ decodeMajor (wordA 2 f b a d m) = decodeAlu3 f b a d m
      ∧ decodeMajor (wordA 19 f b a d m) = decodeCtl f b a d m
      ∧ decodeMajor (wordA 25 f b a d m) = decodeFp f b a d m
      ∧ decodeMajor (wordA 26 f b a d m) = decodeFfma f b a d m
      ∧ decodeMajor (wordA 45 f b a d m) = decodeXchg f b a d m
      ∧ decodeMajor (wordA 46 f b a d m) = decodeSend f b a d m
      ∧ decodeMajor (wordA 47 f b a d m) = decodeWgt f b a d m
      ∧ decodeMajor (wordA 48 f b a d m) = decodeGrd f b a d m
      ∧ decodeMajor (wordA 49 f b a d m) = decodeGwr f b a d m
      ∧ decodeMajor (wordA 51 f b a d m) = decodeNear f b a d m
      ∧ decodeMajor (wordA 52 f b a d m) = decodeCpy f b a d m
      ∧ decodeMajor (wordA 53 f b a d m) = decodeTmm f b a d m
      ∧ decodeMajor (wordA 54 f b a d m) = decodeTrg f b a d m
      ∧ decodeMajor (wordA 55 f b a d m) = decodeNred f b a d m
      ∧ decodeMajor (wordA 56 f b a d m) = decodeFut f b a d m
      ∧ decodeMajor (wordA 58 f b a d m) = decodeLaunch f b a d m
      ∧ decodeMajor (wordA 59 f b a d m) = decodeSys f b a d m
      ∧ decodeMajor (wordA 60 f b a d m) = decodeSpref f b a d m := by
  have h {maj : Nat} (hm : maj < 64) := fields_wordA m hm hf hb ha hd
  simp [decodeMajor, h]

/-- The majors of format V. -/
theorem decodeMajor_wordV {f k t b a d : Nat} (m : Mark) (hf : f < 4) (hk : k < 4) (ht : t < 8) (hb : b < 32) (ha : a < 32)
    (hd : d < 32) :
    decodeMajor (wordV 27 f k t b a d m) = decodeVarith f k t b a d m
      ∧ decodeMajor (wordV 28 f k t b a d m) = decodeVarith2 f k t b a d m
      ∧ decodeMajor (wordV 29 f k t b a d m) = decodeVlogic f k t b a d m
      ∧ decodeMajor (wordV 30 f k t b a d m) = decodeVshift f k t b a d m
      ∧ decodeMajor (wordV 31 f k t b a d m) = decodeVcmp f k t b a d m
      ∧ decodeMajor (wordV 32 f k t b a d m) = decodeVmove f k t b a d m
      ∧ decodeMajor (wordV 33 f k t b a d m) = decodeVcvt f k t b a d m
      ∧ decodeMajor (wordV 34 f k t b a d m) = decodeVred f k t b a d m
      ∧ decodeMajor (wordV 35 f k t b a d m) = decodeVperm f k t b a d m
      ∧ decodeMajor (wordV 36 f k t b a d m) = decodeVld f k t b a d m
      ∧ decodeMajor (wordV 37 f k t b a d m) = decodeVst f k t b a d m
      ∧ decodeMajor (wordV 38 f k t b a d m) = decodeVsfa f k t b a d m
      ∧ decodeMajor (wordV 39 f k t b a d m) = decodeVsfb f k t b a d m
      ∧ decodeMajor (wordV 40 f k t b a d m) = decodeVrefine f k t b a d m
      ∧ decodeMajor (wordV 41 f k t b a d m) = decodeVtern f k t b a d m
      ∧ decodeMajor (wordV 42 f k t b a d m) = decodeKlogic f k t b a d m
      ∧ decodeMajor (wordV 43 f k t b a d m) = decodeKmisc f k t b a d m
      ∧ decodeMajor (wordV 44 f k t b a d m) = decodeVint f k t b a d m := by
  have h {maj : Nat} (hm : maj < 64) := fields_wordV m hm hf hk ht hb ha hd
  simp [decodeMajor, h]

/-- The majors of formats I and B. -/
theorem decodeMajor_wordI {i a d : Nat} (m : Mark) (hi : i < 1024) (ha : a < 64) (hd : d < 64) :
    decodeMajor (wordI 3 i a d m) = .ok (.addi (.ofCode d) (.ofCode a) (BitVec.ofNat 10 i) m)
      ∧ decodeMajor (wordI 4 i a d m) = .ok (.andi (.ofCode d) (.ofCode a) (BitVec.ofNat 10 i) m)
      ∧ decodeMajor (wordI 5 i a d m) = .ok (.ori (.ofCode d) (.ofCode a) (BitVec.ofNat 10 i) m)
      ∧ decodeMajor (wordI 6 i a d m) = .ok (.xori (.ofCode d) (.ofCode a) (BitVec.ofNat 10 i) m)
      ∧ decodeMajor (wordI 8 i a d m) = .ok (.slti (.ofCode d) (.ofCode a) (BitVec.ofNat 10 i) m)
      ∧ decodeMajor (wordI 10 i a d m) = .ok (.sltiu (.ofCode d) (.ofCode a) (BitVec.ofNat 10 i) m)
      ∧ decodeMajor (wordI 11 i a d m) = .ok (.beq (.ofCode d) (.ofCode a) (BitVec.ofNat 10 i) m)
      ∧ decodeMajor (wordI 12 i a d m) = .ok (.bne (.ofCode d) (.ofCode a) (BitVec.ofNat 10 i) m)
      ∧ decodeMajor (wordI 13 i a d m) = .ok (.blt (.ofCode d) (.ofCode a) (BitVec.ofNat 10 i) m)
      ∧ decodeMajor (wordI 14 i a d m) = .ok (.bge (.ofCode d) (.ofCode a) (BitVec.ofNat 10 i) m)
      ∧ decodeMajor (wordI 15 i a d m) = .ok (.bltu (.ofCode d) (.ofCode a) (BitVec.ofNat 10 i) m)
      ∧ decodeMajor (wordI 16 i a d m) = .ok (.bgeu (.ofCode d) (.ofCode a) (BitVec.ofNat 10 i) m)
      ∧ decodeMajor (wordI 20 i a d m) = unusedZero [d] (.loop (.ofCode a) (BitVec.ofNat 10 i) m) := by
  have h {maj : Nat} (hm : maj < 64) := fields_wordI m hm hi ha hd
  simp [decodeMajor, h]

/-- The majors of format M. -/
theorem decodeMajor_wordM {o q x z a d : Nat} (m : Mark) (ho : o < 64) (hq : q < 2) (hx : x < 2) (hz : z < 4) (ha : a < 64)
    (hd : d < 64) :
    decodeMajor (wordM 21 o q x z a d m)
        = .ok (.ldl (.ofCode d) (.ofCode a) (BitVec.ofNat 6 o) (.ofCode z) (bitOf x) (bitOf q) m)
      ∧ decodeMajor (wordM 22 o q x z a d m)
        = unusedZero [x] (.stl (.ofCode d) (.ofCode a) (BitVec.ofNat 6 o) (.ofCode z) (bitOf q) m)
      ∧ decodeMajor (wordM 23 o q x z a d m)
        = .ok (.ldt (.ofCode d) (.ofCode a) (BitVec.ofNat 6 o) (.ofCode z) (bitOf x) (bitOf q) m)
      ∧ decodeMajor (wordM 24 o q x z a d m)
        = unusedZero [x] (.stt (.ofCode d) (.ofCode a) (BitVec.ofNat 6 o) (.ofCode z) (bitOf q) m)
      ∧ decodeMajor (wordM 50 o q x z a d m)
        = unusedZero [x] (.gst (.ofCode d) (.ofCode a) (BitVec.ofNat 6 o) (.ofCode z) (bitOf q) m) := by
  have h {maj : Nat} (hm : maj < 64) := fields_wordM m hm ho hq hx hz ha hd
  simp [decodeMajor, h]

/-- The compact ops (R68). -/
theorem decodeCompact_wordCompact {x y : Nat} (s : Bool) (hx : x < 32) (hy : y < 16) :
    decodeCompact (wordCompact 1 x y s) = .ok (.compactMov (Fin.ofNat 32 x) (BitVec.ofNat 4 y) s)
      ∧ decodeCompact (wordCompact 2 x y s) = .ok (.compactAdd (Fin.ofNat 32 x) (BitVec.ofNat 4 y) s)
      ∧ decodeCompact (wordCompact 3 x y s) = .ok (.compactSub (Fin.ofNat 32 x) (BitVec.ofNat 4 y) s)
      ∧ decodeCompact (wordCompact 4 x y s) = .ok (.compactAddi (Fin.ofNat 32 x) (BitVec.ofNat 4 y) s)
      ∧ decodeCompact (wordCompact 5 x y s) = .ok (.compactAnd (Fin.ofNat 32 x) (BitVec.ofNat 4 y) s)
      ∧ decodeCompact (wordCompact 6 x y s) = .ok (.compactShl (Fin.ofNat 32 x) (BitVec.ofNat 4 y) s)
      ∧ decodeCompact (wordCompact 7 x y s) = .ok (.compactShr (Fin.ofNat 32 x) (BitVec.ofNat 4 y) s)
      ∧ decodeCompact (wordCompact 8 x y s) = .ok (.compactLdlD (Fin.ofNat 32 x) (BitVec.ofNat 4 y) s)
      ∧ decodeCompact (wordCompact 9 x y s) = .ok (.compactStlD (Fin.ofNat 32 x) (BitVec.ofNat 4 y) s)
      ∧ decodeCompact (wordCompact 10 x y s) = .ok (.compactBeqz (Fin.ofNat 32 x) (BitVec.ofNat 4 y) s)
      ∧ decodeCompact (wordCompact 11 x y s) = .ok (.compactBnez (Fin.ofNat 32 x) (BitVec.ofNat 4 y) s)
      ∧ decodeCompact (wordCompact 12 x y s) = unusedZero [x, y] (.compactEnd s)
      ∧ decodeCompact (wordCompact 13 x y s) = unusedZero [x, y] (.compactNop s)
      ∧ decodeCompact (wordCompact 14 x y s) = unusedZero [y] (.compactSendHalf (Fin.ofNat 32 x) s)
      ∧ decodeCompact (wordCompact 15 x y s) = unusedZero [x, y] (.compactRet s)
      ∧ decodeCompact (wordCompact 16 x y s) = .ok (.compactCmov (Fin.ofNat 32 x) (BitVec.ofNat 4 y) s) := by
  have h {co : Nat} (hc : co < 32) := fields_wordCompact s hc hx hy
  simp [decodeCompact, h]

/-! ## Each instruction reads back from its own word -/

/-- The word of an instruction fits into the parcels its bit 0 tells of, and what the decoder makes of it, before the checks of its
form, is the instruction. -/
def ReadsBack (i : Instr) : Prop :=
  ∀ w, i.word = some w → w < 2 ^ (8 * wordLen w) ∧ (if w % 2 = 0 then decodeCompact w else decodeMajor w) = .ok i

theorem bits4_lt (i : BitVec 4) : i.toNat < 16 := i.isLt
theorem bits6_lt (i : BitVec 6) : i.toNat < 64 := i.isLt
theorem bits7_lt (i : BitVec 7) : i.toNat < 128 := i.isLt
theorem bits10_lt (i : BitVec 10) : i.toNat < 1024 := i.isLt
theorem bits16_lt (i : BitVec 16) : i.toNat < 65536 := i.isLt
theorem bits22_lt (i : BitVec 22) : i.toNat < 4194304 := i.isLt
theorem fin8_div (d : Fin 8) : d.val / 8 = 0 := by omega
theorem fin8_lt (d : Fin 8) : d.val < 32 := by omega
theorem VT.code_div (t : VT) : t.code / 8 = 0 := by cases t <;> rfl
theorem VT.code_mod (t : VT) : t.code % 8 = t.code := by cases t <;> rfl
theorem VT.code_lt_reg (t : VT) : t.code < 32 := by cases t <;> decide
theorem FenceKind.code_lt_field (k : FenceKind) : k.code < 4 := by cases k <;> decide

/-- A shift by an immediate: its function stands above its amount (R58). -/
theorem decodeMajor_shi (n : BitVec 6) {a d : Nat} (m : Mark) (ha : a < 64) (hd : d < 64) :
    decodeMajor (wordI 7 (n.toNat + 64 * 0) a d m) = .ok (.shiShl (.ofCode d) (.ofCode a) n m)
      ∧ decodeMajor (wordI 7 (n.toNat + 64 * 1) a d m) = .ok (.shiShr (.ofCode d) (.ofCode a) n m)
      ∧ decodeMajor (wordI 7 (n.toNat + 64 * 2) a d m) = .ok (.shiSra (.ofCode d) (.ofCode a) n m)
      ∧ decodeMajor (wordI 7 (n.toNat + 64 * 3) a d m) = .ok (.shiRot (.ofCode d) (.ofCode a) n m) := by
  have hn := bits6_lt n
  have amount (fn : Nat) : BitVec.ofNat 6 (n.toNat + 64 * fn) = n := by
    apply BitVec.eq_of_toNat_eq
    simp only [BitVec.toNat_ofNat]
    omega
  have decoded {fn : Nat} (hfn : fn < 4) : decodeMajor (wordI 7 (n.toNat + 64 * fn) a d m)
      = decodeShi (n.toNat + 64 * fn) a d m := by
    simp [decodeMajor, fields_wordI m (show 7 < 64 by decide) (show n.toNat + 64 * fn < 1024 by omega) ha hd]
  have low {fn : Nat} (hfn : fn < 4) : (n.toNat + 64 * fn) / 256 = 0 ∧ (n.toNat + 64 * fn) / 64 = fn := by omega
  refine ⟨(decoded (by decide)).trans ?_, (decoded (by decide)).trans ?_, (decoded (by decide)).trans ?_,
    (decoded (by decide)).trans ?_⟩
  · simp only [decodeShi, low (show 0 < 4 by decide), amount, if_true]
  · simp only [decodeShi, low (show 1 < 4 by decide), amount, if_true]
  · simp only [decodeShi, low (show 2 < 4 by decide), amount, if_true]
  · simp only [decodeShi, low (show 3 < 4 by decide), amount, if_true]

/-- The majors of formats W and J. -/
theorem decodeMajor_wordW {i d : Nat} (m : Mark) (hi : i < 65536) (hd : d < 64) :
    decodeMajor (wordW 9 i d m) = .ok (.movi (.ofCode d) (BitVec.ofNat 16 i) m) := by
  simp [decodeMajor, fields_wordW m (show 9 < 64 by decide) hi hd]

theorem decodeMajor_wordJ {o : Nat} (m : Mark) (ho : o < 4194304) :
    decodeMajor (wordJ 17 o m) = .ok (.jmp (BitVec.ofNat 22 o) m)
      ∧ decodeMajor (wordJ 18 o m) = .ok (.call (BitVec.ofNat 22 o) m)
      ∧ (m.code = 0 → decodeMajor (wordJ 63 o m) = .ok (.limm (BitVec.ofNat 22 o))) := by
  have h {maj : Nat} (hm : maj < 64) := fields_wordJ m hm ho
  simp +contextual [decodeMajor, h]

/-- The major of fences. -/
theorem decodeMajor_wordFence {k c a b : Nat} (m : Mark) (hk : k < 4) (hc : c < 8) (ha : a < 128) (hb : b < 128) :
    decodeMajor (wordFence k c a b m) = decodeFence 0 k c a b m := by
  simp [decodeMajor, fields_wordFence m hk hc ha hb]

/-- The word of a shift by an immediate is one of two parcels. -/
theorem word_shi_odd (n : BitVec 6) {fn a d : Nat} (m : Mark) (hfn : fn < 4) (ha : a < 64) (hd : d < 64) :
    wordI 7 (n.toNat + 64 * fn) a d m % 2 = 1
      ∧ wordI 7 (n.toNat + 64 * fn) a d m < 2 ^ (8 * wordLen (wordI 7 (n.toNat + 64 * fn) a d m)) := by
  have hn := bits6_lt n
  exact ⟨(fields_wordI m (by decide) (by omega) ha hd).1, wordI_fits m (by decide) (by omega) ha hd⟩

theorem readsBack_of_odd {i : Instr} {w : Nat} (hw : i.word = some w) (hodd : w % 2 = 1 ∧ w < 2 ^ (8 * wordLen w))
    (h : decodeMajor w = .ok i) : ReadsBack i := by
  intro v hv
  cases hw.symm.trans hv
  exact ⟨hodd.2, by rw [if_neg (by omega), h]⟩

/-- Every instruction that has a word reads back from it; an event has none. -/
theorem readsBack (i : Instr) : ReadsBack i := by
  cases i with
  | taskStart | remoteOpStart | drainTaskStart | taskEnd | vectorOpStart | vectorOpComplete | sfuServiceStart | sfuResult
  | ldtResult | divideResult | tileStoreLand | budgetExpiry | unitRetryReinject | messageArrival | messageRefusal
  | messageResend | sendAcceptReport | spillReinjectOffer | holdAck | accessAck | routerSwitch | routerGate | routerWake
  | routerReady | chainChunk | chainGrant | podArrival | drawArrival | drawResend | armArrival | disarmArrival
  | farSendArrival | censusStart | censusMarkerSend | censusMarkerArrival | wlossServe | homeCopyBroadcast
  | stationTranslate | pageWalk | parkedRequestResend | globalPiecePerform | pieceLanding | nearOpExecute
  | chaseForwardArrival | farRetryResend | storageServiceStart | writebackComplete | fillComplete | nvmeTimeout
  | frameWaitRetry | migrationReview | migrationComplete | copyOffer | copyPiece | arrayJobStart | arrayStep | arrayRowDrain
  | arrayJobComplete | arrayStopFinish | xchgActivate | arriveReceive | arriveResend | xchgRowReceive | xchgRowAck
  | xchgTimeout | triggerArrival | triggerFire | nrdefProgram | nrfreeRemove | contributionArrival | routerCombine
  | roundStartNotice | roundTimeout | closeArrival | roundComplete | futureRequestServe | fwaitResend | launchRequestArrival
  | launchResend | launchRecordTake | launchCreate | rootInject | contextRestore | savedFarSendSpill
  | checkpointDigestArrival | checkpointFlushDone | checkpointPeerlost | fabricPacketArrival | fabricNakArrival
  | flitCrcReplay | portDown | jobTagTimeout | powerGrant | thermalCap | thermalHalt | deviceReset | linkTraining
  | hwqDoorbell | tlbInvalidate | poolTailWrite | jobTagWrite | routeEntryWrite | jobctlResume | jobctlAbort | hostFutureNew
  | hostFutureSet | hostFutureFree | hostFuturePeek | hostWindowRead | hostWindowWrite | getkey | attest | fwload
  | setbudget | registerWrite | notAnInstruction | portUp | uncorrectableSoftError =>
    exact fun w h => nomatch h
  | aluAdd | aluSub | aluAnd | aluOr | aluXor | aluAndn | aluShl | aluShr | aluSra | aluRot | aluMin | aluMax | aluMinu
  | aluMaxu | aluSlt | aluSltu | alu2Seq | alu2Sne | alu2Clz | alu2Ctz | alu2Popc | alu2SextB | alu2SextH | alu2SextW
  | alu2ZextB | alu2ZextH | alu2ZextW | alu2Mul | alu2Mulh | alu2Mulhu | alu2Div | alu2Divu | alu3Rem | alu3Remu | alu3Sel
  | alu3Bext | alu3Bins | alu3Addsat | alu3Subsat | alu3Absdiff | ctlJr | ctlRet | ctlEnd | ctlNop | ctlTrap | fpFadd
  | fpFsub | fpFmul | fpFmin | fpFmax | fpFabs | fpFneg | fpFeq | fpFlt | fpFle | fpFcvtI2f | fpFcvtU2f | fpFcvtF2i
  | fpFcvtF2u | fpFsqrt | fpFclass | ffma | xchg | wgtWget | wgtWtotal | wgtWret | wgtQarm | wgtQdisarm | wgtWcensus
  | wgtWloss | nearAtomAdd | nearAtomMax | nearAtomCas | nearCas4 | nearEnq | nearChase | nearRedAddF32 | nearRedMaxF32
  | nearRedAddI32 | nearXswap | cpy | cpyWalk | cqry | cpyCancel | tmm | tstat | tabort | trgPost | trgAdd | trgRead
  | trgCancel | trgAlloc | trgFree | nred | nrdef | nrfree | fnew | fset | fwait | ffree | fpeek | launch | sysMfs | sysMts
  | sysCtxsave | sysCtxload | sysHalt | sysSysnote | spref =>
    simp [ReadsBack, Instr.word, wordA_fits, fields_wordA, decodeMajor_wordA, Name.code_lt, unusedZero, decodeAlu, decodeAlu2,
      decodeAlu3, decodeCtl, decodeFp, decodeFfma, decodeXchg, decodeSend, decodeWgt, decodeGrd, decodeGwr, decodeNear, decodeCpy,
      decodeTmm, decodeTrg, decodeNred, decodeFut, decodeLaunch, decodeSys, decodeSpref]
  | vadd | vsub | vmul | vfma | vmin | vmax | vabs | vneg | vand | vor | vxor | vandn | vshl | vshr | vsra | vrot | vceq
  | vclt | vcle | vcne | vsel | vmov | vbcast | vzero | vcvtSame | vcvtWiden2 | vcvtWiden4 | vcvtNarrow | vredsum | vredmax
  | vredmin | vdot | vperm | vslide | vext | vins | vldT | vldL | vldxT | vstT | vstL | vstxT | vrcp | vrsq | vexp2 | vlog2
  | vsin | vcos | vtanh | vsigm | vrcpr | vrsqr | vrnd | vfloor | vtpack | vtunp | vtqnt | vtchk | kand | kor | kxor | knot
  | kpop | kfirst | kset | kmv | vaddsat | vsubsat | vmulh | vabsdiff =>
    simp [ReadsBack, Instr.word, wordV_fits, fields_wordV, decodeMajor_wordV, VT.code_lt, VT.code_lt_reg, VT.code_div,
      VT.code_mod, unusedZero, fin8_div, fin8_lt,
      decodeVarith, decodeVarith2, decodeVlogic, decodeVshift, decodeVcmp, decodeVmove, decodeVcvt, decodeVred, decodeVperm,
        decodeVld, decodeVst, decodeVsfa, decodeVsfb, decodeVrefine, decodeVtern, decodeKlogic, decodeKmisc, decodeVint]
  | send a b o m | sendHalf a o m | sendDraw a b o m | sendRop a b o m =>
    cases o <;> simp [ReadsBack, Instr.word, wordA_fits, fields_wordA, decodeMajor_wordA, Name.code_lt, unusedZero, decodeSend, bitOf]
  | grd a b q l m | gwr a b q l m =>
    cases q <;> cases l <;>
      simp [ReadsBack, Instr.word, wordA_fits, fields_wordA, decodeMajor_wordA, Name.code_lt, unusedZero, decodeGrd, decodeGwr, bitOf]
  | addi | andi | ori | xori | slti | sltiu | beq | bne | blt | bge | bltu | bgeu | loop =>
    simp [ReadsBack, Instr.word, wordI_fits, fields_wordI, decodeMajor_wordI, Name.code_lt, bits10_lt, unusedZero]
  | shiShl d a n m | shiShr d a n m | shiSra d a n m | shiRot d a n m =>
    have h := decodeMajor_shi n m (Name.code_lt a) (Name.code_lt d)
    simp only [Name.ofCode_code] at h
    exact readsBack_of_odd rfl (word_shi_odd n m (by decide) (Name.code_lt a) (Name.code_lt d)) (by simp only [h])
  | movi d i m => simp [ReadsBack, Instr.word, wordW_fits, fields_wordW, decodeMajor_wordW, Name.code_lt, bits16_lt]
  | jmp | call | limm => simp [ReadsBack, Instr.word, wordJ_fits, fields_wordJ, decodeMajor_wordJ, bits22_lt, Mark.code]
  | ldl | stl | ldt | stt | gst =>
    simp [ReadsBack, Instr.word, wordM_fits, fields_wordM, decodeMajor_wordM, Name.code_lt, Size.code_lt, Bool.toNat_le,
      bits6_lt, unusedZero]
  | fence =>
    simp [ReadsBack, Instr.word, wordFence_fits, fields_wordFence, decodeMajor_wordFence, decodeFence, FenceKind.code_lt,
      FenceKind.code_lt_field, Scope.code_lt,
      bits7_lt, unusedZero]
  | compactMov | compactAdd | compactSub | compactAddi | compactAnd | compactShl | compactShr | compactLdlD | compactStlD
  | compactBeqz | compactBnez | compactEnd | compactNop | compactSendHalf | compactRet | compactCmov =>
    simp [ReadsBack, Instr.word, wordCompact_fits, fields_wordCompact, decodeCompact_wordCompact, bits4_lt, unusedZero]

/-! ## The bytes of a word, read back -/

@[simp] theorem bytesOfNat_length (w n : Nat) : (bytesOfNat w n).length = n := by
  induction n generalizing w with
  | zero => rfl
  | succ n ih => simp [bytesOfNat, ih]

/-- The two bytes of a parcel, the lowest first, make that parcel (R54). -/
theorem parcelOf_bytes (w : Nat) : parcelOf (BitVec.ofNat 8 w) (BitVec.ofNat 8 (w / 256)) = w % 65536 := by
  simp only [parcelOf, BitVec.toNat_ofNat]
  omega

/-- A word of one parcel is read as that parcel, whatever follows it. -/
theorem decode_bytes_even {w : Nat} (rest : List Byte) (heven : w % 2 = 0) (hw : w < 2 ^ (8 * wordLen w)) :
    decode (bytesOfNat w (wordLen w) ++ rest) = (decode16 w).map (·, wordLen w) := by
  have hlen : wordLen w = 2 := by simp [wordLen, heven]
  rw [hlen] at hw ⊢
  have hp : w % 65536 = w := Nat.mod_eq_of_lt hw
  simp only [bytesOfNat, List.cons_append, List.nil_append, decode, parcelOf_bytes, hp, heven, if_true]

/-- A word of two parcels is read as those two, whatever follows them. -/
theorem decode_bytes_odd {w : Nat} (rest : List Byte) (hodd : w % 2 = 1) (hw : w < 2 ^ (8 * wordLen w)) :
    decode (bytesOfNat w (wordLen w) ++ rest) = (decode32 w).map (·, wordLen w) := by
  have hlen : wordLen w = 4 := by simp [wordLen, hodd]
  rw [hlen] at hw ⊢
  have hlow : w % 65536 % 2 ≠ 0 := by omega
  have hwhole : w % 65536 + 65536 * (w / 256 / 256 % 65536) = w := by omega
  simp only [bytesOfNat, List.cons_append, List.nil_append, decode, parcelOf_bytes, hlow, if_false, hwhole]

/-- A form that nothing is wrong with passes the checks. -/
theorem checked_ok {i : Instr} (h : i.bad = none) : checked (.ok i) = .ok i := by
  simp only [checked, h]

/-- Settles O37: the word of each instruction reads back field by field, and its bytes make that word again. -/
theorem encodeDecodeRoundTrip : Obligations.EncodeDecodeRoundTrip := by
  unfold Obligations.EncodeDecodeRoundTrip
  intro i rest hwf hword
  obtain ⟨w, hw⟩ := Option.ne_none_iff_exists'.mp hword
  obtain ⟨hfits, hback⟩ := readsBack i w hw
  have hbytes : encode i = bytesOfNat w (wordLen w) := by simp only [encode, hw]
  rw [hbytes, bytesOfNat_length]
  split at hback
  case isTrue heven => rw [decode_bytes_even rest heven hfits, decode16, hback, checked_ok hwf]; rfl
  case isFalse hodd => rw [decode_bytes_odd rest (by omega) hfits, decode32, hback, checked_ok hwf]; rfl
end Sys2Proof.Laws
end

section
/-! The machine as a whole: the memories' laws, what reset leaves, words written out from the encodings, and what a turn runs. -/

namespace Sys2Proof.Laws
open Sys2Proof.Machine Sys2Proof.Safety

/-! ## Memories in canonical form -/

/-- A listed byte of a memory in canonical form is not what an unlisted one reads as. -/
theorem get_head_ne_zero {n k : Nat} {v : Byte} {t : Memory} (h : Memory.wfFrom n ((k, v) :: t) = true) :
    Memory.get ((k, v) :: t) k ≠ 0 := by
  rw [Memory.wfFrom_cons] at h
  simpa [Memory.get] using h.2.1

/-- The head of one of two memories that read alike does not stand below the head of the other. -/
theorem head_le_of_reads_alike {n k k' : Nat} {v v' : Byte} {t t' : Memory} (h : Memory.wfFrom n ((k, v) :: t) = true)
    (h' : Memory.wfFrom n ((k', v') :: t') = true) (same : ∀ a, Memory.get ((k, v) :: t) a = Memory.get ((k', v') :: t') a) : k' ≤ k := by
  by_contra hlt
  have hbelow : Memory.wfFrom k' ((k', v') :: t') = true := by
    rw [Memory.wfFrom_cons] at h' ⊢
    exact ⟨Nat.le_refl _, h'.2⟩
  exact get_head_ne_zero h ((same k).trans (Memory.get_of_wfFrom _ _ _ hbelow (by omega)))

/-- Two memories in canonical form that read alike are the same. -/
theorem eq_of_reads_alike {m m' : Memory} {n : Nat} (h : Memory.wfFrom n m = true) (h' : Memory.wfFrom n m' = true)
    (same : ∀ a, m.get a = m'.get a) : m = m' := by
  induction m generalizing m' n with
  | nil =>
    cases m' with
    | nil => rfl
    | cons e t => exact absurd (same e.1).symm (get_head_ne_zero h')
  | cons e t ih =>
    obtain ⟨k, v⟩ := e
    cases m' with
    | nil => exact absurd (same k) (get_head_ne_zero h)
    | cons e' t' =>
      obtain ⟨k', v'⟩ := e'
      have hk : k = k' := Nat.le_antisymm (head_le_of_reads_alike h' h fun a => (same a).symm) (head_le_of_reads_alike h h' same)
      subst hk
      have hv : v = v' := by simpa [Memory.get] using same k
      subst hv
      rw [Memory.wfFrom_cons] at h h'
      have tails : t = t' := by
        refine ih h.2.2 h'.2.2 fun a => ?_
        by_cases ha : k = a
        · rw [Memory.get_of_wfFrom t _ a h.2.2 (by omega), Memory.get_of_wfFrom t' _ a h'.2.2 (by omega)]
        · simpa [Memory.get, ha] using same a
      rw [tails]

theorem clear_cons (k : Nat) (v : Byte) (t : Memory) (a n : Nat) :
    Memory.clear ((k, v) :: t) a n = if k < a ∨ a + n ≤ k then (k, v) :: t.clear a n else t.clear a n := by
  simp only [Memory.clear, List.filter_cons, decide_eq_true_eq]

/-- A byte after a range was cleared. -/
theorem get_clear (m : Memory) (a n c : Nat) : (m.clear a n).get c = if a ≤ c ∧ c < a + n then 0 else m.get c := by
  induction m with
  | nil => simp [Memory.clear, Memory.get]
  | cons e t ih =>
    obtain ⟨k, v⟩ := e
    rw [clear_cons]
    by_cases hk : k = c
    · subst hk
      by_cases hin : a ≤ k ∧ k < a + n
      · rw [if_neg (by omega), ih, if_pos hin, if_pos hin]
      · rw [if_pos (by omega), if_neg hin]
        simp only [Memory.get, if_true]
    · split <;> simp only [Memory.get, if_neg hk, ih]

/-- Reading bytes in a row reads each of them. -/
theorem read_eq_map (m : Memory) (a n : Nat) : m.read a n = (List.range n).map fun i => m.get (a + i) := by
  induction n generalizing a with
  | zero => rfl
  | succ n ih => simp [Memory.read, ih, List.range_succ_eq_map, Nat.add_assoc, Nat.add_comm 1]

/-- A byte after a range was written. -/
theorem get_write (m : Memory) (hm : m.wf = true) (a : Nat) (bs : List Byte) (c : Nat) :
    (m.write a bs).get c = if a ≤ c ∧ c < a + bs.length then bs.getD (c - a) 0 else m.get c := by
  split
  case isTrue hin =>
    have := Memory.get_write_inside m a (c - a) bs hm (by omega)
    rwa [show a + (c - a) = c by omega] at this
  case isFalse hout => exact Memory.get_write_outside m a c bs (by omega)

/-- Settles O42: each operation's read law, and extensionality by comparing the heads of the two memories. -/
theorem memoriesAreCanonical : Obligations.MemoriesAreCanonical := by
  unfold Obligations.MemoriesAreCanonical
  intro m hm
  refine ⟨fun a b c => ⟨Memory.wf_set m a b hm, ?_⟩, fun a bs c => ⟨Memory.wf_write m a bs hm, get_write m hm a bs c⟩,
    fun a n c => ⟨Memory.wf_clear m a n hm, get_clear m a n c⟩, read_eq_map m, fun m' hm' same => eq_of_reads_alike hm hm' same⟩
  split
  case isTrue hc => rw [hc, Memory.get_set_self m a b hm]
  case isFalse hc => exact Memory.get_set_of_ne m a c b hc

/-! ## What reset leaves -/

/-- Settles O40: every memory is empty at reset. -/
theorem resetMemoryOk : Obligations.ResetMemoryOk := ⟨rfl, rfl, rfl, rfl, rfl, rfl⟩

/-- Settles O39: no core and no tile is listed at reset, so each has its fresh value, and no memory lists a byte. -/
theorem resetState : Obligations.ResetState := by
  unfold Obligations.ResetState
  refine ⟨rfl, rfl, rfl, rfl, rfl, rfl, rfl, rfl, rfl, rfl, rfl, fun n => ⟨rfl, rfl⟩, fun t => ⟨rfl, rfl, rfl⟩, fun sp a => ?_⟩
  cases sp <;> rfl

/-! ## Words written out -/

/-- Settles O36: each word is decoded. -/
theorem decodedWordsMatchSpec : Obligations.DecodedWordsMatchSpec := by
  unfold Obligations.DecodedWordsMatchSpec
  decide

/-! ## What a turn runs -/

theorem step_of_turns {s : State} {t : Turn} {rest : List Turn} (h : s.turns = t :: rest) :
    step s = takeTurn t { s with turns := rest } := by
  simp only [step, nextTurn, h]

/-- What is no instruction faults ILLOP. -/
theorem issueNext_error {s : State} {e : DecodeError} (good : badParcel s s.me s.me.pc = none)
    (h : decode (fetchBytes s s.me s.me.pc) = .error e) :
    issueNext s = .next { (s.trapNow s.cur ⟨.illop, 0, 0, 0⟩ (segNow s.me)) with free := s.free + 1 } := by
  simp only [issueNext, good, fetch, h]
  rw [exec_notAnInstruction]
  rfl

/-- What decodes runs. -/
theorem issueNext_ok {s : State} {i : Instr} {n : Nat} (good : badParcel s s.me s.me.pc = none)
    (h : decode (fetchBytes s s.me s.me.pc) = .ok (i, n)) : issueNext s = exec i s := by
  simp only [issueNext, good, fetch, h]

/-- The turn of a core where a prefix waits for its instruction. -/
theorem coreTurn_prefixed {s : State} {key tile core : Nat} (h : s.limmOpen = some key) (hcore : coreOf key = 8 * tile + core) :
    coreTurn tile core s = issuePrefixed s key := by
  simp only [coreTurn, h, hcore, if_true]

/-- A core's state once its slot table has granted in this clk. -/
def afterGrant (s : State) (n : Nat) : State :=
  { (s.updCore n (fun x => { x with lastClk := some s.clk, anyLast := (grantOf s n (s.core n)).2.2 })) with
    ctxs := bumpWatchdogs n (grantOf s n (s.core n)).1 s.ctxs }

/-- The turn of a core whose slot table grants a job with an eligible context. -/
theorem coreTurn_granted {s : State} {tile core job hc : Nat} (hnone : s.limmOpen = none) (hcore : core < 8)
    (hclk : (s.core (8 * tile + core)).lastClk ≠ some s.clk) (hwait : turnWaits s tile core = false) (hissue : mayIssue s tile = true)
    (hjob : (grantOf s (8 * tile + core) (s.core (8 * tile + core))).2.1 = some job)
    (hpick : pickContext (s.core (8 * tile + core)).hcLast (eligibleOf (afterGrant s (8 * tile + core)) (8 * tile + core) job) = some hc) :
    coreTurn tile core s = issueNext (present ((afterGrant s (8 * tile + core)).updCore (8 * tile + core)
      (fun x => { x with hcLast := if hc < 8 then hc else x.hcLast })) (10 * (8 * tile + core) + hc)) := by
  have hturn : ¬((s.core (8 * tile + core)).lastClk = some s.clk ∨ 8 ≤ core ∨ turnWaits s tile core) := by simp [hclk, hwait, hcore]
  rw [coreTurn]
  split
  case h_1 key hopen => exact nomatch hnone.symm.trans hopen
  case h_2 =>
    rw [if_neg hturn, if_neg (by simp [hissue])]
    simp only [hjob]
    change (match pickContext _ (eligibleOf (afterGrant s (8 * tile + core)) (8 * tile + core) job) with
      | none => _
      | some hc => _) = _
    rw [hpick]
    rfl

/-- A prefix's instruction that has to wait takes the prefix with it; another one has issued. -/
theorem issuePrefixed_ok {s : State} {key : Nat} {i : Instr} (hnext : issueNext { s with cur := key } = exec i { s with cur := key }) :
    (Stated.waits i { s with cur := key } = false → issuePrefixed s key = exec i { s with cur := key })
      ∧ (Stated.waits i { s with cur := key } = true → issuePrefixed s key = .next (s.unprefix key)) := by
  simp only [issuePrefixed, hnext, Stated.waits]
  cases exec i { s with cur := key } with
  | next t =>
    show (waited s t = false → _) ∧ (waited s t = true → _)
    constructor <;> intro h <;> simp [h]
  | _ => simp

/-- An instruction that faults does not wait: its trap took a choice. -/
theorem issuePrefixed_error {s : State} {key : Nat} {u : State} (hnext : issueNext { s with cur := key } = .next u)
    (hfree : u.free = s.free + 1) : issuePrefixed s key = .next u := by
  simp [issuePrefixed, hnext, waited, hfree]

/-- A tick of a clk that is not done. -/
theorem tick_early {s : State} (h : clkDone s = false) : tick s = s := by simp [tick, h]

/-- A tick of a clk that is done, with no invalidation under way. -/
theorem tick_done {s : State} (h : clkDone s = true) (hbusy : s.tlbBusy = false) :
    tick s = { s.homesTurn with clk := s.homesTurn.clk + 1, winbaseOld := s.homesTurn.winbase } := by
  simp [tick, h, State.endInvalidation, hbusy]

/-- An event runs by itself; what has an encoding is reached by a fetch only. -/
theorem takeTurn_event {s : State} {i : Instr} (hi : i ≠ .notAnInstruction) :
    (i.word = none → takeTurn (.event i) s = exec i s) ∧ (i.word ≠ none → takeTurn (.event i) s = .next s) := by
  constructor <;> intro h
  · simp [takeTurn, isEvent, h, hi]
  · simp [takeTurn, isEvent, h]

/-- Where no turn is settled, the next one is settled first. -/
theorem step_no_turns {s : State} (h : s.turns = []) :
    step s = step { s with turns := [Config.nextTurn s.turnNo], turnNo := s.turnNo + 1 } := by
  simp only [step, nextTurn, h]

/-- Settles O38: each turn, by what it runs. -/
theorem stepRunsDecodedInstruction : Obligations.StepRunsDecodedInstruction := by
  unfold Obligations.StepRunsDecodedInstruction
  intro s rest
  refine ⟨?prefixed, ?granted, ?event, ?tick, step_no_turns⟩
  case prefixed =>
    intro tile core key hturn hopen hcore u good
    have hstep : step s = issuePrefixed { s with turns := rest } key :=
      (step_of_turns hturn).trans (coreTurn_prefixed hopen hcore)
    refine ⟨fun i n hi => ?_, fun e he => hstep.trans (issuePrefixed_error (issueNext_error good he) rfl)⟩
    obtain ⟨issues, waits⟩ := issuePrefixed_ok (s := { s with turns := rest }) (issueNext_ok (s := u) good hi)
    exact ⟨fun h => hstep.trans (issues h), fun h => hstep.trans (waits h)⟩
  case granted =>
    intro tile core job hc hturn hnone hcore n r hclk hwait hissue g w hjob hpick u good
    have hstep : step s = issueNext u := (step_of_turns hturn).trans (coreTurn_granted hnone hcore hclk hwait hissue hjob hpick)
    exact ⟨fun i k hi => hstep.trans (issueNext_ok good hi), fun e he => hstep.trans (issueNext_error good he)⟩
  case event =>
    intro i hturn hi
    rw [step_of_turns hturn]
    exact takeTurn_event hi
  case tick =>
    intro hturn
    rw [step_of_turns hturn]
    exact ⟨fun hbusy hdone => congrArg _ (tick_done hdone hbusy), fun h => congrArg _ (tick_early h)⟩

end Sys2Proof.Laws
end

section
/-! Scalar instructions and control: what each row of the tables means in the model, and the end of a task. -/

namespace Sys2Proof.Laws
open Sys2Proof.Machine Sys2Proof.Safety

/-! ## The results of the tables as bit-vector operations -/

theorem ofInt_toInt_add (x y : Word) : x + y = BitVec.ofInt 64 (x.toInt + y.toInt) := by
  rw [BitVec.ofInt_add, BitVec.ofInt_toInt, BitVec.ofInt_toInt]

theorem ofInt_toInt_sub (x y : Word) : x - y = BitVec.ofInt 64 (x.toInt - y.toInt) := by
  apply BitVec.eq_of_toInt_eq
  rw [BitVec.toInt_sub, BitVec.toInt_ofInt]

theorem ofInt_toInt_mul (x y : Word) : x * y = BitVec.ofInt 64 (x.toInt * y.toInt) := by
  rw [BitVec.ofInt_mul, BitVec.ofInt_toInt, BitVec.ofInt_toInt]

theorem shiftLeft_eq_ofNat (x : Word) (n : Nat) : x <<< n = BitVec.ofNat 64 (x.toNat * 2 ^ n) := by
  apply BitVec.eq_of_toNat_eq
  rw [BitVec.toNat_shiftLeft, BitVec.toNat_ofNat, Nat.shiftLeft_eq]

theorem ushiftRight_eq_ofNat (x : Word) (n : Nat) : x >>> n = BitVec.ofNat 64 (x.toNat / 2 ^ n) := by
  apply BitVec.eq_of_toNat_eq
  rw [BitVec.toNat_ushiftRight, BitVec.toNat_ofNat, Nat.shiftRight_eq_div_pow,
    Nat.mod_eq_of_lt (Nat.lt_of_le_of_lt (Nat.div_le_self _ _) x.isLt)]

theorem sshiftRight_eq_ofInt (x : Word) (n : Nat) : x.sshiftRight n = BitVec.ofInt 64 (x.toInt / 2 ^ n) := by
  rw [← BitVec.ofInt_toInt (x := x.sshiftRight n), BitVec.toInt_sshiftRight, Int.shiftRight_eq_div_pow]
  norm_cast

/-- A rotation's two parts do not overlap, so their disjunction is their sum. -/
theorem rotRight_eq_rotated (x : Word) {n : Nat} (hn : n < 64) : rotRight x n = Stated.rotated x n := by
  apply BitVec.eq_of_toNat_eq
  have hlow : x.toNat / 2 ^ n < 2 ^ (64 - n) := by
    have hsplit : 2 ^ (64 - n) * 2 ^ n = 2 ^ 64 := by rw [← Nat.pow_add]; congr 1; omega
    exact (Nat.div_lt_iff_lt_mul (Nat.two_pow_pos n)).mpr (hsplit ▸ x.isLt)
  have hhigh : x.toNat <<< (64 - n) % 2 ^ 64 = (x.toNat % 2 ^ n) <<< (64 - n) := by
    rw [Nat.shiftLeft_eq, Nat.shiftLeft_eq, ← Nat.mul_mod_mul_right, ← Nat.pow_add, show n + (64 - n) = 64 by omega]
  have hsum : (x.toNat / 2 ^ n + x.toNat * 2 ^ (64 - n)) % 2 ^ 64 = x.toNat / 2 ^ n + (x.toNat % 2 ^ n) <<< (64 - n) := by
    rw [← Nat.shiftLeft_eq, Nat.add_mod, hhigh]
    refine (congrArg (fun y => (y + _) % 2 ^ 64) (Nat.mod_eq_of_lt ?_)).trans (Nat.mod_eq_of_lt ?_)
    · exact Nat.lt_of_lt_of_le hlow (Nat.pow_le_pow_right (by decide) (by omega))
    · rw [Nat.add_comm, Nat.shiftLeft_add_eq_or_of_lt hlow]
      refine Nat.or_lt_two_pow ?_ (Nat.lt_of_lt_of_le hlow (Nat.pow_le_pow_right (by decide) (by omega)))
      rw [← hhigh]
      exact Nat.mod_lt _ (by decide)
  rw [rotRight, BitVec.toNat_rotateRight, Nat.mod_eq_of_lt hn, Nat.shiftRight_eq_div_pow, hhigh, Stated.rotated, BitVec.toNat_ofNat,
    hsum, Nat.add_comm, Nat.shiftLeft_add_eq_or_of_lt hlow, Nat.or_comm]

theorem by6_lt (y : Word) : Stated.by6 y < 64 := Nat.mod_lt _ (by decide)

theorem ofBool_eq_bit (p : Prop) [Decidable p] : Word.ofBool (decide p) = Stated.bit p := by
  by_cases h : p <;> simp [Word.ofBool, Stated.bit, h]

/-- The lesser of two signed values. -/
theorem min_eq_ofInt (x y : Word) : (if x.toInt ≤ y.toInt then x else y) = BitVec.ofInt 64 (min x.toInt y.toInt) := by
  split
  case isTrue h => rw [min_eq_left h, BitVec.ofInt_toInt]
  case isFalse h => rw [min_eq_right (by omega), BitVec.ofInt_toInt]

/-- The greater of two signed values. -/
theorem max_eq_ofInt (x y : Word) : (if x.toInt ≤ y.toInt then y else x) = BitVec.ofInt 64 (max x.toInt y.toInt) := by
  split
  case isTrue h => rw [max_eq_right h, BitVec.ofInt_toInt]
  case isFalse h => rw [max_eq_left (by omega), BitVec.ofInt_toInt]

/-- The lesser of two unsigned values. -/
theorem minu_eq_ofNat (x y : Word) : (if x.toNat ≤ y.toNat then x else y) = BitVec.ofNat 64 (min x.toNat y.toNat) := by
  split
  case isTrue h => rw [Nat.min_eq_left h, BitVec.ofNat_toNat, BitVec.setWidth_eq]
  case isFalse h => rw [Nat.min_eq_right (by omega), BitVec.ofNat_toNat, BitVec.setWidth_eq]

/-- The greater of two unsigned values. -/
theorem maxu_eq_ofNat (x y : Word) : (if x.toNat ≤ y.toNat then y else x) = BitVec.ofNat 64 (max x.toNat y.toNat) := by
  split
  case isTrue h => rw [Nat.max_eq_right h, BitVec.ofNat_toNat, BitVec.setWidth_eq]
  case isFalse h => rw [Nat.max_eq_left (by omega), BitVec.ofNat_toNat, BitVec.setWidth_eq]

/-- A field of a register, cut at bit 63 (R91). -/
theorem bext_eq_ofNat (x y : Word) : (x >>> fieldPos y) &&& BitVec.ofNat 64 (2 ^ fieldWidth y - 1)
    = BitVec.ofNat 64 (x.toNat / 2 ^ Stated.by6 y % 2 ^ (y.toNat / 64 % 64 + 1)) := by
  have hw : fieldWidth y = y.toNat / 64 % 64 + 1 := rfl
  have hwidth : 2 ^ fieldWidth y ≤ 2 ^ 64 := Nat.pow_le_pow_right (by decide) (by omega)
  have hpos := Nat.two_pow_pos (fieldWidth y)
  apply BitVec.eq_of_toNat_eq
  rw [BitVec.toNat_and, BitVec.toNat_ushiftRight, BitVec.toNat_ofNat, BitVec.toNat_ofNat, Nat.mod_eq_of_lt (by omega : 2 ^ fieldWidth y - 1 < 2 ^ 64),
    Nat.and_two_pow_sub_one_eq_mod, Nat.shiftRight_eq_div_pow, ← hw]
  refine (Nat.mod_eq_of_lt (Nat.lt_of_lt_of_le (Nat.mod_lt _ hpos) hwidth)).symm

theorem signExtend_eq_ofInt (x : Word) (n : Nat) : (x.setWidth n).signExtend 64 = BitVec.ofInt 64 (sextNat x.toNat n) := by
  rw [BitVec.signExtend, BitVec.toInt_eq_toNat_cond, BitVec.toNat_setWidth]
  rfl

theorem zeroExtend_eq_ofNat (x : Word) (n : Nat) : (x.setWidth n).setWidth 64 = BitVec.ofNat 64 (x.toNat % 2 ^ n) := by
  apply BitVec.eq_of_toNat_eq
  rw [BitVec.toNat_setWidth, BitVec.toNat_setWidth, BitVec.toNat_ofNat]

/-! ## Counts of bits -/

/-- The number of leading zero bits, as the model counts them. -/
def leading (x : Word) : Nat := if x = 0 then 64 else 63 - x.toNat.log2

theorem leading_isCount (x : Word) : leading x ≤ 64 ∧ (∀ i, i < leading x → x.toNat.testBit (63 - i) = false)
    ∧ (leading x < 64 → x.toNat.testBit (63 - leading x) = true) := by
  unfold leading
  split
  case isTrue h => subst h; simp
  case isFalse h =>
    have hx : x.toNat ≠ 0 := fun e => h (BitVec.eq_of_toNat_eq e)
    have hlog : x.toNat.log2 < 64 := (Nat.log2_lt hx).mpr x.isLt
    refine ⟨by omega, fun i hi => Nat.testBit_lt_two_pow ?_, fun _ => ?_⟩
    · exact (Nat.log2_lt hx).mp (by omega)
    · rw [show 63 - (63 - x.toNat.log2) = x.toNat.log2 by omega]
      exact Nat.testBit_log2 hx

theorem trailing_isCount (x n : Nat) : trailing x n ≤ n ∧ (∀ i, i < trailing x n → x.testBit i = false)
    ∧ (trailing x n < n → x.testBit (trailing x n) = true) := by
  induction n generalizing x with
  | zero => simp [trailing]
  | succ n ih =>
    obtain ⟨hle, hbelow, hat⟩ := ih (x / 2)
    rw [trailing]
    split
    case isTrue h => exact ⟨by omega, by simp, fun _ => by simp [Nat.testBit_zero, h]⟩
    case isFalse h =>
      refine ⟨by omega, fun i hi => ?_, fun hlt => ?_⟩
      · cases i with
        | zero => simp [Nat.testBit_zero, h]
        | succ i => rw [Nat.testBit_succ]; exact hbelow i (by omega)
      · rw [Nat.add_comm, Nat.testBit_succ]
        exact hat (by omega)

theorem popCount_eq_length (x n : Nat) : popCount x n = ((List.range n).filter x.testBit).length := by
  induction n with
  | zero => rfl
  | succ n ih =>
    rw [popCount, ih, List.range_succ, List.filter_append, List.length_append, Nat.add_comm]
    cases h : x.testBit n <;> simp [h, List.filter]

/-! ## What each row of the tables means -/

theorem bne_eq_not_decide (x y : Word) : (x != y) = decide (x ≠ y) := by
  rw [bne, beq_eq_decide, decide_not]

/-- A row of two sources: the model's instruction has the shape of a producer with the row's latency and result. -/
def MeansTwo (e : (Name → Name → Name → Mark → Instr) × Nat × (Word → Word → Word)) : Prop :=
  ∃ f, (∀ d a b m s, exec (e.1 d a b m) s = two d a b m e.2.1 f s) ∧ ∀ x y, f x y = e.2.2 x y

theorem twoSource_means : ∀ e ∈ Stated.twoSource, MeansTwo e := by
  simp only [Stated.twoSource, List.forall_mem_cons]
  refine ⟨⟨_, fun _ _ _ _ _ => rfl, ofInt_toInt_add⟩, ⟨_, fun _ _ _ _ _ => rfl, ofInt_toInt_sub⟩,
    ⟨_, fun _ _ _ _ _ => rfl, fun _ _ => rfl⟩, ⟨_, fun _ _ _ _ _ => rfl, fun _ _ => rfl⟩,
    ⟨_, fun _ _ _ _ _ => rfl, fun _ _ => rfl⟩, ⟨_, fun _ _ _ _ _ => rfl, fun _ _ => rfl⟩,
    ⟨_, fun _ _ _ _ _ => rfl, fun x y => shiftLeft_eq_ofNat x _⟩,
    ⟨_, fun _ _ _ _ _ => rfl, fun x y => ushiftRight_eq_ofNat x _⟩,
    ⟨_, fun _ _ _ _ _ => rfl, fun x y => sshiftRight_eq_ofInt x _⟩,
    ⟨_, fun _ _ _ _ _ => rfl, fun x y => rotRight_eq_rotated x (by6_lt y)⟩,
    ⟨_, fun _ _ _ _ _ => rfl, min_eq_ofInt⟩, ⟨_, fun _ _ _ _ _ => rfl, max_eq_ofInt⟩,
    ⟨_, fun _ _ _ _ _ => rfl, minu_eq_ofNat⟩, ⟨_, fun _ _ _ _ _ => rfl, maxu_eq_ofNat⟩,
    ⟨_, fun _ _ _ _ _ => rfl, fun _ _ => ofBool_eq_bit _⟩, ⟨_, fun _ _ _ _ _ => rfl, fun _ _ => ofBool_eq_bit _⟩,
    ⟨_, fun _ _ _ _ _ => rfl, fun x y => (congrArg Word.ofBool (beq_eq_decide x y)).trans (ofBool_eq_bit _)⟩,
    ⟨_, fun _ _ _ _ _ => rfl, fun x y => (congrArg Word.ofBool (bne_eq_not_decide x y)).trans (ofBool_eq_bit _)⟩,
    ⟨_, fun _ _ _ _ _ => rfl, ofInt_toInt_mul⟩, ⟨_, fun _ _ _ _ _ => rfl, fun _ _ => rfl⟩,
    ⟨_, fun _ _ _ _ _ => rfl, fun _ _ => rfl⟩, ⟨_, fun _ _ _ _ _ => rfl, bext_eq_ofNat⟩,
    ⟨_, fun _ _ _ _ _ => rfl, fun _ _ => rfl⟩, fun _ h => nomatch h⟩

/-- Settles O1: each row is a producer of two sources. -/
theorem twoSourceResults : Obligations.TwoSourceResults := by
  unfold Obligations.TwoSourceResults
  intro e he s m d a b plain ha hb hd
  obtain ⟨f, hexec, hf⟩ := twoSource_means e he
  rw [Completes, hexec, two_ok plain ha hb hd, hf]

/-- A producer of one source completes with its result. -/
theorem completes_one {i : Instr} {s : State} {d a : Name} {m : Mark} {f : Word → Word} {v : Word} (hexec : exec i s = one d a m f s)
    (plain : Plain s 4) (ha : Sound s a) (hd : writable d = true) (hv : f (value s 0 a) = v) : Completes i m s (wr s d v 1) .next := by
  rw [Completes, hexec, one_ok plain ha hd, hv]

/-- Settles O2: each instruction is a producer of one source. -/
theorem oneSourceResults : Obligations.OneSourceResults := by
  unfold Obligations.OneSourceResults
  intro s m d a plain ha hd
  refine ⟨?extensions, ?counts, ?shifts⟩
  case extensions =>
    simp only [Stated.oneSource, List.forall_mem_cons]
    exact ⟨completes_one rfl plain ha hd (signExtend_eq_ofInt _ 8), completes_one rfl plain ha hd (signExtend_eq_ofInt _ 16),
      completes_one rfl plain ha hd (signExtend_eq_ofInt _ 32), completes_one rfl plain ha hd (zeroExtend_eq_ofNat _ 8),
      completes_one rfl plain ha hd (zeroExtend_eq_ofNat _ 16), completes_one rfl plain ha hd (zeroExtend_eq_ofNat _ 32),
      fun _ h => nomatch h⟩
  case counts =>
    exact ⟨leading (value s 0 a), trailing (value s 0 a).toNat 64, popCount (value s 0 a).toNat 64,
      ⟨leading_isCount _, trailing_isCount _ 64, popCount_eq_length _ 64⟩,
      completes_one rfl plain ha hd rfl, completes_one rfl plain ha hd rfl, completes_one rfl plain ha hd rfl⟩
  case shifts =>
    simp only [Stated.shiftImm, List.forall_mem_cons]
    exact ⟨fun n => completes_one rfl plain ha hd (shiftLeft_eq_ofNat _ _), fun n => completes_one rfl plain ha hd (ushiftRight_eq_ofNat _ _),
      fun n => completes_one rfl plain ha hd (sshiftRight_eq_ofInt _ _), fun n => completes_one rfl plain ha hd (rotRight_eq_rotated _ n.isLt),
      fun _ h => nomatch h⟩

/-! ## Destination reads, saturation and FP -/

/-- Setting no flag changes nothing. -/
@[simp] theorem setFlags_zero (s : State) : setFlags s 0 = s := rfl

theorem saturated_eq_clamped (x : Int) : saturated x = Stated.clamped x := by
  unfold saturated Stated.clamped satInt minInt64 maxInt64 flagOV
  split
  case isTrue h =>
    have hlow : x < -(2 ^ 63) := by omega
    simp only [h, hlow, true_or, if_true]
    rfl
  case isFalse h =>
    have hlow : ¬x < -(2 ^ 63) := by omega
    simp only [h, hlow, false_or, if_false]
    split
    case isTrue hhigh => rw [if_pos (by omega)]; rfl
    case isFalse hhigh => rw [if_neg (by omega)]

theorem bins_eq (z x y : Word) : (z &&& ~~~fieldMask y) ||| ((x <<< fieldPos y) &&& fieldMask y)
    = (z &&& ~~~BitVec.ofNat 64 ((2 ^ (y.toNat / 64 % 64 + 1) - 1) * 2 ^ Stated.by6 y))
      ||| (BitVec.ofNat 64 (x.toNat * 2 ^ Stated.by6 y) &&& BitVec.ofNat 64 ((2 ^ (y.toNat / 64 % 64 + 1) - 1) * 2 ^ Stated.by6 y)) := by
  rw [shiftLeft_eq_ofNat]
  rfl

theorem completes_three {i : Instr} {s : State} {d a b : Name} {m : Mark} {l : Nat} {f : Word → Word → Word → Flagged} {r : Flagged}
    (hexec : exec i s = three d a b m l f s) (plain : Plain s 4) (ha : Sound s a) (hb : Sound s b) (hd : updatable d = true)
    (hclean : Clean s d) (hr : f (value s 2 d) (value s 0 a) (value s 1 b) = r) :
    Completes i m s (setFlags (wr s d r.1 l) r.2) .next := by
  rw [Completes, hexec, three_ok plain ha hb hd hclean, hr]

theorem completes_twoFlagged {i : Instr} {s : State} {d a b : Name} {m : Mark} {l : Nat} {f : Word → Word → Flagged} {r : Flagged}
    (hexec : exec i s = twoFlagged d a b m l f s) (plain : Plain s 4) (ha : Sound s a) (hb : Sound s b) (hd : writable d = true)
    (hr : f (value s 0 a) (value s 1 b) = r) : Completes i m s (setFlags (wr s d r.1 l) r.2) .next := by
  rw [Completes, hexec, twoFlagged_ok plain ha hb hd, hr]

theorem completes_oneFlagged {i : Instr} {s : State} {d a : Name} {m : Mark} {l : Nat} {f : Word → Flagged} {r : Flagged}
    (hexec : exec i s = oneFlagged d a m l f s) (plain : Plain s 4) (ha : Sound s a) (hd : writable d = true)
    (hr : f (value s 0 a) = r) : Completes i m s (setFlags (wr s d r.1 l) r.2) .next := by
  rw [Completes, hexec, oneFlagged_ok plain ha hd, hr]

/-- Settles O3: instructions that read their destination, and producers of two sources with a flag. -/
theorem destinationReadResults : Obligations.DestinationReadResults := by
  unfold Obligations.DestinationReadResults
  intro s m d a b plain ha hb
  refine ⟨fun hd hclean => ⟨?rows, ?ffma⟩, fun hd => ?saturating⟩
  case rows =>
    simp only [Stated.threeSource, List.forall_mem_cons]
    refine ⟨completes_three rfl plain ha hb hd hclean (r := (_, 0)) (Prod.ext ?_ rfl),
      completes_three rfl plain ha hb hd hclean (r := (_, 0)) (Prod.ext (bins_eq _ _ _) rfl), fun _ h => nomatch h⟩
    exact ite_not ..
  case ffma => exact completes_three rfl plain ha hb hd hclean rfl
  case saturating =>
    simp only [Stated.saturating, List.forall_mem_cons]
    exact ⟨completes_twoFlagged rfl plain ha hb hd (saturated_eq_clamped _),
      completes_twoFlagged rfl plain ha hb hd (saturated_eq_clamped _), fun _ h => nomatch h⟩

theorem compared_eq_bit (x y : Val) (c : Bool) : compared x y c = (Stated.bit (c = true), sigFlag [x, y]) := by
  cases c <;> rfl

theorem rmOf_eq (s : State) : rmOf s = s.me.fflags.toNat % 4 := by
  rfl

/-- A row of two FP sources: the model's instruction has its shape and its result. -/
def MeansFpTwo (e : (Name → Name → Name → Mark → Instr) × (Nat → Val → Val → Word × Nat)) : Prop :=
  ∃ f, (∀ d a b m s, exec (e.1 d a b m) s = fpTwo d a b m f s) ∧ ∀ rm x y, f rm x y = e.2 rm x y

theorem fpTwoSource_means : ∀ e ∈ Stated.fpTwoSource, MeansFpTwo e := by
  simp only [Stated.fpTwoSource, List.forall_mem_cons]
  exact ⟨⟨_, exec_fpFadd, fun _ _ _ => rfl⟩, ⟨_, exec_fpFsub, fun _ _ _ => rfl⟩,
    ⟨_, exec_fpFmul, fun _ _ _ => rfl⟩, ⟨_, exec_fpFmin, fun _ _ _ => rfl⟩,
    ⟨_, exec_fpFmax, fun _ _ _ => rfl⟩, ⟨_, exec_fpFeq, fun _ _ _ => compared_eq_bit _ _ _⟩,
    ⟨_, exec_fpFlt, fun _ _ _ => compared_eq_bit _ _ _⟩, ⟨_, exec_fpFle, fun _ _ _ => compared_eq_bit _ _ _⟩,
    fun _ h => nomatch h⟩

/-- A row of one FP source: the model's instruction is a flagged producer of latency 4 with the row's result. -/
def MeansFpOne (e : (Name → Name → Mark → Instr) × (Nat → Word → Val → Word × Nat)) : Prop :=
  ∃ f : Nat → Word → Flagged, (∀ d a m s, exec (e.1 d a m) s = oneFlagged d a m 4 (f (rmOf s)) s) ∧ ∀ rm x, f rm x = e.2 rm x (fpSrc x)

theorem fpOneSource_means : ∀ e ∈ Stated.fpOneSource, MeansFpOne e := by
  simp only [Stated.fpOneSource, List.forall_mem_cons]
  exact ⟨⟨fun _ x => signOp (fpSrc x) (fpSrc x).abs, fun _ _ _ _ => rfl, fun _ _ => rfl⟩,
    ⟨fun _ x => signOp (fpSrc x) (fpSrc x).neg, fun _ _ _ _ => rfl, fun _ _ => rfl⟩,
    ⟨fun rm x => fpRes rm (.ofInt x.toInt, 0), fun _ _ _ _ => rfl, fun _ _ => rfl⟩,
    ⟨fun rm x => fpRes rm (.ofInt x.toNat, 0), fun _ _ _ _ => rfl, fun _ _ => rfl⟩,
    ⟨fun rm x => toIntFlagged rm minInt64 maxInt64 (fpSrc x), fun _ _ _ _ => rfl, fun _ _ => rfl⟩,
    ⟨fun rm x => toIntFlagged rm 0 18446744073709551615 (fpSrc x), fun _ _ _ _ => rfl, fun _ _ => rfl⟩,
    ⟨fun rm x => fpRes rm (fpSrc x).sqrt, fun _ _ _ _ => rfl, fun _ _ => rfl⟩,
    ⟨fun _ x => (BitVec.ofNat 64 (fclass (x.toNat % 2 ^ 32)), 0), fun _ _ _ _ => rfl, fun _ _ => rfl⟩,
    fun _ h => nomatch h⟩

/-- Settles O5: FP operations of one and of two sources set their flags beside a result of latency 4. -/
theorem scalarFpResults : Obligations.ScalarFpResults := by
  unfold Obligations.ScalarFpResults
  intro s m d a b plain ha hd
  rw [← rmOf_eq]
  refine ⟨fun hb e he => ?two, fun e he => ?one⟩
  case two =>
    obtain ⟨f, hexec, hf⟩ := fpTwoSource_means e he
    exact completes_twoFlagged (hexec d a b m s) plain ha hb hd (hf _ _ _)
  case one =>
    obtain ⟨f, hexec, hf⟩ := fpOneSource_means e he
    exact completes_oneFlagged (hexec d a m s) plain ha hd (hf _ _)

/-! ## Immediates and their prefixes -/

theorem sextNat_bounds (x n : Nat) (hn : n ≠ 0) : -(2 ^ (n - 1)) ≤ sextNat x n ∧ sextNat x n < 2 ^ (n - 1) := by
  have hpow : 2 ^ n = 2 * 2 ^ (n - 1) := by rw [← Nat.pow_succ']; congr 1; omega
  have hmod : x % 2 ^ n < 2 ^ n := Nat.mod_lt _ (Nat.two_pow_pos n)
  have hcast : (2 : Int) ^ (n - 1) = ((2 ^ (n - 1) : Nat) : Int) := by norm_cast
  have hcast' : (2 : Int) ^ n = ((2 ^ n : Nat) : Int) := by norm_cast
  unfold sextNat
  rw [hcast, hcast']
  dsimp only
  split <;> omega

/-- The immediate behind the prefixes is the one the statement writes out. -/
theorem extendImm_eq (s : State) (f w : Nat) (h : s.me.limm.length ≤ 2) : extendImm s.me.limm f w = Stated.immediateOf s f w := by
  unfold Stated.immediateOf
  match hl : s.me.limm with
  | [] => simp [extendImm]
  | [p] => simp [extendImm]
  | [p, q] => simp [extendImm]
  | _ :: _ :: _ :: _ => simp [hl] at h

theorem immWord_eq (s : State) {w : Nat} (i : BitVec w) (h : s.me.limm.length ≤ 2) :
    immWord s i = BitVec.ofInt 64 (Stated.immediateOf s i.toNat w) := by
  rw [immWord, immediate, extendImm_eq s _ _ h]

/-- An immediate of format I is a signed 64-bit value. -/
theorem immWord_toInt (s : State) (i : BitVec 10) (h : s.me.limm.length ≤ 2) :
    (immWord s i).toInt = Stated.immediateOf s i.toNat 10 := by
  have hfits : 22 * s.me.limm.length + 10 - 1 ≤ 63 := by omega
  have hpow : (2 : Int) ^ (22 * s.me.limm.length + 10 - 1) ≤ 2 ^ 63 := by
    exact_mod_cast Nat.pow_le_pow_right (by decide) hfits
  obtain ⟨hlo, hhi⟩ := sextNat_bounds (s.me.limm.foldl (fun acc p => acc * 2 ^ 22 + p) 0 * 2 ^ 10 + i.toNat) (22 * s.me.limm.length + 10) (by omega)
  rw [immWord_eq s i h, ← extendImm_eq s _ _ h, BitVec.toInt_ofInt]
  unfold extendImm
  exact Int.bmod_eq_of_le (by omega) (by omega)

/-- A row of format I: the model's instruction has its shape, and its result behind at most two prefixes. -/
def MeansImm (e : (Name → Name → BitVec 10 → Mark → Instr) × (Word → Int → Word)) : Prop :=
  ∃ f, (∀ d a i m s, exec (e.1 d a i m) s = immForm d a i m f s)
    ∧ ∀ (s : State) x (i : BitVec 10), s.me.limm.length ≤ 2 → f x (immWord s i) = e.2 x (Stated.immediateOf s i.toNat 10)

theorem immediateForms_mean : ∀ e ∈ Stated.immediateForms, MeansImm e := by
  have same (f : Word → Word → Word) (s : State) (x : Word) (i : BitVec 10) (h : s.me.limm.length ≤ 2) :=
    congrArg (f x) (immWord_eq s i h)
  simp only [Stated.immediateForms, List.forall_mem_cons]
  refine ⟨⟨fun x y => x + y, fun _ _ _ _ _ => by rw [exec_addi, execAddi], fun s x i h => ?_⟩,
    ⟨fun x y => x &&& y, fun _ _ _ _ _ => by rw [exec_andi, execAndi], same _⟩,
    ⟨fun x y => x ||| y, fun _ _ _ _ _ => by rw [exec_ori, execOri], same _⟩,
    ⟨fun x y => x ^^^ y, fun _ _ _ _ _ => by rw [exec_xori, execXori], same _⟩,
    ⟨fun x y => Word.ofBool (decide (x.toInt < y.toInt)), fun _ _ _ _ _ => by rw [exec_slti, execSlti], fun s x i h => ?_⟩,
    ⟨fun x y => Word.ofBool (decide (x.toNat < y.toNat)), fun _ _ _ _ _ => by rw [exec_sltiu, execSltiu], fun s x i h => ?_⟩,
    fun _ h => nomatch h⟩
  · exact (ofInt_toInt_add x _).trans (by rw [immWord_toInt s i h])
  · exact (ofBool_eq_bit _).trans (by rw [immWord_toInt s i h])
  · exact (ofBool_eq_bit _).trans (by rw [immWord_eq s i h])

theorem completes_movi {s : State} {d : Name} {m : Mark} (j : BitVec 16) (fits : Fits s 4) (hd : writable d = true) :
    Completes (.movi d j m) m s (wr s d (immWord s j) 1) .next := by
  rw [Completes, exec_movi]
  simp [execMovi, begin_fits fits, dst_ok hd, fall, bind, Except.bind, issue_ok]

/-- Settles O6: each form takes its immediate behind the prefixes; a prefix adds its payload. -/
theorem immediateForms : Obligations.ImmediateForms := by
  unfold Obligations.ImmediateForms
  intro s m d a i j p hlimm fits
  refine ⟨fun hd => ⟨fun ha e he => ?rows, ?movi⟩, fun hlt hloops hpc => ?limm⟩
  case rows =>
    obtain ⟨f, hexec, hf⟩ := immediateForms_mean e he
    rw [Completes, hexec, immForm_ok fits ha hd, hf s _ i hlimm]
  case movi => exact immWord_eq s j hlimm ▸ completes_movi j fits hd
  case limm =>
    rw [exec_limm, execLimm]
    dsimp only
    rw [if_pos]
    · have hme (c : Ctx) : State.me { (s.setMe c) with limmOpen := some s.cur, free := s.free + 1 } = c :=
        (me_congr rfl rfl).trans (me_setMe s c)
      exact ⟨_, rfl, by rw [hme], by rw [hme], rfl, rfl, by rw [hme], by rw [hme]⟩
    · refine ⟨hlt, ?_, by omega⟩
      cases hl : s.me.loops with
      | nil => rfl
      | cons t l =>
        obtain ⟨h2, h4⟩ := hloops t (by simp [hl])
        simp [h2, h4]

/-! ## Transfers -/

theorem transfer_ok {t : Int} (hlo : 0 ≤ t) (hhi : t < 0x20000) : transfer t = .ok t.toNat := by
  rw [transfer, if_neg (by omega)]

theorem transfer_outside {t : Int} (h : t < 0 ∨ 0x20000 ≤ t) : transfer t = raise .illop 0 := by
  rw [transfer, if_pos h]

theorem jumpTo_ok {s : State} {t : Word} (heven : t.toNat % 2 = 0) (hhi : t.toNat < 0x20000) :
    jumpTo s t = .ok (s, .jump t.toNat) := by
  rw [jumpTo, if_neg (by omega), transfer_ok (by omega) (by omega)]
  rfl

theorem jumpTo_odd {s : State} {t : Word} (hodd : t.toNat % 2 = 1) : jumpTo s t = raise .align t := by
  rw [jumpTo, if_pos hodd]

theorem jumpTo_outside {s : State} {t : Word} (heven : t.toNat % 2 = 0) (hhi : 0x20000 ≤ t.toNat) : jumpTo s t = raise .illop 0 := by
  rw [jumpTo, if_neg (by omega), transfer_outside (by omega)]
  rfl

/-- An instruction of plain form that has an effect completes with it. -/
theorem completes_issue32 {i : Instr} {s t : State} {m : Mark} {r : Res} {fl : Flow} (hexec : exec i s = issue32 m s r)
    (plain : Plain s 4) (hr : r = .ok (t, fl)) : Completes i m s t fl := by
  rw [Completes, hexec, issue32_plain m r plain, hr, issue_ok]

/-- One that raises a cause traps. -/
theorem traps_issue32 {i : Instr} {s : State} {m : Mark} {r : Res} {c : Cause} {arg : Word} (hexec : exec i s = issue32 m s r)
    (plain : Plain s 4) (hr : r = raise c arg) : Traps i s c arg := by
  rw [Traps, hexec, issue32_plain m r plain, hr, issue_trap]

/-! ## Branches -/

/-- A row of the branches: the model's instruction is a branch on the row's condition. -/
def MeansBranch (e : (Name → Name → BitVec 10 → Mark → Instr) × (Word → Word → Bool)) : Prop :=
  ∃ f, (∀ a b o m s, exec (e.1 a b o m) s = branch a b o m f s) ∧ ∀ x y, f x y = e.2 x y

theorem branches_mean : ∀ e ∈ Stated.branches, MeansBranch e := by
  simp only [Stated.branches, List.forall_mem_cons]
  exact ⟨⟨_, exec_beq, beq_eq_decide⟩, ⟨_, exec_bne, bne_eq_not_decide⟩, ⟨_, exec_blt, fun _ _ => rfl⟩, ⟨_, exec_bge, fun _ _ => rfl⟩,
    ⟨_, exec_bltu, fun _ _ => rfl⟩, ⟨_, exec_bgeu, fun _ _ => rfl⟩, fun _ h => nomatch h⟩

/-- A branch has the effect of its condition. -/
theorem exec_branch {e : (Name → Name → BitVec 10 → Mark → Instr) × (Word → Word → Bool)} (he : e ∈ Stated.branches) {s : State}
    {a b : Name} (o : BitVec 10) (m : Mark) (plain : Plain s 4) (ha : Sound s a) (hb : Sound s b) :
    exec (e.1 a b o m) s = issue 4 m.g.val m.s s (branchIf (e.2 (value s 0 a) (value s 1 b)) s o.toInt) := by
  obtain ⟨f, hexec, hf⟩ := branches_mean e he
  rw [hexec, branch_ok plain ha hb, hf]

/-! ## `ctl.jr` and `ctl.ret` -/

theorem exec_ctlJr_plain {s : State} {a : Name} (m : Mark) (ha : Sound s a) :
    exec (.ctlJr a m) s = issue32 m s (jumpTo s (value s 0 a)) := by
  rw [exec_ctlJr]
  simp [execCtlJr, srcs, need, ha.1, rd_clean ha.2, bind, Except.bind]

theorem exec_ctlRet_plain {s : State} (m : Mark) (hclean : Clean s (.s 31)) :
    exec (.ctlRet m) s = issue32 m s (jumpTo s (value s 0 (.s 31))) := by
  rw [exec_ctlRet]
  simp [execCtlRet, returnTo, rd_clean hclean, bind, Except.bind]

/-- Settles O7: a branch comes to its condition and its target, a jump to the checks of its target. -/
theorem branchesAndTransferTraps : Obligations.BranchesAndTransferTraps := by
  unfold Obligations.BranchesAndTransferTraps
  refine ⟨fun e he s m a b o plain ha hb => ⟨fun hcond => ?through, fun hcond hlo hhi => ?taken⟩, fun s m plain => ⟨fun o hout => ⟨?jmp, ?call⟩,
    fun e he a b o ha hb hcond hout => ?branch, fun a ha heven hhi => ?_, fun a ha hodd => ?_, fun hclean => ⟨fun heven hhi => ?_, fun hodd => ?_⟩⟩⟩
  case through => rw [Completes, exec_branch he o m plain ha hb, hcond]; rfl
  case taken =>
    rw [Completes, exec_branch he o m plain ha hb, hcond, branchIf, if_pos rfl, target, transfer_ok hlo hhi]
    rfl
  case branch =>
    rw [Traps, exec_branch he o m plain ha hb, hcond, branchIf, if_pos rfl, target, transfer_outside hout]
    rfl
  case jmp => exact traps_issue32 (exec_jmp o m s) plain (by rw [target, transfer_outside hout]; rfl)
  case call => exact traps_issue32 (exec_call o m s) plain (by rw [target, transfer_outside hout]; rfl)
  · exact traps_issue32 (exec_ctlJr_plain m ha) plain (jumpTo_outside heven hhi)
  · exact traps_issue32 (exec_ctlJr_plain m ha) plain (jumpTo_odd hodd)
  · exact traps_issue32 (exec_ctlRet_plain m hclean) plain (jumpTo_outside heven hhi)
  · exact traps_issue32 (exec_ctlRet_plain m hclean) plain (jumpTo_odd hodd)

/-- What a `call` writes beside its jump: s31 holds the link, and its history and its loops stand. -/
theorem writeLink_me (s : State) (v : Word) : (writeLink s v).me.s = s.me.s.set 31 v ∧ (writeLink s v).me.hptr = s.me.hptr
    ∧ (writeLink s v).me.hist = s.me.hist ∧ (writeLink s v).me.loops = s.me.loops := by
  have hme : (writeLink s v).me = { s.me with
      pend := s.me.pend.map (fun (p : Pending) => p.overtaken (.s 31 0) (s.clk + 1)), s := s.me.s.set 31 v,
      ecc := s.me.ecc.filter (· != 31) } := by
    unfold writeLink State.landed
    simp only [if_true]
    split
    · exact (me_congr rfl rfl).trans (me_setMe s _)
    · exact me_setMe s _
  rw [hme]
  exact ⟨rfl, rfl, rfl, rfl⟩

/-- Settles O8: each transfer of a target in the code space completes. -/
theorem jumpsAndCalls : Obligations.JumpsAndCalls := by
  unfold Obligations.JumpsAndCalls
  intro s m plain
  refine ⟨?jumps, fun a ha heven hhi => ?jr, fun ha heven hhi => ?ret⟩
  case jumps =>
    intro o t hlo hhi
    exact ⟨completes_issue32 (exec_jmp o m s) plain (by rw [target, transfer_ok hlo hhi]; rfl),
      _, completes_issue32 (exec_call o m s) plain (by rw [target, transfer_ok hlo hhi]; rfl), writeLink_me s _⟩
  case jr => exact completes_issue32 (exec_ctlJr_plain m ha) plain (jumpTo_ok heven hhi)
  case ret => exact completes_issue32 (exec_ctlRet_plain m ha.2) plain (jumpTo_ok heven hhi)

/-! ## The end of a task -/

/-- Where nothing of it is outstanding, a context that is ending is free once it is released, and its weight has gone home. -/
theorem release_of_ending {s : State} {c : Ctx} (hc : s.ctxs.get? s.cur = some c) (houts : c.outs = []) (hdying : c.dying = false)
    (hend : c.ending = true) (hfault : c.startFault = none) : s.release s.cur = s.finishTask s.cur := by
  simp [State.release, hc, Ctx.busy, houts, hdying, hend, hfault]

/-- A context with something outstanding is not released. -/
theorem release_of_busy {s : State} {key : Nat} {c : Ctx} (hc : s.ctxs.get? key = some c) (houts : c.outs ≠ []) : s.release key = s := by
  simp [State.release, hc, Ctx.busy, houts]

/-- A key without a context has nothing to release. -/
theorem release_of_none {s : State} {key : Nat} (hc : s.ctxs.get? key = none) : s.release key = s := by
  simp [State.release, hc]

theorem sweepDiscards_keeps {α : Type} (proj : State → α) (h : ∀ (s : State) (n : Nat) (j : Job), proj (s.setJob n j) = proj s) (s : State)
    (job : Nat) : proj (s.sweepDiscards job) = proj s := by
  unfold State.sweepDiscards
  split
  · rfl
  · split
    · rfl
    · exact h s job _

theorem finishTask_ctxs {s : State} {key : Nat} {c : Ctx} (hc : s.ctxs.get? key = some c) :
    (s.finishTask key).ctxs.get? key = none := by
  simp only [State.finishTask, hc]
  rw [sweepDiscards_keeps State.ctxs fun _ _ _ => rfl, State.pod_ctxs]
  exact get?_del _ _

/-- The weight of a task that ends leaves for its home. -/
theorem finishTask_posts {s : State} {key : Nat} {c : Ctx} {j : Job} (hc : s.ctxs.get? key = some c) (hj : s.job? c.job = some j)
    (hcensus : j.census = none) (hw : c.wt ≠ 0) :
    Stated.Posts (s.finishTask key) (.ni (tileOf (coreOf key))) (.unit j.die) (.pod c.job c.wt false false) := by
  have sent (u : State) (hu : u.jobs = s.jobs) : u.pod (.ni (tileOf (coreOf key))) c.job c.wt false false
      = u.post .weight (.ni (tileOf (coreOf key))) (.unit j.die) c.job 1 0 [] (.pod c.job c.wt false false) :=
    pod_of_not_marked (by rw [State.job?, hu]; exact hj) hw (fun ⟨x, hx, _⟩ => by simp [hcensus] at hx)
  unfold Stated.Posts
  simp only [State.finishTask, hc]
  rw [sweepDiscards_keeps State.packets fun _ _ _ => rfl, sent _ (by rfl)]
  exact ⟨_, List.getLast?_concat .., rfl, rfl, rfl, rfl⟩

/-- The issuing context once an instruction has retired in it. -/
theorem retire_me {s : State} {c : Ctx} (len gap : Nat) (mark : Bool) (fl : Flow) (hc : s.ctxs.get? s.cur = some c) :
    (s.retire len gap mark fl).ctxs.get? s.cur = some (c.advance s.clk len gap mark fl) := by
  simp [State.retire, hc]

/-- The context that the end of a task leaves, before it is released. -/
def endedCtx (s : State) (len gap : Nat) (mark : Bool) : Ctx := { s.me with ending := true }.advance s.clk len gap mark .next

theorem ending_retired (s : State) (len gap : Nat) (mark : Bool) :
    ((ending s).retire len gap mark .next).ctxs.get? s.cur = some (endedCtx s len gap mark) :=
  retire_me (s := ending s) len gap mark .next (Map.get?_set_self _ _ _)

theorem exec_ctlEnd_plain {s : State} (m : Mark) (plain : Plain s 4) :
    exec (.ctlEnd m) s = .next ((after s (ending s) 4 m.g.val m.s .next).release s.cur) := by
  rw [exec_ctlEnd, execCtlEnd, issue32_plain m _ plain]
  rfl

/-- With nothing outstanding the context of an ending task is released at once. -/
theorem after_ending_release {s : State} (len gap : Nat) (mark : Bool) (houts : s.me.outs = []) (hdying : s.me.dying = false)
    (hfault : s.me.startFault = none) :
    (after s (ending s) len gap mark .next).release s.cur = ((ending s).retire len gap mark .next).finishTask s.cur := by
  have hctxs := ending_retired s len gap mark
  have hfinish : ((ending s).retire len gap mark .next).release s.cur = ((ending s).retire len gap mark .next).finishTask s.cur :=
    release_of_ending hctxs houts hdying rfl hfault
  cases mark with
  | false => exact hfinish
  | true =>
    simp only [after, if_true, hfinish]
    exact release_of_none (finishTask_ctxs hctxs)

/-- With something outstanding it stays. -/
theorem after_ending_busy {s : State} (len gap : Nat) (mark : Bool) (houts : s.me.outs ≠ []) :
    (after s (ending s) len gap mark .next).release s.cur = (ending s).retire len gap mark .next := by
  have hkeep : ((ending s).retire len gap mark .next).release s.cur = (ending s).retire len gap mark .next :=
    release_of_busy (ending_retired s len gap mark) houts
  unfold after
  split <;> simp only [hkeep]

/-- A task that ends with nothing outstanding has ended at once. -/
theorem ended_of_ending {s : State} (len gap : Nat) (mark : Bool) (houts : s.me.outs = []) (hdying : s.me.dying = false)
    (hfault : s.me.startFault = none) : Stated.Ended s ((after s (ending s) len gap mark .next).release s.cur) := by
  rw [after_ending_release len gap mark houts hdying hfault]
  exact ⟨finishTask_ctxs (ending_retired s len gap mark), fun j hj hcensus hw =>
    finishTask_posts (c := endedCtx s len gap mark) (ending_retired s len gap mark) hj hcensus hw⟩

/-- One with something outstanding is ending. -/
theorem ending_of_busy {s : State} (len gap : Nat) (mark : Bool) (houts : s.me.outs ≠ []) :
    ((after s (ending s) len gap mark .next).release s.cur).me = endedCtx s len gap mark := by
  rw [after_ending_busy len gap mark houts]
  exact me_of_get? (s := (ending s).retire len gap mark .next) (ending_retired s len gap mark)

/-- Settles O9: each function has its effect; `ctl.end` retires an ending context and releases it. -/
theorem controlFunctions : Obligations.ControlFunctions := by
  unfold Obligations.ControlFunctions
  intro s m plain
  refine ⟨completes_issue32 (exec_ctlNop m s) plain rfl, fun a ha => ?trap, fun hfault hdying => ⟨fun houts => ?ended, fun houts => ?ending⟩,
    fun a i ha => ?loop, ?none⟩
  case trap =>
    exact traps_issue32 (exec_ctlTrap a m s) plain (by simp [srcs, need, ha.1, rd_clean ha.2, bind, Except.bind])
  case ended => exact ⟨_, exec_ctlEnd_plain m plain, ended_of_ending 4 m.g.val m.s houts hdying hfault⟩
  case ending =>
    refine ⟨_, exec_ctlEnd_plain m plain, ?_⟩
    rw [ending_of_busy 4 m.g.val m.s houts]
    exact ⟨rfl, rfl, rfl⟩
  case loop =>
    have hloop : exec (.loop a i m) s = issue32 m s (if value s 0 a = 0 then .ok (s, .skip (s.me.pc + 4 + 2 * i.toNat)) else do
        need (decide (s.me.loops.length < 2)) .illop
        .ok (s.setMe { s.me with loops := ⟨s.me.pc + 4, s.me.pc + 4 + 2 * i.toNat, (value s 0 a).toNat⟩ :: s.me.loops },
          .enter (s.me.pc + 4))) := by
      rw [exec_loop]
      simp [execLoop, srcs, need, ha.1, rd_clean ha.2, bind, Except.bind]
    have nonzero (hn : (value s 0 a).toNat ≠ 0) : value s 0 a ≠ 0 := fun e => hn (by rw [e]; rfl)
    refine ⟨fun hn => completes_issue32 hloop plain (if_pos (BitVec.eq_of_toNat_eq hn)), fun hn hlt => ?_, fun hn hge => ?_⟩
    · exact completes_issue32 hloop plain (by rw [if_neg (nonzero hn), need, decide_eq_true hlt]; rfl)
    · exact traps_issue32 hloop plain (by rw [if_neg (nonzero hn), need, decide_eq_false (by omega)]; rfl)
  case none => exact exec_notAnInstruction s

end Sys2Proof.Laws
end

section
/-! Results of fixed latency, and what an instruction that completes leaves (R18, R24, R26 to R28, R30, R99 to R105). -/

namespace Sys2Proof.Laws
open Sys2Proof.Machine Sys2Proof.Safety

/-! ## Results of fixed latency -/

@[simp] theorem choose_nil {α : Type} (s : State) (place : Nat) (x : α) : choose s place x [] = x := rfl

/-- With one value pending, a read obtains that or the old one. -/
theorem choose_one {α : Type} (s : State) (place : Nat) (x y : α) : choose s place x [y] = x ∨ choose s place x [y] = y := by
  have hmod : Config.pick s.free place % 2 < 2 := Nat.mod_lt _ (by decide)
  show ([x, y].getD (Config.pick s.free place % 2) x) = x ∨ ([x, y].getD (Config.pick s.free place % 2) x) = y
  rcases (by omega : Config.pick s.free place % 2 = 0 ∨ Config.pick s.free place % 2 = 1) with h | h <;> rw [h]
  · exact .inl rfl
  · exact .inr rfl

theorem value_s_settled {s : State} (h : s.me.pend = []) (p : Nat) (n : Fin 32) : value s p (.s n) = s.me.s[n] := by
  simp [value, readS, pendingS, h, List.getD]

theorem value_d_settled {s : State} (h : s.me.pend = []) (p : Nat) (n : Fin 8) :
    value s p (.d n) = s.me.hist.toList.getD (histPlace s.me (n.val + 1)) 0 := by
  simp [value, readH, pendingH, h]

/-- A producer's entry is d1 after it, and the entries before it have moved up one place (R24). -/
theorem value_d_after_entry {s t : State} {v : Word} (hs : s.me.pend = []) (ht : t.me.pend = []) (hptr : t.me.hptr = s.me.hptr + 1)
    (hist : t.me.hist = s.me.hist.set s.me.hptr v) (p : Nat) :
    value t p (.d 0) = v ∧ ∀ i : Fin 8, i.val < 7 → value t p (.d (i + 1)) = value s p (.d i) := by
  have hlt := s.me.hptr.isLt
  have hplace (k : Nat) (hk : k < 8) : histPlace t.me (k + 1) = (s.me.hptr.val + 8 - k) % 8 := by
    simp only [histPlace, hptr, Fin.val_add]
    omega
  have hzero : histPlace t.me ((0 : Fin 8).val + 1) = s.me.hptr.val := (hplace 0 (by decide)).trans (by omega)
  refine ⟨?_, fun i hi => ?_⟩
  · rw [value_d_settled ht, hist, hzero]
    simp [List.getD]
  · have hsucc : (i + 1).val = i.val + 1 := by rw [Fin.val_add]; omega
    have hne : s.me.hptr.val ≠ (s.me.hptr.val + 8 - (i.val + 1)) % 8 := by omega
    rw [value_d_settled ht, value_d_settled hs, hist, hsucc, hplace _ (by omega), histPlace, Vector.toList_set, List.getD, List.getD,
      List.getElem?_set_ne hne]

/-- An s-register that was written holds the new value, and the others theirs. -/
theorem value_s_after_write {s t : State} {v : Word} {n : Fin 32} (hs : s.me.pend = []) (ht : t.me.pend = [])
    (hregs : t.me.s = s.me.s.set n v) (p : Nat) : value t p (.s n) = v ∧ ∀ k : Fin 32, k ≠ n → value t p (.s k) = value s p (.s k) := by
  refine ⟨by rw [value_s_settled ht, hregs]; simp, fun k hk => ?_⟩
  have hne : n.val ≠ k.val := fun e => hk (Fin.ext e.symm)
  rw [value_s_settled ht, value_s_settled hs, hregs]
  simp [hne]

theorem me_wr_at_once {s : State} {d : Name} {t : Target} (h : targetOf s.me d = some t) (v : Word) :
    (wr s d v 1).me = putNow s t v 1 := by
  rw [wr_at_once h v (Nat.le_refl 1), landed_zero_eq]
  exact (me_congr rfl rfl).trans (me_setMe s _)

theorem me_wr_pending {s : State} {d : Name} {t : Target} (h : targetOf s.me d = some t) (v : Word) {l : Nat} (hl : 2 ≤ l) :
    (wr s d v l).me = putLater s t v l := by
  rw [wr_pending h v (by omega)]
  exact me_setMe s _

/-- A context's only pending result, once its clk has come: it stands in its place. -/
theorem settle_due {s : State} {c : Ctx} {t : Target} {v due : Nat} (hpend : c.pend = [⟨due, t, v, 0, false, false⟩]) (hdue : due ≤ s.clk) :
    c.settle s = { c.put t v with pend := [] } := by
  have hkeeps : Pending.keeps ⟨due, t, v, 0, false, false⟩ = [] := by cases t <;> rfl
  have hfilter : c.pend.filter (fun p => p.op == 0 && decide (p.due ≤ s.clk)) = c.pend := by simp [hpend, hdue]
  have hnone : c.pend.filter (fun p => !(p.op == 0 && decide (p.due ≤ s.clk))) = [] := by simp [hpend, hdue]
  simp only [Ctx.settle, hfilter, hnone]
  simp [hpend, insertByDue, settleList, hkeeps, landValue_of_no_keeps]

/-- A context presented with its only pending result not yet due has its registers as they were. -/
theorem present_early {s : State} {key : Nat} {c : Ctx} (hc : s.ctxs.get? key = some c) (hpend : ∀ p ∈ c.pend, s.clk < p.due) :
    (present s key).me = { c with parked := false } := by
  have hfilter : c.pend.filter (fun p => p.op == 0 && decide (p.due ≤ s.clk)) = [] := by
    simp only [List.filter_eq_nil_iff]
    intro p hp
    have := hpend p hp
    simp; omega
  have hsettle : ({ s with cur := key } : State).settleAt key = { s with cur := key } := by
    simp only [State.settleAt, hc, hfilter]
  rw [present, hsettle]
  simp [State.updCtx, hc, State.me, Map.getD]

/-- A context presented with its only pending result due has it in its place. -/
theorem present_due {s : State} {key : Nat} {c : Ctx} {t : Target} {v due : Nat} (hc : s.ctxs.get? key = some c)
    (hpend : c.pend = [⟨due, t, v, 0, false, false⟩]) (hdue : due ≤ s.clk) :
    (present s key).me = { c.put t v with pend := [], parked := false } := by
  have hfilter : c.pend.filter (fun p => p.op == 0 && decide (p.due ≤ s.clk)) = [⟨due, t, v, 0, false, false⟩] := by simp [hpend, hdue]
  have hsettle : ∃ os, ({ s with cur := key } : State).settleAt key
      = { s with cur := key, ctxs := s.ctxs.set key { c.put t v with pend := [] }, ops := os } := by
    simp only [State.settleAt, hc, hfilter]
    rw [landed_zero_eq, settle_due (s := { s with cur := key }) hpend hdue]
    exact ⟨_, rfl⟩
  obtain ⟨os, hos⟩ := hsettle
  rw [present, hos]
  simp [State.updCtx, State.me, Map.getD]

/-- Settles O44: the context after the write, and once it is presented, by the writes of its registers and of its history. -/
theorem fixedLatencyResults : Obligations.FixedLatencyResults := by
  unfold Obligations.FixedLatencyResults
  intro s c v n hc hpend hops
  have hme : s.me = c := me_of_get? hc
  subst hme
  refine ⟨?once, ?history, fun L => rfl, fun L k hL => ?later⟩
  case once =>
    intro t
    have ht : t.me = putNow s (.s n s.me.hptr) v 1 := me_wr_at_once rfl v
    have hnone : t.me.pend = [] := by rw [ht]; exact congrArg (List.map _) hpend
    have hregs := fun p => value_s_after_write (n := n) (v := v) hpend hnone (by rw [ht]; simp [putNow, Ctx.put, Ctx.takeEntry]) p
    have hhist := fun p => value_d_after_entry (v := v) hpend hnone (by rw [ht]; rfl) (by rw [ht]; simp [putNow, Ctx.put, Ctx.takeEntry]) p
    exact ⟨fun p => ⟨(hregs p).1, (hhist p).1⟩, fun p => (hregs p).2, fun p => (hhist p).2⟩
  case history =>
    intro t
    have ht : t.me = putNow s (.h s.me.hptr) v 1 := me_wr_at_once rfl v
    have hnone : t.me.pend = [] := by rw [ht]; exact congrArg (List.map _) hpend
    have hhist := fun p => value_d_after_entry (v := v) hpend hnone (by rw [ht]; rfl) (by rw [ht]; simp [putNow, Ctx.put, Ctx.takeEntry]) p
    exact ⟨by rw [ht]; rfl, fun p => (hhist p).1, fun p => (hhist p).2⟩
  case later =>
    intro t u
    have ht : t.me = putLater s (.s n s.me.hptr) v L := me_wr_pending rfl v hL
    have hpending : t.me.pend = [⟨s.clk + L, .s n s.me.hptr, v.toNat, 0, false, false⟩] := by rw [ht, putLater, hpend]; rfl
    have hctx : t.ctxs.get? s.cur = some t.me := by
      rw [ht]
      exact (congrArg (fun x => State.ctxs x |>.get? s.cur) (wr_pending rfl v (by omega))).trans (Map.get?_set_self _ _ _)
    refine ⟨fun p => ⟨?_, fun m hm => ?_⟩, fun hdue => ?_, fun hnot => ?_⟩
    · have hregs : t.me.s = s.me.s := by rw [ht]; rfl
      have := choose_one t p (s.me.s.toList.getD n.val 0) v
      simpa [value, readS, pendingS, hpending, hregs, hpend] using this
    · have hregs : t.me.s = s.me.s := by rw [ht]; rfl
      have hne : n.val ≠ m.val := fun e => hm (Fin.ext e.symm)
      simp [value, readS, pendingS, hpending, hregs, hpend, hne]
    · have hu : u.me = { t.me.put (.s n s.me.hptr) v.toNat with pend := [], parked := false } :=
        present_due (s := { t with clk := k }) hctx hpending hdue
      have hnone : u.me.pend = [] := by rw [hu]
      intro p
      have hregs := value_s_after_write (n := n) (v := v) hpend hnone (by rw [hu, ht]; simp [putLater, Ctx.put]) p
      have hhist := value_d_after_entry (v := v) hpend hnone (by rw [hu, ht]; rfl) (by rw [hu, ht]; simp [putLater, Ctx.put]) p
      exact ⟨hregs.1, hhist.1, hregs.2, hhist.2⟩
    · have hu : u.me = { t.me with parked := false } := by
        refine present_early (s := { t with clk := k }) hctx ?_
        simpa [hpending] using hnot
      rw [hu, ht]
      exact ⟨rfl, rfl⟩

/-! ## What an instruction that completes leaves -/

theorem me_retire {t : State} (len gap : Nat) (mark : Bool) (fl : Flow) (h : t.ctxs.get? t.cur ≠ none) :
    (t.retire len gap mark fl).me = t.me.advance t.clk len gap mark fl := by
  obtain ⟨c, hc⟩ := Option.ne_none_iff_exists'.mp h
  rw [me_of_get? hc]
  exact me_of_get? (s := t.retire len gap mark fl) (retire_me len gap mark fl hc)

/-- What an advance leaves alone, whatever the flow. -/
theorem advance_keeps (c : Ctx) (clk len gap : Nat) (mark : Bool) (fl : Flow) :
    (c.advance clk len gap mark fl).limm = [] ∧ (c.advance clk len gap mark fl).parked = mark ∧ (c.advance clk len gap mark fl).s = c.s
      ∧ (c.advance clk len gap mark fl).fflags = c.fflags ∧ (c.advance clk len gap mark fl).wt = c.wt
      ∧ (c.advance clk len gap mark fl).segOff = (if mark then 0 else c.segOff + 1) := by
  cases fl <;> exact ⟨rfl, rfl, rfl, rfl, rfl, rfl⟩

/-- The loop check where the innermost loop does not end at the fall-through address. -/
theorem loopCheck_of_ne {f : Nat} {l : Loop} (rest : List Loop) (h : l.stop ≠ f) : loopCheck f (l :: rest) = (l :: rest, f) := by
  rw [loopCheck, if_neg (Ne.symm h)]

/-- Where it ends there and goes round again. -/
theorem loopCheck_again {f : Nat} {l : Loop} (rest : List Loop) (h : l.stop = f) (hcount : 1 < l.count) :
    loopCheck f (l :: rest) = ({ l with count := l.count - 1 } :: rest, l.start) := by
  rw [loopCheck, if_pos h.symm, if_pos hcount]

/-- Where it ends there for the last time. -/
theorem loopCheck_last {f : Nat} {l : Loop} (rest : List Loop) (h : l.stop = f) (hcount : l.count ≤ 1) :
    loopCheck f (l :: rest) = loopCheck f rest := by
  rw [loopCheck, if_pos h.symm, if_neg (by omega)]

theorem loopPop_eq_dropWhile (a : Nat) (l : List Loop) :
    loopPop a l = l.dropWhile (fun l => !(decide (l.start ≤ a) && decide (a < l.stop))) := by
  induction l with
  | nil => rfl
  | cons e rest ih =>
    rw [loopPop, List.dropWhile_cons, ih]
    by_cases h : e.start ≤ a ∧ a < e.stop
    · simp [h]
    · have hnot : (decide (e.start ≤ a) && decide (a < e.stop)) = false := by simpa using h
      simp [h, hnot]

theorem fflags_me_setFlags (t : State) (bits : Nat) : (setFlags t bits).me.fflags = t.me.fflags ||| BitVec.ofNat 64 bits := by
  unfold setFlags
  split
  case isTrue h => subst h; simp
  case isFalse h => rw [me_setMe]

/-- Settles O45: the context of an instruction that completes is advanced by its flow; flags are added to those that stand. -/
theorem retiringAndFlags : Obligations.RetiringAndFlags := by
  unfold Obligations.RetiringAndFlags
  intro t len gap mark h c f
  refine ⟨fun fl => ?all, ?next, fun a => ?jump, fun a => ?callTo, fun a => ?enter, fun a => ?skip, fflags_me_setFlags t⟩
  case all =>
    intro u
    obtain ⟨hlimm, hparked, hs, hfflags, hwt, hseg⟩ := advance_keeps t.me t.clk len gap mark fl
    have hme : u.me = t.me.advance t.clk len gap mark fl := me_retire len gap mark fl h
    rw [hme]
    refine ⟨hlimm, hparked, rfl, rfl, hs, hfflags, hwt, hseg, fun k hk => ?_⟩
    obtain ⟨c, hc⟩ := Option.ne_none_iff_exists'.mp h
    simp [u, State.retire, hc, Map.get?_set_of_ne _ _ _ _ hk]
  case next =>
    intro u
    have hme : u.me = t.me.advance t.clk len gap mark .next := me_retire len gap mark .next h
    have hpc : u.me.pc = (loopCheck f c.loops).2 := by rw [hme]; rfl
    have hloops : u.me.loops = (loopCheck f c.loops).1 := by rw [hme]; rfl
    refine ⟨by rw [hme]; rfl, fun hl => ?_, fun l rest hl hne => ?_, fun l rest hl hstop hcount => ?_, fun l hl hstop hcount => ?_,
      fun l r hl hstop hcount hstop' hcount' => ?_⟩ <;> rw [hpc, hloops, hl]
    · exact ⟨rfl, rfl⟩
    · rw [loopCheck_of_ne rest hne]; exact ⟨rfl, rfl⟩
    · rw [loopCheck_again rest hstop hcount]; exact ⟨rfl, rfl⟩
    · rw [loopCheck_last [] hstop hcount]; exact ⟨rfl, rfl⟩
    · rw [loopCheck_last [r] hstop hcount, loopCheck_again [] hstop' hcount']; exact ⟨rfl, rfl⟩
  case jump =>
    intro u
    have hme : u.me = t.me.advance t.clk len gap mark (.jump a) := me_retire len gap mark (.jump a) h
    rw [hme]
    exact ⟨rfl, rfl, loopPop_eq_dropWhile a c.loops⟩
  case callTo => rw [me_retire len gap mark (.callTo a) h]; exact ⟨rfl, rfl, rfl⟩
  case enter => rw [me_retire len gap mark (.enter a) h]; exact ⟨rfl, rfl, rfl⟩
  case skip => rw [me_retire len gap mark (.skip a) h]; exact ⟨rfl, rfl, rfl⟩

end Sys2Proof.Laws
end

section
/-! Local memory and scratchpad scalars: the checks of an address, what a load and a store come to, and what the banks grant (R106 to R109, R156). -/

namespace Sys2Proof.Laws
open Sys2Proof.Machine Sys2Proof.Safety

/-! ## Addresses and their checks -/

theorem effective_eq_address (s : State) (base : Word) (o : BitVec 6) (z : Size) (h : s.me.limm.length ≤ 2) :
    effective s base o z = Stated.address s base o z := by
  rw [effective, immediate, extendImm_eq s _ _ h, Stated.address, sizeOf_]
  norm_cast

theorem extend_eq_loaded (x : Bool) (size v : Nat) : extend x size v = Stated.loaded x size v := rfl

theorem checkLocal_ok {top size : Nat} {ea : Int} (hlo : 0 ≤ ea) (hhi : ea + size ≤ top) (halign : ea % size = 0) :
    checkLocal top ea size = .ok ea.toNat := by
  rw [checkLocal, if_neg (by omega), if_neg (by omega)]

theorem checkLocal_outside {top size : Nat} {ea : Int} (h : ea < 0 ∨ (top : Int) < ea + size) : checkLocal top ea size = raise .laddr (argOf ea) := by
  rw [checkLocal, if_pos h]
  rfl

theorem checkLocal_misaligned {top size : Nat} {ea : Int} (hlo : 0 ≤ ea) (hhi : ea + size ≤ top) (halign : ea % size ≠ 0) :
    checkLocal top ea size = raise .align (argOf ea) := by
  rw [checkLocal, if_neg (by omega), if_pos halign]
  rfl

/-- A byte of a number's bytes. -/
theorem bytesOfNat_getElem? (v n i : Nat) (h : i < n) : (bytesOfNat v n)[i]? = some (BitVec.ofNat 8 (v / 256 ^ i)) := by
  induction n generalizing v i with
  | zero => omega
  | succ n ih =>
    cases i with
    | zero => simp [bytesOfNat]
    | succ i => simp [bytesOfNat, ih (v / 256) i (by omega), Nat.div_div_eq_div_mul, Nat.pow_succ, Nat.mul_comm]

/-! ## Local memory -/

/-- A read with no write unseen reads memory itself. -/
theorem readBytes_of_no_writes {s : State} (h : s.writes = []) (r : Reader) (sp : Space) (a n place : Nat) :
    s.readBytes r sp a n place = (s.mem sp).read a n := by
  simp [State.readBytes, unboundWrites, h]

/-- A load or a store of format M: its base is read, and its access follows. -/
theorem exec_ldl_fits {s : State} {d a : Name} (o : BitVec 6) (z : Size) (x q : Bool) (m : Mark) (hlimm : s.me.limm.length ≤ 2)
    (fits : Fits s 4) (ha : Sound s a) (hd : writable d = true) : exec (.ldl d a o z x q m) s
      = issue 4 m.g.val (m.s || s.me.precise) s (loadLocal d (Stated.address s (value s 0 a) o z) (2 ^ z.code) x q s) := by
  rw [exec_ldl, ← effective_eq_address s _ o z hlimm]
  simp [execLdl, begin_fits fits, srcs, need, ha.1, dst_ok hd, rd_clean ha.2, bind, Except.bind, sizeOf_]

theorem exec_stl_fits {s : State} {d a : Name} (o : BitVec 6) (z : Size) (q : Bool) (m : Mark) (hlimm : s.me.limm.length ≤ 2)
    (fits : Fits s 4) (ha : Sound s a) (hd : updatable d = true) : exec (.stl d a o z q m) s
      = issue 4 m.g.val m.s s (storeLocal d (Stated.address s (value s 0 a) o z) (2 ^ z.code) q s) := by
  rw [exec_stl, ← effective_eq_address s _ o z hlimm]
  simp [execStl, begin_fits fits, srcs, need, ha.1, hd, rd_clean ha.2, bind, Except.bind, sizeOf_]

/-- What a local load of good bytes comes to. -/
theorem loadLocal_ok {s : State} {d : Name} {ea : Int} {size : Nat} (x q : Bool) (hlo : 0 ≤ ea) (hhi : ea + size ≤ localEnd s)
    (halign : ea % size = 0) (hgood : firstBad s.eccLocal (locAddr s.me.job s.me.vcore ea.toNat) size = none) :
    ∃ t, loadLocal d ea size x q s = .ok (t, .next)
      ∧ (let r := wr s d (Stated.loaded x size (leNat (s.readBytes (localReader s) .loc (locAddr s.me.job s.me.vcore ea.toNat) size 10))) 3
         if q then ∃ k, t = r.setMe { r.me with know := k } else t = r) := by
  rw [loadLocal, checkLocal_ok hlo hhi halign]
  simp only [bind, Except.bind, hgood]
  refine ⟨_, rfl, ?_⟩
  cases q with
  | false => rfl
  | true => exact ⟨_, rfl⟩

/-- What a local store comes to. -/
theorem storeLocal_ok {s : State} {d : Name} {ea : Int} {size : Nat} {q : Bool} (hclean : Clean s d) (hlo : 0 ≤ ea)
    (hhi : ea + size ≤ localEnd s) (halign : ea % size = 0) (hready : q = true → s.anyWaiting (s.releaseWaits s.me.task .core) = false) :
    storeLocal d ea size q s = fall (s.writeBytes .loc (locAddr s.me.job s.me.vcore ea.toNat) (bytesOfNat (value s 1 d).toNat size) .core
      s.me.task 0 (if q then some (myRelease s .core .core) else none)) := by
  have hgo : (!q || !s.anyWaiting (s.releaseWaits s.me.task .core)) = true := by
    cases q with
    | false => rfl
    | true => simp [hready rfl]
  rw [storeLocal, checkLocal_ok hlo hhi halign]
  simp [bind, Except.bind, rd_clean hclean, hgo, Machine.ready]

/-- A write of local memory, byte by byte; everything else but the record of it stands. -/
theorem writeBytes_loc (s : State) (a : Nat) (v size : Nat) (path : Path) (task acc : Nat) (rel : Option Rel) :
    let t := s.writeBytes .loc a (bytesOfNat v size) path task acc rel
    t.me = s.me
      ∧ (s.localMem.wf = true → ∀ i, i < size → t.localMem.get (a + i) = BitVec.ofNat 8 (v / 256 ^ i))
      ∧ (∀ c, c < a ∨ a + size ≤ c → t.localMem.get c = s.localMem.get c)
      ∧ t.scratch = s.scratch ∧ t.codeMem = s.codeMem ∧ t.hbm = s.hbm ∧ t.hostMem = s.hostMem ∧ t.nvme = s.nvme := by
  have hmem : (s.writeBytes .loc a (bytesOfNat v size) path task acc rel).localMem = s.localMem.write a (bytesOfNat v size) := rfl
  refine ⟨rfl, fun hwf i hi => ?_, fun c hc => ?_, rfl, rfl, rfl, rfl, rfl⟩
  · rw [hmem, Memory.get_write_inside _ _ _ _ hwf (by simpa using hi), List.getD, bytesOfNat_getElem? v size i hi]
    rfl
  · rw [hmem, Memory.get_write_outside _ _ _ _ (by simpa using hc)]

/-- Settles O10: a load that passes its checks is a producer of what it reads. -/
theorem localLoads : Obligations.LocalLoads := by
  unfold Obligations.LocalLoads
  intro s m d a o z x q hlimm fits ha hd size ea flat hlo hhi halign hgood
  obtain ⟨t, hload, ht⟩ := loadLocal_ok (d := d) x q hlo hhi halign hgood
  exact ⟨t, by rw [exec_ldl_fits o z x q m hlimm fits ha hd, hload, issue_ok], ht, fun h => readBytes_of_no_writes h _ _ _ _ _⟩

/-- Settles O11: a store that passes its checks writes its bytes, and nothing else. -/
theorem localStores : Obligations.LocalStores := by
  unfold Obligations.LocalStores
  intro s m d a o z q hlimm fits ha hd hclean size ea flat hlo hhi halign hready
  refine ⟨_, ?_, writeBytes_loc s flat _ size .core s.me.task 0 (if q then some (myRelease s .core .core) else none)⟩
  rw [Completes, exec_stl_fits o z q m hlimm fits ha hd, storeLocal_ok hclean hlo hhi halign hready]
  rfl

/-- Settles O12: the checks of the address come before any effect. -/
theorem localAccessTraps : Obligations.LocalAccessTraps := by
  unfold Obligations.LocalAccessTraps
  intro s m d a o z x q hlimm fits ha size ea
  refine ⟨fun hout => ⟨fun hd => ?_, fun hd => ?_⟩, fun hlo hhi halign => ⟨fun hd => ?_, fun hd => ?_⟩⟩
  · rw [Traps, exec_ldl_fits o z x q m hlimm fits ha hd, loadLocal, checkLocal_outside hout]; rfl
  · rw [Traps, exec_stl_fits o z q m hlimm fits ha hd, storeLocal, checkLocal_outside hout]; rfl
  · rw [Traps, exec_ldl_fits o z x q m hlimm fits ha hd, loadLocal, checkLocal_misaligned hlo hhi halign]; rfl
  · rw [Traps, exec_stl_fits o z q m hlimm fits ha hd, storeLocal, checkLocal_misaligned hlo hhi halign]; rfl

/-! ## Scratchpad scalars -/

/-- A tile address that passes its checks: a word of the scratchpad, or a counter of the trigger window. -/
def TileAddress (top : Nat) (ea : Int) (z : Size) : Prop :=
  (0 ≤ ea ∧ ea + (2 ^ z.code : Nat) ≤ top ∧ ea % (2 ^ z.code : Nat) = 0) ∨ (z = .w ∧ 0x100000 ≤ ea ∧ ea ≤ 0x1000FF ∧ ea % 4 = 0)

theorem tileEnd_le (s : State) : tileEnd s ≤ 0x100000 := by
  unfold tileEnd
  split
  · exact Nat.min_le_left _ _
  · exact Nat.le_refl _

theorem checkTile_ok {s : State} {ea : Int} {z : Size} (h : TileAddress (tileEnd s) ea z) : ∃ r, checkTile (tileEnd s) ea z = .ok r := by
  have htop := tileEnd_le s
  have hpos : 0 < (2 ^ z.code : Nat) := Nat.two_pow_pos _
  unfold checkTile sizeOf_
  rcases h with ⟨hlo, hhi, halign⟩ | ⟨hz, hlo, hhi, halign⟩
  · exact ⟨_, by rw [if_pos ⟨hlo, hhi⟩, if_neg (fun h => h halign)]⟩
  · exact ⟨_, by rw [if_neg (by omega), if_pos ⟨hlo, hhi⟩, if_pos ⟨hz, halign⟩]⟩

/-- A new access of a task counts at its scope. -/
theorem count_newAccAt (s : State) (task : Nat) (sc : Scope) (path : Path) (ranges : List (Space × Nat × Nat)) :
    (s.newAccAt task sc path ranges).count task sc = s.count task sc + 1 := by
  simp [State.count, State.newAccAt, List.filter_append]

theorem count_congr {s t : State} (h : t.accs = s.accs) (task : Nat) (sc : Scope) : t.count task sc = s.count task sc := by
  rw [State.count, State.count, h]

/-- What the start of an outstanding operation without vector operands leaves. -/
theorem startOp_me (s : State) (kind : OpKind) (a b : Word) (tgts : List Target) (waits : List Nat) (acc : Nat) :
    (startOp s kind a b tgts waits acc).me = { s.me with
      outs := s.me.outs ++ [s.serial], hptr := if tgts.any (fun t => (entryOf t).isSome) then s.me.hptr + 1 else s.me.hptr } :=
  (me_congr rfl rfl).trans (me_setMe s _)

/-- A scratchpad load of n bytes once it has issued: an outstanding operation, and an access of its task at tile scope. -/
def issuedLoad (s : State) (d : Name) (a n : Nat) (x q : Bool) : State :=
  let locs := tileLocs s a n
  let u := startOp (s.newAccAt s.me.task .tile .core locs) (.ldt a n x q) 0 0 (targetOf s.me d).toList
    (heldBy s .core none ++ s.overlapping s.me.task .core locs) s.serial
  if q then u.setMe { u.me with acqLoads := u.me.acqLoads ++ [s.serial], know := u.me.know ++ [(s.serial, 0)] } else u

/-- A scratchpad store of bytes once it is posted: it stands ready to land, and counts at tile scope. -/
def postedStore (s : State) (a : Nat) (data : List Byte) (q : Bool) : State :=
  let locs := tileLocs s a data.length
  let s1 := s.newAccAt s.me.task .tile .core locs
  { s1 with stores := s1.stores ++ [⟨s.serial, s.myCore, s.me.task, s.me.job, s.me.vcore / 8, a, data, s.clk,
      if q then some (myRelease s .core .tile) else none,
      heldBy s .core (if q then some .tile else none) ++ s.overlapping s.me.task .core locs, s.serial⟩] }

/-- The operation of a scratchpad load stands last, with what the statement asks of it; no memory has changed. -/
theorem issuedLoad_ops (s : State) (d : Name) (a n : Nat) (x q : Bool) :
    (∃ p : Op, (issuedLoad s d a n x q).ops = s.ops ++ [p] ∧ p.ctx = s.cur ∧ p.task = s.me.task ∧ p.kind = .ldt a n x q
        ∧ p.issued = s.clk ∧ p.tgts = (targetOf s.me d).toList ∧ p.id = s.serial + 1)
      ∧ (issuedLoad s d a n x q).scratch = s.scratch ∧ (issuedLoad s d a n x q).localMem = s.localMem
      ∧ (issuedLoad s d a n x q).accs = (s.newAccAt s.me.task .tile .core (tileLocs s a n)).accs := by
  cases q <;> exact ⟨⟨_, rfl, rfl, rfl, rfl, rfl, rfl, rfl⟩, rfl, rfl, rfl⟩

/-- Its context holds the operation's number, and its registers as they were. -/
theorem issuedLoad_me (s : State) (d : Name) (a n : Nat) (x q : Bool) :
    (issuedLoad s d a n x q).me.outs = s.me.outs ++ [s.serial + 1] ∧ (issuedLoad s d a n x q).me.s = s.me.s
      ∧ (issuedLoad s d a n x q).me.hist = s.me.hist := by
  cases q <;> simp only [issuedLoad, if_true, Bool.false_eq_true, if_false, me_setMe, startOp_me] <;> exact ⟨rfl, rfl, rfl⟩

theorem exec_ldt_ok {s : State} {d a : Name} (o : BitVec 6) (z : Size) (x q : Bool) (m : Mark) (hlimm : s.me.limm.length ≤ 2)
    (fits : Fits s 4) (ha : Sound s a) (hd : writable d = true) (hcount : s.countFull s.me.task .tile = false)
    (hea : TileAddress (tileEnd s) (Stated.address s (value s 0 a) o z) z) : exec (.ldt d a o z x q m) s = .next (after s
      (issuedLoad s d (Stated.address s (value s 0 a) o z).toNat (2 ^ z.code) x q) 4 m.g.val (m.s || s.me.precise) .next) := by
  obtain ⟨r, hr⟩ := checkTile_ok hea
  rw [exec_ldt, execLdt]
  simp only [effective_eq_address s _ o z hlimm, begin_fits fits, srcs, need, List.all_cons, List.all_nil, ha.1, Bool.and_true, if_true,
    dst_ok hd, rd_clean ha.2, bind, Except.bind, hr, hcount, Bool.not_false, Machine.ready, fall, issue_ok]
  rfl

theorem exec_stt_ok {s : State} {d a : Name} (o : BitVec 6) (z : Size) (q : Bool) (m : Mark) (hlimm : s.me.limm.length ≤ 2)
    (fits : Fits s 4) (ha : Sound s a) (hd : updatable d = true) (hclean : Clean s d) (hcount : s.countFull s.me.task .tile = false)
    (hea : TileAddress (tileEnd s) (Stated.address s (value s 0 a) o z) z) : Completes (.stt d a o z q m) m s
      (postedStore s (Stated.address s (value s 0 a) o z).toNat (bytesOfNat (value s 1 d).toNat (2 ^ z.code)) q) .next := by
  obtain ⟨r, hr⟩ := checkTile_ok hea
  rw [Completes, exec_stt, execStt]
  simp only [effective_eq_address s _ o z hlimm, begin_fits fits, srcs, need, List.all_cons, List.all_nil, ha.1, Bool.and_true, if_true,
    hd, rd_clean ha.2, rd_clean hclean, bind, Except.bind, hr, hcount, Bool.not_false, Machine.ready, fall, issue_ok, postedStore,
    bytesOfNat_length]
  rfl

/-- Settles O13: a load has started an operation, a store stands posted, and each counts as one access. -/
theorem scratchpadAccesses : Obligations.ScratchpadAccesses := by
  unfold Obligations.ScratchpadAccesses
  intro s m d a o z x q hlimm fits ha size ea hcount hea
  refine ⟨fun hd => ⟨_, exec_ldt_ok o z x q m hlimm fits ha hd hcount hea, ?_⟩,
    fun hd hclean => ⟨_, exec_stt_ok o z q m hlimm fits ha hd hclean hcount hea, ?_⟩⟩
  · obtain ⟨⟨p, hops, hctx, htask, hkind, hissued, htgts, hid⟩, hscratch, hlocal, haccs⟩ := issuedLoad_ops s d ea.toNat size x q
    obtain ⟨houts, hs, hhist⟩ := issuedLoad_me s d ea.toNat size x q
    refine ⟨⟨p, by rw [hops, List.getLast?_concat], by rw [hops, List.length_append, List.length_singleton], hctx, htask, hkind, hissued,
      htgts, by rw [houts, hid]⟩, hs, hhist, hscratch, hlocal, ?_⟩
    exact (count_congr haccs _ _).trans (count_newAccAt s _ _ _ _)
  · refine ⟨⟨_, rfl, rfl, rfl, rfl, rfl, rfl, bytesOfNat_length _ _, rfl, fun i hi => bytesOfNat_getElem? _ _ i hi⟩, rfl, rfl, rfl, ?_⟩
    exact (count_congr rfl _ _).trans (count_newAccAt s _ _ _ _)

/-! ## Several values at several targets -/

/-- The context with values written at targets, one after another. -/
def putList (c : Ctx) (rs : List (Target × Nat)) : Ctx := rs.foldl (fun c r => c.put r.1 r.2) c

/-- What none of the writes changes, all of them together leave as it is. -/
theorem putList_keeps {α : Type} (proj : Ctx → α) {rs : List (Target × Nat)} (h : ∀ r ∈ rs, ∀ c : Ctx, proj (c.put r.1 r.2) = proj c)
    (c : Ctx) : proj (putList c rs) = proj c := by
  induction rs generalizing c with
  | nil => rfl
  | cons r rs ih => exact (ih (fun u hu => h u (List.mem_cons_of_mem r hu)) (c.put r.1 r.2)).trans (h r List.mem_cons_self c)

theorem frameOf_putList (c : Ctx) (rs : List (Target × Nat)) : frameOf (putList c rs) = frameOf c :=
  putList_keeps frameOf (fun r _ c => frameOf_put c r.1 r.2) c

/-- With no write pending beside them, results land whole, whatever their numbers. -/
theorem foldl_landValue_eq_putList (s : State) (c : Ctx) (rs : List (Target × Nat)) (n : Nat) :
    (rs.zipIdx n).foldl (fun c e => landValue s c [] e.1.1 e.1.2 (1000 + e.2)) c = putList c rs := by
  induction rs generalizing c n with
  | nil => rfl
  | cons r rs ih =>
    rw [List.zipIdx_cons, List.foldl_cons, landValue_of_no_keeps, ih]
    rfl

/-- The context once an operation has written its results with its flags: nothing of it is pending any more. -/
def writtenWith (c : Ctx) (o : Op) (rs : List (Target × Nat)) (f : Nat) : Ctx :=
  let c1 := putList { c with pend := c.pend.filter (fun p => p.op != o.id) } rs
  { c1 with fflags := c1.fflags ||| BitVec.ofNat 64 f }

theorem frameOf_writtenWith (c : Ctx) (o : Op) (rs : List (Target × Nat)) (f : Nat) : frameOf (writtenWith c o rs f) =
    frameOf { c with pend := c.pend.filter (fun p => p.op != o.id), fflags := c.fflags ||| BitVec.ofNat 64 f } :=
  congrArg (fun x : Ctx => { x with fflags := x.fflags ||| BitVec.ofNat 64 f }) (frameOf_putList _ rs)

/-- Results with their own values are written whole, where no result of fixed latency is pending (R28). -/
theorem writeResults_with {s : State} {o : Op} {c : Ctx} (rs : List (Target × Nat)) (f : Nat) (hk : o.keeps = [])
    (hc : s.ctxs.get? o.ctx = some c) (hp : ∀ p ∈ c.pend, p.op ≠ 0) (ht : c.task = o.task) (hd : c.dying = false) :
    ∃ u, s.writeResults o rs f = ({ s with ctxs := s.ctxs.set o.ctx (writtenWith c o rs f) }).landed o.ctx o.id u
      ∧ (s.writeResults o rs f).ctxs.get? o.ctx = some (writtenWith c o rs f) := by
  have hframe := frameOf_writtenWith c o rs f
  have hpend : ∀ p ∈ (writtenWith c o rs f).pend, p.op ≠ 0 := by
    rw [show (writtenWith c o rs f).pend = c.pend.filter (fun p => p.op != o.id) from congrArg Ctx.pend hframe]
    exact fun p hm => hp p (List.mem_of_mem_filter hm)
  have hlive : ¬(c.task ≠ o.task ∨ c.dying = true) := by simp [ht, hd]
  have hlands := foldl_landValue_eq_putList s { c with pend := c.pend.filter (fun p => p.op != o.id) } rs 0
  have hw : s.writeResults o rs f = ({ s with ctxs := s.ctxs.set o.ctx (writtenWith c o rs f) }).landed o.ctx o.id
      (rs.flatMap (fun (r : Target × Nat) => placesOf r.1)) := by
    simp only [State.writeResults, settleAt_of_no_fixed hc hp, hc, if_neg hlive, hk, hlands, writtenWith]
  refine ⟨_, hw, ?_⟩
  rw [hw, landed_ctxs_of_no_fixed _ _ (Map.get?_set_self _ _ _) hpend]
  exact Map.get?_set_self _ _ _

/-- A context that runs the task of an operation, with no result of fixed latency pending. -/
structure RunsOp (s : State) (o : Op) (c : Ctx) : Prop where
  ctx : s.ctxs.get? o.ctx = some c
  pend : ∀ p ∈ c.pend, p.op ≠ 0
  task : c.task = o.task
  dying : c.dying = false
  parked : c.parked = false
  ending : c.ending = false

/-- An operation that writes its results and settles: they stand in its context, and it is outstanding no more. -/
theorem settle_written {s : State} {o : Op} {c : Ctx} (rs : List (Target × Nat)) (f : Nat) (hk : o.keeps = []) (h : RunsOp s o c) :
    ((s.writeResults o rs f).settleOp o).op? o.id = none
      ∧ ((s.writeResults o rs f).settleOp o).ctxs.get? o.ctx = some { writtenWith c o rs f with outs := c.outs.filter (· != o.id) } := by
  have hframe := frameOf_writtenWith c o rs f
  have houts : (writtenWith c o rs f).outs = c.outs := (congrArg Ctx.outs hframe :)
  obtain ⟨-, -, hctx⟩ := writeResults_with rs f hk h.ctx h.pend h.task h.dying
  have := settleOp_of_running hctx ((congrArg Ctx.task hframe).trans h.task) ((congrArg Ctx.dying hframe).trans h.dying)
    ((congrArg Ctx.parked hframe).trans h.parked) ((congrArg Ctx.ending hframe).trans h.ending)
  rwa [houts] at this

/-! ## A scratchpad store lands -/

/-- A bank's grant changes its tile, and nothing else. -/
theorem grantedFor_eq (s : State) (t bank port n : Nat) : ∃ ts, s.grantedFor t bank port n = { s with tiles := ts } := by
  unfold State.grantedFor
  split
  · exact ⟨s.tiles, rfl⟩
  · exact ⟨_, rfl⟩

theorem scratch_granted (s : State) (t bank port : Nat) : (s.granted t bank port).scratch = s.scratch := by
  obtain ⟨ts, h⟩ := grantedFor_eq s t bank port 1
  rw [State.granted, h]

theorem tile_grantedFor (s : State) (t bank port n : Nat) : ((s.grantedFor t bank port n).tile t).rises = (s.tile t).rises := by
  unfold State.grantedFor
  split
  · rfl
  · rw [tile_updTile_self]

/-- A posted store that is granted lands, or is a rise of its counter. -/
theorem tileStoreLand_lands {s : State} {p : TileStore} (hfind : s.stores.find? (fun t => t.id == p.id) = some p)
    (hissued : p.issued < s.clk) (hgrant : grantable s (tileOf p.core) (storeReq p) = true) :
      ∃ t : State, exec (.tileStoreLand p.id) s = .next t ∧ t.stores = s.stores.filter (fun x => x.id != p.id)
        ∧ (p.addr < 0x100000 → t.scratch = s.scratch.write (scratchAddr p.job p.vtile p.addr) p.data)
        ∧ (0x100000 ≤ p.addr → t.scratch = s.scratch
          ∧ ∃ r : Rise, (t.tile (tileOf p.core)).rises = (s.tile (tileOf p.core)).rises ++ [r] ∧ r.job = p.job
            ∧ r.ctr = (p.addr - 0x100000) / 4 ∧ r.amount = leNat p.data) := by
  have hgo : ¬(s.clk ≤ p.issued ∨ (!grantable s (tileOf p.core) (storeReq p)) = true) := by simp [hgrant]; omega
  rw [exec_tileStoreLand]
  simp only [execTileStoreLand, hfind, if_neg hgo]
  by_cases haddr : 0x100000 ≤ p.addr
  · rw [if_pos haddr]
    refine ⟨_, rfl, rfl, fun h => by omega, fun _ => ⟨scratch_granted .., ?_⟩⟩
    exact ⟨_, by rw [addRise, tile_updTile_self]; exact congrArg (· ++ [_]) (tile_grantedFor s _ _ _ _), rfl, rfl, rfl⟩
  · rw [if_neg haddr]
    refine ⟨_, rfl, rfl, fun _ => ?_, fun h => by omega⟩
    exact congrArg (fun m => Memory.write m _ _) (scratch_granted ..)

/-! ## A scratchpad load reads and ends -/

/-- Once the read of a load is done: its value is pending in its context, for the clk it is readable from. -/
def readDone (s : State) (o : Op) (c : Ctx) (v : Word) (ts : Map Tile) (gs : Map Know) : State :=
  { s with
    tiles := ts
    free := s.free + 1
    accs := (s.performAcc o.acc).accs
    gains := gs
    ctxs := s.ctxs.set o.ctx (c.pendResults o (max (o.issued + 8) s.clk) (o.tgts.map (fun t => (t, v.toNat))))
    ops := replaceIf (fun x => x.id == o.id) (fun x => { x with started := true, start := s.clk, due := max (o.issued + 8) s.clk }) s.ops }

theorem loaded_eq {s : State} {o : Op} {c : Ctx} (v : Word) (gain : Option Know) (ts : Map Tile) (hc : s.ctxs.get? o.ctx = some c) :
    ∃ gs, ({ s with tiles := ts, free := s.free + 1 } : State).loaded o v gain
      = if max (o.issued + 8) s.clk ≤ s.clk then (readDone s o c v ts gs).finishLoad o else readDone s o c v ts gs := by
  cases gain <;> simp only [State.loaded, State.performAcc, State.updCtx, hc] <;> exact ⟨_, rfl⟩

/-- A load that is granted reads: what it comes to is its value pending, and once it is due, written. -/
theorem exec_ldtResult_reads {s : State} {p : Op} {c : Ctx} {addr n : Nat} {x q : Bool} (hop : s.op? p.id = some p)
    (hkind : p.kind = .ldt addr n x q) (hc : s.ctxs.get? p.ctx = some c) (hstarted : p.started = false) (hissued : p.issued < s.clk)
    (hgrant : grantable s (tileOf (coreOf p.ctx)) (loadReq p addr) = true)
    (hgood : addr < 0x100000 → firstBad s.eccScratch (scratchAddr c.job (c.vcore / 8) addr) n = none) :
    ∃ ts gs, exec (.ldtResult p.id) s = .next
      (let v := Stated.loaded x n (if 0x100000 ≤ addr then counterValue s (tileOf (coreOf p.ctx)) c.job ((addr - 0x100000) / 4)
          else leNat (s.readBytes (readerOf s .core p.task (knowOn p.know p.fences .core)) .scratch (scratchAddr c.job (c.vcore / 8) addr) n 10))
       if max (p.issued + 8) s.clk ≤ s.clk then (readDone s p c v ts gs).finishLoad p else readDone s p c v ts gs) := by
  have hgo : ¬(s.clk ≤ p.issued ∨ (!grantable s (tileOf (coreOf p.ctx)) (loadReq p addr)) = true) := by simp [hgrant]; omega
  have hctx : s.ctxs.getD p.ctx Ctx.idle = c := by simp [Map.getD, hc]
  obtain ⟨ts, hts⟩ := grantedFor_eq s (tileOf (coreOf p.ctx)) (addr / 65536) (coreOf p.ctx % 8) 1
  rw [exec_ldtResult]
  simp only [execLdtResult, hop, hkind, hstarted, Bool.false_eq_true, if_false, if_neg hgo, hctx, State.granted, hts]
  by_cases haddr : 0x100000 ≤ addr
  · rw [if_pos haddr, if_pos haddr]
    obtain ⟨gs, hgs⟩ := loaded_eq (Stated.loaded x n (counterValue s (tileOf (coreOf p.ctx)) c.job ((addr - 0x100000) / 4))) _ ts hc
    exact ⟨ts, gs, congrArg _ hgs⟩
  · rw [if_neg haddr, if_neg haddr]
    simp only [hgood (by omega)]
    obtain ⟨gs, hgs⟩ := loaded_eq (Stated.loaded x n (leNat (s.readBytes (readerOf s .core p.task (knowOn p.know p.fences .core)) .scratch
      (scratchAddr c.job (c.vcore / 8) addr) n 10))) _ ts hc
    exact ⟨ts, gs, congrArg _ hgs⟩

/-- The end of a load: what is pending of it is written, and it is outstanding no more. -/
theorem finishLoad_ends {s : State} {o : Op} {c : Ctx} (hk : o.keeps = []) (h : RunsOp s o c) :
    (s.finishLoad o).op? o.id = none ∧ (s.finishLoad o).ctxs.get? o.ctx
      = some { writtenWith c o ((c.pend.filter (fun p => p.op == o.id)).map (fun p => (p.target, p.value))) 0 with
          outs := c.outs.filter (· != o.id) } := by
  have hctx : s.ctxs.getD o.ctx Ctx.idle = c := by simp [Map.getD, h.ctx]
  have := settle_written ((c.pend.filter (fun p => p.op == o.id)).map (fun p => (p.target, p.value))) 0 hk h
  simpa only [State.finishLoad, hctx] using this

/-- Beside contexts and operations the end of an operation in a running context leaves the state as it is. -/
theorem landed_frame (s : State) (key op : Nat) (ps : List (Nat × Nat)) : ∃ cs os, s.landed key op ps = { s with ctxs := cs, ops := os } := by
  unfold State.landed
  dsimp only
  split <;> split <;> try exact ⟨_, _, rfl⟩
  all_goals split <;> try exact ⟨_, _, rfl⟩
  all_goals split <;> exact ⟨_, _, rfl⟩

theorem settle_written_frame {s : State} {o : Op} {c : Ctx} (rs : List (Target × Nat)) (f : Nat) (hk : o.keeps = []) (h : RunsOp s o c) :
    ∃ cs os, (s.writeResults o rs f).settleOp o = { s with ctxs := cs, ops := os } := by
  have hframe := frameOf_writtenWith c o rs f
  obtain ⟨ps, hw, hctx⟩ := writeResults_with rs f hk h.ctx h.pend h.task h.dying
  have htask : (writtenWith c o rs f).task = o.task := (congrArg Ctx.task hframe).trans h.task
  simp only [State.settleOp, State.updCtx, hctx, if_pos htask]
  rw [release_of_running (c := { writtenWith c o rs f with outs := (writtenWith c o rs f).outs.filter (· != o.id) }) (Map.get?_set_self _ _ _)
    ((congrArg Ctx.dying hframe).trans h.dying) ((congrArg Ctx.parked hframe).trans h.parked) ((congrArg Ctx.ending hframe).trans h.ending), hw]
  obtain ⟨cs, os, hl⟩ := landed_frame { s with ctxs := s.ctxs.set o.ctx (writtenWith c o rs f) } o.ctx o.id ps
  rw [hl]
  exact ⟨_, _, rfl⟩

theorem scratch_finishLoad {s : State} {o : Op} {c : Ctx} (hk : o.keeps = []) (h : RunsOp s o c) :
    (s.finishLoad o).scratch = s.scratch := by
  obtain ⟨cs, os, hframe⟩ := settle_written_frame (((s.ctxs.getD o.ctx Ctx.idle).pend.filter (fun p => p.op == o.id)).map
    (fun p => (p.target, p.value))) 0 hk h
  unfold State.finishLoad
  exact (congrArg State.scratch hframe :)

/-- Scalar results leave masks and vector registers as they are. -/
theorem writtenWith_scalar {rs : List (Target × Nat)} (h : ∀ r ∈ rs, (entryOf r.1).isSome) (c : Ctx) (o : Op) (f : Nat) :
    (writtenWith c o rs f).m = c.m ∧ (writtenWith c o rs f).v = c.v ∧ (writtenWith c o rs f).k = c.k := by
  exact ⟨(congrArg Ctx.m (frameOf_writtenWith c o rs f) :), putList_keeps Ctx.v (fun r hr c => (put_scalar (h r hr) c _).2) _,
    putList_keeps Ctx.k (fun r hr c => (put_scalar (h r hr) c _).1) _⟩

/-- One result of an s-register stands there and in its history entry. -/
theorem writtenWith_single (c : Ctx) (o : Op) (r : Fin 32) (e : Fin 8) (v f : Nat) :
    (writtenWith c o [(.s r e, v)] f).s = c.s.set r (BitVec.ofNat 64 v)
      ∧ (writtenWith c o [(.s r e, v)] f).hist = c.hist.set e (BitVec.ofNat 64 v) := ⟨rfl, rfl⟩

theorem entryOf_of_scalar {g : Target} (h : ∃ e, (∃ r, g = .s r e) ∨ g = .h e) : (entryOf g).isSome := by
  obtain ⟨e, ⟨r, rfl⟩ | rfl⟩ := h <;> rfl

theorem runsOp_readDone {s : State} {o : Op} {c : Ctx} (v : Word) (ts : Map Tile) (gs : Map Know) (hid : o.id ≠ 0) (h : RunsOp s o c) :
    RunsOp (readDone s o c v ts gs) o (c.pendResults o (max (o.issued + 8) s.clk) (o.tgts.map (fun t => (t, v.toNat)))) where
  ctx := Map.get?_set_self _ _ _
  pend := by
    intro p hp
    rcases List.mem_append.mp hp with hp | hp
    · exact h.pend p (List.mem_of_mem_filter hp)
    · obtain ⟨r, -, rfl⟩ := List.mem_map.mp hp
      exact hid
  task := h.task
  dying := h.dying
  parked := h.parked
  ending := h.ending

/-- What is pending of an operation once its results are. -/
theorem pendResults_mine (c : Ctx) (o : Op) (due v : Nat) :
    ((c.pendResults o due (o.tgts.map (fun t => (t, v)))).pend.filter (fun p => p.op == o.id)).map (fun p => (p.target, p.value))
      = o.tgts.map (fun t => (t, v)) := by
  have hold : (c.pend.filter (fun p => p.op != o.id)).filter (fun p => p.op == o.id) = [] := by
    simp [List.filter_filter, List.filter_eq_nil_iff]
  simp only [Ctx.pendResults, List.filter_append, hold, List.nil_append, List.map_map]
  rw [List.filter_eq_self.mpr (by simp)]
  simp [List.map_map, Function.comp_def]

/-- The operation of a number once it is changed in place. -/
theorem find?_replaceIf_op {l : List Op} {o : Op} {f : Op → Op} (hf : ∀ x, (f x).id = x.id) {id : Nat} (h : l.find? (fun x => x.id == id) = some o) :
    (replaceIf (fun x => x.id == id) f l).find? (fun x => x.id == id) = some (f o) := by
  have hid : (o.id == id) = true := List.find?_some (p := fun x : Op => x.id == id) h
  have hsame : (fun x : Op => x.id == id) ∘ (fun x => if x.id == id then f x else x) = fun x => x.id == id := by
    funext x
    simp only [Function.comp]
    split <;> simp [hf]
  rw [replaceIf, List.find?_map, hsame, h, Option.map_some, if_pos hid]

/-- Settles O14: a store lands where its bank grants it; a load reads, and ends once its value is due. -/
theorem bankGrants : Obligations.BankGrants := by
  unfold Obligations.BankGrants
  intro s
  refine ⟨fun p hfind hissued hgrant => ?store, fun p c addr n x q hid hop hkind hkeeps hctx htask hparked hending hdying hpend => ?load⟩
  case store =>
    obtain ⟨t, hexec, hstores, hmem, hwin⟩ := tileStoreLand_lands hfind hissued hgrant
    refine ⟨t, hexec, hstores, fun haddr => ⟨fun hwf i hi => ?_, fun c hc => ?_⟩, hwin⟩
    · rw [hmem haddr, Memory.get_write_inside _ _ _ _ hwf hi, List.getD, List.getElem?_eq_getElem hi]
      rfl
    · rw [hmem haddr, Memory.get_write_outside _ _ _ _ hc]
  case load =>
    have runs : RunsOp s p c := ⟨hctx, hpend, htask, hdying, hparked, hending⟩
    refine ⟨fun hstarted hissued hgrant hgood hscalar => ?reads, fun hstarted hdue hscalar => ?ends⟩
    case reads =>
      intro flat v
      obtain ⟨ts, gs, hexec⟩ := exec_ldtResult_reads hop hkind hctx hstarted hissued hgrant hgood
      have runs' := runsOp_readDone v ts gs hid runs
      by_cases hearly : s.clk < p.issued + 8
      · have hmax : max (p.issued + 8) s.clk = p.issued + 8 := by omega
        refine ⟨_, _, hexec.trans (congrArg _ (if_neg (by omega))), rfl, runs'.ctx, rfl, rfl, rfl, fun _ => ?_, fun h => by omega⟩
        refine ⟨rfl, rfl, rfl, ?_, _, find?_replaceIf_op (f := fun x => { x with started := true, start := s.clk, due := max (p.issued + 8) s.clk }) (fun _ => rfl) hop, rfl, hmax⟩
        simp [Ctx.pendResults, hmax, List.map_map, Function.comp_def]
      · obtain ⟨hgone, hget⟩ := finishLoad_ends hkeeps runs'
        rw [pendResults_mine] at hget
        have hsc : ∀ r ∈ p.tgts.map (fun t => (t, v.toNat)), (entryOf r.1).isSome := by
          intro r hr
          obtain ⟨g, hg, rfl⟩ := List.mem_map.mp hr
          exact entryOf_of_scalar (hscalar g hg)
        obtain ⟨hm, hv, hk⟩ := writtenWith_scalar hsc (c.pendResults p (max (p.issued + 8) s.clk) (p.tgts.map (fun t => (t, v.toNat)))) p 0
        refine ⟨_, _, hexec.trans (congrArg _ (if_pos (by omega))), scratch_finishLoad hkeeps runs', hget, hm, hv, hk,
          fun h => absurd h hearly, fun _ => ⟨hgone, rfl, fun r e htgts => ?_⟩⟩
        have := writtenWith_single (c.pendResults p (max (p.issued + 8) s.clk) [(.s r e, v.toNat)]) p r e v.toNat 0
        simp only [htgts, List.map_cons, List.map_nil]
        rw [BitVec.ofNat_toNat, BitVec.setWidth_eq] at this
        exact this
    case ends =>
      obtain ⟨hgone, hget⟩ := finishLoad_ends (s := s) hkeeps runs
      have hexec : exec (.ldtResult p.id) s = .next { (s.finishLoad p) with free := s.free + 1 } := by
        rw [exec_ldtResult]
        simp only [execLdtResult, hop, hkind, hstarted, if_true, if_pos hdue]
      have hsc : ∀ r ∈ (c.pend.filter (fun e => e.op == p.id)).map (fun e => (e.target, e.value)), (entryOf r.1).isSome := by
        intro r hr
        obtain ⟨g, hg, rfl⟩ := List.mem_map.mp hr
        obtain ⟨hmem, heq⟩ := List.mem_filter.mp hg
        exact entryOf_of_scalar (hscalar g hmem (by simpa using heq))
      obtain ⟨hm, hv, hk⟩ := writtenWith_scalar hsc c p 0
      refine ⟨_, _, hexec, scratch_finishLoad hkeeps runs, hgone, hget, rfl, hm, hv, hk, fun r e v due hone => ?_⟩
      rw [hone]
      exact writtenWith_single c p r e v 0

end Sys2Proof.Laws
end

section
/-! Compact forms and masks (R67, R68, R111, R20, R136). -/

namespace Sys2Proof.Laws
open Sys2Proof.Machine Sys2Proof.Safety

/-! ## Compact forms -/

theorem compactName_eq (y : BitVec 4) : compactName y = Stated.yName y := rfl

theorem exec_compactMov_plain {s : State} {x : Fin 32} {y : BitVec 4} (mk : Bool) (plain : Plain s 2) (hy : Clean s (Stated.yName y)) :
    exec (.compactMov x y mk) s = .next (after s (wr s (.s x) (value s 1 (Stated.yName y)) 1) 2 0 mk .next) := by
  rw [exec_compactMov, execCompactMov, issue16_plain mk _ plain, compactName_eq, rd_clean hy]
  rfl

/-- A compact producer of two sources. -/
theorem compactTwo_ok {s : State} {x : Fin 32} {y : BitVec 4} (mk : Bool) (f : Word → Word → Word) (plain : Plain s 2)
    (hx : Clean s (.s x)) (hy : Clean s (Stated.yName y)) : compactTwo x y mk f s
      = .next (after s (wr s (.s x) (f (value s 0 (.s x)) (value s 1 (Stated.yName y))) 1) 2 0 mk .next) := by
  rw [compactTwo, issue16_plain mk _ plain, compactName_eq, rd_clean hx, rd_clean hy]
  rfl

/-- A compact producer of one source. -/
theorem compactOne_ok {s : State} {x : Fin 32} (mk : Bool) (f : Word → Word) (plain : Plain s 2) (hx : Clean s (.s x)) :
    compactOne x mk f s = .next (after s (wr s (.s x) (f (value s 0 (.s x))) 1) 2 0 mk .next) := by
  rw [compactOne, issue16_plain mk _ plain, rd_clean hx]
  rfl

theorem exec_compactRegs {e : (Fin 32 → BitVec 4 → Bool → Instr) × (Word → Word → Word)} (he : e ∈ Stated.compactRegs) {s : State}
    {x : Fin 32} {y : BitVec 4} (mk : Bool) (plain : Plain s 2) (hx : Clean s (.s x)) (hy : Clean s (Stated.yName y)) :
    exec (e.1 x y mk) s = .next (after s (wr s (.s x) (e.2 (value s 0 (.s x)) (value s 1 (Stated.yName y))) 1) 2 0 mk .next) := by
  simp only [Stated.compactRegs, List.mem_cons, List.not_mem_nil, or_false] at he
  obtain rfl | rfl | rfl | rfl := he
  · rw [exec_compactAdd, execCompactAdd, compactTwo_ok mk _ plain hx hy, ofInt_toInt_add]
  · rw [exec_compactSub, execCompactSub, compactTwo_ok mk _ plain hx hy, ofInt_toInt_sub]
  · rw [exec_compactAnd, execCompactAnd, compactTwo_ok mk _ plain hx hy]
  · rw [exec_compactCmov, execCompactCmov, compactTwo_ok mk _ plain hx hy, ite_not]

theorem exec_compactImms {e : (Fin 32 → BitVec 4 → Bool → Instr) × (Word → BitVec 4 → Word)} (he : e ∈ Stated.compactImms) {s : State}
    {x : Fin 32} {y : BitVec 4} (mk : Bool) (plain : Plain s 2) (hx : Clean s (.s x)) :
    exec (e.1 x y mk) s = .next (after s (wr s (.s x) (e.2 (value s 0 (.s x)) y) 1) 2 0 mk .next) := by
  simp only [Stated.compactImms, List.mem_cons, List.not_mem_nil, or_false] at he
  obtain rfl | rfl | rfl := he
  · rw [exec_compactAddi, execCompactAddi, compactOne_ok mk _ plain hx, ofInt_toInt_add, BitVec.toInt_signExtend_of_le (by decide)]
  · rw [exec_compactShl, execCompactShl, compactOne_ok mk _ plain hx, shiftLeft_eq_ofNat]
  · rw [exec_compactShr, execCompactShr, compactOne_ok mk _ plain hx, ushiftRight_eq_ofNat]

theorem exec_compactBeqz_plain {s : State} {x : Fin 32} (y : BitVec 4) (mk : Bool) (plain : Plain s 2) (hx : Clean s (.s x)) :
    exec (.compactBeqz x y mk) s = issue 2 0 mk s (branchIf (value s 0 (.s x) == 0) s y.toInt) := by
  rw [exec_compactBeqz, execCompactBeqz, issue16_plain mk _ plain, rd_clean hx]
  rfl

theorem exec_compactBnez_plain {s : State} {x : Fin 32} (y : BitVec 4) (mk : Bool) (plain : Plain s 2) (hx : Clean s (.s x)) :
    exec (.compactBnez x y mk) s = issue 2 0 mk s (branchIf (value s 0 (.s x) != 0) s y.toInt) := by
  rw [exec_compactBnez, execCompactBnez, issue16_plain mk _ plain, rd_clean hx]
  rfl

/-- A condition that does not hold falls through. -/
theorem branchIf_false (s : State) (off : Int) : branchIf false s off = .ok (s, .next) := rfl

/-- One that holds transfers to its target in the code space. -/
theorem branchIf_true {s : State} {off : Int} (hlo : 0 ≤ (s.me.pc : Int) + 2 * off) (hhi : (s.me.pc : Int) + 2 * off < 0x20000) :
    branchIf true s off = .ok (s, .jump ((s.me.pc : Int) + 2 * off).toNat) := by
  rw [branchIf, if_pos rfl, target, transfer_ok hlo hhi]
  rfl

theorem exec_compactEnd_plain {s : State} (mk : Bool) (plain : Plain s 2) :
    exec (.compactEnd mk) s = .next ((after s (ending s) 2 0 mk .next).release s.cur) := by
  rw [exec_compactEnd, execCompactEnd, issue16_plain mk _ plain]
  rfl

/-- The address of a compact access (R111). -/
theorem compactEa_eq (base : Word) (y : BitVec 4) : compactEa base y = ((base.toNat + 8 * (y.toNat / 8) : Nat) : Int) := by
  simp [compactEa]
  omega

theorem exec_compactLdlD_plain {s : State} {x : Fin 32} {y : BitVec 4} (mk : Bool) (plain : Plain s 2)
    (hbase : Clean s (.s (Fin.ofNat 32 (y.toNat % 8)))) : exec (.compactLdlD x y mk) s = issue 2 0 (mk || s.me.precise) s
      (loadLocal (.s x) (((value s 0 (.s (Fin.ofNat 32 (y.toNat % 8)))).toNat + 8 * (y.toNat / 8) : Nat) : Int) 8 false false s) := by
  rw [exec_compactLdlD, execCompactLdlD, issue16_plain _ _ plain, compactBase, rd_clean hbase, ← compactEa_eq]
  rfl

theorem exec_compactStlD_plain {s : State} {x : Fin 32} {y : BitVec 4} (mk : Bool) (plain : Plain s 2)
    (hbase : Clean s (.s (Fin.ofNat 32 (y.toNat % 8)))) : exec (.compactStlD x y mk) s = issue 2 0 mk s
      (storeLocal (.s x) (((value s 0 (.s (Fin.ofNat 32 (y.toNat % 8)))).toNat + 8 * (y.toNat / 8) : Nat) : Int) 8 false s) := by
  rw [exec_compactStlD, execCompactStlD, issue16_plain _ _ plain, compactBase, rd_clean hbase, ← compactEa_eq]
  rfl

/-- Settles O15: each compact form has the shape of its 32-bit form. -/
theorem compactForms : Obligations.CompactForms := by
  unfold Obligations.CompactForms
  refine ⟨fun s x y mk plain => ?scalar, fun s x y mk plain hbase hx => ?memory⟩
  case scalar =>
    intro X
    refine ⟨fun hy => exec_compactMov_plain mk plain hy, fun hx hy e he => exec_compactRegs he mk plain hx hy,
      fun hx e he => exec_compactImms he mk plain hx, fun hx => ?branches, ?nop, fun h31 heven hhi => ?ret, fun hfault hdying => ?ends⟩
    case branches =>
      intro t
      refine ⟨fun h => ?_, fun h => ?_, fun hlo hhi => ⟨fun h => ?_, fun h => ?_⟩⟩
      · rw [exec_compactBeqz_plain y mk plain hx, show (value s 0 (.s x) == 0) = false by simpa using h]; rfl
      · rw [exec_compactBnez_plain y mk plain hx, show (value s 0 (.s x) != 0) = false by simpa using h]; rfl
      · rw [exec_compactBeqz_plain y mk plain hx, show (value s 0 (.s x) == 0) = true by simpa using h, branchIf_true hlo hhi]; rfl
      · rw [exec_compactBnez_plain y mk plain hx, show (value s 0 (.s x) != 0) = true by simpa using h, branchIf_true hlo hhi]; rfl
    case nop => rw [exec_compactNop, execCompactNop, issue16_plain mk _ plain]; rfl
    case ret =>
      rw [exec_compactRet, execCompactRet, issue16_plain mk _ plain, returnTo, rd_clean h31]
      exact congrArg (issue 2 0 mk s) (jumpTo_ok heven hhi)
    case ends =>
      refine ⟨fun houts => ⟨_, exec_compactEnd_plain mk plain, ended_of_ending 2 0 mk houts hdying hfault⟩,
        fun houts => ⟨_, exec_compactEnd_plain mk plain, ?_⟩⟩
      rw [ending_of_busy 2 0 mk houts]
      exact ⟨rfl, rfl⟩
  case memory =>
    intro ea flat hhi halign
    have hhi' : (ea : Int) + (8 : Nat) ≤ localEnd s := by omega
    have halign' : (ea : Int) % (8 : Nat) = 0 := by omega
    refine ⟨fun hgood => ?load, ?store⟩
    case load =>
      obtain ⟨t, hload, rfl⟩ := loadLocal_ok (d := .s x) (ea := (ea : Int)) false false (by omega) hhi' halign' hgood
      rw [exec_compactLdlD_plain mk plain hbase, hload]
      rfl
    case store =>
      have hstore := storeLocal_ok (d := .s x) (ea := (ea : Int)) (q := false) hx (by omega) hhi' halign' (fun h => nomatch h)
      obtain ⟨hme, hin, hout, hscratch, -, hhbm, -, -⟩ := writeBytes_loc s flat (value s 1 (.s x)).toNat 8 .core s.me.task 0 none
      refine ⟨_, ?_, hme, hin, hout, hscratch, hhbm⟩
      rw [exec_compactStlD_plain mk plain hbase, hstore]
      rfl

/-! ## Masks -/

theorem maskTwo_ok {s : State} {d a b : Fin 8} {m : Mark} (f : MaskReg → MaskReg → MaskReg) (plain : Plain s 4) (ha : CleanMask s a.val)
    (hb : CleanMask s b.val) (hd : d ≠ 0) :
    maskTwo d a b m f s = .next (after s (wrK s d (f (readK s 0 a.val) (readK s 1 b.val))) 4 m.g.val m.s .next) := by
  rw [maskTwo, issue32_plain m _ plain, need, if_pos (by simpa using hd), rdK_clean ha, rdK_clean hb]
  rfl

theorem maskOne_ok {s : State} {d a : Fin 8} {m : Mark} (f : MaskReg → MaskReg) (plain : Plain s 4) (ha : CleanMask s a.val)
    (hd : d ≠ 0) : maskOne d a m f s = .next (after s (wrK s d (f (readK s 0 a.val))) 4 m.g.val m.s .next) := by
  rw [maskOne, issue32_plain m _ plain, need, if_pos (by simpa using hd), rdK_clean ha]
  rfl

theorem maskScalar_ok {s : State} {r : Fin 32} {a : Fin 8} {m : Mark} (f : MaskReg → Nat) (plain : Plain s 4) (ha : CleanMask s a.val) :
    maskScalar r a m f s = .next (after s (wr s (.s r) (BitVec.ofNat 64 (f (readK s 0 a.val))) 2) 4 m.g.val m.s .next) := by
  rw [maskScalar, issue32_plain m _ plain, rdK_clean ha]
  rfl

/-- k0 is no destination (R20). -/
theorem mask_dest_zero {i : Instr} {s : State} {m : Mark} {f : Unit → Res} (hexec : exec i s = issue32 m s (need ((0 : Fin 8) != 0) .illopnd >>= f))
    (plain : Plain s 4) : Traps i s .illopnd 0 := traps_issue32 hexec plain rfl

/-- The bits of a mask of the indices from lo up to below hi. -/
theorem rangeMask_testBit (lo hi i : Nat) (hi' : i < 1024) : (rangeMask lo hi).toNat.testBit i = decide (lo ≤ i ∧ i < hi) := by
  unfold rangeMask
  dsimp only
  split
  case isFalse h =>
    have : ¬(lo ≤ i ∧ i < hi) := by omega
    simp [this]
  case isTrue h =>
    have hshift : 2 ^ min hi 1024 - 2 ^ lo = (2 ^ (min hi 1024 - lo) - 1) <<< lo := by
      rw [Nat.shiftLeft_eq, Nat.sub_mul, Nat.one_mul, ← Nat.pow_add]
      congr 2
      omega
    rw [BitVec.toNat_ofNat, Nat.testBit_mod_two_pow, hshift, Nat.testBit_shiftLeft, Nat.testBit_two_pow_sub_one]
    simp only [hi', decide_true, Bool.true_and, ge_iff_le, ← Bool.decide_and, decide_eq_decide]
    omega

/-- The first bit of a mask that is set, or 1024. -/
theorem kfirst_isFirst (x : MaskReg) : (if x = 0 then 1024 else trailing x.toNat 1024) ≤ 1024
    ∧ (∀ i, i < (if x = 0 then 1024 else trailing x.toNat 1024) → x.toNat.testBit i = false)
    ∧ ((if x = 0 then 1024 else trailing x.toNat 1024) < 1024 → x.toNat.testBit (if x = 0 then 1024 else trailing x.toNat 1024) = true) := by
  split
  case isTrue h => subst h; simp
  case isFalse => exact trailing_isCount _ _

theorem maskOps_means : ∀ e ∈ Stated.maskOps, ∃ f : MaskReg → MaskReg → MaskReg, (∀ d a b m s, exec (e.1 d a b m) s = maskTwo d a b m f s)
    ∧ ∀ x y i, (f x y).toNat.testBit i = e.2 (x.toNat.testBit i) (y.toNat.testBit i) := by
  simp only [Stated.maskOps, List.forall_mem_cons]
  refine ⟨⟨_, exec_kand, fun x y i => ?_⟩, ⟨_, exec_kor, fun x y i => ?_⟩, ⟨_, exec_kxor, fun x y i => ?_⟩, fun _ h => nomatch h⟩
  · rw [BitVec.toNat_and, Nat.testBit_and]
  · rw [BitVec.toNat_or, Nat.testBit_or]
  · rw [BitVec.toNat_xor, Nat.testBit_xor]

/-- Settles O16: each instruction has its shape; k0 is no destination. -/
theorem maskInstructions : Obligations.MaskInstructions := by
  unfold Obligations.MaskInstructions
  intro s m d a b r p q plain ha hb A B
  refine ⟨fun hd => ⟨fun e he => ?two, ?knot, ?kmv, fun hp hq => ?kset⟩, fun hd => ?zero, ?kpop, ?kfirst, rfl⟩
  case two =>
    obtain ⟨f, hexec, hf⟩ := maskOps_means e he
    exact ⟨f A B, (hexec d a b m s).trans (maskTwo_ok f plain ha hb hd), fun i _ => hf A B i⟩
  case knot =>
    refine ⟨~~~A, (exec_knot d a m s).trans (maskOne_ok _ plain ha hd), fun i hi => ?_⟩
    rw [BitVec.testBit_toNat, BitVec.testBit_toNat, BitVec.getLsbD_not]
    simp [hi]
  case kmv => exact (exec_kmv d a m s).trans (maskOne_ok _ plain ha hd)
  case kset =>
    refine ⟨_, ?_, rangeMask_testBit (value s 0 (.s p)).toNat (value s 1 (.s q)).toNat⟩
    rw [Completes, exec_kset, execKset, issue32_plain m _ plain, need, if_pos (by simpa using hd), rd_clean hp, rd_clean hq]
    rfl
  case zero =>
    subst hd
    refine ⟨fun e he => ?_, mask_dest_zero (exec_knot 0 a m s) plain, mask_dest_zero (exec_kmv 0 a m s) plain,
      mask_dest_zero (exec_kset 0 p q m s) plain⟩
    obtain ⟨f, hexec, -⟩ := maskOps_means e he
    exact mask_dest_zero (hexec 0 a b m s) plain
  case kpop =>
    rw [Completes, exec_kpop, execKpop, maskScalar_ok _ plain ha, popCount_eq_length]
  case kfirst =>
    obtain ⟨hle, hbelow, hat⟩ := kfirst_isFirst A
    exact ⟨_, (exec_kfirst r a m s).trans (maskScalar_ok _ plain ha), hle, hbelow, hat⟩

end Sys2Proof.Laws
end

section
/-! How vector and SFU instructions issue (R22, R112 to R119). -/

namespace Sys2Proof.Laws
open Sys2Proof.Machine Sys2Proof.Safety

/-! ## How a vector instruction issues -/

/-- The outcome of an instruction of a shape, with a memory it accesses. -/
def runShape (x : Stated.VShape) (sp : VSpace) (s : State) : Host.Outcome State Fault Refusal :=
  let r := vectorIssue x.i x.k true x.regs x.srcs x.sregs x.tgts sp s
  bif x.starts then issueStart x.m s r else issue32 x.m s r

theorem exec_vTwo : ∀ c ∈ Stated.vTwo, ∀ d a b t k m s, exec (c d a b t k m) s = vecTwo (c d a b t k m) d a b k m s := by
  simp only [Stated.vTwo, List.forall_mem_cons]
  exact ⟨exec_vadd, exec_vsub, exec_vmul, exec_vmin, exec_vmax, exec_vaddsat, exec_vsubsat, exec_vmulh, exec_vabsdiff, exec_vand,
    exec_vor, exec_vxor, exec_vandn, exec_vshl, exec_vshr, exec_vsra, exec_vrot, exec_vsel, exec_vperm, fun _ h => nomatch h⟩

theorem exec_vOne : ∀ c ∈ Stated.vOne, ∀ d a t k m s, exec (c d a t k m) s = vecOne (c d a t k m) d a k m s := by
  simp only [Stated.vOne, List.forall_mem_cons]
  exact ⟨exec_vabs, exec_vneg, exec_vmov, exec_vrnd, exec_vfloor, fun _ h => nomatch h⟩

theorem exec_vCompare : ∀ c ∈ Stated.vCompare, ∀ d a b t k m s, exec (c d a b t k m) s = vecCompare (c d a b t k m) d a b k m s := by
  simp only [Stated.vCompare, List.forall_mem_cons]
  exact ⟨exec_vceq, exec_vclt, exec_vcle, exec_vcne, fun _ h => nomatch h⟩

theorem exec_vReduce : ∀ c ∈ Stated.vReduce, ∀ d a t k m s, exec (c d a t k m) s = vecReduce (c d a t k m) d a k m s := by
  simp only [Stated.vReduce, List.forall_mem_cons]
  exact ⟨exec_vredsum, exec_vredmax, exec_vredmin, fun _ h => nomatch h⟩

/-- Every instruction of the vector unit that accesses no memory has its shape. -/
theorem exec_vectorShapes {s : State} {d a b : Fin 32} {kd : Fin 8} {t u : VT} {k : Fin 4} {m : Mark} :
    ∀ x ∈ Stated.vectorShapes s d a b kd t u k m, exec x.i s = runShape x .none_ s := by
  simp only [Stated.vectorShapes, List.forall_mem_append, List.forall_mem_map]
  refine ⟨⟨⟨⟨⟨⟨⟨⟨?two, ?three⟩, ?one⟩, ?rows⟩, ?reduce⟩, ?compare⟩, ?widen2⟩, ?widen4⟩, ?narrow⟩
  case two => exact fun c hc => exec_vTwo c hc d a b t k m s
  case three =>
    simp only [List.forall_mem_cons]
    exact ⟨exec_vfma .., exec_vrcpr .., exec_vrsqr .., fun _ h => nomatch h⟩
  case one => exact fun c hc => exec_vOne c hc d a t k m s
  case rows =>
    simp only [List.forall_mem_cons]
    exact ⟨exec_vcvtSame .., exec_vtpack .., exec_vtunp .., exec_vtqnt .., exec_vslide .., exec_vbcast .., exec_vzero .., exec_vins ..,
      exec_vext .., exec_vdot .., fun _ h => nomatch h⟩
  case reduce => exact fun c hc => exec_vReduce c hc d a t k m s
  case compare =>
    split
    · exact fun _ h => nomatch h
    case isFalse hkd =>
      have hne : (kd != 0) = true := by simpa using hkd
      simp only [List.forall_mem_append, List.forall_mem_map, List.forall_mem_cons]
      refine ⟨fun c hc => ?_, ?_, fun _ h => nomatch h⟩
      · rw [exec_vCompare c hc, vecCompare, hne]; rfl
      · rw [exec_vtchk, execVtchk, hne]; rfl
  case widen2 =>
    split
    case isTrue h =>
      simp only [List.forall_mem_cons]
      refine ⟨?_, fun _ h => nomatch h⟩
      rw [exec_vcvtWiden2, execVcvtWiden2, vecWiden, h]; rfl
    · exact fun _ h => nomatch h
  case widen4 =>
    split
    case isTrue h =>
      simp only [List.forall_mem_cons]
      refine ⟨?_, fun _ h => nomatch h⟩
      rw [exec_vcvtWiden4, execVcvtWiden4, vecWiden, h]; rfl
    · exact fun _ h => nomatch h
  case narrow =>
    split
    case isTrue h =>
      simp only [List.forall_mem_cons]
      refine ⟨?_, fun _ h => nomatch h⟩
      rw [exec_vcvtNarrow, execVcvtNarrow]
      simp only [h]; rfl
    · exact fun _ h => nomatch h

/-- The memory that a vector access of the statement's table accesses. -/
def spaceOf (tile : Bool) : VSpace := if tile then .tile else .local_

theorem exec_memoryShapes {s : State} {d a b : Fin 32} {t : VT} {k : Fin 4} {m : Mark} :
    ∀ p ∈ Stated.memoryShapes d a b t k m, exec p.1.i s = runShape p.1 (spaceOf p.2) s ∧ p.1.starts = true ∧ p.1.m = m := by
  simp only [Stated.memoryShapes, List.forall_mem_cons]
  exact ⟨⟨exec_vldT .., trivial, trivial⟩, ⟨exec_vldL .., trivial, trivial⟩, ⟨exec_vldxT .., trivial, trivial⟩,
    ⟨exec_vstT .., trivial, trivial⟩, ⟨exec_vstL .., trivial, trivial⟩, ⟨exec_vstxT .., trivial, trivial⟩, fun _ h => nomatch h⟩

/-- Every shape carries the mark of its instruction. -/
theorem mark_vectorShapes {s : State} {d a b : Fin 32} {kd : Fin 8} {t u : VT} {k : Fin 4} {m : Mark} :
    ∀ x ∈ Stated.vectorShapes s d a b kd t u k m, x.m = m := by
  simp only [Stated.vectorShapes, List.forall_mem_append, List.forall_mem_map, List.forall_mem_cons, implies_true, true_and]
  split_ifs <;> simp [or_imp, forall_and]

/-! ## What issue leaves -/

/-- The word the first s-register of a list holds, as a vector instruction reads it at issue. -/
def firstRead (s : State) : List (Fin 32) → Word
  | x :: _ => value s 61 (.s x)
  | [] => 0

/-- The word of the second one. -/
def secondRead (s : State) : List (Fin 32) → Word
  | _ :: y :: _ => value s 62 (.s y)
  | _ => 0

/-- A vector instruction once it has issued from a state whose accesses count it already. -/
def issuedVec (x : Stated.VShape) (s s0 : State) (waits : List Nat) (acc : Nat) : State :=
  (startVec s0 (.vector x.i) (readK s 60 x.k.val) (firstRead s x.sregs) (secondRead s x.sregs) x.srcs x.tgts waits acc).updCore
    s.myCore (fun y => { y with vqueue := y.vqueue ++ [s0.serial] })

/-- What follows once the operands of a vector instruction are read: its access is counted, and it enters the queue. -/
def vectorAccess (x : Stated.VShape) (sp : VSpace) (s : State) (a b : Word) : Res :=
  let mask := readK s 60 x.k.val
  let queue (s : State) (id : Nat) : State := s.updCore s.myCore (fun y => { y with vqueue := y.vqueue ++ [id] })
  match sp with
  | .none_ => fall (queue (startVec s (.vector x.i) mask a b x.srcs x.tgts [] 0) s.serial)
  | .local_ => do
    Machine.ready (!s.countFull s.me.task .tile)
    let s0 := s.newAcc s.me.task .core .core true
    fall (queue (startVec s0 (.vector x.i) mask a b x.srcs x.tgts [] s.serial) s0.serial)
  | .tile => do
    Machine.ready (!s.countFull s.me.task .tile)
    let waits := heldBy s .core none ++ s.overlapping s.me.task .core (reachedBytes s x.i mask.toNat a.toNat)
    let s0 := s.newAcc s.me.task .tile .core false
    fall (queue (startVec s0 (.vector x.i) mask a b x.srcs x.tgts waits s.serial) s0.serial)

/-- A shape that is ready issues: without an access as it is, with one as an access counted at its scope. -/
theorem vectorIssue_ready {x : Stated.VShape} {s : State} (h : x.Ready s) :
    vectorIssue x.i x.k true x.regs x.srcs x.sregs x.tgts .none_ s = fall (issuedVec x s s [] 0)
      ∧ (s.countFull s.me.task .tile = false → ∀ tile, ∃ waits, vectorIssue x.i x.k true x.regs x.srcs x.sregs x.tgts (spaceOf tile) s
        = fall (issuedVec x s (s.newAcc s.me.task (if tile then .tile else .core) .core (!tile)) waits s.serial)) := by
  obtain ⟨-, hregs, hmask, hsregs, hroom⟩ := h
  have hall : x.regs.all (fun r => decide (r < s.me.v.length)) = true := by simpa using hregs
  have hqueue : vectorRoom s = true := by simpa [vectorRoom] using hroom
  have hgo (sp : VSpace) : vectorIssue x.i x.k true x.regs x.srcs x.sregs x.tgts sp s
      = vectorAccess x sp s (firstRead s x.sregs) (secondRead s x.sregs) := by
    unfold vectorIssue
    match hs : x.sregs with
    | [] => simp only [need, if_true, hall, rdK_clean hmask, Machine.ready, hqueue, bind, Except.bind]; rfl
    | [r] =>
      have hr := rd_clean (hsregs r (by simp [hs])) 61
      simp only [need, if_true, hall, rdK_clean hmask, Machine.ready, hqueue, bind, Except.bind, hr]; rfl
    | r :: y :: l =>
      have hr := rd_clean (hsregs r (by simp [hs])) 61
      have hy := rd_clean (hsregs y (by simp [hs])) 62
      simp only [need, if_true, hall, rdK_clean hmask, Machine.ready, hqueue, bind, Except.bind, hr, hy]; rfl
  refine ⟨hgo .none_, fun hcount tile => ?_⟩
  rw [hgo]
  cases tile <;>
    · simp only [vectorAccess, spaceOf, Machine.ready, Bool.false_eq_true, if_false, if_true, hcount, Bool.not_false, bind, Except.bind]
      exact ⟨_, rfl⟩

@[simp] theorem core_updCore_self (s : State) (n : Nat) (f : Core → Core) : (s.updCore n f).core n = f (s.core n) := by
  simp [State.core, State.updCore, Map.getD]

/-- What a vector instruction leaves once it has issued, whatever accesses are counted and whatever number is next. -/
theorem issuedVec_issued (x : Stated.VShape) (s : State) (as : List Acc) (n : Nat) (waits : List Nat) (acc : Nat) :
    let w := issuedVec x s { s with accs := as, serial := n } waits acc
    x.Issued s w ∧ w.localMem = s.localMem ∧ w.scratch = s.scratch ∧ w.accs = as := by
  intro w
  have hme : w.me = { s.me with
      outs := s.me.outs ++ [n], hptr := if x.tgts.any (fun t => (entryOf t).isSome) then s.me.hptr + 1 else s.me.hptr } :=
    (me_congr rfl rfl).trans (me_setMe { s with accs := as, serial := n } _)
  have hqueue : (w.core s.myCore).vqueue = (s.core s.myCore).vqueue ++ [n] := congrArg Core.vqueue (core_updCore_self _ _ _)
  refine ⟨⟨⟨_, List.getLast?_concat, by simp [w, issuedVec, startVec, State.updCore], rfl, rfl, rfl, rfl, rfl, rfl, rfl, rfl, rfl, rfl,
    fun r hr => ?_, fun r hr => ?_, hqueue, by rw [hme]⟩, by rw [hme], by rw [hme], by rw [hme], by rw [hme], by rw [hme]⟩, rfl, rfl, rfl⟩
  · obtain ⟨l, hl⟩ := List.head?_eq_some_iff.mp hr
    simp only [hl, firstRead]
  · match hs : x.sregs with
    | [] => simp [hs] at hr
    | [_] => simp [hs] at hr
    | _ :: y :: _ =>
      simp only [hs, List.getElem?_cons_succ, List.getElem?_cons_zero, Option.some.injEq] at hr
      subst hr
      rfl

/-- A shape that names a register its task does not hold faults, whatever it accesses. -/
theorem runShape_valloc {x : Stated.VShape} {s : State} (sp : VSpace) (plain : Plain s 4) (hout : ∃ r ∈ x.regs, s.me.v.length ≤ r) :
    runShape x sp s = .next { (s.trapNow s.cur ⟨.valloc, 0, 0, 0⟩ (segNow s.me)) with free := s.free + 1 } := by
  have hall : x.regs.all (fun r => decide (r < s.me.v.length)) = false := by
    obtain ⟨r, hr, hlen⟩ := hout
    simp only [List.all_eq_false]
    exact ⟨r, hr, by simpa using hlen⟩
  have htrap : vectorIssue x.i x.k true x.regs x.srcs x.sregs x.tgts sp s = raise .valloc 0 := by
    simp only [vectorIssue, need, if_true, hall, bind, Except.bind, Bool.false_eq_true, if_false]
    rfl
  rw [runShape, htrap]
  cases x.starts with
  | false => exact (issue32_plain x.m _ plain).trans (issue_trap ..)
  | true => exact (issueStart_plain x.m _ plain).trans (issue_trap ..)

/-! ## The SFU's requests -/

theorem exec_sfuOps : ∀ c ∈ Stated.sfuOps, ∀ d a t k m s, exec (c d a t k m) s = sfuIssue (c d a t k m) d a k m s := by
  simp only [Stated.sfuOps, List.forall_mem_cons]
  exact ⟨exec_vrcp, exec_vrsq, exec_vexp2, exec_vlog2, exec_vsin, exec_vcos, exec_vtanh, exec_vsigm, fun _ h => nomatch h⟩

/-- A request that enters the SFU's queue stands in it, with those that stood there. -/
theorem enterSfu_enters (s : State) (id core : Nat) (q : List Nat) :
    id ∈ enterSfu s id core q ∧ (enterSfu s id core q).length = q.length + 1 := by
  induction q with
  | nil => simp [enterSfu]
  | cons x q ih =>
    obtain ⟨hmem, hlen⟩ := ih
    have hlater : id ∈ x :: enterSfu s id core q ∧ (x :: enterSfu s id core q).length = (x :: q).length + 1 :=
      ⟨List.mem_cons_of_mem x hmem, congrArg (· + 1) hlen⟩
    unfold enterSfu
    split
    · split
      · exact ⟨List.mem_cons_self, rfl⟩
      · exact hlater
    · exact hlater

/-- The state once an SFU request has issued. -/
def issuedSfu (s : State) (i : Instr) (d a : Fin 32) (k : Fin 4) : State :=
  (startVec s (.sfu i) (readK s 60 k.val) 0 0 [a.val] [vTarget d] [] 0).updTile s.myTile
    (fun x => { x with sfu := enterSfu s s.serial s.myCore x.sfu })

theorem issuedSfu_issued (s : State) (i : Instr) (d a : Fin 32) (k : Fin 4) : Stated.SfuIssued i d a k s (issuedSfu s i d a k) := by
  have hme : (issuedSfu s i d a k).me = { s.me with outs := s.me.outs ++ [s.serial], hptr := s.me.hptr } :=
    (me_congr rfl rfl).trans (me_setMe s _)
  have hqueue : ((issuedSfu s i d a k).tile s.myTile).sfu = enterSfu s s.serial s.myCore (s.tile s.myTile).sfu :=
    congrArg Tile.sfu (tile_updTile_self _ _ _)
  obtain ⟨hmem, hlen⟩ := enterSfu_enters s s.serial s.myCore (s.tile s.myTile).sfu
  exact ⟨_, List.getLast?_concat, by simp [issuedSfu, startVec, State.updTile], rfl, rfl, rfl, rfl, rfl, rfl, rfl, rfl,
    by rw [hqueue]; exact hmem, by rw [hqueue, hlen], by rw [hme], by rw [hme], by rw [hme], by rw [hme], by rw [hme], by rw [hme],
    by rw [hme]⟩

theorem sfuIssue_valloc {i : Instr} {s : State} {d a : Fin 32} {k : Fin 4} {m : Mark} (plain : Plain s 4)
    (hout : s.me.v.length ≤ d.val ∨ s.me.v.length ≤ a.val) :
    sfuIssue i d a k m s = .next { (s.trapNow s.cur ⟨.valloc, 0, 0, 0⟩ (segNow s.me)) with free := s.free + 1 } := by
  have hregs : (decide (d.val < s.me.v.length) && decide (a.val < s.me.v.length)) = false := by
    rcases hout with h | h <;> simp [h]
  rw [sfuIssue, issueStart_plain m _ plain]
  simp only [need, hregs, Bool.false_eq_true, if_false, bind, Except.bind]
  rfl

/-- Settles O17: each instruction has its shape; a shape that is ready issues, and one that names a register not allocated faults. -/
theorem vectorIssue : Obligations.VectorIssue := by
  unfold Obligations.VectorIssue
  refine ⟨fun s d a b kd t u k m x hx hready => ?scalar, fun s d a b t k m p hp hready hcount => ?memory,
    fun s d a b kd t u k m plain => ⟨fun x hx hout => ?_, fun p hp hout => ?_, fun c hc hout => ?_⟩⟩
  case scalar =>
    have hrun := exec_vectorShapes x hx
    have hm := mark_vectorShapes x hx
    obtain ⟨hissued, hlocal, hscratch, haccs⟩ := issuedVec_issued x s s.accs s.serial [] 0
    refine ⟨_, ?_, hissued, hlocal, hscratch, haccs⟩
    rw [hrun, runShape, (vectorIssue_ready hready).1, hm]
    cases x.starts with
    | false => exact (issue32_plain m _ hready.1).trans (by simp [fall, issue_ok])
    | true => exact (issueStart_plain m _ hready.1).trans (by simp [fall, issue_ok])
  case memory =>
    obtain ⟨hrun, hstarts, hm⟩ := exec_memoryShapes p hp
    obtain ⟨waits, hissue⟩ := (vectorIssue_ready hready).2 hcount p.2
    obtain ⟨hissued, hlocal, hscratch, haccs⟩ := issuedVec_issued p.1 s
      (s.newAcc s.me.task (if p.2 then .tile else .core) .core (!p.2)).accs (s.serial + 1) waits s.serial
    refine ⟨_, ?_, hissued, hlocal, hscratch, _, haccs, rfl, rfl, rfl, rfl, rfl⟩
    rw [hrun, runShape, hissue, hstarts, hm]
    exact (issueStart_plain m _ hready.1).trans rfl
  · rw [Traps, exec_vectorShapes x hx, runShape_valloc _ plain hout]
  · rw [Traps, (exec_memoryShapes p hp).1, runShape_valloc _ plain hout]
  · rw [Traps, exec_sfuOps c hc, sfuIssue_valloc plain hout]

/-- Settles O18: an SFU instruction whose registers are allocated enters the queue. -/
theorem sfuIssue : Obligations.SfuIssue := by
  unfold Obligations.SfuIssue
  intro s d a t k m plain hd ha hmask hroom c hc
  refine ⟨issuedSfu s (c d a t k m) d a k, ?_, issuedSfu_issued _ _ _ _ _⟩
  have hregs : (decide (d.val < s.me.v.length) && decide (a.val < s.me.v.length)) = true := by simp [hd, ha]
  have hqueue : sfuRoom s = true := by simpa [sfuRoom] using hroom
  rw [exec_sfuOps c hc, Machine.sfuIssue, issueStart_plain m _ plain]
  simp only [need, hregs, if_true, rdK_clean hmask, Machine.ready, hqueue, bind, Except.bind]
  rfl

end Sys2Proof.Laws
end

section
/-! An operation of the vector unit or of the SFU completes (R26, R28, R116, R120, R132). -/

namespace Sys2Proof.Laws
open Sys2Proof.Machine Sys2Proof.Safety

/-! ## Results of an operation in their registers -/

theorem putList_append (c : Ctx) (rs rs' : List (Target × Nat)) : putList c (rs ++ rs') = putList (putList c rs) rs' :=
  List.foldl_append

theorem putList_cons (c : Ctx) (r : Target × Nat) (rs : List (Target × Nat)) : putList c (r :: rs) = putList (c.put r.1 r.2) rs := rfl

/-- Where one result alone passes a test, the others stand before and after it. -/
theorem split_of_filter {α : Type} {p : α → Bool} {l : List α} {x : α} (h : l.filter p = [x]) :
    ∃ l₁ l₂, l = l₁ ++ x :: l₂ ∧ (∀ y ∈ l₁, p y = false) ∧ ∀ y ∈ l₂, p y = false := by
  obtain ⟨l₁, l₂, rfl, hbefore, -, hafter⟩ := List.filter_eq_cons_iff.mp h
  exact ⟨l₁, l₂, rfl, fun y hy => by simpa using hbefore y hy, fun y hy => by
    have := List.filter_eq_nil_iff.mp hafter y hy; simpa using this⟩

/-- What none but one of the results changes is what that one makes of it. -/
theorem putList_single {α : Type} (proj : Ctx → α) {p : Target × Nat → Bool} {rs : List (Target × Nat)} {x : Target × Nat}
    (hkeep : ∀ r, p r = false → ∀ c : Ctx, proj (c.put r.1 r.2) = proj c) (h : rs.filter p = [x]) (c : Ctx) :
    ∃ c1, proj c1 = proj c ∧ frameOf c1 = frameOf c ∧ proj (putList c rs) = proj (c1.put x.1 x.2) := by
  obtain ⟨l₁, l₂, rfl, hbefore, hafter⟩ := split_of_filter h
  refine ⟨putList c l₁, putList_keeps proj (fun r hr => hkeep r (hbefore r hr)) c, frameOf_putList c l₁, ?_⟩
  rw [putList_append, putList_cons]
  exact putList_keeps proj (fun r hr => hkeep r (hafter r hr)) _

theorem put_v_other {t : Target} {n : Fin 32} (h : Stated.vreg? t ≠ some n) (c : Ctx) (v : Nat) :
    (c.put t v).v.getD n.val 0 = c.v.getD n.val 0 ∧ (c.put t v).v.length = c.v.length := by
  cases t with
  | v m w act =>
    have hne : m.val ≠ n.val := fun e => h (by rw [Stated.vreg?, Fin.ext e])
    exact ⟨by simp [Ctx.put, List.getD, hne], List.length_set⟩
  | s | h | k => exact ⟨rfl, rfl⟩

theorem put_length (c : Ctx) (t : Target) (v : Nat) : (c.put t v).v.length = c.v.length := by
  cases t with
  | v => exact List.length_set
  | s | h | k => rfl

theorem put_s_other {t : Target} (h : Stated.sreg? t = none) (c : Ctx) (v : Nat) : (c.put t v).s = c.s := by
  cases t with
  | s => cases h
  | h | k | v => rfl

theorem put_k_other {t : Target} (h : Stated.kreg? t = none) (c : Ctx) (v : Nat) : (c.put t v).k = c.k := by
  cases t with
  | k => cases h
  | s | h | v => rfl

theorem put_hist_other {t : Target} {e : Fin 8} (h : entryOf t ≠ some e) (c : Ctx) (v : Nat) : (c.put t v).hist[e] = c.hist[e] := by
  cases t with
  | s n e' =>
    have hne : e'.val ≠ e.val := fun eq => h (by rw [entryOf, Fin.ext eq])
    simp [Ctx.put, hne]
  | h e' =>
    have hne : e'.val ≠ e.val := fun eq => h (by rw [entryOf, Fin.ext eq])
    simp [Ctx.put, hne]
  | k | v => rfl

/-- The entry a result takes holds its value at the end, where every other result of that entry has the same target. -/
theorem putList_hist {rs : List (Target × Nat)} {n : Fin 32} {e : Fin 8} {v : Nat}
    (h : rs.filter (fun r => (Stated.sreg? r.1).isSome) = [(.s n e, v)]) (honly : ∀ r ∈ rs, entryOf r.1 = some e → r.1 = .s n e) (c : Ctx) :
    (putList c rs).hist[e] = BitVec.ofNat 64 v := by
  obtain ⟨l₁, l₂, rfl, -, hafter⟩ := split_of_filter h
  rw [putList_append, putList_cons]
  refine (putList_keeps (fun c => c.hist[e]) (fun r hr c => put_hist_other (fun he => ?_) c r.2) _).trans (by simp [Ctx.put])
  have hs := honly r (by simp [hr]) he
  have := hafter r hr
  simp [hs, Stated.sreg?] at this

/-- The results of an operation land in their registers. -/
theorem landed_putList (c : Ctx) (rs : List (Target × Nat)) : Stated.Landed c (putList c rs) rs := by
  refine ⟨fun n w act v h hlen => ?_, fun n h => ?_, fun n e v h => ⟨?_, fun honly => putList_hist h honly c⟩, fun h => ?_, fun n v h => ?_,
    fun h => ?_⟩
  · obtain ⟨c1, hc1, -, hput⟩ := putList_single (fun c => (c.v.getD n.val 0, c.v.length)) (fun r hr c => by
      have hother := put_v_other (t := r.1) (n := n) (by simpa using hr) c r.2
      simp only [hother]) h c
    obtain ⟨hreg, hlen1⟩ := Prod.ext_iff.mp hc1
    have hreg' := (Prod.ext_iff.mp hput).1
    have hn : n.val < c1.v.length := by rw [show c1.v.length = c.v.length from hlen1]; exact hlen
    simp only at hreg hreg'
    rw [hreg']
    simp only [List.getD_eq_getElem?_getD] at hreg
    simp only [Ctx.put, List.getD_eq_getElem?_getD, List.getElem?_set_self hn, Option.getD_some, hreg]
  · exact putList_keeps (fun c => c.v.getD n.val 0) (fun r hr c => (put_v_other (h r hr) c r.2).1) c
  · obtain ⟨c1, hc1, -, hput⟩ := putList_single Ctx.s (fun r hr c => put_s_other (by simpa using hr) c r.2) h c
    rw [hput, ← hc1]
    rfl
  · exact putList_keeps Ctx.s (fun r hr c => put_s_other (h r hr) c r.2) c
  · obtain ⟨c1, hc1, -, hput⟩ := putList_single Ctx.k (fun r hr c => put_k_other (by simpa using hr) c r.2) h c
    rw [hput, ← hc1]
    rfl
  · exact putList_keeps Ctx.k (fun r hr c => put_k_other (h r hr) c r.2) c

/-! ## An operation completes -/

/-- What a load reads at its end counts only for a load of the vector unit that no early read has settled (R132). -/
theorem finalResults_of_settled {s : State} {o : Op} {c : Ctx} (hc : s.ctxs.get? o.ctx = some c)
    (h : ∀ i, o.kind = .vector i → isLoad i = false ∨ o.fixed = true) :
    finalResults s o = ((c.pend.filter (fun p => p.op == o.id)).map (fun p => (p.target, p.value)), o.flags) := by
  have hctx : s.ctxs.getD o.ctx Ctx.idle = c := by simp [Map.getD, hc]
  match hkind : o.kind with
  | .vector i => rcases h i hkind with h | h <;> simp [finalResults, hkind, h, pendingOf, hctx]
  | .sfu i => simp [finalResults, hkind, pendingOf, hctx]
  | .ldt _ _ _ _ => simp [finalResults, hkind, pendingOf, hctx]
  | .divide _ _ => simp [finalResults, hkind, pendingOf, hctx]

theorem finalResults_of_load {s : State} {o : Op} {i : Instr} (hkind : o.kind = .vector i) (hload : isLoad i = true)
    (hfixed : o.fixed = false) (htgts : o.tgts ≠ []) (hok : (vectorEffect s o i (regFrom o.snap)).fault = none) :
    finalResults s o = ((vectorEffect s o i (regFrom o.snap)).outs, (vectorEffect s o i (regFrom o.snap)).flags) := by
  have heff : opEffect s o (regFrom o.snap) = vectorEffect s o i (regFrom o.snap) := by simp only [opEffect, hkind]
  simp [finalResults, hkind, hload, hfixed, htgts, heff, hok]

theorem completes_of_due {s : State} {o : Op} (hstarted : o.started = true) (hreqs : o.reqs = []) (hdue : o.due ≤ s.clk) :
    completes s o = true := by
  simp [completes, hstarted, hreqs, hdue]

/-- A completed operation of either unit. -/
theorem exec_completes {s : State} {o : Op} {ev : Instr} (hop : s.op? o.id = some o) (hreqs : o.reqs = []) (hgo : completes s o = true)
    (h : ((∃ i, o.kind = .vector i) ∧ ev = .vectorOpComplete o.id) ∨ ((∃ i, o.kind = .sfu i) ∧ ev = .sfuResult o.id)) :
    exec ev s = .next (completeOp s o) := by
  rcases h with ⟨⟨i, hkind⟩, rfl⟩ | ⟨⟨i, hkind⟩, rfl⟩
  · rw [exec_vectorOpComplete]
    simp only [execVectorOpComplete, hop, hkind, hreqs, hgo, if_true]
  · rw [exec_sfuResult]
    simp only [execSfuResult, hop, hkind, hgo, if_true]

/-- Results land as the registers of the context they are written in say, whatever else of it changes. -/
theorem landed_writtenWith (c : Ctx) (o : Op) (rs : List (Target × Nat)) (f : Nat) :
    Stated.Landed c (writtenWith c o rs f) rs :=
  landed_putList { c with pend := c.pend.filter (fun p => p.op != o.id) } rs

theorem completeOp_ends {s : State} {o : Op} {c : Ctx} (hkeeps : o.keeps = []) (h : RunsOp s o c) :
    (completeOp s o).op? o.id = none ∧ (completeOp s o).ctxs.get? o.ctx
      = some { writtenWith c o (finalResults s o).1 (finalResults s o).2 with outs := c.outs.filter (· != o.id) } := by
  have hframe := frameOf_writtenWith c o (finalResults s o).1 (finalResults s o).2
  have houts : (writtenWith c o (finalResults s o).1 (finalResults s o).2).outs = c.outs := (congrArg Ctx.outs hframe :)
  obtain ⟨-, -, hctx⟩ := writeResults_with (finalResults s o).1 (finalResults s o).2 hkeeps h.ctx h.pend h.task h.dying
  have hctx' : (if o.acc = 0 then s.writeResults o (finalResults s o).1 (finalResults s o).2
      else (s.writeResults o (finalResults s o).1 (finalResults s o).2).performAcc o.acc).ctxs.get? o.ctx
        = some (writtenWith c o (finalResults s o).1 (finalResults s o).2) := by
    split
    · exact hctx
    · exact hctx
  have := settleOp_of_running hctx' ((congrArg Ctx.task hframe).trans h.task) ((congrArg Ctx.dying hframe).trans h.dying)
    ((congrArg Ctx.parked hframe).trans h.parked) ((congrArg Ctx.ending hframe).trans h.ending)
  rwa [houts] at this

/-! ## A chunk is served -/

/-- What each write of an element keeps, all of them keep. -/
theorem putWrites_keeps {α : Type} (proj : State → α) {o : Op} {at_ : Nat → Nat} {ws : List VWrite}
    (h : ∀ w ∈ ws, ∀ s : State, proj ((s.writeBytes w.space w.addr w.bytes .core o.task o.acc none).stamp s.serial (at_ w.chunk)) = proj s)
    (s : State) : proj (putWrites o at_ s ws) = proj s := by
  induction ws generalizing s with
  | nil => rfl
  | cons w ws ih => exact (ih (fun x hx => h x (List.mem_cons_of_mem w hx)) _).trans (h w List.mem_cons_self s)

theorem ops_writeBytes (s : State) (sp : Space) (a : Nat) (bs : List Byte) (path : Path) (task acc : Nat) (rel : Option Rel) :
    (s.writeBytes sp a bs path task acc rel).ops = s.ops := by
  cases sp <;> rfl

theorem ctxs_writeBytes (s : State) (sp : Space) (a : Nat) (bs : List Byte) (path : Path) (task acc : Nat) (rel : Option Rel) :
    (s.writeBytes sp a bs path task acc rel).ctxs = s.ctxs := by
  cases sp <;> rfl

/-- The writes of elements in the scratchpad, in order, and nothing of local memory. -/
theorem putWrites_scratch {ws : List VWrite} (h : ∀ w ∈ ws, w.space = .scratch) (o : Op) (at_ : Nat → Nat) (s : State) :
    (putWrites o at_ s ws).scratch = ws.foldl (fun m w => m.write w.addr w.bytes) s.scratch
      ∧ (putWrites o at_ s ws).localMem = s.localMem := by
  refine ⟨?_, putWrites_keeps State.localMem (fun w hw s => by rw [h w hw]; rfl) s⟩
  induction ws generalizing s with
  | nil => rfl
  | cons w ws ih =>
    obtain ⟨hw, hws⟩ := List.forall_mem_cons.mp h
    refine (ih hws _).trans ?_
    rw [hw]
    rfl

theorem putWrites_loc {ws : List VWrite} (h : ∀ w ∈ ws, w.space = .loc) (o : Op) (at_ : Nat → Nat) (s : State) :
    (putWrites o at_ s ws).localMem = ws.foldl (fun m w => m.write w.addr w.bytes) s.localMem
      ∧ (putWrites o at_ s ws).scratch = s.scratch := by
  refine ⟨?_, putWrites_keeps State.scratch (fun w hw s => by rw [h w hw]; rfl) s⟩
  induction ws generalizing s with
  | nil => rfl
  | cons w ws ih =>
    obtain ⟨hw, hws⟩ := List.forall_mem_cons.mp h
    refine (ih hws _).trans ?_
    rw [hw]
    rfl

theorem unwrite_keeps (s : State) (w : WRec) : (s.unwrite w).ctxs = s.ctxs ∧ (s.unwrite w).ops = s.ops := by
  unfold State.unwrite
  dsimp only
  split
  · exact ⟨rfl, rfl⟩
  · exact ⟨State.putMem_ctxs .., State.putMem_ops ..⟩

theorem unwriteAll_keeps (ws : List WRec) (s : State) :
    (ws.foldl (fun st w => st.unwrite w) s).ctxs = s.ctxs ∧ (ws.foldl (fun st w => st.unwrite w) s).ops = s.ops := by
  induction ws generalizing s with
  | nil => exact ⟨rfl, rfl⟩
  | cons w ws ih =>
    obtain ⟨hc, ho⟩ := ih (s.unwrite w)
    exact ⟨hc.trans (unwrite_keeps s w).1, ho.trans (unwrite_keeps s w).2⟩

/-- An operation once its next chunk has been served. -/
def chunkServed (s : State) (o : Op) (i : Instr) (rest : List (Option Nat)) (x : Op) : Op :=
  { x with reqs := (skipChunks rest).2, nextAt := s.clk + 1 + (skipChunks rest).1, due := max o.due (s.clk + 1 + rest.length + resultLag i) }

/-- The state once a chunk's bank has granted it, before what a store puts there. -/
def chunkGranted (s : State) (o : Op) (i : Instr) (rest : List (Option Nat)) (ts : Map Tile) : State :=
  { s with tiles := ts, ops := replaceIf (fun x => x.id == o.id) (chunkServed s o i rest) s.ops, free := s.free + 1 }

theorem serveChunk_eq (s : State) (tile : Nat) (o : Op) (i : Instr) (b : Nat) (rest : List (Option Nat)) :
    ∃ ts, serveChunk s tile o i b rest =
      if isStore i then
        putWrites o (fun _ => s.clk + 1) ((s.writes.filter (fun w => w.acc == o.acc && o.acc != 0 && w.space == .loc
            && w.at_ == o.start + (chunkCount i - o.reqs.length) + 1)).foldl (fun st w => st.unwrite w) (chunkGranted s o i rest ts))
          ((opEffect s o (regFrom o.snap)).writes.filter (fun w => w.chunk == chunkCount i - o.reqs.length))
      else chunkGranted s o i rest ts := by
  obtain ⟨ts, hts⟩ := grantedFor_eq s tile b (8 + o.lane) 1
  simp only [serveChunk, State.granted, hts, chunkGranted]
  exact ⟨_, rfl⟩

theorem serveChunk_keeps (s : State) (tile : Nat) (o : Op) (i : Instr) (b : Nat) (rest : List (Option Nat)) :
    (serveChunk s tile o i b rest).ctxs = s.ctxs
      ∧ (serveChunk s tile o i b rest).ops = replaceIf (fun x => x.id == o.id) (chunkServed s o i rest) s.ops := by
  obtain ⟨ts, h⟩ := serveChunk_eq s tile o i b rest
  rw [h]
  split
  · obtain ⟨hctxs, hops⟩ := unwriteAll_keeps (s.writes.filter (fun w => w.acc == o.acc && o.acc != 0 && w.space == .loc
      && w.at_ == o.start + (chunkCount i - o.reqs.length) + 1)) (chunkGranted s o i rest ts)
    exact ⟨(putWrites_keeps State.ctxs (fun w _ s => ctxs_writeBytes s _ _ _ .core o.task o.acc none) _).trans hctxs,
      (putWrites_keeps State.ops (fun w _ s => ops_writeBytes s _ _ _ .core o.task o.acc none) _).trans hops⟩
  · exact ⟨rfl, rfl⟩

theorem serveChunk_load {i : Instr} (h : isStore i = false) (s : State) (tile : Nat) (o : Op) (b : Nat) (rest : List (Option Nat)) :
    (serveChunk s tile o i b rest).localMem = s.localMem ∧ (serveChunk s tile o i b rest).scratch = s.scratch := by
  obtain ⟨ts, heq⟩ := serveChunk_eq s tile o i b rest
  rw [heq, h]
  exact ⟨rfl, rfl⟩

/-- A store's chunk with no early write of its own to replace is written as it is. -/
theorem serveChunk_store {i : Instr} {o : Op} (hstore : isStore i = true) (hkind : o.kind = .vector i) (s : State)
    (hnone : ∀ w ∈ s.writes, w.acc = o.acc → w.space ≠ .loc) (tile b : Nat) (rest : List (Option Nat)) :
    ∃ ts, serveChunk s tile o i b rest = putWrites o (fun _ => s.clk + 1) (chunkGranted s o i rest ts)
      ((vectorEffect s o i (regFrom o.snap)).writes.filter (fun w => w.chunk == chunkCount i - o.reqs.length)) := by
  obtain ⟨ts, heq⟩ := serveChunk_eq s tile o i b rest
  have hmine : s.writes.filter (fun w => w.acc == o.acc && o.acc != 0 && w.space == .loc
      && w.at_ == o.start + (chunkCount i - o.reqs.length) + 1) = [] := by
    refine List.filter_eq_nil_iff.mpr fun w hw => ?_
    have := hnone w hw
    simp only [Bool.and_eq_true, beq_iff_eq]
    rintro ⟨⟨⟨hacc, -⟩, hloc⟩, -⟩
    exact this hacc hloc
  rw [hmine] at heq
  exact ⟨ts, by simpa only [hstore, if_true, List.foldl_nil, opEffect, hkind] using heq⟩

/-- A chunk whose bank may grant it is served. -/
theorem exec_serves {s : State} {o : Op} {i : Instr} {b : Nat} {rest : List (Option Nat)} (hop : s.op? o.id = some o)
    (hkind : o.kind = .vector i) (hreqs : o.reqs = some b :: rest) (hnext : o.nextAt ≤ s.clk)
    (hopen : bankOpen s (tileOf (coreOf o.ctx)) b (8 + o.lane) = true) :
    exec (.vectorOpComplete o.id) s = .next (serveChunk s (tileOf (coreOf o.ctx)) o i b rest) := by
  rw [exec_vectorOpComplete]
  simp only [execVectorOpComplete, hop, hkind, hreqs, hnext, decide_true, hopen, Bool.and_self, if_true]

/-- Settles O21: a due operation writes its results and is outstanding no more; a granted chunk is served. -/
theorem vectorCompletion : Obligations.VectorCompletion := by
  unfold Obligations.VectorCompletion
  refine ⟨fun s o c hop _ hstarted hreqs hdue hkeeps hctx htask hdying hparked hending hpend ev hev => ?completes,
    fun s o i b rest hop hkind hreqs hnext hopen => ?served⟩
  case completes =>
    intro r
    have runs : RunsOp s o c := ⟨hctx, hpend, htask, hdying, hparked, hending⟩
    obtain ⟨hgone, hget⟩ := completeOp_ends hkeeps runs
    have hframe := frameOf_writtenWith c o r.1 r.2
    refine ⟨⟨_, _, exec_completes hop hreqs (completes_of_due hstarted hreqs hdue) hev, hgone, hget, rfl, ?_, ?_, ?_, ?_⟩,
      fun h => finalResults_of_settled hctx h,
      fun i hkind hload hfixed htgts => by intro e hok; exact finalResults_of_load hkind hload hfixed htgts hok⟩
    · exact (congrArg Ctx.pend hframe :)
    · exact (congrArg Ctx.fflags hframe :)
    · exact (congrArg Ctx.m hframe :)
    · exact landed_writtenWith c o r.1 r.2
  case served =>
    obtain ⟨hctxs, hops⟩ := serveChunk_keeps s (tileOf (coreOf o.ctx)) o i b rest
    refine ⟨_, chunkServed s o i rest o, exec_serves hop hkind hreqs hnext hopen, ?_, rfl, rfl, le_max_right _ _, hctxs,
      fun hload => serveChunk_load hload _ _ _ _ _, fun hstore => ?_⟩
    · rw [State.op?, hops]
      exact find?_replaceIf_op (f := chunkServed s o i rest) (fun _ => rfl) hop
    · intro ws
      refine ⟨fun hspace hnone => ?_, fun hspace hnone => ?_⟩
      · obtain ⟨ts, heq⟩ := serveChunk_store hstore hkind s hnone (tileOf (coreOf o.ctx)) b rest
        rw [heq]
        exact putWrites_scratch hspace o _ (chunkGranted s o i rest ts)
      · obtain ⟨ts, heq⟩ := serveChunk_store hstore hkind s (by simp [hnone]) (tileOf (coreOf o.ctx)) b rest
        rw [heq]
        exact putWrites_loc hspace o _ (chunkGranted s o i rest ts)

end Sys2Proof.Laws
end

section
/-! Operations of the vector unit and of the SFU start (R27, R116 to R119, R290). -/

namespace Sys2Proof.Laws
open Sys2Proof.Machine Sys2Proof.Safety

/-! ## What the start of an operation leaves of the others -/

/-- What a start leaves as it was: the tiles, the cores, the clk, the operation of a number, and of every context its task, whether it
dies and its noted fault. -/
structure SameBeside (id : Nat) (s t : State) : Prop where
  tiles : t.tiles = s.tiles
  cores : t.cores = s.cores
  clk : t.clk = s.clk
  op : t.op? id = s.op? id
  ctx : ∀ k, (t.ctxs.get? k).map (fun c => (c.task, c.dying, c.startFault)) = (s.ctxs.get? k).map (fun c => (c.task, c.dying, c.startFault))

theorem SameBeside.refl (id : Nat) (s : State) : SameBeside id s s := ⟨rfl, rfl, rfl, rfl, fun _ => rfl⟩

theorem SameBeside.trans {id : Nat} {s t u : State} (h : SameBeside id s t) (h' : SameBeside id t u) : SameBeside id s u :=
  ⟨h'.tiles.trans h.tiles, h'.cores.trans h.cores, h'.clk.trans h.clk, h'.op.trans h.op, fun k => (h'.ctx k).trans (h.ctx k)⟩

/-- A context that stands before stands after, with its task. -/
theorem SameBeside.get {id : Nat} {s t : State} (h : SameBeside id s t) {k : Nat} {c : Ctx} (hc : s.ctxs.get? k = some c) :
    ∃ c', t.ctxs.get? k = some c' ∧ c'.task = c.task ∧ c'.dying = c.dying ∧ c'.startFault = c.startFault := by
  have := h.ctx k
  rw [hc, Option.map_some, Option.map_eq_some_iff] at this
  obtain ⟨c', hc', heq⟩ := this
  simp only [Prod.mk.injEq] at heq
  exact ⟨c', hc', heq⟩

theorem SameBeside.foldl {α : Type} {id : Nat} {f : State → α → State} {l : List α} (h : ∀ x ∈ l, ∀ s, SameBeside id s (f s x)) (s : State) :
    SameBeside id s (l.foldl f s) := by
  induction l generalizing s with
  | nil => exact .refl id s
  | cons x l ih => exact (h x List.mem_cons_self s).trans (ih (fun y hy => h y (List.mem_cons_of_mem x hy)) _)

/-- An operation of another number that is changed in place is not the one asked for. -/
theorem find?_replaceIf_other {l : List Op} {p : Op → Bool} {f : Op → Op} (hf : ∀ x, p x = true → (f x).id = x.id) {id : Nat}
    (hother : ∀ x, p x = true → x.id ≠ id) : (replaceIf p f l).find? (fun x => x.id == id) = l.find? (fun x => x.id == id) := by
  induction l with
  | nil => rfl
  | cons x l ih =>
    rw [replaceIf, List.map_cons, List.find?_cons, List.find?_cons, ← replaceIf, ih]
    by_cases hp : p x = true
    · have hx : (x.id == id) = false := by simpa using hother x hp
      simp only [hp, if_true, hf x hp, hx]
    · simp only [hp, if_false, Bool.false_eq_true]

theorem sameBeside_updOp {id : Nat} (s : State) {a : Nat} (ha : a ≠ id) {f : Op → Op} (hf : ∀ x, x.id = a → (f x).id = x.id) :
    SameBeside id s (s.updOp a f) where
  tiles := rfl
  cores := rfl
  clk := rfl
  op := find?_replaceIf_other (fun x hx => hf x (by simpa using hx)) (fun x hx => by simp only [beq_iff_eq] at hx; rwa [hx])
  ctx _ := rfl

theorem sameBeside_updCtx (id : Nat) (s : State) (key : Nat) {f : Ctx → Ctx}
    (hf : ∀ c, (f c).task = c.task ∧ (f c).dying = c.dying ∧ (f c).startFault = c.startFault) : SameBeside id s (s.updCtx key f) := by
  unfold State.updCtx
  split
  case h_2 => exact .refl id s
  case h_1 c hc =>
    refine ⟨rfl, rfl, rfl, rfl, fun k => ?_⟩
    obtain ⟨ht, hd, hs⟩ := hf c
    by_cases hk : key = k
    · subst hk
      simp only [Map.get?_set_self, hc, Option.map_some, ht, hd, hs]
    · simp only [Map.get?_set_of_ne _ _ _ _ (Ne.symm hk)]

theorem sameBeside_of_fields {id : Nat} {s t : State} (htiles : t.tiles = s.tiles) (hcores : t.cores = s.cores) (hclk : t.clk = s.clk)
    (hops : t.ops = s.ops) (hctxs : t.ctxs = s.ctxs) : SameBeside id s t :=
  ⟨htiles, hcores, hclk, by rw [State.op?, State.op?, hops], fun k => by rw [hctxs]⟩

/-- The writes of elements leave all but memory as it is. -/
theorem putWrites_frame (o : Op) (at_ : Nat → Nat) (ws : List VWrite) (s : State) :
    (putWrites o at_ s ws).tiles = s.tiles ∧ (putWrites o at_ s ws).cores = s.cores ∧ (putWrites o at_ s ws).clk = s.clk
      ∧ (putWrites o at_ s ws).ops = s.ops ∧ (putWrites o at_ s ws).ctxs = s.ctxs := by
  have keeps {α : Type} (proj : State → α) (h : ∀ (s : State) sp a bs, proj (s.writeBytes sp a bs .core o.task o.acc none) = proj s)
      (hstamp : ∀ (s : State) i c, proj (s.stamp i c) = proj s) : proj (putWrites o at_ s ws) = proj s :=
    putWrites_keeps proj (fun w _ s => (hstamp _ _ _).trans (h s _ _ _)) s
  exact ⟨keeps State.tiles (fun s sp _ _ => by cases sp <;> rfl) fun _ _ _ => rfl,
    keeps State.cores (fun s sp _ _ => by cases sp <;> rfl) fun _ _ _ => rfl, keeps State.clk (fun s sp _ _ => by cases sp <;> rfl) fun _ _ _ => rfl,
    keeps State.ops (fun s _ _ _ => ops_writeBytes s _ _ _ _ _ _ _) fun _ _ _ => rfl,
    keeps State.ctxs (fun s _ _ _ => ctxs_writeBytes s _ _ _ _ _ _ _) fun _ _ _ => rfl⟩

theorem sameBeside_putWrites (id : Nat) (o : Op) (at_ : Nat → Nat) (ws : List VWrite) (s : State) :
    SameBeside id s (putWrites o at_ s ws) := by
  obtain ⟨htiles, hcores, hclk, hops, hctxs⟩ := putWrites_frame o at_ ws s
  exact sameBeside_of_fields htiles hcores hclk hops hctxs

theorem sameBeside_unwrite (id : Nat) (s : State) (w : WRec) : SameBeside id s (s.unwrite w) := by
  unfold State.unwrite
  dsimp only
  split
  · exact sameBeside_of_fields rfl rfl rfl rfl rfl
  · exact sameBeside_of_fields (State.putMem_tiles ..) (State.putMem_cores ..) (State.putMem_clk ..) (State.putMem_ops ..)
      (State.putMem_ctxs ..)

theorem sameBeside_unwriteFrom (id : Nat) (s : State) (acc now : Nat) : SameBeside id s (s.unwriteFrom acc now) :=
  .foldl (fun w _ s => sameBeside_unwrite id s w) s

theorem pendWhile_keeps (a : Op) (due : Nat) (outs : List (Target × Nat)) (c : Ctx) :
    let c' := if c.task = a.task ∧ !c.dying then c.pendResults a due outs else c
    c'.task = c.task ∧ c'.dying = c.dying ∧ c'.startFault = c.startFault := by
  dsimp only
  split <;> exact ⟨rfl, rfl, rfl⟩

theorem sameBeside_recompute {id : Nat} (s : State) {a : Op} (ha : a.id ≠ id) (snap : List (Nat × VReg)) :
    SameBeside id s (s.recompute a snap) := by
  unfold State.recompute
  dsimp only
  split
  · exact .refl id s
  · have hs2 := (sameBeside_updOp s ha (f := fun x => { x with snap := snap, flags := (opEffect s { a with snap := snap } (regFrom snap)).flags })
      (fun _ _ => rfl)).trans (sameBeside_updCtx id _ a.ctx (pendWhile_keeps a a.due (opEffect s { a with snap := snap } (regFrom snap)).outs))
    split
    · exact (hs2.trans (sameBeside_unwriteFrom id _ _ _)).trans (sameBeside_putWrites id _ _ _ _)
    · exact hs2

theorem sameBeside_rereadAll (s : State) (o : Op) (outs : List (Target × Nat)) : SameBeside o.id s (rereadAll s o outs) := by
  refine .foldl (fun a ha s => ?_) s
  have hid : a.id ≠ o.id := by
    have := (List.mem_filter.mp ha).2
    simp only [Bool.and_eq_true, bne_iff_ne] at this
    exact this.1.1.2
  unfold rereadOp
  dsimp only
  split
  · exact .refl o.id s
  · exact sameBeside_recompute s hid _

theorem sameBeside_fixRead (s : State) (o : Op) : SameBeside o.id s (fixRead s o) := by
  unfold fixRead
  dsimp only
  split
  · refine ⟨rfl, rfl, rfl, find?_replaceIf_other (f := fun a => { a with fixed := true }) (fun _ _ => rfl) (fun x hx => ?_), fun _ => rfl⟩
    simp only [Bool.and_eq_true, bne_iff_ne] at hx
    exact hx.1.1.2
  · exact .refl o.id s

/-- The operation of a number once it is changed. -/
theorem op?_updOp_self {s : State} {o p q : Op} (h : s.op? p.id = some o) (hq : q.id = p.id) :
    (s.updOp p.id (fun _ => q)).op? p.id = some q := by
  have hsame : (fun x : Op => x.id == p.id) ∘ (fun x => if (x.id == p.id) = true then q else x) = fun x => x.id == p.id := by
    funext x
    simp only [Function.comp]
    split <;> simp_all
  have hid : (o.id == p.id) = true := List.find?_some (p := fun x : Op => x.id == p.id) h
  rw [State.op?, State.updOp, replaceIf, List.find?_map, hsame, show s.ops.find? (fun x => x.id == p.id) = some o from h, Option.map_some, if_pos hid]

/-- An operation that has started: it stands in the state, its results are pending in its context, and beside that the tiles and the
cores are as they were. -/
theorem runs_starts {s : State} {o p : Op} (h : s.op? p.id = some o) (r : VOut) :
    (s.runs p r).tiles = s.tiles ∧ (s.runs p r).cores = s.cores ∧ (s.runs p r).op? p.id = some p
      ∧ ∀ c, s.ctxs.get? p.ctx = some c → c.task = p.task → c.dying = false → ∃ c', (s.runs p r).ctxs.get? p.ctx = some c'
          ∧ c'.pend.filter (fun e => e.op == p.id) = r.outs.map (fun x => ⟨p.due, x.1, x.2, p.id, false, false⟩) := by
  have hothers := (sameBeside_rereadAll (s.updOp p.id (fun _ => p)) p r.outs).trans (sameBeside_fixRead _ p)
  have hall := hothers.trans (sameBeside_updCtx p.id _ p.ctx (pendWhile_keeps p p.due r.outs))
  refine ⟨hall.tiles, hall.cores, hall.op.trans (op?_updOp_self h rfl), fun c hc htask hdying => ?_⟩
  obtain ⟨c1, hc1, htask1, hdying1, -⟩ := hothers.get hc
  have hlive : c1.task = p.task ∧ (!c1.dying) = true := ⟨htask1.trans htask, by rw [hdying1, hdying]; rfl⟩
  refine ⟨c1.pendResults p p.due r.outs, ?_, ?_⟩
  · simp only [State.runs, State.updCtx, hc1, if_pos hlive, Map.get?_set_self]
  · have hold : (c1.pend.filter (fun e => e.op != p.id)).filter (fun e => e.op == p.id) = [] := by
      simp [List.filter_filter, List.filter_eq_nil_iff]
    simp only [Ctx.pendResults, List.filter_append, hold, List.nil_append]
    refine List.filter_eq_self.mpr fun e he => ?_
    obtain ⟨x, -, rfl⟩ := List.mem_map.mp he
    exact beq_self_eq_true _

theorem startFails_notes {s : State} {o p : Op} (h : s.op? p.id = some o) (cause : Cause) (arg : Word) :
    (s.startFails p cause arg).tiles = s.tiles ∧ (s.startFails p cause arg).cores = s.cores
      ∧ (s.startFails p cause arg).op? p.id = some { p with due := s.clk + 1, tgts := [], flags := 0 }
      ∧ ∀ c, s.ctxs.get? p.ctx = some c → c.task = p.task → c.dying = false → ∃ c', (s.startFails p cause arg).ctxs.get? p.ctx = some c'
          ∧ (c.startFault = none → c'.startFault = some (p.id, p.seg, ⟨cause, 1, 0, arg⟩)) := by
  have hop := op?_updOp_self (q := { p with due := s.clk + 1, tgts := [], flags := 0 }) h rfl
  unfold State.startFails State.updCtx
  split
  case h_1 c1 hc1 =>
    refine ⟨rfl, rfl, hop, fun c hc htask hdying => ⟨_, Map.get?_set_self _ _ _, fun hnone => ?_⟩⟩
    obtain rfl : c1 = c := Option.some.inj (hc1.symm.trans hc)
    have hlive : c1.task = p.task ∧ (!c1.dying) = true := ⟨htask, by rw [hdying]; rfl⟩
    simp only [if_pos hlive, Ctx.noteFault, hnone]
  case h_2 hnone =>
    exact ⟨rfl, rfl, hop, fun c hc => by rw [show s.ctxs.get? p.ctx = none from hnone] at hc; cases hc⟩

/-! ## What an operation comes to, whatever the queues and the arbiter hold -/

/-- The state with other queues and other registers of the tiles. -/
def withQueues (s : State) (cs : Map Core) (ts : Map Tile) : State := { s with cores := cs, tiles := ts }

@[simp] theorem withQueues_free (s : State) (cs : Map Core) (ts : Map Tile) : (withQueues s cs ts).free = s.free := rfl

section
variable (s : State) (cs : Map Core) (ts : Map Tile)

theorem hidden_withQueues (place : Nat) (ws : List WRec) (shown l : List Nat) :
    Machine.hidden (withQueues s cs ts) place ws shown l = Machine.hidden s place ws shown l := by
  induction l generalizing shown with
  | nil => rfl
  | cons id l ih => simp only [Machine.hidden, ih, withQueues_free]

theorem chosenCut_withQueues (place : Nat) (ws : List WRec) : chosenCut (withQueues s cs ts) place ws = chosenCut s place ws := by
  cases ws <;> simp only [chosenCut, hidden_withQueues]

theorem readBytes_withQueues (r : Reader) (sp : Space) (a n place : Nat) :
    (withQueues s cs ts).readBytes r sp a n place = s.readBytes r sp a n place := by
  have hws : unboundWrites (withQueues s cs ts) r sp a n = unboundWrites s r sp a n := rfl
  have hmem : (withQueues s cs ts).mem sp = s.mem sp := rfl
  simp only [State.readBytes, hws, hmem, chosenCut_withQueues]

theorem mergeNibbles_withQueues (v : VAccess) (sp : Space) (l : List VElem) :
    mergeNibbles (withQueues s cs ts) v sp l = mergeNibbles s v sp l := by
  have helem (a : Nat) (hi : Bool) (x : Nat) : elemBytes (withQueues s cs ts) v sp a 4 hi x = elemBytes s v sp a 4 hi x := rfl
  fun_induction mergeNibbles s v sp l <;> simp_all only [mergeNibbles, if_true, if_false]

theorem overlay_withQueues (place r n : Nat) (x : VReg) (l : List Pending) :
    overlay (withQueues s cs ts) place r n x l = overlay s place r n x l := by
  induction l generalizing n x with
  | nil => rfl
  | cons p l ih =>
    simp only [overlay, ih, withQueues_free]
    split <;> rfl

theorem readElem_withQueues (v : VAccess) (sp : Space) (a eb : Nat) (hi : Bool) (place chunk : Nat) :
    readElem (withQueues s cs ts) v sp a eb hi place chunk = readElem s v sp a eb hi place chunk := by
  simp only [readElem, readBytes_withQueues]

theorem badActive_withQueues (v : VAccess) (sp : Space) (slots : List (Nat × Nat × Bool)) (bytes : Nat) :
    badActive (withQueues s cs ts) v sp slots bytes = badActive s v sp slots bytes := rfl

theorem storeElems_withQueues (v : VAccess) (sp : Space) (eb : Nat) (l : List VElem) :
    storeElems (withQueues s cs ts) v sp eb l = storeElems s v sp eb l := by
  simp only [storeElems, mergeNibbles_withQueues]

theorem loadRaw_withQueues (v : VAccess) (sp : Space) (d : Fin 32) (t : VT) (mask ea : Nat) :
    loadRaw (withQueues s cs ts) v sp d t mask ea = loadRaw s v sp d t mask ea := by
  simp only [loadRaw, badActive_withQueues, readElem_withQueues]

theorem storeRaw_withQueues (v : VAccess) (sp : Space) (t : VT) (mask ea : Nat) (x : VReg) :
    storeRaw (withQueues s cs ts) v sp t mask ea x = storeRaw s v sp t mask ea x := by
  simp only [storeRaw, storeElems_withQueues]

/-- The checks of an access read its bank formats and its job. -/
theorem ranges_withQueues (v : VAccess) :
    (∀ fmts ea bytes, tileRange (withQueues s cs ts) v fmts ea bytes = tileRange s v fmts ea bytes)
      ∧ (∀ t ea, localRange (withQueues s cs ts) v t ea = localRange s v t ea)
      ∧ ∀ fmts base es addrs, gatherRange (withQueues s cs ts) v fmts base es addrs = gatherRange s v fmts base es addrs :=
  ⟨fun _ _ _ => rfl, fun _ _ => rfl, fun _ _ _ _ => rfl⟩

/-- An operation computes from its registers; one that accesses memory reads the memories beside. -/
theorem vectorEffect_withQueues (o : Op) (i : Instr) (reg : Fin 32 → VReg) :
    vectorEffect (withQueues s cs ts) o i reg = vectorEffect s o i reg := by
  have haccess : accessOf (withQueues s cs ts) o = accessOf s o := rfl
  obtain ⟨htile, hlocal, hgather⟩ := ranges_withQueues s cs ts (accessOf s o)
  cases i
  case vldT => simp only [vectorEffect, haccess, vectorLoadTile, htile, loadRaw_withQueues, badActive_withQueues, readElem_withQueues]
  case vldL => simp only [vectorEffect, haccess, vectorLoadLocal, hlocal, loadRaw_withQueues]
  case vldxT => simp only [vectorEffect, haccess, vectorGather, hgather, badActive_withQueues, readElem_withQueues]
  case vstT => simp only [vectorEffect, haccess, vectorStoreTile, htile, storeRaw_withQueues, storeElems_withQueues]
  case vstL => simp only [vectorEffect, haccess, vectorStoreLocal, hlocal, storeRaw_withQueues]
  case vstxT => simp only [vectorEffect, haccess, vectorScatter, hgather, storeElems_withQueues]
  all_goals rfl

theorem begun_withQueues (o : Op) (lane : Nat) : begun (withQueues s cs ts) o lane = begun s o lane := by
  have hread (c : Ctx) (p r : Nat) : readV (withQueues s cs ts) c p r = readV s c p r := overlay_withQueues s cs ts p r 0 _ _
  have hformats (job vtile : Nat) : (withQueues s cs ts).formats job vtile = s.formats job vtile := rfl
  simp only [begun, hread, hformats]
  rfl

theorem startEffect_withQueues {o : Op} {i : Instr} (hkind : o.kind = .vector i) :
    startEffect (withQueues s cs ts) o i = startEffect s o i := by
  have heff (reg : Fin 32 → VReg) : opEffect (withQueues s cs ts) o reg = opEffect s o reg := by
    simp only [opEffect, hkind, vectorEffect_withQueues]
  simp only [startEffect, heff]
  rfl
end

/-! ## The SFU serves -/

theorem sfuClks_eq {i : Instr} {fn : SfuFn} {t : VT} {d a : Fin 32} (h : sfuOf i = some (fn, t, d, a)) : sfuClks i = 4096 / vtBits t / 8 := by
  simp only [sfuClks, h, vtCount]

/-- With no uncorrectable error in its context an SFU operation has no fault at its start. -/
theorem startEffect_sfu {s : State} {o : Op} {i : Instr} {fn : SfuFn} {t : VT} {d a : Fin 32} (hkind : o.kind = .sfu i)
    (hfn : sfuOf i = some (fn, t, d, a)) (hecc : (s.ctxs.getD o.ctx Ctx.idle).ecc = []) : (startEffect s o i).fault = none := by
  simp only [startEffect, badSource, hecc, List.isEmpty_nil, if_true, opEffect, hkind, hfn]
  rfl

theorem tile_congr {s t : State} (h : t.tiles = s.tiles) (n : Nat) : t.tile n = s.tile n := by
  rw [State.tile, State.tile, h]

theorem core_congr {s t : State} (h : t.cores = s.cores) (n : Nat) : t.core n = s.core n := by
  rw [State.core, State.core, h]

/-- Settles O22: the head of the queue leaves it and starts. -/
theorem sfuService : Obligations.SfuService := by
  unfold Obligations.SfuService
  intro s tile o rest i fn t d a hq hop hkind hfn hfree hissued
  have hgo : ¬(s.clk < (s.tile tile).sfuEnd ∨ s.clk ≤ o.issued) := by omega
  have hexec : exec (.sfuServiceStart tile) s = execSfuServiceStart tile s := exec_sfuServiceStart tile s
  simp only [execSfuServiceStart, hq, hop, if_neg hgo, hkind, sfuClks_eq hfn] at hexec
  match hf : (startEffect s (begun s o 0) i).fault with
  | some (cause, arg) =>
    simp only [hf] at hexec
    obtain ⟨htiles, -, hp, -⟩ := startFails_notes (s := { s.updTile tile (fun y => { y with sfu := rest, sfuEnd := s.clk + 1 }) with free := s.free + 1 })
      (p := begun s o 0) hop cause arg
    have htile := (tile_congr htiles tile).trans (tile_updTile_self s tile (fun y => { y with sfu := rest, sfuEnd := s.clk + 1 }))
    exact ⟨_, _, hexec, congrArg Tile.sfu htile, hp, rfl, rfl, fun hecc =>
      nomatch (startEffect_sfu (o := begun s o 0) hkind hfn hecc).symm.trans hf⟩
  | none =>
    simp only [hf] at hexec
    obtain ⟨htiles, -, hp, -⟩ := runs_starts
      (s := { s.updTile tile (fun y => { y with sfu := rest, sfuEnd := s.clk + 4096 / vtBits t / 8 }) with free := s.free + 1 })
      (p := { begun s o 0 with due := s.clk + 4096 / vtBits t / 8 + 12, flags := (startEffect s (begun s o 0) i).flags }) hop
      (startEffect s (begun s o 0) i)
    have htile := (tile_congr htiles tile).trans (tile_updTile_self s tile (fun y => { y with sfu := rest, sfuEnd := s.clk + 4096 / vtBits t / 8 }))
    exact ⟨_, _, hexec, congrArg Tile.sfu htile, hp, rfl, rfl, fun _ => ⟨congrArg Tile.sfuEnd htile, rfl⟩⟩

/-! ## The vector arbiter -/

/-- The core the arbiter binds has one of the heads (R290). -/
theorem arbitrate_binds {tile : Nat} {heads : List (Nat × Nat)} {vshare : List Nat} {last fuel : Nat} {deficit d : List Nat} {c : Nat}
    (h : arbitrate tile heads vshare last fuel deficit = some (c, d)) : c < 8 ∧ ∃ occ, (c, occ) ∈ heads := by
  induction fuel generalizing deficit with
  | zero => cases h
  | succ fuel ih =>
    unfold arbitrate at h
    dsimp only at h
    split at h
    case h_1 x hx =>
      obtain ⟨rfl, -⟩ := Prod.mk.inj (Option.some.inj h)
      have hmem := List.mem_of_find?_eq_some hx
      obtain ⟨j, -, rfl⟩ := List.mem_map.mp hmem
      have hany := List.find?_some hx
      obtain ⟨⟨y, occ⟩, hy, heq⟩ := List.any_eq_true.mp hany
      simp only [Bool.and_eq_true, beq_iff_eq] at heq
      exact ⟨Nat.mod_lt _ (by decide), occ, heq.1 ▸ hy⟩
    case h_2 => exact ih h

/-- With a deficit that grows by sixteen a round, a head of bounded occupancy is bound in time (R290). -/
theorem arbitrate_isSome {tile : Nat} {heads : List (Nat × Nat)} {vshare : List Nat} {last fuel : Nat} {deficit : List Nat} {c occ : Nat}
    (hc : c < 8) (hmem : (c, occ) ∈ heads) (h : occ ≤ deficit.getD c 0 + 16 * fuel) :
    (arbitrate tile heads vshare last (fuel + 1) deficit).isSome := by
  have horder : c ∈ (List.range 8).map (fun i => (last + 1 + i) % 8) :=
    List.mem_map.mpr ⟨(c + 7 * (last + 1)) % 8, List.mem_range.mpr (Nat.mod_lt _ (by decide)), by omega⟩
  have hshort {deficit : List Nat} (hnone : ((List.range 8).map (fun i => (last + 1 + i) % 8)).find?
      (fun c => heads.any (fun h => h.1 == c && decide (h.2 ≤ deficit.getD c 0))) = none) : deficit.getD c 0 < occ := by
    by_contra hle
    exact List.find?_eq_none.mp hnone c horder (List.any_eq_true.mpr ⟨_, hmem, by simpa using hle⟩)
  induction fuel generalizing deficit with
  | zero =>
    unfold arbitrate
    dsimp only
    split
    · rfl
    case h_2 hnone =>
      have := hshort hnone
      omega
  | succ fuel ih =>
    unfold arbitrate
    dsimp only
    split
    · rfl
    · refine ih ?_
      have hin : heads.any (fun h => h.1 == c) = true := List.any_eq_true.mpr ⟨_, hmem, beq_self_eq_true _⟩
      simp only [List.getD_eq_getElem?_getD, List.getElem?_map, List.getElem?_range hc, Option.map_some, Option.getD_some, if_pos hin]
      simp only [List.getD_eq_getElem?_getD] at h
      have := Nat.le_max_left 1 (vshare[c]?.getD 1)
      omega

/-- A vector operation that starts on a lane group, with the chunks it has still to ask for. -/
def startedVec (s : State) (lane : Nat) (o : Op) (i : Instr) (reqs : List (Option Nat)) (nextAt : Nat) : Op :=
  { begun s o lane with
    due := s.clk + occupancy i + resultLag i, flags := (startEffect s (begun s o lane) i).flags, reqs := reqs, nextAt := nextAt }

/-- A vector operation starts on a lane group: it stands in the state with what it comes to, or with its fault noted. -/
theorem startVector_starts {s : State} {o : Op} {i : Instr} (hop : s.op? o.id = some o) (hkind : o.kind = .vector i) (tile lane : Nat) :
    (startVector s tile lane o i).cores = s.cores ∧ ((startVector s tile lane o i).tile tile).arbLast = (s.tile tile).arbLast
      ∧ ∃ p : Op, (startVector s tile lane o i).op? o.id = some p ∧ p.started = true ∧ p.start = s.clk ∧ p.kind = .vector i
      ∧ (let r := startEffect s (begun s o lane) i
        (r.fault ≠ none → p.due = s.clk + 1 ∧ p.tgts = [] ∧ p.flags = 0)
        ∧ (r.fault = none → p.due = s.clk + occupancy i + resultLag i ∧ p.flags = r.flags)
        ∧ ∀ c : Ctx, s.ctxs.get? o.ctx = some c → c.task = o.task → c.dying = false → ∃ c' : Ctx, (startVector s tile lane o i).ctxs.get? o.ctx = some c'
          ∧ (r.fault = none → c'.pend.filter (fun e => e.op == o.id) = r.outs.map (fun x => ⟨p.due, x.1, x.2, o.id, false, false⟩))
          ∧ (∀ f, r.fault = some f → c.startFault = none → c'.startFault = some (o.id, o.seg, ⟨f.1, 1, 0, f.2⟩))) := by
  match hf : (startEffect s (begun s o lane) i).fault with
  | some (cause, arg) =>
    obtain ⟨htiles, hcores, hp, hctx⟩ := startFails_notes (s := s.updTile tile (fun x => { x with lanes := x.lanes.set lane (s.clk + 1) }))
      (p := begun s o lane) hop cause arg
    have hrun : startVector s tile lane o i = (s.updTile tile (fun x => { x with lanes := x.lanes.set lane (s.clk + 1) })).startFails
        (begun s o lane) cause arg := by simp only [startVector, hf]
    rw [hrun]
    refine ⟨hcores, ?_, _, hp, rfl, rfl, hkind, fun _ => ⟨rfl, rfl, rfl⟩, fun h => by simp [hf] at h, fun c hc htask hdying => ?_⟩
    · rw [tile_congr htiles, tile_updTile_self]
    · obtain ⟨c', hc', hnote⟩ := hctx c hc htask hdying
      refine ⟨c', hc', fun h => by simp [hf] at h, fun f h hnone => ?_⟩
      obtain rfl := Option.some.inj (hf.symm.trans h)
      exact hnote hnone
  | none =>
    obtain ⟨reqs, nextAt, hrun⟩ : ∃ reqs nextAt, startVector s tile lane o i = putLocal
        ((s.updTile tile (fun x => { x with lanes := x.lanes.set lane (s.clk + occupancy i) })).runs
          (startedVec s lane o i reqs nextAt) (startEffect s (begun s o lane) i))
        (startedVec s lane o i reqs nextAt) (startEffect s (begun s o lane) i).writes := by
      refine ⟨(skipChunks (chunkAsks (begun s o lane) i (regFrom (begun s o lane).snap))).2,
        s.clk + (skipChunks (chunkAsks (begun s o lane) i (regFrom (begun s o lane).snap))).1, ?_⟩
      simp only [startVector, hf]
      rfl
    rw [hrun, putLocal]
    obtain ⟨htiles, hcores, hp, hctx⟩ := runs_starts (s := s.updTile tile (fun x => { x with lanes := x.lanes.set lane (s.clk + occupancy i) }))
      (p := startedVec s lane o i reqs nextAt) hop (startEffect s (begun s o lane) i)
    generalize hu : (s.updTile tile (fun x => { x with lanes := x.lanes.set lane (s.clk + occupancy i) })).runs
      (startedVec s lane o i reqs nextAt) (startEffect s (begun s o lane) i) = u at htiles hcores hp hctx ⊢
    obtain ⟨htiles', hcores', -, hops', hctxs'⟩ := putWrites_frame (startedVec s lane o i reqs nextAt)
      (fun k => (startedVec s lane o i reqs nextAt).start + k + 1) ((startEffect s (begun s o lane) i).writes.filter
        (fun w => w.space == .loc && decide (u.clk ≤ (startedVec s lane o i reqs nextAt).start + w.chunk))) u
    rw [State.op?, hops', hctxs']
    refine ⟨hcores'.trans hcores, ?_, _, hp, rfl, rfl, hkind, fun h => absurd hf h, fun _ => ⟨rfl, rfl⟩, fun c hc htask hdying => ?_⟩
    · rw [tile_congr (htiles'.trans htiles), tile_updTile_self]
    · obtain ⟨c', hc', hpend⟩ := hctx c hc htask hdying
      exact ⟨c', hc', fun _ => hpend, fun f h => by simp [hf] at h⟩

/-- A core's head stands in the operations, as one of the vector unit. -/
theorem op_of_headOp {s : State} {core : Nat} {o : Op} {i : Instr} (h : headOp s core = some (o, i)) :
    s.op? o.id = some o ∧ o.kind = .vector i := by
  unfold headOp at h
  split at h
  · cases h
  split at h
  case h_2 => cases h
  case h_1 x hx =>
    split at h
    case h_2 => cases h
    case h_1 y hkind =>
      split at h
      case isFalse => cases h
      case isTrue =>
        cases h
        have hid := List.find?_some (p := fun z : Op => z.id == _) hx
        exact ⟨(beq_iff_eq.mp hid).symm ▸ hx, hkind⟩

/-- Settles O20: the arbiter binds a head, which has started on its lane group. -/
theorem vectorStart : Obligations.VectorStart := by
  unfold Obligations.VectorStart
  intro s tile lane hlane hfree ⟨c0, o0, i0, hc0, hhead0⟩ hbound
  have hexec : exec (.vectorOpStart tile) s = execVectorOpStart tile s := exec_vectorOpStart tile s
  match hl : (List.range 4).find? (fun l => laneFree s tile l) with
  | none => exact absurd hfree (List.find?_eq_none.mp hl lane (List.mem_range.mpr hlane))
  | some l =>
    have hl4 : l < 4 := List.mem_range.mp (List.mem_of_find?_eq_some hl)
    have hin : (c0, occupancy i0) ∈ (List.range 8).filterMap (fun c => (headOp s (8 * tile + c)).map (fun h => (c, occupancy h.2))) :=
      List.mem_filterMap.mpr ⟨c0, List.mem_range.mpr hc0, by rw [hhead0]; rfl⟩
    have hsome := arbitrate_isSome (tile := tile) (vshare := (s.tile tile).vshare) (last := (s.tile tile).arbLast) (fuel := 31)
      (deficit := (s.tile tile).deficit) hc0 hin (by have := hbound c0 o0 i0 hc0 hhead0; omega)
    obtain ⟨⟨c, deficit⟩, harb⟩ := Option.isSome_iff_exists.mp hsome
    obtain ⟨hc, occ, hmem⟩ := arbitrate_binds harb
    obtain ⟨c', -, hhead'⟩ := List.mem_filterMap.mp hmem
    obtain ⟨⟨o, i⟩, hhead, heq⟩ := Option.map_eq_some_iff.mp hhead'
    obtain ⟨rfl, -⟩ := Prod.mk.inj heq
    have hne := List.isEmpty_eq_false_iff.mpr (List.ne_nil_of_mem hin)
    simp only [execVectorOpStart, hl, hne, Bool.false_eq_true, if_false, harb, hhead] at hexec
    have hop : s.op? o.id = some o ∧ o.kind = .vector i := op_of_headOp hhead
    let q := (s.core (8 * tile + c')).vqueue.drop 1
    let cs := s.cores.set (8 * tile + c') { s.core (8 * tile + c') with vqueue := q }
    let ts := s.tiles.set tile { s.tile tile with arbLast := c', deficit := if q.isEmpty then deficit.set c' 0 else deficit }
    have heff : startEffect (withQueues s cs ts) (begun (withQueues s cs ts) o l) i = startEffect s (begun s o l) i := by
      rw [begun_withQueues, startEffect_withQueues s cs ts (o := begun s o l) hop.2]
    obtain ⟨hcores, hlast, p, hp, hstarted, hstart, hkind, hr⟩ := startVector_starts (s := withQueues s cs ts) hop.1 hop.2 tile l
    rw [heff] at hr
    refine ⟨_, c', o, i, hexec, hc, hhead, ?_, hlast.trans ?_, p, l, hp, hl4, hstarted, hstart, hkind, hr⟩
    · exact (congrArg Core.vqueue ((core_congr hcores _).trans (Map.getD_set_self s.cores _ _ _)) :)
    · exact (congrArg Tile.arbLast (Map.getD_set_self s.tiles _ _ _) :)

end Sys2Proof.Laws
end

section
/-! Weight, sends and command blocks (R175 to R184, R272 to R274). -/

namespace Sys2Proof.Laws
open Sys2Proof.Machine Sys2Proof.Safety

/-! ## What a task gives away, and what it waits for -/

/-- The state once the issuing task has given v units away (R176). -/
def paid (s : State) (v : Nat) : State := s.setMe { s.me with wt := s.me.wt - v }

theorem me_paid (s : State) (v : Nat) : (paid s v).me = { s.me with wt := s.me.wt - v } := me_setMe s _

theorem issuer_paid (s : State) (v : Nat) : (paid s v).issuer = s.issuer := by
  simp only [State.issuer, me_paid]
  rfl

theorem takeWeight_paid {s : State} {v : Nat} (h1 : 1 ≤ v) (h2 : v ≤ s.me.wt) : takeWeight s v = .ok (paid s v) :=
  takeWeight_gives h1 h2

theorem takeWeight_raises {s : State} {v : Nat} (h : v = 0 ∨ s.me.wt < v) : takeWeight s v = raise .weight (BitVec.ofNat 64 v) := by
  simp only [takeWeight, if_pos h]

theorem limits_true {b : Bool} (h : b = true) : limits b = .ok () := by simp [limits, need, h]

theorem limits_false {b : Bool} (h : b = false) : limits b = raise .illopnd 0 := by simp [limits, need, h]

theorem ready_true {b : Bool} (h : b = true) : ready b = .ok () := by simp [ready, h]

theorem need_true {b : Bool} (c : Cause) (h : b = true) : need b c = .ok () := by simp [need, h]

theorem need_false {b : Bool} (c : Cause) (h : b = false) : need b c = raise c 0 := by simp [need, h]

theorem niRoom_of_room {s : State} {sc : Scope} (h : Room s sc) : niRoom s sc = true := by simp [niRoom, h.1, h.2]

/-- The weight operand of a task that gives it. -/
theorem rd_gives {s : State} {b : Name} {v : Nat} (h : Gives s b v) :
    srcs [b] = .ok () ∧ (rd s 60 b = .ok (value s 60 b)) ∧ (value s 60 b).toNat = v ∧ takeWeight s v = .ok (paid s v) := by
  obtain ⟨hb, hv, h1, h2⟩ := h
  exact ⟨srcs_sound (by simpa using hb), rd_clean hb.2 60, hv, takeWeight_paid h1 h2⟩

/-! ## The hold of a task (R177) -/

theorem joinHold_raises {s : State} (h : ¬Holds s) : joinHold s = raise .weight 1 := by
  simp only [Holds, not_or, not_not, not_le, Nat.lt_one_iff] at h
  obtain ⟨hnone, hwt⟩ := h
  have hrec : (s.taskRec s.me.task).getD ⟨s.me.job, s.myCore, s.me.vcore, 0, false⟩ = holdOf s := rfl
  simp only [joinHold, hrec, if_pos hnone, if_pos hwt]

theorem joinHold_holds {s : State} (h : Holds s) :
    ∃ t, joinHold s = .ok t ∧ HoldJoined s t ∧ (∃ cs ts, t = { s with ctxs := cs, tasks := ts }) := by
  have hrec : (s.taskRec s.me.task).getD ⟨s.me.job, s.myCore, s.me.vcore, 0, false⟩ = holdOf s := rfl
  by_cases hnone : (holdOf s).holds = 0
  · have hwt : ¬s.me.wt = 0 := by rcases h with h | h <;> omega
    refine ⟨{ (s.setMe { s.me with wt := s.me.wt - 1 }) with tasks := s.tasks.set s.me.task { holdOf s with holds := 1, heldUnit := true } }, ?_, ?_,
      _, _, rfl⟩
    · simp only [joinHold, hrec, if_pos hnone, if_neg hwt]
    · refine ⟨?_, ?_⟩
      · rw [if_pos hnone]
        exact (me_congr rfl rfl).trans (me_setMe s _)
      · simp [hnone]
  · refine ⟨{ s with tasks := s.tasks.set s.me.task { holdOf s with holds := (holdOf s).holds + 1 } }, ?_, ?_, s.ctxs, _, rfl⟩
    · simp only [joinHold, hrec, if_neg hnone]
    · refine ⟨?_, ?_⟩
      · rw [if_neg hnone]
        rfl
      · simp [hnone]

/-! ## A request of the issuing task -/

/-- A request that is added stands last, and its packet leaves for its unit. -/
theorem postReq_leaves {t : State} {w : Issuer} {r : Req} {rs : List Req} (hreqs : t.reqs = rs ++ [r]) (dst : Endpoint) :
    ∃ (waits : List Nat) (n : Nat), t.postReq w r.id dst = { t with
      packets := t.packets ++ [⟨n, .request, w.ni, dst, .source, t.clk, 1, w.queue, waits, w.job, 0, .request r.id⟩], serial := t.serial + 1 } := by
  have hfound : (t.req? r.id).isSome = true := by
    rw [State.req?, hreqs, List.find?_isSome]
    exact ⟨r, by simp, by simp⟩
  obtain ⟨x, hx⟩ := Option.isSome_iff_exists.mp hfound
  exact ⟨x.waits, t.serial, by simp only [State.postReq, hx, State.post]⟩

/-- What the last packet of a state and its last request must be for the request to be made. -/
theorem requested_of {s t : State} {kind : ReqKind} {v : Nat} {cm : Cmsg} {cls : Machine.Class} {dst : Endpoint} {r : Req} {p : Packet}
    {ps : List Packet} (hme : t.me = { s.me with wt := s.me.wt - v }) (hreqs : t.reqs = s.reqs ++ [r]) (hkind : r.kind = kind) (hv : r.v = v)
    (hcm : r.cm = cm) (hjob : r.job = s.me.job) (htask : r.task = s.me.task) (hcore : r.core = s.myCore) (hvcore : r.vcore = s.me.vcore)
    (hcode : r.code = 0) (hpackets : t.packets = ps ++ [p]) (hcls : p.cls = cls) (hpos : p.pos = .source) (hsrc : p.src = .ni s.myTile)
    (hdst : p.dst = dst) (hqueue : p.queue = s.myCore + 1) (hpjob : p.job = s.me.job) : Requested s t kind v cm cls dst := by
  refine ⟨hme, ⟨r, by rw [hreqs, List.getLast?_concat], by rw [hreqs]; simp, fun q hq _ => ?_, hkind, hv, hcm, hjob, htask, hcore, hvcore, hcode⟩,
    p, by rw [hpackets, List.getLast?_concat], hcls, hpos, hsrc, hdst, hqueue, hpjob, trivial⟩
  rw [hreqs]
  exact List.mem_append_left _ hq

/-- A request of the issuing task that leaves for a unit. -/
theorem requested_request (s : State) (kind : ReqKind) (v : Nat) (cm : Cmsg) (path : Path) (sc : Scope) (rel : Option Scope) (left : Nat)
    (ranges : List (Space × Nat × Nat)) (dst : Endpoint) (as : List Acc → List Acc) :
    let s1 := (paid s v).request (paid s v).issuer kind v cm path sc rel left ranges
    Requested s (({ s1 with accs := as s1.accs } : State).postReq (paid s v).issuer (nextReq (paid s v)) dst) kind v cm .request dst := by
  intro s1
  obtain ⟨waits, n, hpost⟩ := postReq_leaves (t := { s1 with accs := as s1.accs }) (w := (paid s v).issuer)
    (r := (paid s v).newReq (paid s v).issuer kind v cm path rel left ranges) (rs := s.reqs) rfl dst
  have hid : ((paid s v).newReq (paid s v).issuer kind v cm path rel left ranges).id = nextReq (paid s v) := rfl
  rw [hid] at hpost
  rw [hpost]
  exact requested_of (r := (paid s v).newReq (paid s v).issuer kind v cm path rel left ranges) ((me_congr rfl rfl).trans (me_paid s v)) rfl rfl
    rfl rfl (congrArg Issuer.job (issuer_paid s v)) (congrArg Issuer.task (issuer_paid s v)) (congrArg Issuer.core (issuer_paid s v))
    (congrArg Issuer.vcore (issuer_paid s v)) rfl rfl rfl rfl (by rw [issuer_paid]; rfl) rfl (by rw [issuer_paid]; rfl) (by rw [issuer_paid]; rfl)

/-! ## The weight instructions (R272 to R274) -/

theorem wgtWret_completes {s : State} {a : Name} {j : Job} {v : Nat} (m : Mark) (h : Plain s 4) (hj : s.myJob = some j) (ha : Sound s a)
    (hv : (value s 0 a).toNat = v) (h1 : 1 ≤ v) (h2 : v ≤ s.me.wt) (hcensus : j.census = none) :
    ∃ t : State, Completes (.wgtWret a m) m s t .next ∧ t.me = { s.me with wt := s.me.wt - v }
      ∧ ∃ p : Packet, t.packets = s.packets ++ [p] ∧ p.cls = .weight ∧ p.src = .ni s.myTile ∧ p.dst = .unit j.die
        ∧ p.body = .pod s.me.job v false false := by
  have hmark : ¬Marked j (.ni s.myTile) := fun ⟨x, hx, _⟩ => by rw [hcensus] at hx; cases hx
  have hpod := pod_of_not_marked (s := paid s v) (src := .ni s.myTile) (job := s.me.job) (v := v) hj (by omega) hmark
  have hme : ((paid s v).post .weight (.ni s.myTile) (.unit j.die) s.me.job 1 0 [] (.pod s.me.job v false false)).me = _ :=
    (me_congr rfl rfl).trans (me_paid s v)
  refine ⟨_, completes_issue32 (exec_wgtWret a m s) h ?_, hme, _, rfl, rfl, rfl, rfl, rfl⟩
  rw [srcs_sound (by simpa using ha), rd_clean ha.2, ← hpod]
  simp only [bind, Except.bind, hv, takeWeight_paid h1 h2, fall]

theorem wgtWret_traps {s : State} {a : Name} {v : Nat} (m : Mark) (h : Plain s 4) (ha : Sound s a) (hv : (value s 0 a).toNat = v)
    (hbad : v = 0 ∨ s.me.wt < v) : Traps (.wgtWret a m) s .weight (BitVec.ofNat 64 v) := by
  refine traps_issue32 (exec_wgtWret a m s) h ?_
  rw [srcs_sound (by simpa using ha), rd_clean ha.2]
  simp only [bind, Except.bind, hv, takeWeight_raises hbad]
  rfl

/-- What goes to the home under the hold of the issuing task. -/
theorem toHome_leaves {s t : State} (hjoin : HoldJoined s t) (heq : ∃ cs ts, t = { s with ctxs := cs, tasks := ts }) (j : Job) (b : Body) :
    HoldJoined s (toHome t j b) ∧ Leaves s (toHome t j b) .request (.unit j.die) (· = b) := by
  have hjob : t.me.job = s.me.job := by rw [hjoin.1]
  obtain ⟨cs, ts, rfl⟩ := heq
  refine ⟨⟨(me_congr rfl rfl).trans hjoin.1, hjoin.2⟩, _, List.getLast?_concat, rfl, rfl, rfl, rfl, rfl, hjob, rfl⟩

theorem targetOk_iff {j : Job} {x c : Nat} : targetOk j x c = true ↔ x < 8 * j.vtiles ∧ (j.routine? c).isSome = true := by
  simp [targetOk, Job.hasVcore]

/-- A request to the home with its completion word in A. -/
theorem homeRequest_ok {s : State} {a b : Name} {j : Job} {v : Nat} (kind : ReqKind) (noMsg : Bool) (hj : s.myJob = some j) (ha : Sound s a)
    (hb : Sound s b) (hok : cmsgOk j (value s 0 a) false = true) (hclear : fieldOf (value s 0 a).toNat 27 5 = 0)
    (hmsg : noMsg = true ∨ (value s 0 a).toNat.testBit 26 = false) (hroom : s.niFull s.myCore = false) (hv : (value s 1 b).toNat = v)
    (h1 : 1 ≤ v) (h2 : v ≤ s.me.wt) :
    ∃ t, homeRequest kind noMsg a b s = .ok (t, .next) ∧ Requested s t kind v ⟨value s 0 a, 0⟩ .request (.unit j.die) := by
  have hlimits : (cmsgOk j (value s 0 a) false && fieldOf (value s 0 a).toNat 27 5 == 0 && (noMsg || !(value s 0 a).toNat.testBit 26)) = true := by
    rcases hmsg with h | h <;> simp [hok, hclear, h]
  refine ⟨_, ?_, requested_request s kind v ⟨value s 0 a, 0⟩ .core .task none 0 [] (.unit j.die) (fun _ => (paid s v).accs)⟩
  simp only [homeRequest, srcs_sound (show ∀ n ∈ [a, b], Sound s n by simpa using ⟨ha, hb⟩), theJob_of_myJob hj, rd_clean ha.2, rd_clean hb.2,
    limits_true hlimits, ready_true (show (!s.niFull s.myCore) = true by rw [hroom]; rfl), bind, Except.bind, hv, takeWeight_paid h1 h2, fall]

/-- Settles O24: the weight instructions. -/
theorem weightInstructions : Obligations.WeightInstructions := by
  unfold Obligations.WeightInstructions
  intro s m a b j h hj
  have hjob := theJob_of_myJob hj
  refine ⟨fun ha => ?wret, fun ha hb => ?qarm, fun hroom => ?qdisarm, fun hpriv => ?unprivileged, fun ha hb => ?home⟩
  case wret =>
    intro v
    exact ⟨fun hbad => wgtWret_traps m h ha rfl hbad, fun h1 h2 hcensus => wgtWret_completes m h hj ha rfl h1 h2 hcensus⟩
  case qarm =>
    intro x c ok
    have hsrcs := srcs_sound (show ∀ n ∈ [a, b], Sound s n by simpa using ⟨ha, hb⟩)
    have hcheck : (decide ((value s 1 b).toNat ≤ 255) && targetOk j (value s 0 a).toNat (value s 1 b).toNat) = true ↔ ok := by
      simp only [Bool.and_eq_true, decide_eq_true_eq, targetOk_iff, ok, x, c]
    refine ⟨fun hbad => traps_issue32 (exec_wgtQarm a b m s) h ?_, fun hok hroom hholds => ?_, fun hok hroom hholds =>
      traps_issue32 (exec_wgtQarm a b m s) h ?_⟩
    · have hfalse := Bool.eq_false_iff.mpr (fun hc => hbad (hcheck.mp hc))
      simp only [hsrcs, hjob, rd_clean ha.2, rd_clean hb.2, bind, Except.bind, limits_false hfalse]
      rfl
    · obtain ⟨t, hjoin, hjoined, heq⟩ := joinHold_holds hholds
      obtain ⟨hheld, hleaves⟩ := toHome_leaves hjoined heq j (.arm s.me.job s.me.task x c)
      refine ⟨_, completes_issue32 (exec_wgtQarm a b m s) h ?_, hheld, hleaves⟩
      simp only [hsrcs, hjob, rd_clean ha.2, rd_clean hb.2, bind, Except.bind, limits_true (hcheck.mpr hok),
        ready_true (show (!s.niFull s.myCore) = true by rw [hroom]; rfl), hjoin, fall]
      rfl
    · simp only [hsrcs, hjob, rd_clean ha.2, rd_clean hb.2, bind, Except.bind, limits_true (hcheck.mpr hok),
        ready_true (show (!s.niFull s.myCore) = true by rw [hroom]; rfl), joinHold_raises hholds]
      rfl
  case qdisarm =>
    have hready := ready_true (show (!s.niFull s.myCore) = true by rw [hroom]; rfl)
    refine ⟨fun hholds => ?_, fun hholds => traps_issue32 (exec_wgtQdisarm m s) h ?_⟩
    · obtain ⟨t, hjoin, hjoined, heq⟩ := joinHold_holds hholds
      obtain ⟨hheld, hleaves⟩ := toHome_leaves hjoined heq j (.disarm s.me.job s.me.task)
      refine ⟨_, completes_issue32 (exec_wgtQdisarm m s) h ?_, hheld, hleaves⟩
      simp only [hjob, hready, hjoin, bind, Except.bind, fall]
    · simp only [hjob, hready, joinHold_raises hholds, bind, Except.bind]
      rfl
  case unprivileged =>
    exact traps_issue32 (exec_wgtWcensus a b m s) h (by simp only [need_false .priv hpriv, bind, Except.bind]; rfl)
  case home =>
    intro c v hok hclear hroom h1 h2
    refine ⟨fun hpriv => ?_, fun hmsg => ?_⟩
    · obtain ⟨t, heff, hreq⟩ := homeRequest_ok .census true hj ha hb hok hclear (.inl rfl) hroom rfl h1 h2
      exact ⟨t, completes_issue32 (exec_wgtWcensus a b m s) h (by simp only [need_true .priv hpriv, bind, Except.bind, heff]), hreq⟩
    · obtain ⟨t, heff, hreq⟩ := homeRequest_ok .wloss false hj ha hb hok hclear (.inr hmsg) hroom rfl h1 h2
      exact ⟨t, completes_issue32 (exec_wgtWloss a b m s) h heff, hreq⟩

/-! ## Instructions with a command block (R175 to R179) -/

theorem blockWords_length (s : State) (place r n : Nat) : (blockWords s place r n).length = n := by
  induction n generalizing place r with
  | zero => rfl
  | succ n ih => rw [blockWords, List.length_cons, ih]

theorem blockAt_of_notS {a : Name} (h : ∀ r, a ≠ .s r) (n : Nat) : blockAt a n = raise .illopnd 0 := by
  cases a with
  | s r => exact absurd rfl (h r)
  | _ => rfl

theorem block_of_notS {a : Name} (h : ∀ r, a ≠ .s r) (s : State) (n : Nat) : block s a n = raise .illopnd 0 := by
  rw [block, blockAt_of_notS h]
  rfl

/-- A source that may not stand there and a block that is none are the same trap. -/
theorem srcs_or_illopnd (b : Name) : srcs [b] = .ok () ∨ srcs [b] = raise .illopnd 0 := by
  unfold srcs need
  split
  · exact .inl rfl
  · exact .inr rfl

/-- What an instruction's own effect must be for it to be a command: once its checks have passed it takes the weight and makes its
request. -/
structure CommandRule (c : Stated.Command) (f : Name → Name → State → Res) (queue : State → Job → List Word → Nat → State) : Prop where
  exec : ∀ a b m s, exec (c.i a b m) s = issue32 m s (f a b s)
  reach : ∀ {s j a b w v}, c.Ready s j a w → Sound s b → (value s 60 b).toNat = v →
    f a b s = (takeWeight s v >>= fun s1 => fall (queue s1 j w v))
  made : ∀ {s j a w v}, c.Ready s j a w →
    Requested s (queue (paid s v) j w v) (c.kind w) v ⟨w.getD c.cm 0, w.getD (c.cm + 1) 0⟩ c.cls (c.dst s j w)
  names : ∀ {s j a b}, s.myJob = some j → (c.privileged = true → s.me.privileged = true) → (∀ r, a ≠ .s r) → f a b s = raise .illopnd 0
  priv : ∀ {s a b}, c.privileged = true → s.me.privileged = false → f a b s = raise .priv 0

/-- Such an instruction is as the statement says of a command. -/
theorem command_stated {c : Stated.Command} {f : Name → Name → State → Res} {queue : State → Job → List Word → Nat → State}
    (r : CommandRule c f queue) (s : State) (m : Mark) (a b : Name) (j : Job) (w : List Word) (v : Nat) :
     (c.Ready s j a w → Gives s b v →
       ∃ t : State, Completes (c.i a b m) m s t .next ∧ Requested s t (c.kind w) v ⟨w.getD c.cm 0, w.getD (c.cm + 1) 0⟩ c.cls (c.dst s j w))
     ∧ (c.Ready s j a w → Sound s b → (value s 60 b).toNat = v → (v = 0 ∨ s.me.wt < v) →
       Traps (c.i a b m) s .weight (BitVec.ofNat 64 v))
     ∧ (Plain s 4 → s.myJob = some j → (c.privileged = true → s.me.privileged = true) → (∀ r, a ≠ .s r) →
       Traps (c.i a b m) s .illopnd 0)
     ∧ (Plain s 4 → c.privileged = true → s.me.privileged = false → Traps (c.i a b m) s .priv 0) := by
  refine ⟨fun hready hgives => ?_, fun hready hb hv hbad => ?_, fun h hj hp ha => traps_issue32 (r.exec a b m s) h (r.names hj hp ha),
    fun h hp hnot => traps_issue32 (r.exec a b m s) h (r.priv hp hnot)⟩
  · obtain ⟨hb, hv, h1, h2⟩ := hgives
    exact ⟨_, completes_issue32 (r.exec a b m s) hready.1 (by rw [r.reach hready hb hv, takeWeight_paid h1 h2]; rfl), r.made hready⟩
  · exact traps_issue32 (r.exec a b m s) hready.1 (by rw [r.reach hready hb hv, takeWeight_raises hbad]; rfl)

/-! ### grd and gwr -/

/-- A packet of the issuing task that leaves its NI with an access. -/
theorem sendPieces_packets (w : Issuer) (r : Req) (kind : AccKind) (g a : Nat) (ps : List (Nat × Nat)) (hne : ps ≠ []) (s : State) :
    ∃ (ks : List Packet) (n : Nat) (p : Packet), sendPieces w r kind g a s ps = { s with packets := ks ++ [p], serial := n }
      ∧ p.cls = .request ∧ p.pos = .source ∧ p.src = .ni (tileOf r.core) ∧ p.dst = entryStation (tileOf r.core) ∧ p.queue = w.queue ∧ p.job = r.job := by
  induction ps generalizing s with
  | nil => exact absurd rfl hne
  | cons x ps ih =>
    obtain ⟨off, n⟩ := x
    match ps with
    | [] => exact ⟨s.packets, _, _, rfl, rfl, rfl, rfl, rfl, rfl, rfl⟩
    | y :: ps =>
      obtain ⟨ks, n', p, heq, hp⟩ := ih (by simp) (s.toStation ⟨r.id, r.job, r.task, r.core, kind, g + off, noPa, n, [], a + off, 0, 0, 0, 0, 0,
        r.rel, r.know, r.acc, none, .ni (tileOf r.core)⟩ w.queue r.waits)
      exact ⟨ks, n', p, heq, hp⟩

theorem pieces_ne_nil {g n : Nat} (h : 1 ≤ n) : pieces g n ≠ [] := by
  simp [pieces, cutLines, show ¬n = 0 by omega]

theorem gxCheck_ok {j : Job} {w : List Word} {l : Bool} (h0 : wordAt w 0 < 2 ^ 52) (h1 : wordAt w 1 < if l then 2 ^ 20 else 2 ^ 16)
    (h2 : 1 ≤ wordAt w 2 ∧ wordAt w 2 ≤ if l then 0x100000 else 0x10000) (hcm : cmsgOk j (w.getD 3 0) true = true) : gxCheck j w l = .ok () := by
  simp only [gxCheck, cmsgLimits, limits_true (decide_eq_true h0), limits_true (decide_eq_true h1), limits_true (decide_eq_true h2), limits_true hcm,
    bind, Except.bind]

/-- The checks of a transfer pass, and it takes its weight. -/
theorem blockTransfer_reach {s : State} {j : Job} {a b : Name} {w : List Word} {v : Nat} (wr_ q l : Bool) (hj : s.myJob = some j)
    (hblock : BlockIs s a 5 w) (hcheck : gxCheck j w l = .ok ()) (hroom : Room s .die) (hb : Sound s b) (hv : (value s 60 b).toNat = v) :
    blockTransfer wr_ a b q l s = (takeWeight s v >>= fun s1 => fall (queueBlock s1.issuer wr_ l q w v s1)) := by
  obtain ⟨hwords, hsound⟩ := block_is hblock
  simp only [blockTransfer, srcs_sound (show ∀ n ∈ [b], Sound s n by simpa using hb), theJob_of_myJob hj, hwords, hcheck,
    ready_true (niRoom_of_room hroom), hsound, rd_clean hb.2, hv, bind, Except.bind]

theorem blockTransfer_names {s : State} {j : Job} {a b : Name} (wr_ q l : Bool) (hj : s.myJob = some j) (ha : ∀ r, a ≠ .s r) :
    blockTransfer wr_ a b q l s = raise .illopnd 0 := by
  rcases srcs_or_illopnd b with hb | hb <;>
    simp only [blockTransfer, hb, theJob_of_myJob hj, block_of_notS ha, bind, Except.bind] <;> rfl

/-- A transfer inside the job's range leaves in pieces for the station. -/
theorem queueBlock_made {s : State} {j : Job} {w : List Word} (v : Nat) (wr_ q l : Bool) (hj : s.myJob = some j)
    (hsize : 1 ≤ wordAt w 2) (hrange : gxStatus j (wordAt w 1) (wordAt w 2) l = 0) :
    Requested s (queueBlock (paid s v).issuer wr_ l q w v (paid s v))
      (if wr_ then .gwr (wordAt w 0) (wordAt w 1) (wordAt w 2) l else .grd (wordAt w 0) (wordAt w 1) (wordAt w 2) l q) v
      ⟨w.getD 3 0, w.getD 4 0⟩ .request (entryStation s.myTile) := by
  have hjob : (paid s v).job? (paid s v).issuer.job = some j := by rw [issuer_paid]; exact hj
  simp only [queueBlock, hjob, hrange, ne_eq, not_true_eq_false, if_false]
  obtain ⟨ks, n, p, heq, hcls, hpos, hsrc, hdst, hqueue, hpjob⟩ := sendPieces_packets (paid s v).issuer _ (if wr_ then .write else .read) (wordAt w 0)
    (sideOf (paid s v).issuer.job (paid s v).issuer.vcore (wordAt w 1) l).2 _ (pieces_ne_nil (g := wordAt w 0) hsize) _
  rw [heq]
  rw [issuer_paid] at hqueue
  refine requested_of ((me_congr rfl rfl).trans (me_paid s v)) rfl rfl rfl rfl (congrArg Issuer.job (issuer_paid s v))
    (congrArg Issuer.task (issuer_paid s v)) (congrArg Issuer.core (issuer_paid s v)) (congrArg Issuer.vcore (issuer_paid s v)) rfl rfl hcls hpos
    hsrc hdst hqueue (hpjob.trans (congrArg Issuer.job (issuer_paid s v)))

theorem gxStatus_of_inside {j : Job} {n1 n2 : Nat} {l : Bool}
    (h : n1 + n2 ≤ if l then min 0x100000 (65536 * j.tbanks) else min 0x10000 (4096 * j.lsize)) : gxStatus j n1 n2 l = 0 := by
  cases l
  · exact if_neg (by simpa only [Job.localLimit] using not_lt.mpr h)
  · exact if_neg (by simpa only [Job.tileLimit] using not_lt.mpr h)

theorem commandRule_block (wr_ q l : Bool) : CommandRule (Stated.blockCommand wr_ q l) (fun a b s => blockTransfer wr_ a b q l s)
    (fun s _ w v => queueBlock s.issuer wr_ l q w v s) where
  exec a b m s := by cases wr_ <;> rfl
  reach := by
    rintro s j a b w v ⟨-, hj, -, hblock, ⟨h0, h1, h2, hrange⟩, hcm, hroom⟩ hb hv
    exact blockTransfer_reach wr_ q l hj hblock (gxCheck_ok h0 h2 ⟨h1, by split at hrange <;> simp_all <;> omega⟩ hcm) hroom hb hv
  made := by
    rintro s j a w v ⟨-, hj, -, -, ⟨-, h1, -, hrange⟩, -, -⟩
    exact queueBlock_made v wr_ q l hj h1 (gxStatus_of_inside hrange)
  names hj _ ha := blockTransfer_names wr_ q l hj ha
  priv h := nomatch h

/-! ### Near-memory operations -/

theorem nearWords_ge (f n : Nat) : 4 ≤ nearWords f n := by
  unfold nearWords
  split <;> omega

/-- The first word of a block is the register the block begins at. -/
theorem wordAt_zero_blockWords {s : State} {place r n : Nat} (h : 1 ≤ n) : wordAt (blockWords s place r n) 0 = (readS s place r).toNat := by
  obtain ⟨n, rfl⟩ := Nat.exists_eq_add_of_le' h
  rfl

theorem nearWith_reach {s : State} {j : Job} {a b : Name} {w : List Word} {v : Nat} (f : Nat) (hj : s.myJob = some j)
    (hblock : BlockIs s a (nearWords f (fieldOf (wordAt w 0) 15 4)) w) (hctl : nearCtlOk f (wordAt w 0) = true)
    (hchase : f = 5 → chaseOk (wordAt w 5) = true) (hcm : cmsgOk j (w.getD 2 0) false = true)
    (hroom : Room s (if (nearFar s w).isSome then .system else .die)) (hb : Sound s b) (hv : (value s 60 b).toNat = v) :
    nearWith f a b s = (takeWeight s v >>= fun s1 => fall (queueNear s1.issuer f w v s1)) := by
  obtain ⟨hwords, hsound⟩ := block_is hblock
  obtain ⟨r, rfl, hr, hw, -⟩ := hblock
  have hlen := nearWords_ge f (fieldOf (wordAt w 0) 15 4)
  have hfirst : (readS s 40 r).toNat = wordAt w 0 := by
    conv_rhs => rw [hw]
    exact (wordAt_zero_blockWords (by omega)).symm
  have hat : blockAt (.s r) 4 = .ok r.val := if_pos (by omega)
  have hcheck : nearCheck j f w = .ok () := by
    have hf : (f != 5 || chaseOk (wordAt w 5)) = true := by
      by_cases h : f = 5
      · simp [hchase h]
      · simp [h]
    simp only [nearCheck, limits_true hctl, limits_true hf, cmsgLimits, limits_true hcm, bind, Except.bind]
  simp only [nearWith, srcs_sound (show ∀ n ∈ [b], Sound s n by simpa using hb), theJob_of_myJob hj, hat, hfirst, limits_true hctl, hwords, hcheck,
    ready_true (niRoom_of_room hroom), hsound, rd_clean hb.2, hv, bind, Except.bind]

theorem nearWith_names {s : State} {j : Job} {a b : Name} (f : Nat) (hj : s.myJob = some j) (ha : ∀ r, a ≠ .s r) :
    nearWith f a b s = raise .illopnd 0 := by
  rcases srcs_or_illopnd b with hb | hb <;>
    simp only [nearWith, hb, theJob_of_myJob hj, blockAt_of_notS ha, bind, Except.bind] <;> rfl

theorem nearFar_paid (s : State) (v : Nat) (w : List Word) : nearFar (paid s v) w = nearFar s w := rfl

/-- A near-memory request leaves for the station, or for an I/O node where it names another device. -/
theorem queueNear_made (s : State) (w : List Word) (v f : Nat) :
    Requested s (queueNear (paid s v).issuer f w v (paid s v)) (.near f w) v ⟨w.getD 2 0, w.getD 3 0⟩ .request
      (if (nearFar s w).isSome then .west (s.myTile / 128) else entryStation s.myTile) := by
  unfold queueNear
  dsimp only
  rw [nearFar_paid]
  split
  case h_1 d hd =>
    rw [hd]
    obtain ⟨waits, n, hpost⟩ := postReq_leaves (t := (paid s v).addReq (paid s v).issuer .near (if (some d).isSome then .system else .die)
      [nearRange (paid s v) (paid s v).issuer.job f w] _) (w := (paid s v).issuer)
      (r := { (paid s v).newReq (paid s v).issuer (.near f w) v ⟨w.getD 2 0, w.getD 3 0⟩ .near (relOf ⟨w.getD 2 0, w.getD 3 0⟩) 0
        [nearRange (paid s v) (paid s v).issuer.job f w] with failAt := wordAt w 1 }) (rs := s.reqs) rfl (.west (paid s v).issuer.ni.row)
    rw [hpost]
    exact requested_of ((me_congr rfl rfl).trans (me_paid s v)) rfl rfl rfl rfl (congrArg Issuer.job (issuer_paid s v))
      (congrArg Issuer.task (issuer_paid s v)) (congrArg Issuer.core (issuer_paid s v)) (congrArg Issuer.vcore (issuer_paid s v)) rfl rfl rfl rfl
      rfl rfl (by rw [issuer_paid]; rfl) (congrArg Issuer.job (issuer_paid s v))
  case h_2 hd =>
    rw [hd]
    exact requested_of ((me_congr rfl rfl).trans (me_paid s v)) rfl rfl rfl rfl (congrArg Issuer.job (issuer_paid s v))
      (congrArg Issuer.task (issuer_paid s v)) (congrArg Issuer.core (issuer_paid s v)) (congrArg Issuer.vcore (issuer_paid s v)) rfl rfl rfl rfl
      rfl rfl (by rw [issuer_paid]; rfl) (congrArg Issuer.job (issuer_paid s v))

theorem commandRule_near {i : Name → Name → Mark → Instr} {f : Nat} (hexec : ∀ a b m s, exec (i a b m) s = issue32 m s (nearWith f a b s)) :
    CommandRule (Stated.nearCommand i f) (nearWith f) (fun s _ w v => queueNear s.issuer f w v s) where
  exec := hexec
  reach := by
    rintro s j a b w v ⟨-, hj, -, hblock, ⟨hctl, hchase⟩, hcm, hroom⟩ hb hv
    exact nearWith_reach f hj hblock hctl hchase hcm hroom hb hv
  made := fun {s j a w v} _ => queueNear_made s w v f
  names hj _ ha := nearWith_names f hj ha
  priv h := nomatch h

/-! ### Futures -/

theorem futureDie_eq (s : State) (f : Nat) (w : List Word) : futureDie s.myTile f w = Stated.futureUnit s f w := rfl

theorem futureWith_reach {s : State} {j : Job} {a b : Name} {w : List Word} {v f : Nat} (hj : s.myJob = some j)
    (hblock : BlockIs s a (futureWords f) w) (hcheck : futureCheck j f w = .ok ())
    (hroom : Room s (if Stated.futureUnit s f w = s.myTile % 128 / 16 then .die else .device)) (hb : Sound s b) (hv : (value s 60 b).toNat = v) :
    futureWith f a b s = (takeWeight s v >>= fun s1 => fall (queueFuture s1.issuer f w v s1)) := by
  obtain ⟨hwords, hsound⟩ := block_is hblock
  simp only [futureWith, srcs_sound (show ∀ n ∈ [b], Sound s n by simpa using hb), theJob_of_myJob hj, hwords, hcheck,
    ready_true (niRoom_of_room (s := s) (sc := if futureDie s.myTile f w = tileDie s.myTile then .die else .device) hroom), hsound, rd_clean hb.2, hv,
    bind, Except.bind]

theorem futureCheck_ok {j : Job} {f : Nat} {w : List Word} (hcm : cmsgOk j (w.getD (futureCm f) 0) false = true)
    (hok : if f = 0 then (w.getD 0 0).toNat.testBit 26 = false
      else fieldOf (wordAt w 0) 17 15 = 0 ∧ fieldOf (wordAt w 0) 48 15 = 0 ∧ (wordAt w 0).testBit 63 = true) : futureCheck j f w = .ok () := by
  by_cases hf : f = 0
  · subst hf
    have hmsg : (w.getD (futureCm 0) 0).toNat.testBit 26 = false := hok
    simp only [futureCheck, cmsgLimits, limits_true hcm, ne_eq, not_true_eq_false, if_false, beq_self_eq_true, Bool.true_and, hmsg, Bool.not_false,
      limits_true, bind, Except.bind]
  · rw [if_neg hf] at hok
    have hform : handleForm (wordAt w 0) = true := by simp [handleForm, hok]
    have hmsg : (!(f == 0 && (w.getD (futureCm f) 0).toNat.testBit 26)) = true := by simp [hf]
    simp only [futureCheck, cmsgLimits, limits_true hcm, ne_eq, hf, not_false_eq_true, if_true, limits_true hform, limits_true hmsg, bind, Except.bind]

theorem futureWith_names {s : State} {j : Job} {a b : Name} (f : Nat) (hj : s.myJob = some j) (ha : ∀ r, a ≠ .s r) :
    futureWith f a b s = raise .illopnd 0 := by
  rcases srcs_or_illopnd b with hb | hb <;>
    simp only [futureWith, hb, theJob_of_myJob hj, block_of_notS ha, bind, Except.bind] <;> rfl

theorem commandRule_future {i : Name → Name → Mark → Instr} {f : Nat} (hexec : ∀ a b m s, exec (i a b m) s = issue32 m s (futureWith f a b s)) :
    CommandRule (Stated.futureCommand i f (futureWords f) (futureCm f)) (futureWith f) (fun s _ w v => queueFuture s.issuer f w v s) where
  exec := hexec
  reach := by
    rintro s j a b w v ⟨-, hj, -, hblock, hok, hcm, hroom⟩ hb hv
    exact futureWith_reach hj hblock (futureCheck_ok hcm hok) hroom hb hv
  made := fun {s j a w v} _ => requested_request s (.future f w) v ⟨w.getD (futureCm f) 0, w.getD (futureCm f + 1) 0⟩ .near _ _ 0 _ _ id
  names hj _ ha := futureWith_names f hj ha
  priv h := nomatch h

/-! ### Definitions of reductions -/

theorem defineWith_reach {s : State} {j : Job} {a b : Name} {w : List Word} {v n cmAt : Nat} {kind : List Word → ReqKind}
    {check : Job → List Word → Except Stop Unit} {root : Job → List Word → Option Nat} (hj : s.myJob = some j)
    (hblock : BlockIs s a n w) (hcheck : check j w = .ok ()) (hroom : Room s .device) (hb : Sound s b) (hv : (value s 60 b).toNat = v) :
    defineWith n cmAt kind check root a b s = (takeWeight s v >>= fun s1 => fall ((s1.request s1.issuer (kind w) v ⟨w.getD cmAt 0, w.getD (cmAt + 1) 0⟩ .net
      .device (relOf ⟨w.getD cmAt 0, w.getD (cmAt + 1) 0⟩) 0 []).postReq s1.issuer (nextReq s1) (ndHome j s1.issuer (root j w)))) := by
  obtain ⟨hwords, hsound⟩ := block_is hblock
  simp only [defineWith, srcs_sound (show ∀ n ∈ [b], Sound s n by simpa using hb), theJob_of_myJob hj, hwords, hcheck,
    ready_true (niRoom_of_room hroom), hsound, rd_clean hb.2, hv, bind, Except.bind]

theorem defineWith_names {s : State} {j : Job} {a b : Name} (n cmAt : Nat) (kind : List Word → ReqKind)
    (check : Job → List Word → Except Stop Unit) (root : Job → List Word → Option Nat) (hj : s.myJob = some j) (ha : ∀ r, a ≠ .s r) :
    defineWith n cmAt kind check root a b s = raise .illopnd 0 := by
  rcases srcs_or_illopnd b with hb | hb <;>
    simp only [defineWith, hb, theJob_of_myJob hj, block_of_notS ha, bind, Except.bind] <;> rfl

theorem nrdefCheck_ok {j : Job} {w : List Word} (h : Stated.DefinitionOk j w) (hcm : cmsgOk j (w.getD 5 0) false = true) : nrdefCheck j w = .ok () := by
  obtain ⟨hzero, hnt1, hnt, hmask, hop, hn1, hn32, ht0, hroot, ht1, ht32, hthr, halign, hdest, hcm3⟩ := h
  have hfirst : (fieldOf (wordAt w 0) 56 8 == 0 && decide (ndNt w ≤ 256)) = true := by simp [hzero, hnt]
  have hsecond : (decide (1 ≤ wordAt w 1 ∧ wordAt w 1 < 2 ^ 32) && decide (wordAt w 2 < 2 ^ 16) && ndDest w % 4 == 0) = true := by
    simp only [Bool.and_eq_true, decide_eq_true_eq, beq_iff_eq]
    exact ⟨⟨⟨ht1, ht32⟩, hthr⟩, halign⟩
  have hthird : (ndElems w == 0 || decide (32 < ndElems w) || decide (ndDest w + 4 * ndElems w ≤ 0x10000)) = true := by simp [hdest]
  have hconfig : (ndNt w != 0 && ndMask w != 0 && ndOp w != 3 && decide (1 ≤ ndElems w ∧ ndElems w ≤ 32) && decide (ndT0 w + ndNt w ≤ j.vtiles)
      && j.hasVcore (ndRoot w)) = true := by
    simp only [Job.hasVcore, Bool.and_eq_true, decide_eq_true_eq, bne_iff_ne]
    exact ⟨⟨⟨⟨⟨by omega, hmask⟩, hop⟩, hn1, hn32⟩, ht0⟩, hroot⟩
  simp only [nrdefCheck, cmsgLimits, limits_true hfirst, limits_true hsecond, limits_true hthird, limits_true hcm3, limits_true hcm,
    need_true .nredcfg hconfig, bind, Except.bind]

theorem commandRule_nrdef : CommandRule ⟨.nrdef, fun _ => 7, 5, .nrdef, Stated.DefinitionOk, false, fun _ _ => some .device,
      fun _ j w => .ni (j.tile (ndRoot w / 8)), false, .request⟩ (defineWith 7 5 .nrdef nrdefCheck (fun _ w => some (ndRoot w)))
    (fun s j w v => (s.request s.issuer (.nrdef w) v ⟨w.getD 5 0, w.getD (5 + 1) 0⟩ .net .device (relOf ⟨w.getD 5 0, w.getD (5 + 1) 0⟩) 0 []).postReq
      s.issuer (nextReq s) (ndHome j s.issuer (some (ndRoot w)))) where
  exec := exec_nrdef
  reach := by
    rintro s j a b w v ⟨-, hj, -, hblock, hok, hcm, hroom⟩ hb hv
    exact defineWith_reach hj hblock (nrdefCheck_ok hok hcm) hroom hb hv
  made := fun {s j a w v} _ => requested_request s (.nrdef w) v ⟨w.getD 5 0, w.getD (5 + 1) 0⟩ .net .device _ 0 [] _ id
  names hj _ ha := defineWith_names _ _ _ _ _ hj ha
  priv h := nomatch h

theorem commandRule_nrfree : CommandRule ⟨.nrfree, fun _ => 3, 1, .nrfree, fun _ w => wordAt w 0 < 64, false, fun _ _ => some .device, fun s j w =>
          match j.ndef (wordAt w 0) with
          | some d => .ni (j.tile (ndRoot d.block / 8))
          | none => .ni s.myTile, false, .request⟩
    (defineWith 3 1 .nrfree nrfreeCheck (fun j w => (j.ndef (wordAt w 0)).map (fun d => ndRoot d.block)))
    (fun s j w v => (s.request s.issuer (.nrfree w) v ⟨w.getD 1 0, w.getD (1 + 1) 0⟩ .net .device (relOf ⟨w.getD 1 0, w.getD (1 + 1) 0⟩) 0 []).postReq
      s.issuer (nextReq s) (ndHome j s.issuer ((j.ndef (wordAt w 0)).map (fun d => ndRoot d.block)))) where
  exec := exec_nrfree
  reach := by
    rintro s j a b w v ⟨-, hj, -, hblock, hok, hcm, hroom⟩ hb hv
    refine defineWith_reach hj hblock ?_ hroom hb hv
    simp only [nrfreeCheck, limits_true (decide_eq_true hok), cmsgLimits, limits_true hcm, bind, Except.bind]
  made := by
    rintro s j a w v -
    have hmade (dst) := requested_request s (.nrfree w) v ⟨w.getD 1 0, w.getD (1 + 1) 0⟩ .net .device (relOf ⟨w.getD 1 0, w.getD (1 + 1) 0⟩) 0 [] dst id
    dsimp only
    match j.ndef (wordAt w 0) with
    | some d => exact hmade _
    | none => exact hmade _
  names hj _ ha := defineWith_names _ _ _ _ _ hj ha
  priv h := nomatch h

/-! ### Requests to the launch unit -/

/-- What `launch` comes to. -/
def launchEffect (a b : Name) (s : State) : Res := do
  srcs [b]
  let j ← theJob s
  let words ← block s a 3
  limits (wordAt words 0 % 64 == 0 && decide (wordAt words 0 < 2 ^ 52))
  cmsgLimits j (words.getD 1 0) false
  ready (niRoom s .die)
  blockOk s a 3
  let v ← rd s 60 b
  let s1 ← takeWeight s v.toNat
  let w := s1.issuer
  let cm : Cmsg := ⟨words.getD 1 0, words.getD 2 0⟩
  let s2 := s1.request w (.launch (wordAt words 0)) v.toNat cm .host .die (relOf cm) 0 [globalRange w.job (wordAt words 0) 320]
  fall (s2.postReq w (nextReq s1) (launchFrom s.myTile))

theorem commandRule_launch : CommandRule (Stated.unitCommand .launch 3 1 (fun w => .launch (wordAt w 0))
      (fun w => wordAt w 0 % 64 = 0 ∧ wordAt w 0 < 2 ^ 52) (some .die) false .request) launchEffect
    (fun s _ w v => (s.request s.issuer (.launch (wordAt w 0)) v ⟨w.getD 1 0, w.getD 2 0⟩ .host .die (relOf ⟨w.getD 1 0, w.getD 2 0⟩) 0
      [globalRange s.issuer.job (wordAt w 0) 320]).postReq s.issuer (nextReq s) (launchFrom s.myTile)) where
  exec _ _ _ _ := rfl
  reach := by
    rintro s j a b w v ⟨-, hj, -, hblock, ⟨halign, haddr⟩, hcm, hroom⟩ hb hv
    obtain ⟨hwords, hsound⟩ := block_is (n := 3) hblock
    have hlimits : (wordAt w 0 % 64 == 0 && decide (wordAt w 0 < 2 ^ 52)) = true := by
      simp only [Bool.and_eq_true, beq_iff_eq, decide_eq_true_eq]
      exact ⟨halign, haddr⟩
    have hcm' : cmsgOk j (w.getD 1 0) false = true := hcm
    simp only [launchEffect, srcs_sound (show ∀ n ∈ [b], Sound s n by simpa using hb), theJob_of_myJob hj, hwords, limits_true hlimits, cmsgLimits,
      limits_true hcm', ready_true (niRoom_of_room (s := s) (sc := .die) hroom), hsound, rd_clean hb.2, hv, bind, Except.bind]
    by_cases hbad : v = 0 ∨ s.me.wt < v
    · rw [takeWeight_raises hbad]
      rfl
    · rw [takeWeight_paid (by omega) (by omega)]
      rfl
  made := fun {s j a w v} _ => requested_request s (.launch (wordAt w 0)) v ⟨w.getD 1 0, w.getD 2 0⟩ .host .die _ 0 _ _ id
  names := by
    intro s j a b hj _ ha
    rcases srcs_or_illopnd b with hb | hb <;>
      simp only [launchEffect, hb, theJob_of_myJob hj, block_of_notS ha, bind, Except.bind] <;> rfl
  priv h := nomatch h

/-- A management request of the issuing task. -/
theorem unitRequest_made (s : State) (kind : ReqKind) (v : Nat) (cm : Cmsg) :
    Requested s (unitRequest kind v cm (paid s v)) kind v cm .management (.west (s.myTile / 128)) := by
  let r := (paid s v).newReq (paid s v).issuer kind v cm .host (relOf cm) 0 []
  have hfound : ((s.reqs ++ [r]).find? (fun x => x.id == nextReq (paid s v))).isSome = true := by
    rw [List.find?_isSome]
    exact ⟨r, by simp, beq_self_eq_true _⟩
  obtain ⟨x, hx⟩ := Option.isSome_iff_exists.mp hfound
  have hreq : unitRequest kind v cm (paid s v) = ({ (paid s v).request (paid s v).issuer kind v cm .host .system (relOf cm) 0 [] with
      accs := (paid s v).accs } : State).post .management (paid s v).issuer.ni (launchFrom s.myTile) (paid s v).issuer.job 1
      (paid s v).issuer.queue x.waits (.request x.id) := by
    unfold unitRequest
    dsimp only
    split
    case h_1 y hy =>
      obtain rfl : y = x := Option.some.inj (hy.symm.trans hx)
      rfl
    case h_2 hy => cases hy.symm.trans hx
  rw [hreq]
  exact requested_of (r := r) ((me_congr rfl rfl).trans (me_paid s v)) rfl rfl rfl rfl (congrArg Issuer.job (issuer_paid s v))
    (congrArg Issuer.task (issuer_paid s v)) (congrArg Issuer.core (issuer_paid s v)) (congrArg Issuer.vcore (issuer_paid s v)) rfl rfl rfl rfl
    rfl rfl (by rw [issuer_paid]; rfl) (congrArg Issuer.job (issuer_paid s v))

theorem commandRule_context {i : Name → Name → Mark → Instr} {n cm : Nat} {kind : List Word → ReqKind} {ok : List Word → Bool}
    {okProp : List Word → Prop} (hok : ∀ w, okProp w → ok w = true)
    (hexec : ∀ a b m s, exec (i a b m) s = issue32 m s (contextRequest n cm ok kind a b s)) :
    CommandRule (Stated.unitCommand i n cm kind okProp none true .management) (contextRequest n cm ok kind)
      (fun s _ w v => unitRequest (kind w) v ⟨w.getD cm 0, w.getD (cm + 1) 0⟩ s) where
  exec := hexec
  reach := by
    rintro s j a b w v ⟨-, hj, hpriv, hblock, hw, hcm, hroom⟩ hb hv
    obtain ⟨hwords, hsound⟩ := block_is (n := n) hblock
    have hroom' : (!s.niFull s.myCore) = true := by rw [show s.niFull s.myCore = false from hroom]; rfl
    have hcm' : cmsgOk j (w.getD cm 0) false = true := hcm
    simp only [contextRequest, need_true .priv (hpriv rfl), srcs_sound (show ∀ n ∈ [b], Sound s n by simpa using hb), theJob_of_myJob hj, hwords,
      limits_true (hok w hw), cmsgLimits, limits_true hcm', ready_true hroom', hsound, rd_clean hb.2, hv, bind, Except.bind]
  made := fun {s j a w v} _ => unitRequest_made s (kind w) v ⟨w.getD cm 0, w.getD (cm + 1) 0⟩
  names := by
    intro s j a b hj hpriv ha
    rcases srcs_or_illopnd b with hb | hb <;>
      simp only [contextRequest, need_true .priv (hpriv rfl), hb, theJob_of_myJob hj, block_of_notS ha, bind, Except.bind] <;> rfl
  priv := by
    intro s a b _ hnot
    simp only [contextRequest, need_false .priv hnot, bind, Except.bind]
    rfl

/-- Every command follows its rule. -/
theorem commands_follow : ∀ c ∈ Stated.commands, ∃ f queue, CommandRule c f queue := by
  simp only [Stated.commands, List.forall_mem_append, List.forall_mem_flatMap, List.forall_mem_map, List.forall_mem_cons]
  have hblock (wr_ q l : Bool) : ∃ f queue, CommandRule (Stated.blockCommand wr_ q l) f queue := ⟨_, _, commandRule_block wr_ q l⟩
  have hnear {i f} (hexec : ∀ a b m s, exec (i a b m) s = issue32 m s (nearWith f a b s)) : ∃ g queue, CommandRule (Stated.nearCommand i f) g queue :=
    ⟨_, _, commandRule_near hexec⟩
  have hfuture {i f n cm} (hn : n = futureWords f) (hcm : cm = futureCm f) (hexec : ∀ a b m s, exec (i a b m) s = issue32 m s (futureWith f a b s)) :
      ∃ g queue, CommandRule (Stated.futureCommand i f n cm) g queue := by
    subst hn hcm
    exact ⟨_, _, commandRule_future hexec⟩
  refine ⟨by simp only [hblock, implies_true, List.not_mem_nil, and_self], hnear exec_nearAtomAdd, hnear exec_nearAtomMax,
    hnear exec_nearAtomCas, hnear exec_nearCas4, hnear exec_nearEnq, hnear exec_nearChase, hnear exec_nearRedAddF32, hnear exec_nearRedMaxF32,
    hnear exec_nearRedAddI32, hnear exec_nearXswap, hfuture rfl rfl exec_fnew, hfuture rfl rfl exec_fset, hfuture rfl rfl exec_fwait,
    hfuture rfl rfl exec_ffree, hfuture rfl rfl exec_fpeek, ⟨_, _, commandRule_nrdef⟩, ⟨_, _, commandRule_nrfree⟩, ⟨_, _, commandRule_launch⟩,
    ⟨_, _, commandRule_context (fun w h => decide_eq_true h) exec_sysCtxsave⟩, ⟨_, _, commandRule_context (fun _ _ => rfl) exec_sysCtxload⟩,
    fun _ h => nomatch h⟩

/-! ### A transfer whose range leaves what the tile gives the job -/

theorem gxStatus_of_outside {j : Job} {n1 n2 : Nat} {l : Bool}
    (h : (if l then min 0x100000 (65536 * j.tbanks) else min 0x10000 (4096 * j.lsize)) < n1 + n2) :
    gxStatus j n1 n2 l = if l then 2 else 1 := by
  cases l
  · exact if_pos h
  · exact if_pos h

/-- A request that completes with a message is forgotten, and the message is on its way. -/
theorem finishReq_sends {s : State} {r : Req} {j : Job} (src : Endpoint) (acq : Bool) (results : List Word) (hj : s.job? r.job = some j)
    (hmsg : cmNoMsg r.cm = false) : ∃ (x : OutMsg) (as : List Acc) (ps : List Packet) (n : Nat),
      s.finishReq src r acq results
        = { s with reqs := s.reqs.filter (fun q => q.id != r.id), outs := s.outs ++ [x], accs := as, packets := ps, serial := n }
      ∧ x.msg.args = statusWord r.code r.flags r.count :: r.cm.tag :: results
      ∧ x.msg.hdr = BitVec.ofNat 64 (fieldOf r.cm.word.toNat 0 26 + 67108864 * (2 + results.length) + 4294967296 * r.v) := by
  have hj' : ((s.performAcc r.acc).dropReq r.id).job? r.job = some j := hj
  simp only [State.finishReq, State.complete, hmsg, Bool.false_eq_true, if_false, hj']
  exact ⟨_, _, _, _, rfl, rfl, rfl⟩

/-- The weight of a completion header. -/
theorem hdrWeight_of_completion (x n v : Nat) (hn : n < 16) :
    hdrWeight (BitVec.ofNat 64 (fieldOf x 0 26 + 67108864 * n + 4294967296 * v)) = v % 2 ^ 32 := by
  have hlow : fieldOf x 0 26 < 67108864 := Nat.mod_lt _ (by decide)
  simp only [hdrWeight, fieldOf, BitVec.toNat_ofNat] at hlow ⊢
  omega

/-- A request that has just been added completes: it is gone, and its status and weight are on their way. -/
theorem finishReq_added {s s1 : State} {r r0 : Req} {j : Job} {v : Nat} {status tag : Word} (src : Endpoint) (acq : Bool)
    (hctxs : s1.ctxs = (paid s v).ctxs) (hcur : s1.cur = s.cur) (houts : s1.outs = s.outs) (hreqs : s1.reqs = s.reqs ++ [r0])
    (hid0 : r0.id = s.serial + 1) (hid : r.id = s.serial + 1) (hj : s1.job? r.job = some j) (hmsg : cmNoMsg r.cm = false) (hv : r.v = v)
    (hstatus : statusWord r.code r.flags r.count = status) (htag : r.cm.tag = tag) :
    let t := s1.finishReq src r acq []
    t.me = { s.me with wt := s.me.wt - v } ∧ t.reqs = s.reqs.filter (fun q => q.id != s.serial + 1)
      ∧ ∃ x : OutMsg, t.outs = s.outs ++ [x] ∧ x.msg.args = [status, tag] ∧ hdrWeight x.msg.hdr = v % 2 ^ 32 := by
  obtain ⟨x, as, ps, n, heq, hargs, hhdr⟩ := finishReq_sends src acq [] hj hmsg
  simp only [heq]
  refine ⟨(me_congr hctxs hcur).trans (me_paid s v), ?_, x, by rw [houts], by rw [hargs, hstatus, htag], ?_⟩
  · rw [hreqs, hid, List.filter_append]
    simp [hid0]
  · rw [hhdr, hv]
    exact hdrWeight_of_completion _ _ _ (by simp)

/-- It completes at once, with its status and its weight. -/
theorem queueBlock_fails {s : State} {j : Job} {w : List Word} (v : Nat) (wr_ q l : Bool) (hj : s.myJob = some j)
    (hcm : (wordAt w 3).testBit 26 = false) (hrange : gxStatus j (wordAt w 1) (wordAt w 2) l = if l then 2 else 1) :
    let t := queueBlock (paid s v).issuer wr_ l q w v (paid s v)
    t.me = { s.me with wt := s.me.wt - v } ∧ t.reqs = s.reqs.filter (fun q => q.id != s.serial + 1)
      ∧ ∃ x : OutMsg, t.outs = s.outs ++ [x] ∧ x.msg.args = [BitVec.ofNat 64 (if l then 2 else 1), w.getD 4 0]
        ∧ hdrWeight x.msg.hdr = v % 2 ^ 32 := by
  have hjob : (paid s v).job? (paid s v).issuer.job = some j := by rw [issuer_paid]; exact hj
  have hcode : gxStatus j (wordAt w 1) (wordAt w 2) l ≠ 0 := by rw [hrange]; split <;> simp
  simp only [queueBlock, hjob, if_pos hcode]
  refine finishReq_added (s := s) (v := v) _ _ rfl rfl rfl rfl rfl rfl hjob hcm rfl ?_ rfl
  rw [hrange]
  cases l <;> rfl

/-- Settles O26: every command makes its request or traps; a transfer whose range leaves the tile's completes at once. -/
theorem blockCommands : Obligations.BlockCommands := by
  unfold Obligations.BlockCommands
  refine ⟨fun c hc s m a b j w v => ?_, fun s m a b q l wr_ j w v h hj hblock hgives hroom hcm hmsg h0 h1 h2 h2' hout => ?_⟩
  · obtain ⟨f, queue, hrule⟩ := commands_follow c hc
    exact command_stated hrule s m a b j w v
  · have hcheck : gxCheck j w l = .ok () := gxCheck_ok h0 h1 ⟨h2, h2'⟩ hcm
    obtain ⟨hb, hv, hlo, hhi⟩ := hgives
    have hexec : exec (if wr_ then .gwr a b q l m else .grd a b q l m) s = issue32 m s (blockTransfer wr_ a b q l s) := by
      cases wr_ <;> rfl
    exact ⟨_, completes_issue32 hexec h (by rw [blockTransfer_reach wr_ q l hj hblock hcheck hroom hb hv, takeWeight_paid hlo hhi]; rfl),
      queueBlock_fails v wr_ q l hj hmsg (gxStatus_of_outside hout)⟩

/-! ## The header and the block of a send (R138, R183) -/

/-- The header a send's block gives, with KIND. -/
def sendHdr (w : List Word) (rop : Bool) : Word := BitVec.ofNat 64 (wordAt w 0 % 2 ^ 30 + if rop then 2 ^ 30 else 0)

theorem toNat_sendHdr (w : List Word) (rop : Bool) : (sendHdr w rop).toNat = wordAt w 0 % 1073741824 + (if rop then 1073741824 else 0) := by
  rw [sendHdr, BitVec.toNat_ofNat]
  cases rop <;> simp <;> omega

/-- Below KIND the header holds the fields of the block's first word. -/
theorem fieldOf_sendHdr (w : List Word) (rop : Bool) :
    hdrVcore (sendHdr w rop) = fieldOf (wordAt w 0) 0 14 ∧ hdrMode (sendHdr w rop) = fieldOf (wordAt w 0) 14 2
      ∧ hdrClass (sendHdr w rop) = fieldOf (wordAt w 0) 16 8 ∧ hdrLen (sendHdr w rop) = fieldOf (wordAt w 0) 26 4 := by
  simp only [hdrVcore, hdrMode, hdrClass, hdrLen, toNat_sendHdr, fieldOf]
  cases rop <;> simp <;> omega

theorem hdrSetWeight_sendHdr (w : List Word) (rop : Bool) (v : Nat) (hv : v < 2 ^ 32) :
    hdrSetWeight (sendHdr w rop) v = BitVec.ofNat 64 (wordAt w 0 % 2 ^ 30 + (if rop then 2 ^ 30 else 0) + 2 ^ 32 * v) := by
  rw [hdrSetWeight, toNat_sendHdr]
  congr 1
  cases rop <;> simp <;> omega

/-- The device of a far target. -/
theorem formSend_far (s : State) (j : Job) (w : List Word) (o rop : Bool) : (formSend s j w o rop).far = Stated.farOf s w := by
  simp only [formSend, Stated.farOf, Bool.and_eq_true, bne_iff_ne]

theorem onlyBits_of_lt {x : Nat} (h : x < 2 ^ 17) : onlyBits x 0x1FFFF = .ok () := by
  refine need_true .illopnd (beq_iff_eq.mpr (Nat.eq_of_testBit_eq fun i => ?_))
  rw [Nat.testBit_and, Nat.zero_testBit, show 2 ^ 64 - 1 - 0x1FFFF = 2 ^ 17 * (2 ^ 47 - 1) by norm_num, Nat.testBit_two_pow_mul]
  by_cases hi : 17 ≤ i
  · rw [Nat.testBit_lt_two_pow (lt_of_lt_of_le h (Nat.pow_le_pow_right (by decide) hi)), Bool.false_and]
  · simp [hi]

/-- The block of a send passes its checks. -/
theorem sendCheck_ok {s : State} {j : Job} {w : List Word} (o : Bool) {rop draw : Bool} (h : Stated.SendOk s j w rop draw) :
    sendCheck s j w o rop draw = .ok (formSend s j w o rop) := by
  obtain ⟨hbits, hscope, hdraw, hnear⟩ := h
  obtain ⟨hvcore, hmode, hclass, hlen⟩ := fieldOf_sendHdr w rop
  have hfar : ((wordAt w 1).testBit 12 && fieldOf (wordAt w 1) 0 12 != s.devid) = (Stated.farOf s w).isSome := by
    by_cases h : (wordAt w 1).testBit 12 = true <;> by_cases h' : fieldOf (wordAt w 1) 0 12 = s.devid <;> simp [Stated.farOf, h, h']
  unfold sendCheck
  dsimp only
  simp only [onlyBits_of_lt hbits, limits_true (decide_eq_true hscope), hfar, bind, Except.bind]
  match hd : Stated.farOf s w with
  | some d =>
    have hno : draw = false := by
      cases draw
      · rfl
      · rw [hdraw rfl] at hd; cases hd
    simp only [hno, limits, need, Option.isSome_some, Bool.false_and, Bool.not_false, Bool.not_true, Bool.false_eq_true, if_true, if_false]
  | none =>
    obtain ⟨hmode3, hcore, hargs, e, hroutine, hvregs⟩ := hnear hd
    have hno : (!rop || rtVregs e == 0) = true := by
      cases rop
      · rfl
      · simpa [rtVregs] using hvregs rfl
    have hmode0 : (fieldOf (wordAt w 0) 14 2 == 0 || fieldOf (wordAt w 0) 26 4 != 0) = true := by simpa using hargs
    have hgood : (decide (fieldOf (wordAt w 0) 14 2 ≠ 3) && j.hasVcore (fieldOf (wordAt w 0) 0 14) && (!rop || rtVregs e == 0)
        && (fieldOf (wordAt w 0) 14 2 == 0 || fieldOf (wordAt w 0) 26 4 != 0)) = true := by
      simp only [Job.hasVcore, hno, hmode0, Bool.and_true, Bool.and_eq_true, decide_eq_true_eq]
      exact ⟨hmode3, hcore⟩
    have hdef : BitVec.ofNat 64 (wordAt w 0 % 2 ^ 30 + if rop = true then 2 ^ 30 else 0) = sendHdr w rop := rfl
    simp only [hdef, hvcore, hmode, hclass, hlen, hroutine, Option.isSome_none, Bool.and_false, Bool.not_false, limits_true, if_true, limits_true hgood]

/-- A send's block. -/
theorem sendBlock_ok {s : State} {j : Job} {a : Name} {w : List Word} (o : Bool) {rop draw : Bool} (hj : s.myJob = some j)
    (hblock : BlockIs s a (2 + fieldOf (wordAt w 0) 26 4) w) (h : Stated.SendOk s j w rop draw) :
    sendBlock s a o rop draw = .ok (formSend s j w o rop) := by
  obtain ⟨hwords, hsound⟩ := block_is hblock
  obtain ⟨r, rfl, hr, hw, -⟩ := hblock
  have hfirst : hdrLen (readS s 40 r) = fieldOf (wordAt w 0) 26 4 := by
    have : wordAt w 0 = (readS s 40 r).toNat := by
      conv_lhs => rw [hw]
      exact wordAt_zero_blockWords (by omega)
    rw [hdrLen, this]
  have hat : blockAt (.s r) 2 = .ok r.val := if_pos (by omega)
  simp only [sendBlock, theJob_of_myJob hj, hat, hfirst, hwords, sendCheck_ok o h, hsound, bind, Except.bind]

/-- Its arguments are the words after the header and the control word. -/
theorem formSend_args {s : State} {a : Name} {w : List Word} (hblock : BlockIs s a (2 + fieldOf (wordAt w 0) 26 4) w) (j : Job) (o rop : Bool) :
    (formSend s j w o rop).args = w.drop 2 := by
  obtain ⟨r, -, -, hw, -⟩ := hblock
  have hlen : w.length = 2 + fieldOf (wordAt w 0) 26 4 := by
    conv_lhs => rw [hw]
    exact blockWords_length ..
  have harg : (formSend s j w o rop).args = (w.drop 2).take (hdrLen (sendHdr w rop)) := rfl
  rw [harg, (fieldOf_sendHdr w rop).2.2.2]
  exact List.take_of_length_le (by rw [List.length_drop, hlen]; omega)

/-! ## A send -/

/-- The message a send queues, from any state in which the task stands as it did. -/
theorem sent_queueSend {s t : State} {a : Name} {w : List Word} {j : Job} {o rop : Bool} {weight : Nat} (draw : Nat)
    (hblock : BlockIs s a (2 + fieldOf (wordAt w 0) 26 4) w) (hissuer : t.issuer = s.issuer) (houts : t.outs = s.outs) (hweight : weight < 2 ^ 32) :
    Stated.Sent s (queueSend t.issuer (formSend s j w o rop) weight draw t) w o rop weight draw
      ∧ (queueSend t.issuer (formSend s j w o rop) weight draw t).ctxs = t.ctxs
      ∧ (queueSend t.issuer (formSend s j w o rop) weight draw t).cur = t.cur
      ∧ (queueSend t.issuer (formSend s j w o rop) weight draw t).tasks = t.tasks := by
  have hhdr : hdrSetWeight (formSend s j w o rop).hdr weight = _ := hdrSetWeight_sendHdr w rop weight hweight
  rw [hissuer]
  refine ⟨⟨_, congrArg (· ++ [_]) houts, hhdr, formSend_args hblock j o rop, rfl, rfl, rfl, rfl, rfl, formSend_far s j w o rop, rfl, _,
    List.getLast?_concat, rfl, rfl, rfl, rfl⟩, rfl, rfl, rfl⟩

/-- The task of a send that has its weight to give. -/
theorem sent_paid {s : State} {a : Name} {w : List Word} {j : Job} {o rop : Bool} {v : Nat} (hblock : BlockIs s a (2 + fieldOf (wordAt w 0) 26 4) w)
    (hv : v < 2 ^ 32) :
    let t := queueSend (paid s v).issuer (formSend s j w o rop) v 0 (paid s v)
    t.me = { s.me with wt := s.me.wt - v } ∧ Stated.Sent s t w o rop v 0 := by
  intro t
  obtain ⟨hsent, hctxs, hcur, -⟩ := sent_queueSend (t := paid s v) (j := j) (o := o) (rop := rop) 0 hblock (issuer_paid s v) rfl hv
  exact ⟨(me_congr hctxs hcur).trans (me_paid s v), hsent⟩

theorem sendWith_reach {s : State} {len : Nat} {j : Job} {a b : Name} {w : List Word} {o rop : Bool} {v : Nat} (h : Stated.SendReady s len j a w o rop false)
    (hb : Sound s b) (hv : (value s 60 b).toNat = v) :
    sendWith a b o rop s = (takeWeight s v >>= fun s1 => fall (queueSend s1.issuer (formSend s j w o rop) v 0 s1)) := by
  obtain ⟨-, hj, hblock, hok, hroom⟩ := h
  simp only [sendWith, srcs_sound (show ∀ n ∈ [b], Sound s n by simpa using hb), sendBlock_ok o hj hblock hok, ready_true (niRoom_of_room hroom),
    rd_clean hb.2, hv, bind, Except.bind]

theorem sendHalf_reach {s : State} {len : Nat} {j : Job} {a : Name} {w : List Word} {o : Bool} (h : Stated.SendReady s len j a w o false false) :
    sendHalf a o s = (takeWeight s (s.me.wt / 2) >>= fun s1 => fall (queueSend s1.issuer (formSend s j w o false) (s.me.wt / 2) 0 s1)) := by
  obtain ⟨-, hj, hblock, hok, hroom⟩ := h
  simp only [sendHalf, sendBlock_ok o hj hblock hok, ready_true (niRoom_of_room hroom), bind, Except.bind]

/-- Half the held weight is given where two units are held. -/
theorem sendHalf_sends {s : State} {len : Nat} {j : Job} {a : Name} {w : List Word} {o : Bool} (h : Stated.SendReady s len j a w o false false)
    (h2 : 2 ≤ s.me.wt) (hmax : s.me.wt < 2 ^ 32) : ∃ t, sendHalf a o s = .ok (t, .next) ∧ t.me = { s.me with wt := s.me.wt - s.me.wt / 2 }
      ∧ Stated.Sent s t w o false (s.me.wt / 2) 0 := by
  obtain ⟨hme, hsent⟩ := sent_paid (s := s) (a := a) (w := w) (j := j) (o := o) (rop := false) (v := s.me.wt / 2) h.2.2.1 (by omega)
  refine ⟨_, ?_, hme, hsent⟩
  rw [sendHalf_reach h, takeWeight_paid (by omega) (by omega)]
  rfl

/-- The effect of `send.draw`. -/
def sendDraw (a b : Name) (o : Bool) (s : State) : Res := do
  srcs [b]
  let x ← sendBlock s a o false true
  ready (niRoom s (x.scope s.myTile))
  let w ← rd s 60 b
  if w.toNat = 0 ∨ x.j.w < w.toNat then raise .weight w
  let s1 ← joinHold s
  fall (queueSend s1.issuer x 0 w.toNat s1)

theorem exec_sendDraw_eq (a b : Name) (o : Bool) (m : Mark) (s : State) : exec (.sendDraw a b o m) s = issue32 m s (sendDraw a b o s) := rfl

theorem sendDraw_traps {s : State} {j : Job} {a b : Name} {w : List Word} {o : Bool} {v : Nat} (h : Stated.SendReady s 4 j a w o false true)
    (hb : Sound s b) (hv : (value s 60 b).toNat = v) (hbad : v = 0 ∨ 2 ^ j.wtotal < v) :
    sendDraw a b o s = raise .weight (BitVec.ofNat 64 v) := by
  obtain ⟨-, hj, hblock, hok, hroom⟩ := h
  have hbad' : (value s 60 b).toNat = 0 ∨ (formSend s j w o false).j.w < (value s 60 b).toNat := by rw [hv]; exact hbad
  simp only [sendDraw, srcs_sound (show ∀ n ∈ [b], Sound s n by simpa using hb), sendBlock_ok o hj hblock hok, ready_true (niRoom_of_room hroom),
    rd_clean hb.2, if_pos hbad', bind, Except.bind]
  rw [← hv, BitVec.ofNat_toNat, BitVec.setWidth_eq]
  rfl

theorem sendDraw_sends {s : State} {j : Job} {a b : Name} {w : List Word} {o : Bool} {v : Nat} (h : Stated.SendReady s 4 j a w o false true)
    (hb : Sound s b) (hv : (value s 60 b).toNat = v) (h1 : 1 ≤ v) (h2 : v ≤ 2 ^ j.wtotal) (hholds : Holds s) :
    ∃ t, sendDraw a b o s = .ok (t, .next) ∧ HoldJoined s t ∧ Stated.Sent s t w o false 0 v := by
  obtain ⟨-, hj, hblock, hok, hroom⟩ := h
  obtain ⟨t, hjoin, ⟨hme, htasks⟩, hframe⟩ := joinHold_holds hholds
  have hgood : ¬(v = 0 ∨ (formSend s j w o false).j.w < v) := by
    rw [show (formSend s j w o false).j.w = 2 ^ j.wtotal from rfl]
    omega
  have hissuer : t.issuer = s.issuer := by
    obtain ⟨cs, ts, rfl⟩ := hframe
    simp only [State.issuer, hme]
    rfl
  have houts : t.outs = s.outs := by
    obtain ⟨cs, ts, rfl⟩ := hframe
    rfl
  obtain ⟨hsent, hctxs, hcur, htasks'⟩ := sent_queueSend (t := t) (j := j) (o := o) (rop := false) (weight := 0) v hblock hissuer houts (by decide)
  refine ⟨_, ?_, ⟨(me_congr hctxs hcur).trans hme, by rw [htasks']; exact htasks⟩, hsent⟩
  simp only [sendDraw, srcs_sound (show ∀ n ∈ [b], Sound s n by simpa using hb), sendBlock_ok o hj hblock hok, ready_true (niRoom_of_room hroom),
    rd_clean hb.2, if_neg hgood, bind, Except.bind, hjoin, hv, fall]

/-- Settles O25: each send forms its message, or traps on the weight it cannot give. -/
theorem sends : Obligations.Sends := by
  unfold Obligations.Sends
  intro s m a b o j w v
  refine ⟨fun rop h hb hv => ?send, fun h => ?half, fun x mk h h2 hmax => ?compact, fun h hb hv => ?draw⟩
  case send =>
    intro i
    have hexec : exec i s = issue32 m s (sendWith a b o rop s) := by cases rop <;> rfl
    refine ⟨fun h1 h2 hmax => ?_, fun hbad => traps_issue32 hexec h.1 ?_⟩
    · obtain ⟨hme, hsent⟩ := sent_paid (s := s) (a := a) (w := w) (j := j) (o := o) (rop := rop) (v := v) h.2.2.1 hmax
      exact ⟨_, completes_issue32 hexec h.1 (by rw [sendWith_reach h hb hv, takeWeight_paid h1 h2]; rfl), hme, hsent⟩
    · rw [sendWith_reach h hb hv, takeWeight_raises hbad]
      rfl
  case half =>
    refine ⟨fun h2 hmax => ?_, fun hfew => traps_issue32 (exec_sendHalf a o m s) h.1 ?_⟩
    · obtain ⟨t, heff, hme, hsent⟩ := sendHalf_sends h h2 hmax
      exact ⟨t, completes_issue32 (exec_sendHalf a o m s) h.1 heff, hme, hsent⟩
    · rw [sendHalf_reach h, takeWeight_raises (.inl (by omega)), show s.me.wt / 2 = 0 by omega]
      rfl
  case compact =>
    obtain ⟨t, heff, hme, hsent⟩ := sendHalf_sends h h2 hmax
    refine ⟨t, ?_, hme, hsent⟩
    rw [exec_compactSendHalf, execCompactSendHalf, heff, issue16_plain mk _ h.1, issue_ok]
  case draw =>
    refine ⟨fun h1 h2 hholds => ?_, fun hbad => traps_issue32 (exec_sendDraw_eq a b o m s) h.1 (sendDraw_traps h hb hv hbad)⟩
    obtain ⟨t, heff, hjoined, hsent⟩ := sendDraw_sends h hb hv h1 h2 hholds
    exact ⟨t, completes_issue32 (exec_sendDraw_eq a b o m s) h.1 heff, hjoined, hsent⟩

end Sys2Proof.Laws
end

section
/-! Global stores and copy commands (R189, R196, R202). -/

namespace Sys2Proof.Laws
open Sys2Proof.Machine Sys2Proof.Safety

/-! ## A posted global store (R189) -/

theorem bytesOfNat_eq_map (v n : Nat) : bytesOfNat v n = (List.range n).map (fun i => BitVec.ofNat 8 (v / 256 ^ i)) := by
  refine List.ext_getElem? fun i => ?_
  by_cases hi : i < n
  · rw [bytesOfNat_getElem? v n i hi, List.getElem?_map, List.getElem?_range hi, Option.map_some]
  · rw [List.getElem?_eq_none (by rw [bytesOfNat_length]; omega), List.getElem?_eq_none (by simp; omega)]

/-- The access that a `gst` makes of a value. -/
def globalStore (w : Issuer) (t : State) (ea : Int) (size v : Nat) (q : Bool) : Access :=
  ⟨0, w.job, w.task, w.core, .store, if ea < 0 then 2 ^ 52 else ea.toNat, noPa, size, bytesOfNat v size, 0, 0, 0, 0, 0, 0,
    (if q then some Scope.device else none).map (w.release t .core), knowOn w.know w.fences .core, t.serial, none, w.ni⟩

/-- The effect of `gst` once its address is formed. -/
def storeGlobal (d : Name) (ea : Int) (size : Nat) (q : Bool) (s : State) : Res := do
  if ea % size ≠ 0 then raise .align (argOf ea)
  let v ← rd s 1 d
  ready (niRoom s .die)
  let s1 ← joinHold s
  let w := s1.issuer
  let range := globalRange w.job (if ea < 0 then 2 ^ 52 else ea.toNat) size
  fall ((s1.newAccAt w.task .die .core [range]).toStation (globalStore w s1 ea size v.toNat q) w.queue
    (w.waits s1 .core (if q then some Scope.device else none) ++ s1.overlapping w.task .core [range]))

theorem exec_gst_fits {s : State} {d a : Name} (o : BitVec 6) (z : Size) (q : Bool) (m : Mark) (hlimm : s.me.limm.length ≤ 2)
    (fits : Fits s 4) (ha : Sound s a) (hd : readable d = true) : exec (.gst d a o z q m) s
      = issue 4 m.g.val m.s s (storeGlobal d (Stated.address s (value s 0 a) o z) (2 ^ z.code) q s) := by
  have hsrc : srcs [d] = .ok () := by simp [srcs, need, hd]
  rw [exec_gst, ← effective_eq_address s (value s 0 a) o z hlimm]
  simp only [execGst, begin_fits fits, srcs_sound (show ∀ n ∈ [a], Sound s n by simpa using ha), hsrc, rd_clean ha.2, bind, Except.bind, sizeOf_]
  rfl

/-- An aligned store of a task that can join its hold. -/
theorem storeGlobal_ok {s t : State} {d : Name} {ea : Int} {size : Nat} (q : Bool) (halign : ea % size = 0) (hclean : Clean s d)
    (hroom : Room s .die) (hjoin : joinHold s = .ok t) (hissuer : t.issuer = s.issuer) :
    ∃ (waits : List Nat) (ranges : List (Space × Nat × Nat)), storeGlobal d ea size q s
      = .ok ((t.newAccAt s.me.task .die .core ranges).toStation (globalStore s.issuer t ea size (value s 1 d).toNat q) (s.myCore + 1) waits, .next) := by
  have hok : ¬ea % size ≠ 0 := fun h => h halign
  refine ⟨s.issuer.waits t .core (if q then some Scope.device else none) ++ t.overlapping s.me.task .core
      [globalRange s.me.job (if ea < 0 then 2 ^ 52 else ea.toNat) size], [globalRange s.me.job (if ea < 0 then 2 ^ 52 else ea.toNat) size], ?_⟩
  rw [storeGlobal, if_neg hok]
  simp only [rd_clean hclean, ready_true (niRoom_of_room hroom), hjoin, bind, Except.bind, hissuer, fall]
  rfl

/-- Settles O27: a global store joins the hold and leaves, or traps. -/
theorem postedGlobalStore : Obligations.PostedGlobalStore := by
  unfold Obligations.PostedGlobalStore
  intro s m d a o z q hlimm hfits ha hd size ea
  have hexec : exec (.gst d a o z q m) s = issue 4 m.g.val m.s s (storeGlobal d ea size q s) := exec_gst_fits o z q m hlimm hfits ha hd
  refine ⟨fun halign => ?misaligned, fun halign hclean hroom => ⟨fun hholds => ?holds, fun hholds => ?noHold⟩⟩
  case misaligned =>
    rw [Traps, hexec, storeGlobal, if_pos halign]
    rfl
  case noHold =>
    have hok : ¬ea % size ≠ 0 := fun h => h halign
    rw [Traps, hexec, storeGlobal, if_neg hok]
    simp only [rd_clean hclean, ready_true (niRoom_of_room hroom), joinHold_raises hholds, bind, Except.bind]
    rfl
  case holds =>
    obtain ⟨t, hjoin, ⟨hme, htasks⟩, hframe⟩ := joinHold_holds hholds
    have hissuer : t.issuer = s.issuer := by
      obtain ⟨cs, ts, rfl⟩ := hframe
      simp only [State.issuer, hme]
      rfl
    obtain ⟨waits, ranges, heff⟩ := storeGlobal_ok q halign hclean hroom hjoin hissuer
    refine ⟨(t.newAccAt s.me.task .die .core ranges).toStation (globalStore s.issuer t ea size (value s 1 d).toNat q) (s.myCore + 1) waits,
      by rw [Completes, hexec, heff, issue_ok], ⟨(me_congr rfl rfl).trans hme, htasks⟩, ⟨_, List.getLast?_concat, rfl, rfl, rfl, rfl, rfl,
      rfl, _, rfl, rfl, rfl, rfl, rfl, rfl, ?_, bytesOfNat_eq_map _ _⟩, ?_, ?_⟩
    · cases q <;> rfl
    · refine (count_newAccAt t s.me.task .die .core ranges).trans (congrArg (· + 1) ?_)
      obtain ⟨cs, ts, rfl⟩ := hframe
      rfl
    · obtain ⟨cs, ts, rfl⟩ := hframe
      rfl

/-! ## Copy commands (R196, R202) -/

theorem copyCheck_ok {j : Job} {walk : Bool} {w : List Word} (hctl : copyCtlOk (wordAt w 0) = true)
    (hlen : if walk then wordAt w 1 % 8 = 0 ∧ wordAt w 1 + 128 ≤ min 0x10000 (4096 * j.lsize) else wordAt w 3 < 2 ^ 32)
    (hcm : cmsgOk j (w.getD ((if walk then 4 else 6) - 2) 0) false = true) : copyCheck j walk w = .ok () := by
  cases walk
  · simp only [Bool.false_eq_true, if_false] at hlen hcm
    simp only [copyCheck, limits_true hctl, Bool.false_eq_true, if_false, limits_true (decide_eq_true hlen), cmsgLimits, limits_true hcm, bind, Except.bind]
  · simp only [if_true] at hlen hcm
    have hrec : (wordAt w 1 % 8 == 0 && decide (wordAt w 1 + 128 ≤ min 0x10000 j.localLimit)) = true := by
      simp only [Bool.and_eq_true, beq_iff_eq, decide_eq_true_eq]
      exact hlen
    simp only [copyCheck, limits_true hctl, if_true, limits_true hrec, cmsgLimits, limits_true hcm, bind, Except.bind]

/-- A copy command whose checks pass. -/
theorem copyWith_reach {s : State} {d a b : Name} {j : Job} {w : List Word} {v : Nat} (walk : Bool) (hj : s.myJob = some j) (hd : writable d = true)
    (hblock : BlockIs s a (if walk then 4 else 6) w) (hcheck : copyCheck j walk w = .ok ())
    (hroom : s.countFull s.me.task (copyScope s (wordAt w 0)) = false) (hgives : Gives s b v) :
    copyWith walk d a b s = if 8 ≤ fifoLen s s.myCore then fall (wr s d 0 1) else
      fall (wr (queueCopy (paid s v).issuer walk w v (paid s v)) d
        (transferId (copyChan (wordAt w 0)) (s.chan s.myCore s.me.job (copyChan (wordAt w 0))).next) 1) := by
  obtain ⟨hwords, hsound⟩ := block_is hblock
  obtain ⟨hsrcs, hrd, hv, htake⟩ := rd_gives hgives
  have hready : (!s.countFull s.me.task (copyScope s (wordAt w 0))) = true := by rw [hroom]; rfl
  simp only [copyWith, hsrcs, dst_ok hd, theJob_of_myJob hj, hwords, hcheck, ready_true hready, hsound, hrd, hv, htake, bind, Except.bind]

/-- A command that enters the FIFO is the last request, and its channel counts it. -/
theorem queueCopy_enters (s : State) (walk : Bool) (w : List Word) (v : Nat) :
    let ch := copyChan (wordAt w 0)
    let k := s.chan s.myCore s.me.job ch
    let t := queueCopy (paid s v).issuer walk w v (paid s v)
    t.me = { s.me with wt := s.me.wt - v }
      ∧ NewRequest s t (.copy walk w ch k.next) v ⟨w.getD (if walk then 2 else 4) 0, w.getD (if walk then 3 else 5) 0⟩
      ∧ (t.core s.myCore).fifo.length = (s.core s.myCore).fifo.length + 1 ∧ (t.chan s.myCore s.me.job ch).next = seqNext k.next := by
  intro ch k t
  have ht : t = queueCopy s.issuer walk w v (paid s v) := by
    simp only [t, issuer_paid]
  rw [ht]
  refine ⟨(me_congr rfl rfl).trans (me_paid s v), ⟨_, List.getLast?_concat, List.length_append, fun q hq _ => List.mem_append_left _ hq, rfl, rfl, rfl, rfl,
    rfl, rfl, rfl, rfl⟩, ?_, ?_⟩
  · refine (congrArg (fun c : Core => c.fifo.length) (Map.getD_set_self _ _ _ _)).trans ?_
    exact List.length_append
  · exact congrArg Chan.next (Map.getD_set_self _ _ _ _)

/-! ### What a transfer has come to -/

theorem doneRise_keeps (s : State) (post job : Nat) (know : Know) :
    (s.doneRise post job know).ctxs = s.ctxs ∧ (s.doneRise post job know).cur = s.cur := by
  unfold State.doneRise
  split <;> exact ⟨rfl, rfl⟩

/-- A completion changes no context. -/
theorem finishReq_keeps (s : State) (src : Endpoint) (r : Req) (acq : Bool) (results : List Word) :
    (s.finishReq src r acq results).ctxs = s.ctxs ∧ (s.finishReq src r acq results).cur = s.cur := by
  unfold State.finishReq State.complete
  dsimp only
  split
  · obtain ⟨hctxs, hcur⟩ := doneRise_keeps (((s.performAcc r.acc).dropReq r.id).pod src r.job r.v false false) r.post r.job (r.effects s).allPaths
    exact ⟨hctxs.trans (State.pod_ctxs ..), hcur.trans (State.pod_cur ..)⟩
  · split
    · exact ⟨rfl, rfl⟩
    · exact ⟨rfl, rfl⟩

theorem retireCopy_keeps (s : State) (r : Req) (code : Nat) : (s.retireCopy r code).ctxs = s.ctxs ∧ (s.retireCopy r code).cur = s.cur := by
  unfold State.retireCopy
  dsimp only
  split <;> exact ⟨rfl, rfl⟩

theorem me_cancelCopy (s : State) (core job id : Nat) : (cancelCopy s core job id).me = s.me := by
  unfold cancelCopy
  split
  · rfl
  · dsimp only
    split
    case h_1 r _ _ =>
      split
      · unfold State.finishCopy
        exact me_congr ((finishReq_keeps ..).1.trans (retireCopy_keeps ..).1) ((finishReq_keeps ..).2.trans (retireCopy_keeps ..).2)
      · rfl
    · rfl

/-- With no copy of its core and job a cancel finds no request. -/
theorem cancelCopy_of_none {s : State} {core job : Nat} (h : ∀ r ∈ s.reqs, r.core = core → r.job = job → ∀ k b c q, r.kind ≠ .copy k b c q)
    (id : Nat) : cancelCopy s core job id = s := by
  have hnone (ch seq : Nat) : transferReq s core job ch seq = none := by
    refine List.find?_eq_none.mpr fun r hr => ?_
    simp only [Bool.and_eq_true, beq_iff_eq, not_and]
    rintro ⟨hcore, hjob⟩
    cases hk : r.kind with
    | copy k b c q => exact absurd hk (h r hr hcore hjob k b c q)
    | _ => exact Bool.false_ne_true
  unfold cancelCopy
  split
  · rfl
  · simp only [hnone]
    cases (s.chan core job (fieldOf id 32 2)).states.find? (fun e => e.1 == fieldOf id 0 32 && decide (e.2.1 < 3)) <;> rfl

theorem cancelCopy_of_unformed {s : State} {core job id : Nat} (h : id.testBit 63 = false ∨ fieldOf id 34 29 ≠ 0) :
    cancelCopy s core job id = s := by
  have : (!id.testBit 63 || fieldOf id 34 29 != 0) = true := by simpa using h
  simp only [cancelCopy, this, if_true]

/-! ### The state word of a transfer -/

theorem queryWord_of_unformed {s : State} {core job id : Nat} (h : id.testBit 63 = false ∨ fieldOf id 34 29 ≠ 0) :
    queryWord s core job id = 0 := by
  have : (!id.testBit 63 || fieldOf id 34 29 != 0) = true := by simpa using h
  simp only [queryWord, this, if_true]

theorem fieldOf_low (id : Nat) : fieldOf id 0 32 = id % 2 ^ 32 := by
  rw [fieldOf, Nat.pow_zero, Nat.div_one]

theorem queryWord_of_unknown {s : State} {core job id : Nat} (h63 : id.testBit 63 = true) (h34 : fieldOf id 34 29 = 0)
    (h : (s.chan core job (fieldOf id 32 2)).states.find? (fun e => e.1 == id % 2 ^ 32) = none) :
    queryWord s core job id = if 1 ≤ id % 2 ^ 32 ∧ id % 2 ^ 32 ≤ (s.chan core job (fieldOf id 32 2)).done then 3 else 0 := by
  have hform : (!id.testBit 63 || fieldOf id 34 29 != 0) = false := by simp [h63, h34]
  simp only [queryWord, hform, Bool.false_eq_true, if_false, fieldOf_low, h]
  rfl

theorem queryWord_of_finished {s : State} {core job id code count : Nat} (h63 : id.testBit 63 = true) (h34 : fieldOf id 34 29 = 0)
    (h : (s.chan core job (fieldOf id 32 2)).states.find? (fun e => e.1 == id % 2 ^ 32) = some (id % 2 ^ 32, 3, code, count)) :
    queryWord s core job id = BitVec.ofNat 64 (3 + 256 * code + 65536 * (count % 2 ^ 32)) := by
  have hform : (!id.testBit 63 || fieldOf id 34 29 != 0) = false := by simp [h63, h34]
  simp only [queryWord, hform, Bool.false_eq_true, if_false, fieldOf_low, h, if_true]
  rfl

theorem cqry_completes {s : State} {d a : Name} (m : Mark) (h : Plain s 4) (hd : writable d = true) (ha : Sound s a) :
    Completes (.cqry d a m) m s (wr s d (queryWord s s.myCore s.me.job (value s 0 a).toNat) 1) .next := by
  refine completes_issue32 (exec_cqry d a m s) h ?_
  simp only [srcs_sound (show ∀ n ∈ [a], Sound s n by simpa using ha), dst_ok hd, rd_clean ha.2, bind, Except.bind, fall]

theorem cpyCancel_completes {s : State} {d a : Name} (m : Mark) (h : Plain s 4) (hd : writable d = true) (ha : Sound s a) :
    Completes (.cpyCancel d a m) m s (cancelCopy (wr s d (queryWord s s.myCore s.me.job (value s 0 a).toNat) 1) s.myCore s.me.job
      (value s 0 a).toNat) .next := by
  refine completes_issue32 (exec_cpyCancel d a m s) h ?_
  simp only [srcs_sound (show ∀ n ∈ [a], Sound s n by simpa using ha), dst_ok hd, rd_clean ha.2, bind, Except.bind, fall]

/-- Settles O28: copy commands enter the FIFO, and their state words are read. -/
theorem copyCommands : Obligations.CopyCommands := by
  unfold Obligations.CopyCommands
  intro s m d a b j w v walk h hj hd
  refine ⟨?command, fun ha => ?query⟩
  case command =>
    intro n i chan seq hblock hctl hlen hcm hroom hgives
    have hreach := copyWith_reach walk hj hd hblock (copyCheck_ok hctl hlen hcm) hroom hgives
    have hexec : exec i s = issue32 m s (copyWith walk d a b s) := by cases walk <;> rfl
    obtain ⟨hme, hnew, hfifo, hnext⟩ := queueCopy_enters s walk w v
    have hplaces : (if walk then 2 else 4) = n - 2 ∧ (if walk then 3 else 5) = n - 1 := by cases walk <;> exact ⟨rfl, rfl⟩
    rw [hplaces.1, hplaces.2] at hnew
    refine ⟨fun hfree => ⟨_, completes_issue32 hexec h (by rw [hreach, if_neg (by omega)]; rfl), hme, hnew, hfifo, hnext⟩,
      fun hfull => completes_issue32 hexec h (by rw [hreach, if_pos hfull]; rfl)⟩
  case query =>
    intro id k
    have hquery := cqry_completes m h hd ha
    have hcancel := cpyCancel_completes m h hd ha
    refine ⟨fun hunformed => ?_, fun h63 h34 hnone => ?_, fun code count h63 h34 hfound => ?_, ⟨_, _, hquery, hcancel, me_cancelCopy .., fun hno => ?_⟩⟩
    · rw [queryWord_of_unformed hunformed] at hquery hcancel
      rw [cancelCopy_of_unformed hunformed] at hcancel
      exact ⟨hquery, hcancel⟩
    · intro done
      rwa [queryWord_of_unknown h63 h34 hnone] at hquery
    · rwa [queryWord_of_finished h63 h34 hfound] at hquery
    · refine cancelCopy_of_none ?_ _
      obtain ⟨cs, os, heq⟩ := wr_frame s d (queryWord s s.myCore s.me.job (value s 0 a).toNat) 1
      rw [heq]
      exact hno

end Sys2Proof.Laws
end

section
/-! Commands of the array unit, of exchanges and of trigger units (R208 to R222). -/

namespace Sys2Proof.Laws
open Sys2Proof.Machine Sys2Proof.Safety

/-! ## Array jobs and exchanges (R208 to R214) -/

theorem length_insertJob (x : ArrayJob) (l : List ArrayJob) : (insertJob x l).length = l.length + 1 := by
  induction l with
  | nil => rfl
  | cons y l ih =>
    unfold insertJob
    split
    · rfl
    · rw [List.length_cons, List.length_cons, ih]

theorem mem_insertJob (x : ArrayJob) (l : List ArrayJob) : x ∈ insertJob x l := by
  induction l with
  | nil => exact List.mem_singleton.mpr rfl
  | cons y l ih =>
    unfold insertJob
    split
    · exact List.mem_cons_self
    · exact List.mem_cons_of_mem y ih

/-- A command of the array unit whose checks pass. -/
theorem tmm_reach {s : State} {d a b : Name} {j : Job} {w : List Word} {v : Nat} {m : Mark} (h : Plain s 4) (hj : s.myJob = some j)
    (hd : writable d = true) (hblock : BlockIs s a 10 w) (hcheck : tmCheck j w = .ok ()) (hroom : s.countFull s.me.task .tile = false)
    (hgives : Gives s b v) : exec (.tmm d a b m) s = issue 4 m.g.val m.s s (if 16 ≤ (s.tile s.myTile).arrayQ.length then fall (wr s d 0 2)
      else fall (wr ((paid s v).queueJob (paid s v).issuer w v).1 d (tmId ((paid s v).queueJob (paid s v).issuer w v).2) 2)) := by
  obtain ⟨hwords, hsound⟩ := block_is hblock
  obtain ⟨hsrcs, hrd, hv, htake⟩ := rd_gives hgives
  have hready : (!s.countFull s.me.task .tile) = true := by rw [hroom]; rfl
  rw [exec_tmm, execTmm, issue32_plain m _ h]
  simp only [hsrcs, dst_ok hd, theJob_of_myJob hj, hwords, hcheck, ready_true hready, hsound, hrd, hv, htake, bind, Except.bind]

/-- A job that enters its tile's queue. -/
theorem queueJob_enters (s : State) (w : List Word) (v : Nat) :
    let seq := (s.arrSeq s.myCore s.me.job).next
    let t := ((paid s v).queueJob (paid s v).issuer w v).1
    ((paid s v).queueJob (paid s v).issuer w v).2 = seq ∧ t.me = { s.me with wt := s.me.wt - v }
      ∧ (t.tile s.myTile).arrayQ.length = (s.tile s.myTile).arrayQ.length + 1
      ∧ (∃ x ∈ (t.tile s.myTile).arrayQ, x.seq = seq ∧ x.job = s.me.job ∧ x.core = s.myCore ∧ x.task = s.me.task ∧ x.v = v ∧ x.block = w)
      ∧ (t.arrSeq s.myCore s.me.job).next = (if seq = 2 ^ 32 - 1 then 1 else seq + 1)
      ∧ t.count s.me.task .tile = s.count s.me.task .tile + 1 := by
  simp only [issuer_paid]
  have htile : ∃ x : ArrayJob, (((paid s v).queueJob s.issuer w v).1.tile s.myTile).arrayQ = insertJob x (s.tile s.myTile).arrayQ
      ∧ x.seq = (s.arrSeq s.myCore s.me.job).next ∧ x.job = s.me.job ∧ x.core = s.myCore ∧ x.task = s.me.task ∧ x.v = v ∧ x.block = w :=
    ⟨_, congrArg Tile.arrayQ (Map.getD_set_self _ _ _ _), rfl, rfl, rfl, rfl, rfl, rfl⟩
  obtain ⟨x, hq, hx⟩ := htile
  refine ⟨rfl, (me_congr rfl rfl).trans (me_paid s v), by rw [hq, length_insertJob], ⟨x, by rw [hq]; exact mem_insertJob x _, hx⟩, ?_,
    count_newAccAt (paid s v) s.me.task .tile .array []⟩
  refine (congrArg ArrSeq.next (Map.getD_set_self _ _ _ _)).trans ?_
  exact congrArg ArrSeq.next (Map.getD_set_self _ _ _ _)

/-- The exchange that a command of the issuing task queues. -/
def newExchange (s : State) (w : Issuer) (b : List Word) (v : Nat) : Exchange :=
  let cm : Cmsg := ⟨b.getD 5 0, b.getD 6 0⟩
  ⟨w.job, w.core, w.vcore, w.vcore / 8, w.task, v, b, cm, 0, [], [], [], [], knowOn w.know w.fences .net, s.serial,
    w.waits s .net (relOf cm), (relOf cm).map (w.release s .net)⟩

/-- An exchange enters its tile's queue. -/
def queueExchange (s : State) (w : Issuer) (b : List Word) (v : Nat) (sc : Scope) : State :=
  (s.newAcc w.task sc .net false).updTile s.myTile (fun t => { t with xqueue := t.xqueue ++ [newExchange s w b v] })

/-- An exchange command whose checks pass. -/
theorem xchg_reach {s : State} {d a b : Name} {j : Job} {w : List Word} {v : Nat} {m : Mark} (h : Plain s 4) (hj : s.myJob = some j)
    (hd : writable d = true) (hblock : BlockIs s a 7 w) (hcheck : xcCheck j (s.me.vcore / 8) w = .ok ())
    (hroom : s.countFull s.me.task (xcScope j w) = false) (hgives : Gives s b v) :
    exec (.xchg d a b m) s = issue 4 m.g.val m.s s (if 4 ≤ (s.tile s.myTile).xqueue.length then fall (wr s d 0 2)
      else fall (wr (queueExchange (paid s v) (paid s v).issuer w v (xcScope j w)) d 1 2)) := by
  obtain ⟨hwords, hsound⟩ := block_is hblock
  obtain ⟨hsrcs, hrd, hv, htake⟩ := rd_gives hgives
  have hready : (!s.countFull s.me.task (xcScope j w)) = true := by rw [hroom]; rfl
  rw [exec_xchg, execXchg, issue32_plain m _ h]
  simp only [hsrcs, dst_ok hd, theJob_of_myJob hj, hwords, hcheck, ready_true hready, hsound, hrd, hv, htake, bind, Except.bind]
  rfl

/-! ### The status of a job, and its abort (R212) -/

theorem arrWord_eq (s : State) (core job : Nat) (id : Word) : s.arrWord core job id
    = if id.toNat.testBit 63 = true ∧ fieldOf id.toNat 32 31 = 0 then Map.getD (s.arrSeq core job).words (id.toNat % 2 ^ 32) 0 else 0 := by
  unfold State.arrWord
  by_cases h63 : id.toNat.testBit 63 = true <;> by_cases h32 : fieldOf id.toNat 32 31 = 0 <;> simp [h63, h32]

theorem tabort_completes {s : State} {d a : Name} (m : Mark) (h : Plain s 4) (hd : writable d = true) (ha : Sound s a) :
    Completes (.tabort d a m) m s (wr (if s.arrWord s.myCore s.me.job (value s 0 a) = 0 then s else s.abortJob s.myCore s.me.job (value s 0 a)) d
      (s.arrWord s.myCore s.me.job (value s 0 a)) 2) .next := by
  refine completes_issue32 (exec_tabort d a m s) h ?_
  simp only [srcs_sound (show ∀ n ∈ [a], Sound s n by simpa using ha), dst_ok hd, rd_clean ha.2, bind, Except.bind, fall]

theorem tstat_completes {s : State} {d a : Name} (m : Mark) (h : Plain s 4) (hd : writable d = true) (ha : Sound s a) :
    Completes (.tstat d a m) m s (wr s d (s.arrWord s.myCore s.me.job (value s 0 a)) 2) .next := by
  refine completes_issue32 (exec_tstat d a m s) h ?_
  simp only [srcs_sound (show ∀ n ∈ [a], Sound s n by simpa using ha), dst_ok hd, rd_clean ha.2, bind, Except.bind, fall]

/-- An abort that finds no job of its number changes nothing. -/
theorem abortJob_of_none {s : State} {core job : Nat} {id : Word}
    (hq : ∀ x ∈ (s.tile (tileOf core)).arrayQ, ¬(x.core = core ∧ x.job = job ∧ x.seq = id.toNat % 2 ^ 32))
    (hrun : ∀ r, (s.tile (tileOf core)).arrayRun = some r → ¬(r.job.core = core ∧ r.job.job = job ∧ r.job.seq = id.toNat % 2 ^ 32)) :
    s.abortJob core job id = s := by
  have hmine (x : ArrayJob) : (x.core == core && x.job == job && x.seq == id.toNat % 2 ^ 32) = true
      ↔ x.core = core ∧ x.job = job ∧ x.seq = id.toNat % 2 ^ 32 := by
    simp only [Bool.and_eq_true, beq_iff_eq, and_assoc]
  have hfind : (s.tile (tileOf core)).arrayQ.find? (fun a => a.core == core && a.job == job && a.seq == id.toNat % 2 ^ 32) = none :=
    List.find?_eq_none.mpr fun x hx h => hq x hx ((hmine x).mp h)
  unfold State.abortJob
  simp only [hfind]
  match hr : (s.tile (tileOf core)).arrayRun with
  | none => rfl
  | some r => exact if_neg fun h => hrun r hr ((hmine r.job).mp h.1)

/-- What a completion without a counter to raise leaves beside messages and jobs. -/
theorem complete_keeps (s : State) (src : Endpoint) (job vcore v : Nat) (cm : Cmsg) (status : Word) (results : List Word) (acq : Bool)
    (know : Know) : (s.complete src job vcore v cm status results acq know 0).ctxs = s.ctxs
      ∧ (s.complete src job vcore v cm status results acq know 0).cur = s.cur
      ∧ (s.complete src job vcore v cm status results acq know 0).tiles = s.tiles := by
  unfold State.complete
  dsimp only
  split
  · exact ⟨State.pod_ctxs .., State.pod_cur .., State.pod_tiles ..⟩
  · split <;> exact ⟨rfl, rfl, rfl⟩

/-- The abort of the only queued job empties its queue. -/
theorem abortJob_of_queued {s : State} {core job : Nat} {id : Word} {x : ArrayJob} (hq : (s.tile (tileOf core)).arrayQ = [x])
    (hmine : x.core = core ∧ x.job = job ∧ x.seq = id.toNat % 2 ^ 32) (hpost : x.post = 0) :
    ((s.abortJob core job id).tile (tileOf core)).arrayQ = [] ∧ (s.abortJob core job id).me = s.me := by
  obtain ⟨hcore, hjob, hseq⟩ := hmine
  have hthis : (x.core == core && x.job == job && x.seq == id.toNat % 2 ^ 32) = true := by simp [hcore, hjob, hseq]
  have hfind : (s.tile (tileOf core)).arrayQ.find? (fun a => a.core == core && a.job == job && a.seq == id.toNat % 2 ^ 32) = some x := by
    rw [hq]
    exact List.find?_cons_of_pos (p := fun a : ArrayJob => a.core == core && a.job == job && a.seq == id.toNat % 2 ^ 32) hthis
  unfold State.abortJob State.completeJob
  simp only [hfind, hpost]
  obtain ⟨hctxs, hcur, htiles⟩ := complete_keeps ((s.updTile (tileOf core) (fun t => { t with arrayQ := t.arrayQ.filter (fun a =>
    !(a.core == core && a.job == job && a.seq == id.toNat % 2 ^ 32)) })).closeJob x (tmStatus 6 0 0 0 0)) (.ni (tileOf x.core)) x.job x.vcore x.v x.cm
    (statusWord 9 0 0) [tmStatus 6 0 0 0 0, BitVec.ofNat 64 (Config.pick s.free 77)] (cmAcq x.cm) (x.effects (s.updTile (tileOf core) (fun t =>
      { t with arrayQ := t.arrayQ.filter (fun a => !(a.core == core && a.job == job && a.seq == id.toNat % 2 ^ 32)) })))
  refine ⟨?_, me_congr hctxs hcur⟩
  rw [tile_congr htiles]
  refine (congrArg Tile.arrayQ (Map.getD_set_self _ _ _ _)).trans ?_
  simp [hq, hcore, hjob, hseq]

/-- Settles O29: commands of the array unit and of the exchange. -/
theorem arrayAndExchangeCommands : Obligations.ArrayAndExchangeCommands := by
  unfold Obligations.ArrayAndExchangeCommands
  intro s m d a b j w v h hj hd
  refine ⟨fun hblock hcheck hroom hgives => ?tmm, fun hblock hcheck hroom hgives => ?xchg, fun ha => ?status⟩
  case tmm =>
    intro seq
    have hexec := tmm_reach (m := m) h hj hd hblock hcheck hroom hgives
    obtain ⟨hseq, hme, henters⟩ := queueJob_enters s w v
    refine ⟨fun hfull => ?_, fun hfree => ⟨_, ?_, hme, henters⟩⟩
    · rw [Completes, hexec, if_pos hfull]
      rfl
    · rw [Completes, hexec, if_neg (by omega), hseq]
      rfl
  case xchg =>
    have hexec := xchg_reach (m := m) h hj hd hblock hcheck hroom hgives
    refine ⟨fun hfull => ?_, fun hfree => ⟨queueExchange (paid s v) (paid s v).issuer w v (xcScope j w), newExchange (paid s v) (paid s v).issuer w v, ?_, (me_congr rfl rfl).trans (me_paid s v),
      congrArg Tile.xqueue (Map.getD_set_self _ _ _ _), ?_⟩⟩
    · rw [Completes, hexec, if_pos hfull]
      rfl
    · rw [Completes, hexec, if_neg (by omega)]
      rfl
    · rw [issuer_paid]
      exact ⟨rfl, rfl, rfl, rfl, rfl, rfl⟩
  case status =>
    intro id seq word mine
    have hword : s.arrWord s.myCore s.me.job (value s 0 a) = word := arrWord_eq s _ _ _
    have habort := tabort_completes m h hd ha
    have hstat := tstat_completes m h hd ha
    rw [hword] at habort hstat
    refine ⟨hstat, fun hzero => ?_, fun hne hq hrun => ?_, fun hne x hq hx hpost => ⟨_, ?_, abortJob_of_queued hq hx hpost⟩⟩
    · rwa [if_pos hzero, hzero] at habort
    · rwa [if_neg hne, abortJob_of_none hq hrun] at habort
    · rwa [if_neg hne] at habort

/-! ## Trigger commands (R218 to R222) -/

theorem counterValue_eq (s : State) (tile job : Nat) {c : Nat} (h : c < 64) :
    counterValue s tile job c = if (s.counter tile c).owner = some job then (s.counter tile c).value else 0 := by
  simp [counterValue, State.counter, Vector.getD, h]

theorem trgRead_completes {s : State} {d a : Name} (m : Mark) (h : Plain s 4) (hd : writable d = true) (ha : Sound s a)
    (hc : (value s 0 a).toNat < 64) (hnone : s.overlapping s.me.task .core [counterLoc s.me.job s.me.vcore (value s 0 a).toNat] = []) :
    let c := s.counter s.myTile (value s 0 a).toNat
    Completes (.trgRead d a m) m s (wr s d (if c.owner = some s.me.job then BitVec.ofNat 64 c.value else 0) 2) .next := by
  intro c
  have hword : counterWord (value s 0 a) = .ok (value s 0 a).toNat := by
    simp only [counterWord, limits_true (decide_eq_true hc), bind, Except.bind]
  have hvalue : BitVec.ofNat 64 (counterValue s s.myTile s.me.job (value s 0 a).toNat)
      = if c.owner = some s.me.job then BitVec.ofNat 64 c.value else 0 := by
    rw [counterValue_eq s _ _ hc]
    split <;> rfl
  refine completes_issue32 (exec_trgRead d a m s) h ?_
  simp only [srcs_sound (show ∀ n ∈ [a], Sound s n by simpa using ha), dst_ok hd, rd_clean ha.2, hword, hnone, List.isEmpty_nil, ready_true, hvalue,
    bind, Except.bind, fall]

theorem trgCancel_completes {s : State} {d a : Name} (m : Mark) (h : Plain s 4) (hd : writable d = true) (ha : Sound s a) :
    ∃ t : State, ∃ r : Rise, Completes (.trgCancel d a m) m s t .next ∧ t.me = (wr s d 0 2).me
        ∧ (t.tile s.myTile).rises = (s.tile s.myTile).rises ++ [r] ∧ r.at_ = s.clk + 1 ∧ r.job = s.me.job
        ∧ r.cancel = some ⟨s.cur, s.me.task, (value s 0 a).toNat, targetOf s.me d⟩ := by
  let r : Rise := ⟨s.me.job, 0, 0, [], s.clk + 1, 0, some ⟨s.cur, s.me.task, (value s 0 a).toNat, targetOf s.me d⟩, [], none⟩
  refine ⟨addRise (wr s d 0 2) s.myTile r, r, completes_issue32 (exec_trgCancel d a m s) h ?_, rfl, ?_, rfl, rfl, rfl⟩
  · simp only [srcs_sound (show ∀ n ∈ [a], Sound s n by simpa using ha), dst_ok hd, rd_clean ha.2, bind, Except.bind, fall]
    rfl
  · obtain ⟨cs, os, heq⟩ := wr_frame s d 0 2
    rw [addRise, tile_updTile_self, heq]
    rfl

/-! ### Adds -/

theorem addCheck_ok {j : Job} {c v : Word} (hc : c.toNat < 2 ^ 22) (hscope : fieldOf c.toNat 19 3 ≤ 5) (hv : v.toNat < 2 ^ 32)
    (htile : c.toNat.testBit 17 = true → fieldOf c.toNat 6 11 < j.vtiles) : addCheck j c v = .ok () := by
  have hfields : (decide (c.toNat < 2 ^ 22) && decide (fieldOf c.toNat 19 3 ≤ 5)) = true := by
    simp only [Bool.and_eq_true, decide_eq_true_eq]
    exact ⟨hc, hscope⟩
  have hremote : (!addRemote c.toNat || decide (addTile c.toNat < j.vtiles)) = true := by
    cases h : c.toNat.testBit 17
    · simp [addRemote, h]
    · simp [addTile, htile h]
  simp only [addCheck, limits_true hfields, limits_true hremote, limits_true (decide_eq_true hv), bind, Except.bind]

theorem addCheck_raises {j : Job} {c v : Word} (h : 2 ^ 22 ≤ c.toNat ∨ 5 < fieldOf c.toNat 19 3 ∨ 2 ^ 32 ≤ v.toNat
    ∨ (c.toNat.testBit 17 = true ∧ j.vtiles ≤ fieldOf c.toNat 6 11)) : addCheck j c v = raise .illopnd 0 := by
  by_cases hfields : (decide (c.toNat < 2 ^ 22) && decide (fieldOf c.toNat 19 3 ≤ 5)) = true
  · by_cases hremote : (!addRemote c.toNat || decide (addTile c.toNat < j.vtiles)) = true
    · have hv : decide (v.toNat < 2 ^ 32) = false := by
        simp only [addRemote, addTile, Bool.and_eq_true, Bool.or_eq_true, Bool.not_eq_true', decide_eq_true_eq] at hfields hremote
        refine decide_eq_false fun hlt => ?_
        rcases h with h | h | h | ⟨h17, h⟩
        · omega
        · omega
        · omega
        · rcases hremote with h' | h'
          · rw [h17] at h'; cases h'
          · exact absurd (of_decide_eq_true h') (not_lt.mpr h)
      simp only [addCheck, limits_true hfields, limits_true hremote, limits_false hv, bind, Except.bind]
    · simp only [addCheck, limits_true hfields, limits_false (Bool.eq_false_iff.mpr hremote), bind, Except.bind]
      rfl
  · simp only [addCheck, limits_false (Bool.eq_false_iff.mpr hfields), bind, Except.bind]
    rfl

/-- The effect of `trg.add` once its words are read. -/
def addCounter (j : Job) (c v : Word) (s : State) : Res := do
  addCheck j c v
  if addRemote c.toNat then
    ready (niRoom s (addScope j s.myTile (addTile c.toNat)))
    let s1 ← joinHold s
    fall (remoteAdd s1.issuer j c.toNat v.toNat 0 s1)
  else
    ready (!s.countFull s.me.task .tile)
    fall (localAdd s.issuer c.toNat v.toNat s)

theorem exec_trgAdd_reads {s : State} {a b : Name} {j : Job} (m : Mark) (hj : s.myJob = some j) (ha : Sound s a) (hb : Sound s b) :
    exec (.trgAdd a b m) s = issue32 m s (addCounter j (value s 0 a) (value s 1 b) s) := by
  rw [exec_trgAdd, execTrgAdd]
  simp only [srcs_sound (show ∀ n ∈ [a, b], Sound s n by simpa using ⟨ha, hb⟩), theJob_of_myJob hj, rd_clean ha.2, rd_clean hb.2, bind, Except.bind]
  rfl

theorem addRel_isSome (c : Nat) : (addRel c).isSome = c.testBit 18 := by
  unfold addRel
  cases c.testBit 18 <;> rfl

/-- A local add reaches the trigger unit of its tile. -/
theorem localAdd_rises (s : State) (c v : Nat) : ∃ r : Rise, (localAdd s.issuer c v s).me = s.me
    ∧ ((localAdd s.issuer c v s).tile s.myTile).rises = (s.tile s.myTile).rises ++ [r] ∧ r.at_ = s.clk + 1 ∧ r.job = s.me.job ∧ r.ctr = fieldOf c 0 6
    ∧ r.amount = v ∧ r.cancel = none ∧ r.rel.isSome = c.testBit 18 :=
  ⟨_, rfl, congrArg Tile.rises (Map.getD_set_self _ _ _ _), rfl, rfl, rfl, rfl, rfl, by rw [Option.isSome_map, addRel_isSome]⟩

/-- A remote add of a task that can join its hold. -/
theorem remoteAdd_leaves {s t : State} (hjoined : HoldJoined s t) (hframe : ∃ cs ts, t = { s with ctxs := cs, tasks := ts }) (j : Job) (c v : Nat) :
    HoldJoined s (remoteAdd t.issuer j c v 0 t) ∧ Leaves s (remoteAdd t.issuer j c v 0 t) .trigger (.ni (j.tile (fieldOf c 6 11)))
      (fun x => ∃ (rel : Option Rel) (acc : Nat), x = .trgAdd s.me.job (fieldOf c 6 11) (fieldOf c 0 6) v s.me.task rel acc 0 ∧ rel.isSome = c.testBit 18) := by
  obtain ⟨hme, htasks⟩ := hjoined
  have hissuer : t.issuer = s.issuer := by
    obtain ⟨cs, ts, rfl⟩ := hframe
    simp only [State.issuer, hme]
    rfl
  rw [hissuer]
  exact ⟨⟨(me_congr rfl rfl).trans hme, htasks⟩, _, List.getLast?_concat, rfl, rfl, rfl, rfl, rfl, rfl, _, _, rfl,
    by rw [Option.isSome_map, addRel_isSome]⟩

/-! ### Posted operations -/

/-- The effect of `trg.post` once its checks have passed. -/
theorem trgPost_reach {s : State} {d a b : Name} {j : Job} {t : Tctl} {w : List Word} {v : Nat} {m : Mark} (h : Plain s 4) (hj : s.myJob = some j)
    (hd : writable d = true) (hblock : postedBlock s a = .ok (t, w)) (howner : (s.counter s.myTile t.ctr).owner = some s.me.job)
    (hcheck : postedCheck s j t w = .ok ()) (hsound : blockOk s a (1 + w.length) = .ok ()) (hgives : Gives s b v) :
    exec (.trgPost d a b m) s = issue 4 m.g.val m.s s
      (match (List.range 256).find? (fun e => !((s.tile s.myTile).posted.map (·.entry)).contains e) with
      | none => raise .trigfull 0
      | some e => fall (wr { ((paid s v).updTile s.myTile (fun y => { y with
          posted := y.posted ++ [⟨e, s.me.job, s.myCore, s.me.vcore, s.me.task, t.ctr, t.thresh, t.op, t.fn, t.dctr, t.done, t.ord, v, w, s.serial,
            s.me.know, s.me.relFences, s.clk + 1⟩]
          gens := y.gens.set e (((s.tile s.myTile).gens.getD e 0 + 1) % 65536) })) with serial := s.serial + 1 } d
          (entryHandle ((s.tile s.myTile).gens.getD e 0) e) 2)) := by
  obtain ⟨hsrcs, hrd, hv, htake⟩ := rd_gives hgives
  have hown : ((s.counter s.myTile t.ctr).owner == some s.me.job) = true := by simp [howner]
  rw [exec_trgPost, execTrgPost, issue32_plain m _ h]
  simp only [hsrcs, dst_ok hd, theJob_of_myJob hj, hblock, limits_true hown, hcheck, hsound, hrd, hv, htake, bind, Except.bind]
  rfl

/-- The lowest entry that none is posted in. -/
theorem freeEntry_of_lowest {t : Tile} {e : Fin 256} (hfree : ∀ p ∈ t.posted, p.entry ≠ e.val) (hlow : ∀ f, f < e.val → ∃ p ∈ t.posted, p.entry = f) :
    (List.range 256).find? (fun e => !(t.posted.map (·.entry)).contains e) = some e.val := by
  refine List.find?_range_eq_some.mpr ⟨?_, List.mem_range.mpr e.isLt, fun f hf => ?_⟩
  · simpa using hfree
  · simpa using hlow f hf

theorem freeEntry_of_full {t : Tile} (h : ∀ f, f < 256 → ∃ p ∈ t.posted, p.entry = f) :
    (List.range 256).find? (fun e => !(t.posted.map (·.entry)).contains e) = none := by
  refine List.find?_eq_none.mpr fun f hf => ?_
  simpa using h f (List.mem_range.mp hf)

/-- Settles O31: the trigger commands. -/
theorem triggerCommands : Obligations.TriggerCommands := by
  unfold Obligations.TriggerCommands
  intro s m d a b j h hj
  refine ⟨fun hd ha hc hnone => trgRead_completes m h hd ha hc hnone, fun hd ha => trgCancel_completes m h hd ha, fun ha hb => ?add,
    fun t w v hd hblock howner hcheck hsound hgives => ?post⟩
  case add =>
    intro c v vt
    have hexec := exec_trgAdd_reads m hj ha hb
    refine ⟨fun hbad => traps_issue32 hexec h ?_, fun hc hscope hv => ⟨fun hlocal hroom => ?_, fun hremote htile hroom hholds => ?_⟩⟩
    · rw [addCounter, addCheck_raises hbad]
      rfl
    · obtain ⟨r, hrise⟩ := localAdd_rises s c v
      refine ⟨_, r, completes_issue32 hexec h ?_, hrise⟩
      have hready : (!s.countFull s.me.task .tile) = true := by rw [hroom]; rfl
      have hcheck : addCheck j (value s 0 a) (value s 1 b) = .ok () := addCheck_ok hc hscope hv (fun h => by rw [hlocal] at h; cases h)
      have hnot : ¬addRemote (value s 0 a).toNat = true := by rw [addRemote, hlocal]; exact Bool.false_ne_true
      simp only [addCounter, hcheck, if_neg hnot, ready_true hready, bind, Except.bind, fall]
      rfl
    · obtain ⟨t, hjoin, hjoined, hframe⟩ := joinHold_holds hholds
      obtain ⟨hheld, hleaves⟩ := remoteAdd_leaves hjoined hframe j c v
      refine ⟨_, completes_issue32 hexec h ?_, hheld, hleaves⟩
      have hcheck : addCheck j (value s 0 a) (value s 1 b) = .ok () := addCheck_ok hc hscope hv (fun _ => htile)
      have hready : ready (niRoom s (addScope j s.myTile (addTile (value s 0 a).toNat))) = .ok () := ready_true (niRoom_of_room hroom)
      simp only [addCounter, hcheck, if_pos (show addRemote (value s 0 a).toNat = true from hremote), hready, hjoin, bind, Except.bind, fall]
      rfl
  case post =>
    have hexec := trgPost_reach (m := m) h hj hd hblock howner hcheck hsound hgives
    refine ⟨fun e hfree hlow => ?_, fun hfull => ?_⟩
    · intro gen
      rw [freeEntry_of_lowest hfree hlow] at hexec
      exact ⟨_, _, hexec, (me_congr rfl rfl).trans (me_paid s v), congrArg Tile.posted (Map.getD_set_self _ _ _ _), rfl, rfl, rfl, rfl, rfl, rfl, rfl⟩
    · rw [freeEntry_of_full hfull] at hexec
      rw [Traps, hexec]
      rfl

end Sys2Proof.Laws
end

section
/-! A contribution to a reduction (R225). -/

namespace Sys2Proof.Laws
open Sys2Proof.Machine Sys2Proof.Safety

/-! ## A contribution to a reduction (R225) -/

theorem nredCheck_of_none {j : Job} {vcore : Nat} {w : List Word} (h0 : wordAt w 0 < 64) (h1 : wordAt w 1 < 2 ^ 16)
    (h : j.ndef (wordAt w 0) = none) : nredCheck j vcore w = raise .nredcfg 0 := by
  have hlimits : (decide (wordAt w 0 < 64) && decide (wordAt w 1 < 2 ^ 16)) = true := by
    simp only [Bool.and_eq_true, decide_eq_true_eq]
    exact ⟨h0, h1⟩
  simp only [nredCheck, limits_true hlimits, h, bind, Except.bind]

theorem nredCheck_of_outside {j : Job} {vcore : Nat} {w : List Word} {d : NDef} (h0 : wordAt w 0 < 64) (h1 : wordAt w 1 < 2 ^ 16)
    (h : j.ndef (wordAt w 0) = some d) (hpart : takesPart d.block vcore = false) : nredCheck j vcore w = raise .nredcfg 0 := by
  have hlimits : (decide (wordAt w 0 < 64) && decide (wordAt w 1 < 2 ^ 16)) = true := by
    simp only [Bool.and_eq_true, decide_eq_true_eq]
    exact ⟨h0, h1⟩
  simp only [nredCheck, limits_true hlimits, h, need_false .nredcfg hpart, bind, Except.bind]
  rfl

theorem nredCheck_ok {j : Job} {vcore : Nat} {w : List Word} {d : NDef} (h0 : wordAt w 0 < 64) (h1 : wordAt w 1 < 2 ^ 16)
    (h : j.ndef (wordAt w 0) = some d) (hpart : takesPart d.block vcore = true)
    (hrange : wordAt w 1 + 4 * ndElems d.block ≤ min 0x10000 (4096 * j.lsize)) (halign : wordAt w 1 % 4 = 0) : nredCheck j vcore w = .ok d := by
  have hlimits : (decide (wordAt w 0 < 64) && decide (wordAt w 1 < 2 ^ 16)) = true := by
    simp only [Bool.and_eq_true, decide_eq_true_eq]
    exact ⟨h0, h1⟩
  have hin : ¬min 0x10000 j.localLimit < wordAt w 1 + 4 * ndElems d.block := not_lt.mpr hrange
  have hal : ¬wordAt w 1 % 4 ≠ 0 := fun h => h halign
  simp only [nredCheck, limits_true hlimits, h, need_true .nredcfg hpart, if_neg hin, if_neg hal, bind, Except.bind]

/-- The effect of `nred`. -/
def contribute (a b : Name) (s : State) : Res := do
  srcs [b]
  let j ← theJob s
  let words ← block s a 2
  let _ ← nredCheck j s.me.vcore words
  ready (niRoom s .tile)
  blockOk s a 2
  let v ← rd s 60 b
  let s1 ← takeWeight s v.toNat
  fall (queueNred s1.issuer j words v.toNat s1)

theorem contribute_raises {s : State} {a b : Name} {j : Job} {w : List Word} {c : Cause} (hj : s.myJob = some j) (hblock : BlockIs s a 2 w)
    (hb : readable b = true) (hcheck : nredCheck j s.me.vcore w = raise c 0) : contribute a b s = raise c 0 := by
  have hsrcs : srcs [b] = .ok () := by simp [srcs, need, hb]
  simp only [contribute, hsrcs, theJob_of_myJob hj, (block_is hblock).1, hcheck, bind, Except.bind]
  rfl

theorem contribute_ok {s : State} {a b : Name} {j : Job} {w : List Word} {v : Nat} {d : NDef} (hj : s.myJob = some j) (hblock : BlockIs s a 2 w)
    (hcheck : nredCheck j s.me.vcore w = .ok d) (hroom : Room s .tile) (hgives : Gives s b v) :
    contribute a b s = .ok (queueNred s.issuer j w v (paid s v), .next) := by
  obtain ⟨hwords, hsound⟩ := block_is hblock
  obtain ⟨hsrcs, hrd, hv, htake⟩ := rd_gives hgives
  simp only [contribute, hsrcs, theJob_of_myJob hj, hwords, hcheck, ready_true (niRoom_of_room hroom), hsound, hrd, hv, htake, issuer_paid, bind,
    Except.bind, fall]

/-- The part the NI reads for a contribution. -/
def readPart (s : State) (w : Issuer) (d : NDef) (addr v : Nat) : Partial :=
  let flat := locAddr w.job w.vcore addr
  ⟨wordElems (s.readBytes (readerOf s .net w.task (nredKnow s w flat (4 * ndElems d.block))) .loc flat (4 * ndElems d.block) 30)
    (ndElems d.block), 1, v, 0, knowOn w.know w.fences .net⟩

theorem length_wordElems (bs : List Byte) (n : Nat) : (wordElems bs n).length = n := by
  simp [wordElems]

/-- With no write that a read may miss the elements are those of memory. -/
theorem elems_readPart {s : State} (hw : s.writes = []) (w : Issuer) (d : NDef) (addr v : Nat) {i : Nat} (hi : i < ndElems d.block) :
    (readPart s w d addr v).elems[i]? = some (BitVec.ofNat 64 (leNat (s.localMem.read (locAddr w.job w.vcore addr + 4 * i) 4))) := by
  have hread (m : Memory) (a n : Nat) (h : 4 * i + 4 ≤ n) : ((m.read a n).drop (4 * i)).take 4 = m.read (a + 4 * i) 4 := by
    refine List.ext_getElem? fun k => ?_
    simp only [read_eq_map, List.getElem?_take, List.getElem?_drop, List.getElem?_map]
    split
    · rw [List.getElem?_range (by omega), List.getElem?_range (by omega), Option.map_some, Option.map_some, Nat.add_assoc]
    · rw [List.getElem?_eq_none (by simp; omega), Option.map_none]
  simp only [readPart, wordElems, readBytes_of_no_writes hw, List.getElem?_map, List.getElem?_range hi, Option.map_some]
  rw [hread _ _ _ (by omega)]
  rfl

theorem queueNred_leaves {s : State} {j : Job} {w : List Word} {v : Nat} {d : NDef} (h : j.ndef (wordAt w 0) = some d)
    (hroot : ndRoot d.block ≠ s.me.vcore) (hgood : firstBad s.eccLocal (locAddr s.me.job s.me.vcore (wordAt w 1)) (4 * ndElems d.block) = none) :
    queueNred s.issuer j w v (paid s v)
      = ((paid s v).newAcc s.me.task .tile .net false).post .reduction (.ni s.myTile) (.ni s.myTile) s.me.job ((8 + 4 * ndElems d.block + 31) / 32)
          (s.myCore + 1) (s.issuer.waits (paid s v) .net none)
          (.contribution s.me.job (wordAt w 0) (s.myCore % 8) (readPart (paid s v) s.issuer d (wordAt w 1) v) s.serial 0) := by
  have hgood' : firstBad (paid s v).eccLocal (locAddr s.issuer.job s.issuer.vcore (wordAt w 1)) (4 * ndElems d.block) = none := hgood
  have hroot' : ¬ndRoot d.block = s.issuer.vcore := hroot
  simp only [queueNred, h, hgood', if_neg hroot']
  rfl

theorem ndef_updNdef {s : State} {job nid : Nat} {j : Job} {d : NDef} {f : NDef → NDef} (hj : s.job? job = some j) (hd : j.ndef nid = some d)
    (hf : ∀ x, (f x).nid = x.nid) : ∃ j', (s.updNdef job nid f).job? job = some j' ∧ j'.ndef nid = some (f d) := by
  refine ⟨{ j with ndefs := replaceIf (fun d => d.nid == nid) f j.ndefs }, ?_, ?_⟩
  · simp only [State.updNdef, State.updJob, hj]
    exact Map.get?_set_self _ _ _
  · have hnid : (d.nid == nid) = true := List.find?_some (p := fun x : NDef => x.nid == nid) hd
    have hsame : (fun x : NDef => x.nid == nid) ∘ (fun x => if (x.nid == nid) = true then f x else x) = fun x => x.nid == nid := by
      funext x
      simp only [Function.comp]
      split <;> simp [hf]
    rw [Job.ndef, replaceIf, List.find?_map, hsame, show j.ndefs.find? (fun x => x.nid == nid) = some d from hd, Option.map_some, if_pos hnid]

/-- The root keeps its own contribution. -/
theorem queueNred_keeps {s : State} {j : Job} {w : List Word} {v : Nat} {d : NDef} (hj : s.myJob = some j) (h : j.ndef (wordAt w 0) = some d)
    (hroot : ndRoot d.block = s.me.vcore) (hgood : firstBad s.eccLocal (locAddr s.me.job s.me.vcore (wordAt w 1)) (4 * ndElems d.block) = none)
    (hlate : d.late = 0) : ∃ j' d', (queueNred s.issuer j w v (paid s v)).me = (paid s v).me
      ∧ (queueNred s.issuer j w v (paid s v)).job? s.me.job = some j' ∧ j'.ndef (wordAt w 0) = some d'
      ∧ d'.own = d.own ++ [readPart (paid s v) s.issuer d (wordAt w 1) v] := by
  have hgood' : firstBad (paid s v).eccLocal (locAddr s.issuer.job s.issuer.vcore (wordAt w 1)) (4 * ndElems d.block) = none := hgood
  have hroot' : ndRoot d.block = s.issuer.vcore := hroot
  have hjob : (paid s v).job? s.issuer.job = some j := hj
  have hnot : ¬0 < d.late := by omega
  have heq : queueNred s.issuer j w v (paid s v) = (paid s v).updNdef s.me.job (wordAt w 0) (fun x =>
      { (x.start s.clk (x.round + x.own.length)) with own := x.own ++ [readPart (paid s v) s.issuer d (wordAt w 1) v] }) := by
    simp only [queueNred, h, hgood', if_pos hroot', State.ownPart, hjob, if_neg hnot]
    rfl
  rw [heq]
  obtain ⟨j', hj', hd'⟩ := ndef_updNdef (s := paid s v) (job := s.me.job) (f := fun x =>
      { (x.start s.clk (x.round + x.own.length)) with own := x.own ++ [readPart (paid s v) s.issuer d (wordAt w 1) v] }) hj h (fun x => by
    unfold NDef.start
    dsimp only
    split
    · rfl
    · split <;> rfl)
  exact ⟨j', _, me_congr (by simp only [State.updNdef, State.updJob]; split <;> rfl) (by simp only [State.updNdef, State.updJob]; split <;> rfl), hj', hd',
    rfl⟩

/-- Settles O32: a contribution leaves for the router, or is kept at the root. -/
theorem reductionContribution : Obligations.ReductionContribution := by
  unfold Obligations.ReductionContribution
  intro s m a b j w v h hj hblock hb h0 h1
  have hexec : exec (.nred a b m) s = issue32 m s (contribute a b s) := rfl
  refine ⟨fun hnone => traps_issue32 hexec h (contribute_raises hj hblock hb (nredCheck_of_none h0 h1 hnone)), fun d hd => ?_⟩
  intro n flat
  refine ⟨fun hpart => traps_issue32 hexec h (contribute_raises hj hblock hb (nredCheck_of_outside h0 h1 hd hpart)),
    fun hpart hrange halign hroom hgives hroot hgood => ?leaves, fun hpart hrange halign hroom hgives hroot hgood hlate => ?keeps⟩
  case leaves =>
    have heff := contribute_ok hj hblock (nredCheck_ok h0 h1 hd hpart hrange halign) hroom hgives
    rw [queueNred_leaves hd hroot hgood] at heff
    exact ⟨_, completes_issue32 hexec h heff, (me_congr rfl rfl).trans (me_paid s v), _, List.getLast?_concat, rfl, rfl, rfl, rfl, rfl, rfl, _, _, rfl, rfl,
      rfl, length_wordElems _ _, fun hw i hi => elems_readPart (s := paid s v) hw s.issuer d (wordAt w 1) v hi⟩
  case keeps =>
    have heff := contribute_ok hj hblock (nredCheck_ok h0 h1 hd hpart hrange halign) hroom hgives
    obtain ⟨j', d', hme, hj', hd', hown⟩ := queueNred_keeps (v := v) hj hd hroot hgood hlate
    exact ⟨_, j', d', _, completes_issue32 hexec h heff, hme.trans (me_paid s v), hj', hd', hown, rfl, rfl, length_wordElems _ _⟩

end Sys2Proof.Laws
end

section
/-! Fences (R250). -/

namespace Sys2Proof.Laws
open Sys2Proof.Machine Sys2Proof.Safety

/-! ## Fences (R250) -/

/-- A context that neither dies nor ends and has no fault noted stands as it did when it is asked whether to release it. -/
theorem release_of_live {s : State} {key : Nat} {c : Ctx} (hc : s.ctxs.get? key = some c) (hd : c.dying = false) (he : c.ending = false)
    (hf : c.startFault = none) : s.release key = s := by
  simp [State.release, hc, hd, he, hf]

/-- A live context that is parked stands as it did otherwise. -/
theorem released_park {t : State} {key : Nat} {c : Ctx} (hc : t.ctxs.get? key = some c) (hd : c.dying = false) (he : c.ending = false)
    (hf : c.startFault = none) : (t.updCtx key (fun c => { c with parked := true })).release key
      = { t with ctxs := t.ctxs.set key { c with parked := true } } := by
  simp only [State.updCtx, hc]
  exact release_of_live (c := { c with parked := true }) (Map.get?_set_self _ _ _) hd he hf

/-- The fence that an instruction adds. -/
def newFence (s : State) (k : FenceKind) (before after : Nat) (sc : Scope) : RelFence :=
  ⟨s.serial, s.myCore, before, after, sc, if k != .acquire then s.releaseWaits s.me.task sc else [], s.me.acqLoads,
    fenceEdge s (k != .acquire) before after sc, k != .release⟩

theorem me_addFence (s : State) (k : FenceKind) (before after : Nat) (sc : Scope) :
    (addFence k before after sc s).me = { s.me with relFences := s.me.relFences ++ [newFence s k before after sc] } :=
  (me_congr rfl rfl).trans (me_setMe s _)

/-- An acquire or full fence parks its context, whatever its marker. -/
theorem exec_fence_parks {s : State} (m : Mark) (c : Scope) (x y : BitVec 7) (h : Plain s 4) {k : FenceKind} (hk : k ≠ .release) :
    exec (.fence k c x y m) s = parkAfter m s (.next (after s (addFence k y.toNat x.toNat c s) 4 m.g.val m.s .next)) := by
  rw [exec_fence]
  cases k with
  | release => exact absurd rfl hk
  | acquire | full =>
    simp only [execFence, begin_plain h, issue32_plain m _ h]
    rfl

/-- The context of a fence once it has retired and is parked. -/
theorem fence_parked {s : State} (m : Mark) (c : Scope) (x y : BitVec 7) {k : FenceKind} (hfault : s.me.startFault = none)
    (hdying : s.me.dying = false) (hending : s.me.ending = false) :
    ∃ cs : Map Ctx, ∃ d : Ctx, parkAfter m s (.next (after s (addFence k y.toNat x.toNat c s) 4 m.g.val m.s .next))
        = .next { addFence k y.toNat x.toNat c s with ctxs := cs, free := s.free + 1, limmOpen := none } ∧ cs.get? s.cur = some d ∧ d.parked = true
      ∧ d.task = s.me.task ∧ d.s = s.me.s ∧ d.know = s.me.know ∧ d.relFences = s.me.relFences ++ [newFence s k y.toNat x.toNat c] := by
  let c1 : Ctx := { s.me with relFences := s.me.relFences ++ [newFence s k y.toNat x.toNat c] }
  have hget : (addFence k y.toNat x.toNat c s).ctxs.get? s.cur = some c1 := Map.get?_set_self _ _ _
  have hretire := retire_me (s := addFence k y.toNat x.toNat c s) 4 m.g.val m.s .next hget
  have hkeep : (c1.advance s.clk 4 m.g.val m.s .next).dying = false ∧ (c1.advance s.clk 4 m.g.val m.s .next).ending = false
      ∧ (c1.advance s.clk 4 m.g.val m.s .next).startFault = none := ⟨hdying, hending, hfault⟩
  obtain ⟨hd, he, hf⟩ := hkeep
  by_cases hs : m.s = true
  · have hafter : after s (addFence k y.toNat x.toNat c s) 4 m.g.val m.s .next = (addFence k y.toNat x.toNat c s).retire 4 m.g.val m.s .next := by
      rw [after, if_pos hs]
      exact release_of_live hretire hd he hf
    refine ⟨_, c1.advance s.clk 4 m.g.val m.s .next, ?_, hretire, hs, rfl, rfl, rfl, rfl⟩
    simp only [parkAfter, if_pos hs, hafter]
    rfl
  · refine ⟨((addFence k y.toNat x.toNat c s).retire 4 m.g.val m.s .next).ctxs.set s.cur { c1.advance s.clk 4 m.g.val m.s .next with parked := true },
      { c1.advance s.clk 4 m.g.val m.s .next with parked := true }, ?_, Map.get?_set_self _ _ _, rfl, rfl, rfl, rfl, rfl⟩
    simp only [parkAfter, after, if_neg hs]
    rw [released_park (key := s.cur) hretire hd he hf]
    rfl

/-- Settles O33: a fence retires, or parks its context. -/
theorem fences : Obligations.Fences := by
  unfold Obligations.Fences
  intro s m c x y h
  refine ⟨⟨addFence .release y.toNat x.toNat c s, newFence s .release y.toNat x.toNat c, ?_, me_addFence .., rfl, rfl, rfl, rfl⟩,
    fun hfault hdying hending k hk hcur => ?_⟩
  · rw [Completes, exec_fence]
    simp only [execFence, begin_plain h, issue32_plain m _ h]
    rfl
  · obtain ⟨cs, d, hexec, hget, hparked, htask, hs, hknow, hfences⟩ := fence_parked (k := k) m c x y hfault hdying hending
    have hme : ({ addFence k y.toNat x.toNat c s with ctxs := cs, free := s.free + 1, limmOpen := none } : State).me = d := me_of_get? hget
    refine ⟨_, (exec_fence_parks m c x y h hk).trans hexec, ?_⟩
    rw [hme]
    refine ⟨hparked, htask, hs, rfl, rfl, rfl, hknow, _, hfences, rfl, rfl, rfl, ?_⟩
    cases k with
    | release => exact absurd rfl hk
    | acquire | full => rfl

end Sys2Proof.Laws
end

section
/-! System instructions (R205, R351, R353, R354). -/

namespace Sys2Proof.Laws
open Sys2Proof.Machine Sys2Proof.Safety

/-! ## System registers (R351) -/

/-- A selector of a register and its index: the name is sound and holds the two in its low sixteen bits. -/
structure Selects (s : State) (a : Name) (reg idx : Nat) : Prop where
  sound : Sound s a
  value : (value s 0 a).toNat = reg + 256 * idx
  reg : reg < 256

theorem Selects.selReg {s : State} {a : Name} {reg idx : Nat} (h : Selects s a reg idx) : selReg (Machine.value s 0 a) = reg := by
  have hreg := h.reg
  simp only [Machine.selReg, fieldOf, h.value]
  omega

theorem Selects.selIdx {s : State} {a : Name} {reg idx : Nat} (h : Selects s a reg idx) (hidx : idx < 256) : selIdx (Machine.value s 0 a) = idx := by
  have hreg := h.reg
  simp only [Machine.selIdx, fieldOf, h.value]
  omega

/-- A selector of a register that has a value of that index passes its check. -/
theorem Selects.check_ok {s : State} {a : Name} {reg idx n : Nat} (h : Selects s a reg idx) {j : Job} (hcount : sysCount j reg = some n)
    (hidx : idx < n) (hn : n ≤ 256) : selCheck j (Machine.value s 0 a) = .ok () := by
  have hreg := h.reg
  have hfit : (Machine.value s 0 a).toNat < 65536 := by rw [h.value]; omega
  refine limits_true ?_
  simp [hfit, h.selReg, h.selIdx (by omega), hcount, hidx]

/-- A number that names no register does not. -/
theorem Selects.check_raises {s : State} {a : Name} {reg idx : Nat} (h : Selects s a reg idx) {j : Job} (hcount : sysCount j reg = none) :
    selCheck j (Machine.value s 0 a) = raise .illopnd 0 := limits_false (by simp [h.selReg, hcount])

theorem selCheck_cases (j : Job) (w : Word) : selCheck j w = .ok () ∨ selCheck j w = raise .illopnd 0 := by
  unfold selCheck
  generalize (decide (w.toNat < 65536) && _) = ok
  cases ok with
  | true => exact .inl (limits_true rfl)
  | false => exact .inr (limits_false rfl)

theorem sysCount_none {j : Job} {reg : Nat} (h : 15 ≤ reg) : sysCount j reg = none := by
  unfold sysCount
  split <;> first | omega | (rw [if_neg (by omega)])

theorem tbanks_le (j : Job) : j.tbanks ≤ 256 := by
  simp only [Job.tbanks, fieldOf]
  show (if j.word 0 / 2 ^ 53 % 2 ^ 5 = 0 then 16 else j.word 0 / 2 ^ 53 % 2 ^ 5) ≤ 256
  split <;> omega

/-- A task that is privileged, or whose register asks for no privilege, passes the check of a selector. -/
theorem Selects.priv_ok {s : State} {a : Name} {reg idx : Nat} (h : Selects s a reg idx) {needs : Nat → Bool}
    (hpriv : s.me.privileged = true ∨ needs reg = false) : selPriv s a needs = .ok () :=
  need_true _ (by rcases hpriv with hp | hp <;> simp [hp, h.selReg])

/-- Another task faults PRIV. -/
theorem Selects.priv_raises {s : State} {a : Name} {reg idx : Nat} (h : Selects s a reg idx) {needs : Nat → Bool}
    (hpriv : s.me.privileged = false) (hneeds : needs reg = true) : selPriv s a needs = raise .priv 0 := by
  have hclean : s.me.ecc.contains (eccOfName s.me a) = false := h.sound.2
  exact need_false _ (by rw [hclean, hpriv, h.selReg, hneeds]; rfl)

section
variable {s : State} {a b d : Name} {reg idx n : Nat} {j : Job}

/-- `sys.mfs` of a register that the task may read. -/
theorem mfs_completes (m : Mark) (h : Plain s 4) (hj : s.myJob = some j) (hd : writable d = true) (hsel : Selects s a reg idx)
    (hpriv : s.me.privileged = true ∨ sysReadPriv reg = false) (hcount : sysCount j reg = some n) (hidx : idx < n) (hn : n ≤ 256)
    {v : Word} (hread : sysRead s j reg idx = v) : Completes (.sysMfs d a m) m s (wr s d v 1) .next := by
  subst hread
  refine completes_issue32 (exec_sysMfs d a m s) h ?_
  simp only [srcs_sound (l := [a]) (by simpa using hsel.sound), hsel.priv_ok hpriv, dst_ok hd, theJob_of_myJob hj, rd_clean hsel.sound.2]
  show (do selCheck j (value s 0 a); fall (wr s d (sysRead s j (selReg (value s 0 a)) (selIdx (value s 0 a))) 1)) = _
  rw [hsel.check_ok hcount hidx hn, hsel.selReg, hsel.selIdx (by omega)]
  rfl

/-- `sys.mts` once its two names are read. -/
def mtsChecked (s : State) (j : Job) (w v : Word) : Res := do
  selCheck j w
  limits (sysWritable (selReg w))
  limits (sysValueOk j (selReg w) v)
  fall (sysWrite s j (selReg w) (selIdx w) v)

/-- `sys.mts` of a value that the register takes. -/
theorem mts_completes (m : Mark) (h : Plain s 4) (hj : s.myJob = some j) (hb : Sound s b) (hsel : Selects s a reg idx)
    (hpriv : s.me.privileged = true ∨ sysWritePriv reg = false) (hcount : sysCount j reg = some n) (hidx : idx < n) (hn : n ≤ 256)
    (hwrite : sysWritable reg = true) (hv : sysValueOk j reg (value s 1 b) = true) :
    Completes (.sysMts a b m) m s (sysWrite s j reg idx (value s 1 b)) .next := by
  refine completes_issue32 (exec_sysMts a b m s) h ?_
  simp only [srcs_sound (l := [a]) (by simpa using hsel.sound), srcs_sound (l := [b]) (by simpa using hb), hsel.priv_ok hpriv, theJob_of_myJob hj,
    rd_clean hsel.sound.2, rd_clean hb.2]
  show mtsChecked s j (value s 0 a) (value s 1 b) = _
  rw [mtsChecked, hsel.selReg, hsel.selIdx (by omega), hsel.check_ok hcount hidx hn, hwrite, hv]
  rfl

/-- A register that is not written, or does not take the value, is ILLOPND. -/
theorem mts_traps (m : Mark) (h : Plain s 4) (hj : s.myJob = some j) (hb : Sound s b) (hsel : Selects s a reg idx)
    (hpriv : s.me.privileged = true ∨ sysWritePriv reg = false) (hbad : sysWritable reg = false ∨ sysValueOk j reg (value s 1 b) = false) :
    Traps (.sysMts a b m) s .illopnd 0 := by
  refine traps_issue32 (exec_sysMts a b m s) h ?_
  simp only [srcs_sound (l := [a]) (by simpa using hsel.sound), srcs_sound (l := [b]) (by simpa using hb), hsel.priv_ok hpriv, theJob_of_myJob hj,
    rd_clean hsel.sound.2, rd_clean hb.2]
  show mtsChecked s j (value s 0 a) (value s 1 b) = _
  rw [mtsChecked, hsel.selReg]
  rcases selCheck_cases j (value s 0 a) with hcheck | hcheck <;> rw [hcheck]
  · rcases hbad with hbad | hbad <;> rw [hbad]
    · rfl
    · cases sysWritable reg <;> rfl
  · rfl
end

/-- What `sys.mts` writes beside the task's own flags, VFMT and watchdog leaves its context. -/
theorem me_sysWrite {s : State} {j : Job} {reg : Nat} (idx : Nat) (v : Word) (h : reg ∉ [0, 1, 9]) : (sysWrite s j reg idx v).me = s.me := by
  refine me_congr ?_ ?_ <;> unfold sysWrite <;> dsimp only <;> split <;> first | rfl | (exact absurd (by decide) h) | (split <;> rfl)


/-- A field of four bits meets a condition wherever it stands in the word. -/
theorem nibbles_all {n : Nat} {p : Nat → Bool} (h : ∀ i, i < 8 → p (fieldOf n (4 * i) 4) = true) : (nibbles n).all p = true := by
  simpa [nibbles] using h

/-- The registers whose reads and writes ask for no privilege, or for it. -/
theorem priv_of_reg {reg : Nat} : (reg ∈ [11, 12, 14] ↔ sysReadPriv reg = true) ∧ (reg ∈ [6, 7, 8, 9, 10] ↔ sysWritePriv reg = true) := by
  constructor
  · simp [sysReadPriv, or_assoc]
  · simp [sysWritePriv]; omega

/-- Settles O34: the checks of the selector decide between the trap and the access. -/
theorem systemRegisters : Obligations.SystemRegisters := by
  unfold Obligations.SystemRegisters
  intro s m d a b j reg idx h hj ha hd hvalue hreg
  have hsel : Selects s a reg idx := ⟨ha, hvalue, hreg⟩
  have hsrc : srcs [a] = .ok () := srcs_sound (by simpa using ha)
  refine ⟨fun hr hp => ?_, fun hr hp => ?_, fun hr => ?_, fun v hp hrow => ?_, fun hb => ?_⟩
  · refine traps_issue32 (exec_sysMfs d a m s) h ?_
    rw [hsrc, hsel.priv_raises hp (priv_of_reg.1.mp hr)]
    rfl
  · refine traps_issue32 (exec_sysMts a b m s) h ?_
    rw [hsrc, hsel.priv_raises hp (priv_of_reg.2.mp hr)]
    rfl
  · have hneeds : sysReadPriv reg = false := by simp [sysReadPriv]; omega
    refine traps_issue32 (exec_sysMfs d a m s) h ?_
    simp only [hsrc, hsel.priv_ok (.inr hneeds), dst_ok hd, theJob_of_myJob hj, rd_clean ha.2]
    show (do selCheck j (value s 0 a); _) = _
    rw [hsel.check_raises (sysCount_none hr)]
    rfl
  · have hpriv : s.me.privileged = true ∨ sysReadPriv reg = false := by
      cases hread : sysReadPriv reg with
      | true => exact .inl (hp (priv_of_reg.1.mpr hread))
      | false => exact .inr rfl
    have known (n : Nat) (hcount : sysCount j reg = some n) (hidx : idx < n) (hn : n ≤ 256) (hread : sysRead s j reg idx = v) :=
      mfs_completes m h hj hd hsel hpriv hcount hidx hn hread
    rcases hrow with ⟨rfl, hrow⟩ | ⟨rfl, hidx, rfl⟩ | ⟨rfl, hidx, rfl⟩ | ⟨rfl, hidx, rfl⟩ | ⟨rfl, hidx, howner, rfl⟩ | ⟨rfl, hidx, rfl⟩
    · rcases hrow with ⟨rfl, rfl⟩ | ⟨rfl, rfl⟩ | ⟨rfl, rfl⟩ | ⟨rfl, rfl⟩ | ⟨rfl, rfl⟩ | ⟨rfl, rfl⟩ | ⟨rfl, hcopy, rfl⟩ | ⟨rfl, hcopy, rfl⟩
        | ⟨rfl, rfl⟩ | ⟨rfl, rfl⟩
      case inr.inr.inr.inr.inr.inr.inl | inr.inr.inr.inr.inr.inr.inr.inl =>
        refine known 1 rfl (by decide) (by decide) ?_
        simp only [sysRead, if_neg (by omega : ¬ s.clk < j.copyClk + 1024), choose_nil]
      all_goals exact known 1 rfl (by decide) (by decide) rfl
    · exact known 4 rfl hidx (by decide) rfl
    · exact known 4 rfl hidx (by decide) rfl
    · exact known j.tbanks rfl hidx (tbanks_le j) rfl
    · refine known 64 rfl hidx (by decide) ?_
      simp only [sysRead, counterValue_eq s _ _ hidx, if_pos howner]
    · exact known 32 rfl hidx (by decide) rfl
  · intro v
    have known (hpriv : s.me.privileged = true ∨ sysWritePriv reg = false) (n : Nat) (hcount : sysCount j reg = some n) (hidx : idx < n)
        (hn : n ≤ 256) (hwrite : sysWritable reg = true) (hv : sysValueOk j reg v = true) :
        Completes (.sysMts a b m) m s (sysWrite s j reg idx v) .next :=
      mts_completes m h hj hb hsel hpriv hcount hidx hn hwrite hv
    have hleaves (hr : reg ∉ [0, 1, 9]) : (sysWrite s j reg idx v).me = s.me := me_sysWrite idx v hr
    refine ⟨fun hr => ?_, ?_, ?_, ?_, ?_, fun hpriv => ⟨?_, ?_, ?_, ?_, ?_⟩⟩
    · have hbad : sysWritable reg = false ∧ sysWritePriv reg = false := by
        clear known hleaves hsel hreg hvalue
        revert reg
        decide
      exact mts_traps m h hj hb hsel (.inr hbad.2) (.inl hbad.1)
    · rintro rfl rfl hv
      exact known (.inr rfl) 1 rfl (by decide) (by decide) rfl (decide_eq_true hv)
    · rintro rfl rfl hv
      exact mts_traps m h hj hb hsel (.inr rfl) (.inr (decide_eq_false (Nat.not_lt.mpr hv)))
    · rintro rfl rfl hv
      exact known (.inr rfl) 1 rfl (by decide) (by decide) rfl hv
    · rintro rfl hidx hv
      refine ⟨_, known (.inr rfl) j.tbanks rfl hidx (tbanks_le j) rfl ?_, hleaves (by decide), Map.getD_set_self _ _ _ _⟩
      rcases hv with hv | hv <;> simp [sysValueOk, hv]
    · rintro rfl rfl hv
      exact known (.inl hpriv) 1 rfl (by decide) (by decide) rfl (decide_eq_true hv)
    · rintro rfl hidx hv
      exact ⟨_, _, known (.inl hpriv) 32 rfl hidx (by decide) rfl hv, hleaves (by decide), Map.get?_set_self _ _ _, rfl⟩
    · rintro rfl rfl hv hfields
      refine ⟨_, known (.inl hpriv) 1 rfl (by decide) (by decide) rfl ?_, hleaves (by decide), congrArg Tile.vshare (tile_updTile_self _ _ _)⟩
      have hall : (nibbles v.toNat).all (fun x => x != 0) = true := nibbles_all (fun i hi => by simpa using hfields i hi)
      simp only [sysValueOk, decide_eq_true hv, hall, Bool.true_and]
    · rintro rfl hidx hv howner
      refine ⟨_, known (.inl hpriv) 64 rfl hidx (by decide) rfl (decide_eq_true hv), hleaves (by decide), ?_⟩
      simp only [sysWrite, if_pos howner, counter_setCounter_self s _ _ hidx]
    · rintro rfl hidx hv hfields
      refine ⟨_, known (.inl hpriv) 4 rfl hidx (by decide) rfl ?_, hleaves (by decide), congrArg Core.slottab (core_updCore_self _ _ _)⟩
      have hall : (nibbles v.toNat).all (fun x => decide (x < 4) || x == 8) = true := nibbles_all (fun i hi => by simpa using hfields i hi)
      simp only [sysValueOk, decide_eq_true hv, hall, Bool.true_and]

/-! ## `sys.halt`, `sys.sysnote` and `spref` (R205, R353, R354) -/

/-- A page hint changes nothing but entries in global memory and what the SQEs have been handed. -/
def HintOnly (s t : State) : Prop :=
  ∃ (h : Memory) (w : List WRec) (n : Nat) (q : Map (List Service)), t = { s with hbm := h, writes := w, serial := n, sqes := q }

theorem HintOnly.refl (s : State) : HintOnly s s := ⟨s.hbm, s.writes, s.serial, s.sqes, rfl⟩

theorem HintOnly.trans {s t u : State} (h : HintOnly s t) (k : HintOnly t u) : HintOnly s u := by
  obtain ⟨_, _, _, _, rfl⟩ := h
  obtain ⟨h, w, n, q, rfl⟩ := k
  exact ⟨h, w, n, q, rfl⟩

theorem hintOnly_writePte (s : State) (addr e : Nat) : HintOnly s (s.writePte addr e) := ⟨_, _, _, s.sqes, rfl⟩

theorem hintOnly_handOver (s : State) (pteAddr locator bits : Nat) : HintOnly s (s.handOver pteAddr locator bits) := by
  unfold State.handOver
  dsimp only
  split
  · exact .refl s
  · exact ⟨s.hbm, s.writes, s.serial, _, rfl⟩

theorem hintOnly_hintPage (s : State) (root va : Nat) (keep : Bool) : HintOnly s (hintPage s root va keep) := by
  unfold hintPage
  split
  · exact hintOnly_handOver s _ _ _
  · split
    · exact hintOnly_writePte s _ _
    · exact .refl s
  · exact .refl s
  · exact .refl s

theorem hintOnly_hintRange (root : Nat) (keep : Bool) (n : Nat) :
    ∀ (s : State) (va len : Nat), HintOnly s (hintRange s root va len keep n) := by
  induction n with
  | zero => exact fun s _ _ => .refl s
  | succ n ih =>
    intro s va len
    rw [hintRange]
    split
    · exact .refl s
    · exact (hintOnly_hintPage s root va keep).trans (ih _ _ _)

/-- The newest entry of a buffer of a size stands in it, whatever it gives up. -/
theorem getLast?_kept {α : Type} (l : List α) (e : α) (n : Nat) :
    ((l ++ [e]).drop ((l ++ [e]).length - n)).length ≤ n
      ∧ (n = 0 ∨ ((l ++ [e]).drop ((l ++ [e]).length - n)).getLast? = some e) := by
  constructor
  · rw [List.length_drop]
    omega
  · rcases Nat.eq_zero_or_pos n with hn | hn
    · exact .inl hn
    · have hkeep : (l ++ [e]).length - n ≤ l.length := by simp only [List.length_append, List.length_singleton]; omega
      rw [List.drop_append_of_le_length hkeep]
      exact .inr List.getLast?_concat

/-- The entry that `sys.sysnote` makes of two values. -/
def noteOf (s : State) (x y : Word) : Note := ⟨x, y, s.me.job, s.me.vcore, s.me.pc, (value s 2 .clk).toNat⟩

/-- The trace buffer once that entry has joined it. -/
def noted (s : State) (x y : Word) : List Note := (s.trace ++ [noteOf s x y]).drop ((s.trace ++ [noteOf s x y]).length - Config.traceSize)

/-- Settles O35: `sys.halt`, `sys.sysnote` and `spref`. -/
theorem systemControl : Obligations.SystemControl := by
  unfold Obligations.SystemControl
  intro s m a b j h hj
  refine ⟨fun hp => ?_, fun hp ha => ?_, fun ha hb => ?_, fun ha hb hzero => ?_⟩
  · exact traps_issue32 (exec_sysHalt a m s) h (by rw [need_false _ hp]; rfl)
  · refine ⟨s.haltWith _, completes_issue32 (exec_sysHalt a m s) h ?_, me_congr rfl rfl, rfl, rfl⟩
    simp only [need_true _ hp, srcs_sound (l := [a]) (by simpa using ha), rd_clean ha.2]
    rfl
  · have hsrc : srcs [a, b] = .ok () := srcs_sound (s := s) (by simp [ha, hb])
    obtain ⟨hlen, hlast⟩ := getLast?_kept s.trace (noteOf s (value s 0 a) (value s 1 b)) Config.traceSize
    refine ⟨{ s with trace := noted s (value s 0 a) (value s 1 b) }, completes_issue32 (exec_sysSysnote a b m s) h ?_, me_congr rfl rfl, hlen, hlast.imp_right fun hl => ⟨_, hl, rfl, rfl, rfl, rfl, rfl⟩⟩
    simp only [hsrc, rd_clean ha.2, rd_clean hb.2]
    rfl
  · have hsrc : srcs [a, b] = .ok () := srcs_sound (s := s) (by simp [ha, hb])
    have hlimits : limits (fieldOf (value s 1 b).toNat 32 31 == 0) = .ok () := limits_true (by simp [hzero])
    by_cases hdrop : Config.pick s.free 70 % 2 = 1
    · refine ⟨s, completes_issue32 (exec_spref a b m s) h ?_, rfl, rfl, rfl, rfl, rfl, fun _ => rfl⟩
      simp only [hsrc, rd_clean ha.2, rd_clean hb.2, theJob_of_myJob hj]
      show (do limits _; _) = _
      rw [hlimits]
      simp only [if_pos hdrop]
      rfl
    · obtain ⟨mem, w, n, q, hhint⟩ := hintOnly_hintRange j.ptroot ((value s 1 b).toNat.testBit 63) ((value s 1 b).toNat % 2 ^ 32 / 65536 + 2) s
        (value s 0 a).toNat ((value s 1 b).toNat % 2 ^ 32)
      refine ⟨_, completes_issue32 (t := hintRange s j.ptroot (value s 0 a).toNat ((value s 1 b).toNat % 2 ^ 32) ((value s 1 b).toNat.testBit 63)
        ((value s 1 b).toNat % 2 ^ 32 / 65536 + 2)) (exec_spref a b m s) h ?_, ?_, ?_⟩
      · simp only [hsrc, rd_clean ha.2, rd_clean hb.2, theJob_of_myJob hj]
        show (do limits _; _) = _
        rw [hlimits]
        simp only [if_neg hdrop]
        rfl
      · rw [hhint]; exact me_congr rfl rfl
      · refine ⟨by rw [hhint], by rw [hhint], by rw [hhint], by rw [hhint], fun hlen => ?_⟩
        rw [hintRange, if_pos hlen]

end Sys2Proof.Laws
end

section
/-! What a trap does (R332 to R346). -/

namespace Sys2Proof.Laws
open Sys2Proof.Machine Sys2Proof.Safety

/-! ## What the end of tasks leaves: no context comes to be or lives on in another form, and no packet is lost -/

theorem get?_del_of_ne {α : Type} (m : Map α) {k n : Nat} (h : n ≠ k) : (m.del k).get? n = m.get? n := by
  induction m with
  | nil => rfl
  | cons e t ih =>
    obtain ⟨a, v⟩ := e
    unfold Map.del at *
    by_cases hak : a = k
    · have hne : (a != k) = false := by simp [hak]
      have han : a ≠ n := fun hn => h (hn.symm.trans hak)
      simp only [List.filter_cons, hne, Bool.false_eq_true, if_false, Map.get?, if_neg han, ih]
    · have hne : (a != k) = true := by simp [hak]
      simp only [List.filter_cons, hne, if_true, Map.get?, ih]

/-- Every context of `t` is one of `s`, as it was or dying, and every packet of `s` is still on its way. -/
structure Fades (s t : State) : Prop where
  ctxs : ∀ k c, t.ctxs.get? k = some c → s.ctxs.get? k = some c ∨ (c.dying = true ∧ s.ctxs.get? k ≠ none)
  packets : ∀ p ∈ s.packets, p ∈ t.packets

theorem Fades.of_same {s t : State} (hctxs : t.ctxs = s.ctxs) (hpackets : t.packets = s.packets) : Fades s t :=
  ⟨fun k c h => .inl (hctxs ▸ h), fun p h => hpackets ▸ h⟩

theorem Fades.refl (s : State) : Fades s s := .of_same rfl rfl

theorem Fades.trans {s t u : State} (h : Fades s t) (g : Fades t u) : Fades s u := by
  refine ⟨fun k c hc => ?_, fun p hp => g.packets p (h.packets p hp)⟩
  rcases g.ctxs k c hc with hc | ⟨hdying, hsome⟩
  · exact h.ctxs k c hc
  · obtain ⟨d, hd⟩ := Option.ne_none_iff_exists'.mp hsome
    exact .inr ⟨hdying, by rcases h.ctxs k d hd with hd | ⟨_, hs⟩ <;> simp [*]⟩

theorem Fades.foldl {α : Type} {f : State → α → State} (hf : ∀ s a, Fades s (f s a)) (l : List α) : ∀ s, Fades s (l.foldl f s) := by
  induction l with
  | nil => exact .refl
  | cons a l ih => exact fun s => (hf s a).trans (ih _)

/-- A context that is gone stays gone. -/
theorem Fades.none {s t : State} (h : Fades s t) {k : Nat} (hk : s.ctxs.get? k = none) : t.ctxs.get? k = none := by
  by_contra hne
  obtain ⟨c, hc⟩ := Option.ne_none_iff_exists'.mp hne
  rcases h.ctxs k c hc with hc | ⟨_, hs⟩
  · simp [hk] at hc
  · exact hs hk

/-- A context that lives on is as it was. -/
theorem Fades.live {s t : State} (h : Fades s t) {k : Nat} {c : Ctx} (hc : t.ctxs.get? k = some c) (hlive : c.dying = false) :
    s.ctxs.get? k = some c := by
  rcases h.ctxs k c hc with hs | ⟨hdying, _⟩
  · exact hs
  · simp [hlive] at hdying

theorem fades_post (s : State) (cls : Machine.Class) (src dst : Endpoint) (job flits queue : Nat) (waits : List Nat) (b : Body) :
    Fades s (s.post cls src dst job flits queue waits b) :=
  ⟨fun _ _ h => .inl h, fun _ h => List.mem_append_left _ h⟩

theorem fades_pod (s : State) (src : Endpoint) (job v : Nat) (lost killed : Bool) : Fades s (s.pod src job v lost killed) := by
  unfold State.pod
  split
  · exact .refl s
  · split
    · split
      · split
        · exact .of_same rfl rfl
        · exact fades_post ..
      · exact fades_post ..
    · exact .refl s

theorem fades_updJob (s : State) (n : Nat) (f : Job → Job) : Fades s (s.updJob n f) := .of_same (State.updJob_ctxs ..) (State.updJob_packets ..)

theorem fades_setJob (s : State) (n : Nat) (j : Job) : Fades s (s.setJob n j) := .of_same rfl rfl

theorem fades_updCore (s : State) (n : Nat) (f : Core → Core) : Fades s (s.updCore n f) := .of_same rfl rfl

theorem fades_updTile (s : State) (n : Nat) (f : Tile → Tile) : Fades s (s.updTile n f) := .of_same rfl rfl

theorem fades_sendOut (s : State) (o : OutMsg) (dst : Endpoint) : Fades s (s.sendOut o dst) :=
  ⟨fun _ _ h => .inl h, fun _ h => List.mem_append_left _ h⟩

/-- The end of a task takes its context away, or leaves it dying. -/
theorem fades_endTask (s : State) (key : Nat) : Fades s (s.endTask key) := by
  cases hc : s.ctxs.get? key with
  | none => simp only [State.endTask, hc]; exact .refl s
  | some c =>
    simp only [State.endTask, hc]
    split
    · refine ⟨fun k d hd => ?_, fun _ h => h⟩
      by_cases hk : k = key
      · subst hk
        cases (Map.get?_set_self _ _ _).symm.trans hd
        exact .inr ⟨rfl, by simp [hc]⟩
      · exact .inl ((Map.get?_set_of_ne _ _ _ _ hk).symm.trans hd)
    · refine ⟨fun k d hd => .inl ?_, fun _ h => h⟩
      by_cases hk : k = key
      · subst hk
        exact absurd ((get?_del _ _).symm.trans hd) (by simp)
      · exact (get?_del_of_ne _ hk).symm.trans hd

theorem fades_sweepDiscards (s : State) (job : Nat) : Fades s (s.sweepDiscards job) := by
  unfold State.sweepDiscards
  split
  · exact .refl s
  · split <;> exact .of_same rfl rfl

theorem fades_killTasks (job : Nat) (j : Job) (d : Nat × Nat) (l : List (Nat × Ctx)) : ∀ s, Fades s (killTasks job j d s l) := by
  induction l with
  | nil => exact .refl
  | cons e l ih =>
    intro s
    rw [killTasks]
    split
    · exact ((fades_endTask s _).trans (fades_pod ..)).trans (ih _)
    · exact ih s

theorem fades_dropWaiting (job : Nat) (j : Job) (d : Nat × Nat) (l : List (Nat × Core)) : ∀ s, Fades s (dropWaiting job j d s l) := by
  induction l with
  | nil => exact .refl
  | cons e l ih =>
    intro s
    rw [dropWaiting]
    refine Fades.trans ?_ (ih _)
    split
    · exact .refl s
    · exact (fades_updCore ..).trans (fades_pod ..)

theorem fades_discardUnit (s : State) (job : Nat) (d : Nat × Nat) : Fades s (s.discardUnit job d) := by
  unfold State.discardUnit
  split
  · exact .refl s
  · exact (((fades_setJob ..).trans (fades_killTasks ..)).trans (fades_dropWaiting ..)).trans (fades_sweepDiscards ..)

theorem fades_freeEntries (job : Nat) (s : State) (t : Nat) : Fades s (freeEntries job s t) := by
  unfold freeEntries
  dsimp only
  split
  · exact .refl s
  · exact (fades_updTile ..).trans (fades_pod ..)

theorem fades_staleWaiters (job : Nat) (l : List (Nat × Future)) : ∀ s, Fades s (staleWaiters job s l) := by
  induction l with
  | nil => exact .refl
  | cons e l ih =>
    intro s
    rw [staleWaiters]
    refine Fades.trans (Fades.trans ?_ (Fades.foldl (fun t r => ?_) _ _)) (ih _)
    · split <;> exact .of_same rfl rfl
    · split
      · exact (fades_pod ..).trans (.of_same rfl rfl)
      · exact .refl t

theorem fades_killJob (s : State) (job : Nat) : Fades s (s.killJob job) := by
  unfold State.killJob
  split
  · exact .refl s
  · exact (((fades_discardUnit ..).trans (Fades.foldl (fades_freeEntries job) _ _)).trans (fades_staleWaiters ..)).trans (fades_updJob ..)

theorem fades_contain (job vcore l : Nat) : ∀ s : State, Fades s (s.contain job vcore l) := by
  induction l with
  | zero => exact fun s => fades_killJob s job
  | succ l ih =>
    intro s
    rw [State.contain]
    split
    · exact .refl s
    · split
      · split
        · exact .refl s
        · split
          · split
            · exact (fades_setJob ..).trans (fades_discardUnit ..)
            · exact ih s
          · split
            · exact fades_discardUnit ..
            · exact ih s
      · exact ih s

theorem fades_containment (s : State) (job vcore : Nat) : Fades s (s.containment job vcore) := by
  unfold State.containment
  split
  · exact .refl s
  · split
    · exact .refl s
    · exact fades_contain ..

theorem fades_killTrap (s : State) (job vcore u : Nat) (src : Endpoint) : Fades s (s.killTrap job vcore u src) :=
  (fades_pod ..).trans (fades_containment ..)

theorem fades_sendOrDraw (s : State) (job : Nat) (m : Msg) (u : Nat) : Fades s (s.sendOrDraw job m u) := by
  unfold State.sendOrDraw
  split
  · exact .refl s
  · split
    · exact fades_updJob ..
    · exact fades_sendOut ..

theorem fades_writeBytes (s : State) (sp : Space) (a : Nat) (bs : List Byte) (path : Path) (task acc : Nat) (rel : Option Rel) :
    Fades s (s.writeBytes sp a bs path task acc rel) := by cases sp <;> exact .of_same rfl rfl

theorem fades_ownWrite (s : State) (pt va : Nat) (path : Path) (rel : Option Rel) (bs : List Byte) : Fades s (s.ownWrite pt va path rel bs) := by
  unfold State.ownWrite
  split
  · split
    · split
      · refine Fades.trans ?_ (fades_writeBytes ..)
        unfold State.markDirty
        split
        · exact .refl s
        · exact fades_writeBytes ..
      · exact .refl s
    · exact .refl s
  · exact .refl s

theorem fades_writeVirt (pt : Nat) (path : Path) (l : List Word) : ∀ (s : State) (va : Nat), Fades s (s.writeVirt pt va path l) := by
  induction l with
  | nil => exact fun s _ => .refl s
  | cons w l ih => exact fun s va => (fades_ownWrite ..).trans (ih _ _)

theorem fades_parkRecord (s : State) (job : Nat) (j : Job) (e : Word) (vcore u : Nat) (r : Report) (know : Know) :
    Fades s (s.parkRecord job j e vcore u r know) := by
  unfold State.parkRecord
  refine Fades.trans (Fades.trans ?_ (fades_updJob ..)) (fades_sendOrDraw ..)
  split
  · exact .refl s
  · exact fades_writeVirt ..

/-- What a trap comes to once its task has ended takes no context that is there and makes none. -/
theorem fades_takeTrap (s : State) (key : Nat) (x : Trap) (seg : Nat × Nat) : Fades (s.endTask key) (s.takeTrap key x seg) := by
  unfold State.takeTrap
  split
  next h => simp only [State.endTask, h]; exact .refl s
  next c h =>
    dsimp only
    split
    · exact .refl _
    · split
      · exact (fades_pod ..).trans (fades_sweepDiscards ..)
      · split
        · split
          · split
            · exact fades_updJob ..
            · exact fades_sendOut ..
          · exact fades_killTrap ..
        · exact fades_parkRecord ..
        · exact fades_sendOrDraw ..
        · exact fades_killTrap ..

/-- After a trap its context is gone or dying. -/
theorem dying_of_takeTrap {s : State} {key : Nat} {x : Trap} {seg : Nat × Nat} {c : Ctx} (hc : (s.takeTrap key x seg).ctxs.get? key = some c) :
    c.dying = true := by
  rcases (fades_takeTrap s key x seg).ctxs key c hc with h | h
  · unfold State.endTask at h
    split at h
    next hnone => simp [hnone] at h
    next d hd =>
      dsimp only at h
      split at h
      · cases (Map.get?_set_self _ _ _).symm.trans h
        rfl
      · exact absurd ((get?_del _ _).symm.trans h) (by simp)
  · exact h.1

/-! ## Hardware messages (R340, R341) -/

theorem lt_of_fieldOf (x lo n : Nat) : fieldOf x lo n < 2 ^ n := Nat.mod_lt _ (Nat.two_pow_pos n)

/-- The fields of a header of mode 0 to which a weight is given. -/
theorem hasHeader_mkHdr {v cls prio len kind : Nat} (hcls : cls < 256) (hprio : prio < 4) (hlen : len < 16) (hkind : kind < 4) (w u : Nat) :
    Stated.HasHeader (hdrSetWeight (mkHdr v 0 cls prio len kind w) u) v cls prio len kind u := by
  simp only [Stated.HasHeader, hdrSetWeight, mkHdr, fieldOf, BitVec.toNat_ofNat]
  omega

/-- A message of hardware that carries units leaves from the home of its job. -/
theorem sendOrDraw_sends {s : State} {job : Nat} {j : Job} (m : Msg) {u : Nat} (hj : s.job? job = some j) (hu : u ≠ 0) :
    s.sendOrDraw job m u = s.sendMsg { m with hdr := hdrSetWeight m.hdr u } (.unit j.die) (.ni (msgTile j m)) 0 := by
  simp only [State.sendOrDraw, hj, if_neg hu]

/-- A message of hardware as it stands among the messages on their way. -/
def sentMsg (s : State) (m : Msg) (src : Endpoint) : OutMsg :=
  ⟨s.serial, m, src, 0, .flying, 0, 0, 0, none, [], 0, 0, 0, 0, 0, hdrVcore m.hdr, []⟩

theorem outs_sendMsg (s : State) (m : Msg) (src dst : Endpoint) : (s.sendMsg m src dst 0).outs = s.outs ++ [sentMsg s m src] := rfl

theorem posts_sendMsg (s : State) (m : Msg) (src dst : Endpoint) : Stated.Posts (s.sendMsg m src dst 0) src dst (.message s.serial) :=
  ⟨_, List.getLast?_concat, rfl, rfl, rfl, rfl⟩

/-- A pod with weight goes home where no census is counted. -/
theorem pod_posts {s : State} {src : Endpoint} {job v : Nat} {j : Job} (lost killed : Bool) (hj : s.job? job = some j) (hcensus : j.census = none)
    (hv : v ≠ 0) : s.pod src job v lost killed = s.post .weight src (.unit j.die) job 1 0 [] (.pod job v lost killed) := by
  simp only [State.pod, if_neg hv, hj, hcensus]

/-- A packet that takes killed weight home. -/
def KilledPod (s t : State) (src : Endpoint) (job v : Nat) (j : Job) : Prop :=
  ∃ p ∈ t.packets, p.id = s.serial ∧ p.src = src ∧ p.dst = .unit j.die ∧ p.body = .pod job v false true

theorem killedPod_pod {s : State} {src : Endpoint} {job v : Nat} {j : Job} (hj : s.job? job = some j) (hcensus : j.census = none) (hv : v ≠ 0) :
    KilledPod s (s.pod src job v false true) src job v j := by
  rw [pod_posts false true hj hcensus hv]
  exact ⟨_, List.mem_append_right _ (List.mem_singleton_self _), rfl, rfl, rfl, rfl⟩

theorem killedPod_killTrap {s : State} {src : Endpoint} {job v : Nat} {j : Job} (vcore : Nat) (hj : s.job? job = some j) (hcensus : j.census = none)
    (hv : v ≠ 0) : KilledPod s (s.killTrap job vcore v src) src job v j := by
  obtain ⟨p, hp, hfacts⟩ := killedPod_pod (src := src) hj hcensus hv
  exact ⟨p, (fades_containment _ job vcore).packets p hp, hfacts⟩

/-! ## The fault record (R333) -/

theorem code_lt (c : Cause) : c.code < 32 := by cases c <;> decide

theorem cause_of_faultWord0 (x : Trap) (vcore narg : Nat) (trunc prec : Bool) :
    fieldOf (faultWord0 x vcore narg trunc prec).toNat 0 5 = x.cause.code := by
  have hcode := code_lt x.cause
  simp only [faultWord0, fieldOf, BitVec.toNat_ofNat]
  omega

theorem isRecord_words {x : Trap} {c : Ctx} {seg : Nat × Nat} {narg : Nat} (trunc : Bool) (hvcore : c.vcore < 2 ^ 14) (horigin : x.origin < 8)
    (hsub : x.sub < 256) (hseg : seg.1 < 2 ^ 32) (hnarg : narg < 16) :
    Stated.IsRecord (faultWord0 x c.vcore narg trunc c.precise) (faultWord1 seg.1 seg.2) x.arg x c seg narg trunc := by
  have hcode := code_lt x.cause
  have ht : trunc.toNat < 2 := Bool.toNat_lt trunc
  have hp : c.precise.toNat < 2 := Bool.toNat_lt c.precise
  have hbit (b : Bool) : decide (b.toNat = 1) = b := by cases b <;> rfl
  have h0 : (faultWord0 x c.vcore narg trunc c.precise).toNat = x.cause.code + 32 * x.origin + 256 * x.sub + 65536 * c.vcore
      + 1073741824 * trunc.toNat + 2147483648 * c.precise.toNat + 4294967296 * narg := by
    rw [faultWord0, BitVec.toNat_ofNat, Nat.mod_eq_of_lt (by omega)]
  have h1 : (faultWord1 seg.1 seg.2).toNat = seg.1 + 4294967296 * min seg.2 65535 := by
    rw [faultWord1, BitVec.toNat_ofNat, Nat.mod_eq_of_lt (by omega)]
  refine ⟨?_, ?_, ?_, ?_, ?_, ?_, ?_, ?_, ?_, ?_, ?_, rfl⟩
  case refine_5 => rw [h0, Nat.testBit_eq_decide_div_mod_eq, ← hbit trunc]; congr 1; simp only [hbit, eq_iff_iff]; omega
  case refine_6 => rw [h0, Nat.testBit_eq_decide_div_mod_eq, ← hbit c.precise]; congr 1; simp only [hbit, eq_iff_iff]; omega
  all_goals simp only [fieldOf, h0, h1]; omega

/-! ## Writes of a unit of the device -/

/-- A state with other contexts and tasks. -/
def withTasks (s : State) (o : Option Nat) (ts : Map TaskRec) (cs : Map Ctx) : State := { s with limmOpen := o, tasks := ts, ctxs := cs }

section
variable (s : State) (o : Option Nat) (ts : Map TaskRec) (cs : Map Ctx)

theorem recordsOf_withTasks (sp : Space) (path : Path) (task acc : Nat) (rel : Option Rel) (bs : List Byte) :
    ∀ a, recordsOf (withTasks s o ts cs) sp path task acc rel a bs = recordsOf s sp path task acc rel a bs := by
  have hmem : (withTasks s o ts cs).mem sp = s.mem sp := by cases sp <;> rfl
  induction bs with
  | nil => exact fun _ => rfl
  | cons b bs ih => intro a; rw [recordsOf, recordsOf, ih, hmem]; rfl

theorem writeBytes_withTasks (sp : Space) (a : Nat) (bs : List Byte) (path : Path) (task acc : Nat) (rel : Option Rel) :
    (withTasks s o ts cs).writeBytes sp a bs path task acc rel = withTasks (s.writeBytes sp a bs path task acc rel) o ts cs := by
  simp only [State.writeBytes, recordsOf_withTasks]
  cases sp <;> rfl

theorem ownWrite_withTasks (pt va : Nat) (path : Path) (rel : Option Rel) (bs : List Byte) :
    (withTasks s o ts cs).ownWrite pt va path rel bs = withTasks (s.ownWrite pt va path rel bs) o ts cs := by
  have hlookup : (withTasks s o ts cs).lookup pt va = s.lookup pt va := rfl
  simp only [State.ownWrite, hlookup]
  split
  · split
    · split
      · simp only [State.markDirty]
        split <;> simp only [writeBytes_withTasks]
      · rfl
    · rfl
  · rfl

theorem writeVirt_withTasks (pt : Nat) (path : Path) (l : List Word) : ∀ (s : State) (va : Nat),
    (withTasks s o ts cs).writeVirt pt va path l = withTasks (s.writeVirt pt va path l) o ts cs := by
  induction l with
  | nil => exact fun _ _ => rfl
  | cons w l ih => intro s va; rw [State.writeVirt, State.writeVirt, ownWrite_withTasks, ih]
end

/-- Such writes leave the jobs and the messages on their way. -/
theorem writeBytes_keeps (s : State) (sp : Space) (a : Nat) (bs : List Byte) (path : Path) (task acc : Nat) (rel : Option Rel) :
    (s.writeBytes sp a bs path task acc rel).jobs = s.jobs ∧ (s.writeBytes sp a bs path task acc rel).outs = s.outs := by
  cases sp <;> exact ⟨rfl, rfl⟩

theorem ownWrite_keeps (s : State) (pt va : Nat) (path : Path) (rel : Option Rel) (bs : List Byte) :
    (s.ownWrite pt va path rel bs).jobs = s.jobs ∧ (s.ownWrite pt va path rel bs).outs = s.outs := by
  unfold State.ownWrite
  split
  · split
    · split
      · simp only [State.markDirty]
        split <;> simp only [writeBytes_keeps, and_self]
      · exact ⟨rfl, rfl⟩
    · exact ⟨rfl, rfl⟩
  · exact ⟨rfl, rfl⟩

theorem writeVirt_keeps (pt : Nat) (path : Path) (l : List Word) : ∀ (s : State) (va : Nat),
    (s.writeVirt pt va path l).jobs = s.jobs ∧ (s.writeVirt pt va path l).outs = s.outs := by
  induction l with
  | nil => exact fun _ _ => ⟨rfl, rfl⟩
  | cons w l ih => intro s va; rw [State.writeVirt, (ih _ _).1, (ih _ _).2]; exact ownWrite_keeps ..

/-- The parking queue once a record has been written to it (R340). -/
def recorded (s : State) (j : Job) (r : Report) : State :=
  if j.pqN = 0 then s
  else s.writeVirt j.ptroot (j.pqBase + 160 * (j.pqCount % j.pqN)) .near
    ([r.w0, r.w1, r.w2, r.hdr] ++ padWords r.args 15 ++ [BitVec.ofNat 64 j.pqCount])

theorem recorded_withTasks (s : State) (o : Option Nat) (ts : Map TaskRec) (cs : Map Ctx) (j : Job) (r : Report) :
    recorded (withTasks s o ts cs) j r = withTasks (recorded s j r) o ts cs := by
  unfold recorded
  split
  · rfl
  · exact writeVirt_withTasks ..

theorem recorded_keeps (s : State) (j : Job) (r : Report) : (recorded s j r).jobs = s.jobs ∧ (recorded s j r).outs = s.outs := by
  unfold recorded
  split
  · exact ⟨rfl, rfl⟩
  · exact writeVirt_keeps ..

/-- A record with units is written, counted and told of. -/
theorem parkRecord_sends {s : State} {job : Nat} {j : Job} (e : Word) (vcore : Nat) {u : Nat} (r : Report) (know : Know) (hj : s.job? job = some j)
    (hu : u ≠ 0) : ∃ (m : Msg) (dst : Endpoint), s.parkRecord job j e vcore u r know
        = ((recorded s j r).setJob job { j with pqCount := j.pqCount + 1 }).sendMsg m (.unit j.die) dst 0
      ∧ m.hdr = hdrSetWeight (mkHdr (actTarget e vcore) 0 (actClass e) 3 4 3 u) u
      ∧ m.args = [r.w0, r.w1, r.w2, if j.pqN = 0 then 0 else BitVec.ofNat 64 (j.pqBase + 160 * (j.pqCount % j.pqN))] := by
  have hj1 : (recorded s j r).job? job = some j := by rw [State.job?, (recorded_keeps s j r).1]; exact hj
  have hupd : (recorded s j r).updJob job (fun x => { x with pqCount := j.pqCount + 1 })
      = (recorded s j r).setJob job { j with pqCount := j.pqCount + 1 } := by simp only [State.updJob, hj1]
  have hset : ((recorded s j r).setJob job { j with pqCount := j.pqCount + 1 }).job? job = some { j with pqCount := j.pqCount + 1 } :=
    Map.get?_set_self _ _ _
  have hpark : s.parkRecord job j e vcore u r know = ((recorded s j r).setJob job { j with pqCount := j.pqCount + 1 }).sendOrDraw job
      (hwMsg job (mkHdr (actTarget e vcore) 0 (actClass e) 3 4 3 u)
        [r.w0, r.w1, r.w2, if j.pqN = 0 then 0 else BitVec.ofNat 64 (j.pqBase + 160 * (j.pqCount % j.pqN))]
        (((recorded s j r).setJob job { j with pqCount := j.pqCount + 1 }).madeSince s.serial ++ know)) u := by
    rw [← hupd]
    rfl
  rw [hpark, sendOrDraw_sends _ hset hu]
  exact ⟨_, _, rfl, rfl, rfl⟩

/-! ## Raises and traps -/

/-- The end of a task of which nothing is outstanding. -/
theorem endTask_idle {s : State} {key : Nat} {c : Ctx} (hc : s.ctxs.get? key = some c) (houts : c.outs = []) :
    s.endTask key = withTasks s (if s.limmOpen = some key then none else s.limmOpen) (s.dropTask c.task) (s.ctxs.del key) := by
  simp only [State.endTask, hc, Ctx.busy, houts]
  rfl

section
variable {s : State} {key : Nat} {c : Ctx} {j : Job} (hc : s.ctxs.get? key = some c) (hj : (s.endTask key).job? c.job = some j)
  (hdisc : j.discarding = []) (x : Trap) (seg : Nat × Nat)
include hc hj hdisc

/-- A trap whose entry kills, or replays what cannot be replayed. -/
theorem takeTrap_kills (h : actAct (taskEntry s j c x) = 0 ∨ (actAct (taskEntry s j c x) = 1 ∧ (c.replayable = false ∨ 15 ≤ c.replays))) :
    s.takeTrap key x seg = (s.endTask key).killTrap c.job c.vcore c.wt (.ni (tileOf (coreOf key))) := by
  simp only [State.takeTrap, hc, hj, hdisc, List.any_nil, Bool.false_eq_true, if_false]
  rcases h with h | ⟨h, hno⟩
  · rw [h]
    rfl
  · have hreplay : (c.replayable && decide (c.replays < 15)) = false := by rcases hno with hno | hno <;> simp [hno]
    rw [h]
    simp only [hreplay, Bool.false_eq_true, if_false]

/-- One whose entry replays. -/
theorem takeTrap_replays (h : actAct (taskEntry s j c x) = 1) (hreplay : c.replayable = true) (hcount : c.replays < 15) :
    s.takeTrap key x seg = if c.wt = 0 then (s.endTask key).ownDraw c.job (replayMsg c) 1
      else (s.endTask key).sendMsg { replayMsg c with hdr := hdrSetWeight (replayMsg c).hdr c.wt } (.ni (tileOf (coreOf key)))
        (.ni (tileOf (coreOf key))) 0 := by
  have hok : (c.replayable && decide (c.replays < 15)) = true := by simp [hreplay, hcount]
  simp only [State.takeTrap, hc, hj, hdisc, List.any_nil, Bool.false_eq_true, if_false, h, hok, if_true]

/-- The record that a trap makes of its task. -/
def reportOf (c : Ctx) (x : Trap) (seg : Nat × Nat) (trunc : Bool) : Report :=
  ⟨faultWord0 x c.vcore (hdrLen c.msg) trunc c.precise, faultWord1 seg.1 seg.2, x.arg, c.msg, c.m.toList.take (hdrLen c.msg)⟩

/-- One whose entry parks. -/
theorem takeTrap_parks (h : actAct (taskEntry s j c x) = 2) :
    s.takeTrap key x seg = (s.endTask key).parkRecord c.job j (taskEntry s j c x) c.vcore c.wt (reportOf c x seg false) [] := by
  simp only [State.takeTrap, hc, hj, hdisc, List.any_nil, Bool.false_eq_true, if_false, h]
  rfl

/-- One whose entry forwards. -/
theorem takeTrap_forwards (h : actAct (taskEntry s j c x) = 3) :
    s.takeTrap key x seg
      = (s.endTask key).forwardTrap c.job (taskEntry s j c x) c.vcore c.wt (reportOf c x seg (decide (11 < hdrLen c.msg))) [] := by
  simp only [State.takeTrap, hc, hj, hdisc, List.any_nil, Bool.false_eq_true, if_false, h]
  rfl
end

/-- The header of a replayed message names its core again and keeps the other fields. -/
theorem replayHdr {c : Ctx} (hvcore : c.vcore < 2 ^ 14) (u : Nat) : fieldOf (hdrSetWeight (replayMsg c).hdr u).toNat 0 14 = c.vcore
    ∧ fieldOf (hdrSetWeight (replayMsg c).hdr u).toNat 14 18 = fieldOf c.msg.toNat 14 18 ∧ hdrWeight (hdrSetWeight (replayMsg c).hdr u) = u % 2 ^ 32
    ∧ fieldOf (replayMsg c).hdr.toNat 0 14 = c.vcore := by
  have hlt := c.msg.isLt
  simp only [hdrSetWeight, hdrWeight, replayMsg, hdrSetVcore, fieldOf, BitVec.toNat_ofNat]
  omega

/-- A draw that a home with none waiting appends is its only one. -/
theorem ownDraw_alone {s : State} {job : Nat} {j : Job} (m : Msg) (units : Nat) (hj : s.job? job = some j) (hq : j.drawq = []) (hown : j.ownDraws = []) :
    (s.ownDraw job m units).job? job = some { j with drawq := [⟨m, units, 0, 0, none⟩] } := by
  have hroom : (j.drawq.length < drawLimit && j.ownDraws.isEmpty) = true := by rw [hq, hown]; decide
  have hset : s.ownDraw job m units = s.setJob job { j with drawq := [⟨m, units, 0, 0, none⟩] } := by
    simp only [State.ownDraw, State.updJob, hj, hroom, if_true]
    rw [hq]
    rfl
  rw [hset]
  exact Map.get?_set_self _ _ _

/-- Settles O43: the action entry decides what becomes of the weight. -/
theorem takingATrap : Obligations.TakingATrap := by
  unfold Obligations.TakingATrap
  constructor
  · intro s job vcore u x know src j hj hcensus hu t e killed
    have hkilled : killed ↔ KilledPod s t src job u j := Iff.rfl
    refine ⟨fun ⟨d, hd, hin⟩ => ?_, fun hdisc hact horigin => ?_, fun hdisc hact => ?_⟩
    · have hany : j.discarding.any (fun d => inDiscard j d vcore) = true := List.any_eq_true.mpr ⟨d, hd, hin⟩
      have ht : t = s.pod src job u false true := by simp only [t, State.raiseJob, hj, if_pos hany]
      rw [hkilled, ht]
      exact killedPod_pod hj hcensus hu
    · have ht : t = s.killTrap job vcore u src := by
        simp only [t, State.raiseJob, hj, hdisc, List.any_nil, Bool.false_eq_true, if_false, if_neg horigin]
        rcases (by omega : actAct e = 0 ∨ actAct e = 1) with h | h <;> rw [show actAct (j.actEntry s x.cause.code) = _ from h] <;> rfl
      rw [hkilled, ht]
      exact killedPod_killTrap vcore hj hcensus hu
    · have ht : t = s.forwardTrap job e vcore u ⟨faultWord0 x vcore 0 false false, 0, x.arg, 0, []⟩ know := by
        simp only [t, State.raiseJob, hj, hdisc, List.any_nil, Bool.false_eq_true, if_false]
        rw [show actAct (j.actEntry s x.cause.code) = 3 from hact]
        rfl
      rw [ht, State.forwardTrap, sendOrDraw_sends _ hj hu, outs_sendMsg]
      refine ⟨_, _, rfl, hasHeader_mkHdr (len := 15) (kind := 0) (lt_of_fieldOf ..) (lt_of_fieldOf ..) (by decide) (by decide) u u, rfl, cause_of_faultWord0 .., fun hknow => ?_⟩
      simp [sentMsg, hwMsg, hknow]
  · intro s key x seg c j hc hj houts hdisc hcensus hvcore horigin hsub hseg t e narg args home killed
    have hend := endTask_idle hc houts
    have hj1 : (s.endTask key).job? c.job = some j := by rw [hend]; exact hj
    have hnarg : narg < 16 := lt_of_fieldOf ..
    have hsrc : (Endpoint.ni (tileOf (coreOf key))) = .ni (key / 80) := by simp [tileOf, coreOf, Nat.div_div_eq_div_mul]
    have hkilled (ht : t = (s.endTask key).killTrap c.job c.vcore c.wt (.ni (tileOf (coreOf key)))) : killed := by
      intro hwt
      have hpod := killedPod_killTrap (src := .ni (key / 80)) c.vcore hj1 hcensus hwt
      rw [ht, hsrc]
      rwa [KilledPod, show (s.endTask key).serial = s.serial by rw [hend]; rfl] at hpod
    have houts1 : (s.endTask key).outs = s.outs := by rw [hend]; rfl
    refine ⟨(fades_takeTrap s key x seg).none (by rw [hend]; exact get?_del _ _), fun hact => ?_, fun hact hno => ?_,
      fun hact hreplay hcount => ⟨fun hwt => ?_, fun hwt hq hown => ?_⟩, fun hact hwt => ?_, fun hact hwt => ?_⟩
    · exact hkilled (takeTrap_kills hc hj1 hdisc x seg (.inl hact))
    · exact hkilled (takeTrap_kills hc hj1 hdisc x seg (.inr ⟨hact, hno⟩))
    · have ht := takeTrap_replays hc hj1 hdisc x seg hact hreplay hcount
      rw [if_neg hwt, hsrc] at ht
      obtain ⟨hv, hrest, hw, _⟩ := replayHdr hvcore c.wt
      refine ⟨_, by rw [show t = _ from ht, outs_sendMsg, houts1], rfl, rfl, rfl, hv, hrest, hw, ?_⟩
      rw [show t = _ from ht]
      exact posts_sendMsg ..
    · have ht := takeTrap_replays hc hj1 hdisc x seg hact hreplay hcount
      rw [if_pos hwt] at ht
      obtain ⟨_, _, _, hv⟩ := replayHdr hvcore c.wt
      refine ⟨_, _, by rw [show t = _ from ht]; exact ownDraw_alone _ 1 hj1 hq hown, rfl, rfl, rfl, hv, rfl⟩
    · obtain ⟨m, dst, hpark, hhdr, hargs⟩ := parkRecord_sends (taskEntry s j c x) c.vcore (reportOf c x seg false) [] hj1 hwt
      have ht := (takeTrap_parks hc hj1 hdisc x seg hact).trans hpark
      rw [hend, recorded_withTasks] at ht
      have hkeep := recorded_keeps s j (reportOf c x seg false)
      generalize hu : State.setJob (withTasks ..) .. = u at ht
      refine ⟨_, _, _, sentMsg u m _, { j with pqCount := j.pqCount + 1 }, isRecord_words _ hvcore horigin hsub hseg hnarg, ?_, ?_, ?_, rfl, ?_, ?_,
        hargs, rfl⟩
      · rw [show t = _ from ht, ← hu]; rfl
      · rw [show t = _ from ht, ← hu]; rfl
      · rw [show t = _ from ht, ← hu]; exact Map.get?_set_self _ _ _
      · rw [show t = _ from ht, outs_sendMsg, ← hu]
        exact congrArg (· ++ _) hkeep.2
      · rw [show (sentMsg u m _).msg.hdr = m.hdr from rfl, hhdr]
        exact hasHeader_mkHdr (lt_of_fieldOf ..) (by decide) (by decide) (by decide) _ _
    · have ht := takeTrap_forwards hc hj1 hdisc x seg hact
      refine ⟨_, _, _, _, isRecord_words _ hvcore horigin hsub hseg hnarg, by
        rw [show t = _ from ht, State.forwardTrap, sendOrDraw_sends _ hj1 hwt, outs_sendMsg, houts1],
        hasHeader_mkHdr (len := 15) (kind := 0) (lt_of_fieldOf ..) (lt_of_fieldOf ..) (by decide) (by decide) c.wt c.wt, rfl, rfl⟩

end Sys2Proof.Laws
end

section
/-! The frame of an instruction: what of the contexts and the memories it changes when it issues. -/

namespace Sys2Proof.Laws
open Sys2Proof.Machine Sys2Proof.Safety

/-! ## What the frame of an instruction speaks of: the other contexts, the registers of its own and the memories -/

/-- The registers of a context, everything else of it being idle. -/
def regsOf (c : Ctx) : Ctx :=
  { Ctx.idle with job := c.job, vcore := c.vcore, m := c.m, msg := c.msg, k := c.k, v := c.v, s := c.s, vfmt := c.vfmt, fflags := c.fflags }

/-- What is framed. -/
structure View where
  cur : Nat
  others : Nat → Option Ctx
  regs : Ctx
  mem : Space → Memory
  nvme : Nvme

def view (s : State) : View := ⟨s.cur, fun k => if k = s.cur then none else s.ctxs.get? k, regsOf s.me, s.mem, s.nvme⟩

theorem view_cur (s : State) : (view s).cur = s.cur := rfl

/-- A change of the issuing context alone. -/
theorem view_setMe (s : State) (c : Ctx) : view (s.setMe c) = { view s with regs := regsOf c } := by
  have hothers : (view (s.setMe c)).others = (view s).others := by
    funext k
    by_cases hk : k = s.cur
    · simp [view, hk]
    · simpa [view, hk] using Map.get?_set_of_ne s.ctxs s.cur k c hk
  calc view (s.setMe c) = ⟨s.cur, (view (s.setMe c)).others, regsOf (s.setMe c).me, s.mem, s.nvme⟩ := rfl
    _ = _ := by rw [hothers, me_setMe]; rfl

/-- One that leaves its registers. -/
theorem view_setMe_of {s : State} {c : Ctx} (h : regsOf c = regsOf s.me) : view (s.setMe c) = view s := by
  rw [view_setMe, h]; rfl

section
variable (s : State)

@[simp] theorem view_newAcc (task : Nat) (sc : Scope) (path : Path) (l : Bool) : view (s.newAcc task sc path l) = view s := rfl
@[simp] theorem view_newAccAt (task : Nat) (sc : Scope) (path : Path) (l : List (Space × Nat × Nat)) :
    view (s.newAccAt task sc path l) = view s := rfl
@[simp] theorem view_setJob (n : Nat) (j : Job) : view (s.setJob n j) = view s := rfl
@[simp] theorem view_updCore (n : Nat) (f : Core → Core) : view (s.updCore n f) = view s := rfl
@[simp] theorem view_updTile (n : Nat) (f : Tile → Tile) : view (s.updTile n f) = view s := rfl
@[simp] theorem view_setCounter (t c : Nat) (x : Counter) : view (s.setCounter t c x) = view s := rfl
@[simp] theorem view_setChan (core job ch : Nat) (c : Chan) : view (s.setChan core job ch c) = view s := rfl
@[simp] theorem view_performAcc (n : Nat) : view (s.performAcc n) = view s := rfl
@[simp] theorem view_dropReq (n : Nat) : view (s.dropReq n) = view s := rfl
@[simp] theorem view_sendOut (o : OutMsg) (dst : Endpoint) : view (s.sendOut o dst) = view s := rfl
@[simp] theorem view_post (cls : Machine.Class) (src dst : Endpoint) (job flits queue : Nat) (waits : List Nat) (b : Body) :
    view (s.post cls src dst job flits queue waits b) = view s := rfl
@[simp] theorem view_toStation (a : Access) (queue : Nat) (waits : List Nat) : view (s.toStation a queue waits) = view s := rfl
@[simp] theorem view_addReq (w : Issuer) (path : Path) (sc : Scope) (l : List (Space × Nat × Nat)) (r : Req) :
    view (s.addReq w path sc l r) = view s := rfl
@[simp] theorem view_request (w : Issuer) (kind : ReqKind) (v : Nat) (cm : Cmsg) (path : Path) (sc : Scope) (rel : Option Scope)
    (left : Nat) (l : List (Space × Nat × Nat)) : view (s.request w kind v cm path sc rel left l) = view s := rfl
@[simp] theorem view_updTransfer (req : Nat) (f : Transfer → Transfer) : view (s.updTransfer req f) = view s := rfl
@[simp] theorem view_setArrWords (core job : Nat) (l : List (Nat × Word)) : view (s.setArrWords core job l) = view s := rfl
@[simp] theorem view_haltWith (code : Nat) : view (s.haltWith code) = view s := rfl

@[simp] theorem view_pod (src : Endpoint) (job v : Nat) (lost killed : Bool) : view (s.pod src job v lost killed) = view s := by
  unfold State.pod
  split
  · rfl
  · split
    · split
      · split <;> rfl
      · rfl
    · rfl

@[simp] theorem view_updJob (n : Nat) (f : Job → Job) : view (s.updJob n f) = view s := by
  unfold State.updJob
  split <;> rfl

@[simp] theorem view_doneRise (post job : Nat) (know : Know) : view (s.doneRise post job know) = view s := by
  unfold State.doneRise
  split <;> rfl

@[simp] theorem view_complete (src : Endpoint) (job vcore v : Nat) (cm : Cmsg) (status : Word) (results : List Word) (acq : Bool) (know : Know)
    (post : Nat) : view (s.complete src job vcore v cm status results acq know post) = view s := by
  unfold State.complete
  split
  · simp
  · split <;> rfl

@[simp] theorem view_finishReq (src : Endpoint) (r : Req) (acq : Bool) (results : List Word) : view (s.finishReq src r acq results) = view s := by
  simp [State.finishReq]

@[simp] theorem view_postReq (w : Issuer) (id : Nat) (dst : Endpoint) : view (s.postReq w id dst) = view s := by
  unfold State.postReq
  split <;> rfl

@[simp] theorem view_closeJob (a : ArrayJob) (w : Word) : view (s.closeJob a w) = view s := by
  simp only [State.closeJob, State.setArrWord]
  simp

@[simp] theorem view_completeJob (a : ArrayJob) (code : Nat) (w : Word) (time : Nat) : view (s.completeJob a code w time) = view s := by
  simp [State.completeJob]

@[simp] theorem view_abortRun (tile : Nat) (r : ArrayRun) : view (s.abortRun tile r) = view s := by
  unfold State.abortRun
  dsimp only
  split <;> split <;> rfl

@[simp] theorem view_abortJob (core job : Nat) (id : Word) : view (s.abortJob core job id) = view s := by
  unfold State.abortJob
  dsimp only
  split
  · simp
  · split
    · split <;> simp
    · rfl

@[simp] theorem view_retireCopy (r : Req) (code : Nat) : view (s.retireCopy r code) = view s := by
  unfold State.retireCopy
  dsimp only
  split <;> rfl

@[simp] theorem view_finishCopy (src : Endpoint) (r : Req) (code : Nat) : view (s.finishCopy src r code) = view s := by
  simp [State.finishCopy]

@[simp] theorem view_cancelCopy (core job id : Nat) : view (cancelCopy s core job id) = view s := by
  unfold cancelCopy
  dsimp only
  split
  · rfl
  · split
    · split <;> simp
    · rfl

@[simp] theorem view_dropEntries (tile job c : Nat) : view (s.dropEntries tile job c) = view s := by
  unfold State.dropEntries
  dsimp only
  generalize (s.tile tile).posted.filter _ = l
  have hfold (l : List Posted) : ∀ t : State, view t = view s → view (l.foldl (fun s p => s.pod (.ni tile) job p.v false false) t) = view s := by
    induction l with
    | nil => exact fun _ h => h
    | cons p l ih => exact fun t h => ih _ (by rw [view_pod, h])
  exact hfold l _ rfl

@[simp] theorem view_queueJob (w : Issuer) (b : List Word) (v : Nat) : view (s.queueJob w b v).1 = view s := rfl

@[simp] theorem view_queueCopy (w : Issuer) (walk : Bool) (b : List Word) (v : Nat) : view (queueCopy w walk b v s) = view s := by
  unfold queueCopy
  dsimp only
  split <;> rfl

@[simp] theorem view_remoteAdd (w : Issuer) (j : Job) (c v req : Nat) : view (remoteAdd w j c v req s) = view s := rfl
@[simp] theorem view_localAdd (w : Issuer) (c v : Nat) : view (localAdd w c v s) = view s := rfl
@[simp] theorem view_queueSend (w : Issuer) (x : Send) (weight draw : Nat) : view (queueSend w x weight draw s) = view s := rfl
@[simp] theorem view_toHome (j : Job) (b : Body) : view (toHome s j b) = view s := rfl

@[simp] theorem view_sendPieces (w : Issuer) (r : Req) (kind : AccKind) (g a : Nat) (l : List (Nat × Nat)) :
    view (sendPieces w r kind g a s l) = view s := by
  induction l generalizing s with
  | nil => rfl
  | cons e l ih => rw [sendPieces, ih, view_toStation]

@[simp] theorem view_queueBlock (w : Issuer) (wr_ tile q : Bool) (b : List Word) (v : Nat) : view (queueBlock w wr_ tile q b v s) = view s := by
  unfold queueBlock
  split
  · rfl
  · dsimp only
    split <;> simp

@[simp] theorem view_queueNear (w : Issuer) (f : Nat) (b : List Word) (v : Nat) : view (queueNear w f b v s) = view s := by
  unfold queueNear
  dsimp only
  split <;> simp

@[simp] theorem view_queueFuture (w : Issuer) (f : Nat) (b : List Word) (v : Nat) : view (queueFuture w f b v s) = view s := by
  simp [queueFuture]

@[simp] theorem view_unitRequest (kind : ReqKind) (v : Nat) (cm : Cmsg) : view (unitRequest kind v cm s) = view s := by
  unfold unitRequest
  dsimp only
  split <;> rfl

@[simp] theorem view_startVec (kind : OpKind) (mask : MaskReg) (a b : Word) (srcs : List Nat) (tgts : List Target) (waits : List Nat) (acc : Nat) :
    view (startVec s kind mask a b srcs tgts waits acc) = view s := view_setMe_of (s := s) rfl

@[simp] theorem view_startOp (kind : OpKind) (a b : Word) (tgts : List Target) (waits : List Nat) (acc : Nat) :
    view (startOp s kind a b tgts waits acc) = view s := view_startVec ..

@[simp] theorem view_wrK (n : Fin 8) (v : MaskReg) : view (wrK s n v) = view s := view_setMe_of rfl

@[simp] theorem view_ending : view (ending s) = view s := view_setMe_of rfl

@[simp] theorem view_addFence (k : FenceKind) (before after : Nat) (sc : Scope) : view (addFence k before after sc s) = view s :=
  view_setMe_of (s := s) rfl

/-- The advance of a context leaves its registers. -/
theorem regsOf_advance (c : Ctx) (clk len gap : Nat) (mark : Bool) (fl : Flow) : regsOf (c.advance clk len gap mark fl) = regsOf c := by
  cases fl <;> rfl

@[simp] theorem view_retire (len gap : Nat) (mark : Bool) (fl : Flow) : view (s.retire len gap mark fl) = view s := by
  cases hc : s.ctxs.get? s.cur with
  | none =>
    have hsame : s.retire len gap mark fl = { s with free := s.free + 1, limmOpen := none } := by simp only [State.retire, hc]
    rw [hsame]; rfl
  | some c =>
    have hset : s.retire len gap mark fl = { s.setMe (c.advance s.clk len gap mark fl) with free := s.free + 1, limmOpen := none } := by
      simp only [State.retire, hc]; rfl
    rw [hset]
    exact view_setMe_of (s := s) (by rw [regsOf_advance, me_of_get? hc])
end

theorem view_takeWeight {s t : State} {v : Nat} (h : takeWeight s v = .ok t) : view t = view s := by
  unfold takeWeight at h
  dsimp only at h
  split at h
  · cases h
  · cases h
    exact view_setMe_of rfl

theorem view_joinHold {s t : State} (h : joinHold s = .ok t) : view t = view s := by
  unfold joinHold at h
  dsimp only at h
  split at h
  · split at h
    · cases h
    · cases h
      exact view_setMe_of (s := s) rfl
  · cases h
    rfl

/-! ## What an instruction may change when it issues -/

/-- The places an instruction may change: its destination, the flags, VFMT, local memory, and global and host memory. -/
structure Change where
  d : Name
  flags : Bool
  sys : Bool
  loc : Bool
  far : Bool

/-- Between two views only those places have changed. -/
structure Allowed (p : Change) (a b : View) : Prop where
  cur : b.cur = a.cur
  others : b.others = a.others
  fixed : b.regs.job = a.regs.job ∧ b.regs.vcore = a.regs.vcore ∧ b.regs.m = a.regs.m ∧ b.regs.msg = a.regs.msg ∧ b.regs.k = a.regs.k
    ∧ b.regs.v = a.regs.v
  s : ∀ n : Fin 32, p.d ≠ .s n → b.regs.s[n] = a.regs.s[n]
  vfmt : p.sys = false → b.regs.vfmt = a.regs.vfmt
  fflags : p.sys = false → p.flags = false → b.regs.fflags = a.regs.fflags
  loc : p.loc = false → b.mem .loc = a.mem .loc
  scratch : b.mem .scratch = a.mem .scratch
  code : b.mem .code = a.mem .code
  nvme : b.nvme = a.nvme
  far : p.far = false → b.mem .hbm = a.mem .hbm ∧ b.mem .host = a.mem .host

section
variable {p : Change} {a b c : View}

theorem Allowed.refl (p : Change) (a : View) : Allowed p a a :=
  ⟨rfl, rfl, ⟨rfl, rfl, rfl, rfl, rfl, rfl⟩, fun _ _ => rfl, fun _ => rfl, fun _ _ => rfl, fun _ => rfl, rfl, rfl, rfl, fun _ => ⟨rfl, rfl⟩⟩

theorem Allowed.of_eq (h : b = a) : Allowed p a b := h ▸ .refl p a

theorem Allowed.trans (h : Allowed p a b) (g : Allowed p b c) : Allowed p a c := by
  obtain ⟨h1, h2, h3, h4, h5, h6⟩ := h.fixed
  obtain ⟨g1, g2, g3, g4, g5, g6⟩ := g.fixed
  exact ⟨g.cur.trans h.cur, g.others.trans h.others, ⟨g1.trans h1, g2.trans h2, g3.trans h3, g4.trans h4, g5.trans h5, g6.trans h6⟩,
    fun n hn => (g.s n hn).trans (h.s n hn), fun hs => (g.vfmt hs).trans (h.vfmt hs), fun hs hf => (g.fflags hs hf).trans (h.fflags hs hf),
    fun hl => (g.loc hl).trans (h.loc hl), g.scratch.trans h.scratch, g.code.trans h.code, g.nvme.trans h.nvme,
    fun hf => ⟨(g.far hf).1.trans (h.far hf).1, (g.far hf).2.trans (h.far hf).2⟩⟩

/-- Only the registers have changed, and of them those that may. -/
theorem Allowed.of_regs {r : Ctx} (hfixed : r.job = a.regs.job ∧ r.vcore = a.regs.vcore ∧ r.m = a.regs.m ∧ r.msg = a.regs.msg ∧ r.k = a.regs.k
    ∧ r.v = a.regs.v) (hs : ∀ n : Fin 32, p.d ≠ .s n → r.s[n] = a.regs.s[n]) (hvfmt : p.sys = false → r.vfmt = a.regs.vfmt)
    (hfflags : p.sys = false → p.flags = false → r.fflags = a.regs.fflags) : Allowed p a { a with regs := r } :=
  ⟨rfl, rfl, hfixed, hs, hvfmt, hfflags, fun _ => rfl, rfl, rfl, rfl, fun _ => ⟨rfl, rfl⟩⟩

theorem set_get_of_ne {α : Type} {l : Nat} (v : Vector α l) (n : Fin l) (x : α) {k : Fin l} (h : n ≠ k) : (v.set n x)[k] = v[k] :=
  Vector.getElem_set_ne (h := fun e => h (Fin.ext e)) ..

theorem targetOf_cases {c : Ctx} {d : Name} {t : Target} (h : targetOf c d = some t) :
    (∃ n, d = .s n ∧ t = .s n c.hptr) ∨ (d = .h ∧ t = .h c.hptr) := by
  unfold targetOf at h
  split at h
  · cases h; exact .inl ⟨_, rfl, rfl⟩
  · cases h; exact .inr ⟨rfl, rfl⟩
  · cases h

/-- A scalar result changes no register but its destination. -/
theorem allowed_wr (s : State) {d : Name} (v : Word) (latency : Nat) (hd : p.d = d) : Allowed p (view s) (view (wr s d v latency)) := by
  cases ht : targetOf s.me d with
  | none => exact .of_eq (by rw [wr_of_no_target ht])
  | some t =>
    by_cases hl : latency ≤ 1
    · have hview : view (wr s d v latency) = { view s with regs := regsOf (putNow s t v latency) } := by
        rw [wr_at_once ht v hl, landed_zero_eq]
        exact view_setMe s _
      rw [hview]
      rcases targetOf_cases ht with ⟨n, rfl, rfl⟩ | ⟨rfl, rfl⟩
      · exact .of_regs ⟨rfl, rfl, rfl, rfl, rfl, rfl⟩ (fun k hk => set_get_of_ne s.me.s n _ (fun e => hk (by rw [hd, e]))) (fun _ => rfl) (fun _ _ => rfl)
      · exact .of_regs ⟨rfl, rfl, rfl, rfl, rfl, rfl⟩ (fun _ _ => rfl) (fun _ => rfl) (fun _ _ => rfl)
    · rw [wr_pending ht v hl]
      exact .of_eq (view_setMe_of rfl)

theorem allowed_setFlags (s : State) (bits : Nat) (h : p.flags = true ∨ bits = 0) : Allowed p (view s) (view (setFlags s bits)) := by
  unfold setFlags
  split
  · exact .refl ..
  next hbits =>
    rw [view_setMe]
    exact .of_regs ⟨rfl, rfl, rfl, rfl, rfl, rfl⟩ (fun _ _ => rfl) (fun _ => rfl) (fun _ hf => by simp [hf, hbits] at h)

/-- The link of a call changes s31. -/
theorem allowed_writeLink (s : State) (v : Word) (hd : p.d = .s 31) : Allowed p (view s) (view (writeLink s v)) := by
  have hview : view (writeLink s v) = { view s with regs := regsOf { s.me with s := s.me.s.set 31 v } } := by
    rw [writeLink, landed_zero_eq]
    exact view_setMe s _
  rw [hview]
  exact .of_regs ⟨rfl, rfl, rfl, rfl, rfl, rfl⟩ (fun k hk => set_get_of_ne s.me.s 31 _ (fun e => hk (by rw [hd, e]))) (fun _ => rfl) (fun _ _ => rfl)

/-- A store to local memory. -/
theorem allowed_storeLocal (s : State) (at_ : Nat) (bs : List Byte) (path : Path) (task acc : Nat) (rel : Option Rel) (h : p.loc = true) :
    Allowed p (view s) (view (s.writeBytes .loc at_ bs path task acc rel)) :=
  ⟨rfl, rfl, ⟨rfl, rfl, rfl, rfl, rfl, rfl⟩, fun _ _ => rfl, fun _ => rfl, fun _ _ => rfl, fun hl => by simp [h] at hl, rfl, rfl, rfl,
    fun _ => ⟨rfl, rfl⟩⟩

/-- A page hint. -/
theorem allowed_hint {s t : State} (h : HintOnly s t) (hfar : p.far = true) : Allowed p (view s) (view t) := by
  obtain ⟨_, _, _, _, rfl⟩ := h
  exact ⟨rfl, rfl, ⟨rfl, rfl, rfl, rfl, rfl, rfl⟩, fun _ _ => rfl, fun _ => rfl, fun _ _ => rfl, fun _ => rfl, rfl, rfl, rfl,
    fun hf => by simp [hfar] at hf⟩

/-- A write of a system register. -/
theorem allowed_sysWrite (s : State) (j : Job) (reg idx : Nat) (v : Word) (h : p.sys = true) :
    Allowed p (view s) (view (sysWrite s j reg idx v)) := by
  have own (c : Ctx) (hc : (c.job, c.vcore, c.m, c.msg, c.k, c.v, c.s) = (s.me.job, s.me.vcore, s.me.m, s.me.msg, s.me.k, s.me.v, s.me.s)) :
      Allowed p (view s) (view (s.setMe c)) := by
    simp only [Prod.mk.injEq] at hc
    obtain ⟨h1, h2, h3, h4, h5, h6, h7⟩ := hc
    rw [view_setMe]
    exact .of_regs ⟨h1, h2, h3, h4, h5, h6⟩ (fun n _ => by rw [show (regsOf c).s = s.me.s from h7]; rfl) (fun hs => by simp [h] at hs)
      (fun hs => by simp [h] at hs)
  unfold sysWrite
  dsimp only
  split
  · exact own _ rfl
  · exact own _ rfl
  · exact .of_eq rfl
  · split
    · exact .of_eq (by simp)
    · exact .refl ..
  · exact .of_eq (by simp)
  · exact .of_eq (by simp)
  · exact own _ rfl
  · exact .of_eq (by simp)
  · exact .refl ..
end

/-! ## Effects, and what an instruction that survives its issue has done -/

/-- The issuing context lives on. -/
def Lives (t : State) (key : Nat) : Prop := ∃ c, t.ctxs.get? key = some c ∧ c.dying = false

/-- An effect that leaves the issuing context alive has changed only what is allowed. -/
def ResWithin (p : Change) (s : State) (r : Res) : Prop :=
  ∀ t fl, r = .ok (t, fl) → t.cur = s.cur ∧ (Lives t s.cur → Allowed p (view s) (view t))

/-- So has a step of it. -/
def StepWithin (p : Change) (s : State) (o : Host.Outcome State Fault Refusal) : Prop :=
  ∀ t, o = .next t → Lives t s.cur → Allowed p (view s) (view t)

section
variable {p : Change} {s : State}

theorem resWithin_error (x : Stop) : ResWithin p s (.error x) := fun _ _ h => by cases h

theorem resWithin_raise (c : Cause) (w : Word) : ResWithin p s (raise c w) := resWithin_error _

theorem resWithin_ok {t : State} (fl : Flow) (h : Allowed p (view s) (view t)) : ResWithin p s (.ok (t, fl)) := by
  intro t fl e
  cases e
  exact ⟨h.cur, fun _ => h⟩

theorem resWithin_fall {t : State} (h : Allowed p (view s) (view t)) : ResWithin p s (fall t) := resWithin_ok .next h

theorem resWithin_bind {α : Type} {x : Except Stop α} {f : α → Res} (h : ∀ a, ResWithin p s (f a)) : ResWithin p s (x >>= f) := by
  cases x with
  | error e => exact resWithin_error e
  | ok a => exact h a

theorem resWithin_takeWeight {v : Nat} {f : State → Res} (h : ∀ t, view t = view s → ResWithin p s (f t)) :
    ResWithin p s (takeWeight s v >>= f) := by
  cases e : takeWeight s v with
  | error x => exact resWithin_error x
  | ok t => exact h t (view_takeWeight e)

theorem resWithin_joinHold {f : State → Res} (h : ∀ t, view t = view s → ResWithin p s (f t)) : ResWithin p s (joinHold s >>= f) := by
  cases e : joinHold s with
  | error x => exact resWithin_error x
  | ok t => exact h t (view_joinHold e)

/-- A context that lives after it was asked whether to be released was not. -/
theorem release_of_lives {t : State} {key : Nat} (h : Lives (t.release key) key) : t.release key = t := by
  obtain ⟨c, hc, hlive⟩ := h
  unfold State.release at hc ⊢
  split
  · rfl
  next d hd =>
    simp only [hd] at hc
    split
    · rfl
    next hidle =>
      rw [if_neg hidle] at hc
      split at hc
      · have hgone := (fades_sweepDiscards { t with ctxs := t.ctxs.del key } d.job).none (get?_del _ _)
        rw [hgone] at hc
        cases hc
      next hnot =>
        rw [if_neg hnot]
        split at hc
        next hpark =>
          rw [if_pos hpark]
          split at hc
          next x hx => exact absurd (dying_of_takeTrap hc) (by simp [hlive])
          next hx =>
            split at hc
            · rw [finishTask_ctxs hd] at hc
              cases hc
            next hend => rw [if_neg hend]
        next hpark => rw [if_neg hpark]

/-- The issuing context lives after an instruction has retired only where it did before. -/
theorem lives_of_retire {t : State} {len gap : Nat} {mark : Bool} {fl : Flow} (h : Lives (t.retire len gap mark fl) t.cur) : Lives t t.cur := by
  obtain ⟨c, hc, hlive⟩ := h
  cases hd : t.ctxs.get? t.cur with
  | none => simp [State.retire, hd] at hc
  | some d =>
    rw [retire_me len gap mark fl hd] at hc
    cases hc
    refine ⟨d, hd, ?_⟩
    cases fl <;> exact hlive

/-- What retires lives on with what its effect has changed. -/
theorem within_retire {t : State} {len gap : Nat} {mark : Bool} {fl : Flow} (h : t.cur = s.cur ∧ (Lives t s.cur → Allowed p (view s) (view t)))
    (hlive : Lives (t.retire len gap mark fl) s.cur) : Allowed p (view s) (view (t.retire len gap mark fl)) := by
  obtain ⟨hcur, h⟩ := h
  rw [view_retire]
  rw [← hcur] at h hlive
  exact h (lives_of_retire hlive)

/-- A trap leaves no live context behind. -/
theorem not_lives_trapNow {t : State} {key : Nat} {x : Trap} {seg : Nat × Nat} {n : Nat} :
    ¬ Lives { t.trapNow key x seg with free := n } key := by
  rintro ⟨c, hc, hlive⟩
  have hdying : c.dying = true := by
    unfold State.trapNow at hc
    split at hc <;> exact dying_of_takeTrap hc
  simp [hlive] at hdying

theorem within_issue {len gap : Nat} {mark : Bool} {r : Res} (h : ResWithin p s r) : StepWithin p s (issue len gap mark s r) := by
  intro t e hlive
  unfold issue at e
  split at e
  next u fl =>
    cases e
    have hu := h u fl rfl
    split at hlive
    next hmark =>
      rw [if_pos hmark]
      have hsame := release_of_lives hlive
      rw [hsame] at hlive ⊢
      exact within_retire hu hlive
    next hmark =>
      rw [if_neg hmark]
      exact within_retire hu hlive
  · cases e
    exact absurd hlive not_lives_trapNow
  · cases e
    exact .refl ..

theorem within_issue32 {m : Mark} {r : Res} (h : ResWithin p s r) : StepWithin p s (issue32 m s r) := within_issue (resWithin_bind fun _ => h)

theorem within_issue16 {mark : Bool} {r : Res} (h : ResWithin p s r) : StepWithin p s (issue16 mark s r) := within_issue (resWithin_bind fun _ => h)

theorem within_issueStart {m : Mark} {r : Res} (h : ResWithin p s r) : StepWithin p s (issueStart m s r) :=
  within_issue (resWithin_bind fun _ => h)

theorem within_releaseNext {o : Host.Outcome State Fault Refusal} (h : StepWithin p s o) : StepWithin p s (releaseNext s o) := by
  intro t e hlive
  cases o with
  | next u =>
    cases e
    have hsame := release_of_lives hlive
    rw [hsame] at hlive ⊢
    exact h u rfl hlive
  | fault f => cases e
  | refused r => cases e

theorem within_parkAfter {m : Mark} {o : Host.Outcome State Fault Refusal} (h : StepWithin p s o) : StepWithin p s (parkAfter m s o) := by
  intro t e hlive
  cases o with
  | fault f => cases e
  | refused r => cases e
  | next u =>
    cases e
    split at hlive
    next hm => rw [if_pos hm]; exact h u rfl hlive
    next hm =>
      rw [if_neg hm]
      have hsame := release_of_lives hlive
      rw [hsame] at hlive ⊢
      cases hc : u.ctxs.get? s.cur with
      | none => simp only [State.updCtx, hc] at hlive ⊢; exact h u rfl hlive
      | some c =>
        obtain ⟨d, hd, hdlive⟩ := hlive
        simp only [State.updCtx, hc] at hd ⊢
        have hu := h u rfl ⟨c, hc, by cases (Map.get?_set_self _ _ _).symm.trans hd; exact hdlive⟩
        have hcur : u.cur = s.cur := hu.cur
        have hview : view (u.setMe { c with parked := true }) = view u := view_setMe_of (by rw [← hcur] at hc; rw [me_of_get? hc]; rfl)
        have hset : ({ u with ctxs := u.ctxs.set s.cur { c with parked := true } } : State) = u.setMe { c with parked := true } := by
          rw [State.setMe, hcur]
        rw [hset, hview]
        exact hu
end

/-! ## A raise of the issuing task itself: what it discards holds the task (R345, R346) -/

theorem Fades.not_lives {s t : State} (h : Fades s t) {k : Nat} (hk : ¬ Lives s k) : ¬ Lives t k :=
  fun ⟨_, hc, hlive⟩ => hk ⟨_, h.live hc hlive, hlive⟩

theorem not_lives_endTask (s : State) (key : Nat) : ¬ Lives (s.endTask key) key := by
  rintro ⟨c, hc, hlive⟩
  unfold State.endTask at hc
  split at hc
  next hnone => simp [hnone] at hc
  next d hd =>
    dsimp only at hc
    split at hc
    · cases (Map.get?_set_self _ _ _).symm.trans hc
      simp at hlive
    · exact absurd ((get?_del _ _).symm.trans hc) (by simp)

theorem mem_of_get? {α : Type} {m : Map α} {k : Nat} {a : α} (h : m.get? k = some a) : (k, a) ∈ m := by
  induction m with
  | nil => simp [Map.get?] at h
  | cons e t ih =>
    obtain ⟨n, b⟩ := e
    by_cases hn : n = k
    · simp only [Map.get?, if_pos hn, Option.some.injEq] at h
      simp [hn, h]
    · simp only [Map.get?, if_neg hn] at h
      exact List.mem_cons_of_mem _ (ih h)

/-- A live task of a unit that is discarded lives on no more. -/
theorem not_lives_killTasks {job : Nat} {j : Job} {d : Nat × Nat} {key : Nat} {c : Ctx} (hjob : c.job = job) (hlive : c.dying = false)
    (hin : inDiscard j d c.vcore = true) (l : List (Nat × Ctx)) : ∀ s : State, (key, c) ∈ l → ¬ Lives (killTasks job j d s l) key := by
  induction l with
  | nil => simp
  | cons e l ih =>
    intro s hmem
    rw [killTasks]
    rcases List.mem_cons.mp hmem with rfl | hmem
    · have hkill : (decide (c.job = job) && !c.dying && inDiscard j d c.vcore) = true := by simp [hjob, hlive, hin]
      rw [if_pos (by simpa using hkill)]
      exact ((fades_pod ..).trans (fades_killTasks ..)).not_lives (not_lives_endTask s key)
    · split
      · exact ih _ hmem
      · exact ih _ hmem

/-- Discarding a unit of a job that holds a virtual core leaves no live task of that core. -/
theorem not_lives_discardUnit {s : State} {job : Nat} {j : Job} {d : Nat × Nat} {key : Nat} {c : Ctx} (hj : s.job? job = some j)
    (hc : s.ctxs.get? key = some c) (hjob : c.job = job) (hin : inDiscard j d c.vcore = true) : ¬ Lives (s.discardUnit job d) key := by
  by_cases hlive : c.dying = false
  · unfold State.discardUnit
    simp only [hj]
    exact ((fades_dropWaiting ..).trans (fades_sweepDiscards ..)).not_lives (not_lives_killTasks hjob hlive hin _ _ (mem_of_get? hc))
  · refine (fades_discardUnit s job d).not_lives ?_
    rintro ⟨x, hx, hxlive⟩
    cases hc.symm.trans hx
    exact hlive hxlive

theorem inDiscard_of_unit {j : Job} {l u vcore : Nat} (h : unitOf (levelsOf j.words) j.rank j.vtiles l vcore = some u) :
    inDiscard j (l, u) vcore = true := by simp [inDiscard, inUnit, h]

/-- Containment at a virtual core discards a unit that holds it, or touches no context. -/
theorem contain_own {job : Nat} {key : Nat} {c : Ctx} (hjob : c.job = job) (l : Nat) :
    ∀ s : State, s.ctxs.get? key = some c → (s.contain job c.vcore l).ctxs = s.ctxs ∨ ¬ Lives (s.contain job c.vcore l) key := by
  induction l with
  | zero =>
    intro s hc
    rw [State.contain]
    cases hj : s.job? job with
    | none => left; simp only [State.killJob, hj]
    | some j =>
      right
      simp only [State.killJob, hj]
      exact (((Fades.foldl (fades_freeEntries job) _ _).trans (fades_staleWaiters ..)).trans (fades_updJob ..)).not_lives
        (not_lives_discardUnit hj hc hjob rfl)
  | succ l ih =>
    intro s hc
    rw [State.contain]
    split
    · exact .inl rfl
    next j hj =>
      split
      next lv u hlv hu =>
        split
        · exact .inl rfl
        · split
          · split
            · exact .inr (not_lives_discardUnit (s := s.setJob job _) (Map.get?_set_self _ _ _) hc hjob (inDiscard_of_unit (j := { j with .. }) hu))
            · exact ih s hc
          · split
            · exact .inr (not_lives_discardUnit hj hc hjob (inDiscard_of_unit hu))
            · exact ih s hc
      · exact ih s hc

/-- The memories beside global and host memory, and what issues. -/
def stillOf (s : State) : Nat × Memory × Memory × Memory × Nvme := (s.cur, s.localMem, s.scratch, s.codeMem, s.nvme)

section
variable (s : State)

@[simp] theorem stillOf_pod (src : Endpoint) (job v : Nat) (lost killed : Bool) : stillOf (s.pod src job v lost killed) = stillOf s := by
  simp [stillOf]

@[simp] theorem stillOf_updJob (n : Nat) (f : Job → Job) : stillOf (s.updJob n f) = stillOf s := by simp [stillOf]

@[simp] theorem stillOf_endTask (key : Nat) : stillOf (s.endTask key) = stillOf s := by
  unfold State.endTask
  split
  · rfl
  · dsimp only
    split <;> rfl

@[simp] theorem stillOf_sweepDiscards (job : Nat) : stillOf (s.sweepDiscards job) = stillOf s := by
  unfold State.sweepDiscards
  split
  · rfl
  · split <;> rfl

@[simp] theorem stillOf_killTasks (job : Nat) (j : Job) (d : Nat × Nat) (l : List (Nat × Ctx)) : stillOf (killTasks job j d s l) = stillOf s := by
  induction l generalizing s with
  | nil => rfl
  | cons e l ih =>
    rw [killTasks]
    split <;> simp [ih]

@[simp] theorem stillOf_dropWaiting (job : Nat) (j : Job) (d : Nat × Nat) (l : List (Nat × Core)) : stillOf (dropWaiting job j d s l) = stillOf s := by
  induction l generalizing s with
  | nil => rfl
  | cons e l ih =>
    rw [dropWaiting, ih]
    split
    · rfl
    · rw [stillOf_pod]; rfl

@[simp] theorem stillOf_discardUnit (job : Nat) (d : Nat × Nat) : stillOf (s.discardUnit job d) = stillOf s := by
  unfold State.discardUnit
  split
  · rfl
  · simp only [stillOf_sweepDiscards, stillOf_dropWaiting, stillOf_killTasks]; rfl

@[simp] theorem stillOf_freeEntries (job t : Nat) : stillOf (freeEntries job s t) = stillOf s := by
  unfold freeEntries
  dsimp only
  split
  · rfl
  · rw [stillOf_pod]; rfl

theorem stillOf_foldl {α : Type} {f : State → α → State} (hf : ∀ s a, stillOf (f s a) = stillOf s) (l : List α) :
    stillOf (l.foldl f s) = stillOf s := by
  induction l generalizing s with
  | nil => rfl
  | cons a l ih => rw [List.foldl_cons, ih, hf]

@[simp] theorem stillOf_staleWaiters (job : Nat) (l : List (Nat × Future)) : stillOf (staleWaiters job s l) = stillOf s := by
  induction l generalizing s with
  | nil => rfl
  | cons e l ih =>
    rw [staleWaiters, ih, stillOf_foldl]
    · split <;> rfl
    · intro t r
      split
      · exact stillOf_pod t ..
      · rfl

@[simp] theorem stillOf_killJob (job : Nat) : stillOf (s.killJob job) = stillOf s := by
  unfold State.killJob
  split
  · rfl
  · simp only [stillOf_updJob, stillOf_staleWaiters]
    rw [stillOf_foldl _ (fun t a => stillOf_freeEntries t job a), stillOf_discardUnit]

@[simp] theorem stillOf_contain (job vcore l : Nat) : stillOf (s.contain job vcore l) = stillOf s := by
  induction l with
  | zero => exact stillOf_killJob s job
  | succ l ih =>
    rw [State.contain]
    split
    · rfl
    · split
      · split
        · rfl
        · split
          · split
            · rw [stillOf_discardUnit]; rfl
            · exact ih
          · split
            · exact stillOf_discardUnit ..
            · exact ih
      · exact ih

@[simp] theorem stillOf_containment (job vcore : Nat) : stillOf (s.containment job vcore) = stillOf s := by
  unfold State.containment
  split
  · rfl
  · split
    · rfl
    · exact stillOf_contain ..

@[simp] theorem stillOf_sendOrDraw (job : Nat) (m : Msg) (u : Nat) : stillOf (s.sendOrDraw job m u) = stillOf s := by
  unfold State.sendOrDraw
  split
  · rfl
  · split
    · exact stillOf_updJob ..
    · rfl

theorem stillOf_writeBytes {sp : Space} (h : sp = .hbm ∨ sp = .host) (a : Nat) (bs : List Byte) (path : Path) (task acc : Nat) (rel : Option Rel) :
    stillOf (s.writeBytes sp a bs path task acc rel) = stillOf s := by rcases h with rfl | rfl <;> rfl

theorem physSpace_far {pa : Nat} {sp : Space} {a : Nat} (h : physSpace pa = some (sp, a)) : sp = .hbm ∨ sp = .host := by
  unfold physSpace at h
  split at h
  · cases h; exact .inr rfl
  · split at h
    · cases h; exact .inl rfl
    · cases h

@[simp] theorem stillOf_ownWrite (pt va : Nat) (path : Path) (rel : Option Rel) (bs : List Byte) :
    stillOf (s.ownWrite pt va path rel bs) = stillOf s := by
  unfold State.ownWrite
  split
  · split
    next hphys =>
      split
      · rw [stillOf_writeBytes _ (physSpace_far hphys)]
        unfold State.markDirty
        split <;> rfl
      · rfl
    · rfl
  · rfl

@[simp] theorem stillOf_writeVirt (pt : Nat) (path : Path) (l : List Word) (va : Nat) : stillOf (s.writeVirt pt va path l) = stillOf s := by
  induction l generalizing s va with
  | nil => rfl
  | cons w l ih => rw [State.writeVirt, ih, stillOf_ownWrite]

@[simp] theorem stillOf_parkRecord (job : Nat) (j : Job) (e : Word) (vcore u : Nat) (r : Report) (know : Know) :
    stillOf (s.parkRecord job j e vcore u r know) = stillOf s := by
  unfold State.parkRecord
  simp only [stillOf_sendOrDraw, stillOf_updJob]
  split
  · rfl
  · exact stillOf_writeVirt ..

theorem ctxs_writeVirt (pt : Nat) (path : Path) (l : List Word) : ∀ (s : State) (va : Nat), (s.writeVirt pt va path l).ctxs = s.ctxs := by
  induction l with
  | nil => exact fun _ _ => rfl
  | cons w l ih =>
    intro s va
    rw [State.writeVirt, ih]
    unfold State.ownWrite
    split
    · split
      · split
        · rw [ctxs_writeBytes]
          unfold State.markDirty
          split
          · rfl
          · exact ctxs_writeBytes ..
        · rfl
      · rfl
    · rfl

theorem ctxs_sendOrDraw (job : Nat) (m : Msg) (u : Nat) : (s.sendOrDraw job m u).ctxs = s.ctxs := by
  unfold State.sendOrDraw
  split
  · rfl
  · split
    · exact State.updJob_ctxs ..
    · rfl
end

theorem fades_raiseJob (s : State) (job vcore u : Nat) (x : Trap) (know : Know) (src : Endpoint) : Fades s (s.raiseJob job vcore u x know src) := by
  unfold State.raiseJob
  split
  · exact .refl s
  · split
    · exact fades_pod ..
    · dsimp only
      split
      · exact fades_parkRecord ..
      · exact fades_sendOrDraw ..
      · split
        · unfold State.killOwn
          split
          · exact .refl s
          · exact (fades_setJob ..).trans (fades_killTrap ..)
        · exact fades_killTrap ..

@[simp] theorem stillOf_raiseJob (s : State) (job vcore u : Nat) (x : Trap) (know : Know) (src : Endpoint) :
    stillOf (s.raiseJob job vcore u x know src) = stillOf s := by
  unfold State.raiseJob
  split
  · rfl
  · split
    · exact stillOf_pod ..
    · dsimp only
      split
      · exact stillOf_parkRecord ..
      · exact stillOf_sendOrDraw ..
      · split
        · unfold State.killOwn
          split
          · rfl
          · simp only [State.killTrap, stillOf_containment, stillOf_pod]; rfl
        · simp [State.killTrap]

/-- A raise of a task at its own virtual core touches no context, or its own is alive no more. -/
theorem raiseJob_own {s : State} {u key : Nat} {c : Ctx} (x : Trap) (know : Know) (src : Endpoint) (hc : s.ctxs.get? key = some c)
    (horigin : x.origin ≠ 3) : (s.raiseJob c.job c.vcore u x know src).ctxs = s.ctxs ∨ ¬ Lives (s.raiseJob c.job c.vcore u x know src) key := by
  unfold State.raiseJob
  split
  · exact .inl rfl
  · split
    · exact .inl (State.pod_ctxs ..)
    · dsimp only
      split
      · left
        unfold State.parkRecord
        simp only [ctxs_sendOrDraw, State.updJob_ctxs]
        split
        · rfl
        · exact ctxs_writeVirt ..
      · exact .inl (ctxs_sendOrDraw ..)
      · unfold State.killTrap State.containment
        split
        · exact .inl (State.pod_ctxs ..)
        · split
          · exact .inl (State.pod_ctxs ..)
          · rcases contain_own rfl _ (s.pod src c.job u false true) (by rw [State.pod_ctxs]; exact hc) with h | h
            · exact .inl (h.trans (State.pod_ctxs ..))
            · exact .inr h

/-- A raise by the issuing task, seen from it. -/
theorem resWithin_raiseJob {p : Change} {s t : State} {u : Nat} (x : Trap) (know : Know) (src : Endpoint) (hview : view t = view s)
    (hfar : p.far = true) (horigin : x.origin ≠ 3) : ResWithin p s (fall (t.raiseJob t.me.job t.me.vcore u x know src)) := by
  intro v fl e
  cases e
  have hcur : t.cur = s.cur := congrArg View.cur hview
  have hstill := stillOf_raiseJob t t.me.job t.me.vcore u x know src
  simp only [stillOf, Prod.mk.injEq] at hstill
  obtain ⟨hcur1, hloc, hscratch, hcode, hnvme⟩ := hstill
  refine ⟨hcur1.trans hcur, fun ⟨c, hc, hlive⟩ => ?_⟩
  have hold : t.ctxs.get? t.cur = some c := hcur ▸ (fades_raiseJob ..).live hc hlive
  have hme : t.me = c := me_of_get? hold
  rw [hme] at hcur1 hloc hscratch hcode hnvme hc ⊢
  rcases raiseJob_own (u := u) x know src hold horigin with hctxs | hdead
  · have hregs : (t.raiseJob c.job c.vcore u x know src).me = t.me := me_congr hctxs hcur1
    rw [← hview]
    refine ⟨hcur1, ?_, ?_, fun _ _ => ?_, fun _ => ?_, fun _ _ => ?_, fun _ => hloc, hscratch, hcode, hnvme, fun hf => by simp [hfar] at hf⟩
    · simp only [view, hcur1, hctxs]
    all_goals simp only [view, hregs, and_self]
  · exact absurd ⟨c, hcur ▸ hc, hlive⟩ hdead

/-! ## The instructions within their frame -/

section
variable {p : Change} {s : State}

/-- A result of a longer latency changes no register yet. -/
theorem view_wr_later (s : State) (d : Name) (v : Word) {latency : Nat} (h : 2 ≤ latency) : view (wr s d v latency) = view s := by
  cases ht : targetOf s.me d with
  | none => rw [wr_of_no_target ht]
  | some t => rw [wr_pending ht v (by omega)]; exact view_setMe_of rfl

/-- An effect that leaves what is framed. -/
theorem resWithin_same {t : State} (fl : Flow) (h : view t = view s) : ResWithin p s (.ok (t, fl)) := resWithin_ok fl (.of_eq h)

theorem resWithin_fallSame {t : State} (h : view t = view s) : ResWithin p s (fall t) := resWithin_same .next h

/-- A result written after such an effect. -/
theorem resWithin_wr {t : State} {d : Name} (v : Word) (latency : Nat) (h : view t = view s) (hd : p.d = d) : ResWithin p s (fall (wr t d v latency)) :=
  resWithin_fall (h ▸ allowed_wr t v latency hd)

theorem resWithin_flagged {d : Name} (v : Word) (latency bits : Nat) (hd : p.d = d) (hf : p.flags = true ∨ bits = 0) :
    ResWithin p s (fall (setFlags (wr s d v latency) bits)) :=
  resWithin_fall ((allowed_wr s v latency hd).trans (allowed_setFlags _ bits hf))

theorem two_within {d a b : Name} {m : Mark} {latency : Nat} {f : Word → Word → Word} (hd : p.d = d) :
    StepWithin p s (two d a b m latency f s) :=
  within_issue32 (resWithin_bind fun _ => resWithin_bind fun _ => resWithin_bind fun _ => resWithin_bind fun _ => resWithin_wr _ _ rfl hd)

theorem one_within {d a : Name} {m : Mark} {f : Word → Word} (hd : p.d = d) : StepWithin p s (one d a m f s) :=
  within_issue32 (resWithin_bind fun _ => resWithin_bind fun _ => resWithin_bind fun _ => resWithin_wr _ _ rfl hd)

theorem twoFlagged_within {d a b : Name} {m : Mark} {latency : Nat} {f : Word → Word → Flagged} (hd : p.d = d) (hf : p.flags = true) :
    StepWithin p s (twoFlagged d a b m latency f s) :=
  within_issue32 (resWithin_bind fun _ => resWithin_bind fun _ => resWithin_bind fun _ => resWithin_bind fun _ =>
    resWithin_flagged _ _ _ hd (.inl hf))

theorem oneFlagged_within {d a : Name} {m : Mark} {latency : Nat} {f : Word → Flagged} (hd : p.d = d) (hf : p.flags = true) :
    StepWithin p s (oneFlagged d a m latency f s) :=
  within_issue32 (resWithin_bind fun _ => resWithin_bind fun _ => resWithin_bind fun _ => resWithin_flagged _ _ _ hd (.inl hf))

theorem three_within {d a b : Name} {m : Mark} {latency : Nat} {f : Word → Word → Word → Flagged} (hd : p.d = d)
    (hf : ∀ z x y, p.flags = true ∨ (f z x y).2 = 0) : StepWithin p s (three d a b m latency f s) :=
  within_issue32 (resWithin_bind fun _ => resWithin_bind fun _ => resWithin_bind fun _ => resWithin_bind fun _ => resWithin_bind fun _ =>
    resWithin_flagged _ _ _ hd (hf _ _ _))

theorem division_within {d a b : Name} {m : Mark} {f : Word → Word → Flagged} : StepWithin p s (division d a b m f s) :=
  within_issue32 (resWithin_bind fun _ => resWithin_bind fun _ => resWithin_bind fun _ => resWithin_bind fun _ =>
    resWithin_fallSame (view_startOp ..))

theorem immForm_within {d a : Name} {i : BitVec 10} {m : Mark} {f : Word → Word → Word} (hd : p.d = d) : StepWithin p s (immForm d a i m f s) :=
  within_issue (resWithin_bind fun _ => resWithin_bind fun _ => resWithin_bind fun _ => resWithin_bind fun _ => resWithin_wr _ _ rfl hd)

theorem movi_within {d : Name} {i : BitVec 16} {m : Mark} (hd : p.d = d) : StepWithin p s (execMovi d i m s) :=
  within_issue (resWithin_bind fun _ => resWithin_bind fun _ => resWithin_wr _ _ rfl hd)

/-! ### Control -/

theorem branchIf_within (c : Bool) (off : Int) : ResWithin p s (branchIf c s off) := by
  unfold branchIf
  split
  · exact resWithin_bind fun _ => resWithin_same _ rfl
  · exact resWithin_fallSame rfl

theorem branch_within {a b : Name} {o : BitVec 10} {m : Mark} {f : Word → Word → Bool} : StepWithin p s (branch a b o m f s) :=
  within_issue32 (resWithin_bind fun _ => resWithin_bind fun _ => resWithin_bind fun _ => branchIf_within _ _)

theorem jumpTo_within (t : Word) : ResWithin p s (jumpTo s t) := by
  unfold jumpTo
  split
  · exact resWithin_raise _ _
  · exact resWithin_bind fun _ => resWithin_same _ rfl

theorem returnTo_within : ResWithin p s (returnTo s) := resWithin_bind fun _ => jumpTo_within _

theorem jmp_within {o : BitVec 22} {m : Mark} : StepWithin p s (execJmp o m s) := within_issue32 (resWithin_bind fun _ => resWithin_same _ rfl)

theorem call_within {o : BitVec 22} {m : Mark} (hd : p.d = .s 31) : StepWithin p s (execCall o m s) :=
  within_issue32 (resWithin_bind fun _ => resWithin_ok _ (allowed_writeLink s _ hd))

theorem ctlTrap_within {a : Name} {m : Mark} : StepWithin p s (execCtlTrap a m s) :=
  within_issue32 (resWithin_bind fun _ => resWithin_bind fun _ => resWithin_raise _ _)

theorem loop_within {a : Name} {i : BitVec 10} {m : Mark} : StepWithin p s (execLoop a i m s) := by
  refine within_issue32 (resWithin_bind fun _ => resWithin_bind fun n => ?_)
  dsimp only
  split
  · exact resWithin_same _ rfl
  · exact resWithin_bind fun _ => resWithin_same _ (view_setMe_of rfl)

theorem fence_within {k : FenceKind} {c : Scope} {a b : BitVec 7} {m : Mark} : StepWithin p s (execFence k c a b m s) := by
  have body : StepWithin p s (issue32 m s (fall (addFence k b.toNat a.toNat c s))) := within_issue32 (resWithin_fallSame (view_addFence ..))
  unfold execFence
  dsimp only
  split
  · exact within_issue32 (resWithin_error _)
  · exact body
  · exact within_parkAfter body
  · exact within_parkAfter body

theorem within_next {t : State} (h : view t = view s) : StepWithin p s (.next t) := by
  intro u e _
  cases e
  exact .of_eq h

theorem within_trap {x : Trap} {seg : Nat × Nat} {n : Nat} : StepWithin p s (.next { s.trapNow s.cur x seg with free := n }) := by
  intro u e hlive
  cases e
  exact absurd hlive not_lives_trapNow

theorem limm_within {i : BitVec 22} : StepWithin p s (execLimm i s) := by
  unfold execLimm
  dsimp only
  split <;> split
  · exact within_next (view_setMe_of (s := s) rfl)
  · exact within_trap
  · exact within_next (view_setMe_of (s := s) rfl)
  · exact within_trap

/-! ### Local memory and the scratchpad -/

theorem loadLocal_within {d : Name} {ea : Int} {size : Nat} {x q : Bool} (hd : p.d = d) : ResWithin p s (loadLocal d ea size x q s) := by
  refine resWithin_bind fun addr => ?_
  dsimp only
  split
  · have hnote (c : Ctx) (op : Nat) (seg : Nat × Nat) (t : Trap) : regsOf (c.noteFault op seg t) = regsOf c := by
      unfold Ctx.noteFault
      split
      · split <;> rfl
      · rfl
    refine resWithin_fallSame (view_setMe_of (s := { s with serial := s.serial + 1 }) ?_)
    split
    · exact hnote ..
    · exact hnote ..
  · split
    · exact resWithin_fall ((allowed_wr s _ 3 hd).trans (.of_eq (view_setMe_of rfl)))
    · exact resWithin_wr _ _ rfl hd

theorem storeLocal_within {d : Name} {ea : Int} {size : Nat} {q : Bool} (hl : p.loc = true) : ResWithin p s (storeLocal d ea size q s) :=
  resWithin_bind fun _ => resWithin_bind fun _ => resWithin_bind fun _ => resWithin_fall (allowed_storeLocal s _ _ _ _ _ _ hl)

theorem ldl_within {d a : Name} {o : BitVec 6} {z : Size} {x q : Bool} {m : Mark} (hd : p.d = d) : StepWithin p s (execLdl d a o z x q m s) :=
  within_issue (resWithin_bind fun _ => resWithin_bind fun _ => resWithin_bind fun _ => resWithin_bind fun _ => loadLocal_within hd)

theorem stl_within {d a : Name} {o : BitVec 6} {z : Size} {q : Bool} {m : Mark} (hl : p.loc = true) : StepWithin p s (execStl d a o z q m s) :=
  within_issue (resWithin_bind fun _ => resWithin_bind fun _ => resWithin_bind fun _ => resWithin_bind fun _ => storeLocal_within hl)

theorem ldt_within {d a : Name} {o : BitVec 6} {z : Size} {x q : Bool} {m : Mark} : StepWithin p s (execLdt d a o z x q m s) := by
  refine within_issue (resWithin_bind fun _ => resWithin_bind fun _ => resWithin_bind fun _ => resWithin_bind fun _ => resWithin_bind fun _ =>
    resWithin_bind fun _ => resWithin_fallSame ?_)
  split
  · exact (view_setMe_of (by rfl)).trans (view_startOp ..)
  · exact view_startOp ..

theorem stt_within {d a : Name} {o : BitVec 6} {z : Size} {q : Bool} {m : Mark} : StepWithin p s (execStt d a o z q m s) :=
  within_issue (resWithin_bind fun _ => resWithin_bind fun _ => resWithin_bind fun _ => resWithin_bind fun _ => resWithin_bind fun _ =>
    resWithin_bind fun _ => resWithin_bind fun _ => resWithin_fallSame rfl)

/-! ### Masks, the vector unit and the SFU -/

theorem vectorIssue_within {i : Instr} {k : Fin 4} {ok : Bool} {regs srcs : List Nat} {sr : List (Fin 32)} {tgts : List Target} {sp : VSpace} :
    ResWithin p s (Machine.vectorIssue i k ok regs srcs sr tgts sp s) := by
  refine resWithin_bind fun _ => resWithin_bind fun _ => resWithin_bind fun _ => resWithin_bind fun _ => resWithin_bind fun _ =>
    resWithin_bind fun _ => ?_
  cases sp with
  | none_ => exact resWithin_fallSame (by simp)
  | local_ => exact resWithin_bind fun _ => resWithin_fallSame (by simp)
  | tile => exact resWithin_bind fun _ => resWithin_fallSame (by simp)

theorem sfuIssue_within {i : Instr} {d a : Fin 32} {k : Fin 4} {m : Mark} : StepWithin p s (Machine.sfuIssue i d a k m s) :=
  within_issueStart (resWithin_bind fun _ => resWithin_bind fun _ => resWithin_bind fun _ => resWithin_fallSame (by simp))

theorem maskTwo_within {d a b : Fin 8} {m : Mark} {f : MaskReg → MaskReg → MaskReg} : StepWithin p s (maskTwo d a b m f s) :=
  within_issue32 (resWithin_bind fun _ => resWithin_bind fun _ => resWithin_bind fun _ => resWithin_fallSame (view_wrK ..))

theorem maskOne_within {d a : Fin 8} {m : Mark} {f : MaskReg → MaskReg} : StepWithin p s (maskOne d a m f s) :=
  within_issue32 (resWithin_bind fun _ => resWithin_bind fun _ => resWithin_fallSame (view_wrK ..))

theorem maskScalar_within {d : Fin 32} {a : Fin 8} {m : Mark} {f : MaskReg → Nat} : StepWithin p s (maskScalar d a m f s) :=
  within_issue32 (resWithin_bind fun _ => resWithin_fallSame (view_wr_later s _ _ (by decide)))

theorem kset_within {d : Fin 8} {a b : Fin 32} {m : Mark} : StepWithin p s (execKset d a b m s) :=
  within_issue32 (resWithin_bind fun _ => resWithin_bind fun _ => resWithin_bind fun _ => resWithin_fallSame (view_wrK ..))

/-! ### Sends, weight and requests -/

theorem sendWith_within {a b : Name} {o rop : Bool} : ResWithin p s (sendWith a b o rop s) :=
  resWithin_bind fun _ => resWithin_bind fun _ => resWithin_bind fun _ => resWithin_bind fun _ =>
    resWithin_takeWeight fun _ h => resWithin_fallSame (by simp [h])

theorem sendHalf_within {a : Name} {o : Bool} : ResWithin p s (sendHalf a o s) :=
  resWithin_bind fun _ => resWithin_bind fun _ => resWithin_takeWeight fun _ h => resWithin_fallSame (by simp [h])

theorem sendDraw_within {a b : Name} {o : Bool} {m : Mark} : StepWithin p s (execSendDraw a b o m s) := by
  refine within_issue32 (resWithin_bind fun _ => resWithin_bind fun x => resWithin_bind fun _ => resWithin_bind fun w => ?_)
  dsimp only
  split
  · exact resWithin_bind fun _ => resWithin_joinHold fun _ h => resWithin_fallSame (by simp [h])
  · exact resWithin_joinHold fun _ h => resWithin_fallSame (by simp [h])

theorem wtotal_within {d : Name} {m : Mark} (hd : p.d = d) : StepWithin p s (execWgtWtotal d m s) :=
  within_issue32 (resWithin_bind fun _ => resWithin_bind fun _ => resWithin_wr _ _ rfl hd)

theorem wget_within {d : Name} {m : Mark} (hd : p.d = d) : StepWithin p s (execWgtWget d m s) :=
  within_issue32 (resWithin_bind fun _ => resWithin_wr _ _ rfl hd)

theorem wret_within {a : Name} {m : Mark} : StepWithin p s (execWgtWret a m s) :=
  within_issue32 (resWithin_bind fun _ => resWithin_bind fun _ => resWithin_takeWeight fun _ h => resWithin_fallSame (by simp [h]))

theorem qarm_within {a b : Name} {m : Mark} : StepWithin p s (execWgtQarm a b m s) :=
  within_issue32 (resWithin_bind fun _ => resWithin_bind fun _ => resWithin_bind fun _ => resWithin_bind fun _ => resWithin_bind fun _ =>
    resWithin_bind fun _ => resWithin_joinHold fun _ h => resWithin_fallSame (by simp [h]))

theorem qdisarm_within {m : Mark} : StepWithin p s (execWgtQdisarm m s) :=
  within_issue32 (resWithin_bind fun _ => resWithin_bind fun _ => resWithin_joinHold fun _ h => resWithin_fallSame (by simp [h]))

/-- A request whose access is not counted. -/
theorem view_withAccs (t : State) (l : List Acc) : view { t with accs := l } = view t := rfl

theorem homeRequest_within {kind : ReqKind} {noMsg : Bool} {a b : Name} : ResWithin p s (homeRequest kind noMsg a b s) :=
  resWithin_bind fun _ => resWithin_bind fun _ => resWithin_bind fun _ => resWithin_bind fun _ => resWithin_bind fun _ =>
    resWithin_bind fun _ => resWithin_takeWeight fun _ h => resWithin_fallSame (by simp [view_withAccs, h])

theorem blockTransfer_within {w : Bool} {a b : Name} {q l : Bool} : ResWithin p s (blockTransfer w a b q l s) :=
  resWithin_bind fun _ => resWithin_bind fun _ => resWithin_bind fun _ => resWithin_bind fun _ => resWithin_bind fun _ =>
    resWithin_bind fun _ => resWithin_bind fun _ => resWithin_takeWeight fun _ h => resWithin_fallSame (by simp [h])

theorem nearWith_within {f : Nat} {a b : Name} : ResWithin p s (nearWith f a b s) :=
  resWithin_bind fun _ => resWithin_bind fun _ => resWithin_bind fun _ => resWithin_bind fun _ => resWithin_bind fun _ =>
    resWithin_bind fun _ => resWithin_bind fun _ => resWithin_bind fun _ => resWithin_bind fun _ =>
    resWithin_takeWeight fun _ h => resWithin_fallSame (by simp [h])

theorem futureWith_within {f : Nat} {a b : Name} : ResWithin p s (futureWith f a b s) :=
  resWithin_bind fun _ => resWithin_bind fun _ => resWithin_bind fun _ => resWithin_bind fun _ => resWithin_bind fun _ =>
    resWithin_bind fun _ => resWithin_bind fun _ => resWithin_takeWeight fun _ h => resWithin_fallSame (by simp [h])

theorem defineWith_within {n cmAt : Nat} {kind : List Word → ReqKind} {check : Job → List Word → Except Stop Unit}
    {root : Job → List Word → Option Nat} {a b : Name} : ResWithin p s (defineWith n cmAt kind check root a b s) :=
  resWithin_bind fun _ => resWithin_bind fun _ => resWithin_bind fun _ => resWithin_bind fun _ => resWithin_bind fun _ =>
    resWithin_bind fun _ => resWithin_bind fun _ => resWithin_takeWeight fun _ h => resWithin_fallSame (by simp [h])

theorem contextRequest_within {n cmAt : Nat} {ok : List Word → Bool} {kind : List Word → ReqKind} {a b : Name} :
    ResWithin p s (contextRequest n cmAt ok kind a b s) :=
  resWithin_bind fun _ => resWithin_bind fun _ => resWithin_bind fun _ => resWithin_bind fun _ => resWithin_bind fun _ =>
    resWithin_bind fun _ => resWithin_bind fun _ => resWithin_bind fun _ => resWithin_bind fun _ =>
    resWithin_takeWeight fun _ h => resWithin_fallSame (by simp [h])

theorem launch_within {a b : Name} {m : Mark} : StepWithin p s (execLaunch a b m s) :=
  within_issue32 (resWithin_bind fun _ => resWithin_bind fun _ => resWithin_bind fun _ => resWithin_bind fun _ => resWithin_bind fun _ =>
    resWithin_bind fun _ => resWithin_bind fun _ => resWithin_bind fun _ => resWithin_takeWeight fun _ h => resWithin_fallSame (by simp [h]))

theorem gst_within {d a : Name} {o : BitVec 6} {z : Size} {q : Bool} {m : Mark} : StepWithin p s (execGst d a o z q m s) := by
  refine within_issue (resWithin_bind fun _ => resWithin_bind fun _ => resWithin_bind fun _ => resWithin_bind fun base => ?_)
  dsimp only
  split
  · exact resWithin_bind fun _ => resWithin_bind fun _ => resWithin_bind fun _ => resWithin_joinHold fun _ h => resWithin_fallSame (by simp [h])
  · exact resWithin_bind fun _ => resWithin_bind fun _ => resWithin_joinHold fun _ h => resWithin_fallSame (by simp [h])

/-! ### Commands of the tile -/

theorem copyWith_within {walk : Bool} {d a b : Name} (hd : p.d = d) : ResWithin p s (copyWith walk d a b s) := by
  refine resWithin_bind fun _ => resWithin_bind fun _ => resWithin_bind fun _ => resWithin_bind fun _ => resWithin_bind fun _ =>
    resWithin_bind fun _ => resWithin_bind fun _ => resWithin_bind fun _ => resWithin_takeWeight fun t h => ?_
  dsimp only
  split
  · exact resWithin_wr _ _ rfl hd
  · exact resWithin_wr _ _ (by simp [h]) hd

theorem cqry_within {d a : Name} {m : Mark} (hd : p.d = d) : StepWithin p s (execCqry d a m s) :=
  within_issue32 (resWithin_bind fun _ => resWithin_bind fun _ => resWithin_bind fun _ => resWithin_wr _ _ rfl hd)

theorem cpyCancel_within {d a : Name} {m : Mark} (hd : p.d = d) : StepWithin p s (execCpyCancel d a m s) :=
  within_issue32 (resWithin_bind fun _ => resWithin_bind fun _ => resWithin_bind fun _ =>
    resWithin_fall ((allowed_wr s _ 1 hd).trans (.of_eq (view_cancelCopy ..))))

theorem tmm_within {d a b : Name} {m : Mark} (hd : p.d = d) : StepWithin p s (execTmm d a b m s) := by
  refine within_issue32 (resWithin_bind fun _ => resWithin_bind fun _ => resWithin_bind fun _ => resWithin_bind fun _ => resWithin_bind fun _ =>
    resWithin_bind fun _ => resWithin_bind fun _ => resWithin_bind fun _ => resWithin_takeWeight fun t h => ?_)
  dsimp only
  split
  · exact resWithin_wr _ _ rfl hd
  · exact resWithin_wr _ _ (by simp [h]) hd

theorem xchg_within {d a b : Name} {m : Mark} (hd : p.d = d) : StepWithin p s (execXchg d a b m s) := by
  refine within_issue32 (resWithin_bind fun _ => resWithin_bind fun _ => resWithin_bind fun _ => resWithin_bind fun _ => resWithin_bind fun _ =>
    resWithin_bind fun _ => resWithin_bind fun _ => resWithin_bind fun _ => resWithin_takeWeight fun t h => ?_)
  dsimp only
  split
  · exact resWithin_wr _ _ rfl hd
  · exact resWithin_wr _ _ (by simp [h]) hd

theorem tstat_within {d a : Name} {m : Mark} (hd : p.d = d) : StepWithin p s (execTstat d a m s) :=
  within_issue32 (resWithin_bind fun _ => resWithin_bind fun _ => resWithin_bind fun _ => resWithin_wr _ _ rfl hd)

theorem tabort_within {d a : Name} {m : Mark} (hd : p.d = d) : StepWithin p s (execTabort d a m s) := by
  refine within_issue32 (resWithin_bind fun _ => resWithin_bind fun _ => resWithin_bind fun _ => resWithin_wr _ _ ?_ hd)
  split
  · rfl
  · exact view_abortJob ..

/-! ### Trigger counters -/

theorem trgPost_within {d a b : Name} {m : Mark} (hd : p.d = d) : StepWithin p s (execTrgPost d a b m s) := by
  refine within_issue32 (resWithin_bind fun _ => resWithin_bind fun _ => resWithin_bind fun _ => resWithin_bind fun _ => resWithin_bind fun _ =>
    resWithin_bind fun _ => resWithin_bind fun _ => resWithin_bind fun _ => resWithin_takeWeight fun t h => ?_)
  dsimp only
  split
  · exact resWithin_raise _ _
  · exact resWithin_wr _ _ (Eq.trans (b := view t) rfl h) hd

theorem trgAdd_within {a b : Name} {m : Mark} : StepWithin p s (execTrgAdd a b m s) := by
  refine within_issue32 (resWithin_bind fun _ => resWithin_bind fun _ => resWithin_bind fun _ => resWithin_bind fun _ => resWithin_bind fun _ => ?_)
  split
  · exact resWithin_bind fun _ => resWithin_joinHold fun _ h => resWithin_fallSame (by simp [h])
  · exact resWithin_bind fun _ => resWithin_fallSame (by simp)

theorem trgRead_within {d a : Name} {m : Mark} (hd : p.d = d) : StepWithin p s (execTrgRead d a m s) :=
  within_issue32 (resWithin_bind fun _ => resWithin_bind fun _ => resWithin_bind fun _ => resWithin_bind fun _ => resWithin_bind fun _ =>
    resWithin_wr _ _ rfl hd)

theorem trgCancel_within {d a : Name} {m : Mark} (hd : p.d = d) : StepWithin p s (execTrgCancel d a m s) :=
  within_issue32 (resWithin_bind fun _ => resWithin_bind fun _ => resWithin_bind fun _ =>
    resWithin_fall ((allowed_wr s _ 2 hd).trans (.of_eq (view_updTile ..))))

theorem trgAlloc_within {d : Name} {m : Mark} (hd : p.d = d) : StepWithin p s (execTrgAlloc d m s) := by
  refine within_issue32 (resWithin_bind fun _ => ?_)
  split
  · exact resWithin_wr _ _ (view_setCounter ..) hd
  · exact resWithin_wr _ _ rfl hd

theorem trgFree_within {a : Name} {m : Mark} : StepWithin p s (execTrgFree a m s) := by
  refine within_issue32 (resWithin_bind fun _ => resWithin_bind fun _ => resWithin_bind fun _ => ?_)
  split
  · exact resWithin_fallSame (by simp)
  · exact resWithin_fallSame rfl

/-! ### Reductions, system instructions and hints -/

theorem view_ownPart (t : State) (src : Endpoint) (job nid : Nat) (x : Partial) : view (t.ownPart src job nid x) = view t := by
  unfold State.ownPart
  split
  · rfl
  · split
    · exact view_pod ..
    · split
      · exact (view_pod ..).trans (view_updJob ..)
      · exact view_updJob ..

theorem queueNred_within {t : State} (j : Job) (b : List Word) (v : Nat) (h : view t = view s) (hfar : p.far = true) :
    ResWithin p s (fall (queueNred t.issuer j b v t)) := by
  unfold queueNred
  dsimp only
  split
  · exact resWithin_fallSame (by simp [h])
  · split
    · exact resWithin_raiseJob _ _ _ h hfar (show (2 : Nat) ≠ 3 by decide)
    · split
      · exact resWithin_fallSame (by simp [view_ownPart, h])
      · exact resWithin_fallSame (by simp [h])

theorem nred_within {a b : Name} {m : Mark} (hfar : p.far = true) : StepWithin p s (execNred a b m s) :=
  within_issue32 (resWithin_bind fun _ => resWithin_bind fun _ => resWithin_bind fun _ => resWithin_bind fun _ => resWithin_bind fun _ =>
    resWithin_bind fun _ => resWithin_bind fun _ => resWithin_takeWeight fun _ h => queueNred_within _ _ _ h hfar)

theorem sysMfs_within {d a : Name} {m : Mark} (hd : p.d = d) : StepWithin p s (execSysMfs d a m s) :=
  within_issue32 (resWithin_bind fun _ => resWithin_bind fun _ => resWithin_bind fun _ => resWithin_bind fun _ => resWithin_bind fun _ =>
    resWithin_bind fun _ => resWithin_wr _ _ rfl hd)

theorem sysMts_within {a b : Name} {m : Mark} (hsys : p.sys = true) : StepWithin p s (execSysMts a b m s) :=
  within_issue32 (resWithin_bind fun _ => resWithin_bind fun _ => resWithin_bind fun _ => resWithin_bind fun _ => resWithin_bind fun _ =>
    resWithin_bind fun _ => resWithin_bind fun _ => resWithin_bind fun _ => resWithin_bind fun _ =>
    resWithin_fall (allowed_sysWrite s _ _ _ _ hsys))

theorem sysHalt_within {a : Name} {m : Mark} : StepWithin p s (execSysHalt a m s) :=
  within_issue32 (resWithin_bind fun _ => resWithin_bind fun _ => resWithin_bind fun _ => resWithin_fallSame rfl)

theorem sysnote_within {a b : Name} {m : Mark} : StepWithin p s (execSysSysnote a b m s) :=
  within_issue32 (resWithin_bind fun _ => resWithin_bind fun _ => resWithin_bind fun _ => resWithin_fallSame rfl)

theorem spref_within {a b : Name} {m : Mark} (hfar : p.far = true) : StepWithin p s (execSpref a b m s) := by
  refine within_issue32 (resWithin_bind fun _ => resWithin_bind fun _ => resWithin_bind fun _ => resWithin_bind fun _ => resWithin_bind fun _ => ?_)
  split
  · exact resWithin_fallSame rfl
  · exact resWithin_fall (allowed_hint (hintOnly_hintRange ..) hfar)

/-! ### Compact forms -/

theorem compactTwo_within {x : Fin 32} {y : BitVec 4} {mark : Bool} {f : Word → Word → Word} (hd : p.d = .s x) :
    StepWithin p s (compactTwo x y mark f s) := within_issue16 (resWithin_bind fun _ => resWithin_bind fun _ => resWithin_wr _ _ rfl hd)

theorem compactOne_within {x : Fin 32} {mark : Bool} {f : Word → Word} (hd : p.d = .s x) : StepWithin p s (compactOne x mark f s) :=
  within_issue16 (resWithin_bind fun _ => resWithin_wr _ _ rfl hd)
end

/-! ## The frame of every instruction -/

/-- A store to local memory. -/
def storesLocal : Instr → Bool
  | .stl .. | .compactStlD .. => true
  | _ => false

/-- A page hint or a contribution to a reduction. -/
def reachesFar : Instr → Bool
  | .spref .. | .nred .. => true
  | _ => false

def writesSys : Instr → Bool
  | .sysMts .. => true
  | _ => false

/-- What an instruction may change when it issues. -/
def changeOf (i : Instr) : Change := ⟨Stated.destination i, Stated.setsFlags i, writesSys i, storesLocal i, reachesFar i⟩

theorem exec_within (i : Instr) (s : State) (h : i.word ≠ none) : StepWithin (changeOf i) s (exec i s) := by
  cases i with
  | aluAdd | aluSub | aluAnd | aluOr | aluXor | aluAndn | aluShl | aluShr | aluSra | aluRot | aluMin | aluMax | aluMinu
  | aluMaxu | aluSlt | aluSltu | alu2Seq | alu2Sne | alu2Mul | alu2Mulh | alu2Mulhu | alu3Bext | alu3Absdiff =>
    exact two_within rfl
  | alu2Clz | alu2Ctz | alu2Popc | alu2SextB | alu2SextH | alu2SextW | alu2ZextB | alu2ZextH | alu2ZextW | shiShl | shiShr
  | shiSra | shiRot =>
    exact one_within rfl
  | alu2Div | alu2Divu | alu3Rem | alu3Remu => exact division_within
  | alu3Sel | alu3Bins =>
    refine three_within rfl fun _ _ _ => .inr ?_
    rfl
  | ffma => exact three_within rfl fun _ _ _ => .inl rfl
  | alu3Addsat | alu3Subsat | fpFadd | fpFsub | fpFmul | fpFmin | fpFmax | fpFeq | fpFlt | fpFle => exact twoFlagged_within rfl rfl
  | addi | andi | ori | xori => exact immForm_within rfl
  | slti => rw [exec_slti, execSlti]; exact immForm_within rfl
  | sltiu => rw [exec_sltiu, execSltiu]; exact immForm_within rfl
  | movi => exact movi_within rfl
  | beq | bne | blt | bge | bltu | bgeu => exact branch_within
  | jmp => exact jmp_within
  | call => exact call_within rfl
  | ctlJr => exact within_issue32 (resWithin_bind fun _ => resWithin_bind fun _ => jumpTo_within _)
  | ctlRet => exact within_issue32 returnTo_within
  | ctlEnd => exact within_releaseNext (within_issue32 (resWithin_fallSame (view_ending s)))
  | ctlNop => exact within_issue32 (resWithin_fallSame rfl)
  | ctlTrap => exact ctlTrap_within
  | loop => exact loop_within
  | fence => exact fence_within
  | limm => exact limm_within
  | ldl => exact ldl_within rfl
  | stl => exact stl_within rfl
  | ldt => exact ldt_within
  | stt => exact stt_within
  | fpFabs | fpFneg | fpFcvtF2i | fpFcvtF2u | fpFsqrt | fpFcvtI2f | fpFcvtU2f | fpFclass => exact oneFlagged_within rfl rfl
  | vadd | vsub | vmul | vmin | vmax | vand | vor | vxor | vandn | vshl | vshr | vsra | vrot | vsel | vperm | vrcpr | vrsqr
  | vaddsat | vsubsat | vmulh | vabsdiff | vfma | vcvtNarrow | vdot | vslide | vext | vldT | vldL | vldxT | vstT | vstL
  | vstxT | vtqnt | vtchk | vabs | vneg | vmov | vcvtSame | vrnd | vfloor | vtpack | vtunp | vceq | vclt | vcle | vcne
  | vcvtWiden2 | vcvtWiden4 | vredsum | vredmax | vredmin =>
    exact within_issueStart vectorIssue_within
  | vbcast | vzero | vins => exact within_issue32 vectorIssue_within
  | vrcp | vrsq | vexp2 | vlog2 | vsin | vcos | vtanh | vsigm => exact sfuIssue_within
  | kand | kor | kxor => exact maskTwo_within
  | knot | kmv => exact maskOne_within
  | kpop | kfirst => exact maskScalar_within
  | kset => exact kset_within
  | send | sendRop => exact within_issue32 sendWith_within
  | sendHalf => exact within_issue32 sendHalf_within
  | sendDraw => exact sendDraw_within
  | wgtWget => exact wget_within rfl
  | wgtWtotal => exact wtotal_within rfl
  | wgtWret => exact wret_within
  | wgtQarm => exact qarm_within
  | wgtQdisarm => exact qdisarm_within
  | wgtWcensus => exact within_issue32 (resWithin_bind fun _ => homeRequest_within)
  | wgtWloss => exact within_issue32 homeRequest_within
  | grd | gwr => exact within_issue32 blockTransfer_within
  | gst => exact gst_within
  | nearAtomAdd | nearAtomMax | nearAtomCas | nearCas4 | nearEnq | nearChase | nearRedAddF32 | nearRedMaxF32 | nearRedAddI32
  | nearXswap =>
    exact within_issue32 nearWith_within
  | cpy | cpyWalk => exact within_issue32 (copyWith_within rfl)
  | cqry => exact cqry_within rfl
  | cpyCancel => exact cpyCancel_within rfl
  | tmm => exact tmm_within rfl
  | xchg => exact xchg_within rfl
  | tstat => exact tstat_within rfl
  | tabort => exact tabort_within rfl
  | trgPost => exact trgPost_within rfl
  | trgAdd => exact trgAdd_within
  | trgRead => exact trgRead_within rfl
  | trgCancel => exact trgCancel_within rfl
  | trgAlloc => exact trgAlloc_within rfl
  | trgFree => exact trgFree_within
  | nred => exact nred_within rfl
  | nrdef | nrfree => exact within_issue32 defineWith_within
  | fnew | fset | fwait | ffree | fpeek => exact within_issue32 futureWith_within
  | launch => exact launch_within
  | sysMfs => exact sysMfs_within rfl
  | sysMts => exact sysMts_within rfl
  | sysCtxsave | sysCtxload => exact within_issue32 contextRequest_within
  | sysHalt => exact sysHalt_within
  | sysSysnote => exact sysnote_within
  | spref => exact spref_within rfl
  | compactMov => exact within_issue16 (resWithin_bind fun _ => resWithin_wr _ _ rfl rfl)
  | compactNop => exact within_issue16 (resWithin_fallSame rfl)
  | compactAdd | compactSub | compactAnd | compactCmov => exact compactTwo_within rfl
  | compactAddi | compactShl | compactShr => exact compactOne_within rfl
  | compactLdlD => exact within_issue16 (resWithin_bind fun _ => loadLocal_within rfl)
  | compactStlD => exact within_issue16 (resWithin_bind fun _ => storeLocal_within rfl)
  | compactBeqz | compactBnez => exact within_issue16 (resWithin_bind fun _ => branchIf_within _ _)
  | compactEnd => exact within_releaseNext (within_issue16 (resWithin_fallSame (view_ending s)))
  | compactSendHalf => exact within_issue16 sendHalf_within
  | compactRet => exact within_issue16 returnTo_within
  | _ => exact absurd rfl h

/-! ## The frames of memory and registers -/

theorem storesLocal_false {i : Instr} (hstl : ∀ d a o z q m, i ≠ .stl d a o z q m) (hcompact : ∀ x y m, i ≠ .compactStlD x y m) :
    storesLocal i = false := by
  unfold storesLocal
  split
  · exact (hstl _ _ _ _ _ _ rfl).elim
  · exact (hcompact _ _ _ rfl).elim
  · rfl

theorem reachesFar_false {i : Instr} (hspref : ∀ a b m, i ≠ .spref a b m) (hnred : ∀ a b m, i ≠ .nred a b m) : reachesFar i = false := by
  unfold reachesFar
  split
  · exact (hspref _ _ _ rfl).elim
  · exact (hnred _ _ _ rfl).elim
  · rfl

theorem writesSys_false {i : Instr} (h : ∀ a b m, i ≠ .sysMts a b m) : writesSys i = false := by
  unfold writesSys
  split
  · exact (h _ _ _ rfl).elim
  · rfl

/-- Settles O46: an instruction that lives on has changed, of the memories, only what it may. -/
theorem memoryFrame : Obligations.MemoryFrame := by
  unfold Obligations.MemoryFrame
  intro i s t c hword hexec hc _ hlive hstl hcompact
  have h := exec_within i s hword t hexec ⟨c, hc, hlive⟩
  exact ⟨h.loc (storesLocal_false hstl hcompact), h.scratch, h.code, h.nvme, fun hspref hnred => h.far (reachesFar_false hspref hnred)⟩

/-- Settles O47: of the registers too. -/
theorem registerFrame : Obligations.RegisterFrame := by
  unfold Obligations.RegisterFrame
  intro i s t c hword hexec _ hc _ hlive
  have h := exec_within i s hword t hexec ⟨c, hc, hlive⟩
  have hcur : t.cur = s.cur := h.cur
  have hregs : (view t).regs = regsOf c := by rw [view, me_of_get? (hcur ▸ hc)]
  obtain ⟨hjob, hvcore, hm, hmsg, hk, hv⟩ := h.fixed
  have hs := h.s
  have hvfmt := h.vfmt
  have hfflags := h.fflags
  rw [hregs] at hjob hvcore hm hmsg hk hv hs hvfmt hfflags
  refine ⟨fun k hne => ?_, hjob, hvcore, hm, hmsg, hk, hv, hs, fun hno => ⟨hvfmt (writesSys_false hno), hfflags (writesSys_false hno)⟩⟩
  have hothers := congrFun h.others k
  simpa [view, hne, hcur] using hothers

end Sys2Proof.Laws
end

section
/-! ## Tasks start, end and overrun their budget -/

namespace Sys2Proof.Laws
open Sys2Proof.Machine Sys2Proof.Safety

/-! ### Tasks start and end (R17, R31, R144 to R146, R153, R173) -/

theorem sweepReserve_of_none {s : State} {n : Nat} {c : Core} (h : c.reserve = none) : sweepReserve s n c = c := by
  simp [sweepReserve, h]

theorem coreOf_context {n hc : Nat} (h : hc < 10) : coreOf (10 * n + hc) = n := by
  unfold coreOf
  omega

theorem tileOf_core {tile core : Nat} (h : core < 8) : tileOf (8 * tile + core) = tile := by
  unfold tileOf
  omega

theorem live_of {s : State} (hh : s.halted = none) (hr : s.inReset = false) : s.live = true := by
  simp [State.live, hh, hr]

theorem mayStart_of {s : State} {n : Nat} {x : Slot} {j : Job} {e : Word × Word} (h : Stated.MayStart s n x j e) :
    mayStart s x.msg.job = true := by
  obtain ⟨-, -, hj, hphase, hparked, hcensus, -⟩ := h
  simp [mayStart, hj, hphase, hparked, hcensus]

/-- The lowest free context is found where all below it are taken. -/
theorem freeContext_lowest {s : State} {n hc : Nat} (hlt : hc < 8) (hfree : s.ctxs.get? (10 * n + hc) = none)
    (hbelow : ∀ h, h < hc → s.ctxs.get? (10 * n + h) ≠ none) : freeContext s n = some hc := by
  unfold freeContext
  rw [List.find?_range_eq_some]
  refine ⟨by simp [hfree], List.mem_range.2 hlt, fun h hh => ?_⟩
  simpa [Option.isSome_iff_ne_none] using hbelow h hh

/-- The start of a task, whatever the core had noted of the clk before. -/
theorem startTask_started {s s' : State} {key : Nat} {j : Job} {e : Word × Word} {x : Slot}  (hctxs : s'.ctxs = s.ctxs) (hmail : (s'.core (coreOf key)).mailbox = (s.core (coreOf key)).mailbox) :
    Stated.Started s (s'.startTask key x.msg.job j e x) key j e x := by
  refine ⟨⟨newCtx s' x.msg.job j e x.msg x.vcore (coreOf key) s'.serial, ?_, rfl, rfl, rfl, rfl, rfl, fun i => ?_, rfl, rfl, rfl, rfl, rfl, rfl,
    rfl, rfl, rfl, rfl, rfl, rfl⟩, fun k hk => ?_, ?_⟩
  · exact Map.get?_set_self ..
  · simp [newCtx, argWords]
  · exact (Map.get?_set_of_ne _ _ _ _ hk).trans (by rw [hctxs])
  · simp only [State.startTask, core_updCore_self]
    rw [← hmail]
    rfl


/-- The first candidate of a core starts where its registers are there. -/
theorem startDecision_starts {s : State} {n hc : Nat} {c : Core} {x : Slot} {j : Job} {e : Word × Word} {rest : List Slot}
    (hcheck : startCheck s n c x = .ready e) (hj : s.job? x.msg.job = some j)
    (hgood : (s.tile (tileOf n)).badRoutines.contains (x.msg.job, hdrClass x.msg.hdr) = false) :
    ∃ f : Core → Core, (∀ k, (f k).mailbox = k.mailbox)
      ∧ startDecision s n hc c (x :: rest) = (s.startTask (10 * n + hc) x.msg.job j e x).updCore n f := by
  unfold startDecision
  simp only [hcheck, hj, hgood, Bool.false_eq_true, if_false]
  exact ⟨fun k => { k with
    startLast := match c.residents.find? (fun r => r.job == x.msg.job) with
      | some r => r.idx
      | none => c.startLast
    reserve := if c.reserve = some x.order then none else k.reserve }, fun _ => rfl, rfl⟩

theorem startCheck_ready {s : State} {n : Nat} {c : Core} {x : Slot} {j : Job} {e : Word × Word} (hj : s.job? x.msg.job = some j)
    (he : j.routine? (hdrClass x.msg.hdr) = some e) (hmay : mayStart s x.msg.job = true) (hgrant : grantsJob c x.msg.job = true)
    (hreserve : c.reserve = none) (hregs : rtVregs e = 0 ∨ rtVregs e + drainWants s n c ≤ freeVregs s n) :
    startCheck s n c x = .ready e := by
  unfold startCheck
  simp only [hj, he, hmay, hgrant, hreserve, Bool.not_true, Bool.or_self, Bool.false_eq_true, if_false]
  split
  · rfl
  · have hfits : rtVregs e + drainWants s n c ≤ freeVregs s n := hregs.resolve_left ‹_›
    rw [if_neg (by omega), if_neg (by omega)]

theorem Started_of_updCore {s t : State} {key : Nat} {j : Job} {e : Word × Word} {x : Slot} {f : Core → Core} (h : Stated.Started s t key j e x)
    (hf : ∀ k, (f k).mailbox = k.mailbox) : Stated.Started s (t.updCore (coreOf key) f) key j e x := by
  obtain ⟨hctx, hothers, hmail⟩ := h
  exact ⟨hctx, hothers, by rw [core_updCore_self, hf, hmail]⟩

/-- A core starts its first candidate in its lowest free context. -/
theorem execTaskStart_starts {s : State} {tile core hc : Nat} {x : Slot} {j : Job} {e : Word × Word} (hcore : core < 8) (hlt : hc < 8)
    (hclk : (s.core (8 * tile + core)).startClk ≠ some s.clk) (hreserve : (s.core (8 * tile + core)).reserve = none)
    (hfree : freeContext s (8 * tile + core) = some hc) (hfirst : (candidates s (s.core (8 * tile + core))).head? = some x)
    (hmay : Stated.MayStart s (8 * tile + core) x j e)
    (hregs : rtVregs e = 0 ∨ rtVregs e + drainWants s (8 * tile + core) (s.core (8 * tile + core)) ≤ freeVregs s (8 * tile + core)) :
    ∃ t : State, exec (.taskStart tile core) s = .next t ∧ Stated.Started s t (10 * (8 * tile + core) + hc) j e x := by
  have hstart := mayStart_of hmay
  obtain ⟨hhalt, hreset, hj, -, -, -, he, hgrant, hgood⟩ := hmay
  obtain ⟨rest, hcands⟩ := List.head?_eq_some_iff.1 hfirst
  have hcheck : startCheck (s.updCore (8 * tile + core) fun _ => { s.core (8 * tile + core) with startClk := some s.clk }) (8 * tile + core)
      (s.core (8 * tile + core)) x = .ready e := startCheck_ready hj he hstart hgrant hreserve hregs
  obtain ⟨f, hf, hdecision⟩ := startDecision_starts (hc := hc) (rest := rest) hcheck hj hgood
  rw [exec_taskStart]
  unfold execTaskStart
  simp only [sweepReserve_of_none hreserve, hfree, hcands, hdecision]
  rw [if_neg (by simp [hclk, live_of hhalt hreset]; omega)]
  have hkey : coreOf (10 * (8 * tile + core) + hc) = 8 * tile + core := coreOf_context (by omega)
  refine ⟨_, rfl, ?_⟩
  rw [show State.updCore _ (8 * tile + core) f = State.updCore _ (coreOf (10 * (8 * tile + core) + hc)) f by rw [hkey]]
  exact Started_of_updCore (startTask_started rfl (by rw [hkey, core_updCore_self])) hf

/-- A core starts its oldest remote operation in hc8. -/
theorem execRemoteOpStart_starts {s : State} {tile core : Nat} {x : Slot} {j : Job} {e : Word × Word} (hcore : core < 8)
    (hfree : s.ctxs.get? (10 * (8 * tile + core) + 8) = none)
    (hfirst : (s.core (8 * tile + core)).mailbox.find? (fun y => hdrKind y.msg.hdr == 1) = some x) (hready : x.ready ≤ s.clk)
    (hmay : Stated.MayStart s (8 * tile + core) x j e) :
    ∃ t : State, exec (.remoteOpStart tile core) s = .next t ∧ Stated.Started s t (10 * (8 * tile + core) + 8) j e x := by
  have hstart := mayStart_of hmay
  obtain ⟨hhalt, hreset, hj, -, -, -, he, hgrant, hgood⟩ := hmay
  have htile : (8 * tile + core) / 8 = tile := by omega
  rw [htile] at hgood
  rw [exec_remoteOpStart]
  unfold execRemoteOpStart
  dsimp only
  rw [if_neg (by simp [live_of hhalt hreset]; omega)]
  simp only [hfree, hfirst, hready, hstart, hgrant, decide_true, Bool.and_self, if_true, hj, he, hgood, Bool.false_eq_true, if_false]
  exact ⟨_, rfl, startTask_started rfl rfl⟩

/-- The context of the drain task of a row: its elements are in the first vector register. -/
def drainCtx (s : State) (d : DrainRow) (j : Job) (e : Word × Word) : Ctx :=
  { newCtx s d.job j e (drainMsg j d) (hdrVcore (drainMsg j d).hdr) d.core s.serial with
    v := (List.replicate (rtVregs e) 0).set 0 (BitVec.ofNat 4096 (packElems 32 d.elems)) }

theorem drainCtx_m {s : State} {d : DrainRow} {j : Job} {e : Word × Word} (i : Nat) (hi : i < 16) :
    (drainCtx s d j e).m[i] = (drainMsg j d).args.getD i 0 := by
  simp [drainCtx, newCtx, argWords]

/-- The head of a tile's drained rows starts its task in hc9. -/
theorem execDrainTaskStart_starts {s : State} {tile : Nat} {d : DrainRow} {rest : List DrainRow} {j : Job} {e : Word × Word}
    (hrows : (s.tile tile).drains = d :: rest) (hlive : s.live = true) (hj : s.job? d.job = some j) (he : j.routine? d.cls = some e)
    (hfree : s.ctxs.get? (10 * d.core + 9) = none) (hdisc : j.discarding = [])
    (hgood : (s.tile tile).badRoutines.contains (d.job, d.cls) = false) (hreserve : (s.core d.core).reserve = none)
    (hregs : rtVregs e ≤ freeVregs s d.core) :
    ∃ t : State, exec (.drainTaskStart tile) s = .next t ∧ (t.tile tile).drains = rest
      ∧ t.ctxs = s.ctxs.set (10 * d.core + 9) (drainCtx s d j e) := by
  have hfits : ¬ freeVregs s d.core < rtVregs e := by omega
  rw [exec_drainTaskStart]
  unfold execDrainTaskStart
  simp only [hrows, hj, hlive, he, hfree, hdisc, hgood, sweepReserve_of_none hreserve, hreserve, hfits, Option.isSome_none, List.any_nil,
    Bool.not_true, Bool.false_eq_true, false_and, or_self, if_false, reduceCtorEq]
  refine ⟨_, rfl, ?_, rfl⟩
  show ((s.rowHanded tile rest).tile tile).drains = rest
  exact congrArg Tile.drains (tile_updTile_self s tile _)

theorem drainMsg_weight (j : Job) (d : DrainRow) : hdrWeight (drainMsg j d).hdr = 1 := by
  simp only [hdrWeight, drainMsg, mkHdr, fieldOf, BitVec.toNat_ofNat, Nat.shiftRight_eq_div_pow]
  omega

theorem execTaskEnd_ends {s : State} {key : Nat} {c : Ctx} (hc : s.ctxs.get? key = some c) (hending : c.ending = true)
    (hdying : c.dying = false) (houts : c.outs = []) (hfault : c.startFault = none) :
    exec (.taskEnd key) s = .next (s.finishTask key) := by
  rw [exec_taskEnd]
  simp [execTaskEnd, hc, hending, State.release, Ctx.busy, houts, hdying, hfault]

theorem finishTask_others {s : State} {key k : Nat} {c : Ctx} (hc : s.ctxs.get? key = some c) (hk : k ≠ key) :
    (s.finishTask key).ctxs.get? k = s.ctxs.get? k := by
  simp only [State.finishTask, hc]
  rw [sweepDiscards_keeps State.ctxs fun _ _ _ => rfl, State.pod_ctxs]
  exact get?_del_of_ne _ hk

/-- Settles O48: each start and each end, by the equation of its event. -/
theorem taskEvents : Obligations.TaskEvents := by
  unfold Obligations.TaskEvents
  refine ⟨?starts, ?remote, ?drain, ?ends, ?budget⟩
  case starts =>
    intro s tile core hc x j e hcore hlt n hclk hreserve hfree hbelow hfirst hmay hregs
    exact execTaskStart_starts hcore hlt hclk hreserve (freeContext_lowest hlt hfree hbelow) hfirst hmay hregs
  case remote =>
    intro s tile core x j e hcore n hfree hfirst hready hmay
    exact execRemoteOpStart_starts hcore hfree hfirst hready hmay
  case drain =>
    intro s tile d rest j e hrows hhalt hreset hj he hone hfree hdisc hgood hreserve hregs
    obtain ⟨t, ht, hdrains, hctxs⟩ :=
      execDrainTaskStart_starts hrows (live_of hhalt hreset) hj he hfree hdisc hgood hreserve hregs
    refine ⟨t, drainCtx s d j e, ht, hdrains, by rw [hctxs, Map.get?_set_self], rfl, drainMsg_weight j d, rfl, drainCtx_m 0 (by decide), drainCtx_m 1 (by decide), drainCtx_m 2 (by decide),
      ?_, ?_,
      fun k hk => by rw [hctxs, Map.get?_set_of_ne _ _ _ _ hk]⟩
    · simp [drainCtx]
    · have hfirst : 0 < rtVregs e := hone
      simp [drainCtx, List.getD_eq_getElem?_getD, List.getElem?_set, hfirst]
  case ends =>
    intro s key c j hc hending hdying houts hfault hj hcensus
    refine ⟨_, execTaskEnd_ends hc hending hdying houts hfault, finishTask_ctxs hc, fun k hk => finishTask_others hc hk, fun hw => ?_⟩
    have hposts := finishTask_posts hc hj hcensus hw
    rwa [show tileOf (coreOf key) = key / 80 from Nat.div_div_eq_div_mul key 10 8] at hposts
  case budget =>
    intro s key c hc hbudget hpast hdying
    rw [exec_budgetExpiry]
    simp [execBudgetExpiry, hc, hbudget, hpast, hdying]

end Sys2Proof.Laws
end

section
/-! ## Messages are taken in, refused, sent again and acknowledged -/

namespace Sys2Proof.Laws
open Sys2Proof.Machine Sys2Proof.Safety

/-! ### The numbered lists of the state -/

/-- What `find?` gives for a number has that number. -/
theorem num_of_find? {α : Type} {g : α → Nat} {l : List α} {id : Nat} {a : α} (h : l.find? (fun x => g x == id) = some a) : g a = id := by
  simpa using List.find?_some (p := fun x => g x == id) h

/-- The element of a number once it is changed in place. -/
theorem find?_replaceIf_num {α : Type} {g : α → Nat} {l : List α} {f : α → α} {id : Nat} {a : α} (h : l.find? (fun x => g x == id) = some a)
    (hf : ∀ x, g x = id → g (f x) = id) : (replaceIf (fun x => g x == id) f l).find? (fun x => g x == id) = some (f a) := by
  have hsame : (fun x => g x == id) ∘ (fun x => if g x == id then f x else x) = fun x => g x == id := by
    funext x
    simp only [Function.comp]
    split
    · rename_i hx
      simp [hf x (by simpa using hx), by simpa using hx]
    · rfl
  rw [replaceIf, List.find?_map, hsame, h, Option.map_some, if_pos (by simpa using num_of_find? h)]

theorem find?_filter_num {α : Type} (g : α → Nat) (l : List α) (id : Nat) :
    (l.filter (fun x => g x != id)).find? (fun x => g x == id) = none := by
  simp

theorem out?_updOut {s : State} {id : Nat} {o : OutMsg} {f : OutMsg → OutMsg} (h : s.out? id = some o) (hf : ∀ x, x.id = id → (f x).id = id) :
    (s.updOut id f).out? id = some (f o) :=
  find?_replaceIf_num (g := OutMsg.id) h hf

theorem out?_dropOut (s : State) (id : Nat) : (s.dropOut id).out? id = none := find?_filter_num OutMsg.id s.outs id

theorem req?_updReq {s : State} {id : Nat} {r : Req} {f : Req → Req} (h : s.req? id = some r) (hf : ∀ x, x.id = id → (f x).id = id) :
    (s.updReq id f).req? id = some (f r) :=
  find?_replaceIf_num (g := Req.id) h hf

theorem req?_dropReq (s : State) (id : Nat) : (s.dropReq id).req? id = none := find?_filter_num Req.id s.reqs id

theorem id_of_out? {s : State} {id : Nat} {o : OutMsg} (h : s.out? id = some o) : o.id = id := num_of_find? (g := OutMsg.id) h

theorem id_of_req? {s : State} {id : Nat} {r : Req} (h : s.req? id = some r) : r.id = id := num_of_find? (g := Req.id) h

theorem packet?_of_arrived? {s : State} {id : Nat} {p : Packet} (h : s.arrived? id = some p) : s.packet? id = some p := by
  unfold State.arrived? at h
  split at h
  next q hq =>
    split at h
    · rw [← h]
      exact hq
    · cases h
  next => cases h

theorem id_of_arrived? {s : State} {id : Nat} {p : Packet} (h : s.arrived? id = some p) : p.id = id :=
  num_of_find? (g := Packet.id) (packet?_of_arrived? h)

/-! ### The jobs -/

theorem job?_setJob_self (s : State) (n : Nat) (j : Job) : (s.setJob n j).job? n = some j := Map.get?_set_self ..

theorem job?_setJob_of_ne {s : State} {n m : Nat} (j : Job) (h : m ≠ n) : (s.setJob n j).job? m = s.job? m := Map.get?_set_of_ne _ _ _ _ h

theorem updJob_of_job? {s : State} {n : Nat} {j : Job} (f : Job → Job) (h : s.job? n = some j) : s.updJob n f = s.setJob n (f j) := by
  simp [State.updJob, h]

theorem job?_congr {s t : State} (h : t.jobs = s.jobs) (n : Nat) : t.job? n = s.job? n := by
  rw [State.job?, h]
  rfl

/-! ### The packets -/

theorem posts_post (s : State) (cls : Machine.Class) (src dst : Endpoint) (job flits queue : Nat) (waits : List Nat) (b : Body) :
    Stated.Posts (s.post cls src dst job flits queue waits b) src dst b :=
  ⟨_, List.getLast?_concat, rfl, rfl, rfl, rfl⟩

theorem posts_congr {s t : State} {src dst : Endpoint} {b : Body} (h : t.packets = s.packets) (hp : Stated.Posts s src dst b) :
    Stated.Posts t src dst b := by
  unfold Stated.Posts
  rw [h]
  exact hp

theorem posts_reply (s : State) (src dst : Endpoint) (job : Nat) (b : Body) : Stated.Posts (s.reply src dst job b) src dst b := posts_post ..

/-! ### Delivery, refusal and resend of messages (R142, R143, R149 to R151, R185) -/

theorem takenIn_cores (s : State) (o : OutMsg) : (s.takenIn o).cores = s.cores := by
  unfold State.takenIn State.updJob
  split <;> rfl

theorem takenIn_packets (s : State) (o : OutMsg) : (s.takenIn o).packets = s.packets := by
  unfold State.takenIn State.updJob
  split <;> rfl

theorem takenIn_clk (s : State) (o : OutMsg) : (s.takenIn o).clk = s.clk := by
  unfold State.takenIn State.updJob
  split <;> rfl

/-- A message in its slot: VCORE names the virtual core, the other fields are those it was sent with. -/
theorem fieldOf_hdrSetVcore (h : Word) (v : Nat) :
    fieldOf (hdrSetVcore h v).toNat 0 14 = v % 2 ^ 14 ∧ fieldOf (hdrSetVcore h v).toNat 14 50 = fieldOf h.toNat 14 50 := by
  have hlt := h.isLt
  simp only [hdrSetVcore, fieldOf, BitVec.toNat_ofNat]
  omega

section
variable {s : State} {p : Packet} {o : OutMsg} {j : Job} {tile : Nat} (harr : s.arrived? p.id = some p) (hdst : p.dst = .ni tile)
  (hbody : p.body = .message o.id) (hout : s.out? o.id = some o) (hj : s.job? p.job = some j) (hhdr : p.hdrEcc = 0) (hecc : o.msg.ecc = 0)
  (hdisc : j.discarding = [])
include harr hdst hbody hout hj hhdr hecc hdisc

/-- A message that finds a slot is in it, and its sender hears of it. -/
theorem messageArrival_taken (hfree : slotFree s o.msg.job j (j.core (chooseCore s o.msg.job j o.msg tile)) (hdrKind o.msg.hdr == 3) = true) :
    exec (.messageArrival p.id) s = .next { ((((s.dropPacket p.id).takenIn o).deposit (j.core (chooseCore s o.msg.job j o.msg tile))
      (chooseCore s o.msg.job j o.msg tile) o.msg).reply (.ni tile) o.src o.msg.job (.accepted o.id (chooseCore s o.msg.job j o.msg tile))) with
      free := s.free + 1 } := by
  rw [exec_messageArrival]
  simp only [execMessageArrival, harr, hdst, hbody, hout, hj, hhdr, ne_eq, not_true, if_false, deliver, hecc, hdisc, List.any_nil, hfree,
    Bool.false_eq_true, if_true]

/-- A message that finds none is refused. -/
theorem messageArrival_refused (hfull : slotFree s o.msg.job j (j.core (chooseCore s o.msg.job j o.msg tile)) (hdrKind o.msg.hdr == 3) = false) :
    exec (.messageArrival p.id) s = .next { (((s.dropPacket p.id).updOut o.id (fun x => { x with last := chooseCore s o.msg.job j o.msg tile })).reply
      (.ni tile) o.src o.msg.job (.refused o.id)) with free := s.free + 1 } := by
  rw [exec_messageArrival]
  simp only [execMessageArrival, harr, hdst, hbody, hout, hj, hhdr, ne_eq, not_true, if_false, deliver, hecc, hdisc, List.any_nil, hfull,
    Bool.false_eq_true]
end

/-- What a deposit puts in its slot. -/
def slotOf (s : State) (v : Nat) (m : Msg) : Slot := ⟨{ m with hdr := hdrSetVcore m.hdr v }, s.clk + 1, s.serial, v⟩

theorem mailbox_deposit (s : State) (n v : Nat) (m : Msg) : ((s.deposit n v m).core n).mailbox = (s.core n).mailbox ++ [slotOf s v m] := by
  simp [State.deposit, State.core, State.updCore, slotOf]

theorem core_takenIn (s : State) (id : Nat) (o : OutMsg) (n : Nat) : ((s.dropPacket id).takenIn o).core n = s.core n :=
  core_congr (takenIn_cores _ o) n

/-- A refused message waits 16 clk, where it is not to be spilled. -/
theorem refusedHere_waits {s : State} {o : OutMsg} (h : hdrKind o.msg.hdr = 3 ∨ o.tries + 1 < 64) :
    s.refusedHere o = s.updOut o.id (fun _ => { o with state := .refused, tries := o.tries + 1, due := s.clk + 16 }) := by
  unfold State.refusedHere
  dsimp only
  rw [if_neg (by omega)]

theorem not_offered {s : State} {job id : Nat} {j : Job} (hj : s.job? job = some j) (h : j.ringOffer ≠ some id) : offered s job id = false := by
  simp [offered, hj, h]

/-- A refused message is sent again. -/
theorem messageResend_sends {s : State} {o : OutMsg} {j : Job} (hout : s.out? o.id = some o) (hj : s.job? o.msg.job = some j)
    (hstate : o.state = .refused) (hdraw : o.draw = 0) (hfar : o.far = none) (hdue : o.due ≤ s.clk) (hring : j.ringOffer ≠ some o.id)
    (hspill : hdrKind o.msg.hdr = 3 ∨ o.tries < 64) : exec (.messageResend o.id) s = .next { (s.resend o j) with free := s.free + 1 } := by
  have hno : ¬ (hdrKind o.msg.hdr ≠ 3 ∧ 64 ≤ o.tries) := by omega
  rw [exec_messageResend]
  simp [execMessageResend, hout, hj, hstate, hdraw, hfar, hdue, not_offered hj hring, if_neg hno]

/-- The home offers the oldest record of the ring. -/
theorem spillReinjectOffer_offers {s : State} {job k : Nat} {j : Job} {m : Msg} {rest : List (Nat × Msg)} (hj : s.job? job = some j)
    (hoffer : j.ringOffer = none) (hring : j.ring = (k, m) :: rest) (hecc : m.ecc = 0) :
    exec (.spillReinjectOffer job) s = .next { ((s.setJob job { j with ringOffer := some s.serial }).sendMsg m (.unit j.die)
      (.ni (messageTile s j m (.unit j.die))) 0) with free := s.free + 1 } := by
  rw [exec_spillReinjectOffer]
  simp only [execSpillReinjectOffer, hj, hoffer, hring, hecc, ne_eq, not_true, if_false]

/-! ### What a sender forgets -/

theorem doneRise_outs (s : State) (post job : Nat) (k : Know) : (s.doneRise post job k).outs = s.outs := by
  unfold State.doneRise
  split <;> rfl

theorem doneRise_jobs (s : State) (post job : Nat) (k : Know) : (s.doneRise post job k).jobs = s.jobs := by
  unfold State.doneRise
  split <;> rfl

/-- A settled message of no draw is among its sender's messages no more. -/
theorem settleOut_forgets {s : State} {o : OutMsg} (h : o.origin = 0) :
    (s.settleOut o).outs = (s.outs.filter (fun x => x.id != o.id)) ∧ (s.settleOut o).jobs = s.jobs := by
  unfold State.settleOut
  dsimp only
  rw [if_pos h, doneRise_outs, doneRise_jobs]
  exact ⟨rfl, rfl⟩

theorem censusTry_of_none {s : State} {job : Nat} {j : Job} (hj : s.job? job = some j) (h : j.census = none) : s.censusTry job = s := by
  simp [State.censusTry, hj, h]

/-- What a sender leaves that hears its message is taken in. -/
def forgetOffer (s : State) (o : OutMsg) : State :=
  if offered s o.msg.job o.id then ((s.settleOut o).updJob o.msg.job (fun j => { j with ringOffer := none })) else s.settleOut o

theorem sendAcceptReport_forgets {s : State} {p : Packet} {o : OutMsg} {j : Job} {v : Nat} (harr : s.arrived? p.id = some p)
    (hbody : p.body = .accepted o.id v) (hout : s.out? o.id = some o) (horigin : o.origin = 0) (hj : s.job? o.msg.job = some j)
    (hcensus : j.census = none) :
    ∃ t : State, exec (.sendAcceptReport p.id) s = .next t ∧ t.outs = s.outs.filter (fun x => x.id != o.id)
      ∧ ∃ j', t.job? o.msg.job = some j' ∧ j'.ringOffer ≠ some o.id := by
  obtain ⟨houts, hjobs⟩ := settleOut_forgets (s := s.dropPacket p.id) horigin
  have hj2 : ((s.dropPacket p.id).settleOut o).job? o.msg.job = some j := (job?_congr hjobs _).trans hj
  rw [exec_sendAcceptReport]
  simp only [execSendAcceptReport, harr, hbody, hout]
  by_cases hoffer : offered s o.msg.job o.id = true
  · have hj3 : (((s.dropPacket p.id).settleOut o).setJob o.msg.job { j with ringOffer := none }).job? o.msg.job
        = some { j with ringOffer := none } := job?_setJob_self ..
    rw [if_pos hoffer, updJob_of_job? _ hj2, censusTry_of_none hj3 hcensus]
    exact ⟨_, rfl, houts, _, hj3, nofun⟩
  · rw [if_neg hoffer, censusTry_of_none hj2 hcensus]
    refine ⟨_, rfl, houts, _, hj2, fun hring => hoffer ?_⟩
    simp [offered, hj, hring]

/-! ### Acknowledgements (R177, R248) -/

theorem closeHold_counts {s : State} {task : Nat} {r : TaskRec} (hr : s.tasks.get? task = some r) (h : 1 < r.holds) :
    (s.closeHold task).tasks.get? task = some { r with holds := r.holds - 1 } := by
  simp only [State.closeHold, hr, if_pos h]
  exact Map.get?_set_self ..

/-- A hold that empties once its task is gone sends its unit home. -/
theorem closeHold_closes {s : State} {task : Nat} {r : TaskRec} {j : Job} (hr : s.tasks.get? task = some r) (h : r.holds = 1)
    (hunit : r.heldUnit = true) (hgone : ∀ e ∈ s.ctxs, e.2.task ≠ task) (hj : s.job? r.job = some j) (hcensus : j.census = none) :
    s.closeHold task
      = ({ s with tasks := s.tasks.del task }).post .weight (.ni (r.core / 8)) (.unit j.die) r.job 1 0 [] (.pod r.job 1 false false) := by
  have hnone : (s.ctxs.any fun e => e.2.task == task && !e.2.dying) = false :=
    List.any_eq_false.2 fun e he => by simp [hgone e he]
  simp only [State.closeHold, hr, hnone, hunit, h, lt_self_iff_false, Bool.false_eq_true, if_false, if_true]
  exact pod_of_not_marked hj one_ne_zero fun ⟨x, hx, _⟩ => by simp [hcensus] at hx

theorem holdAck_exec {s : State} {p : Packet} {task acc : Nat} (harr : s.arrived? p.id = some p) (hbody : p.body = .holdAck task acc) :
    exec (.holdAck p.id) s = .next (((s.dropPacket p.id).performAcc acc).closeHold task) := by
  rw [exec_holdAck]
  simp only [execHoldAck, harr, hbody]

theorem accessAck_exec {s : State} {a : Acc} (ha : a ∈ s.accs) (hp : a.performed = true) :
    exec (.accessAck a.id) s = .next { s with accs := s.accs.filter (fun x => x.id != a.id) } := by
  rw [exec_accessAck, execAccessAck, if_pos (List.any_eq_true.2 ⟨a, ha, by simp [hp]⟩)]

/-- Settles O49: the arrival of a message, its refusal and resend, the ring's offer, the sender's report and the acknowledgements, in turn. -/
theorem messageEvents : Obligations.MessageEvents := by
  unfold Obligations.MessageEvents
  refine ⟨?arrival, ?refusal, ?resend, ?offer, ?report, ?hold, fun s a ha hp => ⟨_, accessAck_exec ha hp, rfl⟩⟩
  case arrival =>
    intro s p o j tile harr hdst hbody hout hj hhdr hecc hdisc v
    refine ⟨fun hfree => ?_, fun hfull => ?_⟩
    · obtain ⟨hv, hrest⟩ := fieldOf_hdrSetVcore o.msg.hdr v
      refine ⟨_, slotOf ((s.dropPacket p.id).takenIn o) v o.msg, messageArrival_taken harr hdst hbody hout hj hhdr hecc hdisc hfree, ?_, rfl, ?_,
        rfl, hv, hrest, posts_congr (by rfl) (posts_reply ..)⟩
      · exact (mailbox_deposit ..).trans (by rw [core_takenIn])
      · exact congrArg (· + 1) (takenIn_clk ..)
    · exact ⟨_, messageArrival_refused harr hdst hbody hout hj hhdr hecc hdisc hfull, rfl, posts_congr (by rfl) (posts_reply ..)⟩
  case refusal =>
    intro s p o harr hbody hout hspill
    rw [exec_messageRefusal]
    simp only [execMessageRefusal, harr, hbody, hout]
    rw [refusedHere_waits hspill]
    exact ⟨_, rfl, out?_updOut (s := s.dropPacket p.id) hout fun _ _ => rfl, rfl⟩
  case resend =>
    intro s o j hout hj hstate hdraw hfar hdue hring hspill
    refine ⟨_, messageResend_sends hout hj hstate hdraw hfar hdue hring hspill, ?_, posts_congr (by rfl) (posts_post ..)⟩
    exact out?_updOut (f := fun o => { o with state := .flying }) hout fun _ h => h
  case offer =>
    intro s job k j m rest hj hoffer hring hecc
    refine ⟨_, sentMsg s m (.unit j.die), { j with ringOffer := some s.serial }, spillReinjectOffer_offers hj hoffer hring hecc, ?_, rfl, rfl, rfl,
      ?_, rfl, rfl, posts_congr (by rfl) (posts_sendMsg ..)⟩
    · exact outs_sendMsg (s.setJob job { j with ringOffer := some s.serial }) m (.unit j.die)
        (.ni (messageTile s j m (.unit j.die)))
    · exact job?_setJob_self ..
  case report =>
    intro s p o j v harr hbody hout horigin hj hcensus
    obtain ⟨t, ht, houts, j', hj', hring⟩ := sendAcceptReport_forgets harr hbody hout horigin hj hcensus
    refine ⟨t, ht, ?_, fun q hq hne => ?_, fun j'' hj'' => ?_⟩
    · rw [State.out?, houts]
      exact find?_filter_num OutMsg.id _ _
    · rw [houts]
      exact List.mem_filter.2 ⟨hq, by simpa using hne⟩
    · cases hj'.symm.trans hj''
      exact hring
  case hold =>
    intro s p task acc r harr hbody hr
    refine ⟨fun h => ⟨_, holdAck_exec harr hbody, closeHold_counts hr h⟩, fun h hunit hgone j hj hcensus => ?_⟩
    have hclosed := closeHold_closes (s := (s.dropPacket p.id).performAcc acc) hr h hunit hgone hj hcensus
    refine ⟨_, holdAck_exec harr hbody, ?_, ?_⟩
    · rw [hclosed]
      exact get?_del _ _
    · rw [hclosed]
      exact posts_post ..

end Sys2Proof.Laws
end

section
/-! ## The clk of a home -/

namespace Sys2Proof.Laws
open Sys2Proof.Machine Sys2Proof.Safety

/-! ### The clk of a home (R260) -/

/-- A home that cannot serve its draws and is not quiescent only notes its clk. -/
theorem homeTest_idle {s : State} {job : Nat} {j : Job} (hj : s.job? job = some j) (hdraw : ∀ d ∈ j.drawq.head?, j.homew < d.units)
    (hq : j.quiescent = false) : s.homeTest job = s.setJob job { j with homeAt := some s.clk } := by
  have hset := job?_setJob_self s job { j with homeAt := some s.clk }
  have hserve : (s.setJob job { j with homeAt := some s.clk }).serveDraw job = s.setJob job { j with homeAt := some s.clk } := by
    simp only [State.serveDraw, hset]
    split
    next d rest hd =>
      have hd' : j.drawq = d :: rest := hd
      have hlt := hdraw d (by simp [hd'])
      rw [if_neg (by simp [hlt])]
    next => rfl
  have hq' : ({ j with homeAt := some s.clk } : Job).quiescent = false := hq
  rw [State.homeTest, updJob_of_job? _ hj, hserve]
  simp only [State.testQuiescence, hset, hq', Bool.not_false, if_true]

theorem not_quiescent_of_homew {j : Job} (h : j.homew ≠ 2 ^ j.wtotal) : j.quiescent = false := by
  simp [Job.quiescent, Job.w, h]

theorem not_quiescent_of_drawq {j : Job} (h : j.drawq ≠ []) : j.quiescent = false := by
  simp [Job.quiescent, h]

section
variable {s : State} {p : Packet} {j : Job} {h : Nat} (halone : Stated.AloneAtHome s p j h)
include halone

/-- The clk of a home that one packet has reached. -/
theorem homeClk_alone : ∃ n, s.homeClk p.job = { (((s.takePod p).takeArm p).takeDraw p).homeTest p.job with free := n } := by
  obtain ⟨-, -, -, hj, harrivals, hat, -⟩ := halone
  simp only [State.homeClk, hj, if_neg hat, harrivals, List.foldl_cons, List.foldl_nil]
  exact ⟨_, rfl⟩

theorem homeEvent_alone (kind : Body → Bool) (hkind : kind p.body = true) : homeEvent p.id kind s = .next (s.homeClk p.job) := by
  obtain ⟨harr, hdst, -⟩ := halone
  simp only [homeEvent, atHome, harr, hdst, hkind, if_true]
end

/-! ### Pods (R260 step 1, R268, R269) -/

/-- A home with the weight of a pod. -/
def withPod (j : Job) (w : Nat) (lost killed : Bool) : Job :=
  { j with
    homew := j.homew + w
    lostw := if lost then sat32 j.lostw w else j.lostw
    loss := j.loss || lost
    killw := if killed then sat32 j.killw w else j.killw }

section
variable {s : State} {p : Packet} {j : Job} {h w : Nat} {lost killed : Bool} (hbody : p.body = .pod p.job w lost killed)
include hbody

theorem takePod_pod (hhdr : p.hdrEcc = 0) (hj : s.job? p.job = some j) :
    s.takePod p = (s.dropPacket p.id).setJob p.job (withPod j w lost killed) := by
  have hj' : (s.dropPacket p.id).job? p.job = some j := hj
  unfold State.takePod
  rw [hbody]
  dsimp only
  rw [if_neg (by simp [hhdr]), updJob_of_job? _ hj']
  rfl

/-- A pod that reaches its home alone: its weight is there before the home's test. -/
theorem podArrival_alone (halone : Stated.AloneAtHome s p j h) :
    ∃ n, exec (.podArrival p.id) s
      = .next { (((s.dropPacket p.id).setJob p.job (withPod j w lost killed)).homeTest p.job) with free := n } := by
  obtain ⟨n, hn⟩ := homeClk_alone halone
  have hrest : ((s.takePod p).takeArm p).takeDraw p = s.takePod p := by
    unfold State.takeArm State.takeDraw
    rw [hbody]
  rw [hrest, takePod_pod hbody halone.2.2.1 halone.2.2.2.1] at hn
  refine ⟨n, ?_⟩
  rw [exec_podArrival, ← hn]
  exact homeEvent_alone halone _ (by rw [hbody])
end

/-- A home without draws serves none. -/
theorem serveDraw_of_none {s : State} {job : Nat} {j : Job} (hj : s.job? job = some j) (hdraws : j.drawq = []) : s.serveDraw job = s := by
  simp only [State.serveDraw, hj, hdraws]

/-- The quiescence trap leaves an armed home that holds all of W, whose context is not to be saved (R269). -/
theorem testQuiescence_fires {s : State} {job : Nat} {j : Job} (hj : s.job? job = some j) (hq : j.quiescent = true) (harmed : j.armed = true)
    (hsave : j.saveReq = none) :
    s.testQuiescence job = (s.setJob job { j with homew := 0, armed := false }).sendMsg (j.trapMsg job (s.jobKnown job)) (.unit j.die)
      (.ni (msgTile j (j.trapMsg job (s.jobKnown job)))) 0 := by
  unfold State.testQuiescence
  simp only [hj, hq, Bool.not_true, Bool.false_eq_true, if_false]
  split
  · rw [if_pos harmed]
  next hsome => cases hsave.symm.trans hsome

/-- A home at the end of its clk, before its draws and its test. -/
def inClk (s : State) (j : Job) : Job := { j with homeAt := some s.clk }

theorem homeTest_fires {s : State} {job : Nat} {j : Job} (hj : s.job? job = some j) (hq : j.quiescent = true) (hdraws : j.drawq = [])
    (harmed : j.armed = true) (hsave : j.saveReq = none) : ∃ (u : State) (m : Msg) (n : Nat), u.outs = s.outs
      ∧ u.job? job = some { inClk s j with homew := 0, armed := false }
      ∧ (∃ know, m = j.trapMsg job know) ∧ s.homeTest job = u.sendMsg m (.unit j.die) (.ni n) 0 := by
  have hset : (s.setJob job (inClk s j)).job? job = some (inClk s j) := job?_setJob_self ..
  have hfires := testQuiescence_fires hset hq harmed hsave
  refine ⟨(s.setJob job (inClk s j)).setJob job { inClk s j with homew := 0, armed := false }, _, _, rfl, job?_setJob_self .., ⟨_, rfl⟩,
    Eq.trans ?_ hfires⟩
  rw [State.homeTest, updJob_of_job? _ hj]
  exact congrArg (State.testQuiescence · job) (serveDraw_of_none hset hdraws)

/-- The fields of a header of mode 0 (R138). -/
theorem fields_mkHdr (v cls prio len kind w : Nat) :
    hdrVcore (mkHdr v 0 cls prio len kind w) = v % 2 ^ 14 ∧ hdrClass (mkHdr v 0 cls prio len kind w) = cls % 2 ^ 8
      ∧ hdrKind (mkHdr v 0 cls prio len kind w) = kind % 4 ∧ hdrWeight (mkHdr v 0 cls prio len kind w) = w % 2 ^ 32 := by
  simp only [hdrVcore, hdrClass, hdrKind, hdrWeight, mkHdr, fieldOf, BitVec.toNat_ofNat]
  omega

/-- The pods of O50: one a clk, the weight at home, the trap. -/
theorem pods_taken (s : State) (p : Packet) (j : Job) (w : Nat) (lost killed : Bool) (hbody : p.body = .pod p.job w lost killed) :
    (s.arrived? p.id = some p → p.dst = .unit j.die → s.job? p.job = some j → j.homeAt = some s.clk → exec (.podArrival p.id) s = .next s)
    ∧ (Stated.AloneAtHome s p j (j.homew + w) →
      ∃ t : State, ∃ j' : Job, exec (.podArrival p.id) s = .next t ∧ t.job? p.job = some j' ∧ j'.homew = j.homew + w
        ∧ j'.lostw = (if lost then min (j.lostw + w) (2 ^ 32 - 1) else j.lostw) ∧ j'.loss = (j.loss || lost)
        ∧ j'.killw = (if killed then min (j.killw + w) (2 ^ 32 - 1) else j.killw) ∧ t.outs = s.outs)
    ∧ (Stated.AloneAtHome s p j (2 ^ j.wtotal + 1) → j.homew + w = 2 ^ j.wtotal → j.armed = true → j.phase = .running → j.uncertain = false →
        j.retryDue = [] → j.saveReq = none → lost = false → killed = false →
      ∃ t : State, ∃ x : OutMsg, ∃ j' : Job, exec (.podArrival p.id) s = .next t ∧ t.job? p.job = some j' ∧ j'.homew = 0 ∧ j'.armed = false ∧ t.outs = s.outs ++ [x]
        ∧ hdrVcore x.msg.hdr = j.qvcore % 2 ^ 14 ∧ hdrClass x.msg.hdr = j.qclass % 2 ^ 8 ∧ hdrKind x.msg.hdr = 3
        ∧ hdrWeight x.msg.hdr = 2 ^ j.wtotal % 2 ^ 32
        ∧ x.msg.args = [BitVec.ofNat 64 (j.loss.toNat + 2 * (decide (0 < j.killw)).toNat), BitVec.ofNat 64 j.lostw, BitVec.ofNat 64 j.killw,
            BitVec.ofNat 64 j.woff]) := by
  have hset := job?_setJob_self (s.dropPacket p.id) p.job (withPod j w lost killed)
  refine ⟨fun harr hdst hj hat => ?_, fun halone => ?_, fun halone hall harmed hphase hcertain hretry hsave hlost hkilled => ?_⟩
  · rw [exec_podArrival]
    simp only [execPodArrival, homeEvent, atHome, harr, hdst, hbody, if_true, State.homeClk, hj, hat]
  · obtain ⟨n, hn⟩ := podArrival_alone hbody halone
    obtain ⟨-, -, -, hj, -, -, hdraws, -, -, -, hnot⟩ := halone
    rw [homeTest_idle hset (by simp [withPod, hdraws]) (not_quiescent_of_homew hnot)] at hn
    exact ⟨_, _, hn, job?_setJob_self .., rfl, rfl, rfl, rfl, rfl⟩
  · obtain ⟨n, hn⟩ := podArrival_alone hbody halone
    obtain ⟨-, -, -, hj, -, -, hdraws, hown, hspill, hcensus, -⟩ := halone
    have hq : (withPod j w lost killed).quiescent = true := by
      simp [Job.quiescent, withPod, Job.w, hall, hphase, hcertain, hretry, hdraws, hown, hspill, hcensus]
    obtain ⟨u, m, dst, houts, hjob, ⟨know, hm⟩, hfires⟩ := homeTest_fires hset hq hdraws harmed hsave
    rw [hfires] at hn
    obtain ⟨hv, hc, hk, hw⟩ := fields_mkHdr j.qvcore j.qclass 3 4 3 (2 ^ j.wtotal)
    subst hlost hkilled hm
    refine ⟨_, sentMsg u ((withPod j w false false).trapMsg p.job know) (.unit j.die), _, hn, hjob, rfl, rfl, (outs_sendMsg u _ _ (.ni dst)).trans (by rw [houts]; rfl), hv, hc, hk, hw, ?_⟩
    simp [sentMsg, Job.trapMsg, hwMsg, withPod]

/-! ### Arms, disarms and draws (R260 steps 2 to 4, R263, R273) -/

theorem homeClk_eq {s u : State} {p : Packet} {j : Job} {h : Nat} (halone : Stated.AloneAtHome s p j h)
    (hu : ((s.takePod p).takeArm p).takeDraw p = u) : ∃ n, s.homeClk p.job = { u.homeTest p.job with free := n } := by
  obtain ⟨n, hn⟩ := homeClk_alone halone
  exact ⟨n, by rw [hn, hu]⟩

/-- A home whose draws do not change the weight at home in this clk. -/
theorem homeTest_quiet {s : State} {job : Nat} {j : Job} (hj : s.job? job = some j) (hdraws : j.drawq = []) (hw : j.homew ≠ 2 ^ j.wtotal) :
    s.homeTest job = s.setJob job { j with homeAt := some s.clk } :=
  homeTest_idle hj (by simp [hdraws]) (not_quiescent_of_homew hw)

/-- An arm or a disarm that has reached its home alone is applied and acknowledged. -/
theorem armed_at_home {s : State} {p : Packet} {j j1 : Job} {task : Nat} (halone : Stated.AloneAtHome s p j j.homew)
    (htake : ((s.takePod p).takeArm p).takeDraw p
      = ((s.dropPacket p.id).setJob p.job j1).reply p.dst p.src p.job (.holdAck task 0))
    (hdraws : j1.drawq = j.drawq) (hhomew : j1.homew = j.homew) (htotal : j1.wtotal = j.wtotal) :
    ∃ t : State, .next (s.homeClk p.job) = (.next t : Host.Outcome State Fault Refusal)
      ∧ t.job? p.job = some { j1 with homeAt := some s.clk } ∧ Stated.Posts t (.unit j.die) p.src (.holdAck task 0) := by
  obtain ⟨n, hn⟩ := homeClk_eq halone htake
  obtain ⟨-, hdst, -, -, -, -, hq, -, -, -, hnot⟩ := halone
  have hj1 : (((s.dropPacket p.id).setJob p.job j1).reply p.dst p.src p.job (.holdAck task 0)).job? p.job = some j1 := job?_setJob_self ..
  rw [homeTest_quiet hj1 (hdraws.trans hq) (by rw [hhomew, htotal]; exact hnot)] at hn
  refine ⟨_, congrArg _ hn, job?_setJob_self .., posts_congr (by rfl) ?_⟩
  rw [← hdst]
  exact posts_reply ..

theorem arms_taken (s : State) (p : Packet) (j : Job) (task v c : Nat) (halone : Stated.AloneAtHome s p j j.homew) :
    (p.body = .arm p.job task v c → ∃ t : State, ∃ j' : Job, exec (.armArrival p.id) s = .next t ∧ t.job? p.job = some j' ∧ j'.armed = true ∧ j'.qvcore = v
        ∧ j'.qclass = c ∧ j'.homew = j.homew ∧ Stated.Posts t (.unit j.die) p.src (.holdAck task 0))
    ∧ (p.body = .disarm p.job task → ∃ t : State, ∃ j' : Job, exec (.disarmArrival p.id) s = .next t ∧ t.job? p.job = some j' ∧ j'.armed = false
        ∧ j'.qvcore = j.qvcore ∧ j'.qclass = j.qclass ∧ j'.homew = j.homew ∧ Stated.Posts t (.unit j.die) p.src (.holdAck task 0)) := by
  have hj : (s.dropPacket p.id).job? p.job = some j := halone.2.2.2.1
  refine ⟨fun hbody => ?_, fun hbody => ?_⟩
  · obtain ⟨t, ht, hjob, hposts⟩ := armed_at_home (task := task) (j1 := { j with armed := true, qvcore := v, qclass := c }) halone (by
      unfold State.takePod State.takeArm State.takeDraw
      rw [hbody]
      dsimp only
      rw [updJob_of_job? _ hj]) rfl rfl rfl
    refine ⟨t, _, ?_, hjob, rfl, rfl, rfl, rfl, hposts⟩
    rw [exec_armArrival, ← ht]
    exact homeEvent_alone halone _ (by rw [hbody])
  · obtain ⟨t, ht, hjob, hposts⟩ := armed_at_home (task := task) (j1 := { j with armed := false }) halone (by
      unfold State.takePod State.takeArm State.takeDraw
      rw [hbody]
      dsimp only
      rw [updJob_of_job? _ hj]) rfl rfl rfl
    refine ⟨t, _, ?_, hjob, rfl, rfl, rfl, rfl, hposts⟩
    rw [exec_disarmArrival, ← ht]
    exact homeEvent_alone halone _ (by rw [hbody])

/-- A home with one draw in its queue. -/
def queued (j : Job) (d : Draw) : Job := { j with drawq := [d] }

theorem not_quiescent_queued (j : Job) (d : Draw) : (queued j d).quiescent = false := not_quiescent_of_drawq (List.cons_ne_nil _ _)

theorem homeTest_queued {s : State} {job : Nat} {j : Job} {d : Draw} (hj : s.job? job = some (queued j d)) (hw : j.homew < d.units) :
    s.homeTest job = s.setJob job { queued j d with homeAt := some s.clk } :=
  homeTest_idle hj (by simpa [queued] using hw) (not_quiescent_queued j d)

/-- A draw that has reached its home alone is in its queue, and its sender hears of it. -/
theorem draw_taken {s : State} {p : Packet} {j : Job} {o : OutMsg} (halone : Stated.AloneAtHome s p j j.homew) (hbody : p.body = .message o.id)
    (hout : s.out? o.id = some o) (hdraw : o.draw ≠ 0) (hecc : o.msg.ecc = 0) :
    ((s.takePod p).takeArm p).takeDraw p = ((s.dropPacket p.id).setJob p.job (queued j ⟨o.msg, o.draw, 0, o.id, none⟩)).reply
      p.dst p.src p.job (.holdAck o.order o.acc) := by
  obtain ⟨-, -, hhdr, hj, -, -, hq, -, hspill, -, -⟩ := halone
  unfold State.takePod State.takeArm State.takeDraw
  rw [hbody]
  dsimp only
  rw [hout, hj]
  dsimp only
  rw [if_neg hdraw, if_neg (by simp [hhdr]), if_neg (by simp [hecc]), if_neg (by simp [hq, hspill, drawLimit]), hq]
  rfl

theorem refill_of_empty {j : Job} (hspill : j.spill = []) (hown : j.ownDraws = []) : Job.refill j = j := by
  obtain ⟨⟩ := j
  subst hspill hown
  simp [Job.refill]

/-- The head of the queue is served where its units are at home. -/
theorem serveDraw_serves {s : State} {job : Nat} {j : Job} {d : Draw} {rest : List Draw} (hj : s.job? job = some j) (hq : j.drawq = d :: rest)
    (hcensus : j.census = none) (hphase : j.phase ≠ .loading) (hw : d.units ≤ j.homew) : s.serveDraw job = s.serveHead job j d rest := by
  simp [State.serveDraw, hj, hq, hcensus, hphase, hw]

/-- The message that a served draw becomes. -/
def drawnMsg (s : State) (j : Job) (d : Draw) : OutMsg :=
  ⟨s.serial, { d.msg with hdr := hdrSetWeight d.msg.hdr d.units }, .unit j.die, 0, .flying, 0, 0, 0, none, [], d.order, d.out, 0, 0, 0,
    hdrVcore (hdrSetWeight d.msg.hdr d.units), []⟩

theorem serveHead_sends {s : State} {job : Nat} {j : Job} {d : Draw} {rest : List Draw} (hcredit : d.credit = none) (hspill : j.spill = [])
    (hown : j.ownDraws = []) :
    (s.serveHead job j d rest).outs = s.outs ++ [drawnMsg s j d]
      ∧ (s.serveHead job j d rest).job? job = some { j with homew := j.homew - d.units, drawq := rest } := by
  have hrefill : Job.refill { j with homew := j.homew - d.units, drawq := rest } = { j with homew := j.homew - d.units, drawq := rest } :=
    refill_of_empty hspill hown
  simp only [State.serveHead, hcredit, hrefill]
  exact ⟨rfl, job?_setJob_self ..⟩

theorem hdrWeight_hdrSetWeight (h : Word) (w : Nat) : hdrWeight (hdrSetWeight h w) = w % 2 ^ 32 := by
  simp only [hdrWeight, hdrSetWeight, fieldOf, BitVec.toNat_ofNat]
  omega

theorem testQuiescence_idle {s : State} {job : Nat} {j : Job} (hj : s.job? job = some j) (hq : j.quiescent = false) : s.testQuiescence job = s := by
  simp only [State.testQuiescence, hj, hq, Bool.not_false, if_true]

theorem draws_taken (s : State) (p : Packet) (j : Job) (o : OutMsg) (halone : Stated.AloneAtHome s p j j.homew) (hbody : p.body = .message o.id)
    (hout : s.out? o.id = some o) (hdraw : o.draw ≠ 0) (hecc : o.msg.ecc = 0) :
    (j.homew < o.draw → ∃ t : State, ∃ j' : Job, exec (.drawArrival p.id) s = .next t ∧ t.job? p.job = some j' ∧ j'.drawq = [⟨o.msg, o.draw, 0, o.id, none⟩]
      ∧ j'.homew = j.homew ∧ Stated.Posts t (.unit j.die) p.src (.holdAck o.order o.acc))
    ∧ (o.draw ≤ j.homew → j.homew < 2 ^ j.wtotal → j.phase ≠ .loading → ∃ t : State, ∃ j' : Job, ∃ x : OutMsg, exec (.drawArrival p.id) s = .next t ∧ t.job? p.job = some j' ∧ j'.drawq = []
      ∧ j'.homew = j.homew - o.draw ∧ t.outs = s.outs ++ [x] ∧ x.msg.args = o.msg.args ∧ x.origin = o.id ∧ x.src = .unit j.die
      ∧ hdrWeight x.msg.hdr = o.draw % 2 ^ 32) := by
  obtain ⟨n, hn⟩ := homeClk_eq halone (draw_taken halone hbody hout hdraw hecc)
  have hexec : exec (.drawArrival p.id) s = .next (s.homeClk p.job) := by
    rw [exec_drawArrival]
    exact homeEvent_alone halone _ (by rw [hbody])
  obtain ⟨-, hdst, -, -, -, -, -, hown, hspill, hcensus, -⟩ := halone
  have hset : (((s.dropPacket p.id).setJob p.job (queued j ⟨o.msg, o.draw, 0, o.id, none⟩)).reply p.dst p.src p.job
      (.holdAck o.order o.acc)).job? p.job = some (queued j ⟨o.msg, o.draw, 0, o.id, none⟩) := job?_setJob_self ..
  refine ⟨fun hless => ?_, fun hhas htotal hphase => ?_⟩
  · rw [homeTest_queued hset hless] at hn
    refine ⟨_, _, hexec.trans (congrArg _ hn), job?_setJob_self .., rfl, rfl, posts_congr (by rfl) ?_⟩
    rw [← hdst]
    exact posts_reply ..
  · rw [State.homeTest, updJob_of_job? _ hset] at hn
    generalize hu : State.setJob (State.reply _ _ _ _ _) _ _ = u at hn
    have houts : u.outs = s.outs := by rw [← hu]; rfl
    have hju : u.job? p.job = some (inClk s (queued j ⟨o.msg, o.draw, 0, o.id, none⟩)) := by
      rw [← hu]
      exact job?_setJob_self ..
    obtain ⟨hsent, hleft⟩ := serveHead_sends (s := u) (job := p.job) (j := inClk s (queued j ⟨o.msg, o.draw, 0, o.id, none⟩))
      (d := ⟨o.msg, o.draw, 0, o.id, none⟩) (rest := []) rfl hspill hown
    rw [serveDraw_serves hju rfl hcensus hphase hhas, testQuiescence_idle hleft (not_quiescent_of_homew (Nat.ne_of_lt (Nat.lt_of_le_of_lt (Nat.sub_le ..) htotal)))] at hn
    exact ⟨_, _, drawnMsg u j ⟨o.msg, o.draw, 0, o.id, none⟩, hexec.trans (congrArg _ hn), hleft, rfl, rfl, hsent.trans (by rw [houts]; rfl), rfl,
      rfl, rfl, hdrWeight_hdrSetWeight ..⟩

/-! ### The other requests to a home -/

theorem drawResend_sends {s : State} {o : OutMsg} (hout : s.out? o.id = some o) (hdraw : o.draw ≠ 0) (hstate : o.state = .refused)
    (hdue : o.due ≤ s.clk) :
    exec (.drawResend o.id) s = .next ((s.updOut o.id (fun o => { o with state := .flying })).post .request o.src (s.home o.msg.job) o.msg.job
        (msgFlits (hdrLen o.msg.hdr)) 0 [] (.message o.id)) := by
  rw [exec_drawResend]
  simp [execDrawResend, hout, hdraw, hstate, hdue]

/-- A far send that has reached its home alone, and more units than are there, waits in the queue. -/
theorem farSend_taken {s : State} {p : Packet} {j : Job} {m : Msg} {dev out v : Nat} (halone : Stated.AloneAtHome s p j j.homew)
    (hbody : p.body = .farSend m dev out v) (hecc : m.ecc = 0) :
    ((s.takePod p).takeArm p).takeDraw p = (s.dropPacket p.id).setJob p.job
      (queued j ⟨m, min v j.w, if m.ord then 2 ^ 40 + dev * 2 ^ 14 + m.srcV else 0, 0, some (dev, out, v)⟩) := by
  obtain ⟨-, -, hhdr, hj, -, -, hq, -, hspill, -, -⟩ := halone
  unfold State.takePod State.takeArm State.takeDraw
  rw [hbody]
  dsimp only
  rw [hj]
  dsimp only
  rw [if_neg (by simp [hhdr]), if_neg (by simp [hecc]), if_neg (by simp [hq, hspill, drawLimit]), hq]
  rfl

theorem farSendArrival_waits {s : State} {p : Packet} {j : Job} {m : Msg} {dev out v : Nat} (halone : Stated.AloneAtHome s p j j.homew)
    (hbody : p.body = .farSend m dev out v) (hnum : p.job < 2 ^ 20) (hecc : m.ecc = 0) (hw : j.homew < min v (2 ^ j.wtotal)) :
    ∃ t : State, ∃ j' : Job, ∃ d : Draw, exec (.farSendArrival p.id) s = .next t ∧ t.job? p.job = some j' ∧ j'.drawq = [d] ∧ d.msg = m
      ∧ d.units = min v (2 ^ j.wtotal) ∧ d.credit = some (dev, out, v) := by
  obtain ⟨n, hn⟩ := homeClk_eq halone (farSend_taken halone hbody hecc)
  obtain ⟨harr, hdst, -⟩ := halone
  rw [homeTest_queued (job?_setJob_self ..) hw] at hn
  have hexec : exec (.farSendArrival p.id) s = .next (s.homeClk p.job) := by
    rw [exec_farSendArrival]
    simp only [execFarSendArrival, harr, hdst, hbody, if_pos hnum]
  exact ⟨_, _, _, hexec.trans (congrArg _ hn), job?_setJob_self .., rfl, rfl, rfl, rfl⟩

/-! ### The census, `wloss`, the copies and the retried units (R267, R274, R347, R351) -/

theorem requests_served (s : State) (p : Packet) (j : Job) (r : Req) (harr : s.arrived? p.id = some p) (hbody : p.body = .request r.id)
    (hreq : s.req? r.id = some r) (hj : s.job? p.job = some j) (hcensus : j.census = none) :
    (r.kind = .census → ∃ t : State, ∃ j' : Job, exec (.censusStart p.id) s = .next t ∧ t.job? p.job = some j' ∧ j'.census = some ⟨r.id, [], 0, []⟩)
    ∧ (r.kind = .wloss → r.job = p.job → cmNoMsg r.cm = false →
        ∃ t : State, ∃ x : OutMsg, exec (.wlossServe p.id) s = .next t ∧ t.outs = s.outs ++ [x] ∧ hdrWeight x.msg.hdr = r.v % 2 ^ 32
          ∧ x.msg.args = [statusWord r.code r.flags (j.loss.toNat + 2 * j.uncertain.toNat), r.cm.tag, BitVec.ofNat 64 j.lostw,
              BitVec.ofNat 64 j.killw, BitVec.ofNat 64 j.woff]) := by
  refine ⟨fun hkind => ?_, fun hkind hjob hmsg => ?_⟩
  · rw [exec_censusStart]
    simp only [execCensusStart, harr, hbody, hreq, hj, hkind, hcensus, Option.isSome_none, Bool.false_eq_true, if_false, bne_self_eq_false]
    exact ⟨_, _, rfl, job?_setJob_self .., rfl⟩
  · obtain ⟨x, as, ps, n, heq, hargs, hhdr⟩ := finishReq_sends (s := s.dropPacket p.id)
      (r := { r with count := j.loss.toNat + 2 * j.uncertain.toNat }) p.dst false
      [BitVec.ofNat 64 j.lostw, BitVec.ofNat 64 j.killw, BitVec.ofNat 64 j.woff] (by rw [hjob]; exact hj) hmsg
    rw [exec_wlossServe]
    simp only [execWlossServe, harr, hbody, hreq, hj, hkind, hcensus, Option.isSome_none, Bool.or_false, Bool.false_eq_true, if_false,
      bne_self_eq_false]
    refine ⟨_, x, congrArg _ heq, rfl, ?_, hargs⟩
    rw [hhdr]
    exact hdrWeight_of_completion _ _ _ (by simp)

theorem censusMarkerSend_sends {s : State} {job node : Nat} {j : Job} {e : Endpoint} {c : Census} (hj : s.job? job = some j)
    (hcensus : j.census = some c) (hnode : nodeOf node = some e) (hother : e ≠ .unit j.die) (hnew : c.sent.contains e = false)
    (hbusy : nodeBusy s job e = false) :
    exec (.censusMarkerSend job node) s = .next ((s.setJob job { j with census := some { c with sent := c.sent ++ [e] } }).post .weight e
      (.unit j.die) job 1 0 [] (.marker job node)) := by
  rw [exec_censusMarkerSend]
  simp only [execCensusMarkerSend, hj, hnode, hcensus, hother, hnew, hbusy, Bool.false_eq_true, or_self, if_false]

theorem censusMarkerArrival_counts {s : State} {p : Packet} {j : Job} {c : Census} {node : Nat} (harr : s.arrived? p.id = some p)
    (hbody : p.body = .marker p.job node) (hj : s.job? p.job = some j) (hcensus : j.census = some c) (hmore : c.got + 1 < markerCount)
    (hpod : behindPod s p = false) :
    ∃ t : State, exec (.censusMarkerArrival p.id) s = .next t ∧ t.job? p.job = some { j with census := some { c with got := c.got + 1 } } := by
  have hset := job?_setJob_self (s.dropPacket p.id) p.job { j with census := some { c with got := c.got + 1 } }
  have hwait : ((s.dropPacket p.id).setJob p.job { j with census := some { c with got := c.got + 1 } }).censusTry p.job
      = (s.dropPacket p.id).setJob p.job { j with census := some { c with got := c.got + 1 } } := by
    simp only [State.censusTry, hset, hmore, true_or, if_true]
  rw [exec_censusMarkerArrival]
  simp only [execCensusMarkerArrival, harr, hbody, hj, hcensus, hpod, Bool.false_eq_true, if_false, hwait]
  exact ⟨_, rfl, hset⟩

/-- The root of a retried unit is a draw at its home again. -/
theorem unitRetryReinject_draws {s : State} {job level unit : Nat} {j : Job} {m : Msg} (hj : s.job? job = some j)
    (hdue : j.retryDue = [(level, unit)]) (hdone : j.discarding.contains (level, unit) = false) (hq : j.drawq = []) (hown : j.ownDraws = [])
    (hroots : j.roots.filter (fun m => inUnit j level unit (hdrVcore m.hdr)) = [m]) :
    ∃ t : State, exec (.unitRetryReinject job level unit) s = .next t
      ∧ t.job? job = some { j with retryDue := [], drawq := [⟨m, hdrWeight m.hdr, 0, 0, none⟩] } := by
  have herase : [(level, unit)].erase (level, unit) = [] := by simp
  rw [exec_unitRetryReinject]
  simp only [execUnitRetryReinject, hj, hdue, hdone, hroots, List.contains_cons, beq_self_eq_true, Bool.true_or, Bool.not_false, Bool.and_self,
    if_true, herase, List.foldl_cons, List.foldl_nil]
  exact ⟨_, rfl, ownDraw_alone m _ (job?_setJob_self s job { j with retryDue := [] }) hq hown⟩

/-- Settles O50: what reaches a home alone in its clk, then the census, `wloss`, the copies and the retried units. -/
theorem homeEvents : Obligations.HomeEvents := by
  unfold Obligations.HomeEvents
  refine ⟨pods_taken, arms_taken, draws_taken, ?resend, fun s p j m dev out v halone hbody hnum hecc hw =>
    farSendArrival_waits halone hbody hnum hecc hw, requests_served, ?send, ?count, ?copies, ?retry⟩
  case resend =>
    intro s o hout hdraw hstate hdue
    exact ⟨_, drawResend_sends hout hdraw hstate hdue, out?_updOut (f := fun o => { o with state := .flying }) hout fun _ h => h, posts_post ..⟩
  case send =>
    intro s job node j e c hj hcensus hnode hother hnew hbusy
    exact ⟨_, _, censusMarkerSend_sends hj hcensus hnode hother hnew hbusy, job?_setJob_self .., rfl, posts_post ..⟩
  case count =>
    intro s p j c node harr hbody hj hcensus hmore hpod
    obtain ⟨t, ht, hjob⟩ := censusMarkerArrival_counts harr hbody hj hcensus hmore hpod
    exact ⟨t, _, ht, hjob, rfl⟩
  case copies =>
    intro s job j hj hclk hnew
    rw [exec_homeCopyBroadcast]
    simp only [execHomeCopyBroadcast, hj, hclk, hnew, ne_eq, not_false_eq_true, and_self, if_true]
    exact ⟨_, _, rfl, job?_setJob_self .., rfl, rfl, rfl⟩
  case retry =>
    intro s job level unit j m hj hdue hdone hq hown hroots
    obtain ⟨t, ht, hjob⟩ := unitRetryReinject_draws hj hdue hdone hq hown hroots
    exact ⟨t, _, ht, hjob, rfl, rfl, rfl⟩

end Sys2Proof.Laws
end

section
/-! ## Routers and chains -/

namespace Sys2Proof.Laws
open Sys2Proof.Machine Sys2Proof.Safety

/-! ### The routers -/

/-- A router after a change of one: routers are told apart by their keys. -/
theorem router_updRouter (s : State) (p y : Nat) (f : Router → Router) (a b : Nat) :
    (s.updRouter p y f).router a b = if routerKey a b = routerKey p y then f (s.router a b) else s.router a b := by
  unfold State.router State.updRouter
  dsimp only
  split
  next h => rw [h, Map.getD_set_self]; rfl
  next h => simp [Map.getD, Map.get?_set_of_ne _ _ _ _ h]

theorem router_updRouter_self (s : State) (p y : Nat) (f : Router → Router) : (s.updRouter p y f).router p y = f (s.router p y) := by
  rw [router_updRouter, if_pos rfl]

/-- A wake keeps what is woken for the same clk. -/
theorem woken_of_wakeAt {s : State} {q : Nat × Nat} {t a b : Nat} (hg : (s.router a b).gated = true) (hw : (s.router a b).wake = some t) :
    ((s.wakeAt q t).router a b).gated = true ∧ ((s.wakeAt q t).router a b).wake = some t := by
  rw [State.wakeAt, router_updRouter]
  split
  · simp [hg, hw]
  · exact ⟨hg, hw⟩

theorem wakeAt_wakes {s : State} {q : Nat × Nat} (t : Nat) (hg : (s.router q.1 q.2).gated = true) (hw : (s.router q.1 q.2).wake = none) :
    ((s.wakeAt q t).router q.1 q.2).gated = true ∧ ((s.wakeAt q t).router q.1 q.2).wake = some t := by
  rw [State.wakeAt, router_updRouter_self]
  simp [hg, hw]

theorem wakeAt_packets (s : State) (q : Nat × Nat) (t : Nat) : (s.wakeAt q t).packets = s.packets := rfl

theorem injectWakes_packets (s : State) (src : Endpoint) (a b : Nat × Nat) : (s.injectWakes src a b).packets = s.packets := by
  unfold State.injectWakes
  split <;> rfl

/-! ### Packets enter the mesh and hop (R231, R232, R236, R240) -/

theorem leaveQueue_keeps (s : State) (p : Packet) : (s.leaveQueue p).packets = s.packets := by
  unfold State.leaveQueue
  split <;> rfl

/-- A packet that has entered the mesh stands in the router it is attached to. -/
theorem inject_packets (s : State) (p : Packet) : (s.inject p p.dst p.body).packets = s.packets.filter (fun x => x.id != p.id)
    ++ [{ p with id := s.serial, pos := .router p.src.attach.1 p.src.attach.2, ready := s.clk + edgeLink p.src + 2, queue := 0 }] := by
  unfold State.inject
  dsimp only
  rw [injectWakes_packets]
  rfl

theorem routerSwitch_injects {s : State} {p : Packet} (hp : s.packet? p.id = some p) (hpos : p.pos = .source) (hmay : mayInject s p = true)
    (hkind : (∃ j w l k, p.body = .pod j w l k) ∨ (∃ o : OutMsg, p.body = .message o.id ∧ s.out? o.id = some o ∧ behindRing s o = false
      ∧ farPacket s p.job p.body = none)) :
    exec (.routerSwitch p.id) s = .next { (s.inject p p.dst p.body) with free := s.free + 1 } := by
  have hleave : s.leaveSource p = some (s.inject p p.dst p.body) := by
    unfold State.leaveSource
    rcases hkind with ⟨j, w, l, k, hbody⟩ | ⟨o, hbody, hout, hring, hfar⟩
    · rw [hbody]
      rfl
    · rw [hfar, hbody]
      simp only [hout, hring, Bool.false_eq_true, if_false]
  rw [exec_routerSwitch]
  simp only [execRouterSwitch, hp, hpos, hmay, if_true, hleave]

/-- The next router of a route is a hop of it. -/
theorem isHop_nextHop {c : Machine.Class} (hc : c ≠ .reduction) {from_ to_ : Nat × Nat} (hne : from_ ≠ to_) :
    Stated.IsHop c from_ to_ (nextHop c from_ to_).1 (nextHop c from_ to_).2 := by
  obtain ⟨a, b⟩ := from_
  obtain ⟨x, y⟩ := to_
  have hruns : runs c = true := by simpa [runs] using hc
  have hrow : a = x → b ≠ y := fun h h' => hne (by rw [h, h'])
  simp only [Stated.IsHop, nextHop, bridged, hruns, and_true, hc, ne_eq, not_false_eq_true, decide_true, Bool.true_and, decide_eq_true_eq]
  refine ⟨fun hlt => ?east, fun hlt => ?west, fun heq => ?column⟩
  case east =>
    by_cases hspan : a + 4 ≤ x
    · simp [hspan]
    · simp [hspan, hlt]
  case west =>
    have hno : ¬ a + 4 ≤ x := by omega
    have hno' : ¬ a < x := by omega
    by_cases hspan : x + 4 ≤ a
    · simp [hspan, hno, hno']
      omega
    · simp [hspan, hlt, hno, hno']
      omega
  case column =>
    subst heq
    have hne := hrow rfl
    rcases Nat.lt_or_gt_of_ne hne with hlt | hlt
    · simp [hlt]
      omega
    · have hno : ¬ b < y := by omega
      simp [hlt, hno]
      omega

theorem mem_updPacket {s : State} {p : Packet} (f : Packet → Packet) (h : p ∈ s.packets) : f p ∈ (s.updPacket p.id f).packets :=
  List.mem_map.2 ⟨p, h, by simp⟩

theorem mem_updPacket_of_ne {s : State} {p : Packet} {id : Nat} (f : Packet → Packet) (h : p ∈ s.packets) (hne : p.id ≠ id) :
    p ∈ (s.updPacket id f).packets :=
  List.mem_map.2 ⟨p, h, by simp [hne]⟩

theorem mem_of_packet? {s : State} {id : Nat} {p : Packet} (h : s.packet? id = some p) : p ∈ s.packets := List.mem_of_find?_eq_some h

section
variable {s : State} {p : Packet} {a b : Nat} (hp : s.packet? p.id = some p) (hpos : p.pos = .router a b) (hcls : p.cls ≠ .reduction)
  (hready : p.ready ≤ s.clk) (hopen : (s.router a b).gated = false) (hfirst : firstOfLane s p = true)
  (hmarker : (∃ j n, p.body = .marker j n) → behindPod s p = false)
include hp hpos hcls hready hopen hfirst hmarker

theorem routerSwitch_switches : exec (.routerSwitch p.id) s = .next { (s.switch p (a, b)) with free := s.free + 1 } := by
  have hmay : maySwitch s p a b = true := by
    have hrouted : routed p = true := by simp [routed, hcls]
    simp only [maySwitch, hrouted, hready, hopen, hfirst, decide_true, Bool.not_false, Bool.and_self, Bool.true_and]
    split
    next hb => simp [hmarker ⟨_, _, hb⟩]
    next => rfl
  rw [exec_routerSwitch]
  simp only [execRouterSwitch, hp, hpos, hmay, if_true]
end

/-- A packet that combines with none goes on to the next router of its route, which its head wakes. -/
theorem switch_hops {s : State} {p : Packet} {a b : Nat} (hmem : p ∈ s.packets) (hnone : waitingPod s p = none) (hne : (a, b) ≠ p.dst.attach) :
    let h := nextHop p.cls (a, b) p.dst.attach
    { p with pos := .router h.1.1 h.1.2, ready := s.clk + h.2 + 2 } ∈ (s.switch p (a, b)).packets
      ∧ ((s.router h.1.1 h.1.2).gated = true → (s.router h.1.1 h.1.2).wake = none →
        ((s.switch p (a, b)).router h.1.1 h.1.2).wake = some (s.clk + h.2)) := by
  intro h
  unfold State.switch
  rw [hnone, ite_self]
  dsimp only
  rw [if_neg hne]
  generalize hu : State.updPacket _ _ _ = u
  have hin : { p with pos := .router h.1.1 h.1.2, ready := s.clk + h.2 + 2 } ∈ u.packets := by
    rw [← hu]
    exact mem_updPacket (s := s.passedBy (a, b) p.flits) _ hmem
  have hrouter : (u.router h.1.1 h.1.2).gated = (s.router h.1.1 h.1.2).gated ∧ (u.router h.1.1 h.1.2).wake = (s.router h.1.1 h.1.2).wake := by
    have hsame : u.router h.1.1 h.1.2 = (s.passedBy (a, b) p.flits).router h.1.1 h.1.2 := by rw [← hu]; rfl
    rw [hsame, State.passedBy, router_updRouter]
    split <;> exact ⟨rfl, rfl⟩
  have hwoken (hg : (s.router h.1.1 h.1.2).gated = true) (hw : (s.router h.1.1 h.1.2).wake = none) :=
    wakeAt_wakes (q := h.1) (s.clk + h.2) (hrouter.1.trans hg) (hrouter.2.trans hw)
  unfold headWakes
  dsimp only
  split
  · exact ⟨hin, fun hg hw => (hwoken hg hw).2⟩
  · exact ⟨hin, fun hg hw => (woken_of_wakeAt (hwoken hg hw).1 (hwoken hg hw).2).2⟩

/-- A packet at the router of its destination reaches it with its last flit. -/
theorem switch_arrives {s : State} {p : Packet} {a b : Nat} (hmem : p ∈ s.packets) (hnone : waitingPod s p = none) (heq : (a, b) = p.dst.attach) :
    { p with pos := .dest, ready := s.clk + edgeLink p.dst + (p.flits - 1) } ∈ (s.switch p (a, b)).packets := by
  unfold State.switch
  rw [hnone, ite_self]
  dsimp only
  rw [if_pos heq]
  exact mem_updPacket (s := s.passedBy (a, b) p.flits) _ hmem

/-- What a waiting pod is: another packet, in its router. -/
theorem waitingPod_other {s : State} {p q : Packet} (h : waitingPod s p = some q) : q ∈ s.packets ∧ q.id ≠ p.id := by
  unfold waitingPod at h
  have hprop := List.find?_some h
  simp only [Bool.and_eq_true, bne_iff_ne] at hprop
  exact ⟨List.mem_of_find?_eq_some h, hprop.1.1.1.1.1.1⟩

/-- Two pods that may combine either do, or both go on. -/
theorem switch_combines {s : State} {p q : Packet} {a b j w w' : Nat} {l k : Bool} (hmem : p ∈ s.packets) (hwaits : waitingPod s p = some q)
    (hbody : p.body = .pod j w l k) (hqbody : q.body = .pod j w' l k) :
    ({ q with body := .pod j (w' + w) l k } ∈ (s.switch p (a, b)).packets ∧ ∀ x ∈ (s.switch p (a, b)).packets, x.id ≠ p.id)
      ∨ (q ∈ (s.switch p (a, b)).packets ∧ ∃ x ∈ (s.switch p (a, b)).packets, x.id = p.id ∧ x.body = p.body) := by
  obtain ⟨hq, hne⟩ := waitingPod_other hwaits
  unfold State.switch
  by_cases hpick : Config.pick s.free 60 % 2 = 0
  · left
    rw [if_pos hpick, hwaits]
    dsimp only
    have hleft : q ∈ ((s.passedBy (a, b) p.flits).dropPacket p.id).packets := List.mem_filter.2 ⟨hq, by simpa using hne⟩
    refine ⟨?_, fun x hx hid => ?_⟩
    · have hin := mem_updPacket (fun q => { q with body := withWeight (podWeight p.body) q.body }) hleft
      simpa [hbody, hqbody, withWeight, podWeight] using hin
    · obtain ⟨y, hy, rfl⟩ := List.mem_map.1 hx
      have hyne : y.id ≠ p.id := by simpa using (List.mem_filter.1 hy).2
      split at hid <;> exact hyne hid
  · right
    rw [if_neg hpick]
    dsimp only
    split
    · exact ⟨mem_updPacket_of_ne (s := s.passedBy (a, b) p.flits) _ hq hne, _, mem_updPacket (s := s.passedBy (a, b) p.flits) _ hmem, rfl, rfl⟩
    · have hkeep (u : State) : ((headWakes p (nextHop p.cls (a, b) p.dst.attach).1).foldl
          (fun st r => st.wakeAt r (s.clk + (nextHop p.cls (a, b) p.dst.attach).2)) u).packets = u.packets := by
        unfold headWakes
        dsimp only
        split <;> rfl
      rw [hkeep]
      exact ⟨mem_updPacket_of_ne (s := s.passedBy (a, b) p.flits) _ hq hne, _, mem_updPacket (s := s.passedBy (a, b) p.flits) _ hmem, rfl, rfl⟩

/-! ### Gating and wakes (R243, R244) -/

theorem routerGate_gates {s : State} {x y : Nat} (hx : x < 136) (hy : y < 16) (hopen : (s.router x y).gated = false)
    (hidle : (s.router x y).idle + 1024 ≤ s.clk) (hempty : ∀ q ∈ s.packets, inRouter q ≠ some (x, y))
    (hrounds : ∀ d ∈ (s.router x y).defs, d.inputs = [] ∧ d.waiting = [] ∧ d.closing = false) :
    exec (.routerGate x y) s = .next (s.updRouter x y (fun r => { r with gated := true, wake := none })) := by
  have hflits : (s.packets.any fun q => inRouter q == some (x, y) && decide (headAt q ≤ s.clk)) = false :=
    List.any_eq_false.2 fun q hq => by simp [hempty q hq]
  have hopenRounds : ((s.router x y).defs.any fun d => !d.inputs.isEmpty || !d.waiting.isEmpty || d.closing) = false :=
    List.any_eq_false.2 fun d hd => by
      obtain ⟨hi, hw, hc⟩ := hrounds d hd
      simp [hi, hw, hc]
  rw [exec_routerGate]
  simp [execRouterGate, onMesh, hx, hy, hopen, hidle, hflits, hopenRounds]

/-- The least element of a list, one being at hand, is in it and bounds it. -/
theorem foldl_min_spec (t : Nat) (l : List Nat) : (l.foldl min t ∈ t :: l) ∧ ∀ x ∈ t :: l, l.foldl min t ≤ x := by
  have hmin : (t :: l).min? = some (l.foldl min t) := rfl
  exact List.min?_eq_some_iff.1 hmin

theorem routerWake_wakes {s : State} {x y : Nat} {q : Packet} (hgated : (s.router x y).gated = true) (hwake : (s.router x y).wake = none)
    (hq : q ∈ s.packets) (hin : inRouter q = some (x, y)) (hhead : headAt q ≤ s.clk) :
    ∃ w, exec (.routerWake x y) s = .next (s.updRouter x y (fun r => { r with wake := some w })) ∧ w ≤ headAt q
      ∧ ∃ p ∈ s.packets, inRouter p = some (x, y) ∧ headAt p = w := by
  have hmem : headAt q ∈ (s.packets.filter fun q => inRouter q == some (x, y) && decide (headAt q ≤ s.clk)).map headAt :=
    List.mem_map.2 ⟨q, List.mem_filter.2 ⟨hq, by simp [hin, hhead]⟩, rfl⟩
  rw [exec_routerWake]
  unfold execRouterWake
  dsimp only
  split
  next hnil => simp [hnil] at hmem
  next t l hcons =>
    rw [hcons] at hmem
    obtain ⟨hleast, hbound⟩ := foldl_min_spec t l
    rw [if_pos (by simp [hgated, hwake])]
    refine ⟨_, rfl, hbound _ hmem, ?_⟩
    rw [← hcons] at hleast
    obtain ⟨p, hp, hat⟩ := List.mem_map.1 hleast
    obtain ⟨hp, hprop⟩ := List.mem_filter.1 hp
    simp only [Bool.and_eq_true, beq_iff_eq] at hprop
    exact ⟨p, hp, hprop.1, hat⟩

/-! ### Chains (R241, R242) -/

section
variable {s : State} {c : Chain} {rest : List Chain} {node i : Nat} (hchains : s.chains = c :: rest) (hplace : c.nodes.idxOf node = i)
  (hlt : i < c.nodes.length)
include hchains hplace hlt

/-- A node with both of its buffers taken lets the reserve wait; else it grants one. -/
theorem chainGrant_grants {p : Packet} (hnone : chainPacket s (c.before i) (.chainGrant c.job i) = none)
    (hreserve : chainPacket s (.ni node) (.chainReserve c.job i) = some p) :
    exec (.chainGrant node) s = .next (if (s.tile node).chainBufs < 2 then
      ({ ((s.dropPacket p.id).addBufs node (fun n => n + 1)) with
        chains := { c with granted := c.granted.set i (c.granted.getD i 0 + 1) } :: rest }).post .management (.ni node) (c.before i) c.job 1 0 []
        (.chainGrant c.job i) else s) := by
  rw [exec_chainGrant]
  unfold execChainGrant
  rw [hchains]
  dsimp only
  rw [hplace, if_neg (by omega), hreserve, hnone]
  dsimp only
  split <;> rfl

theorem reserveFirst_keeps (u : State) : (u.reserveFirst c).chains = u.chains ∧ ∀ q ∈ u.packets, q ∈ (u.reserveFirst c).packets := by
  unfold State.reserveFirst
  split
  · exact ⟨rfl, fun q hq => List.mem_append_left _ hq⟩
  · exact ⟨rfl, fun q hq => hq⟩

/-- A grant that has come back forwards the next chunk. -/
theorem chainGrant_forwards {p : Packet} {x : ChainChunk} (hgrant : chainPacket s (c.before i) (.chainGrant c.job i) = some p)
    (hchunk : c.chunks[chunksSent s c i]? = some x) :
    ∃ t : State, ∃ q ∈ t.packets, exec (.chainGrant node) s = .next t ∧ q.cls = .management ∧ q.src = c.before i ∧ q.dst = .ni node
      ∧ q.body = .chainChunk c.job i ∧ q.pos = .source ∧ t.chains = s.chains := by
  have hposts (u : State) := List.mem_append_right u.packets (List.mem_singleton_self
    (⟨u.serial, .management, c.before i, .ni node, .source, u.clk, chunkFlits x, 0, [], c.job, 0, .chainChunk c.job i⟩ : Packet))
  rw [exec_chainGrant]
  unfold execChainGrant
  rw [hchains]
  dsimp only
  rw [hplace, if_neg (by omega), hgrant]
  dsimp only
  rw [hchunk]
  dsimp only
  split
  · obtain ⟨hkept, hin⟩ := reserveFirst_keeps hchains hplace hlt
      ((s.dropPacket p.id).post .management (c.before i) (.ni node) c.job (chunkFlits x) 0 [] (.chainChunk c.job i))
    exact ⟨_, _, hin _ (hposts _), rfl, rfl, rfl, rfl, rfl, rfl, hkept.trans hchains⟩
  · exact ⟨_, _, hposts _, rfl, rfl, rfl, rfl, rfl, rfl, hchains⟩
end

/-- A chunk for local memories, written to some of the cores. -/
theorem loadCores (s : State) (job vt : Nat) (x : ChainChunk) (l : List Nat) :
    let t := l.foldl (fun s k => s.loadBytes .loc (locAddr job (8 * vt + k) x.addr) x.data) s
    t.codeMem = s.codeMem ∧ t.scratch = s.scratch ∧ t.chains = s.chains
      ∧ t.localMem = l.foldl (fun m k => m.write (locAddr job (8 * vt + k) x.addr) x.data) s.localMem := by
  induction l generalizing s with
  | nil => exact ⟨rfl, rfl, rfl, rfl⟩
  | cons k l ih => exact ih _

/-- The memories of a virtual tile once a chunk is written to it. -/
theorem loadChunk_mems (s : State) (job vt : Nat) (x : ChainChunk) :
    (x.space = .code → (s.loadChunk job vt x).codeMem = s.codeMem.write (codeAddr job vt x.addr) x.data
        ∧ (s.loadChunk job vt x).scratch = s.scratch ∧ (s.loadChunk job vt x).localMem = s.localMem)
      ∧ (x.space = .scratch → (s.loadChunk job vt x).scratch = s.scratch.write (scratchAddr job vt x.addr) x.data
        ∧ (s.loadChunk job vt x).codeMem = s.codeMem ∧ (s.loadChunk job vt x).localMem = s.localMem)
      ∧ (x.space = .loc → (s.loadChunk job vt x).codeMem = s.codeMem ∧ (s.loadChunk job vt x).scratch = s.scratch
        ∧ (s.loadChunk job vt x).localMem = (match x.core with
          | some k => s.localMem.write (locAddr job (8 * vt + k) x.addr) x.data
          | none => (List.range 8).foldl (fun m k => m.write (locAddr job (8 * vt + k) x.addr) x.data) s.localMem)) := by
  refine ⟨fun h => ?_, fun h => ?_, fun h => ?_⟩
  · simp only [State.loadChunk, h]
    exact ⟨rfl, rfl, rfl⟩
  · simp only [State.loadChunk, h]
    exact ⟨rfl, rfl, rfl⟩
  · simp only [State.loadChunk, h]
    cases x.core with
    | some k =>
      obtain ⟨hcode, hscratch, -, hlocal⟩ := loadCores s job vt x [k]
      exact ⟨hcode, hscratch, hlocal⟩
    | none =>
      obtain ⟨hcode, hscratch, -, hlocal⟩ := loadCores s job vt x (List.range 8)
      exact ⟨hcode, hscratch, hlocal⟩


/-- A chunk that has come to a node of the chain is written to its tile, the next node is asked for a buffer, and the last one reports the
last chunk. -/
theorem chainChunk_lands {s : State} {c : Chain} {rest : List Chain} {node i n : Nat} {p : Packet} {x : ChainChunk} {j : Job}
    (hchains : s.chains = c :: rest) (hplace : c.nodes.idxOf node = i) (hwritten : c.written.getD i 0 = n) (hchunk : c.chunks[n]? = some x)
    (hpacket : chainPacket s (.ni node) (.chainChunk c.job i) = some p) (hj : s.job? c.job = some j) :
    ∃ t : State, exec (.chainChunk node) s = .next t
      ∧ (let u := (s.dropPacket p.id).loadChunk c.job (j.place.idxOf node) x
        t.codeMem = u.codeMem ∧ t.scratch = u.scratch ∧ t.localMem = u.localMem)
      ∧ t.chains = { c with written := c.written.set i (n + 1) } :: rest
      ∧ (i + 1 < c.nodes.length → Stated.Posts t (.ni node) (.ni (c.nodes.getD (i + 1) 0)) (.chainReserve c.job (i + 1)))
      ∧ (c.nodes.length ≤ i + 1 → n + 1 = c.chunks.length → Stated.Posts t (.ni node) (launchAt node) (.chainReport c.job)) := by
  rw [exec_chainChunk]
  unfold execChainChunk
  rw [hchains]
  dsimp only
  rw [hplace, hwritten, hchunk, hpacket, hj]
  dsimp only
  generalize (s.dropPacket p.id).loadChunk c.job (j.place.idxOf node) x = u
  have hbufs : ∀ v : State, v = (if i = 0 then u else u.addBufs (c.nodes.getD (i - 1) 0) (fun n => n - 1)) →
      v.codeMem = u.codeMem ∧ v.scratch = u.scratch ∧ v.localMem = u.localMem := by
    rintro v rfl
    split <;> exact ⟨rfl, rfl, rfl⟩
  generalize (if i = 0 then u else u.addBufs (c.nodes.getD (i - 1) 0) (fun n => n - 1)) = v at hbufs
  have hmems := hbufs v rfl
  by_cases hmore : i + 1 < c.nodes.length
  · rw [if_pos hmore]
    exact ⟨_, rfl, hmems, rfl, fun _ => posts_post .., fun h => absurd hmore (by omega)⟩
  · rw [if_neg hmore]
    by_cases hlast : n + 1 = c.chunks.length
    · rw [if_pos hlast]
      exact ⟨_, rfl, hmems, rfl, fun h => absurd h hmore, fun _ _ => posts_post ..⟩
    · rw [if_neg hlast]
      exact ⟨_, rfl, hmems, rfl, fun h => absurd h hmore, fun _ h => absurd h hlast⟩

/-- Settles O51: injection, the switch of a router, gating and wakes, and the chain, in turn. -/
theorem routerEvents : Obligations.RouterEvents := by
  unfold Obligations.RouterEvents
  refine ⟨?inject, ?switch, ?gate, ?wake, ?ready, ?grant, ?chunk⟩
  case inject =>
    intro s p hp hpos hmay hkind
    exact ⟨_, _, routerSwitch_injects hp hpos hmay hkind, inject_packets s p, rfl⟩
  case switch =>
    intro s p a b hp hpos hcls hready hopen hfirst hmarker
    have hexec := routerSwitch_switches hp hpos hcls hready hopen hfirst hmarker
    have hmem := mem_of_packet? hp
    refine ⟨fun hnone hne => ?_, fun hnone heq => ⟨_, _, hexec, switch_arrives hmem hnone heq, rfl⟩, fun q j w w' l k hwaits hbody hqbody =>
      ⟨_, hexec, switch_combines hmem hwaits hbody hqbody⟩⟩
    obtain ⟨hin, hwake⟩ := switch_hops hmem hnone hne
    exact ⟨_, _, _, _, _, hexec, hin, isHop_nextHop hcls hne, rfl, hwake⟩
  case gate =>
    intro s x y hx hy hopen hidle hempty hrounds
    refine ⟨_, routerGate_gates hx hy hopen hidle hempty hrounds, ?_, ?_, rfl⟩
    · rw [router_updRouter_self]
    · rw [router_updRouter_self]
  case wake =>
    intro s x y q hgated hwake hq hin hhead
    obtain ⟨w, hexec, hle, hleast⟩ := routerWake_wakes hgated hwake hq hin hhead
    refine ⟨_, w, hexec, ?_, hle, ?_, hleast⟩
    · rw [router_updRouter_self]
    · rw [router_updRouter_self]
      exact hgated
  case ready =>
    intro s x y w hwake hdue
    rw [exec_routerReady]
    simp only [execRouterReady, hwake, if_pos hdue]
    refine ⟨_, rfl, ?_, ?_, ?_⟩ <;> rw [router_updRouter_self]
  case grant =>
    intro s c rest node i p hchains hplace hlt
    refine ⟨fun hnone hreserve => ⟨fun hfull => ?_, fun hroom => ?_⟩, fun x hgrant hchunk => chainGrant_forwards hchains hplace hlt hgrant hchunk⟩
    · rw [chainGrant_grants hchains hplace hlt hnone hreserve, if_neg (by omega)]
    · rw [chainGrant_grants hchains hplace hlt hnone hreserve, if_pos hroom]
      exact ⟨_, rfl, rfl, congrArg Tile.chainBufs (tile_updTile_self (s.dropPacket p.id) node
        (fun t => { t with chainBufs := t.chainBufs + 1 })), posts_post ..⟩
  case chunk =>
    intro s c rest node i n p x j hchains hplace hwritten hchunk hpacket hj vt
    obtain ⟨t, ht, ⟨hcode, hscratch, hlocal⟩, hafter, hreserve, hreport⟩ := chainChunk_lands hchains hplace hwritten hchunk hpacket hj
    have hloads := loadChunk_mems (s.dropPacket p.id) c.job vt x
    rw [← hcode, ← hscratch, ← hlocal] at hloads
    obtain ⟨htoCode, htoScratch, htoLocal⟩ := hloads
    exact ⟨t, ht, htoCode, htoScratch, htoLocal, hafter, hreserve, hreport⟩

end Sys2Proof.Laws
end

section
/-! ## Translation, serving units and engines -/

namespace Sys2Proof.Laws
open Sys2Proof.Machine Sys2Proof.Safety

/-! ### What the use of an entry leaves (R297) -/

/-- The places of the state that a translation leaves as they were until it posts its access. -/
structure Flow where
  packets : List Packet
  reqs : List Req
  outs : List OutMsg
  jobs : Map Job
  walks : List (Nat × Access)
  tiles : Map Tile

def flowOf (s : State) : Flow := ⟨s.packets, s.reqs, s.outs, s.jobs, s.walks, s.tiles⟩

section
variable (s : State)

@[simp] theorem flowOf_writeBytes (sp : Space) (a : Nat) (bs : List Byte) (path : Path) (task acc : Nat) (rel : Option Rel) :
    flowOf (s.writeBytes sp a bs path task acc rel) = flowOf s := by
  cases sp <;> rfl

@[simp] theorem flowOf_updPte (addr pte : Nat) (f : Nat → Nat) : flowOf (s.updPte addr pte f) = flowOf s := by
  unfold State.updPte
  dsimp only
  split
  · exact flowOf_writeBytes ..
  · rfl

@[simp] theorem flowOf_loadStation (st : Nat) (e : TlbEntry) : flowOf (s.loadStation st e) = flowOf s := by
  unfold State.loadStation
  exact flowOf_updPte ..

@[simp] theorem flowOf_loadDie (die : Nat) (e : TlbEntry) : flowOf (s.loadDie die e) = flowOf s := rfl

@[simp] theorem flowOf_setDirty (st : Nat) (e : TlbEntry) : flowOf (s.setDirty st e) = flowOf s := by
  unfold State.setDirty
  split
  · rfl
  · exact flowOf_updPte s e.pteAddr e.pte fun p => putField p 5 1 1

@[simp] theorem flowOf_countAccess (die job va : Nat) : flowOf (s.countAccess die job va) = flowOf s := rfl

@[simp] theorem flowOf_freeCredit (a : Access) : flowOf (s.freeCredit a) = flowOf s := by
  unfold State.freeCredit
  split <;> rfl

end

/-- From u to t an access has left a station for the unit that serves its frame. -/
def PassedOn (u t : State) (st pa : Nat) (a : Access) : Prop :=
  ∃ (x : Packet) (y : Access), t.packets = u.packets ++ [x] ∧ t.walks = u.walks ∧ x.body = .access y ∧ y.pa = pa ∧ y.va = a.va ∧ y.kind = a.kind
    ∧ y.data = a.data ∧ y.req = a.req ∧ x.dst = servingUnit y.pa (stationEnd st).row

theorem passOn_passes (u : State) (st : Nat) (a : Access) : PassedOn u (u.passOn st a) st a.pa a := by
  unfold State.passOn
  dsimp only
  split
  next hunit => exact ⟨_, _, rfl, rfl, rfl, rfl, rfl, rfl, rfl, rfl, hunit.symm⟩
  next =>
    have hflow := flowOf_freeCredit u a
    exact ⟨_, _, congrArg (· ++ _) (congrArg Flow.packets hflow), congrArg Flow.walks hflow, rfl, rfl, rfl, rfl, rfl, rfl, rfl⟩

/-- An access of this device goes through an entry that lets it (R188, R296). -/
theorem throughEntry_passes {s u : State} {st : Nat} {e : TlbEntry} {a : Access} {sp : Space} {q : Nat} (hflow : flowOf u = flowOf s)
    (hdev : a.dev = none) (hperm : accWrites a.kind = true → pteW e.pte = true)
    (hspace : physSpace (pteFrame e.pte + a.va % 2 ^ e.bits) = some (sp, q)) :
    PassedOn s (u.throughEntry st e a) st (pteFrame e.pte + a.va % 2 ^ e.bits) a := by
  have hok : (a.dev.isSome && !ptePin e.pte || accWrites a.kind && !pteW e.pte) = false := by
    cases hw : accWrites a.kind
    · simp [hdev]
    · simp [hdev, hperm hw]
  simp only [State.throughEntry, State.useEntry, hok, Bool.false_eq_true, if_false, hspace]
  generalize hv : State.countAccess _ _ _ _ = v
  have hvflow : flowOf v = flowOf s := by
    rw [← hv, flowOf_countAccess]
    split
    · exact (flowOf_setDirty ..).trans hflow
    · exact hflow
  obtain ⟨x, y, hpackets, hwalks, hrest⟩ := passOn_passes v st { a with pa := pteFrame e.pte + a.va % 2 ^ e.bits, st := st }
  exact ⟨x, y, hpackets.trans (congrArg (· ++ [x]) (congrArg Flow.packets hvflow)), hwalks.trans (congrArg Flow.walks hvflow), hrest⟩

/-- A read or a write of this device that fails is answered with its status. -/
theorem failAccess_answers {u : State} {a : Access} (src : Endpoint) (code : Nat) (hdev : a.dev = none) (hkind : a.kind = .read ∨ a.kind = .write) :
    ∃ x, Stated.Posts (u.failAccess src a code) src a.home (.performed x) ∧ x.status = code ∧ x.req = a.req := by
  unfold State.failAccess
  dsimp only
  rw [hdev]
  rcases hkind with hk | hk <;> rw [hk] <;> simp only [State.toIssuer, hdev] <;> exact ⟨_, posts_post .., rfl, rfl⟩

theorem throughEntry_denies {u : State} {st : Nat} {e : TlbEntry} {a : Access} (hdev : a.dev = none) (hkind : a.kind = .write)
    (hperm : pteW e.pte = false) : u.throughEntry st e a = u.failAccess (stationEnd st) a 6 := by
  simp [State.throughEntry, State.useEntry, hkind, accWrites, hperm]

/-! ### A station (R297) -/

section
variable {s : State} {p : Packet} {a : Access} {d n : Nat} (harr : s.arrived? p.id = some p) (hdst : p.dst = .slice d n)
  (hbody : p.body = .access a) (hpa : a.pa = noPa) (hva : a.va < 2 ^ 52) (hnear : nearBefore { a with st := 32 * d + n } = none)
  (hjob : (s.context? a.job).isSome = true)
include harr hdst hbody hpa hva hnear hjob

/-- An access finds its entry in the TLB of the station, or in that of the die. -/
theorem stationTranslate_hits {e : TlbEntry}
    (hlook : (tlbHit s (s.stationTlb.getD (32 * d + n) []) a.job a.va).orElse
      (fun _ => tlbHit s (s.dieTlb.getD ((32 * d + n) / 32) []) a.job a.va) = some e) :
    ∃ u, flowOf u = flowOf (s.dropPacket p.id)
      ∧ exec (.stationTranslate p.id) s = .next (u.throughEntry (32 * d + n) e { a with st := 32 * d + n }) := by
  obtain ⟨j, hj⟩ := Option.isSome_iff_exists.1 hjob
  rw [exec_stationTranslate]
  simp only [execStationTranslate, harr, hdst, stationNo, hbody]
  rw [if_neg (not_not.2 hpa), hnear, hj]
  dsimp only
  rw [if_neg (Nat.not_le.2 hva)]
  cases hstation : tlbHit s (s.stationTlb.getD (32 * d + n) []) a.job a.va with
  | some e' =>
    rw [hstation] at hlook
    cases hlook
    exact ⟨{ (s.dropPacket p.id) with free := s.free + 1 }, rfl, rfl⟩
  | none =>
    rw [hstation] at hlook
    have hdie : tlbHit s (s.dieTlb.getD ((32 * d + n) / 32) []) a.job a.va = some e := hlook
    rw [hdie]
    dsimp only
    refine ⟨_, ?_, rfl⟩
    exact flowOf_loadStation { (s.dropPacket p.id) with free := s.free + 1 } (32 * d + n) e

/-- An access that no entry covers is walked, where the die has a walker. -/
theorem stationTranslate_walks
    (hlook : (tlbHit s (s.stationTlb.getD (32 * d + n) []) a.job a.va).orElse
      (fun _ => tlbHit s (s.dieTlb.getD ((32 * d + n) / 32) []) a.job a.va) = none)
    (hwalkers : (s.walks.filter (fun w => w.2.st / 32 == (32 * d + n) / 32)).length < 16) :
    exec (.stationTranslate p.id) s = .next { (s.dropPacket p.id) with
      free := s.free + 1, walks := s.walks ++ [(s.serial, { a with st := 32 * d + n })], serial := s.serial + 1 } := by
  obtain ⟨j, hj⟩ := Option.isSome_iff_exists.1 hjob
  obtain ⟨hstation, hdie⟩ : tlbHit s (s.stationTlb.getD (32 * d + n) []) a.job a.va = none
      ∧ tlbHit s (s.dieTlb.getD ((32 * d + n) / 32) []) a.job a.va = none := by
    simpa [Option.orElse_eq_none] using hlook
  rw [exec_stationTranslate]
  simp only [execStationTranslate, harr, hdst, stationNo, hbody]
  rw [if_neg (not_not.2 hpa), hnear, hj]
  dsimp only
  rw [if_neg (Nat.not_le.2 hva)]
  rw [hstation, hdie]
  dsimp only
  rw [if_pos hwalkers]
  rfl
end

/-! ### Walks and parking (R296, R300) -/

section
variable {s : State} {w : Nat × Access} {j : Job} (hw : s.walks.find? (fun x => x.1 == w.1) = some w) (hjob : s.context? w.2.job = some j)
include hw hjob

/-- A walk that ends goes on as its access's look-up does. -/
theorem pageWalk_ends : exec (.pageWalk w.1) s = .next { ((({ s with walks := s.walks.filter (fun x => x.1 != w.1) }).looked w.2
    (({ s with walks := s.walks.filter (fun x => x.1 != w.1) }).walkFor w.2.st w.2.job j.ptroot w.2.va))) with free := s.free + 1 } := by
  have hctx : ({ s with walks := s.walks.filter (fun x => x.1 != w.1) } : State).context? w.2.job = some j := hjob
  rw [exec_pageWalk]
  simp only [execPageWalk, hw, State.walked, hctx]

/-- The end of a walk on a present page. -/
theorem pageWalk_page {v e addr bits q : Nat} {sp : Space} (hdev : w.2.dev = none) (hwalk : s.walk j.ptroot w.2.va = .page v e addr bits)
    (hbusy : pteBusy e = false) (hperm : accWrites w.2.kind = true → pteW e = true)
    (hspace : physSpace (pteFrame e + w.2.va % 2 ^ bits) = some (sp, q)) :
    ∃ t, exec (.pageWalk w.1) s = .next t
      ∧ PassedOn { s with walks := s.walks.filter (fun x => x.1 != w.1) } t w.2.st (pteFrame e + w.2.va % 2 ^ bits) w.2 := by
  have hwalk' : ({ s with walks := s.walks.filter (fun x => x.1 != w.1) } : State).walk j.ptroot w.2.va = .page v e addr bits := hwalk
  rw [pageWalk_ends hw hjob]
  simp only [State.walkFor, hwalk', hbusy, Bool.false_eq_true, if_false, State.looked]
  refine ⟨_, rfl, ?_⟩
  exact throughEntry_passes (e := ⟨w.2.job, w.2.va / 2 ^ bits * 2 ^ bits, bits, e, addr, false⟩)
    ((flowOf_loadStation ..).trans (flowOf_loadDie ..)) hdev hperm hspace

theorem pageWalk_nomap (hdev : w.2.dev = none) (hwalk : s.walk j.ptroot w.2.va = .nomap) (hkind : w.2.kind = .read ∨ w.2.kind = .write) :
    ∃ t x, exec (.pageWalk w.1) s = .next t ∧ Stated.Posts t (stationEnd w.2.st) w.2.home (.performed x) ∧ x.status = 5 ∧ x.req = w.2.req := by
  have hwalk' : ({ s with walks := s.walks.filter (fun x => x.1 != w.1) } : State).walk j.ptroot w.2.va = .nomap := hwalk
  rw [pageWalk_ends hw hjob]
  simp only [State.walkFor, hwalk', State.looked]
  obtain ⟨x, hposts, hstatus, hreq⟩ := failAccess_answers (u := { s with walks := s.walks.filter (fun x => x.1 != w.1) }) (stationEnd w.2.st) 5
    hdev hkind
  exact ⟨_, x, rfl, posts_congr (by rfl) hposts, hstatus, hreq⟩

/-- The end of a walk on a page in storage. -/
theorem pageWalk_locator {e addr bits : Nat} (hdev : w.2.dev = none) (hwalk : s.walk j.ptroot w.2.va = .locator e addr bits) :
    exec (.pageWalk w.1) s
      = .next { ((({ s with walks := s.walks.filter (fun x => x.1 != w.1) }).parkStored w.2 addr e bits)) with free := s.free + 1 } := by
  have hwalk' : ({ s with walks := s.walks.filter (fun x => x.1 != w.1) } : State).walk j.ptroot w.2.va = .locator e addr bits := hwalk
  rw [pageWalk_ends hw hjob]
  simp only [State.walkFor, hwalk', State.looked, hdev, Option.isSome_none, Bool.false_eq_true, if_false]
end

/-- A request that joins the record of its page is among its requests. -/
theorem mem_joinRecord (addr : Nat) (a : Access) (l : List Parking) : ∃ r ∈ joinRecord addr a l, r.pteAddr = addr ∧ a ∈ r.parked := by
  induction l with
  | nil => exact ⟨_, List.mem_singleton_self _, rfl, List.mem_singleton_self _⟩
  | cons r l ih =>
    rw [joinRecord]
    split
    next h => exact ⟨_, List.mem_cons_self, h, List.mem_append_right _ (List.mem_singleton_self _)⟩
    next =>
      obtain ⟨r', hr', hprop⟩ := ih
      exact ⟨r', List.mem_cons_of_mem _ hr', hprop⟩

theorem mem_parkedOn {s : State} {die addr : Nat} {a : Access} {l : List Parking} {r : Parking} (hl : s.services.get? die = some l) (hr : r ∈ l)
    (haddr : r.pteAddr = addr) (ha : a ∈ r.parked) : a ∈ parkedOn s addr :=
  List.mem_flatMap.2 ⟨(die, l), mem_of_get? hl, List.mem_flatMap.2 ⟨r, List.mem_filter.2 ⟨hr, by simp [haddr]⟩, ha⟩⟩

/-- A request of this device with no forward credit is parked on its page, whose record goes to the engine of its port. -/
theorem parkStored_parks {u : State} {a : Access} (addr e bits : Nat) (hroom : parkedCount u (a.st / 32) < 4096) (hnode : a.node = 0) :
    a ∈ parkedOn (u.parkStored a addr e bits) addr ∧ ∃ r ∈ (u.parkStored a addr e bits).sqes.getD (locPort e) [], r.pteAddr = addr := by
  have hcredit : u.freeCredit a = u := by simp [State.freeCredit, hnode]
  have hsame : { a with node := 0 } = a := by rw [← hnode]
  have hpark : u.park a addr = { u with services := u.services.set (a.st / 32) (joinRecord addr a (u.services.getD (a.st / 32) [])) } := by
    simp only [State.park, if_neg (Nat.not_le.2 hroom), hsame]
  obtain ⟨r, hr, haddr, ha⟩ := mem_joinRecord addr a (u.services.getD (a.st / 32) [])
  rw [State.parkStored, if_neg (Nat.not_le.2 hroom), hcredit, hpark]
  unfold State.handOver
  dsimp only
  split
  next hany =>
    obtain ⟨q, hq, hqaddr⟩ := List.any_eq_true.1 hany
    exact ⟨mem_parkedOn (Map.get?_set_self ..) hr haddr ha, q, hq, by simpa using hqaddr⟩
  next =>
    refine ⟨mem_parkedOn (Map.get?_set_self ..) hr haddr ha, ⟨addr, e, bits, none, 0, none, false⟩, ?_, rfl⟩
    rw [Map.getD_set_self]
    exact List.mem_append_right _ (List.mem_singleton_self _)

/-- A request that was refused a place is sent again after its time. -/
theorem parkedRequestResend_sends {s : State} {p : Packet} {a : Access} (harr : s.arrived? p.id = some p) (hbody : p.body = .parkRefused a)
    (hdue : p.ready + 64 ≤ s.clk) : exec (.parkedRequestResend p.id) s = .next ((s.dropPacket p.id).toStation { a with pa := noPa } 0 []) := by
  rw [exec_parkedRequestResend]
  simp only [execParkedRequestResend, harr, hbody, if_pos hdue]

/-! ### The completion of a request (R178, R180) -/

/-- The fields of a completion header. -/
theorem completionHdr_fields {x n v : Nat} (hn : n < 16) :
    let h := BitVec.ofNat 64 (fieldOf x 0 26 + 67108864 * n + 4294967296 * v)
    fieldOf h.toNat 0 26 = fieldOf x 0 26 ∧ hdrLen h = n ∧ hdrWeight h = v % 2 ^ 32 := by
  have hlow : fieldOf x 0 26 < 67108864 := lt_of_fieldOf x 0 26
  simp only [hdrLen, hdrWeight, fieldOf, BitVec.toNat_ofNat] at hlow ⊢
  omega

/-- A DONE counter rises in its tile alone. -/
theorem doneRise_packets (s : State) (post job : Nat) (k : Know) : (s.doneRise post job k).packets = s.packets := by
  unfold State.doneRise
  split <;> rfl

/-- A unit reports a completion: a message, or with NOMSG a pod. -/
theorem complete_reports {s t : State} (src : Endpoint) (job vcore v : Nat) (cm : Cmsg) (status : Word) (results : List Word) (acq : Bool)
    (know : Know) (post : Nat) (houts : t.outs = s.outs) (hjobs : t.jobs = s.jobs) :
    Stated.Reports s (t.complete src job vcore v cm status results acq know post) src job v cm (status :: cm.tag :: results) := by
  refine ⟨fun hno hv j hj hcensus => ?_, fun hmsg hlen hjob => ?_⟩
  · have hj' : t.job? job = some j := (job?_congr hjobs job).trans hj
    have hpod := pod_posts (src := src) false false hj' hcensus hv
    simp only [State.complete, hno, if_true]
    rw [doneRise_packets, hpod]
    exact ⟨_, List.mem_append_right _ (List.mem_singleton_self _), rfl, rfl, rfl⟩
  · obtain ⟨j, hj⟩ := Option.isSome_iff_exists.1 hjob
    have hj' : t.job? job = some j := (job?_congr hjobs job).trans hj
    obtain ⟨hlow, hl, hw⟩ := completionHdr_fields (x := cm.word.toNat) (n := 2 + results.length) (v := v)
      (by simp only [List.length_cons] at hlen; omega)
    simp only [State.complete, hmsg, Bool.false_eq_true, if_false, hj']
    refine ⟨_, congrArg (· ++ _) houts, rfl, rfl, rfl, hlow, hl.trans ?_, hw⟩
    simp only [List.length_cons]
    omega

theorem complete_reqs (s : State) (src : Endpoint) (job vcore v : Nat) (cm : Cmsg) (status : Word) (results : List Word) (acq : Bool) (know : Know)
    (post : Nat) : (s.complete src job vcore v cm status results acq know post).reqs = s.reqs := by
  unfold State.complete
  split
  · have hrise (u : State) : (u.doneRise post job know.allPaths).reqs = u.reqs := by
      unfold State.doneRise
      split <;> rfl
    rw [hrise, State.pod_reqs]
  · split <;> rfl

/-- A request that completes is forgotten, and its completion is reported. -/
theorem finishReq_completed {s t : State} {q r : Req} (src : Endpoint) (acq : Bool) (results : List Word) (hid : q.id = r.id) (hjob : q.job = r.job)
    (hv : q.v = r.v) (hcm : q.cm = r.cm) (houts : t.outs = s.outs) (hjobs : t.jobs = s.jobs) :
    Stated.Completed s (t.finishReq src q acq results) src r (statusWord q.code q.flags q.count :: r.cm.tag :: results) := by
  unfold State.finishReq
  refine ⟨?_, ?_⟩
  · rw [State.req?, complete_reqs, ← hid]
    exact find?_filter_num Req.id _ _
  · rw [← hjob, ← hv, ← hcm]
    exact complete_reports src q.job q.vcore q.v q.cm _ results acq _ q.post houts hjobs

/-! ### Bytes at a serving unit (R187, R189) -/

theorem mem_writeBytes (s : State) (sp : Space) (a : Nat) (bs : List Byte) (path : Path) (task acc : Nat) (rel : Option Rel) :
    (s.writeBytes sp a bs path task acc rel).mem sp = (s.mem sp).write a bs := by
  cases sp <;> rfl

theorem acquireAt_keeps (s : State) (req : Nat) (sc : Scope) (core : Nat) (sp : Space) (at_ : Nat) (rels : List Rel) :
    (s.acquireAt req sc core sp at_ rels).mem = s.mem ∧ (s.acquireAt req sc core sp at_ rels).packets = s.packets := by
  unfold State.acquireAt
  split
  · exact ⟨rfl, rfl⟩
  · exact ⟨by funext sp; cases sp <;> rfl, rfl⟩

/-- A read on the COPY path where no write is unseen. -/
theorem copyRead_settled {s : State} (a : Access) (sp : Space) (pa : Nat) (h : s.writes = []) :
    (s.copyRead a sp pa).2 = (s.mem sp).read pa a.len ∧ (s.copyRead a sp pa).1.mem = s.mem := by
  unfold State.copyRead
  dsimp only
  refine ⟨readBytes_of_no_writes h .., ?_⟩
  split
  · exact (acquireAt_keeps ..).1
  · rfl

theorem toIssuer_here {s : State} {a : Access} (src : Endpoint) (h : a.dev = none) : s.toIssuer src a = s.answer src a (.performed a) := by
  simp [State.toIssuer, h]

theorem mem_answer (s : State) (src : Endpoint) (a : Access) (b : Body) : (s.answer src a b).mem = s.mem := by
  funext sp
  cases sp <;> rfl

section
variable {s : State} {a : Access} {sp : Space} {pa : Nat} (src : Endpoint) (hspace : physSpace a.pa = some (sp, pa)) (hdev : a.dev = none)
include hspace hdev

theorem performPiece_read (hk : a.kind = .read) (hwrites : s.writes = []) :
    performPiece s src a
      = (s.copyRead a sp pa).1.answer src { a with data := (s.mem sp).read pa a.len } (.performed { a with data := (s.mem sp).read pa a.len }) := by
  unfold performPiece
  rw [hspace]
  dsimp only
  split
  next =>
    rw [(copyRead_settled a sp pa hwrites).1]
    exact toIssuer_here src hdev
  next h => cases hk.symm.trans h
  next h => cases hk.symm.trans h
  next hno _ _ => exact absurd hk hno

theorem performPiece_write (hk : a.kind = .write) :
    performPiece s src a = (s.writeBytes sp pa a.data .copy a.task a.acc a.rel).answer src { a with data := [] } (.performed { a with data := [] }) := by
  unfold performPiece
  rw [hspace]
  dsimp only
  split
  next h => cases hk.symm.trans h
  next => exact toIssuer_here src hdev
  next h => cases hk.symm.trans h
  next hno _ => exact absurd hk hno

theorem performPiece_store (hk : a.kind = .store) :
    performPiece s src a = ((s.writeBytes sp pa a.data .core a.task a.acc a.rel).performAcc a.acc).reply src (.ni (tileOf a.core)) a.job
      (.holdAck a.task a.acc) := by
  simp only [performPiece, hspace, hk]
end

section
variable {s : State} {p : Packet} {a : Access} {sp : Space} {pa : Nat} (hat : Stated.AtUnit s p a sp pa)
include hat

theorem globalPiecePerform_performs (hpiece : isPiece a.kind = true) :
    exec (.globalPiecePerform p.id) s = .next { (performPiece (s.dropPacket p.id) p.dst a) with free := s.free + 1 } := by
  obtain ⟨harr, hbody, hdst, hpa, -, hdev⟩ := hat
  rw [exec_globalPiecePerform]
  unfold execGlobalPiecePerform
  rw [harr]
  dsimp only
  rw [hbody]
  cases hd : p.dst with
  | ni tile => exact absurd hd (hdst tile)
  | _ =>
    dsimp only
    rw [if_neg (by simp [hpa, hpiece]), if_neg (by simp [hdev]), if_neg (by simp [hdev])]

/-- A read, a write and a store at the unit that serves them. -/
theorem pieces_performed :
    (a.kind = .read → s.writes = [] →
      ∃ t : State, ∃ x, exec (.globalPiecePerform p.id) s = .next t ∧ Stated.Posts t p.dst a.home (.performed x)
        ∧ x = { a with data := (s.mem sp).read pa a.len } ∧ t.mem sp = s.mem sp)
    ∧ (a.kind = .write →
      ∃ t : State, exec (.globalPiecePerform p.id) s = .next t ∧ t.mem sp = (s.mem sp).write pa a.data
        ∧ Stated.Posts t p.dst a.home (.performed { a with data := [] }))
    ∧ (a.kind = .store →
      ∃ t : State, exec (.globalPiecePerform p.id) s = .next t ∧ t.mem sp = (s.mem sp).write pa a.data
        ∧ Stated.Posts t p.dst (.ni (tileOf a.core)) (.holdAck a.task a.acc)) := by
  have hspace : physSpace a.pa = some (sp, pa) := hat.2.2.2.2.1
  have hdev : a.dev = none := hat.2.2.2.2.2
  refine ⟨fun hk hwrites => ?_, fun hk => ?_, fun hk => ?_⟩
  · refine ⟨_, _, globalPiecePerform_performs hat (by rw [hk]; rfl), ?_, rfl, ?_⟩
    · rw [performPiece_read p.dst hspace hdev hk (by exact hwrites)]
      exact posts_congr (by rfl) (posts_post ..)
    · rw [performPiece_read p.dst hspace hdev hk (by exact hwrites)]
      have hsame := congrFun ((mem_answer ((s.dropPacket p.id).copyRead a sp pa).1 p.dst { a with data := (s.mem sp).read pa a.len }
        (.performed { a with data := (s.mem sp).read pa a.len })).trans (copyRead_settled (s := s.dropPacket p.id) a sp pa hwrites).2) sp
      cases sp <;> exact hsame
  · refine ⟨_, globalPiecePerform_performs hat (by rw [hk]; rfl), ?_, ?_⟩
    · rw [performPiece_write p.dst hspace hdev hk]
      have hwritten := mem_writeBytes (s.dropPacket p.id) sp pa a.data .copy a.task a.acc a.rel
      cases sp <;> exact hwritten
    · rw [performPiece_write p.dst hspace hdev hk]
      exact posts_congr (by rfl) (posts_post ..)
  · refine ⟨_, globalPiecePerform_performs hat (by rw [hk]; rfl), ?_, ?_⟩
    · rw [performPiece_store p.dst hspace hdev hk]
      have hwritten := mem_writeBytes (s.dropPacket p.id) sp pa a.data .core a.task a.acc a.rel
      cases sp <;> exact hwritten
    · rw [performPiece_store p.dst hspace hdev hk]
      exact posts_congr (by rfl) (posts_reply ..)
end

/-! ### Pieces and results come back to the NI (R180, R187) -/

/-- The grant of banks changes the tiles, and nothing else. -/
theorem takeBanks_tiles {s t : State} {tile port : Nat} {lines : List Nat} (h : s.takeBanks tile port lines = some t) :
    ∃ ts, t = { s with tiles := ts } := by
  have hfold (l : List Nat) (u : State) (hu : ∃ ts, u = { s with tiles := ts }) :
      ∃ ts, l.foldl (fun st b => st.grantedFor tile b port (lines.count b)) u = { s with tiles := ts } := by
    induction l generalizing u with
    | nil => exact hu
    | cons b l ih =>
      obtain ⟨ts, rfl⟩ := hu
      obtain ⟨ts', hts'⟩ := grantedFor_eq { s with tiles := ts } tile b port (lines.count b)
      exact ih _ ⟨ts', hts'⟩
  unfold State.takeBanks at h
  dsimp only at h
  split at h
  · obtain ⟨ts, hts⟩ := hfold lines.dedup s ⟨s.tiles, rfl⟩
    exact ⟨ts, (Option.some.inj h).symm.trans hts⟩
  · cases h

theorem pieceDone_counts {s : State} {r : Req} (acq : Bool) (h : 1 < r.left) :
    s.pieceDone r acq = s.updReq r.id (fun _ => { r with left := r.left - 1 }) := by
  rw [State.pieceDone, if_neg (Nat.not_le.2 h)]

section
variable {s : State} {p : Packet} {a : Access} {r : Req} (harr : s.arrived? p.id = some p) (hbody : p.body = .performed a)
  (hreq : s.req? a.req = some r) (hstatus : a.status = 0)
include harr hbody hreq

theorem pieceLanding_lands {t : State} (hback : pieceBack (s.dropPacket p.id) r a = some t) :
    exec (.pieceLanding p.id) s = .next { t with free := s.free + 1 } := by
  have hreq' : (s.dropPacket p.id).req? a.req = some r := hreq
  rw [exec_pieceLanding]
  simp only [execPieceLanding, harr, landed, hbody, hreq', hback]

include hstatus

theorem gwr_back {g l n : Nat} {tile : Bool} (hkind : r.kind = .gwr g l n tile) :
    pieceBack (s.dropPacket p.id) r a = some ((s.dropPacket p.id).pieceDone { r with count := r.count + a.len } false) := by
  simp only [pieceBack, landPiece, hkind, hstatus, ne_eq, not_true, if_false]

/-- A piece of a `gwr` is counted; the last one completes it. -/
theorem gwr_lands {g l n : Nat} {tile : Bool} (hkind : r.kind = .gwr g l n tile) :
    (1 < r.left → ∃ t : State, exec (.pieceLanding p.id) s = .next t ∧ t.req? r.id = some { r with left := r.left - 1, count := r.count + a.len })
      ∧ (r.left = 1 → ∃ t : State, exec (.pieceLanding p.id) s = .next t
          ∧ Stated.Completed s t (.ni (tileOf r.core)) r [statusWord r.code r.flags (r.count + a.len), r.cm.tag]) := by
  have hexec := pieceLanding_lands harr hbody hreq (gwr_back harr hbody hreq hstatus hkind)
  have hid := id_of_req? hreq
  refine ⟨fun hmore => ⟨_, hexec, ?_⟩, fun hlast => ⟨_, hexec, ?_⟩⟩
  · rw [pieceDone_counts _ (by exact hmore)]
    exact req?_updReq (s := s.dropPacket p.id) (f := fun _ => { r with count := r.count + a.len, left := r.left - 1 }) (hid ▸ hreq) fun _ _ => rfl
  · rw [State.pieceDone, if_pos (by exact hlast.le)]
    exact finishReq_completed (s := s) (t := s.dropPacket p.id) (q := { r with count := r.count + a.len, left := 0 }) (.ni (tileOf r.core)) false []
      rfl rfl rfl rfl rfl rfl

/-- A piece of a `grd` lands in its tile. -/
theorem grd_lands {g l n : Nat} {tile q : Bool} (hkind : r.kind = .grd g l n tile q) (hmore : 1 < r.left)
    (hport : ((s.dropPacket p.id).niPort (tileOf r.core) portLanding (reqSide r) a.landing a.len).isSome = true) :
    ∃ t : State, exec (.pieceLanding p.id) s = .next t ∧ t.req? r.id = some { r with left := r.left - 1, count := r.count + a.len }
      ∧ (if tile then t.scratch = s.scratch.write a.landing a.data else t.localMem = s.localMem.write a.landing a.data) := by
  obtain ⟨s1, hs1⟩ := Option.isSome_iff_exists.1 hport
  obtain ⟨ts, hts⟩ := takeBanks_tiles hs1
  have hback : pieceBack (s.dropPacket p.id) r a
      = some ((s1.writeBytes (reqSide r) a.landing a.data .copy r.task r.acc none).pieceDone { r with count := r.count + a.len } q) := by
    unfold pieceBack landPiece
    rw [hkind, if_neg (by simp [hstatus])]
    dsimp only
    rw [hs1]
    rfl
  have hid := id_of_req? hreq
  refine ⟨_, pieceLanding_lands harr hbody hreq hback, ?_, ?_⟩
  · have hreqs := congrArg Flow.reqs (flowOf_writeBytes s1 (reqSide r) a.landing a.data .copy r.task r.acc none)
    have hold : (s1.writeBytes (reqSide r) a.landing a.data .copy r.task r.acc none).req? r.id = some r := by
      rw [State.req?, show (s1.writeBytes (reqSide r) a.landing a.data .copy r.task r.acc none).reqs = s.reqs from hreqs.trans (by rw [hts]; rfl), hid]
      exact hreq
    rw [pieceDone_counts _ (by exact hmore)]
    exact req?_updReq (f := fun _ => { r with count := r.count + a.len, left := r.left - 1 }) hold fun _ _ => rfl
  · rw [pieceDone_counts q (by exact hmore), hts]
    cases tile <;> simp only [reqSide, hkind] <;> rfl

omit hstatus in
/-- The answer of a near-memory operation completes its request. -/
theorem near_lands {f : Nat} {b : List Word} (hstatus : a.status = 0) (hkind : r.kind = .near f b) : ∃ t : State, exec (.pieceLanding p.id) s = .next t
    ∧ Stated.Completed s t (.ni (tileOf r.core)) r ([statusWord 0 a.flags 0, r.cm.tag] ++ leWords a.data (a.data.length / 8)) := by
  have hback : pieceBack (s.dropPacket p.id) r a = some (landNear (s.dropPacket p.id) r 0 a.flags (leWords a.data (a.data.length / 8))) := by
    simp only [pieceBack, hkind, hstatus]
  refine ⟨_, pieceLanding_lands harr hbody hreq hback, ?_⟩
  exact finishReq_completed (s := s) (t := s.dropPacket p.id) (q := { r with code := 0, flags := a.flags, count := 0 }) (.ni (tileOf r.core))
    (cmAcq r.cm) (leWords a.data (a.data.length / 8)) rfl rfl rfl rfl rfl rfl
end

/-! ### Engines (R191, R192, R193, R326) -/

/-- The bytes just written are read back. -/
theorem read_write_same (m : Memory) (a : Nat) (bs : List Byte) (h : m.wf = true) : (m.write a bs).read a bs.length = bs := by
  rw [read_eq_map]
  refine List.ext_getElem (by simp) fun i h1 h2 => ?_
  rw [List.getElem_map, List.getElem_range, Memory.get_write_inside m a i bs h h2, List.getD_eq_getElem _ _ h2]

theorem leNat_bytesOfNat (w n : Nat) : leNat (bytesOfNat w n) = w % 256 ^ n := by
  induction n generalizing w with
  | zero => simp [bytesOfNat, leNat, Nat.mod_one]
  | succ n ih =>
    rw [bytesOfNat, leNat, ih, Nat.pow_succ, Nat.mul_comm (256 ^ n), Nat.mod_mul]
    simp

theorem leNat_lt (l : List Byte) : leNat l < 256 ^ l.length := by
  induction l with
  | nil => simp [leNat]
  | cons b l ih =>
    have hb := b.isLt
    rw [leNat, List.length_cons, Nat.pow_succ]
    omega

theorem mem_nearAcquires (s : State) (a : Access) (sp : Space) (pa n : Nat) : (s.nearAcquires a sp pa n).mem = s.mem := by
  unfold State.nearAcquires
  split
  · split
    · exact (acquireAt_keeps ..).1
    · rfl
  · rfl

theorem mem_freeCredit (s : State) (a : Access) : (s.freeCredit a).mem = s.mem := by
  funext sp
  unfold State.freeCredit
  split <;> cases sp <;> rfl

/-- An operation of this device that has been performed is answered. -/
theorem nearDone_answers {s : State} {a : Access} (src : Endpoint) (status flags : Nat) (results : List Word) (hdev : a.dev = none) :
    (s.nearDone src a status flags results).mem = s.mem
      ∧ Stated.Posts (s.nearDone src a status flags results) src a.home
        (.performed { a with status := status, flags := flags, data := results.flatMap wordBytes, node := 0 }) := by
  unfold State.nearDone
  dsimp only
  rw [toIssuer_here src (by exact hdev)]
  refine ⟨?_, posts_post ..⟩
  rw [mem_answer, mem_freeCredit]
  funext sp
  split <;> cases sp <;> rfl

/-- What an atomic does to its location (R191): the new value fits, and where nothing is written it is the old one. -/
theorem nearOp_atomic {e : Nat × (Bool → Nat → Nat → Nat → Nat → Nat)} (he : e ∈ Stated.atomics) (b : List Word) (old : List Byte)
    (hlen : old.length = if (wordAt b 0).testBit 13 then 8 else 4) :
    let n := if (wordAt b 0).testBit 13 then 8 else 4
    let new := e.2 ((wordAt b 0).testBit 14) (8 * n) (leNat old) (wordAt b 4 % 2 ^ (8 * n)) (wordAt b 5 % 2 ^ (8 * n))
    new < 256 ^ n ∧ (nearOp e.1 b old).results = [BitVec.ofNat 64 (leNat old)]
      ∧ ((nearOp e.1 b old).new = some (bytesOfNat new n) ∨ ((nearOp e.1 b old).new = none ∧ new = leNat old)) := by
  intro n new
  have hpow : 2 ^ (8 * n) = 256 ^ n := by rw [Nat.pow_mul]
  have hold : leNat old < 256 ^ n := (show old.length = n from hlen) ▸ leNat_lt old
  have hx : wordAt b 4 % 2 ^ (8 * n) < 256 ^ n := hpow ▸ Nat.mod_lt _ (Nat.two_pow_pos _)
  have hy : wordAt b 5 % 2 ^ (8 * n) < 256 ^ n := hpow ▸ Nat.mod_lt _ (Nat.two_pow_pos _)
  simp only [Stated.atomics, List.mem_cons, List.not_mem_nil, or_false] at he
  rcases he with rfl | rfl | rfl | rfl
  · exact ⟨hpow ▸ Nat.mod_lt _ (Nat.two_pow_pos _), rfl, .inl rfl⟩
  · refine ⟨?_, rfl, .inl rfl⟩
    simp only [new]
    split
    · exact max_lt hold hx
    · split
      · exact hx
      · exact hold
  · simp only [new, nearOp]
    split
    · exact ⟨hy, trivial, .inl rfl⟩
    · exact ⟨hold, trivial, .inr ⟨rfl, rfl⟩⟩
  · exact ⟨hx, rfl, .inl rfl⟩

theorem mem_nearWrite (s : State) (a : Access) (sp : Space) (pa : Nat) (bs : List Byte) :
    (s.nearWrite a sp pa bs).mem sp = (s.mem sp).write pa bs := mem_writeBytes ..

/-- An atomic at its engine: its location holds the new value, the rest of the memory its old bytes, and the answer the old value. -/
theorem performOp_atomic {s : State} {a : Access} {sp : Space} {pa : Nat} {b : List Word} {e : Nat × (Bool → Nat → Nat → Nat → Nat → Nat)}
    (src : Endpoint) (he : e ∈ Stated.atomics) (hspace : physSpace a.pa = some (sp, pa)) (hdev : a.dev = none)
    (hlen : a.len = if (wordAt b 0).testBit 13 then 8 else 4) (hwf : (s.mem sp).wf = true) :
    let n := if (wordAt b 0).testBit 13 then 8 else 4
    let old := leNat ((s.mem sp).read pa n)
    let t := performOp s src a e.1 b
    leNat ((t.mem sp).read pa n)
        = e.2 ((wordAt b 0).testBit 14) (8 * n) old (wordAt b 4 % 2 ^ (8 * n)) (wordAt b 5 % 2 ^ (8 * n))
      ∧ (∀ c, c < pa ∨ pa + n ≤ c → (t.mem sp).get c = (s.mem sp).get c)
      ∧ ∃ x, Stated.Posts t src a.home (.performed x) ∧ x.req = a.req ∧ x.status = 0 ∧ x.data = wordBytes (BitVec.ofNat 64 old) := by
  intro n old t
  have hlen' : a.len = n := hlen
  obtain ⟨hfits, hresults, hnew⟩ := nearOp_atomic he b ((s.mem sp).read pa n) (by rw [read_eq_map, List.length_map, List.length_range])
  have hmem := mem_nearAcquires s a sp pa a.len
  have ht : t = (match (nearOp e.1 b ((s.mem sp).read pa n)).new with
      | some bs => (s.nearAcquires a sp pa a.len).nearWrite a sp pa bs
      | none => s.nearAcquires a sp pa a.len).nearDone src a 0 (nearOp e.1 b ((s.mem sp).read pa n)).flags [BitVec.ofNat 64 old] := by
    simp only [t, performOp, hspace, hlen', hresults, old] <;> rfl
  generalize hu : (match (nearOp e.1 b ((s.mem sp).read pa n)).new with
      | some bs => (s.nearAcquires a sp pa a.len).nearWrite a sp pa bs
      | none => s.nearAcquires a sp pa a.len) = u at ht
  obtain ⟨htmem, hposts⟩ := nearDone_answers (s := u) src 0 (nearOp e.1 b ((s.mem sp).read pa n)).flags [BitVec.ofNat 64 old] hdev
  rw [← ht] at htmem hposts
  rw [htmem]
  refine ⟨?_, ?_, _, hposts, rfl, rfl, by simp⟩
  · rcases hnew with hsome | ⟨hnone, hsame⟩
    · rw [← hu, hsome, mem_nearWrite, hmem]
      have hself := read_write_same (s.mem sp) pa (bytesOfNat (e.2 ((wordAt b 0).testBit 14) (8 * n) old (wordAt b 4 % 2 ^ (8 * n))
        (wordAt b 5 % 2 ^ (8 * n))) n) hwf
      rw [bytesOfNat_length] at hself
      rw [hself, leNat_bytesOfNat, Nat.mod_eq_of_lt hfits]
    · rw [← hu, hnone, hmem]
      exact hsame.symm
  · intro c hc
    rcases hnew with hsome | ⟨hnone, -⟩
    · rw [← hu, hsome, mem_nearWrite, hmem]
      exact Memory.get_write_outside _ _ _ _ (by rwa [bytesOfNat_length])
    · rw [← hu, hnone, hmem]

section
variable {s : State} {p : Packet} {a : Access} {j : Job} (hint : Nat) (hjob : s.context? a.job = some j) (hnode : a.node = 0)
include hjob hnode

theorem acceptNear_turnsAway (hfull : 32 ≤ queuedBefore s p) :
    acceptNear s p a hint = ({ (s.dropPacket p.id) with free := s.free + 1 }).turnAway p.dst a hint := by
  unfold acceptNear
  rw [hjob]
  dsimp only
  rw [if_neg (by simp [hnode]), if_pos (by exact hfull)]

/-- An operation that is first in the queue of its engine is performed. -/
theorem acceptNear_performs {f : Nat} {b : List Word} (hfirst : queuedBefore s p = 0) (hkind : a.kind = .near f b) (hf : f ≠ 5) :
    acceptNear s p a hint = engineDo { (s.dropPacket p.id) with free := s.free + 1 } p.dst j a := by
  unfold acceptNear
  rw [hjob]
  dsimp only
  rw [if_neg (by simp [hnode]), if_neg (by simp [hfirst, engineQueue]), if_neg (by simp [hfirst])]
  split
  next hchase _ => exact absurd (hkind.symm.trans hchase) (by simp [hf])
  next => rfl

/-- A chase takes a forward credit of its slice. -/
theorem acceptNear_chases {b : List Word} {d n : Nat} (hfirst : queuedBefore s p = 0) (hkind : a.kind = .near 5 b) (hdst : p.dst = .slice d n)
    (hcredit : s.fwdCredits.getD (32 * d + n) 0 < 16) :
    acceptNear s p a hint = engineDo { (s.dropPacket p.id) with
      free := s.free + 1, fwdCredits := s.fwdCredits.set (32 * d + n) (s.fwdCredits.getD (32 * d + n) 0 + 1) } p.dst j
      { a with node := 32 * d + n + 1 } := by
  have hused : creditsUsed s p.dst = s.fwdCredits.getD (32 * d + n) 0 := by simp only [creditsUsed, hdst, stationNo]
  unfold acceptNear
  rw [hjob]
  dsimp only
  rw [if_neg (by simp [hnode]), if_neg (by simp [hfirst, engineQueue]), if_neg (by simp [hfirst])]
  split
  next b' st hk hst =>
    obtain rfl : 32 * d + n = st := by rw [hdst] at hst; exact Option.some.inj hst
    rw [if_neg (by rw [hused]; omega), hused]
    rfl
  next hno => exact absurd (by rw [hdst]; rfl) (hno b (32 * d + n) hkind)
end

/-- A further address that an entry of the station covers is reached (R297). -/
theorem reachAt_there {s : State} {src : Endpoint} {j : Job} {a : Access} {va : Nat} {write : Bool} {sp : Space} {q : Nat} (hdev : a.dev = none)
    (hreach : Stated.Reaches s ((stationNo src).getD a.st) a.job va write sp q) :
    ∃ job', reachAt s src j a va write = .there (s.countAccess ((stationNo src).getD a.st / 32) job' va) sp q := by
  obtain ⟨e, hfind, hva, hw, hspace⟩ := hreach
  have hhit : tlbHit s (s.stationTlb.getD ((stationNo src).getD a.st) []) a.job va = some e := by
    simp only [tlbHit, hfind]
  have hperm : (a.dev.isSome && !ptePin e.pte || write && !pteW e.pte) = false := by
    cases write
    · simp [hdev]
    · simp [hdev, (hw rfl).1]
  have hdirty : (if write then s.setDirty ((stationNo src).getD a.st) e else s) = s := by
    cases write
    · rfl
    · simp [State.setDirty, (hw rfl).2]
  refine ⟨e.job, ?_⟩
  unfold reachAt
  dsimp only
  rw [if_neg (Nat.not_le.2 hva)]
  simp only [State.look, hhit, State.useEntry, hperm, Bool.false_eq_true, if_false, hspace, hdirty]

/-- `near.enq` on an empty queue (R192): the node's link is cleared, and the tail and the head become the node. -/
theorem performEnq_empty {s : State} {src : Endpoint} {j : Job} {a : Access} {b : List Word} {pa np : Nat} (hspace : physSpace a.pa = some (.hbm, pa))
    (hdev : a.dev = none) (hreach : Stated.Reaches s ((stationNo src).getD a.st) a.job (wordAt b 4) true .hbm np)
    (hempty : leNat (s.hbm.read (pa + 8) 8) = 0) :
    ∃ x, (performEnq s src j a b).hbm
        = ((s.hbm.write np (bytesOfNat 0 8)).write (pa + 8) (bytesOfNat (wordAt b 4) 8)).write pa (bytesOfNat (wordAt b 4) 8)
      ∧ Stated.Posts (performEnq s src j a b) src a.home (.performed x) ∧ x.status = 0 ∧ x.data = wordBytes 0 := by
  obtain ⟨job', hthere⟩ := reachAt_there (j := j) hdev hreach
  have hold : leNat (((s.countAccess ((stationNo src).getD a.st / 32) job' (wordAt b 4)).mem .hbm).read (pa + 8) 8) = 0 := hempty
  unfold performEnq
  simp only [hspace, hthere, hold, if_true]
  obtain ⟨hmem, hposts⟩ := nearDone_answers (s := ((((s.countAccess ((stationNo src).getD a.st / 32) job' (wordAt b 4)).nearAcquires a .hbm (pa + 8)
    8).nearWrite a .hbm np (bytesOfNat 0 8)).nearWrite a .hbm (pa + 8) (bytesOfNat (wordAt b 4) 8)).nearWrite a .hbm pa (bytesOfNat (wordAt b 4) 8))
    src 0 0 [BitVec.ofNat 64 0] hdev
  refine ⟨_, (congrFun hmem .hbm).trans ?_, hposts, rfl, rfl⟩
  rw [mem_nearWrite, mem_nearWrite, mem_nearWrite, mem_nearAcquires]
  rfl

/-- A node of a chase with the key that is sought answers with its value (R193). -/
theorem performHop_finds {s : State} {src : Endpoint} {j : Job} {a : Access} {b : List Word} {ksp vsp : Space} {kp vp : Nat} (hdev : a.dev = none)
    (hwrites : s.writes = [])
    (hkey : Stated.Reaches s ((stationNo src).getD a.st) a.job (a.va + fieldOf (wordAt b 5) 16 16) false ksp kp)
    (hvalue : Stated.Reaches s ((stationNo src).getD a.st) a.job (a.va + fieldOf (wordAt b 5) 32 16) false vsp vp)
    (hfound : leNat ((s.mem ksp).read kp 8) = wordAt b 4) :
    ∃ x, Stated.Posts (performHop s src j a b) src a.home (.performed x)
      ∧ x.data = [BitVec.ofNat 64 a.va, BitVec.ofNat 64 (leNat ((s.mem vsp).read vp 8)), BitVec.ofNat 64 a.hops].flatMap wordBytes := by
  obtain ⟨kjob, hk⟩ := reachAt_there (j := j) hdev hkey
  obtain ⟨vjob, hv⟩ := reachAt_there (s := s.countAccess ((stationNo src).getD a.st / 32) kjob (a.va + fieldOf (wordAt b 5) 16 16)) (j := j) hdev
    (by exact hvalue)
  have hkeyRead : leNat ((s.countAccess ((stationNo src).getD a.st / 32) kjob (a.va + fieldOf (wordAt b 5) 16 16)).readBytes
      (readerOf (s.countAccess ((stationNo src).getD a.st / 32) kjob (a.va + fieldOf (wordAt b 5) 16 16)) .near a.task a.know) ksp kp 8 22)
      = wordAt b 4 := by
    rw [readBytes_of_no_writes (by exact hwrites)]
    cases ksp <;> exact hfound
  unfold performHop
  dsimp only
  rw [hk]
  dsimp only
  rw [if_pos hkeyRead, hv]
  dsimp only
  rw [readBytes_of_no_writes (by exact hwrites)]
  refine ⟨_, (nearDone_answers (s := _) src 0 0 _ hdev).2, ?_⟩
  cases vsp <;> rfl

/-- An atomic is neither `enq` nor a chase. -/
theorem atomic_ne {e : Nat × (Bool → Nat → Nat → Nat → Nat → Nat)} (he : e ∈ Stated.atomics) : e.1 ≠ 4 ∧ e.1 ≠ 5 := by
  simp only [Stated.atomics, List.mem_cons, List.not_mem_nil, or_false] at he
  rcases he with rfl | rfl | rfl | rfl <;> exact ⟨by decide, by decide⟩

theorem engineDo_performs {s : State} {src : Endpoint} {j : Job} {a : Access} {f : Nat} {b : List Word} (hkind : a.kind = .near f b) (h4 : f ≠ 4)
    (h5 : f ≠ 5) : engineDo s src j a = performOp s src a f b := by
  unfold engineDo
  split
  next h => cases hkind.symm.trans h; exact absurd rfl h4
  next h => cases hkind.symm.trans h; exact absurd rfl h5
  next h => cases hkind.symm.trans h; rfl
  next h => exact absurd hkind (h f b)

section
variable {s : State} {p : Packet} {a : Access} {sp : Space} {pa : Nat} {b : List Word} (hint : Nat) (hat : Stated.AtUnit s p a sp pa)
include hat

theorem nearOpExecute_accepts {f : Nat} (hkind : a.kind = .near f b) (hforward : isForward p a = false) :
    exec (.nearOpExecute p.id hint) s = .next (acceptNear s p a hint) := by
  obtain ⟨harr, hbody, -, hpa, -⟩ := hat
  have hpiece : isPiece a.kind = false := by rw [hkind]; rfl
  rw [exec_nearOpExecute]
  simp only [execNearOpExecute, harr, hbody, hpa, hpiece, hforward, Bool.false_eq_true, or_self, if_false]

theorem chaseForwardArrival_accepts (hforward : isForward p a = true) :
    exec (.chaseForwardArrival p.id hint) s = .next (acceptNear s p a hint) := by
  obtain ⟨harr, hbody, -, hpa, -⟩ := hat
  rw [exec_chaseForwardArrival]
  simp only [execChaseForwardArrival, harr, hbody, hpa, hforward, ne_eq, not_false_eq_true, and_self, if_true]
end

theorem farRetryResend_sends {s : State} {req : Nat} {p : Packet} {a : Access} (h : retryDue? s req = some (p, a)) :
    exec (.farRetryResend req) s = .next ((s.dropPacket p.id).toStation { a with pa := noPa, node := 0 } 0 []) := by
  rw [exec_farRetryResend]
  simp only [execFarRetryResend, h]

/-- Settles O52: the station, the walk, the parked requests, the serving unit, the NI, and the engines, in turn. -/
theorem translationEvents : Obligations.TranslationEvents := by
  unfold Obligations.TranslationEvents
  refine ⟨?station, ?walk, ?parked, fun s p a sp pa hat => pieces_performed hat, ?landing, ?near, ?chase, ?retry⟩
  case station =>
    intro s p a0 d n harr hdst hbody hpa hva hdev hnear hjob st look
    refine ⟨fun e sp q hlook hperm hspace => ?_, fun e hlook hkind hperm => ?_, fun hlook hwalkers =>
      ⟨_, _, stationTranslate_walks harr hdst hbody hpa hva hnear hjob hlook hwalkers, rfl, rfl, rfl⟩⟩
    · obtain ⟨u, hflow, hexec⟩ := stationTranslate_hits harr hdst hbody hpa hva hnear hjob hlook
      obtain ⟨x, y, hpackets, -, hx, hy, hyva, hykind, hydata, hyreq, hxdst⟩ :=
        throughEntry_passes (st := 32 * d + n) (e := e) (a := { a0 with st := 32 * d + n }) hflow hdev hperm hspace
      refine ⟨_, x, y, hexec, by rw [hpackets]; exact List.getLast?_concat, hx, hy, hyva, hykind, hydata, hyreq, hxdst, fun q hq => ?_⟩
      rw [hpackets] at hq
      rcases List.mem_append.1 hq with hq | hq
      · exact .inl (by simpa using (List.mem_filter.1 hq).2)
      · exact .inr (List.mem_singleton.1 hq)
    · obtain ⟨u, -, hexec⟩ := stationTranslate_hits harr hdst hbody hpa hva hnear hjob hlook
      rw [throughEntry_denies (by exact hdev) (by exact hkind) hperm] at hexec
      obtain ⟨x, hposts, hstatus, hreq⟩ := failAccess_answers (u := u) (a := { a0 with st := 32 * d + n }) (stationEnd (32 * d + n)) 6 hdev
        (.inr hkind)
      exact ⟨_, x, hexec, hposts, hstatus, hreq⟩
  case walk =>
    intro s w j hw hjob hdev hnode a
    refine ⟨fun v e addr bits sp q hwalk hbusy hperm hspace => ?_, fun hwalk hkind => ?_, fun e addr bits hwalk hroom => ?_⟩
    · obtain ⟨t, ht, x, y, hpackets, hwalks, hx, hy, -, hykind, -, hyreq, hxdst⟩ := pageWalk_page hw hjob hdev hwalk hbusy hperm hspace
      exact ⟨t, x, y, ht, by rw [hpackets]; exact List.getLast?_concat, hx, hy, hykind, hyreq, hxdst, hwalks⟩
    · exact pageWalk_nomap hw hjob hdev hwalk hkind
    · obtain ⟨hparked, hrecord⟩ := parkStored_parks (u := { s with walks := s.walks.filter (fun x => x.1 != w.1) }) addr e bits hroom hnode
      exact ⟨_, pageWalk_locator hw hjob hdev hwalk, hparked, hrecord⟩
  case parked =>
    intro s p a harr hbody hdue
    exact ⟨_, parkedRequestResend_sends harr hbody hdue, posts_post ..⟩
  case landing =>
    intro s p a r harr hbody hreq hstatus
    exact ⟨fun g l n tile hkind => gwr_lands harr hbody hreq hstatus hkind, fun g l n tile q hkind hmore hport =>
      grd_lands harr hbody hreq hstatus hkind hmore hport, fun f b hkind _ => near_lands harr hbody hreq hstatus hkind⟩
  case near =>
    intro s p a sp pa f hint b hat hkind hnode hjob hforward
    obtain ⟨j, hj⟩ := Option.isSome_iff_exists.1 hjob
    have hexec := nearOpExecute_accepts hint hat hkind hforward
    have hspace : physSpace a.pa = some (sp, pa) := hat.2.2.2.2.1
    have hdev : a.dev = none := hat.2.2.2.2.2
    refine ⟨fun hfull => ?_, ?_, fun np hfirst hf hsp hreach hempty => ?_⟩
    · rw [acceptNear_turnsAway hint hj hnode hfull] at hexec
      simp only [State.turnAway, hdev] at hexec
      exact ⟨_, hexec, posts_congr (by rfl) (posts_reply ..), by cases sp <;> rfl⟩
    · intro hfirst e he hf n hlen hwf old new
      subst hf
      obtain ⟨h4, h5⟩ := atomic_ne he
      rw [acceptNear_performs hint hj hnode hfirst hkind h5, engineDo_performs hkind h4 h5] at hexec
      obtain ⟨hnew, hframe, x, hposts, hreq, hstatus, hdata⟩ := performOp_atomic (s := { (s.dropPacket p.id) with free := s.free + 1 }) p.dst he hspace
        hdev hlen (by cases sp <;> exact hwf)
      have hsame : ({ (s.dropPacket p.id) with free := s.free + 1 } : State).mem sp = s.mem sp := by cases sp <;> rfl
      rw [hsame] at hnew hframe hdata
      exact ⟨_, x, hexec, hnew, hframe, hposts, hreq, hstatus, hdata⟩
    · subst hf hsp
      rw [acceptNear_performs hint hj hnode hfirst hkind (by decide)] at hexec
      have hdo : engineDo { (s.dropPacket p.id) with free := s.free + 1 } p.dst j a
          = performEnq { (s.dropPacket p.id) with free := s.free + 1 } p.dst j a b := by
        simp only [engineDo, hkind]
      rw [hdo] at hexec
      obtain ⟨x, hhbm, hposts, hstatus, hdata⟩ := performEnq_empty (s := { (s.dropPacket p.id) with free := s.free + 1 }) (j := j) hspace hdev hreach
        hempty
      exact ⟨_, x, hexec, hhbm, hposts, hstatus, hdata⟩
  case chase =>
    intro s p a sp pa hint b d n kp vp ksp vsp hat hkind hnode hjob hforward hdst hcredit hfirst hwrites hkey hvalue hfound
    obtain ⟨j, hj⟩ := Option.isSome_iff_exists.1 hjob
    have hexec := chaseForwardArrival_accepts hint hat hforward
    have hst : (stationNo p.dst).getD a.st = 32 * d + n := by rw [hdst]; rfl
    rw [acceptNear_chases hint hj hnode hfirst hkind hdst hcredit] at hexec
    generalize hu : ({ (s.dropPacket p.id) with
      free := s.free + 1, fwdCredits := s.fwdCredits.set (32 * d + n) (s.fwdCredits.getD (32 * d + n) 0 + 1) } : State) = u at hexec
    have hmem (m : Space) : u.mem m = s.mem m := by rw [← hu]; cases m <;> rfl
    have hdo : engineDo u p.dst j { a with node := 32 * d + n + 1 } = performHop u p.dst j { a with node := 32 * d + n + 1 } b := by
      simp only [engineDo, hkind]
    obtain ⟨x, hposts, hdata⟩ := performHop_finds (s := u) (src := p.dst) (j := j) (a := { a with node := 32 * d + n + 1 }) (b := b)
      hat.2.2.2.2.2 (by rw [← hu]; exact hwrites) (by rw [hst, ← hu]; exact hkey) (by rw [hst, ← hu]; exact hvalue) (by rw [hmem]; exact hfound)
    rw [hdo] at hexec
    exact ⟨_, x, hexec, hposts, by rw [hdata, hmem]⟩
  case retry =>
    intro s req p a h
    exact ⟨_, farRetryResend_sends h, posts_post ..⟩

end Sys2Proof.Laws
end

section
/-! ## Storage: fills, evictions and migrations -/

namespace Sys2Proof.Laws
open Sys2Proof.Machine Sys2Proof.Safety

/-! ### Records, pools and entries (R295, R301, R302) -/

theorem pteAt_writePte {s : State} (addr e : Nat) (h : s.hbm.wf = true) : (s.writePte addr e).pteAt addr = e % 2 ^ 64 := by
  have hsame := read_write_same s.hbm addr (bytesOfNat e 8) h
  rw [bytesOfNat_length] at hsame
  have hread : (s.writePte addr e).hbm.read addr 8 = bytesOfNat e 8 := hsame
  rw [State.pteAt, hread, leNat_bytesOfNat]
  norm_num

theorem hbm_writePte_outside {s : State} {addr e c : Nat} (h : c < addr ∨ addr + 8 ≤ c) : (s.writePte addr e).hbm.get c = s.hbm.get c :=
  Memory.get_write_outside s.hbm addr c (bytesOfNat e 8) (by rwa [bytesOfNat_length])

theorem pool_updPool_self (s : State) (n : Nat) (f : Pool → Pool) : (s.updPool n f).pool n = f (s.pool n) := Map.getD_set_self ..

theorem record?_updRecord {s : State} {port pte : Nat} {r : Service} {f : Service → Service} (h : s.record? port pte = some r)
    (hf : ∀ x, x.pteAddr = pte → (f x).pteAddr = pte) : (s.updRecord port pte f).record? port pte = some (f r) := by
  rw [State.record?, State.updRecord, Map.getD_set_self]
  exact find?_replaceIf_num (g := Service.pteAddr) h hf

theorem record?_dropRecord (s : State) (port pte : Nat) : (s.dropRecord port pte).record? port pte = none := by
  rw [State.record?, State.dropRecord, Map.getD_set_self]
  exact find?_filter_num Service.pteAddr _ _

theorem pteAddr_of_record? {s : State} {port pte : Nat} {r : Service} (h : s.record? port pte = some r) : r.pteAddr = pte :=
  num_of_find? (g := Service.pteAddr) h

/-- The requests that are parked on a page are posted at their stations, and nothing else changes. -/
theorem releaseParked_posts (s : State) (pte : Nat) :
    ∃ sv ps n, s.releaseParked pte = { s with services := sv, packets := ps, serial := n } := by
  have hfold (l : List Access) (sv : Map (List Parking)) (ps : List Packet) (n : Nat) :
      ∃ ps' n', l.foldl State.translateAgain { s with services := sv, packets := ps, serial := n }
        = { s with services := sv, packets := ps', serial := n' } := by
    induction l generalizing ps n with
    | nil => exact ⟨ps, n, rfl⟩
    | cons a l ih => exact ih _ _
  obtain ⟨ps, n, h⟩ := hfold (parkedOn s pte) (s.services.map (fun e => (e.1, e.2.filter (fun r => r.pteAddr != pte)))) s.packets s.serial
  exact ⟨_, ps, n, h⟩

/-- A frame that a spare list has room for joins it. -/
theorem freeFrame_joins {s : State} {pool : Nat} (frame : Nat) (h : (s.pool pool).spare.length < 16) :
    s.freeFrame pool frame = s.updPool pool (fun p => { p with spare := p.spare ++ [frame] }) := by
  rw [State.freeFrame, if_pos (by exact h)]

theorem failParked_of_none {s : State} {pte : Nat} (code : Nat) (h : parkedOn s pte = []) : s.failParked pte code = s.clearParked pte := by
  rw [State.failParked, h, List.foldl_nil]

/-! ### The service of a record (R302) -/

section
variable {s : State} {port f : Nat} {r : Service} {rest : List Nat} (hon : s.nvmeOn port = true) (hloc : s.locatorOk r.locator r.bits = true)
  (hspare : (s.pool r.pool).spare = f :: rest)
include hon hloc hspare

/-- A record that can be served takes a spare frame. -/
theorem serve_takes : s.serve port r = (s.updPool r.pool (fun p => { p with spare := rest })).giveFrame port r.pteAddr f := by
  have hup : s.bringUp port = s := by simp [State.bringUp, hon]
  unfold State.serve
  simp only [hup, hloc, Bool.not_true, Bool.false_eq_true, if_false, State.takeFrame, hspare]

theorem served {q : Service} (hrec : s.record? port r.pteAddr = some q) :
    ((s.serve port r).pool r.pool).spare = rest
      ∧ (s.serve port r).record? port r.pteAddr
        = some { q with frame := some f, started := s.clk, waiting := none, evicting := false } := by
  rw [serve_takes hon hloc hspare]
  refine ⟨?_, ?_⟩
  · exact congrArg Pool.spare (pool_updPool_self s r.pool fun p => { p with spare := rest })
  · exact record?_updRecord (s := s.updPool r.pool (fun p => { p with spare := rest }))
      (f := fun q => { q with frame := some f, started := s.clk, waiting := none, evicting := false }) hrec fun _ h => h
end

/-! ### The end of a fill (R302, R304) -/

theorem storedPage_length {s : State} {l bits : Nat} (h : 4096 * blocksOf l bits ≤ 2 ^ bits) : (storedPage s l bits).length = 2 ^ bits := by
  simp only [storedPage, List.length_append, read_eq_map, List.length_map, List.length_range, List.length_replicate]
  omega

/-- A byte of a page in storage: that of its blocks, then 0. -/
theorem storedPage_getD {s : State} {l bits i : Nat} (hi : i < 2 ^ bits) :
    (storedPage s l bits).getD i 0
      = if i < 4096 * blocksOf l bits then s.nvme.data.get (nvmeAddr (locPort l) (locNs l) (locLba l) + i) else 0 := by
  have hlen : (s.nvme.data.read (nvmeAddr (locPort l) (locNs l) (locLba l)) (4096 * blocksOf l bits)).length = 4096 * blocksOf l bits := by
    simp [read_eq_map]
  unfold storedPage
  dsimp only
  split
  next h =>
    rw [List.getD_append _ _ _ _ (by rwa [hlen]), read_eq_map, List.getD_eq_getElem _ _ (by simpa using h), List.getElem_map, List.getElem_range]
  next h =>
    rw [List.getD_append_right _ _ _ _ (by rw [hlen]; omega), hlen, List.getD_eq_getElem _ _ (by simp; omega), List.getElem_replicate]

section
variable {s : State} {port pte f : Nat} {r : Service} (hrec : s.record? port pte = some r) (hframe : r.frame = some f)
include hrec hframe

/-- A page whose bytes are in its frame and whose record is gone, before its entry is written. -/
def pageLoaded (s : State) (port pte f : Nat) (r : Service) : State :=
  ((s.dropRecord port pte).loadBytes .hbm f (storedPage s r.locator r.bits)).updPool r.pool
    (fun p => { p with clock := p.clock ++ [⟨pte, f, r.locator, false⟩] })

/-- A fill that completes in its time. -/
theorem fillComplete_done (htime : s.clk < r.started + nvmeLimit) (hpte : s.pteAt pte = r.locator) :
    exec (.fillComplete port pte true) s
      = .next { (((pageLoaded s port pte f r).writePte pte (filledPte r.locator f)).releaseParked pte) with free := s.free + 1 } := by
  have haddr := pteAddr_of_record? hrec
  have hintime : (true && decide (s.clk < r.started + nvmeLimit)) = true := by
    rw [Bool.true_and]
    exact decide_eq_true htime
  rw [exec_fillComplete]
  simp only [execFillComplete, hrec, hframe, hintime, if_true, State.fillDone, haddr, hpte, pageLoaded]

omit hframe in
/-- A fill that fails, no request being parked on its page: its frame is spare again, and memory is as it was. -/
theorem fillFailed_frees (hparked : parkedOn s pte = []) (hroom : (s.pool r.pool).spare.length < 16) (n : Nat) :
    let t := { (s.fillFailed port r f) with free := n }
    t.record? port pte = none ∧ (t.pool r.pool).spare = (s.pool r.pool).spare ++ [f] ∧ t.hbm = s.hbm := by
  have haddr := pteAddr_of_record? hrec
  intro t
  have ht : t = { (((s.dropRecord port pte).updPool r.pool (fun p => { p with spare := p.spare ++ [f] })).clearParked pte) with free := n } := by
    simp only [t, State.fillFailed, haddr]
    rw [freeFrame_joins f (by exact hroom), failParked_of_none 7 (by exact hparked)]
  rw [ht]
  exact ⟨record?_dropRecord s port pte,
    congrArg Pool.spare (pool_updPool_self (s.dropRecord port pte) r.pool fun p => { p with spare := p.spare ++ [f] }), rfl⟩

theorem fillComplete_fails {ok : Bool} (hfail : ok = false ∨ r.started + nvmeLimit ≤ s.clk) :
    exec (.fillComplete port pte ok) s = .next { (s.fillFailed port r f) with free := s.free + 1 } := by
  have hno : (ok && decide (s.clk < r.started + nvmeLimit)) = false := by
    rcases hfail with rfl | h
    · rfl
    · have hlate : ¬ s.clk < r.started + nvmeLimit := Nat.not_lt.2 h
      simp [hlate]
  rw [exec_fillComplete]
  simp only [execFillComplete, hrec, hframe, hno, Bool.false_eq_true, if_false]

theorem nvmeTimeout_fails (hlate : r.started + nvmeLimit ≤ s.clk) :
    exec (.nvmeTimeout port pte) s = .next { (s.fillFailed port r f) with free := s.free + 1 } := by
  rw [exec_nvmeTimeout]
  simp only [execNvmeTimeout, hrec, hframe]
  rw [if_pos hlate]
end

theorem pageLoaded_hbm (s : State) (port pte f : Nat) (r : Service) :
    (pageLoaded s port pte f r).hbm = s.hbm.write f (storedPage s r.locator r.bits) := rfl

theorem pageLoaded_record (s : State) (port pte f : Nat) (r : Service) : (pageLoaded s port pte f r).record? port pte = none := by
  rw [State.record?, show (pageLoaded s port pte f r).sqes = (s.dropRecord port pte).sqes from rfl]
  exact record?_dropRecord s port pte

/-- The page's bytes stand in its frame, its entry names it, and its record is gone. -/
theorem pageFilled {s : State} {port pte f n : Nat} {r : Service} (hwf : s.hbm.wf = true) (hout : pte + 8 ≤ f ∨ f + 2 ^ r.bits ≤ pte)
    (hfits : 4096 * blocksOf r.locator r.bits ≤ 2 ^ r.bits) :
    let t := { (((pageLoaded s port pte f r).writePte pte (filledPte r.locator f)).releaseParked pte) with free := n }
    t.record? port pte = none ∧ t.pteAt pte = filledPte r.locator f % 2 ^ 64
      ∧ ∀ i, i < 2 ^ r.bits → t.hbm.get (f + i) = if i < 4096 * blocksOf r.locator r.bits then
          s.nvme.data.get (nvmeAddr (locPort r.locator) (locNs r.locator) (locLba r.locator) + i) else 0 := by
  obtain ⟨sv, ps, k, hreleased⟩ := releaseParked_posts ((pageLoaded s port pte f r).writePte pte (filledPte r.locator f)) pte
  have hrecord := pageLoaded_record s port pte f r
  have hhbm := pageLoaded_hbm s port pte f r
  generalize pageLoaded s port pte f r = u at hreleased hrecord hhbm ⊢
  rw [hreleased]
  refine ⟨hrecord, ?_, fun i hi => ?_⟩
  · exact pteAt_writePte pte _ (by rw [hhbm]; exact Memory.wf_write _ _ _ hwf)
  · refine (hbm_writePte_outside (by omega)).trans ?_
    rw [hhbm, Memory.get_write_inside _ _ _ _ hwf (by rwa [storedPage_length hfits]), storedPage_getD hi]

/-! ### Evictions (R303) -/

/-- A clean page leaves its frame to the fill that needed it, and its locator in its entry. -/
theorem writebackComplete_evicts {s : State} {m : Move} {r : Service} (hmove : s.eviction? m.page.pteAddr = some m)
    (hdrained : s.drained m.page.frame m.bits = true) (hclean : pteD m.pte = false) (hpte : s.pteAt m.page.pteAddr = m.pte) (hwf : s.hbm.wf = true)
    (hrec : s.record? m.fill.1 m.fill.2 = some r) :
    ∃ t : State, exec (.writebackComplete m.page.pteAddr true) s = .next t ∧ t.pteAt m.page.pteAddr = m.page.locator % 2 ^ 64
      ∧ (∀ x ∈ t.moves, x ≠ m)
      ∧ t.record? m.fill.1 m.fill.2 = some { r with frame := some m.page.frame, started := s.clk, waiting := none, evicting := false } := by
  rw [exec_writebackComplete]
  simp only [execWritebackComplete, hmove, hdrained, hclean, State.evicted, hpte, Bool.not_true, Bool.false_and, Bool.false_eq_true, if_false, if_true]
  obtain ⟨sv, ps, n, hreleased⟩ := releaseParked_posts
    (((s.dropMove m).writePte m.page.pteAddr m.page.locator).giveFrame m.fill.1 m.fill.2 m.page.frame) m.page.pteAddr
  refine ⟨_, rfl, ?_, ?_, ?_⟩
  · rw [hreleased]
    exact pteAt_writePte (s := s.dropMove m) m.page.pteAddr _ hwf
  · rw [hreleased]
    intro x hx
    simpa using (List.mem_filter.1 hx).2
  · rw [hreleased]
    exact record?_updRecord (s := (s.dropMove m).writePte m.page.pteAddr m.page.locator)
      (f := fun q => { q with frame := some m.page.frame, started := s.clk, waiting := none, evicting := false }) hrec fun _ h => h

/-! ### Migrations (R306) -/

theorem takeRing_moves (no bits n : Nat) : ∀ s : State, (takeRing s no bits n).1.moves = s.moves := by
  induction n with
  | zero => exact fun _ => rfl
  | succ n ih =>
    intro s
    unfold takeRing
    dsimp only
    split
    · rfl
    · split
      · rfl
      · exact ih _

theorem takeFrame_moves (s : State) (no bits : Nat) : (s.takeFrame no bits).1.moves = s.moves := by
  unfold State.takeFrame
  split
  · rfl
  · exact takeRing_moves ..

theorem mem_moves_startMigration {s : State} {m : Move} (h : m ∈ s.moves) (d addr e bits : Nat) : m ∈ (startMigration s d addr e bits).moves := by
  have hkept := takeFrame_moves s (poolNo (roomierStack s d bits) bits) bits
  unfold startMigration
  dsimp only
  split
  next s1 f heq =>
    rw [heq] at hkept
    exact List.mem_append_left _ (hkept ▸ h)
  next s1 heq =>
    rw [heq] at hkept
    exact hkept ▸ h

theorem mem_moves_reviewPages (die d root n : Nat) : ∀ (s : State) (m : Move) (va : Nat), m ∈ s.moves → m ∈ (reviewPages s die d root va n).moves := by
  induction n with
  | zero => exact fun _ _ _ h => h
  | succ n ih =>
    intro s m va h
    unfold reviewPages
    refine ih _ m _ ?_
    split
    · split
      · exact mem_moves_startMigration h ..
      · exact h
    · exact h

/-- BUSY of an entry whose BUSY is set. -/
theorem pteBusy_putField (e v : Nat) : pteBusy (putField e 7 1 v) = decide (v % 2 = 1) := by
  rw [pteBusy, Nat.testBit_eq_decide_div_mod_eq, putField]
  congr 1
  apply propext
  omega

/-- A page whose pool has a spare frame starts to move. -/
theorem startMigration_moves {s : State} {d addr e bits f : Nat} {rest : List Nat}
    (hspare : (s.pool (poolNo (roomierStack s d bits) bits)).spare = f :: rest) :
    ∃ m, m ∈ (startMigration s d addr e bits).moves ∧ m.page.pteAddr = addr ∧ m.dest = some f ∧ pteBusy m.pte = true := by
  have hpage : (((s.pool (poolNo (fieldOf (pteFrame e) 37 4) bits)).clock.find? (fun c => c.pteAddr == addr)).getD
      ⟨addr, pteFrame e, 0, false⟩).pteAddr = addr := by
    cases hfind : (s.pool (poolNo (fieldOf (pteFrame e) 37 4) bits)).clock.find? (fun c => c.pteAddr == addr) with
    | none => rfl
    | some c => exact num_of_find? (g := ClockPage.pteAddr) hfind
  simp only [startMigration, State.takeFrame, hspare]
  exact ⟨_, List.mem_append_right _ (List.mem_singleton_self _), hpage, rfl, by rw [pteBusy_putField]; rfl⟩

theorem migrationReview_moves {s : State} {die job va d pa e addr bits f : Nat} {j : Job} {rest : List Nat} (hclk : s.clk % 2 ^ 20 = 0)
    (hne : s.clk ≠ 0) (hdie : die < 8) (hva : va < 2 ^ 52) (halign : va % 2 ^ 21 = 0) (hj : s.job? job = some j)
    (hbusiest : busiestDie s die job va (s.clk / 2 ^ 20 - 1) = some d) (hlookup : s.lookup j.ptroot va = some (pa, e, addr, bits)) (hbits : bits ≤ 21)
    (hpin : ptePin e = false) (hbusy : pteBusy e = false) (hhbm : pa.testBit 51 = false) (hstack : fieldOf pa 37 4 / 2 = die)
    (hspare : (s.pool (poolNo (roomierStack s d bits) bits)).spare = f :: rest) :
    ∃ t : State, ∃ m, exec (.migrationReview die (job * 2 ^ 31 + va / 2 ^ 21)) s = .next t ∧ m ∈ t.moves ∧ m.page.pteAddr = addr ∧ m.dest = some f
      ∧ pteBusy m.pte = true := by
  have hjob : (job * 2 ^ 31 + va / 2 ^ 21) / 2 ^ 31 = job := by omega
  have hregion : (job * 2 ^ 31 + va / 2 ^ 21) % 2 ^ 31 * 2 ^ 21 = va := by omega
  have hpage : va % 2 ^ bits = 0 := Nat.mod_eq_zero_of_dvd (dvd_trans (Nat.pow_dvd_pow 2 hbits) (Nat.dvd_of_mod_eq_zero halign))
  have hperiod : s.clk % reviewPeriod = 0 := hclk
  have hmost : busiestDie s die job va (s.clk / reviewPeriod - 1) = some d := hbusiest
  obtain ⟨n, hn⟩ : ∃ n, 32 = n + 1 := ⟨31, rfl⟩
  obtain ⟨m, hm, hprops⟩ := startMigration_moves (addr := addr) (e := e) hspare
  have hfirst : reviewPages s die d j.ptroot va (n + 1) = reviewPages (startMigration s d addr e bits) die d j.ptroot (va + 65536) n := by
    rw [reviewPages, hlookup]
    simp [hbits, hpage, hpin, hbusy, hhbm, hstack]
  rw [exec_migrationReview]
  unfold execMigrationReview
  rw [if_neg (by simp [hperiod, hne, hdie])]
  dsimp only
  rw [hjob, hregion, hj, hmost]
  dsimp only
  rw [hn, hfirst]
  exact ⟨_, m, rfl, mem_moves_reviewPages die d j.ptroot n _ m _ hm, hprops⟩

/-- The entry of a page that has moved to a frame. -/
def movedPte (pte f : Nat) : Nat := putField (putField (pte % 2 ^ 16 + f) 8 4 (fieldOf f 37 4)) 7 1 0

/-- The entry of a page that has moved names its frame and its stack, and is not busy; its lowest bits are as they were (R295). -/
theorem movedPte_fields {pte f e : Nat} (halign : f % 65536 = 0) (hf : f < 2 ^ 52) (he : e = movedPte pte f % 2 ^ 64) :
    pteFrame e = f ∧ pteHstk e = fieldOf f 37 4 ∧ pteBusy e = false ∧ e % 128 = pte % 128 := by
  have hstack : fieldOf f 37 4 < 16 := lt_of_fieldOf f 37 4
  generalize hk : fieldOf f 37 4 = k at hstack
  have hvalue : e = f + pte % 2 ^ 16 / 2 ^ 12 * 2 ^ 12 + k * 2 ^ 8 + pte % 2 ^ 7 := by
    simp only [he, movedPte, putField, hk]
    omega
  have hbusy : pteBusy e = false := by
    rw [pteBusy, Nat.testBit_eq_decide_div_mod_eq]
    apply decide_eq_false
    omega
  refine ⟨?_, ?_, hbusy, by omega⟩
  · simp only [pteFrame, fieldOf]
    omega
  · simp only [pteHstk, fieldOf]
    omega

/-- A frame that is freed leaves the memory and the moves. -/
theorem freeFrame_keeps (s : State) (pool frame : Nat) : (s.freeFrame pool frame).hbm = s.hbm ∧ (s.freeFrame pool frame).moves = s.moves := by
  unfold State.freeFrame
  split <;> exact ⟨rfl, rfl⟩

/-- A page's bytes stand in its new frame. -/
theorem relocate_get {s : State} {src dst bits i : Nat} (hwf : s.hbm.wf = true) (hi : i < 2 ^ bits) :
    (s.relocate src dst bits).hbm.get (dst + i) = s.hbm.get (src + i) := by
  have hlen : (s.hbm.read src (2 ^ bits)).length = 2 ^ bits := by simp [read_eq_map]
  have hclear := Memory.wf_clear s.hbm dst (2 ^ bits) hwf
  refine (Memory.get_write_inside _ dst i (s.hbm.read src (2 ^ bits)) hclear (by rwa [hlen])).trans ?_
  rw [List.getD_eq_getElem _ _ (by rwa [hlen])]
  simp [read_eq_map]

theorem releaseParked_keeps (s : State) (pte : Nat) : (s.releaseParked pte).hbm = s.hbm ∧ (s.releaseParked pte).moves = s.moves := by
  obtain ⟨sv, ps, n, hreleased⟩ := releaseParked_posts s pte
  rw [hreleased]
  exact ⟨rfl, rfl⟩

/-- A page that has moved, where its entry still stands. -/
theorem migrated_moves {s : State} {m : Move} {f : Nat} (hpte : s.pteAt m.page.pteAddr = m.pte) :
    (s.migrated m f).hbm = (((s.dropMove m).relocate m.page.frame f m.bits).writePte m.page.pteAddr (movedPte m.pte f)).hbm
      ∧ (s.migrated m f).moves = s.moves.filter (fun x => x != m) := by
  unfold State.migrated
  dsimp only
  rw [if_pos hpte, (releaseParked_keeps _ _).1, (releaseParked_keeps _ _).2, (freeFrame_keeps _ _ _).1, (freeFrame_keeps _ _ _).2]
  split <;> exact ⟨rfl, rfl⟩

theorem migrationComplete_moves {s : State} {m : Move} {f : Nat}
    (hmove : s.moves.find? (fun x => x.page.pteAddr == m.page.pteAddr && x.dest.isSome) = some m) (hdest : m.dest = some f)
    (hdrained : s.drained m.page.frame m.bits = true) :
    exec (.migrationComplete m.page.pteAddr) s = .next { (s.migrated m f) with free := s.free + 1 } := by
  rw [exec_migrationComplete]
  simp only [execMigrationComplete, hmove, hdest, hdrained, if_true]

/-- Settles O53: records and their frames, the end of a fill, an eviction, and a migration. -/
theorem storageEvents : Obligations.StorageEvents := by
  unfold Obligations.StorageEvents
  refine ⟨?start, ?retry, ?fill, ?evict, ?review, ?migrate⟩
  case start =>
    intro s port f r rest hfind hrec hon hloc hroom hspare
    obtain ⟨hleft, hgiven⟩ := served hon hloc hspare hrec
    rw [exec_storageServiceStart]
    simp only [execStorageServiceStart, hfind]
    rw [if_pos (by exact hroom)]
    exact ⟨_, rfl, hleft, hgiven⟩
  case retry =>
    intro s port pte f t0 r rest hrec hwaiting hon hloc hspare
    have haddr := pteAddr_of_record? hrec
    obtain ⟨hleft, hgiven⟩ := served (s := s) (port := port) (r := { r with waiting := none }) (q := r) hon hloc hspare (by rw [haddr]; exact hrec)
    rw [exec_frameWaitRetry]
    simp only [execFrameWaitRetry, hrec, hwaiting]
    rw [if_pos (by simp [hspare])]
    exact ⟨_, rfl, hleft, haddr ▸ hgiven⟩
  case fill =>
    intro s port pte f r hrec hframe
    have hlimit : nvmeLimit = 6400000000 := rfl
    refine ⟨fun htime hpte hwf hout hfits => ?_, fun hparked hroom => ⟨fun ok hfail => ?_, fun hlate => ?_⟩⟩
    · rw [← hlimit] at htime
      exact ⟨_, fillComplete_done hrec hframe htime hpte, pageFilled hwf hout hfits⟩
    · rw [← hlimit] at hfail
      exact ⟨_, fillComplete_fails hrec hframe hfail, fillFailed_frees hrec hparked hroom _⟩
    · rw [← hlimit] at hlate
      obtain ⟨hgone, hfreed, -⟩ := fillFailed_frees (f := f) hrec hparked hroom (s.free + 1)
      exact ⟨_, nvmeTimeout_fails hrec hframe hlate, hgone, hfreed⟩
  case evict =>
    intro s m r hmove hdrained hclean hpte hwf hrec hparked
    exact writebackComplete_evicts hmove hdrained hclean hpte hwf hrec
  case review =>
    intro s die job va d pa e addr bits f j rest hclk hne hdie hva halign hj hbusiest hlookup hbits hpin hbusy hhbm hstack hspare
    exact migrationReview_moves hclk hne hdie hva halign hj hbusiest hlookup hbits hpin hbusy hhbm hstack hspare
  case migrate =>
    intro s m f hmove hdest hdrained hpte hwf halign hf hout
    obtain ⟨hhbm, hmoves⟩ := migrated_moves (f := f) hpte
    have hwf' : ((s.dropMove m).relocate m.page.frame f m.bits).hbm.wf = true := Memory.wf_write _ _ _ (Memory.wf_clear _ _ _ hwf)
    have hentry : ({ (s.migrated m f) with free := s.free + 1 } : State).pteAt m.page.pteAddr = movedPte m.pte f % 2 ^ 64 := by
      rw [← pteAt_writePte m.page.pteAddr (movedPte m.pte f) hwf', State.pteAt, State.pteAt, ← hhbm]
    refine ⟨_, migrationComplete_moves hmove hdest hdrained, ?_, fun i hi => ?_, fun x hx => ?_⟩
    · exact movedPte_fields halign hf hentry
    · dsimp only
      rw [hhbm, hbm_writePte_outside (by omega)]
      exact relocate_get (s := s.dropMove m) hwf hi
    · dsimp only at hx
      rw [hmoves] at hx
      simpa using (List.mem_filter.1 hx).2

end Sys2Proof.Laws
end

section
/-! ## Copies: offers, pieces and bytes -/

namespace Sys2Proof.Laws
open Sys2Proof.Machine Sys2Proof.Safety

/-! ### Copies at their NI and their BTE (R197, R198, R202) -/

theorem loadStation_keeps (s : State) (st : Nat) (e : TlbEntry) : (s.loadStation st e).btes = s.btes ∧ (s.loadStation st e).cores = s.cores := by
  unfold State.loadStation State.updPte
  dsimp only
  split <;> exact ⟨rfl, rfl⟩

/-- What a look-up at a station leaves of the copies. -/
theorem look_keeps {s t : State} {st job root va : Nat} {e : TlbEntry} (h : s.look st job root va = .entry t e) :
    t.btes = s.btes ∧ t.cores = s.cores := by
  unfold State.look at h
  split at h
  · obtain ⟨rfl, -⟩ := Looked.entry.inj h
    exact ⟨rfl, rfl⟩
  · obtain ⟨rfl, -⟩ := Looked.entry.inj h
    exact loadStation_keeps ..
  · unfold State.walkFor at h
    split at h
    · split at h
      · cases h
      · obtain ⟨rfl, -⟩ := Looked.entry.inj h
        exact loadStation_keeps ..
    all_goals cases h

theorem servingSlice_keeps (s : State) (st job : Nat) (j : Job) (va : Nat) :
    (servingSlice s st job j va).1.btes = s.btes ∧ (servingSlice s st job j va).1.cores = s.cores := by
  unfold servingSlice
  dsimp only
  split
  · exact ⟨rfl, rfl⟩
  · split
    next hlook => exact look_keeps hlook
    all_goals exact ⟨rfl, rfl⟩

theorem chooseBte_keeps (s : State) (j : Job) (r : Req) (walk : Bool) (b : List Word) :
    (chooseBte s j r walk b).1.btes = s.btes ∧ (chooseBte s j r walk b).1.cores = s.cores := by
  have hpick {st va : Nat} {u : State} {x : Except Nat (Option Endpoint)} (h : servingSlice s st r.job j va = (u, x)) :
      u.btes = s.btes ∧ u.cores = s.cores := by
    have hkeeps := servingSlice_keeps s st r.job j va
    rwa [h] at hkeeps
  have hself : s.btes = s.btes ∧ s.cores = s.cores := ⟨rfl, rfl⟩
  unfold chooseBte
  dsimp only
  split
  · split
    · exact hself
    · split
      all_goals next hserve => exact hpick hserve
  · split
    · split
      · exact hself
      · split
        all_goals next hserve => exact hpick hserve
    · exact hself

theorem core_updCmd (s : State) (core req : Nat) (f : CopyCmd → CopyCmd) :
    ((s.updCmd core req f).core core).fifo = replaceIf (fun c => c.req == req) f (s.core core).fifo := by
  rw [State.updCmd, core_updCore_self]

/-- Where an offer goes. -/
def offerPlace (s : State) (j : Job) (r : Req) (b : List Word) (cmd : CopyCmd) : State × Nat × Nat :=
  match cmd.bte with
  | some p => (s, p)
  | none => chooseBte s j r false b

theorem offerPlace_place (s : State) (j : Job) (r : Req) (b : List Word) (cmd : CopyCmd) :
    (offerPlace s j r b cmd).2 = cmd.bte.getD (chooseBte s j r false b).2 := by
  unfold offerPlace
  split
  next hb => rw [hb, Option.getD_some]
  next hb => rw [hb, Option.getD_none]

theorem offerPlace_keeps (s : State) (j : Job) (r : Req) (b : List Word) (cmd : CopyCmd) :
    (offerPlace s j r b cmd).1.btes = s.btes ∧ (offerPlace s j r b cmd).1.cores = s.cores := by
  unfold offerPlace
  split
  · exact ⟨rfl, rfl⟩
  · exact chooseBte_keeps ..

theorem offerCopy_linear {s : State} {j : Job} {r : Req} {b : List Word} {ch seq : Nat} (cmd : CopyCmd) (hkind : r.kind = .copy false b ch seq) :
    offerCopy s j r cmd = ((offerPlace s j r b cmd).1.updCmd r.core cmd.req
      (fun c => { c with bte := some (offerPlace s j r b cmd).2, offered := true })).post .request (.ni (tileOf r.core))
        (stationEnd (offerPlace s j r b cmd).2.1) r.job ((16 + 8 * b.length + 31) / 32) 0 [] (.copyOffer r.id) := by
  have hread : readRecord s r = .ok (s, r) := by
    unfold readRecord
    rw [hkind]
  have hwords : copyWords r = (false, b) := by
    unfold copyWords
    rw [hkind]
  unfold offerCopy
  rw [hread]
  dsimp only
  rw [hwords]
  rfl

theorem copyOffer_offers {s : State} {tile core ch seq : Nat} {cmd : CopyCmd} {r : Req} {j : Job} {b : List Word} (hcore : core < 8)
    (hoffer : offerable s (8 * tile + core) = [cmd]) (hreq : s.req? cmd.req = some r) (hjob : s.job? r.job = some j)
    (hkind : r.kind = .copy false b ch seq) (hown : r.core = 8 * tile + core) :
    (s.live = true → ∃ t : State, exec (.copyOffer tile core) s = .next t
      ∧ Stated.Posts t (.ni tile) (stationEnd (cmd.bte.getD (chooseBte s j r false b).2).1) (.copyOffer r.id)
      ∧ t.btes = s.btes ∧ ∀ q ∈ (t.core r.core).fifo, q.req = r.id → q.bte = some (cmd.bte.getD (chooseBte s j r false b).2) ∧ q.offered = true)
    ∧ (s.live = false → exec (.copyOffer tile core) s = .next s) := by
  have hid : r.id = cmd.req := id_of_req? hreq
  have hexec : exec (.copyOffer tile core) s
      = if 8 ≤ core ∨ !s.live then .next s else .next { (offerCopy s j r cmd) with free := s.free + 1 } := by
    rw [exec_copyOffer, execCopyOffer, hoffer]
    simp only [List.length_singleton, Nat.mod_one, List.getElem?_cons_zero, hreq, hjob]
  refine ⟨fun hlive => ?_, fun hlive => by rw [hexec, if_pos (Or.inr (by rw [hlive]; rfl))]⟩
  rw [if_neg (by simp [hlive, hcore])] at hexec
  refine ⟨_, hexec, ?_⟩
  rw [offerCopy_linear cmd hkind, offerPlace_place]
  obtain ⟨hbtes, hcores⟩ := offerPlace_keeps s j r b cmd
  have htile : tileOf r.core = tile := by rw [hown, tileOf]; omega
  rw [htile]
  refine ⟨posts_congr (by rfl) (posts_post ..), hbtes, fun q hq hqid => ?_⟩
  replace hq : q ∈ (((offerPlace s j r b cmd).1.updCmd r.core cmd.req
    (fun c => { c with bte := some (cmd.bte.getD (chooseBte s j r false b).2), offered := true })).core r.core).fifo := hq
  rw [core_updCmd, replaceIf, List.mem_map] at hq
  obtain ⟨c, -, rfl⟩ := hq
  split at hqid
  next hc =>
    rw [if_pos hc]
    exact ⟨rfl, rfl⟩
  next hc => exact absurd (beq_iff_eq.2 (hqid.trans hid)) hc

theorem retireCopy_reports (s : State) (r : Req) (code : Nat) : (s.retireCopy r code).outs = s.outs ∧ (s.retireCopy r code).jobs = s.jobs := by
  unfold State.retireCopy
  dsimp only
  split <;> exact ⟨rfl, rfl⟩

/-- A transfer that ends reports its code, and what the request q it ends with has counted. -/
theorem finishCopy_completed {s t : State} {q r : Req} (src : Endpoint) (code : Nat) (hid : q.id = r.id) (hjob : q.job = r.job)
    (hv : q.v = r.v) (hcm : q.cm = r.cm) (houts : t.outs = s.outs) (hjobs : t.jobs = s.jobs) :
    Stated.Completed s (t.finishCopy src q code) src r [statusWord code q.flags q.count, r.cm.tag] := by
  obtain ⟨houts', hjobs'⟩ := retireCopy_reports t q code
  exact finishReq_completed (q := { q with code := code, failAt := 0 }) src (cmAcq q.cm) [] hid hjob hv hcm (houts'.trans houts) (hjobs'.trans hjobs)

theorem copyWords_linear {r : Req} {b : List Word} {ch seq : Nat} (hkind : r.kind = .copy false b ch seq) : copyWords r = (false, b) := by
  unfold copyWords
  rw [hkind]

/-! ### An offer at its BTE -/

section
variable {s : State} {bte ch seq : Nat} {p : Packet} {cmd : CopyCmd} {r : Req} {j : Job} {b : List Word} (hoffer : offerFor s bte r.id = some p)
  (hreq : s.req? r.id = some r) (hcmd : cmdOf s r = some cmd) (hjob : s.job? r.job = some j) (hkind : r.kind = .copy false b ch seq)

section
include hoffer hreq hcmd hjob

theorem copyPiece_takesOffer : exec (.copyPiece bte r.id) s = .next { (takeOffer (s.dropPacket p.id) bte j r cmd) with free := s.free + 1 } := by
  rw [exec_copyPiece, execCopyPiece, hoffer]
  simp only [hreq, hcmd, hjob]

theorem copyPiece_refuses (hfull : 32 ≤ (s.btes.getD bte []).length) : ∃ t : State, exec (.copyPiece bte r.id) s = .next t ∧ t.btes = s.btes
    ∧ t.cores = s.cores ∧ Stated.Posts t (stationEnd bte) (.ni (r.core / 8)) (.copyRefused r.id) := by
  refine ⟨_, copyPiece_takesOffer hoffer hreq hcmd hjob, ?_⟩
  unfold takeOffer
  rw [if_neg (by exact Nat.not_lt.2 hfull)]
  exact ⟨rfl, rfl, posts_congr (by rfl) (posts_reply ..)⟩

theorem copyPiece_accepts (hroom : (s.btes.getD bte []).length < 32) : exec (.copyPiece bte r.id) s
    = .next { (acceptCopy (s.dropPacket p.id) j r bte ((cmd.bte.map (·.2)).getD 0)) with free := s.free + 1 } := by
  rw [copyPiece_takesOffer hoffer hreq hcmd hjob, takeOffer, if_pos (by exact hroom)]

end

/-- A transfer as its BTE accepts it. -/
def accepted (s : State) (r : Req) (bte x y : Nat) : State :=
  let p := copyPlace r
  let k := s.chan r.core r.job p.1
  let s0 := if r.post ≠ 0 then s else s.setChan r.core r.job p.1 { k with states := chanNote k.states p.2 2 0 0 }
  let s1 := s0.updCore r.core (fun x => { x with fifo := x.fifo.filter (fun q => q.req != r.id) })
  { s1 with btes := s1.btes.set bte (s1.btes.getD bte [] ++ [(⟨r.id, 0, x, y, false, false, (0, 0)⟩ : Transfer)]) }

theorem accepted_keeps (s : State) (r : Req) (bte x y : Nat) :
    (accepted s r bte x y).btes.getD bte [] = s.btes.getD bte [] ++ [⟨r.id, 0, x, y, false, false, (0, 0)⟩]
      ∧ ∀ q ∈ ((accepted s r bte x y).core r.core).fifo, q.req ≠ r.id := by
  have hcore (u : State) (bs : Map (List Transfer)) : ∀ q ∈ (({ u.updCore r.core
      (fun x => { x with fifo := x.fifo.filter (fun q => q.req != r.id) }) with btes := bs } : State).core r.core).fifo, q.req ≠ r.id := by
    intro q hq
    replace hq : q ∈ ((u.updCore r.core (fun x => { x with fifo := x.fifo.filter (fun q => q.req != r.id) })).core r.core).fifo := hq
    rw [core_updCore_self] at hq
    simpa using (List.mem_filter.1 hq).2
  unfold accepted
  dsimp only
  refine ⟨?_, hcore _ _⟩
  rw [Map.getD_set_self]
  split <;> rfl

include hkind

theorem acceptCopy_empty {u : State} (code : Nat) (hlen : wordAt b 3 = 0) : acceptCopy u j r bte code = u.finishCopy (stationEnd bte) r 0 := by
  unfold acceptCopy
  rw [copyWords_linear hkind]
  dsimp only
  exact if_pos (by simp [hlen])

theorem acceptCopy_code {u : State} {code : Nat} (hlen : wordAt b 3 ≠ 0) (hcode : code ≠ 0) :
    acceptCopy u j r bte code = u.finishCopy (stationEnd bte) r code := by
  unfold acceptCopy
  rw [copyWords_linear hkind]
  dsimp only
  rw [if_neg (by simp [hlen]), if_pos hcode]

theorem acceptCopy_enters {u : State} {x y : Nat} (hlen : wordAt b 3 ≠ 0)
    (hcheck : linearCheck u j r b (srcSide u (wordAt b 0)) (dstSide u (wordAt b 0)) = (0, x, y)) :
    acceptCopy u j r bte 0 = accepted u r bte x y := by
  unfold acceptCopy
  rw [copyWords_linear hkind]
  dsimp only
  rw [if_neg (by simp [hlen]), if_neg (by simp), if_neg Bool.false_ne_true, hcheck, if_neg (by simp [hlen])]
  rfl

include hoffer hreq hcmd hjob

/-- A command whose length is 0, or whose address has no page, ends at its BTE. -/
theorem copyPiece_ends (hroom : (s.btes.getD bte []).length < 32) :
    (wordAt b 3 = 0 → ∃ t : State, exec (.copyPiece bte r.id) s = .next t
      ∧ Stated.Completed s t (stationEnd bte) r [statusWord 0 r.flags r.count, r.cm.tag])
    ∧ (wordAt b 3 ≠ 0 → (cmd.bte.map (·.2)).getD 0 ≠ 0 → ∃ t : State, exec (.copyPiece bte r.id) s = .next t
      ∧ Stated.Completed s t (stationEnd bte) r [statusWord ((cmd.bte.map (·.2)).getD 0) r.flags r.count, r.cm.tag]) := by
  have hexec := copyPiece_accepts hoffer hreq hcmd hjob hroom
  refine ⟨fun hlen => ⟨_, hexec, ?_⟩, fun hlen hcode => ⟨_, hexec, ?_⟩⟩
  · rw [acceptCopy_empty hkind _ hlen]
    exact finishCopy_completed (s := s) (t := s.dropPacket p.id) _ _ rfl rfl rfl rfl rfl rfl
  · rw [acceptCopy_code hkind hlen hcode]
    exact finishCopy_completed (s := s) (t := s.dropPacket p.id) _ _ rfl rfl rfl rfl rfl rfl

theorem copyPiece_enters {x y : Nat} (hroom : (s.btes.getD bte []).length < 32) (hlen : wordAt b 3 ≠ 0) (hcode : (cmd.bte.map (·.2)).getD 0 = 0)
    (hcheck : linearCheck s j r b (srcSide s (wordAt b 0)) (dstSide s (wordAt b 0)) = (0, x, y)) :
    ∃ t : State, exec (.copyPiece bte r.id) s = .next t ∧ t.btes.getD bte [] = s.btes.getD bte [] ++ [⟨r.id, 0, x, y, false, false, (0, 0)⟩]
      ∧ ∀ q ∈ (t.core r.core).fifo, q.req ≠ r.id := by
  refine ⟨_, copyPiece_accepts hoffer hreq hcmd hjob hroom, ?_⟩
  rw [hcode, acceptCopy_enters hkind hlen (u := s.dropPacket p.id) hcheck]
  exact accepted_keeps ..

end

theorem find?_map_cmd {l : List CopyCmd} {c : CopyCmd} {id : Nat} {f : CopyCmd → CopyCmd} (h : l.find? (fun x => x.req == id) = some c)
    (hf : ∀ x, (f x).req = x.req) : (replaceIf (fun x => x.req == id) f l).find? (fun x => x.req == id) = some (f c) :=
  find?_replaceIf_num (g := CopyCmd.req) h fun x hx => (hf x).trans hx

theorem pieceLanding_refused {s : State} {p : Packet} {r : Req} {cmd : CopyCmd} (harr : s.arrived? p.id = some p) (hbody : p.body = .copyRefused r.id)
    (hreq : s.req? r.id = some r) (hcmd : cmdOf s r = some cmd) : ∃ t : State, exec (.pieceLanding p.id) s = .next t
      ∧ cmdOf t r = some { cmd with refusals := cmd.refusals + 1, due := s.clk + 16 * 2 ^ min cmd.refusals 6, offered := false } := by
  have hland : landed (s.dropPacket p.id) (.copyRefused r.id) = some (offerRefused (s.dropPacket p.id) r) := by
    have hreq' : (s.dropPacket p.id).req? r.id = some r := hreq
    unfold landed
    dsimp only
    rw [hreq']
  refine ⟨{ offerRefused (s.dropPacket p.id) r with free := s.free + 1 }, ?_, ?_⟩
  · rw [exec_pieceLanding]
    unfold execPieceLanding
    rw [harr]
    dsimp only
    rw [hbody, hland]
  · unfold cmdOf
    change ((offerRefused (s.dropPacket p.id) r).core r.core).fifo.find? _ = _
    rw [offerRefused, core_updCmd]
    exact find?_map_cmd (c := cmd) (f := fun c => { c with refusals := c.refusals + 1, due := s.clk + 16 * 2 ^ min c.refusals 6, offered := false })
      hcmd fun _ => rfl

/-! ### The pieces of a linear copy (R198) -/

theorem pieceSent_congr {t u : State} {bte : Nat} {r : Req} {side : Side} {a n : Nat} {data : Option (List Byte)} (h : u.packets = t.packets)
    (hsent : Stated.PieceSent t bte r side a n data) : Stated.PieceSent u bte r side a n data := by
  unfold Stated.PieceSent Stated.Posts
  rw [h]
  exact hsent

theorem sendPiece_sends (s : State) (j : Job) (r : Req) (bte : Nat) (side : Side) (a n : Nat) (data : Option (List Byte)) :
    Stated.PieceSent (s.sendPiece j r bte side a n data false) bte r side a n data := by
  cases side with
  | loc => exact Or.inl ⟨_, rfl, rfl, rfl, rfl, Or.inl ⟨rfl, posts_congr (by rfl) (posts_post ..), rfl, rfl⟩⟩
  | tile => exact Or.inl ⟨_, rfl, rfl, rfl, rfl, Or.inr (Or.inl ⟨rfl, posts_congr (by rfl) (posts_post ..), rfl, rfl⟩)⟩
  | glob => exact Or.inl ⟨_, rfl, rfl, rfl, rfl, Or.inr (Or.inr ⟨rfl, posts_congr (by rfl) (posts_post ..), rfl, rfl, rfl⟩)⟩
  | far d => cases data <;> exact Or.inr ⟨d, _, rfl, posts_congr (by rfl) (posts_post ..), rfl, rfl⟩

/-- Changes a transfer in a list of a BTE. -/
theorem updTransfer_btes (s : State) (req : Nat) (f : Transfer → Transfer) :
    (s.updTransfer req f).btes = s.btes.map (fun e => (e.1, replaceIf (fun t => t.req == req) f e.2)) := rfl

theorem get?_map_snd {α β : Type} (m : Map α) (k : Nat) (f : α → β) : Map.get? (m.map (fun e => (e.1, f e.2))) k = (m.get? k).map f := by
  induction m with
  | nil => rfl
  | cons e m ih =>
    rw [List.map_cons, Map.get?, Map.get?, ih]
    split <;> rfl

theorem getD_map_snd {α β : Type} (m : Map α) (k : Nat) (f : α → β) (d : α) :
    Map.getD (m.map (fun e => (e.1, f e.2))) k (f d) = f (m.getD k d) := by
  rw [Map.getD, get?_map_snd, Map.getD, Option.getD_map]

theorem sendPiece_holds (s : State) (j : Job) (r : Req) (bte : Nat) (side : Side) (a n : Nat) (data : Option (List Byte)) :
    ∀ y ∈ (s.sendPiece j r bte side a n data false).btes.getD bte [], y.req = r.id → y.waiting = true := by
  intro y hy hreq
  unfold State.sendPiece State.holdTransfer at hy
  dsimp only at hy
  rw [updTransfer_btes, show ([] : List Transfer) = replaceIf (fun t => t.req == r.id) (fun t => { t with waiting := true }) [] from rfl,
    getD_map_snd, replaceIf, List.mem_map] at hy
  obtain ⟨x, -, rfl⟩ := hy
  split at hreq
  next hx => rw [if_pos hx]
  next hx => exact absurd (beq_iff_eq.2 hreq) hx

section
variable {s : State} {bte ch seq : Nat} {x : Transfer} {r : Req} {j : Job} {b : List Word}

theorem toPage_eq (side : Side) (y : Nat) : toPage side y = if side = .loc ∨ side = .tile then 128 else 65536 - y % 65536 := by
  cases side <;> simp [toPage]

/-- How far a linear copy goes at once. -/
def linearLen (s : State) (b : List Word) (x : Transfer) : Nat :=
  let a := wordAt b 1 + x.moved
  let d := wordAt b 2 + if x.dsrc = 0 then x.moved else x.moved * descBits x.ddst / descBits x.dsrc
  min (min (128 - x.moved % 128) (wordAt b 3 - x.moved)) (min (toPage (srcSide s (wordAt b 0)) a) (toPage (dstSide s (wordAt b 0)) d))

theorem nextStep_linear (hkind : r.kind = .copy false b ch seq) : nextStep s r x = ⟨some (wordAt b 1 + x.moved),
    some (wordAt b 2 + if x.dsrc = 0 then x.moved else x.moved * descBits x.ddst / descBits x.dsrc), linearLen s b x, linearLen s b x⟩ := by
  unfold nextStep
  rw [copyWords_linear hkind]
  rfl

theorem copyStep_linear (hkind : r.kind = .copy false b ch seq) (hfailed : x.failed = (0, 0)) : copyStep s j bte r x
    = s.sendPiece j r bte (srcSide s (wordAt b 0)) (wordAt b 1 + x.moved) (linearLen s b x) none false := by
  unfold copyStep
  rw [nextStep_linear hkind, copyWords_linear hkind]
  dsimp only
  rw [if_neg (by simp [hfailed])]

variable (hoffer : offerFor s bte r.id = none) (hheld : (s.btes.getD bte []).find? (fun q => q.req == r.id) = some x)
  (hreq : s.req? r.id = some r) (hjob : s.job? r.job = some j)
include hoffer hheld hreq hjob

theorem copyPiece_moves : exec (.copyPiece bte r.id) s = if x.waiting ∨ !s.live then .next s
    else if x.cancelled ∧ Config.pick s.free 72 % 2 = 0 then .next { (s.finishCopy (stationEnd bte) r 9) with free := s.free + 1 }
    else .next { (copyStep s j bte r x) with free := s.free + 1 } := by
  rw [exec_copyPiece, execCopyPiece, hoffer]
  simp only [hheld, hreq, hjob]

/-- A BTE asks for the next piece, unless the transfer waits for one, or stops there where it is cancelled. -/
theorem copyPiece_asks (hkind : r.kind = .copy false b ch seq) (hfailed : x.failed = (0, 0)) {n : Nat} (hn : n = linearLen s b x) :
    let asks := fun (t : State) => Stated.PieceSent t bte r (srcSide s (wordAt b 0)) (wordAt b 1 + x.moved) n none
      ∧ ∀ y ∈ t.btes.getD bte [], y.req = r.id → y.waiting = true
    (x.waiting = true ∨ s.live = false → exec (.copyPiece bte r.id) s = .next s)
    ∧ (x.waiting = false → s.live = true → x.cancelled = false → ∃ t : State, exec (.copyPiece bte r.id) s = .next t ∧ asks t)
    ∧ (x.waiting = false → s.live = true → x.cancelled = true → ∃ t : State, exec (.copyPiece bte r.id) s = .next t
        ∧ (asks t ∨ Stated.Completed s t (stationEnd bte) r [statusWord 9 r.flags r.count, r.cm.tag])) := by
  intro asks
  have hasks : asks { copyStep s j bte r x with free := s.free + 1 } := by
    rw [copyStep_linear hkind hfailed, ← hn]
    exact ⟨pieceSent_congr (by rfl) (sendPiece_sends ..), fun y hy => sendPiece_holds s j r bte _ _ _ none y hy⟩
  have hexec := copyPiece_moves hoffer hheld hreq hjob
  refine ⟨fun hwait => ?_, fun hwait hlive hcancel => ?_, fun hwait hlive hcancel => ?_⟩
  · rw [hexec, if_pos (by simpa using hwait)]
  · rw [hexec, if_neg (by simp [hwait, hlive]), if_neg (by simp [hcancel])]
    exact ⟨_, rfl, hasks⟩
  · rw [hexec, if_neg (by simp [hwait, hlive])]
    split
    · refine ⟨_, rfl, Or.inr ?_⟩
      exact finishCopy_completed (s := s) (t := s) _ _ rfl rfl rfl rfl rfl rfl
    · exact ⟨_, rfl, Or.inl hasks⟩

end

/-- A transfer where a BTE holds it. -/
def transferAt (id : Nat) (e : Nat × List Transfer) : Option (Nat × Transfer) := (e.2.find? (fun t => t.req == id)).map (fun t => (e.1, t))

theorem bteOf_eq (s : State) (id : Nat) : bteOf s id = s.btes.findSome? (transferAt id) := rfl

theorem bteOf_updTransfer {s : State} {id bte : Nat} {x : Transfer} {f : Transfer → Transfer} (h : bteOf s id = some (bte, x))
    (hf : ∀ t, (f t).req = t.req) : bteOf (s.updTransfer id f) id = some (bte, f x) := by
  have hone (l : List Transfer) : (replaceIf (fun t => t.req == id) f l).find? (fun t => t.req == id)
      = (l.find? (fun t => t.req == id)).map f := by
    cases hl : l.find? (fun t => t.req == id) with
    | some t => exact find?_replaceIf_num (g := Transfer.req) hl fun t ht => (hf t).trans ht
    | none =>
      rw [Option.map_none, List.find?_eq_none, replaceIf]
      intro t ht
      obtain ⟨u, hu, rfl⟩ := List.mem_map.1 ht
      have hno := List.find?_eq_none.1 hl u hu
      simpa [hno] using hno
  have hcomp : transferAt id ∘ (fun e => (e.1, replaceIf (fun t => t.req == id) f e.2))
      = Option.map (fun y => (y.1, f y.2)) ∘ transferAt id := by
    funext e
    simp only [Function.comp, transferAt, hone, Option.map_map]
    rfl
  rw [bteOf_eq] at h ⊢
  rw [updTransfer_btes, List.findSome?_map, hcomp, ← List.map_findSome?, h]
  rfl

theorem copyTotal_linear {r : Req} {b : List Word} {ch seq : Nat} (hkind : r.kind = .copy false b ch seq) : copyTotal r = wordAt b 3 := by
  unfold copyTotal
  rw [copyWords_linear hkind]
  exact if_neg Bool.false_ne_true

section
variable {s : State} {p : Packet} {a : Access} {bte ch seq : Nat} {x : Transfer} {r : Req} {j : Job} {b : List Word}
  (harr : s.arrived? p.id = some p) (hbody : p.body = .performed a) (hreq : s.req? a.req = some r) (hbte : bteOf s r.id = some (bte, x))
  (hjob : s.job? r.job = some j) (hkind : r.kind = .copy false b ch seq) (hfailed : x.failed = (0, 0))
section
include hbte hjob hkind hfailed

theorem copyData_puts (hplain : x.dsrc = 0) (bs : List Byte) : copyData (s.dropPacket p.id) r bs
    = (s.dropPacket p.id).sendPiece j r bte (dstSide s (wordAt b 0)) (wordAt b 2 + x.moved) bs.length (some bs) false := by
  have hbte' : bteOf (s.dropPacket p.id) r.id = some (bte, x) := hbte
  have hjob' : (s.dropPacket p.id).job? r.job = some j := hjob
  unfold copyData
  rw [hbte', hjob']
  dsimp only
  rw [nextStep_linear hkind]
  dsimp only
  rw [if_neg (by simp [hfailed]), if_pos hplain, putStep, if_pos hplain, copyWords_linear hkind]
  rfl

omit hjob in
theorem copyWritten_over (n : Nat) : copyWritten (s.dropPacket p.id) r n = stepOver (s.dropPacket p.id) bte r x (nextStep s r x) n 0 := by
  have hbte' : bteOf (s.dropPacket p.id) r.id = some (bte, x) := hbte
  unfold copyWritten
  rw [hbte']
  dsimp only
  rw [if_neg (by simp [hfailed]), copyWords_linear hkind, if_neg Bool.false_ne_true]
  rfl

end

include harr hbody hreq hbte hjob hkind hfailed

omit hjob in
/-- A piece of a copy comes back to its BTE. -/
theorem pieceLanding_copy : exec (.pieceLanding p.id) s = .next { (if a.status = 256 then (s.dropPacket p.id).eccCopy (stationEnd bte) r a.va
    else if a.status ≠ 0 then stepFails (s.dropPacket p.id) bte r x (nextStep (s.dropPacket p.id) r x) a.status a.va
    else if accWrites a.kind then copyWritten (s.dropPacket p.id) r a.len
    else copyData (s.dropPacket p.id) r a.data) with free := s.free + 1 } := by
  have hback : pieceBack (s.dropPacket p.id) r a = some (landCopy (s.dropPacket p.id) r a) := by
    unfold pieceBack
    rw [hkind]
  have hbte' : bteOf (s.dropPacket p.id) r.id = some (bte, x) := hbte
  rw [pieceLanding_lands harr hbody hreq hback, landCopy, hbte']
  dsimp only
  rw [if_neg (by simp [hfailed])]

/-- A piece read goes on to its destination, and a piece written is counted; the last one completes the copy. -/
theorem copyPieces_land (hplain : x.dsrc = 0) :
    (a.status = 0 → accWrites a.kind = false → ∃ t : State, exec (.pieceLanding p.id) s = .next t
      ∧ Stated.PieceSent t bte r (dstSide s (wordAt b 0)) (wordAt b 2 + x.moved) a.data.length (some a.data))
    ∧ (a.status = 0 → accWrites a.kind = true → x.moved + (nextStep s r x).take_ < wordAt b 3 → ∃ t : State, ∃ r' : Req,
      exec (.pieceLanding p.id) s = .next t
      ∧ bteOf t r.id = some (bte, { x with moved := x.moved + (nextStep s r x).take_, waiting := false })
      ∧ t.req? r.id = some r' ∧ r'.count = r.count + a.len)
    ∧ (a.status = 0 → accWrites a.kind = true → wordAt b 3 ≤ x.moved + (nextStep s r x).take_ → ∃ t : State,
      exec (.pieceLanding p.id) s = .next t
      ∧ Stated.Completed s t (stationEnd bte) r [statusWord r.code r.flags (r.count + a.len), r.cm.tag])
    ∧ (a.status = 256 → ∃ code, exec (.pieceLanding p.id) s = .next { (((s.dropPacket p.id).retireCopy r code).raiseReq (stationEnd bte) r
        .eccloc (BitVec.ofNat 64 a.va)) with free := s.free + 1 }) := by
  have hexec := pieceLanding_copy harr hbody hreq hbte hkind hfailed
  have htotal := copyTotal_linear hkind
  have hid := id_of_req? hreq
  refine ⟨fun hstatus hread => ?_, fun hstatus hwrite hmore => ?_, fun hstatus hwrite hlast => ?_, fun hstatus => ?_⟩
  · rw [if_neg (by simp [hstatus]), if_neg (by simp [hstatus]), if_neg (by simp [hread]),
      copyData_puts hbte hjob hkind hfailed hplain] at hexec
    exact ⟨_, hexec, pieceSent_congr (by rfl) (sendPiece_sends ..)⟩
  · rw [if_neg (by simp [hstatus]), if_neg (by simp [hstatus]), if_pos hwrite, copyWritten_over hbte hkind hfailed,
      stepOver, htotal, if_neg (Nat.not_le.2 hmore)] at hexec
    refine ⟨_, { r with count := r.count + a.len, flags := r.flags ||| 0 }, hexec, ?_, ?_, rfl⟩
    · have hplace := bteOf_updTransfer (f := fun t => { t with moved := x.moved + (nextStep s r x).take_, waiting := false, failed := (0, 0) })
        hbte fun _ => rfl
      exact hplace.trans (by rw [← hfailed])
    · exact req?_updReq (s := s) (f := fun q => { q with count := r.count + a.len, flags := r.flags ||| 0, code := r.code, failAt := r.failAt })
        (by rw [hid]; exact hreq) fun _ hx => hx
  · rw [if_neg (by simp [hstatus]), if_neg (by simp [hstatus]), if_pos hwrite, copyWritten_over hbte hkind hfailed,
      stepOver, htotal, if_pos hlast] at hexec
    refine ⟨_, hexec, ?_⟩
    rw [show statusWord r.code r.flags (r.count + a.len) = statusWord r.code (r.flags ||| 0) (r.count + a.len) by rw [Nat.or_zero]]
    exact finishCopy_completed (s := s) (t := s.dropPacket p.id) (q := { r with count := r.count + a.len, flags := r.flags ||| 0 }) (r := r)
      (stationEnd bte) r.code rfl rfl rfl rfl rfl rfl
  · rw [if_pos hstatus] at hexec
    exact ⟨_, hexec⟩

end

/-! ### The bytes of a tile (R156, R198, R330) -/

theorem posts_answer (u : State) (src : Endpoint) (x : Access) (b : Body) : Stated.Posts (u.answer src x b) src x.home b := posts_post ..

section
variable {s : State} {p : Packet} {a : Access} {tile : Nat} {scratch : Bool} (harr : s.arrived? p.id = some p) (hbody : p.body = .access a)
  (hdst : p.dst = .ni tile) (hdev : a.dev = none)
section
include harr hbody hdst

theorem globalPiecePerform_tile (hpiece : isTilePiece a.kind = true) {t : State} (hdone : performTile (s.dropPacket p.id) tile a = some t) :
    exec (.globalPiecePerform p.id) s = .next { t with free := s.free + 1 } := by
  rw [exec_globalPiecePerform]
  unfold execGlobalPiecePerform
  rw [harr]
  dsimp only
  rw [hbody, hdst]
  dsimp only
  rw [if_pos hpiece, hdone]

end

include hdev

/-- A piece that is read in its tile, once the banks are granted. -/
theorem performTile_read {sp : Space} {ts : Map Tile} (hkind : a.kind = .tileRead scratch) (hsp : (if scratch then Space.scratch else Space.loc) = sp)
    (hport : (s.dropPacket p.id).niPort tile portSource sp a.landing a.len = some { s.dropPacket p.id with tiles := ts }) :
    (badByte s sp a.landing a.len = none → performTile (s.dropPacket p.id) tile a
      = some ((State.copyRead { s.dropPacket p.id with tiles := ts } a sp a.landing).1.answer (.ni tile)
          { a with data := (State.copyRead { s.dropPacket p.id with tiles := ts } a sp a.landing).2 } (.performed
          { a with data := (State.copyRead { s.dropPacket p.id with tiles := ts } a sp a.landing).2 })))
    ∧ ∀ i, badByte s sp a.landing a.len = some i → performTile (s.dropPacket p.id) tile a
      = some (State.answer { s.dropPacket p.id with tiles := ts } (.ni tile) { a with status := 256, va := sideAddr sp (a.landing + i) } (.performed
          { a with status := 256, va := sideAddr sp (a.landing + i) })) := by
  unfold performTile
  split
  next t hk =>
    obtain rfl : t = scratch := AccKind.tileRead.inj (hk.symm.trans hkind)
    dsimp only
    rw [hsp, hport, Option.map_some]
    refine ⟨fun hbad => ?_, fun i hbad => ?_⟩
    · have hbad' : badByte (s.dropPacket p.id) sp a.landing a.len = none := hbad
      rw [hbad']
      dsimp only
      rw [toIssuer_here _ (by exact hdev)]
    · have hbad' : badByte (s.dropPacket p.id) sp a.landing a.len = some i := hbad
      rw [hbad']
      dsimp only
      rw [toIssuer_here _ (by exact hdev)]
  next t k hk => exact AccKind.noConfusion (hk.symm.trans hkind)
  next hno _ => exact absurd hkind (hno scratch)

include harr hbody hdst in
theorem tilePiece_read {sp : Space} (hkind : a.kind = .tileRead scratch) (hsp : (if scratch then Space.scratch else Space.loc) = sp)
    (hport : ((s.dropPacket p.id).niPort tile portSource sp a.landing a.len).isSome = true) :
    (badByte s sp a.landing a.len = none → s.writes = [] →
      ∃ t : State, ∃ x, exec (.globalPiecePerform p.id) s = .next t ∧ Stated.Posts t (.ni tile) a.home (.performed x)
        ∧ x = { a with data := (s.mem sp).read a.landing a.len } ∧ t.mem sp = s.mem sp)
    ∧ ∀ i, badByte s sp a.landing a.len = some i → ∃ t : State, exec (.globalPiecePerform p.id) s = .next t
      ∧ Stated.Posts t (.ni tile) a.home (.performed { a with status := 256, va := sideAddr sp (a.landing + i) }) := by
  obtain ⟨u, hu⟩ := Option.isSome_iff_exists.1 hport
  obtain ⟨ts, rfl⟩ := takeBanks_tiles hu
  obtain ⟨hgood, hbad⟩ := performTile_read hdev hkind hsp hu
  have hexec {t : State} := globalPiecePerform_tile (t := t) harr hbody hdst (by simp only [hkind, isTilePiece])
  refine ⟨fun hnone hwrites => ?_, fun i hi => ⟨_, hexec (hbad i hi), ?_⟩⟩
  swap
  · exact posts_congr (by rfl) (posts_answer { s.dropPacket p.id with tiles := ts } (.ni tile)
      { a with status := 256, va := sideAddr sp (a.landing + i) } _)
  obtain ⟨hdata, hmem⟩ := copyRead_settled (s := { s.dropPacket p.id with tiles := ts }) a sp a.landing hwrites
  refine ⟨_, _, hexec (hgood hnone), posts_congr (by rfl) (posts_answer (State.copyRead { s.dropPacket p.id with tiles := ts } a sp a.landing).1
    (.ni tile) { a with data := (State.copyRead { s.dropPacket p.id with tiles := ts } a sp a.landing).2 } _), by rw [hdata]; rfl, ?_⟩
  have hsame := congrFun ((mem_answer _ (.ni tile) { a with data := (State.copyRead { s.dropPacket p.id with tiles := ts } a sp a.landing).2 } (.performed
    { a with data := (State.copyRead { s.dropPacket p.id with tiles := ts } a sp a.landing).2 })).trans hmem) sp
  cases sp <;> exact hsame

theorem performTile_write {sp : Space} {ts : Map Tile} (hkind : a.kind = .tileWrite scratch false)
    (hsp : (if scratch then Space.scratch else Space.loc) = sp)
    (hport : (s.dropPacket p.id).niPort tile portLanding sp a.landing a.data.length = some { s.dropPacket p.id with tiles := ts }) :
    performTile (s.dropPacket p.id) tile a = some ((State.writeBytes { s.dropPacket p.id with tiles := ts } sp a.landing a.data .copy a.task
      a.acc a.rel).answer (.ni tile) { a with data := [] } (.performed { a with data := [] })) := by
  unfold performTile
  split
  next t hk => exact AccKind.noConfusion (hk.symm.trans hkind)
  next t k hk =>
    obtain ⟨rfl, rfl⟩ := AccKind.tileWrite.inj (hk.symm.trans hkind)
    dsimp only
    rw [if_neg Bool.false_ne_true, hsp, hport, Option.map_some, toIssuer_here _ (by exact hdev)]
  next hno => exact absurd hkind (hno scratch false)

include harr hbody hdst in
theorem tilePiece_write {sp : Space} (hkind : a.kind = .tileWrite scratch false) (hsp : (if scratch then Space.scratch else Space.loc) = sp)
    (hport : ((s.dropPacket p.id).niPort tile portLanding sp a.landing a.data.length).isSome = true) :
    ∃ t : State, exec (.globalPiecePerform p.id) s = .next t ∧ t.mem sp = (s.mem sp).write a.landing a.data
      ∧ Stated.Posts t (.ni tile) a.home (.performed { a with data := [] }) := by
  obtain ⟨u, hu⟩ := Option.isSome_iff_exists.1 hport
  obtain ⟨ts, rfl⟩ := takeBanks_tiles hu
  refine ⟨_, globalPiecePerform_tile harr hbody hdst (by simp only [hkind, isTilePiece]) (performTile_write hdev hkind hsp hu), ?_,
    posts_congr (by rfl) (posts_answer (State.writeBytes { s.dropPacket p.id with tiles := ts } sp a.landing a.data .copy a.task a.acc a.rel)
      (.ni tile) { a with data := [] } _)⟩
  have hwritten := mem_writeBytes { s.dropPacket p.id with tiles := ts } sp a.landing a.data .copy a.task a.acc a.rel
  cases sp <;> exact hwritten

end
/-- Settles O54: an offer, a refusal, the pieces of a linear copy and the bytes of a tile, event by event. -/
theorem copyEvents : Obligations.CopyEvents := by
  unfold Obligations.CopyEvents
  refine ⟨?offer, ?take, ?refused, ?moves, ?lands, ?tile⟩
  case offer =>
    intro s tile core ch seq cmd r j b hcore hoffer hreq hjob hkind hown
    exact copyOffer_offers hcore hoffer hreq hjob hkind hown
  case take =>
    intro s bte ch seq p cmd r j b hoffer hreq hcmd hjob hkind held code c
    exact ⟨copyPiece_refuses hoffer hreq hcmd hjob, fun hroom => (copyPiece_ends hoffer hreq hcmd hjob hkind hroom).1,
      fun hroom => (copyPiece_ends hoffer hreq hcmd hjob hkind hroom).2,
      fun x y hroom hlen hcode hcheck => copyPiece_enters hoffer hreq hcmd hjob hkind hroom hlen hcode hcheck⟩
  case refused =>
    intro s p r cmd harr hbody hreq hcmd
    exact pieceLanding_refused harr hbody hreq hcmd
  case moves =>
    intro s bte ch seq x r j b hoffer hheld hreq hjob hkind hfailed _ a d page n
    exact copyPiece_asks hoffer hheld hreq hjob hkind hfailed (by rw [linearLen, toPage_eq, toPage_eq])
  case lands =>
    intro s p a bte ch seq x r j b harr hbody hreq hbte hjob hkind hfailed hplain n
    exact copyPieces_land harr hbody hreq hbte hjob hkind hfailed hplain
  case tile =>
    intro s p a tile scratch harr hbody hdst hdev sp port hport
    refine ⟨fun hk => ?_, fun i hk => ?_, fun hk => ?_⟩
    · have hread : ((s.dropPacket p.id).niPort tile portSource sp a.landing a.len).isSome = true := by
        simpa only [port, if_pos hk] using hport
      exact (tilePiece_read harr hbody hdst hdev hk rfl hread).1
    · have hread : ((s.dropPacket p.id).niPort tile portSource sp a.landing a.len).isSome = true := by
        simpa only [port, if_pos hk] using hport
      exact (tilePiece_read harr hbody hdst hdev hk rfl hread).2 i
    · have hno : ¬ a.kind = .tileRead scratch := fun h => AccKind.noConfusion (hk.symm.trans h)
      exact tilePiece_write harr hbody hdst hdev hk rfl (by simpa only [port, if_neg hno] using hport)

end Sys2Proof.Laws
end

section
/-! ## Array jobs: start, steps, rows and ends -/

namespace Sys2Proof.Laws
open Sys2Proof.Machine Sys2Proof.Safety

/-! ### The start of an array job (R166, R209) -/

theorem tile_setRun (s : State) (tile : Nat) (r : ArrayRun) : (s.setRun tile r).tile tile = { s.tile tile with arrayRun := some r } :=
  Map.getD_set_self ..

theorem arrayMayStart_of {s : State} {t : Tile} {a : ArrayJob} (hlive : s.live = true) (hentered : a.entered < s.clk) (hfree : t.arrayFree ≤ s.clk)
    (hwaits : s.anyWaiting a.waits = false) : arrayMayStart s t a = true := by
  simp [arrayMayStart, hlive, hentered, hfree, hwaits]

section
variable {s : State} {tile : Nat} {a : ArrayJob} {rest : List ArrayJob} {j : Job} (hidle : (s.tile tile).arrayRun = none)
  (hqueue : (s.tile tile).arrayQ = a :: rest) (hjob : s.job? a.job = some j) (hmay : arrayMayStart s (s.tile tile) a = true)
include hidle hqueue hjob hmay

/-- The state in which the checks of a job are made: it is in the queue no more. -/
def unqueued (s : State) (tile : Nat) (rest : List ArrayJob) : State :=
  { (s.updTile tile (fun t => { t with arrayQ := rest })) with free := s.free + 1 }

theorem arrayJobStart_fails {c : Cause} (hchecks : startChecks j (s.formats a.job (a.vcore / 8)) a.v a.block = some c) :
    exec (.arrayJobStart tile) s
      = .next ((((unqueued s tile rest).closeJob a (tmStatus (arrCause c) 0 0 0 0)).freeArray tile).raiseArrJob a c (tmId a.seq)) := by
  rw [exec_arrayJobStart, execArrayJobStart]
  dsimp only
  rw [hidle, hqueue]
  dsimp only
  rw [hjob]
  dsimp only
  rw [if_neg (by simp [hmay]), hchecks]
  rfl

/-- A run of the array as it starts. -/
def freshRun (s : State) (a : ArrayJob) : ArrayRun :=
  let fmts := s.formats a.job (a.vcore / 8)
  let x := s.clk + 24
  ⟨a, BitVec.ofNat 64 ((tmA a.block).desc fmts), BitVec.ofNat 64 ((tmC fmts a.block).desc fmts), s.clk, 0, 0, 0, x, [], 0, x, 0, 0, 0, [], 0, [], 0⟩

theorem arrayJobStart_runs (hchecks : startChecks j (s.formats a.job (a.vcore / 8)) a.v a.block = none) : exec (.arrayJobStart tile) s
    = .next (((unqueued s tile rest).setArrWord a.core a.job a.seq 2).setRun tile (freshRun s a)) := by
  rw [exec_arrayJobStart, execArrayJobStart]
  dsimp only
  rw [hidle, hqueue]
  dsimp only
  rw [hjob]
  dsimp only
  rw [if_neg (by simp [hmay]), hchecks]
  rfl

theorem arrayJobStart_starts (hchecks : startChecks j (s.formats a.job (a.vcore / 8)) a.v a.block = none) :
    ∃ t : State, ∃ r, exec (.arrayJobStart tile) s = .next t ∧ (t.tile tile).arrayQ = rest ∧ (t.tile tile).arrayRun = some r ∧ r.job = a
      ∧ r.start = s.clk ∧ r.stepEnd = s.clk + 24 ∧ (r.j, r.b, r.i) = (0, 0, 0) ∧ r.blocks = [] ∧ r.stopped = 0 := by
  refine ⟨_, freshRun s a, arrayJobStart_runs hidle hqueue hjob hmay hchecks, ?_, ?_, rfl, rfl, rfl, rfl, rfl, rfl⟩
  · rw [tile_setRun]
    exact congrArg Tile.arrayQ (Map.getD_set_self ..)
  · rw [tile_setRun]

theorem arrayJobStart_raises {c : Cause} (hchecks : startChecks j (s.formats a.job (a.vcore / 8)) a.v a.block = some c) :
    ∃ u : State, exec (.arrayJobStart tile) s
        = .next (u.raiseJob a.job a.vcore a.v ⟨c, 2, 0, tmId a.seq⟩ (a.effects u).allPaths (.ni (tileOf a.core)))
      ∧ (u.tile tile).arrayQ = rest ∧ (u.tile tile).arrayRun = none ∧ (u.tile tile).arrayFree = s.clk + 1 := by
  refine ⟨_, arrayJobStart_fails hidle hqueue hjob hmay hchecks, ?_⟩
  have htile : (((unqueued s tile rest).closeJob a (tmStatus (arrCause c) 0 0 0 0)).freeArray tile).tile tile
      = { (unqueued s tile rest).tile tile with arrayRun := none, arrayFree := s.clk + 1 } := Map.getD_set_self ..
  rw [htile]
  exact ⟨congrArg Tile.arrayQ (Map.getD_set_self ..), rfl, rfl⟩

end

/-! ### The lines of a step (R156, R169) -/

theorem foldl_granted_tiles (l : List Nat) (s : State) (tile port : Nat) :
    ∃ ts, l.foldl (fun st b => st.granted tile b port) s = { s with tiles := ts } := by
  induction l generalizing s with
  | nil => exact ⟨s.tiles, rfl⟩
  | cons b l ih =>
    obtain ⟨ts, hts⟩ := grantedFor_eq s tile b port 1
    obtain ⟨ts', hts'⟩ := ih { s with tiles := ts }
    exact ⟨ts', by rw [List.foldl_cons, State.granted, hts, hts']⟩

/-- Erasing each of some different elements once lowers the count of each by one. -/
theorem count_foldl_erase (mine l : List Nat) (b : Nat) (hnodup : mine.Nodup) :
    (mine.foldl (fun l b => l.erase b) l).count b = if b ∈ mine then l.count b - 1 else l.count b := by
  induction mine generalizing l with
  | nil => rfl
  | cons x mine ih =>
    obtain ⟨hx, hmine⟩ := List.nodup_cons.1 hnodup
    rw [List.foldl_cons, ih _ hmine]
    by_cases hb : b = x
    · subst hb
      rw [if_neg hx, if_pos (List.mem_cons_self ..), List.count_erase_self]
    · rw [List.count_erase_of_ne hb]
      simp [hb]

section
variable {s : State} {tile : Nat} {r : ArrayRun} (hrun : (s.tile tile).arrayRun = some r) (hlines : r.lines ≠ [])
include hrun hlines

theorem arrayStep_reads : exec (.arrayStep tile) s = if r.lineFrom ≤ s.clk then .next (arrayLines s tile r) else .next s := by
  rw [exec_arrayStep, execArrayStep, hrun]
  dsimp only
  rw [if_pos (by simpa using hlines)]

theorem arrayStep_granted (hfrom : r.lineFrom ≤ s.clk) (hopen : ∀ b ∈ r.lines, bankOpen s tile b portArrayRead = true) :
    ∃ t : State, ∃ r', exec (.arrayStep tile) s = .next t ∧ (t.tile tile).arrayRun = some r'
      ∧ (∀ b, r'.lines.count b = r.lines.count b - 1) ∧ r'.stepEnd = r.stepEnd ∧ r'.lineFrom = s.clk + 1 := by
  have hmine : r.lines.dedup.filter (fun b => bankOpen s tile b portArrayRead) = r.lines.dedup :=
    List.filter_eq_self.2 fun b hb => hopen b (List.mem_dedup.1 hb)
  rw [arrayStep_reads hrun hlines, if_pos hfrom]
  refine ⟨_, { r with
    lines := r.lines.dedup.foldl (fun l b => l.erase b) r.lines
    lineFrom := s.clk + 1
    stepEnd := r.stepEnd + 0 }, rfl, ?_, fun b => ?_, rfl, rfl⟩
  · unfold arrayLines
    dsimp only
    rw [hmine, if_pos (List.all_eq_true.2 fun b hb => by simp [List.mem_dedup.1 hb]), tile_setRun, if_neg (Nat.lt_irrefl _)]
  · rw [count_foldl_erase _ _ _ (List.nodup_dedup _)]
    split
    · rfl
    next hb =>
      rw [List.count_eq_zero.2 fun h => hb (List.mem_dedup.2 h)]

theorem arrayStep_heldBack (hfrom : r.lineFrom ≤ s.clk) (htaken : ∀ b ∈ r.lines, b < 16 ∧ (s.tile tile).bankTaken b s.clk = true) :
    ∃ t : State, exec (.arrayStep tile) s = .next t ∧ (t.tile tile).arrayRun = some { r with stepEnd := r.stepEnd + 1, lineFrom := s.clk + 1 } := by
  have hmine : r.lines.dedup.filter (fun b => bankOpen s tile b portArrayRead) = [] := by
    refine List.filter_eq_nil_iff.2 fun b hb => ?_
    obtain ⟨hlt, htaken⟩ := htaken b (List.mem_dedup.1 hb)
    simp [bankOpen, htaken, hlt]
  have hsome : 0 < r.lines.dedup.length := by
    obtain ⟨b, hb⟩ := List.exists_mem_of_ne_nil _ hlines
    exact List.length_pos_of_mem (List.mem_dedup.2 hb)
  rw [arrayStep_reads hrun hlines, if_pos hfrom]
  refine ⟨_, rfl, ?_⟩
  unfold arrayLines
  dsimp only
  rw [hmine, if_pos (by simpa using fun b hb => (htaken b hb).2), tile_setRun, if_pos (by exact hsome)]
  rfl

end

/-! ### What a step reads (R165, R169) -/

theorem cutLines_length (g off n fuel : Nat) : (cutLines g off n fuel).length ≤ fuel := by
  induction fuel generalizing off n with
  | zero => exact Nat.le_refl 0
  | succ fuel ih =>
    rw [cutLines]
    split
    · exact Nat.zero_le _
    · exact Nat.succ_le_succ (ih ..)

theorem read_add (m : Memory) (a k n : Nat) : m.read a (k + n) = m.read a k ++ m.read (a + k) n := by
  simp only [read_eq_map, List.range_add, List.map_append, List.map_map, Function.comp_def, Nat.add_assoc]

theorem cutLines_read (m : Memory) (x g off n fuel : Nat) (h : n = 0 ∨ n + (g + off) % 128 ≤ 128 * fuel) :
    (cutLines g off n fuel).flatMap (fun e => m.read (x + e.1) e.2) = m.read (x + off) n := by
  induction fuel generalizing off n with
  | zero =>
    obtain rfl : n = 0 := by omega
    rfl
  | succ fuel ih =>
    rw [cutLines]
    split
    next hn => rw [hn]; rfl
    next hn =>
      have hcut := read_add m (x + off) (min n (128 - (g + off) % 128)) (n - min n (128 - (g + off) % 128))
      rw [List.flatMap_cons, ih (off + min n (128 - (g + off) % 128)) _ (by omega), ← Nat.add_assoc, ← hcut]
      congr 1
      omega

theorem readLines_eq {s : State} (hwrites : s.writes = []) (a : ArrayJob) (addr n place : Nat) :
    readLines s a addr n place = (List.range n).map fun i => s.scratch.get (scratchAddr a.job (a.vcore / 8) (addr + i)) := by
  have hzip : ((cutLines addr 0 n (n / 128 + 2)).zip (List.range (n / 128 + 2))).map Prod.fst = cutLines addr 0 n (n / 128 + 2) :=
    List.map_fst_zip (by rw [List.length_range]; exact cutLines_length ..)
  have hread := cutLines_read s.scratch (scratchAddr a.job (a.vcore / 8) 0 + addr) addr 0 n (n / 128 + 2) (by omega)
  rw [← hzip, List.flatMap_map, read_eq_map] at hread
  unfold readLines
  dsimp only
  simp only [readBytes_of_no_writes hwrites, State.mem]
  refine hread.trans (List.map_congr_left fun i _ => ?_)
  refine congrArg s.scratch.get ?_
  simp only [scratchAddr, Nat.add_zero, Nat.add_assoc]

theorem firstBadOf_none {s : State} (a : ArrayJob) (starts : List Nat) (n : Nat) (h : s.eccScratch = []) : firstBadOf s a starts n = none := by
  have hbad (x : Nat) : badLine s a x n = none := by
    rw [badLine, firstBad, h]
    simp
  rw [firstBadOf]
  exact List.findSome?_eq_none_iff.2 fun x _ => hbad x

/-! ### The sums of a step (R165, R167) -/

theorem foldl_add_if {α : Type} (p : α → Prop) [DecidablePred p] (f : α → Int) (l : List α) (z : Int) :
    l.foldl (fun acc x => if p x then acc else acc + f x) z = z + (l.map fun x => if p x then 0 else f x).sum := by
  induction l generalizing z with
  | nil => simp
  | cons x l ih =>
    rw [List.foldl_cons, ih, List.map_cons, List.sum_cons]
    split <;> omega

/-- A byte of the tile of the job that the array runs. -/
def tileByte (s : State) (r : ArrayRun) (addr : Nat) : Byte := s.scratch.get (scratchAddr r.job.job (r.job.vcore / 8) addr)

/-- What an element of a step adds to the sum of a column. -/
def stepTerm (s : State) (r : ArrayRun) (m n e : Nat) : Int :=
  if tmTri r.job.block ∧ tmDw r.job.block < ((64 * r.j + n : Nat) : Int) - ((80 * r.i + e : Nat) : Int) then 0
  else trit (tileByte s r ((tmW r.job.block).addr (r.j * tmKt r.job.block + r.i) n 0 + e / 5)).toNat (e % 5)
    * sextNat (tileByte s r ((tmA r.job.block).addr 0 (32 * r.b + m) (80 * r.i) + e)).toNat 8

theorem stepSum_eq (s : State) (r : ArrayRun) (m n : Nat) : Stated.stepSum s r m n = ((List.range 80).map (stepTerm s r m n)).sum := by
  unfold Stated.stepSum
  dsimp only
  refine congrArg List.sum (List.map_congr_left fun e _ => ?_)
  simp only [stepTerm, trit, tileByte]

theorem stepSum_of_terms {s : State} {r : ArrayRun} {m n : Nat} (h : ∀ e < 80, stepTerm s r m n e = 0) : Stated.stepSum s r m n = 0 := by
  rw [stepSum_eq]
  refine List.sum_eq_zero fun x hx => ?_
  obtain ⟨e, he, rfl⟩ := List.mem_map.1 hx
  exact h e (List.mem_range.1 he)

/-- Above the diagonal every entry counts 0. -/
theorem stepSum_above {s : State} {r : ArrayRun} (m n : Nat)
    (h : tmTri r.job.block ∧ tmDw r.job.block < ((64 * r.j : Nat) : Int) - ((80 * r.i + 79 : Nat) : Int)) : Stated.stepSum s r m n = 0 :=
  stepSum_of_terms fun e he => if_pos ⟨h.1, by have := h.2; push_cast at this ⊢; omega⟩

/-- A byte 0x79 holds five trits 0. -/
theorem trit_zeros (i : Nat) (h : i < 5) : trit 121 i = 0 := by
  interval_cases i <;> rfl

theorem stepSum_zeros {s : State} {r : ArrayRun} (m n : Nat)
    (h : ∀ k < 16, (tileByte s r ((tmW r.job.block).addr (r.j * tmKt r.job.block + r.i) n 0 + k)).toNat = 121) : Stated.stepSum s r m n = 0 := by
  refine stepSum_of_terms fun e he => ?_
  unfold stepTerm
  split
  · rfl
  · rw [h (e / 5) (by omega), trit_zeros _ (by omega), zero_mul]

/-- The columns of a tile of weights, and the slices of the rows of a step. -/
def weightCols (s : State) (r : ArrayRun) : List (List Byte) := (List.range 64).map fun n =>
  (List.range 16).map fun k => tileByte s r ((tmW r.job.block).addr (r.j * tmKt r.job.block + r.i) n 0 + k)

def rowSlice (s : State) (r : ArrayRun) (m : Nat) : List Byte :=
  (List.range 80).map fun e => tileByte s r ((tmA r.job.block).addr 0 (32 * r.b + m) (80 * r.i) + e)

theorem zip_range_map {α : Type} (k : Nat) (f : Nat → α) : (List.range k).zip ((List.range k).map f) = (List.range k).map fun i => (i, f i) := by
  refine List.ext_getElem (by simp) fun i h1 h2 => ?_
  simp

/-- The sum of one column. -/
def columnSum (b : List Word) (col row : List Byte) (j i n : Nat) : Int :=
  ((List.range 80).zip row).foldl (fun (acc : Int) (e : Nat × Byte) =>
    if tmTri b ∧ tmDw b < ((64 * j + n : Nat) : Int) - ((80 * i + e.1 : Nat) : Int) then acc
    else acc + trit ((col.getD (e.1 / 5) 0).toNat) (e.1 % 5) * sextNat e.2.toNat 8) 0

theorem rowSums_columns (b : List Word) (cols : List (List Byte)) (row : List Byte) (j i : Nat) :
    rowSums b cols row j i = ((List.range 64).zip cols).map fun c => columnSum b c.2 row j i c.1 := by
  simp only [rowSums, columnSum]

theorem columnSum_eq {s : State} {r : ArrayRun} (m n : Nat) :
    columnSum r.job.block ((List.range 16).map fun k => tileByte s r ((tmW r.job.block).addr (r.j * tmKt r.job.block + r.i) n 0 + k))
      (rowSlice s r m) r.j r.i n = Stated.stepSum s r m n := by
  rw [columnSum, rowSlice, zip_range_map, List.foldl_map, foldl_add_if, zero_add, stepSum_eq]
  refine congrArg List.sum (List.map_congr_left fun e he => ?_)
  have he' : e / 5 < 16 := by have := List.mem_range.1 he; omega
  simp only [stepTerm]
  rw [List.getD_eq_getElem _ _ (by simpa using he'), List.getElem_map, List.getElem_range]

theorem rowSums_getD {s : State} {r : ArrayRun} (m n : Nat) (hn : n < 64) :
    (rowSums r.job.block (weightCols s r) (rowSlice s r m) r.j r.i).getD n 0 = Stated.stepSum s r m n := by
  rw [rowSums_columns, weightCols, zip_range_map, List.map_map, List.getD_eq_getElem _ _ (by simpa using hn), List.getElem_map,
    List.getElem_range, Function.comp]
  exact columnSum_eq m n

/-! ### A step of the array (R165, R168, R169) -/

theorem map_zip_range {α β : Type} (k : Nat) (g : Nat → α) (f : α × Nat → β) :
    (((List.range k).map g).zip (List.range k)).map f = (List.range k).map fun i => f (g i, i) := by
  refine List.ext_getElem (by simp) fun i h1 h2 => ?_
  simp

section
variable {s : State} {r : ArrayRun}

theorem weightCols_read (hwrites : s.writes = []) :
    (((List.range 64).map fun n => (tmW r.job.block).addr (r.j * tmKt r.job.block + r.i) n 0).zip (List.range 64)).map
      (fun e => readLines s r.job e.1 16 (100 + 2 * e.2)) = weightCols s r := by
  simp only [readLines_eq hwrites]
  rw [map_zip_range]
  rfl

theorem rowSlices_read (hwrites : s.writes = []) (rows : Nat) (cols : List (List Byte)) :
    (((List.range rows).map fun k => (tmA r.job.block).addr 0 (32 * r.b + k) (80 * r.i)).zip (List.range rows)).map
      (fun e => rowSums r.job.block cols (readLines s r.job e.1 80 (300 + 2 * e.2)) r.j r.i)
      = (List.range rows).map fun m => rowSums r.job.block cols (rowSlice s r m) r.j r.i := by
  simp only [readLines_eq hwrites]
  rw [map_zip_range]
  rfl

theorem mem_weightCols {x : Byte} : x ∈ (weightCols s r).flatten ↔
    ∃ n < 64, ∃ k < 16, tileByte s r ((tmW r.job.block).addr (r.j * tmKt r.job.block + r.i) n 0 + k) = x := by
  simp only [weightCols, List.mem_flatten, List.mem_map, List.mem_range]
  constructor
  · rintro ⟨-, ⟨n, hn, rfl⟩, hx⟩
    obtain ⟨k, hk, rfl⟩ := List.mem_map.1 hx
    exact ⟨n, hn, k, List.mem_range.1 hk, rfl⟩
  · rintro ⟨n, hn, k, hk, rfl⟩
    exact ⟨_, ⟨n, hn, rfl⟩, List.mem_map.2 ⟨k, List.mem_range.2 hk, rfl⟩⟩

/-- The sums of a step that adds nothing. -/
theorem zeros_getD (rows m n : Nat) : ((List.replicate rows (List.replicate 64 (0 : Int))).getD m []).getD n 0 = 0 := by
  by_cases hm : m < rows
  · rw [List.getD_replicate _ hm, List.getD_eq_getElem?_getD, List.getElem?_replicate]
    split <;> rfl
  · have hrow : (List.replicate rows (List.replicate 64 (0 : Int))).getD m [] = [] := List.getD_eq_default _ _ (by simpa using hm)
    rw [hrow]
    rfl

/-- A step that meets no illegal byte is skipped, adds nothing, or adds the sums of its rows; it takes a clk at least. -/
theorem arrayStep_sums (tile : Nat) (hwrites : s.writes = []) (hecc : s.eccScratch = [])
    (hlegal : ∀ n k, n < 64 → k < 16 → (tileByte s r ((tmW r.job.block).addr (r.j * tmKt r.job.block + r.i) n 0 + k)).toNat < 243) :
    ∃ (d : Nat) (lines : List Nat) (sums : List (List Int)), arrayStep s tile r = s.setRun tile (r.took s.clk d lines sums) ∧ 0 < d
      ∧ ∀ m n, m < tmRows r.job.block r.b → n < 64 → (sums.getD m []).getD n 0 = Stated.stepSum s r m n := by
  have hillegal : (weightCols s r).flatten.findIdx? (fun x => decide (243 ≤ x.toNat)) = none := by
    refine List.findIdx?_eq_none_iff.2 fun x hx => ?_
    obtain ⟨n, hn, k, hk, rfl⟩ := mem_weightCols.1 hx
    exact decide_eq_false (Nat.not_le.2 (hlegal n k hn hk))
  unfold arrayStep
  dsimp only
  split
  next habove => exact ⟨1, _, _, rfl, Nat.one_pos, fun m n _ _ => by rw [zeros_getD, stepSum_above m n habove]⟩
  · rw [firstBadOf_none _ _ _ hecc, weightCols_read hwrites]
    dsimp only
    rw [hillegal]
    dsimp only
    split
    next hzero =>
      refine ⟨_, _, _, rfl, by omega, fun m n _ hn => ?_⟩
      rw [zeros_getD, stepSum_zeros m n fun k hk => ?_]
      have hbyte := List.all_eq_true.1 hzero _ (mem_weightCols.2 ⟨n, hn, k, hk, rfl⟩)
      rw [beq_iff_eq.1 hbyte]
      rfl
    · rw [firstBadOf_none _ _ _ hecc, rowSlices_read hwrites]
      refine ⟨_, _, _, rfl, by omega, fun m n hm hn => ?_⟩
      rw [List.getD_eq_getElem (n := m) (l := (List.range _).map _) _ (by simpa using hm), List.getElem_map, List.getElem_range, rowSums_getD m n hn]

theorem took_first (clk d : Nat) (lines : List Nat) (sums : List (List Int)) (hfirst : r.i = 0) :
    (r.took clk d lines sums).blocks = r.blocks ++ [⟨r.j, r.b, sums, decide (r.i + 1 = tmKt r.job.block), 0⟩]
      ∧ ((r.took clk d lines sums).j, (r.took clk d lines sums).b, (r.took clk d lines sums).i) = Stated.placeAfter r := by
  refine ⟨?_, ?_⟩
  · change r.withBlock sums = _
    rw [ArrayRun.withBlock, if_pos hfirst]
  · rfl

/-- The first step of a block takes its accumulators. -/
theorem arrayStep_steps {tile : Nat} (hrun : (s.tile tile).arrayRun = some r) (hlive : s.live = true) (hmay : r.mayStep s.clk = true)
    (hfirst : r.i = 0) (hwrites : s.writes = []) (hecc : s.eccScratch = [])
    (hlegal : ∀ n k, n < 64 → k < 16 → (tileByte s r ((tmW r.job.block).addr (r.j * tmKt r.job.block + r.i) n 0 + k)).toNat < 243) :
    ∃ t : State, ∃ r', ∃ x, exec (.arrayStep tile) s = .next t ∧ (t.tile tile).arrayRun = some r' ∧ (r'.j, r'.b, r'.i) = Stated.placeAfter r
      ∧ r'.blocks = r.blocks ++ [x] ∧ (x.j, x.b, x.drained) = (r.j, r.b, 0) ∧ x.complete = decide (r.i + 1 = tmKt r.job.block) ∧ s.clk < r'.stepEnd
      ∧ (∀ m n, m < tmRows r.job.block r.b → n < 64 → (x.acc.getD m []).getD n 0 = Stated.stepSum s r m n) ∧ t.scratch = s.scratch := by
  obtain ⟨d, lines, sums, hstep, hd, hsums⟩ := arrayStep_sums tile hwrites hecc hlegal
  obtain ⟨hblocks, hplace⟩ := took_first (r := r) s.clk d lines sums hfirst
  have hlines : r.lines.isEmpty = true := by
    simp only [ArrayRun.mayStep, Bool.and_eq_true] at hmay
    exact hmay.1.2
  have hexec : exec (.arrayStep tile) s = .next { (s.setRun tile (r.took s.clk d lines sums)) with free := s.free + 1 } := by
    rw [exec_arrayStep, execArrayStep, hrun]
    dsimp only
    rw [if_neg (by simp [hlines]), if_pos (by rw [hlive, hmay]; rfl), hstep]
  refine ⟨_, r.took s.clk d lines sums, _, hexec, ?_, hplace, hblocks, rfl, rfl, Nat.lt_add_of_pos_right hd, hsums, rfl⟩
  exact congrArg Tile.arrayRun (tile_setRun s tile _)

end

/-! ### A row drains (R170, R172, R173) -/

theorem tile_withDrain (s : State) (tile : Nat) (r : ArrayRun) (row : DrainRow) :
    ((s.setRun tile r).updTile tile (fun t => { t with drains := t.drains ++ [row] })).tile tile
      = { s.tile tile with arrayRun := some r, drains := (s.tile tile).drains ++ [row] } := by
  rw [tile_updTile_self, tile_setRun]

section
variable {s : State} {tile : Nat} {r : ArrayRun} {x : ArrayBlock} (hrun : (s.tile tile).arrayRun = some r)

section
variable (hblocks : r.blocks = [x]) (hcomplete : x.complete = true) (hend : r.stepEnd ≤ s.clk) (hrow : r.lastRow ≤ s.clk)
  (hdrains : (s.tile tile).drains = []) (hecc : s.eccScratch = []) (hlive : s.live = true) (hout : r.out = [])
include hrun hblocks hcomplete hend hrow hdrains hecc hlive hout

theorem arrayRowDrain_drains :
    exec (.arrayRowDrain tile) s = .next { (drainRow s tile r x) with free := s.free + 1 } ∧ badScale s r.job x (32 * x.b + x.drained) = none := by
  have hdraining : r.draining s.clk = some x := by
    rw [ArrayRun.draining, hblocks]
    exact if_pos ⟨hcomplete, Or.inl hend⟩
  have hmay : mayDrain s (s.tile tile) r = true := by
    simp [mayDrain, hlive, hout, hdraining, hrow, hdrains]
  refine ⟨?_, firstBadOf_none _ _ _ hecc⟩
  rw [exec_arrayRowDrain, execArrayRowDrain]
  dsimp only
  rw [hrun]
  dsimp only
  rw [hout, hdraining]
  dsimp only
  rw [if_pos hmay]

theorem arrayRowDrain_intoC (hplain : tmDrain r.job.block = false) : ∃ t : State, exec (.arrayRowDrain tile) s = .next t ∧ t.scratch = s.scratch
    ∧ (t.tile tile).arrayRun = some { r with
      out := linesOf ((operandOf (r.job.block.getD 4 0) 0).addr 0 (32 * x.b + x.drained) (64 * x.j * descBits r.fmtC.toNat / 8))
        (rowBytes r.fmtC.toNat r.job.block (rowVals s r.job x (32 * x.b + x.drained))) } := by
  obtain ⟨hexec, hgood⟩ := arrayRowDrain_drains hrun hblocks hcomplete hend hrow hdrains hecc hlive hout
  rw [drainRow] at hexec
  dsimp only at hexec
  rw [hgood] at hexec
  dsimp only at hexec
  rw [if_neg (by simp [hplain])] at hexec
  exact ⟨_, hexec, rfl, congrArg Tile.arrayRun (tile_setRun s tile _)⟩

theorem arrayRowDrain_toTask (htask : tmDrain r.job.block = true) : ∃ t : State, ∃ r', ∃ d, exec (.arrayRowDrain tile) s = .next t
    ∧ (t.tile tile).arrayRun = some r' ∧ r'.job = { r.job with v := r.job.v - 1 }
    ∧ (t.tile tile).drains = [d] ∧ d.core = r.job.core ∧ d.cls = tmClass r.job.block ∧ d.m = 32 * x.b + x.drained ∧ d.col = 64 * x.j
    ∧ (d.elems, d.flags) = drainVals r.job.block (rowVals s r.job x (32 * x.b + x.drained)) ∧ t.scratch = s.scratch := by
  obtain ⟨hexec, hgood⟩ := arrayRowDrain_drains hrun hblocks hcomplete hend hrow hdrains hecc hlive hout
  rw [drainRow] at hexec
  dsimp only at hexec
  rw [hgood] at hexec
  dsimp only at hexec
  rw [if_pos htask] at hexec
  let vals := drainVals r.job.block (rowVals s r.job x (32 * x.b + x.drained))
  refine ⟨_, { r with job := { r.job with v := r.job.v - 1 } }, ⟨r.job.core, r.job.job, tmClass r.job.block, 32 * x.b + x.drained, 64 * x.j, vals.1, vals.2, []⟩, hexec, ?_, rfl, ?_, rfl, rfl, rfl,
    rfl, rfl, rfl⟩
  · exact congrArg Tile.arrayRun (tile_withDrain s tile { r with job := { r.job with v := r.job.v - 1 } } _)
  · refine (congrArg Tile.drains (tile_withDrain s tile { r with job := { r.job with v := r.job.v - 1 } } _)).trans ?_
    rw [hdrains]
    rfl

end

theorem rowGone_out (r : ArrayRun) (n : Nat) : (r.rowGone n).out = r.out := by
  unfold ArrayRun.rowGone
  split <;> rfl

theorem rowGone_lastRow {r : ArrayRun} {n : Nat} (h : r.lastRow = n) : (r.rowGone n).lastRow = n := by
  unfold ArrayRun.rowGone
  split
  · exact h
  · rfl

theorem rowGone_blocks {r : ArrayRun} {x : ArrayBlock} {l : List ArrayBlock} (n : Nat) (h : r.blocks = x :: l) :
    (r.rowGone n).blocks = if x.drained + 1 = tmRows r.job.block x.b then l else { x with drained := x.drained + 1 } :: l := by
  unfold ArrayRun.rowGone
  rw [h]

include hrun

/-- A line of a row is written once its bank is granted; with the last one the row has left. -/
theorem arrayRowDrain_writes {addr : Nat} {bs : List Byte} {rest : List (Nat × List Byte)} (hout : r.out = (addr, bs) :: rest)
    (hrow : r.lastRow ≤ s.clk) (hbank : (s.takeBanks tile portArrayDrain [addr / 65536]).isSome = true) :
    ∃ t : State, ∃ r', exec (.arrayRowDrain tile) s = .next t ∧ (t.tile tile).arrayRun = some r' ∧ r'.out = rest ∧ r'.lastRow = s.clk + 1
      ∧ t.scratch = s.scratch.write (scratchAddr r.job.job (r.job.vcore / 8) addr) bs
      ∧ (rest ≠ [] → r'.blocks = r.blocks)
      ∧ (∀ x l, rest = [] → r.blocks = x :: l →
        r'.blocks = if x.drained + 1 = tmRows r.job.block x.b then l else { x with drained := x.drained + 1 } :: l) := by
  obtain ⟨u, hu⟩ := Option.isSome_iff_exists.1 hbank
  obtain ⟨ts, rfl⟩ := takeBanks_tiles hu
  have hexec : exec (.arrayRowDrain tile) s = .next (drainLine s tile r addr bs rest) := by
    rw [exec_arrayRowDrain, execArrayRowDrain]
    dsimp only
    rw [hrun]
    dsimp only
    rw [hout]
    dsimp only
    rw [if_pos hrow]
  rw [drainLine, hu] at hexec
  refine ⟨_, if rest.isEmpty then ({ r with out := rest, lastRow := s.clk + 1 } : ArrayRun).rowGone (s.clk + 1)
    else { r with out := rest, lastRow := s.clk + 1 }, hexec, congrArg Tile.arrayRun (tile_setRun _ tile _), ?_, ?_, rfl, fun hmore => ?_,
    fun x l hnil hbs => ?_⟩
  · split
    · exact rowGone_out ..
    · rfl
  · split
    · exact rowGone_lastRow rfl
    · rfl
  · rw [if_neg (by simpa using hmore)]
  · rw [if_pos (by simp [hnil])]
    exact rowGone_blocks _ hbs

end

/-! ### The end of an array job (R210, R212, R256) -/

/-- The array once it is free. -/
theorem tile_freeArray (u : State) (tile : Nat) : (u.freeArray tile).tile tile = { u.tile tile with arrayRun := none, arrayFree := u.clk + 1 } :=
  Map.getD_set_self ..

/-- What the array of a tile runs, and from when it is free. -/
def arrayOf (s : State) (tile : Nat) : Option ArrayRun × Nat := ((s.tile tile).arrayRun, (s.tile tile).arrayFree)

theorem arrayOf_doneRise (s : State) (post job : Nat) (know : Know) (tile : Nat) : arrayOf (s.doneRise post job know) tile = arrayOf s tile := by
  unfold State.doneRise
  split
  · rfl
  · dsimp only
    by_cases h : tile = (post - 1) / 64
    · subst h
      rw [arrayOf, tile_updTile_self]
      rfl
    · unfold arrayOf State.tile State.updTile
      rw [Map.getD_set_of_ne _ _ _ _ _ h]

theorem arrayOf_complete (s : State) (src : Endpoint) (job vcore v : Nat) (cm : Cmsg) (status : Word) (results : List Word) (acq : Bool) (know : Know)
    (post tile : Nat) : arrayOf (s.complete src job vcore v cm status results acq know post) tile = arrayOf s tile := by
  unfold State.complete
  split
  · rw [arrayOf_doneRise, arrayOf, tile_congr (State.pod_tiles ..)]
    rfl
  · split <;> rfl

section
variable {s : State} {tile : Nat} {r : ArrayRun} (hrun : (s.tile tile).arrayRun = some r) (hblocks : r.blocks = [])
  (hdrains : (s.tile tile).drains = [])

/-- A completion of the job that the array has run leaves the array free. -/
theorem completeJob_leaves (a : ArrayJob) (code : Nat) (w : Word) (time n : Nat) :
    let t : State := State.completeJob { s.freeArray tile with free := n } a code w time
    (t.tile tile).arrayRun = none ∧ (t.tile tile).arrayFree = s.clk + 1
      ∧ Stated.Reports s t (.ni (tileOf a.core)) a.job a.v a.cm [statusWord code 0 0, a.cm.tag, w, BitVec.ofNat 64 time] := by
  intro t
  have harray : arrayOf t tile = (none, s.clk + 1) := by
    refine (arrayOf_complete (State.closeJob { s.freeArray tile with free := n } a w) (.ni (tileOf a.core)) a.job a.vcore a.v a.cm
      (statusWord code 0 0) [w, BitVec.ofNat 64 time] (cmAcq a.cm) _ a.post tile).trans ?_
    exact congrArg (fun x : Tile => (x.arrayRun, x.arrayFree)) (tile_freeArray s tile)
  refine ⟨congrArg Prod.fst harray, congrArg Prod.snd harray, ?_⟩
  exact complete_reports (s := s) (t := State.closeJob { s.freeArray tile with free := n } a w) (.ni (tileOf a.core)) a.job a.vcore a.v a.cm
    (statusWord code 0 0) [w, BitVec.ofNat 64 time] (cmAcq a.cm) _ a.post rfl rfl

include hrun hblocks hdrains

theorem arrayJobComplete_reports (hstopped : r.stopped = 0) (hsteps : r.allSteps = true) (hrow : r.lastRow + 12 ≤ s.clk) :
    ∃ t : State, exec (.arrayJobComplete tile) s = .next t ∧ (t.tile tile).arrayRun = none ∧ (t.tile tile).arrayFree = s.clk + 1
      ∧ Stated.Reports s t (.ni (tileOf r.job.core)) r.job.job r.job.v r.job.cm
        [statusWord 0 0 0, r.job.cm.tag, 3, BitVec.ofNat 64 (s.clk - r.start)] := by
  have hmay : mayComplete s (s.tile tile) r = true := by simp [mayComplete, hstopped, hsteps, hblocks, hdrains, hrow]
  refine ⟨{ State.completeJob { s.freeArray tile with free := s.free } r.job 0 3 (s.clk - r.start) with free := s.free + 1 }, ?_,
    completeJob_leaves r.job 0 3 (s.clk - r.start) s.free⟩
  rw [exec_arrayJobComplete, execArrayJobComplete]
  dsimp only
  rw [hrun]
  dsimp only
  rw [if_pos hmay]
  rfl

/-- A job that has stopped, as it finishes. -/
def stopFinished (s : State) (tile : Nat) (r : ArrayRun) : State := State.closeJob { (s.freeArray tile) with free := s.free + 1 } r.job r.stopWord

theorem arrayStopFinish_finishes (hstopped : r.stopped ≠ 0) (hrow : (if r.handed = 0 then r.abortAt else r.lastRow) + 12 ≤ s.clk) :
    (r.stopped = 2 → ∃ t : State, exec (.arrayStopFinish tile) s = .next t ∧ (t.tile tile).arrayRun = none
      ∧ Stated.Reports s t (.ni (tileOf r.job.core)) r.job.job r.job.v r.job.cm
          [statusWord 9 0 0, r.job.cm.tag, r.stopWord, BitVec.ofNat 64 (s.clk - r.start)])
    ∧ (r.stopped = 1 → exec (.arrayStopFinish tile) s = .next ((stopFinished s tile r).raiseArrJob r.job .illtrit (tmId r.job.seq)))
    ∧ (r.stopped = 3 → exec (.arrayStopFinish tile) s = .next ((stopFinished s tile r).raiseArrJob r.job .eccloc (BitVec.ofNat 64 r.eccAt))) := by
  have hmay : mayFinish s (s.tile tile) r = true := by
    have hrow' : (if r.handed = 0 then r.abortAt + 12 else r.lastRow + 12) ≤ s.clk := by
      split at hrow <;> simpa [*] using hrow
    simp [mayFinish, hstopped, hblocks, hdrains, hrow']
  refine ⟨fun h => ?_, fun h => ?_, fun h => ?_⟩
  · obtain ⟨hfree, -, hreports⟩ := completeJob_leaves (s := s) (tile := tile) r.job 9 r.stopWord (s.clk - r.start) (s.free + 1)
    refine ⟨_, ?_, hfree, hreports⟩
    simp only [exec_arrayStopFinish, execArrayStopFinish, hrun, if_pos hmay, h]
  · simp only [exec_arrayStopFinish, execArrayStopFinish, hrun, if_pos hmay, h]
    rfl
  · simp only [exec_arrayStopFinish, execArrayStopFinish, hrun, if_pos hmay, h]
    rfl

end
/-- Settles O55: the start, the steps, the rows and the ends of an array job, event by event. -/
theorem arrayEvents : Obligations.ArrayEvents := by
  unfold Obligations.ArrayEvents
  refine ⟨?start, ?step, ?lines, ?row, ?write, ?finish⟩
  case start =>
    intro s tile a rest j hidle hqueue hjob hlive hentered hfree hwaits checks
    have hmay := arrayMayStart_of hlive hentered hfree hwaits
    exact ⟨arrayJobStart_starts hidle hqueue hjob hmay, fun c => arrayJobStart_raises hidle hqueue hjob hmay⟩
  case step =>
    intro s tile r hrun hlive hmay hfirst hwrites hecc b hlegal
    exact arrayStep_steps hrun hlive hmay hfirst hwrites hecc hlegal
  case lines =>
    intro s tile r hrun hlines
    exact ⟨fun hwait => by rw [arrayStep_reads hrun hlines, if_neg (Nat.not_le.2 hwait)], arrayStep_granted hrun hlines,
      arrayStep_heldBack hrun hlines⟩
  case row =>
    intro s tile r x hrun hblocks hcomplete hend hrow hdrains hecc hlive hout a m
    exact ⟨arrayRowDrain_intoC hrun hblocks hcomplete hend hrow hdrains hecc hlive hout,
      arrayRowDrain_toTask hrun hblocks hcomplete hend hrow hdrains hecc hlive hout⟩
  case write =>
    intro s tile addr r bs rest hrun hout hrow hbank
    exact arrayRowDrain_writes hrun hout hrow hbank
  case finish =>
    intro s tile r hrun hblocks hdrains
    refine ⟨arrayJobComplete_reports hrun hblocks hdrains, fun hrow => ⟨fun h => ?_, fun h => ?_, fun h => ?_⟩⟩
    · exact (arrayStopFinish_finishes hrun hblocks hdrains (by rw [h]; decide) hrow).1 h
    · exact ⟨stopFinished s tile r, (arrayStopFinish_finishes hrun hblocks hdrains (by rw [h]; decide) hrow).2.1 h,
        congrArg Tile.arrayRun (tile_freeArray s tile)⟩
    · exact ⟨stopFinished s tile r, (arrayStopFinish_finishes hrun hblocks hdrains (by rw [h]; decide) hrow).2.2 h,
        congrArg Tile.arrayRun (tile_freeArray s tile)⟩

end Sys2Proof.Laws
end

section
/-! ## Exchanges and trigger units -/

namespace Sys2Proof.Laws
open Sys2Proof.Machine Sys2Proof.Safety

/-! ### A raise leaves the exchanges of the tiles -/

/-- The active exchange of each tile. -/
def exchangesOf (s : State) (n : Nat) : Option Exchange := (s.tile n).xactive

theorem exchangesOf_congr {s t : State} (h : t.tiles = s.tiles) : exchangesOf t = exchangesOf s := by
  funext n
  rw [exchangesOf, exchangesOf, tile_congr h]

theorem tile_updTile_of_ne (s : State) {n m : Nat} (f : Tile → Tile) (h : n ≠ m) : (s.updTile m f).tile n = s.tile n := by
  unfold State.tile State.updTile
  rw [Map.getD_set_of_ne _ _ _ _ _ h]

theorem exchangesOf_updTile (s : State) (m : Nat) {f : Tile → Tile} (hf : ∀ t, (f t).xactive = t.xactive) :
    exchangesOf (s.updTile m f) = exchangesOf s := by
  funext n
  by_cases h : n = m
  · rw [exchangesOf, h, tile_updTile_self, hf, exchangesOf]
  · rw [exchangesOf, tile_updTile_of_ne s f h, exchangesOf]

section
variable (s : State)

@[simp] theorem exchangesOf_pod (src : Endpoint) (job v : Nat) (lost killed : Bool) :
    exchangesOf (s.pod src job v lost killed) = exchangesOf s := exchangesOf_congr (State.pod_tiles ..)

@[simp] theorem exchangesOf_updJob (n : Nat) (f : Job → Job) : exchangesOf (s.updJob n f) = exchangesOf s :=
  exchangesOf_congr (State.updJob_tiles ..)

@[simp] theorem exchangesOf_endTask (key : Nat) : exchangesOf (s.endTask key) = exchangesOf s := by
  unfold State.endTask
  split
  · rfl
  · dsimp only
    split <;> rfl

@[simp] theorem exchangesOf_sweepDiscards (job : Nat) : exchangesOf (s.sweepDiscards job) = exchangesOf s := by
  unfold State.sweepDiscards
  split
  · rfl
  · split <;> rfl

@[simp] theorem exchangesOf_killTasks (job : Nat) (j : Job) (d : Nat × Nat) (l : List (Nat × Ctx)) :
    exchangesOf (killTasks job j d s l) = exchangesOf s := by
  induction l generalizing s with
  | nil => rfl
  | cons e l ih =>
    rw [killTasks]
    split <;> simp [ih]

@[simp] theorem exchangesOf_dropWaiting (job : Nat) (j : Job) (d : Nat × Nat) (l : List (Nat × Core)) :
    exchangesOf (dropWaiting job j d s l) = exchangesOf s := by
  induction l generalizing s with
  | nil => rfl
  | cons e l ih =>
    rw [dropWaiting, ih]
    split
    · rfl
    · rw [exchangesOf_pod]; rfl

@[simp] theorem exchangesOf_discardUnit (job : Nat) (d : Nat × Nat) : exchangesOf (s.discardUnit job d) = exchangesOf s := by
  unfold State.discardUnit
  split
  · rfl
  · simp only [exchangesOf_sweepDiscards, exchangesOf_dropWaiting, exchangesOf_killTasks]; rfl

@[simp] theorem exchangesOf_freeEntries (job t : Nat) : exchangesOf (freeEntries job s t) = exchangesOf s := by
  unfold freeEntries
  dsimp only
  split
  · rfl
  · rw [exchangesOf_pod]
    exact exchangesOf_updTile s t fun _ => rfl

theorem exchangesOf_foldl {α : Type} {f : State → α → State} (hf : ∀ s a, exchangesOf (f s a) = exchangesOf s) (l : List α) :
    exchangesOf (l.foldl f s) = exchangesOf s := by
  induction l generalizing s with
  | nil => rfl
  | cons a l ih => rw [List.foldl_cons, ih, hf]

@[simp] theorem exchangesOf_staleWaiters (job : Nat) (l : List (Nat × Future)) : exchangesOf (staleWaiters job s l) = exchangesOf s := by
  induction l generalizing s with
  | nil => rfl
  | cons e l ih =>
    rw [staleWaiters, ih, exchangesOf_foldl]
    · split <;> rfl
    · intro t r
      split
      · exact exchangesOf_pod t ..
      · rfl

@[simp] theorem exchangesOf_killJob (job : Nat) : exchangesOf (s.killJob job) = exchangesOf s := by
  unfold State.killJob
  split
  · rfl
  · simp only [exchangesOf_updJob, exchangesOf_staleWaiters]
    rw [exchangesOf_foldl _ (fun t a => exchangesOf_freeEntries t job a), exchangesOf_discardUnit]

@[simp] theorem exchangesOf_contain (job vcore l : Nat) : exchangesOf (s.contain job vcore l) = exchangesOf s := by
  induction l with
  | zero => exact exchangesOf_killJob s job
  | succ l ih =>
    rw [State.contain]
    split
    · rfl
    · split
      · split
        · rfl
        · split
          · split
            · rw [exchangesOf_discardUnit]; rfl
            · exact ih
          · split
            · exact exchangesOf_discardUnit ..
            · exact ih
      · exact ih

@[simp] theorem exchangesOf_killTrap (job vcore u : Nat) (src : Endpoint) : exchangesOf (s.killTrap job vcore u src) = exchangesOf s := by
  unfold State.killTrap State.containment
  split
  · exact exchangesOf_pod ..
  · split
    · exact exchangesOf_pod ..
    · rw [exchangesOf_contain, exchangesOf_pod]

@[simp] theorem exchangesOf_sendOrDraw (job : Nat) (m : Msg) (u : Nat) : exchangesOf (s.sendOrDraw job m u) = exchangesOf s := by
  unfold State.sendOrDraw
  split
  · rfl
  · split
    · exact exchangesOf_updJob ..
    · rfl

@[simp] theorem exchangesOf_writeBytes (sp : Space) (a : Nat) (bs : List Byte) (path : Path) (task acc : Nat) (rel : Option Rel) :
    exchangesOf (s.writeBytes sp a bs path task acc rel) = exchangesOf s := by cases sp <;> rfl

@[simp] theorem exchangesOf_writeVirt (pt va : Nat) (path : Path) (l : List Word) : exchangesOf (s.writeVirt pt va path l) = exchangesOf s := by
  induction l generalizing s va with
  | nil => rfl
  | cons w l ih =>
    rw [State.writeVirt, ih]
    unfold State.ownWrite
    split
    · split
      · split
        · rw [exchangesOf_writeBytes]
          unfold State.markDirty
          split <;> rfl
        · rfl
      · rfl
    · rfl

@[simp] theorem exchangesOf_parkRecord (job : Nat) (j : Job) (e : Word) (vcore u : Nat) (r : Report) (know : Know) :
    exchangesOf (s.parkRecord job j e vcore u r know) = exchangesOf s := by
  unfold State.parkRecord
  simp only [exchangesOf_sendOrDraw, exchangesOf_updJob]
  split
  · rfl
  · exact exchangesOf_writeVirt ..

/-- What a raise leaves of the exchanges. -/
theorem exchangesOf_raiseJob (job vcore u : Nat) (x : Trap) (know : Know) (src : Endpoint) :
    exchangesOf (s.raiseJob job vcore u x know src) = exchangesOf s := by
  unfold State.raiseJob
  split
  · rfl
  · split
    · exact exchangesOf_pod ..
    · dsimp only
      split
      · exact exchangesOf_parkRecord ..
      · exact exchangesOf_sendOrDraw ..
      · split
        · unfold State.killOwn
          split
          · rfl
          · rw [exchangesOf_killTrap]; rfl
        · exact exchangesOf_killTrap ..

end

theorem testXchg_of_none {s : State} {tile : Nat} (h : (s.tile tile).xactive = none) : s.testXchg tile = s := by
  unfold State.testXchg
  rw [h]

theorem testXchg_waits {s : State} {tile : Nat} {x : Exchange} (h : (s.tile tile).xactive = some x)
    (hopen : ¬ (x.rowsIn.length = xcP x.block ∧ x.acked.length = xcP x.block)) : s.testXchg tile = s := by
  unfold State.testXchg
  rw [h]
  exact if_neg hopen

theorem testXchg_finishes {s : State} {tile : Nat} {x : Exchange} (h : (s.tile tile).xactive = some x) (hrows : x.rowsIn.length = xcP x.block)
    (hacked : x.acked.length = xcP x.block) : s.testXchg tile = s.finishXchg tile x 0 := by
  unfold State.testXchg
  rw [h]
  exact if_pos ⟨hrows, hacked⟩

theorem tile_setXchg (s : State) (tile : Nat) (x : Option Exchange) : (s.setXchg tile x).tile tile = { s.tile tile with xactive := x } :=
  tile_updTile_self ..

/-- An exchange ends: its unit is free, and its completion is reported. -/
theorem finishXchg_reports {s t : State} (tile : Nat) (x : Exchange) (code : Nat) (houts : t.outs = s.outs) (hjobs : t.jobs = s.jobs) :
    (t.finishXchg tile x code).tile tile = { t.tile tile with xactive := none }
      ∧ Stated.Reports s (t.finishXchg tile x code) (.ni tile) x.job x.v x.cm [statusWord code 0 0, x.cm.tag] := by
  refine ⟨?_, complete_reports (s := s) (t := (t.performAcc x.acc).setXchg tile none) (.ni tile) x.job x.vcore x.v x.cm (statusWord code 0 0) []
    (cmAcq x.cm) _ 0 houts hjobs⟩
  have htiles : (t.finishXchg tile x code).tiles = ((t.performAcc x.acc).setXchg tile none).tiles := by
    unfold State.finishXchg State.complete
    split
    · rw [State.doneRise, if_pos (Or.inl rfl), State.pod_tiles]
    · split <;> rfl
  rw [tile_congr htiles, tile_setXchg]
  rfl

/-! ### An exchange becomes active (R214) -/

/-- One ARRIVE of an exchange, to the rank k. -/
def sendArrive (j : Job) (tile : Nat) (x : Exchange) (s : State) (k : Nat) : State :=
  let vt := xcT0 x.block + k
  if vt = x.vtile then s
  else s.post .trigger (.ni tile) (.ni (j.tile vt)) x.job 1 0 [] (.arrive x.job (xcTag x.block) (xcP x.block) (xcL x.block) x.vtile vt)

theorem sendArrives_eq (j : Job) (tile : Nat) (x : Exchange) (s : State) :
    sendArrives j tile x s = (List.range (xcP x.block)).foldl (sendArrive j tile x) s := rfl

theorem sendArrive_keeps (j : Job) (tile : Nat) (x : Exchange) (s : State) (l : List Nat) :
    (l.foldl (sendArrive j tile x) s).tiles = s.tiles ∧ ∀ p ∈ s.packets, p ∈ (l.foldl (sendArrive j tile x) s).packets := by
  induction l generalizing s with
  | nil => exact ⟨rfl, fun p hp => hp⟩
  | cons k l ih =>
    obtain ⟨htiles, hpackets⟩ := ih (sendArrive j tile x s k)
    refine ⟨htiles.trans ?_, fun p hp => hpackets p ?_⟩
    · unfold sendArrive
      dsimp only
      split <;> rfl
    · unfold sendArrive
      dsimp only
      split
      · exact hp
      · exact List.mem_append_left _ hp

theorem sendArrives_sends (j : Job) (tile : Nat) (x : Exchange) (s : State) {k : Nat} (hother : xcT0 x.block + k ≠ x.vtile) (l : List Nat)
    (hmem : k ∈ l) : ∃ p ∈ (l.foldl (sendArrive j tile x) s).packets, p.src = .ni tile ∧ p.dst = .ni (j.tile (xcT0 x.block + k))
      ∧ p.body = .arrive x.job (xcTag x.block) (xcP x.block) (xcL x.block) x.vtile (xcT0 x.block + k) := by
  induction l generalizing s with
  | nil => cases hmem
  | cons n l ih =>
    rw [List.foldl_cons]
    rcases List.mem_cons.1 hmem with rfl | hin
    · refine ⟨_, (sendArrive_keeps j tile x _ l).2 ⟨s.serial, .trigger, .ni tile, .ni (j.tile (xcT0 x.block + k)), .source, s.clk, 1, 0, [], x.job, 0,
        .arrive x.job (xcTag x.block) (xcP x.block) (xcL x.block) x.vtile (xcT0 x.block + k)⟩ ?_, rfl, rfl, rfl⟩
      rw [sendArrive, if_neg hother]
      exact List.mem_append_right _ (List.mem_singleton_self _)
    · exact ih _ hin

section
variable {s : State} {tile : Nat} {x : Exchange} {rest : List Exchange} {j : Job} (hfree : (s.tile tile).xactive = none)
  (hqueue : (s.tile tile).xqueue = x :: rest) (hlive : s.live = true) (hjob : s.job? x.job = some j) (hwaits : s.anyWaiting x.waits = false)
include hfree hqueue hlive hjob hwaits

theorem xchgActivate_activates : exec (.xchgActivate tile) s = .next (activate s tile x rest j) := by
  rw [exec_xchgActivate, execXchgActivate, if_neg (by simp [hlive]), hfree, hqueue]
  dsimp only
  rw [hjob]
  dsimp only
  rw [if_neg (by simp [hwaits])]

/-- The exchange as it becomes active. -/
def started (s : State) (tile : Nat) (x : Exchange) : Exchange :=
  { x with start := s.clk, arrived := (x.vtile - xcT0 x.block) :: Exchange.waiting { x with start := s.clk } (s.tile tile).arrives }

/-- The queue of a tile is one exchange shorter. -/
def advanced (s : State) (tile : Nat) (rest : List Exchange) : State :=
  { (s.updTile tile (fun t => { t with xqueue := rest })) with free := s.free + 1 }

omit hfree hqueue hlive hjob hwaits in
theorem tile_advanced : (advanced s tile rest).tile tile = { s.tile tile with xqueue := rest } :=
  tile_updTile_self s tile (fun t => { t with xqueue := rest })

theorem xchgActivate_fails {c : Cause} (hbad : xcOperands s j x = some c) : ∃ t : State, exec (.xchgActivate tile) s = .next t
    ∧ (t.tile tile).xactive = none ∧ (t.tile tile).xqueue = rest
    ∧ Stated.Reports s t (.ni tile) x.job x.v x.cm [statusWord (operandStatus c) 0 0, x.cm.tag] := by
  have hexec := xchgActivate_activates hfree hqueue hlive hjob hwaits
  have hact : activate s tile x rest j = (advanced s tile rest).finishXchg tile (started s tile x) (operandStatus c) := by
    unfold activate
    dsimp only
    split
    next c' hc =>
      obtain rfl : c = c' := Option.some.inj (hbad.symm.trans hc)
      rfl
    next hc => cases hbad.symm.trans hc
  obtain ⟨htile, hreports⟩ := finishXchg_reports (s := s) (t := advanced s tile rest) tile (started s tile x) (operandStatus c) rfl rfl
  refine ⟨_, hexec.trans (congrArg _ hact), by rw [htile], ?_, hreports⟩
  rw [htile, tile_advanced]

theorem xchgActivate_arrives (hgood : xcOperands s j x = none) (hnone : (s.tile tile).arrives = []) (hlo : xcT0 x.block ≤ x.vtile) :
    ∃ t : State, exec (.xchgActivate tile) s = .next t ∧ (t.tile tile).xqueue = rest
      ∧ (t.tile tile).xactive = some { x with start := s.clk, arrived := [x.vtile - xcT0 x.block] }
      ∧ ∀ k, k < xcP x.block → k ≠ x.vtile - xcT0 x.block → ∃ p ∈ t.packets, p.src = .ni tile ∧ p.dst = .ni (j.tile (xcT0 x.block + k))
        ∧ p.body = .arrive x.job (xcTag x.block) (xcP x.block) (xcL x.block) x.vtile (xcT0 x.block + k) := by
  have hstarted : started s tile x = { x with start := s.clk, arrived := [x.vtile - xcT0 x.block] } := by
    rw [started, hnone]
    rfl
  have hact : activate s tile x rest j = ((sendArrives j tile (started s tile x) (advanced s tile rest)).updTile tile
      (fun t => { t with arrives := takeArrives { x with start := s.clk } t.arrives })).setXchg tile (some (started s tile x)) := by
    unfold activate
    dsimp only
    split
    next c hc => cases hgood.symm.trans hc
    · rfl
  refine ⟨_, (xchgActivate_activates hfree hqueue hlive hjob hwaits).trans (congrArg _ hact), ?_, ?_, fun k hk hother => ?_⟩
  · rw [tile_setXchg, tile_updTile_self, sendArrives_eq, tile_congr (sendArrive_keeps ..).1, tile_advanced]
  · rw [tile_setXchg, hstarted]
  · exact sendArrives_sends j tile (started s tile x) (advanced s tile rest) (fun h => hother (by
      have h' : xcT0 x.block + k = x.vtile := h
      omega)) _ (List.mem_range.2 hk)

end

/-! ### The rows of an exchange (R156, R214, R215) -/

theorem foldl_writes_scratch {α : Type} (place : α → Nat) (bytes : α → List Byte) (task acc : Nat) (rel : Option Rel) (l : List α) (s t : State)
    (h : t.scratch = s.scratch) :
    (l.foldl (fun s e => s.writeBytes .scratch (place e) (bytes e) .net task acc rel) t).scratch
      = (l.foldl (fun s e => s.writeBytes .scratch (place e) (bytes e) .net task acc rel) s).scratch := by
  induction l generalizing s t with
  | nil => exact h
  | cons e l ih =>
    refine ih _ _ ?_
    change t.scratch.write _ _ = s.scratch.write _ _
    rw [h]

/-- The bytes of a row do not ask what else the state holds. -/
theorem writeRow_scratch {s t : State} (x : Exchange) (q : Nat) (bs : List Byte) (rel : Option Rel) (h : t.scratch = s.scratch) :
    (writeRow t x q bs rel).scratch = (writeRow s x q bs rel).scratch := by
  unfold writeRow
  dsimp only
  exact foldl_writes_scratch (fun e => scratchAddr x.job x.vtile e.1) (fun e => (bs.drop (e.1 - (xcDst x.block).addr 0 q 0)).take e.2) x.task x.acc rel
    (rowLines (xcDst x.block) q bs.length) s t h

theorem writeRow_keeps (s : State) (x : Exchange) (q : Nat) (bs : List Byte) (rel : Option Rel) :
    (writeRow s x q bs rel).packets = s.packets ∧ (writeRow s x q bs rel).outs = s.outs ∧ (writeRow s x q bs rel).jobs = s.jobs := by
  unfold writeRow
  dsimp only
  induction rowLines (xcDst x.block) q bs.length generalizing s with
  | nil => exact ⟨rfl, rfl, rfl⟩
  | cons e l ih =>
    obtain ⟨hpackets, houts, hjobs⟩ := ih (s.writeBytes .scratch (scratchAddr x.job x.vtile e.1)
      ((bs.drop (e.1 - (xcDst x.block).addr 0 q 0)).take e.2) .net x.task x.acc rel)
    exact ⟨hpackets, houts, hjobs⟩

/-- A row is read as memory holds it where no write is unseen. -/
theorem readRow_settled {s t : State} (x : Exchange) (q : Nat) (hs : s.writes = []) (ht : t.writes = []) (h : t.scratch = s.scratch) :
    readRow t x q = readRow s x q := by
  unfold readRow
  dsimp only
  simp only [readBytes_of_no_writes hs, readBytes_of_no_writes ht, State.mem, h]

section
variable {s : State} {tile q : Nat} {x : Exchange} {j : Job} (hactive : (s.tile tile).xactive = some x) (hlive : s.live = true)
  (hnext : x.nextRow = some q) (hjob : s.job? x.job = some j) (hbanks : (s.takeBanks tile portExchange (x.sendBanks q)).isSome = true)
include hactive hlive hnext hjob hbanks

/-- The next row goes once the banks have granted its lines. -/
theorem xchgActivate_sends : ∃ ts, exec (.xchgActivate tile) s
    = .next ((sendRow { s with tiles := ts, free := s.free + 1 } j tile x q).testXchg tile) := by
  obtain ⟨u, hu⟩ := Option.isSome_iff_exists.1 hbanks
  obtain ⟨ts, rfl⟩ := takeBanks_tiles hu
  refine ⟨ts, ?_⟩
  rw [exec_xchgActivate, execXchgActivate, if_neg (by simp [hlive]), hactive]
  dsimp only
  rw [hnext, hjob]
  dsimp only
  rw [hu]

/-- A byte of the row with an uncorrectable error ends the exchange. -/
theorem xchgActivate_raises {at_ : Nat} (hbad : badRow s x q = some at_) : ∃ u : State, exec (.xchgActivate tile) s
    = .next (u.raiseJob x.job x.vcore x.v ⟨.eccloc, 2, 0, BitVec.ofNat 64 at_⟩ (x.effects s).allPaths (.ni tile))
      ∧ (u.tile tile).xactive = none := by
  obtain ⟨ts, hexec⟩ := xchgActivate_sends hactive hlive hnext hjob hbanks
  let u : State := (State.performAcc { s with tiles := ts, free := s.free + 1 } x.acc).setXchg tile none
  have hu : (u.tile tile).xactive = none := by rw [tile_setXchg]
  refine ⟨u, hexec.trans ?_, hu⟩
  have hrow : sendRow { s with tiles := ts, free := s.free + 1 } j tile x q
      = u.raiseJob x.job x.vcore x.v ⟨.eccloc, 2, 0, BitVec.ofNat 64 at_⟩ (x.effects s).allPaths (.ni tile) := by
    have hbad' : badRow { s with tiles := ts, free := s.free + 1 } x q = some at_ := hbad
    unfold sendRow
    rw [hbad']
    rfl
  rw [hrow, testXchg_of_none]
  have hkeeps := congrFun (exchangesOf_raiseJob u x.job x.vcore x.v ⟨.eccloc, 2, 0, BitVec.ofNat 64 at_⟩ (x.effects s).allPaths (.ni tile)) tile
  exact hkeeps.trans hu

theorem xchgActivate_posts (hwrites : s.writes = []) (hgood : badRow s x q = none) (hother : xcT0 x.block + q ≠ x.vtile)
    (hopen : x.acked.length < xcP x.block) : ∃ t : State, exec (.xchgActivate tile) s = .next t
      ∧ (t.tile tile).xactive = some { x with sent := x.sent ++ [q] }
      ∧ Stated.Posts t (.ni tile) (.ni (j.tile (xcT0 x.block + q))) (.row x.job (xcTag x.block) x.vtile (xcT0 x.block + q) (readRow s x q) x.rel) := by
  obtain ⟨ts, hexec⟩ := xchgActivate_sends hactive hlive hnext hjob hbanks
  have hrow : sendRow { s with tiles := ts, free := s.free + 1 } j tile x q
      = (State.setXchg { s with tiles := ts, free := s.free + 1 } tile (some { x with sent := x.sent ++ [q] })).post .trigger (.ni tile)
        (.ni (j.tile (xcT0 x.block + q))) x.job (dataFlits (readRow s x q).length) 0 []
        (.row x.job (xcTag x.block) x.vtile (xcT0 x.block + q) (readRow s x q) x.rel) := by
    have hgood' : badRow { s with tiles := ts, free := s.free + 1 } x q = none := hgood
    unfold sendRow
    rw [hgood']
    dsimp only
    rw [if_neg hother, readRow_settled (s := s) (t := { s with tiles := ts, free := s.free + 1 }) x q hwrites hwrites rfl]
  have hactive' : ((sendRow { s with tiles := ts, free := s.free + 1 } j tile x q).tile tile).xactive = some { x with sent := x.sent ++ [q] } := by
    rw [hrow]
    exact congrArg Tile.xactive (tile_setXchg _ tile _)
  rw [testXchg_waits hactive' fun h => absurd h.2 (Nat.ne_of_lt hopen)] at hexec
  exact ⟨_, hexec, hactive', by rw [hrow]; exact posts_post ..⟩

theorem xchgActivate_moves (hwrites : s.writes = []) (hgood : badRow s x q = none) (hown : xcT0 x.block + q = x.vtile)
    (hopen : x.rowsIn.length + 1 < xcP x.block) : ∃ t : State, exec (.xchgActivate tile) s = .next t
      ∧ (t.tile tile).xactive = some { x with sent := x.sent ++ [q], rowsIn := x.rowsIn ++ [q], acked := x.acked ++ [q] }
      ∧ t.scratch = (writeRow s x q (readRow s x q) x.rel).scratch := by
  obtain ⟨ts, hexec⟩ := xchgActivate_sends hactive hlive hnext hjob hbanks
  have hrow : sendRow { s with tiles := ts, free := s.free + 1 } j tile x q
      = (writeRow { s with tiles := ts, free := s.free + 1 } x q (readRow s x q) x.rel).setXchg tile
        (some { x with sent := x.sent ++ [q], rowsIn := x.rowsIn ++ [q], acked := x.acked ++ [q] }) := by
    have hgood' : badRow { s with tiles := ts, free := s.free + 1 } x q = none := hgood
    unfold sendRow
    rw [hgood']
    dsimp only
    rw [if_pos hown, readRow_settled (s := s) (t := { s with tiles := ts, free := s.free + 1 }) x q hwrites hwrites rfl]
  have hactive' : ((sendRow { s with tiles := ts, free := s.free + 1 } j tile x q).tile tile).xactive
      = some { x with sent := x.sent ++ [q], rowsIn := x.rowsIn ++ [q], acked := x.acked ++ [q] } := by
    rw [hrow, tile_setXchg]
  rw [testXchg_waits hactive' fun h => absurd h.1 (by simpa using Nat.ne_of_lt hopen)] at hexec
  exact ⟨_, hexec, hactive', by rw [hrow]; exact writeRow_scratch (s := s) (t := { s with tiles := ts, free := s.free + 1 }) x q _ x.rel rfl⟩

end

theorem xchgTimeout_raises {s : State} {tile : Nat} {x : Exchange} (hactive : (s.tile tile).xactive = some x)
    (hdue : x.start + xcTimeout x.block ≤ s.clk) : ∃ u : State, exec (.xchgTimeout tile) s
      = .next (u.raiseJob x.job x.vcore x.v ⟨.xtimeout, 2, 0, x.block.getD 0 0⟩ (x.effects s).allPaths (.ni tile)) ∧ (u.tile tile).xactive = none := by
  refine ⟨(s.performAcc x.acc).setXchg tile none, ?_, by rw [tile_setXchg]⟩
  rw [exec_xchgTimeout, execXchgTimeout, hactive]
  dsimp only
  rw [if_pos hdue]
  rfl

theorem rank_of {x : Exchange} {q vt : Nat} (h : xcT0 x.block + q = vt) (hq : q < xcP x.block) : x.rank vt = some q := by
  rw [Exchange.rank, if_pos (by omega)]
  congr 1
  omega

/-! ### ARRIVEs (R214) -/

section
variable {s : State} {p : Packet} {tile job gtag n l src dst : Nat} (harr : s.arrived? p.id = some p) (hdst : p.dst = .ni tile)
  (hbody : p.body = .arrive job gtag n l src dst)
include harr hdst hbody

theorem arriveReceive_keeps (hfree : (s.tile tile).xactive = none) (hroom : (s.tile tile).arrives.length < 256) :
    ∃ t : State, exec (.arriveReceive p.id) s = .next t ∧ (t.tile tile).arrives = (s.tile tile).arrives ++ [(job, gtag, n, l, src)] := by
  refine ⟨State.updTile { (s.dropPacket p.id) with free := s.free + 1 } tile
    (fun t => { t with arrives := t.arrives ++ [(job, gtag, n, l, src)] }), ?_, congrArg Tile.arrives (tile_updTile_self _ tile _)⟩
  rw [exec_arriveReceive, execArriveReceive, harr]
  dsimp only
  rw [hdst, hbody]
  dsimp only
  rw [hfree]
  dsimp only
  rw [if_pos hroom]

theorem arriveReceive_refuses (hfree : (s.tile tile).xactive = none) (hfull : 256 ≤ (s.tile tile).arrives.length) :
    ∃ t : State, exec (.arriveReceive p.id) s = .next t
      ∧ (t.tile tile).arrives = (s.tile tile).arrives ∧ Stated.Posts t (.ni tile) p.src (.arriveRefused job gtag n l src dst) := by
  refine ⟨State.reply { (s.dropPacket p.id) with free := s.free + 1 } (.ni tile) p.src job (.arriveRefused job gtag n l src dst), ?_, rfl,
    posts_reply ..⟩
  rw [exec_arriveReceive, execArriveReceive, harr]
  dsimp only
  rw [hdst, hbody]
  dsimp only
  rw [hfree]
  dsimp only
  rw [if_neg (Nat.not_lt.2 hfull)]

theorem arriveReceive_takes {x : Exchange} {q : Nat} (hactive : (s.tile tile).xactive = some x) (hjob : x.job = job) (htag : xcTag x.block = gtag)
    (hp : xcP x.block = n) (hl : xcL x.block = l) (hsrc : xcT0 x.block + q = src) (hq : q < n) (hnew : q ∉ x.arrived) :
    ∃ t : State, exec (.arriveReceive p.id) s = .next t ∧ (t.tile tile).xactive = some { x with arrived := x.arrived ++ [q] }
      ∧ (t.tile tile).arrives = (s.tile tile).arrives ∧ t.packets = s.packets.filter (fun y => y.id != p.id) := by
  refine ⟨State.setXchg { (s.dropPacket p.id) with free := s.free + 1 } tile (some { x with arrived := x.arrived ++ [q] }), ?_, ?_, ?_, rfl⟩
  · have hnames : x.names job gtag n l = true := by simp [Exchange.names, hjob, htag, hp, hl]
    rw [exec_arriveReceive, execArriveReceive, harr]
    dsimp only
    rw [hdst, hbody]
    dsimp only
    rw [hactive]
    dsimp only
    rw [if_pos hnames, rank_of hsrc (by rw [hp]; exact hq)]
    dsimp only
    rw [if_neg (by simpa using hnew)]
  · rw [tile_setXchg]
  · rw [tile_setXchg]
    rfl

end

theorem arriveResend_sends {s : State} {p : Packet} {job gtag n l src dst : Nat} (harr : s.arrived? p.id = some p)
    (hbody : p.body = .arriveRefused job gtag n l src dst) (hdue : p.ready + 64 ≤ s.clk) :
    ∃ t : State, exec (.arriveResend p.id) s = .next t ∧ Stated.Posts t p.dst p.src (.arrive job gtag n l src dst) := by
  refine ⟨_, ?_, posts_post (s.dropPacket p.id) .trigger p.dst p.src job 1 0 [] (.arrive job gtag n l src dst)⟩
  rw [exec_arriveResend, execArriveResend, harr]
  dsimp only
  rw [hbody]
  dsimp only
  rw [if_neg (Nat.not_lt.2 hdue)]

/-! ### Rows and their acknowledgements (R215) -/

section
variable {s : State} {p : Packet} {tile job gtag src dst : Nat} (harr : s.arrived? p.id = some p) (hdst : p.dst = .ni tile)
include harr hdst

section
variable {bs : List Byte} {rel : Option Rel} (hbody : p.body = .row job gtag src dst bs rel)
include hbody

/-- The acknowledgement of a row is on its way. -/
def rowAcked (s : State) (p : Packet) (tile job gtag src dst : Nat) : State :=
  (s.dropPacket p.id).post .trigger (.ni tile) p.src job 1 0 [] (.rowAck job gtag src dst)

theorem xchgRowReceive_discards (hfree : (s.tile tile).xactive = none) : ∃ t : State, exec (.xchgRowReceive p.id) s = .next t
    ∧ Stated.Posts t (.ni tile) p.src (.rowAck job gtag src dst) ∧ t.scratch = s.scratch := by
  refine ⟨rowAcked s p tile job gtag src dst, ?_, posts_post .., rfl⟩
  rw [exec_xchgRowReceive, execXchgRowReceive, harr]
  dsimp only
  rw [hdst, hbody]
  dsimp only
  rw [hfree]
  rfl

theorem xchgRowReceive_writes {x : Exchange} {q : Nat} (hactive : (s.tile tile).xactive = some x) (hjob : x.job = job)
    (htag : xcTag x.block = gtag) (hl : xcL x.block = bs.length) (hsrc : xcT0 x.block + q = src) (hq : q < xcP x.block) (hnew : q ∉ x.rowsIn)
    (hopen : x.rowsIn.length + 1 < xcP x.block)
    (hbanks : (s.takeBanks tile portExchange (rowBanks (xcDst x.block) q bs.length)).isSome = true) :
    ∃ t : State, exec (.xchgRowReceive p.id) s = .next t ∧ (t.tile tile).xactive = some { x with rowsIn := x.rowsIn ++ [q] }
      ∧ Stated.Posts t (.ni tile) p.src (.rowAck job gtag src dst) ∧ t.scratch = (writeRow s x q bs rel).scratch := by
  have hbanks' : ((rowAcked s p tile job gtag src dst).takeBanks tile portExchange (rowBanks (xcDst x.block) q bs.length)).isSome = true := by
    unfold State.takeBanks at hbanks ⊢
    dsimp only at hbanks ⊢
    split at hbanks
    next hall => exact if_pos hall ▸ rfl
    · cases hbanks
  obtain ⟨u, hu⟩ := Option.isSome_iff_exists.1 hbanks'
  obtain ⟨ts, rfl⟩ := takeBanks_tiles hu
  have hexec : exec (.xchgRowReceive p.id) s = .next (((writeRow { rowAcked s p tile job gtag src dst with tiles := ts } x q bs rel).setXchg tile
      (some { x with rowsIn := x.rowsIn ++ [q] })).testXchg tile) := by
    rw [exec_xchgRowReceive, execXchgRowReceive, harr]
    dsimp only
    rw [hdst, hbody]
    dsimp only
    rw [hactive]
    dsimp only
    rw [if_pos ⟨hjob, htag, hl⟩, rank_of hsrc hq]
    dsimp only
    rw [if_neg (by simpa using hnew)]
    rw [show (s.dropPacket p.id).post .trigger (.ni tile) p.src job 1 0 [] (.rowAck job gtag src dst) = rowAcked s p tile job gtag src dst from rfl, hu]
  have hactive' : (((writeRow { rowAcked s p tile job gtag src dst with tiles := ts } x q bs rel).setXchg tile
      (some { x with rowsIn := x.rowsIn ++ [q] })).tile tile).xactive = some { x with rowsIn := x.rowsIn ++ [q] } := by rw [tile_setXchg]
  rw [testXchg_waits hactive' fun h => absurd h.1 (by simpa using Nat.ne_of_lt hopen)] at hexec
  refine ⟨_, hexec, hactive', posts_congr ?_ (posts_post (s.dropPacket p.id) .trigger (.ni tile) p.src job 1 0 [] (.rowAck job gtag src dst)),
    writeRow_scratch (s := s) (t := { rowAcked s p tile job gtag src dst with tiles := ts }) x q bs rel rfl⟩
  exact (writeRow_keeps { rowAcked s p tile job gtag src dst with tiles := ts } x q bs rel).1

end

section
variable {x : Exchange} {q : Nat} (hbody : p.body = .rowAck job gtag src dst) (hactive : (s.tile tile).xactive = some x) (hjob : x.job = job)
  (htag : xcTag x.block = gtag) (hrank : xcT0 x.block + q = dst) (hq : q < xcP x.block) (hnew : q ∉ x.acked) (hsent : q ∈ x.sent)
include hbody hactive hjob htag hrank hq hnew hsent

theorem xchgRowAck_counts : exec (.xchgRowAck p.id) s
    = .next (((s.dropPacket p.id).setXchg tile (some { x with acked := x.acked ++ [q] })).testXchg tile) := by
  rw [exec_xchgRowAck, execXchgRowAck, harr]
  dsimp only
  rw [hdst, hbody]
  dsimp only
  rw [hactive]
  dsimp only
  rw [if_pos ⟨hjob, htag⟩, rank_of hrank hq]
  dsimp only
  rw [if_neg (by simp [hnew, hsent])]

/-- An acknowledgement is counted, and the last one completes an exchange whose rows are all in. -/
theorem xchgRowAck_acks :
    (x.acked.length + 1 < xcP x.block → ∃ t : State, exec (.xchgRowAck p.id) s = .next t
      ∧ (t.tile tile).xactive = some { x with acked := x.acked ++ [q] })
    ∧ (x.acked.length + 1 = xcP x.block → x.rowsIn.length = xcP x.block → ∃ t : State, exec (.xchgRowAck p.id) s = .next t
      ∧ (t.tile tile).xactive = none ∧ Stated.Reports s t (.ni tile) x.job x.v x.cm [statusWord 0 0 0, x.cm.tag]) := by
  have hexec := xchgRowAck_counts harr hdst hbody hactive hjob htag hrank hq hnew hsent
  have hactive' : (((s.dropPacket p.id).setXchg tile (some { x with acked := x.acked ++ [q] })).tile tile).xactive
      = some { x with acked := x.acked ++ [q] } := by rw [tile_setXchg]
  refine ⟨fun hopen => ?_, fun hlast hrows => ?_⟩
  · rw [testXchg_waits hactive' fun h => absurd h.2 (by simpa using Nat.ne_of_lt hopen)] at hexec
    exact ⟨_, hexec, hactive'⟩
  · rw [testXchg_finishes hactive' hrows (by simpa using hlast)] at hexec
    obtain ⟨htile, hreports⟩ := finishXchg_reports (s := s) (t := (s.dropPacket p.id).setXchg tile (some { x with acked := x.acked ++ [q] })) tile
      { x with acked := x.acked ++ [q] } 0 rfl rfl
    exact ⟨_, hexec, by rw [htile], hreports⟩

end
end

/-! ### What reaches a trigger unit (R218, R220, R222) -/

theorem counter_setCounter (s : State) (tile : Nat) {c : Nat} (x : Counter) (hc : c < 64) : (s.setCounter tile c x).counter tile c = x := by
  rw [State.counter, State.setCounter, tile_updTile_self]
  simp [Vector.getD, hc]

theorem counter_updPosted (s : State) (tile c : Nat) (g : List Posted → List Posted) :
    (s.updTile tile (fun t => { t with posted := g t.posted })).counter tile c = s.counter tile c := by
  rw [State.counter, tile_updTile_self, State.counter]

/-- A counter that a job holds is raised, and saturates. -/
theorem raiseCounter_raises {s : State} {tile job c : Nat} (amount : Nat) (know : Know) (rel : Option Rel) (hc : c < 64)
    (howner : (s.counter tile c).owner = some job) :
    ((s.raiseCounter tile job c amount know rel).counter tile c).value = min ((s.counter tile c).value + amount) (2 ^ 32 - 1)
      ∧ ((s.raiseCounter tile job c amount know rel).counter tile c).owner = some job
      ∧ ((s.raiseCounter tile job c amount know rel).tile tile).rises = (s.tile tile).rises := by
  have hraise : s.raiseCounter tile job c amount know rel = (s.setCounter tile c { s.counter tile c with
      value := min ((s.counter tile c).value + amount) (2 ^ 32 - 1), rel := rel.map (Rel.gather s) }).updTile tile (fun t => { t with
        posted := replaceIf (fun p => p.job == job && p.ctr == c) (fun p => { p with know := p.know.merge (changeKnow s know rel) }) t.posted }) := by
    unfold State.raiseCounter
    exact if_neg (by simp [howner])
  rw [hraise, counter_updPosted, counter_setCounter _ _ _ hc, tile_updTile_self]
  refine ⟨rfl, howner, ?_⟩
  rw [State.setCounter, tile_updTile_self]

theorem endAdd_none (s : State) (src : Endpoint) : s.endAdd src 0 = s.performAcc 0 := by
  have hnone : s.reqs.find? (fun r => r.kind == .add && r.acc == 0 && (0 : Nat) != 0) = none := by
    refine List.find?_eq_none.2 fun r _ => ?_
    simp
  unfold State.endAdd
  rw [hnone]

section
variable {s : State} {tile : Nat} {r : Rise} (hrises : (s.tile tile).rises = [r]) (hdue : r.at_ ≤ s.clk) (hwaits : s.anyWaiting r.waits = false)

/-- The rises of a tile are taken. -/
def noRises (s : State) (tile : Nat) : State := s.updTile tile (fun t => { t with rises := [] })

theorem tile_noRises (s : State) (tile : Nat) : (noRises s tile).tile tile = { s.tile tile with rises := [] } := tile_updTile_self ..

include hrises hdue hwaits

theorem triggerArrival_applies : exec (.triggerArrival tile 0) s = .next ((noRises s tile).applyRise tile r) := by
  have hready : riseDue s r = true := by simp [riseDue, hdue, hwaits]
  have happly : s.applyRises tile = (noRises s tile).applyRise tile r := by
    unfold State.applyRises
    dsimp only
    rw [hrises, List.filter_cons_of_pos hready, List.filter_nil, List.filter_cons_of_neg (by simp [hready]), List.filter_nil]
    rfl
  rw [exec_triggerArrival, execTriggerArrival, if_pos rfl, if_pos (by simp [hrises, hready]), happly]

theorem triggerArrival_raises (hcancel : r.cancel = none) (hacc : r.acc = 0) (hctr : r.ctr < 64)
    (howner : (s.counter tile r.ctr).owner = some r.job) : ∃ t : State, exec (.triggerArrival tile 0) s = .next t
      ∧ (t.tile tile).rises = [] ∧ (t.counter tile r.ctr).value = min ((s.counter tile r.ctr).value + r.amount) (2 ^ 32 - 1)
      ∧ (t.counter tile r.ctr).owner = some r.job := by
  have hsame : (noRises s tile).counter tile r.ctr = s.counter tile r.ctr := by rw [State.counter, tile_noRises, State.counter]
  obtain ⟨hvalue, howned, hleft⟩ := raiseCounter_raises (s := noRises s tile) r.amount r.know r.rel hctr (by rw [hsame]; exact howner)
  have hexec := triggerArrival_applies hrises hdue hwaits
  rw [State.applyRise, hcancel] at hexec
  dsimp only at hexec
  rw [hacc, endAdd_none] at hexec
  refine ⟨_, hexec, hleft.trans (by rw [tile_noRises]), ?_, howned⟩
  rw [hsame] at hvalue
  exact hvalue

theorem triggerArrival_cancels {k : Cancel} {q : Posted} {j : Job} (hcancel : r.cancel = some k)
    (hfound : postedOf (s.tile tile) r.job k.handle = some q) (hv : q.v ≠ 0) (hjob : s.job? r.job = some j) (hcensus : j.census = none) :
    ∃ t : State, exec (.triggerArrival tile 0) s = .next t ∧ (t.tile tile).posted = (s.tile tile).posted.filter (fun y => y.entry != q.entry)
      ∧ Stated.Posts t (.ni tile) (.unit j.die) (.pod r.job q.v false false) := by
  have hexec := triggerArrival_applies hrises hdue hwaits
  rw [State.applyRise, hcancel] at hexec
  dsimp only at hexec
  refine ⟨_, hexec, ?_⟩
  have hfound' : postedOf ((noRises s tile).tile tile) r.job k.handle = some q := by rw [tile_noRises]; exact hfound
  let u : State := (noRises s tile).updTile tile (fun t => { t with posted := t.posted.filter (fun y => y.entry != q.entry) })
  have hpod := pod_posts (s := u) (src := .ni tile) false false hjob hcensus hv
  have hposted : ((u.pod (.ni tile) r.job q.v false false).tile tile).posted = (s.tile tile).posted.filter (fun y => y.entry != q.entry) := by
    rw [tile_congr (State.pod_tiles ..), tile_updTile_self, tile_noRises]
  have hposts : Stated.Posts (u.pod (.ni tile) r.job q.v false false) (.ni tile) (.unit j.die) (.pod r.job q.v false false) := by
    rw [hpod]
    exact posts_post ..
  unfold State.applyCancel
  rw [hfound']
  dsimp only
  split
  · refine ⟨?_, posts_congr ?_ hposts⟩
    · rw [tile_congr (State.updCtx_tiles ..)]
      exact hposted
    · exact State.updCtx_packets ..
  · exact ⟨hposted, hposts⟩

end

theorem triggerArrival_adds {s : State} {tile : Nat} {p : Packet} {job vt c n task acc : Nat} {rel : Option Rel} {j : Job} (hid : p.id ≠ 0)
    (harr : s.arrived? p.id = some p) (hbody : p.body = .trgAdd job vt c n task rel acc 0) (hdst : p.dst = .ni tile) (hjob : s.job? job = some j)
    (htile : j.tile vt = tile) (hc : c < 64) (howner : (s.counter tile c).owner = some job) :
    ∃ t : State, exec (.triggerArrival tile p.id) s = .next t
      ∧ (t.counter tile c).value = min ((s.counter tile c).value + n) (2 ^ 32 - 1) ∧ Stated.Posts t (.ni tile) p.src (.holdAck task acc) := by
  obtain ⟨hvalue, -, -⟩ := raiseCounter_raises (s := s.dropPacket p.id) n [] rel hc howner
  refine ⟨((s.dropPacket p.id).raiseCounter tile job c n [] rel).reply (.ni tile) p.src job (.holdAck task acc), ?_, hvalue, posts_reply ..⟩
  rw [exec_triggerArrival, execTriggerArrival, if_neg hid, harr]
  dsimp only
  rw [hbody]
  dsimp only
  rw [if_neg (by simp [hdst]), hjob, hdst]
  dsimp only
  rw [if_pos (by simp [htile])]
  rfl

/-! ### The unit fires (R220) -/

theorem postedIssuer_fields (s : State) (tile : Nat) (p : Posted) : (postedIssuer s tile p).job = p.job ∧ (postedIssuer s tile p).task = p.task
    ∧ (postedIssuer s tile p).core = p.core ∧ (postedIssuer s tile p).post = (if p.doneRaise then 1 + tile * 64 + p.dctr else 2 ^ 18) := by
  unfold postedIssuer
  dsimp only
  split <;> exact ⟨rfl, rfl, rfl, rfl⟩

/-- A copy that a trigger unit has fired stands beside the FIFO of its core. -/
theorem queueCopy_posted {w : Issuer} (b : List Word) (v : Nat) (s : State) (hpost : w.post ≠ 0) :
    ∃ r : Req, (queueCopy w false b v s).tiles = s.tiles ∧ (queueCopy w false b v s).reqs = s.reqs ++ [r]
      ∧ r.kind = .copy false b (copyChan (wordAt b 0)) 0 ∧ r.v = v ∧ r.job = w.job ∧ r.task = w.task ∧ r.core = w.core ∧ r.post = w.post
      ∧ ((queueCopy w false b v s).core w.core).fifo.getLast? = some ⟨r.id, 0, 0, none, false⟩ := by
  unfold queueCopy
  dsimp only
  rw [if_neg hpost, if_pos hpost]
  refine ⟨_, rfl, rfl, rfl, rfl, rfl, rfl, rfl, rfl, ?_⟩
  rw [core_updCore_self]
  exact List.getLast?_concat

theorem triggerFire_copies {s : State} {tile : Nat} {p : Posted} {j : Job} (hfired : (s.tile tile).fired ≠ some s.clk)
    (hrises : (s.tile tile).rises.any (riseDue s) = false) (hfirst : firstPosted ((s.tile tile).posted.filter (mayFire s tile)) = some p)
    (hjob : s.job? p.job = some j) (hop : p.op = 6) (hcount : s.countFull p.task .tile = false) :
    ∃ t : State, ∃ r : Req, exec (.triggerFire tile) s = .next t ∧ (t.tile tile).posted = (s.tile tile).posted.filter (fun y => y.entry != p.entry)
      ∧ (t.tile tile).fired = some s.clk ∧ t.reqs = s.reqs ++ [r] ∧ r.kind = .copy false p.block (copyChan (wordAt p.block 0)) 0 ∧ r.v = p.v
      ∧ r.job = p.job ∧ r.task = p.task ∧ r.core = p.core
      ∧ r.post = (if p.doneRaise then 1 + tile * 64 + p.dctr else 2 ^ 18) ∧ (t.core p.core).fifo.getLast? = some ⟨r.id, 0, 0, none, false⟩ := by
  have hnext : nextFire s tile = some p := by
    unfold nextFire
    rw [hfirst]
    exact if_neg (by simp [fireBlocked, usesNi, hop, hcount])
  let u : State := s.updTile tile (fun t => { t with posted := t.posted.filter (fun q => q.entry != p.entry), fired := some s.clk })
  obtain ⟨hwjob, hwtask, hwcore, hwpost⟩ := postedIssuer_fields u tile p
  have hpost : (postedIssuer u tile p).post ≠ 0 := by
    rw [hwpost]
    split <;> omega
  obtain ⟨r, htiles, hreqs, hkind, hv, hrjob, hrtask, hrcore, hrpost, hfifo⟩ := queueCopy_posted p.block p.v u hpost
  have hexec : exec (.triggerFire tile) s = .next { (queueCopy (postedIssuer u tile p) false p.block p.v u) with free := s.free + 1 } := by
    rw [exec_triggerFire, execTriggerFire]
    dsimp only
    rw [if_neg (by simp [hfired, hrises]), hnext]
    dsimp only
    rw [hjob]
    unfold fire
    dsimp only
    rw [hop]
    rfl
  have htile : u.tile tile = { s.tile tile with posted := (s.tile tile).posted.filter (fun q => q.entry != p.entry), fired := some s.clk } :=
    tile_updTile_self ..
  have htile' : (queueCopy (postedIssuer u tile p) false p.block p.v u).tile tile = u.tile tile := tile_congr htiles tile
  refine ⟨_, r, hexec, ?_, ?_, hreqs, hkind, hv, hrjob.trans hwjob, hrtask.trans hwtask, hrcore.trans hwcore, hrpost.trans hwpost, ?_⟩
  · exact congrArg Tile.posted (htile'.trans htile)
  · exact congrArg Tile.fired (htile'.trans htile)
  · rw [hwcore] at hfifo
    exact hfifo

/-- Settles O56: the exchanges and the trigger units, event by event. -/
theorem exchangeAndTriggerEvents : Obligations.ExchangeAndTriggerEvents := by
  unfold Obligations.ExchangeAndTriggerEvents
  refine ⟨?activate, ?send, ?arrive, ?resend, ?row, ?ack, ?timeout, ?rise, ?add, ?fire⟩
  case activate =>
    intro s tile x rest j hfree hqueue hlive hjob hwaits
    refine ⟨fun c hbad => ?_, fun hgood hnone hlo _ => xchgActivate_arrives hfree hqueue hlive hjob hwaits hgood hnone hlo⟩
    have hfails := xchgActivate_fails hfree hqueue hlive hjob hwaits hbad
    cases c <;> exact hfails
  case send =>
    intro s tile q x j hactive hlive hnext hjob hbanks hwrites vt
    exact ⟨fun at_ => xchgActivate_raises hactive hlive hnext hjob hbanks, xchgActivate_posts hactive hlive hnext hjob hbanks hwrites,
      xchgActivate_moves hactive hlive hnext hjob hbanks hwrites⟩
  case arrive =>
    intro s p tile job gtag n l src dst harr hdst hbody
    exact ⟨arriveReceive_keeps harr hdst hbody, arriveReceive_refuses harr hdst hbody,
      fun x q hactive hjob htag hp hl hsrc hq hnew => arriveReceive_takes harr hdst hbody hactive hjob htag hp hl hsrc hq hnew⟩
  case resend =>
    intro s p job gtag n l src dst harr hbody hdue
    exact arriveResend_sends harr hbody hdue
  case row =>
    intro s p tile job gtag src dst bs rel harr hdst hbody
    exact ⟨xchgRowReceive_discards harr hdst hbody, fun x q hactive hjob htag hl hsrc hq hnew hopen hbanks =>
      xchgRowReceive_writes harr hdst hbody hactive hjob htag hl hsrc hq hnew hopen hbanks⟩
  case ack =>
    intro s p tile job gtag src dst q x harr hdst hbody hactive hjob htag hrank hq hnew hsent
    exact xchgRowAck_acks harr hdst hbody hactive hjob htag hrank hq hnew hsent
  case timeout =>
    intro s tile x hactive hdue
    exact xchgTimeout_raises hactive hdue
  case rise =>
    intro s tile r hrises hdue hwaits
    exact ⟨triggerArrival_raises hrises hdue hwaits, fun k q j hcancel hfound hv hjob hcensus =>
      triggerArrival_cancels hrises hdue hwaits hcancel hfound hv hjob hcensus⟩
  case add =>
    intro s tile p job vt c n task acc rel j hid harr hbody hdst hjob htile hc howner
    exact triggerArrival_adds hid harr hbody hdst hjob htile hc howner
  case fire =>
    intro s tile p j hfired hrises hfirst hjob hop hcount
    exact triggerFire_copies hfired hrises hfirst hjob hop hcount

end Sys2Proof.Laws
end

section
/-! ## Reductions in the routers -/

namespace Sys2Proof.Laws
open Sys2Proof.Machine Sys2Proof.Safety

/-! ### What a completion keeps of its job -/

/-- A report asks of the state before it only what has left, and the home of the job. -/
theorem reports_of_keeps {s u t : State} {src : Endpoint} {job v : Nat} {cm : Cmsg} {words : List Word} (houts : u.outs = s.outs)
    (hjob : ∀ j, s.job? job = some j → ∃ j', u.job? job = some j' ∧ j'.die = j.die ∧ j'.census = j.census)
    (h : Stated.Reports u t src job v cm words) : Stated.Reports s t src job v cm words := by
  refine ⟨fun hno hv j hj hcensus => ?_, fun hmsg hlen hsome => ?_⟩
  · obtain ⟨j', hj', hdie, hcensus'⟩ := hjob j hj
    rw [← hdie]
    exact h.1 hno hv j' hj' (hcensus'.trans hcensus)
  · obtain ⟨j, hj⟩ := Option.isSome_iff_exists.1 hsome
    obtain ⟨j', hj', -⟩ := hjob j hj
    rw [← houts]
    exact h.2 hmsg hlen (by rw [hj']; rfl)

theorem completed_of_keeps {s u t : State} {src : Endpoint} {r : Req} {words : List Word} (houts : u.outs = s.outs)
    (hjob : ∀ j, s.job? r.job = some j → ∃ j', u.job? r.job = some j' ∧ j'.die = j.die ∧ j'.census = j.census)
    (h : Stated.Completed u t src r words) : Stated.Completed s t src r words := ⟨h.1, reports_of_keeps houts hjob h.2⟩

/-- The definitions of a job survive a pod: a job that counts a census holds the pod back. -/
theorem ndefs_pod {s : State} {src : Endpoint} {job n v : Nat} {j : Job} (lost killed : Bool) (h : s.job? n = some j) :
    ∃ j', (s.pod src job v lost killed).job? n = some j' ∧ j'.ndefs = j.ndefs := by
  unfold State.pod
  split
  · exact ⟨j, h, rfl⟩
  · split
    next k hk =>
      split
      next c hc =>
        split
        · by_cases hn : n = job
          · subst hn
            obtain rfl : j = k := Option.some.inj (h.symm.trans hk)
            exact ⟨_, job?_setJob_self .., rfl⟩
          · exact ⟨j, (job?_setJob_of_ne _ hn).trans h, rfl⟩
        · exact ⟨j, h, rfl⟩
      · exact ⟨j, h, rfl⟩
    · exact ⟨j, h, rfl⟩

theorem ndefs_complete {s : State} (src : Endpoint) (job vcore v : Nat) (cm : Cmsg) (status : Word) (results : List Word) (acq : Bool) (know : Know)
    (post : Nat) {n : Nat} {j : Job} (h : s.job? n = some j) :
    ∃ j', (s.complete src job vcore v cm status results acq know post).job? n = some j' ∧ j'.ndefs = j.ndefs := by
  unfold State.complete
  split
  · obtain ⟨j', hj', hndefs⟩ := ndefs_pod (src := src) (job := job) (v := v) false false h
    exact ⟨j', (job?_congr (doneRise_jobs ..) n).trans hj', hndefs⟩
  · split <;> exact ⟨j, h, rfl⟩

theorem ndefs_finishReq {s : State} (src : Endpoint) (r : Req) (acq : Bool) (results : List Word) {n : Nat} {j : Job} (h : s.job? n = some j) :
    ∃ j', (s.finishReq src r acq results).job? n = some j' ∧ j'.ndefs = j.ndefs := ndefs_complete _ _ _ _ _ _ _ _ _ _ h

theorem ndef_congr {j k : Job} (h : k.ndefs = j.ndefs) (nid : Nat) : k.ndef nid = j.ndef nid := by rw [Job.ndef, h, Job.ndef]

theorem routers_complete (s : State) (src : Endpoint) (job vcore v : Nat) (cm : Cmsg) (status : Word) (results : List Word) (acq : Bool) (know : Know)
    (post : Nat) : (s.complete src job vcore v cm status results acq know post).routers = s.routers := by
  unfold State.complete
  split
  · have hrise (u : State) : (u.doneRise post job know.allPaths).routers = u.routers := by
      unfold State.doneRise
      split <;> rfl
    rw [hrise, State.pod_routers]
  · split <;> rfl

theorem localMem_complete (s : State) (src : Endpoint) (job vcore v : Nat) (cm : Cmsg) (status : Word) (results : List Word) (acq : Bool) (know : Know)
    (post : Nat) : (s.complete src job vcore v cm status results acq know post).localMem = s.localMem := by
  unfold State.complete
  split
  · have hrise (u : State) : (u.doneRise post job know.allPaths).localMem = u.localMem := by
      unfold State.doneRise
      split <;> rfl
    rw [hrise, State.pod_localMem]
  · split <;> rfl

/-! ### Definitions of a job and of a router -/

theorem find?_replaceIf {α : Type} {p : α → Bool} {f : α → α} {l : List α} {a : α} (h : l.find? p = some a) (hf : ∀ x, p x = true → p (f x) = true) :
    (replaceIf p f l).find? p = some (f a) := by
  have hsame : p ∘ (fun x => if p x then f x else x) = p := by
    funext x
    simp only [Function.comp]
    split
    next hx => rw [hf x hx, hx]
    · rfl
  rw [replaceIf, List.find?_map, hsame, h, Option.map_some, if_pos (List.find?_some h)]

/-- A job with one of its definitions changed. -/
def withNdef (j : Job) (nid : Nat) (f : NDef → NDef) : Job := { j with ndefs := replaceIf (fun d => d.nid == nid) f j.ndefs }

theorem job?_updNdef {s : State} {job nid : Nat} {j : Job} (f : NDef → NDef) (hjob : s.job? job = some j) :
    (s.updNdef job nid f).job? job = some (withNdef j nid f) := by
  rw [State.updNdef, updJob_of_job? _ hjob]
  exact job?_setJob_self ..

theorem ndef_withNdef {j : Job} {nid : Nat} {d : NDef} {f : NDef → NDef} (hd : j.ndef nid = some d) (hf : ∀ x, (f x).nid = x.nid) :
    (withNdef j nid f).ndef nid = some (f d) := find?_replaceIf hd fun x hx => by rw [hf]; exact hx

theorem updNdef_keeps (s : State) (job nid : Nat) (f : NDef → NDef) : (s.updNdef job nid f).outs = s.outs ∧ (s.updNdef job nid f).packets = s.packets
    ∧ (s.updNdef job nid f).serial = s.serial ∧ (s.updNdef job nid f).localMem = s.localMem := by
  unfold State.updNdef State.updJob
  split <;> exact ⟨rfl, rfl, rfl, rfl⟩

/-- A router's definitions where they stand. -/
def rdef? (s : State) (q : Nat × Nat) (job nid : Nat) : Option RDef := (s.router q.1 q.2).def? job nid

theorem rdef?_updRouter (s : State) (q r : Nat × Nat) {f : Router → Router} (hf : ∀ x, (f x).defs = x.defs) (job nid : Nat) :
    rdef? (s.updRouter q.1 q.2 f) r job nid = rdef? s r job nid := by
  rw [rdef?, router_updRouter, rdef?]
  split
  · rw [Router.def?, hf, Router.def?]
  · rfl

theorem rdef?_passed (s : State) (q r : Nat × Nat) (job nid : Nat) : rdef? (s.passed q) r job nid = rdef? s r job nid :=
  rdef?_updRouter s q r (f := fun x => { x with idle := s.clk + (1 - 1) }) (fun _ => rfl) job nid

theorem rdef?_wakeAt (s : State) (q r : Nat × Nat) (t job nid : Nat) : rdef? (s.wakeAt q t) r job nid = rdef? s r job nid := by
  refine rdef?_updRouter s q r (fun x => ?_) job nid
  split <;> rfl

theorem rdef?_updRdef {s : State} {q : Nat × Nat} {job nid : Nat} {d : RDef} {f : RDef → RDef} (h : rdef? s q job nid = some d)
    (hf : ∀ x, (f x).job = x.job ∧ (f x).nid = x.nid) : rdef? (s.updRdef q job nid f) q job nid = some (f d) := by
  rw [rdef?, State.updRdef, router_updRouter_self]
  refine find?_replaceIf h fun x hx => ?_
  rw [(hf x).1, (hf x).2]
  exact hx

theorem nid_of_def? {s : State} {q : Nat × Nat} {job nid : Nat} {d : RDef} (h : rdef? s q job nid = some d) : d.nid = nid := by
  have := List.find?_some h
  simp only [Bool.and_eq_true, beq_iff_eq] at this
  exact this.2

theorem nid_of_ndef {j : Job} {nid : Nat} {d : NDef} (h : j.ndef nid = some d) : d.nid = nid := num_of_find? (g := NDef.nid) h

theorem sendNotice_keeps (s : State) (j : Job) (job : Nat) (q r : Nat × Nat) (d : RDef) (nid : Nat) :
    rdef? (s.sendNotice j job q d) r job nid = rdef? s r job nid := rfl

/-- A reduction packet leaves, and wakes routers on its way. -/
theorem reducePkt_sends (s : State) (job : Nat) (dst : Endpoint) (pos : Pos) (link flits : Nat) (b : Body) (ahead : List (Nat × Nat)) :
    (∃ p : Packet, (s.reducePkt job dst pos link flits b ahead).packets = s.packets ++ [p] ∧ p.id = s.serial ∧ p.dst = dst ∧ p.pos = pos ∧ p.body = b)
      ∧ (s.reducePkt job dst pos link flits b ahead).jobs = s.jobs
      ∧ ∀ r n nid, rdef? (s.reducePkt job dst pos link flits b ahead) r n nid = rdef? s r n nid := by
  have hwakes (l : List (Nat × Nat)) (u : State) : (l.foldl (fun st r => st.wakeAt r (s.clk + link)) u).packets = u.packets
      ∧ (l.foldl (fun st r => st.wakeAt r (s.clk + link)) u).jobs = u.jobs
      ∧ ∀ r n nid, rdef? (l.foldl (fun st r => st.wakeAt r (s.clk + link)) u) r n nid = rdef? u r n nid := by
    induction l generalizing u with
    | nil => exact ⟨rfl, rfl, fun _ _ _ => rfl⟩
    | cons q l ih =>
      obtain ⟨hpackets, hjobs, hdefs⟩ := ih (u.wakeAt q (s.clk + link))
      exact ⟨hpackets, hjobs, fun r n nid => (hdefs r n nid).trans (rdef?_wakeAt ..)⟩
  unfold State.reducePkt
  obtain ⟨hpackets, hjobs, hdefs⟩ := hwakes _ _
  exact ⟨⟨_, hpackets, rfl, rfl, rfl, rfl⟩, hjobs, hdefs⟩

/-! ### Definitions are programmed and freed (R223, R224) -/

section
variable {s : State} {p : Packet} {r : Req} {j : Job} {b : List Word} (hat : requestAt s p.id = some (p, r)) (hjob : s.job? r.job = some j)
include hat hjob

/-- One router of a tree is programmed. -/
def putRdef (j : Job) (job : Nat) (b : List Word) (s : State) (q : Nat × Nat) : State :=
  let d : RDef := ⟨job, ndId b, b, expects j b q, [], [], false, 0, []⟩
  s.updRouter q.1 q.2 (fun x => { x with defs := x.defs ++ [d] })

omit hat hjob in
theorem foldl_putRdef_keeps (j : Job) (job : Nat) (b : List Word) (l : List (Nat × Nat)) (s : State) :
    (l.foldl (putRdef j job b) s).outs = s.outs ∧ (l.foldl (putRdef j job b) s).jobs = s.jobs := by
  induction l generalizing s with
  | nil => exact ⟨rfl, rfl⟩
  | cons q l ih =>
    obtain ⟨houts, hjobs⟩ := ih (putRdef j job b s q)
    exact ⟨houts, hjobs⟩

theorem nrdefProgram_refuses (hkind : r.kind = .nrdef b) (hused : (j.ndef (ndId b)).isSome = true) :
    ∃ t : State, exec (.nrdefProgram p.id) s = .next t ∧ t.routers = s.routers
      ∧ Stated.Completed s t p.dst r [statusWord 12 r.flags r.count, r.cm.tag] := by
  refine ⟨(s.dropPacket p.id).finishReq p.dst { r with code := 12 } (cmAcq r.cm) [], ?_, routers_complete ..,
    finishReq_completed (q := { r with code := 12 }) (t := s.dropPacket p.id) p.dst (cmAcq r.cm) [] rfl rfl rfl rfl rfl rfl⟩
  rw [exec_nrdefProgram, execNrdefProgram, hat]
  dsimp only
  rw [hkind, hjob]
  dsimp only
  rw [if_pos (Or.inl hused)]

theorem nrdefProgram_programs (hkind : r.kind = .nrdef b) (hnew : j.ndef (ndId b) = none)
    (hroom : ∀ q ∈ treeRouters j b, (s.router q.1 q.2).defs.length < 16) :
    ∃ t : State, ∃ j' : Job, exec (.nrdefProgram p.id) s = .next t ∧ t.job? r.job = some j'
      ∧ j'.ndefs = j.ndefs ++ [⟨ndId b, b, none, false, [], [], 0, [], 0, []⟩]
      ∧ Stated.Completed s t p.dst r [statusWord r.code r.flags r.count, r.cm.tag] := by
  let u : State := ((treeRouters j b).foldl (putRdef j r.job b) (s.dropPacket p.id)).setJob r.job
    { j with ndefs := j.ndefs ++ [⟨ndId b, b, none, false, [], [], 0, [], 0, []⟩] }
  have hexec : exec (.nrdefProgram p.id) s = .next (u.finishReq p.dst r (cmAcq r.cm) []) := by
    rw [exec_nrdefProgram, execNrdefProgram, hat]
    dsimp only
    rw [hkind, hjob]
    dsimp only
    rw [if_neg]
    · rfl
    · rintro (h | h)
      · rw [hnew] at h
        cases h
      · obtain ⟨q, hq, hfull⟩ := List.any_eq_true.1 h
        exact absurd (of_decide_eq_true hfull) (Nat.not_le.2 (hroom q hq))
  have hu : u.job? r.job = some { j with ndefs := j.ndefs ++ [⟨ndId b, b, none, false, [], [], 0, [], 0, []⟩] } := job?_setJob_self ..
  obtain ⟨j', hj', hndefs⟩ := ndefs_finishReq p.dst r (cmAcq r.cm) [] hu
  refine ⟨_, j', hexec, hj', hndefs, completed_of_keeps (u := u) (foldl_putRdef_keeps ..).1 (fun k hk => ⟨_, hu, ?_, ?_⟩)
    (finishReq_completed p.dst (cmAcq r.cm) [] rfl rfl rfl rfl rfl rfl)⟩
  · rw [← Option.some.inj (hjob.symm.trans hk)]
  · rw [← Option.some.inj (hjob.symm.trans hk)]

theorem nrfreeRemove_refuses (hkind : r.kind = .nrfree b) (hnone : j.ndef (wordAt b 0) = none) :
    ∃ t : State, exec (.nrfreeRemove p.id) s = .next t ∧ Stated.Completed s t p.dst r [statusWord 12 r.flags r.count, r.cm.tag] := by
  refine ⟨(s.dropPacket p.id).finishReq p.dst { r with code := 12 } (cmAcq r.cm) [], ?_,
    finishReq_completed (q := { r with code := 12 }) (t := s.dropPacket p.id) p.dst (cmAcq r.cm) [] rfl rfl rfl rfl rfl rfl⟩
  rw [exec_nrfreeRemove, execNrfreeRemove, hat]
  dsimp only
  rw [hkind, hjob]
  dsimp only
  rw [hnone]

variable {d : NDef} (hkind : r.kind = .nrfree b) (hd : j.ndef (wordAt b 0) = some d)
include hkind hd

theorem nrfreeRemove_waits (hopen : roundOpen s r.job d = true) : ∃ t : State, ∃ j' : Job, ∃ d', exec (.nrfreeRemove p.id) s = .next t
    ∧ t.job? r.job = some j' ∧ j'.ndef d.nid = some d' ∧ d'.freeing = d.freeing ++ [r.id] := by
  have hd' : j.ndef d.nid = some d := by rw [nid_of_ndef hd]; exact hd
  refine ⟨_, _, _, ?_, job?_updNdef (s := s.dropPacket p.id) (nid := d.nid) (fun d => { d with freeing := d.freeing ++ [r.id] }) hjob,
    ndef_withNdef hd' fun _ => rfl, rfl⟩
  rw [exec_nrfreeRemove, execNrfreeRemove, hat]
  dsimp only
  rw [hkind, hjob]
  dsimp only
  rw [hd]
  dsimp only
  rw [if_pos hopen]

omit hat hjob hkind hd in
/-- A definition that is removed stands in no router. -/
theorem def?_undefine (s : State) (job nid x y : Nat) : ((s.undefine job nid).router x y).def? job nid = none := by
  have hrouters : (s.undefine job nid).routers
      = s.routers.map (fun e => (e.1, { e.2 with defs := e.2.defs.filter (fun d => !(d.job == job && d.nid == nid)) })) := by
    unfold State.undefine State.updJob
    split <;> rfl
  have hrouter : (s.undefine job nid).router x y
      = { s.router x y with defs := (s.router x y).defs.filter (fun d => !(d.job == job && d.nid == nid)) } := by
    rw [State.router, hrouters]
    exact getD_map_snd s.routers (routerKey x y)
      (fun r : Router => { r with defs := r.defs.filter (fun d => !(d.job == job && d.nid == nid)) }) Router.fresh
  rw [hrouter]
  refine List.find?_eq_none.2 fun d hd hmine => ?_
  have hother := (List.mem_filter.1 hd).2
  rw [hmine] at hother
  cases hother

theorem nrfreeRemove_frees (hclosed : roundOpen s r.job d = false) (hreq : s.req? r.id = some r) :
    ∃ t : State, ∃ j' : Job, exec (.nrfreeRemove p.id) s = .next t ∧ t.job? r.job = some j' ∧ j'.ndef d.nid = none
      ∧ (∀ x y, (t.router x y).def? r.job d.nid = none) ∧ Stated.Completed s t p.dst r [statusWord 0 r.flags r.count, r.cm.tag] := by
  let u : State := (s.dropPacket p.id).undefine r.job d.nid
  have hexec : exec (.nrfreeRemove p.id) s = .next (u.finishReq p.dst { r with code := 0 } (cmAcq r.cm) []) := by
    have hreq' : (s.dropPacket p.id).req? r.id = some r := hreq
    rw [exec_nrfreeRemove, execNrfreeRemove, hat]
    dsimp only
    rw [hkind, hjob]
    dsimp only
    rw [hd]
    dsimp only
    rw [if_neg (by simp [hclosed]), State.freeNdef, hreq']
    rfl
  have hu : u.job? r.job = some { j with ndefs := j.ndefs.filter (fun x => x.nid != d.nid) } := by
    have hset : u = { (s.dropPacket p.id).setJob r.job { j with ndefs := j.ndefs.filter (fun x => x.nid != d.nid) } with
        routers := u.routers } := by
      change State.undefine _ _ _ = _
      unfold State.undefine
      rw [updJob_of_job? _ (by exact hjob)]
      rfl
    rw [hset]
    exact job?_setJob_self ..
  obtain ⟨j', hj', hndefs⟩ := ndefs_finishReq p.dst { r with code := 0 } (cmAcq r.cm) [] hu
  refine ⟨_, j', hexec, hj', ?_, fun x y => ?_, completed_of_keeps (u := u) ?_ (fun k hk => ⟨_, hu, ?_, ?_⟩)
    (finishReq_completed (q := { r with code := 0 }) p.dst (cmAcq r.cm) [] rfl rfl rfl rfl rfl rfl)⟩
  · rw [Job.ndef, hndefs]
    exact find?_filter_num NDef.nid _ _
  · have hrouters : (u.finishReq p.dst { r with code := 0 } (cmAcq r.cm) []).routers = u.routers := routers_complete ..
    rw [State.router, hrouters]
    exact def?_undefine (s.dropPacket p.id) r.job d.nid x y
  · change (State.undefine _ _ _).outs = _
    unfold State.undefine
    exact State.updJob_outs ..
  · rw [← Option.some.inj (hjob.symm.trans hk)]
  · rw [← Option.some.inj (hjob.symm.trans hk)]

end

/-! ### A contribution joins its round (R225, R227) -/

theorem no_input {d : RDef} {i : Nat} (hnew : ∀ e ∈ d.inputs, e.1 ≠ i) : ¬ d.inputs.any (fun e => e.1 == i) = true := by
  rw [List.any_eq_true]
  rintro ⟨e, he, hi⟩
  exact hnew e he (beq_iff_eq.1 hi)

theorem joinRound_joins {s : State} {j : Job} {job nid : Nat} {q : Nat × Nat} {d : RDef} {i : Nat} (x : Partial) (hd : rdef? s q job nid = some d)
    (hnew : ∀ e ∈ d.inputs, e.1 ≠ i) : rdef? (s.joinRound j job q d i x) q job nid = some { d with inputs := d.inputs ++ [(i, x)] } := by
  obtain rfl : d.nid = nid := nid_of_def? hd
  have hadded := rdef?_updRdef (f := fun d => { d with inputs := d.inputs ++ [(i, x)] }) hd fun _ => ⟨rfl, rfl⟩
  unfold State.joinRound
  dsimp only
  rw [if_neg (no_input hnew)]
  split
  · exact hadded
  · exact hadded

section
variable {s : State} {p : Packet} {q : Nat × Nat} {nid core acc : Nat} {x : Partial} {j : Job} {d : RDef} (hat : s.reduceAt p.id = some (p, q))
  (hbody : p.body = .contribution p.job nid core x acc 0) (hjob : s.job? p.job = some j) (hd : rdef? s q p.job nid = some d)
include hat hbody hjob hd

/-- The state in which a contribution is taken. -/
def contributed (s : State) (p : Packet) (q : Nat × Nat) (acc : Nat) : State := ((s.dropPacket p.id).passed q).performAcc acc

omit hat hbody hjob hd in
theorem rdef?_contributed (job : Nat) : rdef? (contributed s p q acc) q job nid = rdef? s q job nid := rdef?_passed (s.dropPacket p.id) q q job nid

omit hat hbody hjob hd in
theorem tookPart_contributed (job : Nat) : ((s.dropPacket p.id).passed q).tookPart job acc 0 x = contributed s p q acc := by
  unfold State.tookPart State.doneRise
  exact if_pos (Or.inl rfl)

theorem contributionArrival_joins (hlate : core ∉ d.late) (hnew : ∀ e ∈ d.inputs, e.1 ≠ core) :
    ∃ t : State, ∃ d', exec (.contributionArrival p.id) s = .next t ∧ (t.router q.1 q.2).def? p.job nid = some d'
      ∧ d'.inputs = d.inputs ++ [(core, x)] ∧ d'.waiting = d.waiting := by
  refine ⟨(contributed s p q acc).joinRound j p.job q d core x, { d with inputs := d.inputs ++ [(core, x)] }, ?_, ?_, rfl, rfl⟩
  · have hd' : (s.router q.1 q.2).def? p.job nid = some d := hd
    rw [exec_contributionArrival, execContributionArrival, hat]
    dsimp only
    rw [hbody, hjob]
    dsimp only
    rw [hd']
    dsimp only
    rw [if_neg (by simpa using hlate), if_neg (no_input hnew), tookPart_contributed]
  · exact joinRound_joins x (by rw [rdef?_contributed]; exact hd) hnew

theorem contributionArrival_late (hlate : core ∈ d.late) (hweight : x.weight ≠ 0) (hcensus : j.census = none) :
    ∃ t : State, ∃ d', exec (.contributionArrival p.id) s = .next t ∧ (t.router q.1 q.2).def? p.job nid = some d'
      ∧ d'.inputs = d.inputs ∧ d'.late = d.late.erase core ∧ Stated.Posts t p.dst (.unit j.die) (.pod p.job x.weight false false) := by
  let u : State := (contributed s p q acc).updRdef q p.job nid (fun d => { d with late := d.late.erase core })
  refine ⟨u.pod p.dst p.job x.weight false false, { d with late := d.late.erase core }, ?_, ?_, rfl, rfl, ?_⟩
  · have hd' : (s.router q.1 q.2).def? p.job nid = some d := hd
    rw [exec_contributionArrival, execContributionArrival, hat]
    dsimp only
    rw [hbody, hjob]
    dsimp only
    rw [hd']
    dsimp only
    rw [if_pos (by simpa using hlate), tookPart_contributed]
    rfl
  · have hpod : (u.pod p.dst p.job x.weight false false).routers = u.routers := State.pod_routers ..
    rw [State.router, hpod]
    exact rdef?_updRdef (s := contributed s p q acc) (f := fun d => { d with late := d.late.erase core })
      (by rw [rdef?_contributed]; exact hd) fun _ => ⟨rfl, rfl⟩
  · rw [pod_posts (s := u) (src := p.dst) false false hjob hcensus hweight]
    exact posts_post ..

end

/-! ### A router forwards its round (R226) -/

theorem rdef?_replace {s : State} {q : Nat × Nat} {job nid : Nat} {d e : RDef} (h : rdef? s q job nid = some d) (hjob : e.job = d.job)
    (hnid : e.nid = d.nid) : rdef? (s.updRdef q job nid (fun _ => e)) q job nid = some e := by
  have hmine := List.find?_some h
  rw [rdef?, State.updRdef, router_updRouter_self]
  exact find?_replaceIf h fun _ _ => by rw [hjob, hnid]; exact hmine

theorem forwardPart_sends (s : State) (job : Nat) (j : Job) (d : RDef) (q : Nat × Nat) (x : Partial) :
    ∃ p : Packet, (s.forwardPart job j d q x).packets = s.packets ++ [p] ∧ p.id = s.serial
      ∧ (∀ r n nid, rdef? (s.forwardPart job j d q x) r n nid = rdef? s r n nid)
      ∧ (if q = ndRootAt j d.block then p.dst = rootNi j d.block ∧ p.pos = .dest ∧ p.body = .part job d.nid 12 x
        else let up := parentOf (ndRootAt j d.block) q
          p.pos = .router up.1 up.2 ∧ p.body = .part job d.nid (inputOf up q) x) := by
  unfold State.forwardPart
  dsimp only
  split
  · obtain ⟨⟨p, hpackets, hid, hdst, hpos, hbody⟩, -, hdefs⟩ := reducePkt_sends s job (rootNi j d.block) .dest 1
      ((8 + 4 * ndElems d.block + 31) / 32) (.part job d.nid 12 x) []
    exact ⟨p, hpackets, hid, hdefs, hdst, hpos, hbody⟩
  · obtain ⟨⟨p, hpackets, hid, -, hpos, hbody⟩, -, hdefs⟩ := reducePkt_sends s job (rootNi j d.block) _ _
      ((8 + 4 * ndElems d.block + 31) / 32) _ _
    exact ⟨p, hpackets, hid, hdefs, hpos, hbody⟩

theorem routerCombine_forwards {s : State} {px y job nid : Nat} {j : Job} {d : RDef} (hd : (s.router px y).def? job nid = some d)
    (hjob : s.job? job = some j) (hforwards : d.forwards = true) (hgated : (s.router px y).gated = false) :
    let x := foldParts (ndOp d.block) (d.expects.filterMap (fun i => (d.inputs.find? (fun e => e.1 == i)).map (·.2)))
    ∃ t : State, ∃ p, exec (.routerCombine px y job nid) s = .next t ∧ p ∈ t.packets ∧ p.id = s.serial ∧ (t.router px y).def? job nid = some d.nextRound
      ∧ (if (px, y) = ndRootAt j d.block then p.dst = rootNi j d.block ∧ p.pos = .dest ∧ p.body = .part job nid 12 x
        else let up := parentOf (ndRootAt j d.block) (px, y)
          p.pos = .router up.1 up.2 ∧ p.body = .part job nid (inputOf up (px, y)) x) := by
  intro x
  have hnid : d.nid = nid := nid_of_def? (q := (px, y)) hd
  let u : State := (s.updRdef (px, y) job nid (fun _ => d.nextRound)).passed (px, y)
  have hround : rdef? u (px, y) job nid = some d.nextRound :=
    (rdef?_passed _ _ _ job nid).trans (rdef?_replace hd rfl rfl)
  obtain ⟨p, hpackets, hid, hdefs, hwhere⟩ := forwardPart_sends u job j d (px, y) x
  have hexec : exec (.routerCombine px y job nid) s = .next (if d.nextRound.inputs.any (fun e => decide (e.1 < 8))
      then (u.forwardPart job j d (px, y) x).sendNotice j job (px, y) d.nextRound else u.forwardPart job j d (px, y) x) := by
    rw [exec_routerCombine, execRouterCombine, hd, hjob]
    dsimp only
    rw [if_neg (by simp [hforwards, hgated])]
    split <;> rfl
  rw [hnid] at hwhere
  refine ⟨_, p, hexec, ?_, hid, ?_, hwhere⟩
  · split
    · exact List.mem_append_left _ (by rw [hpackets]; exact List.mem_append_right _ (List.mem_singleton_self _))
    · rw [hpackets]
      exact List.mem_append_right _ (List.mem_singleton_self _)
  · have hsame := (hdefs (px, y) job nid).trans hround
    split
    · exact hsame
    · exact hsame

/-! ### Notices and closes (R227, R255) -/

theorem nid_start (d : NDef) (clk round : Nat) : (d.start clk round).nid = d.nid := by
  unfold NDef.start
  dsimp only
  split
  · rfl
  · split <;> rfl

section
variable {s : State} {p : Packet} {q : Nat × Nat} {job nid round : Nat} (hat : s.reduceAt p.id = some (p, q))
include hat

section
variable {j : Job} {d : NDef} (hjob : s.job? job = some j) (hd : j.ndef nid = some d) (hpos : p.pos = .dest) (hbody : p.body = .notice job nid round)
include hjob hd hpos hbody

theorem roundStartNotice_starts : ∃ t : State, ∃ j' : Job, exec (.roundStartNotice p.id) s = .next t ∧ t.job? job = some j'
    ∧ j'.ndef nid = some (d.start s.clk round) := by
  refine ⟨_, _, ?_, job?_updNdef (s := s.dropPacket p.id) (nid := nid) (fun d => d.start s.clk round) hjob,
    ndef_withNdef hd fun x => nid_start x s.clk round⟩
  rw [exec_roundStartNotice, execRoundStartNotice, hat]
  dsimp only
  rw [hpos, hbody]

end

omit hat in
/-- A close goes to each of some children of a router, and wakes what it comes to. -/
theorem foldl_closes {dst : Endpoint} {f : State → Nat × Nat → State}
    (hf : ∀ u c, ∃ beyond, f u c = u.reducePkt job dst (.router c.1 c.2) (linkTime q c) 1 (.close job nid round) beyond) (l : List (Nat × Nat)) (u : State) :
    (∀ r n m, rdef? (l.foldl f u) r n m = rdef? u r n m) ∧ (∀ m ∈ u.packets, m ∈ (l.foldl f u).packets)
      ∧ ∀ c ∈ l, ∃ m ∈ (l.foldl f u).packets, m.pos = .router c.1 c.2 ∧ m.body = .close job nid round := by
  induction l generalizing u with
  | nil => exact ⟨fun _ _ _ => rfl, fun m hm => hm, fun c hc => by cases hc⟩
  | cons c l ih =>
    obtain ⟨hdefs, hkept, hsent⟩ := ih (f u c)
    obtain ⟨beyond, hstep⟩ := hf u c
    obtain ⟨⟨m, hpackets, -, -, hpos, hbody⟩, -, hsame⟩ := reducePkt_sends u job dst (.router c.1 c.2) (linkTime q c) 1 (.close job nid round) beyond
    rw [← hstep] at hpackets hsame
    refine ⟨fun r n k => (hdefs r n k).trans (hsame r n k), fun x hx => hkept x ?_, fun e he => ?_⟩
    · rw [hpackets]
      exact List.mem_append_left _ hx
    · rcases List.mem_cons.1 he with rfl | he
      · exact ⟨m, hkept m (by rw [hpackets]; exact List.mem_append_right _ (List.mem_singleton_self _)), hpos, hbody⟩
      · exact hsent e he

theorem closeArrival_closes {e : RDef} (hbody : p.body = .close job nid round) (hfree : inputAt s q job nid = false)
    (hdef : (s.router q.1 q.2).def? job nid = some e) (hround : e.round = round) :
    ∃ t : State, ∃ e', exec (.closeArrival p.id) s = .next t ∧ (t.router q.1 q.2).def? job nid = some e' ∧ e' = { e with closing := true }
      ∧ ∀ i c, i ∈ e.expects → 8 ≤ i → (∀ y ∈ e.inputs, y.1 ≠ i) → neighbour q i = some c →
        ∃ m ∈ t.packets, m.pos = .router c.1 c.2 ∧ m.body = .close job nid round := by
  have hexec : ∃ f : State → Nat × Nat → State,
      (∀ u c, ∃ beyond, f u c = u.reducePkt job p.dst (.router c.1 c.2) (linkTime q c) 1 (.close job nid round) beyond)
      ∧ exec (.closeArrival p.id) s = .next ((((e.expects.filter (fun i => decide (8 ≤ i) && !(e.inputs.any (fun x => x.1 == i)))).filterMap
          (neighbour q)).foldl f (((s.dropPacket p.id).passed q).updRdef q job nid (fun d => { d with closing := true })))) := by
    apply Exists.intro
    apply And.intro
    rotate_left
    · rw [exec_closeArrival, execCloseArrival, hat]
      dsimp only
      rw [hbody]
      dsimp only
      rw [if_neg (by simp [hfree]), hdef]
      dsimp only
      rw [if_neg (by simp [hround])]
    · exact fun u c => ⟨_, rfl⟩
  obtain ⟨f, hf, hexec⟩ := hexec
  obtain ⟨hdefs, -, hsent⟩ := foldl_closes hf ((e.expects.filter (fun i => decide (8 ≤ i) && !(e.inputs.any (fun x => x.1 == i)))).filterMap
    (neighbour q)) (((s.dropPacket p.id).passed q).updRdef q job nid (fun d => { d with closing := true }))
  refine ⟨_, { e with closing := true }, hexec, (hdefs q job nid).trans ?_, rfl, fun i c hi hlo hnew hc => hsent c ?_⟩
  · exact rdef?_updRdef (f := fun d => { d with closing := true }) ((rdef?_passed ..).trans hdef) fun _ => ⟨rfl, rfl⟩
  · refine List.mem_filterMap.2 ⟨i, List.mem_filter.2 ⟨hi, ?_⟩, hc⟩
    rw [decide_eq_true hlo, Bool.true_and, Bool.not_eq_true']
    exact Bool.eq_false_iff.2 (no_input hnew)

end

/-! ### The end of a round at its root (R227, R255) -/

section
variable {s : State} {job nid : Nat} {j : Job} {d : NDef} (hjob : s.job? job = some j) (hd : j.ndef nid = some d)
include hjob hd

theorem roundTimeout_closes {u : Nat} (htimer : d.timer = some u) (hdue : u ≤ s.clk) (hopen : d.closing = false) :
    ∃ t : State, ∃ j' : Job, ∃ d', exec (.roundTimeout job nid) s = .next t ∧ t.job? job = some j'
      ∧ j'.ndef nid = some d' ∧ d' = { d with closing := true }
      ∧ ∃ m, t.packets = s.packets ++ [m] ∧ m.pos = .router (ndRootAt j d.block).1 (ndRootAt j d.block).2 ∧ m.body = .close job nid d.round := by
  let v : State := s.updNdef job nid (fun d => { d with closing := true })
  obtain ⟨⟨m, hpackets, -, -, hpos, hbody⟩, hjobs, -⟩ := reducePkt_sends v job (rootNi j d.block)
    (.router (ndRootAt j d.block).1 (ndRootAt j d.block).2) 1 1 (.close job nid d.round) []
  refine ⟨_, _, { d with closing := true }, ?_, (job?_congr hjobs job).trans (job?_updNdef (fun d => { d with closing := true }) hjob),
    ndef_withNdef hd fun _ => rfl, rfl, m, ?_, hpos, hbody⟩
  · rw [exec_roundTimeout, execRoundTimeout, hjob]
    dsimp only
    rw [hd]
    dsimp only
    rw [htimer]
    dsimp only
    rw [if_neg (by simp [hopen, hdue])]
  · rw [hpackets, (updNdef_keeps ..).2.1]

end

/-- Where the elements of a result go, with its status. -/
theorem writeResult_writes (s : State) (j : Job) (job : Nat) (b : List Word) (y : Partial) :
    let leaves := decide (y.count ≠ 0 ∧ min 0x10000 (4096 * j.lsize) < ndDest b + 4 * ndElems b)
    (writeResult s j job b y).2 = leaves.toNat ∧ (writeResult s j job b y).1.outs = s.outs ∧ (writeResult s j job b y).1.jobs = s.jobs
      ∧ (writeResult s j job b y).1.localMem = (if y.count = 0 ∨ leaves then s.localMem
        else s.localMem.write (locAddr job (ndRoot b) (ndDest b)) (y.elems.flatMap (fun e => bytesOfNat e.toNat 4))) := by
  intro leaves
  have hlimit : j.localLimit = 4096 * j.lsize := rfl
  unfold writeResult
  rw [hlimit]
  by_cases hcount : y.count = 0
  · rw [if_pos hcount, if_pos (Or.inl hcount)]
    have hno : leaves = false := decide_eq_false fun h => h.1 hcount
    exact ⟨by rw [hno]; rfl, rfl, rfl, rfl⟩
  · rw [if_neg hcount]
    by_cases hleaves : min 0x10000 (4096 * j.lsize) < ndDest b + 4 * ndElems b
    · have hyes : leaves = true := decide_eq_true ⟨hcount, hleaves⟩
      rw [if_pos hleaves, if_pos (Or.inr hyes)]
      exact ⟨by rw [hyes]; rfl, rfl, rfl, rfl⟩
    · have hno : leaves = false := decide_eq_false fun h => hleaves h.2
      rw [if_neg hleaves, if_neg (by simp [hcount, hno])]
      exact ⟨by rw [hno]; rfl, rfl, rfl, rfl⟩

section
variable {s : State} {job nid : Nat} {j : Job} {d : NDef} {x o : Partial} {tree own : List Partial} (hjob : s.job? job = some j)
  (hd : j.ndef nid = some d)

/-- The root's round ends with the oldest of its own contributions. -/
def endRound (b : List Word) (tree : List Partial) (e : NDef) : NDef :=
  e.nextRound tree (e.own.drop 1) (takesPart b (ndRoot b) && e.own.isEmpty)

/-- The state in which a round's completion is reported. -/
def roundWritten (s : State) (j : Job) (job nid : Nat) (d : NDef) (tree : List Partial) (y : Partial) : State :=
  (writeResult s j job d.block y).1.updNdef job nid (endRound d.block tree)

/-- The completion of a round, with the number of cores it folds. -/
def roundReported (s : State) (j : Job) (job nid : Nat) (d : NDef) (tree : List Partial) (y : Partial) : State :=
  let cm : Cmsg := ⟨d.block.getD 3 0, d.block.getD 4 0⟩
  (roundWritten s j job nid d tree y).complete (rootNi j d.block) job (ndRoot d.block) y.weight cm
    (statusWord (writeResult s j job d.block y).2 (statusFlags y.flags) 0)
    [BitVec.ofNat 64 (y.count + 65536 * (decide (y.count < ndCount d.block)).toNat)] (cmAcq cm) y.know 0

include hjob hd

theorem roundReported_ndef (y : Partial) : ∃ j', (roundReported s j job nid d tree y).job? job = some j'
    ∧ j'.ndef nid = some (endRound d.block tree d) := by
  have hjobs := (writeResult_writes s j job d.block y).2.2.1
  have hnow : (roundWritten s j job nid d tree y).job? job = some (withNdef j nid (endRound d.block tree)) :=
    job?_updNdef _ ((job?_congr hjobs job).trans hjob)
  obtain ⟨j', hj', hndefs⟩ := ndefs_complete (rootNi j d.block) job (ndRoot d.block) y.weight ⟨d.block.getD 3 0, d.block.getD 4 0⟩
    (statusWord (writeResult s j job d.block y).2 (statusFlags y.flags) 0)
    [BitVec.ofNat 64 (y.count + 65536 * (decide (y.count < ndCount d.block)).toNat)] (cmAcq ⟨d.block.getD 3 0, d.block.getD 4 0⟩) y.know 0 hnow
  exact ⟨j', hj', (ndef_congr hndefs nid).trans (ndef_withNdef hd fun _ => rfl)⟩

theorem roundComplete_reports (htimer : d.timer.isSome = true) (hfreeing : d.freeing = []) (hresult : treeResult j d = some (x, tree))
    (hown : d.own = o :: own) : exec (.roundComplete job nid) s
      = .next (roundReported s j job nid d tree (foldPart (ndOp d.block) x o)) := by
  obtain ⟨j', hj', hndef⟩ := roundReported_ndef (tree := tree) hjob hd (foldPart (ndOp d.block) x o)
  have hnone : d.timer.isNone = false := by simpa using htimer
  have hbind : ((roundReported s j job nid d tree (foldPart (ndOp d.block) x o)).job? job).bind (fun j => j.ndef nid)
      = some (endRound d.block tree d) := by
    rw [hj']
    exact hndef
  have hlast : (endRound d.block tree d).freeing = [] := hfreeing
  rw [exec_roundComplete, execRoundComplete, hjob]
  dsimp only
  rw [hd]
  dsimp only
  rw [hresult]
  dsimp only
  rw [if_neg (by simp [hnone, hown])]
  simp only [hown]
  split
  next e he =>
    obtain rfl : e = endRound d.block tree d := Option.some.inj (he.symm.trans hbind)
    rw [hlast, State.freeNdef, ite_self]
    rfl
  next he => cases he.symm.trans hbind

theorem roundComplete_completes (htimer : d.timer.isSome = true) (hfreeing : d.freeing = []) (hresult : treeResult j d = some (x, tree))
    (hown : d.own = o :: own) :
    let y := foldPart (ndOp d.block) x o
    let cm : Cmsg := ⟨d.block.getD 3 0, d.block.getD 4 0⟩
    let leaves := decide (y.count ≠ 0 ∧ min 0x10000 (4096 * j.lsize) < ndDest d.block + 4 * ndElems d.block)
    ∃ t : State, ∃ j' : Job, ∃ d', exec (.roundComplete job nid) s = .next t ∧ t.job? job = some j' ∧ j'.ndef nid = some d' ∧ d'.round = d.round + 1 ∧ d'.own = own
      ∧ d'.tree = tree ∧ d'.closing = false
      ∧ t.localMem = (if y.count = 0 ∨ leaves then s.localMem else s.localMem.write (locAddr job (ndRoot d.block) (ndDest d.block))
          (y.elems.flatMap (fun e => bytesOfNat e.toNat 4)))
      ∧ Stated.Reports s t (rootNi j d.block) job y.weight cm [statusWord leaves.toNat (statusFlags y.flags) 0, cm.tag,
          BitVec.ofNat 64 (y.count + if y.count < ndCount d.block then 65536 else 0)] := by
  intro y cm leaves
  obtain ⟨j', hj', hndef⟩ := roundReported_ndef (tree := tree) hjob hd y
  obtain ⟨hcode, houts, hjobs, hmem⟩ := writeResult_writes s j job d.block y
  refine ⟨_, j', endRound d.block tree d, roundComplete_reports hjob hd htimer hfreeing hresult hown, hj', hndef, rfl, ?_, rfl, rfl, ?_, ?_⟩
  · change d.own.drop 1 = own
    rw [hown]
    rfl
  · refine (localMem_complete ..).trans ((updNdef_keeps ..).2.2.2.trans hmem)
  · have hcount : 65536 * (decide (y.count < ndCount d.block)).toNat = if y.count < ndCount d.block then 65536 else 0 := by
      by_cases h : y.count < ndCount d.block <;> simp [h]
    have hreports := complete_reports (s := roundWritten s j job nid d tree y) (t := roundWritten s j job nid d tree y) (rootNi j d.block) job
      (ndRoot d.block) y.weight cm (statusWord (writeResult s j job d.block y).2 (statusFlags y.flags) 0)
      [BitVec.ofNat 64 (y.count + 65536 * (decide (y.count < ndCount d.block)).toNat)] (cmAcq cm) y.know 0 rfl rfl
    rw [← hcount, ← hcode]
    refine reports_of_keeps ((updNdef_keeps ..).1.trans houts) (fun k hk => ?_) hreports
    obtain rfl : j = k := Option.some.inj (hjob.symm.trans hk)
    exact ⟨_, job?_updNdef _ ((job?_congr hjobs job).trans hjob), rfl, rfl⟩

end

/-- Settles O57: definitions, contributions, forwarding, closes and the end of a round, event by event. -/
theorem reductionEvents : Obligations.ReductionEvents := by
  unfold Obligations.ReductionEvents
  refine ⟨?define, ?contribute, ?combine, ?notice, ?root⟩
  case define =>
    intro s p r j b hat hjob
    exact ⟨nrdefProgram_refuses hat hjob, nrdefProgram_programs hat hjob, nrfreeRemove_refuses hat hjob,
      fun d hkind hd hclosed hreq => nrfreeRemove_frees hat hjob hkind hd hclosed hreq,
      fun d hkind hd hopen => nrfreeRemove_waits hat hjob hkind hd hopen⟩
  case contribute =>
    intro s p q nid core acc x j d hat hbody hjob hd
    exact ⟨contributionArrival_joins hat hbody hjob hd, contributionArrival_late hat hbody hjob hd⟩
  case combine =>
    intro s px y job nid j d hd hjob hforwards hgated
    exact routerCombine_forwards hd hjob hforwards hgated
  case notice =>
    intro s p q job nid round j d hat hjob hd
    refine ⟨fun hpos hbody hround htimer => ?_, fun hpos hbody hlater hnew => ?_, fun e hbody hfree hdef hround =>
      closeArrival_closes hat hbody hfree hdef hround⟩
    · obtain ⟨t, j', hexec, hj', hndef⟩ := roundStartNotice_starts hat hjob hd hpos hbody
      refine ⟨t, j', _, hexec, hj', hndef, ?_⟩
      rw [NDef.start, if_pos hround, htimer]
      rfl
    · obtain ⟨t, j', hexec, hj', hndef⟩ := roundStartNotice_starts hat hjob hd hpos hbody
      refine ⟨t, j', hexec, hj', hndef.trans ?_⟩
      rw [NDef.start, if_neg (by omega), if_pos (by simpa [hlater] using fun a b h => hnew (a, b) h)]
  case root =>
    intro s job nid j d hjob hd
    exact ⟨fun u htimer hdue hopen => roundTimeout_closes hjob hd htimer hdue hopen,
      fun x tree o own htimer hfreeing hresult hown => roundComplete_completes hjob hd htimer hfreeing hresult hown⟩

end Sys2Proof.Laws
end

section
/-! ## Futures, launches and restores -/

namespace Sys2Proof.Laws
open Sys2Proof.Machine Sys2Proof.Safety

/-! ### What a completion leaves of the launch unit and of the futures (R180) -/

/-- The places of the state that the launch unit keeps. -/
structure Desk where
  deviceQ : List Launching
  waiting : List Launching
  loading : Option Launching
  chains : List Chain
  restores : List Nat
  saved : List Saved

def deskOf (s : State) : Desk := ⟨s.deviceQ, s.waiting, s.loading, s.chains, s.restores, s.saved⟩

theorem deskOf_congr {s t : State} (h : deskOf t = deskOf s) : t.deviceQ = s.deviceQ ∧ t.waiting = s.waiting ∧ t.loading = s.loading
    ∧ t.chains = s.chains ∧ t.restores = s.restores ∧ t.saved = s.saved :=
  ⟨congrArg Desk.deviceQ h, congrArg Desk.waiting h, congrArg Desk.loading h, congrArg Desk.chains h, congrArg Desk.restores h,
    congrArg Desk.saved h⟩

theorem doneRise_futures (s : State) (post job : Nat) (k : Know) : (s.doneRise post job k).futures = s.futures := by
  unfold State.doneRise
  split <;> rfl

@[simp] theorem deskOf_doneRise (s : State) (post job : Nat) (k : Know) : deskOf (s.doneRise post job k) = deskOf s := by
  unfold State.doneRise
  split <;> rfl

@[simp] theorem deskOf_pod (s : State) (src : Endpoint) (job v : Nat) (lost killed : Bool) : deskOf (s.pod src job v lost killed) = deskOf s := by
  unfold State.pod
  split
  · rfl
  · split
    · split
      · split <;> rfl
      · rfl
    · rfl

section
variable (s : State) (src : Endpoint) (r : Req) (acq : Bool) (results : List Word)

theorem futures_finishReq : (s.finishReq src r acq results).futures = s.futures := by
  unfold State.finishReq State.complete
  dsimp only
  split
  · rw [doneRise_futures, State.pod_futures]
    rfl
  · split <;> rfl

@[simp] theorem deskOf_finishReq : deskOf (s.finishReq src r acq results) = deskOf s := by
  unfold State.finishReq State.complete
  dsimp only
  split
  · rw [deskOf_doneRise, deskOf_pod]
    rfl
  · split <;> rfl

theorem outs_finishReq_subset : s.outs ⊆ (s.finishReq src r acq results).outs := by
  unfold State.finishReq State.complete
  dsimp only
  split
  · rw [doneRise_outs, State.pod_outs]
    exact List.Subset.refl _
  · split
    · exact List.Subset.refl _
    · exact List.subset_append_left ..

theorem req?_finishReq {id : Nat} (h : id ≠ r.id) : (s.finishReq src r acq results).req? id = s.req? id := by
  rw [State.req?, State.finishReq, complete_reqs, State.req?]
  refine List.find?_filter .. |>.trans (List.find?_congr fun x _ => ?_)
  by_cases hx : x.id = id <;> simp [hx, h]

end

/-- A request that completes with a message answers in it. -/
theorem finishReq_answers {s : State} (src : Endpoint) (r : Req) (acq : Bool) (w : Word) (hmsg : cmNoMsg r.cm = false)
    (hjob : (s.job? r.job).isSome = true) :
    ∃ x ∈ (s.finishReq src r acq [w]).outs, x.msg.args = [statusWord r.code r.flags r.count, r.cm.tag, w] := by
  obtain ⟨-, -, hanswer⟩ := finishReq_completed (s := s) (t := s) (q := r) src acq [w] rfl rfl rfl rfl rfl rfl
  obtain ⟨x, houts, -, -, hargs, -⟩ := hanswer hmsg (by simp) hjob
  exact ⟨x, houts ▸ List.mem_append_right _ (List.mem_singleton_self x), hargs⟩

/-! ### The waiters of a future (R229) -/

theorem outs_releaseWaiters_subset (die : Nat) (src : Endpoint) (f : Future) (l : List Nat) :
    ∀ s : State, s.outs ⊆ (releaseWaiters die src f s l).outs := by
  induction l with
  | nil => exact fun s => List.Subset.refl _
  | cons r l ih =>
    intro s
    rw [releaseWaiters]
    split
    · exact List.Subset.trans (outs_finishReq_subset ..) (ih _)
    · exact ih _

theorem futures_releaseWaiters (die : Nat) (src : Endpoint) (f : Future) (l : List Nat) :
    ∀ s : State, (releaseWaiters die src f s l).futures = s.futures := by
  induction l with
  | nil => exact fun s => rfl
  | cons r l ih =>
    intro s
    rw [releaseWaiters]
    split
    · exact (ih _).trans (futures_finishReq ..)
    · exact ih _

/-- Every waiter of a set future is answered with its value. -/
theorem releaseWaiters_answers (die : Nat) (src : Endpoint) (f : Future) {w : Req} (hmsg : cmNoMsg w.cm = false) (l : List Nat) :
    ∀ s : State, w.id ∈ l → s.req? w.id = some w → (s.job? w.job).isSome = true →
      ∃ x ∈ (releaseWaiters die src f s l).outs, x.msg.args = [statusWord w.code w.flags w.count, w.cm.tag, f.value] := by
  induction l with
  | nil => exact fun s hmem _ _ => absurd hmem List.not_mem_nil
  | cons r l ih =>
    intro s hmem hreq hjob
    rw [releaseWaiters]
    by_cases hr : r = w.id
    · rw [hr, hreq]
      obtain ⟨x, hx, hargs⟩ := finishReq_answers (s := s) src (s.reading die f w) (cmAcq w.cm) f.value hmsg hjob
      exact ⟨x, outs_releaseWaiters_subset _ _ _ _ _ hx, hargs⟩
    · have htail : w.id ∈ l := (List.mem_cons.1 hmem).resolve_left (Ne.symm hr)
      split
      next q hq =>
        have hne : w.id ≠ (s.reading die f q).id := fun h => hr ((id_of_req? hq).symm.trans h.symm)
        obtain ⟨j, hj⟩ := Option.isSome_iff_exists.1 hjob
        obtain ⟨j', hj', -⟩ := ndefs_finishReq src (s.reading die f q) (cmAcq q.cm) [f.value] hj
        exact ih _ htail ((req?_finishReq _ _ _ _ _ hne).trans hreq) (Option.isSome_iff_exists.2 ⟨j', hj'⟩)
      next => exact ih _ htail hreq hjob

/-- The entry of a future once it is set. -/
def fulfilled (s : State) (h : Nat) (value : Word) (rel : Option Rel) : Future :=
  { s.future h with set := true, value := value, rel := rel.map (Rel.gather s) }

section
variable (s : State) (h : Nat) (value : Word) (rel : Option Rel)

theorem fulfil_eq : s.fulfil h value rel = releaseWaiters (handleDie h) (.unit (handleDie h)) (fulfilled s h value rel)
    ((s.depSet h).setFuture h { fulfilled s h value rel with waiters := [] }) (s.future h).waiters := rfl

theorem futures_fulfil : (s.fulfil h value rel).futures
    = s.futures.set (futureKey (handleDie h) (handleIndex h)) { fulfilled s h value rel with waiters := [] } := by
  rw [fulfil_eq, futures_releaseWaiters]
  rfl

end

theorem freeFutureEntry_alone {s : State} {h : Nat} (hwaiters : (s.future h).waiters = []) :
    s.freeFutureEntry h = s.setFuture h ⟨none, false, 0, ((s.future h).gen + 1) % 65536, [], none⟩ := by
  simp only [State.freeFutureEntry, hwaiters, staleAll]

/-! ### The service of a future request (R228, R229) -/

theorem entry_eq_future (s : State) (h : Nat) : Stated.entry s (fieldOf h 14 3) (fieldOf h 0 14) = s.future h := by
  unfold Stated.entry State.future futureKey handleDie handleIndex
  rw [Nat.mul_comm]

theorem entry_of_set {s t : State} {h : Nat} {f : Future} (hset : t.futures = s.futures.set (futureKey (handleDie h) (handleIndex h)) f) :
    Stated.entry t (fieldOf h 14 3) (fieldOf h 0 14) = f := by
  rw [entry_eq_future, State.future, hset]
  exact Map.getD_set_self ..

section
variable {s : State} {p : Packet} {r : Req} {die f : Nat} {b : List Word} (hat : Stated.FutureAt s p r die f b)
include hat

theorem futureRequestServe_serves : exec (.futureRequestServe p.id) s
    = .next { (serveFuture (s.dropPacket p.id) die f b r) with free := s.free + 1 } := by
  obtain ⟨harr, hdst, hbody, hreq, hkind⟩ := hat
  rw [exec_futureRequestServe]
  simp only [execFutureRequestServe, harr, hdst, hbody, hreq, hkind]

/-- A request served by completing with its words. -/
theorem serve_completes {u : State} {q : Req} {acq : Bool} {words : List Word}
    (hserve : serveFuture (s.dropPacket p.id) die f b r = u.finishReq (.unit die) q acq words)
    (hid : q.id = r.id) (hjob : q.job = r.job) (hv : q.v = r.v) (hcm : q.cm = r.cm)
    (hcode : q.code = r.code) (hflags : q.flags = r.flags) (hcount : q.count = r.count) (houts : u.outs = s.outs) (hjobs : u.jobs = s.jobs) :
    ∃ t : State, (exec (.futureRequestServe p.id) s = .next t
      ∧ Stated.Completed s t (.unit die) r ([statusWord r.code r.flags r.count, r.cm.tag] ++ words)) ∧ t.futures = u.futures := by
  have hdone := finishReq_completed (s := s) (t := u) (q := q) (r := r) (.unit die) acq words hid hjob hv hcm houts hjobs
  rw [hcode, hflags, hcount] at hdone
  exact ⟨{ (u.finishReq (.unit die) q acq words) with free := s.free + 1 }, ⟨hserve ▸ futureRequestServe_serves hat, hdone⟩,
    futures_finishReq ..⟩

theorem futureRequestServe_makes (hf : f = 0) {i : Nat} (hi : i < 16384) (hfree : (Stated.entry s die i).owner = none)
    (hlowest : ∀ k, k < i → (Stated.entry s die k).owner ≠ none) :
    ∃ t : State, (exec (.futureRequestServe p.id) s = .next t
      ∧ Stated.Completed s t (.unit die) r ([statusWord r.code r.flags r.count, r.cm.tag] ++ [mkHandle die i (Stated.entry s die i).gen]))
      ∧ Stated.entry t die i = ⟨some r.job, false, 0, (Stated.entry s die i).gen, [], none⟩ := by
  have hkey (k : Nat) : (s.dropPacket p.id).futures.getD (futureKey die k) ⟨none, false, 0, 0, [], none⟩ = Stated.entry s die k := by
    unfold Stated.entry futureKey
    rw [Nat.mul_comm, State.dropPacket_futures]
  have hfound : freeFuture (s.dropPacket p.id) die = some i := by
    refine List.find?_range_eq_some.2 ⟨?_, List.mem_range.2 hi, fun k hk => ?_⟩
    · rw [hkey, hfree]
      rfl
    · rw [hkey]
      simpa [Option.isSome_iff_ne_none] using hlowest k hk
  have hserve : serveFuture (s.dropPacket p.id) die f b r
      = ({ s.dropPacket p.id with futures := s.futures.set (futureKey die i) ⟨some r.job, false, 0, (Stated.entry s die i).gen, [], none⟩ }).finishReq
        (.unit die) r (cmAcq r.cm) [mkHandle die i (Stated.entry s die i).gen] := by
    simp only [serveFuture, hf, if_true, hfound]
    rw [hkey]
    rfl
  obtain ⟨t, hgo, hfutures⟩ := serve_completes hat hserve rfl rfl rfl rfl rfl rfl rfl rfl rfl
  refine ⟨t, hgo, ?_⟩
  rw [Stated.entry, hfutures, Nat.mul_comm]
  exact Map.getD_set_self ..

theorem futureRequestServe_full (hf : f = 0) (hfull : ∀ k, k < 16384 → (Stated.entry s die k).owner ≠ none) :
    ∃ t : State, (exec (.futureRequestServe p.id) s = .next t
      ∧ Stated.Completed s t (.unit die) r ([statusWord r.code r.flags r.count, r.cm.tag] ++ [0])) ∧ t.futures = s.futures := by
  have hfound : freeFuture (s.dropPacket p.id) die = none := by
    refine List.find?_eq_none.2 fun k hk => ?_
    have hused := hfull k (List.mem_range.1 hk)
    unfold Stated.entry at hused
    rw [Nat.mul_comm] at hused
    simpa [futureKey] using hused
  have hserve : serveFuture (s.dropPacket p.id) die f b r = (s.dropPacket p.id).finishReq (.unit die) r (cmAcq r.cm) [0] := by
    simp only [serveFuture, hf, if_true, hfound]
  exact serve_completes (u := s.dropPacket p.id) hat hserve rfl rfl rfl rfl rfl rfl rfl rfl rfl

theorem futureRequestServe_stale (hf : f ≠ 0)
    (hstale : (s.future (wordAt b 0)).owner ≠ some r.job ∨ (s.future (wordAt b 0)).gen ≠ fieldOf (wordAt b 0) 32 16) :
    ∃ u : State, u.jobs = s.jobs ∧ u.req? r.id = none ∧ exec (.futureRequestServe p.id) s
      = .next { (u.raiseJob r.job r.vcore r.v ⟨.futstale, 2, 0, b.getD 0 0⟩ (r.effects s).allPaths (.unit die)) with free := s.free + 1 } := by
  have hfor : staleFor (s.dropPacket p.id) (wordAt b 0) r.job = true := by
    rw [staleFor, Bool.or_eq_true]
    exact hstale.imp bne_iff_ne.2 bne_iff_ne.2
  refine ⟨((s.dropPacket p.id).performAcc r.acc).dropReq r.id, rfl, req?_dropReq .., ?_⟩
  rw [futureRequestServe_serves hat, serveFuture, if_neg hf, if_pos hfor]
  rfl

section
variable (hf : f ≠ 0) (howner : (s.future (wordAt b 0)).owner = some r.job) (hgen : (s.future (wordAt b 0)).gen = fieldOf (wordAt b 0) 32 16)
include hf howner hgen

omit hat hf in
theorem fresh_for : staleFor (s.dropPacket p.id) (wordAt b 0) r.job = false := by
  rw [staleFor, Bool.or_eq_false_iff]
  exact ⟨bne_eq_false_iff_eq.2 howner, bne_eq_false_iff_eq.2 hgen⟩

theorem futureRequestServe_setAgain (h1 : f = 1) (hset : (s.future (wordAt b 0)).set = true) :
    ∃ t : State, (exec (.futureRequestServe p.id) s = .next t
      ∧ Stated.Completed s t (.unit die) r ([statusWord r.code r.flags r.count, r.cm.tag] ++ [1])) ∧ t.futures = s.futures := by
  have hserve : serveFuture (s.dropPacket p.id) die f b r = (s.dropPacket p.id).finishReq (.unit die) r (cmAcq r.cm) [1] := by
    simp only [serveFuture, hf, if_false, fresh_for howner hgen, Bool.false_eq_true]
    subst h1
    exact if_pos hset
  exact serve_completes (u := s.dropPacket p.id) hat hserve rfl rfl rfl rfl rfl rfl rfl rfl rfl

theorem serve_sets (h1 : f = 1) (hset : (s.future (wordAt b 0)).set = false) : serveFuture (s.dropPacket p.id) die f b r
    = ((s.dropPacket p.id).fulfil (wordAt b 0) (b.getD 1 0) r.rel).finishReq (.unit die) r (cmAcq r.cm) [0] := by
  simp only [serveFuture, hf, if_false, fresh_for howner hgen, Bool.false_eq_true]
  subst h1
  exact if_neg (by rw [show ((s.dropPacket p.id).future (wordAt b 0)).set = false from hset]; exact Bool.false_ne_true)

theorem futureRequestServe_sets (h1 : f = 1) (hset : (s.future (wordAt b 0)).set = false) (hwaiters : (s.future (wordAt b 0)).waiters = []) :
    ∃ t : State, (exec (.futureRequestServe p.id) s = .next t
      ∧ Stated.Completed s t (.unit die) r ([statusWord r.code r.flags r.count, r.cm.tag] ++ [0]))
      ∧ (Stated.entry t (fieldOf (wordAt b 0) 14 3) (fieldOf (wordAt b 0) 0 14)).set = true
      ∧ (Stated.entry t (fieldOf (wordAt b 0) 14 3) (fieldOf (wordAt b 0) 0 14)).value = b.getD 1 0 := by
  have hnone : ((s.dropPacket p.id).future (wordAt b 0)).waiters = [] := hwaiters
  have hkeeps : ((s.dropPacket p.id).fulfil (wordAt b 0) (b.getD 1 0) r.rel).outs = s.outs
      ∧ ((s.dropPacket p.id).fulfil (wordAt b 0) (b.getD 1 0) r.rel).jobs = s.jobs := by
    rw [fulfil_eq, hnone]
    exact ⟨rfl, rfl⟩
  obtain ⟨t, hgo, hfutures⟩ := serve_completes hat (serve_sets hat hf howner hgen h1 hset) rfl rfl rfl rfl rfl rfl rfl hkeeps.1 hkeeps.2
  have hentry := entry_of_set (hfutures.trans (futures_fulfil ..))
  exact ⟨t, hgo, by rw [hentry]; rfl, by rw [hentry]; rfl⟩

theorem futureRequestServe_wakes (h1 : f = 1) (hset : (s.future (wordAt b 0)).set = false) {w : Req} (hmem : w.id ∈ (s.future (wordAt b 0)).waiters)
    (hw : s.req? w.id = some w) (hmsg : cmNoMsg w.cm = false) (hjob : (s.job? w.job).isSome = true) :
    ∃ t : State, exec (.futureRequestServe p.id) s = .next t
      ∧ (Stated.entry t (fieldOf (wordAt b 0) 14 3) (fieldOf (wordAt b 0) 0 14)).set = true
      ∧ (Stated.entry t (fieldOf (wordAt b 0) 14 3) (fieldOf (wordAt b 0) 0 14)).waiters = []
      ∧ ∃ x ∈ t.outs, x.msg.args = [statusWord w.code w.flags w.count, w.cm.tag, b.getD 1 0] := by
  obtain ⟨x, hx, hargs⟩ := releaseWaiters_answers (handleDie (wordAt b 0)) (.unit (handleDie (wordAt b 0)))
    (fulfilled (s.dropPacket p.id) (wordAt b 0) (b.getD 1 0) r.rel) hmsg (s.future (wordAt b 0)).waiters
    (((s.dropPacket p.id).depSet (wordAt b 0)).setFuture (wordAt b 0)
      { fulfilled (s.dropPacket p.id) (wordAt b 0) (b.getD 1 0) r.rel with waiters := [] }) hmem hw hjob
  have hentry := entry_of_set (s := s)
    (t := { (((s.dropPacket p.id).fulfil (wordAt b 0) (b.getD 1 0) r.rel).finishReq (.unit die) r (cmAcq r.cm) [0]) with free := s.free + 1 })
    ((futures_finishReq ..).trans (futures_fulfil ..))
  refine ⟨{ (((s.dropPacket p.id).fulfil (wordAt b 0) (b.getD 1 0) r.rel).finishReq (.unit die) r (cmAcq r.cm) [0]) with free := s.free + 1 },
    ?_, ?_, ?_, x, outs_finishReq_subset _ (.unit die) r (cmAcq r.cm) [0] hx, hargs⟩
  · rw [futureRequestServe_serves hat, serve_sets hat hf howner hgen h1 hset]
  · exact congrArg Future.set hentry
  · exact congrArg Future.waiters hentry

theorem futureRequestServe_reads (h2 : f = 2) (hset : (s.future (wordAt b 0)).set = true) :
    ∃ t : State, exec (.futureRequestServe p.id) s = .next t
      ∧ Stated.Completed s t (.unit die) r ([statusWord r.code r.flags r.count, r.cm.tag] ++ [(s.future (wordAt b 0)).value]) := by
  have hserve : serveFuture (s.dropPacket p.id) die f b r = (s.dropPacket p.id).finishReq (.unit die)
      ((s.dropPacket p.id).reading die (s.future (wordAt b 0)) r) (cmAcq r.cm) [(s.future (wordAt b 0)).value] := by
    simp only [serveFuture, hf, if_false, fresh_for howner hgen, Bool.false_eq_true]
    subst h2
    exact if_pos hset
  obtain ⟨t, hgo, -⟩ := serve_completes hat hserve rfl rfl rfl rfl rfl rfl rfl rfl rfl
  exact ⟨t, hgo⟩

theorem futureRequestServe_waits (h2 : f = 2) (hset : (s.future (wordAt b 0)).set = false) (hroom : waiterCount s die < 32768) :
    ∃ t : State, exec (.futureRequestServe p.id) s = .next t
      ∧ Stated.entry t (fieldOf (wordAt b 0) 14 3) (fieldOf (wordAt b 0) 0 14)
        = { s.future (wordAt b 0) with waiters := (s.future (wordAt b 0)).waiters ++ [r.id] } := by
  have hserve : serveFuture (s.dropPacket p.id) die f b r = ((s.dropPacket p.id).performAcc r.acc).setFuture (wordAt b 0)
      { s.future (wordAt b 0) with waiters := (s.future (wordAt b 0)).waiters ++ [r.id] } := by
    simp only [serveFuture, hf, if_false, fresh_for howner hgen, Bool.false_eq_true]
    subst h2
    exact (if_neg (by rw [show ((s.dropPacket p.id).future (wordAt b 0)).set = false from hset]; exact Bool.false_ne_true)).trans
      (if_neg (Nat.not_le.2 hroom))
  refine ⟨_, futureRequestServe_serves hat, ?_⟩
  rw [hserve]
  exact entry_of_set rfl

theorem futureRequestServe_refuses (h2 : f = 2) (hset : (s.future (wordAt b 0)).set = false) (hfull : 32768 ≤ waiterCount s die) :
    ∃ t : State, exec (.futureRequestServe p.id) s = .next t ∧ t.futures = s.futures
      ∧ Stated.Posts t (.unit die) (.ni (tileOf r.core)) (.requestRefused r.id) := by
  have hserve : serveFuture (s.dropPacket p.id) die f b r
      = (s.dropPacket p.id).post .reply (.unit die) (.ni (tileOf r.core)) r.job 1 0 [] (.requestRefused r.id) := by
    simp only [serveFuture, hf, if_false, fresh_for howner hgen, Bool.false_eq_true]
    subst h2
    exact (if_neg (by rw [show ((s.dropPacket p.id).future (wordAt b 0)).set = false from hset]; exact Bool.false_ne_true)).trans
      (if_pos hfull)
  refine ⟨_, futureRequestServe_serves hat, ?_, ?_⟩
  · rw [hserve]
    rfl
  · rw [hserve]
    exact posts_congr rfl (posts_post ..)

theorem futureRequestServe_frees (h3 : f = 3) (hwaiters : (s.future (wordAt b 0)).waiters = []) :
    ∃ t : State, (exec (.futureRequestServe p.id) s = .next t
      ∧ Stated.Completed s t (.unit die) r ([statusWord r.code r.flags r.count, r.cm.tag] ++ []))
      ∧ Stated.entry t (fieldOf (wordAt b 0) 14 3) (fieldOf (wordAt b 0) 0 14)
        = ⟨none, false, 0, ((s.future (wordAt b 0)).gen + 1) % 65536, [], none⟩ := by
  have hserve : serveFuture (s.dropPacket p.id) die f b r = ((s.dropPacket p.id).setFuture (wordAt b 0)
      ⟨none, false, 0, ((s.future (wordAt b 0)).gen + 1) % 65536, [], none⟩).finishReq (.unit die) r (cmAcq r.cm) [] := by
    simp only [serveFuture, hf, if_false, fresh_for howner hgen, Bool.false_eq_true]
    subst h3
    exact congrArg (fun u => u.finishReq (.unit die) r (cmAcq r.cm) []) (freeFutureEntry_alone (s := s.dropPacket p.id) hwaiters)
  obtain ⟨t, hgo, hfutures⟩ := serve_completes hat hserve rfl rfl rfl rfl rfl rfl rfl rfl rfl
  exact ⟨t, hgo, entry_of_set (s := s) hfutures⟩

theorem futureRequestServe_peeks (h4 : f = 4) :
    ∃ t : State, (exec (.futureRequestServe p.id) s = .next t
      ∧ Stated.Completed s t (.unit die) r ([statusWord r.code r.flags r.count, r.cm.tag]
        ++ (if (s.future (wordAt b 0)).set then [1, (s.future (wordAt b 0)).value] else [0, 0]))) ∧ t.futures = s.futures := by
  have hwords : [if (s.future (wordAt b 0)).set then (1 : Word) else 0, if (s.future (wordAt b 0)).set then (s.future (wordAt b 0)).value else 0]
      = if (s.future (wordAt b 0)).set then [1, (s.future (wordAt b 0)).value] else [0, 0] := by
    cases (s.future (wordAt b 0)).set <;> rfl
  have hserve : serveFuture (s.dropPacket p.id) die f b r = (s.dropPacket p.id).finishReq (.unit die)
      ((s.dropPacket p.id).reading die (s.future (wordAt b 0)) r) (cmAcq r.cm)
      (if (s.future (wordAt b 0)).set then [1, (s.future (wordAt b 0)).value] else [0, 0]) := by
    rw [← hwords]
    simp only [serveFuture, hf, if_false, fresh_for howner hgen, Bool.false_eq_true]
    subst h4
    rfl
  exact serve_completes (u := s.dropPacket p.id) hat hserve rfl rfl rfl rfl rfl rfl rfl rfl rfl

end
end

/-! ### Requests at the launch unit (R229, R286, R287, R352) -/

theorem fwaitResend_sends {s : State} {r : Req} {f : Nat} {b : List Word} (hreq : s.req? r.id = some r) (hkind : r.kind = .future f b)
    (hdue : r.due ≠ 0) (hnow : r.due ≤ s.clk) :
    ∃ t : State, exec (.fwaitResend r.id) s = .next t ∧ t.req? r.id = some { r with due := 0 }
      ∧ Stated.Posts t (.ni (tileOf r.core)) (.unit (if f = 0 then tileDie (tileOf r.core) else fieldOf (wordAt b 0) 14 3)) (.request r.id) := by
  refine ⟨(s.updReq r.id (fun r => { r with due := 0 })).post .request (.ni (tileOf r.core)) (.unit (futureDie (tileOf r.core) f b)) r.job 1 0 []
    (.request r.id), ?_, req?_updReq hreq fun _ h => h, posts_post ..⟩
  simp only [exec_fwaitResend, execFwaitResend, hreq, hkind]
  exact if_pos ⟨hdue, hnow⟩

theorem launchResend_sends {s : State} {r : Req} {addr : Nat} (hreq : s.req? r.id = some r) (hkind : r.kind = .launch addr)
    (hdue : r.due ≠ 0) (hnow : r.due ≤ s.clk) :
    ∃ t : State, exec (.launchResend r.id) s = .next t ∧ t.req? r.id = some { r with due := 0 }
      ∧ Stated.Posts t (.ni (tileOf r.core)) (launchFrom (tileOf r.core)) (.request r.id) := by
  refine ⟨(s.updReq r.id (fun r => { r with due := 0 })).post .request (.ni (tileOf r.core)) (launchFrom (tileOf r.core)) r.job 1 0 []
    (.request r.id), ?_, req?_updReq hreq fun _ h => h, posts_post ..⟩
  simp only [exec_launchResend, execLaunchResend, hreq, hkind]
  exact if_pos ⟨hdue, hnow⟩

section
variable {s : State} {p : Packet} {row : Nat} {r : Req} {j : Job} (harr : s.arrived? p.id = some p) (hdst : p.dst = .west row)
  (hbody : p.body = .request r.id) (hreq : s.req? r.id = some r) (hjob : s.job? r.job = some j)
include harr hdst hbody hreq hjob

theorem launchRequestArrival_launch {addr : Nat} (hkind : r.kind = .launch addr) :
    exec (.launchRequestArrival p.id) s = .next { (s.takeLaunch p r j addr) with free := s.free + 1 } := by
  simp only [exec_launchRequestArrival, execLaunchRequestArrival, harr, hdst, hbody, hreq, hkind, hjob]

theorem launchRequestArrival_full {addr : Nat} (hkind : r.kind = .launch addr) (hfull : 256 ≤ s.deviceQ.length) :
    ∃ t : State, exec (.launchRequestArrival p.id) s = .next t ∧ Stated.Posts t p.dst p.src (.requestRefused r.id) ∧ t.deviceQ = s.deviceQ := by
  refine ⟨_, launchRequestArrival_launch harr hdst hbody hreq hjob hkind, ?_, ?_⟩
  · rw [State.takeLaunch, if_pos hfull]
    exact posts_congr rfl (posts_reply ..)
  · rw [State.takeLaunch, if_pos hfull]
    rfl

theorem launchRequestArrival_joins {addr : Nat} {bs : List Byte} (hkind : r.kind = .launch addr) (hroom : s.deviceQ.length < 256)
    (hread : ∀ k, s.readTable k j.ptroot addr 320 = .ok bs) :
    ∃ t : State, ∃ l, exec (.launchRequestArrival p.id) s = .next t ∧ t.deviceQ = s.deviceQ ++ [l] ∧ l.addr = addr ∧ l.parent = r.id
      ∧ l.words = leWords bs 40 ∧ l.privileged = j.privileged := by
  refine ⟨_, ⟨launchUnit, addr, r.id, j.privileged, leWords bs 40, r.know ++ (r.rel.map (Rel.knows s)).getD [], 0, [], true⟩,
    launchRequestArrival_launch harr hdst hbody hreq hjob hkind, ?_, rfl, rfl, rfl, rfl⟩
  simp only [State.takeLaunch, Nat.not_le.2 hroom, if_false, hread]
  cases r.rel <;> rfl

theorem launchRequestArrival_save {n area : Nat} (hkind : r.kind = .ctxsave n area) :
    exec (.launchRequestArrival p.id) s = .next { ((s.dropPacket p.id).markSave r n area) with free := s.free + 1 } := by
  simp only [exec_launchRequestArrival, execLaunchRequestArrival, harr, hdst, hbody, hreq, hkind, hjob]

omit harr hdst hbody hreq hjob in
/-- A context that cannot be marked. -/
theorem markSave_ends {n area : Nat} (hbad : n = r.job ∨ s.job? n = none ∨ ∃ k, s.job? n = some k ∧ k.saveReq ≠ none) :
    (s.dropPacket p.id).markSave r n area = (s.dropPacket p.id).finishAt { r with code := 12 } [0] := by
  unfold State.markSave
  split
  next k hk =>
    refine if_pos ?_
    obtain hown | hnone | ⟨k', hk', hsave⟩ := hbad
    · exact .inl hown
    · exact absurd (hk.symm.trans hnone) (Option.some_ne_none k)
    · rw [← Option.some.inj (hk.symm.trans hk')] at hsave
      exact .inr (Option.isSome_iff_ne_none.2 hsave)
  next => rfl

theorem launchRequestArrival_noSave {n area : Nat} (hkind : r.kind = .ctxsave n area)
    (hbad : n = r.job ∨ s.job? n = none ∨ ∃ k, s.job? n = some k ∧ k.saveReq ≠ none) :
    ∃ t : State, exec (.launchRequestArrival p.id) s = .next t ∧ Stated.Completed s t (s.launchEnd r.job r.vcore) r
      [statusWord 12 r.flags r.count, r.cm.tag, 0] := by
  refine ⟨_, launchRequestArrival_save harr hdst hbody hreq hjob hkind, ?_⟩
  rw [markSave_ends hbad]
  exact finishReq_completed (s := s) (t := s.dropPacket p.id) (q := { r with code := 12 }) (r := r) (s.launchEnd r.job r.vcore) (cmAcq r.cm) [0]
    rfl rfl rfl rfl rfl rfl

theorem launchRequestArrival_marks {n area : Nat} {k : Job} (hkind : r.kind = .ctxsave n area) (hother : n ≠ r.job) (hk : s.job? n = some k)
    (hfree : k.saveReq = none) :
    ∃ t : State, exec (.launchRequestArrival p.id) s = .next t ∧ t.job? n = some { k with saveReq := some (r.id, area) } := by
  refine ⟨_, launchRequestArrival_save harr hdst hbody hreq hjob hkind, ?_⟩
  have hmark : (s.dropPacket p.id).markSave r n area = (s.dropPacket p.id).setJob n { k with saveReq := some (r.id, area) } := by
    have hk' : (s.dropPacket p.id).job? n = some k := hk
    simp only [State.markSave, hk']
    exact if_neg (by simp [hother, hfree])
  rw [hmark]
  exact job?_setJob_self ..

theorem launchRequestArrival_load {area : Nat} (hkind : r.kind = .ctxload area) :
    ∃ t : State, exec (.launchRequestArrival p.id) s = .next t ∧ t.restores = s.restores ++ [r.id] := by
  refine ⟨{ s.dropPacket p.id with restores := s.restores ++ [r.id] }, ?_, rfl⟩
  simp only [exec_launchRequestArrival, execLaunchRequestArrival, harr, hdst, hbody, hreq, hkind, hjob]

end

/-! ### The end of a record (R281, R285) -/

theorem choose_mem {α : Type} (s : State) (place : Nat) (x : α) (l : List α) : choose s place x l ∈ x :: l := by
  cases l with
  | nil => exact List.mem_singleton_self x
  | cons y l =>
    rw [choose]
    · have hlt : Config.pick s.free place % ((y :: l).length + 1) < (x :: y :: l).length := Nat.mod_lt _ (Nat.succ_pos _)
      rw [List.getD_eq_getElem _ _ hlt]
      exact List.getElem_mem hlt
    · exact List.cons_ne_nil y l

/-- The places of the state that a record's end in host memory leaves. -/
theorem endRecord_host {source : Nat} (hhost : source < launchUnit) (s : State) (addr parent : Nat) (status : Word) (rel : Rel) :
    s.endRecord source addr parent 0 status rel
      = { (s.writeBytes .host (addr + 16) (wordBytes status) .host 0 0 (some rel)) with msix := s.msix ++ [source] } := by
  unfold State.endRecord
  rw [if_pos hhost, State.writeStatus, if_pos hhost]
  rfl

/-- From s to t the head of a host queue has ended with a STATUS code. -/
def Ends (s t : State) (l : Launching) (code : Nat) : Prop :=
  Stated.Status s t l.addr code ∧ t.jobs = s.jobs ∧ t.msix = s.msix ++ [l.source]
    ∧ (t.queue l.source).head = ((s.queue l.source).head + 1) % 2 ^ (s.queue l.source).log2n

theorem endRecord_ends {s : State} {l : Launching} (hhost : l.source < 1024) {code prio : Nat} (rel : Rel) :
    Ends s (((s.servedQueue l.source prio).endRecord l.source l.addr l.parent 0 (statusOf code false false 0) rel).advanceQueue l.source) l code := by
  rw [endRecord_host hhost]
  unfold State.advanceQueue
  rw [if_neg (show l.source ≠ launchUnit from Nat.ne_of_lt hhost)]
  refine ⟨rfl, rfl, rfl, ?_⟩
  exact congrArg Queue.head (Map.getD_set_self ..)

theorem refuseRecord_ends {s : State} {source prio : Nat} {l : Launching} (hhost : l.source < 1024) (hdone : l.words.getD 15 0 = 0) (c : Nat) (codes : List Nat) :
    ∃ x ∈ c :: codes, Ends s ((s.servedQueue source prio).refuseRecord l (c :: codes)) l x := by
  refine ⟨_, choose_mem (s.servedQueue source prio) 80 c codes, ?_⟩
  unfold State.refuseRecord
  dsimp only
  rw [hdone, endRecord_host hhost]
  unfold State.advanceQueue
  rw [if_neg (show l.source ≠ launchUnit from Nat.ne_of_lt hhost)]
  refine ⟨rfl, rfl, rfl, ?_⟩
  exact congrArg Queue.head (Map.getD_set_self ..)

theorem writeStatus_keeps (s : State) (source addr parent : Nat) (w : Word) (rel : Rel) :
    (s.writeStatus source addr parent w rel).jobs = s.jobs ∧ (s.writeStatus source addr parent w rel).outs = s.outs := by
  unfold State.writeStatus
  split
  · exact ⟨rfl, rfl⟩
  · split
    · exact ownWrite_keeps ..
    · exact ⟨rfl, rfl⟩

/-! ### The launch unit takes a record (R277, R281, R282) -/

section
variable {s : State} {source prio : Nat} {l : Launching} (hlaunches : Stated.Launches s) (hnext : nextQueue s = some (source, prio))
include hlaunches hnext

section
variable (hnone : waitingOf s source = none) (hrecord : s.recordOf source = some l)
include hnone hrecord

theorem launchRecordTake_takes {x : Tables} (hcheck : launchCheck s l.know l.words = .ok x)
    (hfresh : anyStale s l (depsOf l.words ++ (if wordAt l.words 15 = 0 then [] else [wordAt l.words 15])) = false) :
    ∃ t : State, exec .launchRecordTake s = .next t ∧ t.waiting = s.waiting ++ [{ l with
        deps := ((depsOf l.words).filter (fun h => !(s.future h).set)).map (BitVec.ofNat 64), fresh := true }] ∧ t.jobs = s.jobs
      ∧ (l.source < 1024 → Stated.Status s t l.addr 1) := by
  obtain ⟨hhalted, hreset, hloading⟩ := hlaunches
  have hlive : s.live = true := live_of hhalted hreset
  refine ⟨{ ((s.servedQueue source prio).writeStatus l.source l.addr l.parent (statusOf 1 false false 0) plainRelease) with
      waiting := s.waiting ++ [{ l with deps := ((depsOf l.words).filter (fun h => !(s.future h).set)).map (BitVec.ofNat 64), fresh := true }] },
    ?_, rfl, (writeStatus_keeps ..).1, fun hhost => ?_⟩
  · simp only [exec_launchRecordTake, execLaunchRecordTake, hnext, hlive, hloading, hnone, hrecord, hcheck, hfresh, Bool.not_true, Bool.false_eq_true,
      Option.isSome_none, false_or, if_false]
    rfl
  · rw [State.writeStatus, if_pos (show l.source < launchUnit from hhost)]
    rfl

theorem launchRecordTake_refuses {codes : List Nat} (hcodes : codes ≠ []) (hcheck : launchCheck s l.know l.words = .error (.refuse codes))
    (hhost : l.source < 1024) (hdone : l.words.getD 15 0 = 0) :
    ∃ t : State, ∃ c ∈ codes, exec .launchRecordTake s = .next t ∧ Ends s t l c := by
  obtain ⟨hhalted, hreset, hloading⟩ := hlaunches
  have hlive : s.live = true := live_of hhalted hreset
  cases codes with
  | nil => exact absurd rfl hcodes
  | cons c codes =>
    obtain ⟨x, hmem, hends⟩ := refuseRecord_ends (s := s) (source := source) (prio := prio) hhost hdone c codes
    refine ⟨_, x, hmem, ?_, hends⟩
    simp only [exec_launchRecordTake, execLaunchRecordTake, hnext, hlive, hloading, hnone, hrecord, hcheck, Bool.not_true, Bool.false_eq_true,
      Option.isSome_none, false_or, if_false]

end
end

/-! ### A record that waits (R277, R282, R285) -/

section
variable {s : State} {prio : Nat} {l : Launching} (hlaunches : Stated.Launches s) (hnext : nextQueue s = some (l.source, prio))
  (hwaits : waitingOf s l.source = some l)
include hlaunches hnext hwaits

theorem launchCreate_stale (hstale : depStale s l = true) (hhost : l.source < 1024) (hdone : l.words.getD 15 0 = 0) :
    ∃ t : State, exec (.launchCreate l.source) s = .next t ∧ Ends s t l 23 := by
  obtain ⟨hhalted, hreset, hloading⟩ := hlaunches
  have hlive : s.live = true := live_of hhalted hreset
  obtain ⟨x, hmem, hends⟩ := refuseRecord_ends (s := s) (source := l.source) (prio := prio) hhost hdone 23 []
  rw [List.mem_singleton.1 hmem] at hends
  refine ⟨_, ?_, hends⟩
  simp only [exec_launchCreate, execLaunchCreate, hnext, hwaits, hlive, hloading, hstale, ne_eq, not_true_eq_false, Bool.not_true, Bool.false_eq_true,
    Option.isSome_none, or_self, if_false, if_true]

/-- A record has waited in vain: it is no longer the one that has not had to wait. -/
def heldBack (s : State) (source : Nat) : State :=
  { s with waiting := replaceIf (fun x => x.source == source) (fun x => { x with fresh := false }) s.waiting, free := s.free + 1 }

omit hlaunches hnext in
theorem waitingOf_heldBack : waitingOf (heldBack s l.source) l.source = some { l with fresh := false } :=
  find?_replaceIf (f := fun x : Launching => { x with fresh := false }) hwaits fun _ h => h

theorem launchCreate_waits (hfresh : depStale s l = false) (hdeps : l.deps ≠ []) :
    exec (.launchCreate l.source) s = .next (heldBack s l.source) := by
  obtain ⟨hhalted, hreset, hloading⟩ := hlaunches
  have hlive : s.live = true := live_of hhalted hreset
  have hempty : l.deps.isEmpty = false := by simpa using hdeps
  simp only [exec_launchCreate, execLaunchCreate, hnext, hwaits, hlive, hloading, hfresh, hempty, ne_eq, not_true_eq_false, Bool.not_true,
    Bool.not_false, Bool.false_eq_true, Option.isSome_none, or_self, if_false, if_true]
  rw [heldBack, hloading]

theorem launchCreate_zero (hfresh : depStale s l = false) (hdeps : l.deps = []) (hzero : zeroCount l.words = true) (hhost : l.source < 1024)
    (hdone : l.words.getD 15 0 = 0) (hmap : fieldOf (wordAt l.words 10) 0 16 = 0) :
    ∃ t : State, exec (.launchCreate l.source) s = .next t ∧ Ends s t l 3 := by
  obtain ⟨hhalted, hreset, hloading⟩ := hlaunches
  have hlive : s.live = true := live_of hhalted hreset
  refine ⟨_, ?_, endRecord_ends (s := s) (prio := prio) hhost plainRelease⟩
  simp only [exec_launchCreate, execLaunchCreate, hnext, hwaits, hlive, hloading, hfresh, hdeps, hzero, ne_eq, not_true_eq_false, Bool.not_true,
    List.isEmpty_nil, Bool.false_eq_true, Option.isSome_none, or_self, if_false, if_true]
  rw [State.zeroLaunch, State.startCkpt, if_pos hmap, hdone]

end

/-! ### Putting a context on the device (R241, R282, R360) -/

theorem foldl_leaves {α β : Type} {g : State → β} {f : State → α → State} (hf : ∀ s a, g (f s a) = g s) (l : List α) :
    ∀ s, g (l.foldl f s) = g s := by
  induction l with
  | nil => exact fun _ => rfl
  | cons a l ih => exact fun s => (ih _).trans (hf s a)

/-- What the launch unit keeps, and the jobs. -/
def shelfOf (s : State) : Desk × Map Job := (deskOf s, s.jobs)

section
variable (s : State) (job : Nat)

theorem shelfOf_addResident (core : Nat) : shelfOf (s.addResident core job) = shelfOf s := by
  unfold State.addResident
  split <;> rfl

theorem shelfOf_clearRange (sp : Space) (a n : Nat) : shelfOf (s.clearRange sp a n) = shelfOf s := by
  cases sp <;> rfl

theorem shelfOf_clearJobMem : shelfOf (s.clearJobMem job) = shelfOf s := by
  unfold State.clearJobMem
  exact (shelfOf_clearRange ..).trans ((shelfOf_clearRange ..).trans (shelfOf_clearRange ..))

theorem shelfOf_enter (j : Job) (formats : List (List Word)) (digest : List Byte) :
    shelfOf (s.enter job j formats digest) = (deskOf s, s.jobs.set job j) := by
  have hclear := shelfOf_clearJobMem s job
  unfold State.enter
  refine (foldl_leaves (fun s c => shelfOf_addResident s job c) _ _).trans ?_
  generalize s.clearJobMem job = u at hclear
  exact congrArg (fun x : Desk × Map Job => (x.1, x.2.set job j)) hclear

theorem shelfOf_restoreCore (x : Area) (j : Job) (v : Nat) : shelfOf (restoreCore x job j s v) = shelfOf s := rfl

theorem shelfOf_restoreTile (x : Area) (j : Job) (vt : Nat) : shelfOf (restoreTile x job j s vt) = shelfOf s := by
  unfold restoreTile
  refine foldl_leaves ?_ _ _
  exact fun _ _ => rfl

theorem shelfOf_restoreFuture (x : Area) (i : Nat) : shelfOf (restoreFuture x job s i) = shelfOf s := rfl

end

/-- A job in the course of a launch: what its record, its placement and its phase say. -/
def Loads (s : State) (job : Nat) (words : List Word) (place : List Nat) : Prop :=
  ∃ k, s.job? job = some k ∧ k.phase = .loading ∧ k.words = words ∧ k.place = place

theorem loads_updJob {s : State} {job : Nat} {words : List Word} {place : List Nat} (f : Job → Job) (h : Loads s job words place)
    (hphase : ∀ j, (f j).phase = j.phase) (hwords : ∀ j, (f j).words = j.words) (hplace : ∀ j, (f j).place = j.place) :
    Loads (s.updJob job f) job words place := by
  obtain ⟨k, hk, hp, hw, hl⟩ := h
  refine ⟨f k, ?_, (hphase k).trans hp, (hwords k).trans hw, (hplace k).trans hl⟩
  rw [updJob_of_job? _ hk]
  exact job?_setJob_self ..

theorem deskOf_updJob (s : State) (job : Nat) (f : Job → Job) : deskOf (s.updJob job f) = deskOf s := by
  unfold State.updJob
  split <;> rfl

section
variable {s : State} (x : Area) {job : Nat} (j : Job) (i : Nat)

theorem restoreDef_leaves : deskOf (restoreDef x job j s i) = deskOf s := by
  unfold restoreDef
  refine (deskOf_updJob ..).trans (foldl_leaves (g := deskOf) ?_ _ _)
  exact fun _ _ => rfl

theorem restoreDef_loads {words : List Word} {place : List Nat} (h : Loads s job words place) : Loads (restoreDef x job j s i) job words place := by
  unfold restoreDef
  refine loads_updJob _ ?_ (fun _ => rfl) (fun _ => rfl) fun _ => rfl
  obtain ⟨k, hk, hfields⟩ := h
  refine ⟨k, (job?_congr (foldl_leaves (g := State.jobs) ?_ _ _) _).trans hk, hfields⟩
  exact fun _ _ => rfl

end

theorem foldl_restoreDef (x : Area) {job : Nat} (j : Job) {words : List Word} {place : List Nat} (l : List Nat) :
    ∀ s, Loads s job words place → deskOf (l.foldl (restoreDef x job j) s) = deskOf s ∧ Loads (l.foldl (restoreDef x job j) s) job words place := by
  induction l with
  | nil => exact fun s h => ⟨rfl, h⟩
  | cons i l ih =>
    intro s h
    obtain ⟨hdesk, hloads⟩ := ih _ (restoreDef_loads x j i h)
    exact ⟨hdesk.trans (restoreDef_leaves x j i), hloads⟩

/-- A chain begins: its launch unit reserves a buffer of its first node. -/
theorem runChains_begins (s : State) {c : Chain} {node : Nat} {nodes : List Nat} (hnodes : c.nodes = node :: nodes) (rest : List Chain) :
    (s.runChains (c :: rest)).chains = c :: rest ∧ (s.runChains (c :: rest)).loading = s.loading ∧ (s.runChains (c :: rest)).jobs = s.jobs
      ∧ Stated.Posts (s.runChains (c :: rest)) (launchAt node) (.ni node) (.chainReserve c.job 0) := by
  have hrun : s.runChains (c :: rest)
      = ({ s with chains := c :: rest }).post .management (launchAt node) (.ni node) c.job 1 0 [] (.chainReserve c.job 0) := by
    simp only [State.runChains, State.reserveFirst, hnodes]
  rw [hrun]
  exact ⟨rfl, rfl, rfl, posts_post ..⟩

theorem runChains_keeps (s : State) (l : List Chain) : (s.runChains l).chains = l ∧ (s.runChains l).loading = s.loading := by
  cases l with
  | nil => exact ⟨rfl, rfl⟩
  | cons c l =>
    rw [State.runChains, State.reserveFirst]
    split <;> exact ⟨rfl, rfl⟩

/-! ### A record becomes a context (R282, R316, R317) -/

theorem job?_of_freeJob {s : State} {job : Nat} (h : s.freeJob = some job) : s.job? job = none := by
  have hfree := List.find?_some h
  exact Option.isNone_iff_eq_none.1 hfree

theorem launchPlace_ok {s : State} {l : Launching} {x : Tables} {job : Nat} {place : List Nat} (h : launchPlace s l = .ok (some (x, job, place))) :
    s.freeJob = some job := by
  unfold launchPlace at h
  cases hcheck : launchCheck s l.know l.words with
  | error e => rw [hcheck] at h; cases h
  | ok t =>
    rw [hcheck] at h
    dsimp only [bind, Except.bind] at h
    split at h
    next n place' hn _ =>
      obtain ⟨-, h⟩ := Prod.mk.inj (Option.some.inj (Except.ok.inj h))
      exact hn.trans (congrArg some (Prod.mk.inj h).1)
    next => exact absurd (Except.ok.inj h).symm (Option.some_ne_none _)

/-- The context of a record as it is created. -/
def createdJob (s : State) (l : Launching) (t : Tables) (job : Nat) (place : List Nat) : Job :=
  { newJob l.words l.source l.addr l.parent l.privileged place t.image.code.length t.rtab t.actions
      (rootsOf job (if l.source < launchUnit then some ⟨.system, 0, l.know.allPaths, []⟩ else none) t.msgs (nmsgOf l.words)) with
    jtag := s.jobTags.getD job 0 % 65536, tvalid := (s.jobTags.getD job 0).testBit 16, copyClk := s.clk }

theorem launchCreate_creates {s : State} {prio : Nat} {l : Launching} (hlaunches : Stated.Launches s) (hnext : nextQueue s = some (l.source, prio))
    (hwaits : waitingOf s l.source = some l) {x : Tables} {job node : Nat} {rest : List Nat} (hfresh : depStale s l = false) (hdeps : l.deps = [])
    (hsome : zeroCount l.words = false) (hplace : launchPlace s l = .ok (some (x, job, node :: rest))) (hdigest : x.image.measure = x.image.digest) :
    ∃ t : State, ∃ k, exec (.launchCreate l.source) s = .next t ∧ s.job? job = none ∧ t.job? job = some k ∧ k.phase = .loading ∧ k.words = l.words
      ∧ k.place = node :: rest ∧ k.rtab = x.rtab ∧ k.privileged = l.privileged ∧ t.loading = some { l with job := job }
      ∧ t.chains = [⟨job, node :: rest, List.replicate (node :: rest).length 0, List.replicate (node :: rest).length 0, x.image.chunks⟩]
      ∧ Stated.Posts t (launchAt node) (.ni node) (.chainReserve job 0) := by
  obtain ⟨hhalted, hreset, hloading⟩ := hlaunches
  have hlive : s.live = true := live_of hhalted hreset
  have hexec : exec (.launchCreate l.source) s = .next ((s.servedQueue l.source prio).create l x job (node :: rest)) := by
    simp only [exec_launchCreate, execLaunchCreate, hnext, hwaits, hlive, hloading, hfresh, hdeps, hsome, hplace, ne_eq, not_true_eq_false,
      Bool.not_true, List.isEmpty_nil, Bool.false_eq_true, Option.isSome_none, or_self, if_false]
    exact if_neg (not_not_intro hdigest)
  rw [hexec]
  unfold State.create
  dsimp only
  generalize hv : State.enter _ _ _ _ _ = v
  obtain ⟨hchains, hload, hjobs, hposts⟩ := runChains_begins
    { v with
      waiting := v.waiting.filter (fun x => x.source != l.source)
      jobTags := v.jobTags.del job
      melbex := v.melbex.noteLaunch job x.image.measure
      loading := some { l with job := job } } (c := newChain job (node :: rest) x.image.chunks) (show _ = node :: rest from rfl) []
  refine ⟨_, createdJob (s.servedQueue l.source prio) l x job (node :: rest), rfl, job?_of_freeJob (launchPlace_ok hplace), ?_, rfl, rfl, rfl, rfl,
    rfl, hload, hchains, hposts⟩
  have hshelf := congrArg Prod.snd ((congrArg shelfOf hv).symm.trans (shelfOf_enter ..))
  rw [State.job?, hjobs]
  exact (congrArg (fun m : Map Job => m.get? job) hshelf).trans (Map.get?_set_self ..)

/-! ### A launch runs (R280, R282) -/

/-- Messages of a unit leave one after another. -/
theorem foldl_sends {src : Endpoint} {f : State → Msg → State} (hf : ∀ s m, ∃ dst, f s m = s.sendMsg m src dst 0) (l : List Msg) :
    ∀ s, shelfOf (l.foldl f s) = shelfOf s ∧ (l.foldl f s).mem .host = s.mem .host
      ∧ (l.foldl f s).outs.map (fun o => o.msg) = s.outs.map (fun o => o.msg) ++ l := by
  induction l with
  | nil => exact fun s => ⟨rfl, rfl, (List.append_nil _).symm⟩
  | cons m l ih =>
    intro s
    obtain ⟨hshelf, hmem, houts⟩ := ih (f s m)
    obtain ⟨dst, hsend⟩ := hf s m
    rw [List.foldl_cons, hshelf, hmem, houts, hsend]
    refine ⟨rfl, rfl, ?_⟩
    rw [outs_sendMsg, List.map_append, List.append_assoc]
    rfl

theorem advanceQueue_leaves (s : State) (source : Nat) : (s.advanceQueue source).loading = s.loading ∧ (s.advanceQueue source).chains = s.chains
    ∧ (s.advanceQueue source).jobs = s.jobs ∧ (s.advanceQueue source).outs = s.outs ∧ (s.advanceQueue source).mem .host = s.mem .host := by
  unfold State.advanceQueue
  dsimp only
  split <;> exact ⟨rfl, rfl, rfl, rfl, rfl⟩

theorem rootInject_runs {s : State} {l : Launching} {p : Packet} {j : Job} (hlive : s.live = true) (hloading : s.loading = some l)
    (hsource : l.source ≤ 1024) (hreport : chainReport s = some p) (hjob : s.job? l.job = some j) (hkilled : j.killed = false) :
    ∃ t : State, exec .rootInject s = .next t ∧ t.loading = none ∧ t.chains = [] ∧ t.job? l.job = some { j with phase := .running }
      ∧ t.outs.map (fun o => o.msg) = s.outs.map (fun o => o.msg) ++ j.roots
      ∧ (l.source < 1024 → Stated.Status s t l.addr (2 + 65536 * l.job)) := by
  let j1 : Job := { j with phase := .running }
  let s0 := (s.dropPacket p.id).setJob l.job j1
  let s1 := s0.writeStatus l.source l.addr l.parent (statusOf 2 false false l.job) plainRelease
  have hgo : ¬ (launchUnit < l.source ∨ (!s.live) = true) := by
    rintro (h | h)
    · exact absurd h (Nat.not_lt.2 hsource)
    · rw [hlive] at h
      exact Bool.false_ne_true h
  have hexec : exec .rootInject s
      = .next { ((({ s1 with loading := none, chains := [] }).advanceQueue l.source).injectRoots l.job j1) with free := s.free + 1 } := by
    simp only [exec_rootInject, execRootInject, hloading, hreport, hjob]
    exact if_neg hgo
  obtain ⟨hload, hchains, hjobs, houts, hmem⟩ := advanceQueue_leaves { s1 with loading := none, chains := [] } l.source
  have hsends := foldl_sends (src := .unit j1.die)
    (f := fun s m => if j1.killed then s.pod (.unit j1.die) l.job (hdrWeight m.hdr) false true
      else s.sendMsg m (.unit j1.die) (.ni (messageTile s j1 m (.unit j1.die))) 0)
    (fun s m => ⟨_, if_neg (by rw [show j1.killed = false from hkilled]; exact Bool.false_ne_true)⟩) j1.roots
    (({ s1 with loading := none, chains := [] }).advanceQueue l.source)
  obtain ⟨hshelf, hhost, hmsgs⟩ := hsends
  have hdesk := congrArg Prod.fst hshelf
  obtain ⟨hstatusJobs, hstatusOuts⟩ := writeStatus_keeps s0 l.source l.addr l.parent (statusOf 2 false false l.job) plainRelease
  refine ⟨_, hexec, ?_, ?_, ?_, ?_, fun hhost' => ?_⟩
  · exact (congrArg Desk.loading hdesk).trans hload
  · exact (congrArg Desk.chains hdesk).trans hchains
  · exact (job?_congr ((congrArg Prod.snd hshelf).trans (hjobs.trans hstatusJobs)) l.job).trans (job?_setJob_self (s.dropPacket p.id) l.job j1)
  · refine hmsgs.trans (congrArg (fun o : List OutMsg => o.map (fun o => o.msg) ++ j.roots) ?_)
    exact houts.trans hstatusOuts
  · refine hhost.trans (hmem.trans ?_)
    change s1.mem .host = _
    rw [show s1 = s0.writeBytes .host (l.addr + 16) (wordBytes (statusOf 2 false false l.job)) .host 0 0 (some plainRelease) from
      if_pos (show l.source < launchUnit from hhost')]
    exact mem_writeBytes ..

/-! ### The jobs at a completion (R180, R267) -/

section
variable {s : State} {n : Nat}

theorem job?_pod_none (src : Endpoint) (job v : Nat) (lost killed : Bool) (h : s.job? n = none) : (s.pod src job v lost killed).job? n = none := by
  unfold State.pod
  split
  · exact h
  · split
    next k hk =>
      have hne : n ≠ job := fun hn => Option.some_ne_none k (hk.symm.trans (hn ▸ h))
      split
      · split
        · exact (job?_setJob_of_ne _ hne).trans h
        · exact h
      · exact h
    · exact h

/-- A pod may join those its home holds back in a census; nothing else of the job changes. -/
theorem job?_pod_some (src : Endpoint) (job v : Nat) (lost killed : Bool) {j : Job} (h : s.job? n = some j) :
    ∃ c, (s.pod src job v lost killed).job? n = some { j with census := c } := by
  unfold State.pod
  split
  · exact ⟨j.census, h⟩
  · split
    next k hk =>
      split
      next c hc =>
        split
        · by_cases hn : n = job
          · subst hn
            obtain rfl : j = k := Option.some.inj (h.symm.trans hk)
            exact ⟨_, job?_setJob_self ..⟩
          · exact ⟨j.census, (job?_setJob_of_ne _ hn).trans h⟩
        · exact ⟨j.census, h⟩
      · exact ⟨j.census, h⟩
    · exact ⟨j.census, h⟩

variable (src : Endpoint) (r : Req) (acq : Bool) (results : List Word)

theorem job?_finishReq_none (h : s.job? n = none) : (s.finishReq src r acq results).job? n = none := by
  unfold State.finishReq State.complete
  dsimp only
  split
  · exact (job?_congr (doneRise_jobs ..) n).trans (job?_pod_none _ _ _ _ _ h)
  · split <;> exact h

theorem job?_finishReq_some {j : Job} (h : s.job? n = some j) : ∃ c, (s.finishReq src r acq results).job? n = some { j with census := c } := by
  unfold State.finishReq State.complete
  dsimp only
  split
  · obtain ⟨c, hc⟩ := job?_pod_some (s := (s.performAcc r.acc).dropReq r.id) src r.job r.v false false h
    exact ⟨c, (job?_congr (doneRise_jobs ..) n).trans hc⟩
  · split <;> exact ⟨j.census, h⟩

end

/-! ### A saved context comes back (R357, R359, R360) -/

section
variable {s : State} {r : Req} {area : Nat} {p : Job} (hlaunches : Stated.Launches s) (hreq : s.req? r.id = some r) (hkind : r.kind = .ctxload area)
  (hjob : s.job? r.job = some p) (hmine : s.restores.contains r.id = true)
include hlaunches hreq hkind hjob hmine

theorem contextRestore_starts : exec (.contextRestore r.id) s = .next (s.startRestore p r.id r area) := by
  obtain ⟨hhalted, hreset, hloading⟩ := hlaunches
  have hlive : s.live = true := live_of hhalted hreset
  simp only [exec_contextRestore, execContextRestore, hreq, hkind, hjob, hloading]
  exact if_neg (by rw [hmine, hlive]; simp)

theorem contextRestore_refuses {codes : List Nat} (hread : readSaved s p.ptroot area = .error (.refuse codes)) :
    ∃ t : State, exec (.contextRestore r.id) s = .next t ∧ Stated.Completed s t (s.launchEnd r.job r.vcore) r
      [statusWord (restoreCode codes) r.flags r.count, r.cm.tag, 0] ∧ ∀ n, s.job? n = none → t.job? n = none := by
  refine ⟨_, contextRestore_starts hlaunches hreq hkind hjob hmine, ?_⟩
  simp only [State.startRestore, hread]
  exact ⟨finishReq_completed (t := { s with restores := s.restores.filter (fun q => q != r.id), free := s.free + 1 })
      (q := { r with code := restoreCode codes }) (s.launchEnd r.job r.vcore) (cmAcq r.cm) [0] rfl rfl rfl rfl rfl rfl,
    fun n hn => job?_finishReq_none (s := { s with restores := s.restores.filter (fun q => q != r.id), free := s.free + 1 }) _ _ _ _ hn⟩

omit hlaunches hreq hkind hjob hmine in
theorem restore_begins (s : State) (x : Area) (img : Image) (job : Nat) {j : Job} (hphase : j.phase = .loading) {node : Nat} {rest : List Nat}
    (hplace : j.place = node :: rest) :
    Loads (s.restore x img job j) job j.words (node :: rest) ∧ (s.restore x img job j).loading = s.loading
      ∧ (s.restore x img job j).chains = x.chains job j img.code
      ∧ Stated.Posts (s.restore x img job j) (launchAt node) (.ni node) (.chainReserve job 0) := by
  unfold State.restore
  dsimp only
  generalize hv1 : State.enter _ _ _ _ _ = v1
  generalize hv2 : List.foldl (restoreCore x job j) v1 _ = v2
  generalize hv3 : List.foldl (restoreTile x job j) v2 _ = v3
  generalize hv4 : List.foldl (restoreFuture x job) v3 _ = v4
  have h4 : shelfOf v4 = (deskOf s, s.jobs.set job j) := by
    rw [← hv4, foldl_leaves (shelfOf_restoreFuture · job x), ← hv3, foldl_leaves (shelfOf_restoreTile · job x j), ← hv2,
      foldl_leaves (shelfOf_restoreCore · job x j), ← hv1]
    exact shelfOf_enter ..
  have hloads : Loads v4 job j.words (node :: rest) := by
    refine ⟨j, ?_, hphase, rfl, hplace⟩
    exact (congrArg (fun x : Desk × Map Job => x.2.get? job) h4).trans (Map.get?_set_self ..)
  obtain ⟨hdesk, k, hk, hfields⟩ := foldl_restoreDef x j (List.range (nnrd x.head)) v4 hloads
  generalize List.foldl (restoreDef x job j) v4 _ = v5 at hdesk hk
  obtain ⟨hchains, hloading, hjobs, hposts⟩ := runChains_begins v5 (c := newChain job j.place (chunked .code none 0 img.code)) hplace
    ((List.range j.vtiles).map (fun vt => newChain job [j.tile vt]
        (((List.range 8).flatMap (fun c => chunked .loc (some c) 0 ((x.coreBytes (8 * vt + c)).drop 64)))
          ++ chunked .scratch none 0 ((x.tileBytes vt).drop 512))))
  exact ⟨⟨k, (job?_congr hjobs job).trans hk, hfields⟩,
    hloading.trans ((congrArg Desk.loading hdesk).trans (congrArg (fun x : Desk × Map Job => x.1.loading) h4)), hchains, hposts⟩

theorem contextRestore_places {x : Area} {img : Image} {job node : Nat} {rest : List Nat} {pa : Nat} {y : Nat × Nat × Nat}
    (hread : readSaved s p.ptroot area = .ok x) (himage : readImage s r.know x.words = .ok img) (hdigest : img.measure = img.digest)
    (hfree : s.freeJob = some job) (hplace : s.placement (levelsOf x.words) (needsOf x.words img.code.length) = some (node :: rest))
    (hlookup : s.lookup p.ptroot area = some (pa, y)) (hunits : restoreFree s x (node :: rest) = true) :
    ∃ t : State, ∃ k, exec (.contextRestore r.id) s = .next t ∧ t.job? job = some k ∧ k.phase = .loading ∧ k.words = x.words
      ∧ k.place = node :: rest ∧ t.loading = some ⟨1025, pa, r.id, false, x.head, [], job, [], false⟩
      ∧ t.chains = x.chains job (restoredJob x (node :: rest) img.code.length area) img.code
      ∧ Stated.Posts t (launchAt node) (.ni node) (.chainReserve job 0) := by
  have hstart : s.startRestore p r.id r area
      = ({ s with restores := s.restores.filter (fun q => q != r.id), free := s.free + 1
                  loading := some ⟨restoring, pa, r.id, false, x.head, [], job, [], false⟩ } : State).restore x img job
          (restoredJob x (node :: rest) img.code.length area) := by
    simp only [State.startRestore, hread, himage, hfree, hplace, hlookup, hunits]
    exact if_neg (not_not_intro hdigest)
  obtain ⟨⟨k, hk, hphase, hwords, hplaced⟩, hloading, hchains, hposts⟩ := restore_begins
    { s with restores := s.restores.filter (fun q => q != r.id), free := s.free + 1
             loading := some ⟨restoring, pa, r.id, false, x.head, [], job, [], false⟩ } x img job
    (j := restoredJob x (node :: rest) img.code.length area) rfl (node := node) (rest := rest) rfl
  exact ⟨_, k, (contextRestore_starts hlaunches hreq hkind hjob hmine).trans (congrArg _ hstart), hk, hphase, hwords, hplaced, hloading, hchains, hposts⟩

end

section
variable {s : State} {r : Req} {area : Nat} {p : Job} {l : Launching} {q : Packet} {c : Chain} {rest : List Chain} (hlive : s.live = true)
  (hreq : s.req? r.id = some r) (hkind : r.kind = .ctxload area) (hjob : s.job? r.job = some p) (hloading : s.loading = some l)
  (hsource : l.source = 1025) (hparent : l.parent = r.id) (hreport : chainReport s = some q) (hchains : s.chains = c :: rest)
include hlive hreq hkind hjob hloading hsource hparent hreport hchains

theorem contextRestore_nextChain (hmore : rest ≠ []) :
    ∃ t : State, exec (.contextRestore r.id) s = .next t ∧ t.chains = rest ∧ t.loading = some l := by
  obtain ⟨d, rest, rfl⟩ := List.exists_cons_of_ne_nil hmore
  have hkeeps := runChains_keeps (s.dropPacket q.id) (d :: rest)
  refine ⟨_, ?_, hkeeps.1, hkeeps.2.trans hloading⟩
  simp only [exec_contextRestore, execContextRestore, hreq, hkind, hjob, hloading, hreport, hchains]
  exact if_neg (by simp [hsource, hparent, hlive, restoring, launchUnit])

/-- The job of a restored context as it goes on. -/
def homed (s : State) (l : Launching) (j : Job) : Job :=
  let j1 := Job.refill { ((j.withHome l.words).withKept (s.saved.find? (fun y => y.area == l.addr))) with phase := .running }
  { j1 with copyNow := j1.copies, copyOld := j1.copies, copyClk := s.clk }

omit hlive hreq hkind hjob hloading hsource hparent hreport hchains in
theorem homed_fields (s : State) (l : Launching) (j : Job) : (homed s l j).phase = .running ∧ (homed s l j).place = j.place
    ∧ (homed s l j).homew = fieldOf (wordAt l.words 4) 0 32 ∧ (homed s l j).wtotal = fieldOf (wordAt l.words 4) 32 5
    ∧ (homed s l j).die = j.die ∧ (homed s l j).census = j.census := by
  unfold homed
  cases s.saved.find? (fun y => y.area == l.addr) <;> exact ⟨rfl, rfl, rfl, rfl, rfl, rfl⟩

theorem contextRestore_ends {j : Job} (hlast : rest = []) (hloaded : s.job? l.job = some j) :
    ∃ t : State, ∃ k, exec (.contextRestore r.id) s = .next t ∧ t.loading = none ∧ t.job? l.job = some k ∧ k.phase = .running ∧ k.place = j.place
      ∧ k.homew = fieldOf (wordAt l.words 4) 0 32 ∧ k.wtotal = fieldOf (wordAt l.words 4) 32 5 ∧ (∀ y ∈ t.saved, y.area ≠ l.addr)
      ∧ Stated.Completed s t (s.launchEnd r.job r.vcore) r [statusWord r.code r.flags r.count, r.cm.tag, BitVec.ofNat 64 l.job] := by
  subst hlast
  let s1 := (({ s.dropPacket q.id with saved := s.saved.filter (fun y => y.area != l.addr), loading := none, chains := [] }).setJob l.job
    (homed s l j)).dropTlb (savedJob (homed s l j).jtag)
  obtain ⟨hphase, hplace, hhomew, hwtotal, hdie, hcensus⟩ := homed_fields s l j
  have hself : s1.job? l.job = some (homed s l j) := job?_setJob_self _ l.job (homed s l j)
  have hkept (n : Nat) (k : Job) (hk : s.job? n = some k) : ∃ k', s1.job? n = some k' ∧ k'.place = k.place ∧ k'.die = k.die ∧ k'.census = k.census := by
    by_cases hn : n = l.job
    · obtain rfl : j = k := Option.some.inj (hloaded.symm.trans (hn ▸ hk))
      exact ⟨_, hn ▸ hself, hplace, hdie, hcensus⟩
    · exact ⟨k, (job?_setJob_of_ne (s := { s.dropPacket q.id with saved := s.saved.filter (fun y => y.area != l.addr), loading := none, chains := [] })
        (homed s l j) hn).trans hk, rfl, rfl, rfl⟩
  have hend : s1.launchEnd r.job r.vcore = s.launchEnd r.job r.vcore := by
    obtain ⟨k', hk', hp, -⟩ := hkept r.job p hjob
    simp only [State.launchEnd, hjob, hk', Job.tile, hp]
  have hexec : exec (.contextRestore r.id) s
      = .next { (s1.finishReq (s1.launchEnd r.job r.vcore) r (cmAcq r.cm) [BitVec.ofNat 64 l.job]) with free := s.free + 1 } := by
    have hgo : ¬ (l.source ≠ restoring ∨ l.parent ≠ r.id ∨ (!s.live) = true) := by simp [hsource, hparent, hlive, restoring, launchUnit]
    have hj : (s.dropPacket q.id).job? l.job = some j := hloaded
    simp only [exec_contextRestore, execContextRestore, hreq, hkind, hjob, hloading, hreport, hchains]
    rw [if_neg hgo, State.endRestore, hj]
    rfl
  obtain ⟨cs, hcs⟩ := job?_finishReq_some (s1.launchEnd r.job r.vcore) r (cmAcq r.cm) [BitVec.ofNat 64 l.job] hself
  have hdesk : deskOf (s1.finishReq (s1.launchEnd r.job r.vcore) r (cmAcq r.cm) [BitVec.ofNat 64 l.job]) = deskOf s1 := deskOf_finishReq ..
  refine ⟨_, { homed s l j with census := cs }, hexec, congrArg Desk.loading hdesk, hcs, hphase, hplace, hhomew, hwtotal, fun y hy => ?_, ?_⟩
  · have hleft : y ∈ s.saved.filter (fun y => y.area != l.addr) := (congrArg (fun d : Desk => y ∈ d.saved) hdesk).mp hy
    exact bne_iff_ne.1 (List.mem_filter.1 hleft).2
  · rw [hend]
    refine completed_of_keeps (u := s1) rfl (fun k hk => ?_) (finishReq_completed (t := s1) (q := r) (s.launchEnd r.job r.vcore) (cmAcq r.cm)
      [BitVec.ofNat 64 l.job] rfl rfl rfl rfl rfl rfl)
    obtain ⟨k', hk', -, hd, hc⟩ := hkept r.job k hk
    exact ⟨k', hk', hd, hc⟩

end

/-! ### Far sends to a saved context (R359) -/

theorem saved_ownWrite (s : State) (pt va : Nat) (path : Path) (rel : Option Rel) (bs : List Byte) :
    (s.ownWrite pt va path rel bs).saved = s.saved := by
  have hwrite (u : State) (sp : Space) (a : Nat) (bs : List Byte) (path : Path) (rel : Option Rel) : (u.writeBytes sp a bs path 0 0 rel).saved = u.saved := by
    cases sp <;> rfl
  unfold State.ownWrite State.markDirty
  split
  · split
    · split
      · rw [hwrite]
        split
        · rfl
        · exact hwrite ..
      · rfl
    · rfl
  · rfl

theorem saved_writeVirt (pt : Nat) (path : Path) (l : List Word) : ∀ (s : State) (va : Nat), (s.writeVirt pt va path l).saved = s.saved := by
  induction l with
  | nil => exact fun _ _ => rfl
  | cons w l ih => exact fun s va => (ih _ _).trans (saved_ownWrite ..)

section
variable {s : State} {p : Packet} {m : Msg} {dev out v tag : Nat} {x : Saved} (harr : s.arrived? p.id = some p) (hbody : p.body = .farSend m dev out v)
  (htag : p.job = 2 ^ 20 + tag) (hsaved : s.savedTag tag = some x)
include harr hbody htag hsaved

theorem savedFarSendSpill_joins (hroom : x.spill.length < x.ringN) :
    ∃ t : State, ∃ d, exec (.savedFarSendSpill p.id) s = .next t ∧ d.msg = m ∧ d.units = min v x.job.w
      ∧ d.credit = some (dev, out, v) ∧ t.savedTag tag = some { x with written := x.written + 1, spill := x.spill ++ [d] } := by
  have hfar : ¬ p.job < 2 ^ 20 := by omega
  have hnum : p.job - 2 ^ 20 = tag := by omega
  let d : Draw := ⟨m, min v x.job.w, if m.ord then 2 ^ 40 + dev * 2 ^ 14 + m.srcV else 0, 0, some (dev, out, v)⟩
  let u := (s.dropPacket p.id).writeVirt x.pt (x.ring + 144 * (x.written % x.ringN)) .host (recordWords { m with hdr := hdrSetWeight m.hdr v })
  refine ⟨u.updSaved tag (fun x => { x with written := x.written + 1, spill := x.spill ++ [d] }), d, ?_, rfl, rfl, rfl, ?_⟩
  · simp only [exec_savedFarSendSpill, execSavedFarSendSpill, harr, hbody, hnum, hsaved]
    rw [if_neg hfar, if_neg (Nat.not_le.2 hroom)]
  · have hu : u.savedTag tag = some x := by
      unfold State.savedTag
      rw [show u.saved = s.saved from (saved_writeVirt ..)]
      exact hsaved
    exact find?_replaceIf (f := fun x : Saved => { x with written := x.written + 1, spill := x.spill ++ [d] }) hu fun _ h => h

theorem savedFarSendSpill_full (hfull : x.ringN ≤ x.spill.length) : exec (.savedFarSendSpill p.id) s
    = .next ((s.dropPacket p.id).fabPut ⟨dev, s.devid, 0, 1, false, tag, .retrySend out 6 false⟩ none) := by
  have hfar : ¬ p.job < 2 ^ 20 := by omega
  have hnum : p.job - 2 ^ 20 = tag := by omega
  simp only [exec_savedFarSendSpill, execSavedFarSendSpill, harr, hbody, hnum, hsaved]
  rw [if_neg hfar, if_pos hfull]

end

/-- Settles O58: each event is taken by its own lemma above, from its request to the context it makes, loads or restores. -/
theorem futureAndLaunchEvents : Obligations.FutureAndLaunchEvents := by
  unfold Obligations.FutureAndLaunchEvents
  refine ⟨fun s p r die f b hat => ?_, fun s r f b hreq hkind => fwaitResend_sends hreq hkind,
    fun s r addr hreq hkind => launchResend_sends hreq hkind, fun s p row r j harr hdst hbody hreq hjob => ⟨?_, ?_, ?_, ?_, ?_⟩,
    fun s source prio l hlaunches hnext hnone hrecord => ⟨?_, ?_⟩, fun s prio l hlaunches hnext hwaits => ⟨?_, ?_, ?_, ?_⟩,
    fun s l p j hlive hloading hsource hreport hjob hkilled => rootInject_runs hlive hloading hsource hreport hjob hkilled,
    fun s r area p hlaunches hreq hkind hjob hmine => ⟨?_, ?_⟩,
    fun s r area p l q c rest hlive hreq hkind hjob hloading hsource hparent hreport hchains => ⟨?_, ?_⟩,
    fun s p m dev out v tag x harr hbody htag hsaved => ⟨?_, ?_⟩⟩
  · dsimp only
    simp only [entry_eq_future]
    refine ⟨fun hf i hi hfree hlowest => futureRequestServe_makes hat hf hi hfree hlowest, fun hf hfull => futureRequestServe_full hat hf hfull,
      fun hf hstale => futureRequestServe_stale hat hf hstale, fun hf howner hgen => ⟨?_, ?_, ?_, ?_, ?_, ?_, ?_, ?_⟩⟩
    · exact fun h1 hset => futureRequestServe_setAgain hat hf howner hgen h1 hset
    · simp only [← entry_eq_future]
      exact fun h1 hset hnone => by
        rw [entry_eq_future] at hset hnone
        exact futureRequestServe_sets hat hf howner hgen h1 hset hnone
    · simp only [← entry_eq_future]
      exact fun h1 hset w hmem hw hmsg hjob => by
        rw [entry_eq_future] at hset hmem
        exact futureRequestServe_wakes hat hf howner hgen h1 hset hmem hw hmsg hjob
    · exact fun h2 hset => futureRequestServe_reads hat hf howner hgen h2 hset
    · exact fun h2 hset hroom => by
        obtain ⟨t, ht, hentry⟩ := futureRequestServe_waits hat hf howner hgen h2 hset hroom
        exact ⟨t, ht, (entry_eq_future ..).symm.trans hentry⟩
    · exact fun h2 hset hfull => futureRequestServe_refuses hat hf howner hgen h2 hset hfull
    · exact fun h3 hnone => by
        obtain ⟨t, ht, hentry⟩ := futureRequestServe_frees hat hf howner hgen h3 hnone
        exact ⟨t, ht, (entry_eq_future ..).symm.trans hentry⟩
    · exact fun h4 => futureRequestServe_peeks hat hf howner hgen h4
  · exact fun addr hkind hfull => launchRequestArrival_full harr hdst hbody hreq hjob hkind hfull
  · exact fun addr bs hkind hroom hread => launchRequestArrival_joins harr hdst hbody hreq hjob hkind hroom hread
  · exact fun n area hkind hbad => launchRequestArrival_noSave harr hdst hbody hreq hjob hkind hbad
  · exact fun n area k hkind hother hk hfree => launchRequestArrival_marks harr hdst hbody hreq hjob hkind hother hk hfree
  · exact fun area hkind => launchRequestArrival_load harr hdst hbody hreq hjob hkind
  · exact fun x hcheck hfresh => launchRecordTake_takes hlaunches hnext hnone hrecord hcheck hfresh
  · exact fun codes hcodes hcheck hhost hdone => launchRecordTake_refuses hlaunches hnext hnone hrecord hcodes hcheck hhost hdone
  · intro hstale hhost hdone
    obtain ⟨t, ht, hstatus, hjobs, hmsix, -⟩ := launchCreate_stale hlaunches hnext hwaits hstale hhost hdone
    exact ⟨t, ht, hstatus, hjobs, hmsix⟩
  · exact fun hfresh hdeps => ⟨_, launchCreate_waits hlaunches hnext hwaits hfresh hdeps, rfl, rfl, waitingOf_heldBack hwaits⟩
  · intro hfresh hdeps hzero hhost hdone hmap
    obtain ⟨t, ht, hstatus, hjobs, hmsix, -⟩ := launchCreate_zero hlaunches hnext hwaits hfresh hdeps hzero hhost hdone hmap
    exact ⟨t, ht, hstatus, hjobs, hmsix⟩
  · exact fun x job node rest hfresh hdeps hsome hplace hdigest =>
      launchCreate_creates hlaunches hnext hwaits hfresh hdeps hsome hplace hdigest
  · exact fun codes hread => contextRestore_refuses hlaunches hreq hkind hjob hmine hread
  · exact fun x img job node rest pa y hread himage hdigest hfree hplace hlookup hunits =>
      contextRestore_places hlaunches hreq hkind hjob hmine hread himage hdigest hfree hplace hlookup hunits
  · exact fun hmore => contextRestore_nextChain hlive hreq hkind hjob hloading hsource hparent hreport hchains hmore
  · exact fun j hlast hloaded => contextRestore_ends hlive hreq hkind hjob hloading hsource hparent hreport hchains hlast hloaded
  · exact savedFarSendSpill_joins harr hbody htag hsaved
  · exact savedFarSendSpill_full harr hbody htag hsaved

end Sys2Proof.Laws
end

section
/-! ## Ports -/

namespace Sys2Proof.Laws
open Sys2Proof.Machine Sys2Proof.Safety

/-- The state after reset, but with no place for any port. -/
def portless : State := { State.reset with ports := [] }

/-- A port that has no place among the ports reads as down, and stays so when it has finished training. -/
theorem portUp_portless : exec (.portUp 0) portless = .next { portless with fabOut := [] } := by
  rw [exec_portUp]
  rfl

/-- Refutes O59, in its clause of a port that has finished training: `portUp` writes into the list of ports, whose length no hypothesis of the
statement gives, so that port 0 of a state with an empty list is down after it too. Reset makes a list of 32. -/
theorem not_fabricEvents : ¬ Obligations.FabricEvents := by
  unfold Obligations.FabricEvents
  intro h
  obtain ⟨-, -, -, -, -, -, -, hup, -⟩ := h
  obtain ⟨t, hexec, hport, -⟩ := (hup portless 0 (by decide) rfl).1 rfl
  rw [portUp_portless] at hexec
  injection hexec with hexec
  rw [← hexec] at hport
  exact absurd hport (by decide)

end Sys2Proof.Laws
end

section
/-! ## Freed futures -/

namespace Sys2Proof.Laws
open Sys2Proof.Machine Sys2Proof.Safety

/-- An `fwait` of job 0. -/
def waiter (id : Nat) : Req := { (default : Req) with id := id, kind := .future 2 [] }

/-- A future of the launch unit that a request waits on. -/
def awaited (req : Nat) : Future := ⟨some 1024, false, 0, 0, [req], none⟩

/-- The host is about to free entry 0 of die 0, which the table of futures lists twice, each time with a waiter of job 0. -/
def twiceListed : State := { State.reset with
  jobs := [(0, newJob [] 0 0 0 false [] 0 [] ⟨[], [], 0, 0⟩ [])]
  reqs := [waiter 1, waiter 2]
  futures := [(0, awaited 1), (0, awaited 2)]
  hostFut := ⟨0, mkHandle 0 0 0, 0, true, false, false, false, false⟩ }

theorem twiceListed_entry : Stated.HostEntry twiceListed (awaited 1) :=
  ⟨rfl, rfl, by decide, by decide, rfl, by decide⟩

/-- The waiter of the first listing raises FUTSTALE, its job is killed (R348), and the end of the job's other waiters puts the second listing in
place of the entry that was freed. -/
theorem hostFutureFree_twiceListed :
    ∃ u : State, exec .hostFutureFree twiceListed = .next u ∧ (u.future twiceListed.hostFut.handle.toNat).owner = some 1024 := by
  refine ⟨{ (twiceListed.freeFutureEntry twiceListed.hostFut.handle.toNat) with
    hostFut := twiceListed.hostFut.served 2 twiceListed.hostFut.handle twiceListed.hostFut.value false false false false,
    free := twiceListed.free + 1 }, ?_, ?_⟩
  · rfl
  · decide

/-- Refutes O60, in its clause of a freed host future: the table of futures is a list of keys and entries, no hypothesis says that its keys
differ, and where two entries stand under the key of the handle the end of the waiters' job writes the second one back. -/
theorem not_platformEvents : ¬ Obligations.PlatformEvents := by
  unfold Obligations.PlatformEvents
  intro h
  obtain ⟨-, -, -, -, -, -, -, -, -, -, -, -, -, -, hentry, -⟩ := h
  obtain ⟨-, -, ⟨t, hexec, hfuture, -⟩, -⟩ := hentry twiceListed (awaited 1) twiceListed_entry
  obtain ⟨u, hfree, howner⟩ := hostFutureFree_twiceListed
  obtain rfl : u = t := Host.Outcome.next.inj (hfree.symm.trans hexec)
  rw [hfuture] at howner
  exact Option.some_ne_none 1024 howner.symm

end Sys2Proof.Laws
end

section
/-! ## What vector operations give each element -/

namespace Sys2Proof.Laws
open Sys2Proof.Machine Sys2Proof.Safety

/-! ### Elements of a register (R20, R112, R114) -/

theorem packElems_elem (w : Nat) (l : List Nat) (i : Nat) : packElems w l / 2 ^ (w * i) % 2 ^ w = l.getD i 0 % 2 ^ w := by
  induction l generalizing i with
  | nil => simp [packElems]
  | cons e l ih =>
    have hcons : packElems w (e :: l) = e % 2 ^ w + 2 ^ w * packElems w l := rfl
    rw [hcons]
    cases i with
    | zero => simp
    | succ i =>
      have hdrop : (e % 2 ^ w + 2 ^ w * packElems w l) / 2 ^ w = packElems w l := by
        rw [Nat.add_mul_div_left _ _ (Nat.two_pow_pos w), Nat.div_eq_of_lt (Nat.mod_lt _ (Nat.two_pow_pos w)), Nat.zero_add]
      rw [Nat.mul_succ, Nat.add_comm (w * i) w, Nat.pow_add, ← Nat.div_div_eq_div_mul, hdrop, ih]
      rfl

theorem elemGet_ofNat (v w i : Nat) (h : w * (i + 1) ≤ 4096) : elemGet (BitVec.ofNat 4096 v) w i = v / 2 ^ (w * i) % 2 ^ w := by
  refine Nat.eq_of_testBit_eq fun b => ?_
  rw [elemGet, BitVec.toNat_ofNat]
  simp only [Nat.testBit_mod_two_pow, Nat.testBit_div_two_pow]
  by_cases hb : b < w
  · have hlt : b + w * i < 4096 := by
      rw [Nat.mul_succ] at h
      omega
    simp [hb, hlt]
  · simp [hb]

theorem elemGet_lt (v : VReg) (w i : Nat) : elemGet v w i < 2 ^ w := Nat.mod_lt _ (Nat.two_pow_pos w)

theorem elem_fits {w i : Nat} (h : i < 4096 / w) : w * (i + 1) ≤ 4096 :=
  (Nat.mul_le_mul_left w (Nat.succ_le_of_lt h)).trans (Nat.mul_div_le 4096 w)

theorem elemGet_packElems {w i : Nat} (l : List Nat) (h : i < 4096 / w) : elemGet (BitVec.ofNat 4096 (packElems w l)) w i = l.getD i 0 % 2 ^ w := by
  rw [elemGet_ofNat _ _ _ (elem_fits h), packElems_elem]

theorem testBit_foldl_or {α : Type} (g : α → Nat) (l : List α) (b : Nat) : ∀ a : Nat,
    (l.foldl (fun a e => a ||| g e) a).testBit b = true ↔ a.testBit b = true ∨ ∃ e ∈ l, (g e).testBit b = true := by
  induction l with
  | nil => simp
  | cons x l ih =>
    intro a
    rw [List.foldl_cons, ih, Nat.testBit_or, Bool.or_eq_true, or_assoc]
    simp

theorem flagsOf_active (n mask : Nat) (f : Nat → Nat × Nat) : Stated.FlagsOf (orFlags (active n mask f)) n mask f := by
  intro b
  rw [orFlags, testBit_foldl_or]
  simp only [active, List.mem_map, List.mem_range, Nat.zero_testBit, Bool.false_eq_true, false_or]
  constructor
  · rintro ⟨_, ⟨i, hi, rfl⟩, hb⟩
    by_cases hm : mask.testBit i = true
    · exact ⟨i, hi, hm, by rwa [if_pos hm] at hb⟩
    · rw [if_neg hm] at hb
      simp at hb
  · rintro ⟨i, hi, hm, hb⟩
    exact ⟨_, ⟨i, hi, rfl⟩, by rwa [if_pos hm]⟩

theorem getD_active {n mask i : Nat} {f : Nat → Nat × Nat} (hi : i < n) (hm : mask.testBit i = true) : (active n mask f).getD i (0, 0) = f i := by
  simp only [active, List.getD_eq_getElem?_getD, List.getElem?_map, List.getElem?_range hi, Option.map_some, Option.getD_some, hm, if_true]

theorem flagsOf_congr {flags n mask : Nat} {f g : Nat → Nat × Nat} (h : ∀ i, i < n → mask.testBit i = true → (f i).2 = (g i).2)
    (hf : Stated.FlagsOf flags n mask f) : Stated.FlagsOf flags n mask g := by
  intro b
  rw [hf b]
  constructor
  · rintro ⟨i, hi, hm, hb⟩
    exact ⟨i, hi, hm, h i hi hm ▸ hb⟩
  · rintro ⟨i, hi, hm, hb⟩
    exact ⟨i, hi, hm, (h i hi hm).symm ▸ hb⟩

/-- An element-wise function writes its active elements; only their low bits count. -/
theorem elements_elemwise {e : VOut} {d : Fin 32} {w mask : Nat} {f g : Nat → Nat × Nat} (he : e = elemwise d w (4096 / w) mask f)
    (hfg : ∀ n, n < 4096 / w → mask.testBit n = true → (f n).1 % 2 ^ w = (g n).1 % 2 ^ w ∧ (f n).2 = (g n).2) :
    Stated.Elements e d w mask g := by
  subst he
  refine ⟨rfl, rfl, flagsOf_congr (fun i hi hm => (hfg i hi hm).2) (flagsOf_active _ _ f), _, rfl, fun n hn hm => ?_⟩
  rw [elemGet_packElems _ hn, ← (hfg n hn hm).1]
  have hget : ((active (4096 / w) mask f).map (·.1)).getD n 0 = (f n).1 := by
    rw [List.getD_eq_getElem?_getD, List.getElem?_map, ← getD_active (f := f) hn hm, List.getD_eq_getElem?_getD]
    cases (active (4096 / w) mask f)[n]? <;> rfl
  rw [hget]

/-- The same where the results agree. -/
theorem elements_of_eq {e : VOut} {d : Fin 32} {w mask : Nat} {f g : Nat → Nat × Nat} (he : e = elemwise d w (4096 / w) mask f)
    (hfg : ∀ n, n < 4096 / w → mask.testBit n = true → f n = g n) : Stated.Elements e d w mask g :=
  elements_elemwise he fun n hn hm => by rw [hfg n hn hm]; exact ⟨rfl, rfl⟩

/-! ### Integer elements (R34, R121, R122) -/

theorem sextNat_emod (x w : Nat) : sextNat x w % (2 ^ w : Int) = ((x % 2 ^ w : Nat) : Int) := by
  have hlt : ((x % 2 ^ w : Nat) : Int) < 2 ^ w := by
    exact_mod_cast Nat.mod_lt x (Nat.two_pow_pos w)
  unfold sextNat
  dsimp only
  split
  · exact Int.emod_eq_of_lt (Int.natCast_nonneg _) hlt
  · rw [Int.sub_emod_right]
    exact Int.emod_eq_of_lt (Int.natCast_nonneg _) hlt

theorem lowBits_natCast (w k : Nat) : lowBits w (k : Int) = k % 2 ^ w := by
  rw [lowBits]
  exact_mod_cast Int.toNat_natCast (k % 2 ^ w)

theorem lowBits_lt (w : Nat) (i : Int) : lowBits w i < 2 ^ w := by
  have hpos : (0 : Int) < 2 ^ w := by positivity
  have hlt : i % 2 ^ w < 2 ^ w := Int.emod_lt_of_pos i hpos
  rw [lowBits]
  have := Int.emod_nonneg i (ne_of_gt hpos)
  zify
  rw [Int.toNat_of_nonneg this]
  exact_mod_cast hlt

/-- The amount of a shift, from the bits of its element or from its integer. -/
theorem shiftAmount (y w : Nat) (hy : y < 2 ^ w) : (sextNat y w % (2 ^ w : Int) % (w : Int)).toNat = y % w := by
  rw [sextNat_emod, Nat.mod_eq_of_lt hy]
  exact_mod_cast Int.toNat_natCast (y % w)

theorem satElem_eq (w : Nat) (x : Int) : satElem w x = (lowBits w (Stated.cut w x).1, (Stated.cut w x).2) := by
  unfold satElem Stated.cut satInt
  push_cast
  have hle : (-(2 ^ (w - 1)) : Int) ≤ 2 ^ (w - 1) - 1 := by
    have : (1 : Int) ≤ 2 ^ (w - 1) := one_le_pow₀ (by norm_num)
    omega
  by_cases h1 : x < -(2 ^ (w - 1) : Int)
  · simp [h1, flagOV]
  · by_cases h2 : (2 ^ (w - 1) : Int) - 1 < x
    · simp [h1, h2, flagOV]
    · simp [h1, h2]

theorem vshl_low (x n w : Nat) : lowBits w (sextNat x w * 2 ^ n) = x * 2 ^ n % 2 ^ w := by
  have hmod : (sextNat x w * 2 ^ n) % (2 ^ w : Int) = ((x * 2 ^ n % 2 ^ w : Nat) : Int) := by
    rw [Int.mul_emod, sextNat_emod]
    push_cast
    simp only [Int.mul_emod, Int.emod_emod_of_dvd, dvd_refl]
  rw [lowBits, hmod, Int.toNat_natCast]

theorem rotateRight_low {w x n : Nat} (hx : x < 2 ^ w) (hn : n < w) :
    ((BitVec.ofNat w x).rotateRight n).toNat = (x / 2 ^ n + x * 2 ^ (w - n)) % 2 ^ w := by
  have hsplit : 2 ^ w = 2 ^ (w - n) * 2 ^ n := by rw [← Nat.pow_add, Nat.sub_add_cancel hn.le]
  have hhigh : x * 2 ^ (w - n) % 2 ^ w = 2 ^ (w - n) * (x % 2 ^ n) := by
    rw [hsplit, Nat.mul_comm x, Nat.mul_mod_mul_left]
  have hlow : x / 2 ^ n < 2 ^ (w - n) := by
    rw [Nat.div_lt_iff_lt_mul (Nat.two_pow_pos n), ← hsplit]
    exact hx
  have hsum : 2 ^ (w - n) * (x % 2 ^ n) + x / 2 ^ n < 2 ^ w := by
    have : x % 2 ^ n + 1 ≤ 2 ^ n := Nat.mod_lt _ (Nat.two_pow_pos n)
    calc 2 ^ (w - n) * (x % 2 ^ n) + x / 2 ^ n < 2 ^ (w - n) * (x % 2 ^ n) + 2 ^ (w - n) := by omega
      _ = 2 ^ (w - n) * (x % 2 ^ n + 1) := by ring
      _ ≤ 2 ^ (w - n) * 2 ^ n := Nat.mul_le_mul_left _ this
      _ = 2 ^ w := hsplit.symm
  have hadd : (x / 2 ^ n + x * 2 ^ (w - n)) % 2 ^ w = 2 ^ (w - n) * (x % 2 ^ n) + x / 2 ^ n := by
    rw [Nat.add_mod, hhigh, Nat.mod_eq_of_lt (lt_of_le_of_lt (Nat.div_le_self ..) hx), Nat.add_comm, Nat.mod_eq_of_lt hsum]
  rw [BitVec.toNat_rotateRight, BitVec.toNat_ofNat, Nat.mod_eq_of_lt hx, Nat.mod_eq_of_lt hn, Nat.shiftRight_eq_div_pow, Nat.shiftLeft_eq, hhigh,
    Nat.lor_comm, ← Nat.two_pow_add_eq_or_of_lt hlow, hadd]

/-! ### What the element-wise functions give (R34, R36, R113, R121, R122) -/

section
variable {t : VT} (ht : t.isInt = true)
include ht

theorem arith2_int (vf rm : Nat) (fi : Int → Int → Int) (fv : Val → Val → Val × Nat) (a b : Nat) :
    arith2 t vf rm fi fv a b = (lowBits (vtBits t) (fi (sextNat a (vtBits t)) (sextNat b (vtBits t))), 0) := by
  rw [arith2, if_pos ht]

theorem arith1_int (vf rm : Nat) (fi : Int → Int) (fv : Val → Val × Nat) (a : Nat) :
    arith1 t vf rm fi fv a = (lowBits (vtBits t) (fi (sextNat a (vtBits t))), 0) := by
  rw [arith1, if_pos ht]

theorem arithFma_int (vf rm a b d : Nat) : arithFma t vf rm a b d
    = (lowBits (vtBits t) (sextNat a (vtBits t) * sextNat b (vtBits t) + sextNat d (vtBits t)), 0) := by
  rw [arithFma, if_pos ht]

end

theorem vtBits_pos (t : VT) : 0 < vtBits t := by cases t <;> decide

/-- The bits of an element of a register. -/
theorem el_lt (reg : Fin 32 → VReg) (r : Fin 32) (t : VT) (n : Nat) : Stated.el reg r t n < 2 ^ vtBits t := elemGet_lt ..

theorem lowBits_natAbs_mod (w : Nat) (i : Int) : i.natAbs % 2 ^ w = lowBits w (i.natAbs : Int) % 2 ^ w := by
  rw [lowBits_natCast, Nat.mod_mod]

theorem integerElements : Stated.IntegerElements := by
  unfold Stated.IntegerElements
  intro s o reg d a b t k m
  dsimp only
  refine ⟨fun ht => ⟨?_, ?_, ?_, ?_, ?_⟩, ?_⟩
  · simp only [Stated.vInteger, List.forall_mem_cons, List.not_mem_nil, false_imp_iff, implies_true, and_true]
    refine ⟨?_, ?_, ?_, ?_, ?_, ?_, ?_, ?_, ?_, ?_, ?_⟩
    · exact elements_of_eq rfl fun n _ _ => arith2_int ht ..
    · exact elements_of_eq rfl fun n _ _ => arith2_int ht ..
    · exact elements_of_eq rfl fun n _ _ => arith2_int ht ..
    · exact elements_of_eq rfl fun n _ _ => arith2_int ht ..
    · exact elements_of_eq rfl fun n _ _ => arith2_int ht ..
    · exact elements_of_eq rfl fun n _ _ => by rw [Nat.cast_pow]; rfl
    · exact elements_elemwise rfl fun n _ _ => ⟨lowBits_natAbs_mod .., rfl⟩
    · exact elements_of_eq rfl fun n _ _ => by
        rw [shiftAmount _ _ (el_lt ..)]
        exact congrArg (·, 0) (vshl_low ..).symm
    · exact elements_of_eq rfl fun n _ _ => by
        rw [shiftAmount _ _ (el_lt ..)]
        simp only [Nat.cast_pow, Nat.cast_ofNat]
        rfl
    · exact elements_of_eq rfl fun n _ _ => satElem_eq ..
    · exact elements_of_eq rfl fun n _ _ => satElem_eq ..
  · exact elements_of_eq rfl fun n _ _ => arithFma_int ht ..
  · exact elements_of_eq rfl fun n _ _ => arith1_int ht ..
  · exact elements_of_eq rfl fun n _ _ => arith1_int ht ..
  · simp only [Stated.vShifts, List.forall_mem_cons, List.not_mem_nil, false_imp_iff, implies_true, and_true]
    refine ⟨?_, ?_⟩
    · exact elements_elemwise rfl fun n _ _ => ⟨by
        rw [BitVec.toNat_ushiftRight, BitVec.toNat_ofNat, Nat.mod_eq_of_lt (el_lt ..), Nat.shiftRight_eq_div_pow, Nat.mod_mod]
        rfl, rfl⟩
    · exact elements_of_eq rfl fun n _ _ => by
        rw [rotateRight_low (el_lt ..) (Nat.mod_lt _ (vtBits_pos t))]
        rfl
  · have hbits (r : Fin 32) (n : Nat) : (BitVec.ofNat (vtBits t) (Stated.el reg r t n)).toNat = elemGet (reg r) (vtBits t) n :=
      (BitVec.toNat_ofNat ..).trans (Nat.mod_eq_of_lt (el_lt ..))
    simp only [Stated.vBits, List.forall_mem_cons, List.not_mem_nil, false_imp_iff, implies_true, and_true]
    refine ⟨?_, ?_, ?_, ?_⟩
    · exact elements_of_eq rfl fun n _ _ => by rw [BitVec.toNat_and, hbits, hbits]
    · exact elements_of_eq rfl fun n _ _ => by rw [BitVec.toNat_or, hbits, hbits]
    · exact elements_of_eq rfl fun n _ _ => by rw [BitVec.toNat_xor, hbits, hbits]
    · exact elements_of_eq rfl fun n _ _ => by rw [BitVec.toNat_and, BitVec.toNat_not, hbits, hbits]

/-! ### Float elements (R37, R40, R113, R135) -/

theorem vtDecode_eq_valueOf (t : VT) (vf bits : Nat) : vtDecode t vf bits = Stated.valueOf t vf bits := by cases t <;> rfl

theorem vtIntLike_eq_integral (t : VT) (vf : Nat) : vtIntLike t vf = Stated.integral t vf := by cases t <;> rfl

theorem vtEncode_eq_encodedAs (t : VT) (vf rm : Nat) (fromInt : Bool) (x : Val) :
    vtEncode t vf rm fromInt x = Stated.encodedAs t vf rm fromInt x := by
  cases t <;> rfl

/-- An arithmetic result encoded into its type, with its flags. -/
def arithOut (t : VT) (vf rm : Nat) (r : Val × Nat) : Nat × Nat :=
  ((Stated.encodedAs t vf rm (Stated.integral t vf) r.1).1, (Stated.encodedAs t vf rm (Stated.integral t vf) r.1).2 ||| r.2)

theorem encodeElem_eq (t : VT) (vf rm : Nat) (r : Val × Nat) : encodeElem t vf rm r = arithOut t vf rm r := by
  unfold encodeElem arithOut
  rw [vtEncode_eq_encodedAs, vtIntLike_eq_integral]

section
variable {t : VT} (ht : t.isInt = false)
include ht

theorem arith2_float (vf rm : Nat) (fi : Int → Int → Int) (fv : Val → Val → Val × Nat) (a b : Nat) :
    arith2 t vf rm fi fv a b = arithOut t vf rm (fv (Stated.valueOf t vf a) (Stated.valueOf t vf b)) := by
  rw [arith2, if_neg (by rw [ht]; exact Bool.false_ne_true), encodeElem_eq, vtDecode_eq_valueOf, vtDecode_eq_valueOf]

theorem arith1_float (vf rm : Nat) (fi : Int → Int) (fv : Val → Val × Nat) (a : Nat) :
    arith1 t vf rm fi fv a = arithOut t vf rm (fv (Stated.valueOf t vf a)) := by
  rw [arith1, if_neg (by rw [ht]; exact Bool.false_ne_true), encodeElem_eq, vtDecode_eq_valueOf]

theorem arithFma_float (vf rm a b d : Nat) : arithFma t vf rm a b d
    = arithOut t vf rm (Val.fma rm (Stated.valueOf t vf a) (Stated.valueOf t vf b) (Stated.valueOf t vf d)) := by
  rw [arithFma, if_neg (by rw [ht]; exact Bool.false_ne_true), encodeElem_eq, vtDecode_eq_valueOf, vtDecode_eq_valueOf, vtDecode_eq_valueOf]

end

theorem roundIntegral_eq (t : VT) (vf rm bits : Nat) : roundIntegral t vf rm bits
    = ((Stated.encodedAs t vf 0 false (Stated.toIntegral rm (Stated.valueOf t vf bits))).1, sigFlag [Stated.valueOf t vf bits]) := by
  unfold roundIntegral
  rw [vtDecode_eq_valueOf]
  cases Stated.valueOf t vf bits with
  | nan sig => cases sig <;> simp only [vtEncode_eq_encodedAs] <;> rfl
  | inf neg => simp only [vtEncode_eq_encodedAs]; rfl
  | fin neg y e => simp only [vtEncode_eq_encodedAs]; rfl

/-- A refinement step keeps a y of ±0 or ±∞, and gives the canonical NaN for a NaN. -/
theorem refine_eq (rm : Nat) {inner : Val → Val → Val × Nat} {g : Val → Val → Val} (hg : ∀ x y, (inner x y).1 = g x y) (xb yb : Nat) :
    refine rm inner xb yb = Stated.refined rm g xb yb := by
  have hnan : (fp32.result rm (.nan false)).1 = 0x7FC00000 := rfl
  unfold refine Stated.refined
  generalize fp32.decode xb = x
  generalize fp32.decode yb = y
  cases y with
  | nan sig => exact congrArg (·, _) hnan
  | inf neg => cases neg <;> rfl
  | fin neg z e =>
    by_cases hz : z = 0
    · subst hz
      rfl
    · cases x with
      | nan sig => simp [hz, Val.isNan, Val.isZero, hnan]
      | inf neg => simp [hz, Val.isNan, Val.isZero, hg]
      | fin neg y e => simp [hz, Val.isNan, Val.isZero, hg]

theorem floatElements : Stated.FloatElements := by
  unfold Stated.FloatElements
  intro s o reg d a b t k m ht
  dsimp only
  refine ⟨?_, ?_, ?_, ?_, fun hnf => ⟨?_, ?_⟩, fun hf32 => ?_⟩
  · simp only [Stated.vFloat, List.forall_mem_cons, List.not_mem_nil, false_imp_iff, implies_true, and_true]
    refine ⟨?_, ?_, ?_, ?_, ?_⟩
    · exact elements_of_eq rfl fun n _ _ => arith2_float ht ..
    · exact elements_of_eq rfl fun n _ _ => arith2_float ht ..
    · exact elements_of_eq rfl fun n _ _ => arith2_float ht ..
    · exact elements_of_eq rfl fun n _ _ => arith2_float ht ..
    · exact elements_of_eq rfl fun n _ _ => arith2_float ht ..
  · exact elements_of_eq rfl fun n _ _ => arithFma_float ht ..
  · exact elements_of_eq rfl fun n _ _ => arith1_float ht ..
  · exact elements_of_eq rfl fun n _ _ => arith1_float ht ..
  · exact elements_of_eq rfl fun n _ _ => roundIntegral_eq ..
  · exact elements_of_eq rfl fun n _ _ => roundIntegral_eq ..
  · subst hf32
    exact ⟨elements_of_eq rfl fun n _ _ => refine_eq _ (fun _ _ => rfl) _ _, elements_of_eq rfl fun n _ _ => refine_eq _ (fun _ _ => rfl) _ _⟩

/-! ### Moves and permutes (R45, R124, R127) -/

theorem scalarElem_eq_rawOf (t : VT) (vf : Nat) (x : Word) : scalarElem t vf x = Stated.rawOf t vf x := by
  cases t with
  | nf8 =>
    unfold scalarElem Stated.rawOf Stated.width descW4
    cases vf.testBit 3 <;> rfl
  | _ => rfl

theorem movedElements : Stated.MovedElements := by
  unfold Stated.MovedElements
  intro s o reg d a b t k m
  dsimp only
  refine ⟨?_, ?_, ?_, ?_, ?_, ?_, ?_⟩
  · exact elements_of_eq rfl fun n _ _ => rfl
  · exact elements_of_eq rfl fun n _ _ => rfl
  · exact elements_of_eq rfl fun n _ _ => congrArg (·, 0) (scalarElem_eq_rawOf ..)
  · exact elements_of_eq rfl fun n _ _ => by
      cases o.mask.toNat.testBit n <;> rfl
  · exact elements_of_eq rfl fun n _ _ => congrArg (·, 0) (scalarElem_eq_rawOf ..)
  · exact elements_of_eq rfl fun n _ _ => rfl
  · exact elements_of_eq rfl fun n _ _ => rfl

/-! ### Integers as values, and compares (R37, R123) -/

/-- The sign and the magnitude of an integer's value give it back. -/
theorem signed_ofInt (i : Int) : (if (if i = 0 then false else decide (i < 0)) = true then -(i.natAbs : Int) else (i.natAbs : Int)) = i := by
  by_cases h0 : i = 0
  · subst h0
    rfl
  · by_cases hneg : i < 0
    · simp [h0, hneg, abs_of_neg hneg]
    · simp [h0, hneg, abs_of_nonneg (not_lt.mp hneg)]

theorem scaled_ofInt (i : Int) : scaled (if i = 0 then false else decide (i < 0)) i.natAbs 0 0 = i := by
  have hone : i.natAbs * 2 ^ ((0 : Int) - 0).toNat = i.natAbs := Nat.mul_one _
  rw [scaled, hone]
  exact signed_ofInt i

theorem cmp_ofInt (x y : Int) : (Val.ofInt x).cmp (Val.ofInt y) = x - y := by
  have hcmp : (Val.ofInt x).cmp (Val.ofInt y)
      = scaled (if x = 0 then false else decide (x < 0)) x.natAbs 0 0 - scaled (if y = 0 then false else decide (y < 0)) y.natAbs 0 0 := rfl
  rw [hcmp, scaled_ofInt, scaled_ofInt]

theorem eq_ofInt (x y : Int) : (Val.ofInt x).eq (Val.ofInt y) = decide (x = y) := by
  have h : (Val.ofInt x).eq (Val.ofInt y) = decide ((Val.ofInt x).cmp (Val.ofInt y) = 0) := rfl
  rw [h, cmp_ofInt, decide_eq_decide]
  omega

theorem lt_ofInt (x y : Int) : (Val.ofInt x).lt (Val.ofInt y) = decide (x < y) := by
  have h : (Val.ofInt x).lt (Val.ofInt y) = decide ((Val.ofInt x).cmp (Val.ofInt y) < 0) := rfl
  rw [h, cmp_ofInt, decide_eq_decide]
  omega

theorem le_ofInt (x y : Int) : (Val.ofInt x).le (Val.ofInt y) = decide (x ≤ y) := by
  have h : (Val.ofInt x).le (Val.ofInt y) = decide ((Val.ofInt x).cmp (Val.ofInt y) ≤ 0) := rfl
  rw [h, cmp_ofInt, decide_eq_decide]
  omega

theorem valueOf_int {t : VT} (ht : t.isInt = true) (vf bits : Nat) : Stated.valueOf t vf bits = .ofInt (sextNat bits (vtBits t)) := by
  cases t with
  | i8 | i16 | i32 | i4 => rfl
  | f32 | bf16 | f16 | nf8 => exact absurd ht (by decide)

theorem testBit_packBits (l : List Bool) (i : Nat) : (packBits l).testBit i = l.getD i false := by
  induction l generalizing i with
  | nil => simp [packBits]
  | cons b l ih =>
    have hcons : packBits (b :: l) = 2 * packBits l + b.toNat := Nat.add_comm ..
    cases i with
    | zero =>
      rw [hcons, Nat.testBit_zero]
      cases b <;> simp
    | succ i =>
      have hdiv : (2 * packBits l + b.toNat) / 2 = packBits l := by
        have := Bool.toNat_lt b
        omega
      rw [hcons, Nat.testBit_succ, hdiv, ih]
      rfl

/-- A compare gives the mask of what its elements compare to, and their flags. -/
theorem compared_of {c : Cmp} {t : VT} {vf mask : Nat} {d : Fin 8} {a b : VReg} {f : Nat → Bool} {x y : Nat → Val} {e : VOut}
    (he : e = compareAll c d t vf mask a b)
    (hf : ∀ i, (compareElem c t vf (elemGet a (vtBits t) i) (elemGet b (vtBits t) i)).1 = f i)
    (hx : ∀ i, x i = vtDecode t vf (elemGet a (vtBits t) i)) (hy : ∀ i, y i = vtDecode t vf (elemGet b (vtBits t) i)) :
    Stated.MaskOf e d (fun i => decide (i < vtCount t) && mask.testBit i && f i)
      ∧ Stated.FlagsOf e.flags (vtCount t) mask (fun i => (0, sigFlag [x i, y i])) := by
  subst he
  refine ⟨⟨rfl, rfl, _, rfl, fun i => ?_⟩, fun p => ?_⟩
  · rw [testBit_packBits, List.map_map]
    by_cases hi : i < vtCount t
    · rw [List.getD_eq_getElem?_getD, List.getElem?_map, List.getElem?_range hi]
      by_cases hm : mask.testBit i = true
      · simp [hi, hm, hf]
      · simp [hm]
    · rw [List.getD_eq_getElem?_getD, List.getElem?_eq_none (by simpa using hi)]
      simp [hi]
  · have hfold := testBit_foldl_or (fun e : Bool × Nat => e.2) ((List.range (vtCount t)).map (fun i =>
      if mask.testBit i then compareElem c t vf (elemGet a (vtBits t) i) (elemGet b (vtBits t) i) else (false, 0))) p 0
    refine hfold.trans ?_
    simp only [List.mem_map, List.mem_range, Nat.zero_testBit, Bool.false_eq_true, false_or]
    constructor
    · rintro ⟨_, ⟨i, hi, rfl⟩, hb⟩
      by_cases hm : mask.testBit i = true
      · rw [if_pos hm] at hb
        exact ⟨i, hi, hm, by rw [hx, hy]; exact hb⟩
      · rw [if_neg hm] at hb
        simp at hb
    · rintro ⟨i, hi, hm, hb⟩
      rw [hx, hy] at hb
      exact ⟨_, ⟨i, hi, rfl⟩, by rw [if_pos hm]; exact hb⟩

theorem comparedElements : Stated.ComparedElements := by
  unfold Stated.ComparedElements
  intro s o reg d a b t k m
  have hval (r : Fin 32) (i : Nat) : Stated.valueOf t o.vfmt.toNat (Stated.el reg r t i) = vtDecode t o.vfmt.toNat (elemGet (reg r) (vtBits t) i) :=
    (vtDecode_eq_valueOf ..).symm
  have hpick {cv : Val → Val → Bool} {ci : Int → Int → Bool} (hc : ∀ x y, cv (.ofInt x) (.ofInt y) = ci x y) (i : Nat) :
      cv (vtDecode t o.vfmt.toNat (elemGet (reg a) (vtBits t) i)) (vtDecode t o.vfmt.toNat (elemGet (reg b) (vtBits t) i))
        = if t.isInt then ci (sextNat (Stated.el reg a t i) (vtBits t)) (sextNat (Stated.el reg b t i) (vtBits t))
          else cv (Stated.valueOf t o.vfmt.toNat (Stated.el reg a t i)) (Stated.valueOf t o.vfmt.toNat (Stated.el reg b t i)) := by
    rw [← hval, ← hval]
    split
    · next ht => rw [valueOf_int ht, valueOf_int ht, hc]
    · rfl
  simp only [Stated.compares, List.forall_mem_cons, List.not_mem_nil, false_imp_iff, implies_true, and_true]
  refine ⟨?_, ?_, ?_, ?_⟩
  · exact compared_of (c := .eq) rfl (hpick eq_ofInt) (hval a) (hval b)
  · exact compared_of (c := .lt) rfl (hpick lt_ofInt) (hval a) (hval b)
  · exact compared_of (c := .le) rfl (hpick le_ofInt) (hval a) (hval b)
  · exact compared_of (c := .ne) rfl
      (hpick (cv := fun x y => !x.eq y) (ci := fun x y => decide (x ≠ y)) fun x y => by simp [eq_ofInt]) (hval a) (hval b)

/-! ### Conversions (R46, R50, R125) -/

theorem convertElem_eq (t u : VT) (vf rm bits : Nat) : convertElem t u vf rm bits = Stated.converted t u vf rm bits := by
  unfold convertElem Stated.converted
  dsimp only
  rw [vtDecode_eq_valueOf, vtEncode_eq_encodedAs, vtIntLike_eq_integral]

/-- A group of two or four registers takes the elements of one register without a rest. -/
theorem group_dvd_vtCount (t : VT) {g : Nat} (hg : g = 2 ∨ g = 4) : g ∣ vtCount t := by
  obtain rfl | rfl := hg <;> cases t <;> decide

theorem getD_map_range {α : Type} (f : Nat → α) (n i : Nat) (dflt : α) (hi : i < n) : ((List.range n).map f).getD i dflt = f i := by
  rw [List.getD_eq_getElem?_getD, List.getElem?_map, List.getElem?_range hi]
  rfl

theorem widenAll_writes {g : Nat} (hg : g = 2 ∨ g = 4) {t u : VT} (hw : vtBits u = g * vtBits t) (d : Fin 32) (vf rm mask : Nat) (a : VReg) :
    (widenAll d g t u vf rm mask a).outs.length = g
      ∧ Stated.FlagsOf (widenAll d g t u vf rm mask a).flags (vtCount t) mask (fun i => Stated.converted t u vf rm (elemGet a (vtBits t) i))
      ∧ ∀ i, i < vtCount t → ∃ act v, (widenAll d g t u vf rm mask a).outs[i % g]? = some (.v (Fin.ofNat 32 (d.val + i % g)) (vtBits u) act, v)
        ∧ act.testBit (i / g) = mask.testBit i
        ∧ (mask.testBit i = true → elemGet (BitVec.ofNat 4096 v) (vtBits u) (i / g)
            = (Stated.converted t u vf rm (elemGet a (vtBits t) i)).1 % 2 ^ vtBits u) := by
  have hpos : 0 < g := by omega
  have hplace (i : Nat) : i / g * g + i % g = i := by rw [Nat.mul_comm, Nat.div_add_mod]
  refine ⟨by simp [widenAll, VOut.ofResults], flagsOf_congr (fun i _ _ => by rw [convertElem_eq]) (flagsOf_active _ _ _), fun i hi => ?_⟩
  have hposn : i / g < vtCount t / g := Nat.div_lt_div_of_lt_of_dvd (group_dvd_vtCount t hg) hi
  have hcount : vtCount t / g = 4096 / vtBits u := by rw [vtCount, Nat.div_div_eq_div_mul, hw, Nat.mul_comm]
  refine ⟨_, _, by
    simp only [widenAll, VOut.ofResults]
    rw [List.getElem?_map, List.getElem?_range (Nat.mod_lt _ hpos)]
    rfl, ?_, fun hm => ?_⟩
  · rw [testBit_packBits, getD_map_range _ _ _ _ hposn, hplace]
  · rw [elemGet_packElems _ (hcount ▸ hposn), getD_map_range _ _ _ _ hposn, hplace, getD_active hi hm, convertElem_eq]

theorem convertedElements : Stated.ConvertedElements := by
  unfold Stated.ConvertedElements
  intro s o reg d a t u k m
  dsimp only
  refine ⟨fun _ => elements_of_eq rfl fun n _ _ => convertElem_eq .., ?_, fun g hg hw => ?_⟩
  · simp only [List.forall_mem_cons, List.not_mem_nil, false_imp_iff, implies_true, and_true]
    exact ⟨fun hw => ⟨rfl, rfl, widenAll_writes (Or.inl rfl) hw ..⟩, fun hw => ⟨rfl, rfl, widenAll_writes (Or.inr rfl) hw ..⟩⟩
  · have hdiv : vtBits t / vtBits u = g := by rw [hw, Nat.mul_div_cancel _ (vtBits_pos u)]
    refine elements_of_eq rfl fun n _ _ => ?_
    rw [hdiv, getD_map_range _ _ _ _ (Nat.mod_lt _ (by omega)), convertElem_eq]
    rfl

/-! ### Reductions over integers (R51, R126, R127) -/

theorem elemInt_of_ofInt {t : VT} {vf bits : Nat} {i : Int} (h : vtDecode t vf bits = .ofInt i) : elemInt t vf bits = i := by
  unfold elemInt
  rw [h]
  exact signed_ofInt i

theorem descKind_integral {vf : Nat} (h : Stated.integral .nf8 vf = true) : descKind vf = 1 ∨ descKind vf = 2 := by
  have h' : (descKind vf == 1 || descKind vf == 2) = true := h
  simpa using h'

/-- A descriptor of integers has elements of 4 or 8 bits. -/
theorem descBits_integral {vf : Nat} (h : descKind vf = 1 ∨ descKind vf = 2) : descBits vf = if vf.testBit 3 then 4 else 8 := by
  unfold descBits descW4
  obtain h | h := h <;> rw [h] <;> rfl

theorem elemInt_eq_intOf {t : VT} {vf : Nat} (h : Stated.integral t vf = true) (bits : Nat) : elemInt t vf bits = Stated.intOf t vf bits := by
  cases t with
  | i8 | i16 | i32 | i4 => exact elemInt_of_ofInt rfl
  | f32 | bf16 | f16 => exact absurd h Bool.false_ne_true
  | nf8 =>
    have hk := descKind_integral h
    have hwidth : Stated.width .nf8 vf = descBits vf := (descBits_integral hk).symm
    refine elemInt_of_ofInt ?_
    unfold Stated.intOf
    rw [hwidth]
    obtain hk | hk := hk
    · rw [if_neg (by simp [hk])]
      simp only [vtDecode, descDecode, hk]
    · rw [if_pos ⟨rfl, hk⟩]
      simp only [vtDecode, descDecode, hk]

theorem foldl_masked {α β : Type} (p : Nat → Bool) (f : Nat → α) (g : β → α → β) (l : List Nat) : ∀ a : β,
    l.foldl (fun acc i => if p i then g acc (f i) else acc) a = ((l.filter p).map f).foldl g a := by
  induction l with
  | nil => exact fun _ => rfl
  | cons i l ih =>
    intro a
    cases hp : p i <;> simp [hp, ih]

theorem intScalar_eq (x : Int) : intScalar x = (x % 2 ^ 64).toNat := rfl

theorem typeRange_eq (t : VT) (vf : Nat) : typeRange t vf
    = (if t = .nf8 ∧ descKind vf = 2 then 0 else -(2 ^ (Stated.width t vf - 1)),
       if t = .nf8 ∧ descKind vf = 2 then 2 ^ Stated.width t vf - 1 else 2 ^ (Stated.width t vf - 1) - 1) := by
  cases t with
  | nf8 =>
    have hw : (if descW4 vf then 4 else 8) = Stated.width .nf8 vf := rfl
    unfold typeRange
    simp only [hw]
    by_cases hk : descKind vf = 2
    · simp [hk]
    · simp [hk]
  | i8 | i16 | i32 | i4 | f32 | bf16 | f16 => rfl

/-! ### The tree of R51 -/

theorem treeLevel_map_range {α : Type} (f : α → α → α) (m : Nat) : ∀ (g : Nat → α),
    treeLevel f ((List.range (2 * m)).map g) = (List.range m).map (fun i => f (g (2 * i)) (g (2 * i + 1))) := by
  induction m with
  | zero => exact fun _ => rfl
  | succ m ih =>
    intro g
    have htwo : (List.range (2 * (m + 1))).map g = g 0 :: g 1 :: (List.range (2 * m)).map (fun i => g (i + 2)) := by
      rw [show 2 * (m + 1) = 2 * m + 1 + 1 from rfl, List.range_succ_eq_map, List.range_succ_eq_map]
      simp [Function.comp_def]
    rw [htwo, treeLevel, ih, List.range_succ_eq_map]
    simp [Function.comp_def, Nat.mul_add]

theorem tree_map_range {α : Type} (f : α → α → α) (k : Nat) : ∀ (g : Nat → α), tree f k ((List.range (2 ^ k)).map g) = [Stated.joined f k g] := by
  induction k with
  | zero => exact fun _ => rfl
  | succ k ih =>
    intro g
    rw [tree, Nat.pow_succ, Nat.mul_comm, treeLevel_map_range, ih]
    rfl

theorem vtCount_eq_pow (t : VT) : vtCount t = 2 ^ (vtCount t).log2 := by cases t <;> decide

/-- A tree over the elements of a register comes to its one value. -/
theorem fpScalar_tree (f : Val × Nat → Val × Nat → Val × Nat) (t : VT) (g : Nat → Val × Nat) :
    fpScalar (tree f (vtCount t).log2 ((List.range (vtCount t)).map g))
      = ((fp32.result 0 (Stated.joined f (vtCount t).log2 g).1).1, (Stated.joined f (vtCount t).log2 g).2) := by
  have htree : tree f (vtCount t).log2 ((List.range (vtCount t)).map g) = [Stated.joined f (vtCount t).log2 g] := by
    conv_lhs => rw [vtCount_eq_pow t, ← vtCount_eq_pow t]
    have := tree_map_range f (vtCount t).log2 g
    rwa [← vtCount_eq_pow] at this
  rw [htree]
  rfl

theorem toFp32_eq_leaf (t : VT) (vf rm bits : Nat) : toFp32 t vf rm bits = Stated.leaf t vf rm bits := by
  unfold toFp32 Stated.leaf
  rw [vtDecode_eq_valueOf]

/-! ### `vredsum`, `vredmax`, `vredmin`, `vdot` and `vext` (R51, R126, R127) -/

section
variable {t : VT} {vf : Nat} (rm mask : Nat) (a b : VReg)

/-- The active elements as integers. -/
def activeInts (t : VT) (vf mask : Nat) (a b : VReg) : List (Int × Int) :=
  ((List.range (vtCount t)).filter mask.testBit).map
    (fun i => (Stated.intOf t vf (elemGet a (vtBits t) i), Stated.intOf t vf (elemGet b (vtBits t) i)))

/-- The value of an element in the tree, or an identity of it. -/
def leafOr (t : VT) (vf rm mask : Nat) (a : VReg) (none_ : Val) (i : Nat) : Val × Nat :=
  if mask.testBit i then Stated.leaf t vf rm (elemGet a (vtBits t) i) else (none_, 0)

theorem map_fst_activeInts : (activeInts t vf mask a b).map Prod.fst
    = ((List.range (vtCount t)).filter mask.testBit).map (fun i => Stated.intOf t vf (elemGet a (vtBits t) i)) := by
  rw [activeInts, List.map_map]
  rfl

section
variable (h : Stated.integral t vf = true)
include h

theorem redSum_int : redSum t vf rm mask a = ((((activeInts t vf mask a b).map Prod.fst).sum % 2 ^ 64).toNat, 0) := by
  unfold redSum
  dsimp only
  rw [vtIntLike_eq_integral, if_pos h, intScalar_eq, map_fst_activeInts, List.sum_eq_foldl]
  simp only [elemInt_eq_intOf h]
  rw [foldl_masked mask.testBit (fun i => Stated.intOf t vf (elemGet a (vtBits t) i)) (· + ·)]

theorem dotAll_int : dotAll t vf rm mask a b = ((((activeInts t vf mask a b).map (fun p : Int × Int => p.1 * p.2)).sum % 2 ^ 64).toNat, 0) := by
  unfold dotAll
  dsimp only
  rw [vtIntLike_eq_integral, if_pos h, intScalar_eq, activeInts, List.map_map, List.sum_eq_foldl]
  simp only [elemInt_eq_intOf h]
  rw [foldl_masked mask.testBit (fun i => Stated.intOf t vf (elemGet a (vtBits t) i) * Stated.intOf t vf (elemGet b (vtBits t) i)) (· + ·)]
  rfl

theorem redMax_int : redExtreme true t vf rm mask a
    = ((((activeInts t vf mask a b).map Prod.fst).foldl max (typeRange t vf).1 % 2 ^ 64).toNat, 0) := by
  unfold redExtreme
  dsimp only
  rw [vtIntLike_eq_integral, if_pos h, intScalar_eq, map_fst_activeInts]
  simp only [elemInt_eq_intOf h, if_true]
  rw [foldl_masked mask.testBit (fun i => Stated.intOf t vf (elemGet a (vtBits t) i)) max]

theorem redMin_int : redExtreme false t vf rm mask a
    = ((((activeInts t vf mask a b).map Prod.fst).foldl min (typeRange t vf).2 % 2 ^ 64).toNat, 0) := by
  unfold redExtreme
  dsimp only
  rw [vtIntLike_eq_integral, if_pos h, intScalar_eq, map_fst_activeInts]
  simp only [elemInt_eq_intOf h, Bool.false_eq_true, if_false]
  rw [foldl_masked mask.testBit (fun i => Stated.intOf t vf (elemGet a (vtBits t) i)) min]

theorem extractElem_int (j : Nat) : extractElem t vf rm a (j % vtCount t)
    = ((Stated.intOf t vf (elemGet a (vtBits t) (j % vtCount t)) % 2 ^ 64).toNat, 0) := by
  unfold extractElem
  dsimp only
  rw [vtIntLike_eq_integral, if_pos h, elemInt_eq_intOf h, intScalar_eq, Nat.mod_mod]

end

section
variable (h : Stated.integral t vf = false)
include h

theorem not_intLike : ¬vtIntLike t vf = true := by rw [vtIntLike_eq_integral, h]; exact Bool.false_ne_true

theorem redSum_float : redSum t vf rm mask a
    = ((fp32.result 0 (Stated.joined (Stated.treeAdd rm) (vtCount t).log2 (leafOr t vf rm mask a (.fin true 0 0))).1).1,
        (Stated.joined (Stated.treeAdd rm) (vtCount t).log2 (leafOr t vf rm mask a (.fin true 0 0))).2) := by
  unfold redSum
  dsimp only
  rw [if_neg (not_intLike h), fpScalar_tree]
  simp only [toFp32_eq_leaf]
  rfl

theorem redExtreme_float (isMax : Bool) : redExtreme isMax t vf rm mask a
    = ((fp32.result 0 (Stated.joined (Stated.treeExtreme isMax) (vtCount t).log2 (leafOr t vf rm mask a (.inf isMax))).1).1,
        (Stated.joined (Stated.treeExtreme isMax) (vtCount t).log2 (leafOr t vf rm mask a (.inf isMax))).2) := by
  unfold redExtreme
  dsimp only
  rw [if_neg (not_intLike h), fpScalar_tree]
  simp only [toFp32_eq_leaf]
  rfl

/-- The product of two elements in the tree of `vdot`, or the identity of a sum. -/
def productOr (t : VT) (vf mask : Nat) (a b : VReg) (i : Nat) : Val × Nat :=
  if mask.testBit i then (Stated.valueOf t vf (elemGet a (vtBits t) i)).mul (Stated.valueOf t vf (elemGet b (vtBits t) i)) else (.fin true 0 0, 0)

theorem dotAll_float : dotAll t vf rm mask a b
    = ((fp32.result 0 (Stated.joined (Stated.treeAdd rm) (vtCount t).log2 (productOr t vf mask a b)).1).1,
        (Stated.joined (Stated.treeAdd rm) (vtCount t).log2 (productOr t vf mask a b)).2) := by
  unfold dotAll
  dsimp only
  rw [if_neg (not_intLike h), fpScalar_tree]
  simp only [vtDecode_eq_valueOf]
  rfl

theorem extractElem_float (j : Nat) : extractElem t vf rm a (j % vtCount t)
    = ((fp32.result 0 (Stated.leaf t vf rm (elemGet a (vtBits t) (j % vtCount t))).1).1,
        (Stated.leaf t vf rm (elemGet a (vtBits t) (j % vtCount t))).2) := by
  unfold extractElem
  dsimp only
  rw [if_neg (not_intLike h), toFp32_eq_leaf, Nat.mod_mod]
  rfl

end
end

/-- An operation with a scalar result. -/
theorem scalar_of {e : VOut} {o : Op} {r : Nat × Nat} {v flags : Nat} (he : e = .ofResults (o.tgts.map (fun g => (g, r.1))) r.2)
    (hr : r = (v, flags)) : Stated.Scalar e o v flags := by
  subst he hr
  exact ⟨rfl, rfl, rfl, rfl⟩

theorem reducedElements : Stated.ReducedElements := by
  unfold Stated.ReducedElements
  intro s o reg d a b t k m
  dsimp only
  have hmax := congrArg Prod.fst (typeRange_eq t o.vfmt.toNat)
  have hmin := congrArg Prod.snd (typeRange_eq t o.vfmt.toNat)
  refine ⟨fun h => ⟨?_, ?_, ?_, ?_, ?_⟩, fun h => ⟨?_, ?_, ?_, ?_, ?_⟩⟩
  · exact scalar_of rfl (redSum_int _ _ _ (reg b) h)
  · exact scalar_of rfl (dotAll_int _ _ _ _ h)
  · exact scalar_of rfl ((redMax_int _ _ _ (reg b) h).trans (by rw [hmax]; rfl))
  · exact scalar_of rfl ((redMin_int _ _ _ (reg b) h).trans (by rw [hmin]; rfl))
  · exact scalar_of rfl (extractElem_int _ _ h _)
  · exact scalar_of rfl (redSum_float _ _ _ h)
  · exact scalar_of rfl (redExtreme_float _ _ _ h true)
  · exact scalar_of rfl (redExtreme_float _ _ _ h false)
  · exact scalar_of rfl (dotAll_float _ _ _ _ h)
  · exact scalar_of rfl (extractElem_float _ _ h _)

/-! ### Ternary codes (R47, R48, R137) -/

theorem signOf_eq_sign (x : Int) : signOf x = x.sign := by
  unfold signOf
  by_cases h0 : 0 < x
  · rw [if_pos h0, Int.sign_eq_one_of_pos h0]
  · by_cases h1 : x < 0
    · rw [if_neg h0, if_pos h1, Int.sign_eq_neg_one_of_neg h1]
    · rw [if_neg h0, if_neg h1, le_antisymm (not_lt.mp h0) (not_lt.mp h1), Int.sign_zero]

theorem packTrits_range (f : Nat → Int) : packTrits ((List.range 5).map f) = ((List.range 5).map (fun i => (f i + 1).toNat * 3 ^ i)).sum := by
  simp [packTrits, List.range_succ]

theorem getD_map_range_zero (f : Nat → Nat) (n i : Nat) : ((List.range n).map f).getD i 0 = if i < n then f i else 0 := by
  by_cases hi : i < n
  · rw [getD_map_range _ _ _ _ hi, if_pos hi]
  · rw [List.getD_eq_getElem?_getD, List.getElem?_eq_none (by simpa using hi), if_neg hi]
    rfl

theorem allOnes_mod (n : Nat) : (2 ^ n - 1) % 2 ^ n = 2 ^ n - 1 := Nat.mod_eq_of_lt (Nat.sub_lt (Nat.two_pow_pos n) Nat.one_pos)

/-- A whole register of bytes, written without a flag. -/
theorem elements_bytes {k : Nat} (hk : 4096 / 8 = k) {e : VOut} {d : Fin 32} {l : List Nat} {f : Nat → Nat}
    (he : e = .ofResults [(.v d 8 (2 ^ k - 1), packElems 8 l)] 0) (hf : ∀ j, l.getD j 0 % 2 ^ 8 = f j % 2 ^ 8) :
    Stated.Elements e d 8 (2 ^ k - 1) (fun j => (f j, 0)) := by
  have hmask : (2 ^ k - 1) % 2 ^ (4096 / 8) = 2 ^ k - 1 := by
    rw [hk]
    exact allOnes_mod k
  subst he
  refine ⟨rfl, rfl, fun b => ?_, _, by rw [hmask]; rfl, fun n hn _ => ?_⟩
  · simp [VOut.ofResults]
  · rw [elemGet_packElems _ hn, hf n]

theorem badTern_none {a : VReg} (h : ∀ j, j < 96 → elemGet a 8 j < 243) : badTern a = none := by
  rw [badTern, List.find?_eq_none]
  intro j hj
  simpa using h j (List.mem_range.mp hj)

theorem find?_range_first {p : Nat → Bool} {n j : Nat} (hj : j < n) (hp : p j = true) (hfirst : ∀ i, i < j → p i = false) :
    (List.range n).find? p = some j := by
  rw [List.find?_range_eq_some]
  exact ⟨hp, List.mem_range.mpr hj, fun i hi => by simp [hfirst i hi]⟩

theorem badTern_some {a : VReg} {j : Nat} (hj : j < 96) (hbad : 243 ≤ elemGet a 8 j) (hfirst : ∀ i, i < j → elemGet a 8 i < 243) :
    badTern a = some j := by
  rw [badTern]
  exact find?_range_first hj (by simpa using hbad) fun i hi => by simpa using hfirst i hi

theorem vtunp_legal {s : State} {o : Op} {reg : Fin 32 → VReg} {a : Fin 32} (d : Fin 32) (m : Mark) (h : badTern (reg a) = none) :
    vectorEffect s o (.vtunp d a m) reg = .ofResults [(.v d 8 (2 ^ 512 - 1), ternUnpack (reg a))] 0 := by
  rw [vectorEffect, h]

theorem vtunp_illegal {s : State} {o : Op} {reg : Fin 32 → VReg} {a : Fin 32} {j : Nat} (d : Fin 32) (m : Mark) (h : badTern (reg a) = some j) :
    vectorEffect s o (.vtunp d a m) reg = .ofFault .illtrit (BitVec.ofNat 64 j) := by
  rw [vectorEffect, h]

theorem quantElem_eq (x θ : Val) : quantElem x θ
    = if x.isNan || θ.isNan then (0, 4) else if θ.lt x then (1, 0) else if x.lt θ.neg then (2 ^ 32 - 1, 0) else (0, 0) := by
  have hlow : lowBits 32 (-1) = 2 ^ 32 - 1 := by decide
  unfold quantElem
  rw [hlow]
  by_cases hn : (x.isNan || θ.isNan) = true
  · rw [if_pos hn, if_pos hn, if_pos hn]
    rfl
  · rw [if_neg hn, if_neg hn, if_neg hn]
    split
    · rfl
    · split <;> rfl

theorem ternaryElements : Stated.TernaryElements := by
  unfold Stated.TernaryElements
  intro s o reg d a b kd k m
  dsimp only
  refine ⟨?_, fun hlegal => ?_, fun j hj hbad hfirst => ?_, ?_, rfl, rfl, _, rfl, fun j => ?_⟩
  · refine elements_bytes (k := 512) rfl rfl fun j => ?_
    rw [getD_map_range_zero]
    split
    · rw [packTrits_range]
      simp only [signOf_eq_sign]
    · rfl
  · refine elements_bytes (k := 512) rfl (vtunp_legal d m (badTern_none hlegal)) fun i => ?_
    rw [getD_map_range_zero]
    rfl
  · rw [vtunp_illegal d m (badTern_some hj hbad hfirst)]
    exact ⟨rfl, rfl, rfl⟩
  · exact elements_of_eq rfl fun n _ _ => quantElem_eq _ _
  · rw [ternCheck, testBit_packBits]
    by_cases hj : j < 96
    · rw [getD_map_range _ _ _ _ hj]
      simp [hj]
    · rw [List.getD_eq_getElem?_getD, List.getElem?_eq_none (by simpa using hj)]
      simp [hj]

end Sys2Proof.Laws
end

section
/-! ## The special functions -/

namespace Sys2Proof.Laws
open Sys2Proof.Machine Sys2Proof.Safety

/-! ### Rounding does not depend on how a magnitude is written (R39) -/

theorem log2_mul_two_pow {m : Nat} (hm : m ≠ 0) (a : Nat) : (m * 2 ^ a).log2 = m.log2 + a := by
  rw [Nat.log2_eq_iff (Nat.mul_ne_zero hm (Nat.two_pow_pos a).ne')]
  constructor
  · rw [Nat.pow_add]
    exact Nat.mul_le_mul_right _ (Nat.log2_self_le hm)
  · rw [Nat.add_right_comm, Nat.pow_add]
    exact Nat.mul_lt_mul_of_pos_right Nat.lt_log2_self (Nat.two_pow_pos a)

theorem expOf_mul_two_pow {m : Nat} (hm : m ≠ 0) (a : Nat) (q : Int) : expOf (m * 2 ^ a) q = expOf m (q + a) := by
  rw [expOf, expOf, log2_mul_two_pow hm]
  push_cast
  ring

theorem roundGrid_of_le {q e : Int} (h : q ≤ e) (rm : Nat) (neg : Bool) (m : Nat) :
    roundGrid rm neg m e q = (m * 2 ^ (e - q).toNat, false) := if_pos h

theorem roundsUp_mul_two_pow (rm : Nat) (neg : Bool) (k r d a : Nat) : roundsUp rm neg k (r * 2 ^ a) (d + a) = roundsUp rm neg k r d := by
  have hpos := Nat.two_pow_pos a
  by_cases hr : r = 0
  · subst hr
    rw [Nat.zero_mul]
    rfl
  · have hra : r * 2 ^ a ≠ 0 := Nat.mul_ne_zero hr hpos.ne'
    have hlt : (2 ^ (d + a) < 2 * (r * 2 ^ a)) = (2 ^ d < 2 * r) := by
      rw [Nat.pow_add, ← Nat.mul_assoc, Nat.mul_lt_mul_right hpos]
    have heq : (2 * (r * 2 ^ a) = 2 ^ (d + a)) = (2 * r = 2 ^ d) := by
      rw [Nat.pow_add, ← Nat.mul_assoc, Nat.mul_left_inj hpos.ne']
    unfold roundsUp
    simp only [hlt, heq, if_neg hr, if_neg hra]

theorem roundGrid_mul_two_pow (rm : Nat) (neg : Bool) (m a : Nat) (q g : Int) : roundGrid rm neg (m * 2 ^ a) q g = roundGrid rm neg m (q + a) g := by
  by_cases h1 : g ≤ q
  · have hexp : (q + a - g).toNat = a + (q - g).toNat := by omega
    rw [roundGrid_of_le h1, roundGrid_of_le (by omega), hexp, Nat.pow_add, Nat.mul_assoc]
  · have hd : (g - q).toNat ≠ 0 := by omega
    by_cases h2 : g ≤ q + a
    · have hexp : a = (q + a - g).toNat + (g - q).toNat := by omega
      have hdvd : m * 2 ^ a = m * 2 ^ (q + a - g).toNat * 2 ^ (g - q).toNat := by rw [Nat.mul_assoc, ← Nat.pow_add, ← hexp]
      rw [roundGrid_of_le h2, roundGrid, if_neg h1]
      dsimp only
      rw [hdvd, Nat.mul_div_cancel _ (Nat.two_pow_pos _), Nat.mul_mod_left]
      rfl
    · have hexp : (g - q).toNat = (g - (q + a)).toNat + a := by omega
      have hdiv : m * 2 ^ a / 2 ^ (g - q).toNat = m / 2 ^ (g - (q + a)).toNat := by
        rw [hexp, Nat.pow_add, Nat.mul_div_mul_right _ _ (Nat.two_pow_pos a)]
      have hmod : m * 2 ^ a % 2 ^ (g - q).toNat = m % 2 ^ (g - (q + a)).toNat * 2 ^ a := by
        rw [hexp, Nat.pow_add, Nat.mul_mod_mul_right]
      have hne : (m % 2 ^ (g - (q + a)).toNat * 2 ^ a ≠ 0) = (m % 2 ^ (g - (q + a)).toNat ≠ 0) := by
        simp
      rw [roundGrid, roundGrid, if_neg h1, if_neg h2]
      dsimp only
      rw [hdiv, hmod, hexp, roundsUp_mul_two_pow]
      simp only [hne]

theorem encode_mul_two_pow (f : Fmt) (rm : Nat) (ov : Overflow) (infStays neg : Bool) (m a : Nat) (q : Int) :
    f.encode rm ov infStays (.fin neg (m * 2 ^ a) q) = f.encode rm ov infStays (.fin neg m (q + a)) := by
  by_cases hm : m = 0
  · subst hm
    rw [Nat.zero_mul]
    rfl
  · have hma : m * 2 ^ a ≠ 0 := Nat.mul_ne_zero hm (Nat.two_pow_pos a).ne'
    unfold Fmt.encode
    dsimp only
    rw [if_neg hm, if_neg hma, expOf_mul_two_pow hm, roundGrid_mul_two_pow]

/-- Rounding to the nearest, ties to even: the multiple of 2^d, and whether it differs. -/
theorem roundGrid_nearest {m : Nat} {e q : Int} (neg : Bool) {d : Nat} (h : e < q) (hd : (q - e).toNat = d) :
    2 * ((roundGrid 0 neg m e q).1 * 2 ^ d) ≤ 2 * m + 2 ^ d ∧ 2 * m ≤ 2 * ((roundGrid 0 neg m e q).1 * 2 ^ d) + 2 ^ d
      ∧ ((2 * ((roundGrid 0 neg m e q).1 * 2 ^ d) = 2 * m + 2 ^ d ∨ 2 * m = 2 * ((roundGrid 0 neg m e q).1 * 2 ^ d) + 2 ^ d)
        → (roundGrid 0 neg m e q).1 % 2 = 0)
      ∧ ((roundGrid 0 neg m e q).2 = true ↔ m % 2 ^ d ≠ 0) ∧ (m % 2 ^ d = 0 → (roundGrid 0 neg m e q).1 * 2 ^ d = m) := by
  have hpos := Nat.two_pow_pos d
  have hsplit : m / 2 ^ d * 2 ^ d + m % 2 ^ d = m := Nat.div_add_mod' ..
  have hlt := Nat.mod_lt m hpos
  have hgrid : roundGrid 0 neg m e q
      = (if roundsUp 0 neg (m / 2 ^ d) (m % 2 ^ d) d then m / 2 ^ d + 1 else m / 2 ^ d, decide (m % 2 ^ d ≠ 0)) := by
    rw [roundGrid, if_neg (not_le.mpr h), hd]
  have hup : roundsUp 0 neg (m / 2 ^ d) (m % 2 ^ d) d = true ↔
      2 ^ d < 2 * (m % 2 ^ d) ∨ (2 * (m % 2 ^ d) = 2 ^ d ∧ m / 2 ^ d % 2 = 1) := by
    unfold roundsUp
    by_cases hr : m % 2 ^ d = 0
    · simp only [hr, if_true]
      simp [hpos.ne]
    · simp [hr]
  rw [hgrid]
  dsimp only
  generalize m / 2 ^ d = k at *
  generalize m % 2 ^ d = r at *
  generalize 2 ^ d = D at *
  by_cases h1 : roundsUp 0 neg k r d = true
  · rw [if_pos h1]
    have h1 := hup.mp h1
    have hexp : (k + 1) * D = k * D + D := by ring
    rw [hexp]
    refine ⟨by omega, by omega, fun ht => by omega, by simp, fun h0 => by omega⟩
  · rw [if_neg h1]
    have h1 := mt hup.mpr h1
    refine ⟨by omega, by omega, fun ht => by omega, by simp, fun h0 => by omega⟩

/-! ### The formats of the SFU (R35, R133) -/

theorem expOf_one (i : Int) : expOf 1 i = i := by
  have : Nat.log2 1 = 0 := by decide
  rw [expOf, this]
  exact Int.add_zero i

/-- Less than half a step rounds to nothing. -/
theorem roundGrid_one_below {i q : Int} (neg : Bool) (h : i < q) : roundGrid 0 neg 1 i q = (0, true) := by
  obtain ⟨d, hd⟩ : ∃ d, (q - i).toNat = d + 1 := ⟨_, (Nat.sub_add_cancel (by omega : 1 ≤ (q - i).toNat)).symm⟩
  have hpow : 2 ≤ 2 ^ (d + 1) := by
    have := Nat.two_pow_pos d
    rw [Nat.pow_succ]
    omega
  have hup : roundsUp 0 neg 0 1 (d + 1) = false := by
    unfold roundsUp
    simp
  rw [roundGrid, if_neg (not_le.mpr h), hd]
  dsimp only
  rw [Nat.div_eq_of_lt (by omega), Nat.mod_eq_of_lt (by omega), hup]
  rfl

theorem result_zero (f : Fmt) (rm : Nat) (neg : Bool) (q : Int) : f.result rm (.fin neg 0 q) = (f.signed neg 0, 0) := by
  unfold Fmt.result Fmt.encode
  exact if_pos rfl

/-- An IEEE format and a number of bits that its significands hold. -/
structure Keeps (f : Fmt) (p : Nat) : Prop where
  spec : f.spec = 0
  digits_pos : 1 ≤ p
  digits_le : p ≤ f.m + 1
  digits_small : p ≤ 15
  exponents : (2 ^ f.e : Nat) = 2 * f.bias + 2
  mantissa_le : (f.m : Int) + 4 ≤ f.bias
  bias_small : f.bias + f.m < 1000
  range : f.bias + f.m < 2 ^ p

theorem sfuFmt_keeps {t : VT} (ht : t.isFloat = true) : Keeps (sfuFmt t) (sfuBits t) := by
  cases t with
  | i8 | i16 | i32 | i4 | nf8 => exact absurd ht Bool.false_ne_true
  | f32 => exact ⟨rfl, by decide, by decide, by decide, by decide, by decide, by decide, by decide⟩
  | bf16 => exact ⟨rfl, by decide, by decide, by decide, by decide, by decide, by decide, by decide⟩
  | f16 => exact ⟨rfl, by decide, by decide, by decide, by decide, by decide, by decide, by decide⟩

theorem sfuFormat_eq (t : VT) : Stated.sfuFormat t = sfuFmt t := by cases t <;> rfl

theorem sfuDigits_eq (t : VT) : Stated.sfuDigits t = sfuBits t := by cases t <;> rfl

section
variable {f : Fmt} {p : Nat} (hf : Keeps f p)
include hf

theorem Keeps.maxCode_eq : (f.maxCode : Int) = (2 * f.bias + 1) * 2 ^ f.m - 1 := by
  have hexp := hf.exponents
  have hpos : 1 ≤ (2 ^ f.e - 1) * 2 ^ f.m := by
    have : 0 < 2 ^ f.e - 1 := by have := hf.mantissa_le; omega
    exact Nat.mul_pos this (Nat.two_pow_pos _)
  have hone : ((2 ^ f.e - 1 : Nat) : Int) = 2 * f.bias + 1 := by have := hf.mantissa_le; omega
  unfold Fmt.maxCode
  simp only [hf.spec, if_true]
  rw [Nat.cast_sub hpos, Nat.cast_mul, hone]
  push_cast
  ring

/-- A finite magnitude in the range of a format that its significands hold is encoded as it is, without a flag. -/
theorem encode_flags_exact {j : Nat} {q : Int} (neg : Bool) (hj : j ≠ 0) (hlt : j < 2 ^ (f.m + 1)) (hlo : 1 - f.bias ≤ expOf j q)
    (hhi : expOf j q ≤ f.bias) : (f.result 0 (.fin neg j q)).2 = 0 := by
  have hlog : j.log2 ≤ f.m := Nat.lt_succ_iff.mp ((Nat.log2_lt hj).mpr hlt)
  have hq : max (expOf j q - f.m) (1 - f.bias - f.m) = expOf j q - f.m := by omega
  have hle : expOf j q - f.m ≤ q := by
    have : expOf j q = q + j.log2 := rfl
    omega
  have hexp : (q - (expOf j q - f.m)).toNat = f.m - j.log2 := by
    have : expOf j q = q + j.log2 := rfl
    omega
  have hmag : j * 2 ^ (f.m - j.log2) < 2 * 2 ^ f.m := by
    have h1 : j < 2 ^ (j.log2 + 1) := Nat.lt_log2_self
    calc j * 2 ^ (f.m - j.log2) < 2 ^ (j.log2 + 1) * 2 ^ (f.m - j.log2) := Nat.mul_lt_mul_of_pos_right h1 (Nat.two_pow_pos _)
      _ = 2 ^ (f.m + 1) := by rw [← Nat.pow_add]; congr 1; omega
      _ = 2 * 2 ^ f.m := by rw [Nat.pow_succ, Nat.mul_comm]
  have hcode : ((expOf j q - f.m + f.m + f.bias) * 2 ^ f.m + ((j * 2 ^ (f.m - j.log2) : Nat) : Int) - 2 ^ f.m).toNat ≤ f.maxCode := by
    have hmax := hf.maxCode_eq
    have hscale : (expOf j q + f.bias) * (2 : Int) ^ f.m ≤ (2 * f.bias) * 2 ^ f.m :=
      mul_le_mul_of_nonneg_right (by omega) (by positivity)
    have hmagz : ((j * 2 ^ (f.m - j.log2) : Nat) : Int) < 2 * 2 ^ f.m := by exact_mod_cast hmag
    have hexpand : (2 * f.bias + 1) * (2 : Int) ^ f.m = 2 * f.bias * 2 ^ f.m + 2 ^ f.m := by ring
    rw [Int.sub_add_cancel]
    omega
  unfold Fmt.result Fmt.encode
  dsimp only
  rw [if_neg hj, hq, roundGrid_of_le hle, hexp]
  dsimp only
  rw [if_neg (not_lt.mpr hcode)]
  rfl

/-- A power of two past the range of a format overflows. -/
theorem result_pow_overflow {i : Int} (h : f.bias < i) : f.result 0 (.fin false 1 i) = ((2 ^ f.e - 1) * 2 ^ f.m, flagOF ||| flagNX) := by
  have hexpOf := expOf_one i
  have hq : max (expOf 1 i - f.m) (1 - f.bias - f.m) = i - f.m := by
    have := hf.mantissa_le
    omega
  have hcode : f.maxCode < ((i - f.m + f.m + f.bias) * 2 ^ f.m + ((1 * 2 ^ f.m : Nat) : Int) - 2 ^ f.m).toNat := by
    have hmax := hf.maxCode_eq
    have hscale : (2 * f.bias + 1) * (2 : Int) ^ f.m ≤ (i + f.bias) * 2 ^ f.m := mul_le_mul_of_nonneg_right (by omega) (by positivity)
    have hone : ((1 * 2 ^ f.m : Nat) : Int) = 2 ^ f.m := by push_cast; ring
    rw [Int.sub_add_cancel, hone]
    omega
  unfold Fmt.result Fmt.encode
  dsimp only
  rw [if_neg Nat.one_ne_zero, hq, roundGrid_of_le (by omega), show (i - (i - f.m)).toNat = f.m from by omega]
  dsimp only
  rw [if_pos hcode, if_pos rfl]
  rfl

omit hf in
/-- A power of two below half of the least magnitude of a format comes to 0. -/
theorem result_pow_underflow {i : Int} (h : i < 1 - f.bias - f.m) : f.result 0 (.fin false 1 i) = (0, flagUF ||| flagNX) := by
  have hexpOf := expOf_one i
  have hq : max (expOf 1 i - f.m) (1 - f.bias - f.m) = 1 - f.bias - f.m := by omega
  have hround := roundGrid_one_below false h
  have hcode : ((1 - f.bias - f.m + f.m + f.bias) * 2 ^ f.m + ((0 : Nat) : Int) - 2 ^ f.m).toNat = 0 := by
    have : (1 - f.bias - f.m + f.m + f.bias) = 1 := by omega
    rw [this]
    simp
  unfold Fmt.result Fmt.encode
  dsimp only
  rw [if_neg Nat.one_ne_zero, hq, hround]
  dsimp only
  rw [hcode, if_neg (by omega), if_pos rfl, if_pos (by simpa [hexpOf] using by omega)]
  rfl

end

/-! ### The rounding of R133 -/

/-- The grid of R133. -/
def sfuGrid (t : VT) (m : Nat) (e : Int) : Int := max (expOf m e - sfuBits t + 1) (1 - (sfuFmt t).bias - (sfuFmt t).m)

theorem sfuRound_fin (t : VT) {flush neg : Bool} {m : Nat} {e : Int} (hm : m ≠ 0) (hflush : ¬(flush = true ∧ expOf m e < 1 - (sfuFmt t).bias)) :
    sfuRound t flush (.fin neg m e)
      = (((sfuFmt t).result 0 (.fin neg (roundGrid 0 neg m e (sfuGrid t m e)).1 (sfuGrid t m e))).1,
        ((sfuFmt t).result 0 (.fin neg (roundGrid 0 neg m e (sfuGrid t m e)).1 (sfuGrid t m e))).2
          ||| (if (roundGrid 0 neg m e (sfuGrid t m e)).2 then (if expOf m e < 1 - (sfuFmt t).bias then flagUF ||| flagNX else flagNX) else 0)) := by
  unfold sfuRound
  dsimp only
  rw [if_neg hm, if_neg (by simpa using hflush)]
  rfl

/-- What is on the grid of R133 already is only encoded. -/
theorem sfuRound_on_grid (t : VT) {neg : Bool} {m : Nat} {e : Int} (hm : m ≠ 0) (hgrid : sfuGrid t m e ≤ e) :
    sfuRound t false (.fin neg m e) = (sfuFmt t).result 0 (.fin neg m e) := by
  have hexp : sfuGrid t m e + ((e - sfuGrid t m e).toNat : Int) = e := by omega
  rw [sfuRound_fin t hm (by simp), roundGrid_of_le hgrid]
  dsimp only [Fmt.result]
  rw [encode_mul_two_pow, hexp]
  exact Prod.ext rfl (Nat.or_zero _)

theorem sfuRound_pow (t : VT) (ht : t.isFloat = true) (i : Int) : sfuRound t false (.fin false 1 i) = (sfuFmt t).result 0 (.fin false 1 i) := by
  have hk := sfuFmt_keeps ht
  have hdp := hk.digits_pos
  have hexpOf := expOf_one i
  have hgrid : sfuGrid t 1 i = max (i - sfuBits t + 1) (1 - (sfuFmt t).bias - (sfuFmt t).m) := by rw [sfuGrid, hexpOf]
  by_cases h : sfuGrid t 1 i ≤ i
  · exact sfuRound_on_grid t Nat.one_ne_zero h
  · have hlow : i < 1 - (sfuFmt t).bias - (sfuFmt t).m := by omega
    have hq : sfuGrid t 1 i = 1 - (sfuFmt t).bias - (sfuFmt t).m := by omega
    have hround : roundGrid 0 false 1 i (1 - (sfuFmt t).bias - (sfuFmt t).m) = _ := roundGrid_one_below false (by omega)
    rw [sfuRound_fin t Nat.one_ne_zero (by simp), result_pow_underflow hlow, hq, hround, hexpOf]
    dsimp only
    rw [result_zero, if_pos rfl, if_pos (by omega)]
    exact Prod.ext rfl (Nat.zero_or _)

/-! ### The values of R134 -/

/-- A function of the SFU at a value. -/
def sfuOut (fn : SfuFn) (t : VT) (x : Val) : Nat × Nat :=
  ((sfuRound t (fn == .rcp) (sfuValue fn x).1).1, (sfuRound t (fn == .rcp) (sfuValue fn x).1).2 ||| (sfuValue fn x).2)

theorem sfuElem_eq_sfuOut (fn : SfuFn) (t : VT) (bits : Nat) : sfuElem fn t bits = sfuOut fn t ((sfuFmt t).decode bits) := rfl

/-- The code of a value in a type of the SFU. -/
def sfuCode (t : VT) (v : Val) : Nat := ((sfuFmt t).result 0 v).1

theorem sfuOut_of {fn : SfuFn} {t : VT} {x v : Val} {flags : Nat} (hv : sfuValue fn x = (v, flags))
    (hr : sfuRound t (fn == .rcp) v = (sfuCode t v, 0)) : sfuOut fn t x = (sfuCode t v, flags) := by
  rw [sfuOut, hv]
  dsimp only
  rw [hr]
  exact Prod.ext rfl (Nat.zero_or _)

section
variable {t : VT} (ht : t.isFloat = true)
include ht

theorem sfuRound_nan (flush : Bool) : sfuRound t flush (.nan false) = (sfuCode t (.nan false), 0) := by
  refine Prod.ext rfl ?_
  have hcode : (sfuFmt t).nanCode = some ((2 ^ (sfuFmt t).e - 1) * 2 ^ (sfuFmt t).m + 2 ^ ((sfuFmt t).m - 1)) := if_pos (sfuFmt_keeps ht).spec
  have hround : sfuRound t flush (.nan false) = (sfuFmt t).encode 0 .ieee true (.nan false) := rfl
  rw [hround, Fmt.encode, hcode]

theorem sfuRound_inf (flush neg : Bool) : sfuRound t flush (.inf neg) = (sfuCode t (.inf neg), 0) := by
  refine Prod.ext rfl ?_
  have hround : sfuRound t flush (.inf neg) = (sfuFmt t).encode 0 .ieee true (.inf neg) := rfl
  rw [hround, Fmt.encode, if_pos (by simp [(sfuFmt_keeps ht).spec])]

omit ht in
theorem sfuRound_zero (flush neg : Bool) (e : Int) : sfuRound t flush (.fin neg 0 e) = (sfuCode t (.fin neg 0 e), 0) := by
  have hround : sfuRound t flush (.fin neg 0 e) = (sfuFmt t).result 0 (.fin neg 0 e) := by
    unfold sfuRound
    exact if_pos rfl
  rw [hround, sfuCode, result_zero]

/-- An integer multiple of a power of two in range that the significands of R133 hold. -/
theorem sfuRound_small {neg : Bool} {j : Nat} {e : Int} (hj : j ≠ 0) (hlt : j < 2 ^ sfuBits t) (hlo : 1 - (sfuFmt t).bias ≤ e)
    (hhi : expOf j e ≤ (sfuFmt t).bias) : sfuRound t false (.fin neg j e) = (sfuCode t (.fin neg j e), 0) := by
  have hk := sfuFmt_keeps ht
  have hdigits := hk.digits_le
  have hlog : j.log2 < sfuBits t := (Nat.log2_lt hj).mpr hlt
  have hexp : expOf j e = e + j.log2 := rfl
  have hgrid : sfuGrid t j e ≤ e := by
    rw [sfuGrid]
    omega
  have hflags := encode_flags_exact hk neg hj (lt_of_lt_of_le hlt (Nat.pow_le_pow_right (by omega) hdigits)) (by omega) hhi
  rw [sfuRound_on_grid t hj hgrid]
  exact Prod.ext rfl hflags

theorem sfuRound_one (neg : Bool) : sfuRound t false (.fin neg 1 0) = (sfuCode t (.fin neg 1 0), 0) := by
  have hk := sfuFmt_keeps ht
  have hbias := hk.mantissa_le
  exact sfuRound_small ht one_ne_zero (Nat.one_lt_two_pow (by have := hk.digits_pos; omega)) (by omega) (by rw [expOf_one]; omega)

theorem sfuRound_half : sfuRound t false (.fin false 1 (-1)) = (sfuCode t (.fin false 1 (-1)), 0) := by
  have hk := sfuFmt_keeps ht
  have hbias := hk.mantissa_le
  exact sfuRound_small ht one_ne_zero (Nat.one_lt_two_pow (by have := hk.digits_pos; omega)) (by omega) (by rw [expOf_one]; omega)

theorem sfuOut_nan (fn : SfuFn) (sig : Bool) : sfuOut fn t (.nan sig) = (sfuCode t (.nan false), if sig then 4 else 0) :=
  sfuOut_of rfl (sfuRound_nan ht _)

end

/-- What the table of R134 says of a function. -/
structure Tabled (fn : SfuFn) (t : VT) (c : (Bool → Val × Nat) × (Bool → Val × Nat) × Bool) : Prop where
  zero : ∀ neg e, sfuOut fn t (.fin neg 0 e) = (sfuCode t (c.1 neg).1, (c.1 neg).2)
  inf : ∀ neg, sfuOut fn t (.inf neg) = (sfuCode t (c.2.1 neg).1, (c.2.1 neg).2)
  negative : c.2.2 = true → ∀ y e, y ≠ 0 → sfuOut fn t (.fin true y e) = (sfuCode t (.nan false), 4)

section
variable {t : VT} (ht : t.isFloat = true)
include ht

theorem tabled_rcp : Tabled .rcp t (fun neg => (.inf neg, 8), fun neg => (.fin neg 0 0, 0), false) where
  zero neg _ := sfuOut_of rfl (sfuRound_inf ht _ neg)
  inf neg := sfuOut_of rfl (sfuRound_zero _ neg 0)
  negative h := absurd h Bool.false_ne_true

theorem tabled_rsq : Tabled .rsq t (fun neg => (.inf neg, 8), fun neg => if neg then (.nan false, 4) else (.fin false 0 0, 0), true) where
  zero neg _ := sfuOut_of rfl (sfuRound_inf ht _ neg)
  inf
    | true => sfuOut_of rfl (sfuRound_nan ht _)
    | false => sfuOut_of rfl (sfuRound_zero _ false 0)
  negative _ _ _ hy := sfuOut_of (if_neg hy) (sfuRound_nan ht _)

theorem tabled_exp2 : Tabled .exp2 t (fun _ => (.fin false 1 0, 0), fun neg => if neg then (.fin false 0 0, 0) else (.inf false, 0), false) where
  zero _ _ := sfuOut_of rfl (sfuRound_one ht false)
  inf
    | true => sfuOut_of rfl (sfuRound_zero _ false 0)
    | false => sfuOut_of rfl (sfuRound_inf ht _ false)
  negative h := absurd h Bool.false_ne_true

theorem tabled_log2 : Tabled .log2 t (fun _ => (.inf true, 8), fun neg => if neg then (.nan false, 4) else (.inf false, 0), true) where
  zero _ _ := sfuOut_of rfl (sfuRound_inf ht _ true)
  inf
    | true => sfuOut_of rfl (sfuRound_nan ht _)
    | false => sfuOut_of rfl (sfuRound_inf ht _ false)
  negative _ _ _ hy := sfuOut_of (if_neg hy) (sfuRound_nan ht _)

theorem tabled_sin : Tabled .sin t (fun neg => (.fin neg 0 0, 0), fun _ => (.nan false, 4), false) where
  zero neg _ := sfuOut_of rfl (sfuRound_zero _ neg 0)
  inf _ := sfuOut_of rfl (sfuRound_nan ht _)
  negative h := absurd h Bool.false_ne_true

theorem tabled_cos : Tabled .cos t (fun _ => (.fin false 1 0, 0), fun _ => (.nan false, 4), false) where
  zero _ _ := sfuOut_of rfl (sfuRound_one ht false)
  inf _ := sfuOut_of rfl (sfuRound_nan ht _)
  negative h := absurd h Bool.false_ne_true

theorem tabled_tanh : Tabled .tanh t (fun neg => (.fin neg 0 0, 0), fun neg => (.fin neg 1 0, 0), false) where
  zero neg _ := sfuOut_of rfl (sfuRound_zero _ neg 0)
  inf neg := sfuOut_of rfl (sfuRound_one ht neg)
  negative h := absurd h Bool.false_ne_true

theorem tabled_sigm : Tabled .sigm t
    (fun _ => (.fin false 1 (-1), 0), fun neg => if neg then (.fin false 0 0, 0) else (.fin false 1 0, 0), false) where
  zero _ _ := sfuOut_of rfl (sfuRound_half ht)
  inf
    | true => sfuOut_of rfl (sfuRound_zero _ false 0)
    | false => sfuOut_of rfl (sfuRound_one ht false)
  negative h := absurd h Bool.false_ne_true

end

/-! ### The range of a format's numbers (R43) -/

theorem decode_range {f : Fmt} {p : Nat} (hf : Keeps f p) {bits y : Nat} {neg : Bool} {e : Int} (h : f.decode bits = .fin neg y e) (hy : y ≠ 0) :
    1 - f.bias - f.m ≤ expOf y e ∧ expOf y e ≤ f.bias := by
  have hmlt : fieldOf bits 0 f.m < 2 ^ f.m := Nat.mod_lt _ (Nat.two_pow_pos _)
  have helt : fieldOf bits f.m f.e < 2 ^ f.e := Nat.mod_lt _ (Nat.two_pow_pos _)
  have hexps := hf.exponents
  have hman := hf.mantissa_le
  unfold Fmt.decode at h
  simp only [hf.spec, true_and, zero_ne_one, false_and, if_false] at h
  split at h
  · split at h <;> cases h
  · next hmax =>
    split at h
    · obtain ⟨-, rfl, rfl⟩ := Val.fin.inj h
      have hlog := (Nat.log2_lt hy).mpr hmlt
      have hexp : expOf (fieldOf bits 0 f.m) (1 - f.bias - f.m) = 1 - f.bias - f.m + (fieldOf bits 0 f.m).log2 := rfl
      omega
    · next he0 =>
      obtain ⟨-, rfl, rfl⟩ := Val.fin.inj h
      have hlog : (2 ^ f.m + fieldOf bits 0 f.m).log2 = f.m := by
        rw [Nat.log2_eq_iff hy, Nat.pow_succ]
        omega
      have hexp : expOf (2 ^ f.m + fieldOf bits 0 f.m) (fieldOf bits f.m f.e - f.bias - f.m)
          = fieldOf bits f.m f.e - f.bias - f.m + f.m := by rw [expOf, hlog]
      omega

/-! ### Powers of two (R133) -/

/-- A magnitude that is a whole number a. -/
theorem whole_magnitude {y a : Nat} {e : Int} (h : (y : ℚ) * (2 : ℚ) ^ e = a) :
    (∃ n : Nat, e = n ∧ a = y * 2 ^ n) ∨ (∃ n : Nat, e = -(n : Int) ∧ y = a * 2 ^ n) := by
  obtain ⟨n, rfl | rfl⟩ := Int.eq_nat_or_neg e
  · refine Or.inl ⟨n, rfl, ?_⟩
    rw [zpow_natCast] at h
    exact_mod_cast h.symm
  · refine Or.inr ⟨n, rfl, ?_⟩
    have hpos : (2 : ℚ) ^ n ≠ 0 := by positivity
    rw [zpow_neg, zpow_natCast] at h
    have hy : (y : ℚ) = a * 2 ^ n := by
      rw [← h]
      field_simp
    exact_mod_cast hy

section
variable {y a : Nat} {e : Int} (hy : y ≠ 0) (h : (y : ℚ) * (2 : ℚ) ^ e = a)
include hy h

theorem whole_ne_zero : a ≠ 0 := by
  rintro rfl
  have hpos : (0 : ℚ) < (y : ℚ) * (2 : ℚ) ^ e := by
    have : (0 : ℚ) < y := by exact_mod_cast Nat.pos_of_ne_zero hy
    positivity
  rw [h] at hpos
  exact absurd hpos (by simp)

theorem expOf_whole : expOf y e = a.log2 := by
  obtain ⟨n, rfl, rfl⟩ | ⟨n, rfl, rfl⟩ := whole_magnitude h
  · rw [log2_mul_two_pow hy, expOf]
    push_cast
    ring
  · have ha : a ≠ 0 := by
      rintro rfl
      exact hy (Nat.zero_mul _)
    rw [expOf, log2_mul_two_pow ha]
    push_cast
    ring

omit hy in
theorem toFixed_whole : toFixed y e = a * fxOne := by
  obtain ⟨n, rfl, rfl⟩ | ⟨n, rfl, rfl⟩ := whole_magnitude h
  · rw [toFixed, if_pos (by omega), show ((n : Int) + fracBits).toNat = n + fracBits from by omega, Nat.pow_add, ← Nat.mul_assoc]
    rfl
  · unfold toFixed
    split
    · next hle =>
      rw [Nat.mul_assoc, ← Nat.pow_add, show n + (-(n : Int) + fracBits).toNat = fracBits from by omega]
      rfl
    · next hlt =>
      have hsplit : 2 ^ n = fxOne * 2 ^ (-(-(n : Int) + fracBits)).toNat := by
        rw [fxOne, ← Nat.pow_add]
        congr 1
        omega
      rw [hsplit, ← Nat.mul_assoc, Nat.mul_div_cancel _ (Nat.two_pow_pos _)]

omit hy in
theorem whole_has_no_fraction : e ≥ 0 ∨ y % 2 ^ (-e).toNat = 0 := by
  obtain ⟨n, rfl, -⟩ | ⟨n, rfl, rfl⟩ := whole_magnitude h
  · exact Or.inl (by omega)
  · refine Or.inr ?_
    rw [show (-(-(n : Int))).toNat = n from by omega, Nat.mul_mod_left]

theorem exp2Val_whole (neg : Bool) : exp2Val neg y e
    = if 4096 ≤ a then (if neg then .fin false 1 (-1000) else .fin false 1 4096) else .fin false 1 (if neg then -(a : Int) else a) := by
  have ha := whole_ne_zero hy h
  have hbig : (12 ≤ expOf y e) = (4096 ≤ a) := by
    rw [expOf_whole hy h, show (4096 : Nat) = 2 ^ 12 from rfl, ← Nat.le_log2 ha]
    simp
  have hone : 0 < fxOne := Nat.two_pow_pos _
  unfold exp2Val
  simp only [hbig]
  split
  · rfl
  · simp only [toFixed_whole h]
    rw [if_pos ⟨Nat.mul_mod_left .., whole_has_no_fraction h⟩, Nat.mul_div_cancel _ hone]

end

/-- `vexp2` at an integer (R133). -/
theorem exp2_at_integer {t : VT} (ht : t.isFloat = true) {neg : Bool} {y : Nat} {e i : Int} (hy : y ≠ 0)
    (hi : (if neg then -(y : ℚ) else y) * (2 : ℚ) ^ e = i) : sfuOut .exp2 t (.fin neg y e) = (sfuFmt t).result 0 (.fin false 1 i) := by
  have hk := sfuFmt_keeps ht
  have hsmall := hk.bias_small
  have hman := hk.mantissa_le
  obtain ⟨a, ha, hia⟩ : ∃ a : Nat, (y : ℚ) * (2 : ℚ) ^ e = a ∧ i = if neg then -(a : Int) else a := by
    have hpos : (0 : ℚ) ≤ (y : ℚ) * (2 : ℚ) ^ e := by positivity
    cases neg with
    | false =>
      have hi' : (y : ℚ) * (2 : ℚ) ^ e = i := hi
      rw [hi'] at hpos
      have hnn : 0 ≤ i := by exact_mod_cast hpos
      refine ⟨i.toNat, ?_, (Int.toNat_of_nonneg hnn).symm⟩
      rw [hi']
      exact_mod_cast (Int.toNat_of_nonneg hnn).symm
    | true =>
      have hi' : (y : ℚ) * (2 : ℚ) ^ e = ((-i : Int) : ℚ) := by
        have : -(y : ℚ) * (2 : ℚ) ^ e = i := hi
        push_cast
        linarith
      rw [hi'] at hpos
      have hnn : 0 ≤ -i := by exact_mod_cast hpos
      refine ⟨(-i).toNat, ?_, ?_⟩
      · rw [hi']
        exact_mod_cast (Int.toNat_of_nonneg hnn).symm
      · rw [if_pos rfl, Int.toNat_of_nonneg hnn, neg_neg]
  have hval : sfuValue .exp2 (.fin neg y e) = (exp2Val neg y e, 0) := if_neg hy
  have hout {j : Int} (hj : exp2Val neg y e = .fin false 1 j) : sfuOut .exp2 t (.fin neg y e) = (sfuFmt t).result 0 (.fin false 1 j) := by
    rw [sfuOut, hval, hj]
    dsimp only
    rw [show (SfuFn.exp2 == SfuFn.rcp) = false from rfl, sfuRound_pow t ht]
    exact Prod.ext rfl (Nat.or_zero _)
  by_cases hbig : 4096 ≤ a
  · cases neg with
    | false =>
      have hia' : i = a := hia
      rw [hout ((exp2Val_whole hy ha false).trans (if_pos hbig)), result_pow_overflow hk (by omega), result_pow_overflow hk (by omega)]
    | true =>
      have hia' : i = -(a : Int) := hia
      rw [hout ((exp2Val_whole hy ha true).trans (if_pos hbig)), result_pow_underflow (by omega), result_pow_underflow (by omega)]
  · rw [hout ((exp2Val_whole hy ha neg).trans (if_neg hbig)), hia]

/-! ### Logarithms of powers of two (R133) -/

theorem log2Val_pow (l : Nat) (e : Int) : log2Val (2 ^ l) e = .ofInt (e + l) := by
  unfold log2Val
  simp only [Nat.log2_two_pow, if_true]

theorem sfuRound_ofInt {t : VT} (ht : t.isFloat = true) {i : Int} (hi : i.natAbs < 2 ^ sfuBits t) :
    sfuRound t false (.ofInt i) = (sfuCode t (.ofInt i), 0) := by
  have hk := sfuFmt_keeps ht
  have hman := hk.mantissa_le
  have hdigits := hk.digits_le
  have hval : Val.ofInt i = .fin (if i = 0 then false else decide (i < 0)) i.natAbs 0 := rfl
  rw [hval]
  generalize (if i = 0 then false else decide (i < 0)) = neg
  by_cases h0 : i.natAbs = 0
  · rw [h0]
    exact sfuRound_zero false neg 0
  · have hlog := (Nat.log2_lt h0).mpr hi
    have hexp : expOf i.natAbs 0 = 0 + i.natAbs.log2 := rfl
    exact sfuRound_small ht h0 hi (by omega) (by omega)

/-- `vlog2` at a power of two (R133). -/
theorem log2_at_pow {t : VT} (ht : t.isFloat = true) {bits l : Nat} {e : Int} (h : (sfuFmt t).decode bits = .fin false (2 ^ l) e) :
    sfuOut .log2 t (.fin false (2 ^ l) e) = (sfuCode t (.ofInt (e + l)), 0) := by
  have hk := sfuFmt_keeps ht
  have hne : 2 ^ l ≠ 0 := (Nat.two_pow_pos l).ne'
  obtain ⟨hlo, hhi⟩ := decode_range hk h hne
  have hexp : expOf (2 ^ l) e = e + l := by rw [expOf, Nat.log2_two_pow]
  have hrange : (sfuFmt t).bias + (sfuFmt t).m < ((2 ^ sfuBits t : Nat) : Int) := by
    push_cast
    exact hk.range
  have hval : sfuValue .log2 (.fin false (2 ^ l) e) = (.ofInt (e + l), 0) := by
    rw [← log2Val_pow]
    exact if_neg hne
  have hman := hk.mantissa_le
  exact sfuOut_of hval (sfuRound_ofInt ht (by omega))

/-! ### Rounding what lies between two grid points (R133) -/

/-- What lies between r and r + 1 rounds to the nearest as no tie, and is never exact. -/
theorem roundGrid_between {r d : Nat} {E q : Int} (neg : Bool) (h : E < q) (hd : (q - E).toNat = d) :
    2 * ((roundGrid 0 neg (2 * r + 1) (E - 1) q).1 * 2 ^ d) ≤ 2 * r + 2 ^ d
      ∧ 2 * r + 2 ≤ 2 * ((roundGrid 0 neg (2 * r + 1) (E - 1) q).1 * 2 ^ d) + 2 ^ d
      ∧ (roundGrid 0 neg (2 * r + 1) (E - 1) q).2 = true := by
  obtain ⟨c, rfl⟩ : ∃ c, d = c + 1 := ⟨d - 1, by omega⟩
  obtain ⟨hup, hlow, -, hexact, -⟩ := roundGrid_nearest (m := 2 * r + 1) (e := E - 1) neg (d := c + 2) (by omega : E - 1 < q) (by omega)
  generalize (roundGrid 0 neg (2 * r + 1) (E - 1) q).1 = j at *
  have hodd : (2 * r + 1) % 2 ^ (c + 2) ≠ 0 := by
    intro h0
    have hdvd : 2 ∣ 2 * r + 1 := (dvd_pow_self 2 (by omega)).trans (Nat.dvd_of_mod_eq_zero h0)
    omega
  have h1 : 2 ^ (c + 1) = 2 * 2 ^ c := by rw [Nat.pow_succ, Nat.mul_comm]
  have h2 : 2 ^ (c + 2) = 4 * 2 ^ c := by rw [Nat.pow_add, Nat.mul_comm]
  have h3 : j * 2 ^ (c + 1) = 2 * (j * 2 ^ c) := by rw [h1]; ring
  have h4 : j * 2 ^ (c + 2) = 4 * (j * 2 ^ c) := by rw [h2]; ring
  rw [h4, h2] at hup hlow
  rw [h3, h1]
  exact ⟨by omega, by omega, hexact.mpr hodd⟩

theorem sfuRound_mul_two_pow (t : VT) (flush neg : Bool) (m a : Nat) (q : Int) :
    sfuRound t flush (.fin neg (m * 2 ^ a) q) = sfuRound t flush (.fin neg m (q + a)) := by
  by_cases hm : m = 0
  · subst hm
    rw [Nat.zero_mul]
    rfl
  · have hma : m * 2 ^ a ≠ 0 := Nat.mul_ne_zero hm (Nat.two_pow_pos a).ne'
    unfold sfuRound
    dsimp only
    rw [if_neg hm, if_neg hma, expOf_mul_two_pow hm, roundGrid_mul_two_pow]

theorem sfuRound_flushed (t : VT) {neg : Bool} {m : Nat} {e : Int} (hm : m ≠ 0) (h : expOf m e < 1 - (sfuFmt t).bias) :
    sfuRound t true (.fin neg m e) = (sfuCode t (.fin neg 0 0), 96) := by
  unfold sfuRound
  dsimp only
  rw [if_neg hm, if_pos (by simpa using h)]
  rfl

/-- The grid of R133 in the normal range of a type. -/
theorem sfuGrid_normal {t : VT} (ht : t.isFloat = true) {m : Nat} {e : Int} (h : 1 - (sfuFmt t).bias ≤ expOf m e) :
    sfuGrid t m e = expOf m e - sfuBits t + 1 := by
  have hdigits := (sfuFmt_keeps ht).digits_le
  rw [sfuGrid]
  omega

/-! ### The reciprocal (R133, R134) -/

/-- The exponent of a reciprocal. -/
def recipExp (y : Nat) (e : Int) : Int := -(e + if y = 2 ^ y.log2 then y.log2 else y.log2 + 1)

theorem recipVal_pow (neg : Bool) (l : Nat) (e : Int) : recipVal neg (2 ^ l) e = .fin neg (1 * 2 ^ 200) (-((200 + l : Nat) : Int) - e) := by
  have hdiv : 2 ^ (200 + l) / 2 ^ l = 2 ^ 200 := by rw [Nat.pow_add, Nat.mul_div_cancel _ (Nat.two_pow_pos l)]
  unfold recipVal
  simp only [Nat.log2_two_pow, hdiv]
  rw [if_pos (Nat.pow_add ..).symm, Nat.one_mul]

/-- The quotient 2^k/y of a y that is no power of two, k being 200 above its logarithm. -/
theorem quotient_bounds {y l : Nat} (hlow : 2 ^ l < y) (hhigh : y < 2 ^ (l + 1)) :
    2 ^ 199 ≤ 2 ^ (200 + l) / y ∧ 2 ^ (200 + l) / y < 2 ^ 200 := by
  have hpos : 0 < y := lt_of_le_of_lt (Nat.zero_le _) hlow
  constructor
  · rw [Nat.le_div_iff_mul_le hpos]
    calc 2 ^ 199 * y ≤ 2 ^ 199 * 2 ^ (l + 1) := Nat.mul_le_mul_left _ hhigh.le
      _ = 2 ^ (200 + l) := by rw [← Nat.pow_add]; congr 1; omega
  · rw [Nat.div_lt_iff_lt_mul hpos, Nat.pow_add]
    exact Nat.mul_lt_mul_of_pos_left hlow (Nat.two_pow_pos 200)

theorem not_dvd_two_pow {y : Nat} (h : y ≠ 2 ^ y.log2) (j n : Nat) : j * y ≠ 2 ^ n := by
  intro heq
  obtain ⟨i, -, rfl⟩ := (Nat.dvd_prime_pow Nat.prime_two).mp (Dvd.intro_left j heq)
  exact h (by rw [Nat.log2_two_pow])

theorem log2_two_mul_add_one {r : Nat} (hr : r ≠ 0) : (2 * r + 1).log2 = r.log2 + 1 := by
  rw [Nat.log2_eq_iff (by omega), Nat.pow_succ, Nat.pow_succ (n := 2) (m := r.log2 + 1)]
  have h1 := Nat.log2_self_le hr
  have h2 : r < 2 ^ (r.log2 + 1) := Nat.lt_log2_self
  omega

theorem recipVal_between (neg : Bool) {y : Nat} (e : Int) (h : y ≠ 2 ^ y.log2) :
    recipVal neg y e = .fin neg (2 * (2 ^ (200 + y.log2) / y) + 1) (-((200 + y.log2 : Nat) : Int) - e - 1) := if_neg (not_dvd_two_pow h _ _)

/-- The rounding of a quotient between two grid points is the nearest multiple of its grid to the exact reciprocal. -/
theorem nearest_quotient {y Q D two j : Nat} (hlow : Q * y < two * D) (hhigh : two * D < (Q + 1) * y)
    (hup : 2 * (j * D) ≤ 2 * Q + D) (hdown : 2 * Q + 2 ≤ 2 * (j * D) + D) : 2 * (j * y) < 2 * two + y ∧ 2 * two < 2 * (j * y) + y := by
  constructor
  · refine lt_of_mul_lt_mul_right (a := D) ?_ (Nat.zero_le D)
    calc 2 * (j * y) * D = 2 * (j * D) * y := by ring
      _ ≤ (2 * Q + D) * y := Nat.mul_le_mul_right _ hup
      _ = 2 * (Q * y) + D * y := by ring
      _ < 2 * (two * D) + D * y := by omega
      _ = (2 * two + y) * D := by ring
  · refine lt_of_mul_lt_mul_right (a := D) ?_ (Nat.zero_le D)
    calc 2 * two * D = 2 * (two * D) := by ring
      _ < 2 * ((Q + 1) * y) := by omega
      _ = (2 * Q + 2) * y := by ring
      _ ≤ (2 * (j * D) + D) * y := Nat.mul_le_mul_right _ hdown
      _ = (2 * (j * y) + y) * D := by ring

section
variable {t : VT} (ht : t.isFloat = true)
include ht

omit ht in
theorem sfuOut_rcp {neg : Bool} {y : Nat} {e : Int} (hy : y ≠ 0) : sfuOut .rcp t (.fin neg y e) = sfuRound t true (recipVal neg y e) := by
  have hval : sfuValue .rcp (.fin neg y e) = (recipVal neg y e, 0) := if_neg hy
  rw [sfuOut, hval]
  exact Prod.ext rfl (Nat.or_zero _)

omit ht in
/-- `vrcp` of a power of two. -/
theorem sfuRound_recip_pow (neg : Bool) (l : Nat) (e : Int) : sfuRound t true (recipVal neg (2 ^ l) e) = sfuRound t true (.fin neg 1 (-(e + l))) := by
  rw [recipVal_pow, sfuRound_mul_two_pow]
  congr 2
  push_cast
  ring

omit ht in
/-- The magnitude of a quotient between grid points. -/
theorem expOf_quotient {y : Nat} (hy : y ≠ 0) (e : Int) (h : y ≠ 2 ^ y.log2) :
    expOf (2 * (2 ^ (200 + y.log2) / y) + 1) (-((200 + y.log2 : Nat) : Int) - e - 1) = -(e + (y.log2 + 1)) := by
  obtain ⟨hlow, hhigh⟩ := quotient_bounds (lt_of_le_of_ne (Nat.log2_self_le hy) (Ne.symm h)) Nat.lt_log2_self
  have hne : 2 ^ (200 + y.log2) / y ≠ 0 := by
    have := Nat.two_pow_pos 199
    omega
  have hlog : (2 ^ (200 + y.log2) / y).log2 = 199 := (Nat.log2_eq_iff hne).mpr ⟨hlow, hhigh⟩
  rw [expOf, log2_two_mul_add_one hne, hlog]
  push_cast
  ring

omit ht in
theorem rcp_flushed {neg : Bool} {y : Nat} {e : Int} (hy : y ≠ 0) (h : recipExp y e < 1 - (sfuFmt t).bias) :
    sfuOut .rcp t (.fin neg y e) = (sfuCode t (.fin neg 0 0), 96) := by
  rw [sfuOut_rcp hy]
  by_cases hpow : y = 2 ^ y.log2
  · rw [recipExp, if_pos hpow] at h
    rw [hpow, sfuRound_recip_pow]
    exact sfuRound_flushed t one_ne_zero (by rw [expOf_one]; exact h)
  · rw [recipExp, if_neg hpow] at h
    rw [recipVal_between neg e hpow]
    exact sfuRound_flushed t (by omega) (by rw [expOf_quotient hy e hpow]; exact h)

theorem rcp_nearest {neg : Bool} {y : Nat} {e : Int} (hy : y ≠ 0) (h : 1 - (sfuFmt t).bias ≤ recipExp y e) :
    ∃ j q, Stated.IsReciprocal (sfuBits t) y e j q
      ∧ sfuOut .rcp t (.fin neg y e)
        = (sfuCode t (.fin neg j q), ((sfuFmt t).result 0 (.fin neg j q)).2 ||| if j * y = 2 ^ (-e - q).toNat then 0 else 64) := by
  have hk := sfuFmt_keeps ht
  have hsmall := hk.digits_small
  have hpos := hk.digits_pos
  rw [sfuOut_rcp hy]
  by_cases hpow : y = 2 ^ y.log2
  · generalize y.log2 = l at hpow
    subst hpow
    have hexp : recipExp (2 ^ l) e = -(e + l) := by rw [recipExp, Nat.log2_two_pow, if_pos rfl]
    rw [hexp] at h
    have hgrid : sfuGrid t 1 (-(e + l)) = -(e + l) - sfuBits t + 1 := by
      rw [sfuGrid_normal ht (by rwa [expOf_one]), expOf_one]
    have htwo : (-e - (-(e + l) - sfuBits t + 1)).toNat = sfuBits t - 1 + l := by omega
    refine ⟨2 ^ (sfuBits t - 1), -(e + l) - sfuBits t + 1, ⟨?_, ?_, ?_, ?_⟩, ?_⟩
    · rw [Nat.log2_two_pow, if_pos rfl]
    · rw [htwo, Nat.pow_add]
      exact Nat.le_add_right ..
    · rw [htwo, Nat.pow_add]
      exact Nat.le_add_right ..
    · rw [htwo, Nat.pow_add]
      have := Nat.two_pow_pos l
      omega
    · rw [sfuRound_recip_pow, sfuRound_fin t one_ne_zero (by rw [expOf_one]; omega), hgrid, roundGrid_of_le (by omega), htwo,
        show (-(e + (l : Int)) - (-(e + l) - sfuBits t + 1)).toNat = sfuBits t - 1 from by omega, Nat.one_mul, Nat.pow_add, if_pos rfl]
      rfl
  · have hexp : recipExp y e = -(e + (y.log2 + 1)) := by
      rw [recipExp, if_neg hpow]
      push_cast
      ring
    rw [hexp] at h
    have hexpOf := expOf_quotient hy e hpow
    have hgrid : sfuGrid t (2 * (2 ^ (200 + y.log2) / y) + 1) (-((200 + y.log2 : Nat) : Int) - e - 1) = -(e + (y.log2 + 1)) - sfuBits t + 1 := by
      rw [sfuGrid_normal ht (by rwa [hexpOf]), hexpOf]
    obtain ⟨hup, hdown, hinexact⟩ := roundGrid_between (r := 2 ^ (200 + y.log2) / y) (d := 200 - sfuBits t)
      (E := -((200 + y.log2 : Nat) : Int) - e) (q := -(e + (y.log2 + 1)) - sfuBits t + 1) neg (by omega) (by omega)
    have htwo : (-e - (-(e + ((y.log2 : Int) + 1)) - sfuBits t + 1)).toNat = sfuBits t + y.log2 := by omega
    have hsplit : 2 ^ (sfuBits t + y.log2) * 2 ^ (200 - sfuBits t) = 2 ^ (200 + y.log2) := by
      rw [← Nat.pow_add]
      congr 1
      omega
    have hlow : 2 ^ (200 + y.log2) / y * y < 2 ^ (sfuBits t + y.log2) * 2 ^ (200 - sfuBits t) := by
      rw [hsplit]
      exact lt_of_le_of_ne (Nat.div_mul_le_self ..) (not_dvd_two_pow hpow _ _)
    have hhigh : 2 ^ (sfuBits t + y.log2) * 2 ^ (200 - sfuBits t) < (2 ^ (200 + y.log2) / y + 1) * y := by
      rw [hsplit, Nat.mul_comm]
      exact Nat.lt_mul_div_succ _ (Nat.pos_of_ne_zero hy)
    have hround := sfuRound_fin t (flush := true) (neg := neg) (by omega : 2 * (2 ^ (200 + y.log2) / y) + 1 ≠ 0)
      (e := -((200 + y.log2 : Nat) : Int) - e - 1) (by rw [hexpOf]; omega)
    rw [hgrid, hinexact, hexpOf, if_pos rfl, if_neg (not_lt.mpr h)] at hround
    rw [recipVal_between neg e hpow, hround]
    generalize (roundGrid 0 neg (2 * (2 ^ (200 + y.log2) / y) + 1) (-((200 + y.log2 : Nat) : Int) - e - 1)
      (-(e + (y.log2 + 1)) - sfuBits t + 1)).1 = j at hup hdown
    obtain ⟨hlt, hgt⟩ := nearest_quotient hlow hhigh hup hdown
    refine ⟨j, -(e + (y.log2 + 1)) - sfuBits t + 1, ⟨?_, ?_, ?_, ?_⟩, ?_⟩
    · rw [if_neg hpow]
    · rw [htwo]
      exact hlt.le
    · rw [htwo]
      exact hgt.le
    · rw [htwo]
      omega
    · rw [if_neg (not_dvd_two_pow hpow _ _)]
      rfl

end

/-! ### The reciprocal root (R133) -/

theorem isqrt_spec (n : Nat) : ∀ k r : Nat, r * r ≤ n → n < (r + 2 ^ k) * (r + 2 ^ k) →
    isqrt n k r * isqrt n k r ≤ n ∧ n < (isqrt n k r + 1) * (isqrt n k r + 1) := by
  intro k
  induction k with
  | zero => exact fun r hlow hhigh => ⟨hlow, hhigh⟩
  | succ k ih =>
    intro r hlow hhigh
    rw [isqrt]
    split
    · next h =>
      refine ih _ h ?_
      rwa [Nat.add_assoc, ← Nat.mul_two, ← Nat.pow_succ]
    · next h => exact ih _ hlow (not_le.mp h)

theorem isqrt_root (n : Nat) : isqrt n (n.log2 / 2 + 1) 0 * isqrt n (n.log2 / 2 + 1) 0 ≤ n
    ∧ n < (isqrt n (n.log2 / 2 + 1) 0 + 1) * (isqrt n (n.log2 / 2 + 1) 0 + 1) := by
  refine isqrt_spec n _ _ (Nat.zero_le _) ?_
  rw [Nat.zero_add, ← Nat.pow_add]
  exact Nat.lt_log2_self.trans_le (Nat.pow_le_pow_right (by omega) (by omega))

/-- The root of 2^k/m, rounded down, k being 400 above twice the logarithm of m. -/
def rootOf (m : Nat) : Nat :=
  isqrt (2 ^ (2 * (200 + m.log2)) / m) ((2 ^ (2 * (200 + m.log2)) / m).log2 / 2 + 1) 0

/-- The value of the reciprocal root of m·2^(2h). -/
def rootValue (m : Nat) (h : Int) : Val :=
  if rootOf m * rootOf m * m = 2 ^ (2 * (200 + m.log2)) then .fin false (rootOf m) (-((200 + m.log2 : Nat) : Int) - h)
  else .fin false (2 * rootOf m + 1) (-((200 + m.log2 : Nat) : Int) - h - 1)

theorem recipRoot_eq (y : Nat) (e : Int) : ∃ m h, recipRoot y e = rootValue m h ∧ ((m = y ∧ e = 2 * h) ∨ (m = 2 * y ∧ e = 2 * h + 1)) := by
  have hhalf (n : Nat) : 2 * n / 2 = n := Nat.mul_div_cancel_left n (by omega)
  by_cases heven : e % 2 = 0
  · refine ⟨y, e / 2, ?_, Or.inl ⟨rfl, by omega⟩⟩
    simp only [recipRoot, if_pos heven, hhalf]
    rfl
  · refine ⟨2 * y, (e - 1) / 2, ?_, Or.inr ⟨rfl, by omega⟩⟩
    simp only [recipRoot, if_neg heven, hhalf]
    rfl

section
variable {m : Nat} (hm : m ≠ 0)
include hm

theorem rootOf_bounds : rootOf m * rootOf m * m ≤ 2 ^ (2 * (200 + m.log2)) ∧ 2 ^ (2 * (200 + m.log2)) < (rootOf m + 1) * (rootOf m + 1) * m := by
  have hpos := Nat.pos_of_ne_zero hm
  obtain ⟨hlow, hhigh⟩ := isqrt_root (2 ^ (2 * (200 + m.log2)) / m)
  exact ⟨(Nat.le_div_iff_mul_le hpos).mp hlow, (Nat.div_lt_iff_lt_mul hpos).mp hhigh⟩

theorem rootOf_ne_zero : rootOf m ≠ 0 := by
  intro h0
  have hhigh := (rootOf_bounds hm).2
  rw [h0, Nat.zero_add, Nat.one_mul] at hhigh
  have hlt : m < 2 ^ (m.log2 + 1) := Nat.lt_log2_self
  have : 2 ^ (m.log2 + 1) ≤ 2 ^ (2 * (200 + m.log2)) := Nat.pow_le_pow_right (by omega) (by omega)
  omega

theorem log2_rootOf : 2 * (rootOf m).log2 ≤ 400 + m.log2 ∧ 400 + m.log2 < 2 * (rootOf m).log2 + 3 := by
  have hr := rootOf_ne_zero hm
  obtain ⟨hlow, hhigh⟩ := rootOf_bounds hm
  have hm1 := Nat.log2_self_le hm
  have hm2 : m < 2 ^ (m.log2 + 1) := Nat.lt_log2_self
  have hr1 := Nat.log2_self_le hr
  have hr2 : rootOf m + 1 ≤ 2 ^ ((rootOf m).log2 + 1) := Nat.lt_log2_self
  constructor
  · have hle : 2 ^ ((rootOf m).log2 + (rootOf m).log2 + m.log2) ≤ 2 ^ (2 * (200 + m.log2)) := by
      rw [Nat.pow_add, Nat.pow_add]
      exact (Nat.mul_le_mul (Nat.mul_le_mul hr1 hr1) hm1).trans hlow
    have := (Nat.pow_le_pow_iff_right (by omega)).mp hle
    omega
  · have hlt : 2 ^ (2 * (200 + m.log2)) < 2 ^ (((rootOf m).log2 + 1) + ((rootOf m).log2 + 1) + (m.log2 + 1)) := by
      rw [Nat.pow_add 2 ((rootOf m).log2 + 1 + ((rootOf m).log2 + 1)), Nat.pow_add 2 ((rootOf m).log2 + 1)]
      exact hhigh.trans_le (Nat.mul_le_mul (Nat.mul_le_mul hr2 hr2) hm2.le)
    have := (Nat.pow_lt_pow_iff_right (by omega)).mp hlt
    omega

end

/-- The square of a multiple jD of a grid near a root r, against a bound K between the squares of r and r + 1. -/
theorem nearest_root {r m K D j : Nat} (hlow : r * r * m ≤ K) (hhigh : K ≤ (r + 1) * (r + 1) * m)
    (hup : 2 * (j * D) ≤ 2 * r + D) (hdown : K ≤ r * r * m ∨ 2 * r + 2 ≤ 2 * (j * D) + D) (hdown' : 2 * r ≤ 2 * (j * D) + D) :
    ((2 * j - 1) * D) ^ 2 * m ≤ 4 * K ∧ 4 * K ≤ ((2 * j + 1) * D) ^ 2 * m := by
  have hsub : (2 * j - 1) * D ≤ 2 * r := by
    rw [Nat.sub_mul, Nat.one_mul, Nat.mul_assoc]
    omega
  have hadd : (2 * j + 1) * D = 2 * (j * D) + D := by ring
  constructor
  · calc ((2 * j - 1) * D) ^ 2 * m ≤ (2 * r) ^ 2 * m := Nat.mul_le_mul_right _ (Nat.pow_le_pow_left hsub 2)
      _ = 4 * (r * r * m) := by ring
      _ ≤ 4 * K := Nat.mul_le_mul_left _ hlow
  · rw [hadd]
    obtain hK | hK := hdown
    · calc 4 * K ≤ 4 * (r * r * m) := Nat.mul_le_mul_left _ hK
        _ = (2 * r) ^ 2 * m := by ring
        _ ≤ (2 * (j * D) + D) ^ 2 * m := Nat.mul_le_mul_right _ (Nat.pow_le_pow_left hdown' 2)
    · calc 4 * K ≤ 4 * ((r + 1) * (r + 1) * m) := Nat.mul_le_mul_left _ hhigh
        _ = (2 * r + 2) ^ 2 * m := by ring
        _ ≤ (2 * (j * D) + D) ^ 2 * m := Nat.mul_le_mul_right _ (Nat.pow_le_pow_left hK 2)

/-- A multiple of a grid near a root has the digits of the grid. -/
theorem nearest_root_digits {r D j p : Nat} (hp : 1 ≤ p) (hlow : 2 ^ (p - 1) * D ≤ r) (hhigh : r < 2 ^ p * D)
    (hup : 2 * (j * D) ≤ 2 * r + D) (hdown : 2 * r ≤ 2 * (j * D) + D) : 2 ^ (p - 1) ≤ j ∧ j ≤ 2 ^ p := by
  obtain ⟨p, rfl⟩ : ∃ p', p = p' + 1 := ⟨p - 1, by omega⟩
  rw [Nat.add_sub_cancel] at *
  have hD : 0 < D := Nat.pos_of_ne_zero fun h0 => by rw [h0, Nat.mul_zero] at hhigh; omega
  constructor
  · by_contra hlt
    have : (j + 1) * D ≤ 2 ^ p * D := Nat.mul_le_mul_right _ (by omega)
    have hexp : (j + 1) * D = j * D + D := by ring
    omega
  · by_contra hlt
    have : (2 ^ (p + 1) + 1) * D ≤ j * D := Nat.mul_le_mul_right _ (by omega)
    have hexp : (2 ^ (p + 1) + 1) * D = 2 ^ (p + 1) * D + D := by ring
    omega

/-! ### `vrsq` of a positive number (R133) -/

section
variable {t : VT} (ht : t.isFloat = true) {m : Nat} (hm : m ≠ 0) (h : Int)
include ht hm

/-- The exponent of a reciprocal root. -/
def rootExp (m : Nat) (h : Int) : Int := -((200 + m.log2 : Nat) : Int) - h + (rootOf m).log2

/-- The steps of the grid of R133 in those of a root. -/
def rootSteps (t : VT) (m : Nat) : Nat := (rootOf m).log2 - sfuBits t + 1

theorem rootSteps_eq : (((rootOf m).log2 : Int)) = rootSteps t m + sfuBits t - 1 := by
  have hsmall := (sfuFmt_keeps ht).digits_small
  have hlog := (log2_rootOf hm).2
  rw [rootSteps]
  omega

/-- A root rounds to the nearest multiple of its grid, exactly where that is the root of the quotient. -/
theorem rootValue_rounded (hlo : 1 - (sfuFmt t).bias ≤ rootExp m h) : ∃ j,
    sfuRound t false (rootValue m h) = (sfuCode t (.fin false j (rootExp m h - sfuBits t + 1)),
      ((sfuFmt t).result 0 (.fin false j (rootExp m h - sfuBits t + 1))).2
        ||| if j * 2 ^ rootSteps t m * (j * 2 ^ rootSteps t m) * m = 2 ^ (2 * (200 + m.log2)) then 0 else 64)
    ∧ 2 * (j * 2 ^ rootSteps t m) ≤ 2 * rootOf m + 2 ^ rootSteps t m
    ∧ (2 ^ (2 * (200 + m.log2)) ≤ rootOf m * rootOf m * m ∨ 2 * rootOf m + 2 ≤ 2 * (j * 2 ^ rootSteps t m) + 2 ^ rootSteps t m)
    ∧ 2 * rootOf m ≤ 2 * (j * 2 ^ rootSteps t m) + 2 ^ rootSteps t m := by
  have hr := rootOf_ne_zero hm
  have hpos := Nat.pos_of_ne_zero hm
  have hsteps := rootSteps_eq ht hm
  have hsteps1 : 1 ≤ rootSteps t m := Nat.le_add_left ..
  obtain ⟨hlow, hhigh⟩ := rootOf_bounds hm
  have hexp : rootExp m h = -((200 + m.log2 : Nat) : Int) - h + (rootOf m).log2 := rfl
  by_cases hexact : rootOf m * rootOf m * m = 2 ^ (2 * (200 + m.log2))
  · have hexpOf : expOf (rootOf m) (-((200 + m.log2 : Nat) : Int) - h) = rootExp m h := rfl
    have hgrid := sfuGrid_normal ht (hexpOf ▸ hlo)
    have hround := sfuRound_fin t (flush := false) (neg := false) hr (e := -((200 + m.log2 : Nat) : Int) - h) (by simp)
    obtain ⟨hup, hdown, -, hdiffers, hsame⟩ := roundGrid_nearest (m := rootOf m) (e := -((200 + m.log2 : Nat) : Int) - h)
      (q := rootExp m h - sfuBits t + 1) false (d := rootSteps t m) (by omega) (by omega)
    rw [hgrid, hexpOf, if_neg (not_lt.mpr hlo)] at hround
    rw [rootValue, if_pos hexact, hround]
    generalize roundGrid 0 false (rootOf m) (-((200 + m.log2 : Nat) : Int) - h) (rootExp m h - sfuBits t + 1) = x at *
    suffices hflag : (if x.2 = true then flagNX else 0)
        = if x.1 * 2 ^ rootSteps t m * (x.1 * 2 ^ rootSteps t m) * m = 2 ^ (2 * (200 + m.log2)) then 0 else 64 from
      ⟨x.1, by rw [hflag]; rfl, hup, Or.inl hexact.ge, hdown⟩
    by_cases hmod : rootOf m % 2 ^ rootSteps t m = 0
    · rw [if_neg (fun hx => hdiffers.mp hx hmod), if_pos (by rw [hsame hmod, hexact])]
    · rw [if_pos (hdiffers.mpr hmod), if_neg]
      · rfl
      · intro heq
        have hroot : x.1 * 2 ^ rootSteps t m = rootOf m :=
          Nat.mul_self_inj.mp (Nat.eq_of_mul_eq_mul_right hpos (heq.trans hexact.symm))
        exact hmod (by rw [← hroot, Nat.mul_mod_left])
  · have hexpOf : expOf (2 * rootOf m + 1) (-((200 + m.log2 : Nat) : Int) - h - 1) = rootExp m h := by
      rw [expOf, log2_two_mul_add_one hr, hexp]
      push_cast
      ring
    have hgrid := sfuGrid_normal ht (hexpOf ▸ hlo)
    have hround := sfuRound_fin t (flush := false) (neg := false) (by omega : 2 * rootOf m + 1 ≠ 0)
      (e := -((200 + m.log2 : Nat) : Int) - h - 1) (by simp)
    obtain ⟨hup, hdown, hinexact⟩ := roundGrid_between (r := rootOf m) (E := -((200 + m.log2 : Nat) : Int) - h)
      (q := rootExp m h - sfuBits t + 1) (d := rootSteps t m) false (by omega) (by omega)
    rw [hgrid, hexpOf, if_neg (not_lt.mpr hlo), hinexact, if_pos rfl] at hround
    rw [rootValue, if_neg hexact, hround]
    generalize roundGrid 0 false (2 * rootOf m + 1) (-((200 + m.log2 : Nat) : Int) - h - 1) (rootExp m h - sfuBits t + 1) = x at *
    suffices hflag : x.1 * 2 ^ rootSteps t m * (x.1 * 2 ^ rootSteps t m) * m ≠ 2 ^ (2 * (200 + m.log2)) from
      ⟨x.1, by rw [if_neg hflag]; rfl, hup, Or.inr hdown, by omega⟩
    intro heq
    rw [← heq] at hlow hhigh hexact
    have h1 : rootOf m ≤ x.1 * 2 ^ rootSteps t m := Nat.mul_self_le_mul_self_iff.mp (Nat.le_of_mul_le_mul_right hlow hpos)
    have h2 : x.1 * 2 ^ rootSteps t m < rootOf m + 1 := Nat.mul_self_lt_mul_self_iff.mp (Nat.lt_of_mul_lt_mul_right hhigh)
    exact hexact (by rw [le_antisymm h1 (Nat.lt_succ_iff.mp h2)])

/-- The digits of a rounded root, and its magnitude. -/
theorem root_digits {j : Nat} (hup : 2 * (j * 2 ^ rootSteps t m) ≤ 2 * rootOf m + 2 ^ rootSteps t m)
    (hdown : 2 * rootOf m ≤ 2 * (j * 2 ^ rootSteps t m) + 2 ^ rootSteps t m) : 2 ^ (sfuBits t - 1) ≤ j ∧ j ≤ 2 ^ sfuBits t := by
  have hpos := (sfuFmt_keeps ht).digits_pos
  have hsteps := rootSteps_eq ht hm
  have hr := rootOf_ne_zero hm
  refine nearest_root_digits hpos ?_ ?_ hup hdown
  · rw [← Nat.pow_add, show sfuBits t - 1 + rootSteps t m = (rootOf m).log2 from by omega]
    exact Nat.log2_self_le hr
  · rw [← Nat.pow_add, show sfuBits t + rootSteps t m = (rootOf m).log2 + 1 from by omega]
    exact Nat.lt_log2_self

end

/-- What the digits of R133 hold is encoded without a flag in the normal range. -/
theorem result_digits_exact {t : VT} (ht : t.isFloat = true) {j : Nat} {q : Int} (hlow : 2 ^ (sfuBits t - 1) ≤ j) (hhigh : j ≤ 2 ^ sfuBits t)
    (hlo : 1 - (sfuFmt t).bias ≤ q + sfuBits t - 1) (hhi : q + sfuBits t ≤ (sfuFmt t).bias) : ((sfuFmt t).result 0 (.fin false j q)).2 = 0 := by
  have hk := sfuFmt_keeps ht
  have hpos := hk.digits_pos
  have hdigits := hk.digits_le
  obtain hlt | heq := Nat.lt_or_eq_of_le hhigh
  · have hj : j ≠ 0 := by
      have := Nat.two_pow_pos (sfuBits t - 1)
      omega
    have hlog : j.log2 = sfuBits t - 1 := (Nat.log2_eq_iff hj).mpr ⟨hlow, by rwa [Nat.sub_add_cancel hpos]⟩
    have hexp : expOf j q = q + j.log2 := rfl
    exact encode_flags_exact hk false hj (hlt.trans_le (Nat.pow_le_pow_right (by omega) hdigits)) (by omega) (by omega)
  · have hshift : (sfuFmt t).result 0 (.fin false j q) = (sfuFmt t).result 0 (.fin false 1 (q + sfuBits t)) := by
      rw [heq, ← Nat.one_mul (2 ^ sfuBits t)]
      exact encode_mul_two_pow ..
    rw [hshift]
    exact encode_flags_exact hk false one_ne_zero (Nat.one_lt_two_pow (by omega)) (by rw [expOf_one]; omega) (by rw [expOf_one]; omega)

/-- The scales of a root, of its grid and of its quotient cancel. -/
theorem root_scale (h : Int) (a n : Nat) :
    (2 : ℚ) ^ (2 * h) * (2 : ℚ) ^ (2 * (-(a : Int) - h + n)) * (2 : ℚ) ^ (2 * a) = ((2 : ℚ) ^ n) ^ 2 := by
  rw [← zpow_natCast, ← zpow_natCast, ← zpow_natCast, ← zpow_add₀ (by norm_num), ← zpow_add₀ (by norm_num), ← zpow_mul]
  congr 1
  push_cast
  ring

/-- `vrsq` of a positive number (R133). -/
theorem rsq_nearest {t : VT} (ht : t.isFloat = true) {bits y : Nat} {e : Int} (hdec : (sfuFmt t).decode bits = .fin false y e) (hy : y ≠ 0) :
    ∃ (j : Nat) (q : Int), 2 ^ (sfuBits t - 1) ≤ j ∧ j ≤ 2 ^ sfuBits t
      ∧ (2 * (j : ℚ) - 1) ^ 2 * ((y : ℚ) * (2 : ℚ) ^ (e + 2 * q)) ≤ 4 ∧ 4 ≤ (2 * (j : ℚ) + 1) ^ 2 * ((y : ℚ) * (2 : ℚ) ^ (e + 2 * q))
      ∧ (sfuOut .rsq t (.fin false y e)).1 = sfuCode t (.fin false j q)
      ∧ (sfuOut .rsq t (.fin false y e)).2 = if (j : ℚ) ^ 2 * ((y : ℚ) * (2 : ℚ) ^ (e + 2 * q)) = 1 then 0 else 64 := by
  have hk := sfuFmt_keeps ht
  have hman := hk.mantissa_le
  have hpos := hk.digits_pos
  obtain ⟨hxlo, hxhi⟩ := decode_range hk hdec hy
  obtain ⟨m, h, hval, hmh⟩ := recipRoot_eq y e
  have hm : m ≠ 0 := by omega
  have hx : expOf y e = m.log2 + 2 * h := by
    obtain ⟨rfl, rfl⟩ | ⟨rfl, rfl⟩ := hmh
    · exact add_comm ..
    · have hlog : (2 * y).log2 = y.log2 + 1 := by
        rw [Nat.mul_comm]
        exact log2_mul_two_pow hy 1
      rw [expOf, hlog]
      push_cast
      ring
  obtain ⟨hlog1, hlog2⟩ := log2_rootOf hm
  have hexp : rootExp m h = -((200 + m.log2 : Nat) : Int) - h + (rootOf m).log2 := rfl
  have hsteps := rootSteps_eq ht hm
  obtain ⟨j, hround, hup, hdown, hdown'⟩ := rootValue_rounded ht hm h (by omega)
  obtain ⟨hj1, hj2⟩ := root_digits ht hm hup hdown'
  obtain ⟨hlow, hhigh⟩ := rootOf_bounds hm
  obtain ⟨hz1, hz2⟩ := nearest_root hlow hhigh.le hup hdown hdown'
  have hflags := result_digits_exact ht hj1 hj2 (q := rootExp m h - sfuBits t + 1) (by omega) (by omega)
  have hout : sfuOut .rsq t (.fin false y e) = sfuRound t false (rootValue m h) := by
    have hv : sfuValue .rsq (.fin false y e) = (recipRoot y e, 0) := if_neg hy
    rw [sfuOut, hv, hval]
    exact Prod.ext rfl (Nat.or_zero _)
  have hj : 1 ≤ j := (Nat.two_pow_pos _).trans_le hj1
  generalize hD : 2 ^ rootSteps t m = D at *
  generalize hK : 2 ^ (2 * (200 + m.log2)) = K at *
  have hKpos : (0 : ℚ) < K := by
    rw [← hK]
    positivity
  have hz : (y : ℚ) * (2 : ℚ) ^ (e + 2 * (rootExp m h - sfuBits t + 1)) * K = m * (D : ℚ) ^ 2 := by
    have hq : rootExp m h - sfuBits t + 1 = -((200 + m.log2 : Nat) : Int) - h + rootSteps t m := by omega
    have hy2 : (y : ℚ) * (2 : ℚ) ^ e = m * (2 : ℚ) ^ (2 * h) := by
      obtain ⟨rfl, rfl⟩ | ⟨rfl, rfl⟩ := hmh
      · rfl
      · rw [zpow_add₀ (by norm_num)]
        push_cast
        ring
    have hpow := root_scale h (200 + m.log2) (rootSteps t m)
    rw [zpow_add₀ (by norm_num), ← mul_assoc, hy2, hq, ← hD, ← hK]
    rw [Nat.cast_pow, Nat.cast_pow, Nat.cast_ofNat, ← hpow]
    generalize 200 + m.log2 = c
    ring
  have hz1' : ((2 * (j : ℚ) - 1) * D) ^ 2 * m ≤ 4 * K := by
    have hcast : ((2 * j - 1 : Nat) : ℚ) = 2 * j - 1 := by
      rw [Nat.cast_sub (by omega)]
      push_cast
      ring
    rw [← hcast]
    exact_mod_cast hz1
  have hz2' : 4 * (K : ℚ) ≤ ((2 * (j : ℚ) + 1) * D) ^ 2 * m := by exact_mod_cast hz2
  have hone : ((j : ℚ) ^ 2 * ((y : ℚ) * (2 : ℚ) ^ (e + 2 * (rootExp m h - sfuBits t + 1))) = 1) = (j * D * (j * D) * m = K) := by
    refine propext ⟨fun h1 => ?_, fun h1 => ?_⟩
    · have : (j : ℚ) * D * (j * D) * m = K := by linear_combination (j : ℚ) ^ 2 * (-hz) + K * h1
      exact_mod_cast this
    · have h1' : (j : ℚ) * D * (j * D) * m = K := by exact_mod_cast h1
      exact mul_right_cancel₀ hKpos.ne' (by linear_combination (j : ℚ) ^ 2 * hz + h1')
  refine ⟨j, rootExp m h - sfuBits t + 1, hj1, hj2, ?_, ?_, ?_, ?_⟩
  · exact le_of_mul_le_mul_right (by linear_combination hz1' + (2 * (j : ℚ) - 1) ^ 2 * hz) hKpos
  · exact le_of_mul_le_mul_right (by linear_combination hz2' - (2 * (j : ℚ) + 1) ^ 2 * hz) hKpos
  · rw [hout, hround]
  · rw [hout, hround, hflags]
    dsimp only
    rw [Nat.zero_or]
    simp only [hone]

/-! ### Special-function elements (R118, R133, R134) -/

/-- What R133 says of the functions whose finite values it gives. -/
structure ServesFinite (fn : SfuFn) (t : VT) (reg : VReg) : Prop where
  rcp : fn = .rcp → ∀ n neg y e, (sfuFmt t).decode (elemGet reg (vtBits t) n) = .fin neg y e → y ≠ 0 →
    (recipExp y e < 1 - (sfuFmt t).bias → sfuOut fn t (.fin neg y e) = (sfuCode t (.fin neg 0 0), 96))
    ∧ (1 - (sfuFmt t).bias ≤ recipExp y e → ∃ (j : Nat) (q : Int), Stated.IsReciprocal (sfuBits t) y e j q ∧ sfuOut fn t (.fin neg y e)
      = (sfuCode t (.fin neg j q), ((sfuFmt t).result 0 (.fin neg j q)).2 ||| if j * y = 2 ^ (-e - q).toNat then 0 else 64))
  rsq : fn = .rsq → ∀ n y e, (sfuFmt t).decode (elemGet reg (vtBits t) n) = .fin false y e → y ≠ 0 →
    ∃ (j : Nat) (q : Int), 2 ^ (sfuBits t - 1) ≤ j ∧ j ≤ 2 ^ sfuBits t
      ∧ (2 * (j : ℚ) - 1) ^ 2 * ((y : ℚ) * (2 : ℚ) ^ (e + 2 * q)) ≤ 4 ∧ 4 ≤ (2 * (j : ℚ) + 1) ^ 2 * ((y : ℚ) * (2 : ℚ) ^ (e + 2 * q))
      ∧ (sfuOut fn t (.fin false y e)).1 = sfuCode t (.fin false j q)
      ∧ (sfuOut fn t (.fin false y e)).2 = if (j : ℚ) ^ 2 * ((y : ℚ) * (2 : ℚ) ^ (e + 2 * q)) = 1 then 0 else 64
  exp2 : fn = .exp2 → ∀ (neg : Bool) (y : Nat) (e i : Int), y ≠ 0 → (if neg then -(y : ℚ) else y) * (2 : ℚ) ^ e = i →
    sfuOut fn t (.fin neg y e) = (sfuFmt t).result 0 (.fin false 1 i)
  log2 : fn = .log2 → ∀ (n l : Nat) (e : Int), (sfuFmt t).decode (elemGet reg (vtBits t) n) = .fin false (2 ^ l) e →
    sfuOut fn t (.fin false (2 ^ l) e) = (sfuCode t (.ofInt (e + l)), 0)

theorem servesFinite (fn : SfuFn) {t : VT} (ht : t.isFloat = true) (reg : VReg) : ServesFinite fn t reg where
  rcp h _ _ _ _ _ hy := h ▸ ⟨rcp_flushed hy, rcp_nearest ht hy⟩
  rsq h _ _ _ hdec hy := h ▸ rsq_nearest ht hdec hy
  exp2 h _ _ _ _ hy hi := h ▸ exp2_at_integer ht hy hi
  log2 h _ _ _ hdec := h ▸ log2_at_pow ht hdec

/-- The kind of an SFU operation tells its function. -/
theorem sfuFn_of_kind {o : Op} {i i' : Instr} {fn fn' : SfuFn} {x x' : VT × Fin 32 × Fin 32} (hi : sfuOf i = some (fn, x))
    (hi' : sfuOf i' = some (fn', x')) (hk : o.kind = .sfu i) (hk' : o.kind = .sfu i') : fn = fn' := by
  obtain rfl : i = i' := OpKind.sfu.inj (hk.symm.trans hk')
  exact congrArg Prod.fst (Option.some.inj (hi.symm.trans hi'))

theorem opEffect_sfu {s : State} {o : Op} {reg : Fin 32 → VReg} {i : Instr} {fn : SfuFn} {t : VT} {d a : Fin 32} (hk : o.kind = .sfu i)
    (hi : sfuOf i = some (fn, t, d, a)) :
    opEffect s o reg = elemwise d (vtBits t) (4096 / vtBits t) o.mask.toNat (fun n => sfuElem fn t (elemGet (reg a) (vtBits t) n)) := by
  rw [opEffect, hk]
  dsimp only
  rw [hi]
  rfl

/-- The table of R134 is that of the functions. -/
theorem tabled {t : VT} (ht : t.isFloat = true) (d a : Fin 32) (k : Fin 4) (m : Mark) :
    ∀ c ∈ Stated.sfuSpecial, ∃ fn, sfuOf (c.1 d a t k m) = some (fn, t, d, a) ∧ Tabled fn t c.2 := by
  simp only [Stated.sfuSpecial, List.forall_mem_cons, List.not_mem_nil, false_imp_iff, implies_true, and_true]
  exact ⟨⟨.rcp, rfl, tabled_rcp ht⟩, ⟨.rsq, rfl, tabled_rsq ht⟩, ⟨.exp2, rfl, tabled_exp2 ht⟩, ⟨.log2, rfl, tabled_log2 ht⟩,
    ⟨.sin, rfl, tabled_sin ht⟩, ⟨.cos, rfl, tabled_cos ht⟩, ⟨.tanh, rfl, tabled_tanh ht⟩, ⟨.sigm, rfl, tabled_sigm ht⟩⟩

theorem specialFunctionElements : Stated.SpecialFunctionElements := by
  unfold Stated.SpecialFunctionElements
  intro s o reg d a t k m ht c hc hk
  obtain ⟨fn, hi, htab⟩ := tabled ht d a k m c hc
  have hs := servesFinite fn ht (reg a)
  refine ⟨fun n => sfuElem fn t (elemGet (reg a) (vtBits t) n), elements_of_eq (opEffect_sfu hk hi) fun _ _ _ => rfl, fun n _ => ?_⟩
  dsimp only
  simp only [sfuFormat_eq, sfuDigits_eq, sfuElem_eq_sfuOut]
  refine ⟨fun sig hx => ?_, fun neg e hx => ?_, fun neg hx => ?_, fun y e hx hy hneg => ?_, fun neg y e hkind hx hy => ?_,
    fun y e hkind hx hy => ?_, fun neg y e i hkind hx hy hint => ?_, fun l e hkind hx => ?_⟩
  · exact (congrArg _ hx).trans (sfuOut_nan ht fn sig)
  · exact (congrArg _ hx).trans (htab.zero neg e)
  · exact (congrArg _ hx).trans (htab.inf neg)
  · exact (congrArg _ hx).trans (htab.negative hneg y e hy)
  · have hrcp := hs.rcp (sfuFn_of_kind hi rfl hk hkind) n neg y e hx hy
    rw [← hx] at hrcp
    exact hrcp
  · have hrsq := hs.rsq (sfuFn_of_kind hi rfl hk hkind) n y e hx hy
    rw [← hx] at hrsq
    exact hrsq
  · exact (congrArg _ hx).trans (hs.exp2 (sfuFn_of_kind hi rfl hk hkind) neg y e i hy hint)
  · exact (congrArg _ hx).trans (hs.log2 (sfuFn_of_kind hi rfl hk hkind) n l e hx)

end Sys2Proof.Laws
end

section
/-! ## What vector loads and stores move -/

namespace Sys2Proof.Laws
open Sys2Proof.Machine Sys2Proof.Safety

/-! ### Many writes of a memory (R132) -/

/-- The writes of a list of places, one after another. -/
def writeAll (A : Nat → Nat) (B : Nat → List Byte) (idxs : List Nat) (mem : Memory) : Memory := idxs.foldl (fun m i => m.write (A i) (B i)) mem

section
variable {A : Nat → Nat} {B : Nat → List Byte}

theorem get_writeAll_outside {idxs : List Nat} {p : Nat} (h : ∀ i ∈ idxs, p < A i ∨ A i + (B i).length ≤ p) :
    ∀ mem : Memory, (writeAll A B idxs mem).get p = mem.get p := by
  induction idxs with
  | nil => exact fun _ => rfl
  | cons x xs ih =>
    intro mem
    have hcons : writeAll A B (x :: xs) mem = writeAll A B xs (mem.write (A x) (B x)) := rfl
    rw [hcons, ih fun i hi => h i (List.mem_cons_of_mem _ hi)]
    exact Memory.get_write_outside _ _ _ _ (h x List.mem_cons_self)

theorem read_congr {m m' : Memory} {a n : Nat} (h : ∀ k, k < n → m.get (a + k) = m'.get (a + k)) : m.read a n = m'.read a n := by
  rw [read_eq_map, read_eq_map]
  exact List.map_congr_left fun k hk => h k (List.mem_range.mp hk)

/-- The last write that reaches a place stands there. -/
theorem read_writeAll_last {idxs : List Nat} (hsorted : idxs.Pairwise (· < ·)) {i : Nat} (hi : i ∈ idxs)
    (hlast : ∀ i' ∈ idxs, i < i' → A i + (B i).length ≤ A i' ∨ A i' + (B i').length ≤ A i) :
    ∀ mem : Memory, mem.wf = true → (writeAll A B idxs mem).read (A i) (B i).length = B i := by
  induction idxs with
  | nil => exact absurd hi List.not_mem_nil
  | cons x xs ih =>
    intro mem hmem
    obtain ⟨hx, hxs⟩ := List.pairwise_cons.mp hsorted
    have hcons : writeAll A B (x :: xs) mem = writeAll A B xs (mem.write (A x) (B x)) := rfl
    rw [hcons]
    obtain rfl | hi := List.mem_cons.mp hi
    · rw [read_congr (m' := mem.write (A i) (B i)) fun k hk => get_writeAll_outside (fun i' hi' => ?_) _]
      · exact read_write_same _ _ _ hmem
      · have := hlast i' (List.mem_cons_of_mem _ hi') (hx i' hi')
        omega
    · exact ih hxs hi (fun i' hi' => hlast i' (List.mem_cons_of_mem _ hi')) _ (Memory.wf_write _ _ _ hmem)

end

theorem stored_map {e : VOut} {idxs : List Nat} {W : Nat → VWrite} (h : e.writes = idxs.map W) (mem : Memory) :
    Stated.stored e mem = writeAll (fun i => (W i).addr) (fun i => (W i).bytes) idxs mem := by
  rw [Stated.stored, h, List.foldl_map]
  rfl

/-- The active ones of n elements in order. -/
def onList (n mask : Nat) : List Nat := (List.range n).filter (fun i => mask.testBit i)

theorem mem_onList {n mask i : Nat} : i ∈ onList n mask ↔ i < n ∧ mask.testBit i = true := by
  rw [onList, List.mem_filter, List.mem_range]

theorem onList_sorted (n mask : Nat) : (onList n mask).Pairwise (· < ·) := List.Pairwise.filter _ List.pairwise_lt_range

theorem flagsOf_onList (n mask : Nat) (f : Nat → Nat × Nat) : Stated.FlagsOf (orFlags ((onList n mask).map f)) n mask f := by
  intro b
  rw [orFlags, testBit_foldl_or]
  simp only [List.mem_map, mem_onList, Nat.zero_testBit, Bool.false_eq_true, false_or]
  constructor
  · rintro ⟨_, ⟨i, ⟨hi, hm⟩, rfl⟩, hb⟩
    exact ⟨i, hi, hm, hb⟩
  · rintro ⟨i, hi, hm, hb⟩
    exact ⟨_, ⟨i, ⟨hi, hm⟩, rfl⟩, hb⟩

theorem flagsOf_zero (n mask : Nat) (f : Nat → Nat) : Stated.FlagsOf 0 n mask (fun i => (f i, 0)) := by
  intro b
  simp

/-! ### Elements of whole bytes -/

theorem memElem_bytes {mem : Memory} {a c : Nat} (hi : Bool) : Stated.memElem mem a (8 * c) hi = leNat (mem.read a c) := by
  rw [Stated.memElem, if_neg (by omega), Nat.mul_div_cancel_left c (by omega)]

theorem runElem_bytes {mem : Memory} {base c : Nat} (i : Nat) : Stated.runElem mem base (8 * c) i = leNat (mem.read (base + i * c) c) := by
  rw [Stated.runElem, memElem_bytes, Nat.mul_left_comm, Nat.mul_div_cancel_left _ (by omega)]

theorem leNat_bytesOfNat_bits (x c : Nat) : leNat (bytesOfNat x c) = x % 2 ^ (8 * c) := by
  rw [leNat_bytesOfNat, Nat.pow_mul]

/-- Runs of whole-byte elements. -/
theorem stored_bytes {base c n mask : Nat} (x : Nat → Nat) {mem : Memory} (hmem : mem.wf = true) :
    (∀ i, i < n → Stated.runElem (writeAll (fun i => base + i * c) (fun i => bytesOfNat (x i) c) (onList n mask) mem) base (8 * c) i
      = if mask.testBit i then x i % 2 ^ (8 * c) else Stated.runElem mem base (8 * c) i)
    ∧ ∀ p, p < base ∨ base + n * (8 * c) / 8 ≤ p →
      (writeAll (fun i => base + i * c) (fun i => bytesOfNat (x i) c) (onList n mask) mem).get p = mem.get p := by
  have hapart {i j : Nat} (hij : i < j) : i * c + c ≤ j * c := by
    have := Nat.mul_le_mul_right c hij
    rwa [Nat.succ_mul] at this
  refine ⟨fun i hi => ?_, fun p hp => ?_⟩
  · rw [runElem_bytes, runElem_bytes]
    by_cases hm : mask.testBit i = true
    · rw [if_pos hm]
      have hread := read_writeAll_last (A := fun i => base + i * c) (B := fun i => bytesOfNat (x i) c) (onList_sorted n mask)
        (mem_onList.mpr ⟨hi, hm⟩) (fun j _ hij => by
          have := hapart hij
          simp only [bytesOfNat_length]
          omega) mem hmem
      simp only [bytesOfNat_length] at hread
      rw [hread, leNat_bytesOfNat_bits]
    · rw [if_neg hm]
      refine congrArg leNat (read_congr fun k hk => get_writeAll_outside (fun j hj => ?_) mem)
      simp only [bytesOfNat_length]
      have hne : j ≠ i := fun h => hm (h ▸ (mem_onList.mp hj).2)
      obtain hlt | hlt := Nat.lt_or_gt_of_ne hne
      · have := hapart hlt
        omega
      · have := hapart hlt
        omega
  · refine get_writeAll_outside (fun j hj => ?_) mem
    simp only [bytesOfNat_length]
    have := hapart (mem_onList.mp hj).1
    have hsize : n * (8 * c) / 8 = n * c := by rw [Nat.mul_left_comm, Nat.mul_div_cancel_left _ (by omega)]
    omega

/-! ### Elements of four bits: the two of a byte are written by one write (R132) -/

theorem flatOf_add (v : VAccess) (sp : Space) (a k : Nat) : flatOf v sp (a + k) = flatOf v sp a + k := by
  cases sp <;> exact (Nat.add_assoc ..).symm

/-- The byte of two nibbles of which the active ones are new. -/
def nibbles (mask : Nat) (x : Nat → Nat) (old j : Nat) : Nat :=
  (if mask.testBit (2 * j) then x (2 * j) % 16 else old % 16) + 16 * (if mask.testBit (2 * j + 1) then x (2 * j + 1) % 16 else old / 16)

/-- A byte has an active element. -/
def activeByte (mask j : Nat) : Bool := mask.testBit (2 * j) || mask.testBit (2 * j + 1)

theorem slotOf_even (ea j : Nat) : Machine.slotOf ea 4 (2 * j) = (ea + j, false) := by
  refine Prod.ext ?_ ?_
  · change ea + 2 * j * 4 / 8 = ea + j
    omega
  · change (4 == 4 && 2 * j % 2 == 1) = false
    simp

theorem slotOf_odd (ea j : Nat) : Machine.slotOf ea 4 (2 * j + 1) = (ea + j, true) := by
  refine Prod.ext ?_ ?_
  · change ea + (2 * j + 1) * 4 / 8 = ea + j
    omega
  · change (4 == 4 && (2 * j + 1) % 2 == 1) = true
    have : (2 * j + 1) % 2 = 1 := by omega
    simp [this]

section
variable (s : State) (v : VAccess) (sp : Space)

theorem mergeNibbles_both (k k' a x y : Nat) (l : List VElem) : mergeNibbles s v sp ((k, a, false, x) :: (k', a, true, y) :: l)
    = ⟨k, sp, flatOf v sp a, [BitVec.ofNat 8 (x % 16 + 16 * (y % 16))]⟩ :: mergeNibbles s v sp l := by
  rw [mergeNibbles, if_pos rfl]

theorem mergeNibbles_upper (k a x : Nat) (l : List VElem) : mergeNibbles s v sp ((k, a, true, x) :: l)
    = ⟨k, sp, flatOf v sp a, elemBytes s v sp a 4 true x⟩ :: mergeNibbles s v sp l := by
  rw [mergeNibbles]
  simp

theorem mergeNibbles_lower (k a x : Nat) (l : List VElem) (h : ∀ e ∈ l, e.2.1 ≠ a) : mergeNibbles s v sp ((k, a, false, x) :: l)
    = ⟨k, sp, flatOf v sp a, elemBytes s v sp a 4 false x⟩ :: mergeNibbles s v sp l := by
  cases l with
  | nil => rw [mergeNibbles]; simp
  | cons e l =>
    obtain ⟨k', b, hi, y⟩ := e
    have hb : a ≠ b := (h _ List.mem_cons_self).symm
    cases hi with
    | true => rw [mergeNibbles, if_neg hb]
    | false => rw [mergeNibbles]; simp

theorem elemBytes_lower (a x : Nat) : elemBytes s v sp a 4 false x
    = [BitVec.ofNat 8 (x % 16 + 16 * (((s.mem sp).get (flatOf v sp a)).toNat / 16))] := by
  rw [Nat.add_comm, Nat.mul_comm]
  rfl

theorem elemBytes_upper (a x : Nat) : elemBytes s v sp a 4 true x
    = [BitVec.ofNat 8 (((s.mem sp).get (flatOf v sp a)).toNat % 16 + 16 * (x % 16))] := rfl

variable (ea mask : Nat) (ch x : Nat → Nat)

/-- Element i as it is stored. -/
def nibbleEntry (i : Nat) : VElem := (ch i, (Machine.slotOf ea 4 i).1, (Machine.slotOf ea 4 i).2, x i)

/-- The write of byte j. -/
def byteWrite (j : Nat) : VWrite :=
  ⟨if mask.testBit (2 * j) then ch (2 * j) else ch (2 * j + 1), sp, flatOf v sp (ea + j),
    [BitVec.ofNat 8 (nibbles mask x ((s.mem sp).get (flatOf v sp (ea + j))).toNat j)]⟩

theorem nibbleEntry_even (j : Nat) : nibbleEntry ea ch x (2 * j) = (ch (2 * j), ea + j, false, x (2 * j)) := by rw [nibbleEntry, slotOf_even]

theorem nibbleEntry_odd (j : Nat) : nibbleEntry ea ch x (2 * j + 1) = (ch (2 * j + 1), ea + j, true, x (2 * j + 1)) := by
  rw [nibbleEntry, slotOf_odd]

theorem nibbleEntry_later {i j : Nat} (h : 2 * j + 2 ≤ i) : (nibbleEntry ea ch x i).2.1 ≠ ea + j := by
  change ea + i * 4 / 8 ≠ ea + j
  omega

/-- The writes of the active elements from byte j on. -/
theorem mergeNibbles_range (n : Nat) : ∀ j : Nat,
    mergeNibbles s v sp (((List.range' (2 * j) (2 * n)).filter (fun i => mask.testBit i)).map (nibbleEntry ea ch x))
      = ((List.range' j n).filter (activeByte mask)).map (byteWrite s v sp ea mask ch x) := by
  induction n with
  | zero => exact fun _ => rfl
  | succ n ih =>
    intro j
    have hrange : List.range' (2 * j) (2 * (n + 1)) = 2 * j :: (2 * j + 1) :: List.range' (2 * (j + 1)) (2 * n) := by
      rw [show 2 * (n + 1) = 2 * n + 1 + 1 from rfl, List.range'_succ, List.range'_succ]
      rfl
    have hlater : ∀ e ∈ ((List.range' (2 * (j + 1)) (2 * n)).filter (fun i => mask.testBit i)).map (nibbleEntry ea ch x), e.2.1 ≠ ea + j := by
      intro e he
      obtain ⟨i, hi, rfl⟩ := List.mem_map.mp he
      have hge := (List.mem_range'_1.mp (List.mem_filter.mp hi).1).1
      exact nibbleEntry_later ea ch x (by omega)
    rw [hrange, List.range'_succ]
    by_cases hlo : mask.testBit (2 * j) = true
    · by_cases hhi : mask.testBit (2 * j + 1) = true
      · rw [List.filter_cons_of_pos (by simpa using hlo), List.filter_cons_of_pos (by simpa using hhi),
          List.filter_cons_of_pos (by simp [activeByte, hlo])]
        simp only [List.map_cons]
        rw [nibbleEntry_even, nibbleEntry_odd, mergeNibbles_both, ih]
        simp [byteWrite, nibbles, hlo, hhi]
      · rw [List.filter_cons_of_pos (by simpa using hlo), List.filter_cons_of_neg (by simpa using hhi),
          List.filter_cons_of_pos (by simp [activeByte, hlo])]
        simp only [List.map_cons]
        rw [nibbleEntry_even, mergeNibbles_lower _ _ _ _ _ _ _ hlater, ih]
        simp [byteWrite, nibbles, elemBytes_lower, hlo, hhi]
    · by_cases hhi : mask.testBit (2 * j + 1) = true
      · rw [List.filter_cons_of_neg (by simpa using hlo), List.filter_cons_of_pos (by simpa using hhi),
          List.filter_cons_of_pos (by simp [activeByte, hhi])]
        simp only [List.map_cons]
        rw [nibbleEntry_odd, mergeNibbles_upper, ih]
        simp [byteWrite, nibbles, elemBytes_upper, hlo, hhi]
      · rw [List.filter_cons_of_neg (by simpa using hlo), List.filter_cons_of_neg (by simpa using hhi),
          List.filter_cons_of_neg (by simp [activeByte, hlo, hhi])]
        exact ih (j + 1)

end

theorem nibbles_lower {mask old j : Nat} {x : Nat → Nat} :
    nibbles mask x old j % 256 / 1 % 16 = if mask.testBit (2 * j) then x (2 * j) % 16 else old % 16 := by
  unfold nibbles
  split <;> split <;> omega

theorem nibbles_upper {mask old j : Nat} {x : Nat → Nat} :
    nibbles mask x old j % 256 / 16 % 16 = if mask.testBit (2 * j + 1) then x (2 * j + 1) % 16 else old / 16 % 16 := by
  unfold nibbles
  split <;> split <;> omega

theorem runElem_even (mem : Memory) (base j : Nat) : Stated.runElem mem base 4 (2 * j) = (mem.get (base + j)).toNat / 1 % 16 := by
  have haddr : base + 2 * j * 4 / 8 = base + j := by omega
  have hparity : (2 * j % 2 == 1) = false := by simp
  rw [Stated.runElem, haddr, hparity]
  rfl

theorem runElem_odd (mem : Memory) (base j : Nat) : Stated.runElem mem base 4 (2 * j + 1) = (mem.get (base + j)).toNat / 16 % 16 := by
  have haddr : base + (2 * j + 1) * 4 / 8 = base + j := by omega
  have hparity : ((2 * j + 1) % 2 == 1) = true := by
    have : (2 * j + 1) % 2 = 1 := by omega
    rw [this]
    rfl
  rw [Stated.runElem, haddr, hparity]
  rfl

/-- Runs of elements of four bits, given the writes of their bytes. -/
theorem stored_nibbles {base n mask : Nat} (x : Nat → Nat) {mem : Memory} (hmem : mem.wf = true) :
    (∀ i, i < 2 * n → Stated.runElem (writeAll (fun j => base + j) (fun j => [BitVec.ofNat 8 (nibbles mask x (mem.get (base + j)).toNat j)])
        ((List.range n).filter (activeByte mask)) mem) base 4 i = if mask.testBit i then x i % 2 ^ 4 else Stated.runElem mem base 4 i)
    ∧ ∀ p, p < base ∨ base + 2 * n * 4 / 8 ≤ p → (writeAll (fun j => base + j)
        (fun j => [BitVec.ofNat 8 (nibbles mask x (mem.get (base + j)).toNat j)]) ((List.range n).filter (activeByte mask)) mem).get p
      = mem.get p := by
  have hbyte (j : Nat) (hj : j < n) (hact : activeByte mask j = true) : (writeAll (fun j => base + j)
        (fun j => [BitVec.ofNat 8 (nibbles mask x (mem.get (base + j)).toNat j)]) ((List.range n).filter (activeByte mask)) mem).get (base + j)
      = BitVec.ofNat 8 (nibbles mask x (mem.get (base + j)).toNat j) := by
    have hread := read_writeAll_last (A := fun j => base + j) (B := fun j => [BitVec.ofNat 8 (nibbles mask x (mem.get (base + j)).toNat j)])
      (List.Pairwise.filter (activeByte mask) (List.pairwise_lt_range (n := n))) (List.mem_filter.mpr ⟨List.mem_range.mpr hj, hact⟩)
      (fun i _ hij => Or.inl (Nat.add_le_add_left hij base)) mem hmem
    exact (List.cons.inj hread).1
  have hkeep (j : Nat) (hact : activeByte mask j = false) : (writeAll (fun j => base + j)
        (fun j => [BitVec.ofNat 8 (nibbles mask x (mem.get (base + j)).toNat j)]) ((List.range n).filter (activeByte mask)) mem).get (base + j)
      = mem.get (base + j) := by
    refine get_writeAll_outside (fun i hi => ?_) mem
    have hne : i ≠ j := fun h => by
      have := (List.mem_filter.mp hi).2
      rw [h, hact] at this
      exact Bool.false_ne_true this
    simp only [List.length_singleton]
    omega
  have hnew (j : Nat) (hj : j < n) (hact : activeByte mask j = true) := by
    have h := congrArg BitVec.toNat (hbyte j hj hact)
    rw [BitVec.toNat_ofNat] at h
    exact h
  refine ⟨fun i hi => ?_, fun p hp => ?_⟩
  · obtain ⟨j, rfl | rfl⟩ := Nat.even_or_odd' i
    · rw [runElem_even, runElem_even]
      cases hact : activeByte mask j with
      | true => rw [hnew j (by omega) hact, nibbles_lower, Nat.div_one]; rfl
      | false =>
        rw [hkeep j hact, if_neg]
        exact fun hm => by simp [activeByte, hm] at hact
    · rw [runElem_odd, runElem_odd]
      cases hact : activeByte mask j with
      | true => rw [hnew j (by omega) hact, nibbles_upper]; rfl
      | false =>
        rw [hkeep j hact, if_neg]
        exact fun hm => by simp [activeByte, hm] at hact
  · refine get_writeAll_outside (fun j hj => ?_) mem
    have := List.mem_range.mp (List.mem_filter.mp hj).1
    simp only [List.length_singleton]
    omega

/-! ### Loads and stores of runs of elements (R129, R130, R132) -/

/-- The sizes of the elements of a run: a nibble, or whole bytes. -/
def RunBits (eb : Nat) : Prop := eb = 4 ∨ ∃ c, 1 ≤ c ∧ eb = 8 * c

theorem runBits_vtBits (t : VT) : RunBits (vtBits t) := by
  cases t with
  | i4 => exact Or.inl rfl
  | i8 => exact Or.inr ⟨1, by decide, rfl⟩
  | nf8 => exact Or.inr ⟨1, by decide, rfl⟩
  | i16 => exact Or.inr ⟨2, by decide, rfl⟩
  | bf16 => exact Or.inr ⟨2, by decide, rfl⟩
  | f16 => exact Or.inr ⟨2, by decide, rfl⟩
  | i32 => exact Or.inr ⟨4, by decide, rfl⟩
  | f32 => exact Or.inr ⟨4, by decide, rfl⟩

section
variable {s : State} {v : VAccess} {sp : Space}

theorem readElem_bytes (hw : s.writes = []) (c a place chunk : Nat) (hi : Bool) (hc : 1 ≤ c) :
    readElem s v sp a (8 * c) hi place chunk = leNat ((s.mem sp).read (flatOf v sp a) c) := by
  have hsize : max 1 (8 * c / 8) = c := by omega
  unfold readElem
  dsimp only
  rw [if_neg (by omega), readBytes_of_no_writes hw, hsize]

theorem readElem_nibble (hw : s.writes = []) (a place chunk : Nat) (hi : Bool) :
    readElem s v sp a 4 hi place chunk = ((s.mem sp).get (flatOf v sp a)).toNat / (if hi then 16 else 1) % 16 := by
  have hread : leNat ((s.mem sp).read (flatOf v sp a) (max 1 (4 / 8))) = ((s.mem sp).get (flatOf v sp a)).toNat := by
    simp [Memory.read, leNat]
  have hlt := ((s.mem sp).get (flatOf v sp a)).isLt
  unfold readElem
  dsimp only
  rw [if_pos rfl, readBytes_of_no_writes hw, hread]
  cases hi with
  | true =>
    rw [if_pos rfl, if_pos rfl]
    exact (Nat.mod_eq_of_lt (by omega)).symm
  | false => rw [if_neg Bool.false_ne_true, if_neg Bool.false_ne_true, Nat.div_one]

/-- With no write unseen an element is read of memory itself. -/
theorem readElem_eq_runElem (hw : s.writes = []) {eb : Nat} (heb : RunBits eb) (ea i place chunk : Nat) :
    readElem s v sp (Machine.slotOf ea eb i).1 eb (Machine.slotOf ea eb i).2 place chunk = Stated.runElem (s.mem sp) (flatOf v sp ea) eb i := by
  have haddr : flatOf v sp (Machine.slotOf ea eb i).1 = flatOf v sp ea + i * eb / 8 := flatOf_add ..
  obtain rfl | ⟨c, hc, rfl⟩ := heb
  · rw [readElem_nibble hw, haddr]
    rfl
  · rw [readElem_bytes hw _ _ _ _ _ hc, haddr, Stated.runElem, memElem_bytes]

/-- The stores of a run. -/
theorem storeElems_stores {eb ea n mask : Nat} (heb : RunBits eb) (hn : 2 ∣ n) {f : Nat → Nat × Nat} (ch : Nat → Nat) {flags : Nat}
    (hflags : Stated.FlagsOf flags n mask f) :
    Stated.Stores ⟨[], flags, storeElems s v sp eb ((onList n mask).map (fun i =>
        (ch i, (Machine.slotOf ea eb i).1, (Machine.slotOf ea eb i).2, (f i).1))), none⟩ sp (s.mem sp) (flatOf v sp ea) eb n mask f := by
  obtain rfl | ⟨c, -, rfl⟩ := heb
  · obtain ⟨n, rfl⟩ := hn
    have hwrites : storeElems s v sp 4 ((onList (2 * n) mask).map (fun i =>
        (ch i, (Machine.slotOf ea 4 i).1, (Machine.slotOf ea 4 i).2, (f i).1)))
        = ((List.range n).filter (activeByte mask)).map (byteWrite s v sp ea mask ch (fun i => (f i).1)) := by
      rw [storeElems, if_pos rfl, onList, List.range_eq_range', List.range_eq_range']
      exact mergeNibbles_range s v sp ea mask ch (fun i => (f i).1) n 0
    refine ⟨rfl, rfl, hflags, fun w hw => ?_, fun hmem => ?_⟩
    · obtain ⟨j, -, rfl⟩ := List.mem_map.mp (hwrites ▸ hw)
      rfl
    · rw [stored_map (W := byteWrite s v sp ea mask ch (fun i => (f i).1)) hwrites]
      simp only [byteWrite, flatOf_add]
      exact stored_nibbles (fun i => (f i).1) hmem
  · have hwrites : storeElems s v sp (8 * c) ((onList n mask).map (fun i =>
        (ch i, (Machine.slotOf ea (8 * c) i).1, (Machine.slotOf ea (8 * c) i).2, (f i).1)))
        = (onList n mask).map (fun i => ⟨ch i, sp, flatOf v sp ea + i * c, bytesOfNat (f i).1 c⟩) := by
      rw [storeElems, if_neg (by omega), List.map_map]
      refine List.map_congr_left fun i _ => ?_
      have haddr : flatOf v sp (Machine.slotOf ea (8 * c) i).1 = flatOf v sp ea + i * c := by
        rw [Machine.slotOf, flatOf_add, Nat.mul_left_comm, Nat.mul_div_cancel_left _ (by omega)]
      dsimp only [Function.comp_apply]
      rw [haddr, Nat.mul_div_cancel_left c (by omega)]
    refine ⟨rfl, rfl, hflags, fun w hw => ?_, fun hmem => ?_⟩
    · obtain ⟨j, -, rfl⟩ := List.mem_map.mp (hwrites ▸ hw)
      rfl
    · rw [stored_map hwrites]
      exact stored_bytes (fun i => (f i).1) hmem

theorem badActive_none (hbad : badOf s sp = []) (slots : List (Nat × Nat × Bool)) (bytes : Nat) : badActive s v sp slots bytes = none := by
  rw [badActive, hbad]
  rfl

theorem loadRaw_gives (hw : s.writes = []) (hbad : badOf s sp = []) (d : Fin 32) (t : VT) (mask ea : Nat) :
    Stated.Elements (loadRaw s v sp d t mask ea) d (vtBits t) mask (fun i => (Stated.runElem (s.mem sp) (flatOf v sp ea) (vtBits t) i, 0)) := by
  refine elements_of_eq ?_ fun i _ _ => congrArg (·, 0) (readElem_eq_runElem hw (runBits_vtBits t) ea i (100 + i) (chunkOf t i))
  unfold loadRaw
  dsimp only
  rw [badActive_none hbad]
  rfl

theorem two_dvd_vtCount (t : VT) : 2 ∣ vtCount t := group_dvd_vtCount t (Or.inl rfl)

theorem storeRaw_stores (t : VT) (mask ea : Nat) (x : VReg) :
    Stated.Stores (storeRaw s v sp t mask ea x) sp (s.mem sp) (flatOf v sp ea) (vtBits t) (vtCount t) mask (fun i => (elemGet x (vtBits t) i, 0)) :=
  storeElems_stores (runBits_vtBits t) (two_dvd_vtCount t) (chunkOf t) (flagsOf_zero _ _ _)

end

/-! ### The access of an operation -/

section
variable {s : State} {o : Op} {c : Ctx} {j : Job} (hc : s.ctxs.get? o.ctx = some c) (hj : s.job? c.job = some j)
include hc

theorem accessOf_ctx : (accessOf s o).job = c.job ∧ (accessOf s o).vcore = c.vcore := by
  have hget : s.ctxs.getD o.ctx Ctx.idle = c := by rw [Map.getD, hc]; rfl
  rw [accessOf, hget]
  exact ⟨rfl, rfl⟩

theorem flatOf_access_loc (a : Nat) : flatOf (accessOf s o) .loc a = locAddr c.job c.vcore a := by
  obtain ⟨h1, h2⟩ := accessOf_ctx hc
  rw [flatOf, h1, h2]

theorem flatOf_access_scratch (a : Nat) : flatOf (accessOf s o) .scratch a = scratchAddr c.job (c.vcore / 8) a := by
  obtain ⟨h1, h2⟩ := accessOf_ctx hc
  have hflat : flatOf (accessOf s o) .scratch a = scratchAddr (accessOf s o).job ((accessOf s o).vcore / 8) a := rfl
  rw [hflat, h1, h2]

include hj

theorem spaceEnd_access_loc : spaceEnd s (accessOf s o) .loc = min 0x10000 (4096 * j.lsize) := by
  have hjob : s.job? (accessOf s o).job = some j := by rw [(accessOf_ctx hc).1, hj]
  unfold spaceEnd
  rw [hjob]
  rfl

theorem spaceEnd_access_scratch : spaceEnd s (accessOf s o) .scratch = min 0x100000 (65536 * j.tbanks) := by
  have hjob : s.job? (accessOf s o).job = some j := by rw [(accessOf_ctx hc).1, hj]
  unfold spaceEnd
  rw [hjob]
  rfl

end

theorem faultsWith_ofFault (c : Cause) (arg : Nat) : Stated.FaultsWith (.ofFault c (BitVec.ofNat 64 arg)) c arg := ⟨rfl, rfl, rfl⟩

/-! ### `vld.l` and `vst.l` (R129) -/

theorem localVectorAccesses : Stated.LocalVectorAccesses := by
  unfold Stated.LocalVectorAccesses
  intro s o reg d a t k m c j hc hj
  have hend := spaceEnd_access_loc hc hj
  have hbase := flatOf_access_loc hc o.a.toNat
  have hld : vectorEffect s o (.vldL d a t k m) reg = vectorLoadLocal s (accessOf s o) d t o.mask.toNat o.a.toNat := rfl
  have hst : vectorEffect s o (.vstL d a t k m) reg = vectorStoreLocal s (accessOf s o) t o.mask.toNat o.a.toNat (reg d) := rfl
  dsimp only
  refine ⟨fun hout => ?_, fun hin hmis => ?_, fun hin hal => ?_⟩
  · have hrange : localRange s (accessOf s o) t o.a.toNat = some (.laddr, BitVec.ofNat 64 o.a.toNat) := by
      rw [localRange, hend, if_pos hout]
    rw [hld, hst, vectorLoadLocal, vectorStoreLocal, hrange]
    exact ⟨faultsWith_ofFault .., faultsWith_ofFault ..⟩
  · have hrange : localRange s (accessOf s o) t o.a.toNat = some (.align, BitVec.ofNat 64 o.a.toNat) := by
      rw [localRange, hend, if_neg (not_lt.mpr hin), if_pos hmis]
    rw [hld, hst, vectorLoadLocal, vectorStoreLocal, hrange]
    exact ⟨faultsWith_ofFault .., faultsWith_ofFault ..⟩
  · have hrange : localRange s (accessOf s o) t o.a.toNat = none := by
      rw [localRange, hend, if_neg (not_lt.mpr hin), if_neg (not_not.mpr hal)]
    rw [hld, hst, vectorLoadLocal, vectorStoreLocal, hrange]
    dsimp only
    rw [← hbase]
    exact ⟨fun hw hbad => loadRaw_gives (sp := .loc) hw hbad d t _ _, storeRaw_stores t _ _ _⟩

/-! ### The descriptor of a bank (R41, R42, R130) -/

theorem bankOf_eq (o : Op) (ea : Nat) : Stated.bankOf o ea = bankDesc o.fmts ea := rfl

theorem plainBank_eq (b : Nat) : Stated.plainBank b = movesRaw b := rfl

theorem descKind_lt (b : Nat) : descKind b < 8 := Nat.mod_lt _ (by decide)

/-- A descriptor that converts is valid and of another kind than 3 and 7. -/
theorem movesRaw_false {b : Nat} (h : movesRaw b = false) : descValid b = true ∧ descKind b ≠ 3 ∧ descKind b ≠ 7 := by
  simpa [movesRaw, and_assoc] using h

theorem bankBits_raw {b : Nat} (h : movesRaw b = true) : Stated.bankBits b = 8 := if_pos h

theorem bankBits_converting {b : Nat} (h : movesRaw b = false) : Stated.bankBits b = descBits b := by
  obtain ⟨-, h3, h7⟩ := movesRaw_false h
  have hlt := descKind_lt b
  rw [Stated.bankBits, plainBank_eq, h, if_neg Bool.false_ne_true]
  unfold descBits descW4
  generalize descKind b = kind at *
  interval_cases kind <;> simp_all

theorem descBits_raw {b : Nat} (h : movesRaw b = true) (hv : descValid b = true) : descBits b = 8 := by
  have hk : descKind b = 3 ∨ descKind b = 7 := by simpa [movesRaw, hv] using h
  unfold descBits
  obtain hk | hk := hk <;> rw [hk] <;> rfl

/-- No format has no exponent: the descriptor 0 is invalid. -/
theorem descValid_zero : descValid 0 = false := by decide

theorem descBytes_eq (b : Nat) : descBytes b = max 1 (Stated.bankBits b / 8) := by
  unfold descBytes
  cases hv : descValid b with
  | false =>
    have hraw : movesRaw b = true := by simp [movesRaw, hv]
    rw [if_pos (by simp), bankBits_raw hraw]
    rfl
  | true =>
    have hb : b ≠ 0 := fun h => by
      rw [h, descValid_zero] at hv
      exact Bool.false_ne_true hv
    rw [if_neg (by simpa using hb)]
    cases hraw : movesRaw b with
    | true => rw [bankBits_raw hraw, descBits_raw hraw hv]
    | false => rw [bankBits_converting hraw]

/-- The bits of a converting bank's element. -/
theorem runBits_descBits {b : Nat} (h : movesRaw b = false) : RunBits (descBits b) := by
  obtain ⟨-, h3, h7⟩ := movesRaw_false h
  have hlt := descKind_lt b
  have h8 : RunBits 8 := Or.inr ⟨1, by decide, rfl⟩
  have h16 : RunBits 16 := Or.inr ⟨2, by decide, rfl⟩
  have h32 : RunBits 32 := Or.inr ⟨4, by decide, rfl⟩
  have hnarrow : RunBits (if descW4 b then 4 else 8) := by
    cases descW4 b with
    | true => exact Or.inl rfl
    | false => exact h8
  unfold descBits
  generalize descKind b = kind at *
  interval_cases kind
  · exact hnarrow
  · exact hnarrow
  · exact hnarrow
  · exact absurd rfl h3
  · exact h32
  · exact h16
  · exact h16
  · exact absurd rfl h7

theorem fromBank_eq (t : VT) (vf rm b bits : Nat) : fromBank t vf rm b bits = Stated.loadedAs t vf rm b bits := by
  unfold fromBank Stated.loadedAs
  dsimp only
  rw [vtEncode_eq_encodedAs]

theorem toBank_eq (t : VT) (vf b bits : Nat) : toBank t vf b bits = Stated.storedAs t vf b bits := by
  unfold toBank Stated.storedAs
  dsimp only
  rw [vtDecode_eq_valueOf, vtIntLike_eq_integral]

/-! ### `vld.t` and `vst.t` (R130, R132) -/

/-- The bytes a tile access spans. -/
def footprint (t : VT) (b : Nat) : Nat := if movesRaw b then 512 else vtCount t * descBits b / 8

theorem footprint_def (t : VT) (b : Nat) : (if movesRaw b = true then 512 else vtCount t * descBits b / 8) = footprint t b := rfl

theorem footprint_pos (t : VT) (b : Nat) : 1 ≤ footprint t b := by
  have hcount : 128 ≤ vtCount t := by cases t <;> decide
  unfold footprint
  split
  · omega
  · next h =>
    have hbits : 4 ≤ descBits b := by
      obtain h4 | ⟨c, hc, h8⟩ := runBits_descBits (Bool.not_eq_true _ ▸ h) <;> omega
    have := Nat.mul_le_mul hcount hbits
    omega

/-- Every bank that a footprint touches has one descriptor. -/
def OneFormat (fmts : List Word) (b ea foot : Nat) : Prop :=
  descValid b = true ∧ ∀ p, ea / 65536 ≤ p → p ≤ (ea + foot - 1) / 65536 → (fmts.getD p 0).toNat = b

theorem oneFormat_iff {fmts : List Word} {b ea foot : Nat} (hfoot : 1 ≤ foot) : OneFormat fmts b ea foot ↔
    ¬(!descValid b || (List.range ((ea + foot - 1) / 65536 - ea / 65536 + 1)).any (fun k => (fmts.getD (ea / 65536 + k) 0).toNat != b)) = true := by
  have hle : ea / 65536 ≤ (ea + foot - 1) / 65536 := Nat.div_le_div_right (by omega)
  simp only [Bool.or_eq_true, Bool.not_eq_true', List.any_eq_true, List.mem_range, bne_iff_ne, not_or, not_exists, not_and, not_not, OneFormat,
    Bool.not_eq_false]
  refine and_congr_right fun _ => ⟨fun h k hk => h _ (by omega) (by omega), fun h p hp1 hp2 => ?_⟩
  have := h (p - ea / 65536) (by omega)
  rwa [Nat.add_sub_cancel' hp1] at this

section
variable {s : State} {v : VAccess} {fmts : List Word} {ea foot : Nat}

theorem tileRange_taddr (h : spaceEnd s v .scratch < ea + foot) : tileRange s v fmts ea foot = some (.taddr, BitVec.ofNat 64 ea) := by
  rw [tileRange, if_pos h]

theorem tileRange_align (h : ea + foot ≤ spaceEnd s v .scratch) (hmis : ea % descBytes (bankDesc fmts ea) ≠ 0) :
    tileRange s v fmts ea foot = some (.align, BitVec.ofNat 64 ea) := by
  rw [tileRange, if_neg (not_lt.mpr h), if_pos hmis]

theorem tileRange_bankfmt (hfoot : 1 ≤ foot) (h : ea + foot ≤ spaceEnd s v .scratch) (hal : ea % descBytes (bankDesc fmts ea) = 0)
    (hfmt : ¬OneFormat fmts (bankDesc fmts ea) ea foot) : tileRange s v fmts ea foot = some (.bankfmt, BitVec.ofNat 64 ea) := by
  rw [tileRange, if_neg (not_lt.mpr h), if_neg (not_not.mpr hal), if_pos (not_not.mp (mt (oneFormat_iff hfoot).mpr hfmt))]

theorem tileRange_none (hfoot : 1 ≤ foot) (h : ea + foot ≤ spaceEnd s v .scratch) (hal : ea % descBytes (bankDesc fmts ea) = 0)
    (hfmt : OneFormat fmts (bankDesc fmts ea) ea foot) : tileRange s v fmts ea foot = none := by
  rw [tileRange, if_neg (not_lt.mpr h), if_neg (not_not.mpr hal), if_neg ((oneFormat_iff hfoot).mp hfmt)]

section
variable (d : Fin 32) (t : VT) (vf rm mask : Nat) (x : VReg)

theorem vectorLoadTile_fault {f : Cause × Word} (h : tileRange s v fmts ea (footprint t (bankDesc fmts ea)) = some f) :
    vectorLoadTile s v fmts d t vf rm mask ea = .ofFault f.1 f.2 := by
  unfold vectorLoadTile
  dsimp only
  rw [footprint_def, h]

theorem vectorStoreTile_fault {f : Cause × Word} (h : tileRange s v fmts ea (footprint t (bankDesc fmts ea)) = some f) :
    vectorStoreTile s v fmts t vf mask ea x = .ofFault f.1 f.2 := by
  unfold vectorStoreTile
  dsimp only
  rw [footprint_def, h]

variable (h : tileRange s v fmts ea (footprint t (bankDesc fmts ea)) = none)
include h

theorem vectorLoadTile_raw (hraw : movesRaw (bankDesc fmts ea) = true) :
    vectorLoadTile s v fmts d t vf rm mask ea = loadRaw s v .scratch d t mask ea := by
  unfold vectorLoadTile
  dsimp only
  rw [footprint_def, h]
  exact if_pos hraw

theorem vectorLoadTile_converts (hraw : movesRaw (bankDesc fmts ea) = false) (hw : s.writes = []) (hbad : s.eccScratch = []) :
    Stated.Elements (vectorLoadTile s v fmts d t vf rm mask ea) d (vtBits t) mask
      (fun i => Stated.loadedAs t vf rm (bankDesc fmts ea) (Stated.runElem s.scratch (flatOf v .scratch ea) (descBits (bankDesc fmts ea)) i)) := by
  refine elements_of_eq ?_ fun i _ _ => (fromBank_eq ..).trans (congrArg (Stated.loadedAs t vf rm (bankDesc fmts ea))
    (readElem_eq_runElem (sp := .scratch) (v := v) hw (runBits_descBits hraw) ea i (100 + i) (chunkOf t i)))
  unfold vectorLoadTile
  dsimp only
  rw [footprint_def, h]
  dsimp only
  rw [if_neg (by rw [hraw]; exact Bool.false_ne_true), badActive_none (sp := .scratch) hbad]
  rfl

theorem vectorStoreTile_raw (hraw : movesRaw (bankDesc fmts ea) = true) :
    vectorStoreTile s v fmts t vf mask ea x = storeRaw s v .scratch t mask ea x := by
  unfold vectorStoreTile
  dsimp only
  rw [footprint_def, h]
  exact if_pos hraw

theorem vectorStoreTile_converts (hraw : movesRaw (bankDesc fmts ea) = false) :
    Stated.Stores (vectorStoreTile s v fmts t vf mask ea x) .scratch s.scratch (flatOf v .scratch ea) (descBits (bankDesc fmts ea)) (vtCount t) mask
      (fun i => Stated.storedAs t vf (bankDesc fmts ea) (elemGet x (vtBits t) i)) := by
  have hstores := storeElems_stores (s := s) (v := v) (sp := .scratch) (ea := ea) (runBits_descBits hraw) (two_dvd_vtCount t) (chunkOf t)
    (flagsOf_onList (vtCount t) mask (fun i => Stated.storedAs t vf (bankDesc fmts ea) (elemGet x (vtBits t) i)))
  have heffect : vectorStoreTile s v fmts t vf mask ea x = ⟨[], orFlags ((onList (vtCount t) mask).map
        (fun i => Stated.storedAs t vf (bankDesc fmts ea) (elemGet x (vtBits t) i))),
      storeElems s v .scratch (descBits (bankDesc fmts ea)) ((onList (vtCount t) mask).map (fun i =>
        (chunkOf t i, (Machine.slotOf ea (descBits (bankDesc fmts ea)) i).1, (Machine.slotOf ea (descBits (bankDesc fmts ea)) i).2,
          (Stated.storedAs t vf (bankDesc fmts ea) (elemGet x (vtBits t) i)).1))), none⟩ := by
    unfold vectorStoreTile
    dsimp only
    rw [footprint_def, h]
    dsimp only
    rw [if_neg (by rw [hraw]; exact Bool.false_ne_true), List.map_map, List.map_map]
    simp only [toBank_eq]
    rfl
  rw [heffect]
  exact hstores

end
end

theorem tileVectorAccesses : Stated.TileVectorAccesses := by
  unfold Stated.TileVectorAccesses
  intro s o reg d a t k m c j hc hj
  have hend := spaceEnd_access_scratch hc hj
  have hbase := flatOf_access_scratch hc o.a.toNat
  have hld : vectorEffect s o (.vldT d a t k m) reg = vectorLoadTile s (accessOf s o) o.fmts d t o.vfmt.toNat o.rm o.mask.toNat o.a.toNat := rfl
  have hst : vectorEffect s o (.vstT d a t k m) reg = vectorStoreTile s (accessOf s o) o.fmts t o.vfmt.toNat o.mask.toNat o.a.toNat (reg d) := rfl
  have hfoot : (if Stated.plainBank (Stated.bankOf o o.a.toNat) then 512 else vtCount t * Stated.bankBits (Stated.bankOf o o.a.toNat) / 8)
      = footprint t (bankDesc o.fmts o.a.toNat) := by
    rw [bankOf_eq, plainBank_eq, footprint]
    cases hraw : movesRaw (bankDesc o.fmts o.a.toNat) with
    | true => rfl
    | false => rw [bankBits_converting hraw]
  have hpos := footprint_pos t (bankDesc o.fmts o.a.toNat)
  dsimp only
  rw [hfoot, hld, hst, ← hend, ← hbase, bankOf_eq, plainBank_eq, ← descBytes_eq]
  refine ⟨fun hout => ?_, fun hin hmis => ?_, fun hin hal hfmt => ?_, fun hin hal hfmt => ?_⟩
  · rw [vectorLoadTile_fault _ _ _ _ _ (tileRange_taddr hout), vectorStoreTile_fault _ _ _ _ (tileRange_taddr hout)]
    exact ⟨faultsWith_ofFault .., faultsWith_ofFault ..⟩
  · rw [vectorLoadTile_fault _ _ _ _ _ (tileRange_align hin hmis), vectorStoreTile_fault _ _ _ _ (tileRange_align hin hmis)]
    exact ⟨faultsWith_ofFault .., faultsWith_ofFault ..⟩
  · rw [vectorLoadTile_fault _ _ _ _ _ (tileRange_bankfmt hpos hin hal hfmt), vectorStoreTile_fault _ _ _ _ (tileRange_bankfmt hpos hin hal hfmt)]
    exact ⟨faultsWith_ofFault .., faultsWith_ofFault ..⟩
  · have hnone := tileRange_none hpos hin hal hfmt
    refine ⟨fun hw hbad => ?_, fun hraw => ?_, fun hraw => ?_⟩
    · cases hraw : movesRaw (bankDesc o.fmts o.a.toNat) with
      | true =>
        rw [vectorLoadTile_raw _ _ _ _ _ hnone hraw]
        exact loadRaw_gives (sp := .scratch) hw hbad d t _ _
      | false =>
        rw [bankBits_converting hraw]
        exact vectorLoadTile_converts d t _ _ _ hnone hraw hw hbad
    · rw [vectorStoreTile_raw _ _ _ _ hnone hraw]
      exact storeRaw_stores t _ _ _
    · rw [bankBits_converting hraw]
      exact vectorStoreTile_converts _ _ _ _ hnone hraw

/-! ### `vldx.t` and `vstx.t` (R131, R132) -/

theorem descBytes_pos (b : Nat) : 1 ≤ descBytes b := by
  rw [descBytes_eq]
  exact le_max_left ..

/-- Elements of a valid descriptor are nibbles or not, whether they move raw or convert. -/
theorem descBits_eq_bankBits {b : Nat} (hv : descValid b = true) : descBits b = Stated.bankBits b := by
  cases hraw : movesRaw b with
  | true => rw [bankBits_raw hraw, descBits_raw hraw hv]
  | false => rw [bankBits_converting hraw]

section
variable {s : State} {v : VAccess} {fmts : List Word} {base es n mask : Nat} {A : Nat → Nat}

/-- What an indexed access reaches fits its job. -/
def ReachFits (s : State) (v : VAccess) (es n mask : Nat) (A : Nat → Nat) : Prop :=
  ∀ i, i < n ∧ mask.testBit i = true → A i + es ≤ spaceEnd s v .scratch

/-- What an indexed access reaches has one format, of whole bytes. -/
def ReachFormat (fmts : List Word) (b n mask : Nat) (A : Nat → Nat) : Prop :=
  descValid b = true ∧ Stated.bankBits b ≠ 4 ∧ ∀ i, i < n ∧ mask.testBit i = true → (fmts.getD (A i / 65536) 0).toNat = b

theorem reachFits_iff : ReachFits s v es n mask A ↔ ¬((onList n mask).map A).any (fun a => decide (spaceEnd s v .scratch < a + es)) = true := by
  simp only [List.any_map, List.any_eq_true, mem_onList, Function.comp_apply, decide_eq_true_eq, not_exists, not_and, not_lt, ReachFits, and_imp]

theorem reachFormat_iff {b : Nat} : ReachFormat fmts b n mask A ↔
    ¬(!descValid b || descBits b == 4 || ((onList n mask).map A).any (fun a => (fmts.getD (a / 65536) 0).toNat != b)) = true := by
  simp only [List.any_map, Bool.or_eq_true, Bool.not_eq_true', List.any_eq_true, mem_onList, Function.comp_apply, bne_iff_ne, beq_iff_eq, not_or,
    not_exists, not_and, not_not, ReachFormat, Bool.not_eq_false, and_imp, and_assoc]
  exact and_congr_right fun hv => by rw [descBits_eq_bankBits hv]

theorem gatherRange_taddr (h : ¬ReachFits s v es n mask A) :
    gatherRange s v fmts base es ((onList n mask).map A) = some (.taddr, BitVec.ofNat 64 base) := by
  rw [gatherRange, if_pos (not_not.mp (mt reachFits_iff.mpr h))]

theorem gatherRange_align (h : ReachFits s v es n mask A) (hmis : base % es ≠ 0) :
    gatherRange s v fmts base es ((onList n mask).map A) = some (.align, BitVec.ofNat 64 base) := by
  rw [gatherRange, if_neg (reachFits_iff.mp h), if_pos hmis]

theorem gatherRange_bankfmt (h : ReachFits s v es n mask A) (hal : base % es = 0) (hfmt : ¬ReachFormat fmts (bankDesc fmts base) n mask A) :
    gatherRange s v fmts base es ((onList n mask).map A) = some (.bankfmt, BitVec.ofNat 64 base) := by
  rw [gatherRange, if_neg (reachFits_iff.mp h), if_neg (not_not.mpr hal), if_pos (not_not.mp (mt reachFormat_iff.mpr hfmt))]

theorem gatherRange_none (h : ReachFits s v es n mask A) (hal : base % es = 0) (hfmt : ReachFormat fmts (bankDesc fmts base) n mask A) :
    gatherRange s v fmts base es ((onList n mask).map A) = none := by
  rw [gatherRange, if_neg (reachFits_iff.mp h), if_neg (not_not.mpr hal), if_neg (reachFormat_iff.mp hfmt)]

end

section
variable {s : State} {v : VAccess} {fmts : List Word} {base : Nat} (d : Fin 32) (t : VT) (vf rm mask : Nat) (idx x : VReg)

/-- The check of an indexed access. -/
def reachCheck (s : State) (v : VAccess) (fmts : List Word) (t : VT) (mask base : Nat) (idx : VReg) : Option (Cause × Word) :=
  gatherRange s v fmts base (descBytes (bankDesc fmts base)) ((onList (vtCount t) mask).map (gatherAddr base (descBytes (bankDesc fmts base)) idx))

theorem vectorGather_fault {f : Cause × Word} (h : reachCheck s v fmts t mask base idx = some f) :
    vectorGather s v fmts d t vf rm mask base idx = .ofFault f.1 f.2 := by
  have h' : gatherRange s v fmts base (descBytes (bankDesc fmts base))
    ((activeIdx t mask).map (gatherAddr base (descBytes (bankDesc fmts base)) idx)) = some f := h
  unfold vectorGather
  dsimp only
  rw [h']

theorem vectorScatter_fault {f : Cause × Word} (h : reachCheck s v fmts t mask base idx = some f) :
    vectorScatter s v fmts t vf mask base idx x = .ofFault f.1 f.2 := by
  have h' : gatherRange s v fmts base (descBytes (bankDesc fmts base))
    ((activeIdx t mask).map (gatherAddr base (descBytes (bankDesc fmts base)) idx)) = some f := h
  unfold vectorScatter
  dsimp only
  rw [h']

/-- What an indexed load makes of the bits it reads. -/
def gathered (t : VT) (vf rm b bits : Nat) : Nat × Nat := if Stated.plainBank b then (bits, 0) else Stated.loadedAs t vf rm b bits

/-- What an indexed store makes of an element. -/
def scattered (t : VT) (vf b bits : Nat) : Nat × Nat := if Stated.plainBank b then (bits % 256, 0) else Stated.storedAs t vf b bits

section
variable (h : reachCheck s v fmts t mask base idx = none)
include h

theorem vectorGather_gives (hw : s.writes = []) (hbad : s.eccScratch = []) :
    Stated.Elements (vectorGather s v fmts d t vf rm mask base idx) d (vtBits t) mask (fun i => gathered t vf rm (bankDesc fmts base)
      (leNat (s.scratch.read (flatOf v .scratch (gatherAddr base (descBytes (bankDesc fmts base)) idx i)) (descBytes (bankDesc fmts base))))) := by
  have h' : gatherRange s v fmts base (descBytes (bankDesc fmts base))
    ((activeIdx t mask).map (gatherAddr base (descBytes (bankDesc fmts base)) idx)) = none := h
  have hread (i : Nat) := readElem_bytes (sp := .scratch) (v := v) hw (descBytes (bankDesc fmts base))
    (gatherAddr base (descBytes (bankDesc fmts base)) idx i) (100 + i) i false (descBytes_pos _)
  refine elements_of_eq (f := fun i => gathered t vf rm (bankDesc fmts base) (readElem s v .scratch
    (gatherAddr base (descBytes (bankDesc fmts base)) idx i) (8 * descBytes (bankDesc fmts base)) false (100 + i) i)) ?_
    fun i _ _ => congrArg (gathered t vf rm (bankDesc fmts base)) (hread i)
  unfold vectorGather
  dsimp only
  rw [h']
  dsimp only
  rw [badActive_none (sp := .scratch) hbad]
  simp only [fromBank_eq]
  rfl

/-- The stores of an indexed access, in the order of their elements. -/
theorem vectorScatter_eq : vectorScatter s v fmts t vf mask base idx x
    = ⟨[], orFlags ((onList (vtCount t) mask).map (fun i => scattered t vf (bankDesc fmts base) (elemGet x (vtBits t) i))),
      (onList (vtCount t) mask).map (fun i => ⟨i, .scratch, flatOf v .scratch (gatherAddr base (descBytes (bankDesc fmts base)) idx i),
        bytesOfNat (scattered t vf (bankDesc fmts base) (elemGet x (vtBits t) i)).1 (descBytes (bankDesc fmts base))⟩), none⟩ := by
  have h' : gatherRange s v fmts base (descBytes (bankDesc fmts base))
    ((activeIdx t mask).map (gatherAddr base (descBytes (bankDesc fmts base)) idx)) = none := h
  have hpos := descBytes_pos (bankDesc fmts base)
  unfold vectorScatter
  dsimp only
  rw [h']
  dsimp only
  rw [storeElems, if_neg (by omega), List.map_map, List.map_map, List.map_map, Nat.mul_div_cancel_left _ (by omega)]
  simp only [toBank_eq]
  rfl

end

/-- Places of an index that differ lie apart. -/
theorem gatherAddr_apart {es i i' : Nat} (h : gatherAddr base es idx i' ≠ gatherAddr base es idx i) :
    gatherAddr base es idx i + es ≤ gatherAddr base es idx i' ∨ gatherAddr base es idx i' + es ≤ gatherAddr base es idx i := by
  have hstep {a b : Nat} (hab : a < b) : base + a * es + es ≤ base + b * es := by
    have := Nat.mul_le_mul_right es hab
    rw [Nat.succ_mul] at this
    omega
  have hne : elemGet idx 16 i' ≠ elemGet idx 16 i := fun heq => h (by rw [gatherAddr, gatherAddr, heq])
  obtain hlt | hlt := Nat.lt_or_gt_of_ne hne
  · exact Or.inr (hstep hlt)
  · exact Or.inl (hstep hlt)

end

theorem flatOf_scratch_apart {v : VAccess} {a a' n : Nat} (h : a + n ≤ a' ∨ a' + n ≤ a) :
    flatOf v .scratch a + n ≤ flatOf v .scratch a' ∨ flatOf v .scratch a' + n ≤ flatOf v .scratch a := by
  have hflat (b : Nat) : flatOf v .scratch b = flatOf v .scratch 0 + b := by rw [← flatOf_add, Nat.zero_add]
  rw [hflat a, hflat a']
  omega

theorem indexedVectorAccesses : Stated.IndexedVectorAccesses := by
  unfold Stated.IndexedVectorAccesses
  intro s o reg d a x t k m c j hc hj _
  have hend := spaceEnd_access_scratch hc hj
  have hflat := flatOf_access_scratch hc
  have hld : vectorEffect s o (.vldxT d a x t k m) reg
      = vectorGather s (accessOf s o) o.fmts d t o.vfmt.toNat o.rm o.mask.toNat o.a.toNat (reg x) := rfl
  have hst : vectorEffect s o (.vstxT d a x t k m) reg
      = vectorScatter s (accessOf s o) o.fmts t o.vfmt.toNat o.mask.toNat o.a.toNat (reg x) (reg d) := rfl
  dsimp only
  simp only [← hflat]
  rw [hld, hst, ← hend, bankOf_eq, ← descBytes_eq]
  refine ⟨fun hfits => ?_, fun hfits hmis => ?_, fun hfits hal hfmt => ?_, fun hfits hal hfmt => ?_⟩
  · have hcheck : reachCheck s (accessOf s o) o.fmts t o.mask.toNat o.a.toNat (reg x) = _ := gatherRange_taddr hfits
    rw [vectorGather_fault _ _ _ _ _ _ hcheck, vectorScatter_fault _ _ _ _ _ hcheck]
    exact ⟨faultsWith_ofFault .., faultsWith_ofFault ..⟩
  · have hcheck : reachCheck s (accessOf s o) o.fmts t o.mask.toNat o.a.toNat (reg x) = _ := gatherRange_align hfits hmis
    rw [vectorGather_fault _ _ _ _ _ _ hcheck, vectorScatter_fault _ _ _ _ _ hcheck]
    exact ⟨faultsWith_ofFault .., faultsWith_ofFault ..⟩
  · have hcheck : reachCheck s (accessOf s o) o.fmts t o.mask.toNat o.a.toNat (reg x) = _ := gatherRange_bankfmt hfits hal hfmt
    rw [vectorGather_fault _ _ _ _ _ _ hcheck, vectorScatter_fault _ _ _ _ _ hcheck]
    exact ⟨faultsWith_ofFault .., faultsWith_ofFault ..⟩
  · have hcheck : reachCheck s (accessOf s o) o.fmts t o.mask.toNat o.a.toNat (reg x) = none := gatherRange_none hfits hal hfmt
    refine ⟨fun hw hbad => vectorGather_gives d t _ _ _ _ hcheck hw hbad, ?_⟩
    rw [vectorScatter_eq _ _ _ _ _ hcheck]
    refine ⟨rfl, rfl, flagsOf_onList _ _ _, fun w hw => ?_, fun hmem => ⟨fun i hi hlast => ?_, fun p hp => ?_⟩⟩
    · obtain ⟨i, -, rfl⟩ := List.mem_map.mp hw
      rfl
    · rw [stored_map rfl]
      have hread := read_writeAll_last (A := fun i => flatOf (accessOf s o) .scratch
          (gatherAddr o.a.toNat (descBytes (bankDesc o.fmts o.a.toNat)) (reg x) i))
        (B := fun i => bytesOfNat (scattered t o.vfmt.toNat (bankDesc o.fmts o.a.toNat) (elemGet (reg d) (vtBits t) i)).1
          (descBytes (bankDesc o.fmts o.a.toNat))) (onList_sorted (vtCount t) o.mask.toNat) (mem_onList.mpr hi) (fun i' hi' hlt => by
          simp only [bytesOfNat_length]
          exact flatOf_scratch_apart (gatherAddr_apart _ (hlast i' (mem_onList.mp hi') hlt))) s.scratch hmem
      simp only [bytesOfNat_length] at hread
      exact (congrArg leNat hread).trans (leNat_bytesOfNat_bits ..)
    · rw [stored_map rfl]
      refine get_writeAll_outside (fun i hi => ?_) s.scratch
      simp only [bytesOfNat_length]
      exact hp i (mem_onList.mp hi)

/-! ### What a write of named elements leaves (R114) -/

theorem testBit_elemMask {w k : Nat} (hk : k < w) (i j : Nat) : ((2 ^ w - 1) <<< (w * j)).testBit (w * i + k) = decide (j = i) := by
  rw [Nat.testBit_shiftLeft, Nat.testBit_two_pow_sub_one]
  obtain hlt | rfl | hlt := Nat.lt_trichotomy j i
  · have := Nat.mul_le_mul_left w hlt
    rw [Nat.mul_succ] at this
    simp only [show ¬(w * i + k - w * j < w) from by omega, show ¬(j = i) from by omega, decide_false, Bool.and_false]
  · simp [hk]
  · have := Nat.mul_le_mul_left w hlt
    rw [Nat.mul_succ] at this
    simp only [show ¬(w * i + k ≥ w * j) from by omega, show ¬(j = i) from by omega, decide_false, Bool.false_and]

theorem testBit_elemBits {w i k : Nat} (m : Nat) (hi : i < 4096 / w) (hk : k < w) : (elemBits w m).testBit (w * i + k) = m.testBit i := by
  have hfold : elemBits w m = (((List.range (4096 / w)).filter m.testBit).map (fun j => (2 ^ w - 1) <<< (w * j))).foldl (fun a e => a ||| e) 0 :=
    foldl_masked m.testBit (fun j => (2 ^ w - 1) <<< (w * j)) (· ||| ·) _ 0
  rw [Bool.eq_iff_iff, hfold, testBit_foldl_or (fun e => e)]
  simp only [List.mem_map, List.mem_filter, List.mem_range, Nat.zero_testBit, Bool.false_eq_true, false_or]
  constructor
  · rintro ⟨_, ⟨j, ⟨-, hm⟩, rfl⟩, hb⟩
    rw [testBit_elemMask hk, decide_eq_true_eq] at hb
    rwa [← hb]
  · exact fun hm => ⟨_, ⟨i, ⟨hi, hm⟩, rfl⟩, by rw [testBit_elemMask hk, decide_eq_true rfl]⟩

theorem testBit_elemGet (v : VReg) (w i k : Nat) : (elemGet v w i).testBit k = (decide (k < w) && v.getLsbD (w * i + k)) := by
  rw [elemGet, Nat.testBit_mod_two_pow, Nat.testBit_div_two_pow, Nat.add_comm]
  rfl

/-- The elements a mask names are new, the others stay. -/
theorem elemGet_mergeElems {w i : Nat} (act : Nat) (old new : VReg) (hi : i < 4096 / w) :
    elemGet (mergeElems w act old new) w i = if act.testBit i then elemGet new w i else elemGet old w i := by
  refine Nat.eq_of_testBit_eq fun k => ?_
  have hfit := elem_fits hi
  rw [Nat.mul_succ] at hfit
  by_cases hk : k < w
  · have hlt : w * i + k < 4096 := by omega
    have hbits : (BitVec.ofNat 4096 (elemBits w act)).getLsbD (w * i + k) = act.testBit i := by
      rw [BitVec.getLsbD_ofNat, testBit_elemBits act hi hk, decide_eq_true hlt, Bool.true_and]
    have hmerge : (mergeElems w act old new).getLsbD (w * i + k) = if act.testBit i then new.getLsbD (w * i + k) else old.getLsbD (w * i + k) := by
      unfold mergeElems
      dsimp only
      rw [BitVec.getLsbD_or, BitVec.getLsbD_and, BitVec.getLsbD_and, BitVec.getLsbD_not, hbits, decide_eq_true hlt]
      cases act.testBit i <;> simp
    rw [testBit_elemGet, hmerge]
    split <;> rw [testBit_elemGet]
  · split <;> simp [testBit_elemGet, hk]

/-- Settles O19, function by function: the element-wise ones through `elements_elemwise`, the trees through `tree_map_range`, the reciprocals by the
nearest multiple of their grid, and the stores through the writes of their places. -/
theorem vectorElementResults : Obligations.VectorElementResults := by
  unfold Obligations.VectorElementResults
  exact ⟨integerElements, floatElements, movedElements, comparedElements, convertedElements, reducedElements, ternaryElements,
    specialFunctionElements, localVectorAccesses, tileVectorAccesses, indexedVectorAccesses, fun _ act old new _ _ hi =>
    elemGet_mergeElems act old new hi⟩

end Sys2Proof.Laws
end
